-- ==== Sys2Proof/Word.lean ====
section
/-! DEFINITION. The word types of the Dolquin and their plainest arithmetic: bytes, big- and
little-endian numbers (R10, R407), two's complement, saturation, and the sparse table that holds
numbered instances. -/

namespace Sys2Proof

set_option Elab.async false

/-- One byte. -/
abbrev Byte := BitVec 8

/-- A byte string, lowest offset first. -/
abbrev Bytes := List Byte

/-- The native 40-bit word; an internal pixel holds R [39:30], G [29:20], B [19:10], A [9:0] (R19). -/
abbrev Pixel := BitVec 40

/-- A byte from a natural number, modulo 256. -/
def byte (n : Nat) : Byte := BitVec.ofNat 8 n

/-- The number a byte string spells most significant byte first (R10, R407). -/
def beNat (bs : Bytes) : Nat := bs.foldl (fun acc b => acc * 256 + b.toNat) 0

/-- `len` bytes of `n`, most significant byte first (R10, R407). -/
def beBytes : Nat → Nat → Bytes
  | 0, _ => []
  | len + 1, n => byte (n / 256 ^ len) :: beBytes len n

/-- The number a byte string spells least significant byte first (R128). -/
def leNat : Bytes → Nat
  | [] => 0
  | b :: bs => b.toNat + 256 * leNat bs

/-- `len` bytes of `n`, least significant byte first (R128). -/
def leBytes : Nat → Nat → Bytes
  | 0, _ => []
  | len + 1, n => byte n :: leBytes len (n / 256)

/-- Bytes `off` to `off + len - 1` of a string; bytes past its end are missing. -/
def slice (bs : Bytes) (off len : Nat) : Bytes := (bs.drop off).take len

/-- The big-endian field of `len` bytes at offset `off`. -/
def field (bs : Bytes) (off len : Nat) : Nat := beNat (slice bs off len)

/-- Bits `hi` down to `lo` of `n` (R10). -/
def bits (n hi lo : Nat) : Nat := (n / 2 ^ lo) % 2 ^ (hi + 1 - lo)

/-- Bit `i` of `n`. -/
def bitAt (n i : Nat) : Bool := n.testBit i

/-- Set or clear bit `i` of `n`. -/
def withBit (n i : Nat) (b : Bool) : Nat :=
  if n.testBit i = b then n else if b then n + 2 ^ i else n - 2 ^ i

/-- The integer that a `w`-bit pattern spells in two's complement. -/
def toSigned (w n : Nat) : Int := if n < 2 ^ (w - 1) then (n : Int) else (n : Int) - (2 : Int) ^ w

/-- The `w`-bit two's complement pattern of an integer. -/
def ofSigned (w : Nat) (z : Int) : Nat := (z % ((2 : Int) ^ w)).toNat

/-- Addition that saturates at the largest `w`-bit number. -/
def satAdd (w a b : Nat) : Nat := min (a + b) (2 ^ w - 1)

/-- The least multiple of `m` not below `n`. -/
def roundUp (n m : Nat) : Nat := (n + m - 1) / m * m

/-- Ceiling division; 0 when the divisor is 0. -/
def ceilDiv' (a b : Nat) : Nat := if b = 0 then 0 else (a + b - 1) / b

/-- A byte string as text, for reason codes and names (R407: ASCII 0x20-0x7E). -/
def ascii (s : String) : Bytes := s.toList.map (fun c => byte c.toNat)

/-- Number of true elements. -/
def countTrue {α : Type} (p : α → Bool) (xs : List α) : Nat := (xs.filter p).length

/-! ### Sparse tables

A table holds the values written of numbered instances, in rising key order; what an unlisted instance
holds is its default. -/

/-- A sparse table from instance numbers to values. -/
abbrev Tbl (α : Type) := List (Nat × α)

/-- The value listed at `k`, if one is. -/
def Tbl.find {α : Type} : Tbl α → Nat → Option α
  | [], _ => none
  | (k', v) :: t, k => if k' = k then some v else Tbl.find t k

/-- The value at `k`, `d` when none is listed. -/
def Tbl.get {α : Type} (d : α) (t : Tbl α) (k : Nat) : α := (Tbl.find t k).getD d

/-- The table without an entry at `k`. -/
def Tbl.erase {α : Type} : Tbl α → Nat → Tbl α
  | [], _ => []
  | (k', v) :: t, k => if k' = k then Tbl.erase t k else (k', v) :: Tbl.erase t k

/-- The table with `v` listed at `k`, keys in rising order. -/
def Tbl.put {α : Type} : Tbl α → Nat → α → Tbl α
  | [], k, v => [(k, v)]
  | (k', v') :: t, k, v =>
    if k < k' then (k, v) :: (k', v') :: t
    else if k' = k then (k, v) :: t
    else (k', v') :: Tbl.put t k v

/-- The keys listed. -/
def Tbl.keys {α : Type} (t : Tbl α) : List Nat := t.map Prod.fst

end Sys2Proof
end

