-- ==== Sys2Proof/Config.lean ====
section
/-! DEFINITION. What one implementation fixes and what the manual leaves open: uninterpreted constants,
so that no proof can lean on a value. -/

namespace Sys2Proof

set_option Elab.async false

/-- The stream of free values: draw `n` of what the manual leaves open (log entry 4). -/
opaque Config.free : Nat → Nat

/-- The device serial number, L:6808.0D, CONST without a value in the manual (R429; log entry 5). -/
opaque Config.serialNumber : BitVec 64

/-- The MAC address, L:6820.05, CONST without a value in the manual (R429; log entry 5). -/
opaque Config.macAddress : BitVec 48

/-- The 48-byte image-key hash fused at manufacture in slot `n`, empty when unprogrammed (R421; log entry 5). -/
opaque Config.imageKeyHash : Nat → Bytes

/-- The factory key fused at manufacture (R419, R421; log entry 5). -/
opaque Config.factoryKey : Bytes

/-- Whether the glyph of a character has ink at column `x` of 8, line `y` of 16 (R147 gives no font; log entry 6). -/
opaque Config.glyph : Nat → Nat → Nat → Bool

/-- Coefficient of a factory table at a phase and tap (R140 gives phase 0 of tables 0 and 16 only; log entry 7). -/
opaque Config.factoryCoeff : Nat → Nat → Nat → Int

/-- Stage 6 of the pipeline, whose arithmetic R193 does not give: Bayer order, the plane of samples, column, line and
component (log entry 8). -/
opaque Config.demosaic : Nat → Array (Array (Option Nat)) → Nat → Nat → Nat → Nat

/-- Noise reduction in stage 8, whose arithmetic R193 does not give: L:3850.04, the plane of pixels, column, line and
component (log entry 8). -/
opaque Config.denoise : Nat → Array (Array (Option (Nat × Nat × Nat))) → Nat → Nat → Nat → Nat

/-- Sharpening in stage 8, whose arithmetic R193 does not give: L:3850.05, the plane of pixels, column, line and component
(log entry 8). -/
opaque Config.sharpen : Nat → Array (Array (Option (Nat × Nat × Nat))) → Nat → Nat → Nat → Nat

/-- Whether dynamic detection takes a site of a plane for a defect, which R193 does not say: column, line (log entry 8). -/
opaque Config.defectSeen : Array (Array (Option Nat)) → Nat → Nat → Bool

/-- Which value a defect's median takes where R193 leaves it open: context, frame sequence, column, line (log entry 8). -/
opaque Config.defectFill : Nat → Nat → Nat → Nat → Nat

/-- Whether a value of the pipeline that is no whole number is rounded up, where R193 gives no rounding: context, frame
sequence, stage, site, component (log entry 8). -/
opaque Config.ispUp : Nat → Nat → Nat → Nat → Nat → Bool

/-- A byte of the measurements in the statistics block of a frame that was abandoned: context, frame sequence, offset (log
entry 8). -/
opaque Config.statByte : Nat → Nat → Nat → Byte

/-- A byte of a line in the raw staging ring, whose layout for 10, 12 and 14-bit samples R179 does not give: data type,
payload as received, offset (log entry 8). -/
opaque Config.stagedByte : Nat → Bytes → Nat → Byte

/-- The SEC-DED check of a 32-byte sector, whose code R312 does not give (log entry 9). -/
opaque Config.sectorCheck : Nat → Nat → Nat

/-- What the memory configuration of a boot image gives a timing entry of a channel: by the slot's bytes, sub-index and channel
(R309; log entry 171). -/
opaque Config.memoryConfig : Bytes → Nat → Nat → Nat

/-- Whether a CAN controller that is not bus off is error passive at an instant: its error counters decide, which no command tells
(R430; log entry 175). -/
opaque Config.canPassive : Nat → Nat → Bool

/-- What L:5C10.0F shows of a signal that its 16 bits do not hold (R358 states none; log entry 167). -/
opaque Config.signalShown : Int → BitVec 16

/-- The on-die power estimate, L:6400.0A, in mW (R400 gives bounds only; log entry 5). -/
opaque Config.powerEstimate : Nat → Nat

/-- The name of an output that the egress veil letters (R57: "the output name from the scene", but R68's screen
records hold no name; log entry 16). -/
opaque Config.outputName : Nat → Bytes

/-- By how many bytes an input buffer is larger than the 256 KiB that R300 says it at least holds (log entry 5). -/
opaque Config.inputBufferExtra : Nat

/-- Whether the whole number of nanoseconds that the Dolquin holds for an instant that falls between two is the later
one: output, frame number (R156 gives no rounding; log entry 20). -/
opaque Config.tFalUp : Nat → Nat → Bool

/-- Whether the whole number of nanoseconds for a seal that falls between two is the later one: output, frame number (R102
gives no rounding; log entry 20). -/
opaque Config.sealUp : Nat → Nat → Bool

/-- The byte that names the prefix of a refusing code in a wall commit message: 0 CM, 1 PL, 2 AN (R260 gives no values;
log entry 40). -/
opaque Config.wallPrefix : Nat → Byte

/-- Whether a scan rate that is no whole number of Hz stands as the next higher one in L:5C00.04: numerator and
denominator (R360 gives no rounding; log entry 35). -/
opaque Config.scanRateUp : Int → Nat → Bool

/-- The bytes that an engine's line store holds of a layer at a wall time in active lines, reduced modulo what it may hold:
they follow from when the fabric served it (R159, R160; log entry 5). -/
opaque Config.buffered : Nat → Nat → Nat → Nat

/-- The bank and the row of a channel that an offset in its window falls in, which R308 and R311 do not give (log entry
149). -/
opaque Config.dramRow : Nat → Nat × Nat

/-- The free bytes of the input buffer of a Swage receiver or camera port group at a counter value, reduced modulo what it
may hold: they follow from what has arrived and what the fabric took (R300, R316; log entry 5). -/
opaque Config.bufferFree : Nat → Nat → Nat

/-- The clock variance that the device announces for the best master selection (R278 gives its priorities, class
and accuracy only; log entry 5). -/
opaque Config.ptpVariance : Nat

end Sys2Proof
end

