-- ==== Sys2Proof/Syntax.lean ====
section
/-! DEFINITION. The commands of the block: one constructor of `Instr` for each row of the opcode table,
with the operands its rule gives it. A command is a write or read of the ledger, a packet, cell or block on
a link, an event on a pin, or an event of one of the part's own timers and engines. -/

namespace Sys2Proof

set_option Elab.async false

/-- A path and peer to which a session is bound (R417). -/
inductive Peer where
  /-- CAN FD: controller and node (R413). -/
  | can (controller node : Nat)
  /-- UDP: source address and port (R414). -/
  | udp (address port : Nat)
  /-- PCIe: the function (R415). -/
  | pcie (function : Nat)
  /-- Swage: the port (R263). -/
  | swage (port : Nat)
  deriving DecidableEq, Repr

/-- The path code of R419: 1 CAN FD, 2 UDP, 3 PCIe, 4 Swage. -/
def Peer.path : Peer → Nat
  | .can _ _ => 1
  | .udp _ _ => 2
  | .pcie _ => 3
  | .swage _ => 4

/-- What makes a PTP message one that the device supports or not: its domain, its transport (0 Ethernet, 1 UDP over IPv4, any
other unsupported), and whether it is well formed (R277). -/
structure PtpHead where
  domain : Nat
  transport : Nat
  formed : Bool
  deriving DecidableEq, Repr

/-- The header of a CSI-2 short packet: the virtual channel that it names, and 0 for a good check code, 1 for a corrected
one, 2 for one that names no trustworthy channel (R181). -/
structure ShortHeader where
  vc : Fin 16
  ecc : Fin 3
  deriving DecidableEq, Repr

/-- A Block-mode block as the receiver has it: its 64 payload bits, and how many blocks with an invalid header came since the
last that a command names, those apart that lose the block lock (R214, R215). -/
structure RxBlock where
  payload : BitVec 64
  badHeaders : Nat := 0
  deriving DecidableEq, Repr

/-- What a sink's DPCD tells besides its rate: the lanes that it takes, and whether it allows down-spread (R169). -/
structure SinkLink where
  lanes : Nat
  spread : Bool
  deriving DecidableEq, Repr

/-- A ledger value: a number as its wire bits, or the bytes of a STR or BLOB (R407). -/
inductive Val where
  /-- The bits of a numeric type, as they travel. -/
  | num (n : Nat)
  /-- The bytes of a STR or BLOB. -/
  | bytes (b : Bytes)
  deriving DecidableEq, Repr

/-- The number of a value; 0 for bytes. -/
def Val.n : Val → Nat
  | .num n => n
  | .bytes _ => 0

/-- The bytes of a value; empty for a number. -/
def Val.b : Val → Bytes
  | .num _ => []
  | .bytes b => b

/-- A ledger request frame after its opcode (R409); `declared` is the data length field and `data` the
bytes that the path delivered. -/
structure Req where
  version : Nat := 1
  session : Nat := 0
  txn : Nat := 0
  index : Nat := 0
  sub : Nat := 0
  flags : Nat := 0
  declared : Nat := 0
  offset : Nat := 0
  reserved : Nat := 0
  data : Bytes := []
  deriving DecidableEq, Repr

/-- How a control-bus transfer ends (R206, R208). -/
inductive BusEnd where
  | done
  | noAck
  | clockHeld
  deriving DecidableEq, Repr

/-- How a DisplayPort training ends: at a rate code and lane count, or failed (R169, R170). -/
inductive TrainEnd where
  | trained (rate lanes : Nat)
  | failed
  deriving DecidableEq, Repr

/-- How a request's memory access ended (R299, R312, R313): `corrected` is an access that completed with a corrected
error. -/
inductive MemEnd where
  | ok
  | corrected
  | timeout
  | uncorrectable
  | unusable
  deriving DecidableEq, Repr

/-- A wall commit message, kind 0x03 (R260). -/
structure WallMsg where
  member : Nat
  code : Nat := 0
  codePrefix : Nat := 0
  ticket : Nat
  target : Nat := 0
  slot : Nat := 0xFF
  tag : Nat := 0
  sealTime : Nat := 0
  deriving DecidableEq, Repr

/-- A fabric request as its master presents it (R291, R294). -/
structure FabReq where
  address : Nat
  beats : Nat
  write : Bool
  cls : Nat
  id : Nat
  data : Bytes := []
  enables : List Nat := []
  deriving DecidableEq, Repr

/-- How a write of the non-volatile store ended: done at once, done at the retry, failed twice, or cut by a loss of power, which
the device's next power-on follows (R425). -/
inductive StoreEnd where
  | done
  | retried
  | failed
  | powerLost
  deriving DecidableEq, Repr

/-- How a limited change ended: its fuses verified and its tally row written, its fuses not verified, or a loss of power between the
two, which the device's next power-on follows (R421, R428). -/
inductive FuseEnd where
  | verified
  | failed
  | powerLost
  deriving DecidableEq, Repr

/-- A PCIe memory window: the mailboxes, the DRAM channels, Crucible (R415). -/
inductive Bar where
  | bar0
  | bar2
  | bar4
  deriving DecidableEq, Repr

/-- The commands, in the table's order. Ledger-write rows carry the writing session's identifier and the
value written. -/
inductive Instr where
  | roleSelectWrite (ss v : Nat)
  | registerWrite (ss key : Nat) (v : Val)
  | ledgerRead (p : Peer) (r : Req)
  | ledgerWriteFrame (p : Peer) (r : Req)
  | describe (p : Peer) (r : Req)
  | openSession (p : Peer) (r : Req)
  | respond (p : Peer) (r : Req)
  | closeSession (p : Peer) (r : Req)
  | keepAlive (p : Peer) (r : Req)
  | sessionIdleTimeout (ss : Nat)
  | lockoutExpiry (path : Fin 5)
  | segmentHoldExpiry (ss : Nat)
  | canFrameReceive (controller : Fin 2) (ident : BitVec 29) (payload : Bytes)
  | canMessageTimeout (controller : Fin 2) (node : Fin 256)
  | canBusOff (controller : Fin 2)
  | canBusOffRecovery (controller : Fin 2)
  | udpLedgerDatagram (address port : Nat) (payload : Bytes)
  | arpRequest (target sender : BitVec 32)
  | icmpEchoRequest (target sender : BitVec 32) (payload : Bytes)
  | doorbell (mailbox : Fin 4) (request : Bytes)
  | mailboxFree (mailbox : Fin 4)
  | pcieBarWrite (bar : Bar) (offset : Nat) (data : Bytes) (requester : BitVec 16) (tag : Nat)
  | pcieBarRead (bar : Bar) (offset len : Nat) (requester : BitVec 16) (tag : Nat)
  | pciePerst (level : Bool)
  | saveConfiguration (ss v : Nat) (result : StoreEnd)
  | eraseSavedConfiguration (ss v : Nat) (result : StoreEnd)
  | nonVolatileWrite (ss key : Nat) (v : Val) (result : StoreEnd)
  | programIntegratorKey (ss : Nat) (key : Bytes) (verified : Bool)
  | revokeIntegratorKey (ss slot : Nat) (verified : Bool)
  | rightsPolicyWrite (ss v : Nat) (result : FuseEnd)
  | debugLockWrite (ss v : Nat) (result : FuseEnd)
  | minSecurityVersionWrite (ss v : Nat) (verified : Bool)
  | revokeImageKey (ss slot : Nat) (verified : Bool)
  | roleLockWrite (ss v : Nat) (result : FuseEnd)
  | wallAliasWrite (ss v : Nat) (result : FuseEnd)
  | memberNumberWrite (ss v : Nat)
  | hostAcquire (ss slot : Nat)
  | hostPublish (ss v : Nat)
  | hostContentCheckDone (ingot : Fin 4096) (readOk : Bool)
  | hostRelease (ss ingot : Nat)
  | readerRetire (ingot : Fin 4096) (reader : Fin 46)
  | outputFrameStart (output : Fin 32)
  | holdLimitReached (output : Fin 32)
  | sealPoint (output : Fin 32)
  | startOfBlanking (output : Fin 32)
  | lineMatch (output : Fin 32)
  | frameDone (output : Fin 32)
  | eventLatchClear (ss v : Nat)
  | layerUnderrun (engine : Fin 18) (layer : Fin 24) (x y : Nat)
  | engineFailure (engine : Fin 18) (deadline : Bool) (line : Nat)
  | engineSubstitutionArm (engine : Fin 18)
  | hotPlugAssert (port : Fin 8) (sinkRate : Fin 4) (sinkLink : SinkLink) (edid : Bytes)
  | hotPlugLoss (port : Fin 8) (lowUs : Nat)
  | irqHpd (port : Fin 8) (linkLost : Bool)
  | dpTrainingDone (port : Fin 8) (result : TrainEnd)
  | dsiInitDone (port : Fin 4) (acknowledged : Bool)
  | tearingEffect (port : Fin 4)
  | tableLoad (ss : Nat) (blob : Bytes)
  | writebackRegionStart (engine : Fin 16)
  | writebackRegionEnd (engine : Fin 16)
  | place (ss v : Nat)
  | dryRun (ss : Nat)
  | placementDone (timeUs : Nat)
  | emptySlot (ss v : Nat)
  | automaticReplanStart
  | automaticReplanDone (timeUs : Nat)
  | commit (ss v : Nat)
  | commitAccept
  | commitLockIn (ticket : Nat)
  | cancel (ss ticket : Nat)
  | discardShadow (ss v : Nat)
  | prepare (port : Fin 24) (m : WallMsg)
  | ready (port : Fin 24) (m : WallMsg)
  | refuse (port : Fin 24) (m : WallMsg)
  | decisionDeadline (ticket : Nat)
  | go (port : Fin 24) (m : WallMsg)
  | abort (port : Fin 24) (m : WallMsg)
  | applied (port : Fin 24) (m : WallMsg)
  | appliedReportTimeout (ticket : Nat)
  | wallPresence (port : Fin 24) (wallAlias member role pairState serial : Nat)
  | presenceSend
  | memberPresenceTimeout (member : Fin 64)
  | joinListenEnd
  | frameStartPacket (port : Fin 16) (header : ShortHeader)
  | longPacket (port : Fin 16) (vc : Fin 16) (dataType : BitVec 6) (payload : Bytes) (headerEcc : Fin 3) (crcOk : Bool)
  | frameEndPacket (port : Fin 16) (header : ShortHeader)
  | lineGapTimeout (ctx : Fin 32)
  | signalAbsentTimeout (port : Fin 16)
  | portFaultSecond (port : Fin 16) (sotErrors : Nat)
  | pipelineBind
  | pipelineFrameDone (pipe : Fin 4) (writes : MemEnd)
  | aeStep (ctx : Fin 32)
  | awbStep (ctx : Fin 32)
  | exposureTransferDone (ctx : Fin 32) (result : BusEnd) (released : Bool)
  | controlBusTimeout (port : Fin 16)
  | hostTransfer (ss : Nat) (blob : Bytes)
  | hostTransferStart (port : Fin 16)
  | hostTransferDone (port : Fin 16) (acknowledged : Bool) (data : Bytes)
  | hostTransferTimeout (port : Fin 16)
  | temperLoad (ss : Nat) (blob : Bytes)
  | sensorProfileWrite (ss : Nat) (blob : Bytes)
  | blockLock (lane : Fin 52)
  | blockLockLoss (lane : Fin 52)
  | detectTimeout (lane : Fin 52)
  | backOffExpiry (lane : Fin 52)
  | capabilityBlock (lane : Fin 52) (block : RxBlock)
  | exchangeTimeout (lane : Fin 52)
  | trainBlock (lane : Fin 52) (block : RxBlock) (merit : BitVec 8) (selfDone : Bool)
  | trainTimeout (lane : Fin 52)
  | verifyEnd (lane : Fin 52) (errors : Nat)
  | stepBlock (lane : Fin 52) (block : RxBlock)
  | rateSwitchDone (lane : Fin 52)
  | runEntryBlock (lane : Fin 52) (block : RxBlock)
  | runEntryDone (lane : Fin 52)
  | loopbackBlock (lane : Fin 52) (block : RxBlock)
  | anchorIntervalSend (port : Fin 24) (anythingWaiting : Bool)
  | anchorReceived (lane : Fin 52) (word : BitVec 64) (skewNs fill stuffBad : Nat)
  | anchorMissed (lane : Fin 52)
  | elasticBufferFault (lane : Fin 52)
  | bankedIdleTimeout (port : Fin 24)
  | bankedExit (port : Fin 24)
  | retrain (ss v : Nat)
  | errorInjection (lane : Fin 52)
  | videoHeaderCell (port : Fin 24) (cell : Bytes)
  | videoDataCell (port : Fin 24) (cell : Bytes)
  | videoTrailerCell (port : Fin 24) (cell : Bytes)
  | inboundFrameTimeout (slot : Fin 40)
  | nullCell (port : Fin 24) (cell : Bytes)
  | witnessCell (port : Fin 24) (cell : Bytes)
  | witnessEchoTimeout (output : Fin 32) (seq : Nat)
  | forwardFrameStart (slot : Fin 40)
  | messageCell (port : Fin 24) (cell : Bytes)
  | creditCell (port : Fin 24) (cell : Bytes)
  | creditSend (port : Fin 24)
  | retransmitTimeout (port : Fin 24)
  | syncCell (port : Fin 24) (cell : Bytes)
  | delayRequestCell (port : Fin 24) (cell : Bytes)
  | delayResponseCell (port : Fin 24) (cell : Bytes)
  | syncSend (port : Fin 24)
  | delayExchangeTimeout (port : Fin 24)
  | rateWrite (ss v : Nat)
  | offsetWrite (ss v : Nat)
  | stepWrite (ss v : Nat)
  | eraSweepDone
  | hostTimeState (ss v : Nat)
  | timeSourceWrite (ss v : Nat)
  | servoSample (steer : Int)
  | holdoverExpiry
  | announceTimeout
  | syncTimeout
  | hostStateTimeout
  | ptpSync (port : Fin 2) (head : PtpHead) (source seq : Nat) (twoStep : Bool) (origin rx : Nat) (correction : Int)
  | ptpFollowUp (port : Fin 2) (head : PtpHead) (source seq origin : Nat) (correction : Int)
  | ptpAnnounce (port : Fin 2) (head : PtpHead) (source grandmaster priority1 priority2 cls accuracy variance steps : Nat)
  | ptpDelayReq (port : Fin 2) (head : PtpHead) (source seq rx : Nat)
  | ptpDelayResp (port : Fin 2) (head : PtpHead) (source requester seq rx : Nat) (correction : Int)
  | ptpPdelayReq (port : Fin 2) (head : PtpHead) (source seq rx : Nat)
  | ptpPdelayResp (port : Fin 2) (head : PtpHead) (source seq turnaround rx : Nat)
  | ptpMasterSyncSend
  | ptpMasterAnnounceSend
  | ethernetFrameForward (port : Fin 2) (dest : BitVec 48) (ptpEvent : Option Nat) (udp : Bool) (rx : Nat)
      (fcs : BitVec 32) (frame : Bytes)
  | timeDomainWake (ticks : Nat)
  | fabricRequest (port : Fin 42) (r : FabReq)
  | fabricGrant (target : Fin 25)
  | fabricCompletion (target : Fin 25) (port : Fin 42) (id : Nat) (result : MemEnd)
  | classBRefusal (port : Fin 42) (target : Fin 25) (id : Nat) (overflow : Bool)
  | classCTimeout (port : Fin 42) (target : Fin 25) (id : Nat)
  | lockedSequence (port : Fin 42) (target : Fin 25) (accesses : Nat)
  | clearOutcomes (ss v : Nat)
  | readUncorrectable (port : Fin 42) (address syndrome : Nat)
  | refreshDue (channel : Fin 16)
  | refreshCatchUp (channel : Fin 16)
  | temperatureRead (channel : Fin 16) (celsius : Int)
  | tracking (channel : Fin 16) (driftPs : Int) (inRange : Bool)
  | scrubRead (channel : Fin 16) (sector : Nat) (corrected uncorrectable : Bool) (syndrome : Nat)
  | selfRefreshEntry (channel : Fin 16)
  | selfRefreshExit (channel : Fin 16) (beforeCommand : Bool)
  | dramTrainingDone (channel : Fin 16) (passed : Bool)
  | evacuate (ss v : Nat)
  | evacuationComplete (channel : Fin 16)
  | retrainChannel (ss v : Nat)
  | retireChannel (ss v : Nat)
  | recoveryActionStart
  | testEngine (ss v : Nat)
  | engineTestDone (passed : Bool)
  | switchBackEngine (ss v : Nat)
  | switchBackLane (ss v : Nat)
  | pairDecide
  | pairActRise
  | heartbeatSend (mainLoop : Bool)
  | heartbeatPulse (widthUs : Nat)
  | heartbeatLoss
  | bellowsSectionData (frame : Bytes)
  | bellowsHeaderCommit (frame : Bytes)
  | bellowsTime (frame : Bytes)
  | bellowsYield (frame : Bytes)
  | pushTimer
  | takeoverReady (hearthTicks : Nat)
  | takeoverHoldLimit
  | resyncDone
  | handOver (ss v : Nat)
  | measurementGate (raw : List (BitVec 16))
  | saveBaselines (ss v : Nat)
  | autoBaselineSave
  | baselineSaveDone (result : StoreEnd)
  | keyRecordsRead (p : Peer) (r : Req)
  | start (ss v : Nat)
  | startFresh (ss v : Nat)
  | suspend (ss v : Nat)
  | abortScan (ss v : Nat)
  | scanBurstDone (unit : Fin 4) (result : MemEnd)
  | domainPowerGood (domain : Fin 24)
  | domainPowerTimeout (domain : Fin 24) (pll : Bool)
  | powerGoodLoss (domain : Fin 24)
  | domainHoldExpiry (domain : Fin 24)
  | domainPowerDownDone (domain : Fin 24)
  | forceOn (ss v : Nat)
  | crystalStable
  | crystalTimeout
  | refclkLoss
  | refclkReturn
  | powerOnReset
  | sysRstN (lowNs : Nat)
  | deviceReset (ss v : Nat)
  | bootImageLoaded (slotA slotB : Bytes)
  | imageChunk (ss : Nat) (blob : Bytes)
  | verifySlot (ss v : Nat)
  | verifyDone
  | activate (ss v : Nat)
  | firmwareMainLoop (handOffRead : Bool)
  | firmwareStartTimeout
  | confirm (ss v : Nat)
  | trialTimeout
  | thermTrip
  | thermTripRelease
  | partnerHeartbeatAbsent
  | clockLockLoss (lane : Fin 52)
  | testPatternCheckerLock (lane : Fin 52) (errorBits comparedBits : Nat)
  | functionLevelReset
  | pcieLinkChange (generation : Fin 5) (width : Fin 9)
  | ethernetLinkChange (port : Fin 2) (speed : Fin 4)
  | managementControllerStop
  | hearthWatchdogExpiry
  deriving DecidableEq, Repr

end Sys2Proof
end

