-- ==== Sys2Proof/Machine/Flags.lean ====
section
/-! DEFINITION. The check computations the manual names: CRC-8 (R223), CRC-16 (R377), CRC-32 and CRC-32C
(R166, R377), and the hash, authentication and signature functions of R396 and R419. Numbers are held as
naturals below the width's power of two. -/

namespace Sys2Proof

set_option Elab.async false

/-! ### Cyclic redundancy checks -/

/-- One bit of a reflected CRC register with the reversed polynomial `poly`. -/
def crcBitRefl (poly r : Nat) : Nat := if r % 2 = 1 then Nat.xor (r / 2) poly else r / 2

/-- One byte of a reflected CRC (R166, R377). -/
def crcByteRefl (poly r : Nat) (b : Byte) : Nat :=
  let f := crcBitRefl poly
  f (f (f (f (f (f (f (f (Nat.xor r b.toNat))))))))

/-- A reflected CRC register after a byte string. -/
def crcRefl (poly r : Nat) (bs : Bytes) : Nat := bs.foldl (crcByteRefl poly) r

/-- One bit of a `w`-bit CRC register that shifts left. -/
def crcBit (w poly r : Nat) : Nat :=
  if r.testBit (w - 1) then Nat.xor (r * 2 % 2 ^ w) poly else r * 2 % 2 ^ w

/-- One byte of a `w`-bit CRC that is not reflected (R223, R377). -/
def crcByte (w poly r : Nat) (b : Byte) : Nat :=
  let f := crcBit w poly
  f (f (f (f (f (f (f (f (Nat.xor r (b.toNat * 2 ^ (w - 8))))))))))

/-- A CRC register that is not reflected, after a byte string. -/
def crcPlain (w poly r : Nat) (bs : Bytes) : Nat := bs.foldl (crcByte w poly) r

/-- The running CRC-32C register: polynomial 0x1EDC_6F41, reflected (R166). -/
def crc32cRun (r : Nat) (bs : Bytes) : Nat := crcRefl 0x82F63B78 r bs

/-- CRC-32C of a byte string: initial value and final XOR 0xFFFF_FFFF (R166). -/
def crc32c (bs : Bytes) : Nat := Nat.xor (crc32cRun 0xFFFFFFFF bs) 0xFFFFFFFF

/-- The running CRC-32 register: polynomial 0x04C1_1DB7, reflected (R377). -/
def crc32Run (r : Nat) (bs : Bytes) : Nat := crcRefl 0xEDB88320 r bs

/-- The running CRC-16 register: polynomial 0x1021, not reflected (R377). -/
def crc16Run (r : Nat) (bs : Bytes) : Nat := crcPlain 16 0x1021 r bs

/-- CRC-8 with polynomial 0x07 and initial value 0 (R223). -/
def crc8 (bs : Bytes) : Nat := crcPlain 8 0x07 0 bs

/-- Whether the last four bytes of a string are the CRC-32C of those before them (R141, R194, R203, R245). -/
def crcTailOk (bs : Bytes) : Bool :=
  4 ≤ bs.length && beNat (bs.drop (bs.length - 4)) == crc32c (bs.take (bs.length - 4))

/-! ### Secure hashes -/

/-- The parameters of one hash of the SHA-2 family: word width, and the rotations of its four mixing
functions, each as two rotations and a last rotation or shift. -/
structure Sha where
  w : Nat
  sum0 : Nat × Nat × Nat
  sum1 : Nat × Nat × Nat
  sig0 : Nat × Nat × Nat
  sig1 : Nat × Nat × Nat
  ks : List Nat

/-- Rotation of a `w`-bit word to the right. -/
def rotr (w x k : Nat) : Nat := Nat.lor (x / 2 ^ k) (x * 2 ^ (w - k) % 2 ^ w)

/-- XOR of three rotations of a word. -/
def Sha.big (h : Sha) (r : Nat × Nat × Nat) (x : Nat) : Nat :=
  Nat.xor (Nat.xor (rotr h.w x r.1) (rotr h.w x r.2.1)) (rotr h.w x r.2.2)

/-- XOR of two rotations and a shift of a word. -/
def Sha.small (h : Sha) (r : Nat × Nat × Nat) (x : Nat) : Nat :=
  Nat.xor (Nat.xor (rotr h.w x r.1) (rotr h.w x r.2.1)) (x / 2 ^ r.2.2)

/-- The next words of the message schedule; `ws` holds the latest first. -/
def Sha.extend (h : Sha) : Nat → List Nat → List Nat
  | 0, ws => ws
  | n + 1, ws =>
    let x := (h.small h.sig1 (ws.getD 1 0) + ws.getD 6 0 + h.small h.sig0 (ws.getD 14 0) + ws.getD 15 0)
      % 2 ^ h.w
    Sha.extend h n (x :: ws)

/-- One round over the eight working words. -/
def Sha.round (h : Sha) (v : List Nat) (kw : Nat × Nat) : List Nat :=
  match v with
  | [a, b, c, d, e, f, g, x] =>
    let m := 2 ^ h.w
    let ch := Nat.xor (Nat.land e f) (Nat.land (m - 1 - e) g)
    let t1 := (x + h.big h.sum1 e + ch + kw.1 + kw.2) % m
    let maj := Nat.xor (Nat.xor (Nat.land a b) (Nat.land a c)) (Nat.land b c)
    let t2 := (h.big h.sum0 a + maj) % m
    [(t1 + t2) % m, a, b, c, (d + t1) % m, e, f, g]
  | v => v

/-- The chaining value after one block. -/
def Sha.block (h : Sha) (hv : List Nat) (words : List Nat) : List Nat :=
  let ws := (h.extend (h.ks.length - 16) words.reverse).reverse
  let out := (h.ks.zip ws).foldl h.round hv
  (hv.zip out).map fun p => (p.1 + p.2) % 2 ^ h.w

/-- `n` big-endian words of `len` bytes each. -/
def beWords (len : Nat) : Nat → Bytes → List Nat
  | 0, _ => []
  | n + 1, bs => beNat (bs.take len) :: beWords len n (bs.drop len)

/-- The message with its padding to a whole number of blocks of 16 words. -/
def Sha.pad (h : Sha) (bs : Bytes) : Bytes :=
  let blk := 2 * h.w
  let used := bs.length + 1 + h.w / 4
  bs ++ [0x80] ++ List.replicate (roundUp used blk - used) 0 ++ beBytes (h.w / 4) (8 * bs.length)

/-- The chaining values through `n` blocks. -/
def Sha.run (h : Sha) : Nat → List Nat → Bytes → List Nat
  | 0, hv, _ => hv
  | n + 1, hv, bs => Sha.run h n (h.block hv (beWords (h.w / 8) 16 bs)) (bs.drop (2 * h.w))

/-- The digest of a message: initial value `iv`, first `len` bytes of the result. -/
def Sha.digest (h : Sha) (iv : List Nat) (len : Nat) (bs : Bytes) : Bytes :=
  let p := h.pad bs
  ((h.run (p.length / (2 * h.w)) iv p).flatMap (beBytes (h.w / 8))).take len

/-- Round constants of the 32-bit words, part 1. -/
def k32A : List Nat := [
  0x428A2F98, 0x71374491, 0xB5C0FBCF, 0xE9B5DBA5, 0x3956C25B, 0x59F111F1, 0x923F82A4, 0xAB1C5ED5,
  0xD807AA98, 0x12835B01, 0x243185BE, 0x550C7DC3, 0x72BE5D74, 0x80DEB1FE, 0x9BDC06A7, 0xC19BF174,
  0xE49B69C1, 0xEFBE4786, 0x0FC19DC6, 0x240CA1CC, 0x2DE92C6F, 0x4A7484AA, 0x5CB0A9DC, 0x76F988DA,
  0x983E5152, 0xA831C66D, 0xB00327C8, 0xBF597FC7, 0xC6E00BF3, 0xD5A79147, 0x06CA6351, 0x14292967]

/-- Round constants of the 32-bit words, part 2. -/
def k32B : List Nat := [
  0x27B70A85, 0x2E1B2138, 0x4D2C6DFC, 0x53380D13, 0x650A7354, 0x766A0ABB, 0x81C2C92E, 0x92722C85,
  0xA2BFE8A1, 0xA81A664B, 0xC24B8B70, 0xC76C51A3, 0xD192E819, 0xD6990624, 0xF40E3585, 0x106AA070,
  0x19A4C116, 0x1E376C08, 0x2748774C, 0x34B0BCB5, 0x391C0CB3, 0x4ED8AA4A, 0x5B9CCA4F, 0x682E6FF3,
  0x748F82EE, 0x78A5636F, 0x84C87814, 0x8CC70208, 0x90BEFFFA, 0xA4506CEB, 0xBEF9A3F7, 0xC67178F2]

/-- Round constants of the 64-bit words, part 1. -/
def k64A : List Nat := [
  0x428A2F98D728AE22, 0x7137449123EF65CD, 0xB5C0FBCFEC4D3B2F, 0xE9B5DBA58189DBBC,
  0x3956C25BF348B538, 0x59F111F1B605D019, 0x923F82A4AF194F9B, 0xAB1C5ED5DA6D8118,
  0xD807AA98A3030242, 0x12835B0145706FBE, 0x243185BE4EE4B28C, 0x550C7DC3D5FFB4E2,
  0x72BE5D74F27B896F, 0x80DEB1FE3B1696B1, 0x9BDC06A725C71235, 0xC19BF174CF692694,
  0xE49B69C19EF14AD2, 0xEFBE4786384F25E3, 0x0FC19DC68B8CD5B5, 0x240CA1CC77AC9C65,
  0x2DE92C6F592B0275, 0x4A7484AA6EA6E483, 0x5CB0A9DCBD41FBD4, 0x76F988DA831153B5,
  0x983E5152EE66DFAB, 0xA831C66D2DB43210, 0xB00327C898FB213F, 0xBF597FC7BEEF0EE4,
  0xC6E00BF33DA88FC2, 0xD5A79147930AA725, 0x06CA6351E003826F, 0x142929670A0E6E70]

/-- Round constants of the 64-bit words, part 2. -/
def k64B : List Nat := [
  0x27B70A8546D22FFC, 0x2E1B21385C26C926, 0x4D2C6DFC5AC42AED, 0x53380D139D95B3DF,
  0x650A73548BAF63DE, 0x766A0ABB3C77B2A8, 0x81C2C92E47EDAEE6, 0x92722C851482353B,
  0xA2BFE8A14CF10364, 0xA81A664BBC423001, 0xC24B8B70D0F89791, 0xC76C51A30654BE30,
  0xD192E819D6EF5218, 0xD69906245565A910, 0xF40E35855771202A, 0x106AA07032BBD1B8,
  0x19A4C116B8D2D0C8, 0x1E376C085141AB53, 0x2748774CDF8EEB99, 0x34B0BCB5E19B48A8,
  0x391C0CB3C5C95A63, 0x4ED8AA4AE3418ACB, 0x5B9CCA4F7763E373, 0x682E6FF3D6B2B8A3,
  0x748F82EE5DEFB2FC, 0x78A5636F43172F60, 0x84C87814A1F0AB72, 0x8CC702081A6439EC,
  0x90BEFFFA23631E28, 0xA4506CEBDE82BDE9, 0xBEF9A3F7B2C67915, 0xC67178F2E372532B]

/-- Round constants of the 64-bit words, part 3. -/
def k64C : List Nat := [
  0xCA273ECEEA26619C, 0xD186B8C721C0C207, 0xEADA7DD6CDE0EB1E, 0xF57D4F7FEE6ED178,
  0x06F067AA72176FBA, 0x0A637DC5A2C898A6, 0x113F9804BEF90DAE, 0x1B710B35131C471B,
  0x28DB77F523047D84, 0x32CAAB7B40C72493, 0x3C9EBE0A15C9BEBC, 0x431D67C49C100D4C,
  0x4CC5D4BECB3E42B6, 0x597F299CFC657E2A, 0x5FCB6FAB3AD6FAEC, 0x6C44198C4A475817]

/-- The 32-bit member of the family. -/
def sha2x32 : Sha :=
  { w := 32, sum0 := (2, 13, 22), sum1 := (6, 11, 25), sig0 := (7, 18, 3), sig1 := (17, 19, 10), ks := k32A ++ k32B }

/-- The 64-bit member of the family. -/
def sha2x64 : Sha :=
  { w := 64, sum0 := (28, 34, 39), sum1 := (14, 18, 41), sig0 := (1, 8, 7), sig1 := (19, 61, 6), ks := k64A ++ k64B ++ k64C }

/-- SHA-256 of a byte string (R419). -/
def sha256 (bs : Bytes) : Bytes := sha2x32.digest [
  0x6A09E667, 0xBB67AE85, 0x3C6EF372, 0xA54FF53A, 0x510E527F, 0x9B05688C, 0x1F83D9AB, 0x5BE0CD19] 32 bs

/-- SHA-384 of a byte string (R396). -/
def sha384 (bs : Bytes) : Bytes := sha2x64.digest [
  0xCBBB9D5DC1059ED8, 0x629A292A367CD507, 0x9159015A3070DD17, 0x152FECD8F70E5939,
  0x67332667FFC00B31, 0x8EB44A8768581511, 0xDB0C2E0D64F98FA7, 0x47B5481DBEFA4FA4] 48 bs

/-- HMAC-SHA-256 of a message under a key (R419). -/
def hmacSha256 (key msg : Bytes) : Bytes :=
  let k0 := if 64 < key.length then sha256 key else key
  let k := k0 ++ List.replicate (64 - k0.length) 0
  sha256 (k.map (· ^^^ 0x5C) ++ sha256 (k.map (· ^^^ 0x36) ++ msg))

/-! ### The signature of R396

ECDSA over the NIST curve P-384, as the header's signature field names it. -/

/-- The field prime of P-384. -/
def p384 : Nat := 2 ^ 384 - 2 ^ 128 - 2 ^ 96 + 2 ^ 32 - 1

/-- The order of P-384's base point. -/
def n384 : Nat :=
  0xFFFFFFFFFFFFFFFFFFFFFFFFFFFFFFFFFFFFFFFFFFFFFFFFC7634D81F4372DDF581A0DB248B0A77AECEC196ACCC52973

/-- The coefficient b of P-384. -/
def b384 : Nat :=
  0xB3312FA7E23EE7E4988E056BE3F82D19181D9C6EFE8141120314088F5013875AC656398D8A2ED19D2A85C8EDD3EC2AEF

/-- The base point of P-384. -/
def g384 : Nat × Nat :=
  (0xAA87CA22BE8B05378EB1C71EF320AD746E1D3B628BA79B9859F741E082542A385502F25DBF55296C3A545E3872760AB7,
   0x3617DE4A96262C6F5D9E98BF9292DC29F8F41DBD289A147CE9DA3113B5F0B8C00A60B1CE1D7E819D7A431D7C90EA0E5F)

/-- `b ^ e` modulo `m` over the low `fuel` bits of `e`. -/
def powMod (m : Nat) : Nat → Nat → Nat → Nat
  | 0, _, _ => 1
  | fuel + 1, b, e =>
    let r := powMod m fuel (b * b % m) (e / 2)
    if e % 2 = 1 then b * r % m else r

/-- The inverse modulo a prime. -/
def invMod (m x : Nat) : Nat := powMod m 384 (x % m) (m - 2)

/-- The sum of two points of P-384; `none` is the point at infinity. -/
def addPoint (a b : Option (Nat × Nat)) : Option (Nat × Nat) :=
  match a, b with
  | none, q => q
  | q, none => q
  | some (x1, y1), some (x2, y2) =>
    let m := p384
    if x1 = x2 && (y1 + y2) % m = 0 then none
    else
      let l := if x1 = x2 then (3 * x1 * x1 + (m - 3)) * invMod m (2 * y1) % m
        else (y2 + m - y1) * invMod m (x2 + m - x1) % m
      let x := (l * l + 2 * m - x1 - x2) % m
      some (x, (l * (x1 + m - x) + m - y1) % m)

/-- `k` times a point, over the low `fuel` bits of `k`. -/
def mulPoint : Nat → Nat → Option (Nat × Nat) → Option (Nat × Nat)
  | 0, _, _ => none
  | fuel + 1, k, q =>
    let r := mulPoint fuel (k / 2) (addPoint q q)
    if k % 2 = 1 then addPoint q r else r

/-- Whether (x, y) is a point of P-384. -/
def onP384 (x y : Nat) : Bool :=
  x < p384 && y < p384 && y * y % p384 == (x * x * x + (p384 - 3) * x + b384) % p384

/-- Whether (r, s) signs a SHA-384 digest under the public key (x, y) (R396). -/
def ecdsaOk (x y r s : Nat) (digest : Bytes) : Bool :=
  if onP384 x y && 0 < r && r < n384 && 0 < s && s < n384 then
    let w := invMod n384 s
    let u1 := beNat digest % n384 * w % n384
    let u2 := r * w % n384
    match addPoint (mulPoint 384 u1 (some g384)) (mulPoint 384 u2 (some (x, y))) with
    | none => false
    | some (px, _) => px % n384 == r
  else false

end Sys2Proof
end

