-- ==== Sys2Proof/Machine/State.lean ====
section
/-! DEFINITION. The state of the block, as plain data: the ledger's register file (active values, shadow,
byte strings), the sessions, and what each chapter's engines hold between commands. Numeric registers that
the ledger names live in `regs` under their citation L:iiii.ss written 0xiiii_ss and the number of the one of
several like parts they belong to; a register not listed holds its table default. -/

namespace Sys2Proof.Machine

set_option Elab.async false

/-! ### Reason codes, events and outputs -/

/-- The subsystem part of a reason code (R12). -/
inductive Sub where
  | FR | PL | CM | AN | SO | IN | SW | TM | FB | DM | PA | KY | CK | PW | LG
  deriving DecidableEq, Repr

/-- A reason code: subsystem and value (R12). -/
structure Code where
  sub : Sub
  val : Nat
  deriving DecidableEq, Repr

/-- One record of the event log (R438); `seq` is its sequence number. -/
structure LogRec where
  seq : Nat
  time : Nat
  event : Nat
  code : Option Code
  timeState : Nat
  firmware : Bool
  suppressed : Nat
  inst : Nat
  detail : Int
  deriving DecidableEq, Repr

/-- The rate-limit record of one event, code and subject (R439). -/
structure Limit where
  event : Nat
  code : Option Code
  inst : Nat
  last : Option Nat := none
  suppressed : Nat := 0
  deriving DecidableEq, Repr

/-- The event log (R437-R441): records newest first. -/
structure Log where
  recs : List LogRec := []
  seq : Nat := 0
  waiting : Nat := 0
  waitAt : Nat := 0
  dropped : Nat := 0
  limits : List Limit := []
  vector0At : Option Nat := none
  vector0Due : Bool := false
  deriving DecidableEq, Repr

/-- A reply to a ledger request: reason code (none on success), result field and data (R409). -/
structure Reply where
  code : Option Code := none
  result : Nat := 0
  data : Bytes := []
  deriving DecidableEq, Repr

/-- What the block sends to the world outside it. -/
inductive Sent where
  /-- A ledger response frame on a path (R409). -/
  | response (p : Peer) (frame : Bytes)
  /-- A CAN FD frame of a response: controller, identifier, payload (R413). -/
  | can (controller ident : Nat) (payload : Bytes)
  /-- The response to a ledger write or action that a command row names (R409). -/
  | reply (ss : Nat) (r : Reply)
  /-- A PCIe MSI-X message (R415). -/
  | msix (vector : Nat)
  /-- A PCIe read completion: data, or Completer Abort (R301). -/
  | completion (data : Option Bytes)
  /-- A Swage cell of a port in the slot of a number (R243, R245). -/
  | cell (port slot : Nat) (bytes : Bytes)
  /-- A Block-mode control block of a lane: its 64 payload bits, and the 66 bits that its pins drive (R214, R216). -/
  | block (lane : Nat) (payload : Nat) (line : List Bool)
  /-- An anchor interval of a lane: its anchor word, how many slack words, and the bits that its pins drive (R222-R225). -/
  | anchor (lane : Nat) (word : Nat) (slack : Nat) (line : List Bool)
  /-- A PTP message on an Ethernet port: kind, sequence, time, and what an Announce tells besides (R277, R278). -/
  | ptp (port kind seq time : Nat) (body : List Nat := [])
  /-- An Ethernet frame forwarded to a port with its corrected residence (R280, R281). -/
  | ether (port : Nat) (frame : Bytes) (addedNs : Int)
  /-- An ARP reply (R414). -/
  | arp (sender : Nat)
  /-- An ICMP echo reply (R414). -/
  | echo (target : Nat) (payload : Bytes)
  /-- A Bellows frame (R346). -/
  | bellows (bytes : Bytes)
  /-- A heartbeat pulse of a width in microseconds (R340). -/
  | heartbeat (widthUs : Nat)
  /-- A control-bus transfer to a sensor: port, address, bytes written, bytes to read (R203, R208). -/
  | i2c (port address : Nat) (write : Bytes) (read : Nat)
  /-- A DSI packet: port, data type, payload (R172). -/
  | dsi (port dataType : Nat) (payload : Bytes)
  /-- A frame at a DisplayPort or DSI pin: output, frame number, check value (R166). -/
  | frame (output ofNum check : Nat)
  /-- A line of a DSI port's video mode: port, the kind of L:3450.04, data type, payload (R171). -/
  | dsiLine (port kind dataType : Nat) (payload : Bytes)
  /-- The polarities in a DisplayPort frame's main stream attributes, as L:3400.10 codes them (R176). -/
  | msa (port polarity : Nat)
  /-- Bits of a test pattern that a lane's pins drive (R237-R239). -/
  | line (lane : Nat) (bits : List Bool)
  deriving DecidableEq, Repr

/-- The pins that the block drives or reads as levels (R340, R395, R460). -/
structure Pins where
  pairActO : Bool := false
  pairActI : Bool := false
  thermTripN : Bool := true
  perstN : Bool := false
  deriving DecidableEq, Repr

/-! ### The ledger's register file -/

/-- Value types of the ledger (R407). -/
inductive Ty where
  | bool | u8 | u16 | u32 | u64 | u40 | i8 | i16 | i32 | i64 | f32 | time64 | str | blob
  deriving DecidableEq, Repr

/-- Access kinds (R408). -/
inductive Access where
  | ro | rw | rws | wo | const | ltd
  deriving DecidableEq, Repr

/-- The block that locks a static entry (R99). -/
inductive Lock where
  | none | anyOutput | output | dpPort | dsiPort | camPort | context | lane | laneGroup | swPort | spare
  | twin | ptp | channel
  deriving DecidableEq, Repr

/-- A Range column. -/
inductive Range where
  | any
  | span (lo hi : Int)
  | spanOr (lo hi : Int) (also : List Nat)
  | spanStep (lo hi step : Nat)
  | multipleOf (m : Nat)
  | oneOf (vs : List Nat)
  | lenIn (lo hi : Nat)
  /-- A range that its rule states in words; `Ledger.specialOk` holds it. -/
  | special
  deriving DecidableEq, Repr

/-- One ledger entry as its table gives it (R433). -/
structure Entry where
  sub : Nat
  ty : Ty
  acc : Access
  dflt : Nat := 0
  range : Range := .any
  len : Nat
  perSession : Bool := false
  nonVolatile : Bool := false
  readAtReset : Bool := false
  integratorOnly : Bool := false
  lock : Lock := .none
  deriving DecidableEq, Repr

/-- A shadow value and whether it was written since the last accepted commit (R98, R105). -/
structure Shadow where
  v : Val
  dirty : Bool
  deriving DecidableEq, Repr

/-- A value read in segments: the snapshot and when it was last read (R410). -/
structure ReadSnap where
  slot : Nat
  value : Bytes
  last : Nat
  deriving DecidableEq, Repr

/-- A segmented write in progress: entry, bytes so far, time of the latest segment (R410). -/
structure WriteHold where
  slot : Nat
  value : Bytes
  last : Nat
  deriving DecidableEq, Repr

/-- A ledger session (R417-R419). `snaps` and `holds` are its segmented reads and writes, one an entry, and `expired` the entries
whose segmented write ran out of time and whose next segment is told so (R410). -/
structure Session where
  id : Nat
  peer : Peer
  level : Nat
  pending : Bool := false
  challenge : Bytes := []
  challengeAt : Nat := 0
  nonce : Bytes := []
  keySlot : Option Nat := none
  lastSent : Nat := 0
  lastTxn : Option (Nat × Bytes) := none
  fields : Tbl Nat := []
  snaps : List ReadSnap := []
  holds : List WriteHold := []
  expired : List Nat := []
  deriving DecidableEq, Repr

/-- A CAN FD message being received from a peer node (R413). -/
structure CanMsg where
  node : Nat
  next : Nat
  bytes : Bytes
  last : Nat
  deriving DecidableEq, Repr

/-- A write of the non-volatile store that waits for the write in progress (R425): a peer's request, or a command's, with how it will
end. -/
inductive HeldWrite where
  | frame (p : Peer) (r : Req)
  | row (ss key : Nat) (v : Val) (result : StoreEnd)
  deriving DecidableEq, Repr

/-- The ledger's paths and sessions (R409-R420): the mailboxes' status, request and response buffers, the bytes of the MSI-X table
by their offset in BAR0 (R415), and the writes that wait for the non-volatile store (R425). -/
structure Access' where
  sessions : List Session := []
  failures : List (Nat × Nat) := []
  lockedOut : List (Nat × Nat) := []
  can : List (Nat × CanMsg) := []
  udpWindow : Nat × Nat := (0, 0)
  mailbox : Tbl Nat := []
  mailboxReply : Tbl Bytes := []
  mailboxRequest : Tbl Bytes := []
  msixTable : Tbl Nat := []
  heldWrites : List HeldWrite := []
  recovery : Bool := false
  deriving DecidableEq, Repr

/-- One row of the tally (R428). -/
structure TallyRow where
  time : Nat
  timeState : Nat
  recovered : Bool
  index : Nat
  sub : Nat
  left : Nat
  old : Nat
  new : Nat
  deriving DecidableEq, Repr

/-- The fuses (R421-R428). -/
structure Fuses where
  debugLock : Bool := false
  policy : Nat := 0
  minSecurity : Nat := 0
  imageKeyRevoked : List Nat := []
  integratorKeys : List Bytes := []
  integratorRevoked : List Nat := []
  roleLocks : List Nat := []
  aliases : List Nat := []
  tally : List TallyRow := []
  unrecorded : Option TallyRow := none
  deriving DecidableEq, Repr

/-- One copy of the non-volatile store, and whether the CRC-32C at its end agrees with what it holds (R425, R426). -/
structure NvCopy where
  generation : Nat := 0
  valid : Bool := true
  regs : Tbl Nat := []
  blobs : Tbl Bytes := []
  saved : Option (Tbl Nat × Tbl Bytes) := none
  baselines : Tbl Nat := []
  deriving DecidableEq, Repr

/-! ### Ingots and freshness -/

/-- Ingot states (R30). -/
inductive IngotState where
  | free | filling | ready | scanning | draining
  deriving DecidableEq, Repr

/-- What fills an Ingot (R33). -/
inductive Filler where
  | none | port | host | hostCheck | writeback | isp
  deriving DecidableEq, Repr

/-- One entry of the Ingot table (R30). `readers` lists the reader numbers that hold a reference:
0-17 engines, 18-41 Swage ports, 42-45 check-value units (R32); `counted` says that frozen detection was on when its
frame's ingest started or its publish was requested (R50), and `written` that a writeback filled it (R53, R143). -/
structure Ingot where
  st : IngotState := .free
  readers : List Nat := []
  slot : Nat := 0xFF
  origin : Nat := 0
  foreign : Bool := false
  era : Nat := 0
  unlocked : Bool := false
  expired : Bool := false
  seq : Nat := 0
  marks : Nat := 0
  check : Nat := 0
  base : Nat := 0
  size : Nat := 0
  filler : Filler := .none
  released : Bool := false
  counted : Bool := false
  written : Bool := false
  deriving DecidableEq, Repr

/-- Layer states as L:2020.02 codes them (R42). -/
inductive LayerState where
  | live | stale | noSignal | frozen | time | fault
  deriving DecidableEq, Repr

/-- A view group (R44, R49): the pieces of one view on outputs of one frame period. `frame` is the Ingot of the
latest decision, `ingot` the one its layers read, `decided` the output frame it was decided for. -/
structure Group where
  index : Nat := 0
  shown : LayerState := .live
  code : Option Code := none
  count : Nat := 0
  counted : Option Nat := none
  age : Option Nat := none
  origin : Nat := 0
  seq : Nat := 0
  frame : Option Nat := none
  ingot : Option Nat := none
  budget : Nat := 0
  decided : Option Nat := none
  recovering : Bool := false
  deriving DecidableEq, Repr

/-- A source slot as the plan in force binds it: where its Ingots stand, the bytes that it takes of its target, and of a camera the
place and length of its statistics and raw staging rings (R70, R81, R186, R201, R462). -/
structure Source where
  id : Nat
  kind : Nat
  fmt : Nat
  rate : Nat
  locator : Nat
  width : Nat
  height : Nat
  name : Bytes
  ingotCount : Nat
  memory : Nat
  upPort : Nat
  upStream : Nat
  target : Nat := 0
  bases : List Nat := []
  size : Nat := 0
  span : Nat := 0
  ringBase : Nat := 0
  ringSpan : Nat := 0
  deriving DecidableEq, Repr

/-- What ingest holds of a source slot between frames (R36, R50, R51, R84); `forwarded` the frames of it sent upstream, by
sequence and time (R256). -/
structure Slot where
  set : List Nat := []
  oldSet : List Nat := []
  latest : Option Nat := none
  run : Nat := 0
  runCheck : Option Nat := none
  sticky : Bool := false
  lastAccepted : Option Nat := none
  hostSeq : Nat := 0
  published : Bool := false
  lastSeq : Option Nat := none
  headers : Nat := 0
  arrivals : List Nat := []
  sentIngot : Option Nat := none
  forwarded : List (Nat × Nat) := []
  deriving DecidableEq, Repr

/-! ### Scenes, plans and commits -/

/-- A screen record (R68). -/
structure Screen where
  id : Nat
  device : Nat
  output : Nat
  x : Int
  y : Int
  aw : Nat
  ah : Nat
  bt : Nat
  br : Nat
  bb : Nat
  bl : Nat
  px : Nat
  py : Nat
  deriving DecidableEq, Repr

/-- A source record as the scene gives it (R70). -/
structure SrcRec where
  id : Nat
  device : Nat
  slot : Nat
  kind : Nat
  fmt : Nat
  rate : Nat
  locator : Nat
  width : Nat
  height : Nat
  name : Bytes
  ingots : Nat
  memory : Nat
  upPort : Nat
  upStream : Nat
  deriving DecidableEq, Repr

/-- A view record (R72); `bad` says a reserved bit is set or a field is outside its table. -/
structure View where
  id : Nat
  source : Nat
  cx : Nat
  cy : Nat
  cw : Nat
  ch : Nat
  dx : Int
  dy : Int
  dw : Nat
  dh : Nat
  z : Nat
  alpha : Nat
  prio : Nat
  flags : Nat
  budget : Nat
  bad : Bool
  deriving DecidableEq, Repr

/-- A scene after its structural check (R66-R72). -/
structure Scene where
  tag : Nat
  screens : List Screen
  sources : List SrcRec
  views : List View
  deriving DecidableEq, Repr

/-- One field of a staged image or a plan: ledger key, number of its part, value (R105). -/
structure Staged where
  key : Nat
  inst : Nat
  v : Val
  deriving DecidableEq, Repr

/-- A plan with the scene it was made from (R90, R91): its plan-derived fields, the source of each slot, the engine
and stream of each output, the view of each local index, and the views that it withdraws (R93). -/
structure Plan where
  scene : Bytes := []
  tag : Nat := 0
  epoch : Nat := 0
  report : Bytes := []
  fields : List Staged := []
  sources : List (Nat × Source) := []
  engines : List (Nat × Nat × Nat) := []
  views : List (Nat × Nat) := []
  withdrawn : List Nat := []
  deriving DecidableEq, Repr

/-- What a running placement serves (R89, R92, R399). -/
inductive Placing where
  | idle
  | host (slot : Nat) (scene : Bytes)
  | dry (scene : Bytes)
  | startUp (scene : Bytes)
  | auto (scene : Bytes) (epoch : Nat)
  deriving DecidableEq, Repr

/-- The placement engine (R89-R94): the placement that runs, the shadow as it started, plans by slot, by how much
each channel's ceiling is lowered, how many plans have come into force, and whether the start-up scene waits for a placement to
end (R399). -/
structure Smith where
  placing : Placing := .idle
  inputs : Tbl Shadow := []
  slots : Tbl Plan := []
  lowered : Tbl Nat := []
  installed : Nat := 0
  startUpDue : Bool := false
  deriving DecidableEq, Repr

/-- Ticket states (R117). -/
inductive TicketState where
  | unknown | waiting | applied | refused | cancelled
  deriving DecidableEq, Repr

/-- A ticket of the history (R117). -/
structure Ticket where
  id : Nat
  st : TicketState := .waiting
  first : Option Nat := none
  last : Option Nat := none
  code : Option Code := none
  pair : Nat := 0
  member : Nat := 0xFF
  acceptedAt : Nat := 0
  deriving DecidableEq, Repr

/-- A part of a commit that one output applies: the output, its frame, the fields, and whether it has (R106). -/
structure Part where
  output : Nat
  frame : Nat
  fields : List Staged
  done : Bool := false
  deriving DecidableEq, Repr

/-- A commit requested, or accepted and waiting (R103-R121): `wall` says it was requested wall-wide, `auto` that an
automatic re-plan makes it. `applyWF` is the wall frame at which `fields` and the plan apply; `parts` are the outputs'
own; `rest` waits for the points of R109; `image` is what acceptance froze. Of a wall-wide commit, `coordinator` is the
member that leads it, `asked` the port and the tag of a Prepare that waits for its domains (R118, R389), `members` those that must answer, with their brought-forward seals in `answers`, and `go` the
decision held. `first` and `last` are the wall frames at which parts of it have taken effect (R117). -/
structure Pending where
  ticket : Nat
  slot : Nat := 0xFF
  target : Nat := 0
  wall : Bool := false
  auto : Bool := false
  plan : Option Plan := none
  applyWF : Option Nat := none
  fields : List Staged := []
  parts : List Part := []
  rest : List Staged := []
  image : List Staged := []
  lockedIn : Bool := false
  coordinator : Option Nat := none
  asked : Option (Nat × Nat) := none
  members : List Nat := []
  answers : List (Nat × Nat) := []
  refusedBy : Option (Nat × Code) := none
  deadline : Nat := 0
  go : Option Bool := none
  first : Option Nat := none
  last : Option Nat := none
  deriving DecidableEq, Repr

/-- A member of the wall as its presence shows it (R120): when it was last heard, and on which port. -/
structure WallMember where
  number : Nat
  serial : Nat
  pair : Nat
  heard : Nat
  port : Nat
  deriving DecidableEq, Repr

/-- Commit handling (R103-R121): `tickets` are the last of this device's own, `others` those of coordinators (log entry
144). `reports` holds, of a wall-wide commit this device coordinated, the ticket, the members
whose applied report is expected, and the target; `hadPort` says that a port of trust level 4 has come into service. -/
structure Commits where
  seq : Nat := 0
  requests : List Pending := []
  waiting : List Pending := []
  tickets : List Ticket := []
  others : List Ticket := []
  reports : List (Nat × List Nat × Nat) := []
  members : List WallMember := []
  listenSince : Option Nat := none
  hadPort : Bool := false
  lastPresence : Option Nat := none
  deriving DecidableEq, Repr

/-! ### Composition, outputs and engines -/

/-- One layer as a bank holds it for an output frame (R124-R139): the veil drawn, or the frame fetched. `pix` holds
the fetched bytes line by line, `off` the output pixel from which the layer is switched off (R45, R161), and `underran`
that an underrun did so (R162). -/
structure Draw where
  engine : Nat
  layer : Nat
  stack : Nat
  gid : Nat
  slot : Nat
  name : Bytes
  veil : Option (LayerState × Bool × Nat) := none
  ingot : Option Nat := none
  origin : Nat := 0
  foreign : Bool := false
  unlocked : Bool := false
  budget : Option Nat := none
  age : Nat := 0
  fmt : Nat := 3
  stride : Nat := 0
  fx : Nat := 0
  fy : Nat := 0
  fw : Nat := 1
  fh : Nat := 1
  dx : Nat := 0
  dy : Nat := 0
  dw : Nat := 1
  dh : Nat := 1
  alpha : Nat := 1023
  premult : Bool := false
  scaler : Nat := 0xFF
  pre : Nat := 1
  stepH : Nat := 1048576
  stepV : Nat := 1048576
  initH : Int := 0
  initV : Int := 0
  tabH : Nat := 0
  tabV : Nat := 16
  coefH : Bytes := []
  coefV : Bytes := []
  pix : Bytes := []
  off : Option (Nat × Nat) := none
  underran : Bool := false
  deriving DecidableEq, Repr

/-- A bank: what an output frame is composed from (R102). -/
structure Bank where
  ofNum : Nat := 0
  draws : List Draw := []
  background : Nat := 0x3FF
  colourA : Nat := 0
  colourB : Nat := 0
  textColour : Nat := 0
  motion : Bool := true
  holdLimit : Nat := 0
  origin : Nat := 0
  unlocked : Bool := false
  anyVeil : Bool := false
  tFal : Nat := 0
  deriving DecidableEq, Repr

/-- What an output sends in a frame (R56, R155, R168, R174). -/
inductive FrameKind where
  | composed | filled | repeated | fault | nothing
  deriving DecidableEq, Repr

/-- The held frame of an egress (R167, R168): its bank and check value, and which of the two hold buffers it lies in. -/
structure Held where
  bank : Bank
  check : Nat
  half : Bool := false
  deriving DecidableEq, Repr

/-- A Swage frame sent, awaiting its witness (R59, R256). -/
structure SentFrame where
  ofNum : Nat
  check : Nat
  reported : Bool := false
  deriving DecidableEq, Repr

/-- An output and its egress unit (R152-R173). `nextOf` is the number of the next frame and `phase` its phase error in
parts of a ns, `curOf` and `curPhase` those of the frame in progress, `cut` what correction has taken of it (R285); `started` says a frame has started, `begun` that its egress sent
it from its start, `sealed` that the seal before the next has been taken. `fed` counts the data cells of a
Swage frame that wait for their slots or have gone (R250). `cur` and
`next` are the banks, `fillLine` the first line that holds the fill colour, `veto` that a substitution is decided,
`struck` that a fault struck its recovery (R334), `uncovered` that a full queue left its fault unserved (R335),
`noEngine` that its engine failed with no reserve free (R175); `limitReached` says that the hold limit has been reported,
`witFails` and `witPasses` count
consecutive witness failures and passes, and `takeoverWait` says its egress waits on a pair-mode take-over. -/
structure Output where
  running : Bool := false
  nextOf : Nat := 0
  phase : Int := 0
  curOf : Nat := 0
  cut : Nat := 0
  curPhase : Int := 0
  started : Bool := false
  begun : Bool := false
  sealed : Bool := false
  cur : Bank := {}
  next : Option Bank := none
  kind : FrameKind := .nothing
  fillLine : Option Nat := none
  held : Option Held := none
  sent : List SentFrame := []
  trailerDue : Bool := false
  fed : Nat := 0
  veto : Bool := false
  struck : Bool := false
  uncovered : Bool := false
  noEngine : Bool := false
  limitReached : Bool := false
  witFails : Nat := 0
  witPasses : Nat := 0
  teSeen : Bool := false
  underrun : Bool := false
  lineDone : Bool := false
  blankDone : Bool := false
  frameDone : Bool := false
  takeoverWait : Bool := false
  deriving DecidableEq, Repr

/-- A DisplayPort sink plugged into a port: its link rate, its lanes, its EDID, whether it allows down-spread, and whether
the link runs with it (R169). -/
structure Sink where
  rate : Nat
  lanes : Nat
  edid : Bytes := []
  spread : Bool := false
  spreadOn : Bool := false
  deriving DecidableEq, Repr

/-- What an engine holds beside its entries L:3420 (R144, R337): whether it passed its test, the Ingot its
writeback fills, and the output frame it captured last. -/
structure Engine where
  tested : Bool := false
  wbIngot : Option Nat := none
  wbOf : Option Nat := none
  deriving DecidableEq, Repr

/-- An engine substitution running (R174). -/
structure Subst where
  engine : Nat
  reserve : Nat
  since : Nat
  armed : Bool
  outs : List Nat
  deriving DecidableEq, Repr

/-- What calls for an automatic re-plan: resources that have changed, or underruns under a plan, by its place among those that
have come into force (R92, R333). -/
inductive Cause where
  | resources
  | underrun (installed : Nat)
  deriving DecidableEq, Repr

/-- A recovery action of the queue (R332, R333); an engine substitution never waits in it. -/
inductive Recovery where
  | replan (cause : Cause)
  | evacuate (channel : Nat)
  | laneRetrain (lane : Nat)
  | switchBack (engine : Nat)
  | laneBack (lane : Nat)
  deriving DecidableEq, Repr

/-- Substitution and the recovery queue (R174, R332-R337); `backWF` is the wall frame at which a switch-back in
progress moves. -/
structure Recover where
  subst : Option Subst := none
  queue : List Recovery := []
  active : Option Recovery := none
  testing : Option Nat := none
  backWF : Option Nat := none
  replanned : Bool := false
  deriving DecidableEq, Repr

/-! ### Cameras and the image pipeline -/

/-- An exposure setting issued (R205). -/
structure ExpGen where
  gen : Nat
  lines : Nat
  analogue : Nat
  digital : Nat
  deriving DecidableEq, Repr

/-- The parameter set and Temper tables of a context as a frame's Frame Start found them (R190, R193, R194): its binding
and outputs, L:3840; black level, defect detection, matrix, noise reduction and sharpening, L:3850; the white-balance
gains of R, G and B; the tables of kinds 0, 1 and 2; and whether the loops are manual. -/
structure IspSet where
  width : Nat := 0
  height : Nat := 0
  dataType : Nat := 0
  order : Nat := 0
  display : Nat := 4
  decimation : Nat := 1
  coding : Nat := 0
  codingScale : Nat := 1
  codingSlot : Nat := 0xFF
  vision : Nat := 0
  visionScale : Nat := 1
  visionSlot : Nat := 0xFF
  black : Nat := 0
  dynamic : Bool := false
  matrix : Bytes := []
  noise : Nat := 0
  sharp : Nat := 0
  gains : Nat × Nat × Nat := (256, 256, 256)
  shading : Bytes := []
  tone : Bytes := []
  defects : Bytes := []
  aeManual : Bool := false
  awbManual : Bool := false
  deriving DecidableEq, Repr

/-- A camera frame in its staging slot (R186-R190): `lines` holds the payload that its staging slot holds of each line, the
latest line first; `isp`, the generation with its setting and exposure in ns, the fill colour, the policy, and in
`checked` the slots whose frozen detection counts it, are those in force at its Frame Start. -/
structure CamFrame where
  ctx : Nat
  seq : Nat
  slot : Nat
  origin : Nat
  unlocked : Bool
  era : Nat
  isp : IspSet := {}
  lines : List Bytes := []
  marks : Nat := 0
  crc : Nat := 0xFFFFFFFF
  ended : Nat := 0
  generation : Nat := 0
  setting : Option ExpGen := none
  exposure : Nat := 0
  certain : Bool := false
  embedded : Bytes := []
  lastPacket : Nat := 0
  fill : Nat := 0
  policy : Nat := 0
  checked : List Nat := []
  deriving DecidableEq, Repr

/-- An exposure transfer that runs: its generation, the frame whose window it started in, whether a Frame Start has
arrived since, and whether it is tried again (R205, R206). -/
structure ExpXfer where
  gen : Nat
  frame : Nat
  during : Bool := false
  retry : Bool := false
  deriving DecidableEq, Repr

/-- A camera context between packets (R183-R207): `dropped` the time of the latest packet of a frame that was not accepted,
`window` its last exposure window with the time it opened, the frame that ended and the time it closes, `effects` the
generations in effect by first frame, `uncertain` ranges of frames, `deferred` the generations that wait for a window
with whether each is tried again, `failedIn` the frame whose window was the last in which a transfer failed, `owed` that a manual setting waits to be issued, `stats` the generation, validity,
certainty and sequence of the latest statistics block that the exposure loop has not seen, `balance` that the
white-balance loop has not seen it, and `wb` that loop's gains. -/
structure Ctx where
  cur : Option CamFrame := none
  dropped : Option Nat := none
  waiting : List CamFrame := []
  lastFs : Option Nat := none
  period : Option Nat := none
  window : Option (Nat × Nat × Nat) := none
  lastAcceptedFs : Option Nat := none
  gens : List ExpGen := []
  effects : List (Nat × Nat) := []
  uncertain : List (Nat × Option Nat) := []
  transfer : Option ExpXfer := none
  deferred : List (Nat × Bool) := []
  owed : Bool := false
  stats : Option (Nat × Bool × Bool × Nat) := none
  balance : Bool := false
  wb : Nat × Nat × Nat := (256, 256, 256)
  failedIn : Option Nat := none
  deriving DecidableEq, Repr

/-- A pipeline with the frame and Ingots it holds, and whether a write of its statistics has been refused (R190-R192). -/
structure Pipe where
  frame : Option CamFrame := none
  statsLost : Bool := false
  display : Option Nat := none
  coding : Option Nat := none
  vision : Option Nat := none
  deriving DecidableEq, Repr

/-- A host transfer of a camera port's control bus (R208). -/
structure BusXfer where
  write : Bytes
  read : Nat
  address : Nat
  since : Nat
  started : Bool := false
  deriving DecidableEq, Repr

/-- A camera port (R178-R182): when its latest Frame Start arrived and when it was enabled; its uncorrectable headers and
whether an unmarked frame ended in the second that runs. -/
structure CamPort where
  xfer : Option BusXfer := none
  lastFs : Option Nat := none
  enabledAt : Nat := 0
  errors : Nat := 0
  unmarked : Bool := false
  deriving DecidableEq, Repr

/-! ### Swage lanes and ports -/

/-- Why a lane is brought up apart from its port's others: it retrains (R236), or runs to its test rate for far-end
loopback (R238). -/
inductive Solo where
  | no | retrain | loop
  deriving DecidableEq, Repr

/-- A lane between blocks and anchors (R217-R238). `since` is when it entered its state, `fails` counts bring-up
failures, `capSeen` identical receptions of the partner's capability pair, `stepDone` says it has passed the step its
group is in, `want` is the preset it asks its partner for, `rates` the rates passed with the presets kept, `ready` that
a retrained lane stands as its port's spare, and `carries` the lane it stands for. `scram` is the block scrambler, `blockNo`
the place in the blocks that a state repeats, `pattern`, `check` and `checked` the test pattern's register, its checker's
and the bits that took, `sinceFlip` the bits or intervals since an injection, and `flipNext` one that the next takes. -/
structure Lane where
  since : Nat := 0
  fails : Nat := 0
  stepDone : Bool := false
  capA : Nat := 0
  capB : Nat := 0
  capSeen : Nat := 0
  capHalf : Bool := false
  acked : Bool := false
  seed : Nat := 0
  merits : List (Nat × Nat) := []
  want : Nat := 0
  selfDone : Bool := false
  peerDone : Bool := false
  stepTo : Option Nat := none
  finalRate : Bool := false
  rates : List (Nat × Nat) := []
  anchorLock : Nat := 0
  lostRun : Nat := 0
  blockErr : Nat := 0
  blockN : Nat := 0
  fillStart : Option Nat := none
  mayBank : Bool := false
  looped : Bool := false
  solo : Solo := .no
  ready : Bool := false
  carries : Option Nat := none
  firstCount : Nat := 0
  spreadOff : Bool := false
  scram : Nat := 0
  blockNo : Nat := 0
  pattern : Nat := 0
  check : Nat := 0
  checked : Nat := 0
  sinceFlip : Nat := 0
  flipNext : Bool := false
  deriving DecidableEq, Repr

/-- An inbound video frame of a stream (R253, R254): the Ingot it fills (none once it is discarded), the index of the next
data cell, and the running check of the payload received. -/
structure RxFrame where
  slot : Nat
  stream : Nat
  seq : Nat
  ingot : Option Nat
  cells : Nat
  next : Nat := 1
  crc : Nat := 0xFFFFFFFF
  got : Nat := 0
  gap : Bool := false
  marks : Nat := 0
  last : Nat := 0
  deriving DecidableEq, Repr

/-- A message cell waiting for acknowledgement, and the first 24 bytes of its message (R257-R259). -/
structure MsgCell where
  seq : Nat
  cell : Bytes
  head : Bytes := []
  deriving DecidableEq, Repr

/-- A cell that waits for a slot of its port, and when its frame is due (R244). -/
structure Waiting where
  due : Int
  cell : Bytes
  deriving DecidableEq, Repr

/-- A Swage port between cells (R242-R263). `outbox` holds the cells that wait for a slot, in the order of R244. `substGood` counts good anchors on the spare of the substitution that
`substReq` requests, `substLater` is one that waits
for it, `backFrom` the spare that a lane moves back from, `peerReq` the logical lane of the partner's request that was taken
(R235, R338), `parked` that it is kept in Banked for a partner device; `exch` is the exchange that waits for its
response: number, t1, t2 and t3; `ended` are the inbound frames that have ended with marks and wait for writes that have not
been granted (R300). -/
structure Port where
  rx : List RxFrame := []
  ended : List (RxFrame × Nat) := []
  crcTimes : List Nat := []
  msgTimes : List Nat := []
  rxNext : Nat := 0
  rxMsg : Nat := 0
  rxParts : List Bytes := []
  txNext : Nat := 0
  txSent : Nat := 0
  txAcked : Nat := 0
  txCredit : Nat := 0
  txQueue : List MsgCell := []
  lastAdvance : Nat := 0
  timeouts : Nat := 0
  resetting : Bool := false
  nextMsg : Nat := 0
  exch : Option (Nat × Nat × Nat × Nat) := none
  exchNo : Nat := 0
  exchAt : Nat := 0
  senderState : Option Nat := none
  timeLost : Bool := false
  lastExch : Option Nat := none
  idleSince : Nat := 0
  bankReq : Bool := false
  anchorCount : Nat := 0
  substReq : Option Nat := none
  substGood : Nat := 0
  substLater : Option Nat := none
  backFrom : Option Nat := none
  peerReq : Option Nat := none
  drops : List Nat := []
  slow : Bool := false
  parked : Bool := false
  outbox : List Waiting := []
  deriving DecidableEq, Repr

/-! ### Time -/

/-- A frame that waits in the bridge: which PTP message it is, whether over UDP, when it arrived, corrected, and its bytes
with the check sequence (R280, R281). -/
structure EthFrame where
  event : Option Nat
  udp : Bool
  rx : Int
  bytes : Bytes
  deriving DecidableEq, Repr

/-- The bridge's frames for one Ethernet port, oldest first, and until when one that has started takes it (R280). -/
structure EthQueue where
  queue : List EthFrame := []
  busyUntil : Nat := 0
  deriving DecidableEq, Repr

/-- A PTP master heard (R277). -/
structure Master where
  port : Nat
  id : Nat
  gm : Nat
  p1 : Nat
  p2 : Nat
  cls : Nat
  acc : Nat
  var : Nat
  steps : Nat
  heard : Nat
  deriving DecidableEq, Repr

/-- The time unit's hidden state (R268-R288): L:4800 and L:4808 hold the rest. `counter` is the time counter, which stops
while its domain sleeps; `uptime` is the model's own count of ns since reset, by which intervals are measured; `sentSync` and `sentAnnounce` are when it last sent them as grandmaster (R278). -/
structure TimeUnit where
  counter : Nat := 0
  uptime : Nat := 0
  running : Bool := true
  lockedSince : Option Nat := none
  good : Nat := 0
  bad : Nat := 0
  holdoverSince : Option Int := none
  rates : List (Nat × Nat) := []
  rateAtLock : Nat := 0
  sweeps : List Nat := []
  lastSync : Option Nat := none
  lastAnnounce : Option Nat := none
  hostAt : Option Nat := none
  own : Nat := 2
  samples : List Int := []
  syncPending : Option (Nat × Nat × Nat × Int) := none
  delaySent : Option (Nat × Int × Int × Int) := none
  pdelaySent : Tbl (Nat × Int) := []
  ptpSeq : Nat := 0
  sentSync : Option Nat := none
  sentAnnounce : Option Nat := none
  masters : List Master := []
  peerDelay : Tbl Int := []
  ether : Tbl EthQueue := []
  deriving DecidableEq, Repr

/-! ### Fabric and memory -/

/-- A request waiting at or held by a target (R295, R297): when its master issued it, the fabric cycle in which it reached the
head of its port's queue, and, once granted, the cycles it waited, the number of its grant, which is the order of arrival at the target,
and what a queued write answers it with (R318). -/
structure FabItem where
  port : Nat
  target : Nat
  req : FabReq
  issued : Nat
  since : Nat
  granted : Option Nat := none
  order : Nat := 0
  answer : Option Bytes := none
  deriving DecidableEq, Repr

/-- A locked sequence that waits for the register space (R303, R304): its port, its accesses, the class that they count under,
and the fabric cycle in which it became pending. -/
structure LockedRun where
  port : Nat
  accesses : Nat
  cls : Nat
  since : Nat
  deriving DecidableEq, Repr

/-- A read of the host through a memory window (R415): its first device address and length, the identifiers of the bursts that
have not come, the bytes of those that have, and whether it has ended with Completer Abort (R301). -/
structure HostRead where
  base : Nat
  len : Nat
  left : List Nat
  parts : Tbl Bytes := []
  failed : Bool := false
  deriving DecidableEq, Repr

/-- The Tongs fabric (R291-R305): requests in the order they were presented, the number of the latest grant of each
port at each target, the frames that each port has handled, what the latest read of each port returned, with the
identifier of its request, the fabric cycle from which each target's command path is free, the locked sequences that wait, and
the host's reads in progress. -/
structure Fabric where
  queue : List FabItem := []
  lastGrant : Tbl Nat := []
  grants : Nat := 0
  frames : Tbl Nat := []
  returned : Tbl (Nat × Bytes) := []
  pathFree : Tbl Nat := []
  locks : List LockedRun := []
  reads : List HostRead := []
  deriving DecidableEq, Repr

/-- One entry of the memory error log (R313). -/
structure MemErr where
  location : Nat
  address : Nat
  syndrome : Nat
  port : Nat
  time : Nat
  deriving DecidableEq, Repr

/-- A DRAM channel between events (R309-R328): when errors were corrected in the last hour, whether it starts from
stored training values, whether it trains to return to service, whether it is trained again once evacuated, when its last request completed, the
open row of each bank, the order number of the request that it serves (R317), and the rate and density that it last trained
at (R309). `refreshed` is when the last refresh fell due (R319), `trackedAt` when it was last tracked (R323), `scrubbed` the
sectors that this pass of the scrubber has read and `scrubFrom` when it began (R314), `aborted` that its entry into self-refresh
has been aborted (R325); `checks` are the check blocks in its cache, the latest first, and `checkReads` and `checkWrites` the
check traffic of its load (R312). -/
structure Chan where
  corrected : List Nat := []
  stored : Bool := false
  returning : Bool := false
  trainAfter : Bool := false
  idleSince : Nat := 0
  openRows : Tbl Nat := []
  serving : Option Nat := none
  rate : Nat := 5
  density : Nat := 2
  refreshed : Nat := 0
  trackedAt : Nat := 0
  scrubbed : Nat := 0
  scrubFrom : Nat := 0
  aborted : Bool := false
  checks : List Nat := []
  checkReads : Nat := 0
  checkWrites : Nat := 0
  deriving DecidableEq, Repr

/-- DRAM and Crucible (R308-R328). `mem` lists each byte that differs from the value an unlisted address
reads as, addresses rising; `moved` says that the hold regions of the channel being evacuated have moved (R327), `tracked` is
the channel tracked last (R323). -/
structure Dram where
  mem : List Host.Cell := []
  chans : Tbl Chan := []
  errors : List MemErr := []
  evacuating : Option Nat := none
  moved : Bool := false
  tracked : Option Nat := none
  deriving DecidableEq, Repr

/-! ### The pair -/

/-- One copy of an image section of the Ember store: the generation that writes it, and its bytes (R345). -/
structure Section' where
  generation : Nat := 0
  bytes : Bytes := []
  deriving DecidableEq, Repr

/-- What the Ember header holds of a section: the copy in force (0 A, 1 B), its generation, length and CRC-32C (R345). -/
structure Head where
  copy : Nat := 1
  generation : Nat := 0
  len : Nat := 0
  crc : Nat := 0
  deriving DecidableEq, Repr

/-- A Time frame received: the Active's wall time, rate, time state and holdover elapsed, when it came, and what the receiver
measured with it: Bellows clock cycles to Hearth's next edge, and in the interval before it (R347). -/
structure TimeMark where
  wall : Nat
  rate : Nat
  st : Nat
  elapsed : Nat
  got : Nat
  toEdge : Nat := 0
  interval : Nat := 0
  deriving DecidableEq, Repr

/-- What section 4 of the Ember store holds of a channel (R345): the rate and density at which it trained, and its training values. -/
structure Trained where
  rate : Nat
  density : Nat
  values : Nat
  deriving DecidableEq, Repr

/-- What section 5 of the Ember store holds of a parked port (R345): its rate, the next anchor count, and of each lane its number, its
preset and its session seed. -/
structure ParkRec where
  rate : Nat
  count : Nat
  lanes : List (Nat × Nat × Nat)
  deriving DecidableEq, Repr

/-- The pair interface (R339-R354): the partner's heartbeat and the pulses missed; the Ember store's copies A and B of
sections 1-3, what its header in force says of them, the header's two copies, when one was last committed, and how many have been
since reset; the Time frame record of section 3; sections 4 and 5, by channel and by port, each with its other copy (R345). Of a takeover: when the loss was declared and whether it is still to be
logged, that steps 1 to 5 are done, and the outputs that have sent a freshly composed frame. -/
structure Pair where
  lastEdge : Option Nat := none
  missed : Nat := 0
  secA : Tbl Section' := []
  secB : Tbl Section' := []
  header : Tbl Head := []
  copyA : Bytes := []
  copyB : Bytes := []
  committedAt : Option Nat := none
  lastTime : Option TimeMark := none
  training : Tbl Trained := []
  trainingOther : Tbl Trained := []
  parking : Tbl ParkRec := []
  parkingOther : Tbl ParkRec := []
  headerCommits : Nat := 0
  pushedAt : Nat := 0
  yielded : Bool := false
  declaredAt : Option Nat := none
  unlogged : Bool := false
  ready : Bool := false
  sentFresh : List Nat := []
  deriving DecidableEq, Repr

/-! ### Keys -/

/-- A key between gates (R357-R373); its state, readings, baselines and counters are ledger registers. The counts run
toward a press, a release or exit, a re-calibration, a fault and the end of one; `signal` is its signal at the gate evaluated
last, and `sum` adds up the first readings of a key whose start-up is undecided. -/
structure Key where
  signal : Int := 0
  press : Nat := 0
  release : Nat := 0
  neg : Nat := 0
  edge : Nat := 0
  good : Nat := 0
  onSince : Option Nat := none
  starting : Bool := false
  sum : Nat := 0
  deriving DecidableEq, Repr

/-- The key front end (R357-R374): keys, the run of dry scans of each group, gates since reset, records waiting, the
baselines that a running save writes, when the last activity and the last automatic save were, whether the gating output's
blanking is too short for a gate (R361), when the last gate opened, and the instant that the next is scheduled for (R360,
R372). -/
structure Keys where
  key : Tbl Key := []
  dry : Tbl Nat := []
  scan : Nat := 0
  queue : List Bytes := []
  saving : Option (Tbl Nat) := none
  lastActive : Nat := 0
  autoAt : Nat := 0
  short : Bool := false
  openAt : Option Nat := none
  dueAt : Nat := 0
  deriving DecidableEq, Repr

/-! ### Check-value units, power, boot -/

/-- A check-value unit's scan (R379-R385), whose registers are L:6000: its range, the bytes folded, the Ingot named and
the stop asked for (3 suspend, 4 abort). -/
structure Scan where
  start : Nat := 0
  len : Nat := 0
  done : Nat := 0
  ingot : Option Nat := none
  stopReq : Nat := 0
  deriving DecidableEq, Repr

/-- What a firmware swap in progress holds in the hand-off area (R402, R403): the slot left and the slot started, whether
it goes back from a trial, whether the slot started has failed, so that the slot left starts again, and whether that has failed
too. One that has `ended` is what the area still holds, across a reset as well (R395). -/
structure HandOff where
  from' : Nat
  dest : Nat
  back : Bool := false
  failed : Bool := false
  lost : Bool := false
  ended : Bool := false
  since : Nat
  deriving DecidableEq, Repr

/-- Power, clocks, boot and live update (R388-R404): REFCLK, the crystal, since when each domain that is on is not needed,
the domains whose request waits for a power-down, whether the controller runs and a slot has been started since reset,
the bytes of the firmware slots in flash, the hand-off area, the trial in progress, the slot being verified, the slot that a
reset during a trial boots in place of the preferred one, and whether a reset waits for REFCLK. -/
structure Power where
  refclk : Bool := true
  crystal : Bool := false
  crystalLate : Bool := false
  unneeded : Tbl Nat := []
  waitingOn : List Nat := []
  mgmt : Bool := false
  booted : Bool := false
  flash : Tbl Bytes := []
  handOff : Option HandOff := none
  trialSince : Option Nat := none
  verifying : Option Nat := none
  bootFrom : Option Nat := none
  held : Bool := false
  deriving DecidableEq, Repr

/-! ### The state of the block -/

/-- The state of a Dolquin: the ledger's registers and what each chapter's engines hold. `regs`, `blobs` and
`shadow` are keyed by `regKey`; `fresh` counts the free values drawn (log entry 4) and `pending` is the
model's own queue of commands, first in, first out. -/
structure State where
  log : Log := {}
  sent : List Sent := []
  pins : Pins := {}
  regs : Tbl Nat := []
  blobs : Tbl Bytes := []
  shadow : Tbl Shadow := []
  acc : Access' := {}
  fuses : Fuses := {}
  nvA : NvCopy := {}
  nvB : NvCopy := {}
  ingots : Tbl Ingot := []
  groups : Tbl Group := []
  sources : Tbl Source := []
  slots : Tbl Slot := []
  smith : Smith := {}
  plan : Option Plan := none
  planSlot : Nat := 0xFF
  commits : Commits := {}
  outputs : Tbl Output := []
  engines : Tbl Engine := []
  sinks : Tbl Sink := []
  panels : Tbl Nat := []
  recover : Recover := {}
  ctxs : Tbl Ctx := []
  pipes : Tbl Pipe := []
  camPorts : Tbl CamPort := []
  lanes : Tbl Lane := []
  ports : Tbl Port := []
  time : TimeUnit := {}
  fabric : Fabric := {}
  dram : Dram := {}
  pair : Pair := {}
  keys : Keys := {}
  scans : Tbl Scan := []
  power : Power := {}
  fresh : Nat := 0
  pending : List Instr := []
  deriving DecidableEq, Repr

/-- The reasons for which the block stops. -/
inductive Fault where
  /-- Raised by `execSysRstN` when SYS_RST_N is low for at least 1 µs and less than 10 µs: "shorter pulses
  are filtered below 1 µs and undefined between" (R457), with no effect among its choices. Safe: the model
  stops where the hardware does something. -/
  | resetPulseUndefined
  deriving DecidableEq, Repr

/-- The reasons for which the model gives a command no meaning. -/
inductive Refusal where
  /-- Raised by `exec` for a command that has no meaning in the model. Safe: the model stops where the
  hardware goes on. -/
  | notModelled (mnemonic : String)
  deriving DecidableEq, Repr

/-- The state after a power-on reset (R388, R393-R395, R437): every register at its table default, no session, every
Ingot FREE, memory with nothing listed, no command waiting; Hearth and Retention are on, and the management controller
and the fabric are being powered (L:6400.02 is 2 and 1, L:6400.05 counts the two requests). -/
def State.reset : State :=
  { regs := [(0x6400_02 * 65536 + 0, 2), (0x6400_02 * 65536 + 1, 2), (0x6400_02 * 65536 + 2, 1),
      (0x6400_02 * 65536 + 3, 1), (0x6400_05 * 65536 + 2, 1), (0x6400_05 * 65536 + 3, 1)] }

end Sys2Proof.Machine
end

