-- ==== Sys2Proof/Machine/Entries.lean ====
section
/-! DEFINITION. The parameter ledger's entries as their tables give them: type, access kind, default,
range and qualifiers (R7, R64, R95, R122, R149, R150, R176, R209, R240, R266, R289, R306, R330, R355,
R375, R386, R405, R429, R441), one list for each index of the index of entries (R432-R436). -/

namespace Sys2Proof.Machine

set_option Elab.async false

/-- Entries of index 0x1000 (R7). -/
def entries1000 : List Entry := [
  { sub := 0x01, ty := .str, acc := .const, len := 12 },
  { sub := 0x02, ty := .str, acc := .const, len := 2 },
  { sub := 0x04, ty := .u8, acc := .rw, dflt := 1, range := (.span 1 3), len := 1, nonVolatile := true, readAtReset := true },
  { sub := 0x05, ty := .u8, acc := .ro, len := 1 },
  { sub := 0x06, ty := .u8, acc := .ro, len := 1 }]

/-- Entries of index 0x1010 (R405). -/
def entries1010 : List Entry := [
  { sub := 0x01, ty := .u32, acc := .ro, len := 4 },
  { sub := 0x02, ty := .u32, acc := .ro, len := 4 },
  { sub := 0x03, ty := .u8, acc := .rw, range := (.span 0 6), len := 1, perSession := true },
  { sub := 0x04, ty := .u32, acc := .ro, len := 4 },
  { sub := 0x05, ty := .u32, acc := .ro, len := 4 },
  { sub := 0x06, ty := .u32, acc := .ro, len := 4 },
  { sub := 0x07, ty := .u8, acc := .ro, dflt := 1, len := 1 },
  { sub := 0x08, ty := .bool, acc := .wo, range := (.oneOf [1]), len := 1, integratorOnly := true }]

/-- Entries of index 0x2000 (R64). -/
def entries2000 : List Entry := [
  { sub := 0x01, ty := .u32, acc := .rws, dflt := 150000, range := (.span 1000 10000000), len := 4 },
  { sub := 0x02, ty := .u8, acc := .rws, dflt := 3, range := (.span 1 30), len := 1 },
  { sub := 0x03, ty := .u8, acc := .rws, dflt := 4, range := (.span 2 60), len := 1 },
  { sub := 0x04, ty := .u40, acc := .rws, dflt := 0xffec0003ff, len := 5 },
  { sub := 0x05, ty := .u40, acc := .rws, dflt := 0x3ff, len := 5 },
  { sub := 0x06, ty := .bool, acc := .rws, dflt := 1, range := (.span 0 1), len := 1 },
  { sub := 0x07, ty := .u40, acc := .rws, dflt := 0xffffffffff, len := 5 },
  { sub := 0x0A, ty := .bool, acc := .rw, dflt := 1, range := (.span 0 1), len := 1 },
  { sub := 0x0B, ty := .u8, acc := .rws, range := (.span 0 60), len := 1 },
  { sub := 0x0C, ty := .u32, acc := .rws, dflt := 150000, range := (.span 1000 10000000), len := 4 }]

/-- Entries of index 0x2010 (R64): the slot count and frozen detection of slots 0 to 39. -/
def entries2010 : List Entry :=
  { sub := 0x00, ty := .u8, acc := .const, dflt := 40, len := 1 } ::
  (List.range 40).map fun i => { sub := i + 1, ty := .bool, acc := .rws, dflt := 1, range := .span 0 1, len := 1 }

/-- Entries of index 0x2020 (R64). -/
def entries2020 : List Entry := [
  { sub := 0x01, ty := .u16, acc := .rw, range := (.span 0 511), len := 2, perSession := true },
  { sub := 0x02, ty := .u8, acc := .ro, len := 1 },
  { sub := 0x03, ty := .u32, acc := .ro, len := 4 },
  { sub := 0x04, ty := .time64, acc := .ro, len := 8 },
  { sub := 0x05, ty := .u8, acc := .ro, len := 1 },
  { sub := 0x06, ty := .u32, acc := .ro, len := 4 },
  { sub := 0x07, ty := .u32, acc := .ro, len := 4 }]

/-- Entries of index 0x2030 (R64). -/
def entries2030 : List Entry := [
  { sub := 0x01, ty := .u8, acc := .rw, range := (.span 0 31), len := 1, perSession := true },
  { sub := 0x02, ty := .u8, acc := .ro, len := 1 },
  { sub := 0x03, ty := .u32, acc := .ro, len := 4 },
  { sub := 0x04, ty := .u8, acc := .ro, len := 1 },
  { sub := 0x05, ty := .u32, acc := .ro, len := 4 },
  { sub := 0x06, ty := .u32, acc := .ro, len := 4 },
  { sub := 0x07, ty := .u32, acc := .ro, len := 4 },
  { sub := 0x08, ty := .u32, acc := .ro, len := 4 }]

/-- Entries of index 0x2080 (R64). -/
def entries2080 : List Entry := [
  { sub := 0x01, ty := .u16, acc := .rw, range := (.span 0 4095), len := 2, perSession := true },
  { sub := 0x02, ty := .u8, acc := .ro, len := 1 },
  { sub := 0x03, ty := .u8, acc := .ro, len := 1 },
  { sub := 0x04, ty := .u8, acc := .ro, len := 1 },
  { sub := 0x05, ty := .time64, acc := .ro, len := 8 },
  { sub := 0x06, ty := .u8, acc := .ro, len := 1 },
  { sub := 0x07, ty := .u32, acc := .ro, len := 4 },
  { sub := 0x08, ty := .u8, acc := .ro, len := 1 },
  { sub := 0x09, ty := .u32, acc := .ro, len := 4 },
  { sub := 0x0A, ty := .u64, acc := .ro, len := 8 },
  { sub := 0x0B, ty := .u32, acc := .ro, len := 4 }]

/-- Entries of index 0x2084 (R64). -/
def entries2084 : List Entry := [
  { sub := 0x01, ty := .u16, acc := .rw, dflt := 0xffff, range := (.span 0 4095), len := 2 },
  { sub := 0x02, ty := .time64, acc := .rw, len := 8 },
  { sub := 0x03, ty := .bool, acc := .wo, range := (.oneOf [1]), len := 1 },
  { sub := 0x04, ty := .u16, acc := .wo, range := (.span 0 4095), len := 2 },
  { sub := 0x06, ty := .u8, acc := .wo, range := (.span 0 39), len := 1 }]

/-- Entries of index 0x2090 (R64). -/
def entries2090 : List Entry := [
  { sub := 0x01, ty := .u32, acc := .ro, len := 4 },
  { sub := 0x02, ty := .u64, acc := .ro, len := 8 },
  { sub := 0x03, ty := .u16, acc := .ro, len := 2 },
  { sub := 0x04, ty := .u16, acc := .ro, len := 2 }]

/-- Entries of index 0x2400 (R95). -/
def entries2400 : List Entry := [
  { sub := 0x01, ty := .blob, acc := .rw, range := (.lenIn 0 524288), len := 524288 },
  { sub := 0x02, ty := .u8, acc := .wo, range := (.spanOr 0 3 [16]), len := 1 },
  { sub := 0x03, ty := .u8, acc := .ro, len := 1 },
  { sub := 0x04, ty := .u8, acc := .ro, len := 1 },
  { sub := 0x05, ty := .blob, acc := .ro, len := 524288 },
  { sub := 0x06, ty := .u8, acc := .rws, range := (.oneOf [0, 1]), len := 1 },
  { sub := 0x07, ty := .u32, acc := .rws, dflt := 12800, range := (.span 4000 15000), len := 4 },
  { sub := 0x08, ty := .u8, acc := .rws, dflt := 4, range := (.span 3 8), len := 1 },
  { sub := 0x09, ty := .u8, acc := .rw, range := (.span 0 63), len := 1 },
  { sub := 0x0A, ty := .u32, acc := .ro, len := 4 },
  { sub := 0x0B, ty := .u8, acc := .ro, dflt := 255, len := 1 },
  { sub := 0x0C, ty := .u32, acc := .ro, len := 4 }]

/-- Entries of index 0x2410 (R95). -/
def entries2410 : List Entry := [
  { sub := 0x01, ty := .blob, acc := .ro, len := 524288 },
  { sub := 0x02, ty := .blob, acc := .ro, len := 524288 },
  { sub := 0x03, ty := .blob, acc := .ro, len := 524288 },
  { sub := 0x04, ty := .blob, acc := .ro, len := 524288 },
  { sub := 0x05, ty := .blob, acc := .ro, len := 524288 },
  { sub := 0x09, ty := .u8, acc := .wo, range := (.span 0 3), len := 1 }]

/-- Entries of index 0x2800, part 1 (R122). -/
def entries2800A : List Entry := [
  { sub := 0x01, ty := .time64, acc := .rw, len := 8, lock := .anyOutput },
  { sub := 0x02, ty := .u32, acc := .rw, dflt := 50000000, range := .special, len := 4, lock := .anyOutput },
  { sub := 0x03, ty := .u16, acc := .rw, dflt := 3, range := (.span 1 1000), len := 2, lock := .anyOutput },
  { sub := 0x04, ty := .u32, acc := .ltd, len := 4 },
  { sub := 0x05, ty := .u64, acc := .ro, len := 8 },
  { sub := 0x06, ty := .u8, acc := .ro, dflt := 1, len := 1 },
  { sub := 0x10, ty := .u8, acc := .rw, dflt := 255, range := (.spanOr 0 3 [255]), len := 1, perSession := true },
  { sub := 0x11, ty := .u64, acc := .rw, range := (.span 0 0xFFFFFFFFFFFF), len := 8, perSession := true },
  { sub := 0x12, ty := .bool, acc := .rw, range := (.span 0 1), len := 1, perSession := true },
  { sub := 0x14, ty := .u8, acc := .wo, range := (.oneOf [1]), len := 1 },
  { sub := 0x15, ty := .u32, acc := .ro, len := 4, perSession := true },
  { sub := 0x16, ty := .u32, acc := .wo, len := 4 },
  { sub := 0x17, ty := .bool, acc := .wo, range := (.oneOf [1]), len := 1 },
  { sub := 0x18, ty := .bool, acc := .ro, len := 1 },
  { sub := 0x19, ty := .u32, acc := .rw, dflt := 2000, range := (.span 500 20000), len := 4 },
  { sub := 0x1B, ty := .u8, acc := .ro, len := 1 }]

/-- Entries of index 0x2800, part 2 (R122). -/
def entries2800B : List Entry := [
  { sub := 0x1C, ty := .u64, acc := .ro, len := 8 },
  { sub := 0x1D, ty := .bool, acc := .rw, range := (.span 0 1), len := 1, perSession := true }]

/-- Entries of index 0x2800. -/
def entries2800 : List Entry := entries2800A ++ entries2800B

/-- Entries of index 0x2808 (R122). -/
def entries2808 : List Entry := [
  { sub := 0x01, ty := .u32, acc := .rw, len := 4, perSession := true },
  { sub := 0x02, ty := .u8, acc := .ro, len := 1 },
  { sub := 0x03, ty := .u64, acc := .ro, len := 8 },
  { sub := 0x04, ty := .u64, acc := .ro, len := 8 },
  { sub := 0x05, ty := .str, acc := .ro, len := 8 },
  { sub := 0x06, ty := .u8, acc := .ro, len := 1 },
  { sub := 0x07, ty := .u8, acc := .ro, dflt := 255, len := 1 },
  { sub := 0x08, ty := .time64, acc := .ro, len := 8 }]

/-- Entries of index 0x3000, part 1 (R149). -/
def entries3000A : List Entry := [
  { sub := 0x01, ty := .u8, acc := .rw, range := (.span 0 17), len := 1, perSession := true },
  { sub := 0x02, ty := .u8, acc := .rw, range := (.span 0 23), len := 1, perSession := true },
  { sub := 0x03, ty := .bool, acc := .rws, range := (.span 0 1), len := 1 },
  { sub := 0x04, ty := .u8, acc := .rws, range := (.span 0 1), len := 1 },
  { sub := 0x05, ty := .u8, acc := .rws, range := (.span 0 23), len := 1 },
  { sub := 0x06, ty := .u8, acc := .rws, dflt := 255, range := (.spanOr 0 39 [253, 254, 255]), len := 1 },
  { sub := 0x07, ty := .u16, acc := .rws, dflt := 0xffff, range := (.span 0 4095), len := 2 },
  { sub := 0x08, ty := .u8, acc := .rws, dflt := 3, range := (.span 1 4), len := 1 },
  { sub := 0x09, ty := .u32, acc := .rws, range := (.multipleOf 64), len := 4 },
  { sub := 0x0A, ty := .u16, acc := .rws, range := (.span 0 16383), len := 2 },
  { sub := 0x0B, ty := .u16, acc := .rws, range := (.span 0 16383), len := 2 },
  { sub := 0x0C, ty := .u16, acc := .rws, dflt := 1, range := (.span 1 16384), len := 2 },
  { sub := 0x0D, ty := .u16, acc := .rws, dflt := 1, range := (.span 1 16384), len := 2 },
  { sub := 0x0E, ty := .u16, acc := .rws, range := (.span 0 4095), len := 2 },
  { sub := 0x0F, ty := .u16, acc := .rws, range := (.span 0 2399), len := 2 },
  { sub := 0x10, ty := .u16, acc := .rws, dflt := 1, range := (.span 1 4096), len := 2 }]

/-- Entries of index 0x3000, part 2 (R149). -/
def entries3000B : List Entry := [
  { sub := 0x11, ty := .u16, acc := .rws, dflt := 1, range := (.span 1 2400), len := 2 },
  { sub := 0x12, ty := .u16, acc := .rws, dflt := 1023, range := (.span 0 1023), len := 2 },
  { sub := 0x13, ty := .u8, acc := .rws, range := (.oneOf [0, 1]), len := 1 },
  { sub := 0x14, ty := .u8, acc := .rws, dflt := 255, range := (.spanOr 0 47 [255]), len := 1 },
  { sub := 0x15, ty := .u8, acc := .rws, dflt := 1, range := (.oneOf [1, 2, 4]), len := 1 },
  { sub := 0x16, ty := .u32, acc := .rws, dflt := 256, len := 4 },
  { sub := 0x17, ty := .u32, acc := .rws, dflt := 256, len := 4 },
  { sub := 0x18, ty := .u32, acc := .rws, dflt := 1048576, range := (.span 65536 8388608), len := 4 },
  { sub := 0x19, ty := .u32, acc := .rws, dflt := 1048576, range := (.span 65536 8388608), len := 4 },
  { sub := 0x1A, ty := .i32, acc := .rws, len := 4 },
  { sub := 0x1B, ty := .i32, acc := .rws, len := 4 },
  { sub := 0x1C, ty := .u8, acc := .rws, range := (.span 0 15), len := 1 },
  { sub := 0x1D, ty := .u8, acc := .rws, dflt := 16, range := (.span 16 31), len := 1 },
  { sub := 0x1E, ty := .u32, acc := .rws, range := (.spanOr 1000 10000000 [0]), len := 4 },
  { sub := 0x1F, ty := .str, acc := .rws, range := (.lenIn 0 16), len := 16 },
  { sub := 0x20, ty := .u16, acc := .rws, range := (.span 0 511), len := 2 }]

/-- Entries of index 0x3000. -/
def entries3000 : List Entry := entries3000A ++ entries3000B

/-- Entries of index 0x3010 (R150). -/
def entries3010 : List Entry := [
  { sub := 0x01, ty := .u8, acc := .rw, range := (.span 0 31), len := 1, perSession := true },
  { sub := 0x02, ty := .u40, acc := .rws, dflt := 0x3ff, len := 5 }]

/-- Entries of index 0x3040 (R150). -/
def entries3040 : List Entry := [
  { sub := 0x01, ty := .u8, acc := .rw, dflt := 4, range := (.span 0 31), len := 1, perSession := true },
  { sub := 0x02, ty := .blob, acc := .rws, range := (.lenIn 0 1036), len := 1036 },
  { sub := 0x03, ty := .u8, acc := .ro, len := 1 },
  { sub := 0x08, ty := .u8, acc := .rws, dflt := 255, range := (.spanOr 4 15 [255]), len := 1 },
  { sub := 0x09, ty := .u8, acc := .rws, dflt := 255, range := (.spanOr 4 15 [255]), len := 1 },
  { sub := 0x0A, ty := .u8, acc := .rws, dflt := 255, range := (.spanOr 4 15 [255]), len := 1 },
  { sub := 0x0B, ty := .u8, acc := .rws, dflt := 255, range := (.spanOr 4 15 [255]), len := 1 },
  { sub := 0x0C, ty := .u8, acc := .rws, dflt := 255, range := (.spanOr 20 31 [255]), len := 1 },
  { sub := 0x0D, ty := .u8, acc := .rws, dflt := 255, range := (.spanOr 20 31 [255]), len := 1 },
  { sub := 0x0E, ty := .u8, acc := .rws, dflt := 255, range := (.spanOr 20 31 [255]), len := 1 },
  { sub := 0x0F, ty := .u8, acc := .rws, dflt := 255, range := (.spanOr 20 31 [255]), len := 1 }]

/-- Entries of index 0x3080 (R150). -/
def entries3080 : List Entry := [
  { sub := 0x01, ty := .u8, acc := .rw, range := (.span 0 15), len := 1, perSession := true },
  { sub := 0x02, ty := .bool, acc := .rws, range := (.span 0 1), len := 1 },
  { sub := 0x03, ty := .u8, acc := .rws, range := (.span 0 1), len := 1 },
  { sub := 0x04, ty := .u8, acc := .rws, dflt := 255, range := (.span 0 39), len := 1 },
  { sub := 0x05, ty := .u16, acc := .rws, range := (.span 0 4095), len := 2 },
  { sub := 0x06, ty := .u16, acc := .rws, range := (.span 0 2399), len := 2 },
  { sub := 0x07, ty := .u16, acc := .rws, dflt := 1, range := (.span 1 4096), len := 2 },
  { sub := 0x08, ty := .u16, acc := .rws, dflt := 1, range := (.span 1 2400), len := 2 },
  { sub := 0x09, ty := .u8, acc := .rws, dflt := 4, range := (.oneOf [3, 4]), len := 1 },
  { sub := 0x0A, ty := .u32, acc := .ro, len := 4 }]

/-- Entries of index 0x3400, part 1 (R176, R289). -/
def entries3400A : List Entry := [
  { sub := 0x01, ty := .u8, acc := .rw, range := (.span 0 31), len := 1, perSession := true },
  { sub := 0x02, ty := .bool, acc := .rws, range := (.span 0 1), len := 1 },
  { sub := 0x03, ty := .u8, acc := .rw, range := (.span 0 4), len := 1, lock := .output },
  { sub := 0x04, ty := .u8, acc := .rw, range := (.span 0 23), len := 1, lock := .output },
  { sub := 0x05, ty := .u32, acc := .rw, len := 4, lock := .output },
  { sub := 0x06, ty := .u64, acc := .rw, dflt := 0x20005007800030, range := .special, len := 8, lock := .output },
  { sub := 0x07, ty := .u8, acc := .rw, dflt := 10, range := (.oneOf [8, 10]), len := 1, lock := .output },
  { sub := 0x08, ty := .u16, acc := .rw, dflt := 1080, range := (.span 1 2400), len := 2, lock := .output },
  { sub := 0x09, ty := .u32, acc := .rw, dflt := 0x51703, range := .special, len := 4, lock := .output },
  { sub := 0x0A, ty := .u8, acc := .rw, dflt := 1, range := (.oneOf [1, 2, 4]), len := 1, lock := .output },
  { sub := 0x10, ty := .u8, acc := .rw, dflt := 1, range := (.span 0 3), len := 1, lock := .output },
  { sub := 0x11, ty := .u40, acc := .ro, len := 5 },
  { sub := 0x12, ty := .u64, acc := .ro, len := 8 },
  { sub := 0x13, ty := .time64, acc := .ro, len := 8 },
  { sub := 0x14, ty := .u16, acc := .rws, range := .special, len := 2 },
  { sub := 0x15, ty := .u8, acc := .rws, dflt := 4, range := (.span 0 31), len := 1 }]

/-- Entries of index 0x3400, part 2 (R176, R289). -/
def entries3400B : List Entry := [
  { sub := 0x16, ty := .u32, acc := .ro, len := 4 },
  { sub := 0x17, ty := .bool, acc := .rw, dflt := 1, range := (.span 0 1), len := 1, lock := .output },
  { sub := 0x18, ty := .i32, acc := .ro, len := 4 },
  { sub := 0x19, ty := .u16, acc := .rws, dflt := 500, range := (.span 50 4000), len := 2 },
  { sub := 0x1A, ty := .i32, acc := .ro, len := 4 }]

/-- Entries of index 0x3400. -/
def entries3400 : List Entry := entries3400A ++ entries3400B

/-- Entries of index 0x3410 (R176). -/
def entries3410 : List Entry := [
  { sub := 0x01, ty := .u8, acc := .rw, len := 1 },
  { sub := 0x02, ty := .u32, acc := .ro, len := 4 },
  { sub := 0x03, ty := .u32, acc := .ro, len := 4 },
  { sub := 0x04, ty := .u32, acc := .ro, len := 4 },
  { sub := 0x05, ty := .u32, acc := .ro, len := 4 },
  { sub := 0x06, ty := .u32, acc := .ro, len := 4 },
  { sub := 0x07, ty := .u32, acc := .ro, len := 4 },
  { sub := 0x08, ty := .u32, acc := .ro, len := 4 },
  { sub := 0x09, ty := .u32, acc := .ro, len := 4 }]

/-- Entries of index 0x3418 (R176). -/
def entries3418 : List Entry := [
  { sub := 0x02, ty := .u32, acc := .ro, len := 4 },
  { sub := 0x03, ty := .u8, acc := .ro, len := 1 }]

/-- Entries of index 0x3420 (R176). -/
def entries3420 : List Entry := [
  { sub := 0x01, ty := .u8, acc := .rw, range := (.span 0 17), len := 1, perSession := true },
  { sub := 0x02, ty := .u8, acc := .ro, len := 1 },
  { sub := 0x03, ty := .u64, acc := .ro, len := 8 },
  { sub := 0x04, ty := .u8, acc := .ro, len := 1 },
  { sub := 0x05, ty := .u8, acc := .ro, dflt := 255, len := 1 },
  { sub := 0x06, ty := .u32, acc := .ro, len := 4 }]

/-- Entries of index 0x3440 (R176). -/
def entries3440 : List Entry := [
  { sub := 0x01, ty := .u8, acc := .rw, range := (.span 0 7), len := 1, perSession := true },
  { sub := 0x02, ty := .u8, acc := .rw, dflt := 3, range := (.oneOf [0, 1, 2, 3]), len := 1, lock := .dpPort },
  { sub := 0x03, ty := .u8, acc := .rw, dflt := 4, range := (.oneOf [1, 2, 4]), len := 1, lock := .dpPort },
  { sub := 0x04, ty := .bool, acc := .rw, range := (.span 0 1), len := 1, lock := .dpPort },
  { sub := 0x05, ty := .u8, acc := .ro, len := 1 },
  { sub := 0x06, ty := .u8, acc := .ro, len := 1 },
  { sub := 0x07, ty := .u8, acc := .ro, len := 1 },
  { sub := 0x08, ty := .blob, acc := .ro, len := 32768 }]

/-- Entries of index 0x3450 (R176). -/
def entries3450 : List Entry := [
  { sub := 0x01, ty := .u8, acc := .rw, range := (.span 0 3), len := 1, perSession := true },
  { sub := 0x02, ty := .u16, acc := .rw, dflt := 1500, range := (.span 80 4500), len := 2, lock := .dsiPort },
  { sub := 0x03, ty := .u8, acc := .rw, dflt := 4, range := (.span 1 4), len := 1, lock := .dsiPort },
  { sub := 0x04, ty := .u8, acc := .rw, range := (.oneOf [0, 1, 2]), len := 1, lock := .dsiPort },
  { sub := 0x05, ty := .blob, acc := .rw, range := (.lenIn 0 4096), len := 4096, lock := .dsiPort },
  { sub := 0x07, ty := .u8, acc := .ro, len := 1 }]

/-- Entries of index 0x3800 (R209). -/
def entries3800 : List Entry := [
  { sub := 0x01, ty := .u8, acc := .rw, range := (.span 0 15), len := 1, perSession := true },
  { sub := 0x02, ty := .bool, acc := .rws, range := (.span 0 1), len := 1 },
  { sub := 0x03, ty := .u8, acc := .rw, dflt := 4, range := (.oneOf [1, 2, 4]), len := 1, lock := .camPort },
  { sub := 0x04, ty := .u16, acc := .rw, dflt := 1500, range := (.span 80 4500), len := 2, lock := .camPort },
  { sub := 0x05, ty := .u16, acc := .rw, dflt := 228, range := (.span 0 0x1FFF), len := 2, lock := .camPort },
  { sub := 0x06, ty := .u16, acc := .rw, dflt := 400, range := (.oneOf [100, 400, 1000]), len := 2, lock := .camPort },
  { sub := 0x07, ty := .u8, acc := .ro, len := 1 },
  { sub := 0x08, ty := .u16, acc := .rws, dflt := 200, range := (.span 10 10000), len := 2 },
  { sub := 0x09, ty := .u16, acc := .rws, dflt := 16, range := (.span 1 1000), len := 2 },
  { sub := 0x0A, ty := .u32, acc := .ro, len := 4 },
  { sub := 0x0B, ty := .blob, acc := .wo, range := (.lenIn 0 68), len := 68 },
  { sub := 0x0C, ty := .u8, acc := .ro, len := 1 },
  { sub := 0x0D, ty := .blob, acc := .ro, len := 64 }]

/-- Entries of index 0x3808 (R209). -/
def entries3808 : List Entry := [
  { sub := 0x01, ty := .u8, acc := .rw, range := (.span 0 16), len := 1, perSession := true },
  { sub := 0x02, ty := .u32, acc := .ro, len := 4 },
  { sub := 0x03, ty := .u32, acc := .ro, len := 4 },
  { sub := 0x04, ty := .u32, acc := .ro, len := 4 },
  { sub := 0x05, ty := .u32, acc := .ro, len := 4 }]

/-- Entries of index 0x3840, part 1 (R209). -/
def entries3840A : List Entry := [
  { sub := 0x01, ty := .u8, acc := .rw, range := (.span 0 31), len := 1, perSession := true },
  { sub := 0x02, ty := .bool, acc := .rws, range := (.span 0 1), len := 1 },
  { sub := 0x03, ty := .u8, acc := .rw, range := (.span 0 15), len := 1, lock := .context },
  { sub := 0x04, ty := .u8, acc := .rw, range := (.span 0 15), len := 1, lock := .context },
  { sub := 0x05, ty := .u8, acc := .rw, dflt := 44, range := (.oneOf [0x2A, 0x2B, 0x2C, 0x2D, 0x2E, 0x24, 0x1E, 0x12]), len := 1, lock := .context },
  { sub := 0x06, ty := .u16, acc := .rw, dflt := 1920, range := (.spanStep 64 8192 8), len := 2, lock := .context },
  { sub := 0x07, ty := .u16, acc := .rw, dflt := 1080, range := (.spanStep 64 8192 8), len := 2, lock := .context },
  { sub := 0x08, ty := .u8, acc := .rws, range := (.oneOf [0, 1, 2, 3]), len := 1 },
  { sub := 0x09, ty := .i32, acc := .rws, range := (.span (-100000000) 1000000000), len := 4 },
  { sub := 0x0A, ty := .bool, acc := .rws, dflt := 1, range := (.span 0 1), len := 1 },
  { sub := 0x0B, ty := .u8, acc := .rws, dflt := 2, range := (.span 1 4), len := 1 },
  { sub := 0x0C, ty := .u16, acc := .rws, dflt := 3000, range := (.span 200 20000), len := 2 },
  { sub := 0x0D, ty := .blob, acc := .rws, range := (.lenIn 0 116), len := 116 },
  { sub := 0x0E, ty := .u8, acc := .rw, dflt := 4, range := (.span 1 4), len := 1, lock := .context },
  { sub := 0x0F, ty := .u8, acc := .rw, dflt := 1, range := (.oneOf [1, 2]), len := 1, lock := .context },
  { sub := 0x10, ty := .u8, acc := .rw, range := (.spanOr 0x10 0x12 [0]), len := 1, lock := .context }]

/-- Entries of index 0x3840, part 2 (R209). -/
def entries3840B : List Entry := [
  { sub := 0x11, ty := .u8, acc := .rw, dflt := 1, range := (.oneOf [1, 2, 4]), len := 1, lock := .context },
  { sub := 0x12, ty := .u8, acc := .rw, dflt := 255, range := (.span 0 39), len := 1, lock := .context },
  { sub := 0x13, ty := .u8, acc := .rw, range := (.spanOr 0x18 0x1A [0]), len := 1, lock := .context },
  { sub := 0x14, ty := .u8, acc := .rw, dflt := 1, range := (.oneOf [1, 2, 4]), len := 1, lock := .context },
  { sub := 0x15, ty := .u8, acc := .rw, dflt := 255, range := (.span 0 39), len := 1, lock := .context },
  { sub := 0x16, ty := .u40, acc := .rws, dflt := 0x3ff, len := 5 },
  { sub := 0x17, ty := .u32, acc := .rws, dflt := 5000, range := (.span 100 100000), len := 4 },
  { sub := 0x18, ty := .u32, acc := .ro, len := 4 },
  { sub := 0x19, ty := .u32, acc := .ro, len := 4 },
  { sub := 0x1A, ty := .blob, acc := .ro, len := 8192 },
  { sub := 0x1B, ty := .u32, acc := .ro, len := 4 },
  { sub := 0x1C, ty := .u32, acc := .ro, len := 4 },
  { sub := 0x1D, ty := .u8, acc := .ro, len := 1 },
  { sub := 0x1E, ty := .u8, acc := .rws, range := (.span 0 15), len := 1 },
  { sub := 0x1F, ty := .u64, acc := .ro, len := 8 }]

/-- Entries of index 0x3840. -/
def entries3840 : List Entry := entries3840A ++ entries3840B

/-- Entries of index 0x3850 (R209). -/
def entries3850 : List Entry := [
  { sub := 0x01, ty := .u16, acc := .rws, dflt := 4096, range := (.span 0 65535), len := 2 },
  { sub := 0x02, ty := .bool, acc := .rws, dflt := 1, range := (.span 0 1), len := 1 },
  { sub := 0x03, ty := .blob, acc := .rws, range := .special, len := 18 },
  { sub := 0x04, ty := .u8, acc := .rws, dflt := 4, range := (.span 0 15), len := 1 },
  { sub := 0x05, ty := .u8, acc := .rws, dflt := 4, range := (.span 0 15), len := 1 }]

/-- Entries of index 0x3860 (R209). -/
def entries3860 : List Entry := [
  { sub := 0x01, ty := .u8, acc := .rws, range := (.oneOf [0, 1]), len := 1 },
  { sub := 0x02, ty := .u16, acc := .rws, dflt := 400, range := (.span 16 1000), len := 2 },
  { sub := 0x03, ty := .u32, acc := .rws, dflt := 16000000, range := (.span 1000 1000000000), len := 4 },
  { sub := 0x04, ty := .u16, acc := .rws, dflt := 4096, range := (.span 256 65535), len := 2 },
  { sub := 0x05, ty := .u32, acc := .rws, dflt := 10000000, range := (.span 1000 1000000000), len := 4 },
  { sub := 0x06, ty := .u16, acc := .rws, dflt := 256, range := (.span 256 65535), len := 2 },
  { sub := 0x07, ty := .u8, acc := .rws, range := (.oneOf [0, 1]), len := 1 },
  { sub := 0x08, ty := .u64, acc := .rws, dflt := 0x10001000100, range := (.span 0 0xFFFFFFFFFFFF), len := 8 },
  { sub := 0x09, ty := .u8, acc := .rws, dflt := 2, range := (.span 1 8), len := 1 },
  { sub := 0x0A, ty := .u32, acc := .ro, len := 4 }]

/-- Entries of index 0x3870 (R209). -/
def entries3870 : List Entry := [
  { sub := 0x01, ty := .u8, acc := .rw, range := (.span 0 2), len := 1, perSession := true },
  { sub := 0x02, ty := .blob, acc := .rws, range := (.lenIn 0 4110), len := 4110 },
  { sub := 0x03, ty := .u8, acc := .ro, len := 1 }]

/-- Entries of index 0x4000, part 1 (R240). -/
def entries4000A : List Entry := [
  { sub := 0x01, ty := .u8, acc := .rw, range := (.span 0 51), len := 1, perSession := true },
  { sub := 0x02, ty := .u8, acc := .ro, len := 1 },
  { sub := 0x03, ty := .u8, acc := .ro, dflt := 255, len := 1 },
  { sub := 0x05, ty := .u8, acc := .rw, range := .special, len := 1, lock := .lane },
  { sub := 0x06, ty := .u8, acc := .ro, dflt := 255, len := 1 },
  { sub := 0x07, ty := .u8, acc := .ro, len := 1 },
  { sub := 0x08, ty := .u32, acc := .ro, len := 4 },
  { sub := 0x09, ty := .u32, acc := .ro, len := 4 },
  { sub := 0x0A, ty := .u32, acc := .ro, len := 4 },
  { sub := 0x0B, ty := .u32, acc := .ro, len := 4 },
  { sub := 0x0C, ty := .u32, acc := .rws, dflt := 1000, range := (.span 10 10000000), len := 4 },
  { sub := 0x0D, ty := .u16, acc := .rws, dflt := 8, range := (.span 1 1024), len := 2 },
  { sub := 0x0E, ty := .u40, acc := .ro, len := 5 },
  { sub := 0x0F, ty := .u32, acc := .ro, len := 4 },
  { sub := 0x10, ty := .blob, acc := .ro, len := 16 },
  { sub := 0x11, ty := .u8, acc := .rw, range := (.spanOr 1 3 [0]), len := 1, lock := .lane }]

/-- Entries of index 0x4000, part 2 (R240). -/
def entries4000B : List Entry := [
  { sub := 0x12, ty := .u8, acc := .rw, range := (.oneOf [0, 1, 2, 0x80, 0x81, 0x82]), len := 1, lock := .lane },
  { sub := 0x13, ty := .u40, acc := .rw, range := (.spanOr 1024 1099511627775 [0]), len := 5 },
  { sub := 0x14, ty := .u40, acc := .ro, len := 5 },
  { sub := 0x15, ty := .u64, acc := .ro, len := 8 },
  { sub := 0x16, ty := .bool, acc := .ro, len := 1 },
  { sub := 0x17, ty := .bool, acc := .wo, range := (.oneOf [1]), len := 1 },
  { sub := 0x18, ty := .u8, acc := .rw, range := (.span 0 5), len := 1, lock := .lane },
  { sub := 0x19, ty := .u16, acc := .ro, len := 2 }]

/-- Entries of index 0x4000. -/
def entries4000 : List Entry := entries4000A ++ entries4000B

/-- Entries of index 0x4008 (R240). -/
def entries4008 : List Entry := [
  { sub := 0x01, ty := .u8, acc := .rw, range := (.span 0 3), len := 1, perSession := true },
  { sub := 0x02, ty := .u8, acc := .rw, range := (.oneOf [0, 1]), len := 1, lock := .laneGroup },
  { sub := 0x03, ty := .u8, acc := .rw, range := (.span 0 5), len := 1, lock := .laneGroup },
  { sub := 0x04, ty := .bool, acc := .ro, len := 1 },
  { sub := 0x05, ty := .u16, acc := .rw, dflt := 0x5555, range := .special, len := 2, lock := .laneGroup }]

/-- Entries of index 0x400C (R240). -/
def entries400C : List Entry := [
  { sub := 0x01, ty := .u8, acc := .rw, range := (.span 0 3), len := 1, perSession := true },
  { sub := 0x02, ty := .u8, acc := .rw, dflt := 255, range := (.spanOr 0 23 [255]), len := 1, lock := .spare },
  { sub := 0x03, ty := .u8, acc := .ro, len := 1 },
  { sub := 0x04, ty := .u8, acc := .ro, dflt := 255, len := 1 }]

/-- Entries of index 0x4400, part 1 (R266). -/
def entries4400A : List Entry := [
  { sub := 0x01, ty := .u8, acc := .rw, range := (.span 0 23), len := 1, perSession := true },
  { sub := 0x02, ty := .bool, acc := .rws, range := (.span 0 1), len := 1 },
  { sub := 0x03, ty := .u8, acc := .rw, range := (.span 0 47), len := 1, lock := .swPort },
  { sub := 0x04, ty := .u8, acc := .rw, dflt := 1, range := (.oneOf [1, 2, 4, 8]), len := 1, lock := .swPort },
  { sub := 0x05, ty := .u8, acc := .rw, dflt := 1, range := (.span 0 4), len := 1, integratorOnly := true },
  { sub := 0x06, ty := .u8, acc := .rw, range := (.oneOf [0, 1, 2]), len := 1, lock := .swPort },
  { sub := 0x07, ty := .i32, acc := .rw, range := (.span (-100000) 100000), len := 4 },
  { sub := 0x08, ty := .u32, acc := .rws, dflt := 1000, range := (.span 125 100000), len := 4 },
  { sub := 0x09, ty := .u8, acc := .ro, len := 1 },
  { sub := 0x0A, ty := .u32, acc := .ro, len := 4 },
  { sub := 0x0B, ty := .u16, acc := .rws, dflt := 1000, range := (.span 1 65535), len := 2 },
  { sub := 0x0C, ty := .u32, acc := .ro, len := 4 },
  { sub := 0x0D, ty := .u16, acc := .rws, dflt := 4000, range := (.span 100 60000), len := 2 },
  { sub := 0x0E, ty := .u32, acc := .ro, len := 4 },
  { sub := 0x0F, ty := .u16, acc := .rws, dflt := 200, range := (.span 50 10000), len := 2 },
  { sub := 0x10, ty := .u32, acc := .ro, len := 4 }]

/-- Entries of index 0x4400, part 2 (R266). -/
def entries4400B : List Entry := [
  { sub := 0x11, ty := .u32, acc := .ro, len := 4 },
  { sub := 0x12, ty := .u32, acc := .ro, len := 4 },
  { sub := 0x13, ty := .u32, acc := .ro, len := 4 },
  { sub := 0x14, ty := .u32, acc := .ro, len := 4 },
  { sub := 0x15, ty := .u32, acc := .ro, len := 4 },
  { sub := 0x16, ty := .i32, acc := .ro, len := 4 },
  { sub := 0x17, ty := .i64, acc := .ro, len := 8 }]

/-- Entries of index 0x4400. -/
def entries4400 : List Entry := entries4400A ++ entries4400B

/-- Entries of index 0x4410 (R266). -/
def entries4410 : List Entry := [
  { sub := 0x01, ty := .u8, acc := .rw, range := (.span 0 39), len := 1, perSession := true },
  { sub := 0x02, ty := .u8, acc := .rws, dflt := 255, range := (.spanOr 0 23 [255]), len := 1 },
  { sub := 0x03, ty := .u8, acc := .rws, range := (.span 0 15), len := 1 },
  { sub := 0x04, ty := .u32, acc := .ro, len := 4 },
  { sub := 0x05, ty := .u32, acc := .ro, len := 4 },
  { sub := 0x06, ty := .u32, acc := .ro, len := 4 },
  { sub := 0x07, ty := .u32, acc := .ro, len := 4 },
  { sub := 0x08, ty := .u32, acc := .ro, len := 4 },
  { sub := 0x09, ty := .u8, acc := .ro, dflt := 255, len := 1 },
  { sub := 0x0A, ty := .u40, acc := .rws, dflt := 0x3ff, len := 5 },
  { sub := 0x0B, ty := .u32, acc := .ro, len := 4 },
  { sub := 0x0C, ty := .blob, acc := .ro, len := 64 }]

/-- Entries of index 0x4800 (R289). -/
def entries4800 : List Entry := [
  { sub := 0x01, ty := .u64, acc := .ro, len := 8 },
  { sub := 0x02, ty := .u40, acc := .rw, len := 5 },
  { sub := 0x03, ty := .i64, acc := .rw, len := 8 },
  { sub := 0x04, ty := .i64, acc := .wo, len := 8 },
  { sub := 0x05, ty := .time64, acc := .ro, len := 8 },
  { sub := 0x06, ty := .u8, acc := .ro, dflt := 2, len := 1 },
  { sub := 0x07, ty := .u8, acc := .ro, len := 1 },
  { sub := 0x08, ty := .i64, acc := .ro, len := 8 },
  { sub := 0x09, ty := .u32, acc := .ro, len := 4 },
  { sub := 0x0A, ty := .u32, acc := .ro, len := 4 },
  { sub := 0x0B, ty := .u8, acc := .wo, range := (.span 0 2), len := 1 },
  { sub := 0x0C, ty := .i64, acc := .ro, len := 8 }]

/-- Entries of index 0x4808 (R289). -/
def entries4808 : List Entry := [
  { sub := 0x01, ty := .u8, acc := .rw, dflt := 1, range := (.span 0 3), len := 1 },
  { sub := 0x02, ty := .u32, acc := .rw, dflt := 100000, range := (.span 1000 10000000), len := 4 },
  { sub := 0x03, ty := .u16, acc := .rw, dflt := 250, range := (.span 50 300), len := 2 },
  { sub := 0x04, ty := .u32, acc := .rw, dflt := 100, range := (.span 10 1000), len := 4 },
  { sub := 0x05, ty := .i64, acc := .ro, len := 8 },
  { sub := 0x06, ty := .u8, acc := .ro, dflt := 255, len := 1 }]

/-- Entries of index 0x4810 (R289). -/
def entries4810 : List Entry := [
  { sub := 0x01, ty := .u8, acc := .rw, dflt := 3, range := (.span 0 3), len := 1, lock := .ptp },
  { sub := 0x02, ty := .u8, acc := .rw, range := (.span 0 127), len := 1, lock := .ptp },
  { sub := 0x03, ty := .u8, acc := .rw, dflt := 1, range := (.oneOf [1, 2]), len := 1, lock := .ptp },
  { sub := 0x04, ty := .u8, acc := .rw, range := (.oneOf [0, 1]), len := 1, lock := .ptp },
  { sub := 0x05, ty := .u8, acc := .rw, dflt := 3, range := (.span 2 10), len := 1 },
  { sub := 0x06, ty := .bool, acc := .rw, range := (.span 0 1), len := 1, lock := .ptp },
  { sub := 0x07, ty := .u8, acc := .rw, dflt := 128, range := (.span 0 255), len := 1 },
  { sub := 0x08, ty := .u8, acc := .rw, dflt := 128, range := (.span 0 255), len := 1 },
  { sub := 0x09, ty := .bool, acc := .rw, dflt := 1, range := (.span 0 1), len := 1 },
  { sub := 0x0A, ty := .u8, acc := .ro, dflt := 255, len := 1 },
  { sub := 0x0B, ty := .u64, acc := .ro, len := 8 },
  { sub := 0x0C, ty := .i64, acc := .ro, len := 8 },
  { sub := 0x0E, ty := .u32, acc := .ro, len := 4 }]

/-- Entries of index 0x4818 (R289). -/
def entries4818 : List Entry := [
  { sub := 0x01, ty := .i32, acc := .rw, range := (.span 0 20000), len := 4 },
  { sub := 0x02, ty := .i32, acc := .rw, range := (.span 0 20000), len := 4 },
  { sub := 0x03, ty := .i32, acc := .rw, range := (.span 0 20000), len := 4 },
  { sub := 0x04, ty := .i32, acc := .rw, range := (.span 0 20000), len := 4 },
  { sub := 0x05, ty := .i32, acc := .rw, range := (.span 0 20000), len := 4 },
  { sub := 0x06, ty := .i32, acc := .rw, range := (.span 0 20000), len := 4 },
  { sub := 0x07, ty := .i32, acc := .rw, range := (.span 0 20000), len := 4 },
  { sub := 0x08, ty := .i32, acc := .rw, range := (.span 0 20000), len := 4 },
  { sub := 0x09, ty := .i32, acc := .rw, range := (.span 0 20000), len := 4 },
  { sub := 0x0A, ty := .i32, acc := .rw, range := (.span 0 20000), len := 4 },
  { sub := 0x0B, ty := .i32, acc := .rw, range := (.span 0 20000), len := 4 },
  { sub := 0x0C, ty := .i32, acc := .rw, range := (.span 0 20000), len := 4 },
  { sub := 0x10, ty := .u32, acc := .ro, len := 4 },
  { sub := 0x11, ty := .u32, acc := .ro, len := 4 }]

/-- Entries of index 0x5000 (R306). -/
def entries5000 : List Entry := [
  { sub := 0x01, ty := .u16, acc := .rws, dflt := 32, range := (.span 1 65535), len := 2 },
  { sub := 0x02, ty := .u16, acc := .rws, dflt := 256, range := (.span 1 65535), len := 2 },
  { sub := 0x03, ty := .u16, acc := .rws, dflt := 1024, range := (.span 1 65535), len := 2 },
  { sub := 0x04, ty := .u32, acc := .rws, dflt := 200, range := (.span 20 5000), len := 4 },
  { sub := 0x05, ty := .u32, acc := .rws, dflt := 4000, range := (.span 100 50000), len := 4 }]

/-- Entries of index 0x5010 (R306). -/
def entries5010 : List Entry := [
  { sub := 0x01, ty := .u8, acc := .rw, range := (.span 0 41), len := 1, perSession := true },
  { sub := 0x02, ty := .u64, acc := .rws, len := 8 },
  { sub := 0x03, ty := .u32, acc := .rws, len := 4 },
  { sub := 0x04, ty := .u8, acc := .rws, range := (.span 0 15), len := 1 }]

/-- Entries of index 0x5018 (R306). -/
def entries5018 : List Entry := [
  { sub := 0x01, ty := .u8, acc := .rw, range := (.span 0 24), len := 1, perSession := true },
  { sub := 0x02, ty := .u8, acc := .rws, dflt := 41, range := (.span 0 41), len := 1 },
  { sub := 0x03, ty := .u32, acc := .ro, len := 4 }]

/-- Entries of index 0x5020 (R306). -/
def entries5020 : List Entry := [
  { sub := 0x01, ty := .u8, acc := .rw, range := (.span 0 41), len := 1, perSession := true },
  { sub := 0x02, ty := .u64, acc := .ro, len := 8 },
  { sub := 0x03, ty := .u64, acc := .ro, len := 8 },
  { sub := 0x04, ty := .u32, acc := .ro, len := 4 },
  { sub := 0x05, ty := .u64, acc := .ro, len := 8 },
  { sub := 0x06, ty := .u32, acc := .ro, len := 4 },
  { sub := 0x07, ty := .str, acc := .ro, len := 8 },
  { sub := 0x08, ty := .u64, acc := .ro, len := 8 },
  { sub := 0x09, ty := .u8, acc := .ro, len := 1 },
  { sub := 0x0A, ty := .bool, acc := .wo, range := (.oneOf [1]), len := 1 }]

/-- Entries of index 0x5400, part 1 (R330). -/
def entries5400A : List Entry := [
  { sub := 0x01, ty := .u8, acc := .rw, range := (.span 0 15), len := 1, perSession := true },
  { sub := 0x02, ty := .u8, acc := .ro, len := 1 },
  { sub := 0x03, ty := .u8, acc := .rw, dflt := 5, range := (.span 0 5), len := 1, lock := .channel },
  { sub := 0x04, ty := .u8, acc := .rw, dflt := 2, range := (.oneOf [1, 2, 3, 4]), len := 1, lock := .channel },
  { sub := 0x05, ty := .u16, acc := .rw, dflt := 280, range := (.span 180 380), len := 2, lock := .channel },
  { sub := 0x06, ty := .u8, acc := .rw, dflt := 18, range := (.span 10 40), len := 1, lock := .channel },
  { sub := 0x07, ty := .u8, acc := .rw, dflt := 21, range := (.span 10 40), len := 1, lock := .channel },
  { sub := 0x08, ty := .u8, acc := .rw, dflt := 42, range := (.span 20 80), len := 1, lock := .channel },
  { sub := 0x09, ty := .u8, acc := .rw, dflt := 34, range := (.span 20 60), len := 1, lock := .channel },
  { sub := 0x0A, ty := .u8, acc := .rw, dflt := 20, range := (.span 10 40), len := 1, lock := .channel },
  { sub := 0x0B, ty := .u8, acc := .rw, dflt := 5, range := (.span 2 20), len := 1, lock := .channel },
  { sub := 0x0C, ty := .u16, acc := .rw, dflt := 288, range := (.span 190 400), len := 2, lock := .channel },
  { sub := 0x0D, ty := .u16, acc := .ro, dflt := 3900, len := 2 },
  { sub := 0x0E, ty := .i8, acc := .ro, len := 1 },
  { sub := 0x0F, ty := .u8, acc := .ro, len := 1 },
  { sub := 0x10, ty := .u32, acc := .ro, len := 4 }]

/-- Entries of index 0x5400, part 2 (R330). -/
def entries5400B : List Entry := [
  { sub := 0x11, ty := .u32, acc := .ro, len := 4 },
  { sub := 0x12, ty := .u32, acc := .ro, len := 4 },
  { sub := 0x13, ty := .u32, acc := .rws, dflt := 1000, range := (.span 1 1000000), len := 4 },
  { sub := 0x14, ty := .bool, acc := .rws, dflt := 1, range := (.span 0 1), len := 1 },
  { sub := 0x15, ty := .u16, acc := .rws, dflt := 2, range := (.span 1 1000), len := 2 },
  { sub := 0x16, ty := .u32, acc := .ro, len := 4 },
  { sub := 0x17, ty := .u32, acc := .ro, len := 4 },
  { sub := 0x18, ty := .u16, acc := .rws, dflt := 64, range := (.span 16 1000), len := 2 },
  { sub := 0x19, ty := .u32, acc := .ro, len := 4 },
  { sub := 0x1A, ty := .u8, acc := .wo, range := (.oneOf [1, 2, 3]), len := 1 },
  { sub := 0x1B, ty := .u16, acc := .rws, dflt := 24, range := (.spanOr 1 168 [0]), len := 2 },
  { sub := 0x1C, ty := .u32, acc := .ro, len := 4 },
  { sub := 0x1D, ty := .i16, acc := .ro, len := 2 }]

/-- Entries of index 0x5400. -/
def entries5400 : List Entry := entries5400A ++ entries5400B

/-- Entries of index 0x5404 (R330). -/
def entries5404 : List Entry := [
  { sub := 0x01, ty := .u16, acc := .rws, dflt := 8000, range := (.span 4000 20000), len := 2 },
  { sub := 0x02, ty := .u16, acc := .rws, dflt := 6000, range := .special, len := 2 },
  { sub := 0x03, ty := .u16, acc := .rws, dflt := 4000, range := .special, len := 2 },
  { sub := 0x04, ty := .u32, acc := .rws, dflt := 20, range := (.span 7 1000), len := 4 }]

/-- Entries of index 0x5408 (R330). -/
def entries5408 : List Entry := [
  { sub := 0x01, ty := .u8, acc := .rw, range := (.span 0 41), len := 1, perSession := true },
  { sub := 0x02, ty := .u32, acc := .rws, range := (.span 1 1000), len := 4 },
  { sub := 0x03, ty := .u8, acc := .ro, len := 1 },
  { sub := 0x04, ty := .u32, acc := .ro, len := 4 },
  { sub := 0x05, ty := .u8, acc := .rw, range := (.span 0 23), len := 1, perSession := true }]

/-- Entries of index 0x5410 (R330). -/
def entries5410 : List Entry := [
  { sub := 0x01, ty := .u8, acc := .rw, range := (.span 0 15), len := 1, perSession := true },
  { sub := 0x02, ty := .u8, acc := .ro, len := 1 },
  { sub := 0x03, ty := .u64, acc := .ro, len := 8 },
  { sub := 0x04, ty := .u16, acc := .ro, len := 2 },
  { sub := 0x05, ty := .u8, acc := .ro, len := 1 },
  { sub := 0x06, ty := .time64, acc := .ro, len := 8 }]

/-- Entries of index 0x5480 (R330). -/
def entries5480 : List Entry := [
  { sub := 0x01, ty := .u8, acc := .rw, range := (.span 0 7), len := 1, perSession := true },
  { sub := 0x02, ty := .u8, acc := .ro, len := 1 },
  { sub := 0x03, ty := .u32, acc := .ro, len := 4 },
  { sub := 0x04, ty := .u32, acc := .ro, len := 4 },
  { sub := 0x05, ty := .u32, acc := .ro, len := 4 }]

/-- Entries of index 0x5800 (R355). -/
def entries5800 : List Entry := [
  { sub := 0x01, ty := .bool, acc := .rw, range := (.span 0 1), len := 1, readAtReset := true },
  { sub := 0x02, ty := .u8, acc := .rw, range := (.span 0 1), len := 1, readAtReset := true },
  { sub := 0x03, ty := .u8, acc := .ro, len := 1 },
  { sub := 0x04, ty := .u8, acc := .ro, len := 1 },
  { sub := 0x05, ty := .u8, acc := .rws, dflt := 3, range := (.span 0 7), len := 1 },
  { sub := 0x06, ty := .bool, acc := .wo, range := (.oneOf [1]), len := 1 },
  { sub := 0x08, ty := .u32, acc := .ro, len := 4 },
  { sub := 0x09, ty := .time64, acc := .ro, len := 8 },
  { sub := 0x0A, ty := .u32, acc := .ro, len := 4 },
  { sub := 0x0B, ty := .u32, acc := .ro, len := 4 },
  { sub := 0x0C, ty := .u32, acc := .ro, len := 4 },
  { sub := 0x0D, ty := .u16, acc := .rws, dflt := 80, range := (.span 20 500), len := 2 }]

/-- Entries of index 0x5810 (R355). -/
def entries5810 : List Entry := [
  { sub := 0x01, ty := .u8, acc := .ro, len := 1 },
  { sub := 0x02, ty := .u8, acc := .ro, len := 1 },
  { sub := 0x03, ty := .u8, acc := .wo, range := (.span 0 15), len := 1 },
  { sub := 0x04, ty := .u8, acc := .wo, range := (.span 0 15), len := 1 },
  { sub := 0x05, ty := .u8, acc := .ro, len := 1 },
  { sub := 0x06, ty := .u8, acc := .wo, range := (.span 0 47), len := 1 }]

/-- Entries of index 0x5840 (R355). -/
def entries5840 : List Entry := [
  { sub := 0x01, ty := .u8, acc := .rw, range := (.span 0 23), len := 1, perSession := true },
  { sub := 0x02, ty := .u8, acc := .rw, dflt := 255, range := (.spanOr 0 23 [255]), len := 1, lock := .twin }]

/-- Entries of index 0x5C00 (R375). -/
def entries5C00 : List Entry := [
  { sub := 0x01, ty := .bool, acc := .rws, dflt := 1, range := (.span 0 1), len := 1 },
  { sub := 0x02, ty := .u8, acc := .rws, dflt := 255, range := (.spanOr 0 31 [255]), len := 1 },
  { sub := 0x03, ty := .bool, acc := .rws, dflt := 1, range := (.span 0 1), len := 1 },
  { sub := 0x04, ty := .u8, acc := .ro, len := 1 },
  { sub := 0x05, ty := .u8, acc := .rws, dflt := 8, range := (.span 4 12), len := 1 },
  { sub := 0x06, ty := .u8, acc := .rws, dflt := 2, range := (.span 1 16), len := 1 },
  { sub := 0x07, ty := .u16, acc := .rws, dflt := 24, range := (.spanOr 1 8760 [0]), len := 2 },
  { sub := 0x08, ty := .bool, acc := .wo, range := (.oneOf [1]), len := 1 },
  { sub := 0x09, ty := .u16, acc := .rws, dflt := 128, range := (.span 16 256), len := 2 },
  { sub := 0x0A, ty := .u8, acc := .rws, dflt := 1, range := (.span 0 8), len := 1 },
  { sub := 0x0B, ty := .u16, acc := .rws, dflt := 64, range := (.span 16 256), len := 2 },
  { sub := 0x0C, ty := .u8, acc := .rws, dflt := 2, range := (.span 0 8), len := 1 },
  { sub := 0x0D, ty := .u8, acc := .ro, len := 1 },
  { sub := 0x0E, ty := .u8, acc := .rws, dflt := 4, range := (.span 1 64), len := 1 },
  { sub := 0x0F, ty := .time64, acc := .ro, len := 8 }]

/-- Entries of index 0x5C08 (R375). -/
def entries5C08 : List Entry := [
  { sub := 0x01, ty := .u8, acc := .rw, range := (.span 0 7), len := 1, perSession := true },
  { sub := 0x02, ty := .u8, acc := .rws, dflt := 3, range := (.span 1 63), len := 1 },
  { sub := 0x03, ty := .bool, acc := .ro, len := 1 },
  { sub := 0x04, ty := .u32, acc := .ro, len := 4 }]

/-- Entries of index 0x5C10, part 1 (R375). -/
def entries5C10A : List Entry := [
  { sub := 0x01, ty := .u8, acc := .rw, range := (.span 0 63), len := 1, perSession := true },
  { sub := 0x02, ty := .bool, acc := .rws, range := (.span 0 1), len := 1 },
  { sub := 0x03, ty := .u8, acc := .rws, range := (.span 0 7), len := 1 },
  { sub := 0x04, ty := .u16, acc := .rws, dflt := 40, range := (.span 1 4095), len := 2 },
  { sub := 0x05, ty := .u16, acc := .rws, dflt := 10, range := (.span 0 4094), len := 2 },
  { sub := 0x06, ty := .u8, acc := .rws, dflt := 2, range := (.span 1 16), len := 1 },
  { sub := 0x07, ty := .u8, acc := .rws, dflt := 2, range := (.span 1 16), len := 1 },
  { sub := 0x08, ty := .u8, acc := .rws, range := (.oneOf [0, 1, 2]), len := 1 },
  { sub := 0x09, ty := .u16, acc := .rws, dflt := 60, range := (.spanOr 5 3600 [0]), len := 2 },
  { sub := 0x0A, ty := .u16, acc := .rws, dflt := 20, range := (.span 1 4095), len := 2 },
  { sub := 0x0B, ty := .u8, acc := .rws, dflt := 255, range := (.spanOr 0 3 [255]), len := 1 },
  { sub := 0x0C, ty := .u8, acc := .ro, len := 1 },
  { sub := 0x0D, ty := .u16, acc := .ro, len := 2 },
  { sub := 0x0E, ty := .u32, acc := .ro, len := 4 },
  { sub := 0x0F, ty := .i16, acc := .ro, len := 2 },
  { sub := 0x10, ty := .u32, acc := .ro, len := 4, nonVolatile := true }]

/-- Entries of index 0x5C10, part 2 (R375). -/
def entries5C10B : List Entry := [
  { sub := 0x11, ty := .u32, acc := .ro, len := 4 },
  { sub := 0x12, ty := .u32, acc := .ro, len := 4 },
  { sub := 0x13, ty := .u16, acc := .ro, len := 2 }]

/-- Entries of index 0x5C10. -/
def entries5C10 : List Entry := entries5C10A ++ entries5C10B

/-- Entries of index 0x5C18 (R375). -/
def entries5C18 : List Entry := [
  { sub := 0x01, ty := .u8, acc := .rw, range := (.span 0 3), len := 1, perSession := true },
  { sub := 0x02, ty := .u8, acc := .rws, dflt := 255, range := (.spanOr 0 63 [255]), len := 1 }]

/-- Entries of index 0x5C20 (R375). -/
def entries5C20 : List Entry := [
  { sub := 0x01, ty := .u64, acc := .ro, len := 8 },
  { sub := 0x02, ty := .blob, acc := .ro, len := 256 },
  { sub := 0x03, ty := .u8, acc := .ro, len := 1 },
  { sub := 0x04, ty := .u32, acc := .ro, len := 4 }]

/-- Entries of index 0x6000 (R386). -/
def entries6000 : List Entry := [
  { sub := 0x01, ty := .u8, acc := .rw, range := (.span 0 3), len := 1, perSession := true },
  { sub := 0x02, ty := .u8, acc := .const, len := 1 },
  { sub := 0x03, ty := .u64, acc := .rw, range := (.span 0 0xFFFFFFFFFF), len := 8 },
  { sub := 0x04, ty := .u40, acc := .rw, dflt := 1, range := (.span 1 4294967296), len := 5 },
  { sub := 0x05, ty := .u32, acc := .rw, range := .special, len := 4 },
  { sub := 0x06, ty := .u8, acc := .wo, range := (.oneOf [1, 2, 3, 4]), len := 1 },
  { sub := 0x07, ty := .u8, acc := .ro, len := 1 },
  { sub := 0x08, ty := .u32, acc := .ro, len := 4 },
  { sub := 0x09, ty := .u40, acc := .ro, len := 5 },
  { sub := 0x0A, ty := .str, acc := .ro, len := 8 },
  { sub := 0x0B, ty := .u16, acc := .rw, dflt := 0xffff, range := (.spanOr 0 4095 [65535]), len := 2 },
  { sub := 0x0C, ty := .u32, acc := .ro, len := 4 }]

/-- Entries of index 0x6400 (R405). -/
def entries6400 : List Entry := [
  { sub := 0x01, ty := .u8, acc := .rw, range := (.span 0 23), len := 1, perSession := true },
  { sub := 0x02, ty := .u8, acc := .ro, len := 1 },
  { sub := 0x03, ty := .u8, acc := .ro, len := 1 },
  { sub := 0x04, ty := .bool, acc := .rw, range := (.span 0 1), len := 1, integratorOnly := true },
  { sub := 0x05, ty := .u32, acc := .ro, len := 4 },
  { sub := 0x06, ty := .u16, acc := .rws, dflt := 100, range := (.span 1 10000), len := 2 },
  { sub := 0x08, ty := .bool, acc := .ro, len := 1 },
  { sub := 0x09, ty := .u8, acc := .ro, len := 1 },
  { sub := 0x0A, ty := .u32, acc := .ro, len := 4 },
  { sub := 0x0C, ty := .blob, acc := .rw, range := (.lenIn 0 524288), len := 524288, nonVolatile := true },
  { sub := 0x0D, ty := .bool, acc := .rw, range := (.span 0 1), len := 1, nonVolatile := true }]

/-- Entries of index 0x6408 (R405). -/
def entries6408 : List Entry := [
  { sub := 0x01, ty := .u8, acc := .rw, range := (.oneOf [0, 1]), len := 1, nonVolatile := true },
  { sub := 0x02, ty := .u8, acc := .ro, len := 1 },
  { sub := 0x03, ty := .u32, acc := .ro, len := 4 },
  { sub := 0x04, ty := .u32, acc := .ro, len := 4 },
  { sub := 0x05, ty := .u8, acc := .rw, range := (.span 0 1), len := 1, perSession := true },
  { sub := 0x06, ty := .blob, acc := .wo, range := (.lenIn 260 65540), len := 65540 },
  { sub := 0x07, ty := .u8, acc := .wo, range := (.span 0 1), len := 1 },
  { sub := 0x08, ty := .u8, acc := .ro, len := 1 },
  { sub := 0x09, ty := .bool, acc := .wo, range := (.oneOf [1]), len := 1, integratorOnly := true },
  { sub := 0x0A, ty := .bool, acc := .wo, range := (.oneOf [1]), len := 1, integratorOnly := true },
  { sub := 0x0B, ty := .u16, acc := .rw, dflt := 60, range := (.span 10 3600), len := 2 },
  { sub := 0x0C, ty := .u8, acc := .ro, len := 1 },
  { sub := 0x0D, ty := .u16, acc := .ro, len := 2 }]

/-- Entries of index 0x6800 (R429). -/
def entries6800 : List Entry := [
  { sub := 0x01, ty := .u8, acc := .ro, len := 1 },
  { sub := 0x02, ty := .u8, acc := .ro, len := 1, perSession := true },
  { sub := 0x03, ty := .u16, acc := .ro, len := 2, perSession := true },
  { sub := 0x04, ty := .u16, acc := .rw, dflt := 60, range := (.span 10 3600), len := 2 },
  { sub := 0x05, ty := .u32, acc := .ro, len := 4 },
  { sub := 0x06, ty := .bool, acc := .wo, range := (.oneOf [1]), len := 1 },
  { sub := 0x07, ty := .bool, acc := .wo, range := (.oneOf [1]), len := 1 },
  { sub := 0x08, ty := .u8, acc := .ro, len := 1 },
  { sub := 0x09, ty := .blob, acc := .wo, range := (.lenIn 32 32), len := 32, nonVolatile := true }]

/-- Entries of index 0x6808, part 1 (R429). -/
def entries6808A : List Entry := [
  { sub := 0x01, ty := .bool, acc := .ltd, range := (.span 0 1), len := 1 },
  { sub := 0x02, ty := .u8, acc := .ltd, len := 1 },
  { sub := 0x03, ty := .u8, acc := .ltd, range := (.span 0 3), len := 1 },
  { sub := 0x04, ty := .u8, acc := .rw, range := (.span 0 64), len := 1, integratorOnly := true },
  { sub := 0x05, ty := .u8, acc := .rw, range := (.span 0 3), len := 1, perSession := true },
  { sub := 0x06, ty := .blob, acc := .ro, len := 48 },
  { sub := 0x07, ty := .u8, acc := .ro, len := 1 },
  { sub := 0x08, ty := .u8, acc := .wo, range := (.span 0 3), len := 1, integratorOnly := true },
  { sub := 0x09, ty := .u8, acc := .rw, range := (.span 0 3), len := 1, perSession := true },
  { sub := 0x0A, ty := .blob, acc := .wo, range := (.lenIn 32 32), len := 32, integratorOnly := true },
  { sub := 0x0B, ty := .u8, acc := .ro, len := 1 },
  { sub := 0x0C, ty := .u8, acc := .wo, range := (.span 0 3), len := 1, integratorOnly := true },
  { sub := 0x0D, ty := .u64, acc := .const, len := 8 },
  { sub := 0x10, ty := .u8, acc := .rw, range := (.span 0 15), len := 1, perSession := true },
  { sub := 0x11, ty := .blob, acc := .ro, len := 32 },
  { sub := 0x12, ty := .u8, acc := .ro, len := 1 }]

/-- Entries of index 0x6808, part 2 (R429). -/
def entries6808B : List Entry := [
  { sub := 0x13, ty := .u8, acc := .ro, dflt := 4, len := 1 },
  { sub := 0x14, ty := .u8, acc := .ro, dflt := 8, len := 1 }]

/-- Entries of index 0x6808. -/
def entries6808 : List Entry := entries6808A ++ entries6808B

/-- Entries of index 0x6810 (R429). -/
def entries6810 : List Entry := [
  { sub := 0x01, ty := .u8, acc := .rw, range := (.span 0 1), len := 1, perSession := true },
  { sub := 0x02, ty := .u8, acc := .rw, dflt := 16, range := (.span 1 253), len := 1, readAtReset := true },
  { sub := 0x03, ty := .u16, acc := .rw, dflt := 500, range := (.oneOf [125, 250, 500, 1000]), len := 2, readAtReset := true },
  { sub := 0x04, ty := .u16, acc := .rw, dflt := 2000, range := (.oneOf [1000, 2000, 4000, 5000]), len := 2, readAtReset := true },
  { sub := 0x05, ty := .u8, acc := .ro, len := 1 },
  { sub := 0x06, ty := .u32, acc := .ro, len := 4 }]

/-- Entries of index 0x6820 (R429). -/
def entries6820 : List Entry := [
  { sub := 0x01, ty := .u8, acc := .rw, range := (.oneOf [0, 1]), len := 1, perSession := true },
  { sub := 0x02, ty := .bool, acc := .rw, dflt := 1, range := (.span 0 1), len := 1, readAtReset := true },
  { sub := 0x03, ty := .u8, acc := .ro, len := 1 },
  { sub := 0x04, ty := .u8, acc := .rw, dflt := 7, range := (.span 0 7), len := 1, readAtReset := true },
  { sub := 0x05, ty := .u64, acc := .const, len := 8 },
  { sub := 0x06, ty := .u32, acc := .rw, dflt := 0xc0a80a64, range := .special, len := 4, nonVolatile := true },
  { sub := 0x07, ty := .u32, acc := .rw, dflt := 0xffffff00, range := .special, len := 4, nonVolatile := true },
  { sub := 0x08, ty := .u32, acc := .rw, len := 4, nonVolatile := true },
  { sub := 0x09, ty := .u16, acc := .rw, dflt := 47880, range := (.span 1024 65535), len := 2, nonVolatile := true },
  { sub := 0x0A, ty := .u16, acc := .rw, dflt := 2000, range := (.span 100 20000), len := 2 },
  { sub := 0x0B, ty := .u32, acc := .ro, len := 4 }]

/-- Entries of index 0x6830 (R429). -/
def entries6830 : List Entry := [
  { sub := 0x01, ty := .u8, acc := .ro, len := 1 },
  { sub := 0x02, ty := .u8, acc := .ro, len := 1 },
  { sub := 0x03, ty := .u32, acc := .ro, len := 4 }]

/-- Entries of index 0x7000 (R441). -/
def entries7000 : List Entry := [
  { sub := 0x01, ty := .u32, acc := .ro, len := 4 },
  { sub := 0x02, ty := .u32, acc := .ro, len := 4 },
  { sub := 0x03, ty := .u32, acc := .rw, len := 4, perSession := true },
  { sub := 0x04, ty := .blob, acc := .ro, len := 32 },
  { sub := 0x05, ty := .blob, acc := .ro, len := 1024 },
  { sub := 0x06, ty := .u32, acc := .ro, len := 4 }]

/-- The entries of an index, empty when no chapter assigns it (R432). -/
def entriesOf (index : Nat) : List Entry :=
  match index with
  | 0x1000 => entries1000
  | 0x1010 => entries1010
  | 0x2000 => entries2000
  | 0x2010 => entries2010
  | 0x2020 => entries2020
  | 0x2030 => entries2030
  | 0x2080 => entries2080
  | 0x2084 => entries2084
  | 0x2090 => entries2090
  | 0x2400 => entries2400
  | 0x2410 => entries2410
  | 0x2800 => entries2800
  | 0x2808 => entries2808
  | 0x3000 => entries3000
  | 0x3010 => entries3010
  | 0x3040 => entries3040
  | 0x3080 => entries3080
  | 0x3400 => entries3400
  | 0x3410 => entries3410
  | 0x3418 => entries3418
  | 0x3420 => entries3420
  | 0x3440 => entries3440
  | 0x3450 => entries3450
  | 0x3800 => entries3800
  | 0x3808 => entries3808
  | 0x3840 => entries3840
  | 0x3850 => entries3850
  | 0x3860 => entries3860
  | 0x3870 => entries3870
  | 0x4000 => entries4000
  | 0x4008 => entries4008
  | 0x400C => entries400C
  | 0x4400 => entries4400
  | 0x4410 => entries4410
  | 0x4800 => entries4800
  | 0x4808 => entries4808
  | 0x4810 => entries4810
  | 0x4818 => entries4818
  | 0x5000 => entries5000
  | 0x5010 => entries5010
  | 0x5018 => entries5018
  | 0x5020 => entries5020
  | 0x5400 => entries5400
  | 0x5404 => entries5404
  | 0x5408 => entries5408
  | 0x5410 => entries5410
  | 0x5480 => entries5480
  | 0x5800 => entries5800
  | 0x5810 => entries5810
  | 0x5840 => entries5840
  | 0x5C00 => entries5C00
  | 0x5C08 => entries5C08
  | 0x5C10 => entries5C10
  | 0x5C18 => entries5C18
  | 0x5C20 => entries5C20
  | 0x6000 => entries6000
  | 0x6400 => entries6400
  | 0x6408 => entries6408
  | 0x6800 => entries6800
  | 0x6808 => entries6808
  | 0x6810 => entries6810
  | 0x6820 => entries6820
  | 0x6830 => entries6830
  | 0x7000 => entries7000
  | _ => []

/-- Every index that a chapter assigns (R432). -/
def assignedIndices : List Nat := [
  0x1000, 0x1010, 0x2000, 0x2010, 0x2020, 0x2030, 0x2080, 0x2084, 0x2090, 0x2400, 0x2410, 0x2800, 0x2808, 0x3000, 0x3010, 0x3040, 0x3080, 0x3400, 0x3410, 0x3418, 0x3420, 0x3440, 0x3450, 0x3800, 0x3808, 0x3840, 0x3850, 0x3860, 0x3870, 0x4000, 0x4008, 0x400C, 0x4400, 0x4410, 0x4800, 0x4808, 0x4810, 0x4818, 0x5000, 0x5010, 0x5018, 0x5020, 0x5400, 0x5404, 0x5408, 0x5410, 0x5480, 0x5800, 0x5810, 0x5840, 0x5C00, 0x5C08, 0x5C10, 0x5C18, 0x5C20, 0x6000, 0x6400, 0x6408, 0x6800, 0x6808, 0x6810, 0x6820, 0x6830, 0x7000]

end Sys2Proof.Machine
end

