-- ==== Sys2Proof/Machine/Ops.lean ====
section
/-! DEFINITION. The named operations that every chapter's commands are written over: registers of the ledger,
wall time, the event log, what is sent, free values and memory. -/

namespace Sys2Proof.Machine

set_option Elab.async false

/-! ### Sorting -/

/-- A list in order: each element in turn goes before the first that it precedes, so that equal elements keep their order. -/
def sortBy {α : Type} (lt : α → α → Bool) (xs : List α) : List α :=
  xs.foldl (fun acc x => acc.takeWhile (fun y => !lt x y) ++ x :: acc.dropWhile fun y => !lt x y) []

/-- The outcome of a command. -/
abbrev Out := Host.Outcome State Fault Refusal

/-! ### Reason codes (R12) -/

/-- The two ASCII letters of a subsystem, as a record and a response carry them (R12, R438). -/
def Sub.letters : Sub → Nat
  | .FR => 0x4652 | .PL => 0x504C | .CM => 0x434D | .AN => 0x414E | .SO => 0x534F | .IN => 0x494E
  | .SW => 0x5357 | .TM => 0x544D | .FB => 0x4642 | .DM => 0x444D | .PA => 0x5041 | .KY => 0x4B59
  | .CK => 0x434B | .PW => 0x5057 | .LG => 0x4C47

/-- A ledger code. -/
def lg (v : Nat) : Code := ⟨.LG, v⟩
/-- A commit code. -/
def cm (v : Nat) : Code := ⟨.CM, v⟩
/-- A freshness code. -/
def fr (v : Nat) : Code := ⟨.FR, v⟩
/-- A placement code. -/
def pl (v : Nat) : Code := ⟨.PL, v⟩
/-- A composition code. -/
def an (v : Nat) : Code := ⟨.AN, v⟩
/-- A scan-out code. -/
def so (v : Nat) : Code := ⟨.SO, v⟩
/-- An ingest code. -/
def inc (v : Nat) : Code := ⟨.IN, v⟩
/-- A Swage code. -/
def sw (v : Nat) : Code := ⟨.SW, v⟩
/-- A time code. -/
def tm (v : Nat) : Code := ⟨.TM, v⟩
/-- A fabric code. -/
def fb (v : Nat) : Code := ⟨.FB, v⟩
/-- A memory code. -/
def dm (v : Nat) : Code := ⟨.DM, v⟩
/-- A pair code. -/
def pa (v : Nat) : Code := ⟨.PA, v⟩
/-- A key code. -/
def ky (v : Nat) : Code := ⟨.KY, v⟩
/-- A check-unit code. -/
def ck (v : Nat) : Code := ⟨.CK, v⟩
/-- A power code. -/
def pw (v : Nat) : Code := ⟨.PW, v⟩

/-! ### The ledger's entries and registers -/

/-- The table row of an entry, if a chapter assigns it (R432, R433). -/
def entryAt (key : Nat) : Option Entry :=
  (entriesOf (key / 256)).find? fun e => e.sub == key % 256

/-- Bytes of a numeric type; 0 for STR and BLOB (R407). -/
def Ty.bytes : Ty → Nat
  | .bool | .u8 | .i8 => 1
  | .u16 | .i16 => 2
  | .u32 | .i32 | .f32 => 4
  | .u40 => 5
  | .u64 | .i64 | .time64 => 8
  | .str | .blob => 0

/-- Whether a type's wire bits are two's complement (R407). -/
def Ty.signed : Ty → Bool
  | .i8 | .i16 | .i32 | .i64 => true
  | _ => false

/-- The initial value of a check-value unit's running value (R377, R386). -/
def unitInit (unit : Nat) : Nat := if unit = 3 then 0xFFFF else 0xFFFFFFFF

/-- The default pair priority of a master port (R294). -/
def portPriority (port : Nat) : Nat :=
  if port < 20 then 12 else if port < 24 then 11 else if port < 32 then 8 else if port < 36 then 7
  else if port = 36 then 4 else if port < 41 then 3 else 5

/-- The latency target of a master port in µs before any plan, by the table of R316; the ports whose row names
a planned rate stand at its upper bound (DEDUCED, log entry 11). -/
def portLatency (port : Nat) : Nat :=
  if port < 20 then 4 else if port < 24 then 8 else if port < 36 then 100 else if port = 36 then 20
  else if port < 41 then 200 else 10

/-- The default of an entry for one of its parts: its table's, with the rows that differ from part to part
(R64, R294, R316, R386, R405). -/
def entryDefault (key inst : Nat) : Nat :=
  if key = 0x6000_05 then unitInit inst
  else if key = 0x6000_02 then (if inst < 2 then 1 else inst)
  else if key = 0x3420_02 then (if inst < 16 then 0 else 2)
  else if key = 0x3420_03 then 0xFFFF
  else if key = 0x5010_02 then portPriority inst * 0x1111111111111111
  else if key = 0x5010_03 then portPriority inst * 0x11111111
  else if key = 0x5010_04 then portPriority inst
  else if key = 0x5408_02 then portLatency (inst / 24)
  else match entryAt key with
    | some e => e.dflt
    | none => 0

/-- The place of an entry of a numbered part in `regs`, `blobs` and `shadow`. -/
def regKey (key inst : Nat) : Nat := key * 65536 + inst

/-- The default of frozen detection of the slot of an entry of L:2010: off for a host source (R50, R64). -/
def State.frozenDefault (s : State) (key : Nat) : Nat :=
  match Tbl.find s.sources (key % 256 - 1) with
  | some x => if x.kind = 3 then 0 else 1
  | none => 1

/-- The active value of a numeric entry: as last set, else its default. -/
def State.reg (s : State) (key : Nat) (inst : Nat := 0) : Nat :=
  match Tbl.find s.regs (regKey key inst) with
  | some v => v
  | none =>
    if 0x2010_01 ≤ key && key ≤ 0x2010_28 then s.frozenDefault key else entryDefault key inst

/-- Set the active value of a numeric entry. -/
def State.setReg (s : State) (key inst v : Nat) : State :=
  { s with regs := Tbl.put s.regs (regKey key inst) v }

/-- A numeric entry as a signed integer of `w` bits. -/
def State.regI (s : State) (key inst w : Nat) : Int := toSigned w (s.reg key inst)

/-- Set a numeric entry to a signed integer of `w` bits. -/
def State.setRegI (s : State) (key inst w : Nat) (z : Int) : State := s.setReg key inst (ofSigned w z)

/-- A BOOL entry. -/
def State.flag (s : State) (key : Nat) (inst : Nat := 0) : Bool := s.reg key inst != 0

/-- Set a BOOL entry. -/
def State.setFlag (s : State) (key inst : Nat) (b : Bool) : State := s.setReg key inst (if b then 1 else 0)

/-- Bits of an entry's type. -/
def entryBits (key : Nat) : Nat :=
  match entryAt key with
  | some e => 8 * e.ty.bytes
  | none => 32

/-- Add `n` to a counter of its entry's width, saturating (R64, R176, R209, R240, R266). -/
def State.bumpBy (s : State) (key inst n : Nat) : State :=
  s.setReg key inst (satAdd (entryBits key) (s.reg key inst) n)

/-- Add 1 to a saturating counter. -/
def State.bump (s : State) (key : Nat) (inst : Nat := 0) : State := s.bumpBy key inst 1

/-- The identity colour matrix (L:3850.03): unity is 1,024 (R193). -/
def identityMatrix : Bytes := (List.range 9).flatMap fun k => beBytes 2 (if k % 4 = 0 then 1024 else 0)

/-- What a STR or BLOB entry holds until it is set: nothing, but for the colour matrix (R209). -/
def blobDefault (key : Nat) : Bytes := if key = 0x3850_03 then identityMatrix else []

/-- The active value of a STR or BLOB entry, its default until set. -/
def State.blob (s : State) (key : Nat) (inst : Nat := 0) : Bytes :=
  Tbl.get (blobDefault key) s.blobs (regKey key inst)

/-- Set the active value of a STR or BLOB entry. -/
def State.setBlob (s : State) (key inst : Nat) (b : Bytes) : State :=
  { s with blobs := Tbl.put s.blobs (regKey key inst) b }

/-- The active value of an entry of either kind. -/
def State.active (s : State) (key inst : Nat) : Val :=
  match entryAt key with
  | some e => if e.ty.bytes = 0 then .bytes (s.blob key inst) else .num (s.reg key inst)
  | none => .num (s.reg key inst)

/-- Set the active value of an entry of either kind. -/
def State.setActive (s : State) (key inst : Nat) : Val → State
  | .num n => s.setReg key inst n
  | .bytes b => s.setBlob key inst b

/-- The shadow value of an RWS entry: as last written, else the active value (R98). -/
def State.shadowVal (s : State) (key inst : Nat) : Val :=
  match Tbl.find s.shadow (regKey key inst) with
  | some h => h.v
  | none => s.active key inst

/-- The shadow value of a numeric RWS entry. -/
def State.shadowNum (s : State) (key inst : Nat) : Nat := (s.shadowVal key inst).n

/-- Write the shadow value of an RWS entry, marking it written since the last accepted commit (R97, R98). -/
def State.setShadow (s : State) (key inst : Nat) (v : Val) : State :=
  { s with shadow := Tbl.put s.shadow (regKey key inst) { v := v, dirty := true } }

/-! ### Parts by number -/

/-- The Ingot of a number (R30). -/
def State.ingot (s : State) (n : Nat) : Ingot := Tbl.get {} s.ingots n
/-- Replace an Ingot. -/
def State.setIngot (s : State) (n : Nat) (g : Ingot) : State := { s with ingots := Tbl.put s.ingots n g }
/-- The view group of a number. -/
def State.group (s : State) (n : Nat) : Group := Tbl.get {} s.groups n
/-- Replace a view group. -/
def State.setGroup (s : State) (n : Nat) (g : Group) : State := { s with groups := Tbl.put s.groups n g }
/-- What ingest holds of a source slot. -/
def State.slot (s : State) (n : Nat) : Slot := Tbl.get {} s.slots n
/-- Replace what ingest holds of a source slot. -/
def State.setSlot (s : State) (n : Nat) (g : Slot) : State := { s with slots := Tbl.put s.slots n g }
/-- The source that the plan in force binds to a slot. -/
def State.source (s : State) (n : Nat) : Option Source := Tbl.find s.sources n
/-- The output of a number. -/
def State.output (s : State) (n : Nat) : Output := Tbl.get {} s.outputs n
/-- Replace an output. -/
def State.setOutput (s : State) (n : Nat) (o : Output) : State := { s with outputs := Tbl.put s.outputs n o }
/-- The engine of a number. -/
def State.engine (s : State) (n : Nat) : Engine := Tbl.get {} s.engines n
/-- Replace an engine. -/
def State.setEngine (s : State) (n : Nat) (e : Engine) : State := { s with engines := Tbl.put s.engines n e }
/-- The camera context of a number. -/
def State.ctx (s : State) (n : Nat) : Ctx := Tbl.get {} s.ctxs n
/-- Replace a camera context. -/
def State.setCtx (s : State) (n : Nat) (c : Ctx) : State := { s with ctxs := Tbl.put s.ctxs n c }
/-- The pipeline of a number. -/
def State.pipe (s : State) (n : Nat) : Pipe := Tbl.get {} s.pipes n
/-- Replace a pipeline. -/
def State.setPipe (s : State) (n : Nat) (p : Pipe) : State := { s with pipes := Tbl.put s.pipes n p }
/-- The camera port of a number. -/
def State.camPort (s : State) (n : Nat) : CamPort := Tbl.get {} s.camPorts n
/-- Replace a camera port. -/
def State.setCamPort (s : State) (n : Nat) (p : CamPort) : State :=
  { s with camPorts := Tbl.put s.camPorts n p }
/-- The lane of a number. -/
def State.lane (s : State) (n : Nat) : Lane := Tbl.get {} s.lanes n
/-- Replace a lane. -/
def State.setLane (s : State) (n : Nat) (l : Lane) : State := { s with lanes := Tbl.put s.lanes n l }
/-- The Swage port of a number. -/
def State.port (s : State) (n : Nat) : Port := Tbl.get {} s.ports n
/-- Replace a Swage port. -/
def State.setPort (s : State) (n : Nat) (p : Port) : State := { s with ports := Tbl.put s.ports n p }
/-- The channel of a number. -/
def State.chan (s : State) (n : Nat) : Chan := Tbl.get {} s.dram.chans n
/-- Replace a channel. -/
def State.setChan (s : State) (n : Nat) (c : Chan) : State :=
  { s with dram := { s.dram with chans := Tbl.put s.dram.chans n c } }
/-- The key of a number. -/
def State.key (s : State) (n : Nat) : Key := Tbl.get {} s.keys.key n
/-- Replace a key. -/
def State.setKey (s : State) (n : Nat) (k : Key) : State :=
  { s with keys := { s.keys with key := Tbl.put s.keys.key n k } }
/-- The check-value unit of a number. -/
def State.scan (s : State) (n : Nat) : Scan := Tbl.get {} s.scans n
/-- Replace a check-value unit. -/
def State.setScan (s : State) (n : Nat) (c : Scan) : State := { s with scans := Tbl.put s.scans n c }

/-! ### Free values, sending -/

/-- A free value, and the state that has drawn it (log entry 4). -/
def State.draw (s : State) : Nat × State := (Config.free s.fresh, { s with fresh := s.fresh + 1 })

/-- `n` free bytes, and the state that has drawn them. -/
def State.drawBytes (s : State) : Nat → Bytes × State
  | 0 => ([], s)
  | n + 1 =>
    let d := s.draw
    let r := State.drawBytes d.2 n
    (byte d.1 :: r.1, r.2)

/-- Send something to the world outside; the newest stands first. -/
def State.send (s : State) (x : Sent) : State := { s with sent := x :: s.sent }

/-- Answer a session's write or action (R409). -/
def State.reply (s : State) (ss : Nat) (r : Reply) : State := s.send (.reply ss r)

/-- A successful reply. -/
def Reply.ok : Reply := {}

/-- A refusal with a code. -/
def Reply.no (c : Code) : Reply := { code := some c }

/-! ### Wall time (R268-R270) -/

/-- The rate in force, a signed fraction in units of 2^-48 (R269). -/
def State.rate (s : State) : Int := s.regI 0x4800_02 0 40

/-- The offset in force, in ns (R269). -/
def State.offset (s : State) : Int := s.regI 0x4800_03 0 64

/-- The rate's contribution at a counter value: floor of c × r ÷ 2^48 (R269). -/
def rateAdj (c : Nat) (r : Int) : Int := (c : Int) * r / (2 ^ 48 : Int)

/-- Wall time at a counter value, modulo 2^64 (R269). -/
def State.wallAt (s : State) (c : Nat) : Nat := ofSigned 64 (s.offset + c + rateAdj c s.rate)

/-- Nanoseconds since reset, by which intervals are measured. -/
def State.now (s : State) : Nat := s.time.uptime

/-- Wall time now (R269). -/
def State.wall (s : State) : Nat := s.wallAt s.time.counter

/-- The time state, L:4800.06: 0 locked, 1 holdover, 2 unlocked (R272). -/
def State.timeState (s : State) : Nat := s.reg 0x4800_06

/-- One second in ns. -/
def second : Nat := 1000000000

/-- One millisecond in ns. -/
def milli : Nat := 1000000

/-! ### The event log (R437-R441) -/

/-- The 32 bytes of an event record (R438). -/
def LogRec.bytes (r : LogRec) : Bytes :=
  beBytes 4 r.seq ++ beBytes 8 r.time ++ beBytes 2 r.event ++
  (match r.code with
    | some c => beBytes 2 c.sub.letters ++ beBytes 1 c.val
    | none => [0, 0, 0]) ++
  beBytes 1 (r.timeState + (if r.firmware then 4 else 0)) ++ beBytes 2 r.suppressed ++
  beBytes 4 r.inst ++ beBytes 8 (ofSigned 64 r.detail)

/-- The sequence number after another: it wraps from 0xFFFF_FFFF to 1 (R438). -/
def nextSeq (n : Nat) : Nat := if n = 0xFFFFFFFF then 1 else n + 1

/-- Records that the ring holds (R437). -/
def logSize : Nat := 4096

/-- Raise MSI-X vector 0, at most one message per 100 µs; a record inside that time leaves one due (R441). -/
def State.raiseLog (s : State) : State :=
  match s.log.vector0At with
  | none => { s with log := { s.log with vector0At := some s.now } }.send (.msix 0)
  | some t =>
    if t + 100000 ≤ s.now then
      { s with log := { s.log with vector0At := some s.now, vector0Due := false } }.send (.msix 0)
    else { s with log := { s.log with vector0Due := true } }

/-- Records that the log writer holds waiting (R439). -/
def logQueue : Nat := 64

/-- The records that wait for the log writer now: it writes one each nanosecond (R439; log entry 99). -/
def State.logWaiting (s : State) : Nat := s.log.waiting - (s.now - s.log.waitAt)

/-- Write a record of an event that happened at wall time `time`, with a number of suppressed occurrences; one that finds
64 waiting is dropped and counted, and with the Fabric domain off, which holds the log, there is none (R437-R439). -/
def State.recordAt (s : State) (time event : Nat) (code : Option Code) (inst : Nat) (detail : Int)
    (fw : Bool) (suppressed : Nat) : State :=
  let q := nextSeq s.log.seq
  let r : LogRec :=
    { seq := q, time := time, event := event, code := code, timeState := s.timeState
      firmware := fw, suppressed := suppressed, inst := inst, detail := detail }
  if s.reg 0x6400_02 3 != 2 then s
  else if logQueue ≤ s.logWaiting then { s with log := { s.log with dropped := satAdd 32 s.log.dropped 1 } }
  else
    { s with log := { s.log with
        recs := (r :: s.log.recs).take logSize, seq := q, waiting := s.logWaiting + 1, waitAt := s.now } }.raiseLog

/-- Record an event now (R437). -/
def State.record (s : State) (event : Nat) (code : Option Code) (inst : Nat) (detail : Int)
    (fw : Bool := false) : State :=
  s.recordAt s.wall event code inst detail fw 0

/-- Whether a limit record is of the same event, code and instance. -/
def Limit.same (l : Limit) (event : Nat) (code : Option Code) (inst : Nat) : Bool :=
  l.event == event && l.code == code && l.inst == inst

/-- Record an event at most once per `every` steps of a clock for its instance, or for its instance and code where
`perCode`; an occurrence inside that interval is counted in the next record with the same event, code and instance
(R439). -/
def State.recordEvery (s : State) (clock every : Nat) (perCode : Bool) (event : Nat) (code : Option Code)
    (inst : Nat) (detail : Int) (fw : Bool := false) : State :=
  let held := s.log.limits.any fun l => l.event == event && l.inst == inst && (!perCode || l.code == code) &&
    (match l.last with | none => false | some t => decide (clock < t + every))
  let old := (s.log.limits.find? fun l => l.same event code inst).getD
    { event := event, code := code, inst := inst }
  let rest := s.log.limits.filter fun l => !l.same event code inst
  if held then
    let l : Limit := { old with suppressed := satAdd 16 old.suppressed 1 }
    { s with log := { s.log with limits := l :: rest } }
  else
    let l : Limit := { old with last := some clock, suppressed := 0 }
    let s1 : State := { s with log := { s.log with limits := l :: rest } }
    s1.recordAt s.wall event code inst detail fw old.suppressed

/-- Record an event at most once per `every` ns for its instance (R439). -/
def State.recordLimited (s : State) (every event : Nat) (code : Option Code) (inst : Nat) (detail : Int)
    (fw : Bool := false) : State :=
  s.recordEvery s.now every false event code inst detail fw

/-- Record an event at most once per `every` ns over all its instances; an occurrence inside that interval is counted for its
own (R277, R282, R439). -/
def State.recordDevice (s : State) (every event : Nat) (code : Option Code) (inst : Nat) (detail : Int) : State :=
  let near := s.log.limits.any fun l => l.event == event &&
    (match l.last with | none => false | some t => decide (s.now < t + every))
  if near then
    let old := (s.log.limits.find? fun l => l.same event code inst).getD { event := event, code := code, inst := inst }
    let rest := s.log.limits.filter fun l => !l.same event code inst
    { s with log := { s.log with limits := { old with suppressed := satAdd 16 old.suppressed 1 } :: rest } }
  else s.recordLimited every event code inst detail

/-- A reason code as text, as "CM-0x05" (R12). -/
def Code.text (c : Code) : Bytes :=
  let hex := fun n : Nat => byte (if n < 10 then 48 + n else 55 + n)
  beBytes 2 c.sub.letters ++ ascii "-0x" ++ [hex (c.val / 16), hex (c.val % 16)]

/-! ### What runs (R28, R388, R394) -/

/-- Whether the fast domains run: REFCLK is present and the device is no cold Standby (R388, R394). -/
def State.live (s : State) : Bool := s.power.refclk && s.reg 0x5800_03 != 5

/-- Whether the Fabric domain is not in fault, and so Tongs, the register space, the Ingot table and the freshness unit work
(R388, R390). -/
def State.fabricWorks (s : State) : Bool := s.reg 0x6400_02 3 != 4

/-- Whether the management controller runs, and so the ledger answers (R28), which its register space must too (R390). -/
def State.managed (s : State) : Bool := s.live && s.power.mgmt && s.fabricWorks

/-- Whether a power domain is in fault, so that the blocks inside it are unavailable (R390). -/
def State.inFault (s : State) (d : Nat) : Bool := s.reg 0x6400_02 d == 4

/-- The domain of a scan-out engine's cluster: Reserve A lies in cluster 0, Reserve B in cluster 2 (R388). -/
def clusterDomain (e : Nat) : Nat := if e = 16 then 6 else if e = 17 then 8 else 6 + e / 4

/-- A command of the datapath: it does nothing while the fast domains are stopped (R388, R394). -/
def whenLive (s : State) (f : State → State) : Out := .next (if s.live then f s else s)

/-- A command of the fabric: it does nothing while the fast domains are stopped or the Fabric domain is in fault (R388, R390). -/
def whenFabric (s : State) (f : State → State) : Out := .next (if s.live && s.fabricWorks then f s else s)

/-- A command of the ledger or the firmware: it does nothing while the management controller is stopped (R28). -/
def whenManaged (s : State) (f : State → State) : Out := .next (if s.managed then f s else s)

/-- A function of the readiness board reports ready: its bit, its time and E-0x100 with PW-0x0B (R398). -/
def State.setReady (s : State) (bit : Nat) : State :=
  if bitAt (s.reg 0x1010_01) bit then s
  else
    let us := s.now / 1000
    ((s.setReg 0x1010_01 0 (withBit (s.reg 0x1010_01) bit true)).setReg 0x1010_04 bit us).record
      0x100 (some (pw 0x0B)) bit us

/-- A function that cannot become ready: its bit and E-0x101 with its cause's code (R398). -/
def State.setFailed (s : State) (bit : Nat) (c : Option Code) : State :=
  (s.setReg 0x1010_02 0 (withBit (s.reg 0x1010_02) bit true)).record 0x101 c bit (s.now / 1000)

/-! ### Memory (R291, R312)

The bytes of device addresses; the list holds those that differ from what an unlisted address reads as. -/

/-- What a byte of memory that nothing has written reads as (DESIGN CHOICE, log entry 3). -/
def unwritten : Byte := 0

/-- The byte at a device address. -/
def Memory.read : List Host.Cell → Nat → Byte
  | [], _ => unwritten
  | (a, b) :: m, k => if a = k then b else Memory.read m k

/-- The memory in which address `k` holds `v`, in canonical form. -/
def Memory.write : List Host.Cell → Nat → Byte → List Host.Cell
  | [], k, v => if v = unwritten then [] else [(k, v)]
  | (a, b) :: m, k, v =>
    if k < a then (if v = unwritten then (a, b) :: m else (k, v) :: (a, b) :: m)
    else if k = a then (if v = unwritten then m else (k, v) :: m)
    else (a, b) :: Memory.write m k v

/-- Whether every address listed lies above `lo`, addresses rise, and no byte is the unlisted value. -/
def Memory.wfFrom : Option Nat → List Host.Cell → Bool
  | _, [] => true
  | lo, (a, b) :: m =>
    (match lo with | none => true | some l => decide (l < a)) && b != unwritten && Memory.wfFrom (some a) m

/-- Whether a memory is in canonical form: addresses strictly rising, none with the unlisted value. -/
def Memory.wf (m : List Host.Cell) : Bool := Memory.wfFrom none m

/-- `len` bytes from address `a`. -/
def Memory.readN (m : List Host.Cell) : Nat → Nat → Bytes
  | _, 0 => []
  | a, len + 1 => Memory.read m a :: Memory.readN m (a + 1) len

/-- The memory with a byte string written from address `a`. -/
def Memory.writeN (m : List Host.Cell) : Nat → Bytes → List Host.Cell
  | _, [] => m
  | a, b :: bs => Memory.writeN (Memory.write m a b) (a + 1) bs

/-- `len` bytes of the device's memory from address `a`. -/
def State.load (s : State) (a len : Nat) : Bytes := Memory.readN s.dram.mem a len

/-- The state with a byte string stored from address `a`. -/
def State.store (s : State) (a : Nat) (bs : Bytes) : State :=
  { s with dram := { s.dram with mem := Memory.writeN s.dram.mem a bs } }

end Sys2Proof.Machine
end

