-- ==== Sys2Proof/Machine/Access.lean ====
section
/-! DEFINITION. How any reader or writer reaches the ledger: rights levels (R416), selectors (R435), static locks
(R99), the order of checks (R420) and the answer to a write or action. The chapters' own checks and effects are
passed in as operations. -/

namespace Sys2Proof.Machine

set_option Elab.async false

/-! ### Rights (R416) -/

/-- The write level of an index's range (R416). -/
def rangeLevel (key : Nat) : Nat :=
  let i := key / 256
  if i < 0x2000 then 2
  else if i < 0x2400 then (if i = 0x2084 then 1 else 2)
  else if i < 0x2800 then (if 0x2400_07 ≤ key && key ≤ 0x2400_09 then 2 else 1)
  else if i < 0x3000 then (if (0x2800_01 ≤ key && key ≤ 0x2800_04) || key = 0x2800_19 then 2 else 1)
  else if i < 0x3400 then 1
  else if i < 0x3800 then (if key = 0x3410_01 then 1 else 2)
  else if i < 0x4000 then (if key = 0x3800_0B || i = 0x3860 then 1 else 2)
  else if i < 0x5C00 then 2
  else if i < 0x6000 then (if key = 0x5C00_08 then 1 else 2)
  else if i < 0x6400 then 1
  else if i < 0x7000 then 2
  else if i < 0xF000 then 1
  else 3

/-- Whether an entry is static. -/
def Entry.isStatic (e : Entry) : Bool := e.lock != .none

/-- The level that a write of an entry needs (R416). -/
def Entry.writeLevel (e : Entry) (key : Nat) : Nat :=
  if e.perSession then 0
  else if e.isStatic || e.acc == .ltd || e.integratorOnly then 2
  else rangeLevel key

/-- The level that a read of an entry needs (R416). -/
def readLevel (key : Nat) : Nat := if 0xF00000 ≤ key then 3 else 0

/-! ### Sessions and selectors (R417, R435) -/

/-- The open or pending session of an identifier. -/
def State.session? (s : State) (ss : Nat) : Option Session := s.acc.sessions.find? fun x => x.id == ss

/-- Replace the session of the same identifier. -/
def State.setSession (s : State) (x : Session) : State :=
  { s with acc := { s.acc with
      sessions := s.acc.sessions.map fun y => if y.id == x.id then x else y } }

/-- A per-session field: as the session last wrote it, else its default (R408). -/
def Session.fld (x : Session) (key : Nat) : Nat := (Tbl.find x.fields key).getD (entryDefault key 0)

/-- Set a per-session field. -/
def Session.setFld (x : Session) (key v : Nat) : Session := { x with fields := Tbl.put x.fields key v }

/-- A per-session field of the session of an identifier; its default when no such session is open. -/
def State.fld (s : State) (ss key : Nat) : Nat :=
  match s.session? ss with
  | some x => x.fld key
  | none => entryDefault key 0

/-- The number of the part that a session's selectors name for an entry (R435 and the index of entries). -/
def Session.inst (x : Session) (key : Nat) : Nat :=
  match key / 256 with
  | 0x1010 => if key = 0x1010_04 then x.fld 0x1010_03 else 0
  | 0x2020 => x.fld 0x2020_01
  | 0x2030 => x.fld 0x2030_01
  | 0x2080 => x.fld 0x2080_01
  | 0x2808 => x.fld 0x2808_01
  | 0x3000 => x.fld 0x3000_01 * 24 + x.fld 0x3000_02
  | 0x3010 => x.fld 0x3010_01
  | 0x3040 => if key = 0x3040_02 || key = 0x3040_03 then x.fld 0x3040_01 else 0
  | 0x3080 => x.fld 0x3080_01
  | 0x3400 => x.fld 0x3400_01
  | 0x3410 => x.fld 0x3400_01
  | 0x3418 => x.fld 0x3000_01 * 24 + x.fld 0x3000_02
  | 0x3420 => x.fld 0x3420_01
  | 0x3440 => x.fld 0x3440_01
  | 0x3450 => x.fld 0x3450_01
  | 0x3800 => x.fld 0x3800_01
  | 0x3808 => x.fld 0x3800_01 * 17 + x.fld 0x3808_01
  | 0x3840 => x.fld 0x3840_01
  | 0x3850 => x.fld 0x3840_01
  | 0x3860 => x.fld 0x3840_01
  | 0x3870 => x.fld 0x3840_01 * 8 + x.fld 0x3870_01
  | 0x4000 => x.fld 0x4000_01
  | 0x4008 => x.fld 0x4008_01
  | 0x400C => x.fld 0x400C_01
  | 0x4400 => x.fld 0x4400_01
  | 0x4410 => x.fld 0x4410_01
  | 0x5010 => x.fld 0x5010_01
  | 0x5018 => x.fld 0x5018_01
  | 0x5020 => x.fld 0x5020_01
  | 0x5400 => x.fld 0x5400_01
  | 0x5408 => x.fld 0x5408_01 * 24 + x.fld 0x5408_05
  | 0x5410 => x.fld 0x5410_01
  | 0x5480 => x.fld 0x5480_01
  | 0x5840 => x.fld 0x5840_01
  | 0x5C08 => x.fld 0x5C08_01
  | 0x5C10 => x.fld 0x5C10_01
  | 0x5C18 => x.fld 0x5C18_01
  | 0x6000 => x.fld 0x6000_01
  | 0x6400 => if 0x6400_02 ≤ key && key ≤ 0x6400_05 then x.fld 0x6400_01 else 0
  | 0x6408 => if 0x6408_06 ≤ key && key ≤ 0x6408_08 then x.fld 0x6408_05 else 0
  | 0x6808 =>
    if key = 0x6808_06 || key = 0x6808_07 then x.fld 0x6808_05
    else if key = 0x6808_0B then x.fld 0x6808_09
    else if key = 0x6808_11 then x.fld 0x6808_10 else 0
  | 0x6810 => x.fld 0x6810_01
  | 0x6820 => if 0x6820_02 ≤ key && key ≤ 0x6820_04 then x.fld 0x6820_01 else 0
  | _ => 0

/-! ### Static locks (R99) -/

/-- Whether a lane carries an enabled port or is a spare assigned to one (R211, R242). -/
def State.laneInUse (s : State) (lane : Nat) : Bool :=
  if lane < 48 then
    (List.range 24).any fun p =>
      s.flag 0x4400_02 p && decide (s.reg 0x4400_03 p ≤ lane) &&
        decide (lane < s.reg 0x4400_03 p + s.reg 0x4400_04 p)
  else s.reg 0x400C_02 (lane - 48) < 24 && s.flag 0x4400_02 (s.reg 0x400C_02 (lane - 48))

/-- The lanes of a lane group: three quads each, group 3 with the spares of Q12 besides (R17, R211). -/
def groupLanes (g : Nat) : List Nat := (List.range (if g = 3 then 16 else 12)).map (· + 12 * g)

/-- The lane group of a lane (R211). -/
def laneGroup (lane : Nat) : Nat := min (lane / 12) 3

/-- Whether an enabled output drives a port of an egress type (R153). -/
def State.egressInUse (s : State) (types : List Nat) (port : Nat) : Bool :=
  (List.range 32).any fun o =>
    s.flag 0x3400_02 o && types.contains (s.reg 0x3400_03 o) && s.reg 0x3400_04 o == port

/-- Whether the block that locks a static entry is enabled (R99, R309). -/
def State.locked (s : State) (l : Lock) (inst : Nat) : Bool :=
  match l with
  | .none => false
  | .anyOutput => (List.range 32).any fun o => s.flag 0x3400_02 o
  | .output => s.flag 0x3400_02 inst
  | .dpPort => s.egressInUse [2] inst
  | .dsiPort => s.egressInUse [3, 4] inst
  | .camPort => s.flag 0x3800_02 inst
  | .context => s.flag 0x3840_02 inst
  | .lane => s.laneInUse inst
  | .laneGroup => (groupLanes inst).any s.laneInUse
  | .swPort => s.flag 0x4400_02 inst
  | .spare => s.reg 0x400C_02 inst < 24 && s.flag 0x4400_02 (s.reg 0x400C_02 inst)
  | .twin => s.flag 0x4400_02 inst
  | .ptp => s.reg 0x4808_01 == 1
  | .channel => s.reg 0x5400_02 inst < 5

/-! ### Ranges (R407, R433) -/

/-- A value's integer, signed where its type is (R407). -/
def Ty.int (t : Ty) (n : Nat) : Int := if t.signed then toSigned (8 * t.bytes) n else n

/-- Whether every subfield of the horizontal timing lies in its limits and the active width is even (R154). -/
def horizOk (n : Nat) : Bool :=
  let f := fun v : Nat => decide (8 ≤ v) && decide (v ≤ 1024)
  let a := bits n 31 16
  f (bits n 63 48) && f (bits n 47 32) && f (bits n 15 0) && decide (64 ≤ a) && decide (a ≤ 4096) && a % 2 == 0

/-- Whether every vertical porch lies in its limits (R154). -/
def vertOk (n : Nat) : Bool :=
  let f := fun v : Nat => decide (1 ≤ v) && decide (v ≤ 255)
  n < 2 ^ 24 && f (bits n 23 16) && f (bits n 15 8) && f (bits n 7 0)

/-- Total lines of an output (R154). -/
def State.vtotal (s : State) (o : Nat) : Nat :=
  let n := s.reg 0x3400_09 o
  bits n 23 16 + bits n 15 8 + bits n 7 0 + s.reg 0x3400_08 o

/-- Total pixel periods of a line of an output (R154). -/
def State.htotal (s : State) (o : Nat) : Nat :=
  let n := s.reg 0x3400_06 o
  bits n 63 48 + bits n 47 32 + bits n 31 16 + bits n 15 0

/-- Whether a wall period numerator and denominator give a period within its limits (R101). -/
def periodOk (num den : Nat) : Bool := 0 < den && 4166667 * den ≤ num && num ≤ 100000000 * den

/-- Whether a mask is ones above zeros (R429). -/
def contiguousMask (n : Nat) : Bool := (List.range 33).any fun k => n == 2 ^ 32 - 2 ^ k

/-- The ranges that a table states in words: timing limits (R154), wall period (R101), tolerances (R315), nibbles,
addresses and the colour matrix. -/
def State.specialOk (s : State) (key inst : Nat) (v : Val) : Bool :=
  match key with
  | 0x2800_02 => periodOk v.n (s.reg 0x2800_03)
  | 0x3400_06 => horizOk v.n
  | 0x3400_09 => vertOk v.n
  | 0x3400_14 => v.n < s.vtotal inst
  | 0x3850_03 => v.b.length == 18 && (List.range 9).all fun i =>
      let c := toSigned 16 (field v.b (2 * i) 2)
      decide (-8192 ≤ c) && decide (c ≤ 8191)
  | 0x4000_05 => v.n % 16 < 4 && (v.n / 16 == 0 || v.n / 16 == 1)
  | 0x4008_05 => (List.range 4).all fun i => bits v.n (4 * i + 3) (4 * i) ≤ 5
  | 0x5404_02 => 3500 ≤ v.n && v.n ≤ s.shadowNum 0x5404_01 0
  | 0x5404_03 => 3400 ≤ v.n && v.n ≤ s.shadowNum 0x5404_02 0
  | 0x6000_05 => v.n < (if inst = 3 then 2 ^ 16 else 2 ^ 32)
  | 0x6820_06 => 0x01000000 ≤ v.n && v.n < 0xE0000000 && v.n / 2 ^ 24 != 127
  | 0x6820_07 => contiguousMask v.n
  | _ => true

/-- Whether a value lies in an entry's range column; a wall period's denominator is judged with its numerator
(R101). -/
def State.rangeOk (s : State) (e : Entry) (key inst : Nat) (v : Val) : Bool :=
  let i := e.ty.int v.n
  (match e.ty, v with
    | .bool, .num n => n < 2
    | .str, .bytes b => b.all fun c => decide (0x20 ≤ c.toNat) && decide (c.toNat ≤ 0x7E)
    | _, _ => true) &&
  (key != 0x2800_03 || periodOk (s.reg 0x2800_02) v.n) &&
  (match e.range with
    | .any => true
    | .span lo hi => decide (lo ≤ i) && decide (i ≤ hi)
    | .spanOr lo hi also => (decide (lo ≤ i) && decide (i ≤ hi)) || also.contains v.n
    | .spanStep lo hi step => lo ≤ v.n && v.n ≤ hi && v.n % step == 0
    | .multipleOf m => v.n % m == 0
    | .oneOf vs => vs.contains v.n
    | .lenIn lo hi => lo ≤ v.b.length && v.b.length ≤ hi
    | .special => s.specialOk key inst v)

/-- Whether a value's length fits its entry's type (R407). -/
def lengthOk (e : Entry) (v : Val) : Bool :=
  match v with
  | .num n => e.ty.bytes != 0 && decide (n < 2 ^ (8 * e.ty.bytes))
  | .bytes b => e.ty.bytes == 0 && decide (b.length ≤ e.len)

/-! ### Fuse settings (R421-R427) -/

/-- The role lock in force: 0 unlocked, 1-3 the role locked (R424). -/
def Fuses.roleLock (f : Fuses) : Nat := f.roleLocks.getLastD 0

/-- The wall alias in force, 0 until one is written (R427). -/
def Fuses.wallAlias (f : Fuses) : Nat := f.aliases.getLastD 0

/-- The value in force of an LTD entry (R427). -/
def Fuses.ltd (f : Fuses) (key : Nat) : Nat :=
  if key = 0x6808_01 then (if f.debugLock then 1 else 0)
  else if key = 0x6808_02 then f.policy
  else if key = 0x6808_03 then f.roleLock
  else f.wallAlias

/-- Whether an LTD entry has a change left and the tally a row (R427, R428). -/
def Fuses.changeLeft (f : Fuses) (key : Nat) : Bool :=
  f.tally.length < 16 &&
  (key != 0x6808_03 || decide (f.roleLocks.length < 4)) &&
  (key != 0x2800_04 || decide (f.aliases.length < 8))

/-- Whether a fuse setting forbids a session's write of a value (R5, R7, R423); error injection is in service while the
lane runs. -/
def State.fuseForbids (s : State) (x : Session) (key : Nat) (v : Val) : Bool :=
  (bitAt s.fuses.policy 5 && x.peer.path == 1) ||
  (bitAt s.fuses.policy 7 && key == 0x4000_13 && v.n != 0 && s.reg 0x4000_02 (x.inst key) == 8) ||
  (bitAt s.fuses.policy 6 && key == 0x2000_0A && v.n == 0) ||
  (key == 0x1000_04 && s.fuses.roleLock != 0)

/-! ### The order of checks (R420) -/

/-- Whether an access kind permits a write (R408). -/
def Access.writable : Access → Bool
  | .rw | .rws | .wo | .ltd => true
  | .ro | .const => false

/-- Seconds within which a segment must follow another, in ns (R410). -/
def segmentGap : Nat := second

/-- Whether another session's segmented write holds an entry (R410). -/
def State.heldByOther (s : State) (ss slot : Nat) : Bool :=
  s.acc.sessions.any fun y => y.id != ss && y.holds.any fun h => h.slot == slot && decide (s.now ≤ h.last + segmentGap)

/-- The highest level that a peer reaches: over Swage the port's trust caps it (R263). -/
def State.levelCap (s : State) (p : Peer) : Nat :=
  match p with
  | .swage q => s.reg 0x4400_05 q - 2
  | _ => 3

/-- The level at which a session acts. -/
def State.levelOf (s : State) (x : Session) : Nat := min x.level (s.levelCap x.peer)

/-- Whether an entry is served: in recovery L:1010 and L:6408 alone are (R397). -/
def State.serves (s : State) (key : Nat) : Bool := !s.acc.recovery || key / 256 == 0x1010 || key / 256 == 0x6408

/-- The level that an access needs: in recovery Integrator at least (R397). -/
def State.needs (s : State) (level : Nat) : Nat := if s.acc.recovery then max level 2 else level

/-- The code of an access to an index that no chapter assigns: the factory range, which is not described, is closed below
Factory and by the debug lock (R416, R424, R432). -/
def State.unassigned (s : State) (x : Session) (key : Nat) : Code :=
  if 0xF00000 ≤ key && (s.levelOf x < 3 || s.fuses.debugLock) then lg 0x06 else lg 0x01

/-- Checks 4 to 11 of R420 for a write: the first code that applies. -/
def State.checkWrite (s : State) (x : Session) (key : Nat) (e : Entry) (v : Val) : Option Code :=
  let inst := x.inst key
  if s.levelOf x < s.needs (e.writeLevel key) then some (lg 0x06)
  else if !e.acc.writable then some (lg 0x03)
  else if !lengthOk e v then some (lg 0x02)
  else if !s.rangeOk e key inst v then some (lg 0x04)
  else if s.heldByOther x.id (regKey key inst) then some (lg 0x12)
  else if s.fuseForbids x key v then some (lg 0x0C)
  else if s.locked e.lock inst then some (lg 0x05)
  else if e.acc == .ltd && v.n != s.fuses.ltd key && !s.fuses.changeLeft key then some (lg 0x0D)
  else none

/-- The event that a ledger refusal records: E-0x112, at most once per session or path per second (R416, R431). -/
def State.noteRefusal (s : State) (who key : Nat) (c : Code) : State :=
  if c.sub = .LG && [0x06, 0x0C, 0x0D, 0x0E, 0x10].contains c.val then
    s.recordLimited second 0x112 (some c) who key true
  else s

/-- A chapter's own checks and effect of a write: session, part, value. -/
abbrev WriteOp := State → Nat → Nat → Val → State × Reply

/-- A session's request has arrived: its idle time starts again (R417). -/
def State.touch (s : State) (x : Session) : State := s.setSession { x with lastSent := s.now }

/-- A session's write, through the checks of R420 and then the owning chapter's operation; a refused request
changes nothing but what the refusal records (R411, R420). -/
def State.tryWrite (s : State) (ss key : Nat) (v : Val) (op : WriteOp) : State × Reply :=
  match (entryAt key).filter fun _ => s.serves key with
  | none =>
    match s.session? ss with
    | none => (s, .no (lg 0x01))
    | some x =>
      let c := s.unassigned x key
      ((s.touch x).noteRefusal ss key c, .no c)
  | some e =>
    match s.session? ss with
    | none => (s, .no (lg 0x07))
    | some x =>
      if x.pending then (s, .no (lg 0x07))
      else
        let s1 := s.touch x
        match s1.checkWrite x key e v with
        | some c => (s1.noteRefusal ss key c, .no c)
        | none =>
          let r := op s1 ss (x.inst key) v
          match r.2.code with
          | some c => (r.1.noteRefusal ss key c, r.2)
          | none => r

/-- A session's write or action with its response (R409). -/
def State.ledgerWrite (s : State) (ss key : Nat) (v : Val) (op : WriteOp) : State :=
  let r := s.tryWrite ss key v op
  r.1.reply ss r.2

/-! ### The plain writes (R97, R98, R408) -/

/-- A write of an RW entry acts when it is acknowledged (R97). -/
def writeActive (key : Nat) : WriteOp := fun s _ inst v => (s.setActive key inst v, .ok)

/-- A write of an RWS entry goes to the shadow (R97, R98). -/
def writeShadow (key : Nat) : WriteOp := fun s _ inst v => (s.setShadow key inst v, .ok)

/-- A write of a per-session field goes to the session's own copy (R408). -/
def writeField (key : Nat) : WriteOp := fun s ss _ v =>
  match s.session? ss with
  | some x => (s.setSession (x.setFld key v.n), .ok)
  | none => (s, .ok)

/-- The plain effect of a write of an entry, by its access kind and qualifiers (R97, R408). -/
def writePlain (key : Nat) : WriteOp := fun s ss inst v =>
  match entryAt key with
  | some e =>
    if e.perSession then writeField key s ss inst v
    else if e.acc == .rws then writeShadow key s ss inst v
    else writeActive key s ss inst v
  | none => (s, .ok)

end Sys2Proof.Machine
end

