-- ==== Sys2Proof/Machine/Time.lean ====
section
/-! DEFINITION. Time and Synchronisation (R268-R290): the transform, steps and eras, the time states and sources,
the PTP ordinary clock and transparent clock, output phase after a step, and the wake of the time domain. -/

namespace Sys2Proof.Machine

set_option Elab.async false

/-! ### Wall frames (R101) -/

/-- The model counts wall frames from 2^48 of them before the epoch, so that a wall time before the epoch is no special
case: the 48 bits of R101 are the low ones of this count. Output frames are counted from the same instant. -/
def frameBias : Nat := 2 ^ 48

/-- The wall frame of a wall time: floor((t - L:2800.01) ÷ P) (R101). -/
def State.wfAt (s : State) (t : Nat) : Nat :=
  (((t : Int) - s.reg 0x2800_01) * s.reg 0x2800_03 / (s.reg 0x2800_02 : Int) + frameBias).toNat

/-- The wall frame now (R101). -/
def State.wf (s : State) : Nat := s.wfAt s.wall

/-- A frame number as the ledger, the tickets and the events hold it: 48 bits (R101). -/
def shownFrame (n : Nat) : Nat := n % 2 ^ 48

/-- The wall frame that a 48-bit number names: one in the upper half lies before the epoch (R101). -/
def namedFrame (n : Nat) : Nat := if n < 2 ^ 47 then n + frameBias else n

/-- An output's frame divisor (R101). -/
def State.divisor (s : State) (o : Nat) : Nat := s.reg 0x3400_0A o

/-- Parts of a nanosecond in which an output's frame period is a whole number: L:2800.03 × d (R101). -/
def State.unitsPerNs (s : State) (o : Nat) : Nat := s.reg 0x2800_03 * s.divisor o

/-- An output's frame period P ÷ d in those units, which is L:2800.02 (R101). -/
def State.periodUnits (s : State) : Nat := s.reg 0x2800_02

/-! ### Output phase (R284-R286) -/

/-- The integer nearest to `a ÷ b`. -/
def nearestDiv (a : Int) (b : Nat) : Int := (2 * a + b) / (2 * b : Int)

/-- The least integer not below `a ÷ b`. -/
def ceilDivI (a : Int) (b : Nat) : Int := -((-a) / (b : Int))

/-- An output's phase error in ns, rounded toward the nearest integer (R284, L:3400.1A). -/
def State.phaseNs (s : State) (o : Nat) : Int := nearestDiv (s.output o).phase (s.unitsPerNs o)

/-- The frame number moved by a signed count. -/
def shiftOf (n : Nat) (k : Int) : Nat := ((n : Int) + k).toNat

/-- One frame's part of a fine correction: up to half of htotal pixel periods in all, until |e| ≤ 50 ns (R285). -/
def State.correctPhase (s : State) (o : Nat) : State :=
  let out := s.output o
  let u := s.unitsPerNs o
  if out.phase.natAbs ≤ 50 * u then s
  else
    let most := s.periodUnits / (2 * s.vtotal o) - out.cut
    let cut : Nat := min out.phase.natAbs most
    s.setOutput o { out with
      phase := if 0 ≤ out.phase then out.phase - cut else out.phase + cut, cut := out.cut + cut }

/-- A step of `ns` opens or changes an output's phase error; below L:4808.04 it is corrected frame by frame, above
it the front porch is lengthened to the next formula frame start. The frame in progress keeps its number, and its start
moves by the step (R284-R286). -/
def State.rephase (s : State) (o : Nat) (ns : Int) : State :=
  let out := s.output o
  if !out.running then s
  else
    let u := s.unitsPerNs o
    let per := s.periodUnits
    let total := out.phase + ns * u
    let k := nearestDiv total per
    let e := total - k * per
    let cur := out.curPhase + ns * u
    if e.natAbs ≤ s.reg 0x4808_04 * 1000 * u then
      let s0 := s.setOutput o { out with phase := e, nextOf := shiftOf out.nextOf k, curPhase := cur }
      let s1 := if out.started then s0.correctPhase o else s0
      if 50 * u < e.natAbs && out.phase.natAbs ≤ 50 * u then
        s1.record 0x0A5 (some (tm 0x09)) o (nearestDiv e u)
      else s1
    else
      (s.setOutput o
        { out with phase := 0, nextOf := shiftOf out.nextOf (ceilDivI total per), curPhase := cur }).record
        0x0A5 (some (tm 0x0A)) o (nearestDiv e u)

/-! ### The transform (R269-R271) -/

/-- Nanoseconds over which a holdover rate is the mean of the rates in force (R273). -/
def holdSpan : Nat := 16 * second

/-- Note a rate in force from now, keeping those that were in force within the last 16 s. -/
def noteRate (now : Nat) (r : Nat) (rates : List (Nat × Nat)) : List (Nat × Nat) :=
  (now, r) :: (rates.takeWhile (fun p => decide (now < p.1 + holdSpan)) ++
    (rates.dropWhile fun p => decide (now < p.1 + holdSpan)).take 1)

/-- Replace the rate in one counter cycle; the offset takes up the difference, so wall time moves by at most 1 ns
(R270). `v` is the 40-bit pattern. -/
def State.changeRate (s : State) (v : Nat) : State :=
  let c := s.time.counter
  let o := s.offset + rateAdj c s.rate - rateAdj c (toSigned 40 v)
  let s1 := (s.setReg 0x4800_02 0 v).setRegI 0x4800_03 0 64 o
  { s1 with time := { s1.time with rates := noteRate s1.now v s1.time.rates } }

/-- Add a step to the offset: L:4800.08, L:4800.09 and E-0x0A1; over 1 ms it advances the era, whose sweep starts,
and becomes the era step; every running output's phase is opened by it (R55, R271, R284). -/
def State.stepTime (s : State) (size : Int) : State :=
  let s1 := ((s.setRegI 0x4800_03 0 64 (s.offset + size)).setRegI 0x4800_08 0 64 size).bump 0x4800_09
  let s2 := s1.record 0x0A1 (some (tm 0x04)) 0 size
  let s3 :=
    if 1000000 < size.natAbs then
      let era := (s2.reg 0x4800_07 + 1) % 16
      let s' := (s2.setReg 0x4800_07 0 era).setRegI 0x4800_0C 0 64 size
      { s' with time := { s'.time with sweeps := s'.time.sweeps ++ [era] } }
    else s2
  (List.range 32).foldl (fun t o => t.rephase o size) s3

/-- The era that a finished sweep flags: two behind the era it was started for (R55). -/
def sweptEra (era : Nat) : Nat := (era + 14) % 16

/-- The sweep of an era: the era-expired flag on every Ingot that is not Free and two eras behind (R55). -/
def State.sweepEra (s : State) (era : Nat) : State :=
  { s with ingots := s.ingots.map fun p =>
      if p.2.st != .free && p.2.era == sweptEra era then (p.1, { p.2 with expired := true }) else p }

/-! ### Time states (R272, R273, R283) -/

/-- Milliseconds of holdover elapsed, L:4800.0A, at most 10,000 (R272, R273). -/
def State.holdoverElapsed (s : State) : Nat :=
  match s.time.holdoverSince with
  | some t => min 10000 (((s.now : Int) - t) / (milli : Int)).toNat
  | none => 0

/-- The sender's state in the last Sync of the Swage port in use (R283). -/
def State.senderState (s : State) : Nat :=
  if s.reg 0x4808_01 = 2 then (s.port (s.reg 0x4808_06)).senderState.getD 0 else 0

/-- The weighted sum of the rates in force from `from'` to `dest`, newest first (R273). -/
def weighRates : List (Nat × Nat) → Nat → Nat → Int
  | [], _, _ => 0
  | (t, r) :: rest, from', dest =>
    let t0 := max t from'
    if t0 < dest then toSigned 40 r * (dest - t0 : Nat) + weighRates rest from' t0
    else weighRates rest from' dest

/-- The time-weighted mean of the rates in force over the preceding 16 s; which of the two nearest integers stands
where it is none is a free value (R273; log entry 12). -/
def State.meanRate (s : State) : Nat × State :=
  let from' := s.now - holdSpan
  let span := s.now - from'
  if span = 0 then (s.reg 0x4800_02, s)
  else
    let sum := weighRates s.time.rates from' s.now
    let lo := sum / (span : Int)
    if sum % (span : Int) = 0 then (ofSigned 40 lo, s)
    else
      let d := s.draw
      (ofSigned 40 (lo + (d.1 % 2 : Nat)), d.2)

/-- The code of a change to a time state: the one given where the table of R272 has it for that state, else the state's
own. -/
def timeCode (eff : Nat) (c : Code) : Code :=
  if eff = 0 then tm 0x01
  else if eff = 1 then (if c = tm 0x08 then c else tm 0x02)
  else if c = tm 0x08 || c = tm 0x0D then c
  else tm 0x03

/-- The holdover that runs: the device's own from its entry, else one that the sender's report keeps (R272, R283). -/
def State.keepHoldover (s : State) (eff : Nat) (entered : Bool) : State :=
  let since :=
    if s.time.own = 1 then (if entered then some (s.now : Int) else s.time.holdoverSince)
    else if eff = 1 then some (s.time.holdoverSince.getD s.now)
    else none
  { s with time := { s.time with holdoverSince := since } }

/-- The device's state is the worse of its own and the sender's; a change is recorded with its code, entry to
holdover sets the mean rate, and the first lock makes time ready (R272, R273, R283, R398). `entered` says that the device's
own holdover starts now. -/
def State.settleTime (s0 : State) (c : Code) (entered : Bool := false) : State :=
  let eff := max s0.time.own s0.senderState
  let s := s0.keepHoldover eff entered
  let old := s.timeState
  if eff = old then s
  else
    let s1 := s.setReg 0x4800_06 0 eff
    let s2 :=
      if eff = 1 then
        let m := s1.meanRate
        m.2.changeRate m.1
      else s1
    let s3 := s2.record 0x0A0 (some (timeCode eff c)) 0 eff
    if eff = 0 then s3.setReady 6 else s3

/-- Change the device's own state (R272). -/
def State.setOwn (s : State) (own : Nat) (c : Code) : State :=
  let t := s.time
  let since := if own = 0 then (if t.own = 0 then t.lockedSince else some s.now) else none
  let base := if own = 0 && t.own != 0 then s.reg 0x4800_02 else t.rateAtLock
  let t1 := { t with own := own, lockedSince := since, good := 0, bad := 0, rateAtLock := base }
  { s with time := t1 }.settleTime c (own == 1 && t.own != 1)

/-- The own state becomes locked, if it is not (R272). -/
def State.lockTime (s : State) : State := if s.time.own = 0 then s else s.setOwn 0 (tm 0x01)

/-- A loss while locked: holdover after 16 s of lock, else unlocked; `missed` says a host limit was missed (R272). -/
def State.loseTime (s : State) (missed : Bool := false) : State :=
  if s.time.own != 0 then s
  else
    let long := match s.time.lockedSince with
      | some t => decide (t + 16 * second ≤ s.now)
      | none => false
    if long then s.setOwn 1 (if missed then tm 0x08 else tm 0x02)
    else s.setOwn 2 (if missed then tm 0x08 else tm 0x0D)

/-! ### The Swage time port (R275) -/

/-- Whether a Swage port is in service, Banked included (R230, R246). -/
def State.portInService (s : State) (p : Nat) : Bool := [2, 4].contains (s.reg 0x4400_09 p)

/-- The lowest-numbered port with time role 2 that is in service, trusted and not itself lost; 0xFF when none is
(R262, R275). -/
def State.bestTimePort (s : State) : Nat :=
  ((List.range 24).find? fun p =>
    s.reg 0x4400_06 p == 2 && decide (4 ≤ s.reg 0x4400_05 p) && s.portInService p && !(s.port p).timeLost).getD 0xFF

/-- The exchanges of a Swage port that time is now taken from count from here (R275). -/
def State.expectExchange (s : State) (p : Nat) : State :=
  if p < 24 then s.setPort p { s.port p with lastExch := some s.now } else s

/-- Under source 2, follow the port to take time from: a change records E-0x0A2, and none left is a loss (R275). -/
def State.followTimePort (s : State) : State :=
  if s.reg 0x4808_01 != 2 then s
  else
    let p := s.bestTimePort
    if p = s.reg 0x4808_06 then s
    else
      let s1 := ((s.setReg 0x4808_06 0 p).expectExchange p).record 0x0A2 (some (tm 0x05)) 2 p
      if p = 0xFF then s1.loseTime else s1

/-! ### Host writes (R276) -/

/-- Whether the host may write rate, offset and step under the source in force (R276). -/
def State.hostSteers (s : State) : Bool := s.reg 0x4808_01 == 0 || s.reg 0x4808_01 == 3

/-- A write of L:4800.02 (R270, R276). -/
def rateOp : WriteOp := fun s _ _ v =>
  if s.hostSteers then (s.changeRate v.n, .ok) else (s, .no (tm 0x0B))

/-- A write of L:4800.03: a step by the difference (R271, R276). -/
def offsetOp : WriteOp := fun s _ _ v =>
  if s.hostSteers then (s.stepTime (toSigned 64 v.n - s.offset), .ok) else (s, .no (tm 0x0B))

/-- A write of L:4800.04 (R271, R276). -/
def stepOp : WriteOp := fun s _ _ v =>
  if s.hostSteers then (s.stepTime (toSigned 64 v.n), .ok) else (s, .no (tm 0x0B))

/-- A write of L:4800.0B: the host's judgement of the time state (R276). -/
def hostTimeStateOp : WriteOp := fun s _ _ v =>
  if s.reg 0x4808_01 != 3 then (s, .no (tm 0x0B))
  else
    let s1 : State := { s with time := { s.time with hostAt := some s.now } }
    if v.n = 0 then (s1.lockTime, .ok)
    else if s1.time.own = 0 then (s1.loseTime, .ok)
    else if s1.time.own = 1 && v.n = 2 then (s1.setOwn 2 (tm 0x03), .ok)
    else (s1, .ok)

/-- What a change of source does to the time state: free run locks, a locked device loses its reference, and one in
holdover or unlocked stays so, whatever of its state was the sender's (R276). -/
def State.leaveSource (s : State) (was source : Nat) : State :=
  if source = 0 then s.setOwn 0 (tm 0x01)
  else if was = 0 then s.loseTime
  else if was = s.time.own then s.settleTime (tm 0x03)
  else { s with time := { s.time with own := was, lockedSince := none } }.settleTime (tm 0x03)

/-- A write of L:4808.01: the new source acts at once (R276). -/
def timeSourceOp : WriteOp := fun s _ _ v =>
  if v.n = s.reg 0x4808_01 then (s, .ok)
  else
    let s1 := s.setReg 0x4808_01 0 v.n
    let p := if v.n = 2 then s1.bestTimePort else 0xFF
    let s2 := ((s1.setReg 0x4808_06 0 p).setReg 0x4810_0A 0 0xFF).setReg 0x4810_0B 0 0
    let s3 : State := { s2 with time := { s2.time with
      good := 0, bad := 0, samples := [], hostAt := some s2.now, syncPending := none, delaySent := none
      masters := [], lastAnnounce := some s2.now, lastSync := some s2.now } }
    let s4 := (s3.expectExchange p).record 0x0A2 (some (tm 0x05)) v.n p
    (s4.leaveSource s.timeState v.n, .ok)

/-! ### The servo (R272-R274) -/

/-- The largest rate change of ±100 ppm from the rate at the last lock, in units of 2^-48 (R274). -/
def steerSpan : Int := 28147497671

/-- A rate steered by the firmware, within ±100 ppm of the rate at the last lock and the rate's own range (R269,
R274). -/
def State.steered (s : State) (r : Int) : Nat :=
  let base := toSigned 40 s.time.rateAtLock
  let lo := max (base - steerSpan) (-(2 ^ 39 : Int))
  let hi := min (base + steerSpan) ((2 ^ 39 : Int) - 1)
  ofSigned 40 (max lo (min hi r))

/-- The servo acts on one sample: it steps, steers, or does nothing in holdover, and counts toward lock and loss
(R272-R274). `steer` is the rate that the firmware's own law chooses. -/
def State.servo (s : State) (sample steer : Int) : State :=
  let s1 := s.setRegI 0x4808_05 0 64 sample
  let s2 :=
    if s1.timeState = 1 then s1
    else if s1.timeState = 2 && decide (s1.reg 0x4808_02 < sample.natAbs) then s1.stepTime (-sample)
    else s1.changeRate (s1.steered steer)
  let thr := s2.reg 0x4808_03
  let good := if sample.natAbs ≤ thr then s2.time.good + 1 else 0
  let bad := if 4 * thr < sample.natAbs then s2.time.bad + 1 else 0
  let s3 : State := { s2 with time := { s2.time with good := good, bad := bad } }
  if s3.time.own != 0 && 16 ≤ good then s3.lockTime
  else if s3.time.own = 0 && 4 ≤ bad then s3.loseTime
  else s3

/-! ### IEEE 1588 (R277, R278) -/

/-- The device's clock identity, from its MAC address as IEEE 1588 maps an EUI-48 (PRESUMED, log entry 13). -/
def clockIdentity : Nat :=
  let m := Config.macAddress.toNat
  (m / 2 ^ 24) * 2 ^ 40 + 0xFFFE * 2 ^ 24 + m % 2 ^ 24

/-- The device's own data for the best master selection (R278). -/
def State.ownMaster (s : State) : Master :=
  { port := 0xFE, id := clockIdentity, gm := clockIdentity, p1 := s.reg 0x4810_07, p2 := s.reg 0x4810_08
    cls := 248, acc := 0xFE, var := Config.ptpVariance, steps := 0, heard := 0 }

/-- The order in which IEEE 1588's best master selection compares two masters (PRESUMED, log entry 13). -/
def Master.rank (m : Master) : List Nat := [m.p1, m.cls, m.acc, m.var, m.p2, m.gm, m.steps, m.id, m.port]

/-- Whether one list comes before another of the same length. -/
def listLt : List Nat → List Nat → Bool
  | a :: as, b :: bs => a < b || (a == b && listLt as bs)
  | _, _ => false

/-- The best of a list of masters. -/
def bestMaster : List Master → Option Master
  | [] => none
  | m :: ms =>
    match bestMaster ms with
    | none => some m
    | some b => if listLt b.rank m.rank then some b else some m

/-- Select the master: among those heard and, when capable, the device itself; as grandmaster the device is locked
as if on free run (R277, R278). -/
def State.selectMaster (s : State) : State :=
  if s.reg 0x4808_01 != 1 then s
  else
    let own := if s.flag 0x4810_06 then [s.ownMaster] else []
    match bestMaster (s.time.masters ++ own) with
    | none => (s.setReg 0x4810_0A 0 0xFF).setReg 0x4810_0B 0 0
    | some m =>
      let fresh := s.reg 0x4810_0A != m.port || s.reg 0x4810_0B != m.id
      let s0 : State := if fresh then { s with time := { s.time with lastSync := some s.now } } else s
      let s1 := (s0.setReg 0x4810_0A 0 m.port).setReg 0x4810_0B 0 m.id
      if m.port = 0xFE then s1.lockTime else s1

/-- The subject of PTP events on a port: E0 0x80, E1 0x81 (R440). -/
def ptpSubject (port : Nat) : Nat := 0x80 + port

/-- A PTP message that the device does not support is discarded and counted (R277). -/
def State.ptpDiscard (s : State) (port : Nat) : State :=
  (s.bump 0x4810_0E).recordDevice (60 * second) 0x0A4 (some (tm 0x07)) (ptpSubject port) 0

/-- Run a PTP message on its port: ignored where PTP is not enabled or the link is down, discarded where it is malformed or
of another domain or transport (R277). -/
def State.onPtp (s : State) (port : Nat) (head : PtpHead) (f : State → State) : State :=
  if !bitAt (s.reg 0x4810_01) port || s.reg 0x6820_03 port = 0 then s
  else if !head.formed || head.domain != s.reg 0x4810_02 || head.transport != s.reg 0x4810_04 then s.ptpDiscard port
  else f s

/-- The ingress latency constant of an Ethernet port at the speed in force (R279; DEDUCED order, log entry 14). -/
def State.ingress (s : State) (port : Nat) : Nat := s.reg (0x4818_00 + 6 * port + s.reg 0x6820_03 port)

/-- The egress latency constant of an Ethernet port at the speed in force (R279; DEDUCED order, log entry 14). -/
def State.egress (s : State) (port : Nat) : Nat := s.reg (0x4818_03 + 6 * port + s.reg 0x6820_03 port)

/-- A sample goes to the servo. -/
def State.addSample (s : State) (x : Int) : State :=
  { s with time := { s.time with samples := s.time.samples ++ [x] } }

/-- Whether a Sync comes from the selected master, under source 1. -/
def State.fromMaster (s : State) (port source : Nat) : Bool :=
  s.reg 0x4808_01 == 1 && s.reg 0x4810_0A == port && s.reg 0x4810_0B == source

/-- A port measures its link in P2P: Pdelay_Req, whose time the response is matched with (R277, R281). -/
def State.measureLink (s : State) (port seq : Nat) : State :=
  let t : Int := (s.wall : Int) + s.egress port
  { s with time := { s.time with pdelaySent := Tbl.put s.time.pdelaySent port (seq, t) } }.send
    (.ptp port 2 seq (ofSigned 64 t))

/-- A Sync with its origin time known: in E2E the device sends Delay_Req; in P2P the measured link delay completes
the exchange, and the link is measured again (R277). -/
def State.syncComplete (s : State) (port seq : Nat) (t1 t2 : Int) : State :=
  let s0 : State := { s with time := { s.time with lastSync := some s.now, ptpSeq := s.time.ptpSeq + 1 } }
  if s0.reg 0x4810_03 = 1 then
    let t3 : Int := (s0.wall : Int) + s0.egress port
    { s0 with time := { s0.time with delaySent := some (seq, t1, t2, t3) } }.send
      (.ptp port 1 seq (ofSigned 64 t3))
  else
    let d := Tbl.get 0 s0.time.peerDelay port
    ((s0.setRegI 0x4810_0C 0 64 d).addSample (t2 - t1 - d)).measureLink port seq

/-! ### The transparent clock (R280, R281) -/

/-- A frame with a signed number of ns added to the 64-bit correctionField of the PTP message at `off`, in units of
2^-16 ns; over UDP the checksum becomes 0 (R281). -/
def addResidence (frame : Bytes) (udp : Bool) (ns : Int) : Bytes :=
  let off := if udp then 42 else 14
  let c := toSigned 64 (field frame (off + 8) 8) + ns * 65536
  let f1 := frame.take (off + 8) ++ beBytes 8 (ofSigned 64 c) ++ frame.drop (off + 16)
  if udp then f1.take 40 ++ [0, 0] ++ f1.drop 42 else f1

/-- The bytes of a frame check sequence, least significant first. -/
def fcsBytes (n : Nat) : Bytes := (beBytes 4 n).reverse

/-- A frame with its last four bytes, the frame check sequence, computed afresh (R281). -/
def reseal (frame : Bytes) : Bytes :=
  let body := frame.take (frame.length - 4)
  body ++ fcsBytes (Nat.xor (crc32Run 0xFFFFFFFF body) 0xFFFFFFFF)

/-- How long a frame takes on a port, in ns: its bytes with preamble and gap, at the speed in force (R280; PRESUMED, log
entry 136). -/
def State.frameTime (s : State) (port len : Nat) : Nat :=
  match s.reg 0x6820_03 port with
  | 2 => ceilDiv' ((len + 20) * 32) 10
  | 3 => ceilDiv' ((len + 20) * 8) 10
  | _ => (len + 20) * 8

/-- A forwarded frame starts on a port: an event message has its residence added, and in P2P a Sync the delay of the link it
came by (R280, R281). -/
def State.startEther (s : State) (out : Nat) (f : EthFrame) : State :=
  match f.event with
  | some k =>
    if k < 4 then
      let res : Int := (s.wall : Int) + s.egress out - f.rx
      let add := if k = 0 && s.reg 0x4810_03 = 2 then res + Tbl.get 0 s.time.peerDelay (1 - out) else res
      (s.setReg 0x4818_10 0 (max (s.reg 0x4818_10) res.toNat)).send
        (.ether out (reseal (addResidence f.bytes f.udp add)) add)
    else s.send (.ether out f.bytes 0)
  | none => s.send (.ether out f.bytes 0)

/-- The bridge's next frame starts on a port that is free: a PTP frame ahead of any other (R280). -/
def State.drainEther (s : State) (out : Nat) : State :=
  let q := Tbl.get {} s.time.ether out
  if s.now < q.busyUntil then s
  else
    let next := match q.queue.find? fun f => f.event.isSome with
      | some f => some f
      | none => q.queue.head?
    match next with
    | none => s
    | some f =>
      let q1 : EthQueue := { queue := q.queue.erase f, busyUntil := s.now + s.frameTime out f.bytes.length }
      { s with time := { s.time with ether := Tbl.put s.time.ether out q1 } }.startEther out f

/-! ### The commands -/

/-- RATE_WRITE (R270). -/
def execRateWrite (ss v : Nat) (s : State) : Out :=
  whenManaged s fun s => s.ledgerWrite ss 0x4800_02 (.num v) rateOp

/-- OFFSET_WRITE (R271). -/
def execOffsetWrite (ss v : Nat) (s : State) : Out :=
  whenManaged s fun s => s.ledgerWrite ss 0x4800_03 (.num v) offsetOp

/-- STEP_WRITE (R271). -/
def execStepWrite (ss v : Nat) (s : State) : Out :=
  whenManaged s fun s => s.ledgerWrite ss 0x4800_04 (.num v) stepOp

/-- ERA_SWEEP_DONE (R55): the earliest sweep running has flagged every Ingot two eras behind. -/
def execEraSweepDone (s : State) : Out :=
  whenLive s fun s =>
    match s.time.sweeps with
    | [] => s
    | e :: es => { s.sweepEra e with time := { s.time with sweeps := es } }

/-- HOST_TIME_STATE (R276). -/
def execHostTimeState (ss v : Nat) (s : State) : Out :=
  whenManaged s fun s => s.ledgerWrite ss 0x4800_0B (.num v) hostTimeStateOp

/-- TIME_SOURCE_WRITE (R276). -/
def execTimeSourceWrite (ss v : Nat) (s : State) : Out :=
  whenManaged s fun s => s.ledgerWrite ss 0x4808_01 (.num v) timeSourceOp

/-- SERVO_SAMPLE (R274): the oldest completed exchange's offset, with the rate the firmware's law chooses. -/
def execServoSample (steer : Int) (s : State) : Out :=
  whenManaged s fun s =>
    match s.time.samples with
    | [] => s
    | x :: xs => { s with time := { s.time with samples := xs } }.servo x steer

/-- HOLDOVER_EXPIRY (R272): 10 s in holdover. -/
def execHoldoverExpiry (s : State) : Out :=
  whenLive s fun s =>
    match s.time.holdoverSince with
    | some t =>
      if s.time.own = 1 && decide (t + 10 * (second : Int) ≤ s.now) then
        (s.record 0x043 none 0 (shownFrame s.wf : Nat)).setOwn 2 (tm 0x03)
      else s
    | none => s

/-- The interval of a master's Announce and Sync messages, taken to be those of R278, in ns (DESIGN CHOICE, log entry
135). -/
def announceInterval : Nat := second
/-- The interval of a master's Sync messages. -/
def syncInterval : Nat := second / 8

/-- When the selected master's last Announce was heard; with none selected, when any last was, or listening began. -/
def State.announceHeard (s : State) : Nat :=
  match s.time.masters.find? fun m => m.id == s.reg 0x4810_0B && m.port == s.reg 0x4810_0A with
  | some m => m.heard
  | none => s.time.lastAnnounce.getD 0

/-- ANNOUNCE_TIMEOUT (R275, R278): L:4810.05 Announce intervals have passed without one of the selected master, or with none
selected without any. -/
def execAnnounceTimeout (s : State) : Out :=
  whenManaged s fun s =>
    if s.reg 0x4808_01 != 1 || s.now < s.announceHeard + s.reg 0x4810_05 * announceInterval then s
    else if s.reg 0x4810_0A < 2 then
      let id := s.reg 0x4810_0B
      let s1 : State := { s with time := { s.time with masters := s.time.masters.filter fun m => m.id != id } }
      s1.loseTime.selectMaster
    else if s.reg 0x4810_0A = 0xFF then s.selectMaster
    else s

/-- SYNC_TIMEOUT (R275): no Sync completed for three intervals. Under source 2 another port takes over in the same
instant, without a change of state. -/
def execSyncTimeout (s : State) : Out :=
  whenManaged s fun s =>
    if s.reg 0x4808_01 = 1 then
      if s.reg 0x4810_0A < 2 && decide (s.time.lastSync.getD 0 + 3 * syncInterval ≤ s.now) then s.loseTime else s
    else if s.reg 0x4808_01 = 2 && s.reg 0x4808_06 < 24 then
      let p := s.reg 0x4808_06
      let last := (s.port p).lastExch.getD 0
      if last + 3 * s.reg 0x4400_08 p * 1000 ≤ s.now then
        let s1 := s.setPort p { s.port p with timeLost := true }
        if s1.bestTimePort = 0xFF then s.loseTime else s1.followTimePort
      else s
    else s

/-- HOST_STATE_TIMEOUT (R276): L:4800.0B unwritten for 2 s under source 3. -/
def execHostStateTimeout (s : State) : Out :=
  whenLive s fun s =>
    if s.reg 0x4808_01 = 3 && decide (s.time.hostAt.getD 0 + 2 * second ≤ s.now) then s.loseTime true else s

/-- PTP_SYNC (R277): receive time is the MAC timestamp less the port's ingress constant (R279). -/
def execPtpSync (port : Fin 2) (head : PtpHead) (source seq : Nat) (twoStep : Bool) (origin rx : Nat)
    (correction : Int) (s : State) : Out :=
  whenManaged s fun s => s.onPtp port head fun s =>
    if !s.fromMaster port source then s
    else
      let t2 : Int := (rx : Int) - s.ingress port
      if twoStep then
        { s with time := { s.time with syncPending := some (source, seq, port, t2 - correction) } }
      else s.syncComplete port seq ((origin : Int) + correction) t2

/-- PTP_FOLLOW_UP (R277): the origin time of the two-step Sync of the same sequence. -/
def execPtpFollowUp (port : Fin 2) (head : PtpHead) (source seq origin : Nat) (correction : Int) (s : State) : Out :=
  whenManaged s fun s => s.onPtp port head fun s =>
    match s.time.syncPending with
    | some (src, q, p, t2) =>
      if src = source && q = seq && p = port.val && s.fromMaster port source then
        { s with time := { s.time with syncPending := none } }.syncComplete port seq
          ((origin : Int) + correction) t2
      else s
    | none => s

/-- PTP_ANNOUNCE (R278). -/
def execPtpAnnounce (port : Fin 2) (head : PtpHead) (source grandmaster priority1 priority2 cls accuracy variance
    steps : Nat) (s : State) : Out :=
  whenManaged s fun s => s.onPtp port head fun s =>
    let m : Master := { port := port, id := source, gm := grandmaster, p1 := priority1, p2 := priority2
                        cls := cls, acc := accuracy, var := variance, steps := steps, heard := s.now }
    { s with time := { s.time with
        lastAnnounce := some s.now
        masters := m :: s.time.masters.filter fun x => !(x.id == source && x.port == port.val) } }.selectMaster

/-- PTP_DELAY_REQ (R277): answered while the device is master, in E2E. -/
def execPtpDelayReq (port : Fin 2) (head : PtpHead) (source seq rx : Nat) (s : State) : Out :=
  whenManaged s fun s => s.onPtp port head fun s =>
    if s.reg 0x4808_01 = 1 && s.reg 0x4810_0A = 0xFE && s.reg 0x4810_03 = 1 then
      s.send (.ptp port 9 (seq + 65536 * source) (ofSigned 64 ((rx : Int) - s.ingress port)))
    else s

/-- PTP_DELAY_RESP (R277): completes an E2E exchange. -/
def execPtpDelayResp (port : Fin 2) (head : PtpHead) (source requester seq rx : Nat) (correction : Int)
    (s : State) : Out :=
  whenManaged s fun s => s.onPtp port head fun s =>
    match s.time.delaySent with
    | some (q, t1, t2, t3) =>
      if q = seq && requester = clockIdentity && s.fromMaster port source then
        let t4 : Int := (rx : Int) - correction
        let delay := Int.tdiv ((t4 - t1) - (t3 - t2)) 2
        ({ s with time := { s.time with delaySent := none } }.setRegI 0x4810_0C 0 64 delay).addSample
          ((t2 - t1) - delay)
      else s
    | none => s

/-- PTP_PDELAY_REQ (R277): a one-step Pdelay_Resp whose time is the turnaround. -/
def execPtpPdelayReq (port : Fin 2) (head : PtpHead) (source seq rx : Nat) (s : State) : Out :=
  whenManaged s fun s => s.onPtp port head fun s =>
    if s.reg 0x4810_03 = 2 then
      let t2 : Int := (rx : Int) - s.ingress port
      let t3 : Int := (s.wall : Int) + s.egress port
      s.send (.ptp port 3 (seq + 65536 * source) (ofSigned 64 (t3 - t2)))
    else s

/-- PTP_PDELAY_RESP (R277): the link delay in P2P mode. -/
def execPtpPdelayResp (port : Fin 2) (head : PtpHead) (source seq turnaround rx : Nat) (s : State) : Out :=
  whenManaged s fun s => s.onPtp port head fun s =>
    match Tbl.find s.time.pdelaySent port with
    | some (q, t1) =>
      if q = seq && s.reg 0x4810_03 = 2 then
        let d := Int.tdiv (((rx : Int) - s.ingress port) - t1 - turnaround) 2
        let s1 : State := { s with time := { s.time with
          pdelaySent := Tbl.erase s.time.pdelaySent port, peerDelay := Tbl.put s.time.peerDelay port d } }
        if s1.fromMaster port source then s1.setRegI 0x4810_0C 0 64 d else s1
      else s
    | none => s

/-- What an Announce of the device tells: its priorities, class, accuracy, variance and identity; other messages tell no
more than their time (R278). -/
def State.announceBody (s : State) (kind : Nat) : List Nat :=
  let m := s.ownMaster
  if kind = 11 then [m.p1, m.cls, m.acc, m.var, m.p2, m.gm, m.steps] else []

/-- Whether the device is selected as grandmaster (R278). -/
def State.isGrandmaster (s : State) : Bool := s.reg 0x4808_01 == 1 && s.reg 0x4810_0A == 0xFE

/-- Whether the next Sync, kind 0, or Announce is due: 8 and 1 per second (R278). -/
def State.ptpDue (s : State) (kind : Nat) : Bool :=
  match (if kind = 0 then s.time.sentSync else s.time.sentAnnounce) with
  | some t => decide (t + (if kind = 0 then second / 8 else second) ≤ s.now)
  | none => true

/-- Send a PTP message of the device as grandmaster on E0 and E1, once it is due (R278). -/
def State.ptpMasterSend (s : State) (kind : Nat) : State :=
  if s.isGrandmaster && s.ptpDue kind then
    let q := s.time.ptpSeq
    let s1 : State := { s with time := { s.time with
      ptpSeq := q + 1
      sentSync := if kind = 0 then some s.now else s.time.sentSync
      sentAnnounce := if kind = 0 then s.time.sentAnnounce else some s.now } }
    (List.range 2).foldl (fun t p =>
      if bitAt (t.reg 0x4810_01) p && t.reg 0x6820_03 p != 0 then
        t.send (.ptp p kind (q % 65536) (ofSigned 64 ((t.wall : Int) + t.egress p)) (t.announceBody kind))
      else t) s1
  else s

/-- PTP_MASTER_SYNC_SEND (R278). -/
def execPtpMasterSyncSend (s : State) : Out := whenManaged s fun s => s.ptpMasterSend 0

/-- PTP_MASTER_ANNOUNCE_SEND (R278). -/
def execPtpMasterAnnounceSend (s : State) : Out := whenManaged s fun s => s.ptpMasterSend 11

/-- ETHERNET_FRAME_FORWARD (R280, R281): the frame waits for the other port, and starts at once where that is free.
`ptpEvent` names a PTP frame's kind: 0 Sync, 1 Delay_Req, 2 Pdelay_Req, 3 Pdelay_Resp, any other a message that carries no
residence; `rx` is its MAC timestamp, and `fcs` the check sequence that ends it. In P2P a Sync has its link measured. -/
def execEthernetFrameForward (port : Fin 2) (dest : BitVec 48) (ptpEvent : Option Nat) (udp : Bool)
    (rx : Nat) (fcs : BitVec 32) (frame : Bytes) (s : State) : Out :=
  whenLive s fun s =>
    let out := 1 - port.val
    if !s.flag 0x4810_09 || dest == Config.macAddress || s.reg 0x6820_03 port = 0 || s.reg 0x6820_03 out = 0
    then s
    else
      let q := Tbl.get {} s.time.ether out
      let f : EthFrame := {
        event := ptpEvent, udp := udp, rx := (rx : Int) - s.ingress port
        bytes := frame ++ fcsBytes fcs.toNat }
      let s1 : State := { s with time := { s.time with
        ether := Tbl.put s.time.ether out { q with queue := q.queue ++ [f] } } }
      let s2 := if ptpEvent.isSome then s1.bump 0x4818_11 else s1
      let s3 := if ptpEvent = some 0 && s2.reg 0x4810_03 = 2 then s2.measureLink port (s2.time.ptpSeq % 65536) else s2
      s3.drainEther out

/-- The counter's gain over a sleep of Hearth ticks: ceil(ticks × 10^9 ÷ 32,768) (R288). -/
def sleepNs (ticks : Nat) : Nat := (ticks * 1000000000 + 32767) / 32768

/-- TIME_DOMAIN_WAKE (R288): the counter is re-seeded, and the device is unlocked unless on free run, or as if so as grandmaster
(R278). -/
def execTimeDomainWake (ticks : Nat) (s : State) : Out :=
  whenLive s fun s =>
    if s.time.running then s
    else
      let s1 : State := { s with time := { s.time with
        counter := s.time.counter + sleepNs ticks, running := true } }
      let s2 := s1.record 0x0A6 (some (tm 0x0C)) 0 ticks
      if s2.reg 0x4808_01 = 0 || s2.isGrandmaster then s2 else if s2.time.own = 2 then s2 else s2.setOwn 2 (tm 0x03)

end Sys2Proof.Machine
end

