-- ==== Sys2Proof/Machine/Push.lean ====
section
/-! DEFINITION. The Bellows channel and what the Active pushes over it (R345-R347). R345 says what each section holds and
gives no layout of it, so the bytes of a section are uninterpreted functions of that (log entry 50). -/

namespace Sys2Proof

set_option Elab.async false

/-- The bytes of section 1 for a plan and its slot (R345; log entry 50). -/
opaque Config.planImage (p : Option Machine.Plan) (slot : Nat) : Bytes

/-- The bytes of section 2 for the active values and the shadow (R345; log entry 50). -/
opaque Config.ledgerImage (regs : Tbl Nat) (blobs : Tbl Bytes) (shadow : Tbl Machine.Shadow) : Bytes

/-- The bytes of section 3 for the last Time frame's record and the view groups (R345; log entry 50). -/
opaque Config.viewImage (record : Bytes) (groups : Tbl Machine.Group) : Bytes

/-- The plan and slot that the bytes of section 1 hold (R345; log entry 50). -/
opaque Config.planOf : Bytes → Option (Machine.Plan × Nat)

/-- The active values and the shadow that the bytes of section 2 hold (R345; log entry 50). -/
opaque Config.ledgerOf : Bytes → Tbl Nat × Tbl Bytes × Tbl Machine.Shadow

/-- The view groups that the bytes of section 3 hold (R345; log entry 50). -/
opaque Config.viewsOf : Bytes → Tbl Machine.Group

end Sys2Proof

namespace Sys2Proof.Machine

set_option Elab.async false

/-- A frame of the Bellows channel: type, section, generation, offset and payload, with its CRC-32C (R346). -/
def bellowsFrame (type sec' gen off : Nat) (payload : Bytes) : Bytes :=
  let body := beBytes 1 type ++ beBytes 1 sec' ++ beBytes 4 gen ++ beBytes 4 off ++ beBytes 2 payload.length ++
    beBytes 2 0 ++ payload
  [0xB7, 0xE1] ++ body ++ beBytes 4 (crc32c body)

/-- The image generation that pair events name, L:5800.08. -/
def State.imageGen (s : State) : Nat := s.reg 0x5800_08

/-- Whether the device is the Active of a pair (R341). -/
def State.pairActive (s : State) : Bool := s.reg 0x5800_03 == 2 || s.reg 0x5800_03 == 3

/-- The most bytes of a sec's copy (R345). -/
def sectionSize (k : Nat) : Nat := if k = 3 then 8192 else 196608

/-- The payload of a Time frame, which section 3 records (R345, R347; log entry 55). -/
def State.timePayload (s : State) : Bytes :=
  beBytes 8 s.wall ++ beBytes 5 (s.reg 0x4800_02) ++ beBytes 1 s.timeState ++ beBytes 4 s.holdoverElapsed

/-- The bytes of a section as the Active pushes it now (R345). -/
def State.sectionBytes (s : State) (k : Nat) : Bytes :=
  (if k = 1 then Config.planImage s.plan s.planSlot
    else if k = 2 then Config.ledgerImage s.regs s.blobs s.shadow
    else Config.viewImage s.timePayload s.groups).take (sectionSize k)

/-- The section data frames of a byte string: at most 1,024 bytes each (R346). -/
def sectionFrames (k gen : Nat) : Nat → Nat → Bytes → List Bytes
  | 0, _, _ => []
  | fuel + 1, off, b =>
    if b.isEmpty then []
    else bellowsFrame 1 k gen off (b.take 1024) :: sectionFrames k gen fuel (off + 1024) (b.drop 1024)

/-- The content of an Ember header copy: magic, image generation, then of sections 1 to 3 the copy in force, generation,
length and CRC-32C (R345; DESIGN CHOICE of the widths, log entry 51). -/
def headerBytes (gen : Nat) (h : Tbl Head) : Bytes :=
  let body := beBytes 4 0x4451454D ++ beBytes 4 gen ++ [1, 2, 3].flatMap fun k =>
    let x := Tbl.get {} h k
    beBytes 1 x.copy ++ beBytes 4 x.generation ++ beBytes 4 x.len ++ beBytes 4 x.crc
  body ++ beBytes 4 (crc32c body)

/-- Push a list of sections, each into its copy not in force, and commit the header (R347). -/
def State.pushSections (s : State) (ks : List Nat) : State :=
  let gen := (s.imageGen + 1) % 2 ^ 32
  let s1 := ks.foldl (fun (t : State) k =>
    let b := t.sectionBytes k
    let old := Tbl.get ({} : Head) t.pair.header k
    let h : Head := { copy := 1 - old.copy, generation := gen, len := b.length, crc := crc32c b }
    let t1 := (sectionFrames k gen (b.length / 1024 + 1) 0 b).foldl (fun (u : State) f => u.send (.bellows f)) t
    { t1 with pair := { t1.pair with header := Tbl.put t1.pair.header k h } }) s
  let s2 := s1.send (.bellows (bellowsFrame 2 0 gen 0 (headerBytes gen s1.pair.header)))
  (s2.setReg 0x5800_08 0 gen).setReg 0x5800_09 0 s2.wall

/-- The push at an applied commit: sections 1 and 2, then 3 (R347). -/
def State.pushCommit (s : State) : State := if s.pairActive && s.managed then s.pushSections [1, 2, 3] else s

/-- The push of every section into one copy and then the other, when the partner is not ready (R347). -/
def State.pushAll (s : State) : State :=
  if s.pairActive && s.managed then (s.pushSections [1, 2, 3]).pushSections [1, 2, 3] else s

/-! ### Pair states (R341, R350) -/

/-- A change of the pair state: L:5800.03 and E-0x0D5, with the code that its transition shows (R341). -/
def State.setPairState (s : State) (st : Nat) (c : Option Code) : State :=
  let s1 := s.setReg 0x5800_03 0 st
  s1.record 0x0D5 c 0 s1.imageGen

/-- The Active's state: its partner ready, or not (R341). -/
def State.activeState (s : State) : Nat := if s.reg 0x5800_04 = 2 then 2 else 3

/-- A device is the Active from now on, with its partner ready or not; to one that is not ready it pushes every section (R341,
R347). -/
def State.enterActive (s : State) (c : Option Code) : State :=
  let s1 := s.setPairState s.activeState c
  if s1.reg 0x5800_04 = 1 then s1.pushAll else s1

/-- A takeover is complete once every running output of a list has sent a freshly composed frame: E-0x0D1 with PA-0x02
and L:5800.0B (R350). -/
def State.settleTakeover (s : State) (running : List Nat) : State :=
  if s.reg 0x5800_03 = 6 && s.pair.ready && running.all s.pair.sentFresh.contains then
    let us := (s.now - s.pair.declaredAt.getD s.now) / 1000
    let s1 := (s.setReg 0x5800_0B 0 us).record 0x0D1 (some (pa 0x02)) 0 us
    let s2 : State := { s1 with pair := { s1.pair with ready := false, sentFresh := [], declaredAt := none } }
    s2.enterActive (some (pa 0x02))
  else s

end Sys2Proof.Machine
end

