-- ==== Sys2Proof/Machine/Tickets.lean ====
section
/-! DEFINITION. Tickets and the fields of accepted commits (R105, R109, R117): how a field of a staged image becomes
active at its own apply point, and when a ticket is reported applied. -/

namespace Sys2Proof.Machine

set_option Elab.async false

/-! ### Tickets (R103, R117) -/

/-- The ticket of a number in the history, if it is still held: one of this device's own, or a coordinator's (R121). -/
def State.ticket? (s : State) (id : Nat) : Option Ticket :=
  (s.commits.tickets ++ s.commits.others).find? fun t => t.id == id

/-- Replace a ticket of the history. -/
def State.setTicket (s : State) (t : Ticket) : State :=
  let put := fun (us : List Ticket) => us.map fun u => if u.id == t.id then t else u
  { s with commits := { s.commits with tickets := put s.commits.tickets, others := put s.commits.others } }

/-- Tickets that the history keeps (R117). -/
def ticketsKept : Nat := 64

/-- Add a ticket to the history, the newest first (R117). -/
def State.addTicket (s : State) (t : Ticket) : State :=
  { s with commits := { s.commits with tickets := (t :: s.commits.tickets).take ticketsKept } }

/-- Note a coordinator's ticket, apart from the history of those this device issued (R117, R121; log entry 144). -/
def State.addOther (s : State) (t : Ticket) : State :=
  { s with commits := { s.commits with others := (t :: s.commits.others).take ticketsKept } }

/-- A part of a commit has taken effect at a wall frame (R117). -/
def State.noteApplied (s : State) (id wf : Nat) : State :=
  let s1 : State := { s with commits := { s.commits with waiting := s.commits.waiting.map fun q =>
    if !q.auto && q.ticket == id then { q with first := some (q.first.getD wf), last := some wf } else q } }
  match s1.ticket? id with
  | some t => s1.setTicket { t with first := some (t.first.getD wf), last := some wf }
  | none => s1

/-- Whether nothing of an accepted commit is left to apply. -/
def Pending.finished (p : Pending) : Bool := p.applyWF.isNone && p.parts.isEmpty && p.rest.isEmpty

/-- A commit whose last part has applied: its ticket is applied, if it is still held, with E-0x050, and an Active pushes
its image (R117, R347). -/
def State.finishTicket (s : State) (p : Pending) : State :=
  if p.auto then s.pushCommit
  else
    let a := p.first.getD s.wf
    let b := p.last.getD s.wf
    let s1 := match s.ticket? p.ticket with
      | some t => s.setTicket { t with st := .applied, first := some a, last := some b }
      | none => s
    (s1.record 0x050 none p.ticket (ofSigned 16 ((b : Int) - a) * 2 ^ 48 + shownFrame a : Nat)).pushCommit

/-- Report the accepted commits that have wholly applied (R117). -/
def State.settleCommits (s : State) : State :=
  let done := s.commits.waiting.filter Pending.finished
  let s1 : State := { s with commits := { s.commits with waiting := s.commits.waiting.filter fun p => !p.finished } }
  done.foldl State.finishTicket s1

/-! ### Fields at their own apply points (R109) -/

/-- Make a field active; frozen detection turned on starts its source's count afresh (R50). -/
def State.applyField (s : State) (f : Staged) : State :=
  let s1 := s.setActive f.key f.inst f.v
  let slot := f.key - 0x2010_01
  if 0x2010_01 ≤ f.key && f.key ≤ 0x2010_28 && s.reg f.key f.inst = 0 && s1.reg f.key f.inst != 0 then
    s1.setSlot slot { s1.slot slot with run := 0, runCheck := none, sticky := false }
  else s1

/-- A source that is frozen at the length of run in force stays so until a check differs (R51). -/
def State.holdFrozen (s : State) : State :=
  { s with slots := s.slots.map fun p => (p.1, { p.2 with sticky := p.2.sticky || decide (s.reg 0x2000_03 ≤ p.2.run) }) }

/-- Make a list of fields active. -/
def State.applyFields (s : State) (fs : List Staged) : State :=
  let s1 := fs.foldl State.applyField s
  if s1.reg 0x2000_03 < s.reg 0x2000_03 then s1.holdFrozen else s1

/-- The waiting fields that reach their apply point, in ticket order. -/
def State.dueFields (s : State) (due : Nat → Nat → Bool) : List Staged :=
  s.commits.waiting.flatMap fun p => p.rest.filter fun f => due f.key f.inst

/-- The waiting fields that reach their apply point take effect now (R109, R110). -/
def State.applyDue (s : State) (due : Nat → Nat → Bool) : State :=
  let fs := s.dueFields due
  if fs.isEmpty then s
  else
    let tickets := (s.commits.waiting.filter fun p => p.rest.any fun f => due f.key f.inst).map (·.ticket)
    let left := s.commits.waiting.map fun p => { p with rest := p.rest.filter fun f => !due f.key f.inst }
    let s1 : State := { s with commits := { s.commits with waiting := left } }
    let s2 := s1.applyFields fs
    (tickets.foldl (fun t id => t.noteApplied id t.wf) s2).settleCommits

/-- Frozen detection of a slot changes with the source's first frame whose ingest starts, or whose publish is requested,
after acceptance (R50, R109). -/
def State.applyFrozen (s : State) (slot : Nat) : State := s.applyDue fun k _ => k == 0x2010_01 + slot

end Sys2Proof.Machine
end

