-- ==== Sys2Proof/Machine/Ingots.lean ====
section
/-! DEFINITION. Ingots (R30-R38, R461, R462): their states, publication, readers, host requests, and the sets that
a plan gives its sources. -/

namespace Sys2Proof.Machine

set_option Elab.async false

/-- Number of Ingots (R30). -/
def ingotCount : Nat := 4096

/-- The reader number of a scan-out engine (R32). -/
def engineReader (e : Nat) : Nat := e
/-- The reader number of a Swage port that forwards (R32). -/
def portReader (p : Nat) : Nat := 18 + p
/-- The reader number of a check-value unit (R32). -/
def unitReader (u : Nat) : Nat := 42 + u

/-- The origin flags of an Ingot, L:2080.06 (R35 field table, R36). -/
def Ingot.flags (g : Ingot) : Nat :=
  (if g.foreign then 1 else 0) + 2 * g.era + (if g.unlocked then 32 else 0) + (if g.expired then 64 else 0)

/-- The state of an Ingot as L:2080.02 codes it (R30). -/
def IngotState.code : IngotState → Nat
  | .free => 0 | .filling => 1 | .ready => 2 | .scanning => 3 | .draining => 4

/-- An Ingot back in Free: its frame's record is discarded; it stays bound where its slot's set holds it, and else
its entry is free of any binding (R30, R33, R462). -/
def State.toFree (s : State) (i : Nat) : State :=
  let g := s.ingot i
  let x := s.slot g.slot
  if x.set.contains i then
    s.setIngot i { slot := g.slot, base := g.base, size := g.size }
  else
    (s.setIngot i {}).setSlot g.slot { x with oldSet := x.oldSet.filter (· != i) }

/-- A Ready or Scanning Ingot stops being its source's latest frame: to Free, or to Draining while readers hold it
(R30). -/
def State.outdate (s : State) (i : Nat) : State :=
  let g := s.ingot i
  match g.st with
  | .ready => s.toFree i
  | .scanning => s.setIngot i { g with st := .draining }
  | _ => s

/-- A frame in Filling is abandoned (R30). -/
def State.abandon (s : State) (i : Nat) : State :=
  if (s.ingot i).st = .filling then s.toFree i else s

/-- A reader takes a reference on an Ingot that is Ready, Scanning or Draining; it holds at most one (R30, R32). -/
def State.takeRef (s : State) (i reader : Nat) : State :=
  let g := s.ingot i
  if g.readers.contains reader then s
  else
    match g.st with
    | .ready => s.setIngot i { g with st := .scanning, readers := [reader] }
    | .scanning | .draining => s.setIngot i { g with readers := g.readers ++ [reader] }
    | _ => s

/-- A reader retires: the last one leaves a Scanning Ingot Ready and a Draining Ingot Free, completing a pending
host release with E-0x045 (R30, R33). -/
def State.dropRef (s : State) (i reader : Nat) : State :=
  let g := s.ingot i
  if !g.readers.contains reader then s
  else
    let left := g.readers.filter (· != reader)
    if !left.isEmpty then s.setIngot i { g with readers := left }
    else
      match g.st with
      | .scanning => s.setIngot i { g with st := .ready, readers := [] }
      | .draining =>
        let s1 := s.toFree i
        if g.released then s1.record 0x045 none i g.seq else s1
      | _ => s.setIngot i { g with readers := [] }

/-- An element of a list that a free value chooses; none when the list is empty (R30 names no order). -/
def State.pick (s : State) (xs : List Nat) : Option Nat × State :=
  if xs.isEmpty then (none, s)
  else
    let d := s.draw
    (xs[d.1 % xs.length]?, d.2)

/-- The Free Ingots of a slot's set. -/
def State.freeOf (s : State) (slot : Nat) : List Nat :=
  (s.slot slot).set.filter fun i => (s.ingot i).st == .free

/-- Take a Free Ingot of a slot into Filling; which one is a free value (R30, log entry 4). With the Fabric domain in fault the Ingot
table is not available (R390; DEDUCED, log entry 184). -/
def State.takeFree (s : State) (slot : Nat) (f : Filler) : Option Nat × State :=
  let p := if s.fabricWorks then s.pick (s.freeOf slot) else (none, s)
  match p.1 with
  | none => (none, p.2)
  | some i =>
    let g := p.2.ingot i
    (some i, p.2.setIngot i { slot := slot, base := g.base, size := g.size, st := .filling, filler := f })

/-- Whether frozen detection is on for a slot (R50). -/
def State.frozenOn (s : State) (slot : Nat) : Bool := s.reg (0x2010_01 + slot) 0 != 0

/-- Frozen detection counts the frame of an Ingot if it is on as its ingest starts (R50). -/
def State.countFrom (s : State) (i : Nat) : State :=
  s.setIngot i { s.ingot i with counted := s.frozenOn (s.ingot i).slot }

/-- The count of identical content checks after a frame is published; a source once frozen stays so until a check
differs (R51). -/
def Slot.noteCheck (x : Slot) (check k : Nat) : Slot :=
  if x.runCheck = some check then
    let run := x.run + 1
    { x with run := run, sticky := x.sticky || decide (k ≤ run) }
  else { x with runCheck := some check, run := 1, sticky := false }

/-- A complete frame becomes its source's latest published frame in one step; the one before goes to Free or
Draining (R31), and its content check is counted where detection was on from its ingest (R50, R51); with the Fabric domain in fault
nothing is published (R390; DEDUCED, log entry 184). -/
def State.publish (s : State) (i : Nat) : State :=
  let g := s.ingot i
  let old := (s.slot g.slot).latest
  let s1 := s.setIngot i { g with st := .ready, readers := [], filler := .none }
  let s2 := match old with
    | some j => if j = i then s1 else s1.outdate j
    | none => s1
  let x := s2.slot g.slot
  let x1 := { x with latest := some i, published := true, lastSeq := some g.seq }
  if !s.fabricWorks then s
  else s2.setSlot g.slot (if g.counted && s2.frozenOn g.slot then x1.noteCheck g.check (s2.reg 0x2000_03) else x1)

/-- Whether a slot's source is frozen (R50, R51). -/
def State.isFrozen (s : State) (slot : Nat) : Bool :=
  s.frozenOn slot && ((s.slot slot).sticky || decide (s.reg 0x2000_03 ≤ (s.slot slot).run))

/-- The latest published frame of a slot (R31). -/
def State.latest (s : State) (slot : Nat) : Option Nat := (s.slot slot).latest

/-- The serial successor of a frame sequence: 0xFFFF_FFFF is followed by 1 (R461). -/
def nextFrameSeq (n : Nat) : Nat := if n = 0xFFFFFFFF then 1 else n + 1

/-! ### Ingot sets of a plan (R462) -/

/-- Whether a new plan's source keeps the set of the source bound before (R462). -/
def keptSet (a b : Source) : Bool :=
  a.id == b.id && a.fmt == b.fmt && a.width == b.width && a.height == b.height &&
  a.ingotCount == b.ingotCount && a.target == b.target

/-- One Ingot of a set that its source loses: Filling and Ready go to Free, Scanning to Draining (R462). -/
def State.dropIngot (s : State) (i : Nat) : State :=
  match (s.ingot i).st with
  | .filling => s.abandon i
  | .free => s.toFree i
  | _ => s.outdate i

/-- A slot's set becomes an old set, whose Ingots are dropped but for those of `keep` (R462). -/
def State.retireSet (s : State) (slot : Nat) (keep : List Nat) : State :=
  let x := s.slot slot
  let s1 := s.setSlot slot { x with set := [], oldSet := x.oldSet ++ x.set }
  x.set.foldl (fun t i => if keep.contains i then t else t.dropIngot i) s1

/-- The Ingot table entries bound to no slot. -/
def State.unboundIngots (s : State) : List Nat :=
  (List.range ingotCount).filter fun i => (s.ingot i).slot == 0xFF

/-- Bind a list of entries to a slot at the addresses its source names. -/
def State.bindIngots (s : State) (slot size : Nat) : List Nat → List Nat → State
  | i :: is, a :: as =>
    State.bindIngots (s.setIngot i { slot := slot, base := a, size := size }) slot size is as
  | _, _ => s

/-- The line stride of a source's Ingots in bytes (R81). -/
def lineStride (width bpp : Nat) : Nat := roundUp (width * bpp) 64

/-- Bytes per pixel of a format code (R128, R196, R197: coding and vision formats have theirs elsewhere). -/
def bytesPerPixel (fmt : Nat) : Nat :=
  if fmt = 1 then 2 else if fmt = 2 then 3 else 4

/-- Give a slot a new set: as many unbound entries as it needs, in rising order (DESIGN CHOICE, log entry 15). -/
def State.newSet (s : State) (slot : Nat) (x : Source) (size : Nat) : State :=
  let is := if x.bases.isEmpty then [] else s.unboundIngots.take x.ingotCount
  let s1 := s.bindIngots slot size is x.bases
  s1.setSlot slot { s1.slot slot with set := is }

/-! ### Host requests (R33, R34, R37, R50) -/

/-- Whether a slot is a host source that no writeback or ISP output fills (R34, R143, R198). -/
def State.hostSlot (s : State) (slot : Nat) : Bool :=
  (match s.source slot with
    | some x => x.kind == 3
    | none => false) &&
  !((List.range 16).any fun e => s.flag 0x3080_02 e && s.reg 0x3080_04 e == slot) &&
  !((List.range 32).any fun c => s.flag 0x3840_02 c &&
      ((s.reg 0x3840_10 c != 0 && s.reg 0x3840_12 c == slot) ||
       (s.reg 0x3840_13 c != 0 && s.reg 0x3840_15 c == slot)))

/-- A write of L:2084.06: acquire (R34). -/
def acquireOp : WriteOp := fun s _ _ v =>
  if !s.hostSlot v.n then (s, .no (fr 0x0E))
  else
    let p := s.takeFree v.n .host
    match p.1 with
    | none => (s, .no (fr 0x0D))
    | some i => (p.2.setReg 0x2084_01 0 i, .ok)

/-- Whether a publish needs its content check read first: frozen detection is on for the slot (R50). -/
def State.hostNeedsCheck (s : State) (slot : Nat) : Bool := s.frozenOn slot

/-- The bytes of a published host frame that its content check covers: each line's pixels, without the padding
(R50). -/
def State.hostPayload (s : State) (i : Nat) : Bytes :=
  let g := s.ingot i
  match s.source g.slot with
  | none => []
  | some x =>
    let w := x.width * bytesPerPixel x.fmt
    let stride := lineStride x.width (bytesPerPixel x.fmt)
    (List.range x.height).flatMap fun y => s.load (g.base + y * stride) w

/-- A write of L:2084.03: publish L:2084.01 (R31, R34, R37, R50, R461). A frame whose content check still runs is refused as
one the host does not hold, and a frame with no origin supplied is stamped when the write is accepted, be it checked first
(DESIGN CHOICE, log entry 130). -/
def publishOp : WriteOp := fun s _ _ _ =>
  let i := s.reg 0x2084_01
  let g := s.ingot i
  if ingotCount ≤ i || !s.hostSlot g.slot then (s, .no (fr 0x0E))
  else if g.st != .filling || g.filler != .host then (s, .no (fr 0x0B))
  else
    let want := s.reg 0x2084_02
    if s.wall < want then (s, .no (fr 0x0C))
    else
      let x := s.slot g.slot
      let q := nextFrameSeq x.hostSeq
      let g1 := { g with
        origin := if want = 0 then s.wall else want
        foreign := want != 0
        era := s.reg 0x4800_07
        expired := false
        seq := q }
      let s0 := (s.setIngot i g1).setSlot g.slot { x with hostSeq := q }
      let s1 := ((s0.setReg 0x2084_02 0 0).applyFrozen g.slot).countFrom i
      if s1.hostNeedsCheck g.slot then (s1.setIngot i { s1.ingot i with filler := .hostCheck }, .ok)
      else (s1.publish i, .ok)

/-- A write of L:2084.04: release (R33, R34). Of a Free Ingot it is accepted and changes nothing (DESIGN CHOICE, log entry
131). -/
def releaseOp : WriteOp := fun s _ _ v =>
  let i := v.n
  let g := s.ingot i
  let isHost := match s.source g.slot with
    | some x => x.kind == 3
    | none => false
  if !isHost then (s, .no (fr 0x0E))
  else
    let x := s.slot g.slot
    let s1 := if x.latest = some i then s.setSlot g.slot { x with latest := none } else s
    match g.st with
    | .filling =>
      if g.filler = .writeback || g.filler = .isp then (s, .no (fr 0x0E)) else (s.toFree i, .ok)
    | .ready => (s1.toFree i, .ok)
    | .scanning | .draining => (s1.setIngot i { g with st := .draining, released := true }, .ok)
    | .free => (s, .ok)

/-! ### The commands -/

/-- HOST_ACQUIRE (R34). -/
def execHostAcquire (ss slot : Nat) (s : State) : Out :=
  whenManaged s fun s => s.ledgerWrite ss 0x2084_06 (.num slot) acquireOp

/-- HOST_PUBLISH (R37). -/
def execHostPublish (ss v : Nat) (s : State) : Out :=
  whenManaged s fun s => s.ledgerWrite ss 0x2084_03 (.num v) publishOp

/-- HOST_CONTENT_CHECK_DONE (R50): the frame is published with its check, or abandoned if a read failed. -/
def execHostContentCheckDone (ingot : Fin 4096) (readOk : Bool) (s : State) : Out :=
  whenLive s fun s =>
    let g := s.ingot ingot
    if g.st = .filling && g.filler = .hostCheck then
      if readOk then (s.setIngot ingot { g with check := crc32c (s.hostPayload ingot) }).publish ingot
      else s.abandon ingot
    else s

/-- HOST_RELEASE (R33). -/
def execHostRelease (ss ingot : Nat) (s : State) : Out :=
  whenManaged s fun s => s.ledgerWrite ss 0x2084_04 (.num ingot) releaseOp

/-- Whether an engine's coming frame shows an Ingot: its reference then stays (R32). -/
def State.stillSelected (s : State) (i reader : Nat) : Bool :=
  (List.range 32).any fun o =>
    match (s.output o).next with
    | some b => b.draws.any fun d => d.engine == reader && d.ingot == some i && d.veil.isNone
    | none => false

/-- READER_RETIRE (R30, R32). -/
def execReaderRetire (ingot : Fin 4096) (reader : Fin 46) (s : State) : Out :=
  whenLive s fun s => if s.stillSelected ingot reader then s else s.dropRef ingot reader

end Sys2Proof.Machine
end

