-- ==== Sys2Proof/Machine/Compose.lean ====
section
/-! DEFINITION. Composition arithmetic (R128-R148, R165, R166, R46-R48, R248): pixel formats, blending, scaling, the
Quench veil and its lettering, and the byte sequences that a composed frame leaves as. -/

namespace Sys2Proof.Machine

set_option Elab.async false

/-! ### Pixels (R19, R128, R129) -/

/-- A pixel of four 10-bit components. -/
structure Px where
  r : Nat := 0
  g : Nat := 0
  b : Nat := 0
  a : Nat := 1023
  deriving DecidableEq, Repr

/-- An internal pixel word as a pixel: R [39:30], G [29:20], B [19:10], A [9:0] (R19). -/
def Px.ofWord (n : Nat) : Px := { r := bits n 39 30, g := bits n 29 20, b := bits n 19 10, a := bits n 9 0 }

/-- A pixel as an internal pixel word (R19). -/
def Px.word (p : Px) : Nat := p.r * 2 ^ 30 + p.g * 2 ^ 20 + p.b * 2 ^ 10 + p.a

/-- A stored component of `w` bits widened to 10 bits (R129). -/
def widen (w v : Nat) : Nat :=
  if w = 8 then v * 4 + v / 64
  else if w = 6 then v * 16 + v / 4
  else if w = 5 then v * 32 + v
  else if w = 2 then v * 341
  else v

/-- A stored word of a format as a pixel (R128, R129). -/
def decodePx (fmt n : Nat) : Px :=
  if fmt = 1 then { r := widen 5 (bits n 15 11), g := widen 6 (bits n 10 5), b := widen 5 (bits n 4 0) }
  else if fmt = 2 then { r := widen 8 (bits n 23 16), g := widen 8 (bits n 15 8), b := widen 8 (bits n 7 0) }
  else if fmt = 3 then
    { r := widen 8 (bits n 23 16), g := widen 8 (bits n 15 8), b := widen 8 (bits n 7 0)
      a := widen 8 (bits n 31 24) }
  else { r := bits n 29 20, g := bits n 19 10, b := bits n 9 0, a := widen 2 (bits n 31 30) }

/-- Bytes per pixel of a format that layers read (R128). -/
def pixelBytes (fmt : Nat) : Nat := if fmt = 1 then 2 else if fmt = 2 then 3 else 4

/-- A pixel narrowed to a stored word of a format by dropping low-order bits (R143, R165). -/
def encodePx (fmt : Nat) (p : Px) : Nat :=
  if fmt = 1 then (p.r / 32) * 2 ^ 11 + (p.g / 16) * 2 ^ 5 + p.b / 32
  else if fmt = 2 then (p.r / 4) * 2 ^ 16 + (p.g / 4) * 2 ^ 8 + p.b / 4
  else if fmt = 3 then (p.a / 4) * 2 ^ 24 + (p.r / 4) * 2 ^ 16 + (p.g / 4) * 2 ^ 8 + p.b / 4
  else (p.a / 256) * 2 ^ 30 + p.r * 2 ^ 20 + p.g * 2 ^ 10 + p.b

/-! ### Blending (R130-R133) -/

/-- Nearest-integer division by 1023 (R130). -/
def div1023 (x : Nat) : Nat := (x + 511) / 1023

/-- One layer pixel blended over a destination pixel, at a layer alpha, in straight or premultiplied alpha mode
(R131, R132). -/
def blend (premult : Bool) (la : Nat) (c d : Px) : Px :=
  let a := div1023 (c.a * la)
  let f := fun (x y : Nat) =>
    if premult then min 1023 (div1023 (x * la) + div1023 (y * (1023 - a)))
    else div1023 (x * a + y * (1023 - a))
  { r := f c.r d.r, g := f c.g d.g, b := f c.b d.b, a := a + div1023 (d.a * (1023 - a)) }

/-! ### Fetching and scaling (R134-R139) -/

/-- Component 0 to 3 of a pixel: red, green, blue, alpha. -/
def Px.comp (p : Px) (i : Nat) : Nat := if i = 0 then p.r else if i = 1 then p.g else if i = 2 then p.b else p.a

/-- The pixel of four components. -/
def Px.ofComps (f : Nat → Nat) : Px := { r := f 0, g := f 1, b := f 2, a := f 3 }

/-- A fetched pixel of a layer: column and line counted within its fetch rectangle (R128). -/
def Draw.fetched (d : Draw) (x y : Nat) : Px :=
  let n := pixelBytes d.fmt
  decodePx d.fmt (leNat (slice d.pix ((y * d.fw + x) * n) n))

/-- Columns after pre-decimation (R134). -/
def Draw.decWidth (d : Draw) : Nat := ceilDiv' d.fw d.pre

/-- A decimated column of a fetched line, the last run completed by the last fetched pixel (R134). -/
def Draw.decimated (d : Draw) (x y : Nat) : Px :=
  if d.pre ≤ 1 then d.fetched x y
  else Px.ofComps fun i =>
    (((List.range d.pre).foldl (fun acc k => acc + (d.fetched (min (x * d.pre + k) (d.fw - 1)) y).comp i) 0)
      + d.pre / 2) / d.pre

/-- The scale step for a span of `span` 1/256 pixels over `dst` output pixels at pre-decimation `n`, half rounded
up (R135). -/
def scaleStep (span n dst : Nat) : Nat := (2 * span * 4096 + n * dst) / (2 * n * dst)

/-- Centre pixel and phase of 64 at an output index (R136). -/
def phaseAt (init : Int) (step i : Nat) : Int × Nat :=
  let p : Int := init + (i : Int) * step
  let k := p / 1048576
  let ph := ((p % 1048576).toNat + 8192) / 16384
  if ph = 64 then (k + 1, 0) else (k, ph)

/-- A coefficient of a factory table (R140): phase 0 of tables 0 and 16 is 1024 on the centre tap. Taps 0 and 7 of a
horizontal table lie within 2 of 0, so that a cut changes no component by more than 2 (R137; log entry 7). -/
def factoryTap (table phase tap : Nat) : Int :=
  if phase = 0 && table = 0 then (if tap = 3 then 1024 else 0)
  else if phase = 0 && table = 16 then (if tap = 2 then 1024 else 0)
  else if table < 16 && (tap = 0 || tap = 7) then max (-2) (min 2 (Config.factoryCoeff table phase tap))
  else Config.factoryCoeff table phase tap

/-- Whether a table is a factory table (R140). -/
def factoryTable (t : Nat) : Bool := t < 4 || (16 ≤ t && t < 20)

/-- A coefficient of a table whose loaded bytes are `b` (R140, R141). -/
def tapOf (table : Nat) (b : Bytes) (taps phase tap : Nat) : Int :=
  if factoryTable table then factoryTap table phase tap
  else toSigned 16 (field b (8 + (phase * taps + tap) * 2) 2)

/-- Rounding and clamping of a filter's sum (R136). -/
def filterOut (acc : Int) : Nat := (max 0 (min 1023 ((acc + 512) / 1024))).toNat

/-- An index held inside 0 to `n - 1` (R137). -/
def heldIn (k : Int) (n : Nat) : Nat := (max 0 (min ((n : Int) - 1) k)).toNat

/-- The vertical filter: component `i` of decimated column `x` at output line `j` (R136, R137). -/
def Draw.vertical (d : Draw) (i x j : Nat) : Nat :=
  let kp := phaseAt d.initV d.stepV j
  filterOut ((List.range 6).foldl (fun acc t =>
    acc + tapOf d.tabV d.coefV 6 kp.2 t * (d.decimated x (heldIn (kp.1 - 2 + t) d.fh)).comp i) 0)

/-- A scaled pixel: the vertical filter's results through the horizontal filter (R136). -/
def Draw.scaled (d : Draw) (i j : Nat) : Px :=
  let kp := phaseAt d.initH d.stepH i
  Px.ofComps fun c =>
    filterOut ((List.range 8).foldl (fun acc t =>
      acc + tapOf d.tabH d.coefH 8 kp.2 t * (d.vertical c (heldIn (kp.1 - 3 + t) d.decWidth) j)) 0)

/-- The layer's pixel at a column and line of its destination rectangle (R134-R139). -/
def Draw.source (d : Draw) (i j : Nat) : Px := if d.scaler = 0xFF then d.fetched i j else d.scaled i j

/-! ### The Quench veil (R46-R48, R147, R148) -/

/-- Digits of a number. -/
def decText (n : Nat) : Bytes := ascii (toString n)

/-- The state word of a veil as drawn; the STALE age is omitted during recovery (R47, R48). -/
def stateWord (st : LayerState) (recovering : Bool) (ageUs : Nat) : Bytes :=
  match st with
  | .live => []
  | .noSignal => ascii "NO SIGNAL"
  | .frozen => ascii "FROZEN?"
  | .time => ascii "TIME?"
  | .fault => ascii "FAULT"
  | .stale =>
    if recovering then ascii "STALE"
    else if ageUs < 1000000 then ascii "STALE " ++ decText (ageUs / 1000) ++ ascii " ms"
    else if ageUs < 100000000 then
      ascii "STALE " ++ decText (ageUs / 1000000) ++ ascii "." ++ decText (ageUs / 100000 % 10) ++ ascii " s"
    else ascii "STALE >99 s"

/-- Characters for which a state word counts in sizing: a STALE word always 12 (R147). -/
def sizedLength (st : LayerState) (word : Bytes) : Nat := if st = .stale then 12 else word.length

/-- The lettering chosen for a visible rectangle: scale and whether both lines fit; none draws the hatch alone
(R147). -/
def lettering (w h nameLen wordLen : Nat) : Option (Nat × Bool) :=
  let l := max nameLen wordLen
  match [4, 3, 2, 1].find? fun s => 8 * s * l + 16 * s ≤ w && 52 * s ≤ h with
  | some s => some (s, true)
  | none =>
    match [4, 3, 2, 1].find? fun s => 8 * s * wordLen + 16 * s ≤ w && 32 * s ≤ h with
    | some s => some (s, false)
    | none => none

/-- A line of text: 0 where its characters have ink at a pixel, 1 where its box lies, 2 elsewhere (R148). -/
def textAt (text : Bytes) (s w top x y : Nat) : Nat :=
  let len := 8 * s * text.length
  let left := (w - len) / 2
  if text.isEmpty then 2
  else if left ≤ x && x < left + len && top ≤ y && y < top + 16 * s then
    let c := (text.getD ((x - left) / (8 * s)) 0).toNat
    let c := if 0x20 ≤ c && c ≤ 0x7E then c else 0x3F
    if Config.glyph c ((x - left) / s % 8) ((y - top) / s) then 0 else 1
  else if left ≤ x + s && x < left + len + s && top ≤ y + s && y < top + 16 * s + s then 1
  else 2

/-- What the glyph engine draws at a pixel of a visible rectangle: 0 text, 1 box, 2 hatch (R147, R148). -/
def letterAt (w h : Nat) (name word : Bytes) (wordLen x y : Nat) : Nat :=
  match lettering w h name.length wordLen with
  | none => 2
  | some (s, true) =>
    let top := (h - 36 * s) / 2
    min (textAt name s w top x y) (textAt word s w (top + 20 * s) x y)
  | some (s, false) => textAt word s w ((h - 16 * s) / 2) x y

/-- Whether hatch stripe A is drawn at an output pixel: `m` is the low 5 bits of OF with motion, else 0 (R46). -/
def hatchA (motion : Bool) (ofNum x y : Nat) : Bool := (x + y + (if motion then ofNum % 32 else 0)) % 32 < 16

/-- The veil's pixel at output pixel (x, y), in a visible rectangle at (x0, y0) of w × h (R46-R48, R147, R148). -/
def Bank.veilPx (k : Bank) (x0 y0 w h : Nat) (name word : Bytes) (wordLen x y : Nat) : Px :=
  let t := letterAt w h name word wordLen (x - x0) (y - y0)
  if t = 0 then Px.ofWord k.textColour
  else if t = 1 then Px.ofWord k.colourB
  else if hatchA k.motion k.ofNum x y then Px.ofWord k.colourA else Px.ofWord k.colourB

/-! ### A composed pixel (R124, R126, R161) -/

/-- Whether a layer covers an output pixel. -/
def Draw.covers (d : Draw) (x y : Nat) : Bool :=
  d.dx ≤ x && x < d.dx + d.dw && d.dy ≤ y && y < d.dy + d.dh

/-- Whether a layer is switched off at an output pixel, in raster order (R45, R161). -/
def Draw.isOff (d : Draw) (x y : Nat) : Bool :=
  match d.off with
  | none => false
  | some (ox, oy) => oy < y || (oy == y && ox ≤ x)

/-- One layer of a bank blended at an output pixel of an output of w × h pixels. -/
def Bank.layerOver (k : Bank) (w h x y : Nat) (under : Px) (d : Draw) : Px :=
  if !d.covers x y then under
  else
    match d.veil with
    | some (st, recovering, age) =>
      let word := stateWord st recovering age
      blend false 1023
        { k.veilPx d.dx d.dy (min d.dw (w - d.dx)) (min d.dh (h - d.dy)) d.name word (sizedLength st word) x y
          with a := 1023 } under
    | none =>
      if d.isOff x y then under else blend d.premult d.alpha (d.source (x - d.dx) (y - d.dy)) under

/-- Whether a layer lies beneath another: lower stack position, then lower layer number (R124). -/
def Draw.below (a b : Draw) : Bool := a.stack < b.stack || (a.stack == b.stack && a.layer < b.layer)

/-- The layers of a bank from the lowest to the highest (R124). -/
def Bank.stacked (k : Bank) : List Draw := sortBy Draw.below k.draws

/-- The composed pixel of a bank at (x, y) on an output of w × h (R124). -/
def Bank.pxAt (k : Bank) (w h x y : Nat) : Px :=
  k.stacked.foldl (k.layerOver w h x y) (Px.ofWord k.background)

/-- The FAULT veil of an output's egress at (x, y) (R57). -/
def Bank.faultPx (k : Bank) (name : Bytes) (w h x y : Nat) : Px :=
  k.veilPx 0 0 w h name (ascii "FAULT") 5 x y

/-! ### What leaves the egress (R165, R166, R248) -/

/-- The bytes of a pixel on a link of a depth: at 8 R, G, B; at 10 a word most significant byte first, with alpha
field 3 on Swage and 0 on DisplayPort and DSI-2 (R165, R166, R248). -/
def linkPx (swage : Bool) (depth : Nat) (p : Px) : Bytes :=
  if depth = 8 then [byte (p.r / 4), byte (p.g / 4), byte (p.b / 4)]
  else beBytes 4 ((if swage then 3 * 2 ^ 30 else 0) + p.r * 2 ^ 20 + p.g * 2 ^ 10 + p.b)

/-- A raster of w × h pixels as the bytes of its pixels. -/
def raster (w h : Nat) (f : Nat → Nat → Bytes) : Bytes :=
  (List.range h).flatMap fun y => (List.range w).flatMap fun x => f x y

/-- The bytes of a composed frame as an output sends them. -/
def Bank.sentBytes (k : Bank) (swage : Bool) (depth w h : Nat) : Bytes :=
  raster w h fun x y => linkPx swage depth (k.pxAt w h x y)

/-- The bytes of an egress FAULT frame as an output sends them (R57, R166). -/
def Bank.faultBytes (k : Bank) (name : Bytes) (swage : Bool) (depth w h : Nat) : Bytes :=
  raster w h fun x y => linkPx swage depth (k.faultPx name w h x y)

/-- A writeback region's line as it is stored, each pixel's word least significant byte first (R128, R143). -/
def Bank.storedLine (k : Bank) (fmt w h x0 y cols : Nat) : Bytes :=
  (List.range cols).flatMap fun i => leBytes (pixelBytes fmt) (encodePx fmt (k.pxAt w h (x0 + i) y))

end Sys2Proof.Machine
end

