-- ==== Sys2Proof/Machine/Scene.lean ====
section
/-! DEFINITION. Scenes (R66-R80): exact fractions, the parse of a scene, and the geometry that turns a view into
pieces and stripes. -/

namespace Sys2Proof.Machine

set_option Elab.async false

/-! ### Exact fractions (R77) -/

/-- An exact fraction; the denominator is never 0. -/
structure Frac where
  n : Int := 0
  d : Nat := 1
  deriving DecidableEq, Repr

/-- `a ÷ b` in lowest terms; 0 when `b` is 0. -/
def Frac.mk' (a : Int) (b : Nat) : Frac :=
  let g := Nat.gcd a.natAbs b
  if b = 0 then {} else { n := a / (g : Int), d := b / g }

/-- Zero. -/
def Frac.zero : Frac := { n := 0, d := 1 }

/-- A whole number. -/
def Frac.ofNat (a : Nat) : Frac := { n := a, d := 1 }
/-- A whole number, signed. -/
def Frac.ofInt (a : Int) : Frac := { n := a, d := 1 }
/-- Sum. -/
def Frac.add (x y : Frac) : Frac := Frac.mk' (x.n * y.d + y.n * x.d) (x.d * y.d)
/-- Difference. -/
def Frac.sub (x y : Frac) : Frac := Frac.mk' (x.n * y.d - y.n * x.d) (x.d * y.d)
/-- Product. -/
def Frac.mul (x y : Frac) : Frac := Frac.mk' (x.n * y.n) (x.d * y.d)
/-- The inverse of a positive fraction. -/
def Frac.inv (x : Frac) : Frac := Frac.mk' x.d x.n.toNat
/-- Quotient by a positive fraction. -/
def Frac.div (x y : Frac) : Frac := x.mul y.inv
/-- Whether x < y. -/
def Frac.lt (x y : Frac) : Bool := x.n * y.d < y.n * x.d
/-- Whether x ≤ y. -/
def Frac.le (x y : Frac) : Bool := x.n * y.d ≤ y.n * x.d
/-- Greatest integer not above. -/
def Frac.floor (x : Frac) : Int := x.n / (x.d : Int)
/-- Least integer not below. -/
def Frac.ceil (x : Frac) : Int := -((-x.n) / (x.d : Int))
/-- Nearest integer, halves up (R77). -/
def Frac.round (x : Frac) : Int := (2 * x.n + x.d) / (2 * x.d : Int)
/-- Whether it is a whole number. -/
def Frac.whole (x : Frac) : Bool := x.n % (x.d : Int) == 0
/-- The sum of a list. -/
def Frac.sum (xs : List Frac) : Frac := xs.foldl Frac.add {}
/-- The least natural number not below; 0 for a negative one. -/
def Frac.ceilNat (x : Frac) : Nat := x.ceil.toNat

/-! ### Parsing a scene (R66-R72) -/

/-- A signed 32-bit field. -/
def fieldI32 (b : Bytes) (off : Nat) : Int := toSigned 32 (field b off 4)

/-- A name of up to 16 characters padded with 0x00 (R70). -/
def unpad (b : Bytes) : Bytes := (b.reverse.dropWhile (· == 0)).reverse

/-- Whether every byte of a range is 0. -/
def zeros (b : Bytes) (off len : Nat) : Bool := (slice b off len).all (· == 0)

/-- The screen record at an offset (R68). -/
def screenAt (b : Bytes) (o : Nat) : Screen :=
  { id := field b o 2, device := field b (o + 2) 1, output := field b (o + 3) 1
    x := fieldI32 b (o + 4), y := fieldI32 b (o + 8), aw := field b (o + 12) 4, ah := field b (o + 16) 4
    bt := field b (o + 20) 2, br := field b (o + 22) 2, bb := field b (o + 24) 2, bl := field b (o + 26) 2
    px := field b (o + 28) 2, py := field b (o + 30) 2 }

/-- Whether a screen record's fields lie in their ranges (R66, R68). -/
def Screen.ok (x : Screen) : Bool :=
  x.id ≤ 65534 && x.device ≤ 63 && x.output ≤ 31 && 1 ≤ x.aw && 1 ≤ x.ah &&
  1 ≤ x.px && x.px ≤ 4096 && 1 ≤ x.py && x.py ≤ 2400

/-- The source record at an offset (R70). -/
def srcAt (b : Bytes) (o : Nat) : SrcRec :=
  { id := field b o 2, device := field b (o + 2) 1, slot := field b (o + 3) 1, kind := field b (o + 4) 1
    fmt := field b (o + 5) 1, rate := field b (o + 6) 2, locator := field b (o + 8) 4
    width := field b (o + 12) 2, height := field b (o + 14) 2, name := unpad (slice b (o + 16) 16)
    ingots := field b (o + 32) 1, memory := field b (o + 33) 1, upPort := field b (o + 34) 1
    upStream := field b (o + 36) 4 }

/-- Whether a format code is one that R128, R196 or R197 defines. -/
def knownFormat (f : Nat) : Bool := [1, 2, 3, 4, 0x10, 0x11, 0x12, 0x18, 0x19, 0x1A].contains f

/-- Whether a source record's fields lie in their ranges (R66, R70). -/
def SrcRec.ok (x : SrcRec) : Bool :=
  x.id ≤ 65534 && x.device ≤ 63 && x.slot ≤ 39 && 1 ≤ x.kind && x.kind ≤ 3 && knownFormat x.fmt &&
  1 ≤ x.rate && (x.kind != 1 || decide (x.locator ≤ 31)) && (x.kind != 3 || x.locator == 0) &&
  1 ≤ x.width && x.width ≤ 16384 && 1 ≤ x.height && x.height ≤ 16384 &&
  (x.ingots == 0 || (3 ≤ x.ingots && x.ingots ≤ 8)) && x.memory ≤ 2 && (x.upPort ≤ 23 || x.upPort == 0xFF)

/-- The view record at an offset (R72), with whether a reserved bit or a field's range refuses it (R73). -/
def viewAt (b : Bytes) (o : Nat) : View :=
  let id := field b o 2
  let cw := field b (o + 8) 2
  let ch := field b (o + 10) 2
  let dw := field b (o + 20) 4
  let dh := field b (o + 24) 4
  let al := field b (o + 30) 2
  let pr := field b (o + 32) 1
  let fl := field b (o + 33) 1
  let src := field b (o + 2) 2
  { id := id, source := src, cx := field b (o + 4) 2, cy := field b (o + 6) 2, cw := cw, ch := ch
    dx := fieldI32 b (o + 12), dy := fieldI32 b (o + 16), dw := dw, dh := dh, z := field b (o + 28) 2
    alpha := al % 1024, prio := pr % 8, flags := fl % 8, budget := field b (o + 36) 4
    bad := id == 0 || src == 65535 || cw == 0 || ch == 0 || dw == 0 || dh == 0 || 1023 < al || 7 < pr || 7 < fl ||
      !zeros b (o + 34) 2 || !zeros b (o + 40) 24 }

/-- Whether a list holds an element twice. -/
def hasDup {α : Type} [BEq α] : List α → Bool
  | [] => false
  | x :: xs => xs.contains x || hasDup xs

/-- Whether the outer frames of two screens overlap (R69). -/
def Screen.overlaps (a b : Screen) : Bool :=
  let w := fun s : Screen => ((s.bl + s.aw + s.br : Nat) : Int)
  let h := fun s : Screen => ((s.bt + s.ah + s.bb : Nat) : Int)
  decide (a.x < b.x + w b) && decide (b.x < a.x + w a) && decide (a.y < b.y + h b) && decide (b.y < a.y + h a)

/-- Whether any two of a list of screens overlap (R69). -/
def anyOverlap : List Screen → Bool
  | [] => false
  | x :: xs => xs.any x.overlaps || anyOverlap xs

/-- The tag of a scene as far as it holds a header (R67, R90). -/
def sceneTag (b : Bytes) : Nat := if 32 ≤ b.length then field b 16 4 else 0

/-- A scene's parse: the scene, or the value of the PL code that refuses it whole, in the order PL-0x01, PL-0x02,
PL-0x03 (R66, R69, R71). Two host records may both hold Locator 0 (DEDUCED, log entry 17). -/
def parseScene (b : Bytes) : Nat ⊕ Scene :=
  let ns := field b 8 2
  let no := field b 10 2
  let nv := field b 12 2
  if b.length < 32 || field b 0 4 != 0x44515343 || field b 4 2 != 1 || field b 6 2 != 32 ||
      ns == 0 || 2048 < ns || 2560 < no || 4096 < nv || !zeros b 14 2 || !zeros b 20 12 ||
      b.length != 32 + 32 * ns + 48 * no + 64 * nv then .inl 1
  else
    let o2 := 32 + 32 * ns
    let o3 := o2 + 48 * no
    let scr := (List.range ns).map fun i => screenAt b (32 + 32 * i)
    let src := (List.range no).map fun i => srcAt b (o2 + 48 * i)
    let vw := (List.range nv).map fun i => viewAt b (o3 + 64 * i)
    let resv := (List.range no).all fun i => zeros b (o2 + 48 * i + 35) 1 && zeros b (o2 + 48 * i + 40) 8
    if !(scr.all Screen.ok) || !(src.all SrcRec.ok) || !resv then .inl 1
    else if hasDup (scr.map (·.id)) || hasDup (vw.map (·.id)) ||
        hasDup (src.map fun x => (x.device, x.id)) || hasDup (src.map fun x => (x.device, x.slot)) ||
        hasDup ((src.filter (·.kind != 3)).map fun x => (x.device, x.locator, x.kind)) then .inl 2
    else if hasDup (scr.map fun x => (x.device, x.output)) || anyOverlap scr then .inl 3
    else .inr { tag := field b 16 4, screens := scr, sources := src, views := vw }

/-! ### Geometry (R74-R80) -/

/-- One axis of a rectangle or a screen: start, length and pixel count. -/
structure Axis where
  lo : Int
  len : Nat
  n : Nat
  deriving DecidableEq, Repr

/-- A screen's active area along x or y (R68). -/
def Screen.axis (s : Screen) (horizontal : Bool) : Axis :=
  if horizontal then { lo := s.x + s.bl, len := s.aw, n := s.px } else { lo := s.y + s.bt, len := s.ah, n := s.py }

/-- The end of an axis. -/
def Axis.hi (a : Axis) : Int := a.lo + a.len

/-- The first pixel whose centre lies at or beyond a wall coordinate, held in 0 to n (R75). -/
def Axis.firstAt (a : Axis) (w : Int) : Nat :=
  -- centre of pixel i: lo + (2i + 1) len / (2n) ≥ w
  let k := (Frac.mk' ((w - a.lo) * 2 * a.n - a.len) (2 * a.len)).ceil
  (max 0 (min (a.n : Int) k)).toNat

/-- The pixels of a screen's axis whose centres lie in a view's extent: first, and one past the last (R75). -/
def Axis.cover (a : Axis) (lo : Int) (len : Nat) : Nat × Nat := (a.firstAt lo, a.firstAt (lo + len))

/-- Columns and rows of a view on a screen; none where it covers no pixel centre (R75). -/
def View.cover (v : View) (s : Screen) : Option ((Nat × Nat) × (Nat × Nat)) :=
  let c := (s.axis true).cover v.dx v.dw
  let r := (s.axis false).cover v.dy v.dh
  if c.1 < c.2 && r.1 < r.2 then some (c, r) else none

/-- Whether a screen meets a view's rectangle: with its active area, so that a view over its bezel alone is not on it
(R75; DEDUCED, log entry 141). -/
def View.meets (v : View) (s : Screen) : Bool :=
  let a := s.axis true
  let b := s.axis false
  decide (a.lo < v.dx + v.dw) && decide (v.dx < a.hi) && decide (b.lo < v.dy + v.dh) && decide (v.dy < b.hi)

/-- A stretch joined with those of a list in rising order that it touches or overlaps, then with those that the joined one
does. -/
def joinOnto (x : Int × Int) : List (Int × Int) → List (Int × Int)
  | [] => [x]
  | y :: ys => if y.1 ≤ x.2 then joinOnto (x.1, max x.2 y.2) ys else x :: joinOnto y ys

/-- Stretches in rising order, joined where they touch or overlap. -/
def joinStretches : List (Int × Int) → List (Int × Int)
  | [] => []
  | x :: xs => joinOnto x xs

/-- The covered stretches of one axis of a view: the projections of the active areas that meet it, clipped to it
(R75). -/
def View.covered (v : View) (screens : List Screen) (horizontal : Bool) : List (Int × Int) :=
  let lo := if horizontal then v.dx else v.dy
  let hi := lo + (if horizontal then v.dw else v.dh)
  let ss := (screens.filter v.meets).map fun s =>
    let a := s.axis horizontal
    (max lo a.lo, min hi a.hi)
  joinStretches (sortBy (fun a b : Int × Int => decide (a.1 < b.1)) ss)

/-- How source pixels lie along one axis of a screen: the crop-relative position of pixel 0's centre, and source
pixels per screen pixel. -/
structure AxisMap where
  at0 : Frac
  step : Frac
  deriving DecidableEq, Repr

/-- The mapping of one axis of a view on a screen: spread over the whole rectangle with bezel compensation, over the
covered stretches without (R75; DEDUCED, log entry 18). -/
def View.axisMap (v : View) (screens : List Screen) (s : Screen) (horizontal : Bool) : AxisMap :=
  let a := s.axis horizontal
  let lo := if horizontal then v.dx else v.dy
  let len := if horizontal then v.dw else v.dh
  let crop := if horizontal then v.cw else v.ch
  let pitch := Frac.mk' a.len a.n
  if bitAt v.flags 1 then
    let scale := Frac.mk' crop len
    { at0 := ((Frac.ofInt (a.lo - lo)).add (Frac.mk' a.len (2 * a.n))).mul scale, step := pitch.mul scale }
  else
    let cs := v.covered screens horizontal
    let total := cs.foldl (fun acc x => acc + (x.2 - x.1).toNat) 0
    let from' := max lo a.lo
    let before := cs.foldl (fun acc x => acc + (min x.2 from' - min x.1 from')) (0 : Int)
    let scale := Frac.mk' crop total
    { at0 := ((Frac.ofInt (before + a.lo - from')).add (Frac.mk' a.len (2 * a.n))).mul scale
      step := pitch.mul scale }

/-- Whether an axis maps one source pixel to one output pixel with centres on centres (R78). -/
def AxisMap.unscaled (m : AxisMap) : Bool :=
  m.step == Frac.ofNat 1 && (m.at0.sub (Frac.mk' 1 2)).whole

/-- Source pixels that output pixels `a` to `b - 1` show, widened to whole ones and clipped to the crop (R82). -/
def AxisMap.shown (m : AxisMap) (a b crop : Nat) : Nat × Nat :=
  let left := (m.at0.sub (m.step.mul (Frac.mk' 1 2))).add (m.step.mul (Frac.ofNat a))
  let right := left.add (m.step.mul (Frac.ofNat (b - a)))
  ((max 0 left.floor).toNat, (min (crop : Int) right.ceil).toNat)

/-- A fetched stretch with the margin of 3 on each cut side, clipped to the crop (R82). -/
def marginOf (p : Nat × Nat) (cutLo cutHi : Bool) (crop : Nat) : Nat × Nat :=
  (if cutLo then p.1 - 3 else p.1, if cutHi then min crop (p.2 + 3) else p.2)

/-- One stripe of a piece: its output columns and its fetched source columns, crop-relative (R80). -/
structure Stripe where
  a : Nat
  b : Nat
  lo : Nat
  hi : Nat
  deriving DecidableEq, Repr

/-- A piece's columns shared among k stripes, the leftmost taking the extra ones (R80). -/
def stripesOf (m : AxisMap) (i0 i1 : Nat) (cutL cutR : Bool) (crop k : Nat) : List Stripe :=
  let base := (i1 - i0) / k
  let extra := (i1 - i0) % k
  (List.range k).map fun t =>
    let a := i0 + t * base + min t extra
    let b := a + base + (if t < extra then 1 else 0)
    let f := marginOf (m.shown a b crop) (decide (0 < t) || cutL) (decide (t + 1 < k) || cutR) crop
    { a := a, b := b, lo := f.1, hi := f.2 }

/-- The smallest number of stripes, at most 8, whose fetched widths after pre-decimation fit a line buffer of 4,096
(R80). -/
def fitStripes (m : AxisMap) (i0 i1 : Nat) (cutL cutR : Bool) (crop n : Nat) : Option (List Stripe) :=
  ([1, 2, 3, 4, 5, 6, 7, 8].filterMap fun k =>
    if k ≤ i1 - i0 then
      let st := stripesOf m i0 i1 cutL cutR crop k
      if st.all fun x => ceilDiv' (x.hi - x.lo) n ≤ 4096 then some st else none
    else none).head?

/-- What a layer needs of one stripe: fetch and destination rectangles, pre-decimation, spans, steps and phases. -/
structure Cut where
  fx : Nat
  fy : Nat
  fw : Nat
  fh : Nat
  dx : Nat
  dy : Nat
  dw : Nat
  dh : Nat
  n : Nat
  sw : Nat
  sh : Nat
  stepH : Nat
  stepV : Nat
  initH : Int
  initV : Int
  scaled : Bool
  deriving DecidableEq, Repr

/-- A piece of a view on one output; `cuts` is none when it needs more than 8 stripes (R76, R80). -/
structure Piece where
  output : Nat
  dx : Nat
  dy : Nat
  dw : Nat
  dh : Nat
  ratioOk : Bool
  cuts : Option (List Cut)
  deriving DecidableEq, Repr

/-- Pre-decimation that a horizontal ratio of 1 ÷ `step` needs (R79). -/
def decimationFor (step : Frac) : Nat :=
  if (Frac.ofNat 16).lt step then 4 else if (Frac.ofNat 8).lt step then 2 else 1

/-- Whether both ratios of a piece lie in range (R79). -/
def ratioInRange (h v : AxisMap) : Bool :=
  (Frac.mk' 1 16).le h.step && h.step.le (Frac.ofNat 32) && (Frac.mk' 1 16).le v.step && v.step.le (Frac.ofNat 8)

/-- One unit of a scaler's position (R135). -/
def unity : Nat := 1048576

/-- The piece of a view on a screen (R75-R82, R135, R136). Initial phases are rounded to the nearest unit, halves up
(DEDUCED, log entry 19). Flag [2] avoids stripes where pre-decimation by 2 leaves the piece whole (R79; DEDUCED, log entry
140). -/
def View.piece (v : View) (screens : List Screen) (s : Screen) : Option Piece :=
  match v.cover s with
  | none => none
  | some (c, r) =>
    let h := v.axisMap screens s true
    let w := v.axisMap screens s false
    let ax := s.axis true
    let ay := s.axis false
    let rows := r.2 - r.1
    let base : Piece :=
      { output := s.output, dx := c.1, dy := r.1, dw := c.2 - c.1, dh := rows, ratioOk := ratioInRange h w
        cuts := none }
    let vis := w.shown r.1 r.2 v.ch
    if h.unscaled && w.unscaled then
      let f := h.shown c.1 c.2 v.cw
      some { base with cuts := some [
        { fx := v.cx + f.1, fy := v.cy + vis.1, fw := f.2 - f.1, fh := vis.2 - vis.1, dx := c.1, dy := r.1
          dw := c.2 - c.1, dh := rows, n := 1, sw := (c.2 - c.1) * 256, sh := rows * 256
          stepH := unity, stepV := unity, initH := 0, initV := 0, scaled := false }] }
    else
      let cutL := decide (v.dx < ax.lo)
      let cutR := decide (ax.hi < v.dx + v.dw)
      let vf := marginOf vis (decide (v.dy < ay.lo)) (decide (ay.hi < v.dy + v.dh)) v.ch
      let n0 := decimationFor h.step
      let st0 := fitStripes h c.1 c.2 cutL cutR v.cw n0
      let many := match st0 with | none => true | some l => decide (1 < l.length)
      let pick : Nat × Option (List Stripe) :=
        if n0 = 1 && bitAt v.flags 2 && (Frac.ofNat 2).le h.step && many then
          match fitStripes h c.1 c.2 cutL cutR v.cw 2 with
          | some [x] => (2, some [x])
          | _ => (n0, st0)
        else (n0, st0)
      let n := pick.1
      let sh := ((w.step.mul (Frac.ofNat rows)).mul (Frac.ofNat 256)).round.toNat
      let initV := (((w.at0.add (w.step.mul (Frac.ofNat r.1))).sub (Frac.ofNat vf.1)).sub
        (Frac.mk' 1 2)).mul (Frac.ofNat unity)
      let mkCut := fun x : Stripe =>
        let dw := x.b - x.a
        let sw := ((h.step.mul (Frac.ofNat dw)).mul (Frac.ofNat 256)).round.toNat
        let pos := ((h.at0.add (h.step.mul (Frac.ofNat x.a))).sub (Frac.ofNat x.lo)).div (Frac.ofNat n)
        ({ fx := v.cx + x.lo, fy := v.cy + vf.1, fw := x.hi - x.lo, fh := vf.2 - vf.1, dx := x.a, dy := r.1
           dw := dw, dh := rows, n := n, sw := sw, sh := sh, stepH := scaleStep sw n dw
           stepV := scaleStep sh 1 rows
           initH := ((pos.sub (Frac.mk' 1 2)).mul (Frac.ofNat unity)).round
           initV := initV.round, scaled := true } : Cut)
      some { base with cuts := pick.2.map fun l => l.map mkCut }

end Sys2Proof.Machine
end

