-- ==== Sys2Proof/Machine/Smith.lean ====
section
/-! DEFINITION. Smith (R69-R95, R165, R170, R171, R200, R242, R251, R305, R310, R316): what each output and port
carries, the assignment of engines, costs, the placement of sources on channels and banks, admission, and the plan
with its report. -/

namespace Sys2Proof.Machine

set_option Elab.async false

/-! ### What an output asks of its port (R154, R170, R171, R251) -/

/-- Active width of an output. -/
def State.hactive (s : State) (o : Nat) : Nat := bits (s.reg 0x3400_06 o) 31 16
/-- Active height of an output. -/
def State.vactive (s : State) (o : Nat) : Nat := s.reg 0x3400_08 o

/-- Frame rate of an output in Hz (R101). -/
def State.frameRate (s : State) (o : Nat) : Frac :=
  Frac.mk' (s.divisor o * s.reg 0x2800_03 * second : Nat) (s.reg 0x2800_02)

/-- Pixel clock of an output in Hz (R154). -/
def State.pixelClock (s : State) (o : Nat) : Frac := (Frac.ofNat (s.htotal o * s.vtotal o)).mul (s.frameRate o)

/-- Line period of an output in ns (R101, R154). -/
def State.linePeriod (s : State) (o : Nat) : Frac :=
  Frac.mk' (s.reg 0x2800_02) (s.reg 0x2800_03 * s.divisor o * s.vtotal o)

/-- Bytes per pixel of an output's link (R165). -/
def State.linkBytes (s : State) (o : Nat) : Nat := if s.reg 0x3400_07 o = 8 then 3 else 4

/-- Planning payload rate of a rate code in bit/s (R212). -/
def planningRate (code : Nat) : Nat :=
  match code with
  | 0 => 2475000000 | 1 => 4950000000 | 2 => 9900000000 | 3 => 15840000000 | 4 => 24750000000 | _ => 31680000000

/-- The maximum rate code of a lane, by its quad's rate plan (R213). -/
def State.laneCeiling (s : State) (lane : Nat) : Nat :=
  let g := laneGroup lane
  let quad := (lane - 12 * g) / 4
  bits (s.reg 0x4008_05 g) (4 * quad + 3) (4 * quad)

/-- The lanes that a port's fields name (R242). -/
def State.portLanes (s : State) (p : Nat) : List Nat :=
  (List.range (s.reg 0x4400_04 p)).map (· + s.reg 0x4400_03 p)

/-- A port's configured maximum rate code: the lowest of its lanes' quads (R251; DEDUCED, log entry 21). -/
def State.portCeiling (s : State) (p : Nat) : Nat :=
  ((s.portLanes p).map s.laneCeiling).foldl min 5

/-- 0.98 × width × planning rate of a port in bit/s (R251). -/
def State.portCapacity (s : State) (p : Nat) : Frac :=
  Frac.mk' (98 * s.reg 0x4400_04 p * planningRate (s.portCeiling p) : Nat) 100

/-- Twice the bytes per pixel of a format, the planar ones included (R128, R196, R197). -/
def bytesPerTwo (fmt : Nat) : Nat :=
  match fmt with
  | 1 => 4 | 2 => 6 | 3 => 8 | 4 => 8 | 0x10 => 3 | 0x11 => 6 | 0x12 => 4 | 0x18 => 2 | 0x19 => 4 | 0x1A => 6
  | _ => 0

/-- Bytes of one line of the first plane of a format (R81, R197). -/
def lineBytes (fmt width : Nat) : Nat :=
  match fmt with
  | 1 => 2 * width | 2 => 3 * width | 3 => 4 * width | 4 => 4 * width | 0x10 => width | 0x11 => 2 * width
  | 0x12 => 2 * width | 0x18 => width | 0x19 => 2 * width | 0x1A => width | _ => 0

/-- Lines of all planes of a format (R196, R197). -/
def planeLines (fmt height : Nat) : Nat :=
  if fmt = 0x10 || fmt = 0x11 then height + height / 2 else if fmt = 0x1A then 3 * height else height

/-- Size of an Ingot: its lines at a stride that is a multiple of 64, rounded up to 4 KiB (R81, R197; the planar
formats DEDUCED, log entry 22). -/
def ingotSize (fmt width height : Nat) : Nat := roundUp (roundUp (lineBytes fmt width) 64 * planeLines fmt height) 4096

/-- Declared frame rate in Hz (R70). -/
def SrcRec.hz (r : SrcRec) : Frac := Frac.mk' r.rate 100

/-- Bytes per second of a source's frames (R82). -/
def SrcRec.bytesRate (r : SrcRec) : Frac :=
  (Frac.mk' (r.width * r.height * bytesPerTwo r.fmt : Nat) 2).mul r.hz

/-- Bits per second of a forwarded source on its port (R251). -/
def SrcRec.forwardBits (r : SrcRec) : Frac :=
  (Frac.ofNat ((ceilDiv' (r.width * r.height * bytesPerTwo r.fmt) 480 + 2) * 2048)).mul r.hz

/-- Bits per second of an output stream on its port (R251). -/
def State.streamBits (s : State) (o : Nat) : Frac :=
  (Frac.ofNat (ceilDiv' (s.hactive o * s.linkBytes o) 240 * 2048 * second)).div (s.linePeriod o)

/-- The enabled outputs. -/
def State.enabledOutputs (s : State) : List Nat := (List.range 32).filter fun o => s.flag 0x3400_02 o

/-- What a port is planned to carry: its output streams, the forwarded sources, and those of the port whose twin it is
(R251, R344). -/
def State.portUse (s : State) (p : Nat) (forwarded : List SrcRec) : Frac :=
  (Frac.sum ((s.enabledOutputs.filter fun o => s.reg 0x3400_03 o == 1 && s.reg 0x3400_04 o == p).map s.streamBits)).add
    (Frac.sum ((forwarded.filter fun r => r.upPort == p || (r.upPort < 24 && s.reg 0x5840_02 r.upPort == p)).map
      SrcRec.forwardBits))

/-- DisplayPort link rate in bit/s: RBR, HBR, HBR2, HBR3 (PRESUMED from DisplayPort 1.4a, log entry 23). -/
def dpRate (code : Nat) : Nat :=
  match code with
  | 0 => 1620000000 | 1 => 2700000000 | 2 => 5400000000 | _ => 8100000000

/-- Whether a DisplayPort link of a rate and lane count carries an output (R170). -/
def State.dpCarries (s : State) (o rate lanes : Nat) : Bool :=
  ((s.pixelClock o).mul (Frac.ofNat (3 * s.reg 0x3400_07 o))).le (Frac.mk' (lanes * dpRate rate * 8 * 63 : Nat) 640)

/-- Whether a DSI port carries an output (R171). -/
def State.dsiCarries (s : State) (o : Nat) : Bool :=
  let p := s.reg 0x3400_04 o
  (Frac.ofNat (s.hactive o * 3 * s.reg 0x3400_07 o + 512)).le
    (((Frac.ofNat (s.reg 0x3450_03 p * s.reg 0x3450_02 p)).mul ((s.linePeriod o).sub (Frac.ofNat 500))).div
      (Frac.ofNat 1000))

/-- Whether an output's egress port carries it (R85, R153, R170, R171, R251). -/
def State.egressCarries (s : State) (forwarded : List SrcRec) (o : Nat) : Bool :=
  let p := s.reg 0x3400_04 o
  match s.reg 0x3400_03 o with
  | 1 => (s.portUse p forwarded).le (s.portCapacity p)
  | 2 => p < 8 && s.dpCarries o (s.reg 0x3440_02 p) (s.reg 0x3440_03 p)
  | 3 | 4 => p < 4 && s.dsiCarries o
  | _ => false

/-! ### Engines (R85) -/

/-- The engines of 0-15 that have not failed and whose cluster is not in fault (R390). -/
def State.healthyEngines (s : State) : List Nat :=
  (List.range 16).filter fun e => s.reg 0x3420_02 e != 4 && !s.inFault (clusterDomain e)

/-- The scalers whose pool is not in fault, lowest first (R388, R390). -/
def State.scalers (s : State) : List Nat := (List.range 48).filter fun k => !s.inFault (10 + k / 24)

/-- The pipelines whose domain is not in fault (R388, R390). -/
def State.pipelines (s : State) : List Nat := (List.range 4).filter fun k => !s.inFault (12 + k / 2)

/-- 720 Mpix/s, the most that an engine composes (R26, R85). -/
def engineLimit : Frac := Frac.ofNat 720000000
/-- 360 Mpix/s, the most of a split stream (R26, R85). -/
def splitLimit : Frac := Frac.ofNat 360000000

/-- A list in pairs, the first with the second and so on; an odd one at the end is left out. -/
def inPairs : List Nat → List (Nat × Nat)
  | a :: b :: rest => (min a b, max a b) :: inPairs rest
  | _ => []

/-- The assignments that R85 makes of the outputs that take part: one output each, or a split pair. -/
def assignments (outs small : List Nat) (engines : Nat) : List (List Nat) :=
  let pairs := if outs.length ≤ engines then [] else inPairs (small.take (2 * (outs.length - engines)))
  let paired := pairs.flatMap fun p => [p.1, p.2]
  let single := outs.filter fun o => !paired.contains o
  let short := pairs.length + single.length - engines
  let kept := single.take (single.length - short)
  sortBy (fun a b => a.headD 0 < b.headD 0) (pairs.map (fun p => [p.1, p.2]) ++ kept.map fun o => [o])

/-- Output, engine and stream (0 whole, 1 first, 2 second) of every output that gets an engine (R85). -/
def State.assignEngines (s : State) : List (Nat × Nat × Nat) :=
  let outs := s.enabledOutputs.filter fun o => s.reg 0x3400_03 o != 0 && (s.pixelClock o).le engineLimit
  let small := sortBy (fun a b => (s.pixelClock a).lt (s.pixelClock b))
    (outs.filter fun o => (s.pixelClock o).le splitLimit)
  let healthy := s.healthyEngines
  ((assignments outs small healthy.length).zip healthy).flatMap fun (g, e) =>
    match g with
    | [a] => [(a, e, 0)]
    | [a, b] => [(a, e, 1), (b, e, 2)]
    | _ => []

/-- The engine and stream of an output in an assignment. -/
def engineOf (as : List (Nat × Nat × Nat)) (o : Nat) : Option (Nat × Nat) := as.findSome? fun (p, e, k) =>
  if p = o then some (e, k) else none

/-! ### Ceilings and capacity (R81, R83, R92, R293, R310, R329) -/

/-- 0.75 × 2 × the data rate in MB/s, to the nearest whole one: 12,800 at 8,533 MT/s (R310). -/
def rateCeiling (code : Nat) : Nat :=
  match code with
  | 0 => 4800 | 1 => 6399 | 2 => 8250 | 3 => 9600 | 4 => 11250 | _ => 12800

/-- The admission ceiling in force of a channel in MB/s, lowered by the underruns it has caused (R92, R310): an eighth
and a half of L:2400.07 in whole MB/s, rounded down (DESIGN CHOICE, log entry 156). -/
def State.ceiling (s : State) (c : Nat) : Nat :=
  let top := min (s.reg 0x2400_07) (rateCeiling (s.chan c).rate)
  let cut := Tbl.get 0 s.smith.lowered c * (s.reg 0x2400_07 / 8)
  min top (max (s.reg 0x2400_07 / 2) (top - cut))

/-- Ceiling of a Crucible bank in MB/s (R83). -/
def bankCeiling : Nat := 51200

/-- Usable bytes of a channel (R81, R293, R311). -/
def State.usableBytes (s : State) (c : Nat) : Nat := (s.chan c).density * 2 ^ 30 * 15 / 16

/-- Bytes of an output's two hold buffers; 0 where it keeps no hold copy (R167, R329). -/
def State.holdBytes (s : State) (o : Nat) : Nat :=
  if [2, 3, 4].contains (s.reg 0x3400_03 o) && s.flag 0x3400_17 o then
    roundUp (2 * s.hactive o * s.vactive o * 4) 4096
  else 0

/-- Whether a channel is in service, in self-refresh or not (R322, R324). -/
def State.chanInService (s : State) (c : Nat) : Bool := [2, 3].contains (s.reg 0x5400_02 c)

/-- Whether an evacuation under way has still to move the hold regions of a channel (R327 step 4). -/
def State.holdsStay (s : State) (c : Nat) : Bool := s.dram.evacuating == some c && !s.dram.moved

/-- The channel that holds an output's hold buffers: its number modulo 16, or once that channel has been left or is out of
service the next in service above it, counting cyclically (R167, R327; the way back DESIGN CHOICE, log entry 154). -/
def State.holdChannel (s : State) (o : Nat) : Nat :=
  let c := o % 16
  if (s.reg 0x5400_02 c = 4 && !s.holdsStay c) || [5, 6].contains (s.reg 0x5400_02 c) || (s.chan c).returning then
    (((List.range 15).map fun k => (c + 1 + k) % 16).find? fun k => s.chanInService k || s.holdsStay k).getD c
  else c

/-- The outputs whose hold buffers lie on a channel. -/
def State.holdOutputs (s : State) (c : Nat) : List Nat :=
  (List.range 32).filter fun o => s.holdBytes o != 0 && s.holdChannel o == c

/-- Where an output's hold buffers lie elsewhere than in an earlier state, what they held is no held frame any more: a whole
frame has to be copied there first (R327 step 4). -/
def State.dropMoved (s was : State) : State :=
  (List.range 32).foldl (fun (t : State) o =>
    if (s.output o).held.isSome && s.holdBytes o != 0 && s.holdChannel o != was.holdChannel o then t.setOutput o { t.output o with held := none }
    else t) s

/-- At the apply frame of an evacuation, the hold regions on its channel move (R327 step 4). -/
def State.moveHolds (s : State) : State :=
  if s.dram.evacuating.isNone then s else State.dropMoved { s with dram := { s.dram with moved := true } } s

/-- The hold region of a channel, L:5400.19 (R329). -/
def State.holdRegion (s : State) (c : Nat) : Nat := (s.holdOutputs c).foldl (fun acc o => acc + s.holdBytes o) 0

/-- Class A traffic of a channel's hold copies: those of enabled outputs (R167). -/
def State.holdTraffic (s : State) (c : Nat) : Frac :=
  Frac.sum (((s.holdOutputs c).filter fun o => s.flag 0x3400_02 o).map fun o => (Frac.ofNat (s.hactive o * s.vactive o * 4)).mul (s.frameRate o))

/-- The targets of the channel table: channels 0-15, then banks 0x80-0x87 (R90). -/
def memTargets : List Nat := List.range 16 ++ (List.range 8).map (· + 0x80)

/-- The device address at which a channel or bank starts (R293). -/
def targetBase (t : Nat) : Nat := if t < 16 then t * 2 ^ 32 else 0x8000000000 + (t - 0x80) * 0x800000

/-- The fabric's number of a memory target (R293). -/
def targetNumber (t : Nat) : Nat := if t < 16 then t else t - 0x80 + 16

/-- Whether placement may use a target: a channel in service, asleep or not, or a bank (R83). -/
def State.targetUsable (s : State) (t : Nat) : Bool :=
  if 16 ≤ t then !s.inFault 23 else [2, 3].contains (s.reg 0x5400_02 t)

/-- Bytes that a target offers to Ingots (R81, R326, R329). -/
def State.targetRoom (s : State) (t : Nat) : Nat :=
  if t < 16 then s.usableBytes t - s.holdRegion t else 0x800000

/-- The ceiling of a target in bytes per second (R83). -/
def State.targetCeiling (s : State) (t : Nat) : Nat := (if t < 16 then s.ceiling t else bankCeiling) * 1000000

/-! ### Costs (R82, R200) -/

/-- Bytes per pixel that a data type takes in raw staging (R179). -/
def stagingBytes (dt : Nat) : Nat := if dt = 0x2A then 1 else if dt = 0x24 then 3 else 2

/-- Bytes of one raw staging slot of a context (R186). -/
def State.rawSlot (s : State) (c : Nat) : Nat :=
  roundUp (s.reg 0x3840_06 c * s.reg 0x3840_07 c * stagingBytes (s.reg 0x3840_05 c)) 4096

/-- A source that placement must serve: its costs and the memory it takes (R81, R82). -/
structure Want where
  src : SrcRec
  a : Frac
  b : Frac
  count : Nat
  size : Nat
  extra : Nat
  deriving DecidableEq, Repr

/-- Bytes that a source's set takes of its target: its Ingots, and a camera's staging and statistics (R81, R200). -/
def Want.bytes (w : Want) : Nat := w.count * w.size + w.extra

/-- What the plain frames of a source cost, and a camera's raw traffic and statistics (R82, R200). -/
def State.wantOf (s : State) (r : SrcRec) : Want :=
  let up := if r.upPort = 0xFF then ({} : Frac) else r.bytesRate
  let base : Want :=
    { src := r, a := up, b := r.bytesRate, count := if r.ingots = 0 then s.reg 0x2400_08 else r.ingots
      size := ingotSize r.fmt r.width r.height, extra := 0 }
  if r.kind = 1 then
    let c := r.locator
    let px := s.reg 0x3840_06 c * s.reg 0x3840_07 c
    { base with
      b := r.hz.mul (Frac.mk' (4 * px * stagingBytes (s.reg 0x3840_05 c)
        + r.width * r.height * bytesPerTwo r.fmt + 16384 : Nat) 2)
      extra := 2 * s.rawSlot c + 4 * 8192 }
  else base

/-- The host record of a slot on this device. -/
def hostRec (recs : List SrcRec) (slot : Nat) : Option SrcRec := recs.find? fun r => r.slot == slot && r.kind == 3

/-- The coding and vision outputs of a context: format, scale and slot of each that is on (R196-R198). -/
def State.ispOutputs (s : State) (c : Nat) : List (Nat × Nat × Nat) :=
  (if s.reg 0x3840_10 c = 0 then [] else [(s.reg 0x3840_10 c, s.reg 0x3840_11 c, s.reg 0x3840_12 c)]) ++
  (if s.reg 0x3840_13 c = 0 then [] else [(s.reg 0x3840_13 c, s.reg 0x3840_14 c, s.reg 0x3840_15 c)])

/-- The sources that a view of a record brings in: its own, and a camera's coding and vision slots, whose frames come
at the camera's rate (R198, R200). The host slot of a writeback comes in only as a view's own source (DESIGN CHOICE, log
entry 159). -/
def State.wantsOf (s : State) (recs : List SrcRec) (r : SrcRec) : List Want :=
  s.wantOf r ::
    (if r.kind = 1 then
      (s.ispOutputs r.locator).filterMap fun (_, _, slot) =>
        (hostRec recs slot).map fun h => { s.wantOf h with b := ({ h with rate := r.rate } : SrcRec).bytesRate }
    else [])

/-- The output that a writeback of an engine captures (R143). -/
def writebackOutput (as : List (Nat × Nat × Nat)) (e stream : Nat) : Option Nat :=
  as.findSome? fun (o, e', k) =>
    if e' = e && (k = 0 || k = stream + 1) then some o else none

/-- Class B traffic of the writebacks that fill a slot (R146). -/
def State.writebackCost (s : State) (as : List (Nat × Nat × Nat)) (slot : Nat) : Frac :=
  Frac.sum ((List.range 16).map fun e =>
    if s.flag 0x3080_02 e && s.reg 0x3080_04 e == slot then
      match writebackOutput as e (s.reg 0x3080_03 e) with
      | some o => (Frac.ofNat (s.reg 0x3080_07 e * s.reg 0x3080_08 e * 4)).mul (s.frameRate o)
      | none => {}
    else {})

/-! ### Placing sources (R81, R83, R462) -/

/-- Where a source stands: its record's slot, target and first address, whether its old set is kept, and where a camera's rings
stand. -/
structure Spot where
  slot : Nat
  target : Nat
  base : Nat
  kept : Bool
  ring : Nat
  deriving DecidableEq, Repr

/-- The traffic placed so far: class A and class B by target, what is occupied, and the class A cost of each source on
each target. -/
structure Load where
  a : Tbl Frac := []
  b : Tbl Frac := []
  occ : List (Nat × Nat × Nat) := []
  costs : List (Nat × Frac) := []
  spots : List Spot := []
  deriving DecidableEq, Repr

/-- Planned traffic of a target. -/
def Load.total (l : Load) (t : Nat) : Frac := (Tbl.get Frac.zero l.a t).add (Tbl.get Frac.zero l.b t)

/-- The lowest address of a target at which `need` bytes lie clear of what is occupied and inside its room. A source's
whole set takes one stretch (R81 asks it of each Ingot only; DESIGN CHOICE, log entry 138). -/
def Load.gap (l : Load) (t need room : Nat) : Option Nat :=
  let base := targetBase t
  let occ := sortBy (fun x y : Nat × Nat => x.1 < y.1)
    ((l.occ.filter fun x => x.1 == t).map fun x => (x.2.1, x.2.2))
  let pos := occ.foldl (fun pos x => if pos + need ≤ x.1 then pos else max pos x.2) base
  if pos + need ≤ base + room then some pos else none

/-- The old set that a want keeps if it stays on its target (R462). -/
def keptBy (old : List (Nat × Source)) (w : Want) : Option Source :=
  (old.find? fun p => p.1 == w.src.slot).bind fun p =>
    let x := p.2
    if x.id = w.src.id && x.fmt = w.src.fmt && x.width = w.src.width && x.height = w.src.height &&
      x.ingotCount = w.count then some x else none

/-- The memory that a source holds: its Ingots, and a camera's rings (R81, R200). -/
def Source.stretches (x : Source) : List (Nat × Nat × Nat) :=
  match x.bases.head? with
  | none => []
  | some b => (x.target, b, b + x.ingotCount * x.size) ::
      (if x.ringSpan = 0 then [] else [(x.target, x.ringBase, x.ringBase + x.ringSpan)])

/-- Whether a source's class A cost exceeds a quarter of a channel's ceiling (R83). -/
def State.heavyOn (s : State) (t : Nat) (a : Frac) : Bool := (Frac.mk' (s.targetCeiling t) 4).lt a

/-- The target of least planned traffic of a list, the lower number in a tie. -/
def Load.least (l : Load) : List Nat → Option Nat
  | [] => none
  | t :: ts =>
    match Load.least l ts with
    | none => some t
    | some u => if (l.total u).lt (l.total t) then some u else some t

/-- Place one source, or none where it fits nowhere: a set that is kept stays, and its rings with it unless they have grown (R81, R83,
R200, R462). -/
def State.placeOne (s : State) (old : List (Nat × Source)) (l : Load) (w : Want) : Option Load :=
  let keep := keptBy old w
  let fresh := fun t : Nat => (l.gap t w.bytes (s.targetRoom t)).map fun b => (b, b + w.count * w.size)
  let at' := fun t : Nat =>
    match keep with
    | some x =>
      if x.target != t then fresh t
      else x.bases.head?.bind fun b =>
        if w.extra ≤ x.ringSpan then some (b, x.ringBase) else (l.gap t w.extra (s.targetRoom t)).map fun r => (b, r)
    | none => fresh t
  let fits := memTargets.filter fun t => s.targetUsable t && (at' t).isSome
  let banks := if w.src.memory = 2 && w.size ≤ 0x800000 then fits.filter (16 ≤ ·) else []
  let chans := fits.filter (· < 16)
  let lone := chans.filter fun t => !(s.heavyOn t w.a && l.costs.any fun c => c.1 == t && s.heavyOn t c.2)
  let pick := if !banks.isEmpty then l.least banks else if !lone.isEmpty then l.least lone else l.least chans
  match pick with
  | none => none
  | some t =>
    match at' t with
    | none => none
    | some (base, ring) =>
      let kept := match keep with | some x => x.target == t | none => false
      let grown := match keep with | some x => decide (x.ringSpan < w.extra) | none => false
      some {
        a := Tbl.put l.a t ((Tbl.get Frac.zero l.a t).add w.a)
        b := Tbl.put l.b t ((Tbl.get Frac.zero l.b t).add w.b)
        occ := if !kept then (t, base, base + w.bytes) :: l.occ
               else if grown then (t, ring, ring + w.extra) :: l.occ else l.occ
        costs := (t, w.a) :: l.costs
        spots := { slot := w.src.slot, target := t, base := base, kept := kept, ring := ring } :: l.spots }

/-- Heaviest first by total cost, equal sources in source-ID order (R83). -/
def Want.before (x y : Want) : Bool :=
  let cx := x.a.add x.b
  let cy := y.a.add y.b
  cy.lt cx || (cx == cy && x.src.id < y.src.id)

/-- The load before any source: the hold copies' traffic, and the memory of the sets of the plan in force (R81, R167,
R462). -/
def State.baseLoad (s : State) (old : List (Nat × Source)) : Load :=
  { a := (List.range 16).map fun c => (c, s.holdTraffic c)
    occ := old.flatMap fun p => p.2.stretches }

/-- Place a list of sources, in R83's order. -/
def State.placeAll (s : State) (old : List (Nat × Source)) (ws : List Want) : Option Load :=
  (sortBy Want.before ws).foldl (fun l w => l.bind fun l => s.placeOne old l w) (some (s.baseLoad old))

/-- Whether the Ingot table has the entries that the sets not kept need (R81). -/
def entriesFit (old : List (Nat × Source)) (ws : List Want) (l : Load) : Bool :=
  let held := old.foldl (fun acc p => acc + p.2.ingotCount) 0
  let need := ws.foldl (fun acc w =>
    acc + (if l.spots.any fun x => x.slot == w.src.slot && x.kept then 0 else w.count)) 0
  held + need ≤ ingotCount

/-- Checks 5 and 6 of admission: the code's value or the placement (R81, R83, R88). -/
def State.placeChecked (s : State) (old : List (Nat × Source)) (ws : List Want) : Nat ⊕ Load :=
  match s.placeAll old ws with
  | none => .inl 0x0F
  | some l =>
    if !entriesFit old ws l then .inl 0x0F
    else if memTargets.all fun t => (l.total t).le (Frac.ofNat (s.targetCeiling t)) then .inr l
    else .inl 0x0E

/-! ### Structural checks of a view (R69, R71, R73, R79, R85, R88) -/

/-- Whether a role includes the edge (R5, R22). -/
def State.edgeRole (s : State) : Bool := s.reg 0x1000_05 == 2 || s.reg 0x1000_05 == 3

/-- Whether a source's record is refused with PL-0x05: its block is absent from the role, its context is not enabled,
no enabled port is one that its stream may arrive on, its format is none that layers read, or a size differs from the
context's (R71, R128, R195, R198; a stream is configured by its port, DEDUCED, log entry 133). -/
def State.sourceBad (s : State) (recs : List SrcRec) (r : SrcRec) : Bool :=
  !(1 ≤ r.fmt && r.fmt ≤ 4) ||
  (r.kind == 2 &&
    !(List.range 24).any fun p => s.flag 0x4400_02 p &&
      (s.reg 0x4410_02 r.slot == 0xFF || s.reg 0x4410_02 r.slot == p)) ||
  (r.kind == 1 &&
    (let c := r.locator
     let d := s.reg 0x3840_0F c
     !s.edgeRole || !s.flag 0x3840_02 c ||
     r.width != s.reg 0x3840_06 c / d || r.height != s.reg 0x3840_07 c / d ||
     (s.ispOutputs c).any fun (_, scale, slot) =>
       match hostRec recs slot with
       | none => true
       | some h => h.width != s.reg 0x3840_06 c / scale || h.height != s.reg 0x3840_07 c / scale))

/-- The code value that a screen of this device gives every view that touches it; 0 for none (R69, R85, R88). An output
without an egress, which R85 gives both PL-0x12 and PL-0x13, answers PL-0x13 (DEDUCED, log entry 142). -/
def State.screenCode (s : State) (as : List (Nat × Nat × Nat)) (recs : List SrcRec) (x : Screen) : Nat :=
  let o := x.output
  if x.px != s.hactive o || x.py != s.vactive o then 0x11
  else if !s.flag 0x3400_02 o then 0x12
  else if s.reg 0x3400_03 o = 0 then 0x13
  else if (engineOf as o).isNone then 0x12
  else if !s.egressCarries recs o then 0x13
  else 0

/-- The least nonzero number of a list, or 0. -/
def leastCode (xs : List Nat) : Nat := (xs.filter (· != 0)).foldl (fun m x => if m = 0 then x else min m x) 0

/-- A view of this device as admission treats it: its record, source, pieces and code (0 while it stands). -/
structure Cand where
  view : View
  src : Option SrcRec
  pieces : List Piece
  code : Nat
  readA : Frac := {}
  withdrawn : Bool := false
  deriving DecidableEq, Repr

/-- The candidate of a view; none where it does not belong to this device (R74, R88 step 1). -/
def State.candidate (s : State) (as : List (Nat × Nat × Nat)) (sc : Scene) (member : Nat) (v : View) : Option Cand :=
  let mine := (sc.screens.filter fun x => x.device == member).filter fun x => (v.cover x).isSome
  if mine.isEmpty then none
  else
    let recs := sc.sources.filter fun r => r.device == member
    let src := recs.find? fun r => r.id == v.source
    let pieces := mine.filterMap fun x => v.piece sc.screens x
    let code :=
      if v.bad then 0x08
      else if v.budget != 0 && (v.budget < 1000 || 10000000 < v.budget) then 0x0A
      else
        match src with
        | none => 0x04
        | some r =>
          if s.sourceBad recs r then 0x05
          else if r.width < v.cx + v.cw || r.height < v.cy + v.ch then 0x07
          else if pieces.any fun p => !p.ratioOk then 0x09
          else leastCode (mine.map (s.screenCode as recs))
    some { view := v, src := src, pieces := pieces, code := code }

/-! ### Admission (R20, R80-R88) -/

/-- What has been admitted: sources, layers by engine, scalers, and the placement. -/
structure Admitted where
  wants : List Want := []
  layers : Tbl Nat := []
  scalers : Nat := 0
  load : Load := {}
  deriving DecidableEq, Repr

/-- Class A traffic of one cut on an output: its fetched width rounded up to 64 bytes, times its lines, times the
output's frame rate (R82). -/
def State.cutCost (s : State) (fmt o : Nat) (c : Cut) : Frac :=
  (Frac.ofNat (roundUp (c.fw * pixelBytes fmt) 64 * c.fh)).mul (s.frameRate o)

/-- The layers that a list of pieces takes on each engine. -/
def layersOn (as : List (Nat × Nat × Nat)) (ps : List Piece) (e : Nat) : Nat :=
  ps.foldl (fun acc p =>
    acc + (match engineOf as p.output with
      | some (e', _) => if e' = e then (match p.cuts with | some cs => cs.length | none => 0) else 0
      | none => 0)) 0

/-- Whether the camera sources of a list of wants fit the pipelines (R87). -/
def State.camerasFit (s : State) (ws : List Want) : Bool :=
  let cams := ws.filter fun w => w.src.kind == 1
  let px := fun w : Want => (Frac.ofNat (w.src.width * w.src.height)).mul w.src.hz
  !s.edgeRole ||
  ((Frac.sum (cams.map px)).le (Frac.ofNat (1200000000 * s.pipelines.length)) && cams.all fun w => (px w).le (Frac.ofNat 1200000000))

/-- Add a cost to the source of a slot. -/
def addRead (slot : Nat) (x : Frac) (ws : List Want) : List Want :=
  ws.map fun w => if w.src.slot = slot then { w with a := w.a.add x } else w

/-- Try one view against what is admitted: its code's value, or what is then admitted (R88 step 4). A writeback is costed with
the source that its slot brings in, and brings none in itself (DESIGN CHOICE, log entry 159). -/
def State.tryView (s : State) (as : List (Nat × Nat × Nat)) (recs : List SrcRec) (old : List (Nat × Source))
    (ad : Admitted) (c : Cand) : Nat ⊕ (Admitted × Frac) :=
  match c.src with
  | none => .inl 0x04
  | some r =>
    let fresh := (s.wantsOf recs r).filter fun w => !(ad.wants.any fun x => x.src.slot == w.src.slot)
    let fresh := fresh.map fun w => { w with b := w.b.add (s.writebackCost as w.src.slot) }
    let ws := ad.wants ++ fresh
    let engines := List.range 16
    let cuts := c.pieces.flatMap fun p => (p.cuts.getD []).map fun k => (p.output, k)
    let scaled := countTrue (fun x : Nat × Cut => x.2.scaled) cuts
    if 40 < ws.length then .inl 0x06
    else if !s.camerasFit ws then .inl 0x10
    else if engines.any fun e => 24 < Tbl.get 0 ad.layers e + layersOn as c.pieces e then .inl 0x0C
    else if s.scalers.length < ad.scalers + scaled || c.pieces.any fun p => p.cuts.isNone then .inl 0x0D
    else
      let cost := Frac.sum (cuts.map fun (o, k) => s.cutCost r.fmt o k)
      let ws := addRead r.slot cost ws
      match s.placeChecked old ws with
      | .inl code => .inl code
      | .inr l =>
        .inr ({ wants := ws
                layers := engines.map fun e => (e, Tbl.get 0 ad.layers e + layersOn as c.pieces e)
                scalers := ad.scalers + scaled
                load := l }, cost)

/-- Priority first, then view ID (R88 step 2). -/
def Cand.before (x y : Cand) : Bool :=
  x.view.prio < y.view.prio || (x.view.prio == y.view.prio && x.view.id < y.view.id)

/-- Admit the candidates in order; the first 512 that stand are tried (R88 steps 3 and 4). -/
def State.admission (s : State) (as : List (Nat × Nat × Nat)) (recs : List SrcRec) (old : List (Nat × Source)) :
    Admitted → Nat → List Cand → Admitted × List Cand
  | ad, _, [] => (ad, [])
  | ad, n, c :: cs =>
    if c.code != 0 then
      let r := State.admission s as recs old ad n cs
      (r.1, c :: r.2)
    else if 512 ≤ n then
      let r := State.admission s as recs old ad (n + 1) cs
      (r.1, { c with code := 0x0B } :: r.2)
    else
      match s.tryView as recs old ad c with
      | .inl code =>
        let r := State.admission s as recs old ad (n + 1) cs
        (r.1, { c with code := code } :: r.2)
      | .inr (ad', cost) =>
        let r := State.admission s as recs old ad' (n + 1) cs
        (r.1, { c with readA := cost } :: r.2)

/-! ### The plan's fields (R76, R93, R140, R149, R305, R316) -/

/-- The factory band of a step (R140). -/
def bandOf (step : Nat) : Nat := if step ≤ 1048576 then 0 else if step ≤ 2097152 then 1 else if step ≤ 4194304 then 2 else 3

/-- Whether a table holds coefficients: a factory table, or one that has been loaded (R140, R142). -/
def State.tableLoaded (s : State) (t : Nat) : Bool := factoryTable t || !(s.blob 0x3040_02 t).isEmpty

/-- The table that Smith selects for a step: the band's override where it names a loaded table, else the factory
table (R140). -/
def State.bandTable (s : State) (vertical : Bool) (step : Nat) : Nat :=
  let b := bandOf step
  let o := s.reg ((if vertical then 0x3040_0C else 0x3040_08) + b)
  if o != 0xFF && s.tableLoaded o then o else if vertical then 16 + b else b

/-- A layer that the plan places: its order, engine, split stream and fields. -/
structure PlanLayer where
  z : Nat
  vid : Nat
  engine : Nat
  output : Nat
  scaled : Bool
  fields : List (Nat × Val)
  deriving DecidableEq, Repr

/-- The fields common to every layer of a plan. -/
def layerBase (index split dx dy dw dh : Nat) (name : Bytes) : List (Nat × Val) :=
  [(0x3000_03, .num 1), (0x3000_04, .num (if split = 2 then 1 else 0)), (0x3000_0E, .num dx), (0x3000_0F, .num dy),
   (0x3000_10, .num dw), (0x3000_11, .num dh), (0x3000_1F, .bytes name), (0x3000_20, .num index)]

/-- The fields of a layer that shows one cut of a view. -/
def State.cutFields (s : State) (v : View) (r : SrcRec) (c : Cut) : List (Nat × Val) :=
  [(0x3000_06, .num r.slot), (0x3000_08, .num r.fmt), (0x3000_09, .num (lineStride r.width (pixelBytes r.fmt))),
   (0x3000_0A, .num c.fx), (0x3000_0B, .num c.fy), (0x3000_0C, .num c.fw), (0x3000_0D, .num c.fh),
   (0x3000_12, .num v.alpha), (0x3000_13, .num (v.flags % 2)), (0x3000_15, .num c.n), (0x3000_16, .num c.sw),
   (0x3000_17, .num c.sh), (0x3000_18, .num c.stepH), (0x3000_19, .num c.stepV),
   (0x3000_1A, .num (ofSigned 32 c.initH)), (0x3000_1B, .num (ofSigned 32 c.initV)), (0x3000_1E, .num v.budget)] ++
  (if c.scaled then [(0x3000_1C, .num (s.bandTable false c.stepH)), (0x3000_1D, .num (s.bandTable true c.stepV))]
   else [])

/-- The layers of an admitted view. -/
def State.viewLayers (s : State) (as : List (Nat × Nat × Nat)) (index : Nat) (c : Cand) : List PlanLayer :=
  match c.src with
  | none => []
  | some r =>
    c.pieces.flatMap fun p =>
      match engineOf as p.output with
      | none => []
      | some (e, k) => (p.cuts.getD []).map fun x =>
          { z := c.view.z, vid := c.view.id, engine := e, output := p.output, scaled := x.scaled
            fields := layerBase index k x.dx x.dy x.dw x.dh r.name ++ s.cutFields c.view r x }

/-- The veil-only layers of a withdrawn view, while its outputs have an engine and a free layer (R93). -/
def veilLayers (as : List (Nat × Nat × Nat)) (index : Nat) (c : Cand) (used : Tbl Nat) :
    List PlanLayer × Tbl Nat :=
  c.pieces.foldl (fun acc p =>
    match engineOf as p.output with
    | none => acc
    | some (e, k) =>
      let n := Tbl.get 0 acc.2 e
      if 24 ≤ n then acc
      else
        let x : PlanLayer :=
          { z := c.view.z, vid := c.view.id, engine := e, output := p.output, scaled := false
            fields := layerBase index k p.dx p.dy p.dw p.dh ((c.src.map (·.name)).getD []) ++
              [(0x3000_06, .num 0xFE)] }
        (acc.1 ++ [x], Tbl.put acc.2 e (n + 1))) ([], used)

/-- Whether one layer stacks beneath another: z-order, then view ID (R76). -/
def PlanLayer.below (x y : PlanLayer) : Bool := x.z < y.z || (x.z == y.z && x.vid < y.vid)

/-- Number the layers of each engine from the bottom and its scalers from the lowest free one (R76; DESIGN CHOICE,
log entry 24). -/
def stageLayers (scalers : List Nat) (ls : List PlanLayer) : List Staged :=
  let go := fun (acc : List Staged × Nat) (e : Nat) =>
    let mine := sortBy PlanLayer.below (ls.filter fun x => x.engine == e)
    (mine.zipIdx).foldl (fun (acc : List Staged × Nat) (x, i) =>
      let inst := e * 24 + i
      let fs := x.fields.map fun f => ({ key := f.1, inst := inst, v := f.2 } : Staged)
      let pos : Staged := { key := 0x3000_05, inst := inst, v := .num i }
      if x.scaled then (acc.1 ++ fs ++ [pos, { key := 0x3000_14, inst := inst, v := .num (scalers.getD acc.2 0xFF) }], acc.2 + 1)
      else (acc.1 ++ fs ++ [pos], acc.2)) acc
  ((List.range 16).foldl go ([], 0)).1

/-- Class A read that an engine plans from a target. -/
def State.engineRead (s : State) (as : List (Nat × Nat × Nat)) (l : Load) (cs : List Cand) (e t : Nat) : Frac :=
  Frac.sum (cs.flatMap fun c =>
    match c.src with
    | some r =>
      if c.code = 0 && l.spots.any fun x => x.slot == r.slot && x.target == t then
        c.pieces.flatMap fun p =>
          match engineOf as p.output with
          | some (e', _) => if e' = e then (p.cuts.getD []).map (s.cutCost r.fmt p.output) else []
          | none => []
      else []
    | none => [])

/-- Class A traffic that a master port plans to a target: engines, egress hold copies, forwarding transmitters
(R82, R167, R294). -/
def State.portRead (s : State) (as : List (Nat × Nat × Nat)) (l : Load) (ws : List Want) (cs : List Cand)
    (port t : Nat) : Frac :=
  if port < 18 then s.engineRead as l cs port t
  else if port < 20 then
    Frac.sum ((List.range 16).map fun k =>
      let o := k + 16 * (port - 18)
      if t < 16 && s.holdBytes o != 0 && s.holdChannel o == t then
        (Frac.ofNat (s.hactive o * s.vactive o * 4)).mul (s.frameRate o)
      else {})
  else if port < 24 then
    Frac.sum ((ws.filter fun w => w.src.upPort < 24 && s.reg 0x4400_03 w.src.upPort / 12 == port - 20 &&
      l.spots.any fun x => x.slot == w.src.slot && x.target == t).map fun w => w.src.bytesRate)
  else {}

/-- The priorities that R305 gives the engine ports at a target: 15 to 12 for the four that read most. -/
def rankPriority (reads : List (Nat × Frac)) (port : Nat) : Nat :=
  let order := (sortBy (fun x y : Nat × Frac => y.2.lt x.2) reads).map Prod.fst
  match order.idxOf? port with
  | some i => if i < 4 then 15 - i else 12
  | none => portPriority port

/-- The master that a target parks on: the port with the largest planned class A traffic, 41 with none (R305). -/
def parkOn (reads : List (Nat × Frac)) : Nat :=
  ((reads.foldl (fun (best : Nat × Frac) x => if best.2.lt x.2 then x else best) (41, {})) : Nat × Frac).1

/-- Whether a Swage receiver takes what a stream writes (R249): one bound to any port counts at each (DESIGN CHOICE, log
entry 25). -/
def State.receives (s : State) (slot port : Nat) : Bool :=
  s.reg 0x4410_02 slot == 0xFF || s.reg 0x4400_03 (s.reg 0x4410_02 slot) / 12 == port - 24

/-- Planned class B write rate of a Swage receiver or camera port group (R316): a stream bound to any port counts on
every receiver (DESIGN CHOICE, log entry 25). -/
def State.ingressRate (s : State) (ws : List Want) (port : Nat) : Frac :=
  Frac.sum (ws.map fun w =>
    if port < 28 then
      if w.src.kind = 2 && s.receives w.src.slot port then w.src.bytesRate else {}
    else if w.src.kind = 1 && s.reg 0x3840_03 w.src.locator / 4 = port - 28 then
      let c := w.src.locator
      w.src.hz.mul (Frac.ofNat (s.reg 0x3840_06 c * s.reg 0x3840_07 c * stagingBytes (s.reg 0x3840_05 c)))
    else {})

/-- The latency target of an ingress port in µs: its buffer ÷ rate ÷ 2, clipped to 10-100 (R316). -/
def State.ingressLatency (s : State) (ws : List Want) (port : Nat) : Nat :=
  let r := s.ingressRate ws port
  if r.n = 0 then 100
  else max 10 (min 100 ((((Frac.ofNat (262144 + Config.inputBufferExtra)).mul (Frac.ofNat 1000000)).div
    (r.mul (Frac.ofNat 2))).floor.toNat))

/-- The fabric and latency fields of a plan that differ from their defaults (R305, R316). -/
def State.fabricFields (s : State) (as : List (Nat × Nat × Nat)) (l : Load) (ws : List Want) (cs : List Cand) :
    List Staged :=
  let reads := memTargets.map fun t => (List.range 24).map fun p => (p, s.portRead as l ws cs p t)
  let engines := reads.map fun r => r.take 18
  let nib := fun (rs : List (List (Nat × Frac))) (p : Nat) =>
    (rs.zipIdx).foldl (fun acc (r, i) => acc + rankPriority r p * 16 ^ i) 0
  ((List.range 18).flatMap fun p =>
    [({ key := 0x5010_02, inst := p, v := .num (nib (engines.take 16) p) } : Staged),
     { key := 0x5010_03, inst := p, v := .num (nib (engines.drop 16) p) }]) ++
  ((reads.zipIdx).map fun (r, i) => ({ key := 0x5018_02, inst := i, v := .num (parkOn r) } : Staged)) ++
  ((List.range 8).flatMap fun k =>
    let v := s.ingressLatency ws (24 + k)
    if v = 100 then []
    else (List.range 24).map fun t => ({ key := 0x5408_02, inst := (24 + k) * 24 + t, v := .num v } : Staged))

/-- The writeback entries that placement stores in the plan, of every engine (R146): those that hold a value; the others
stand at their defaults. -/
def State.writebackFields (s : State) : List Staged :=
  s.regs.filterMap fun p =>
    let key := p.1 / 65536
    if 0x3080_02 ≤ key && key ≤ 0x3080_09 then some { key := key, inst := p.1 % 65536, v := .num p.2 } else none

/-- A placed source as the plan binds it (R81, R462). -/
def sourceOf (w : Want) (x : Spot) : Source :=
  let r := w.src
  { id := r.id, kind := r.kind, fmt := r.fmt, rate := r.rate, locator := r.locator, width := r.width
    height := r.height, name := r.name, ingotCount := w.count, memory := r.memory, upPort := r.upPort
    upStream := r.upStream, target := x.target, bases := (List.range w.count).map fun i => x.base + i * w.size
    size := w.size, span := w.bytes, ringBase := x.ring, ringSpan := w.extra }

/-- The sources of a plan by slot. -/
def planSources (ad : Admitted) : List (Nat × Source) :=
  sortBy (fun a b : Nat × Source => a.1 < b.1) (ad.wants.filterMap fun w =>
    (ad.load.spots.find? fun x => x.slot == w.src.slot).map fun x => (w.src.slot, sourceOf w x))

/-- The statistics ring of each camera context (R200, R201). -/
def statFields (srcs : List (Nat × Source)) : List Staged :=
  srcs.filterMap fun p =>
    if p.2.kind = 1 then
      some { key := 0x3840_1F, inst := p.2.locator
             v := .num p.2.ringBase }
    else none

/-! ### The plan report (R90) -/

/-- The header of a plan report. -/
def reportHeader (slot result code outs views refused layers scalers engines tag epoch timeUs : Nat) : Bytes :=
  beBytes 4 0x44515052 ++ beBytes 2 1 ++ beBytes 1 slot ++ beBytes 1 result ++ beBytes 1 code ++ beBytes 1 outs ++
  beBytes 2 views ++ beBytes 2 refused ++ beBytes 2 layers ++ beBytes 1 scalers ++ beBytes 1 engines ++
  beBytes 2 0 ++ beBytes 4 tag ++ beBytes 4 epoch ++ beBytes 4 timeUs

/-- One channel entry. -/
def State.channelEntry (s : State) (l : Load) (t : Nat) : Bytes :=
  beBytes 1 t ++ beBytes 1 (countTrue (fun x : Spot => x.target == t) l.spots) ++ beBytes 2 0 ++
  beBytes 8 (Tbl.get Frac.zero l.a t).ceilNat ++ beBytes 8 (Tbl.get Frac.zero l.b t).ceilNat ++
  beBytes 4 (s.targetCeiling t / 1000000)

/-- One view entry. -/
def viewEntry (l : Load) (index : Option Nat) (layers scalers : Nat) (c : Cand) : Bytes :=
  let ok := c.code = 0
  let loc := if ok then
      ((c.src.bind fun r => (l.spots.find? fun x => x.slot == r.slot).map (·.target)).getD 0xFF) else 0xFF
  beBytes 2 c.view.id ++ beBytes 2 (index.getD 0xFFFF) ++
  beBytes 1 (if ok then 0 else if c.withdrawn then 2 else 1) ++ beBytes 1 c.code ++ beBytes 1 layers ++
  beBytes 1 (if ok then scalers else 0) ++ beBytes 2 (index.getD 0xFFFF) ++ beBytes 1 loc ++ beBytes 1 0 ++
  beBytes 4 (if ok then (c.readA.div (Frac.ofNat 1000)).ceilNat else 0)

/-- One output entry, its rate rounded down (R90 gives no rounding; DESIGN CHOICE, log entry 143). -/
def State.outputEntry (s : State) (ls : List PlanLayer) (x : Nat × Nat × Nat) : Bytes :=
  beBytes 1 x.1 ++ beBytes 1 x.2.1 ++ beBytes 1 x.2.2 ++
  beBytes 1 (countTrue (fun y : PlanLayer => y.output == x.1) ls) ++
  beBytes 4 ((s.pixelClock x.1).div (Frac.ofNat 1000)).floor.toNat

/-! ### A placement (R66-R93) -/

/-- The state as placement reads it: the enables of outputs and the writeback entries from the shadow (R85, R146), with
them what makes a context or a stream configured (DEDUCED, log entry 26), and hold regions where the plan will have them
(R327 step 4). -/
def State.placementView (s : State) : State :=
  s.shadow.foldl (fun t p =>
    let key := p.1 / 65536
    let inst := p.1 % 65536
    if [0x3400_02, 0x3840_02, 0x4400_02, 0x4410_02].contains key || (0x3080_02 ≤ key && key ≤ 0x3080_09) then
      t.setActive key inst p.2.v
    else t) { s with dram := { s.dram with moved := true } }

/-- The report of a scene that is refused whole (R66, R90): its channel entries show all 24 targets with what the hold copies
put there, and no source (DESIGN CHOICE, log entry 157). -/
def State.refusalReport (s : State) (slot code tag timeUs : Nat) : Bytes :=
  let l := s.baseLoad []
  reportHeader slot 2 code 0 0 0 0 0 0 tag (s.reg 0x2400_0A) timeUs ++ memTargets.flatMap (s.channelEntry l)

/-- Place a scene: the value of the code that refuses it whole with its report, or the plan (R66-R93). In an automatic
re-plan, `before` lists the views of the plan in force, which are withdrawn where refused; one that an earlier re-plan has
withdrawn counts as in that plan, and stays withdrawn (DESIGN CHOICE, log entry 158). -/
def State.smithPlan (s0 : State) (scene : Bytes) (slot timeUs : Nat) (auto : Bool) : (Nat × Bytes) ⊕ Plan :=
  match parseScene scene with
  | .inl code => .inl (code, s0.refusalReport slot code (sceneTag scene) timeUs)
  | .inr sc =>
    let s := s0.placementView
    let member := s.reg 0x2400_09
    let as := s.assignEngines
    let recs := sc.sources.filter fun r => r.device == member
    let old := s.sources
    let cands := sc.views.filterMap (s.candidate as sc member)
    let r := s.admission as recs old { load := s.baseLoad old } 0 (sortBy Cand.before cands)
    let ad := r.1
    let before := match s.plan with | some p => p.views.map Prod.snd | none => []
    let all := r.2.map fun c =>
      if auto && c.code != 0 && before.contains c.view.id then { c with code := 0x17, withdrawn := true } else c
    let adm := all.filter fun c => c.code == 0
    let wd := sortBy (fun x y : Cand => y.view.prio < x.view.prio ||
      (x.view.prio == y.view.prio && y.view.id < x.view.id)) (all.filter (·.withdrawn))
    let listed := adm ++ wd
    let idx := fun vid : Nat => listed.findIdx? fun c => c.view.id == vid
    let ls1 := adm.flatMap fun c => s.viewLayers as ((idx c.view.id).getD 0) c
    let ls2 := (wd.foldl (fun (acc : List PlanLayer × Tbl Nat) c =>
      let v := veilLayers as ((idx c.view.id).getD 0) c acc.2
      (acc.1 ++ v.1, v.2)) ([], ad.layers)).1
    let ls := ls1 ++ ls2
    let srcs := planSources ad
    let order := cands.filterMap fun c => all.find? fun x => x.view.id == c.view.id
    let engines := (List.range 16).filter fun e => as.any fun x => x.2.1 == e
    let refused := countTrue (fun c : Cand => c.code != 0) all
    let report :=
      reportHeader slot (if refused = 0 then 0 else 1) 0 as.length all.length refused ls.length
        (countTrue (·.scaled) ls) engines.length sc.tag (s.reg 0x2400_0A) timeUs ++
      (order.flatMap fun c =>
        let mine := ls.filter fun x => x.vid == c.view.id
        viewEntry ad.load (idx c.view.id) mine.length (countTrue (·.scaled) mine) c) ++
      memTargets.flatMap (s.channelEntry ad.load) ++
      (sortBy (fun a b : Nat × Nat × Nat => a.1 < b.1) as).flatMap (s.outputEntry ls)
    .inr {
      scene := scene, tag := sc.tag, epoch := s.reg 0x2400_0A, report := report
      fields := stageLayers s.scalers ls ++ s.fabricFields as ad.load ad.wants all ++ s.writebackFields ++ statFields srcs
      sources := srcs, engines := as
      views := listed.zipIdx.map fun (c, i) => (i, c.view.id)
      withdrawn := wd.map fun c => c.view.id }

/-! ### Requests (R89, R91, R92) -/

/-- A write of L:2400.02: start a placement (R89). The range admits 0-3 and 0x10. One that meets an automatic or start-up
placement is refused as well, though L:2400.03 does not show those (DEDUCED, log entry 139). -/
def placeOp : WriteOp := fun s _ _ v =>
  if s.smith.placing != .idle || s.reg 0x2400_03 = 1 then (s, .no (pl 0x14))
  else
    let scene := s.blob 0x2400_01
    let p : Placing := if v.n = 0x10 then .dry scene else .host v.n scene
    ({ s with smith := { s.smith with placing := p, inputs := s.shadow } }.setReg 0x2400_03 0 1, .ok)

/-- The result of a host placement in the entries that report it (R89, R90). -/
def State.placementResult (s : State) (status code : Nat) (report : Bytes) : State :=
  ((s.setReg 0x2400_03 0 status).setReg 0x2400_04 0 code).setBlob 0x2400_05 0 report

/-- The plan in force is held apart from the slots when its slot takes another plan (R91). -/
def State.holdApart (s : State) (slot : Nat) : State :=
  if s.planSlot = slot then
    { s with planSlot := 0xFE }.setBlob 0x2410_05 0 (match s.plan with | some p => p.report | none => [])
  else s

/-- A placement into a slot has ended: the slot holds the plan and its scene (R89, R91). -/
def State.storePlan (s : State) (slot : Nat) (p : Plan) : State :=
  let s1 := s.holdApart slot
  { s1 with smith := { s1.smith with slots := Tbl.put s1.smith.slots slot p } }.setBlob (0x2410_01 + slot) 0 p.report

/-- The plan in force as L:2400.0B reads (R91). -/
def State.planInForce (s : State) : Nat := if s.plan.isNone then 0xFF else s.planSlot

/-- A write of L:2410.09: empty a slot (R91). -/
def emptySlotOp : WriteOp := fun s _ _ v =>
  if s.planInForce = v.n then (s, .no (pl 0x18))
  else
    ({ s with smith := { s.smith with slots := Tbl.erase s.smith.slots v.n } }.setBlob (0x2410_01 + v.n) 0 [], .ok)

/-- The resource epoch advances (R91). -/
def State.advanceEpoch (s : State) : State := s.setReg 0x2400_0A 0 ((s.reg 0x2400_0A + 1) % 2 ^ 32)

end Sys2Proof.Machine
end

