-- ==== Sys2Proof/Machine/Instants.lean ====
section
/-! DEFINITION. The instants of an output's frame (R101, R102, R154-R156), and the outputs that run. -/

namespace Sys2Proof.Machine

set_option Elab.async false

/-- The outputs that run. -/
def State.runningOutputs (s : State) : List Nat := (List.range 32).filter fun o => (s.output o).running

/-! ### Instants of a frame (R101, R102, R154-R156) -/

/-- An instant of frame `of` of an output with a phase error, `num ÷ den` of a frame period after its start, as the
numerator and the denominator of its wall time in ns (R101, R155, R284). -/
def State.instantAt (s : State) (o of : Nat) (phase : Int) (num den : Nat) : Int × Nat :=
  let u := s.unitsPerNs o
  let n : Int := (((of : Int) - frameBias * s.divisor o) * s.periodUnits + phase) * den + num * s.periodUnits
  (n + (s.reg 0x2800_01 : Int) * (u * den), u * den)

/-- An instant of frame `of` of an output that has not started: its phase error is the generator's. -/
def State.instant (s : State) (o of num den : Nat) : Int × Nat := s.instantAt o of (s.output o).phase num den

/-- An instant of the frame in progress of an output. -/
def State.nowInstant (s : State) (o num den : Nat) : Int × Nat :=
  s.instantAt o (s.output o).curOf (s.output o).curPhase num den

/-- A wall time from an exact instant: the whole number of ns below it, or above where `up` says so. -/
def wallOf (x : Int × Nat) (up : Bool) : Nat :=
  let lo := x.1 / (x.2 : Int)
  ofSigned 64 (if up && x.1 % (x.2 : Int) != 0 then lo + 1 else lo)

/-- The wall time at which an output's next frame starts, in whole ns from below (R101, R155). -/
def State.nextStart (s : State) (o : Nat) : Nat := wallOf (s.instant o (s.output o).nextOf 0 1) false

/-- The wall time at which the frame in progress of an output started. -/
def State.nowStart (s : State) (o : Nat) : Nat := wallOf (s.nowInstant o 0 1) false

/-- Pixel periods of the frame in progress of an output that have gone by at a wall time (R101, R155). -/
def State.pixelsGone (s : State) (o wall : Nat) : Nat :=
  (toSigned 64 (ofSigned 64 ((wall : Int) - s.nowStart o))).toNat * s.unitsPerNs o * (s.htotal o * s.vtotal o) / s.periodUnits

/-- The egress latency constant of an output's port type in ns (R156). -/
def State.egressLatency (s : State) (o : Nat) : Nat :=
  match s.reg 0x3400_03 o with
  | 2 => 1500
  | 3 | 4 => 1000
  | _ => 2000

/-- Lines before the first active one (R101). -/
def State.leadLines (s : State) (o : Nat) : Nat :=
  let n := s.reg 0x3400_09 o
  bits n 23 16 + bits n 15 8

/-- The output pixel that an output's timing generator has reached at a wall time of its frame in progress: (0, 0) before the
active lines, and a line past the last after them (R101, R155). -/
def State.positionAt (s : State) (o wall : Nat) : Nat × Nat :=
  let px := s.pixelsGone o wall
  let line := px / s.htotal o
  let n := s.reg 0x3400_06 o
  if line < s.leadLines o then (0, 0)
  else (px % s.htotal o - (bits n 63 48 + bits n 47 32), line - s.leadLines o)

/-- The output pixel that an output's timing generator has reached. -/
def State.scanPosition (s : State) (o : Nat) : Nat × Nat := s.positionAt o s.wall

/-- t_fal of frame `of` of an output (R156); a fractional instant is rounded as one implementation does (log entry 20). -/
def State.tFal (s : State) (o of : Nat) : Nat :=
  let x := s.output o
  let phase := if of < x.nextOf then x.curPhase else x.phase
  (wallOf (s.instantAt o of phase (s.leadLines o) (s.vtotal o)) (Config.tFalUp o of) + s.egressLatency o) % 2 ^ 64

/-- The exact instant of the seal that decides frame `of`: the first active pixel of the last active line of the frame
before it, which for the next frame is the frame in progress (R102). -/
def State.sealInstant (s : State) (o of : Nat) : Int × Nat :=
  let x := s.output o
  let n := s.reg 0x3400_06 o
  let num := (s.leadLines o + s.vactive o - 1) * s.htotal o + bits n 63 48 + bits n 47 32
  let den := s.htotal o * s.vtotal o
  if x.started && of == x.nextOf then s.nowInstant o num den
  else s.instantAt o (of - 1) (if of < x.nextOf then x.curPhase else x.phase) num den

/-- The wall time of the seal that decides an output's next frame, from below. -/
def State.sealTime (s : State) (o : Nat) : Nat := wallOf (s.sealInstant o (s.output o).nextOf) false

/-- Whether an event timed at a wall time has come: it falls within 50 ns of it (R155). -/
def State.reached (s : State) (t : Nat) : Bool := 0 ≤ toSigned 64 (ofSigned 64 ((s.wall : Int) + 50 - t))

end Sys2Proof.Machine
end

