-- ==== Sys2Proof/Machine/Recovery.lean ====
section
/-! DEFINITION. Containment and the recovery queue (R332-R336): the queue of recovery actions, faults that strike a
recovery, the yield to a partner, and what an engine serves (R152, R174). -/

namespace Sys2Proof.Machine

set_option Elab.async false

/-! ### Outputs and engines (R152) -/

/-- The output of the first (0) or second (1) stream of an engine, 0xFF with none (L:3420.03). -/
def State.streamOutput (s : State) (e stream : Nat) : Nat :=
  if stream = 0 then s.reg 0x3420_03 e % 256 else s.reg 0x3420_03 e / 256 % 256

/-- Whether an engine is split (R152). -/
def State.isSplit (s : State) (e : Nat) : Bool := s.streamOutput e 1 != 0xFF

/-- The outputs that an engine serves. -/
def State.outputsOf (s : State) (e : Nat) : List Nat :=
  [s.streamOutput e 0, s.streamOutput e 1].filter (· < 32)

/-- Engine numbers with the reserves: 16 is Reserve A, 17 Reserve B (R17). -/
def allEngines : List Nat := List.range 18

/-- The engine that serves an output. -/
def State.engineFor (s : State) (o : Nat) : Option Nat := allEngines.find? fun e => (s.outputsOf e).contains o

/-- The output that a layer's stream serves; its Stream field counts on a split engine only (R124). -/
def State.layerOutput (s : State) (inst : Nat) : Option Nat :=
  let e := inst / 24
  let o := s.streamOutput e (if s.isSplit e then s.reg 0x3000_04 inst else 0)
  if o < 32 then some o else none

/-- The enabled layers of an output, with a source or a veil (R124, R125). -/
def State.layersOf (s : State) (o : Nat) : List Nat :=
  match s.engineFor o with
  | none => []
  | some e => ((List.range 24).map (· + 24 * e)).filter fun i =>
      s.flag 0x3000_03 i && s.reg 0x3000_06 i != 0xFF && s.layerOutput i == some o

/-- The engines that a reserve serves for, L:3420.05. -/
def State.reserveOf (s : State) (e : Nat) : Option Nat := [16, 17].find? fun r => s.reg 0x3420_05 r == e && (s.reg 0x3420_02 r == 1 || s.reg 0x3420_02 r == 3)

/-! ### Yielding (R336, R354) -/

/-- The device yields: a Yield frame, no more heartbeat, and E-0x0D3 with PA-0x04 (R336). -/
def State.yieldPair (s : State) : State :=
  if s.pair.yielded then s
  else
    let s1 : State := { s with pair := { s.pair with yielded := true } }
    (s1.send (.bellows (bellowsFrame 4 0 s.imageGen 0 []))).record 0x0D3 (some (pa 0x04)) 0 s.imageGen

/-- Escalate to pair failover where the partner is ready and the cause's bit is enabled (R336). -/
def State.escalate (s : State) (bit : Nat) : State :=
  if s.reg 0x5800_03 = 2 && bitAt (s.reg 0x5800_05) bit then s.yieldPair else s

/-! ### Faults that strike, and the queue (R333-R335) -/

/-- From its next frame each of a list of outputs sends the egress FAULT veil, with E-0x0D4 and a code (R334, R335). -/
def State.strikeOutputs (s : State) (v : Nat) (outs : List Nat) : State :=
  outs.foldl (fun t o =>
    let x := t.output o
    let y : Output := if v = 0x06 then { x with uncovered := true } else { x with struck := true }
    (t.setOutput o y).record 0x0D4 (some (pa v)) o t.imageGen) s

/-- A fault strikes a recovery on a list of outputs (R334). -/
def State.strike (s : State) (outs : List Nat) : State := (s.strikeOutputs 0x05 outs).escalate 0

/-- A fault on outputs whose engine substitution still runs strikes it (R334). -/
def State.strikeRunning (s : State) (outs : List Nat) : State :=
  let hit := match s.recover.subst with
    | some x => outs.filter x.outs.contains
    | none => []
  if hit.isEmpty then s else s.strike hit

/-- A recovery action joins the queue, or with the queue full the outputs that its fault affects are struck (R333,
R335). -/
def State.queueRecovery (s : State) (r : Recovery) (outs : List Nat) : State :=
  if 8 ≤ s.recover.queue.length then
    (if outs.isEmpty then s.record 0x0D4 (some (pa 0x06)) 0 s.imageGen else s.strikeOutputs 0x06 outs).escalate 0
  else { s with recover := { s.recover with queue := s.recover.queue ++ [r] } }

/-- A trigger of an automatic re-plan, which manual mode leaves aside (R92, R94). -/
def State.triggerReplan (s : State) (cause : Cause) (outs : List Nat) : State :=
  if s.reg 0x2400_06 = 0 then s.queueRecovery (.replan cause) outs else s

/-- Whether a re-plan's cause still stands: no plan made with the resources as they are is in force, or that under which the
underruns came is (R333; DEDUCED, log entry 163). -/
def State.causeStands (s : State) : Cause → Bool
  | .resources => (match s.plan with | some p => p.epoch != s.reg 0x2400_0A | none => false)
  | .underrun n => n == s.smith.installed

/-- Whether the recovery action in progress is an automatic re-plan. -/
def State.replanning (s : State) : Bool :=
  match s.recover.active with
  | some (.replan _) => true
  | _ => false

/-- The kind of a recovery action, as L:5810.02 codes it (R332). -/
def Recovery.kind : Recovery → Nat
  | .replan _ => 2
  | .evacuate _ => 3
  | .laneRetrain _ => 4
  | .switchBack _ | .laneBack _ => 5

/-- The recovery action in progress, L:5810.02 (R332, R333). -/
def State.recovering (s : State) : Nat :=
  if s.recover.subst.isSome then 1
  else match s.recover.active with
    | some r => r.kind
    | none => 0

/-- The recovery action in progress ends. -/
def State.endRecovery (s : State) : State := { s with recover := { s.recover with active := none } }

end Sys2Proof.Machine
end

