-- ==== Sys2Proof/Machine/LineStore.lean ====
section
/-! DEFINITION. An engine's line store and the latency tolerance that follows from it (R159, R160). -/

namespace Sys2Proof.Machine

set_option Elab.async false

/-- Bytes of an engine's line store (R159). -/
def lineStoreBytes : Nat := 2 ^ 20

/-- Whether a wall time lies after the active lines of the frame in progress of an output, or before its first frame: the
seal of the frame to come divides the line store then (R102, R159). -/
def State.pastActive (s : State) (o wall : Nat) : Bool :=
  let last := wallOf (s.nowInstant o (s.leadLines o + s.vactive o) (s.vtotal o)) false
  !(s.output o).started || decide (0 ≤ toSigned 64 (ofSigned 64 ((wall : Int) - last)))

/-- The layers of a bank that fetch: those that are not veiled (R159). -/
def Bank.fetching (k : Bank) : List Draw := k.draws.filter (·.veil.isNone)

/-- The layers of an output that fetch at a wall time in its frame in progress: its own where it is composed, and after its
active lines those of the frame sealed (R159). -/
def State.fetchingAt (s : State) (o wall : Nat) : List Draw :=
  let x := s.output o
  if !x.running then []
  else if s.pastActive o wall then (x.next.map Bank.fetching).getD []
  else if x.kind == .composed then x.cur.fetching
  else []

/-- The output and the layers that fetch at a wall time, of every frame that an engine composes. -/
def State.fetchersAt (s : State) (e wall : Nat) : List (Nat × Draw) :=
  (s.outputsOf e).flatMap fun o => (((s.fetchingAt o wall).filter (·.engine == e)).map fun d => (o, d))

/-- What a layer consumes, in bytes per ns of its stream: what it fetches by R82, over the lines that it covers (R159, R160;
DEDUCED, log entry 148). -/
def State.consumption (s : State) (o : Nat) (d : Draw) : Frac :=
  (Frac.ofNat (roundUp (d.fw * pixelBytes d.fmt) 64 * d.fh)).div ((Frac.ofNat d.dh).mul (s.linePeriod o))

/-- The share of the line store of a layer of a rate, among all that fetch at a total rate (R159). -/
def layerShare (rate total : Frac) : Nat :=
  64 * (((Frac.ofNat (lineStoreBytes / 64)).mul rate).div total).ceilNat

/-- The bytes at which a layer stops fetching ahead: its share full, or the data of 4 lines and of 12 µs held (R159). -/
def State.fetchLimit (s : State) (o : Nat) (d : Draw) (total : Frac) : Nat :=
  let rate := s.consumption o d
  let lines := (Frac.ofNat 4).mul (s.linePeriod o)
  let span := if lines.lt (Frac.ofNat 12000) then Frac.ofNat 12000 else lines
  min (layerShare rate total) (rate.mul span).ceilNat

/-- When the next active line of an output starts, where the wall time lies in the vertical blanking of its frame in progress
or after its active lines. -/
def State.nextActive (s : State) (o wall : Nat) : Option Nat :=
  let first := wallOf (s.nowInstant o (s.leadLines o) (s.vtotal o)) false
  let last := wallOf (s.nowInstant o (s.leadLines o + s.vactive o) (s.vtotal o)) false
  let lies := fun t => decide (toSigned 64 (ofSigned 64 ((wall : Int) - t)) < 0)
  if lies first then some first
  else if lies last then none
  else some (wallOf (s.instant o (s.output o).nextOf (s.leadLines o) (s.vtotal o)) false)

/-- How long a layer can go on unserved at a wall time, in ns: its buffered bytes over its rate in active lines, which the
traffic decides, and in vertical blanking the time to the next active line with what a full store adds (R160). -/
def State.layerTolerance (s : State) (total : Frac) (wall : Nat) (o : Nat) (d : Draw) : Nat :=
  let limit := s.fetchLimit o d total
  let rate := s.consumption o d
  let lasts := fun (n : Nat) => (((Frac.ofNat n).div rate).floor).toNat
  match s.nextActive o wall with
  | none => lasts (Config.buffered d.engine d.layer wall % (limit + 1))
  | some t => (toSigned 64 (ofSigned 64 ((t : Int) - wall))).toNat + lasts limit

/-- The tolerance of a port that states none. -/
def unlimited : Nat := 0xFFFFFFFF

/-- The wall time at which an output's engine last refreshed its statement: a whole number of 64 pixel periods into the frame
in progress (R160). -/
def State.refreshed (s : State) (o wall : Nat) : Nat :=
  if (s.output o).started then
    wallOf (s.nowInstant o (s.pixelsGone o wall / 64 * 64) (s.htotal o * s.vtotal o)) false
  else wall

/-- Whether a layer that fetches is switched off by a wall time (R45, R161). -/
def State.offBy (s : State) (o wall : Nat) (d : Draw) : Bool :=
  let p := if s.pastActive o wall then (0, 0) else s.positionAt o wall
  d.isOff p.1 p.2

/-- The tolerance that an engine states at a wall time, for its layers on some of its outputs: the smallest of those that
fetch and are not switched off by then (R160, R161). -/
def State.statedOver (s : State) (e wall : Nat) (outs : List Nat) : Nat :=
  let all := s.fetchersAt e wall
  let total := Frac.sum (all.map fun p => s.consumption p.1 p.2)
  let ds := all.filter fun p => outs.contains p.1 && !s.offBy p.1 wall p.2
  (ds.map fun p => s.layerTolerance total (s.refreshed p.1 wall) p.1 p.2).foldl min unlimited

/-- The tolerance that an engine states now, L:3420.06 (R160). -/
def State.engineTolerance (s : State) (e : Nat) : Nat := s.statedOver e s.wall (s.outputsOf e)

/-- The smallest tolerance that an output's engine stated for it in the frame in progress, refreshed every 64 pixel periods,
L:3400.16 (R159, R160). -/
def State.smallestTolerance (s : State) (o : Nat) : Nat :=
  match s.engineFor o with
  | none => unlimited
  | some e =>
    let periods := s.htotal o * s.vtotal o
    ((List.range (ceilDiv' periods 64)).map fun k =>
      s.statedOver e (wallOf (s.nowInstant o (64 * k) periods) false) [o]).foldl min unlimited

end Sys2Proof.Machine
end

