-- ==== Sys2Proof/Machine/Fabric.lean ====
section
/-! DEFINITION. The Tongs fabric (R291-R306): address decoding, queues, rank and grants, and the outcome record of each
master port. What a refusal means to a block stands with that block. -/

namespace Sys2Proof.Machine

set_option Elab.async false

/-! ### Addresses (R291, R293) -/

/-- The target whose range an address lies in: channels 0-15, banks 16-23, register space 24 (R293). -/
def targetOf (a : Nat) : Option Nat :=
  if a < 0x1000000000 then some (a / 2 ^ 32)
  else if 0x8000000000 ≤ a && a < 0x8004000000 then some (16 + (a - 0x8000000000) / 0x800000)
  else if 0xC000000000 ≤ a && a < 0xC010000000 then some 24
  else none

/-- Whether `len` bytes from an address lie in the usable range of one target (R293, R326). -/
def State.rangeUsable (s : State) (a len : Nat) : Bool :=
  match targetOf a with
  | none => false
  | some t =>
    if t < 16 then a % 2 ^ 32 + len ≤ s.usableBytes t
    else if t < 24 then s.reg 0x5480_02 (t - 16) == 1 && (a - 0x8000000000) % 0x800000 + len ≤ 0x800000
    else a - 0xC000000000 + len ≤ 0x10000000

/-- Whether a request has the form of a burst: 1 to 16 aligned beats inside 1 KiB, a single beat to the register space
(R291, R293). -/
def burstFormed (r : FabReq) : Bool :=
  1 ≤ r.beats && r.beats ≤ 16 && r.address % 64 == 0 && r.address % 1024 + 64 * r.beats ≤ 1024 &&
    (targetOf r.address != some 24 || r.beats == 1)

/-! ### Outcomes (R299, R306) -/

/-- The first fabric cycle that starts at or after an instant in ns: each takes 0.625 ns (R291). -/
def firstCycle (ns : Nat) : Nat := ceilDiv' (8 * ns) 5

/-- Whether a limit in µs has run out since a fabric cycle (R300, R301). -/
def State.waitedOut (s : State) (since limitUs : Nat) : Bool := 5 * since + 8000 * limitUs ≤ 8 * s.now

/-- A request of a port is Refused with a code: the port's outcome record (R299-R303). -/
def State.refuseAccess (s : State) (port : Nat) (c : Code) (address cls : Nat) : State :=
  (((s.bump 0x5020_04 port).setBlob 0x5020_07 port c.text).setReg 0x5020_08 port (address % 2 ^ 40)).setReg
    0x5020_09 port (cls + 1)

/-- A request that is Refused at the fabric's own checks: E-0x0B2, at most once per port per second. -/
def State.refuseForm (s : State) (port : Nat) (c : Code) (address cls : Nat) : State :=
  (s.refuseAccess port c address cls).recordLimited second 0x0B2 (some c) port (address % 2 ^ 40 : Nat)

/-- A wait that a port has seen (R298). -/
def State.noteWait (s : State) (port wait : Nat) : State :=
  s.setReg 0x5020_06 port (min (max (s.reg 0x5020_06 port) wait) (2 ^ 32 - 1))

/-- A number of accesses of a port completed after a wait: Served or Delayed by their class's mark (R299). -/
def State.countAccesses (s : State) (port cls wait n : Nat) : State :=
  if wait ≤ s.reg (0x5000_01 + cls) then s.bumpBy 0x5020_02 port n
  else (s.bumpBy 0x5020_03 port n).bumpBy 0x5020_05 port wait

/-- A request completed after a wait (R299). -/
def State.countDone (s : State) (port cls wait : Nat) : State := s.countAccesses port cls wait 1

/-! ### Queues (R295-R297) -/

/-- Requests waiting at or held by a target. -/
def State.itemsAt (s : State) (t : Nat) : List FabItem := s.fabric.queue.filter fun x => x.target == t

/-- Whether a class B write of a master port to a stretch of memory still waits for its grant, so that its frame may yet be refused
(R300). -/
def State.writeWaits (s : State) (port a len : Nat) : Bool :=
  s.fabric.queue.any fun x => x.port == port && x.granted.isNone && x.req.write && x.req.cls == 1 &&
    decide (a ≤ x.req.address) && decide (x.req.address < a + len)

/-- Whether any class B request of a master port still waits for its grant. -/
def State.classBWaits (s : State) (port : Nat) : Bool :=
  s.fabric.queue.any fun x => x.port == port && x.granted.isNone && x.req.cls == 1

/-- Queue entries of a target that requests of a class hold (R297, L:5018.03). -/
def State.held (s : State) (t cls : Nat) : Nat :=
  countTrue (fun x : FabItem => x.granted.isSome && x.req.cls == cls) (s.itemsAt t)

/-- The most entries that a class may hold at a target (R297). -/
def classLimit (t cls : Nat) : Nat :=
  if t < 16 then (if cls = 0 then 48 else if cls = 1 then 32 else 16)
  else if t < 24 then (if cls = 0 then 8 else if cls = 1 then 6 else 2)
  else 4

/-- Whether a class has a free entry at a target (R297). -/
def State.entryFree (s : State) (t cls : Nat) : Bool :=
  s.held t cls < classLimit t cls && s.held t 0 + s.held t 1 + s.held t 2 < classLimit t 0

/-- The heads of the ports' queues for a target, in the order presented. -/
def headsOf : List FabItem → List Nat → List FabItem
  | [], _ => []
  | x :: xs, seen =>
    if x.granted.isSome || seen.contains x.port then headsOf xs seen else x :: headsOf xs (x.port :: seen)

/-- The requests eligible at a target (R295). -/
def State.eligible (s : State) (t : Nat) : List FabItem :=
  (headsOf (s.itemsAt t) []).filter fun x => s.entryFree t x.req.cls

/-- The urgency that a request's age gives a port at a target (R315). -/
def ageUrgency (age target : Nat) : Nat :=
  if target ≤ age then 3 else if 3 * target ≤ 4 * age then 2 else if target ≤ 2 * age then 1 else 0

/-- The urgency of an engine's stated tolerance (R315). -/
def State.toleranceUrgency (s : State) (e : Nat) : Nat :=
  if 18 ≤ e || (s.outputsOf e).isEmpty then 0
  else
    let t := s.engineTolerance e
    if t < s.reg 0x5404_03 then 3 else if t < s.reg 0x5404_02 then 2 else if t < s.reg 0x5404_01 then 1 else 0

/-- The urgency of a port at a target, L:5408.03: by its oldest request there, a write's age ending as its last beat is
accepted, and by its stated tolerance (R315). -/
def State.urgency (s : State) (port t : Nat) : Nat :=
  let byAge :=
    match (s.itemsAt t).find? fun x => x.port == port && !(x.granted.isSome && x.req.write) with
    | some x => if t < 24 then ageUrgency (s.now - x.issued) (s.reg 0x5408_02 (port * 24 + t) * 1000) else 0
    | none => 0
  max byAge (s.toleranceUrgency port)

/-- The pair priority of a port at a target (R295, R305). -/
def State.pairPriority (s : State) (port t : Nat) : Nat :=
  if t < 16 then bits (s.reg 0x5010_02 port) (4 * t + 3) (4 * t)
  else if t < 24 then bits (s.reg 0x5010_03 port) (4 * (t - 16) + 3) (4 * (t - 16))
  else s.reg 0x5010_04 port % 16

/-- The rank of a request (R295). -/
def State.rank (s : State) (x : FabItem) : Nat :=
  let u0 := s.urgency x.port x.target
  let u := if x.req.cls = 2 then min u0 1 else u0
  u * 64 + (2 - x.req.cls) * 16 + s.pairPriority x.port x.target

/-- The number of the latest grant of a port at a target; 0 before any. -/
def State.lastGrantOf (s : State) (port t : Nat) : Nat := Tbl.get 0 s.fabric.lastGrant (t * 64 + port)

/-- Whether one request goes before another: higher rank, then the port granted least recently (R295). -/
def State.goesFirst (s : State) (x y : FabItem) : Bool :=
  s.rank y < s.rank x || (s.rank x == s.rank y && s.lastGrantOf x.port x.target < s.lastGrantOf y.port y.target)

/-- The request that goes before every other of a list. -/
def State.first (s : State) : List FabItem → Option FabItem
  | [] => none
  | x :: xs =>
    match State.first s xs with
    | none => some x
    | some y => if s.goesFirst y x then some y else some x

/-- Replace the first request equal to `x`. -/
def swapItem (x y : FabItem) : List FabItem → List FabItem
  | [] => []
  | z :: zs => if z == x then y :: zs else z :: swapItem x y zs

/-- Requests with the new head of a port's queue for a target waiting from a cycle (R299). -/
def newHead (port t cycle : Nat) : List FabItem → List FabItem
  | [] => []
  | x :: xs =>
    if x.port = port && x.target = t && x.granted.isNone then { x with since := max x.since cycle } :: xs
    else x :: newHead port t cycle xs

/-- Take a request out of the queues; the next of its port and target becomes head where it was. -/
def State.dropItem (s : State) (x : FabItem) : State :=
  let rest := s.fabric.queue.erase x
  { s with fabric := { s.fabric with
      queue := if x.granted.isSome then rest else newHead x.port x.target (firstCycle s.now) rest } }

/-! ### The command path (R292, R295, R296, R299) -/

/-- The fabric cycle in which a target can grant a request of a port that heads its queue since a cycle: once its command path
is free, at once if it is then parked on the port, and else where the path stood free one cycle after the arrival (R292, R296);
not before the cycle that the present ns begins in. -/
def State.grantCycle (s : State) (port t since : Nat) : Nat :=
  let free := Tbl.get 0 s.fabric.pathFree t
  let ready := if since < free then free else if port = s.reg 0x5018_02 t then since else since + 1
  max ready (8 * s.now / 5)

/-- Whether a fabric cycle starts before the present ns ends. -/
def State.cycleCome (s : State) (g : Nat) : Bool := 5 * g < 8 * (s.now + 1)

/-- The request that a target grants next, with the cycle of its grant: of those that can be granted first, the one that goes
before every other (R295, R296). -/
def State.nextGrant (s : State) (t : Nat) : Option (FabItem × Nat) :=
  let es := s.eligible t
  let at' := fun (x : FabItem) => s.grantCycle x.port t x.since
  match (es.map at').min? with
  | none => none
  | some m => (s.first (es.filter fun x => at' x == m)).map fun x => (x, m)

/-! ### The channel's scheduler (R317, R318) -/

/-- Whether the bytes of two requests overlap. -/
def requestsMeet (r q : FabReq) : Bool :=
  r.address < q.address + 64 * q.beats && q.address < r.address + 64 * r.beats

/-- The beat of a request at a 64-byte address (R291). -/
def beatOf (r : FabReq) (a : Nat) : Option Nat :=
  if r.address ≤ a && a < r.address + 64 * r.beats then some ((a - r.address) / 64) else none

/-- The data of a write's beat. -/
def beatData (r : FabReq) (k : Nat) : Bytes := (r.data.drop (64 * k)).take 64

/-- Whether a write enables every byte of a beat. -/
def beatFull (r : FabReq) (k : Nat) : Bool := r.enables.getD k 0 == 2 ^ 64 - 1

/-- The later granted of the requests that satisfy a test (R318). -/
def youngest (f : FabItem → Bool) (xs : List FabItem) : Option FabItem :=
  (xs.filter f).foldl (fun acc x =>
    match acc with
    | some y => if y.order < x.order then some x else acc
    | none => some x) none

/-- The full beat at a 64-byte address of the youngest queued write there, if that write's beat is full (R318). -/
def State.queuedBeat (s : State) (t a : Nat) : Option Bytes :=
  (youngest (fun y => y.granted.isSome && y.req.write && (beatOf y.req a).isSome) (s.itemsAt t)).bind fun y =>
    (beatOf y.req a).bind fun k => if beatFull y.req k then some (beatData y.req k) else none

/-- What the write queue of a channel answers a read with that arrives: its beats, where each is full in the youngest write
to its address (R318; a burst of several writes' beats DEDUCED, log entry 149). -/
def State.forwarded (s : State) (t : Nat) (r : FabReq) : Option Bytes :=
  let beats := (List.range r.beats).map fun k => s.queuedBeat t (r.address + 64 * k)
  if t < 16 && !r.write && beats.all (·.isSome) then some (beats.flatMap fun b => b.getD []) else none

/-- Whether a request that arrived earlier at the channel, and goes to the DRAM, overlaps one (R317, R318). -/
def State.keptBack (s : State) (x : FabItem) : Bool :=
  (s.itemsAt x.target).any fun y => y.granted.isSome && y.order < x.order && y.answer.isNone && requestsMeet y.req x.req

/-- The urgency of a request at its channel's scheduler: class C is capped at 1 (R295, R317). -/
def State.itemUrgency (s : State) (x : FabItem) : Nat :=
  let u := s.urgency x.port x.target
  if x.req.cls = 2 then min u 1 else u

/-- Whether a request hits an open row of its channel (R317). -/
def State.rowHit (s : State) (x : FabItem) : Bool :=
  let b := Config.dramRow (x.req.address % 2 ^ 32)
  Tbl.find (s.chan x.target).openRows b.1 == some b.2

/-- Whether a channel chooses one request before another: higher urgency, then an open row, then the older (R317). -/
def State.chosenBefore (s : State) (x y : FabItem) : Bool :=
  let u := s.itemUrgency x
  let v := s.itemUrgency y
  let h := s.rowHit x
  let k := s.rowHit y
  if u != v then v < u
  else if h != k then h
  else if x.issued != y.issued then x.issued < y.issued
  else x.order < y.order

/-- The request that a channel's scheduler chooses of those that may go to the DRAM (R317). -/
def State.choose (s : State) (t : Nat) : Option FabItem :=
  ((s.itemsAt t).filter fun x => x.granted.isSome && x.answer.isNone && !s.keptBack x).foldl
    (fun acc x => match acc with | some y => if s.chosenBefore x y then some x else acc | none => some x) none

/-- The request that a channel serves: the one that it began, else the one that it chooses now. -/
def State.served (s : State) (t : Nat) : Option FabItem :=
  match (s.chan t).serving.bind fun n => (s.itemsAt t).find? fun x => x.granted.isSome && x.order == n with
  | some x => some x
  | none => s.choose t

/-- A channel that serves no request begins the one that it chooses. -/
def State.serveNext (s : State) (t : Nat) : State :=
  if t < 16 then s.setChan t { s.chan t with serving := (s.served t).map (·.order) } else s

/-- Whether a granted request can complete: a channel serves it, or its write queue answers it; other targets have no
scheduler of the spec's (R317, R318). -/
def State.mayComplete (s : State) (x : FabItem) : Bool :=
  16 ≤ x.target || x.answer.isSome || s.served x.target == some x

/-- Bytes with those that a beat's enables name replaced. -/
def mergeBytes (old new : Bytes) (enables : Nat) : Bytes :=
  (old.zip new).zipIdx.map fun p => if bitAt enables p.2 then p.1.2 else p.1.1

/-- A write reaches the memory, beat by beat, the bytes that it enables (R312, R318). -/
def State.writeBeats (s : State) (r : FabReq) : State :=
  (List.range r.beats).foldl (fun (t : State) k =>
    let a := r.address + 64 * k
    t.store a (mergeBytes (t.load a 64) (beatData r k) (r.enables.getD k 0))) s

/-- What a read returns: what its write queue answered it with, or what the memory holds (R318). -/
def State.readData (s : State) (x : FabItem) : Bytes := x.answer.getD (s.load x.req.address (64 * x.req.beats))

/-- A request has its effect on memory: a write reaches it, a read returns its data; what the register space does is its
owner's (R313, R318). -/
def State.moveData (s : State) (x : FabItem) : State :=
  if x.target = 24 then s
  else if x.req.write then s.writeBeats x.req
  else { s with fabric := { s.fabric with returned := Tbl.put s.fabric.returned x.port (x.req.id, s.readData x) } }

/-! ### Inline ECC (R311, R312) -/

/-- The bytes that are attached to a channel at the density that it last trained at (R308). -/
def State.attachedBytes (s : State) (c : Nat) : Nat := (s.chan c).density * 2 ^ 30

/-- Where the 64-byte check block of the 1 KiB block at a device address of a channel lies (R311). -/
def State.checkAddress (s : State) (a : Nat) : Nat :=
  let c := a / 2 ^ 32
  c * 2 ^ 32 + s.attachedBytes c / 16 * 15 + a % 2 ^ 32 / 1024 * 64

/-- The check of the 32-byte sector at a device address, over its data and its address bits [39:5] (R312; the code a free
value, log entry 9). -/
def State.sectorBits (s : State) (a : Nat) : Nat :=
  Config.sectorCheck (leNat (s.load (a / 32 * 32) 32)) (a % 2 ^ 40 / 32) % 2 ^ 16

/-- The check block of the 1 KiB block at a device address: the checks of its 32 sectors, in their order, two bytes each (R311,
R312; their order in the block DESIGN CHOICE, log entry 173). -/
def State.checkBlock (s : State) (a : Nat) : Bytes :=
  (List.range 32).flatMap fun k => leBytes 2 (s.sectorBits (a / 1024 * 1024 + 32 * k))

/-- The 32-byte sectors of a write of which it enables a part only, so that each is read, merged and rewritten (R312). -/
def partialSectors (r : FabReq) : List Nat :=
  (List.range (2 * r.beats)).filter fun k =>
    let e := r.enables.getD (k / 2) 0 / 2 ^ (32 * (k % 2)) % 2 ^ 32
    e != 0 && e != 2 ^ 32 - 1

/-- Check blocks that a channel's cache holds (R312). -/
def checkCache : Nat := 32

/-- A burst's check traffic: a read reads its check block where the cache lacks it; a write of its whole 1 KiB block writes it,
and one of a part reads it first, where the cache lacks it (R312; which block the cache gives up DESIGN CHOICE, log entry 173). -/
def Chan.checkBurst (ch : Chan) (r : FabReq) : Chan :=
  let block := r.address / 1024
  let whole := r.write && r.beats = 16 && (List.range 16).all fun k => beatFull r k
  let miss := !ch.checks.contains block && !whole
  { ch with
    checks := (block :: ch.checks.erase block).take checkCache
    checkReads := ch.checkReads + (if miss then 1 else 0)
    checkWrites := ch.checkWrites + (if r.write then 1 else 0) }

/-- A channel has served a request, or ended it with an error: its idle time starts again; its rows are open where that lies and
its check block is in the cache, unless its write queue answered it, and it goes on to the next (R312, R317, R324). -/
def State.afterService (s : State) (x : FabItem) : State :=
  if 16 ≤ x.target then s
  else
    let ch : Chan := { s.chan x.target with idleSince := s.now, aborted := false }
    let b := Config.dramRow (x.req.address % 2 ^ 32)
    let ch1 := if x.answer.isSome then ch else { ch.checkBurst x.req with openRows := Tbl.put ch.openRows b.1 b.2 }
    (s.setChan x.target ch1).serveNext x.target

/-- Grant a request in a cycle: it arrives at its target, and holds the command path for its beats, a read for one cycle (R292,
R295, R299, R318). -/
def State.grant (s : State) (x : FabItem) (g : Nat) : State :=
  let w := g - x.since
  let n := s.fabric.grants + 1
  let y := { x with granted := some w, order := n, answer := s.forwarded x.target x.req }
  let q := swapItem x y s.fabric.queue
  let f := { s.fabric with
    queue := newHead x.port x.target (g + 1) q
    lastGrant := Tbl.put s.fabric.lastGrant (x.target * 64 + x.port) n
    grants := n
    pathFree := Tbl.put s.fabric.pathFree x.target (g + if x.req.write then x.req.beats else 1) }
  ({ s with fabric := f }.noteWait x.port w).serveNext x.target

/-- Count a frame that a master port starts to handle (R300). -/
def State.countFrame (s : State) (port : Nat) : State :=
  { s with fabric := { s.fabric with frames := Tbl.put s.fabric.frames port (Tbl.get 0 s.fabric.frames port + 1) } }

/-- E-0x0B0 with FB-0x01, at most once per port per 64 frames (R300). -/
def State.noteRefusedB (s : State) (port address : Nat) : State :=
  s.recordEvery (Tbl.get 0 s.fabric.frames port) 64 false 0x0B0 (some (fb 0x01)) port (address % 2 ^ 40 : Nat)

/-- A write of L:5020.0A: the outcome record of the port at its defaults (R306). -/
def clearOutcomesOp : WriteOp := fun s _ port _ =>
  let s1 := [0x5020_02, 0x5020_03, 0x5020_04, 0x5020_05, 0x5020_06, 0x5020_08, 0x5020_09].foldl
    (fun (t : State) key => t.setReg key port 0) s
  (s1.setBlob 0x5020_07 port [], .ok)

/-! ### The commands -/

/-- Whether a target takes requests: a channel that neither trains nor sleeps, or any other target (R322, R325). -/
def State.targetAwake (s : State) (t : Nat) : Bool := 16 ≤ t || [2, 4, 5].contains (s.reg 0x5400_02 t)

/-- Where a target's range starts, and how long it is (R293). -/
def targetRange (t : Nat) : Nat × Nat :=
  if t < 16 then (t * 2 ^ 32, 2 ^ 32)
  else if t < 24 then (0x8000000000 + (t - 16) * 0x800000, 0x800000)
  else (0xC000000000, 0x10000000)

/-- The locked sequence that starts next: of the ports in turn the least recently granted, and of one port the first (R304). -/
def State.nextLock (s : State) : Option LockedRun :=
  s.fabric.locks.foldl (fun acc l => match acc with
    | some k => if s.lastGrantOf l.port 24 < s.lastGrantOf k.port 24 then some l else some k
    | none => some l) none

/-- A locked sequence starts once the access or sequence in progress has ended, and holds the register space for its accesses
(R303, R304). -/
def State.grantLock (s : State) (l : LockedRun) : State :=
  let g := s.grantCycle l.port 24 l.since
  if !s.cycleCome g then s
  else
    let n := s.fabric.grants + 1
    let f := { s.fabric with
      locks := s.fabric.locks.erase l
      lastGrant := Tbl.put s.fabric.lastGrant (24 * 64 + l.port) n
      grants := n
      pathFree := Tbl.put s.fabric.pathFree 24 (g + l.accesses) }
    (({ s with fabric := f }.noteWait l.port (g - l.since)).countAccesses l.port l.cls (g - l.since) l.accesses)

/-- LOCKED_SEQUENCE (R303, R304): a run of accesses becomes pending at the register space, or is refused whole. Ports 36 to 40
issue none, and a run of no access is none. Where in its target a refused sequence starts, and of which class a port's other
than the management controller's is, are free values (log entry 4). -/
def execLockedSequence (port : Fin 42) (target : Fin 25) (accesses : Nat) (s : State) : Out :=
  whenFabric s fun s =>
    if (36 ≤ port.val && port.val ≤ 40) || accesses = 0 then s
    else
      let c := s.draw
      let cls := if port.val = 41 then 2 else c.1 % 3
      if target.val != 24 || 16 < accesses then
        let a := c.2.draw
        let r := targetRange target
        a.2.refuseForm port (fb 0x04) (r.1 + a.1 % r.2) cls
      else
        let l : LockedRun := { port := port, accesses := accesses, cls := cls, since := firstCycle c.2.now }
        { c.2 with fabric := { c.2.fabric with locks := c.2.fabric.locks ++ [l] } }

/-- CLEAR_OUTCOMES (R306). -/
def execClearOutcomes (ss v : Nat) (s : State) : Out :=
  whenManaged s fun s => s.ledgerWrite ss 0x5020_0A (.num v) clearOutcomesOp

end Sys2Proof.Machine
end

