-- ==== Sys2Proof/Machine/Dram.lean ====
section
/-! DEFINITION. DRAM channels and Crucible (R308-R330): refresh and its debt, tracking and scrubbing, self-refresh,
training, and evacuation. -/

namespace Sys2Proof.Machine

set_option Elab.async false

/-! ### Errors (R313, R314, R326) -/

/-- Whether a channel can be reached: it neither trains nor is out of service. -/
def State.chanRuns (s : State) (c : Nat) : Bool := [2, 3, 4, 5].contains (s.reg 0x5400_02 c)

/-- Entries that the memory error log holds (L:5410.01). -/
def memLogSize : Nat := 16

/-- An uncorrectable error at an address: the error log, its counter and E-0x0C0 at most once per channel per second
(R313, R326): it names the sector, or the word of a bank. -/
def State.logMemError (s : State) (address syndrome port : Nat) : State :=
  match targetOf address with
  | none => s
  | some t =>
    let bank := decide (16 ≤ t)
    let loc := if bank then 0x80 + (t - 16) else t
    let address := if bank then address / 8 * 8 else address / 32 * 32
    let e : MemErr := { location := loc, address := address, syndrome := syndrome, port := port, time := s.wall }
    let s1 : State := { s with dram := { s.dram with errors := (e :: s.dram.errors).take memLogSize } }
    let s2 := if bank then s1.bump 0x5480_05 (t - 16) else s1.bump 0x5400_12 t
    s2.recordLimited second 0x0C0 (some (dm (if bank then 0x02 else 0x01))) loc (address % 2 ^ 40 : Nat)

/-! ### Evacuation (R327, R328) -/

/-- Why an evacuation of a channel is refused: manual mode, another one running, or no other channel in service
(R94, R327; a channel that is not in service itself DEDUCED, log entry 27). -/
def State.evacRefusal (s : State) (c : Nat) : Option Code :=
  if s.reg 0x2400_06 = 1 then some (pl 0x19)
  else if s.dram.evacuating.isSome || !s.chanInService c ||
    !((List.range 16).any fun k => k != c && s.chanInService k) then some (dm 0x07)
  else none

/-- The evacuation of a channel starts: state 4, no more placement, a new epoch (R327 step 1). Without a plan there is no
apply frame to wait for, and the hold regions move at once (DEDUCED, log entry 154). -/
def State.enterEvacuation (s : State) (c : Nat) : State :=
  let s1 := (s.setReg 0x5400_02 c 4).advanceEpoch
  let s2 : State := { s1 with
    dram := { s1.dram with evacuating := some c, moved := false }
    recover := { s1.recover with active := some (.evacuate c), replanned := false } }
  if s2.plan.isNone then s2.moveHolds else s2

/-- The running outputs that a channel serves: those of whose layers the source lies there, and those that repeat from it
(R167, R335). -/
def State.channelOutputs (s : State) (c : Nat) : List Nat :=
  s.runningOutputs.filter fun o => (s.holdOutputs c).contains o || (s.layersOf o).any fun i =>
    match s.source (s.reg 0x3000_06 i) with
    | some x => x.target == c
    | none => false

/-- An evacuation starts at once where no recovery action is in progress or waits, else it joins the queue (R333, R335). -/
def State.requestEvacuation (s : State) (c : Nat) : State :=
  if s.recovering = 0 && s.recover.queue.isEmpty then s.enterEvacuation c
  else s.queueRecovery (.evacuate c) (s.channelOutputs c)

/-- A corrected error of a channel; above the threshold within one hour the channel is evacuated in automatic mode, which
is the firmware's work (R28, R313, R314). -/
def State.correctedError (s : State) (c : Nat) : State :=
  let s1 := s.bump 0x5400_11 c
  let ch := s1.chan c
  let hour := s1.now :: (ch.corrected.takeWhile fun t => decide (s1.now < t + 3600 * second))
  let s2 := s1.setChan c { ch with corrected := hour }
  if s2.managed && s2.reg 0x5400_13 c < hour.length && s2.reg 0x2400_06 = 0 && s2.chanInService c &&
      !s2.recover.queue.contains (.evacuate c) then
    let s3 := s2.record 0x0C1 (some (dm 0x03)) c 0
    if (s3.evacRefusal c).isNone then s3.requestEvacuation c else s3
  else s2

/-- Training in full of a channel, which returns to service when it passes (R328). -/
def State.startReturn (s : State) (c : Nat) : State :=
  ((s.setReg 0x5400_02 c 1).setChan c { s.chan c with returning := true, stored := false, trainAfter := false }).advanceEpoch

/-- A write of L:5400.1A: evacuate, retrain or retire (R327, R328). -/
def channelOp : WriteOp := fun s _ c v =>
  if v.n = 1 then
    match s.evacRefusal c with
    | some code => (s, .no code)
    | none => (s.requestEvacuation c, .ok)
  else if s.reg 0x5400_02 c != 5 then (s, .no (dm 0x08))
  else if v.n = 2 then (s.startReturn c, .ok)
  else ((((s.setReg 0x5400_02 c 6).record 0x0C3 (some (dm 0x0A)) c 0).advanceEpoch).triggerReplan .resources [], .ok)

/-- Whether nothing uses a channel any more: no source is bound there, no Ingot there is read or written, and no
request waits, once a plan in force has been placed again (R327 steps 2 and 5). -/
def State.chanDrained (s : State) (c : Nat) : Bool :=
  (s.recover.replanned || s.plan.isNone) && !s.commits.waiting.any (·.auto) &&
  s.sources.all (fun p => p.2.target != c) &&
  s.ingots.all (fun p => p.2.size == 0 || p.2.base / 2 ^ 32 != c ||
    (p.2.readers.isEmpty && p.2.st != .filling)) &&
  (s.itemsAt c).isEmpty

/-! ### Tolerances (R316, R324) -/

/-- Whether any output repeats (R316). -/
def State.anyRepeats (s : State) : Bool := s.outputs.any fun p => p.2.running && p.2.kind == .repeated

/-- Whether the plan has the pipelines read or write on a target: the sources of cameras, with their staging rings, and the
slots that a coding or vision output writes (R198, R316). -/
def State.pipesOn (s : State) (t : Nat) : Bool :=
  s.sources.any fun p => p.2.kind == 1 &&
    (let c := p.2.locator
     let at' := fun (k : Nat) => match s.source k with | some x => targetNumber x.target == t | none => false
     targetNumber p.2.target == t || (s.reg 0x3840_10 c != 0 && at' (s.reg 0x3840_12 c)) ||
       (s.reg 0x3840_13 c != 0 && at' (s.reg 0x3840_15 c)))

/-- Whether the plan in force or a queued request gives a port traffic to a target (R316). -/
def State.plansTraffic (s : State) (port t : Nat) : Bool :=
  (s.itemsAt t).any (fun x => x.port == port) ||
  (let here := s.sources.filter fun p => targetNumber p.2.target == t
   if port < 18 then
     ((List.range 24).any fun l =>
       s.flag 0x3000_03 (port * 24 + l) && here.any fun p => p.1 == s.reg 0x3000_06 (port * 24 + l)) ||
     (s.flag 0x3080_02 port && here.any fun p => p.1 == s.reg 0x3080_04 port)
   else if port < 20 then (s.holdOutputs t).any fun o => s.flag 0x3400_02 o && o / 16 == port - 18
   else if port < 24 then here.any fun p => p.2.upPort < 24 && s.reg 0x4400_03 p.2.upPort / 12 == port - 20
   else if port < 28 then here.any fun p => p.2.kind == 2 && s.receives p.1 port
   else if port < 32 then here.any fun p => p.2.kind == 1 && s.reg 0x3840_03 p.2.locator / 4 == port - 28
   else if port < 36 then s.pipesOn t
   else false)

/-- The record of a source that the plan in force binds. -/
def Source.record (slot : Nat) (x : Source) : SrcRec :=
  { id := x.id, device := 0xFF, slot := slot, kind := x.kind, fmt := x.fmt, rate := x.rate, locator := x.locator
    width := x.width, height := x.height, name := x.name, ingots := x.ingotCount, memory := x.memory, upPort := x.upPort
    upStream := x.upStream }

/-- Planned arrival rate at a Swage receiver or camera port group under the plan in force (R316). -/
def State.arrivalRate (s : State) (port : Nat) : Frac :=
  s.ingressRate (s.sources.map fun p =>
    { src := p.2.record p.1, a := {}, b := {}, count := 0, size := 0, extra := 0 }) port

/-- The tolerance of a Swage receiver or camera port group: its free input buffer over its planned arrival rate (R316). -/
def State.ingressTolerance (s : State) (port : Nat) : Nat :=
  let r := s.arrivalRate port
  let free := Config.bufferFree port s.now % (262144 + Config.inputBufferExtra + 1)
  if r.n ≤ 0 then unlimited
  else min unlimited ((((Frac.ofNat free).mul (Frac.ofNat second)).div r).floor).toNat

/-- The tolerance in ns that a port states for a target, L:5408.04 (R316). -/
def State.tolerance (s : State) (port t : Nat) : Nat :=
  if !s.plansTraffic port t then unlimited
  else if port < 18 then s.engineTolerance port
  else if port < 20 then (if s.anyRepeats then 10000 else unlimited)
  else if port < 24 then 
    (if s.ingots.any fun p => p.2.readers.any fun r => 18 ≤ r && r < 42 && s.reg 0x4400_03 (r - 18) / 12 == port - 20 then
      20000 else unlimited)
  else if port < 32 then s.ingressTolerance port
  else if port < 36 then (if (s.pipe (port - 32)).frame.isSome then 100000 else unlimited)
  else if port = 36 then s.reg 0x5404_04 * 1000
  else if port < 41 then unlimited
  else 50000

/-- Whether any port stands at urgency 3 at a channel (R320). -/
def State.anyUrgent (s : State) (c : Nat) : Bool := (List.range 42).any fun p =>
  s.urgency p c == 3 && (18 ≤ p || s.plansTraffic p c)

/-! ### Start-up (R322, R398, R399) -/

/-- The start-up scene is placed into slot 0 once DRAM is ready, on a device that serves, or as soon as the placement that runs
has ended (R399, R353). -/
def State.placeStartUp (s : State) : State :=
  if !(s.flag 0x6400_0D && [0, 2, 3].contains (s.reg 0x5800_03)) then s
  else if s.smith.placing = .idle then
    { s with smith := { s.smith with placing := .startUp (s.blob 0x6400_0C), inputs := s.shadow, startUpDue := false } }
  else { s with smith := { s.smith with startUpDue := true } }

/-- Once no channel trains any more, DRAM reports ready, or with no channel in service failed, with the code of what took the
last (R322, R390, R398). -/
def State.settleDram (s : State) (c : Code) : State :=
  if (List.range 16).any fun c => s.reg 0x5400_02 c < 2 then s
  else if bitAt (s.reg 0x1010_01) 5 then s
  else if (List.range 16).any s.chanInService then (s.setReady 5).placeStartUp
  else s.setFailed 5 (some c)

/-! ### The commands -/

/-- Every bank of a channel is precharged, as an all-bank refresh and self-refresh have it (R308, R317, R324; for the refresh
PRESUMED, log entry 149). -/
def State.closeRows (s : State) (c : Nat) : State := s.setChan c { s.chan c with openRows := [] }

/-- Whether a refresh falls due: the interval in force has passed since the last fell due (R319). -/
def State.refreshDue (s : State) (c : Nat) : Bool := decide ((s.chan c).refreshed + s.reg 0x5400_0D c ≤ s.now)

/-- The next refresh of a channel falls due one interval from now (R325). -/
def State.refreshFromNow (s : State) (c : Nat) : State := s.setChan c { s.chan c with refreshed := s.now }

/-- REFRESH_DUE (R319, R320): issued, postponed while a port stands at urgency 3, or with the debt at 8 forced. -/
def execRefreshDue (channel : Fin 16) (s : State) : Out :=
  whenLive s fun s =>
    if !([2, 4, 5].contains (s.reg 0x5400_02 channel)) || !s.refreshDue channel then s
    else
      let s1 := s.setChan channel { s.chan channel with refreshed := (s.chan channel).refreshed + s.reg 0x5400_0D channel }
      if 8 ≤ s.reg 0x5400_0F channel then
        ((s1.closeRows channel).bump 0x5400_10 channel).recordLimited second 0x0C4 (some (dm 0x0B)) channel 0
      else if s.anyUrgent channel then s1.bump 0x5400_0F channel
      else s1.closeRows channel

/-- REFRESH_CATCH_UP (R320): with no port at urgency 3 one owed refresh is issued, and back to back with it the next. -/
def execRefreshCatchUp (channel : Fin 16) (s : State) : Out :=
  whenLive s fun s =>
    if s.anyUrgent channel || s.reg 0x5400_0F channel = 0 then s
    else (s.closeRows channel).setReg 0x5400_0F channel (s.reg 0x5400_0F channel - 1)

/-- TEMPERATURE_READ (R319). -/
def execTemperatureRead (channel : Fin 16) (celsius : Int) (s : State) : Out :=
  whenLive s fun s =>
    if !([2, 4, 5].contains (s.reg 0x5400_02 channel)) then s
    else
      let t := max (-128) (min 127 celsius)
      let s1 := s.setRegI 0x5400_0E channel 8 t
      if 85 < t && s1.reg 0x5400_0D channel = 3900 then
        (s1.setReg 0x5400_0D channel 1950).record 0x0C5 (some (dm 0x0C)) channel t
      else if t ≤ 80 && s1.reg 0x5400_0D channel = 1950 then
        (s1.setReg 0x5400_0D channel 3900).record 0x0C5 (some (dm 0x0D)) channel t
      else s1

/-- Whether a channel in service is due to be tracked: once per L:5400.18 (R323). -/
def State.trackDue (s : State) (c : Nat) : Bool :=
  s.reg 0x5400_02 c == 2 && decide ((s.chan c).trackedAt + milli * s.reg 0x5400_18 c ≤ s.now)

/-- The channel whose turn it is to be tracked: the first due one after the one tracked last, in rotation (R323). -/
def State.trackNext (s : State) : Option Nat :=
  let from' := match s.dram.tracked with | some c => c + 1 | none => 0
  ((List.range 16).map fun k => (from' + k) % 16).find? s.trackDue

/-- TRACKING (R323): in rotation, only with no refresh owed and no port at urgency 3; drift out of range evacuates the channel,
which is then trained again. -/
def execTracking (channel : Fin 16) (driftPs : Int) (inRange : Bool) (s : State) : Out :=
  whenLive s fun s =>
    if s.trackNext != some channel.val || s.reg 0x5400_0F channel != 0 || s.anyUrgent channel then s
    else
      let s0 := s.setChan channel { s.chan channel with trackedAt := s.now }
      let s1 := ({ s0 with dram := { s0.dram with tracked := some channel.val } } : State).setRegI 0x5400_1D channel 16 (max (-32768) (min 32767 driftPs))
      if inRange then s1
      else
        let s2 := s1.record 0x0C2 (some (dm 0x05)) channel 0
        if s2.managed && (s2.evacRefusal channel).isNone && !s2.recover.queue.contains (.evacuate channel) then
          (s2.setChan channel { s2.chan channel with trainAfter := true }).requestEvacuation channel
        else s2

/-- A channel's sectors in its usable size. -/
def State.sectors (s : State) (c : Nat) : Nat := s.usableBytes c / 32

/-- Whether the scrubber is due to read a sector of a channel: the sectors of a pass come in their order and spread over
L:5400.1B hours (R314; the order and the spread DESIGN CHOICE, log entry 174). -/
def State.scrubDue (s : State) (c sector : Nat) : Bool :=
  let ch := s.chan c
  let pass := 3600 * second * s.reg 0x5400_1B c
  pass != 0 && sector == ch.scrubbed && sector < s.sectors c &&
    decide (ch.scrubFrom * s.sectors c + pass * sector ≤ s.now * s.sectors c)

/-- The scrubber has read a sector: the next comes, or with the last a new pass (R314). -/
def State.scrubbedOne (s : State) (c : Nat) : State :=
  let ch := s.chan c
  if ch.scrubbed + 1 < s.sectors c then s.setChan c { ch with scrubbed := ch.scrubbed + 1 }
  else s.setChan c { ch with scrubbed := 0, scrubFrom := ch.scrubFrom + 3600 * second * s.reg 0x5400_1B c }

/-- SCRUB_READ (R314): a sector that is due, read in idle time; a corrected one is rewritten, an uncorrectable one logged. -/
def execScrubRead (channel : Fin 16) (sector : Nat) (corrected uncorrectable : Bool) (syndrome : Nat)
    (s : State) : Out :=
  whenLive s fun s =>
    if s.reg 0x5400_02 channel != 2 || !s.scrubDue channel sector || !(s.itemsAt channel).isEmpty ||
      s.reg 0x5400_0F channel != 0 then s
    else
      let s1 := s.scrubbedOne channel
      if uncorrectable then s1.logMemError (channel.val * 2 ^ 32 + sector * 32) (syndrome % 2 ^ 16) 0xFF
      else if corrected then s1.correctedError channel
      else s1

/-- SELF_REFRESH_ENTRY (R324): the entry command, its point of no return. -/
def execSelfRefreshEntry (channel : Fin 16) (s : State) : Out :=
  whenLive s fun s =>
    if s.reg 0x5400_02 channel = 2 && s.flag 0x5400_14 channel && (s.itemsAt channel).isEmpty &&
        (s.chan channel).idleSince + s.reg 0x5400_15 channel * 1000 ≤ s.now &&
        (List.range 42).all (fun p => decide (6000 < s.tolerance p channel)) then
      (((s.closeRows channel).setReg 0x5400_02 channel 3).setReg 0x5400_0F channel 0).bump 0x5400_16 channel
    else s

/-- Whether a channel's entry into self-refresh had begun, before its entry command, as the request that waits longest there
reached it: it had been idle for L:5400.15 with no tolerance in the way, and the entry has not been aborted yet (R324, R325). -/
def State.entryBegun (s : State) (c : Nat) : Bool :=
  let ch := s.chan c
  s.reg 0x5400_02 c == 2 && s.flag 0x5400_14 c && !ch.aborted &&
    ((s.itemsAt c).head?.any fun x => decide (ch.idleSince + s.reg 0x5400_15 c * 1000 ≤ x.issued)) &&
    (List.range 42).all fun p => decide (6000 < s.tolerance p c)

/-- SELF_REFRESH_EXIT (R325): a request before the entry command aborts the entry that has begun, one after it wakes the
channel. -/
def execSelfRefreshExit (channel : Fin 16) (beforeCommand : Bool) (s : State) : Out :=
  whenLive s fun s =>
    if (s.itemsAt channel).isEmpty then s
    else if beforeCommand then
      if s.entryBegun channel then (s.setChan channel { s.chan channel with aborted := true }).bump 0x5400_17 channel else s
    else if s.reg 0x5400_02 channel = 3 then
      ((s.setReg 0x5400_02 channel 2).setReg 0x5400_0F channel 0).refreshFromNow channel
    else s

/-- DRAM_TRAINING_DONE (R322, R328, R351, R398, R399): a channel that has trained works at the rate and density that its
entries then hold (R309). -/
def execDramTrainingDone (channel : Fin 16) (passed : Bool) (s : State) : Out :=
  whenLive s fun s =>
    let ch := s.chan channel
    if s.reg 0x5400_02 channel != 1 then s
    else if passed then
      let s1 := (s.setReg 0x5400_02 channel 2).setChan channel { ch with
        returning := false, stored := false, idleSince := s.now, openRows := [], checks := [], aborted := false
        refreshed := s.now, trackedAt := s.now, scrubFrom := if ch.scrubFrom = 0 then s.now else ch.scrubFrom
        rate := s.reg 0x5400_03 channel, density := s.reg 0x5400_04 channel }
      (if ch.returning then (s1.dropMoved s).record 0x0C3 (some (dm 0x09)) channel 0 else s1).advanceEpoch.settleDram (dm 0x04)
    else if ch.stored then s.setChan channel { ch with stored := false }
    else
      (((s.setReg 0x5400_02 channel 6).setChan channel { ch with returning := false }).record
        0x0C2 (some (dm 0x04)) channel 0).advanceEpoch.settleDram (dm 0x04)

/-- EVACUATE (R327). -/
def execEvacuate (ss v : Nat) (s : State) : Out :=
  whenManaged s fun s => s.ledgerWrite ss 0x5400_1A (.num v) channelOp

/-- EVACUATION_COMPLETE (R327 step 5, R323). -/
def execEvacuationComplete (channel : Fin 16) (s : State) : Out :=
  whenLive s fun s =>
    if s.dram.evacuating = some channel.val && s.reg 0x5400_02 channel = 4 && s.chanDrained channel then
      let s1 := ((s.moveHolds.setReg 0x5400_02 channel 5).record 0x0C3 (some (dm 0x06)) channel 0).advanceEpoch.endRecovery
      let s2 : State := { s1 with dram := { s1.dram with evacuating := none } }
      if (s2.chan channel).trainAfter then s2.startReturn channel else s2
    else s

/-- RETRAIN_CHANNEL (R328). -/
def execRetrainChannel (ss v : Nat) (s : State) : Out :=
  whenManaged s fun s => s.ledgerWrite ss 0x5400_1A (.num v) channelOp

/-- RETIRE_CHANNEL (R328). -/
def execRetireChannel (ss v : Nat) (s : State) : Out :=
  whenManaged s fun s => s.ledgerWrite ss 0x5400_1A (.num v) channelOp

end Sys2Proof.Machine
end

