-- ==== Sys2Proof/Machine/Line.lean ====
section
/-! DEFINITION. The Swage line and what waits for it (R214, R222-R225, R237, R243-R245): the block scrambler, the test
patterns and their checker, the payload scrambler, run-length stuffing, the cell, and the cells that wait for a slot. -/

namespace Sys2Proof.Machine

set_option Elab.async false

/-! ### Line bits -/

/-- The low `w` bits of a number, most significant first. -/
def numBits (w n : Nat) : List Bool := (List.range w).map fun i => bitAt n (w - 1 - i)

/-- The bits of a byte string, most significant first. -/
def byteBits (bs : Bytes) : List Bool := bs.flatMap fun b => numBits 8 b.toNat

/-- The number that bits spell, most significant first. -/
def bitsNum (bs : List Bool) : Nat := bs.foldl (fun n b => 2 * n + b.toNat) 0

/-- One bit through the block scrambler x^58 + x^39 + 1: the line bit and the last 58 of them (R214). -/
def scrambleBit (st : Nat) (b : Bool) : Bool × Nat :=
  let out := xor b (xor (bitAt st 38) (bitAt st 57))
  (out, (2 * st + out.toNat) % 2 ^ 58)

/-- Bits through the block scrambler (R214). -/
def scramble (st : Nat) : List Bool → List Bool × Nat
  | [] => ([], st)
  | b :: bs =>
    let x := scrambleBit st b
    let r := scramble x.2 bs
    (x.1 :: r.1, r.2)

/-- Line bits through the descrambler (R214). -/
def descramble (st : Nat) : List Bool → List Bool
  | [] => []
  | r :: rs => xor r (xor (bitAt st 38) (bitAt st 57)) :: descramble ((2 * st + r.toNat) % 2 ^ 58) rs

/-- The width and the two taps of a test pattern: PRBS7, PRBS15, and PRBS31 (R237). -/
def prbsTaps (kind : Nat) : Nat × Nat :=
  match kind with
  | 1 => (7, 6)
  | 2 => (15, 14)
  | _ => (31, 28)

/-- The next bit of a test pattern, and its register after it (R224, R237). -/
def prbsBit (kind st : Nat) : Bool × Nat :=
  let w := prbsTaps kind
  let b := xor (bitAt st (w.1 - 1)) (bitAt st (w.2 - 1))
  (b, (2 * st + b.toNat) % 2 ^ w.1)

/-- The next `n` bits of PRBS31 (R224). -/
def prbs31 : Nat → Nat → List Bool
  | 0, _ => []
  | n + 1, st => (prbsBit 3 st).1 :: prbs31 n (prbsBit 3 st).2

/-- The register of the payload scrambler after the anchor of count `c` on logical lane `n` (R224). -/
def payloadSeed (seed c n : Nat) : Nat :=
  let st := Nat.xor (Nat.xor seed (c * 256)) n % 2 ^ 31
  if st = 0 then 2 ^ 31 - 1 else st

/-- Run-length stuffing from a last bit and its run: after ten like bits one of the opposite value (R225). -/
def stuff (last : Bool) (run : Nat) : List Bool → List Bool
  | [] => []
  | b :: bs =>
    let n := if b = last then run + 1 else 1
    if n = 10 then b :: (!b) :: stuff (!b) 1 bs else b :: stuff b n bs

/-- Flip the first of a list of bits, where asked (R239). -/
def flipFirst (yes : Bool) : List Bool → List Bool
  | [] => []
  | b :: bs => xor b yes :: bs

/-- The bits of an anchor interval before stuffing, its marker apart: the rest of the anchor word, the slack words and the
scrambled payload (R222-R224). -/
def intervalBits (seed count number word slack : Nat) (payload : Bytes) (flip : Bool) : List Bool :=
  numBits 40 word ++ (List.range slack).flatMap (fun _ => numBits 32 0x5A5A5A5A) ++
    flipFirst flip (List.zipWith xor (byteBits payload) (prbs31 (8 * payload.length) (payloadSeed seed count number)))

/-- An anchor interval as the line carries it: stuffing passes over the marker, whose last bit is a run of one (R225). -/
def intervalLine (seed count number word slack : Nat) (payload : Bytes) (flip : Bool) : List Bool :=
  numBits 24 (word / 2 ^ 40) ++ stuff true 1 (intervalBits seed count number word slack payload flip)

/-- An anchor word with its check (R223). -/
def anchorWord (number count slackField : Nat) : Nat :=
  let body := 0x7FF8A5 * 2 ^ 32 + number * 2 ^ 24 + count * 2 ^ 8 + slackField
  body * 256 + crc8 (beBytes 7 body)

/-- The pins of a lane drive line bits with its transmit polarity (R213). -/
def State.drive (s : State) (l : Nat) (bs : List Bool) : List Bool :=
  if bitAt (s.reg 0x4000_05 l) 0 then bs.map (!·) else bs

/-- A lane sends a control block: header 10, then the scrambled payload (R214). -/
def State.sendBlock (s : State) (l payload : Nat) : State :=
  let x := s.lane l
  let r := scramble x.scram (numBits 64 payload)
  (s.setLane l { x with scram := r.2 }).send (.block l payload (s.drive l (true :: false :: r.1)))

/-- Ten times the line rate of a rate code, in Gb/s (R212). -/
def lineTenths (rate : Nat) : Nat := [25, 50, 100, 160, 250, 320].getD rate 0

/-- How many units of `bits` line bits a lane at a rate sends in the nanosecond that ends now (R212). -/
def State.unitsNow (s : State) (rate bits : Nat) : Nat :=
  s.now * lineTenths rate / (10 * bits) - (s.now - 1) * lineTenths rate / (10 * bits)

/-! ### The test-pattern checker (R237) -/

/-- A bit reaches a lane's checker: it seeds itself from 31 bits, locks after 64 that agree, and from then on counts each
bit compared and each that differs; one that differs before seeds it afresh (R237; DESIGN CHOICE, log entry 128). -/
def State.checkBit (s : State) (l : Nat) (b : Bool) : State :=
  let x := s.lane l
  let kind := s.reg 0x4000_11 l
  if x.checked < 31 then
    s.setLane l { x with checked := x.checked + 1, check := (2 * x.check + b.toNat) % 2 ^ (prbsTaps kind).1 }
  else
    let r := prbsBit kind x.check
    if s.flag 0x4000_16 l then
      let s1 := (s.setLane l { x with check := r.2 }).bumpBy 0x4000_15 l 1
      if r.1 = b then s1 else s1.bumpBy 0x4000_14 l 1
    else if r.1 != b then s.setLane l { x with checked := 0, check := 0 }
    else
      let s1 := s.setLane l { x with check := r.2, checked := x.checked + 1 }
      if x.checked + 1 = 95 then s1.setReg 0x4000_16 l 1 else s1

/-- A lane under test sends the next bit of its pattern, flipped where an injection asks for it; in near-end loopback its
own receiver takes it (R237-R239). -/
def State.patternBit (s : State) (l : Nat) : State :=
  let x := s.lane l
  let r := prbsBit (s.reg 0x4000_11 l) x.pattern
  let b := xor r.1 x.flipNext
  let s1 := s.setLane l { x with pattern := r.2, flipNext := false, sinceFlip := x.sinceFlip + 1 }
  let s2 := s1.send (.line l (s1.drive l [b]))
  if s2.reg 0x4000_12 l % 4 = 1 then
    s2.checkBit l (xor b (xor (bitAt (s2.reg 0x4000_05 l) 0) (bitAt (s2.reg 0x4000_05 l) 1)))
  else s2

/-! ### The cell (R245) -/

/-- A cell of a type with flags, fields A and B and a payload of up to 240 bytes (R245). -/
def cellOf (type flags a b : Nat) (payload : Bytes) : Bytes :=
  let body := beBytes 1 type ++ beBytes 1 flags ++ beBytes 2 payload.length ++ beBytes 4 a ++ beBytes 4 b ++ payload ++
    List.replicate (240 - payload.length) 0
  body ++ beBytes 4 (crc32c body)

/-- A cell's type. -/
def cellType (c : Bytes) : Nat := field c 0 1
/-- A cell's flags. -/
def cellFlags (c : Bytes) : Nat := field c 1 1
/-- A cell's field A. -/
def cellA (c : Bytes) : Nat := field c 4 4
/-- A cell's field B. -/
def cellB (c : Bytes) : Nat := field c 8 4
/-- A cell's valid payload. -/
def cellPayload (c : Bytes) : Bytes := slice c 12 (field c 2 2)

/-- The cell that fills a slot with nothing to send (R244, R245). -/
def nullCell : Bytes := cellOf 0 0 0 0 []

/-! ### Cells that wait for a slot (R243, R244) -/

/-- Where a type of cell stands in the choice for a slot: time, video, witness, credit, message (R244). -/
def cellRank (type : Nat) : Nat :=
  match type with
  | 3 => 0
  | 1 => 1
  | 5 => 2
  | 4 => 3
  | 2 => 4
  | _ => 5

/-- Put a cell among those that wait: by rank, then by due time, then in the order they came (R244). -/
def queueCell (w : Waiting) : List Waiting → List Waiting
  | [] => [w]
  | x :: xs =>
    if cellRank (cellType w.cell) < cellRank (cellType x.cell) ||
        (cellRank (cellType w.cell) == cellRank (cellType x.cell) && w.due < x.due) then w :: x :: xs
    else x :: queueCell w xs

/-- The cell chosen for a slot, and those that go on waiting: a time cell takes a slot of logical lane 0 only (R244,
R261). -/
def takeCell (lane0 : Bool) : List Waiting → Option (Bytes × List Waiting)
  | [] => none
  | x :: xs =>
    if cellType x.cell = 3 && !lane0 then (takeCell lane0 xs).map fun r => (r.1, x :: r.2) else some (x.cell, xs)

/-- A cell of a frame due at a wall time waits for a slot of a port; any but a null or credit cell ends the port's idle
time (R230, R244). -/
def State.sendCellDue (s : State) (p : Nat) (due : Int) (cell : Bytes) : State :=
  let q := s.port p
  s.setPort p { q with
    outbox := queueCell { due := due, cell := cell } q.outbox
    idleSince := if cellType cell = 0 || cellType cell = 4 then q.idleSince else s.now }

/-- A cell waits for a slot of a port, due now. -/
def State.sendCell (s : State) (p : Nat) (cell : Bytes) : State := s.sendCellDue p s.wall cell

/-- A cell of a video stream waits on a port. -/
def State.streamWaits (s : State) (p stream : Nat) : Bool :=
  (s.port p).outbox.any fun w => cellType w.cell == 1 && cellA w.cell == stream

/-- The trailer of a stream's frame waits on a port (R250). -/
def State.trailerWaits (s : State) (p stream : Nat) : Bool :=
  (s.port p).outbox.any fun w => cellType w.cell == 1 && cellFlags w.cell == 2 && cellA w.cell == stream

/-- The transmit timestamp is written into a Sync or a Delay request as the cell leaves, and t3 of its exchange with it
(R261, R262). -/
def State.stampCell (s : State) (p : Nat) (cell : Bytes) : State × Bytes :=
  let kind := cellA cell / 2 ^ 24
  if cellType cell != 3 || 2 < kind then (s, cell)
  else
    let t := s.wall
    let q := s.port p
    let exch := match q.exch with
      | some (n, t1, t2, t3) => some (n, t1, t2, if kind = 2 && n = cellA cell % 65536 then t else t3)
      | none => none
    (s.setPort p { q with exch := exch }, cellOf 3 0 (cellA cell) (cellB cell) (beBytes 8 t ++ (cellPayload cell).drop 8))

/-- Slot number `i` of the interval of count `c` on a port of a width is filled: the cell leaves (R243-R245, R261). -/
def State.fillSlot (s : State) (p c width i : Nat) : State × Bytes :=
  let q := s.port p
  let r := match takeCell (i % width == 0) q.outbox with
    | none => (s, nullCell)
    | some (cell, rest) => (s.setPort p { q with outbox := rest }).stampCell p cell
  (r.1.send (.cell p (c * 8 * width + i) r.2), r.2)

/-- The slots of an interval are filled in slot order: the cells, oldest first (R243). -/
def State.fillSlots (s : State) (p c width : Nat) : State × List Bytes :=
  (List.range (8 * width)).foldl (fun a i =>
    let r := a.1.fillSlot p c width i
    (r.1, a.2 ++ [r.2])) (s, [])

/-- The payload of logical lane `k` in an interval: its eight cells of the port's slots (R243). -/
def lanePayload (cells : List Bytes) (width k : Nat) : Bytes :=
  (List.range 8).flatMap fun j => cells.getD (j * width + k) []

/-- The cells that wait on a port go with it (R246). -/
def State.clearOutbox (s : State) (p : Nat) : State := s.setPort p { s.port p with outbox := [] }

end Sys2Proof.Machine
end

