-- ==== Sys2Proof/Machine/Frames.lean ====
section
/-! DEFINITION. The frame that an output's egress sends (R165-R168, R174, R248-R250): its pixels and bytes, the hold buffers,
and the cells of a Swage frame as composition produces them. -/

namespace Sys2Proof.Machine

set_option Elab.async false

/-! ### The frame in progress -/

/-- The number of the frame in progress of an output that has started one. -/
def Output.ofNow (x : Output) : Nat := x.curOf

/-- Whether an output drives a Swage port. -/
def State.onSwage (s : State) (o : Nat) : Bool := s.reg 0x3400_03 o == 1

/-- Whether an egress keeps the frames it sends to repeat them: a Swage stream's header, or a hold copy (R167, R168). -/
def State.keepsFrames (s : State) (o : Nat) : Bool := s.onSwage o || s.flag 0x3400_17 o

/-- When the frame in progress of an output is due: its start (R155, R244). -/
def State.dueTime (s : State) (o : Nat) : Int :=
  let t := s.nowInstant o 0 1
  t.1 / (t.2 : Int)

/-! ### Hold buffers (R167, R329) -/

/-- Where one of an output's two hold buffers lies: in its channel's region, at the top of the usable data, outputs in the
order of their numbers (R167, R329; the order DESIGN CHOICE, log entry 146). -/
def State.holdAddress (s : State) (o : Nat) (half : Bool) : Nat :=
  let c := s.holdChannel o
  let below := ((s.holdOutputs c).filter (· < o)).foldl (fun n k => n + s.holdBytes k) 0
  c * 2 ^ 32 + s.targetRoom c + below + (if half then s.hactive o * s.vactive o * 4 else 0)

/-! ### What is sent (R57, R165, R168, R174) -/

/-- A pixel of a frame as a hold buffer holds it (R167, R168). -/
def State.heldPx (s : State) (o : Nat) (half : Bool) (x y : Nat) : Px :=
  let n := leNat (s.load (s.holdAddress o half + 4 * (y * s.hactive o + x)) 4)
  { r := bits n 29 20, g := bits n 19 10, b := bits n 9 0 }

/-- A pixel of the frame in progress of an output as its egress sends it: of a repeat what its hold buffer holds, and the
background from the fill line on where its engine failed (R57, R165, R168, R174). -/
def State.framePx (s : State) (o x y : Nat) : Px :=
  let out := s.output o
  let w := s.hactive o
  let h := s.vactive o
  match out.kind, out.fillLine with
  | .fault, _ => out.cur.faultPx (Config.outputName o) w h x y
  | .repeated, _ =>
    match out.held with
    | some k => if s.onSwage o then k.bank.pxAt w h x y else s.heldPx o k.half x y
    | none => out.cur.pxAt w h x y
  | .filled, some y0 => if y0 ≤ y then Px.ofWord out.cur.background else out.cur.pxAt w h x y
  | _, _ => out.cur.pxAt w h x y

/-- The bytes that an egress sends of the frame in progress, over which its check value runs (R165, R166). -/
def State.frameBytes (s : State) (o : Nat) : Bytes :=
  raster (s.hactive o) (s.vactive o) fun x y => linkPx (s.onSwage o) (s.reg 0x3400_07 o) (s.framePx o x y)

/-- The frame in progress is written into a hold buffer, four bytes a pixel (R167; their order log entry 146). -/
def State.storeHold (s : State) (o : Nat) (half : Bool) : State :=
  s.store (s.holdAddress o half) (raster (s.hactive o) (s.vactive o) fun x y =>
    let p := s.framePx o x y
    leBytes 4 (p.r * 2 ^ 20 + p.g * 2 ^ 10 + p.b))

/-! ### The cells of a Swage frame (R248-R250) -/

/-- Cut a byte string into pieces of `n` bytes. -/
def pieces (n : Nat) : Nat → Bytes → List Bytes
  | 0, _ => []
  | fuel + 1, bs => if bs.isEmpty then [] else bs.take n :: pieces n fuel (bs.drop n)

/-- The frame sequence of an output's stream: the low 32 bits of OF, which is WF at divisor 1 (R39, R101). -/
def streamSeq (ofNum : Nat) : Nat := ofNum % 2 ^ 32

/-- The cells of a frame's content: data cells from index 1, then the trailer (R248, R249). -/
def frameCells (stream seq : Nat) (content : Bytes) : List Bytes :=
  let ds := pieces 240 (content.length / 240 + 1) content
  (ds.zipIdx).map (fun d => cellOf 1 1 stream (d.2 + 1) d.1) ++
    [cellOf 1 2 stream (ds.length + 1) (beBytes 4 seq ++ beBytes 4 (crc32c content) ++ beBytes 4 ds.length)]

/-- Video leaves a port of a device that is not fenced, while the port is in service (R343). -/
def State.sendsVideo (s : State) (p : Nat) : Bool := p < 24 && s.portInService p && s.reg 0x5800_03 != 7

/-- The outputs that a port carries. -/
def State.portOutputs (s : State) (p : Nat) : List Nat :=
  (List.range 32).filter fun o => s.flag 0x3400_02 o && s.reg 0x3400_03 o == 1 && s.reg 0x3400_04 o == p

/-- Bytes of the frame in progress of an output that composition has produced (R250). -/
def State.bytesComposed (s : State) (o : Nat) : Nat :=
  let p := s.scanPosition o
  let w := s.hactive o
  min (p.2 * w + min p.1 w) (w * s.vactive o) * s.linkBytes o

/-- The data cells of a Swage frame that are full by now wait for their slots, those of a frame whose header has gone (R244,
R250). -/
def State.feedOutput (s : State) (o : Nat) : State :=
  let x := s.output o
  let n := s.bytesComposed o / 240
  if !x.trailerDue || n ≤ x.fed then s
  else
    let cells := frameCells (s.reg 0x3400_05 o) (streamSeq x.ofNow) (s.frameBytes o)
    let s1 := ((cells.take n).drop x.fed).foldl
      (fun (t : State) c => t.sendCellDue (s.reg 0x3400_04 o) (s.dueTime o) c) s
    s1.setOutput o { s1.output o with fed := n }

/-- The frames of a port's streams go on with what composition has produced (R250). -/
def State.feedPort (s : State) (p : Nat) : State :=
  if s.sendsVideo p then (s.portOutputs p).foldl State.feedOutput s else s

end Sys2Proof.Machine
end

