-- ==== Sys2Proof/Machine/Lanes.lean ====
section
/-! DEFINITION. Swage lanes (R211-R241): bring-up through Detect, Exchange, Train, Verify, Step and Run entry, anchors
and slack, Banked idle, lane faults, substitution of spares, and the lane tests. -/

namespace Sys2Proof.Machine

set_option Elab.async false

/-! ### Lanes and ports (R211, R217, R232, R242) -/

/-- The port that a spare is assigned to, L:400C.02. -/
def State.sparePort (s : State) (l : Nat) : Nat := s.reg 0x400C_02 (l - 48)

/-- The enabled port that a lane belongs to, the spares assigned to it included (R211). -/
def State.portOfLane (s : State) (l : Nat) : Option Nat :=
  if l < 48 then (List.range 24).find? fun p => s.flag 0x4400_02 p && (s.portLanes p).contains l
  else if s.sparePort l < 24 && s.flag 0x4400_02 (s.sparePort l) then some (s.sparePort l) else none

/-- The spare lanes assigned to a port. -/
def State.sparesOf (s : State) (p : Nat) : List Nat := [48, 49, 50, 51].filter fun l => s.sparePort l == p

/-- Set a spare's state, L:400C.03; other lanes have none. -/
def State.setSpare (s : State) (l st : Nat) : State := if l < 48 then s else s.setReg 0x400C_03 (l - 48) st

/-- A spare replaces no lane any more: L:400C.03 and L:400C.04; other lanes have none (R240). -/
def State.clearSpare (s : State) (l st : Nat) : State :=
  if l < 48 then s else (s.setReg 0x400C_03 (l - 48) st).setReg 0x400C_04 (l - 48) 0xFF

/-- The lanes of a port that are brought up together (R217). -/
def State.bringUpLanes (s : State) (p : Nat) : List Nat :=
  (s.portLanes p ++ (s.sparesOf p).filter fun l => s.reg 0x400C_03 (l - 48) != 4).filter
    fun l => (s.lane l).solo = .no

/-- The lanes that pass each step with a lane (R217, R236). -/
def State.laneMates (s : State) (l : Nat) : List Nat :=
  if (s.lane l).solo != .no then [l]
  else match s.portOfLane l with
    | some p => s.bringUpLanes p
    | none => [l]

/-- A lane enters a state, L:4000.02. -/
def State.enterLane (s : State) (st l : Nat) : State :=
  (s.setReg 0x4000_02 l st).setLane l { s.lane l with since := s.now, stepDone := false }

/-- A list of lanes enters a state. -/
def State.enterLanes (s : State) (st : Nat) (ls : List Nat) : State := ls.foldl (fun t l => t.enterLane st l) s

/-- The lane that carries logical lane `k` of a port (R234). -/
def State.carrierOf (s : State) (p k : Nat) : Nat :=
  let lane := s.reg 0x4400_03 p + k
  ((s.portLanes p ++ s.sparesOf p).find? fun l => (s.lane l).carries == some lane).getD lane

/-- The lanes that carry a port's logical lanes, in their order. -/
def State.carriers (s : State) (p : Nat) : List Nat := (List.range (s.reg 0x4400_04 p)).map (s.carrierOf p)

/-- The rate of a port: that of the first lane in service or Banked that carries one of its own (R212). -/
def State.portRate (s : State) (p : Nat) : Nat :=
  match (s.carriers p).find? fun l => [8, 9].contains (s.reg 0x4000_02 l) with
  | some l => s.reg 0x4000_03 l
  | none => 0

/-- The highest rate code that a lane may reach: its quad's ceiling, and its test rate in a loopback test (R213,
R238). -/
def State.laneTop (s : State) (l : Nat) : Nat :=
  if (s.lane l).solo = .loop then min (s.laneCeiling l) (s.reg 0x4000_18 l) else s.laneCeiling l

/-! ### What a lane sends in Block mode (R216) -/

/-- The logical lane that a lane's Capability A states: 0xFF for a spare. -/
def State.logicalLane (s : State) (l : Nat) : Nat :=
  if 48 ≤ l then 0xFF
  else match s.portOfLane l with
    | some p => l - s.reg 0x4400_03 p
    | none => 0

/-- A lane's Capability A (R216); it offers the rates up to its quad's ceiling (DESIGN CHOICE, log entry 28). -/
def State.capabilityA (s : State) (l : Nat) : Nat :=
  let x := s.lane l
  let g := laneGroup l
  let b := fun (c : Bool) (i : Nat) => if c then 2 ^ i else 0
  0x2D * 2 ^ 56 + 2 ^ 52 + (2 ^ (s.laneTop l + 1) - 1) * 2 ^ 46 + b (s.reg 0x4008_02 g == 1) 45 +
    b (s.reg 0x4008_03 g != 0 && !x.spreadOff) 44 + 2 ^ 43 + b (bitAt (s.reg 0x4000_12 l) 7) 42 + b x.acked 41 +
    b (decide (48 ≤ l)) 40 + s.logicalLane l * 2 ^ 32 + x.seed

/-- A lane's Capability B (R216). -/
def State.capabilityB (s : State) (l : Nat) : Nat :=
  let p := (s.portOfLane l).getD 0
  0x33 * 2 ^ 56 + 2 ^ 48 + s.reg 0x4400_04 p * 2 ^ 40 + p * 2 ^ 32 + Config.serialNumber.toNat % 2 ^ 32

/-- A lane sends its two capability blocks. -/
def State.sendCapability (s : State) (l : Nat) : State :=
  (s.sendBlock l (s.capabilityA l)).sendBlock l (s.capabilityB l)

/-- The Idle block (R216). -/
def idleBlock : Nat := 0x1E * 2 ^ 56

/-- A lane enters Exchange and sends its set of blocks: the two capability blocks and 14 Idle blocks (R217). -/
def State.startExchange (s : State) (l : Nat) : State :=
  (List.range 14).foldl (fun t _ => t.sendBlock l idleBlock) ((s.enterLane 3 l).sendCapability l)

/-- A lane enters Verify, in which it sends Idle blocks (R217). -/
def State.startVerify (s : State) (l : Nat) : State := (s.enterLane 5 l).sendBlock l idleBlock

/-- A lane sends a Train block (R216, R219). -/
def State.sendTrain (s : State) (l merit : Nat) : State :=
  let x := s.lane l
  s.sendBlock l (0x55 * 2 ^ 56 + x.want * 2 ^ 53 + s.reg 0x4000_07 l * 2 ^ 50 + merit % 256 * 2 ^ 42 +
    (if x.selfDone then 2 ^ 41 else 0) + s.reg 0x4000_03 l * 2 ^ 38)

/-- A lane sends a Step block: target, request or acknowledge; how many blocks remain before the switch is a free value
(R216, log entry 4). -/
def State.sendStep (s : State) (target : Nat) (request : Bool) (l : Nat) : State :=
  let d := s.draw
  d.2.sendBlock l (0x66 * 2 ^ 56 + target * 2 ^ 53 + (if request then 2 ^ 52 else 2 ^ 51) + d.1 % 2 ^ 16 * 2 ^ 35)

/-- A lane sends its 128 Run entry blocks, countdown 127 to 0, with the anchor count of the first anchor (R216, R217). -/
def State.sendRunEntry (s : State) (count l : Nat) : State :=
  (List.range 128).foldl (fun t k => t.sendBlock l (0x78 * 2 ^ 56 + (127 - k) * 2 ^ 48 + count * 2 ^ 32)) s

/-! ### Bring-up (R217-R221) -/

/-- A list of lanes starts a bring-up in Detect, with a fresh session seed and Idle blocks (R217, R224, L:4000.0F). -/
def State.detect (s : State) (ls : List Nat) : State :=
  let d := s.draw
  ls.foldl (fun t l =>
    let x := t.lane l
    let rate := if x.solo = .retrain then t.portRate ((t.portOfLane l).getD 0) else 0
    (((((t.setReg 0x4000_02 l 1).setReg 0x4000_03 l rate).setReg 0x4000_06 l 0xFF).bump 0x4000_0F l).setLane l
      { since := t.now, fails := x.fails, seed := d.1 % 2 ^ 31, solo := x.solo, scram := x.scram }).sendBlock l idleBlock) d.2

/-- A port starts its bring-up with every lane and every spare assigned to it (R217). -/
def State.startPort (s : State) (p : Nat) : State :=
  let ls := s.portLanes p ++ s.sparesOf p
  let s1 := ls.foldl (fun (t : State) l => (t.clearSpare l 0).setLane l {}) s
  (s1.setReg 0x4400_09 p 1).detect ls

/-- How long a lane backs off, in ns (R220). -/
def State.backOffTime (s : State) (l : Nat) : Nat :=
  let slow := match s.portOfLane l with
    | some p => (s.port p).slow && (match (s.port p).drops with
        | t :: _ => decide (s.now < t + 60 * second)
        | [] => false)
    | none => false
  let n := (s.lane l).fails
  if slow || 10 < n then 1000 * milli else 2 ^ (n - 1) * milli

/-- A list of lanes backs off after a lane failed, with E-0x090 and a code (R217, R218, R220). -/
def State.backOff (s : State) (ls : List Nat) (l : Nat) (c : Code) : State :=
  let s1 := ls.foldl (fun t k =>
    ((t.enterLane 2 k).setReg 0x4000_03 k 0xFF).setLane k
      { (t.enterLane 2 k).lane k with fails := (t.lane k).fails + 1 }) s
  if c = sw 0x01 then s1.recordEvery s1.now (60 * second) true 0x090 (some c) l 0xFF
  else s1.record 0x090 (some c) l 0xFF

/-- The rates that a lane's quad and its partner both allow (R213, R218). -/
def State.commonRates (s : State) (l : Nat) : List Nat :=
  (List.range 6).filter fun r => r ≤ s.laneTop l && bitAt (s.lane l).capA (46 + r)

/-- Whether a lane leads its bring-up: the larger session seed does (R218). -/
def Lane.leads (x : Lane) : Bool := x.capA % 2 ^ 31 < x.seed

/-- The lowest rate above `r` that every one of a list of lanes shares with its partner (R218). -/
def State.nextRate (s : State) (ls : List Nat) (r : Nat) : Option Nat :=
  (List.range 6).find? fun k => r < k && ls.all fun l => (s.commonRates l).contains k

/-- A list of lanes starts training at a rate, asking for preset 0 first (R219). -/
def State.startTraining (s : State) (r : Nat) (ls : List Nat) : State :=
  ls.foldl (fun t l =>
    let t1 := (t.enterLane 4 l).setReg 0x4000_03 l r
    (t1.setLane l { t1.lane l with merits := [], want := 0, selfDone := false, peerDone := false, stepTo := none
                                   finalRate := false }).sendTrain l 0) s

/-- A lane stands as a ready spare of its port: in Run mode, until at 10 Gb/s and above an anchor of its own has announced
Banked (R231, R232, R236). -/
def State.standReady (s : State) (l : Nat) : State :=
  let x := s.lane l
  let s1 := ((s.enterLane 8 l).setReg 0x4000_06 l 0xFF).clearSpare l 1
  s1.setLane l { s1.lane l with solo := .no, ready := decide (l < 48), fails := 0, carries := none, seed := x.seed }

/-- The retrain of a lane that is the recovery action in progress ends (R236, R332). -/
def State.endRetrain (s : State) (l : Nat) : State :=
  if s.recover.active = some (.laneRetrain l) then s.endRecovery else s

/-- Exchange has passed: equal seeds restart it with new ones, else training starts (R218). -/
def State.leaveExchange (s : State) (ls : List Nat) : State :=
  let equal := ls.any fun l => (s.lane l).capA % 2 ^ 31 == (s.lane l).seed
  if equal then
    let d := s.draw
    ls.foldl (fun t l =>
      (t.setLane l { t.lane l with
        seed := d.1 % 2 ^ 31, capSeen := 0, capHalf := false, acked := false }).startExchange l) d.2
  else s.startTraining (s.reg 0x4000_03 (ls.headD 0)) ls

/-- A Loopback block that starts (1) or stops (2) far-end loopback, with a pattern (R216). -/
def loopBlock (kind pattern : Nat) : Nat := 0x99 * 2 ^ 56 + kind * 2 ^ 54 + pattern * 2 ^ 50

/-- Verification has passed: the lanes keep their presets, and step, enter Run, or for a lane alone end its retrain or
start its loopback (R217-R219, R236, R238). -/
def State.leaveVerify (s : State) (ls : List Nat) : State :=
  let l0 := ls.headD 0
  let r := s.reg 0x4000_03 l0
  let s1 := ls.foldl (fun (t : State) l =>
    t.setLane l { t.lane l with rates := (r, t.reg 0x4000_07 l) :: (t.lane l).rates }) s
  let x := s1.lane l0
  let next := if x.finalRate || x.solo = .retrain then none else s1.nextRate ls r
  match next with
  | some k =>
    let s2 := s1.enterLanes 6 ls
    if x.leads then ls.foldl (fun t l => t.sendStep k true l) s2 else s2
  | none =>
    match x.solo with
    | .retrain =>
      let count := match s1.portOfLane l0 with | some p => (s1.port p).anchorCount | none => 0
      (((s1.sendRunEntry count l0).standReady l0).advanceEpoch).endRetrain l0
    | .loop => (s1.enterLane 10 l0).sendBlock l0 (loopBlock 1 (s1.reg 0x4000_11 l0))
    | .no =>
      let d := s1.draw
      let count := d.1 % 65536
      let s2 := match s1.portOfLane l0 with
        | some p => d.2.setPort p { d.2.port p with anchorCount := count }
        | none => d.2
      ls.foldl (fun t l => (t.enterLane 7 l).sendRunEntry count l) s2

/-- A step passes once every lane of the port has passed it (R217). -/
def State.advanceLanes (s : State) (ls : List Nat) : State :=
  match ls with
  | [] => s
  | l0 :: _ =>
    let st := s.reg 0x4000_02 l0
    if ls.all fun l => s.reg 0x4000_02 l == st && (s.lane l).stepDone then
      if st = 1 then ls.foldl (fun t l => t.startExchange l) s
      else if st = 3 then s.leaveExchange ls
      else if st = 4 then ls.foldl (fun t l => t.startVerify l) s
      else if st = 5 then s.leaveVerify ls
      else s
    else s

/-- A lane has passed the step it is in. -/
def State.passStep (s : State) (l : Nat) : State :=
  let s1 := s.setLane l { s.lane l with stepDone := true }
  s1.advanceLanes (s1.laneMates l)

/-- A lane that is brought up apart has failed: a spare or a lane that retrains is marked failed and retried (R217,
R236). -/
def State.failAlone (s : State) (l : Nat) (c : Code) : State :=
  let x := s.lane l
  let s1 := (s.setSpare l 4).setLane l { x with solo := .retrain }
  let s2 := (s1.backOff [l] l c).endRetrain l
  match s2.portOfLane l with
  | some p => if x.solo = .no then s2.advanceLanes (s2.bringUpLanes p) else s2
  | none => s2

/-- A lane has failed Detect, Exchange, or a rate with none below it: it backs off, with its port unless it is a spare
or retrains (R217). -/
def State.failBringUp (s : State) (l : Nat) (c : Code) : State :=
  if (48 ≤ l && (s.lane l).solo = .no) || (s.lane l).solo = .retrain then s.failAlone l c
  else s.backOff (s.laneMates l) l c

/-- Training or verification has failed at a rate: the port switches back to the last rate it passed, which is final,
with E-0x091 and SW-0x03 (R219). -/
def State.failRate (s : State) (l : Nat) : State :=
  if (48 ≤ l && (s.lane l).solo = .no) || (s.lane l).solo = .retrain then s.failAlone l (sw 0x01)
  else
    match (s.lane l).rates with
    | [] => s.backOff (s.laneMates l) l (sw 0x01)
    | (r, _) :: _ =>
      let s1 := s.record 0x091 (some (sw 0x03)) l (s.reg 0x4000_03 l)
      (s1.laneMates l).foldl (fun t k =>
        let x := t.lane k
        let kept := (x.rates.headD (r, 0)).2
        let t1 := (t.enterLane 6 k).setReg 0x4000_07 k kept
        t1.setLane k { t1.lane k with stepTo := some r, finalRate := true, rates := x.rates.drop 1 }) s1

/-- Whether a lane refuses its partner's capability (R218). -/
def State.capRefused (s : State) (l : Nat) : Bool :=
  let x := s.lane l
  let logical := bits x.capA 39 32
  bits x.capA 55 52 != 1 || (s.commonRates l).isEmpty ||
  (match s.portOfLane l with
    | some p => bits x.capB 47 40 != s.reg 0x4400_04 p ||
        (if 48 ≤ l then logical != 0xFF else decide (s.reg 0x4400_04 p ≤ logical))
    | none => false)

/-- The clocking mode that both capabilities agree on; a one-sided request turns this side's spread off and records E-0x094 with SW-0x09 (R229). -/
def State.agreeClock (s : State) (l : Nat) : State :=
  let mine := s.reg 0x4008_02 (laneGroup l) == 1
  let theirs := bitAt (s.lane l).capA 45
  let s1 := (s.setReg 0x4000_05 l (withBit (s.reg 0x4000_05 l) 4 (mine && theirs))).setLane l
    { s.lane l with spreadOff := mine != theirs }
  if mine != theirs then s1.record 0x094 (some (sw 0x09)) ((s1.portOfLane l).getD l) 0 else s1

/-- A capability block of the type expected: three identical receptions of the pair set acknowledge (R217, R218). -/
def State.takeCapability (s : State) (l : Nat) (payload : Nat) : State :=
  let x := s.lane l
  let isA := bits payload 63 56 == 0x2D
  let strip := withBit payload 41 false
  let x1 : Lane :=
    if isA then
      if withBit x.capA 41 false = strip then { x with capA := payload, capHalf := true }
      else { x with capA := payload, capSeen := 0, capHalf := true }
    else if !x.capHalf then x
    else if x.capB = payload then { x with capSeen := x.capSeen + 1, capHalf := false }
    else { x with capB := payload, capSeen := 1, capHalf := false }
  let s1 := (s.setLane l x1).setBlob 0x4000_10 l (beBytes 8 x1.capA ++ beBytes 8 x1.capB)
  if x1.capSeen < 3 then s1
  else if s1.capRefused l then s1.failBringUp l (sw 0x02)
  else
    let s2 := if x1.acked then s1
      else ((s1.setLane l { x1 with acked := true }).agreeClock l).sendCapability l
    if bitAt x1.capA 41 && !x1.stepDone then s2.passStep l else s2

/-- Whether a lane serves a far-end loopback, and sends back what it recovers (R238). -/
def State.returnsBits (s : State) (l : Nat) : Bool := (s.lane l).looped && (s.lane l).solo != .loop

/-- The types of Block-mode control blocks (R216). -/
def blockTypes : List Nat := [0x1E, 0x2D, 0x33, 0x55, 0x66, 0x78, 0x99]

/-- Receive a block: invalid headers before it are counted, one of an unknown type is discarded and counted, one of another type
than its command's acts on nothing (R214, R215). -/
def State.onBlock (s0 : State) (l : Nat) (block : RxBlock) (types : List Nat) (f : State → Nat → State) : State :=
  let w := block.payload.toNat
  let t := bits w 63 56
  let s := if block.badHeaders = 0 then s0 else s0.bumpBy 0x4000_08 l block.badHeaders
  if !blockTypes.contains t then s.bump 0x4000_08 l
  else if types.contains t then f s w
  else s

/-- A Train block at the rate being trained (R219). -/
def State.takeTrain (s : State) (l : Nat) (merit : Nat) (selfDone : Bool) (payload : Nat) : State :=
  if s.reg 0x4000_02 l != 4 || bits payload 40 38 != s.reg 0x4000_03 l then s
  else
    let x := s.lane l
    let s1 := s.setReg 0x4000_07 l (bits payload 55 53)
    let x1 : Lane :=
      if x.selfDone then x
      else
        let ms := (x.want, merit) :: x.merits
        if selfDone then
          let best := ms.foldl (fun (b : Nat × Nat) m => if b.2 ≤ m.2 then m else b) (x.want, merit)
          { x with merits := ms, want := best.1, selfDone := true }
        else { x with merits := ms, want := min 7 (x.want + 1) }
    let x2 : Lane := { x1 with peerDone := bitAt payload 41 }
    let s2 := (s1.setLane l x2).sendTrain l merit
    if x2.selfDone && x2.peerDone && !x2.stepDone then s2.passStep l else s2

/-- A Step block: the follower acknowledges a request for the next common rate, the leader takes an acknowledgement
(R213, R216, R218). -/
def State.takeStep (s : State) (l : Nat) (payload : Nat) : State :=
  let x := s.lane l
  let target := bits payload 55 53
  if s.reg 0x4000_02 l != 6 || x.stepDone || x.finalRate ||
      s.nextRate (s.laneMates l) (s.reg 0x4000_03 l) != some target then s
  else if x.leads then
    if bitAt payload 51 then (s.setLane l { x with stepTo := some target }).passStep l else s
  else if bitAt payload 52 then
    ((s.setLane l { x with stepTo := some target }).sendStep target false l).passStep l
  else s

/-! ### Ports in service (R120, R230, R246, R398) -/

/-- Whether a port drives an enabled video stream, its own or as a twin (R230, R344). -/
def State.portStreams (s : State) (p : Nat) : Bool :=
  ((List.range 32).any fun o => s.flag 0x3400_02 o && s.reg 0x3400_03 o == 1 && s.reg 0x3400_04 o == p) ||
    s.sources.any fun x => x.2.upPort == p || (x.2.upPort < 24 && s.reg 0x5840_02 x.2.upPort == p)

/-- The device listens before it joins a wall, from its first trust-4 port in service (R120). -/
def State.startListening (s : State) (p : Nat) : State :=
  if s.reg 0x4400_05 p = 4 && !s.commits.hadPort then
    let s1 : State := { s with commits := { s.commits with hadPort := true, listenSince := some s.now } }
    if s1.reg 0x2800_06 = 2 then s1 else s1.setReg 0x2800_06 0 1
  else s

/-- A port is in service: its state, its readiness bit, and what follows it (R120, R221, R275, R353, R398). -/
def State.portUp (s : State) (p : Nat) : State :=
  let s1 := (s.setReg 0x4400_09 p 2).setReg 0x1010_05 0 (withBit (s.reg 0x1010_05) p true)
  let park := [4, 7].contains (s1.reg 0x5800_03)
  let q := s1.port p
  let s2 := s1.setPort p { q with
    timeLost := false, idleSince := s1.now, parked := park, bankReq := park && decide (2 ≤ s1.portRate p)
    substReq := none, substGood := 0, substLater := none, backFrom := none, peerReq := none }
  (s2.startListening p).followTimePort

/-- Note that a port has left service (R220). -/
def State.noteDrop (s : State) (p : Nat) : State :=
  let q := s.port p
  let recent := q.drops.filter fun t => decide (s.now < t + 60 * second)
  s.setPort p { q with
    drops := s.now :: recent, slow := (q.slow && !recent.isEmpty) || decide (4 < recent.length + 1)
    substReq := none, substGood := 0, substLater := none, backFrom := none, peerReq := none, bankReq := false }

/-- The frames whose trailers wait on a port end without them (R250). -/
def State.cutStreams (s : State) (p : Nat) : State :=
  (s.portOutputs p).foldl (fun (t : State) o =>
    if t.trailerWaits p (t.reg 0x3400_05 o) then t.setOutput o { t.output o with trailerDue := true } else t) s

/-- A port in service is taken down with E-0x093 and a code; it is faulted until it is in service again, and its lanes
retry bring-up; nothing waits on it any more (R220, R235, R246). It strikes a substitution that runs for one of its outputs
(R334). -/
def State.portDown (s : State) (p : Nat) (c : Code) : State :=
  let ls := s.portLanes p ++ s.sparesOf p
  let s0 := s.strikeRunning (s.portOutputs p)
  let s1 := ((s0.setReg 0x4400_09 p 3).setReg 0x1010_05 0 (withBit (s0.reg 0x1010_05) p false)).noteDrop p
  let s2 := ls.foldl (fun (t : State) l =>
    (((t.enterLane 2 l).setReg 0x4000_03 l 0xFF).clearSpare l 0).setLane l { since := t.now, fails := 1 }) s1
  let keep := s2.recover.queue.filter fun r =>
    match r with
    | .laneRetrain l | .laneBack l => !ls.contains l
    | _ => true
  let active := match s2.recover.active with
    | some (.laneRetrain l) | some (.laneBack l) => if ls.contains l then none else s2.recover.active
    | a => a
  let s3 : State := { s2 with recover := { s2.recover with queue := keep, active := active } }
  (((s3.cutStreams p).clearOutbox p).record 0x093 (some c) p 0).advanceEpoch.followTimePort

/-! ### Substitution of spares (R232-R236, R334, R338) -/

/-- The ready spares of a port, lowest lane first; a retrained lane is one (R232, R236). -/
def State.readySpares (s : State) (p : Nat) : List Nat :=
  ((s.portLanes p).filter fun l => (s.lane l).ready) ++
    (s.sparesOf p).filter fun l => s.reg 0x400C_03 (l - 48) == 1

/-- A lane of a port that runs wakes from Banked with a burst of Run entry blocks, once it has been idle for 100 ns (R231,
R234). -/
def State.wakeLane (s : State) (p l : Nat) : State :=
  if s.reg 0x4000_02 l = 9 && (s.lane l).since + 100 ≤ s.now then (s.sendRunEntry (s.port p).anchorCount l).enterLane 8 l
  else s

/-- A ready spare takes over a lane of its port from the physical lane that carried it, in both directions: its seed goes
on, the request, E-0x092, and the retrain of the lane that it relieves (R234, R236). -/
def State.substituteLane (s : State) (p lane faulty spare : Nat) : State :=
  let s1 := (s.wakeLane p spare).setSpare spare 2
  let s2 := if spare < 48 then s1 else s1.setReg 0x400C_04 (spare - 48) lane
  let s3 := s2.setLane spare { s2.lane spare with
    carries := some lane, ready := false, anchorLock := 0, lostRun := 0, seed := (s2.lane faulty).seed }
  let s4 := (s3.enterLane 11 faulty).setPort p
    { s3.port p with substReq := some (lane - s3.reg 0x4400_03 p), substGood := 0 }
  (s4.record 0x092 (some (sw 0x07)) spare lane).queueRecovery (.laneRetrain faulty) (s4.portOutputs p)

/-- The physical lane that a faulty lane stands for: itself, or what it carries as a spare. -/
def State.carried (s : State) (l : Nat) : Nat := ((s.lane l).carries).getD l

/-- A lane gives up its logical lane to a ready spare, and is no spare itself any more where it stood as one (R234, R240). -/
def State.relieveLane (s : State) (p l spare : Nat) : State :=
  let s1 := (s.clearSpare l 4).setLane l { s.lane l with carries := none }
  s1.substituteLane p (s.carried l) l spare

/-- A lane of a port cannot carry its logical lane any more: a ready spare takes over, or the port goes down; a spare
that serves strikes a recovery (R234, R235, R334). -/
def State.replaceLane (s : State) (p l : Nat) : State :=
  let serving := (s.lane l).carries.isSome
  let s1 := if serving then s.strike (s.portOutputs p) else s
  match s1.readySpares p with
  | x :: _ =>
    if (s1.port p).substReq.isSome then s1.portDown p (sw 0x08)
    else s1.relieveLane p l x
  | [] => s1.portDown p (sw 0x08)

/-- A lane in service has a fault: state 11 and E-0x091; an idle spare is marked failed (R233-R235). -/
def State.laneFault (s : State) (l : Nat) (c : Code) : State :=
  if s.reg 0x4000_02 l != 8 then s
  else
    let s1 := ((s.enterLane 11 l).record 0x091 (some c) l (s.reg 0x4000_03 l)).advanceEpoch
    match s1.portOfLane l with
    | none => s1
    | some p =>
      if (s1.readySpares p).contains l then
        ((s1.setSpare l 4).setLane l { s1.lane l with ready := false }).queueRecovery (.laneRetrain l) []
      else s1.replaceLane p l

/-- A lane's move back from the spare that serves it starts, by R234 in reverse: the lane wakes and carries its logical lane
again with the seed going on, the request is set, and the spare stops driving (R338). -/
def State.moveBack (s : State) (p lane spare : Nat) : State :=
  let s1 := ((s.setSpare spare 2).setLane spare { s.lane spare with carries := none }).wakeLane p lane
  let s2 := s1.setLane lane { s1.lane lane with
    carries := some lane, ready := false, anchorLock := 0, lostRun := 0, seed := (s.lane spare).seed }
  s2.setPort p { s2.port p with substReq := some (lane - s.reg 0x4400_03 p), substGood := 0, backFrom := some spare }

/-- Logical lane `k` of a port moves to another lane at the partner's word: back to its own, or to a ready spare, and one that
served already strikes a recovery (R234, R235, R334, R338). -/
def State.moveLane (s : State) (p k target : Nat) : State :=
  let lane := s.reg 0x4400_03 p + k
  let c := s.carrierOf p k
  if target = lane then s.moveBack p lane c
  else
    let s1 := if (s.lane c).carries.isSome then s.strike (s.portOutputs p) else s
    (s1.relieveLane p c target).advanceEpoch

/-- The partner asks for logical lane `k` to be substituted, on a lane that it drives already or on the first ready one; with
another substitution running the lower lane goes first, and that one again after it (R235). -/
def State.peerRequest (s : State) (p k : Nat) (on : Option Nat) : State :=
  if s.reg 0x4400_04 p ≤ k then s
  else match (s.port p).substReq, s.readySpares p with
    | some j, [] => if j = k then s else s.portDown p (sw 0x08)
    | some j, x :: _ =>
      if k < j then (s.setPort p { s.port p with substLater := some j }).moveLane p k (on.getD x) else s
    | none, [] => s.portDown p (sw 0x08)
    | none, x :: _ => s.moveLane p k (on.getD x)

/-- A request bit, or none, in a good anchor of a logical lane: the partner's request is taken once, and not while a lower
lane is substituted first (R234, R235). -/
def State.seeRequest (s : State) (p number field' : Nat) : State :=
  let q := s.port p
  let k := field' % 8
  if !bitAt field' 3 then
    if q.peerReq.isSome && q.peerReq != some number then s.setPort p { q with peerReq := none } else s
  else
    let later := (match q.substReq with | some j => decide (j < k) | none => false) && !(s.readySpares p).isEmpty
    if q.peerReq == some k || later then s
    else (s.setPort p { q with peerReq := some k }).peerRequest p k none

/-- The logical lane is back on its own lane: the spare is ready again, with E-0x0D6, and the recovery action that moved it
ends (R332, R338). -/
def State.returnLane (s : State) (p lane : Nat) : State :=
  let s1 := s.setLane lane { s.lane lane with carries := none }
  match (s1.port p).backFrom with
  | none => s1
  | some spare =>
    let s2 := ((s1.setPort p { s1.port p with backFrom := none }).standReady spare).advanceEpoch
    let s3 := s2.record 0x0D6 (some (pa 0x0D)) 0 s2.imageGen
    if s3.recover.active = some (.laneBack lane) then s3.endRecovery else s3

/-- The lane that stands for a lane. -/
def State.servingLane (s : State) (lane : Nat) : Option Nat :=
  (List.range 52).find? fun l => l != lane && (s.lane l).carries == some lane

/-- The recovery action that moves a lane back starts; while another substitution runs on its port it goes on waiting, and
where no spare serves the lane any more it is dropped (R333, R338). -/
def State.startLaneBack (s : State) (lane : Nat) : State :=
  match s.servingLane lane, s.portOfLane lane with
  | some spare, some p =>
    if !(s.lane lane).ready || !s.portInService p then s
    else if (s.port p).substReq.isSome then { s with recover := { s.recover with queue := .laneBack lane :: s.recover.queue } }
    else { s with recover := { s.recover with active := some (.laneBack lane) } }.moveBack p lane spare
  | _, _ => s

/-- A write of L:5810.06: a recovery action of kind 5 is queued; with the queue full it is refused as well (R332, R338; log entry
45). -/
def switchBackLaneOp : WriteOp := fun s _ _ v =>
  if (s.servingLane v.n).isSome && (s.lane v.n).ready && s.recover.queue.length < 8 then
    ({ s with recover := { s.recover with queue := s.recover.queue ++ [.laneBack v.n] } }, .ok)
  else (s, .no (pa 0x0C))

/-- Whether a lane retrains, or waits to. -/
def State.anyRetrain (s : State) : Bool :=
  (match s.recover.active with | some (.laneRetrain _) => true | _ => false) ||
    s.recover.queue.any fun r => r.kind == 4

/-- A write of L:4000.17 (R236). -/
def retrainOp : WriteOp := fun s _ l _ =>
  match s.portOfLane l with
  | none => (s, .no (sw 0x0B))
  | some p =>
    if s.reg 0x4000_02 l != 8 || s.anyRetrain || (s.port p).substReq.isSome || (s.readySpares p).contains l then
      (s, .no (sw 0x0B))
    else
      match s.readySpares p with
      | [] => (s, .no (sw 0x0B))
      | x :: _ =>
        let s1 := (s.clearSpare l 0).setLane l { s.lane l with carries := none }
        ((s1.substituteLane p (s.carried l) l x).advanceEpoch, .ok)

/-- A lane starts its retrain alone, at the port's rate (R236). -/
def State.startRetrain (s : State) (l : Nat) : State :=
  (s.setLane l { s.lane l with solo := .retrain }).detect [l]

/-! ### Anchors (R222-R230, R233-R235) -/

/-- The anchor word that a lane of a port sends for an interval (R222, R223, R229, R231, R234). -/
def State.anchorOf (s : State) (p number count l : Nat) : Nat :=
  let q := s.port p
  let subst := match q.substReq with
    | some k => if k = number || number = 0xFF then 0 else 8 + k
    | none => 0
  anchorWord number count
    ((if bitAt (s.reg 0x4000_05 l) 4 then 32 else 64) + (if q.bankReq || (number == 0xFF && decide (2 ≤ s.reg 0x4000_03 l)) then 16 else 0) + subst)

/-- One lane sends an interval: its anchor, its slack words and its scrambled payload, stuffed; L:4000.0E counts the bits
that stuffing adds (R222-R225, R239). -/
def State.sendAnchor (s : State) (p number count : Nat) (payload : Bytes) (l : Nat) : State :=
  let x := s.lane l
  let slack := if bitAt (s.reg 0x4000_05 l) 4 then 0 else 1
  let word := s.anchorOf p number count l
  let line := intervalLine x.seed count number word slack payload x.flipNext
  let s1 := s.setLane l { x with flipNext := false, sinceFlip := x.sinceFlip + 1 }
  (s1.bumpBy 0x4000_0E l (line.length - (64 + 32 * slack + 8 * payload.length))).send (.anchor l word slack (s1.drive l line))

/-- A port sends an anchor interval: a lane that takes over wakes, its slots are filled, each lane sends its anchor and its
eight cells, and an idle spare a payload of zeros, its last at 10 Gb/s and above. An anchor that announced Banked with nothing
left to send is the port's last (R222, R230-R232, R243). -/
def State.sendInterval (s : State) (p : Nat) (waiting : Bool) : State :=
  let q := s.port p
  let c := q.anchorCount
  let width := s.reg 0x4400_04 p
  let slots := ((s.carriers p).foldl (fun t l => t.wakeLane p l) s).fillSlots p c width
  let s1 := (List.range width).foldl (fun t k =>
    if t.reg 0x4000_02 (t.carrierOf p k) = 9 then t
    else t.sendAnchor p k c (lanePayload slots.2 width k) (t.carrierOf p k)) slots.1
  let idle := (s1.readySpares p).filter fun l => s1.reg 0x4000_02 l == 8
  let s2 := idle.foldl (fun t l =>
    let t1 := t.sendAnchor p 0xFF c (List.replicate 2048 0) l
    if 2 ≤ t1.reg 0x4000_03 l then t1.enterLane 9 l else t1) s1
  let more := waiting || !(s2.port p).outbox.isEmpty
  let s3 := s2.setPort p { s2.port p with
    anchorCount := (c + 1) % 65536, bankReq := q.bankReq && (!more || q.parked) }
  if q.bankReq && !more then
    (s3.enterLanes 9 (s3.carriers p)).setReg 0x4400_09 p 4
  else s3

/-- A count in the upper and lower half of L:4000.0B: emitted 2, emitted 0 (R228). -/
def State.noteSlack (s : State) (up : Bool) (l : Nat) : State :=
  let n := s.reg 0x4000_0B l
  let hi := n / 65536
  let lo := n % 65536
  if up then s.setReg 0x4000_0B l (min (hi + 1) 65535 * 65536 + lo)
  else s.setReg 0x4000_0B l (hi * 65536 + min (lo + 1) 65535)

/-- Rate matching at an anchor: logical lane 0's fill decides for the port's lanes (R228; which fills call for it DESIGN
CHOICE, log entry 30), and in common-reference mode the fill may not drift (R229). -/
def State.matchRate (s : State) (p l number fill : Nat) : State :=
  let x := s.lane l
  if bitAt (s.reg 0x4000_05 l) 4 then
    match x.fillStart with
    | none => s.setLane l { x with fillStart := some fill }
    | some f => if f + 32 < fill || fill + 32 < f then s.laneFault l (sw 0x0A) else s
  else if number = 0 then
    let ls := s.carriers p
    if fill < 48 then ls.foldl (fun t k => t.noteSlack true k) s
    else if 80 < fill then ls.foldl (fun t k => t.noteSlack false k) s
    else s
  else s

/-- Count an anchor expected, in error or not, in the block of 1,024; errors that reach the threshold are a fault (R227,
R233). -/
def State.countAnchor (s : State) (l : Nat) (bad : Bool) : State :=
  let x := s.lane l
  let err := x.blockErr + (if bad then 1 else 0)
  let n := x.blockN + 1
  let s1 := s.setLane l { x with blockErr := if 1024 ≤ n then 0 else err, blockN := if 1024 ≤ n then 0 else n }
  if bad && s1.reg 0x4000_0D l ≤ err then s1.laneFault l (sw 0x05) else s1

/-- A lane that takes over has received a good anchor of its lane; after two the request ends, and one that waits for it
begins (R234, R235, R338). -/
def State.noteSpareGood (s : State) (p l number : Nat) : State :=
  let q := s.port p
  if (s.lane l).carries.isSome && q.substReq == some number then
    if 2 ≤ q.substGood + 1 then
      let s1 := s.setPort p { q with substReq := q.substLater, substLater := none, substGood := 0 }
      if (s1.lane l).carries == some l then s1.returnLane p l else s1.setSpare l 3
    else s.setPort p { q with substGood := q.substGood + 1 }
  else s

/-- A good anchor of a port's lane: mapping and skew, lock, requests, slack (R223, R227, R228, R234, R235). -/
def State.goodAnchor (s : State) (p l : Nat) (word skewNs fill : Nat) : State :=
  let number := bits word 39 32
  let field' := bits word 15 8
  let s1 := (s.setReg 0x4000_06 l number).setReg 0x4000_19 l (bits word 31 16)
  let x := s1.lane l
  let s2 := s1.setLane l { x with lostRun := 0, mayBank := bitAt field' 4 }
  let idle := (s2.readySpares p).contains l
  if (idle && number = 0xFF) || (s2.port p).backFrom == some l then s2
  else if s2.reg 0x4400_04 p ≤ number then s2.laneFault l (sw 0x0E)
  else if idle then (s2.setPort p { s2.port p with peerReq := some number }).peerRequest p number (some l)
  else if (s2.carriers p).any fun k =>
      k != l && s2.reg 0x4000_02 k == 8 && s2.reg 0x4000_06 k == number then s2.laneFault l (sw 0x0E)
  else if 20 < skewNs then s2.laneFault l (sw 0x0D)
  else
    ((s2.noteSpareGood p l number).matchRate p l number fill).seeRequest p number field'

/-! ### Lane tests (R237-R239) -/

/-- A lane out of use takes up what its test fields ask for: a far-end loopback starts a bring-up of the lane alone, a test
pattern starts from all ones at the test rate, and with neither the lane is off (R237, R238). -/
def State.startTest (s : State) (l : Nat) : State :=
  let x := s.lane l
  let kind := s.reg 0x4000_11 l
  if s.reg 0x4000_12 l % 4 = 2 then
    if x.solo = .loop then s else (s.setLane l { solo := .loop, scram := x.scram }).detect [l]
  else if kind != 0 then
    ((s.setLane l { pattern := 2 ^ (prbsTaps kind).1 - 1 }).enterLane 10 l).setReg 0x4000_03 l (s.reg 0x4000_18 l)
  else ((s.setLane l {}).enterLane 0 l).setReg 0x4000_03 l 0xFF

/-- A write of L:4000.11, .12 or .18: a far-end loopback that it clears ends with a stop block, the checker's lock clears,
and the lane takes up what its test fields ask for; the ranges of the static fields are the ledger's (R237, R238). -/
def laneTestOp (key : Nat) : WriteOp := fun s _ l v =>
  let s1 := s.setReg key l v.n
  if s1.reg 0x4000_02 l = 12 then (s1, .ok)
  else
    let stops := (s1.lane l).solo == .loop && s1.reg 0x4000_02 l == 10 && s1.reg 0x4000_12 l % 4 != 2
    let s2 := if stops then s1.sendBlock l (loopBlock 2 (s1.reg 0x4000_11 l)) else s1
    ((s2.setReg 0x4000_16 l 0).startTest l, .ok)

/-- Whether a lane has been in a step for longer than it may: a spare that has passed it waits for its port (R217). -/
def State.overdue (s : State) (l st time : Nat) : Bool :=
  let x := s.lane l
  s.reg 0x4000_02 l = st && decide (x.since + time ≤ s.now) && !(x.stepDone && decide (48 ≤ l))

/-- Whether a lane is in use, by its port or as a spare (R211). -/
def State.laneServes (s : State) (l : Nat) : Bool := (s.portOfLane l).isSome

/-! ### The commands -/

/-- BLOCK_LOCK (R215, R217). -/
def execBlockLock (lane : Fin 52) (s : State) : Out :=
  whenLive s fun s => if s.reg 0x4000_02 lane = 1 then s.passStep lane else s

/-- BLOCK_LOCK_LOSS (R214, R215, R238): the sixteen invalid headers are counted, and the lane searches again. -/
def execBlockLockLoss (lane : Fin 52) (s : State) : Out :=
  whenLive s fun s =>
    let st := s.reg 0x4000_02 lane
    let x := s.lane lane
    if st = 1 && x.stepDone then (s.bumpBy 0x4000_08 lane 16).setLane lane { x with stepDone := false }
    else if [3, 4, 5, 6, 7].contains st then
      let s1 := (s.bumpBy 0x4000_08 lane 16).enterLane 1 lane
      let s2 := if x.solo = .retrain then s1 else s1.setReg 0x4000_03 lane 0
      s2.setLane lane { s2.lane lane with capSeen := 0, capHalf := false, acked := false, looped := false }
    else if st = 10 && (x.looped || x.solo = .loop) then
      (s.bumpBy 0x4000_08 lane 16).setLane lane { x with looped := false }
    else s

/-- DETECT_TIMEOUT (R217). -/
def execDetectTimeout (lane : Fin 52) (s : State) : Out :=
  whenLive s fun s =>
    if s.overdue lane 1 milli then s.failBringUp lane (sw 0x01) else s

/-- BACK_OFF_EXPIRY (R220, R236): the port's lanes return to Detect together; a lane that retrains queues for it. -/
def execBackOffExpiry (lane : Fin 52) (s : State) : Out :=
  whenLive s fun s =>
    let x := s.lane lane
    if s.reg 0x4000_02 lane != 2 || s.now < x.since + s.backOffTime lane then s
    else if x.solo = .retrain then
      if s.recover.queue.contains (.laneRetrain lane) || s.recover.active == some (.laneRetrain lane) then s
      else s.queueRecovery (.laneRetrain lane) []
    else s.detect ((s.laneMates lane).filter fun l => s.reg 0x4000_02 l == 2)

/-- CAPABILITY_BLOCK (R216-R218, R229). -/
def execCapabilityBlock (lane : Fin 52) (block : RxBlock) (s : State) : Out :=
  whenLive s fun s => s.onBlock lane block [0x2D, 0x33] fun s w =>
    if s.reg 0x4000_02 lane = 3 then s.takeCapability lane w else s

/-- EXCHANGE_TIMEOUT (R217). -/
def execExchangeTimeout (lane : Fin 52) (s : State) : Out :=
  whenLive s fun s =>
    if s.overdue lane 3 (2 * milli) then s.failBringUp lane (sw 0x01) else s

/-- TRAIN_BLOCK (R219): with the figure of merit of this receiver for the preset in use, and whether it has found its
best. -/
def execTrainBlock (lane : Fin 52) (block : RxBlock) (merit : BitVec 8) (selfDone : Bool) (s : State) : Out :=
  whenLive s fun s => s.onBlock lane block [0x55] fun s w => s.takeTrain lane merit.toNat selfDone w

/-- TRAIN_TIMEOUT (R217, R219). -/
def execTrainTimeout (lane : Fin 52) (s : State) : Out :=
  whenLive s fun s =>
    if s.overdue lane 4 (5 * milli) then s.failRate lane else s

/-- VERIFY_END (R217): 1 ms of Idle blocks with a number of errors. -/
def execVerifyEnd (lane : Fin 52) (errors : Nat) (s : State) : Out :=
  whenLive s fun s =>
    let x := s.lane lane
    if s.reg 0x4000_02 lane != 5 || x.stepDone || s.now < x.since + milli then s
    else if errors = 0 then s.passStep lane
    else (s.bumpBy 0x4000_08 lane errors).failRate lane

/-- STEP_BLOCK (R216, R218). -/
def execStepBlock (lane : Fin 52) (block : RxBlock) (s : State) : Out :=
  whenLive s fun s => s.onBlock lane block [0x66] fun s w => s.takeStep lane w

/-- RATE_SWITCH_DONE (R217, R219): training starts at the new rate; after a fallback the lane verifies at once. -/
def execRateSwitchDone (lane : Fin 52) (s : State) : Out :=
  whenLive s fun s =>
    let x := s.lane lane
    match x.stepTo with
    | some r =>
      if s.reg 0x4000_02 lane != 6 then s
      else if x.finalRate then
        let s1 := (s.setReg 0x4000_03 lane r).startVerify lane
        s1.setLane lane { s1.lane lane with stepTo := none }
      else if (s.laneMates lane).all fun l => s.reg 0x4000_02 l != 6 || (s.lane l).stepDone then
        s.startTraining r [lane.val]
      else s
    | none => s

/-- RUN_ENTRY_BLOCK (R216, R217). -/
def execRunEntryBlock (lane : Fin 52) (block : RxBlock) (s : State) : Out :=
  whenLive s fun s => s.onBlock lane block [0x78] fun s w =>
    if [7, 8, 9].contains (s.reg 0x4000_02 lane) then
      s.setLane lane { s.lane lane with firstCount := bits w 47 32 }
    else s

/-- RUN_ENTRY_DONE (R220, R221, R232). -/
def execRunEntryDone (lane : Fin 52) (s : State) : Out :=
  whenLive s fun s =>
    if s.reg 0x4000_02 lane != 7 then s
    else
      let s1 := (s.enterLane 8 lane).setLane lane { (s.enterLane 8 lane).lane lane with fails := 0 }
      let s2 := (s1.record 0x090 (some (sw 0x04)) lane (s1.reg 0x4000_03 lane)).advanceEpoch
      match s2.portOfLane lane with
      | none => s2
      | some p =>
        let s3 := if 48 ≤ lane.val then s2.standReady lane else s2
        if s3.reg 0x4400_09 p != 2 && s3.reg 0x4400_09 p != 4 &&
            (s3.portLanes p).all fun l => s3.reg 0x4000_02 l == 8 then s3.portUp p
        else s3

/-- LOOPBACK_BLOCK (R238): a lane that asked for a loopback itself takes an answer whose acknowledge is clear as refused. -/
def execLoopbackBlock (lane : Fin 52) (block : RxBlock) (s : State) : Out :=
  whenLive s fun s => s.onBlock lane block [0x99] fun s w =>
    let x := s.lane lane
    let kind := bits w 55 54
    if bitAt w 53 then (if x.solo = .loop then s.setLane lane { x with looped := true } else s)
    else if kind = 2 then s.setLane lane { x with looped := false }
    else if kind = 1 && x.solo != .loop then
      let answer := w / 2 ^ 50 * 2 ^ 50
      if bitAt (s.reg 0x4000_12 lane) 7 then
        (s.setLane lane { x with looped := true }).sendBlock lane (withBit answer 53 true)
      else (s.sendBlock lane answer).record 0x095 (some (sw 0x0F)) lane (s.reg 0x4000_03 lane)
    else s

/-- ANCHOR_INTERVAL_SEND (R222-R225, R230, R231, R250). -/
def execAnchorIntervalSend (port : Fin 24) (anythingWaiting : Bool) (s : State) : Out :=
  whenLive s fun s => if s.reg 0x4400_09 port = 2 then (s.feedPort port).sendInterval port anythingWaiting else s

/-- A lane in lock has lost an anchor: two in a row lose the lock (R227, R233). -/
def State.loseAnchor (s : State) (l : Nat) : State :=
  let x := s.lane l
  let run := x.lostRun + 1
  let s1 := ((s.bump 0x4000_09 l).setLane l { x with lostRun := run }).countAnchor l true
  if 2 ≤ run then s1.laneFault l (sw 0x06) else s1

/-- An anchor whose check holds, or does not, or whose marker is not found, on a lane that seeks its anchor lock: two good
ones in a row give it (R227). -/
def State.seekAnchor (s : State) (l : Nat) (good : Bool) : State :=
  let x := s.lane l
  s.setLane l { x with anchorLock := if good then x.anchorLock + 1 else 0, lostRun := 0 }

/-- ANCHOR_RECEIVED (R222-R229, R233-R235): with the lane's skew, its elastic fill and the run-length violations of the
interval. In lock a word whose check fails is an anchor error, and one without the marker a lost anchor. -/
def execAnchorReceived (lane : Fin 52) (word : BitVec 64) (skewNs fill stuffBad : Nat) (s : State) : Out :=
  whenLive s fun s =>
    match s.portOfLane lane with
    | none => s
    | some p =>
      if !([8, 9].contains (s.reg 0x4000_02 lane)) then s
      else
        let w := word.toNat
        let s1 := s.bumpBy 0x4000_0A lane stuffBad
        let marked := bits w 63 40 == 0x7FF8A5
        let good := marked && w % 256 == crc8 (beBytes 7 (w / 256)) && stuffBad == 0
        if (s1.lane lane).anchorLock < 2 then
          let s2 := s1.seekAnchor lane good
          if 2 ≤ (s2.lane lane).anchorLock then s2.goodAnchor p lane w skewNs fill
          else if good then s2.noteSpareGood p lane (bits w 39 32)
          else s2
        else if good then (s1.countAnchor lane false).goodAnchor p lane w skewNs fill
        else if marked then
          let s2 := s1.bump 0x4000_08 lane
          (s2.setLane lane { s2.lane lane with lostRun := 0 }).countAnchor lane true
        else s1.loseAnchor lane

/-- ANCHOR_MISSED (R227, R233): a lane whose partner may have gone to Banked misses none. -/
def execAnchorMissed (lane : Fin 52) (s : State) : Out :=
  whenLive s fun s =>
    let x := s.lane lane
    if s.reg 0x4000_02 lane != 8 || x.mayBank then s
    else if x.anchorLock < 2 then s.seekAnchor lane false
    else s.loseAnchor lane

/-- ELASTIC_BUFFER_FAULT (R228, R229, R233). -/
def execElasticBufferFault (lane : Fin 52) (s : State) : Out :=
  whenLive s fun s => s.laneFault lane (sw 0x0A)

/-- BANKED_IDLE_TIMEOUT (R230): the next anchor announces Banked. -/
def execBankedIdleTimeout (port : Fin 24) (s : State) : Out :=
  whenLive s fun s =>
    let q := s.port port
    let l := s.reg 0x4400_03 port
    if s.reg 0x4400_09 port = 2 && 2 ≤ s.portRate port && !s.portStreams port &&
        q.idleSince + s.reg 0x4000_0C l * 1000 ≤ s.now then
      s.setPort port { q with bankReq := true }
    else s

/-- A port leaves Banked: each lane sends its spark burst and runs again (R231). -/
def State.leaveBanked (s : State) (p : Nat) : State :=
  let ls := s.carriers p
  let c := (s.port p).anchorCount
  let s1 := ls.foldl (fun t l => (t.enterLane 8 l).sendRunEntry c l) s
  (s1.setReg 0x4400_09 p 2).setPort p { s1.port p with bankReq := false, idleSince := s1.now }

/-- The lanes of a port have been idle for the 100 ns that Banked lasts at least (R231). -/
def State.bankedLongEnough (s : State) (p : Nat) : Bool :=
  (s.carriers p).all fun l => decide ((s.lane l).since + 100 ≤ s.now)

/-- BANKED_EXIT (R231): a parked port stays in Banked. -/
def execBankedExit (port : Fin 24) (s : State) : Out :=
  whenLive s fun s =>
    if s.reg 0x4400_09 port = 4 && !(s.port port).parked && s.bankedLongEnough port then s.leaveBanked port else s

/-- RETRAIN (R236). -/
def execRetrain (ss v : Nat) (s : State) : Out :=
  whenManaged s fun s => s.ledgerWrite ss 0x4000_17 (.num v) retrainOp

/-- ERROR_INJECTION (R239): once N line bits of a test pattern, or N anchor intervals, have been sent since the last, the
next takes a flip; it is counted while no checker runs. A fuse setting keeps it out of service (R423). -/
def execErrorInjection (lane : Fin 52) (s : State) : Out :=
  whenLive s fun s =>
    let x := s.lane lane
    let n := s.reg 0x4000_13 lane
    let st := s.reg 0x4000_02 lane
    if n = 0 || x.sinceFlip < n || (st != 8 && st != 10) || (st = 8 && bitAt s.fuses.policy 7) then s
    else
      let s1 := s.setLane lane { x with flipNext := true, sinceFlip := 0 }
      if st = 10 && s.reg 0x4000_11 lane != 0 then s1 else s1.bump 0x4000_14 lane

/-- CLOCK_LOCK_LOSS (R233). -/
def execClockLockLoss (lane : Fin 52) (s : State) : Out :=
  whenLive s fun s => s.laneFault lane (sw 0x06)

/-- TEST_PATTERN_CHECKER_LOCK (R237): from its lock on, the checker counts errors and compared bits. -/
def execTestPatternCheckerLock (lane : Fin 52) (errorBits comparedBits : Nat) (s : State) : Out :=
  whenLive s fun s =>
    if s.reg 0x4000_02 lane = 10 && s.reg 0x4000_11 lane != 0 then
      (((s.setReg 0x4000_16 lane 1).bumpBy 0x4000_14 lane errorBits).bumpBy 0x4000_15 lane comparedBits)
    else s

/-- A lane sends the next block of the set that its state repeats: in Detect and Verify an Idle block, in Exchange the
two capability blocks and 14 Idle blocks (R217). -/
def State.repeatBlock (s : State) (l : Nat) : State :=
  let x := s.lane l
  let s1 := s.setLane l { x with blockNo := (x.blockNo + 1) % 16 }
  s1.sendBlock l
    (if s.reg 0x4000_02 l = 3 && x.blockNo = 0 then s.capabilityA l
      else if s.reg 0x4000_02 l = 3 && x.blockNo = 1 then s.capabilityB l
      else idleBlock)

/-- A bit that a lane in far-end loopback has recovered goes back on its transmitter; which one is the partner's, a free value
(R238; log entry 166). -/
def State.returnBit (s : State) (l : Nat) : State :=
  let d := s.draw
  d.2.send (.line l (d.2.drive l [bitAt d.1 0]))

/-- What a lane sends in the nanosecond that ends now where no command sends it: what a far-end loopback returns, the blocks that
Detect, Exchange and Verify repeat, and the bits of a test pattern, which one that asked for a loopback sends once it is
acknowledged (R212, R217, R237, R238). -/
def State.laneTick (s : State) (l : Nat) : State :=
  let st := s.reg 0x4000_02 l
  let rate := s.reg 0x4000_03 l
  if s.returnsBits l then (List.range (s.unitsNow rate 1)).foldl (fun t _ => t.returnBit l) s
  else if [1, 3, 5].contains st then (List.range (s.unitsNow rate 66)).foldl (fun t _ => t.repeatBlock l) s
  else if st = 10 && s.reg 0x4000_11 l != 0 && ((s.lane l).solo = .no || ((s.lane l).solo = .loop && (s.lane l).looped)) then
    (List.range (s.unitsNow rate 1)).foldl (fun t _ => t.patternBit l) s
  else s

/-- SWITCH_BACK_LANE (R338). -/
def execSwitchBackLane (ss v : Nat) (s : State) : Out :=
  whenManaged s fun s => s.ledgerWrite ss 0x5810_06 (.num v) switchBackLaneOp

end Sys2Proof.Machine
end

