-- ==== Sys2Proof/Machine/Streams.lean ====
section
/-! DEFINITION. Swage cells and streams (R242-R266, R282, R283): the cell and its checks, inbound video frames and their
publication, witness cells, forwarding, the message channel with its credits, and time cells. -/

namespace Sys2Proof.Machine

set_option Elab.async false

/-! ### The cell (R245) -/

/-- Whether a reserved field of a stream header is not 0 (R247). -/
def headerReserved (c : Bytes) : Bool :=
  16 ≤ field c 15 1 || 16 ≤ field c 36 1 || !zeros c 38 2 || !zeros c 44 32

/-- Whether a byte of a time cell's payload that R261 gives no field is not 0. -/
def timeReserved (c : Bytes) : Bool :=
  if cellA c / 2 ^ 24 = 1 then !zeros c 22 2 || !zeros c 38 214 else !zeros c 20 232

/-- Whether a cell is of a reserved type, too long, or has a reserved field that is not 0 (R245, R247, R255, R257, R258,
R261). -/
def cellReserved (c : Bytes) : Bool :=
  let t := cellType c
  let f := cellFlags c
  5 < t || 240 < field c 2 2 ||
  (if t = 0 then f != 0 || field c 2 2 != 0 || cellA c != 0 || cellB c != 0 || !zeros c 12 240
   else if t = 1 then 2 < f || (f = 0 && headerReserved c)
   else if t = 2 then f != 0 || cellB c % 256 != 0
   else if t = 3 then f != 0 || bits (cellA c) 23 16 != 0 || cellB c != 0 || timeReserved c
   else if t = 4 then 3 < f || cellA c % 65536 != 0 || 65536 ≤ cellB c || field c 2 2 != 0
   else f != 0 || !zeros c 17 3)

/-- The times of a list within the last second, with now. -/
def State.lastSecond (s : State) (ts : List Nat) : List Nat := s.now :: ts.filter fun t => decide (s.now < t + second)

/-- A cell whose CRC fails is discarded and counted; above the threshold within a second the port goes down (R245,
R246). -/
def State.cellCrcError (s : State) (p : Nat) : State :=
  let q := s.port p
  let ts := s.lastSecond q.crcTimes
  let s1 := (s.bump 0x4400_0A p).setPort p { q with crcTimes := ts }
  if s1.reg 0x4400_0B p < ts.length then (s1.setPort p { q with crcTimes := [] }).portDown p (sw 0x15) else s1

/-- Receive a cell on a port in service through the checks of R245; its effect follows for a cell of the type named. -/
def State.onCell (s : State) (p : Nat) (cell : Bytes) (type : Nat) (f : State → State) : State :=
  if !s.portInService p then s
  else if cell.length != 256 || !crcTailOk cell then s.cellCrcError p
  else if cellReserved cell then s.bump 0x4400_0C p
  else if cellType cell = type then f s
  else s

/-- Note an event of a port with a code, at most once per port, code and second: E-0x096 (R252, R260, R262, R263). -/
def State.notePort (s : State) (p : Nat) (c : Code) (detail : Nat) : State :=
  s.recordEvery s.now second true 0x096 (some c) p detail

/-! ### Inbound frames (R252-R255) -/

/-- The source slot that a port's video cell belongs to, if it is accepted (R252). -/
def State.slotFor (s : State) (p stream : Nat) : Option Nat :=
  if s.reg 0x4400_05 p < 1 then none
  else ((s.sources.filter fun x =>
    x.2.kind == 2 && x.2.locator == stream && (s.reg 0x4410_02 x.1 == 0xFF || s.reg 0x4410_02 x.1 == p)).map
      Prod.fst).head?

/-- The stream fields of a source that wait for its next video frame take effect at its header (R109). -/
def State.streamBoundary (s : State) (stream : Nat) : State :=
  let slots := (s.sources.filter fun x => x.2.kind == 2 && x.2.locator == stream).map Prod.fst
  s.applyDue fun key inst => key / 256 == 0x4410 && slots.contains inst

/-- A video cell of an accepted stream and kind acts; any other of an unknown stream is discarded and counted (R252). -/
def State.onVideo (s : State) (p : Nat) (cell : Bytes) (kind : Nat) (f : State → Nat → State) : State :=
  s.onCell p cell 1 fun s0 =>
    let s := if kind = 0 && cellFlags cell = 0 then s0.streamBoundary (cellA cell) else s0
    match s.slotFor p (cellA cell) with
    | none => (s.bump 0x4400_0C p).notePort p (sw 0x10) (cellA cell)
    | some slot => if cellFlags cell = kind then f s slot else s

/-- Whether a sequence is higher than another in serial arithmetic modulo 2^32 (R253). -/
def seqHigher (a b : Nat) : Bool :=
  let d := (a + 2 ^ 32 - b % 2 ^ 32) % 2 ^ 32
  1 ≤ d && d < 2 ^ 31

/-- Whether a sequence is higher than the last published frame's of a slot, or none was published. -/
def State.newerThanLast (s : State) (slot seq : Nat) : Bool :=
  match (s.slot slot).lastSeq with
  | some l => seqHigher seq l
  | none => true

/-- An inbound frame is dropped with a code: its counters, and E-0x097 at most once per source per 64 frames (R253). -/
def State.dropFrame (s : State) (slot seq : Nat) (c : Code) : State :=
  let s1 := s.bump 0x4410_05 slot
  let s2 := if c = sw 0x17 then s1.bump 0x4410_07 slot else if c = sw 0x1A then s1.bump 0x4410_08 slot else s1
  s2.recordEvery (s2.slot slot).headers 64 false 0x097 (some c) slot seq

/-- Whether a frame starts less than 98 % of the declared period after the previous accepted frame of its source (R84). -/
def State.tooSoon (s : State) (slot rate : Nat) : Bool :=
  match (s.slot slot).lastAccepted with
  | some t => decide ((s.now - t) * rate < 98 * second)
  | none => false

/-- The Ingot that an inbound frame still fills: a plan may have taken it (R462). -/
def State.rxIngot (s : State) (f : RxFrame) : Option Nat :=
  match f.ingot with
  | some i =>
    let g := s.ingot i
    if g.st = .filling && g.filler = .port && g.slot = f.slot && g.seq = f.seq then some i else none
  | none => none

/-- Store a run of pixels of a frame from pixel `first`, each given most significant byte first, as the format's stored
words (R128, R248); pixels past the frame's last are left out. -/
def State.storePixels (s : State) (x : Source) (base first : Nat) : List Bytes → State
  | [] => s
  | px :: rest =>
    let n := bytesPerPixel x.fmt
    let s1 := if first < x.width * x.height then
        s.store (base + first / x.width * lineStride x.width n + first % x.width * n) px.reverse
      else s
    s1.storePixels x base (first + 1) rest

/-- Pixels that a data cell carries (R248). -/
def pixelsPerCell (fmt : Nat) : Nat := 240 / bytesPerPixel fmt

/-- The data cells of a whole frame (R248). -/
def Source.dataCells (x : Source) : Nat := ceilDiv' (x.width * x.height * bytesPerPixel x.fmt) 240

/-- The valid payload bytes of data cell `k` of a whole frame: the last carries the remainder (R248). -/
def Source.cellBytes (x : Source) (k : Nat) : Nat := min 240 (x.width * x.height * bytesPerPixel x.fmt - (k - 1) * 240)

/-- `n` pixels from one on take the fill colour (R254). -/
def State.fillPixels (s : State) (i : Nat) (f : RxFrame) (first n : Nat) : State :=
  match s.source f.slot with
  | none => s
  | some x =>
    let px := beBytes (bytesPerPixel x.fmt) (encodePx x.fmt (Px.ofWord (s.reg 0x4410_0A f.slot)))
    s.storePixels x (s.ingot i).base first (List.replicate n px)

/-- The pixels of data cells `a` to `b - 1` take the fill colour (R254). -/
def State.fillCells (s : State) (i : Nat) (f : RxFrame) (a b : Nat) : State :=
  let n := match s.source f.slot with
    | some x => pixelsPerCell x.fmt
    | none => 0
  s.fillPixels i f ((a - 1) * n) ((b - a) * n)

/-- Forget a frame in progress of a port. -/
def State.forgetRx (s : State) (p : Nat) (f : RxFrame) : State :=
  s.setPort p { s.port p with rx := (s.port p).rx.filter fun g => g.slot != f.slot }

/-- Replace a frame in progress of a port. -/
def State.setRx (s : State) (p : Nat) (f : RxFrame) : State :=
  s.setPort p { s.port p with rx := f :: (s.port p).rx.filter fun g => g.slot != f.slot }

/-- The Swage receiver port of the fabric that serves a port's lanes (R294). -/
def State.receiverPort (s : State) (p : Nat) : Nat := 24 + s.reg 0x4400_03 p / 12

/-- An inbound frame has ended with marks: it is published if unmarked, or as its source's policy allows, unless a
newer one has been (R31, R253, R254). The answer says whether it was not published. -/
def State.settleFrame (s0 : State) (f : RxFrame) (marks : Nat) : State × Bool :=
  match s0.rxIngot f with
  | none => (s0, true)
  | some i =>
    let s1 := if f.next ≤ f.cells then s0.fillCells i f f.next (f.cells + 1) else s0
    let all := Nat.lor f.marks (Nat.lor marks (if f.gap then 8 else 0))
    let g := s1.ingot i
    let s2 := s1.setIngot i { g with marks := all, check := Nat.xor f.crc 0xFFFFFFFF }
    let s3 := if all = 0 then s2
      else (s2.bump 0x4410_0B f.slot).record 0x097 (some (sw 0x13)) f.slot f.seq
    if !s3.newerThanLast f.slot f.seq then ((s3.abandon i).dropFrame f.slot f.seq (sw 0x17), true)
    else if Nat.land all (15 - s3.reg 0x4410_03 f.slot % 16) = 0 then
      ((s3.publish i).bump 0x4410_04 f.slot, false)
    else (s3.abandon i, true)

/-- An inbound frame ends with marks; one of which a write still waits for its grant is settled when none does (R300). -/
def State.endFrame (s : State) (p : Nat) (f : RxFrame) (marks : Nat) : State × Bool :=
  let s0 := s.forgetRx p f
  match s.rxIngot f with
  | some i =>
    if s0.writeWaits (s0.receiverPort p) (s0.ingot i).base (s0.ingot i).size then
      (s0.setPort p { s0.port p with ended := (s0.port p).ended ++ [(f, marks)] }, false)
    else s0.settleFrame f marks
  | none => (s0, true)

/-- The frames of a port that have ended, and of which no write waits any more, are settled (R300). -/
def State.settleEnded (s : State) (p : Nat) : State :=
  let due := (s.port p).ended.filter fun e => match s.rxIngot e.1 with
    | some i => !s.writeWaits (s.receiverPort p) (s.ingot i).base (s.ingot i).size
    | none => true
  let s1 := s.setPort p { s.port p with ended := (s.port p).ended.filter fun e => !due.contains e }
  due.foldl (fun t e => (t.settleFrame e.1 e.2).1) s1

/-- A frame of a slot in progress on a port is ended as Truncated (R254). -/
def State.truncateRx (s : State) (p slot : Nat) : State :=
  match (s.port p).rx.find? fun f => f.slot == slot with
  | some f => (s.endFrame p f 1).1
  | none => s

/-- A header cell: the frame in progress ends, and a new frame starts in a Free Ingot or is dropped (R84, R247, R253,
R254; the order of the reasons to drop it DEDUCED, log entry 31). A repeat starts none. A frame that states another number
of data cells than its pixels need misses some (R248). -/
def State.takeHeader (s : State) (p : Nat) (cell : Bytes) (slot : Nat) (x : Source) : State :=
  let h := slice cell 12 64
  let flags := field h 3 1
  let seq := field h 4 4
  let s0 := s.truncateRx p slot
  let s1 := ((s0.setBlob 0x4410_0C slot h).setReg 0x4410_06 slot seq).setReg 0x4410_09 slot p
  let y := s1.slot slot
  let s2 := s1.setSlot slot { y with arrivals := if y.arrivals.contains p then y.arrivals else p :: y.arrivals }
  if bitAt flags 1 then s2
  else
    let s3 := (s2.setSlot slot { s2.slot slot with headers := (s2.slot slot).headers + 1 }).countFrame (s2.receiverPort p)
    if !bitAt flags 0 then s3.dropFrame slot seq (sw 0x1A)
    else if !s3.newerThanLast slot seq then s3.dropFrame slot seq (sw 0x17)
    else if field h 2 1 != x.fmt || field h 20 2 != x.width || field h 22 2 != x.height then
      s3.dropFrame slot seq (sw 0x12)
    else if s3.tooSoon slot x.rate then s3.dropFrame slot seq (sw 0x11)
    else
      let t := s3.takeFree slot .port
      match t.1 with
      | none => t.2.dropFrame slot seq (sw 0x11)
      | some i =>
        let g := t.2.ingot i
        let s4 := t.2.setIngot i { g with
          origin := field h 8 8, foreign := true, era := t.2.reg 0x4800_07, unlocked := bitAt flags 2, seq := seq }
        let s5 := ((s4.setSlot slot { s4.slot slot with lastAccepted := some s4.now }).applyFrozen slot).countFrom i
        s5.setRx p { slot := slot, stream := cellA cell, seq := seq, ingot := some i, cells := x.dataCells
                     gap := field h 28 4 != x.dataCells, marks := field h 24 1 % 16, last := s5.now }

/-- A data cell: its pixels are stored, and those of cells that did not come, or that a short cell lacks, take the fill
colour (R248, R254). -/
def State.takeData (s : State) (p : Nat) (cell : Bytes) (slot : Nat) (x : Source) : State :=
  match (s.port p).rx.find? fun f => f.slot == slot with
  | none => s
  | some f =>
    let k := cellB cell
    let bs := cellPayload cell
    let n := bytesPerPixel x.fmt
    let short := decide (bs.length < x.cellBytes k)
    if k < f.next || f.cells < k then s.setRx p { f with last := s.now }
    else
      let s1 := match s.rxIngot f with
        | some i =>
          let t := if f.next < k then s.fillCells i f f.next k else s
          let first := (k - 1) * pixelsPerCell x.fmt
          let u := t.storePixels x (t.ingot i).base first ((pieces n 240 bs).filter fun px => px.length == n)
          if short then u.fillPixels i f (first + bs.length / n) (x.cellBytes k / n - bs.length / n) else u
        | none => s
      s1.setRx p { f with next := k + 1, gap := f.gap || decide (f.next < k) || short, got := f.got + 1
                          crc := crc32cRun f.crc bs, last := s1.now }

/-- The witness cell of a frame (R255). -/
def witnessOf (stream seq crc status : Nat) : Bytes :=
  cellOf 5 0 stream seq (beBytes 4 crc ++ beBytes 1 status ++ [0, 0, 0])

/-- A trailer cell: the frame is complete, or marked with link check error; its witness is sent (R249, R254, R255). -/
def State.takeTrailer (s : State) (p : Nat) (cell : Bytes) (slot : Nat) : State :=
  match (s.port p).rx.find? fun f => f.slot == slot with
  | none => s
  | some f =>
    let t := cellPayload cell
    let crc := Nat.xor f.crc 0xFFFFFFFF
    let whole := f.next == f.cells + 1 && !f.gap && field t 0 4 == f.seq && field t 8 4 == f.cells
    let ok := whole && field t 4 4 == crc
    let r := s.endFrame p f (if ok then 0 else 8)
    r.1.sendCell p (witnessOf f.stream f.seq crc (if !ok then 1 else if r.2 then 2 else 0))

/-! ### Witness cells (R59, R60, R256) -/

/-- A frame of an output fails its witness: E-0x042 with a code, its counter, and after W in a row the FAULT veil
(R59, R60). -/
def State.witnessFail (s : State) (o ofNum : Nat) (c : Code) : State :=
  let out := s.output o
  let n := out.witFails + 1
  let w := s.reg 0x2000_0B
  let s1 := s.setOutput o { out with witFails := n, witPasses := 0, veto := out.veto || (w != 0 && decide (w ≤ n)) }
  (s1.bump (if c = fr 0x08 then 0x2030_05 else 0x2030_06) o).record 0x042 (some c) o (shownFrame (ofNum / s.divisor o) : Nat)

/-- A frame of an output passes its witness; W in a row end the veto (R60). With the policy set to 0 while the output is
vetoed, one frame that passes ends it (DESIGN CHOICE, log entry 129). -/
def State.witnessPass (s : State) (o : Nat) : State :=
  let out := s.output o
  let n := out.witPasses + 1
  s.setOutput o { out with witFails := 0, witPasses := n, veto := out.veto && decide (n < s.reg 0x2000_0B) }

/-- Whether a witness names a forwarded frame that a port, or the port whose twin it is, sent in the last 4 frame periods
(R256, R344). -/
def State.echoesForward (s : State) (p stream seq : Nat) : Bool :=
  s.sources.any fun x =>
    x.2.upPort < 24 && (x.2.upPort == p || s.reg 0x5840_02 x.2.upPort == p) && x.2.upStream == stream &&
      (s.slot x.1).forwarded.any fun f => f.1 == seq && decide ((s.now - f.2) * x.2.rate ≤ 400 * second)

/-- A witness cell is matched to a frame sent in the last 4 frame periods, or discarded (R256); the echo of a forwarded
frame, which belongs to no output, is matched and has no further effect. -/
def State.takeWitness (s : State) (p : Nat) (cell : Bytes) : State :=
  let seq := cellB cell
  let value := field (cellPayload cell) 0 4
  let status := field (cellPayload cell) 4 1
  let hit := (List.range 32).findSome? fun o =>
    if s.flag 0x3400_02 o && s.reg 0x3400_03 o = 1 && s.reg 0x3400_04 o = p && s.reg 0x3400_05 o = cellA cell then
      (((s.output o).sent.filter fun f => (s.output o).nextOf ≤ f.ofNum + 5).find? fun f =>
        streamSeq f.ofNum == seq).map fun f => (o, f)
    else none
  match hit with
  | none => if s.echoesForward p (cellA cell) seq then s else s.bump 0x4400_0C p
  | some (o, f) =>
    let out := s.output o
    let s1 := (s.setOutput o { out with sent := out.sent.filter fun g => g.ofNum != f.ofNum }).setReg 0x2030_08 o value
    if f.reported then s1
    else if status = 0 && value = f.check then s1.witnessPass o
    else s1.witnessFail o f.ofNum (fr 0x08)

/-! ### Forwarding (R247, R254, R344) -/

/-- Whether the device is Active, or not in a pair (R247). -/
def State.sendsActive (s : State) : Bool := [0, 2, 3, 6].contains (s.reg 0x5800_03)

/-- A stream header (R247). -/
def State.streamHeader (s : State) (fmt flags seq origin budget width height marks cells : Nat) : Bytes :=
  beBytes 2 1 ++ beBytes 1 fmt ++ beBytes 1 flags ++ beBytes 4 seq ++ beBytes 8 origin ++ beBytes 4 budget ++
    beBytes 2 width ++ beBytes 2 height ++ beBytes 1 marks ++ beBytes 1 (s.reg 0x2400_09) ++ [0, 0] ++ beBytes 4 cells ++
    List.replicate 32 0

/-- The bytes that a stored frame is sent as: each pixel's word most significant byte first (R248). -/
def State.linkContent (s : State) (i : Nat) (x : Source) : Bytes :=
  let n := bytesPerPixel x.fmt
  let base := (s.ingot i).base
  (List.range x.height).flatMap fun y => (List.range x.width).flatMap fun k =>
    (s.load (base + y * lineStride x.width n + k * n) n).reverse

/-- Cells of one frame wait on a port and on its twin, on each that is in service (R344). -/
def State.sendTwice (s : State) (p : Nat) (cells : List Bytes) : State :=
  let on := [p, s.reg 0x5840_02 p].filter s.sendsVideo
  on.foldl (fun (t : State) w => cells.foldl (fun t c => t.sendCell w c) t) s

/-- A forwarding port, or its twin where it alone is in service, starts to send a source's latest published frame upstream, unless it
still sends one or has sent that one (R32, R254, R344). -/
def State.forward (s : State) (slot : Nat) (x : Source) : State :=
  let p := x.upPort
  let w := s.reg 0x5840_02 p
  let busy := [p, w].any fun q => s.streamWaits q x.upStream ||
    s.ingots.any fun g => g.2.slot == slot && g.2.readers.contains (portReader q)
  match s.latest slot with
  | none => s
  | some i =>
    if !(s.sendsVideo p || s.sendsVideo w) || busy || (s.slot slot).sentIngot = some (s.ingot i).seq then s
    else
      let g := s.ingot i
      let content := s.linkContent i x
      let n := ceilDiv' content.length 240
      let flags := (if s.sendsActive then 1 else 0) + (if g.unlocked then 4 else 0)
      let head := s.streamHeader x.fmt flags g.seq g.origin (s.reg 0x2000_01) x.width x.height (g.marks % 16) n
      let s1 := (s.takeRef i (portReader (if s.sendsVideo p then p else w))).setSlot slot { s.slot slot with
        sentIngot := some g.seq, forwarded := ((g.seq, s.now) :: (s.slot slot).forwarded).take 8 }
      s1.sendTwice p (cellOf 1 0 x.upStream 0 head :: frameCells x.upStream g.seq content)

/-! ### The message channel (R257-R260) -/

/-- Distance from `b` up to `a` in serial arithmetic modulo 2^16. -/
def dist16 (a b : Nat) : Nat := (a + 65536 - b % 65536) % 65536

/-- Send the queued message cells that the partner's credit admits (R258). -/
def State.pump (s : State) (p : Nat) : State :=
  let q := s.port p
  let go := q.txQueue.filter fun m =>
    dist16 m.seq q.txAcked < q.txCredit && dist16 q.txSent q.txAcked ≤ dist16 m.seq q.txAcked
  if q.resetting || go.isEmpty then s
  else
    let fresh := q.txSent = q.txAcked
    let s1 := go.foldl (fun t m => t.sendCell p m.cell) s
    s1.setPort p { s1.port p with
      txSent := (q.txSent + go.length) % 65536, lastAdvance := if fresh then s1.now else q.lastAdvance }

/-- Queue a message of a kind on a port: 1 to 16 cells with the next sequences (R257). -/
def State.sendMessage (s : State) (p kind : Nat) (payload : Bytes) : State :=
  let q := s.port p
  let parts := pieces 240 16 payload
  let parts := if parts.isEmpty then [[]] else parts
  let cells := (parts.zipIdx).map fun d =>
    let seq := (q.txNext + d.2) % 65536
    ({ seq := seq, cell := cellOf 2 0 (seq * 65536 + kind * 256 + d.2)
         (q.nextMsg * 65536 + parts.length * 256) d.1, head := payload.take 24 } : MsgCell)
  (s.setPort p { q with txQueue := q.txQueue ++ cells, txNext := (q.txNext + cells.length) % 65536
                        nextMsg := (q.nextMsg + 1) % 65536 }).pump p

/-- Cells of credit that a Dolquin advertises (R258). -/
def ownCredit : Nat := 64

/-- The sequence from which a channel that resets goes on: that of the first cell queued since (R259). -/
def Port.resetSeq (q : Port) : Nat := (q.txNext + 65536 - q.txQueue.length % 65536) % 65536

/-- Send a credit cell: what is expected next, the credit, and a reset request or acknowledge (R258, R259). -/
def State.sendCredit (s : State) (p : Nat) (ack : Bool) : State :=
  let q := s.port p
  let a := if q.resetting then q.resetSeq else q.rxNext
  s.sendCell p (cellOf 4 ((if q.resetting then 1 else 0) + (if ack then 2 else 0)) (a * 65536) ownCredit [])

/-- A message cell above the rate limit is discarded without acknowledgement (R260); none where it is. -/
def State.limitMessages (s : State) (p : Nat) : State × Bool :=
  let q := s.port p
  let ts := s.lastSecond q.msgTimes
  if s.reg 0x4400_0D p < ts.length then
    ((s.bump 0x4400_0E p).notePort p (sw 0x19) 0, false)
  else (s.setPort p { q with msgTimes := ts }, true)

/-- A message cell is accepted in sequence; the kind and payload of a message whose cells have all arrived (R257,
R258). -/
def State.acceptMessage (s : State) (p : Nat) (cell : Bytes) : State × Option (Nat × Bytes) :=
  let l := s.limitMessages p
  if !l.2 then (l.1, none)
  else
    let q := l.1.port p
    let a := cellA cell
    let b := cellB cell
    let id := b / 65536
    let count := bits b 15 8
    let index := a % 256
    if a / 65536 != q.rxNext then (l.1, none)
    else
      let parts := if index = 0 then [] else if id = q.rxMsg then q.rxParts else []
      let fits := index = parts.length && 1 ≤ count && count ≤ 16
      let now' := if fits then parts ++ [cellPayload cell] else []
      let done := fits && now'.length = count
      let s1 := l.1.setPort p { q with
        rxNext := (q.rxNext + 1) % 65536, rxMsg := id, rxParts := if done then [] else now' }
      (s1.sendCredit p false, if done then some (bits a 15 8, now'.flatMap fun x => x) else none)

/-- The lowest trust level that accepts a message of a kind (R263). -/
def messageLevel (kind : Nat) : Nat := if kind ≤ 2 then 2 else 4

/-- A message that may reach its consumer: one of another kind is discarded and counted, and so is one above the port's
trust level (R257, R263). -/
def State.admitMessage (s : State) (p : Nat) (kind : Nat) : State × Bool :=
  if kind = 0 || 4 < kind then (s.bump 0x4400_0C p, false)
  else if s.reg 0x4400_05 p < messageLevel kind then ((s.bump 0x4400_0C p).notePort p (sw 0x18) 0, false)
  else (s, true)

/-- A credit cell: a reset acknowledge, a reset request, or both, or a new window (R258, R259). -/
def State.takeCredit (s : State) (p : Nat) (cell : Bytes) : State :=
  let q := s.port p
  let next := cellA cell / 65536
  let f := cellFlags cell
  let s0 :=
    if bitAt f 1 && q.resetting then
      s.setPort p { q with resetting := false, txAcked := q.resetSeq, txSent := q.resetSeq, timeouts := 0 }
    else s
  if bitAt f 0 then
    let s1 := (s0.setPort p { s0.port p with rxNext := next, rxParts := [] }).sendCredit p true
    if bitAt f 1 then s1.pump p else s1
  else
    let s1 := s0
    let q1 := s1.port p
    let adv := dist16 next q1.txAcked
    if q1.resetting || dist16 q1.txNext q1.txAcked < adv then s1
    else
      let q2 : Port := { q1 with
        txAcked := next, txCredit := min 256 (cellB cell)
        txQueue := q1.txQueue.filter fun m => adv ≤ dist16 m.seq q1.txAcked
        txSent := if dist16 q1.txSent q1.txAcked < adv then next else q1.txSent
        lastAdvance := if adv = 0 then q1.lastAdvance else s1.now
        timeouts := if adv = 0 then q1.timeouts else 0 }
      (s1.setPort p q2).pump p

/-- The response that a ledger response which could not be delivered fails with: SW-0x14 and no data (R259, R409). -/
def failedResponse (head : Bytes) : Bytes :=
  head.take 9 ++ [1, 0, 0] ++ slice head 12 4 ++ beBytes 2 Sub.SW.letters ++ [0x14, 0, 0, 0, 0, 0]

/-- The heads of the pending ledger responses of a channel, oldest first; a wall message has no response, and what it asked
for goes unanswered (R257, R259). -/
def Port.pendingResponses (q : Port) : List Bytes :=
  ((q.txQueue.filter fun m => bits (cellA m.cell) 15 8 == 2).map fun m => (cellB m.cell / 65536, m.head)).eraseDups.map
    Prod.snd

/-- No advance for L:4400.0F: every cell sent is sent again; after 16 in a row the channel is reset, and what waits fails
with SW-0x14 (R259). -/
def State.retransmit (s : State) (p : Nat) : State :=
  let q := s.port p
  let n := q.timeouts + 1
  if 16 ≤ n then
    let q1 : Port := { q with txQueue := [], timeouts := 0, resetting := true }
    let s1 := ((s.setPort p q1).record 0x098 (some (sw 0x14)) p 0).bump 0x4400_11 p
    (q.pendingResponses.foldl (fun t h => t.sendMessage p 2 (failedResponse h)) s1).sendCredit p false
  else
    let again := q.txQueue.filter fun m => dist16 m.seq q.txAcked < dist16 q.txSent q.txAcked
    let s1 := again.foldl (fun t m => t.sendCell p m.cell) s
    (s1.setPort p { s1.port p with timeouts := n, lastAdvance := s1.now }).bump 0x4400_10 p

/-! ### Time cells (R261, R262, R282, R283) -/

/-- A time cell of a kind that arrives on a port of the role that takes it, on logical lane 0; else it is ignored and
counted. A Delay request goes to a port that serves (R262; DEDUCED, log entry 32). -/
def State.onTime (s : State) (p : Nat) (cell : Bytes) (kind role : Nat) (f : State → Bytes → Nat → State) : State :=
  s.onCell p cell 3 fun s =>
    if s.reg 0x4400_05 p < 4 || s.reg 0x4400_06 p != role then
      (s.bump 0x4400_13 p).notePort p (sw 0x18) 0
    else if cellA cell / 2 ^ 24 = kind then f s (cellPayload cell) (cellA cell % 65536)
    else s

/-- A time cell. -/
def timeCell (kind number : Nat) (payload : Bytes) : Bytes := cellOf 3 0 (kind * 2 ^ 24 + number) 0 payload

/-- A Sync on a port that takes time: t2 is recorded, the Delay request sent, the epoch and period compared, and under
source 2 the sender's state joins the device's (R262, R282, R283). -/
def State.takeSync (s : State) (p : Nat) (b : Bytes) (number : Nat) : State :=
  let t2 := s.wall
  let q := s.port p
  let s1 := (s.setPort p { q with
    exch := some (number, field b 0 8, t2, t2), exchAt := s.now, senderState := some (field b 8 1) }).sendCell p
      (timeCell 2 number (beBytes 8 0))
  let s2 := if field b 12 8 = s1.reg 0x2800_01 && field b 20 4 = s1.reg 0x2800_02 && field b 24 2 = s1.reg 0x2800_03
    then s1 else s1.recordDevice (60 * second) 0x0A3 (some (tm 0x06)) p 0
  if s2.reg 0x4808_01 = 2 && s2.reg 0x4808_06 = p then
    let eff := max s2.time.own s2.senderState
    s2.settleTime (if eff = 0 then tm 0x01 else if eff = 1 then tm 0x02 else tm 0x03)
  else s2

/-- A Delay response completes its exchange: round trip, delay and offset; the offset of the port in use goes to the
servo (R262). -/
def State.takeResponse (s : State) (p : Nat) (b : Bytes) (number : Nat) : State :=
  let q := s.port p
  match q.exch with
  | none => s
  | some (n, t1, t2, t3) =>
    if n != number then s
    else
      let d := fun (x y : Nat) => toSigned 64 (ofSigned 64 ((x : Int) - y))
      let rtt := d (field b 0 8) t1 - d t3 t2
      let delay := Int.tdiv rtt 2 + s.regI 0x4400_07 p 32
      let off := d t2 t1 - delay
      let s1 := s.setPort p { q with exch := none, lastExch := some s.now, timeLost := false }
      let s2 := (s1.setRegI 0x4400_16 p 32 rtt).setRegI 0x4400_17 p 64 off
      if s2.reg 0x4808_01 = 2 && s2.reg 0x4808_06 = p then s2.addSample off else s2

/-- A serving port sends a Sync; its transmit time is written as it leaves (R261, R262, R282). -/
def State.sendSync (s : State) (p : Nat) : State :=
  let q := s.port p
  let b := beBytes 8 0 ++ beBytes 1 s.timeState ++ beBytes 1 (s.reg 0x2400_09) ++ [0, 0] ++
    beBytes 8 (s.reg 0x2800_01) ++ beBytes 4 (s.reg 0x2800_02) ++ beBytes 2 (s.reg 0x2800_03)
  (s.setPort p { q with exchNo := (q.exchNo + 1) % 65536, lastExch := some s.now }).sendCell p (timeCell 1 q.exchNo b)

/-! ### The commands -/

/-- VIDEO_HEADER_CELL (R253). -/
def execVideoHeaderCell (port : Fin 24) (cell : Bytes) (s : State) : Out :=
  whenLive s fun s => s.onVideo port cell 0 fun s slot =>
    match s.source slot with
    | some x => s.takeHeader port cell slot x
    | none => s

/-- VIDEO_DATA_CELL (R254). -/
def execVideoDataCell (port : Fin 24) (cell : Bytes) (s : State) : Out :=
  whenLive s fun s => s.onVideo port cell 1 fun s slot =>
    match s.source slot with
    | some x => s.takeData port cell slot x
    | none => s

/-- VIDEO_TRAILER_CELL (R254, R255). -/
def execVideoTrailerCell (port : Fin 24) (cell : Bytes) (s : State) : Out :=
  whenLive s fun s => s.onVideo port cell 2 fun s slot => s.takeTrailer port cell slot

/-- INBOUND_FRAME_TIMEOUT (R254): a frame of the slot whose last cell is 2 ms old ends, on each port it arrives on. -/
def execInboundFrameTimeout (slot : Fin 40) (s : State) : Out :=
  whenLive s fun s => (List.range 24).foldl (fun (t : State) p =>
    if (t.port p).rx.any fun f => f.slot == slot.val && decide (f.last + 2 * milli ≤ t.now) then t.truncateRx p slot
    else t) s

/-- NULL_CELL (R245). -/
def execNullCell (port : Fin 24) (cell : Bytes) (s : State) : Out :=
  whenLive s fun s => s.onCell port cell 0 fun s => s

/-- WITNESS_CELL (R256). -/
def execWitnessCell (port : Fin 24) (cell : Bytes) (s : State) : Out :=
  whenLive s fun s => s.onCell port cell 5 fun s => s.takeWitness port cell

/-- FORWARD_FRAME_START (R254). -/
def execForwardFrameStart (slot : Fin 40) (s : State) : Out :=
  whenLive s fun s =>
    match s.source slot with
    | some x => if x.upPort < 24 then s.forward slot x else s
    | none => s

/-- CREDIT_CELL (R258, R259). -/
def execCreditCell (port : Fin 24) (cell : Bytes) (s : State) : Out :=
  whenLive s fun s => s.onCell port cell 4 fun s => s.takeCredit port cell

/-- CREDIT_SEND (R258). -/
def execCreditSend (port : Fin 24) (s : State) : Out :=
  whenLive s fun s => if s.portInService port then s.sendCredit port false else s

/-- RETRANSMIT_TIMEOUT (R259). -/
def execRetransmitTimeout (port : Fin 24) (s : State) : Out :=
  whenLive s fun s =>
    let q := s.port port
    if !q.resetting && q.txSent != q.txAcked && decide (q.lastAdvance + s.reg 0x4400_0F port * 1000 ≤ s.now) then
      s.retransmit port
    else s

/-- SYNC_CELL (R262). -/
def execSyncCell (port : Fin 24) (cell : Bytes) (s : State) : Out :=
  whenLive s fun s => s.onTime port cell 1 2 fun s b n => s.takeSync port b n

/-- DELAY_REQUEST_CELL (R262): the response carries when the request arrived. -/
def execDelayRequestCell (port : Fin 24) (cell : Bytes) (s : State) : Out :=
  whenLive s fun s => s.onTime port cell 2 1 fun s _ n => s.sendCell port (timeCell 3 n (beBytes 8 s.wall))

/-- DELAY_RESPONSE_CELL (R262). -/
def execDelayResponseCell (port : Fin 24) (cell : Bytes) (s : State) : Out :=
  whenLive s fun s => s.onTime port cell 3 2 fun s b n => s.takeResponse port b n

/-- SYNC_SEND (R262): every L:4400.08. -/
def execSyncSend (port : Fin 24) (s : State) : Out :=
  whenLive s fun s =>
    let due := match (s.port port).lastExch with
      | some t => decide (t + s.reg 0x4400_08 port * 1000 ≤ s.now)
      | none => true
    if s.reg 0x4400_06 port = 1 && s.portInService port && due then s.sendSync port else s

/-- DELAY_EXCHANGE_TIMEOUT (R262). -/
def execDelayExchangeTimeout (port : Fin 24) (s : State) : Out :=
  whenLive s fun s =>
    let q := s.port port
    if q.exch.isSome && decide (q.exchAt + milli ≤ s.now) then s.setPort port { q with exch := none } else s

end Sys2Proof.Machine
end

