-- ==== Sys2Proof/Machine/Isp.lean ====
section
/-! DEFINITION. The image pipeline's arithmetic (R179, R188, R193-R197, R202): the samples of a frame from its packets,
the stages of R193, and what its taps count. Demosaic, noise reduction and sharpening, whose arithmetic no rule gives, are
uninterpreted functions of the plane they act on (log entry 8). -/

namespace Sys2Proof.Machine

set_option Elab.async false

/-! ### Planes -/

/-- A plane of samples or pixels, by line; a site that did not arrive holds none. -/
abbrev Plane (α : Type) := Array (Array (Option α))

/-- The plane of a function of column and line. -/
def planeOf {α : Type} (w h : Nat) (f : Nat → Nat → Option α) : Plane α :=
  (Array.range h).map fun y => (Array.range w).map fun x => f x y

/-- The site of a plane at a column and a line. -/
def Plane.at {α : Type} (p : Plane α) (x y : Nat) : Option α := (p.getD y #[]).getD x none

/-- A plane with a function of column, line and value in place of each value. -/
def Plane.mapAt {α β : Type} (p : Plane α) (f : Nat → Nat → α → β) : Plane β :=
  p.mapIdx fun y row => row.mapIdx fun x v => v.map (f x y)

/-- A component of a pixel of red, green and blue. -/
def rgbComp (p : Nat × Nat × Nat) (i : Nat) : Nat := if i = 0 then p.1 else if i = 1 then p.2.1 else p.2.2

/-- A pixel of three components. -/
def rgbOf (f : Nat → Nat) : Nat × Nat × Nat := (f 0, f 1, f 2)

/-! ### Samples (R179, R193) -/

/-- The byte of a line at an offset. -/
def lineByte (b : Array Byte) (o : Nat) : Nat := (b.getD o 0).toNat

/-- Pixels of a data type that lie whole in the first `n` bytes of a payload (R179; packing PRESUMED as CSI-2 has it, log
entry 145). -/
def wholePixels (dt n : Nat) : Nat :=
  match dt with
  | 0x2A => n
  | 0x2B => n / 5 * 4
  | 0x2C => n / 3 * 2
  | 0x2D => n / 7 * 4
  | 0x2E => n / 2
  | 0x24 => n / 3
  | _ => n / 4 * 2

/-- A raw sample of a line aligned to 16 bits at the most significant bit (R193; packing PRESUMED, log entry 145). -/
def rawSample (dt : Nat) (b : Array Byte) (x : Nat) : Nat :=
  match dt with
  | 0x2A => lineByte b x * 256
  | 0x2B =>
    let g := x / 4 * 5
    (lineByte b (g + x % 4) * 4 + lineByte b (g + 4) / 4 ^ (x % 4) % 4) * 64
  | 0x2C =>
    let g := x / 2 * 3
    (lineByte b (g + x % 2) * 16 + lineByte b (g + 2) / 16 ^ (x % 2) % 16) * 16
  | 0x2D =>
    let g := x / 4 * 7
    let low := lineByte b (g + 4) + 256 * lineByte b (g + 5) + 65536 * lineByte b (g + 6)
    (lineByte b (g + x % 4) * 64 + low / 64 ^ (x % 4) % 64) * 4
  | _ => lineByte b (2 * x) * 256 + lineByte b (2 * x + 1)

/-- An eight-bit component widened to ten bits (R129). -/
def widen8 (v : Nat) : Nat := v * 4 + v / 64

/-- A determinant of three rows. -/
def det3 (a b c : Int × Int × Int) : Int :=
  a.1 * (b.2.1 * c.2.2 - b.2.2 * c.2.1) - a.2.1 * (b.1 * c.2.2 - b.2.2 * c.1) + a.2.2 * (b.1 * c.2.1 - b.2.1 * c.1)

/-- A whole number below or above a quotient that is none; the quotient itself else. -/
def divTo (up : Bool) (a b : Int) : Int := if up && a % b != 0 then a / b + 1 else a / b

/-- A value held between 0 and a bound. -/
def clampTo (most : Nat) (v : Int) : Nat := min most v.toNat

/-- Component `i` of the RGB pixel whose limited-range conversion (R196) gives ten-bit y, cb and cr: the exact solution,
taken to one of its two neighbours where it is no whole number (R193; log entry 8). -/
def fromYcc (up : Bool) (y cb cr : Int) (i : Nat) : Nat :=
  let m : List (Int × Int × Int) := [(11931, 40136, 4052), (-6577, -22123, 28700), (28700, -26068, -2632)]
  let v : List Int := [(y - 64) * 65536, (cb - 512) * 65536, (cr - 512) * 65536]
  let put := fun (r : Int × Int × Int) (t : Int) =>
    if i = 0 then (t, r.2.1, r.2.2) else if i = 1 then (r.1, t, r.2.2) else (r.1, r.2.1, t)
  let row := fun (k : Nat) => m.getD k (0, 0, 0)
  let new := fun (k : Nat) => put (row k) (v.getD k 0)
  let d := det3 (row 0) (row 1) (row 2)
  let n := det3 (new 0) (new 1) (new 2)
  clampTo 1023 (if 0 < d then divTo up n d else divTo up (-n) (-d))

/-- Whether a data type takes the Bayer path (R179). -/
def isBayer (dt : Nat) : Bool := dt != 0x24 && dt != 0x1E

/-- A frame's lines as arrays, the first line first. -/
def CamFrame.rows (f : CamFrame) : Array (Array Byte) := (f.lines.reverse.map (·.toArray)).toArray

/-- The columns of a line that arrived whole. -/
def CamFrame.arrived (f : CamFrame) (row : Array Byte) : Nat := min f.isp.width (wholePixels f.isp.dataType row.size)

/-- A frame's raw samples, 16 bits each (R193). -/
def CamFrame.samples (f : CamFrame) : Plane Nat :=
  let rows := f.rows
  planeOf f.isp.width f.isp.height fun x y =>
    let row := rows.getD y #[]
    if x < f.arrived row then some (rawSample f.isp.dataType row x) else none

/-- Whether a quotient of a frame's processing that is no whole number is taken up: stage, column, line, component (log
entry 8). -/
def CamFrame.up (f : CamFrame) (stage x y i : Nat) : Bool := Config.ispUp f.ctx f.seq stage (x + y * 65536) i

/-- A frame's pixels of an RGB888 or YUV422 data type, 16 bits a component (R129, R179, R193). The two pixels of a pair
share its chroma (DEDUCED, log entry 145). -/
def CamFrame.pixels (f : CamFrame) : Plane (Nat × Nat × Nat) :=
  let rows := f.rows
  planeOf f.isp.width f.isp.height fun x y =>
    let row := rows.getD y #[]
    if f.arrived row ≤ x then none
    else if f.isp.dataType = 0x24 then some (rgbOf fun i => widen8 (lineByte row (3 * x + (2 - i))) * 64)
    else
      let o := x / 2 * 4
      let part := fun k => ((lineByte row (o + k) * 4 : Nat) : Int)
      some (rgbOf fun i => fromYcc (f.up 0 x y i) (part (1 + 2 * (x % 2))) (part 0) (part 2) i * 64)

/-! ### Stages 1 to 3 and 5 (R193) -/

/-- The colour of a site in a Bayer order: 0 red, 1 green in a red line, 2 green in a blue line, 3 blue (L:3840.08). -/
def bayerSite (order x y : Nat) : Nat := (x + order) % 2 + 2 * ((y + order / 2) % 2)

/-- Stage 1: black level subtraction, clamped at 0. -/
def CamFrame.blacked (f : CamFrame) (p : Plane Nat) : Plane Nat := p.mapAt fun _ _ v => v - f.isp.black

/-- Whether a site is listed in a defect table (R194). -/
def isListed (table : Bytes) (x y : Nat) : Bool :=
  (List.range (field table 8 2)).any fun i => field table (10 + 4 * i) 2 == x && field table (12 + 4 * i) 2 == y

/-- The four nearest sites of a site's colour: diagonal for green, two apart for red and blue. -/
def nearest (green : Bool) (x y : Nat) : List (Int × Int) :=
  let a : Int := x
  let b : Int := y
  if green then [(a - 1, b - 1), (a + 1, b - 1), (a - 1, b + 1), (a + 1, b + 1)]
  else [(a - 2, b), (a + 2, b), (a, b - 2), (a, b + 2)]

/-- Stage 2 at a site: the median of the four nearest of its colour, which an even number leaves open between the middle
two; where not all four lie in the frame the value is free (log entry 8). -/
def CamFrame.mended (f : CamFrame) (p : Plane Nat) (x y : Nat) : Nat :=
  let site := bayerSite f.isp.order x y
  let near := (nearest (site == 1 || site == 2) x y).filterMap fun q =>
    if q.1 < 0 || q.2 < 0 then none else p.at q.1.toNat q.2.toNat
  let free := Config.defectFill f.ctx f.seq x y
  match sortBy (fun a b : Nat => a < b) near with
  | [_, lo, hi, _] => lo + free % (hi - lo + 1)
  | _ => free % 65536

/-- Stage 2: listed pixels, and detected ones with L:3850.02, are corrected; which are detected no rule says (log entry
8). With no table loaded the stage is bypassed whole; a table that lists no pixel is no empty table (DEDUCED, log entry 178). -/
def CamFrame.corrected (f : CamFrame) (p : Plane Nat) : Plane Nat :=
  let t := f.isp.defects
  if t.isEmpty then p
  else p.mapAt fun x y v =>
    if isListed t x y || (f.isp.dynamic && Config.defectSeen p x y) then f.mended p x y else v

/-- Stage 3: the gain of a site, bilinear over a grid of 17 × 13 points that span the frame (R194; DEDUCED, log entry
145), in units of 1/4,096. -/
def CamFrame.shaded (f : CamFrame) (p : Plane Nat) : Plane Nat :=
  let t := f.isp.shading
  let w := f.isp.width
  let h := f.isp.height
  if t.isEmpty then p
  else p.mapAt fun x y v =>
    let site := bayerSite f.isp.order x y
    let gx := 16 * x / w
    let gy := 12 * y / h
    let fx := 16 * x % w
    let fy := 12 * y % h
    let g := fun i j => field t (8 + 2 * (((gy + j) * 17 + (gx + i)) * 4 + site)) 2
    let sum := (w - fx) * (h - fy) * g 0 0 + fx * (h - fy) * g 1 0 + (w - fx) * fy * g 0 1 + fx * fy * g 1 1
    clampTo 65535 (divTo (f.up 3 x y site) (v * sum : Nat) (4096 * w * h : Nat))

/-- The white-balance gain of a component: 0 red, 1 green, 2 blue. -/
def IspSet.gain (q : IspSet) (i : Nat) : Nat := rgbComp q.gains i

/-- The component that a Bayer site holds. -/
def siteComp (site : Nat) : Nat := if site = 0 then 0 else if site = 3 then 2 else 1

/-- Stage 5 on a value of a component: its gain in units of 1/256. -/
def CamFrame.balanced (f : CamFrame) (x y i v : Nat) : Nat :=
  clampTo 65535 (divTo (f.up 5 x y i) (v * f.isp.gain i : Nat) 256)

/-! ### Stages 6 to 10 (R193) -/

/-- Stage 6: demosaic. -/
def CamFrame.demosaiced (f : CamFrame) (p : Plane Nat) : Plane (Nat × Nat × Nat) :=
  p.mapAt fun x y _ => rgbOf fun i => Config.demosaic f.isp.order p x y i % 65536

/-- An element of a colour matrix (L:3850.03). -/
def matrixAt (m : Bytes) (i j : Nat) : Int := toSigned 16 (field m (2 * (3 * i + j)) 2)

/-- Stage 7: the colour matrix, unity 1,024, each component held to 16 bits. -/
def CamFrame.toned (f : CamFrame) (p : Plane (Nat × Nat × Nat)) : Plane (Nat × Nat × Nat) :=
  let m := f.isp.matrix
  p.mapAt fun x y v => rgbOf fun i =>
    clampTo 65535 (divTo (f.up 7 x y i) (matrixAt m i 0 * v.1 + matrixAt m i 1 * v.2.1 + matrixAt m i 2 * v.2.2) 1024)

/-- Stage 8: noise reduction, then sharpening. -/
def CamFrame.refined (f : CamFrame) (p : Plane (Nat × Nat × Nat)) : Plane (Nat × Nat × Nat) :=
  let q := p.mapAt fun x y _ => rgbOf fun i => Config.denoise f.isp.noise p x y i % 65536
  q.mapAt fun x y _ => rgbOf fun i => Config.sharpen f.isp.sharp q x y i % 65536

/-- Stage 10 on a value: the tone curve, linear between its points (DESIGN CHOICE, log entry 182); an empty curve takes the top 10
bits (R193, R194). -/
def CamFrame.curved (f : CamFrame) (x y i v : Nat) : Nat :=
  let t := f.isp.tone
  if t.isEmpty then v / 64
  else
    let a := field t (8 + 2 * (v / 256)) 2
    let b := field t (10 + 2 * (v / 256)) 2
    clampTo 1023 (divTo (f.up 10 x y i) ((a : Int) * 256 + ((b : Int) - a) * (v % 256 : Nat)) 256)

/-! ### The whole pipeline -/

/-- What the pipeline holds of a frame at its taps: raw sites after stage 3 (of the Bayer path), pixels before stage 5 (of
the others), after demosaic, after the matrix, and after stage 8. -/
structure Taps where
  sites : Plane Nat := #[]
  colours : Plane (Nat × Nat × Nat) := #[]
  mosaic : Plane (Nat × Nat × Nat) := #[]
  matrixed : Plane (Nat × Nat × Nat) := #[]
  refined : Plane (Nat × Nat × Nat) := #[]

/-- Stages 1 to 8 of a frame (R179, R193). -/
def CamFrame.taps (f : CamFrame) : Taps :=
  if isBayer f.isp.dataType then
    let s3 := f.shaded (f.corrected (f.blacked f.samples))
    let s5 := s3.mapAt fun x y v => f.balanced x y (siteComp (bayerSite f.isp.order x y)) v
    let s6 := f.demosaiced s5
    let s7 := f.toned s6
    { sites := s3, mosaic := s6, matrixed := s7, refined := f.refined s7 }
  else
    let s4 := f.pixels
    let s5 := s4.mapAt fun x y v => rgbOf fun i => f.balanced x y i (rgbComp v i)
    let s7 := f.toned s5
    { colours := s4, mosaic := s5, matrixed := s7, refined := f.refined s7 }

/-- The ten-bit pixels of a frame after stage 10 (R193). -/
def CamFrame.image (f : CamFrame) (t : Taps) : Plane Px :=
  t.refined.mapAt fun x y v =>
    { r := f.curved x y 0 v.1, g := f.curved x y 1 v.2.1, b := f.curved x y 2 v.2.2 }

/-! ### Output pixels (R188, R195-R197) -/

/-- A picture's pixel at a site; one that did not arrive takes the fill colour (R188). -/
def CamFrame.px (f : CamFrame) (img : Plane Px) (x y : Nat) : Px := (img.at x y).getD (Px.ofWord f.fill)

/-- The average of a box of k × k sites with rounding (R195, R196). -/
def CamFrame.box (f : CamFrame) (img : Plane Px) (k x y : Nat) : Px :=
  if k ≤ 1 then f.px img x y
  else Px.ofComps fun i =>
    ((List.range k).foldl (fun acc dy => (List.range k).foldl (fun acc dx =>
      acc + (f.px img (x * k + dx) (y * k + dy)).comp i) acc) 0 + k * k / 2) / (k * k)

/-- A plane as its bytes with a stride: line by line, padded with 0. -/
def planeBytes (w h stride : Nat) (f : Nat → Nat → Bytes) : Bytes :=
  (List.range h).flatMap fun y =>
    let line := (List.range w).flatMap fun x => f x y
    line ++ List.replicate (stride - line.length) 0

/-- The display output's bytes (R195). -/
def CamFrame.display (f : CamFrame) (img : Plane Px) : Bytes :=
  let q := f.isp
  let w := q.width / q.decimation
  planeBytes w (q.height / q.decimation) (roundUp (lineBytes q.display w) 64) fun x y =>
    leBytes (pixelBytes q.display) (encodePx q.display { f.box img q.decimation x y with a := 1023 })

/-- BT.709 limited-range Y, Cb, Cr of a pixel, 10 bits (R196). -/
def ycc (p : Px) : Int × Int × Int :=
  let r : Int := p.r
  let g : Int := p.g
  let b : Int := p.b
  (64 + (11931 * r + 40136 * g + 4052 * b + 32768) / 65536,
   512 + (-6577 * r - 22123 * g + 28700 * b + 32768) / 65536,
   512 + (28700 * r - 26068 * g - 2632 * b + 32768) / 65536)

/-- A coding output's sample as stored: eight bits, or sixteen with the value in [15:6] (R196). -/
def codeSample (wide : Bool) (v : Int) : Bytes := if wide then leBytes 2 (v.toNat * 64) else leBytes 1 (v.toNat / 4)

/-- The average of a list of samples with rounding. -/
def meanOf (xs : List Int) : Int := ((xs.foldl (· + ·) 0) + xs.length / 2) / xs.length

/-- The coding output's bytes, its lines padded to a multiple of `pad` bytes (R196, R197). -/
def CamFrame.coding (f : CamFrame) (img : Plane Px) (pad : Nat) : Bytes :=
  let fmt := f.isp.coding
  let k := f.isp.codingScale
  let w := f.isp.width / k
  let h := f.isp.height / k
  let stride := roundUp (lineBytes fmt w) pad
  let at' := fun x y => ycc (f.box img k x y)
  if fmt = 0x12 then
    planeBytes (w / 2) h stride fun x y =>
      let a := at' (2 * x) y
      let b := at' (2 * x + 1) y
      codeSample false a.1 ++ codeSample false (meanOf [a.2.1, b.2.1]) ++ codeSample false b.1 ++
        codeSample false (meanOf [a.2.2, b.2.2])
  else
    let wide := fmt == 0x11
    planeBytes w h stride (fun x y => codeSample wide (at' x y).1) ++
    planeBytes (w / 2) (h / 2) stride fun x y =>
      let q := [at' (2 * x) (2 * y), at' (2 * x + 1) (2 * y), at' (2 * x) (2 * y + 1), at' (2 * x + 1) (2 * y + 1)]
      codeSample wide (meanOf (q.map fun v => v.2.1)) ++ codeSample wide (meanOf (q.map fun v => v.2.2))

/-- Full-range luma of a pixel (R197). -/
def luma (p : Px) : Nat := (13933 * p.r + 46871 * p.g + 4732 * p.b + 32768) / 65536

/-- The vision output's bytes, its lines padded to a multiple of `pad` bytes (R197). -/
def CamFrame.vision (f : CamFrame) (img : Plane Px) (pad : Nat) : Bytes :=
  let fmt := f.isp.vision
  let k := f.isp.visionScale
  let w := f.isp.width / k
  let h := f.isp.height / k
  let stride := roundUp (lineBytes fmt w) pad
  if fmt = 0x1A then
    [0, 1, 2].flatMap fun i => planeBytes w h stride fun x y => leBytes 1 ((f.box img k x y).comp i / 4)
  else planeBytes w h stride fun x y =>
    let v := luma (f.box img k x y)
    if fmt = 0x18 then leBytes 1 (v / 4) else leBytes 2 v

/-! ### What the taps count (R201, R202) -/

/-- The first column of zone column `k`, or line of zone row `k`, of `n` over a span (R202). -/
def zoneStart (k n span : Nat) : Nat := k * span / n

/-- The sites of zone `z` of 16 × 12. -/
def zoneSites (z w h : Nat) : List (Nat × Nat) :=
  let x0 := zoneStart (z % 16) 16 w
  let x1 := zoneStart (z % 16 + 1) 16 w
  let y0 := zoneStart (z / 16) 12 h
  let y1 := zoneStart (z / 16 + 1) 12 h
  (List.range (y1 - y0)).flatMap fun y => (List.range (x1 - x0)).map fun x => (x0 + x, y0 + y)

/-- A sum over sites. -/
def sumSites (sites : List (Nat × Nat)) (f : Nat → Nat → Nat) : Nat := sites.foldl (fun acc q => acc + f q.1 q.2) 0

/-- The zone sums of R, G and B and the count, from the top 10 bits at stage 4; a quad counts in the zone of its first site
(R202; DEDUCED, log entry 145). -/
def CamFrame.zoneSum (f : CamFrame) (t : Taps) (z : Nat) : Bytes :=
  let sites := zoneSites z f.isp.width f.isp.height
  let bayer := isBayer f.isp.dataType
  let sum := fun (i : Nat) => sumSites sites fun x y =>
    if bayer then (if siteComp (bayerSite f.isp.order x y) = i then (t.sites.at x y).getD 0 / 64 else 0)
    else rgbComp ((t.colours.at x y).getD (0, 0, 0)) i / 64
  let count := sumSites sites fun x y =>
    if bayer then (if x % 2 = 0 && y % 2 = 0 && (t.sites.at x y).isSome then 1 else 0)
    else if (t.colours.at x y).isSome then 1 else 0
  beBytes 4 (sum 0) ++ beBytes 4 (sum 1) ++ beBytes 4 (sum 2) ++ beBytes 4 count

/-- The focus sum of a zone: |G(x - 1) - 2G(x) + G(x + 1)| on green after demosaic, saturating (R202); a site at a line's
end, which lacks a neighbour, adds nothing (DEDUCED, log entry 145). -/
def CamFrame.focus (f : CamFrame) (t : Taps) (z : Nat) : Nat :=
  min 0xFFFFFFFF (sumSites (zoneSites z f.isp.width f.isp.height) fun x y =>
    match (if x = 0 then none else t.mosaic.at (x - 1) y), t.mosaic.at x y, t.mosaic.at (x + 1) y with
    | some a, some b, some c => ((a.2.1 : Int) - 2 * b.2.1 + c.2.1).natAbs
    | _, _, _ => 0)

/-- A count over the sites of a plane that arrived. -/
def Plane.count {α : Type} (p : Plane α) (f : α → Bool) : Nat :=
  p.foldl (fun acc row => row.foldl (fun acc v =>
    match v with | some x => if f x then acc + 1 else acc | none => acc) acc) 0

/-- Pixels with any component at full scale after the colour matrix (R201). -/
def CamFrame.clipped (_f : CamFrame) (t : Taps) : Nat :=
  t.matrixed.count fun v => v.1 == 65535 || v.2.1 == 65535 || v.2.2 == 65535

/-- The histogram bin of a pixel, from the top 10 bits of its components (R202). -/
def histBin (v : Nat × Nat × Nat) : Nat := (v.1 / 64 + 2 * (v.2.1 / 64) + v.2.2 / 64 + 2) / 4 / 4

/-- The histogram's 256 bins (R201, R202). -/
def CamFrame.histogram (_f : CamFrame) (t : Taps) : Array Nat :=
  t.refined.foldl (fun acc row => row.foldl (fun acc v =>
    match v with | some x => acc.modify (histBin x) (· + 1) | none => acc) acc) (Array.replicate 256 0)

/-- The measurements of a frame as its statistics block holds them: clipped pixels, and from byte 64 the histogram, the zone
sums and the focus sums (R201). -/
def CamFrame.measured (f : CamFrame) (t : Taps) : Bytes × Bytes :=
  (beBytes 4 (f.clipped t),
   (f.histogram t).toList.flatMap (beBytes 4) ++ (List.range 192).flatMap (f.zoneSum t) ++
     (List.range 192).flatMap fun z => beBytes 4 (f.focus t z))

end Sys2Proof.Machine
end

