-- ==== Sys2Proof/Machine/Cameras.lean ====
section
/-! DEFINITION. Cameras and the image pipeline (R178-R209): ports and their states, frames from Frame Start to the
pipeline, the three outputs, statistics, exposure generations, and the control bus. -/

namespace Sys2Proof.Machine

set_option Elab.async false

/-! ### Ports (R178-R182) -/

/-- A camera port changes state, with E-0x082 (R180). -/
def State.setCamState (s : State) (port st : Nat) : State :=
  if s.reg 0x3800_07 port = st then s
  else
    let code := if st = 3 then some (inc 0x08) else if st = 4 then some (inc 0x09) else none
    (s.setReg 0x3800_07 port st).record 0x082 code port st

/-- A camera port is enabled: Waiting (R180); without the edge in its role the device leaves it without power (R22). -/
def State.enableCamPort (s : State) (port : Nat) : State :=
  if !s.edgeRole then s else (s.setCamPort port { enabledAt := s.now }).setCamState port 1

/-- A camera port is disabled: Off; a transfer that waits is refused (R180, R208). -/
def State.disableCamPort (s : State) (port : Nat) : State :=
  let s1 := if (s.camPort port).xfer.isSome then s.setReg 0x3800_0C port 5 else s
  (s1.setCamPort port {}).setCamState port 0

/-- The place of a port's counters of a virtual channel; 16 is unattributed (R181, L:3808). -/
def channelInst (port vc : Nat) : Nat := port * 17 + vc

/-- A stray packet (R178). -/
def State.stray (s : State) (port vc : Nat) : State := s.bump 0x3808_05 (channelInst port vc)

/-- The enabled contexts of a port and virtual channel. -/
def State.contextsOn (s : State) (port vc : Nat) : List Nat :=
  (List.range 32).filter fun c => s.flag 0x3840_02 c && s.reg 0x3840_03 c == port && s.reg 0x3840_04 c == vc

/-- The enabled contexts of a port. -/
def State.portContexts (s : State) (port : Nat) : List Nat :=
  (List.range 32).filter fun c => s.flag 0x3840_02 c && s.reg 0x3840_03 c == port

/-! ### Contexts (R183-R189) -/

/-- The source slot that shows a context, with its source (R70, R195). -/
def State.displayOf (s : State) (c : Nat) : Option (Nat × Source) :=
  s.sources.find? fun x => x.2.kind == 1 && x.2.locator == c

/-- Bits per pixel of a data type (R179). -/
def bitsPerPixel (dt : Nat) : Nat :=
  match dt with
  | 0x2A => 8 | 0x2B => 10 | 0x2C => 12 | 0x2D => 14 | 0x2E => 16 | 0x24 => 24 | 0x1E => 16 | _ => 0

/-- A context is enabled: no generation is in effect and no frame is known (R205). -/
def State.enableContext (s : State) (c : Nat) : State := s.setCtx c {}

/-- A context is disabled: its frames that no pipeline has taken are gone. -/
def State.disableContext (s : State) (c : Nat) : State := s.setCtx c {}

/-- A frame of a context is dropped or abandoned: Slag and E-0x081, at most once per context per 64 frames (R186,
R192). -/
def State.dropCamera (s : State) (c seq : Nat) (code : Code) : State :=
  (s.bump 0x3840_1B c).recordEvery (s.reg 0x3840_18 c) 64 false 0x081 (some code) c seq

/-- Mark a frame with bit 0 to 3, once: L:3840.1C and E-0x080 with the mark's code (R187). -/
def State.markCamera (s : State) (f : CamFrame) (bit : Nat) : State × CamFrame :=
  if bitAt f.marks bit then (s, f)
  else
    ((s.bump 0x3840_1C f.ctx).recordEvery (s.reg 0x3840_18 f.ctx) 64 false 0x080 (some (inc (bit + 1))) f.ctx f.seq,
      { f with marks := f.marks + 2 ^ bit })

/-- A corrected header on a virtual channel (R181). -/
def State.noteHeader (s : State) (port vc ecc : Nat) : State :=
  if ecc = 1 then s.bump 0x3808_02 (channelInst port vc) else s

/-- Mark the frame in progress of a context, if there is one. -/
def State.markCurrent (s : State) (bit c : Nat) : State :=
  match (s.ctx c).cur with
  | some f =>
    let r := s.markCamera f bit
    r.1.setCtx c { r.1.ctx c with cur := some r.2 }
  | none => s

/-- A header that names no trustworthy channel: it counts under channel 16 and toward the port's fault, and marks every
frame in progress on the port; its packet is lost (R180, R181). -/
def State.badHeader (s : State) (port : Nat) : State :=
  let s1 := s.bump 0x3808_03 (channelInst port 16)
  let s2 := s1.setCamPort port { s1.camPort port with errors := (s1.camPort port).errors + 1 }
  (s2.portContexts port).foldl (fun t c => t.markCurrent 3 c) s2

/-- A packet of a port: nothing arrives at a port without power (R22); one on a disabled port is stray, and one with a bad
header is no packet of any channel (R178, R181). -/
def State.onPacket (s : State) (port vc ecc : Nat) (f : State → State) : State :=
  if !s.edgeRole then s
  else if !s.flag 0x3800_02 port then s.stray port vc
  else if ecc = 2 then s.badHeader port
  else f (s.noteHeader port vc ecc)

/-! ### Exposure generations (R203-R206) -/

/-- A context's sensor profile. -/
def State.profile (s : State) (c : Nat) : Bytes := s.blob 0x3840_0D c

/-- Whether a sensor profile is well formed; one with a flag bit [7:2] or bit 7 of the address byte set is refused as well (R203;
DESIGN CHOICE, log entry 180). -/
def profileOk (b : Bytes) : Bool :=
  let n := field b 12 1
  field b 0 4 == 0x44515350 && field b 4 2 == 1 && field b 6 1 < 128 && field b 7 1 < 4 && 1 ≤ n && n ≤ 16 &&
    field b 13 1 == 0 && b.length == 20 + 6 * n && crcTailOk b &&
    (List.range n).all fun i => field b (16 + 6 * i + 2) 1 < 4 && field b (16 + 6 * i + 5) 1 == 0

/-- Line time in ps of a profile. -/
def lineTime (b : Bytes) : Nat := field b 8 4

/-- The generation issued under a number, if it is kept. -/
def Ctx.issued (x : Ctx) (g : Nat) : Option ExpGen := x.gens.find? fun e => e.gen == g

/-- The generation in effect for a frame of a context: 0 before any (R205). -/
def Ctx.inEffect (x : Ctx) (j : Nat) : Nat :=
  match x.effects.find? fun e => e.1 ≤ j with
  | some e => e.2
  | none => 0

/-- Whether a frame's generation is certain: it is not while a transfer runs that a Frame Start has met, from the frame on
in which its generation may take effect after `d` frames (R205, R206). -/
def Ctx.isCertain (x : Ctx) (d j : Nat) : Bool :=
  x.inEffect j != 0 && !(x.uncertain.any fun r => r.1 ≤ j &&
    (match r.2 with | some b => decide (j < b) | none => true)) &&
  !(match x.transfer with | some t => t.during && decide (t.frame + d ≤ j) | none => false)

/-- A context from a frame on: of what took effect before it the latest alone matters, with the settings still to be sent or
in force and the last one issued (R205). -/
def Ctx.forget (x : Ctx) (j last : Nat) : Ctx :=
  let effects := x.effects.takeWhile (fun e => decide (j < e.1)) ++ (x.effects.dropWhile fun e => decide (j < e.1)).take 1
  let used := fun g => g == last || effects.any (·.2 == g) || x.deferred.any (·.1 == g) ||
    (match x.transfer with | some t => t.gen == g | none => false)
  { x with
    effects := effects
    uncertain := x.uncertain.filter fun r => match r.2 with | some b => decide (j < b) | none => true
    gens := x.gens.filter fun e => used e.gen }

/-- Exposure of a generation in ns: its lines times the line time, rounded up (R185). -/
def State.exposureNs (s : State) (c g : Nat) : Nat :=
  match (s.ctx c).issued g with
  | some e => (e.lines * lineTime (s.profile c) + 999) / 1000
  | none => 0

/-- The bytes that each record of a profile writes for a setting (R203); a gain code that is no whole number is rounded down (DESIGN
CHOICE, log entry 181). -/
def profileWrites (b : Bytes) (e : ExpGen) : List Bytes :=
  let flags := field b 7 1
  let unity := field b 14 2
  (List.range (field b 12 1)).map fun i =>
    let o := 16 + 6 * i
    let kind := field b (o + 2) 1
    let shift := field b (o + 3) 1
    let data := field b (o + 4) 1
    let code := if kind = 1 then e.lines else if kind = 2 then e.analogue * unity / 256 else e.digital * unity / 256
    let v := if kind = 0 then data else Nat.land (code / 2 ^ shift) data
    (if bitAt flags 0 then beBytes 2 (field b o 2) else beBytes 1 (field b o 2)) ++ beBytes 1 v

/-- How long the writes of a profile take on a port's control bus, in ns: nine bits a byte, with start and stop
(R204's example). -/
def State.transferTime (s : State) (c : Nat) : Nat :=
  let b := s.profile c
  let bytes := if bitAt (field b 7 1) 0 then 4 else 3
  field b 12 1 * (9 * bytes + 2) * 1000000 / s.reg 0x3800_06 (s.reg 0x3840_03 c)

/-- When an exposure window that opens now closes: after its length, or 500 µs before the next expected Frame Start
(R204). -/
def State.windowCloses (s : State) (c : Nat) : Nat :=
  let x := s.ctx c
  let byLength := s.now + s.reg 0x3840_0C c * 1000
  match x.lastFs, x.period with
  | some fs, some p => min byLength (fs + p - 500000)
  | _, _ => byLength

/-- Whether a context's exposure window is open, at the instant of its close too (R204; DESIGN CHOICE, log entry 179). -/
def State.windowOpen (s : State) (c : Nat) : Bool :=
  match (s.ctx c).window with
  | some w => s.now ≤ w.2.2
  | none => false

/-- The generation that waits first for a window starts its transfer if it ends before the window closes; else it is
deferred to the next one, with E-0x084; a setting that is tried again waits for the window after the one in which it failed (R204,
R206). A transfer whose computed end is the instant of the close counts as ending before it (DESIGN CHOICE, log entry 179). -/
def State.startExposure (s : State) (c : Nat) : State :=
  let x := s.ctx c
  match x.deferred with
  | [] => s
  | (g, retry) :: rest =>
    let again := retry && x.failedIn == x.window.map fun w => w.2.1
    let fits := match x.window with
      | some w => x.transfer.isNone && decide (s.now + s.transferTime c ≤ w.2.2)
      | none => false
    if again then s
    else match x.issued g, fits with
    | some e, true =>
      let b := s.profile c
      let s1 := (profileWrites b e).foldl (fun t w => t.send (.i2c (t.reg 0x3840_03 c) (field b 6 1) w 0)) s
      let k := match x.window with | some w => w.2.1 | none => 0
      s1.setCtx c { x with transfer := some { gen := g, frame := k, retry := retry }, deferred := rest }
    | some _, false =>
      s.recordEvery (s.reg 0x3840_18 c) 64 false 0x084 (some (inc 0x0B)) c (s.reg 0x3840_18 c)
    | none, _ => s.setCtx c { x with deferred := rest }

/-- The generation number after another: it skips 0 (R205). -/
def nextGen (g : Nat) : Nat := if g = 0xFFFFFFFF then 1 else g + 1

/-- Issue a setting as the next generation, and start its transfer (R204, R205). -/
def State.issueExposure (s : State) (c lines analogue digital : Nat) : State :=
  if (s.profile c).isEmpty then s
  else
    let g := nextGen (s.reg 0x3860_0A c)
    let x := s.ctx c
    let e : ExpGen := { gen := g, lines := lines, analogue := analogue, digital := digital }
    ((s.setReg 0x3860_0A c g).setCtx c { x with gens := e :: x.gens, deferred := x.deferred ++ [(g, false)] }).startExposure c

/-- A quotient that is no whole number becomes one of the two nearest, which a free value chooses (log entry 4). -/
def State.roundFree (s : State) (a b : Nat) : Nat × State :=
  if b = 0 then (0, s)
  else if a % b = 0 then (a / b, s)
  else
    let d := s.draw
    (a / b + d.1 % 2, d.2)

/-- A committed manual exposure and gain is issued as a new generation (R207). -/
def State.issueManual (s : State) (c : Nat) : State :=
  if s.reg 0x3860_01 c != 1 || (s.profile c).isEmpty then s
  else
    let l := s.roundFree (s.reg 0x3860_05 c * 1000) (lineTime (s.profile c))
    let gain := s.reg 0x3860_06 c
    let a := min gain (s.reg 0x3860_04 c)
    let d := l.2.roundFree (gain * 256) a
    d.2.issueExposure c l.1 a (min 65535 (max 256 d.1))

/-- The exposure transfer that runs has failed: the setting is tried once more in the next window, ahead of any newer one,
and unless a group hold kept the one before, the frames from k + D on are uncertain (R206). -/
def State.exposureFailed (s : State) (c : Nat) (released : Bool) : State :=
  let x := s.ctx c
  match x.transfer with
  | none => s
  | some t =>
    let held := bitAt (field (s.profile c) 7 1) 1 && !released
    let s1 := s.record 0x083 (some (inc 0x0A)) c (s.reg 0x3840_18 c)
    let x1 : Ctx := { x with
      transfer := none, failedIn := x.window.map fun w => w.2.1
      deferred := if t.retry then x.deferred else (t.gen, true) :: x.deferred }
    if held then s1.setCtx c x1
    else
      (s1.setCtx c { x1 with uncertain := (t.frame + s.reg 0x3840_0B c, none) :: x.uncertain }).record
        0x083 (some (inc 0x0C)) c (s.reg 0x3840_18 c)

/-- The exposure transfer that runs has completed: its generation is in effect from k + D (R205). -/
def State.exposureDone (s : State) (c : Nat) : State :=
  let x := s.ctx c
  match x.transfer with
  | none => s
  | some t =>
    let from' := t.frame + s.reg 0x3840_0B c
    let closed := x.uncertain.map fun r => match r.2 with | none => (r.1, some from') | some b => (r.1, some b)
    let unc := if t.during then (from', some (from' + 1)) :: closed else closed
    let s1 := s.setCtx c { x with transfer := none, effects := (from', t.gen) :: x.effects, uncertain := unc }
    if s1.windowOpen c then s1.startExposure c else s1

/-! ### Frames (R184-R190) -/

/-- The address of a staging slot of a camera source: its statistics ring stands first, then the staging ring (R186, R201). -/
def stagingBase (x : Source) (slotBytes slot : Nat) : Nat :=
  x.ringBase + 4 * 8192 + slot * slotBytes

/-- The staging slots of a context that a frame occupies: waiting, or read by a pipeline (R186). -/
def State.stagingTaken (s : State) (c : Nat) : List Nat :=
  (s.ctx c).waiting.map (·.slot) ++
    s.pipes.filterMap fun p => match p.2.frame with
      | some f => if f.ctx = c then some f.slot else none
      | none => none

/-- A staging slot for a new frame: a free one, or that of the oldest waiting frame, which is superseded (R186). -/
def State.takeStaging (s : State) (c : Nat) : Option Nat × State :=
  let taken := s.stagingTaken c
  match [0, 1].find? fun k => !taken.contains k with
  | some k => (some k, s)
  | none =>
    let x := s.ctx c
    match x.waiting with
    | [] => (none, s.dropCamera c (s.reg 0x3840_18 c) (inc 0x06))
    | f :: rest => (some f.slot, (s.setCtx c { x with waiting := rest }).dropCamera c f.seq (inc 0x06))

/-- The frame in progress of a context ends and waits for a pipeline, oldest first (R187, R190). -/
def State.endCamera (s : State) (c : Nat) : State :=
  match (s.ctx c).cur with
  | none => s
  | some f =>
    let r := if f.lines.length < f.isp.height then s.markCamera f 0 else (s, f)
    let s1 := r.1.setReg 0x3840_1D c r.2.marks
    let x := s1.ctx c
    let port := s1.reg 0x3840_03 c
    let s2 := s1.setCtx c { x with cur := none, waiting := x.waiting ++ [{ r.2 with ended := s1.now }] }
    if r.2.marks = 0 then s2.setCamPort port { s2.camPort port with unmarked := true } else s2

/-- The origin stamp of a frame whose Frame Start arrives now (R185). -/
def State.stampCamera (s : State) (c seq : Nat) : Nat :=
  let x := s.ctx c
  let fixed := s.regI 0x3840_09 c 32
  let half : Int :=
    if s.flag 0x3840_0A c then
      let e := if x.isCertain (s.reg 0x3840_0B c) seq then s.exposureNs c (x.inEffect seq) else s.reg 0x3860_03 c
      ((e + 1) / 2 : Nat)
    else 0
  ofSigned 64 ((s.wall : Int) - (fixed + half))

/-- Whether a Frame Start comes less than 98 % of the declared period after the last accepted one (R84). -/
def Ctx.tooSoon (x : Ctx) (now rate : Nat) : Bool :=
  match x.lastAcceptedFs with
  | some t => (now - t) * rate < 98 * second
  | none => false

/-- Whether an entry is a loop target, which waits for the loop's next step and not for a Frame Start (R207). -/
def loopTarget (key : Nat) : Bool := key == 0x3860_02

/-- The committed fields of a context take effect at its Frame Start; a manual exposure is issued, once the firmware runs
(R28, R109, R207). -/
def State.contextBoundary (s : State) (c : Nat) : State :=
  let mine := fun key inst => !loopTarget key &&
    ((key / 256 == 0x3840 && inst == c) || (key / 256 == 0x3850 && inst == c) || (key / 256 == 0x3860 && inst == c) ||
      (key / 256 == 0x3870 && inst / 8 == c))
  let manual := (s.dueFields mine).any fun f => [0x3860_01, 0x3860_05, 0x3860_06].contains f.key
  let s1 := s.applyDue mine
  let x := s1.ctx c
  if !manual && !x.owed then s1
  else if s1.managed then (s1.setCtx c { x with owed := false }).issueManual c
  else s1.setCtx c { x with owed := true }

/-- The parameter set and tables of a context now (R190, R193, R194). -/
def State.ispSet (s : State) (c : Nat) : IspSet :=
  let m := s.reg 0x3860_08 c
  let manual := s.reg 0x3860_07 c == 1
  { width := s.reg 0x3840_06 c, height := s.reg 0x3840_07 c, dataType := s.reg 0x3840_05 c, order := s.reg 0x3840_08 c
    display := s.reg 0x3840_0E c, decimation := s.reg 0x3840_0F c
    coding := s.reg 0x3840_10 c, codingScale := s.reg 0x3840_11 c, codingSlot := s.reg 0x3840_12 c
    vision := s.reg 0x3840_13 c, visionScale := s.reg 0x3840_14 c, visionSlot := s.reg 0x3840_15 c
    black := s.reg 0x3850_01 c, dynamic := s.flag 0x3850_02 c, matrix := s.blob 0x3850_03 c
    noise := s.reg 0x3850_04 c, sharp := s.reg 0x3850_05 c
    gains := if manual then (bits m 47 32, bits m 31 16, bits m 15 0) else (s.ctx c).wb
    shading := s.blob 0x3870_02 (8 * c), tone := s.blob 0x3870_02 (8 * c + 1), defects := s.blob 0x3870_02 (8 * c + 2)
    aeManual := s.reg 0x3860_01 c == 1, awbManual := manual }

/-- The slots that a context's frames fill: its display source's, and those of the outputs that are on (R195, R198). -/
def IspSet.slots (q : IspSet) (display : Nat) : List Nat :=
  display :: ((if q.coding = 0 then [] else [q.codingSlot]) ++ (if q.vision = 0 then [] else [q.visionSlot]))

/-- A Frame Start of a context (R50, R84, R184-R187, R190). -/
def State.startCamera (s : State) (c : Nat) : State :=
  let s0 := (s.endCamera c).contextBoundary c
  let seq := (s0.reg 0x3840_18 c + 1) % 2 ^ 32
  let s1 := (s0.setReg 0x3840_18 c seq).countFrame (28 + s0.reg 0x3840_03 c / 4)
  let x := s1.ctx c
  let x1 : Ctx := { x with
    lastFs := some s1.now
    period := match x.lastFs with | some t => some (s1.now - t) | none => x.period
    transfer := match x.transfer with | some t => some { t with during := true } | none => none
    dropped := some s1.now }
  let s2 := s1.setCtx c (x1.forget seq (s1.reg 0x3860_0A c))
  match s2.displayOf c with
  | none => s2
  | some (slot, src) =>
    if x1.tooSoon s2.now src.rate then s2.dropCamera c seq (inc 0x05)
    else
      let k := s2.takeStaging c
      match k.1 with
      | none => k.2
      | some i =>
        let q := k.2.ispSet c
        let s3 := (q.slots slot).foldl State.applyFrozen k.2
        let y := s3.ctx c
        let g := y.inEffect seq
        let f : CamFrame := {
          ctx := c, seq := seq, slot := i, origin := s3.stampCamera c seq, unlocked := s3.timeState == 2
          era := s3.reg 0x4800_07, generation := g, certain := y.isCertain (s3.reg 0x3840_0B c) seq
          setting := y.issued g, exposure := s3.exposureNs c g, lastPacket := s3.now, isp := q
          fill := s3.reg 0x3840_16 c, policy := s3.reg 0x3840_1E c, checked := (q.slots slot).filter s3.frozenOn }
        s3.setCtx c { y with cur := some f, dropped := none, lastAcceptedFs := some s3.now }

/-- The bytes that a line leaves in the raw staging ring (R179, R186). -/
def stagedLine (dt : Nat) (payload : Bytes) (pixels : Nat) : Bytes :=
  if [0x2B, 0x2C, 0x2D].contains dt then (List.range (2 * pixels)).map (Config.stagedByte dt payload)
  else payload.take (pixels * stagingBytes dt)

/-- An image line of a context's frame in progress (R186, R187). -/
def State.takeLine (s : State) (c : Nat) (f : CamFrame) (payload : Bytes) (crcOk : Bool) : State :=
  let w := f.isp.width
  let dt := f.isp.dataType
  let f0 : CamFrame := { f with crc := crc32cRun f.crc payload, lastPacket := s.now }
  let r1 := if crcOk then (s, f0) else s.markCamera f0 3
  let r2 := if payload.length * 8 = w * bitsPerPixel dt then r1 else r1.1.markCamera r1.2 2
  if f.isp.height ≤ f.lines.length then
    let r3 := r2.1.markCamera r2.2 1
    r3.1.setCtx c { r3.1.ctx c with cur := some r3.2 }
  else
    let kept := payload.take (w * bitsPerPixel dt / 8)
    let y := f.lines.length
    let s3 := match s.displayOf c with
      | some (_, src) =>
        r2.1.store (stagingBase src (s.rawSlot c) f.slot + y * w * stagingBytes dt) (stagedLine dt kept (wholePixels dt kept.length))
      | none => r2.1
    s3.setCtx c { s3.ctx c with cur := some { r2.2 with lines := kept :: r2.2.lines } }

/-- A long packet for one context of its virtual channel: an image line or embedded data, or it is not the context's
(R178, R179). A frame that was not accepted takes its packets and keeps nothing of them. The content check leaves out
embedded data, which is no part of the image (R50; DEDUCED, log entry 132). -/
def State.packetFor (s : State) (dt : Nat) (payload : Bytes) (crcOk : Bool) (c : Nat) : Option State :=
  match (s.ctx c).cur with
  | none =>
    if (s.ctx c).dropped.isSome && (dt = 0x12 || dt = s.reg 0x3840_05 c) then
      some (s.setCtx c { s.ctx c with dropped := some s.now })
    else none
  | some f =>
    if dt = 0x12 then
      let s1 := if crcOk then s else s.markCurrent 3 c
      let x := s1.ctx c
      some (s1.setCtx c { x with cur := x.cur.map fun f =>
        { f with embedded := (f.embedded ++ payload).take 256, lastPacket := s1.now } })
    else if dt = f.isp.dataType then some (s.takeLine c f payload crcOk)
    else none

/-! ### Statistics (R201, R202) -/

/-- The statistics block of a bound frame with its measurements: bytes 36 to 39 and 64 to 4,927 (R201). -/
def CamFrame.statBlock (f : CamFrame) (valid : Bool) (measured : Bytes × Bytes) : Bytes :=
  let b := fun (x : Bool) (i : Nat) => if x then 2 ^ i else 0
  let flags := b valid 0 + b (f.marks != 0) 1 + b (!f.certain) 2 + b f.isp.aeManual 3 + b f.isp.awbManual 4
  let gain := fun (g : ExpGen → Nat) => match f.setting with | some e => g e | none => 0
  let body := beBytes 4 0x44515354 ++ beBytes 2 1 ++ beBytes 1 f.ctx ++ beBytes 1 flags ++ beBytes 4 f.seq ++
    beBytes 4 f.generation ++ beBytes 8 f.origin ++ beBytes 4 f.exposure ++ beBytes 2 (gain (·.analogue)) ++
    beBytes 2 (gain (·.digital)) ++ beBytes 1 f.marks ++ [0] ++ beBytes 2 f.embedded.length ++ measured.1 ++
    List.replicate 24 0 ++ measured.2 ++ f.embedded ++ List.replicate (256 - f.embedded.length) 0 ++
    List.replicate 3004 0
  body ++ beBytes 4 (crc32c body)

/-- What the block of a frame that was abandoned holds as measurements, which no rule says (log entry 8). -/
def CamFrame.unmeasured (f : CamFrame) : Bytes × Bytes :=
  let free := fun (lo n : Nat) => (List.range n).map fun i => Config.statByte f.ctx f.seq (lo + i)
  (free 36 4, free 64 4864)

/-- Write a frame's statistics block into its ring and L:3840.1A (R201). -/
def State.writeStats (s : State) (f : CamFrame) (valid : Bool) (measured : Bytes × Bytes) : State :=
  let blk := f.statBlock valid measured
  let s1 := (s.store (s.reg 0x3840_1F f.ctx + 8192 * (f.seq % 4)) blk).setBlob 0x3840_1A f.ctx blk
  s1.setCtx f.ctx { s1.ctx f.ctx with stats := some (f.generation, valid, f.certain, f.seq), balance := valid }

/-! ### Pipelines (R190-R192, R198) -/

/-- Whether one waiting frame ended before another, the lower context first in a tie (R190). -/
def CamFrame.endedBefore (a b : CamFrame) : Bool := a.ended < b.ended || (a.ended == b.ended && a.ctx < b.ctx)

/-- Whether a write of a frame into its staging slot still waits for its grant (R300). -/
def State.stagingWaits (s : State) (f : CamFrame) : Bool :=
  match s.displayOf f.ctx with
  | some (_, x) => s.writeWaits (28 + s.reg 0x3840_03 f.ctx / 4) (stagingBase x (s.rawSlot f.ctx) f.slot) (s.rawSlot f.ctx)
  | none => false

/-- The waiting frame that a free pipeline takes (R190), once it has been written whole (R300). -/
def State.nextWaiting (s : State) : Option CamFrame :=
  (sortBy CamFrame.endedBefore (((List.range 32).filterMap fun c => (s.ctx c).waiting.head?).filter fun f =>
    !s.stagingWaits f)).head?

/-- Take an Ingot of a slot for a frame's output, with the frame's origin record and sequence (R190, R198). -/
def State.takeOutput (s : State) (f : CamFrame) (slot : Nat) : Option Nat × State :=
  let t := s.takeFree slot .isp
  match t.1 with
  | none => (none, t.2)
  | some i =>
    (some i, t.2.setIngot i { t.2.ingot i with
      origin := f.origin, era := f.era, unlocked := f.unlocked, seq := f.seq, marks := f.marks
      counted := f.checked.contains slot })

/-- The frame of a pipeline is abandoned with its Ingots; its statistics are written as not valid if that write is served
(R192). -/
def State.abandonPipe (s : State) (k : Nat) (code : Code) (served : Bool) : State :=
  let p := s.pipe k
  match p.frame with
  | none => s
  | some f =>
    let s1 := [p.display, p.coding, p.vision].foldl (fun t o => match o with | some i => t.abandon i | none => t) s
    let s2 := s1.setPipe k {}
    (if served && !p.statsLost then s2.writeStats f false f.unmeasured else s2).dropCamera f.ctx f.seq code

/-- A pipeline binds a frame: one Free Ingot of each enabled output, or the frame is abandoned (R190, R192). -/
def State.bindPipe (s : State) (k : Nat) (f : CamFrame) : State :=
  let c := f.ctx
  let x := s.ctx c
  let s0 := (s.setCtx c { x with waiting := x.waiting.filter fun g => g.seq != f.seq }).countFrame (32 + k)
  let q := f.isp
  let d := match s0.displayOf c with
    | some (slot, _) => s0.takeOutput f slot
    | none => (none, s0)
  let co := if q.coding = 0 then (none, d.2) else d.2.takeOutput f q.codingSlot
  let vi := if q.vision = 0 then (none, co.2) else co.2.takeOutput f q.visionSlot
  let s1 := vi.2.setPipe k { frame := some f, display := d.1, coding := co.1, vision := vi.1 }
  let missing := d.1.isNone || (q.coding != 0 && co.1.isNone) || (q.vision != 0 && vi.1.isNone)
  if missing then s1.abandonPipe k (inc 0x07) true else s1

/-- An output's Ingot receives its content and is published, or abandoned where the marks may not be shown (R189, R195). -/
def State.finishOutput (s : State) (allowed : Bool) (o : Option Nat) (check : Nat) (content : Bytes) : State :=
  match o with
  | none => s
  | some i =>
    let g := s.ingot i
    if g.st != .filling || g.filler != .isp then s
    else
      let s1 := s.store g.base content
      if allowed then (s1.setIngot i { g with check := if g.counted then check else 0 }).publish i else s1.abandon i

/-- A pipeline finishes its frame: outputs, publication, and its statistics unless their write was refused (R189, R191,
R192, R195-R198, R201). The content check of
coding and vision frames covers their samples without the padding of their lines, as R50 has it of a host source's. -/
def State.finishPipe (s : State) (k : Nat) : State :=
  let p := s.pipe k
  match p.frame with
  | none => s
  | some f =>
    let allowed := Nat.land f.marks (15 - f.policy % 16) = 0
    let taps := f.taps
    let img := f.image taps
    let s1 := s.setPipe k {}
    let s2 := s1.finishOutput allowed p.display (Nat.xor f.crc 0xFFFFFFFF) (f.display img)
    let s3 := s2.finishOutput allowed p.coding (crc32c (f.coding img 1)) (f.coding img 64)
    let s4 := s3.finishOutput allowed p.vision (crc32c (f.vision img 1)) (f.vision img 64)
    let s5 := if allowed then s4.setReg 0x3840_19 f.ctx f.generation else s4
    if p.statsLost then s5 else s5.writeStats f (f.marks == 0) (f.measured taps)

/-! ### The loops (R207) -/

/-- The mean of a block's histogram on the 10-bit scale; none where it counts nothing (DEDUCED, log entry 33). -/
def histogramMean (blk : Bytes) : Option (Nat × Nat) :=
  let ns := (List.range 256).map fun k => (k, field blk (64 + 4 * k) 4)
  let total := ns.foldl (fun acc x => acc + x.2) 0
  if total = 0 then none else some (4 * ns.foldl (fun acc x => acc + x.1 * x.2) 0, total)

/-- One step of the exposure loop from a block (R207): the product of exposure and gains is scaled toward the target by at
most the step limit; exposure takes it first, then analogue gain, then digital gain. -/
def State.aeStep (s : State) (c : Nat) (e : ExpGen) (blk : Bytes) : State :=
  match histogramMean blk with
  | none => s
  | some (sum, n) =>
    let f := s.reg 0x3860_09 c
    let num := s.reg 0x3860_02 c * n
    let r : Nat × Nat := if sum * f ≤ num then (f, 1) else if num * f ≤ sum then (1, f) else (num, sum)
    let line := lineTime (s.profile c)
    let want := e.lines * line * e.analogue * e.digital * r.1
    let l := s.roundFree want (line * 65536 * r.2)
    let lines := max 1 (min l.1 (s.reg 0x3860_03 c * 1000 / line))
    let a := l.2.roundFree want (lines * line * 256 * r.2)
    let analogue := max 256 (min a.1 (s.reg 0x3860_04 c))
    let d := a.2.roundFree want (lines * line * analogue * r.2)
    d.2.issueExposure c lines analogue (max 256 (min d.1 65535))

/-- The sums of R, G and B over the zones of a block whose mean G lies from 5 % to 90 % of full scale (R202, R207);
`perCount` sites of G count for one. -/
def awbSums (blk : Bytes) (perCount : Nat) : Nat × Nat × Nat :=
  (List.range 192).foldl (fun acc k =>
    let o := 1088 + 16 * k
    let g := field blk (o + 4) 4
    let full := field blk (o + 12) 4 * perCount * 1023
    if full != 0 && 5 * full ≤ 100 * g && 100 * g ≤ 90 * full then
      (acc.1 + field blk o 4, acc.2.1 + g, acc.2.2 + field blk (o + 8) 4)
    else acc) (0, 0, 0)

/-- A gain moved toward another by at most 1/8 (R207). -/
def towardGain (g want : Nat) : Nat := max (g - g / 8) (min want (g + g / 8))

/-- One step of the white-balance loop from a block (R207). -/
def State.awbStep (s : State) (c : Nat) (blk : Bytes) : State :=
  let perCount := if [0x24, 0x1E].contains (s.reg 0x3840_05 c) then 1 else 2
  let z := awbSums blk perCount
  if z.1 = 0 || z.2.1 = 0 || z.2.2 = 0 then s
  else
    let x := s.ctx c
    let r := s.roundFree (x.wb.2.1 * z.2.1) z.1
    let b := r.2.roundFree (x.wb.2.1 * z.2.1) z.2.2
    b.2.setCtx c { b.2.ctx c with wb := (towardGain x.wb.1 r.1, x.wb.2.1, towardGain x.wb.2.2 b.1) }

/-! ### Temper tables and profiles (R194, R203) -/

/-- Whether a Temper BLOB is well formed for a kind (R194). -/
def temperFormed (kind : Nat) (b : Bytes) : Bool :=
  let want := if kind = 0 then 1780 else if kind = 1 then 526 else 14 + 4 * field b 8 2
  field b 0 4 == 0x44515454 && field b 4 2 == 1 && field b 6 1 == kind && field b 7 1 == 0 && b.length == want &&
    crcTailOk b

/-- Whether the values of a Temper BLOB lie in their ranges, for a context of w × h (R194). -/
def temperInRange (kind w h : Nat) (b : Bytes) : Bool :=
  if kind = 0 then (List.range 884).all fun i => 2048 ≤ field b (8 + 2 * i) 2 && field b (8 + 2 * i) 2 ≤ 32767
  else if kind = 1 then
    (List.range 257).all (fun i => field b (8 + 2 * i) 2 ≤ 1023) &&
      (List.range 256).all fun i => field b (8 + 2 * i) 2 ≤ field b (10 + 2 * i) 2
  else
    let n := field b 8 2
    let pos := fun i => field b (12 + 4 * i) 2 * 65536 + field b (10 + 4 * i) 2
    n ≤ 1024 && (List.range n).all (fun i => field b (10 + 4 * i) 2 < w && field b (12 + 4 * i) 2 < h) &&
      (List.range (n - 1)).all fun i => pos i < pos (i + 1)

/-- A write of L:3870.02 (R194). -/
def temperOp : WriteOp := fun s _ inst v =>
  let kind := inst % 8
  let c := inst / 8
  if !temperFormed kind v.b then (s, .no (inc 0x0D))
  else if !temperInRange kind (s.reg 0x3840_06 c) (s.reg 0x3840_07 c) v.b then (s, .no (inc 0x0E))
  else (s.setShadow 0x3870_02 inst v, .ok)

/-- A write of L:3840.0D (R203). -/
def profileOp : WriteOp := fun s _ c v =>
  if profileOk v.b then (s.setShadow 0x3840_0D c v, .ok) else (s, .no (inc 0x11))

/-! ### The control bus (R208) -/

/-- The profile of the lowest enabled context of a port. -/
def State.portProfile (s : State) (port : Nat) : Option Bytes :=
  ((s.portContexts port).head?.map s.profile).filter fun b => !b.isEmpty

/-- Whether a host transfer's bytes are well formed (R208). -/
def hostTransferOk (b : Bytes) : Bool :=
  field b 0 1 ≤ 1 && 1 ≤ field b 1 1 && field b 1 1 ≤ 64 && field b 2 1 ≤ 64 && field b 3 1 == 0 &&
    b.length == 4 + field b 1 1

/-- A write of L:3800.0B; one that is malformed or finds another pending is refused as well (R208; DEDUCED, log entry
34). -/
def hostTransferOp : WriteOp := fun s _ port v =>
  let p := s.camPort port
  match s.portProfile port with
  | none => (s.setReg 0x3800_0C port 5, .no (inc 0x0F))
  | some b =>
    if !s.flag 0x3800_02 port || !hostTransferOk v.b || p.xfer.isSome then
      (s.setReg 0x3800_0C port 5, .no (inc 0x0F))
    else
      let x : BusXfer := {
        write := v.b.drop 4, read := if field v.b 0 1 = 1 then field v.b 2 1 else 0, address := field b 6 1
        since := s.now }
      ((s.setCamPort port { p with xfer := some x }).setReg 0x3800_0C port 1, .ok)

/-- How long a host transfer takes at most, in ns. -/
def State.hostTime (s : State) (port : Nat) (x : BusXfer) : Nat :=
  (9 * (1 + x.write.length) + 2 + (if x.read = 0 then 0 else 9 * (1 + x.read) + 2)) * 1000000 / s.reg 0x3800_06 port

/-- Whether a host transfer may start: no exposure window of the port is open, and it ends 200 µs before the next
expected Frame End (R208). -/
def State.hostMayStart (s : State) (port : Nat) (x : BusXfer) : Bool :=
  (s.portContexts port).all fun c =>
    let y := s.ctx c
    !s.windowOpen c && y.transfer.isNone &&
    (match y.window, y.period with
      | some (fe, _, _), some p => s.now + s.hostTime port x + 200000 ≤ fe + p || fe + p < s.now
      | _, _ => true)

/-- A host transfer ends with a result. -/
def State.endHost (s : State) (port result : Nat) : State :=
  (s.setCamPort port { s.camPort port with xfer := none }).setReg 0x3800_0C port result

/-! ### The commands -/

/-- FRAME_START_PACKET (R84, R180, R181, R184-R187). -/
def execFrameStartPacket (port : Fin 16) (header : ShortHeader) (s : State) : Out :=
  whenLive s fun s => s.onPacket port header.vc header.ecc fun s =>
    let cs := s.contextsOn port header.vc
    if cs.isEmpty then s.stray port header.vc
    else
      let s1 := s.setCamPort port { s.camPort port with lastFs := some s.now }
      let s2 := if [1, 3].contains (s1.reg 0x3800_07 port) then s1.setCamState port 2 else s1
      cs.foldl State.startCamera s2

/-- LONG_PACKET (R178, R181, R187). -/
def execLongPacket (port : Fin 16) (vc : Fin 16) (dataType : BitVec 6) (payload : Bytes) (headerEcc : Fin 3)
    (crcOk : Bool) (s : State) : Out :=
  whenLive s fun s => s.onPacket port vc headerEcc fun s =>
    let s1 := if crcOk then s else s.bump 0x3808_04 (channelInst port vc)
    let r := (s1.contextsOn port vc).foldl (fun (acc : State × Bool) c =>
      match acc.1.packetFor dataType.toNat payload crcOk c with
      | some t => (t, true)
      | none => acc) (s1, false)
    if r.2 then r.1 else s1.stray port vc

/-- A Frame End of a context: its frame ends, its exposure window opens, and the setting that waits is transferred, which
is the firmware's work (R28, R187, R204). -/
def State.frameEnd (s : State) (c : Nat) : State :=
  let s1 := s.endCamera c
  let s2 := s1.setCtx c { s1.ctx c with
    dropped := none, window := some (s1.now, s1.reg 0x3840_18 c, s1.windowCloses c) }
  if s2.managed then s2.startExposure c else s2

/-- Whether a frame of a context is in progress, accepted or not. -/
def State.inFrame (s : State) (c : Nat) : Bool := (s.ctx c).cur.isSome || (s.ctx c).dropped.isSome

/-- FRAME_END_PACKET (R178, R181, R187, R190, R204): outside a frame it is stray. -/
def execFrameEndPacket (port : Fin 16) (header : ShortHeader) (s : State) : Out :=
  whenLive s fun s => s.onPacket port header.vc header.ecc fun s =>
    let cs := (s.contextsOn port header.vc).filter s.inFrame
    if cs.isEmpty then s.stray port header.vc else cs.foldl State.frameEnd s

/-- LINE_GAP_TIMEOUT (R187). -/
def execLineGapTimeout (ctx : Fin 32) (s : State) : Out :=
  whenLive s fun s =>
    match (s.ctx ctx).cur with
    | some f => if f.lastPacket + s.reg 0x3840_17 ctx * 1000 ≤ s.now then s.endCamera ctx else s
    | none =>
      match (s.ctx ctx).dropped with
      | some t =>
        if t + s.reg 0x3840_17 ctx * 1000 ≤ s.now then s.setCtx ctx { s.ctx ctx with dropped := none } else s
      | none => s

/-- SIGNAL_ABSENT_TIMEOUT (R180). -/
def execSignalAbsentTimeout (port : Fin 16) (s : State) : Out :=
  whenLive s fun s =>
    let p := s.camPort port
    let since := p.lastFs.getD p.enabledAt
    if [1, 2].contains (s.reg 0x3800_07 port) && decide (since + s.reg 0x3800_08 port * milli ≤ s.now) then
      s.setCamState port 3
    else s

/-- PORT_FAULT_SECOND (R180): the end of a second with a number of start-of-transmission errors. -/
def execPortFaultSecond (port : Fin 16) (sotErrors : Nat) (s : State) : Out :=
  whenLive s fun s =>
    if s.reg 0x3800_07 port = 0 then s
    else
      let p := s.camPort port
      let n := sotErrors + p.errors
      let s1 := (s.bumpBy 0x3800_0A port sotErrors).setCamPort port { p with errors := 0, unmarked := false }
      let limit := s1.reg 0x3800_09 port
      if limit < n then s1.setCamState port 4
      else if s1.reg 0x3800_07 port = 4 && decide (n < limit) && p.unmarked then s1.setCamState port 2
      else s1

/-- PIPELINE_BIND (R190). -/
def execPipelineBind (s : State) : Out :=
  whenLive s fun s =>
    match s.pipelines.find? fun k => (s.pipe k).frame.isNone with
    | none => s
    | some k =>
      match s.nextWaiting with
      | some f => s.bindPipe k f
      | none => s

/-- PIPELINE_FRAME_DONE (R191, R192, R300): once none of its requests waits for a grant; where the writes were refused, whether
that of the statistics was served is a free value. -/
def execPipelineFrameDone (pipe : Fin 4) (writes : MemEnd) (s : State) : Out :=
  whenLive s fun s =>
    if s.classBWaits (32 + pipe) then s
    else match writes with
    | .ok | .corrected => s.finishPipe pipe
    | _ =>
      let d := s.draw
      d.2.abandonPipe pipe (inc 0x07) (d.1 % 2 == 0)

/-- AE_STEP (R207): the loop target that waits applies, and the loop acts only on a block that is valid, certain and of the
last generation issued. -/
def execAeStep (ctx : Fin 32) (s : State) : Out :=
  whenManaged s fun s =>
    let s := s.applyDue fun key inst => loopTarget key && inst == ctx.val
    let x := s.ctx ctx
    match x.stats with
    | some (g, valid, certain, _) =>
      let s1 := s.setCtx ctx { x with stats := none }
      match x.issued g with
      | some e =>
        if s1.flag 0x3840_02 ctx && valid && certain && g = s1.reg 0x3860_0A ctx && s1.reg 0x3860_01 ctx = 0 then
          s1.aeStep ctx e (s1.blob 0x3840_1A ctx)
        else s1
      | none => s1
    | none => s

/-- AWB_STEP (R207): one step on each valid block, so that no gain changes by more than 1/8 per frame. -/
def execAwbStep (ctx : Fin 32) (s : State) : Out :=
  whenManaged s fun s =>
    let x := s.ctx ctx
    if s.flag 0x3840_02 ctx && s.reg 0x3860_07 ctx = 0 && x.balance then
      (s.setCtx ctx { x with balance := false }).awbStep ctx (s.blob 0x3840_1A ctx)
    else s

/-- EXPOSURE_TRANSFER_DONE (R205, R206): `released` says that the release record of a group hold was written. -/
def execExposureTransferDone (ctx : Fin 32) (result : BusEnd) (released : Bool) (s : State) : Out :=
  whenManaged s fun s =>
    match result with
    | .done => s.exposureDone ctx
    | _ => s.exposureFailed ctx released

/-- CONTROL_BUS_TIMEOUT (R206): the clock line low for more than 10 ms fails the transfer that runs; whether it had
passed its release record is a free value. -/
def execControlBusTimeout (port : Fin 16) (s : State) : Out :=
  whenManaged s fun s =>
    match (s.camPort port).xfer with
    | some x =>
      if x.started then s.endHost port 4
      else (s.portContexts port).foldl (fun t c =>
        let d := t.draw
        if (t.ctx c).transfer.isSome then d.2.exposureFailed c (d.1 % 2 == 1) else t) s
    | none => (s.portContexts port).foldl (fun t c =>
        let d := t.draw
        if (t.ctx c).transfer.isSome then d.2.exposureFailed c (d.1 % 2 == 1) else t) s

/-- HOST_TRANSFER (R208). -/
def execHostTransfer (ss : Nat) (blob : Bytes) (s : State) : Out :=
  whenManaged s fun s => s.ledgerWrite ss 0x3800_0B (.bytes blob) hostTransferOp

/-- HOST_TRANSFER_START (R208). -/
def execHostTransferStart (port : Fin 16) (s : State) : Out :=
  whenManaged s fun s =>
    match (s.camPort port).xfer with
    | some x =>
      if !x.started && s.hostMayStart port x then
        (s.setCamPort port { s.camPort port with xfer := some { x with started := true } }).send
          (.i2c port x.address x.write x.read)
      else s
    | none => s

/-- HOST_TRANSFER_DONE (R208). -/
def execHostTransferDone (port : Fin 16) (acknowledged : Bool) (data : Bytes) (s : State) : Out :=
  whenManaged s fun s =>
    match (s.camPort port).xfer with
    | some x =>
      if !x.started then s
      else if acknowledged then (s.setBlob 0x3800_0D port (data.take x.read)).endHost port 2
      else s.endHost port 3
    | none => s

/-- HOST_TRANSFER_TIMEOUT (R208). -/
def execHostTransferTimeout (port : Fin 16) (s : State) : Out :=
  whenManaged s fun s =>
    match (s.camPort port).xfer with
    | some x => if !x.started && decide (x.since + second ≤ s.now) then s.endHost port 4 else s
    | none => s

/-- TEMPER_LOAD (R194). -/
def execTemperLoad (ss : Nat) (blob : Bytes) (s : State) : Out :=
  whenManaged s fun s => s.ledgerWrite ss 0x3870_02 (.bytes blob) temperOp

/-- SENSOR_PROFILE_WRITE (R203). -/
def execSensorProfileWrite (ss : Nat) (blob : Bytes) (s : State) : Out :=
  whenManaged s fun s => s.ledgerWrite ss 0x3840_0D (.bytes blob) profileOp

end Sys2Proof.Machine
end

