-- ==== Sys2Proof/Machine/Keys.lean ====
section
/-! DEFINITION. Capacitive console keys (R357-R376): the evaluation of a measurement gate, wet groups, baselines and
their saves in the non-volatile store, the scan rate, and the key event queue. -/

namespace Sys2Proof.Machine

set_option Elab.async false

/-! ### The non-volatile store (R425) -/

/-- Whether copy A of the store is in force: the valid one of the higher generation (R425). -/
def State.nvIsA (s : State) : Bool := s.nvA.valid && (!s.nvB.valid || s.nvB.generation ≤ s.nvA.generation)

/-- The copy of the store in force; with none valid the store is empty (DESIGN CHOICE, log entry 152). -/
def State.nv (s : State) : NvCopy := if s.nvIsA then s.nvA else if s.nvB.valid then s.nvB else {}

/-- The copy that is not in force holds something new. -/
def State.setSpareNv (s : State) (n : NvCopy) : State := if s.nvIsA then { s with nvB := n } else { s with nvA := n }

/-- The copy that is not in force. -/
def State.spareNv (s : State) : NvCopy := if s.nvIsA then s.nvB else s.nvA

/-- A write of the whole store into the copy not in force, which is then current; one that fails, its retry too, or is cut leaves the
previous copy in force and the other not valid; the failed one is refused, with E-0x113 (R425). -/
def State.writeNv (s : State) (e : StoreEnd) (key : Nat) (f : NvCopy → NvCopy) : State × Option Code :=
  let n := f s.nv
  let cut := s.setSpareNv { s.spareNv with valid := false }
  match e with
  | .failed => ((cut.setReg 0x6800_08 0 3).record 0x113 (some (lg 0x0F)) 0 key true, some (lg 0x0F))
  | .powerLost => (cut, none)
  | .done | .retried =>
    ((s.setSpareNv { n with generation := s.nv.generation + 1, valid := true }).setReg 0x6800_08 0
      (if n.saved.isSome then 1 else 0), none)

/-! ### Gating and the scan rate (R360, R361, R372) -/

/-- The gating output, L:5C00.02, if one is named. -/
def State.gatingOutput (s : State) : Option Nat := if s.reg 0x5C00_02 < 32 then some (s.reg 0x5C00_02) else none

/-- Gates that an output's vertical blanking holds (R360). -/
def State.gatesOf (s : State) (o : Nat) : Nat :=
  let tb := (s.linePeriod o).mul (Frac.ofNat (s.vtotal o - s.vactive o))
  min 2 (((tb.sub (Frac.ofNat 10000)).div (Frac.ofNat 260000)).floor).toNat

/-- Gates per blanking in force, L:5C00.0D: 0 while ungated (R360, R361). -/
def State.gatesPerBlanking (s : State) : Nat :=
  match s.gatingOutput with
  | some o => if s.flag 0x3400_02 o && (s.output o).started then s.gatesOf o else 0
  | none => 0

/-- The scan ceiling in Hz: the gating output's frame rate × g, or the front end's own 120 Hz (R360, R361); the range of
L:5C00.04 bounds it. -/
def State.scanCeiling (s : State) : Nat :=
  match s.gatingOutput with
  | some o =>
    let g := s.gatesPerBlanking
    if g = 0 then 120
    else
      let r := (s.frameRate o).mul (Frac.ofNat g)
      let hz := if r.whole || !Config.scanRateUp r.n r.d then r.floor.toNat else r.ceil.toNat
      max 4 (min 120 hz)
  | none => 120

/-- The scan rate in force, L:5C00.04 (R372). -/
def State.scanRate (s : State) : Nat :=
  if s.flag 0x5C00_03 then
    let quiet := s.now - s.keys.lastActive
    min s.scanCeiling
      (if quiet < 2 * second then 120 else if quiet < 30 * second then 60 else if quiet < 300 * second then 15 else 4)
  else s.scanCeiling

/-! ### Active values (R363) -/

/-- The scale of a key's glove preset, in 1/256 (R363). -/
def State.gloveScale (s : State) (k : Nat) : Nat :=
  match s.reg 0x5C10_08 k with
  | 0 => 256
  | 1 => s.reg 0x5C00_09
  | _ => s.reg 0x5C00_0B

/-- The active threshold of a key in counts, L:5C10.13 (R363). -/
def State.keyThreshold (s : State) (k : Nat) : Nat := max 1 ((s.reg 0x5C10_04 k * s.gloveScale k + 128) / 256)

/-- The release level of a key in counts: its active threshold less its active hysteresis (R363). -/
def State.keyRelease (s : State) (k : Nat) : Nat :=
  let ta := s.keyThreshold k
  ta - min ((s.reg 0x5C10_05 k * s.gloveScale k + 128) / 256) (ta - 1)

/-- The active press debounce of a key in scans (R363). -/
def State.keyPress (s : State) (k : Nat) : Nat :=
  s.reg 0x5C10_06 k + (match s.reg 0x5C10_08 k with | 0 => 0 | 1 => s.reg 0x5C00_0A | _ => s.reg 0x5C00_0C)

/-- The state of a key, L:5C10.0C (R365). -/
def State.keyState (s : State) (k : Nat) : Nat := s.reg 0x5C10_0C k

/-- Set the state of a key. -/
def State.setKeyState (s : State) (k st : Nat) : State := s.setReg 0x5C10_0C k st

/-- The signal of a raw reading against a baseline in 1/16 counts (R358). -/
def signalOf (base raw : Nat) : Int := ((base + 8) / 16 : Nat) - (raw : Int)

/-- The signal of a key at the gate evaluated last (R358). -/
def State.keySignal (s : State) (k : Nat) : Int := (s.key k).signal

/-- The signal of a key against a baseline is noted, and shown in L:5C10.0F; one that its 16 bits do not hold shows a free
value there (R358; log entry 167). -/
def State.noteSignal (s : State) (k base raw : Nat) : State :=
  let x := signalOf base raw
  let s1 := s.setKey k { s.key k with signal := x }
  if -32768 ≤ x && x < 32768 then s1.setRegI 0x5C10_0F k 16 x else s1.setReg 0x5C10_0F k (Config.signalShown x).toNat

/-- Number of keys (R357). -/
def keyCount : Nat := 64

/-- The key whose electrode voltage a shield carries; none while it is driven low (R359). -/
def State.shieldKey (s : State) (k : Nat) : Option Nat :=
  let r := s.reg 0x5C18_02 k
  if r < keyCount && s.flag 0x5C10_02 r && s.keyState r != 6 then some r else none

/-- The keys Touched, L:5C20.01 (R374). -/
def State.touchedKeys (s : State) : Nat :=
  (List.range keyCount).foldl (fun acc k => if s.keyState k = 2 then acc + 2 ^ k else acc) 0

/-! ### Reports (R374) -/

/-- Queue a key event record; one that finds the queue full is discarded and counted. The vector is raised as the queue
fills from empty (R374; log entry 36). -/
def State.queueKey (s : State) (k kind reason : Nat) : State :=
  if 64 ≤ s.keys.queue.length then
    (s.bump 0x5C20_04).recordLimited second 0x0E3 (some (ky 0x05)) 0xFF s.keys.scan
  else
    let r := beBytes 1 k ++ beBytes 1 kind ++ beBytes 1 reason ++ [0] ++ beBytes 4 s.keys.scan ++ beBytes 8 s.wall
    let s1 : State := { s with keys := { s.keys with queue := s.keys.queue ++ [r] } }
    if s.keys.queue.isEmpty then s1.send (.msix 64) else s1

/-- Remove up to 16 records, oldest first; the vector is raised again while records stay (R374). -/
def State.takeKeyRecords (s : State) : Bytes × State :=
  let left := s.keys.queue.drop 16
  let s1 : State := { s with keys := { s.keys with queue := left } }
  ((s.keys.queue.take 16).flatten, if left.isEmpty then s1 else s1.send (.msix 64))

/-! ### One scan of one key (R364-R370) -/

/-- Forget the counts of a key; the readings at a limit that R358 counts in a row stay counted (DEDUCED, log entry 168). -/
def State.clearCounts (s : State) (k : Nat) : State :=
  s.setKey k { s.key k with press := 0, release := 0, neg := 0, onSince := none }

/-- Fast re-calibration: the baseline is the current reading, and the counts clear (R370). -/
def State.recalibrate (s : State) (k : Nat) : State :=
  ((s.setReg 0x5C10_0E k (s.reg 0x5C10_0D k * 16)).clearCounts k).bump 0x5C10_11 k

/-- A Touched key reports a release with a reason and takes a state (R364-R369). -/
def State.releaseKey (s : State) (k reason st : Nat) : State :=
  ((s.queueKey k 2 reason).clearCounts k).setKeyState k st

/-- Enabled keys of a group (R369). -/
def State.groupKeys (s : State) (g : Nat) : List Nat :=
  (List.range keyCount).filter fun k => s.flag 0x5C10_02 k && s.reg 0x5C10_03 k == g

/-- Whether a key's start-up state is decided. -/
def State.keyDecided (s : State) (k : Nat) : Bool := s.keyState k != 0 && !(s.key k).starting

/-- A key of a wet group is withheld: a Touched one reports a release with reason Wet (R365, R369; log entry 37). -/
def State.withhold (s : State) (k : Nat) : State :=
  match s.keyState k with
  | 1 => (s.clearCounts k).setKeyState k 5
  | 2 => s.releaseKey k 2 5
  | _ => s

/-- The wet condition of a group on a scan (R369). -/
def State.groupScan (s : State) (g : Nat) : State :=
  let ks := s.groupKeys g
  let hot := (ks.filter fun k => s.keyDecided k && decide ((s.keyThreshold k : Int) ≤ s.keySignal k)).length
  let many := s.reg 0x5C08_02 g < hot
  let wet := s.reg 0x5C08_03 g != 0
  let setDry := fun (t : State) (n : Nat) => ({ t with keys := { t.keys with dry := Tbl.put t.keys.dry g n } } : State)
  if wet then
    let n := if many then 0 else Tbl.get 0 s.keys.dry g + 1
    if n < s.reg 0x5C00_0E then ks.foldl State.withhold (setDry s n)
    else
      let s1 := ks.foldl (fun t k => if t.keyState k = 5 then (t.clearCounts k).setKeyState k 1 else t) (setDry s 0)
      ((s1.setReg 0x5C08_03 g 0).record 0x0E2 (some (ky 0x04)) g s.keys.scan).queueKey g 5 0
  else if many then
    let s1 := (setDry (ks.foldl State.withhold s) 0).setReg 0x5C08_03 g 1
    ((s1.bump 0x5C08_04 g).record 0x0E2 (some (ky 0x03)) g s.keys.scan).queueKey g 4 0
  else
    -- a key moved here from a wet group (R366)
    ks.foldl (fun t k => if t.keyState k = 5 then (t.clearCounts k).setKeyState k 1 else t) s

/-- Whether a count toward `n` in a row is complete with one more. -/
def runDone (count n : Nat) : Bool := n ≤ count + 1

/-- Release, and the exits from Covered-at-start and Held-Expired (R364, R367, R368). -/
def State.releaseStep (s : State) (k : Nat) : State :=
  let x := s.key k
  let rd := s.reg 0x5C10_07 k
  let sg := s.keySignal k
  let ta := s.keyThreshold k
  let count := fun (hit : Bool) (done : State → State) =>
    if !hit then s.setKey k { x with release := 0 }
    else if runDone x.release rd then done s
    else s.setKey k { x with release := x.release + 1 }
  match s.keyState k with
  | 2 => count (decide (sg < s.keyRelease k)) fun t => t.releaseKey k 0 1
  | 3 => count (decide (sg < s.keyRelease k)) fun t => (t.recalibrate k).setKeyState k 1
  | 4 => count (decide (sg ≤ -(((ta + 1) / 2 : Nat) : Int))) fun t => (t.recalibrate k).setKeyState k 1
  | _ => s

/-- Maximum-on expiry of a Touched key (R368). -/
def State.expiryStep (s : State) (k : Nat) : State :=
  let limit := s.reg 0x5C10_09 k
  match s.keyState k, (s.key k).onSince with
  | 2, some t =>
    if limit != 0 && t + limit * second ≤ s.now then
      let s1 := ((s.releaseKey k 1 4).setReg 0x5C10_0E k (s.reg 0x5C10_0D k * 16)).bump 0x5C10_12 k
      s1.record 0x0E1 (some (ky 0x02)) k s.keys.scan
    else s
  | _, _ => s

/-- Press of a Released key (R364). -/
def State.pressStep (s : State) (k : Nat) : State :=
  let x := s.key k
  if s.keyState k = 1 then
    if s.keySignal k < s.keyThreshold k then s.setKey k { x with press := 0 }
    else if runDone x.press (s.keyPress k) then
      let s1 := ((s.clearCounts k).setKeyState k 2).queueKey k 1 0
      s1.setKey k { s1.key k with onSince := some s.now }
    else s.setKey k { x with press := x.press + 1 }
  else s

/-- One step of drift: the baseline moves toward the reading by an arithmetic shift (R370). -/
def driftStep (base raw shift : Nat) : Nat := ((base : Int) + ((raw : Int) * 16 - base) / ((2 : Int) ^ shift)).toNat

/-- Baseline handling of a Released or Held-Expired key: drift inside its band, re-calibration after enough scans below
it (R370; log entry 38). -/
def State.baselineStep (s : State) (k : Nat) : State :=
  let st := s.keyState k
  if st = 1 || st = 4 then
    let x := s.key k
    let sg := s.keySignal k
    let margin := s.reg 0x5C10_0A k
    if sg < -(margin : Int) then
      if runDone x.neg (s.reg 0x5C00_06) then (s.recalibrate k).setKeyState k 1
      else s.setKey k { x with neg := x.neg + 1 }
    else
      let s1 := s.setKey k { x with neg := 0 }
      if sg ≤ s.keyRelease k && s.reg 0x5C08_03 (s.reg 0x5C10_03 k) = 0 then
        s1.setReg 0x5C10_0E k (driftStep (s.reg 0x5C10_0E k) (s.reg 0x5C10_0D k) (s.reg 0x5C00_05))
      else s1
  else s

/-- The readings that count toward a channel's fault, or toward its end, at which the baseline is set from the last
(R358). -/
def State.faultStep (s : State) (k : Nat) : State :=
  let x := s.key k
  let raw := s.reg 0x5C10_0D k
  let stuck := raw = 0 || raw = 65535
  if s.keyState k = 6 then
    if stuck then s.setKey k { x with good := 0 }
    else if runDone x.good 8 then
      let s1 := (s.setReg 0x5C10_0E k (raw * 16)).clearCounts k
      (s1.setKey k { s1.key k with edge := 0, good := 0 }).setKeyState k 1
    else s.setKey k { x with good := x.good + 1 }
  else if !stuck then s.setKey k { x with edge := 0 }
  else if runDone x.edge 8 then
    let s1 := (s.clearCounts k).setKeyState k 6
    (s1.setKey k { s1.key k with starting := false, edge := 0, good := 0 }).record 0x0E4 (some (ky 0x08)) k s.keys.scan
  else s.setKey k { x with edge := x.edge + 1 }

/-- The start-up of a key at one of the first four gates after reset (R367): compared with its saved baseline at the
first, and its baseline the mean of the four. -/
def State.startStep (s : State) (k : Nat) : State :=
  let raw := s.reg 0x5C10_0D k
  let saved := s.reg 0x5C10_10 k
  let x := s.key k
  if s.keys.scan = 1 then
    if saved != 0 && decide ((s.keyThreshold k : Int) ≤ signalOf saved raw) then
      let s1 := (s.setReg 0x5C10_0E k saved).noteSignal k saved raw
      ((s1.setKeyState k 3).record 0x0E0 (some (ky 0x01)) k s.keys.scan).queueKey k 3 0
    else
      let s1 := s.setKey k { x with starting := true, sum := raw }
      if saved = 0 then s1.record 0x0E0 (some (ky 0x06)) k s.keys.scan else s1
  else
    let sum := x.sum + raw
    if s.keys.scan < 4 then s.setKey k { x with sum := sum }
    else
      let base := (sum * 16 + 2) / 4
      (((s.setKey k { x with starting := false, sum := 0 }).setReg 0x5C10_0E k base).noteSignal k base raw).setKeyState k 1

/-- A gate begins a key's scan: a key disabled leaves with its release, one enabled takes its baseline from this
reading, and the readings are noted (R357, R358, R365, R366). The first gate after reset starts each anew (R367). -/
def State.readKey (s : State) (k raw : Nat) : State :=
  if !s.flag 0x5C10_02 k then
    if s.keyState k = 0 && !(s.key k).starting then s
    else
      let s1 := if s.keyState k = 2 then s.queueKey k 2 3 else s
      (s1.setKey k {}).setKeyState k 0
  else
    let s1 := s.setReg 0x5C10_0D k raw
    if s.keys.scan = 1 then (((s1.setKeyState k 0).setKey k {}).startStep k).faultStep k
    else if (s.key k).starting then (s1.startStep k).faultStep k
    else
      let s2 := if s.keyState k = 0 then (s1.setReg 0x5C10_0E k (raw * 16)).setKeyState k 1 else s1
      (s2.faultStep k).noteSignal k ((s2.faultStep k).reg 0x5C10_0E k) raw

/-- Steps 2 to 5 of a key's scan; a key that the gate has decided or covered starts with the next (R365). One that step 2
re-calibrates has its baseline from this scan, and no later step counts its former signal (R370). -/
def State.scanKey (s : State) (k : Nat) : State :=
  if !s.keyDecided k then s
  else
    let s1 := s.releaseStep k
    if s.keyState k != 2 && s1.keyState k != s.keyState k then s1
    else ((s1.expiryStep k).pressStep k).baselineStep k

/-- Whether there is activity (R372). -/
def State.keyActivity (s : State) : Bool :=
  (List.range keyCount).any (fun k => s.keyState k == 2 || s.keyState k == 3 || decide (0 < (s.key k).press)) ||
  (List.range 8).any fun g => s.reg 0x5C08_03 g != 0

/-- Note activity now. -/
def State.noteActivity (s : State) : State :=
  if s.keyActivity then { s with keys := { s.keys with lastActive := s.now } } else s

/-- A gating output whose blanking has become too short is recorded (R361). -/
def State.noteGating (s : State) : State :=
  let short := s.flag 0x5C00_01 && match s.gatingOutput with
    | some o => s.flag 0x3400_02 o && s.gatesOf o == 0
    | none => false
  let s1 : State := { s with keys := { s.keys with short := short } }
  if short && !s.keys.short then s1.record 0x0E3 (some (ky 0x07)) 0xFF s1.keys.scan else s1

/-- The committed key fields take effect at the start of a gate (R109, R362). -/
def State.keyBoundary (s : State) : State :=
  (s.applyDue fun key _ => 0x5C00_02 ≤ key && key ≤ 0x5C18_FF).noteGating

/-- Length of a gate in ns, and from the opening of one to that of the next in one blanking (R357, R360). -/
def gateTime : Nat := 250000
def gateSpacing : Nat := 260000

/-- When the gate that closed last opened: with a gating output in force, the latest of its vertical blanking, 10 µs after its
start or after the close of another (R360); else, and for the first four gates after reset, one gate back (R361, R398). -/
def State.gateOpened (s : State) : Option Nat :=
  if s.keys.scan < 4 || s.gatesPerBlanking = 0 then
    if gateTime ≤ s.now then some (s.now - gateTime) else none
  else
    match s.gatingOutput with
    | none => none
    | some o =>
      match s.nextActive o s.wall with
      | none => none
      | some t =>
        let tb := (s.linePeriod o).mul (Frac.ofNat (s.vtotal o - s.vactive o))
        let gone := tb.floor.toNat + 50 - (toSigned 64 (ofSigned 64 ((t : Int) - s.wall))).toNat
        if gone < gateSpacing then none
        else
          let k := min (s.gatesPerBlanking - 1) (gone / gateSpacing - 1)
          some (s.now - min s.now (gone - (10000 + k * gateSpacing)))

/-- The opening of a gate that is due: at or after the instant scheduled for it, and no gate that has been taken (R360, R361,
R372). -/
def State.gateDue (s : State) : Option Nat :=
  match s.gateOpened with
  | none => none
  | some t =>
    let fresh := match s.keys.openAt with | some u => decide (u + gateTime ≤ t) | none => true
    if fresh && s.keys.dueAt ≤ t then some t else none

/-- The gate that follows one which opened at `t` is scheduled: the first four after reset are taken back to back (R398), at
the ceiling of a gating output every gate is, and else they lie 1 ÷ rate apart (R361, R372). -/
def State.scheduleGate (s : State) (t : Nat) : State :=
  let rate := s.scanRate
  let next :=
    if s.keys.scan < 4 then t + gateSpacing
    else if s.gatesPerBlanking != 0 && rate = s.scanCeiling then t
    else
      let period := second / rate
      if s.keys.scan = 4 then t + period else s.keys.dueAt + ((t - s.keys.dueAt) / period + 1) * period
  { s with keys := { s.keys with openAt := some t, dueAt := next } }

/-- The gate's evaluation: readings, then groups, then keys; with every start-up state decided the keys are ready
(R365, R367, R398). -/
def State.gate (s : State) (opened : Nat) (raw : List Nat) : State :=
  let s0 := s.keyBoundary
  let s1 : State := { s0 with keys := { s0.keys with scan := s0.keys.scan + 1 } }
  let s2 := s1.noteActivity
  let s3 := (List.range keyCount).foldl (fun t k => t.readKey k (raw.getD k 0)) s2
  let s4 := (List.range 8).foldl State.groupScan s3
  let s5 := (List.range keyCount).foldl State.scanKey s4
  let s6 := s5.noteActivity.scheduleGate opened
  if (List.range keyCount).all fun k => !(s6.key k).starting then s6.setReady 1 else s6

/-! ### Saves (R371) -/

/-- The baselines that a save takes: those of enabled keys in state 1. -/
def State.baselinesNow (s : State) : Tbl Nat :=
  ((List.range keyCount).filter fun k => s.keyState k == 1).foldl (fun t k => Tbl.put t k (s.reg 0x5C10_0E k)) []

/-- Start a save. -/
def State.startSave (s : State) : State :=
  { s with keys := { s.keys with saving := some s.baselinesNow } }

/-- A write of L:5C00.08 (R371). -/
def saveBaselinesOp : WriteOp := fun s _ _ _ =>
  if s.keys.saving.isSome then (s, .no (ky 0x09)) else (s.startSave, .ok)

/-- One hour in ns. -/
def hour : Nat := 3600 * second

/-! ### The commands -/

/-- SAVE_BASELINES (R371). -/
def execSaveBaselines (ss v : Nat) (s : State) : Out :=
  whenManaged s fun s => s.ledgerWrite ss 0x5C00_08 (.num v) saveBaselinesOp

/-- AUTO_BASELINE_SAVE (R371): every L:5C00.07 hours. -/
def execAutoBaselineSave (s : State) : Out :=
  whenManaged s fun s =>
    let h := s.reg 0x5C00_07
    if h != 0 && s.keys.saving.isNone && decide (s.keys.autoAt + h * hour ≤ s.now) then
      let s1 := s.startSave
      { s1 with keys := { s1.keys with autoAt := s.now } }
    else s

/-- A save ends: its baselines are in the store, or it failed (R371, R425). -/
def State.endSave (s : State) (bs : Tbl Nat) (e : StoreEnd) : State :=
  let s0 : State := { s with keys := { s.keys with saving := none } }
  let r := s0.writeNv e 0x5C10_10 fun n =>
    { n with baselines := bs.foldl (fun t p => Tbl.put t p.1 p.2) n.baselines }
  if r.2.isSome then r.1
  else (bs.foldl (fun t p => t.setReg 0x5C10_10 p.1 p.2) r.1).setReg 0x5C00_0F 0 s.wall

end Sys2Proof.Machine
end

