-- ==== Sys2Proof/Machine/Units.lean ====
section
/-! DEFINITION. Check-value units (R377-R387): control, scans in bursts, Ingot references, completion and errors. -/

namespace Sys2Proof.Machine

set_option Elab.async false

/-- Crucible's first device address and its size (R293). -/
def crucibleBase : Nat := 0x8000000000
/-- Bytes of Crucible (R293). -/
def crucibleSize : Nat := 0x4000000

/-- Whether a scan's range lies in the usable part of one DRAM channel or in Crucible (R379). -/
def State.scanRangeOk (s : State) (a len : Nat) : Bool :=
  (match targetOf a with
    | some t => t < 16 && s.rangeUsable a len
    | none => false) ||
  (crucibleBase ≤ a && a + len ≤ crucibleBase + crucibleSize)

/-- Whether an Ingot is Ready or Scanning. -/
def Ingot.shown (g : Ingot) : Bool := g.st == .ready || g.st == .scanning

/-- Whether a stretch lies inside an Ingot's buffer (R383). -/
def Ingot.holds (g : Ingot) (a len : Nat) : Bool := g.base ≤ a && a + len ≤ g.base + g.size

/-- The final XOR of a unit (R377). -/
def unitXor (u : Nat) : Nat := if u = 3 then 0 else 0xFFFFFFFF

/-- Bytes folded into a unit's running value in ascending order (R377, R378). -/
def foldUnit (u r : Nat) (bs : Bytes) : Nat :=
  if u < 2 then crc32cRun r bs else if u = 2 then crc32Run r bs else crc16Run r bs

/-- The Ingot that a unit's entries name. -/
def State.scanIngot (s : State) (u : Nat) : Option Nat :=
  if s.reg 0x6000_0B u < ingotCount then some (s.reg 0x6000_0B u) else none

/-- A unit leaves running: its reader reference is released (R383). -/
def State.leaveScan (s : State) (u st : Nat) : State :=
  let x := s.scan u
  let s1 := (s.setScan u { x with stopReq := 0 }).setReg 0x6000_07 u st
  match x.ingot with
  | some i => s1.dropRef i (unitReader u)
  | none => s1

/-- A write of L:6000.03, .04, .05 or .0B: locked while the unit runs (R382). -/
def scanFieldOp (key : Nat) : WriteOp := fun s ss u v =>
  if s.reg 0x6000_07 u = 1 then (s, .no (lg 0x05)) else writePlain key s ss u v

/-- Bytes that a unit's next burst brings: up to the end of its range, inside 1 KiB (R291, R380). -/
def Scan.burst (x : Scan) : Nat := min (x.len - x.done) (1024 - (x.start + x.done) % 1024)

/-- The request of that burst: the whole 64-byte beats that its bytes lie in (R291, R380). -/
def Scan.request (x : Scan) : FabReq :=
  let a := x.start + x.done
  { address := a / 64 * 64, beats := ceilDiv' (a % 64 + x.burst) 64, write := false, cls := 2, id := x.done }

/-- A burst of a scan is folded, from the beats that it brought; the last completes it, and a stop asked for acts at its boundary
(R380, R381, R384). -/
def State.foldBurst (s : State) (u : Nat) (beats : Bytes) : State :=
  let x := s.scan u
  let n := x.burst
  let r := foldUnit u (s.reg 0x6000_05 u) (slice beats ((x.start + x.done) % 64) n)
  let done := x.done + n
  let s1 := ((s.setScan u { x with done := done }).setReg 0x6000_05 u r).setReg 0x6000_09 u done
  if x.len ≤ done then
    let s2 := (s1.leaveScan u 3).setReg 0x6000_08 u (Nat.xor r (unitXor u))
    (s2.send (.msix (65 + u))).record 0x0F0 (some (ck 0x01)) u done
  else if x.stopReq = 3 then s1.leaveScan u 2
  else if x.stopReq = 4 then s1.leaveScan u 0
  else s1

/-- A scan ends in error (R385). -/
def State.failScan (s : State) (u : Nat) (c : Code) : State :=
  let s1 := (s.leaveScan u 4).setBlob 0x6000_0A u c.text
  (s1.send (.msix (65 + u))).record 0x0F1 (some c) u (s.scan u).done

/-- The master port of a unit (R294). -/
def unitPort (u : Nat) : Nat := 37 + u

/-- The channel of a device address, if it is DRAM. -/
def channelOf (a : Nat) : Option Nat :=
  match targetOf a with
  | some t => if t < 16 then some t else none
  | none => none

/-- A read at an address was corrected: its channel or bank counts it (R313, R326). -/
def State.noteCorrected (s : State) (a : Nat) : State :=
  match targetOf a with
  | some t => if t < 16 then s.correctedError t else if t < 24 then s.bump 0x5480_04 (t - 16) else s
  | none => s

end Sys2Proof.Machine
end

