-- ==== Sys2Proof/Machine/Domains.lean ====
section
/-! DEFINITION. Power domains (R388-R391, R211, R288, R326): what needs each, and the requests and releases that follow
a change of what is needed. -/

namespace Sys2Proof.Machine

set_option Elab.async false

/-- The state of a domain, L:6400.02: 0 off, 1 powering, 2 on, 3 powering down, 4 fault. -/
def State.domain (s : State) (d : Nat) : Nat := s.reg 0x6400_02 d

/-- Whether any output is enabled. -/
def State.anyOutput (s : State) : Bool := !s.enabledOutputs.isEmpty

/-- Whether an engine serves an enabled output. -/
def State.engineServes (s : State) (e : Nat) : Bool := (s.outputsOf e).any fun o => s.flag 0x3400_02 o

/-- Whether a scan-out cluster is needed (R388): cluster 0 also holds Reserve A, cluster 2 Reserve B. -/
def State.clusterNeeded (s : State) (k : Nat) : Bool :=
  ((k == 0 || k == 2) && s.anyOutput) ||
  (List.range 4).any (fun i => s.engineServes (4 * k + i)) ||
  (List.range 8).any fun i => s.flag 0x3400_02 (8 * k + i)

/-- Whether a lane group is needed: a lane of it is in use, or taken by a DisplayPort port (R153, R211). -/
def State.groupNeeded (s : State) (g : Nat) : Bool :=
  (groupLanes g).any s.laneInUse ||
  (List.range 8).any fun p => p / 3 == g && s.egressInUse [2] p

/-- Whether the Ethernet and time domain is needed (R288, R388). -/
def State.timeNeeded (s : State) : Bool :=
  s.anyOutput || (List.range 16).any (fun p => s.flag 0x3800_02 p) || (List.range 24).any (fun p => s.flag 0x4400_02 p) ||
  s.reg 0x4810_01 != 0 || (List.range 2).any (fun p => s.flag 0x6820_02 p) || !s.power.crystal

/-- Whether the key front end domain is needed: not between gates at 15 Hz and 4 Hz, once the crystal runs, before which it
is not switched off at all (R373, R388, R393). -/
def State.keysNeeded (s : State) : Bool :=
  (s.flag 0x5C00_01 && 15 < s.scanRate) || (!s.power.crystal && (s.flag 0x5C00_01 || s.domain 22 == 2))

/-- Whether the plan in force places an Ingot in Crucible (R326). -/
def State.crucibleNeeded (s : State) : Bool := s.sources.any fun p => 0x80 ≤ p.2.target

/-- Whether the device is no Standby, which keeps Hearth and Retention only (R341, R388). -/
def State.awake (s : State) : Bool := s.reg 0x5800_03 != 5

/-- Whether the plan holds a domain on, L:6400.03 bit 0 (R388): scan-out, scalers and Crucible. -/
def State.heldByPlan (s : State) (d : Nat) : Bool :=
  if !s.awake then false
  else if 6 ≤ d && d ≤ 9 then s.clusterNeeded (d - 6)
  else if d = 10 || d = 11 then s.anyOutput
  else d == 23 && s.crucibleNeeded

/-- Whether an enabled block holds a domain on, L:6400.03 bit 1 (R388), or the wait for the crystal does (R393). -/
def State.heldByBlock (s : State) (d : Nat) : Bool :=
  if 2 ≤ d && !s.awake then (d == 21 || d == 22) && !s.power.crystal && s.domain d == 2
  else match d with
  | 2 | 3 => true
  | 4 | 5 => s.power.booted
  | 12 | 13 => s.edgeRole && (List.range 32).any fun c => s.flag 0x3840_02 c
  | 14 => s.edgeRole && (List.range 16).any fun p => s.flag 0x3800_02 p
  | 15 | 16 | 17 | 18 => s.groupNeeded (d - 15)
  | 19 => s.enabledOutputs.any fun o => 2 ≤ s.reg 0x3400_03 o
  | 20 => s.pins.perstN
  | 21 => (s.power.booted || s.acc.recovery) && s.timeNeeded
  | 22 => s.power.booted && s.keysNeeded
  | _ => d < 2

/-- What holds a domain on, L:6400.03: plan, enabled block, takeover, forced (R388, R391). -/
def State.domainHeld (s : State) (d : Nat) : Nat :=
  let b := fun (x : Bool) (k : Nat) => if x then k else 0
  b (s.heldByPlan d) 1 + b (s.heldByBlock d) 2 + b (s.reg 0x5800_03 == 6 && 2 ≤ d && s.domain d != 0) 4 +
    b (2 ≤ d && s.flag 0x6400_04 d) 8

/-- The state with every field that accepted commits still hold back made active, by which the firmware powers what a
commit needs before it acts (R389). -/
def State.withWaiting (s : State) : State :=
  s.commits.waiting.foldl (fun t p =>
    let fs := (match p.plan with | some q => q.fields | none => []) ++ p.fields ++ p.parts.flatMap (·.fields) ++ p.rest
    let t1 := t.applyFields fs
    match p.plan with
    | some q => { t1 with sources := q.sources }
    | none => t1) s

/-- Whether a domain is needed, by what runs or by what an accepted commit will start (R388, R389). -/
def State.domainNeeded (s : State) (w : State) (d : Nat) : Bool := s.domainHeld d != 0 || w.domainHeld d % 4 != 0

/-- One domain follows its need: a request powers it, or waits for a power-down to end; without need its hold time runs
(R388, R389). A domain in fault stays so. -/
def State.settleDomain (s w : State) (d : Nat) : State :=
  let need := s.domainNeeded w d
  let st := s.domain d
  if need then
    let s1 : State := { s with power := { s.power with unneeded := Tbl.erase s.power.unneeded d } }
    if st = 0 then (s1.setReg 0x6400_02 d 1).bump 0x6400_05 d
    else if st = 3 && !s.power.waitingOn.contains d then
      { s1 with power := { s1.power with waitingOn := s1.power.waitingOn ++ [d] } }
    else s1
  else
    let s1 : State := { s with power := { s.power with waitingOn := s.power.waitingOn.filter (· != d) } }
    if st = 2 && (Tbl.find s.power.unneeded d).isNone then
      { s1 with power := { s1.power with unneeded := Tbl.put s1.power.unneeded d s.now } }
    else s1

/-- Every domain but Hearth and Retention follows its need (R388). -/
def State.settlePower (s : State) : State :=
  ((List.range 22).map (· + 2)).foldl (fun t d => t.settleDomain t.withWaiting d) s

/-- Whether a lane group's domain is on. -/
def State.groupOn (s : State) (g : Nat) : Bool := s.domain (15 + g) == 2

/-- Whether every lane of a port lies in a group that is on. -/
def State.portPowered (s : State) (p : Nat) : Bool := (s.bringUpLanes p).all fun l => s.groupOn (laneGroup l)

/-- An enabled port whose lanes are powered and that has not started begins its bring-up (R217, R389). -/
def State.tryStartPort (s : State) (p : Nat) : State :=
  if s.flag 0x4400_02 p && s.reg 0x4400_09 p = 0 && s.portPowered p then s.startPort p else s

end Sys2Proof.Machine
end

