-- ==== Sys2Proof/Machine/Apply.lean ====
section
/-! DEFINITION. How accepted values become active (R97-R112, R462): the class of a shadowed
field, what a plan installs, block enables, and the configuration that a seal reads. -/

namespace Sys2Proof.Machine

set_option Elab.async false

/-! ### Layers (R124, R127) -/

/-- Layers of all engines: engine × 24 + layer. -/
def layerCount : Nat := 18 * 24

/-- The view that a local index stands for: that of the plan in force, else the index itself, told apart (R49, R127). -/
def State.viewOf (s : State) (index : Nat) : Nat :=
  match s.plan with
  | some p => (Tbl.find p.views index).getD (65536 + index)
  | none => 65536 + index

/-- The view group of a layer on an output: its view and the output's frame period (R44, R127). -/
def State.groupKey (s : State) (o inst : Nat) : Nat := s.viewOf (s.reg 0x3000_20 inst) * 8 + s.divisor o

/-- The view groups of an output's layers. -/
def State.groupsOf (s : State) (o : Nat) : List Nat := (s.layersOf o).map (s.groupKey o)

/-- The outputs that share a view group with one of a list (R44). -/
def State.linkedOnce (s : State) (outs : List Nat) : List Nat :=
  let gs := outs.flatMap s.groupsOf
  s.runningOutputs.filter fun o => outs.contains o || (s.groupsOf o).any gs.contains

/-- A list of outputs with all those that view groups join to them, in at most `n` steps. -/
def State.linkAll (s : State) : Nat → List Nat → List Nat
  | 0, outs => outs
  | n + 1, outs =>
    let more := s.linkedOnce outs
    if more.length = outs.length then outs else s.linkAll n more

/-- The outputs joined to an output by view groups, through as many steps as needed: 32 outputs need fewer than 32 (R108). -/
def State.linkedTo (s : State) (o : Nat) : List Nat := s.linkAll 32 [o]

/-- The frame of an output that a change accepted now reaches first (R102, R106). -/
def State.reachable (s : State) (o : Nat) : Nat :=
  let x := s.output o
  x.nextOf + (if x.sealed then 1 else 0)

/-- The frame at which an output-local change applies: that of the view groups' common seal (R106, R108). -/
def State.localFrame (s : State) (o : Nat) : Nat := ((s.linkedTo o).map s.reachable).foldl max (s.reachable o)

/-- The earliest wall frame before which every running output still has a seal to come; the next where none runs
(R107). -/
def State.earliestWF (s : State) : Nat :=
  match s.runningOutputs with
  | [] => s.wf + 1
  | os => (os.map fun o => ceilDiv' (s.reachable o) (s.divisor o)).foldl max 0

/-! ### Classes of shadowed fields (R106, R107, R109, R305) -/

/-- Whether a plan sets an entry: layers, writeback, fabric and latency targets (R112, R146, R305). -/
def planDerived (key : Nat) : Bool :=
  (0x3000_03 ≤ key && key ≤ 0x3000_20) || (0x3080_02 ≤ key && key ≤ 0x3080_09) ||
  (0x5000_01 ≤ key && key ≤ 0x5000_03) || (0x5010_02 ≤ key && key ≤ 0x5010_04) || key == 0x5018_02 || key == 0x5408_02

/-- Whether an entry is a block enable, which applies with the plan (R109). -/
def blockEnable (key : Nat) : Bool := [0x3400_02, 0x3800_02, 0x3840_02, 0x4400_02, 0x5C00_01].contains key

/-- Whether an entry is a resource assignment or a block enable, which apply at one wall frame on every output (R107,
R109). -/
def wideKey (key : Nat) : Bool :=
  [0x3000_03, 0x3000_04, 0x3000_06, 0x3000_14, 0x3080_02, 0x3080_04].contains key || blockEnable key ||
  (planDerived key && 0x5000_00 ≤ key)

/-- Whether an entry is output-local (R106). -/
def localKey (key : Nat) : Bool :=
  ((planDerived key && key < 0x5000_00) || [0x3010_02, 0x3400_14, 0x3400_15, 0x3400_19].contains key) && !wideKey key

/-- Whether an entry is shared by outputs and applies at the seal of each: freshness constants and coefficient tables
(R106, R109, R142). -/
def sharedKey (key : Nat) : Bool :=
  (0x2000_01 ≤ key && key ≤ 0x2000_07) || key == 0x2000_0B || key == 0x2000_0C || key == 0x3040_02

/-- Whether an entry waits for a point of its own: contexts, streams, keys and frozen detection (R109). -/
def ownKey (key : Nat) : Bool :=
  !blockEnable key &&
  ([0x3840, 0x3850, 0x3860, 0x3870, 0x4410].contains (key / 256) || (0x5C00_00 ≤ key && key ≤ 0x5C18_FF) ||
    (0x2010_01 ≤ key && key ≤ 0x2010_28))

/-- The running outputs whose seals an output-local or shared field waits for (R106, R109, R142). -/
def State.fieldOutputs (s : State) (key inst : Nat) : List Nat :=
  let run := s.runningOutputs
  if key = 0x3040_02 then
    run.filter fun o => (s.layersOf o).any fun i =>
      s.reg 0x3000_14 i != 0xFF && (s.reg 0x3000_1C i == inst || s.reg 0x3000_1D i == inst)
  else if sharedKey key then run
  else
    let o := match key / 256 with
      | 0x3000 => s.layerOutput inst
      | 0x3080 =>
        let x := s.streamOutput inst (if s.isSplit inst then s.reg 0x3080_03 inst else 0)
        if x < 32 then some x else none
      | _ => some inst
    run.filter fun x => o == some x

/-! ### What a plan installs (R85, R107, R112, R462) -/

/-- Every plan-derived entry back at its default. -/
def State.clearDerived (s : State) : State :=
  { s with
    regs := s.regs.filter fun p => !planDerived (p.1 / 65536)
    blobs := s.blobs.filter fun p => !planDerived (p.1 / 65536) }

/-- The engine of each output as a plan assigns them; an engine that has failed stays so, and the reserves that have
not are free (R85, R174). -/
def State.installEngines (s : State) (as : List (Nat × Nat × Nat)) : State :=
  let at' := fun (e : Nat) (ks : List Nat) =>
    match as.find? fun x => x.2.1 == e && ks.contains x.2.2 with
    | some x => x.1
    | none => 0xFF
  let s1 := (List.range 16).foldl (fun (t : State) e =>
    let a := at' e [0, 1]
    let b := at' e [2]
    let t1 := t.setReg 0x3420_03 e (b * 256 + a)
    if t.reg 0x3420_02 e = 4 then t1 else t1.setReg 0x3420_02 e (if a < 32 || b < 32 then 1 else 0)) s
  [16, 17].foldl (fun (t : State) r =>
    let t1 := (t.setReg 0x3420_03 r 0xFFFF).setReg 0x3420_05 r 0xFF
    if t.reg 0x3420_02 r = 4 then t1 else t1.setReg 0x3420_02 r 2) s1

/-- The configuration of a plan: its fields, engines and sources (R112). -/
def State.configPlan (s : State) (p : Plan) : State :=
  let s1 := (s.clearDerived.applyFields p.fields).installEngines p.engines
  { s1 with sources := p.sources, plan := some p }

/-- The set that a new source takes over: the latest frame and the standing of the source of the same ID, wherever it was
bound (R462). -/
def carriedSlot (old : List (Nat × Source)) (slots : Tbl Slot) (id : Nat) : Option Slot :=
  (old.find? fun p => p.2.id == id).map fun p => Tbl.get {} slots p.1

/-- Whether two stretches of memory, each a target with its ends, share a byte. -/
def stretchesMeet (a b : Nat × Nat × Nat) : Bool := a.1 == b.1 && decide (a.2.1 < b.2.2) && decide (b.2.1 < a.2.2)

/-- The memory that a new set must stay clear of: every set of the plan in force, and every Ingot that is not Free (R462). -/
def State.heldStretches (s : State) : List (Nat × Nat × Nat) :=
  s.sources.flatMap (fun p => p.2.stretches) ++
  s.ingots.filterMap fun p =>
    if p.2.st == .free || p.2.size = 0 then none
    else (targetOf p.2.base).map fun t => (if t < 16 then t else t - 16 + 0x80, p.2.base, p.2.base + p.2.size)

/-- A source with its memory in one stretch from an address: its Ingots, then its rings. -/
def Source.layAt (x : Source) (b : Nat) : Source :=
  { x with bases := x.bases.map fun a => a - x.bases.headD 0 + b, ringBase := b + x.ingotCount * x.size }

/-- A source as it is bound beside one that it replaces: a kept set stays where it is, and its rings too unless they have grown
(R200, R462). -/
def Source.boundOver (x : Source) (old : Option Source) : Source :=
  match old.filter fun a => keptSet a x with
  | some a => { x with bases := a.bases, size := a.size, ringBase := if x.ringSpan ≤ a.ringSpan then a.ringBase else x.ringBase }
  | none => x.layAt (x.bases.headD 0)

/-- The memory that a bound source takes anew: all of it, or of a kept set the rings that have grown. -/
def Source.newStretches (x : Source) (old : Option Source) : List (Nat × Nat × Nat) :=
  match old.filter fun a => keptSet a x with
  | some a => if x.ringSpan ≤ a.ringSpan then [] else [(x.target, x.ringBase, x.ringBase + x.ringSpan)]
  | none => x.stretches

/-- A source whose new memory, made room for by a plan earlier, is held now: it moves to the lowest room of its target clear of
what is held; without room it has no Ingots, or keeps the rings that it had (R462; log entry 134). -/
def State.clearOne (s : State) (old : Option Source) (occ : List (Nat × Nat × Nat)) (x : Source) : Source :=
  let gap := fun need => ({ occ := occ } : Load).gap x.target need (s.targetRoom x.target)
  match old.filter fun a => keptSet a x with
  | some a => { x with ringBase := (gap x.ringSpan).getD a.ringBase }
  | none => match gap x.span with
    | some b => x.layAt b
    | none => { x with bases := [] }

/-- A plan's sources as they are bound (R462): those whose new memory is clear of what is held first, then the others, moved. -/
def State.clearSets (s : State) (old : Nat → Option Source) (planned : List (Nat × Source)) : List (Nat × Source) :=
  let srcs := planned.map fun p => (p.1, p.2.boundOver (old p.1))
  let held := s.heldStretches
  let meets := fun (p : Nat × Source) => (p.2.newStretches (old p.1)).any fun a => held.any (stretchesMeet a)
  let fixed := (srcs.filter fun p => !meets p).flatMap fun p => p.2.newStretches (old p.1)
  (srcs.foldl (fun (acc : List (Nat × Source) × List (Nat × Nat × Nat)) p =>
    let y := if meets p then s.clearOne (old p.1) acc.2 p.2 else p.2
    (acc.1 ++ [(p.1, y)], if meets p then y.newStretches (old p.1) ++ acc.2 else acc.2)) ([], held ++ fixed)).1

/-- A writeback in progress of an engine is abandoned, with E-0x060 at most once per 64 output frames (R145). -/
def State.abandonWriteback (s : State) (e : Nat) : State :=
  let x := s.engine e
  let s1 := match x.wbIngot with | some i => s.abandon i | none => s
  let of := x.wbOf.getD 0
  ((s1.setEngine e { x with wbIngot := none }).bump 0x3080_0A e).recordEvery of 64 false 0x060 (some (an 0x04)) e (shownFrame of : Nat)

/-- An inbound frame of a port that fills an Ingot is abandoned, as one whose write is refused is (R253, R300). -/
def State.abandonRx (s : State) (p i : Nat) : State :=
  match (s.port p).rx.find? fun f => s.rxIngot f == some i, (s.port p).ended.find? fun e => s.rxIngot e.1 == some i with
  | some f, _ => ((s.abandon i).setRx p { f with ingot := none }).dropFrame f.slot f.seq (sw 0x11)
  | none, some e =>
    let s1 := s.abandon i
    (s1.setPort p { s1.port p with ended := (s1.port p).ended.erase e }).dropFrame e.1.slot e.1.seq (sw 0x11)
  | none, none => s

/-- The frame that fills an Ingot is abandoned as R300 says, by its block (R145, R192, R253). -/
def State.abandonFill (s : State) (i : Nat) : State :=
  match (s.ingot i).filler with
  | .port => (List.range 24).foldl (fun (t : State) p => t.abandonRx p i) s
  | .isp => (List.range 4).foldl (fun (t : State) k =>
      let p := t.pipe k
      if p.display == some i || p.coding == some i || p.vision == some i then t.abandonPipe k (inc 0x07) true else t) s
  | .writeback => (List.range 16).foldl (fun (t : State) e =>
      if (t.engine e).wbIngot == some i then t.abandonWriteback e else t) s
  | _ => s.abandon i

/-- At the apply frame of an evacuation every frame still written into an Ingot on its channel is abandoned (R327 step 3). -/
def State.abandonOn (s : State) (c : Nat) : State :=
  ((s.ingots.filter fun p => p.2.st == .filling && p.2.size != 0 && p.2.base / 2 ^ 32 == c).map Prod.fst).foldl
    State.abandonFill s

/-- Every source's Ingot set at the apply frame of a plan: kept, dropped or new (R462). -/
def State.installSets (s : State) (planned : List (Nat × Source)) : State :=
  let old := s.sources
  let srcs := s.clearSets (Tbl.find old) planned
  let before := s.slots
  let isKept := fun (k : Nat) (b : Source) =>
    match Tbl.find old k with
    | some a => keptSet a b
    | none => false
  let s1 := old.foldl (fun (t : State) p =>
    let k := p.1
    match Tbl.find srcs k with
    | some b => if keptSet p.2 b then t else
        let stays := srcs.any fun q => q.2.id == p.2.id
        let keep := if stays then (Tbl.get {} before k).latest.toList else []
        t.retireSet k keep
    | none =>
        let stays := srcs.any fun q => q.2.id == p.2.id
        let keep := if stays then (Tbl.get {} before k).latest.toList else []
        t.retireSet k keep) s
  let s2 := (List.range 40).foldl (fun (t : State) k =>
    let kept := match Tbl.find srcs k with | some b => isKept k b | none => false
    if kept then t
    else
      let x := t.slot k
      let base : Slot := { oldSet := x.oldSet, hostSeq := x.hostSeq }
      match Tbl.find srcs k with
      | none => if (Tbl.find t.slots k).isSome then t.setSlot k base else t
      | some b =>
        let y := match carriedSlot old before b.id with
          | some c => { c with set := [], oldSet := x.oldSet, hostSeq := x.hostSeq }
          | none => base
        (t.setSlot k y).newSet k b b.size) s1
  { s2 with sources := srcs }

/-- A view group as a commit creates it (R49). -/
def newGroup (n : Nat) : Group := { count := n }

/-- The state and count that a view which the configuration in force shows keeps in a group of its own on outputs of another
frame period; a view that it does not show has none (R49). -/
def State.heirGroup (s old : State) (key : Nat) : Option Group :=
  if ((List.range 32).flatMap old.groupsOf).any fun k => k / 8 == key / 8 then
    (s.groups.find? fun p => p.1 / 8 == key / 8).map fun p => { p.2 with decided := none }
  else none

/-- What a commit leaves of the view groups (R49): those that no enabled layer shows any more lose their state and count, and
one that it creates has what its view keeps from before, or starts with its count at N. -/
def State.renewGroups (s old : State) : State :=
  let live := ((List.range 32).flatMap s.groupsOf).eraseDups
  let kept := s.groups.filter fun p => live.contains p.1
  let new := live.filter fun k => (Tbl.find kept k).isNone
  { s with groups := new.foldl (fun (t : Tbl Group) k =>
      Tbl.put t k ((s.heirGroup old k).getD (newGroup (s.reg 0x2000_02)))) kept }

/-- The bytes that a plan places in each Crucible bank, L:5480.03 (R326). -/
def State.noteBanks (s : State) : State :=
  (List.range 8).foldl (fun (t : State) b =>
    t.setReg 0x5480_03 b ((t.sources.filter fun p => p.2.target == 0x80 + b).foldl (fun n p => n + p.2.span) 0)) s

/-- Writebacks whose slot is no host source of the plan in force do not run: E-0x061 with AN-0x05 (R146). -/
def State.noteWritebacks (s : State) : State :=
  (List.range 16).foldl (fun (t : State) e =>
    let ok := match t.source (t.reg 0x3080_04 e) with | some x => x.kind == 3 | none => false
    if t.flag 0x3080_02 e && !ok then
      let o := t.streamOutput e (if t.isSplit e then t.reg 0x3080_03 e else 0)
      t.record 0x061 (some (an 0x05)) e (shownFrame (t.output o).nextOf : Nat)
    else t) s

/-- Install a plan: Ingot sets, fields, engines (R107, R462). A host's plan ends the lowering of channel ceilings (R92);
an automatic one ends the re-plan that made it (R332). -/
def State.installPlan (s0 : State) (slot : Nat) (p : Plan) (auto : Bool) : State :=
  let s := if auto then
      let t := match s0.dram.evacuating with | some c => s0.moveHolds.abandonOn c | none => s0
      if t.replanning then t.endRecovery else t
    else s0
  let s1 := s.installSets p.sources
  let srcs := s1.sources
  let c := s1.configPlan p
  let s2 : State := (statFields srcs).foldl (fun (t : State) f => t.setReg f.key f.inst f.v.n)
    { c with sources := srcs, planSlot := slot }
  let s3 : State := { s2 with smith := { s2.smith with
    lowered := if auto then s2.smith.lowered else [], installed := s2.smith.installed + 1 } }
  let s4 := if slot = 0xFE then s3.setBlob 0x2410_05 0 p.report else s3
  { s4 with shadow := s4.shadow.filter fun x => !planDerived (x.1 / 65536) || x.2.dirty }.noteBanks

/-! ### Block enables (R169, R172, R180, R217) -/

/-- The frames in progress on a DisplayPort port are not sent whole (R158, R167). -/
def State.breakFrames (s : State) (p : Nat) : State :=
  (List.range 32).foldl (fun (t : State) o =>
    if t.reg 0x3400_03 o = 2 && t.reg 0x3400_04 o = p then t.setOutput o { t.output o with begun := false } else t) s

/-- The link of a DisplayPort port trains, its sink's EDID read before; it is down-spread where L:3440.04 asks for it and the
sink allows it (R169). -/
def State.trainDp (s : State) (p : Nat) (k : Sink) : State :=
  let k1 : Sink := { k with spreadOn := s.flag 0x3440_04 p && k.spread }
  (({ s with sinks := Tbl.put s.sinks p k1 }.setReg 0x3440_05 p 1).setBlob 0x3440_08 p (k.edid.take 32768)).breakFrames p

/-- The port of an egress starts: a DisplayPort link trains, a panel is initialised (R169, R172). -/
def State.startEgress (s : State) (o : Nat) : State :=
  let p := s.reg 0x3400_04 o
  match s.reg 0x3400_03 o with
  | 2 =>
    let lanes := (List.range 4).map (· + 4 * p)
    let s1 := lanes.foldl (fun (t : State) l => t.setReg 0x4000_02 l 12) s
    (match Tbl.find s1.sinks p with
      | some k => s1.trainDp p k
      | none => s1.setReg 0x3440_05 p 0)
  | 3 | 4 => { s with panels := Tbl.put s.panels p s.now }.setReg 0x3450_07 p 1
  | _ => s

/-- The port of an egress stops. -/
def State.stopEgress (s : State) (o : Nat) : State :=
  let p := s.reg 0x3400_04 o
  match s.reg 0x3400_03 o with
  | 2 =>
    let lanes := (List.range 4).map (· + 4 * p)
    (lanes.foldl (fun (t : State) l => t.setReg 0x4000_02 l 0) s).setReg 0x3440_05 p 0
  | 3 | 4 => s.setReg 0x3450_07 p 0
  | _ => s

/-- An output is enabled: its first frame is that of the wall frame at which the enable applies (R107). -/
def State.enableOutput (s : State) (wf o : Nat) : State :=
  (s.setOutput o { running := true, nextOf := wf * s.divisor o, curOf := wf * s.divisor o - 1 }).startEgress o

/-- An output is disabled. -/
def State.disableOutput (s : State) (o : Nat) : State := (s.setOutput o {}).stopEgress o

/-- A Swage port is disabled: its lanes are off, and what it carried is gone (R211, R246). -/
def State.stopPort (s : State) (p : Nat) : State :=
  let ls := s.portLanes p ++ s.sparesOf p
  let frames := (s.port p).rx
  let s1 := frames.foldl (fun (t : State) f => match f.ingot with | some i => t.abandon i | none => t) s
  let s2 := ls.foldl (fun (t : State) l =>
    (((t.setReg 0x4000_02 l 0).setReg 0x4000_03 l 0xFF).clearSpare l 0).setLane l {}) s1
  ((((s2.clearOutbox p).setPort p {}).setReg 0x4400_09 p 0).setReg 0x1010_05 0 (withBit (s2.reg 0x1010_05) p false)).followTimePort

/-- Numbers of parts whose enable has risen or fallen since `old`. -/
def State.enableMoves (s old : State) (key count : Nat) (on : Bool) : List Nat :=
  (List.range count).filter fun i => s.flag key i == on && old.flag key i != on

/-- Block enables that the fields just applied have changed take effect (R109). -/
def State.applyEnables (s old : State) (wf : Nat) : State :=
  let s1 := (s.enableMoves old 0x3400_02 32 false).foldl State.disableOutput s
  let s2 := (s.enableMoves old 0x3800_02 16 false).foldl State.disableCamPort s1
  let s3 := (s.enableMoves old 0x3840_02 32 false).foldl State.disableContext s2
  let s4 := (s.enableMoves old 0x4400_02 24 false).foldl State.stopPort s3
  let s5 := (s.enableMoves old 0x3800_02 16 true).foldl State.enableCamPort s4
  let s6 := (s.enableMoves old 0x3840_02 32 true).foldl State.enableContext s5
  let s7 := (s.enableMoves old 0x4400_02 24 true).foldl State.tryStartPort s6
  (s.enableMoves old 0x3400_02 32 true).foldl (State.enableOutput · wf) s7

/-! ### Accepted commits take effect (R102, R106, R107) -/

/-- The plan and fields that an accepted commit applies at one wall frame, on a configuration alone. -/
def State.configWide (s : State) (p : Pending) : State :=
  let s1 := match p.plan with | some q => s.configPlan q | none => s
  s1.applyFields p.fields

/-- A plan or commit covers the outputs that a fault had left to the FAULT veil (R334, R335, R175). -/
def State.coverOutputs (s : State) : State :=
  { s with outputs := s.outputs.map fun p =>
      (p.1, { p.2 with struck := false, uncovered := false, noEngine := p.2.noEngine && (match s.engineFor p.1 with
        | some e => s.reg 0x3420_02 e == 4
        | none => true) }) }

/-- An accepted commit applies at its wall frame (R107), its key fields at the next gate after it (R362); a new ceiling or Ingot
count advances the epoch (R91). -/
def State.installWide (s : State) (p : Pending) (wf : Nat) : State :=
  let s1 := match p.plan with | some q => s.installPlan p.slot q p.auto | none => s
  let keys := p.fields.filter fun f => 0x5C00_02 ≤ f.key && f.key ≤ 0x5C18_FF
  let s2 := s1.applyFields (p.fields.filter fun f => !keys.contains f)
  let changed := s2.reg 0x2400_07 != s.reg 0x2400_07 || s2.reg 0x2400_08 != s.reg 0x2400_08
  let s2 := if changed then s2.advanceEpoch else s2
  let s3 := ((s2.applyEnables s wf).renewGroups s).noteWritebacks.noteGating.coverOutputs
  let left := s3.commits.waiting.map fun q =>
    if q.ticket == p.ticket && q.auto == p.auto then { q with applyWF := none, plan := none, fields := [], rest := q.rest ++ keys } else q
  ({ s3 with commits := { s3.commits with waiting := left } }.noteApplied p.ticket wf).settlePower

/-- Whether a field of an output's part is the output's own, not shared with others. -/
def ownPart (f : Staged) : Bool := !sharedKey f.key

/-- A part of an output reaches its frame: the output's own fields are active, and fields shared with other outputs once
every part has applied (R106, R109). -/
def State.installPart (s : State) (p : Pending) (o wf : Nat) : State :=
  let mine := p.parts.filter fun x => x.output == o
  let parts := p.parts.map fun x => if x.output == o then { x with done := true } else x
  let s1 := s.applyFields ((mine.flatMap (·.fields)).filter ownPart)
  let all := parts.all (·.done)
  let s2 := (if all then s1.applyFields ((parts.flatMap (·.fields)).filter fun f => sharedKey f.key) else s1).renewGroups s
  let left := s2.commits.waiting.map fun q =>
    if q.ticket == p.ticket && q.auto == p.auto then { q with parts := if all then [] else parts } else q
  { s2 with commits := { s2.commits with waiting := left } }.noteApplied p.ticket wf

/-- Whether a commit's wall frame has come at frame `of` of an output with divisor `d`. -/
def Pending.wideDue (p : Pending) (d of : Nat) : Bool :=
  p.lockedIn && (match p.applyWF with | some w => decide (w * d ≤ of) | none => false)

/-- Whether an output's part of a commit has come at its frame `of`. -/
def Pending.partDue (p : Pending) (o of : Nat) : Bool :=
  p.lockedIn && p.parts.any fun x => x.output == o && !x.done && decide (x.frame ≤ of)

/-- What applies on an output at the start of its frame `of`, in ticket order (R102, R110). -/
def State.applyAt (s : State) (o of : Nat) : State :=
  let d := s.divisor o
  s.commits.waiting.foldl (fun (t : State) p =>
    let t1 := if p.wideDue d of then t.installWide p (of / d) else t
    if p.partDue o of then
      match t1.commits.waiting.find? fun q => q.ticket == p.ticket && q.auto == p.auto with
      | some q => t1.installPart q o (of / d)
      | none => t1
    else t1) s

/-- The state as frame `of` of an output, and of every other of its divisor, will find it, with what applies at or before
that frame in force (R102): what a seal decides from. Of the fields that outputs share it holds what the output's own parts
bring (R108, R109). -/
def State.configAt (s : State) (o of : Nat) : State :=
  let d := s.divisor o
  s.commits.waiting.foldl (fun (t : State) p =>
    let t1 := if p.wideDue d of then
      (match p.plan with
        | some q => (t.installPlan p.slot q p.auto).applyFields p.fields
        | none => t.applyFields p.fields) else t
    t1.applyFields ((p.parts.filter fun x => p.lockedIn && s.divisor x.output == d && decide (x.frame ≤ of)).flatMap
      fun x => x.fields.filter fun f => ownPart f || x.output == o)) s

end Sys2Proof.Machine
end

