-- ==== Sys2Proof/Machine/Commit.lean ====
section
/-! DEFINITION. Commits (R103-R117): requests and tickets, what must agree, acceptance, lock-in, cancelling and discarding. -/

namespace Sys2Proof.Machine

set_option Elab.async false

/-! ### The configuration that would result (R112, R113) -/

/-- The shadow fields written since the last accepted commit (R105). -/
def State.dirtyFields (s : State) : List Staged :=
  s.shadow.filterMap fun p =>
    if p.2.dirty then some { key := p.1 / 65536, inst := p.1 % 65536, v := p.2.v } else none

/-- The placement mode that an image leaves: a stored plan returns the device to automatic mode (R94). -/
def State.modeAfter (s : State) (image : List Staged) (slotted : Bool) : Nat :=
  if slotted then 0
  else match (image.filter fun f => f.key == 0x2400_06).getLast? with
    | some f => f.v.n
    | none => s.reg 0x2400_06

/-- A configuration with all that a commit holds back made active. -/
def State.overlay (t : State) (p : Pending) : State :=
  let t1 := match p.plan with | some q => t.configPlan q | none => t
  t1.applyFields (p.fields ++ p.parts.flatMap (·.fields) ++ p.rest)

/-- The configuration that would result from the active values and the staged images still waiting (R113). -/
def State.resulting (s : State) : State := s.commits.waiting.foldl State.overlay s

/-- The fields that a commit stages: with a slot, those that its plan does not set, and automatic mode where it is not in
force; without one in automatic mode, all but the writeback entries (R94, R105, R112, R146). -/
def State.stage (s : State) (slotted : Bool) : List Staged :=
  let image := s.dirtyFields
  if slotted then
    let auto : Staged := { key := 0x2400_06, inst := 0, v := .num 0 }
    (image.filter fun f => !planDerived f.key && f.key != 0x2400_06) ++
      if s.resulting.reg 0x2400_06 = 0 then [] else [auto]
  else if s.modeAfter image false = 0 then image.filter fun f => f.key / 256 != 0x3080
  else image

/-! ### The field pairs (R114) -/

/-- The source that a layer reads, its own or that of the Ingot it is pinned to; none is bound to a layer that is pinned
in automatic mode (R125). -/
def State.layerSource (c : State) (i : Nat) : Option Source :=
  let k := c.reg 0x3000_06 i
  if k = 0xFD then
    if c.reg 0x2400_06 = 0 then none else c.source (c.ingot (c.reg 0x3000_07 i)).slot
  else c.source k

/-- Every enabled layer. -/
def State.enabledLayers (c : State) : List Nat := (List.range layerCount).filter fun i => c.flag 0x3000_03 i

/-- Whether a layer reads a source: Source 0-39 or pinned (R149). -/
def State.readsSource (c : State) (i : Nat) : Bool := c.reg 0x3000_06 i < 40 || c.reg 0x3000_06 i == 0xFD

/-- Whether a layer is bound to a scaler. -/
def State.isScaled (c : State) (i : Nat) : Bool := c.reg 0x3000_14 i != 0xFF

/-- Whether a layer's format, stride and fetch rectangle fit the source it reads: pairs 1 to 3. -/
def State.layerFits (c : State) (pair i : Nat) : Bool :=
  match c.layerSource i with
  | none => pair != 1
  | some x =>
    let fmt := c.reg 0x3000_08 i
    match pair with
    | 1 => fmt == x.fmt
    | 2 => x.width * pixelBytes fmt ≤ c.reg 0x3000_09 i && c.reg 0x3000_09 i % 64 == 0
    | _ => c.reg 0x3000_0A i + c.reg 0x3000_0C i ≤ x.width && c.reg 0x3000_0B i + c.reg 0x3000_0D i ≤ x.height

/-- Whether a layer without a scaler is copied pixel for pixel: pair 5 (R139). -/
def State.plainCopy (c : State) (i : Nat) : Bool :=
  c.reg 0x3000_0C i == c.reg 0x3000_10 i && c.reg 0x3000_0D i == c.reg 0x3000_11 i && c.reg 0x3000_15 i == 1 &&
  c.reg 0x3000_18 i == unity && c.reg 0x3000_19 i == unity && c.reg 0x3000_1A i == 0 && c.reg 0x3000_1B i == 0

/-- Whether a layer's destination lies inside its output's active area: pair 7; a layer that serves no output is not
judged. -/
def State.destinationFits (c : State) (i : Nat) : Bool :=
  match c.layerOutput i with
  | none => true
  | some o =>
    c.reg 0x3000_0E i + c.reg 0x3000_10 i ≤ c.hactive o && c.reg 0x3000_0F i + c.reg 0x3000_11 i ≤ c.vactive o

/-- A bound source as the scene's record of it. -/
def Source.asRecord (x : Source) (slot : Nat) : SrcRec :=
  { id := x.id, device := 0, slot := slot, kind := x.kind, fmt := x.fmt, rate := x.rate, locator := x.locator
    width := x.width, height := x.height, name := x.name, ingots := x.ingotCount, memory := x.memory, upPort := x.upPort
    upStream := x.upStream }

/-- The bound sources as records. -/
def State.boundRecords (c : State) : List SrcRec := c.sources.map fun p => p.2.asRecord p.1

/-- Whether an output's egress agrees: a type, a port that carries its rate, and a DisplayPort or DSI port of its own on
lanes of its own: pair 10 (R153). -/
def State.egressAgrees (c : State) (o : Nat) : Bool :=
  let t := c.reg 0x3400_03 o
  let p := c.reg 0x3400_04 o
  let same := fun (x : Nat) => x != o && c.reg 0x3400_04 x == p &&
    (c.reg 0x3400_03 x == t || (3 ≤ t && 3 ≤ c.reg 0x3400_03 x))
  1 ≤ t && t ≤ 4 && c.egressCarries c.boundRecords o &&
  (t == 1 || !c.enabledOutputs.any same) &&
  (t != 2 || (List.range 24).all fun w => !c.flag 0x4400_02 w || (c.portLanes w).all fun l => l / 4 != p)

/-- Whether an engine's writeback region fits its Ingots: pair 11. -/
def State.regionFits (c : State) (e : Nat) : Bool :=
  match c.source (c.reg 0x3080_04 e) with
  | some x => x.kind != 3 ||
    (c.reg 0x3080_07 e * 4 ≤ lineStride x.width (bytesPerPixel x.fmt) && c.reg 0x3080_08 e ≤ x.height)
  | none => true

/-- Whether an enabled context has its port, and port, channel and data type to itself: pair 12. -/
def State.contextAgrees (c : State) (x : Nat) : Bool :=
  let on := (List.range 32).filter fun y => c.flag 0x3840_02 y
  let same := fun (key y : Nat) => c.reg key y == c.reg key x
  c.flag 0x3800_02 (c.reg 0x3840_03 x) && (on.filter (same 0x3840_03)).length ≤ 4 &&
  !on.any fun y => y != x && same 0x3840_03 y && same 0x3840_04 y && same 0x3840_05 y

/-- Whether the sources of an enabled context hold the formats that its outputs write: pair 13. -/
def State.formatsAgree (c : State) (x : Nat) : Bool :=
  (c.sources.all fun p => p.2.kind != 1 || p.2.locator != x || p.2.fmt == c.reg 0x3840_0E x) &&
  (c.ispOutputs x).all fun y => match c.source y.2.2 with | some z => z.fmt == y.1 | none => true

/-- Whether the twin that a port names, if any, is enabled and lies in its lane group clear of it: pair 14 (R344). -/
def State.twinAgrees (c : State) (p : Nat) : Bool :=
  let w := c.reg 0x5840_02 p
  let ls := c.portLanes p
  let ms := c.portLanes w
  w == 0xFF || (c.flag 0x4400_02 w && !ms.any ls.contains &&
    ms.all fun m => ls.all fun l => laneGroup m == laneGroup l)

/-- Whether a port's lanes lie in Q0 to Q11 and in one lane group, clear of every other enabled port's: pair 10 (R242). -/
def State.lanesAgree (c : State) (p : Nat) : Bool :=
  let ls := c.portLanes p
  ls.all (fun l => decide (l < 48) && laneGroup l == laneGroup (ls.headD 0)) &&
  !(List.range 24).any fun w => w != p && c.flag 0x4400_02 w && (c.portLanes w).any ls.contains

/-- The Swage ports that outputs send on or sources are forwarded on. -/
def State.sendingPorts (c : State) : List Nat :=
  ((c.enabledOutputs.filter fun o => c.reg 0x3400_03 o == 1).map fun o => c.reg 0x3400_04 o) ++
  (c.sources.map fun p => p.2.upPort).filter (· != 0xFF)

/-- The ports that sources are forwarded on, and their twins (R344). -/
def State.forwardingPorts (c : State) : List Nat :=
  (c.sources.flatMap fun p => if p.2.upPort < 24 then [p.2.upPort, c.reg 0x5840_02 p.2.upPort] else []).filter (· < 24)

/-- Whether a port carries what it is planned to send, with an output or without (R251, R344; under pair 10 DEDUCED, log entry
183). -/
def State.portCarries (c : State) (p : Nat) : Bool := (c.portUse p c.boundRecords).le (c.portCapacity p)

/-- Whether the fields of a pair of R114 agree. -/
def State.pairAgrees (c : State) (pair : Nat) : Bool :=
  let reading := c.enabledLayers.filter c.readsSource
  match pair with
  | 1 | 2 | 3 => reading.all (c.layerFits pair)
  | 4 => (reading.filter c.isScaled).all fun i =>
      !c.enabledLayers.any fun j => j != i && c.reg 0x3000_14 j == c.reg 0x3000_14 i
  | 5 => (reading.filter fun i => !c.isScaled i).all c.plainCopy
  | 6 => (reading.filter c.isScaled).all fun i =>
      c.tableLoaded (c.reg 0x3000_1C i) && c.tableLoaded (c.reg 0x3000_1D i)
  | 7 => c.enabledLayers.all c.destinationFits
  | 8 => allEngines.all fun e => !c.isSplit e || (c.outputsOf e).all fun o => (c.pixelClock o).le splitLimit
  | 9 => c.enabledOutputs.all fun o =>
      (Frac.ofNat 25000000).le (c.pixelClock o) && (c.pixelClock o).le engineLimit
  | 10 => c.enabledOutputs.all c.egressAgrees && c.forwardingPorts.all c.portCarries &&
      (List.range 24).all fun p => !c.flag 0x4400_02 p || c.lanesAgree p
  | 11 => (List.range 16).all fun e => !c.flag 0x3080_02 e || c.regionFits e
  | 12 => (List.range 32).all fun x => !c.flag 0x3840_02 x || c.contextAgrees x
  | 13 => (List.range 32).all fun x => !c.flag 0x3840_02 x || c.formatsAgree x
  | 14 => (c.sendingPorts.all fun p => c.flag 0x4400_02 p) && (List.range 24).all c.twinAgrees
  | _ => match c.gatingOutput with | some o => c.flag 0x3400_02 o | none => true

/-- The lowest-numbered pair in disagreement (R114). -/
def State.conflict (c : State) : Option Nat := ((List.range 15).map (· + 1)).find? fun k => !c.pairAgrees k

/-! ### Composition and manual checks (R94, R138) -/

/-- The enabled layers that are bound to a scaler. -/
def State.scaledLayers (c : State) : List Nat := c.enabledLayers.filter c.isScaled

/-- Whether a layer's fetch width after pre-decimation exceeds the line buffer (R138). -/
def State.lineTooLong (c : State) (i : Nat) : Bool := 4096 < ceilDiv' (c.reg 0x3000_0C i) (c.reg 0x3000_15 i)

/-- Whether a layer's steps are those of its spans, destination and pre-decimation (R135, R138). -/
def State.stepsAgree (c : State) (i : Nat) : Bool :=
  c.reg 0x3000_18 i == scaleStep (c.reg 0x3000_16 i) (c.reg 0x3000_15 i) (c.reg 0x3000_10 i) &&
  c.reg 0x3000_19 i == scaleStep (c.reg 0x3000_17 i) 1 (c.reg 0x3000_11 i)

/-- The composition checks of R138. -/
def State.compositionCode (c : State) : Option Code :=
  if c.scaledLayers.any c.lineTooLong then some (an 0x11)
  else if !c.scaledLayers.all c.stepsAgree then some (an 0x12)
  else none

/-- The assignment of engines as placement lists it. -/
def State.engineList (c : State) : List (Nat × Nat × Nat) :=
  allEngines.flatMap fun e =>
    let split := c.isSplit e
    (List.range 2).filterMap fun k =>
      let o := c.streamOutput e k
      if o = 0xFF then none else some (o, e, if split then k + 1 else 0)

/-- The rate at which a bound source's frames come: its own, or a camera's for the slot of one of its outputs (R198,
R200). -/
def State.sourceRate (c : State) (slot : Nat) (x : Source) : Nat :=
  match c.sources.find? fun p => p.2.kind == 1 && (c.ispOutputs p.2.locator).any fun y => y.2.2 == slot with
  | some p => p.2.rate
  | none => x.rate

/-- What a bound source costs, without its layers (R82, R200). -/
def State.boundWant (c : State) (slot : Nat) (x : Source) : Want :=
  let w := c.wantOf { x.asRecord slot with rate := c.sourceRate slot x }
  { w with b := w.b.add (c.writebackCost c.engineList slot) }

/-- The target that a layer reads. -/
def State.layerTarget (c : State) (i : Nat) : Option Nat := (c.layerSource i).map (·.target)

/-- Planned traffic of a target under the configuration written (R82, R94, R167). -/
def State.manualTraffic (c : State) (t : Nat) : Frac :=
  let mine := c.sources.filter fun p => p.2.target == t
  let srcs := mine.map fun p => let w := c.boundWant p.1 p.2; w.a.add w.b
  let reads := (c.enabledLayers.filter fun i => c.readsSource i && c.layerTarget i == some t).map fun i =>
    match c.layerOutput i with
    | some o => (Frac.ofNat (roundUp (c.reg 0x3000_0C i * pixelBytes (c.reg 0x3000_08 i)) 64 * c.reg 0x3000_0D i)).mul
        (c.frameRate o)
    | none => Frac.zero
  Frac.sum ((if t < 16 then [c.holdTraffic t] else []) ++ srcs ++ reads)

/-- Whether an output has a healthy engine for its rate (R85). -/
def State.outputServed (c : State) (o : Nat) : Bool :=
  (match c.engineFor o with | some e => c.reg 0x3420_02 e != 4 | none => false) && (c.pixelClock o).le engineLimit

/-- Whether some view has more than eight layers on an output, which are its piece's stripes (R80, R94). -/
def State.tooManyStripes (c : State) : Bool :=
  c.enabledOutputs.any fun o =>
    let vs := (c.layersOf o).map fun i => c.reg 0x3000_20 i
    vs.any fun v => decide (8 < (vs.filter (· == v)).length)

/-- The checks of manual mode: outputs, then the admission table in its order (R94). Its first check and its third hold
of every configuration: there are 40 slots, and an engine has 24 layers. -/
def State.manualCode (c : State) : Option Code :=
  let outs := c.enabledOutputs
  if !outs.all c.outputServed then some (pl 0x12)
  else if !outs.all fun o => c.reg 0x3400_03 o != 0 && c.egressCarries c.boundRecords o then some (pl 0x13)
  else if !c.camerasFit (c.sources.map fun p => c.boundWant p.1 p.2) then some (pl 0x10)
  else if c.scalers.length < c.scaledLayers.length || c.tooManyStripes then some (pl 0x0D)
  else if c.sources.any fun p => p.2.bases.isEmpty then some (pl 0x0F)
  else if !memTargets.all fun t => (c.manualTraffic t).le (Frac.ofNat (c.targetCeiling t)) then some (pl 0x0E)
  else none

/-- The checks of R113 on a configuration that would result: the first failure, with its pair. -/
def State.configCode (c : State) : Option (Code × Nat) :=
  match c.conflict with
  | some k => some (cm 0x05, k)
  | none =>
    let code := match c.compositionCode with
      | some x => some x
      | none => if c.reg 0x2400_06 = 1 then c.manualCode else none
    code.map fun x => (x, 0)

/-! ### Slot and timing checks (R91, R110-R112) -/

/-- Whether a placement runs into a slot. -/
def State.placingInto (s : State) (slot : Nat) : Bool :=
  match s.smith.placing with
  | .host k _ => k == slot
  | .startUp _ => slot == 0
  | .auto _ _ => s.planInForce == slot
  | _ => false

/-- The slot checks of R112. -/
def State.slotCode (s : State) (slot : Nat) : Option Code :=
  if slot = 0xFF then none
  else if s.placingInto slot then some (cm 0x0C)
  else match Tbl.find s.smith.slots slot with
    | none => some (pl 0x16)
    | some p => if p.epoch = s.reg 0x2400_0A then none else some (pl 0x15)

/-- The wall frame at which a commit first applies, by its target, its plan or its outputs' own frames (R106, R107, R111). -/
def State.applyFrame (s : State) (p : Pending) : Option Nat :=
  match p.applyWF.toList ++ p.parts.map fun x => x.frame / s.divisor x.output with
  | [] => none
  | x :: xs => some (xs.foldl min x)

/-- Whether a commit would apply before an accepted one that still waits (R110). One with a field that applies at
acceptance, at a point of its own or with nothing to wait for can apply from now on; a field that waits for a point of its
own is overtaken by what applies at acceptance (DEDUCED, log entry 137). -/
def State.overtakes (s : State) (p : Pending) (atOnce : Bool) : Bool :=
  let mine := if atOnce || !p.rest.isEmpty then s.wf else (s.applyFrame p).getD s.wf
  s.commits.waiting.any fun q => q.ticket != p.ticket &&
    ((match s.applyFrame q with | some f => decide (mine < f) | none => false) || (atOnce && !q.rest.isEmpty))

/-- The outputs that a commit concerns. -/
def State.concerned (s : State) (p : Pending) : List Nat :=
  if p.plan.isSome || p.wall || p.fields.any fun f => wideKey f.key then s.runningOutputs
  else s.runningOutputs.filter fun o => p.fields.any fun f => (s.fieldOutputs f.key f.inst).contains o

/-- The wall time of an output's last seal before a wall frame, brought forward by the decision lead (R118). -/
def State.sealBefore (s : State) (o wf : Nat) : Nat :=
  let of := wf * s.divisor o
  ofSigned 64 ((wallOf (s.sealInstant o of) (Config.sealUp o (of - 1)) : Int) - 1000 * s.reg 0x2800_19)

/-- The wall time at which a wall frame starts (R101). -/
def State.wfStart (s : State) (wf : Nat) : Nat :=
  ofSigned 64 ((s.reg 0x2800_01 : Int) + ((wf : Int) - frameBias) * s.reg 0x2800_02 / (s.reg 0x2800_03 : Int))

/-- The device's own brought-forward seal for a target (R118). -/
def State.ownSeal (s : State) (wf : Nat) : Nat :=
  match s.runningOutputs.map (s.sealBefore · wf) with
  | [] => ofSigned 64 ((s.wfStart wf : Int) - 1000 * s.reg 0x2800_19)
  | x :: xs => xs.foldl min x

/-- Whether a wall time has been reached. -/
def State.past (s : State) (t : Nat) : Bool := 0 ≤ toSigned 64 (ofSigned 64 ((s.wall : Int) - t))

/-- The timing checks of R110 and R111. -/
def State.timingCode (s : State) (p : Pending) (atOnce : Bool) : Option Code :=
  if s.overtakes p atOnce then some (cm 0x06)
  else if p.target = 0 then none
  else if p.target ≤ s.wf then some (cm 0x03)
  else if s.wf + 1048576 < p.target then some (cm 0x02)
  else if (s.concerned p).any fun o => p.target * s.divisor o < s.reachable o then some (cm 0x04)
  else if p.wall && s.past (s.ownSeal p.target) then some (cm 0x04)
  else none

/-- The wall frame of a wall-wide commit that names none: the first whose brought-forward seals all lie ahead. -/
def State.wallTarget (s : State) : Nat :=
  let w := s.earliestWF
  match (List.range 64).find? fun k => !s.past (s.ownSeal (w + k)) with
  | some k => w + k
  | none => w + 64

/-! ### Arming (R104-R111) -/

/-- Whether a staged field applies at acceptance: it is of no class that waits (R109). An output's field waits for the
wall frame of a commit that has one. -/
def State.atOnce (s : State) (wide : Bool) (f : Staged) : Bool :=
  if wideKey f.key || planDerived f.key || ownKey f.key then false
  else if localKey f.key || sharedKey f.key then !wide && (s.fieldOutputs f.key f.inst).isEmpty
  else true

/-- The parts of a commit that its outputs apply at their own seals (R106, R108). -/
def State.partsOf (s : State) (fs : List Staged) : List Part :=
  s.runningOutputs.filterMap fun o =>
    let mine := fs.filter fun f => (localKey f.key || sharedKey f.key) && (s.fieldOutputs f.key f.inst).contains o
    if mine.isEmpty then none else some { output := o, frame := s.localFrame o, fields := mine }

/-- A commit as it is armed: when and where each staged field applies, and the fields that apply now. With a target, or
with a slot, the whole image applies at one wall frame (R111, R112). An output-local field of an output that does not run
applies at acceptance, as no seal is to come (R106; DESIGN CHOICE, log entry 160). -/
def State.arm (s : State) (p : Pending) : Pending × List Staged :=
  let image := p.image
  let wide := image.any fun f => wideKey f.key
  if p.target != 0 then ({ p with applyWF := some p.target, fields := image }, [])
  else if p.plan.isSome then ({ p with applyWF := some s.earliestWF, fields := image, lockedIn := true }, [])
  else
    let now' := image.filter (s.atOnce wide)
    let later := image.filter fun f => !s.atOnce wide f
    let own := later.filter fun f => ownKey f.key && !wideKey f.key
    let others := later.filter fun f => !(ownKey f.key && !wideKey f.key)
    if wide then ({ p with applyWF := some s.earliestWF, fields := others, rest := own, lockedIn := true }, now')
    else
      let locals := others.filter fun f => !planDerived f.key || !(s.fieldOutputs f.key f.inst).isEmpty
      let idle := others.filter fun f => planDerived f.key && (s.fieldOutputs f.key f.inst).isEmpty
      ({ p with parts := s.partsOf locals, rest := own, lockedIn := true }, now' ++ idle)

/-- Fields that apply at acceptance take effect; a new ceiling or Ingot count advances the epoch (R91, R109). -/
def State.applyNow (s : State) (fs : List Staged) : State :=
  let s1 := s.applyFields fs
  if s1.reg 0x2400_07 != s.reg 0x2400_07 || s1.reg 0x2400_08 != s.reg 0x2400_08 then s1.advanceEpoch else s1

/-- Acceptance freezes the image: its fields are clean, and the shadow writes that a plan overrides are gone (R105,
R112). -/
def State.freeze (s : State) (p : Pending) : State :=
  let mine := fun (k : Nat) => p.image.any fun f => regKey f.key f.inst == k
  let sh := s.shadow.filter fun x => !(p.plan.isSome && (planDerived (x.1 / 65536) || x.1 / 65536 == 0x2400_06))
  { s with shadow := sh.map fun x => if mine x.1 then (x.1, { x.2 with dirty := false }) else x }

/-- The shadow fields of a refused image are marked as written again (R113). -/
def State.unfreeze (s : State) (p : Pending) : State :=
  let mine := fun (k : Nat) => p.image.any fun f => regKey f.key f.inst == k
  { s with shadow := s.shadow.map fun x => if mine x.1 then (x.1, { x.2 with dirty := true }) else x }

/-! ### Tickets' ends (R110, R115-R117) -/

/-- A ticket is refused, with E-0x051 or, of a member of a wall-wide commit at its lock-in, E-0x052 (R117, R121). -/
def State.refuseTicket (s : State) (event id : Nat) (c : Code) (pair member : Nat) : State :=
  let s1 := match s.ticket? id with
    | some t => s.setTicket { t with st := .refused, code := some c, pair := pair, member := member }
    | none => s
  s1.record event (some c) id member

/-- Drop an accepted commit. -/
def State.dropCommit (s : State) (id : Nat) : State :=
  { s with commits := { s.commits with waiting := s.commits.waiting.filter fun q => q.auto || q.ticket != id } }

/-- The host commit that waits under a ticket. -/
def State.waitingCommit (s : State) (id : Nat) : Option Pending :=
  s.commits.waiting.find? fun q => !q.auto && q.ticket == id

/-- Replace a waiting host commit. -/
def State.setCommit (s : State) (p : Pending) : State :=
  { s with commits := { s.commits with waiting := s.commits.waiting.map fun q =>
      if !q.auto && q.ticket == p.ticket then p else q } }

/-! ### Requests (R103) -/

/-- The ticket sequence after another (R103). -/
def nextTicket (n : Nat) : Nat := if n = 0x3FFFFFF then 1 else n + 1

/-- The member number of this device. -/
def State.member (s : State) : Nat := s.reg 0x2400_09

/-- Whether eight accepted commits wait already, so that one more is refused (R105). -/
def State.commitsFull (s : State) : Bool := 8 ≤ (s.commits.waiting.filter fun q => !q.auto).length

/-- Why a request is refused before it is checked: eight wait (R105), or it is wall-wide on a device that is no member
or is unlocked (R119, R120). -/
def State.requestCode (s : State) (wall : Bool) : Option Code :=
  if s.commitsFull then some (cm 0x01)
  else if wall && s.reg 0x2800_06 != 0 then some (cm 0x0A)
  else if wall && s.timeState = 2 then some (cm 0x0B)
  else none

/-- A request for a commit takes its ticket (R103, R117). -/
def State.requestCommit (s : State) (slot target : Nat) (wall : Bool) : State × Nat :=
  let seq := nextTicket s.commits.seq
  let id := s.member * 2 ^ 26 + seq
  let s1 : State := { s with commits := { s.commits with seq := seq } }.addTicket { id := id }
  match s1.requestCode wall with
  | some c => (s1.refuseTicket 0x051 id c 0 0xFF, id)
  | none =>
    let p : Pending := { ticket := id, slot := slot, target := if target = 0 then 0 else namedFrame target, wall := wall }
    ({ s1 with commits := { s1.commits with requests := s1.commits.requests ++ [p] } }, id)

/-- A write of L:2800.14: request a commit of the session's slot, target and reach (R103). -/
def commitOp : WriteOp := fun s ss _ _ =>
  let r := s.requestCommit (s.fld ss 0x2800_10) (s.fld ss 0x2800_11) (s.fld ss 0x2800_12 != 0)
  let s1 := match r.1.session? ss with
    | some x => r.1.setSession (x.setFld 0x2800_15 r.2)
    | none => r.1
  (s1, { result := r.2 })

/-- A write of L:2800.17: every shadow field equals its active value again (R100). -/
def discardOp : WriteOp := fun s _ _ _ => ({ s with shadow := [] }, .ok)

/-! ### Acceptance (R104, R105, R113) -/

/-- A commit as a request describes it, with its plan, its image and, wall-wide without a target, its target. -/
def State.drawUp (s : State) (p : Pending) : Pending :=
  let plan := if p.slot = 0xFF then none else Tbl.find s.smith.slots p.slot
  { p with plan := plan, image := s.stage (p.slot != 0xFF)
           target := if p.wall && p.target = 0 then s.wallTarget else p.target }

/-- The checks of R113 on a commit that is drawn up, once fewer than eight wait: the first failure with its pair, or the
commit armed with what applies at once. -/
def State.judge (s : State) (p : Pending) : (Code × Nat) ⊕ (Pending × List Staged) :=
  match (if s.commitsFull then some (cm 0x01) else s.slotCode p.slot) with
  | some c => .inl (c, 0)
  | none =>
    let c := s.resulting.overlay { p with fields := p.image }
    match c.configCode with
    | some x => .inl x
    | none =>
      let a := s.arm p
      match s.timingCode a.1 (!a.2.isEmpty) with
      | some x => .inl (x, 0)
      | none => .inr a

/-- What will run once a commit that is armed has applied, with what waits already (R389). -/
def State.withArmed (s : State) (p : Pending) (atOnce' : List Staged) : State :=
  ({ s with commits := { s.commits with waiting := s.commits.waiting ++ [p] } } : State).withWaiting.applyFields atOnce'

/-- The domains of blocks and of the plan that a commit needs and that are not yet on; one in fault is not waited for (R389,
R390). -/
def State.domainsOff (s : State) (p : Pending) (atOnce' : List Staged) : List Nat :=
  let w := s.withArmed p atOnce'
  ((List.range 18).map (· + 6)).filter fun d => d != 20 && w.domainHeld d % 4 != 0 && s.domain d != 2 && s.domain d != 4

/-- The firmware asks for domains that a commit needs (R389). -/
def State.askDomains (s : State) (p : Pending) (atOnce' : List Staged) : State :=
  let w := s.withArmed p atOnce'
  (s.domainsOff p atOnce').foldl (fun t d => t.settleDomain w d) s

/-- A commit that passes is accepted: it waits, what applies at once does, and its ticket says when (R104, R105). -/
def State.takeCommit (s : State) (p : Pending) (atOnce' : List Staged) : State :=
  let s1 := (s.freeze p).applyNow atOnce'
  let s2 := match s1.ticket? p.ticket with
    | some t => s1.setTicket { t with acceptedAt := s1.wall }
    | none => s1
  let s3 : State := { s2 with commits := { s2.commits with waiting := s2.commits.waiting ++ [p] } }
  (if atOnce'.isEmpty then s3 else s3.noteApplied p.ticket s3.wf).settleCommits.settlePower

/-! ### Lock-in (R110, R115, R121) -/

/-- The slot checks of a waiting commit again: no placement into its slot, the slot not empty, and the epoch that of the
plan it froze (R112, R115). -/
def State.slotRecheck (s : State) (p : Pending) : Option Code :=
  match p.plan with
  | none => none
  | some q =>
    if s.placingInto p.slot then some (cm 0x0C)
    else if (Tbl.find s.smith.slots p.slot).isNone then some (pl 0x16)
    else if q.epoch != s.reg 0x2400_0A then some (pl 0x15)
    else none

/-- The commits accepted before a waiting one. -/
def State.aheadOf (s : State) (p : Pending) : State :=
  { s with commits := { s.commits with
      waiting := s.commits.waiting.takeWhile fun q => q.auto || q.ticket != p.ticket } }

/-- The checks of R113 on a waiting commit again, in their order (R115). Of the timing checks R110's is left: a target
that a step of time has passed applies at the next frame (R286). -/
def State.recheck (s : State) (p : Pending) : Option (Code × Nat) :=
  match s.slotRecheck p with
  | some c => some (c, 0)
  | none =>
    match s.resulting.configCode with
    | some x => some x
    | none =>
      let ahead := s.aheadOf p
      let host : State := { ahead with commits := { ahead.commits with waiting := ahead.commits.waiting.filter fun q => !q.auto } }
      if host.overtakes p false then some (cm 0x06, 0) else none

/-- A waiting commit that fails its lock-in: nothing of it applies, and its image is in the shadow as written. -/
def State.failLockIn (s : State) (p : Pending) (c : Code) (pair : Nat) : State :=
  ((s.dropCommit p.ticket).unfreeze p).refuseTicket (if p.wall then 0x052 else 0x051) p.ticket c pair
    (if p.wall then s.member else 0xFF)

/-- The lock-in of a waiting commit: a wall-wide one must hold Go, and every one passes its checks again (R115, R118,
R121). -/
def State.lockIn (s : State) (p : Pending) : State :=
  if p.lockedIn then s
  else if p.wall && p.go != some true then s.failLockIn p (cm 0x09) 0
  else match s.recheck p with
    | some x => s.failLockIn p x.1 x.2
    | none => s.setCommit { p with lockedIn := true }

/-- Whether a seal has latched a commit into the coming frame of an output (R102). -/
def State.latched (s : State) (p : Pending) : Bool :=
  s.runningOutputs.any fun o =>
    let x := s.output o
    x.sealed && (p.wideDue (s.divisor o) x.nextOf || p.partDue o x.nextOf)

/-- The commit of an automatic re-plan is accepted ahead of every other, which are checked again at their lock-in; those
that name a plan slot then fail it, but one that a seal has latched is past it (R92, R102, R110). The epoch 2^32 is no device's. A commit that waits for points of its own,
whose time nothing foretells, is checked again here (R115; DEDUCED, log entry 137). -/
def State.takeAuto (s : State) (p : Plan) : State :=
  let q : Pending :=
    { ticket := 0, slot := s.planSlot, auto := true, plan := some p, applyWF := some s.earliestWF, lockedIn := true }
  let rest := s.commits.waiting.map fun x =>
    if x.auto then x
    else { x with lockedIn := x.parts.any (·.done) || x.first.isSome || (x.lockedIn && s.latched x), plan := x.plan.map fun y => { y with epoch := 2 ^ 32 } }
  let s1 : State := { s with commits := { s.commits with waiting := q :: rest } }
  (rest.foldl (fun (t : State) x => if x.auto || x.rest.isEmpty then t else t.lockIn x) s1).settlePower

/-- Whether an output's frame `of` is one at which a commit that waits would apply, wide or in a part. -/
def Pending.latchedAt (p : Pending) (s : State) (o of : Nat) : Bool :=
  (match p.applyWF with | some w => decide (w * s.divisor o ≤ of) | none => false) ||
  p.parts.any fun x => x.output == o && !x.done && decide (x.frame ≤ of)

/-- Whether the next seal of some output, or with none running the next wall frame, is the last before a commit's apply
frame. -/
def State.lockInDue (s : State) (p : Pending) : Bool :=
  match s.runningOutputs with
  | [] => (match p.applyWF with | some w => decide (w ≤ s.wf + 1) | none => true)
  | os => os.any fun o => p.latchedAt s o (s.reachable o)

/-- The commits that an output's coming seal would latch pass their lock-in (R102, R115). -/
def State.lockInFor (s : State) (o of : Nat) : State :=
  s.commits.waiting.foldl (fun t p =>
    if p.latchedAt t o of then
      match t.waitingCommit p.ticket with
      | some q => if p.auto then t else t.lockIn q
      | none => t
    else t) s

/-- With no output running, the commits whose wall frame has come apply (R107, R111). -/
def State.installIdle (s : State) : State :=
  if !s.runningOutputs.isEmpty then s
  else s.commits.waiting.foldl (fun t p => if p.wideDue 1 t.wf then t.installWide p t.wf else t) s

/-- A waiting commit is cancelled (R116). -/
def State.cancelCommit (s : State) (id : Nat) : State :=
  let s1 := s.dropCommit id
  let s2 : State := { s1 with commits := { s1.commits with requests := s1.commits.requests.filter fun q => q.ticket != id } }
  let s3 := match s2.ticket? id with
    | some t => s2.setTicket { t with st := .cancelled }
    | none => s2
  (s3.record 0x053 none id 0xFF).settlePower

/-- Whether a ticket names a commit that waits and has not passed its lock-in (R116); one that waits only for points of
its own passes it as the first of them comes (DEDUCED, log entry 137). -/
def State.cancellable (s : State) (id : Nat) : Bool :=
  (s.commits.requests.any fun q => q.ticket == id) ||
  match s.waitingCommit id with
  | some p => !p.lockedIn || (p.applyWF.isNone && p.parts.isEmpty && p.first.isNone)
  | none => false

/-! ### Commands -/

/-- COMMIT (R103). -/
def execCommit (ss v : Nat) (s : State) : Out :=
  whenManaged s fun s => s.ledgerWrite ss 0x2800_14 (.num v) commitOp

/-- DISCARD_SHADOW (R100). -/
def execDiscardShadow (ss v : Nat) (s : State) : Out :=
  whenManaged s fun s => s.ledgerWrite ss 0x2800_17 (.num v) discardOp

end Sys2Proof.Machine
end

