-- ==== Sys2Proof/Machine/Wall.lean ====
section
/-! DEFINITION. Wall-wide commits and membership (R118-R121, R260), and the commands by which commits are accepted, locked in
and cancelled. -/

namespace Sys2Proof.Machine

set_option Elab.async false

/-! ### Messages (R260) -/

/-- The byte that names a code's prefix in a wall commit message (R260; log entry 40). -/
def prefixByte (c : Code) : Byte :=
  Config.wallPrefix (match c.sub with | .PL => 1 | .AN => 2 | _ => 0)

/-- The payload of a wall commit message of a step: 1 Prepare, 2 Ready, 3 Refuse, 4 Go, 5 Abort, 6 Applied (R260). -/
def wallPayload (step : Nat) (m : WallMsg) : Bytes :=
  [byte step, byte m.code, byte m.codePrefix, 0] ++ beBytes 4 m.ticket ++ beBytes 8 (shownFrame m.target) ++ [byte m.slot, 0] ++
    beBytes 4 m.tag ++ [0, 0] ++ beBytes 8 m.sealTime

/-- A wall commit message read from its payload, from a member (R260). -/
def wallMessage (member : Nat) (b : Bytes) : WallMsg :=
  { member := member, code := field b 1 1, codePrefix := field b 2 1, ticket := field b 4 4, target := field b 8 8
    slot := field b 16 1, tag := field b 18 4, sealTime := field b 24 8 }

/-- The payload of a wall presence message (R260). -/
def State.presencePayload (s : State) : Bytes :=
  beBytes 4 s.fuses.wallAlias ++ [byte s.member, byte (s.reg 0x1000_05), byte (s.reg 0x5800_03), 0] ++
    beBytes 8 Config.serialNumber.toNat

/-! ### Membership (R120) -/

/-- How long presence counts, in ns (R120). -/
def presenceSpan : Nat := 300 * milli

/-- The members heard within the last 300 ms (R120). -/
def State.heardMembers (s : State) : List WallMember :=
  s.commits.members.filter fun m => decide (s.now < m.heard + presenceSpan)

/-- L:2800.05: the members present, this device among them once it has joined (R118, R120). -/
def State.membership (s : State) : Nat :=
  let heard := s.heardMembers.foldl (fun n m => withBit n m.number true) 0
  if s.reg 0x2800_06 = 0 then withBit heard s.member true else heard

/-- The other members present, in rising order. -/
def State.otherMembers (s : State) : List Nat :=
  (List.range 64).filter fun m => m != s.member && bitAt s.membership m

/-- The members heard under another number than this device's. -/
def State.heardOthers (s : State) : List WallMember := s.heardMembers.filter fun m => m.number != s.member

/-- The ports on which members are heard. -/
def State.wallPorts (s : State) : List Nat :=
  (List.range 24).filter fun p => s.heardOthers.any fun m => m.port == p

/-- The member heard on a port, by which a wall commit message's sender is known (DEDUCED, log entry 41). -/
def State.memberOn (s : State) (p : Nat) : Nat :=
  match s.heardOthers.find? fun m => m.port == p with
  | some m => m.number
  | none => 0xFF

/-- Send a wall commit message to every member. -/
def State.broadcast (s : State) (step : Nat) (m : WallMsg) : State :=
  s.wallPorts.foldl (fun t p => t.sendMessage p 3 (wallPayload step m)) s

/-- The device listens before it joins: its number or alias has changed (R120). -/
def State.listen (s : State) : State :=
  { s with commits := { s.commits with listenSince := some s.now } }.setReg 0x2800_06 0 1

/-- The device is excluded by another that holds its number (R120). -/
def State.exclude (s : State) (serial : Nat) : State :=
  (s.setReg 0x2800_06 0 2).record 0x054 (some (cm 0x0E)) s.member serial

/-- Whether presence under this device's number may be its pair partner's: a pair counts as one member (R120), and a device
that is not the Active has a partner that is, or has just been; one that still decides has an Active for a partner where PAIR_ACT_I is high (R339, R340; DEDUCED,
log entry 127). -/
def State.maybePartner (s : State) (pairState : Nat) : Bool :=
  pairState != 0 && ([4, 5, 6, 7].contains (s.reg 0x5800_03) || (s.reg 0x5800_03 == 1 && s.pins.pairActI))

/-- Presence of another device under this device's number: one that listens is excluded, and of two that have joined the
lower serial number keeps it (R27, R120). -/
def State.clash (s : State) (pairState serial : Nat) : State :=
  if s.maybePartner pairState then s
  else match s.reg 0x2800_06 with
    | 1 => s.exclude serial
    | 0 => if serial < Config.serialNumber.toNat then s.exclude serial else s
    | _ => s

/-- Presence of a member; another device under this device's own number counts as present too, and clashes (R27, R120). -/
def State.takePresence (s : State) (port aliasNo member pairState serial : Nat) : State :=
  if aliasNo != s.fuses.wallAlias || 64 ≤ member || serial == Config.serialNumber.toNat then s
  else
    let m : WallMember := { number := member, serial := serial, pair := pairState, heard := s.now, port := port }
    let left := s.commits.members.filter fun x => !(x.number == member && x.serial == serial)
    let s1 : State := { s with commits := { s.commits with members := m :: left } }
    if member = s.member then s1.clash pairState serial else s1

/-- Whether the device may send presence: of a pair the Active alone does (R339). -/
def State.presents (s : State) : Bool := [0, 2, 3].contains (s.reg 0x5800_03)

/-- A member sends presence on every port in service: outbound traffic is not limited by trust (R260, R263; DEDUCED, log
entry 42). -/
def State.sendPresence (s : State) : State :=
  let ports := (List.range 24).filter s.portInService
  let s1 := ports.foldl (fun (t : State) p => t.sendMessage p 4 t.presencePayload) s
  { s1 with commits := { s1.commits with lastPresence := some s.now } }

/-- A write of L:2400.09: a new number is listened for (R67, R120). -/
def memberNumberOp : WriteOp := fun s _ _ v =>
  if v.n = s.member then (s, .ok) else ((s.setReg 0x2400_09 0 v.n).listen, .ok)

/-! ### The coordinator (R118) -/

/-- The message that names a wall-wide commit. -/
def State.wallMsgOf (s : State) (p : Pending) : WallMsg :=
  { member := s.member, ticket := p.ticket, target := p.target, slot := p.slot
    tag := (match p.plan with | some q => q.tag | none => 0), sealTime := s.ownSeal p.target }

/-- A wall-wide commit that its coordinator has accepted: Prepare goes to every member (R118 steps 1 and 2). -/
def State.lead (s : State) (id : Nat) : State :=
  match s.waitingCommit id with
  | none => s
  | some p =>
    if !p.wall then s
    else
      let q := { p with coordinator := some s.member, members := s.otherMembers, deadline := s.ownSeal p.target }
      (s.setCommit q).broadcast 1 (s.wallMsgOf q)

/-- A wall-wide commit that this device leads and has not decided. -/
def State.leading (s : State) (id : Nat) : Option Pending :=
  match s.waitingCommit id with
  | some p => if p.wall && p.coordinator == some s.member && p.go.isNone then some p else none
  | none => none

/-- A member's Ready: its seal may bring the deadline forward; one that comes when the deadline has passed, with its own seal
counted, is no answer before it (R118 step 4). -/
def State.takeReady (s : State) (m : WallMsg) : State :=
  match s.leading m.ticket with
  | some p =>
    if !p.members.contains m.member then s
    else
      let d := min p.deadline m.sealTime
      if s.past d then s.setCommit { p with deadline := d }
      else s.setCommit { p with answers := Tbl.put p.answers m.member m.sealTime, deadline := d }
  | none => s

/-- A member's Refuse (R118). -/
def State.takeRefuse (s : State) (m : WallMsg) : State :=
  match s.leading m.ticket with
  | some p =>
    if !p.members.contains m.member then s
    else s.setCommit { p with refusedBy := some (p.refusedBy.getD (m.member, cm m.code)) }
  | none => s

/-- The first member that refused, or else that did not answer. -/
def Pending.holdOut (p : Pending) : Option Nat :=
  match p.refusedBy with
  | some x => some x.1
  | none => p.members.find? fun m => (Tbl.find p.answers m).isNone

/-- The decision of a commit that this device leads (R118 step 4). -/
def State.decideWall (s : State) (p : Pending) : State :=
  match p.holdOut with
  | none =>
    let s1 := s.setCommit { p with go := some true }
    { s1 with commits := { s1.commits with reports := (p.ticket, p.members, p.target) :: s1.commits.reports } }.broadcast 4
      (s.wallMsgOf p)
  | some m =>
    (((s.dropCommit p.ticket).refuseTicket 0x051 p.ticket (cm 0x08) 0 m).broadcast 5 (s.wallMsgOf p)).settlePower

/-! ### A member (R118, R119) -/

/-- Why a member refuses a Prepare, or the commit armed (R118 step 3, R119). -/
def State.judgePrepare (s : State) (p : Pending) (tag : Nat) : (Code × Nat) ⊕ (Pending × List Staged) :=
  if (s.requestCode true).isSome then .inl ((s.requestCode true).getD (cm 0x0A), 0)
  else match s.slotCode p.slot with
    | some c => .inl (c, 0)
    | none =>
      match p.plan with
      | some q => if q.tag = tag then s.judge p else .inl (cm 0x0D, 0)
      | none => s.judge p

/-- A Prepare is served: the member freezes its image, checks it, and answers (R118 step 3); one that needs domains which are
not on waits for them first (R389). -/
def State.servePrepare (s : State) (r : Pending) (port tag : Nat) : State :=
  let p := s.drawUp r
  match s.judgePrepare p tag with
  | .inl (c, pair) =>
    let answer := { s.wallMsgOf p with code := c.val, codePrefix := (prefixByte c).toNat }
    (s.refuseTicket 0x051 r.ticket c pair s.member).sendMessage port 3 (wallPayload 3 answer)
  | .inr (a, now') =>
    if !(s.domainsOff a now').isEmpty then
      { s with commits := { s.commits with requests := r :: s.commits.requests } }.askDomains a now'
    else (s.takeCommit a now').sendMessage port 3 (wallPayload 2 (s.wallMsgOf p))

/-- Prepare (R118 step 3). -/
def State.takePrepare (s : State) (port : Nat) (m : WallMsg) : State :=
  if m.member = s.member || (s.waitingCommit m.ticket).isSome || (s.commits.requests.any fun q => q.ticket == m.ticket) then s
  else (s.addOther { id := m.ticket }).servePrepare
    { ticket := m.ticket, slot := m.slot, target := namedFrame m.target, wall := true, coordinator := some m.member
      asked := some (port, m.tag) } port m.tag

/-- Go: the member holds the decision (R118 steps 4 and 5). -/
def State.takeGo (s : State) (m : WallMsg) : State :=
  match s.waitingCommit m.ticket with
  | some p => if p.coordinator = some m.member && m.member != s.member then s.setCommit { p with go := some true } else s
  | none => s

/-- Abort: the member discards its staged image (R118 step 4), or the Prepare that it has not armed yet. -/
def State.takeAbort (s0 : State) (m : WallMsg) : State :=
  let mine := fun (q : Pending) => q.ticket == m.ticket && q.asked.isSome && q.coordinator == some m.member
  let s1 : State := { s0 with commits := { s0.commits with requests := s0.commits.requests.filter fun q => !mine q } }
  let s := if s0.commits.requests.any mine then s1.refuseTicket 0x051 m.ticket (cm 0x08) 0 0xFF else s0
  match s.waitingCommit m.ticket with
  | some p =>
    if p.coordinator = some m.member && m.member != s.member && !p.lockedIn then
      ((s.dropCommit m.ticket).refuseTicket 0x051 m.ticket (cm 0x08) 0 0xFF).settlePower
    else s
  | none => s

/-- Whether a ticket's commit has begun to apply. -/
def State.begun (s : State) (id : Nat) : Bool :=
  match s.ticket? id with
  | some t => t.first.isSome
  | none => false

/-- The wall-wide commits of others that have applied since `old` are reported to their coordinators (R121). -/
def State.reportApplied (s old : State) : State :=
  old.commits.waiting.foldl (fun t p =>
    match p.coordinator with
    | some c =>
      if p.wall && c != t.member && !old.begun p.ticket && t.begun p.ticket then
        match t.commits.members.find? fun m => m.number == c with
        | some m => t.sendMessage m.port 3 (wallPayload 6 (t.wallMsgOf p))
        | none => t
      else t
    | none => t) s

/-! ### Commands -/

/-- The oldest request is served: refused, or armed once every domain that it needs is on (R104, R105, R113, R118, R389). -/
def State.serveRequest (s : State) (r : Pending) : State :=
  match s.judge (s.drawUp r) with
  | .inl (c, pair) => s.refuseTicket 0x051 r.ticket c pair 0xFF
  | .inr (a, now') =>
    if !(s.domainsOff a now').isEmpty then
      { s with commits := { s.commits with requests := r :: s.commits.requests } }.askDomains a now'
    else (s.takeCommit a now').lead r.ticket

/-- COMMIT_ACCEPT (R104): the oldest request, or a Prepare that waited. -/
def execCommitAccept (s : State) : Out :=
  whenManaged s fun s =>
    match s.commits.requests with
    | [] => s
    | r :: rest =>
      let s1 : State := { s with commits := { s.commits with requests := rest } }
      match r.asked with
      | some x => s1.servePrepare r x.1 x.2
      | none => s1.serveRequest r

/-- COMMIT_LOCK_IN (R115, R121): at the last arm before the apply frame. -/
def execCommitLockIn (ticket : Nat) (s : State) : Out :=
  whenManaged s fun s =>
    let s1 := match s.waitingCommit ticket with
      | some p => if s.lockInDue p then s.lockIn p else s
      | none => s
    (s1.installIdle.settleCommits.reportApplied s).settlePower

/-- A write of L:2800.16 (R116); a cancelled wall-wide commit that this device leads is aborted on every member. -/
def cancelOp : WriteOp := fun s _ _ v =>
  if !s.cancellable v.n then (s, .no (cm 0x07))
  else
    let s1 := s.cancelCommit v.n
    match s.leading v.n with
    | some p => (s1.broadcast 5 (s.wallMsgOf p), .ok)
    | none => (s1, .ok)

/-- CANCEL (R116). -/
def execCancel (ss ticket : Nat) (s : State) : Out :=
  whenManaged s fun s => s.ledgerWrite ss 0x2800_16 (.num ticket) cancelOp

/-- A wall commit or presence message on a port acts where the port's trust admits it (R263). -/
def whenTrusted (p kind : Nat) (s : State) (f : State → State) : Out :=
  whenManaged s fun s => let r := s.admitMessage p kind; if r.2 then f r.1 else r.1

/-- PREPARE (R118). -/
def execPrepare (port : Fin 24) (m : WallMsg) (s : State) : Out := whenTrusted port 3 s fun s => s.takePrepare port m

/-- READY (R118). -/
def execReady (port : Fin 24) (m : WallMsg) (s : State) : Out := whenTrusted port 3 s fun s => s.takeReady m

/-- REFUSE (R118). -/
def execRefuse (port : Fin 24) (m : WallMsg) (s : State) : Out := whenTrusted port 3 s fun s => s.takeRefuse m

/-- DECISION_DEADLINE (R118): Go if every member answered Ready, otherwise Abort. -/
def execDecisionDeadline (ticket : Nat) (s : State) : Out :=
  whenManaged s fun s =>
    match s.leading ticket with
    | some p => if s.past p.deadline then s.decideWall p else s
    | none => s

/-- GO (R118). -/
def execGo (port : Fin 24) (m : WallMsg) (s : State) : Out := whenTrusted port 3 s fun s => s.takeGo m

/-- ABORT (R118). -/
def execAbort (port : Fin 24) (m : WallMsg) (s : State) : Out := whenTrusted port 3 s fun s => s.takeAbort m

/-- An applied report (R121). -/
def State.takeApplied (s : State) (m : WallMsg) : State :=
  { s with commits := { s.commits with reports := s.commits.reports.map fun r =>
      if r.1 == m.ticket then (r.1, r.2.1.filter (· != m.member), r.2.2) else r } }

/-- APPLIED (R121). -/
def execApplied (port : Fin 24) (m : WallMsg) (s : State) : Out := whenTrusted port 3 s fun s => s.takeApplied m

/-- APPLIED_REPORT_TIMEOUT (R121): 4 wall frames after the target. -/
def execAppliedReportTimeout (ticket : Nat) (s : State) : Out :=
  whenManaged s fun s =>
    match s.commits.reports.find? fun r => r.1 == ticket with
    | none => s
    | some r =>
      if s.wf < r.2.2 + 4 then s
      else
        let left := s.commits.reports.filter fun x => x.1 != ticket
        r.2.1.foldl (fun (t : State) (m : Nat) => t.record 0x052 (some (cm 0x09)) ticket m)
          { s with commits := { s.commits with reports := left } }

/-- WALL_PRESENCE (R120). -/
def execWallPresence (port : Fin 24) (wallAlias member _role pairState serial : Nat) (s : State) : Out :=
  whenTrusted port 4 s fun s => s.takePresence port wallAlias member pairState serial

/-- PRESENCE_SEND (R260): every 100 ms, by a member. -/
def execPresenceSend (s : State) : Out :=
  whenManaged s fun s =>
    let due := match s.commits.lastPresence with
      | some t => decide (t + 100 * milli ≤ s.now)
      | none => true
    if s.reg 0x2800_06 = 0 && s.presents && due then s.sendPresence else s

/-- MEMBER_PRESENCE_TIMEOUT (R120). -/
def execMemberPresenceTimeout (member : Fin 64) (s : State) : Out :=
  whenManaged s fun s =>
    let left := s.commits.members.filter fun m => m.number != member.val || decide (s.now < m.heard + presenceSpan)
    { s with commits := { s.commits with members := left } }

/-- JOIN_LISTEN_END (R120): 300 ms of listening without a clash. -/
def execJoinListenEnd (s : State) : Out :=
  whenManaged s fun s =>
    match s.commits.listenSince with
    | some t => if s.reg 0x2800_06 = 1 && t + presenceSpan ≤ s.now then s.setReg 0x2800_06 0 0 else s
    | none => s

/-- MEMBER_NUMBER_WRITE (R67, R120). -/
def execMemberNumberWrite (ss v : Nat) (s : State) : Out :=
  whenManaged s fun s => s.ledgerWrite ss 0x2400_09 (.num v) memberNumberOp

end Sys2Proof.Machine
end

