-- ==== Sys2Proof/Machine/Placement.lean ====
section
/-! DEFINITION. Placement (R89-R93, R399), automatic re-plans and the recovery actions of the firmware (R332-R337). -/

namespace Sys2Proof.Machine

set_option Elab.async false

/-! ### Placement ends (R89-R92, R399) -/

/-- The state whose shadow is what placement read when it started (R85, R146). -/
def State.asStarted (s : State) : State := { s with shadow := s.smith.inputs }

/-- No placement runs any more, but the start-up scene's where that has waited (R399). -/
def State.endPlacing (s : State) : State :=
  let s1 : State := { s with smith := { s.smith with placing := .idle, inputs := [] } }
  if s1.smith.startUpDue then s1.placeStartUp else s1

/-- A host placement into a slot, or the start-up one, has ended (R89, R399). The start-up placement leaves the entries
that report host placements as they are; its plan is committed, or refused whole it leaves E-0x101 with its code, which names
the management function (DESIGN CHOICE, log entry 150), and slot 0 its report. -/
def State.placed (s : State) (slot : Nat) (scene : Bytes) (timeUs : Nat) (host : Bool) : State :=
  let s1 := s.endPlacing
  match s.asStarted.smithPlan scene slot timeUs false with
  | .inl (code, report) =>
    if host then s1.placementResult 3 code report
    else (s1.setBlob (0x2410_01 + slot) 0 report).record 0x101 (some (pl code)) 0 (s1.now / 1000)
  | .inr p =>
    let s2 := s1.storePlan slot p
    if host then s2.placementResult 2 0 p.report else (s2.requestCommit slot 0 false).1

/-- A dry run has ended: it reports and stores nothing (R89). -/
def State.dried (s : State) (scene : Bytes) (timeUs : Nat) : State :=
  let s1 := s.endPlacing
  match s.asStarted.smithPlan scene 0xFF timeUs false with
  | .inl (code, report) => s1.placementResult 3 code report
  | .inr p => s1.placementResult 2 0 p.report

/-- Whether a plan withdraws a view to a veil (R93). -/
def Plan.withdraws (p : Plan) : Bool := !p.withdrawn.isEmpty

/-- A re-plan's result takes the place of the plan in force, in its slot or held apart, and is committed at once (R92). -/
def State.replanned (s : State) (p : Plan) : State :=
  let s1 : State := if s.planSlot < 4 then
      { s with smith := { s.smith with slots := Tbl.put s.smith.slots s.planSlot p } }.setBlob (0x2410_01 + s.planSlot) 0
        p.report
    else s
  let s2 := ({ s1 with recover := { s1.recover with replanned := true } }.bump 0x2400_0C).takeAuto p
  if p.withdraws then s2.escalate 2 else s2

/-- An automatic placement has ended; with another plan in force or another epoch it runs again (R92, R333). The report
of a plan held apart names slot 0xFE (DEDUCED, log entry 43). A commit that needs domains which are not on waits for them
(R389). -/
def State.autoPlaced (s : State) (scene : Bytes) (epoch timeUs : Nat) : State :=
  match s.plan with
  | none => s.endPlacing.endRecovery
  | some q =>
    if q.scene != scene || epoch != s.reg 0x2400_0A then
      { s with smith := { s.smith with placing := .auto q.scene (s.reg 0x2400_0A), inputs := s.shadow } }
    else match s.asStarted.smithPlan scene s.planSlot timeUs true with
      | .inl _ => { s with recover := { s.recover with replanned := true } }.endPlacing.endRecovery
      | .inr p =>
        let q : Pending := { ticket := 0, slot := s.planSlot, auto := true, plan := some p }
        if (s.domainsOff q []).isEmpty then s.endPlacing.replanned p else s.askDomains q []

/-! ### Starting a re-plan (R92, R333) -/

/-- Whether an automatic re-plan's commit waits. -/
def State.autoWaits (s : State) : Bool := s.commits.waiting.any (·.auto)

/-- Whether the recovery action in progress calls for a re-plan: an evacuation does once, and while a source is left on its
channel (R92, R327). -/
def State.replanDue (s : State) : Bool :=
  match s.recover.active with
  | some (.replan _) => true
  | some (.evacuate c) => !s.recover.replanned || s.sources.any fun p => p.2.target == c
  | _ => false

/-- A re-plan's placement starts, once nothing else is placed; manual mode makes none (R92, R94). -/
def State.startReplan (s : State) : State :=
  if !s.replanDue || s.smith.placing != .idle || s.recover.subst.isSome || s.autoWaits then s
  else match s.plan with
    | some p =>
      if s.reg 0x2400_06 = 0 then
        { s with smith := { s.smith with placing := .auto p.scene (s.reg 0x2400_0A), inputs := s.shadow } }
      else if s.replanning then s.endRecovery else s
    | none => if s.replanning then s.endRecovery else s

/-! ### Engine tables (R174, R337) -/

/-- Whether an entry is a layer's. -/
def layerKey (key : Nat) : Bool := 0x3000_03 ≤ key && key ≤ 0x3000_20

/-- Entries of a table with the layers of engine `a` moved to engine `b`, whose own are gone. -/
def moveLayers {α : Type} (a b : Nat) (t : Tbl α) : Tbl α :=
  let mine := fun (e : Nat) (p : Nat × α) => layerKey (p.1 / 65536) && p.1 % 65536 / 24 == e
  let moved := (t.filter (mine a)).map fun p => (p.1 - 24 * a + 24 * b, p.2)
  let rest := t.filter fun p => !mine a p && !mine b p
  moved.foldl (fun (acc : Tbl α) p => Tbl.put acc p.1 p.2) rest

/-- The layer tables and outputs of engine `a` move to engine `b` (R174, R337; log entry 44). -/
def State.moveEngine (s : State) (a b : Nat) : State :=
  let outs := s.reg 0x3420_03 a
  let s1 : State := { s with regs := moveLayers a b s.regs, blobs := moveLayers a b s.blobs }
  (s1.setReg 0x3420_03 b outs).setReg 0x3420_03 a 0xFFFF

/-- A switch-back is complete: the repaired engine serves, its reserve is free (R337). -/
def State.switchBack (s : State) (e : Nat) : State :=
  match s.reserveOf e with
  | none => s.endRecovery
  | some r =>
    let s1 := (((s.moveEngine r e).setReg 0x3420_02 e 1).setReg 0x3420_02 r 2).setReg 0x3420_05 r 0xFF
    let s2 := s1.setEngine e { s1.engine e with tested := false }
    let s3 : State := { s2 with recover := { s2.recover with backWF := none } }
    (s3.record 0x0D6 (some (pa 0x0D)) 0 s3.imageGen).endRecovery

/-- A switch-back in progress moves at the frame it waits for (R107, R337). -/
def State.switchBackAt (s : State) (o of : Nat) : State :=
  match s.recover.active, s.recover.backWF with
  | some (.switchBack e), some w => if w * s.divisor o ≤ of then s.switchBack e else s
  | _, _ => s

/-- Whether an engine can be switched back: it passed its test, and a reserve serves for it (R337). -/
def State.canSwitchBack (s : State) (e : Nat) : Bool := (s.engine e).tested && (s.reserveOf e).isSome

/-! ### The recovery queue (R333) -/

/-- A recovery action leaves the queue and is checked again: it starts, or its cause has gone (R333). -/
def State.startRecovery (s : State) (r : Recovery) : State :=
  match r with
  | .replan c =>
    if s.reg 0x2400_06 = 0 && s.plan.isSome && s.causeStands c then
      { s with recover := { s.recover with active := some (.replan c) } }
    else s
  | .evacuate c => if (s.evacRefusal c).isNone then s.enterEvacuation c else s
  | .laneRetrain l =>
    let inService := match s.portOfLane l with | some p => s.portInService p | none => false
    if inService && [2, 11].contains (s.reg 0x4000_02 l) then
      { s with recover := { s.recover with active := some (.laneRetrain l) } }.startRetrain l
    else s
  | .switchBack e =>
    if !s.canSwitchBack e then s
    else
      let s1 : State := { s with recover := { s.recover with active := some (.switchBack e), backWF := some s.earliestWF } }
      if s.runningOutputs.isEmpty then s1.switchBack e else s1
  | .laneBack l => s.startLaneBack l

/-! ### Commands -/

/-- PLACE (R89). -/
def execPlace (ss v : Nat) (s : State) : Out :=
  whenManaged s fun s => s.ledgerWrite ss 0x2400_02 (.num v) placeOp

/-- DRY_RUN (R89). -/
def execDryRun (ss : Nat) (s : State) : Out :=
  whenManaged s fun s => s.ledgerWrite ss 0x2400_02 (.num 0x10) placeOp

/-- PLACEMENT_DONE (R89, R399): a placement waits while an engine substitution runs (R333). -/
def execPlacementDone (timeUs : Nat) (s : State) : Out :=
  whenManaged s fun s =>
    if s.recover.subst.isSome then s
    else match s.smith.placing with
      | .host slot scene => s.placed slot scene timeUs true
      | .startUp scene => s.placed 0 scene timeUs false
      | .dry scene => s.dried scene timeUs
      | _ => s

/-- EMPTY_SLOT (R91). -/
def execEmptySlot (ss v : Nat) (s : State) : Out :=
  whenManaged s fun s => s.ledgerWrite ss 0x2410_09 (.num v) emptySlotOp

/-- AUTOMATIC_REPLAN_START (R92). -/
def execAutomaticReplanStart (s : State) : Out := whenManaged s fun s => s.startReplan

/-- AUTOMATIC_REPLAN_DONE (R92, R93, R333). -/
def execAutomaticReplanDone (timeUs : Nat) (s : State) : Out :=
  whenManaged s fun s =>
    if s.recover.subst.isSome then s
    else match s.smith.placing with
      | .auto scene epoch => s.autoPlaced scene epoch timeUs
      | _ => s

/-- RECOVERY_ACTION_START (R333). -/
def execRecoveryActionStart (s : State) : Out :=
  whenManaged s fun s =>
    if s.recovering != 0 then s
    else match s.recover.queue with
      | [] => s
      | r :: rest => { s with recover := { s.recover with queue := rest } }.startRecovery r

/-- A write of L:5810.04: a failed engine's internal checks run (R337); on another engine there is nothing to test (log
entry 45). -/
def testEngineOp : WriteOp := fun s _ _ v =>
  if s.reg 0x3420_02 v.n = 4 then
    ({ s with recover := { s.recover with testing := some v.n } }.setReg 0x5810_05 0 1, .ok)
  else (s, .ok)

/-- TEST_ENGINE (R337). -/
def execTestEngine (ss v : Nat) (s : State) : Out :=
  whenManaged s fun s => s.ledgerWrite ss 0x5810_04 (.num v) testEngineOp

/-- The engine test has ended (R91, R337). -/
def State.endTest (s : State) (e : Nat) (passed : Bool) : State :=
  let s1 : State := { s with recover := { s.recover with testing := none } }.setReg 0x5810_05 0 (if passed then 2 else 3)
  if passed && s1.reg 0x3420_02 e = 4 then
    ((s1.setReg 0x3420_02 e 0).setEngine e { s1.engine e with tested := true }).advanceEpoch
  else s1

/-- ENGINE_TEST_DONE (R337). -/
def execEngineTestDone (passed : Bool) (s : State) : Out :=
  whenManaged s fun s =>
    match s.recover.testing with
    | some e => s.endTest e passed
    | none => s

/-- A write of L:5810.03 (R337); with the recovery queue full it is refused as well (DEDUCED, log entry 45). -/
def switchBackEngineOp : WriteOp := fun s _ _ v =>
  if !s.canSwitchBack v.n || 8 ≤ s.recover.queue.length then (s, .no (pa 0x0C))
  else ({ s with recover := { s.recover with queue := s.recover.queue ++ [.switchBack v.n] } }, .ok)

/-- SWITCH_BACK_ENGINE (R337). -/
def execSwitchBackEngine (ss v : Nat) (s : State) : Out :=
  whenManaged s fun s => s.ledgerWrite ss 0x5810_03 (.num v) switchBackEngineOp

end Sys2Proof.Machine
end

