-- ==== Sys2Proof/Machine/Freshness.lean ====
section
/-! DEFINITION. The decision at the seal (R40-R56, R125-R127): what each view group shows, and the bank that an output's next
frame is composed from. -/

namespace Sys2Proof.Machine

set_option Elab.async false

/-! ### Sources (R42) -/

/-- The Swage port on which a source's frames come: the one bound, or the last they arrived on. -/
def State.inboundPort (s : State) (slot : Nat) : Nat :=
  if s.reg 0x4410_02 slot = 0xFF then s.reg 0x4410_09 slot else s.reg 0x4410_02 slot

/-- Whether a source's ingest path is down because of a fault (R42). -/
def State.sourceFaulted (s : State) (slot : Nat) : Bool :=
  match s.source slot with
  | none => false
  | some x =>
    if x.kind = 1 then s.reg 0x3800_07 (s.reg 0x3840_03 x.locator) == 4 || s.inFault 14 || s.pipelines.isEmpty
    else x.kind == 2 && s.inboundPort slot < 24 && s.reg 0x4400_09 (s.inboundPort slot) == 3

/-- Whether a source's path is down without a fault (R42). -/
def State.sourceAbsent (s : State) (slot : Nat) : Bool :=
  match s.source slot with
  | none => true
  | some x =>
    if x.kind = 1 then [0, 3].contains (s.reg 0x3800_07 (s.reg 0x3840_03 x.locator))
    else if x.kind = 2 then !(s.inboundPort slot < 24 && s.portInService (s.inboundPort slot))
    else !(s.slot slot).published

/-! ### Age (R40, R55) -/

/-- The current time era, L:4800.07 (R55). -/
def State.era (s : State) : Nat := s.reg 0x4800_07

/-- The origin of a frame after era correction; none where its era is unusable (R55). -/
def State.correctedOrigin (s : State) (g : Ingot) : Option Nat :=
  if g.expired then none
  else if g.era = s.era then some g.origin
  else if !s.time.sweeps.isEmpty || (g.era + 1) % 16 != s.era then none
  else some (ofSigned 64 ((g.origin : Int) + s.regI 0x4800_0C 0 64))

/-- The age in µs of an origin at a t_fal; none where it lies more than 1 ms in the future (R40). -/
def ageAt (tFal origin : Nat) : Option Nat :=
  let ns := toSigned 64 (ofSigned 64 ((tFal : Int) - origin))
  if ns < -1000000 then none
  else some (min (((max ns 0) + 999) / 1000).toNat 0xFFFFFFFE)

/-! ### The decision (R42) -/

/-- What a seal decides of a frame: a veil state and its code, or fresh, with the age and the corrected origin where they
were computed. -/
structure Verdict where
  veil : Option (LayerState × Code) := none
  age : Option Nat := none
  origin : Nat := 0
  deriving DecidableEq, Repr

/-- A verdict of a veil with no age. -/
def Verdict.veiled (st : LayerState) (v : Nat) : Verdict := { veil := some (st, fr v) }

/-- Bit 4 of an Ingot's marks: a memory error (R35). -/
def Ingot.memoryError (g : Ingot) : Bool := bitAt g.marks 4

/-- Whether a frame's time is lost (R42): its time-unlocked flag is set, but for a frame of a local camera, which stays live
under the normal rules (R53; DEDUCED, log entry 46), or its stamp is foreign and this device is unlocked. -/
def State.timeLost (s : State) (g : Ingot) : Bool :=
  (g.unlocked && (g.foreign || g.written)) || (g.foreign && s.timeState == 2)

/-- The decision for a source slot's frame at a t_fal under a budget (R42). -/
def State.judgeFrame (s : State) (slot : Nat) (frame : Option Nat) (tFal budget : Nat) : Verdict :=
  if s.sourceFaulted slot then .veiled .fault 0x06
  else match frame with
    | none => .veiled .noSignal 0x02
    | some i =>
      let g := s.ingot i
      if g.memoryError then .veiled .fault 0x06
      else match s.correctedOrigin g with
        | none => .veiled .time 0x0F
        | some origin =>
          if s.timeLost g then .veiled .time 0x04
          else match ageAt tFal origin with
            | none => .veiled .time 0x05
            | some age =>
              let v : Verdict := { age := some age, origin := origin }
              if budget < age && s.sourceAbsent slot then { v with veil := some (.noSignal, fr 0x02) }
              else if s.isFrozen slot then { v with veil := some (.frozen, fr 0x03) }
              else if budget < age then { v with veil := some (.stale, fr 0x01) }
              else v

/-- The budget of a layer in µs: its own, or the default (R41, R127). -/
def State.layerBudget (s : State) (i : Nat) : Nat :=
  if s.reg 0x3000_1E i = 0 then s.reg 0x2000_01 else s.reg 0x3000_1E i

/-- The frame that a layer would show: its slot's latest, or the Ingot it is pinned to while that is Ready or Scanning
(R42, R125). -/
def State.layerFrame (s : State) (i : Nat) : Option Nat :=
  let k := s.reg 0x3000_06 i
  if k = 0xFD then
    let n := s.reg 0x3000_07 i
    if (s.ingot n).shown then some n else none
  else if (s.source k).isSome then s.latest k else none

/-- The source slot of a layer: its own, or that of the Ingot it is pinned to. -/
def State.layerSlot (s : State) (i : Nat) : Nat :=
  if s.reg 0x3000_06 i = 0xFD then (s.ingot (s.reg 0x3000_07 i)).slot else s.reg 0x3000_06 i

/-! ### View groups (R44, R48, R49) -/

/-- The layers of a view group with their outputs: those of running outputs of one divisor (R44). -/
def State.groupMembers (s : State) (key : Nat) : List (Nat × Nat) :=
  s.runningOutputs.flatMap fun o => ((s.layersOf o).filter fun i => s.groupKey o i == key).map fun i => (o, i)

/-- The smallest number of a list; `d` of an empty one. -/
def leastOf (d : Nat) : List Nat → Nat
  | [] => d
  | x :: xs => xs.foldl min x

/-- A view group after a verdict (R49): a veil clears its count, a fresh frame counts once, and N of them return it to
live. -/
def Group.after (g : Group) (v : Verdict) (seq n : Nat) : Group :=
  match v.veil with
  | some (st, c) => { g with shown := st, code := some c, count := 0, recovering := false }
  | none =>
    if g.shown = .live then { g with code := none, recovering := false }
    else if g.counted = some seq then { g with recovering := true }
    else
      let k := g.count + 1
      if n ≤ k then { g with shown := .live, code := none, count := k, counted := some seq, recovering := false }
      else { g with count := k, counted := some seq, recovering := true }

/-- What is known of a view group: its own state, or what its view keeps across the commit that brings it here (R49). -/
def State.knownGroup (s : State) (key : Nat) : Option Group :=
  match Tbl.find s.groups key with
  | some g => some g
  | none => s.heirGroup s key

/-- A view group is decided for frame `of` at the earliest seal among its outputs, with their latest t_fal and smallest
budget; its lowest engine and layer that is not veil-only names its source (R44, R125, R127; log entry 47). `c` is the
configuration of that frame. -/
def State.decideGroup (s c : State) (key of d : Nat) : State :=
  let old := s.knownGroup key
  if (match old with | some g => g.decided == some of | none => false) then s
  else
    let members := c.groupMembers key
    match members.map Prod.snd with
    | [] => s
    | l :: ls =>
      let read := (l :: ls).filter fun i => c.reg 0x3000_06 i != 0xFE
      let lead := match read with
        | [] => ls.foldl min l
        | r :: rs => rs.foldl min r
      let budget := leastOf 0 ((l :: ls).map c.layerBudget)
      let tFal := (members.map fun m => c.tFal m.1 of).foldl max 0
      let only := c.reg 0x3000_06 lead = 0xFE
      let frame := if only then none else c.layerFrame lead
      let v := if only then .veiled .fault 0x06 else c.judgeFrame (c.layerSlot lead) frame tFal budget
      let seq := match frame with | some i => (c.ingot i).seq | none => 0
      let g0 := old.getD (newGroup (c.reg 0x2000_02))
      let g1 := { g0.after v seq (c.reg 0x2000_02) with
        index := c.reg 0x3000_20 lead, age := v.age, frame := frame, budget := budget, decided := some of }
      let live := g1.shown == .live
      let g2 := if live then { g1 with ingot := frame, origin := v.origin, seq := seq } else { g1 with ingot := none }
      let s1 := s.setGroup key g2
      if g2.shown != g0.shown || g2.code != g0.code then
        s1.record 0x040 (some (g2.code.getD (fr 0x0B))) g2.index (shownFrame (of / d) : Nat)
      else s1

/-! ### The bank of a frame (R56, R102, R124-R139) -/

/-- A layer as the bank of its output's next frame holds it: the frame fetched, or the veil drawn, which of a veil-only
layer is FAULT whatever its group shows (R125). -/
def State.drawOf (s c : State) (o i : Nat) : Draw :=
  let key := c.groupKey o i
  let g := s.group key
  let d : Draw :=
    { engine := i / 24, layer := i % 24, stack := c.reg 0x3000_05 i, gid := key, slot := c.reg 0x3000_06 i
      name := c.blob 0x3000_1F i, dx := c.reg 0x3000_0E i, dy := c.reg 0x3000_0F i, dw := c.reg 0x3000_10 i
      dh := c.reg 0x3000_11 i }
  let only := c.reg 0x3000_06 i = 0xFE
  let frame := match (if only then none else g.ingot) with
    | some _ => if c.reg 0x3000_06 i = 0xFD then c.layerFrame i else g.ingot
    | none => none
  match frame with
  | none =>
    let st := if g.shown = .live then .noSignal else g.shown
    { d with veil := some (if only then (.fault, false, 0) else (st, g.recovering, g.age.getD 0)) }
  | some n =>
    let x := c.ingot n
    { d with
      ingot := some n, origin := g.origin, foreign := x.foreign, unlocked := x.unlocked, budget := some (c.layerBudget i)
      age := g.age.getD 0, fmt := c.reg 0x3000_08 i, stride := c.reg 0x3000_09 i, fx := c.reg 0x3000_0A i
      fy := c.reg 0x3000_0B i, fw := c.reg 0x3000_0C i, fh := c.reg 0x3000_0D i, alpha := c.reg 0x3000_12 i
      premult := c.reg 0x3000_13 i != 0, scaler := c.reg 0x3000_14 i, pre := c.reg 0x3000_15 i
      stepH := c.reg 0x3000_18 i, stepV := c.reg 0x3000_19 i, initH := c.regI 0x3000_1A i 32
      initV := c.regI 0x3000_1B i 32, tabH := c.reg 0x3000_1C i, tabV := c.reg 0x3000_1D i
      coefH := c.blob 0x3040_02 (c.reg 0x3000_1C i), coefV := c.blob 0x3040_02 (c.reg 0x3000_1D i) }

/-- The hold limit of a frame in µs: the smallest budget of the layers that read a source, and the smallest that is left
of those shown live (R56). -/
def State.holdLimitOf (c : State) (layers : List Nat) (draws : List Draw) : Nat :=
  let budgets := (layers.filter c.readsSource).map c.layerBudget
  let lefts := draws.filterMap fun d => match d.veil with | none => d.budget.map (· - d.age) | some _ => none
  lefts.foldl min (leastOf (c.reg 0x2000_0C) budgets)

/-- The bank of an output's frame `of` as its seal leaves it. -/
def State.bankOf (s c : State) (o of : Nat) : Bank :=
  let layers := c.layersOf o
  let draws := layers.map (s.drawOf c o)
  let live := (draws.filter fun d => d.veil.isNone).map (·.origin)
  { ofNum := of, draws := draws, background := c.reg 0x3010_02 o, colourA := c.reg 0x2000_04, colourB := c.reg 0x2000_05
    textColour := c.reg 0x2000_07, motion := c.flag 0x2000_06, holdLimit := c.holdLimitOf layers draws
    origin := leastOf s.wall live, unlocked := s.timeState == 2, anyVeil := draws.any fun d => d.veil.isSome
    tFal := c.tFal o of }

/-- The engine takes one reference for each Ingot that its layers of the coming frame show (R32). -/
def State.takeRefs (s : State) (draws : List Draw) : State :=
  draws.foldl (fun (t : State) d =>
    match d.ingot with
    | some i => t.takeRef i (engineReader d.engine)
    | none => t) s

/-- Whether every layer of an output that reads a source has a frame (R350). -/
def State.allFramed (c : State) (o : Nat) : Bool :=
  ((c.layersOf o).filter c.readsSource).all fun i => (c.layerFrame i).isSome

/-- The seal before an output's next frame: commits are latched, its groups decided, and its next bank filled, unless no
engine that works composes it (R42, R102, R174). After a takeover an output waits for the first seal at which each of its
layers has a frame, and its groups keep the state and count of section 3 till then (R350); with the Fabric domain in fault none is
decided (R390; DEDUCED, log entry 184). -/
def State.seal (s0 : State) (o : Nat) : State :=
  let of := (s0.output o).nextOf
  let s := s0.lockInFor o of
  let c := (s.configAt o of).switchBackAt o of
  let d := s.divisor o
  let works := s.fabricWorks && match c.engineFor o with | some e => c.reg 0x3420_02 e != 4 && !c.inFault (clusterDomain e) | none => false
  let early := match s.recover.subst with
    | some x => x.outs.contains o && decide (s.now < x.since + 2 * milli)
    | none => false
  if works && !early then
    let waits := (s.output o).takeoverWait && !c.allFramed o
    let keys := if waits then [] else (c.groupsOf o).eraseDups
    let s1 := keys.foldl (fun (t : State) k => t.decideGroup c k of d) s
    let k := s1.bankOf c o of
    let s2 := s1.takeRefs k.draws
    let x := s2.output o
    s2.setOutput o { x with sealed := true, next := some k, takeoverWait := waits }
  else s.setOutput o { s.output o with sealed := true, next := none }

/-- SEAL (R102): at the first pixel of the last active line of the frame in progress. -/
def execSealPoint (output : Fin 32) (s : State) : Out :=
  whenLive s fun s =>
    let x := s.output output
    if x.running && x.started && !x.sealed && s.reached (s.sealTime output) then s.seal output else s

end Sys2Proof.Machine
end

