-- ==== Sys2Proof/Machine/Outputs.lean ====
section
/-! DEFINITION. Outputs and egress (R56-R60, R155-R175): frame starts, holds and FAULT veils, what leaves the egress, output
events, underruns, engine failure and substitution. -/

namespace Sys2Proof.Machine

set_option Elab.async false

/-! ### Events of an output (R158) -/

/-- An output event: it is counted, and if enabled latched and signalled (R158). -/
def State.outputEvent (s : State) (o bit : Nat) : State :=
  let s1 := s.bump (0x3410_02 + bit) o
  if bitAt (s1.reg 0x3400_15 o) bit then
    (s1.setReg 0x3410_01 o (withBit (s1.reg 0x3410_01 o) bit true)).send (.msix (32 + o))
  else s1

/-- The wall time of the first pixel period after the last active pixel of the frame in progress (R158). -/
def State.blankTime (s : State) (o : Nat) : Nat :=
  let n := s.reg 0x3400_06 o
  let line := s.leadLines o + s.vactive o - 1
  wallOf (s.nowInstant o (line * s.htotal o + bits n 63 48 + bits n 47 32 + s.hactive o) (s.htotal o * s.vtotal o)) false

/-! ### The egress link (R168-R172, R343) -/

/-- Whether an egress can send a frame: its port carries video, and the device is neither fenced nor still taking over. -/
def State.egressReady (s : State) (o : Nat) : Bool :=
  let p := s.reg 0x3400_04 o
  s.reg 0x5800_03 != 7 && !(s.output o).takeoverWait && !s.inFault (6 + o / 8) &&
  match s.reg 0x3400_03 o with
  | 1 => s.sendsVideo p
  | 2 => !s.inFault 19 && !s.inFault (15 + p / 3) && s.reg 0x3440_05 p == 2 && s.dpCarries o (s.reg 0x3440_06 p) (s.reg 0x3440_07 p)
  | 3 | 4 => !s.inFault 19 && s.reg 0x3450_07 p == 2
  | _ => false

/-- The stream header of an output's frame: the bank that it carries, its sequence, and whether it repeats or shows the
egress veil (R39, R168, R247). -/
def State.outputHeader (s : State) (o seq : Nat) (k : Bank) (again veil : Bool) : Bytes :=
  let b := fun (x : Bool) (n : Nat) => if x then n else 0
  let flags := b s.sendsActive 1 + b again 2 + b k.unlocked 4 + b (veil || k.anyVeil) 8
  let fmt := if s.reg 0x3400_07 o = 8 then 2 else 4
  let n := s.hactive o * s.vactive o * s.linkBytes o
  s.streamHeader fmt flags seq k.origin k.holdLimit (s.hactive o) (s.vactive o) 0 (ceilDiv' n 240)

/-- The header cell of a frame of a Swage output waits for the first slot (R250). -/
def State.sendHeader (s : State) (o seq : Nat) (k : Bank) (again veil : Bool) : State :=
  s.sendCellDue (s.reg 0x3400_04 o) (s.dueTime o) (cellOf 1 0 (s.reg 0x3400_05 o) 0 (s.outputHeader o seq k again veil))

/-- The bank of an egress FAULT frame: the veil colours in force, and the origin and hold limit of a frame with no layer
live, of which the first is the time of its seal, in the frame before it (R39, R56, R57, R102; log entry 48). -/
def State.faultBank (s : State) (o of : Nat) : Bank :=
  { ofNum := of, colourA := s.reg 0x2000_04, colourB := s.reg 0x2000_05, textColour := s.reg 0x2000_07
    motion := s.flag 0x2000_06, holdLimit := s.holdLimitOf (s.layersOf o) []
    origin := wallOf (s.sealInstant o of) (Config.sealUp o (of - 1))
    unlocked := s.timeState == 2, anyVeil := true, tFal := s.tFal o of }

/-! ### What a frame is (R56, R60, R168, R174, R175, R334) -/

/-- Whether a t_fal lies within the hold limit of a held frame (R56). -/
def Held.covers (h : Held) (tFal : Nat) : Bool :=
  toSigned 64 (ofSigned 64 ((tFal : Int) - h.bank.tFal)) ≤ 1000 * h.bank.holdLimit

/-- Whether the recovery that a fault struck has ended: a reserve composes the output, or no action is left (R334). -/
def State.mended (s : State) (o : Nat) : Bool :=
  match s.recover.subst with
  | some x => x.armed && x.outs.contains o
  | none => s.recover.active.isNone && s.recover.queue.isEmpty

/-- What an output's frame `of` is, with the code of its FAULT veil where one is due. -/
def State.frameKind (s : State) (o of : Nat) : FrameKind × Option Code :=
  let x := s.output o
  if x.veto || x.uncovered || x.noEngine then (.fault, none)
  else match x.next with
    | some _ => if x.struck && !s.mended o then (.fault, none) else (.composed, none)
    | none =>
      if x.struck then (.fault, none)
      else match x.held with
        | none => (.fault, some (so 0x04))
        | some h => if h.covers (s.tFal o of) then (.repeated, none) else (.fault, some (fr 0x07))

/-- The hold limit has been reached: E-0x041 with FR-0x07, once (R56). -/
def State.noteLimit (s : State) (o of : Nat) : State :=
  let x := s.output o
  if x.limitReached then s
  else (s.setOutput o { x with limitReached := true }).record 0x041 (some (fr 0x07)) o (shownFrame (of / s.divisor o) : Nat)

/-- A layer's fetched bytes, line by line, as its engine reads them (R128). -/
def State.fetch (s : State) (d : Draw) : Draw :=
  match d.ingot, d.veil with
  | some i, none =>
    let n := pixelBytes d.fmt
    let base := (s.ingot i).base
    { d with pix := (List.range d.fh).flatMap fun y =>
        s.load (base + (d.fy + y) * d.stride + d.fx * n) (d.fw * n) }
  | _, _ => d

/-! ### Frame start (R155, R168, R250) -/

/-- Note a TE condition, at most once per output and 64 frames (R173). -/
def State.noteTe (s : State) (o of : Nat) (c : Code) : State := s.recordEvery of 64 true 0x074 (some c) o (shownFrame of : Nat)

/-- A frame of a Swage output ends without its trailer: what waits of it is dropped, it is counted with E-0x099, and no echo
of it is awaited (R250, R256). -/
def State.cutFrame (s : State) (o : Nat) : State :=
  let p := s.reg 0x3400_04 o
  let stream := s.reg 0x3400_05 o
  let q := s.port p
  let x := s.output o
  let s1 := s.setPort p { q with outbox := q.outbox.filter fun w => cellType w.cell != 1 || cellA w.cell != stream }
  let s2 := s1.setOutput o { x with trailerDue := false, sent := x.sent.filter fun f => f.ofNum != x.ofNow }
  (s2.bump 0x4400_12 p).recordLimited second 0x099 (some (sw 0x16)) p stream

/-- The frame in progress ends: its engine's smallest tolerance is read (R159), one on Swage whose trailer has not left is cut, a command-mode frame without TE edge is
counted, and layers fetched without underrun start counting afresh (R162, R173, R250). -/
def State.closeFrame (s : State) (o : Nat) : State :=
  let x := s.output o
  let p := s.reg 0x3400_04 o
  let s0 := if x.started then s.setReg 0x3400_16 o (s.smallestTolerance o) else s
  let s1 := if x.trailerDue || (s.onSwage o && s.trailerWaits p (s.reg 0x3400_05 o)) then s0.cutFrame o else s0
  let s2 := if x.started && !x.teSeen && s.reg 0x3400_03 o = 4 then (s1.bump 0x3410_09 o).noteTe o x.ofNow (so 0x09) else s1
  if x.kind != .composed then s2
  else (x.cur.draws.filter fun d => d.veil.isNone && !d.underran).foldl
    (fun (t : State) d => t.setReg 0x3418_03 (d.engine * 24 + d.layer) 0) s2

/-- A placement that runs starts again, from what holds now (R333). -/
def State.restartPlacing (s : State) : State :=
  let placing := match s.smith.placing, s.plan with
    | .auto _ _, some q => Placing.auto q.scene (s.reg 0x2400_0A)
    | p, _ => p
  { s with smith := { s.smith with placing := placing, inputs := if placing = .idle then [] else s.shadow } }

/-- An output that a reserve composes again leaves the substitution, which is complete with the last: E-0x072 (R174). -/
def State.leaveSubst (s : State) (outs : List Nat) : State :=
  match s.recover.subst with
  | none => s
  | some x =>
    if !x.armed then s
    else
      let left := x.outs.filter fun o => !outs.contains o && (s.output o).running
      if left.isEmpty then
        let s1 := if s.reg 0x3420_02 x.reserve = 3 then s.setReg 0x3420_02 x.reserve 1 else s
        { s1 with recover := { s1.recover with subst := none } }.restartPlacing.record 0x072 (some (so 0x02)) x.engine
          x.reserve
      else { s with recover := { s.recover with subst := some { x with outs := left } } }

/-- The state of an output as L:2030.02 codes a frame's kind. -/
def FrameKind.state : FrameKind → Nat
  | .repeated => 1
  | .fault => 2
  | _ => 0

/-- The bank that a frame of a kind is sent from. -/
def State.startBank (s : State) (o of : Nat) (kind : FrameKind) : Bank :=
  let x := s.output o
  match kind with
  | .composed =>
    let k := x.next.getD {}
    { k with draws := k.draws.map s.fetch }
  | .repeated => (match x.held with | some h => h.bank | none => {})
  | _ => s.faultBank o of

/-- Frame `of` of an output starts as a frame of a kind; its egress sends it where it can do so from the start. -/
def State.openFrame (s : State) (o of : Nat) (kind : FrameKind) : State :=
  let x := s.output o
  let k := s.startBank o of kind
  let again := kind == .repeated
  let sends := s.egressReady o
  let header := sends && s.onSwage o
  let y : Output :=
    { x with
      nextOf := of + 1, curOf := of, cut := 0, curPhase := x.phase, started := true, sealed := false, cur := k, next := none, kind := kind, fillLine := none
      begun := sends, trailerDue := header && !again, fed := 0, struck := x.struck && kind != .composed
      limitReached := x.limitReached && kind != .composed
      teSeen := false, underrun := false, lineDone := false, blankDone := false, frameDone := false }
  let s1 := ((s.setOutput o y).setReg 0x3400_12 o (shownFrame of)).setReg 0x3400_13 o (s.tFal o of)
  let s2 := (s1.setReg 0x2030_02 o kind.state).setReg 0x2030_03 o k.holdLimit
  let s3 := if again then s2.bump 0x3410_07 o else s2
  if header then s3.sendHeader o (streamSeq (if again then k.ofNum else of)) k again (kind == .fault)
  else if sends && s.reg 0x3400_03 o = 2 then s3.send (.msa (s.reg 0x3400_04 o) (s.reg 0x3400_10 o))
  else s3

/-- Frame `of` of an output starts: banks switch, and it composes, repeats or sends the FAULT veil (R56, R102, R155). -/
def State.startFrame (s : State) (o : Nat) : State :=
  let of := (s.output o).nextOf
  let s1 := ((s.closeFrame o).applyAt o of).switchBackAt o of
  if !(s1.output o).running then s1
  else
    let k := s1.frameKind o of
    let s2 := match k.2 with
      | some c => if c = fr 0x07 then s1.noteLimit o of else s1.record 0x073 (some c) o (shownFrame of : Nat)
      | none => s1
    let s3 := s2.openFrame o of k.1
    let s4 := if k.1 = .composed then s3.leaveSubst [o] else s3
    s4.correctPhase o

/-- After a takeover an output sends its first freshly composed frame, and with the last output's the takeover is complete
(R350). -/
def State.noteFresh (s : State) (o : Nat) : State :=
  if s.reg 0x5800_03 != 6 || !s.pair.ready then s
  else
    let x := s.output o
    let sends := x.running && x.kind == .composed && !x.takeoverWait
    let s1 : State :=
      if sends then { s with pair := { s.pair with sentFresh := (o :: s.pair.sentFresh).eraseDups } } else s
    s1.settleTakeover s1.runningOutputs

/-- OUTPUT_FRAME_START (R155): within 50 ns of the frame's wall time. -/
def execOutputFrameStart (output : Fin 32) (s : State) : Out :=
  whenLive s fun s =>
    let x := s.output output
    if x.running && s.reached (s.nextStart output) then
      ((((s.startFrame output).settleCommits.reportApplied s).noteFresh output)).settlePower
    else s

/-- HOLD_LIMIT_REACHED (R56): the next frame could only repeat beyond the held frame's hold limit. -/
def execHoldLimitReached (output : Fin 32) (s : State) : Out :=
  whenLive s fun s =>
    let x := s.output output
    if x.running && x.sealed && (s.frameKind output x.nextOf).2 == some (fr 0x07) then s.noteLimit output x.nextOf else s

/-! ### The rest of a frame (R158, R165-R167, R250) -/

/-- LINE_MATCH (R158): line L:3400.14, counted from the first sync line. -/
def execLineMatch (output : Fin 32) (s : State) : Out :=
  whenLive s fun s =>
    let x := s.output output
    let at' := wallOf (s.nowInstant output (s.reg 0x3400_14 output) (s.vtotal output)) false
    if x.running && x.started && !x.lineDone && s.reached at' then
      (s.setOutput output { x with lineDone := true }).outputEvent output 1
    else s

/-- The check value of the frame in progress; a repeat has its held frame's (R166, R168). -/
def State.frameCheck (s : State) (o : Nat) : Nat :=
  let x := s.output o
  match x.kind, x.held with
  | .repeated, some h => h.check
  | _, _ => crc32c (s.frameBytes o)

/-- The last cells of a frame of a Swage output wait for their slots: its data cells, and with a whole frame the trailer, whose
witness is then awaited (R59, R166, R174, R250). -/
def State.finishSwage (s : State) (o : Nat) : State :=
  let x := s.output o
  let check := s.frameCheck o
  let cells := frameCells (s.reg 0x3400_05 o) (streamSeq x.ofNow) (s.frameBytes o)
  let whole := x.kind != .filled
  let s1 := ((if whole then cells else cells.dropLast).drop x.fed).foldl
    (fun (t : State) c => t.sendCellDue (s.reg 0x3400_04 o) (s.dueTime o) c) (s.setReg 0x2030_07 o check)
  let f : SentFrame := { ofNum := x.ofNow, check := check }
  let sent := x.sent.filter fun g => decide (x.ofNow < g.ofNum + 4)
  if whole then s1.setOutput o { s1.output o with sent := f :: sent, trailerDue := false }
  else s1.setOutput o { s1.output o with trailerDue := false }

/-- START_OF_BLANKING (R158): the last pixel of the frame has come, and the cells of one on Swage are complete. -/
def execStartOfBlanking (output : Fin 32) (s : State) : Out :=
  whenLive s fun s =>
    let x := s.output output
    if x.running && x.started && !x.blankDone && s.reached (s.blankTime output) then
      let s1 := (s.setOutput output { x with blankDone := true }).outputEvent output 0
      if s.onSwage output && x.trailerDue && s.egressReady output then s1.finishSwage output else s1
    else s

/-- The bytes of a line on DSI: three a pixel at depth 8, and at depth 10 the components of ten bits one after another, low
bits first (R171; PRESUMED for depth 10, log entry 147). -/
def State.dsiLineBytes (s : State) (o y : Nat) : Bytes :=
  let px := (List.range (s.hactive o)).map fun x => s.framePx o x y
  if s.reg 0x3400_07 o = 8 then px.flatMap (linkPx false 8)
  else
    let n := px.foldr (fun p acc => (acc * 2 ^ 30) + p.b * 2 ^ 20 + p.g * 2 ^ 10 + p.r) 0
    leBytes (ceilDiv' (30 * px.length) 8) n

/-- The frame in progress leaves a DSI port: in video mode a pixel stream packet a line, of data type 0x3E or 0x0D, in
command mode a long write a line, write_memory_start first and then write_memory_continue (R171; the codes of the two
commands and of the long write PRESUMED, log entry 147). -/
def State.sendLines (s : State) (o : Nat) : State :=
  let p := s.reg 0x3400_04 o
  let lines := List.range (s.vactive o)
  match s.reg 0x3400_03 o with
  | 3 => lines.foldl (fun (t : State) y =>
      t.send (.dsiLine p (s.reg 0x3450_04 p) (if s.reg 0x3400_07 o = 8 then 0x3E else 0x0D) (s.dsiLineBytes o y))) s
  | 4 => lines.foldl (fun (t : State) y =>
      t.send (.dsi p 0x39 (byte (if y = 0 then 0x2C else 0x3C) :: s.dsiLineBytes o y))) s
  | _ => s

/-- The frame in progress has left the egress: on DisplayPort and DSI its check value is read and it leaves the pin, and but
for a repeat it has been written to the buffer that does not hold the held frame; a composed one becomes that frame; the first
of a committed plan makes its output ready (R59, R166-R168, R398). A repeat is not written again (DESIGN CHOICE, log entry
165). -/
def State.finishFrame (s : State) (o : Nat) : State :=
  let x := s.output o
  let check := s.frameCheck o
  let half := match x.held with | some h => !h.half | none => false
  let hold := x.kind == .composed && s.keepsFrames o
  let s0 := if x.kind == .composed && s.plan.isSome then s.setReg 0x1010_06 0 (withBit (s.reg 0x1010_06) o true) else s
  let s1 := s0.setOutput o
    { x with frameDone := true, held := if hold then some { bank := x.cur, check := check, half := half } else x.held }
  let s2 := if s.onSwage o then s1
    else
      let s3 := if s.flag 0x3400_17 o && x.kind != .repeated then s1.storeHold o half else s1
      ((s3.setReg 0x2030_07 o check).sendLines o).send (.frame o (shownFrame x.ofNow) check)
  s2.outputEvent o 2

/-- FRAME_DONE (R158): for every frame that the egress has sent from its start, on Swage once its last cell has left. -/
def execFrameDone (output : Fin 32) (s : State) : Out :=
  whenLive s fun s =>
    let x := s.output output
    let left := !s.onSwage output ||
      (x.blankDone && !x.trailerDue && !s.streamWaits (s.reg 0x3400_04 output) (s.reg 0x3400_05 output))
    if x.running && x.started && x.begun && !x.frameDone && left && s.egressReady output &&
        s.reached (s.blankTime output + s.egressLatency output) then s.finishFrame output
    else s

/-- A write of L:3410.01: the bits written as 1 clear (R158). -/
def latchClearOp : WriteOp := fun s _ o v =>
  (s.setReg 0x3410_01 o ((List.range 8).foldl (fun n b => withBit n b (bitAt n b && !bitAt v.n b)) (s.reg 0x3410_01 o)), .ok)

/-- EVENT_LATCH_CLEAR (R158). -/
def execEventLatchClear (ss v : Nat) (s : State) : Out :=
  whenManaged s fun s => s.ledgerWrite ss 0x3410_01 (.num v) latchClearOp

/-- WITNESS_ECHO_TIMEOUT (R59): no echo for a frame by t_fal of the frame after next. -/
def execWitnessEchoTimeout (output : Fin 32) (seq : Nat) (s : State) : Out :=
  whenLive s fun s =>
    let x := s.output output
    match x.sent.find? fun f => streamSeq f.ofNum == seq && !f.reported with
    | none => s
    | some f =>
      if !s.past (s.tFal output (f.ofNum + 2)) then s
      else
        let sent := x.sent.map fun g => if g.ofNum == f.ofNum then { g with reported := true } else g
        (s.setOutput output { x with sent := sent }).witnessFail output f.ofNum (fr 0x09)

/-! ### Underrun (R161-R164) -/

/-- The output that fetches a layer in its frame in progress, with the layer as its bank holds it. -/
def State.fetching (s : State) (engine layer : Nat) : Option (Nat × Draw) :=
  s.runningOutputs.findSome? fun o =>
    let x := s.output o
    if x.kind != .composed then none
    else (x.cur.draws.find? fun d => d.engine == engine && d.layer == layer && d.veil.isNone && d.off.isNone).map fun d => (o, d)

/-- A layer is switched off from an output pixel on (R45, R161). -/
def State.switchOff (s : State) (o : Nat) (d : Draw) (x y : Nat) (underran : Bool) : State :=
  let out := s.output o
  let draws := out.cur.draws.map fun e =>
    if e.engine == d.engine && e.layer == d.layer then { e with off := some (x, y), underran := underran } else e
  s.setOutput o { out with cur := { out.cur with draws := draws } }

/-- A layer of an output's coming frame is switched off in the whole of it (R45, R161). -/
def State.switchOffNext (s : State) (o : Nat) (d : Draw) (underran : Bool) : State :=
  let out := s.output o
  s.setOutput o { out with next := out.next.map fun k => { k with draws := k.draws.map fun e =>
    if e.engine == d.engine && e.layer == d.layer then { e with off := some (0, 0), underran := underran } else e } }

/-- The third underrun in a row: in automatic mode the channel that holds the layer's source is charged and a re-plan is
triggered, in manual mode it is recorded (R92, R163). -/
def State.thirdUnderrun (s : State) (o inst of : Nat) (d : Draw) : State :=
  if s.reg 0x2400_06 = 1 then s.record 0x070 (some (so 0x07)) inst (shownFrame of)
  else
    let t := match d.ingot with
      | some i => (targetOf (s.ingot i).base).getD 24
      | none => 24
    let lowered := if t < 16 then Tbl.put s.smith.lowered t (Tbl.get 0 s.smith.lowered t + 1) else s.smith.lowered
    ({ s with smith := { s.smith with lowered := lowered } }.strikeRunning [o]).triggerReplan (.underrun s.smith.installed) [o]

/-- A layer that is switched off has underrun in frame `of` of its output (R158, R161-R163). -/
def State.noteUnderrun (s : State) (o : Nat) (d : Draw) (of : Nat) : State :=
  let i := d.engine * 24 + d.layer
  let inst := d.engine * 256 + d.layer
  let s1 := (s.bump 0x3418_02 i).record 0x070 (some (so 0x01)) inst (shownFrame of)
  let s2 := if (s1.output o).underrun then s1
    else (s1.setOutput o { s1.output o with underrun := true }).outputEvent o 3
  let n := s2.reg 0x3418_03 i + 1
  if n < 3 then s2.setReg 0x3418_03 i n else (s2.setReg 0x3418_03 i 0).thirdUnderrun o inst of d

/-- A layer underruns at an output pixel (R161). -/
def State.underrun (s : State) (o : Nat) (d : Draw) (x y : Nat) : State :=
  (s.switchOff o d x y true).noteUnderrun o d (s.output o).ofNow

/-- A layer whose read is refused underruns: from where scan-out stands, or, read ahead of the coming frame, in the whole of it
(R161, R299; the position DEDUCED, log entry 155). -/
def State.refuseLayer (s : State) (o : Nat) (d : Draw) : State :=
  let p := s.scanPosition o
  if s.pastActive o s.wall then (s.switchOffNext o d true).noteUnderrun o d (s.output o).nextOf else s.underrun o d p.1 p.2

/-- LAYER_UNDERRUN (R161). -/
def execLayerUnderrun (engine : Fin 18) (layer : Fin 24) (x y : Nat) (s : State) : Out :=
  whenLive s fun s =>
    match s.fetching engine layer with
    | some (o, d) => s.underrun o d x y
    | none => s

/-! ### Engine failure and substitution (R174, R175, R334) -/

/-- The first line of an output's frame in progress that its egress has not begun to send. -/
def State.nextLine (s : State) (o : Nat) : Nat :=
  let p := s.scanPosition o
  if p = (0, 0) then 0 else p.2 + 1

/-- The frames in progress of a failed engine's outputs are filled, the first from a line on and that of a second stream from
where its own timing generator stands, and none is composed after them (R154, R174; DEDUCED, log entry 164). -/
def State.fillFrames (s : State) (line : Nat) (outs : List Nat) : State :=
  outs.foldl (fun (t : State) o =>
    let x := t.output o
    let from' := if outs.head? == some o then line else s.nextLine o
    let y : Output := if x.kind = .composed && !x.blankDone then { x with kind := .filled, fillLine := some from' } else x
    t.setOutput o { y with next := none }) s

/-- The first reserve engine that is free. -/
def State.freeReserve (s : State) : Option Nat :=
  [16, 17].find? fun r => s.reg 0x3420_02 r == 2 && !s.inFault (clusterDomain r)

/-- No reserve serves for a failed engine: its outputs send the FAULT veil, one that strikes a recovery is reported, and a
re-plan is due (R175, R334). -/
def State.noReserve (s : State) (e : Nat) (outs : List Nat) (strikes : Bool) : State :=
  let s1 := s.record 0x071 (some (so 0x03)) e 0xFF
  let s2 := outs.foldl (fun (t : State) o => t.setOutput o { t.output o with noEngine := true }) s1
  let s3 := if strikes then s2.strike outs else s2
  (s3.triggerReplan .resources outs).escalate 1

/-- The firmware serves a failed engine: it chooses a reserve, with the cause in E-0x071 where that is not recorded yet, or
none is free (R174, R175). `busy` says that a substitution ran as it failed; a reserve that fails while it serves strikes a
recovery, and so does a failure while a substitution runs, its own among them (R334). -/
def State.serveFailed (s : State) (e : Nat) (outs : List Nat) (busy said : Bool) : State :=
  match (if busy then none else s.freeReserve) with
  | none => s.noReserve e outs (busy || 16 ≤ e)
  | some r =>
    let s1 := if said then s else s.record 0x071 (some (so (s.reg 0x3420_04 e))) e r
    let s2 := if 16 ≤ e then s1.strike outs else s1
    { s2 with recover := { s2.recover with
        subst := some { engine := e, reserve := r, since := s2.now, armed := false, outs := outs } } }

/-- An engine fails with a cause: it is held in reset and its frames are filled (R174). The firmware then serves it; with the
controller stopped the hardware contains it alone, and its outputs repeat up to their hold limit (R28). An engine that composes
nothing leaves E-0x071 alone (R175). -/
def State.failEngine (s : State) (e cause line : Nat) : State :=
  let was := s.reg 0x3420_02 e
  let outs := (s.outputsOf e).filter fun o => (s.output o).running
  let s1 := ((s.setReg 0x3420_02 e 4).setReg 0x3420_04 e cause).advanceEpoch.fillFrames line outs
  let s2 := s1.setEngine e { s1.engine e with tested := false }
  let s3 := if (s2.engine e).wbIngot.isSome then s2.abandonWriteback e else s2
  let s4 : State := match s3.recover.subst with
    | some x => if x.armed && x.reserve = e then { s3 with recover := { s3.recover with subst := none } }.restartPlacing else s3
    | none => s3
  let busy := s.recover.subst.isSome
  if was != 1 && was != 3 then
    let serving := [16, 17].all fun r => [1, 3].contains (s.reg 0x3420_02 r)
    s4.record 0x071 (some (so (if busy || serving then 0x03 else cause))) e 0xFF
  else if !s.managed then s4.record 0x071 (some (so cause)) e 0xFF
  else s4.serveFailed e outs busy false

/-- The controller runs again: it serves the engines that failed while it was stopped (R28, R403). -/
def State.serveWaiting (s : State) : State :=
  allEngines.foldl (fun (t : State) e =>
    let outs := (t.outputsOf e).filter fun o => (t.output o).running && !(t.output o).noEngine
    let chosen := match t.recover.subst with | some x => x.engine == e | none => false
    if t.reg 0x3420_02 e = 4 && !outs.isEmpty && !chosen then t.serveFailed e outs t.recover.subst.isSome true else t) s

/-- ENGINE_FAILURE (R174, R175): by a missed line deadline or an internal check, at an active line. -/
def execEngineFailure (engine : Fin 18) (deadline : Bool) (line : Nat) (s : State) : Out :=
  whenLive s fun s =>
    if s.reg 0x3420_02 engine = 4 then s else s.failEngine engine (if deadline then 6 else 5) line

/-- The reserve takes the failed engine's tables and outputs, and composes from the first seal 2 ms after the failure
(R174). -/
def State.armReserve (s : State) (x : Subst) (r : Nat) : State :=
  let for' := if x.engine < 16 then x.engine else s.reg 0x3420_05 x.engine
  let s1 := (((s.moveEngine x.engine r).setReg 0x3420_02 r 3).setReg 0x3420_05 r for')
  let s2 := if x.engine < 16 then s1 else s1.setReg 0x3420_05 x.engine 0xFF
  { s2 with recover := { s2.recover with subst := some { x with reserve := r, armed := true } } }.leaveSubst []

/-- ENGINE_SUBSTITUTION_ARM (R174): a reserve that has failed since is replaced by the other, if that is free. -/
def execEngineSubstitutionArm (engine : Fin 18) (s : State) : Out :=
  whenManaged s fun s =>
    match s.recover.subst with
    | none => s
    | some x =>
      if x.armed || x.engine != engine.val then s
      else if s.reg 0x3420_02 x.reserve = 2 then s.armReserve x x.reserve
      else match s.freeReserve with
        | some r => s.armReserve x r
        | none => ({ s with recover := { s.recover with subst := none } }.restartPlacing).noReserve x.engine x.outs false

end Sys2Proof.Machine
end

