-- ==== Sys2Proof/Machine/Egress.lean ====
section
/-! DEFINITION. DisplayPort and DSI-2 ports (R169-R173), coefficient tables (R141, R142) and writeback (R143-R146). -/

namespace Sys2Proof.Machine

set_option Elab.async false

/-! ### DisplayPort (R169, R170) -/

/-- The enabled output that drives a port with one of a list of egress types. -/
def State.outputOn (s : State) (types : List Nat) (port : Nat) : Option Nat :=
  s.runningOutputs.find? fun o => types.contains (s.reg 0x3400_03 o) && s.reg 0x3400_04 o == port

/-- An event of an output's link, E-0x075 with a code (R169, R170, R172). -/
def State.noteLink (s : State) (o : Nat) (c : Code) : State := s.record 0x075 (some c) o (shownFrame (s.output o).ofNow : Nat)

/-- HOT_PLUG_ASSERT (R169). -/
def execHotPlugAssert (port : Fin 8) (sinkRate : Fin 4) (sinkLink : SinkLink) (edid : Bytes) (s : State) : Out :=
  whenLive s fun s =>
    let k : Sink := { rate := sinkRate, lanes := sinkLink.lanes, edid := edid, spread := sinkLink.spread }
    let s1 : State := { s with sinks := Tbl.put s.sinks port k }
    if (s1.outputOn [2] port).isSome then s1.trainDp port k else s1

/-- HOT_PLUG_LOSS (R169): only a deassertion longer than 2 ms is one. -/
def execHotPlugLoss (port : Fin 8) (lowUs : Nat) (s : State) : Out :=
  whenLive s fun s =>
    if lowUs ≤ 2000 then s
    else
      let s1 : State := { s with sinks := Tbl.erase s.sinks port }
      match s1.outputOn [2] port with
      | some o => ((s1.setReg 0x3440_05 port 0).breakFrames port).noteLink o (so 0x0A)
      | none => s1

/-- IRQ_HPD (R169): only link status lost starts training again. -/
def execIrqHpd (port : Fin 8) (linkLost : Bool) (s : State) : Out :=
  whenLive s fun s =>
    match Tbl.find s.sinks port, s.outputOn [2] port with
    | some k, some _ => if linkLost then s.trainDp port k else s
    | _, _ => s

/-- The largest lane count of DisplayPort not above a number (R169). -/
def dpLanes (n : Nat) : Nat := if 4 ≤ n then 4 else if 2 ≤ n then 2 else 1

/-- DP_TRAINING_DONE (R169, R170): a link trains at no more than the port's maxima and the sink's; one that is below the
output's need is reported, and its output sends the idle pattern. -/
def execDpTrainingDone (port : Fin 8) (result : TrainEnd) (s : State) : Out :=
  whenLive s fun s =>
    match Tbl.find s.sinks port, s.outputOn [2] port with
    | some k, some o =>
      if s.reg 0x3440_05 port != 1 then s
      else match result with
        | .failed => (s.setReg 0x3440_05 port 3).noteLink o (so 0x0A)
        | .trained rate lanes =>
          let r := min rate (min k.rate (s.reg 0x3440_02 port))
          let n := dpLanes (min lanes (min k.lanes (s.reg 0x3440_03 port)))
          let s1 := ((s.setReg 0x3440_05 port 2).setReg 0x3440_06 port r).setReg 0x3440_07 port n
          if s1.dpCarries o r n then s1 else s1.noteLink o (so 0x0B)
    | _, _ => s

/-! ### DSI-2 (R172, R173) -/

/-- The records of a panel initialisation sequence, type and payload, as far as they are well formed, and whether all of
it is (R172); the first argument bounds the records. -/
def dsiRecords : Nat → Bytes → List (Nat × Bytes) × Bool
  | _, [] => ([], true)
  | n + 1, t :: len :: rest =>
    let k := len.toNat
    let known := [0x05, 0x15, 0x39].contains t.toNat || (t.toNat == 0xFF && k == 1)
    if known && k ≤ rest.length then
      let r := dsiRecords n (rest.drop k)
      ((t.toNat, rest.take k) :: r.1, r.2)
    else ([], false)
  | _, _ => ([], false)

/-- How long the waits of a panel initialisation sequence take, in ns (R172). -/
def dsiWaits (rs : List (Nat × Bytes)) : Nat :=
  rs.foldl (fun n x => if x.1 = 0xFF then n + x.2.foldl (fun m b => m + b.toNat) 0 * 1000000 else n) 0

/-- The packets of a sequence that a port can have sent within a time, its waits kept (R172); `past` is the time that those
before took. -/
def dsiSent (spent past : Nat) : List (Nat × Bytes) → List (Nat × Bytes)
  | [] => []
  | x :: rs =>
    if x.1 = 0xFF then dsiSent spent (past + dsiWaits [x]) rs
    else if past ≤ spent then x :: dsiSent spent past rs else []

/-- DSI_INIT_DONE (R172): the sequence has been sent, its waits with it, or it stopped at a malformed record or at one that
the panel did not acknowledge, which of them a free value says. -/
def execDsiInitDone (port : Fin 4) (acknowledged : Bool) (s : State) : Out :=
  whenLive s fun s =>
    match s.outputOn [3, 4] port with
    | none => s
    | some o =>
      if s.reg 0x3450_07 port != 1 then s
      else
        let b := s.blob 0x3450_05 port
        let r := dsiRecords b.length b
        let spent := s.now - Tbl.get 0 s.panels port
        let packets := dsiSent spent 0 r.1
        let lost := !acknowledged && !packets.isEmpty
        let d := s.draw
        let p := if lost then (packets.take (d.1 % packets.length + 1), d.2) else (packets, s)
        let s1 := p.1.foldl (fun (t : State) x => t.send (.dsi port x.1 x.2)) p.2
        if !lost && spent < dsiWaits r.1 then s
        else if lost || !r.2 then (s1.setReg 0x3450_07 port 3).noteLink o (so 0x0C)
        else s1.setReg 0x3450_07 port 2

/-- TEARING_EFFECT (R158, R173): a rising edge on DSIn_TE in command mode; the first of a frame measures its phase. -/
def execTearingEffect (port : Fin 4) (s : State) : Out :=
  whenLive s fun s =>
    match s.outputOn [4] port with
    | none => s
    | some o =>
      let x := s.output o
      let s1 := s.outputEvent o 4
      if !x.started || x.teSeen then s1
      else
        let phase := toSigned 64 (ofSigned 64 ((s.wall : Int) - s.nowStart o))
        let s2 := (s1.setOutput o { s1.output o with teSeen := true }).setRegI 0x3400_18 o 32 phase
        if phase.natAbs ≤ 1000 * s.reg 0x3400_19 o then s2 else (s2.bump 0x3410_08 o).noteTe o x.ofNow (so 0x08)

/-! ### Coefficient tables (R140-R142) -/

/-- Whether a table BLOB has the layout of a table (R141). -/
def tableFormed (t : Nat) (b : Bytes) : Bool :=
  let vertical := decide (16 ≤ t)
  let taps := if vertical then 6 else 8
  b.length == 12 + 128 * taps && field b 0 4 == 0x44514354 && field b 4 2 == 1 &&
  field b 6 1 == (if vertical then 1 else 0) && field b 7 1 == taps && crcTailOk b

/-- The coefficients of a phase of a table BLOB. -/
def tableRow (taps : Nat) (b : Bytes) (phase : Nat) : List Int :=
  (List.range taps).map fun k => toSigned 16 (field b (8 + 2 * (phase * taps + k)) 2)

/-- Whether a table's coefficients are twelve-bit values that sum to 1,024 in each phase (R141). -/
def tableInRange (t : Nat) (b : Bytes) : Bool :=
  let taps := if 16 ≤ t then 6 else 8
  (List.range 64).all fun p =>
    let row := tableRow taps b p
    row.all (fun c => -2048 ≤ c && c ≤ 2047) && row.foldl (· + ·) 0 == 1024

/-- A write of L:3040.02 (R140-R142). -/
def tableOp : WriteOp := fun s _ t v =>
  if factoryTable t then (s, .no (an 0x03))
  else if !tableFormed t v.b then (s, .no (an 0x01))
  else if !tableInRange t v.b then (s, .no (an 0x02))
  else (s.setShadow 0x3040_02 t v, .ok)

/-- TABLE_LOAD (R141, R142). -/
def execTableLoad (ss : Nat) (blob : Bytes) (s : State) : Out :=
  whenManaged s fun s => s.ledgerWrite ss 0x3040_02 (.bytes blob) tableOp

/-! ### Writeback (R38, R143-R146) -/

/-- The output whose frame an engine's writeback captures, while it runs: it is enabled and its slot is a host source of
the plan in force (R143, R146). It stops while a reserve serves the engine's streams (R174; DESIGN CHOICE, log entry 162). -/
def State.writebackOf (s : State) (e : Nat) : Option Nat :=
  let host := match s.source (s.reg 0x3080_04 e) with | some x => x.kind == 3 | none => false
  let o := s.streamOutput e (if s.isSplit e then s.reg 0x3080_03 e else 0)
  if s.flag 0x3080_02 e && host && o < 32 then some o else none

/-- The wall time at which active line `y` of the frame in progress of an output starts. -/
def State.lineTime (s : State) (o y : Nat) : Nat := wallOf (s.nowInstant o (s.leadLines o + y) (s.vtotal o)) false

/-- Whether a layer's destination rectangle meets an engine's writeback region (R38). -/
def State.contributes (s : State) (e : Nat) (d : Draw) : Bool :=
  let x := s.reg 0x3080_05 e
  let y := s.reg 0x3080_06 e
  d.dx < x + s.reg 0x3080_07 e && x < d.dx + d.dw && d.dy < y + s.reg 0x3080_08 e && y < d.dy + d.dh

/-- The oldest origin among a list of contributors: 0 with a veil among them, a free value with none (R38). -/
def State.oldestOrigin (s : State) (ds : List Draw) : Nat × State :=
  match ds.map fun d => if d.veil.isSome then 0 else d.origin with
  | [] => let p := s.draw; (p.1 % 2 ^ 64, p.2)
  | x :: xs => (xs.foldl min x, s)

/-- A writeback takes a Free Ingot for frame `of` of an output, with its origin record (R144), or is abandoned (R145). -/
def State.startWriteback (s : State) (e o of : Nat) : State :=
  let slot := s.reg 0x3080_04 e
  let s1 := (s.setEngine e { s.engine e with wbOf := some of }).applyFrozen slot
  let t := s1.takeFree slot .writeback
  match t.1 with
  | none => t.2.abandonWriteback e
  | some i =>
    let ds := (t.2.output o).cur.draws.filter (t.2.contributes e)
    let m := t.2.oldestOrigin ds
    let g := m.2.ingot i
    let s2 := (m.2.setIngot i { g with
      origin := m.1, foreign := ds.any (·.foreign), unlocked := ds.any (·.unlocked), era := s.era, seq := of % 2 ^ 32
      written := true }).countFrom i
    (s2.setEngine e { s2.engine e with wbIngot := some i }).countFrame e

/-- WRITEBACK_REGION_START (R144): the first line of the region in a composed frame; a frame whose region has not ended by
then is abandoned and counted (DESIGN CHOICE, log entry 161). -/
def execWritebackRegionStart (engine : Fin 16) (s : State) : Out :=
  whenLive s fun s =>
    match s.writebackOf engine with
    | none => s
    | some o =>
      let x := s.output o
      if x.started && x.kind == .composed && (s.engine engine).wbOf != some x.ofNow &&
          s.reached (s.lineTime o (s.reg 0x3080_06 engine)) then
        (if (s.engine engine).wbIngot.isSome then s.abandonWriteback engine else s).startWriteback engine o x.ofNow
      else s

/-- The lines of an engine's writeback region, as they are stored. -/
def State.regionLines (s : State) (e o : Nat) : List Bytes :=
  (List.range (s.reg 0x3080_08 e)).map fun j =>
    (s.output o).cur.storedLine (s.reg 0x3080_09 e) (s.hactive o) (s.vactive o) (s.reg 0x3080_05 e)
      (s.reg 0x3080_06 e + j) (s.reg 0x3080_07 e)

/-- The Ingot of a writeback receives the region at its source's stride and is published, with the content check of the
region's lines, and of no others of its source, where frozen detection counted it from its start (R50, R144; of a region
smaller than the source DESIGN CHOICE, log entry 132). -/
def State.endWriteback (s : State) (e o i : Nat) : State :=
  let g := s.ingot i
  let stride := match s.source g.slot with | some x => lineStride x.width (bytesPerPixel x.fmt) | none => 0
  let ls := s.regionLines e o
  let s1 := ((List.range ls.length).zip ls).foldl (fun (t : State) p => t.store (g.base + p.1 * stride) p.2) s
  let g1 := if g.counted then { g with check := crc32c ls.flatten } else g
  ((s1.setIngot i g1).setEngine e { s1.engine e with wbIngot := none }).publish i

/-- WRITEBACK_REGION_END (R144, R300): the region's last line has been written, and none of its writes waits for a grant. -/
def execWritebackRegionEnd (engine : Fin 16) (s : State) : Out :=
  whenLive s fun s =>
    match s.writebackOf engine, (s.engine engine).wbIngot with
    | some o, some i =>
      let x := s.output o
      if (s.engine engine).wbOf == some x.ofNow && (s.ingot i).st == .filling && (s.ingot i).filler == .writeback &&
          s.reached (s.lineTime o (s.reg 0x3080_06 engine + s.reg 0x3080_08 engine)) &&
          !s.writeWaits engine (s.ingot i).base (s.ingot i).size then s.endWriteback engine o i
      else s
    | _, _ => s

end Sys2Proof.Machine
end

