-- ==== Sys2Proof/Machine/Faults.lean ====
section
/-! DEFINITION. What a request to memory does (R291-R302) and what its refusal or its failure does to the frame or scan that
needed it (R45, R145, R186, R192, R253, R299-R302, R313, R385). -/

namespace Sys2Proof.Machine

set_option Elab.async false

/-! ### What a refusal does to the master's work -/

/-- The Ingot whose buffer holds an address, of a list. -/
def State.ingotAt (s : State) (address : Nat) (xs : List Nat) : Option Nat :=
  xs.find? fun i => (s.ingot i).holds address 1

/-- The writeback of an engine loses a write to an address: it is abandoned (R145). -/
def State.loseWriteback (s : State) (e address : Nat) : State :=
  if (s.ingotAt address (s.engine e).wbIngot.toList).isSome then s.abandonWriteback e else s

/-- The inbound frame of a port that fills an address is dropped, in progress, where what still arrives of it is discarded, or
ended (R253, R300). -/
def State.loseInbound (s : State) (p address : Nat) : State :=
  let fills := fun (f : RxFrame) => (s.ingotAt address (s.rxIngot f).toList).isSome
  let lost := fun (t : State) (f : RxFrame) => match t.rxIngot f with | some i => t.abandon i | none => t
  match (s.port p).rx.find? fills, (s.port p).ended.find? fun e => fills e.1 with
  | some f, _ => ((lost s f).setRx p { f with ingot := none }).dropFrame f.slot f.seq (sw 0x11)
  | none, some e =>
    let s1 := lost s e.1
    (s1.setPort p { s1.port p with ended := (s1.port p).ended.erase e }).dropFrame e.1.slot e.1.seq (sw 0x11)
  | none, none => s

/-- Whether the staging slot of a frame holds an address. -/
def State.stagedAt (s : State) (address : Nat) (f : CamFrame) : Bool :=
  match s.displayOf f.ctx with
  | some (_, x) =>
    let a := stagingBase x (s.rawSlot f.ctx) f.slot
    decide (a ≤ address) && decide (address < a + s.rawSlot f.ctx)
  | none => false

/-- The frame of a context whose staging slot holds an address is dropped: in progress, where the rest of it is discarded, or
waiting for a pipeline (R186, R300). -/
def State.loseStaging (s : State) (c address : Nat) : State :=
  let x := s.ctx c
  match x.cur.filter (s.stagedAt address), x.waiting.find? (s.stagedAt address) with
  | some f, _ => (s.setCtx c { x with cur := none, dropped := some s.now }).dropCamera c f.seq (inc 0x07)
  | none, some f => (s.setCtx c { x with waiting := x.waiting.erase f }).dropCamera c f.seq (inc 0x07)
  | none, none => s

/-- Whether an address lies in the raw staging ring that a pipeline's frame is read from. -/
def State.readsStaging (s : State) (k address : Nat) : Bool := (s.pipe k).frame.any (s.stagedAt address)

/-- Whether an address lies in the statistics block that a pipeline writes for its frame (R201). -/
def State.writesStats (s : State) (k address : Nat) : Bool :=
  match (s.pipe k).frame with
  | none => false
  | some f =>
    let a := s.reg 0x3840_1F f.ctx + 8192 * (f.seq % 4)
    decide (a ≤ address ∧ address < a + 8192)

/-- A class B request of a master is refused: its whole frame is abandoned (R300). -/
def State.loseFrame (s : State) (port address : Nat) : State :=
  if port < 18 then s.loseWriteback port address
  else if port < 24 then s
  else if port < 28 then
    ((List.range 24).filter fun p => s.receiverPort p == port).foldl (fun (t : State) p => t.loseInbound p address) s
  else if port < 32 then
    ((List.range 32).filter fun c => 28 + s.reg 0x3840_03 c / 4 == port).foldl
      (fun (t : State) c => t.loseStaging c address) s
  else if port < 36 then s.abandonPipe (port - 32) (inc 0x07) (!s.writesStats (port - 32) address)
  else s

/-- A repeat whose read is refused: the egress sends the FAULT veil in its place (R168, R299). -/
def State.loseRepeat (s : State) (port address : Nat) : State :=
  let hit := s.runningOutputs.filter fun o =>
    18 + o / 16 == port && (s.output o).kind == .repeated && !s.onSwage o && targetOf address == some (s.holdChannel o)
  hit.foldl (fun (t : State) o =>
    let x := t.output o
    ((t.setOutput o { x with kind := .fault, cur := t.faultBank o x.ofNow }).setReg 0x2030_02 o 2).record 0x073
      (some (so 0x04)) o (shownFrame x.ofNow : Nat)) s

/-- Whether a layer fetches from the 64-byte beat of an address, its Ingot lying at `base`: a line of its fetch rectangle
has bytes there (R128; DEDUCED, log entry 155). -/
def Draw.fetchesAt (d : Draw) (base address : Nat) : Bool :=
  let beat := address / 64 * 64
  (List.range d.fh).any fun y =>
    let a := base + (d.fy + y) * d.stride + d.fx * pixelBytes d.fmt
    decide (a < beat + 64) && decide (beat < a + d.fw * pixelBytes d.fmt)

/-- The layers that an engine fetches now from an Ingot's beat of an address, with their outputs (R45, R159). -/
def State.layersReading (s : State) (e address : Nat) : List (Nat × Draw × Nat) :=
  s.runningOutputs.flatMap fun o => (s.fetchingAt o s.wall).filterMap fun d =>
    match d.ingot with
    | some i => if d.engine == e && d.off.isNone && d.fetchesAt (s.ingot i).base address then some (o, d, i) else none
    | none => none

/-- A request of a master is refused: class B abandons its frame, the layers that an engine reads underrun, a repeat becomes a
veil, a statistics block is missing, a scan ends with a code (R161, R192, R294, R299-R301, R385). -/
def State.loseRequest (s : State) (port cls address : Nat) (scanCode : Code) : State :=
  if cls = 1 then s.loseFrame port address
  else if port < 18 then (s.layersReading port address).foldl (fun (t : State) x => t.refuseLayer x.1 x.2.1) s
  else if port = 18 || port = 19 then s.loseRepeat port address
  else if 32 ≤ port && port < 36 then
    if s.writesStats (port - 32) address then s.setPipe (port - 32) { s.pipe (port - 32) with statsLost := true } else s
  else if 37 ≤ port && port ≤ 40 && s.reg 0x6000_07 (port - 37) = 1 then s.failScan (port - 37) scanCode
  else s

/-- A request is refused at the fabric's own checks (R293, R302). -/
def State.refuseRequest (s : State) (port : Nat) (r : FabReq) (c : Code) : State :=
  (s.refuseForm port c r.address r.cls).loseRequest port r.cls r.address (ck 0x08)

/-! ### Read errors (R45, R313, R326) -/

/-- A layer's read has failed: the layer is off from where scan-out stands to the end of the frame, or, read ahead of the
coming frame, in the whole of it, and its Ingot has the memory-error mark (R45). -/
def State.failLayer (s : State) (o : Nat) (d : Draw) (i : Nat) : State :=
  let p := s.scanPosition o
  let s1 := if s.pastActive o s.wall then s.switchOffNext o d false else s.switchOff o d p.1 p.2 d.underran
  let g := s1.ingot i
  s1.setIngot i { g with marks := withBit g.marks 4 true }

/-- A read at an address has failed for good: the error log, the port's outcome record, and the master (R45, R192, R302,
R313, R385). -/
def State.readError (s : State) (port cls address syndrome : Nat) : State :=
  match targetOf address with
  | none => s
  | some t =>
    if t = 24 then s
    else
      let s1 := (s.refuseAccess port (dm (if 16 ≤ t then 0x02 else 0x01)) address cls).logMemError address syndrome port
      if port < 18 then
        match s1.layersReading port address with
        | [] => s1.loseWriteback port address
        | ls => ls.foldl (fun (u : State) x => u.failLayer x.1 x.2.1 x.2.2) s1
      else if 32 ≤ port && port < 36 && s1.readsStaging (port - 32) address then s1.abandonPipe (port - 32) (inc 0x10) true
      else s1.loseRequest port cls address (ck 0x05)

/-- The class of a port's reads (R294). -/
def readClass (port : Nat) : Nat := if port < 24 then 0 else if port < 36 then 1 else 2

/-! ### The commands -/

/-- The class of a request of a port, fixed by what it does; a pipeline's write is class C where it is one of its
statistics (R294). -/
def requestClass (port : Nat) (r : FabReq) : Nat :=
  if port < 18 then (if r.write then 1 else 0)
  else if port < 24 then 0
  else if port < 32 then 1
  else if port < 36 then (if r.write && r.cls == 2 then 2 else 1)
  else 2

/-- The host's read that waits for a burst. -/
def State.hostReadOf (s : State) (id : Nat) : Option HostRead := s.fabric.reads.find? fun h => h.left.contains id

/-- A read of the host stands as given, or, with no burst left to come, no more. -/
def State.putHostRead (s : State) (old new : HostRead) : State :=
  let rest := s.fabric.reads.erase old
  { s with fabric := { s.fabric with reads := if new.left.isEmpty then rest else new :: rest } }

/-- A read of the host has lost a burst: it ends with Completer Abort, once, and what still comes of it is discarded; a write has
no completion (R301). -/
def State.abortRead (s : State) (port : Nat) (r : FabReq) : State :=
  if port != 36 || r.write then s
  else match s.hostReadOf r.id with
    | none => s.send (.completion none)
    | some h =>
      let t := s.putHostRead h { h with left := h.left.erase r.id, failed := true }
      if h.failed then t else t.send (.completion none)

/-- The bytes of a host's read whose bursts have all come. -/
def HostRead.bytes (h : HostRead) : Bytes := slice (h.parts.flatMap fun p => p.2) (h.base % 64) h.len

/-- A burst of a read of the host has come; with the last the read completes (R415). -/
def State.hostData (s : State) (r : FabReq) (bs : Bytes) : State :=
  match s.hostReadOf r.id with
  | none => s
  | some h =>
    let y : HostRead := { h with left := h.left.erase r.id, parts := Tbl.put h.parts r.address bs }
    let t := s.putHostRead h y
    if y.left.isEmpty && !h.failed then t.send (.completion (some y.bytes)) else t

/-- A master presents a request: it waits at its target, or is refused before it enters the fabric (R291, R293, R294, R302). -/
def State.present (s : State) (port : Nat) (r : FabReq) : State :=
  let q := { r with cls := requestClass port r }
  if !burstFormed q || !s.rangeUsable q.address (64 * q.beats) then (s.refuseRequest port q (fb 0x03)).abortRead port q
  else
    match targetOf q.address with
    | none => (s.refuseRequest port q (fb 0x03)).abortRead port q
    | some t =>
      if t < 16 && s.reg 0x5400_02 t = 6 then (s.refuseRequest port q (fb 0x05)).abortRead port q
      else
        let x : FabItem := { port := port, target := t, req := q, issued := s.now, since := firstCycle s.now }
        { s with fabric := { s.fabric with queue := s.fabric.queue ++ [x] } }

/-- FABRIC_REQUEST (R291, R293, R294, R302). -/
def execFabricRequest (port : Fin 42) (r : FabReq) (s : State) : Out := whenFabric s fun s => s.present port r

/-- A running check-value unit asks for its next burst, once it has none under way (R380). -/
def State.askBurst (s : State) (u : Nat) : State :=
  if s.reg 0x6000_07 u = 1 && s.fabricWorks && !(s.fabric.queue.any fun x => x.port == unitPort u) then
    s.present (unitPort u) (s.scan u).request
  else s

/-- FABRIC_GRANT (R292, R295-R298, R304): the request that goes first, once its cycle has come; at the register space a locked
sequence goes before every access. A channel that has left service refuses what waits for it (R302). -/
def execFabricGrant (target : Fin 25) (s : State) : Out :=
  whenFabric s fun s =>
    if target.val < 16 && s.reg 0x5400_02 target = 6 then
      ((s.itemsAt target).filter fun x => x.granted.isNone).foldl
        (fun (t : State) x => ((t.dropItem x).refuseRequest x.port x.req (fb 0x05)).abortRead x.port x.req) s
    else if !s.targetAwake target then s
    else match (if target.val = 24 then s.nextLock else none), s.nextGrant target with
      | some l, _ => s.grantLock l
      | none, some (x, g) =>
        if !s.cycleCome g then s
        else if 24 ≤ x.port && x.port < 28 then
          ((List.range 24).filter fun p => s.receiverPort p == x.port).foldl State.settleEnded (s.grant x g)
        else s.grant x g
      | none, none => s

/-- The request of a port at a target under an identifier, granted or not. -/
def State.item? (s : State) (port target id : Nat) (granted : Bool) : Option FabItem :=
  s.fabric.queue.find? fun x =>
    x.port == port && x.target == target && x.req.id == id && x.granted.isSome == granted

/-- What a completed request brings its master: the host its data, a check-value unit a burst to fold, after which it asks for the
next (R380, R415). -/
def State.deliverData (s : State) (x : FabItem) (bs : Bytes) : State :=
  if x.req.write then s
  else if x.port = 36 then s.hostData x.req bs
  else if 37 ≤ x.port && x.port ≤ 40 && s.reg 0x6000_07 (x.port - 37) = 1 then
    (s.foldBurst (x.port - 37) bs).askBurst (x.port - 37)
  else s

/-- A granted request has completed, with a corrected error or without (R299, R313, R317, R318). -/
def State.completeItem (s : State) (x : FabItem) (corrected : Bool) : State :=
  let bs := s.readData x
  let s1 := (((s.dropItem x).countDone x.port x.req.cls (x.granted.getD 0)).moveData x).afterService x
  (if corrected && x.answer.isNone then s1.noteCorrected x.req.address else s1).deliverData x bs

/-- The sectors of a request that are read, so that an error in them can refuse it: those of a read, and of a write the ones that
it enables in part (R312, R313). -/
def readSectors (r : FabReq) : List Nat := if r.write then partialSectors r else List.range (2 * r.beats)

/-- A granted request ends with a result (R299, R302, R313, R317, R318): of a channel, the one that its scheduler serves or that
its write queue answers; a granted request does not time out, nor is it refused because its channel leaves service, but it is
where a bank is no longer usable; the sector of an uncorrectable error and its syndrome are free values. -/
def State.endItem (s : State) (x : FabItem) (result : MemEnd) : State :=
  if !s.mayComplete x then s
  else match result with
  | .ok => s.completeItem x false
  | .corrected => s.completeItem x true
  | .timeout => s
  | .unusable =>
    if s.rangeUsable x.req.address (64 * x.req.beats) then s
    else ((s.dropItem x).refuseRequest x.port x.req (fb 0x03)).abortRead x.port x.req
  | .uncorrectable =>
    let sectors := readSectors x.req
    if x.answer.isSome || sectors.isEmpty then s
    else
      let d := s.draw
      let k := sectors.getD (d.1 / 2 ^ 16 % sectors.length) 0
      (((d.2.dropItem x).afterService x).readError x.port x.req.cls (x.req.address + 32 * k) (d.1 % 2 ^ 16)).abortRead
        x.port x.req

/-- FABRIC_COMPLETION (R299, R302, R313, R317, R318). -/
def execFabricCompletion (target : Fin 25) (port : Fin 42) (id : Nat) (result : MemEnd) (s : State) : Out :=
  whenFabric s fun s =>
    match s.item? port target id true with
    | none => s
    | some x => s.endItem x result

/-- CLASS_B_REFUSAL (R300): after L:5000.04 without a grant, or when its master's input buffer overflows. -/
def execClassBRefusal (port : Fin 42) (target : Fin 25) (id : Nat) (overflow : Bool) (s : State) : Out :=
  whenFabric s fun s =>
    match s.item? port target id false with
    | none => s
    | some x =>
      if x.req.cls = 1 && (overflow || s.waitedOut x.since (s.reg 0x5000_04)) then
        (((s.dropItem x).refuseAccess port (fb 0x01) x.req.address 1).noteRefusedB port x.req.address).loseFrame
          port x.req.address
      else s

/-- A class C request that has waited L:5000.05 without a grant is refused (R301). -/
def State.timeOut (s : State) (x : FabItem) : State :=
  if x.granted.isNone && x.req.cls = 2 && s.waitedOut x.since (s.reg 0x5000_05) then
    ((((s.dropItem x).refuseAccess x.port (fb 0x02) x.req.address 2).recordLimited second 0x0B1 (some (fb 0x02)) x.port
      (x.req.address % 2 ^ 40 : Nat)).loseRequest x.port 2 x.req.address (ck 0x04)).abortRead x.port x.req
  else s

/-- CLASS_C_TIMEOUT (R301). -/
def execClassCTimeout (port : Fin 42) (target : Fin 25) (id : Nat) (s : State) : Out :=
  whenFabric s fun s =>
    match s.item? port target id false with
    | none => s
    | some x => s.timeOut x

/-- READ_UNCORRECTABLE (R45, R313): with its request, where that is in the queues and served. -/
def execReadUncorrectable (port : Fin 42) (address syndrome : Nat) (s : State) : Out :=
  whenFabric s fun s =>
    let hit := s.fabric.queue.find? fun x =>
      x.port == port.val && x.granted.isSome && x.req.address ≤ address && address < x.req.address + 64 * x.req.beats
    match hit with
    | some x =>
      if s.mayComplete x && x.answer.isNone && (readSectors x.req).contains ((address - x.req.address) / 32) then
        (((s.dropItem x).afterService x).readError port x.req.cls address syndrome).abortRead port x.req
      else s
    | none => s.readError port (readClass port) address syndrome

end Sys2Proof.Machine
end

