-- ==== Sys2Proof/Machine/Operands.lean ====
section
/-! DEFINITION. The forms in which operands travel: the ledger frame and its bytes (R409), values on the wire (R407), and
the CAN FD frames that carry a ledger frame (R413). -/

namespace Sys2Proof

set_option Elab.async false

/-- The key of the entry that a request names. -/
def Req.key (r : Req) : Nat := r.index * 256 + r.sub

/-- Whether a request carries the last segment of its value (R410). -/
def Req.last (r : Req) : Bool := bitAt r.flags 0

/-- Whether a frame is valid: version, data length, and a length that agrees with what the path delivered (R409). -/
def Req.valid (r : Req) : Bool := r.version == 1 && r.declared ≤ 1024 && r.data.length == r.declared

end Sys2Proof

namespace Sys2Proof.Machine

set_option Elab.async false

/-! ### Values (R407) -/

/-- A value of an entry from the bytes of a request; none where its length is not the type's (R407). -/
def valOf (e : Entry) (b : Bytes) : Option Val :=
  if e.ty.bytes = 0 then some (.bytes b)
  else if b.length = e.ty.bytes then some (.num (beNat b))
  else none

/-- The bytes of an entry's value, most significant first (R407). -/
def bytesOf (e : Entry) : Val → Bytes
  | .num n => beBytes e.ty.bytes n
  | .bytes b => b

/-- Type codes (R407). -/
def Ty.code : Ty → Nat
  | .bool => 1 | .u8 => 2 | .u16 => 3 | .u32 => 4 | .u64 => 5 | .u40 => 6 | .i8 => 7 | .i16 => 8 | .i32 => 9 | .i64 => 10
  | .f32 => 11 | .time64 => 12 | .str => 13 | .blob => 14

/-- Access kind codes (R412). -/
def Access.code : Access → Nat
  | .ro => 1 | .rw => 2 | .rws => 3 | .wo => 4 | .const => 5 | .ltd => 6

/-- Whether a saved configuration holds an entry (R426). -/
def Entry.saved (e : Entry) (key : Nat) : Bool :=
  (e.acc == .rw || e.acc == .rws) && !e.perSession && key / 0x100000 != 7 && key < 0xF00000

/-- The descriptor of an entry (R412). -/
def Entry.descriptor (e : Entry) (key : Nat) : Bytes :=
  let b := fun (x : Bool) (k : Nat) => if x then k else 0
  let flags := b e.isStatic 1 + b e.perSession 2 + b e.nonVolatile 4 + b e.readAtReset 8 + b (e.saved key) 16
  [byte e.ty.code, byte e.acc.code, byte (readLevel key), byte (e.writeLevel key), byte flags, 0, 0, 0] ++ beBytes 4 e.len

/-! ### The ledger frame (R409) -/

/-- Bytes of a frame header (R409). -/
def headerLen : Nat := 24

/-- The most data bytes of a frame (R409). -/
def maxData : Nat := 1024

/-- The opcode and the request that a byte string spells; a string shorter than a header reads as one that ends in
zeros (R409). -/
def frameOf (b : Bytes) : Nat × Req :=
  let h := b ++ List.replicate (headerLen - b.length) 0
  (field h 1 1,
    { version := field h 0 1, session := field h 2 2, txn := field h 4 2, index := field h 6 2, sub := field h 8 1
      flags := field h 9 1, declared := if b.length < headerLen then maxData + 1 else field h 10 2
      offset := field h 12 4, reserved := field h 19 1, data := b.drop headerLen })

/-- A request frame as its peer sends it (R409). -/
def frameBytes (op : Nat) (r : Req) : Bytes :=
  [byte r.version, byte op] ++ beBytes 2 r.session ++ beBytes 2 r.txn ++ beBytes 2 r.index ++ [byte r.sub, byte r.flags] ++
    beBytes 2 r.declared ++ beBytes 4 r.offset ++ [0, 0, 0, byte r.reserved, 0, 0, 0, 0] ++ r.data

/-- A response frame (R409): `ss` stands in its Session field. -/
def responseOf (op : Nat) (r : Req) (ss : Nat) (x : Reply) (last : Bool) : Bytes :=
  [1, byte (op % 128 + 128)] ++ beBytes 2 ss ++ beBytes 2 r.txn ++ beBytes 2 r.index ++ [byte r.sub, if last then 1 else 0] ++
    beBytes 2 x.data.length ++ beBytes 4 r.offset ++
    (match x.code with
      | some c => beBytes 2 c.sub.letters ++ beBytes 1 c.val
      | none => [0, 0, 0]) ++ [0] ++ beBytes 4 x.result ++ x.data

/-! ### CAN FD (R413) -/

/-- The identifier of a ledger frame: a response or not, destination and source node (R413). -/
def canIdent (response : Bool) (dest source : Nat) : Nat :=
  0x1A * 2 ^ 24 + (if response then 2 ^ 23 else 0) + dest * 2 ^ 15 + source * 2 ^ 7

/-- Ledger frame bytes that one CAN frame carries (R413). -/
def canPart : Nat := 63

/-- The sizes of a CAN FD payload from 8 bytes on (PRESUMED of ISO 11898-1, log entry 176). -/
def canSizes : List Nat := [8, 12, 16, 20, 24, 32, 48, 64]

/-- A CAN FD payload with zeros up to the size that carries it (R413). -/
def canPadded (b : Bytes) : Bytes :=
  if b.length ≤ 8 then b
  else b ++ List.replicate ((canSizes.find? fun n => decide (b.length ≤ n)).getD 64 - b.length) 0

/-- The payloads of the CAN frames of a ledger frame of `n` parts, from part `k` on (R413). -/
def canPayloads (n : Nat) : Nat → Nat → Bytes → List Bytes
  | 0, _, _ => []
  | fuel + 1, k, b =>
    let head := (if k = 0 then 128 else 0) + (if k + 1 = n then 64 else 0) + k % 64
    canPadded (byte head :: b.take canPart) :: canPayloads n fuel (k + 1) (b.drop canPart)

/-- The CAN frames of a ledger frame (R413). -/
def canFrames (b : Bytes) : List Bytes :=
  let n := ceilDiv' b.length canPart
  canPayloads n n 0 b

end Sys2Proof.Machine
end

