-- ==== Sys2Proof/Machine/Scans.lean ====
section
/-! DEFINITION. The control of the check-value units and the end of their bursts (R379-R385). -/

namespace Sys2Proof.Machine

set_option Elab.async false

/-- A scan begins at the start, from the running value as it stands or fresh, and asks for its first burst (R379-R381, R383). -/
def State.beginScan (s : State) (u : Nat) (fresh : Bool) : State × Reply :=
  let a := s.reg 0x6000_03 u
  let len := s.reg 0x6000_04 u
  let ing := s.scanIngot u
  let bad := match ing with
    | some i => !(s.ingot i).shown || !(s.ingot i).holds a len
    | none => false
  if !s.scanRangeOk a len then (s, .no (ck 0x02))
  else if bad then (s, .no (ck 0x06))
  else
    let s1 := if fresh then s.setReg 0x6000_05 u (unitInit u) else s
    let s2 := s1.setScan u { start := a, len := len, done := 0, ingot := ing }
    let s3 := (s2.setReg 0x6000_07 u 1).setReg 0x6000_09 u 0
    let s4 := match ing with
      | some i => (s3.takeRef i (unitReader u)).setReg 0x6000_0C u (s.ingot i).seq
      | none => s3
    (s4.askBurst u, .ok)

/-- A suspended scan goes on from the byte after the last one folded, if its Ingot still holds the same frame (R381,
R383). -/
def State.resumeScan (s : State) (u : Nat) : State × Reply :=
  let x := s.scan u
  match x.ingot with
  | some i =>
    let g := s.ingot i
    if g.shown && g.seq == s.reg 0x6000_0C u then
      (((s.takeRef i (unitReader u)).setReg 0x6000_07 u 1).askBurst u, .ok)
    else (s, .no (ck 0x07))
  | none => ((s.setReg 0x6000_07 u 1).askBurst u, .ok)

/-- A write of L:6000.06 (R381): start, start fresh, suspend, abort. -/
def scanControlOp : WriteOp := fun s _ u v =>
  let st := s.reg 0x6000_07 u
  if v.n ≤ 2 then
    if st = 1 then (s, .no (ck 0x03))
    else if v.n = 1 && st = 2 then s.resumeScan u
    else s.beginScan u (v.n == 2)
  else if st != 1 then (s, .no (ck 0x03))
  else (s.setScan u { s.scan u with stopReq := v.n }, .ok)

/-! ### The commands -/

/-- START (R381). -/
def execStart (ss v : Nat) (s : State) : Out :=
  whenManaged s fun s => s.ledgerWrite ss 0x6000_06 (.num v) scanControlOp

/-- START_FRESH (R381). -/
def execStartFresh (ss v : Nat) (s : State) : Out :=
  whenManaged s fun s => s.ledgerWrite ss 0x6000_06 (.num v) scanControlOp

/-- SUSPEND (R381). -/
def execSuspend (ss v : Nat) (s : State) : Out :=
  whenManaged s fun s => s.ledgerWrite ss 0x6000_06 (.num v) scanControlOp

/-- ABORT_SCAN (R381). -/
def execAbortScan (ss v : Nat) (s : State) : Out :=
  whenManaged s fun s => s.ledgerWrite ss 0x6000_06 (.num v) scanControlOp

/-- The burst that a unit has under way. -/
def State.scanItem (s : State) (u : Nat) : Option FabItem := s.fabric.queue.find? fun x => x.port == unitPort u

/-- SCAN_BURST_DONE (R299, R301, R380, R384, R385): the burst under way ends with a result: one that waits for its grant can time
out, one that was granted completes or is refused. -/
def execScanBurstDone (unit : Fin 4) (result : MemEnd) (s : State) : Out :=
  whenFabric s fun s =>
    match s.scanItem unit with
    | none => s
    | some x =>
      if x.granted.isSome then s.endItem x result
      else if result = .timeout then s.timeOut x
      else s

end Sys2Proof.Machine
end

