-- ==== Sys2Proof/Machine/Power.lean ====
section
/-! DEFINITION. Power domains, clocks, reset, boot and live update (R388-R404, R457, R460), and the measurement gate's
power (R373). -/

namespace Sys2Proof.Machine

set_option Elab.async false

/-! ### Sessions end (R402, R415, R417) -/

/-- Close the sessions that a test picks; their per-session fields and partial writes are gone (R417). -/
def State.closeSessions (s : State) (which : Session → Bool) : State :=
  { s with acc := { s.acc with sessions := s.acc.sessions.filter fun x => !which x } }

/-- Whether a session came over PCIe. -/
def Session.onPcie (x : Session) : Bool := x.peer.path == 3

/-- Close every PCIe session (R415). -/
def State.closePcie (s : State) : State := s.closeSessions Session.onPcie

/-- A function stops being ready: its bit clears (R28, R398). -/
def State.clearReady (s : State) (bit : Nat) : State :=
  s.setReg 0x1010_01 0 (withBit (s.reg 0x1010_01) bit false)

/-! ### Domains (R388-R391) -/

/-- The channels of a DRAM domain (R388). -/
def domainChannels (d : Nat) : List Nat := (List.range 8).map (· + 8 * (d - 4))

/-- Crucible's content is lost with its power (R326). -/
def State.clearCrucible (s : State) : State :=
  { s with dram := { s.dram with
      mem := s.dram.mem.filter fun c => !(crucibleBase ≤ c.1 && c.1 < crucibleBase + crucibleSize) } }

/-- Set the state of every Crucible bank, L:5480.02; a change advances the epoch (R91, R326). -/
def State.setBanks (s : State) (st : Nat) : State :=
  let s1 := (List.range 8).foldl (fun (t : State) b => t.setReg 0x5480_02 b st) s
  if (List.range 8).all fun b => s.reg 0x5480_02 b == st then s1 else s1.advanceEpoch

/-- The ledger is served over Ethernet once the main loop runs, on a port that is enabled, with the domain on (R398). -/
def State.serveEthernet (s : State) : State :=
  if s.domain 21 = 2 && (List.range 2).any fun p => s.flag 0x6820_02 p then s.setReady 3 else s

/-- What a domain's blocks do once it is on (R217, R322, R326, R389, R398, R437): the log starts, channels train, ports
begin their bring-up, PCIe answers, and so does the ledger over Ethernet. A device that takes over starts its channels from section 4;
one in Resync trains them in full (R322, R350, R353). -/
def State.domainUp (s : State) (d : Nat) : State :=
  match d with
  | 3 => s.record 0x001 none (s.reg 0x1010_07) 0
  | 21 => if s.managed then s.serveEthernet else s
  | 4 | 5 => (domainChannels d).foldl (fun (t : State) c =>
      (t.setReg 0x5400_02 c 1).setChan c { t.chan c with
        stored := s.reg 0x5800_03 == 6 && (Tbl.find t.pair.training c).isSome }) s
  | 15 | 16 | 17 | 18 => (List.range 24).foldl State.tryStartPort s
  | 20 => s.setReady 4
  | 23 => s.setBanks 1
  | _ => s

/-- What is gone once a domain is off (R288, R326, R388), the log with the Fabric domain (R437). -/
def State.domainDown (s : State) (d : Nat) : State :=
  match d with
  | 3 => { s with log := {} }
  | 4 | 5 => (domainChannels d).foldl (fun (t : State) c => t.setReg 0x5400_02 c 0) s
  | 20 => s.clearReady 4
  | 21 => { s with time := { s.time with running := false } }.clearReady 3
  | 23 => s.clearCrucible.setBanks 0
  | _ => s

/-- The lanes of a port have lost their clock lock: E-0x091 with SW-0x06 for each in service (R233, R241). -/
def State.losePortClock (s : State) (p : Nat) : State :=
  (s.bringUpLanes p).foldl (fun (t : State) l =>
    if t.reg 0x4000_02 l = 8 then t.record 0x091 (some (sw 0x06)) l (t.reg 0x4000_03 l) else t) s

/-- The running outputs that a domain serves (R388): a scan-out cluster those of its engines and egress units, a lane group
those on its lanes, the display logic those on DisplayPort and DSI; the fabric, DRAM and the scaler pools serve all. -/
def State.domainOutputs (s : State) (d : Nat) : List Nat :=
  s.runningOutputs.filter fun o =>
    match d with
    | 3 | 4 | 5 | 10 | 11 => true
    | 6 | 7 | 8 | 9 => o / 8 == d - 6 || (match s.engineFor o with | some e => clusterDomain e == d | none => false)
    | 15 | 16 | 17 | 18 =>
      if s.onSwage o then (s.bringUpLanes (s.reg 0x3400_04 o)).any fun l => laneGroup l == d - 15
      else s.reg 0x3400_03 o == 2 && s.reg 0x3400_04 o / 3 == d - 15
    | 19 => !s.onSwage o
    | _ => false

/-- A domain's fault strikes the substitutions that run for its outputs, and takes the reserves in it that serve (R334). -/
def State.strikeDomain (s : State) (d : Nat) : State :=
  let lost := [16, 17].filter fun r => clusterDomain r == d && [1, 3].contains (s.reg 0x3420_02 r)
  let outs := (lost.flatMap s.outputsOf).filter fun o => (s.output o).running
  let s1 := s.strikeRunning ((s.domainOutputs d).filter fun o => !outs.contains o)
  let s2 := if outs.isEmpty then s1 else s1.strike outs
  match s2.recover.subst with
  | some x => if x.armed && lost.contains x.reserve then
      { s2 with recover := { s2.recover with subst := none } }.restartPlacing else s2
  | none => s2

/-- What a domain in fault takes with it (R390), with the code of its fault: its channels leave service, its ports go down, PCIe
sessions close, time stops, Crucible is empty, the controller stops, the log is gone. -/
def State.domainLost (s0 : State) (d : Nat) (c : Code) : State :=
  let s := s0.strikeDomain d
  match d with
  | 2 => { s with power := { s.power with mgmt := false } }.clearReady 0
  | 3 => { s with log := {} }.clearReady 0
  | 4 | 5 => ((domainChannels d).foldl (fun (t : State) k => t.setReg 0x5400_02 k 6) s).settleDram c
  | 15 | 16 | 17 | 18 =>
    ((List.range 24).filter fun p => (s.bringUpLanes p).any fun l => laneGroup l == d - 15).foldl
      (fun (t : State) p => if t.portInService p then (t.losePortClock p).portDown p (sw 0x08) else t) s
  | 20 => s.closePcie.clearReady 4
  | 21 => { s with time := { s.time with running := false } }.clearReady 3
  | 23 => s.clearCrucible.setBanks 0
  | _ => s

/-- The functions of the readiness board that a domain in fault keeps from becoming ready (R388, R398); DRAM settles with its
channels. -/
def State.functionsOf (s : State) (d : Nat) : List Nat :=
  match d with
  | 2 => [0, 2]
  | 20 => [4]
  | 21 => (if (List.range 2).any fun p => s.flag 0x6820_02 p then [3] else []) ++ [6]
  | 22 => [1]
  | _ => []

/-- The functions of a domain in fault that are not ready have failed, with its code (R398). -/
def State.failFunctions (s : State) (d : Nat) (c : Code) : State :=
  ((s.functionsOf d).filter fun b => !bitAt (s.reg 0x1010_01) b).foldl
    (fun (t : State) b => t.setFailed b (some c)) s

/-- A domain goes into fault with a code: its blocks are unavailable, its functions fail, the epoch advances, and in
automatic mode a re-plan is due (R390, R392, R398). -/
def State.failDomain (s : State) (d : Nat) (c : Code) : State :=
  let s1 := ((s.setReg 0x6400_02 d 4).record 0x102 (some c) d 0).failFunctions d c
  ((s1.domainLost d c).advanceEpoch).triggerReplan .resources (s1.domainOutputs d)

/-- DOMAIN_POWER_GOOD (R389). -/
def execDomainPowerGood (domain : Fin 24) (s : State) : Out :=
  .next (if s.power.refclk && s.domain domain = 1 then ((s.setReg 0x6400_02 domain 2).domainUp domain).settlePower else s)

/-- DOMAIN_POWER_TIMEOUT (R390, R392): 1 ms without power-good, or a PLL that has not locked. -/
def execDomainPowerTimeout (domain : Fin 24) (pll : Bool) (s : State) : Out :=
  .next (if s.power.refclk && s.domain domain = 1 then s.failDomain domain (pw (if pll then 0x03 else 0x01)) else s)

/-- POWER_GOOD_LOSS (R390): of a domain other than Hearth and Retention, which are never off while supplied. -/
def execPowerGoodLoss (domain : Fin 24) (s : State) : Out :=
  .next (if s.power.refclk && 2 ≤ domain.val && s.domain domain = 2 then s.failDomain domain (pw 0x01) else s)

/-- DOMAIN_HOLD_EXPIRY (R388): a domain not needed for L:6400.06 powers down. -/
def execDomainHoldExpiry (domain : Fin 24) (s : State) : Out :=
  .next (
    match Tbl.find s.power.unneeded domain with
    | some t =>
      if s.power.refclk && s.domain domain = 2 && s.domainHeld domain = 0 && t + milli * s.reg 0x6400_06 ≤ s.now then
        { s with power := { s.power with unneeded := Tbl.erase s.power.unneeded domain } }.setReg 0x6400_02 domain 3
      else s
    | none => s)

/-- DOMAIN_POWER_DOWN_DONE (R389): a request that waited for it is then served. -/
def execDomainPowerDownDone (domain : Fin 24) (s : State) : Out :=
  .next (
    if s.domain domain != 3 then s
    else
      let s1 := (s.setReg 0x6400_02 domain 0).domainDown domain
      if s1.power.waitingOn.contains domain.val then
        let s2 : State := { s1 with power := { s1.power with waitingOn := s1.power.waitingOn.filter (· != domain.val) } }
        (s2.setReg 0x6400_02 domain 1).bump 0x6400_05 domain
      else s1)

/-- A write of L:6400.04: it has no effect on Hearth or Retention (R391). -/
def forceOnOp : WriteOp := fun s _ d v => ((s.setReg 0x6400_04 d v.n).settlePower, .ok)

/-- FORCE_ON (R391). -/
def execForceOn (ss v : Nat) (s : State) : Out :=
  whenManaged s fun s => s.ledgerWrite ss 0x6400_04 (.num v) forceOnOp

/-- MEASUREMENT_GATE (R357-R374): a gate that is due closes, with the raw reading of each channel, once the firmware has been
loaded (R398). At 15 Hz and 4 Hz Hearth wakes the front end for the gate, and it powers down after it (R373); one that still
powers down is woken when that has ended (R389). -/
def execMeasurementGate (raw : List (BitVec 16)) (s : State) : Out :=
  whenLive s fun s =>
    let st := s.domain 22
    match s.gateDue with
    | none => s
    | some t =>
    if !s.flag 0x5C00_01 || !s.power.booted || (st != 2 && st != 0) then s
    else
      let s1 := if st = 2 then s else (s.setReg 0x6400_02 22 2).bump 0x6400_05 22
      let s2 := s1.gate t (raw.map (·.toNat))
      if s2.keysNeeded || s2.flag 0x6400_04 22 then s2.settlePower else s2.setReg 0x6400_02 22 3

/-! ### Clocks (R393, R394) -/

/-- CRYSTAL_STABLE (R393). -/
def execCrystalStable (s : State) : Out :=
  .next (
    if s.power.crystal then s
    else
      let s1 : State := { s with power := { s.power with crystal := true } }
      ((s1.setReg 0x6400_09 0 1).record 0x103 (some (pw 0x0C)) 0 0).settlePower)

/-- CRYSTAL_TIMEOUT (R393): 2 s without the crystal. -/
def execCrystalTimeout (s : State) : Out :=
  .next (
    if s.power.crystal || s.power.crystalLate || s.now < 2 * second then s
    else { s with power := { s.power with crystalLate := true } }.record 0x103 (some (pw 0x02)) 0 0)

/-- REFCLK_LOSS (R394): every fast domain stops, the controller and its heartbeat with them. -/
def execRefclkLoss (s : State) : Out := .next { s with power := { s.power with refclk := false } }

/-! ### Reset (R394, R395, R450, R457) -/

/-- The swap in progress. -/
def State.swapNow (s : State) : Option HandOff := s.power.handOff.filter fun h => !h.ended

/-- The swap in progress is over; the hand-off area keeps what it holds. -/
def State.endSwap (s : State) : State :=
  { s with power := { s.power with handOff := s.power.handOff.map fun h => { h with ended := true } } }

/-- The slot that a reset boots in place of the preferred one: the previous slot, during a trial or the swap to one, and until a
slot has been loaded the one that an earlier reset found (R404). -/
def State.previousSlot (s : State) : Option Nat :=
  match s.swapNow with
  | some h => if h.back then some h.dest else some h.from'
  | none => if s.reg 0x6408_0C = 1 then some (1 - s.reg 0x6408_02) else s.power.bootFrom

/-- What a reset with a cause leaves, from the state before it: fuses, flash and non-volatile store, what is plugged in,
the levels of the pins, and what belongs to the model; Retention keeps the Ember store, the key states and the hand-off area,
and Hearth its clock (R373, R393, R395). Without REFCLK the device stays in reset (R394). -/
def State.afterReset (s : State) (cause : Nat) (retained : Bool) : State :=
  let ember : Pair := { secA := s.pair.secA, secB := s.pair.secB, header := s.pair.header, copyA := s.pair.copyA
                        copyB := s.pair.copyB, training := s.pair.training, parking := s.pair.parking
                        trainingOther := s.pair.trainingOther, parkingOther := s.pair.parkingOther
                        lastTime := s.pair.lastTime }
  let keyRegs := s.regs.filter fun p => [0x5C08_03, 0x5C10_0C, 0x5C10_0E].contains (p.1 / 65536)
  let clock := s.power.crystal && retained
  let base : State := { State.reset with
    sent := s.sent, fuses := s.fuses, nvA := s.nvA, nvB := s.nvB, sinks := s.sinks, fresh := s.fresh, pending := s.pending
    pins := { s.pins with pairActO := false }
    pair := if retained then ember else {}
    keys := if retained then { key := s.keys.key, dry := s.keys.dry } else {}
    power := { refclk := s.power.refclk, flash := s.power.flash, crystal := clock
               crystalLate := s.power.crystalLate && retained, bootFrom := s.previousSlot, held := !s.power.refclk
               handOff := if retained then s.endSwap.power.handOff else none } }
  let s1 := if retained then keyRegs.foldl (fun (t : State) p => { t with regs := Tbl.put t.regs p.1 p.2 }) base else base
  let s2 := if retained then s1.setReg 0x5800_08 0 (s.reg 0x5800_08) else s1
  ((s2.setReg 0x1010_07 0 cause).setReg 0x6400_09 0 (if clock then 1 else 0)).settlePower

/-- A device reset with a cause (R395). -/
def State.deviceReset (s : State) (cause : Nat) : State := s.afterReset cause true

/-- REFCLK_RETURN (R394): a device reset with cause 5; a device that has not left reset for want of it leaves it now, with the
cause of that reset. -/
def execRefclkReturn (s : State) : Out :=
  .next (
    if s.power.refclk then s
    else { s with power := { s.power with refclk := true } }.deviceReset (if s.power.held then s.reg 0x1010_07 else 5))

/-- Power returns: Hearth and Retention start without state; a write of the non-volatile store that was in progress has left the
previous copy in force (R395, R425, R450). -/
def State.powerOn (s : State) : State :=
  (if s.keys.saving.isSome then s.setSpareNv { s.spareNv with valid := false } else s).afterReset 1 false

/-- POWER_ON_RESET (R395, R425, R450). -/
def execPowerOnReset (s : State) : Out := .next s.powerOn

/-- SYS_RST_N (R395, R457): low for 10 µs or more it resets the device, for less than 1 µs it is filtered, and between its
effect is undefined. -/
def execSysRstN (lowNs : Nat) (s : State) : Out :=
  if lowNs < 1000 then .next s
  else if lowNs < 10000 then .fault .resetPulseUndefined
  else .next (s.deviceReset 2)

/-- A write of L:1010.08 (R395). -/
def deviceResetOp : WriteOp := fun s _ _ _ => (s.deviceReset 4, .ok)

/-- DEVICE_RESET (R395). -/
def execDeviceReset (ss v : Nat) (s : State) : Out :=
  whenManaged s fun s => s.ledgerWrite ss 0x1010_08 (.num v) deviceResetOp

/-- PCIE_PERST (R395, R415): a change resets or releases the PCIe domain and closes every PCIe session; a domain still on when
it rises answers at once (R398). -/
def execPciePerst (level : Bool) (s : State) : Out :=
  .next (
    let s1 : State := { s with pins := { s.pins with perstN := level } }
    if s.pins.perstN = level then s
    else
      let s2 : State := { s1 with acc := { s1.acc with
          mailbox := [], mailboxReply := [], mailboxRequest := [], msixTable := [] } }
      let s3 := ((s2.closePcie.setReg 0x6830_01 0 0).setReg 0x6830_02 0 0)
      if !level then (s3.clearReady 4).settlePower
      else
        let s4 := s3.settlePower
        if s4.domain 20 = 2 && s4.live then s4.setReady 4 else s4)

/-- FUNCTION_LEVEL_RESET (R415). -/
def execFunctionLevelReset (s : State) : Out := whenLive s State.closePcie

/-- PCIE_LINK_CHANGE (R415, L:6830.01-.02). -/
def execPcieLinkChange (generation : Fin 5) (width : Fin 9) (s : State) : Out :=
  whenLive s fun s => (s.setReg 0x6830_01 0 generation).setReg 0x6830_02 0 (if generation.val = 0 then 0 else width)

/-- ETHERNET_LINK_CHANGE (R279, R414): the speed in force of a port that is served, at a speed that it allows. -/
def execEthernetLinkChange (port : Fin 2) (speed : Fin 4) (s : State) : Out :=
  whenLive s fun s =>
    let allowed := speed.val = 0 || (s.flag 0x6820_02 port && bitAt (s.reg 0x6820_04 port) (speed.val - 1))
    if allowed then s.setReg 0x6820_03 port speed else s

/-! ### Boot (R396-R398) -/

/-- A big-endian field of a firmware slot's bytes. -/
def slotField (b : Bytes) (off len : Nat) : Nat := field b off len

/-- The firmware version that a slot's header holds, 0 with none (L:6408.03-.04). -/
def slotVersion (b : Bytes) : Nat := if slotField b 0 4 = 0x44514649 then slotField b 8 4 else 0

/-- Bytes of a public key at the start of a body: x then y (R397; log entry 52). -/
def keyBytes : Nat := 96

/-- Whether a firmware slot is valid (R397). -/
def State.slotValid (s : State) (b : Bytes) : Bool :=
  let len := slotField b 16 4
  let body := slice b 256 len
  let key := body.take keyBytes
  let k := slotField b 6 1
  slotField b 0 4 == 0x44514649 && slotField b 4 2 == 1 && slotField b 7 1 == 0 && (slice b 170 86).all (· == 0) &&
  k < 4 && 4096 ≤ len && len ≤ 4194304 && body.length == len &&
  !(Config.imageKeyHash k).isEmpty && !s.fuses.imageKeyRevoked.contains k && sha384 key == Config.imageKeyHash k &&
  ecdsaOk (beNat (key.take 48)) (beNat (key.drop 48)) (slotField b 72 48) (slotField b 120 48) (sha384 (b.take 72)) &&
  slice b 24 48 == sha384 body && s.fuses.minSecurity ≤ slotField b 12 4

/-- The bytes of a firmware slot in flash (R396). -/
def State.slotBytes (s : State) (k : Nat) : Bytes := Tbl.get [] s.power.flash k

/-- The slot in force, L:6408.02. -/
def State.slotInForce (s : State) : Nat := s.reg 0x6408_02

/-- An event of a firmware slot: E-0x104 or E-0x105 with its version (R440). -/
def State.noteSlot (s : State) (event : Nat) (c : Code) (k : Nat) : State :=
  s.record event (some c) k (slotVersion (s.slotBytes k) : Nat)

/-- A slot starts: it is in force, and its hand-off version with it (R396, R397). -/
def State.startSlot (s : State) (k : Nat) : State :=
  ((s.setReg 0x6408_02 0 k).setReg 0x6408_0D 0 (slotField (s.slotBytes k) 168 2)).setReg 0x6408_08 k 1

/-- Whether an entry is a block enable, which a saved configuration loads into the shadow (R426). -/
def loadsShadow (key : Nat) : Bool := blockEnable key

/-- One saved value is loaded; one out of range is left at its default, with E-0x113. It is judged beside the other saved values,
which `whole` holds (R426). -/
def State.loadSaved (whole s : State) (slot : Nat) (v : Val) : State :=
  let key := slot / 65536
  let inst := slot % 65536
  match entryAt key with
  | none => s
  | some e =>
    if !whole.rangeOk e key inst v then s.record 0x113 (some (lg 0x04)) 0 key true
    else if loadsShadow key then s.setShadow key inst v
    else
      let s1 := s.setActive key inst v
      if key = 0x4800_02 then { s1 with time := { s1.time with rates := noteRate s1.now (s1.reg key) s1.time.rates } } else s1

/-- The non-volatile store is loaded: a saved configuration, then entries kept there or read at reset and saved
baselines; the role and the pair mode apply from now (R5, R339, R371, R425, R426). -/
def State.loadStore (s : State) : State :=
  let n := s.nv
  let s1 := match n.saved with
    | none => s
    | some c =>
      let w := c.1.foldl (fun (t : State) (p : Nat × Nat) => t.setReg (p.1 / 65536) (p.1 % 65536) p.2) s
      let whole := c.2.foldl (fun (t : State) (p : Nat × Bytes) => t.setBlob (p.1 / 65536) (p.1 % 65536) p.2) w
      let t := c.1.foldl (fun (t : State) (p : Nat × Nat) => whole.loadSaved t p.1 (.num p.2)) (s.setReg 0x6800_08 0 1)
      c.2.foldl (fun (t : State) (p : Nat × Bytes) => whole.loadSaved t p.1 (.bytes p.2)) t
  let s2 := n.regs.foldl (fun (t : State) p => t.setReg (p.1 / 65536) (p.1 % 65536) p.2) s1
  let s3 := n.blobs.foldl (fun (t : State) p => t.setBlob (p.1 / 65536) (p.1 % 65536) p.2) s2
  let s4 := n.baselines.foldl (fun (t : State) p => t.setReg 0x5C10_10 p.1 p.2) s3
  let role := if s4.fuses.roleLock != 0 then s4.fuses.roleLock else s4.reg 0x1000_04
  let s5 := s4.setReg 0x1000_05 0 role
  if s5.flag 0x5800_01 then s5.setPairState 1 none else s5

/-- A tally row that power loss left unwritten is written at boot, with E-0x115 (R428). -/
def State.recoverTally (s : State) : State :=
  match s.fuses.unrecorded with
  | none => s
  | some r =>
    let row := { r with time := 0, recovered := true }
    let s1 : State := { s with fuses := { s.fuses with tally := s.fuses.tally ++ [row], unrecorded := none } }
    s1.record 0x115 none s.fuses.tally.length row.new

/-- The boot ROM starts a slot that is valid: the one asked for, else the other with E-0x104 and PW-0x04; with neither
the device is in recovery with PW-0x05 (R4, R397). -/
def State.romStart (s : State) (want : Nat) : State :=
  let other := 1 - want
  if s.slotValid (s.slotBytes want) then s.startSlot want
  else if s.slotValid (s.slotBytes other) then (s.noteSlot 0x104 (pw 0x04) other).startSlot other
  else
    let s1 := s.noteSlot 0x104 (pw 0x05) want
    { s1 with acc := { s1.acc with recovery := true }, power := { s1.power with mgmt := true } }.endSwap

/-- The timing entries of the channels as the memory configuration of the boot image of the slot in force has them, inside their
ranges; rate and density are the same for all (R308, R309; log entry 171). -/
def State.loadMemory (s : State) : State :=
  let conf := fun (sub c : Nat) => Config.memoryConfig (s.slotBytes s.slotInForce) sub (if sub ≤ 4 then 0 else c)
  (List.range 16).foldl (fun (t : State) c => (List.range 10).foldl (fun (u : State) k =>
    match (entryAt (0x5400_03 + k)).map fun (e : Entry) => e.range with
    | some (.span lo hi) => u.setReg (0x5400_03 + k) c (lo.toNat + conf (3 + k) c % (hi.toNat - lo.toNat + 1))
    | some (.oneOf vs) => u.setReg (0x5400_03 + k) c (vs.getD (conf (3 + k) c % vs.length) 0)
    | _ => u) t) s

/-- A slot has been loaded for the first time since reset: an unrecorded tally row, the memory configuration of the boot image and
the non-volatile store are read (R309, R397, R428). -/
def State.bootUp (s : State) : State :=
  { s.recoverTally.loadMemory.loadStore with power := { s.power with booted := true, bootFrom := none } }

/-- BOOT_IMAGE_LOADED (R397, R404): the preferred slot, or the previous one after a reset during a trial, else the other,
else recovery, in which only some of the ledger is served. -/
def execBootImageLoaded (slotA slotB : Bytes) (s : State) : Out :=
  .next (
    if !s.live || s.domain 2 != 2 || s.power.booted || s.acc.recovery then s
    else
      let s1 : State := { s with power := { s.power with flash := [(0, slotA), (1, slotB)] } }
      let want := s1.power.bootFrom.getD (Tbl.get 0 s1.nv.regs (regKey 0x6408_01 0) % 2)
      let s2 := s1.romStart want
      (if s2.acc.recovery then s2 else s2.bootUp).settlePower)

/-- The functions that are ready with the firmware's main loop: management and the ledger's paths; time, on free run
(R276, R398). A device that was fenced without its controller records it now (R343), and the engines that failed meanwhile are
served (R28, R403). -/
def State.servePaths (s : State) : State :=
  let s2 := ((s.setReady 0).setReady 2).serveEthernet
  let s2 : State := if s2.reg 0x5800_03 = 7 && s2.pair.unlogged then
      { s2 with pair := { s2.pair with unlogged := false } }.record 0x0D2 (some (pa 0x03)) 0 s2.imageGen
    else s2
  (if s2.reg 0x4808_01 = 0 then s2.lockTime else s2).serveWaiting

/-- The slot started in a swap has failed: the slot left is started again from the same hand-off, once (R403). -/
def State.failSwap (s : State) (h : HandOff) : State :=
  if h.failed then { s with power := { s.power with handOff := some { h with lost := true } } }
  else
    let s1 : State := { s with power := { s.power with handOff := some { h with failed := true, since := s.now } } }
    (s1.noteSlot 0x105 (pw 0x07) h.dest).romStart h.from'

/-- The firmware is in its main loop (R398, R402-R404): it runs; after a swap it has read the hand-off, or the slot left is
started again. A slot started again on trial has its trial time again (DESIGN CHOICE, log entry 170). -/
def State.mainLoop (s : State) (handOffRead : Bool) : State :=
    if !s.live || s.domain 2 != 2 || !s.power.booted || s.power.mgmt then s
    else
      let run : State := { s with power := { s.power with mgmt := true } }.endSwap
      match s.swapNow with
      | none => run.servePaths
      | some h =>
        if !handOffRead then s.failSwap h
        else if h.failed then
          ({ run with power := { run.power with
              trialSince := if s.reg 0x6408_0C = 1 then some s.now else none } } : State).servePaths
        else if h.back then (run.setReg 0x6408_0C 0 0).servePaths
        else
          let s1 : State := { run with power := { run.power with trialSince := some s.now } }
          ((s1.setReg 0x6408_0C 0 1).servePaths).noteSlot 0x105 (pw 0x0D) h.dest

/-- FIRMWARE_START_TIMEOUT (R403): the slot started is not in its main loop within 300 ms. -/
def execFirmwareStartTimeout (s : State) : Out :=
  .next (
    match s.swapNow with
    | some h => if s.live && h.since + 300 * milli ≤ s.now then s.failSwap h else s
    | none => s)

/-- MANAGEMENT_CONTROLLER_STOP (R28). -/
def execManagementControllerStop (s : State) : Out :=
  whenManaged s fun s => { s with power := { s.power with mgmt := false } }.clearReady 0

/-- HEARTH_WATCHDOG_EXPIRY (R395, R403): with the controller stopped, in a swap once the restart of the slot left has failed
too, a device reset with cause 3. -/
def execHearthWatchdogExpiry (s : State) : Out :=
  .next (
    let failed := match s.swapNow with | some h => h.lost | none => true
    if s.live && s.power.booted && !s.power.mgmt && failed then s.deviceReset 3 else s)

/-! ### Live update (R401-R404) -/

/-- What flash reads where nothing was written (PRESUMED of NOR flash, log entry 53). -/
def erased : Byte := 0xFF

/-- A byte string with a piece written at an offset. -/
def overlayBytes (b : Bytes) (off : Nat) (piece : Bytes) : Bytes :=
  b.take off ++ List.replicate (off - b.length) erased ++ piece ++ b.drop (off + piece.length)

/-- Bytes of a firmware slot of the flash (R396). -/
def slotSize : Nat := 0x800000

/-- A write of L:6408.06 (R401); the slot written is no longer known to be valid (DEDUCED, log entry 54). -/
def imageChunkOp : WriteOp := fun s _ k v =>
  let off := field v.b 0 4
  let piece := v.b.drop 4
  if k = s.slotInForce then (s, .no (pw 0x09))
  else if piece.length % 256 != 0 || slotSize < off + piece.length then (s, .no (pw 0x0A))
  else
    let b := overlayBytes (s.slotBytes k) off piece
    ({ s with power := { s.power with flash := Tbl.put s.power.flash k b } }.setReg 0x6408_08 k 0, .ok)

/-- IMAGE_CHUNK (R401). -/
def execImageChunk (ss : Nat) (blob : Bytes) (s : State) : Out :=
  whenManaged s fun s => s.ledgerWrite ss 0x6408_06 (.bytes blob) imageChunkOp

/-- A write of L:6408.07 (R401). -/
def verifySlotOp : WriteOp := fun s _ _ v =>
  if v.n = s.slotInForce then (s, .no (pw 0x09))
  else ({ s with power := { s.power with verifying := some v.n } }.setReg 0x6408_08 v.n 3, .ok)

/-- VERIFY_SLOT (R401). -/
def execVerifySlot (ss v : Nat) (s : State) : Out :=
  whenManaged s fun s => s.ledgerWrite ss 0x6408_07 (.num v) verifySlotOp

/-- VERIFY_DONE (R401): with the checks of R397. -/
def execVerifyDone (s : State) : Out :=
  whenManaged s fun s =>
    match s.power.verifying with
    | some k =>
      { s with power := { s.power with verifying := none } }.setReg 0x6408_08 k (if s.slotValid (s.slotBytes k) then 1 else 2)
    | none => s

/-- Whether an activation is refused (R402); in recovery no firmware runs whose hand-off version counts (DEDUCED, log entry
169). -/
def State.activationRefused (s : State) : Bool :=
  let k := 1 - s.slotInForce
  let b := s.slotBytes k
  let v := s.reg 0x6408_0D
  !s.commits.waiting.isEmpty || s.smith.placing != .idle || s.recovering != 0 || !s.recover.queue.isEmpty ||
  s.keys.saving.isSome || s.reg 0x6408_08 k != 1 ||
  (!s.acc.recovery && (v < slotField b 20 2 || slotField b 22 2 < v))

/-- The controller hands off and restarts from another slot: sessions close, and nothing else changes (R402). A device in
recovery leaves it and boots that slot (R397). -/
def State.swap (s : State) (dest : Nat) (back : Bool) : State :=
  let h : HandOff := { from' := s.slotInForce, dest := dest, back := back, since := s.now }
  let s1 := s.closeSessions fun _ => true
  let s2 : State := { s1 with
    power := { s1.power with mgmt := false, handOff := some h, trialSince := none }
    acc := { s1.acc with recovery := false } }
  let s3 := (s2.clearReady 0).romStart dest
  if s.acc.recovery && !s3.acc.recovery then s3.bootUp.settlePower else s3

/-- A write of L:6408.09 (R402). -/
def activateOp : WriteOp := fun s _ _ _ =>
  if s.activationRefused then (s, .no (pw 0x06)) else (s.swap (1 - s.slotInForce) false, .ok)

/-- ACTIVATE (R402). -/
def execActivate (ss v : Nat) (s : State) : Out :=
  whenManaged s fun s => s.ledgerWrite ss 0x6408_09 (.num v) activateOp

/-- A write of L:6408.0A (R404): the trial is over, and the slot in force is preferred from now on. -/
def confirmOp : WriteOp := fun s _ _ _ =>
  if s.reg 0x6408_0C = 0 then (s, .ok)
  else
    let k := s.slotInForce
    let s1 : State := { s with power := { s.power with trialSince := none } }
    let r := ((s1.setReg 0x6408_0C 0 0).setReg 0x6408_01 0 k).writeNv .done 0x6408_01 fun n =>
      { n with regs := Tbl.put n.regs (regKey 0x6408_01 0) k }
    (r.1, .ok)

/-- CONFIRM (R404). -/
def execConfirm (ss v : Nat) (s : State) : Out :=
  whenManaged s fun s => s.ledgerWrite ss 0x6408_0A (.num v) confirmOp

/-- TRIAL_TIMEOUT (R404): a slot that is not confirmed within L:6408.0B is left again, without the checks of R402. -/
def execTrialTimeout (s : State) : Out :=
  whenManaged s fun s =>
    match s.power.trialSince with
    | some t =>
      if t + second * s.reg 0x6408_0B ≤ s.now then
        (s.noteSlot 0x105 (pw 0x08) s.slotInForce).swap (1 - s.slotInForce) true
      else s
    | none => s

/-! ### The thermal trip (R460) -/

/-- THERM_TRIP (R460): it works in every state, and nothing else happens. -/
def execThermTrip (s : State) : Out := .next { s with pins := { s.pins with thermTripN := false } }

/-- THERM_TRIP_RELEASE (R460). -/
def execThermTripRelease (s : State) : Out := .next { s with pins := { s.pins with thermTripN := true } }

end Sys2Proof.Machine
end

