-- ==== Sys2Proof/Machine/Pair.lean ====
section
/-! DEFINITION. The pair (R339-R354): pins and heartbeat, states, the Bellows receiver and the Ember store, takeover,
resync and hand-over. Hearth and Retention carry most of it, so it works in a device whose fast domains are off. -/

namespace Sys2Proof.Machine

set_option Elab.async false

/-! ### Deciding and fencing (R342, R343) -/

/-- A device becomes Active: it raises PAIR_ACT_O, and places its start-up scene if DRAM is ready (R342, R399). -/
def State.becomeActive (s : State) : State :=
  let s1 := { s with pins := { s.pins with pairActO := true } }.enterActive none
  if bitAt (s1.reg 0x1010_01) 5 then s1.placeStartUp else s1

/-- A device enters Resync: what section 5 holds is of an earlier bring-up, and counts no more (R353; DEDUCED, log entry 185). -/
def State.enterResync (s : State) : State :=
  { s with pair := { s.pair with parking := [], parkingOther := s.pair.parking } }.setPairState 4 none

/-- PAIR_DECIDE (R342): the ledger shows ready once a path of it does. -/
def execPairDecide (s : State) : Out :=
  .next (
    if s.reg 0x5800_03 != 1 then s
    else if s.pins.pairActI then s.enterResync
    else if s.reg 0x5800_02 = 0 then
      (if bitAt (s.reg 0x1010_01) 2 || bitAt (s.reg 0x1010_01) 3 then s.becomeActive else s)
    else if s.now < 2 * second then s
    else if s.pair.lastEdge.isNone then s.becomeActive
    else s.enterResync)

/-- A port in service is parked: its next anchor announces Banked where it runs at 10 Gb/s or above (R230, R231, R343,
R353). -/
def State.parkPort (s : State) (p : Nat) : State :=
  s.setPort p { s.port p with parked := true, bankReq := s.reg 0x4400_09 p == 2 && decide (2 ≤ s.portRate p) }

/-- A port of a fenced device is parked, and no video that waits on it leaves (R343). -/
def State.fencePort (s : State) (p : Nat) : State :=
  (s.setPort p { s.port p with outbox := (s.port p).outbox.filter fun w => cellType w.cell != 1 }).parkPort p

/-- The ports in service, Banked included. -/
def State.servingPorts (s : State) : List Nat := (List.range 24).filter s.portInService

/-- PAIR_ACT_RISE (R341, R343): fencing needs Hearth only; E-0x0D2 waits for a controller that is stopped. -/
def execPairActRise (s : State) : Out :=
  .next (
    let s1 : State := { s with pins := { s.pins with pairActI := true } }
    if !([2, 3, 6].contains (s1.reg 0x5800_03)) then s1
    else
      let s2 : State := { s1 with pins := { s1.pins with pairActO := false } }
      let s3 := s2.servingPorts.foldl State.fencePort (s2.setPairState 7 none)
      if s3.managed then s3.record 0x0D2 (some (pa 0x03)) 0 s3.imageGen
      else { s3 with pair := { s3.pair with unlogged := true } })

/-! ### Heartbeat (R340, R341) -/

/-- Whether the image is current: its last header commit is at most 1 s old (R347). -/
def State.imageCurrent (s : State) : Bool :=
  match s.pair.committedAt with
  | some t => decide (s.now ≤ t + second)
  | none => false

/-- Whether the boot ROM's loading stands for the main loop: for 300 ms of a firmware swap (R340). -/
def State.swapping (s : State) : Bool :=
  match s.swapNow with
  | some h => !h.failed && decide (s.now < h.since + 300 * milli)
  | none => false

/-- The width in µs of the pulse that is due, if one is (R340). -/
def State.pulseWidth (s : State) (mainLoop : Bool) : Option Nat :=
  match s.reg 0x5800_03 with
  | 2 | 3 =>
    if !s.pair.yielded && s.live && ((s.power.mgmt && mainLoop) || s.swapping) then some 100 else none
  | 4 => if s.live then some 500 else none
  | 5 => some (if s.imageCurrent then 300 else 500)
  | _ => none

/-- HEARTBEAT_SEND (R340): with whether the firmware has signalled its main loop since the last pulse. -/
def execHeartbeatSend (mainLoop : Bool) (s : State) : Out :=
  .next (
    match s.pulseWidth mainLoop with
    | some w => s.send (.heartbeat w)
    | none => s)

/-- The partner's state that a pulse width shows: 3 Active, 2 ready, 1 not ready (R340). -/
def partnerOf (widthUs : Nat) : Option Nat :=
  if widthUs = 100 then some 3 else if widthUs = 300 then some 2 else if widthUs = 500 then some 1 else none

/-- The partner's state is known anew: an Active follows it, and pushes every section to one that is not ready (R341,
R347). -/
def State.notePartner (s : State) (now : Nat) : State :=
  let was := s.reg 0x5800_04
  let s1 := s.setReg 0x5800_04 0 now
  match s1.reg 0x5800_03 with
  | 2 =>
    if now < 2 then
      let s2 := s1.setPairState 3 (some (pa 0x09))
      if now = 1 then s2.pushAll else s2
    else s1
  | 3 =>
    if now = 2 then s1.setPairState 2 (some (pa 0x0A))
    else if now = 1 && was != 1 then s1.pushAll else s1
  | _ => s1

/-- HEARTBEAT_PULSE (R340, R341): a rising edge, with the width of its pulse. -/
def execHeartbeatPulse (widthUs : Nat) (s : State) : Out :=
  .next (
    if s.reg 0x5800_03 = 0 then s
    else
      let s1 : State := { s with pair := { s.pair with lastEdge := some s.now, missed := 0 } }
      match partnerOf widthUs with
      | some n => s1.notePartner n
      | none => s1)

/-- Whether no rising edge has come for a time in ns (R340, R349); none ever seen counts from reset. -/
def State.silent (s : State) (ns : Nat) : Bool := decide (s.pair.lastEdge.getD 0 + ns ≤ s.now)

/-- PARTNER_HEARTBEAT_ABSENT (R340, R341): a pulse is missed 1,250 µs after the last, and another each 1,000 µs. -/
def execPartnerHeartbeatAbsent (s : State) : Out :=
  .next (
    if s.reg 0x5800_03 = 0 || !s.silent (1250000 + 1000000 * s.pair.missed) then s
    else { s with pair := { s.pair with missed := s.pair.missed + 1 } }.notePartner 0)

/-! ### The Ember store (R345, R347) -/

/-- One copy of a section: 0 A, 1 B. -/
def State.sectionCopy (s : State) (copy k : Nat) : Section' :=
  Tbl.get {} (if copy = 0 then s.pair.secA else s.pair.secB) k

/-- Replace a copy of a section. -/
def State.setSection (s : State) (copy k : Nat) (x : Section') : State :=
  if copy = 0 then { s with pair := { s.pair with secA := Tbl.put s.pair.secA k x } }
  else { s with pair := { s.pair with secB := Tbl.put s.pair.secB k x } }

/-- The bytes of a section in the copy that the header names. -/
def State.heldSection (s : State) (k : Nat) : Bytes :=
  let h := Tbl.get ({} : Head) s.pair.header k
  (s.sectionCopy h.copy k).bytes.take h.len

/-- Whether the receiver takes Bellows frames: it is the partner of an Active (R346). -/
def State.listens (s : State) : Bool := [1, 4, 5].contains (s.reg 0x5800_03)

/-- A Bellows frame discarded: L:5800.0C and E-0x0D7, at most once per second while the log runs (R346). -/
def State.bellowsError (s : State) : State :=
  let s1 := s.bump 0x5800_0C
  if s1.reg 0x6400_02 3 = 2 then s1.recordLimited second 0x0D7 (some (pa 0x0E)) 0 s1.imageGen else s1

/-- Receive a Bellows frame of a type: the sync word is sought, and a frame whose CRC-32C fails is discarded (R346). -/
def State.onBellows (s : State) (frame : Bytes) (type : Nat) (f : State → State) : State :=
  let len := field frame 12 2
  let body := slice frame 2 (14 + len)
  if !s.listens || field frame 0 2 != 0xB7E1 then s
  else if 1024 < len || frame.length != 20 + len || field frame (16 + len) 4 != crc32c body then s.bellowsError
  else if field frame 2 1 != type then s
  else f s

/-- A piece of a section goes into the copy not in force; the first of a generation starts that copy afresh (R345,
R347). -/
def State.takeSection (s : State) (frame : Bytes) : State :=
  let k := field frame 3 1
  let gen := field frame 4 4
  let off := field frame 8 4
  let piece := slice frame 16 (field frame 12 2)
  if k < 1 || 3 < k || sectionSize k < off + piece.length then s
  else
    let copy := 1 - (Tbl.get ({} : Head) s.pair.header k).copy
    let old := s.sectionCopy copy k
    let base : Bytes := if old.generation = gen then old.bytes else []
    s.setSection copy k { generation := gen, bytes := overlayBytes base off piece }

/-- BELLOWS_SECTION_DATA (R346). -/
def execBellowsSectionData (frame : Bytes) (s : State) : Out := .next (s.onBellows frame 1 fun s => s.takeSection frame)

/-- What a header copy says of a section (R345; log entry 51). -/
def headOf (b : Bytes) (k : Nat) : Head :=
  let o := 8 + 13 * (k - 1)
  { copy := field b o 1 % 2, generation := field b (o + 1) 4, len := field b (o + 5) 4, crc := field b (o + 9) 4 }

/-- Whether a header's bytes are whole: magic and CRC-32C (R345). -/
def headerOk (b : Bytes) : Bool :=
  b.length == 51 && field b 0 4 == 0x4451454D && field b 47 4 == crc32c (b.take 47)

/-- Whether a sec's copy holds what a header says of it. -/
def State.sectionWhole (s : State) (k : Nat) (h : Head) : Bool :=
  let x := s.sectionCopy h.copy k
  x.generation == h.generation && h.len ≤ x.bytes.length && crc32c (x.bytes.take h.len) == h.crc

/-- The header copy in force: the valid one with the higher generation, copy A where both have one (R345). -/
def Pair.headerInForce (p : Pair) : Option Bytes :=
  match headerOk p.copyA, headerOk p.copyB with
  | true, true => if field p.copyA 4 4 < field p.copyB 4 4 then some p.copyB else some p.copyA
  | true, false => some p.copyA
  | false, true => some p.copyB
  | false, false => none

/-- What the header in force says is read from its copies (R345, R350 step 2). -/
def State.selectHeader (s : State) : State :=
  { s with pair := { s.pair with header := match s.pair.headerInForce with
      | some b => [1, 2, 3].map fun k => (k, headOf b k)
      | none => [] } }

/-- A header's bytes go into the copy that is not in force (R345, R347). -/
def Pair.putHeader (p : Pair) (b : Bytes) : Pair :=
  if p.headerInForce = some p.copyA then { p with copyB := b } else { p with copyA := b }

/-- A header commit takes effect once every section that it names has arrived whole (R345, R347). -/
def State.takeCommitFrame (s : State) (frame : Bytes) : State :=
  let b := slice frame 16 (field frame 12 2)
  let heads := [1, 2, 3].map fun k => (k, headOf b k)
  if headerOk b && heads.all fun p => s.sectionWhole p.1 p.2 then
    { s with pair := { s.pair.putHeader b with
        header := heads, committedAt := some s.now, headerCommits := s.pair.headerCommits + 1 } }.setReg 0x5800_08 0 (field b 4 4)
  else s

/-- A Time frame: wall time, rate, time state and holdover elapsed (R347; the layout DESIGN CHOICE, log entry 55); what the
receiver measures of Hearth's crystal with it are free values (log entry 56). -/
def State.takeTimeFrame (s : State) (frame : Bytes) : State :=
  let b := slice frame 16 (field frame 12 2)
  if b.length != 18 then s
  else
    let d := s.draw
    let q := d.2.draw
    let m : TimeMark :=
      { wall := field b 0 8, rate := field b 8 5, st := field b 13 1, elapsed := field b 14 4, got := s.now
        toEdge := d.1, interval := q.1 }
    { q.2 with pair := { q.2.pair with lastTime := some m } }

/-- BELLOWS_TIME (R347). -/
def execBellowsTime (frame : Bytes) (s : State) : Out := .next (s.onBellows frame 3 fun s => s.takeTimeFrame frame)

/-! ### Pushing (R347) -/

/-- PUSH_TIMER (R347): every 250 ms. -/
def execPushTimer (s : State) : Out :=
  whenManaged s fun s =>
    if !s.pairActive || s.now < s.pair.pushedAt + 250 * milli then s
    else
      let s1 : State := { s with pair := { s.pair with pushedAt := s.now } }
      (s1.send (.bellows (bellowsFrame 3 0 s1.imageGen 0 s1.timePayload))).pushSections [3]

/-! ### The Active is lost (R349, R350 step 1) -/

/-- Whether the image carries an entry: RW or RWS, not static, no session's own, and not read at reset only (R345). -/
def imageEntry (key : Nat) : Bool :=
  match entryAt key with
  | some e => (e.acc == .rw || e.acc == .rws) && !e.isStatic && !e.perSession && !e.readAtReset
  | none => false

/-- Whether a takeover installs an entry of the image: rate and offset are those of the time that R348 seeded. -/
def installedEntry (key : Nat) : Bool := imageEntry key && key != 0x4800_02 && key != 0x4800_03

/-- A table with the image's entries in place of those held. -/
def mergeImage {α : Type} (old new : Tbl α) : Tbl α :=
  (new.filter fun p => installedEntry (p.1 / 65536)).foldl (fun (t : Tbl α) p => Tbl.put t p.1 p.2)
    (old.filter fun p => !installedEntry (p.1 / 65536))

/-- A configuration with the ledger values of section 2 (R345). -/
def State.imageLedger (s : State) : State :=
  let x := Config.ledgerOf (s.heldSection 2)
  { s with regs := mergeImage s.regs x.1, blobs := mergeImage s.blobs x.2.1, shadow := x.2.2 }

/-- The ledger values of section 2 are installed; another time source acts as a change of it does (R276, R345, R350 step 4). -/
def State.installLedger (s : State) : State :=
  let t := s.imageLedger
  (timeSourceOp (t.setReg 0x4808_01 0 (s.reg 0x4808_01)) 0 0 (.num (t.reg 0x4808_01))).1

/-- Whether the Ember store holds a valid header (R345, R351). -/
def State.imageValid (s : State) : Bool := !s.pair.header.isEmpty

/-- The plan of section 1 with its slot, if the store holds one. -/
def State.heldPlan (s : State) : Option (Plan × Nat) :=
  if s.imageValid then Config.planOf (s.heldSection 1) else none

/-- The configuration that the image describes: its ledger values and its plan. -/
def State.imageConfig (s : State) : State :=
  let s1 := if s.imageValid then s.imageLedger else s
  match s.heldPlan with
  | some p => { s1.configPlan p.1 with planSlot := p.2 }
  | none => s1

/-- A device in Resync brings up the ports that its image enables (R353 step 4). -/
def State.adoptPorts (s : State) : State :=
  let w := s.imageConfig
  let new := (List.range 24).filter fun p => w.flag 0x4400_02 p && !s.flag 0x4400_02 p
  if s.reg 0x5800_03 != 4 || new.isEmpty then s
  else new.foldl State.tryStartPort (new.foldl (fun (t : State) p => t.setFlag 0x4400_02 p true) s).settlePower

/-- BELLOWS_HEADER_COMMIT (R345-R347, R353). -/
def execBellowsHeaderCommit (frame : Bytes) (s : State) : Out :=
  .next (s.onBellows frame 2 fun s => (s.takeCommitFrame frame).adoptPorts)

/-- The Active is declared lost: PAIR_ACT_O rises, which fences it, the device takes over, and Hearth powers every domain
that the plan uses (R349, R350); E-0x0D0 is recorded once the log runs. The partner's fall is seen with it (DEDUCED, log
entry 57). -/
def State.declareLost (s : State) : State :=
  let s1 : State := { s with
    pins := { s.pins with pairActO := true, pairActI := false }
    pair := { s.pair with declaredAt := some s.now, unlogged := true, ready := false, sentFresh := [] } }
  let s2 := (s1.setReg 0x5800_03 0 6).bump 0x5800_0A
  let w := s2.imageConfig
  ((List.range 22).map (· + 2)).foldl (fun (t : State) d => t.settleDomain w d) s2

/-- HEARTBEAT_LOSS (R349): three missed heartbeats. -/
def execHeartbeatLoss (s : State) : Out :=
  .next (if (s.reg 0x5800_03 = 4 || s.reg 0x5800_03 = 5) && s.silent 3250000 then s.declareLost else s)

/-- BELLOWS_YIELD (R349). -/
def execBellowsYield (frame : Bytes) (s : State) : Out :=
  .next (s.onBellows frame 4 fun s =>
    if s.reg 0x5800_03 = 4 || s.reg 0x5800_03 = 5 then s.declareLost else s)

/-! ### Taking over (R348, R350-R352) -/

/-- Time is seeded from the last Time frame and the Hearth count since it; by how much it differs from the failed
Active's is a free value within the bound (R348; log entry 56). Without a frame the device is unlocked. -/
def State.seedTime (s : State) (hearthTicks : Nat) : State :=
  match s.pair.lastTime with
  | none => { s with time := { s.time with running := true } }
  | some m =>
    let e := sleepNs hearthTicks
    let bound := 1000 + 2 * e / 1000000
    let d := s.draw
    let err : Int := (d.1 % (2 * bound + 1) : Nat) - (bound : Int)
    let wall := (m.wall : Int) + e + rateAdj e (toSigned 40 m.rate) + err
    let s1 := d.2.setReg 0x4800_02 0 m.rate
    let c := s1.time.counter
    let s2 := s1.setRegI 0x4800_03 0 64 (wall - c - rateAdj c s1.rate)
    let since : Option Int :=
      if s.reg 0x4808_01 = 0 then none
      else if m.st = 0 then some (s.pair.declaredAt.getD s.now : Nat)
      else if m.st = 1 then some ((s.now : Int) - e - (m.elapsed : Int) * milli)
      else none
    let own := if s.reg 0x4808_01 = 0 then 0 else if m.st < 2 then 1 else 2
    let s3 : State := { s2 with time := { s2.time with
      running := true, own := own, holdoverSince := since, rates := [(s2.now, m.rate)], rateAtLock := m.rate
      lockedSince := if own = 0 then some s2.now else none, good := 0, bad := 0 } }
    let was := s3.timeState
    let s4 := s3.setReg 0x4800_06 0 own
    if was = own then s4 else s4.record 0x0A0 (some (timeCode own (tm 0x03))) 0 own

/-- What does not survive a takeover: sessions, tickets, waiting commits, slots, and the content of every Ingot (R352). -/
def State.dropVolatile (s : State) : State :=
  { s.closeSessions (fun _ => true) with
    commits := { s.commits with requests := [], waiting := [], tickets := [], others := [], reports := [] }
    smith := {}, ingots := [], slots := [], groups := [], sources := [], plan := none, planSlot := 0xFF }

/-- The view groups of section 3, with their state and count (R345, R350 step 7). -/
def State.installViews (s : State) : State :=
  { s with groups := (Config.viewsOf (s.heldSection 3)).map fun p =>
      (p.1, { index := p.2.index, shown := p.2.shown, code := p.2.code, count := p.2.count }) }

/-- Every enabled output sends the egress FAULT veil until a plan is installed (R351). -/
def State.faultOutputs (s : State) : State :=
  s.enabledOutputs.foldl (fun (t : State) o => t.setOutput o { t.output o with noEngine := true }) s

/-- Every enabled output waits for a seal at which its layers have frames (R350 step 6). -/
def State.waitOutputs (s : State) : State :=
  s.enabledOutputs.foldl (fun (t : State) o => t.setOutput o { t.output o with takeoverWait := true }) s

/-- A parked port has the rate, presets, seeds and anchor count of its record (R350 step 5). -/
def State.restorePort (s : State) (p : Nat) : State :=
  match Tbl.find s.pair.parking p with
  | none => s
  | some r =>
    let s1 := r.lanes.foldl (fun (t : State) x =>
      ((t.setReg 0x4000_03 x.1 r.rate).setReg 0x4000_07 x.1 x.2.1).setLane x.1 { t.lane x.1 with seed := x.2.2 }) s
    s1.setPort p { s1.port p with anchorCount := r.count }

/-- What section 5 holds of a port as it is parked (R345, R353 step 4). -/
def State.parkRecord (s : State) (p : Nat) : ParkRec :=
  { rate := s.portRate p, count := (s.port p).anchorCount
    lanes := (s.carriers p).map fun l => (l, s.reg 0x4000_07 l, (s.lane l).seed) }

/-- What section 4 holds of a channel as it has trained; its training values are a free value (R345, R353 step 3). -/
def State.trainedRecord (s : State) (c : Nat) : Trained × State :=
  let d := s.draw
  ({ rate := (s.chan c).rate, density := (s.chan c).density, values := d.1 }, d.2)

/-- Sections 4 and 5 are written; what they held is their other copy (R345, R353; DESIGN CHOICE, log entry 185). -/
def State.writeOwn (s : State) (ports : List Nat) : State :=
  let r := ((List.range 16).filter s.chanInService).foldl (fun (acc : Tbl Trained × State) c =>
    let x := acc.2.trainedRecord c
    (Tbl.put acc.1 c x.1, x.2)) ([], s)
  { r.2 with pair := { r.2.pair with
      training := r.1, trainingOther := s.pair.training
      parking := ports.map fun p => (p, s.parkRecord p)
      parkingOther := s.pair.parking } }

/-- Parked ports leave Banked, one that went there less than 100 ns ago by its next exit; the others run bring-up (R231, R350
step 5). -/
def State.unparkPorts (s : State) : State :=
  (List.range 24).foldl (fun (t : State) p =>
    if (t.port p).parked then
      let t1 := (t.setPort p { t.port p with parked := false, bankReq := false }).restorePort p
      if t1.reg 0x4400_09 p = 4 && t1.bankedLongEnough p then t1.leaveBanked p else t1
    else t.tryStartPort p) s

/-- Nanoseconds since the loss was declared. -/
def State.sinceLoss (s : State) : Nat := s.now - s.pair.declaredAt.getD s.now

/-- The image is installed, or its plan is not (R350 step 4, R351). -/
def State.installImage (s : State) : State :=
  let old := s
  let wf := s.wf + 1
  if !s.imageValid then
    let s1 := (s.applyEnables old wf).faultOutputs
    let s2 := s1.record 0x0D1 (some (pa 0x07)) 0 (s1.sinceLoss / 1000)
    let s3 : State := { s2 with pair := { s2.pair with declaredAt := none } }
    s3.enterActive none
  else
    let s1 := s.installLedger.installViews
    match s.heldPlan with
    | none => { (s1.applyEnables old wf).faultOutputs with pair := { s1.pair with ready := true } }
    | some (p, slot) =>
      let failed := match (s1.configPlan p).configCode with | some _ => true | none => false
      if failed then
        let s2 := ((s1.applyEnables old wf).faultOutputs.record 0x0D1 (some (pa 0x08)) 0 (s1.sinceLoss / 1000))
        let place := if s2.reg 0x2400_06 = 0 then Placing.startUp p.scene else .idle
        { s2 with smith := { s2.smith with placing := place, inputs := s2.shadow }, pair := { s2.pair with ready := true } }
      else
        let s2 := (s1.installPlan slot p false).applyEnables old wf
        let slots := if slot < 4 then [(slot, p)] else []
        { s2.waitOutputs with smith := { s2.smith with slots := slots }, pair := { s2.pair with ready := true } }

/-- The loss is logged with the wall time at which it was declared, once the log runs (R349). -/
def State.logLoss (s : State) : State :=
  if !s.pair.unlogged then s
  else
    let s1 : State := { s with pair := { s.pair with unlogged := false } }
    let t := ofSigned 64 ((s.wall : Int) - s.sinceLoss)
    (s1.recordAt t 0x0D0 (some (pa 0x01)) 0 s1.imageGen false 0).recordAt t 0x0D5 none 0 s1.imageGen false 0

/-- Whether steps 1 and 3 of a takeover are done: the controller and the fabric have power, no domain still powers up, and no channel
still verifies or trains (R350, R351). -/
def State.takeoverPowered (s : State) : Bool :=
  s.domain 2 == 2 && s.domain 3 == 2 && (List.range 24).all (fun d => s.domain d != 1) &&
    (List.range 16).all fun c => s.reg 0x5400_02 c != 1

/-- TAKEOVER_READY (R348, R350-R352): steps 1 to 5 are done, with Hearth's count since the last Time frame. The device
joins its wall at once (R120). -/
def execTakeoverReady (hearthTicks : Nat) (s : State) : Out :=
  whenLive s fun s =>
    if s.reg 0x5800_03 != 6 || s.pair.ready || !s.takeoverPowered then s
    else
      let s1 := ({ s with power := { s.power with mgmt := true } }.selectHeader).seedTime hearthTicks
      let s2 := (s1.setReady 0).setReady 2
      let s3 := (s2.logLoss.dropVolatile).installImage.unparkPorts
      let s4 := { s3 with commits := { s3.commits with hadPort := true, listenSince := some s3.now } }.setReg 0x2800_06 0 0
      (s4.followTimePort.settleTakeover s4.runningOutputs).settlePower

/-- TAKEOVER_HOLD_LIMIT (R350 step 6): outputs wait no longer. -/
def execTakeoverHoldLimit (s : State) : Out :=
  whenLive s fun s =>
    match s.pair.declaredAt with
    | some t =>
      if s.reg 0x5800_03 = 6 && t + milli * s.reg 0x5800_0D ≤ s.now then
        { s with outputs := s.outputs.map fun p => (p.1, { p.2 with takeoverWait := false }) }
      else s
    | none => s

/-! ### Resync and hand-over (R353, R354) -/

/-- Whether the partner of an enabled port is absent: none of its lanes has come past Detect (R217, R353 step 4). -/
def State.partnerAbsent (s : State) (p : Nat) : Bool := (s.bringUpLanes p).all fun l => s.reg 0x4000_02 l ≤ 2

/-- Whether steps 1 to 4 of a resync are done: the Active has pushed its image in full since the reset, into both copies, every
channel has trained, and every enabled port is up or has no partner (R347, R353). -/
def State.resynced (s : State) : Bool :=
  s.imageValid && 2 ≤ s.pair.headerCommits && (List.range 16).all (fun c => 2 ≤ s.reg 0x5400_02 c) &&
    (List.range 24).all fun p => !s.flag 0x4400_02 p || s.portInService p || s.partnerAbsent p

/-- RESYNC_DONE (R353): once the image is held and DRAM is trained, training values and parking records are written, the
ports are parked, and the device powers down to Hearth and Retention and signals ready; a domain forced on stays so, and before
the crystal runs those of R393. -/
def execResyncDone (s : State) : Out :=
  whenManaged s fun s =>
    if s.reg 0x5800_03 != 4 || !s.resynced then s
    else
      let ports := s.servingPorts
      let s1 := ports.foldl State.parkPort s
      let s2 := s1.writeOwn ports
      let s3 := s2.setPairState 5 (some (pa 0x0A))
      let s4 : State := { s3 with power := { s3.power with mgmt := false, unneeded := [], waitingOn := [] } }
      ((List.range 22).map (· + 2)).foldl (fun (t : State) d =>
        if t.domain d = 2 && t.domainHeld d = 0 then t.setReg 0x6400_02 d 3 else t) s4

/-- A write of L:5800.06 (R354). -/
def handOverOp : WriteOp := fun s _ _ _ =>
  if s.reg 0x5800_03 = 2 then (s.yieldPair, .ok) else (s, .no (pa 0x0B))

/-- HAND_OVER (R354). -/
def execHandOver (ss v : Nat) (s : State) : Out :=
  whenManaged s fun s => s.ledgerWrite ss 0x5800_06 (.num v) handOverOp

end Sys2Proof.Machine
end

