-- ==== Sys2Proof/Machine/Reads.lean ====
section
/-! DEFINITION. What a read of the ledger returns where the value is not a register of its own: states of the engines,
counts, the log, the fuses (R64, R95, R122, R150, R154, R176, R240, R289, R306, R330, R355, R374, R405, R429, R441). -/

namespace Sys2Proof

set_option Elab.async false

/-- Whether the external reference of a lane group is detected, L:4008.04: a pin that no rule drives (log entry 5). -/
opaque Config.swReference : Nat → Bool

end Sys2Proof

namespace Sys2Proof.Machine

set_option Elab.async false

/-! ### States as the ledger codes them -/

/-- The code of a layer's state (R64). -/
def LayerState.code : LayerState → Nat
  | .live => 0 | .stale => 1 | .noSignal => 2 | .frozen => 3 | .time => 4 | .fault => 5

/-- The code of a ticket's state (R117). -/
def TicketState.code : TicketState → Nat
  | .unknown => 0 | .waiting => 1 | .applied => 2 | .refused => 3 | .cancelled => 4

/-- An age that is none (R40). -/
def noAge : Nat := 0xFFFFFFFF

/-- The view group that a view index selects, L:2020: the one that holds the view's piece on the lowest-numbered output
(R90). -/
def State.groupAt (s : State) (index : Nat) : Option Group :=
  ((List.range 32).findSome? fun o =>
    ((s.layersOf o).find? fun i => s.reg 0x3000_20 i == index).map (s.groupKey o)).bind (Tbl.find s.groups)

/-- The witness state of an output, L:2030.04 (R60). -/
def State.witnessState (s : State) (o : Nat) : Nat :=
  if s.reg 0x3400_03 o != 1 then 3
  else if (s.output o).veto then 2
  else if (s.output o).witFails != 0 then 1 else 0

/-- Whether a load of a shadowed table waits: in the shadow, or in a commit that waits (R142, R194). -/
def State.loadWaits (s : State) (key inst : Nat) : Bool :=
  (match Tbl.find s.shadow (regKey key inst) with | some h => h.dirty | none => false) ||
  s.commits.waiting.any fun p =>
    (p.fields ++ p.parts.flatMap (·.fields) ++ p.rest).any fun f => f.key == key && f.inst == inst

/-- The state of a shadowed table: 0 empty, 1 active, 2 active with a load waiting (R142, R194). -/
def State.tableState (s : State) (key inst : Nat) : Nat :=
  if (s.blob key inst).isEmpty then 0 else if s.loadWaits key inst then 2 else 1

/-- An output's pixel clock in mHz, to the nearest (R154). -/
def State.clockMilliHz (s : State) (o : Nat) : Nat :=
  (((s.pixelClock o).mul (Frac.ofNat 1000)).round).toNat

/-- The forwarded sources of the plan in force on this device, as R251 counts them: those of its scene. -/
def State.forwardedNow (s : State) : List SrcRec :=
  match s.plan with
  | some p => match parseScene p.scene with
    | .inr sc => sc.sources.filter fun r => r.device == s.member && r.upPort < 24
    | .inl _ => []
  | none => []

/-- A rate in Mb/s from bit/s, rounded down. -/
def megabits (x : Frac) : Nat := (x.floor).toNat / 1000000

/-- The ticket that a selection names, as the history holds it (R117). -/
def State.ticketAt (s : State) (id : Nat) : Ticket := (s.ticket? id).getD { id := id, st := .unknown }

/-- The 32 bytes of a tally row (R428). -/
def TallyRow.bytes (r : TallyRow) : Bytes :=
  beBytes 8 r.time ++ [byte r.timeState, if r.recovered then 1 else 0] ++ beBytes 2 r.index ++
    [byte r.sub, byte r.left, 0, 0] ++ beBytes 8 r.old ++ beBytes 8 r.new

/-- The state of an image key slot, L:6808.07 (R421). -/
def Fuses.imageKeyState (f : Fuses) (k : Nat) : Nat :=
  if f.imageKeyRevoked.contains k then 2 else if (Config.imageKeyHash k).isEmpty then 0 else 1

/-- The Integrator key slot in force: the lowest programmed one that is not revoked (R422). -/
def Fuses.integratorSlot (f : Fuses) : Option Nat :=
  (List.range f.integratorKeys.length).find? fun k => !f.integratorRevoked.contains k

/-- The state of an Integrator key slot, L:6808.0B (R422). -/
def Fuses.integratorState (f : Fuses) (k : Nat) : Nat :=
  if f.integratorRevoked.contains k then 3
  else if f.integratorKeys.length ≤ k then 0
  else if f.integratorSlot = some k then 1 else 2

/-- The record of a sequence number, if the ring still holds it (R441). -/
def State.recordOf (s : State) (q : Nat) : Option LogRec := s.log.recs.find? fun r => r.seq == q

/-- Up to `n` records from a sequence upward, oldest first (R441). -/
def State.recordsFrom (s : State) : Nat → Nat → Bytes
  | 0, _ => []
  | n + 1, q =>
    match s.recordOf q with
    | some r => r.bytes ++ State.recordsFrom s n (nextSeq q)
    | none => []

/-- The value of an entry that is computed when it is read; none for one that has a register of its own. -/
def State.computedA (s : State) (key inst : Nat) : Option Val :=
  let num := fun (n : Nat) => some (Val.num n)
  let g := s.groupAt inst
  let i := s.ingot inst
  match key with
  | 0x1000_01 => some (.bytes (ascii "FV-DQ48-2116"))
  | 0x1000_02 => some (.bytes (ascii "B0"))
  | 0x1000_06 => num s.fuses.roleLock
  | 0x2000_0A => num (if bitAt s.fuses.policy 6 then 1 else s.reg 0x2000_0A)
  | 0x2020_02 => num ((g.map (·.shown.code)).getD 0)
  | 0x2020_03 => num ((g.bind (·.age)).getD noAge)
  | 0x2020_04 => num ((g.map (·.origin)).getD 0)
  | 0x2020_05 => num ((g.map (·.count)).getD 0)
  | 0x2020_06 => num ((g.map (·.seq)).getD 0)
  | 0x2020_07 => num ((g.map (·.budget)).getD 0)
  | 0x2030_04 => num (s.witnessState inst)
  | 0x2080_02 => num i.st.code
  | 0x2080_03 => num i.readers.length
  | 0x2080_04 => num i.slot
  | 0x2080_05 => num i.origin
  | 0x2080_06 => num i.flags
  | 0x2080_07 => num i.seq
  | 0x2080_08 => num i.marks
  | 0x2080_09 => num i.check
  | 0x2080_0A => num i.base
  | 0x2080_0B => num i.size
  | 0x2400_0B => num s.planInForce
  | 0x2800_04 => num s.fuses.wallAlias
  | 0x2800_05 => num s.membership
  | 0x2800_18 => num (if s.shadow.any fun p => p.2.dirty then 1 else 0)
  | 0x2800_1B => num (countTrue (fun p : Pending => !p.auto) s.commits.waiting)
  | 0x2800_1C => num (shownFrame s.wf)
  | 0x2808_02 => num (s.ticketAt inst).st.code
  | 0x2808_03 => num (((s.ticketAt inst).first.map shownFrame).getD 0)
  | 0x2808_04 => num (((s.ticketAt inst).last.map shownFrame).getD 0)
  | 0x2808_05 => some (.bytes (((s.ticketAt inst).code.map Code.text).getD []))
  | 0x2808_06 => num (s.ticketAt inst).pair
  | 0x2808_07 => num (s.ticketAt inst).member
  | 0x2808_08 => num (s.ticketAt inst).acceptedAt
  | 0x3040_03 => num (if factoryTable inst then 3 else s.tableState 0x3040_02 inst)
  | 0x3400_11 => num (s.clockMilliHz inst)
  | 0x3400_1A => num (ofSigned 32 (s.phaseNs inst))
  | 0x3420_06 => num (s.engineTolerance inst)
  | 0x3870_03 => num (s.tableState 0x3870_02 inst)
  | 0x4008_04 => num (if Config.swReference inst then 1 else 0)
  | 0x4400_14 => num (megabits (s.portCapacity inst))
  | 0x4400_15 => num (megabits (s.portUse inst s.forwardedNow))
  | 0x4800_01 => num s.time.counter
  | 0x4800_05 => num s.wall
  | 0x4800_0A => num s.holdoverElapsed
  | _ => none

/-- The rest of the computed entries. -/
def State.computedB (s : State) (key inst : Nat) : Option Val :=
  let num := fun (n : Nat) => some (Val.num n)
  let e := s.dram.errors[inst]?
  match key with
  | 0x5018_03 => num (s.held inst 0 * 65536 + s.held inst 1 * 256 + s.held inst 2)
  | 0x5400_19 => num (s.holdRegion inst)
  | 0x5400_1C => num (s.usableBytes inst / 2 ^ 20)
  | 0x5408_03 => num (s.urgency (inst / 24) (inst % 24))
  | 0x5408_04 => num (s.tolerance (inst / 24) (inst % 24))
  | 0x5410_02 => num ((e.map (·.location)).getD 0)
  | 0x5410_03 => num ((e.map (·.address)).getD 0)
  | 0x5410_04 => num ((e.map (·.syndrome)).getD 0)
  | 0x5410_05 => num ((e.map (·.port)).getD 0)
  | 0x5410_06 => num ((e.map (·.time)).getD 0)
  | 0x5810_01 => num s.recover.queue.length
  | 0x5810_02 => num s.recovering
  | 0x5C00_04 => num s.scanRate
  | 0x5C00_0D => num s.gatesPerBlanking
  | 0x5C10_13 => num (s.keyThreshold inst)
  | 0x5C20_01 => num s.touchedKeys
  | 0x5C20_02 => some (.bytes (s.keys.queue.take 16).flatten)
  | 0x5C20_03 => num s.keys.queue.length
  | 0x6400_03 => num (s.domainHeld inst)
  | 0x6400_08 => num (if s.power.refclk then 1 else 0)
  | 0x6400_0A => num (Config.powerEstimate s.now)
  | 0x6408_03 => num (slotVersion (s.slotBytes 0))
  | 0x6408_04 => num (slotVersion (s.slotBytes 1))
  | 0x6800_01 => num s.acc.sessions.length
  | 0x6800_08 => num (if s.keys.saving.isSome then 2 else s.reg key)
  | 0x6808_01 => num (s.fuses.ltd key)
  | 0x6808_02 => num (s.fuses.ltd key)
  | 0x6808_03 => num (s.fuses.ltd key)
  | 0x6808_04 => num s.fuses.minSecurity
  | 0x6808_06 => some (.bytes (Config.imageKeyHash inst))
  | 0x6808_07 => num (s.fuses.imageKeyState inst)
  | 0x6808_0B => num (s.fuses.integratorState inst)
  | 0x6808_0D => num Config.serialNumber.toNat
  | 0x6808_11 => some (.bytes ((s.fuses.tally[inst]?.map TallyRow.bytes).getD (List.replicate 32 0)))
  | 0x6808_12 => num s.fuses.tally.length
  | 0x6808_13 => num (4 - s.fuses.roleLocks.length)
  | 0x6808_14 => num (8 - s.fuses.aliases.length)
  | 0x6810_05 => num (if s.reg key inst = 2 then 2 else (Config.canPassive inst s.now).toNat)
  | 0x6820_05 => num Config.macAddress.toNat
  | 0x7000_01 => num s.log.seq
  | 0x7000_02 => num ((s.log.recs.getLast?.map (·.seq)).getD 0)
  | 0x7000_06 => num s.log.dropped
  | _ => none

/-- What a session's own state gives for an entry (R417, R441). -/
def State.computedC (s : State) (x : Session) (key : Nat) : Option Val :=
  match key with
  | 0x6800_02 => some (.num x.level)
  | 0x6800_03 => some (.num x.id)
  | 0x7000_04 => some (.bytes (s.recordsFrom 1 (x.fld 0x7000_03)))
  | 0x7000_05 => some (.bytes (s.recordsFrom 32 (x.fld 0x7000_03)))
  | _ => none

/-- The value of an entry that applies at the next reset, as the store holds it (R425). -/
def State.storedVal (s : State) (key inst : Nat) : Option Val := (Tbl.find s.nv.regs (regKey key inst)).map .num

/-- The value that a read of an entry returns to a session (R98, R408, R435). -/
def State.readVal (s : State) (x : Session) (key : Nat) (e : Entry) : Val :=
  let inst := x.inst key
  match s.computedC x key with
  | some v => v
  | none =>
    if e.perSession then .num (x.fld key)
    else match s.computedA key inst with
      | some v => v
      | none => match s.computedB key inst with
        | some v => v
        | none =>
          if e.acc == .rws && x.fld 0x2800_1D != 0 then s.shadowVal key inst
          else if e.readAtReset then (s.storedVal key inst).getD (s.active key inst)
          else s.active key inst

end Sys2Proof.Machine
end

