-- ==== Sys2Proof/Machine/Fuses.lean ====
section
/-! DEFINITION. The fuses (R421-R424), limited changes and the tally (R427, R428), and the non-volatile store (R425,
R426). Each operation says whether the fuses verify, or whether the flash writes. -/

namespace Sys2Proof.Machine

set_option Elab.async false

/-! ### Fuse changes (R421, R427, R428) -/

/-- A fuse change that does not verify: LG-0x0F and E-0x113 (R421). -/
def State.fuseFailed (s : State) (key : Nat) : State × Reply :=
  (s.record 0x113 (some (lg 0x0F)) 0 key true, .no (lg 0x0F))

/-- The tally row of a limited change (R428). -/
def State.tallyRow (s : State) (key left old new : Nat) : TallyRow :=
  { time := s.wall, timeState := s.timeState, recovered := false, index := key / 256, sub := key % 256
    left := left, old := old, new := new }

/-- A limited change to `new`: the value in force consumes nothing; another programs its fuses, then its tally row, with
E-0x111; a loss of power between the two leaves the row to the next boot (R427, R428; which fuse writes record it DEDUCED, log
entry 151). -/
def State.limitedChange (s : State) (key new left : Nat) (e : FuseEnd) (f : Fuses → Fuses) : State × Reply :=
  let old := s.fuses.ltd key
  let g := f s.fuses
  let row := s.tallyRow key left old new
  if new = old then (s, .ok)
  else match e with
    | .failed => s.fuseFailed key
    | .powerLost => ({ s with fuses := { g with unrecorded := some row } }, .ok)
    | .verified =>
      (({ s with fuses := { g with tally := g.tally ++ [row] } } : State).record 0x111 none s.fuses.tally.length new true, .ok)

/-- A write of L:6808.02: bits may only be set (R423). -/
def policyOp (e : FuseEnd) : WriteOp := fun s _ _ v =>
  if (List.range 8).any fun b => bitAt s.fuses.policy b && !bitAt v.n b then (s, .no (lg 0x0E))
  else s.limitedChange 0x6808_02 v.n 0xFF e fun f => { f with policy := v.n }

/-- A write of L:6808.01: the debug lock is blown for good (R424). -/
def debugLockOp (e : FuseEnd) : WriteOp := fun s _ _ v =>
  if s.fuses.debugLock && v.n = 0 then (s, .no (lg 0x0E))
  else s.limitedChange 0x6808_01 v.n 0xFF e fun f => { f with debugLock := v.n != 0 }

/-- A write of L:6808.03: each change uses the next role-lock slot (R424, R427). -/
def roleLockOp (e : FuseEnd) : WriteOp := fun s _ _ v =>
  s.limitedChange 0x6808_03 v.n (3 - s.fuses.roleLocks.length) e fun f =>
    { f with roleLocks := f.roleLocks ++ [v.n] }

/-- A write of L:2800.04: a changed alias is listened for (R120, R427). -/
def wallAliasOp (e : FuseEnd) : WriteOp := fun s _ _ v =>
  let r := s.limitedChange 0x2800_04 v.n (7 - s.fuses.aliases.length) e fun f => { f with aliases := f.aliases ++ [v.n] }
  if r.1.fuses.aliases.length = s.fuses.aliases.length then r else (r.1.listen, r.2)

/-- The security version of the slot in force (R396). -/
def State.securityInForce (s : State) : Nat := slotField (s.slotBytes s.slotInForce) 12 4

/-- A write of L:6808.04: the minimum security version only rises, to that of the slot in force at most (R424). -/
def minSecurityOp (verified : Bool) : WriteOp := fun s _ _ v =>
  if v.n < s.fuses.minSecurity || s.securityInForce < v.n then (s, .no (lg 0x0E))
  else if v.n = s.fuses.minSecurity then (s, .ok)
  else if !verified then s.fuseFailed 0x6808_04
  else ({ s with fuses := { s.fuses with minSecurity := v.n } }, .ok)

/-- A write of L:6808.08: an image key is revoked, unless it verifies the slot in force (R424). -/
def revokeImageKeyOp (verified : Bool) : WriteOp := fun s _ _ v =>
  if slotField (s.slotBytes s.slotInForce) 6 1 = v.n then (s, .no (lg 0x0E))
  else if s.fuses.imageKeyRevoked.contains v.n then (s, .ok)
  else if !verified then s.fuseFailed 0x6808_08
  else ({ s with fuses := { s.fuses with imageKeyRevoked := v.n :: s.fuses.imageKeyRevoked } }, .ok)

/-- Integrator key slots (R421). -/
def integratorSlots : Nat := 4

/-- A write of L:6808.0A: the lowest unprogrammed slot takes the key (R422). -/
def programKeyOp (verified : Bool) : WriteOp := fun s _ _ v =>
  if integratorSlots ≤ s.fuses.integratorKeys.length then (s, .no (lg 0x0D))
  else if !verified then s.fuseFailed 0x6808_0A
  else ({ s with fuses := { s.fuses with integratorKeys := s.fuses.integratorKeys ++ [v.b] } }, .ok)

/-- A write of L:6808.0C: a slot is revoked if another stays usable, and the sessions opened under its key close (R422). -/
def revokeKeyOp (verified : Bool) : WriteOp := fun s _ _ v =>
  let others := (List.range s.fuses.integratorKeys.length).filter fun k => k != v.n && !s.fuses.integratorRevoked.contains k
  if others.isEmpty then (s, .no (lg 0x0E))
  else if s.fuses.integratorRevoked.contains v.n then (s, .ok)
  else if !verified then s.fuseFailed 0x6808_0C
  else
    let s1 : State := { s with fuses := { s.fuses with integratorRevoked := v.n :: s.fuses.integratorRevoked } }
    (s1.closeSessions fun x => x.keySlot == some v.n, .ok)

/-! ### The non-volatile store (R425, R426) -/

/-- Whether a write of an entry goes to the non-volatile store (R425). -/
def inStore (key : Nat) : Bool :=
  match entryAt key with
  | some e => e.nonVolatile || e.readAtReset
  | none => false

/-- Whether an entry takes effect at the next reset only. -/
def atReset (key : Nat) : Bool :=
  match entryAt key with
  | some e => e.readAtReset
  | none => false

/-- A write of an entry of the store: durable first, then active unless it applies at reset (R408, R425). -/
def storeOp (key : Nat) (e : StoreEnd) : WriteOp := fun s _ inst v =>
  let r := s.writeNv e key fun n => match v with
    | .num k => { n with regs := Tbl.put n.regs (regKey key inst) k }
    | .bytes b => { n with blobs := Tbl.put n.blobs (regKey key inst) b }
  match r.2 with
  | some c => (r.1, .no c)
  | none => (if atReset key then r.1 else r.1.setActive key inst v, .ok)

/-- Whether a saved configuration takes the entry of a register (R426). -/
def savedKey (slot : Nat) : Bool :=
  let key := slot / 65536
  match entryAt key with
  | some e => e.saved key
  | none => false

/-- A write of L:6800.06: the start-up configuration is saved (R426). -/
def saveConfigOp (e : StoreEnd) : WriteOp := fun s _ _ _ =>
  let c := (s.regs.filter fun p => savedKey p.1, s.blobs.filter fun p => savedKey p.1)
  let r := s.writeNv e 0x6800_06 fun n => { n with saved := some c }
  match r.2 with
  | some c => (r.1, .no c)
  | none => (r.1, .ok)

/-- A write of L:6800.07: the saved configuration is erased (R426). -/
def eraseConfigOp (e : StoreEnd) : WriteOp := fun s _ _ _ =>
  let r := s.writeNv e 0x6800_07 fun n => { n with saved := none }
  match r.2 with
  | some c => (r.1, .no c)
  | none => (r.1, .ok)

/-- An operation whose fuses or flash may fail, where its command does not say: whether they do is a free value
(log entry 59). -/
def freely {α : Type} (yes no : α) (op : α → WriteOp) : WriteOp := fun s ss inst v =>
  let d := s.draw
  op (if d.1 % 2 = 1 then yes else no) d.2 ss inst v

end Sys2Proof.Machine
end

