-- ==== Sys2Proof/Machine/Ledger.lean ====
section
/-! DEFINITION. The parameter ledger's requests (R409-R412, R417-R420): the operation behind each entry, sessions and their
challenges, reads and writes by frame, and the rows that write one entry. -/

namespace Sys2Proof.Machine

set_option Elab.async false

/-! ### The operation behind each entry (R97, R408, R420 step 12) -/

/-- A write of L:4400.05: it acts at once (R263), on the wall and the time port too (R120, R275). -/
def trustOp : WriteOp := fun s _ p v =>
  let s1 := s.setReg 0x4400_05 p v.n
  ((if s1.portInService p then s1.startListening p else s1).followTimePort, .ok)

/-- A write of L:4000.05: bit 4 is read only (R229). -/
def polarityOp : WriteOp := fun s _ l v =>
  (s.setReg 0x4000_05 l (v.n % 4 + s.reg 0x4000_05 l / 16 % 2 * 16), .ok)

/-- A write of L:400C.02: a spare assigned anew is not yet ready (R232). -/
def spareOp : WriteOp := fun s _ k v => (((s.setReg 0x400C_02 k v.n).setReg 0x400C_03 k 0).settlePower, .ok)

/-- A write of L:4810.01: the ports of the ordinary clock hold their domain on (R388). -/
def ptpPortsOp : WriteOp := fun s _ _ v => ((s.setReg 0x4810_01 0 v.n).settlePower, .ok)

/-- The operations of entries up to 0x4FFF; none for a plain entry. -/
def ledgerOpA (key : Nat) : Option WriteOp :=
  match key with
  | 0x1010_08 => some deviceResetOp
  | 0x2084_03 => some publishOp
  | 0x2084_04 => some releaseOp
  | 0x2084_06 => some acquireOp
  | 0x2400_02 => some placeOp
  | 0x2400_09 => some memberNumberOp
  | 0x2410_09 => some emptySlotOp
  | 0x2800_04 => some (freely .verified .failed wallAliasOp)
  | 0x2800_14 => some commitOp
  | 0x2800_16 => some cancelOp
  | 0x2800_17 => some discardOp
  | 0x3040_02 => some tableOp
  | 0x3410_01 => some latchClearOp
  | 0x3800_0B => some hostTransferOp
  | 0x3840_0D => some profileOp
  | 0x3870_02 => some temperOp
  | 0x4000_05 => some polarityOp
  | 0x4000_11 => some (laneTestOp 0x4000_11)
  | 0x4000_12 => some (laneTestOp 0x4000_12)
  | 0x4000_17 => some retrainOp
  | 0x4000_18 => some (laneTestOp 0x4000_18)
  | 0x400C_02 => some spareOp
  | 0x4400_05 => some trustOp
  | 0x4800_02 => some rateOp
  | 0x4800_03 => some offsetOp
  | 0x4800_04 => some stepOp
  | 0x4800_0B => some hostTimeStateOp
  | 0x4808_01 => some timeSourceOp
  | 0x4810_01 => some ptpPortsOp
  | _ => none

/-- The operations of entries from 0x5000; none for a plain entry. -/
def ledgerOpB (key : Nat) : Option WriteOp :=
  match key with
  | 0x5020_0A => some clearOutcomesOp
  | 0x5400_1A => some channelOp
  | 0x5800_06 => some handOverOp
  | 0x5810_03 => some switchBackEngineOp
  | 0x5810_04 => some testEngineOp
  | 0x5810_06 => some switchBackLaneOp
  | 0x5C00_08 => some saveBaselinesOp
  | 0x6000_03 => some (scanFieldOp 0x6000_03)
  | 0x6000_04 => some (scanFieldOp 0x6000_04)
  | 0x6000_05 => some (scanFieldOp 0x6000_05)
  | 0x6000_06 => some scanControlOp
  | 0x6000_0B => some (scanFieldOp 0x6000_0B)
  | 0x6400_04 => some forceOnOp
  | 0x6408_06 => some imageChunkOp
  | 0x6408_07 => some verifySlotOp
  | 0x6408_09 => some activateOp
  | 0x6408_0A => some confirmOp
  | 0x6800_06 => some (freely .done .failed saveConfigOp)
  | 0x6800_07 => some (freely .done .failed eraseConfigOp)
  | 0x6808_01 => some (freely .verified .failed debugLockOp)
  | 0x6808_02 => some (freely .verified .failed policyOp)
  | 0x6808_03 => some (freely .verified .failed roleLockOp)
  | 0x6808_04 => some (freely true false minSecurityOp)
  | 0x6808_08 => some (freely true false revokeImageKeyOp)
  | 0x6808_0A => some (freely true false programKeyOp)
  | 0x6808_0C => some (freely true false revokeKeyOp)
  | _ => none

/-- What a write of an entry does once its checks have passed (R97, R408). -/
def ledgerOp (key : Nat) : WriteOp :=
  match ledgerOpA key with
  | some op => op
  | none => match ledgerOpB key with
    | some op => op
    | none => if inStore key then freely .done .failed (storeOp key) else writePlain key

/-! ### Rows that write one entry -/

/-- Whether a write of an entry is a write of the non-volatile store (R425, R426). -/
def writesStore (key : Nat) : Bool := inStore key || key == 0x6800_06 || key == 0x6800_07

/-- What a write of an entry of the store does, ending as its command says. -/
def storeRow (key : Nat) (e : StoreEnd) : WriteOp :=
  match key with
  | 0x6800_06 => saveConfigOp e
  | 0x6800_07 => eraseConfigOp e
  | _ => if inStore key then storeOp key e else ledgerOp key

/-- A session's write that a loss of power cuts once it has passed its checks: the device's power-on follows, and no response
comes (R425, R428). -/
def State.cutWrite (s : State) (ss key : Nat) (v : Val) (op : WriteOp) : State :=
  let r := s.tryWrite ss key v op
  if r.2.code.isNone then r.1.powerOn else r.1.reply ss r.2

/-- Whether a write of an entry waits: it goes to the non-volatile store while that is being written (R425). -/
def State.storeBusy (s : State) (key : Nat) : Bool := s.keys.saving.isSome && writesStore key

/-- A write waits until the store has been written (R425). -/
def State.hold (s : State) (h : HeldWrite) : State :=
  { s with acc := { s.acc with heldWrites := s.acc.heldWrites ++ [h] } }

/-- A session's write of an entry of the non-volatile store, ending as its command says (R425). -/
def State.storeWrite (s : State) (ss key : Nat) (v : Val) (e : StoreEnd) : State :=
  if s.storeBusy key then s.hold (.row ss key v e)
  else if e = .powerLost && writesStore key then s.cutWrite ss key v (storeRow key e)
  else s.ledgerWrite ss key v (storeRow key e)

/-- A session's limited change, ending as its command says (R428). -/
def State.fuseWrite (s : State) (ss key : Nat) (v : Nat) (op : FuseEnd → WriteOp) (e : FuseEnd) : State :=
  if e = .powerLost then s.cutWrite ss key (.num v) (op e) else s.ledgerWrite ss key (.num v) (op e)

/-- ROLE_SELECT_WRITE (R5, R7): stored for the next reset; its flash write succeeds (NON_VOLATILE_WRITE shows one that
fails). -/
def execRoleSelectWrite (ss v : Nat) (s : State) : Out :=
  whenManaged s fun s => s.storeWrite ss 0x1000_04 (.num v) .done

/-- REGISTER_WRITE (R97-R100): one of the non-volatile store ends as a free value says where it waits (R425, log entry 59). -/
def execRegisterWrite (ss key : Nat) (v : Val) (s : State) : Out :=
  whenManaged s fun s =>
    if s.storeBusy key then
      let d := s.draw
      d.2.hold (.row ss key v (if d.1 % 2 = 1 then .done else .failed))
    else s.ledgerWrite ss key v (ledgerOp key)

/-- NON_VOLATILE_WRITE (R425). -/
def execNonVolatileWrite (ss key : Nat) (v : Val) (result : StoreEnd) (s : State) : Out :=
  whenManaged s fun s => s.storeWrite ss key v result

/-- SAVE_CONFIGURATION (R426). -/
def execSaveConfiguration (ss v : Nat) (result : StoreEnd) (s : State) : Out :=
  whenManaged s fun s => s.storeWrite ss 0x6800_06 (.num v) result

/-- ERASE_SAVED_CONFIGURATION (R426). -/
def execEraseSavedConfiguration (ss v : Nat) (result : StoreEnd) (s : State) : Out :=
  whenManaged s fun s => s.storeWrite ss 0x6800_07 (.num v) result

/-- PROGRAM_INTEGRATOR_KEY (R422). -/
def execProgramIntegratorKey (ss : Nat) (key : Bytes) (verified : Bool) (s : State) : Out :=
  whenManaged s fun s => s.ledgerWrite ss 0x6808_0A (.bytes key) (programKeyOp verified)

/-- REVOKE_INTEGRATOR_KEY (R422). -/
def execRevokeIntegratorKey (ss slot : Nat) (verified : Bool) (s : State) : Out :=
  whenManaged s fun s => s.ledgerWrite ss 0x6808_0C (.num slot) (revokeKeyOp verified)

/-- RIGHTS_POLICY_WRITE (R423). -/
def execRightsPolicyWrite (ss v : Nat) (result : FuseEnd) (s : State) : Out :=
  whenManaged s fun s => s.fuseWrite ss 0x6808_02 v policyOp result

/-- DEBUG_LOCK_WRITE (R424). -/
def execDebugLockWrite (ss v : Nat) (result : FuseEnd) (s : State) : Out :=
  whenManaged s fun s => s.fuseWrite ss 0x6808_01 v debugLockOp result

/-- MIN_SECURITY_VERSION_WRITE (R424). -/
def execMinSecurityVersionWrite (ss v : Nat) (verified : Bool) (s : State) : Out :=
  whenManaged s fun s => s.ledgerWrite ss 0x6808_04 (.num v) (minSecurityOp verified)

/-- REVOKE_IMAGE_KEY (R424). -/
def execRevokeImageKey (ss slot : Nat) (verified : Bool) (s : State) : Out :=
  whenManaged s fun s => s.ledgerWrite ss 0x6808_08 (.num slot) (revokeImageKeyOp verified)

/-- ROLE_LOCK_WRITE (R424). -/
def execRoleLockWrite (ss v : Nat) (result : FuseEnd) (s : State) : Out :=
  whenManaged s fun s => s.fuseWrite ss 0x6808_03 v roleLockOp result

/-- WALL_ALIAS_WRITE (R120, R427). -/
def execWallAliasWrite (ss v : Nat) (result : FuseEnd) (s : State) : Out :=
  whenManaged s fun s => s.fuseWrite ss 0x2800_04 v wallAliasOp result

/-! ### Opening a session (R417, R418, R422) -/

/-- A level on a path that the table and the policy permit (R418, R422). -/
def State.levelPermitted (s : State) (p : Peer) (level : Nat) : Bool :=
  if level < 2 then true
  else if level = 2 then
    !(p.path == 1 && bitAt s.fuses.policy 2) && !(p.path == 2 && bitAt s.fuses.policy 3) &&
      !(p.path == 4 && bitAt s.fuses.policy 4) && (p.path == 3 || s.fuses.integratorSlot.isSome)
  else p.path == 3 && !s.fuses.debugLock

/-- Whether an open of a level needs a challenge (R418, R422, R423). -/
def State.challenged (s : State) (level : Nat) : Bool :=
  match level with
  | 0 => bitAt s.fuses.policy 1
  | 1 => bitAt s.fuses.policy 0 || bitAt s.fuses.policy 1
  | 2 => s.fuses.integratorSlot.isSome
  | _ => true

/-- Whether a path is locked out (R419). -/
def State.pathLocked (s : State) (path : Nat) : Bool := s.acc.lockedOut.any fun l => l.1 == path && decide (s.now < l.2)

/-- Whether one more session may open for a peer (R417). -/
def State.sessionFits (s : State) (p : Peer) : Bool :=
  let n := countTrue (fun x : Session => match p with | .swage q => x.peer == .swage q | _ => x.peer.path == p.path)
    s.acc.sessions
  s.acc.sessions.length < 16 && n < (match p with | .can _ _ => 4 | .udp _ _ => 8 | .pcie _ => 4 | .swage _ => 2)

/-- The first identifier that no session has, from `n` up, never 0 (R417 gives no numbering; log entry 60). -/
def State.unusedId (s : State) : Nat → Nat → Nat
  | 0, n => n
  | fuel + 1, n =>
    let k := if n = 0 || 65536 ≤ n then 1 else n
    if (s.session? k).isSome then State.unusedId s fuel (k + 1) else k

/-- A new session of a peer, open or pending its challenge (R417, R418). -/
def State.newSession (s : State) (p : Peer) (level : Nat) (nonce : Bytes) : State × Nat × Bytes :=
  let d := s.draw
  let id := s.unusedId 17 (d.1 % 65535 + 1)
  let ch := s.challenged level
  let c := if ch then d.2.drawBytes 32 else ([], d.2)
  let x : Session :=
    { id := id, peer := p, level := level, pending := ch, challenge := c.1, challengeAt := s.now, nonce := nonce
      lastSent := s.now }
  ({ c.2 with acc := { c.2.acc with sessions := c.2.acc.sessions ++ [x] } }, id, c.1)

/-- The checks of an open: the first code that applies (R417-R419, R422, R263). -/
def State.openCode (s : State) (p : Peer) (r : Req) : Option Code :=
  let level := field r.data 0 1
  if r.data.length != 17 then some (lg 0x0A)
  else if 3 < level then some (lg 0x04)
  else if !s.levelPermitted p level then some (lg 0x10)
  else if s.levelCap p < level then some (sw 0x18)
  else if s.challenged level && s.pathLocked p.path then some (lg 0x11)
  else if !s.sessionFits p then some (lg 0x09)
  else none

/-- What a refused open records: E-0x112 for its path, or E-0x096 for a level above the port's trust (R263, R418). -/
def State.noteOpen (s : State) (p : Peer) (c : Code) : State :=
  match p with
  | .swage q => if c = sw 0x18 then (s.bump 0x4400_0C q).notePort q c 0 else s.noteRefusal p.path 0 c
  | _ => s.noteRefusal p.path 0 c

/-- An open request and its response (R418). -/
def State.serveOpen (s : State) (p : Peer) (r : Req) : State × Bytes :=
  match s.openCode p r with
  | some c => (s.noteOpen p c, responseOf 0x10 r 0 (.no c) true)
  | none =>
    let x := s.newSession p (field r.data 0 1) (r.data.drop 1)
    (x.1, responseOf 0x10 r x.2.1 { data := x.2.2 } true)

/-! ### The challenge (R419) -/

/-- The key of a level, with its slot (R419, R422). -/
def State.levelKey (s : State) (level : Nat) : Option (Bytes × Option Nat) :=
  if level < 2 then
    let k := s.blob 0x6800_09
    if k.isEmpty then none else some (k, none)
  else if level = 2 then
    match s.fuses.integratorSlot with
    | some n => some (s.fuses.integratorKeys.getD n [], some n)
    | none => none
  else some (Config.factoryKey, none)

/-- The 60 bytes that a tag authenticates (R419). -/
def Session.message (x : Session) : Bytes :=
  x.challenge ++ x.nonce ++ beBytes 8 Config.serialNumber.toNat ++ [byte x.level, byte x.peer.path] ++ beBytes 2 x.id

/-- A failed authentication closes the session and counts; five on a path within 60 s lock it out for 60 s (R419). -/
def State.authFailed (s : State) (x : Session) (c : Code) : State :=
  let path := x.peer.path
  let s1 := ((s.closeSessions fun y => y.id == x.id).bump 0x6800_05).record 0x110 (some c) x.id 0 true
  let fails := (path, s1.now) :: s1.acc.failures.filter fun f => decide (s1.now < f.2 + 60 * second)
  if 5 ≤ countTrue (fun f : Nat × Nat => f.1 == path) fails then
    { s1 with acc := { s1.acc with
        failures := fails.filter fun f => f.1 != path
        lockedOut := (path, s1.now + 60 * second) :: s1.acc.lockedOut.filter fun l => l.1 != path } }.record
      0x110 (some (lg 0x11)) path 0 true
  else { s1 with acc := { s1.acc with failures := fails } }

/-- A respond request (R419). -/
def State.serveRespond (s : State) (x : Session) (r : Req) : State × Reply :=
  if r.data.length != 32 then (s, .no (lg 0x0A))
  else if x.challengeAt + 10 * second < s.now then (s.authFailed x (lg 0x0B), .no (lg 0x0B))
  else
    match s.levelKey x.level with
    | none => (s.authFailed x (lg 0x08), .no (lg 0x08))
    | some k =>
      if hmacSha256 k.1 x.message = r.data then
        (s.setSession { x with pending := false, keySlot := k.2 },
          { data := hmacSha256 k.1 (x.nonce ++ x.challenge ++ beBytes 2 x.id) })
      else (s.authFailed x (lg 0x08), .no (lg 0x08))

/-! ### Reads (R410, R420) -/

/-- A piece of a value, and whether it reaches the end (R410). -/
def segmentOf (value : Bytes) (off : Nat) : Reply × Bool :=
  let piece := slice value off maxData
  ({ result := value.length, data := piece }, off + piece.length ≥ value.length)

/-- The value that a read from offset 0 takes; reading L:5C20.02 removes what it returns (R374). -/
def State.takeValue (s : State) (x : Session) (key : Nat) (e : Entry) : State × Bytes :=
  if key = 0x5C20_02 then
    let t := s.takeKeyRecords
    (t.2, t.1)
  else (s, bytesOf e (s.readVal x key e))

/-- The value that a later segment of a read comes from: its snapshot, or what the entry holds now; key records already
read are gone (R410). -/
def State.laterValue (s : State) (x : Session) (key : Nat) (e : Entry) : Bytes :=
  let slot := regKey key (x.inst key)
  match x.snaps.find? fun n => n.slot == slot && decide (s.now ≤ n.last + segmentGap) with
  | some n => n.value
  | none => if key = 0x5C20_02 then [] else bytesOf e (s.readVal x key e)

/-- The snapshots of a session that a read of an entry leaves: those of other entries, those whose second is over gone (R410). -/
def Session.otherSnaps (x : Session) (slot now : Nat) : List ReadSnap :=
  x.snaps.filter fun n => n.slot != slot && decide (now ≤ n.last + segmentGap)

/-- A read, or a segment of one (R410, R420). -/
def State.serveRead (s : State) (x : Session) (r : Req) (e : Entry) : State × Reply × Bool :=
  let key := r.key
  let slot := regKey key (x.inst key)
  if s.levelOf x < s.needs (readLevel key) then (s.noteRefusal x.id key (lg 0x06), .no (lg 0x06), true)
  else if e.acc == .wo then (s, .no (lg 0x03), true)
  else if r.offset != 0 && e.ty.bytes != 0 then (s, .no (lg 0x0A), true)
  else if r.offset = 0 then
    let t := s.takeValue x key e
    let g := segmentOf t.2 0
    let snap : List ReadSnap := if g.2 then [] else [{ slot := slot, value := t.2, last := s.now }]
    (t.1.setSession { x with snaps := x.otherSnaps slot s.now ++ snap }, g.1, g.2)
  else
    let v := s.laterValue x key e
    let g := segmentOf v r.offset
    let mine := x.snaps.filter fun n => n.slot == slot && decide (s.now ≤ n.last + segmentGap) && !g.2
    (s.setSession { x with snaps := x.otherSnaps slot s.now ++ mine.map fun n => { n with last := s.now } }, g.1, g.2)

/-! ### Writes (R410, R420) -/

/-- The checked write of a whole value. -/
def State.writeWhole (s : State) (x : Session) (key : Nat) (e : Entry) (b : Bytes) : State × Reply :=
  s.tryWrite x.id key ((valOf e b).getD (.bytes b)) (ledgerOp key)

/-- The checks of the first segment of several: those of R420 that look at no value, which is checked at the last (R410,
R420; DEDUCED, log entry 153). -/
def State.checkSegment (s : State) (x : Session) (key : Nat) (e : Entry) : Option Code :=
  if s.levelOf x < s.needs (e.writeLevel key) then some (lg 0x06)
  else if !e.acc.writable then some (lg 0x03)
  else if s.heldByOther x.id (regKey key (x.inst key)) then some (lg 0x12)
  else if bitAt s.fuses.policy 5 && x.peer.path == 1 then some (lg 0x0C)
  else if s.locked e.lock (x.inst key) then some (lg 0x05)
  else none

/-- A session without its segmented write of an entry. -/
def Session.dropHold (x : Session) (slot : Nat) : Session := { x with holds := x.holds.filter fun h => h.slot != slot }

/-- A session with a segmented write begun or gone on. -/
def Session.putHold (x : Session) (h : WriteHold) : Session :=
  { x with holds := (x.dropHold h.slot).holds ++ [h] }

/-- A segmented write goes on, ends, or is discarded (R410). -/
def State.continueHold (s : State) (x : Session) (r : Req) (e : Entry) (h : WriteHold) : State × Reply :=
  let y := x.dropHold h.slot
  let clear := s.setSession y
  if h.last + segmentGap < s.now then (clear, .no (lg 0x0B))
  else if r.offset != h.value.length then (clear, .no (lg 0x0A))
  else if r.last then clear.writeWhole y r.key e (h.value ++ r.data)
  else (s.setSession (x.putHold { h with value := h.value ++ r.data, last := s.now }), .ok)

/-- A write, or a segment of one (R410, R420). -/
def State.serveWrite (s : State) (x : Session) (r : Req) (e : Entry) : State × Reply :=
  let slot := regKey r.key (x.inst r.key)
  if e.ty.bytes != 0 then
    if r.offset != 0 || !r.last then (s, .no (lg 0x0A)) else s.writeWhole x r.key e r.data
  else if x.expired.contains slot then
    (s.setSession { x with expired := x.expired.filter fun k => k != slot }, .no (lg 0x0B))
  else match x.holds.find? fun h => h.slot == slot with
    | some h => s.continueHold x r e h
    | none =>
      if r.offset != 0 then (s, .no (lg 0x0A))
      else if r.last then s.writeWhole x r.key e r.data
      else match s.checkSegment x r.key e with
        | some c => (s.noteRefusal x.id r.key c, .no c)
        | none => (s.setSession (x.putHold { slot := slot, value := r.data, last := s.now }), .ok)

/-! ### One request (R409-R412, R417) -/

/-- The opcodes of requests (R409). -/
def opcodes : List Nat := [1, 2, 5, 0x10, 0x11, 0x12, 0x13]

/-- The open or pending session that a request names, bound to the peer that sent it (R417). -/
def State.boundSession (s : State) (p : Peer) (op : Nat) (ss : Nat) : Option Session :=
  match s.session? ss with
  | some x => if x.peer = p && (if x.pending then op == 0x11 || op == 0x12 else op != 0x11) then some x else none
  | none => none

/-- A request of a session, executed: what it answers, and whether the answer ends its value. -/
def State.serveOp (s : State) (x : Session) (op : Nat) (r : Req) (e : Option Entry) : State × Reply × Bool :=
  match op, e with
  | 1, some e => s.serveRead x r e
  | 2, some e => let y := s.serveWrite x r e; (y.1, y.2, true)
  | 5, some e => (s, { data := e.descriptor r.key }, true)
  | 0x11, _ => let y := s.serveRespond x r; (y.1, y.2, true)
  | 0x12, _ => (s.closeSessions fun y => y.id == x.id, .ok, true)
  | 5, none => (s, .no (lg 0x01), true)
  | 1, none => let c := s.unassigned x r.key; (s.noteRefusal x.id r.key c, .no c, true)
  | 2, none => let c := s.unassigned x r.key; (s.noteRefusal x.id r.key c, .no c, true)
  | _, _ => (s, .ok, true)

/-- Each session keeps its last response (R411). -/
def State.keepResponse (s : State) (ss txn : Nat) (frame : Bytes) : State :=
  match s.session? ss with
  | some x => s.setSession { x with lastTxn := some (txn, frame) }
  | none => s

/-- The session that a request of its peer repeats the last transaction of, and the response kept (R411). -/
def State.repeatedAt (s : State) (p : Peer) (r : Req) : Option (Session × Bytes) :=
  match s.session? r.session with
  | some x => if x.peer = p then (x.lastTxn.filter fun t => t.1 == r.txn).map fun t => (x, t.2) else none
  | none => none

/-- A request that names a session; a repeated transaction gets its response again (R411, R417, R420). -/
def State.serveSession (s : State) (p : Peer) (op : Nat) (r : Req) : State × Bytes :=
  let e := (entryAt r.key).filter fun _ => s.serves r.key
  let names := op == 1 || op == 2 || op == 5
  match s.repeatedAt p r with
  | some (x, frame) => (s.setSession { x with lastSent := s.now }, frame)
  | none =>
    match s.boundSession p op r.session with
    | none => (s, responseOf op r r.session (.no (if names && e.isNone then lg 0x01 else lg 0x07)) true)
    | some x0 =>
      let x := { x0 with lastSent := s.now }
      let y := (s.setSession x).serveOp x op r e
      let frame := responseOf op r r.session y.2.1 y.2.2
      (y.1.keepResponse x.id r.txn frame, frame)

/-- A ledger request of a peer and its response (R409, R420 step 1). -/
def State.serve (s : State) (p : Peer) (op : Nat) (r : Req) : State × Bytes :=
  if !r.valid || !opcodes.contains op then (s, responseOf op r r.session (.no (lg 0x0A)) true)
  else if op = 0x10 then s.serveOpen p r
  else s.serveSession p op r

/-- A response leaves on the path of its peer (R409, R413, R415, R257). -/
def State.deliver (s : State) (p : Peer) (frame : Bytes) : State :=
  match p with
  | .can c node => (canFrames frame).foldl
      (fun (t : State) b => t.send (.can c (canIdent true node (t.reg 0x6810_02 c)) b)) s
  | .swage q => s.sendMessage q 2 frame
  | _ => s.send (.response p frame)

/-- Whether a path is served: in recovery PCIe and Ethernet alone are (R397). -/
def State.pathServed (s : State) (p : Peer) : Bool := !s.acc.recovery || p.path == 2 || p.path == 3

/-- Whether a request waits for the non-volatile store: the last segment of a write of it, no repeat of one (R411, R425). -/
def State.mustHold (s : State) (p : Peer) (op : Nat) (r : Req) : Bool :=
  op == 2 && r.last && s.storeBusy r.key && (s.repeatedAt p r).isNone

/-- A request is executed and answered on its path, or waits. -/
def State.request (s : State) (p : Peer) (op : Nat) (r : Req) : State :=
  if s.pathServed p && s.mustHold p op r then s.hold (.frame p r)
  else if s.pathServed p then
    let y := s.serve p op r
    y.1.deliver p y.2
  else s

/-! ### Rows of requests -/

/-- LEDGER_READ (R409, R410, R420). -/
def execLedgerRead (p : Peer) (r : Req) (s : State) : Out := whenManaged s fun s => s.request p 1 r

/-- LEDGER_WRITE_FRAME (R410, R420). -/
def execLedgerWriteFrame (p : Peer) (r : Req) (s : State) : Out := whenManaged s fun s => s.request p 2 r

/-- DESCRIBE (R412). -/
def execDescribe (p : Peer) (r : Req) (s : State) : Out := whenManaged s fun s => s.request p 5 r

/-- OPEN (R418). -/
def execOpenSession (p : Peer) (r : Req) (s : State) : Out := whenManaged s fun s => s.request p 0x10 r

/-- RESPOND (R419). -/
def execRespond (p : Peer) (r : Req) (s : State) : Out := whenManaged s fun s => s.request p 0x11 r

/-- CLOSE (R417). -/
def execCloseSession (p : Peer) (r : Req) (s : State) : Out := whenManaged s fun s => s.request p 0x12 r

/-- KEEP_ALIVE (R417). -/
def execKeepAlive (p : Peer) (r : Req) (s : State) : Out := whenManaged s fun s => s.request p 0x13 r

/-- KEY_RECORDS_READ (R374): a read of L:5C20.02. -/
def execKeyRecordsRead (p : Peer) (r : Req) (s : State) : Out :=
  whenManaged s fun s => s.request p 1 { r with index := 0x5C20, sub := 0x02 }

/-- SESSION_IDLE_TIMEOUT (R417). -/
def execSessionIdleTimeout (ss : Nat) (s : State) : Out :=
  whenManaged s fun s =>
    match s.session? ss with
    | some x => if x.lastSent + s.reg 0x6800_04 * second ≤ s.now then s.closeSessions fun y => y.id == ss else s
    | none => s

/-- LOCKOUT_EXPIRY (R419). -/
def execLockoutExpiry (path : Fin 5) (s : State) : Out :=
  whenManaged s fun s =>
    { s with acc := { s.acc with lockedOut := s.acc.lockedOut.filter fun l => l.1 != path.val || decide (s.now < l.2) } }

/-- SEGMENT_HOLD_EXPIRY (R410). -/
def execSegmentHoldExpiry (ss : Nat) (s : State) : Out :=
  whenManaged s fun s =>
    match s.session? ss with
    | some x =>
      let late := fun h : WriteHold => decide (h.last + segmentGap < s.now)
      s.setSession { x with
        holds := x.holds.filter fun h => !late h
        expired := x.expired ++ (x.holds.filter late).map (·.slot) }
    | none => s

end Sys2Proof.Machine
end

