-- ==== Sys2Proof/Machine/Messages.lean ====
section
/-! DEFINITION. Swage messages and the consumers they are delivered to (R257, R260, R263). -/

namespace Sys2Proof.Machine

set_option Elab.async false

/-- A wall commit message acts by its step; another step is no message of the wall's (R260). -/
def State.takeWallMessage (s : State) (p : Nat) (b : Bytes) : State :=
  let m := wallMessage (s.memberOn p) b
  match field b 0 1 with
  | 1 => s.takePrepare p m
  | 2 => s.takeReady m
  | 3 => s.takeRefuse m
  | 4 => s.takeGo m
  | 5 => s.takeAbort m
  | 6 => s.takeApplied m
  | _ => s

/-- A whole message reaches its consumer: the ledger, wall commits or wall presence; the device sends no ledger requests, so
a response has none (R257). -/
def State.consume (s : State) (p kind : Nat) (b : Bytes) : State :=
  match kind with
  | 1 => let f := frameOf b; s.request (.swage p) f.1 f.2
  | 3 => s.takeWallMessage p b
  | 4 => s.takePresence p (field b 0 4) (field b 4 1) (field b 6 1) (field b 8 8)
  | _ => s

/-- A message is admitted by its kind and the port's trust, and consumed while the management controller runs. -/
def State.deliverMessage (s : State) (p kind : Nat) (b : Bytes) : State :=
  let a := s.admitMessage p kind
  if a.2 && a.1.managed then a.1.consume p kind b else a.1

/-- MESSAGE_CELL (R257, R258). -/
def execMessageCell (port : Fin 24) (cell : Bytes) (s : State) : Out :=
  whenLive s fun s => s.onCell port cell 2 fun s =>
    let r := s.acceptMessage port cell
    match r.2 with
    | some (kind, b) => r.1.deliverMessage port kind b
    | none => r.1

end Sys2Proof.Machine
end

