-- ==== Sys2Proof/Machine/Paths.lean ====
section
/-! DEFINITION. The paths by which requests and host accesses arrive (R413-R415, R430): CAN FD, Ethernet, and the PCIe
mailboxes and memory windows. -/

namespace Sys2Proof.Machine

set_option Elab.async false

/-! ### Frames with padding (R413, R415) -/

/-- A frame as delivered with zeros after its declared data is cut there; other bytes after it are left, and make the
frame disagree with its length. -/
def trimFrame (b : Bytes) : Bytes :=
  let n := headerLen + field b 10 2
  if headerLen ≤ b.length && (b.drop n).all (· == 0) then b.take n else b

/-! ### CAN FD (R413, R430) -/

/-- ns that may lie between the CAN frames of a message (R413). -/
def canGap : Nat := 20 * milli

/-- The message in progress of a peer node on a controller. -/
def State.canMsg (s : State) (c node : Nat) : Option CanMsg :=
  (s.acc.can.find? fun p => p.1 == c && p.2.node == node).map fun p => p.2

/-- Replace the message of a peer node on a controller. -/
def State.setCanMsg (s : State) (c node : Nat) (m : Option CanMsg) : State :=
  let rest := s.acc.can.filter fun p => !(p.1 == c && p.2.node == node)
  { s with acc := { s.acc with can := rest ++ m.toList.map fun x => (c, x) } }

/-- A message and the frame that broke it are discarded; the peer is answered where the header had arrived (R413). -/
def State.dropCanMsg (s : State) (c node : Nat) (m : CanMsg) (extra : Nat) (code : Code) : State :=
  let s1 := (s.setCanMsg c node none).bumpBy 0x6810_06 c (ceilDiv' m.bytes.length canPart + extra)
  if m.bytes.length < headerLen then s1
  else
    let f := frameOf m.bytes
    s1.deliver (.can c node) (responseOf f.1 f.2 f.2.session (.no code) true)

/-- A CAN frame continues a message: a whole ledger frame is executed (R413). -/
def State.addCanPart (s : State) (c node : Nat) (m : CanMsg) (last : Bool) (part : Bytes) : State :=
  let x : CanMsg := { m with next := (m.next + 1) % 64, bytes := m.bytes ++ part, last := s.now }
  if last then
    let f := frameOf (trimFrame x.bytes)
    (s.setCanMsg c node none).request (.can c node) f.1 f.2
  else if headerLen + maxData < x.bytes.length then s.dropCanMsg c node x 0 (lg 0x0A)
  else s.setCanMsg c node (some x)

/-- A ledger CAN frame of a peer node (R413). -/
def State.takeCanFrame (s : State) (c node : Nat) (head : Nat) (part : Bytes) : State :=
  let last := bitAt head 6
  if bitAt head 7 then
    let s1 := match s.canMsg c node with
      | some m => (s.setCanMsg c node none).bumpBy 0x6810_06 c (ceilDiv' m.bytes.length canPart)
      | none => s
    if head % 64 != 0 then
      s1.dropCanMsg c node { node := node, next := 0, bytes := part, last := s.now } (if part.isEmpty then 1 else 0) (lg 0x0A)
    else s1.addCanPart c node { node := node, next := 0, bytes := [], last := s.now } last part
  else
    match s.canMsg c node with
    | none => s.bump 0x6810_06 c
    | some m =>
      if m.last + canGap < s.now then s.dropCanMsg c node m 1 (lg 0x0B)
      else if head % 64 != m.next then s.dropCanMsg c node m 1 (lg 0x0A)
      else s.addCanPart c node m last part

/-- The source node of a request that an identifier marks as the ledger's, for this device (R413). -/
def State.canSource (s : State) (c : Nat) (ident : Nat) : Option Nat :=
  if bits ident 28 24 == 0x1A && !bitAt ident 23 && bits ident 22 15 == s.reg 0x6810_02 c && bits ident 6 0 == 0 then
    some (bits ident 14 7)
  else none

/-- CAN_FRAME_RECEIVE (R413). -/
def execCanFrameReceive (controller : Fin 2) (ident : BitVec 29) (payload : Bytes) (s : State) : Out :=
  whenManaged s fun s =>
    match s.canSource controller ident.toNat, payload with
    | some node, head :: part =>
      if s.reg 0x6810_05 controller = 2 || s.acc.recovery then s else s.takeCanFrame controller node head.toNat part
    | _, _ => s

/-- CAN_MESSAGE_TIMEOUT (R413). -/
def execCanMessageTimeout (controller : Fin 2) (node : Fin 256) (s : State) : Out :=
  whenManaged s fun s =>
    match s.canMsg controller node with
    | some m => if m.last + canGap < s.now then s.dropCanMsg controller node m 0 (lg 0x0B) else s
    | none => s

/-- CAN_BUS_OFF (R430): the sessions stay open. -/
def execCanBusOff (controller : Fin 2) (s : State) : Out :=
  whenManaged s fun s => (s.setReg 0x6810_05 controller 2).recordLimited second 0x114 (some (lg 0x13)) 1 0 true

/-- CAN_BUS_OFF_RECOVERY (R430). -/
def execCanBusOffRecovery (controller : Fin 2) (s : State) : Out :=
  whenManaged s fun s => if s.reg 0x6810_05 controller = 2 then s.setReg 0x6810_05 controller 0 else s

/-! ### Ethernet (R414) -/

/-- Whether the ledger is served over Ethernet: a port is enabled and its domain on (R388, R414). -/
def State.ethernetServed (s : State) : Bool :=
  s.domain 21 == 2 && (List.range 2).any fun p => s.flag 0x6820_02 p

/-- A datagram is counted in its second; whether it is within the limit (R414). -/
def State.admitDatagram (s : State) : State × Bool :=
  let w := s.acc.udpWindow
  let w1 := if w.1 + second ≤ s.now then (s.now, 1) else (w.1, w.2 + 1)
  ({ s with acc := { s.acc with udpWindow := w1 } }, decide (w1.2 ≤ s.reg 0x6820_0A))

/-- UDP_LEDGER_DATAGRAM (R414). -/
def execUdpLedgerDatagram (address port : Nat) (payload : Bytes) (s : State) : Out :=
  whenManaged s fun s =>
    if !s.ethernetServed then s
    else
      let a := s.admitDatagram
      if a.2 then
        let f := frameOf payload
        a.1.request (.udp address port) f.1 f.2
      else (a.1.bump 0x6820_0B).recordLimited second 0x114 (some (lg 0x14)) 2 0 true

/-- ARP_REQUEST (R414). -/
def execArpRequest (target sender : BitVec 32) (s : State) : Out :=
  whenManaged s fun s =>
    if s.ethernetServed && target.toNat == s.reg 0x6820_06 then s.send (.arp sender.toNat) else s

/-- ICMP_ECHO_REQUEST (R414). -/
def execIcmpEchoRequest (target sender : BitVec 32) (payload : Bytes) (s : State) : Out :=
  whenManaged s fun s =>
    if s.ethernetServed && target.toNat == s.reg 0x6820_06 then s.send (.echo sender.toNat payload) else s

/-! ### PCIe mailboxes (R415) -/

/-- Whether the PCIe endpoint is reached: PCIE_PERST_N is high and its domain has no fault (R388, R395). -/
def State.pcieServed (s : State) : Bool := s.pins.perstN && !s.inFault 20

/-- The status of a mailbox: 0 free, 1 busy, 2 response ready (R415). -/
def State.mailboxStatus (s : State) (m : Nat) : Nat := Tbl.get 0 s.acc.mailbox m

/-- Set the status and the response buffer of a mailbox. -/
def State.setMailbox (s : State) (m status : Nat) (reply : Bytes) : State :=
  { s with acc := { s.acc with
      mailbox := Tbl.put s.acc.mailbox m status, mailboxReply := Tbl.put s.acc.mailboxReply m reply } }

/-- The request buffer of a mailbox, its 4 KiB. -/
def State.requestBuffer (s : State) (m : Nat) : Bytes :=
  let b := Tbl.get [] s.acc.mailboxRequest m
  b ++ List.replicate (4096 - b.length) 0

/-- Bytes are written into the request buffer of a mailbox. -/
def State.fillBuffer (s : State) (m off : Nat) (bs : Bytes) : State :=
  let b := s.requestBuffer m
  let b' := (b.take off ++ bs ++ b.drop (off + bs.length)).take 4096
  { s with acc := { s.acc with mailboxRequest := Tbl.put s.acc.mailboxRequest m b' } }

/-- The frame that stands at the start of a mailbox's request buffer: its header and the data that it declares. -/
def State.mailboxFrame (s : State) (m : Nat) : Bytes :=
  let b := s.requestBuffer m
  b.take (headerLen + field b 10 2)

/-- A busy mailbox's request is executed once the controller runs and the store that it writes is not being written: its response
stands in the buffer, and vector 1 + m is raised; a request that resets the device ends with the reset (R28, R415, R425). -/
def State.serveMailbox (s : State) (m : Nat) : State :=
  let f := frameOf (s.mailboxFrame m)
  if s.mailboxStatus m != 1 || !s.managed || s.mustHold (.pcie 0) f.1 f.2 then s
  else
    let y := s.serve (.pcie 0) f.1 f.2
    if y.1.mailboxStatus m = 1 then (y.1.setMailbox m 2 y.2).send (.msix (1 + m)) else y.1

/-- Every mailbox that waits is served. -/
def State.serveMailboxes (s : State) : State := (List.range 4).foldl State.serveMailbox s

/-- The doorbell of a mailbox is rung; one rung while the mailbox is not free is counted (R415). -/
def State.ring (s : State) (m : Nat) : State :=
  if s.mailboxStatus m != 0 then s.bump 0x6830_03 else (s.setMailbox m 1 []).serveMailbox m

/-- A mailbox is freed (R415). -/
def State.freeMailbox (s : State) (m : Nat) : State := s.setMailbox m 0 []

/-- DOORBELL (R415): of a free mailbox, into which the host has written its frame. -/
def execDoorbell (mailbox : Fin 4) (request : Bytes) (s : State) : Out :=
  whenLive s fun s =>
    if !s.pcieServed then s
    else if s.mailboxStatus mailbox != 0 then s.ring mailbox
    else (s.fillBuffer mailbox 0 request).ring mailbox

/-- MAILBOX_FREE (R415). -/
def execMailboxFree (mailbox : Fin 4) (s : State) : Out :=
  whenLive s fun s => if s.pcieServed then s.freeMailbox mailbox else s

/-! ### What waits for the controller or the store (R28, R425) -/

/-- A write that waited for the non-volatile store, served where the controller still runs. -/
def State.serveHeldWrite (s : State) (h : HeldWrite) : State :=
  if !s.managed then s
  else match h with
    | .frame p r => s.request p 2 r
    | .row ss key v e => s.storeWrite ss key v e

/-- The writes that waited for the non-volatile store are served, in the order in which they came, with the mailboxes (R425). -/
def State.serveHeld (s : State) : State :=
  let t : State := { s with acc := { s.acc with heldWrites := [] } }
  (s.acc.heldWrites.foldl State.serveHeldWrite t).serveMailboxes

/-- BASELINE_SAVE_DONE (R371, R425). -/
def execBaselineSaveDone (result : StoreEnd) (s : State) : Out :=
  whenManaged s fun s =>
    match s.keys.saving with
    | none => s
    | some bs => if result = .powerLost then s.powerOn else (s.endSave bs result).serveHeld

/-- FIRMWARE_MAIN_LOOP (R28, R398, R402-R404, R415): with the controller, the mailboxes that wait are served. -/
def execFirmwareMainLoop (handOffRead : Bool) (s : State) : Out := .next (s.mainLoop handOffRead).serveMailboxes

/-! ### PCIe memory windows (R35, R301, R415) -/

/-- The device address of an offset in a window: BAR4 reaches Crucible, BAR2 the DRAM channels; none past the window
(R415). -/
def barAddress : Bar → Nat → Option Nat
  | .bar0, _ => none
  | .bar2, offset => if offset < 0x1000000000 then some offset else none
  | .bar4, offset => if offset < 0x4000000 then some (0x8000000000 + offset) else none

/-- Whether Ingot protection is enabled: L:2000.0A, or forced on by the rights policy (R35, R423). -/
def State.protects (s : State) : Bool := s.flag 0x2000_0A || bitAt s.fuses.policy 6

/-- Whether an Ingot's content may be read, so that its buffer is protected (R35). -/
def Ingot.guarded (g : Ingot) : Bool := g.st == .ready || g.st == .scanning || g.st == .draining

/-- The protected Ingot that a write of `len` bytes falls in (R35). -/
def State.guardedAt (s : State) (a len : Nat) : Option Nat :=
  (s.ingots.find? fun p => p.2.guarded && decide (a < p.2.base + p.2.size) && decide (p.2.base < a + len)).map fun p => p.1

/-- The frame period of the fastest enabled output in ns, rounded up, or P where no output is enabled (R35, R101). -/
def State.protectPeriod (s : State) : Nat :=
  let ds := ((List.range 32).filter fun o => s.flag 0x3400_02 o).map s.divisor
  ceilDiv' s.periodUnits (s.reg 0x2800_03 * ds.foldl max 1)

/-- A write into a protected Ingot is discarded (R35). -/
def State.discardWrite (s : State) (a i : Nat) (requester : BitVec 16) : State :=
  ((((s.bump 0x2090_01).setReg 0x2090_02 0 a).setReg 0x2090_03 0 i).setReg 0x2090_04 0 requester.toNat).recordEvery
    s.now s.protectPeriod false 0x044 (some (fr 0x0A)) i a

/-- The 1 KiB blocks that an access of `len` bytes meets, by their first byte of it and the byte after the last (R291). -/
def hostBlocks (a len : Nat) : List (Nat × Nat) :=
  ((List.range (ceilDiv' (a + len) 1024 - a / 1024)).map fun k =>
    (max a ((a / 1024 + k) * 1024), min (a + len) ((a / 1024 + k + 1) * 1024))).filter fun b => b.1 < b.2

/-- The request of an access in one block: the whole 64-byte beats that its bytes lie in (R291, R415). -/
def hostRequest (tag k : Nat) (b : Nat × Nat) (write : Bool) : FabReq :=
  { address := b.1 / 64 * 64, beats := ceilDiv' b.2 64 - b.1 / 64, write := write, cls := 2, id := tag * 2 ^ 32 + k }

/-- The request of a write in one block: its beats filled up with zeros that no enable names. -/
def hostWrite (tag k a : Nat) (data : Bytes) (b : Nat × Nat) : FabReq :=
  let q := hostRequest tag k b true
  let lead := b.1 - q.address
  let piece := slice data (b.1 - a) (b.2 - b.1)
  let names := fun (i : Nat) => decide (b.1 ≤ q.address + i) && decide (q.address + i < b.2)
  { q with
    data := List.replicate lead 0 ++ piece ++ List.replicate (64 * q.beats - lead - piece.length) 0
    enables := (List.range q.beats).map fun j =>
      (List.range 64).foldl (fun n i => if names (64 * j + i) then n + 2 ^ i else n) 0 }

/-- A write of the host goes into the fabric in bursts (R291, R415). -/
def State.hostStore (s : State) (tag a : Nat) (data : Bytes) : State :=
  (hostBlocks a data.length).zipIdx.foldl (fun (t : State) p => t.present 36 (hostWrite tag p.2 a data p.1)) s

/-- A read of the host goes into the fabric in bursts, and completes with the last; one of no bytes completes at once (R291,
R415). -/
def State.hostLoad (s : State) (tag a len : Nat) : State :=
  let rs := (hostBlocks a len).zipIdx.map fun p => hostRequest tag p.2 p.1 false
  if rs.isEmpty then s.send (.completion (some []))
  else
    let h : HostRead := { base := a, len := len, left := rs.map fun r => r.id }
    rs.foldl (fun (t : State) r => t.present 36 r) { s with fabric := { s.fabric with reads := s.fabric.reads ++ [h] } }

/-! ### BAR0 (R415) -/

/-- The byte at an offset in BAR0: the request and the response buffers, the status, least significant byte first (PRESUMED of
PCIe), and the MSI-X table; the pending bits read 0, since a vector that is raised is sent (DESIGN CHOICE, log entry 177). -/
def State.bar0Byte (s : State) (o : Nat) : Byte :=
  let m := o / 0x2000
  let r := o % 0x2000
  if 0x8000 ≤ o then byte (Tbl.get 0 s.acc.msixTable o)
  else if r < 0x1000 then (s.requestBuffer m).getD r 0
  else if r < 0x1FF0 then (Tbl.get [] s.acc.mailboxReply m).getD (r - 0x1000) 0
  else if r = 0x1FF4 then byte (s.mailboxStatus m)
  else 0

/-- A byte is written at an offset in BAR0: of a request buffer or of the MSI-X table; the rest takes none. -/
def State.setBar0Byte (s : State) (o : Nat) (b : Byte) : State :=
  if 0x8000 ≤ o then
    (if o < 0x8000 + 69 * 16 then { s with acc := { s.acc with msixTable := Tbl.put s.acc.msixTable o b.toNat } } else s)
  else if o % 0x2000 < 0x1000 then s.fillBuffer (o / 0x2000) (o % 0x2000) [b]
  else s

/-- The U32 that a write of BAR0 gives an offset, least significant byte first, if it covers it (PRESUMED of PCIe, log entry
177). -/
def wordAt (o : Nat) (data : Bytes) (at' : Nat) : Option Nat :=
  if o ≤ at' && at' + 4 ≤ o + data.length then some (beNat (slice data (at' - o) 4).reverse) else none

/-- What a write of BAR0 does at a mailbox's doorbell and status (R415). -/
def State.bar0Control (o : Nat) (data : Bytes) (s : State) (m : Nat) : State :=
  let s1 := if wordAt o data (m * 0x2000 + 0x1FF0) = some 1 then s.ring m else s
  if wordAt o data (m * 0x2000 + 0x1FF4) = some 0 then s1.freeMailbox m else s1

/-- A write of BAR0: its bytes, then the doorbells and status words that it covers (R415). -/
def State.bar0Write (s : State) (o : Nat) (data : Bytes) : State :=
  (List.range 4).foldl (State.bar0Control o data)
    (data.zipIdx.foldl (fun (t : State) p => t.setBar0Byte (o + p.2) p.1) s)

/-- PCIE_BAR_WRITE (R35, R291, R301, R415): a posted write has no completion. -/
def execPcieBarWrite (bar : Bar) (offset : Nat) (data : Bytes) (requester : BitVec 16) (tag : Nat) (s : State) : Out :=
  match barAddress bar offset with
  | none => whenLive s fun s => if bar = .bar0 && s.pcieServed then s.bar0Write offset data else s
  | some a =>
    whenFabric s fun s =>
      if !s.pcieServed then s
      else match (s.guardedAt a data.length).filter fun _ => s.protects with
        | some i => s.discardWrite a i requester
        | none => s.hostStore tag a data

/-- PCIE_BAR_READ (R291, R301, R415): data, or Completer Abort. -/
def execPcieBarRead (bar : Bar) (offset len : Nat) (_requester : BitVec 16) (tag : Nat) (s : State) : Out :=
  match barAddress bar offset with
  | none => whenLive s fun s =>
      if bar = .bar0 && s.pcieServed then s.send (.completion (some ((List.range len).map fun k => s.bar0Byte (offset + k))))
      else s
  | some a => whenFabric s fun s => if s.pcieServed then s.hostLoad tag a len else s

end Sys2Proof.Machine
end

