-- ==== Sys2Proof/Machine/Dispatch.lean ====
section
/-! DEFINITION. The meaning of every command: one arm per row of the table. -/

namespace Sys2Proof.Machine

/-- The effect of a command on everything but the queue. -/
def exec (i : Instr) (s : State) : Host.Outcome State Fault Refusal :=
  match i with
  | .roleSelectWrite ss v => Sys2Proof.Machine.execRoleSelectWrite ss v s
  | .registerWrite ss key v => Sys2Proof.Machine.execRegisterWrite ss key v s
  | .ledgerRead p r => Sys2Proof.Machine.execLedgerRead p r s
  | .ledgerWriteFrame p r => Sys2Proof.Machine.execLedgerWriteFrame p r s
  | .describe p r => Sys2Proof.Machine.execDescribe p r s
  | .openSession p r => Sys2Proof.Machine.execOpenSession p r s
  | .respond p r => Sys2Proof.Machine.execRespond p r s
  | .closeSession p r => Sys2Proof.Machine.execCloseSession p r s
  | .keepAlive p r => Sys2Proof.Machine.execKeepAlive p r s
  | .sessionIdleTimeout ss => Sys2Proof.Machine.execSessionIdleTimeout ss s
  | .lockoutExpiry path => Sys2Proof.Machine.execLockoutExpiry path s
  | .segmentHoldExpiry ss => Sys2Proof.Machine.execSegmentHoldExpiry ss s
  | .canFrameReceive controller ident payload => Sys2Proof.Machine.execCanFrameReceive controller ident payload s
  | .canMessageTimeout controller node => Sys2Proof.Machine.execCanMessageTimeout controller node s
  | .canBusOff controller => Sys2Proof.Machine.execCanBusOff controller s
  | .canBusOffRecovery controller => Sys2Proof.Machine.execCanBusOffRecovery controller s
  | .udpLedgerDatagram address port payload => Sys2Proof.Machine.execUdpLedgerDatagram address port payload s
  | .arpRequest target sender => Sys2Proof.Machine.execArpRequest target sender s
  | .icmpEchoRequest target sender payload => Sys2Proof.Machine.execIcmpEchoRequest target sender payload s
  | .doorbell mailbox request => Sys2Proof.Machine.execDoorbell mailbox request s
  | .mailboxFree mailbox => Sys2Proof.Machine.execMailboxFree mailbox s
  | .pcieBarWrite bar offset data requester tag => Sys2Proof.Machine.execPcieBarWrite bar offset data requester tag s
  | .pcieBarRead bar offset len requester tag => Sys2Proof.Machine.execPcieBarRead bar offset len requester tag s
  | .pciePerst level => Sys2Proof.Machine.execPciePerst level s
  | .saveConfiguration ss v result => Sys2Proof.Machine.execSaveConfiguration ss v result s
  | .eraseSavedConfiguration ss v result => Sys2Proof.Machine.execEraseSavedConfiguration ss v result s
  | .nonVolatileWrite ss key v result => Sys2Proof.Machine.execNonVolatileWrite ss key v result s
  | .programIntegratorKey ss key verified => Sys2Proof.Machine.execProgramIntegratorKey ss key verified s
  | .revokeIntegratorKey ss slot verified => Sys2Proof.Machine.execRevokeIntegratorKey ss slot verified s
  | .rightsPolicyWrite ss v result => Sys2Proof.Machine.execRightsPolicyWrite ss v result s
  | .debugLockWrite ss v result => Sys2Proof.Machine.execDebugLockWrite ss v result s
  | .minSecurityVersionWrite ss v verified => Sys2Proof.Machine.execMinSecurityVersionWrite ss v verified s
  | .revokeImageKey ss slot verified => Sys2Proof.Machine.execRevokeImageKey ss slot verified s
  | .roleLockWrite ss v result => Sys2Proof.Machine.execRoleLockWrite ss v result s
  | .wallAliasWrite ss v result => Sys2Proof.Machine.execWallAliasWrite ss v result s
  | .memberNumberWrite ss v => Sys2Proof.Machine.execMemberNumberWrite ss v s
  | .hostAcquire ss slot => Sys2Proof.Machine.execHostAcquire ss slot s
  | .hostPublish ss v => Sys2Proof.Machine.execHostPublish ss v s
  | .hostContentCheckDone ingot readOk => Sys2Proof.Machine.execHostContentCheckDone ingot readOk s
  | .hostRelease ss ingot => Sys2Proof.Machine.execHostRelease ss ingot s
  | .readerRetire ingot reader => Sys2Proof.Machine.execReaderRetire ingot reader s
  | .outputFrameStart output => Sys2Proof.Machine.execOutputFrameStart output s
  | .holdLimitReached output => Sys2Proof.Machine.execHoldLimitReached output s
  | .sealPoint output => Sys2Proof.Machine.execSealPoint output s
  | .startOfBlanking output => Sys2Proof.Machine.execStartOfBlanking output s
  | .lineMatch output => Sys2Proof.Machine.execLineMatch output s
  | .frameDone output => Sys2Proof.Machine.execFrameDone output s
  | .eventLatchClear ss v => Sys2Proof.Machine.execEventLatchClear ss v s
  | .layerUnderrun engine layer x y => Sys2Proof.Machine.execLayerUnderrun engine layer x y s
  | .engineFailure engine deadline line => Sys2Proof.Machine.execEngineFailure engine deadline line s
  | .engineSubstitutionArm engine => Sys2Proof.Machine.execEngineSubstitutionArm engine s
  | .hotPlugAssert port sinkRate sinkLink edid => Sys2Proof.Machine.execHotPlugAssert port sinkRate sinkLink edid s
  | .hotPlugLoss port lowUs => Sys2Proof.Machine.execHotPlugLoss port lowUs s
  | .irqHpd port linkLost => Sys2Proof.Machine.execIrqHpd port linkLost s
  | .dpTrainingDone port result => Sys2Proof.Machine.execDpTrainingDone port result s
  | .dsiInitDone port acknowledged => Sys2Proof.Machine.execDsiInitDone port acknowledged s
  | .tearingEffect port => Sys2Proof.Machine.execTearingEffect port s
  | .tableLoad ss blob => Sys2Proof.Machine.execTableLoad ss blob s
  | .writebackRegionStart engine => Sys2Proof.Machine.execWritebackRegionStart engine s
  | .writebackRegionEnd engine => Sys2Proof.Machine.execWritebackRegionEnd engine s
  | .place ss v => Sys2Proof.Machine.execPlace ss v s
  | .dryRun ss => Sys2Proof.Machine.execDryRun ss s
  | .placementDone timeUs => Sys2Proof.Machine.execPlacementDone timeUs s
  | .emptySlot ss v => Sys2Proof.Machine.execEmptySlot ss v s
  | .automaticReplanStart => Sys2Proof.Machine.execAutomaticReplanStart s
  | .automaticReplanDone timeUs => Sys2Proof.Machine.execAutomaticReplanDone timeUs s
  | .commit ss v => Sys2Proof.Machine.execCommit ss v s
  | .commitAccept => Sys2Proof.Machine.execCommitAccept s
  | .commitLockIn ticket => Sys2Proof.Machine.execCommitLockIn ticket s
  | .cancel ss ticket => Sys2Proof.Machine.execCancel ss ticket s
  | .discardShadow ss v => Sys2Proof.Machine.execDiscardShadow ss v s
  | .prepare port m => Sys2Proof.Machine.execPrepare port m s
  | .ready port m => Sys2Proof.Machine.execReady port m s
  | .refuse port m => Sys2Proof.Machine.execRefuse port m s
  | .decisionDeadline ticket => Sys2Proof.Machine.execDecisionDeadline ticket s
  | .go port m => Sys2Proof.Machine.execGo port m s
  | .abort port m => Sys2Proof.Machine.execAbort port m s
  | .applied port m => Sys2Proof.Machine.execApplied port m s
  | .appliedReportTimeout ticket => Sys2Proof.Machine.execAppliedReportTimeout ticket s
  | .wallPresence port wallAlias member role pairState serial => Sys2Proof.Machine.execWallPresence port wallAlias member role pairState serial s
  | .presenceSend => Sys2Proof.Machine.execPresenceSend s
  | .memberPresenceTimeout member => Sys2Proof.Machine.execMemberPresenceTimeout member s
  | .joinListenEnd => Sys2Proof.Machine.execJoinListenEnd s
  | .frameStartPacket port header => Sys2Proof.Machine.execFrameStartPacket port header s
  | .longPacket port vc dataType payload headerEcc crcOk => Sys2Proof.Machine.execLongPacket port vc dataType payload headerEcc crcOk s
  | .frameEndPacket port header => Sys2Proof.Machine.execFrameEndPacket port header s
  | .lineGapTimeout ctx => Sys2Proof.Machine.execLineGapTimeout ctx s
  | .signalAbsentTimeout port => Sys2Proof.Machine.execSignalAbsentTimeout port s
  | .portFaultSecond port sotErrors => Sys2Proof.Machine.execPortFaultSecond port sotErrors s
  | .pipelineBind => Sys2Proof.Machine.execPipelineBind s
  | .pipelineFrameDone pipe writes => Sys2Proof.Machine.execPipelineFrameDone pipe writes s
  | .aeStep ctx => Sys2Proof.Machine.execAeStep ctx s
  | .awbStep ctx => Sys2Proof.Machine.execAwbStep ctx s
  | .exposureTransferDone ctx result released => Sys2Proof.Machine.execExposureTransferDone ctx result released s
  | .controlBusTimeout port => Sys2Proof.Machine.execControlBusTimeout port s
  | .hostTransfer ss blob => Sys2Proof.Machine.execHostTransfer ss blob s
  | .hostTransferStart port => Sys2Proof.Machine.execHostTransferStart port s
  | .hostTransferDone port acknowledged data => Sys2Proof.Machine.execHostTransferDone port acknowledged data s
  | .hostTransferTimeout port => Sys2Proof.Machine.execHostTransferTimeout port s
  | .temperLoad ss blob => Sys2Proof.Machine.execTemperLoad ss blob s
  | .sensorProfileWrite ss blob => Sys2Proof.Machine.execSensorProfileWrite ss blob s
  | .blockLock lane => Sys2Proof.Machine.execBlockLock lane s
  | .blockLockLoss lane => Sys2Proof.Machine.execBlockLockLoss lane s
  | .detectTimeout lane => Sys2Proof.Machine.execDetectTimeout lane s
  | .backOffExpiry lane => Sys2Proof.Machine.execBackOffExpiry lane s
  | .capabilityBlock lane payload => Sys2Proof.Machine.execCapabilityBlock lane payload s
  | .exchangeTimeout lane => Sys2Proof.Machine.execExchangeTimeout lane s
  | .trainBlock lane payload merit selfDone => Sys2Proof.Machine.execTrainBlock lane payload merit selfDone s
  | .trainTimeout lane => Sys2Proof.Machine.execTrainTimeout lane s
  | .verifyEnd lane errors => Sys2Proof.Machine.execVerifyEnd lane errors s
  | .stepBlock lane payload => Sys2Proof.Machine.execStepBlock lane payload s
  | .rateSwitchDone lane => Sys2Proof.Machine.execRateSwitchDone lane s
  | .runEntryBlock lane payload => Sys2Proof.Machine.execRunEntryBlock lane payload s
  | .runEntryDone lane => Sys2Proof.Machine.execRunEntryDone lane s
  | .loopbackBlock lane payload => Sys2Proof.Machine.execLoopbackBlock lane payload s
  | .anchorIntervalSend port anythingWaiting => Sys2Proof.Machine.execAnchorIntervalSend port anythingWaiting s
  | .anchorReceived lane word skewNs fill stuffBad => Sys2Proof.Machine.execAnchorReceived lane word skewNs fill stuffBad s
  | .anchorMissed lane => Sys2Proof.Machine.execAnchorMissed lane s
  | .elasticBufferFault lane => Sys2Proof.Machine.execElasticBufferFault lane s
  | .bankedIdleTimeout port => Sys2Proof.Machine.execBankedIdleTimeout port s
  | .bankedExit port => Sys2Proof.Machine.execBankedExit port s
  | .retrain ss v => Sys2Proof.Machine.execRetrain ss v s
  | .errorInjection lane => Sys2Proof.Machine.execErrorInjection lane s
  | .videoHeaderCell port cell => Sys2Proof.Machine.execVideoHeaderCell port cell s
  | .videoDataCell port cell => Sys2Proof.Machine.execVideoDataCell port cell s
  | .videoTrailerCell port cell => Sys2Proof.Machine.execVideoTrailerCell port cell s
  | .inboundFrameTimeout slot => Sys2Proof.Machine.execInboundFrameTimeout slot s
  | .nullCell port cell => Sys2Proof.Machine.execNullCell port cell s
  | .witnessCell port cell => Sys2Proof.Machine.execWitnessCell port cell s
  | .witnessEchoTimeout output seq => Sys2Proof.Machine.execWitnessEchoTimeout output seq s
  | .forwardFrameStart slot => Sys2Proof.Machine.execForwardFrameStart slot s
  | .messageCell port cell => Sys2Proof.Machine.execMessageCell port cell s
  | .creditCell port cell => Sys2Proof.Machine.execCreditCell port cell s
  | .creditSend port => Sys2Proof.Machine.execCreditSend port s
  | .retransmitTimeout port => Sys2Proof.Machine.execRetransmitTimeout port s
  | .syncCell port cell => Sys2Proof.Machine.execSyncCell port cell s
  | .delayRequestCell port cell => Sys2Proof.Machine.execDelayRequestCell port cell s
  | .delayResponseCell port cell => Sys2Proof.Machine.execDelayResponseCell port cell s
  | .syncSend port => Sys2Proof.Machine.execSyncSend port s
  | .delayExchangeTimeout port => Sys2Proof.Machine.execDelayExchangeTimeout port s
  | .rateWrite ss v => Sys2Proof.Machine.execRateWrite ss v s
  | .offsetWrite ss v => Sys2Proof.Machine.execOffsetWrite ss v s
  | .stepWrite ss v => Sys2Proof.Machine.execStepWrite ss v s
  | .eraSweepDone => Sys2Proof.Machine.execEraSweepDone s
  | .hostTimeState ss v => Sys2Proof.Machine.execHostTimeState ss v s
  | .timeSourceWrite ss v => Sys2Proof.Machine.execTimeSourceWrite ss v s
  | .servoSample steer => Sys2Proof.Machine.execServoSample steer s
  | .holdoverExpiry => Sys2Proof.Machine.execHoldoverExpiry s
  | .announceTimeout => Sys2Proof.Machine.execAnnounceTimeout s
  | .syncTimeout => Sys2Proof.Machine.execSyncTimeout s
  | .hostStateTimeout => Sys2Proof.Machine.execHostStateTimeout s
  | .ptpSync port head source seq twoStep origin rx correction => Sys2Proof.Machine.execPtpSync port head source seq twoStep origin rx correction s
  | .ptpFollowUp port head source seq origin correction => Sys2Proof.Machine.execPtpFollowUp port head source seq origin correction s
  | .ptpAnnounce port head source grandmaster priority1 priority2 cls accuracy variance steps => Sys2Proof.Machine.execPtpAnnounce port head source grandmaster priority1 priority2 cls accuracy variance steps s
  | .ptpDelayReq port head source seq rx => Sys2Proof.Machine.execPtpDelayReq port head source seq rx s
  | .ptpDelayResp port head source requester seq rx correction => Sys2Proof.Machine.execPtpDelayResp port head source requester seq rx correction s
  | .ptpPdelayReq port head source seq rx => Sys2Proof.Machine.execPtpPdelayReq port head source seq rx s
  | .ptpPdelayResp port head source seq turnaround rx => Sys2Proof.Machine.execPtpPdelayResp port head source seq turnaround rx s
  | .ptpMasterSyncSend => Sys2Proof.Machine.execPtpMasterSyncSend s
  | .ptpMasterAnnounceSend => Sys2Proof.Machine.execPtpMasterAnnounceSend s
  | .ethernetFrameForward port dest ptpEvent udp rx fcs frame => Sys2Proof.Machine.execEthernetFrameForward port dest ptpEvent udp rx fcs frame s
  | .timeDomainWake ticks => Sys2Proof.Machine.execTimeDomainWake ticks s
  | .fabricRequest port r => Sys2Proof.Machine.execFabricRequest port r s
  | .fabricGrant target => Sys2Proof.Machine.execFabricGrant target s
  | .fabricCompletion target port id result => Sys2Proof.Machine.execFabricCompletion target port id result s
  | .classBRefusal port target id overflow => Sys2Proof.Machine.execClassBRefusal port target id overflow s
  | .classCTimeout port target id => Sys2Proof.Machine.execClassCTimeout port target id s
  | .lockedSequence port target accesses => Sys2Proof.Machine.execLockedSequence port target accesses s
  | .clearOutcomes ss v => Sys2Proof.Machine.execClearOutcomes ss v s
  | .readUncorrectable port address syndrome => Sys2Proof.Machine.execReadUncorrectable port address syndrome s
  | .refreshDue channel => Sys2Proof.Machine.execRefreshDue channel s
  | .refreshCatchUp channel => Sys2Proof.Machine.execRefreshCatchUp channel s
  | .temperatureRead channel celsius => Sys2Proof.Machine.execTemperatureRead channel celsius s
  | .tracking channel driftPs inRange => Sys2Proof.Machine.execTracking channel driftPs inRange s
  | .scrubRead channel sector corrected uncorrectable syndrome => Sys2Proof.Machine.execScrubRead channel sector corrected uncorrectable syndrome s
  | .selfRefreshEntry channel => Sys2Proof.Machine.execSelfRefreshEntry channel s
  | .selfRefreshExit channel beforeCommand => Sys2Proof.Machine.execSelfRefreshExit channel beforeCommand s
  | .dramTrainingDone channel passed => Sys2Proof.Machine.execDramTrainingDone channel passed s
  | .evacuate ss v => Sys2Proof.Machine.execEvacuate ss v s
  | .evacuationComplete channel => Sys2Proof.Machine.execEvacuationComplete channel s
  | .retrainChannel ss v => Sys2Proof.Machine.execRetrainChannel ss v s
  | .retireChannel ss v => Sys2Proof.Machine.execRetireChannel ss v s
  | .recoveryActionStart => Sys2Proof.Machine.execRecoveryActionStart s
  | .testEngine ss v => Sys2Proof.Machine.execTestEngine ss v s
  | .engineTestDone passed => Sys2Proof.Machine.execEngineTestDone passed s
  | .switchBackEngine ss v => Sys2Proof.Machine.execSwitchBackEngine ss v s
  | .switchBackLane ss v => Sys2Proof.Machine.execSwitchBackLane ss v s
  | .pairDecide => Sys2Proof.Machine.execPairDecide s
  | .pairActRise => Sys2Proof.Machine.execPairActRise s
  | .heartbeatSend mainLoop => Sys2Proof.Machine.execHeartbeatSend mainLoop s
  | .heartbeatPulse widthUs => Sys2Proof.Machine.execHeartbeatPulse widthUs s
  | .heartbeatLoss => Sys2Proof.Machine.execHeartbeatLoss s
  | .bellowsSectionData frame => Sys2Proof.Machine.execBellowsSectionData frame s
  | .bellowsHeaderCommit frame => Sys2Proof.Machine.execBellowsHeaderCommit frame s
  | .bellowsTime frame => Sys2Proof.Machine.execBellowsTime frame s
  | .bellowsYield frame => Sys2Proof.Machine.execBellowsYield frame s
  | .pushTimer => Sys2Proof.Machine.execPushTimer s
  | .takeoverReady hearthTicks => Sys2Proof.Machine.execTakeoverReady hearthTicks s
  | .takeoverHoldLimit => Sys2Proof.Machine.execTakeoverHoldLimit s
  | .resyncDone => Sys2Proof.Machine.execResyncDone s
  | .handOver ss v => Sys2Proof.Machine.execHandOver ss v s
  | .measurementGate raw => Sys2Proof.Machine.execMeasurementGate raw s
  | .saveBaselines ss v => Sys2Proof.Machine.execSaveBaselines ss v s
  | .autoBaselineSave => Sys2Proof.Machine.execAutoBaselineSave s
  | .baselineSaveDone result => Sys2Proof.Machine.execBaselineSaveDone result s
  | .keyRecordsRead p r => Sys2Proof.Machine.execKeyRecordsRead p r s
  | .start ss v => Sys2Proof.Machine.execStart ss v s
  | .startFresh ss v => Sys2Proof.Machine.execStartFresh ss v s
  | .suspend ss v => Sys2Proof.Machine.execSuspend ss v s
  | .abortScan ss v => Sys2Proof.Machine.execAbortScan ss v s
  | .scanBurstDone unit result => Sys2Proof.Machine.execScanBurstDone unit result s
  | .domainPowerGood domain => Sys2Proof.Machine.execDomainPowerGood domain s
  | .domainPowerTimeout domain pll => Sys2Proof.Machine.execDomainPowerTimeout domain pll s
  | .powerGoodLoss domain => Sys2Proof.Machine.execPowerGoodLoss domain s
  | .domainHoldExpiry domain => Sys2Proof.Machine.execDomainHoldExpiry domain s
  | .domainPowerDownDone domain => Sys2Proof.Machine.execDomainPowerDownDone domain s
  | .forceOn ss v => Sys2Proof.Machine.execForceOn ss v s
  | .crystalStable => Sys2Proof.Machine.execCrystalStable s
  | .crystalTimeout => Sys2Proof.Machine.execCrystalTimeout s
  | .refclkLoss => Sys2Proof.Machine.execRefclkLoss s
  | .refclkReturn => Sys2Proof.Machine.execRefclkReturn s
  | .powerOnReset => Sys2Proof.Machine.execPowerOnReset s
  | .sysRstN lowNs => Sys2Proof.Machine.execSysRstN lowNs s
  | .deviceReset ss v => Sys2Proof.Machine.execDeviceReset ss v s
  | .bootImageLoaded slotA slotB => Sys2Proof.Machine.execBootImageLoaded slotA slotB s
  | .imageChunk ss blob => Sys2Proof.Machine.execImageChunk ss blob s
  | .verifySlot ss v => Sys2Proof.Machine.execVerifySlot ss v s
  | .verifyDone => Sys2Proof.Machine.execVerifyDone s
  | .activate ss v => Sys2Proof.Machine.execActivate ss v s
  | .firmwareMainLoop handOffRead => Sys2Proof.Machine.execFirmwareMainLoop handOffRead s
  | .firmwareStartTimeout => Sys2Proof.Machine.execFirmwareStartTimeout s
  | .confirm ss v => Sys2Proof.Machine.execConfirm ss v s
  | .trialTimeout => Sys2Proof.Machine.execTrialTimeout s
  | .thermTrip => Sys2Proof.Machine.execThermTrip s
  | .thermTripRelease => Sys2Proof.Machine.execThermTripRelease s
  | .partnerHeartbeatAbsent => Sys2Proof.Machine.execPartnerHeartbeatAbsent s
  | .clockLockLoss lane => Sys2Proof.Machine.execClockLockLoss lane s
  | .testPatternCheckerLock lane errorBits comparedBits => Sys2Proof.Machine.execTestPatternCheckerLock lane errorBits comparedBits s
  | .functionLevelReset => Sys2Proof.Machine.execFunctionLevelReset s
  | .pcieLinkChange generation width => Sys2Proof.Machine.execPcieLinkChange generation width s
  | .ethernetLinkChange port speed => Sys2Proof.Machine.execEthernetLinkChange port speed s
  | .managementControllerStop => Sys2Proof.Machine.execManagementControllerStop s
  | .hearthWatchdogExpiry => Sys2Proof.Machine.execHearthWatchdogExpiry s

end Sys2Proof.Machine
end

