-- ==== Sys2Proof/Machine/Idle.lean ====
section
/-! DEFINITION. What the block does when no command waits: a nanosecond passes (DESIGN CHOICE, log entry 61). -/

namespace Sys2Proof.Machine

set_option Elab.async false

/-- The log's vector is raised once its 100 µs have passed, where a record came inside them (R441). -/
def State.raiseDue (s : State) : State :=
  match s.log.vector0Due, s.log.vector0At with
  | true, some t =>
    if t + 100000 ≤ s.now then
      { s with log := { s.log with vector0At := some s.now, vector0Due := false } }.send (.msix 0)
    else s
  | _, _ => s

/-- What the 52 lanes send in the nanosecond that ends now (R217, R237). -/
def State.laneTicks (s : State) : State := (List.range 52).foldl State.laneTick s

/-- The bridge's next frames start where a port is free (R280). -/
def State.drainPorts (s : State) : State := (s.drainEther 0).drainEther 1

/-- A nanosecond passes: the time counter counts while its domain runs on REFCLK, and the lanes send what no command sends, and
the bridge its frames (R217, R237, R268, R280, R288). -/
def State.tick (s : State) : State :=
  let c := if s.time.running && s.power.refclk then (s.time.counter + 1) % 2 ^ 64 else s.time.counter
  { s with time := { s.time with uptime := s.time.uptime + 1, counter := c } }.raiseDue.laneTicks.drainPorts

end Sys2Proof.Machine
end

