-- ==== Sys2Proof/Machine/Signals.lean ====
section
/-! DEFINITION. What the balls of each signal group do while the device is in reset or their domain is off (R445, R446).
While the domain is on they follow the rules of their chapters. -/

namespace Sys2Proof.Machine

set_option Elab.async false

/-- The signal groups, with the part that a group has of each kind (R445). -/
inductive Signal where
  | swageLane (lane : Nat)
  | auxHotPlug (port : Nat)
  | pcie
  | camera (port : Nat)
  | cameraControl (port : Nat)
  | dsi (port : Nat)
  | tearingEffect (port : Nat)
  | lpddr (channel : Nat)
  | ethernet (port : Nat)
  | ethernetManagement
  | canFd (controller : Nat)
  | octalSpi
  | key (k : Nat)
  | shield (k : Nat)
  | pair
  | bellows
  | testPort
  deriving DecidableEq, Repr

/-- What a group's balls do, in the words of the table of signal groups (R445). -/
inductive Balls where
  /-- As the owning chapter's rules drive and read them. -/
  | inUse
  /-- TX electrical idle; RX terminated. -/
  | idle
  /-- High impedance, an input's pull-down apart. -/
  | highZ
  /-- HS termination off; LP receivers high impedance. -/
  | receiversOff
  /-- Released open-drain lines. -/
  | released
  /-- High impedance with a 50 kΩ pull-down. -/
  | pulledDown
  /-- An input that is not read. -/
  | ignored
  /-- RESET_N, CS, CA and CK low; DQ, DMI and RDQS high impedance. -/
  | dramReset
  /-- MDC low, MDIO released, RST_N low. -/
  | mdioReset
  /-- Recessive. -/
  | high
  | low
  /-- CS_N high, CLK low, DQ released, RST_N low. -/
  | flashReset
  /-- CS_N high, CLK low. -/
  | flashIdle
  deriving DecidableEq, Repr

/-- The power domain of a signal group (R388, R445); the test port has none. -/
def Signal.domain : Signal → Option Nat
  | .swageLane l => some (15 + laneGroup l)
  | .auxHotPlug _ | .dsi _ | .tearingEffect _ => some 19
  | .pcie => some 20
  | .camera _ | .cameraControl _ => some 14
  | .lpddr c => some (4 + c / 8)
  | .ethernet _ | .ethernetManagement => some 21
  | .canFd _ | .octalSpi => some 2
  | .key _ | .shield _ => some 22
  | .pair => some 0
  | .bellows => some 1
  | .testPort => none

/-- The balls of a group in reset (R445). -/
def Signal.inReset : Signal → Balls
  | .swageLane _ | .pcie | .ethernet _ => .idle
  | .auxHotPlug _ | .testPort | .bellows => .highZ
  | .camera _ => .receiversOff
  | .cameraControl _ => .released
  | .dsi _ => .pulledDown
  | .tearingEffect _ => .ignored
  | .lpddr _ => .dramReset
  | .ethernetManagement => .mdioReset
  | .canFd _ => .high
  | .octalSpi => .flashReset
  | .key _ | .shield _ | .pair => .low

/-- The balls of a group whose domain is off outside reset (R445): only the octal SPI differs. -/
def Signal.whenOff (g : Signal) : Balls := if g = .octalSpi then .flashIdle else g.inReset

/-- Whether no domain of a number has been on since power-on: the last reset was a power-on reset, and the domain has at most
begun its first start (R395, R445, L:6400.05). -/
def State.neverOn (s : State) (d : Nat) : Bool :=
  s.reg 0x1010_07 == 1 && s.domain d != 2 && decide (s.reg 0x6400_05 d ≤ (if s.domain d = 1 then 1 else 0))

/-- What the balls of a group do now (R445); with the debug lock blown the test port is ignored and TDO stays high impedance
(R446). -/
def State.balls (s : State) (g : Signal) : Balls :=
  match g.domain with
  | none => if s.fuses.debugLock then .highZ else .inUse
  | some d =>
    if s.domain d = 2 || s.domain d = 3 then .inUse
    else if s.neverOn d then g.inReset
    else g.whenOff

end Sys2Proof.Machine
end

