-- ==== Sys2Proof/WellFormed.lean ====
section
/-! DEFINITION. Which commands are well formed: every operand lies in the field that its rule gives it. -/

namespace Sys2Proof

set_option Elab.async false

/-- Whether a number fits in a field of `w` bits. -/
def fits (w n : Nat) : Bool := decide (n < 2 ^ w)

/-- Whether a peer names a part that exists: a CAN FD controller and node (R413), an address and port (R414), a PCIe function
(R415), a Swage port (R263). -/
def Peer.wf : Peer → Bool
  | .can controller node => decide (controller < 2) && fits 8 node
  | .udp address port => fits 32 address && fits 16 port
  | .pcie function => decide (function < 8)
  | .swage port => decide (port < 24)

/-- Whether a value is one of a ledger type (R407). -/
def Val.wf : Val → Bool
  | .num n => fits 64 n
  | .bytes b => fits 32 b.length

/-- Whether the fields of a request fit their bytes (R409). -/
def Req.wf (r : Req) : Bool :=
  fits 8 r.version && fits 16 r.session && fits 16 r.txn && fits 16 r.index && fits 8 r.sub && fits 8 r.flags &&
    fits 16 r.declared && fits 32 r.offset && fits 8 r.reserved

/-- Whether the fields of a wall commit message fit their bytes (R260). -/
def WallMsg.wf (m : WallMsg) : Bool :=
  fits 8 m.member && fits 8 m.code && fits 8 m.codePrefix && fits 32 m.ticket && fits 64 m.target && fits 8 m.slot &&
    fits 32 m.tag && fits 64 m.sealTime

/-- Whether a training ends at a rate code and a lane count that exist (R169). -/
def TrainEnd.wf : TrainEnd → Bool
  | .trained rate lanes => decide (rate < 4) && [1, 2, 4].contains lanes
  | .failed => true

/-- Whether a fabric request has an address and a class (R291, R294). -/
def FabReq.wf (r : FabReq) : Bool :=
  fits 40 r.address && decide (r.cls < 3) &&
    (if r.write then r.data.length == 64 * r.beats && r.enables.length == r.beats && r.enables.all (fits 64)
      else r.data.isEmpty && r.enables.isEmpty)

/-- Whether a command is well formed. -/
def Instr.wf : Instr → Bool
  | .roleSelectWrite ss v => fits 16 ss && fits 64 v
  | .registerWrite ss key v => fits 16 ss && fits 24 key && v.wf
  | .ledgerRead p r => p.wf && r.wf
  | .ledgerWriteFrame p r => p.wf && r.wf
  | .describe p r => p.wf && r.wf
  | .openSession p r => p.wf && r.wf
  | .respond p r => p.wf && r.wf
  | .closeSession p r => p.wf && r.wf
  | .keepAlive p r => p.wf && r.wf
  | .sessionIdleTimeout ss => fits 16 ss
  | .lockoutExpiry _ => true
  | .segmentHoldExpiry ss => fits 16 ss
  | .canFrameReceive _ _ payload => decide (1 ≤ payload.length) && decide (payload.length ≤ 64)
  | .canMessageTimeout _ _ => true
  | .canBusOff _ => true
  | .canBusOffRecovery _ => true
  | .udpLedgerDatagram address port _ => fits 32 address && fits 16 port
  | .arpRequest _ _ => true
  | .icmpEchoRequest _ _ _ => true
  | .doorbell _ request => decide (request.length ≤ 4096)
  | .mailboxFree _ => true
  | .pcieBarWrite _ _ data _ _ => decide (1 ≤ data.length)
  | .pcieBarRead _ _ len _ _ => decide (1 ≤ len)
  | .pciePerst _ => true
  | .saveConfiguration ss v _ => fits 16 ss && fits 64 v
  | .eraseSavedConfiguration ss v _ => fits 16 ss && fits 64 v
  | .nonVolatileWrite ss key v _ => fits 16 ss && fits 24 key && v.wf
  | .programIntegratorKey ss _ _ => fits 16 ss
  | .revokeIntegratorKey ss slot _ => fits 16 ss && fits 8 slot
  | .rightsPolicyWrite ss v _ => fits 16 ss && fits 64 v
  | .debugLockWrite ss v _ => fits 16 ss && fits 64 v
  | .minSecurityVersionWrite ss v _ => fits 16 ss && fits 64 v
  | .revokeImageKey ss slot _ => fits 16 ss && fits 8 slot
  | .roleLockWrite ss v _ => fits 16 ss && fits 64 v
  | .wallAliasWrite ss v _ => fits 16 ss && fits 64 v
  | .memberNumberWrite ss v => fits 16 ss && fits 64 v
  | .hostAcquire ss slot => fits 16 ss && fits 8 slot
  | .hostPublish ss v => fits 16 ss && fits 64 v
  | .hostContentCheckDone _ _ => true
  | .hostRelease ss ingot => fits 16 ss && fits 16 ingot
  | .readerRetire _ _ => true
  | .outputFrameStart _ => true
  | .holdLimitReached _ => true
  | .sealPoint _ => true
  | .startOfBlanking _ => true
  | .lineMatch _ => true
  | .frameDone _ => true
  | .eventLatchClear ss v => fits 16 ss && fits 64 v
  | .layerUnderrun _ _ _ _ => true
  | .engineFailure _ _ _ => true
  | .engineSubstitutionArm _ => true
  | .hotPlugAssert _ _ sinkLink _ => [1, 2, 4].contains sinkLink.lanes
  | .hotPlugLoss _ _ => true
  | .irqHpd _ _ => true
  | .dpTrainingDone _ result => result.wf
  | .dsiInitDone _ _ => true
  | .tearingEffect _ => true
  | .tableLoad ss _ => fits 16 ss
  | .writebackRegionStart _ => true
  | .writebackRegionEnd _ => true
  | .place ss v => fits 16 ss && fits 64 v
  | .dryRun ss => fits 16 ss
  | .placementDone _ => true
  | .emptySlot ss v => fits 16 ss && fits 64 v
  | .automaticReplanStart => true
  | .automaticReplanDone _ => true
  | .commit ss v => fits 16 ss && fits 64 v
  | .commitAccept => true
  | .commitLockIn ticket => fits 32 ticket
  | .cancel ss ticket => fits 16 ss && fits 32 ticket
  | .discardShadow ss v => fits 16 ss && fits 64 v
  | .prepare _ m => m.wf
  | .ready _ m => m.wf
  | .refuse _ m => m.wf
  | .decisionDeadline ticket => fits 32 ticket
  | .go _ m => m.wf
  | .abort _ m => m.wf
  | .applied _ m => m.wf
  | .appliedReportTimeout ticket => fits 32 ticket
  | .wallPresence _ wallAlias member role pairState serial => fits 32 wallAlias && fits 8 member && fits 8 role && fits 8 pairState && fits 64 serial
  | .presenceSend => true
  | .memberPresenceTimeout _ => true
  | .joinListenEnd => true
  | .frameStartPacket _ _ => true
  | .longPacket _ _ _ payload _ _ => fits 16 payload.length
  | .frameEndPacket _ _ => true
  | .lineGapTimeout _ => true
  | .signalAbsentTimeout _ => true
  | .portFaultSecond _ _ => true
  | .pipelineBind => true
  | .pipelineFrameDone _ _ => true
  | .aeStep _ => true
  | .awbStep _ => true
  | .exposureTransferDone _ _ _ => true
  | .controlBusTimeout _ => true
  | .hostTransfer ss _ => fits 16 ss
  | .hostTransferStart _ => true
  | .hostTransferDone _ _ _ => true
  | .hostTransferTimeout _ => true
  | .temperLoad ss _ => fits 16 ss
  | .sensorProfileWrite ss _ => fits 16 ss
  | .blockLock _ => true
  | .blockLockLoss _ => true
  | .detectTimeout _ => true
  | .backOffExpiry _ => true
  | .capabilityBlock _ _ => true
  | .exchangeTimeout _ => true
  | .trainBlock _ _ _ _ => true
  | .trainTimeout _ => true
  | .verifyEnd _ _ => true
  | .stepBlock _ _ => true
  | .rateSwitchDone _ => true
  | .runEntryBlock _ _ => true
  | .runEntryDone _ => true
  | .loopbackBlock _ _ => true
  | .anchorIntervalSend _ _ => true
  | .anchorReceived _ _ _ fill _ => decide (fill ≤ 128)
  | .anchorMissed _ => true
  | .elasticBufferFault _ => true
  | .bankedIdleTimeout _ => true
  | .bankedExit _ => true
  | .retrain ss v => fits 16 ss && fits 64 v
  | .errorInjection _ => true
  | .videoHeaderCell _ _ => true
  | .videoDataCell _ _ => true
  | .videoTrailerCell _ _ => true
  | .inboundFrameTimeout _ => true
  | .nullCell _ _ => true
  | .witnessCell _ _ => true
  | .witnessEchoTimeout _ seq => fits 32 seq
  | .forwardFrameStart _ => true
  | .messageCell _ _ => true
  | .creditCell _ _ => true
  | .creditSend _ => true
  | .retransmitTimeout _ => true
  | .syncCell _ _ => true
  | .delayRequestCell _ _ => true
  | .delayResponseCell _ _ => true
  | .syncSend _ => true
  | .delayExchangeTimeout _ => true
  | .rateWrite ss v => fits 16 ss && fits 64 v
  | .offsetWrite ss v => fits 16 ss && fits 64 v
  | .stepWrite ss v => fits 16 ss && fits 64 v
  | .eraSweepDone => true
  | .hostTimeState ss v => fits 16 ss && fits 64 v
  | .timeSourceWrite ss v => fits 16 ss && fits 64 v
  | .servoSample _ => true
  | .holdoverExpiry => true
  | .announceTimeout => true
  | .syncTimeout => true
  | .hostStateTimeout => true
  | .ptpSync _ head _ seq _ origin rx _ => fits 8 head.domain && fits 16 seq && fits 64 origin && fits 64 rx
  | .ptpFollowUp _ head _ seq origin _ => fits 8 head.domain && fits 16 seq && fits 64 origin
  | .ptpAnnounce _ head _ _ priority1 priority2 cls accuracy variance steps => fits 8 head.domain && fits 8 priority1 && fits 8 priority2 && fits 8 cls && fits 8 accuracy && fits 16 variance && fits 16 steps
  | .ptpDelayReq _ head _ seq rx => fits 8 head.domain && fits 16 seq && fits 64 rx
  | .ptpDelayResp _ head _ _ seq rx _ => fits 8 head.domain && fits 16 seq && fits 64 rx
  | .ptpPdelayReq _ head _ seq rx => fits 8 head.domain && fits 16 seq && fits 64 rx
  | .ptpPdelayResp _ head _ seq _ rx => fits 8 head.domain && fits 16 seq && fits 64 rx
  | .ptpMasterSyncSend => true
  | .ptpMasterAnnounceSend => true
  | .ethernetFrameForward _ _ _ _ rx _ _ => fits 64 rx
  | .timeDomainWake _ => true
  | .fabricRequest _ r => r.wf
  | .fabricGrant _ => true
  | .fabricCompletion _ _ _ _ => true
  | .classBRefusal _ _ _ _ => true
  | .classCTimeout _ _ _ => true
  | .lockedSequence _ _ accesses => decide (1 ≤ accesses)
  | .clearOutcomes ss v => fits 16 ss && fits 64 v
  | .readUncorrectable _ address syndrome => fits 40 address && fits 16 syndrome
  | .refreshDue _ => true
  | .refreshCatchUp _ => true
  | .temperatureRead _ _ => true
  | .tracking _ _ _ => true
  | .scrubRead _ _ corrected uncorrectable syndrome => fits 16 syndrome && !(corrected && uncorrectable)
  | .selfRefreshEntry _ => true
  | .selfRefreshExit _ _ => true
  | .dramTrainingDone _ _ => true
  | .evacuate ss v => fits 16 ss && fits 64 v
  | .evacuationComplete _ => true
  | .retrainChannel ss v => fits 16 ss && fits 64 v
  | .retireChannel ss v => fits 16 ss && fits 64 v
  | .recoveryActionStart => true
  | .testEngine ss v => fits 16 ss && fits 64 v
  | .engineTestDone _ => true
  | .switchBackEngine ss v => fits 16 ss && fits 64 v
  | .switchBackLane ss v => fits 16 ss && fits 64 v
  | .pairDecide => true
  | .pairActRise => true
  | .heartbeatSend _ => true
  | .heartbeatPulse _ => true
  | .heartbeatLoss => true
  | .bellowsSectionData frame => decide (frame.length ≤ 1044)
  | .bellowsHeaderCommit frame => decide (frame.length ≤ 1044)
  | .bellowsTime frame => decide (frame.length ≤ 1044)
  | .bellowsYield frame => decide (frame.length ≤ 1044)
  | .pushTimer => true
  | .takeoverReady _ => true
  | .takeoverHoldLimit => true
  | .resyncDone => true
  | .handOver ss v => fits 16 ss && fits 64 v
  | .measurementGate raw => decide (raw.length = 64)
  | .saveBaselines ss v => fits 16 ss && fits 64 v
  | .autoBaselineSave => true
  | .baselineSaveDone _ => true
  | .keyRecordsRead p r => p.wf && r.wf
  | .start ss v => fits 16 ss && fits 64 v
  | .startFresh ss v => fits 16 ss && fits 64 v
  | .suspend ss v => fits 16 ss && fits 64 v
  | .abortScan ss v => fits 16 ss && fits 64 v
  | .scanBurstDone _ _ => true
  | .domainPowerGood _ => true
  | .domainPowerTimeout _ _ => true
  | .powerGoodLoss _ => true
  | .domainHoldExpiry _ => true
  | .domainPowerDownDone _ => true
  | .forceOn ss v => fits 16 ss && fits 64 v
  | .crystalStable => true
  | .crystalTimeout => true
  | .refclkLoss => true
  | .refclkReturn => true
  | .powerOnReset => true
  | .sysRstN _ => true
  | .deviceReset ss v => fits 16 ss && fits 64 v
  | .bootImageLoaded slotA slotB => decide (slotA.length ≤ 4194560) && decide (slotB.length ≤ 4194560)
  | .imageChunk ss _ => fits 16 ss
  | .verifySlot ss v => fits 16 ss && fits 64 v
  | .verifyDone => true
  | .activate ss v => fits 16 ss && fits 64 v
  | .firmwareMainLoop _ => true
  | .firmwareStartTimeout => true
  | .confirm ss v => fits 16 ss && fits 64 v
  | .trialTimeout => true
  | .thermTrip => true
  | .thermTripRelease => true
  | .partnerHeartbeatAbsent => true
  | .clockLockLoss _ => true
  | .testPatternCheckerLock _ errorBits comparedBits => decide (errorBits ≤ comparedBits)
  | .functionLevelReset => true
  | .pcieLinkChange _ _ => true
  | .ethernetLinkChange _ _ => true
  | .managementControllerStop => true
  | .hearthWatchdogExpiry => true

/-- A well-formed command. -/
abbrev Instr.WF (i : Instr) : Prop := i.wf = true

end Sys2Proof
end

