-- ==== Sys2Proof/Safety.lean ====
section
/-! DEFINITION. What claims are stated in: how fuses may change, when a ledger write passes its checks, and the states that
no step leaves. -/

namespace Sys2Proof.Machine

set_option Elab.async false

/-! ### Ledger requests (R420) -/

/-- Whether a session's write of an entry passes every check of R420 before the owning chapter's. -/
def State.mayWrite (s : State) (ss key : Nat) (v : Val) : Bool :=
  match entryAt key, s.session? ss with
  | some e, some x => s.serves key && !x.pending && ((s.touch x).checkWrite x key e v).isNone
  | _, _ => false

/-- The number of the part that a session's selectors name for an entry; 0 where no such session is open. -/
def State.partOf (s : State) (ss key : Nat) : Nat :=
  match s.session? ss with
  | some x => x.inst key
  | none => 0

/-- The state once a session's request has arrived (R417). -/
def State.touched (s : State) (ss : Nat) : State :=
  match s.session? ss with
  | some x => s.touch x
  | none => s

/-- Whether an entry has no operation of its own: a write of it does what its access kind says (R97, R408). -/
def plainEntry (key : Nat) : Bool := (ledgerOpA key).isNone && (ledgerOpB key).isNone && !inStore key

/-! ### Runs -/

/-- The outcome of commands run one after another, up to the first that gives no next state. -/
def execAll : List Instr → State → Out
  | [], s => .next s
  | c :: cs, s =>
    match exec c s with
    | .next t => execAll cs t
    | .fault r => .fault r
    | .refused r => .refused r

/-! ### What lasts (R6, R7) -/

/-- What no datapath command touches: the fuses, both copies of the non-volatile store and the levels of the pins. -/
def State.still (s : State) : Fuses × NvCopy × NvCopy × Pins := (s.fuses, s.nvA, s.nvB, s.pins)

/-- What memory holds: the DRAM channels and Crucible. -/
def State.cells (s : State) : List Host.Cell := s.dram.mem

/-! ### The ledger -/

/-- No register changes but the named copies. -/
def State.regsBut (s t : State) (copies : List Nat) : Prop :=
  ∀ k, k ∉ copies → Tbl.find t.regs k = Tbl.find s.regs k

/-- No byte value changes but the named copies. -/
def State.blobsBut (s t : State) (copies : List Nat) : Prop :=
  ∀ k, k ∉ copies → Tbl.find t.blobs k = Tbl.find s.blobs k

/-- In the ledger file no register but the named copies changes, and no byte value and no shadow value. -/
def State.ledgerBut (s t : State) (copies : List Nat) : Prop :=
  s.regsBut t copies ∧ t.blobs = s.blobs ∧ t.shadow = s.shadow

/-- No register changes but those of the named entries. -/
def State.entriesBut (s t : State) (entries : List Nat) : Prop :=
  ∀ k, k / 65536 ∉ entries → Tbl.find t.regs k = Tbl.find s.regs k

/-- No register changes but those of the named groups of entries. -/
def State.groupsBut (s t : State) (groups : List Nat) : Prop :=
  ∀ k, k / 2 ^ 24 ∉ groups → Tbl.find t.regs k = Tbl.find s.regs k

/-! ### The event log (R437-R439) -/

/-- The newest record of the log is of an event, with a code, unless the log writer's queue is full, so that it may have been
dropped, or the Fabric domain, which holds the log, is not on (R439, R437). -/
def State.newest (s : State) (event : Nat) (code : Option Code) : Prop :=
  logQueue ≤ s.logWaiting ∨ s.reg 0x6400_02 3 ≠ 2 ∨ ∃ r, s.log.recs.head? = some r ∧ r.event = event ∧ r.code = code

/-- The log holds a record of an event, with a code, unless the log writer's queue is full, so that it may have been dropped, or
the Fabric domain, which holds the log, is not on (R439, R437). -/
def State.logged (s : State) (event : Nat) (code : Option Code) : Prop :=
  logQueue ≤ s.logWaiting ∨ s.reg 0x6400_02 3 ≠ 2 ∨ ∃ r ∈ s.log.recs, r.event = event ∧ r.code = code

/-- Nothing is sent but, at most, vector 0 for the log (R441). -/
def State.sendsLog (s t : State) : Prop := t.sent = s.sent ∨ t.sent = .msix 0 :: s.sent

/-- No limit record holds an event back. -/
def State.unlimited (s : State) (event : Nat) : Prop := ∀ l ∈ s.log.limits, l.event ≠ event

/-! ### Lanes (R216) -/

/-- The control blocks that a lane has sent, latest first. -/
def State.blocksOf (s : State) (l : Nat) : List Nat :=
  s.sent.filterMap fun x => match x with | .block k w _ => if k = l then some w else none | _ => none

/-! ### The fabric (R45, R313) -/

/-- The granted request of a port whose bytes an address lies in. -/
def State.readingAt (s : State) (port address : Nat) : Option FabItem :=
  s.fabric.queue.find? fun x =>
    x.port == port && x.granted.isSome && x.req.address ≤ address && address < x.req.address + 64 * x.req.beats

/-- A port's outcome record shows a refusal: its registers are these, and nothing else of the ledger file changes (R299-R303). -/
def State.refusedAt (s t : State) (port address cls : Nat) (code : Code) : Prop :=
  t.reg 0x5020_04 port = satAdd (entryBits 0x5020_04) (s.reg 0x5020_04 port) 1 ∧ t.blob 0x5020_07 port = code.text ∧
  t.reg 0x5020_08 port = address % 2 ^ 40 ∧ t.reg 0x5020_09 port = cls + 1 ∧
  s.regsBut t [regKey 0x5020_04 port, regKey 0x5020_08 port, regKey 0x5020_09 port] ∧ s.blobsBut t [regKey 0x5020_07 port] ∧
  t.shadow = s.shadow

/-! ### Swage cells (R245, R256) -/

/-- A cell of a type arrives whole on a port in service. -/
def State.cellArrives (s : State) (p : Nat) (cell : Bytes) (type : Nat) : Prop :=
  s.portInService p = true ∧ cell.length = 256 ∧ crcTailOk cell = true ∧ cellReserved cell = false ∧ cellType cell = type

/-- The cells that wait for a slot of a port, in the order in which they leave (R244). -/
def State.queued (s : State) (p : Nat) : List Bytes := (s.port p).outbox.map (·.cell)

/-- The output and the frame, sent in the last 4 frame periods, that a witness cell answers (R256). -/
def State.awaited (s : State) (p : Nat) (cell : Bytes) : Option (Nat × SentFrame) :=
  (List.range 32).findSome? fun o =>
    if s.flag 0x3400_02 o && s.reg 0x3400_03 o = 1 && s.reg 0x3400_04 o = p && s.reg 0x3400_05 o = cellA cell then
      (((s.output o).sent.filter fun f => (s.output o).nextOf ≤ f.ofNum + 5).find? fun f =>
        streamSeq f.ofNum == cellB cell).map fun f => (o, f)
    else none

/-! ### Freshness (R41, R42, R49) -/

/-- Every decided view group that is live was decided on a frame whose age is within the group's budget. -/
def State.groupsFresh (s : State) : Prop :=
  ∀ p ∈ s.groups, p.2.shown = .live → p.2.decided ≠ none → ∃ a, p.2.age = some a ∧ a ≤ p.2.budget

/-! ### Time (R55, R271, R277) -/

/-- What a step of wall time leaves: the offset moved by it, its size and its count; above 1 ms the next era, whose sweep
starts, and its step (R55, R271). -/
def State.steppedTo (s t : State) (size : Int) : Prop :=
  t.reg 0x4800_03 0 = ofSigned 64 (s.offset + size) ∧ t.reg 0x4800_08 0 = ofSigned 64 size ∧
  t.reg 0x4800_09 0 = satAdd (entryBits 0x4800_09) (s.reg 0x4800_09) 1 ∧
  (size.natAbs ≤ 1000000 → t.reg 0x4800_07 0 = s.reg 0x4800_07 ∧ t.reg 0x4800_0C 0 = s.reg 0x4800_0C ∧
    t.time.sweeps = s.time.sweeps) ∧
  (1000000 < size.natAbs → t.reg 0x4800_07 0 = (s.reg 0x4800_07 + 1) % 16 ∧ t.reg 0x4800_0C 0 = ofSigned 64 size ∧
    t.time.sweeps = s.time.sweeps ++ [(s.reg 0x4800_07 + 1) % 16])

/-- PTP runs on a port, and a message's head is one that the device supports (R277). -/
def State.ptpOn (s : State) (port : Nat) (head : PtpHead) : Prop :=
  bitAt (s.reg 0x4810_01) port = true ∧ s.reg 0x6820_03 port ≠ 0 ∧ head.formed = true ∧ head.domain = s.reg 0x4810_02 ∧
  head.transport = s.reg 0x4810_04

/-- The entries that a change of the time state may write: state, rate and offset, and the first lock's readiness. -/
def timeStateEntries : List Nat := [0x4800_06, 0x4800_02, 0x4800_03, 0x1010_01, 0x1010_04]

/-- The entries that a step of wall time may write. -/
def timeStepEntries : List Nat := [0x4800_03, 0x4800_07, 0x4800_08, 0x4800_09, 0x4800_0C]

/-! ### The Bellows channel (R346) -/

/-- A frame of a type arrives whole at a device that listens (R346). -/
def State.bellowsArrives (s : State) (frame : Bytes) (type : Nat) : Prop :=
  s.listens = true ∧ field frame 0 2 = 0xB7E1 ∧ field frame 12 2 ≤ 1024 ∧ frame.length = 20 + field frame 12 2 ∧
  field frame (16 + field frame 12 2) 4 = crc32c (slice frame 2 (14 + field frame 12 2)) ∧ field frame 2 1 = type

/-! ### Reset and boot (R393-R397) -/

/-- What the Retention domain keeps of the key scanner in registers: the key states (R373, R395). -/
def State.keyStates (s : State) : Tbl Nat := s.regs.filter fun p => [0x5C08_03, 0x5C10_0C, 0x5C10_0E].contains (p.1 / 65536)

/-- A device reset with a cause: what lasts is kept and the rest is as after reset (R393, R395, R404, R450). Where Retention kept its
power, so are its Ember store, its key states and its hand-off area; where it lost it, a write of the non-volatile store that was in
progress has left the copy in force (R425). -/
def State.wasReset (s t : State) (cause : Nat) (retained : Bool) : Prop :=
  t.reg 0x1010_07 0 = cause ∧ t.fuses = s.fuses ∧ t.nv = s.nv ∧ (retained = true ∨ s.keys.saving = none → t.nvA = s.nvA ∧ t.nvB = s.nvB) ∧
  t.pins = { s.pins with pairActO := false } ∧ t.power.flash = s.power.flash ∧ t.power.bootFrom = s.previousSlot ∧
  t.power.held = !s.power.refclk ∧ t.pending = s.pending ∧
  State.reset.entriesBut t [0x1010_07, 0x5800_08, 0x5C08_03, 0x5C10_0C, 0x5C10_0E, 0x6400_02, 0x6400_05, 0x6400_09] ∧
  (retained = true → t.keys = { key := s.keys.key, dry := s.keys.dry } ∧ t.reg 0x5800_08 = s.reg 0x5800_08 ∧
    t.pair.secA = s.pair.secA ∧ t.pair.secB = s.pair.secB ∧ t.pair.header = s.pair.header ∧ t.pair.training = s.pair.training ∧
    t.pair.parking = s.pair.parking ∧ t.power.handOff = s.power.handOff.map fun h => { h with ended := true }) ∧
  (retained = true → s.regs.Pairwise (fun a b => a.1 < b.1) → t.keyStates = s.keyStates) ∧
  (retained = false → t.keyStates = [] ∧ t.keys = {} ∧ t.pair = {} ∧ t.power.handOff = none ∧ t.reg 0x5800_08 = 0) ∧
  t.blobs = State.reset.blobs ∧ t.shadow = State.reset.shadow ∧
  t.acc = State.reset.acc ∧ t.log = State.reset.log ∧ t.ingots = [] ∧ t.outputs = [] ∧ t.groups = [] ∧ t.plan = none ∧
  t.cells = State.reset.cells ∧ t.power.mgmt = false ∧ t.power.booted = false

/-- The boot ROM starts a slot if it is valid, else the other with PW-0x04; with neither valid the device is in recovery
(R4, R397, R404). -/
def State.bootsFrom (s t : State) (want : Nat) : Prop :=
  if s.slotValid (s.slotBytes want) = true then t.slotInForce = want ∧ t.acc.recovery = s.acc.recovery
  else if s.slotValid (s.slotBytes (1 - want)) = true then
    t.slotInForce = 1 - want ∧ t.acc.recovery = s.acc.recovery ∧ t.newest 0x104 (some (pw 0x04))
  else
    t.slotInForce = s.slotInForce ∧ t.acc.recovery = true ∧ t.power.mgmt = true ∧ t.swapNow = none ∧
    t.newest 0x104 (some (pw 0x05))

/-- One of the two firmware slots, the asked one or the other, is valid. -/
def State.startable (s : State) (want : Nat) : Prop :=
  s.slotValid (s.slotBytes want) = true ∨ s.slotValid (s.slotBytes (1 - want)) = true

/-! ### Bounds (R100, R313, R374, R417, R437) -/

/-- The block's lists are within the lengths that the rules give them. -/
def State.bounded (s : State) : Prop :=
  s.log.recs.length ≤ 4096 ∧ s.acc.sessions.length ≤ 16 ∧ s.dram.errors.length ≤ 16 ∧ s.commits.tickets.length ≤ 64 ∧
  s.keys.queue.length ≤ 64

/-! ### Fuses (R421) -/

/-- One fuse content follows another: fuses are blown, never unblown (R421-R424, R427, R428). -/
structure Fuses.Extends (f g : Fuses) : Prop where
  debugLock : f.debugLock = true → g.debugLock = true
  policy : ∀ b, b < 8 → bitAt f.policy b = true → bitAt g.policy b = true
  minSecurity : f.minSecurity ≤ g.minSecurity
  imageKeys : ∀ k, k ∈ f.imageKeyRevoked → k ∈ g.imageKeyRevoked
  integratorKeys : f.integratorKeys <+: g.integratorKeys
  revoked : ∀ k, k ∈ f.integratorRevoked → k ∈ g.integratorRevoked
  roleLocks : f.roleLocks <+: g.roleLocks
  aliases : f.aliases <+: g.aliases
  tally : f.tally <+: g.tally

end Sys2Proof.Machine
end

