-- ==== Sys2Proof/Certificates/Slice0/Obligations.lean ====
section
/-! DEFINITION. The statements about the block: what each command does where it has its effect, what it leaves alone, and what
every step keeps. -/

open Sys2Proof Sys2Proof.Machine

/-- The block takes the command at the front of its queue and runs it with the queue's rest. -/
def Obligations.StepRunsFrontCommand : Prop :=
  ∀ (c : Instr) (rest : List Instr) (s : State),
    step { s with pending := c :: rest } = exec c { s with pending := rest }

/-- R97, R98, R408, R409: a session's write of an entry with no operation of its own goes to the session's own copy, to the shared
shadow, or to the active value, by the entry's kind, and is answered without a code; memory, fuses and log stay. It says that these
complete: registerWrite. -/
def Obligations.PlainWriteTakesItsKind : Prop :=
  ∀ (s : State) (ss key : Nat) (v : Val) (e : Entry),
    s.managed = true → s.mayWrite ss key v = true → plainEntry key = true → entryAt key = some e →
    ∃ t, exec (.registerWrite ss key v) s = .next t ∧
      (e.perSession = true → t.fld ss key = v.n ∧ t.regs = s.regs ∧ t.blobs = s.blobs ∧ t.shadow = s.shadow) ∧
      (e.perSession = false → e.acc = .rws →
        t.shadowVal key (s.partOf ss key) = v ∧ t.regs = s.regs ∧ t.blobs = s.blobs ∧
        ∀ k, k ≠ regKey key (s.partOf ss key) → Tbl.find t.shadow k = Tbl.find s.shadow k) ∧
      (e.perSession = false → e.acc ≠ .rws →
        t.active key (s.partOf ss key) = v ∧ t.shadow = s.shadow ∧
        ∀ k, k ≠ regKey key (s.partOf ss key) → Tbl.find t.regs k = Tbl.find s.regs k ∧ Tbl.find t.blobs k = Tbl.find s.blobs k) ∧
      t.sent = .reply ss {} :: s.sent ∧ t.log = s.log ∧ t.fuses = s.fuses ∧
      ∀ a, Memory.read t.dram.mem a = Memory.read s.dram.mem a

/-- R7, R425, R426: a write of an entry of the non-volatile store that is durable, its retry with it, goes to the copy not in force,
which then is the one in force; an entry read at reset keeps its active value, another takes it; a start-up configuration is saved
and erased. A write that fails is refused with LG-0x0F, one that a loss of power cuts leaves the previous copy in force, and one
that comes while the store is being written waits. It says that these complete: roleSelectWrite, saveConfiguration,
eraseSavedConfiguration, nonVolatileWrite. -/
def Obligations.StoredValuesAreDurable : Prop :=
  (∀ (s : State) (ss v : Nat), s.managed = true → s.keys.saving = none → s.mayWrite ss 0x1000_04 (.num v) = true →
    ∃ t, exec (.roleSelectWrite ss v) s = .next t ∧
      Tbl.find t.nv.regs (regKey 0x1000_04 0) = some v ∧ t.nv.generation = s.nv.generation + 1 ∧
      t.reg 0x1000_05 = s.reg 0x1000_05 ∧ s.ledgerBut t [regKey 0x6800_08 0] ∧
      t.sent = .reply ss {} :: s.sent ∧ t.log = s.log ∧ t.dram = s.dram ∧ t.fuses = s.fuses) ∧
  (∀ (s : State) (ss v : Nat) (e : StoreEnd), s.managed = true → s.keys.saving = none →
    s.mayWrite ss 0x6800_06 (.num v) = true → (e = .done ∨ e = .retried) →
    ∃ t, exec (.saveConfiguration ss v e) s = .next t ∧
      t.nv.saved = some (s.regs.filter (fun p => savedKey p.1), s.blobs.filter (fun p => savedKey p.1)) ∧
      t.nv.generation = s.nv.generation + 1 ∧ t.reg 0x6800_08 0 = 1 ∧ s.ledgerBut t [regKey 0x6800_08 0] ∧
      t.sent = .reply ss {} :: s.sent ∧ t.log = s.log ∧ t.dram = s.dram ∧ t.fuses = s.fuses) ∧
  (∀ (s : State) (ss v : Nat) (e : StoreEnd), s.managed = true → s.keys.saving = none →
    s.mayWrite ss 0x6800_07 (.num v) = true → (e = .done ∨ e = .retried) →
    ∃ t, exec (.eraseSavedConfiguration ss v e) s = .next t ∧
      t.nv.saved = none ∧ t.nv.generation = s.nv.generation + 1 ∧ t.reg 0x6800_08 0 = 0 ∧
      s.ledgerBut t [regKey 0x6800_08 0] ∧ t.sent = .reply ss {} :: s.sent ∧ t.log = s.log ∧ t.dram = s.dram ∧
      t.fuses = s.fuses) ∧
  (∀ (s : State) (ss key n : Nat) (e : StoreEnd), s.managed = true → s.keys.saving = none →
    s.mayWrite ss key (.num n) = true → inStore key = true → (e = .done ∨ e = .retried) →
    ∃ t, exec (.nonVolatileWrite ss key (.num n) e) s = .next t ∧
      Tbl.find t.nv.regs (regKey key (s.partOf ss key)) = some n ∧ t.nv.generation = s.nv.generation + 1 ∧
      (atReset key = false → t.reg key (s.partOf ss key) = n) ∧
      (atReset key = true → s.partOf ss key < 65536 → t.reg key (s.partOf ss key) = s.reg key (s.partOf ss key)) ∧
      s.ledgerBut t [regKey 0x6800_08 0, regKey key (s.partOf ss key)] ∧ t.sent = .reply ss {} :: s.sent ∧ t.log = s.log ∧
      t.dram = s.dram ∧ t.fuses = s.fuses) ∧
  (∀ (s : State) (ss key : Nat) (b : Bytes) (e : StoreEnd), s.managed = true → s.keys.saving = none →
    s.mayWrite ss key (.bytes b) = true → inStore key = true → (e = .done ∨ e = .retried) →
    ∃ t, exec (.nonVolatileWrite ss key (.bytes b) e) s = .next t ∧
      Tbl.find t.nv.blobs (regKey key (s.partOf ss key)) = some b ∧ t.nv.generation = s.nv.generation + 1 ∧
      (atReset key = false → t.blob key (s.partOf ss key) = b) ∧ (atReset key = true → t.blobs = s.blobs) ∧
      s.regsBut t [regKey 0x6800_08 0] ∧ s.blobsBut t [regKey key (s.partOf ss key)] ∧ t.shadow = s.shadow ∧
      t.sent = .reply ss {} :: s.sent ∧ t.log = s.log ∧ t.dram = s.dram ∧ t.fuses = s.fuses) ∧
  (∀ (s : State) (ss key : Nat) (v : Val), s.managed = true → s.keys.saving = none → s.mayWrite ss key v = true →
    inStore key = true →
    ∃ t, exec (.nonVolatileWrite ss key v .failed) s = .next t ∧
      t.nv = s.nv ∧ t.sent.head? = some (.reply ss { code := some (lg 0x0F) }) ∧
      t.newest 0x113 (some (lg 0x0F)) ∧ t.reg 0x6800_08 = 3 ∧
      s.ledgerBut t [regKey 0x6800_08 0] ∧
      t.dram = s.dram ∧ t.fuses = s.fuses) ∧
  (∀ (s : State) (ss key : Nat) (v : Val), s.managed = true → s.keys.saving = none → s.mayWrite ss key v = true →
    inStore key = true →
    ∃ t, exec (.nonVolatileWrite ss key v .powerLost) s = .next t ∧
      t.nv = s.nv ∧ t.reg 0x1010_07 = 1 ∧ t.sent = s.sent ∧ t.fuses = s.fuses ∧ t.power.mgmt = false) ∧
  (∀ (s : State) (ss key : Nat) (v : Val) (e : StoreEnd) (bs : Tbl Nat), s.managed = true → s.keys.saving = some bs →
    writesStore key = true →
    exec (.nonVolatileWrite ss key v e) s =
      .next { s with acc := { s.acc with heldWrites := s.acc.heldWrites ++ [.row ss key v e] } }) ∧
  (∀ (s : State) (ss v : Nat) (e : StoreEnd) (bs : Tbl Nat), s.managed = true → s.keys.saving = some bs →
    exec (.roleSelectWrite ss v) s =
        .next { s with acc := { s.acc with heldWrites := s.acc.heldWrites ++ [.row ss 0x1000_04 (.num v) .done] } } ∧
      exec (.saveConfiguration ss v e) s =
        .next { s with acc := { s.acc with heldWrites := s.acc.heldWrites ++ [.row ss 0x6800_06 (.num v) e] } } ∧
      exec (.eraseSavedConfiguration ss v e) s =
        .next { s with acc := { s.acc with heldWrites := s.acc.heldWrites ++ [.row ss 0x6800_07 (.num v) e] } })

/-- R421-R424, R427, R428: a fuse write that may be made and verifies programs its fuses; each limited change adds one tally row,
which a loss of power between the two leaves to the next boot; a fuse write that does not verify is refused and changes nothing. It
says that these complete: programIntegratorKey, revokeIntegratorKey, rightsPolicyWrite, debugLockWrite, minSecurityVersionWrite,
revokeImageKey, roleLockWrite, wallAliasWrite. -/
def Obligations.VerifiedFuseWriteProgramsFuses : Prop :=
  (∀ (s : State) (ss : Nat) (k : Bytes), s.managed = true → s.mayWrite ss 0x6808_0A (.bytes k) = true →
    s.fuses.integratorKeys.length < 4 →
    ∃ t, exec (.programIntegratorKey ss k true) s = .next t ∧
      t.fuses = { s.fuses with integratorKeys := s.fuses.integratorKeys ++ [k] } ∧ t.sent = .reply ss {} :: s.sent ∧ t.regs = s.regs ∧
      t.blobs = s.blobs ∧ t.shadow = s.shadow ∧ t.nvA = s.nvA ∧ t.nvB = s.nvB ∧ t.dram = s.dram) ∧
  (∀ (s : State) (ss n m : Nat), s.managed = true → s.mayWrite ss 0x6808_0C (.num n) = true →
    m < s.fuses.integratorKeys.length → m ≠ n → s.fuses.integratorRevoked.contains m = false →
    ∃ t, exec (.revokeIntegratorKey ss n true) s = .next t ∧ t.fuses.integratorRevoked.contains n = true ∧
      t.fuses.integratorKeys = s.fuses.integratorKeys ∧
      (s.fuses.integratorRevoked.contains n = false → ∀ x ∈ t.acc.sessions, x.keySlot ≠ some n) ∧ t.regs = s.regs ∧
      t.blobs = s.blobs ∧ t.shadow = s.shadow ∧ t.nvA = s.nvA ∧ t.nvB = s.nvB ∧ t.dram = s.dram) ∧
  (∀ (s : State) (ss v : Nat), s.managed = true → s.mayWrite ss 0x6808_02 (.num v) = true →
    (∀ b, b < 8 → bitAt s.fuses.policy b = true → bitAt v b = true) →
    ∃ t, exec (.rightsPolicyWrite ss v .verified) s = .next t ∧ t.fuses.policy = v ∧
      t.fuses.tally.length = s.fuses.tally.length + (if v = s.fuses.policy then 0 else 1) ∧
      t.fuses.debugLock = s.fuses.debugLock ∧ t.fuses.roleLocks = s.fuses.roleLocks ∧ t.regs = s.regs ∧
      t.blobs = s.blobs ∧ t.shadow = s.shadow ∧ t.nvA = s.nvA ∧ t.nvB = s.nvB ∧ t.dram = s.dram) ∧
  (∀ (s : State) (ss v : Nat), s.managed = true → s.mayWrite ss 0x6808_01 (.num v) = true → v = 1 →
    ∃ t, exec (.debugLockWrite ss v .verified) s = .next t ∧ t.fuses.debugLock = true ∧
      t.fuses.tally.length = s.fuses.tally.length + (if s.fuses.debugLock then 0 else 1) ∧ t.fuses.policy = s.fuses.policy ∧
      t.regs = s.regs ∧ t.blobs = s.blobs ∧ t.shadow = s.shadow ∧ t.nvA = s.nvA ∧ t.nvB = s.nvB ∧ t.dram = s.dram) ∧
  (∀ (s : State) (ss v : Nat), s.managed = true → s.mayWrite ss 0x6808_04 (.num v) = true →
    s.fuses.minSecurity ≤ v → v ≤ s.securityInForce →
    ∃ t, exec (.minSecurityVersionWrite ss v true) s = .next t ∧ t.fuses = { s.fuses with minSecurity := v } ∧
      t.sent = .reply ss {} :: s.sent ∧ t.regs = s.regs ∧
      t.blobs = s.blobs ∧ t.shadow = s.shadow ∧ t.nvA = s.nvA ∧ t.nvB = s.nvB ∧ t.dram = s.dram) ∧
  (∀ (s : State) (ss n : Nat), s.managed = true → s.mayWrite ss 0x6808_08 (.num n) = true →
    slotField (s.slotBytes s.slotInForce) 6 1 ≠ n →
    ∃ t, exec (.revokeImageKey ss n true) s = .next t ∧ t.fuses.imageKeyRevoked.contains n = true ∧
      t.sent = .reply ss {} :: s.sent ∧ t.regs = s.regs ∧
      t.blobs = s.blobs ∧ t.shadow = s.shadow ∧ t.nvA = s.nvA ∧ t.nvB = s.nvB ∧ t.dram = s.dram) ∧
  (∀ (s : State) (ss v : Nat), s.managed = true → s.mayWrite ss 0x6808_03 (.num v) = true → v ≠ s.fuses.roleLock →
    ∃ t, exec (.roleLockWrite ss v .verified) s = .next t ∧ t.fuses.roleLocks = s.fuses.roleLocks ++ [v] ∧ t.fuses.roleLock = v ∧
      t.fuses.tally.length = s.fuses.tally.length + 1 ∧ t.fuses.aliases = s.fuses.aliases ∧ t.regs = s.regs ∧
      t.blobs = s.blobs ∧ t.shadow = s.shadow ∧ t.nvA = s.nvA ∧ t.nvB = s.nvB ∧ t.dram = s.dram) ∧
  (∀ (s : State) (ss v : Nat), s.managed = true → s.mayWrite ss 0x2800_04 (.num v) = true → v ≠ s.fuses.wallAlias →
    ∃ t, exec (.wallAliasWrite ss v .verified) s = .next t ∧ t.fuses.aliases = s.fuses.aliases ++ [v] ∧ t.fuses.wallAlias = v ∧
      t.fuses.tally.length = s.fuses.tally.length + 1 ∧ t.fuses.roleLocks = s.fuses.roleLocks ∧
      t.blobs = s.blobs ∧ t.shadow = s.shadow ∧ t.nvA = s.nvA ∧ t.nvB = s.nvB ∧ t.dram = s.dram) ∧
  (∀ (s : State) (ss v : Nat), s.managed = true → s.mayWrite ss 0x6808_02 (.num v) = true → v ≠ s.fuses.policy →
    (∀ b, b < 8 → bitAt s.fuses.policy b = true → bitAt v b = true) →
    ∃ t, exec (.rightsPolicyWrite ss v .failed) s = .next t ∧ t.fuses = s.fuses ∧
      t.sent.head? = some (.reply ss { code := some (lg 0x0F) }) ∧ t.newest 0x113 (some (lg 0x0F)) ∧ t.regs = s.regs) ∧
  (∀ (s : State) (ss v : Nat), s.managed = true → s.mayWrite ss 0x6808_02 (.num v) = true → v ≠ s.fuses.policy →
    (∀ b, b < 8 → bitAt s.fuses.policy b = true → bitAt v b = true) →
    ∃ t r, exec (.rightsPolicyWrite ss v .powerLost) s = .next t ∧ t.fuses.policy = v ∧ t.fuses.tally = s.fuses.tally ∧ t.fuses.unrecorded = some r ∧
      r.index = 0x6808 ∧ r.sub = 2 ∧ r.old = s.fuses.policy ∧ r.new = v ∧ t.sent = s.sent ∧ t.reg 0x1010_07 = 1) ∧
  (∀ (s : State) (ss v : Nat), s.managed = true → s.mayWrite ss 0x6808_01 (.num v) = true → v = 1 → s.fuses.debugLock = false →
    ∃ t, exec (.debugLockWrite ss v .failed) s = .next t ∧ t.fuses = s.fuses ∧
      t.sent.head? = some (.reply ss { code := some (lg 0x0F) }) ∧ t.newest 0x113 (some (lg 0x0F)) ∧ t.regs = s.regs) ∧
  (∀ (s : State) (ss v : Nat), s.managed = true → s.mayWrite ss 0x6808_01 (.num v) = true → v = 1 → s.fuses.debugLock = false →
    ∃ t r, exec (.debugLockWrite ss v .powerLost) s = .next t ∧ t.fuses.debugLock = true ∧ t.fuses.tally = s.fuses.tally ∧ t.fuses.unrecorded = some r ∧
      r.index = 0x6808 ∧ r.sub = 1 ∧ r.old = 0 ∧ r.new = v ∧ t.sent = s.sent ∧ t.reg 0x1010_07 = 1) ∧
  (∀ (s : State) (ss v : Nat), s.managed = true → s.mayWrite ss 0x6808_03 (.num v) = true → v ≠ s.fuses.roleLock →
    ∃ t, exec (.roleLockWrite ss v .failed) s = .next t ∧ t.fuses = s.fuses ∧
      t.sent.head? = some (.reply ss { code := some (lg 0x0F) }) ∧ t.newest 0x113 (some (lg 0x0F)) ∧ t.regs = s.regs) ∧
  (∀ (s : State) (ss v : Nat), s.managed = true → s.mayWrite ss 0x6808_03 (.num v) = true → v ≠ s.fuses.roleLock →
    ∃ t r, exec (.roleLockWrite ss v .powerLost) s = .next t ∧ t.fuses.roleLock = v ∧ t.fuses.tally = s.fuses.tally ∧ t.fuses.unrecorded = some r ∧
      r.index = 0x6808 ∧ r.sub = 3 ∧ r.old = s.fuses.roleLock ∧ r.new = v ∧ t.sent = s.sent ∧ t.reg 0x1010_07 = 1) ∧
  (∀ (s : State) (ss v : Nat), s.managed = true → s.mayWrite ss 0x2800_04 (.num v) = true → v ≠ s.fuses.wallAlias →
    ∃ t, exec (.wallAliasWrite ss v .failed) s = .next t ∧ t.fuses = s.fuses ∧
      t.sent.head? = some (.reply ss { code := some (lg 0x0F) }) ∧ t.newest 0x113 (some (lg 0x0F)) ∧ t.regs = s.regs) ∧
  (∀ (s : State) (ss v : Nat), s.managed = true → s.mayWrite ss 0x2800_04 (.num v) = true → v ≠ s.fuses.wallAlias →
    ∃ t r, exec (.wallAliasWrite ss v .powerLost) s = .next t ∧ t.fuses.wallAlias = v ∧ t.fuses.tally = s.fuses.tally ∧ t.fuses.unrecorded = some r ∧
      r.index = 0x2800 ∧ r.sub = 4 ∧ r.old = s.fuses.wallAlias ∧ r.new = v ∧ t.sent = s.sent ∧ t.reg 0x1010_07 = 1) ∧
  (∀ (s : State) (ss : Nat) (k : Bytes), s.managed = true → s.mayWrite ss 0x6808_0A (.bytes k) = true →
    s.fuses.integratorKeys.length < 4 →
    ∃ t, exec (.programIntegratorKey ss k false) s = .next t ∧ t.fuses = s.fuses ∧
      t.sent.head? = some (.reply ss { code := some (lg 0x0F) }) ∧ t.newest 0x113 (some (lg 0x0F)) ∧ t.regs = s.regs) ∧
  (∀ (s : State) (ss n m : Nat), s.managed = true → s.mayWrite ss 0x6808_0C (.num n) = true →
    m < s.fuses.integratorKeys.length → m ≠ n → s.fuses.integratorRevoked.contains m = false →
    s.fuses.integratorRevoked.contains n = false →
    ∃ t, exec (.revokeIntegratorKey ss n false) s = .next t ∧ t.fuses = s.fuses ∧
      t.sent.head? = some (.reply ss { code := some (lg 0x0F) }) ∧ t.newest 0x113 (some (lg 0x0F)) ∧ t.regs = s.regs) ∧
  (∀ (s : State) (ss n : Nat), s.managed = true → s.mayWrite ss 0x6808_04 (.num n) = true → s.fuses.minSecurity < n →
    n ≤ s.securityInForce →
    ∃ t, exec (.minSecurityVersionWrite ss n false) s = .next t ∧ t.fuses = s.fuses ∧
      t.sent.head? = some (.reply ss { code := some (lg 0x0F) }) ∧ t.newest 0x113 (some (lg 0x0F)) ∧ t.regs = s.regs) ∧
  (∀ (s : State) (ss n : Nat), s.managed = true → s.mayWrite ss 0x6808_08 (.num n) = true →
    slotField (s.slotBytes s.slotInForce) 6 1 ≠ n → s.fuses.imageKeyRevoked.contains n = false →
    ∃ t, exec (.revokeImageKey ss n false) s = .next t ∧ t.fuses = s.fuses ∧
      t.sent.head? = some (.reply ss { code := some (lg 0x0F) }) ∧ t.newest 0x113 (some (lg 0x0F)) ∧ t.regs = s.regs)

/-- R409, R410, R412, R374, R420: a request of an open session that is no repeat is executed and answered on its path: a numeric
read from offset 0 returns the entry's value, a describe its descriptor, and a read of the key records removes the oldest 16. It
says that these complete: ledgerRead, describe, keyRecordsRead. It says that these complete: ledgerRead, describe, keyRecordsRead.
-/
def Obligations.ReadsAreAnswered : Prop :=
  (∀ (s : State) (p : Peer) (r : Req) (x : Session) (e : Entry) (n : Nat),
    s.managed = true → s.pathServed p = true → r.valid = true → s.boundSession p 1 r.session = some x →
    (∀ f, x.lastTxn ≠ some (r.txn, f)) → entryAt r.key = some e → s.serves r.key = true → e.ty.bytes ≠ 0 → e.acc ≠ .wo →
    s.needs (readLevel r.key) ≤ s.levelOf x → r.offset = 0 → (s.touch x).readVal { x with lastSent := s.now } r.key e = .num n →
    ∃ t, exec (.ledgerRead p r) s =
        .next (State.deliver t p (responseOf 1 r r.session { result := e.ty.bytes, data := beBytes e.ty.bytes n } true)) ∧
      t.regs = s.regs ∧ t.blobs = s.blobs ∧ t.shadow = s.shadow ∧ t.sent = s.sent ∧ t.log = s.log ∧ t.cells = s.cells ∧
      t.still = s.still) ∧
  (∀ (s : State) (p : Peer) (r : Req) (x : Session) (e : Entry),
    s.managed = true → s.pathServed p = true → r.valid = true → s.boundSession p 5 r.session = some x →
    (∀ f, x.lastTxn ≠ some (r.txn, f)) → entryAt r.key = some e → s.serves r.key = true →
    ∃ t, exec (.describe p r) s = .next (State.deliver t p (responseOf 5 r r.session { data := e.descriptor r.key } true)) ∧
      (e.descriptor r.key).length = 12 ∧ t.regs = s.regs ∧ t.blobs = s.blobs ∧ t.shadow = s.shadow ∧ t.sent = s.sent ∧
      t.log = s.log ∧ t.cells = s.cells ∧ t.still = s.still) ∧
  (∀ (s : State) (p : Peer) (r : Req) (x : Session),
    s.managed = true → s.pathServed p = true → r.valid = true → s.boundSession p 1 r.session = some x → s.acc.recovery = false →
    (∀ f, x.lastTxn ≠ some (r.txn, f)) → r.offset = 0 → (∀ b ∈ s.keys.queue, b.length = 16) →
    ∃ t, exec (.keyRecordsRead p r) s = .next (State.deliver t p (responseOf 1 { r with index := 0x5C20, sub := 0x02 } r.session
        { result := (s.keys.queue.take 16).flatten.length, data := (s.keys.queue.take 16).flatten } true)) ∧
      t.keys.queue = s.keys.queue.drop 16 ∧
      t.sent = (if s.keys.queue.length ≤ 16 then s.sent else .msix 64 :: s.sent) ∧ t.regs = s.regs ∧ t.blobs = s.blobs ∧
      t.shadow = s.shadow ∧ t.log = s.log ∧ t.cells = s.cells ∧ t.still = s.still)

/-- R97, R409, R410: a write request of a numeric entry with no operation of its own, to the active value, takes the value its data
spell; a first segment of a BLOB is held for its session. It says that these complete: ledgerWriteFrame. -/
def Obligations.WriteFramesAreExecuted : Prop :=
  (∀ (s : State) (p : Peer) (r : Req) (x : Session) (e : Entry),
    s.managed = true → s.pathServed p = true → r.valid = true → s.boundSession p 2 r.session = some x →
    (∀ f, x.lastTxn ≠ some (r.txn, f)) → entryAt r.key = some e → s.serves r.key = true → plainEntry r.key = true →
    e.perSession = false → e.acc ≠ .rws → e.ty.bytes ≠ 0 → r.data.length = e.ty.bytes → r.offset = 0 → r.last = true →
    (s.touch x).mayWrite x.id r.key (.num (beNat r.data)) = true →
    ∃ t, exec (.ledgerWriteFrame p r) s = .next (State.deliver t p (responseOf 2 r r.session {} true)) ∧
      t.reg r.key (x.inst r.key) = beNat r.data ∧
      s.ledgerBut t [regKey r.key (x.inst r.key)] ∧
      t.sent = s.sent ∧ t.log = s.log ∧ t.cells = s.cells ∧ t.still = s.still) ∧
  (∀ (s : State) (p : Peer) (r : Req) (x : Session) (e : Entry),
    s.managed = true → s.pathServed p = true → r.valid = true → s.boundSession p 2 r.session = some x →
    (∀ f, x.lastTxn ≠ some (r.txn, f)) → entryAt r.key = some e → s.serves r.key = true → e.ty.bytes = 0 →
    (x.holds.any fun h => h.slot == regKey r.key (x.inst r.key)) = false →
    regKey r.key (x.inst r.key) ∉ x.expired → r.offset = 0 → r.last = false → (s.touch x).checkSegment x r.key e = none →
    ∃ t y, exec (.ledgerWriteFrame p r) s = .next (State.deliver t p (responseOf 2 r r.session {} true)) ∧
      t.session? r.session = some y ∧
      y.holds = x.holds ++ [{ slot := regKey r.key (x.inst r.key), value := r.data, last := s.now }] ∧
      t.regs = s.regs ∧ t.blobs = s.blobs ∧ t.shadow = s.shadow ∧ t.sent = s.sent ∧ t.log = s.log ∧ t.cells = s.cells ∧
      t.still = s.still)

/-- R411: a request that repeats the transaction of its session's last response gets that response again, and nothing else happens.
-/
def Obligations.RepeatedTransactionIsAnsweredAgain : Prop :=
  ∀ (s : State) (p : Peer) (op : Nat) (r : Req) (x : Session) (f : Bytes), r.valid = true → opcodes.contains op = true → op ≠ 0x10 →
    s.session? r.session = some x → x.peer = p → x.lastTxn = some (r.txn, f) →
    s.serve p op r = (s.touch x, f)

/-- R417-R419: an open that is permitted makes a session, at once or pending its challenge; the right tag opens it; a close ends it;
a keep-alive starts its idle time again; an idle session, a lockout and a held segment end in time. It says that these complete:
openSession, respond, closeSession, keepAlive, sessionIdleTimeout, lockoutExpiry, segmentHoldExpiry. -/
def Obligations.SessionsOpenAndClose : Prop :=
  (∀ (s : State) (p : Peer) (r : Req), s.managed = true → s.pathServed p = true → r.valid = true → s.openCode p r = none →
    ∃ t x, exec (.openSession p r) s = .next (State.deliver t p (responseOf 0x10 r x.id { data := x.challenge } true)) ∧
      t.acc.sessions = s.acc.sessions ++ [x] ∧ x.peer = p ∧ x.level = field r.data 0 1 ∧
      x.pending = s.challenged (field r.data 0 1) ∧ x.challenge.length = (if s.challenged (field r.data 0 1) then 32 else 0) ∧
      x.nonce = r.data.drop 1 ∧ t.regs = s.regs ∧ t.blobs = s.blobs ∧ t.shadow = s.shadow ∧
      t.sent = s.sent ∧ t.log = s.log ∧ t.cells = s.cells ∧ t.still = s.still) ∧
  (∀ (s : State) (p : Peer) (r : Req) (x : Session) (k : Bytes) (n : Option Nat),
    s.managed = true → s.pathServed p = true → r.valid = true → s.boundSession p 0x11 r.session = some x →
    (∀ f, x.lastTxn ≠ some (r.txn, f)) → r.data.length = 32 → s.now ≤ x.challengeAt + 10 * second →
    (s.touch x).levelKey x.level = some (k, n) → hmacSha256 k x.message = r.data →
    ∃ t y, exec (.respond p r) s = .next (State.deliver t p (responseOf 0x11 r r.session
        { data := hmacSha256 k (x.nonce ++ x.challenge ++ beBytes 2 x.id) } true)) ∧
      t.session? r.session = some y ∧ y.pending = false ∧ y.keySlot = n ∧ y.level = x.level ∧ t.regs = s.regs ∧ t.blobs = s.blobs ∧ t.shadow = s.shadow ∧
      t.sent = s.sent ∧ t.log = s.log ∧ t.cells = s.cells ∧ t.still = s.still) ∧
  (∀ (s : State) (p : Peer) (r : Req) (x : Session),
    s.managed = true → s.pathServed p = true → r.valid = true → s.boundSession p 0x12 r.session = some x →
    (∀ f, x.lastTxn ≠ some (r.txn, f)) →
    ∃ t, exec (.closeSession p r) s = .next (State.deliver t p (responseOf 0x12 r r.session {} true)) ∧
      t.session? r.session = none ∧ t.regs = s.regs ∧ t.blobs = s.blobs ∧ t.shadow = s.shadow ∧
      t.sent = s.sent ∧ t.log = s.log ∧ t.cells = s.cells ∧ t.still = s.still) ∧
  (∀ (s : State) (p : Peer) (r : Req) (x : Session),
    s.managed = true → s.pathServed p = true → r.valid = true → s.boundSession p 0x13 r.session = some x →
    (∀ f, x.lastTxn ≠ some (r.txn, f)) →
    ∃ t y, exec (.keepAlive p r) s = .next (State.deliver t p (responseOf 0x13 r r.session {} true)) ∧
      t.session? r.session = some y ∧ y.lastSent = s.now ∧ t.regs = s.regs ∧ t.blobs = s.blobs ∧ t.shadow = s.shadow ∧
      t.sent = s.sent ∧ t.log = s.log ∧ t.cells = s.cells ∧ t.still = s.still) ∧
  (∀ (s : State) (ss : Nat) (x : Session), s.managed = true → s.session? ss = some x →
    x.lastSent + s.reg 0x6800_04 * second ≤ s.now →
    ∃ t, exec (.sessionIdleTimeout ss) s = .next t ∧ t.session? ss = none ∧ t.regs = s.regs ∧ t.blobs = s.blobs ∧ t.shadow = s.shadow ∧
      t.sent = s.sent ∧ t.log = s.log ∧ t.cells = s.cells ∧ t.still = s.still) ∧
  (∀ (s : State) (path : Fin 5), s.managed = true → (∀ l ∈ s.acc.lockedOut, l.1 = path.val → l.2 ≤ s.now) →
    ∃ t, exec (.lockoutExpiry path) s = .next t ∧ t.pathLocked path.val = false ∧ t.acc.sessions = s.acc.sessions ∧
      t.regs = s.regs ∧ t.blobs = s.blobs ∧ t.shadow = s.shadow ∧
      t.sent = s.sent ∧ t.log = s.log ∧ t.cells = s.cells ∧ t.still = s.still) ∧
  (∀ (s : State) (ss : Nat) (x : Session) (h : WriteHold), s.managed = true → s.session? ss = some x → h ∈ x.holds →
    h.last + second < s.now →
    ∃ t y, exec (.segmentHoldExpiry ss) s = .next t ∧ t.session? ss = some y ∧ h ∉ y.holds ∧ h.slot ∈ y.expired ∧
      (∀ k ∈ x.holds, s.now ≤ k.last + second → k ∈ y.holds) ∧
      t.regs = s.regs ∧ t.blobs = s.blobs ∧ t.shadow = s.shadow ∧
      t.sent = s.sent ∧ t.log = s.log ∧ t.cells = s.cells ∧ t.still = s.still)

/-- R413: the CAN FD frames into which a ledger frame is cut, received one after another, are together the request that the ledger
frame spells. -/
def Obligations.CanFramesMakeTheRequest : Prop :=
  (∀ (s : State) (c : Fin 2) (ident : BitVec 29) (node : Nat) (b : Bytes),
    s.managed = true → s.acc.recovery = false → s.reg 0x6810_05 c ≠ 2 → s.canSource c ident.toNat = some node →
    s.canMsg c node = none → b.length = headerLen + field b 10 2 → b.length ≤ headerLen + maxData →
    execAll ((canFrames b).map fun p => .canFrameReceive c ident p) s =
      .next (s.request (.can c node) (frameOf b).1 (frameOf b).2)) ∧
  (∀ (s : State) (c : Fin 2) (ident : BitVec 29) (node : Nat) (b : Bytes),
    s.managed = true → s.acc.recovery = false → s.reg 0x6810_05 c ≠ 2 → s.canSource c ident.toNat = some node →
    s.canMsg c node = none → b ≠ [] → b.length ≤ headerLen + maxData →
    execAll ((canFrames b).map fun p => .canFrameReceive c ident p) s =
      .next (s.request (.can c node) (frameOf (trimFrame ((canFrames b).flatMap fun p => p.drop 1))).1
        (frameOf (trimFrame ((canFrames b).flatMap fun p => p.drop 1))).2))

/-- R409: the request that a valid request's frame spells is that request, and no trimming takes from its frame. -/
def Obligations.RequestFrameSpellsItsRequest : Prop :=
  ∀ (op : Nat) (r : Req), op < 256 → r.wf = true → r.data.length = r.declared →
    frameOf (frameBytes op r) = (op, r) ∧ trimFrame (frameBytes op r) = frameBytes op r

/-- R279, R413, R414, R430: a CAN message whose next frame stays away is discarded and counted; bus off is recorded and keeps the
sessions; a datagram within the limit is its source's request and one beyond it is counted; ARP and ICMP echo are answered. It says
that these complete: canFrameReceive, canMessageTimeout, canBusOff, canBusOffRecovery, udpLedgerDatagram, arpRequest,
icmpEchoRequest, ethernetLinkChange. -/
def Obligations.CanAndEthernetKeepTheirLimits : Prop :=
  (∀ (s : State) (c : Fin 2) (ident : BitVec 29) (node : Nat) (part : Bytes), s.managed = true → s.acc.recovery = false →
    s.reg 0x6810_05 c ≠ 2 → s.canSource c ident.toNat = some node → s.canMsg c node = none → part.length ≤ 63 →
    ∃ t m, exec (.canFrameReceive c ident (0x80 :: part)) s = .next t ∧ t.canMsg c node = some m ∧ m.bytes = part ∧ m.next = 1 ∧
      m.last = s.now ∧ t.acc.sessions = s.acc.sessions ∧ t.regs = s.regs ∧ t.blobs = s.blobs ∧ t.shadow = s.shadow ∧ t.sent = s.sent ∧
       t.log = s.log ∧ t.cells = s.cells ∧ t.still = s.still) ∧
  (∀ (s : State) (c : Fin 2) (node : Fin 256) (m : CanMsg), s.managed = true → s.canMsg c node = some m → m.last + canGap < s.now →
    ∃ t, exec (.canMessageTimeout c node) s = .next t ∧ t.canMsg c node = none ∧
      t.reg 0x6810_06 c = satAdd (entryBits 0x6810_06) (s.reg 0x6810_06 c) (ceilDiv' m.bytes.length canPart) ∧
      t.acc.sessions = s.acc.sessions ∧ s.ledgerBut t [regKey 0x6810_06 c] ∧ t.sent = s.sent ∧
      t.log = s.log ∧ t.cells = s.cells ∧ t.still = s.still) ∧
  (∀ (s : State) (c : Fin 2), s.managed = true →
    ∃ t, exec (.canBusOff c) s = .next t ∧ t.reg 0x6810_05 c = 2 ∧ t.acc = s.acc ∧
      (s.unlimited 0x114 → t.newest 0x114 (some (lg 0x13))) ∧ s.ledgerBut t [regKey 0x6810_05 c] ∧ s.sendsLog t ∧
      t.cells = s.cells ∧ t.still = s.still) ∧
  (∀ (s : State) (c : Fin 2), s.managed = true → s.reg 0x6810_05 c = 2 →
    ∃ t, exec (.canBusOffRecovery c) s = .next t ∧ t.reg 0x6810_05 c = 0 ∧ t.acc = s.acc ∧
      s.ledgerBut t [regKey 0x6810_05 c] ∧ t.sent = s.sent ∧ t.log = s.log ∧ t.cells = s.cells ∧ t.still = s.still) ∧
  (∀ (s : State) (a p : Nat) (b : Bytes), s.managed = true → s.ethernetServed = true → s.admitDatagram.2 = true →
    exec (.udpLedgerDatagram a p b) s = .next (s.admitDatagram.1.request (.udp a p) (frameOf b).1 (frameOf b).2)) ∧
  (∀ (s : State) (a p : Nat) (b : Bytes), s.managed = true → s.ethernetServed = true → s.admitDatagram.2 = false →
    ∃ t, exec (.udpLedgerDatagram a p b) s = .next t ∧ t.acc.sessions = s.acc.sessions ∧
      t.reg 0x6820_0B = satAdd (entryBits 0x6820_0B) (s.reg 0x6820_0B) 1 ∧
      (s.unlimited 0x114 → t.newest 0x114 (some (lg 0x14))) ∧ s.ledgerBut t [regKey 0x6820_0B 0] ∧ s.sendsLog t ∧
      t.cells = s.cells ∧ t.still = s.still) ∧
  (∀ (s : State) (target sender : BitVec 32), s.managed = true → s.ethernetServed = true → target.toNat = s.reg 0x6820_06 →
    exec (.arpRequest target sender) s = .next (s.send (.arp sender.toNat))) ∧
  (∀ (s : State) (target sender : BitVec 32) (b : Bytes), s.managed = true → s.ethernetServed = true →
    target.toNat = s.reg 0x6820_06 → exec (.icmpEchoRequest target sender b) s = .next (s.send (.echo sender.toNat b))) ∧
  (∀ (s : State) (port : Fin 2) (speed : Fin 4), s.live = true → s.flag 0x6820_02 port = true →
    (speed.val = 0 ∨ bitAt (s.reg 0x6820_04 port) (speed.val - 1) = true) →
    ∃ t, exec (.ethernetLinkChange port speed) s = .next t ∧ t.reg 0x6820_03 port = speed.val ∧
      s.ledgerBut t [regKey 0x6820_03 port] ∧ t.sent = s.sent ∧ t.log = s.log ∧ t.cells = s.cells ∧ t.still = s.still)

/-- R291, R301, R395, R415: a doorbell answers in its mailbox, waits for a stopped controller, or is counted; PERST_N and a
function-level reset close the PCIe sessions; a write through a memory window that falls in no protected Ingot and a read go into
the fabric as bursts of whole beats inside 1 KiB, and a read that is refused ends with Completer Abort; BAR0 holds the mailboxes,
with words least significant byte first (the model's choice, log entry 177). It says that these complete: doorbell, mailboxFree,
pciePerst, functionLevelReset, pcieLinkChange, pcieBarWrite, pcieBarRead. -/
def Obligations.PcieServesMailboxesAndMemory : Prop :=
  (∀ (s w u : State) (m : Fin 4) (b y : Bytes) (op : Nat) (r : Req), s.live = true → s.pcieServed = true →
    s.mailboxStatus m = 0 → s.managed = true → w = (s.fillBuffer m 0 b).setMailbox m 1 [] →
    frameOf (w.mailboxFrame m) = (op, r) → w.mustHold (.pcie 0) op r = false → w.serve (.pcie 0) op r = (u, y) →
    u.mailboxStatus m = 1 →
    ∃ t, exec (.doorbell m b) s = .next t ∧ t.mailboxStatus m = 2 ∧ t.sent = .msix (1 + m.val) :: u.sent ∧
      Tbl.find t.acc.mailboxReply m = some y ∧ (b.length = headerLen + field b 10 2 → b.length ≤ 4096 → (op, r) = frameOf b) ∧
      (∀ j, j ≠ m.val → t.mailboxStatus j = u.mailboxStatus j) ∧
      t.acc.sessions = u.acc.sessions ∧ t.regs = u.regs ∧ t.blobs = u.blobs ∧ t.shadow = u.shadow ∧ t.log = u.log ∧
      t.cells = u.cells ∧ t.still = u.still) ∧
  (∀ (s : State) (m : Fin 4) (b : Bytes), s.live = true → s.pcieServed = true → s.mailboxStatus m = 0 → s.managed = false →
    ∃ t, exec (.doorbell m b) s = .next t ∧ t.mailboxStatus m = 1 ∧
      (b.length ≤ 4096 → (t.requestBuffer m).take b.length = b) ∧ t.acc.sessions = s.acc.sessions ∧
      t.regs = s.regs ∧ t.blobs = s.blobs ∧ t.shadow = s.shadow ∧ t.sent = s.sent ∧ t.log = s.log ∧ t.cells = s.cells ∧
      t.still = s.still) ∧
  (∀ (s : State) (m : Fin 4) (b : Bytes), s.live = true → s.pcieServed = true → s.mailboxStatus m ≠ 0 →
    ∃ t, exec (.doorbell m b) s = .next t ∧ t.acc = s.acc ∧ t.sent = s.sent ∧
      t.reg 0x6830_03 = satAdd (entryBits 0x6830_03) (s.reg 0x6830_03) 1 ∧ s.ledgerBut t [regKey 0x6830_03 0] ∧
      t.log = s.log ∧ t.cells = s.cells ∧ t.still = s.still) ∧
  (∀ (s : State) (m : Fin 4), s.live = true → s.pcieServed = true →
    ∃ t, exec (.mailboxFree m) s = .next t ∧ t.mailboxStatus m = 0 ∧
      (∀ j, j ≠ m.val → t.mailboxStatus j = s.mailboxStatus j) ∧ t.acc.sessions = s.acc.sessions ∧ t.regs = s.regs ∧
      t.blobs = s.blobs ∧ t.shadow = s.shadow ∧ t.sent = s.sent ∧ t.log = s.log ∧ t.cells = s.cells ∧ t.still = s.still) ∧
  (∀ (s : State) (level : Bool), s.pins.perstN ≠ level →
    ∃ t, exec (.pciePerst level) s = .next t ∧ t.pins.perstN = level ∧ (∀ x ∈ t.acc.sessions, x.peer.path ≠ 3) ∧
      t.acc.mailbox = [] ∧ t.acc.mailboxRequest = [] ∧ t.acc.mailboxReply = [] ∧ t.acc.msixTable = [] ∧
      s.entriesBut t [0x1010_01, 0x1010_04, 0x6400_02, 0x6400_05, 0x6830_01, 0x6830_02] ∧ t.blobs = s.blobs ∧
      t.shadow = s.shadow ∧ (level = false → bitAt (t.reg 0x1010_01) 4 = false ∧ t.sent = s.sent ∧ t.log = s.log) ∧ s.sendsLog t ∧
      t.cells = s.cells ∧ t.fuses = s.fuses ∧ t.nvA = s.nvA ∧ t.nvB = s.nvB) ∧
  (∀ (s : State), s.live = true →
    ∃ t, exec .functionLevelReset s = .next t ∧ t.acc.sessions = s.acc.sessions.filter (fun x => x.peer.path != 3) ∧
      t.regs = s.regs ∧ t.blobs = s.blobs ∧ t.shadow = s.shadow ∧ t.sent = s.sent ∧ t.log = s.log ∧ t.cells = s.cells ∧ t.still = s.still) ∧
  (∀ (s : State) (g : Fin 5) (w : Fin 9), s.live = true →
    ∃ t, exec (.pcieLinkChange g w) s = .next t ∧ t.reg 0x6830_01 = g.val ∧ t.reg 0x6830_02 = (if g.val = 0 then 0 else w.val) ∧
      t.acc = s.acc ∧ s.ledgerBut t [regKey 0x6830_01 0, regKey 0x6830_02 0] ∧ t.sent = s.sent ∧ t.log = s.log ∧ t.cells = s.cells ∧ t.still = s.still) ∧
  (∀ (s : State) (bar : Bar) (offset a : Nat) (data : Bytes) (q : BitVec 16) (tag : Nat) (rs : List FabReq),
    s.live = true → s.fabricWorks = true → s.pcieServed = true → barAddress bar offset = some a →
    (s.protects = false ∨ s.guardedAt a data.length = none) →
    rs = (hostBlocks a data.length).zipIdx.map (fun p => hostWrite tag p.2 a data p.1) →
    (∀ r ∈ rs, s.rangeUsable r.address (64 * r.beats) = true ∧ ∀ k, targetOf r.address = some k → s.reg 0x5400_02 k ≠ 6) →
    ∃ t, exec (.pcieBarWrite bar offset data q tag) s = .next t ∧
      t.fabric.queue = s.fabric.queue ++ rs.map (fun r =>
        { port := 36, target := (targetOf r.address).getD 0, req := r, issued := s.now, since := firstCycle s.now }) ∧
      t.acc = s.acc ∧ t.regs = s.regs ∧ t.blobs = s.blobs ∧ t.shadow = s.shadow ∧ t.sent = s.sent ∧
      t.log = s.log ∧ t.cells = s.cells ∧ t.still = s.still) ∧
  (∀ (s : State) (bar : Bar) (offset a len : Nat) (q : BitVec 16) (tag : Nat) (rs : List FabReq),
    s.live = true → s.fabricWorks = true → s.pcieServed = true → barAddress bar offset = some a → 0 < len →
    rs = (hostBlocks a len).zipIdx.map (fun p => hostRequest tag p.2 p.1 false) →
    (∀ r ∈ rs, s.rangeUsable r.address (64 * r.beats) = true ∧ ∀ k, targetOf r.address = some k → s.reg 0x5400_02 k ≠ 6) →
    ∃ t, exec (.pcieBarRead bar offset len q tag) s = .next t ∧
      t.fabric.queue = s.fabric.queue ++ rs.map (fun r =>
        { port := 36, target := (targetOf r.address).getD 0, req := r, issued := s.now, since := firstCycle s.now }) ∧
      t.fabric.reads = s.fabric.reads ++ [{ base := a, len := len, left := rs.map fun r => r.id }] ∧
      t.acc = s.acc ∧ t.regs = s.regs ∧ t.blobs = s.blobs ∧ t.shadow = s.shadow ∧ t.sent = s.sent ∧
      t.log = s.log ∧ t.cells = s.cells ∧ t.still = s.still) ∧
  (∀ (s : State) (bar : Bar) (offset a len : Nat) (q : BitVec 16) (tag : Nat) (r : FabReq),
    s.live = true → s.fabricWorks = true → s.pcieServed = true → barAddress bar offset = some a →
    (hostBlocks a len).zipIdx.map (fun p => hostRequest tag p.2 p.1 false) = [r] →
    s.rangeUsable r.address (64 * r.beats) = false →
    (∀ h ∈ s.fabric.reads, r.id ∉ h.left) →
    ∃ t, exec (.pcieBarRead bar offset len q tag) s = .next t ∧ t.sent.head? = some (.completion none) ∧
      s.refusedAt t 36 r.address 2 (fb 0x03) ∧ t.acc = s.acc ∧ t.fabric.queue = s.fabric.queue ∧ t.cells = s.cells ∧
      t.still = s.still) ∧
  (∀ (s : State) (bar : Bar) (offset a i : Nat) (data : Bytes) (q : BitVec 16) (tag : Nat),
    s.live = true → s.fabricWorks = true → s.pcieServed = true → barAddress bar offset = some a → s.protects = true →
    s.guardedAt a data.length = some i →
    ∃ t, exec (.pcieBarWrite bar offset data q tag) s = .next t ∧ t.dram = s.dram ∧ t.fabric = s.fabric ∧
      t.reg 0x2090_02 = a ∧ t.reg 0x2090_03 = i ∧
      t.reg 0x2090_04 = q.toNat ∧ t.reg 0x2090_01 = satAdd (entryBits 0x2090_01) (s.reg 0x2090_01) 1 ∧
      (s.unlimited 0x044 → t.newest 0x044 (some (fr 0x0A))) ∧
      s.ledgerBut t [regKey 0x2090_01 0, regKey 0x2090_02 0, regKey 0x2090_03 0, regKey 0x2090_04 0] ∧ s.sendsLog t ∧
      t.acc = s.acc ∧ t.still = s.still) ∧
  (∀ (s : State) (offset len : Nat) (q : BitVec 16) (tag : Nat), s.live = true → s.pcieServed = true →
    ∃ t bs, exec (.pcieBarRead .bar0 offset len q tag) s = .next t ∧ t = s.send (.completion (some bs)) ∧ bs.length = len ∧
      (∀ m, m < 4 → offset = m * 0x2000 → len ≤ 4096 → bs = (s.requestBuffer m).take len) ∧
      (∀ m, m < 4 → offset = m * 0x2000 + 0x1FF4 → len = 1 → s.mailboxStatus m < 256 →
        bs.map (fun b => b.toNat) = [s.mailboxStatus m])) ∧
  (∀ (s : State) (m : Fin 4) (off : Nat) (data : Bytes) (q : BitVec 16) (tag : Nat), s.live = true → s.pcieServed = true →
    off + data.length ≤ 4096 →
    ∃ t, exec (.pcieBarWrite .bar0 (m.val * 0x2000 + off) data q tag) s = .next t ∧
      slice (t.requestBuffer m) off data.length = data ∧
      (∀ k, (k < off ∨ off + data.length ≤ k) → (t.requestBuffer m)[k]? = (s.requestBuffer m)[k]? ∨ 4096 ≤ k) ∧
      t.acc.mailbox = s.acc.mailbox ∧ t.acc.mailboxReply = s.acc.mailboxReply ∧ t.acc.sessions = s.acc.sessions ∧
      t.regs = s.regs ∧ t.blobs = s.blobs ∧ t.shadow = s.shadow ∧ t.sent = s.sent ∧ t.log = s.log ∧ t.cells = s.cells ∧
      t.still = s.still) ∧
  (∀ (s : State) (m : Fin 4) (q : BitVec 16) (tag : Nat), s.live = true → s.pcieServed = true →
    exec (.pcieBarWrite .bar0 (m.val * 0x2000 + 0x1FF0) [1, 0, 0, 0] q tag) s = .next (s.ring m) ∧
      exec (.pcieBarWrite .bar0 (m.val * 0x2000 + 0x1FF4) [0, 0, 0, 0] q tag) s = exec (.mailboxFree m) s)

/-- R30, R33, R34, R37, R50: a host takes a Free Ingot of its source into Filling, publishes it at once or, under frozen detection,
once its content check is read, and releases it; a reader that retires leaves its Ingot. It says that these complete: hostAcquire,
hostPublish, hostContentCheckDone, hostRelease, readerRetire. -/
def Obligations.HostFramesArePublishedAndReleased : Prop :=
  (∀ (s : State) (ss slot : Nat), s.managed = true → s.mayWrite ss 0x2084_06 (.num slot) = true → s.hostSlot slot = true →
    s.freeOf slot ≠ [] →
    ∃ t i, exec (.hostAcquire ss slot) s = .next t ∧ i ∈ s.freeOf slot ∧ (t.ingot i).st = .filling ∧ (t.ingot i).filler = .host ∧
      t.reg 0x2084_01 = i ∧ (∀ j, j ≠ i → t.ingot j = s.ingot j) ∧ s.ledgerBut t [regKey 0x2084_01 0] ∧ t.log = s.log ∧ t.sent = .reply ss {} :: s.sent ∧
      t.cells = s.cells ∧ t.still = s.still) ∧
  (∀ (s : State) (ss v i : Nat), s.managed = true → s.mayWrite ss 0x2084_03 (.num v) = true → s.reg 0x2084_01 = i → i < ingotCount →
    s.hostSlot (s.ingot i).slot = true → (s.ingot i).st = .filling → (s.ingot i).filler = .host → s.reg 0x2084_02 ≤ s.wall →
    ∃ t, exec (.hostPublish ss v) s = .next t ∧
      ((t.ingot i).st = .ready ∧ t.latest (s.ingot i).slot = some i ∨ (t.ingot i).st = .filling ∧ (t.ingot i).filler = .hostCheck) ∧
      (t.ingot i).seq = nextFrameSeq (s.slot (s.ingot i).slot).hostSeq ∧
      (t.ingot i).origin = (if s.reg 0x2084_02 = 0 then s.wall else s.reg 0x2084_02) ∧
      (t.ingot i).foreign = (s.reg 0x2084_02 != 0) ∧ t.reg 0x2084_02 = 0 ∧
      s.entriesBut t [0x2084_02, 0x2010_01 + (s.ingot i).slot] ∧
      (s.commits.waiting = [] → s.ledgerBut t [regKey 0x2084_02 0] ∧ t.log = s.log) ∧ t.sent.head? = some (.reply ss {}) ∧ t.cells = s.cells ∧ t.still = s.still) ∧
  (∀ (s : State) (i : Fin 4096), s.live = true → s.fabricWorks = true → (s.ingot i).st = .filling → (s.ingot i).filler = .hostCheck →
    ∃ t, exec (.hostContentCheckDone i true) s = .next t ∧ (t.ingot i).st = .ready ∧ (t.ingot i).check = crc32c (s.hostPayload i) ∧
      t.latest (s.ingot i).slot = some i.val ∧ t.regs = s.regs ∧ t.blobs = s.blobs ∧ t.shadow = s.shadow ∧ t.log = s.log ∧ t.cells = s.cells ∧ t.still = s.still ∧ t.sent = s.sent) ∧
  (∀ (s : State) (ss i : Nat), s.managed = true → s.mayWrite ss 0x2084_04 (.num i) = true →
    (∃ x, s.source (s.ingot i).slot = some x ∧ x.kind = 3) → (s.ingot i).st = .ready →
    ∃ t, exec (.hostRelease ss i) s = .next t ∧ (t.ingot i).st = .free ∧ t.latest (s.ingot i).slot ≠ some i ∧
      (∀ j, j ≠ i → t.ingot j = s.ingot j) ∧ t.regs = s.regs ∧ t.blobs = s.blobs ∧ t.shadow = s.shadow ∧ t.log = s.log ∧
      t.sent = .reply ss {} :: s.sent ∧ t.cells = s.cells ∧ t.still = s.still) ∧
  (∀ (s : State) (ss i : Nat), s.managed = true → s.mayWrite ss 0x2084_04 (.num i) = true →
    (∃ x, s.source (s.ingot i).slot = some x ∧ x.kind = 3) → (s.ingot i).st = .scanning →
    ∃ t, exec (.hostRelease ss i) s = .next t ∧ (t.ingot i).st = .draining ∧ (t.ingot i).released = true ∧
      (t.ingot i).readers = (s.ingot i).readers ∧ t.latest (s.ingot i).slot ≠ some i ∧
      (∀ j, j ≠ i → t.ingot j = s.ingot j) ∧ t.regs = s.regs ∧ t.blobs = s.blobs ∧ t.shadow = s.shadow ∧ t.log = s.log ∧
      t.sent = .reply ss {} :: s.sent ∧ t.cells = s.cells ∧ t.still = s.still) ∧
  (∀ (s : State) (i : Fin 4096) (r : Fin 46), s.live = true → s.stillSelected i r = false →
    ∃ t, exec (.readerRetire i r) s = .next t ∧ (t.ingot i).readers.contains r.val = false ∧
      ((s.ingot i).readers = [r.val] → (s.ingot i).st = .scanning → (t.ingot i).st = .ready) ∧
      ((s.ingot i).readers = [r.val] → (s.ingot i).st = .draining → (t.ingot i).st = .free) ∧
      (∀ j : Nat, j ≠ i.val → t.ingot j = s.ingot j) ∧ t.regs = s.regs ∧ t.blobs = s.blobs ∧ t.shadow = s.shadow ∧
      (t.log = s.log ∧ t.sent = s.sent ∨ t.newest 0x045 none ∧ s.sendsLog t) ∧ t.cells = s.cells ∧ t.still = s.still)

/-- R102: at an output's seal its frame is decided once, and its composition is held: afterwards the output is sealed, and where a
bank was filled it is that of the output's next frame, on a layer for each layer of the output. It says that these complete:
sealPoint. -/
def Obligations.SealDecidesTheNextFrame : Prop :=
  ∀ (s : State) (o : Fin 32), s.live = true → (s.output o).running = true → (s.output o).started = true →
    (s.output o).sealed = false → s.reached (s.sealTime o) = true →
    ∃ t, exec (.sealPoint o) s = .next t ∧ (t.output o).sealed = true ∧
      (∀ k, (t.output o).next = some k → k.ofNum = (s.output o).nextOf ∧ (k.anyVeil = true ↔ ∃ d ∈ k.draws, d.veil ≠ none)) ∧
      t.regs = s.regs ∧ t.blobs = s.blobs ∧ t.cells = s.cells ∧ t.still = s.still ∧ t.acc = s.acc

/-- R40-R42: a frame judged fresh is whole and of a usable era, its source is neither faulted nor frozen, its time is trusted, and
its age at the output's t_fal is within the budget. -/
def Obligations.FreshVerdictIsWithinBudget : Prop :=
  ∀ (s : State) (slot tFal budget : Nat) (frame : Option Nat), (s.judgeFrame slot frame tFal budget).veil = none →
    ∃ i age origin, frame = some i ∧ (s.judgeFrame slot frame tFal budget).age = some age ∧ age ≤ budget ∧
      s.correctedOrigin (s.ingot i) = some origin ∧ ageAt tFal origin = some age ∧ (s.ingot i).memoryError = false ∧
      s.sourceFaulted slot = false ∧ s.isFrozen slot = false ∧
      ((s.ingot i).foreign = true → (s.ingot i).unlocked = false ∧ s.timeState ≠ 2) ∧
      ((s.ingot i).written = true → (s.ingot i).unlocked = false)

/-- R42, R44, R49: no view group is live beyond its budget: in every state that a step reaches from one where each decided live
group has an age within its budget, each still has. -/
def Obligations.LiveGroupsStayWithinBudget : Prop :=
  ∀ (s t : State), s.groupsFresh → step s = .next t → t.groupsFresh

/-- R56, R102, R155, R168: at its start a frame of a running output is what its seal and its hold decide: composed, a repeat or the
FAULT veil; the banks switch, and the ledger shows the frame and its state. It says that these complete: outputFrameStart. -/
def Obligations.FrameStartTakesItsKind : Prop :=
  ∀ (s v : State) (o : Fin 32) (of : Nat), s.live = true → (s.output o).running = true → s.reached (s.nextStart o) = true →
    of = (s.output o).nextOf → v = ((s.closeFrame o).applyAt o of).switchBackAt o of → (v.output o).running = true →
    ∃ u : State, exec (.outputFrameStart o) s = .next ((u.settleCommits.reportApplied s).noteFresh o).settlePower ∧
      (u.output o).kind = (v.frameKind o of).1 ∧ (u.output o).curOf = of ∧ (u.output o).nextOf = of + 1 ∧
      (u.output o).sealed = false ∧ (u.output o).next = none ∧
      ((u.output o).kind = .repeated → ∃ h, (v.output o).held = some h ∧ (u.output o).cur = h.bank ∧
        toSigned 64 (ofSigned 64 ((v.tFal o of : Int) - h.bank.tFal)) ≤ 1000 * h.bank.holdLimit) ∧
      u.reg 0x3400_12 o = shownFrame of ∧ u.reg 0x2030_02 o = (v.frameKind o of).1.state ∧ u.cells = s.cells ∧ u.still = s.still

/-- R56, R59, R158, R173: blanking, a line match, a finished frame and a TE edge are counted, and where enabled latched and
signalled; a frame's check is that of what its egress sent; a latch clears by ones; a hold limit and a missing echo are reported. It
says that these complete: startOfBlanking, lineMatch, frameDone, eventLatchClear, tearingEffect, holdLimitReached,
witnessEchoTimeout. -/
def Obligations.OutputEventsAreCounted : Prop :=
  (∀ (s : State) (o : Fin 32), s.live = true → (s.output o).running = true → (s.output o).started = true →
    (s.output o).blankDone = false → s.reached (s.blankTime o) = true → s.onSwage o = false →
    ∃ t, exec (.startOfBlanking o) s = .next t ∧ (t.output o).blankDone = true ∧
      t.reg 0x3410_02 o = satAdd (entryBits 0x3410_02) (s.reg 0x3410_02 o) 1 ∧
      (bitAt (s.reg 0x3400_15 o) 0 = true → bitAt (t.reg 0x3410_01 o) 0 = true ∧ t.sent = .msix (32 + o.val) :: s.sent) ∧
      (bitAt (s.reg 0x3400_15 o) 0 = false → t.reg 0x3410_01 o = s.reg 0x3410_01 o ∧ t.sent = s.sent) ∧
      s.ledgerBut t [regKey 0x3410_01 o, regKey 0x3410_02 o] ∧ t.log = s.log ∧ t.cells = s.cells ∧ t.still = s.still) ∧
  (∀ (s : State) (o : Fin 32), s.live = true → (s.output o).running = true → (s.output o).started = true →
    (s.output o).lineDone = false → s.reached (wallOf (s.nowInstant o (s.reg 0x3400_14 o) (s.vtotal o)) false) = true →
    ∃ t, exec (.lineMatch o) s = .next t ∧ (t.output o).lineDone = true ∧
      t.reg 0x3410_03 o = satAdd (entryBits 0x3410_03) (s.reg 0x3410_03 o) 1 ∧
      (bitAt (s.reg 0x3400_15 o) 1 = true → bitAt (t.reg 0x3410_01 o) 1 = true ∧ t.sent = .msix (32 + o.val) :: s.sent) ∧
      (bitAt (s.reg 0x3400_15 o) 1 = false → t.sent = s.sent) ∧
      s.ledgerBut t [regKey 0x3410_01 o, regKey 0x3410_03 o] ∧ t.log = s.log ∧ t.cells = s.cells ∧ t.still = s.still) ∧
  (∀ (s : State) (o : Fin 32), s.live = true → (s.output o).running = true → (s.output o).started = true →
    (s.output o).begun = true → (s.output o).frameDone = false → s.egressReady o = true → s.reached (s.blankTime o + s.egressLatency o) = true →
    s.onSwage o = false →
    ∃ t, exec (.frameDone o) s = .next t ∧ (t.output o).frameDone = true ∧
      t.reg 0x3410_04 o = satAdd (entryBits 0x3410_04) (s.reg 0x3410_04 o) 1 ∧
      t.reg 0x2030_07 o = s.frameCheck o ∧ ((s.output o).kind ≠ .repeated → s.frameCheck o = crc32c (s.frameBytes o)) ∧
      Sent.frame o (shownFrame (s.output o).ofNow) (s.frameCheck o) ∈ t.sent ∧
      ((s.output o).kind = .composed → s.flag 0x3400_17 o = true →
        ∃ h, (t.output o).held = some h ∧ h.bank = (s.output o).cur ∧ h.check = s.frameCheck o ∧
          t.cells = (s.storeHold o h.half).cells) ∧
      ((s.output o).kind ≠ .composed → (t.output o).held = (s.output o).held ∧ t.cells = s.cells) ∧
      s.ledgerBut t [regKey 0x1010_06 0, regKey 0x2030_07 o, regKey 0x3410_01 o, regKey 0x3410_04 o] ∧ t.log = s.log ∧
      t.still = s.still) ∧
  (∀ (s : State) (ss v i : Nat), s.managed = true → s.mayWrite ss 0x3410_01 (.num v) = true → i < 8 →
    ∃ t, exec (.eventLatchClear ss v) s = .next t ∧
      bitAt (t.reg 0x3410_01 (s.partOf ss 0x3410_01)) i = (bitAt (s.reg 0x3410_01 (s.partOf ss 0x3410_01)) i && !bitAt v i) ∧
      s.ledgerBut t [regKey 0x3410_01 (s.partOf ss 0x3410_01)] ∧ t.log = s.log ∧
      t.sent = .reply ss {} :: s.sent ∧ t.cells = s.cells ∧ t.still = s.still) ∧
  (∀ (s : State) (port : Fin 4) (o : Nat), s.live = true → s.outputOn [4] port = some o → (s.output o).started = true →
    (s.output o).teSeen = false →
    ∃ t, exec (.tearingEffect port) s = .next t ∧ (t.output o).teSeen = true ∧
      t.reg 0x3410_06 o = satAdd (entryBits 0x3410_06) (s.reg 0x3410_06 o) 1 ∧
      t.regI 0x3400_18 o 32 = toSigned 32 (ofSigned 32 (toSigned 64 (ofSigned 64 ((s.wall : Int) - s.nowStart o)))) ∧
      s.entriesBut t [0x3400_18, 0x3410_01, 0x3410_06, 0x3410_08] ∧ t.blobs = s.blobs ∧ t.shadow = s.shadow ∧
      t.cells = s.cells ∧ t.still = s.still) ∧
  (∀ (s : State) (o : Fin 32), s.live = true → (s.output o).running = true → (s.output o).sealed = true →
    (s.output o).limitReached = false → (s.frameKind o (s.output o).nextOf).2 = some (fr 0x07) →
    ∃ t, exec (.holdLimitReached o) s = .next t ∧ (t.output o).limitReached = true ∧ t.newest 0x041 (some (fr 0x07)) ∧
      t.regs = s.regs ∧ t.blobs = s.blobs ∧ t.shadow = s.shadow ∧ s.sendsLog t ∧ t.cells = s.cells ∧ t.still = s.still) ∧
  (∀ (s : State) (o : Fin 32) (seq : Nat) (f : SentFrame), s.live = true →
    (s.output o).sent.find? (fun f => streamSeq f.ofNum == seq && !f.reported) = some f → s.past (s.tFal o (f.ofNum + 2)) = true →
    ∃ t, exec (.witnessEchoTimeout o seq) s = .next t ∧ (t.output o).witFails = (s.output o).witFails + 1 ∧
      t.reg 0x2030_06 o = satAdd (entryBits 0x2030_06) (s.reg 0x2030_06 o) 1 ∧ t.newest 0x042 (some (fr 0x09)) ∧
      s.ledgerBut t [regKey 0x2030_06 o] ∧ s.sendsLog t ∧
      t.cells = s.cells ∧ t.still = s.still)

/-- R161, R174, R175: an underrun takes its layer off the frame and is counted; an engine that fails is held, and a free reserve is
chosen for it; the reserve then takes its tables and outputs. It says that these complete: layerUnderrun, engineFailure,
engineSubstitutionArm. -/
def Obligations.FailedEnginesAreReplaced : Prop :=
  (∀ (s : State) (e : Fin 18) (l : Fin 24) (x y o : Nat) (d : Draw), s.live = true → s.fetching e l = some (o, d) →
    ∃ t, exec (.layerUnderrun e l x y) s = .next t ∧ t.logged 0x070 (some (so 0x01)) ∧
      t.reg 0x3418_02 (e.val * 24 + l.val) = satAdd (entryBits 0x3418_02) (s.reg 0x3418_02 (e.val * 24 + l.val)) 1 ∧
      (∀ k ∈ (t.output o).cur.draws, k.engine = e.val → k.layer = l.val → k.off = some (x, y) ∧ k.underran = true) ∧
      (s.reg 0x3418_03 (e.val * 24 + l.val) + 1 < 3 → t.reg 0x3418_03 (e.val * 24 + l.val) = s.reg 0x3418_03 (e.val * 24 + l.val) + 1 ∧
        s.ledgerBut t [regKey 0x3410_01 o, regKey 0x3410_05 o, regKey 0x3418_02 (e.val * 24 + l.val),
          regKey 0x3418_03 (e.val * 24 + l.val)]) ∧
      t.blobs = s.blobs ∧ t.shadow = s.shadow ∧ t.sinks = s.sinks ∧
      t.cells = s.cells ∧ t.still = s.still) ∧
  (∀ (s : State) (e : Fin 18) (b : Bool) (line r : Nat), s.managed = true → e.val < 16 → s.reg 0x3420_02 e = 1 → s.recover.subst = none →
    s.freeReserve = some r →
    ∃ t, exec (.engineFailure e b line) s = .next t ∧ t.reg 0x3420_02 e = 4 ∧ t.reg 0x3420_04 e = (if b then 6 else 5) ∧
      t.newest 0x071 (some (so (if b then 6 else 5))) ∧
      (∃ x, t.recover.subst = some x ∧ x.engine = e.val ∧ x.reserve = r ∧ x.armed = false) ∧
      s.ledgerBut t [regKey 0x2400_0A 0, regKey 0x3420_02 e, regKey 0x3420_04 e, regKey 0x3080_0A e] ∧ s.sendsLog t ∧ t.cells = s.cells ∧ t.still = s.still) ∧
  (∀ (s : State) (e : Fin 18) (b : Bool) (line : Nat), s.live = true → s.managed = false → s.reg 0x3420_02 e = 1 →
    s.recover.subst = none →
    ∃ t, exec (.engineFailure e b line) s = .next t ∧ t.reg 0x3420_02 e = 4 ∧ t.reg 0x3420_04 e = (if b then 6 else 5) ∧
      t.recover = s.recover ∧ (∀ o, (t.output o).noEngine = (s.output o).noEngine) ∧
      s.ledgerBut t [regKey 0x2400_0A 0, regKey 0x3420_02 e, regKey 0x3420_04 e, regKey 0x3080_0A e] ∧ s.sendsLog t ∧
      t.cells = s.cells ∧ t.still = s.still) ∧
  (∀ (s : State) (e : Fin 18) (b : Bool) (line : Nat), s.managed = true → e.val < 16 → s.reg 0x3420_02 e = 1 →
    s.recover.subst = none → s.freeReserve = none →
    ∃ t, exec (.engineFailure e b line) s = .next t ∧ t.reg 0x3420_02 e = 4 ∧ t.reg 0x3420_04 e = (if b then 6 else 5) ∧ t.logged 0x071 (some (so 0x03)) ∧
      (s.reg 0x5800_03 ≠ 2 → s.ledgerBut t [regKey 0x2400_0A 0, regKey 0x3420_02 e, regKey 0x3420_04 e, regKey 0x3080_0A e] ∧
        s.sendsLog t) ∧ t.cells = s.cells ∧ t.still = s.still) ∧
  (∀ (s : State) (e : Fin 18) (x : Subst), s.managed = true → s.recover.subst = some x → x.armed = false → x.engine = e.val →
    e.val < 16 → s.reg 0x3420_02 x.reserve = 2 → 16 ≤ x.reserve → x.reserve < 18 → (∃ o ∈ x.outs, (s.output o).running = true) →
    ∃ t, exec (.engineSubstitutionArm e) s = .next t ∧ t.reg 0x3420_02 x.reserve = 3 ∧ t.reg 0x3420_05 x.reserve = e.val ∧
      t.reg 0x3420_03 x.reserve = s.reg 0x3420_03 e ∧ t.reg 0x3420_03 e = 0xFFFF ∧ (∃ y, t.recover.subst = some y ∧ y.armed = true) ∧
      (∀ k, layerKey (k / 65536) = false → k ∉ [regKey 0x3420_02 x.reserve, regKey 0x3420_03 x.reserve, regKey 0x3420_05 x.reserve,
        regKey 0x3420_03 e] → Tbl.find t.regs k = Tbl.find s.regs k) ∧
      (∀ k, layerKey (k / 65536) = false → Tbl.find t.blobs k = Tbl.find s.blobs k) ∧ t.shadow = s.shadow ∧
      t.sent = s.sent ∧ t.cells = s.cells ∧ t.still = s.still ∧ t.log = s.log)

/-- R169, R170, R172: a sink that appears starts the training of its enabled output's link, with its EDID read; its loss ends it;
only lost link status trains again; a link takes what both ends reach; a panel's sequence ends ready. It says that these complete:
hotPlugAssert, hotPlugLoss, irqHpd, dpTrainingDone, dsiInitDone. -/
def Obligations.DisplayLinksComeUp : Prop :=
  (∀ (s : State) (p : Fin 8) (rate : Fin 4) (lanes o : Nat) (spread : Bool) (edid : Bytes), s.live = true → s.outputOn [2] p = some o →
    ∃ t, exec (.hotPlugAssert p rate ⟨lanes, spread⟩ edid) s = .next t ∧ t.reg 0x3440_05 p = 1 ∧ t.blob 0x3440_08 p = edid.take 32768 ∧
      Tbl.find t.sinks p = some { rate := rate, lanes := lanes, edid := edid, spread := spread,
                                  spreadOn := s.flag 0x3440_04 p && spread } ∧
      s.regsBut t [regKey 0x3440_05 p] ∧ s.blobsBut t [regKey 0x3440_08 p] ∧ t.shadow = s.shadow ∧ t.sent = s.sent ∧ t.log = s.log ∧ t.cells = s.cells ∧ t.still = s.still) ∧
  (∀ (s : State) (p : Fin 8) (us o : Nat), s.live = true → 2000 < us → s.outputOn [2] p = some o →
    ∃ t, exec (.hotPlugLoss p us) s = .next t ∧ t.reg 0x3440_05 p = 0 ∧ Tbl.find t.sinks p = none ∧ t.newest 0x075 (some (so 0x0A)) ∧
      s.ledgerBut t [regKey 0x3440_05 p] ∧ s.sendsLog t ∧
      t.cells = s.cells ∧ t.still = s.still) ∧
  (∀ (s : State) (p : Fin 8) (us : Nat), s.live = true → us ≤ 2000 → exec (.hotPlugLoss p us) s = .next s) ∧
  (∀ (s : State) (p : Fin 8) (k : Sink) (o : Nat), s.live = true → Tbl.find s.sinks p = some k → s.outputOn [2] p = some o →
    exec (.irqHpd p false) s = .next s ∧
    ∃ t, exec (.irqHpd p true) s = .next t ∧ t.reg 0x3440_05 p = 1 ∧ t.blob 0x3440_08 p = k.edid.take 32768 ∧
      s.regsBut t [regKey 0x3440_05 p] ∧ s.blobsBut t [regKey 0x3440_08 p] ∧ t.sent = s.sent ∧ t.log = s.log ∧ t.cells = s.cells ∧
      t.still = s.still) ∧
  (∀ (s : State) (p : Fin 8) (k : Sink) (o rate lanes : Nat), s.live = true → Tbl.find s.sinks p = some k → s.outputOn [2] p = some o →
    s.reg 0x3440_05 p = 1 →
    ∃ t, exec (.dpTrainingDone p (.trained rate lanes)) s = .next t ∧ t.reg 0x3440_05 p = 2 ∧ t.reg 0x3440_06 p ≤ rate ∧
      t.reg 0x3440_06 p ≤ k.rate ∧ t.reg 0x3440_06 p ≤ s.reg 0x3440_02 p ∧
      s.ledgerBut t [regKey 0x3440_05 p, regKey 0x3440_06 p, regKey 0x3440_07 p] ∧ s.sendsLog t ∧ t.sinks = s.sinks ∧ t.cells = s.cells ∧ t.still = s.still) ∧
  (∀ (s : State) (p : Fin 8) (k : Sink) (o : Nat), s.live = true → Tbl.find s.sinks p = some k → s.outputOn [2] p = some o →
    s.reg 0x3440_05 p = 1 →
    ∃ t, exec (.dpTrainingDone p .failed) s = .next t ∧ t.reg 0x3440_05 p = 3 ∧ t.newest 0x075 (some (so 0x0A)) ∧
      s.ledgerBut t [regKey 0x3440_05 p] ∧ t.sinks = s.sinks ∧ s.sendsLog t ∧
      t.cells = s.cells ∧ t.still = s.still) ∧
  (∀ (s : State) (p : Fin 4) (o : Nat), s.live = true → s.outputOn [3, 4] p = some o → s.reg 0x3450_07 p = 1 →
    (dsiRecords (s.blob 0x3450_05 p).length (s.blob 0x3450_05 p)).2 = true →
    Tbl.get 0 s.panels p + dsiWaits (dsiRecords (s.blob 0x3450_05 p).length (s.blob 0x3450_05 p)).1 ≤ s.now →
    ∃ t, exec (.dsiInitDone p true) s = .next t ∧ t.reg 0x3450_07 p = 2 ∧ s.ledgerBut t [regKey 0x3450_07 p] ∧ t.log = s.log ∧ t.cells = s.cells ∧ t.still = s.still ∧
      t.sent = (((dsiRecords (s.blob 0x3450_05 p).length (s.blob 0x3450_05 p)).1.filter fun x => x.1 != 0xFF).map
        fun x => Sent.dsi p x.1 x.2).reverse ++ s.sent)

/-- R141-R145: a coefficient table of the right layout and range goes to the shadow; a writeback takes a Free Ingot at its region's
first line, and publishes it when the region has been written. It says that these complete: tableLoad, writebackRegionStart,
writebackRegionEnd. -/
def Obligations.TablesLoadAndWritebacksPublish : Prop :=
  (∀ (s : State) (ss : Nat) (b : Bytes), s.managed = true → s.mayWrite ss 0x3040_02 (.bytes b) = true →
    factoryTable (s.partOf ss 0x3040_02) = false → tableFormed (s.partOf ss 0x3040_02) b = true →
    tableInRange (s.partOf ss 0x3040_02) b = true →
    ∃ t, exec (.tableLoad ss b) s = .next t ∧ t.shadowVal 0x3040_02 (s.partOf ss 0x3040_02) = .bytes b ∧
      (∀ k, k ≠ regKey 0x3040_02 (s.partOf ss 0x3040_02) → Tbl.find t.shadow k = Tbl.find s.shadow k) ∧ t.log = s.log ∧ t.regs = s.regs ∧
      t.blobs = s.blobs ∧ t.sent = .reply ss {} :: s.sent ∧ t.cells = s.cells ∧ t.still = s.still) ∧
  (∀ (s : State) (e : Fin 16) (o : Nat), s.live = true → s.fabricWorks = true → s.writebackOf e = some o → (s.output o).started = true →
    (s.output o).kind = .composed → (s.engine e).wbOf ≠ some (s.output o).ofNow →
    s.reached (s.lineTime o (s.reg 0x3080_06 e)) = true → (s.engine e).wbIngot = none → s.freeOf (s.reg 0x3080_04 e) ≠ [] →
    ∃ t i, exec (.writebackRegionStart e) s = .next t ∧ (t.engine e).wbIngot = some i ∧ i ∈ s.freeOf (s.reg 0x3080_04 e) ∧
      (t.ingot i).st = .filling ∧ (t.ingot i).filler = .writeback ∧ (t.ingot i).seq = (s.output o).ofNow % 2 ^ 32 ∧
      (t.engine e).wbOf = some (s.output o).ofNow ∧
      (s.commits.waiting = [] → t.regs = s.regs ∧ t.blobs = s.blobs ∧ t.shadow = s.shadow ∧ t.log = s.log ∧ t.sent = s.sent) ∧
      t.cells = s.cells ∧ t.still = s.still) ∧
  (∀ (s : State) (e : Fin 16) (o i : Nat), s.live = true → s.fabricWorks = true → s.writebackOf e = some o → (s.engine e).wbIngot = some i →
    (s.engine e).wbOf = some (s.output o).ofNow → (s.ingot i).st = .filling → (s.ingot i).filler = .writeback →
    s.reached (s.lineTime o (s.reg 0x3080_06 e + s.reg 0x3080_08 e)) = true →
    ∃ t, exec (.writebackRegionEnd e) s = .next t ∧ (t.ingot i).st = .ready ∧ t.latest (s.ingot i).slot = some i ∧
      (t.engine e).wbIngot = none ∧ (t.ingot i).check = (if (s.ingot i).counted then crc32c (s.regionLines e o).flatten
        else (s.ingot i).check) ∧
      (∀ x, s.source (s.ingot i).slot = some x → t.cells = (((List.range (s.regionLines e o).length).zip (s.regionLines e o)).foldl
        (fun u l => u.store ((s.ingot i).base + l.1 * lineStride x.width (bytesPerPixel x.fmt)) l.2) s).cells) ∧
      t.regs = s.regs ∧ t.blobs = s.blobs ∧ t.shadow = s.shadow ∧ t.log = s.log ∧ t.sent = s.sent ∧ t.still = s.still)

/-- R89-R92, R94: a placement runs on the scene and the shadow as they were, and its plan or its failure is reported; a dry run
stores nothing; a slot not in force empties; an automatic re-plan runs for the plan in force, and its plan waits as a commit. It
says that these complete: place, dryRun, placementDone, emptySlot, automaticReplanStart, automaticReplanDone. -/
def Obligations.PlacementRunsAndReports : Prop :=
  (∀ (s : State) (ss v : Nat), s.managed = true → s.mayWrite ss 0x2400_02 (.num v) = true → s.smith.placing = .idle →
    s.reg 0x2400_03 ≠ 1 → v ≠ 0x10 →
    ∃ t, exec (.place ss v) s = .next t ∧ t.smith.placing = .host v (s.blob 0x2400_01) ∧ t.smith.inputs = s.shadow ∧
      t.reg 0x2400_03 = 1 ∧ t.smith.slots = s.smith.slots ∧ s.ledgerBut t [regKey 0x2400_03 0] ∧ t.log = s.log ∧ t.sent = .reply ss {} :: s.sent ∧
      t.cells = s.cells ∧ t.still = s.still) ∧
  (∀ (s : State) (ss : Nat), s.managed = true → s.mayWrite ss 0x2400_02 (.num 0x10) = true → s.smith.placing = .idle →
    s.reg 0x2400_03 ≠ 1 →
    ∃ t, exec (.dryRun ss) s = .next t ∧ t.smith.placing = .dry (s.blob 0x2400_01) ∧ t.smith.inputs = s.shadow ∧ t.reg 0x2400_03 = 1 ∧
      t.smith.slots = s.smith.slots ∧ s.ledgerBut t [regKey 0x2400_03 0] ∧ t.log = s.log ∧ t.sent = .reply ss {} :: s.sent ∧ t.cells = s.cells ∧ t.still = s.still) ∧
  (∀ (s : State) (us slot : Nat) (scene : Bytes) (p : Plan), s.managed = true → s.recover.subst = none →
    s.smith.placing = .host slot scene → slot < 4 → s.smith.startUpDue = false →
    s.asStarted.smithPlan scene slot us false = .inr p →
    ∃ t, exec (.placementDone us) s = .next t ∧ Tbl.find t.smith.slots slot = some p ∧ t.blob (0x2410_01 + slot) = p.report ∧
      t.smith.placing = .idle ∧ t.reg 0x2400_03 = 2 ∧ t.reg 0x2400_04 = 0 ∧ t.blob 0x2400_05 = p.report ∧
      (∀ k, k ≠ slot → Tbl.find t.smith.slots k = Tbl.find s.smith.slots k) ∧ t.plan = s.plan ∧ t.commits = s.commits ∧
      s.regsBut t [regKey 0x2400_03 0, regKey 0x2400_04 0] ∧ s.blobsBut t [regKey 0x2400_05 0, regKey (0x2410_01 + slot) 0, regKey 0x2410_05 0] ∧
      (s.planSlot ≠ slot → t.planSlot = s.planSlot ∧ t.blob 0x2410_05 = s.blob 0x2410_05) ∧
      (s.planSlot = slot → t.planSlot = 0xFE ∧ t.blob 0x2410_05 = match s.plan with | some q => q.report | none => []) ∧
      t.shadow = s.shadow ∧ t.sent = s.sent ∧ t.log = s.log ∧ t.cells = s.cells ∧ t.still = s.still) ∧
  (∀ (s : State) (us slot code : Nat) (scene report : Bytes), s.managed = true → s.recover.subst = none →
    s.smith.placing = .host slot scene → s.smith.startUpDue = false →
    s.asStarted.smithPlan scene slot us false = .inl (code, report) →
    ∃ t, exec (.placementDone us) s = .next t ∧ t.smith.slots = s.smith.slots ∧ t.smith.placing = .idle ∧ t.reg 0x2400_03 = 3 ∧
      t.reg 0x2400_04 = code ∧ t.blob 0x2400_05 = report ∧ t.plan = s.plan ∧ t.commits = s.commits ∧
      s.regsBut t [regKey 0x2400_03 0, regKey 0x2400_04 0] ∧ s.blobsBut t [regKey 0x2400_05 0] ∧ t.shadow = s.shadow ∧
      t.sent = s.sent ∧ t.log = s.log ∧ t.cells = s.cells ∧ t.still = s.still) ∧
  (∀ (s : State) (us : Nat) (scene : Bytes) (p : Plan), s.managed = true → s.recover.subst = none → s.smith.placing = .dry scene →
    s.smith.startUpDue = false →     s.asStarted.smithPlan scene 0xFF us false = .inr p →
    ∃ t, exec (.placementDone us) s = .next t ∧ t.smith.slots = s.smith.slots ∧ t.smith.placing = .idle ∧ t.reg 0x2400_03 = 2 ∧
      t.reg 0x2400_04 = 0 ∧ t.blob 0x2400_05 = p.report ∧ t.plan = s.plan ∧ t.commits = s.commits ∧
      s.regsBut t [regKey 0x2400_03 0, regKey 0x2400_04 0] ∧ s.blobsBut t [regKey 0x2400_05 0] ∧ t.shadow = s.shadow ∧
      t.sent = s.sent ∧ t.log = s.log ∧ t.cells = s.cells ∧ t.still = s.still) ∧
  (∀ (s : State) (us slot : Nat) (scene : Bytes), s.managed = true → s.recover.subst = none →
    (s.smith.placing = .host slot scene ∨ s.smith.placing = .dry scene) → s.smith.startUpDue = true →
    s.flag 0x6400_0D = true → s.reg 0x5800_03 = 0 →
    ∃ t, exec (.placementDone us) s = .next t ∧ t.smith.placing = .startUp (s.blob 0x6400_0C) ∧ t.smith.inputs = s.shadow ∧
      t.smith.startUpDue = false ∧ t.plan = s.plan ∧ t.commits = s.commits ∧ t.shadow = s.shadow ∧ t.sent = s.sent ∧
      t.log = s.log ∧ t.cells = s.cells ∧ t.still = s.still) ∧
  (∀ (s : State) (ss v : Nat), s.managed = true → s.mayWrite ss 0x2410_09 (.num v) = true → s.planInForce ≠ v →
    ∃ t, exec (.emptySlot ss v) s = .next t ∧ Tbl.find t.smith.slots v = none ∧ t.blob (0x2410_01 + v) = [] ∧ t.regs = s.regs ∧
      (∀ k, k ≠ v → Tbl.find t.smith.slots k = Tbl.find s.smith.slots k) ∧ s.blobsBut t [regKey (0x2410_01 + v) 0] ∧
      t.shadow = s.shadow ∧ t.log = s.log ∧ t.plan = s.plan ∧ t.sent = .reply ss {} :: s.sent ∧ t.cells = s.cells ∧ t.still = s.still) ∧
  (∀ (s : State) (p : Plan), s.managed = true → s.replanDue = true → s.smith.placing = .idle → s.recover.subst = none →
    s.autoWaits = false → s.plan = some p → s.reg 0x2400_06 = 0 →
    ∃ t, exec .automaticReplanStart s = .next t ∧ t.smith.placing = .auto p.scene (s.reg 0x2400_0A) ∧ t.smith.inputs = s.shadow ∧
      t.regs = s.regs ∧ t.blobs = s.blobs ∧ t.shadow = s.shadow ∧ t.plan = s.plan ∧ t.commits = s.commits ∧ t.log = s.log ∧
      t.sent = s.sent ∧ t.cells = s.cells ∧ t.still = s.still) ∧
  (∀ (s : State) (us : Nat) (scene : Bytes) (q p : Plan), s.managed = true → s.recover.subst = none →
    s.smith.placing = .auto scene (s.reg 0x2400_0A) → s.plan = some q → q.scene = scene →
    s.asStarted.smithPlan scene s.planSlot us true = .inr p → p.withdraws = false → s.smith.startUpDue = false →
    s.domainsOff { ticket := 0, slot := s.planSlot, auto := true, plan := some p } [] = [] →
    ∃ t w, exec (.automaticReplanDone us) s = .next t ∧ t.commits.waiting.head? = some w ∧ w.auto = true ∧ w.plan = some p ∧
      t.smith.placing = .idle ∧ t.plan = s.plan ∧
      (s.commits.waiting = [] → t.shadow = s.shadow ∧ t.log = s.log ∧ t.sent = s.sent) ∧ t.cells = s.cells ∧ t.still = s.still) ∧
  (∀ (s : State) (us epoch : Nat) (scene : Bytes) (q : Plan), s.managed = true → s.recover.subst = none →
    s.smith.placing = .auto scene epoch → s.plan = some q → (q.scene ≠ scene ∨ epoch ≠ s.reg 0x2400_0A) →
    ∃ t, exec (.automaticReplanDone us) s = .next t ∧ t.smith.placing = .auto q.scene (s.reg 0x2400_0A) ∧ t.plan = s.plan ∧
      t.regs = s.regs ∧ t.blobs = s.blobs ∧ t.shadow = s.shadow ∧ t.commits = s.commits ∧ t.log = s.log ∧ t.sent = s.sent ∧
      t.cells = s.cells ∧ t.still = s.still)

/-- R333, R337: with no action in progress the first of the queue starts, or has no cause any more; a failed engine is tested and,
having passed, may be switched back in its turn. It says that these complete: recoveryActionStart, testEngine, engineTestDone,
switchBackEngine. -/
def Obligations.RecoveryActionsRunInTurn : Prop :=
  (∀ (s : State) (c : Cause) (rest : List Recovery), s.managed = true → s.recovering = 0 →
    s.recover.queue = .replan c :: rest → (s.reg 0x2400_06 ≠ 0 ∨ s.plan = none ∨ s.causeStands c = false) →
    ∃ t, exec .recoveryActionStart s = .next t ∧ t.recover.queue = rest ∧ t.recover.active = s.recover.active ∧ t.regs = s.regs ∧
      t.blobs = s.blobs ∧ t.shadow = s.shadow ∧ t.log = s.log ∧ t.sent = s.sent ∧ t.cells = s.cells ∧ t.still = s.still) ∧
  (∀ (s : State) (c : Cause) (rest : List Recovery), s.managed = true → s.recovering = 0 →
    s.recover.queue = .replan c :: rest → s.reg 0x2400_06 = 0 → s.plan.isSome = true → s.causeStands c = true →
    ∃ t, exec .recoveryActionStart s = .next t ∧ t.recover.queue = rest ∧ t.recover.active = some (.replan c) ∧ t.regs = s.regs ∧
      t.blobs = s.blobs ∧ t.shadow = s.shadow ∧ t.log = s.log ∧ t.sent = s.sent ∧ t.cells = s.cells ∧ t.still = s.still) ∧
  (∀ (s : State) (e : Nat) (rest : List Recovery), s.managed = true → s.recovering = 0 →
    s.recover.queue = .switchBack e :: rest → s.canSwitchBack e = true → s.runningOutputs ≠ [] →
    ∃ t, exec .recoveryActionStart s = .next t ∧ t.recover.queue = rest ∧ t.recover.active = some (.switchBack e) ∧
      t.recover.backWF = some s.earliestWF ∧ t.regs = s.regs ∧ t.blobs = s.blobs ∧ t.shadow = s.shadow ∧ t.log = s.log ∧
      t.sent = s.sent ∧ t.cells = s.cells ∧ t.still = s.still) ∧
  (∀ (s : State) (ss v : Nat), s.managed = true → s.mayWrite ss 0x5810_04 (.num v) = true → s.reg 0x3420_02 v = 4 →
    ∃ t, exec (.testEngine ss v) s = .next t ∧ t.recover.testing = some v ∧ t.reg 0x5810_05 = 1 ∧ t.engines = s.engines ∧
      s.ledgerBut t [regKey 0x5810_05 0] ∧ t.log = s.log ∧
      t.sent = .reply ss {} :: s.sent ∧ t.cells = s.cells ∧ t.still = s.still) ∧
  (∀ (s : State) (e : Nat), s.managed = true → s.recover.testing = some e → s.reg 0x3420_02 e = 4 → e < 18 →
    ∃ t, exec (.engineTestDone true) s = .next t ∧ t.recover.testing = none ∧ t.reg 0x5810_05 = 2 ∧ t.reg 0x3420_02 e = 0 ∧
      (t.engine e).tested = true ∧ t.reg 0x2400_0A = (s.reg 0x2400_0A + 1) % 2 ^ 32 ∧
      s.ledgerBut t [regKey 0x5810_05 0, regKey 0x3420_02 e, regKey 0x2400_0A 0] ∧ t.log = s.log ∧ t.sent = s.sent ∧ t.cells = s.cells ∧ t.still = s.still) ∧
  (∀ (s : State) (e : Nat), s.managed = true → s.recover.testing = some e →
    ∃ t, exec (.engineTestDone false) s = .next t ∧ t.recover.testing = none ∧ t.reg 0x5810_05 = 3 ∧ t.engines = s.engines ∧
      s.ledgerBut t [regKey 0x5810_05 0] ∧ t.log = s.log ∧ t.sent = s.sent ∧ t.cells = s.cells ∧ t.still = s.still) ∧
  (∀ (s : State) (ss v : Nat), s.managed = true → s.mayWrite ss 0x5810_03 (.num v) = true → s.canSwitchBack v = true →
    s.recover.queue.length < 8 →
    ∃ t, exec (.switchBackEngine ss v) s = .next t ∧ t.recover.queue = s.recover.queue ++ [.switchBack v] ∧
      t.recover.active = s.recover.active ∧ t.regs = s.regs ∧ t.blobs = s.blobs ∧ t.shadow = s.shadow ∧ t.log = s.log ∧
      t.sent = .reply ss {} :: s.sent ∧ t.cells = s.cells ∧ t.still = s.still)

/-- R100, R103-R105, R113, R115, R116: a commit request takes the next ticket and waits; a refused one leaves every value; an
accepted one goes on; a discard empties the shadow; a cancelled ticket's commit is gone; a lock-in checks again. It says that these
complete: commit, discardShadow, commitAccept, cancel, commitLockIn. -/
def Obligations.CommitsAreRequestedAndJudged : Prop :=
  (∀ (s : State) (ss v : Nat), s.managed = true → s.mayWrite ss 0x2800_14 (.num v) = true →
    s.requestCode (s.fld ss 0x2800_12 != 0) = none →
    ∃ t p, exec (.commit ss v) s = .next t ∧ t.commits.requests = s.commits.requests ++ [p] ∧
      p.ticket = s.member * 2 ^ 26 + nextTicket s.commits.seq ∧ p.slot = s.fld ss 0x2800_10 ∧ p.target = (if s.fld ss 0x2800_11 = 0 then 0 else namedFrame (s.fld ss 0x2800_11)) ∧
      p.wall = (s.fld ss 0x2800_12 != 0) ∧ t.fld ss 0x2800_15 = p.ticket ∧ t.sent.head? = some (.reply ss { result := p.ticket }) ∧
      t.commits.waiting = s.commits.waiting ∧ t.regs = s.regs ∧ t.blobs = s.blobs ∧ t.shadow = s.shadow ∧ t.log = s.log ∧
      t.cells = s.cells ∧ t.still = s.still) ∧
  (∀ (s : State) (ss v : Nat), s.managed = true → s.mayWrite ss 0x2800_17 (.num v) = true →
    ∃ t, exec (.discardShadow ss v) s = .next t ∧ t.shadow = [] ∧ t.regs = s.regs ∧ t.blobs = s.blobs ∧ t.commits = s.commits ∧ t.log = s.log ∧
      t.sent = .reply ss {} :: s.sent ∧ t.cells = s.cells ∧ t.still = s.still) ∧
  (∀ (s u : State) (r : Pending) (rest : List Pending) (c : Code) (pair : Nat), s.managed = true → s.commits.requests = r :: rest →
    r.asked = none → u = { s with commits := { s.commits with requests := rest } } → u.judge (u.drawUp r) = .inl (c, pair) →
    ∃ t, exec .commitAccept s = .next t ∧ t.newest 0x051 (some c) ∧ t.commits.requests = rest ∧
      (∀ k, t.ticket? r.ticket = some k → k.st = .refused ∧ k.code = some c) ∧ t.commits.waiting = s.commits.waiting ∧
      t.regs = s.regs ∧ t.blobs = s.blobs ∧ t.shadow = s.shadow ∧ t.cells = s.cells ∧ t.still = s.still) ∧
  (∀ (s u : State) (r a : Pending) (rest : List Pending) (fs : List Staged), s.managed = true → s.commits.requests = r :: rest →
    r.asked = none → u = { s with commits := { s.commits with requests := rest } } → u.judge (u.drawUp r) = .inr (a, fs) →
    u.domainsOff a fs = [] →
    ∃ t, exec .commitAccept s = .next t ∧ t = (u.takeCommit a fs).lead r.ticket ∧ t.cells = s.cells ∧ t.still = s.still) ∧
  (∀ (s u : State) (r a : Pending) (rest : List Pending) (fs : List Staged), s.managed = true → s.commits.requests = r :: rest →
    r.asked = none → u = { s with commits := { s.commits with requests := rest } } → u.judge (u.drawUp r) = .inr (a, fs) →
    u.domainsOff a fs ≠ [] →
    ∃ t, exec .commitAccept s = .next t ∧ t.commits = s.commits ∧ s.entriesBut t [0x6400_02, 0x6400_05] ∧ t.blobs = s.blobs ∧
      t.shadow = s.shadow ∧ t.plan = s.plan ∧ t.log = s.log ∧ t.sent = s.sent ∧ t.cells = s.cells ∧ t.still = s.still) ∧
  (∀ (s u : State) (r a : Pending) (rest : List Pending) (fs : List Staged) (port tag : Nat), s.managed = true →
    s.commits.requests = r :: rest → r.asked = some (port, tag) →
    u = { s with commits := { s.commits with requests := rest } } → u.judgePrepare (u.drawUp r) tag = .inr (a, fs) →
    u.domainsOff a fs = [] →
    exec .commitAccept s = .next ((u.takeCommit a fs).sendMessage port 3 (wallPayload 2 (u.wallMsgOf (u.drawUp r))))) ∧
  (∀ (s : State) (ss id : Nat), s.managed = true → s.mayWrite ss 0x2800_16 (.num id) = true → s.cancellable id = true →
    s.leading id = none →
    ∃ t, exec (.cancel ss id) s = .next t ∧ t.waitingCommit id = none ∧ (∀ q ∈ t.commits.requests, q.ticket ≠ id) ∧
      (∀ k, t.ticket? id = some k → k.st = .cancelled) ∧ t.newest 0x053 none ∧ t.plan = s.plan ∧ t.cells = s.cells ∧ t.still = s.still) ∧
  (∀ (s : State) (id : Nat) (p : Pending), s.managed = true → s.waitingCommit id = some p → s.lockInDue p = true →
    p.lockedIn = false → p.wall = false →
    ∃ u : State, exec (.commitLockIn id) s = .next ((u.installIdle.settleCommits.reportApplied s).settlePower) ∧
      (s.recheck p = none → u.waitingCommit id = some { p with lockedIn := true } ∧ u.log = s.log) ∧
      (∀ x, s.recheck p = some x → u.waitingCommit id = none ∧ u.newest 0x051 (some x.1)) ∧ u.regs = s.regs)

/-- R118, R119, R121: a member answers a Prepare, a coordinator gathers its members' answers until it decides; all Ready is Go, and
anything less is Abort; members obey; reports of the application are gathered or found missing. It says that these complete:
prepare, ready, refuse, decisionDeadline, go, abort, applied, appliedReportTimeout. -/
def Obligations.WallCommitsAreDecided : Prop :=
  (∀ (s u : State) (port : Fin 24) (m : WallMsg) (p a : Pending) (fs : List Staged), s.managed = true → 4 ≤ s.reg 0x4400_05 port →
    m.member ≠ s.member → s.waitingCommit m.ticket = none → (∀ q ∈ s.commits.requests, q.ticket ≠ m.ticket) →
    u = s.addOther { id := m.ticket } →
    p = u.drawUp { ticket := m.ticket, slot := m.slot, target := namedFrame m.target, wall := true, coordinator := some m.member,
                   asked := some (port.val, m.tag) } →
    u.judgePrepare p m.tag = .inr (a, fs) → u.domainsOff a fs = [] →
    exec (.prepare port m) s = .next ((u.takeCommit a fs).sendMessage port 3 (wallPayload 2 (u.wallMsgOf p)))) ∧
  (∀ (s u : State) (port : Fin 24) (m : WallMsg) (p a : Pending) (fs : List Staged), s.managed = true → 4 ≤ s.reg 0x4400_05 port →
    m.member ≠ s.member → s.waitingCommit m.ticket = none → (∀ q ∈ s.commits.requests, q.ticket ≠ m.ticket) →
    u = s.addOther { id := m.ticket } →
    p = u.drawUp { ticket := m.ticket, slot := m.slot, target := namedFrame m.target, wall := true, coordinator := some m.member,
                   asked := some (port.val, m.tag) } →
    u.judgePrepare p m.tag = .inr (a, fs) → u.domainsOff a fs ≠ [] →
    ∃ t q, exec (.prepare port m) s = .next t ∧ t.commits.requests = q :: s.commits.requests ∧ q.ticket = m.ticket ∧
      q.asked = some (port.val, m.tag) ∧ t.commits.waiting = s.commits.waiting ∧ s.entriesBut t [0x6400_02, 0x6400_05] ∧
      t.blobs = s.blobs ∧ t.shadow = s.shadow ∧ t.log = s.log ∧ t.sent = s.sent ∧ t.cells = s.cells ∧ t.still = s.still) ∧
  (∀ (s u : State) (port : Fin 24) (m : WallMsg) (p : Pending) (c : Code) (pair : Nat), s.managed = true →
    4 ≤ s.reg 0x4400_05 port → m.member ≠ s.member → s.waitingCommit m.ticket = none → (∀ q ∈ s.commits.requests, q.ticket ≠ m.ticket) →
    u = s.addOther { id := m.ticket } →
    p = u.drawUp { ticket := m.ticket, slot := m.slot, target := namedFrame m.target, wall := true, coordinator := some m.member,
                   asked := some (port.val, m.tag) } →
    u.judgePrepare p m.tag = .inl (c, pair) →
    ∃ t, exec (.prepare port m) s = .next t ∧ t.newest 0x051 (some c) ∧ t.waitingCommit m.ticket = none ∧ t.regs = s.regs ∧
      t.blobs = s.blobs ∧ t.shadow = s.shadow ∧ t.cells = s.cells ∧ t.still = s.still) ∧
  (∀ (s : State) (port : Fin 24) (m : WallMsg) (p : Pending), s.managed = true → 4 ≤ s.reg 0x4400_05 port →
    s.leading m.ticket = some p → p.members.contains m.member = true → s.past (min p.deadline m.sealTime) = false →
    ∃ t q, exec (.ready port m) s = .next t ∧ t.waitingCommit m.ticket = some q ∧ Tbl.find q.answers m.member = some m.sealTime ∧
      q.deadline = min p.deadline m.sealTime ∧ q.refusedBy = p.refusedBy ∧ t.blobs = s.blobs ∧ t.shadow = s.shadow ∧ t.log = s.log ∧ t.regs = s.regs ∧ t.sent = s.sent ∧ t.cells = s.cells ∧
      t.still = s.still) ∧
  (∀ (s : State) (port : Fin 24) (m : WallMsg) (p : Pending), s.managed = true → 4 ≤ s.reg 0x4400_05 port →
    s.leading m.ticket = some p → p.members.contains m.member = true → s.past (min p.deadline m.sealTime) = true →
    ∃ t q, exec (.ready port m) s = .next t ∧ t.waitingCommit m.ticket = some q ∧ q.answers = p.answers ∧
      q.deadline = min p.deadline m.sealTime ∧ q.refusedBy = p.refusedBy ∧ t.regs = s.regs ∧ t.blobs = s.blobs ∧
      t.shadow = s.shadow ∧ t.log = s.log ∧ t.sent = s.sent ∧ t.cells = s.cells ∧ t.still = s.still) ∧
  (∀ (s : State) (port : Fin 24) (m : WallMsg) (p : Pending), s.managed = true → 4 ≤ s.reg 0x4400_05 port →
    s.leading m.ticket = some p → p.members.contains m.member = true →
    ∃ t q, exec (.refuse port m) s = .next t ∧ t.waitingCommit m.ticket = some q ∧
      q.refusedBy = some (p.refusedBy.getD (m.member, cm m.code)) ∧ t.regs = s.regs ∧ t.blobs = s.blobs ∧
      t.shadow = s.shadow ∧ t.log = s.log ∧ t.sent = s.sent ∧ t.cells = s.cells ∧
      t.still = s.still) ∧
  (∀ (s : State) (id : Nat) (p : Pending), s.managed = true → s.leading id = some p → s.past p.deadline = true → p.holdOut = none →
    ∃ t q, exec (.decisionDeadline id) s = .next t ∧ t.waitingCommit id = some q ∧ q.go = some true ∧
      t.commits.reports = (id, p.members, p.target) :: s.commits.reports ∧ t.log = s.log ∧ t.regs = s.regs ∧ t.blobs = s.blobs ∧
      t.shadow = s.shadow ∧ t.cells = s.cells ∧
      t.still = s.still) ∧
  (∀ (s : State) (id k : Nat) (p : Pending), s.managed = true → s.leading id = some p → s.past p.deadline = true →
    p.holdOut = some k →
    ∃ t, exec (.decisionDeadline id) s = .next t ∧ t.waitingCommit id = none ∧ t.newest 0x051 (some (cm 0x08)) ∧
      (∀ x, t.ticket? id = some x → x.st = .refused ∧ x.member = k) ∧ t.cells = s.cells ∧ t.still = s.still) ∧
  (∀ (s : State) (port : Fin 24) (m : WallMsg) (p : Pending), s.managed = true → 4 ≤ s.reg 0x4400_05 port →
    s.waitingCommit m.ticket = some p → p.coordinator = some m.member → m.member ≠ s.member →
    ∃ t q, exec (.go port m) s = .next t ∧ t.waitingCommit m.ticket = some q ∧ q.go = some true ∧ t.regs = s.regs ∧
      t.blobs = s.blobs ∧ t.shadow = s.shadow ∧ t.log = s.log ∧ t.sent = s.sent ∧ t.cells = s.cells ∧ t.still = s.still) ∧
  (∀ (s : State) (port : Fin 24) (m : WallMsg) (p : Pending), s.managed = true → 4 ≤ s.reg 0x4400_05 port →
    s.waitingCommit m.ticket = some p → p.coordinator = some m.member → m.member ≠ s.member → p.lockedIn = false →
    ∃ t, exec (.abort port m) s = .next t ∧ t.waitingCommit m.ticket = none ∧ t.newest 0x051 (some (cm 0x08)) ∧
      t.plan = s.plan ∧ t.cells = s.cells ∧ t.still = s.still) ∧
  (∀ (s : State) (port : Fin 24) (m : WallMsg), s.managed = true → 4 ≤ s.reg 0x4400_05 port →
    ∃ t, exec (.applied port m) s = .next t ∧
      (∀ r ∈ s.commits.reports, r.1 = m.ticket → (r.1, r.2.1.filter (· != m.member), r.2.2) ∈ t.commits.reports) ∧
      (∀ r ∈ t.commits.reports, r.1 = m.ticket → m.member ∉ r.2.1) ∧ t.regs = s.regs ∧ t.blobs = s.blobs ∧ t.shadow = s.shadow ∧ t.log = s.log ∧
      t.sent = s.sent ∧ t.cells = s.cells ∧ t.still = s.still) ∧
  (∀ (s : State) (id w k : Nat) (ms : List Nat), s.managed = true → s.commits.reports.find? (fun r => r.1 == id) = some (id, ms, w) →
    w + 4 ≤ s.wf → k ∈ ms →
    ∃ t, exec (.appliedReportTimeout id) s = .next t ∧ (∀ r ∈ t.commits.reports, r.1 ≠ id) ∧ t.newest 0x052 (some (cm 0x09)) ∧
      t.regs = s.regs ∧ t.blobs = s.blobs ∧ t.shadow = s.shadow ∧ s.sendsLog t ∧ t.cells = s.cells ∧ t.still = s.still)

/-- R120, R260: presence of a member is kept for 300 ms; a clash while listening excludes the device; presence is sent; a listener
joins after 300 ms, and a new member number is listened for first. It says that these complete: wallPresence, presenceSend,
memberPresenceTimeout, joinListenEnd, memberNumberWrite. -/
def Obligations.MembersJoinAndLeave : Prop :=
  (∀ (s : State) (port : Fin 24) (member role pair serial : Nat), s.managed = true → 4 ≤ s.reg 0x4400_05 port → member < 64 →
    member ≠ s.member → serial ≠ Config.serialNumber.toNat →
    ∃ t, exec (.wallPresence port s.fuses.wallAlias member role pair serial) s = .next t ∧
      { number := member, serial := serial, pair := pair, heard := s.now, port := port.val } ∈ t.commits.members ∧
      bitAt t.membership member = true ∧ t.regs = s.regs ∧ t.blobs = s.blobs ∧ t.shadow = s.shadow ∧ t.sent = s.sent ∧
      t.log = s.log ∧ t.cells = s.cells ∧ t.still = s.still) ∧
  (∀ (s : State) (port : Fin 24) (role serial : Nat), s.managed = true → 4 ≤ s.reg 0x4400_05 port → s.member < 64 →
    s.reg 0x2800_06 = 1 → serial ≠ Config.serialNumber.toNat →
    ∃ t, exec (.wallPresence port s.fuses.wallAlias s.member role 0 serial) s = .next t ∧ t.reg 0x2800_06 = 2 ∧
      t.newest 0x054 (some (cm 0x0E)) ∧ (∀ n, n < 64 → bitAt t.membership n = (bitAt s.membership n || decide (n = s.member))) ∧
      { number := s.member, serial := serial, pair := 0, heard := s.now, port := port.val } ∈ t.commits.members ∧ s.ledgerBut t [regKey 0x2800_06 0] ∧ s.sendsLog t ∧ t.cells = s.cells ∧ t.still = s.still) ∧
  (∀ (s : State) (port : Fin 24) (member role pair : Nat), s.managed = true → 4 ≤ s.reg 0x4400_05 port →
    exec (.wallPresence port s.fuses.wallAlias member role pair Config.serialNumber.toNat) s = .next s) ∧
  (∀ (s : State), s.managed = true → s.presents = false → exec .presenceSend s = .next s) ∧
  (∀ (s : State), s.managed = true → s.reg 0x2800_06 = 0 → s.presents = true → (∀ a, s.commits.lastPresence = some a → a + 100 * milli ≤ s.now) →
    ∃ t, exec .presenceSend s = .next t ∧ t.commits.lastPresence = some s.now ∧ t.regs = s.regs ∧ t.blobs = s.blobs ∧
      t.shadow = s.shadow ∧ t.log = s.log ∧ t.cells = s.cells ∧ t.still = s.still) ∧
  (∀ (s : State) (m : Fin 64), s.managed = true →
    ∃ t, exec (.memberPresenceTimeout m) s = .next t ∧
      (∀ x ∈ t.commits.members, x.number = m.val → s.now < x.heard + presenceSpan) ∧
      (∀ x ∈ s.commits.members, x.number ≠ m.val → x ∈ t.commits.members) ∧ t.regs = s.regs ∧ t.blobs = s.blobs ∧
      t.shadow = s.shadow ∧ t.log = s.log ∧ t.sent = s.sent ∧ t.cells = s.cells ∧ t.still = s.still) ∧
  (∀ (s : State) (a : Nat), s.managed = true → s.commits.listenSince = some a → s.reg 0x2800_06 = 1 → a + presenceSpan ≤ s.now →
    ∃ t, exec .joinListenEnd s = .next t ∧ t.reg 0x2800_06 = 0 ∧ t.commits = s.commits ∧ s.ledgerBut t [regKey 0x2800_06 0] ∧ t.log = s.log ∧
      t.sent = s.sent ∧ t.cells = s.cells ∧
      t.still = s.still) ∧
  (∀ (s : State) (ss v : Nat), s.managed = true → s.mayWrite ss 0x2400_09 (.num v) = true → v ≠ s.member →
    ∃ t, exec (.memberNumberWrite ss v) s = .next t ∧ t.reg 0x2400_09 = v ∧ t.reg 0x2800_06 = 1 ∧
      t.commits.listenSince = some s.now ∧ s.ledgerBut t [regKey 0x2400_09 0, regKey 0x2800_06 0] ∧ t.log = s.log ∧
      t.sent = .reply ss {} :: s.sent ∧ t.cells = s.cells ∧ t.still = s.still)

/-- R178, R180, R181, R184-R187, R204: a Frame Start begins a frame with the next sequence, its origin stamp and the parameters in
force; a line of the right length is staged where its frame's slot holds it, and no other byte changes; a Frame End hands the frame
to the pipelines and opens the exposure window; a gap ends a frame, and a silent or faulty port shows it. It says that these
complete: frameStartPacket, longPacket, frameEndPacket, lineGapTimeout, signalAbsentTimeout, portFaultSecond. -/
def Obligations.CameraFramesArrive : Prop :=
  (∀ (s : State) (p vc : Fin 16) (ecc : Fin 3) (c slot : Nat) (src : Source), s.live = true → s.edgeRole = true →
    s.flag 0x3800_02 p = true → ecc.val ≠ 2 → s.contextsOn p vc = [c] → s.commits.waiting = [] → (s.ctx c).cur = none →
    (s.ctx c).owed = false → s.displayOf c = some (slot, src) → (s.ctx c).lastAcceptedFs = none →
    (s.ctx c).transfer = none → (s.stagingTaken c).contains 0 = false →
    ∃ t f, exec (.frameStartPacket p ⟨vc, ecc⟩) s = .next t ∧ (t.ctx c).cur = some f ∧ f.ctx = c ∧ f.slot = 0 ∧ f.lines = [] ∧
      f.seq = (s.reg 0x3840_18 c + 1) % 2 ^ 32 ∧ t.reg 0x3840_18 c = f.seq ∧ f.origin = s.stampCamera c f.seq ∧
      f.unlocked = (s.timeState == 2) ∧ f.generation = (s.ctx c).inEffect f.seq ∧ f.isp = s.ispSet c ∧
      f.exposure = s.exposureNs c f.generation ∧ (t.camPort p).lastFs = some s.now ∧
      s.ledgerBut t [regKey 0x3840_18 c, regKey 0x3800_07 p, regKey 0x3808_02 (channelInst p vc)] ∧ t.ingots = s.ingots ∧
      s.sendsLog t ∧ t.cells = s.cells ∧ t.still = s.still) ∧
  (∀ (s : State) (p vc : Fin 16), s.live = true → s.edgeRole = true → s.flag 0x3800_02 p = true →
    (∀ c ∈ s.portContexts p, (s.ctx c).cur = none) →
    ∃ t, exec (.frameStartPacket p ⟨vc, 2⟩) s = .next t ∧ (t.camPort p).errors = (s.camPort p).errors + 1 ∧
      t.reg 0x3808_03 (channelInst p 16) = satAdd (entryBits 0x3808_03) (s.reg 0x3808_03 (channelInst p 16)) 1 ∧
      s.ledgerBut t [regKey 0x3808_03 (channelInst p 16)] ∧ t.ctxs = s.ctxs ∧ t.sent = s.sent ∧ t.log = s.log ∧
      t.cells = s.cells ∧ t.still = s.still) ∧
  (∀ (s : State) (p vc : Fin 16) (ecc : Fin 3) (c slot : Nat) (src : Source) (dt : BitVec 6) (b : Bytes) (f : CamFrame), s.live = true →
    s.edgeRole = true → s.flag 0x3800_02 p = true → ecc.val ≠ 2 → s.contextsOn p vc = [c] → (s.ctx c).cur = some f →
    s.displayOf c = some (slot, src) → dt.toNat = f.isp.dataType → dt ≠ 0x12 →
    b.length * 8 = f.isp.width * bitsPerPixel dt.toNat → f.lines.length < f.isp.height → Memory.wf s.cells = true →
    ∃ t g, exec (.longPacket p vc dt b ecc true) s = .next t ∧ (t.ctx c).cur = some g ∧ g.lines = b :: f.lines ∧
      g.crc = crc32cRun f.crc b ∧ g.marks = f.marks ∧ g.lastPacket = s.now ∧
      (∀ a base line, base = stagingBase src (s.rawSlot c) f.slot + f.lines.length * f.isp.width * stagingBytes dt.toNat →
        line = stagedLine dt.toNat b (wholePixels dt.toNat b.length) → t.load base line.length = line ∧
        ((a < base ∨ base + line.length ≤ a) → Memory.read t.cells a = Memory.read s.cells a)) ∧
      s.ledgerBut t [regKey 0x3808_02 (channelInst p vc)] ∧ t.ingots = s.ingots ∧ t.sent = s.sent ∧ t.log = s.log ∧
      t.still = s.still) ∧
  (∀ (s : State) (p vc : Fin 16) (ecc : Fin 3) (c : Nat) (f : CamFrame), s.live = true → s.edgeRole = true →
    s.flag 0x3800_02 p = true → ecc.val ≠ 2 → s.contextsOn p vc = [c] →
    (s.ctx c).cur = some f → f.marks = 0 → f.isp.height ≤ f.lines.length → (s.ctx c).deferred = [] →
    ∃ t, exec (.frameEndPacket p ⟨vc, ecc⟩) s = .next t ∧ (t.ctx c).cur = none ∧
      (t.ctx c).waiting = (s.ctx c).waiting ++ [{ f with ended := s.now }] ∧
      (t.ctx c).window = some (s.now, s.reg 0x3840_18 c, s.windowCloses c) ∧
      t.reg 0x3840_1D c = 0 ∧ s.ledgerBut t [regKey 0x3840_1D c, regKey 0x3808_02 (channelInst p vc)] ∧ t.ingots = s.ingots ∧
      t.log = s.log ∧ t.sent = s.sent ∧ t.cells = s.cells ∧ t.still = s.still) ∧
  (∀ (s : State) (c : Fin 32) (f : CamFrame), s.live = true → (s.ctx c).cur = some f →
    f.lastPacket + s.reg 0x3840_17 c * 1000 ≤ s.now →
    ∃ t g, exec (.lineGapTimeout c) s = .next t ∧ (t.ctx c).cur = none ∧ (t.ctx c).waiting = (s.ctx c).waiting ++ [g] ∧ g.seq = f.seq ∧
      g.ended = s.now ∧ g.lines = f.lines ∧ (f.lines.length < f.isp.height → bitAt g.marks 0 = true) ∧
      s.ledgerBut t [regKey 0x3840_1C f.ctx, regKey 0x3840_1D c] ∧ t.ingots = s.ingots ∧ s.sendsLog t ∧ t.cells = s.cells ∧
      t.still = s.still) ∧
  (∀ (s : State) (p : Fin 16), s.live = true → (s.reg 0x3800_07 p = 1 ∨ s.reg 0x3800_07 p = 2) →
    (s.camPort p).lastFs.getD (s.camPort p).enabledAt + s.reg 0x3800_08 p * milli ≤ s.now →
    ∃ t, exec (.signalAbsentTimeout p) s = .next t ∧ t.reg 0x3800_07 p = 3 ∧ t.newest 0x082 (some (inc 0x08)) ∧ t.ctxs = s.ctxs ∧
      s.ledgerBut t [regKey 0x3800_07 p] ∧ t.ingots = s.ingots ∧ s.sendsLog t ∧ t.cells = s.cells ∧ t.still = s.still) ∧
  (∀ (s : State) (p : Fin 16) (n : Nat), s.live = true → s.reg 0x3800_07 p ≠ 0 →
    ∃ t, exec (.portFaultSecond p n) s = .next t ∧ (t.camPort p).errors = 0 ∧
      t.reg 0x3800_0A p = satAdd (entryBits 0x3800_0A) (s.reg 0x3800_0A p) n ∧
      (s.reg 0x3800_09 p < n + (s.camPort p).errors → t.reg 0x3800_07 p = 4) ∧ t.ctxs = s.ctxs ∧
      s.ledgerBut t [regKey 0x3800_07 p, regKey 0x3800_0A p] ∧ s.sendsLog t ∧ t.cells = s.cells ∧ t.still = s.still)

/-- R189-R192, R201: a free pipeline takes the waiting frame and an Ingot for it; a finished frame is stored and published with its
check, and its statistics block written; one whose writes failed is abandoned and counted. It says that these complete:
pipelineBind, pipelineFrameDone. -/
def Obligations.PipelinesFinishFrames : Prop :=
  (∀ (s : State) (k slot : Nat) (src : Source) (f : CamFrame), s.live = true → s.fabricWorks = true →
    (s.pipelines.find? fun k => (s.pipe k).frame.isNone) = some k → s.nextWaiting = some f → s.displayOf f.ctx = some (slot, src) →
    f.isp.coding = 0 → f.isp.vision = 0 → s.freeOf slot ≠ [] →
    ∃ t i, exec .pipelineBind s = .next t ∧ t.pipe k = { frame := some f, display := some i } ∧ i ∈ s.freeOf slot ∧
      (t.ingot i).st = .filling ∧ (t.ingot i).filler = .isp ∧ (t.ingot i).origin = f.origin ∧ (t.ingot i).seq = f.seq ∧
      (t.ingot i).marks = f.marks ∧ (∀ j, j ≠ i → t.ingot j = s.ingot j) ∧ t.regs = s.regs ∧ t.blobs = s.blobs ∧
      t.shadow = s.shadow ∧ t.log = s.log ∧ t.sent = s.sent ∧ t.cells = s.cells ∧ t.still = s.still) ∧
  (∀ (s : State) (k : Fin 4) (f : CamFrame) (i : Nat), s.live = true → s.fabricWorks = true →
    s.pipe k = { frame := some f, display := some i } → f.marks = 0 →
    (s.ingot i).st = .filling → (s.ingot i).filler = .isp →
    ∃ t, exec (.pipelineFrameDone k .ok) s = .next t ∧ t.pipe k = {} ∧ (t.ingot i).st = .ready ∧
      (t.ingot i).check = (if (s.ingot i).counted then Nat.xor f.crc 0xFFFFFFFF else 0) ∧ t.latest (s.ingot i).slot = some i ∧
      t.reg 0x3840_19 f.ctx = f.generation ∧ (t.ctx f.ctx).stats = some (f.generation, true, f.certain, f.seq) ∧
      t.blob 0x3840_1A f.ctx = f.statBlock true (f.measured f.taps) ∧
      t.cells = ((s.store (s.ingot i).base (f.display (f.image f.taps))).store (s.reg 0x3840_1F f.ctx + 8192 * (f.seq % 4))
        (f.statBlock true (f.measured f.taps))).cells ∧
      s.regsBut t [regKey 0x3840_19 f.ctx] ∧ s.blobsBut t [regKey 0x3840_1A f.ctx] ∧ t.shadow = s.shadow ∧ t.log = s.log ∧
      t.sent = s.sent ∧ t.still = s.still) ∧
  (∀ (s : State) (k : Fin 4) (f : CamFrame) (i : Nat), s.live = true → s.pipe k = { frame := some f, display := some i } →
    (s.ingot i).st = .filling →
    ∃ t, exec (.pipelineFrameDone k .timeout) s = .next t ∧ t.pipe k = {} ∧ (t.ingot i).st = .free ∧
      t.reg 0x3840_1B f.ctx = satAdd (entryBits 0x3840_1B) (s.reg 0x3840_1B f.ctx) 1 ∧
      ((t.ctx f.ctx).stats = some (f.generation, false, f.certain, f.seq) ∧
          t.cells = (s.store (s.reg 0x3840_1F f.ctx + 8192 * (f.seq % 4)) (f.statBlock false f.unmeasured)).cells ∨
        (t.ctx f.ctx).stats = (s.ctx f.ctx).stats ∧ t.cells = s.cells) ∧
      s.regsBut t [regKey 0x3840_1B f.ctx] ∧ s.blobsBut t [regKey 0x3840_1A f.ctx] ∧ t.shadow = s.shadow ∧ s.sendsLog t ∧
      t.still = s.still)

/-- R205-R207: the exposure loop steps on a whole, certain block of the last generation, once, and issues the next; the
white-balance gains move by at most an eighth; a transfer's end puts its generation in effect from k + D, or is tried again. It says
that these complete: aeStep, awbStep, exposureTransferDone, controlBusTimeout. -/
def Obligations.ExposureFollowsItsGenerations : Prop :=
  (∀ (s : State) (c : Fin 32) (e : ExpGen) (g q : Nat), s.managed = true → s.commits.waiting = [] →
    (s.ctx c).stats = some (g, true, true, q) →
    (s.ctx c).issued g = some e → s.flag 0x3840_02 c = true → g = s.reg 0x3860_0A c → s.reg 0x3860_01 c = 0 → s.profile c ≠ [] →
    (histogramMean (s.blob 0x3840_1A c)).isSome = true →
    ∃ t n, exec (.aeStep c) s = .next t ∧ (t.ctx c).stats = none ∧ t.reg 0x3860_0A c = nextGen g ∧
      (t.ctx c).gens.head? = some n ∧ n.gen = nextGen g ∧ 1 ≤ n.lines ∧ 256 ≤ n.analogue ∧ 256 ≤ n.digital ∧ n.digital ≤ 65535 ∧
      s.ledgerBut t [regKey 0x3860_0A c] ∧ t.ingots = s.ingots ∧ t.cells = s.cells ∧ t.still = s.still) ∧
  (∀ (s : State) (c : Fin 32), s.managed = true → s.flag 0x3840_02 c = true → s.reg 0x3860_07 c = 0 → (s.ctx c).balance = true →
    ∃ t, exec (.awbStep c) s = .next t ∧ (t.ctx c).balance = false ∧ (t.ctx c).wb.2.1 = (s.ctx c).wb.2.1 ∧
      (s.ctx c).wb.1 - (s.ctx c).wb.1 / 8 ≤ (t.ctx c).wb.1 ∧ (t.ctx c).wb.1 ≤ (s.ctx c).wb.1 + (s.ctx c).wb.1 / 8 ∧
      (s.ctx c).wb.2.2 - (s.ctx c).wb.2.2 / 8 ≤ (t.ctx c).wb.2.2 ∧ (t.ctx c).wb.2.2 ≤ (s.ctx c).wb.2.2 + (s.ctx c).wb.2.2 / 8 ∧
      t.regs = s.regs ∧ t.blobs = s.blobs ∧ t.shadow = s.shadow ∧ t.sent = s.sent ∧ t.log = s.log ∧ t.cells = s.cells ∧
      t.still = s.still) ∧
  (∀ (s : State) (c : Fin 32) (b : Bool) (x : ExpXfer), s.managed = true → (s.ctx c).transfer = some x →
    ∃ t, exec (.exposureTransferDone c .done b) s = .next t ∧
      (t.ctx c).inEffect (x.frame + s.reg 0x3840_0B c) = x.gen ∧
      ((s.ctx c).deferred = [] → (t.ctx c).transfer = none ∧ t.log = s.log ∧ t.sent = s.sent) ∧ t.regs = s.regs ∧
      t.blobs = s.blobs ∧ t.shadow = s.shadow ∧ t.cells = s.cells ∧ t.still = s.still) ∧
  (∀ (s : State) (c : Fin 32) (b : Bool) (x : ExpXfer), s.managed = true → (s.ctx c).transfer = some x →
    ∃ t, exec (.exposureTransferDone c .noAck b) s = .next t ∧ (t.ctx c).transfer = none ∧ t.logged 0x083 (some (inc 0x0A)) ∧
      (t.ctx c).deferred = (if x.retry then (s.ctx c).deferred else (x.gen, true) :: (s.ctx c).deferred) ∧
      (t.ctx c).effects = (s.ctx c).effects ∧ t.regs = s.regs ∧ t.blobs = s.blobs ∧ t.shadow = s.shadow ∧ s.sendsLog t ∧
      t.cells = s.cells ∧ t.still = s.still) ∧
  (∀ (s : State) (p : Fin 16) (x : BusXfer), s.managed = true → (s.camPort p).xfer = some x → x.started = true →
    ∃ t, exec (.controlBusTimeout p) s = .next t ∧ (t.camPort p).xfer = none ∧ t.reg 0x3800_0C p = 4 ∧ t.ctxs = s.ctxs ∧
      s.ledgerBut t [regKey 0x3800_0C p] ∧ t.sent = s.sent ∧ t.log = s.log ∧ t.cells = s.cells ∧ t.still = s.still) ∧
  (∀ (s : State) (p : Fin 16) (c : Nat) (x : ExpXfer), s.managed = true → (s.camPort p).xfer = none → s.portContexts p = [c] →
    (s.ctx c).transfer = some x →
    ∃ t, exec (.controlBusTimeout p) s = .next t ∧ (t.ctx c).transfer = none ∧ t.logged 0x083 (some (inc 0x0A)) ∧ t.regs = s.regs ∧
      t.blobs = s.blobs ∧ t.shadow = s.shadow ∧ s.sendsLog t ∧ t.cells = s.cells ∧ t.still = s.still)

/-- R194, R203, R208: a well-formed host transfer waits for the bus, starts when no window is open, and ends with its data, with no
acknowledgement, or timed out; a Temper table and a sensor profile of the right form go to the shadow. It says that these complete:
hostTransfer, hostTransferStart, hostTransferDone, hostTransferTimeout, temperLoad, sensorProfileWrite. -/
def Obligations.ControlBusTransfersRun : Prop :=
  (∀ (s : State) (ss p : Nat) (b q : Bytes), s.managed = true → s.mayWrite ss 0x3800_0B (.bytes b) = true →
    p = s.partOf ss 0x3800_0B → s.portProfile p = some q → s.flag 0x3800_02 p = true → hostTransferOk b = true →
    (s.camPort p).xfer = none →
    ∃ t x, exec (.hostTransfer ss b) s = .next t ∧ (t.camPort p).xfer = some x ∧ x.write = b.drop 4 ∧ x.address = field q 6 1 ∧
      x.started = false ∧ t.reg 0x3800_0C p = 1 ∧ s.ledgerBut t [regKey 0x3800_0C p] ∧ t.log = s.log ∧
      t.sent = .reply ss {} :: s.sent ∧ t.cells = s.cells ∧ t.still = s.still) ∧
  (∀ (s : State) (p : Fin 16) (x : BusXfer), s.managed = true → (s.camPort p).xfer = some x → x.started = false →
    s.hostMayStart p x = true →
    ∃ t, exec (.hostTransferStart p) s = .next t ∧ (t.camPort p).xfer = some { x with started := true } ∧
      t.sent = .i2c p x.address x.write x.read :: s.sent ∧ t.regs = s.regs ∧ t.blobs = s.blobs ∧ t.shadow = s.shadow ∧
      t.log = s.log ∧ t.cells = s.cells ∧ t.still = s.still) ∧
  (∀ (s : State) (p : Fin 16) (x : BusXfer) (d : Bytes), s.managed = true → (s.camPort p).xfer = some x → x.started = true →
    ∃ t, exec (.hostTransferDone p true d) s = .next t ∧ (t.camPort p).xfer = none ∧ t.reg 0x3800_0C p = 2 ∧
      t.blob 0x3800_0D p = d.take x.read ∧ s.regsBut t [regKey 0x3800_0C p] ∧ s.blobsBut t [regKey 0x3800_0D p] ∧
      t.shadow = s.shadow ∧ t.sent = s.sent ∧ t.log = s.log ∧ t.cells = s.cells ∧ t.still = s.still) ∧
  (∀ (s : State) (p : Fin 16) (x : BusXfer) (d : Bytes), s.managed = true → (s.camPort p).xfer = some x → x.started = true →
    ∃ t, exec (.hostTransferDone p false d) s = .next t ∧ (t.camPort p).xfer = none ∧ t.reg 0x3800_0C p = 3 ∧
      s.ledgerBut t [regKey 0x3800_0C p] ∧ t.sent = s.sent ∧ t.log = s.log ∧ t.cells = s.cells ∧ t.still = s.still) ∧
  (∀ (s : State) (p : Fin 16) (x : BusXfer), s.managed = true → (s.camPort p).xfer = some x → x.started = false →
    x.since + second ≤ s.now →
    ∃ t, exec (.hostTransferTimeout p) s = .next t ∧ (t.camPort p).xfer = none ∧ t.reg 0x3800_0C p = 4 ∧
      s.ledgerBut t [regKey 0x3800_0C p] ∧ t.sent = s.sent ∧ t.log = s.log ∧ t.cells = s.cells ∧ t.still = s.still) ∧
  (∀ (s : State) (ss i : Nat) (b : Bytes), s.managed = true → s.mayWrite ss 0x3870_02 (.bytes b) = true →
    i = s.partOf ss 0x3870_02 → temperFormed (i % 8) b = true →
    temperInRange (i % 8) (s.reg 0x3840_06 (i / 8)) (s.reg 0x3840_07 (i / 8)) b = true →
    ∃ t, exec (.temperLoad ss b) s = .next t ∧ t.shadowVal 0x3870_02 i = .bytes b ∧
      (∀ k, k ≠ regKey 0x3870_02 i → Tbl.find t.shadow k = Tbl.find s.shadow k) ∧ t.regs = s.regs ∧ t.blobs = s.blobs ∧
      t.sent = .reply ss {} :: s.sent ∧ t.log = s.log ∧ t.cells = s.cells ∧ t.still = s.still) ∧
  (∀ (s : State) (ss i : Nat) (b : Bytes), s.managed = true → s.mayWrite ss 0x3840_0D (.bytes b) = true →
    i = s.partOf ss 0x3840_0D → profileOk b = true →
    ∃ t, exec (.sensorProfileWrite ss b) s = .next t ∧ t.shadowVal 0x3840_0D i = .bytes b ∧
      (∀ k, k ≠ regKey 0x3840_0D i → Tbl.find t.shadow k = Tbl.find s.shadow k) ∧ t.regs = s.regs ∧ t.blobs = s.blobs ∧
      t.sent = .reply ss {} :: s.sent ∧ t.log = s.log ∧ t.cells = s.cells ∧ t.still = s.still)

/-- R215-R219, R221: block lock, with every lane of the port, starts Exchange with the lane's capabilities; capability, Train, Step
and Run entry blocks act as their fields say; a clean Verify steps on or enters Run; a switched rate trains, or verifies after a
fallback; the last lane brings its port into service. It says that these complete: blockLock, capabilityBlock, trainBlock,
verifyEnd, stepBlock, rateSwitchDone, runEntryBlock, runEntryDone. -/
def Obligations.LanesComeUp : Prop :=
  (∀ (s : State) (l : Fin 52), s.live = true → s.reg 0x4000_02 l = 1 → s.laneMates l = [l.val] →
    ∃ t, exec (.blockLock l) s = .next t ∧ t.reg 0x4000_02 l = 3 ∧ (t.lane l).since = s.now ∧ (t.lane l).stepDone = false ∧
      t.blocksOf l = List.replicate 14 idleBlock ++ s.capabilityB l :: s.capabilityA l :: s.blocksOf l ∧
      s.ledgerBut t [regKey 0x4000_02 l] ∧ t.log = s.log ∧ t.cells = s.cells ∧ t.still = s.still) ∧
  (∀ (s : State) (l : Fin 52) (k : Nat), s.live = true → s.reg 0x4000_02 l = 1 → l.val ∈ s.laneMates l → k ∈ s.laneMates l → k ≠ l.val →
    (s.reg 0x4000_02 k ≠ 1 ∨ (s.lane k).stepDone = false) →
    exec (.blockLock l) s = .next (s.setLane l { s.lane l with stepDone := true })) ∧
  (∀ (s : State) (l : Fin 52) (w : BitVec 64) (n : Nat), s.live = true → bits w.toNat 63 56 = 0x2D → s.reg 0x4000_02 l = 3 →
    (s.lane l).capSeen < 3 →
    ∃ t, exec (.capabilityBlock l ⟨w, n⟩) s = .next t ∧ (t.lane l).capA = w.toNat ∧ (t.lane l).capHalf = true ∧
      (t.lane l).capSeen = (if withBit (s.lane l).capA 41 false = withBit w.toNat 41 false then (s.lane l).capSeen else 0) ∧
      t.blob 0x4000_10 l = beBytes 8 w.toNat ++ beBytes 8 (s.lane l).capB ∧ s.blobsBut t [regKey 0x4000_10 l] ∧ 
      t.reg 0x4000_08 l = (if n = 0 then s.reg 0x4000_08 l else satAdd (entryBits 0x4000_08) (s.reg 0x4000_08 l) n) ∧ s.regsBut t [regKey 0x4000_08 l] ∧
      t.shadow = s.shadow ∧ t.sent = s.sent ∧ t.log = s.log ∧ t.cells = s.cells ∧ t.still = s.still) ∧
  (∀ (s : State) (l : Fin 52) (w : BitVec 64) (n : Nat), s.live = true → blockTypes.contains (bits w.toNat 63 56) = false →
    ∃ t, exec (.capabilityBlock l ⟨w, n⟩) s = .next t ∧ t.reg 0x4000_08 l = satAdd (entryBits 0x4000_08)
        (if n = 0 then s.reg 0x4000_08 l else satAdd (entryBits 0x4000_08) (s.reg 0x4000_08 l) n) 1 ∧
      s.ledgerBut t [regKey 0x4000_08 l] ∧ t.lanes = s.lanes ∧ t.sent = s.sent ∧ t.log = s.log ∧ t.cells = s.cells ∧
      t.still = s.still) ∧
  (∀ (s : State) (l : Fin 52) (w : BitVec 64) (n : Nat) (m : BitVec 8), s.live = true → bits w.toNat 63 56 = 0x55 → s.reg 0x4000_02 l = 4 →
    bits w.toNat 40 38 = s.reg 0x4000_03 l → (s.lane l).selfDone = false →
    ∃ t b, exec (.trainBlock l ⟨w, n⟩ m false) s = .next t ∧ t.reg 0x4000_07 l = bits w.toNat 55 53 ∧
      (t.lane l).want = min 7 ((s.lane l).want + 1) ∧ (t.lane l).merits = ((s.lane l).want, m.toNat) :: (s.lane l).merits ∧
      (t.lane l).peerDone = bitAt w.toNat 41 ∧ t.blocksOf l = b :: s.blocksOf l ∧ bits b 55 53 = min 7 ((s.lane l).want + 1) ∧
      bits b 52 50 = bits w.toNat 55 53 ∧ bits b 49 42 = m.toNat ∧ t.reg 0x4000_08 l = (if n = 0 then s.reg 0x4000_08 l else satAdd (entryBits 0x4000_08) (s.reg 0x4000_08 l) n) ∧
      s.ledgerBut t [regKey 0x4000_07 l, regKey 0x4000_08 l] ∧ t.log = s.log ∧
      t.cells = s.cells ∧ t.still = s.still) ∧
  (∀ (s : State) (l : Fin 52) (r : Nat), s.live = true → s.reg 0x4000_02 l = 5 → (s.lane l).stepDone = false →
    (s.lane l).since + milli ≤ s.now → (s.lane l).solo = .no → s.laneMates l = [l.val] → (s.lane l).finalRate = false →
    s.nextRate [l.val] (s.reg 0x4000_03 l) = some r →
    ∃ t, exec (.verifyEnd l 0) s = .next t ∧ t.reg 0x4000_02 l = 6 ∧ (t.lane l).since = s.now ∧
      (t.lane l).rates = (s.reg 0x4000_03 l, s.reg 0x4000_07 l) :: (s.lane l).rates ∧ s.ledgerBut t [regKey 0x4000_02 l] ∧
      t.log = s.log ∧ t.cells = s.cells ∧ t.still = s.still) ∧
  (∀ (s : State) (l : Fin 52), s.live = true → s.reg 0x4000_02 l = 5 → (s.lane l).stepDone = false →
    (s.lane l).since + milli ≤ s.now → (s.lane l).solo = .no → s.laneMates l = [l.val] →
    ((s.lane l).finalRate = true ∨ s.nextRate [l.val] (s.reg 0x4000_03 l) = none) →
    ∃ t, exec (.verifyEnd l 0) s = .next t ∧ t.reg 0x4000_02 l = 7 ∧ (t.lane l).since = s.now ∧
      (t.lane l).rates = (s.reg 0x4000_03 l, s.reg 0x4000_07 l) :: (s.lane l).rates ∧
      (t.blocksOf l).length = (s.blocksOf l).length + 128 ∧ s.ledgerBut t [regKey 0x4000_02 l] ∧
      t.log = s.log ∧ t.cells = s.cells ∧ t.still = s.still) ∧
  (∀ (s : State) (l : Fin 52) (w : BitVec 64) (n : Nat), s.live = true → bits w.toNat 63 56 = 0x66 → s.reg 0x4000_02 l = 6 →
    (s.lane l).stepDone = false → (s.lane l).finalRate = false → l.val ∈ s.laneMates l →
    s.nextRate (s.laneMates l) (s.reg 0x4000_03 l) = some (bits w.toNat 55 53) → (s.lane l).leads = true → bitAt w.toNat 51 = true →
    ∃ t, exec (.stepBlock l ⟨w, n⟩) s = .next t ∧ t.lane l = { s.lane l with stepTo := some (bits w.toNat 55 53), stepDone := true } ∧
      t.reg 0x4000_08 l = (if n = 0 then s.reg 0x4000_08 l else satAdd (entryBits 0x4000_08) (s.reg 0x4000_08 l) n) ∧
      s.ledgerBut t [regKey 0x4000_08 l] ∧ t.sent = s.sent ∧ t.log = s.log ∧ t.cells = s.cells ∧ t.still = s.still) ∧
  (∀ (s : State) (l : Fin 52) (w : BitVec 64) (n : Nat), s.live = true → bits w.toNat 63 56 = 0x66 → s.reg 0x4000_02 l = 6 →
    (s.lane l).stepDone = false → (s.lane l).finalRate = false → l.val ∈ s.laneMates l →
    s.nextRate (s.laneMates l) (s.reg 0x4000_03 l) = some (bits w.toNat 55 53) → (s.lane l).leads = false → bitAt w.toNat 52 = true →
    ∃ t b, exec (.stepBlock l ⟨w, n⟩) s = .next t ∧ (t.lane l).stepTo = some (bits w.toNat 55 53) ∧ (t.lane l).stepDone = true ∧
      t.blocksOf l = b :: s.blocksOf l ∧ bits b 63 56 = 0x66 ∧ bits b 55 53 = bits w.toNat 55 53 ∧ bitAt b 51 = true ∧
      t.reg 0x4000_08 l = (if n = 0 then s.reg 0x4000_08 l else satAdd (entryBits 0x4000_08) (s.reg 0x4000_08 l) n) ∧
      s.ledgerBut t [regKey 0x4000_08 l] ∧ t.log = s.log ∧ t.cells = s.cells ∧ t.still = s.still) ∧
  (∀ (s : State) (l : Fin 52) (r : Nat), s.live = true → (s.lane l).stepTo = some r → s.reg 0x4000_02 l = 6 → (s.lane l).finalRate = true →
    ∃ t, exec (.rateSwitchDone l) s = .next t ∧ t.reg 0x4000_02 l = 5 ∧ t.reg 0x4000_03 l = r ∧ (t.lane l).stepTo = none ∧
      t.blocksOf l = idleBlock :: s.blocksOf l ∧ s.ledgerBut t [regKey 0x4000_02 l, regKey 0x4000_03 l] ∧ t.log = s.log ∧
      t.cells = s.cells ∧ t.still = s.still) ∧
  (∀ (s : State) (l : Fin 52) (r : Nat), s.live = true → (s.lane l).stepTo = some r → s.reg 0x4000_02 l = 6 → (s.lane l).finalRate = false →
    (∀ k ∈ s.laneMates l, s.reg 0x4000_02 k = 6 → (s.lane k).stepDone = true) →
    ∃ t b, exec (.rateSwitchDone l) s = .next t ∧ t.reg 0x4000_02 l = 4 ∧ t.reg 0x4000_03 l = r ∧ (t.lane l).want = 0 ∧
      (t.lane l).stepTo = none ∧ t.blocksOf l = b :: s.blocksOf l ∧ s.ledgerBut t [regKey 0x4000_02 l, regKey 0x4000_03 l] ∧
      t.log = s.log ∧ t.cells = s.cells ∧ t.still = s.still) ∧
  (∀ (s : State) (l : Fin 52) (w : BitVec 64) (n : Nat), s.live = true → bits w.toNat 63 56 = 0x78 → s.reg 0x4000_02 l = 7 →
    ∃ t, exec (.runEntryBlock l ⟨w, n⟩) s = .next t ∧ (t.lane l).firstCount = bits w.toNat 47 32 ∧ t.reg 0x4000_08 l = (if n = 0 then s.reg 0x4000_08 l else satAdd (entryBits 0x4000_08) (s.reg 0x4000_08 l) n) ∧
      s.ledgerBut t [regKey 0x4000_08 l] ∧ t.sent = s.sent ∧
      t.log = s.log ∧ t.cells = s.cells ∧ t.still = s.still) ∧
  (∀ (s : State) (l : Fin 52) (p : Nat), s.live = true → l.val < 48 → s.reg 0x4000_02 l = 7 → s.portOfLane l = some p → p < 24 →
    s.reg 0x4400_09 p = 1 → (∀ k ∈ s.portLanes p, k ≠ l.val → s.reg 0x4000_02 k = 8) →
    ∃ t, exec (.runEntryDone l) s = .next t ∧ t.reg 0x4000_02 l = 8 ∧ (t.lane l).fails = 0 ∧ t.reg 0x4400_09 p = 2 ∧
      bitAt (t.reg 0x1010_05) p = true ∧ t.logged 0x090 (some (sw 0x04)) ∧
      t.reg 0x2400_0A = (s.reg 0x2400_0A + 1) % 2 ^ 32 ∧
      s.entriesBut t [0x2400_0A, 0x4000_02, 0x4400_09, 0x1010_05, 0x2800_06, 0x4808_06, 0x4800_06] ∧ t.cells = s.cells ∧ t.still = s.still) ∧
  (∀ (s : State) (l : Fin 52), s.live = true → l.val < 48 → s.reg 0x4000_02 l = 7 → s.portOfLane l = none →
    ∃ t, exec (.runEntryDone l) s = .next t ∧ t.reg 0x4000_02 l = 8 ∧ (t.lane l).fails = 0 ∧
      t.reg 0x2400_0A = (s.reg 0x2400_0A + 1) % 2 ^ 32 ∧ s.ledgerBut t [regKey 0x2400_0A 0, regKey 0x4000_02 l] ∧
      t.newest 0x090 (some (sw 0x04)) ∧ t.ports = s.ports ∧ t.cells = s.cells ∧ t.still = s.still)

/-- R214, R215, R217, R219, R220: lost block lock counts its sixteen headers and searches again; a lane that stays in Detect or
Exchange backs its port off, and returns to Detect when the back-off ends; one that stays in Train falls back to its last rate. It
says that these complete: blockLockLoss, detectTimeout, exchangeTimeout, backOffExpiry, trainTimeout. -/
def Obligations.LanesFallBack : Prop :=
  (∀ (s : State) (l : Fin 52), s.live = true → s.reg 0x4000_02 l ∈ [3, 4, 5, 6, 7] →
    ∃ t, exec (.blockLockLoss l) s = .next t ∧ t.reg 0x4000_02 l = 1 ∧ (t.lane l).capSeen = 0 ∧ (t.lane l).acked = false ∧
      t.reg 0x4000_08 l = satAdd (entryBits 0x4000_08) (s.reg 0x4000_08 l) 16 ∧
      s.ledgerBut t [regKey 0x4000_02 l, regKey 0x4000_03 l, regKey 0x4000_08 l] ∧ t.sent = s.sent ∧ t.log = s.log ∧
      t.cells = s.cells ∧ t.still = s.still) ∧
  (∀ (s : State) (l : Fin 52), s.live = true → l.val < 48 → (s.lane l).solo = .no → l.val ∈ s.laneMates l →
    (∀ k ∈ s.laneMates l, k < 52) → s.reg 0x4000_02 l = 1 → (s.lane l).since + milli ≤ s.now →
    ∃ t, exec (.detectTimeout l) s = .next t ∧ t.reg 0x4000_02 l = 2 ∧ t.reg 0x4000_03 l = 0xFF ∧ (s.lane l).fails < (t.lane l).fails ∧
      (t.lane l).since = s.now ∧ (s.unlimited 0x090 → t.newest 0x090 (some (sw 0x01))) ∧ s.entriesBut t [0x4000_02, 0x4000_03] ∧
      t.blobs = s.blobs ∧ t.shadow = s.shadow ∧ s.sendsLog t ∧ t.cells = s.cells ∧ t.still = s.still) ∧
  (∀ (s : State) (l : Fin 52), s.live = true → l.val < 48 → (s.lane l).solo = .no → l.val ∈ s.laneMates l →
    (∀ k ∈ s.laneMates l, k < 52) → s.reg 0x4000_02 l = 3 → (s.lane l).since + 2 * milli ≤ s.now →
    ∃ t, exec (.exchangeTimeout l) s = .next t ∧ t.reg 0x4000_02 l = 2 ∧ t.reg 0x4000_03 l = 0xFF ∧ (s.lane l).fails < (t.lane l).fails ∧
      (t.lane l).since = s.now ∧ (s.unlimited 0x090 → t.newest 0x090 (some (sw 0x01))) ∧ s.entriesBut t [0x4000_02, 0x4000_03] ∧
      t.blobs = s.blobs ∧ t.shadow = s.shadow ∧ s.sendsLog t ∧ t.cells = s.cells ∧ t.still = s.still) ∧
  (∀ (s : State) (l : Fin 52), s.live = true → (s.lane l).solo = .no → l.val ∈ s.laneMates l → (∀ k ∈ s.laneMates l, k < 52) →
    s.reg 0x4000_02 l = 2 → (s.lane l).since + s.backOffTime l ≤ s.now →
    ∃ t, exec (.backOffExpiry l) s = .next t ∧ t.reg 0x4000_02 l = 1 ∧ t.reg 0x4000_03 l = 0 ∧ (t.lane l).seed < 2 ^ 31 ∧
      (t.lane l).fails = (s.lane l).fails ∧ (t.blocksOf l).head? = some idleBlock ∧
      t.reg 0x4000_06 l = 0xFF ∧ s.entriesBut t [0x4000_02, 0x4000_03, 0x4000_06, 0x4000_0F] ∧ t.log = s.log ∧ t.cells = s.cells ∧ t.still = s.still) ∧
  (∀ (s : State) (l : Fin 52) (r q : Nat) (rest : List (Nat × Nat)), s.live = true → l.val < 48 → (s.lane l).solo = .no →
    s.laneMates l = [l.val] → s.reg 0x4000_02 l = 4 → (s.lane l).since + 5 * milli ≤ s.now → (s.lane l).rates = (r, q) :: rest →
    ∃ t, exec (.trainTimeout l) s = .next t ∧ t.reg 0x4000_02 l = 6 ∧ (t.lane l).stepTo = some r ∧ (t.lane l).finalRate = true ∧
      t.reg 0x4000_07 l = q ∧ (t.lane l).rates = rest ∧ t.newest 0x091 (some (sw 0x03)) ∧
      s.ledgerBut t [regKey 0x4000_02 l, regKey 0x4000_07 l] ∧ s.sendsLog t ∧ t.cells = s.cells ∧ t.still = s.still) ∧
  (∀ (s : State) (l : Fin 52), s.live = true → l.val < 48 → (s.lane l).solo = .no → s.laneMates l = [l.val] → s.reg 0x4000_02 l = 4 →
    (s.lane l).since + 5 * milli ≤ s.now → (s.lane l).rates = [] →
    ∃ t, exec (.trainTimeout l) s = .next t ∧ t.reg 0x4000_02 l = 2 ∧ t.reg 0x4000_03 l = 0xFF ∧
      s.ledgerBut t [regKey 0x4000_02 l, regKey 0x4000_03 l] ∧ s.sendsLog t ∧ t.cells = s.cells ∧ t.still = s.still)

/-- R222, R223, R227, R228, R230, R231, R233, R234: a port sends its anchors with their counts and fills every slot; a lane in lock
takes its number from a good anchor, and a bad or missed one is counted; a faulty lane gives its place to a ready spare; an idle
port banks and wakes. It says that these complete: anchorIntervalSend, anchorReceived, anchorMissed, elasticBufferFault,
clockLockLoss, bankedIdleTimeout, bankedExit. -/
def Obligations.LanesRunOnAnchors : Prop :=
  (∀ (s : State) (p : Fin 24) (w : Bool), s.live = true → s.reg 0x4400_09 p = 2 → (s.port p).bankReq = false →
    (∀ k, k < s.reg 0x4400_04 p → s.reg 0x4000_02 (s.carrierOf p k) ≠ 9) → (∀ o, (s.output o).trailerDue = false) →
    ∃ t, exec (.anchorIntervalSend p w) s = .next t ∧ (t.port p).anchorCount = ((s.port p).anchorCount + 1) % 65536 ∧
      (∀ k, k < s.reg 0x4400_04 p → ∃ slack line,
        Sent.anchor (s.carrierOf p k) (s.anchorOf p k (s.port p).anchorCount (s.carrierOf p k)) slack line ∈ t.sent) ∧
      (∀ i, i < 8 * s.reg 0x4400_04 p → ∃ c, Sent.cell p ((s.port p).anchorCount * 8 * s.reg 0x4400_04 p + i) c ∈ t.sent) ∧
      s.entriesBut t [0x4000_02, 0x4000_0E] ∧ ((∀ l ∈ s.readySpares p, s.reg 0x4000_02 l ≠ 8) → s.entriesBut t [0x4000_0E]) ∧ t.blobs = s.blobs ∧ t.shadow = s.shadow ∧ t.log = s.log ∧ t.cells = s.cells ∧ t.still = s.still) ∧
  (∀ (s : State) (p : Fin 24), s.live = true → s.reg 0x4400_09 p = 2 → (s.port p).bankReq = true → (s.port p).outbox = [] →
    ∃ t, exec (.anchorIntervalSend p false) s = .next t ∧ t.reg 0x4400_09 p = 4 ∧
      (∀ k, k < s.reg 0x4400_04 p → t.reg 0x4000_02 (s.carrierOf p k) = 9) ∧ s.entriesBut t [0x4000_02, 0x4000_0E, 0x4400_09] ∧
      t.log = s.log ∧ t.cells = s.cells ∧ t.still = s.still) ∧
  (∀ (s : State) (l : Fin 52) (p : Nat) (w : BitVec 64) (sk fill : Nat), s.live = true → s.portOfLane l = some p → s.reg 0x4000_02 l = 8 →
    2 ≤ (s.lane l).anchorLock → (s.lane l).carries = none →
    bits w.toNat 63 40 = 0x7FF8A5 → w.toNat % 256 = crc8 (beBytes 7 (w.toNat / 256)) → (s.readySpares p).contains l.val = false →
    bits w.toNat 39 32 < s.reg 0x4400_04 p → bits w.toNat 39 32 ≠ 0 → sk ≤ 20 → bitAt (bits w.toNat 15 8) 3 = false →
    bitAt (s.reg 0x4000_05 l) 4 = false →
    (∀ k ∈ s.carriers p, k ≠ l.val → s.reg 0x4000_02 k = 8 → s.reg 0x4000_06 k ≠ bits w.toNat 39 32) →
    (s.port p).backFrom ≠ some l.val → (s.port p).peerReq = none →
    ∃ t, exec (.anchorReceived l w sk fill 0) s = .next t ∧ t.reg 0x4000_06 l = bits w.toNat 39 32 ∧
      t.reg 0x4000_19 l = bits w.toNat 31 16 ∧ (t.lane l).lostRun = 0 ∧ (t.lane l).mayBank = bitAt (bits w.toNat 15 8) 4 ∧
      s.ledgerBut t [regKey 0x4000_06 l, regKey 0x4000_0A l, regKey 0x4000_19 l] ∧ t.ports = s.ports ∧
      t.log = s.log ∧ t.sent = s.sent ∧ t.cells = s.cells ∧ t.still = s.still) ∧
  (∀ (s : State) (l : Fin 52) (p : Nat) (w : BitVec 64) (sk fill : Nat), s.live = true → s.portOfLane l = some p → s.reg 0x4000_02 l = 8 →
    (s.lane l).anchorLock = 0 → (s.lane l).carries = none →
    bits w.toNat 63 40 = 0x7FF8A5 → w.toNat % 256 = crc8 (beBytes 7 (w.toNat / 256)) →
    ∃ t, exec (.anchorReceived l w sk fill 0) s = .next t ∧ t.lane l = { s.lane l with anchorLock := 1, lostRun := 0 } ∧
      s.ledgerBut t [regKey 0x4000_0A l] ∧ t.log = s.log ∧ t.sent = s.sent ∧ t.cells = s.cells ∧ t.still = s.still) ∧
  (∀ (s : State) (l : Fin 52) (p : Nat) (w : BitVec 64) (sk fill : Nat), s.live = true → s.portOfLane l = some p → s.reg 0x4000_02 l = 8 →
    2 ≤ (s.lane l).anchorLock → bits w.toNat 63 40 = 0x7FF8A5 → w.toNat % 256 ≠ crc8 (beBytes 7 (w.toNat / 256)) →
    (s.lane l).blockErr + 1 < s.reg 0x4000_0D l → (s.lane l).blockN + 1 < 1024 →
    ∃ t, exec (.anchorReceived l w sk fill 0) s = .next t ∧ t.reg 0x4000_08 l = satAdd (entryBits 0x4000_08) (s.reg 0x4000_08 l) 1 ∧
      (t.lane l).blockErr = (s.lane l).blockErr + 1 ∧ (t.lane l).lostRun = 0 ∧
      s.ledgerBut t [regKey 0x4000_08 l, regKey 0x4000_0A l] ∧ t.log = s.log ∧ t.sent = s.sent ∧ t.cells = s.cells ∧
      t.still = s.still) ∧
  (∀ (s : State) (l : Fin 52), s.live = true → s.reg 0x4000_02 l = 8 → (s.lane l).mayBank = false → 2 ≤ (s.lane l).anchorLock →
    (s.lane l).lostRun = 0 → (s.lane l).blockErr + 1 < s.reg 0x4000_0D l →
    ∃ t, exec (.anchorMissed l) s = .next t ∧ t.reg 0x4000_09 l = satAdd (entryBits 0x4000_09) (s.reg 0x4000_09 l) 1 ∧
      (t.lane l).lostRun = 1 ∧ s.ledgerBut t [regKey 0x4000_09 l] ∧ t.log = s.log ∧ t.sent = s.sent ∧ t.cells = s.cells ∧
      t.still = s.still) ∧
  (∀ (s : State) (l : Fin 52) (p x : Nat) (rest : List Nat), s.live = true → s.reg 0x4000_02 l = 8 → l.val < 48 →
    s.portOfLane l = some p → s.readySpares p = x :: rest → (s.readySpares p).contains l.val = false → (s.lane l).carries = none →
    (s.port p).substReq = none → s.recover.queue.length < 8 → x < 52 →
    ∃ t, exec (.elasticBufferFault l) s = .next t ∧ t.reg 0x4000_02 l = 11 ∧ (s.reg 0x4000_02 x = 8 ∨ s.reg 0x4000_02 x = 9 ∧ (s.lane x).since + 100 ≤ s.now → t.reg 0x4000_02 x = 8) ∧
      (t.lane x).carries = some l.val ∧
      (t.lane x).seed = (s.lane l).seed ∧ t.recover.queue = s.recover.queue ++ [.laneRetrain l.val] ∧
      t.logged 0x091 (some (sw 0x0A)) ∧ t.newest 0x092 (some (sw 0x07)) ∧
      s.entriesBut t [0x2400_0A, 0x4000_02, 0x400C_03, 0x400C_04] ∧ t.cells = s.cells ∧ t.still = s.still) ∧
  (∀ (s : State) (l : Fin 52) (p x : Nat) (rest : List Nat), s.live = true → s.reg 0x4000_02 l = 8 → l.val < 48 →
    s.portOfLane l = some p → s.readySpares p = x :: rest → (s.readySpares p).contains l.val = false → (s.lane l).carries = none →
    (s.port p).substReq = none → s.recover.queue.length < 8 → x < 52 →
    ∃ t, exec (.clockLockLoss l) s = .next t ∧ t.reg 0x4000_02 l = 11 ∧ (s.reg 0x4000_02 x = 8 ∨ s.reg 0x4000_02 x = 9 ∧ (s.lane x).since + 100 ≤ s.now → t.reg 0x4000_02 x = 8) ∧
      (t.lane x).carries = some l.val ∧
      (t.lane x).seed = (s.lane l).seed ∧ t.recover.queue = s.recover.queue ++ [.laneRetrain l.val] ∧
      t.logged 0x091 (some (sw 0x06)) ∧ t.newest 0x092 (some (sw 0x07)) ∧
      s.entriesBut t [0x2400_0A, 0x4000_02, 0x400C_03, 0x400C_04] ∧ t.cells = s.cells ∧ t.still = s.still) ∧
  (∀ (s : State) (p : Fin 24), s.live = true → s.reg 0x4400_09 p = 2 → 2 ≤ s.portRate p → s.portStreams p = false →
    (s.port p).idleSince + s.reg 0x4000_0C (s.reg 0x4400_03 p) * 1000 ≤ s.now →
    exec (.bankedIdleTimeout p) s = .next (s.setPort p { s.port p with bankReq := true })) ∧
  (∀ (s : State) (p : Fin 24), s.live = true → s.reg 0x4400_09 p = 4 → (s.port p).parked = false → s.bankedLongEnough p = true →
    ∃ t, exec (.bankedExit p) s = .next t ∧ t.reg 0x4400_09 p = 2 ∧ (t.port p).bankReq = false ∧ (t.port p).idleSince = s.now ∧
      (∀ k, k < s.reg 0x4400_04 p → t.reg 0x4000_02 (s.carrierOf p k) = 8) ∧
      (∀ k, k < s.reg 0x4400_04 p → (s.blocksOf (s.carrierOf p k)).length + 128 ≤ (t.blocksOf (s.carrierOf p k)).length) ∧
      s.entriesBut t [0x4000_02, 0x4400_09] ∧ t.log = s.log ∧ t.cells = s.cells ∧ t.still = s.still)

/-- R236-R239, R338: a retrain hands a lane's place to a ready spare, and a switch-back, queued as a recovery action, returns it
once two good anchors have come; injected and found errors are counted; a loopback request is granted or refused by the lane's
setting. It says that these complete: retrain, switchBackLane, recoveryActionStart, anchorReceived, errorInjection,
testPatternCheckerLock, loopbackBlock. -/
def Obligations.LanesAreTestedAndSwitchedBack : Prop :=
  (∀ (s : State) (ss v l p x : Nat) (rest : List Nat), s.managed = true → s.mayWrite ss 0x4000_17 (.num v) = true →
    l = s.partOf ss 0x4000_17 → s.portOfLane l = some p → s.reg 0x4000_02 l = 8 → s.anyRetrain = false → (s.port p).substReq = none →
    (s.readySpares p).contains l = false → s.readySpares p = x :: rest → s.recover.queue.length < 8 →
    ∃ t, exec (.retrain ss v) s = .next t ∧ (t.lane x).carries = some (s.carried l) ∧ (t.lane x).ready = false ∧
      t.recover.queue = s.recover.queue ++ [.laneRetrain l] ∧
      t.newest 0x092 (some (sw 0x07)) ∧ s.entriesBut t [0x2400_0A, 0x4000_02, 0x400C_03, 0x400C_04] ∧
      t.sent.head? = some (.reply ss {}) ∧ t.cells = s.cells ∧ t.still = s.still) ∧
  (∀ (s : State) (ss v k : Nat), s.managed = true → s.mayWrite ss 0x5810_06 (.num v) = true → s.servingLane v = some k →
    (s.lane v).ready = true → s.recover.queue.length < 8 →
    ∃ t, exec (.switchBackLane ss v) s = .next t ∧ t.recover.queue = s.recover.queue ++ [.laneBack v] ∧
      t.recover.active = s.recover.active ∧ t.lanes = s.lanes ∧ t.ports = s.ports ∧ t.regs = s.regs ∧ t.blobs = s.blobs ∧
      t.shadow = s.shadow ∧ t.log = s.log ∧ t.sent = .reply ss {} :: s.sent ∧ t.cells = s.cells ∧ t.still = s.still) ∧
  (∀ (s : State) (v k p : Nat) (rest : List Recovery), s.managed = true → s.recovering = 0 →
    s.recover.queue = .laneBack v :: rest → s.servingLane v = some k → s.portOfLane v = some p → (s.lane v).ready = true →
    s.portInService p = true → (s.port p).substReq = none →
    ∃ t, exec .recoveryActionStart s = .next t ∧ t.recover.queue = rest ∧ t.recover.active = some (.laneBack v) ∧
      (t.lane v).carries = some v ∧ (t.lane v).ready = false ∧ (t.lane v).seed = (s.lane k).seed ∧ (t.lane k).carries = none ∧
      (t.port p).substReq = some (v - s.reg 0x4400_03 p) ∧ (t.port p).backFrom = some k ∧
      s.entriesBut t [0x4000_02, 0x400C_03] ∧ t.log = s.log ∧ t.cells = s.cells ∧ t.still = s.still) ∧
  (∀ (s : State) (l : Fin 52) (p k : Nat) (w : BitVec 64) (fill : Nat), s.live = true → s.portOfLane l = some p →
    s.reg 0x4000_02 l = 8 → 2 ≤ (s.lane l).anchorLock → (s.lane l).carries = some l.val → (s.port p).backFrom = some k → k ≠ l.val →
    (s.port p).substReq = some (bits w.toNat 39 32) → (s.port p).substGood = 1 → (s.port p).substLater = none →
    bits w.toNat 63 40 = 0x7FF8A5 → w.toNat % 256 = crc8 (beBytes 7 (w.toNat / 256)) →
    bits w.toNat 39 32 < s.reg 0x4400_04 p → bits w.toNat 39 32 ≠ 0 → bitAt (bits w.toNat 15 8) 3 = false →
    bitAt (s.reg 0x4000_05 l) 4 = false → (s.readySpares p).contains l.val = false → (s.port p).peerReq = none →
    (∀ j ∈ s.carriers p, j ≠ l.val → s.reg 0x4000_02 j = 8 → s.reg 0x4000_06 j ≠ bits w.toNat 39 32) →
    ∃ t, exec (.anchorReceived l w 0 fill 0) s = .next t ∧ (t.lane l).carries = none ∧ (t.port p).backFrom = none ∧
      (t.port p).substReq = none ∧ t.newest 0x0D6 (some (pa 0x0D)) ∧
      (s.recover.active = some (.laneBack l.val) → t.recover.active = none) ∧
      t.reg 0x2400_0A = (s.reg 0x2400_0A + 1) % 2 ^ 32 ∧ t.cells = s.cells ∧ t.still = s.still) ∧
  (∀ (s : State) (l : Fin 52), s.live = true → s.reg 0x4000_13 l ≠ 0 → s.reg 0x4000_13 l ≤ (s.lane l).sinceFlip →
    (s.reg 0x4000_02 l = 8 ∧ bitAt s.fuses.policy 7 = false ∨ s.reg 0x4000_02 l = 10) →
    ∃ t, exec (.errorInjection l) s = .next t ∧ t.lane l = { s.lane l with flipNext := true, sinceFlip := 0 } ∧
      t.reg 0x4000_14 l = (if s.reg 0x4000_02 l = 10 ∧ s.reg 0x4000_11 l ≠ 0 then s.reg 0x4000_14 l
        else satAdd (entryBits 0x4000_14) (s.reg 0x4000_14 l) 1) ∧
      s.ledgerBut t [regKey 0x4000_14 l] ∧ t.sent = s.sent ∧ t.log = s.log ∧ t.cells = s.cells ∧ t.still = s.still) ∧
  (∀ (s : State) (l : Fin 52), s.reg 0x4000_02 l = 8 → bitAt s.fuses.policy 7 = true → exec (.errorInjection l) s = .next s) ∧
  (∀ (s : State) (l : Fin 52) (e n : Nat), s.live = true → s.reg 0x4000_02 l = 10 → s.reg 0x4000_11 l ≠ 0 →
    ∃ t, exec (.testPatternCheckerLock l e n) s = .next t ∧ t.reg 0x4000_16 l = 1 ∧
      t.reg 0x4000_14 l = satAdd (entryBits 0x4000_14) (s.reg 0x4000_14 l) e ∧
      t.reg 0x4000_15 l = satAdd (entryBits 0x4000_15) (s.reg 0x4000_15 l) n ∧
      s.ledgerBut t [regKey 0x4000_14 l, regKey 0x4000_15 l, regKey 0x4000_16 l] ∧ t.lanes = s.lanes ∧ t.sent = s.sent ∧
      t.log = s.log ∧ t.cells = s.cells ∧ t.still = s.still) ∧
  (∀ (s : State) (l : Fin 52) (w : BitVec 64) (n : Nat), s.live = true → bits w.toNat 63 56 = 0x99 → bitAt w.toNat 53 = false →
    bits w.toNat 55 54 = 1 → (s.lane l).solo ≠ .loop →
    ∃ t, exec (.loopbackBlock l ⟨w, n⟩) s = .next t ∧
      (bitAt (s.reg 0x4000_12 l) 7 = true → (t.lane l).looped = true ∧ t.log = s.log ∧
        t.blocksOf l = withBit (w.toNat / 2 ^ 50 * 2 ^ 50) 53 true :: s.blocksOf l) ∧
      (bitAt (s.reg 0x4000_12 l) 7 = false → (t.lane l).looped = (s.lane l).looped ∧ t.newest 0x095 (some (sw 0x0F)) ∧
        t.blocksOf l = w.toNat / 2 ^ 50 * 2 ^ 50 :: s.blocksOf l) ∧ t.reg 0x4000_08 l = (if n = 0 then s.reg 0x4000_08 l else satAdd (entryBits 0x4000_08) (s.reg 0x4000_08 l) n) ∧
      s.ledgerBut t [regKey 0x4000_08 l] ∧ t.cells = s.cells ∧ t.still = s.still)

/-- R245: a cell that is built of fields that fit reads back as those fields, and passes its check. -/
def Obligations.CellsCarryTheirFields : Prop :=
  ∀ (type flags a b : Nat) (payload : Bytes), type < 256 → flags < 256 → a < 2 ^ 32 → b < 2 ^ 32 → payload.length ≤ 240 →
    (cellOf type flags a b payload).length = 256 ∧ crcTailOk (cellOf type flags a b payload) = true ∧
    cellType (cellOf type flags a b payload) = type ∧ cellFlags (cellOf type flags a b payload) = flags ∧
    cellA (cellOf type flags a b payload) = a ∧ cellB (cellOf type flags a b payload) = b ∧
    cellPayload (cellOf type flags a b payload) = payload

/-- R247-R249, R252-R255: an accepted header takes a Free Ingot for its frame; a data cell's pixels are stored inside that Ingot; a
trailer that agrees publishes the frame and is answered by its witness; a frame that stalls ends. It says that these complete:
videoHeaderCell, videoDataCell, videoTrailerCell, inboundFrameTimeout. -/
def Obligations.InboundFramesArePublished : Prop :=
  (∀ (s : State) (p : Fin 24) (cell h : Bytes) (slot : Nat) (x : Source), s.live = true → s.fabricWorks = true →
    s.cellArrives p cell 1 → cellFlags cell = 0 →
    s.commits.waiting = [] → s.slotFor p (cellA cell) = some slot → s.source slot = some x → h = slice cell 12 64 →
    (s.port p).rx.find? (fun f => f.slot == slot) = none → bitAt (field h 3 1) 1 = false → bitAt (field h 3 1) 0 = true →
    s.newerThanLast slot (field h 4 4) = true → field h 2 1 = x.fmt → field h 20 2 = x.width → field h 22 2 = x.height →
    s.tooSoon slot x.rate = false → s.freeOf slot ≠ [] →
    ∃ t i f, exec (.videoHeaderCell p cell) s = .next t ∧ i ∈ s.freeOf slot ∧ (t.ingot i).st = .filling ∧ (t.ingot i).filler = .port ∧
      (t.ingot i).seq = field h 4 4 ∧ (t.ingot i).origin = field h 8 8 ∧ (t.ingot i).foreign = true ∧
      (t.ingot i).unlocked = bitAt (field h 3 1) 2 ∧ (t.port p).rx.head? = some f ∧ f.slot = slot ∧ f.ingot = some i ∧
      f.seq = field h 4 4 ∧ f.cells = x.dataCells ∧ (f.gap = false ↔ field h 28 4 = x.dataCells) ∧ f.next = 1 ∧
      t.reg 0x4410_06 slot = field h 4 4 ∧ t.blob 0x4410_0C slot = h ∧ (∀ j, j ≠ i → t.ingot j = s.ingot j) ∧
      s.regsBut t [regKey 0x4410_06 slot, regKey 0x4410_09 slot] ∧ s.blobsBut t [regKey 0x4410_0C slot] ∧ t.shadow = s.shadow ∧
      t.log = s.log ∧ t.sent = s.sent ∧ t.cells = s.cells ∧ t.still = s.still) ∧
  (∀ (s : State) (p : Fin 24) (cell : Bytes) (slot i : Nat) (x : Source) (f : RxFrame), s.live = true → s.cellArrives p cell 1 →
    cellFlags cell = 1 → s.slotFor p (cellA cell) = some slot → s.source slot = some x →
    (s.port p).rx.find? (fun f => f.slot == slot) = some f → s.rxIngot f = some i → cellB cell = f.next → f.next ≤ f.cells →
    1 ≤ f.next → x.cellBytes f.next ≤ (cellPayload cell).length → Memory.wf s.cells = true →
    ∃ t g, exec (.videoDataCell p cell) s = .next t ∧ (t.port p).rx.head? = some g ∧ g.next = f.next + 1 ∧ g.gap = f.gap ∧
      g.got = f.got + 1 ∧ g.crc = crc32cRun f.crc (cellPayload cell) ∧ g.last = s.now ∧
      t.cells = (s.storePixels x (s.ingot i).base ((f.next - 1) * pixelsPerCell x.fmt)
        ((pieces (bytesPerPixel x.fmt) 240 (cellPayload cell)).filter fun px => px.length == bytesPerPixel x.fmt)).cells ∧
      (∀ a, (a < (s.ingot i).base ∨ (s.ingot i).base + x.height * lineStride x.width (bytesPerPixel x.fmt) ≤ a) →
        Memory.read t.cells a = Memory.read s.cells a) ∧
      t.regs = s.regs ∧ t.blobs = s.blobs ∧ t.shadow = s.shadow ∧ t.ingots = s.ingots ∧ t.log = s.log ∧ t.sent = s.sent ∧
      t.still = s.still) ∧
  (∀ (s : State) (p : Fin 24) (cell b : Bytes) (slot i crc : Nat) (x : Source) (f : RxFrame), s.live = true → s.cellArrives p cell 1 →
    cellFlags cell = 2 → s.slotFor p (cellA cell) = some slot → s.source slot = some x →
    s.fabricWorks = true → (s.port p).rx.find? (fun f => f.slot == slot) = some f → s.rxIngot f = some i → f.next = f.cells + 1 → f.gap = false → f.marks = 0 →
    b = cellPayload cell → crc = Nat.xor f.crc 0xFFFFFFFF → field b 0 4 = f.seq → field b 8 4 = f.cells → field b 4 4 = crc →
    s.newerThanLast f.slot f.seq = true →
    ∃ t, exec (.videoTrailerCell p cell) s = .next t ∧ (t.ingot i).st = .ready ∧ (t.ingot i).check = crc ∧
      t.latest f.slot = some i ∧ t.reg 0x4410_04 f.slot = satAdd (entryBits 0x4410_04) (s.reg 0x4410_04 f.slot) 1 ∧
      (∀ g ∈ (t.port p).rx, g.slot ≠ f.slot) ∧ witnessOf f.stream f.seq crc 0 ∈ t.queued p ∧
      s.ledgerBut t [regKey 0x4410_04 f.slot] ∧ t.sent = s.sent ∧ t.log = s.log ∧ t.cells = s.cells ∧ t.still = s.still) ∧
  (∀ (s : State) (slot : Fin 40), s.live = true →
    ∃ t, exec (.inboundFrameTimeout slot) s = .next t ∧
      (∀ p, p < 24 → ∀ f ∈ (t.port p).rx, f.slot = slot.val → s.now < f.last + 2 * milli) ∧
      (∀ p, p < 24 → ∀ f ∈ (s.port p).rx, f.slot ≠ slot.val → f ∈ (t.port p).rx) ∧ s.groupsBut t [0x4410] ∧ t.blobs = s.blobs ∧
      t.shadow = s.shadow ∧ s.sendsLog t ∧ t.still = s.still)

/-- R59, R245, R256, R258, R259: a null cell does nothing, a broken or reserved one is counted; a witness is checked against the
frame it answers; a source's latest frame goes upstream; credit and messages keep their sequence, and silence retransmits, then
resets. It says that these complete: nullCell, witnessCell, forwardFrameStart, creditCell, creditSend, retransmitTimeout,
messageCell. -/
def Obligations.LinkChannelsKeepTheirOrder : Prop :=
  (∀ (s : State) (p : Fin 24) (cell : Bytes), s.live = true → s.cellArrives p cell 0 → exec (.nullCell p cell) s = .next s) ∧
  (∀ (s : State) (p : Fin 24) (cell : Bytes), s.live = true → s.portInService p = true → cell.length = 256 → crcTailOk cell = true →
    cellReserved cell = true →
    ∃ t, exec (.nullCell p cell) s = .next t ∧ t.reg 0x4400_0C p = satAdd (entryBits 0x4400_0C) (s.reg 0x4400_0C p) 1 ∧
      s.ledgerBut t [regKey 0x4400_0C p] ∧ t.ports = s.ports ∧ t.sent = s.sent ∧ t.log = s.log ∧ t.cells = s.cells ∧
      t.still = s.still) ∧
  (∀ (s : State) (p : Fin 24) (cell : Bytes), s.live = true → s.portInService p = true → crcTailOk cell = false →
    (s.lastSecond (s.port p).crcTimes).length ≤ s.reg 0x4400_0B p →
    ∃ t, exec (.nullCell p cell) s = .next t ∧ t.reg 0x4400_0A p = satAdd (entryBits 0x4400_0A) (s.reg 0x4400_0A p) 1 ∧
      s.ledgerBut t [regKey 0x4400_0A p] ∧ t.sent = s.sent ∧ t.log = s.log ∧ t.cells = s.cells ∧ t.still = s.still) ∧
  (∀ (s : State) (p : Fin 24) (cell : Bytes) (o : Nat) (f : SentFrame), s.live = true → s.cellArrives p cell 5 →
    s.awaited p cell = some (o, f) → f.reported = false → field (cellPayload cell) 4 1 = 0 → field (cellPayload cell) 0 4 = f.check →
    ∃ t, exec (.witnessCell p cell) s = .next t ∧ (t.output o).witFails = 0 ∧ (t.output o).witPasses = (s.output o).witPasses + 1 ∧
      t.reg 0x2030_08 o = f.check ∧ (∀ g ∈ (t.output o).sent, g.ofNum ≠ f.ofNum) ∧ s.ledgerBut t [regKey 0x2030_08 o] ∧
      t.sent = s.sent ∧ t.log = s.log ∧ t.cells = s.cells ∧ t.still = s.still) ∧
  (∀ (s : State) (p : Fin 24) (cell : Bytes) (o : Nat) (f : SentFrame), s.live = true → s.cellArrives p cell 5 →
    s.awaited p cell = some (o, f) → f.reported = false → field (cellPayload cell) 0 4 ≠ f.check →
    ∃ t, exec (.witnessCell p cell) s = .next t ∧ (t.output o).witFails = (s.output o).witFails + 1 ∧ (t.output o).witPasses = 0 ∧
      t.newest 0x042 (some (fr 0x08)) ∧ t.reg 0x2030_08 o = field (cellPayload cell) 0 4 ∧
      t.reg 0x2030_05 o = satAdd (entryBits 0x2030_05) (s.reg 0x2030_05 o) 1 ∧
      s.ledgerBut t [regKey 0x2030_05 o, regKey 0x2030_08 o] ∧ s.sendsLog t ∧ t.cells = s.cells ∧ t.still = s.still) ∧
  (∀ (s : State) (slot : Fin 40) (x : Source) (i : Nat), s.live = true → s.source slot = some x → s.latest slot = some i →
    s.sendsVideo x.upPort = true → s.streamWaits x.upPort x.upStream = false → (s.ingots.any fun g => g.2.slot == slot.val && g.2.readers.contains (portReader x.upPort)) = false →
    (s.slot slot).sentIngot ≠ some (s.ingot i).seq → (s.ingot i).st = .ready → (s.ingot i).readers = [] → x.upStream < 2 ^ 32 →
    ∃ t, exec (.forwardFrameStart slot) s = .next t ∧ (t.ingot i).st = .scanning ∧ (t.ingot i).readers = [portReader x.upPort] ∧
      (t.slot slot).sentIngot = some (s.ingot i).seq ∧ t.streamWaits x.upPort x.upStream = true ∧ (∀ j, j ≠ i → t.ingot j = s.ingot j) ∧
      t.regs = s.regs ∧ t.blobs = s.blobs ∧ t.shadow = s.shadow ∧ t.sent = s.sent ∧ t.log = s.log ∧ t.cells = s.cells ∧
      t.still = s.still) ∧
  (∀ (s : State) (p : Fin 24) (cell : Bytes), s.live = true → s.cellArrives p cell 4 → cellFlags cell = 0 → (s.port p).resetting = false →
    dist16 (cellA cell / 65536) (s.port p).txAcked ≤ dist16 (s.port p).txNext (s.port p).txAcked →
    ∃ t, exec (.creditCell p cell) s = .next t ∧ (t.port p).txAcked = cellA cell / 65536 ∧ (t.port p).txCredit = min 256 (cellB cell) ∧
      (∀ m ∈ (t.port p).txQueue, m ∈ (s.port p).txQueue) ∧ t.regs = s.regs ∧ t.blobs = s.blobs ∧ t.shadow = s.shadow ∧
      t.sent = s.sent ∧ t.log = s.log ∧ t.cells = s.cells ∧ t.still = s.still) ∧
  (∀ (s : State) (p : Fin 24) (cell : Bytes), s.live = true → s.cellArrives p cell 4 → bitAt (cellFlags cell) 0 = true →
    ∃ t, exec (.creditCell p cell) s = .next t ∧ (t.port p).rxNext = cellA cell / 65536 ∧ (t.port p).rxParts = [] ∧
      (∃ c ∈ t.queued p, cellType c = 4 ∧ bitAt (cellFlags c) 1 = true) ∧ t.sent = s.sent ∧ t.regs = s.regs ∧ t.blobs = s.blobs ∧
      t.shadow = s.shadow ∧ t.log = s.log ∧ t.cells = s.cells ∧ t.still = s.still) ∧
  (∀ (s : State) (p : Fin 24), s.live = true → s.portInService p = true → (s.port p).resetting = false →
    ∃ t, exec (.creditSend p) s = .next t ∧ cellOf 4 0 ((s.port p).rxNext * 65536) 64 [] ∈ t.queued p ∧
      (t.queued p).length = (s.queued p).length + 1 ∧ t.sent = s.sent ∧ t.regs = s.regs ∧ t.blobs = s.blobs ∧ t.shadow = s.shadow ∧
      t.log = s.log ∧ t.cells = s.cells ∧ t.still = s.still) ∧
  (∀ (s : State) (p : Fin 24), s.live = true → (s.port p).resetting = false → (s.port p).txSent ≠ (s.port p).txAcked →
    (s.port p).lastAdvance + s.reg 0x4400_0F p * 1000 ≤ s.now →
    ∃ t, exec (.retransmitTimeout p) s = .next t ∧
      ((s.port p).timeouts + 1 < 16 → (t.port p).timeouts = (s.port p).timeouts + 1 ∧ (t.port p).txQueue = (s.port p).txQueue ∧
        t.reg 0x4400_10 p = satAdd (entryBits 0x4400_10) (s.reg 0x4400_10 p) 1 ∧ t.log = s.log) ∧
      (16 ≤ (s.port p).timeouts + 1 → (t.port p).resetting = true ∧ t.newest 0x098 (some (sw 0x14)) ∧
        ((s.port p).pendingResponses = [] → (t.port p).txQueue = []) ∧
        (∃ c ∈ t.queued p, cellType c = 4 ∧ bitAt (cellFlags c) 0 = true) ∧
        t.reg 0x4400_11 p = satAdd (entryBits 0x4400_11) (s.reg 0x4400_11 p) 1) ∧
      s.ledgerBut t [regKey 0x4400_10 p, regKey 0x4400_11 p] ∧ s.sendsLog t ∧ t.cells = s.cells ∧ t.still = s.still) ∧
  (∀ (s : State) (p : Fin 24) (cell : Bytes), s.live = true → s.cellArrives p cell 2 →
    (s.lastSecond (s.port p).msgTimes).length ≤ s.reg 0x4400_0D p → cellA cell / 65536 = (s.port p).rxNext → cellA cell % 256 = 0 →
    bits (cellB cell) 15 8 = 1 →
    ∃ u : State, exec (.messageCell p cell) s = .next (u.deliverMessage p (bits (cellA cell) 15 8) (cellPayload cell)) ∧
      (u.port p).rxNext = ((s.port p).rxNext + 1) % 65536 ∧ (u.port p).rxParts = [] ∧
      (u.queued p).length = (s.queued p).length + 1 ∧ u.sent = s.sent ∧ u.regs = s.regs ∧ u.blobs = s.blobs ∧ u.shadow = s.shadow ∧
      u.log = s.log ∧ u.cells = s.cells ∧ u.still = s.still) ∧
  (∀ (s : State) (p : Fin 24) (cell : Bytes), s.live = true → s.cellArrives p cell 2 →
    (s.lastSecond (s.port p).msgTimes).length ≤ s.reg 0x4400_0D p → cellA cell / 65536 ≠ (s.port p).rxNext →
    ∃ t, exec (.messageCell p cell) s = .next t ∧ (t.port p).rxNext = (s.port p).rxNext ∧ t.sent = s.sent ∧ t.regs = s.regs ∧
      t.blobs = s.blobs ∧ t.shadow = s.shadow ∧ t.log = s.log ∧ t.cells = s.cells ∧ t.still = s.still)

/-- R261, R262, R282: on a port of the right trust and role a Sync is stamped and answered by a Delay request, a Delay request by
its response, and a response completes the exchange with its round trip and offset; an exchange ends after a millisecond. It says
that these complete: syncCell, delayRequestCell, delayResponseCell, syncSend, delayExchangeTimeout. -/
def Obligations.TimeCellsExchange : Prop :=
  (∀ (s : State) (p : Fin 24) (cell b : Bytes), s.live = true → s.cellArrives p cell 3 → 4 ≤ s.reg 0x4400_05 p → s.reg 0x4400_06 p = 2 →
    cellA cell / 2 ^ 24 = 1 → b = cellPayload cell → field b 12 8 = s.reg 0x2800_01 → field b 20 4 = s.reg 0x2800_02 →
    field b 24 2 = s.reg 0x2800_03 → s.reg 0x4808_01 ≠ 2 →
    ∃ t, exec (.syncCell p cell) s = .next t ∧ (t.port p).exch = some (cellA cell % 65536, field b 0 8, s.wall, s.wall) ∧
      (t.port p).exchAt = s.now ∧ (t.port p).senderState = some (field b 8 1) ∧
      timeCell 2 (cellA cell % 65536) (beBytes 8 0) ∈ t.queued p ∧ t.sent = s.sent ∧ t.blobs = s.blobs ∧ t.shadow = s.shadow ∧ t.regs = s.regs ∧ t.log = s.log ∧
      t.time = s.time ∧ t.cells = s.cells ∧ t.still = s.still) ∧
  (∀ (s : State) (p : Fin 24) (cell : Bytes), s.live = true → s.cellArrives p cell 3 → 4 ≤ s.reg 0x4400_05 p → s.reg 0x4400_06 p = 1 →
    cellA cell / 2 ^ 24 = 2 →
    ∃ t, exec (.delayRequestCell p cell) s = .next t ∧
      timeCell 3 (cellA cell % 65536) (beBytes 8 s.wall) ∈ t.queued p ∧ t.sent = s.sent ∧ t.blobs = s.blobs ∧ t.shadow = s.shadow ∧
      t.regs = s.regs ∧ t.log = s.log ∧ t.time = s.time ∧
      t.cells = s.cells ∧ t.still = s.still) ∧
  (∀ (s : State) (p : Fin 24) (cell : Bytes) (n t1 t2 t3 : Nat) (rtt off : Int), s.live = true → s.cellArrives p cell 3 →
    4 ≤ s.reg 0x4400_05 p → s.reg 0x4400_06 p = 2 → cellA cell / 2 ^ 24 = 3 → cellA cell % 65536 = n →
    (s.port p).exch = some (n, t1, t2, t3) →
    rtt = toSigned 64 (ofSigned 64 ((field (cellPayload cell) 0 8 : Int) - t1)) - toSigned 64 (ofSigned 64 ((t3 : Int) - t2)) →
    off = toSigned 64 (ofSigned 64 ((t2 : Int) - t1)) - (Int.tdiv rtt 2 + s.regI 0x4400_07 p 32) →
    (s.reg 0x4808_01 ≠ 2 ∨ s.reg 0x4808_06 ≠ p) →
    ∃ t, exec (.delayResponseCell p cell) s = .next t ∧ t.reg 0x4400_16 p = ofSigned 32 rtt ∧ t.reg 0x4400_17 p = ofSigned 64 off ∧
      (t.port p).exch = none ∧ (t.port p).lastExch = some s.now ∧
      s.ledgerBut t [regKey 0x4400_16 p, regKey 0x4400_17 p] ∧ t.sent = s.sent ∧ t.log = s.log ∧ t.time = s.time ∧
      t.cells = s.cells ∧ t.still = s.still) ∧
  (∀ (s : State) (p : Fin 24), s.live = true → s.reg 0x4400_06 p = 1 → s.portInService p = true →
    (∀ a, (s.port p).lastExch = some a → a + s.reg 0x4400_08 p * 1000 ≤ s.now) →
    ∃ t, exec (.syncSend p) s = .next t ∧ (t.port p).lastExch = some s.now ∧ (t.port p).exchNo = ((s.port p).exchNo + 1) % 65536 ∧
      (∃ c ∈ t.queued p, cellType c = 3 ∧ cellA c % 65536 = (s.port p).exchNo % 65536) ∧ t.sent = s.sent ∧ t.regs = s.regs ∧
      t.blobs = s.blobs ∧ t.shadow = s.shadow ∧ t.log = s.log ∧ t.time = s.time ∧ t.cells = s.cells ∧ t.still = s.still) ∧
  (∀ (s : State) (p : Fin 24), s.live = true → (s.port p).exch.isSome = true → (s.port p).exchAt + milli ≤ s.now →
    ∃ t, exec (.delayExchangeTimeout p) s = .next t ∧ (t.port p).exch = none ∧ t.regs = s.regs ∧ t.sent = s.sent ∧ t.log = s.log ∧
      t.cells = s.cells ∧ t.still = s.still) ∧
  (∀ (c : Instr) (s : State) (p : Fin 24) (cell : Bytes), s.live = true → s.cellArrives p cell 3 → s.reg 0x4400_05 p < 4 →
    c ∈ [.syncCell p cell, .delayRequestCell p cell, .delayResponseCell p cell] →
    ∃ t, exec c s = .next t ∧ t.reg 0x4400_13 p = satAdd (entryBits 0x4400_13) (s.reg 0x4400_13 p) 1 ∧ t.time = s.time ∧
      s.ledgerBut t [regKey 0x4400_13 p] ∧ t.ports = s.ports ∧ t.cells = s.cells ∧ t.still = s.still)

/-- R55, R270, R271, R274: a rate is replaced without moving wall time; an offset and a step open a step of their size; the servo
takes one sample and steers, steps or does nothing; a sweep marks what is two eras behind. It says that these complete: rateWrite,
offsetWrite, stepWrite, servoSample, eraSweepDone. -/
def Obligations.TimeIsSteered : Prop :=
  (∀ (s : State) (ss v : Nat), s.managed = true → s.mayWrite ss 0x4800_02 (.num v) = true → s.hostSteers = true →
    ∃ t, exec (.rateWrite ss v) s = .next t ∧ t.reg 0x4800_02 0 = v ∧ t.wall = s.wall ∧ t.time.counter = s.time.counter ∧
      s.ledgerBut t [regKey 0x4800_02 0, regKey 0x4800_03 0] ∧
      t.sent = .reply ss {} :: s.sent ∧ t.log = s.log ∧ t.outputs = s.outputs ∧ t.cells = s.cells ∧ t.still = s.still) ∧
  (∀ (s : State) (ss v : Nat), s.managed = true → s.mayWrite ss 0x4800_03 (.num v) = true → s.hostSteers = true →
    ∃ t, exec (.offsetWrite ss v) s = .next t ∧ s.steppedTo t (toSigned 64 v - s.offset) ∧ t.offset = toSigned 64 v ∧
      t.rate = s.rate ∧ s.entriesBut t timeStepEntries ∧ t.blobs = s.blobs ∧ t.shadow = s.shadow ∧
      t.sent.head? = some (.reply ss {}) ∧ t.ingots = s.ingots ∧ t.cells = s.cells ∧ t.still = s.still) ∧
  (∀ (s : State) (ss v : Nat), s.managed = true → s.mayWrite ss 0x4800_04 (.num v) = true → s.hostSteers = true →
    ∃ t, exec (.stepWrite ss v) s = .next t ∧ s.steppedTo t (toSigned 64 v) ∧ t.rate = s.rate ∧
      ((∀ o, (s.output o).running = false) → t.newest 0x0A1 (some (tm 0x04))) ∧
      s.entriesBut t timeStepEntries ∧ t.blobs = s.blobs ∧ t.shadow = s.shadow ∧
      t.sent.head? = some (.reply ss {}) ∧ t.ingots = s.ingots ∧ t.cells = s.cells ∧ t.still = s.still) ∧
  (∀ (s : State) (steer x : Int) (xs : List Int), s.managed = true → s.time.samples = x :: xs → s.reg 0x4808_01 = 1 →
    ∃ t, exec (.servoSample steer) s = .next t ∧ t.time.samples = xs ∧ t.reg 0x4808_05 0 = ofSigned 64 x ∧
      (s.timeState = 1 → t.reg 0x4800_02 0 = s.reg 0x4800_02 ∧ t.reg 0x4800_03 0 = s.reg 0x4800_03) ∧
      (s.timeState = 2 → s.reg 0x4808_02 < x.natAbs → s.steppedTo t (-x)) ∧
      (s.timeState ≠ 1 → x.natAbs ≤ 4 * s.reg 0x4808_03 → (s.timeState ≠ 2 ∨ x.natAbs ≤ s.reg 0x4808_02) →
        t.reg 0x4800_02 0 = s.steered steer ∧ t.wall = s.wall) ∧
      (s.time.own ≠ 0 → 16 ≤ s.time.good + 1 → x.natAbs ≤ s.reg 0x4808_03 → t.time.own = 0) ∧
      (s.time.own = 0 → 4 ≤ s.time.bad + 1 → 4 * s.reg 0x4808_03 < x.natAbs → t.time.own ≠ 0) ∧
      s.entriesBut t (0x4808_05 :: timeStateEntries ++ timeStepEntries) ∧ t.blobs = s.blobs ∧ t.shadow = s.shadow ∧ t.cells = s.cells ∧ t.still = s.still) ∧
  (∀ (s : State) (e : Nat) (es : List Nat), s.live = true → s.time.sweeps = e :: es →
    ∃ t, exec .eraSweepDone s = .next t ∧ t.time.sweeps = es ∧
      (∀ i, (t.ingot i).expired = ((s.ingot i).expired || ((s.ingot i).st != .free && (s.ingot i).era == sweptEra e))) ∧
      (∀ i, (t.ingot i).st = (s.ingot i).st ∧ (t.ingot i).readers = (s.ingot i).readers ∧ (t.ingot i).seq = (s.ingot i).seq) ∧
      t.regs = s.regs ∧ t.blobs = s.blobs ∧ t.shadow = s.shadow ∧ t.log = s.log ∧ t.sent = s.sent ∧ t.cells = s.cells ∧
      t.still = s.still)

/-- R272, R273, R275, R276, R288: a new source, the host's judgement and each timeout move the time state as the rules say, and
record why; the time domain wakes with its counter re-seeded. It says that these complete: timeSourceWrite, hostTimeState,
holdoverExpiry, announceTimeout, syncTimeout, hostStateTimeout, timeDomainWake. -/
def Obligations.TimeStatesFollowTheirSource : Prop :=
  (∀ (s : State) (ss v : Nat), s.managed = true → s.mayWrite ss 0x4808_01 (.num v) = true → v ≠ s.reg 0x4808_01 →
    ∃ t, exec (.timeSourceWrite ss v) s = .next t ∧ t.reg 0x4808_01 0 = v ∧ t.time.samples = [] ∧ t.time.syncPending = none ∧
      t.time.masters = [] ∧ (v = 0 → t.time.own = 0) ∧ (v ≠ 0 → t.time.own ≠ 0) ∧ t.logged 0x0A2 (some (tm 0x05)) ∧
      s.entriesBut t ([0x4808_01, 0x4808_06, 0x4810_0A, 0x4810_0B] ++ timeStateEntries) ∧ t.blobs = s.blobs ∧ t.shadow = s.shadow ∧
      t.sent.head? = some (.reply ss {}) ∧ t.cells = s.cells ∧ t.still = s.still) ∧
  (∀ (s : State) (ss v : Nat), s.managed = true → s.mayWrite ss 0x4800_0B (.num v) = true → s.reg 0x4808_01 = 3 →
    ∃ t, exec (.hostTimeState ss v) s = .next t ∧ t.time.hostAt = some s.now ∧ (v = 0 → t.time.own = 0) ∧
      (v ≠ 0 → t.time.own ≠ 0) ∧ (s.time.own = 1 → v = 2 → t.time.own = 2) ∧ s.entriesBut t timeStateEntries ∧
      t.blobs = s.blobs ∧ t.shadow = s.shadow ∧
      t.sent.head? = some (.reply ss {}) ∧ t.cells = s.cells ∧ t.still = s.still) ∧
  (∀ (s : State) (t0 : Int), s.live = true → s.time.holdoverSince = some t0 → s.time.own = 1 → t0 + 10000000000 ≤ s.now →
    ∃ t, exec .holdoverExpiry s = .next t ∧ t.time.own = 2 ∧ t.logged 0x043 none ∧
      (s.senderState = 0 → s.timeState = 1 → t.timeState = 2 ∧ t.time.holdoverSince = none ∧ t.newest 0x0A0 (some (tm 0x03))) ∧
      s.entriesBut t timeStateEntries ∧ t.blobs = s.blobs ∧ t.shadow = s.shadow ∧ s.sendsLog t ∧ t.cells = s.cells ∧ t.still = s.still) ∧
  (∀ (s : State), s.managed = true → s.reg 0x4808_01 = 1 → s.reg 0x4810_0A < 2 →
    s.announceHeard + s.reg 0x4810_05 * announceInterval ≤ s.now →
    ∃ t, exec .announceTimeout s = .next t ∧ t.time.masters = s.time.masters.filter (fun m => m.id != s.reg 0x4810_0B) ∧
      (s.flag 0x4810_06 = false → (∀ m ∈ s.time.masters, m.port < 2) → t.time.own ≠ 0) ∧
      s.entriesBut t ([0x4810_0A, 0x4810_0B] ++ timeStateEntries) ∧ t.blobs = s.blobs ∧ t.shadow = s.shadow ∧ s.sendsLog t ∧ t.cells = s.cells ∧ t.still = s.still) ∧
  (∀ (s : State), s.managed = true → s.reg 0x4808_01 = 1 → s.reg 0x4810_0A < 2 →
    s.time.lastSync.getD 0 + 3 * syncInterval ≤ s.now →
    ∃ t, exec .syncTimeout s = .next t ∧ t.time.own ≠ 0 ∧ (s.time.own ≠ 0 → t = s) ∧ t.time.masters = s.time.masters ∧
      s.entriesBut t timeStateEntries ∧ t.blobs = s.blobs ∧ t.shadow = s.shadow ∧ s.sendsLog t ∧ t.cells = s.cells ∧ t.still = s.still) ∧
  (∀ (s : State) (p q : Nat), s.managed = true → s.reg 0x4808_01 = 2 → s.reg 0x4808_06 = p → p < 24 →
    (s.port p).lastExch.getD 0 + 3 * s.reg 0x4400_08 p * 1000 ≤ s.now →
    (s.setPort p { s.port p with timeLost := true }).bestTimePort = q → q ≠ 0xFF →
    ∃ t, exec .syncTimeout s = .next t ∧ q ≠ p ∧ t.reg 0x4808_06 0 = q ∧ t.time = s.time ∧ (t.port p).timeLost = true ∧
      s.ledgerBut t [regKey 0x4808_06 0] ∧ t.newest 0x0A2 (some (tm 0x05)) ∧ s.sendsLog t ∧ t.cells = s.cells ∧
      t.still = s.still) ∧
  (∀ (s : State), s.live = true → s.reg 0x4808_01 = 3 → s.time.hostAt.getD 0 + 2000000000 ≤ s.now →
    ∃ t, exec .hostStateTimeout s = .next t ∧ t.time.own ≠ 0 ∧
      (s.time.own = 0 → s.timeState = 0 → t.newest 0x0A0 (some (tm 0x08))) ∧ s.entriesBut t timeStateEntries ∧
      t.blobs = s.blobs ∧ t.shadow = s.shadow ∧
      s.sendsLog t ∧ t.cells = s.cells ∧ t.still = s.still) ∧
  (∀ (s : State) (ticks : Nat), s.live = true → s.time.running = false →
    ∃ t, exec (.timeDomainWake ticks) s = .next t ∧ t.time.running = true ∧
      t.time.counter = s.time.counter + (ticks * 1000000000 + 32767) / 32768 ∧ (s.reg 0x4808_01 ≠ 0 → t.time.own = 2) ∧
      (s.reg 0x4808_01 = 0 → t.time.own = s.time.own) ∧ t.logged 0x0A6 (some (tm 0x0C)) ∧ s.entriesBut t timeStateEntries ∧
      t.blobs = s.blobs ∧ t.shadow = s.shadow ∧
      s.sendsLog t ∧ t.cells = s.cells ∧ t.still = s.still)

/-- R277, R279: on a port, in the domain and on the transport that PTP serves, a Sync of the selected master, with its Follow_Up
where it is two-step, makes the exchange's times; responses complete it; the device answers requests, delay requests as grandmaster
in E2E mode. A message that the device does not support is counted. It says that these complete: ptpSync, ptpFollowUp, ptpDelayResp,
ptpDelayReq, ptpPdelayReq, ptpPdelayResp. -/
def Obligations.PtpExchangesMakeSamples : Prop :=
  (∀ (s : State) (port : Fin 2) (head : PtpHead) (source seq origin rx : Nat) (corr : Int), s.managed = true → s.ptpOn port head →
    s.fromMaster port source = true →
    exec (.ptpSync port head source seq true origin rx corr) s =
      .next { s with time := { s.time with syncPending := some (source, seq, port.val, (rx : Int) - s.ingress port - corr) } }) ∧
  (∀ (s : State) (port : Fin 2) (head : PtpHead) (source seq origin rx : Nat) (corr : Int), s.managed = true → s.ptpOn port head →
    s.fromMaster port source = true → s.reg 0x4810_03 = 1 →
    ∃ t, exec (.ptpSync port head source seq false origin rx corr) s = .next t ∧
      t.time.delaySent = some (seq, (origin : Int) + corr, (rx : Int) - s.ingress port, (s.wall : Int) + s.egress port) ∧
      t.time.lastSync = some s.now ∧ t.time.samples = s.time.samples ∧
      t.sent = .ptp port 1 seq (ofSigned 64 ((s.wall : Int) + s.egress port)) :: s.sent ∧ t.regs = s.regs ∧ t.blobs = s.blobs ∧
      t.shadow = s.shadow ∧ t.log = s.log ∧ t.cells = s.cells ∧ t.still = s.still) ∧
  (∀ (s : State) (port : Fin 2) (head : PtpHead) (source seq origin : Nat) (t2 corr : Int), s.managed = true → s.ptpOn port head →
    s.fromMaster port source = true → s.time.syncPending = some (source, seq, port.val, t2) → s.reg 0x4810_03 = 2 →
    ∃ t, exec (.ptpFollowUp port head source seq origin corr) s = .next t ∧ t.time.syncPending = none ∧
      t.time.lastSync = some s.now ∧
      t.time.samples = s.time.samples ++ [t2 - ((origin : Int) + corr) - Tbl.get 0 s.time.peerDelay port] ∧
      t.reg 0x4810_0C 0 = ofSigned 64 (Tbl.get 0 s.time.peerDelay port) ∧
      Tbl.find t.time.pdelaySent port = some (seq, (s.wall : Int) + s.egress port) ∧
      t.sent = .ptp port 2 seq (ofSigned 64 ((s.wall : Int) + s.egress port)) :: s.sent ∧
      s.ledgerBut t [regKey 0x4810_0C 0] ∧ t.log = s.log ∧ t.cells = s.cells ∧ t.still = s.still) ∧
  (∀ (s : State) (port : Fin 2) (head : PtpHead) (source requester seq rx : Nat) (t1 t2 t3 corr delay : Int), s.managed = true →
    s.ptpOn port head → s.fromMaster port source = true → s.time.delaySent = some (seq, t1, t2, t3) → requester = clockIdentity →
    delay = Int.tdiv (((rx : Int) - corr - t1) - (t3 - t2)) 2 →
    ∃ t, exec (.ptpDelayResp port head source requester seq rx corr) s = .next t ∧ t.time.delaySent = none ∧
      t.time.samples = s.time.samples ++ [t2 - t1 - delay] ∧ t.reg 0x4810_0C 0 = ofSigned 64 delay ∧
      s.ledgerBut t [regKey 0x4810_0C 0] ∧ t.sent = s.sent ∧ t.log = s.log ∧ t.cells = s.cells ∧ t.still = s.still) ∧
  (∀ (s : State) (port : Fin 2) (head : PtpHead) (source seq rx : Nat), s.managed = true → s.ptpOn port head → s.reg 0x4808_01 = 1 →
    s.reg 0x4810_0A = 0xFE → s.reg 0x4810_03 = 1 →
    exec (.ptpDelayReq port head source seq rx) s =
      .next (s.send (.ptp port 9 (seq + 65536 * source) (ofSigned 64 ((rx : Int) - s.ingress port))))) ∧
  (∀ (s : State) (port : Fin 2) (head : PtpHead) (source seq rx : Nat), s.managed = true → s.ptpOn port head → s.reg 0x4810_03 = 2 →
    exec (.ptpPdelayReq port head source seq rx) s =
      .next (s.send (.ptp port 3 (seq + 65536 * source)
        (ofSigned 64 (((s.wall : Int) + s.egress port) - ((rx : Int) - s.ingress port)))))) ∧
  (∀ (s : State) (port : Fin 2) (head : PtpHead) (source seq turnaround rx : Nat) (t1 d : Int), s.managed = true → s.ptpOn port head →
    s.reg 0x4810_03 = 2 → Tbl.find s.time.pdelaySent port = some (seq, t1) →
    d = Int.tdiv (((rx : Int) - s.ingress port) - t1 - turnaround) 2 →
    ∃ t, exec (.ptpPdelayResp port head source seq turnaround rx) s = .next t ∧ Tbl.find t.time.pdelaySent port = none ∧
      Tbl.get 0 t.time.peerDelay port = d ∧ (s.fromMaster port source = true → t.reg 0x4810_0C 0 = ofSigned 64 d) ∧
      t.time.samples = s.time.samples ∧ s.ledgerBut t [regKey 0x4810_0C 0] ∧ t.sent = s.sent ∧ t.log = s.log ∧ t.cells = s.cells ∧
      t.still = s.still) ∧
  (∀ (s : State) (port : Fin 2) (head : PtpHead) (source seq origin rx : Nat) (two : Bool) (corr : Int), s.managed = true →
    bitAt (s.reg 0x4810_01) port = true → s.reg 0x6820_03 port ≠ 0 →
    (head.formed = false ∨ head.domain ≠ s.reg 0x4810_02 ∨ head.transport ≠ s.reg 0x4810_04) →
    ∃ t, exec (.ptpSync port head source seq two origin rx corr) s = .next t ∧
      t.reg 0x4810_0E 0 = satAdd (entryBits 0x4810_0E) (s.reg 0x4810_0E) 1 ∧ s.ledgerBut t [regKey 0x4810_0E 0] ∧
      s.sendsLog t ∧ t.time = s.time ∧ t.cells = s.cells ∧ t.still = s.still)

/-- R277, R278, R280, R281: an Announce is noted and the best master selected; the grandmaster sends on its ports; a frame between
the Ethernet ports is forwarded once the other is free, a PTP event message with its residence added and its check sequence afresh.
It says that these complete: ptpAnnounce, ptpMasterSyncSend, ptpMasterAnnounceSend, ethernetFrameForward. -/
def Obligations.MastersAreSelectedAndFramesForwarded : Prop :=
  (∀ (s : State) (port : Fin 2) (head : PtpHead) (source gm p1 p2 cls acc var steps : Nat), s.managed = true → s.ptpOn port head →
    ∃ t m, exec (.ptpAnnounce port head source gm p1 p2 cls acc var steps) s = .next t ∧ t.time.lastAnnounce = some s.now ∧
      t.time.masters.head? = some m ∧ m.port = port.val ∧ m.id = source ∧ m.gm = gm ∧ m.p1 = p1 ∧ m.p2 = p2 ∧ m.cls = cls ∧
      m.acc = acc ∧ m.var = var ∧ m.steps = steps ∧
      (s.reg 0x4808_01 = 1 → ∀ b, bestMaster (t.time.masters ++ if s.flag 0x4810_06 then [s.ownMaster] else []) = some b →
        t.reg 0x4810_0A 0 = b.port ∧ t.reg 0x4810_0B 0 = b.id ∧ (b.port = 0xFE → t.time.own = 0)) ∧
      (s.reg 0x4808_01 ≠ 1 → t.regs = s.regs) ∧ s.entriesBut t ([0x4810_0A, 0x4810_0B] ++ timeStateEntries) ∧
      t.blobs = s.blobs ∧ t.shadow = s.shadow ∧ s.sendsLog t ∧ t.cells = s.cells ∧ t.still = s.still) ∧
  (∀ (s : State), s.managed = true → s.reg 0x4808_01 = 1 → s.reg 0x4810_0A = 0xFE → s.ptpDue 0 = true →
    ∃ t, exec .ptpMasterSyncSend s = .next t ∧ t.time.ptpSeq = s.time.ptpSeq + 1 ∧
      (∀ p, p < 2 → bitAt (s.reg 0x4810_01) p = true → s.reg 0x6820_03 p ≠ 0 →
        Sent.ptp p 0 (s.time.ptpSeq % 65536) (ofSigned 64 ((s.wall : Int) + s.egress p)) ∈ t.sent) ∧ t.regs = s.regs ∧
      t.blobs = s.blobs ∧ t.shadow = s.shadow ∧ t.log = s.log ∧ t.cells = s.cells ∧ t.still = s.still) ∧
  (∀ (s : State), s.managed = true → s.reg 0x4808_01 = 1 → s.reg 0x4810_0A = 0xFE → s.ptpDue 11 = true →
    ∃ t, exec .ptpMasterAnnounceSend s = .next t ∧ t.time.ptpSeq = s.time.ptpSeq + 1 ∧
      (∀ p, p < 2 → bitAt (s.reg 0x4810_01) p = true → s.reg 0x6820_03 p ≠ 0 →
        Sent.ptp p 11 (s.time.ptpSeq % 65536) (ofSigned 64 ((s.wall : Int) + s.egress p))
          [s.ownMaster.p1, s.ownMaster.cls, s.ownMaster.acc, s.ownMaster.var, s.ownMaster.p2, s.ownMaster.gm,
            s.ownMaster.steps] ∈ t.sent) ∧ t.regs = s.regs ∧
      t.blobs = s.blobs ∧ t.shadow = s.shadow ∧ t.log = s.log ∧ t.cells = s.cells ∧ t.still = s.still) ∧
  (∀ (s : State) (port : Fin 2) (dest : BitVec 48) (udp : Bool) (rx : Nat) (frame : Bytes) (fcs : BitVec 32), s.live = true →
    s.flag 0x4810_09 = true → dest ≠ Config.macAddress → s.reg 0x6820_03 port ≠ 0 → s.reg 0x6820_03 (1 - port.val) ≠ 0 →
    (Tbl.get {} s.time.ether (1 - port.val)).queue = [] → (Tbl.get {} s.time.ether (1 - port.val)).busyUntil ≤ s.now →
    ∃ t, exec (.ethernetFrameForward port dest none udp rx fcs frame) s = .next t ∧ t.sent = .ether (1 - port.val) (frame ++ fcsBytes fcs.toNat) 0 :: s.sent ∧
      (Tbl.get {} t.time.ether (1 - port.val)).queue = [] ∧ t.regs = s.regs ∧ t.blobs = s.blobs ∧ t.shadow = s.shadow ∧
      t.log = s.log ∧ t.cells = s.cells ∧ t.still = s.still) ∧
  (∀ (s : State) (port : Fin 2) (dest : BitVec 48) (udp : Bool) (rx : Nat) (frame : Bytes) (fcs : BitVec 32), s.live = true →
    s.flag 0x4810_09 = true → dest ≠ Config.macAddress → s.reg 0x6820_03 port ≠ 0 → s.reg 0x6820_03 (1 - port.val) ≠ 0 →
    s.now < (Tbl.get {} s.time.ether (1 - port.val)).busyUntil →
    ∃ t, exec (.ethernetFrameForward port dest none udp rx fcs frame) s = .next t ∧
      (Tbl.get {} t.time.ether (1 - port.val)).queue = (Tbl.get {} s.time.ether (1 - port.val)).queue ++
        [{ event := none, udp := udp, rx := (rx : Int) - s.ingress port, bytes := frame ++ fcsBytes fcs.toNat }] ∧
      t.sent = s.sent ∧ t.regs = s.regs ∧ t.blobs = s.blobs ∧ t.shadow = s.shadow ∧ t.log = s.log ∧ t.cells = s.cells ∧
      t.still = s.still) ∧
  (∀ (s : State) (port : Fin 2) (dest : BitVec 48) (k : Nat) (udp : Bool) (rx : Nat) (frame : Bytes) (fcs : BitVec 32) (res add : Int),
    s.live = true → s.flag 0x4810_09 = true → dest ≠ Config.macAddress → s.reg 0x6820_03 port ≠ 0 →
    1 ≤ s.reg 0x6820_03 (1 - port.val) → s.reg 0x6820_03 (1 - port.val) ≤ 3 → (Tbl.get {} s.time.ether (1 - port.val)).queue = [] →
    (Tbl.get {} s.time.ether (1 - port.val)).busyUntil ≤ s.now → k < 4 →
    res = ((s.wall : Int) + s.egress (1 - port.val)) - ((rx : Int) - s.ingress port) →
    add = (if k = 0 ∧ s.reg 0x4810_03 = 2 then res + Tbl.get 0 s.time.peerDelay port else res) →
    ∃ t, exec (.ethernetFrameForward port dest (some k) udp rx fcs frame) s = .next t ∧
      t.sent.head? = some (.ether (1 - port.val) (reseal (addResidence (frame ++ fcsBytes fcs.toNat) udp add)) add) ∧
      t.reg 0x4818_11 0 = satAdd (entryBits 0x4818_11) (s.reg 0x4818_11) 1 ∧
      t.reg 0x4818_10 0 = max (s.reg 0x4818_10) res.toNat ∧ s.ledgerBut t [regKey 0x4818_10 0, regKey 0x4818_11 0] ∧
      t.log = s.log ∧ t.cells = s.cells ∧ t.still = s.still)

/-- R45, R291-R306, R312, R313, R317, R318: a well-formed request waits at its target and any other is Refused; the eligible request
of the highest rank is granted; a completion that its target's scheduler lets through moves its data and is Served or Delayed;
classes B and C are Refused when their time is over; an uncorrectable read is logged. It says that these complete: fabricRequest,
fabricGrant, fabricCompletion, classBRefusal, classCTimeout, readUncorrectable, lockedSequence, clearOutcomes. -/
def Obligations.FabricServesRequests : Prop :=
  (∀ (s : State) (port : Fin 42) (r q : FabReq) (k : Nat), s.live = true → s.fabricWorks = true →
    q = { r with cls := requestClass port r } →
    burstFormed q = true → s.rangeUsable r.address (64 * r.beats) = true → targetOf r.address = some k →
    ¬(k < 16 ∧ s.reg 0x5400_02 k = 6) →
    exec (.fabricRequest port r) s = .next { s with fabric := { s.fabric with
      queue := s.fabric.queue ++ [{ port := port, target := k, req := q, issued := s.now, since := firstCycle s.now }] } }) ∧
  (∀ (s : State) (port : Fin 42) (r q : FabReq), s.live = true → s.fabricWorks = true →
    q = { r with cls := requestClass port r } →
    (burstFormed q = false ∨ s.rangeUsable r.address (64 * r.beats) = false) →
    ∃ u : State, exec (.fabricRequest port r) s = .next ((u.loseRequest port q.cls r.address (ck 0x08)).abortRead port q) ∧
      s.refusedAt u port r.address q.cls (fb 0x03) ∧ s.sendsLog u ∧ u.fabric = s.fabric ∧ u.cells = s.cells ∧ u.still = s.still) ∧
  (∀ (s : State) (port : Fin 42) (r q : FabReq) (k : Nat), s.live = true → s.fabricWorks = true →
    q = { r with cls := requestClass port r } →
    burstFormed q = true → s.rangeUsable r.address (64 * r.beats) = true → targetOf r.address = some k →
    k < 16 → s.reg 0x5400_02 k = 6 →
    ∃ u : State, exec (.fabricRequest port r) s = .next ((u.loseRequest port q.cls r.address (ck 0x08)).abortRead port q) ∧
      s.refusedAt u port r.address q.cls (fb 0x05) ∧ s.sendsLog u ∧ u.fabric = s.fabric ∧ u.cells = s.cells ∧ u.still = s.still) ∧
  (∀ (s : State) (target : Fin 25) (x : FabItem) (g : Nat), s.live = true → s.fabricWorks = true → s.targetAwake target = true →
    (target.val = 24 → s.nextLock = none) → s.nextGrant target = some (x, g) → s.cycleCome g = true →
    ∃ u : State, exec (.fabricGrant target) s = .next (if 24 ≤ x.port ∧ x.port < 28
        then ((List.range 24).filter fun p => s.receiverPort p == x.port).foldl State.settleEnded u else u) ∧
      x ∈ s.fabric.queue ∧ x.target = target.val ∧
      (∀ y ∈ s.eligible target, g ≤ s.grantCycle y.port target y.since) ∧
      (∀ y ∈ s.eligible target, s.grantCycle y.port target y.since = g → s.rank y ≤ s.rank x) ∧
      (∃ y ∈ u.fabric.queue, y.port = x.port ∧ y.target = x.target ∧ y.req = x.req ∧ y.granted = some (g - x.since) ∧
        y.order = s.fabric.grants + 1 ∧ y.answer = s.forwarded x.target x.req) ∧
      u.fabric.queue.length = s.fabric.queue.length ∧ u.lastGrantOf x.port x.target = s.fabric.grants + 1 ∧
      Tbl.find u.fabric.pathFree x.target = some (g + if x.req.write then x.req.beats else 1) ∧
      u.reg 0x5020_06 x.port = min (max (s.reg 0x5020_06 x.port) (g - x.since)) (2 ^ 32 - 1) ∧
      s.ledgerBut u [regKey 0x5020_06 x.port] ∧ u.log = s.log ∧ u.sent = s.sent ∧ u.cells = s.cells ∧ u.still = s.still) ∧
  (∀ (s : State) (target : Fin 25) (x : FabItem) (g : Nat), s.live = true → s.fabricWorks = true → s.targetAwake target = true →
    (target.val = 24 → s.nextLock = none) → s.nextGrant target = some (x, g) → s.cycleCome g = false →
    exec (.fabricGrant target) s = .next s) ∧
  (∀ (s : State) (l : LockedRun) (g : Nat), s.live = true → s.fabricWorks = true → s.nextLock = some l →
    g = s.grantCycle l.port 24 l.since → s.cycleCome g = true →
    ∃ t, exec (.fabricGrant 24) s = .next t ∧ l ∈ s.fabric.locks ∧ t.fabric.locks = s.fabric.locks.erase l ∧
      (∀ k ∈ s.fabric.locks, s.lastGrantOf l.port 24 ≤ s.lastGrantOf k.port 24) ∧
      t.fabric.queue = s.fabric.queue ∧ t.lastGrantOf l.port 24 = s.fabric.grants + 1 ∧
      Tbl.find t.fabric.pathFree 24 = some (g + l.accesses) ∧
      t.reg 0x5020_06 l.port = min (max (s.reg 0x5020_06 l.port) (g - l.since)) (2 ^ 32 - 1) ∧
      (g - l.since ≤ s.reg (0x5000_01 + l.cls) → l.cls < 3 →
        t.reg 0x5020_02 l.port = satAdd (entryBits 0x5020_02) (s.reg 0x5020_02 l.port) l.accesses) ∧
      (l.cls < 3 → s.reg (0x5000_01 + l.cls) < g - l.since →
        t.reg 0x5020_03 l.port = satAdd (entryBits 0x5020_03) (s.reg 0x5020_03 l.port) l.accesses) ∧
      s.ledgerBut t [regKey 0x5020_02 l.port, regKey 0x5020_03 l.port, regKey 0x5020_05 l.port, regKey 0x5020_06 l.port] ∧
      t.log = s.log ∧ t.sent = s.sent ∧ t.cells = s.cells ∧ t.still = s.still) ∧
  (∀ (s : State) (target : Fin 25) (port : Fin 42) (id w : Nat) (x : FabItem), s.live = true → s.fabricWorks = true →
    s.item? port target id true = some x → x.granted = some w → x.req.cls < 3 → s.mayComplete x = true →
    (x.req.write = true ∨ port.val < 36 ∨ port.val = 41) →
    ∃ t, exec (.fabricCompletion target port id .ok) s = .next t ∧ t.fabric.queue = s.fabric.queue.erase x ∧
      (w ≤ s.reg (0x5000_01 + x.req.cls) →
        t.reg 0x5020_02 port = satAdd (entryBits 0x5020_02) (s.reg 0x5020_02 port) 1 ∧ t.reg 0x5020_03 port = s.reg 0x5020_03 port) ∧
      (s.reg (0x5000_01 + x.req.cls) < w →
        t.reg 0x5020_03 port = satAdd (entryBits 0x5020_03) (s.reg 0x5020_03 port) 1 ∧
        t.reg 0x5020_05 port = satAdd (entryBits 0x5020_05) (s.reg 0x5020_05 port) w ∧ t.reg 0x5020_02 port = s.reg 0x5020_02 port) ∧
      (target.val ≠ 24 → x.req.write = true → t.cells = (s.writeBeats x.req).cells) ∧
      (target.val ≠ 24 → x.req.write = false → Tbl.find t.fabric.returned port =
        some (x.req.id, x.answer.getD (s.load x.req.address (64 * x.req.beats)))) ∧
      ((target.val = 24 ∨ x.req.write = false) → t.cells = s.cells) ∧
      s.ledgerBut t [regKey 0x5020_02 port, regKey 0x5020_03 port, regKey 0x5020_05 port] ∧
      t.log = s.log ∧ t.sent = s.sent ∧ t.still = s.still) ∧
  (∀ (s : State) (target : Fin 25) (id : Nat) (x : FabItem) (h : HostRead) (bs : Bytes), s.live = true → s.fabricWorks = true →
    s.item? 36 target id true = some x → x.req.write = false → s.mayComplete x = true → s.hostReadOf x.req.id = some h →
    h.failed = false → h.left = [x.req.id] → bs = x.answer.getD (s.load x.req.address (64 * x.req.beats)) →
    ∃ t, exec (.fabricCompletion target 36 id .ok) s = .next t ∧ t.fabric.queue = s.fabric.queue.erase x ∧
      t.sent = .completion (some (slice ((Tbl.put h.parts x.req.address bs).flatMap fun p => p.2) (h.base % 64) h.len)) :: s.sent ∧
      s.entriesBut t [0x5020_02, 0x5020_03, 0x5020_05] ∧ t.acc = s.acc ∧ t.log = s.log ∧ t.cells = s.cells ∧ t.still = s.still) ∧
  (∀ (s : State) (port : Fin 42) (target : Fin 25) (id : Nat) (overflow : Bool) (x : FabItem), s.live = true →
    s.fabricWorks = true → s.item? port target id false = some x → x.req.cls = 1 →
    (overflow = true ∨ s.waitedOut x.since (s.reg 0x5000_04) = true) →
    ∃ u : State, exec (.classBRefusal port target id overflow) s = .next (u.loseFrame port x.req.address) ∧
      s.refusedAt u port x.req.address 1 (fb 0x01) ∧ u.fabric.queue.length + 1 = s.fabric.queue.length ∧
      (∀ y ∈ u.fabric.queue, ∃ z ∈ s.fabric.queue, y.port = z.port ∧ y.target = z.target ∧ y.req = z.req ∧ y.granted = z.granted) ∧
      s.sendsLog u ∧ u.cells = s.cells ∧ u.still = s.still) ∧
  (∀ (s : State) (port : Fin 42) (target : Fin 25) (id : Nat) (x : FabItem), s.live = true → s.fabricWorks = true →
    s.item? port target id false = some x → x.req.cls = 2 → s.waitedOut x.since (s.reg 0x5000_05) = true →
    ∃ u : State, exec (.classCTimeout port target id) s =
        .next ((u.loseRequest port 2 x.req.address (ck 0x04)).abortRead port x.req) ∧
      s.refusedAt u port x.req.address 2 (fb 0x02) ∧ u.fabric.queue.length + 1 = s.fabric.queue.length ∧
      (∀ y ∈ u.fabric.queue, ∃ z ∈ s.fabric.queue, y.port = z.port ∧ y.target = z.target ∧ y.req = z.req ∧ y.granted = z.granted) ∧
      (s.unlimited 0x0B1 → u.newest 0x0B1 (some (fb 0x02))) ∧ s.sendsLog u ∧ u.cells = s.cells ∧ u.still = s.still) ∧
  (∀ (s : State) (port : Fin 42) (address syndrome k : Nat), s.live = true → s.fabricWorks = true →
    targetOf address = some k → k < 24 → s.readingAt port address = none →
    ∃ t e, exec (.readUncorrectable port address syndrome) s = .next t ∧ t.dram.errors.head? = some e ∧
      e.address = (if k < 16 then address / 32 * 32 else address / 8 * 8) ∧ e.syndrome = syndrome ∧ e.port = port.val ∧ e.time = s.wall ∧ e.location = (if k < 16 then k else 0x80 + (k - 16)) ∧
      t.dram.errors.length ≤ 16 ∧ t.fabric = s.fabric ∧ t.shadow = s.shadow ∧
      (port.val < 32 ∨ 36 ≤ port.val → t.cells = s.cells) ∧ t.still = s.still) ∧
  (∀ (s : State) (port : Fin 42) (address syndrome k : Nat) (x : FabItem), s.live = true → s.fabricWorks = true →
    targetOf address = some k → k < 24 → s.readingAt port address = some x → s.mayComplete x = true → x.answer = none →
    (readSectors x.req).contains ((address - x.req.address) / 32) = true →
    ∃ t e, exec (.readUncorrectable port address syndrome) s = .next t ∧ t.dram.errors.head? = some e ∧
      e.address = (if k < 16 then address / 32 * 32 else address / 8 * 8) ∧ e.syndrome = syndrome ∧ e.port = port.val ∧ t.fabric.queue = s.fabric.queue.erase x ∧
      (port.val < 32 ∨ 36 ≤ port.val → t.cells = s.cells) ∧ t.still = s.still) ∧
  (∀ (s : State) (port : Fin 42) (accesses : Nat), s.live = true → s.fabricWorks = true →
    ¬(36 ≤ port.val ∧ port.val ≤ 40) → 0 < accesses → accesses ≤ 16 →
    ∃ t l, exec (.lockedSequence port 24 accesses) s = .next t ∧ t.fabric.locks = s.fabric.locks ++ [l] ∧ l.port = port.val ∧
      l.accesses = accesses ∧ l.cls < 3 ∧ (port.val = 41 → l.cls = 2) ∧ l.since = firstCycle s.now ∧
      t.fabric.queue = s.fabric.queue ∧ t.regs = s.regs ∧ t.blobs = s.blobs ∧ t.shadow = s.shadow ∧ t.log = s.log ∧ t.sent = s.sent ∧
      t.cells = s.cells ∧ t.still = s.still) ∧
  (∀ (s : State) (port : Fin 42) (target : Fin 25) (accesses : Nat), s.live = true → s.fabricWorks = true →
    ¬(36 ≤ port.val ∧ port.val ≤ 40) → 0 < accesses → (target.val ≠ 24 ∨ 16 < accesses) →
    ∃ t a c, exec (.lockedSequence port target accesses) s = .next t ∧ s.refusedAt t port a c (fb 0x04) ∧
      targetOf a = some target.val ∧ c < 3 ∧ (port.val = 41 → c = 2) ∧
      t.fabric = s.fabric ∧ s.sendsLog t ∧ t.cells = s.cells ∧ t.still = s.still) ∧
  (∀ (s : State) (ss v port : Nat), s.managed = true → s.mayWrite ss 0x5020_0A (.num v) = true → s.partOf ss 0x5020_0A = port →
    ∃ t, exec (.clearOutcomes ss v) s = .next t ∧
      (∀ k ∈ [0x5020_02, 0x5020_03, 0x5020_04, 0x5020_05, 0x5020_06, 0x5020_08, 0x5020_09], t.reg k port = 0) ∧
      t.blob 0x5020_07 port = [] ∧ s.groupsBut t [0x5020] ∧ s.blobsBut t [regKey 0x5020_07 port] ∧ t.shadow = s.shadow ∧
      t.fabric = s.fabric ∧ t.sent = .reply ss {} :: s.sent ∧ t.log = s.log ∧ t.cells = s.cells ∧ t.still = s.still)

/-- R319, R320, R323-R325: refresh is postponed while a port is at urgency 3 and caught up after; the temperature moves the
interval; drift is tracked; an idle channel sleeps and a request wakes it. It says that these complete: refreshDue, refreshCatchUp,
temperatureRead, tracking, selfRefreshEntry, selfRefreshExit. -/
def Obligations.ChannelsRefreshTrackAndSleep : Prop :=
  (∀ (s : State) (c : Fin 16), s.live = true → s.reg 0x5400_02 c ∈ [2, 4, 5] → s.refreshDue c = true → s.anyUrgent c = true →
    s.reg 0x5400_0F c < 8 →
    ∃ t, exec (.refreshDue c) s = .next t ∧ t.reg 0x5400_0F c = satAdd (entryBits 0x5400_0F) (s.reg 0x5400_0F c) 1 ∧
      t.reg 0x5400_10 c = s.reg 0x5400_10 c ∧ s.ledgerBut t [regKey 0x5400_0F c] ∧
      t.chan c = { s.chan c with refreshed := (s.chan c).refreshed + s.reg 0x5400_0D c } ∧
      (∀ k, k ≠ c.val → t.chan k = s.chan k) ∧ t.log = s.log ∧ t.sent = s.sent ∧ t.cells = s.cells ∧ t.still = s.still) ∧
  (∀ (s : State) (c : Fin 16), s.live = true → s.reg 0x5400_02 c ∈ [2, 4, 5] → s.refreshDue c = true → 8 ≤ s.reg 0x5400_0F c →
    ∃ t, exec (.refreshDue c) s = .next t ∧ t.reg 0x5400_0F c = s.reg 0x5400_0F c ∧
      t.reg 0x5400_10 c = satAdd (entryBits 0x5400_10) (s.reg 0x5400_10 c) 1 ∧
      t.chan c = { s.chan c with openRows := [], refreshed := (s.chan c).refreshed + s.reg 0x5400_0D c } ∧
      (∀ k, k ≠ c.val → t.chan k = s.chan k) ∧ (s.unlimited 0x0C4 → t.newest 0x0C4 (some (dm 0x0B))) ∧
      s.ledgerBut t [regKey 0x5400_10 c] ∧ s.sendsLog t ∧ t.cells = s.cells ∧ t.still = s.still) ∧
  (∀ (s : State) (c : Fin 16), s.live = true → s.anyUrgent c = false → s.reg 0x5400_0F c ≠ 0 →
    exec (.refreshCatchUp c) s = .next ((s.setChan c { s.chan c with openRows := [] }).setReg 0x5400_0F c (s.reg 0x5400_0F c - 1))) ∧
  (∀ (s : State) (c : Fin 16), s.live = true → s.reg 0x5400_02 c ∈ [2, 4, 5] → s.refreshDue c = true → s.anyUrgent c = false →
    s.reg 0x5400_0F c < 8 →
    ∃ t, exec (.refreshDue c) s = .next t ∧
      t.chan c = { s.chan c with openRows := [], refreshed := (s.chan c).refreshed + s.reg 0x5400_0D c } ∧
      (∀ k, k ≠ c.val → t.chan k = s.chan k) ∧ s.ledgerBut t [] ∧ t.log = s.log ∧ t.sent = s.sent ∧ t.cells = s.cells ∧
      t.still = s.still) ∧
  (∀ (s : State) (c : Fin 16), s.live = true → s.now < (s.chan c).refreshed + s.reg 0x5400_0D c →
    exec (.refreshDue c) s = .next s) ∧
  (∀ (s : State) (c : Fin 16) (z : Int), s.live = true → s.reg 0x5400_02 c ∈ [2, 4, 5] → -128 ≤ z → z ≤ 127 →
    ∃ t, exec (.temperatureRead c z) s = .next t ∧ t.reg 0x5400_0E c = ofSigned 8 z ∧
      (85 < z → s.reg 0x5400_0D c = 3900 → t.reg 0x5400_0D c = 1950 ∧ t.newest 0x0C5 (some (dm 0x0C))) ∧
      (z ≤ 80 → s.reg 0x5400_0D c = 1950 → t.reg 0x5400_0D c = 3900 ∧ t.newest 0x0C5 (some (dm 0x0D))) ∧
      (80 < z → z ≤ 85 → t.reg 0x5400_0D c = s.reg 0x5400_0D c ∧ t.log = s.log) ∧
      s.ledgerBut t [regKey 0x5400_0D c, regKey 0x5400_0E c] ∧ t.dram = s.dram ∧ s.sendsLog t ∧ t.cells = s.cells ∧ t.still = s.still) ∧
  (∀ (s : State) (c : Fin 16) (z : Int), s.live = true → s.trackNext = some c.val → s.reg 0x5400_0F c = 0 → s.anyUrgent c = false →
    ∃ t, exec (.tracking c z true) s = .next t ∧ t.reg 0x5400_1D c = ofSigned 16 (max (-32768) (min 32767 z)) ∧
      t.dram.tracked = some c.val ∧ t.chan c = { s.chan c with trackedAt := s.now } ∧ (∀ k, k ≠ c.val → t.chan k = s.chan k) ∧
      s.ledgerBut t [regKey 0x5400_1D c] ∧ t.log = s.log ∧ t.sent = s.sent ∧ t.cells = s.cells ∧ t.still = s.still) ∧
  (∀ (s : State) (c : Fin 16) (z : Int) (ok : Bool), s.live = true → s.trackNext ≠ some c.val →
    exec (.tracking c z ok) s = .next s) ∧
  (∀ (s : State) (c : Fin 16) (z : Int), s.managed = true → s.trackNext = some c.val → s.reg 0x5400_0F c = 0 → s.anyUrgent c = false →
    s.evacRefusal c = none → s.recover.queue = [] → s.recovering = 0 →
    ∃ t, exec (.tracking c z false) s = .next t ∧ t.logged 0x0C2 (some (dm 0x05)) ∧ (t.chan c).trainAfter = true ∧
      t.dram.evacuating = some c.val ∧ t.reg 0x5400_02 c = 4 ∧
      s.ledgerBut t [regKey 0x2400_0A 0, regKey 0x5400_02 c, regKey 0x5400_1D c] ∧ s.sendsLog t ∧ t.cells = s.cells ∧ t.still = s.still) ∧
  (∀ (s : State) (c : Fin 16), s.live = true → s.reg 0x5400_02 c = 2 → s.flag 0x5400_14 c = true → s.itemsAt c = [] →
    (s.chan c).idleSince + s.reg 0x5400_15 c * 1000 ≤ s.now → (∀ p, p < 42 → 6000 < s.tolerance p c) →
    ∃ t, exec (.selfRefreshEntry c) s = .next t ∧ t.reg 0x5400_02 c = 3 ∧ t.reg 0x5400_0F c = 0 ∧
      t.reg 0x5400_16 c = satAdd (entryBits 0x5400_16) (s.reg 0x5400_16 c) 1 ∧ t.chan c = { s.chan c with openRows := [] } ∧
      (∀ k, k ≠ c.val → t.chan k = s.chan k) ∧ t.dram.mem = s.dram.mem ∧ s.ledgerBut t [regKey 0x5400_02 c, regKey 0x5400_0F c, regKey 0x5400_16 c] ∧
      t.log = s.log ∧ t.sent = s.sent ∧ t.cells = s.cells ∧ t.still = s.still) ∧
  (∀ (s : State) (c : Fin 16), s.live = true → s.itemsAt c ≠ [] → s.reg 0x5400_02 c = 3 →
    ∃ t, exec (.selfRefreshExit c false) s = .next t ∧ t.reg 0x5400_02 c = 2 ∧ t.reg 0x5400_0F c = 0 ∧
      t.chan c = { s.chan c with refreshed := s.now } ∧ (∀ k, k ≠ c.val → t.chan k = s.chan k) ∧
      s.ledgerBut t [regKey 0x5400_02 c, regKey 0x5400_0F c] ∧ t.log = s.log ∧ t.sent = s.sent ∧ t.cells = s.cells ∧ t.still = s.still) ∧
  (∀ (s : State) (c : Fin 16), s.live = true → s.entryBegun c = true →
    ∃ t, exec (.selfRefreshExit c true) s = .next t ∧ t.reg 0x5400_02 c = 2 ∧
      t.reg 0x5400_17 c = satAdd (entryBits 0x5400_17) (s.reg 0x5400_17 c) 1 ∧ s.ledgerBut t [regKey 0x5400_17 c] ∧
      t.chan c = { s.chan c with aborted := true } ∧ (∀ k, k ≠ c.val → t.chan k = s.chan k) ∧
      t.log = s.log ∧ t.sent = s.sent ∧ t.cells = s.cells ∧ t.still = s.still) ∧
  (∀ (s : State) (c : Fin 16), s.live = true → s.reg 0x5400_02 c = 2 → s.entryBegun c = false →
    exec (.selfRefreshExit c true) s = .next s)

/-- R309, R314, R322, R327, R328: scrubbing counts and logs what it meets; a channel that trains comes into service or leaves it; an
evacuation drains a channel that may then be trained again or retired. It says that these complete: scrubRead, dramTrainingDone,
evacuate, evacuationComplete, retrainChannel, retireChannel. -/
def Obligations.ChannelsComeAndGo : Prop :=
  (∀ (s : State) (c : Fin 16) (sector syndrome : Nat) (corr : Bool), s.live = true → s.reg 0x5400_02 c = 2 → s.scrubDue c sector = true →
    s.itemsAt c = [] → s.reg 0x5400_0F c = 0 →
    ∃ t e, exec (.scrubRead c sector corr true syndrome) s = .next t ∧ t.dram.errors.head? = some e ∧ e.location = c.val ∧
      e.address = c.val * 2 ^ 32 + sector * 32 ∧ e.port = 0xFF ∧ e.time = s.wall ∧
      t.reg 0x5400_12 c = satAdd (entryBits 0x5400_12) (s.reg 0x5400_12 c) 1 ∧ s.ledgerBut t [regKey 0x5400_12 c] ∧
      s.sendsLog t ∧ t.cells = s.cells ∧ t.still = s.still) ∧
  (∀ (s : State) (c : Fin 16) (sector syndrome : Nat), s.live = true → s.reg 0x5400_02 c = 2 → s.scrubDue c sector = true →
    s.itemsAt c = [] → s.reg 0x5400_0F c = 0 →
    ∃ t, exec (.scrubRead c sector true false syndrome) s = .next t ∧ (t.chan c).scrubbed = (s.scrubbedOne c |>.chan c).scrubbed ∧
      t.reg 0x5400_11 c = satAdd (entryBits 0x5400_11) (s.reg 0x5400_11 c) 1 ∧ t.dram.errors = s.dram.errors ∧
      (s.reg 0x2400_06 ≠ 0 ∨ s.managed = false → s.ledgerBut t [regKey 0x5400_11 c] ∧ t.log = s.log ∧ t.sent = s.sent) ∧ t.cells = s.cells ∧
      t.still = s.still) ∧
  (∀ (s : State) (c : Fin 16) (sector syndrome : Nat), s.live = true → s.reg 0x5400_02 c = 2 → s.scrubDue c sector = true →
    s.itemsAt c = [] → s.reg 0x5400_0F c = 0 → sector + 1 < s.usableBytes c / 32 →
    exec (.scrubRead c sector false false syndrome) s = .next (s.setChan c { s.chan c with scrubbed := sector + 1 })) ∧
  (∀ (s : State) (c : Fin 16), s.live = true → s.reg 0x5400_02 c = 1 → (s.chan c).returning = false →
    ∃ t, exec (.dramTrainingDone c true) s = .next t ∧ t.reg 0x5400_02 c = 2 ∧ t.chanInService c = true ∧
      (t.chan c).rate = s.reg 0x5400_03 c ∧ (t.chan c).density = s.reg 0x5400_04 c ∧
      ((∀ k, k < 16 → k ≠ c.val → 2 ≤ s.reg 0x5400_02 k) → bitAt (t.reg 0x1010_01) 5 = true) ∧
      t.reg 0x2400_0A = (s.reg 0x2400_0A + 1) % 2 ^ 32 ∧ s.entriesBut t [0x5400_02, 0x1010_01, 0x1010_04, 0x2400_0A] ∧ t.blobs = s.blobs ∧ t.shadow = s.shadow ∧ t.cells = s.cells ∧
      t.still = s.still) ∧
  (∀ (s : State) (c : Fin 16), s.live = true → s.reg 0x5400_02 c = 1 → (s.chan c).stored = false →
    ∃ t, exec (.dramTrainingDone c false) s = .next t ∧ t.reg 0x5400_02 c = 6 ∧ t.logged 0x0C2 (some (dm 0x04)) ∧
      t.reg 0x2400_0A = (s.reg 0x2400_0A + 1) % 2 ^ 32 ∧ s.entriesBut t [0x5400_02, 0x1010_01, 0x1010_02, 0x1010_04, 0x2400_0A] ∧
      t.shadow = s.shadow ∧ t.cells = s.cells ∧ t.still = s.still) ∧
  (∀ (s : State) (ss c : Nat), s.managed = true → s.mayWrite ss 0x5400_1A (.num 1) = true → s.partOf ss 0x5400_1A = c → c < 16 →
    s.evacRefusal c = none → s.recovering = 0 → s.recover.queue = [] →
    ∃ t, exec (.evacuate ss 1) s = .next t ∧ t.reg 0x5400_02 c = 4 ∧ t.dram.evacuating = some c ∧
      t.recover.active = some (.evacuate c) ∧ t.reg 0x2400_0A = (s.reg 0x2400_0A + 1) % 2 ^ 32 ∧
      s.ledgerBut t [regKey 0x5400_02 c, regKey 0x2400_0A 0] ∧ t.log = s.log ∧ t.sent = .reply ss {} :: s.sent ∧ t.cells = s.cells ∧ t.still = s.still) ∧
  (∀ (s : State) (c : Fin 16), s.live = true → s.dram.evacuating = some c.val → s.reg 0x5400_02 c = 4 → s.chanDrained c = true →
    (s.chan c).trainAfter = false →
    ∃ t, exec (.evacuationComplete c) s = .next t ∧ t.reg 0x5400_02 c = 5 ∧ t.dram.evacuating = none ∧
      t.newest 0x0C3 (some (dm 0x06)) ∧ t.recover.active = none ∧ t.reg 0x2400_0A = (s.reg 0x2400_0A + 1) % 2 ^ 32 ∧
      s.ledgerBut t [regKey 0x5400_02 c, regKey 0x2400_0A 0] ∧ s.sendsLog t ∧ t.cells = s.cells ∧ t.still = s.still) ∧
  (∀ (s : State) (ss c : Nat), s.managed = true → s.mayWrite ss 0x5400_1A (.num 2) = true → s.partOf ss 0x5400_1A = c → c < 16 →
    s.reg 0x5400_02 c = 5 →
    ∃ t, exec (.retrainChannel ss 2) s = .next t ∧ t.reg 0x5400_02 c = 1 ∧ (t.chan c).returning = true ∧
      (t.chan c).stored = false ∧ t.reg 0x2400_0A = (s.reg 0x2400_0A + 1) % 2 ^ 32 ∧
      s.ledgerBut t [regKey 0x5400_02 c, regKey 0x2400_0A 0] ∧ t.sent = .reply ss {} :: s.sent ∧ t.log = s.log ∧ t.cells = s.cells ∧ t.still = s.still) ∧
  (∀ (s : State) (ss c : Nat), s.managed = true → s.mayWrite ss 0x5400_1A (.num 3) = true → s.partOf ss 0x5400_1A = c → c < 16 →
    s.reg 0x5400_02 c = 5 →
    ∃ t, exec (.retireChannel ss 3) s = .next t ∧ t.reg 0x5400_02 c = 6 ∧ t.logged 0x0C3 (some (dm 0x0A)) ∧
      t.reg 0x2400_0A = (s.reg 0x2400_0A + 1) % 2 ^ 32 ∧ t.shadow = s.shadow ∧
      (s.reg 0x2400_06 ≠ 0 → s.ledgerBut t [regKey 0x5400_02 c, regKey 0x2400_0A 0]) ∧ t.sent.head? = some (.reply ss {}) ∧ t.cells = s.cells ∧ t.still = s.still)

/-- R340-R343, R349, R350, R354: a device decides its pair state; a fence makes it inactive; the heartbeat tells and shows states;
three missed pulses or a Yield make the partner take over, its outputs wait at most the limit; an Active hands over. It says that
these complete: pairDecide, pairActRise, heartbeatSend, heartbeatPulse, partnerHeartbeatAbsent, heartbeatLoss, bellowsYield,
takeoverHoldLimit, handOver. -/
def Obligations.PairDecidesAndFences : Prop :=
  (∀ (s : State), s.reg 0x5800_03 = 1 → s.pins.pairActI = true →
    ∃ t, exec .pairDecide s = .next t ∧ t.reg 0x5800_03 0 = 4 ∧ t.newest 0x0D5 none ∧ t.pins = s.pins ∧ t.pair.parking = [] ∧
      t.pair.parkingOther = s.pair.parking ∧
      s.ledgerBut t [regKey 0x5800_03 0] ∧ s.sendsLog t ∧ t.cells = s.cells ∧
      t.still = s.still) ∧
  (∀ (s : State), s.reg 0x5800_03 = 1 → s.pins.pairActI = false →
    (if s.reg 0x5800_02 = 0 then bitAt (s.reg 0x1010_01) 2 = true ∨ bitAt (s.reg 0x1010_01) 3 = true
      else 2000000000 ≤ s.now ∧ s.pair.lastEdge = none) →
    ∃ t, exec .pairDecide s = .next t ∧ t.pins = { s.pins with pairActO := true } ∧
      t.reg 0x5800_03 0 = (if s.reg 0x5800_04 = 2 then 2 else 3) ∧ t.newest 0x0D5 none ∧
      s.ledgerBut t [regKey 0x5800_03 0, regKey 0x5800_08 0, regKey 0x5800_09 0] ∧
      (s.reg 0x5800_04 ≠ 1 → t.reg 0x5800_08 = s.reg 0x5800_08 ∧ t.reg 0x5800_09 = s.reg 0x5800_09 ∧ s.sendsLog t) ∧
      (s.reg 0x5800_04 = 1 → s.managed = true → t.reg 0x5800_08 = (s.imageGen + 2) % 2 ^ 32) ∧ t.fuses = s.fuses ∧ t.nvA = s.nvA ∧ t.nvB = s.nvB ∧ t.cells = s.cells) ∧
  (∀ (s : State), s.reg 0x5800_03 = 1 → s.pins.pairActI = false → s.reg 0x5800_02 ≠ 0 → 2000000000 ≤ s.now →
    s.pair.lastEdge ≠ none →
    ∃ t, exec .pairDecide s = .next t ∧ t.reg 0x5800_03 0 = 4 ∧ t.newest 0x0D5 none ∧ s.ledgerBut t [regKey 0x5800_03 0] ∧ s.sendsLog t ∧ 
      t.cells = s.cells ∧ t.still = s.still) ∧
  (∀ (s : State), s.reg 0x5800_03 ∈ [2, 3, 6] →
    ∃ t, exec .pairActRise s = .next t ∧ t.reg 0x5800_03 0 = 7 ∧ t.pins = { s.pins with pairActI := true, pairActO := false } ∧
      (∀ p, p < 24 → s.portInService p = true → (t.port p).parked = true ∧
        (t.port p).bankReq = (s.reg 0x4400_09 p == 2 && decide (2 ≤ s.portRate p)) ∧
        (∀ w ∈ (t.port p).outbox, cellType w.cell ≠ 1)) ∧ (t.logged 0x0D5 none) ∧
      (s.managed = true → t.newest 0x0D2 (some (pa 0x03))) ∧ (s.managed = false → t.pair.unlogged = true) ∧
      s.ledgerBut t [regKey 0x5800_03 0] ∧ t.blobs = s.blobs ∧ t.shadow = s.shadow ∧ s.sendsLog t ∧
      t.fuses = s.fuses ∧ t.nvA = s.nvA ∧ t.nvB = s.nvB ∧ t.cells = s.cells) ∧
  (∀ (s : State) (main : Bool), (s.reg 0x5800_03 = 4 ∧ s.live = true) ∨ (s.reg 0x5800_03 = 5 ∧ s.imageCurrent = false) →
    exec (.heartbeatSend main) s = .next (s.send (.heartbeat 500))) ∧
  (∀ (s : State) (main : Bool), s.reg 0x5800_03 = 4 → s.live = false → exec (.heartbeatSend main) s = .next s) ∧
  (∀ (s : State) (main : Bool), s.reg 0x5800_03 = 5 → s.imageCurrent = true →
    exec (.heartbeatSend main) s = .next (s.send (.heartbeat 300))) ∧
  (∀ (s : State), s.reg 0x5800_03 ∈ [2, 3] → s.pair.yielded = false → s.managed = true →
    exec (.heartbeatSend true) s = .next (s.send (.heartbeat 100))) ∧
  (∀ (s : State) (w n : Nat), s.reg 0x5800_03 ≠ 0 → partnerOf w = some n →
    ∃ t, exec (.heartbeatPulse w) s = .next t ∧ t.pair.lastEdge = some s.now ∧ t.pair.missed = 0 ∧ t.reg 0x5800_04 0 = n ∧
      (s.reg 0x5800_03 = 2 → n < 2 → t.reg 0x5800_03 0 = 3) ∧
      (s.reg 0x5800_03 = 3 → n = 2 → t.reg 0x5800_03 0 = 2 ∧ t.newest 0x0D5 (some (pa 0x0A))) ∧
      (s.reg 0x5800_03 ∉ [2, 3] → t.reg 0x5800_03 0 = s.reg 0x5800_03 ∧ t.log = s.log ∧ t.sent = s.sent) ∧
      s.ledgerBut t [regKey 0x5800_03 0, regKey 0x5800_04 0, regKey 0x5800_08 0, regKey 0x5800_09 0] ∧ t.cells = s.cells ∧ t.still = s.still) ∧
  (∀ (s : State), s.reg 0x5800_03 ≠ 0 → s.pair.lastEdge.getD 0 + (1250000 + 1000000 * s.pair.missed) ≤ s.now →
    ∃ t, exec .partnerHeartbeatAbsent s = .next t ∧ t.pair.missed = s.pair.missed + 1 ∧ t.reg 0x5800_04 0 = 0 ∧
      (s.reg 0x5800_03 = 2 → t.reg 0x5800_03 0 = 3 ∧ t.newest 0x0D5 (some (pa 0x09))) ∧
      (s.reg 0x5800_03 ≠ 2 → t.reg 0x5800_03 0 = s.reg 0x5800_03 ∧ t.log = s.log) ∧
      s.ledgerBut t [regKey 0x5800_03 0, regKey 0x5800_04 0] ∧ s.sendsLog t ∧ t.cells = s.cells ∧ t.still = s.still) ∧
  (∀ (s : State), s.reg 0x5800_03 ∈ [4, 5] → s.pair.lastEdge.getD 0 + 3250000 ≤ s.now →
    ∃ t, exec .heartbeatLoss s = .next t ∧ t.reg 0x5800_03 0 = 6 ∧ t.pins.pairActO = true ∧ t.pair.declaredAt = some s.now ∧
      t.reg 0x5800_0A 0 = satAdd (entryBits 0x5800_0A) (s.reg 0x5800_0A) 1 ∧ s.groupsBut t [0x5800, 0x6400] ∧
      t.shadow = s.shadow ∧ t.fuses = s.fuses ∧ t.nvA = s.nvA ∧ t.nvB = s.nvB ∧ t.cells = s.cells) ∧
  (∀ (s : State) (frame : Bytes), s.bellowsArrives frame 4 → s.reg 0x5800_03 ∈ [4, 5] →
    ∃ t, exec (.bellowsYield frame) s = .next t ∧ t.reg 0x5800_03 0 = 6 ∧ t.pins.pairActO = true ∧ t.pair.declaredAt = some s.now ∧
      t.reg 0x5800_0A 0 = satAdd (entryBits 0x5800_0A) (s.reg 0x5800_0A) 1 ∧ s.groupsBut t [0x5800, 0x6400] ∧
      t.shadow = s.shadow ∧ t.fuses = s.fuses ∧ t.nvA = s.nvA ∧ t.nvB = s.nvB ∧ t.cells = s.cells) ∧
  (∀ (s : State) (t0 : Nat), s.live = true → s.reg 0x5800_03 = 6 → s.pair.declaredAt = some t0 →
    t0 + 1000000 * s.reg 0x5800_0D ≤ s.now →
    ∃ t, exec .takeoverHoldLimit s = .next t ∧ (∀ o, t.output o = { s.output o with takeoverWait := false }) ∧ t.regs = s.regs ∧
      t.blobs = s.blobs ∧ t.shadow = s.shadow ∧
      t.log = s.log ∧ t.sent = s.sent ∧ t.cells = s.cells ∧ t.still = s.still) ∧
  (∀ (s : State) (ss v : Nat), s.managed = true → s.mayWrite ss 0x5800_06 (.num v) = true → s.reg 0x5800_03 = 2 →
    s.pair.yielded = false →
    ∃ t, exec (.handOver ss v) s = .next t ∧ t.pair.yielded = true ∧ t.newest 0x0D3 (some (pa 0x04)) ∧
      Sent.bellows (bellowsFrame 4 0 s.imageGen 0 []) ∈ t.sent ∧ t.sent.head? = some (.reply ss {}) ∧ t.regs = s.regs ∧
      t.blobs = s.blobs ∧ t.shadow = s.shadow ∧ t.cells = s.cells ∧ t.still = s.still)

/-- R345-R348, R350-R353: a section goes into the copy not in force, a header commit puts whole sections in force, a Time frame is
kept (its layout is log entry 55's); the Active pushes on a timer; the partner takes over from the image, or syncs and sleeps. It
says that these complete: bellowsSectionData, bellowsHeaderCommit, bellowsTime, pushTimer, takeoverReady, resyncDone. -/
def Obligations.BellowsCarriesTheImage : Prop :=
  (∀ (s : State) (frame piece : Bytes) (k off gen copy : Nat) (old : Section'), s.bellowsArrives frame 1 → field frame 3 1 = k →
    field frame 4 4 = gen → field frame 8 4 = off → slice frame 16 (field frame 12 2) = piece → 1 ≤ k → k ≤ 3 →
    off + piece.length ≤ sectionSize k → 1 - (Tbl.get ({} : Head) s.pair.header k).copy = copy → s.sectionCopy copy k = old →
    ∃ t, exec (.bellowsSectionData frame) s = .next t ∧ t.pair.header = s.pair.header ∧ (∀ j, t.heldSection j = s.heldSection j) ∧
      (t.sectionCopy copy k).generation = gen ∧
      (t.sectionCopy copy k).bytes = overlayBytes (if old.generation = gen then old.bytes else []) off piece ∧
      t.regs = s.regs ∧ t.blobs = s.blobs ∧ t.shadow = s.shadow ∧ t.log = s.log ∧ t.sent = s.sent ∧ t.cells = s.cells ∧ t.still = s.still) ∧
  (∀ (s : State) (frame b : Bytes), s.bellowsArrives frame 2 → slice frame 16 (field frame 12 2) = b → headerOk b = true →
    (∀ k ∈ [1, 2, 3], s.sectionWhole k (headOf b k) = true) →
    ∃ t, exec (.bellowsHeaderCommit frame) s = .next t ∧ (∀ k ∈ [1, 2, 3], Tbl.get {} t.pair.header k = headOf b k) ∧
      t.pair.committedAt = some s.now ∧ t.pair.headerCommits = s.pair.headerCommits + 1 ∧ t.reg 0x5800_08 0 = field b 4 4 ∧ t.pair.secA = s.pair.secA ∧ t.pair.secB = s.pair.secB ∧
      (t.pair.copyA = b ∧ t.pair.copyB = s.pair.copyB ∨ t.pair.copyB = b ∧ t.pair.copyA = s.pair.copyA) ∧
      (s.reg 0x5800_03 ≠ 4 → s.ledgerBut t [regKey 0x5800_08 0] ∧ t.log = s.log ∧ t.sent = s.sent) ∧ t.cells = s.cells ∧ t.still = s.still) ∧
  (∀ (s : State) (frame b : Bytes), s.bellowsArrives frame 2 → slice frame 16 (field frame 12 2) = b →
    (∃ k ∈ [1, 2, 3], s.sectionWhole k (headOf b k) = false) → exec (.bellowsHeaderCommit frame) s = .next s) ∧
  (∀ (s : State) (frame b : Bytes), s.bellowsArrives frame 3 → slice frame 16 (field frame 12 2) = b → b.length = 18 →
    ∃ t m, exec (.bellowsTime frame) s = .next t ∧ t.pair.lastTime = some m ∧ m.wall = field b 0 8 ∧ m.rate = field b 8 5 ∧
      m.st = field b 13 1 ∧ m.elapsed = field b 14 4 ∧ m.got = s.now ∧ t.regs = s.regs ∧ t.blobs = s.blobs ∧
      t.shadow = s.shadow ∧ t.log = s.log ∧ t.sent = s.sent ∧
      t.cells = s.cells ∧ t.still = s.still) ∧
  (∀ (s : State), s.managed = true → s.pairActive = true → s.pair.pushedAt + 250000000 ≤ s.now →
    ∃ t, exec .pushTimer s = .next t ∧ t.pair.pushedAt = s.now ∧ t.reg 0x5800_08 0 = (s.imageGen + 1) % 2 ^ 32 ∧
      t.reg 0x5800_09 0 = s.wall ∧ Sent.bellows (bellowsFrame 3 0 s.imageGen 0 s.timePayload) ∈ t.sent ∧
      (∃ h, Sent.bellows (bellowsFrame 2 0 ((s.imageGen + 1) % 2 ^ 32) 0 (headerBytes ((s.imageGen + 1) % 2 ^ 32) h)) ∈ t.sent) ∧
      s.ledgerBut t [regKey 0x5800_08 0, regKey 0x5800_09 0] ∧ t.log = s.log ∧ t.cells = s.cells ∧ t.still = s.still) ∧
  (∀ (s : State) (ticks : Nat), s.live = true → s.reg 0x5800_03 = 6 → s.pair.ready = false → s.takeoverPowered = true →
    ∃ t, exec (.takeoverReady ticks) s = .next t ∧ t.power.mgmt = true ∧ t.time.running = true ∧ t.acc.sessions = [] ∧
      t.commits.waiting = [] ∧ t.commits.tickets = [] ∧ t.commits.listenSince = some s.now ∧ t.commits.hadPort = true ∧
      t.reg 0x2800_06 = 0 ∧
      bitAt (t.reg 0x1010_01) 0 = true ∧ bitAt (t.reg 0x1010_01) 2 = true ∧ t.still = s.still) ∧
  (∀ (s : State) (ticks : Nat), s.live = true → s.reg 0x5800_03 = 6 → s.takeoverPowered = false →
    exec (.takeoverReady ticks) s = .next s) ∧
  (∀ (s : State), s.managed = true → s.reg 0x5800_03 = 4 → s.resynced = true →
    ∃ t, exec .resyncDone s = .next t ∧ t.reg 0x5800_03 0 = 5 ∧ t.power.mgmt = false ∧
      (∀ c, c < 16 → s.chanInService c = true →
        ∃ x, Tbl.find t.pair.training c = some x ∧ x.rate = (s.chan c).rate ∧ x.density = (s.chan c).density) ∧
      t.pair.trainingOther = s.pair.training ∧ t.pair.parking = s.servingPorts.map (fun p => (p, s.parkRecord p)) ∧
      t.pair.parkingOther = s.pair.parking ∧ (∀ p ∈ s.servingPorts, (t.port p).parked = true) ∧
      (∀ d, 2 ≤ d → d < 24 → s.domain d = 2 → s.flag 0x6400_04 d = false → d ∉ [21, 22] ∨ s.power.crystal = true → t.domain d = 3) ∧
      (∀ d, 2 ≤ d → d < 24 → s.domain d = 2 → s.flag 0x6400_04 d = true → t.domain d = 2) ∧
      t.newest 0x0D5 (some (pa 0x0A)) ∧ s.entriesBut t [0x5800_03, 0x6400_02] ∧ t.blobs = s.blobs ∧ t.shadow = s.shadow ∧ s.sendsLog t ∧
      t.cells = s.cells ∧ t.still = s.still) ∧
  (∀ (s : State), s.managed = true → s.reg 0x5800_03 = 4 → s.resynced = false → exec .resyncDone s = .next s)

/-- R391: L:6400.04 = 1 holds the selected domain on whatever its need: one that was off powers, its hold time does not run out, and
L:6400.03 bit 3 shows it; it moves no domain in fault and neither Hearth nor Retention, and needs an Integrator session. It says
that these complete: forceOn. -/
def Obligations.ForcedDomainsStayOn : Prop :=
  (∀ (s : State) (ss v d : Nat), s.managed = true → s.mayWrite ss 0x6400_04 (.num v) = true → s.partOf ss 0x6400_04 = d → d < 24 →
    ∃ t, exec (.forceOn ss v) s = .next t ∧ t.reg 0x6400_04 d = v ∧ t.sent = .reply ss {} :: s.sent ∧
      (v = 1 → 2 ≤ d → s.domain d = 0 → t.domain d = 1 ∧ t.reg 0x6400_05 d = satAdd (entryBits 0x6400_05) (s.reg 0x6400_05 d) 1) ∧
      (v = 1 → 2 ≤ d → bitAt (t.domainHeld d) 3 = true) ∧
      (s.domain d = 4 → t.domain d = 4) ∧ (d < 2 → t.domain d = s.domain d ∧ bitAt (t.domainHeld d) 3 = false) ∧
      (∀ k, k < 24 → k ≠ d → t.reg 0x6400_04 k = s.reg 0x6400_04 k) ∧ s.entriesBut t [0x6400_02, 0x6400_04, 0x6400_05] ∧
      t.blobs = s.blobs ∧ t.shadow = s.shadow ∧ t.log = s.log ∧ t.cells = s.cells ∧ t.still = s.still) ∧
  (∀ (s : State) (d : Fin 24), s.live = true → 2 ≤ d.val → s.flag 0x6400_04 d = true → exec (.domainHoldExpiry d) s = .next s) ∧
  (∀ (s : State) (ss v : Nat) (x : Session), s.mayWrite ss 0x6400_04 (.num v) = true → s.session? ss = some x → 2 ≤ s.levelOf x)

/-- R326, R388-R390, R392: a domain comes on when its power is good, and what lies in it starts; a fault or a loss puts it in fault
and fails the functions that need it; without need it powers down after its hold time, its content is gone, and a request that
waited is served. It says that these complete: domainPowerGood, domainPowerTimeout, powerGoodLoss, domainHoldExpiry,
domainPowerDownDone. -/
def Obligations.DomainsComeAndGo : Prop :=
  (∀ (s : State) (d : Fin 24), s.power.refclk = true → s.domain d = 1 → ¬(15 ≤ d.val ∧ d.val ≤ 18) →
    ∃ t, exec (.domainPowerGood d) s = .next t ∧ t.domain d = 2 ∧
      (d.val = 4 ∨ d.val = 5 → ∀ c ∈ domainChannels d, t.reg 0x5400_02 c = 1 ∧
        (t.chan c).stored = (s.reg 0x5800_03 == 6 && (Tbl.find s.pair.training c).isSome)) ∧
      (d.val = 20 → bitAt (t.reg 0x1010_01) 4 = true) ∧ (d.val = 23 → ∀ b, b < 8 → t.reg 0x5480_02 b = 1) ∧
      (d.val = 3 → t.newest 0x001 none) ∧ (d.val ∉ [3, 20, 21] → t.log = s.log) ∧
      s.entriesBut t [0x1010_01, 0x1010_04, 0x2400_0A, 0x5400_02, 0x5480_02, 0x6400_02, 0x6400_05] ∧
      (d.val ∉ [4, 5, 20, 21, 23] → s.entriesBut t [0x6400_02, 0x6400_05]) ∧
      t.blobs = s.blobs ∧ t.shadow = s.shadow ∧ s.sendsLog t ∧ t.cells = s.cells ∧ t.still = s.still) ∧
  (∀ (s : State) (d : Fin 24), s.power.refclk = true → s.domain d = 1 → 15 ≤ d.val → d.val ≤ 18 →
    ∃ u : State, exec (.domainPowerGood d) s = .next ((List.range 24).foldl State.tryStartPort u).settlePower ∧ u.domain d = 2 ∧
      s.ledgerBut u [regKey 0x6400_02 d] ∧ u.log = s.log ∧ u.sent = s.sent ∧ u.cells = s.cells ∧ u.still = s.still) ∧
  (∀ (s : State) (d : Fin 24) (pll : Bool), s.power.refclk = true → s.domain d = 1 →
    ∃ u : State, exec (.domainPowerTimeout d pll) s =
        .next (((u.domainLost d (pw (if pll then 0x03 else 0x01))).advanceEpoch).triggerReplan .resources (u.domainOutputs d)) ∧
      u.domain d = 4 ∧ u.logged 0x102 (some (pw (if pll then 0x03 else 0x01))) ∧
      (∀ b ∈ s.functionsOf d, bitAt (s.reg 0x1010_01) b = false → bitAt (u.reg 0x1010_02) b = true) ∧
      s.ledgerBut u [regKey 0x6400_02 d, regKey 0x1010_02 0] ∧ s.sendsLog u ∧ u.cells = s.cells ∧ u.still = s.still) ∧
  (∀ (s : State) (d : Fin 24), s.power.refclk = true → 2 ≤ d.val → s.domain d = 2 →
    ∃ u : State, exec (.powerGoodLoss d) s =
        .next (((u.domainLost d (pw 0x01)).advanceEpoch).triggerReplan .resources (u.domainOutputs d)) ∧
      u.domain d = 4 ∧ u.logged 0x102 (some (pw 0x01)) ∧
      (∀ b ∈ s.functionsOf d, bitAt (s.reg 0x1010_01) b = false → bitAt (u.reg 0x1010_02) b = true) ∧
      s.ledgerBut u [regKey 0x6400_02 d, regKey 0x1010_02 0] ∧ s.sendsLog u ∧ u.cells = s.cells ∧ u.still = s.still) ∧
  (∀ (s : State) (d : Fin 24) (t0 : Nat), s.power.refclk = true → Tbl.find s.power.unneeded d = some t0 → s.domain d = 2 →
    s.domainHeld d = 0 → t0 + 1000000 * s.reg 0x6400_06 ≤ s.now →
    ∃ t, exec (.domainHoldExpiry d) s = .next t ∧ t.domain d = 3 ∧ Tbl.find t.power.unneeded d = none ∧
      s.ledgerBut t [regKey 0x6400_02 d] ∧ t.sent = s.sent ∧ t.log = s.log ∧ t.cells = s.cells ∧ t.still = s.still) ∧
  (∀ (s : State) (d : Fin 24), s.domain d = 3 → s.power.waitingOn.contains d.val = false →
    ∃ t, exec (.domainPowerDownDone d) s = .next t ∧ t.domain d = 0 ∧ (d.val = 21 → t.time.running = false) ∧
      (d.val ≠ 23 → t.cells = s.cells) ∧
      (d.val = 23 → t.cells = s.cells.filter fun c => !(crucibleBase ≤ c.1 && c.1 < crucibleBase + crucibleSize)) ∧
      (d.val = 4 ∨ d.val = 5 → ∀ c ∈ domainChannels d, t.reg 0x5400_02 c = 0) ∧
      (d.val = 20 → bitAt (t.reg 0x1010_01) 4 = false) ∧ (d.val = 23 → ∀ b, b < 8 → t.reg 0x5480_02 b = 0) ∧
      s.entriesBut t [0x1010_01, 0x2400_0A, 0x5400_02, 0x5480_02, 0x6400_02] ∧
      (d.val ∉ [4, 5, 20, 21, 23] → s.regsBut t [regKey 0x6400_02 d]) ∧ (d.val = 3 → t.log = {}) ∧ (d.val ≠ 3 → t.log = s.log) ∧
      t.blobs = s.blobs ∧ t.shadow = s.shadow ∧ t.sent = s.sent ∧ t.still = s.still) ∧
  (∀ (s : State) (d : Fin 24), s.domain d = 3 → s.power.waitingOn.contains d.val = true →
    ∃ t, exec (.domainPowerDownDone d) s = .next t ∧ t.domain d = 1 ∧ t.power.waitingOn.contains d.val = false ∧
      t.reg 0x6400_05 d = satAdd (entryBits 0x6400_05) (s.reg 0x6400_05 d) 1 ∧
      s.entriesBut t [0x1010_01, 0x2400_0A, 0x5400_02, 0x5480_02, 0x6400_02, 0x6400_05] ∧
      (d.val ∉ [4, 5, 20, 21, 23] → s.regsBut t [regKey 0x6400_02 d, regKey 0x6400_05 d]) ∧ (d.val ≠ 3 → t.log = s.log) ∧
      t.blobs = s.blobs ∧ t.shadow = s.shadow ∧ t.sent = s.sent ∧ t.still = s.still)

/-- R28, R393-R395, R403, R450, R457, R460: the clocks come and go; each reset leaves its cause and what lasts; a reset pulse of a
length between is undefined; the thermal ball does nothing else; a stopped controller stops nothing of the datapath, and one that
does not return resets the device. It says that these complete: crystalStable, crystalTimeout, refclkLoss, refclkReturn,
powerOnReset, sysRstN, deviceReset, hearthWatchdogExpiry, thermTrip, thermTripRelease, managementControllerStop. -/
def Obligations.ResetsAndClocksAct : Prop :=
  (∀ (s : State), s.power.crystal = false →
    ∃ t, exec .crystalStable s = .next t ∧ t.power.crystal = true ∧ t.reg 0x6400_09 0 = 1 ∧ t.newest 0x103 (some (pw 0x0C)) ∧
      s.entriesBut t [0x6400_02, 0x6400_05, 0x6400_09] ∧ t.blobs = s.blobs ∧ t.shadow = s.shadow ∧ s.sendsLog t ∧
      t.cells = s.cells ∧ t.still = s.still) ∧
  (∀ (s : State), s.power.crystal = false → s.power.crystalLate = false → 2000000000 ≤ s.now →
    ∃ t, exec .crystalTimeout s = .next t ∧ t.power.crystalLate = true ∧ t.newest 0x103 (some (pw 0x02)) ∧ t.regs = s.regs ∧
      t.blobs = s.blobs ∧ t.shadow = s.shadow ∧ s.sendsLog t ∧ t.cells = s.cells ∧ t.still = s.still) ∧
  (∀ (s : State), exec .refclkLoss s = .next { s with power := { s.power with refclk := false } }) ∧
  (∀ (s u : State), s.power.refclk = false → s.power.held = false → u = { s with power := { s.power with refclk := true } } →
    ∃ t, exec .refclkReturn s = .next t ∧ u.wasReset t 5 true ∧ t.power.refclk = true ∧ t.sent = s.sent) ∧
  (∀ (s u : State), s.power.refclk = false → s.power.held = true → u = { s with power := { s.power with refclk := true } } →
    ∃ t, exec .refclkReturn s = .next t ∧ u.wasReset t (s.reg 0x1010_07) true ∧ t.power.refclk = true ∧ t.sent = s.sent) ∧
  (∀ (s : State), ∃ t, exec .powerOnReset s = .next t ∧ s.wasReset t 1 false ∧ t.sent = s.sent) ∧
  (∀ (s : State) (n : Nat), n < 1000 → exec (.sysRstN n) s = .next s) ∧
  (∀ (s : State) (n : Nat), 10000 ≤ n →
    ∃ t, exec (.sysRstN n) s = .next t ∧ s.wasReset t 2 true ∧ t.sent = s.sent) ∧
  (∀ (s : State) (ss v : Nat), s.managed = true → s.mayWrite ss 0x1010_08 (.num v) = true →
    ∃ t, exec (.deviceReset ss v) s = .next t ∧ s.wasReset t 4 true ∧ t.sent = .reply ss {} :: s.sent) ∧
  (∀ (s : State), s.live = true → s.power.booted = true → s.power.mgmt = false → s.swapNow = none →
    ∃ t, exec .hearthWatchdogExpiry s = .next t ∧ s.wasReset t 3 true ∧ t.sent = s.sent) ∧
  (∀ (s : State) (h : HandOff), s.live = true → s.power.booted = true → s.power.mgmt = false → s.swapNow = some h → h.lost = true →
    ∃ t, exec .hearthWatchdogExpiry s = .next t ∧ s.wasReset t 3 true ∧ t.sent = s.sent) ∧
  (∀ (s : State) (h : HandOff), s.swapNow = some h → h.lost = false → exec .hearthWatchdogExpiry s = .next s) ∧
  (∀ (s : State), exec .thermTrip s = .next { s with pins := { s.pins with thermTripN := false } }) ∧
  (∀ (s : State), exec .thermTripRelease s = .next { s with pins := { s.pins with thermTripN := true } }) ∧
  (∀ (s : State), s.managed = true →
    ∃ t, exec .managementControllerStop s = .next t ∧ t.managed = false ∧ bitAt (t.reg 0x1010_01) 0 = false ∧ t.live = true ∧
      t.outputs = s.outputs ∧ t.groups = s.groups ∧ t.ingots = s.ingots ∧ t.acc = s.acc ∧ s.ledgerBut t [regKey 0x1010_01 0] ∧
      t.sent = s.sent ∧ t.log = s.log ∧ t.cells = s.cells ∧ t.still = s.still)

/-- R396-R398, R401-R404: the boot ROM starts a valid slot or enters recovery; a slot is written, verified, activated and confirmed,
and one that does not start or is not confirmed is left again. It says that these complete: bootImageLoaded, firmwareMainLoop,
firmwareStartTimeout, imageChunk, verifySlot, verifyDone, activate, confirm, trialTimeout. -/
def Obligations.FirmwareSlotsAreUpdated : Prop :=
  (∀ (s u : State) (a b : Bytes) (want : Nat), s.live = true → s.domain 2 = 2 → s.power.booted = false → s.acc.recovery = false →
    u = { s with power := { s.power with flash := [(0, a), (1, b)] } } →
    s.power.bootFrom.getD (Tbl.get 0 s.nv.regs (regKey 0x6408_01 0) % 2) = want →
    ∃ t, exec (.bootImageLoaded a b) s = .next t ∧ t.power.flash = [(0, a), (1, b)] ∧
      (u.startable want → t.power.booted = true ∧ t.power.bootFrom = none ∧ t.acc.recovery = false ∧ t.power.mgmt = s.power.mgmt ∧
        (s.nv.saved = none → s.entriesBut t ([0x6408_02, 0x6408_08, 0x6408_0D, 0x1000_05, 0x5800_03, 0x5C10_10, 0x6400_02,
          0x6400_05] ++ (List.range 10).map (0x5400_03 + ·) ++ s.nv.regs.map fun p => p.1 / 65536))) ∧
      (u.startable want → s.fuses.unrecorded = none → t.fuses = s.fuses) ∧
      (u.startable want → ∀ r, s.fuses.unrecorded = some r →
        t.fuses = { s.fuses with tally := s.fuses.tally ++ [{ r with time := 0, recovered := true }], unrecorded := none } ∧
        t.logged 0x115 none) ∧
      (u.startable want → s.nv.saved = none → (∀ p ∈ s.nv.regs, p.1 ≠ regKey 0x6408_02 0) →
        t.slotInForce = if s.slotValid (u.slotBytes want) = true then want else 1 - want) ∧
      (¬u.startable want → t.power.booted = false ∧ t.acc.recovery = true ∧ t.power.mgmt = true ∧
        t.newest 0x104 (some (pw 0x05)) ∧ s.entriesBut t [0x6400_02, 0x6400_05] ∧ t.blobs = s.blobs ∧ t.shadow = s.shadow ∧
        s.sendsLog t ∧ t.still = s.still) ∧
      t.cells = s.cells) ∧
  (∀ (s : State), s.live = true → s.domain 2 = 2 → s.power.booted = true → s.power.mgmt = false → s.swapNow = none →
    (∀ m, m < 4 → s.mailboxStatus m ≠ 1) → (∀ e, e < 18 → s.reg 0x3420_02 e ≠ 4) →
    ∃ t, exec (.firmwareMainLoop true) s = .next t ∧ t.power.mgmt = true ∧ bitAt (t.reg 0x1010_01) 0 = true ∧
      bitAt (t.reg 0x1010_01) 2 = true ∧ s.entriesBut t timeStateEntries ∧ t.blobs = s.blobs ∧
      t.shadow = s.shadow ∧ s.sendsLog t ∧ t.cells = s.cells ∧ t.still = s.still) ∧
  (∀ (s : State) (h : HandOff), s.live = true → s.domain 2 = 2 → s.power.booted = true → s.power.mgmt = false →
    s.swapNow = some h → h.failed = false → h.back = false → (∀ m, m < 4 → s.mailboxStatus m ≠ 1) → (∀ e, e < 18 → s.reg 0x3420_02 e ≠ 4) →
    ∃ t, exec (.firmwareMainLoop true) s = .next t ∧ t.power.mgmt = true ∧ t.power.trialSince = some s.now ∧
      t.swapNow = none ∧ t.power.handOff = some { h with ended := true } ∧ t.reg 0x6408_0C 0 = 1 ∧ t.newest 0x105 (some (pw 0x0D)) ∧
      s.entriesBut t (0x6408_0C :: timeStateEntries) ∧ t.blobs = s.blobs ∧ t.shadow = s.shadow ∧ s.sendsLog t ∧
      t.cells = s.cells ∧ t.still = s.still) ∧
  (∀ (s : State) (h : HandOff), s.live = true → s.domain 2 = 2 → s.power.booted = true → s.power.mgmt = false →
    s.swapNow = some h → h.failed = true → (∀ m, m < 4 → s.mailboxStatus m ≠ 1) → (∀ e, e < 18 → s.reg 0x3420_02 e ≠ 4) →
    ∃ t, exec (.firmwareMainLoop true) s = .next t ∧ t.power.mgmt = true ∧ t.swapNow = none ∧
      t.power.trialSince = (if s.reg 0x6408_0C = 1 then some s.now else none) ∧ t.reg 0x6408_0C = s.reg 0x6408_0C ∧
      s.entriesBut t timeStateEntries ∧ t.blobs = s.blobs ∧ t.shadow = s.shadow ∧ s.sendsLog t ∧ t.cells = s.cells ∧ t.still = s.still) ∧
  (∀ (s : State) (h : HandOff), s.live = true → s.domain 2 = 2 → s.power.booted = true → s.power.mgmt = false →
    s.swapNow = some h → h.failed = true →
    exec (.firmwareMainLoop false) s = .next { s with power := { s.power with handOff := some { h with lost := true } } }) ∧
  (∀ (s : State) (h : HandOff), s.live = true → s.domain 2 = 2 → s.power.booted = true → s.power.mgmt = false →
    s.swapNow = some h → h.failed = false → (∀ m, m < 4 → s.mailboxStatus m ≠ 1) → 
    ∃ t, exec (.firmwareMainLoop false) s = .next t ∧ s.bootsFrom t h.from' ∧ t.logged 0x105 (some (pw 0x07)) ∧
      (s.startable h.from' → t.power.mgmt = false ∧ t.power.handOff = some { h with failed := true, since := s.now }) ∧
      s.entriesBut t [0x6408_02, 0x6408_08, 0x6408_0D] ∧ t.blobs = s.blobs ∧ t.shadow = s.shadow ∧ s.sendsLog t ∧
      t.cells = s.cells ∧ t.still = s.still) ∧
  (∀ (s : State) (h : HandOff), s.live = true → s.swapNow = some h → h.failed = true → h.since + 300000000 ≤ s.now →
    exec .firmwareStartTimeout s = .next { s with power := { s.power with handOff := some { h with lost := true } } }) ∧
  (∀ (s : State) (h : HandOff), s.live = true → s.swapNow = some h → h.failed = false → h.since + 300000000 ≤ s.now →
    ∃ t, exec .firmwareStartTimeout s = .next t ∧ s.bootsFrom t h.from' ∧ t.logged 0x105 (some (pw 0x07)) ∧
      (s.startable h.from' →
        t.power.mgmt = s.power.mgmt ∧ t.power.handOff = some { h with failed := true, since := s.now }) ∧
      s.entriesBut t [0x6408_02, 0x6408_08, 0x6408_0D] ∧ t.blobs = s.blobs ∧ t.shadow = s.shadow ∧ s.sendsLog t ∧
      t.cells = s.cells ∧ t.still = s.still) ∧
  (∀ (s : State) (ss k : Nat) (blob : Bytes), s.managed = true → s.mayWrite ss 0x6408_06 (.bytes blob) = true →
    s.partOf ss 0x6408_06 = k → k < 2 → k ≠ s.slotInForce → (blob.drop 4).length % 256 = 0 →
    field blob 0 4 + (blob.drop 4).length ≤ slotSize →
    ∃ t, exec (.imageChunk ss blob) s = .next t ∧
      t.slotBytes k = overlayBytes (s.slotBytes k) (field blob 0 4) (blob.drop 4) ∧ t.reg 0x6408_08 k = 0 ∧
      (∀ j, j ≠ k → t.slotBytes j = s.slotBytes j) ∧ t.sent = .reply ss {} :: s.sent ∧ s.ledgerBut t [regKey 0x6408_08 k] ∧
      t.log = s.log ∧ t.cells = s.cells ∧ t.still = s.still) ∧
  (∀ (s : State) (ss v : Nat), s.managed = true → s.mayWrite ss 0x6408_07 (.num v) = true → v ≠ s.slotInForce →
    ∃ t, exec (.verifySlot ss v) s = .next t ∧ t.power.verifying = some v ∧ t.reg 0x6408_08 v = 3 ∧ t.power.flash = s.power.flash ∧
      t.sent = .reply ss {} :: s.sent ∧ s.ledgerBut t [regKey 0x6408_08 v] ∧ t.log = s.log ∧ t.cells = s.cells ∧
      t.still = s.still) ∧
  (∀ (s : State) (k : Nat), s.managed = true → s.power.verifying = some k →
    ∃ t, exec .verifyDone s = .next t ∧ t.power.verifying = none ∧
      t.reg 0x6408_08 k = (if s.slotValid (s.slotBytes k) = true then 1 else 2) ∧ t.power.flash = s.power.flash ∧
      s.ledgerBut t [regKey 0x6408_08 k] ∧ t.sent = s.sent ∧ t.log = s.log ∧ t.cells = s.cells ∧ t.still = s.still) ∧
  (∀ (s : State) (ss v : Nat), s.managed = true → s.mayWrite ss 0x6408_09 (.num v) = true → s.activationRefused = false →
    s.acc.recovery = false →
    ∃ t, exec (.activate ss v) s = .next t ∧ s.bootsFrom t (1 - s.slotInForce) ∧
      (s.startable (1 - s.slotInForce) → t.power.mgmt = false ∧ t.power.handOff =
        some { from' := s.slotInForce, dest := 1 - s.slotInForce, back := false, since := s.now }) ∧
      (s.slotValid (s.slotBytes (1 - s.slotInForce)) = true → t.log = s.log) ∧ t.power.trialSince = none ∧
      t.acc.sessions = [] ∧ t.outputs = s.outputs ∧ t.ingots = s.ingots ∧ t.groups = s.groups ∧
      t.plan = s.plan ∧ t.time = s.time ∧ s.entriesBut t [0x1010_01, 0x6408_02, 0x6408_08, 0x6408_0D] ∧ t.blobs = s.blobs ∧
      t.shadow = s.shadow ∧ t.sent.head? = some (.reply ss {}) ∧ t.cells = s.cells ∧ t.still = s.still) ∧
  (∀ (s : State) (ss v : Nat), s.managed = true → s.mayWrite ss 0x6408_09 (.num v) = true → s.activationRefused = false →
    s.acc.recovery = true →
    ∃ t, exec (.activate ss v) s = .next t ∧ t.acc.sessions = [] ∧
      (s.slotValid (s.slotBytes (1 - s.slotInForce)) = true → t.acc.recovery = false ∧ t.power.booted = true ∧
        t.power.mgmt = false ∧
        t.power.handOff = some { from' := s.slotInForce, dest := 1 - s.slotInForce, back := false, since := s.now }) ∧
      (¬s.startable (1 - s.slotInForce) → t.acc.recovery = true ∧ t.power.mgmt = true) ∧
      t.sent.head? = some (.reply ss {}) ∧ t.cells = s.cells ∧ t.nvA = s.nvA ∧ t.nvB = s.nvB ∧ t.pins = s.pins) ∧
  (∀ (s : State) (ss v : Nat), s.managed = true → s.mayWrite ss 0x6408_0A (.num v) = true → s.reg 0x6408_0C ≠ 0 →
    ∃ t, exec (.confirm ss v) s = .next t ∧ t.reg 0x6408_0C 0 = 0 ∧ t.power.trialSince = none ∧
      t.reg 0x6408_01 0 = s.slotInForce ∧ Tbl.find t.nv.regs (regKey 0x6408_01 0) = some s.slotInForce ∧
      t.nv.generation = s.nv.generation + 1 ∧ s.regsBut t [regKey 0x6408_01 0, regKey 0x6408_0C 0, regKey 0x6800_08 0] ∧
      t.blobs = s.blobs ∧ t.shadow = s.shadow ∧ t.fuses = s.fuses ∧ t.pins = s.pins ∧ t.sent = .reply ss {} :: s.sent ∧
      t.log = s.log ∧ t.cells = s.cells) ∧
  (∀ (s : State) (t0 : Nat), s.managed = true → s.power.trialSince = some t0 → t0 + 1000000000 * s.reg 0x6408_0B ≤ s.now →
    s.acc.recovery = false →
    ∃ t, exec .trialTimeout s = .next t ∧ s.bootsFrom t (1 - s.slotInForce) ∧
      (s.startable (1 - s.slotInForce) → t.power.mgmt = false ∧ t.power.handOff =
        some { from' := s.slotInForce, dest := 1 - s.slotInForce, back := true, since := s.now }) ∧
      t.power.trialSince = none ∧ t.acc.sessions = [] ∧ t.logged 0x105 (some (pw 0x08)) ∧
      s.entriesBut t [0x1010_01, 0x6408_02, 0x6408_08, 0x6408_0D] ∧ t.blobs = s.blobs ∧ t.shadow = s.shadow ∧ s.sendsLog t ∧
      t.cells = s.cells ∧ t.still = s.still)

/-- R34: the host may acquire, publish and release the Ingots of host sources only; a request for another is refused with FR-0x0E
and changes nothing, a publish of an Ingot not in Filling with FR-0x0B, and an acquire with no Free Ingot with FR-0x0D. -/
def Obligations.HostRequestsAreChecked : Prop :=
  (∀ (s : State) (ss slot : Nat), s.managed = true → s.mayWrite ss 0x2084_06 (.num slot) = true → s.hostSlot slot = false →
    exec (.hostAcquire ss slot) s = .next ((s.touched ss).reply ss (.no (fr 0x0E)))) ∧
  (∀ (s : State) (ss v : Nat), s.managed = true → s.mayWrite ss 0x2084_03 (.num v) = true →
    (ingotCount ≤ s.reg 0x2084_01 ∨ s.hostSlot (s.ingot (s.reg 0x2084_01)).slot = false) →
    exec (.hostPublish ss v) s = .next ((s.touched ss).reply ss (.no (fr 0x0E)))) ∧
  (∀ (s : State) (ss i : Nat), s.managed = true → s.mayWrite ss 0x2084_04 (.num i) = true →
    (∀ x, s.source (s.ingot i).slot = some x → x.kind ≠ 3) →
    exec (.hostRelease ss i) s = .next ((s.touched ss).reply ss (.no (fr 0x0E)))) ∧
  (∀ (s : State) (ss v : Nat), s.managed = true → s.mayWrite ss 0x2084_03 (.num v) = true → s.reg 0x2084_01 < ingotCount →
    s.hostSlot (s.ingot (s.reg 0x2084_01)).slot = true → (s.ingot (s.reg 0x2084_01)).st ≠ .filling →
    exec (.hostPublish ss v) s = .next ((s.touched ss).reply ss (.no (fr 0x0B)))) ∧
  (∀ (s : State) (ss slot : Nat), s.managed = true → s.mayWrite ss 0x2084_06 (.num slot) = true → s.hostSlot slot = true →
    s.freeOf slot = [] →
    exec (.hostAcquire ss slot) s = .next ((s.touched ss).reply ss (.no (fr 0x0D))))

/-- R384: when the last byte has been folded the unit sets state 3 and writes the result, raises vector 65 + its number and records
E-0x0F0 with CK-0x01; in state 3 no burst, suspend or abort moves it, and it leaves that state with a start. It says that these
complete: scanBurstDone. -/
def Obligations.FinishedScansStayDone : Prop :=
  (∀ (s : State) (u : Fin 4) (x : FabItem) (w : Nat), s.live = true → s.fabricWorks = true → s.reg 0x6000_07 u = 1 →
    s.scanItem u = some x → x.granted = some w → s.mayComplete x = true → x.req.write = false →
    (s.scan u).len ≤ (s.scan u).done + (s.scan u).burst →
    ∃ t, exec (.scanBurstDone u .ok) s = .next t ∧ t.reg 0x6000_07 u = 3 ∧
      t.reg 0x6000_08 u = Nat.xor (foldUnit u (s.reg 0x6000_05 u)
        (slice (s.readData x) (((s.scan u).start + (s.scan u).done) % 64) (s.scan u).burst)) (unitXor u) ∧
      t.fabric.queue = s.fabric.queue.erase x ∧ Sent.msix (65 + u.val) ∈ t.sent ∧ t.newest 0x0F0 (some (ck 0x01)) ∧
      s.entriesBut t [0x5020_02, 0x5020_03, 0x5020_05, 0x6000_05, 0x6000_07, 0x6000_08, 0x6000_09] ∧ t.blobs = s.blobs ∧ t.shadow = s.shadow ∧
      t.cells = s.cells ∧ t.still = s.still) ∧
  (∀ (s : State) (u : Fin 4) (r : MemEnd), s.reg 0x6000_07 u = 3 →
    ∃ t, exec (.scanBurstDone u r) s = .next t ∧ t.reg 0x6000_07 u = 3 ∧ t.reg 0x6000_08 u = s.reg 0x6000_08 u ∧
      t.reg 0x6000_05 u = s.reg 0x6000_05 u ∧ t.scan u = s.scan u ∧ (s.scanItem u = none → t = s)) ∧
  (∀ (s : State) (ss v : Nat), s.managed = true → s.mayWrite ss 0x6000_06 (.num v) = true →
    s.reg 0x6000_07 (s.partOf ss 0x6000_06) = 3 → 3 ≤ v →
    exec (.suspend ss v) s = .next ((s.touched ss).reply ss (.no (ck 0x03))) ∧
    exec (.abortScan ss v) s = .next ((s.touched ss).reply ss (.no (ck 0x03))))

/-- R377-R381, R383, R385: a start folds from the running value and a fresh start from the initial one, with a reference on the
named Ingot; bursts go on until a stop asked for acts at a burst's end; an error ends the scan. It says that these complete: start,
startFresh, suspend, abortScan, scanBurstDone. -/
def Obligations.UnitsScanTheirRange : Prop :=
  (∀ (s : State) (ss u k : Nat) (r : FabReq), s.managed = true → s.mayWrite ss 0x6000_06 (.num 1) = true → s.partOf ss 0x6000_06 = u → u < 4 →
    s.reg 0x6000_07 u ≠ 1 → s.reg 0x6000_07 u ≠ 2 → s.scanRangeOk (s.reg 0x6000_03 u) (s.reg 0x6000_04 u) = true →
    s.scanIngot u = none → s.scanItem u = none → r = ({ start := s.reg 0x6000_03 u, len := s.reg 0x6000_04 u } : Scan).request →
    burstFormed r = true → s.rangeUsable r.address (64 * r.beats) = true → targetOf r.address = some k →
    ¬(k < 16 ∧ s.reg 0x5400_02 k = 6) →
    ∃ t, exec (.start ss 1) s = .next t ∧
      t.fabric.queue = s.fabric.queue ++ [{ port := 37 + u, target := k, req := r, issued := s.now, since := firstCycle s.now }] ∧ t.reg 0x6000_07 u = 1 ∧ t.reg 0x6000_09 u = 0 ∧ t.reg 0x6000_05 u = s.reg 0x6000_05 u ∧
      (t.scan u).start = s.reg 0x6000_03 u ∧ (t.scan u).len = s.reg 0x6000_04 u ∧ (t.scan u).done = 0 ∧ t.ingots = s.ingots ∧
      s.ledgerBut t [regKey 0x6000_07 u, regKey 0x6000_09 u] ∧ t.sent = .reply ss {} :: s.sent ∧ t.log = s.log ∧
      t.cells = s.cells ∧ t.still = s.still) ∧
  (∀ (s : State) (ss u i k : Nat) (r : FabReq), s.managed = true → s.mayWrite ss 0x6000_06 (.num 2) = true → s.partOf ss 0x6000_06 = u → u < 4 →
    s.reg 0x6000_07 u ≠ 1 → s.scanRangeOk (s.reg 0x6000_03 u) (s.reg 0x6000_04 u) = true → s.scanIngot u = some i →
    (s.ingot i).shown = true → (s.ingot i).holds (s.reg 0x6000_03 u) (s.reg 0x6000_04 u) = true →
    s.scanItem u = none → r = ({ start := s.reg 0x6000_03 u, len := s.reg 0x6000_04 u } : Scan).request →
    burstFormed r = true → s.rangeUsable r.address (64 * r.beats) = true → targetOf r.address = some k →
    ¬(k < 16 ∧ s.reg 0x5400_02 k = 6) →
    ∃ t, exec (.startFresh ss 2) s = .next t ∧
      t.fabric.queue = s.fabric.queue ++ [{ port := 37 + u, target := k, req := r, issued := s.now, since := firstCycle s.now }] ∧ t.reg 0x6000_07 u = 1 ∧ t.reg 0x6000_05 u = unitInit u ∧
      t.reg 0x6000_0C u = (s.ingot i).seq ∧ (t.ingot i).readers.contains (unitReader u) = true ∧ (t.ingot i).st = .scanning ∧
      (t.scan u).done = 0 ∧
      s.ledgerBut t [regKey 0x6000_05 u, regKey 0x6000_07 u, regKey 0x6000_09 u, regKey 0x6000_0C u] ∧ t.sent = .reply ss {} :: s.sent ∧ t.log = s.log ∧ t.cells = s.cells ∧ t.still = s.still) ∧
  (∀ (s : State) (ss u : Nat), s.managed = true → s.mayWrite ss 0x6000_06 (.num 3) = true → s.partOf ss 0x6000_06 = u →
    s.reg 0x6000_07 u = 1 →
    ∃ t, exec (.suspend ss 3) s = .next t ∧ (t.scan u).stopReq = 3 ∧ t.regs = s.regs ∧ t.blobs = s.blobs ∧ t.shadow = s.shadow ∧
      t.sent = .reply ss {} :: s.sent ∧ t.log = s.log ∧ t.cells = s.cells ∧ t.still = s.still) ∧
  (∀ (s : State) (ss u : Nat), s.managed = true → s.mayWrite ss 0x6000_06 (.num 4) = true → s.partOf ss 0x6000_06 = u →
    s.reg 0x6000_07 u = 1 →
    ∃ t, exec (.abortScan ss 4) s = .next t ∧ (t.scan u).stopReq = 4 ∧ t.regs = s.regs ∧ t.blobs = s.blobs ∧ t.shadow = s.shadow ∧
      t.sent = .reply ss {} :: s.sent ∧ t.log = s.log ∧ t.cells = s.cells ∧ t.still = s.still) ∧
  (∀ (s : State) (u : Fin 4) (x : FabItem) (w k : Nat) (r : FabReq), s.live = true → s.fabricWorks = true → s.reg 0x6000_07 u = 1 →
    s.scanItem u = some x → x.granted = some w → s.mayComplete x = true → x.req.write = false →
    (s.scan u).done + (s.scan u).burst < (s.scan u).len →
    r = ({ s.scan u with done := (s.scan u).done + (s.scan u).burst } : Scan).request → burstFormed r = true →
    s.rangeUsable r.address (64 * r.beats) = true → targetOf r.address = some k → ¬(k < 16 ∧ s.reg 0x5400_02 k = 6) →
    (∀ y ∈ s.fabric.queue.erase x, y.port ≠ 37 + u.val) →
    ∃ t, exec (.scanBurstDone u .ok) s = .next t ∧
      ((s.scan u).stopReq ≠ 3 → (s.scan u).stopReq ≠ 4 → t.fabric.queue = s.fabric.queue.erase x ++
        [{ port := 37 + u.val, target := k, req := r, issued := s.now, since := firstCycle s.now }]) ∧
      ((s.scan u).stopReq = 3 ∨ (s.scan u).stopReq = 4 → t.fabric.queue = s.fabric.queue.erase x) ∧
      t.reg 0x6000_05 u = foldUnit u (s.reg 0x6000_05 u)
        (slice (s.readData x) (((s.scan u).start + (s.scan u).done) % 64) (s.scan u).burst) ∧
      t.reg 0x6000_09 u = (s.scan u).done + (s.scan u).burst ∧ (t.scan u).done = (s.scan u).done + (s.scan u).burst ∧
      t.reg 0x6000_07 u = (if (s.scan u).stopReq = 3 then 2 else if (s.scan u).stopReq = 4 then 0 else 1) ∧
      s.entriesBut t [0x5020_02, 0x5020_03, 0x5020_05, 0x6000_05, 0x6000_07, 0x6000_09] ∧ t.blobs = s.blobs ∧ t.shadow = s.shadow ∧
      t.log = s.log ∧ t.sent = s.sent ∧ t.cells = s.cells ∧ t.still = s.still) ∧
  (∀ (s : State) (u : Fin 4) (x : FabItem) (w : Nat), s.live = true → s.fabricWorks = true → s.reg 0x6000_07 u = 1 →
    s.scanItem u = some x → x.granted = some w → s.mayComplete x = true → x.answer = none → readSectors x.req ≠ [] →
    (∀ k ∈ readSectors x.req, (targetOf (x.req.address + 32 * k)).any (fun n => decide (n < 24)) = true) →
    ∃ t, exec (.scanBurstDone u .uncorrectable) s = .next t ∧ t.fabric.queue = s.fabric.queue.erase x ∧ t.reg 0x6000_09 u = s.reg 0x6000_09 u ∧ t.reg 0x6000_07 u = 4 ∧ t.blob 0x6000_0A u = (ck 0x05).text ∧
      Sent.msix (65 + u.val) ∈ t.sent ∧ t.newest 0x0F1 (some (ck 0x05)) ∧
      s.groupsBut t [0x5020, 0x5400, 0x5480, 0x6000] ∧ s.blobsBut t [regKey 0x5020_07 (37 + u), regKey 0x6000_0A u] ∧ t.shadow = s.shadow ∧
      t.cells = s.cells ∧ t.still = s.still) ∧
  (∀ (s : State) (u : Fin 4) (x : FabItem), s.live = true → s.fabricWorks = true → s.reg 0x6000_07 u = 1 →
    s.scanItem u = some x → x.granted = none → x.req.cls = 2 → s.waitedOut x.since (s.reg 0x5000_05) = true →
    ∃ t, exec (.scanBurstDone u .timeout) s = .next t ∧ t.reg 0x6000_07 u = 4 ∧ t.blob 0x6000_0A u = (ck 0x04).text ∧
      t.reg 0x6000_09 u = s.reg 0x6000_09 u ∧ Sent.msix (65 + u.val) ∈ t.sent ∧ t.newest 0x0F1 (some (ck 0x04)) ∧
      s.groupsBut t [0x5020, 0x6000] ∧ t.cells = s.cells ∧ t.still = s.still)

/-- R357, R358, R371: a gate notes every enabled key's reading and forgets a key that is not enabled; baselines are saved when asked
for and every so many hours, and stand in both the store and the ledger once the save is done. It says that these complete:
measurementGate, saveBaselines, autoBaselineSave, baselineSaveDone. -/
def Obligations.KeysAreScannedAndSaved : Prop :=
  (∀ (s : State) (raw : List (BitVec 16)) (g : Nat), s.live = true → s.flag 0x5C00_01 = true → s.domain 22 = 2 → s.commits.waiting = [] →
    s.power.booted = true → s.gateDue = some g →
    ∃ t, exec (.measurementGate raw) s = .next t ∧ t.keys.scan = s.keys.scan + 1 ∧ t.keys.openAt = some g ∧
      (∀ k, k < 64 → s.flag 0x5C10_02 k = true → t.reg 0x5C10_0D k = (raw.map (·.toNat)).getD k 0) ∧
      (∀ k, k < 64 → s.flag 0x5C10_02 k = false → t.keyState k = 0) ∧ s.groupsBut t [0x1010, 0x5C00, 0x5C08, 0x5C10, 0x5C20, 0x6400] ∧
      t.blobs = s.blobs ∧ t.shadow = s.shadow ∧ t.cells = s.cells ∧ t.still = s.still) ∧
  (∀ (s : State) (raw : List (BitVec 16)), s.gateDue = none ∨ s.power.booted = false → exec (.measurementGate raw) s = .next s) ∧
  (∀ (s : State) (ss v : Nat), s.managed = true → s.mayWrite ss 0x5C00_08 (.num v) = true → s.keys.saving = none →
    ∃ t, exec (.saveBaselines ss v) s = .next t ∧ t.keys.saving = some s.baselinesNow ∧ t.sent = .reply ss {} :: s.sent ∧
      t.regs = s.regs ∧ t.blobs = s.blobs ∧ t.shadow = s.shadow ∧ t.log = s.log ∧ t.cells = s.cells ∧ t.still = s.still) ∧
  (∀ (s : State), s.managed = true → s.reg 0x5C00_07 ≠ 0 → s.keys.saving = none →
    s.keys.autoAt + s.reg 0x5C00_07 * 3600000000000 ≤ s.now →
    ∃ t, exec .autoBaselineSave s = .next t ∧ t.keys.saving = some s.baselinesNow ∧ t.keys.autoAt = s.now ∧ t.regs = s.regs ∧
      t.blobs = s.blobs ∧ t.shadow = s.shadow ∧
      t.log = s.log ∧ t.sent = s.sent ∧ t.cells = s.cells ∧ t.still = s.still) ∧
  (∀ (s : State) (k b : Nat) (e : StoreEnd), s.managed = true → s.keys.saving = some [(k, b)] → k < 64 → (e = .done ∨ e = .retried) →
    s.acc.heldWrites = [] → (∀ m, m < 4 → s.mailboxStatus m ≠ 1) →
    ∃ t, exec (.baselineSaveDone e) s = .next t ∧ t.keys.saving = none ∧ Tbl.find t.nv.baselines k = some b ∧
      t.nv.generation = s.nv.generation + 1 ∧ t.reg 0x5C10_10 k = b ∧ t.reg 0x5C00_0F 0 = s.wall ∧ t.nv.regs = s.nv.regs ∧
      s.ledgerBut t [regKey 0x5C00_0F 0, regKey 0x5C10_10 k, regKey 0x6800_08 0] ∧ t.fuses = s.fuses ∧ t.pins = s.pins ∧
      t.log = s.log ∧ t.sent = s.sent ∧ t.cells = s.cells) ∧
  (∀ (s : State) (bs : Tbl Nat), s.managed = true → s.keys.saving = some bs →
    ∃ t, exec (.baselineSaveDone .powerLost) s = .next t ∧ s.wasReset t 1 false ∧ t.sent = s.sent) ∧
  (∀ (s : State) (bs : Tbl Nat), s.managed = true → s.keys.saving = some bs → s.acc.heldWrites = [] →
    (∀ m, m < 4 → s.mailboxStatus m ≠ 1) →
    ∃ t, exec (.baselineSaveDone .failed) s = .next t ∧ t.keys.saving = none ∧ t.newest 0x113 (some (lg 0x0F)) ∧
      t.reg 0x6800_08 0 = 3 ∧ t.nv = s.nv ∧ s.ledgerBut t [regKey 0x6800_08 0] ∧ s.sendsLog t ∧ t.cells = s.cells ∧ t.fuses = s.fuses ∧
      t.pins = s.pins)

/-- R388, R394, R395, R398, R437, R445, R446 with every entry's table default: after reset no session is open and no command waits,
the log and the queues are empty, Hearth and Retention are on and the controller's and the fabric's domains are being powered;
memory lists nothing (log entry 3's choice), and the invariants hold; the balls of a domain not yet on are as in reset, and later as
its state has them; a blown debug lock shuts the test port. -/
def Obligations.ResetIsAsTheTablesSay : Prop :=
  State.reset.pending = [] ∧ State.reset.acc.sessions = [] ∧ State.reset.log.recs = [] ∧ State.reset.outputs = [] ∧
  State.reset.cells = [] ∧ State.reset.plan = none ∧ State.reset.managed = false ∧ State.reset.live = true ∧
  State.reset.domain 0 = 2 ∧ State.reset.domain 1 = 2 ∧ State.reset.domain 2 = 1 ∧ State.reset.domain 3 = 1 ∧
  (∀ d, 4 ≤ d → d < 24 → State.reset.domain d = 0) ∧
  (∀ i, (State.reset.ingot i).st = .free) ∧
  (∀ k i, i < 65536 → k ≠ 0x6400_02 → k ≠ 0x6400_05 → ¬(0x2010_01 ≤ k ∧ k ≤ 0x2010_28) →
    State.reset.reg k i = entryDefault k i) ∧
  Memory.wf State.reset.cells = true ∧ State.reset.bounded ∧ State.reset.groupsFresh ∧
  (∀ (g : Signal) (d : Nat), g.domain = some d → 4 ≤ d → State.reset.balls g = g.inReset) ∧
  (∀ (s : State) (g : Signal) (d : Nat), g.domain = some d → s.domain d = 2 → s.balls g = .inUse) ∧
  (∀ (s : State) (g : Signal) (d : Nat), g.domain = some d → s.domain d = 0 → s.reg 0x6400_05 d ≠ 0 → s.balls g = g.whenOff) ∧
  (∀ s : State, s.fuses.debugLock = true → s.balls .testPort = .highZ)

/-- From every state, a step keeps memory in its one canonical form: addresses rise strictly, and no cell holds what an unlisted
address reads as. -/
def Obligations.MemoryStaysCanonical : Prop :=
  ∀ s t : State, Memory.wf s.cells = true → step s = .next t → Memory.wf t.cells = true

/-- R421-R424, R427, R428: from every state, no step clears a fuse: what is blown, programmed, revoked, counted or recorded there
stays so, and at most 4 Integrator key slots are programmed. -/
def Obligations.FusesAreOneWay : Prop :=
  ∀ s t : State, step s = .next t → s.fuses.Extends t.fuses ∧
    (s.fuses.integratorKeys.length ≤ 4 → t.fuses.integratorKeys.length ≤ 4)

/-- R100, R374, R417, R437, R313: from every state within them, a step keeps the block's bounds: 4,096 log records, 16 sessions, 16
memory errors, 64 tickets, 64 key records; and it takes one command from the queue and puts none in. -/
def Obligations.QueuesStayBounded : Prop :=
  ∀ s t : State, step s = .next t → (s.bounded → t.bounded) ∧ t.pending = s.pending.tail

/-- R28, R457: a command ends in no next state only for a reset pulse of 1 µs to 10 µs, whose effect is undefined; and while the
controller is stopped a ledger request over any session changes nothing. -/
def Obligations.OnlyTheUndefinedPulseStops : Prop :=
  (∀ (c : Instr) (s : State), (∃ t, exec c s = .next t) ∨ ∃ n, c = .sysRstN n ∧ 1000 ≤ n ∧ n < 10000 ∧ exec c s = .fault .resetPulseUndefined) ∧
  (∀ (n : Nat) (s : State), 1000 ≤ n → n < 10000 → exec (.sysRstN n) s = .fault .resetPulseUndefined) ∧
  (∀ (s : State) (ss v : Nat), s.managed = false → exec (.commit ss v) s = .next s ∧ exec (.place ss v) s = .next s ∧
    exec (.deviceReset ss v) s = .next s ∧ exec (.stepWrite ss v) s = .next s ∧ exec (.evacuate ss v) s = .next s ∧
    exec (.forceOn ss v) s = .next s ∧ exec (.hostAcquire ss v) s = .next s ∧ exec (.handOver ss v) s = .next s)
end

