-- ==== Sys2Proof/Laws/State.lean ====
section
/-! SUPPORT. The laws of the updates of State, true by definition: what each update writes, and that every other field
stays. -/

namespace Sys2Proof.Machine

set_option Elab.async false

variable (s : State)

@[simp] theorem State.setReg_log (k i v : Nat) : (s.setReg k i v).log = s.log := rfl
@[simp] theorem State.setReg_sent (k i v : Nat) : (s.setReg k i v).sent = s.sent := rfl
@[simp] theorem State.setReg_pins (k i v : Nat) : (s.setReg k i v).pins = s.pins := rfl
@[simp] theorem State.setReg_regs (k i v : Nat) : (s.setReg k i v).regs = Tbl.put s.regs (regKey k i) v := rfl
@[simp] theorem State.setReg_blobs (k i v : Nat) : (s.setReg k i v).blobs = s.blobs := rfl
@[simp] theorem State.setReg_shadow (k i v : Nat) : (s.setReg k i v).shadow = s.shadow := rfl
@[simp] theorem State.setReg_acc (k i v : Nat) : (s.setReg k i v).acc = s.acc := rfl
@[simp] theorem State.setReg_fuses (k i v : Nat) : (s.setReg k i v).fuses = s.fuses := rfl
@[simp] theorem State.setReg_nvA (k i v : Nat) : (s.setReg k i v).nvA = s.nvA := rfl
@[simp] theorem State.setReg_nvB (k i v : Nat) : (s.setReg k i v).nvB = s.nvB := rfl
@[simp] theorem State.setReg_ingots (k i v : Nat) : (s.setReg k i v).ingots = s.ingots := rfl
@[simp] theorem State.setReg_groups (k i v : Nat) : (s.setReg k i v).groups = s.groups := rfl
@[simp] theorem State.setReg_sources (k i v : Nat) : (s.setReg k i v).sources = s.sources := rfl
@[simp] theorem State.setReg_slots (k i v : Nat) : (s.setReg k i v).slots = s.slots := rfl
@[simp] theorem State.setReg_smith (k i v : Nat) : (s.setReg k i v).smith = s.smith := rfl
@[simp] theorem State.setReg_plan (k i v : Nat) : (s.setReg k i v).plan = s.plan := rfl
@[simp] theorem State.setReg_planSlot (k i v : Nat) : (s.setReg k i v).planSlot = s.planSlot := rfl
@[simp] theorem State.setReg_commits (k i v : Nat) : (s.setReg k i v).commits = s.commits := rfl
@[simp] theorem State.setReg_outputs (k i v : Nat) : (s.setReg k i v).outputs = s.outputs := rfl
@[simp] theorem State.setReg_engines (k i v : Nat) : (s.setReg k i v).engines = s.engines := rfl
@[simp] theorem State.setReg_sinks (k i v : Nat) : (s.setReg k i v).sinks = s.sinks := rfl
@[simp] theorem State.setReg_panels (k i v : Nat) : (s.setReg k i v).panels = s.panels := rfl
@[simp] theorem State.setReg_recover (k i v : Nat) : (s.setReg k i v).recover = s.recover := rfl
@[simp] theorem State.setReg_ctxs (k i v : Nat) : (s.setReg k i v).ctxs = s.ctxs := rfl
@[simp] theorem State.setReg_pipes (k i v : Nat) : (s.setReg k i v).pipes = s.pipes := rfl
@[simp] theorem State.setReg_camPorts (k i v : Nat) : (s.setReg k i v).camPorts = s.camPorts := rfl
@[simp] theorem State.setReg_lanes (k i v : Nat) : (s.setReg k i v).lanes = s.lanes := rfl
@[simp] theorem State.setReg_ports (k i v : Nat) : (s.setReg k i v).ports = s.ports := rfl
@[simp] theorem State.setReg_time (k i v : Nat) : (s.setReg k i v).time = s.time := rfl
@[simp] theorem State.setReg_fabric (k i v : Nat) : (s.setReg k i v).fabric = s.fabric := rfl
@[simp] theorem State.setReg_dram (k i v : Nat) : (s.setReg k i v).dram = s.dram := rfl
@[simp] theorem State.setReg_pair (k i v : Nat) : (s.setReg k i v).pair = s.pair := rfl
@[simp] theorem State.setReg_keys (k i v : Nat) : (s.setReg k i v).keys = s.keys := rfl
@[simp] theorem State.setReg_scans (k i v : Nat) : (s.setReg k i v).scans = s.scans := rfl
@[simp] theorem State.setReg_power (k i v : Nat) : (s.setReg k i v).power = s.power := rfl
@[simp] theorem State.setReg_fresh (k i v : Nat) : (s.setReg k i v).fresh = s.fresh := rfl
@[simp] theorem State.setReg_pending (k i v : Nat) : (s.setReg k i v).pending = s.pending := rfl

@[simp] theorem State.setRegI_log (k i w : Nat) (z : Int) : (s.setRegI k i w z).log = s.log := rfl
@[simp] theorem State.setRegI_sent (k i w : Nat) (z : Int) : (s.setRegI k i w z).sent = s.sent := rfl
@[simp] theorem State.setRegI_pins (k i w : Nat) (z : Int) : (s.setRegI k i w z).pins = s.pins := rfl
@[simp] theorem State.setRegI_regs (k i w : Nat) (z : Int) : (s.setRegI k i w z).regs = Tbl.put s.regs (regKey k i) (ofSigned w z) := rfl
@[simp] theorem State.setRegI_blobs (k i w : Nat) (z : Int) : (s.setRegI k i w z).blobs = s.blobs := rfl
@[simp] theorem State.setRegI_shadow (k i w : Nat) (z : Int) : (s.setRegI k i w z).shadow = s.shadow := rfl
@[simp] theorem State.setRegI_acc (k i w : Nat) (z : Int) : (s.setRegI k i w z).acc = s.acc := rfl
@[simp] theorem State.setRegI_fuses (k i w : Nat) (z : Int) : (s.setRegI k i w z).fuses = s.fuses := rfl
@[simp] theorem State.setRegI_nvA (k i w : Nat) (z : Int) : (s.setRegI k i w z).nvA = s.nvA := rfl
@[simp] theorem State.setRegI_nvB (k i w : Nat) (z : Int) : (s.setRegI k i w z).nvB = s.nvB := rfl
@[simp] theorem State.setRegI_ingots (k i w : Nat) (z : Int) : (s.setRegI k i w z).ingots = s.ingots := rfl
@[simp] theorem State.setRegI_groups (k i w : Nat) (z : Int) : (s.setRegI k i w z).groups = s.groups := rfl
@[simp] theorem State.setRegI_sources (k i w : Nat) (z : Int) : (s.setRegI k i w z).sources = s.sources := rfl
@[simp] theorem State.setRegI_slots (k i w : Nat) (z : Int) : (s.setRegI k i w z).slots = s.slots := rfl
@[simp] theorem State.setRegI_smith (k i w : Nat) (z : Int) : (s.setRegI k i w z).smith = s.smith := rfl
@[simp] theorem State.setRegI_plan (k i w : Nat) (z : Int) : (s.setRegI k i w z).plan = s.plan := rfl
@[simp] theorem State.setRegI_planSlot (k i w : Nat) (z : Int) : (s.setRegI k i w z).planSlot = s.planSlot := rfl
@[simp] theorem State.setRegI_commits (k i w : Nat) (z : Int) : (s.setRegI k i w z).commits = s.commits := rfl
@[simp] theorem State.setRegI_outputs (k i w : Nat) (z : Int) : (s.setRegI k i w z).outputs = s.outputs := rfl
@[simp] theorem State.setRegI_engines (k i w : Nat) (z : Int) : (s.setRegI k i w z).engines = s.engines := rfl
@[simp] theorem State.setRegI_sinks (k i w : Nat) (z : Int) : (s.setRegI k i w z).sinks = s.sinks := rfl
@[simp] theorem State.setRegI_panels (k i w : Nat) (z : Int) : (s.setRegI k i w z).panels = s.panels := rfl
@[simp] theorem State.setRegI_recover (k i w : Nat) (z : Int) : (s.setRegI k i w z).recover = s.recover := rfl
@[simp] theorem State.setRegI_ctxs (k i w : Nat) (z : Int) : (s.setRegI k i w z).ctxs = s.ctxs := rfl
@[simp] theorem State.setRegI_pipes (k i w : Nat) (z : Int) : (s.setRegI k i w z).pipes = s.pipes := rfl
@[simp] theorem State.setRegI_camPorts (k i w : Nat) (z : Int) : (s.setRegI k i w z).camPorts = s.camPorts := rfl
@[simp] theorem State.setRegI_lanes (k i w : Nat) (z : Int) : (s.setRegI k i w z).lanes = s.lanes := rfl
@[simp] theorem State.setRegI_ports (k i w : Nat) (z : Int) : (s.setRegI k i w z).ports = s.ports := rfl
@[simp] theorem State.setRegI_time (k i w : Nat) (z : Int) : (s.setRegI k i w z).time = s.time := rfl
@[simp] theorem State.setRegI_fabric (k i w : Nat) (z : Int) : (s.setRegI k i w z).fabric = s.fabric := rfl
@[simp] theorem State.setRegI_dram (k i w : Nat) (z : Int) : (s.setRegI k i w z).dram = s.dram := rfl
@[simp] theorem State.setRegI_pair (k i w : Nat) (z : Int) : (s.setRegI k i w z).pair = s.pair := rfl
@[simp] theorem State.setRegI_keys (k i w : Nat) (z : Int) : (s.setRegI k i w z).keys = s.keys := rfl
@[simp] theorem State.setRegI_scans (k i w : Nat) (z : Int) : (s.setRegI k i w z).scans = s.scans := rfl
@[simp] theorem State.setRegI_power (k i w : Nat) (z : Int) : (s.setRegI k i w z).power = s.power := rfl
@[simp] theorem State.setRegI_fresh (k i w : Nat) (z : Int) : (s.setRegI k i w z).fresh = s.fresh := rfl
@[simp] theorem State.setRegI_pending (k i w : Nat) (z : Int) : (s.setRegI k i w z).pending = s.pending := rfl

@[simp] theorem State.setFlag_log (k i : Nat) (b : Bool) : (s.setFlag k i b).log = s.log := rfl
@[simp] theorem State.setFlag_sent (k i : Nat) (b : Bool) : (s.setFlag k i b).sent = s.sent := rfl
@[simp] theorem State.setFlag_pins (k i : Nat) (b : Bool) : (s.setFlag k i b).pins = s.pins := rfl
@[simp] theorem State.setFlag_regs (k i : Nat) (b : Bool) : (s.setFlag k i b).regs = Tbl.put s.regs (regKey k i) (if b then 1 else 0) := rfl
@[simp] theorem State.setFlag_blobs (k i : Nat) (b : Bool) : (s.setFlag k i b).blobs = s.blobs := rfl
@[simp] theorem State.setFlag_shadow (k i : Nat) (b : Bool) : (s.setFlag k i b).shadow = s.shadow := rfl
@[simp] theorem State.setFlag_acc (k i : Nat) (b : Bool) : (s.setFlag k i b).acc = s.acc := rfl
@[simp] theorem State.setFlag_fuses (k i : Nat) (b : Bool) : (s.setFlag k i b).fuses = s.fuses := rfl
@[simp] theorem State.setFlag_nvA (k i : Nat) (b : Bool) : (s.setFlag k i b).nvA = s.nvA := rfl
@[simp] theorem State.setFlag_nvB (k i : Nat) (b : Bool) : (s.setFlag k i b).nvB = s.nvB := rfl
@[simp] theorem State.setFlag_ingots (k i : Nat) (b : Bool) : (s.setFlag k i b).ingots = s.ingots := rfl
@[simp] theorem State.setFlag_groups (k i : Nat) (b : Bool) : (s.setFlag k i b).groups = s.groups := rfl
@[simp] theorem State.setFlag_sources (k i : Nat) (b : Bool) : (s.setFlag k i b).sources = s.sources := rfl
@[simp] theorem State.setFlag_slots (k i : Nat) (b : Bool) : (s.setFlag k i b).slots = s.slots := rfl
@[simp] theorem State.setFlag_smith (k i : Nat) (b : Bool) : (s.setFlag k i b).smith = s.smith := rfl
@[simp] theorem State.setFlag_plan (k i : Nat) (b : Bool) : (s.setFlag k i b).plan = s.plan := rfl
@[simp] theorem State.setFlag_planSlot (k i : Nat) (b : Bool) : (s.setFlag k i b).planSlot = s.planSlot := rfl
@[simp] theorem State.setFlag_commits (k i : Nat) (b : Bool) : (s.setFlag k i b).commits = s.commits := rfl
@[simp] theorem State.setFlag_outputs (k i : Nat) (b : Bool) : (s.setFlag k i b).outputs = s.outputs := rfl
@[simp] theorem State.setFlag_engines (k i : Nat) (b : Bool) : (s.setFlag k i b).engines = s.engines := rfl
@[simp] theorem State.setFlag_sinks (k i : Nat) (b : Bool) : (s.setFlag k i b).sinks = s.sinks := rfl
@[simp] theorem State.setFlag_panels (k i : Nat) (b : Bool) : (s.setFlag k i b).panels = s.panels := rfl
@[simp] theorem State.setFlag_recover (k i : Nat) (b : Bool) : (s.setFlag k i b).recover = s.recover := rfl
@[simp] theorem State.setFlag_ctxs (k i : Nat) (b : Bool) : (s.setFlag k i b).ctxs = s.ctxs := rfl
@[simp] theorem State.setFlag_pipes (k i : Nat) (b : Bool) : (s.setFlag k i b).pipes = s.pipes := rfl
@[simp] theorem State.setFlag_camPorts (k i : Nat) (b : Bool) : (s.setFlag k i b).camPorts = s.camPorts := rfl
@[simp] theorem State.setFlag_lanes (k i : Nat) (b : Bool) : (s.setFlag k i b).lanes = s.lanes := rfl
@[simp] theorem State.setFlag_ports (k i : Nat) (b : Bool) : (s.setFlag k i b).ports = s.ports := rfl
@[simp] theorem State.setFlag_time (k i : Nat) (b : Bool) : (s.setFlag k i b).time = s.time := rfl
@[simp] theorem State.setFlag_fabric (k i : Nat) (b : Bool) : (s.setFlag k i b).fabric = s.fabric := rfl
@[simp] theorem State.setFlag_dram (k i : Nat) (b : Bool) : (s.setFlag k i b).dram = s.dram := rfl
@[simp] theorem State.setFlag_pair (k i : Nat) (b : Bool) : (s.setFlag k i b).pair = s.pair := rfl
@[simp] theorem State.setFlag_keys (k i : Nat) (b : Bool) : (s.setFlag k i b).keys = s.keys := rfl
@[simp] theorem State.setFlag_scans (k i : Nat) (b : Bool) : (s.setFlag k i b).scans = s.scans := rfl
@[simp] theorem State.setFlag_power (k i : Nat) (b : Bool) : (s.setFlag k i b).power = s.power := rfl
@[simp] theorem State.setFlag_fresh (k i : Nat) (b : Bool) : (s.setFlag k i b).fresh = s.fresh := rfl
@[simp] theorem State.setFlag_pending (k i : Nat) (b : Bool) : (s.setFlag k i b).pending = s.pending := rfl

@[simp] theorem State.bumpBy_log (k i n : Nat) : (s.bumpBy k i n).log = s.log := rfl
@[simp] theorem State.bumpBy_sent (k i n : Nat) : (s.bumpBy k i n).sent = s.sent := rfl
@[simp] theorem State.bumpBy_pins (k i n : Nat) : (s.bumpBy k i n).pins = s.pins := rfl
@[simp] theorem State.bumpBy_regs (k i n : Nat) : (s.bumpBy k i n).regs = Tbl.put s.regs (regKey k i) (satAdd (entryBits k) (s.reg k i) n) := rfl
@[simp] theorem State.bumpBy_blobs (k i n : Nat) : (s.bumpBy k i n).blobs = s.blobs := rfl
@[simp] theorem State.bumpBy_shadow (k i n : Nat) : (s.bumpBy k i n).shadow = s.shadow := rfl
@[simp] theorem State.bumpBy_acc (k i n : Nat) : (s.bumpBy k i n).acc = s.acc := rfl
@[simp] theorem State.bumpBy_fuses (k i n : Nat) : (s.bumpBy k i n).fuses = s.fuses := rfl
@[simp] theorem State.bumpBy_nvA (k i n : Nat) : (s.bumpBy k i n).nvA = s.nvA := rfl
@[simp] theorem State.bumpBy_nvB (k i n : Nat) : (s.bumpBy k i n).nvB = s.nvB := rfl
@[simp] theorem State.bumpBy_ingots (k i n : Nat) : (s.bumpBy k i n).ingots = s.ingots := rfl
@[simp] theorem State.bumpBy_groups (k i n : Nat) : (s.bumpBy k i n).groups = s.groups := rfl
@[simp] theorem State.bumpBy_sources (k i n : Nat) : (s.bumpBy k i n).sources = s.sources := rfl
@[simp] theorem State.bumpBy_slots (k i n : Nat) : (s.bumpBy k i n).slots = s.slots := rfl
@[simp] theorem State.bumpBy_smith (k i n : Nat) : (s.bumpBy k i n).smith = s.smith := rfl
@[simp] theorem State.bumpBy_plan (k i n : Nat) : (s.bumpBy k i n).plan = s.plan := rfl
@[simp] theorem State.bumpBy_planSlot (k i n : Nat) : (s.bumpBy k i n).planSlot = s.planSlot := rfl
@[simp] theorem State.bumpBy_commits (k i n : Nat) : (s.bumpBy k i n).commits = s.commits := rfl
@[simp] theorem State.bumpBy_outputs (k i n : Nat) : (s.bumpBy k i n).outputs = s.outputs := rfl
@[simp] theorem State.bumpBy_engines (k i n : Nat) : (s.bumpBy k i n).engines = s.engines := rfl
@[simp] theorem State.bumpBy_sinks (k i n : Nat) : (s.bumpBy k i n).sinks = s.sinks := rfl
@[simp] theorem State.bumpBy_panels (k i n : Nat) : (s.bumpBy k i n).panels = s.panels := rfl
@[simp] theorem State.bumpBy_recover (k i n : Nat) : (s.bumpBy k i n).recover = s.recover := rfl
@[simp] theorem State.bumpBy_ctxs (k i n : Nat) : (s.bumpBy k i n).ctxs = s.ctxs := rfl
@[simp] theorem State.bumpBy_pipes (k i n : Nat) : (s.bumpBy k i n).pipes = s.pipes := rfl
@[simp] theorem State.bumpBy_camPorts (k i n : Nat) : (s.bumpBy k i n).camPorts = s.camPorts := rfl
@[simp] theorem State.bumpBy_lanes (k i n : Nat) : (s.bumpBy k i n).lanes = s.lanes := rfl
@[simp] theorem State.bumpBy_ports (k i n : Nat) : (s.bumpBy k i n).ports = s.ports := rfl
@[simp] theorem State.bumpBy_time (k i n : Nat) : (s.bumpBy k i n).time = s.time := rfl
@[simp] theorem State.bumpBy_fabric (k i n : Nat) : (s.bumpBy k i n).fabric = s.fabric := rfl
@[simp] theorem State.bumpBy_dram (k i n : Nat) : (s.bumpBy k i n).dram = s.dram := rfl
@[simp] theorem State.bumpBy_pair (k i n : Nat) : (s.bumpBy k i n).pair = s.pair := rfl
@[simp] theorem State.bumpBy_keys (k i n : Nat) : (s.bumpBy k i n).keys = s.keys := rfl
@[simp] theorem State.bumpBy_scans (k i n : Nat) : (s.bumpBy k i n).scans = s.scans := rfl
@[simp] theorem State.bumpBy_power (k i n : Nat) : (s.bumpBy k i n).power = s.power := rfl
@[simp] theorem State.bumpBy_fresh (k i n : Nat) : (s.bumpBy k i n).fresh = s.fresh := rfl
@[simp] theorem State.bumpBy_pending (k i n : Nat) : (s.bumpBy k i n).pending = s.pending := rfl

@[simp] theorem State.bump_log (k i : Nat) : (s.bump k i).log = s.log := rfl
@[simp] theorem State.bump_sent (k i : Nat) : (s.bump k i).sent = s.sent := rfl
@[simp] theorem State.bump_pins (k i : Nat) : (s.bump k i).pins = s.pins := rfl
@[simp] theorem State.bump_regs (k i : Nat) : (s.bump k i).regs = Tbl.put s.regs (regKey k i) (satAdd (entryBits k) (s.reg k i) 1) := rfl
@[simp] theorem State.bump_blobs (k i : Nat) : (s.bump k i).blobs = s.blobs := rfl
@[simp] theorem State.bump_shadow (k i : Nat) : (s.bump k i).shadow = s.shadow := rfl
@[simp] theorem State.bump_acc (k i : Nat) : (s.bump k i).acc = s.acc := rfl
@[simp] theorem State.bump_fuses (k i : Nat) : (s.bump k i).fuses = s.fuses := rfl
@[simp] theorem State.bump_nvA (k i : Nat) : (s.bump k i).nvA = s.nvA := rfl
@[simp] theorem State.bump_nvB (k i : Nat) : (s.bump k i).nvB = s.nvB := rfl
@[simp] theorem State.bump_ingots (k i : Nat) : (s.bump k i).ingots = s.ingots := rfl
@[simp] theorem State.bump_groups (k i : Nat) : (s.bump k i).groups = s.groups := rfl
@[simp] theorem State.bump_sources (k i : Nat) : (s.bump k i).sources = s.sources := rfl
@[simp] theorem State.bump_slots (k i : Nat) : (s.bump k i).slots = s.slots := rfl
@[simp] theorem State.bump_smith (k i : Nat) : (s.bump k i).smith = s.smith := rfl
@[simp] theorem State.bump_plan (k i : Nat) : (s.bump k i).plan = s.plan := rfl
@[simp] theorem State.bump_planSlot (k i : Nat) : (s.bump k i).planSlot = s.planSlot := rfl
@[simp] theorem State.bump_commits (k i : Nat) : (s.bump k i).commits = s.commits := rfl
@[simp] theorem State.bump_outputs (k i : Nat) : (s.bump k i).outputs = s.outputs := rfl
@[simp] theorem State.bump_engines (k i : Nat) : (s.bump k i).engines = s.engines := rfl
@[simp] theorem State.bump_sinks (k i : Nat) : (s.bump k i).sinks = s.sinks := rfl
@[simp] theorem State.bump_panels (k i : Nat) : (s.bump k i).panels = s.panels := rfl
@[simp] theorem State.bump_recover (k i : Nat) : (s.bump k i).recover = s.recover := rfl
@[simp] theorem State.bump_ctxs (k i : Nat) : (s.bump k i).ctxs = s.ctxs := rfl
@[simp] theorem State.bump_pipes (k i : Nat) : (s.bump k i).pipes = s.pipes := rfl
@[simp] theorem State.bump_camPorts (k i : Nat) : (s.bump k i).camPorts = s.camPorts := rfl
@[simp] theorem State.bump_lanes (k i : Nat) : (s.bump k i).lanes = s.lanes := rfl
@[simp] theorem State.bump_ports (k i : Nat) : (s.bump k i).ports = s.ports := rfl
@[simp] theorem State.bump_time (k i : Nat) : (s.bump k i).time = s.time := rfl
@[simp] theorem State.bump_fabric (k i : Nat) : (s.bump k i).fabric = s.fabric := rfl
@[simp] theorem State.bump_dram (k i : Nat) : (s.bump k i).dram = s.dram := rfl
@[simp] theorem State.bump_pair (k i : Nat) : (s.bump k i).pair = s.pair := rfl
@[simp] theorem State.bump_keys (k i : Nat) : (s.bump k i).keys = s.keys := rfl
@[simp] theorem State.bump_scans (k i : Nat) : (s.bump k i).scans = s.scans := rfl
@[simp] theorem State.bump_power (k i : Nat) : (s.bump k i).power = s.power := rfl
@[simp] theorem State.bump_fresh (k i : Nat) : (s.bump k i).fresh = s.fresh := rfl
@[simp] theorem State.bump_pending (k i : Nat) : (s.bump k i).pending = s.pending := rfl

@[simp] theorem State.setBlob_log (k i : Nat) (b : Bytes) : (s.setBlob k i b).log = s.log := rfl
@[simp] theorem State.setBlob_sent (k i : Nat) (b : Bytes) : (s.setBlob k i b).sent = s.sent := rfl
@[simp] theorem State.setBlob_pins (k i : Nat) (b : Bytes) : (s.setBlob k i b).pins = s.pins := rfl
@[simp] theorem State.setBlob_regs (k i : Nat) (b : Bytes) : (s.setBlob k i b).regs = s.regs := rfl
@[simp] theorem State.setBlob_blobs (k i : Nat) (b : Bytes) : (s.setBlob k i b).blobs = Tbl.put s.blobs (regKey k i) b := rfl
@[simp] theorem State.setBlob_shadow (k i : Nat) (b : Bytes) : (s.setBlob k i b).shadow = s.shadow := rfl
@[simp] theorem State.setBlob_acc (k i : Nat) (b : Bytes) : (s.setBlob k i b).acc = s.acc := rfl
@[simp] theorem State.setBlob_fuses (k i : Nat) (b : Bytes) : (s.setBlob k i b).fuses = s.fuses := rfl
@[simp] theorem State.setBlob_nvA (k i : Nat) (b : Bytes) : (s.setBlob k i b).nvA = s.nvA := rfl
@[simp] theorem State.setBlob_nvB (k i : Nat) (b : Bytes) : (s.setBlob k i b).nvB = s.nvB := rfl
@[simp] theorem State.setBlob_ingots (k i : Nat) (b : Bytes) : (s.setBlob k i b).ingots = s.ingots := rfl
@[simp] theorem State.setBlob_groups (k i : Nat) (b : Bytes) : (s.setBlob k i b).groups = s.groups := rfl
@[simp] theorem State.setBlob_sources (k i : Nat) (b : Bytes) : (s.setBlob k i b).sources = s.sources := rfl
@[simp] theorem State.setBlob_slots (k i : Nat) (b : Bytes) : (s.setBlob k i b).slots = s.slots := rfl
@[simp] theorem State.setBlob_smith (k i : Nat) (b : Bytes) : (s.setBlob k i b).smith = s.smith := rfl
@[simp] theorem State.setBlob_plan (k i : Nat) (b : Bytes) : (s.setBlob k i b).plan = s.plan := rfl
@[simp] theorem State.setBlob_planSlot (k i : Nat) (b : Bytes) : (s.setBlob k i b).planSlot = s.planSlot := rfl
@[simp] theorem State.setBlob_commits (k i : Nat) (b : Bytes) : (s.setBlob k i b).commits = s.commits := rfl
@[simp] theorem State.setBlob_outputs (k i : Nat) (b : Bytes) : (s.setBlob k i b).outputs = s.outputs := rfl
@[simp] theorem State.setBlob_engines (k i : Nat) (b : Bytes) : (s.setBlob k i b).engines = s.engines := rfl
@[simp] theorem State.setBlob_sinks (k i : Nat) (b : Bytes) : (s.setBlob k i b).sinks = s.sinks := rfl
@[simp] theorem State.setBlob_panels (k i : Nat) (b : Bytes) : (s.setBlob k i b).panels = s.panels := rfl
@[simp] theorem State.setBlob_recover (k i : Nat) (b : Bytes) : (s.setBlob k i b).recover = s.recover := rfl
@[simp] theorem State.setBlob_ctxs (k i : Nat) (b : Bytes) : (s.setBlob k i b).ctxs = s.ctxs := rfl
@[simp] theorem State.setBlob_pipes (k i : Nat) (b : Bytes) : (s.setBlob k i b).pipes = s.pipes := rfl
@[simp] theorem State.setBlob_camPorts (k i : Nat) (b : Bytes) : (s.setBlob k i b).camPorts = s.camPorts := rfl
@[simp] theorem State.setBlob_lanes (k i : Nat) (b : Bytes) : (s.setBlob k i b).lanes = s.lanes := rfl
@[simp] theorem State.setBlob_ports (k i : Nat) (b : Bytes) : (s.setBlob k i b).ports = s.ports := rfl
@[simp] theorem State.setBlob_time (k i : Nat) (b : Bytes) : (s.setBlob k i b).time = s.time := rfl
@[simp] theorem State.setBlob_fabric (k i : Nat) (b : Bytes) : (s.setBlob k i b).fabric = s.fabric := rfl
@[simp] theorem State.setBlob_dram (k i : Nat) (b : Bytes) : (s.setBlob k i b).dram = s.dram := rfl
@[simp] theorem State.setBlob_pair (k i : Nat) (b : Bytes) : (s.setBlob k i b).pair = s.pair := rfl
@[simp] theorem State.setBlob_keys (k i : Nat) (b : Bytes) : (s.setBlob k i b).keys = s.keys := rfl
@[simp] theorem State.setBlob_scans (k i : Nat) (b : Bytes) : (s.setBlob k i b).scans = s.scans := rfl
@[simp] theorem State.setBlob_power (k i : Nat) (b : Bytes) : (s.setBlob k i b).power = s.power := rfl
@[simp] theorem State.setBlob_fresh (k i : Nat) (b : Bytes) : (s.setBlob k i b).fresh = s.fresh := rfl
@[simp] theorem State.setBlob_pending (k i : Nat) (b : Bytes) : (s.setBlob k i b).pending = s.pending := rfl

@[simp] theorem State.setShadow_log (k i : Nat) (v : Val) : (s.setShadow k i v).log = s.log := rfl
@[simp] theorem State.setShadow_sent (k i : Nat) (v : Val) : (s.setShadow k i v).sent = s.sent := rfl
@[simp] theorem State.setShadow_pins (k i : Nat) (v : Val) : (s.setShadow k i v).pins = s.pins := rfl
@[simp] theorem State.setShadow_regs (k i : Nat) (v : Val) : (s.setShadow k i v).regs = s.regs := rfl
@[simp] theorem State.setShadow_blobs (k i : Nat) (v : Val) : (s.setShadow k i v).blobs = s.blobs := rfl
@[simp] theorem State.setShadow_shadow (k i : Nat) (v : Val) : (s.setShadow k i v).shadow = Tbl.put s.shadow (regKey k i) { v := v, dirty := true } := rfl
@[simp] theorem State.setShadow_acc (k i : Nat) (v : Val) : (s.setShadow k i v).acc = s.acc := rfl
@[simp] theorem State.setShadow_fuses (k i : Nat) (v : Val) : (s.setShadow k i v).fuses = s.fuses := rfl
@[simp] theorem State.setShadow_nvA (k i : Nat) (v : Val) : (s.setShadow k i v).nvA = s.nvA := rfl
@[simp] theorem State.setShadow_nvB (k i : Nat) (v : Val) : (s.setShadow k i v).nvB = s.nvB := rfl
@[simp] theorem State.setShadow_ingots (k i : Nat) (v : Val) : (s.setShadow k i v).ingots = s.ingots := rfl
@[simp] theorem State.setShadow_groups (k i : Nat) (v : Val) : (s.setShadow k i v).groups = s.groups := rfl
@[simp] theorem State.setShadow_sources (k i : Nat) (v : Val) : (s.setShadow k i v).sources = s.sources := rfl
@[simp] theorem State.setShadow_slots (k i : Nat) (v : Val) : (s.setShadow k i v).slots = s.slots := rfl
@[simp] theorem State.setShadow_smith (k i : Nat) (v : Val) : (s.setShadow k i v).smith = s.smith := rfl
@[simp] theorem State.setShadow_plan (k i : Nat) (v : Val) : (s.setShadow k i v).plan = s.plan := rfl
@[simp] theorem State.setShadow_planSlot (k i : Nat) (v : Val) : (s.setShadow k i v).planSlot = s.planSlot := rfl
@[simp] theorem State.setShadow_commits (k i : Nat) (v : Val) : (s.setShadow k i v).commits = s.commits := rfl
@[simp] theorem State.setShadow_outputs (k i : Nat) (v : Val) : (s.setShadow k i v).outputs = s.outputs := rfl
@[simp] theorem State.setShadow_engines (k i : Nat) (v : Val) : (s.setShadow k i v).engines = s.engines := rfl
@[simp] theorem State.setShadow_sinks (k i : Nat) (v : Val) : (s.setShadow k i v).sinks = s.sinks := rfl
@[simp] theorem State.setShadow_panels (k i : Nat) (v : Val) : (s.setShadow k i v).panels = s.panels := rfl
@[simp] theorem State.setShadow_recover (k i : Nat) (v : Val) : (s.setShadow k i v).recover = s.recover := rfl
@[simp] theorem State.setShadow_ctxs (k i : Nat) (v : Val) : (s.setShadow k i v).ctxs = s.ctxs := rfl
@[simp] theorem State.setShadow_pipes (k i : Nat) (v : Val) : (s.setShadow k i v).pipes = s.pipes := rfl
@[simp] theorem State.setShadow_camPorts (k i : Nat) (v : Val) : (s.setShadow k i v).camPorts = s.camPorts := rfl
@[simp] theorem State.setShadow_lanes (k i : Nat) (v : Val) : (s.setShadow k i v).lanes = s.lanes := rfl
@[simp] theorem State.setShadow_ports (k i : Nat) (v : Val) : (s.setShadow k i v).ports = s.ports := rfl
@[simp] theorem State.setShadow_time (k i : Nat) (v : Val) : (s.setShadow k i v).time = s.time := rfl
@[simp] theorem State.setShadow_fabric (k i : Nat) (v : Val) : (s.setShadow k i v).fabric = s.fabric := rfl
@[simp] theorem State.setShadow_dram (k i : Nat) (v : Val) : (s.setShadow k i v).dram = s.dram := rfl
@[simp] theorem State.setShadow_pair (k i : Nat) (v : Val) : (s.setShadow k i v).pair = s.pair := rfl
@[simp] theorem State.setShadow_keys (k i : Nat) (v : Val) : (s.setShadow k i v).keys = s.keys := rfl
@[simp] theorem State.setShadow_scans (k i : Nat) (v : Val) : (s.setShadow k i v).scans = s.scans := rfl
@[simp] theorem State.setShadow_power (k i : Nat) (v : Val) : (s.setShadow k i v).power = s.power := rfl
@[simp] theorem State.setShadow_fresh (k i : Nat) (v : Val) : (s.setShadow k i v).fresh = s.fresh := rfl
@[simp] theorem State.setShadow_pending (k i : Nat) (v : Val) : (s.setShadow k i v).pending = s.pending := rfl

@[simp] theorem State.setSession_log (x : Session) : (s.setSession x).log = s.log := rfl
@[simp] theorem State.setSession_sent (x : Session) : (s.setSession x).sent = s.sent := rfl
@[simp] theorem State.setSession_pins (x : Session) : (s.setSession x).pins = s.pins := rfl
@[simp] theorem State.setSession_regs (x : Session) : (s.setSession x).regs = s.regs := rfl
@[simp] theorem State.setSession_blobs (x : Session) : (s.setSession x).blobs = s.blobs := rfl
@[simp] theorem State.setSession_shadow (x : Session) : (s.setSession x).shadow = s.shadow := rfl
@[simp] theorem State.setSession_fuses (x : Session) : (s.setSession x).fuses = s.fuses := rfl
@[simp] theorem State.setSession_nvA (x : Session) : (s.setSession x).nvA = s.nvA := rfl
@[simp] theorem State.setSession_nvB (x : Session) : (s.setSession x).nvB = s.nvB := rfl
@[simp] theorem State.setSession_ingots (x : Session) : (s.setSession x).ingots = s.ingots := rfl
@[simp] theorem State.setSession_groups (x : Session) : (s.setSession x).groups = s.groups := rfl
@[simp] theorem State.setSession_sources (x : Session) : (s.setSession x).sources = s.sources := rfl
@[simp] theorem State.setSession_slots (x : Session) : (s.setSession x).slots = s.slots := rfl
@[simp] theorem State.setSession_smith (x : Session) : (s.setSession x).smith = s.smith := rfl
@[simp] theorem State.setSession_plan (x : Session) : (s.setSession x).plan = s.plan := rfl
@[simp] theorem State.setSession_planSlot (x : Session) : (s.setSession x).planSlot = s.planSlot := rfl
@[simp] theorem State.setSession_commits (x : Session) : (s.setSession x).commits = s.commits := rfl
@[simp] theorem State.setSession_outputs (x : Session) : (s.setSession x).outputs = s.outputs := rfl
@[simp] theorem State.setSession_engines (x : Session) : (s.setSession x).engines = s.engines := rfl
@[simp] theorem State.setSession_sinks (x : Session) : (s.setSession x).sinks = s.sinks := rfl
@[simp] theorem State.setSession_panels (x : Session) : (s.setSession x).panels = s.panels := rfl
@[simp] theorem State.setSession_recover (x : Session) : (s.setSession x).recover = s.recover := rfl
@[simp] theorem State.setSession_ctxs (x : Session) : (s.setSession x).ctxs = s.ctxs := rfl
@[simp] theorem State.setSession_pipes (x : Session) : (s.setSession x).pipes = s.pipes := rfl
@[simp] theorem State.setSession_camPorts (x : Session) : (s.setSession x).camPorts = s.camPorts := rfl
@[simp] theorem State.setSession_lanes (x : Session) : (s.setSession x).lanes = s.lanes := rfl
@[simp] theorem State.setSession_ports (x : Session) : (s.setSession x).ports = s.ports := rfl
@[simp] theorem State.setSession_time (x : Session) : (s.setSession x).time = s.time := rfl
@[simp] theorem State.setSession_fabric (x : Session) : (s.setSession x).fabric = s.fabric := rfl
@[simp] theorem State.setSession_dram (x : Session) : (s.setSession x).dram = s.dram := rfl
@[simp] theorem State.setSession_pair (x : Session) : (s.setSession x).pair = s.pair := rfl
@[simp] theorem State.setSession_keys (x : Session) : (s.setSession x).keys = s.keys := rfl
@[simp] theorem State.setSession_scans (x : Session) : (s.setSession x).scans = s.scans := rfl
@[simp] theorem State.setSession_power (x : Session) : (s.setSession x).power = s.power := rfl
@[simp] theorem State.setSession_fresh (x : Session) : (s.setSession x).fresh = s.fresh := rfl
@[simp] theorem State.setSession_pending (x : Session) : (s.setSession x).pending = s.pending := rfl

@[simp] theorem State.touch_log (x : Session) : (s.touch x).log = s.log := rfl
@[simp] theorem State.touch_sent (x : Session) : (s.touch x).sent = s.sent := rfl
@[simp] theorem State.touch_pins (x : Session) : (s.touch x).pins = s.pins := rfl
@[simp] theorem State.touch_regs (x : Session) : (s.touch x).regs = s.regs := rfl
@[simp] theorem State.touch_blobs (x : Session) : (s.touch x).blobs = s.blobs := rfl
@[simp] theorem State.touch_shadow (x : Session) : (s.touch x).shadow = s.shadow := rfl
@[simp] theorem State.touch_fuses (x : Session) : (s.touch x).fuses = s.fuses := rfl
@[simp] theorem State.touch_nvA (x : Session) : (s.touch x).nvA = s.nvA := rfl
@[simp] theorem State.touch_nvB (x : Session) : (s.touch x).nvB = s.nvB := rfl
@[simp] theorem State.touch_ingots (x : Session) : (s.touch x).ingots = s.ingots := rfl
@[simp] theorem State.touch_groups (x : Session) : (s.touch x).groups = s.groups := rfl
@[simp] theorem State.touch_sources (x : Session) : (s.touch x).sources = s.sources := rfl
@[simp] theorem State.touch_slots (x : Session) : (s.touch x).slots = s.slots := rfl
@[simp] theorem State.touch_smith (x : Session) : (s.touch x).smith = s.smith := rfl
@[simp] theorem State.touch_plan (x : Session) : (s.touch x).plan = s.plan := rfl
@[simp] theorem State.touch_planSlot (x : Session) : (s.touch x).planSlot = s.planSlot := rfl
@[simp] theorem State.touch_commits (x : Session) : (s.touch x).commits = s.commits := rfl
@[simp] theorem State.touch_outputs (x : Session) : (s.touch x).outputs = s.outputs := rfl
@[simp] theorem State.touch_engines (x : Session) : (s.touch x).engines = s.engines := rfl
@[simp] theorem State.touch_sinks (x : Session) : (s.touch x).sinks = s.sinks := rfl
@[simp] theorem State.touch_panels (x : Session) : (s.touch x).panels = s.panels := rfl
@[simp] theorem State.touch_recover (x : Session) : (s.touch x).recover = s.recover := rfl
@[simp] theorem State.touch_ctxs (x : Session) : (s.touch x).ctxs = s.ctxs := rfl
@[simp] theorem State.touch_pipes (x : Session) : (s.touch x).pipes = s.pipes := rfl
@[simp] theorem State.touch_camPorts (x : Session) : (s.touch x).camPorts = s.camPorts := rfl
@[simp] theorem State.touch_lanes (x : Session) : (s.touch x).lanes = s.lanes := rfl
@[simp] theorem State.touch_ports (x : Session) : (s.touch x).ports = s.ports := rfl
@[simp] theorem State.touch_time (x : Session) : (s.touch x).time = s.time := rfl
@[simp] theorem State.touch_fabric (x : Session) : (s.touch x).fabric = s.fabric := rfl
@[simp] theorem State.touch_dram (x : Session) : (s.touch x).dram = s.dram := rfl
@[simp] theorem State.touch_pair (x : Session) : (s.touch x).pair = s.pair := rfl
@[simp] theorem State.touch_keys (x : Session) : (s.touch x).keys = s.keys := rfl
@[simp] theorem State.touch_scans (x : Session) : (s.touch x).scans = s.scans := rfl
@[simp] theorem State.touch_power (x : Session) : (s.touch x).power = s.power := rfl
@[simp] theorem State.touch_fresh (x : Session) : (s.touch x).fresh = s.fresh := rfl
@[simp] theorem State.touch_pending (x : Session) : (s.touch x).pending = s.pending := rfl

@[simp] theorem State.setIngot_log (n : Nat) (x : Ingot) : (s.setIngot n x).log = s.log := rfl
@[simp] theorem State.setIngot_sent (n : Nat) (x : Ingot) : (s.setIngot n x).sent = s.sent := rfl
@[simp] theorem State.setIngot_pins (n : Nat) (x : Ingot) : (s.setIngot n x).pins = s.pins := rfl
@[simp] theorem State.setIngot_regs (n : Nat) (x : Ingot) : (s.setIngot n x).regs = s.regs := rfl
@[simp] theorem State.setIngot_blobs (n : Nat) (x : Ingot) : (s.setIngot n x).blobs = s.blobs := rfl
@[simp] theorem State.setIngot_shadow (n : Nat) (x : Ingot) : (s.setIngot n x).shadow = s.shadow := rfl
@[simp] theorem State.setIngot_acc (n : Nat) (x : Ingot) : (s.setIngot n x).acc = s.acc := rfl
@[simp] theorem State.setIngot_fuses (n : Nat) (x : Ingot) : (s.setIngot n x).fuses = s.fuses := rfl
@[simp] theorem State.setIngot_nvA (n : Nat) (x : Ingot) : (s.setIngot n x).nvA = s.nvA := rfl
@[simp] theorem State.setIngot_nvB (n : Nat) (x : Ingot) : (s.setIngot n x).nvB = s.nvB := rfl
@[simp] theorem State.setIngot_ingots (n : Nat) (x : Ingot) : (s.setIngot n x).ingots = Tbl.put s.ingots n x := rfl
@[simp] theorem State.setIngot_groups (n : Nat) (x : Ingot) : (s.setIngot n x).groups = s.groups := rfl
@[simp] theorem State.setIngot_sources (n : Nat) (x : Ingot) : (s.setIngot n x).sources = s.sources := rfl
@[simp] theorem State.setIngot_slots (n : Nat) (x : Ingot) : (s.setIngot n x).slots = s.slots := rfl
@[simp] theorem State.setIngot_smith (n : Nat) (x : Ingot) : (s.setIngot n x).smith = s.smith := rfl
@[simp] theorem State.setIngot_plan (n : Nat) (x : Ingot) : (s.setIngot n x).plan = s.plan := rfl
@[simp] theorem State.setIngot_planSlot (n : Nat) (x : Ingot) : (s.setIngot n x).planSlot = s.planSlot := rfl
@[simp] theorem State.setIngot_commits (n : Nat) (x : Ingot) : (s.setIngot n x).commits = s.commits := rfl
@[simp] theorem State.setIngot_outputs (n : Nat) (x : Ingot) : (s.setIngot n x).outputs = s.outputs := rfl
@[simp] theorem State.setIngot_engines (n : Nat) (x : Ingot) : (s.setIngot n x).engines = s.engines := rfl
@[simp] theorem State.setIngot_sinks (n : Nat) (x : Ingot) : (s.setIngot n x).sinks = s.sinks := rfl
@[simp] theorem State.setIngot_panels (n : Nat) (x : Ingot) : (s.setIngot n x).panels = s.panels := rfl
@[simp] theorem State.setIngot_recover (n : Nat) (x : Ingot) : (s.setIngot n x).recover = s.recover := rfl
@[simp] theorem State.setIngot_ctxs (n : Nat) (x : Ingot) : (s.setIngot n x).ctxs = s.ctxs := rfl
@[simp] theorem State.setIngot_pipes (n : Nat) (x : Ingot) : (s.setIngot n x).pipes = s.pipes := rfl
@[simp] theorem State.setIngot_camPorts (n : Nat) (x : Ingot) : (s.setIngot n x).camPorts = s.camPorts := rfl
@[simp] theorem State.setIngot_lanes (n : Nat) (x : Ingot) : (s.setIngot n x).lanes = s.lanes := rfl
@[simp] theorem State.setIngot_ports (n : Nat) (x : Ingot) : (s.setIngot n x).ports = s.ports := rfl
@[simp] theorem State.setIngot_time (n : Nat) (x : Ingot) : (s.setIngot n x).time = s.time := rfl
@[simp] theorem State.setIngot_fabric (n : Nat) (x : Ingot) : (s.setIngot n x).fabric = s.fabric := rfl
@[simp] theorem State.setIngot_dram (n : Nat) (x : Ingot) : (s.setIngot n x).dram = s.dram := rfl
@[simp] theorem State.setIngot_pair (n : Nat) (x : Ingot) : (s.setIngot n x).pair = s.pair := rfl
@[simp] theorem State.setIngot_keys (n : Nat) (x : Ingot) : (s.setIngot n x).keys = s.keys := rfl
@[simp] theorem State.setIngot_scans (n : Nat) (x : Ingot) : (s.setIngot n x).scans = s.scans := rfl
@[simp] theorem State.setIngot_power (n : Nat) (x : Ingot) : (s.setIngot n x).power = s.power := rfl
@[simp] theorem State.setIngot_fresh (n : Nat) (x : Ingot) : (s.setIngot n x).fresh = s.fresh := rfl
@[simp] theorem State.setIngot_pending (n : Nat) (x : Ingot) : (s.setIngot n x).pending = s.pending := rfl

@[simp] theorem State.setGroup_log (n : Nat) (x : Group) : (s.setGroup n x).log = s.log := rfl
@[simp] theorem State.setGroup_sent (n : Nat) (x : Group) : (s.setGroup n x).sent = s.sent := rfl
@[simp] theorem State.setGroup_pins (n : Nat) (x : Group) : (s.setGroup n x).pins = s.pins := rfl
@[simp] theorem State.setGroup_regs (n : Nat) (x : Group) : (s.setGroup n x).regs = s.regs := rfl
@[simp] theorem State.setGroup_blobs (n : Nat) (x : Group) : (s.setGroup n x).blobs = s.blobs := rfl
@[simp] theorem State.setGroup_shadow (n : Nat) (x : Group) : (s.setGroup n x).shadow = s.shadow := rfl
@[simp] theorem State.setGroup_acc (n : Nat) (x : Group) : (s.setGroup n x).acc = s.acc := rfl
@[simp] theorem State.setGroup_fuses (n : Nat) (x : Group) : (s.setGroup n x).fuses = s.fuses := rfl
@[simp] theorem State.setGroup_nvA (n : Nat) (x : Group) : (s.setGroup n x).nvA = s.nvA := rfl
@[simp] theorem State.setGroup_nvB (n : Nat) (x : Group) : (s.setGroup n x).nvB = s.nvB := rfl
@[simp] theorem State.setGroup_ingots (n : Nat) (x : Group) : (s.setGroup n x).ingots = s.ingots := rfl
@[simp] theorem State.setGroup_groups (n : Nat) (x : Group) : (s.setGroup n x).groups = Tbl.put s.groups n x := rfl
@[simp] theorem State.setGroup_sources (n : Nat) (x : Group) : (s.setGroup n x).sources = s.sources := rfl
@[simp] theorem State.setGroup_slots (n : Nat) (x : Group) : (s.setGroup n x).slots = s.slots := rfl
@[simp] theorem State.setGroup_smith (n : Nat) (x : Group) : (s.setGroup n x).smith = s.smith := rfl
@[simp] theorem State.setGroup_plan (n : Nat) (x : Group) : (s.setGroup n x).plan = s.plan := rfl
@[simp] theorem State.setGroup_planSlot (n : Nat) (x : Group) : (s.setGroup n x).planSlot = s.planSlot := rfl
@[simp] theorem State.setGroup_commits (n : Nat) (x : Group) : (s.setGroup n x).commits = s.commits := rfl
@[simp] theorem State.setGroup_outputs (n : Nat) (x : Group) : (s.setGroup n x).outputs = s.outputs := rfl
@[simp] theorem State.setGroup_engines (n : Nat) (x : Group) : (s.setGroup n x).engines = s.engines := rfl
@[simp] theorem State.setGroup_sinks (n : Nat) (x : Group) : (s.setGroup n x).sinks = s.sinks := rfl
@[simp] theorem State.setGroup_panels (n : Nat) (x : Group) : (s.setGroup n x).panels = s.panels := rfl
@[simp] theorem State.setGroup_recover (n : Nat) (x : Group) : (s.setGroup n x).recover = s.recover := rfl
@[simp] theorem State.setGroup_ctxs (n : Nat) (x : Group) : (s.setGroup n x).ctxs = s.ctxs := rfl
@[simp] theorem State.setGroup_pipes (n : Nat) (x : Group) : (s.setGroup n x).pipes = s.pipes := rfl
@[simp] theorem State.setGroup_camPorts (n : Nat) (x : Group) : (s.setGroup n x).camPorts = s.camPorts := rfl
@[simp] theorem State.setGroup_lanes (n : Nat) (x : Group) : (s.setGroup n x).lanes = s.lanes := rfl
@[simp] theorem State.setGroup_ports (n : Nat) (x : Group) : (s.setGroup n x).ports = s.ports := rfl
@[simp] theorem State.setGroup_time (n : Nat) (x : Group) : (s.setGroup n x).time = s.time := rfl
@[simp] theorem State.setGroup_fabric (n : Nat) (x : Group) : (s.setGroup n x).fabric = s.fabric := rfl
@[simp] theorem State.setGroup_dram (n : Nat) (x : Group) : (s.setGroup n x).dram = s.dram := rfl
@[simp] theorem State.setGroup_pair (n : Nat) (x : Group) : (s.setGroup n x).pair = s.pair := rfl
@[simp] theorem State.setGroup_keys (n : Nat) (x : Group) : (s.setGroup n x).keys = s.keys := rfl
@[simp] theorem State.setGroup_scans (n : Nat) (x : Group) : (s.setGroup n x).scans = s.scans := rfl
@[simp] theorem State.setGroup_power (n : Nat) (x : Group) : (s.setGroup n x).power = s.power := rfl
@[simp] theorem State.setGroup_fresh (n : Nat) (x : Group) : (s.setGroup n x).fresh = s.fresh := rfl
@[simp] theorem State.setGroup_pending (n : Nat) (x : Group) : (s.setGroup n x).pending = s.pending := rfl

@[simp] theorem State.setSlot_log (n : Nat) (x : Slot) : (s.setSlot n x).log = s.log := rfl
@[simp] theorem State.setSlot_sent (n : Nat) (x : Slot) : (s.setSlot n x).sent = s.sent := rfl
@[simp] theorem State.setSlot_pins (n : Nat) (x : Slot) : (s.setSlot n x).pins = s.pins := rfl
@[simp] theorem State.setSlot_regs (n : Nat) (x : Slot) : (s.setSlot n x).regs = s.regs := rfl
@[simp] theorem State.setSlot_blobs (n : Nat) (x : Slot) : (s.setSlot n x).blobs = s.blobs := rfl
@[simp] theorem State.setSlot_shadow (n : Nat) (x : Slot) : (s.setSlot n x).shadow = s.shadow := rfl
@[simp] theorem State.setSlot_acc (n : Nat) (x : Slot) : (s.setSlot n x).acc = s.acc := rfl
@[simp] theorem State.setSlot_fuses (n : Nat) (x : Slot) : (s.setSlot n x).fuses = s.fuses := rfl
@[simp] theorem State.setSlot_nvA (n : Nat) (x : Slot) : (s.setSlot n x).nvA = s.nvA := rfl
@[simp] theorem State.setSlot_nvB (n : Nat) (x : Slot) : (s.setSlot n x).nvB = s.nvB := rfl
@[simp] theorem State.setSlot_ingots (n : Nat) (x : Slot) : (s.setSlot n x).ingots = s.ingots := rfl
@[simp] theorem State.setSlot_groups (n : Nat) (x : Slot) : (s.setSlot n x).groups = s.groups := rfl
@[simp] theorem State.setSlot_sources (n : Nat) (x : Slot) : (s.setSlot n x).sources = s.sources := rfl
@[simp] theorem State.setSlot_slots (n : Nat) (x : Slot) : (s.setSlot n x).slots = Tbl.put s.slots n x := rfl
@[simp] theorem State.setSlot_smith (n : Nat) (x : Slot) : (s.setSlot n x).smith = s.smith := rfl
@[simp] theorem State.setSlot_plan (n : Nat) (x : Slot) : (s.setSlot n x).plan = s.plan := rfl
@[simp] theorem State.setSlot_planSlot (n : Nat) (x : Slot) : (s.setSlot n x).planSlot = s.planSlot := rfl
@[simp] theorem State.setSlot_commits (n : Nat) (x : Slot) : (s.setSlot n x).commits = s.commits := rfl
@[simp] theorem State.setSlot_outputs (n : Nat) (x : Slot) : (s.setSlot n x).outputs = s.outputs := rfl
@[simp] theorem State.setSlot_engines (n : Nat) (x : Slot) : (s.setSlot n x).engines = s.engines := rfl
@[simp] theorem State.setSlot_sinks (n : Nat) (x : Slot) : (s.setSlot n x).sinks = s.sinks := rfl
@[simp] theorem State.setSlot_panels (n : Nat) (x : Slot) : (s.setSlot n x).panels = s.panels := rfl
@[simp] theorem State.setSlot_recover (n : Nat) (x : Slot) : (s.setSlot n x).recover = s.recover := rfl
@[simp] theorem State.setSlot_ctxs (n : Nat) (x : Slot) : (s.setSlot n x).ctxs = s.ctxs := rfl
@[simp] theorem State.setSlot_pipes (n : Nat) (x : Slot) : (s.setSlot n x).pipes = s.pipes := rfl
@[simp] theorem State.setSlot_camPorts (n : Nat) (x : Slot) : (s.setSlot n x).camPorts = s.camPorts := rfl
@[simp] theorem State.setSlot_lanes (n : Nat) (x : Slot) : (s.setSlot n x).lanes = s.lanes := rfl
@[simp] theorem State.setSlot_ports (n : Nat) (x : Slot) : (s.setSlot n x).ports = s.ports := rfl
@[simp] theorem State.setSlot_time (n : Nat) (x : Slot) : (s.setSlot n x).time = s.time := rfl
@[simp] theorem State.setSlot_fabric (n : Nat) (x : Slot) : (s.setSlot n x).fabric = s.fabric := rfl
@[simp] theorem State.setSlot_dram (n : Nat) (x : Slot) : (s.setSlot n x).dram = s.dram := rfl
@[simp] theorem State.setSlot_pair (n : Nat) (x : Slot) : (s.setSlot n x).pair = s.pair := rfl
@[simp] theorem State.setSlot_keys (n : Nat) (x : Slot) : (s.setSlot n x).keys = s.keys := rfl
@[simp] theorem State.setSlot_scans (n : Nat) (x : Slot) : (s.setSlot n x).scans = s.scans := rfl
@[simp] theorem State.setSlot_power (n : Nat) (x : Slot) : (s.setSlot n x).power = s.power := rfl
@[simp] theorem State.setSlot_fresh (n : Nat) (x : Slot) : (s.setSlot n x).fresh = s.fresh := rfl
@[simp] theorem State.setSlot_pending (n : Nat) (x : Slot) : (s.setSlot n x).pending = s.pending := rfl

@[simp] theorem State.setOutput_log (n : Nat) (x : Output) : (s.setOutput n x).log = s.log := rfl
@[simp] theorem State.setOutput_sent (n : Nat) (x : Output) : (s.setOutput n x).sent = s.sent := rfl
@[simp] theorem State.setOutput_pins (n : Nat) (x : Output) : (s.setOutput n x).pins = s.pins := rfl
@[simp] theorem State.setOutput_regs (n : Nat) (x : Output) : (s.setOutput n x).regs = s.regs := rfl
@[simp] theorem State.setOutput_blobs (n : Nat) (x : Output) : (s.setOutput n x).blobs = s.blobs := rfl
@[simp] theorem State.setOutput_shadow (n : Nat) (x : Output) : (s.setOutput n x).shadow = s.shadow := rfl
@[simp] theorem State.setOutput_acc (n : Nat) (x : Output) : (s.setOutput n x).acc = s.acc := rfl
@[simp] theorem State.setOutput_fuses (n : Nat) (x : Output) : (s.setOutput n x).fuses = s.fuses := rfl
@[simp] theorem State.setOutput_nvA (n : Nat) (x : Output) : (s.setOutput n x).nvA = s.nvA := rfl
@[simp] theorem State.setOutput_nvB (n : Nat) (x : Output) : (s.setOutput n x).nvB = s.nvB := rfl
@[simp] theorem State.setOutput_ingots (n : Nat) (x : Output) : (s.setOutput n x).ingots = s.ingots := rfl
@[simp] theorem State.setOutput_groups (n : Nat) (x : Output) : (s.setOutput n x).groups = s.groups := rfl
@[simp] theorem State.setOutput_sources (n : Nat) (x : Output) : (s.setOutput n x).sources = s.sources := rfl
@[simp] theorem State.setOutput_slots (n : Nat) (x : Output) : (s.setOutput n x).slots = s.slots := rfl
@[simp] theorem State.setOutput_smith (n : Nat) (x : Output) : (s.setOutput n x).smith = s.smith := rfl
@[simp] theorem State.setOutput_plan (n : Nat) (x : Output) : (s.setOutput n x).plan = s.plan := rfl
@[simp] theorem State.setOutput_planSlot (n : Nat) (x : Output) : (s.setOutput n x).planSlot = s.planSlot := rfl
@[simp] theorem State.setOutput_commits (n : Nat) (x : Output) : (s.setOutput n x).commits = s.commits := rfl
@[simp] theorem State.setOutput_outputs (n : Nat) (x : Output) : (s.setOutput n x).outputs = Tbl.put s.outputs n x := rfl
@[simp] theorem State.setOutput_engines (n : Nat) (x : Output) : (s.setOutput n x).engines = s.engines := rfl
@[simp] theorem State.setOutput_sinks (n : Nat) (x : Output) : (s.setOutput n x).sinks = s.sinks := rfl
@[simp] theorem State.setOutput_panels (n : Nat) (x : Output) : (s.setOutput n x).panels = s.panels := rfl
@[simp] theorem State.setOutput_recover (n : Nat) (x : Output) : (s.setOutput n x).recover = s.recover := rfl
@[simp] theorem State.setOutput_ctxs (n : Nat) (x : Output) : (s.setOutput n x).ctxs = s.ctxs := rfl
@[simp] theorem State.setOutput_pipes (n : Nat) (x : Output) : (s.setOutput n x).pipes = s.pipes := rfl
@[simp] theorem State.setOutput_camPorts (n : Nat) (x : Output) : (s.setOutput n x).camPorts = s.camPorts := rfl
@[simp] theorem State.setOutput_lanes (n : Nat) (x : Output) : (s.setOutput n x).lanes = s.lanes := rfl
@[simp] theorem State.setOutput_ports (n : Nat) (x : Output) : (s.setOutput n x).ports = s.ports := rfl
@[simp] theorem State.setOutput_time (n : Nat) (x : Output) : (s.setOutput n x).time = s.time := rfl
@[simp] theorem State.setOutput_fabric (n : Nat) (x : Output) : (s.setOutput n x).fabric = s.fabric := rfl
@[simp] theorem State.setOutput_dram (n : Nat) (x : Output) : (s.setOutput n x).dram = s.dram := rfl
@[simp] theorem State.setOutput_pair (n : Nat) (x : Output) : (s.setOutput n x).pair = s.pair := rfl
@[simp] theorem State.setOutput_keys (n : Nat) (x : Output) : (s.setOutput n x).keys = s.keys := rfl
@[simp] theorem State.setOutput_scans (n : Nat) (x : Output) : (s.setOutput n x).scans = s.scans := rfl
@[simp] theorem State.setOutput_power (n : Nat) (x : Output) : (s.setOutput n x).power = s.power := rfl
@[simp] theorem State.setOutput_fresh (n : Nat) (x : Output) : (s.setOutput n x).fresh = s.fresh := rfl
@[simp] theorem State.setOutput_pending (n : Nat) (x : Output) : (s.setOutput n x).pending = s.pending := rfl

@[simp] theorem State.setEngine_log (n : Nat) (x : Engine) : (s.setEngine n x).log = s.log := rfl
@[simp] theorem State.setEngine_sent (n : Nat) (x : Engine) : (s.setEngine n x).sent = s.sent := rfl
@[simp] theorem State.setEngine_pins (n : Nat) (x : Engine) : (s.setEngine n x).pins = s.pins := rfl
@[simp] theorem State.setEngine_regs (n : Nat) (x : Engine) : (s.setEngine n x).regs = s.regs := rfl
@[simp] theorem State.setEngine_blobs (n : Nat) (x : Engine) : (s.setEngine n x).blobs = s.blobs := rfl
@[simp] theorem State.setEngine_shadow (n : Nat) (x : Engine) : (s.setEngine n x).shadow = s.shadow := rfl
@[simp] theorem State.setEngine_acc (n : Nat) (x : Engine) : (s.setEngine n x).acc = s.acc := rfl
@[simp] theorem State.setEngine_fuses (n : Nat) (x : Engine) : (s.setEngine n x).fuses = s.fuses := rfl
@[simp] theorem State.setEngine_nvA (n : Nat) (x : Engine) : (s.setEngine n x).nvA = s.nvA := rfl
@[simp] theorem State.setEngine_nvB (n : Nat) (x : Engine) : (s.setEngine n x).nvB = s.nvB := rfl
@[simp] theorem State.setEngine_ingots (n : Nat) (x : Engine) : (s.setEngine n x).ingots = s.ingots := rfl
@[simp] theorem State.setEngine_groups (n : Nat) (x : Engine) : (s.setEngine n x).groups = s.groups := rfl
@[simp] theorem State.setEngine_sources (n : Nat) (x : Engine) : (s.setEngine n x).sources = s.sources := rfl
@[simp] theorem State.setEngine_slots (n : Nat) (x : Engine) : (s.setEngine n x).slots = s.slots := rfl
@[simp] theorem State.setEngine_smith (n : Nat) (x : Engine) : (s.setEngine n x).smith = s.smith := rfl
@[simp] theorem State.setEngine_plan (n : Nat) (x : Engine) : (s.setEngine n x).plan = s.plan := rfl
@[simp] theorem State.setEngine_planSlot (n : Nat) (x : Engine) : (s.setEngine n x).planSlot = s.planSlot := rfl
@[simp] theorem State.setEngine_commits (n : Nat) (x : Engine) : (s.setEngine n x).commits = s.commits := rfl
@[simp] theorem State.setEngine_outputs (n : Nat) (x : Engine) : (s.setEngine n x).outputs = s.outputs := rfl
@[simp] theorem State.setEngine_engines (n : Nat) (x : Engine) : (s.setEngine n x).engines = Tbl.put s.engines n x := rfl
@[simp] theorem State.setEngine_sinks (n : Nat) (x : Engine) : (s.setEngine n x).sinks = s.sinks := rfl
@[simp] theorem State.setEngine_panels (n : Nat) (x : Engine) : (s.setEngine n x).panels = s.panels := rfl
@[simp] theorem State.setEngine_recover (n : Nat) (x : Engine) : (s.setEngine n x).recover = s.recover := rfl
@[simp] theorem State.setEngine_ctxs (n : Nat) (x : Engine) : (s.setEngine n x).ctxs = s.ctxs := rfl
@[simp] theorem State.setEngine_pipes (n : Nat) (x : Engine) : (s.setEngine n x).pipes = s.pipes := rfl
@[simp] theorem State.setEngine_camPorts (n : Nat) (x : Engine) : (s.setEngine n x).camPorts = s.camPorts := rfl
@[simp] theorem State.setEngine_lanes (n : Nat) (x : Engine) : (s.setEngine n x).lanes = s.lanes := rfl
@[simp] theorem State.setEngine_ports (n : Nat) (x : Engine) : (s.setEngine n x).ports = s.ports := rfl
@[simp] theorem State.setEngine_time (n : Nat) (x : Engine) : (s.setEngine n x).time = s.time := rfl
@[simp] theorem State.setEngine_fabric (n : Nat) (x : Engine) : (s.setEngine n x).fabric = s.fabric := rfl
@[simp] theorem State.setEngine_dram (n : Nat) (x : Engine) : (s.setEngine n x).dram = s.dram := rfl
@[simp] theorem State.setEngine_pair (n : Nat) (x : Engine) : (s.setEngine n x).pair = s.pair := rfl
@[simp] theorem State.setEngine_keys (n : Nat) (x : Engine) : (s.setEngine n x).keys = s.keys := rfl
@[simp] theorem State.setEngine_scans (n : Nat) (x : Engine) : (s.setEngine n x).scans = s.scans := rfl
@[simp] theorem State.setEngine_power (n : Nat) (x : Engine) : (s.setEngine n x).power = s.power := rfl
@[simp] theorem State.setEngine_fresh (n : Nat) (x : Engine) : (s.setEngine n x).fresh = s.fresh := rfl
@[simp] theorem State.setEngine_pending (n : Nat) (x : Engine) : (s.setEngine n x).pending = s.pending := rfl

@[simp] theorem State.setCtx_log (n : Nat) (x : Ctx) : (s.setCtx n x).log = s.log := rfl
@[simp] theorem State.setCtx_sent (n : Nat) (x : Ctx) : (s.setCtx n x).sent = s.sent := rfl
@[simp] theorem State.setCtx_pins (n : Nat) (x : Ctx) : (s.setCtx n x).pins = s.pins := rfl
@[simp] theorem State.setCtx_regs (n : Nat) (x : Ctx) : (s.setCtx n x).regs = s.regs := rfl
@[simp] theorem State.setCtx_blobs (n : Nat) (x : Ctx) : (s.setCtx n x).blobs = s.blobs := rfl
@[simp] theorem State.setCtx_shadow (n : Nat) (x : Ctx) : (s.setCtx n x).shadow = s.shadow := rfl
@[simp] theorem State.setCtx_acc (n : Nat) (x : Ctx) : (s.setCtx n x).acc = s.acc := rfl
@[simp] theorem State.setCtx_fuses (n : Nat) (x : Ctx) : (s.setCtx n x).fuses = s.fuses := rfl
@[simp] theorem State.setCtx_nvA (n : Nat) (x : Ctx) : (s.setCtx n x).nvA = s.nvA := rfl
@[simp] theorem State.setCtx_nvB (n : Nat) (x : Ctx) : (s.setCtx n x).nvB = s.nvB := rfl
@[simp] theorem State.setCtx_ingots (n : Nat) (x : Ctx) : (s.setCtx n x).ingots = s.ingots := rfl
@[simp] theorem State.setCtx_groups (n : Nat) (x : Ctx) : (s.setCtx n x).groups = s.groups := rfl
@[simp] theorem State.setCtx_sources (n : Nat) (x : Ctx) : (s.setCtx n x).sources = s.sources := rfl
@[simp] theorem State.setCtx_slots (n : Nat) (x : Ctx) : (s.setCtx n x).slots = s.slots := rfl
@[simp] theorem State.setCtx_smith (n : Nat) (x : Ctx) : (s.setCtx n x).smith = s.smith := rfl
@[simp] theorem State.setCtx_plan (n : Nat) (x : Ctx) : (s.setCtx n x).plan = s.plan := rfl
@[simp] theorem State.setCtx_planSlot (n : Nat) (x : Ctx) : (s.setCtx n x).planSlot = s.planSlot := rfl
@[simp] theorem State.setCtx_commits (n : Nat) (x : Ctx) : (s.setCtx n x).commits = s.commits := rfl
@[simp] theorem State.setCtx_outputs (n : Nat) (x : Ctx) : (s.setCtx n x).outputs = s.outputs := rfl
@[simp] theorem State.setCtx_engines (n : Nat) (x : Ctx) : (s.setCtx n x).engines = s.engines := rfl
@[simp] theorem State.setCtx_sinks (n : Nat) (x : Ctx) : (s.setCtx n x).sinks = s.sinks := rfl
@[simp] theorem State.setCtx_panels (n : Nat) (x : Ctx) : (s.setCtx n x).panels = s.panels := rfl
@[simp] theorem State.setCtx_recover (n : Nat) (x : Ctx) : (s.setCtx n x).recover = s.recover := rfl
@[simp] theorem State.setCtx_ctxs (n : Nat) (x : Ctx) : (s.setCtx n x).ctxs = Tbl.put s.ctxs n x := rfl
@[simp] theorem State.setCtx_pipes (n : Nat) (x : Ctx) : (s.setCtx n x).pipes = s.pipes := rfl
@[simp] theorem State.setCtx_camPorts (n : Nat) (x : Ctx) : (s.setCtx n x).camPorts = s.camPorts := rfl
@[simp] theorem State.setCtx_lanes (n : Nat) (x : Ctx) : (s.setCtx n x).lanes = s.lanes := rfl
@[simp] theorem State.setCtx_ports (n : Nat) (x : Ctx) : (s.setCtx n x).ports = s.ports := rfl
@[simp] theorem State.setCtx_time (n : Nat) (x : Ctx) : (s.setCtx n x).time = s.time := rfl
@[simp] theorem State.setCtx_fabric (n : Nat) (x : Ctx) : (s.setCtx n x).fabric = s.fabric := rfl
@[simp] theorem State.setCtx_dram (n : Nat) (x : Ctx) : (s.setCtx n x).dram = s.dram := rfl
@[simp] theorem State.setCtx_pair (n : Nat) (x : Ctx) : (s.setCtx n x).pair = s.pair := rfl
@[simp] theorem State.setCtx_keys (n : Nat) (x : Ctx) : (s.setCtx n x).keys = s.keys := rfl
@[simp] theorem State.setCtx_scans (n : Nat) (x : Ctx) : (s.setCtx n x).scans = s.scans := rfl
@[simp] theorem State.setCtx_power (n : Nat) (x : Ctx) : (s.setCtx n x).power = s.power := rfl
@[simp] theorem State.setCtx_fresh (n : Nat) (x : Ctx) : (s.setCtx n x).fresh = s.fresh := rfl
@[simp] theorem State.setCtx_pending (n : Nat) (x : Ctx) : (s.setCtx n x).pending = s.pending := rfl

@[simp] theorem State.setPipe_log (n : Nat) (x : Pipe) : (s.setPipe n x).log = s.log := rfl
@[simp] theorem State.setPipe_sent (n : Nat) (x : Pipe) : (s.setPipe n x).sent = s.sent := rfl
@[simp] theorem State.setPipe_pins (n : Nat) (x : Pipe) : (s.setPipe n x).pins = s.pins := rfl
@[simp] theorem State.setPipe_regs (n : Nat) (x : Pipe) : (s.setPipe n x).regs = s.regs := rfl
@[simp] theorem State.setPipe_blobs (n : Nat) (x : Pipe) : (s.setPipe n x).blobs = s.blobs := rfl
@[simp] theorem State.setPipe_shadow (n : Nat) (x : Pipe) : (s.setPipe n x).shadow = s.shadow := rfl
@[simp] theorem State.setPipe_acc (n : Nat) (x : Pipe) : (s.setPipe n x).acc = s.acc := rfl
@[simp] theorem State.setPipe_fuses (n : Nat) (x : Pipe) : (s.setPipe n x).fuses = s.fuses := rfl
@[simp] theorem State.setPipe_nvA (n : Nat) (x : Pipe) : (s.setPipe n x).nvA = s.nvA := rfl
@[simp] theorem State.setPipe_nvB (n : Nat) (x : Pipe) : (s.setPipe n x).nvB = s.nvB := rfl
@[simp] theorem State.setPipe_ingots (n : Nat) (x : Pipe) : (s.setPipe n x).ingots = s.ingots := rfl
@[simp] theorem State.setPipe_groups (n : Nat) (x : Pipe) : (s.setPipe n x).groups = s.groups := rfl
@[simp] theorem State.setPipe_sources (n : Nat) (x : Pipe) : (s.setPipe n x).sources = s.sources := rfl
@[simp] theorem State.setPipe_slots (n : Nat) (x : Pipe) : (s.setPipe n x).slots = s.slots := rfl
@[simp] theorem State.setPipe_smith (n : Nat) (x : Pipe) : (s.setPipe n x).smith = s.smith := rfl
@[simp] theorem State.setPipe_plan (n : Nat) (x : Pipe) : (s.setPipe n x).plan = s.plan := rfl
@[simp] theorem State.setPipe_planSlot (n : Nat) (x : Pipe) : (s.setPipe n x).planSlot = s.planSlot := rfl
@[simp] theorem State.setPipe_commits (n : Nat) (x : Pipe) : (s.setPipe n x).commits = s.commits := rfl
@[simp] theorem State.setPipe_outputs (n : Nat) (x : Pipe) : (s.setPipe n x).outputs = s.outputs := rfl
@[simp] theorem State.setPipe_engines (n : Nat) (x : Pipe) : (s.setPipe n x).engines = s.engines := rfl
@[simp] theorem State.setPipe_sinks (n : Nat) (x : Pipe) : (s.setPipe n x).sinks = s.sinks := rfl
@[simp] theorem State.setPipe_panels (n : Nat) (x : Pipe) : (s.setPipe n x).panels = s.panels := rfl
@[simp] theorem State.setPipe_recover (n : Nat) (x : Pipe) : (s.setPipe n x).recover = s.recover := rfl
@[simp] theorem State.setPipe_ctxs (n : Nat) (x : Pipe) : (s.setPipe n x).ctxs = s.ctxs := rfl
@[simp] theorem State.setPipe_pipes (n : Nat) (x : Pipe) : (s.setPipe n x).pipes = Tbl.put s.pipes n x := rfl
@[simp] theorem State.setPipe_camPorts (n : Nat) (x : Pipe) : (s.setPipe n x).camPorts = s.camPorts := rfl
@[simp] theorem State.setPipe_lanes (n : Nat) (x : Pipe) : (s.setPipe n x).lanes = s.lanes := rfl
@[simp] theorem State.setPipe_ports (n : Nat) (x : Pipe) : (s.setPipe n x).ports = s.ports := rfl
@[simp] theorem State.setPipe_time (n : Nat) (x : Pipe) : (s.setPipe n x).time = s.time := rfl
@[simp] theorem State.setPipe_fabric (n : Nat) (x : Pipe) : (s.setPipe n x).fabric = s.fabric := rfl
@[simp] theorem State.setPipe_dram (n : Nat) (x : Pipe) : (s.setPipe n x).dram = s.dram := rfl
@[simp] theorem State.setPipe_pair (n : Nat) (x : Pipe) : (s.setPipe n x).pair = s.pair := rfl
@[simp] theorem State.setPipe_keys (n : Nat) (x : Pipe) : (s.setPipe n x).keys = s.keys := rfl
@[simp] theorem State.setPipe_scans (n : Nat) (x : Pipe) : (s.setPipe n x).scans = s.scans := rfl
@[simp] theorem State.setPipe_power (n : Nat) (x : Pipe) : (s.setPipe n x).power = s.power := rfl
@[simp] theorem State.setPipe_fresh (n : Nat) (x : Pipe) : (s.setPipe n x).fresh = s.fresh := rfl
@[simp] theorem State.setPipe_pending (n : Nat) (x : Pipe) : (s.setPipe n x).pending = s.pending := rfl

@[simp] theorem State.setCamPort_log (n : Nat) (x : CamPort) : (s.setCamPort n x).log = s.log := rfl
@[simp] theorem State.setCamPort_sent (n : Nat) (x : CamPort) : (s.setCamPort n x).sent = s.sent := rfl
@[simp] theorem State.setCamPort_pins (n : Nat) (x : CamPort) : (s.setCamPort n x).pins = s.pins := rfl
@[simp] theorem State.setCamPort_regs (n : Nat) (x : CamPort) : (s.setCamPort n x).regs = s.regs := rfl
@[simp] theorem State.setCamPort_blobs (n : Nat) (x : CamPort) : (s.setCamPort n x).blobs = s.blobs := rfl
@[simp] theorem State.setCamPort_shadow (n : Nat) (x : CamPort) : (s.setCamPort n x).shadow = s.shadow := rfl
@[simp] theorem State.setCamPort_acc (n : Nat) (x : CamPort) : (s.setCamPort n x).acc = s.acc := rfl
@[simp] theorem State.setCamPort_fuses (n : Nat) (x : CamPort) : (s.setCamPort n x).fuses = s.fuses := rfl
@[simp] theorem State.setCamPort_nvA (n : Nat) (x : CamPort) : (s.setCamPort n x).nvA = s.nvA := rfl
@[simp] theorem State.setCamPort_nvB (n : Nat) (x : CamPort) : (s.setCamPort n x).nvB = s.nvB := rfl
@[simp] theorem State.setCamPort_ingots (n : Nat) (x : CamPort) : (s.setCamPort n x).ingots = s.ingots := rfl
@[simp] theorem State.setCamPort_groups (n : Nat) (x : CamPort) : (s.setCamPort n x).groups = s.groups := rfl
@[simp] theorem State.setCamPort_sources (n : Nat) (x : CamPort) : (s.setCamPort n x).sources = s.sources := rfl
@[simp] theorem State.setCamPort_slots (n : Nat) (x : CamPort) : (s.setCamPort n x).slots = s.slots := rfl
@[simp] theorem State.setCamPort_smith (n : Nat) (x : CamPort) : (s.setCamPort n x).smith = s.smith := rfl
@[simp] theorem State.setCamPort_plan (n : Nat) (x : CamPort) : (s.setCamPort n x).plan = s.plan := rfl
@[simp] theorem State.setCamPort_planSlot (n : Nat) (x : CamPort) : (s.setCamPort n x).planSlot = s.planSlot := rfl
@[simp] theorem State.setCamPort_commits (n : Nat) (x : CamPort) : (s.setCamPort n x).commits = s.commits := rfl
@[simp] theorem State.setCamPort_outputs (n : Nat) (x : CamPort) : (s.setCamPort n x).outputs = s.outputs := rfl
@[simp] theorem State.setCamPort_engines (n : Nat) (x : CamPort) : (s.setCamPort n x).engines = s.engines := rfl
@[simp] theorem State.setCamPort_sinks (n : Nat) (x : CamPort) : (s.setCamPort n x).sinks = s.sinks := rfl
@[simp] theorem State.setCamPort_panels (n : Nat) (x : CamPort) : (s.setCamPort n x).panels = s.panels := rfl
@[simp] theorem State.setCamPort_recover (n : Nat) (x : CamPort) : (s.setCamPort n x).recover = s.recover := rfl
@[simp] theorem State.setCamPort_ctxs (n : Nat) (x : CamPort) : (s.setCamPort n x).ctxs = s.ctxs := rfl
@[simp] theorem State.setCamPort_pipes (n : Nat) (x : CamPort) : (s.setCamPort n x).pipes = s.pipes := rfl
@[simp] theorem State.setCamPort_camPorts (n : Nat) (x : CamPort) : (s.setCamPort n x).camPorts = Tbl.put s.camPorts n x := rfl
@[simp] theorem State.setCamPort_lanes (n : Nat) (x : CamPort) : (s.setCamPort n x).lanes = s.lanes := rfl
@[simp] theorem State.setCamPort_ports (n : Nat) (x : CamPort) : (s.setCamPort n x).ports = s.ports := rfl
@[simp] theorem State.setCamPort_time (n : Nat) (x : CamPort) : (s.setCamPort n x).time = s.time := rfl
@[simp] theorem State.setCamPort_fabric (n : Nat) (x : CamPort) : (s.setCamPort n x).fabric = s.fabric := rfl
@[simp] theorem State.setCamPort_dram (n : Nat) (x : CamPort) : (s.setCamPort n x).dram = s.dram := rfl
@[simp] theorem State.setCamPort_pair (n : Nat) (x : CamPort) : (s.setCamPort n x).pair = s.pair := rfl
@[simp] theorem State.setCamPort_keys (n : Nat) (x : CamPort) : (s.setCamPort n x).keys = s.keys := rfl
@[simp] theorem State.setCamPort_scans (n : Nat) (x : CamPort) : (s.setCamPort n x).scans = s.scans := rfl
@[simp] theorem State.setCamPort_power (n : Nat) (x : CamPort) : (s.setCamPort n x).power = s.power := rfl
@[simp] theorem State.setCamPort_fresh (n : Nat) (x : CamPort) : (s.setCamPort n x).fresh = s.fresh := rfl
@[simp] theorem State.setCamPort_pending (n : Nat) (x : CamPort) : (s.setCamPort n x).pending = s.pending := rfl

@[simp] theorem State.setLane_log (n : Nat) (x : Lane) : (s.setLane n x).log = s.log := rfl
@[simp] theorem State.setLane_sent (n : Nat) (x : Lane) : (s.setLane n x).sent = s.sent := rfl
@[simp] theorem State.setLane_pins (n : Nat) (x : Lane) : (s.setLane n x).pins = s.pins := rfl
@[simp] theorem State.setLane_regs (n : Nat) (x : Lane) : (s.setLane n x).regs = s.regs := rfl
@[simp] theorem State.setLane_blobs (n : Nat) (x : Lane) : (s.setLane n x).blobs = s.blobs := rfl
@[simp] theorem State.setLane_shadow (n : Nat) (x : Lane) : (s.setLane n x).shadow = s.shadow := rfl
@[simp] theorem State.setLane_acc (n : Nat) (x : Lane) : (s.setLane n x).acc = s.acc := rfl
@[simp] theorem State.setLane_fuses (n : Nat) (x : Lane) : (s.setLane n x).fuses = s.fuses := rfl
@[simp] theorem State.setLane_nvA (n : Nat) (x : Lane) : (s.setLane n x).nvA = s.nvA := rfl
@[simp] theorem State.setLane_nvB (n : Nat) (x : Lane) : (s.setLane n x).nvB = s.nvB := rfl
@[simp] theorem State.setLane_ingots (n : Nat) (x : Lane) : (s.setLane n x).ingots = s.ingots := rfl
@[simp] theorem State.setLane_groups (n : Nat) (x : Lane) : (s.setLane n x).groups = s.groups := rfl
@[simp] theorem State.setLane_sources (n : Nat) (x : Lane) : (s.setLane n x).sources = s.sources := rfl
@[simp] theorem State.setLane_slots (n : Nat) (x : Lane) : (s.setLane n x).slots = s.slots := rfl
@[simp] theorem State.setLane_smith (n : Nat) (x : Lane) : (s.setLane n x).smith = s.smith := rfl
@[simp] theorem State.setLane_plan (n : Nat) (x : Lane) : (s.setLane n x).plan = s.plan := rfl
@[simp] theorem State.setLane_planSlot (n : Nat) (x : Lane) : (s.setLane n x).planSlot = s.planSlot := rfl
@[simp] theorem State.setLane_commits (n : Nat) (x : Lane) : (s.setLane n x).commits = s.commits := rfl
@[simp] theorem State.setLane_outputs (n : Nat) (x : Lane) : (s.setLane n x).outputs = s.outputs := rfl
@[simp] theorem State.setLane_engines (n : Nat) (x : Lane) : (s.setLane n x).engines = s.engines := rfl
@[simp] theorem State.setLane_sinks (n : Nat) (x : Lane) : (s.setLane n x).sinks = s.sinks := rfl
@[simp] theorem State.setLane_panels (n : Nat) (x : Lane) : (s.setLane n x).panels = s.panels := rfl
@[simp] theorem State.setLane_recover (n : Nat) (x : Lane) : (s.setLane n x).recover = s.recover := rfl
@[simp] theorem State.setLane_ctxs (n : Nat) (x : Lane) : (s.setLane n x).ctxs = s.ctxs := rfl
@[simp] theorem State.setLane_pipes (n : Nat) (x : Lane) : (s.setLane n x).pipes = s.pipes := rfl
@[simp] theorem State.setLane_camPorts (n : Nat) (x : Lane) : (s.setLane n x).camPorts = s.camPorts := rfl
@[simp] theorem State.setLane_lanes (n : Nat) (x : Lane) : (s.setLane n x).lanes = Tbl.put s.lanes n x := rfl
@[simp] theorem State.setLane_ports (n : Nat) (x : Lane) : (s.setLane n x).ports = s.ports := rfl
@[simp] theorem State.setLane_time (n : Nat) (x : Lane) : (s.setLane n x).time = s.time := rfl
@[simp] theorem State.setLane_fabric (n : Nat) (x : Lane) : (s.setLane n x).fabric = s.fabric := rfl
@[simp] theorem State.setLane_dram (n : Nat) (x : Lane) : (s.setLane n x).dram = s.dram := rfl
@[simp] theorem State.setLane_pair (n : Nat) (x : Lane) : (s.setLane n x).pair = s.pair := rfl
@[simp] theorem State.setLane_keys (n : Nat) (x : Lane) : (s.setLane n x).keys = s.keys := rfl
@[simp] theorem State.setLane_scans (n : Nat) (x : Lane) : (s.setLane n x).scans = s.scans := rfl
@[simp] theorem State.setLane_power (n : Nat) (x : Lane) : (s.setLane n x).power = s.power := rfl
@[simp] theorem State.setLane_fresh (n : Nat) (x : Lane) : (s.setLane n x).fresh = s.fresh := rfl
@[simp] theorem State.setLane_pending (n : Nat) (x : Lane) : (s.setLane n x).pending = s.pending := rfl

@[simp] theorem State.setPort_log (n : Nat) (x : Port) : (s.setPort n x).log = s.log := rfl
@[simp] theorem State.setPort_sent (n : Nat) (x : Port) : (s.setPort n x).sent = s.sent := rfl
@[simp] theorem State.setPort_pins (n : Nat) (x : Port) : (s.setPort n x).pins = s.pins := rfl
@[simp] theorem State.setPort_regs (n : Nat) (x : Port) : (s.setPort n x).regs = s.regs := rfl
@[simp] theorem State.setPort_blobs (n : Nat) (x : Port) : (s.setPort n x).blobs = s.blobs := rfl
@[simp] theorem State.setPort_shadow (n : Nat) (x : Port) : (s.setPort n x).shadow = s.shadow := rfl
@[simp] theorem State.setPort_acc (n : Nat) (x : Port) : (s.setPort n x).acc = s.acc := rfl
@[simp] theorem State.setPort_fuses (n : Nat) (x : Port) : (s.setPort n x).fuses = s.fuses := rfl
@[simp] theorem State.setPort_nvA (n : Nat) (x : Port) : (s.setPort n x).nvA = s.nvA := rfl
@[simp] theorem State.setPort_nvB (n : Nat) (x : Port) : (s.setPort n x).nvB = s.nvB := rfl
@[simp] theorem State.setPort_ingots (n : Nat) (x : Port) : (s.setPort n x).ingots = s.ingots := rfl
@[simp] theorem State.setPort_groups (n : Nat) (x : Port) : (s.setPort n x).groups = s.groups := rfl
@[simp] theorem State.setPort_sources (n : Nat) (x : Port) : (s.setPort n x).sources = s.sources := rfl
@[simp] theorem State.setPort_slots (n : Nat) (x : Port) : (s.setPort n x).slots = s.slots := rfl
@[simp] theorem State.setPort_smith (n : Nat) (x : Port) : (s.setPort n x).smith = s.smith := rfl
@[simp] theorem State.setPort_plan (n : Nat) (x : Port) : (s.setPort n x).plan = s.plan := rfl
@[simp] theorem State.setPort_planSlot (n : Nat) (x : Port) : (s.setPort n x).planSlot = s.planSlot := rfl
@[simp] theorem State.setPort_commits (n : Nat) (x : Port) : (s.setPort n x).commits = s.commits := rfl
@[simp] theorem State.setPort_outputs (n : Nat) (x : Port) : (s.setPort n x).outputs = s.outputs := rfl
@[simp] theorem State.setPort_engines (n : Nat) (x : Port) : (s.setPort n x).engines = s.engines := rfl
@[simp] theorem State.setPort_sinks (n : Nat) (x : Port) : (s.setPort n x).sinks = s.sinks := rfl
@[simp] theorem State.setPort_panels (n : Nat) (x : Port) : (s.setPort n x).panels = s.panels := rfl
@[simp] theorem State.setPort_recover (n : Nat) (x : Port) : (s.setPort n x).recover = s.recover := rfl
@[simp] theorem State.setPort_ctxs (n : Nat) (x : Port) : (s.setPort n x).ctxs = s.ctxs := rfl
@[simp] theorem State.setPort_pipes (n : Nat) (x : Port) : (s.setPort n x).pipes = s.pipes := rfl
@[simp] theorem State.setPort_camPorts (n : Nat) (x : Port) : (s.setPort n x).camPorts = s.camPorts := rfl
@[simp] theorem State.setPort_lanes (n : Nat) (x : Port) : (s.setPort n x).lanes = s.lanes := rfl
@[simp] theorem State.setPort_ports (n : Nat) (x : Port) : (s.setPort n x).ports = Tbl.put s.ports n x := rfl
@[simp] theorem State.setPort_time (n : Nat) (x : Port) : (s.setPort n x).time = s.time := rfl
@[simp] theorem State.setPort_fabric (n : Nat) (x : Port) : (s.setPort n x).fabric = s.fabric := rfl
@[simp] theorem State.setPort_dram (n : Nat) (x : Port) : (s.setPort n x).dram = s.dram := rfl
@[simp] theorem State.setPort_pair (n : Nat) (x : Port) : (s.setPort n x).pair = s.pair := rfl
@[simp] theorem State.setPort_keys (n : Nat) (x : Port) : (s.setPort n x).keys = s.keys := rfl
@[simp] theorem State.setPort_scans (n : Nat) (x : Port) : (s.setPort n x).scans = s.scans := rfl
@[simp] theorem State.setPort_power (n : Nat) (x : Port) : (s.setPort n x).power = s.power := rfl
@[simp] theorem State.setPort_fresh (n : Nat) (x : Port) : (s.setPort n x).fresh = s.fresh := rfl
@[simp] theorem State.setPort_pending (n : Nat) (x : Port) : (s.setPort n x).pending = s.pending := rfl

@[simp] theorem State.setChan_log (n : Nat) (x : Chan) : (s.setChan n x).log = s.log := rfl
@[simp] theorem State.setChan_sent (n : Nat) (x : Chan) : (s.setChan n x).sent = s.sent := rfl
@[simp] theorem State.setChan_pins (n : Nat) (x : Chan) : (s.setChan n x).pins = s.pins := rfl
@[simp] theorem State.setChan_regs (n : Nat) (x : Chan) : (s.setChan n x).regs = s.regs := rfl
@[simp] theorem State.setChan_blobs (n : Nat) (x : Chan) : (s.setChan n x).blobs = s.blobs := rfl
@[simp] theorem State.setChan_shadow (n : Nat) (x : Chan) : (s.setChan n x).shadow = s.shadow := rfl
@[simp] theorem State.setChan_acc (n : Nat) (x : Chan) : (s.setChan n x).acc = s.acc := rfl
@[simp] theorem State.setChan_fuses (n : Nat) (x : Chan) : (s.setChan n x).fuses = s.fuses := rfl
@[simp] theorem State.setChan_nvA (n : Nat) (x : Chan) : (s.setChan n x).nvA = s.nvA := rfl
@[simp] theorem State.setChan_nvB (n : Nat) (x : Chan) : (s.setChan n x).nvB = s.nvB := rfl
@[simp] theorem State.setChan_ingots (n : Nat) (x : Chan) : (s.setChan n x).ingots = s.ingots := rfl
@[simp] theorem State.setChan_groups (n : Nat) (x : Chan) : (s.setChan n x).groups = s.groups := rfl
@[simp] theorem State.setChan_sources (n : Nat) (x : Chan) : (s.setChan n x).sources = s.sources := rfl
@[simp] theorem State.setChan_slots (n : Nat) (x : Chan) : (s.setChan n x).slots = s.slots := rfl
@[simp] theorem State.setChan_smith (n : Nat) (x : Chan) : (s.setChan n x).smith = s.smith := rfl
@[simp] theorem State.setChan_plan (n : Nat) (x : Chan) : (s.setChan n x).plan = s.plan := rfl
@[simp] theorem State.setChan_planSlot (n : Nat) (x : Chan) : (s.setChan n x).planSlot = s.planSlot := rfl
@[simp] theorem State.setChan_commits (n : Nat) (x : Chan) : (s.setChan n x).commits = s.commits := rfl
@[simp] theorem State.setChan_outputs (n : Nat) (x : Chan) : (s.setChan n x).outputs = s.outputs := rfl
@[simp] theorem State.setChan_engines (n : Nat) (x : Chan) : (s.setChan n x).engines = s.engines := rfl
@[simp] theorem State.setChan_sinks (n : Nat) (x : Chan) : (s.setChan n x).sinks = s.sinks := rfl
@[simp] theorem State.setChan_panels (n : Nat) (x : Chan) : (s.setChan n x).panels = s.panels := rfl
@[simp] theorem State.setChan_recover (n : Nat) (x : Chan) : (s.setChan n x).recover = s.recover := rfl
@[simp] theorem State.setChan_ctxs (n : Nat) (x : Chan) : (s.setChan n x).ctxs = s.ctxs := rfl
@[simp] theorem State.setChan_pipes (n : Nat) (x : Chan) : (s.setChan n x).pipes = s.pipes := rfl
@[simp] theorem State.setChan_camPorts (n : Nat) (x : Chan) : (s.setChan n x).camPorts = s.camPorts := rfl
@[simp] theorem State.setChan_lanes (n : Nat) (x : Chan) : (s.setChan n x).lanes = s.lanes := rfl
@[simp] theorem State.setChan_ports (n : Nat) (x : Chan) : (s.setChan n x).ports = s.ports := rfl
@[simp] theorem State.setChan_time (n : Nat) (x : Chan) : (s.setChan n x).time = s.time := rfl
@[simp] theorem State.setChan_fabric (n : Nat) (x : Chan) : (s.setChan n x).fabric = s.fabric := rfl
@[simp] theorem State.setChan_dram (n : Nat) (x : Chan) : (s.setChan n x).dram = { s.dram with chans := Tbl.put s.dram.chans n x } := rfl
@[simp] theorem State.setChan_pair (n : Nat) (x : Chan) : (s.setChan n x).pair = s.pair := rfl
@[simp] theorem State.setChan_keys (n : Nat) (x : Chan) : (s.setChan n x).keys = s.keys := rfl
@[simp] theorem State.setChan_scans (n : Nat) (x : Chan) : (s.setChan n x).scans = s.scans := rfl
@[simp] theorem State.setChan_power (n : Nat) (x : Chan) : (s.setChan n x).power = s.power := rfl
@[simp] theorem State.setChan_fresh (n : Nat) (x : Chan) : (s.setChan n x).fresh = s.fresh := rfl
@[simp] theorem State.setChan_pending (n : Nat) (x : Chan) : (s.setChan n x).pending = s.pending := rfl

@[simp] theorem State.setKey_log (n : Nat) (x : Key) : (s.setKey n x).log = s.log := rfl
@[simp] theorem State.setKey_sent (n : Nat) (x : Key) : (s.setKey n x).sent = s.sent := rfl
@[simp] theorem State.setKey_pins (n : Nat) (x : Key) : (s.setKey n x).pins = s.pins := rfl
@[simp] theorem State.setKey_regs (n : Nat) (x : Key) : (s.setKey n x).regs = s.regs := rfl
@[simp] theorem State.setKey_blobs (n : Nat) (x : Key) : (s.setKey n x).blobs = s.blobs := rfl
@[simp] theorem State.setKey_shadow (n : Nat) (x : Key) : (s.setKey n x).shadow = s.shadow := rfl
@[simp] theorem State.setKey_acc (n : Nat) (x : Key) : (s.setKey n x).acc = s.acc := rfl
@[simp] theorem State.setKey_fuses (n : Nat) (x : Key) : (s.setKey n x).fuses = s.fuses := rfl
@[simp] theorem State.setKey_nvA (n : Nat) (x : Key) : (s.setKey n x).nvA = s.nvA := rfl
@[simp] theorem State.setKey_nvB (n : Nat) (x : Key) : (s.setKey n x).nvB = s.nvB := rfl
@[simp] theorem State.setKey_ingots (n : Nat) (x : Key) : (s.setKey n x).ingots = s.ingots := rfl
@[simp] theorem State.setKey_groups (n : Nat) (x : Key) : (s.setKey n x).groups = s.groups := rfl
@[simp] theorem State.setKey_sources (n : Nat) (x : Key) : (s.setKey n x).sources = s.sources := rfl
@[simp] theorem State.setKey_slots (n : Nat) (x : Key) : (s.setKey n x).slots = s.slots := rfl
@[simp] theorem State.setKey_smith (n : Nat) (x : Key) : (s.setKey n x).smith = s.smith := rfl
@[simp] theorem State.setKey_plan (n : Nat) (x : Key) : (s.setKey n x).plan = s.plan := rfl
@[simp] theorem State.setKey_planSlot (n : Nat) (x : Key) : (s.setKey n x).planSlot = s.planSlot := rfl
@[simp] theorem State.setKey_commits (n : Nat) (x : Key) : (s.setKey n x).commits = s.commits := rfl
@[simp] theorem State.setKey_outputs (n : Nat) (x : Key) : (s.setKey n x).outputs = s.outputs := rfl
@[simp] theorem State.setKey_engines (n : Nat) (x : Key) : (s.setKey n x).engines = s.engines := rfl
@[simp] theorem State.setKey_sinks (n : Nat) (x : Key) : (s.setKey n x).sinks = s.sinks := rfl
@[simp] theorem State.setKey_panels (n : Nat) (x : Key) : (s.setKey n x).panels = s.panels := rfl
@[simp] theorem State.setKey_recover (n : Nat) (x : Key) : (s.setKey n x).recover = s.recover := rfl
@[simp] theorem State.setKey_ctxs (n : Nat) (x : Key) : (s.setKey n x).ctxs = s.ctxs := rfl
@[simp] theorem State.setKey_pipes (n : Nat) (x : Key) : (s.setKey n x).pipes = s.pipes := rfl
@[simp] theorem State.setKey_camPorts (n : Nat) (x : Key) : (s.setKey n x).camPorts = s.camPorts := rfl
@[simp] theorem State.setKey_lanes (n : Nat) (x : Key) : (s.setKey n x).lanes = s.lanes := rfl
@[simp] theorem State.setKey_ports (n : Nat) (x : Key) : (s.setKey n x).ports = s.ports := rfl
@[simp] theorem State.setKey_time (n : Nat) (x : Key) : (s.setKey n x).time = s.time := rfl
@[simp] theorem State.setKey_fabric (n : Nat) (x : Key) : (s.setKey n x).fabric = s.fabric := rfl
@[simp] theorem State.setKey_dram (n : Nat) (x : Key) : (s.setKey n x).dram = s.dram := rfl
@[simp] theorem State.setKey_pair (n : Nat) (x : Key) : (s.setKey n x).pair = s.pair := rfl
@[simp] theorem State.setKey_keys (n : Nat) (x : Key) : (s.setKey n x).keys = { s.keys with key := Tbl.put s.keys.key n x } := rfl
@[simp] theorem State.setKey_scans (n : Nat) (x : Key) : (s.setKey n x).scans = s.scans := rfl
@[simp] theorem State.setKey_power (n : Nat) (x : Key) : (s.setKey n x).power = s.power := rfl
@[simp] theorem State.setKey_fresh (n : Nat) (x : Key) : (s.setKey n x).fresh = s.fresh := rfl
@[simp] theorem State.setKey_pending (n : Nat) (x : Key) : (s.setKey n x).pending = s.pending := rfl

@[simp] theorem State.setScan_log (n : Nat) (x : Scan) : (s.setScan n x).log = s.log := rfl
@[simp] theorem State.setScan_sent (n : Nat) (x : Scan) : (s.setScan n x).sent = s.sent := rfl
@[simp] theorem State.setScan_pins (n : Nat) (x : Scan) : (s.setScan n x).pins = s.pins := rfl
@[simp] theorem State.setScan_regs (n : Nat) (x : Scan) : (s.setScan n x).regs = s.regs := rfl
@[simp] theorem State.setScan_blobs (n : Nat) (x : Scan) : (s.setScan n x).blobs = s.blobs := rfl
@[simp] theorem State.setScan_shadow (n : Nat) (x : Scan) : (s.setScan n x).shadow = s.shadow := rfl
@[simp] theorem State.setScan_acc (n : Nat) (x : Scan) : (s.setScan n x).acc = s.acc := rfl
@[simp] theorem State.setScan_fuses (n : Nat) (x : Scan) : (s.setScan n x).fuses = s.fuses := rfl
@[simp] theorem State.setScan_nvA (n : Nat) (x : Scan) : (s.setScan n x).nvA = s.nvA := rfl
@[simp] theorem State.setScan_nvB (n : Nat) (x : Scan) : (s.setScan n x).nvB = s.nvB := rfl
@[simp] theorem State.setScan_ingots (n : Nat) (x : Scan) : (s.setScan n x).ingots = s.ingots := rfl
@[simp] theorem State.setScan_groups (n : Nat) (x : Scan) : (s.setScan n x).groups = s.groups := rfl
@[simp] theorem State.setScan_sources (n : Nat) (x : Scan) : (s.setScan n x).sources = s.sources := rfl
@[simp] theorem State.setScan_slots (n : Nat) (x : Scan) : (s.setScan n x).slots = s.slots := rfl
@[simp] theorem State.setScan_smith (n : Nat) (x : Scan) : (s.setScan n x).smith = s.smith := rfl
@[simp] theorem State.setScan_plan (n : Nat) (x : Scan) : (s.setScan n x).plan = s.plan := rfl
@[simp] theorem State.setScan_planSlot (n : Nat) (x : Scan) : (s.setScan n x).planSlot = s.planSlot := rfl
@[simp] theorem State.setScan_commits (n : Nat) (x : Scan) : (s.setScan n x).commits = s.commits := rfl
@[simp] theorem State.setScan_outputs (n : Nat) (x : Scan) : (s.setScan n x).outputs = s.outputs := rfl
@[simp] theorem State.setScan_engines (n : Nat) (x : Scan) : (s.setScan n x).engines = s.engines := rfl
@[simp] theorem State.setScan_sinks (n : Nat) (x : Scan) : (s.setScan n x).sinks = s.sinks := rfl
@[simp] theorem State.setScan_panels (n : Nat) (x : Scan) : (s.setScan n x).panels = s.panels := rfl
@[simp] theorem State.setScan_recover (n : Nat) (x : Scan) : (s.setScan n x).recover = s.recover := rfl
@[simp] theorem State.setScan_ctxs (n : Nat) (x : Scan) : (s.setScan n x).ctxs = s.ctxs := rfl
@[simp] theorem State.setScan_pipes (n : Nat) (x : Scan) : (s.setScan n x).pipes = s.pipes := rfl
@[simp] theorem State.setScan_camPorts (n : Nat) (x : Scan) : (s.setScan n x).camPorts = s.camPorts := rfl
@[simp] theorem State.setScan_lanes (n : Nat) (x : Scan) : (s.setScan n x).lanes = s.lanes := rfl
@[simp] theorem State.setScan_ports (n : Nat) (x : Scan) : (s.setScan n x).ports = s.ports := rfl
@[simp] theorem State.setScan_time (n : Nat) (x : Scan) : (s.setScan n x).time = s.time := rfl
@[simp] theorem State.setScan_fabric (n : Nat) (x : Scan) : (s.setScan n x).fabric = s.fabric := rfl
@[simp] theorem State.setScan_dram (n : Nat) (x : Scan) : (s.setScan n x).dram = s.dram := rfl
@[simp] theorem State.setScan_pair (n : Nat) (x : Scan) : (s.setScan n x).pair = s.pair := rfl
@[simp] theorem State.setScan_keys (n : Nat) (x : Scan) : (s.setScan n x).keys = s.keys := rfl
@[simp] theorem State.setScan_scans (n : Nat) (x : Scan) : (s.setScan n x).scans = Tbl.put s.scans n x := rfl
@[simp] theorem State.setScan_power (n : Nat) (x : Scan) : (s.setScan n x).power = s.power := rfl
@[simp] theorem State.setScan_fresh (n : Nat) (x : Scan) : (s.setScan n x).fresh = s.fresh := rfl
@[simp] theorem State.setScan_pending (n : Nat) (x : Scan) : (s.setScan n x).pending = s.pending := rfl

@[simp] theorem State.send_log (x : Sent) : (s.send x).log = s.log := rfl
@[simp] theorem State.send_sent (x : Sent) : (s.send x).sent = x :: s.sent := rfl
@[simp] theorem State.send_pins (x : Sent) : (s.send x).pins = s.pins := rfl
@[simp] theorem State.send_regs (x : Sent) : (s.send x).regs = s.regs := rfl
@[simp] theorem State.send_blobs (x : Sent) : (s.send x).blobs = s.blobs := rfl
@[simp] theorem State.send_shadow (x : Sent) : (s.send x).shadow = s.shadow := rfl
@[simp] theorem State.send_acc (x : Sent) : (s.send x).acc = s.acc := rfl
@[simp] theorem State.send_fuses (x : Sent) : (s.send x).fuses = s.fuses := rfl
@[simp] theorem State.send_nvA (x : Sent) : (s.send x).nvA = s.nvA := rfl
@[simp] theorem State.send_nvB (x : Sent) : (s.send x).nvB = s.nvB := rfl
@[simp] theorem State.send_ingots (x : Sent) : (s.send x).ingots = s.ingots := rfl
@[simp] theorem State.send_groups (x : Sent) : (s.send x).groups = s.groups := rfl
@[simp] theorem State.send_sources (x : Sent) : (s.send x).sources = s.sources := rfl
@[simp] theorem State.send_slots (x : Sent) : (s.send x).slots = s.slots := rfl
@[simp] theorem State.send_smith (x : Sent) : (s.send x).smith = s.smith := rfl
@[simp] theorem State.send_plan (x : Sent) : (s.send x).plan = s.plan := rfl
@[simp] theorem State.send_planSlot (x : Sent) : (s.send x).planSlot = s.planSlot := rfl
@[simp] theorem State.send_commits (x : Sent) : (s.send x).commits = s.commits := rfl
@[simp] theorem State.send_outputs (x : Sent) : (s.send x).outputs = s.outputs := rfl
@[simp] theorem State.send_engines (x : Sent) : (s.send x).engines = s.engines := rfl
@[simp] theorem State.send_sinks (x : Sent) : (s.send x).sinks = s.sinks := rfl
@[simp] theorem State.send_panels (x : Sent) : (s.send x).panels = s.panels := rfl
@[simp] theorem State.send_recover (x : Sent) : (s.send x).recover = s.recover := rfl
@[simp] theorem State.send_ctxs (x : Sent) : (s.send x).ctxs = s.ctxs := rfl
@[simp] theorem State.send_pipes (x : Sent) : (s.send x).pipes = s.pipes := rfl
@[simp] theorem State.send_camPorts (x : Sent) : (s.send x).camPorts = s.camPorts := rfl
@[simp] theorem State.send_lanes (x : Sent) : (s.send x).lanes = s.lanes := rfl
@[simp] theorem State.send_ports (x : Sent) : (s.send x).ports = s.ports := rfl
@[simp] theorem State.send_time (x : Sent) : (s.send x).time = s.time := rfl
@[simp] theorem State.send_fabric (x : Sent) : (s.send x).fabric = s.fabric := rfl
@[simp] theorem State.send_dram (x : Sent) : (s.send x).dram = s.dram := rfl
@[simp] theorem State.send_pair (x : Sent) : (s.send x).pair = s.pair := rfl
@[simp] theorem State.send_keys (x : Sent) : (s.send x).keys = s.keys := rfl
@[simp] theorem State.send_scans (x : Sent) : (s.send x).scans = s.scans := rfl
@[simp] theorem State.send_power (x : Sent) : (s.send x).power = s.power := rfl
@[simp] theorem State.send_fresh (x : Sent) : (s.send x).fresh = s.fresh := rfl
@[simp] theorem State.send_pending (x : Sent) : (s.send x).pending = s.pending := rfl

@[simp] theorem State.reply_log (n : Nat) (r : Reply) : (s.reply n r).log = s.log := rfl
@[simp] theorem State.reply_sent (n : Nat) (r : Reply) : (s.reply n r).sent = .reply n r :: s.sent := rfl
@[simp] theorem State.reply_pins (n : Nat) (r : Reply) : (s.reply n r).pins = s.pins := rfl
@[simp] theorem State.reply_regs (n : Nat) (r : Reply) : (s.reply n r).regs = s.regs := rfl
@[simp] theorem State.reply_blobs (n : Nat) (r : Reply) : (s.reply n r).blobs = s.blobs := rfl
@[simp] theorem State.reply_shadow (n : Nat) (r : Reply) : (s.reply n r).shadow = s.shadow := rfl
@[simp] theorem State.reply_acc (n : Nat) (r : Reply) : (s.reply n r).acc = s.acc := rfl
@[simp] theorem State.reply_fuses (n : Nat) (r : Reply) : (s.reply n r).fuses = s.fuses := rfl
@[simp] theorem State.reply_nvA (n : Nat) (r : Reply) : (s.reply n r).nvA = s.nvA := rfl
@[simp] theorem State.reply_nvB (n : Nat) (r : Reply) : (s.reply n r).nvB = s.nvB := rfl
@[simp] theorem State.reply_ingots (n : Nat) (r : Reply) : (s.reply n r).ingots = s.ingots := rfl
@[simp] theorem State.reply_groups (n : Nat) (r : Reply) : (s.reply n r).groups = s.groups := rfl
@[simp] theorem State.reply_sources (n : Nat) (r : Reply) : (s.reply n r).sources = s.sources := rfl
@[simp] theorem State.reply_slots (n : Nat) (r : Reply) : (s.reply n r).slots = s.slots := rfl
@[simp] theorem State.reply_smith (n : Nat) (r : Reply) : (s.reply n r).smith = s.smith := rfl
@[simp] theorem State.reply_plan (n : Nat) (r : Reply) : (s.reply n r).plan = s.plan := rfl
@[simp] theorem State.reply_planSlot (n : Nat) (r : Reply) : (s.reply n r).planSlot = s.planSlot := rfl
@[simp] theorem State.reply_commits (n : Nat) (r : Reply) : (s.reply n r).commits = s.commits := rfl
@[simp] theorem State.reply_outputs (n : Nat) (r : Reply) : (s.reply n r).outputs = s.outputs := rfl
@[simp] theorem State.reply_engines (n : Nat) (r : Reply) : (s.reply n r).engines = s.engines := rfl
@[simp] theorem State.reply_sinks (n : Nat) (r : Reply) : (s.reply n r).sinks = s.sinks := rfl
@[simp] theorem State.reply_panels (n : Nat) (r : Reply) : (s.reply n r).panels = s.panels := rfl
@[simp] theorem State.reply_recover (n : Nat) (r : Reply) : (s.reply n r).recover = s.recover := rfl
@[simp] theorem State.reply_ctxs (n : Nat) (r : Reply) : (s.reply n r).ctxs = s.ctxs := rfl
@[simp] theorem State.reply_pipes (n : Nat) (r : Reply) : (s.reply n r).pipes = s.pipes := rfl
@[simp] theorem State.reply_camPorts (n : Nat) (r : Reply) : (s.reply n r).camPorts = s.camPorts := rfl
@[simp] theorem State.reply_lanes (n : Nat) (r : Reply) : (s.reply n r).lanes = s.lanes := rfl
@[simp] theorem State.reply_ports (n : Nat) (r : Reply) : (s.reply n r).ports = s.ports := rfl
@[simp] theorem State.reply_time (n : Nat) (r : Reply) : (s.reply n r).time = s.time := rfl
@[simp] theorem State.reply_fabric (n : Nat) (r : Reply) : (s.reply n r).fabric = s.fabric := rfl
@[simp] theorem State.reply_dram (n : Nat) (r : Reply) : (s.reply n r).dram = s.dram := rfl
@[simp] theorem State.reply_pair (n : Nat) (r : Reply) : (s.reply n r).pair = s.pair := rfl
@[simp] theorem State.reply_keys (n : Nat) (r : Reply) : (s.reply n r).keys = s.keys := rfl
@[simp] theorem State.reply_scans (n : Nat) (r : Reply) : (s.reply n r).scans = s.scans := rfl
@[simp] theorem State.reply_power (n : Nat) (r : Reply) : (s.reply n r).power = s.power := rfl
@[simp] theorem State.reply_fresh (n : Nat) (r : Reply) : (s.reply n r).fresh = s.fresh := rfl
@[simp] theorem State.reply_pending (n : Nat) (r : Reply) : (s.reply n r).pending = s.pending := rfl

@[simp] theorem State.store_log (a : Nat) (bs : Bytes) : (s.store a bs).log = s.log := rfl
@[simp] theorem State.store_sent (a : Nat) (bs : Bytes) : (s.store a bs).sent = s.sent := rfl
@[simp] theorem State.store_pins (a : Nat) (bs : Bytes) : (s.store a bs).pins = s.pins := rfl
@[simp] theorem State.store_regs (a : Nat) (bs : Bytes) : (s.store a bs).regs = s.regs := rfl
@[simp] theorem State.store_blobs (a : Nat) (bs : Bytes) : (s.store a bs).blobs = s.blobs := rfl
@[simp] theorem State.store_shadow (a : Nat) (bs : Bytes) : (s.store a bs).shadow = s.shadow := rfl
@[simp] theorem State.store_acc (a : Nat) (bs : Bytes) : (s.store a bs).acc = s.acc := rfl
@[simp] theorem State.store_fuses (a : Nat) (bs : Bytes) : (s.store a bs).fuses = s.fuses := rfl
@[simp] theorem State.store_nvA (a : Nat) (bs : Bytes) : (s.store a bs).nvA = s.nvA := rfl
@[simp] theorem State.store_nvB (a : Nat) (bs : Bytes) : (s.store a bs).nvB = s.nvB := rfl
@[simp] theorem State.store_ingots (a : Nat) (bs : Bytes) : (s.store a bs).ingots = s.ingots := rfl
@[simp] theorem State.store_groups (a : Nat) (bs : Bytes) : (s.store a bs).groups = s.groups := rfl
@[simp] theorem State.store_sources (a : Nat) (bs : Bytes) : (s.store a bs).sources = s.sources := rfl
@[simp] theorem State.store_slots (a : Nat) (bs : Bytes) : (s.store a bs).slots = s.slots := rfl
@[simp] theorem State.store_smith (a : Nat) (bs : Bytes) : (s.store a bs).smith = s.smith := rfl
@[simp] theorem State.store_plan (a : Nat) (bs : Bytes) : (s.store a bs).plan = s.plan := rfl
@[simp] theorem State.store_planSlot (a : Nat) (bs : Bytes) : (s.store a bs).planSlot = s.planSlot := rfl
@[simp] theorem State.store_commits (a : Nat) (bs : Bytes) : (s.store a bs).commits = s.commits := rfl
@[simp] theorem State.store_outputs (a : Nat) (bs : Bytes) : (s.store a bs).outputs = s.outputs := rfl
@[simp] theorem State.store_engines (a : Nat) (bs : Bytes) : (s.store a bs).engines = s.engines := rfl
@[simp] theorem State.store_sinks (a : Nat) (bs : Bytes) : (s.store a bs).sinks = s.sinks := rfl
@[simp] theorem State.store_panels (a : Nat) (bs : Bytes) : (s.store a bs).panels = s.panels := rfl
@[simp] theorem State.store_recover (a : Nat) (bs : Bytes) : (s.store a bs).recover = s.recover := rfl
@[simp] theorem State.store_ctxs (a : Nat) (bs : Bytes) : (s.store a bs).ctxs = s.ctxs := rfl
@[simp] theorem State.store_pipes (a : Nat) (bs : Bytes) : (s.store a bs).pipes = s.pipes := rfl
@[simp] theorem State.store_camPorts (a : Nat) (bs : Bytes) : (s.store a bs).camPorts = s.camPorts := rfl
@[simp] theorem State.store_lanes (a : Nat) (bs : Bytes) : (s.store a bs).lanes = s.lanes := rfl
@[simp] theorem State.store_ports (a : Nat) (bs : Bytes) : (s.store a bs).ports = s.ports := rfl
@[simp] theorem State.store_time (a : Nat) (bs : Bytes) : (s.store a bs).time = s.time := rfl
@[simp] theorem State.store_fabric (a : Nat) (bs : Bytes) : (s.store a bs).fabric = s.fabric := rfl
@[simp] theorem State.store_dram (a : Nat) (bs : Bytes) : (s.store a bs).dram = { s.dram with mem := Memory.writeN s.dram.mem a bs } := rfl
@[simp] theorem State.store_pair (a : Nat) (bs : Bytes) : (s.store a bs).pair = s.pair := rfl
@[simp] theorem State.store_keys (a : Nat) (bs : Bytes) : (s.store a bs).keys = s.keys := rfl
@[simp] theorem State.store_scans (a : Nat) (bs : Bytes) : (s.store a bs).scans = s.scans := rfl
@[simp] theorem State.store_power (a : Nat) (bs : Bytes) : (s.store a bs).power = s.power := rfl
@[simp] theorem State.store_fresh (a : Nat) (bs : Bytes) : (s.store a bs).fresh = s.fresh := rfl
@[simp] theorem State.store_pending (a : Nat) (bs : Bytes) : (s.store a bs).pending = s.pending := rfl

@[simp] theorem State.draw_log : s.draw.2.log = s.log := rfl
@[simp] theorem State.draw_sent : s.draw.2.sent = s.sent := rfl
@[simp] theorem State.draw_pins : s.draw.2.pins = s.pins := rfl
@[simp] theorem State.draw_regs : s.draw.2.regs = s.regs := rfl
@[simp] theorem State.draw_blobs : s.draw.2.blobs = s.blobs := rfl
@[simp] theorem State.draw_shadow : s.draw.2.shadow = s.shadow := rfl
@[simp] theorem State.draw_acc : s.draw.2.acc = s.acc := rfl
@[simp] theorem State.draw_fuses : s.draw.2.fuses = s.fuses := rfl
@[simp] theorem State.draw_nvA : s.draw.2.nvA = s.nvA := rfl
@[simp] theorem State.draw_nvB : s.draw.2.nvB = s.nvB := rfl
@[simp] theorem State.draw_ingots : s.draw.2.ingots = s.ingots := rfl
@[simp] theorem State.draw_groups : s.draw.2.groups = s.groups := rfl
@[simp] theorem State.draw_sources : s.draw.2.sources = s.sources := rfl
@[simp] theorem State.draw_slots : s.draw.2.slots = s.slots := rfl
@[simp] theorem State.draw_smith : s.draw.2.smith = s.smith := rfl
@[simp] theorem State.draw_plan : s.draw.2.plan = s.plan := rfl
@[simp] theorem State.draw_planSlot : s.draw.2.planSlot = s.planSlot := rfl
@[simp] theorem State.draw_commits : s.draw.2.commits = s.commits := rfl
@[simp] theorem State.draw_outputs : s.draw.2.outputs = s.outputs := rfl
@[simp] theorem State.draw_engines : s.draw.2.engines = s.engines := rfl
@[simp] theorem State.draw_sinks : s.draw.2.sinks = s.sinks := rfl
@[simp] theorem State.draw_panels : s.draw.2.panels = s.panels := rfl
@[simp] theorem State.draw_recover : s.draw.2.recover = s.recover := rfl
@[simp] theorem State.draw_ctxs : s.draw.2.ctxs = s.ctxs := rfl
@[simp] theorem State.draw_pipes : s.draw.2.pipes = s.pipes := rfl
@[simp] theorem State.draw_camPorts : s.draw.2.camPorts = s.camPorts := rfl
@[simp] theorem State.draw_lanes : s.draw.2.lanes = s.lanes := rfl
@[simp] theorem State.draw_ports : s.draw.2.ports = s.ports := rfl
@[simp] theorem State.draw_time : s.draw.2.time = s.time := rfl
@[simp] theorem State.draw_fabric : s.draw.2.fabric = s.fabric := rfl
@[simp] theorem State.draw_dram : s.draw.2.dram = s.dram := rfl
@[simp] theorem State.draw_pair : s.draw.2.pair = s.pair := rfl
@[simp] theorem State.draw_keys : s.draw.2.keys = s.keys := rfl
@[simp] theorem State.draw_scans : s.draw.2.scans = s.scans := rfl
@[simp] theorem State.draw_power : s.draw.2.power = s.power := rfl
@[simp] theorem State.draw_fresh : s.draw.2.fresh = s.fresh + 1 := rfl
@[simp] theorem State.draw_pending : s.draw.2.pending = s.pending := rfl

end Sys2Proof.Machine
end

