-- ==== Sys2Proof/Laws/Record.lean ====
section
/-! SUPPORT. The laws of the event log: a record, a suppressed record and the raising of the log's vector write the log and what
is sent, and nothing else. -/

namespace Sys2Proof.Machine

set_option Elab.async false

variable (s : State)

@[simp] theorem State.raiseLog_pins : s.raiseLog.pins = s.pins := by
  unfold State.raiseLog
  split
  · rfl
  · split <;> rfl

@[simp] theorem State.raiseLog_regs : s.raiseLog.regs = s.regs := by
  unfold State.raiseLog
  split
  · rfl
  · split <;> rfl

@[simp] theorem State.raiseLog_blobs : s.raiseLog.blobs = s.blobs := by
  unfold State.raiseLog
  split
  · rfl
  · split <;> rfl

@[simp] theorem State.raiseLog_shadow : s.raiseLog.shadow = s.shadow := by
  unfold State.raiseLog
  split
  · rfl
  · split <;> rfl

@[simp] theorem State.raiseLog_acc : s.raiseLog.acc = s.acc := by
  unfold State.raiseLog
  split
  · rfl
  · split <;> rfl

@[simp] theorem State.raiseLog_fuses : s.raiseLog.fuses = s.fuses := by
  unfold State.raiseLog
  split
  · rfl
  · split <;> rfl

@[simp] theorem State.raiseLog_nvA : s.raiseLog.nvA = s.nvA := by
  unfold State.raiseLog
  split
  · rfl
  · split <;> rfl

@[simp] theorem State.raiseLog_nvB : s.raiseLog.nvB = s.nvB := by
  unfold State.raiseLog
  split
  · rfl
  · split <;> rfl

@[simp] theorem State.raiseLog_ingots : s.raiseLog.ingots = s.ingots := by
  unfold State.raiseLog
  split
  · rfl
  · split <;> rfl

@[simp] theorem State.raiseLog_groups : s.raiseLog.groups = s.groups := by
  unfold State.raiseLog
  split
  · rfl
  · split <;> rfl

@[simp] theorem State.raiseLog_sources : s.raiseLog.sources = s.sources := by
  unfold State.raiseLog
  split
  · rfl
  · split <;> rfl

@[simp] theorem State.raiseLog_slots : s.raiseLog.slots = s.slots := by
  unfold State.raiseLog
  split
  · rfl
  · split <;> rfl

@[simp] theorem State.raiseLog_smith : s.raiseLog.smith = s.smith := by
  unfold State.raiseLog
  split
  · rfl
  · split <;> rfl

@[simp] theorem State.raiseLog_plan : s.raiseLog.plan = s.plan := by
  unfold State.raiseLog
  split
  · rfl
  · split <;> rfl

@[simp] theorem State.raiseLog_planSlot : s.raiseLog.planSlot = s.planSlot := by
  unfold State.raiseLog
  split
  · rfl
  · split <;> rfl

@[simp] theorem State.raiseLog_commits : s.raiseLog.commits = s.commits := by
  unfold State.raiseLog
  split
  · rfl
  · split <;> rfl

@[simp] theorem State.raiseLog_outputs : s.raiseLog.outputs = s.outputs := by
  unfold State.raiseLog
  split
  · rfl
  · split <;> rfl

@[simp] theorem State.raiseLog_engines : s.raiseLog.engines = s.engines := by
  unfold State.raiseLog
  split
  · rfl
  · split <;> rfl

@[simp] theorem State.raiseLog_sinks : s.raiseLog.sinks = s.sinks := by
  unfold State.raiseLog
  split
  · rfl
  · split <;> rfl

@[simp] theorem State.raiseLog_panels : s.raiseLog.panels = s.panels := by
  unfold State.raiseLog
  split
  · rfl
  · split <;> rfl

@[simp] theorem State.raiseLog_recover : s.raiseLog.recover = s.recover := by
  unfold State.raiseLog
  split
  · rfl
  · split <;> rfl

@[simp] theorem State.raiseLog_ctxs : s.raiseLog.ctxs = s.ctxs := by
  unfold State.raiseLog
  split
  · rfl
  · split <;> rfl

@[simp] theorem State.raiseLog_pipes : s.raiseLog.pipes = s.pipes := by
  unfold State.raiseLog
  split
  · rfl
  · split <;> rfl

@[simp] theorem State.raiseLog_camPorts : s.raiseLog.camPorts = s.camPorts := by
  unfold State.raiseLog
  split
  · rfl
  · split <;> rfl

@[simp] theorem State.raiseLog_lanes : s.raiseLog.lanes = s.lanes := by
  unfold State.raiseLog
  split
  · rfl
  · split <;> rfl

@[simp] theorem State.raiseLog_ports : s.raiseLog.ports = s.ports := by
  unfold State.raiseLog
  split
  · rfl
  · split <;> rfl

@[simp] theorem State.raiseLog_time : s.raiseLog.time = s.time := by
  unfold State.raiseLog
  split
  · rfl
  · split <;> rfl

@[simp] theorem State.raiseLog_fabric : s.raiseLog.fabric = s.fabric := by
  unfold State.raiseLog
  split
  · rfl
  · split <;> rfl

@[simp] theorem State.raiseLog_dram : s.raiseLog.dram = s.dram := by
  unfold State.raiseLog
  split
  · rfl
  · split <;> rfl

@[simp] theorem State.raiseLog_pair : s.raiseLog.pair = s.pair := by
  unfold State.raiseLog
  split
  · rfl
  · split <;> rfl

@[simp] theorem State.raiseLog_keys : s.raiseLog.keys = s.keys := by
  unfold State.raiseLog
  split
  · rfl
  · split <;> rfl

@[simp] theorem State.raiseLog_scans : s.raiseLog.scans = s.scans := by
  unfold State.raiseLog
  split
  · rfl
  · split <;> rfl

@[simp] theorem State.raiseLog_power : s.raiseLog.power = s.power := by
  unfold State.raiseLog
  split
  · rfl
  · split <;> rfl

@[simp] theorem State.raiseLog_fresh : s.raiseLog.fresh = s.fresh := by
  unfold State.raiseLog
  split
  · rfl
  · split <;> rfl

@[simp] theorem State.raiseLog_pending : s.raiseLog.pending = s.pending := by
  unfold State.raiseLog
  split
  · rfl
  · split <;> rfl

@[simp] theorem State.recordAt_pins (t e : Nat) (c : Option Code) (i : Nat) (d : Int) (fw : Bool) (n : Nat) :
    (s.recordAt t e c i d fw n).pins = s.pins := by
  simp only [State.recordAt]; split
  · rfl
  · split <;> simp
@[simp] theorem State.record_pins (e : Nat) (c : Option Code) (i : Nat) (d : Int) (fw : Bool) :
    (s.record e c i d fw).pins = s.pins := by simp [State.record]
@[simp] theorem State.recordEvery_pins (t n : Nat) (p : Bool) (e : Nat) (c : Option Code) (i : Nat) (d : Int) (fw : Bool) :
    (s.recordEvery t n p e c i d fw).pins = s.pins := by simp only [State.recordEvery]; split <;> simp
@[simp] theorem State.recordLimited_pins (n e : Nat) (c : Option Code) (i : Nat) (d : Int) (fw : Bool) :
    (s.recordLimited n e c i d fw).pins = s.pins := by simp [State.recordLimited]
@[simp] theorem State.noteRefusal_pins (w k : Nat) (c : Code) : (s.noteRefusal w k c).pins = s.pins := by
  unfold State.noteRefusal; split <;> simp

@[simp] theorem State.recordAt_regs (t e : Nat) (c : Option Code) (i : Nat) (d : Int) (fw : Bool) (n : Nat) :
    (s.recordAt t e c i d fw n).regs = s.regs := by
  simp only [State.recordAt]; split
  · rfl
  · split <;> simp
@[simp] theorem State.record_regs (e : Nat) (c : Option Code) (i : Nat) (d : Int) (fw : Bool) :
    (s.record e c i d fw).regs = s.regs := by simp [State.record]
@[simp] theorem State.recordEvery_regs (t n : Nat) (p : Bool) (e : Nat) (c : Option Code) (i : Nat) (d : Int) (fw : Bool) :
    (s.recordEvery t n p e c i d fw).regs = s.regs := by simp only [State.recordEvery]; split <;> simp
@[simp] theorem State.recordLimited_regs (n e : Nat) (c : Option Code) (i : Nat) (d : Int) (fw : Bool) :
    (s.recordLimited n e c i d fw).regs = s.regs := by simp [State.recordLimited]
@[simp] theorem State.noteRefusal_regs (w k : Nat) (c : Code) : (s.noteRefusal w k c).regs = s.regs := by
  unfold State.noteRefusal; split <;> simp

@[simp] theorem State.recordAt_blobs (t e : Nat) (c : Option Code) (i : Nat) (d : Int) (fw : Bool) (n : Nat) :
    (s.recordAt t e c i d fw n).blobs = s.blobs := by
  simp only [State.recordAt]; split
  · rfl
  · split <;> simp
@[simp] theorem State.record_blobs (e : Nat) (c : Option Code) (i : Nat) (d : Int) (fw : Bool) :
    (s.record e c i d fw).blobs = s.blobs := by simp [State.record]
@[simp] theorem State.recordEvery_blobs (t n : Nat) (p : Bool) (e : Nat) (c : Option Code) (i : Nat) (d : Int) (fw : Bool) :
    (s.recordEvery t n p e c i d fw).blobs = s.blobs := by simp only [State.recordEvery]; split <;> simp
@[simp] theorem State.recordLimited_blobs (n e : Nat) (c : Option Code) (i : Nat) (d : Int) (fw : Bool) :
    (s.recordLimited n e c i d fw).blobs = s.blobs := by simp [State.recordLimited]
@[simp] theorem State.noteRefusal_blobs (w k : Nat) (c : Code) : (s.noteRefusal w k c).blobs = s.blobs := by
  unfold State.noteRefusal; split <;> simp

@[simp] theorem State.recordAt_shadow (t e : Nat) (c : Option Code) (i : Nat) (d : Int) (fw : Bool) (n : Nat) :
    (s.recordAt t e c i d fw n).shadow = s.shadow := by
  simp only [State.recordAt]; split
  · rfl
  · split <;> simp
@[simp] theorem State.record_shadow (e : Nat) (c : Option Code) (i : Nat) (d : Int) (fw : Bool) :
    (s.record e c i d fw).shadow = s.shadow := by simp [State.record]
@[simp] theorem State.recordEvery_shadow (t n : Nat) (p : Bool) (e : Nat) (c : Option Code) (i : Nat) (d : Int) (fw : Bool) :
    (s.recordEvery t n p e c i d fw).shadow = s.shadow := by simp only [State.recordEvery]; split <;> simp
@[simp] theorem State.recordLimited_shadow (n e : Nat) (c : Option Code) (i : Nat) (d : Int) (fw : Bool) :
    (s.recordLimited n e c i d fw).shadow = s.shadow := by simp [State.recordLimited]
@[simp] theorem State.noteRefusal_shadow (w k : Nat) (c : Code) : (s.noteRefusal w k c).shadow = s.shadow := by
  unfold State.noteRefusal; split <;> simp

@[simp] theorem State.recordAt_acc (t e : Nat) (c : Option Code) (i : Nat) (d : Int) (fw : Bool) (n : Nat) :
    (s.recordAt t e c i d fw n).acc = s.acc := by
  simp only [State.recordAt]; split
  · rfl
  · split <;> simp
@[simp] theorem State.record_acc (e : Nat) (c : Option Code) (i : Nat) (d : Int) (fw : Bool) :
    (s.record e c i d fw).acc = s.acc := by simp [State.record]
@[simp] theorem State.recordEvery_acc (t n : Nat) (p : Bool) (e : Nat) (c : Option Code) (i : Nat) (d : Int) (fw : Bool) :
    (s.recordEvery t n p e c i d fw).acc = s.acc := by simp only [State.recordEvery]; split <;> simp
@[simp] theorem State.recordLimited_acc (n e : Nat) (c : Option Code) (i : Nat) (d : Int) (fw : Bool) :
    (s.recordLimited n e c i d fw).acc = s.acc := by simp [State.recordLimited]
@[simp] theorem State.noteRefusal_acc (w k : Nat) (c : Code) : (s.noteRefusal w k c).acc = s.acc := by
  unfold State.noteRefusal; split <;> simp

@[simp] theorem State.recordAt_fuses (t e : Nat) (c : Option Code) (i : Nat) (d : Int) (fw : Bool) (n : Nat) :
    (s.recordAt t e c i d fw n).fuses = s.fuses := by
  simp only [State.recordAt]; split
  · rfl
  · split <;> simp
@[simp] theorem State.record_fuses (e : Nat) (c : Option Code) (i : Nat) (d : Int) (fw : Bool) :
    (s.record e c i d fw).fuses = s.fuses := by simp [State.record]
@[simp] theorem State.recordEvery_fuses (t n : Nat) (p : Bool) (e : Nat) (c : Option Code) (i : Nat) (d : Int) (fw : Bool) :
    (s.recordEvery t n p e c i d fw).fuses = s.fuses := by simp only [State.recordEvery]; split <;> simp
@[simp] theorem State.recordLimited_fuses (n e : Nat) (c : Option Code) (i : Nat) (d : Int) (fw : Bool) :
    (s.recordLimited n e c i d fw).fuses = s.fuses := by simp [State.recordLimited]
@[simp] theorem State.noteRefusal_fuses (w k : Nat) (c : Code) : (s.noteRefusal w k c).fuses = s.fuses := by
  unfold State.noteRefusal; split <;> simp

@[simp] theorem State.recordAt_nvA (t e : Nat) (c : Option Code) (i : Nat) (d : Int) (fw : Bool) (n : Nat) :
    (s.recordAt t e c i d fw n).nvA = s.nvA := by
  simp only [State.recordAt]; split
  · rfl
  · split <;> simp
@[simp] theorem State.record_nvA (e : Nat) (c : Option Code) (i : Nat) (d : Int) (fw : Bool) :
    (s.record e c i d fw).nvA = s.nvA := by simp [State.record]
@[simp] theorem State.recordEvery_nvA (t n : Nat) (p : Bool) (e : Nat) (c : Option Code) (i : Nat) (d : Int) (fw : Bool) :
    (s.recordEvery t n p e c i d fw).nvA = s.nvA := by simp only [State.recordEvery]; split <;> simp
@[simp] theorem State.recordLimited_nvA (n e : Nat) (c : Option Code) (i : Nat) (d : Int) (fw : Bool) :
    (s.recordLimited n e c i d fw).nvA = s.nvA := by simp [State.recordLimited]
@[simp] theorem State.noteRefusal_nvA (w k : Nat) (c : Code) : (s.noteRefusal w k c).nvA = s.nvA := by
  unfold State.noteRefusal; split <;> simp

@[simp] theorem State.recordAt_nvB (t e : Nat) (c : Option Code) (i : Nat) (d : Int) (fw : Bool) (n : Nat) :
    (s.recordAt t e c i d fw n).nvB = s.nvB := by
  simp only [State.recordAt]; split
  · rfl
  · split <;> simp
@[simp] theorem State.record_nvB (e : Nat) (c : Option Code) (i : Nat) (d : Int) (fw : Bool) :
    (s.record e c i d fw).nvB = s.nvB := by simp [State.record]
@[simp] theorem State.recordEvery_nvB (t n : Nat) (p : Bool) (e : Nat) (c : Option Code) (i : Nat) (d : Int) (fw : Bool) :
    (s.recordEvery t n p e c i d fw).nvB = s.nvB := by simp only [State.recordEvery]; split <;> simp
@[simp] theorem State.recordLimited_nvB (n e : Nat) (c : Option Code) (i : Nat) (d : Int) (fw : Bool) :
    (s.recordLimited n e c i d fw).nvB = s.nvB := by simp [State.recordLimited]
@[simp] theorem State.noteRefusal_nvB (w k : Nat) (c : Code) : (s.noteRefusal w k c).nvB = s.nvB := by
  unfold State.noteRefusal; split <;> simp

@[simp] theorem State.recordAt_ingots (t e : Nat) (c : Option Code) (i : Nat) (d : Int) (fw : Bool) (n : Nat) :
    (s.recordAt t e c i d fw n).ingots = s.ingots := by
  simp only [State.recordAt]; split
  · rfl
  · split <;> simp
@[simp] theorem State.record_ingots (e : Nat) (c : Option Code) (i : Nat) (d : Int) (fw : Bool) :
    (s.record e c i d fw).ingots = s.ingots := by simp [State.record]
@[simp] theorem State.recordEvery_ingots (t n : Nat) (p : Bool) (e : Nat) (c : Option Code) (i : Nat) (d : Int) (fw : Bool) :
    (s.recordEvery t n p e c i d fw).ingots = s.ingots := by simp only [State.recordEvery]; split <;> simp
@[simp] theorem State.recordLimited_ingots (n e : Nat) (c : Option Code) (i : Nat) (d : Int) (fw : Bool) :
    (s.recordLimited n e c i d fw).ingots = s.ingots := by simp [State.recordLimited]
@[simp] theorem State.noteRefusal_ingots (w k : Nat) (c : Code) : (s.noteRefusal w k c).ingots = s.ingots := by
  unfold State.noteRefusal; split <;> simp

@[simp] theorem State.recordAt_groups (t e : Nat) (c : Option Code) (i : Nat) (d : Int) (fw : Bool) (n : Nat) :
    (s.recordAt t e c i d fw n).groups = s.groups := by
  simp only [State.recordAt]; split
  · rfl
  · split <;> simp
@[simp] theorem State.record_groups (e : Nat) (c : Option Code) (i : Nat) (d : Int) (fw : Bool) :
    (s.record e c i d fw).groups = s.groups := by simp [State.record]
@[simp] theorem State.recordEvery_groups (t n : Nat) (p : Bool) (e : Nat) (c : Option Code) (i : Nat) (d : Int) (fw : Bool) :
    (s.recordEvery t n p e c i d fw).groups = s.groups := by simp only [State.recordEvery]; split <;> simp
@[simp] theorem State.recordLimited_groups (n e : Nat) (c : Option Code) (i : Nat) (d : Int) (fw : Bool) :
    (s.recordLimited n e c i d fw).groups = s.groups := by simp [State.recordLimited]
@[simp] theorem State.noteRefusal_groups (w k : Nat) (c : Code) : (s.noteRefusal w k c).groups = s.groups := by
  unfold State.noteRefusal; split <;> simp

@[simp] theorem State.recordAt_sources (t e : Nat) (c : Option Code) (i : Nat) (d : Int) (fw : Bool) (n : Nat) :
    (s.recordAt t e c i d fw n).sources = s.sources := by
  simp only [State.recordAt]; split
  · rfl
  · split <;> simp
@[simp] theorem State.record_sources (e : Nat) (c : Option Code) (i : Nat) (d : Int) (fw : Bool) :
    (s.record e c i d fw).sources = s.sources := by simp [State.record]
@[simp] theorem State.recordEvery_sources (t n : Nat) (p : Bool) (e : Nat) (c : Option Code) (i : Nat) (d : Int) (fw : Bool) :
    (s.recordEvery t n p e c i d fw).sources = s.sources := by simp only [State.recordEvery]; split <;> simp
@[simp] theorem State.recordLimited_sources (n e : Nat) (c : Option Code) (i : Nat) (d : Int) (fw : Bool) :
    (s.recordLimited n e c i d fw).sources = s.sources := by simp [State.recordLimited]
@[simp] theorem State.noteRefusal_sources (w k : Nat) (c : Code) : (s.noteRefusal w k c).sources = s.sources := by
  unfold State.noteRefusal; split <;> simp

@[simp] theorem State.recordAt_slots (t e : Nat) (c : Option Code) (i : Nat) (d : Int) (fw : Bool) (n : Nat) :
    (s.recordAt t e c i d fw n).slots = s.slots := by
  simp only [State.recordAt]; split
  · rfl
  · split <;> simp
@[simp] theorem State.record_slots (e : Nat) (c : Option Code) (i : Nat) (d : Int) (fw : Bool) :
    (s.record e c i d fw).slots = s.slots := by simp [State.record]
@[simp] theorem State.recordEvery_slots (t n : Nat) (p : Bool) (e : Nat) (c : Option Code) (i : Nat) (d : Int) (fw : Bool) :
    (s.recordEvery t n p e c i d fw).slots = s.slots := by simp only [State.recordEvery]; split <;> simp
@[simp] theorem State.recordLimited_slots (n e : Nat) (c : Option Code) (i : Nat) (d : Int) (fw : Bool) :
    (s.recordLimited n e c i d fw).slots = s.slots := by simp [State.recordLimited]
@[simp] theorem State.noteRefusal_slots (w k : Nat) (c : Code) : (s.noteRefusal w k c).slots = s.slots := by
  unfold State.noteRefusal; split <;> simp

@[simp] theorem State.recordAt_smith (t e : Nat) (c : Option Code) (i : Nat) (d : Int) (fw : Bool) (n : Nat) :
    (s.recordAt t e c i d fw n).smith = s.smith := by
  simp only [State.recordAt]; split
  · rfl
  · split <;> simp
@[simp] theorem State.record_smith (e : Nat) (c : Option Code) (i : Nat) (d : Int) (fw : Bool) :
    (s.record e c i d fw).smith = s.smith := by simp [State.record]
@[simp] theorem State.recordEvery_smith (t n : Nat) (p : Bool) (e : Nat) (c : Option Code) (i : Nat) (d : Int) (fw : Bool) :
    (s.recordEvery t n p e c i d fw).smith = s.smith := by simp only [State.recordEvery]; split <;> simp
@[simp] theorem State.recordLimited_smith (n e : Nat) (c : Option Code) (i : Nat) (d : Int) (fw : Bool) :
    (s.recordLimited n e c i d fw).smith = s.smith := by simp [State.recordLimited]
@[simp] theorem State.noteRefusal_smith (w k : Nat) (c : Code) : (s.noteRefusal w k c).smith = s.smith := by
  unfold State.noteRefusal; split <;> simp

@[simp] theorem State.recordAt_plan (t e : Nat) (c : Option Code) (i : Nat) (d : Int) (fw : Bool) (n : Nat) :
    (s.recordAt t e c i d fw n).plan = s.plan := by
  simp only [State.recordAt]; split
  · rfl
  · split <;> simp
@[simp] theorem State.record_plan (e : Nat) (c : Option Code) (i : Nat) (d : Int) (fw : Bool) :
    (s.record e c i d fw).plan = s.plan := by simp [State.record]
@[simp] theorem State.recordEvery_plan (t n : Nat) (p : Bool) (e : Nat) (c : Option Code) (i : Nat) (d : Int) (fw : Bool) :
    (s.recordEvery t n p e c i d fw).plan = s.plan := by simp only [State.recordEvery]; split <;> simp
@[simp] theorem State.recordLimited_plan (n e : Nat) (c : Option Code) (i : Nat) (d : Int) (fw : Bool) :
    (s.recordLimited n e c i d fw).plan = s.plan := by simp [State.recordLimited]
@[simp] theorem State.noteRefusal_plan (w k : Nat) (c : Code) : (s.noteRefusal w k c).plan = s.plan := by
  unfold State.noteRefusal; split <;> simp

@[simp] theorem State.recordAt_planSlot (t e : Nat) (c : Option Code) (i : Nat) (d : Int) (fw : Bool) (n : Nat) :
    (s.recordAt t e c i d fw n).planSlot = s.planSlot := by
  simp only [State.recordAt]; split
  · rfl
  · split <;> simp
@[simp] theorem State.record_planSlot (e : Nat) (c : Option Code) (i : Nat) (d : Int) (fw : Bool) :
    (s.record e c i d fw).planSlot = s.planSlot := by simp [State.record]
@[simp] theorem State.recordEvery_planSlot (t n : Nat) (p : Bool) (e : Nat) (c : Option Code) (i : Nat) (d : Int) (fw : Bool) :
    (s.recordEvery t n p e c i d fw).planSlot = s.planSlot := by simp only [State.recordEvery]; split <;> simp
@[simp] theorem State.recordLimited_planSlot (n e : Nat) (c : Option Code) (i : Nat) (d : Int) (fw : Bool) :
    (s.recordLimited n e c i d fw).planSlot = s.planSlot := by simp [State.recordLimited]
@[simp] theorem State.noteRefusal_planSlot (w k : Nat) (c : Code) : (s.noteRefusal w k c).planSlot = s.planSlot := by
  unfold State.noteRefusal; split <;> simp

@[simp] theorem State.recordAt_commits (t e : Nat) (c : Option Code) (i : Nat) (d : Int) (fw : Bool) (n : Nat) :
    (s.recordAt t e c i d fw n).commits = s.commits := by
  simp only [State.recordAt]; split
  · rfl
  · split <;> simp
@[simp] theorem State.record_commits (e : Nat) (c : Option Code) (i : Nat) (d : Int) (fw : Bool) :
    (s.record e c i d fw).commits = s.commits := by simp [State.record]
@[simp] theorem State.recordEvery_commits (t n : Nat) (p : Bool) (e : Nat) (c : Option Code) (i : Nat) (d : Int) (fw : Bool) :
    (s.recordEvery t n p e c i d fw).commits = s.commits := by simp only [State.recordEvery]; split <;> simp
@[simp] theorem State.recordLimited_commits (n e : Nat) (c : Option Code) (i : Nat) (d : Int) (fw : Bool) :
    (s.recordLimited n e c i d fw).commits = s.commits := by simp [State.recordLimited]
@[simp] theorem State.noteRefusal_commits (w k : Nat) (c : Code) : (s.noteRefusal w k c).commits = s.commits := by
  unfold State.noteRefusal; split <;> simp

@[simp] theorem State.recordAt_outputs (t e : Nat) (c : Option Code) (i : Nat) (d : Int) (fw : Bool) (n : Nat) :
    (s.recordAt t e c i d fw n).outputs = s.outputs := by
  simp only [State.recordAt]; split
  · rfl
  · split <;> simp
@[simp] theorem State.record_outputs (e : Nat) (c : Option Code) (i : Nat) (d : Int) (fw : Bool) :
    (s.record e c i d fw).outputs = s.outputs := by simp [State.record]
@[simp] theorem State.recordEvery_outputs (t n : Nat) (p : Bool) (e : Nat) (c : Option Code) (i : Nat) (d : Int) (fw : Bool) :
    (s.recordEvery t n p e c i d fw).outputs = s.outputs := by simp only [State.recordEvery]; split <;> simp
@[simp] theorem State.recordLimited_outputs (n e : Nat) (c : Option Code) (i : Nat) (d : Int) (fw : Bool) :
    (s.recordLimited n e c i d fw).outputs = s.outputs := by simp [State.recordLimited]
@[simp] theorem State.noteRefusal_outputs (w k : Nat) (c : Code) : (s.noteRefusal w k c).outputs = s.outputs := by
  unfold State.noteRefusal; split <;> simp

@[simp] theorem State.recordAt_engines (t e : Nat) (c : Option Code) (i : Nat) (d : Int) (fw : Bool) (n : Nat) :
    (s.recordAt t e c i d fw n).engines = s.engines := by
  simp only [State.recordAt]; split
  · rfl
  · split <;> simp
@[simp] theorem State.record_engines (e : Nat) (c : Option Code) (i : Nat) (d : Int) (fw : Bool) :
    (s.record e c i d fw).engines = s.engines := by simp [State.record]
@[simp] theorem State.recordEvery_engines (t n : Nat) (p : Bool) (e : Nat) (c : Option Code) (i : Nat) (d : Int) (fw : Bool) :
    (s.recordEvery t n p e c i d fw).engines = s.engines := by simp only [State.recordEvery]; split <;> simp
@[simp] theorem State.recordLimited_engines (n e : Nat) (c : Option Code) (i : Nat) (d : Int) (fw : Bool) :
    (s.recordLimited n e c i d fw).engines = s.engines := by simp [State.recordLimited]
@[simp] theorem State.noteRefusal_engines (w k : Nat) (c : Code) : (s.noteRefusal w k c).engines = s.engines := by
  unfold State.noteRefusal; split <;> simp

@[simp] theorem State.recordAt_sinks (t e : Nat) (c : Option Code) (i : Nat) (d : Int) (fw : Bool) (n : Nat) :
    (s.recordAt t e c i d fw n).sinks = s.sinks := by
  simp only [State.recordAt]; split
  · rfl
  · split <;> simp
@[simp] theorem State.record_sinks (e : Nat) (c : Option Code) (i : Nat) (d : Int) (fw : Bool) :
    (s.record e c i d fw).sinks = s.sinks := by simp [State.record]
@[simp] theorem State.recordEvery_sinks (t n : Nat) (p : Bool) (e : Nat) (c : Option Code) (i : Nat) (d : Int) (fw : Bool) :
    (s.recordEvery t n p e c i d fw).sinks = s.sinks := by simp only [State.recordEvery]; split <;> simp
@[simp] theorem State.recordLimited_sinks (n e : Nat) (c : Option Code) (i : Nat) (d : Int) (fw : Bool) :
    (s.recordLimited n e c i d fw).sinks = s.sinks := by simp [State.recordLimited]
@[simp] theorem State.noteRefusal_sinks (w k : Nat) (c : Code) : (s.noteRefusal w k c).sinks = s.sinks := by
  unfold State.noteRefusal; split <;> simp

@[simp] theorem State.recordAt_panels (t e : Nat) (c : Option Code) (i : Nat) (d : Int) (fw : Bool) (n : Nat) :
    (s.recordAt t e c i d fw n).panels = s.panels := by
  simp only [State.recordAt]; split
  · rfl
  · split <;> simp
@[simp] theorem State.record_panels (e : Nat) (c : Option Code) (i : Nat) (d : Int) (fw : Bool) :
    (s.record e c i d fw).panels = s.panels := by simp [State.record]
@[simp] theorem State.recordEvery_panels (t n : Nat) (p : Bool) (e : Nat) (c : Option Code) (i : Nat) (d : Int) (fw : Bool) :
    (s.recordEvery t n p e c i d fw).panels = s.panels := by simp only [State.recordEvery]; split <;> simp
@[simp] theorem State.recordLimited_panels (n e : Nat) (c : Option Code) (i : Nat) (d : Int) (fw : Bool) :
    (s.recordLimited n e c i d fw).panels = s.panels := by simp [State.recordLimited]
@[simp] theorem State.noteRefusal_panels (w k : Nat) (c : Code) : (s.noteRefusal w k c).panels = s.panels := by
  unfold State.noteRefusal; split <;> simp

@[simp] theorem State.recordAt_recover (t e : Nat) (c : Option Code) (i : Nat) (d : Int) (fw : Bool) (n : Nat) :
    (s.recordAt t e c i d fw n).recover = s.recover := by
  simp only [State.recordAt]; split
  · rfl
  · split <;> simp
@[simp] theorem State.record_recover (e : Nat) (c : Option Code) (i : Nat) (d : Int) (fw : Bool) :
    (s.record e c i d fw).recover = s.recover := by simp [State.record]
@[simp] theorem State.recordEvery_recover (t n : Nat) (p : Bool) (e : Nat) (c : Option Code) (i : Nat) (d : Int) (fw : Bool) :
    (s.recordEvery t n p e c i d fw).recover = s.recover := by simp only [State.recordEvery]; split <;> simp
@[simp] theorem State.recordLimited_recover (n e : Nat) (c : Option Code) (i : Nat) (d : Int) (fw : Bool) :
    (s.recordLimited n e c i d fw).recover = s.recover := by simp [State.recordLimited]
@[simp] theorem State.noteRefusal_recover (w k : Nat) (c : Code) : (s.noteRefusal w k c).recover = s.recover := by
  unfold State.noteRefusal; split <;> simp

@[simp] theorem State.recordAt_ctxs (t e : Nat) (c : Option Code) (i : Nat) (d : Int) (fw : Bool) (n : Nat) :
    (s.recordAt t e c i d fw n).ctxs = s.ctxs := by
  simp only [State.recordAt]; split
  · rfl
  · split <;> simp
@[simp] theorem State.record_ctxs (e : Nat) (c : Option Code) (i : Nat) (d : Int) (fw : Bool) :
    (s.record e c i d fw).ctxs = s.ctxs := by simp [State.record]
@[simp] theorem State.recordEvery_ctxs (t n : Nat) (p : Bool) (e : Nat) (c : Option Code) (i : Nat) (d : Int) (fw : Bool) :
    (s.recordEvery t n p e c i d fw).ctxs = s.ctxs := by simp only [State.recordEvery]; split <;> simp
@[simp] theorem State.recordLimited_ctxs (n e : Nat) (c : Option Code) (i : Nat) (d : Int) (fw : Bool) :
    (s.recordLimited n e c i d fw).ctxs = s.ctxs := by simp [State.recordLimited]
@[simp] theorem State.noteRefusal_ctxs (w k : Nat) (c : Code) : (s.noteRefusal w k c).ctxs = s.ctxs := by
  unfold State.noteRefusal; split <;> simp

@[simp] theorem State.recordAt_pipes (t e : Nat) (c : Option Code) (i : Nat) (d : Int) (fw : Bool) (n : Nat) :
    (s.recordAt t e c i d fw n).pipes = s.pipes := by
  simp only [State.recordAt]; split
  · rfl
  · split <;> simp
@[simp] theorem State.record_pipes (e : Nat) (c : Option Code) (i : Nat) (d : Int) (fw : Bool) :
    (s.record e c i d fw).pipes = s.pipes := by simp [State.record]
@[simp] theorem State.recordEvery_pipes (t n : Nat) (p : Bool) (e : Nat) (c : Option Code) (i : Nat) (d : Int) (fw : Bool) :
    (s.recordEvery t n p e c i d fw).pipes = s.pipes := by simp only [State.recordEvery]; split <;> simp
@[simp] theorem State.recordLimited_pipes (n e : Nat) (c : Option Code) (i : Nat) (d : Int) (fw : Bool) :
    (s.recordLimited n e c i d fw).pipes = s.pipes := by simp [State.recordLimited]
@[simp] theorem State.noteRefusal_pipes (w k : Nat) (c : Code) : (s.noteRefusal w k c).pipes = s.pipes := by
  unfold State.noteRefusal; split <;> simp

@[simp] theorem State.recordAt_camPorts (t e : Nat) (c : Option Code) (i : Nat) (d : Int) (fw : Bool) (n : Nat) :
    (s.recordAt t e c i d fw n).camPorts = s.camPorts := by
  simp only [State.recordAt]; split
  · rfl
  · split <;> simp
@[simp] theorem State.record_camPorts (e : Nat) (c : Option Code) (i : Nat) (d : Int) (fw : Bool) :
    (s.record e c i d fw).camPorts = s.camPorts := by simp [State.record]
@[simp] theorem State.recordEvery_camPorts (t n : Nat) (p : Bool) (e : Nat) (c : Option Code) (i : Nat) (d : Int) (fw : Bool) :
    (s.recordEvery t n p e c i d fw).camPorts = s.camPorts := by simp only [State.recordEvery]; split <;> simp
@[simp] theorem State.recordLimited_camPorts (n e : Nat) (c : Option Code) (i : Nat) (d : Int) (fw : Bool) :
    (s.recordLimited n e c i d fw).camPorts = s.camPorts := by simp [State.recordLimited]
@[simp] theorem State.noteRefusal_camPorts (w k : Nat) (c : Code) : (s.noteRefusal w k c).camPorts = s.camPorts := by
  unfold State.noteRefusal; split <;> simp

@[simp] theorem State.recordAt_lanes (t e : Nat) (c : Option Code) (i : Nat) (d : Int) (fw : Bool) (n : Nat) :
    (s.recordAt t e c i d fw n).lanes = s.lanes := by
  simp only [State.recordAt]; split
  · rfl
  · split <;> simp
@[simp] theorem State.record_lanes (e : Nat) (c : Option Code) (i : Nat) (d : Int) (fw : Bool) :
    (s.record e c i d fw).lanes = s.lanes := by simp [State.record]
@[simp] theorem State.recordEvery_lanes (t n : Nat) (p : Bool) (e : Nat) (c : Option Code) (i : Nat) (d : Int) (fw : Bool) :
    (s.recordEvery t n p e c i d fw).lanes = s.lanes := by simp only [State.recordEvery]; split <;> simp
@[simp] theorem State.recordLimited_lanes (n e : Nat) (c : Option Code) (i : Nat) (d : Int) (fw : Bool) :
    (s.recordLimited n e c i d fw).lanes = s.lanes := by simp [State.recordLimited]
@[simp] theorem State.noteRefusal_lanes (w k : Nat) (c : Code) : (s.noteRefusal w k c).lanes = s.lanes := by
  unfold State.noteRefusal; split <;> simp

@[simp] theorem State.recordAt_ports (t e : Nat) (c : Option Code) (i : Nat) (d : Int) (fw : Bool) (n : Nat) :
    (s.recordAt t e c i d fw n).ports = s.ports := by
  simp only [State.recordAt]; split
  · rfl
  · split <;> simp
@[simp] theorem State.record_ports (e : Nat) (c : Option Code) (i : Nat) (d : Int) (fw : Bool) :
    (s.record e c i d fw).ports = s.ports := by simp [State.record]
@[simp] theorem State.recordEvery_ports (t n : Nat) (p : Bool) (e : Nat) (c : Option Code) (i : Nat) (d : Int) (fw : Bool) :
    (s.recordEvery t n p e c i d fw).ports = s.ports := by simp only [State.recordEvery]; split <;> simp
@[simp] theorem State.recordLimited_ports (n e : Nat) (c : Option Code) (i : Nat) (d : Int) (fw : Bool) :
    (s.recordLimited n e c i d fw).ports = s.ports := by simp [State.recordLimited]
@[simp] theorem State.noteRefusal_ports (w k : Nat) (c : Code) : (s.noteRefusal w k c).ports = s.ports := by
  unfold State.noteRefusal; split <;> simp

@[simp] theorem State.recordAt_time (t e : Nat) (c : Option Code) (i : Nat) (d : Int) (fw : Bool) (n : Nat) :
    (s.recordAt t e c i d fw n).time = s.time := by
  simp only [State.recordAt]; split
  · rfl
  · split <;> simp
@[simp] theorem State.record_time (e : Nat) (c : Option Code) (i : Nat) (d : Int) (fw : Bool) :
    (s.record e c i d fw).time = s.time := by simp [State.record]
@[simp] theorem State.recordEvery_time (t n : Nat) (p : Bool) (e : Nat) (c : Option Code) (i : Nat) (d : Int) (fw : Bool) :
    (s.recordEvery t n p e c i d fw).time = s.time := by simp only [State.recordEvery]; split <;> simp
@[simp] theorem State.recordLimited_time (n e : Nat) (c : Option Code) (i : Nat) (d : Int) (fw : Bool) :
    (s.recordLimited n e c i d fw).time = s.time := by simp [State.recordLimited]
@[simp] theorem State.noteRefusal_time (w k : Nat) (c : Code) : (s.noteRefusal w k c).time = s.time := by
  unfold State.noteRefusal; split <;> simp

@[simp] theorem State.recordAt_fabric (t e : Nat) (c : Option Code) (i : Nat) (d : Int) (fw : Bool) (n : Nat) :
    (s.recordAt t e c i d fw n).fabric = s.fabric := by
  simp only [State.recordAt]; split
  · rfl
  · split <;> simp
@[simp] theorem State.record_fabric (e : Nat) (c : Option Code) (i : Nat) (d : Int) (fw : Bool) :
    (s.record e c i d fw).fabric = s.fabric := by simp [State.record]
@[simp] theorem State.recordEvery_fabric (t n : Nat) (p : Bool) (e : Nat) (c : Option Code) (i : Nat) (d : Int) (fw : Bool) :
    (s.recordEvery t n p e c i d fw).fabric = s.fabric := by simp only [State.recordEvery]; split <;> simp
@[simp] theorem State.recordLimited_fabric (n e : Nat) (c : Option Code) (i : Nat) (d : Int) (fw : Bool) :
    (s.recordLimited n e c i d fw).fabric = s.fabric := by simp [State.recordLimited]
@[simp] theorem State.noteRefusal_fabric (w k : Nat) (c : Code) : (s.noteRefusal w k c).fabric = s.fabric := by
  unfold State.noteRefusal; split <;> simp

@[simp] theorem State.recordAt_dram (t e : Nat) (c : Option Code) (i : Nat) (d : Int) (fw : Bool) (n : Nat) :
    (s.recordAt t e c i d fw n).dram = s.dram := by
  simp only [State.recordAt]; split
  · rfl
  · split <;> simp
@[simp] theorem State.record_dram (e : Nat) (c : Option Code) (i : Nat) (d : Int) (fw : Bool) :
    (s.record e c i d fw).dram = s.dram := by simp [State.record]
@[simp] theorem State.recordEvery_dram (t n : Nat) (p : Bool) (e : Nat) (c : Option Code) (i : Nat) (d : Int) (fw : Bool) :
    (s.recordEvery t n p e c i d fw).dram = s.dram := by simp only [State.recordEvery]; split <;> simp
@[simp] theorem State.recordLimited_dram (n e : Nat) (c : Option Code) (i : Nat) (d : Int) (fw : Bool) :
    (s.recordLimited n e c i d fw).dram = s.dram := by simp [State.recordLimited]
@[simp] theorem State.noteRefusal_dram (w k : Nat) (c : Code) : (s.noteRefusal w k c).dram = s.dram := by
  unfold State.noteRefusal; split <;> simp

@[simp] theorem State.recordAt_pair (t e : Nat) (c : Option Code) (i : Nat) (d : Int) (fw : Bool) (n : Nat) :
    (s.recordAt t e c i d fw n).pair = s.pair := by
  simp only [State.recordAt]; split
  · rfl
  · split <;> simp
@[simp] theorem State.record_pair (e : Nat) (c : Option Code) (i : Nat) (d : Int) (fw : Bool) :
    (s.record e c i d fw).pair = s.pair := by simp [State.record]
@[simp] theorem State.recordEvery_pair (t n : Nat) (p : Bool) (e : Nat) (c : Option Code) (i : Nat) (d : Int) (fw : Bool) :
    (s.recordEvery t n p e c i d fw).pair = s.pair := by simp only [State.recordEvery]; split <;> simp
@[simp] theorem State.recordLimited_pair (n e : Nat) (c : Option Code) (i : Nat) (d : Int) (fw : Bool) :
    (s.recordLimited n e c i d fw).pair = s.pair := by simp [State.recordLimited]
@[simp] theorem State.noteRefusal_pair (w k : Nat) (c : Code) : (s.noteRefusal w k c).pair = s.pair := by
  unfold State.noteRefusal; split <;> simp

@[simp] theorem State.recordAt_keys (t e : Nat) (c : Option Code) (i : Nat) (d : Int) (fw : Bool) (n : Nat) :
    (s.recordAt t e c i d fw n).keys = s.keys := by
  simp only [State.recordAt]; split
  · rfl
  · split <;> simp
@[simp] theorem State.record_keys (e : Nat) (c : Option Code) (i : Nat) (d : Int) (fw : Bool) :
    (s.record e c i d fw).keys = s.keys := by simp [State.record]
@[simp] theorem State.recordEvery_keys (t n : Nat) (p : Bool) (e : Nat) (c : Option Code) (i : Nat) (d : Int) (fw : Bool) :
    (s.recordEvery t n p e c i d fw).keys = s.keys := by simp only [State.recordEvery]; split <;> simp
@[simp] theorem State.recordLimited_keys (n e : Nat) (c : Option Code) (i : Nat) (d : Int) (fw : Bool) :
    (s.recordLimited n e c i d fw).keys = s.keys := by simp [State.recordLimited]
@[simp] theorem State.noteRefusal_keys (w k : Nat) (c : Code) : (s.noteRefusal w k c).keys = s.keys := by
  unfold State.noteRefusal; split <;> simp

@[simp] theorem State.recordAt_scans (t e : Nat) (c : Option Code) (i : Nat) (d : Int) (fw : Bool) (n : Nat) :
    (s.recordAt t e c i d fw n).scans = s.scans := by
  simp only [State.recordAt]; split
  · rfl
  · split <;> simp
@[simp] theorem State.record_scans (e : Nat) (c : Option Code) (i : Nat) (d : Int) (fw : Bool) :
    (s.record e c i d fw).scans = s.scans := by simp [State.record]
@[simp] theorem State.recordEvery_scans (t n : Nat) (p : Bool) (e : Nat) (c : Option Code) (i : Nat) (d : Int) (fw : Bool) :
    (s.recordEvery t n p e c i d fw).scans = s.scans := by simp only [State.recordEvery]; split <;> simp
@[simp] theorem State.recordLimited_scans (n e : Nat) (c : Option Code) (i : Nat) (d : Int) (fw : Bool) :
    (s.recordLimited n e c i d fw).scans = s.scans := by simp [State.recordLimited]
@[simp] theorem State.noteRefusal_scans (w k : Nat) (c : Code) : (s.noteRefusal w k c).scans = s.scans := by
  unfold State.noteRefusal; split <;> simp

@[simp] theorem State.recordAt_power (t e : Nat) (c : Option Code) (i : Nat) (d : Int) (fw : Bool) (n : Nat) :
    (s.recordAt t e c i d fw n).power = s.power := by
  simp only [State.recordAt]; split
  · rfl
  · split <;> simp
@[simp] theorem State.record_power (e : Nat) (c : Option Code) (i : Nat) (d : Int) (fw : Bool) :
    (s.record e c i d fw).power = s.power := by simp [State.record]
@[simp] theorem State.recordEvery_power (t n : Nat) (p : Bool) (e : Nat) (c : Option Code) (i : Nat) (d : Int) (fw : Bool) :
    (s.recordEvery t n p e c i d fw).power = s.power := by simp only [State.recordEvery]; split <;> simp
@[simp] theorem State.recordLimited_power (n e : Nat) (c : Option Code) (i : Nat) (d : Int) (fw : Bool) :
    (s.recordLimited n e c i d fw).power = s.power := by simp [State.recordLimited]
@[simp] theorem State.noteRefusal_power (w k : Nat) (c : Code) : (s.noteRefusal w k c).power = s.power := by
  unfold State.noteRefusal; split <;> simp

@[simp] theorem State.recordAt_fresh (t e : Nat) (c : Option Code) (i : Nat) (d : Int) (fw : Bool) (n : Nat) :
    (s.recordAt t e c i d fw n).fresh = s.fresh := by
  simp only [State.recordAt]; split
  · rfl
  · split <;> simp
@[simp] theorem State.record_fresh (e : Nat) (c : Option Code) (i : Nat) (d : Int) (fw : Bool) :
    (s.record e c i d fw).fresh = s.fresh := by simp [State.record]
@[simp] theorem State.recordEvery_fresh (t n : Nat) (p : Bool) (e : Nat) (c : Option Code) (i : Nat) (d : Int) (fw : Bool) :
    (s.recordEvery t n p e c i d fw).fresh = s.fresh := by simp only [State.recordEvery]; split <;> simp
@[simp] theorem State.recordLimited_fresh (n e : Nat) (c : Option Code) (i : Nat) (d : Int) (fw : Bool) :
    (s.recordLimited n e c i d fw).fresh = s.fresh := by simp [State.recordLimited]
@[simp] theorem State.noteRefusal_fresh (w k : Nat) (c : Code) : (s.noteRefusal w k c).fresh = s.fresh := by
  unfold State.noteRefusal; split <;> simp

@[simp] theorem State.recordAt_pending (t e : Nat) (c : Option Code) (i : Nat) (d : Int) (fw : Bool) (n : Nat) :
    (s.recordAt t e c i d fw n).pending = s.pending := by
  simp only [State.recordAt]; split
  · rfl
  · split <;> simp
@[simp] theorem State.record_pending (e : Nat) (c : Option Code) (i : Nat) (d : Int) (fw : Bool) :
    (s.record e c i d fw).pending = s.pending := by simp [State.record]
@[simp] theorem State.recordEvery_pending (t n : Nat) (p : Bool) (e : Nat) (c : Option Code) (i : Nat) (d : Int) (fw : Bool) :
    (s.recordEvery t n p e c i d fw).pending = s.pending := by simp only [State.recordEvery]; split <;> simp
@[simp] theorem State.recordLimited_pending (n e : Nat) (c : Option Code) (i : Nat) (d : Int) (fw : Bool) :
    (s.recordLimited n e c i d fw).pending = s.pending := by simp [State.recordLimited]
@[simp] theorem State.noteRefusal_pending (w k : Nat) (c : Code) : (s.noteRefusal w k c).pending = s.pending := by
  unfold State.noteRefusal; split <;> simp

@[simp] theorem State.record_reg (e : Nat) (c : Option Code) (i : Nat) (d : Int) (fw : Bool) (k n : Nat) :
    (s.record e c i d fw).reg k n = s.reg k n := by simp [State.reg, State.frozenDefault]
@[simp] theorem State.recordLimited_reg (m e : Nat) (c : Option Code) (i : Nat) (d : Int) (fw : Bool) (k n : Nat) :
    (s.recordLimited m e c i d fw).reg k n = s.reg k n := by simp [State.reg, State.frozenDefault]
@[simp] theorem State.send_reg (x : Sent) (k n : Nat) : (s.send x).reg k n = s.reg k n := rfl
@[simp] theorem State.reply_reg (m : Nat) (r : Reply) (k n : Nat) : (s.reply m r).reg k n = s.reg k n := rfl
@[simp] theorem State.touch_reg (x : Session) (k n : Nat) : (s.touch x).reg k n = s.reg k n := rfl
@[simp] theorem State.setSession_reg (x : Session) (k n : Nat) : (s.setSession x).reg k n = s.reg k n := rfl
@[simp] theorem State.setShadow_reg (i j : Nat) (v : Val) (k n : Nat) : (s.setShadow i j v).reg k n = s.reg k n := rfl
@[simp] theorem State.setBlob_reg (i j : Nat) (b : Bytes) (k n : Nat) : (s.setBlob i j b).reg k n = s.reg k n := rfl

@[simp] theorem State.setIngot_reg (m : Nat) (x : Ingot) (k n : Nat) : (s.setIngot m x).reg k n = s.reg k n := rfl
@[simp] theorem State.setGroup_reg (m : Nat) (x : Group) (k n : Nat) : (s.setGroup m x).reg k n = s.reg k n := rfl
@[simp] theorem State.setSlot_reg (m : Nat) (x : Slot) (k n : Nat) : (s.setSlot m x).reg k n = s.reg k n := rfl
@[simp] theorem State.setOutput_reg (m : Nat) (x : Output) (k n : Nat) : (s.setOutput m x).reg k n = s.reg k n := rfl
@[simp] theorem State.setEngine_reg (m : Nat) (x : Engine) (k n : Nat) : (s.setEngine m x).reg k n = s.reg k n := rfl
@[simp] theorem State.setCtx_reg (m : Nat) (x : Ctx) (k n : Nat) : (s.setCtx m x).reg k n = s.reg k n := rfl
@[simp] theorem State.setPipe_reg (m : Nat) (x : Pipe) (k n : Nat) : (s.setPipe m x).reg k n = s.reg k n := rfl
@[simp] theorem State.setCamPort_reg (m : Nat) (x : CamPort) (k n : Nat) : (s.setCamPort m x).reg k n = s.reg k n := rfl
@[simp] theorem State.setLane_reg (m : Nat) (x : Lane) (k n : Nat) : (s.setLane m x).reg k n = s.reg k n := rfl
@[simp] theorem State.setPort_reg (m : Nat) (x : Port) (k n : Nat) : (s.setPort m x).reg k n = s.reg k n := rfl
@[simp] theorem State.setChan_reg (m : Nat) (x : Chan) (k n : Nat) : (s.setChan m x).reg k n = s.reg k n := rfl
@[simp] theorem State.setKey_reg (m : Nat) (x : Key) (k n : Nat) : (s.setKey m x).reg k n = s.reg k n := rfl
@[simp] theorem State.setScan_reg (m : Nat) (x : Scan) (k n : Nat) : (s.setScan m x).reg k n = s.reg k n := rfl

end Sys2Proof.Machine
end

