-- ==== Sys2Proof/Laws/Tables.lean ====
section
/-! SUPPORT. The laws of sparse tables, and of the registers and parts that State keeps in them: a read after a write of the same
place gives the value written, and a write leaves every other place alone. -/

namespace Sys2Proof

set_option Elab.async false

@[simp] theorem Tbl.find_nil {α : Type} (k : Nat) : Tbl.find ([] : Tbl α) k = none := rfl

@[simp] theorem Tbl.find_put_same {α : Type} (t : Tbl α) (k : Nat) (v : α) : Tbl.find (Tbl.put t k v) k = some v := by
  induction t with
  | nil => simp [Tbl.put, Tbl.find]
  | cons p t ih =>
    obtain ⟨k', v'⟩ := p
    unfold Tbl.put
    split
    · simp [Tbl.find]
    · split
      · simp [Tbl.find]
      · rename_i h; simp [Tbl.find, h, ih]

theorem Tbl.find_put_ne {α : Type} (t : Tbl α) {k j : Nat} (v : α) (h : j ≠ k) :
    Tbl.find (Tbl.put t k v) j = Tbl.find t j := by
  induction t with
  | nil => simp [Tbl.put, Tbl.find, Ne.symm h]
  | cons p t ih =>
    obtain ⟨k', v'⟩ := p
    unfold Tbl.put
    split
    · simp [Tbl.find, Ne.symm h]
    · split
      · rename_i h'; subst h'; simp [Tbl.find, Ne.symm h]
      · simp [Tbl.find, ih]

@[simp] theorem Tbl.find_erase_same {α : Type} (t : Tbl α) (k : Nat) : Tbl.find (Tbl.erase t k) k = none := by
  induction t with
  | nil => rfl
  | cons p t ih =>
    obtain ⟨k', v'⟩ := p
    unfold Tbl.erase
    split
    · exact ih
    · rename_i h; simp [Tbl.find, h, ih]

theorem Tbl.find_erase_ne {α : Type} (t : Tbl α) {k j : Nat} (h : j ≠ k) : Tbl.find (Tbl.erase t k) j = Tbl.find t j := by
  induction t with
  | nil => rfl
  | cons p t ih =>
    obtain ⟨k', v'⟩ := p
    unfold Tbl.erase
    split
    · rename_i h'; subst h'; simp [Tbl.find, Ne.symm h, ih]
    · simp [Tbl.find, ih]

@[simp] theorem Tbl.get_put_same {α : Type} (d : α) (t : Tbl α) (k : Nat) (v : α) : Tbl.get d (Tbl.put t k v) k = v := by
  simp [Tbl.get]

theorem Tbl.get_put_ne {α : Type} (d : α) (t : Tbl α) {k j : Nat} (v : α) (h : j ≠ k) :
    Tbl.get d (Tbl.put t k v) j = Tbl.get d t j := by simp [Tbl.get, Tbl.find_put_ne t v h]

namespace Machine

set_option Elab.async false

/-- Parts below 65536 of two entries share a place only if the entries and the parts are the same. -/
theorem regKey_inj {k i k' i' : Nat} (hi : i < 65536) (hi' : i' < 65536) : regKey k i = regKey k' i' ↔ k = k' ∧ i = i' := by
  unfold regKey
  omega

variable (s : State)

@[simp] theorem State.reg_setReg_same (k i v : Nat) : (s.setReg k i v).reg k i = v := by simp [State.reg]

/-- Which entry and part a write leaves alone. -/
theorem State.reg_setReg_ne {k i k' i' : Nat} (v : Nat) (h : regKey k' i' ≠ regKey k i) :
    (s.setReg k i v).reg k' i' = s.reg k' i' := by
  simp only [State.reg, State.setReg_regs, Tbl.find_put_ne _ _ h, State.frozenDefault, State.setReg_sources]

theorem State.reg_setReg_key {k i k' i' : Nat} (v : Nat) (hk : k' ≠ k) (hi : i < 65536) (hi' : i' < 65536) :
    (s.setReg k i v).reg k' i' = s.reg k' i' :=
  State.reg_setReg_ne s v (fun h => hk ((regKey_inj hi' hi).mp h).1)

/-- A register's value rests on the registers and the sources alone. -/
theorem State.reg_congr {s t : State} (hr : t.regs = s.regs) (hs : t.sources = s.sources) (k i : Nat) : t.reg k i = s.reg k i := by
  simp only [State.reg, State.frozenDefault, hr, hs]

@[simp] theorem State.blob_setBlob_same (k i : Nat) (b : Bytes) : (s.setBlob k i b).blob k i = b := by simp [State.blob]

theorem State.blob_setBlob_ne {k i k' i' : Nat} (b : Bytes) (h : regKey k' i' ≠ regKey k i) :
    (s.setBlob k i b).blob k' i' = s.blob k' i' := by
  simp only [State.blob, State.setBlob_blobs, Tbl.get_put_ne _ _ _ h]

@[simp] theorem State.shadowVal_setShadow_same (k i : Nat) (v : Val) : (s.setShadow k i v).shadowVal k i = v := by
  simp [State.shadowVal]

@[simp] theorem State.ingot_setIngot_same (n : Nat) (x : Ingot) : (s.setIngot n x).ingot n = x := by simp [State.ingot]
@[simp] theorem State.group_setGroup_same (n : Nat) (x : Group) : (s.setGroup n x).group n = x := by simp [State.group]
@[simp] theorem State.slot_setSlot_same (n : Nat) (x : Slot) : (s.setSlot n x).slot n = x := by simp [State.slot]
@[simp] theorem State.output_setOutput_same (n : Nat) (x : Output) : (s.setOutput n x).output n = x := by simp [State.output]
@[simp] theorem State.engine_setEngine_same (n : Nat) (x : Engine) : (s.setEngine n x).engine n = x := by simp [State.engine]
@[simp] theorem State.ctx_setCtx_same (n : Nat) (x : Ctx) : (s.setCtx n x).ctx n = x := by simp [State.ctx]
@[simp] theorem State.pipe_setPipe_same (n : Nat) (x : Pipe) : (s.setPipe n x).pipe n = x := by simp [State.pipe]
@[simp] theorem State.camPort_setCamPort_same (n : Nat) (x : CamPort) : (s.setCamPort n x).camPort n = x := by simp [State.camPort]
@[simp] theorem State.lane_setLane_same (n : Nat) (x : Lane) : (s.setLane n x).lane n = x := by simp [State.lane]
@[simp] theorem State.port_setPort_same (n : Nat) (x : Port) : (s.setPort n x).port n = x := by simp [State.port]
@[simp] theorem State.chan_setChan_same (n : Nat) (x : Chan) : (s.setChan n x).chan n = x := by simp [State.chan]
@[simp] theorem State.key_setKey_same (n : Nat) (x : Key) : (s.setKey n x).key n = x := by simp [State.key]
@[simp] theorem State.scan_setScan_same (n : Nat) (x : Scan) : (s.setScan n x).scan n = x := by simp [State.scan]

end Machine
end Sys2Proof
end

