-- ==== Sys2Proof/Laws/Cells.lean ====
section
/-! SUPPORT. What memory holds stands through every operation that stores nothing: one lemma an operation. -/

namespace Sys2Proof.Machine

set_option Elab.async false
set_option linter.unusedTactic false
set_option linter.unreachableTactic false

@[simp] theorem State.cells_mk (log sent pins regs blobs shadow acc fuses nvA nvB ingots groups sources slots smith plan planSlot commits outputs engines sinks panels recover ctxs pipes camPorts lanes ports time fabric) (dram : Dram) (pair keys scans power fresh pending) :
    State.cells ⟨log, sent, pins, regs, blobs, shadow, acc, fuses, nvA, nvB, ingots, groups, sources, slots, smith, plan, planSlot, commits, outputs, engines, sinks, panels, recover, ctxs, pipes, camPorts, lanes, ports, time, fabric, dram, pair, keys, scans, power, fresh, pending⟩ = dram.mem := rfl
theorem State.mem_cells (s : State) : s.dram.mem = s.cells := rfl
theorem ite_cells {s₀ : State} {c : Prop} [Decidable c] {a b : State} (ha : a.cells = s₀.cells) (hb : b.cells = s₀.cells) :
    (if c then a else b).cells = s₀.cells := by split <;> assumption
theorem ite_cells1 {α : Type} {s₀ : State} {c : Prop} [Decidable c] {a b : State × α} (ha : a.1.cells = s₀.cells) (hb : b.1.cells = s₀.cells) :
    (if c then a else b).1.cells = s₀.cells := by split <;> assumption
theorem ite_cells2 {α : Type} {s₀ : State} {c : Prop} [Decidable c] {a b : α × State} (ha : a.2.cells = s₀.cells) (hb : b.2.cells = s₀.cells) :
    (if c then a else b).2.cells = s₀.cells := by split <;> assumption
theorem foldl_cells {α : Type} {s₀ t : State} {f : State → α → State} (hf : ∀ u a, u.cells = s₀.cells → (f u a).cells = s₀.cells)
    (xs : List α) (h : t.cells = s₀.cells) : (xs.foldl f t).cells = s₀.cells := by
  induction xs generalizing t with
  | nil => exact h
  | cons a xs ih => exact ih (hf t a h)
theorem foldl_cells1 {α β : Type} {s₀ : State} {p : State × β} {f : State × β → α → State × β}
    (hf : ∀ u a, u.1.cells = s₀.cells → (f u a).1.cells = s₀.cells) (xs : List α) (h : p.1.cells = s₀.cells) : (xs.foldl f p).1.cells = s₀.cells := by
  induction xs generalizing p with
  | nil => exact h
  | cons a xs ih => exact ih (hf p a h)
theorem foldl_cells2 {α β : Type} {s₀ : State} {p : β × State} {f : β × State → α → β × State}
    (hf : ∀ u a, u.2.cells = s₀.cells → (f u a).2.cells = s₀.cells) (xs : List α) (h : p.2.cells = s₀.cells) : (xs.foldl f p).2.cells = s₀.cells := by
  induction xs generalizing p with
  | nil => exact h
  | cons a xs ih => exact ih (hf p a h)
theorem State.setReg_cells_of {s₀ s : State} (hk : s.cells = s₀.cells) (key : Nat) (inst : Nat) (v : Nat) :
    (State.setReg s key inst v).cells = s₀.cells := by
  unfold State.setReg
  try dsimp only
  with_reducible
    repeat'
      first
      | assumption | intro u | apply ite_cells | apply ite_cells1 | apply ite_cells2 | apply foldl_cells
      | apply foldl_cells1 | apply foldl_cells2 | simp only [State.cells_mk, State.mem_cells] | split | dsimp only

theorem State.setRegI_cells_of {s₀ s : State} (hk : s.cells = s₀.cells) (key : Nat) (inst : Nat) (w : Nat) (z : Int) :
    (State.setRegI s key inst w z).cells = s₀.cells := by
  unfold State.setRegI
  try dsimp only
  with_reducible
    repeat'
      first
      | assumption | intro u | apply ite_cells | apply ite_cells1 | apply ite_cells2 | apply foldl_cells
      | apply foldl_cells1 | apply foldl_cells2 | apply State.setReg_cells_of
      | simp only [State.cells_mk, State.mem_cells] | split | dsimp only

theorem State.setFlag_cells_of {s₀ s : State} (hk : s.cells = s₀.cells) (key : Nat) (inst : Nat) (b : Bool) :
    (State.setFlag s key inst b).cells = s₀.cells := by
  unfold State.setFlag
  try dsimp only
  with_reducible
    repeat'
      first
      | assumption | intro u | apply ite_cells | apply ite_cells1 | apply ite_cells2 | apply foldl_cells
      | apply foldl_cells1 | apply foldl_cells2 | apply State.setReg_cells_of
      | simp only [State.cells_mk, State.mem_cells] | split | dsimp only

theorem State.bumpBy_cells_of {s₀ s : State} (hk : s.cells = s₀.cells) (key : Nat) (inst : Nat) (n : Nat) :
    (State.bumpBy s key inst n).cells = s₀.cells := by
  unfold State.bumpBy
  try dsimp only
  with_reducible
    repeat'
      first
      | assumption | intro u | apply ite_cells | apply ite_cells1 | apply ite_cells2 | apply foldl_cells
      | apply foldl_cells1 | apply foldl_cells2 | apply State.setReg_cells_of
      | simp only [State.cells_mk, State.mem_cells] | split | dsimp only

theorem State.bump_cells_of {s₀ s : State} (hk : s.cells = s₀.cells) (key : Nat) (inst : Nat) :
    (State.bump s key inst).cells = s₀.cells := by
  unfold State.bump
  try dsimp only
  with_reducible
    repeat'
      first
      | assumption | intro u | apply ite_cells | apply ite_cells1 | apply ite_cells2 | apply foldl_cells
      | apply foldl_cells1 | apply foldl_cells2 | apply State.bumpBy_cells_of
      | simp only [State.cells_mk, State.mem_cells] | split | dsimp only

theorem State.setBlob_cells_of {s₀ s : State} (hk : s.cells = s₀.cells) (key : Nat) (inst : Nat) (b : Bytes) :
    (State.setBlob s key inst b).cells = s₀.cells := by
  unfold State.setBlob
  try dsimp only
  with_reducible
    repeat'
      first
      | assumption | intro u | apply ite_cells | apply ite_cells1 | apply ite_cells2 | apply foldl_cells
      | apply foldl_cells1 | apply foldl_cells2 | simp only [State.cells_mk, State.mem_cells] | split | dsimp only

theorem State.setActive_cells_of {s₀ s : State} (hk : s.cells = s₀.cells) (key : Nat) (inst : Nat) (x0 : Val) :
    (State.setActive s key inst x0).cells = s₀.cells := by
  unfold State.setActive
  try dsimp only
  with_reducible
    repeat'
      first
      | assumption | intro u | apply ite_cells | apply ite_cells1 | apply ite_cells2 | apply foldl_cells
      | apply foldl_cells1 | apply foldl_cells2 | apply State.setReg_cells_of | apply State.setBlob_cells_of
      | simp only [State.cells_mk, State.mem_cells] | split | dsimp only

theorem State.setShadow_cells_of {s₀ s : State} (hk : s.cells = s₀.cells) (key : Nat) (inst : Nat) (v : Val) :
    (State.setShadow s key inst v).cells = s₀.cells := by
  unfold State.setShadow
  try dsimp only
  with_reducible
    repeat'
      first
      | assumption | intro u | apply ite_cells | apply ite_cells1 | apply ite_cells2 | apply foldl_cells
      | apply foldl_cells1 | apply foldl_cells2 | simp only [State.cells_mk, State.mem_cells] | split | dsimp only

theorem State.setIngot_cells_of {s₀ s : State} (hk : s.cells = s₀.cells) (n : Nat) (g : Ingot) :
    (State.setIngot s n g).cells = s₀.cells := by
  unfold State.setIngot
  try dsimp only
  with_reducible
    repeat'
      first
      | assumption | intro u | apply ite_cells | apply ite_cells1 | apply ite_cells2 | apply foldl_cells
      | apply foldl_cells1 | apply foldl_cells2 | apply State.setGroup_cells_of | apply State.setSlot_cells_of
      | apply State.setOutput_cells_of | apply State.setEngine_cells_of | apply State.setCtx_cells_of
      | apply State.setPipe_cells_of | apply State.setCamPort_cells_of | apply State.setLane_cells_of
      | apply State.setPort_cells_of | apply State.setChan_cells_of | apply State.setKey_cells_of
      | apply State.setScan_cells_of | simp only [State.cells_mk, State.mem_cells] | split | dsimp only

theorem State.setGroup_cells_of {s₀ s : State} (hk : s.cells = s₀.cells) (n : Nat) (g : Group) :
    (State.setGroup s n g).cells = s₀.cells := by
  unfold State.setGroup
  try dsimp only
  with_reducible
    repeat'
      first
      | assumption | intro u | apply ite_cells | apply ite_cells1 | apply ite_cells2 | apply foldl_cells
      | apply foldl_cells1 | apply foldl_cells2 | apply State.setSlot_cells_of | apply State.setOutput_cells_of
      | apply State.setEngine_cells_of | apply State.setCtx_cells_of | apply State.setPipe_cells_of
      | apply State.setCamPort_cells_of | apply State.setLane_cells_of | apply State.setPort_cells_of
      | apply State.setChan_cells_of | apply State.setKey_cells_of | apply State.setScan_cells_of
      | simp only [State.cells_mk, State.mem_cells] | split | dsimp only

theorem State.setSlot_cells_of {s₀ s : State} (hk : s.cells = s₀.cells) (n : Nat) (g : Slot) :
    (State.setSlot s n g).cells = s₀.cells := by
  unfold State.setSlot
  try dsimp only
  with_reducible
    repeat'
      first
      | assumption | intro u | apply ite_cells | apply ite_cells1 | apply ite_cells2 | apply foldl_cells
      | apply foldl_cells1 | apply foldl_cells2 | apply State.setOutput_cells_of | apply State.setEngine_cells_of
      | apply State.setCtx_cells_of | apply State.setPipe_cells_of | apply State.setCamPort_cells_of
      | apply State.setLane_cells_of | apply State.setPort_cells_of | apply State.setChan_cells_of
      | apply State.setKey_cells_of | apply State.setScan_cells_of | simp only [State.cells_mk, State.mem_cells]
      | split | dsimp only

theorem State.setOutput_cells_of {s₀ s : State} (hk : s.cells = s₀.cells) (n : Nat) (o : Output) :
    (State.setOutput s n o).cells = s₀.cells := by
  unfold State.setOutput
  try dsimp only
  with_reducible
    repeat'
      first
      | assumption | intro u | apply ite_cells | apply ite_cells1 | apply ite_cells2 | apply foldl_cells
      | apply foldl_cells1 | apply foldl_cells2 | apply State.setEngine_cells_of | apply State.setCtx_cells_of
      | apply State.setPipe_cells_of | apply State.setCamPort_cells_of | apply State.setLane_cells_of
      | apply State.setPort_cells_of | apply State.setChan_cells_of | apply State.setKey_cells_of
      | apply State.setScan_cells_of | simp only [State.cells_mk, State.mem_cells] | split | dsimp only

theorem State.setEngine_cells_of {s₀ s : State} (hk : s.cells = s₀.cells) (n : Nat) (e : Engine) :
    (State.setEngine s n e).cells = s₀.cells := by
  unfold State.setEngine
  try dsimp only
  with_reducible
    repeat'
      first
      | assumption | intro u | apply ite_cells | apply ite_cells1 | apply ite_cells2 | apply foldl_cells
      | apply foldl_cells1 | apply foldl_cells2 | apply State.setCtx_cells_of | apply State.setPipe_cells_of
      | apply State.setCamPort_cells_of | apply State.setLane_cells_of | apply State.setPort_cells_of
      | apply State.setChan_cells_of | apply State.setKey_cells_of | apply State.setScan_cells_of
      | simp only [State.cells_mk, State.mem_cells] | split | dsimp only

theorem State.setCtx_cells_of {s₀ s : State} (hk : s.cells = s₀.cells) (n : Nat) (c : Ctx) :
    (State.setCtx s n c).cells = s₀.cells := by
  unfold State.setCtx
  try dsimp only
  with_reducible
    repeat'
      first
      | assumption | intro u | apply ite_cells | apply ite_cells1 | apply ite_cells2 | apply foldl_cells
      | apply foldl_cells1 | apply foldl_cells2 | apply State.setPipe_cells_of | apply State.setCamPort_cells_of
      | apply State.setLane_cells_of | apply State.setPort_cells_of | apply State.setChan_cells_of
      | apply State.setKey_cells_of | apply State.setScan_cells_of | simp only [State.cells_mk, State.mem_cells]
      | split | dsimp only

theorem State.setPipe_cells_of {s₀ s : State} (hk : s.cells = s₀.cells) (n : Nat) (p : Pipe) :
    (State.setPipe s n p).cells = s₀.cells := by
  unfold State.setPipe
  try dsimp only
  with_reducible
    repeat'
      first
      | assumption | intro u | apply ite_cells | apply ite_cells1 | apply ite_cells2 | apply foldl_cells
      | apply foldl_cells1 | apply foldl_cells2 | apply State.setCamPort_cells_of | apply State.setLane_cells_of
      | apply State.setPort_cells_of | apply State.setChan_cells_of | apply State.setKey_cells_of
      | apply State.setScan_cells_of | simp only [State.cells_mk, State.mem_cells] | split | dsimp only

theorem State.setCamPort_cells_of {s₀ s : State} (hk : s.cells = s₀.cells) (n : Nat) (p : CamPort) :
    (State.setCamPort s n p).cells = s₀.cells := by
  unfold State.setCamPort
  try dsimp only
  with_reducible
    repeat'
      first
      | assumption | intro u | apply ite_cells | apply ite_cells1 | apply ite_cells2 | apply foldl_cells
      | apply foldl_cells1 | apply foldl_cells2 | apply State.setLane_cells_of | apply State.setPort_cells_of
      | apply State.setChan_cells_of | apply State.setKey_cells_of | apply State.setScan_cells_of
      | simp only [State.cells_mk, State.mem_cells] | split | dsimp only

theorem State.setLane_cells_of {s₀ s : State} (hk : s.cells = s₀.cells) (n : Nat) (l : Lane) :
    (State.setLane s n l).cells = s₀.cells := by
  unfold State.setLane
  try dsimp only
  with_reducible
    repeat'
      first
      | assumption | intro u | apply ite_cells | apply ite_cells1 | apply ite_cells2 | apply foldl_cells
      | apply foldl_cells1 | apply foldl_cells2 | apply State.setPort_cells_of | apply State.setChan_cells_of
      | apply State.setKey_cells_of | apply State.setScan_cells_of | simp only [State.cells_mk, State.mem_cells]
      | split | dsimp only

theorem State.setPort_cells_of {s₀ s : State} (hk : s.cells = s₀.cells) (n : Nat) (p : Port) :
    (State.setPort s n p).cells = s₀.cells := by
  unfold State.setPort
  try dsimp only
  with_reducible
    repeat'
      first
      | assumption | intro u | apply ite_cells | apply ite_cells1 | apply ite_cells2 | apply foldl_cells
      | apply foldl_cells1 | apply foldl_cells2 | apply State.setChan_cells_of | apply State.setKey_cells_of
      | apply State.setScan_cells_of | simp only [State.cells_mk, State.mem_cells] | split | dsimp only

theorem State.setChan_cells_of {s₀ s : State} (hk : s.cells = s₀.cells) (n : Nat) (c : Chan) :
    (State.setChan s n c).cells = s₀.cells := by
  unfold State.setChan
  try dsimp only
  with_reducible
    repeat'
      first
      | assumption | intro u | apply ite_cells | apply ite_cells1 | apply ite_cells2 | apply foldl_cells
      | apply foldl_cells1 | apply foldl_cells2 | apply State.setKey_cells_of | apply State.setScan_cells_of
      | simp only [State.cells_mk, State.mem_cells] | split | dsimp only

theorem State.setKey_cells_of {s₀ s : State} (hk : s.cells = s₀.cells) (n : Nat) (k : Key) :
    (State.setKey s n k).cells = s₀.cells := by
  unfold State.setKey
  try dsimp only
  with_reducible
    repeat'
      first
      | assumption | intro u | apply ite_cells | apply ite_cells1 | apply ite_cells2 | apply foldl_cells
      | apply foldl_cells1 | apply foldl_cells2 | apply State.setScan_cells_of
      | simp only [State.cells_mk, State.mem_cells] | split | dsimp only

theorem State.setScan_cells_of {s₀ s : State} (hk : s.cells = s₀.cells) (n : Nat) (c : Scan) :
    (State.setScan s n c).cells = s₀.cells := by
  unfold State.setScan
  try dsimp only
  with_reducible
    repeat'
      first
      | assumption | intro u | apply ite_cells | apply ite_cells1 | apply ite_cells2 | apply foldl_cells
      | apply foldl_cells1 | apply foldl_cells2 | simp only [State.cells_mk, State.mem_cells] | split | dsimp only

theorem State.draw_cells_of {s₀ s : State} (hk : s.cells = s₀.cells)  :
    (State.draw s).2.cells = s₀.cells := by
  unfold State.draw
  try dsimp only
  with_reducible
    repeat'
      first
      | assumption | intro u | apply ite_cells | apply ite_cells1 | apply ite_cells2 | apply foldl_cells
      | apply foldl_cells1 | apply foldl_cells2 | simp only [State.cells_mk, State.mem_cells] | split | dsimp only

theorem State.drawBytes_cells_of {s₀ s : State} (h : s.cells = s₀.cells) (n : Nat) : (State.drawBytes s n).2.cells = s₀.cells := by
  induction n generalizing s with
  | zero => exact h
  | succ n ih => exact ih (State.draw_cells_of h)

theorem State.send_cells_of {s₀ s : State} (hk : s.cells = s₀.cells) (x : Sent) :
    (State.send s x).cells = s₀.cells := by
  unfold State.send
  try dsimp only
  with_reducible
    repeat'
      first
      | assumption | intro u | apply ite_cells | apply ite_cells1 | apply ite_cells2 | apply foldl_cells
      | apply foldl_cells1 | apply foldl_cells2 | simp only [State.cells_mk, State.mem_cells] | split | dsimp only

theorem State.reply_cells_of {s₀ s : State} (hk : s.cells = s₀.cells) (ss : Nat) (r : Reply) :
    (State.reply s ss r).cells = s₀.cells := by
  unfold State.reply
  try dsimp only
  with_reducible
    repeat'
      first
      | assumption | intro u | apply ite_cells | apply ite_cells1 | apply ite_cells2 | apply foldl_cells
      | apply foldl_cells1 | apply foldl_cells2 | apply State.send_cells_of
      | simp only [State.cells_mk, State.mem_cells] | split | dsimp only

theorem State.raiseLog_cells_of {s₀ s : State} (hk : s.cells = s₀.cells)  :
    (State.raiseLog s).cells = s₀.cells := by
  unfold State.raiseLog
  try dsimp only
  with_reducible
    repeat'
      first
      | assumption | intro u | apply ite_cells | apply ite_cells1 | apply ite_cells2 | apply foldl_cells
      | apply foldl_cells1 | apply foldl_cells2 | apply State.send_cells_of
      | simp only [State.cells_mk, State.mem_cells] | split | dsimp only

theorem State.recordAt_cells_of {s₀ s : State} (hk : s.cells = s₀.cells) (time : Nat) (event : Nat) (code : Option Code) (inst : Nat) (detail : Int) (fw : Bool) (suppressed : Nat) :
    (State.recordAt s time event code inst detail fw suppressed).cells = s₀.cells := by
  unfold State.recordAt
  try dsimp only
  with_reducible
    repeat'
      first
      | assumption | intro u | apply ite_cells | apply ite_cells1 | apply ite_cells2 | apply foldl_cells
      | apply foldl_cells1 | apply foldl_cells2 | apply State.raiseLog_cells_of
      | simp only [State.cells_mk, State.mem_cells] | split | dsimp only

theorem State.record_cells_of {s₀ s : State} (hk : s.cells = s₀.cells) (event : Nat) (code : Option Code) (inst : Nat) (detail : Int) (fw : Bool) :
    (State.record s event code inst detail fw).cells = s₀.cells := by
  unfold State.record
  try dsimp only
  with_reducible
    repeat'
      first
      | assumption | intro u | apply ite_cells | apply ite_cells1 | apply ite_cells2 | apply foldl_cells
      | apply foldl_cells1 | apply foldl_cells2 | apply State.recordAt_cells_of
      | simp only [State.cells_mk, State.mem_cells] | split | dsimp only

theorem State.recordEvery_cells_of {s₀ s : State} (hk : s.cells = s₀.cells) (clock : Nat) (every : Nat) (perCode : Bool) (event : Nat) (code : Option Code) (inst : Nat) (detail : Int) (fw : Bool) :
    (State.recordEvery s clock every perCode event code inst detail fw).cells = s₀.cells := by
  unfold State.recordEvery
  try dsimp only
  with_reducible
    repeat'
      first
      | assumption | intro u | apply ite_cells | apply ite_cells1 | apply ite_cells2 | apply foldl_cells
      | apply foldl_cells1 | apply foldl_cells2 | apply State.recordAt_cells_of
      | simp only [State.cells_mk, State.mem_cells] | split | dsimp only

theorem State.recordLimited_cells_of {s₀ s : State} (hk : s.cells = s₀.cells) (every : Nat) (event : Nat) (code : Option Code) (inst : Nat) (detail : Int) (fw : Bool) :
    (State.recordLimited s every event code inst detail fw).cells = s₀.cells := by
  unfold State.recordLimited
  try dsimp only
  with_reducible
    repeat'
      first
      | assumption | intro u | apply ite_cells | apply ite_cells1 | apply ite_cells2 | apply foldl_cells
      | apply foldl_cells1 | apply foldl_cells2 | apply State.recordEvery_cells_of
      | simp only [State.cells_mk, State.mem_cells] | split | dsimp only

theorem State.recordDevice_cells_of {s₀ s : State} (hk : s.cells = s₀.cells) (every : Nat) (event : Nat) (code : Option Code) (inst : Nat) (detail : Int) :
    (State.recordDevice s every event code inst detail).cells = s₀.cells := by
  unfold State.recordDevice
  try dsimp only
  with_reducible
    repeat'
      first
      | assumption | intro u | apply ite_cells | apply ite_cells1 | apply ite_cells2 | apply foldl_cells
      | apply foldl_cells1 | apply foldl_cells2 | apply State.recordLimited_cells_of
      | simp only [State.cells_mk, State.mem_cells] | split | dsimp only

theorem State.setReady_cells_of {s₀ s : State} (hk : s.cells = s₀.cells) (bit : Nat) :
    (State.setReady s bit).cells = s₀.cells := by
  unfold State.setReady
  try dsimp only
  with_reducible
    repeat'
      first
      | assumption | intro u | apply ite_cells | apply ite_cells1 | apply ite_cells2 | apply foldl_cells
      | apply foldl_cells1 | apply foldl_cells2 | apply State.setReg_cells_of | apply State.record_cells_of
      | simp only [State.cells_mk, State.mem_cells] | split | dsimp only

theorem State.setFailed_cells_of {s₀ s : State} (hk : s.cells = s₀.cells) (bit : Nat) (c : Option Code) :
    (State.setFailed s bit c).cells = s₀.cells := by
  unfold State.setFailed
  try dsimp only
  with_reducible
    repeat'
      first
      | assumption | intro u | apply ite_cells | apply ite_cells1 | apply ite_cells2 | apply foldl_cells
      | apply foldl_cells1 | apply foldl_cells2 | apply State.setReg_cells_of | apply State.record_cells_of
      | simp only [State.cells_mk, State.mem_cells] | split | dsimp only

theorem State.setSession_cells_of {s₀ s : State} (hk : s.cells = s₀.cells) (x : Session) :
    (State.setSession s x).cells = s₀.cells := by
  unfold State.setSession
  try dsimp only
  with_reducible
    repeat'
      first
      | assumption | intro u | apply ite_cells | apply ite_cells1 | apply ite_cells2 | apply foldl_cells
      | apply foldl_cells1 | apply foldl_cells2 | simp only [State.cells_mk, State.mem_cells] | split | dsimp only

theorem State.noteRefusal_cells_of {s₀ s : State} (hk : s.cells = s₀.cells) (who : Nat) (key : Nat) (c : Code) :
    (State.noteRefusal s who key c).cells = s₀.cells := by
  unfold State.noteRefusal
  try dsimp only
  with_reducible
    repeat'
      first
      | assumption | intro u | apply ite_cells | apply ite_cells1 | apply ite_cells2 | apply foldl_cells
      | apply foldl_cells1 | apply foldl_cells2 | apply State.recordLimited_cells_of
      | simp only [State.cells_mk, State.mem_cells] | split | dsimp only

theorem State.touch_cells_of {s₀ s : State} (hk : s.cells = s₀.cells) (x : Session) :
    (State.touch s x).cells = s₀.cells := by
  unfold State.touch
  try dsimp only
  with_reducible
    repeat'
      first
      | assumption | intro u | apply ite_cells | apply ite_cells1 | apply ite_cells2 | apply foldl_cells
      | apply foldl_cells1 | apply foldl_cells2 | apply State.setSession_cells_of
      | simp only [State.cells_mk, State.mem_cells] | split | dsimp only

theorem State.tryWrite_cells_of {s₀ s : State} (hk : s.cells = s₀.cells) (ss : Nat) (key : Nat) (v : Val) (op : WriteOp) (hop : ∀ (u : State) ss i v, u.cells = s₀.cells → (op u ss i v).1.cells = s₀.cells) :
    (State.tryWrite s ss key v op).1.cells = s₀.cells := by
  unfold State.tryWrite
  try dsimp only
  with_reducible
    repeat'
      first
      | assumption | intro u | apply ite_cells | apply ite_cells1 | apply ite_cells2 | apply foldl_cells
      | apply foldl_cells1 | apply foldl_cells2 | apply hop | apply State.touch_cells_of
      | apply State.noteRefusal_cells_of | simp only [State.cells_mk, State.mem_cells] | split | dsimp only

theorem State.ledgerWrite_cells_of {s₀ s : State} (hk : s.cells = s₀.cells) (ss : Nat) (key : Nat) (v : Val) (op : WriteOp) (hop : ∀ (u : State) ss i v, u.cells = s₀.cells → (op u ss i v).1.cells = s₀.cells) :
    (State.ledgerWrite s ss key v op).cells = s₀.cells := by
  unfold State.ledgerWrite
  try dsimp only
  with_reducible
    repeat'
      first
      | assumption | intro u | apply ite_cells | apply ite_cells1 | apply ite_cells2 | apply foldl_cells
      | apply foldl_cells1 | apply foldl_cells2 | apply hop | apply State.tryWrite_cells_of
      | apply State.reply_cells_of | simp only [State.cells_mk, State.mem_cells] | split | dsimp only

theorem writeActive_cells_of {s₀ s : State} (hk : s.cells = s₀.cells) (key : Nat) (ss i : Nat) (v : Val) :
    (writeActive key s ss i v).1.cells = s₀.cells := by
  unfold writeActive
  try dsimp only
  with_reducible
    repeat'
      first
      | assumption | intro u | apply ite_cells | apply ite_cells1 | apply ite_cells2 | apply foldl_cells
      | apply foldl_cells1 | apply foldl_cells2 | apply State.setActive_cells_of
      | simp only [State.cells_mk, State.mem_cells] | split | dsimp only

theorem writeShadow_cells_of {s₀ s : State} (hk : s.cells = s₀.cells) (key : Nat) (ss i : Nat) (v : Val) :
    (writeShadow key s ss i v).1.cells = s₀.cells := by
  unfold writeShadow
  try dsimp only
  with_reducible
    repeat'
      first
      | assumption | intro u | apply ite_cells | apply ite_cells1 | apply ite_cells2 | apply foldl_cells
      | apply foldl_cells1 | apply foldl_cells2 | apply State.setShadow_cells_of
      | simp only [State.cells_mk, State.mem_cells] | split | dsimp only

theorem writeField_cells_of {s₀ s : State} (hk : s.cells = s₀.cells) (key : Nat) (ss i : Nat) (v : Val) :
    (writeField key s ss i v).1.cells = s₀.cells := by
  unfold writeField
  try dsimp only
  with_reducible
    repeat'
      first
      | assumption | intro u | apply ite_cells | apply ite_cells1 | apply ite_cells2 | apply foldl_cells
      | apply foldl_cells1 | apply foldl_cells2 | apply State.setSession_cells_of
      | simp only [State.cells_mk, State.mem_cells] | split | dsimp only

theorem writePlain_cells_of {s₀ s : State} (hk : s.cells = s₀.cells) (key : Nat) (ss i : Nat) (v : Val) :
    (writePlain key s ss i v).1.cells = s₀.cells := by
  unfold writePlain
  try dsimp only
  with_reducible
    repeat'
      first
      | assumption | intro u | apply ite_cells | apply ite_cells1 | apply ite_cells2 | apply foldl_cells
      | apply foldl_cells1 | apply foldl_cells2 | apply writeField_cells_of | apply writeShadow_cells_of
      | apply writeActive_cells_of | simp only [State.cells_mk, State.mem_cells] | split | dsimp only

theorem State.correctPhase_cells_of {s₀ s : State} (hk : s.cells = s₀.cells) (o : Nat) :
    (State.correctPhase s o).cells = s₀.cells := by
  unfold State.correctPhase
  try dsimp only
  with_reducible
    repeat'
      first
      | assumption | intro u | apply ite_cells | apply ite_cells1 | apply ite_cells2 | apply foldl_cells
      | apply foldl_cells1 | apply foldl_cells2 | apply State.setOutput_cells_of
      | simp only [State.cells_mk, State.mem_cells] | split | dsimp only

theorem State.rephase_cells_of {s₀ s : State} (hk : s.cells = s₀.cells) (o : Nat) (ns : Int) :
    (State.rephase s o ns).cells = s₀.cells := by
  unfold State.rephase
  try dsimp only
  with_reducible
    repeat'
      first
      | assumption | intro u | apply ite_cells | apply ite_cells1 | apply ite_cells2 | apply foldl_cells
      | apply foldl_cells1 | apply foldl_cells2 | apply State.setOutput_cells_of
      | apply State.correctPhase_cells_of | apply State.record_cells_of
      | simp only [State.cells_mk, State.mem_cells] | split | dsimp only

theorem State.changeRate_cells_of {s₀ s : State} (hk : s.cells = s₀.cells) (v : Nat) :
    (State.changeRate s v).cells = s₀.cells := by
  unfold State.changeRate
  try dsimp only
  with_reducible
    repeat'
      first
      | assumption | intro u | apply ite_cells | apply ite_cells1 | apply ite_cells2 | apply foldl_cells
      | apply foldl_cells1 | apply foldl_cells2 | apply State.setReg_cells_of | apply State.setRegI_cells_of
      | simp only [State.cells_mk, State.mem_cells] | split | dsimp only

theorem State.stepTime_cells_of {s₀ s : State} (hk : s.cells = s₀.cells) (size : Int) :
    (State.stepTime s size).cells = s₀.cells := by
  unfold State.stepTime
  try dsimp only
  with_reducible
    repeat'
      first
      | assumption | intro u | apply ite_cells | apply ite_cells1 | apply ite_cells2 | apply foldl_cells
      | apply foldl_cells1 | apply foldl_cells2 | apply State.setRegI_cells_of | apply State.bump_cells_of
      | apply State.record_cells_of | apply State.setReg_cells_of | apply State.rephase_cells_of
      | simp only [State.cells_mk, State.mem_cells] | split | dsimp only

theorem State.sweepEra_cells_of {s₀ s : State} (hk : s.cells = s₀.cells) (era : Nat) :
    (State.sweepEra s era).cells = s₀.cells := by
  unfold State.sweepEra
  try dsimp only
  with_reducible
    repeat'
      first
      | assumption | intro u | apply ite_cells | apply ite_cells1 | apply ite_cells2 | apply foldl_cells
      | apply foldl_cells1 | apply foldl_cells2 | simp only [State.cells_mk, State.mem_cells] | split | dsimp only

theorem State.meanRate_cells_of {s₀ s : State} (h : s.cells = s₀.cells) : (State.meanRate s).2.cells = s₀.cells := by
  unfold State.meanRate
  exact ite_cells2 h (ite_cells2 h (State.draw_cells_of h))

theorem State.keepHoldover_cells_of {s₀ s : State} (hk : s.cells = s₀.cells) (eff : Nat) (entered : Bool) :
    (State.keepHoldover s eff entered).cells = s₀.cells := by
  unfold State.keepHoldover
  try dsimp only
  with_reducible
    repeat'
      first
      | assumption | intro u | apply ite_cells | apply ite_cells1 | apply ite_cells2 | apply foldl_cells
      | apply foldl_cells1 | apply foldl_cells2 | simp only [State.cells_mk, State.mem_cells] | split | dsimp only

theorem State.settleTime_cells_of {s₀ s0 : State} (hk : s0.cells = s₀.cells) (c : Code) (entered : Bool) :
    (State.settleTime s0 c entered).cells = s₀.cells := by
  unfold State.settleTime
  try dsimp only
  with_reducible
    repeat'
      first
      | assumption | intro u | apply ite_cells | apply ite_cells1 | apply ite_cells2 | apply foldl_cells
      | apply foldl_cells1 | apply foldl_cells2 | apply State.keepHoldover_cells_of | apply State.setReg_cells_of
      | apply State.meanRate_cells_of | apply State.changeRate_cells_of | apply State.record_cells_of
      | apply State.setReady_cells_of | simp only [State.cells_mk, State.mem_cells] | split | dsimp only

theorem State.setOwn_cells_of {s₀ s : State} (hk : s.cells = s₀.cells) (own : Nat) (c : Code) :
    (State.setOwn s own c).cells = s₀.cells := by
  unfold State.setOwn
  try dsimp only
  with_reducible
    repeat'
      first
      | assumption | intro u | apply ite_cells | apply ite_cells1 | apply ite_cells2 | apply foldl_cells
      | apply foldl_cells1 | apply foldl_cells2 | apply State.settleTime_cells_of
      | simp only [State.cells_mk, State.mem_cells] | split | dsimp only

theorem State.lockTime_cells_of {s₀ s : State} (hk : s.cells = s₀.cells)  :
    (State.lockTime s).cells = s₀.cells := by
  unfold State.lockTime
  try dsimp only
  with_reducible
    repeat'
      first
      | assumption | intro u | apply ite_cells | apply ite_cells1 | apply ite_cells2 | apply foldl_cells
      | apply foldl_cells1 | apply foldl_cells2 | apply State.setOwn_cells_of
      | simp only [State.cells_mk, State.mem_cells] | split | dsimp only

theorem State.loseTime_cells_of {s₀ s : State} (hk : s.cells = s₀.cells) (missed : Bool) :
    (State.loseTime s missed).cells = s₀.cells := by
  unfold State.loseTime
  try dsimp only
  with_reducible
    repeat'
      first
      | assumption | intro u | apply ite_cells | apply ite_cells1 | apply ite_cells2 | apply foldl_cells
      | apply foldl_cells1 | apply foldl_cells2 | apply State.setOwn_cells_of
      | simp only [State.cells_mk, State.mem_cells] | split | dsimp only

theorem State.expectExchange_cells_of {s₀ s : State} (hk : s.cells = s₀.cells) (p : Nat) :
    (State.expectExchange s p).cells = s₀.cells := by
  unfold State.expectExchange
  try dsimp only
  with_reducible
    repeat'
      first
      | assumption | intro u | apply ite_cells | apply ite_cells1 | apply ite_cells2 | apply foldl_cells
      | apply foldl_cells1 | apply foldl_cells2 | apply State.setPort_cells_of
      | simp only [State.cells_mk, State.mem_cells] | split | dsimp only

theorem State.followTimePort_cells_of {s₀ s : State} (hk : s.cells = s₀.cells)  :
    (State.followTimePort s).cells = s₀.cells := by
  unfold State.followTimePort
  try dsimp only
  with_reducible
    repeat'
      first
      | assumption | intro u | apply ite_cells | apply ite_cells1 | apply ite_cells2 | apply foldl_cells
      | apply foldl_cells1 | apply foldl_cells2 | apply State.setReg_cells_of | apply State.expectExchange_cells_of
      | apply State.record_cells_of | apply State.loseTime_cells_of | simp only [State.cells_mk, State.mem_cells]
      | split | dsimp only

theorem rateOp_cells_of {s₀ s : State} (hk : s.cells = s₀.cells)  (ss i : Nat) (v : Val) :
    (rateOp  s ss i v).1.cells = s₀.cells := by
  unfold rateOp
  try dsimp only
  with_reducible
    repeat'
      first
      | assumption | intro u | apply ite_cells | apply ite_cells1 | apply ite_cells2 | apply foldl_cells
      | apply foldl_cells1 | apply foldl_cells2 | apply State.changeRate_cells_of
      | simp only [State.cells_mk, State.mem_cells] | split | dsimp only

theorem offsetOp_cells_of {s₀ s : State} (hk : s.cells = s₀.cells)  (ss i : Nat) (v : Val) :
    (offsetOp  s ss i v).1.cells = s₀.cells := by
  unfold offsetOp
  try dsimp only
  with_reducible
    repeat'
      first
      | assumption | intro u | apply ite_cells | apply ite_cells1 | apply ite_cells2 | apply foldl_cells
      | apply foldl_cells1 | apply foldl_cells2 | apply State.stepTime_cells_of
      | simp only [State.cells_mk, State.mem_cells] | split | dsimp only

theorem stepOp_cells_of {s₀ s : State} (hk : s.cells = s₀.cells)  (ss i : Nat) (v : Val) :
    (stepOp  s ss i v).1.cells = s₀.cells := by
  unfold stepOp
  try dsimp only
  with_reducible
    repeat'
      first
      | assumption | intro u | apply ite_cells | apply ite_cells1 | apply ite_cells2 | apply foldl_cells
      | apply foldl_cells1 | apply foldl_cells2 | apply State.stepTime_cells_of
      | simp only [State.cells_mk, State.mem_cells] | split | dsimp only

theorem hostTimeStateOp_cells_of {s₀ s : State} (hk : s.cells = s₀.cells)  (ss i : Nat) (v : Val) :
    (hostTimeStateOp  s ss i v).1.cells = s₀.cells := by
  unfold hostTimeStateOp
  try dsimp only
  with_reducible
    repeat'
      first
      | assumption | intro u | apply ite_cells | apply ite_cells1 | apply ite_cells2 | apply foldl_cells
      | apply foldl_cells1 | apply foldl_cells2 | apply State.lockTime_cells_of | apply State.loseTime_cells_of
      | apply State.setOwn_cells_of | simp only [State.cells_mk, State.mem_cells] | split | dsimp only

theorem State.leaveSource_cells_of {s₀ s : State} (hk : s.cells = s₀.cells) (was : Nat) (source : Nat) :
    (State.leaveSource s was source).cells = s₀.cells := by
  unfold State.leaveSource
  try dsimp only
  with_reducible
    repeat'
      first
      | assumption | intro u | apply ite_cells | apply ite_cells1 | apply ite_cells2 | apply foldl_cells
      | apply foldl_cells1 | apply foldl_cells2 | apply State.setOwn_cells_of | apply State.loseTime_cells_of
      | apply State.settleTime_cells_of | simp only [State.cells_mk, State.mem_cells] | split | dsimp only

theorem timeSourceOp_cells_of {s₀ s : State} (hk : s.cells = s₀.cells)  (ss i : Nat) (v : Val) :
    (timeSourceOp  s ss i v).1.cells = s₀.cells := by
  unfold timeSourceOp
  try dsimp only
  with_reducible
    repeat'
      first
      | assumption | intro u | apply ite_cells | apply ite_cells1 | apply ite_cells2 | apply foldl_cells
      | apply foldl_cells1 | apply foldl_cells2 | apply State.setReg_cells_of | apply State.expectExchange_cells_of
      | apply State.record_cells_of | apply State.leaveSource_cells_of
      | simp only [State.cells_mk, State.mem_cells] | split | dsimp only

theorem State.servo_cells_of {s₀ s : State} (hk : s.cells = s₀.cells) (sample : Int) (steer : Int) :
    (State.servo s sample steer).cells = s₀.cells := by
  unfold State.servo
  try dsimp only
  with_reducible
    repeat'
      first
      | assumption | intro u | apply ite_cells | apply ite_cells1 | apply ite_cells2 | apply foldl_cells
      | apply foldl_cells1 | apply foldl_cells2 | apply State.setRegI_cells_of | apply State.stepTime_cells_of
      | apply State.changeRate_cells_of | apply State.lockTime_cells_of | apply State.loseTime_cells_of
      | simp only [State.cells_mk, State.mem_cells] | split | dsimp only

theorem State.selectMaster_cells_of {s₀ s : State} (hk : s.cells = s₀.cells)  :
    (State.selectMaster s).cells = s₀.cells := by
  unfold State.selectMaster
  try dsimp only
  with_reducible
    repeat'
      first
      | assumption | intro u | apply ite_cells | apply ite_cells1 | apply ite_cells2 | apply foldl_cells
      | apply foldl_cells1 | apply foldl_cells2 | apply State.setReg_cells_of | apply State.lockTime_cells_of
      | simp only [State.cells_mk, State.mem_cells] | split | dsimp only

theorem State.ptpDiscard_cells_of {s₀ s : State} (hk : s.cells = s₀.cells) (port : Nat) :
    (State.ptpDiscard s port).cells = s₀.cells := by
  unfold State.ptpDiscard
  try dsimp only
  with_reducible
    repeat'
      first
      | assumption | intro u | apply ite_cells | apply ite_cells1 | apply ite_cells2 | apply foldl_cells
      | apply foldl_cells1 | apply foldl_cells2 | apply State.bump_cells_of | apply State.recordDevice_cells_of
      | simp only [State.cells_mk, State.mem_cells] | split | dsimp only

theorem State.onPtp_cells_of {s₀ s : State} (hk : s.cells = s₀.cells) (port : Nat) (head : PtpHead) (f : State → State) (hf : ∀ u, u.cells = s₀.cells → (f u).cells = s₀.cells) :
    (State.onPtp s port head f).cells = s₀.cells := by
  unfold State.onPtp
  try dsimp only
  with_reducible
    repeat'
      first
      | assumption | intro u | apply ite_cells | apply ite_cells1 | apply ite_cells2 | apply foldl_cells
      | apply foldl_cells1 | apply foldl_cells2 | apply hf | apply State.ptpDiscard_cells_of
      | simp only [State.cells_mk, State.mem_cells] | split | dsimp only

theorem State.addSample_cells_of {s₀ s : State} (hk : s.cells = s₀.cells) (x : Int) :
    (State.addSample s x).cells = s₀.cells := by
  unfold State.addSample
  try dsimp only
  with_reducible
    repeat'
      first
      | assumption | intro u | apply ite_cells | apply ite_cells1 | apply ite_cells2 | apply foldl_cells
      | apply foldl_cells1 | apply foldl_cells2 | simp only [State.cells_mk, State.mem_cells] | split | dsimp only

theorem State.measureLink_cells_of {s₀ s : State} (hk : s.cells = s₀.cells) (port : Nat) (seq : Nat) :
    (State.measureLink s port seq).cells = s₀.cells := by
  unfold State.measureLink
  try dsimp only
  with_reducible
    repeat'
      first
      | assumption | intro u | apply ite_cells | apply ite_cells1 | apply ite_cells2 | apply foldl_cells
      | apply foldl_cells1 | apply foldl_cells2 | apply State.send_cells_of
      | simp only [State.cells_mk, State.mem_cells] | split | dsimp only

theorem State.syncComplete_cells_of {s₀ s : State} (hk : s.cells = s₀.cells) (port : Nat) (seq : Nat) (t1 : Int) (t2 : Int) :
    (State.syncComplete s port seq t1 t2).cells = s₀.cells := by
  unfold State.syncComplete
  try dsimp only
  with_reducible
    repeat'
      first
      | assumption | intro u | apply ite_cells | apply ite_cells1 | apply ite_cells2 | apply foldl_cells
      | apply foldl_cells1 | apply foldl_cells2 | apply State.send_cells_of | apply State.setRegI_cells_of
      | apply State.addSample_cells_of | apply State.measureLink_cells_of
      | simp only [State.cells_mk, State.mem_cells] | split | dsimp only

theorem State.startEther_cells_of {s₀ s : State} (hk : s.cells = s₀.cells) (out : Nat) (f : EthFrame) :
    (State.startEther s out f).cells = s₀.cells := by
  unfold State.startEther
  try dsimp only
  with_reducible
    repeat'
      first
      | assumption | intro u | apply ite_cells | apply ite_cells1 | apply ite_cells2 | apply foldl_cells
      | apply foldl_cells1 | apply foldl_cells2 | apply State.setReg_cells_of | apply State.send_cells_of
      | simp only [State.cells_mk, State.mem_cells] | split | dsimp only

theorem State.drainEther_cells_of {s₀ s : State} (hk : s.cells = s₀.cells) (out : Nat) :
    (State.drainEther s out).cells = s₀.cells := by
  unfold State.drainEther
  try dsimp only
  with_reducible
    repeat'
      first
      | assumption | intro u | apply ite_cells | apply ite_cells1 | apply ite_cells2 | apply foldl_cells
      | apply foldl_cells1 | apply foldl_cells2 | apply State.startEther_cells_of
      | simp only [State.cells_mk, State.mem_cells] | split | dsimp only

theorem State.ptpMasterSend_cells_of {s₀ s : State} (hk : s.cells = s₀.cells) (kind : Nat) :
    (State.ptpMasterSend s kind).cells = s₀.cells := by
  unfold State.ptpMasterSend
  try dsimp only
  with_reducible
    repeat'
      first
      | assumption | intro u | apply ite_cells | apply ite_cells1 | apply ite_cells2 | apply foldl_cells
      | apply foldl_cells1 | apply foldl_cells2 | apply State.send_cells_of
      | simp only [State.cells_mk, State.mem_cells] | split | dsimp only

theorem State.pushSections_cells_of {s₀ s : State} (hk : s.cells = s₀.cells) (ks : List Nat) :
    (State.pushSections s ks).cells = s₀.cells := by
  unfold State.pushSections
  try dsimp only
  with_reducible
    repeat'
      first
      | assumption | intro u | apply ite_cells | apply ite_cells1 | apply ite_cells2 | apply foldl_cells
      | apply foldl_cells1 | apply foldl_cells2 | apply State.send_cells_of | apply State.setReg_cells_of
      | simp only [State.cells_mk, State.mem_cells] | split | dsimp only

theorem State.pushCommit_cells_of {s₀ s : State} (hk : s.cells = s₀.cells)  :
    (State.pushCommit s).cells = s₀.cells := by
  unfold State.pushCommit
  try dsimp only
  with_reducible
    repeat'
      first
      | assumption | intro u | apply ite_cells | apply ite_cells1 | apply ite_cells2 | apply foldl_cells
      | apply foldl_cells1 | apply foldl_cells2 | apply State.pushSections_cells_of
      | simp only [State.cells_mk, State.mem_cells] | split | dsimp only

theorem State.pushAll_cells_of {s₀ s : State} (hk : s.cells = s₀.cells)  :
    (State.pushAll s).cells = s₀.cells := by
  unfold State.pushAll
  try dsimp only
  with_reducible
    repeat'
      first
      | assumption | intro u | apply ite_cells | apply ite_cells1 | apply ite_cells2 | apply foldl_cells
      | apply foldl_cells1 | apply foldl_cells2 | apply State.pushSections_cells_of
      | simp only [State.cells_mk, State.mem_cells] | split | dsimp only

theorem State.setPairState_cells_of {s₀ s : State} (hk : s.cells = s₀.cells) (st : Nat) (c : Option Code) :
    (State.setPairState s st c).cells = s₀.cells := by
  unfold State.setPairState
  try dsimp only
  with_reducible
    repeat'
      first
      | assumption | intro u | apply ite_cells | apply ite_cells1 | apply ite_cells2 | apply foldl_cells
      | apply foldl_cells1 | apply foldl_cells2 | apply State.setReg_cells_of | apply State.record_cells_of
      | simp only [State.cells_mk, State.mem_cells] | split | dsimp only

theorem State.enterActive_cells_of {s₀ s : State} (hk : s.cells = s₀.cells) (c : Option Code) :
    (State.enterActive s c).cells = s₀.cells := by
  unfold State.enterActive
  try dsimp only
  with_reducible
    repeat'
      first
      | assumption | intro u | apply ite_cells | apply ite_cells1 | apply ite_cells2 | apply foldl_cells
      | apply foldl_cells1 | apply foldl_cells2 | apply State.setPairState_cells_of | apply State.pushAll_cells_of
      | simp only [State.cells_mk, State.mem_cells] | split | dsimp only

theorem State.settleTakeover_cells_of {s₀ s : State} (hk : s.cells = s₀.cells) (running : List Nat) :
    (State.settleTakeover s running).cells = s₀.cells := by
  unfold State.settleTakeover
  try dsimp only
  with_reducible
    repeat'
      first
      | assumption | intro u | apply ite_cells | apply ite_cells1 | apply ite_cells2 | apply foldl_cells
      | apply foldl_cells1 | apply foldl_cells2 | apply State.setReg_cells_of | apply State.record_cells_of
      | apply State.enterActive_cells_of | simp only [State.cells_mk, State.mem_cells] | split | dsimp only

theorem State.setTicket_cells_of {s₀ s : State} (hk : s.cells = s₀.cells) (t : Ticket) :
    (State.setTicket s t).cells = s₀.cells := by
  unfold State.setTicket
  try dsimp only
  with_reducible
    repeat'
      first
      | assumption | intro u | apply ite_cells | apply ite_cells1 | apply ite_cells2 | apply foldl_cells
      | apply foldl_cells1 | apply foldl_cells2 | simp only [State.cells_mk, State.mem_cells] | split | dsimp only

theorem State.addTicket_cells_of {s₀ s : State} (hk : s.cells = s₀.cells) (t : Ticket) :
    (State.addTicket s t).cells = s₀.cells := by
  unfold State.addTicket
  try dsimp only
  with_reducible
    repeat'
      first
      | assumption | intro u | apply ite_cells | apply ite_cells1 | apply ite_cells2 | apply foldl_cells
      | apply foldl_cells1 | apply foldl_cells2 | simp only [State.cells_mk, State.mem_cells] | split | dsimp only

theorem State.addOther_cells_of {s₀ s : State} (hk : s.cells = s₀.cells) (t : Ticket) :
    (State.addOther s t).cells = s₀.cells := by
  unfold State.addOther
  try dsimp only
  with_reducible
    repeat'
      first
      | assumption | intro u | apply ite_cells | apply ite_cells1 | apply ite_cells2 | apply foldl_cells
      | apply foldl_cells1 | apply foldl_cells2 | simp only [State.cells_mk, State.mem_cells] | split | dsimp only

theorem State.noteApplied_cells_of {s₀ s : State} (hk : s.cells = s₀.cells) (id : Nat) (wf : Nat) :
    (State.noteApplied s id wf).cells = s₀.cells := by
  unfold State.noteApplied
  try dsimp only
  with_reducible
    repeat'
      first
      | assumption | intro u | apply ite_cells | apply ite_cells1 | apply ite_cells2 | apply foldl_cells
      | apply foldl_cells1 | apply foldl_cells2 | apply State.setTicket_cells_of
      | simp only [State.cells_mk, State.mem_cells] | split | dsimp only

theorem State.finishTicket_cells_of {s₀ s : State} (hk : s.cells = s₀.cells) (p : Pending) :
    (State.finishTicket s p).cells = s₀.cells := by
  unfold State.finishTicket
  try dsimp only
  with_reducible
    repeat'
      first
      | assumption | intro u | apply ite_cells | apply ite_cells1 | apply ite_cells2 | apply foldl_cells
      | apply foldl_cells1 | apply foldl_cells2 | apply State.pushCommit_cells_of | apply State.setTicket_cells_of
      | apply State.record_cells_of | simp only [State.cells_mk, State.mem_cells] | split | dsimp only

theorem State.settleCommits_cells_of {s₀ s : State} (hk : s.cells = s₀.cells)  :
    (State.settleCommits s).cells = s₀.cells := by
  unfold State.settleCommits
  try dsimp only
  with_reducible
    repeat'
      first
      | assumption | intro u | apply ite_cells | apply ite_cells1 | apply ite_cells2 | apply foldl_cells
      | apply foldl_cells1 | apply foldl_cells2 | apply State.finishTicket_cells_of
      | simp only [State.cells_mk, State.mem_cells] | split | dsimp only

theorem State.applyField_cells_of {s₀ s : State} (hk : s.cells = s₀.cells) (f : Staged) :
    (State.applyField s f).cells = s₀.cells := by
  unfold State.applyField
  try dsimp only
  with_reducible
    repeat'
      first
      | assumption | intro u | apply ite_cells | apply ite_cells1 | apply ite_cells2 | apply foldl_cells
      | apply foldl_cells1 | apply foldl_cells2 | apply State.setActive_cells_of | apply State.setSlot_cells_of
      | simp only [State.cells_mk, State.mem_cells] | split | dsimp only

theorem State.holdFrozen_cells_of {s₀ s : State} (hk : s.cells = s₀.cells)  :
    (State.holdFrozen s).cells = s₀.cells := by
  unfold State.holdFrozen
  try dsimp only
  with_reducible
    repeat'
      first
      | assumption | intro u | apply ite_cells | apply ite_cells1 | apply ite_cells2 | apply foldl_cells
      | apply foldl_cells1 | apply foldl_cells2 | simp only [State.cells_mk, State.mem_cells] | split | dsimp only

theorem State.applyFields_cells_of {s₀ s : State} (hk : s.cells = s₀.cells) (fs : List Staged) :
    (State.applyFields s fs).cells = s₀.cells := by
  unfold State.applyFields
  try dsimp only
  with_reducible
    repeat'
      first
      | assumption | intro u | apply ite_cells | apply ite_cells1 | apply ite_cells2 | apply foldl_cells
      | apply foldl_cells1 | apply foldl_cells2 | apply State.applyField_cells_of | apply State.holdFrozen_cells_of
      | simp only [State.cells_mk, State.mem_cells] | split | dsimp only

theorem State.applyDue_cells_of {s₀ s : State} (hk : s.cells = s₀.cells) (due : Nat → Nat → Bool) :
    (State.applyDue s due).cells = s₀.cells := by
  unfold State.applyDue
  try dsimp only
  with_reducible
    repeat'
      first
      | assumption | intro u | apply ite_cells | apply ite_cells1 | apply ite_cells2 | apply foldl_cells
      | apply foldl_cells1 | apply foldl_cells2 | apply State.applyFields_cells_of
      | apply State.noteApplied_cells_of | apply State.settleCommits_cells_of
      | simp only [State.cells_mk, State.mem_cells] | split | dsimp only

theorem State.applyFrozen_cells_of {s₀ s : State} (hk : s.cells = s₀.cells) (slot : Nat) :
    (State.applyFrozen s slot).cells = s₀.cells := by
  unfold State.applyFrozen
  try dsimp only
  with_reducible
    repeat'
      first
      | assumption | intro u | apply ite_cells | apply ite_cells1 | apply ite_cells2 | apply foldl_cells
      | apply foldl_cells1 | apply foldl_cells2 | apply State.applyDue_cells_of
      | simp only [State.cells_mk, State.mem_cells] | split | dsimp only

theorem State.toFree_cells_of {s₀ s : State} (hk : s.cells = s₀.cells) (i : Nat) :
    (State.toFree s i).cells = s₀.cells := by
  unfold State.toFree
  try dsimp only
  with_reducible
    repeat'
      first
      | assumption | intro u | apply ite_cells | apply ite_cells1 | apply ite_cells2 | apply foldl_cells
      | apply foldl_cells1 | apply foldl_cells2 | apply State.setIngot_cells_of | apply State.setSlot_cells_of
      | simp only [State.cells_mk, State.mem_cells] | split | dsimp only

theorem State.outdate_cells_of {s₀ s : State} (hk : s.cells = s₀.cells) (i : Nat) :
    (State.outdate s i).cells = s₀.cells := by
  unfold State.outdate
  try dsimp only
  with_reducible
    repeat'
      first
      | assumption | intro u | apply ite_cells | apply ite_cells1 | apply ite_cells2 | apply foldl_cells
      | apply foldl_cells1 | apply foldl_cells2 | apply State.toFree_cells_of | apply State.setIngot_cells_of
      | simp only [State.cells_mk, State.mem_cells] | split | dsimp only

theorem State.abandon_cells_of {s₀ s : State} (hk : s.cells = s₀.cells) (i : Nat) :
    (State.abandon s i).cells = s₀.cells := by
  unfold State.abandon
  try dsimp only
  with_reducible
    repeat'
      first
      | assumption | intro u | apply ite_cells | apply ite_cells1 | apply ite_cells2 | apply foldl_cells
      | apply foldl_cells1 | apply foldl_cells2 | apply State.toFree_cells_of
      | simp only [State.cells_mk, State.mem_cells] | split | dsimp only

theorem State.takeRef_cells_of {s₀ s : State} (hk : s.cells = s₀.cells) (i : Nat) (reader : Nat) :
    (State.takeRef s i reader).cells = s₀.cells := by
  unfold State.takeRef
  try dsimp only
  with_reducible
    repeat'
      first
      | assumption | intro u | apply ite_cells | apply ite_cells1 | apply ite_cells2 | apply foldl_cells
      | apply foldl_cells1 | apply foldl_cells2 | apply State.setIngot_cells_of
      | simp only [State.cells_mk, State.mem_cells] | split | dsimp only

theorem State.dropRef_cells_of {s₀ s : State} (hk : s.cells = s₀.cells) (i : Nat) (reader : Nat) :
    (State.dropRef s i reader).cells = s₀.cells := by
  unfold State.dropRef
  try dsimp only
  with_reducible
    repeat'
      first
      | assumption | intro u | apply ite_cells | apply ite_cells1 | apply ite_cells2 | apply foldl_cells
      | apply foldl_cells1 | apply foldl_cells2 | apply State.setIngot_cells_of | apply State.toFree_cells_of
      | apply State.record_cells_of | simp only [State.cells_mk, State.mem_cells] | split | dsimp only

theorem State.pick_cells_of {s₀ s : State} (hk : s.cells = s₀.cells) (xs : List Nat) :
    (State.pick s xs).2.cells = s₀.cells := by
  unfold State.pick
  try dsimp only
  with_reducible
    repeat'
      first
      | assumption | intro u | apply ite_cells | apply ite_cells1 | apply ite_cells2 | apply foldl_cells
      | apply foldl_cells1 | apply foldl_cells2 | apply State.draw_cells_of
      | simp only [State.cells_mk, State.mem_cells] | split | dsimp only

theorem State.takeFree_cells_of {s₀ s : State} (hk : s.cells = s₀.cells) (slot : Nat) (f : Filler) :
    (State.takeFree s slot f).2.cells = s₀.cells := by
  unfold State.takeFree
  try dsimp only
  with_reducible
    repeat'
      first
      | assumption | intro u | apply ite_cells | apply ite_cells1 | apply ite_cells2 | apply foldl_cells
      | apply foldl_cells1 | apply foldl_cells2 | apply State.pick_cells_of | apply State.setIngot_cells_of
      | simp only [State.cells_mk, State.mem_cells] | split | dsimp only

theorem State.countFrom_cells_of {s₀ s : State} (hk : s.cells = s₀.cells) (i : Nat) :
    (State.countFrom s i).cells = s₀.cells := by
  unfold State.countFrom
  try dsimp only
  with_reducible
    repeat'
      first
      | assumption | intro u | apply ite_cells | apply ite_cells1 | apply ite_cells2 | apply foldl_cells
      | apply foldl_cells1 | apply foldl_cells2 | apply State.setIngot_cells_of
      | simp only [State.cells_mk, State.mem_cells] | split | dsimp only

theorem State.publish_cells_of {s₀ s : State} (hk : s.cells = s₀.cells) (i : Nat) :
    (State.publish s i).cells = s₀.cells := by
  unfold State.publish
  try dsimp only
  with_reducible
    repeat'
      first
      | assumption | intro u | apply ite_cells | apply ite_cells1 | apply ite_cells2 | apply foldl_cells
      | apply foldl_cells1 | apply foldl_cells2 | apply State.setIngot_cells_of | apply State.outdate_cells_of
      | apply State.setSlot_cells_of | simp only [State.cells_mk, State.mem_cells] | split | dsimp only

theorem State.dropIngot_cells_of {s₀ s : State} (hk : s.cells = s₀.cells) (i : Nat) :
    (State.dropIngot s i).cells = s₀.cells := by
  unfold State.dropIngot
  try dsimp only
  with_reducible
    repeat'
      first
      | assumption | intro u | apply ite_cells | apply ite_cells1 | apply ite_cells2 | apply foldl_cells
      | apply foldl_cells1 | apply foldl_cells2 | apply State.abandon_cells_of | apply State.toFree_cells_of
      | apply State.outdate_cells_of | simp only [State.cells_mk, State.mem_cells] | split | dsimp only

theorem State.retireSet_cells_of {s₀ s : State} (hk : s.cells = s₀.cells) (slot : Nat) (keep : List Nat) :
    (State.retireSet s slot keep).cells = s₀.cells := by
  unfold State.retireSet
  try dsimp only
  with_reducible
    repeat'
      first
      | assumption | intro u | apply ite_cells | apply ite_cells1 | apply ite_cells2 | apply foldl_cells
      | apply foldl_cells1 | apply foldl_cells2 | apply State.setSlot_cells_of | apply State.dropIngot_cells_of
      | simp only [State.cells_mk, State.mem_cells] | split | dsimp only

theorem State.bindIngots_cells_of {s₀ s : State} (h : s.cells = s₀.cells) (slot size : Nat) (is as : List Nat) :
    (State.bindIngots s slot size is as).cells = s₀.cells := by
  induction is generalizing s as with
  | nil => exact h
  | cons i is ih =>
    cases as with
    | nil => exact h
    | cons a as => exact ih (State.setIngot_cells_of h i _) as

theorem State.newSet_cells_of {s₀ s : State} (hk : s.cells = s₀.cells) (slot : Nat) (x : Source) (size : Nat) :
    (State.newSet s slot x size).cells = s₀.cells := by
  unfold State.newSet
  try dsimp only
  with_reducible
    repeat'
      first
      | assumption | intro u | apply ite_cells | apply ite_cells1 | apply ite_cells2 | apply foldl_cells
      | apply foldl_cells1 | apply foldl_cells2 | apply State.bindIngots_cells_of | apply State.setSlot_cells_of
      | simp only [State.cells_mk, State.mem_cells] | split | dsimp only

theorem acquireOp_cells_of {s₀ s : State} (hk : s.cells = s₀.cells)  (ss i : Nat) (v : Val) :
    (acquireOp  s ss i v).1.cells = s₀.cells := by
  unfold acquireOp
  try dsimp only
  with_reducible
    repeat'
      first
      | assumption | intro u | apply ite_cells | apply ite_cells1 | apply ite_cells2 | apply foldl_cells
      | apply foldl_cells1 | apply foldl_cells2 | apply State.takeFree_cells_of | apply State.setReg_cells_of
      | simp only [State.cells_mk, State.mem_cells] | split | dsimp only

theorem publishOp_cells_of {s₀ s : State} (hk : s.cells = s₀.cells)  (ss i : Nat) (v : Val) :
    (publishOp  s ss i v).1.cells = s₀.cells := by
  unfold publishOp
  try dsimp only
  with_reducible
    repeat'
      first
      | assumption | intro u | apply ite_cells | apply ite_cells1 | apply ite_cells2 | apply foldl_cells
      | apply foldl_cells1 | apply foldl_cells2 | apply State.setIngot_cells_of | apply State.setSlot_cells_of
      | apply State.setReg_cells_of | apply State.applyFrozen_cells_of | apply State.countFrom_cells_of
      | apply State.publish_cells_of | simp only [State.cells_mk, State.mem_cells] | split | dsimp only

theorem releaseOp_cells_of {s₀ s : State} (hk : s.cells = s₀.cells)  (ss i : Nat) (v : Val) :
    (releaseOp  s ss i v).1.cells = s₀.cells := by
  unfold releaseOp
  try dsimp only
  with_reducible
    repeat'
      first
      | assumption | intro u | apply ite_cells | apply ite_cells1 | apply ite_cells2 | apply foldl_cells
      | apply foldl_cells1 | apply foldl_cells2 | apply State.setSlot_cells_of | apply State.toFree_cells_of
      | apply State.setIngot_cells_of | simp only [State.cells_mk, State.mem_cells] | split | dsimp only

theorem State.dropMoved_cells_of {s₀ s : State} (hk : s.cells = s₀.cells) (was : State) :
    (State.dropMoved s was).cells = s₀.cells := by
  unfold State.dropMoved
  try dsimp only
  with_reducible
    repeat'
      first
      | assumption | intro u | apply ite_cells | apply ite_cells1 | apply ite_cells2 | apply foldl_cells
      | apply foldl_cells1 | apply foldl_cells2 | apply State.setOutput_cells_of
      | simp only [State.cells_mk, State.mem_cells] | split | dsimp only

theorem State.moveHolds_cells_of {s₀ s : State} (hk : s.cells = s₀.cells)  :
    (State.moveHolds s).cells = s₀.cells := by
  unfold State.moveHolds
  try dsimp only
  with_reducible
    repeat'
      first
      | assumption | intro u | apply ite_cells | apply ite_cells1 | apply ite_cells2 | apply foldl_cells
      | apply foldl_cells1 | apply foldl_cells2 | apply State.dropMoved_cells_of
      | simp only [State.cells_mk, State.mem_cells] | split | dsimp only

theorem State.placementView_cells_of {s₀ s : State} (hk : s.cells = s₀.cells)  :
    (State.placementView s).cells = s₀.cells := by
  unfold State.placementView
  try dsimp only
  with_reducible
    repeat'
      first
      | assumption | intro u | apply ite_cells | apply ite_cells1 | apply ite_cells2 | apply foldl_cells
      | apply foldl_cells1 | apply foldl_cells2 | apply State.setActive_cells_of
      | simp only [State.cells_mk, State.mem_cells] | split | dsimp only

theorem placeOp_cells_of {s₀ s : State} (hk : s.cells = s₀.cells)  (ss i : Nat) (v : Val) :
    (placeOp  s ss i v).1.cells = s₀.cells := by
  unfold placeOp
  try dsimp only
  with_reducible
    repeat'
      first
      | assumption | intro u | apply ite_cells | apply ite_cells1 | apply ite_cells2 | apply foldl_cells
      | apply foldl_cells1 | apply foldl_cells2 | apply State.setReg_cells_of
      | simp only [State.cells_mk, State.mem_cells] | split | dsimp only

theorem State.placementResult_cells_of {s₀ s : State} (hk : s.cells = s₀.cells) (status : Nat) (code : Nat) (report : Bytes) :
    (State.placementResult s status code report).cells = s₀.cells := by
  unfold State.placementResult
  try dsimp only
  with_reducible
    repeat'
      first
      | assumption | intro u | apply ite_cells | apply ite_cells1 | apply ite_cells2 | apply foldl_cells
      | apply foldl_cells1 | apply foldl_cells2 | apply State.setReg_cells_of | apply State.setBlob_cells_of
      | simp only [State.cells_mk, State.mem_cells] | split | dsimp only

theorem State.holdApart_cells_of {s₀ s : State} (hk : s.cells = s₀.cells) (slot : Nat) :
    (State.holdApart s slot).cells = s₀.cells := by
  unfold State.holdApart
  try dsimp only
  with_reducible
    repeat'
      first
      | assumption | intro u | apply ite_cells | apply ite_cells1 | apply ite_cells2 | apply foldl_cells
      | apply foldl_cells1 | apply foldl_cells2 | apply State.setBlob_cells_of
      | simp only [State.cells_mk, State.mem_cells] | split | dsimp only

theorem State.storePlan_cells_of {s₀ s : State} (hk : s.cells = s₀.cells) (slot : Nat) (p : Plan) :
    (State.storePlan s slot p).cells = s₀.cells := by
  unfold State.storePlan
  try dsimp only
  with_reducible
    repeat'
      first
      | assumption | intro u | apply ite_cells | apply ite_cells1 | apply ite_cells2 | apply foldl_cells
      | apply foldl_cells1 | apply foldl_cells2 | apply State.holdApart_cells_of | apply State.setBlob_cells_of
      | simp only [State.cells_mk, State.mem_cells] | split | dsimp only

theorem emptySlotOp_cells_of {s₀ s : State} (hk : s.cells = s₀.cells)  (ss i : Nat) (v : Val) :
    (emptySlotOp  s ss i v).1.cells = s₀.cells := by
  unfold emptySlotOp
  try dsimp only
  with_reducible
    repeat'
      first
      | assumption | intro u | apply ite_cells | apply ite_cells1 | apply ite_cells2 | apply foldl_cells
      | apply foldl_cells1 | apply foldl_cells2 | apply State.setBlob_cells_of
      | simp only [State.cells_mk, State.mem_cells] | split | dsimp only

theorem State.advanceEpoch_cells_of {s₀ s : State} (hk : s.cells = s₀.cells)  :
    (State.advanceEpoch s).cells = s₀.cells := by
  unfold State.advanceEpoch
  try dsimp only
  with_reducible
    repeat'
      first
      | assumption | intro u | apply ite_cells | apply ite_cells1 | apply ite_cells2 | apply foldl_cells
      | apply foldl_cells1 | apply foldl_cells2 | apply State.setReg_cells_of
      | simp only [State.cells_mk, State.mem_cells] | split | dsimp only

theorem State.yieldPair_cells_of {s₀ s : State} (hk : s.cells = s₀.cells)  :
    (State.yieldPair s).cells = s₀.cells := by
  unfold State.yieldPair
  try dsimp only
  with_reducible
    repeat'
      first
      | assumption | intro u | apply ite_cells | apply ite_cells1 | apply ite_cells2 | apply foldl_cells
      | apply foldl_cells1 | apply foldl_cells2 | apply State.send_cells_of | apply State.record_cells_of
      | simp only [State.cells_mk, State.mem_cells] | split | dsimp only

theorem State.escalate_cells_of {s₀ s : State} (hk : s.cells = s₀.cells) (bit : Nat) :
    (State.escalate s bit).cells = s₀.cells := by
  unfold State.escalate
  try dsimp only
  with_reducible
    repeat'
      first
      | assumption | intro u | apply ite_cells | apply ite_cells1 | apply ite_cells2 | apply foldl_cells
      | apply foldl_cells1 | apply foldl_cells2 | apply State.yieldPair_cells_of
      | simp only [State.cells_mk, State.mem_cells] | split | dsimp only

theorem State.strikeOutputs_cells_of {s₀ s : State} (hk : s.cells = s₀.cells) (v : Nat) (outs : List Nat) :
    (State.strikeOutputs s v outs).cells = s₀.cells := by
  unfold State.strikeOutputs
  try dsimp only
  with_reducible
    repeat'
      first
      | assumption | intro u | apply ite_cells | apply ite_cells1 | apply ite_cells2 | apply foldl_cells
      | apply foldl_cells1 | apply foldl_cells2 | apply State.setOutput_cells_of | apply State.record_cells_of
      | simp only [State.cells_mk, State.mem_cells] | split | dsimp only

theorem State.strike_cells_of {s₀ s : State} (hk : s.cells = s₀.cells) (outs : List Nat) :
    (State.strike s outs).cells = s₀.cells := by
  unfold State.strike
  try dsimp only
  with_reducible
    repeat'
      first
      | assumption | intro u | apply ite_cells | apply ite_cells1 | apply ite_cells2 | apply foldl_cells
      | apply foldl_cells1 | apply foldl_cells2 | apply State.strikeOutputs_cells_of
      | apply State.escalate_cells_of | simp only [State.cells_mk, State.mem_cells] | split | dsimp only

theorem State.strikeRunning_cells_of {s₀ s : State} (hk : s.cells = s₀.cells) (outs : List Nat) :
    (State.strikeRunning s outs).cells = s₀.cells := by
  unfold State.strikeRunning
  try dsimp only
  with_reducible
    repeat'
      first
      | assumption | intro u | apply ite_cells | apply ite_cells1 | apply ite_cells2 | apply foldl_cells
      | apply foldl_cells1 | apply foldl_cells2 | apply State.strike_cells_of
      | simp only [State.cells_mk, State.mem_cells] | split | dsimp only

theorem State.queueRecovery_cells_of {s₀ s : State} (hk : s.cells = s₀.cells) (r : Recovery) (outs : List Nat) :
    (State.queueRecovery s r outs).cells = s₀.cells := by
  unfold State.queueRecovery
  try dsimp only
  with_reducible
    repeat'
      first
      | assumption | intro u | apply ite_cells | apply ite_cells1 | apply ite_cells2 | apply foldl_cells
      | apply foldl_cells1 | apply foldl_cells2 | apply State.record_cells_of | apply State.strikeOutputs_cells_of
      | apply State.escalate_cells_of | simp only [State.cells_mk, State.mem_cells] | split | dsimp only

theorem State.triggerReplan_cells_of {s₀ s : State} (hk : s.cells = s₀.cells) (cause : Cause) (outs : List Nat) :
    (State.triggerReplan s cause outs).cells = s₀.cells := by
  unfold State.triggerReplan
  try dsimp only
  with_reducible
    repeat'
      first
      | assumption | intro u | apply ite_cells | apply ite_cells1 | apply ite_cells2 | apply foldl_cells
      | apply foldl_cells1 | apply foldl_cells2 | apply State.queueRecovery_cells_of
      | simp only [State.cells_mk, State.mem_cells] | split | dsimp only

theorem State.endRecovery_cells_of {s₀ s : State} (hk : s.cells = s₀.cells)  :
    (State.endRecovery s).cells = s₀.cells := by
  unfold State.endRecovery
  try dsimp only
  with_reducible
    repeat'
      first
      | assumption | intro u | apply ite_cells | apply ite_cells1 | apply ite_cells2 | apply foldl_cells
      | apply foldl_cells1 | apply foldl_cells2 | simp only [State.cells_mk, State.mem_cells] | split | dsimp only

theorem State.refuseAccess_cells_of {s₀ s : State} (hk : s.cells = s₀.cells) (port : Nat) (c : Code) (address : Nat) (cls : Nat) :
    (State.refuseAccess s port c address cls).cells = s₀.cells := by
  unfold State.refuseAccess
  try dsimp only
  with_reducible
    repeat'
      first
      | assumption | intro u | apply ite_cells | apply ite_cells1 | apply ite_cells2 | apply foldl_cells
      | apply foldl_cells1 | apply foldl_cells2 | apply State.bump_cells_of | apply State.setBlob_cells_of
      | apply State.setReg_cells_of | simp only [State.cells_mk, State.mem_cells] | split | dsimp only

theorem State.refuseForm_cells_of {s₀ s : State} (hk : s.cells = s₀.cells) (port : Nat) (c : Code) (address : Nat) (cls : Nat) :
    (State.refuseForm s port c address cls).cells = s₀.cells := by
  unfold State.refuseForm
  try dsimp only
  with_reducible
    repeat'
      first
      | assumption | intro u | apply ite_cells | apply ite_cells1 | apply ite_cells2 | apply foldl_cells
      | apply foldl_cells1 | apply foldl_cells2 | apply State.refuseAccess_cells_of
      | apply State.recordLimited_cells_of | simp only [State.cells_mk, State.mem_cells] | split | dsimp only

theorem State.noteWait_cells_of {s₀ s : State} (hk : s.cells = s₀.cells) (port : Nat) (wait : Nat) :
    (State.noteWait s port wait).cells = s₀.cells := by
  unfold State.noteWait
  try dsimp only
  with_reducible
    repeat'
      first
      | assumption | intro u | apply ite_cells | apply ite_cells1 | apply ite_cells2 | apply foldl_cells
      | apply foldl_cells1 | apply foldl_cells2 | apply State.setReg_cells_of
      | simp only [State.cells_mk, State.mem_cells] | split | dsimp only

theorem State.countAccesses_cells_of {s₀ s : State} (hk : s.cells = s₀.cells) (port : Nat) (cls : Nat) (wait : Nat) (n : Nat) :
    (State.countAccesses s port cls wait n).cells = s₀.cells := by
  unfold State.countAccesses
  try dsimp only
  with_reducible
    repeat'
      first
      | assumption | intro u | apply ite_cells | apply ite_cells1 | apply ite_cells2 | apply foldl_cells
      | apply foldl_cells1 | apply foldl_cells2 | apply State.bumpBy_cells_of
      | simp only [State.cells_mk, State.mem_cells] | split | dsimp only

theorem State.countDone_cells_of {s₀ s : State} (hk : s.cells = s₀.cells) (port : Nat) (cls : Nat) (wait : Nat) :
    (State.countDone s port cls wait).cells = s₀.cells := by
  unfold State.countDone
  try dsimp only
  with_reducible
    repeat'
      first
      | assumption | intro u | apply ite_cells | apply ite_cells1 | apply ite_cells2 | apply foldl_cells
      | apply foldl_cells1 | apply foldl_cells2 | apply State.countAccesses_cells_of
      | simp only [State.cells_mk, State.mem_cells] | split | dsimp only

theorem State.dropItem_cells_of {s₀ s : State} (hk : s.cells = s₀.cells) (x : FabItem) :
    (State.dropItem s x).cells = s₀.cells := by
  unfold State.dropItem
  try dsimp only
  with_reducible
    repeat'
      first
      | assumption | intro u | apply ite_cells | apply ite_cells1 | apply ite_cells2 | apply foldl_cells
      | apply foldl_cells1 | apply foldl_cells2 | simp only [State.cells_mk, State.mem_cells] | split | dsimp only

theorem State.serveNext_cells_of {s₀ s : State} (hk : s.cells = s₀.cells) (t : Nat) :
    (State.serveNext s t).cells = s₀.cells := by
  unfold State.serveNext
  try dsimp only
  with_reducible
    repeat'
      first
      | assumption | intro u | apply ite_cells | apply ite_cells1 | apply ite_cells2 | apply foldl_cells
      | apply foldl_cells1 | apply foldl_cells2 | apply State.setChan_cells_of
      | simp only [State.cells_mk, State.mem_cells] | split | dsimp only

theorem State.afterService_cells_of {s₀ s : State} (hk : s.cells = s₀.cells) (x : FabItem) :
    (State.afterService s x).cells = s₀.cells := by
  unfold State.afterService
  try dsimp only
  with_reducible
    repeat'
      first
      | assumption | intro u | apply ite_cells | apply ite_cells1 | apply ite_cells2 | apply foldl_cells
      | apply foldl_cells1 | apply foldl_cells2 | apply State.setChan_cells_of | apply State.serveNext_cells_of
      | simp only [State.cells_mk, State.mem_cells] | split | dsimp only

theorem State.grant_cells_of {s₀ s : State} (hk : s.cells = s₀.cells) (x : FabItem) (g : Nat) :
    (State.grant s x g).cells = s₀.cells := by
  unfold State.grant
  try dsimp only
  with_reducible
    repeat'
      first
      | assumption | intro u | apply ite_cells | apply ite_cells1 | apply ite_cells2 | apply foldl_cells
      | apply foldl_cells1 | apply foldl_cells2 | apply State.noteWait_cells_of | apply State.serveNext_cells_of
      | simp only [State.cells_mk, State.mem_cells] | split | dsimp only

theorem State.countFrame_cells_of {s₀ s : State} (hk : s.cells = s₀.cells) (port : Nat) :
    (State.countFrame s port).cells = s₀.cells := by
  unfold State.countFrame
  try dsimp only
  with_reducible
    repeat'
      first
      | assumption | intro u | apply ite_cells | apply ite_cells1 | apply ite_cells2 | apply foldl_cells
      | apply foldl_cells1 | apply foldl_cells2 | simp only [State.cells_mk, State.mem_cells] | split | dsimp only

theorem State.noteRefusedB_cells_of {s₀ s : State} (hk : s.cells = s₀.cells) (port : Nat) (address : Nat) :
    (State.noteRefusedB s port address).cells = s₀.cells := by
  unfold State.noteRefusedB
  try dsimp only
  with_reducible
    repeat'
      first
      | assumption | intro u | apply ite_cells | apply ite_cells1 | apply ite_cells2 | apply foldl_cells
      | apply foldl_cells1 | apply foldl_cells2 | apply State.recordEvery_cells_of
      | simp only [State.cells_mk, State.mem_cells] | split | dsimp only

theorem clearOutcomesOp_cells_of {s₀ s : State} (hk : s.cells = s₀.cells)  (ss i : Nat) (v : Val) :
    (clearOutcomesOp  s ss i v).1.cells = s₀.cells := by
  unfold clearOutcomesOp
  try dsimp only
  with_reducible
    repeat'
      first
      | assumption | intro u | apply ite_cells | apply ite_cells1 | apply ite_cells2 | apply foldl_cells
      | apply foldl_cells1 | apply foldl_cells2 | apply State.setReg_cells_of | apply State.setBlob_cells_of
      | simp only [State.cells_mk, State.mem_cells] | split | dsimp only

theorem State.grantLock_cells_of {s₀ s : State} (hk : s.cells = s₀.cells) (l : LockedRun) :
    (State.grantLock s l).cells = s₀.cells := by
  unfold State.grantLock
  try dsimp only
  with_reducible
    repeat'
      first
      | assumption | intro u | apply ite_cells | apply ite_cells1 | apply ite_cells2 | apply foldl_cells
      | apply foldl_cells1 | apply foldl_cells2 | apply State.noteWait_cells_of
      | apply State.countAccesses_cells_of | simp only [State.cells_mk, State.mem_cells] | split | dsimp only

theorem State.logMemError_cells_of {s₀ s : State} (hk : s.cells = s₀.cells) (address : Nat) (syndrome : Nat) (port : Nat) :
    (State.logMemError s address syndrome port).cells = s₀.cells := by
  unfold State.logMemError
  try dsimp only
  with_reducible
    repeat'
      first
      | assumption | intro u | apply ite_cells | apply ite_cells1 | apply ite_cells2 | apply foldl_cells
      | apply foldl_cells1 | apply foldl_cells2 | apply State.bump_cells_of | apply State.recordLimited_cells_of
      | simp only [State.cells_mk, State.mem_cells] | split | dsimp only

theorem State.enterEvacuation_cells_of {s₀ s : State} (hk : s.cells = s₀.cells) (c : Nat) :
    (State.enterEvacuation s c).cells = s₀.cells := by
  unfold State.enterEvacuation
  try dsimp only
  with_reducible
    repeat'
      first
      | assumption | intro u | apply ite_cells | apply ite_cells1 | apply ite_cells2 | apply foldl_cells
      | apply foldl_cells1 | apply foldl_cells2 | apply State.setReg_cells_of | apply State.advanceEpoch_cells_of
      | apply State.replanned_cells_of | apply State.moveHolds_cells_of
      | simp only [State.cells_mk, State.mem_cells] | split | dsimp only

theorem State.requestEvacuation_cells_of {s₀ s : State} (hk : s.cells = s₀.cells) (c : Nat) :
    (State.requestEvacuation s c).cells = s₀.cells := by
  unfold State.requestEvacuation
  try dsimp only
  with_reducible
    repeat'
      first
      | assumption | intro u | apply ite_cells | apply ite_cells1 | apply ite_cells2 | apply foldl_cells
      | apply foldl_cells1 | apply foldl_cells2 | apply State.enterEvacuation_cells_of
      | apply State.queueRecovery_cells_of | simp only [State.cells_mk, State.mem_cells] | split | dsimp only

theorem State.correctedError_cells_of {s₀ s : State} (hk : s.cells = s₀.cells) (c : Nat) :
    (State.correctedError s c).cells = s₀.cells := by
  unfold State.correctedError
  try dsimp only
  with_reducible
    repeat'
      first
      | assumption | intro u | apply ite_cells | apply ite_cells1 | apply ite_cells2 | apply foldl_cells
      | apply foldl_cells1 | apply foldl_cells2 | apply State.bump_cells_of | apply State.setChan_cells_of
      | apply State.record_cells_of | apply State.requestEvacuation_cells_of
      | simp only [State.cells_mk, State.mem_cells] | split | dsimp only

theorem State.startReturn_cells_of {s₀ s : State} (hk : s.cells = s₀.cells) (c : Nat) :
    (State.startReturn s c).cells = s₀.cells := by
  unfold State.startReturn
  try dsimp only
  with_reducible
    repeat'
      first
      | assumption | intro u | apply ite_cells | apply ite_cells1 | apply ite_cells2 | apply foldl_cells
      | apply foldl_cells1 | apply foldl_cells2 | apply State.setReg_cells_of | apply State.setChan_cells_of
      | apply State.advanceEpoch_cells_of | simp only [State.cells_mk, State.mem_cells] | split | dsimp only

theorem channelOp_cells_of {s₀ s : State} (hk : s.cells = s₀.cells)  (ss i : Nat) (v : Val) :
    (channelOp  s ss i v).1.cells = s₀.cells := by
  unfold channelOp
  try dsimp only
  with_reducible
    repeat'
      first
      | assumption | intro u | apply ite_cells | apply ite_cells1 | apply ite_cells2 | apply foldl_cells
      | apply foldl_cells1 | apply foldl_cells2 | apply State.requestEvacuation_cells_of
      | apply State.startReturn_cells_of | apply State.setReg_cells_of | apply State.record_cells_of
      | apply State.advanceEpoch_cells_of | apply State.triggerReplan_cells_of
      | simp only [State.cells_mk, State.mem_cells] | split | dsimp only

theorem State.placeStartUp_cells_of {s₀ s : State} (hk : s.cells = s₀.cells)  :
    (State.placeStartUp s).cells = s₀.cells := by
  unfold State.placeStartUp
  try dsimp only
  with_reducible
    repeat'
      first
      | assumption | intro u | apply ite_cells | apply ite_cells1 | apply ite_cells2 | apply foldl_cells
      | apply foldl_cells1 | apply foldl_cells2 | simp only [State.cells_mk, State.mem_cells] | split | dsimp only

theorem State.settleDram_cells_of {s₀ s : State} (hk : s.cells = s₀.cells) (c : Code) :
    (State.settleDram s c).cells = s₀.cells := by
  unfold State.settleDram
  try dsimp only
  with_reducible
    repeat'
      first
      | assumption | intro u | apply ite_cells | apply ite_cells1 | apply ite_cells2 | apply foldl_cells
      | apply foldl_cells1 | apply foldl_cells2 | apply State.setReady_cells_of | apply State.placeStartUp_cells_of
      | apply State.setFailed_cells_of | simp only [State.cells_mk, State.mem_cells] | split | dsimp only

theorem State.closeRows_cells_of {s₀ s : State} (hk : s.cells = s₀.cells) (c : Nat) :
    (State.closeRows s c).cells = s₀.cells := by
  unfold State.closeRows
  try dsimp only
  with_reducible
    repeat'
      first
      | assumption | intro u | apply ite_cells | apply ite_cells1 | apply ite_cells2 | apply foldl_cells
      | apply foldl_cells1 | apply foldl_cells2 | apply State.setChan_cells_of
      | simp only [State.cells_mk, State.mem_cells] | split | dsimp only

theorem State.refreshFromNow_cells_of {s₀ s : State} (hk : s.cells = s₀.cells) (c : Nat) :
    (State.refreshFromNow s c).cells = s₀.cells := by
  unfold State.refreshFromNow
  try dsimp only
  with_reducible
    repeat'
      first
      | assumption | intro u | apply ite_cells | apply ite_cells1 | apply ite_cells2 | apply foldl_cells
      | apply foldl_cells1 | apply foldl_cells2 | apply State.setChan_cells_of
      | simp only [State.cells_mk, State.mem_cells] | split | dsimp only

theorem State.scrubbedOne_cells_of {s₀ s : State} (hk : s.cells = s₀.cells) (c : Nat) :
    (State.scrubbedOne s c).cells = s₀.cells := by
  unfold State.scrubbedOne
  try dsimp only
  with_reducible
    repeat'
      first
      | assumption | intro u | apply ite_cells | apply ite_cells1 | apply ite_cells2 | apply foldl_cells
      | apply foldl_cells1 | apply foldl_cells2 | apply State.setChan_cells_of
      | simp only [State.cells_mk, State.mem_cells] | split | dsimp only

theorem State.sendBlock_cells_of {s₀ s : State} (hk : s.cells = s₀.cells) (l : Nat) (payload : Nat) :
    (State.sendBlock s l payload).cells = s₀.cells := by
  unfold State.sendBlock
  try dsimp only
  with_reducible
    repeat'
      first
      | assumption | intro u | apply ite_cells | apply ite_cells1 | apply ite_cells2 | apply foldl_cells
      | apply foldl_cells1 | apply foldl_cells2 | apply State.setLane_cells_of | apply State.send_cells_of
      | simp only [State.cells_mk, State.mem_cells] | split | dsimp only

theorem State.checkBit_cells_of {s₀ s : State} (hk : s.cells = s₀.cells) (l : Nat) (b : Bool) :
    (State.checkBit s l b).cells = s₀.cells := by
  unfold State.checkBit
  try dsimp only
  with_reducible
    repeat'
      first
      | assumption | intro u | apply ite_cells | apply ite_cells1 | apply ite_cells2 | apply foldl_cells
      | apply foldl_cells1 | apply foldl_cells2 | apply State.setLane_cells_of | apply State.bumpBy_cells_of
      | apply State.setReg_cells_of | simp only [State.cells_mk, State.mem_cells] | split | dsimp only

theorem State.patternBit_cells_of {s₀ s : State} (hk : s.cells = s₀.cells) (l : Nat) :
    (State.patternBit s l).cells = s₀.cells := by
  unfold State.patternBit
  try dsimp only
  with_reducible
    repeat'
      first
      | assumption | intro u | apply ite_cells | apply ite_cells1 | apply ite_cells2 | apply foldl_cells
      | apply foldl_cells1 | apply foldl_cells2 | apply State.setLane_cells_of | apply State.send_cells_of
      | apply State.checkBit_cells_of | simp only [State.cells_mk, State.mem_cells] | split | dsimp only

theorem State.sendCellDue_cells_of {s₀ s : State} (hk : s.cells = s₀.cells) (p : Nat) (due : Int) (cell : Bytes) :
    (State.sendCellDue s p due cell).cells = s₀.cells := by
  unfold State.sendCellDue
  try dsimp only
  with_reducible
    repeat'
      first
      | assumption | intro u | apply ite_cells | apply ite_cells1 | apply ite_cells2 | apply foldl_cells
      | apply foldl_cells1 | apply foldl_cells2 | apply State.setPort_cells_of
      | simp only [State.cells_mk, State.mem_cells] | split | dsimp only

theorem State.sendCell_cells_of {s₀ s : State} (hk : s.cells = s₀.cells) (p : Nat) (cell : Bytes) :
    (State.sendCell s p cell).cells = s₀.cells := by
  unfold State.sendCell
  try dsimp only
  with_reducible
    repeat'
      first
      | assumption | intro u | apply ite_cells | apply ite_cells1 | apply ite_cells2 | apply foldl_cells
      | apply foldl_cells1 | apply foldl_cells2 | apply State.sendCellDue_cells_of
      | simp only [State.cells_mk, State.mem_cells] | split | dsimp only

theorem State.stampCell_cells_of {s₀ s : State} (hk : s.cells = s₀.cells) (p : Nat) (cell : Bytes) :
    (State.stampCell s p cell).1.cells = s₀.cells := by
  unfold State.stampCell
  try dsimp only
  with_reducible
    repeat'
      first
      | assumption | intro u | apply ite_cells | apply ite_cells1 | apply ite_cells2 | apply foldl_cells
      | apply foldl_cells1 | apply foldl_cells2 | apply State.setPort_cells_of
      | simp only [State.cells_mk, State.mem_cells] | split | dsimp only

theorem State.fillSlot_cells_of {s₀ s : State} (hk : s.cells = s₀.cells) (p : Nat) (c : Nat) (width : Nat) (i : Nat) :
    (State.fillSlot s p c width i).1.cells = s₀.cells := by
  unfold State.fillSlot
  try dsimp only
  with_reducible
    repeat'
      first
      | assumption | intro u | apply ite_cells | apply ite_cells1 | apply ite_cells2 | apply foldl_cells
      | apply foldl_cells1 | apply foldl_cells2 | apply State.setPort_cells_of | apply State.stampCell_cells_of
      | apply State.send_cells_of | simp only [State.cells_mk, State.mem_cells] | split | dsimp only

theorem State.fillSlots_cells_of {s₀ s : State} (hk : s.cells = s₀.cells) (p : Nat) (c : Nat) (width : Nat) :
    (State.fillSlots s p c width).1.cells = s₀.cells := by
  unfold State.fillSlots
  try dsimp only
  with_reducible
    repeat'
      first
      | assumption | intro u | apply ite_cells | apply ite_cells1 | apply ite_cells2 | apply foldl_cells
      | apply foldl_cells1 | apply foldl_cells2 | apply State.fillSlot_cells_of
      | simp only [State.cells_mk, State.mem_cells] | split | dsimp only

theorem State.clearOutbox_cells_of {s₀ s : State} (hk : s.cells = s₀.cells) (p : Nat) :
    (State.clearOutbox s p).cells = s₀.cells := by
  unfold State.clearOutbox
  try dsimp only
  with_reducible
    repeat'
      first
      | assumption | intro u | apply ite_cells | apply ite_cells1 | apply ite_cells2 | apply foldl_cells
      | apply foldl_cells1 | apply foldl_cells2 | apply State.setPort_cells_of
      | simp only [State.cells_mk, State.mem_cells] | split | dsimp only

theorem State.feedOutput_cells_of {s₀ s : State} (hk : s.cells = s₀.cells) (o : Nat) :
    (State.feedOutput s o).cells = s₀.cells := by
  unfold State.feedOutput
  try dsimp only
  with_reducible
    repeat'
      first
      | assumption | intro u | apply ite_cells | apply ite_cells1 | apply ite_cells2 | apply foldl_cells
      | apply foldl_cells1 | apply foldl_cells2 | apply State.sendCellDue_cells_of | apply State.setOutput_cells_of
      | simp only [State.cells_mk, State.mem_cells] | split | dsimp only

theorem State.feedPort_cells_of {s₀ s : State} (hk : s.cells = s₀.cells) (p : Nat) :
    (State.feedPort s p).cells = s₀.cells := by
  unfold State.feedPort
  try dsimp only
  with_reducible
    repeat'
      first
      | assumption | intro u | apply ite_cells | apply ite_cells1 | apply ite_cells2 | apply foldl_cells
      | apply foldl_cells1 | apply foldl_cells2 | apply State.feedOutput_cells_of
      | simp only [State.cells_mk, State.mem_cells] | split | dsimp only

theorem State.setSpare_cells_of {s₀ s : State} (hk : s.cells = s₀.cells) (l : Nat) (st : Nat) :
    (State.setSpare s l st).cells = s₀.cells := by
  unfold State.setSpare
  try dsimp only
  with_reducible
    repeat'
      first
      | assumption | intro u | apply ite_cells | apply ite_cells1 | apply ite_cells2 | apply foldl_cells
      | apply foldl_cells1 | apply foldl_cells2 | apply State.setReg_cells_of
      | simp only [State.cells_mk, State.mem_cells] | split | dsimp only

theorem State.clearSpare_cells_of {s₀ s : State} (hk : s.cells = s₀.cells) (l : Nat) (st : Nat) :
    (State.clearSpare s l st).cells = s₀.cells := by
  unfold State.clearSpare
  try dsimp only
  with_reducible
    repeat'
      first
      | assumption | intro u | apply ite_cells | apply ite_cells1 | apply ite_cells2 | apply foldl_cells
      | apply foldl_cells1 | apply foldl_cells2 | apply State.setReg_cells_of
      | simp only [State.cells_mk, State.mem_cells] | split | dsimp only

theorem State.enterLane_cells_of {s₀ s : State} (hk : s.cells = s₀.cells) (st : Nat) (l : Nat) :
    (State.enterLane s st l).cells = s₀.cells := by
  unfold State.enterLane
  try dsimp only
  with_reducible
    repeat'
      first
      | assumption | intro u | apply ite_cells | apply ite_cells1 | apply ite_cells2 | apply foldl_cells
      | apply foldl_cells1 | apply foldl_cells2 | apply State.setReg_cells_of | apply State.setLane_cells_of
      | simp only [State.cells_mk, State.mem_cells] | split | dsimp only

theorem State.enterLanes_cells_of {s₀ s : State} (hk : s.cells = s₀.cells) (st : Nat) (ls : List Nat) :
    (State.enterLanes s st ls).cells = s₀.cells := by
  unfold State.enterLanes
  try dsimp only
  with_reducible
    repeat'
      first
      | assumption | intro u | apply ite_cells | apply ite_cells1 | apply ite_cells2 | apply foldl_cells
      | apply foldl_cells1 | apply foldl_cells2 | apply State.enterLane_cells_of
      | simp only [State.cells_mk, State.mem_cells] | split | dsimp only

theorem State.sendCapability_cells_of {s₀ s : State} (hk : s.cells = s₀.cells) (l : Nat) :
    (State.sendCapability s l).cells = s₀.cells := by
  unfold State.sendCapability
  try dsimp only
  with_reducible
    repeat'
      first
      | assumption | intro u | apply ite_cells | apply ite_cells1 | apply ite_cells2 | apply foldl_cells
      | apply foldl_cells1 | apply foldl_cells2 | apply State.sendBlock_cells_of
      | simp only [State.cells_mk, State.mem_cells] | split | dsimp only

theorem State.startExchange_cells_of {s₀ s : State} (hk : s.cells = s₀.cells) (l : Nat) :
    (State.startExchange s l).cells = s₀.cells := by
  unfold State.startExchange
  try dsimp only
  with_reducible
    repeat'
      first
      | assumption | intro u | apply ite_cells | apply ite_cells1 | apply ite_cells2 | apply foldl_cells
      | apply foldl_cells1 | apply foldl_cells2 | apply State.sendBlock_cells_of | apply State.enterLane_cells_of
      | apply State.sendCapability_cells_of | simp only [State.cells_mk, State.mem_cells] | split | dsimp only

theorem State.startVerify_cells_of {s₀ s : State} (hk : s.cells = s₀.cells) (l : Nat) :
    (State.startVerify s l).cells = s₀.cells := by
  unfold State.startVerify
  try dsimp only
  with_reducible
    repeat'
      first
      | assumption | intro u | apply ite_cells | apply ite_cells1 | apply ite_cells2 | apply foldl_cells
      | apply foldl_cells1 | apply foldl_cells2 | apply State.enterLane_cells_of | apply State.sendBlock_cells_of
      | simp only [State.cells_mk, State.mem_cells] | split | dsimp only

theorem State.sendTrain_cells_of {s₀ s : State} (hk : s.cells = s₀.cells) (l : Nat) (merit : Nat) :
    (State.sendTrain s l merit).cells = s₀.cells := by
  unfold State.sendTrain
  try dsimp only
  with_reducible
    repeat'
      first
      | assumption | intro u | apply ite_cells | apply ite_cells1 | apply ite_cells2 | apply foldl_cells
      | apply foldl_cells1 | apply foldl_cells2 | apply State.sendBlock_cells_of
      | simp only [State.cells_mk, State.mem_cells] | split | dsimp only

theorem State.sendStep_cells_of {s₀ s : State} (hk : s.cells = s₀.cells) (target : Nat) (request : Bool) (l : Nat) :
    (State.sendStep s target request l).cells = s₀.cells := by
  unfold State.sendStep
  try dsimp only
  with_reducible
    repeat'
      first
      | assumption | intro u | apply ite_cells | apply ite_cells1 | apply ite_cells2 | apply foldl_cells
      | apply foldl_cells1 | apply foldl_cells2 | apply State.draw_cells_of | apply State.sendBlock_cells_of
      | apply State.request_cells_of | simp only [State.cells_mk, State.mem_cells] | split | dsimp only

theorem State.sendRunEntry_cells_of {s₀ s : State} (hk : s.cells = s₀.cells) (count : Nat) (l : Nat) :
    (State.sendRunEntry s count l).cells = s₀.cells := by
  unfold State.sendRunEntry
  try dsimp only
  with_reducible
    repeat'
      first
      | assumption | intro u | apply ite_cells | apply ite_cells1 | apply ite_cells2 | apply foldl_cells
      | apply foldl_cells1 | apply foldl_cells2 | apply State.sendBlock_cells_of
      | simp only [State.cells_mk, State.mem_cells] | split | dsimp only

theorem State.detect_cells_of {s₀ s : State} (hk : s.cells = s₀.cells) (ls : List Nat) :
    (State.detect s ls).cells = s₀.cells := by
  unfold State.detect
  try dsimp only
  with_reducible
    repeat'
      first
      | assumption | intro u | apply ite_cells | apply ite_cells1 | apply ite_cells2 | apply foldl_cells
      | apply foldl_cells1 | apply foldl_cells2 | apply State.draw_cells_of | apply State.setReg_cells_of
      | apply State.bump_cells_of | apply State.setLane_cells_of | apply State.sendBlock_cells_of
      | simp only [State.cells_mk, State.mem_cells] | split | dsimp only

theorem State.startPort_cells_of {s₀ s : State} (hk : s.cells = s₀.cells) (p : Nat) :
    (State.startPort s p).cells = s₀.cells := by
  unfold State.startPort
  try dsimp only
  with_reducible
    repeat'
      first
      | assumption | intro u | apply ite_cells | apply ite_cells1 | apply ite_cells2 | apply foldl_cells
      | apply foldl_cells1 | apply foldl_cells2 | apply State.clearSpare_cells_of | apply State.setLane_cells_of
      | apply State.setReg_cells_of | apply State.detect_cells_of | simp only [State.cells_mk, State.mem_cells]
      | split | dsimp only

theorem State.backOff_cells_of {s₀ s : State} (hk : s.cells = s₀.cells) (ls : List Nat) (l : Nat) (c : Code) :
    (State.backOff s ls l c).cells = s₀.cells := by
  unfold State.backOff
  try dsimp only
  with_reducible
    repeat'
      first
      | assumption | intro u | apply ite_cells | apply ite_cells1 | apply ite_cells2 | apply foldl_cells
      | apply foldl_cells1 | apply foldl_cells2 | apply State.enterLane_cells_of | apply State.setReg_cells_of
      | apply State.setLane_cells_of | apply State.recordEvery_cells_of | apply State.record_cells_of
      | simp only [State.cells_mk, State.mem_cells] | split | dsimp only

theorem State.startTraining_cells_of {s₀ s : State} (hk : s.cells = s₀.cells) (r : Nat) (ls : List Nat) :
    (State.startTraining s r ls).cells = s₀.cells := by
  unfold State.startTraining
  try dsimp only
  with_reducible
    repeat'
      first
      | assumption | intro u | apply ite_cells | apply ite_cells1 | apply ite_cells2 | apply foldl_cells
      | apply foldl_cells1 | apply foldl_cells2 | apply State.enterLane_cells_of | apply State.setReg_cells_of
      | apply State.setLane_cells_of | apply State.sendTrain_cells_of | simp only [State.cells_mk, State.mem_cells]
      | split | dsimp only

theorem State.standReady_cells_of {s₀ s : State} (hk : s.cells = s₀.cells) (l : Nat) :
    (State.standReady s l).cells = s₀.cells := by
  unfold State.standReady
  try dsimp only
  with_reducible
    repeat'
      first
      | assumption | intro u | apply ite_cells | apply ite_cells1 | apply ite_cells2 | apply foldl_cells
      | apply foldl_cells1 | apply foldl_cells2 | apply State.enterLane_cells_of | apply State.setReg_cells_of
      | apply State.clearSpare_cells_of | apply State.setLane_cells_of
      | simp only [State.cells_mk, State.mem_cells] | split | dsimp only

theorem State.endRetrain_cells_of {s₀ s : State} (hk : s.cells = s₀.cells) (l : Nat) :
    (State.endRetrain s l).cells = s₀.cells := by
  unfold State.endRetrain
  try dsimp only
  with_reducible
    repeat'
      first
      | assumption | intro u | apply ite_cells | apply ite_cells1 | apply ite_cells2 | apply foldl_cells
      | apply foldl_cells1 | apply foldl_cells2 | apply State.endRecovery_cells_of
      | simp only [State.cells_mk, State.mem_cells] | split | dsimp only

theorem State.leaveExchange_cells_of {s₀ s : State} (hk : s.cells = s₀.cells) (ls : List Nat) :
    (State.leaveExchange s ls).cells = s₀.cells := by
  unfold State.leaveExchange
  try dsimp only
  with_reducible
    repeat'
      first
      | assumption | intro u | apply ite_cells | apply ite_cells1 | apply ite_cells2 | apply foldl_cells
      | apply foldl_cells1 | apply foldl_cells2 | apply State.draw_cells_of | apply State.setLane_cells_of
      | apply State.startExchange_cells_of | apply State.startTraining_cells_of
      | simp only [State.cells_mk, State.mem_cells] | split | dsimp only

theorem State.leaveVerify_cells_of {s₀ s : State} (hk : s.cells = s₀.cells) (ls : List Nat) :
    (State.leaveVerify s ls).cells = s₀.cells := by
  unfold State.leaveVerify
  try dsimp only
  with_reducible
    repeat'
      first
      | assumption | intro u | apply ite_cells | apply ite_cells1 | apply ite_cells2 | apply foldl_cells
      | apply foldl_cells1 | apply foldl_cells2 | apply State.setLane_cells_of | apply State.enterLanes_cells_of
      | apply State.sendStep_cells_of | apply State.sendRunEntry_cells_of | apply State.standReady_cells_of
      | apply State.advanceEpoch_cells_of | apply State.endRetrain_cells_of | apply State.enterLane_cells_of
      | apply State.sendBlock_cells_of | apply State.draw_cells_of | apply State.setPort_cells_of
      | simp only [State.cells_mk, State.mem_cells] | split | dsimp only

theorem State.advanceLanes_cells_of {s₀ s : State} (hk : s.cells = s₀.cells) (ls : List Nat) :
    (State.advanceLanes s ls).cells = s₀.cells := by
  unfold State.advanceLanes
  try dsimp only
  with_reducible
    repeat'
      first
      | assumption | intro u | apply ite_cells | apply ite_cells1 | apply ite_cells2 | apply foldl_cells
      | apply foldl_cells1 | apply foldl_cells2 | apply State.startExchange_cells_of
      | apply State.leaveExchange_cells_of | apply State.startVerify_cells_of | apply State.leaveVerify_cells_of
      | simp only [State.cells_mk, State.mem_cells] | split | dsimp only

theorem State.passStep_cells_of {s₀ s : State} (hk : s.cells = s₀.cells) (l : Nat) :
    (State.passStep s l).cells = s₀.cells := by
  unfold State.passStep
  try dsimp only
  with_reducible
    repeat'
      first
      | assumption | intro u | apply ite_cells | apply ite_cells1 | apply ite_cells2 | apply foldl_cells
      | apply foldl_cells1 | apply foldl_cells2 | apply State.setLane_cells_of | apply State.advanceLanes_cells_of
      | simp only [State.cells_mk, State.mem_cells] | split | dsimp only

theorem State.failAlone_cells_of {s₀ s : State} (hk : s.cells = s₀.cells) (l : Nat) (c : Code) :
    (State.failAlone s l c).cells = s₀.cells := by
  unfold State.failAlone
  try dsimp only
  with_reducible
    repeat'
      first
      | assumption | intro u | apply ite_cells | apply ite_cells1 | apply ite_cells2 | apply foldl_cells
      | apply foldl_cells1 | apply foldl_cells2 | apply State.setSpare_cells_of | apply State.setLane_cells_of
      | apply State.backOff_cells_of | apply State.endRetrain_cells_of | apply State.advanceLanes_cells_of
      | simp only [State.cells_mk, State.mem_cells] | split | dsimp only

theorem State.failBringUp_cells_of {s₀ s : State} (hk : s.cells = s₀.cells) (l : Nat) (c : Code) :
    (State.failBringUp s l c).cells = s₀.cells := by
  unfold State.failBringUp
  try dsimp only
  with_reducible
    repeat'
      first
      | assumption | intro u | apply ite_cells | apply ite_cells1 | apply ite_cells2 | apply foldl_cells
      | apply foldl_cells1 | apply foldl_cells2 | apply State.failAlone_cells_of | apply State.backOff_cells_of
      | simp only [State.cells_mk, State.mem_cells] | split | dsimp only

theorem State.failRate_cells_of {s₀ s : State} (hk : s.cells = s₀.cells) (l : Nat) :
    (State.failRate s l).cells = s₀.cells := by
  unfold State.failRate
  try dsimp only
  with_reducible
    repeat'
      first
      | assumption | intro u | apply ite_cells | apply ite_cells1 | apply ite_cells2 | apply foldl_cells
      | apply foldl_cells1 | apply foldl_cells2 | apply State.failAlone_cells_of | apply State.backOff_cells_of
      | apply State.record_cells_of | apply State.enterLane_cells_of | apply State.setReg_cells_of
      | apply State.setLane_cells_of | simp only [State.cells_mk, State.mem_cells] | split | dsimp only

theorem State.agreeClock_cells_of {s₀ s : State} (hk : s.cells = s₀.cells) (l : Nat) :
    (State.agreeClock s l).cells = s₀.cells := by
  unfold State.agreeClock
  try dsimp only
  with_reducible
    repeat'
      first
      | assumption | intro u | apply ite_cells | apply ite_cells1 | apply ite_cells2 | apply foldl_cells
      | apply foldl_cells1 | apply foldl_cells2 | apply State.setReg_cells_of | apply State.setLane_cells_of
      | apply State.record_cells_of | simp only [State.cells_mk, State.mem_cells] | split | dsimp only

theorem State.takeCapability_cells_of {s₀ s : State} (hk : s.cells = s₀.cells) (l : Nat) (payload : Nat) :
    (State.takeCapability s l payload).cells = s₀.cells := by
  unfold State.takeCapability
  try dsimp only
  with_reducible
    repeat'
      first
      | assumption | intro u | apply ite_cells | apply ite_cells1 | apply ite_cells2 | apply foldl_cells
      | apply foldl_cells1 | apply foldl_cells2 | apply State.setLane_cells_of | apply State.setBlob_cells_of
      | apply State.failBringUp_cells_of | apply State.agreeClock_cells_of | apply State.sendCapability_cells_of
      | apply State.passStep_cells_of | simp only [State.cells_mk, State.mem_cells] | split | dsimp only

theorem State.onBlock_cells_of {s₀ s0 : State} (hk : s0.cells = s₀.cells) (l : Nat) (block : RxBlock) (types : List Nat) (f : State → Nat → State) (hf : ∀ u x0, u.cells = s₀.cells → (f u x0).cells = s₀.cells) :
    (State.onBlock s0 l block types f).cells = s₀.cells := by
  unfold State.onBlock
  try dsimp only
  with_reducible
    repeat'
      first
      | assumption | intro u | apply ite_cells | apply ite_cells1 | apply ite_cells2 | apply foldl_cells
      | apply foldl_cells1 | apply foldl_cells2 | apply hf | apply State.bumpBy_cells_of
      | apply State.bump_cells_of | simp only [State.cells_mk, State.mem_cells] | split | dsimp only

theorem State.takeTrain_cells_of {s₀ s : State} (hk : s.cells = s₀.cells) (l : Nat) (merit : Nat) (selfDone : Bool) (payload : Nat) :
    (State.takeTrain s l merit selfDone payload).cells = s₀.cells := by
  unfold State.takeTrain
  try dsimp only
  with_reducible
    repeat'
      first
      | assumption | intro u | apply ite_cells | apply ite_cells1 | apply ite_cells2 | apply foldl_cells
      | apply foldl_cells1 | apply foldl_cells2 | apply State.setReg_cells_of | apply State.setLane_cells_of
      | apply State.sendTrain_cells_of | apply State.passStep_cells_of
      | simp only [State.cells_mk, State.mem_cells] | split | dsimp only

theorem State.takeStep_cells_of {s₀ s : State} (hk : s.cells = s₀.cells) (l : Nat) (payload : Nat) :
    (State.takeStep s l payload).cells = s₀.cells := by
  unfold State.takeStep
  try dsimp only
  with_reducible
    repeat'
      first
      | assumption | intro u | apply ite_cells | apply ite_cells1 | apply ite_cells2 | apply foldl_cells
      | apply foldl_cells1 | apply foldl_cells2 | apply State.setLane_cells_of | apply State.passStep_cells_of
      | apply State.sendStep_cells_of | simp only [State.cells_mk, State.mem_cells] | split | dsimp only

theorem State.startListening_cells_of {s₀ s : State} (hk : s.cells = s₀.cells) (p : Nat) :
    (State.startListening s p).cells = s₀.cells := by
  unfold State.startListening
  try dsimp only
  with_reducible
    repeat'
      first
      | assumption | intro u | apply ite_cells | apply ite_cells1 | apply ite_cells2 | apply foldl_cells
      | apply foldl_cells1 | apply foldl_cells2 | apply State.setReg_cells_of
      | simp only [State.cells_mk, State.mem_cells] | split | dsimp only

theorem State.portUp_cells_of {s₀ s : State} (hk : s.cells = s₀.cells) (p : Nat) :
    (State.portUp s p).cells = s₀.cells := by
  unfold State.portUp
  try dsimp only
  with_reducible
    repeat'
      first
      | assumption | intro u | apply ite_cells | apply ite_cells1 | apply ite_cells2 | apply foldl_cells
      | apply foldl_cells1 | apply foldl_cells2 | apply State.setReg_cells_of | apply State.setPort_cells_of
      | apply State.startListening_cells_of | apply State.followTimePort_cells_of
      | simp only [State.cells_mk, State.mem_cells] | split | dsimp only

theorem State.noteDrop_cells_of {s₀ s : State} (hk : s.cells = s₀.cells) (p : Nat) :
    (State.noteDrop s p).cells = s₀.cells := by
  unfold State.noteDrop
  try dsimp only
  with_reducible
    repeat'
      first
      | assumption | intro u | apply ite_cells | apply ite_cells1 | apply ite_cells2 | apply foldl_cells
      | apply foldl_cells1 | apply foldl_cells2 | apply State.setPort_cells_of
      | simp only [State.cells_mk, State.mem_cells] | split | dsimp only

theorem State.cutStreams_cells_of {s₀ s : State} (hk : s.cells = s₀.cells) (p : Nat) :
    (State.cutStreams s p).cells = s₀.cells := by
  unfold State.cutStreams
  try dsimp only
  with_reducible
    repeat'
      first
      | assumption | intro u | apply ite_cells | apply ite_cells1 | apply ite_cells2 | apply foldl_cells
      | apply foldl_cells1 | apply foldl_cells2 | apply State.setOutput_cells_of
      | simp only [State.cells_mk, State.mem_cells] | split | dsimp only

theorem State.portDown_cells_of {s₀ s : State} (hk : s.cells = s₀.cells) (p : Nat) (c : Code) :
    (State.portDown s p c).cells = s₀.cells := by
  unfold State.portDown
  try dsimp only
  with_reducible
    repeat'
      first
      | assumption | intro u | apply ite_cells | apply ite_cells1 | apply ite_cells2 | apply foldl_cells
      | apply foldl_cells1 | apply foldl_cells2 | apply State.strikeRunning_cells_of | apply State.setReg_cells_of
      | apply State.noteDrop_cells_of | apply State.enterLane_cells_of | apply State.clearSpare_cells_of
      | apply State.setLane_cells_of | apply State.cutStreams_cells_of | apply State.clearOutbox_cells_of
      | apply State.record_cells_of | apply State.advanceEpoch_cells_of | apply State.followTimePort_cells_of
      | simp only [State.cells_mk, State.mem_cells] | split | dsimp only

theorem State.wakeLane_cells_of {s₀ s : State} (hk : s.cells = s₀.cells) (p : Nat) (l : Nat) :
    (State.wakeLane s p l).cells = s₀.cells := by
  unfold State.wakeLane
  try dsimp only
  with_reducible
    repeat'
      first
      | assumption | intro u | apply ite_cells | apply ite_cells1 | apply ite_cells2 | apply foldl_cells
      | apply foldl_cells1 | apply foldl_cells2 | apply State.sendRunEntry_cells_of
      | apply State.enterLane_cells_of | simp only [State.cells_mk, State.mem_cells] | split | dsimp only

theorem State.substituteLane_cells_of {s₀ s : State} (hk : s.cells = s₀.cells) (p : Nat) (lane : Nat) (faulty : Nat) (spare : Nat) :
    (State.substituteLane s p lane faulty spare).cells = s₀.cells := by
  unfold State.substituteLane
  try dsimp only
  with_reducible
    repeat'
      first
      | assumption | intro u | apply ite_cells | apply ite_cells1 | apply ite_cells2 | apply foldl_cells
      | apply foldl_cells1 | apply foldl_cells2 | apply State.wakeLane_cells_of | apply State.setSpare_cells_of
      | apply State.setReg_cells_of | apply State.setLane_cells_of | apply State.enterLane_cells_of
      | apply State.setPort_cells_of | apply State.record_cells_of | apply State.queueRecovery_cells_of
      | simp only [State.cells_mk, State.mem_cells] | split | dsimp only

theorem State.relieveLane_cells_of {s₀ s : State} (hk : s.cells = s₀.cells) (p : Nat) (l : Nat) (spare : Nat) :
    (State.relieveLane s p l spare).cells = s₀.cells := by
  unfold State.relieveLane
  try dsimp only
  with_reducible
    repeat'
      first
      | assumption | intro u | apply ite_cells | apply ite_cells1 | apply ite_cells2 | apply foldl_cells
      | apply foldl_cells1 | apply foldl_cells2 | apply State.clearSpare_cells_of | apply State.setLane_cells_of
      | apply State.substituteLane_cells_of | simp only [State.cells_mk, State.mem_cells] | split | dsimp only

theorem State.replaceLane_cells_of {s₀ s : State} (hk : s.cells = s₀.cells) (p : Nat) (l : Nat) :
    (State.replaceLane s p l).cells = s₀.cells := by
  unfold State.replaceLane
  try dsimp only
  with_reducible
    repeat'
      first
      | assumption | intro u | apply ite_cells | apply ite_cells1 | apply ite_cells2 | apply foldl_cells
      | apply foldl_cells1 | apply foldl_cells2 | apply State.strike_cells_of | apply State.portDown_cells_of
      | apply State.relieveLane_cells_of | simp only [State.cells_mk, State.mem_cells] | split | dsimp only

theorem State.laneFault_cells_of {s₀ s : State} (hk : s.cells = s₀.cells) (l : Nat) (c : Code) :
    (State.laneFault s l c).cells = s₀.cells := by
  unfold State.laneFault
  try dsimp only
  with_reducible
    repeat'
      first
      | assumption | intro u | apply ite_cells | apply ite_cells1 | apply ite_cells2 | apply foldl_cells
      | apply foldl_cells1 | apply foldl_cells2 | apply State.enterLane_cells_of | apply State.record_cells_of
      | apply State.advanceEpoch_cells_of | apply State.setSpare_cells_of | apply State.setLane_cells_of
      | apply State.queueRecovery_cells_of | apply State.replaceLane_cells_of
      | simp only [State.cells_mk, State.mem_cells] | split | dsimp only

theorem State.moveBack_cells_of {s₀ s : State} (hk : s.cells = s₀.cells) (p : Nat) (lane : Nat) (spare : Nat) :
    (State.moveBack s p lane spare).cells = s₀.cells := by
  unfold State.moveBack
  try dsimp only
  with_reducible
    repeat'
      first
      | assumption | intro u | apply ite_cells | apply ite_cells1 | apply ite_cells2 | apply foldl_cells
      | apply foldl_cells1 | apply foldl_cells2 | apply State.setSpare_cells_of | apply State.setLane_cells_of
      | apply State.wakeLane_cells_of | apply State.setPort_cells_of | simp only [State.cells_mk, State.mem_cells]
      | split | dsimp only

theorem State.moveLane_cells_of {s₀ s : State} (hk : s.cells = s₀.cells) (p : Nat) (k : Nat) (target : Nat) :
    (State.moveLane s p k target).cells = s₀.cells := by
  unfold State.moveLane
  try dsimp only
  with_reducible
    repeat'
      first
      | assumption | intro u | apply ite_cells | apply ite_cells1 | apply ite_cells2 | apply foldl_cells
      | apply foldl_cells1 | apply foldl_cells2 | apply State.moveBack_cells_of | apply State.strike_cells_of
      | apply State.relieveLane_cells_of | apply State.advanceEpoch_cells_of
      | simp only [State.cells_mk, State.mem_cells] | split | dsimp only

theorem State.peerRequest_cells_of {s₀ s : State} (hk : s.cells = s₀.cells) (p : Nat) (k : Nat) (on : Option Nat) :
    (State.peerRequest s p k on).cells = s₀.cells := by
  unfold State.peerRequest
  try dsimp only
  with_reducible
    repeat'
      first
      | assumption | intro u | apply ite_cells | apply ite_cells1 | apply ite_cells2 | apply foldl_cells
      | apply foldl_cells1 | apply foldl_cells2 | apply State.portDown_cells_of | apply State.setPort_cells_of
      | apply State.moveLane_cells_of | simp only [State.cells_mk, State.mem_cells] | split | dsimp only

theorem State.seeRequest_cells_of {s₀ s : State} (hk : s.cells = s₀.cells) (p : Nat) (number : Nat) (field' : Nat) :
    (State.seeRequest s p number field').cells = s₀.cells := by
  unfold State.seeRequest
  try dsimp only
  with_reducible
    repeat'
      first
      | assumption | intro u | apply ite_cells | apply ite_cells1 | apply ite_cells2 | apply foldl_cells
      | apply foldl_cells1 | apply foldl_cells2 | apply State.setPort_cells_of | apply State.peerRequest_cells_of
      | simp only [State.cells_mk, State.mem_cells] | split | dsimp only

theorem State.returnLane_cells_of {s₀ s : State} (hk : s.cells = s₀.cells) (p : Nat) (lane : Nat) :
    (State.returnLane s p lane).cells = s₀.cells := by
  unfold State.returnLane
  try dsimp only
  with_reducible
    repeat'
      first
      | assumption | intro u | apply ite_cells | apply ite_cells1 | apply ite_cells2 | apply foldl_cells
      | apply foldl_cells1 | apply foldl_cells2 | apply State.setLane_cells_of | apply State.setPort_cells_of
      | apply State.standReady_cells_of | apply State.advanceEpoch_cells_of | apply State.record_cells_of
      | apply State.endRecovery_cells_of | simp only [State.cells_mk, State.mem_cells] | split | dsimp only

theorem State.startLaneBack_cells_of {s₀ s : State} (hk : s.cells = s₀.cells) (lane : Nat) :
    (State.startLaneBack s lane).cells = s₀.cells := by
  unfold State.startLaneBack
  try dsimp only
  with_reducible
    repeat'
      first
      | assumption | intro u | apply ite_cells | apply ite_cells1 | apply ite_cells2 | apply foldl_cells
      | apply foldl_cells1 | apply foldl_cells2 | apply State.moveBack_cells_of
      | simp only [State.cells_mk, State.mem_cells] | split | dsimp only

theorem switchBackLaneOp_cells_of {s₀ s : State} (hk : s.cells = s₀.cells)  (ss i : Nat) (v : Val) :
    (switchBackLaneOp  s ss i v).1.cells = s₀.cells := by
  unfold switchBackLaneOp
  try dsimp only
  with_reducible
    repeat'
      first
      | assumption | intro u | apply ite_cells | apply ite_cells1 | apply ite_cells2 | apply foldl_cells
      | apply foldl_cells1 | apply foldl_cells2 | simp only [State.cells_mk, State.mem_cells] | split | dsimp only

theorem retrainOp_cells_of {s₀ s : State} (hk : s.cells = s₀.cells)  (ss i : Nat) (v : Val) :
    (retrainOp  s ss i v).1.cells = s₀.cells := by
  unfold retrainOp
  try dsimp only
  with_reducible
    repeat'
      first
      | assumption | intro u | apply ite_cells | apply ite_cells1 | apply ite_cells2 | apply foldl_cells
      | apply foldl_cells1 | apply foldl_cells2 | apply State.clearSpare_cells_of | apply State.setLane_cells_of
      | apply State.substituteLane_cells_of | apply State.advanceEpoch_cells_of
      | simp only [State.cells_mk, State.mem_cells] | split | dsimp only

theorem State.startRetrain_cells_of {s₀ s : State} (hk : s.cells = s₀.cells) (l : Nat) :
    (State.startRetrain s l).cells = s₀.cells := by
  unfold State.startRetrain
  try dsimp only
  with_reducible
    repeat'
      first
      | assumption | intro u | apply ite_cells | apply ite_cells1 | apply ite_cells2 | apply foldl_cells
      | apply foldl_cells1 | apply foldl_cells2 | apply State.setLane_cells_of | apply State.detect_cells_of
      | simp only [State.cells_mk, State.mem_cells] | split | dsimp only

theorem State.sendAnchor_cells_of {s₀ s : State} (hk : s.cells = s₀.cells) (p : Nat) (number : Nat) (count : Nat) (payload : Bytes) (l : Nat) :
    (State.sendAnchor s p number count payload l).cells = s₀.cells := by
  unfold State.sendAnchor
  try dsimp only
  with_reducible
    repeat'
      first
      | assumption | intro u | apply ite_cells | apply ite_cells1 | apply ite_cells2 | apply foldl_cells
      | apply foldl_cells1 | apply foldl_cells2 | apply State.setLane_cells_of | apply State.bumpBy_cells_of
      | apply State.send_cells_of | simp only [State.cells_mk, State.mem_cells] | split | dsimp only

theorem State.sendInterval_cells_of {s₀ s : State} (hk : s.cells = s₀.cells) (p : Nat) (waiting : Bool) :
    (State.sendInterval s p waiting).cells = s₀.cells := by
  unfold State.sendInterval
  try dsimp only
  with_reducible
    repeat'
      first
      | assumption | intro u | apply ite_cells | apply ite_cells1 | apply ite_cells2 | apply foldl_cells
      | apply foldl_cells1 | apply foldl_cells2 | apply State.wakeLane_cells_of | apply State.fillSlots_cells_of
      | apply State.sendAnchor_cells_of | apply State.enterLane_cells_of | apply State.setPort_cells_of
      | apply State.enterLanes_cells_of | apply State.setReg_cells_of | simp only [State.cells_mk, State.mem_cells]
      | split | dsimp only

theorem State.noteSlack_cells_of {s₀ s : State} (hk : s.cells = s₀.cells) (up : Bool) (l : Nat) :
    (State.noteSlack s up l).cells = s₀.cells := by
  unfold State.noteSlack
  try dsimp only
  with_reducible
    repeat'
      first
      | assumption | intro u | apply ite_cells | apply ite_cells1 | apply ite_cells2 | apply foldl_cells
      | apply foldl_cells1 | apply foldl_cells2 | apply State.setReg_cells_of
      | simp only [State.cells_mk, State.mem_cells] | split | dsimp only

theorem State.matchRate_cells_of {s₀ s : State} (hk : s.cells = s₀.cells) (p : Nat) (l : Nat) (number : Nat) (fill : Nat) :
    (State.matchRate s p l number fill).cells = s₀.cells := by
  unfold State.matchRate
  try dsimp only
  with_reducible
    repeat'
      first
      | assumption | intro u | apply ite_cells | apply ite_cells1 | apply ite_cells2 | apply foldl_cells
      | apply foldl_cells1 | apply foldl_cells2 | apply State.setLane_cells_of | apply State.laneFault_cells_of
      | apply State.noteSlack_cells_of | simp only [State.cells_mk, State.mem_cells] | split | dsimp only

theorem State.countAnchor_cells_of {s₀ s : State} (hk : s.cells = s₀.cells) (l : Nat) (bad : Bool) :
    (State.countAnchor s l bad).cells = s₀.cells := by
  unfold State.countAnchor
  try dsimp only
  with_reducible
    repeat'
      first
      | assumption | intro u | apply ite_cells | apply ite_cells1 | apply ite_cells2 | apply foldl_cells
      | apply foldl_cells1 | apply foldl_cells2 | apply State.setLane_cells_of | apply State.laneFault_cells_of
      | simp only [State.cells_mk, State.mem_cells] | split | dsimp only

theorem State.noteSpareGood_cells_of {s₀ s : State} (hk : s.cells = s₀.cells) (p : Nat) (l : Nat) (number : Nat) :
    (State.noteSpareGood s p l number).cells = s₀.cells := by
  unfold State.noteSpareGood
  try dsimp only
  with_reducible
    repeat'
      first
      | assumption | intro u | apply ite_cells | apply ite_cells1 | apply ite_cells2 | apply foldl_cells
      | apply foldl_cells1 | apply foldl_cells2 | apply State.setPort_cells_of | apply State.returnLane_cells_of
      | apply State.setSpare_cells_of | simp only [State.cells_mk, State.mem_cells] | split | dsimp only

theorem State.goodAnchor_cells_of {s₀ s : State} (hk : s.cells = s₀.cells) (p : Nat) (l : Nat) (word : Nat) (skewNs : Nat) (fill : Nat) :
    (State.goodAnchor s p l word skewNs fill).cells = s₀.cells := by
  unfold State.goodAnchor
  try dsimp only
  with_reducible
    repeat'
      first
      | assumption | intro u | apply ite_cells | apply ite_cells1 | apply ite_cells2 | apply foldl_cells
      | apply foldl_cells1 | apply foldl_cells2 | apply State.setReg_cells_of | apply State.setLane_cells_of
      | apply State.laneFault_cells_of | apply State.setPort_cells_of | apply State.peerRequest_cells_of
      | apply State.noteSpareGood_cells_of | apply State.matchRate_cells_of | apply State.seeRequest_cells_of
      | simp only [State.cells_mk, State.mem_cells] | split | dsimp only

theorem State.startTest_cells_of {s₀ s : State} (hk : s.cells = s₀.cells) (l : Nat) :
    (State.startTest s l).cells = s₀.cells := by
  unfold State.startTest
  try dsimp only
  with_reducible
    repeat'
      first
      | assumption | intro u | apply ite_cells | apply ite_cells1 | apply ite_cells2 | apply foldl_cells
      | apply foldl_cells1 | apply foldl_cells2 | apply State.setLane_cells_of | apply State.detect_cells_of
      | apply State.enterLane_cells_of | apply State.setReg_cells_of | simp only [State.cells_mk, State.mem_cells]
      | split | dsimp only

theorem laneTestOp_cells_of {s₀ s : State} (hk : s.cells = s₀.cells) (key : Nat) (ss i : Nat) (v : Val) :
    (laneTestOp key s ss i v).1.cells = s₀.cells := by
  unfold laneTestOp
  try dsimp only
  with_reducible
    repeat'
      first
      | assumption | intro u | apply ite_cells | apply ite_cells1 | apply ite_cells2 | apply foldl_cells
      | apply foldl_cells1 | apply foldl_cells2 | apply State.setReg_cells_of | apply State.sendBlock_cells_of
      | apply State.startTest_cells_of | simp only [State.cells_mk, State.mem_cells] | split | dsimp only

theorem State.loseAnchor_cells_of {s₀ s : State} (hk : s.cells = s₀.cells) (l : Nat) :
    (State.loseAnchor s l).cells = s₀.cells := by
  unfold State.loseAnchor
  try dsimp only
  with_reducible
    repeat'
      first
      | assumption | intro u | apply ite_cells | apply ite_cells1 | apply ite_cells2 | apply foldl_cells
      | apply foldl_cells1 | apply foldl_cells2 | apply State.bump_cells_of | apply State.setLane_cells_of
      | apply State.countAnchor_cells_of | apply State.laneFault_cells_of
      | simp only [State.cells_mk, State.mem_cells] | split | dsimp only

theorem State.seekAnchor_cells_of {s₀ s : State} (hk : s.cells = s₀.cells) (l : Nat) (good : Bool) :
    (State.seekAnchor s l good).cells = s₀.cells := by
  unfold State.seekAnchor
  try dsimp only
  with_reducible
    repeat'
      first
      | assumption | intro u | apply ite_cells | apply ite_cells1 | apply ite_cells2 | apply foldl_cells
      | apply foldl_cells1 | apply foldl_cells2 | apply State.setLane_cells_of
      | simp only [State.cells_mk, State.mem_cells] | split | dsimp only

theorem State.leaveBanked_cells_of {s₀ s : State} (hk : s.cells = s₀.cells) (p : Nat) :
    (State.leaveBanked s p).cells = s₀.cells := by
  unfold State.leaveBanked
  try dsimp only
  with_reducible
    repeat'
      first
      | assumption | intro u | apply ite_cells | apply ite_cells1 | apply ite_cells2 | apply foldl_cells
      | apply foldl_cells1 | apply foldl_cells2 | apply State.enterLane_cells_of
      | apply State.sendRunEntry_cells_of | apply State.setReg_cells_of | apply State.setPort_cells_of
      | simp only [State.cells_mk, State.mem_cells] | split | dsimp only

theorem State.repeatBlock_cells_of {s₀ s : State} (hk : s.cells = s₀.cells) (l : Nat) :
    (State.repeatBlock s l).cells = s₀.cells := by
  unfold State.repeatBlock
  try dsimp only
  with_reducible
    repeat'
      first
      | assumption | intro u | apply ite_cells | apply ite_cells1 | apply ite_cells2 | apply foldl_cells
      | apply foldl_cells1 | apply foldl_cells2 | apply State.setLane_cells_of | apply State.sendBlock_cells_of
      | simp only [State.cells_mk, State.mem_cells] | split | dsimp only

theorem State.returnBit_cells_of {s₀ s : State} (hk : s.cells = s₀.cells) (l : Nat) :
    (State.returnBit s l).cells = s₀.cells := by
  unfold State.returnBit
  try dsimp only
  with_reducible
    repeat'
      first
      | assumption | intro u | apply ite_cells | apply ite_cells1 | apply ite_cells2 | apply foldl_cells
      | apply foldl_cells1 | apply foldl_cells2 | apply State.draw_cells_of | apply State.send_cells_of
      | simp only [State.cells_mk, State.mem_cells] | split | dsimp only

theorem State.laneTick_cells_of {s₀ s : State} (hk : s.cells = s₀.cells) (l : Nat) :
    (State.laneTick s l).cells = s₀.cells := by
  unfold State.laneTick
  try dsimp only
  with_reducible
    repeat'
      first
      | assumption | intro u | apply ite_cells | apply ite_cells1 | apply ite_cells2 | apply foldl_cells
      | apply foldl_cells1 | apply foldl_cells2 | apply State.returnBit_cells_of | apply State.repeatBlock_cells_of
      | apply State.patternBit_cells_of | simp only [State.cells_mk, State.mem_cells] | split | dsimp only

theorem State.cellCrcError_cells_of {s₀ s : State} (hk : s.cells = s₀.cells) (p : Nat) :
    (State.cellCrcError s p).cells = s₀.cells := by
  unfold State.cellCrcError
  try dsimp only
  with_reducible
    repeat'
      first
      | assumption | intro u | apply ite_cells | apply ite_cells1 | apply ite_cells2 | apply foldl_cells
      | apply foldl_cells1 | apply foldl_cells2 | apply State.bump_cells_of | apply State.setPort_cells_of
      | apply State.portDown_cells_of | simp only [State.cells_mk, State.mem_cells] | split | dsimp only

theorem State.onCell_cells_of {s₀ s : State} (hk : s.cells = s₀.cells) (p : Nat) (cell : Bytes) (type : Nat) (f : State → State) (hf : ∀ u, u.cells = s₀.cells → (f u).cells = s₀.cells) :
    (State.onCell s p cell type f).cells = s₀.cells := by
  unfold State.onCell
  try dsimp only
  with_reducible
    repeat'
      first
      | assumption | intro u | apply ite_cells | apply ite_cells1 | apply ite_cells2 | apply foldl_cells
      | apply foldl_cells1 | apply foldl_cells2 | apply hf | apply State.cellCrcError_cells_of
      | apply State.bump_cells_of | simp only [State.cells_mk, State.mem_cells] | split | dsimp only

theorem State.notePort_cells_of {s₀ s : State} (hk : s.cells = s₀.cells) (p : Nat) (c : Code) (detail : Nat) :
    (State.notePort s p c detail).cells = s₀.cells := by
  unfold State.notePort
  try dsimp only
  with_reducible
    repeat'
      first
      | assumption | intro u | apply ite_cells | apply ite_cells1 | apply ite_cells2 | apply foldl_cells
      | apply foldl_cells1 | apply foldl_cells2 | apply State.recordEvery_cells_of
      | simp only [State.cells_mk, State.mem_cells] | split | dsimp only

theorem State.streamBoundary_cells_of {s₀ s : State} (hk : s.cells = s₀.cells) (stream : Nat) :
    (State.streamBoundary s stream).cells = s₀.cells := by
  unfold State.streamBoundary
  try dsimp only
  with_reducible
    repeat'
      first
      | assumption | intro u | apply ite_cells | apply ite_cells1 | apply ite_cells2 | apply foldl_cells
      | apply foldl_cells1 | apply foldl_cells2 | apply State.applyDue_cells_of
      | simp only [State.cells_mk, State.mem_cells] | split | dsimp only

theorem State.onVideo_cells_of {s₀ s : State} (hk : s.cells = s₀.cells) (p : Nat) (cell : Bytes) (kind : Nat) (f : State → Nat → State) (hf : ∀ u x0, u.cells = s₀.cells → (f u x0).cells = s₀.cells) :
    (State.onVideo s p cell kind f).cells = s₀.cells := by
  unfold State.onVideo
  try dsimp only
  with_reducible
    repeat'
      first
      | assumption | intro u | apply ite_cells | apply ite_cells1 | apply ite_cells2 | apply foldl_cells
      | apply foldl_cells1 | apply foldl_cells2 | apply hf | apply State.onCell_cells_of
      | apply State.streamBoundary_cells_of | apply State.bump_cells_of | apply State.notePort_cells_of
      | simp only [State.cells_mk, State.mem_cells] | split | dsimp only

theorem State.dropFrame_cells_of {s₀ s : State} (hk : s.cells = s₀.cells) (slot : Nat) (seq : Nat) (c : Code) :
    (State.dropFrame s slot seq c).cells = s₀.cells := by
  unfold State.dropFrame
  try dsimp only
  with_reducible
    repeat'
      first
      | assumption | intro u | apply ite_cells | apply ite_cells1 | apply ite_cells2 | apply foldl_cells
      | apply foldl_cells1 | apply foldl_cells2 | apply State.bump_cells_of | apply State.recordEvery_cells_of
      | simp only [State.cells_mk, State.mem_cells] | split | dsimp only

theorem State.forgetRx_cells_of {s₀ s : State} (hk : s.cells = s₀.cells) (p : Nat) (f : RxFrame) :
    (State.forgetRx s p f).cells = s₀.cells := by
  unfold State.forgetRx
  try dsimp only
  with_reducible
    repeat'
      first
      | assumption | intro u | apply ite_cells | apply ite_cells1 | apply ite_cells2 | apply foldl_cells
      | apply foldl_cells1 | apply foldl_cells2 | apply State.setPort_cells_of
      | simp only [State.cells_mk, State.mem_cells] | split | dsimp only

theorem State.setRx_cells_of {s₀ s : State} (hk : s.cells = s₀.cells) (p : Nat) (f : RxFrame) :
    (State.setRx s p f).cells = s₀.cells := by
  unfold State.setRx
  try dsimp only
  with_reducible
    repeat'
      first
      | assumption | intro u | apply ite_cells | apply ite_cells1 | apply ite_cells2 | apply foldl_cells
      | apply foldl_cells1 | apply foldl_cells2 | apply State.setPort_cells_of
      | simp only [State.cells_mk, State.mem_cells] | split | dsimp only

theorem State.witnessFail_cells_of {s₀ s : State} (hk : s.cells = s₀.cells) (o : Nat) (ofNum : Nat) (c : Code) :
    (State.witnessFail s o ofNum c).cells = s₀.cells := by
  unfold State.witnessFail
  try dsimp only
  with_reducible
    repeat'
      first
      | assumption | intro u | apply ite_cells | apply ite_cells1 | apply ite_cells2 | apply foldl_cells
      | apply foldl_cells1 | apply foldl_cells2 | apply State.setOutput_cells_of | apply State.bump_cells_of
      | apply State.record_cells_of | simp only [State.cells_mk, State.mem_cells] | split | dsimp only

theorem State.witnessPass_cells_of {s₀ s : State} (hk : s.cells = s₀.cells) (o : Nat) :
    (State.witnessPass s o).cells = s₀.cells := by
  unfold State.witnessPass
  try dsimp only
  with_reducible
    repeat'
      first
      | assumption | intro u | apply ite_cells | apply ite_cells1 | apply ite_cells2 | apply foldl_cells
      | apply foldl_cells1 | apply foldl_cells2 | apply State.setOutput_cells_of
      | simp only [State.cells_mk, State.mem_cells] | split | dsimp only

theorem State.takeWitness_cells_of {s₀ s : State} (hk : s.cells = s₀.cells) (p : Nat) (cell : Bytes) :
    (State.takeWitness s p cell).cells = s₀.cells := by
  unfold State.takeWitness
  try dsimp only
  with_reducible
    repeat'
      first
      | assumption | intro u | apply ite_cells | apply ite_cells1 | apply ite_cells2 | apply foldl_cells
      | apply foldl_cells1 | apply foldl_cells2 | apply State.bump_cells_of | apply State.setOutput_cells_of
      | apply State.setReg_cells_of | apply State.witnessPass_cells_of | apply State.witnessFail_cells_of
      | simp only [State.cells_mk, State.mem_cells] | split | dsimp only

theorem State.sendTwice_cells_of {s₀ s : State} (hk : s.cells = s₀.cells) (p : Nat) (cells : List Bytes) :
    (State.sendTwice s p cells).cells = s₀.cells := by
  unfold State.sendTwice
  try dsimp only
  with_reducible
    repeat'
      first
      | assumption | intro u | apply ite_cells | apply ite_cells1 | apply ite_cells2 | apply foldl_cells
      | apply foldl_cells1 | apply foldl_cells2 | apply State.sendCell_cells_of
      | simp only [State.cells_mk, State.mem_cells] | split | dsimp only

theorem State.forward_cells_of {s₀ s : State} (hk : s.cells = s₀.cells) (slot : Nat) (x : Source) :
    (State.forward s slot x).cells = s₀.cells := by
  unfold State.forward
  try dsimp only
  with_reducible
    repeat'
      first
      | assumption | intro u | apply ite_cells | apply ite_cells1 | apply ite_cells2 | apply foldl_cells
      | apply foldl_cells1 | apply foldl_cells2 | apply State.takeRef_cells_of | apply State.setSlot_cells_of
      | apply State.sendTwice_cells_of | simp only [State.cells_mk, State.mem_cells] | split | dsimp only

theorem State.pump_cells_of {s₀ s : State} (hk : s.cells = s₀.cells) (p : Nat) :
    (State.pump s p).cells = s₀.cells := by
  unfold State.pump
  try dsimp only
  with_reducible
    repeat'
      first
      | assumption | intro u | apply ite_cells | apply ite_cells1 | apply ite_cells2 | apply foldl_cells
      | apply foldl_cells1 | apply foldl_cells2 | apply State.sendCell_cells_of | apply State.setPort_cells_of
      | simp only [State.cells_mk, State.mem_cells] | split | dsimp only

theorem State.sendMessage_cells_of {s₀ s : State} (hk : s.cells = s₀.cells) (p : Nat) (kind : Nat) (payload : Bytes) :
    (State.sendMessage s p kind payload).cells = s₀.cells := by
  unfold State.sendMessage
  try dsimp only
  with_reducible
    repeat'
      first
      | assumption | intro u | apply ite_cells | apply ite_cells1 | apply ite_cells2 | apply foldl_cells
      | apply foldl_cells1 | apply foldl_cells2 | apply State.setPort_cells_of | apply State.pump_cells_of
      | simp only [State.cells_mk, State.mem_cells] | split | dsimp only

theorem State.sendCredit_cells_of {s₀ s : State} (hk : s.cells = s₀.cells) (p : Nat) (ack : Bool) :
    (State.sendCredit s p ack).cells = s₀.cells := by
  unfold State.sendCredit
  try dsimp only
  with_reducible
    repeat'
      first
      | assumption | intro u | apply ite_cells | apply ite_cells1 | apply ite_cells2 | apply foldl_cells
      | apply foldl_cells1 | apply foldl_cells2 | apply State.sendCell_cells_of
      | simp only [State.cells_mk, State.mem_cells] | split | dsimp only

theorem State.limitMessages_cells_of {s₀ s : State} (hk : s.cells = s₀.cells) (p : Nat) :
    (State.limitMessages s p).1.cells = s₀.cells := by
  unfold State.limitMessages
  try dsimp only
  with_reducible
    repeat'
      first
      | assumption | intro u | apply ite_cells | apply ite_cells1 | apply ite_cells2 | apply foldl_cells
      | apply foldl_cells1 | apply foldl_cells2 | apply State.bump_cells_of | apply State.notePort_cells_of
      | apply State.setPort_cells_of | simp only [State.cells_mk, State.mem_cells] | split | dsimp only

theorem State.acceptMessage_cells_of {s₀ s : State} (hk : s.cells = s₀.cells) (p : Nat) (cell : Bytes) :
    (State.acceptMessage s p cell).1.cells = s₀.cells := by
  unfold State.acceptMessage
  try dsimp only
  with_reducible
    repeat'
      first
      | assumption | intro u | apply ite_cells | apply ite_cells1 | apply ite_cells2 | apply foldl_cells
      | apply foldl_cells1 | apply foldl_cells2 | apply State.limitMessages_cells_of | apply State.setPort_cells_of
      | apply State.sendCredit_cells_of | simp only [State.cells_mk, State.mem_cells] | split | dsimp only

theorem State.admitMessage_cells_of {s₀ s : State} (hk : s.cells = s₀.cells) (p : Nat) (kind : Nat) :
    (State.admitMessage s p kind).1.cells = s₀.cells := by
  unfold State.admitMessage
  try dsimp only
  with_reducible
    repeat'
      first
      | assumption | intro u | apply ite_cells | apply ite_cells1 | apply ite_cells2 | apply foldl_cells
      | apply foldl_cells1 | apply foldl_cells2 | apply State.bump_cells_of | apply State.notePort_cells_of
      | simp only [State.cells_mk, State.mem_cells] | split | dsimp only

theorem State.takeCredit_cells_of {s₀ s : State} (hk : s.cells = s₀.cells) (p : Nat) (cell : Bytes) :
    (State.takeCredit s p cell).cells = s₀.cells := by
  unfold State.takeCredit
  try dsimp only
  with_reducible
    repeat'
      first
      | assumption | intro u | apply ite_cells | apply ite_cells1 | apply ite_cells2 | apply foldl_cells
      | apply foldl_cells1 | apply foldl_cells2 | apply State.setPort_cells_of | apply State.sendCredit_cells_of
      | apply State.pump_cells_of | simp only [State.cells_mk, State.mem_cells] | split | dsimp only

theorem State.retransmit_cells_of {s₀ s : State} (hk : s.cells = s₀.cells) (p : Nat) :
    (State.retransmit s p).cells = s₀.cells := by
  unfold State.retransmit
  try dsimp only
  with_reducible
    repeat'
      first
      | assumption | intro u | apply ite_cells | apply ite_cells1 | apply ite_cells2 | apply foldl_cells
      | apply foldl_cells1 | apply foldl_cells2 | apply State.setPort_cells_of | apply State.record_cells_of
      | apply State.bump_cells_of | apply State.sendMessage_cells_of | apply State.sendCredit_cells_of
      | apply State.sendCell_cells_of | simp only [State.cells_mk, State.mem_cells] | split | dsimp only

theorem State.onTime_cells_of {s₀ s : State} (hk : s.cells = s₀.cells) (p : Nat) (cell : Bytes) (kind : Nat) (role : Nat) (f : State → Bytes → Nat → State) (hf : ∀ u x0 x1, u.cells = s₀.cells → (f u x0 x1).cells = s₀.cells) :
    (State.onTime s p cell kind role f).cells = s₀.cells := by
  unfold State.onTime
  try dsimp only
  with_reducible
    repeat'
      first
      | assumption | intro u | apply ite_cells | apply ite_cells1 | apply ite_cells2 | apply foldl_cells
      | apply foldl_cells1 | apply foldl_cells2 | apply hf | apply State.onCell_cells_of
      | apply State.bump_cells_of | apply State.notePort_cells_of | simp only [State.cells_mk, State.mem_cells]
      | split | dsimp only

theorem State.takeSync_cells_of {s₀ s : State} (hk : s.cells = s₀.cells) (p : Nat) (b : Bytes) (number : Nat) :
    (State.takeSync s p b number).cells = s₀.cells := by
  unfold State.takeSync
  try dsimp only
  with_reducible
    repeat'
      first
      | assumption | intro u | apply ite_cells | apply ite_cells1 | apply ite_cells2 | apply foldl_cells
      | apply foldl_cells1 | apply foldl_cells2 | apply State.setPort_cells_of | apply State.sendCell_cells_of
      | apply State.recordDevice_cells_of | apply State.settleTime_cells_of
      | simp only [State.cells_mk, State.mem_cells] | split | dsimp only

theorem State.takeResponse_cells_of {s₀ s : State} (hk : s.cells = s₀.cells) (p : Nat) (b : Bytes) (number : Nat) :
    (State.takeResponse s p b number).cells = s₀.cells := by
  unfold State.takeResponse
  try dsimp only
  with_reducible
    repeat'
      first
      | assumption | intro u | apply ite_cells | apply ite_cells1 | apply ite_cells2 | apply foldl_cells
      | apply foldl_cells1 | apply foldl_cells2 | apply State.setPort_cells_of | apply State.setRegI_cells_of
      | apply State.addSample_cells_of | simp only [State.cells_mk, State.mem_cells] | split | dsimp only

theorem State.sendSync_cells_of {s₀ s : State} (hk : s.cells = s₀.cells) (p : Nat) :
    (State.sendSync s p).cells = s₀.cells := by
  unfold State.sendSync
  try dsimp only
  with_reducible
    repeat'
      first
      | assumption | intro u | apply ite_cells | apply ite_cells1 | apply ite_cells2 | apply foldl_cells
      | apply foldl_cells1 | apply foldl_cells2 | apply State.setPort_cells_of | apply State.sendCell_cells_of
      | simp only [State.cells_mk, State.mem_cells] | split | dsimp only

theorem State.setCamState_cells_of {s₀ s : State} (hk : s.cells = s₀.cells) (port : Nat) (st : Nat) :
    (State.setCamState s port st).cells = s₀.cells := by
  unfold State.setCamState
  try dsimp only
  with_reducible
    repeat'
      first
      | assumption | intro u | apply ite_cells | apply ite_cells1 | apply ite_cells2 | apply foldl_cells
      | apply foldl_cells1 | apply foldl_cells2 | apply State.setReg_cells_of | apply State.record_cells_of
      | simp only [State.cells_mk, State.mem_cells] | split | dsimp only

theorem State.enableCamPort_cells_of {s₀ s : State} (hk : s.cells = s₀.cells) (port : Nat) :
    (State.enableCamPort s port).cells = s₀.cells := by
  unfold State.enableCamPort
  try dsimp only
  with_reducible
    repeat'
      first
      | assumption | intro u | apply ite_cells | apply ite_cells1 | apply ite_cells2 | apply foldl_cells
      | apply foldl_cells1 | apply foldl_cells2 | apply State.setCamPort_cells_of
      | apply State.setCamState_cells_of | simp only [State.cells_mk, State.mem_cells] | split | dsimp only

theorem State.disableCamPort_cells_of {s₀ s : State} (hk : s.cells = s₀.cells) (port : Nat) :
    (State.disableCamPort s port).cells = s₀.cells := by
  unfold State.disableCamPort
  try dsimp only
  with_reducible
    repeat'
      first
      | assumption | intro u | apply ite_cells | apply ite_cells1 | apply ite_cells2 | apply foldl_cells
      | apply foldl_cells1 | apply foldl_cells2 | apply State.setReg_cells_of | apply State.setCamPort_cells_of
      | apply State.setCamState_cells_of | simp only [State.cells_mk, State.mem_cells] | split | dsimp only

theorem State.stray_cells_of {s₀ s : State} (hk : s.cells = s₀.cells) (port : Nat) (vc : Nat) :
    (State.stray s port vc).cells = s₀.cells := by
  unfold State.stray
  try dsimp only
  with_reducible
    repeat'
      first
      | assumption | intro u | apply ite_cells | apply ite_cells1 | apply ite_cells2 | apply foldl_cells
      | apply foldl_cells1 | apply foldl_cells2 | apply State.bump_cells_of
      | simp only [State.cells_mk, State.mem_cells] | split | dsimp only

theorem State.enableContext_cells_of {s₀ s : State} (hk : s.cells = s₀.cells) (c : Nat) :
    (State.enableContext s c).cells = s₀.cells := by
  unfold State.enableContext
  try dsimp only
  with_reducible
    repeat'
      first
      | assumption | intro u | apply ite_cells | apply ite_cells1 | apply ite_cells2 | apply foldl_cells
      | apply foldl_cells1 | apply foldl_cells2 | apply State.setCtx_cells_of
      | simp only [State.cells_mk, State.mem_cells] | split | dsimp only

theorem State.disableContext_cells_of {s₀ s : State} (hk : s.cells = s₀.cells) (c : Nat) :
    (State.disableContext s c).cells = s₀.cells := by
  unfold State.disableContext
  try dsimp only
  with_reducible
    repeat'
      first
      | assumption | intro u | apply ite_cells | apply ite_cells1 | apply ite_cells2 | apply foldl_cells
      | apply foldl_cells1 | apply foldl_cells2 | apply State.setCtx_cells_of
      | simp only [State.cells_mk, State.mem_cells] | split | dsimp only

theorem State.dropCamera_cells_of {s₀ s : State} (hk : s.cells = s₀.cells) (c : Nat) (seq : Nat) (code : Code) :
    (State.dropCamera s c seq code).cells = s₀.cells := by
  unfold State.dropCamera
  try dsimp only
  with_reducible
    repeat'
      first
      | assumption | intro u | apply ite_cells | apply ite_cells1 | apply ite_cells2 | apply foldl_cells
      | apply foldl_cells1 | apply foldl_cells2 | apply State.bump_cells_of | apply State.recordEvery_cells_of
      | simp only [State.cells_mk, State.mem_cells] | split | dsimp only

theorem State.markCamera_cells_of {s₀ s : State} (hk : s.cells = s₀.cells) (f : CamFrame) (bit : Nat) :
    (State.markCamera s f bit).1.cells = s₀.cells := by
  unfold State.markCamera
  try dsimp only
  with_reducible
    repeat'
      first
      | assumption | intro u | apply ite_cells | apply ite_cells1 | apply ite_cells2 | apply foldl_cells
      | apply foldl_cells1 | apply foldl_cells2 | apply State.bump_cells_of | apply State.recordEvery_cells_of
      | simp only [State.cells_mk, State.mem_cells] | split | dsimp only

theorem State.noteHeader_cells_of {s₀ s : State} (hk : s.cells = s₀.cells) (port : Nat) (vc : Nat) (ecc : Nat) :
    (State.noteHeader s port vc ecc).cells = s₀.cells := by
  unfold State.noteHeader
  try dsimp only
  with_reducible
    repeat'
      first
      | assumption | intro u | apply ite_cells | apply ite_cells1 | apply ite_cells2 | apply foldl_cells
      | apply foldl_cells1 | apply foldl_cells2 | apply State.bump_cells_of
      | simp only [State.cells_mk, State.mem_cells] | split | dsimp only

theorem State.markCurrent_cells_of {s₀ s : State} (hk : s.cells = s₀.cells) (bit : Nat) (c : Nat) :
    (State.markCurrent s bit c).cells = s₀.cells := by
  unfold State.markCurrent
  try dsimp only
  with_reducible
    repeat'
      first
      | assumption | intro u | apply ite_cells | apply ite_cells1 | apply ite_cells2 | apply foldl_cells
      | apply foldl_cells1 | apply foldl_cells2 | apply State.markCamera_cells_of | apply State.setCtx_cells_of
      | simp only [State.cells_mk, State.mem_cells] | split | dsimp only

theorem State.badHeader_cells_of {s₀ s : State} (hk : s.cells = s₀.cells) (port : Nat) :
    (State.badHeader s port).cells = s₀.cells := by
  unfold State.badHeader
  try dsimp only
  with_reducible
    repeat'
      first
      | assumption | intro u | apply ite_cells | apply ite_cells1 | apply ite_cells2 | apply foldl_cells
      | apply foldl_cells1 | apply foldl_cells2 | apply State.bump_cells_of | apply State.setCamPort_cells_of
      | apply State.markCurrent_cells_of | simp only [State.cells_mk, State.mem_cells] | split | dsimp only

theorem State.onPacket_cells_of {s₀ s : State} (hk : s.cells = s₀.cells) (port : Nat) (vc : Nat) (ecc : Nat) (f : State → State) (hf : ∀ u, u.cells = s₀.cells → (f u).cells = s₀.cells) :
    (State.onPacket s port vc ecc f).cells = s₀.cells := by
  unfold State.onPacket
  try dsimp only
  with_reducible
    repeat'
      first
      | assumption | intro u | apply ite_cells | apply ite_cells1 | apply ite_cells2 | apply foldl_cells
      | apply foldl_cells1 | apply foldl_cells2 | apply hf | apply State.stray_cells_of
      | apply State.badHeader_cells_of | apply State.noteHeader_cells_of
      | simp only [State.cells_mk, State.mem_cells] | split | dsimp only

theorem State.startExposure_cells_of {s₀ s : State} (hk : s.cells = s₀.cells) (c : Nat) :
    (State.startExposure s c).cells = s₀.cells := by
  unfold State.startExposure
  try dsimp only
  with_reducible
    repeat'
      first
      | assumption | intro u | apply ite_cells | apply ite_cells1 | apply ite_cells2 | apply foldl_cells
      | apply foldl_cells1 | apply foldl_cells2 | apply State.send_cells_of | apply State.setCtx_cells_of
      | apply State.recordEvery_cells_of | simp only [State.cells_mk, State.mem_cells] | split | dsimp only

theorem State.issueExposure_cells_of {s₀ s : State} (hk : s.cells = s₀.cells) (c : Nat) (lines : Nat) (analogue : Nat) (digital : Nat) :
    (State.issueExposure s c lines analogue digital).cells = s₀.cells := by
  unfold State.issueExposure
  try dsimp only
  with_reducible
    repeat'
      first
      | assumption | intro u | apply ite_cells | apply ite_cells1 | apply ite_cells2 | apply foldl_cells
      | apply foldl_cells1 | apply foldl_cells2 | apply State.setReg_cells_of | apply State.setCtx_cells_of
      | apply State.startExposure_cells_of | simp only [State.cells_mk, State.mem_cells] | split | dsimp only

theorem State.roundFree_cells_of {s₀ s : State} (hk : s.cells = s₀.cells) (a : Nat) (b : Nat) :
    (State.roundFree s a b).2.cells = s₀.cells := by
  unfold State.roundFree
  try dsimp only
  with_reducible
    repeat'
      first
      | assumption | intro u | apply ite_cells | apply ite_cells1 | apply ite_cells2 | apply foldl_cells
      | apply foldl_cells1 | apply foldl_cells2 | apply State.draw_cells_of
      | simp only [State.cells_mk, State.mem_cells] | split | dsimp only

theorem State.issueManual_cells_of {s₀ s : State} (hk : s.cells = s₀.cells) (c : Nat) :
    (State.issueManual s c).cells = s₀.cells := by
  unfold State.issueManual
  try dsimp only
  with_reducible
    repeat'
      first
      | assumption | intro u | apply ite_cells | apply ite_cells1 | apply ite_cells2 | apply foldl_cells
      | apply foldl_cells1 | apply foldl_cells2 | apply State.roundFree_cells_of
      | apply State.issueExposure_cells_of | simp only [State.cells_mk, State.mem_cells] | split | dsimp only

theorem State.exposureFailed_cells_of {s₀ s : State} (hk : s.cells = s₀.cells) (c : Nat) (released : Bool) :
    (State.exposureFailed s c released).cells = s₀.cells := by
  unfold State.exposureFailed
  try dsimp only
  with_reducible
    repeat'
      first
      | assumption | intro u | apply ite_cells | apply ite_cells1 | apply ite_cells2 | apply foldl_cells
      | apply foldl_cells1 | apply foldl_cells2 | apply State.record_cells_of | apply State.setCtx_cells_of
      | simp only [State.cells_mk, State.mem_cells] | split | dsimp only

theorem State.exposureDone_cells_of {s₀ s : State} (hk : s.cells = s₀.cells) (c : Nat) :
    (State.exposureDone s c).cells = s₀.cells := by
  unfold State.exposureDone
  try dsimp only
  with_reducible
    repeat'
      first
      | assumption | intro u | apply ite_cells | apply ite_cells1 | apply ite_cells2 | apply foldl_cells
      | apply foldl_cells1 | apply foldl_cells2 | apply State.setCtx_cells_of | apply State.startExposure_cells_of
      | simp only [State.cells_mk, State.mem_cells] | split | dsimp only

theorem State.takeStaging_cells_of {s₀ s : State} (hk : s.cells = s₀.cells) (c : Nat) :
    (State.takeStaging s c).2.cells = s₀.cells := by
  unfold State.takeStaging
  try dsimp only
  with_reducible
    repeat'
      first
      | assumption | intro u | apply ite_cells | apply ite_cells1 | apply ite_cells2 | apply foldl_cells
      | apply foldl_cells1 | apply foldl_cells2 | apply State.dropCamera_cells_of | apply State.setCtx_cells_of
      | simp only [State.cells_mk, State.mem_cells] | split | dsimp only

theorem State.endCamera_cells_of {s₀ s : State} (hk : s.cells = s₀.cells) (c : Nat) :
    (State.endCamera s c).cells = s₀.cells := by
  unfold State.endCamera
  try dsimp only
  with_reducible
    repeat'
      first
      | assumption | intro u | apply ite_cells | apply ite_cells1 | apply ite_cells2 | apply foldl_cells
      | apply foldl_cells1 | apply foldl_cells2 | apply State.markCamera_cells_of | apply State.setReg_cells_of
      | apply State.setCtx_cells_of | apply State.setCamPort_cells_of | simp only [State.cells_mk, State.mem_cells]
      | split | dsimp only

theorem State.contextBoundary_cells_of {s₀ s : State} (hk : s.cells = s₀.cells) (c : Nat) :
    (State.contextBoundary s c).cells = s₀.cells := by
  unfold State.contextBoundary
  try dsimp only
  with_reducible
    repeat'
      first
      | assumption | intro u | apply ite_cells | apply ite_cells1 | apply ite_cells2 | apply foldl_cells
      | apply foldl_cells1 | apply foldl_cells2 | apply State.applyDue_cells_of | apply State.setCtx_cells_of
      | apply State.issueManual_cells_of | simp only [State.cells_mk, State.mem_cells] | split | dsimp only

theorem State.startCamera_cells_of {s₀ s : State} (hk : s.cells = s₀.cells) (c : Nat) :
    (State.startCamera s c).cells = s₀.cells := by
  unfold State.startCamera
  try dsimp only
  with_reducible
    repeat'
      first
      | assumption | intro u | apply ite_cells | apply ite_cells1 | apply ite_cells2 | apply foldl_cells
      | apply foldl_cells1 | apply foldl_cells2 | apply State.endCamera_cells_of
      | apply State.contextBoundary_cells_of | apply State.setReg_cells_of | apply State.countFrame_cells_of
      | apply State.setCtx_cells_of | apply State.dropCamera_cells_of | apply State.takeStaging_cells_of
      | apply State.applyFrozen_cells_of | simp only [State.cells_mk, State.mem_cells] | split | dsimp only

theorem State.takeOutput_cells_of {s₀ s : State} (hk : s.cells = s₀.cells) (f : CamFrame) (slot : Nat) :
    (State.takeOutput s f slot).2.cells = s₀.cells := by
  unfold State.takeOutput
  try dsimp only
  with_reducible
    repeat'
      first
      | assumption | intro u | apply ite_cells | apply ite_cells1 | apply ite_cells2 | apply foldl_cells
      | apply foldl_cells1 | apply foldl_cells2 | apply State.takeFree_cells_of | apply State.setIngot_cells_of
      | simp only [State.cells_mk, State.mem_cells] | split | dsimp only

theorem State.aeStep_cells_of {s₀ s : State} (hk : s.cells = s₀.cells) (c : Nat) (e : ExpGen) (blk : Bytes) :
    (State.aeStep s c e blk).cells = s₀.cells := by
  unfold State.aeStep
  try dsimp only
  with_reducible
    repeat'
      first
      | assumption | intro u | apply ite_cells | apply ite_cells1 | apply ite_cells2 | apply foldl_cells
      | apply foldl_cells1 | apply foldl_cells2 | apply State.roundFree_cells_of
      | apply State.issueExposure_cells_of | simp only [State.cells_mk, State.mem_cells] | split | dsimp only

theorem State.awbStep_cells_of {s₀ s : State} (hk : s.cells = s₀.cells) (c : Nat) (blk : Bytes) :
    (State.awbStep s c blk).cells = s₀.cells := by
  unfold State.awbStep
  try dsimp only
  with_reducible
    repeat'
      first
      | assumption | intro u | apply ite_cells | apply ite_cells1 | apply ite_cells2 | apply foldl_cells
      | apply foldl_cells1 | apply foldl_cells2 | apply State.roundFree_cells_of | apply State.setCtx_cells_of
      | simp only [State.cells_mk, State.mem_cells] | split | dsimp only

theorem temperOp_cells_of {s₀ s : State} (hk : s.cells = s₀.cells)  (ss i : Nat) (v : Val) :
    (temperOp  s ss i v).1.cells = s₀.cells := by
  unfold temperOp
  try dsimp only
  with_reducible
    repeat'
      first
      | assumption | intro u | apply ite_cells | apply ite_cells1 | apply ite_cells2 | apply foldl_cells
      | apply foldl_cells1 | apply foldl_cells2 | apply State.setShadow_cells_of
      | simp only [State.cells_mk, State.mem_cells] | split | dsimp only

theorem profileOp_cells_of {s₀ s : State} (hk : s.cells = s₀.cells)  (ss i : Nat) (v : Val) :
    (profileOp  s ss i v).1.cells = s₀.cells := by
  unfold profileOp
  try dsimp only
  with_reducible
    repeat'
      first
      | assumption | intro u | apply ite_cells | apply ite_cells1 | apply ite_cells2 | apply foldl_cells
      | apply foldl_cells1 | apply foldl_cells2 | apply State.setShadow_cells_of
      | simp only [State.cells_mk, State.mem_cells] | split | dsimp only

theorem hostTransferOp_cells_of {s₀ s : State} (hk : s.cells = s₀.cells)  (ss i : Nat) (v : Val) :
    (hostTransferOp  s ss i v).1.cells = s₀.cells := by
  unfold hostTransferOp
  try dsimp only
  with_reducible
    repeat'
      first
      | assumption | intro u | apply ite_cells | apply ite_cells1 | apply ite_cells2 | apply foldl_cells
      | apply foldl_cells1 | apply foldl_cells2 | apply State.setReg_cells_of | apply State.setCamPort_cells_of
      | simp only [State.cells_mk, State.mem_cells] | split | dsimp only

theorem State.endHost_cells_of {s₀ s : State} (hk : s.cells = s₀.cells) (port : Nat) (result : Nat) :
    (State.endHost s port result).cells = s₀.cells := by
  unfold State.endHost
  try dsimp only
  with_reducible
    repeat'
      first
      | assumption | intro u | apply ite_cells | apply ite_cells1 | apply ite_cells2 | apply foldl_cells
      | apply foldl_cells1 | apply foldl_cells2 | apply State.setCamPort_cells_of | apply State.setReg_cells_of
      | simp only [State.cells_mk, State.mem_cells] | split | dsimp only

theorem State.frameEnd_cells_of {s₀ s : State} (hk : s.cells = s₀.cells) (c : Nat) :
    (State.frameEnd s c).cells = s₀.cells := by
  unfold State.frameEnd
  try dsimp only
  with_reducible
    repeat'
      first
      | assumption | intro u | apply ite_cells | apply ite_cells1 | apply ite_cells2 | apply foldl_cells
      | apply foldl_cells1 | apply foldl_cells2 | apply State.endCamera_cells_of | apply State.setCtx_cells_of
      | apply State.startExposure_cells_of | simp only [State.cells_mk, State.mem_cells] | split | dsimp only

theorem State.setSpareNv_cells_of {s₀ s : State} (hk : s.cells = s₀.cells) (n : NvCopy) :
    (State.setSpareNv s n).cells = s₀.cells := by
  unfold State.setSpareNv
  try dsimp only
  with_reducible
    repeat'
      first
      | assumption | intro u | apply ite_cells | apply ite_cells1 | apply ite_cells2 | apply foldl_cells
      | apply foldl_cells1 | apply foldl_cells2 | simp only [State.cells_mk, State.mem_cells] | split | dsimp only

theorem State.writeNv_cells_of {s₀ s : State} (hk : s.cells = s₀.cells) (e : StoreEnd) (key : Nat) (f : NvCopy → NvCopy) :
    (State.writeNv s e key f).1.cells = s₀.cells := by
  unfold State.writeNv
  try dsimp only
  with_reducible
    repeat'
      first
      | assumption | intro u | apply ite_cells | apply ite_cells1 | apply ite_cells2 | apply foldl_cells
      | apply foldl_cells1 | apply foldl_cells2 | apply State.setSpareNv_cells_of | apply State.setReg_cells_of
      | apply State.record_cells_of | simp only [State.cells_mk, State.mem_cells] | split | dsimp only

theorem State.setKeyState_cells_of {s₀ s : State} (hk : s.cells = s₀.cells) (k : Nat) (st : Nat) :
    (State.setKeyState s k st).cells = s₀.cells := by
  unfold State.setKeyState
  try dsimp only
  with_reducible
    repeat'
      first
      | assumption | intro u | apply ite_cells | apply ite_cells1 | apply ite_cells2 | apply foldl_cells
      | apply foldl_cells1 | apply foldl_cells2 | apply State.setReg_cells_of
      | simp only [State.cells_mk, State.mem_cells] | split | dsimp only

theorem State.noteSignal_cells_of {s₀ s : State} (hk : s.cells = s₀.cells) (k : Nat) (base : Nat) (raw : Nat) :
    (State.noteSignal s k base raw).cells = s₀.cells := by
  unfold State.noteSignal
  try dsimp only
  with_reducible
    repeat'
      first
      | assumption | intro u | apply ite_cells | apply ite_cells1 | apply ite_cells2 | apply foldl_cells
      | apply foldl_cells1 | apply foldl_cells2 | apply State.setKey_cells_of | apply State.setRegI_cells_of
      | apply State.setReg_cells_of | simp only [State.cells_mk, State.mem_cells] | split | dsimp only

theorem State.queueKey_cells_of {s₀ s : State} (hk : s.cells = s₀.cells) (k : Nat) (kind : Nat) (reason : Nat) :
    (State.queueKey s k kind reason).cells = s₀.cells := by
  unfold State.queueKey
  try dsimp only
  with_reducible
    repeat'
      first
      | assumption | intro u | apply ite_cells | apply ite_cells1 | apply ite_cells2 | apply foldl_cells
      | apply foldl_cells1 | apply foldl_cells2 | apply State.bump_cells_of | apply State.recordLimited_cells_of
      | apply State.send_cells_of | simp only [State.cells_mk, State.mem_cells] | split | dsimp only

theorem State.takeKeyRecords_cells_of {s₀ s : State} (hk : s.cells = s₀.cells)  :
    (State.takeKeyRecords s).2.cells = s₀.cells := by
  unfold State.takeKeyRecords
  try dsimp only
  with_reducible
    repeat'
      first
      | assumption | intro u | apply ite_cells | apply ite_cells1 | apply ite_cells2 | apply foldl_cells
      | apply foldl_cells1 | apply foldl_cells2 | apply State.send_cells_of
      | simp only [State.cells_mk, State.mem_cells] | split | dsimp only

theorem State.clearCounts_cells_of {s₀ s : State} (hk : s.cells = s₀.cells) (k : Nat) :
    (State.clearCounts s k).cells = s₀.cells := by
  unfold State.clearCounts
  try dsimp only
  with_reducible
    repeat'
      first
      | assumption | intro u | apply ite_cells | apply ite_cells1 | apply ite_cells2 | apply foldl_cells
      | apply foldl_cells1 | apply foldl_cells2 | apply State.setKey_cells_of
      | simp only [State.cells_mk, State.mem_cells] | split | dsimp only

theorem State.recalibrate_cells_of {s₀ s : State} (hk : s.cells = s₀.cells) (k : Nat) :
    (State.recalibrate s k).cells = s₀.cells := by
  unfold State.recalibrate
  try dsimp only
  with_reducible
    repeat'
      first
      | assumption | intro u | apply ite_cells | apply ite_cells1 | apply ite_cells2 | apply foldl_cells
      | apply foldl_cells1 | apply foldl_cells2 | apply State.setReg_cells_of | apply State.clearCounts_cells_of
      | apply State.bump_cells_of | simp only [State.cells_mk, State.mem_cells] | split | dsimp only

theorem State.releaseKey_cells_of {s₀ s : State} (hk : s.cells = s₀.cells) (k : Nat) (reason : Nat) (st : Nat) :
    (State.releaseKey s k reason st).cells = s₀.cells := by
  unfold State.releaseKey
  try dsimp only
  with_reducible
    repeat'
      first
      | assumption | intro u | apply ite_cells | apply ite_cells1 | apply ite_cells2 | apply foldl_cells
      | apply foldl_cells1 | apply foldl_cells2 | apply State.queueKey_cells_of | apply State.clearCounts_cells_of
      | apply State.setKeyState_cells_of | simp only [State.cells_mk, State.mem_cells] | split | dsimp only

theorem State.withhold_cells_of {s₀ s : State} (hk : s.cells = s₀.cells) (k : Nat) :
    (State.withhold s k).cells = s₀.cells := by
  unfold State.withhold
  try dsimp only
  with_reducible
    repeat'
      first
      | assumption | intro u | apply ite_cells | apply ite_cells1 | apply ite_cells2 | apply foldl_cells
      | apply foldl_cells1 | apply foldl_cells2 | apply State.clearCounts_cells_of
      | apply State.setKeyState_cells_of | apply State.releaseKey_cells_of
      | simp only [State.cells_mk, State.mem_cells] | split | dsimp only

theorem State.groupScan_cells_of {s₀ s : State} (hk : s.cells = s₀.cells) (g : Nat) :
    (State.groupScan s g).cells = s₀.cells := by
  unfold State.groupScan
  try dsimp only
  with_reducible
    repeat'
      first
      | assumption | intro u | apply ite_cells | apply ite_cells1 | apply ite_cells2 | apply foldl_cells
      | apply foldl_cells1 | apply foldl_cells2 | apply State.withhold_cells_of | apply State.clearCounts_cells_of
      | apply State.setKeyState_cells_of | apply State.setReg_cells_of | apply State.record_cells_of
      | apply State.queueKey_cells_of | apply State.bump_cells_of | simp only [State.cells_mk, State.mem_cells]
      | split | dsimp only

theorem State.releaseStep_cells_of {s₀ s : State} (hk : s.cells = s₀.cells) (k : Nat) :
    (State.releaseStep s k).cells = s₀.cells := by
  unfold State.releaseStep
  try dsimp only
  with_reducible
    repeat'
      first
      | assumption | intro u | apply ite_cells | apply ite_cells1 | apply ite_cells2 | apply foldl_cells
      | apply foldl_cells1 | apply foldl_cells2 | apply State.setKey_cells_of | apply State.releaseKey_cells_of
      | apply State.recalibrate_cells_of | apply State.setKeyState_cells_of
      | simp only [State.cells_mk, State.mem_cells] | split | dsimp only

theorem State.expiryStep_cells_of {s₀ s : State} (hk : s.cells = s₀.cells) (k : Nat) :
    (State.expiryStep s k).cells = s₀.cells := by
  unfold State.expiryStep
  try dsimp only
  with_reducible
    repeat'
      first
      | assumption | intro u | apply ite_cells | apply ite_cells1 | apply ite_cells2 | apply foldl_cells
      | apply foldl_cells1 | apply foldl_cells2 | apply State.releaseKey_cells_of | apply State.setReg_cells_of
      | apply State.bump_cells_of | apply State.record_cells_of | simp only [State.cells_mk, State.mem_cells]
      | split | dsimp only

theorem State.pressStep_cells_of {s₀ s : State} (hk : s.cells = s₀.cells) (k : Nat) :
    (State.pressStep s k).cells = s₀.cells := by
  unfold State.pressStep
  try dsimp only
  with_reducible
    repeat'
      first
      | assumption | intro u | apply ite_cells | apply ite_cells1 | apply ite_cells2 | apply foldl_cells
      | apply foldl_cells1 | apply foldl_cells2 | apply State.setKey_cells_of | apply State.clearCounts_cells_of
      | apply State.setKeyState_cells_of | apply State.queueKey_cells_of
      | simp only [State.cells_mk, State.mem_cells] | split | dsimp only

theorem State.baselineStep_cells_of {s₀ s : State} (hk : s.cells = s₀.cells) (k : Nat) :
    (State.baselineStep s k).cells = s₀.cells := by
  unfold State.baselineStep
  try dsimp only
  with_reducible
    repeat'
      first
      | assumption | intro u | apply ite_cells | apply ite_cells1 | apply ite_cells2 | apply foldl_cells
      | apply foldl_cells1 | apply foldl_cells2 | apply State.recalibrate_cells_of
      | apply State.setKeyState_cells_of | apply State.setKey_cells_of | apply State.setReg_cells_of
      | simp only [State.cells_mk, State.mem_cells] | split | dsimp only

theorem State.faultStep_cells_of {s₀ s : State} (hk : s.cells = s₀.cells) (k : Nat) :
    (State.faultStep s k).cells = s₀.cells := by
  unfold State.faultStep
  try dsimp only
  with_reducible
    repeat'
      first
      | assumption | intro u | apply ite_cells | apply ite_cells1 | apply ite_cells2 | apply foldl_cells
      | apply foldl_cells1 | apply foldl_cells2 | apply State.setKey_cells_of | apply State.setReg_cells_of
      | apply State.clearCounts_cells_of | apply State.setKeyState_cells_of | apply State.record_cells_of
      | simp only [State.cells_mk, State.mem_cells] | split | dsimp only

theorem State.startStep_cells_of {s₀ s : State} (hk : s.cells = s₀.cells) (k : Nat) :
    (State.startStep s k).cells = s₀.cells := by
  unfold State.startStep
  try dsimp only
  with_reducible
    repeat'
      first
      | assumption | intro u | apply ite_cells | apply ite_cells1 | apply ite_cells2 | apply foldl_cells
      | apply foldl_cells1 | apply foldl_cells2 | apply State.setReg_cells_of | apply State.noteSignal_cells_of
      | apply State.setKeyState_cells_of | apply State.record_cells_of | apply State.queueKey_cells_of
      | apply State.setKey_cells_of | simp only [State.cells_mk, State.mem_cells] | split | dsimp only

theorem State.readKey_cells_of {s₀ s : State} (hk : s.cells = s₀.cells) (k : Nat) (raw : Nat) :
    (State.readKey s k raw).cells = s₀.cells := by
  unfold State.readKey
  try dsimp only
  with_reducible
    repeat'
      first
      | assumption | intro u | apply ite_cells | apply ite_cells1 | apply ite_cells2 | apply foldl_cells
      | apply foldl_cells1 | apply foldl_cells2 | apply State.queueKey_cells_of | apply State.setKey_cells_of
      | apply State.setKeyState_cells_of | apply State.setReg_cells_of | apply State.startStep_cells_of
      | apply State.faultStep_cells_of | apply State.noteSignal_cells_of
      | simp only [State.cells_mk, State.mem_cells] | split | dsimp only

theorem State.scanKey_cells_of {s₀ s : State} (hk : s.cells = s₀.cells) (k : Nat) :
    (State.scanKey s k).cells = s₀.cells := by
  unfold State.scanKey
  try dsimp only
  with_reducible
    repeat'
      first
      | assumption | intro u | apply ite_cells | apply ite_cells1 | apply ite_cells2 | apply foldl_cells
      | apply foldl_cells1 | apply foldl_cells2 | apply State.releaseStep_cells_of
      | apply State.expiryStep_cells_of | apply State.pressStep_cells_of | apply State.baselineStep_cells_of
      | simp only [State.cells_mk, State.mem_cells] | split | dsimp only

theorem State.noteActivity_cells_of {s₀ s : State} (hk : s.cells = s₀.cells)  :
    (State.noteActivity s).cells = s₀.cells := by
  unfold State.noteActivity
  try dsimp only
  with_reducible
    repeat'
      first
      | assumption | intro u | apply ite_cells | apply ite_cells1 | apply ite_cells2 | apply foldl_cells
      | apply foldl_cells1 | apply foldl_cells2 | simp only [State.cells_mk, State.mem_cells] | split | dsimp only

theorem State.noteGating_cells_of {s₀ s : State} (hk : s.cells = s₀.cells)  :
    (State.noteGating s).cells = s₀.cells := by
  unfold State.noteGating
  try dsimp only
  with_reducible
    repeat'
      first
      | assumption | intro u | apply ite_cells | apply ite_cells1 | apply ite_cells2 | apply foldl_cells
      | apply foldl_cells1 | apply foldl_cells2 | apply State.record_cells_of
      | simp only [State.cells_mk, State.mem_cells] | split | dsimp only

theorem State.keyBoundary_cells_of {s₀ s : State} (hk : s.cells = s₀.cells)  :
    (State.keyBoundary s).cells = s₀.cells := by
  unfold State.keyBoundary
  try dsimp only
  with_reducible
    repeat'
      first
      | assumption | intro u | apply ite_cells | apply ite_cells1 | apply ite_cells2 | apply foldl_cells
      | apply foldl_cells1 | apply foldl_cells2 | apply State.applyDue_cells_of | apply State.noteGating_cells_of
      | simp only [State.cells_mk, State.mem_cells] | split | dsimp only

theorem State.scheduleGate_cells_of {s₀ s : State} (hk : s.cells = s₀.cells) (t : Nat) :
    (State.scheduleGate s t).cells = s₀.cells := by
  unfold State.scheduleGate
  try dsimp only
  with_reducible
    repeat'
      first
      | assumption | intro u | apply ite_cells | apply ite_cells1 | apply ite_cells2 | apply foldl_cells
      | apply foldl_cells1 | apply foldl_cells2 | simp only [State.cells_mk, State.mem_cells] | split | dsimp only

theorem State.gate_cells_of {s₀ s : State} (hk : s.cells = s₀.cells) (opened : Nat) (raw : List Nat) :
    (State.gate s opened raw).cells = s₀.cells := by
  unfold State.gate
  try dsimp only
  with_reducible
    repeat'
      first
      | assumption | intro u | apply ite_cells | apply ite_cells1 | apply ite_cells2 | apply foldl_cells
      | apply foldl_cells1 | apply foldl_cells2 | apply State.keyBoundary_cells_of
      | apply State.noteActivity_cells_of | apply State.readKey_cells_of | apply State.groupScan_cells_of
      | apply State.scanKey_cells_of | apply State.scheduleGate_cells_of | apply State.setReady_cells_of
      | simp only [State.cells_mk, State.mem_cells] | split | dsimp only

theorem State.startSave_cells_of {s₀ s : State} (hk : s.cells = s₀.cells)  :
    (State.startSave s).cells = s₀.cells := by
  unfold State.startSave
  try dsimp only
  with_reducible
    repeat'
      first
      | assumption | intro u | apply ite_cells | apply ite_cells1 | apply ite_cells2 | apply foldl_cells
      | apply foldl_cells1 | apply foldl_cells2 | simp only [State.cells_mk, State.mem_cells] | split | dsimp only

theorem saveBaselinesOp_cells_of {s₀ s : State} (hk : s.cells = s₀.cells)  (ss i : Nat) (v : Val) :
    (saveBaselinesOp  s ss i v).1.cells = s₀.cells := by
  unfold saveBaselinesOp
  try dsimp only
  with_reducible
    repeat'
      first
      | assumption | intro u | apply ite_cells | apply ite_cells1 | apply ite_cells2 | apply foldl_cells
      | apply foldl_cells1 | apply foldl_cells2 | apply State.startSave_cells_of
      | simp only [State.cells_mk, State.mem_cells] | split | dsimp only

theorem State.endSave_cells_of {s₀ s : State} (hk : s.cells = s₀.cells) (bs : Tbl Nat) (e : StoreEnd) :
    (State.endSave s bs e).cells = s₀.cells := by
  unfold State.endSave
  try dsimp only
  with_reducible
    repeat'
      first
      | assumption | intro u | apply ite_cells | apply ite_cells1 | apply ite_cells2 | apply foldl_cells
      | apply foldl_cells1 | apply foldl_cells2 | apply State.writeNv_cells_of | apply State.setReg_cells_of
      | simp only [State.cells_mk, State.mem_cells] | split | dsimp only

theorem State.leaveScan_cells_of {s₀ s : State} (hk : s.cells = s₀.cells) (u : Nat) (st : Nat) :
    (State.leaveScan s u st).cells = s₀.cells := by
  unfold State.leaveScan
  try dsimp only
  with_reducible
    repeat'
      first
      | assumption | intro u | apply ite_cells | apply ite_cells1 | apply ite_cells2 | apply foldl_cells
      | apply foldl_cells1 | apply foldl_cells2 | apply State.setScan_cells_of | apply State.setReg_cells_of
      | apply State.dropRef_cells_of | simp only [State.cells_mk, State.mem_cells] | split | dsimp only

theorem scanFieldOp_cells_of {s₀ s : State} (hk : s.cells = s₀.cells) (key : Nat) (ss i : Nat) (v : Val) :
    (scanFieldOp key s ss i v).1.cells = s₀.cells := by
  unfold scanFieldOp
  try dsimp only
  with_reducible
    repeat'
      first
      | assumption | intro u | apply ite_cells | apply ite_cells1 | apply ite_cells2 | apply foldl_cells
      | apply foldl_cells1 | apply foldl_cells2 | apply writePlain_cells_of
      | simp only [State.cells_mk, State.mem_cells] | split | dsimp only

theorem State.foldBurst_cells_of {s₀ s : State} (hk : s.cells = s₀.cells) (u : Nat) (beats : Bytes) :
    (State.foldBurst s u beats).cells = s₀.cells := by
  unfold State.foldBurst
  try dsimp only
  with_reducible
    repeat'
      first
      | assumption | intro u | apply ite_cells | apply ite_cells1 | apply ite_cells2 | apply foldl_cells
      | apply foldl_cells1 | apply foldl_cells2 | apply State.setScan_cells_of | apply State.setReg_cells_of
      | apply State.leaveScan_cells_of | apply State.send_cells_of | apply State.record_cells_of
      | simp only [State.cells_mk, State.mem_cells] | split | dsimp only

theorem State.failScan_cells_of {s₀ s : State} (hk : s.cells = s₀.cells) (u : Nat) (c : Code) :
    (State.failScan s u c).cells = s₀.cells := by
  unfold State.failScan
  try dsimp only
  with_reducible
    repeat'
      first
      | assumption | intro u | apply ite_cells | apply ite_cells1 | apply ite_cells2 | apply foldl_cells
      | apply foldl_cells1 | apply foldl_cells2 | apply State.leaveScan_cells_of | apply State.setBlob_cells_of
      | apply State.send_cells_of | apply State.record_cells_of | simp only [State.cells_mk, State.mem_cells]
      | split | dsimp only

theorem State.noteCorrected_cells_of {s₀ s : State} (hk : s.cells = s₀.cells) (a : Nat) :
    (State.noteCorrected s a).cells = s₀.cells := by
  unfold State.noteCorrected
  try dsimp only
  with_reducible
    repeat'
      first
      | assumption | intro u | apply ite_cells | apply ite_cells1 | apply ite_cells2 | apply foldl_cells
      | apply foldl_cells1 | apply foldl_cells2 | apply State.correctedError_cells_of | apply State.bump_cells_of
      | simp only [State.cells_mk, State.mem_cells] | split | dsimp only

theorem State.withWaiting_cells_of {s₀ s : State} (hk : s.cells = s₀.cells)  :
    (State.withWaiting s).cells = s₀.cells := by
  unfold State.withWaiting
  try dsimp only
  with_reducible
    repeat'
      first
      | assumption | intro u | apply ite_cells | apply ite_cells1 | apply ite_cells2 | apply foldl_cells
      | apply foldl_cells1 | apply foldl_cells2 | apply State.applyFields_cells_of
      | simp only [State.cells_mk, State.mem_cells] | split | dsimp only

theorem State.settleDomain_cells_of {s₀ s : State} (hk : s.cells = s₀.cells) (w : State) (d : Nat) :
    (State.settleDomain s w d).cells = s₀.cells := by
  unfold State.settleDomain
  try dsimp only
  with_reducible
    repeat'
      first
      | assumption | intro u | apply ite_cells | apply ite_cells1 | apply ite_cells2 | apply foldl_cells
      | apply foldl_cells1 | apply foldl_cells2 | apply State.setReg_cells_of | apply State.bump_cells_of
      | simp only [State.cells_mk, State.mem_cells] | split | dsimp only

theorem State.settlePower_cells_of {s₀ s : State} (hk : s.cells = s₀.cells)  :
    (State.settlePower s).cells = s₀.cells := by
  unfold State.settlePower
  try dsimp only
  with_reducible
    repeat'
      first
      | assumption | intro u | apply ite_cells | apply ite_cells1 | apply ite_cells2 | apply foldl_cells
      | apply foldl_cells1 | apply foldl_cells2 | apply State.settleDomain_cells_of
      | apply State.withWaiting_cells_of | simp only [State.cells_mk, State.mem_cells] | split | dsimp only

theorem State.tryStartPort_cells_of {s₀ s : State} (hk : s.cells = s₀.cells) (p : Nat) :
    (State.tryStartPort s p).cells = s₀.cells := by
  unfold State.tryStartPort
  try dsimp only
  with_reducible
    repeat'
      first
      | assumption | intro u | apply ite_cells | apply ite_cells1 | apply ite_cells2 | apply foldl_cells
      | apply foldl_cells1 | apply foldl_cells2 | apply State.startPort_cells_of
      | simp only [State.cells_mk, State.mem_cells] | split | dsimp only

theorem State.clearDerived_cells_of {s₀ s : State} (hk : s.cells = s₀.cells)  :
    (State.clearDerived s).cells = s₀.cells := by
  unfold State.clearDerived
  try dsimp only
  with_reducible
    repeat'
      first
      | assumption | intro u | apply ite_cells | apply ite_cells1 | apply ite_cells2 | apply foldl_cells
      | apply foldl_cells1 | apply foldl_cells2 | simp only [State.cells_mk, State.mem_cells] | split | dsimp only

theorem State.installEngines_cells_of {s₀ s : State} (hk : s.cells = s₀.cells) (as : List (Nat × Nat × Nat)) :
    (State.installEngines s as).cells = s₀.cells := by
  unfold State.installEngines
  try dsimp only
  with_reducible
    repeat'
      first
      | assumption | intro u | apply ite_cells | apply ite_cells1 | apply ite_cells2 | apply foldl_cells
      | apply foldl_cells1 | apply foldl_cells2 | apply State.setReg_cells_of
      | simp only [State.cells_mk, State.mem_cells] | split | dsimp only

theorem State.configPlan_cells_of {s₀ s : State} (hk : s.cells = s₀.cells) (p : Plan) :
    (State.configPlan s p).cells = s₀.cells := by
  unfold State.configPlan
  try dsimp only
  with_reducible
    repeat'
      first
      | assumption | intro u | apply ite_cells | apply ite_cells1 | apply ite_cells2 | apply foldl_cells
      | apply foldl_cells1 | apply foldl_cells2 | apply State.clearDerived_cells_of
      | apply State.applyFields_cells_of | apply State.installEngines_cells_of
      | simp only [State.cells_mk, State.mem_cells] | split | dsimp only

theorem State.abandonWriteback_cells_of {s₀ s : State} (hk : s.cells = s₀.cells) (e : Nat) :
    (State.abandonWriteback s e).cells = s₀.cells := by
  unfold State.abandonWriteback
  try dsimp only
  with_reducible
    repeat'
      first
      | assumption | intro u | apply ite_cells | apply ite_cells1 | apply ite_cells2 | apply foldl_cells
      | apply foldl_cells1 | apply foldl_cells2 | apply State.abandon_cells_of | apply State.setEngine_cells_of
      | apply State.bump_cells_of | apply State.recordEvery_cells_of | simp only [State.cells_mk, State.mem_cells]
      | split | dsimp only

theorem State.abandonRx_cells_of {s₀ s : State} (hk : s.cells = s₀.cells) (p : Nat) (i : Nat) :
    (State.abandonRx s p i).cells = s₀.cells := by
  unfold State.abandonRx
  try dsimp only
  with_reducible
    repeat'
      first
      | assumption | intro u | apply ite_cells | apply ite_cells1 | apply ite_cells2 | apply foldl_cells
      | apply foldl_cells1 | apply foldl_cells2 | apply State.abandon_cells_of | apply State.setRx_cells_of
      | apply State.dropFrame_cells_of | apply State.setPort_cells_of | simp only [State.cells_mk, State.mem_cells]
      | split | dsimp only

theorem State.installSets_cells_of {s₀ s : State} (hk : s.cells = s₀.cells) (planned : List (Nat × Source)) :
    (State.installSets s planned).cells = s₀.cells := by
  unfold State.installSets
  try dsimp only
  with_reducible
    repeat'
      first
      | assumption | intro u | apply ite_cells | apply ite_cells1 | apply ite_cells2 | apply foldl_cells
      | apply foldl_cells1 | apply foldl_cells2 | apply State.retireSet_cells_of | apply State.setSlot_cells_of
      | apply State.newSet_cells_of | simp only [State.cells_mk, State.mem_cells] | split | dsimp only

theorem State.renewGroups_cells_of {s₀ s : State} (hk : s.cells = s₀.cells) (old : State) :
    (State.renewGroups s old).cells = s₀.cells := by
  unfold State.renewGroups
  try dsimp only
  with_reducible
    repeat'
      first
      | assumption | intro u | apply ite_cells | apply ite_cells1 | apply ite_cells2 | apply foldl_cells
      | apply foldl_cells1 | apply foldl_cells2 | simp only [State.cells_mk, State.mem_cells] | split | dsimp only

theorem State.noteBanks_cells_of {s₀ s : State} (hk : s.cells = s₀.cells)  :
    (State.noteBanks s).cells = s₀.cells := by
  unfold State.noteBanks
  try dsimp only
  with_reducible
    repeat'
      first
      | assumption | intro u | apply ite_cells | apply ite_cells1 | apply ite_cells2 | apply foldl_cells
      | apply foldl_cells1 | apply foldl_cells2 | apply State.setReg_cells_of
      | simp only [State.cells_mk, State.mem_cells] | split | dsimp only

theorem State.noteWritebacks_cells_of {s₀ s : State} (hk : s.cells = s₀.cells)  :
    (State.noteWritebacks s).cells = s₀.cells := by
  unfold State.noteWritebacks
  try dsimp only
  with_reducible
    repeat'
      first
      | assumption | intro u | apply ite_cells | apply ite_cells1 | apply ite_cells2 | apply foldl_cells
      | apply foldl_cells1 | apply foldl_cells2 | apply State.record_cells_of
      | simp only [State.cells_mk, State.mem_cells] | split | dsimp only

theorem State.breakFrames_cells_of {s₀ s : State} (hk : s.cells = s₀.cells) (p : Nat) :
    (State.breakFrames s p).cells = s₀.cells := by
  unfold State.breakFrames
  try dsimp only
  with_reducible
    repeat'
      first
      | assumption | intro u | apply ite_cells | apply ite_cells1 | apply ite_cells2 | apply foldl_cells
      | apply foldl_cells1 | apply foldl_cells2 | apply State.setOutput_cells_of
      | simp only [State.cells_mk, State.mem_cells] | split | dsimp only

theorem State.trainDp_cells_of {s₀ s : State} (hk : s.cells = s₀.cells) (p : Nat) (k : Sink) :
    (State.trainDp s p k).cells = s₀.cells := by
  unfold State.trainDp
  try dsimp only
  with_reducible
    repeat'
      first
      | assumption | intro u | apply ite_cells | apply ite_cells1 | apply ite_cells2 | apply foldl_cells
      | apply foldl_cells1 | apply foldl_cells2 | apply State.setReg_cells_of | apply State.setBlob_cells_of
      | apply State.breakFrames_cells_of | simp only [State.cells_mk, State.mem_cells] | split | dsimp only

theorem State.startEgress_cells_of {s₀ s : State} (hk : s.cells = s₀.cells) (o : Nat) :
    (State.startEgress s o).cells = s₀.cells := by
  unfold State.startEgress
  try dsimp only
  with_reducible
    repeat'
      first
      | assumption | intro u | apply ite_cells | apply ite_cells1 | apply ite_cells2 | apply foldl_cells
      | apply foldl_cells1 | apply foldl_cells2 | apply State.setReg_cells_of | apply State.trainDp_cells_of
      | simp only [State.cells_mk, State.mem_cells] | split | dsimp only

theorem State.stopEgress_cells_of {s₀ s : State} (hk : s.cells = s₀.cells) (o : Nat) :
    (State.stopEgress s o).cells = s₀.cells := by
  unfold State.stopEgress
  try dsimp only
  with_reducible
    repeat'
      first
      | assumption | intro u | apply ite_cells | apply ite_cells1 | apply ite_cells2 | apply foldl_cells
      | apply foldl_cells1 | apply foldl_cells2 | apply State.setReg_cells_of
      | simp only [State.cells_mk, State.mem_cells] | split | dsimp only

theorem State.enableOutput_cells_of {s₀ s : State} (hk : s.cells = s₀.cells) (wf : Nat) (o : Nat) :
    (State.enableOutput s wf o).cells = s₀.cells := by
  unfold State.enableOutput
  try dsimp only
  with_reducible
    repeat'
      first
      | assumption | intro u | apply ite_cells | apply ite_cells1 | apply ite_cells2 | apply foldl_cells
      | apply foldl_cells1 | apply foldl_cells2 | apply State.setOutput_cells_of | apply State.startEgress_cells_of
      | simp only [State.cells_mk, State.mem_cells] | split | dsimp only

theorem State.disableOutput_cells_of {s₀ s : State} (hk : s.cells = s₀.cells) (o : Nat) :
    (State.disableOutput s o).cells = s₀.cells := by
  unfold State.disableOutput
  try dsimp only
  with_reducible
    repeat'
      first
      | assumption | intro u | apply ite_cells | apply ite_cells1 | apply ite_cells2 | apply foldl_cells
      | apply foldl_cells1 | apply foldl_cells2 | apply State.setOutput_cells_of | apply State.stopEgress_cells_of
      | simp only [State.cells_mk, State.mem_cells] | split | dsimp only

theorem State.stopPort_cells_of {s₀ s : State} (hk : s.cells = s₀.cells) (p : Nat) :
    (State.stopPort s p).cells = s₀.cells := by
  unfold State.stopPort
  try dsimp only
  with_reducible
    repeat'
      first
      | assumption | intro u | apply ite_cells | apply ite_cells1 | apply ite_cells2 | apply foldl_cells
      | apply foldl_cells1 | apply foldl_cells2 | apply State.abandon_cells_of | apply State.setReg_cells_of
      | apply State.clearSpare_cells_of | apply State.setLane_cells_of | apply State.clearOutbox_cells_of
      | apply State.setPort_cells_of | apply State.followTimePort_cells_of
      | simp only [State.cells_mk, State.mem_cells] | split | dsimp only

theorem State.applyEnables_cells_of {s₀ s : State} (hk : s.cells = s₀.cells) (old : State) (wf : Nat) :
    (State.applyEnables s old wf).cells = s₀.cells := by
  unfold State.applyEnables
  try dsimp only
  with_reducible
    repeat'
      first
      | assumption | intro u | apply ite_cells | apply ite_cells1 | apply ite_cells2 | apply foldl_cells
      | apply foldl_cells1 | apply foldl_cells2 | apply State.disableOutput_cells_of
      | apply State.disableCamPort_cells_of | apply State.disableContext_cells_of | apply State.stopPort_cells_of
      | apply State.enableCamPort_cells_of | apply State.enableContext_cells_of | apply State.tryStartPort_cells_of
      | apply State.enableOutput_cells_of | simp only [State.cells_mk, State.mem_cells] | split | dsimp only

theorem State.configWide_cells_of {s₀ s : State} (hk : s.cells = s₀.cells) (p : Pending) :
    (State.configWide s p).cells = s₀.cells := by
  unfold State.configWide
  try dsimp only
  with_reducible
    repeat'
      first
      | assumption | intro u | apply ite_cells | apply ite_cells1 | apply ite_cells2 | apply foldl_cells
      | apply foldl_cells1 | apply foldl_cells2 | apply State.configPlan_cells_of
      | apply State.applyFields_cells_of | simp only [State.cells_mk, State.mem_cells] | split | dsimp only

theorem State.coverOutputs_cells_of {s₀ s : State} (hk : s.cells = s₀.cells)  :
    (State.coverOutputs s).cells = s₀.cells := by
  unfold State.coverOutputs
  try dsimp only
  with_reducible
    repeat'
      first
      | assumption | intro u | apply ite_cells | apply ite_cells1 | apply ite_cells2 | apply foldl_cells
      | apply foldl_cells1 | apply foldl_cells2 | simp only [State.cells_mk, State.mem_cells] | split | dsimp only

theorem State.installPart_cells_of {s₀ s : State} (hk : s.cells = s₀.cells) (p : Pending) (o : Nat) (wf : Nat) :
    (State.installPart s p o wf).cells = s₀.cells := by
  unfold State.installPart
  try dsimp only
  with_reducible
    repeat'
      first
      | assumption | intro u | apply ite_cells | apply ite_cells1 | apply ite_cells2 | apply foldl_cells
      | apply foldl_cells1 | apply foldl_cells2 | apply State.applyFields_cells_of
      | apply State.renewGroups_cells_of | apply State.noteApplied_cells_of
      | simp only [State.cells_mk, State.mem_cells] | split | dsimp only

theorem State.overlay_cells_of {s₀ t : State} (hk : t.cells = s₀.cells) (p : Pending) :
    (State.overlay t p).cells = s₀.cells := by
  unfold State.overlay
  try dsimp only
  with_reducible
    repeat'
      first
      | assumption | intro u | apply ite_cells | apply ite_cells1 | apply ite_cells2 | apply foldl_cells
      | apply foldl_cells1 | apply foldl_cells2 | apply State.configPlan_cells_of
      | apply State.applyFields_cells_of | simp only [State.cells_mk, State.mem_cells] | split | dsimp only

theorem State.resulting_cells_of {s₀ s : State} (hk : s.cells = s₀.cells)  :
    (State.resulting s).cells = s₀.cells := by
  unfold State.resulting
  try dsimp only
  with_reducible
    repeat'
      first
      | assumption | intro u | apply ite_cells | apply ite_cells1 | apply ite_cells2 | apply foldl_cells
      | apply foldl_cells1 | apply foldl_cells2 | apply State.overlay_cells_of
      | simp only [State.cells_mk, State.mem_cells] | split | dsimp only

theorem State.applyNow_cells_of {s₀ s : State} (hk : s.cells = s₀.cells) (fs : List Staged) :
    (State.applyNow s fs).cells = s₀.cells := by
  unfold State.applyNow
  try dsimp only
  with_reducible
    repeat'
      first
      | assumption | intro u | apply ite_cells | apply ite_cells1 | apply ite_cells2 | apply foldl_cells
      | apply foldl_cells1 | apply foldl_cells2 | apply State.applyFields_cells_of
      | apply State.advanceEpoch_cells_of | simp only [State.cells_mk, State.mem_cells] | split | dsimp only

theorem State.freeze_cells_of {s₀ s : State} (hk : s.cells = s₀.cells) (p : Pending) :
    (State.freeze s p).cells = s₀.cells := by
  unfold State.freeze
  try dsimp only
  with_reducible
    repeat'
      first
      | assumption | intro u | apply ite_cells | apply ite_cells1 | apply ite_cells2 | apply foldl_cells
      | apply foldl_cells1 | apply foldl_cells2 | simp only [State.cells_mk, State.mem_cells] | split | dsimp only

theorem State.unfreeze_cells_of {s₀ s : State} (hk : s.cells = s₀.cells) (p : Pending) :
    (State.unfreeze s p).cells = s₀.cells := by
  unfold State.unfreeze
  try dsimp only
  with_reducible
    repeat'
      first
      | assumption | intro u | apply ite_cells | apply ite_cells1 | apply ite_cells2 | apply foldl_cells
      | apply foldl_cells1 | apply foldl_cells2 | simp only [State.cells_mk, State.mem_cells] | split | dsimp only

theorem State.refuseTicket_cells_of {s₀ s : State} (hk : s.cells = s₀.cells) (event : Nat) (id : Nat) (c : Code) (pair : Nat) (member : Nat) :
    (State.refuseTicket s event id c pair member).cells = s₀.cells := by
  unfold State.refuseTicket
  try dsimp only
  with_reducible
    repeat'
      first
      | assumption | intro u | apply ite_cells | apply ite_cells1 | apply ite_cells2 | apply foldl_cells
      | apply foldl_cells1 | apply foldl_cells2 | apply State.setTicket_cells_of | apply State.record_cells_of
      | simp only [State.cells_mk, State.mem_cells] | split | dsimp only

theorem State.dropCommit_cells_of {s₀ s : State} (hk : s.cells = s₀.cells) (id : Nat) :
    (State.dropCommit s id).cells = s₀.cells := by
  unfold State.dropCommit
  try dsimp only
  with_reducible
    repeat'
      first
      | assumption | intro u | apply ite_cells | apply ite_cells1 | apply ite_cells2 | apply foldl_cells
      | apply foldl_cells1 | apply foldl_cells2 | simp only [State.cells_mk, State.mem_cells] | split | dsimp only

theorem State.setCommit_cells_of {s₀ s : State} (hk : s.cells = s₀.cells) (p : Pending) :
    (State.setCommit s p).cells = s₀.cells := by
  unfold State.setCommit
  try dsimp only
  with_reducible
    repeat'
      first
      | assumption | intro u | apply ite_cells | apply ite_cells1 | apply ite_cells2 | apply foldl_cells
      | apply foldl_cells1 | apply foldl_cells2 | simp only [State.cells_mk, State.mem_cells] | split | dsimp only

theorem State.requestCommit_cells_of {s₀ s : State} (hk : s.cells = s₀.cells) (slot : Nat) (target : Nat) (wall : Bool) :
    (State.requestCommit s slot target wall).1.cells = s₀.cells := by
  unfold State.requestCommit
  try dsimp only
  with_reducible
    repeat'
      first
      | assumption | intro u | apply ite_cells | apply ite_cells1 | apply ite_cells2 | apply foldl_cells
      | apply foldl_cells1 | apply foldl_cells2 | apply State.addTicket_cells_of
      | apply State.refuseTicket_cells_of | simp only [State.cells_mk, State.mem_cells] | split | dsimp only

theorem commitOp_cells_of {s₀ s : State} (hk : s.cells = s₀.cells)  (ss i : Nat) (v : Val) :
    (commitOp  s ss i v).1.cells = s₀.cells := by
  unfold commitOp
  try dsimp only
  with_reducible
    repeat'
      first
      | assumption | intro u | apply ite_cells | apply ite_cells1 | apply ite_cells2 | apply foldl_cells
      | apply foldl_cells1 | apply foldl_cells2 | apply State.requestCommit_cells_of
      | apply State.setSession_cells_of | simp only [State.cells_mk, State.mem_cells] | split | dsimp only

theorem discardOp_cells_of {s₀ s : State} (hk : s.cells = s₀.cells)  (ss i : Nat) (v : Val) :
    (discardOp  s ss i v).1.cells = s₀.cells := by
  unfold discardOp
  try dsimp only
  with_reducible
    repeat'
      first
      | assumption | intro u | apply ite_cells | apply ite_cells1 | apply ite_cells2 | apply foldl_cells
      | apply foldl_cells1 | apply foldl_cells2 | simp only [State.cells_mk, State.mem_cells] | split | dsimp only

theorem State.withArmed_cells_of {s₀ s : State} (hk : s.cells = s₀.cells) (p : Pending) (atOnce' : List Staged) :
    (State.withArmed s p atOnce').cells = s₀.cells := by
  unfold State.withArmed
  try dsimp only
  with_reducible
    repeat'
      first
      | assumption | intro u | apply ite_cells | apply ite_cells1 | apply ite_cells2 | apply foldl_cells
      | apply foldl_cells1 | apply foldl_cells2 | apply State.withWaiting_cells_of
      | apply State.applyFields_cells_of | simp only [State.cells_mk, State.mem_cells] | split | dsimp only

theorem State.askDomains_cells_of {s₀ s : State} (hk : s.cells = s₀.cells) (p : Pending) (atOnce' : List Staged) :
    (State.askDomains s p atOnce').cells = s₀.cells := by
  unfold State.askDomains
  try dsimp only
  with_reducible
    repeat'
      first
      | assumption | intro u | apply ite_cells | apply ite_cells1 | apply ite_cells2 | apply foldl_cells
      | apply foldl_cells1 | apply foldl_cells2 | apply State.withArmed_cells_of
      | apply State.settleDomain_cells_of | simp only [State.cells_mk, State.mem_cells] | split | dsimp only

theorem State.takeCommit_cells_of {s₀ s : State} (hk : s.cells = s₀.cells) (p : Pending) (atOnce' : List Staged) :
    (State.takeCommit s p atOnce').cells = s₀.cells := by
  unfold State.takeCommit
  try dsimp only
  with_reducible
    repeat'
      first
      | assumption | intro u | apply ite_cells | apply ite_cells1 | apply ite_cells2 | apply foldl_cells
      | apply foldl_cells1 | apply foldl_cells2 | apply State.freeze_cells_of | apply State.applyNow_cells_of
      | apply State.setTicket_cells_of | apply State.noteApplied_cells_of | apply State.settleCommits_cells_of
      | apply State.settlePower_cells_of | simp only [State.cells_mk, State.mem_cells] | split | dsimp only

theorem State.aheadOf_cells_of {s₀ s : State} (hk : s.cells = s₀.cells) (p : Pending) :
    (State.aheadOf s p).cells = s₀.cells := by
  unfold State.aheadOf
  try dsimp only
  with_reducible
    repeat'
      first
      | assumption | intro u | apply ite_cells | apply ite_cells1 | apply ite_cells2 | apply foldl_cells
      | apply foldl_cells1 | apply foldl_cells2 | simp only [State.cells_mk, State.mem_cells] | split | dsimp only

theorem State.failLockIn_cells_of {s₀ s : State} (hk : s.cells = s₀.cells) (p : Pending) (c : Code) (pair : Nat) :
    (State.failLockIn s p c pair).cells = s₀.cells := by
  unfold State.failLockIn
  try dsimp only
  with_reducible
    repeat'
      first
      | assumption | intro u | apply ite_cells | apply ite_cells1 | apply ite_cells2 | apply foldl_cells
      | apply foldl_cells1 | apply foldl_cells2 | apply State.dropCommit_cells_of | apply State.unfreeze_cells_of
      | apply State.refuseTicket_cells_of | simp only [State.cells_mk, State.mem_cells] | split | dsimp only

theorem State.lockIn_cells_of {s₀ s : State} (hk : s.cells = s₀.cells) (p : Pending) :
    (State.lockIn s p).cells = s₀.cells := by
  unfold State.lockIn
  try dsimp only
  with_reducible
    repeat'
      first
      | assumption | intro u | apply ite_cells | apply ite_cells1 | apply ite_cells2 | apply foldl_cells
      | apply foldl_cells1 | apply foldl_cells2 | apply State.failLockIn_cells_of | apply State.setCommit_cells_of
      | simp only [State.cells_mk, State.mem_cells] | split | dsimp only

theorem State.takeAuto_cells_of {s₀ s : State} (hk : s.cells = s₀.cells) (p : Plan) :
    (State.takeAuto s p).cells = s₀.cells := by
  unfold State.takeAuto
  try dsimp only
  with_reducible
    repeat'
      first
      | assumption | intro u | apply ite_cells | apply ite_cells1 | apply ite_cells2 | apply foldl_cells
      | apply foldl_cells1 | apply foldl_cells2 | apply State.lockIn_cells_of | apply State.settlePower_cells_of
      | simp only [State.cells_mk, State.mem_cells] | split | dsimp only

theorem State.lockInFor_cells_of {s₀ s : State} (hk : s.cells = s₀.cells) (o : Nat) (of : Nat) :
    (State.lockInFor s o of).cells = s₀.cells := by
  unfold State.lockInFor
  try dsimp only
  with_reducible
    repeat'
      first
      | assumption | intro u | apply ite_cells | apply ite_cells1 | apply ite_cells2 | apply foldl_cells
      | apply foldl_cells1 | apply foldl_cells2 | apply State.lockIn_cells_of
      | simp only [State.cells_mk, State.mem_cells] | split | dsimp only

theorem State.cancelCommit_cells_of {s₀ s : State} (hk : s.cells = s₀.cells) (id : Nat) :
    (State.cancelCommit s id).cells = s₀.cells := by
  unfold State.cancelCommit
  try dsimp only
  with_reducible
    repeat'
      first
      | assumption | intro u | apply ite_cells | apply ite_cells1 | apply ite_cells2 | apply foldl_cells
      | apply foldl_cells1 | apply foldl_cells2 | apply State.dropCommit_cells_of | apply State.setTicket_cells_of
      | apply State.record_cells_of | apply State.settlePower_cells_of
      | simp only [State.cells_mk, State.mem_cells] | split | dsimp only

theorem State.broadcast_cells_of {s₀ s : State} (hk : s.cells = s₀.cells) (step : Nat) (m : WallMsg) :
    (State.broadcast s step m).cells = s₀.cells := by
  unfold State.broadcast
  try dsimp only
  with_reducible
    repeat'
      first
      | assumption | intro u | apply ite_cells | apply ite_cells1 | apply ite_cells2 | apply foldl_cells
      | apply foldl_cells1 | apply foldl_cells2 | apply State.sendMessage_cells_of
      | simp only [State.cells_mk, State.mem_cells] | split | dsimp only

theorem State.listen_cells_of {s₀ s : State} (hk : s.cells = s₀.cells)  :
    (State.listen s).cells = s₀.cells := by
  unfold State.listen
  try dsimp only
  with_reducible
    repeat'
      first
      | assumption | intro u | apply ite_cells | apply ite_cells1 | apply ite_cells2 | apply foldl_cells
      | apply foldl_cells1 | apply foldl_cells2 | apply State.setReg_cells_of
      | simp only [State.cells_mk, State.mem_cells] | split | dsimp only

theorem State.exclude_cells_of {s₀ s : State} (hk : s.cells = s₀.cells) (serial : Nat) :
    (State.exclude s serial).cells = s₀.cells := by
  unfold State.exclude
  try dsimp only
  with_reducible
    repeat'
      first
      | assumption | intro u | apply ite_cells | apply ite_cells1 | apply ite_cells2 | apply foldl_cells
      | apply foldl_cells1 | apply foldl_cells2 | apply State.setReg_cells_of | apply State.record_cells_of
      | simp only [State.cells_mk, State.mem_cells] | split | dsimp only

theorem State.clash_cells_of {s₀ s : State} (hk : s.cells = s₀.cells) (pairState : Nat) (serial : Nat) :
    (State.clash s pairState serial).cells = s₀.cells := by
  unfold State.clash
  try dsimp only
  with_reducible
    repeat'
      first
      | assumption | intro u | apply ite_cells | apply ite_cells1 | apply ite_cells2 | apply foldl_cells
      | apply foldl_cells1 | apply foldl_cells2 | apply State.exclude_cells_of
      | simp only [State.cells_mk, State.mem_cells] | split | dsimp only

theorem State.takePresence_cells_of {s₀ s : State} (hk : s.cells = s₀.cells) (port : Nat) (aliasNo : Nat) (member : Nat) (pairState : Nat) (serial : Nat) :
    (State.takePresence s port aliasNo member pairState serial).cells = s₀.cells := by
  unfold State.takePresence
  try dsimp only
  with_reducible
    repeat'
      first
      | assumption | intro u | apply ite_cells | apply ite_cells1 | apply ite_cells2 | apply foldl_cells
      | apply foldl_cells1 | apply foldl_cells2 | apply State.clash_cells_of
      | simp only [State.cells_mk, State.mem_cells] | split | dsimp only

theorem State.sendPresence_cells_of {s₀ s : State} (hk : s.cells = s₀.cells)  :
    (State.sendPresence s).cells = s₀.cells := by
  unfold State.sendPresence
  try dsimp only
  with_reducible
    repeat'
      first
      | assumption | intro u | apply ite_cells | apply ite_cells1 | apply ite_cells2 | apply foldl_cells
      | apply foldl_cells1 | apply foldl_cells2 | apply State.sendMessage_cells_of
      | simp only [State.cells_mk, State.mem_cells] | split | dsimp only

theorem memberNumberOp_cells_of {s₀ s : State} (hk : s.cells = s₀.cells)  (ss i : Nat) (v : Val) :
    (memberNumberOp  s ss i v).1.cells = s₀.cells := by
  unfold memberNumberOp
  try dsimp only
  with_reducible
    repeat'
      first
      | assumption | intro u | apply ite_cells | apply ite_cells1 | apply ite_cells2 | apply foldl_cells
      | apply foldl_cells1 | apply foldl_cells2 | apply State.setReg_cells_of | apply State.listen_cells_of
      | simp only [State.cells_mk, State.mem_cells] | split | dsimp only

theorem State.lead_cells_of {s₀ s : State} (hk : s.cells = s₀.cells) (id : Nat) :
    (State.lead s id).cells = s₀.cells := by
  unfold State.lead
  try dsimp only
  with_reducible
    repeat'
      first
      | assumption | intro u | apply ite_cells | apply ite_cells1 | apply ite_cells2 | apply foldl_cells
      | apply foldl_cells1 | apply foldl_cells2 | apply State.setCommit_cells_of | apply State.broadcast_cells_of
      | simp only [State.cells_mk, State.mem_cells] | split | dsimp only

theorem State.takeReady_cells_of {s₀ s : State} (hk : s.cells = s₀.cells) (m : WallMsg) :
    (State.takeReady s m).cells = s₀.cells := by
  unfold State.takeReady
  try dsimp only
  with_reducible
    repeat'
      first
      | assumption | intro u | apply ite_cells | apply ite_cells1 | apply ite_cells2 | apply foldl_cells
      | apply foldl_cells1 | apply foldl_cells2 | apply State.setCommit_cells_of
      | simp only [State.cells_mk, State.mem_cells] | split | dsimp only

theorem State.takeRefuse_cells_of {s₀ s : State} (hk : s.cells = s₀.cells) (m : WallMsg) :
    (State.takeRefuse s m).cells = s₀.cells := by
  unfold State.takeRefuse
  try dsimp only
  with_reducible
    repeat'
      first
      | assumption | intro u | apply ite_cells | apply ite_cells1 | apply ite_cells2 | apply foldl_cells
      | apply foldl_cells1 | apply foldl_cells2 | apply State.setCommit_cells_of
      | simp only [State.cells_mk, State.mem_cells] | split | dsimp only

theorem State.decideWall_cells_of {s₀ s : State} (hk : s.cells = s₀.cells) (p : Pending) :
    (State.decideWall s p).cells = s₀.cells := by
  unfold State.decideWall
  try dsimp only
  with_reducible
    repeat'
      first
      | assumption | intro u | apply ite_cells | apply ite_cells1 | apply ite_cells2 | apply foldl_cells
      | apply foldl_cells1 | apply foldl_cells2 | apply State.setCommit_cells_of | apply State.broadcast_cells_of
      | apply State.dropCommit_cells_of | apply State.refuseTicket_cells_of | apply State.settlePower_cells_of
      | simp only [State.cells_mk, State.mem_cells] | split | dsimp only

theorem State.servePrepare_cells_of {s₀ s : State} (hk : s.cells = s₀.cells) (r : Pending) (port : Nat) (tag : Nat) :
    (State.servePrepare s r port tag).cells = s₀.cells := by
  unfold State.servePrepare
  try dsimp only
  with_reducible
    repeat'
      first
      | assumption | intro u | apply ite_cells | apply ite_cells1 | apply ite_cells2 | apply foldl_cells
      | apply foldl_cells1 | apply foldl_cells2 | apply State.refuseTicket_cells_of
      | apply State.sendMessage_cells_of | apply State.askDomains_cells_of | apply State.takeCommit_cells_of
      | simp only [State.cells_mk, State.mem_cells] | split | dsimp only

theorem State.takePrepare_cells_of {s₀ s : State} (hk : s.cells = s₀.cells) (port : Nat) (m : WallMsg) :
    (State.takePrepare s port m).cells = s₀.cells := by
  unfold State.takePrepare
  try dsimp only
  with_reducible
    repeat'
      first
      | assumption | intro u | apply ite_cells | apply ite_cells1 | apply ite_cells2 | apply foldl_cells
      | apply foldl_cells1 | apply foldl_cells2 | apply State.addOther_cells_of | apply State.servePrepare_cells_of
      | simp only [State.cells_mk, State.mem_cells] | split | dsimp only

theorem State.takeGo_cells_of {s₀ s : State} (hk : s.cells = s₀.cells) (m : WallMsg) :
    (State.takeGo s m).cells = s₀.cells := by
  unfold State.takeGo
  try dsimp only
  with_reducible
    repeat'
      first
      | assumption | intro u | apply ite_cells | apply ite_cells1 | apply ite_cells2 | apply foldl_cells
      | apply foldl_cells1 | apply foldl_cells2 | apply State.setCommit_cells_of
      | simp only [State.cells_mk, State.mem_cells] | split | dsimp only

theorem State.takeAbort_cells_of {s₀ s0 : State} (hk : s0.cells = s₀.cells) (m : WallMsg) :
    (State.takeAbort s0 m).cells = s₀.cells := by
  unfold State.takeAbort
  try dsimp only
  with_reducible
    repeat'
      first
      | assumption | intro u | apply ite_cells | apply ite_cells1 | apply ite_cells2 | apply foldl_cells
      | apply foldl_cells1 | apply foldl_cells2 | apply State.refuseTicket_cells_of
      | apply State.dropCommit_cells_of | apply State.settlePower_cells_of
      | simp only [State.cells_mk, State.mem_cells] | split | dsimp only

theorem State.reportApplied_cells_of {s₀ s : State} (hk : s.cells = s₀.cells) (old : State) :
    (State.reportApplied s old).cells = s₀.cells := by
  unfold State.reportApplied
  try dsimp only
  with_reducible
    repeat'
      first
      | assumption | intro u | apply ite_cells | apply ite_cells1 | apply ite_cells2 | apply foldl_cells
      | apply foldl_cells1 | apply foldl_cells2 | apply State.sendMessage_cells_of
      | simp only [State.cells_mk, State.mem_cells] | split | dsimp only

theorem State.serveRequest_cells_of {s₀ s : State} (hk : s.cells = s₀.cells) (r : Pending) :
    (State.serveRequest s r).cells = s₀.cells := by
  unfold State.serveRequest
  try dsimp only
  with_reducible
    repeat'
      first
      | assumption | intro u | apply ite_cells | apply ite_cells1 | apply ite_cells2 | apply foldl_cells
      | apply foldl_cells1 | apply foldl_cells2 | apply State.refuseTicket_cells_of
      | apply State.askDomains_cells_of | apply State.takeCommit_cells_of | apply State.lead_cells_of
      | simp only [State.cells_mk, State.mem_cells] | split | dsimp only

theorem cancelOp_cells_of {s₀ s : State} (hk : s.cells = s₀.cells)  (ss i : Nat) (v : Val) :
    (cancelOp  s ss i v).1.cells = s₀.cells := by
  unfold cancelOp
  try dsimp only
  with_reducible
    repeat'
      first
      | assumption | intro u | apply ite_cells | apply ite_cells1 | apply ite_cells2 | apply foldl_cells
      | apply foldl_cells1 | apply foldl_cells2 | apply State.cancelCommit_cells_of
      | apply State.broadcast_cells_of | simp only [State.cells_mk, State.mem_cells] | split | dsimp only

theorem State.takeApplied_cells_of {s₀ s : State} (hk : s.cells = s₀.cells) (m : WallMsg) :
    (State.takeApplied s m).cells = s₀.cells := by
  unfold State.takeApplied
  try dsimp only
  with_reducible
    repeat'
      first
      | assumption | intro u | apply ite_cells | apply ite_cells1 | apply ite_cells2 | apply foldl_cells
      | apply foldl_cells1 | apply foldl_cells2 | simp only [State.cells_mk, State.mem_cells] | split | dsimp only

theorem State.asStarted_cells_of {s₀ s : State} (hk : s.cells = s₀.cells)  :
    (State.asStarted s).cells = s₀.cells := by
  unfold State.asStarted
  try dsimp only
  with_reducible
    repeat'
      first
      | assumption | intro u | apply ite_cells | apply ite_cells1 | apply ite_cells2 | apply foldl_cells
      | apply foldl_cells1 | apply foldl_cells2 | simp only [State.cells_mk, State.mem_cells] | split | dsimp only

theorem State.endPlacing_cells_of {s₀ s : State} (hk : s.cells = s₀.cells)  :
    (State.endPlacing s).cells = s₀.cells := by
  unfold State.endPlacing
  try dsimp only
  with_reducible
    repeat'
      first
      | assumption | intro u | apply ite_cells | apply ite_cells1 | apply ite_cells2 | apply foldl_cells
      | apply foldl_cells1 | apply foldl_cells2 | apply State.placeStartUp_cells_of
      | simp only [State.cells_mk, State.mem_cells] | split | dsimp only

theorem State.placed_cells_of {s₀ s : State} (hk : s.cells = s₀.cells) (slot : Nat) (scene : Bytes) (timeUs : Nat) (host : Bool) :
    (State.placed s slot scene timeUs host).cells = s₀.cells := by
  unfold State.placed
  try dsimp only
  with_reducible
    repeat'
      first
      | assumption | intro u | apply ite_cells | apply ite_cells1 | apply ite_cells2 | apply foldl_cells
      | apply foldl_cells1 | apply foldl_cells2 | apply State.endPlacing_cells_of | apply State.asStarted_cells_of
      | apply State.placementResult_cells_of | apply State.setBlob_cells_of | apply State.record_cells_of
      | apply State.storePlan_cells_of | apply State.requestCommit_cells_of
      | simp only [State.cells_mk, State.mem_cells] | split | dsimp only

theorem State.dried_cells_of {s₀ s : State} (hk : s.cells = s₀.cells) (scene : Bytes) (timeUs : Nat) :
    (State.dried s scene timeUs).cells = s₀.cells := by
  unfold State.dried
  try dsimp only
  with_reducible
    repeat'
      first
      | assumption | intro u | apply ite_cells | apply ite_cells1 | apply ite_cells2 | apply foldl_cells
      | apply foldl_cells1 | apply foldl_cells2 | apply State.endPlacing_cells_of | apply State.asStarted_cells_of
      | apply State.placementResult_cells_of | simp only [State.cells_mk, State.mem_cells] | split | dsimp only

theorem State.replanned_cells_of {s₀ s : State} (hk : s.cells = s₀.cells) (p : Plan) :
    (State.replanned s p).cells = s₀.cells := by
  unfold State.replanned
  try dsimp only
  with_reducible
    repeat'
      first
      | assumption | intro u | apply ite_cells | apply ite_cells1 | apply ite_cells2 | apply foldl_cells
      | apply foldl_cells1 | apply foldl_cells2 | apply State.setBlob_cells_of | apply State.bump_cells_of
      | apply State.takeAuto_cells_of | apply State.escalate_cells_of | simp only [State.cells_mk, State.mem_cells]
      | split | dsimp only

theorem State.autoPlaced_cells_of {s₀ s : State} (hk : s.cells = s₀.cells) (scene : Bytes) (epoch : Nat) (timeUs : Nat) :
    (State.autoPlaced s scene epoch timeUs).cells = s₀.cells := by
  unfold State.autoPlaced
  try dsimp only
  with_reducible
    repeat'
      first
      | assumption | intro u | apply ite_cells | apply ite_cells1 | apply ite_cells2 | apply foldl_cells
      | apply foldl_cells1 | apply foldl_cells2 | apply State.endPlacing_cells_of
      | apply State.endRecovery_cells_of | apply State.asStarted_cells_of | apply State.replanned_cells_of
      | apply State.askDomains_cells_of | simp only [State.cells_mk, State.mem_cells] | split | dsimp only

theorem State.startReplan_cells_of {s₀ s : State} (hk : s.cells = s₀.cells)  :
    (State.startReplan s).cells = s₀.cells := by
  unfold State.startReplan
  try dsimp only
  with_reducible
    repeat'
      first
      | assumption | intro u | apply ite_cells | apply ite_cells1 | apply ite_cells2 | apply foldl_cells
      | apply foldl_cells1 | apply foldl_cells2 | apply State.endRecovery_cells_of
      | simp only [State.cells_mk, State.mem_cells] | split | dsimp only

theorem State.moveEngine_cells_of {s₀ s : State} (hk : s.cells = s₀.cells) (a : Nat) (b : Nat) :
    (State.moveEngine s a b).cells = s₀.cells := by
  unfold State.moveEngine
  try dsimp only
  with_reducible
    repeat'
      first
      | assumption | intro u | apply ite_cells | apply ite_cells1 | apply ite_cells2 | apply foldl_cells
      | apply foldl_cells1 | apply foldl_cells2 | apply State.setReg_cells_of
      | simp only [State.cells_mk, State.mem_cells] | split | dsimp only

theorem State.switchBack_cells_of {s₀ s : State} (hk : s.cells = s₀.cells) (e : Nat) :
    (State.switchBack s e).cells = s₀.cells := by
  unfold State.switchBack
  try dsimp only
  with_reducible
    repeat'
      first
      | assumption | intro u | apply ite_cells | apply ite_cells1 | apply ite_cells2 | apply foldl_cells
      | apply foldl_cells1 | apply foldl_cells2 | apply State.endRecovery_cells_of
      | apply State.moveEngine_cells_of | apply State.setReg_cells_of | apply State.setEngine_cells_of
      | apply State.record_cells_of | simp only [State.cells_mk, State.mem_cells] | split | dsimp only

theorem State.switchBackAt_cells_of {s₀ s : State} (hk : s.cells = s₀.cells) (o : Nat) (of : Nat) :
    (State.switchBackAt s o of).cells = s₀.cells := by
  unfold State.switchBackAt
  try dsimp only
  with_reducible
    repeat'
      first
      | assumption | intro u | apply ite_cells | apply ite_cells1 | apply ite_cells2 | apply foldl_cells
      | apply foldl_cells1 | apply foldl_cells2 | apply State.switchBack_cells_of
      | simp only [State.cells_mk, State.mem_cells] | split | dsimp only

theorem State.startRecovery_cells_of {s₀ s : State} (hk : s.cells = s₀.cells) (r : Recovery) :
    (State.startRecovery s r).cells = s₀.cells := by
  unfold State.startRecovery
  try dsimp only
  with_reducible
    repeat'
      first
      | assumption | intro u | apply ite_cells | apply ite_cells1 | apply ite_cells2 | apply foldl_cells
      | apply foldl_cells1 | apply foldl_cells2 | apply State.enterEvacuation_cells_of
      | apply State.startRetrain_cells_of | apply State.switchBack_cells_of | apply State.startLaneBack_cells_of
      | simp only [State.cells_mk, State.mem_cells] | split | dsimp only

theorem testEngineOp_cells_of {s₀ s : State} (hk : s.cells = s₀.cells)  (ss i : Nat) (v : Val) :
    (testEngineOp  s ss i v).1.cells = s₀.cells := by
  unfold testEngineOp
  try dsimp only
  with_reducible
    repeat'
      first
      | assumption | intro u | apply ite_cells | apply ite_cells1 | apply ite_cells2 | apply foldl_cells
      | apply foldl_cells1 | apply foldl_cells2 | apply State.setReg_cells_of
      | simp only [State.cells_mk, State.mem_cells] | split | dsimp only

theorem State.endTest_cells_of {s₀ s : State} (hk : s.cells = s₀.cells) (e : Nat) (passed : Bool) :
    (State.endTest s e passed).cells = s₀.cells := by
  unfold State.endTest
  try dsimp only
  with_reducible
    repeat'
      first
      | assumption | intro u | apply ite_cells | apply ite_cells1 | apply ite_cells2 | apply foldl_cells
      | apply foldl_cells1 | apply foldl_cells2 | apply State.setReg_cells_of | apply State.setEngine_cells_of
      | apply State.advanceEpoch_cells_of | simp only [State.cells_mk, State.mem_cells] | split | dsimp only

theorem switchBackEngineOp_cells_of {s₀ s : State} (hk : s.cells = s₀.cells)  (ss i : Nat) (v : Val) :
    (switchBackEngineOp  s ss i v).1.cells = s₀.cells := by
  unfold switchBackEngineOp
  try dsimp only
  with_reducible
    repeat'
      first
      | assumption | intro u | apply ite_cells | apply ite_cells1 | apply ite_cells2 | apply foldl_cells
      | apply foldl_cells1 | apply foldl_cells2 | simp only [State.cells_mk, State.mem_cells] | split | dsimp only

theorem State.decideGroup_cells_of {s₀ s : State} (hk : s.cells = s₀.cells) (c : State) (key : Nat) (of : Nat) (d : Nat) :
    (State.decideGroup s c key of d).cells = s₀.cells := by
  unfold State.decideGroup
  try dsimp only
  with_reducible
    repeat'
      first
      | assumption | intro u | apply ite_cells | apply ite_cells1 | apply ite_cells2 | apply foldl_cells
      | apply foldl_cells1 | apply foldl_cells2 | apply State.lead_cells_of | apply State.setGroup_cells_of
      | apply State.record_cells_of | simp only [State.cells_mk, State.mem_cells] | split | dsimp only

theorem State.takeRefs_cells_of {s₀ s : State} (hk : s.cells = s₀.cells) (draws : List Draw) :
    (State.takeRefs s draws).cells = s₀.cells := by
  unfold State.takeRefs
  try dsimp only
  with_reducible
    repeat'
      first
      | assumption | intro u | apply ite_cells | apply ite_cells1 | apply ite_cells2 | apply foldl_cells
      | apply foldl_cells1 | apply foldl_cells2 | apply State.takeRef_cells_of
      | simp only [State.cells_mk, State.mem_cells] | split | dsimp only

theorem State.outputEvent_cells_of {s₀ s : State} (hk : s.cells = s₀.cells) (o : Nat) (bit : Nat) :
    (State.outputEvent s o bit).cells = s₀.cells := by
  unfold State.outputEvent
  try dsimp only
  with_reducible
    repeat'
      first
      | assumption | intro u | apply ite_cells | apply ite_cells1 | apply ite_cells2 | apply foldl_cells
      | apply foldl_cells1 | apply foldl_cells2 | apply State.bump_cells_of | apply State.setReg_cells_of
      | apply State.send_cells_of | simp only [State.cells_mk, State.mem_cells] | split | dsimp only

theorem State.sendHeader_cells_of {s₀ s : State} (hk : s.cells = s₀.cells) (o : Nat) (seq : Nat) (k : Bank) (again : Bool) (veil : Bool) :
    (State.sendHeader s o seq k again veil).cells = s₀.cells := by
  unfold State.sendHeader
  try dsimp only
  with_reducible
    repeat'
      first
      | assumption | intro u | apply ite_cells | apply ite_cells1 | apply ite_cells2 | apply foldl_cells
      | apply foldl_cells1 | apply foldl_cells2 | apply State.sendCellDue_cells_of
      | simp only [State.cells_mk, State.mem_cells] | split | dsimp only

theorem State.noteLimit_cells_of {s₀ s : State} (hk : s.cells = s₀.cells) (o : Nat) (of : Nat) :
    (State.noteLimit s o of).cells = s₀.cells := by
  unfold State.noteLimit
  try dsimp only
  with_reducible
    repeat'
      first
      | assumption | intro u | apply ite_cells | apply ite_cells1 | apply ite_cells2 | apply foldl_cells
      | apply foldl_cells1 | apply foldl_cells2 | apply State.setOutput_cells_of | apply State.record_cells_of
      | simp only [State.cells_mk, State.mem_cells] | split | dsimp only

theorem State.noteTe_cells_of {s₀ s : State} (hk : s.cells = s₀.cells) (o : Nat) (of : Nat) (c : Code) :
    (State.noteTe s o of c).cells = s₀.cells := by
  unfold State.noteTe
  try dsimp only
  with_reducible
    repeat'
      first
      | assumption | intro u | apply ite_cells | apply ite_cells1 | apply ite_cells2 | apply foldl_cells
      | apply foldl_cells1 | apply foldl_cells2 | apply State.recordEvery_cells_of
      | simp only [State.cells_mk, State.mem_cells] | split | dsimp only

theorem State.cutFrame_cells_of {s₀ s : State} (hk : s.cells = s₀.cells) (o : Nat) :
    (State.cutFrame s o).cells = s₀.cells := by
  unfold State.cutFrame
  try dsimp only
  with_reducible
    repeat'
      first
      | assumption | intro u | apply ite_cells | apply ite_cells1 | apply ite_cells2 | apply foldl_cells
      | apply foldl_cells1 | apply foldl_cells2 | apply State.setPort_cells_of | apply State.setOutput_cells_of
      | apply State.bump_cells_of | apply State.recordLimited_cells_of
      | simp only [State.cells_mk, State.mem_cells] | split | dsimp only

theorem State.closeFrame_cells_of {s₀ s : State} (hk : s.cells = s₀.cells) (o : Nat) :
    (State.closeFrame s o).cells = s₀.cells := by
  unfold State.closeFrame
  try dsimp only
  with_reducible
    repeat'
      first
      | assumption | intro u | apply ite_cells | apply ite_cells1 | apply ite_cells2 | apply foldl_cells
      | apply foldl_cells1 | apply foldl_cells2 | apply State.setReg_cells_of | apply State.cutFrame_cells_of
      | apply State.bump_cells_of | apply State.noteTe_cells_of | simp only [State.cells_mk, State.mem_cells]
      | split | dsimp only

theorem State.restartPlacing_cells_of {s₀ s : State} (hk : s.cells = s₀.cells)  :
    (State.restartPlacing s).cells = s₀.cells := by
  unfold State.restartPlacing
  try dsimp only
  with_reducible
    repeat'
      first
      | assumption | intro u | apply ite_cells | apply ite_cells1 | apply ite_cells2 | apply foldl_cells
      | apply foldl_cells1 | apply foldl_cells2 | simp only [State.cells_mk, State.mem_cells] | split | dsimp only

theorem State.leaveSubst_cells_of {s₀ s : State} (hk : s.cells = s₀.cells) (outs : List Nat) :
    (State.leaveSubst s outs).cells = s₀.cells := by
  unfold State.leaveSubst
  try dsimp only
  with_reducible
    repeat'
      first
      | assumption | intro u | apply ite_cells | apply ite_cells1 | apply ite_cells2 | apply foldl_cells
      | apply foldl_cells1 | apply foldl_cells2 | apply State.setReg_cells_of | apply State.restartPlacing_cells_of
      | apply State.record_cells_of | simp only [State.cells_mk, State.mem_cells] | split | dsimp only

theorem State.openFrame_cells_of {s₀ s : State} (hk : s.cells = s₀.cells) (o : Nat) (of : Nat) (kind : FrameKind) :
    (State.openFrame s o of kind).cells = s₀.cells := by
  unfold State.openFrame
  try dsimp only
  with_reducible
    repeat'
      first
      | assumption | intro u | apply ite_cells | apply ite_cells1 | apply ite_cells2 | apply foldl_cells
      | apply foldl_cells1 | apply foldl_cells2 | apply State.underrun_cells_of | apply State.setOutput_cells_of
      | apply State.setReg_cells_of | apply State.bump_cells_of | apply State.sendHeader_cells_of
      | apply State.send_cells_of | simp only [State.cells_mk, State.mem_cells] | split | dsimp only

theorem State.noteFresh_cells_of {s₀ s : State} (hk : s.cells = s₀.cells) (o : Nat) :
    (State.noteFresh s o).cells = s₀.cells := by
  unfold State.noteFresh
  try dsimp only
  with_reducible
    repeat'
      first
      | assumption | intro u | apply ite_cells | apply ite_cells1 | apply ite_cells2 | apply foldl_cells
      | apply foldl_cells1 | apply foldl_cells2 | apply State.settleTakeover_cells_of
      | simp only [State.cells_mk, State.mem_cells] | split | dsimp only

theorem State.finishSwage_cells_of {s₀ s : State} (hk : s.cells = s₀.cells) (o : Nat) :
    (State.finishSwage s o).cells = s₀.cells := by
  unfold State.finishSwage
  try dsimp only
  with_reducible
    repeat'
      first
      | assumption | intro u | apply ite_cells | apply ite_cells1 | apply ite_cells2 | apply foldl_cells
      | apply foldl_cells1 | apply foldl_cells2 | apply State.sendCellDue_cells_of | apply State.setReg_cells_of
      | apply State.setOutput_cells_of | simp only [State.cells_mk, State.mem_cells] | split | dsimp only

theorem State.sendLines_cells_of {s₀ s : State} (hk : s.cells = s₀.cells) (o : Nat) :
    (State.sendLines s o).cells = s₀.cells := by
  unfold State.sendLines
  try dsimp only
  with_reducible
    repeat'
      first
      | assumption | intro u | apply ite_cells | apply ite_cells1 | apply ite_cells2 | apply foldl_cells
      | apply foldl_cells1 | apply foldl_cells2 | apply State.send_cells_of
      | simp only [State.cells_mk, State.mem_cells] | split | dsimp only

theorem latchClearOp_cells_of {s₀ s : State} (hk : s.cells = s₀.cells)  (ss i : Nat) (v : Val) :
    (latchClearOp  s ss i v).1.cells = s₀.cells := by
  unfold latchClearOp
  try dsimp only
  with_reducible
    repeat'
      first
      | assumption | intro u | apply ite_cells | apply ite_cells1 | apply ite_cells2 | apply foldl_cells
      | apply foldl_cells1 | apply foldl_cells2 | apply State.setReg_cells_of
      | simp only [State.cells_mk, State.mem_cells] | split | dsimp only

theorem State.switchOff_cells_of {s₀ s : State} (hk : s.cells = s₀.cells) (o : Nat) (d : Draw) (x : Nat) (y : Nat) (underran : Bool) :
    (State.switchOff s o d x y underran).cells = s₀.cells := by
  unfold State.switchOff
  try dsimp only
  with_reducible
    repeat'
      first
      | assumption | intro u | apply ite_cells | apply ite_cells1 | apply ite_cells2 | apply foldl_cells
      | apply foldl_cells1 | apply foldl_cells2 | apply State.setOutput_cells_of
      | simp only [State.cells_mk, State.mem_cells] | split | dsimp only

theorem State.switchOffNext_cells_of {s₀ s : State} (hk : s.cells = s₀.cells) (o : Nat) (d : Draw) (underran : Bool) :
    (State.switchOffNext s o d underran).cells = s₀.cells := by
  unfold State.switchOffNext
  try dsimp only
  with_reducible
    repeat'
      first
      | assumption | intro u | apply ite_cells | apply ite_cells1 | apply ite_cells2 | apply foldl_cells
      | apply foldl_cells1 | apply foldl_cells2 | apply State.setOutput_cells_of
      | simp only [State.cells_mk, State.mem_cells] | split | dsimp only

theorem State.thirdUnderrun_cells_of {s₀ s : State} (hk : s.cells = s₀.cells) (o : Nat) (inst : Nat) (of : Nat) (d : Draw) :
    (State.thirdUnderrun s o inst of d).cells = s₀.cells := by
  unfold State.thirdUnderrun
  try dsimp only
  with_reducible
    repeat'
      first
      | assumption | intro u | apply ite_cells | apply ite_cells1 | apply ite_cells2 | apply foldl_cells
      | apply foldl_cells1 | apply foldl_cells2 | apply State.record_cells_of | apply State.strikeRunning_cells_of
      | apply State.triggerReplan_cells_of | simp only [State.cells_mk, State.mem_cells] | split | dsimp only

theorem State.noteUnderrun_cells_of {s₀ s : State} (hk : s.cells = s₀.cells) (o : Nat) (d : Draw) (of : Nat) :
    (State.noteUnderrun s o d of).cells = s₀.cells := by
  unfold State.noteUnderrun
  try dsimp only
  with_reducible
    repeat'
      first
      | assumption | intro u | apply ite_cells | apply ite_cells1 | apply ite_cells2 | apply foldl_cells
      | apply foldl_cells1 | apply foldl_cells2 | apply State.bump_cells_of | apply State.record_cells_of
      | apply State.underrun_cells_of | apply State.setOutput_cells_of | apply State.outputEvent_cells_of
      | apply State.setReg_cells_of | apply State.thirdUnderrun_cells_of
      | simp only [State.cells_mk, State.mem_cells] | split | dsimp only

theorem State.underrun_cells_of {s₀ s : State} (hk : s.cells = s₀.cells) (o : Nat) (d : Draw) (x : Nat) (y : Nat) :
    (State.underrun s o d x y).cells = s₀.cells := by
  unfold State.underrun
  try dsimp only
  with_reducible
    repeat'
      first
      | assumption | intro u | apply ite_cells | apply ite_cells1 | apply ite_cells2 | apply foldl_cells
      | apply foldl_cells1 | apply foldl_cells2 | apply State.switchOff_cells_of
      | apply State.noteUnderrun_cells_of | simp only [State.cells_mk, State.mem_cells] | split | dsimp only

theorem State.refuseLayer_cells_of {s₀ s : State} (hk : s.cells = s₀.cells) (o : Nat) (d : Draw) :
    (State.refuseLayer s o d).cells = s₀.cells := by
  unfold State.refuseLayer
  try dsimp only
  with_reducible
    repeat'
      first
      | assumption | intro u | apply ite_cells | apply ite_cells1 | apply ite_cells2 | apply foldl_cells
      | apply foldl_cells1 | apply foldl_cells2 | apply State.switchOffNext_cells_of
      | apply State.noteUnderrun_cells_of | apply State.underrun_cells_of
      | simp only [State.cells_mk, State.mem_cells] | split | dsimp only

theorem State.fillFrames_cells_of {s₀ s : State} (hk : s.cells = s₀.cells) (line : Nat) (outs : List Nat) :
    (State.fillFrames s line outs).cells = s₀.cells := by
  unfold State.fillFrames
  try dsimp only
  with_reducible
    repeat'
      first
      | assumption | intro u | apply ite_cells | apply ite_cells1 | apply ite_cells2 | apply foldl_cells
      | apply foldl_cells1 | apply foldl_cells2 | apply State.setOutput_cells_of
      | simp only [State.cells_mk, State.mem_cells] | split | dsimp only

theorem State.noReserve_cells_of {s₀ s : State} (hk : s.cells = s₀.cells) (e : Nat) (outs : List Nat) (strikes : Bool) :
    (State.noReserve s e outs strikes).cells = s₀.cells := by
  unfold State.noReserve
  try dsimp only
  with_reducible
    repeat'
      first
      | assumption | intro u | apply ite_cells | apply ite_cells1 | apply ite_cells2 | apply foldl_cells
      | apply foldl_cells1 | apply foldl_cells2 | apply State.record_cells_of | apply State.setOutput_cells_of
      | apply State.strike_cells_of | apply State.triggerReplan_cells_of | apply State.escalate_cells_of
      | simp only [State.cells_mk, State.mem_cells] | split | dsimp only

theorem State.serveFailed_cells_of {s₀ s : State} (hk : s.cells = s₀.cells) (e : Nat) (outs : List Nat) (busy : Bool) (said : Bool) :
    (State.serveFailed s e outs busy said).cells = s₀.cells := by
  unfold State.serveFailed
  try dsimp only
  with_reducible
    repeat'
      first
      | assumption | intro u | apply ite_cells | apply ite_cells1 | apply ite_cells2 | apply foldl_cells
      | apply foldl_cells1 | apply foldl_cells2 | apply State.noReserve_cells_of | apply State.record_cells_of
      | apply State.strike_cells_of | simp only [State.cells_mk, State.mem_cells] | split | dsimp only

theorem State.failEngine_cells_of {s₀ s : State} (hk : s.cells = s₀.cells) (e : Nat) (cause : Nat) (line : Nat) :
    (State.failEngine s e cause line).cells = s₀.cells := by
  unfold State.failEngine
  try dsimp only
  with_reducible
    repeat'
      first
      | assumption | intro u | apply ite_cells | apply ite_cells1 | apply ite_cells2 | apply foldl_cells
      | apply foldl_cells1 | apply foldl_cells2 | apply State.setReg_cells_of | apply State.advanceEpoch_cells_of
      | apply State.fillFrames_cells_of | apply State.setEngine_cells_of | apply State.abandonWriteback_cells_of
      | apply State.restartPlacing_cells_of | apply State.record_cells_of | apply State.serveFailed_cells_of
      | simp only [State.cells_mk, State.mem_cells] | split | dsimp only

theorem State.serveWaiting_cells_of {s₀ s : State} (hk : s.cells = s₀.cells)  :
    (State.serveWaiting s).cells = s₀.cells := by
  unfold State.serveWaiting
  try dsimp only
  with_reducible
    repeat'
      first
      | assumption | intro u | apply ite_cells | apply ite_cells1 | apply ite_cells2 | apply foldl_cells
      | apply foldl_cells1 | apply foldl_cells2 | apply State.serveFailed_cells_of
      | simp only [State.cells_mk, State.mem_cells] | split | dsimp only

theorem State.armReserve_cells_of {s₀ s : State} (hk : s.cells = s₀.cells) (x : Subst) (r : Nat) :
    (State.armReserve s x r).cells = s₀.cells := by
  unfold State.armReserve
  try dsimp only
  with_reducible
    repeat'
      first
      | assumption | intro u | apply ite_cells | apply ite_cells1 | apply ite_cells2 | apply foldl_cells
      | apply foldl_cells1 | apply foldl_cells2 | apply State.moveEngine_cells_of | apply State.setReg_cells_of
      | apply State.leaveSubst_cells_of | simp only [State.cells_mk, State.mem_cells] | split | dsimp only

theorem State.noteLink_cells_of {s₀ s : State} (hk : s.cells = s₀.cells) (o : Nat) (c : Code) :
    (State.noteLink s o c).cells = s₀.cells := by
  unfold State.noteLink
  try dsimp only
  with_reducible
    repeat'
      first
      | assumption | intro u | apply ite_cells | apply ite_cells1 | apply ite_cells2 | apply foldl_cells
      | apply foldl_cells1 | apply foldl_cells2 | apply State.record_cells_of
      | simp only [State.cells_mk, State.mem_cells] | split | dsimp only

theorem tableOp_cells_of {s₀ s : State} (hk : s.cells = s₀.cells)  (ss i : Nat) (v : Val) :
    (tableOp  s ss i v).1.cells = s₀.cells := by
  unfold tableOp
  try dsimp only
  with_reducible
    repeat'
      first
      | assumption | intro u | apply ite_cells | apply ite_cells1 | apply ite_cells2 | apply foldl_cells
      | apply foldl_cells1 | apply foldl_cells2 | apply State.setShadow_cells_of
      | simp only [State.cells_mk, State.mem_cells] | split | dsimp only

theorem State.oldestOrigin_cells_of {s₀ s : State} (hk : s.cells = s₀.cells) (ds : List Draw) :
    (State.oldestOrigin s ds).2.cells = s₀.cells := by
  unfold State.oldestOrigin
  try dsimp only
  with_reducible
    repeat'
      first
      | assumption | intro u | apply ite_cells | apply ite_cells1 | apply ite_cells2 | apply foldl_cells
      | apply foldl_cells1 | apply foldl_cells2 | apply State.draw_cells_of
      | simp only [State.cells_mk, State.mem_cells] | split | dsimp only

theorem State.startWriteback_cells_of {s₀ s : State} (hk : s.cells = s₀.cells) (e : Nat) (o : Nat) (of : Nat) :
    (State.startWriteback s e o of).cells = s₀.cells := by
  unfold State.startWriteback
  try dsimp only
  with_reducible
    repeat'
      first
      | assumption | intro u | apply ite_cells | apply ite_cells1 | apply ite_cells2 | apply foldl_cells
      | apply foldl_cells1 | apply foldl_cells2 | apply State.setEngine_cells_of | apply State.applyFrozen_cells_of
      | apply State.takeFree_cells_of | apply State.abandonWriteback_cells_of | apply State.oldestOrigin_cells_of
      | apply State.setIngot_cells_of | apply State.countFrom_cells_of | apply State.countFrame_cells_of
      | simp only [State.cells_mk, State.mem_cells] | split | dsimp only

theorem State.loseWriteback_cells_of {s₀ s : State} (hk : s.cells = s₀.cells) (e : Nat) (address : Nat) :
    (State.loseWriteback s e address).cells = s₀.cells := by
  unfold State.loseWriteback
  try dsimp only
  with_reducible
    repeat'
      first
      | assumption | intro u | apply ite_cells | apply ite_cells1 | apply ite_cells2 | apply foldl_cells
      | apply foldl_cells1 | apply foldl_cells2 | apply State.abandonWriteback_cells_of
      | simp only [State.cells_mk, State.mem_cells] | split | dsimp only

theorem State.loseInbound_cells_of {s₀ s : State} (hk : s.cells = s₀.cells) (p : Nat) (address : Nat) :
    (State.loseInbound s p address).cells = s₀.cells := by
  unfold State.loseInbound
  try dsimp only
  with_reducible
    repeat'
      first
      | assumption | intro u | apply ite_cells | apply ite_cells1 | apply ite_cells2 | apply foldl_cells
      | apply foldl_cells1 | apply foldl_cells2 | apply State.abandon_cells_of | apply State.setRx_cells_of
      | apply State.dropFrame_cells_of | apply State.setPort_cells_of | simp only [State.cells_mk, State.mem_cells]
      | split | dsimp only

theorem State.loseStaging_cells_of {s₀ s : State} (hk : s.cells = s₀.cells) (c : Nat) (address : Nat) :
    (State.loseStaging s c address).cells = s₀.cells := by
  unfold State.loseStaging
  try dsimp only
  with_reducible
    repeat'
      first
      | assumption | intro u | apply ite_cells | apply ite_cells1 | apply ite_cells2 | apply foldl_cells
      | apply foldl_cells1 | apply foldl_cells2 | apply State.setCtx_cells_of | apply State.dropCamera_cells_of
      | simp only [State.cells_mk, State.mem_cells] | split | dsimp only

theorem State.loseRepeat_cells_of {s₀ s : State} (hk : s.cells = s₀.cells) (port : Nat) (address : Nat) :
    (State.loseRepeat s port address).cells = s₀.cells := by
  unfold State.loseRepeat
  try dsimp only
  with_reducible
    repeat'
      first
      | assumption | intro u | apply ite_cells | apply ite_cells1 | apply ite_cells2 | apply foldl_cells
      | apply foldl_cells1 | apply foldl_cells2 | apply State.setOutput_cells_of | apply State.setReg_cells_of
      | apply State.record_cells_of | simp only [State.cells_mk, State.mem_cells] | split | dsimp only

theorem State.failLayer_cells_of {s₀ s : State} (hk : s.cells = s₀.cells) (o : Nat) (d : Draw) (i : Nat) :
    (State.failLayer s o d i).cells = s₀.cells := by
  unfold State.failLayer
  try dsimp only
  with_reducible
    repeat'
      first
      | assumption | intro u | apply ite_cells | apply ite_cells1 | apply ite_cells2 | apply foldl_cells
      | apply foldl_cells1 | apply foldl_cells2 | apply State.switchOffNext_cells_of
      | apply State.switchOff_cells_of | apply State.setIngot_cells_of
      | simp only [State.cells_mk, State.mem_cells] | split | dsimp only

theorem State.putHostRead_cells_of {s₀ s : State} (hk : s.cells = s₀.cells) (old : HostRead) (new : HostRead) :
    (State.putHostRead s old new).cells = s₀.cells := by
  unfold State.putHostRead
  try dsimp only
  with_reducible
    repeat'
      first
      | assumption | intro u | apply ite_cells | apply ite_cells1 | apply ite_cells2 | apply foldl_cells
      | apply foldl_cells1 | apply foldl_cells2 | simp only [State.cells_mk, State.mem_cells] | split | dsimp only

theorem State.abortRead_cells_of {s₀ s : State} (hk : s.cells = s₀.cells) (port : Nat) (r : FabReq) :
    (State.abortRead s port r).cells = s₀.cells := by
  unfold State.abortRead
  try dsimp only
  with_reducible
    repeat'
      first
      | assumption | intro u | apply ite_cells | apply ite_cells1 | apply ite_cells2 | apply foldl_cells
      | apply foldl_cells1 | apply foldl_cells2 | apply State.send_cells_of | apply State.putHostRead_cells_of
      | simp only [State.cells_mk, State.mem_cells] | split | dsimp only

theorem State.hostData_cells_of {s₀ s : State} (hk : s.cells = s₀.cells) (r : FabReq) (bs : Bytes) :
    (State.hostData s r bs).cells = s₀.cells := by
  unfold State.hostData
  try dsimp only
  with_reducible
    repeat'
      first
      | assumption | intro u | apply ite_cells | apply ite_cells1 | apply ite_cells2 | apply foldl_cells
      | apply foldl_cells1 | apply foldl_cells2 | apply State.putHostRead_cells_of | apply State.send_cells_of
      | simp only [State.cells_mk, State.mem_cells] | split | dsimp only

theorem State.closeSessions_cells_of {s₀ s : State} (hk : s.cells = s₀.cells) (which : Session → Bool) :
    (State.closeSessions s which).cells = s₀.cells := by
  unfold State.closeSessions
  try dsimp only
  with_reducible
    repeat'
      first
      | assumption | intro u | apply ite_cells | apply ite_cells1 | apply ite_cells2 | apply foldl_cells
      | apply foldl_cells1 | apply foldl_cells2 | simp only [State.cells_mk, State.mem_cells] | split | dsimp only

theorem State.closePcie_cells_of {s₀ s : State} (hk : s.cells = s₀.cells)  :
    (State.closePcie s).cells = s₀.cells := by
  unfold State.closePcie
  try dsimp only
  with_reducible
    repeat'
      first
      | assumption | intro u | apply ite_cells | apply ite_cells1 | apply ite_cells2 | apply foldl_cells
      | apply foldl_cells1 | apply foldl_cells2 | apply State.closeSessions_cells_of
      | simp only [State.cells_mk, State.mem_cells] | split | dsimp only

theorem State.clearReady_cells_of {s₀ s : State} (hk : s.cells = s₀.cells) (bit : Nat) :
    (State.clearReady s bit).cells = s₀.cells := by
  unfold State.clearReady
  try dsimp only
  with_reducible
    repeat'
      first
      | assumption | intro u | apply ite_cells | apply ite_cells1 | apply ite_cells2 | apply foldl_cells
      | apply foldl_cells1 | apply foldl_cells2 | apply State.setReg_cells_of
      | simp only [State.cells_mk, State.mem_cells] | split | dsimp only

theorem State.setBanks_cells_of {s₀ s : State} (hk : s.cells = s₀.cells) (st : Nat) :
    (State.setBanks s st).cells = s₀.cells := by
  unfold State.setBanks
  try dsimp only
  with_reducible
    repeat'
      first
      | assumption | intro u | apply ite_cells | apply ite_cells1 | apply ite_cells2 | apply foldl_cells
      | apply foldl_cells1 | apply foldl_cells2 | apply State.setReg_cells_of | apply State.advanceEpoch_cells_of
      | simp only [State.cells_mk, State.mem_cells] | split | dsimp only

theorem State.serveEthernet_cells_of {s₀ s : State} (hk : s.cells = s₀.cells)  :
    (State.serveEthernet s).cells = s₀.cells := by
  unfold State.serveEthernet
  try dsimp only
  with_reducible
    repeat'
      first
      | assumption | intro u | apply ite_cells | apply ite_cells1 | apply ite_cells2 | apply foldl_cells
      | apply foldl_cells1 | apply foldl_cells2 | apply State.setReady_cells_of
      | simp only [State.cells_mk, State.mem_cells] | split | dsimp only

theorem State.domainUp_cells_of {s₀ s : State} (hk : s.cells = s₀.cells) (d : Nat) :
    (State.domainUp s d).cells = s₀.cells := by
  unfold State.domainUp
  try dsimp only
  with_reducible
    repeat'
      first
      | assumption | intro u | apply ite_cells | apply ite_cells1 | apply ite_cells2 | apply foldl_cells
      | apply foldl_cells1 | apply foldl_cells2 | apply State.record_cells_of | apply State.serveEthernet_cells_of
      | apply State.setReg_cells_of | apply State.setChan_cells_of | apply State.tryStartPort_cells_of
      | apply State.setReady_cells_of | apply State.setBanks_cells_of | simp only [State.cells_mk, State.mem_cells]
      | split | dsimp only

theorem State.losePortClock_cells_of {s₀ s : State} (hk : s.cells = s₀.cells) (p : Nat) :
    (State.losePortClock s p).cells = s₀.cells := by
  unfold State.losePortClock
  try dsimp only
  with_reducible
    repeat'
      first
      | assumption | intro u | apply ite_cells | apply ite_cells1 | apply ite_cells2 | apply foldl_cells
      | apply foldl_cells1 | apply foldl_cells2 | apply State.record_cells_of
      | simp only [State.cells_mk, State.mem_cells] | split | dsimp only

theorem State.strikeDomain_cells_of {s₀ s : State} (hk : s.cells = s₀.cells) (d : Nat) :
    (State.strikeDomain s d).cells = s₀.cells := by
  unfold State.strikeDomain
  try dsimp only
  with_reducible
    repeat'
      first
      | assumption | intro u | apply ite_cells | apply ite_cells1 | apply ite_cells2 | apply foldl_cells
      | apply foldl_cells1 | apply foldl_cells2 | apply State.strikeRunning_cells_of | apply State.strike_cells_of
      | apply State.restartPlacing_cells_of | simp only [State.cells_mk, State.mem_cells] | split | dsimp only

theorem State.failFunctions_cells_of {s₀ s : State} (hk : s.cells = s₀.cells) (d : Nat) (c : Code) :
    (State.failFunctions s d c).cells = s₀.cells := by
  unfold State.failFunctions
  try dsimp only
  with_reducible
    repeat'
      first
      | assumption | intro u | apply ite_cells | apply ite_cells1 | apply ite_cells2 | apply foldl_cells
      | apply foldl_cells1 | apply foldl_cells2 | apply State.setFailed_cells_of
      | simp only [State.cells_mk, State.mem_cells] | split | dsimp only

theorem forceOnOp_cells_of {s₀ s : State} (hk : s.cells = s₀.cells)  (ss i : Nat) (v : Val) :
    (forceOnOp  s ss i v).1.cells = s₀.cells := by
  unfold forceOnOp
  try dsimp only
  with_reducible
    repeat'
      first
      | assumption | intro u | apply ite_cells | apply ite_cells1 | apply ite_cells2 | apply foldl_cells
      | apply foldl_cells1 | apply foldl_cells2 | apply State.setReg_cells_of | apply State.settlePower_cells_of
      | simp only [State.cells_mk, State.mem_cells] | split | dsimp only

theorem State.endSwap_cells_of {s₀ s : State} (hk : s.cells = s₀.cells)  :
    (State.endSwap s).cells = s₀.cells := by
  unfold State.endSwap
  try dsimp only
  with_reducible
    repeat'
      first
      | assumption | intro u | apply ite_cells | apply ite_cells1 | apply ite_cells2 | apply foldl_cells
      | apply foldl_cells1 | apply foldl_cells2 | simp only [State.cells_mk, State.mem_cells] | split | dsimp only

theorem State.noteSlot_cells_of {s₀ s : State} (hk : s.cells = s₀.cells) (event : Nat) (c : Code) (k : Nat) :
    (State.noteSlot s event c k).cells = s₀.cells := by
  unfold State.noteSlot
  try dsimp only
  with_reducible
    repeat'
      first
      | assumption | intro u | apply ite_cells | apply ite_cells1 | apply ite_cells2 | apply foldl_cells
      | apply foldl_cells1 | apply foldl_cells2 | apply State.record_cells_of
      | simp only [State.cells_mk, State.mem_cells] | split | dsimp only

theorem State.startSlot_cells_of {s₀ s : State} (hk : s.cells = s₀.cells) (k : Nat) :
    (State.startSlot s k).cells = s₀.cells := by
  unfold State.startSlot
  try dsimp only
  with_reducible
    repeat'
      first
      | assumption | intro u | apply ite_cells | apply ite_cells1 | apply ite_cells2 | apply foldl_cells
      | apply foldl_cells1 | apply foldl_cells2 | apply State.setReg_cells_of
      | simp only [State.cells_mk, State.mem_cells] | split | dsimp only

theorem State.loadSaved_cells_of {s₀ s : State} (whole : State) (h : s.cells = s₀.cells) (slot : Nat) (v : Val) :
    (State.loadSaved whole s slot v).cells = s₀.cells := by
  unfold State.loadSaved
  dsimp only
  split
  · exact h
  · split
    · exact State.record_cells_of h _ _ _ _ _
    · split
      · exact State.setShadow_cells_of h _ _ _
      · split
        · exact State.setActive_cells_of h _ _ _
        · exact State.setActive_cells_of h _ _ _

theorem State.loadStore_cells_of {s₀ s : State} (hk : s.cells = s₀.cells)  :
    (State.loadStore s).cells = s₀.cells := by
  unfold State.loadStore
  try dsimp only
  with_reducible
    repeat'
      first
      | assumption | intro u | apply ite_cells | apply ite_cells1 | apply ite_cells2 | apply foldl_cells
      | apply foldl_cells1 | apply foldl_cells2 | apply State.setReg_cells_of | apply State.setBlob_cells_of
      | apply State.loadSaved_cells_of | apply State.setPairState_cells_of
      | simp only [State.cells_mk, State.mem_cells] | split | dsimp only

theorem State.recoverTally_cells_of {s₀ s : State} (hk : s.cells = s₀.cells)  :
    (State.recoverTally s).cells = s₀.cells := by
  unfold State.recoverTally
  try dsimp only
  with_reducible
    repeat'
      first
      | assumption | intro u | apply ite_cells | apply ite_cells1 | apply ite_cells2 | apply foldl_cells
      | apply foldl_cells1 | apply foldl_cells2 | apply State.record_cells_of
      | simp only [State.cells_mk, State.mem_cells] | split | dsimp only

theorem State.romStart_cells_of {s₀ s : State} (hk : s.cells = s₀.cells) (want : Nat) :
    (State.romStart s want).cells = s₀.cells := by
  unfold State.romStart
  try dsimp only
  with_reducible
    repeat'
      first
      | assumption | intro u | apply ite_cells | apply ite_cells1 | apply ite_cells2 | apply foldl_cells
      | apply foldl_cells1 | apply foldl_cells2 | apply State.startSlot_cells_of | apply State.noteSlot_cells_of
      | apply State.endSwap_cells_of | simp only [State.cells_mk, State.mem_cells] | split | dsimp only

theorem State.loadMemory_cells_of {s₀ s : State} (hk : s.cells = s₀.cells)  :
    (State.loadMemory s).cells = s₀.cells := by
  unfold State.loadMemory
  try dsimp only
  with_reducible
    repeat'
      first
      | assumption | intro u | apply ite_cells | apply ite_cells1 | apply ite_cells2 | apply foldl_cells
      | apply foldl_cells1 | apply foldl_cells2 | apply State.setReg_cells_of
      | simp only [State.cells_mk, State.mem_cells] | split | dsimp only

theorem State.bootUp_cells_of {s₀ s : State} (hk : s.cells = s₀.cells)  :
    (State.bootUp s).cells = s₀.cells := by
  unfold State.bootUp
  try dsimp only
  with_reducible
    repeat'
      first
      | assumption | intro u | apply ite_cells | apply ite_cells1 | apply ite_cells2 | apply foldl_cells
      | apply foldl_cells1 | apply foldl_cells2 | apply State.recoverTally_cells_of
      | apply State.loadMemory_cells_of | apply State.loadStore_cells_of
      | simp only [State.cells_mk, State.mem_cells] | split | dsimp only

theorem State.servePaths_cells_of {s₀ s : State} (hk : s.cells = s₀.cells)  :
    (State.servePaths s).cells = s₀.cells := by
  unfold State.servePaths
  try dsimp only
  with_reducible
    repeat'
      first
      | assumption | intro u | apply ite_cells | apply ite_cells1 | apply ite_cells2 | apply foldl_cells
      | apply foldl_cells1 | apply foldl_cells2 | apply State.setReady_cells_of
      | apply State.serveEthernet_cells_of | apply State.record_cells_of | apply State.lockTime_cells_of
      | apply State.serveWaiting_cells_of | simp only [State.cells_mk, State.mem_cells] | split | dsimp only

theorem State.failSwap_cells_of {s₀ s : State} (hk : s.cells = s₀.cells) (h : HandOff) :
    (State.failSwap s h).cells = s₀.cells := by
  unfold State.failSwap
  try dsimp only
  with_reducible
    repeat'
      first
      | assumption | intro u | apply ite_cells | apply ite_cells1 | apply ite_cells2 | apply foldl_cells
      | apply foldl_cells1 | apply foldl_cells2 | apply State.noteSlot_cells_of | apply State.romStart_cells_of
      | simp only [State.cells_mk, State.mem_cells] | split | dsimp only

theorem State.mainLoop_cells_of {s₀ s : State} (hk : s.cells = s₀.cells) (handOffRead : Bool) :
    (State.mainLoop s handOffRead).cells = s₀.cells := by
  unfold State.mainLoop
  try dsimp only
  with_reducible
    repeat'
      first
      | assumption | intro u | apply ite_cells | apply ite_cells1 | apply ite_cells2 | apply foldl_cells
      | apply foldl_cells1 | apply foldl_cells2 | apply State.endSwap_cells_of | apply State.servePaths_cells_of
      | apply State.failSwap_cells_of | apply State.setReg_cells_of | apply State.noteSlot_cells_of
      | simp only [State.cells_mk, State.mem_cells] | split | dsimp only

theorem imageChunkOp_cells_of {s₀ s : State} (hk : s.cells = s₀.cells)  (ss i : Nat) (v : Val) :
    (imageChunkOp  s ss i v).1.cells = s₀.cells := by
  unfold imageChunkOp
  try dsimp only
  with_reducible
    repeat'
      first
      | assumption | intro u | apply ite_cells | apply ite_cells1 | apply ite_cells2 | apply foldl_cells
      | apply foldl_cells1 | apply foldl_cells2 | apply State.setReg_cells_of
      | simp only [State.cells_mk, State.mem_cells] | split | dsimp only

theorem verifySlotOp_cells_of {s₀ s : State} (hk : s.cells = s₀.cells)  (ss i : Nat) (v : Val) :
    (verifySlotOp  s ss i v).1.cells = s₀.cells := by
  unfold verifySlotOp
  try dsimp only
  with_reducible
    repeat'
      first
      | assumption | intro u | apply ite_cells | apply ite_cells1 | apply ite_cells2 | apply foldl_cells
      | apply foldl_cells1 | apply foldl_cells2 | apply State.setReg_cells_of
      | simp only [State.cells_mk, State.mem_cells] | split | dsimp only

theorem State.swap_cells_of {s₀ s : State} (hk : s.cells = s₀.cells) (dest : Nat) (back : Bool) :
    (State.swap s dest back).cells = s₀.cells := by
  unfold State.swap
  try dsimp only
  with_reducible
    repeat'
      first
      | assumption | intro u | apply ite_cells | apply ite_cells1 | apply ite_cells2 | apply foldl_cells
      | apply foldl_cells1 | apply foldl_cells2 | apply State.closeSessions_cells_of
      | apply State.clearReady_cells_of | apply State.romStart_cells_of | apply State.bootUp_cells_of
      | apply State.settlePower_cells_of | simp only [State.cells_mk, State.mem_cells] | split | dsimp only

theorem activateOp_cells_of {s₀ s : State} (hk : s.cells = s₀.cells)  (ss i : Nat) (v : Val) :
    (activateOp  s ss i v).1.cells = s₀.cells := by
  unfold activateOp
  try dsimp only
  with_reducible
    repeat'
      first
      | assumption | intro u | apply ite_cells | apply ite_cells1 | apply ite_cells2 | apply foldl_cells
      | apply foldl_cells1 | apply foldl_cells2 | apply State.swap_cells_of
      | simp only [State.cells_mk, State.mem_cells] | split | dsimp only

theorem confirmOp_cells_of {s₀ s : State} (hk : s.cells = s₀.cells)  (ss i : Nat) (v : Val) :
    (confirmOp  s ss i v).1.cells = s₀.cells := by
  unfold confirmOp
  try dsimp only
  with_reducible
    repeat'
      first
      | assumption | intro u | apply ite_cells | apply ite_cells1 | apply ite_cells2 | apply foldl_cells
      | apply foldl_cells1 | apply foldl_cells2 | apply State.setReg_cells_of | apply State.writeNv_cells_of
      | simp only [State.cells_mk, State.mem_cells] | split | dsimp only

theorem State.becomeActive_cells_of {s₀ s : State} (hk : s.cells = s₀.cells)  :
    (State.becomeActive s).cells = s₀.cells := by
  unfold State.becomeActive
  try dsimp only
  with_reducible
    repeat'
      first
      | assumption | intro u | apply ite_cells | apply ite_cells1 | apply ite_cells2 | apply foldl_cells
      | apply foldl_cells1 | apply foldl_cells2 | apply State.enterActive_cells_of
      | apply State.placeStartUp_cells_of | simp only [State.cells_mk, State.mem_cells] | split | dsimp only

theorem State.enterResync_cells_of {s₀ s : State} (hk : s.cells = s₀.cells)  :
    (State.enterResync s).cells = s₀.cells := by
  unfold State.enterResync
  try dsimp only
  with_reducible
    repeat'
      first
      | assumption | intro u | apply ite_cells | apply ite_cells1 | apply ite_cells2 | apply foldl_cells
      | apply foldl_cells1 | apply foldl_cells2 | apply State.setPairState_cells_of
      | simp only [State.cells_mk, State.mem_cells] | split | dsimp only

theorem State.parkPort_cells_of {s₀ s : State} (hk : s.cells = s₀.cells) (p : Nat) :
    (State.parkPort s p).cells = s₀.cells := by
  unfold State.parkPort
  try dsimp only
  with_reducible
    repeat'
      first
      | assumption | intro u | apply ite_cells | apply ite_cells1 | apply ite_cells2 | apply foldl_cells
      | apply foldl_cells1 | apply foldl_cells2 | apply State.setPort_cells_of
      | simp only [State.cells_mk, State.mem_cells] | split | dsimp only

theorem State.fencePort_cells_of {s₀ s : State} (hk : s.cells = s₀.cells) (p : Nat) :
    (State.fencePort s p).cells = s₀.cells := by
  unfold State.fencePort
  try dsimp only
  with_reducible
    repeat'
      first
      | assumption | intro u | apply ite_cells | apply ite_cells1 | apply ite_cells2 | apply foldl_cells
      | apply foldl_cells1 | apply foldl_cells2 | apply State.setPort_cells_of | apply State.parkPort_cells_of
      | simp only [State.cells_mk, State.mem_cells] | split | dsimp only

theorem State.notePartner_cells_of {s₀ s : State} (hk : s.cells = s₀.cells) (now : Nat) :
    (State.notePartner s now).cells = s₀.cells := by
  unfold State.notePartner
  try dsimp only
  with_reducible
    repeat'
      first
      | assumption | intro u | apply ite_cells | apply ite_cells1 | apply ite_cells2 | apply foldl_cells
      | apply foldl_cells1 | apply foldl_cells2 | apply State.setReg_cells_of | apply State.setPairState_cells_of
      | apply State.pushAll_cells_of | simp only [State.cells_mk, State.mem_cells] | split | dsimp only

theorem State.setSection_cells_of {s₀ s : State} (hk : s.cells = s₀.cells) (copy : Nat) (k : Nat) (x : Section') :
    (State.setSection s copy k x).cells = s₀.cells := by
  unfold State.setSection
  try dsimp only
  with_reducible
    repeat'
      first
      | assumption | intro u | apply ite_cells | apply ite_cells1 | apply ite_cells2 | apply foldl_cells
      | apply foldl_cells1 | apply foldl_cells2 | simp only [State.cells_mk, State.mem_cells] | split | dsimp only

theorem State.bellowsError_cells_of {s₀ s : State} (hk : s.cells = s₀.cells)  :
    (State.bellowsError s).cells = s₀.cells := by
  unfold State.bellowsError
  try dsimp only
  with_reducible
    repeat'
      first
      | assumption | intro u | apply ite_cells | apply ite_cells1 | apply ite_cells2 | apply foldl_cells
      | apply foldl_cells1 | apply foldl_cells2 | apply State.bump_cells_of | apply State.recordLimited_cells_of
      | simp only [State.cells_mk, State.mem_cells] | split | dsimp only

theorem State.onBellows_cells_of {s₀ s : State} (hk : s.cells = s₀.cells) (frame : Bytes) (type : Nat) (f : State → State) (hf : ∀ u, u.cells = s₀.cells → (f u).cells = s₀.cells) :
    (State.onBellows s frame type f).cells = s₀.cells := by
  unfold State.onBellows
  try dsimp only
  with_reducible
    repeat'
      first
      | assumption | intro u | apply ite_cells | apply ite_cells1 | apply ite_cells2 | apply foldl_cells
      | apply foldl_cells1 | apply foldl_cells2 | apply hf | apply State.bellowsError_cells_of
      | simp only [State.cells_mk, State.mem_cells] | split | dsimp only

theorem State.takeSection_cells_of {s₀ s : State} (hk : s.cells = s₀.cells) (frame : Bytes) :
    (State.takeSection s frame).cells = s₀.cells := by
  unfold State.takeSection
  try dsimp only
  with_reducible
    repeat'
      first
      | assumption | intro u | apply ite_cells | apply ite_cells1 | apply ite_cells2 | apply foldl_cells
      | apply foldl_cells1 | apply foldl_cells2 | apply State.setSection_cells_of
      | simp only [State.cells_mk, State.mem_cells] | split | dsimp only

theorem State.selectHeader_cells_of {s₀ s : State} (hk : s.cells = s₀.cells)  :
    (State.selectHeader s).cells = s₀.cells := by
  unfold State.selectHeader
  try dsimp only
  with_reducible
    repeat'
      first
      | assumption | intro u | apply ite_cells | apply ite_cells1 | apply ite_cells2 | apply foldl_cells
      | apply foldl_cells1 | apply foldl_cells2 | simp only [State.cells_mk, State.mem_cells] | split | dsimp only

theorem State.takeCommitFrame_cells_of {s₀ s : State} (hk : s.cells = s₀.cells) (frame : Bytes) :
    (State.takeCommitFrame s frame).cells = s₀.cells := by
  unfold State.takeCommitFrame
  try dsimp only
  with_reducible
    repeat'
      first
      | assumption | intro u | apply ite_cells | apply ite_cells1 | apply ite_cells2 | apply foldl_cells
      | apply foldl_cells1 | apply foldl_cells2 | apply State.setReg_cells_of
      | simp only [State.cells_mk, State.mem_cells] | split | dsimp only

theorem State.takeTimeFrame_cells_of {s₀ s : State} (hk : s.cells = s₀.cells) (frame : Bytes) :
    (State.takeTimeFrame s frame).cells = s₀.cells := by
  unfold State.takeTimeFrame
  try dsimp only
  with_reducible
    repeat'
      first
      | assumption | intro u | apply ite_cells | apply ite_cells1 | apply ite_cells2 | apply foldl_cells
      | apply foldl_cells1 | apply foldl_cells2 | apply State.draw_cells_of
      | simp only [State.cells_mk, State.mem_cells] | split | dsimp only

theorem State.imageLedger_cells_of {s₀ s : State} (hk : s.cells = s₀.cells)  :
    (State.imageLedger s).cells = s₀.cells := by
  unfold State.imageLedger
  try dsimp only
  with_reducible
    repeat'
      first
      | assumption | intro u | apply ite_cells | apply ite_cells1 | apply ite_cells2 | apply foldl_cells
      | apply foldl_cells1 | apply foldl_cells2 | simp only [State.cells_mk, State.mem_cells] | split | dsimp only

theorem State.installLedger_cells_of {s₀ s : State} (hk : s.cells = s₀.cells)  :
    (State.installLedger s).cells = s₀.cells := by
  unfold State.installLedger
  try dsimp only
  with_reducible
    repeat'
      first
      | assumption | intro u | apply ite_cells | apply ite_cells1 | apply ite_cells2 | apply foldl_cells
      | apply foldl_cells1 | apply foldl_cells2 | apply State.imageLedger_cells_of | apply timeSourceOp_cells_of
      | apply State.setReg_cells_of | simp only [State.cells_mk, State.mem_cells] | split | dsimp only

theorem State.imageConfig_cells_of {s₀ s : State} (hk : s.cells = s₀.cells)  :
    (State.imageConfig s).cells = s₀.cells := by
  unfold State.imageConfig
  try dsimp only
  with_reducible
    repeat'
      first
      | assumption | intro u | apply ite_cells | apply ite_cells1 | apply ite_cells2 | apply foldl_cells
      | apply foldl_cells1 | apply foldl_cells2 | apply State.imageLedger_cells_of
      | apply State.configPlan_cells_of | simp only [State.cells_mk, State.mem_cells] | split | dsimp only

theorem State.adoptPorts_cells_of {s₀ s : State} (hk : s.cells = s₀.cells)  :
    (State.adoptPorts s).cells = s₀.cells := by
  unfold State.adoptPorts
  try dsimp only
  with_reducible
    repeat'
      first
      | assumption | intro u | apply ite_cells | apply ite_cells1 | apply ite_cells2 | apply foldl_cells
      | apply foldl_cells1 | apply foldl_cells2 | apply State.imageConfig_cells_of
      | apply State.tryStartPort_cells_of | apply State.setFlag_cells_of | apply State.settlePower_cells_of
      | simp only [State.cells_mk, State.mem_cells] | split | dsimp only

theorem State.declareLost_cells_of {s₀ s : State} (hk : s.cells = s₀.cells)  :
    (State.declareLost s).cells = s₀.cells := by
  unfold State.declareLost
  try dsimp only
  with_reducible
    repeat'
      first
      | assumption | intro u | apply ite_cells | apply ite_cells1 | apply ite_cells2 | apply foldl_cells
      | apply foldl_cells1 | apply foldl_cells2 | apply State.setReg_cells_of | apply State.bump_cells_of
      | apply State.imageConfig_cells_of | apply State.settleDomain_cells_of
      | simp only [State.cells_mk, State.mem_cells] | split | dsimp only

theorem State.seedTime_cells_of {s₀ s : State} (hk : s.cells = s₀.cells) (hearthTicks : Nat) :
    (State.seedTime s hearthTicks).cells = s₀.cells := by
  unfold State.seedTime
  try dsimp only
  with_reducible
    repeat'
      first
      | assumption | intro u | apply ite_cells | apply ite_cells1 | apply ite_cells2 | apply foldl_cells
      | apply foldl_cells1 | apply foldl_cells2 | apply State.draw_cells_of | apply State.setReg_cells_of
      | apply State.setRegI_cells_of | apply State.record_cells_of | simp only [State.cells_mk, State.mem_cells]
      | split | dsimp only

theorem State.dropVolatile_cells_of {s₀ s : State} (hk : s.cells = s₀.cells)  :
    (State.dropVolatile s).cells = s₀.cells := by
  unfold State.dropVolatile
  try dsimp only
  with_reducible
    repeat'
      first
      | assumption | intro u | apply ite_cells | apply ite_cells1 | apply ite_cells2 | apply foldl_cells
      | apply foldl_cells1 | apply foldl_cells2 | apply State.closeSessions_cells_of
      | simp only [State.cells_mk, State.mem_cells] | split | dsimp only

theorem State.installViews_cells_of {s₀ s : State} (hk : s.cells = s₀.cells)  :
    (State.installViews s).cells = s₀.cells := by
  unfold State.installViews
  try dsimp only
  with_reducible
    repeat'
      first
      | assumption | intro u | apply ite_cells | apply ite_cells1 | apply ite_cells2 | apply foldl_cells
      | apply foldl_cells1 | apply foldl_cells2 | simp only [State.cells_mk, State.mem_cells] | split | dsimp only

theorem State.faultOutputs_cells_of {s₀ s : State} (hk : s.cells = s₀.cells)  :
    (State.faultOutputs s).cells = s₀.cells := by
  unfold State.faultOutputs
  try dsimp only
  with_reducible
    repeat'
      first
      | assumption | intro u | apply ite_cells | apply ite_cells1 | apply ite_cells2 | apply foldl_cells
      | apply foldl_cells1 | apply foldl_cells2 | apply State.setOutput_cells_of
      | simp only [State.cells_mk, State.mem_cells] | split | dsimp only

theorem State.waitOutputs_cells_of {s₀ s : State} (hk : s.cells = s₀.cells)  :
    (State.waitOutputs s).cells = s₀.cells := by
  unfold State.waitOutputs
  try dsimp only
  with_reducible
    repeat'
      first
      | assumption | intro u | apply ite_cells | apply ite_cells1 | apply ite_cells2 | apply foldl_cells
      | apply foldl_cells1 | apply foldl_cells2 | apply State.setOutput_cells_of
      | simp only [State.cells_mk, State.mem_cells] | split | dsimp only

theorem State.restorePort_cells_of {s₀ s : State} (hk : s.cells = s₀.cells) (p : Nat) :
    (State.restorePort s p).cells = s₀.cells := by
  unfold State.restorePort
  try dsimp only
  with_reducible
    repeat'
      first
      | assumption | intro u | apply ite_cells | apply ite_cells1 | apply ite_cells2 | apply foldl_cells
      | apply foldl_cells1 | apply foldl_cells2 | apply State.setReg_cells_of | apply State.setLane_cells_of
      | apply State.setPort_cells_of | simp only [State.cells_mk, State.mem_cells] | split | dsimp only

theorem State.trainedRecord_cells_of {s₀ s : State} (hk : s.cells = s₀.cells) (c : Nat) :
    (State.trainedRecord s c).2.cells = s₀.cells := by
  unfold State.trainedRecord
  try dsimp only
  with_reducible
    repeat'
      first
      | assumption | intro u | apply ite_cells | apply ite_cells1 | apply ite_cells2 | apply foldl_cells
      | apply foldl_cells1 | apply foldl_cells2 | apply State.draw_cells_of
      | simp only [State.cells_mk, State.mem_cells] | split | dsimp only

theorem State.writeOwn_cells_of {s₀ s : State} (hk : s.cells = s₀.cells) (ports : List Nat) :
    (State.writeOwn s ports).cells = s₀.cells := by
  unfold State.writeOwn
  try dsimp only
  with_reducible
    repeat'
      first
      | assumption | intro u | apply ite_cells | apply ite_cells1 | apply ite_cells2 | apply foldl_cells
      | apply foldl_cells1 | apply foldl_cells2 | apply State.trainedRecord_cells_of
      | simp only [State.cells_mk, State.mem_cells] | split | dsimp only

theorem State.unparkPorts_cells_of {s₀ s : State} (hk : s.cells = s₀.cells)  :
    (State.unparkPorts s).cells = s₀.cells := by
  unfold State.unparkPorts
  try dsimp only
  with_reducible
    repeat'
      first
      | assumption | intro u | apply ite_cells | apply ite_cells1 | apply ite_cells2 | apply foldl_cells
      | apply foldl_cells1 | apply foldl_cells2 | apply State.setPort_cells_of | apply State.restorePort_cells_of
      | apply State.leaveBanked_cells_of | apply State.tryStartPort_cells_of
      | simp only [State.cells_mk, State.mem_cells] | split | dsimp only

theorem State.logLoss_cells_of {s₀ s : State} (hk : s.cells = s₀.cells)  :
    (State.logLoss s).cells = s₀.cells := by
  unfold State.logLoss
  try dsimp only
  with_reducible
    repeat'
      first
      | assumption | intro u | apply ite_cells | apply ite_cells1 | apply ite_cells2 | apply foldl_cells
      | apply foldl_cells1 | apply foldl_cells2 | apply State.recordAt_cells_of
      | simp only [State.cells_mk, State.mem_cells] | split | dsimp only

theorem handOverOp_cells_of {s₀ s : State} (hk : s.cells = s₀.cells)  (ss i : Nat) (v : Val) :
    (handOverOp  s ss i v).1.cells = s₀.cells := by
  unfold handOverOp
  try dsimp only
  with_reducible
    repeat'
      first
      | assumption | intro u | apply ite_cells | apply ite_cells1 | apply ite_cells2 | apply foldl_cells
      | apply foldl_cells1 | apply foldl_cells2 | apply State.yieldPair_cells_of
      | simp only [State.cells_mk, State.mem_cells] | split | dsimp only

theorem State.fuseFailed_cells_of {s₀ s : State} (hk : s.cells = s₀.cells) (key : Nat) :
    (State.fuseFailed s key).1.cells = s₀.cells := by
  unfold State.fuseFailed
  try dsimp only
  with_reducible
    repeat'
      first
      | assumption | intro u | apply ite_cells | apply ite_cells1 | apply ite_cells2 | apply foldl_cells
      | apply foldl_cells1 | apply foldl_cells2 | apply State.record_cells_of
      | simp only [State.cells_mk, State.mem_cells] | split | dsimp only

theorem State.limitedChange_cells_of {s₀ s : State} (hk : s.cells = s₀.cells) (key : Nat) (new : Nat) (left : Nat) (e : FuseEnd) (f : Fuses → Fuses) :
    (State.limitedChange s key new left e f).1.cells = s₀.cells := by
  unfold State.limitedChange
  try dsimp only
  with_reducible
    repeat'
      first
      | assumption | intro u | apply ite_cells | apply ite_cells1 | apply ite_cells2 | apply foldl_cells
      | apply foldl_cells1 | apply foldl_cells2 | apply State.fuseFailed_cells_of | apply State.record_cells_of
      | simp only [State.cells_mk, State.mem_cells] | split | dsimp only

theorem policyOp_cells_of {s₀ s : State} (hk : s.cells = s₀.cells) (e : FuseEnd) (ss i : Nat) (v : Val) :
    (policyOp e s ss i v).1.cells = s₀.cells := by
  unfold policyOp
  try dsimp only
  with_reducible
    repeat'
      first
      | assumption | intro u | apply ite_cells | apply ite_cells1 | apply ite_cells2 | apply foldl_cells
      | apply foldl_cells1 | apply foldl_cells2 | apply State.limitedChange_cells_of
      | simp only [State.cells_mk, State.mem_cells] | split | dsimp only

theorem debugLockOp_cells_of {s₀ s : State} (hk : s.cells = s₀.cells) (e : FuseEnd) (ss i : Nat) (v : Val) :
    (debugLockOp e s ss i v).1.cells = s₀.cells := by
  unfold debugLockOp
  try dsimp only
  with_reducible
    repeat'
      first
      | assumption | intro u | apply ite_cells | apply ite_cells1 | apply ite_cells2 | apply foldl_cells
      | apply foldl_cells1 | apply foldl_cells2 | apply State.limitedChange_cells_of
      | simp only [State.cells_mk, State.mem_cells] | split | dsimp only

theorem roleLockOp_cells_of {s₀ s : State} (hk : s.cells = s₀.cells) (e : FuseEnd) (ss i : Nat) (v : Val) :
    (roleLockOp e s ss i v).1.cells = s₀.cells := by
  unfold roleLockOp
  try dsimp only
  with_reducible
    repeat'
      first
      | assumption | intro u | apply ite_cells | apply ite_cells1 | apply ite_cells2 | apply foldl_cells
      | apply foldl_cells1 | apply foldl_cells2 | apply State.limitedChange_cells_of
      | simp only [State.cells_mk, State.mem_cells] | split | dsimp only

theorem wallAliasOp_cells_of {s₀ s : State} (hk : s.cells = s₀.cells) (e : FuseEnd) (ss i : Nat) (v : Val) :
    (wallAliasOp e s ss i v).1.cells = s₀.cells := by
  unfold wallAliasOp
  try dsimp only
  with_reducible
    repeat'
      first
      | assumption | intro u | apply ite_cells | apply ite_cells1 | apply ite_cells2 | apply foldl_cells
      | apply foldl_cells1 | apply foldl_cells2 | apply State.limitedChange_cells_of | apply State.listen_cells_of
      | simp only [State.cells_mk, State.mem_cells] | split | dsimp only

theorem minSecurityOp_cells_of {s₀ s : State} (hk : s.cells = s₀.cells) (verified : Bool) (ss i : Nat) (v : Val) :
    (minSecurityOp verified s ss i v).1.cells = s₀.cells := by
  unfold minSecurityOp
  try dsimp only
  with_reducible
    repeat'
      first
      | assumption | intro u | apply ite_cells | apply ite_cells1 | apply ite_cells2 | apply foldl_cells
      | apply foldl_cells1 | apply foldl_cells2 | apply State.fuseFailed_cells_of
      | simp only [State.cells_mk, State.mem_cells] | split | dsimp only

theorem revokeImageKeyOp_cells_of {s₀ s : State} (hk : s.cells = s₀.cells) (verified : Bool) (ss i : Nat) (v : Val) :
    (revokeImageKeyOp verified s ss i v).1.cells = s₀.cells := by
  unfold revokeImageKeyOp
  try dsimp only
  with_reducible
    repeat'
      first
      | assumption | intro u | apply ite_cells | apply ite_cells1 | apply ite_cells2 | apply foldl_cells
      | apply foldl_cells1 | apply foldl_cells2 | apply State.fuseFailed_cells_of
      | simp only [State.cells_mk, State.mem_cells] | split | dsimp only

theorem programKeyOp_cells_of {s₀ s : State} (hk : s.cells = s₀.cells) (verified : Bool) (ss i : Nat) (v : Val) :
    (programKeyOp verified s ss i v).1.cells = s₀.cells := by
  unfold programKeyOp
  try dsimp only
  with_reducible
    repeat'
      first
      | assumption | intro u | apply ite_cells | apply ite_cells1 | apply ite_cells2 | apply foldl_cells
      | apply foldl_cells1 | apply foldl_cells2 | apply State.fuseFailed_cells_of
      | simp only [State.cells_mk, State.mem_cells] | split | dsimp only

theorem revokeKeyOp_cells_of {s₀ s : State} (hk : s.cells = s₀.cells) (verified : Bool) (ss i : Nat) (v : Val) :
    (revokeKeyOp verified s ss i v).1.cells = s₀.cells := by
  unfold revokeKeyOp
  try dsimp only
  with_reducible
    repeat'
      first
      | assumption | intro u | apply ite_cells | apply ite_cells1 | apply ite_cells2 | apply foldl_cells
      | apply foldl_cells1 | apply foldl_cells2 | apply State.fuseFailed_cells_of
      | apply State.closeSessions_cells_of | simp only [State.cells_mk, State.mem_cells] | split | dsimp only

theorem storeOp_cells_of {s₀ s : State} (hk : s.cells = s₀.cells) (key : Nat) (e : StoreEnd) (ss i : Nat) (v : Val) :
    (storeOp key e s ss i v).1.cells = s₀.cells := by
  unfold storeOp
  try dsimp only
  with_reducible
    repeat'
      first
      | assumption | intro u | apply ite_cells | apply ite_cells1 | apply ite_cells2 | apply foldl_cells
      | apply foldl_cells1 | apply foldl_cells2 | apply State.writeNv_cells_of | apply State.setActive_cells_of
      | simp only [State.cells_mk, State.mem_cells] | split | dsimp only

theorem saveConfigOp_cells_of {s₀ s : State} (hk : s.cells = s₀.cells) (e : StoreEnd) (ss i : Nat) (v : Val) :
    (saveConfigOp e s ss i v).1.cells = s₀.cells := by
  unfold saveConfigOp
  try dsimp only
  with_reducible
    repeat'
      first
      | assumption | intro u | apply ite_cells | apply ite_cells1 | apply ite_cells2 | apply foldl_cells
      | apply foldl_cells1 | apply foldl_cells2 | apply State.writeNv_cells_of
      | simp only [State.cells_mk, State.mem_cells] | split | dsimp only

theorem eraseConfigOp_cells_of {s₀ s : State} (hk : s.cells = s₀.cells) (e : StoreEnd) (ss i : Nat) (v : Val) :
    (eraseConfigOp e s ss i v).1.cells = s₀.cells := by
  unfold eraseConfigOp
  try dsimp only
  with_reducible
    repeat'
      first
      | assumption | intro u | apply ite_cells | apply ite_cells1 | apply ite_cells2 | apply foldl_cells
      | apply foldl_cells1 | apply foldl_cells2 | apply State.writeNv_cells_of
      | simp only [State.cells_mk, State.mem_cells] | split | dsimp only

theorem trustOp_cells_of {s₀ s : State} (hk : s.cells = s₀.cells)  (ss i : Nat) (v : Val) :
    (trustOp  s ss i v).1.cells = s₀.cells := by
  unfold trustOp
  try dsimp only
  with_reducible
    repeat'
      first
      | assumption | intro u | apply ite_cells | apply ite_cells1 | apply ite_cells2 | apply foldl_cells
      | apply foldl_cells1 | apply foldl_cells2 | apply State.setReg_cells_of | apply State.startListening_cells_of
      | apply State.followTimePort_cells_of | simp only [State.cells_mk, State.mem_cells] | split | dsimp only

theorem polarityOp_cells_of {s₀ s : State} (hk : s.cells = s₀.cells)  (ss i : Nat) (v : Val) :
    (polarityOp  s ss i v).1.cells = s₀.cells := by
  unfold polarityOp
  try dsimp only
  with_reducible
    repeat'
      first
      | assumption | intro u | apply ite_cells | apply ite_cells1 | apply ite_cells2 | apply foldl_cells
      | apply foldl_cells1 | apply foldl_cells2 | apply State.setReg_cells_of
      | simp only [State.cells_mk, State.mem_cells] | split | dsimp only

theorem spareOp_cells_of {s₀ s : State} (hk : s.cells = s₀.cells)  (ss i : Nat) (v : Val) :
    (spareOp  s ss i v).1.cells = s₀.cells := by
  unfold spareOp
  try dsimp only
  with_reducible
    repeat'
      first
      | assumption | intro u | apply ite_cells | apply ite_cells1 | apply ite_cells2 | apply foldl_cells
      | apply foldl_cells1 | apply foldl_cells2 | apply State.setReg_cells_of | apply State.settlePower_cells_of
      | simp only [State.cells_mk, State.mem_cells] | split | dsimp only

theorem ptpPortsOp_cells_of {s₀ s : State} (hk : s.cells = s₀.cells)  (ss i : Nat) (v : Val) :
    (ptpPortsOp  s ss i v).1.cells = s₀.cells := by
  unfold ptpPortsOp
  try dsimp only
  with_reducible
    repeat'
      first
      | assumption | intro u | apply ite_cells | apply ite_cells1 | apply ite_cells2 | apply foldl_cells
      | apply foldl_cells1 | apply foldl_cells2 | apply State.setReg_cells_of | apply State.settlePower_cells_of
      | simp only [State.cells_mk, State.mem_cells] | split | dsimp only

theorem State.hold_cells_of {s₀ s : State} (hk : s.cells = s₀.cells) (h : HeldWrite) :
    (State.hold s h).cells = s₀.cells := by
  unfold State.hold
  try dsimp only
  with_reducible
    repeat'
      first
      | assumption | intro u | apply ite_cells | apply ite_cells1 | apply ite_cells2 | apply foldl_cells
      | apply foldl_cells1 | apply foldl_cells2 | simp only [State.cells_mk, State.mem_cells] | split | dsimp only

theorem State.newSession_cells_of {s₀ s : State} (hk : s.cells = s₀.cells) (p : Peer) (level : Nat) (nonce : Bytes) :
    (State.newSession s p level nonce).1.cells = s₀.cells := by
  unfold State.newSession
  try dsimp only
  with_reducible
    repeat'
      first
      | assumption | intro u | apply ite_cells | apply ite_cells1 | apply ite_cells2 | apply foldl_cells
      | apply foldl_cells1 | apply foldl_cells2 | apply State.draw_cells_of | apply State.drawBytes_cells_of
      | simp only [State.cells_mk, State.mem_cells] | split | dsimp only

theorem State.noteOpen_cells_of {s₀ s : State} (hk : s.cells = s₀.cells) (p : Peer) (c : Code) :
    (State.noteOpen s p c).cells = s₀.cells := by
  unfold State.noteOpen
  try dsimp only
  with_reducible
    repeat'
      first
      | assumption | intro u | apply ite_cells | apply ite_cells1 | apply ite_cells2 | apply foldl_cells
      | apply foldl_cells1 | apply foldl_cells2 | apply State.bump_cells_of | apply State.notePort_cells_of
      | apply State.noteRefusal_cells_of | simp only [State.cells_mk, State.mem_cells] | split | dsimp only

theorem State.serveOpen_cells_of {s₀ s : State} (hk : s.cells = s₀.cells) (p : Peer) (r : Req) :
    (State.serveOpen s p r).1.cells = s₀.cells := by
  unfold State.serveOpen
  try dsimp only
  with_reducible
    repeat'
      first
      | assumption | intro u | apply ite_cells | apply ite_cells1 | apply ite_cells2 | apply foldl_cells
      | apply foldl_cells1 | apply foldl_cells2 | apply State.noteOpen_cells_of | apply State.newSession_cells_of
      | simp only [State.cells_mk, State.mem_cells] | split | dsimp only

theorem State.authFailed_cells_of {s₀ s : State} (hk : s.cells = s₀.cells) (x : Session) (c : Code) :
    (State.authFailed s x c).cells = s₀.cells := by
  unfold State.authFailed
  try dsimp only
  with_reducible
    repeat'
      first
      | assumption | intro u | apply ite_cells | apply ite_cells1 | apply ite_cells2 | apply foldl_cells
      | apply foldl_cells1 | apply foldl_cells2 | apply State.closeSessions_cells_of | apply State.bump_cells_of
      | apply State.record_cells_of | simp only [State.cells_mk, State.mem_cells] | split | dsimp only

theorem State.serveRespond_cells_of {s₀ s : State} (hk : s.cells = s₀.cells) (x : Session) (r : Req) :
    (State.serveRespond s x r).1.cells = s₀.cells := by
  unfold State.serveRespond
  try dsimp only
  with_reducible
    repeat'
      first
      | assumption | intro u | apply ite_cells | apply ite_cells1 | apply ite_cells2 | apply foldl_cells
      | apply foldl_cells1 | apply foldl_cells2 | apply State.authFailed_cells_of | apply State.setSession_cells_of
      | simp only [State.cells_mk, State.mem_cells] | split | dsimp only

theorem State.takeValue_cells_of {s₀ s : State} (hk : s.cells = s₀.cells) (x : Session) (key : Nat) (e : Entry) :
    (State.takeValue s x key e).1.cells = s₀.cells := by
  unfold State.takeValue
  try dsimp only
  with_reducible
    repeat'
      first
      | assumption | intro u | apply ite_cells | apply ite_cells1 | apply ite_cells2 | apply foldl_cells
      | apply foldl_cells1 | apply foldl_cells2 | apply State.takeKeyRecords_cells_of
      | simp only [State.cells_mk, State.mem_cells] | split | dsimp only

theorem State.serveRead_cells_of {s₀ s : State} (hk : s.cells = s₀.cells) (x : Session) (r : Req) (e : Entry) :
    (State.serveRead s x r e).1.cells = s₀.cells := by
  unfold State.serveRead
  try dsimp only
  with_reducible
    repeat'
      first
      | assumption | intro u | apply ite_cells | apply ite_cells1 | apply ite_cells2 | apply foldl_cells
      | apply foldl_cells1 | apply foldl_cells2 | apply State.noteRefusal_cells_of | apply State.takeValue_cells_of
      | apply State.setSession_cells_of | simp only [State.cells_mk, State.mem_cells] | split | dsimp only

theorem State.keepResponse_cells_of {s₀ s : State} (hk : s.cells = s₀.cells) (ss : Nat) (txn : Nat) (frame : Bytes) :
    (State.keepResponse s ss txn frame).cells = s₀.cells := by
  unfold State.keepResponse
  try dsimp only
  with_reducible
    repeat'
      first
      | assumption | intro u | apply ite_cells | apply ite_cells1 | apply ite_cells2 | apply foldl_cells
      | apply foldl_cells1 | apply foldl_cells2 | apply State.setSession_cells_of
      | simp only [State.cells_mk, State.mem_cells] | split | dsimp only

theorem State.deliver_cells_of {s₀ s : State} (hk : s.cells = s₀.cells) (p : Peer) (frame : Bytes) :
    (State.deliver s p frame).cells = s₀.cells := by
  unfold State.deliver
  try dsimp only
  with_reducible
    repeat'
      first
      | assumption | intro u | apply ite_cells | apply ite_cells1 | apply ite_cells2 | apply foldl_cells
      | apply foldl_cells1 | apply foldl_cells2 | apply State.send_cells_of | apply State.sendMessage_cells_of
      | simp only [State.cells_mk, State.mem_cells] | split | dsimp only

theorem State.setCanMsg_cells_of {s₀ s : State} (hk : s.cells = s₀.cells) (c : Nat) (node : Nat) (m : Option CanMsg) :
    (State.setCanMsg s c node m).cells = s₀.cells := by
  unfold State.setCanMsg
  try dsimp only
  with_reducible
    repeat'
      first
      | assumption | intro u | apply ite_cells | apply ite_cells1 | apply ite_cells2 | apply foldl_cells
      | apply foldl_cells1 | apply foldl_cells2 | simp only [State.cells_mk, State.mem_cells] | split | dsimp only

theorem State.dropCanMsg_cells_of {s₀ s : State} (hk : s.cells = s₀.cells) (c : Nat) (node : Nat) (m : CanMsg) (extra : Nat) (code : Code) :
    (State.dropCanMsg s c node m extra code).cells = s₀.cells := by
  unfold State.dropCanMsg
  try dsimp only
  with_reducible
    repeat'
      first
      | assumption | intro u | apply ite_cells | apply ite_cells1 | apply ite_cells2 | apply foldl_cells
      | apply foldl_cells1 | apply foldl_cells2 | apply State.setCanMsg_cells_of | apply State.bumpBy_cells_of
      | apply State.deliver_cells_of | simp only [State.cells_mk, State.mem_cells] | split | dsimp only

theorem State.admitDatagram_cells_of {s₀ s : State} (hk : s.cells = s₀.cells) : (State.admitDatagram s).1.cells = s₀.cells := by
  obtain ⟨w, b, h⟩ : ∃ w b, s.admitDatagram = ({ s with acc := { s.acc with udpWindow := w } }, b) := by
    unfold State.admitDatagram; exact ⟨_, _, rfl⟩
  rw [h]
  exact hk

theorem State.setMailbox_cells_of {s₀ s : State} (hk : s.cells = s₀.cells) (m : Nat) (status : Nat) (reply : Bytes) :
    (State.setMailbox s m status reply).cells = s₀.cells := by
  unfold State.setMailbox
  try dsimp only
  with_reducible
    repeat'
      first
      | assumption | intro u | apply ite_cells | apply ite_cells1 | apply ite_cells2 | apply foldl_cells
      | apply foldl_cells1 | apply foldl_cells2 | apply State.reply_cells_of
      | simp only [State.cells_mk, State.mem_cells] | split | dsimp only

theorem State.fillBuffer_cells_of {s₀ s : State} (hk : s.cells = s₀.cells) (m : Nat) (off : Nat) (bs : Bytes) :
    (State.fillBuffer s m off bs).cells = s₀.cells := by
  unfold State.fillBuffer
  try dsimp only
  with_reducible
    repeat'
      first
      | assumption | intro u | apply ite_cells | apply ite_cells1 | apply ite_cells2 | apply foldl_cells
      | apply foldl_cells1 | apply foldl_cells2 | simp only [State.cells_mk, State.mem_cells] | split | dsimp only

theorem State.freeMailbox_cells_of {s₀ s : State} (hk : s.cells = s₀.cells) (m : Nat) :
    (State.freeMailbox s m).cells = s₀.cells := by
  unfold State.freeMailbox
  try dsimp only
  with_reducible
    repeat'
      first
      | assumption | intro u | apply ite_cells | apply ite_cells1 | apply ite_cells2 | apply foldl_cells
      | apply foldl_cells1 | apply foldl_cells2 | apply State.setMailbox_cells_of
      | simp only [State.cells_mk, State.mem_cells] | split | dsimp only

theorem State.discardWrite_cells_of {s₀ s : State} (hk : s.cells = s₀.cells) (a : Nat) (i : Nat) (requester : BitVec 16) :
    (State.discardWrite s a i requester).cells = s₀.cells := by
  unfold State.discardWrite
  try dsimp only
  with_reducible
    repeat'
      first
      | assumption | intro u | apply ite_cells | apply ite_cells1 | apply ite_cells2 | apply foldl_cells
      | apply foldl_cells1 | apply foldl_cells2 | apply State.bump_cells_of | apply State.setReg_cells_of
      | apply State.recordEvery_cells_of | simp only [State.cells_mk, State.mem_cells] | split | dsimp only

theorem State.setBar0Byte_cells_of {s₀ s : State} (hk : s.cells = s₀.cells) (o : Nat) (b : Byte) :
    (State.setBar0Byte s o b).cells = s₀.cells := by
  unfold State.setBar0Byte
  try dsimp only
  with_reducible
    repeat'
      first
      | assumption | intro u | apply ite_cells | apply ite_cells1 | apply ite_cells2 | apply foldl_cells
      | apply foldl_cells1 | apply foldl_cells2 | apply State.fillBuffer_cells_of
      | simp only [State.cells_mk, State.mem_cells] | split | dsimp only

theorem State.takeWallMessage_cells_of {s₀ s : State} (hk : s.cells = s₀.cells) (p : Nat) (b : Bytes) :
    (State.takeWallMessage s p b).cells = s₀.cells := by
  unfold State.takeWallMessage
  try dsimp only
  with_reducible
    repeat'
      first
      | assumption | intro u | apply ite_cells | apply ite_cells1 | apply ite_cells2 | apply foldl_cells
      | apply foldl_cells1 | apply foldl_cells2 | apply State.takePrepare_cells_of | apply State.takeReady_cells_of
      | apply State.takeRefuse_cells_of | apply State.takeGo_cells_of | apply State.takeAbort_cells_of
      | apply State.takeApplied_cells_of | simp only [State.cells_mk, State.mem_cells] | split | dsimp only

theorem State.raiseDue_cells_of {s₀ s : State} (hk : s.cells = s₀.cells)  :
    (State.raiseDue s).cells = s₀.cells := by
  unfold State.raiseDue
  try dsimp only
  with_reducible
    repeat'
      first
      | assumption | intro u | apply ite_cells | apply ite_cells1 | apply ite_cells2 | apply foldl_cells
      | apply foldl_cells1 | apply foldl_cells2 | apply State.send_cells_of
      | simp only [State.cells_mk, State.mem_cells] | split | dsimp only

theorem State.laneTicks_cells_of {s₀ s : State} (hk : s.cells = s₀.cells)  :
    (State.laneTicks s).cells = s₀.cells := by
  unfold State.laneTicks
  try dsimp only
  with_reducible
    repeat'
      first
      | assumption | intro u | apply ite_cells | apply ite_cells1 | apply ite_cells2 | apply foldl_cells
      | apply foldl_cells1 | apply foldl_cells2 | apply State.laneTick_cells_of
      | simp only [State.cells_mk, State.mem_cells] | split | dsimp only

theorem State.drainPorts_cells_of {s₀ s : State} (hk : s.cells = s₀.cells)  :
    (State.drainPorts s).cells = s₀.cells := by
  unfold State.drainPorts
  try dsimp only
  with_reducible
    repeat'
      first
      | assumption | intro u | apply ite_cells | apply ite_cells1 | apply ite_cells2 | apply foldl_cells
      | apply foldl_cells1 | apply foldl_cells2 | apply State.drainEther_cells_of
      | simp only [State.cells_mk, State.mem_cells] | split | dsimp only

theorem State.tick_cells_of {s₀ s : State} (hk : s.cells = s₀.cells)  :
    (State.tick s).cells = s₀.cells := by
  unfold State.tick
  try dsimp only
  with_reducible
    repeat'
      first
      | assumption | intro u | apply ite_cells | apply ite_cells1 | apply ite_cells2 | apply foldl_cells
      | apply foldl_cells1 | apply foldl_cells2 | apply State.raiseDue_cells_of | apply State.laneTicks_cells_of
      | apply State.drainPorts_cells_of | simp only [State.cells_mk, State.mem_cells] | split | dsimp only

end Sys2Proof.Machine
end

