-- ==== Sys2Proof/Laws/Digest.lean ====
section
/-! SUPPORT. Digests and checks: SHA-256 gives 32 bytes, and so does its HMAC; a string that ends in its CRC-32C passes the
check, and a number's bytes read back as the number. -/

namespace Sys2Proof.Machine

set_option Elab.async false

theorem beBytes_length (n v : Nat) : (beBytes n v).length = n := by
  induction n generalizing v with
  | zero => rfl
  | succ n ih => simp [beBytes, ih]

theorem Sha.round_length (h : Sha) (v : List Nat) (kw : Nat × Nat) : (h.round v kw).length = v.length := by
  unfold Sha.round
  split <;> rfl

theorem Sha.rounds_length (h : Sha) (l : List (Nat × Nat)) (v : List Nat) : (l.foldl h.round v).length = v.length := by
  induction l generalizing v with
  | nil => rfl
  | cons a l ih => simp [ih, Sha.round_length]

theorem Sha.block_length (h : Sha) (hv words : List Nat) : (h.block hv words).length = hv.length := by
  simp [Sha.block, Sha.rounds_length]

theorem Sha.run_length (h : Sha) (n : Nat) (hv : List Nat) (bs : Bytes) : (h.run n hv bs).length = hv.length := by
  induction n generalizing hv bs with
  | zero => rfl
  | succ n ih => simp [Sha.run, ih, Sha.block_length]

theorem sum_map_const (l : List Nat) : (l.map fun _ => 4).sum = 4 * l.length := by
  induction l with
  | nil => rfl
  | cons a l ih => simp [ih, Nat.mul_add]; omega

theorem sha256_length (bs : Bytes) : (sha256 bs).length = 32 := by
  have w : sha2x32.w / 8 = 4 := rfl
  simp only [sha256, Sha.digest, List.length_take, List.length_flatMap, beBytes_length, w]
  rw [sum_map_const, Sha.run_length]
  rfl

/-- A tag is 32 bytes (R419). -/
theorem hmacSha256_length (key msg : Bytes) : (hmacSha256 key msg).length = 32 := sha256_length _

/-- Folding the bytes of a number onto one: it is shifted up by their count. -/
theorem foldl_beBytes (len n acc : Nat) :
    (beBytes len n).foldl (fun a b => a * 256 + b.toNat) acc = acc * 256 ^ len + n % 256 ^ len := by
  induction len generalizing acc with
  | zero => simp [beBytes, Nat.mod_one]
  | succ k ih =>
    have h : n % (256 ^ k * 256) = n % 256 ^ k + 256 ^ k * (n / 256 ^ k % 256) := Nat.mod_mul
    have hb : (byte (n / 256 ^ k)).toNat = n / 256 ^ k % 256 := by simp [byte]
    rw [beBytes, List.foldl_cons, ih, hb, Nat.pow_succ, h, Nat.add_mul]
    rw [Nat.mul_assoc, Nat.mul_comm 256, Nat.mul_comm (n / 256 ^ k % 256)]
    omega

/-- Reading back the bytes of a number that fits gives the number. -/
theorem beNat_beBytes (len n : Nat) (h : n < 256 ^ len) : beNat (beBytes len n) = n := by
  rw [beNat, foldl_beBytes, Nat.zero_mul, Nat.zero_add, Nat.mod_eq_of_lt h]

/-- A reflected 32-bit register stays within 32 bits. -/
theorem crcBitRefl_lt {poly r : Nat} (hp : poly < 2 ^ 32) (hr : r < 2 ^ 32) : crcBitRefl poly r < 2 ^ 32 := by
  unfold crcBitRefl
  split
  · exact Nat.xor_lt_two_pow (by omega) hp
  · omega

theorem crcByteRefl_lt {poly r : Nat} (hp : poly < 2 ^ 32) (hr : r < 2 ^ 32) (b : Byte) : crcByteRefl poly r b < 2 ^ 32 := by
  have hb : b.toNat < 2 ^ 32 := by have := b.isLt; omega
  have h0 : Nat.xor r b.toNat < 2 ^ 32 := Nat.xor_lt_two_pow hr hb
  unfold crcByteRefl
  repeat first | exact h0 | refine crcBitRefl_lt hp ?_

theorem crcRefl_lt {poly r : Nat} (hp : poly < 2 ^ 32) (hr : r < 2 ^ 32) (bs : Bytes) : crcRefl poly r bs < 2 ^ 32 := by
  unfold crcRefl
  induction bs generalizing r with
  | nil => exact hr
  | cons b bs ih => exact ih (crcByteRefl_lt hp hr b)

/-- A CRC-32C fits in 32 bits. -/
theorem crc32c_lt (bs : Bytes) : crc32c bs < 2 ^ 32 :=
  Nat.xor_lt_two_pow (crcRefl_lt (by decide) (by decide) bs) (by decide)

/-- A string that ends in its CRC-32C passes the check. -/
theorem crcTailOk_append (bs : Bytes) : crcTailOk (bs ++ beBytes 4 (crc32c bs)) = true := by
  have hl : (bs ++ beBytes 4 (crc32c bs)).length - 4 = bs.length := by simp [beBytes_length]
  unfold crcTailOk
  rw [hl, List.drop_left, List.take_left, beNat_beBytes 4 _ (crc32c_lt bs)]
  simp [beBytes_length]

end Sys2Proof.Machine
end

