-- ==== Sys2Proof/Laws/Keeps.lean ====
section
/-! SUPPORT. What every operation of the model keeps, said once: the queue of commands, the one-way fuses, the canonical form
of the memory, the number of free values drawn, the bounds of the queues and logs. The laws of the chapters' operations are in the files KeepsBase
and following. -/

namespace Sys2Proof.Machine

set_option Elab.async false
set_option linter.unusedTactic false
set_option linter.unreachableTactic false

/-- What every operation keeps of the state `s` it started from, in the state `t` it has reached. -/
structure Keeps (s t : State) : Prop where
  pending : t.pending = s.pending
  fuses : s.fuses.Extends t.fuses
  keys : s.fuses.integratorKeys.length ≤ 4 → t.fuses.integratorKeys.length ≤ 4
  mem : Memory.wf s.dram.mem = true → Memory.wf t.dram.mem = true
  fresh : s.fresh ≤ t.fresh
  log : s.log.recs.length ≤ logSize → t.log.recs.length ≤ logSize
  sessions : s.acc.sessions.length ≤ 16 → t.acc.sessions.length ≤ 16
  errors : s.dram.errors.length ≤ memLogSize → t.dram.errors.length ≤ memLogSize
  tickets : s.commits.tickets.length ≤ ticketsKept → t.commits.tickets.length ≤ ticketsKept
  records : s.keys.queue.length ≤ 64 → t.keys.queue.length ≤ 64

theorem Fuses.Extends.refl (f : Fuses) : f.Extends f :=
  ⟨id, fun _ _ => id, Nat.le_refl _, fun _ => id, List.prefix_rfl, fun _ => id, List.prefix_rfl, List.prefix_rfl, List.prefix_rfl⟩

theorem Fuses.Extends.trans {f g h : Fuses} (a : f.Extends g) (b : g.Extends h) : f.Extends h where
  debugLock := b.debugLock ∘ a.debugLock
  policy := fun k hk => b.policy k hk ∘ a.policy k hk
  minSecurity := Nat.le_trans a.minSecurity b.minSecurity
  imageKeys := fun k => b.imageKeys k ∘ a.imageKeys k
  integratorKeys := a.integratorKeys.trans b.integratorKeys
  revoked := fun k => b.revoked k ∘ a.revoked k
  roleLocks := a.roleLocks.trans b.roleLocks
  aliases := a.aliases.trans b.aliases
  tally := a.tally.trans b.tally

theorem Keeps.refl (s : State) : Keeps s s := ⟨rfl, .refl _, id, id, Nat.le_refl _, id, id, id, id, id⟩

theorem Keeps.trans {s t u : State} (a : Keeps s t) (b : Keeps t u) : Keeps s u :=
  ⟨b.pending.trans a.pending, a.fuses.trans b.fuses, b.keys ∘ a.keys, b.mem ∘ a.mem, Nat.le_trans a.fresh b.fresh,
    b.log ∘ a.log, b.sessions ∘ a.sessions, b.errors ∘ a.errors, b.tickets ∘ a.tickets, b.records ∘ a.records⟩

/-- A record update of any other field keeps all. -/
theorem Keeps.mk_iff {s₀ t : State} (sent pins regs blobs shadow nvA nvB ingots groups sources slots smith plan
    planSlot outputs engines sinks panels recover ctxs pipes camPorts lanes ports time fabric pair scans power) :
    Keeps s₀ ⟨t.log, sent, pins, regs, blobs, shadow, t.acc, t.fuses, nvA, nvB, ingots, groups, sources, slots,
      smith, plan, planSlot, t.commits, outputs, engines, sinks, panels, recover, ctxs, pipes, camPorts, lanes, ports, time,
      fabric, t.dram, pair, t.keys, scans, power, t.fresh, t.pending⟩ ↔ Keeps s₀ t := by
  constructor <;> rintro ⟨⟩ <;> constructor <;> assumption

/-- An update of the channels or the evacuation keeps all. -/
theorem Keeps.mk_dram_iff {s₀ t : State} (sent pins regs blobs shadow nvA nvB ingots groups sources slots smith plan
    planSlot outputs engines sinks panels recover ctxs pipes camPorts lanes ports time fabric chans evacuating moved tracked pair scans
    power) :
    Keeps s₀ ⟨t.log, sent, pins, regs, blobs, shadow, t.acc, t.fuses, nvA, nvB, ingots, groups, sources, slots,
      smith, plan, planSlot, t.commits, outputs, engines, sinks, panels, recover, ctxs, pipes, camPorts, lanes, ports, time,
      fabric, ⟨t.dram.mem, chans, t.dram.errors, evacuating, moved, tracked⟩, pair, t.keys, scans, power, t.fresh, t.pending⟩ ↔
      Keeps s₀ t := by
  constructor <;> rintro ⟨⟩ <;> constructor <;> assumption

/-- An update of the paths beside the sessions keeps all. -/
theorem Keeps.mk_acc_iff {s₀ t : State} (sent pins regs blobs shadow failures lockedOut can udpWindow mailbox
    mailboxReply mailboxRequest msixTable heldWrites recovery nvA nvB ingots groups sources slots smith plan planSlot outputs engines sinks panels recover ctxs
    pipes camPorts lanes ports time fabric pair scans power) :
    Keeps s₀ ⟨t.log, sent, pins, regs, blobs, shadow, ⟨t.acc.sessions, failures, lockedOut, can, udpWindow, mailbox,
      mailboxReply, mailboxRequest, msixTable, heldWrites, recovery⟩, t.fuses, nvA, nvB, ingots, groups, sources, slots, smith, plan, planSlot, t.commits,
      outputs, engines, sinks, panels, recover, ctxs, pipes, camPorts, lanes, ports, time, fabric, t.dram, pair, t.keys,
      scans, power, t.fresh, t.pending⟩ ↔ Keeps s₀ t := by
  constructor <;> rintro ⟨⟩ <;> constructor <;> assumption

/-- An update of the log's limits or its vector keeps all. -/
theorem Keeps.mk_log_iff {s₀ t : State} (seq waiting waitAt dropped limits vector0At vector0Due sent pins regs blobs shadow nvA nvB ingots
    groups sources slots smith plan planSlot outputs engines sinks panels recover ctxs pipes camPorts lanes ports time fabric
    pair scans power) :
    Keeps s₀ ⟨⟨t.log.recs, seq, waiting, waitAt, dropped, limits, vector0At, vector0Due⟩, sent, pins, regs, blobs, shadow, t.acc, t.fuses,
      nvA, nvB, ingots, groups, sources, slots, smith, plan, planSlot, t.commits, outputs, engines, sinks, panels, recover,
      ctxs, pipes, camPorts, lanes, ports, time, fabric, t.dram, pair, t.keys, scans, power, t.fresh, t.pending⟩ ↔
      Keeps s₀ t := by
  constructor <;> rintro ⟨⟩ <;> constructor <;> assumption

/-- An empty log keeps all. -/
theorem Keeps.dropLog {s₀ s : State} (h : Keeps s₀ s) : Keeps s₀ { s with log := {} } :=
  { h with log := fun _ => Nat.zero_le _ }

/-- An update of the commits beside the ticket history keeps all. -/
theorem Keeps.mk_commits_iff {s₀ t : State} (sent pins regs blobs shadow nvA nvB ingots groups sources slots smith
    plan planSlot seq requests waiting others reports members listenSince hadPort lastPresence outputs engines sinks panels recover ctxs
    pipes camPorts lanes ports time fabric pair scans power) :
    Keeps s₀ ⟨t.log, sent, pins, regs, blobs, shadow, t.acc, t.fuses, nvA, nvB, ingots, groups, sources, slots,
      smith, plan, planSlot, ⟨seq, requests, waiting, t.commits.tickets, others, reports, members,
      listenSince, hadPort, lastPresence⟩, outputs, engines, sinks, panels, recover, ctxs, pipes, camPorts, lanes, ports, time, fabric, t.dram,
      pair, t.keys, scans, power, t.fresh, t.pending⟩ ↔ Keeps s₀ t := by
  constructor <;> rintro ⟨⟩ <;> constructor <;> assumption

/-- An update of the key front end beside its records keeps all. -/
theorem Keeps.mk_keys_iff {s₀ t : State} (sent pins regs blobs shadow nvA nvB ingots groups sources slots smith plan
    planSlot outputs engines sinks panels recover ctxs pipes camPorts lanes ports time fabric pair key dry scan saving
    lastActive autoAt short openAt dueAt scans power) :
    Keeps s₀ ⟨t.log, sent, pins, regs, blobs, shadow, t.acc, t.fuses, nvA, nvB, ingots, groups, sources, slots,
      smith, plan, planSlot, t.commits, outputs, engines, sinks, panels, recover, ctxs, pipes, camPorts, lanes, ports, time,
      fabric, t.dram, pair, ⟨key, dry, scan, t.keys.queue, saving, lastActive, autoAt, short, openAt, dueAt⟩, scans, power, t.fresh,
      t.pending⟩ ↔ Keeps s₀ t := by
  constructor <;> rintro ⟨⟩ <;> constructor <;> assumption

theorem ite_keeps {s₀ : State} {c : Prop} [Decidable c] {a b : State} (ha : Keeps s₀ a) (hb : Keeps s₀ b) :
    Keeps s₀ (if c then a else b) := by split <;> assumption

theorem ite_keeps_fst {α : Type} {s₀ : State} {c : Prop} [Decidable c] {a b : State × α} (ha : Keeps s₀ a.1) (hb : Keeps s₀ b.1) :
    Keeps s₀ (if c then a else b).1 := by split <;> assumption

theorem ite_keeps_snd {α : Type} {s₀ : State} {c : Prop} [Decidable c] {a b : α × State} (ha : Keeps s₀ a.2) (hb : Keeps s₀ b.2) :
    Keeps s₀ (if c then a else b).2 := by split <;> assumption

/-- A fold keeps what each of its steps keeps. -/
theorem foldl_keeps {α : Type} {s₀ t : State} {f : State → α → State} (hf : ∀ u a, Keeps s₀ u → Keeps s₀ (f u a))
    (xs : List α) (h : Keeps s₀ t) : Keeps s₀ (xs.foldl f t) := by
  induction xs generalizing t with
  | nil => exact h
  | cons a xs ih => exact ih (hf t a h)

theorem foldl_keeps_fst {α β : Type} {s₀ : State} {p : State × β} {f : State × β → α → State × β}
    (hf : ∀ u a, Keeps s₀ u.1 → Keeps s₀ (f u a).1) (xs : List α) (h : Keeps s₀ p.1) : Keeps s₀ (xs.foldl f p).1 := by
  induction xs generalizing p with
  | nil => exact h
  | cons a xs ih => exact ih (hf p a h)

theorem foldl_keeps_snd {α β : Type} {s₀ : State} {p : β × State} {f : β × State → α → β × State}
    (hf : ∀ u a, Keeps s₀ u.2 → Keeps s₀ (f u a).2) (xs : List α) (h : Keeps s₀ p.2) : Keeps s₀ (xs.foldl f p).2 := by
  induction xs generalizing p with
  | nil => exact h
  | cons a xs ih => exact ih (hf p a h)

/-- The outcome of a command keeps all: wherever it is a next state, that state does. -/
def OutKeeps (s₀ : State) (o : Out) : Prop := ∀ t, o = .next t → Keeps s₀ t

theorem OutKeeps.next {s₀ t : State} (h : Keeps s₀ t) : OutKeeps s₀ (.next t) := by
  intro u hu; cases hu; exact h

theorem OutKeeps.fault {s₀ : State} {r : Fault} : OutKeeps s₀ (.fault r) := by intro u hu; cases hu

theorem OutKeeps.ite {s₀ : State} {c : Prop} [Decidable c] {a b : Out} (ha : OutKeeps s₀ a) (hb : OutKeeps s₀ b) :
    OutKeeps s₀ (if c then a else b) := by split <;> assumption

theorem whenLive_keeps {s₀ s : State} {f : State → State} (h : Keeps s₀ s) (hf : Keeps s₀ (f s)) :
    OutKeeps s₀ (whenLive s f) := .next (ite_keeps hf h)

theorem whenFabric_keeps {s₀ s : State} {f : State → State} (h : Keeps s₀ s) (hf : Keeps s₀ (f s)) :
    OutKeeps s₀ (whenFabric s f) := .next (ite_keeps hf h)

theorem whenManaged_keeps {s₀ s : State} {f : State → State} (h : Keeps s₀ s) (hf : Keeps s₀ (f s)) :
    OutKeeps s₀ (whenManaged s f) := .next (ite_keeps hf h)

/-- A chapter's operation of a write keeps all. -/
def OpKeeps (op : WriteOp) : Prop := ∀ s₀ s ss i v, Keeps s₀ s → Keeps s₀ (op s ss i v).1

theorem OpKeeps.apply {op : WriteOp} (ho : OpKeeps op) {s₀ s : State} {ss i : Nat} {v : Val} (h : Keeps s₀ s) :
    Keeps s₀ (op s ss i v).1 := ho s₀ s ss i v h

/-! ### Memory -/

theorem Memory.wfFrom_write (m : List Host.Cell) (k : Nat) (v : Byte) (lo : Option Nat) (hk : ∀ l, lo = some l → l < k)
    (h : Memory.wfFrom lo m = true) : Memory.wfFrom lo (Memory.write m k v) = true := by
  induction m generalizing lo with
  | nil =>
    unfold Memory.write
    split
    · rfl
    · cases lo with
      | none => simp_all [Memory.wfFrom]
      | some l => simp_all [Memory.wfFrom]
  | cons c m ih =>
    obtain ⟨a, b⟩ := c
    simp only [Memory.wfFrom, Bool.and_eq_true] at h
    obtain ⟨⟨hlo, hb⟩, hm⟩ := h
    unfold Memory.write
    split
    · split
      · simp only [Memory.wfFrom, Bool.and_eq_true]; exact ⟨⟨hlo, hb⟩, hm⟩
      · simp only [Memory.wfFrom, Bool.and_eq_true]
        refine ⟨⟨?_, by simp_all⟩, ⟨by simp_all, hb⟩, hm⟩
        cases lo with
        | none => rfl
        | some l => simpa using hk l rfl
    · split
      · split
        · have : ∀ x, Memory.wfFrom (some a) x = true → Memory.wfFrom lo x = true := by
            intro x hx
            cases lo with
            | none => cases x with
              | nil => rfl
              | cons c x => obtain ⟨p, q⟩ := c; simp_all [Memory.wfFrom]
            | some l => cases x with
              | nil => rfl
              | cons c x => obtain ⟨p, q⟩ := c; simp_all [Memory.wfFrom]; omega
          exact this m hm
        · rename_i hne hv
          subst hne
          simp only [Memory.wfFrom, Bool.and_eq_true]
          exact ⟨⟨hlo, by simp_all⟩, hm⟩
      · simp only [Memory.wfFrom, Bool.and_eq_true]
        refine ⟨⟨hlo, hb⟩, ih (some a) ?_ hm⟩
        intro l hl; cases hl; omega

/-- Writing a byte keeps the canonical form. -/
theorem Memory.wf_write {m : List Host.Cell} (k : Nat) (v : Byte) (h : Memory.wf m = true) :
    Memory.wf (Memory.write m k v) = true :=
  Memory.wfFrom_write m k v none (by simp) h

/-- Writing a byte string keeps the canonical form. -/
theorem Memory.wf_writeN {m : List Host.Cell} (a : Nat) (bs : Bytes) (h : Memory.wf m = true) :
    Memory.wf (Memory.writeN m a bs) = true := by
  induction bs generalizing m a with
  | nil => exact h
  | cons b bs ih => exact ih (a + 1) (Memory.wf_write a b h)

theorem Memory.wfFrom_mono {m : List Host.Cell} {a : Nat} {lo : Option Nat} (hlo : ∀ l, lo = some l → l < a)
    (h : Memory.wfFrom (some a) m = true) : Memory.wfFrom lo m = true := by
  cases m with
  | nil => rfl
  | cons c m =>
    obtain ⟨p, q⟩ := c
    cases lo with
    | none => simp_all [Memory.wfFrom]
    | some l =>
      have := hlo l rfl
      simp_all [Memory.wfFrom]
      omega

theorem Memory.wfFrom_filter (p : Host.Cell → Bool) (m : List Host.Cell) (lo : Option Nat) (h : Memory.wfFrom lo m = true) :
    Memory.wfFrom lo (m.filter p) = true := by
  induction m generalizing lo with
  | nil => exact h
  | cons c m ih =>
    obtain ⟨a, b⟩ := c
    simp only [Memory.wfFrom, Bool.and_eq_true] at h
    obtain ⟨⟨hlo, hb⟩, hm⟩ := h
    rw [List.filter_cons]
    split
    · simp only [Memory.wfFrom, Bool.and_eq_true]
      exact ⟨⟨hlo, hb⟩, ih _ hm⟩
    · refine Memory.wfFrom_mono (a := a) ?_ (ih _ hm)
      intro l hl; subst hl; simpa using hlo

/-- Dropping cells keeps the canonical form. -/
theorem Memory.wf_filter {m : List Host.Cell} (p : Host.Cell → Bool) (h : Memory.wf m = true) :
    Memory.wf (m.filter p) = true := Memory.wfFrom_filter p m none h

theorem State.store_keeps {s₀ s : State} (a : Nat) (bs : Bytes) (h : Keeps s₀ s) : Keeps s₀ (s.store a bs) :=
  { h with mem := fun w => Memory.wf_writeN a bs (h.mem w) }

theorem State.draw_keeps {s₀ s : State} (h : Keeps s₀ s) : Keeps s₀ s.draw.2 :=
  { h with fresh := Nat.le_succ_of_le h.fresh }

end Sys2Proof.Machine
end

