-- ==== Sys2Proof/Laws/KeepsBase.lean ====
section
/-! SUPPORT. The laws of `Keeps` for the operations of the ledger file, the log, time and Ingots: each keeps what `Keeps` lists, in the state
it leaves. -/

namespace Sys2Proof.Machine

set_option Elab.async false
set_option linter.unusedTactic false
set_option linter.unreachableTactic false

theorem State.setReg_keeps {s₀ s : State} (hk : Keeps s₀ s) (key : Nat) (inst : Nat) (v : Nat) :
    Keeps s₀ (State.setReg s key inst v) := by
  unfold State.setReg
  try dsimp only
  with_reducible
    repeat'
      first
      | assumption | simp only [Keeps.mk_iff] | dsimp only

theorem State.setRegI_keeps {s₀ s : State} (hk : Keeps s₀ s) (key : Nat) (inst : Nat) (w : Nat) (z : Int) :
    Keeps s₀ (State.setRegI s key inst w z) := by
  unfold State.setRegI
  try dsimp only
  with_reducible
    repeat'
      first
      | assumption | apply State.setReg_keeps | dsimp only

theorem State.setFlag_keeps {s₀ s : State} (hk : Keeps s₀ s) (key : Nat) (inst : Nat) (b : Bool) :
    Keeps s₀ (State.setFlag s key inst b) := by
  unfold State.setFlag
  try dsimp only
  with_reducible
    repeat'
      first
      | assumption | apply ite_keeps | apply ite_keeps_fst | apply ite_keeps_snd | apply State.setReg_keeps
      | dsimp only

theorem State.bumpBy_keeps {s₀ s : State} (hk : Keeps s₀ s) (key : Nat) (inst : Nat) (n : Nat) :
    Keeps s₀ (State.bumpBy s key inst n) := by
  unfold State.bumpBy
  try dsimp only
  with_reducible
    repeat'
      first
      | assumption | apply State.setReg_keeps | dsimp only

theorem State.bump_keeps {s₀ s : State} (hk : Keeps s₀ s) (key : Nat) (inst : Nat) :
    Keeps s₀ (State.bump s key inst) := by
  unfold State.bump
  try dsimp only
  with_reducible
    repeat'
      first
      | assumption | apply State.bumpBy_keeps | dsimp only

theorem State.setBlob_keeps {s₀ s : State} (hk : Keeps s₀ s) (key : Nat) (inst : Nat) (b : Bytes) :
    Keeps s₀ (State.setBlob s key inst b) := by
  unfold State.setBlob
  try dsimp only
  with_reducible
    repeat'
      first
      | assumption | simp only [Keeps.mk_iff] | dsimp only

theorem State.setActive_keeps {s₀ s : State} (hk : Keeps s₀ s) (key : Nat) (inst : Nat) (x0 : Val) :
    Keeps s₀ (State.setActive s key inst x0) := by
  unfold State.setActive
  try dsimp only
  with_reducible
    repeat'
      first
      | assumption | apply State.setReg_keeps | apply State.setBlob_keeps | split | dsimp only

theorem State.setShadow_keeps {s₀ s : State} (hk : Keeps s₀ s) (key : Nat) (inst : Nat) (v : Val) :
    Keeps s₀ (State.setShadow s key inst v) := by
  unfold State.setShadow
  try dsimp only
  with_reducible
    repeat'
      first
      | assumption | simp only [Keeps.mk_iff] | dsimp only

theorem State.setIngot_keeps {s₀ s : State} (hk : Keeps s₀ s) (n : Nat) (g : Ingot) :
    Keeps s₀ (State.setIngot s n g) := by
  unfold State.setIngot
  try dsimp only
  with_reducible
    repeat'
      first
      | assumption | apply State.setGroup_keeps | apply State.setSlot_keeps | apply State.setOutput_keeps
      | apply State.setEngine_keeps | apply State.setCtx_keeps | apply State.setPipe_keeps
      | apply State.setCamPort_keeps | apply State.setLane_keeps | apply State.setPort_keeps
      | apply State.setChan_keeps | apply State.setKey_keeps | apply State.setScan_keeps | simp only [Keeps.mk_iff]
      | simp only [Keeps.mk_dram_iff] | simp only [Keeps.mk_keys_iff] | dsimp only

theorem State.setGroup_keeps {s₀ s : State} (hk : Keeps s₀ s) (n : Nat) (g : Group) :
    Keeps s₀ (State.setGroup s n g) := by
  unfold State.setGroup
  try dsimp only
  with_reducible
    repeat'
      first
      | assumption | apply State.setSlot_keeps | apply State.setOutput_keeps | apply State.setEngine_keeps
      | apply State.setCtx_keeps | apply State.setPipe_keeps | apply State.setCamPort_keeps
      | apply State.setLane_keeps | apply State.setPort_keeps | apply State.setChan_keeps
      | apply State.setKey_keeps | apply State.setScan_keeps | simp only [Keeps.mk_iff]
      | simp only [Keeps.mk_dram_iff] | simp only [Keeps.mk_keys_iff] | dsimp only

theorem State.setSlot_keeps {s₀ s : State} (hk : Keeps s₀ s) (n : Nat) (g : Slot) :
    Keeps s₀ (State.setSlot s n g) := by
  unfold State.setSlot
  try dsimp only
  with_reducible
    repeat'
      first
      | assumption | apply State.setOutput_keeps | apply State.setEngine_keeps | apply State.setCtx_keeps
      | apply State.setPipe_keeps | apply State.setCamPort_keeps | apply State.setLane_keeps
      | apply State.setPort_keeps | apply State.setChan_keeps | apply State.setKey_keeps
      | apply State.setScan_keeps | simp only [Keeps.mk_iff] | simp only [Keeps.mk_dram_iff]
      | simp only [Keeps.mk_keys_iff] | dsimp only

theorem State.setOutput_keeps {s₀ s : State} (hk : Keeps s₀ s) (n : Nat) (o : Output) :
    Keeps s₀ (State.setOutput s n o) := by
  unfold State.setOutput
  try dsimp only
  with_reducible
    repeat'
      first
      | assumption | apply State.setEngine_keeps | apply State.setCtx_keeps | apply State.setPipe_keeps
      | apply State.setCamPort_keeps | apply State.setLane_keeps | apply State.setPort_keeps
      | apply State.setChan_keeps | apply State.setKey_keeps | apply State.setScan_keeps | simp only [Keeps.mk_iff]
      | simp only [Keeps.mk_dram_iff] | simp only [Keeps.mk_keys_iff] | dsimp only

theorem State.setEngine_keeps {s₀ s : State} (hk : Keeps s₀ s) (n : Nat) (e : Engine) :
    Keeps s₀ (State.setEngine s n e) := by
  unfold State.setEngine
  try dsimp only
  with_reducible
    repeat'
      first
      | assumption | apply State.setCtx_keeps | apply State.setPipe_keeps | apply State.setCamPort_keeps
      | apply State.setLane_keeps | apply State.setPort_keeps | apply State.setChan_keeps
      | apply State.setKey_keeps | apply State.setScan_keeps | simp only [Keeps.mk_iff]
      | simp only [Keeps.mk_dram_iff] | simp only [Keeps.mk_keys_iff] | dsimp only

theorem State.setCtx_keeps {s₀ s : State} (hk : Keeps s₀ s) (n : Nat) (c : Ctx) :
    Keeps s₀ (State.setCtx s n c) := by
  unfold State.setCtx
  try dsimp only
  with_reducible
    repeat'
      first
      | assumption | apply State.setPipe_keeps | apply State.setCamPort_keeps | apply State.setLane_keeps
      | apply State.setPort_keeps | apply State.setChan_keeps | apply State.setKey_keeps
      | apply State.setScan_keeps | simp only [Keeps.mk_iff] | simp only [Keeps.mk_dram_iff]
      | simp only [Keeps.mk_keys_iff] | dsimp only

theorem State.setPipe_keeps {s₀ s : State} (hk : Keeps s₀ s) (n : Nat) (p : Pipe) :
    Keeps s₀ (State.setPipe s n p) := by
  unfold State.setPipe
  try dsimp only
  with_reducible
    repeat'
      first
      | assumption | apply State.setCamPort_keeps | apply State.setLane_keeps | apply State.setPort_keeps
      | apply State.setChan_keeps | apply State.setKey_keeps | apply State.setScan_keeps | simp only [Keeps.mk_iff]
      | simp only [Keeps.mk_dram_iff] | simp only [Keeps.mk_keys_iff] | dsimp only

theorem State.setCamPort_keeps {s₀ s : State} (hk : Keeps s₀ s) (n : Nat) (p : CamPort) :
    Keeps s₀ (State.setCamPort s n p) := by
  unfold State.setCamPort
  try dsimp only
  with_reducible
    repeat'
      first
      | assumption | apply State.setLane_keeps | apply State.setPort_keeps | apply State.setChan_keeps
      | apply State.setKey_keeps | apply State.setScan_keeps | simp only [Keeps.mk_iff]
      | simp only [Keeps.mk_dram_iff] | simp only [Keeps.mk_keys_iff] | dsimp only

theorem State.setLane_keeps {s₀ s : State} (hk : Keeps s₀ s) (n : Nat) (l : Lane) :
    Keeps s₀ (State.setLane s n l) := by
  unfold State.setLane
  try dsimp only
  with_reducible
    repeat'
      first
      | assumption | apply State.setPort_keeps | apply State.setChan_keeps | apply State.setKey_keeps
      | apply State.setScan_keeps | simp only [Keeps.mk_iff] | simp only [Keeps.mk_dram_iff]
      | simp only [Keeps.mk_keys_iff] | dsimp only

theorem State.setPort_keeps {s₀ s : State} (hk : Keeps s₀ s) (n : Nat) (p : Port) :
    Keeps s₀ (State.setPort s n p) := by
  unfold State.setPort
  try dsimp only
  with_reducible
    repeat'
      first
      | assumption | apply State.setChan_keeps | apply State.setKey_keeps | apply State.setScan_keeps
      | simp only [Keeps.mk_iff] | simp only [Keeps.mk_dram_iff] | simp only [Keeps.mk_keys_iff] | dsimp only

theorem State.setChan_keeps {s₀ s : State} (hk : Keeps s₀ s) (n : Nat) (c : Chan) :
    Keeps s₀ (State.setChan s n c) := by
  unfold State.setChan
  try dsimp only
  with_reducible
    repeat'
      first
      | assumption | apply State.setKey_keeps | apply State.setScan_keeps | simp only [Keeps.mk_iff]
      | simp only [Keeps.mk_dram_iff] | simp only [Keeps.mk_keys_iff] | dsimp only

theorem State.setKey_keeps {s₀ s : State} (hk : Keeps s₀ s) (n : Nat) (k : Key) :
    Keeps s₀ (State.setKey s n k) := by
  unfold State.setKey
  try dsimp only
  with_reducible
    repeat'
      first
      | assumption | apply State.setScan_keeps | simp only [Keeps.mk_iff] | simp only [Keeps.mk_keys_iff]
      | dsimp only

theorem State.setScan_keeps {s₀ s : State} (hk : Keeps s₀ s) (n : Nat) (c : Scan) :
    Keeps s₀ (State.setScan s n c) := by
  unfold State.setScan
  try dsimp only
  with_reducible
    repeat'
      first
      | assumption | simp only [Keeps.mk_iff] | dsimp only

theorem State.drawBytes_keeps {s₀ s : State} (h : Keeps s₀ s) (n : Nat) : Keeps s₀ (State.drawBytes s n).2 := by
  induction n generalizing s with
  | zero => exact h
  | succ n ih => exact ih (State.draw_keeps h)

theorem State.send_keeps {s₀ s : State} (hk : Keeps s₀ s) (x : Sent) :
    Keeps s₀ (State.send s x) := by
  unfold State.send
  try dsimp only
  with_reducible
    repeat'
      first
      | assumption | simp only [Keeps.mk_iff] | dsimp only

theorem State.reply_keeps {s₀ s : State} (hk : Keeps s₀ s) (ss : Nat) (r : Reply) :
    Keeps s₀ (State.reply s ss r) := by
  unfold State.reply
  try dsimp only
  with_reducible
    repeat'
      first
      | assumption | apply State.send_keeps | dsimp only

theorem State.raiseLog_keeps {s₀ s : State} (hk : Keeps s₀ s)  :
    Keeps s₀ (State.raiseLog s) := by
  unfold State.raiseLog
  try dsimp only
  with_reducible
    repeat'
      first
      | assumption | apply ite_keeps | apply ite_keeps_fst | apply ite_keeps_snd | apply State.send_keeps
      | simp only [Keeps.mk_iff] | simp only [Keeps.mk_log_iff] | split | dsimp only

theorem State.recordAt_keeps {s₀ s : State} (hk : Keeps s₀ s) (time event : Nat) (code : Option Code) (inst : Nat)
    (detail : Int)
    (fw : Bool) (suppressed : Nat) : Keeps s₀ (State.recordAt s time event code inst detail fw suppressed) := by
  unfold State.recordAt
  dsimp only
  split
  · exact hk
  · split
    · exact { hk with }
    · apply State.raiseLog_keeps
      exact { hk with log := fun _ => List.length_take_le _ _ }

theorem State.record_keeps {s₀ s : State} (hk : Keeps s₀ s) (event : Nat) (code : Option Code) (inst : Nat) (detail :
    Int) (fw : Bool) :
    Keeps s₀ (State.record s event code inst detail fw) := by
  unfold State.record
  try dsimp only
  with_reducible
    repeat'
      first
      | assumption | apply State.recordAt_keeps | dsimp only

theorem State.recordEvery_keeps {s₀ s : State} (hk : Keeps s₀ s) (clock : Nat) (every : Nat) (perCode : Bool) (event :
    Nat) (code : Option Code) (inst : Nat) (detail : Int) (fw : Bool) :
    Keeps s₀ (State.recordEvery s clock every perCode event code inst detail fw) := by
  unfold State.recordEvery
  try dsimp only
  with_reducible
    repeat'
      first
      | assumption | intro u | apply ite_keeps | apply ite_keeps_fst | apply ite_keeps_snd
      | apply State.recordAt_keeps | simp only [Keeps.mk_iff] | simp only [Keeps.mk_log_iff] | split | dsimp only

theorem State.recordLimited_keeps {s₀ s : State} (hk : Keeps s₀ s) (every : Nat) (event : Nat) (code : Option Code)
    (inst : Nat) (detail : Int) (fw : Bool) :
    Keeps s₀ (State.recordLimited s every event code inst detail fw) := by
  unfold State.recordLimited
  try dsimp only
  with_reducible
    repeat'
      first
      | assumption | apply State.recordEvery_keeps | dsimp only

theorem State.recordDevice_keeps {s₀ s : State} (hk : Keeps s₀ s) (every : Nat) (event : Nat) (code : Option Code)
    (inst : Nat) (detail : Int) :
    Keeps s₀ (State.recordDevice s every event code inst detail) := by
  unfold State.recordDevice
  try dsimp only
  with_reducible
    repeat'
      first
      | assumption | intro u | apply ite_keeps | apply ite_keeps_fst | apply ite_keeps_snd
      | apply State.recordLimited_keeps | simp only [Keeps.mk_iff] | simp only [Keeps.mk_log_iff] | split
      | dsimp only

theorem State.setReady_keeps {s₀ s : State} (hk : Keeps s₀ s) (bit : Nat) :
    Keeps s₀ (State.setReady s bit) := by
  unfold State.setReady
  try dsimp only
  with_reducible
    repeat'
      first
      | assumption | apply ite_keeps | apply ite_keeps_fst | apply ite_keeps_snd | apply State.setReg_keeps
      | apply State.record_keeps | dsimp only

theorem State.setFailed_keeps {s₀ s : State} (hk : Keeps s₀ s) (bit : Nat) (c : Option Code) :
    Keeps s₀ (State.setFailed s bit c) := by
  unfold State.setFailed
  try dsimp only
  with_reducible
    repeat'
      first
      | assumption | apply State.setReg_keeps | apply State.record_keeps | dsimp only

theorem State.setSession_keeps {s₀ s : State} (hk : Keeps s₀ s) (x : Session) : Keeps s₀ (State.setSession s x) :=
  { hk with sessions := fun h => by simpa [State.setSession] using hk.sessions h }

theorem State.noteRefusal_keeps {s₀ s : State} (hk : Keeps s₀ s) (who : Nat) (key : Nat) (c : Code) :
    Keeps s₀ (State.noteRefusal s who key c) := by
  unfold State.noteRefusal
  try dsimp only
  with_reducible
    repeat'
      first
      | assumption | apply ite_keeps | apply ite_keeps_fst | apply ite_keeps_snd | apply State.recordLimited_keeps
      | dsimp only

theorem State.touch_keeps {s₀ s : State} (hk : Keeps s₀ s) (x : Session) :
    Keeps s₀ (State.touch s x) := by
  unfold State.touch
  try dsimp only
  with_reducible
    repeat'
      first
      | assumption | apply State.setSession_keeps | simp only [Keeps.mk_iff] | dsimp only

theorem State.tryWrite_keeps {s₀ s : State} (hk : Keeps s₀ s) (ss : Nat) (key : Nat) (v : Val) (op : WriteOp) (hop :
    OpKeeps op) :
    Keeps s₀ (State.tryWrite s ss key v op).1 := by
  unfold State.tryWrite
  try dsimp only
  with_reducible
    repeat'
      first
      | assumption | intro u | apply ite_keeps | apply ite_keeps_fst | apply ite_keeps_snd
      | apply State.touch_keeps | apply State.noteRefusal_keeps | refine OpKeeps.apply hop ?_
      | simp only [Keeps.mk_iff] | split | dsimp only

theorem State.ledgerWrite_keeps {s₀ s : State} (hk : Keeps s₀ s) (ss : Nat) (key : Nat) (v : Val) (op : WriteOp) (hop
    : OpKeeps op) :
    Keeps s₀ (State.ledgerWrite s ss key v op) := by
  unfold State.ledgerWrite
  try dsimp only
  with_reducible
    repeat'
      first
      | assumption | apply State.tryWrite_keeps | apply State.reply_keeps | refine OpKeeps.apply hop ?_
      | dsimp only

theorem writeActive_keeps (key : Nat) : OpKeeps (writeActive key) := by
  intro s₀ s ss i v h
  unfold writeActive
  try dsimp only
  with_reducible
    repeat'
      first
      | assumption | intro u | apply State.setActive_keeps | dsimp only

theorem writeShadow_keeps (key : Nat) : OpKeeps (writeShadow key) := by
  intro s₀ s ss i v h
  unfold writeShadow
  try dsimp only
  with_reducible
    repeat'
      first
      | assumption | intro u | apply State.setShadow_keeps | dsimp only

theorem writeField_keeps (key : Nat) : OpKeeps (writeField key) := by
  intro s₀ s ss i v h
  unfold writeField
  try dsimp only
  with_reducible
    repeat'
      first
      | assumption | intro u | apply State.setSession_keeps | simp only [Keeps.mk_iff] | split | dsimp only

theorem writePlain_keeps (key : Nat) : OpKeeps (writePlain key) := by
  intro s₀ s ss i v h
  unfold writePlain
  try dsimp only
  with_reducible
    repeat'
      first
      | assumption | intro u | apply ite_keeps | apply ite_keeps_fst | apply ite_keeps_snd
      | refine OpKeeps.apply (writeField_keeps ..) ?_ | apply writeField_keeps
      | refine OpKeeps.apply (writeShadow_keeps ..) ?_ | apply writeShadow_keeps
      | refine OpKeeps.apply (writeActive_keeps ..) ?_ | apply writeActive_keeps | simp only [Keeps.mk_iff] | split
      | dsimp only

theorem State.correctPhase_keeps {s₀ s : State} (hk : Keeps s₀ s) (o : Nat) :
    Keeps s₀ (State.correctPhase s o) := by
  unfold State.correctPhase
  try dsimp only
  with_reducible
    repeat'
      first
      | assumption | apply ite_keeps | apply ite_keeps_fst | apply ite_keeps_snd | apply State.setOutput_keeps
      | simp only [Keeps.mk_iff] | dsimp only

theorem State.rephase_keeps {s₀ s : State} (hk : Keeps s₀ s) (o : Nat) (ns : Int) :
    Keeps s₀ (State.rephase s o ns) := by
  unfold State.rephase
  try dsimp only
  with_reducible
    repeat'
      first
      | assumption | apply ite_keeps | apply ite_keeps_fst | apply ite_keeps_snd | apply State.setOutput_keeps
      | apply State.correctPhase_keeps | apply State.record_keeps | simp only [Keeps.mk_iff] | dsimp only

theorem State.changeRate_keeps {s₀ s : State} (hk : Keeps s₀ s) (v : Nat) :
    Keeps s₀ (State.changeRate s v) := by
  unfold State.changeRate
  try dsimp only
  with_reducible
    repeat'
      first
      | assumption | apply State.setReg_keeps | apply State.setRegI_keeps | simp only [Keeps.mk_iff] | dsimp only

theorem State.stepTime_keeps {s₀ s : State} (hk : Keeps s₀ s) (size : Int) :
    Keeps s₀ (State.stepTime s size) := by
  unfold State.stepTime
  try dsimp only
  with_reducible
    repeat'
      first
      | assumption | intro u | apply ite_keeps | apply ite_keeps_fst | apply ite_keeps_snd | apply foldl_keeps
      | apply foldl_keeps_fst | apply foldl_keeps_snd | apply State.setRegI_keeps | apply State.bump_keeps
      | apply State.record_keeps | apply State.setReg_keeps | apply State.rephase_keeps | simp only [Keeps.mk_iff]
      | dsimp only

theorem State.sweepEra_keeps {s₀ s : State} (hk : Keeps s₀ s) (era : Nat) :
    Keeps s₀ (State.sweepEra s era) := by
  unfold State.sweepEra
  try dsimp only
  with_reducible
    repeat'
      first
      | assumption | intro u | apply ite_keeps | apply ite_keeps_fst | apply ite_keeps_snd
      | simp only [Keeps.mk_iff] | dsimp only

theorem State.meanRate_keeps {s₀ s : State} (h : Keeps s₀ s) : Keeps s₀ (State.meanRate s).2 := by
  unfold State.meanRate
  exact ite_keeps_snd h (ite_keeps_snd h (State.draw_keeps h))

theorem State.keepHoldover_keeps {s₀ s : State} (hk : Keeps s₀ s) (eff : Nat) (entered : Bool) :
    Keeps s₀ (State.keepHoldover s eff entered) := by
  unfold State.keepHoldover
  try dsimp only
  with_reducible
    repeat'
      first
      | assumption | apply ite_keeps | apply ite_keeps_fst | apply ite_keeps_snd | simp only [Keeps.mk_iff]
      | dsimp only

theorem State.settleTime_keeps {s₀ s0 : State} (hk : Keeps s₀ s0) (c : Code) (entered : Bool) :
    Keeps s₀ (State.settleTime s0 c entered) := by
  unfold State.settleTime
  try dsimp only
  with_reducible
    repeat'
      first
      | assumption | apply ite_keeps | apply ite_keeps_fst | apply ite_keeps_snd | apply State.keepHoldover_keeps
      | apply State.setReg_keeps | apply State.meanRate_keeps | apply State.changeRate_keeps
      | apply State.record_keeps | apply State.setReady_keeps | dsimp only

theorem State.setOwn_keeps {s₀ s : State} (hk : Keeps s₀ s) (own : Nat) (c : Code) :
    Keeps s₀ (State.setOwn s own c) := by
  unfold State.setOwn
  try dsimp only
  with_reducible
    repeat'
      first
      | assumption | apply ite_keeps | apply ite_keeps_fst | apply ite_keeps_snd | apply State.settleTime_keeps
      | simp only [Keeps.mk_iff] | dsimp only

theorem State.lockTime_keeps {s₀ s : State} (hk : Keeps s₀ s)  :
    Keeps s₀ (State.lockTime s) := by
  unfold State.lockTime
  try dsimp only
  with_reducible
    repeat'
      first
      | assumption | apply ite_keeps | apply ite_keeps_fst | apply ite_keeps_snd | apply State.setOwn_keeps
      | dsimp only

theorem State.loseTime_keeps {s₀ s : State} (hk : Keeps s₀ s) (missed : Bool) :
    Keeps s₀ (State.loseTime s missed) := by
  unfold State.loseTime
  try dsimp only
  with_reducible
    repeat'
      first
      | assumption | apply ite_keeps | apply ite_keeps_fst | apply ite_keeps_snd | apply State.setOwn_keeps
      | simp only [Keeps.mk_iff] | split | dsimp only

theorem State.expectExchange_keeps {s₀ s : State} (hk : Keeps s₀ s) (p : Nat) :
    Keeps s₀ (State.expectExchange s p) := by
  unfold State.expectExchange
  try dsimp only
  with_reducible
    repeat'
      first
      | assumption | apply ite_keeps | apply ite_keeps_fst | apply ite_keeps_snd | apply State.setPort_keeps
      | simp only [Keeps.mk_iff] | dsimp only

theorem State.followTimePort_keeps {s₀ s : State} (hk : Keeps s₀ s)  :
    Keeps s₀ (State.followTimePort s) := by
  unfold State.followTimePort
  try dsimp only
  with_reducible
    repeat'
      first
      | assumption | apply ite_keeps | apply ite_keeps_fst | apply ite_keeps_snd | apply State.setReg_keeps
      | apply State.expectExchange_keeps | apply State.record_keeps | apply State.loseTime_keeps | dsimp only

theorem rateOp_keeps : OpKeeps (rateOp) := by
  intro s₀ s ss i v h
  unfold rateOp
  try dsimp only
  with_reducible
    repeat'
      first
      | assumption | intro u | apply ite_keeps | apply ite_keeps_fst | apply ite_keeps_snd
      | apply State.changeRate_keeps | dsimp only

theorem offsetOp_keeps : OpKeeps (offsetOp) := by
  intro s₀ s ss i v h
  unfold offsetOp
  try dsimp only
  with_reducible
    repeat'
      first
      | assumption | intro u | apply ite_keeps | apply ite_keeps_fst | apply ite_keeps_snd
      | apply State.stepTime_keeps | dsimp only

theorem stepOp_keeps : OpKeeps (stepOp) := by
  intro s₀ s ss i v h
  unfold stepOp
  try dsimp only
  with_reducible
    repeat'
      first
      | assumption | intro u | apply ite_keeps | apply ite_keeps_fst | apply ite_keeps_snd
      | apply State.stepTime_keeps | dsimp only

theorem hostTimeStateOp_keeps : OpKeeps (hostTimeStateOp) := by
  intro s₀ s ss i v h
  unfold hostTimeStateOp
  try dsimp only
  with_reducible
    repeat'
      first
      | assumption | intro u | apply ite_keeps | apply ite_keeps_fst | apply ite_keeps_snd
      | apply State.lockTime_keeps | apply State.loseTime_keeps | apply State.setOwn_keeps
      | simp only [Keeps.mk_iff] | dsimp only

theorem State.leaveSource_keeps {s₀ s : State} (hk : Keeps s₀ s) (was : Nat) (source : Nat) :
    Keeps s₀ (State.leaveSource s was source) := by
  unfold State.leaveSource
  try dsimp only
  with_reducible
    repeat'
      first
      | assumption | apply ite_keeps | apply ite_keeps_fst | apply ite_keeps_snd | apply State.setOwn_keeps
      | apply State.loseTime_keeps | apply State.settleTime_keeps | simp only [Keeps.mk_iff] | dsimp only

theorem timeSourceOp_keeps : OpKeeps (timeSourceOp) := by
  intro s₀ s ss i v h
  unfold timeSourceOp
  try dsimp only
  with_reducible
    repeat'
      first
      | assumption | intro u | apply ite_keeps | apply ite_keeps_fst | apply ite_keeps_snd
      | apply State.setReg_keeps | apply State.expectExchange_keeps | apply State.record_keeps
      | apply State.leaveSource_keeps | simp only [Keeps.mk_iff] | dsimp only

theorem State.servo_keeps {s₀ s : State} (hk : Keeps s₀ s) (sample : Int) (steer : Int) :
    Keeps s₀ (State.servo s sample steer) := by
  unfold State.servo
  try dsimp only
  with_reducible
    repeat'
      first
      | assumption | apply ite_keeps | apply ite_keeps_fst | apply ite_keeps_snd | apply State.setRegI_keeps
      | apply State.stepTime_keeps | apply State.changeRate_keeps | apply State.lockTime_keeps
      | apply State.loseTime_keeps | simp only [Keeps.mk_iff] | dsimp only

theorem State.selectMaster_keeps {s₀ s : State} (hk : Keeps s₀ s)  :
    Keeps s₀ (State.selectMaster s) := by
  unfold State.selectMaster
  try dsimp only
  with_reducible
    repeat'
      first
      | assumption | apply ite_keeps | apply ite_keeps_fst | apply ite_keeps_snd | apply State.setReg_keeps
      | apply State.lockTime_keeps | simp only [Keeps.mk_iff] | split | dsimp only

theorem State.ptpDiscard_keeps {s₀ s : State} (hk : Keeps s₀ s) (port : Nat) :
    Keeps s₀ (State.ptpDiscard s port) := by
  unfold State.ptpDiscard
  try dsimp only
  with_reducible
    repeat'
      first
      | assumption | apply State.bump_keeps | apply State.recordDevice_keeps | dsimp only

theorem State.onPtp_keeps {s₀ s : State} (hk : Keeps s₀ s) (port : Nat) (head : PtpHead) (f : State → State) (hf : ∀
    u, Keeps s₀ u → Keeps s₀ (f u)) :
    Keeps s₀ (State.onPtp s port head f) := by
  unfold State.onPtp
  try dsimp only
  with_reducible
    repeat'
      first
      | assumption | apply ite_keeps | apply ite_keeps_fst | apply ite_keeps_snd | apply State.ptpDiscard_keeps
      | apply hf | dsimp only

theorem State.addSample_keeps {s₀ s : State} (hk : Keeps s₀ s) (x : Int) :
    Keeps s₀ (State.addSample s x) := by
  unfold State.addSample
  try dsimp only
  with_reducible
    repeat'
      first
      | assumption | simp only [Keeps.mk_iff] | dsimp only

theorem State.measureLink_keeps {s₀ s : State} (hk : Keeps s₀ s) (port : Nat) (seq : Nat) :
    Keeps s₀ (State.measureLink s port seq) := by
  unfold State.measureLink
  try dsimp only
  with_reducible
    repeat'
      first
      | assumption | apply State.send_keeps | simp only [Keeps.mk_iff] | dsimp only

theorem State.syncComplete_keeps {s₀ s : State} (hk : Keeps s₀ s) (port : Nat) (seq : Nat) (t1 : Int) (t2 : Int) :
    Keeps s₀ (State.syncComplete s port seq t1 t2) := by
  unfold State.syncComplete
  try dsimp only
  with_reducible
    repeat'
      first
      | assumption | apply ite_keeps | apply ite_keeps_fst | apply ite_keeps_snd | apply State.send_keeps
      | apply State.setRegI_keeps | apply State.addSample_keeps | apply State.measureLink_keeps
      | simp only [Keeps.mk_iff] | dsimp only

theorem State.startEther_keeps {s₀ s : State} (hk : Keeps s₀ s) (out : Nat) (f : EthFrame) :
    Keeps s₀ (State.startEther s out f) := by
  unfold State.startEther
  try dsimp only
  with_reducible
    repeat'
      first
      | assumption | apply ite_keeps | apply ite_keeps_fst | apply ite_keeps_snd | apply State.setReg_keeps
      | apply State.send_keeps | simp only [Keeps.mk_iff] | split | dsimp only

theorem State.drainEther_keeps {s₀ s : State} (hk : Keeps s₀ s) (out : Nat) :
    Keeps s₀ (State.drainEther s out) := by
  unfold State.drainEther
  try dsimp only
  with_reducible
    repeat'
      first
      | assumption | intro u | apply ite_keeps | apply ite_keeps_fst | apply ite_keeps_snd
      | apply State.startEther_keeps | simp only [Keeps.mk_iff] | split | dsimp only

theorem execRateWrite_keeps {s₀ s : State} (hk : Keeps s₀ s) (ss : Nat) (v : Nat) :
    OutKeeps s₀ (execRateWrite ss v s) := by
  unfold execRateWrite
  try dsimp only
  with_reducible
    repeat'
      first
      | assumption | apply whenManaged_keeps | apply whenLive_keeps | apply whenFabric_keeps | apply OutKeeps.next
      | apply OutKeeps.fault | apply OutKeeps.ite | assumption | intro u | apply whenManaged_keeps
      | apply State.ledgerWrite_keeps | refine OpKeeps.apply (rateOp_keeps ..) ?_ | apply rateOp_keeps | dsimp only

theorem execOffsetWrite_keeps {s₀ s : State} (hk : Keeps s₀ s) (ss : Nat) (v : Nat) :
    OutKeeps s₀ (execOffsetWrite ss v s) := by
  unfold execOffsetWrite
  try dsimp only
  with_reducible
    repeat'
      first
      | assumption | apply whenManaged_keeps | apply whenLive_keeps | apply whenFabric_keeps | apply OutKeeps.next
      | apply OutKeeps.fault | apply OutKeeps.ite | assumption | intro u | apply whenManaged_keeps
      | apply State.ledgerWrite_keeps | refine OpKeeps.apply (offsetOp_keeps ..) ?_ | apply offsetOp_keeps
      | dsimp only

theorem execStepWrite_keeps {s₀ s : State} (hk : Keeps s₀ s) (ss : Nat) (v : Nat) :
    OutKeeps s₀ (execStepWrite ss v s) := by
  unfold execStepWrite
  try dsimp only
  with_reducible
    repeat'
      first
      | assumption | apply whenManaged_keeps | apply whenLive_keeps | apply whenFabric_keeps | apply OutKeeps.next
      | apply OutKeeps.fault | apply OutKeeps.ite | assumption | intro u | apply whenManaged_keeps
      | apply State.ledgerWrite_keeps | refine OpKeeps.apply (stepOp_keeps ..) ?_ | apply stepOp_keeps | dsimp only

theorem execEraSweepDone_keeps {s₀ s : State} (hk : Keeps s₀ s)  :
    OutKeeps s₀ (execEraSweepDone s) := by
  unfold execEraSweepDone
  try dsimp only
  with_reducible
    repeat'
      first
      | assumption | apply whenManaged_keeps | apply whenLive_keeps | apply whenFabric_keeps | apply OutKeeps.next
      | apply OutKeeps.fault | apply OutKeeps.ite | assumption | intro u | apply whenLive_keeps
      | apply State.sweepEra_keeps | simp only [Keeps.mk_iff] | split | dsimp only

theorem execHostTimeState_keeps {s₀ s : State} (hk : Keeps s₀ s) (ss : Nat) (v : Nat) :
    OutKeeps s₀ (execHostTimeState ss v s) := by
  unfold execHostTimeState
  try dsimp only
  with_reducible
    repeat'
      first
      | assumption | apply whenManaged_keeps | apply whenLive_keeps | apply whenFabric_keeps | apply OutKeeps.next
      | apply OutKeeps.fault | apply OutKeeps.ite | assumption | intro u | apply whenManaged_keeps
      | apply State.ledgerWrite_keeps | refine OpKeeps.apply (hostTimeStateOp_keeps ..) ?_
      | apply hostTimeStateOp_keeps | dsimp only

theorem execTimeSourceWrite_keeps {s₀ s : State} (hk : Keeps s₀ s) (ss : Nat) (v : Nat) :
    OutKeeps s₀ (execTimeSourceWrite ss v s) := by
  unfold execTimeSourceWrite
  try dsimp only
  with_reducible
    repeat'
      first
      | assumption | apply whenManaged_keeps | apply whenLive_keeps | apply whenFabric_keeps | apply OutKeeps.next
      | apply OutKeeps.fault | apply OutKeeps.ite | assumption | intro u | apply whenManaged_keeps
      | apply State.ledgerWrite_keeps | refine OpKeeps.apply (timeSourceOp_keeps ..) ?_ | apply timeSourceOp_keeps
      | dsimp only

theorem execServoSample_keeps {s₀ s : State} (hk : Keeps s₀ s) (steer : Int) :
    OutKeeps s₀ (execServoSample steer s) := by
  unfold execServoSample
  try dsimp only
  with_reducible
    repeat'
      first
      | assumption | apply whenManaged_keeps | apply whenLive_keeps | apply whenFabric_keeps | apply OutKeeps.next
      | apply OutKeeps.fault | apply OutKeeps.ite | assumption | intro u | apply whenManaged_keeps
      | apply State.servo_keeps | simp only [Keeps.mk_iff] | split | dsimp only

theorem execHoldoverExpiry_keeps {s₀ s : State} (hk : Keeps s₀ s)  :
    OutKeeps s₀ (execHoldoverExpiry s) := by
  unfold execHoldoverExpiry
  try dsimp only
  with_reducible
    repeat'
      first
      | assumption | apply whenManaged_keeps | apply whenLive_keeps | apply whenFabric_keeps | apply OutKeeps.next
      | apply OutKeeps.fault | apply OutKeeps.ite | assumption | intro u | apply ite_keeps | apply ite_keeps_fst
      | apply ite_keeps_snd | apply whenLive_keeps | apply State.record_keeps | apply State.setOwn_keeps
      | simp only [Keeps.mk_iff] | split | dsimp only

theorem execAnnounceTimeout_keeps {s₀ s : State} (hk : Keeps s₀ s)  :
    OutKeeps s₀ (execAnnounceTimeout s) := by
  unfold execAnnounceTimeout
  try dsimp only
  with_reducible
    repeat'
      first
      | assumption | apply whenManaged_keeps | apply whenLive_keeps | apply whenFabric_keeps | apply OutKeeps.next
      | apply OutKeeps.fault | apply OutKeeps.ite | assumption | intro u | apply ite_keeps | apply ite_keeps_fst
      | apply ite_keeps_snd | apply whenManaged_keeps | apply State.loseTime_keeps | apply State.selectMaster_keeps
      | simp only [Keeps.mk_iff] | dsimp only

theorem execSyncTimeout_keeps {s₀ s : State} (hk : Keeps s₀ s)  :
    OutKeeps s₀ (execSyncTimeout s) := by
  unfold execSyncTimeout
  try dsimp only
  with_reducible
    repeat'
      first
      | assumption | apply whenManaged_keeps | apply whenLive_keeps | apply whenFabric_keeps | apply OutKeeps.next
      | apply OutKeeps.fault | apply OutKeeps.ite | assumption | intro u | apply ite_keeps | apply ite_keeps_fst
      | apply ite_keeps_snd | apply whenManaged_keeps | apply State.loseTime_keeps | apply State.setPort_keeps
      | apply State.followTimePort_keeps | simp only [Keeps.mk_iff] | dsimp only

theorem execHostStateTimeout_keeps {s₀ s : State} (hk : Keeps s₀ s)  :
    OutKeeps s₀ (execHostStateTimeout s) := by
  unfold execHostStateTimeout
  try dsimp only
  with_reducible
    repeat'
      first
      | assumption | apply whenManaged_keeps | apply whenLive_keeps | apply whenFabric_keeps | apply OutKeeps.next
      | apply OutKeeps.fault | apply OutKeeps.ite | assumption | intro u | apply ite_keeps | apply ite_keeps_fst
      | apply ite_keeps_snd | apply whenLive_keeps | apply State.loseTime_keeps | dsimp only

theorem execPtpSync_keeps {s₀ s : State} (hk : Keeps s₀ s) (port : Fin 2) (head : PtpHead) (source : Nat) (seq : Nat)
    (twoStep : Bool) (origin : Nat) (rx : Nat) (correction : Int) :
    OutKeeps s₀ (execPtpSync port head source seq twoStep origin rx correction s) := by
  unfold execPtpSync
  try dsimp only
  with_reducible
    repeat'
      first
      | assumption | apply whenManaged_keeps | apply whenLive_keeps | apply whenFabric_keeps | apply OutKeeps.next
      | apply OutKeeps.fault | apply OutKeeps.ite | assumption | intro u | apply ite_keeps | apply ite_keeps_fst
      | apply ite_keeps_snd | apply whenManaged_keeps | apply State.onPtp_keeps | apply State.syncComplete_keeps
      | simp only [Keeps.mk_iff] | dsimp only

theorem execPtpFollowUp_keeps {s₀ s : State} (hk : Keeps s₀ s) (port : Fin 2) (head : PtpHead) (source : Nat) (seq :
    Nat) (origin : Nat) (correction : Int) :
    OutKeeps s₀ (execPtpFollowUp port head source seq origin correction s) := by
  unfold execPtpFollowUp
  try dsimp only
  with_reducible
    repeat'
      first
      | assumption | apply whenManaged_keeps | apply whenLive_keeps | apply whenFabric_keeps | apply OutKeeps.next
      | apply OutKeeps.fault | apply OutKeeps.ite | assumption | intro u | apply ite_keeps | apply ite_keeps_fst
      | apply ite_keeps_snd | apply whenManaged_keeps | apply State.onPtp_keeps | apply State.syncComplete_keeps
      | simp only [Keeps.mk_iff] | split | dsimp only

theorem execPtpAnnounce_keeps {s₀ s : State} (hk : Keeps s₀ s) (port : Fin 2) (head : PtpHead) (source : Nat)
    (grandmaster : Nat) (priority1 : Nat) (priority2 : Nat) (cls : Nat) (accuracy : Nat) (variance : Nat) (steps :
    Nat) :
    OutKeeps s₀ (execPtpAnnounce port head source grandmaster priority1 priority2 cls accuracy variance steps s) := by
  unfold execPtpAnnounce
  try dsimp only
  with_reducible
    repeat'
      first
      | assumption | apply whenManaged_keeps | apply whenLive_keeps | apply whenFabric_keeps | apply OutKeeps.next
      | apply OutKeeps.fault | apply OutKeeps.ite | assumption | intro u | apply whenManaged_keeps
      | apply State.onPtp_keeps | apply State.selectMaster_keeps | simp only [Keeps.mk_iff]
      | simp only [Keeps.mk_acc_iff] | dsimp only

theorem execPtpDelayReq_keeps {s₀ s : State} (hk : Keeps s₀ s) (port : Fin 2) (head : PtpHead) (source : Nat) (seq :
    Nat) (rx : Nat) :
    OutKeeps s₀ (execPtpDelayReq port head source seq rx s) := by
  unfold execPtpDelayReq
  try dsimp only
  with_reducible
    repeat'
      first
      | assumption | apply whenManaged_keeps | apply whenLive_keeps | apply whenFabric_keeps | apply OutKeeps.next
      | apply OutKeeps.fault | apply OutKeeps.ite | assumption | intro u | apply ite_keeps | apply ite_keeps_fst
      | apply ite_keeps_snd | apply whenManaged_keeps | apply State.onPtp_keeps | apply State.send_keeps
      | dsimp only

theorem execPtpDelayResp_keeps {s₀ s : State} (hk : Keeps s₀ s) (port : Fin 2) (head : PtpHead) (source : Nat)
    (requester : Nat) (seq : Nat) (rx : Nat) (correction : Int) :
    OutKeeps s₀ (execPtpDelayResp port head source requester seq rx correction s) := by
  unfold execPtpDelayResp
  try dsimp only
  with_reducible
    repeat'
      first
      | assumption | apply whenManaged_keeps | apply whenLive_keeps | apply whenFabric_keeps | apply OutKeeps.next
      | apply OutKeeps.fault | apply OutKeeps.ite | assumption | intro u | apply ite_keeps | apply ite_keeps_fst
      | apply ite_keeps_snd | apply whenManaged_keeps | apply State.onPtp_keeps | apply State.setRegI_keeps
      | apply State.addSample_keeps | simp only [Keeps.mk_iff] | split | dsimp only

theorem execPtpPdelayReq_keeps {s₀ s : State} (hk : Keeps s₀ s) (port : Fin 2) (head : PtpHead) (source : Nat) (seq :
    Nat) (rx : Nat) :
    OutKeeps s₀ (execPtpPdelayReq port head source seq rx s) := by
  unfold execPtpPdelayReq
  try dsimp only
  with_reducible
    repeat'
      first
      | assumption | apply whenManaged_keeps | apply whenLive_keeps | apply whenFabric_keeps | apply OutKeeps.next
      | apply OutKeeps.fault | apply OutKeeps.ite | assumption | intro u | apply ite_keeps | apply ite_keeps_fst
      | apply ite_keeps_snd | apply whenManaged_keeps | apply State.onPtp_keeps | apply State.send_keeps
      | dsimp only

theorem execPtpPdelayResp_keeps {s₀ s : State} (hk : Keeps s₀ s) (port : Fin 2) (head : PtpHead) (source : Nat) (seq :
    Nat) (turnaround : Nat) (rx : Nat) :
    OutKeeps s₀ (execPtpPdelayResp port head source seq turnaround rx s) := by
  unfold execPtpPdelayResp
  try dsimp only
  with_reducible
    repeat'
      first
      | assumption | apply whenManaged_keeps | apply whenLive_keeps | apply whenFabric_keeps | apply OutKeeps.next
      | apply OutKeeps.fault | apply OutKeeps.ite | assumption | intro u | apply ite_keeps | apply ite_keeps_fst
      | apply ite_keeps_snd | apply whenManaged_keeps | apply State.onPtp_keeps | apply State.setRegI_keeps
      | simp only [Keeps.mk_iff] | split | dsimp only

theorem State.ptpMasterSend_keeps {s₀ s : State} (hk : Keeps s₀ s) (kind : Nat) :
    Keeps s₀ (State.ptpMasterSend s kind) := by
  unfold State.ptpMasterSend
  try dsimp only
  with_reducible
    repeat'
      first
      | assumption | intro u | apply ite_keeps | apply ite_keeps_fst | apply ite_keeps_snd | apply foldl_keeps
      | apply foldl_keeps_fst | apply foldl_keeps_snd | apply State.send_keeps | simp only [Keeps.mk_iff]
      | dsimp only

theorem execPtpMasterSyncSend_keeps {s₀ s : State} (hk : Keeps s₀ s)  :
    OutKeeps s₀ (execPtpMasterSyncSend s) := by
  unfold execPtpMasterSyncSend
  try dsimp only
  with_reducible
    repeat'
      first
      | assumption | apply whenManaged_keeps | apply whenLive_keeps | apply whenFabric_keeps | apply OutKeeps.next
      | apply OutKeeps.fault | apply OutKeeps.ite | assumption | intro u | apply whenManaged_keeps
      | apply State.ptpMasterSend_keeps | dsimp only

theorem execPtpMasterAnnounceSend_keeps {s₀ s : State} (hk : Keeps s₀ s)  :
    OutKeeps s₀ (execPtpMasterAnnounceSend s) := by
  unfold execPtpMasterAnnounceSend
  try dsimp only
  with_reducible
    repeat'
      first
      | assumption | apply whenManaged_keeps | apply whenLive_keeps | apply whenFabric_keeps | apply OutKeeps.next
      | apply OutKeeps.fault | apply OutKeeps.ite | assumption | intro u | apply whenManaged_keeps
      | apply State.ptpMasterSend_keeps | dsimp only

theorem execEthernetFrameForward_keeps {s₀ s : State} (hk : Keeps s₀ s) (port : Fin 2) (dest : BitVec 48) (ptpEvent :
    Option Nat) (udp : Bool) (rx : Nat) (fcs : BitVec 32) (frame : Bytes) :
    OutKeeps s₀ (execEthernetFrameForward port dest ptpEvent udp rx fcs frame s) := by
  unfold execEthernetFrameForward
  try dsimp only
  with_reducible
    repeat'
      first
      | assumption | apply whenManaged_keeps | apply whenLive_keeps | apply whenFabric_keeps | apply OutKeeps.next
      | apply OutKeeps.fault | apply OutKeeps.ite | assumption | intro u | apply ite_keeps | apply ite_keeps_fst
      | apply ite_keeps_snd | apply whenLive_keeps | apply State.bump_keeps | apply State.measureLink_keeps
      | apply State.drainEther_keeps | simp only [Keeps.mk_iff] | dsimp only

theorem execTimeDomainWake_keeps {s₀ s : State} (hk : Keeps s₀ s) (ticks : Nat) :
    OutKeeps s₀ (execTimeDomainWake ticks s) := by
  unfold execTimeDomainWake
  try dsimp only
  with_reducible
    repeat'
      first
      | assumption | apply whenManaged_keeps | apply whenLive_keeps | apply whenFabric_keeps | apply OutKeeps.next
      | apply OutKeeps.fault | apply OutKeeps.ite | assumption | intro u | apply ite_keeps | apply ite_keeps_fst
      | apply ite_keeps_snd | apply whenLive_keeps | apply State.record_keeps | apply State.setOwn_keeps
      | simp only [Keeps.mk_iff] | dsimp only

theorem State.pushSections_keeps {s₀ s : State} (hk : Keeps s₀ s) (ks : List Nat) :
    Keeps s₀ (State.pushSections s ks) := by
  unfold State.pushSections
  try dsimp only
  with_reducible
    repeat'
      first
      | assumption | intro u | apply foldl_keeps | apply foldl_keeps_fst | apply foldl_keeps_snd
      | apply State.send_keeps | apply State.setReg_keeps | simp only [Keeps.mk_iff] | dsimp only

theorem State.pushCommit_keeps {s₀ s : State} (hk : Keeps s₀ s)  :
    Keeps s₀ (State.pushCommit s) := by
  unfold State.pushCommit
  try dsimp only
  with_reducible
    repeat'
      first
      | assumption | apply ite_keeps | apply ite_keeps_fst | apply ite_keeps_snd | apply State.pushSections_keeps
      | dsimp only

theorem State.pushAll_keeps {s₀ s : State} (hk : Keeps s₀ s)  :
    Keeps s₀ (State.pushAll s) := by
  unfold State.pushAll
  try dsimp only
  with_reducible
    repeat'
      first
      | assumption | apply ite_keeps | apply ite_keeps_fst | apply ite_keeps_snd | apply State.pushSections_keeps
      | dsimp only

theorem State.setPairState_keeps {s₀ s : State} (hk : Keeps s₀ s) (st : Nat) (c : Option Code) :
    Keeps s₀ (State.setPairState s st c) := by
  unfold State.setPairState
  try dsimp only
  with_reducible
    repeat'
      first
      | assumption | apply State.setReg_keeps | apply State.record_keeps | dsimp only

theorem State.enterActive_keeps {s₀ s : State} (hk : Keeps s₀ s) (c : Option Code) :
    Keeps s₀ (State.enterActive s c) := by
  unfold State.enterActive
  try dsimp only
  with_reducible
    repeat'
      first
      | assumption | apply ite_keeps | apply ite_keeps_fst | apply ite_keeps_snd | apply State.setPairState_keeps
      | apply State.pushAll_keeps | dsimp only

theorem State.settleTakeover_keeps {s₀ s : State} (hk : Keeps s₀ s) (running : List Nat) :
    Keeps s₀ (State.settleTakeover s running) := by
  unfold State.settleTakeover
  try dsimp only
  with_reducible
    repeat'
      first
      | assumption | apply ite_keeps | apply ite_keeps_fst | apply ite_keeps_snd | apply State.setReg_keeps
      | apply State.record_keeps | apply State.enterActive_keeps | simp only [Keeps.mk_iff] | dsimp only

theorem State.setTicket_keeps {s₀ s : State} (hk : Keeps s₀ s) (t : Ticket) : Keeps s₀ (State.setTicket s t) :=
  { hk with tickets := fun h => by simpa [State.setTicket] using hk.tickets h }

theorem State.addTicket_keeps {s₀ s : State} (hk : Keeps s₀ s) (t : Ticket) : Keeps s₀ (State.addTicket s t) :=
  { hk with tickets := fun _ => List.length_take_le _ _ }

theorem State.addOther_keeps {s₀ s : State} (hk : Keeps s₀ s) (t : Ticket) :
    Keeps s₀ (State.addOther s t) := by
  unfold State.addOther
  try dsimp only
  with_reducible
    repeat'
      first
      | assumption | simp only [Keeps.mk_iff] | simp only [Keeps.mk_commits_iff] | dsimp only

theorem State.noteApplied_keeps {s₀ s : State} (hk : Keeps s₀ s) (id : Nat) (wf : Nat) :
    Keeps s₀ (State.noteApplied s id wf) := by
  unfold State.noteApplied
  try dsimp only
  with_reducible
    repeat'
      first
      | assumption | intro u | apply ite_keeps | apply ite_keeps_fst | apply ite_keeps_snd
      | apply State.setTicket_keeps | simp only [Keeps.mk_iff] | simp only [Keeps.mk_commits_iff] | split
      | dsimp only

theorem State.finishTicket_keeps {s₀ s : State} (hk : Keeps s₀ s) (p : Pending) :
    Keeps s₀ (State.finishTicket s p) := by
  unfold State.finishTicket
  try dsimp only
  with_reducible
    repeat'
      first
      | assumption | apply ite_keeps | apply ite_keeps_fst | apply ite_keeps_snd | apply State.pushCommit_keeps
      | apply State.setTicket_keeps | apply State.record_keeps | simp only [Keeps.mk_iff] | split | dsimp only

theorem State.settleCommits_keeps {s₀ s : State} (hk : Keeps s₀ s)  :
    Keeps s₀ (State.settleCommits s) := by
  unfold State.settleCommits
  try dsimp only
  with_reducible
    repeat'
      first
      | assumption | intro u | apply foldl_keeps | apply foldl_keeps_fst | apply foldl_keeps_snd
      | apply State.finishTicket_keeps | simp only [Keeps.mk_iff] | simp only [Keeps.mk_commits_iff] | dsimp only

theorem State.applyField_keeps {s₀ s : State} (hk : Keeps s₀ s) (f : Staged) :
    Keeps s₀ (State.applyField s f) := by
  unfold State.applyField
  try dsimp only
  with_reducible
    repeat'
      first
      | assumption | apply ite_keeps | apply ite_keeps_fst | apply ite_keeps_snd | apply State.setActive_keeps
      | apply State.setSlot_keeps | simp only [Keeps.mk_iff] | dsimp only

theorem State.holdFrozen_keeps {s₀ s : State} (hk : Keeps s₀ s)  :
    Keeps s₀ (State.holdFrozen s) := by
  unfold State.holdFrozen
  try dsimp only
  with_reducible
    repeat'
      first
      | assumption | intro u | simp only [Keeps.mk_iff] | dsimp only

theorem State.applyFields_keeps {s₀ s : State} (hk : Keeps s₀ s) (fs : List Staged) :
    Keeps s₀ (State.applyFields s fs) := by
  unfold State.applyFields
  try dsimp only
  with_reducible
    repeat'
      first
      | assumption | intro u | apply ite_keeps | apply ite_keeps_fst | apply ite_keeps_snd | apply foldl_keeps
      | apply foldl_keeps_fst | apply foldl_keeps_snd | apply State.applyField_keeps | apply State.holdFrozen_keeps
      | dsimp only

theorem State.applyDue_keeps {s₀ s : State} (hk : Keeps s₀ s) (due : Nat → Nat → Bool) :
    Keeps s₀ (State.applyDue s due) := by
  unfold State.applyDue
  try dsimp only
  with_reducible
    repeat'
      first
      | assumption | intro u | apply ite_keeps | apply ite_keeps_fst | apply ite_keeps_snd | apply foldl_keeps
      | apply foldl_keeps_fst | apply foldl_keeps_snd | apply State.applyFields_keeps
      | apply State.noteApplied_keeps | apply State.settleCommits_keeps | simp only [Keeps.mk_iff]
      | simp only [Keeps.mk_commits_iff] | dsimp only

theorem State.applyFrozen_keeps {s₀ s : State} (hk : Keeps s₀ s) (slot : Nat) :
    Keeps s₀ (State.applyFrozen s slot) := by
  unfold State.applyFrozen
  try dsimp only
  with_reducible
    repeat'
      first
      | assumption | intro u | apply State.applyDue_keeps | dsimp only

theorem State.toFree_keeps {s₀ s : State} (hk : Keeps s₀ s) (i : Nat) :
    Keeps s₀ (State.toFree s i) := by
  unfold State.toFree
  try dsimp only
  with_reducible
    repeat'
      first
      | assumption | apply ite_keeps | apply ite_keeps_fst | apply ite_keeps_snd | apply State.setIngot_keeps
      | apply State.setSlot_keeps | simp only [Keeps.mk_iff] | dsimp only

theorem State.outdate_keeps {s₀ s : State} (hk : Keeps s₀ s) (i : Nat) :
    Keeps s₀ (State.outdate s i) := by
  unfold State.outdate
  try dsimp only
  with_reducible
    repeat'
      first
      | assumption | apply State.toFree_keeps | apply State.setIngot_keeps | simp only [Keeps.mk_iff] | split
      | dsimp only

theorem State.abandon_keeps {s₀ s : State} (hk : Keeps s₀ s) (i : Nat) :
    Keeps s₀ (State.abandon s i) := by
  unfold State.abandon
  try dsimp only
  with_reducible
    repeat'
      first
      | assumption | apply ite_keeps | apply ite_keeps_fst | apply ite_keeps_snd | apply State.toFree_keeps
      | dsimp only

theorem State.takeRef_keeps {s₀ s : State} (hk : Keeps s₀ s) (i : Nat) (reader : Nat) :
    Keeps s₀ (State.takeRef s i reader) := by
  unfold State.takeRef
  try dsimp only
  with_reducible
    repeat'
      first
      | assumption | apply ite_keeps | apply ite_keeps_fst | apply ite_keeps_snd | apply State.setIngot_keeps
      | simp only [Keeps.mk_iff] | split | dsimp only

theorem State.dropRef_keeps {s₀ s : State} (hk : Keeps s₀ s) (i : Nat) (reader : Nat) :
    Keeps s₀ (State.dropRef s i reader) := by
  unfold State.dropRef
  try dsimp only
  with_reducible
    repeat'
      first
      | assumption | apply ite_keeps | apply ite_keeps_fst | apply ite_keeps_snd | apply State.setIngot_keeps
      | apply State.toFree_keeps | apply State.record_keeps | simp only [Keeps.mk_iff] | split | dsimp only

theorem State.pick_keeps {s₀ s : State} (hk : Keeps s₀ s) (xs : List Nat) :
    Keeps s₀ (State.pick s xs).2 := by
  unfold State.pick
  try dsimp only
  with_reducible
    repeat'
      first
      | assumption | apply ite_keeps | apply ite_keeps_fst | apply ite_keeps_snd | apply State.draw_keeps
      | dsimp only

theorem State.takeFree_keeps {s₀ s : State} (hk : Keeps s₀ s) (slot : Nat) (f : Filler) :
    Keeps s₀ (State.takeFree s slot f).2 := by
  unfold State.takeFree
  try dsimp only
  with_reducible
    repeat'
      first
      | assumption | apply ite_keeps | apply ite_keeps_fst | apply ite_keeps_snd | apply State.pick_keeps
      | apply State.setIngot_keeps | simp only [Keeps.mk_iff] | split | dsimp only

theorem State.countFrom_keeps {s₀ s : State} (hk : Keeps s₀ s) (i : Nat) :
    Keeps s₀ (State.countFrom s i) := by
  unfold State.countFrom
  try dsimp only
  with_reducible
    repeat'
      first
      | assumption | apply State.setIngot_keeps | simp only [Keeps.mk_iff] | dsimp only

theorem State.publish_keeps {s₀ s : State} (hk : Keeps s₀ s) (i : Nat) :
    Keeps s₀ (State.publish s i) := by
  unfold State.publish
  try dsimp only
  with_reducible
    repeat'
      first
      | assumption | apply ite_keeps | apply ite_keeps_fst | apply ite_keeps_snd | apply State.setIngot_keeps
      | apply State.outdate_keeps | apply State.setSlot_keeps | simp only [Keeps.mk_iff] | split | dsimp only

theorem State.dropIngot_keeps {s₀ s : State} (hk : Keeps s₀ s) (i : Nat) :
    Keeps s₀ (State.dropIngot s i) := by
  unfold State.dropIngot
  try dsimp only
  with_reducible
    repeat'
      first
      | assumption | apply State.abandon_keeps | apply State.toFree_keeps | apply State.outdate_keeps
      | simp only [Keeps.mk_iff] | split | dsimp only

theorem State.retireSet_keeps {s₀ s : State} (hk : Keeps s₀ s) (slot : Nat) (keep : List Nat) :
    Keeps s₀ (State.retireSet s slot keep) := by
  unfold State.retireSet
  try dsimp only
  with_reducible
    repeat'
      first
      | assumption | intro u | apply ite_keeps | apply ite_keeps_fst | apply ite_keeps_snd | apply foldl_keeps
      | apply foldl_keeps_fst | apply foldl_keeps_snd | apply State.setSlot_keeps | apply State.dropIngot_keeps
      | simp only [Keeps.mk_iff] | dsimp only

theorem State.bindIngots_keeps {s₀ s : State} (h : Keeps s₀ s) (slot size : Nat) (is as : List Nat) :
    Keeps s₀ (State.bindIngots s slot size is as) := by
  induction is generalizing s as with
  | nil => exact h
  | cons i is ih =>
    cases as with
    | nil => exact h
    | cons a as => exact ih (State.setIngot_keeps h i _) as

theorem State.newSet_keeps {s₀ s : State} (hk : Keeps s₀ s) (slot : Nat) (x : Source) (size : Nat) :
    Keeps s₀ (State.newSet s slot x size) := by
  unfold State.newSet
  try dsimp only
  with_reducible
    repeat'
      first
      | assumption | apply ite_keeps | apply ite_keeps_fst | apply ite_keeps_snd | apply State.bindIngots_keeps
      | apply State.setSlot_keeps | simp only [Keeps.mk_iff] | dsimp only

theorem acquireOp_keeps : OpKeeps (acquireOp) := by
  intro s₀ s ss i v h
  unfold acquireOp
  try dsimp only
  with_reducible
    repeat'
      first
      | assumption | intro u | apply ite_keeps | apply ite_keeps_fst | apply ite_keeps_snd
      | apply State.takeFree_keeps | apply State.setReg_keeps | simp only [Keeps.mk_iff] | split | dsimp only

theorem publishOp_keeps : OpKeeps (publishOp) := by
  intro s₀ s ss i v h
  unfold publishOp
  try dsimp only
  with_reducible
    repeat'
      first
      | assumption | intro u | apply ite_keeps | apply ite_keeps_fst | apply ite_keeps_snd
      | apply State.setIngot_keeps | apply State.setSlot_keeps | apply State.setReg_keeps
      | apply State.applyFrozen_keeps | apply State.countFrom_keeps | apply State.publish_keeps
      | simp only [Keeps.mk_iff] | dsimp only

theorem releaseOp_keeps : OpKeeps (releaseOp) := by
  intro s₀ s ss i v h
  unfold releaseOp
  try dsimp only
  with_reducible
    repeat'
      first
      | assumption | intro u | apply ite_keeps | apply ite_keeps_fst | apply ite_keeps_snd
      | apply State.setSlot_keeps | apply State.toFree_keeps | apply State.setIngot_keeps
      | simp only [Keeps.mk_iff] | split | dsimp only

theorem execHostAcquire_keeps {s₀ s : State} (hk : Keeps s₀ s) (ss : Nat) (slot : Nat) :
    OutKeeps s₀ (execHostAcquire ss slot s) := by
  unfold execHostAcquire
  try dsimp only
  with_reducible
    repeat'
      first
      | assumption | apply whenManaged_keeps | apply whenLive_keeps | apply whenFabric_keeps | apply OutKeeps.next
      | apply OutKeeps.fault | apply OutKeeps.ite | assumption | intro u | apply whenManaged_keeps
      | apply State.ledgerWrite_keeps | refine OpKeeps.apply (acquireOp_keeps ..) ?_ | apply acquireOp_keeps
      | dsimp only

theorem execHostPublish_keeps {s₀ s : State} (hk : Keeps s₀ s) (ss : Nat) (v : Nat) :
    OutKeeps s₀ (execHostPublish ss v s) := by
  unfold execHostPublish
  try dsimp only
  with_reducible
    repeat'
      first
      | assumption | apply whenManaged_keeps | apply whenLive_keeps | apply whenFabric_keeps | apply OutKeeps.next
      | apply OutKeeps.fault | apply OutKeeps.ite | assumption | intro u | apply whenManaged_keeps
      | apply State.ledgerWrite_keeps | refine OpKeeps.apply (publishOp_keeps ..) ?_ | apply publishOp_keeps
      | dsimp only

theorem execHostContentCheckDone_keeps {s₀ s : State} (hk : Keeps s₀ s) (ingot : Fin 4096) (readOk : Bool) :
    OutKeeps s₀ (execHostContentCheckDone ingot readOk s) := by
  unfold execHostContentCheckDone
  try dsimp only
  with_reducible
    repeat'
      first
      | assumption | apply whenManaged_keeps | apply whenLive_keeps | apply whenFabric_keeps | apply OutKeeps.next
      | apply OutKeeps.fault | apply OutKeeps.ite | assumption | intro u | apply ite_keeps | apply ite_keeps_fst
      | apply ite_keeps_snd | apply whenLive_keeps | apply State.setIngot_keeps | apply State.publish_keeps
      | apply State.abandon_keeps | simp only [Keeps.mk_iff] | dsimp only

theorem execHostRelease_keeps {s₀ s : State} (hk : Keeps s₀ s) (ss : Nat) (ingot : Nat) :
    OutKeeps s₀ (execHostRelease ss ingot s) := by
  unfold execHostRelease
  try dsimp only
  with_reducible
    repeat'
      first
      | assumption | apply whenManaged_keeps | apply whenLive_keeps | apply whenFabric_keeps | apply OutKeeps.next
      | apply OutKeeps.fault | apply OutKeeps.ite | assumption | intro u | apply whenManaged_keeps
      | apply State.ledgerWrite_keeps | refine OpKeeps.apply (releaseOp_keeps ..) ?_ | apply releaseOp_keeps
      | dsimp only

theorem execReaderRetire_keeps {s₀ s : State} (hk : Keeps s₀ s) (ingot : Fin 4096) (reader : Fin 46) :
    OutKeeps s₀ (execReaderRetire ingot reader s) := by
  unfold execReaderRetire
  try dsimp only
  with_reducible
    repeat'
      first
      | assumption | apply whenManaged_keeps | apply whenLive_keeps | apply whenFabric_keeps | apply OutKeeps.next
      | apply OutKeeps.fault | apply OutKeeps.ite | assumption | intro u | apply ite_keeps | apply ite_keeps_fst
      | apply ite_keeps_snd | apply whenLive_keeps | apply State.dropRef_keeps | dsimp only

end Sys2Proof.Machine
end

