-- ==== Sys2Proof/Laws/KeepsScene.lean ====
section
/-! SUPPORT. The laws of `Keeps` for the operations of composition, scenes and the placement engine: each keeps what `Keeps` lists, in the state
it leaves. -/

namespace Sys2Proof.Machine

set_option Elab.async false
set_option linter.unusedTactic false
set_option linter.unreachableTactic false

theorem State.dropMoved_keeps {s₀ s : State} (hk : Keeps s₀ s) (was : State) :
    Keeps s₀ (State.dropMoved s was) := by
  unfold State.dropMoved
  try dsimp only
  with_reducible
    repeat'
      first
      | assumption | intro u | apply ite_keeps | apply ite_keeps_fst | apply ite_keeps_snd | apply foldl_keeps
      | apply foldl_keeps_fst | apply foldl_keeps_snd | apply State.setOutput_keeps | simp only [Keeps.mk_iff]
      | dsimp only

theorem State.moveHolds_keeps {s₀ s : State} (hk : Keeps s₀ s)  :
    Keeps s₀ (State.moveHolds s) := by
  unfold State.moveHolds
  try dsimp only
  with_reducible
    repeat'
      first
      | assumption | apply ite_keeps | apply ite_keeps_fst | apply ite_keeps_snd | apply State.dropMoved_keeps
      | simp only [Keeps.mk_iff] | simp only [Keeps.mk_dram_iff] | dsimp only

theorem State.placementView_keeps {s₀ s : State} (hk : Keeps s₀ s)  :
    Keeps s₀ (State.placementView s) := by
  unfold State.placementView
  try dsimp only
  with_reducible
    repeat'
      first
      | assumption | intro u | apply ite_keeps | apply ite_keeps_fst | apply ite_keeps_snd | apply foldl_keeps
      | apply foldl_keeps_fst | apply foldl_keeps_snd | apply State.setActive_keeps | simp only [Keeps.mk_iff]
      | simp only [Keeps.mk_dram_iff] | dsimp only

theorem placeOp_keeps : OpKeeps (placeOp) := by
  intro s₀ s ss i v h
  unfold placeOp
  try dsimp only
  with_reducible
    repeat'
      first
      | assumption | intro u | apply ite_keeps | apply ite_keeps_fst | apply ite_keeps_snd
      | apply State.setReg_keeps | simp only [Keeps.mk_iff] | dsimp only

theorem State.placementResult_keeps {s₀ s : State} (hk : Keeps s₀ s) (status : Nat) (code : Nat) (report : Bytes) :
    Keeps s₀ (State.placementResult s status code report) := by
  unfold State.placementResult
  try dsimp only
  with_reducible
    repeat'
      first
      | assumption | apply State.setReg_keeps | apply State.setBlob_keeps | dsimp only

theorem State.holdApart_keeps {s₀ s : State} (hk : Keeps s₀ s) (slot : Nat) :
    Keeps s₀ (State.holdApart s slot) := by
  unfold State.holdApart
  try dsimp only
  with_reducible
    repeat'
      first
      | assumption | apply ite_keeps | apply ite_keeps_fst | apply ite_keeps_snd | apply State.setBlob_keeps
      | simp only [Keeps.mk_iff] | split | dsimp only

theorem State.storePlan_keeps {s₀ s : State} (hk : Keeps s₀ s) (slot : Nat) (p : Plan) :
    Keeps s₀ (State.storePlan s slot p) := by
  unfold State.storePlan
  try dsimp only
  with_reducible
    repeat'
      first
      | assumption | apply State.holdApart_keeps | apply State.setBlob_keeps | simp only [Keeps.mk_iff]
      | dsimp only

theorem emptySlotOp_keeps : OpKeeps (emptySlotOp) := by
  intro s₀ s ss i v h
  unfold emptySlotOp
  try dsimp only
  with_reducible
    repeat'
      first
      | assumption | intro u | apply ite_keeps | apply ite_keeps_fst | apply ite_keeps_snd
      | apply State.setBlob_keeps | simp only [Keeps.mk_iff] | dsimp only

theorem State.advanceEpoch_keeps {s₀ s : State} (hk : Keeps s₀ s)  :
    Keeps s₀ (State.advanceEpoch s) := by
  unfold State.advanceEpoch
  try dsimp only
  with_reducible
    repeat'
      first
      | assumption | apply State.setReg_keeps | dsimp only

theorem State.yieldPair_keeps {s₀ s : State} (hk : Keeps s₀ s)  :
    Keeps s₀ (State.yieldPair s) := by
  unfold State.yieldPair
  try dsimp only
  with_reducible
    repeat'
      first
      | assumption | apply ite_keeps | apply ite_keeps_fst | apply ite_keeps_snd | apply State.send_keeps
      | apply State.record_keeps | simp only [Keeps.mk_iff] | dsimp only

theorem State.escalate_keeps {s₀ s : State} (hk : Keeps s₀ s) (bit : Nat) :
    Keeps s₀ (State.escalate s bit) := by
  unfold State.escalate
  try dsimp only
  with_reducible
    repeat'
      first
      | assumption | apply ite_keeps | apply ite_keeps_fst | apply ite_keeps_snd | apply State.yieldPair_keeps
      | dsimp only

theorem State.strikeOutputs_keeps {s₀ s : State} (hk : Keeps s₀ s) (v : Nat) (outs : List Nat) :
    Keeps s₀ (State.strikeOutputs s v outs) := by
  unfold State.strikeOutputs
  try dsimp only
  with_reducible
    repeat'
      first
      | assumption | intro u | apply ite_keeps | apply ite_keeps_fst | apply ite_keeps_snd | apply foldl_keeps
      | apply foldl_keeps_fst | apply foldl_keeps_snd | apply State.setOutput_keeps | apply State.record_keeps
      | simp only [Keeps.mk_iff] | dsimp only

theorem State.strike_keeps {s₀ s : State} (hk : Keeps s₀ s) (outs : List Nat) :
    Keeps s₀ (State.strike s outs) := by
  unfold State.strike
  try dsimp only
  with_reducible
    repeat'
      first
      | assumption | apply State.strikeOutputs_keeps | apply State.escalate_keeps | dsimp only

theorem State.strikeRunning_keeps {s₀ s : State} (hk : Keeps s₀ s) (outs : List Nat) :
    Keeps s₀ (State.strikeRunning s outs) := by
  unfold State.strikeRunning
  try dsimp only
  with_reducible
    repeat'
      first
      | assumption | apply ite_keeps | apply ite_keeps_fst | apply ite_keeps_snd | apply State.strike_keeps
      | simp only [Keeps.mk_iff] | split | dsimp only

theorem State.queueRecovery_keeps {s₀ s : State} (hk : Keeps s₀ s) (r : Recovery) (outs : List Nat) :
    Keeps s₀ (State.queueRecovery s r outs) := by
  unfold State.queueRecovery
  try dsimp only
  with_reducible
    repeat'
      first
      | assumption | apply ite_keeps | apply ite_keeps_fst | apply ite_keeps_snd | apply State.record_keeps
      | apply State.strikeOutputs_keeps | apply State.escalate_keeps | simp only [Keeps.mk_iff] | dsimp only

theorem State.triggerReplan_keeps {s₀ s : State} (hk : Keeps s₀ s) (cause : Cause) (outs : List Nat) :
    Keeps s₀ (State.triggerReplan s cause outs) := by
  unfold State.triggerReplan
  try dsimp only
  with_reducible
    repeat'
      first
      | assumption | apply ite_keeps | apply ite_keeps_fst | apply ite_keeps_snd | apply State.queueRecovery_keeps
      | dsimp only

theorem State.endRecovery_keeps {s₀ s : State} (hk : Keeps s₀ s)  :
    Keeps s₀ (State.endRecovery s) := by
  unfold State.endRecovery
  try dsimp only
  with_reducible
    repeat'
      first
      | assumption | simp only [Keeps.mk_iff] | dsimp only

end Sys2Proof.Machine
end

