-- ==== Sys2Proof/Laws/KeepsLanes.lean ====
section
/-! SUPPORT. The laws of `Keeps` for the operations of the fabric, the memory and the lanes: each keeps what `Keeps` lists, in the state
it leaves. -/

namespace Sys2Proof.Machine

set_option Elab.async false
set_option linter.unusedTactic false
set_option linter.unreachableTactic false

theorem State.refuseAccess_keeps {s₀ s : State} (hk : Keeps s₀ s) (port : Nat) (c : Code) (address : Nat) (cls : Nat) :
    Keeps s₀ (State.refuseAccess s port c address cls) := by
  unfold State.refuseAccess
  try dsimp only
  with_reducible
    repeat'
      first
      | assumption | apply State.bump_keeps | apply State.setBlob_keeps | apply State.setReg_keeps | dsimp only

theorem State.refuseForm_keeps {s₀ s : State} (hk : Keeps s₀ s) (port : Nat) (c : Code) (address : Nat) (cls : Nat) :
    Keeps s₀ (State.refuseForm s port c address cls) := by
  unfold State.refuseForm
  try dsimp only
  with_reducible
    repeat'
      first
      | assumption | apply State.refuseAccess_keeps | apply State.recordLimited_keeps | dsimp only

theorem State.noteWait_keeps {s₀ s : State} (hk : Keeps s₀ s) (port : Nat) (wait : Nat) :
    Keeps s₀ (State.noteWait s port wait) := by
  unfold State.noteWait
  try dsimp only
  with_reducible
    repeat'
      first
      | assumption | apply State.setReg_keeps | dsimp only

theorem State.countAccesses_keeps {s₀ s : State} (hk : Keeps s₀ s) (port : Nat) (cls : Nat) (wait : Nat) (n : Nat) :
    Keeps s₀ (State.countAccesses s port cls wait n) := by
  unfold State.countAccesses
  try dsimp only
  with_reducible
    repeat'
      first
      | assumption | apply ite_keeps | apply ite_keeps_fst | apply ite_keeps_snd | apply State.bumpBy_keeps
      | dsimp only

theorem State.countDone_keeps {s₀ s : State} (hk : Keeps s₀ s) (port : Nat) (cls : Nat) (wait : Nat) :
    Keeps s₀ (State.countDone s port cls wait) := by
  unfold State.countDone
  try dsimp only
  with_reducible
    repeat'
      first
      | assumption | apply State.countAccesses_keeps | dsimp only

theorem State.dropItem_keeps {s₀ s : State} (hk : Keeps s₀ s) (x : FabItem) :
    Keeps s₀ (State.dropItem s x) := by
  unfold State.dropItem
  try dsimp only
  with_reducible
    repeat'
      first
      | assumption | apply ite_keeps | apply ite_keeps_fst | apply ite_keeps_snd | simp only [Keeps.mk_iff]
      | dsimp only

theorem State.serveNext_keeps {s₀ s : State} (hk : Keeps s₀ s) (t : Nat) :
    Keeps s₀ (State.serveNext s t) := by
  unfold State.serveNext
  try dsimp only
  with_reducible
    repeat'
      first
      | assumption | apply ite_keeps | apply ite_keeps_fst | apply ite_keeps_snd | apply State.setChan_keeps
      | simp only [Keeps.mk_iff] | dsimp only

theorem State.writeBeats_keeps {s₀ s : State} (hk : Keeps s₀ s) (r : FabReq) :
    Keeps s₀ (State.writeBeats s r) := by
  unfold State.writeBeats
  try dsimp only
  with_reducible
    repeat'
      first
      | assumption | intro u | apply foldl_keeps | apply foldl_keeps_fst | apply foldl_keeps_snd
      | apply State.store_keeps | dsimp only

theorem State.moveData_keeps {s₀ s : State} (hk : Keeps s₀ s) (x : FabItem) :
    Keeps s₀ (State.moveData s x) := by
  unfold State.moveData
  try dsimp only
  with_reducible
    repeat'
      first
      | assumption | apply ite_keeps | apply ite_keeps_fst | apply ite_keeps_snd | apply State.writeBeats_keeps
      | simp only [Keeps.mk_iff] | dsimp only

theorem State.afterService_keeps {s₀ s : State} (hk : Keeps s₀ s) (x : FabItem) :
    Keeps s₀ (State.afterService s x) := by
  unfold State.afterService
  try dsimp only
  with_reducible
    repeat'
      first
      | assumption | apply ite_keeps | apply ite_keeps_fst | apply ite_keeps_snd | apply State.setChan_keeps
      | apply State.serveNext_keeps | simp only [Keeps.mk_iff] | dsimp only

theorem State.grant_keeps {s₀ s : State} (hk : Keeps s₀ s) (x : FabItem) (g : Nat) :
    Keeps s₀ (State.grant s x g) := by
  unfold State.grant
  try dsimp only
  with_reducible
    repeat'
      first
      | assumption | apply ite_keeps | apply ite_keeps_fst | apply ite_keeps_snd | apply State.noteWait_keeps
      | apply State.serveNext_keeps | simp only [Keeps.mk_iff] | dsimp only

theorem State.countFrame_keeps {s₀ s : State} (hk : Keeps s₀ s) (port : Nat) :
    Keeps s₀ (State.countFrame s port) := by
  unfold State.countFrame
  try dsimp only
  with_reducible
    repeat'
      first
      | assumption | simp only [Keeps.mk_iff] | dsimp only

theorem State.noteRefusedB_keeps {s₀ s : State} (hk : Keeps s₀ s) (port : Nat) (address : Nat) :
    Keeps s₀ (State.noteRefusedB s port address) := by
  unfold State.noteRefusedB
  try dsimp only
  with_reducible
    repeat'
      first
      | assumption | apply State.recordEvery_keeps | dsimp only

theorem clearOutcomesOp_keeps : OpKeeps (clearOutcomesOp) := by
  intro s₀ s ss i v h
  unfold clearOutcomesOp
  try dsimp only
  with_reducible
    repeat'
      first
      | assumption | intro u | apply foldl_keeps | apply foldl_keeps_fst | apply foldl_keeps_snd
      | apply State.setReg_keeps | apply State.setBlob_keeps | dsimp only

theorem State.grantLock_keeps {s₀ s : State} (hk : Keeps s₀ s) (l : LockedRun) :
    Keeps s₀ (State.grantLock s l) := by
  unfold State.grantLock
  try dsimp only
  with_reducible
    repeat'
      first
      | assumption | apply ite_keeps | apply ite_keeps_fst | apply ite_keeps_snd | apply State.noteWait_keeps
      | apply State.countAccesses_keeps | simp only [Keeps.mk_iff] | dsimp only

theorem execLockedSequence_keeps {s₀ s : State} (hk : Keeps s₀ s) (port : Fin 42) (target : Fin 25) (accesses : Nat) :
    OutKeeps s₀ (execLockedSequence port target accesses s) := by
  unfold execLockedSequence
  try dsimp only
  with_reducible
    repeat'
      first
      | assumption | apply whenManaged_keeps | apply whenLive_keeps | apply whenFabric_keeps | apply OutKeeps.next
      | apply OutKeeps.fault | apply OutKeeps.ite | assumption | intro u | apply ite_keeps | apply ite_keeps_fst
      | apply ite_keeps_snd | apply State.draw_keeps | apply whenFabric_keeps | apply State.refuseForm_keeps
      | simp only [Keeps.mk_iff] | dsimp only

theorem execClearOutcomes_keeps {s₀ s : State} (hk : Keeps s₀ s) (ss : Nat) (v : Nat) :
    OutKeeps s₀ (execClearOutcomes ss v s) := by
  unfold execClearOutcomes
  try dsimp only
  with_reducible
    repeat'
      first
      | assumption | apply whenManaged_keeps | apply whenLive_keeps | apply whenFabric_keeps | apply OutKeeps.next
      | apply OutKeeps.fault | apply OutKeeps.ite | assumption | intro u | apply whenManaged_keeps
      | apply State.ledgerWrite_keeps | refine OpKeeps.apply (clearOutcomesOp_keeps ..) ?_
      | apply clearOutcomesOp_keeps | dsimp only

theorem State.logMemError_keeps {s₀ s : State} (hk : Keeps s₀ s) (address syndrome port : Nat) :
    Keeps s₀ (State.logMemError s address syndrome port) := by
  unfold State.logMemError
  split
  · exact hk
  · dsimp only
    apply State.recordLimited_keeps
    have h : ∀ es : List MemErr, es.length ≤ memLogSize → Keeps s₀ { s with dram := { s.dram with errors := es } } :=
      fun es he => { hk with errors := fun _ => he }
    split
    · exact State.bump_keeps (h _ (List.length_take_le _ _)) _ _
    · exact State.bump_keeps (h _ (List.length_take_le _ _)) _ _

theorem State.enterEvacuation_keeps {s₀ s : State} (hk : Keeps s₀ s) (c : Nat) :
    Keeps s₀ (State.enterEvacuation s c) := by
  unfold State.enterEvacuation
  try dsimp only
  with_reducible
    repeat'
      first
      | assumption | apply ite_keeps | apply ite_keeps_fst | apply ite_keeps_snd | apply State.setReg_keeps
      | apply State.advanceEpoch_keeps | apply State.replanned_keeps | apply State.moveHolds_keeps
      | simp only [Keeps.mk_iff] | simp only [Keeps.mk_dram_iff] | dsimp only

theorem State.requestEvacuation_keeps {s₀ s : State} (hk : Keeps s₀ s) (c : Nat) :
    Keeps s₀ (State.requestEvacuation s c) := by
  unfold State.requestEvacuation
  try dsimp only
  with_reducible
    repeat'
      first
      | assumption | apply ite_keeps | apply ite_keeps_fst | apply ite_keeps_snd
      | apply State.enterEvacuation_keeps | apply State.queueRecovery_keeps | dsimp only

theorem State.correctedError_keeps {s₀ s : State} (hk : Keeps s₀ s) (c : Nat) :
    Keeps s₀ (State.correctedError s c) := by
  unfold State.correctedError
  try dsimp only
  with_reducible
    repeat'
      first
      | assumption | intro u | apply ite_keeps | apply ite_keeps_fst | apply ite_keeps_snd | apply State.bump_keeps
      | apply State.setChan_keeps | apply State.record_keeps | apply State.requestEvacuation_keeps
      | simp only [Keeps.mk_iff] | dsimp only

theorem State.startReturn_keeps {s₀ s : State} (hk : Keeps s₀ s) (c : Nat) :
    Keeps s₀ (State.startReturn s c) := by
  unfold State.startReturn
  try dsimp only
  with_reducible
    repeat'
      first
      | assumption | apply State.store_keeps | apply State.setReg_keeps | apply State.setChan_keeps
      | apply State.advanceEpoch_keeps | simp only [Keeps.mk_iff] | dsimp only

theorem channelOp_keeps : OpKeeps (channelOp) := by
  intro s₀ s ss i v h
  unfold channelOp
  try dsimp only
  with_reducible
    repeat'
      first
      | assumption | intro u | apply ite_keeps | apply ite_keeps_fst | apply ite_keeps_snd
      | apply State.requestEvacuation_keeps | apply State.startReturn_keeps | apply State.setReg_keeps
      | apply State.record_keeps | apply State.advanceEpoch_keeps | apply State.triggerReplan_keeps
      | simp only [Keeps.mk_iff] | split | dsimp only

theorem State.placeStartUp_keeps {s₀ s : State} (hk : Keeps s₀ s)  :
    Keeps s₀ (State.placeStartUp s) := by
  unfold State.placeStartUp
  try dsimp only
  with_reducible
    repeat'
      first
      | assumption | apply ite_keeps | apply ite_keeps_fst | apply ite_keeps_snd | simp only [Keeps.mk_iff]
      | dsimp only

theorem State.settleDram_keeps {s₀ s : State} (hk : Keeps s₀ s) (c : Code) :
    Keeps s₀ (State.settleDram s c) := by
  unfold State.settleDram
  try dsimp only
  with_reducible
    repeat'
      first
      | assumption | intro u | apply ite_keeps | apply ite_keeps_fst | apply ite_keeps_snd
      | apply State.setReady_keeps | apply State.placeStartUp_keeps | apply State.setFailed_keeps | dsimp only

theorem State.closeRows_keeps {s₀ s : State} (hk : Keeps s₀ s) (c : Nat) :
    Keeps s₀ (State.closeRows s c) := by
  unfold State.closeRows
  try dsimp only
  with_reducible
    repeat'
      first
      | assumption | apply State.setChan_keeps | simp only [Keeps.mk_iff] | dsimp only

theorem State.refreshFromNow_keeps {s₀ s : State} (hk : Keeps s₀ s) (c : Nat) :
    Keeps s₀ (State.refreshFromNow s c) := by
  unfold State.refreshFromNow
  try dsimp only
  with_reducible
    repeat'
      first
      | assumption | apply State.setChan_keeps | simp only [Keeps.mk_iff] | dsimp only

theorem execRefreshDue_keeps {s₀ s : State} (hk : Keeps s₀ s) (channel : Fin 16) :
    OutKeeps s₀ (execRefreshDue channel s) := by
  unfold execRefreshDue
  try dsimp only
  with_reducible
    repeat'
      first
      | assumption | apply whenManaged_keeps | apply whenLive_keeps | apply whenFabric_keeps | apply OutKeeps.next
      | apply OutKeeps.fault | apply OutKeeps.ite | assumption | intro u | apply ite_keeps | apply ite_keeps_fst
      | apply ite_keeps_snd | apply whenLive_keeps | apply State.setChan_keeps | apply State.closeRows_keeps
      | apply State.bump_keeps | apply State.recordLimited_keeps | simp only [Keeps.mk_iff] | dsimp only

theorem execRefreshCatchUp_keeps {s₀ s : State} (hk : Keeps s₀ s) (channel : Fin 16) :
    OutKeeps s₀ (execRefreshCatchUp channel s) := by
  unfold execRefreshCatchUp
  try dsimp only
  with_reducible
    repeat'
      first
      | assumption | apply whenManaged_keeps | apply whenLive_keeps | apply whenFabric_keeps | apply OutKeeps.next
      | apply OutKeeps.fault | apply OutKeeps.ite | assumption | intro u | apply ite_keeps | apply ite_keeps_fst
      | apply ite_keeps_snd | apply whenLive_keeps | apply State.closeRows_keeps | apply State.setReg_keeps
      | dsimp only

theorem execTemperatureRead_keeps {s₀ s : State} (hk : Keeps s₀ s) (channel : Fin 16) (celsius : Int) :
    OutKeeps s₀ (execTemperatureRead channel celsius s) := by
  unfold execTemperatureRead
  try dsimp only
  with_reducible
    repeat'
      first
      | assumption | apply whenManaged_keeps | apply whenLive_keeps | apply whenFabric_keeps | apply OutKeeps.next
      | apply OutKeeps.fault | apply OutKeeps.ite | assumption | intro u | apply ite_keeps | apply ite_keeps_fst
      | apply ite_keeps_snd | apply whenLive_keeps | apply State.setRegI_keeps | apply State.setReg_keeps
      | apply State.record_keeps | dsimp only

theorem execTracking_keeps {s₀ s : State} (hk : Keeps s₀ s) (channel : Fin 16) (driftPs : Int) (inRange : Bool) :
    OutKeeps s₀ (execTracking channel driftPs inRange s) := by
  unfold execTracking
  try dsimp only
  with_reducible
    repeat'
      first
      | assumption | apply whenManaged_keeps | apply whenLive_keeps | apply whenFabric_keeps | apply OutKeeps.next
      | apply OutKeeps.fault | apply OutKeeps.ite | assumption | intro u | apply ite_keeps | apply ite_keeps_fst
      | apply ite_keeps_snd | apply whenLive_keeps | apply State.setChan_keeps | apply State.setRegI_keeps
      | apply State.record_keeps | apply State.requestEvacuation_keeps | simp only [Keeps.mk_iff]
      | simp only [Keeps.mk_dram_iff] | dsimp only

theorem State.scrubbedOne_keeps {s₀ s : State} (hk : Keeps s₀ s) (c : Nat) :
    Keeps s₀ (State.scrubbedOne s c) := by
  unfold State.scrubbedOne
  try dsimp only
  with_reducible
    repeat'
      first
      | assumption | apply ite_keeps | apply ite_keeps_fst | apply ite_keeps_snd | apply State.setChan_keeps
      | simp only [Keeps.mk_iff] | dsimp only

theorem execScrubRead_keeps {s₀ s : State} (hk : Keeps s₀ s) (channel : Fin 16) (sector : Nat) (corrected : Bool)
    (uncorrectable : Bool) (syndrome : Nat) :
    OutKeeps s₀ (execScrubRead channel sector corrected uncorrectable syndrome s) := by
  unfold execScrubRead
  try dsimp only
  with_reducible
    repeat'
      first
      | assumption | apply whenManaged_keeps | apply whenLive_keeps | apply whenFabric_keeps | apply OutKeeps.next
      | apply OutKeeps.fault | apply OutKeeps.ite | assumption | intro u | apply ite_keeps | apply ite_keeps_fst
      | apply ite_keeps_snd | apply whenLive_keeps | apply State.scrubbedOne_keeps | apply State.logMemError_keeps
      | apply State.correctedError_keeps | dsimp only

theorem execSelfRefreshEntry_keeps {s₀ s : State} (hk : Keeps s₀ s) (channel : Fin 16) :
    OutKeeps s₀ (execSelfRefreshEntry channel s) := by
  unfold execSelfRefreshEntry
  try dsimp only
  with_reducible
    repeat'
      first
      | assumption | apply whenManaged_keeps | apply whenLive_keeps | apply whenFabric_keeps | apply OutKeeps.next
      | apply OutKeeps.fault | apply OutKeeps.ite | assumption | intro u | apply ite_keeps | apply ite_keeps_fst
      | apply ite_keeps_snd | apply whenLive_keeps | apply State.closeRows_keeps | apply State.setReg_keeps
      | apply State.bump_keeps | dsimp only

theorem execSelfRefreshExit_keeps {s₀ s : State} (hk : Keeps s₀ s) (channel : Fin 16) (beforeCommand : Bool) :
    OutKeeps s₀ (execSelfRefreshExit channel beforeCommand s) := by
  unfold execSelfRefreshExit
  try dsimp only
  with_reducible
    repeat'
      first
      | assumption | apply whenManaged_keeps | apply whenLive_keeps | apply whenFabric_keeps | apply OutKeeps.next
      | apply OutKeeps.fault | apply OutKeeps.ite | assumption | intro u | apply ite_keeps | apply ite_keeps_fst
      | apply ite_keeps_snd | apply whenLive_keeps | apply State.setChan_keeps | apply State.bump_keeps
      | apply State.setReg_keeps | apply State.refreshFromNow_keeps | simp only [Keeps.mk_iff] | dsimp only

theorem execDramTrainingDone_keeps {s₀ s : State} (hk : Keeps s₀ s) (channel : Fin 16) (passed : Bool) :
    OutKeeps s₀ (execDramTrainingDone channel passed s) := by
  unfold execDramTrainingDone
  try dsimp only
  with_reducible
    repeat'
      first
      | assumption | apply whenManaged_keeps | apply whenLive_keeps | apply whenFabric_keeps | apply OutKeeps.next
      | apply OutKeeps.fault | apply OutKeeps.ite | assumption | intro u | apply ite_keeps | apply ite_keeps_fst
      | apply ite_keeps_snd | apply State.store_keeps | apply whenLive_keeps | apply State.setReg_keeps
      | apply State.setChan_keeps | apply State.dropMoved_keeps | apply State.record_keeps
      | apply State.advanceEpoch_keeps | apply State.settleDram_keeps | simp only [Keeps.mk_iff] | dsimp only

theorem execEvacuate_keeps {s₀ s : State} (hk : Keeps s₀ s) (ss : Nat) (v : Nat) :
    OutKeeps s₀ (execEvacuate ss v s) := by
  unfold execEvacuate
  try dsimp only
  with_reducible
    repeat'
      first
      | assumption | apply whenManaged_keeps | apply whenLive_keeps | apply whenFabric_keeps | apply OutKeeps.next
      | apply OutKeeps.fault | apply OutKeeps.ite | assumption | intro u | apply whenManaged_keeps
      | apply State.ledgerWrite_keeps | refine OpKeeps.apply (channelOp_keeps ..) ?_ | apply channelOp_keeps
      | dsimp only

theorem execEvacuationComplete_keeps {s₀ s : State} (hk : Keeps s₀ s) (channel : Fin 16) :
    OutKeeps s₀ (execEvacuationComplete channel s) := by
  unfold execEvacuationComplete
  try dsimp only
  with_reducible
    repeat'
      first
      | assumption | apply whenManaged_keeps | apply whenLive_keeps | apply whenFabric_keeps | apply OutKeeps.next
      | apply OutKeeps.fault | apply OutKeeps.ite | assumption | intro u | apply ite_keeps | apply ite_keeps_fst
      | apply ite_keeps_snd | apply whenLive_keeps | apply State.moveHolds_keeps | apply State.setReg_keeps
      | apply State.record_keeps | apply State.advanceEpoch_keeps | apply State.endRecovery_keeps
      | apply State.startReturn_keeps | simp only [Keeps.mk_iff] | simp only [Keeps.mk_dram_iff] | dsimp only

theorem execRetrainChannel_keeps {s₀ s : State} (hk : Keeps s₀ s) (ss : Nat) (v : Nat) :
    OutKeeps s₀ (execRetrainChannel ss v s) := by
  unfold execRetrainChannel
  try dsimp only
  with_reducible
    repeat'
      first
      | assumption | apply whenManaged_keeps | apply whenLive_keeps | apply whenFabric_keeps | apply OutKeeps.next
      | apply OutKeeps.fault | apply OutKeeps.ite | assumption | intro u | apply whenManaged_keeps
      | apply State.ledgerWrite_keeps | refine OpKeeps.apply (channelOp_keeps ..) ?_ | apply channelOp_keeps
      | dsimp only

theorem execRetireChannel_keeps {s₀ s : State} (hk : Keeps s₀ s) (ss : Nat) (v : Nat) :
    OutKeeps s₀ (execRetireChannel ss v s) := by
  unfold execRetireChannel
  try dsimp only
  with_reducible
    repeat'
      first
      | assumption | apply whenManaged_keeps | apply whenLive_keeps | apply whenFabric_keeps | apply OutKeeps.next
      | apply OutKeeps.fault | apply OutKeeps.ite | assumption | intro u | apply whenManaged_keeps
      | apply State.ledgerWrite_keeps | refine OpKeeps.apply (channelOp_keeps ..) ?_ | apply channelOp_keeps
      | dsimp only

theorem State.sendBlock_keeps {s₀ s : State} (hk : Keeps s₀ s) (l : Nat) (payload : Nat) :
    Keeps s₀ (State.sendBlock s l payload) := by
  unfold State.sendBlock
  try dsimp only
  with_reducible
    repeat'
      first
      | assumption | apply State.setLane_keeps | apply State.send_keeps | simp only [Keeps.mk_iff] | dsimp only

theorem State.checkBit_keeps {s₀ s : State} (hk : Keeps s₀ s) (l : Nat) (b : Bool) :
    Keeps s₀ (State.checkBit s l b) := by
  unfold State.checkBit
  try dsimp only
  with_reducible
    repeat'
      first
      | assumption | apply ite_keeps | apply ite_keeps_fst | apply ite_keeps_snd | apply State.setLane_keeps
      | apply State.bumpBy_keeps | apply State.setReg_keeps | simp only [Keeps.mk_iff] | dsimp only

theorem State.patternBit_keeps {s₀ s : State} (hk : Keeps s₀ s) (l : Nat) :
    Keeps s₀ (State.patternBit s l) := by
  unfold State.patternBit
  try dsimp only
  with_reducible
    repeat'
      first
      | assumption | apply ite_keeps | apply ite_keeps_fst | apply ite_keeps_snd | apply State.setLane_keeps
      | apply State.send_keeps | apply State.checkBit_keeps | simp only [Keeps.mk_iff] | dsimp only

theorem State.sendCellDue_keeps {s₀ s : State} (hk : Keeps s₀ s) (p : Nat) (due : Int) (cell : Bytes) :
    Keeps s₀ (State.sendCellDue s p due cell) := by
  unfold State.sendCellDue
  try dsimp only
  with_reducible
    repeat'
      first
      | assumption | apply ite_keeps | apply ite_keeps_fst | apply ite_keeps_snd | apply State.setPort_keeps
      | simp only [Keeps.mk_iff] | dsimp only

theorem State.sendCell_keeps {s₀ s : State} (hk : Keeps s₀ s) (p : Nat) (cell : Bytes) :
    Keeps s₀ (State.sendCell s p cell) := by
  unfold State.sendCell
  try dsimp only
  with_reducible
    repeat'
      first
      | assumption | apply State.sendCellDue_keeps | dsimp only

theorem State.stampCell_keeps {s₀ s : State} (hk : Keeps s₀ s) (p : Nat) (cell : Bytes) :
    Keeps s₀ (State.stampCell s p cell).1 := by
  unfold State.stampCell
  try dsimp only
  with_reducible
    repeat'
      first
      | assumption | apply ite_keeps | apply ite_keeps_fst | apply ite_keeps_snd | apply State.setPort_keeps
      | simp only [Keeps.mk_iff] | split | dsimp only

theorem State.fillSlot_keeps {s₀ s : State} (hk : Keeps s₀ s) (p : Nat) (c : Nat) (width : Nat) (i : Nat) :
    Keeps s₀ (State.fillSlot s p c width i).1 := by
  unfold State.fillSlot
  try dsimp only
  with_reducible
    repeat'
      first
      | assumption | apply State.setPort_keeps | apply State.stampCell_keeps | apply State.send_keeps
      | simp only [Keeps.mk_iff] | split | dsimp only

theorem State.fillSlots_keeps {s₀ s : State} (hk : Keeps s₀ s) (p : Nat) (c : Nat) (width : Nat) :
    Keeps s₀ (State.fillSlots s p c width).1 := by
  unfold State.fillSlots
  try dsimp only
  with_reducible
    repeat'
      first
      | assumption | intro u | apply foldl_keeps | apply foldl_keeps_fst | apply foldl_keeps_snd
      | apply State.fillSlot_keeps | dsimp only

theorem State.clearOutbox_keeps {s₀ s : State} (hk : Keeps s₀ s) (p : Nat) :
    Keeps s₀ (State.clearOutbox s p) := by
  unfold State.clearOutbox
  try dsimp only
  with_reducible
    repeat'
      first
      | assumption | apply State.setPort_keeps | simp only [Keeps.mk_iff] | dsimp only

theorem State.storeHold_keeps {s₀ s : State} (hk : Keeps s₀ s) (o : Nat) (half : Bool) :
    Keeps s₀ (State.storeHold s o half) := by
  unfold State.storeHold
  try dsimp only
  with_reducible
    repeat'
      first
      | assumption | intro u | apply State.store_keeps | dsimp only

theorem State.feedOutput_keeps {s₀ s : State} (hk : Keeps s₀ s) (o : Nat) :
    Keeps s₀ (State.feedOutput s o) := by
  unfold State.feedOutput
  try dsimp only
  with_reducible
    repeat'
      first
      | assumption | intro u | apply ite_keeps | apply ite_keeps_fst | apply ite_keeps_snd | apply foldl_keeps
      | apply foldl_keeps_fst | apply foldl_keeps_snd | apply State.sendCellDue_keeps | apply State.setOutput_keeps
      | simp only [Keeps.mk_iff] | dsimp only

theorem State.feedPort_keeps {s₀ s : State} (hk : Keeps s₀ s) (p : Nat) :
    Keeps s₀ (State.feedPort s p) := by
  unfold State.feedPort
  try dsimp only
  with_reducible
    repeat'
      first
      | assumption | intro u | apply ite_keeps | apply ite_keeps_fst | apply ite_keeps_snd | apply foldl_keeps
      | apply foldl_keeps_fst | apply foldl_keeps_snd | apply State.feedOutput_keeps | dsimp only

theorem State.setSpare_keeps {s₀ s : State} (hk : Keeps s₀ s) (l : Nat) (st : Nat) :
    Keeps s₀ (State.setSpare s l st) := by
  unfold State.setSpare
  try dsimp only
  with_reducible
    repeat'
      first
      | assumption | apply ite_keeps | apply ite_keeps_fst | apply ite_keeps_snd | apply State.setReg_keeps
      | dsimp only

theorem State.clearSpare_keeps {s₀ s : State} (hk : Keeps s₀ s) (l : Nat) (st : Nat) :
    Keeps s₀ (State.clearSpare s l st) := by
  unfold State.clearSpare
  try dsimp only
  with_reducible
    repeat'
      first
      | assumption | apply ite_keeps | apply ite_keeps_fst | apply ite_keeps_snd | apply State.setReg_keeps
      | dsimp only

theorem State.enterLane_keeps {s₀ s : State} (hk : Keeps s₀ s) (st : Nat) (l : Nat) :
    Keeps s₀ (State.enterLane s st l) := by
  unfold State.enterLane
  try dsimp only
  with_reducible
    repeat'
      first
      | assumption | apply State.setReg_keeps | apply State.setLane_keeps | simp only [Keeps.mk_iff] | dsimp only

theorem State.enterLanes_keeps {s₀ s : State} (hk : Keeps s₀ s) (st : Nat) (ls : List Nat) :
    Keeps s₀ (State.enterLanes s st ls) := by
  unfold State.enterLanes
  try dsimp only
  with_reducible
    repeat'
      first
      | assumption | intro u | apply foldl_keeps | apply foldl_keeps_fst | apply foldl_keeps_snd
      | apply State.enterLane_keeps | dsimp only

theorem State.sendCapability_keeps {s₀ s : State} (hk : Keeps s₀ s) (l : Nat) :
    Keeps s₀ (State.sendCapability s l) := by
  unfold State.sendCapability
  try dsimp only
  with_reducible
    repeat'
      first
      | assumption | apply State.sendBlock_keeps | dsimp only

theorem State.startExchange_keeps {s₀ s : State} (hk : Keeps s₀ s) (l : Nat) :
    Keeps s₀ (State.startExchange s l) := by
  unfold State.startExchange
  try dsimp only
  with_reducible
    repeat'
      first
      | assumption | intro u | apply foldl_keeps | apply foldl_keeps_fst | apply foldl_keeps_snd
      | apply State.sendBlock_keeps | apply State.enterLane_keeps | apply State.sendCapability_keeps | dsimp only

theorem State.startVerify_keeps {s₀ s : State} (hk : Keeps s₀ s) (l : Nat) :
    Keeps s₀ (State.startVerify s l) := by
  unfold State.startVerify
  try dsimp only
  with_reducible
    repeat'
      first
      | assumption | apply State.enterLane_keeps | apply State.sendBlock_keeps | dsimp only

theorem State.sendTrain_keeps {s₀ s : State} (hk : Keeps s₀ s) (l : Nat) (merit : Nat) :
    Keeps s₀ (State.sendTrain s l merit) := by
  unfold State.sendTrain
  try dsimp only
  with_reducible
    repeat'
      first
      | assumption | apply ite_keeps | apply ite_keeps_fst | apply ite_keeps_snd | apply State.sendBlock_keeps
      | dsimp only

theorem State.sendStep_keeps {s₀ s : State} (hk : Keeps s₀ s) (target : Nat) (request : Bool) (l : Nat) :
    Keeps s₀ (State.sendStep s target request l) := by
  unfold State.sendStep
  try dsimp only
  with_reducible
    repeat'
      first
      | assumption | apply ite_keeps | apply ite_keeps_fst | apply ite_keeps_snd | apply State.draw_keeps
      | apply State.sendBlock_keeps | apply State.request_keeps | dsimp only

theorem State.sendRunEntry_keeps {s₀ s : State} (hk : Keeps s₀ s) (count : Nat) (l : Nat) :
    Keeps s₀ (State.sendRunEntry s count l) := by
  unfold State.sendRunEntry
  try dsimp only
  with_reducible
    repeat'
      first
      | assumption | intro u | apply foldl_keeps | apply foldl_keeps_fst | apply foldl_keeps_snd
      | apply State.sendBlock_keeps | dsimp only

theorem State.detect_keeps {s₀ s : State} (hk : Keeps s₀ s) (ls : List Nat) :
    Keeps s₀ (State.detect s ls) := by
  unfold State.detect
  try dsimp only
  with_reducible
    repeat'
      first
      | assumption | intro u | apply ite_keeps | apply ite_keeps_fst | apply ite_keeps_snd | apply foldl_keeps
      | apply foldl_keeps_fst | apply foldl_keeps_snd | apply State.draw_keeps | apply State.setReg_keeps
      | apply State.bump_keeps | apply State.setLane_keeps | apply State.sendBlock_keeps | dsimp only

theorem State.startPort_keeps {s₀ s : State} (hk : Keeps s₀ s) (p : Nat) :
    Keeps s₀ (State.startPort s p) := by
  unfold State.startPort
  try dsimp only
  with_reducible
    repeat'
      first
      | assumption | intro u | apply foldl_keeps | apply foldl_keeps_fst | apply foldl_keeps_snd
      | apply State.clearSpare_keeps | apply State.setLane_keeps | apply State.setReg_keeps
      | apply State.detect_keeps | dsimp only

theorem State.backOff_keeps {s₀ s : State} (hk : Keeps s₀ s) (ls : List Nat) (l : Nat) (c : Code) :
    Keeps s₀ (State.backOff s ls l c) := by
  unfold State.backOff
  try dsimp only
  with_reducible
    repeat'
      first
      | assumption | intro u | apply ite_keeps | apply ite_keeps_fst | apply ite_keeps_snd | apply foldl_keeps
      | apply foldl_keeps_fst | apply foldl_keeps_snd | apply State.enterLane_keeps | apply State.setReg_keeps
      | apply State.setLane_keeps | apply State.recordEvery_keeps | apply State.record_keeps
      | simp only [Keeps.mk_iff] | dsimp only

theorem State.startTraining_keeps {s₀ s : State} (hk : Keeps s₀ s) (r : Nat) (ls : List Nat) :
    Keeps s₀ (State.startTraining s r ls) := by
  unfold State.startTraining
  try dsimp only
  with_reducible
    repeat'
      first
      | assumption | intro u | apply foldl_keeps | apply foldl_keeps_fst | apply foldl_keeps_snd
      | apply State.enterLane_keeps | apply State.setReg_keeps | apply State.setLane_keeps
      | apply State.sendTrain_keeps | simp only [Keeps.mk_iff] | dsimp only

theorem State.standReady_keeps {s₀ s : State} (hk : Keeps s₀ s) (l : Nat) :
    Keeps s₀ (State.standReady s l) := by
  unfold State.standReady
  try dsimp only
  with_reducible
    repeat'
      first
      | assumption | apply State.enterLane_keeps | apply State.setReg_keeps | apply State.clearSpare_keeps
      | apply State.setLane_keeps | simp only [Keeps.mk_iff] | dsimp only

theorem State.endRetrain_keeps {s₀ s : State} (hk : Keeps s₀ s) (l : Nat) :
    Keeps s₀ (State.endRetrain s l) := by
  unfold State.endRetrain
  try dsimp only
  with_reducible
    repeat'
      first
      | assumption | apply ite_keeps | apply ite_keeps_fst | apply ite_keeps_snd | apply State.endRecovery_keeps
      | dsimp only

theorem State.leaveExchange_keeps {s₀ s : State} (hk : Keeps s₀ s) (ls : List Nat) :
    Keeps s₀ (State.leaveExchange s ls) := by
  unfold State.leaveExchange
  try dsimp only
  with_reducible
    repeat'
      first
      | assumption | intro u | apply ite_keeps | apply ite_keeps_fst | apply ite_keeps_snd | apply foldl_keeps
      | apply foldl_keeps_fst | apply foldl_keeps_snd | apply State.draw_keeps | apply State.setLane_keeps
      | apply State.startExchange_keeps | apply State.startTraining_keeps | simp only [Keeps.mk_iff] | dsimp only

theorem State.leaveVerify_keeps {s₀ s : State} (hk : Keeps s₀ s) (ls : List Nat) :
    Keeps s₀ (State.leaveVerify s ls) := by
  unfold State.leaveVerify
  try dsimp only
  with_reducible
    repeat'
      first
      | assumption | intro u | apply ite_keeps | apply ite_keeps_fst | apply ite_keeps_snd | apply foldl_keeps
      | apply foldl_keeps_fst | apply foldl_keeps_snd | apply State.draw_keeps | apply State.setLane_keeps
      | apply State.enterLanes_keeps | apply State.sendStep_keeps | apply State.sendRunEntry_keeps
      | apply State.standReady_keeps | apply State.advanceEpoch_keeps | apply State.endRetrain_keeps
      | apply State.enterLane_keeps | apply State.sendBlock_keeps | apply State.setPort_keeps
      | simp only [Keeps.mk_iff] | split | dsimp only

theorem State.advanceLanes_keeps {s₀ s : State} (hk : Keeps s₀ s) (ls : List Nat) :
    Keeps s₀ (State.advanceLanes s ls) := by
  unfold State.advanceLanes
  try dsimp only
  with_reducible
    repeat'
      first
      | assumption | intro u | apply ite_keeps | apply ite_keeps_fst | apply ite_keeps_snd | apply foldl_keeps
      | apply foldl_keeps_fst | apply foldl_keeps_snd | apply State.startExchange_keeps
      | apply State.leaveExchange_keeps | apply State.startVerify_keeps | apply State.leaveVerify_keeps
      | simp only [Keeps.mk_iff] | split | dsimp only

theorem State.passStep_keeps {s₀ s : State} (hk : Keeps s₀ s) (l : Nat) :
    Keeps s₀ (State.passStep s l) := by
  unfold State.passStep
  try dsimp only
  with_reducible
    repeat'
      first
      | assumption | apply State.setLane_keeps | apply State.advanceLanes_keeps | simp only [Keeps.mk_iff]
      | dsimp only

theorem State.failAlone_keeps {s₀ s : State} (hk : Keeps s₀ s) (l : Nat) (c : Code) :
    Keeps s₀ (State.failAlone s l c) := by
  unfold State.failAlone
  try dsimp only
  with_reducible
    repeat'
      first
      | assumption | apply ite_keeps | apply ite_keeps_fst | apply ite_keeps_snd | apply State.setSpare_keeps
      | apply State.setLane_keeps | apply State.backOff_keeps | apply State.endRetrain_keeps
      | apply State.advanceLanes_keeps | simp only [Keeps.mk_iff] | split | dsimp only

theorem State.failBringUp_keeps {s₀ s : State} (hk : Keeps s₀ s) (l : Nat) (c : Code) :
    Keeps s₀ (State.failBringUp s l c) := by
  unfold State.failBringUp
  try dsimp only
  with_reducible
    repeat'
      first
      | assumption | apply ite_keeps | apply ite_keeps_fst | apply ite_keeps_snd | apply State.failAlone_keeps
      | apply State.backOff_keeps | dsimp only

theorem State.failRate_keeps {s₀ s : State} (hk : Keeps s₀ s) (l : Nat) :
    Keeps s₀ (State.failRate s l) := by
  unfold State.failRate
  try dsimp only
  with_reducible
    repeat'
      first
      | assumption | intro u | apply ite_keeps | apply ite_keeps_fst | apply ite_keeps_snd | apply foldl_keeps
      | apply foldl_keeps_fst | apply foldl_keeps_snd | apply State.failAlone_keeps | apply State.backOff_keeps
      | apply State.record_keeps | apply State.enterLane_keeps | apply State.setReg_keeps
      | apply State.setLane_keeps | simp only [Keeps.mk_iff] | split | dsimp only

theorem State.agreeClock_keeps {s₀ s : State} (hk : Keeps s₀ s) (l : Nat) :
    Keeps s₀ (State.agreeClock s l) := by
  unfold State.agreeClock
  try dsimp only
  with_reducible
    repeat'
      first
      | assumption | apply ite_keeps | apply ite_keeps_fst | apply ite_keeps_snd | apply State.setReg_keeps
      | apply State.setLane_keeps | apply State.record_keeps | simp only [Keeps.mk_iff] | dsimp only

theorem State.takeCapability_keeps {s₀ s : State} (hk : Keeps s₀ s) (l : Nat) (payload : Nat) :
    Keeps s₀ (State.takeCapability s l payload) := by
  unfold State.takeCapability
  try dsimp only
  with_reducible
    repeat'
      first
      | assumption | apply ite_keeps | apply ite_keeps_fst | apply ite_keeps_snd | apply State.setLane_keeps
      | apply State.setBlob_keeps | apply State.failBringUp_keeps | apply State.agreeClock_keeps
      | apply State.sendCapability_keeps | apply State.passStep_keeps | simp only [Keeps.mk_iff] | dsimp only

theorem State.onBlock_keeps {s₀ s0 : State} (hk : Keeps s₀ s0) (l : Nat) (block : RxBlock) (types : List Nat) (f :
    State → Nat → State) (hf : ∀ u x0, Keeps s₀ u → Keeps s₀ (f u x0)) :
    Keeps s₀ (State.onBlock s0 l block types f) := by
  unfold State.onBlock
  try dsimp only
  with_reducible
    repeat'
      first
      | assumption | apply ite_keeps | apply ite_keeps_fst | apply ite_keeps_snd | apply State.bumpBy_keeps
      | apply State.bump_keeps | apply hf | dsimp only

theorem State.takeTrain_keeps {s₀ s : State} (hk : Keeps s₀ s) (l : Nat) (merit : Nat) (selfDone : Bool) (payload :
    Nat) :
    Keeps s₀ (State.takeTrain s l merit selfDone payload) := by
  unfold State.takeTrain
  try dsimp only
  with_reducible
    repeat'
      first
      | assumption | intro u | apply ite_keeps | apply ite_keeps_fst | apply ite_keeps_snd | apply foldl_keeps
      | apply foldl_keeps_fst | apply foldl_keeps_snd | apply State.setReg_keeps | apply State.setLane_keeps
      | apply State.sendTrain_keeps | apply State.passStep_keeps | simp only [Keeps.mk_iff] | dsimp only

theorem State.takeStep_keeps {s₀ s : State} (hk : Keeps s₀ s) (l : Nat) (payload : Nat) :
    Keeps s₀ (State.takeStep s l payload) := by
  unfold State.takeStep
  try dsimp only
  with_reducible
    repeat'
      first
      | assumption | apply ite_keeps | apply ite_keeps_fst | apply ite_keeps_snd | apply State.setLane_keeps
      | apply State.passStep_keeps | apply State.sendStep_keeps | simp only [Keeps.mk_iff] | dsimp only

theorem State.startListening_keeps {s₀ s : State} (hk : Keeps s₀ s) (p : Nat) :
    Keeps s₀ (State.startListening s p) := by
  unfold State.startListening
  try dsimp only
  with_reducible
    repeat'
      first
      | assumption | apply ite_keeps | apply ite_keeps_fst | apply ite_keeps_snd | apply State.setReg_keeps
      | simp only [Keeps.mk_iff] | simp only [Keeps.mk_commits_iff] | dsimp only

theorem State.portUp_keeps {s₀ s : State} (hk : Keeps s₀ s) (p : Nat) :
    Keeps s₀ (State.portUp s p) := by
  unfold State.portUp
  try dsimp only
  with_reducible
    repeat'
      first
      | assumption | apply State.setReg_keeps | apply State.setPort_keeps | apply State.startListening_keeps
      | apply State.followTimePort_keeps | simp only [Keeps.mk_iff] | dsimp only

theorem State.noteDrop_keeps {s₀ s : State} (hk : Keeps s₀ s) (p : Nat) :
    Keeps s₀ (State.noteDrop s p) := by
  unfold State.noteDrop
  try dsimp only
  with_reducible
    repeat'
      first
      | assumption | intro u | apply State.setPort_keeps | simp only [Keeps.mk_iff] | dsimp only

theorem State.cutStreams_keeps {s₀ s : State} (hk : Keeps s₀ s) (p : Nat) :
    Keeps s₀ (State.cutStreams s p) := by
  unfold State.cutStreams
  try dsimp only
  with_reducible
    repeat'
      first
      | assumption | intro u | apply ite_keeps | apply ite_keeps_fst | apply ite_keeps_snd | apply foldl_keeps
      | apply foldl_keeps_fst | apply foldl_keeps_snd | apply State.setOutput_keeps | simp only [Keeps.mk_iff]
      | dsimp only

theorem State.portDown_keeps {s₀ s : State} (hk : Keeps s₀ s) (p : Nat) (c : Code) :
    Keeps s₀ (State.portDown s p c) := by
  unfold State.portDown
  try dsimp only
  with_reducible
    repeat'
      first
      | assumption | intro u | apply ite_keeps | apply ite_keeps_fst | apply ite_keeps_snd | apply foldl_keeps
      | apply foldl_keeps_fst | apply foldl_keeps_snd | apply State.strikeRunning_keeps | apply State.setReg_keeps
      | apply State.noteDrop_keeps | apply State.enterLane_keeps | apply State.clearSpare_keeps
      | apply State.setLane_keeps | apply State.cutStreams_keeps | apply State.clearOutbox_keeps
      | apply State.record_keeps | apply State.advanceEpoch_keeps | apply State.followTimePort_keeps
      | simp only [Keeps.mk_iff] | split | dsimp only

theorem State.wakeLane_keeps {s₀ s : State} (hk : Keeps s₀ s) (p : Nat) (l : Nat) :
    Keeps s₀ (State.wakeLane s p l) := by
  unfold State.wakeLane
  try dsimp only
  with_reducible
    repeat'
      first
      | assumption | apply ite_keeps | apply ite_keeps_fst | apply ite_keeps_snd | apply State.sendRunEntry_keeps
      | apply State.enterLane_keeps | dsimp only

theorem State.substituteLane_keeps {s₀ s : State} (hk : Keeps s₀ s) (p : Nat) (lane : Nat) (faulty : Nat) (spare :
    Nat) :
    Keeps s₀ (State.substituteLane s p lane faulty spare) := by
  unfold State.substituteLane
  try dsimp only
  with_reducible
    repeat'
      first
      | assumption | apply ite_keeps | apply ite_keeps_fst | apply ite_keeps_snd | apply State.wakeLane_keeps
      | apply State.setSpare_keeps | apply State.setReg_keeps | apply State.setLane_keeps
      | apply State.enterLane_keeps | apply State.setPort_keeps | apply State.record_keeps
      | apply State.queueRecovery_keeps | simp only [Keeps.mk_iff] | dsimp only

theorem State.relieveLane_keeps {s₀ s : State} (hk : Keeps s₀ s) (p : Nat) (l : Nat) (spare : Nat) :
    Keeps s₀ (State.relieveLane s p l spare) := by
  unfold State.relieveLane
  try dsimp only
  with_reducible
    repeat'
      first
      | assumption | apply State.clearSpare_keeps | apply State.setLane_keeps | apply State.substituteLane_keeps
      | simp only [Keeps.mk_iff] | dsimp only

theorem State.replaceLane_keeps {s₀ s : State} (hk : Keeps s₀ s) (p : Nat) (l : Nat) :
    Keeps s₀ (State.replaceLane s p l) := by
  unfold State.replaceLane
  try dsimp only
  with_reducible
    repeat'
      first
      | assumption | apply ite_keeps | apply ite_keeps_fst | apply ite_keeps_snd | apply State.strike_keeps
      | apply State.portDown_keeps | apply State.relieveLane_keeps | simp only [Keeps.mk_iff] | split | dsimp only

theorem State.laneFault_keeps {s₀ s : State} (hk : Keeps s₀ s) (l : Nat) (c : Code) :
    Keeps s₀ (State.laneFault s l c) := by
  unfold State.laneFault
  try dsimp only
  with_reducible
    repeat'
      first
      | assumption | apply ite_keeps | apply ite_keeps_fst | apply ite_keeps_snd | apply State.enterLane_keeps
      | apply State.record_keeps | apply State.advanceEpoch_keeps | apply State.setSpare_keeps
      | apply State.setLane_keeps | apply State.queueRecovery_keeps | apply State.replaceLane_keeps
      | simp only [Keeps.mk_iff] | split | dsimp only

theorem State.moveBack_keeps {s₀ s : State} (hk : Keeps s₀ s) (p : Nat) (lane : Nat) (spare : Nat) :
    Keeps s₀ (State.moveBack s p lane spare) := by
  unfold State.moveBack
  try dsimp only
  with_reducible
    repeat'
      first
      | assumption | apply State.setSpare_keeps | apply State.setLane_keeps | apply State.wakeLane_keeps
      | apply State.setPort_keeps | simp only [Keeps.mk_iff] | dsimp only

theorem State.moveLane_keeps {s₀ s : State} (hk : Keeps s₀ s) (p : Nat) (k : Nat) (target : Nat) :
    Keeps s₀ (State.moveLane s p k target) := by
  unfold State.moveLane
  try dsimp only
  with_reducible
    repeat'
      first
      | assumption | apply ite_keeps | apply ite_keeps_fst | apply ite_keeps_snd | apply State.moveBack_keeps
      | apply State.strike_keeps | apply State.relieveLane_keeps | apply State.advanceEpoch_keeps | dsimp only

theorem State.peerRequest_keeps {s₀ s : State} (hk : Keeps s₀ s) (p : Nat) (k : Nat) (on : Option Nat) :
    Keeps s₀ (State.peerRequest s p k on) := by
  unfold State.peerRequest
  try dsimp only
  with_reducible
    repeat'
      first
      | assumption | apply ite_keeps | apply ite_keeps_fst | apply ite_keeps_snd | apply State.portDown_keeps
      | apply State.setPort_keeps | apply State.moveLane_keeps | simp only [Keeps.mk_iff] | split | dsimp only

theorem State.seeRequest_keeps {s₀ s : State} (hk : Keeps s₀ s) (p : Nat) (number : Nat) (field' : Nat) :
    Keeps s₀ (State.seeRequest s p number field') := by
  unfold State.seeRequest
  try dsimp only
  with_reducible
    repeat'
      first
      | assumption | apply ite_keeps | apply ite_keeps_fst | apply ite_keeps_snd | apply State.setPort_keeps
      | apply State.peerRequest_keeps | simp only [Keeps.mk_iff] | split | dsimp only

theorem State.returnLane_keeps {s₀ s : State} (hk : Keeps s₀ s) (p : Nat) (lane : Nat) :
    Keeps s₀ (State.returnLane s p lane) := by
  unfold State.returnLane
  try dsimp only
  with_reducible
    repeat'
      first
      | assumption | apply ite_keeps | apply ite_keeps_fst | apply ite_keeps_snd | apply State.setLane_keeps
      | apply State.setPort_keeps | apply State.standReady_keeps | apply State.advanceEpoch_keeps
      | apply State.record_keeps | apply State.endRecovery_keeps | simp only [Keeps.mk_iff] | split | dsimp only

theorem State.startLaneBack_keeps {s₀ s : State} (hk : Keeps s₀ s) (lane : Nat) :
    Keeps s₀ (State.startLaneBack s lane) := by
  unfold State.startLaneBack
  try dsimp only
  with_reducible
    repeat'
      first
      | assumption | apply ite_keeps | apply ite_keeps_fst | apply ite_keeps_snd | apply State.moveBack_keeps
      | simp only [Keeps.mk_iff] | split | dsimp only

theorem switchBackLaneOp_keeps : OpKeeps (switchBackLaneOp) := by
  intro s₀ s ss i v h
  unfold switchBackLaneOp
  try dsimp only
  with_reducible
    repeat'
      first
      | assumption | intro u | apply ite_keeps | apply ite_keeps_fst | apply ite_keeps_snd
      | simp only [Keeps.mk_iff] | dsimp only

theorem retrainOp_keeps : OpKeeps (retrainOp) := by
  intro s₀ s ss i v h
  unfold retrainOp
  try dsimp only
  with_reducible
    repeat'
      first
      | assumption | intro u | apply ite_keeps | apply ite_keeps_fst | apply ite_keeps_snd
      | apply State.clearSpare_keeps | apply State.setLane_keeps | apply State.substituteLane_keeps
      | apply State.advanceEpoch_keeps | simp only [Keeps.mk_iff] | split | dsimp only

theorem State.startRetrain_keeps {s₀ s : State} (hk : Keeps s₀ s) (l : Nat) :
    Keeps s₀ (State.startRetrain s l) := by
  unfold State.startRetrain
  try dsimp only
  with_reducible
    repeat'
      first
      | assumption | apply State.setLane_keeps | apply State.detect_keeps | simp only [Keeps.mk_iff] | dsimp only

theorem State.sendAnchor_keeps {s₀ s : State} (hk : Keeps s₀ s) (p : Nat) (number : Nat) (count : Nat) (payload :
    Bytes) (l : Nat) :
    Keeps s₀ (State.sendAnchor s p number count payload l) := by
  unfold State.sendAnchor
  try dsimp only
  with_reducible
    repeat'
      first
      | assumption | apply ite_keeps | apply ite_keeps_fst | apply ite_keeps_snd | apply State.setLane_keeps
      | apply State.bumpBy_keeps | apply State.send_keeps | simp only [Keeps.mk_iff] | dsimp only

theorem State.sendInterval_keeps {s₀ s : State} (hk : Keeps s₀ s) (p : Nat) (waiting : Bool) :
    Keeps s₀ (State.sendInterval s p waiting) := by
  unfold State.sendInterval
  try dsimp only
  with_reducible
    repeat'
      first
      | assumption | intro u | apply ite_keeps | apply ite_keeps_fst | apply ite_keeps_snd | apply foldl_keeps
      | apply foldl_keeps_fst | apply foldl_keeps_snd | apply State.wakeLane_keeps | apply State.fillSlots_keeps
      | apply State.sendAnchor_keeps | apply State.enterLane_keeps | apply State.setPort_keeps
      | apply State.enterLanes_keeps | apply State.setReg_keeps | simp only [Keeps.mk_iff] | dsimp only

theorem State.noteSlack_keeps {s₀ s : State} (hk : Keeps s₀ s) (up : Bool) (l : Nat) :
    Keeps s₀ (State.noteSlack s up l) := by
  unfold State.noteSlack
  try dsimp only
  with_reducible
    repeat'
      first
      | assumption | apply ite_keeps | apply ite_keeps_fst | apply ite_keeps_snd | apply State.setReg_keeps
      | dsimp only

theorem State.matchRate_keeps {s₀ s : State} (hk : Keeps s₀ s) (p : Nat) (l : Nat) (number : Nat) (fill : Nat) :
    Keeps s₀ (State.matchRate s p l number fill) := by
  unfold State.matchRate
  try dsimp only
  with_reducible
    repeat'
      first
      | assumption | intro u | apply ite_keeps | apply ite_keeps_fst | apply ite_keeps_snd | apply foldl_keeps
      | apply foldl_keeps_fst | apply foldl_keeps_snd | apply State.setLane_keeps | apply State.laneFault_keeps
      | apply State.noteSlack_keeps | simp only [Keeps.mk_iff] | split | dsimp only

theorem State.countAnchor_keeps {s₀ s : State} (hk : Keeps s₀ s) (l : Nat) (bad : Bool) :
    Keeps s₀ (State.countAnchor s l bad) := by
  unfold State.countAnchor
  try dsimp only
  with_reducible
    repeat'
      first
      | assumption | apply ite_keeps | apply ite_keeps_fst | apply ite_keeps_snd | apply State.setLane_keeps
      | apply State.laneFault_keeps | simp only [Keeps.mk_iff] | dsimp only

theorem State.noteSpareGood_keeps {s₀ s : State} (hk : Keeps s₀ s) (p : Nat) (l : Nat) (number : Nat) :
    Keeps s₀ (State.noteSpareGood s p l number) := by
  unfold State.noteSpareGood
  try dsimp only
  with_reducible
    repeat'
      first
      | assumption | apply ite_keeps | apply ite_keeps_fst | apply ite_keeps_snd | apply State.setPort_keeps
      | apply State.returnLane_keeps | apply State.setSpare_keeps | simp only [Keeps.mk_iff] | dsimp only

theorem State.goodAnchor_keeps {s₀ s : State} (hk : Keeps s₀ s) (p : Nat) (l : Nat) (word : Nat) (skewNs : Nat) (fill
    : Nat) :
    Keeps s₀ (State.goodAnchor s p l word skewNs fill) := by
  unfold State.goodAnchor
  try dsimp only
  with_reducible
    repeat'
      first
      | assumption | intro u | apply ite_keeps | apply ite_keeps_fst | apply ite_keeps_snd
      | apply State.setReg_keeps | apply State.setLane_keeps | apply State.laneFault_keeps
      | apply State.setPort_keeps | apply State.peerRequest_keeps | apply State.noteSpareGood_keeps
      | apply State.matchRate_keeps | apply State.seeRequest_keeps | simp only [Keeps.mk_iff] | dsimp only

theorem State.startTest_keeps {s₀ s : State} (hk : Keeps s₀ s) (l : Nat) :
    Keeps s₀ (State.startTest s l) := by
  unfold State.startTest
  try dsimp only
  with_reducible
    repeat'
      first
      | assumption | apply ite_keeps | apply ite_keeps_fst | apply ite_keeps_snd | apply State.setLane_keeps
      | apply State.detect_keeps | apply State.enterLane_keeps | apply State.setReg_keeps | dsimp only

theorem laneTestOp_keeps (key : Nat) : OpKeeps (laneTestOp key) := by
  intro s₀ s ss i v h
  unfold laneTestOp
  try dsimp only
  with_reducible
    repeat'
      first
      | assumption | intro u | apply ite_keeps | apply ite_keeps_fst | apply ite_keeps_snd
      | apply State.setReg_keeps | apply State.sendBlock_keeps | apply State.startTest_keeps | dsimp only

theorem execBlockLock_keeps {s₀ s : State} (hk : Keeps s₀ s) (lane : Fin 52) :
    OutKeeps s₀ (execBlockLock lane s) := by
  unfold execBlockLock
  try dsimp only
  with_reducible
    repeat'
      first
      | assumption | apply whenManaged_keeps | apply whenLive_keeps | apply whenFabric_keeps | apply OutKeeps.next
      | apply OutKeeps.fault | apply OutKeeps.ite | assumption | intro u | apply ite_keeps | apply ite_keeps_fst
      | apply ite_keeps_snd | apply whenLive_keeps | apply State.passStep_keeps | dsimp only

theorem execBlockLockLoss_keeps {s₀ s : State} (hk : Keeps s₀ s) (lane : Fin 52) :
    OutKeeps s₀ (execBlockLockLoss lane s) := by
  unfold execBlockLockLoss
  try dsimp only
  with_reducible
    repeat'
      first
      | assumption | apply whenManaged_keeps | apply whenLive_keeps | apply whenFabric_keeps | apply OutKeeps.next
      | apply OutKeeps.fault | apply OutKeeps.ite | assumption | intro u | apply ite_keeps | apply ite_keeps_fst
      | apply ite_keeps_snd | apply whenLive_keeps | apply State.bumpBy_keeps | apply State.setLane_keeps
      | apply State.enterLane_keeps | apply State.setReg_keeps | simp only [Keeps.mk_iff] | dsimp only

theorem execDetectTimeout_keeps {s₀ s : State} (hk : Keeps s₀ s) (lane : Fin 52) :
    OutKeeps s₀ (execDetectTimeout lane s) := by
  unfold execDetectTimeout
  try dsimp only
  with_reducible
    repeat'
      first
      | assumption | apply whenManaged_keeps | apply whenLive_keeps | apply whenFabric_keeps | apply OutKeeps.next
      | apply OutKeeps.fault | apply OutKeeps.ite | assumption | intro u | apply ite_keeps | apply ite_keeps_fst
      | apply ite_keeps_snd | apply whenLive_keeps | apply State.failBringUp_keeps | dsimp only

theorem execBackOffExpiry_keeps {s₀ s : State} (hk : Keeps s₀ s) (lane : Fin 52) :
    OutKeeps s₀ (execBackOffExpiry lane s) := by
  unfold execBackOffExpiry
  try dsimp only
  with_reducible
    repeat'
      first
      | assumption | apply whenManaged_keeps | apply whenLive_keeps | apply whenFabric_keeps | apply OutKeeps.next
      | apply OutKeeps.fault | apply OutKeeps.ite | assumption | intro u | apply ite_keeps | apply ite_keeps_fst
      | apply ite_keeps_snd | apply whenLive_keeps | apply State.queueRecovery_keeps | apply State.detect_keeps
      | dsimp only

theorem execCapabilityBlock_keeps {s₀ s : State} (hk : Keeps s₀ s) (lane : Fin 52) (block : RxBlock) :
    OutKeeps s₀ (execCapabilityBlock lane block s) := by
  unfold execCapabilityBlock
  try dsimp only
  with_reducible
    repeat'
      first
      | assumption | apply whenManaged_keeps | apply whenLive_keeps | apply whenFabric_keeps | apply OutKeeps.next
      | apply OutKeeps.fault | apply OutKeeps.ite | assumption | intro u | apply ite_keeps | apply ite_keeps_fst
      | apply ite_keeps_snd | apply whenLive_keeps | apply State.onBlock_keeps | apply State.takeCapability_keeps
      | dsimp only

theorem execExchangeTimeout_keeps {s₀ s : State} (hk : Keeps s₀ s) (lane : Fin 52) :
    OutKeeps s₀ (execExchangeTimeout lane s) := by
  unfold execExchangeTimeout
  try dsimp only
  with_reducible
    repeat'
      first
      | assumption | apply whenManaged_keeps | apply whenLive_keeps | apply whenFabric_keeps | apply OutKeeps.next
      | apply OutKeeps.fault | apply OutKeeps.ite | assumption | intro u | apply ite_keeps | apply ite_keeps_fst
      | apply ite_keeps_snd | apply whenLive_keeps | apply State.failBringUp_keeps | dsimp only

theorem execTrainBlock_keeps {s₀ s : State} (hk : Keeps s₀ s) (lane : Fin 52) (block : RxBlock) (merit : BitVec 8)
    (selfDone : Bool) :
    OutKeeps s₀ (execTrainBlock lane block merit selfDone s) := by
  unfold execTrainBlock
  try dsimp only
  with_reducible
    repeat'
      first
      | assumption | apply whenManaged_keeps | apply whenLive_keeps | apply whenFabric_keeps | apply OutKeeps.next
      | apply OutKeeps.fault | apply OutKeeps.ite | assumption | intro u | apply whenLive_keeps
      | apply State.onBlock_keeps | apply State.takeTrain_keeps | dsimp only

theorem execTrainTimeout_keeps {s₀ s : State} (hk : Keeps s₀ s) (lane : Fin 52) :
    OutKeeps s₀ (execTrainTimeout lane s) := by
  unfold execTrainTimeout
  try dsimp only
  with_reducible
    repeat'
      first
      | assumption | apply whenManaged_keeps | apply whenLive_keeps | apply whenFabric_keeps | apply OutKeeps.next
      | apply OutKeeps.fault | apply OutKeeps.ite | assumption | intro u | apply ite_keeps | apply ite_keeps_fst
      | apply ite_keeps_snd | apply whenLive_keeps | apply State.failRate_keeps | dsimp only

theorem execVerifyEnd_keeps {s₀ s : State} (hk : Keeps s₀ s) (lane : Fin 52) (errors : Nat) :
    OutKeeps s₀ (execVerifyEnd lane errors s) := by
  unfold execVerifyEnd
  try dsimp only
  with_reducible
    repeat'
      first
      | assumption | apply whenManaged_keeps | apply whenLive_keeps | apply whenFabric_keeps | apply OutKeeps.next
      | apply OutKeeps.fault | apply OutKeeps.ite | assumption | intro u | apply ite_keeps | apply ite_keeps_fst
      | apply ite_keeps_snd | apply whenLive_keeps | apply State.passStep_keeps | apply State.bumpBy_keeps
      | apply State.failRate_keeps | dsimp only

theorem execStepBlock_keeps {s₀ s : State} (hk : Keeps s₀ s) (lane : Fin 52) (block : RxBlock) :
    OutKeeps s₀ (execStepBlock lane block s) := by
  unfold execStepBlock
  try dsimp only
  with_reducible
    repeat'
      first
      | assumption | apply whenManaged_keeps | apply whenLive_keeps | apply whenFabric_keeps | apply OutKeeps.next
      | apply OutKeeps.fault | apply OutKeeps.ite | assumption | intro u | apply whenLive_keeps
      | apply State.onBlock_keeps | apply State.takeStep_keeps | dsimp only

theorem execRateSwitchDone_keeps {s₀ s : State} (hk : Keeps s₀ s) (lane : Fin 52) :
    OutKeeps s₀ (execRateSwitchDone lane s) := by
  unfold execRateSwitchDone
  try dsimp only
  with_reducible
    repeat'
      first
      | assumption | apply whenManaged_keeps | apply whenLive_keeps | apply whenFabric_keeps | apply OutKeeps.next
      | apply OutKeeps.fault | apply OutKeeps.ite | assumption | intro u | apply ite_keeps | apply ite_keeps_fst
      | apply ite_keeps_snd | apply whenLive_keeps | apply State.setReg_keeps | apply State.startVerify_keeps
      | apply State.setLane_keeps | apply State.startTraining_keeps | simp only [Keeps.mk_iff] | split | dsimp only

theorem execRunEntryBlock_keeps {s₀ s : State} (hk : Keeps s₀ s) (lane : Fin 52) (block : RxBlock) :
    OutKeeps s₀ (execRunEntryBlock lane block s) := by
  unfold execRunEntryBlock
  try dsimp only
  with_reducible
    repeat'
      first
      | assumption | apply whenManaged_keeps | apply whenLive_keeps | apply whenFabric_keeps | apply OutKeeps.next
      | apply OutKeeps.fault | apply OutKeeps.ite | assumption | intro u | apply ite_keeps | apply ite_keeps_fst
      | apply ite_keeps_snd | apply whenLive_keeps | apply State.onBlock_keeps | apply State.setLane_keeps
      | simp only [Keeps.mk_iff] | dsimp only

theorem execRunEntryDone_keeps {s₀ s : State} (hk : Keeps s₀ s) (lane : Fin 52) :
    OutKeeps s₀ (execRunEntryDone lane s) := by
  unfold execRunEntryDone
  try dsimp only
  with_reducible
    repeat'
      first
      | assumption | apply whenManaged_keeps | apply whenLive_keeps | apply whenFabric_keeps | apply OutKeeps.next
      | apply OutKeeps.fault | apply OutKeeps.ite | assumption | intro u | apply ite_keeps | apply ite_keeps_fst
      | apply ite_keeps_snd | apply whenLive_keeps | apply State.enterLane_keeps | apply State.setLane_keeps
      | apply State.record_keeps | apply State.advanceEpoch_keeps | apply State.standReady_keeps
      | apply State.portUp_keeps | simp only [Keeps.mk_iff] | split | dsimp only

theorem execLoopbackBlock_keeps {s₀ s : State} (hk : Keeps s₀ s) (lane : Fin 52) (block : RxBlock) :
    OutKeeps s₀ (execLoopbackBlock lane block s) := by
  unfold execLoopbackBlock
  try dsimp only
  with_reducible
    repeat'
      first
      | assumption | apply whenManaged_keeps | apply whenLive_keeps | apply whenFabric_keeps | apply OutKeeps.next
      | apply OutKeeps.fault | apply OutKeeps.ite | assumption | intro u | apply ite_keeps | apply ite_keeps_fst
      | apply ite_keeps_snd | apply whenLive_keeps | apply State.onBlock_keeps | apply State.setLane_keeps
      | apply State.sendBlock_keeps | apply State.record_keeps | simp only [Keeps.mk_iff] | dsimp only

theorem execAnchorIntervalSend_keeps {s₀ s : State} (hk : Keeps s₀ s) (port : Fin 24) (anythingWaiting : Bool) :
    OutKeeps s₀ (execAnchorIntervalSend port anythingWaiting s) := by
  unfold execAnchorIntervalSend
  try dsimp only
  with_reducible
    repeat'
      first
      | assumption | apply whenManaged_keeps | apply whenLive_keeps | apply whenFabric_keeps | apply OutKeeps.next
      | apply OutKeeps.fault | apply OutKeeps.ite | assumption | intro u | apply ite_keeps | apply ite_keeps_fst
      | apply ite_keeps_snd | apply whenLive_keeps | apply State.feedPort_keeps | apply State.sendInterval_keeps
      | dsimp only

theorem State.loseAnchor_keeps {s₀ s : State} (hk : Keeps s₀ s) (l : Nat) :
    Keeps s₀ (State.loseAnchor s l) := by
  unfold State.loseAnchor
  try dsimp only
  with_reducible
    repeat'
      first
      | assumption | apply ite_keeps | apply ite_keeps_fst | apply ite_keeps_snd | apply State.bump_keeps
      | apply State.setLane_keeps | apply State.countAnchor_keeps | apply State.laneFault_keeps
      | simp only [Keeps.mk_iff] | dsimp only

theorem State.seekAnchor_keeps {s₀ s : State} (hk : Keeps s₀ s) (l : Nat) (good : Bool) :
    Keeps s₀ (State.seekAnchor s l good) := by
  unfold State.seekAnchor
  try dsimp only
  with_reducible
    repeat'
      first
      | assumption | apply ite_keeps | apply ite_keeps_fst | apply ite_keeps_snd | apply State.setLane_keeps
      | simp only [Keeps.mk_iff] | dsimp only

theorem execAnchorReceived_keeps {s₀ s : State} (hk : Keeps s₀ s) (lane : Fin 52) (word : BitVec 64) (skewNs : Nat)
    (fill : Nat) (stuffBad : Nat) :
    OutKeeps s₀ (execAnchorReceived lane word skewNs fill stuffBad s) := by
  unfold execAnchorReceived
  try dsimp only
  with_reducible
    repeat'
      first
      | assumption | apply whenManaged_keeps | apply whenLive_keeps | apply whenFabric_keeps | apply OutKeeps.next
      | apply OutKeeps.fault | apply OutKeeps.ite | assumption | intro u | apply ite_keeps | apply ite_keeps_fst
      | apply ite_keeps_snd | apply whenLive_keeps | apply State.bumpBy_keeps | apply State.seekAnchor_keeps
      | apply State.goodAnchor_keeps | apply State.noteSpareGood_keeps | apply State.countAnchor_keeps
      | apply State.bump_keeps | apply State.setLane_keeps | apply State.loseAnchor_keeps
      | simp only [Keeps.mk_iff] | split | dsimp only

theorem execAnchorMissed_keeps {s₀ s : State} (hk : Keeps s₀ s) (lane : Fin 52) :
    OutKeeps s₀ (execAnchorMissed lane s) := by
  unfold execAnchorMissed
  try dsimp only
  with_reducible
    repeat'
      first
      | assumption | apply whenManaged_keeps | apply whenLive_keeps | apply whenFabric_keeps | apply OutKeeps.next
      | apply OutKeeps.fault | apply OutKeeps.ite | assumption | intro u | apply ite_keeps | apply ite_keeps_fst
      | apply ite_keeps_snd | apply whenLive_keeps | apply State.seekAnchor_keeps | apply State.loseAnchor_keeps
      | dsimp only

theorem execElasticBufferFault_keeps {s₀ s : State} (hk : Keeps s₀ s) (lane : Fin 52) :
    OutKeeps s₀ (execElasticBufferFault lane s) := by
  unfold execElasticBufferFault
  try dsimp only
  with_reducible
    repeat'
      first
      | assumption | apply whenManaged_keeps | apply whenLive_keeps | apply whenFabric_keeps | apply OutKeeps.next
      | apply OutKeeps.fault | apply OutKeeps.ite | assumption | intro u | apply whenLive_keeps
      | apply State.laneFault_keeps | dsimp only

theorem execBankedIdleTimeout_keeps {s₀ s : State} (hk : Keeps s₀ s) (port : Fin 24) :
    OutKeeps s₀ (execBankedIdleTimeout port s) := by
  unfold execBankedIdleTimeout
  try dsimp only
  with_reducible
    repeat'
      first
      | assumption | apply whenManaged_keeps | apply whenLive_keeps | apply whenFabric_keeps | apply OutKeeps.next
      | apply OutKeeps.fault | apply OutKeeps.ite | assumption | intro u | apply ite_keeps | apply ite_keeps_fst
      | apply ite_keeps_snd | apply whenLive_keeps | apply State.setPort_keeps | simp only [Keeps.mk_iff]
      | dsimp only

theorem State.leaveBanked_keeps {s₀ s : State} (hk : Keeps s₀ s) (p : Nat) :
    Keeps s₀ (State.leaveBanked s p) := by
  unfold State.leaveBanked
  try dsimp only
  with_reducible
    repeat'
      first
      | assumption | intro u | apply foldl_keeps | apply foldl_keeps_fst | apply foldl_keeps_snd
      | apply State.enterLane_keeps | apply State.sendRunEntry_keeps | apply State.setReg_keeps
      | apply State.setPort_keeps | simp only [Keeps.mk_iff] | dsimp only

theorem execBankedExit_keeps {s₀ s : State} (hk : Keeps s₀ s) (port : Fin 24) :
    OutKeeps s₀ (execBankedExit port s) := by
  unfold execBankedExit
  try dsimp only
  with_reducible
    repeat'
      first
      | assumption | apply whenManaged_keeps | apply whenLive_keeps | apply whenFabric_keeps | apply OutKeeps.next
      | apply OutKeeps.fault | apply OutKeeps.ite | assumption | intro u | apply ite_keeps | apply ite_keeps_fst
      | apply ite_keeps_snd | apply whenLive_keeps | apply State.leaveBanked_keeps | dsimp only

theorem execRetrain_keeps {s₀ s : State} (hk : Keeps s₀ s) (ss : Nat) (v : Nat) :
    OutKeeps s₀ (execRetrain ss v s) := by
  unfold execRetrain
  try dsimp only
  with_reducible
    repeat'
      first
      | assumption | apply whenManaged_keeps | apply whenLive_keeps | apply whenFabric_keeps | apply OutKeeps.next
      | apply OutKeeps.fault | apply OutKeeps.ite | assumption | intro u | apply whenManaged_keeps
      | apply State.ledgerWrite_keeps | refine OpKeeps.apply (retrainOp_keeps ..) ?_ | apply retrainOp_keeps
      | dsimp only

theorem execErrorInjection_keeps {s₀ s : State} (hk : Keeps s₀ s) (lane : Fin 52) :
    OutKeeps s₀ (execErrorInjection lane s) := by
  unfold execErrorInjection
  try dsimp only
  with_reducible
    repeat'
      first
      | assumption | apply whenManaged_keeps | apply whenLive_keeps | apply whenFabric_keeps | apply OutKeeps.next
      | apply OutKeeps.fault | apply OutKeeps.ite | assumption | intro u | apply ite_keeps | apply ite_keeps_fst
      | apply ite_keeps_snd | apply whenLive_keeps | apply State.setLane_keeps | apply State.bump_keeps
      | simp only [Keeps.mk_iff] | dsimp only

theorem execClockLockLoss_keeps {s₀ s : State} (hk : Keeps s₀ s) (lane : Fin 52) :
    OutKeeps s₀ (execClockLockLoss lane s) := by
  unfold execClockLockLoss
  try dsimp only
  with_reducible
    repeat'
      first
      | assumption | apply whenManaged_keeps | apply whenLive_keeps | apply whenFabric_keeps | apply OutKeeps.next
      | apply OutKeeps.fault | apply OutKeeps.ite | assumption | intro u | apply whenLive_keeps
      | apply State.laneFault_keeps | dsimp only

theorem execTestPatternCheckerLock_keeps {s₀ s : State} (hk : Keeps s₀ s) (lane : Fin 52) (errorBits : Nat)
    (comparedBits : Nat) :
    OutKeeps s₀ (execTestPatternCheckerLock lane errorBits comparedBits s) := by
  unfold execTestPatternCheckerLock
  try dsimp only
  with_reducible
    repeat'
      first
      | assumption | apply whenManaged_keeps | apply whenLive_keeps | apply whenFabric_keeps | apply OutKeeps.next
      | apply OutKeeps.fault | apply OutKeeps.ite | assumption | intro u | apply ite_keeps | apply ite_keeps_fst
      | apply ite_keeps_snd | apply whenLive_keeps | apply State.setReg_keeps | apply State.bumpBy_keeps
      | dsimp only

theorem State.repeatBlock_keeps {s₀ s : State} (hk : Keeps s₀ s) (l : Nat) :
    Keeps s₀ (State.repeatBlock s l) := by
  unfold State.repeatBlock
  try dsimp only
  with_reducible
    repeat'
      first
      | assumption | apply ite_keeps | apply ite_keeps_fst | apply ite_keeps_snd | apply State.setLane_keeps
      | apply State.sendBlock_keeps | simp only [Keeps.mk_iff] | dsimp only

theorem State.returnBit_keeps {s₀ s : State} (hk : Keeps s₀ s) (l : Nat) :
    Keeps s₀ (State.returnBit s l) := by
  unfold State.returnBit
  try dsimp only
  with_reducible
    repeat'
      first
      | assumption | apply State.draw_keeps | apply State.send_keeps | dsimp only

theorem State.laneTick_keeps {s₀ s : State} (hk : Keeps s₀ s) (l : Nat) :
    Keeps s₀ (State.laneTick s l) := by
  unfold State.laneTick
  try dsimp only
  with_reducible
    repeat'
      first
      | assumption | intro u | apply ite_keeps | apply ite_keeps_fst | apply ite_keeps_snd | apply foldl_keeps
      | apply foldl_keeps_fst | apply foldl_keeps_snd | apply State.returnBit_keeps | apply State.repeatBlock_keeps
      | apply State.patternBit_keeps | dsimp only

theorem execSwitchBackLane_keeps {s₀ s : State} (hk : Keeps s₀ s) (ss : Nat) (v : Nat) :
    OutKeeps s₀ (execSwitchBackLane ss v s) := by
  unfold execSwitchBackLane
  try dsimp only
  with_reducible
    repeat'
      first
      | assumption | apply whenManaged_keeps | apply whenLive_keeps | apply whenFabric_keeps | apply OutKeeps.next
      | apply OutKeeps.fault | apply OutKeeps.ite | assumption | intro u | apply whenManaged_keeps
      | apply State.ledgerWrite_keeps | refine OpKeeps.apply (switchBackLaneOp_keeps ..) ?_
      | apply switchBackLaneOp_keeps | dsimp only

end Sys2Proof.Machine
end

