-- ==== Sys2Proof/Laws/KeepsStreams.lean ====
section
/-! SUPPORT. The laws of `Keeps` for the operations of Swage streams and cameras: each keeps what `Keeps` lists, in the state
it leaves. -/

namespace Sys2Proof.Machine

set_option Elab.async false
set_option linter.unusedTactic false
set_option linter.unreachableTactic false

theorem State.cellCrcError_keeps {s₀ s : State} (hk : Keeps s₀ s) (p : Nat) :
    Keeps s₀ (State.cellCrcError s p) := by
  unfold State.cellCrcError
  try dsimp only
  with_reducible
    repeat'
      first
      | assumption | apply ite_keeps | apply ite_keeps_fst | apply ite_keeps_snd | apply State.bump_keeps
      | apply State.setPort_keeps | apply State.portDown_keeps | simp only [Keeps.mk_iff] | dsimp only

theorem State.onCell_keeps {s₀ s : State} (hk : Keeps s₀ s) (p : Nat) (cell : Bytes) (type : Nat) (f : State → State)
    (hf : ∀ u, Keeps s₀ u → Keeps s₀ (f u)) :
    Keeps s₀ (State.onCell s p cell type f) := by
  unfold State.onCell
  try dsimp only
  with_reducible
    repeat'
      first
      | assumption | apply ite_keeps | apply ite_keeps_fst | apply ite_keeps_snd | apply State.cellCrcError_keeps
      | apply State.bump_keeps | apply hf | dsimp only

theorem State.notePort_keeps {s₀ s : State} (hk : Keeps s₀ s) (p : Nat) (c : Code) (detail : Nat) :
    Keeps s₀ (State.notePort s p c detail) := by
  unfold State.notePort
  try dsimp only
  with_reducible
    repeat'
      first
      | assumption | apply State.recordEvery_keeps | dsimp only

theorem State.streamBoundary_keeps {s₀ s : State} (hk : Keeps s₀ s) (stream : Nat) :
    Keeps s₀ (State.streamBoundary s stream) := by
  unfold State.streamBoundary
  try dsimp only
  with_reducible
    repeat'
      first
      | assumption | intro u | apply State.applyDue_keeps | dsimp only

theorem State.onVideo_keeps {s₀ s : State} (hk : Keeps s₀ s) (p : Nat) (cell : Bytes) (kind : Nat) (f : State → Nat →
    State) (hf : ∀ u x0, Keeps s₀ u → Keeps s₀ (f u x0)) :
    Keeps s₀ (State.onVideo s p cell kind f) := by
  unfold State.onVideo
  try dsimp only
  with_reducible
    repeat'
      first
      | assumption | intro u | apply ite_keeps | apply ite_keeps_fst | apply ite_keeps_snd
      | apply State.onCell_keeps | apply State.streamBoundary_keeps | apply State.bump_keeps
      | apply State.notePort_keeps | apply hf | simp only [Keeps.mk_iff] | split | dsimp only

theorem State.dropFrame_keeps {s₀ s : State} (hk : Keeps s₀ s) (slot : Nat) (seq : Nat) (c : Code) :
    Keeps s₀ (State.dropFrame s slot seq c) := by
  unfold State.dropFrame
  try dsimp only
  with_reducible
    repeat'
      first
      | assumption | apply ite_keeps | apply ite_keeps_fst | apply ite_keeps_snd | apply State.bump_keeps
      | apply State.recordEvery_keeps | dsimp only

theorem State.storePixels_keeps {s₀ s : State} (h : Keeps s₀ s) (x : Source) (base first : Nat) (px : List Bytes) :
    Keeps s₀ (State.storePixels s x base first px) := by
  induction px generalizing s first with
  | nil => exact h
  | cons p px ih =>
    refine ih ?_ (first + 1)
    split
    · exact State.store_keeps _ _ h
    · exact h

theorem State.fillPixels_keeps {s₀ s : State} (hk : Keeps s₀ s) (i : Nat) (f : RxFrame) (first : Nat) (n : Nat) :
    Keeps s₀ (State.fillPixels s i f first n) := by
  unfold State.fillPixels
  try dsimp only
  with_reducible
    repeat'
      first
      | assumption | apply State.store_keeps | apply State.storePixels_keeps | simp only [Keeps.mk_iff] | split
      | dsimp only

theorem State.fillCells_keeps {s₀ s : State} (hk : Keeps s₀ s) (i : Nat) (f : RxFrame) (a : Nat) (b : Nat) :
    Keeps s₀ (State.fillCells s i f a b) := by
  unfold State.fillCells
  try dsimp only
  with_reducible
    repeat'
      first
      | assumption | apply State.fillPixels_keeps | simp only [Keeps.mk_iff] | split | dsimp only

theorem State.forgetRx_keeps {s₀ s : State} (hk : Keeps s₀ s) (p : Nat) (f : RxFrame) :
    Keeps s₀ (State.forgetRx s p f) := by
  unfold State.forgetRx
  try dsimp only
  with_reducible
    repeat'
      first
      | assumption | intro u | apply State.setPort_keeps | simp only [Keeps.mk_iff] | dsimp only

theorem State.setRx_keeps {s₀ s : State} (hk : Keeps s₀ s) (p : Nat) (f : RxFrame) :
    Keeps s₀ (State.setRx s p f) := by
  unfold State.setRx
  try dsimp only
  with_reducible
    repeat'
      first
      | assumption | intro u | apply State.setPort_keeps | simp only [Keeps.mk_iff] | dsimp only

theorem State.settleFrame_keeps {s₀ s0 : State} (hk : Keeps s₀ s0) (f : RxFrame) (marks : Nat) :
    Keeps s₀ (State.settleFrame s0 f marks).1 := by
  unfold State.settleFrame
  try dsimp only
  with_reducible
    repeat'
      first
      | assumption | apply ite_keeps | apply ite_keeps_fst | apply ite_keeps_snd | apply State.fillCells_keeps
      | apply State.setIngot_keeps | apply State.bump_keeps | apply State.record_keeps | apply State.abandon_keeps
      | apply State.dropFrame_keeps | apply State.publish_keeps | simp only [Keeps.mk_iff] | split | dsimp only

theorem State.endFrame_keeps {s₀ s : State} (hk : Keeps s₀ s) (p : Nat) (f : RxFrame) (marks : Nat) :
    Keeps s₀ (State.endFrame s p f marks).1 := by
  unfold State.endFrame
  try dsimp only
  with_reducible
    repeat'
      first
      | assumption | apply ite_keeps | apply ite_keeps_fst | apply ite_keeps_snd | apply State.forgetRx_keeps
      | apply State.setPort_keeps | apply State.settleFrame_keeps | simp only [Keeps.mk_iff] | split | dsimp only

theorem State.settleEnded_keeps {s₀ s : State} (hk : Keeps s₀ s) (p : Nat) :
    Keeps s₀ (State.settleEnded s p) := by
  unfold State.settleEnded
  try dsimp only
  with_reducible
    repeat'
      first
      | assumption | intro u | apply foldl_keeps | apply foldl_keeps_fst | apply foldl_keeps_snd
      | apply State.setPort_keeps | apply State.settleFrame_keeps | simp only [Keeps.mk_iff] | split | dsimp only

theorem State.truncateRx_keeps {s₀ s : State} (hk : Keeps s₀ s) (p : Nat) (slot : Nat) :
    Keeps s₀ (State.truncateRx s p slot) := by
  unfold State.truncateRx
  try dsimp only
  with_reducible
    repeat'
      first
      | assumption | intro u | apply State.endFrame_keeps | simp only [Keeps.mk_iff] | split | dsimp only

theorem State.takeHeader_keeps {s₀ s : State} (hk : Keeps s₀ s) (p : Nat) (cell : Bytes) (slot : Nat) (x : Source) :
    Keeps s₀ (State.takeHeader s p cell slot x) := by
  unfold State.takeHeader
  try dsimp only
  with_reducible
    repeat'
      first
      | assumption | apply ite_keeps | apply ite_keeps_fst | apply ite_keeps_snd | apply State.truncateRx_keeps
      | apply State.setBlob_keeps | apply State.setReg_keeps | apply State.setSlot_keeps
      | apply State.countFrame_keeps | apply State.dropFrame_keeps | apply State.takeFree_keeps
      | apply State.setIngot_keeps | apply State.applyFrozen_keeps | apply State.countFrom_keeps
      | apply State.setRx_keeps | simp only [Keeps.mk_iff] | split | dsimp only

theorem State.takeData_keeps {s₀ s : State} (hk : Keeps s₀ s) (p : Nat) (cell : Bytes) (slot : Nat) (x : Source) :
    Keeps s₀ (State.takeData s p cell slot x) := by
  unfold State.takeData
  try dsimp only
  with_reducible
    repeat'
      first
      | assumption | intro u | apply ite_keeps | apply ite_keeps_fst | apply ite_keeps_snd
      | apply State.store_keeps | apply State.setRx_keeps | apply State.fillCells_keeps
      | apply State.storePixels_keeps | apply State.fillPixels_keeps | simp only [Keeps.mk_iff] | split
      | dsimp only

theorem State.takeTrailer_keeps {s₀ s : State} (hk : Keeps s₀ s) (p : Nat) (cell : Bytes) (slot : Nat) :
    Keeps s₀ (State.takeTrailer s p cell slot) := by
  unfold State.takeTrailer
  try dsimp only
  with_reducible
    repeat'
      first
      | assumption | intro u | apply ite_keeps | apply ite_keeps_fst | apply ite_keeps_snd
      | apply State.endFrame_keeps | apply State.sendCell_keeps | simp only [Keeps.mk_iff] | split | dsimp only

theorem State.witnessFail_keeps {s₀ s : State} (hk : Keeps s₀ s) (o : Nat) (ofNum : Nat) (c : Code) :
    Keeps s₀ (State.witnessFail s o ofNum c) := by
  unfold State.witnessFail
  try dsimp only
  with_reducible
    repeat'
      first
      | assumption | apply ite_keeps | apply ite_keeps_fst | apply ite_keeps_snd | apply State.setOutput_keeps
      | apply State.bump_keeps | apply State.record_keeps | simp only [Keeps.mk_iff] | dsimp only

theorem State.witnessPass_keeps {s₀ s : State} (hk : Keeps s₀ s) (o : Nat) :
    Keeps s₀ (State.witnessPass s o) := by
  unfold State.witnessPass
  try dsimp only
  with_reducible
    repeat'
      first
      | assumption | apply State.setOutput_keeps | simp only [Keeps.mk_iff] | dsimp only

theorem State.takeWitness_keeps {s₀ s : State} (hk : Keeps s₀ s) (p : Nat) (cell : Bytes) :
    Keeps s₀ (State.takeWitness s p cell) := by
  unfold State.takeWitness
  try dsimp only
  with_reducible
    repeat'
      first
      | assumption | intro u | apply ite_keeps | apply ite_keeps_fst | apply ite_keeps_snd | apply State.bump_keeps
      | apply State.setOutput_keeps | apply State.setReg_keeps | apply State.witnessPass_keeps
      | apply State.witnessFail_keeps | simp only [Keeps.mk_iff] | split | dsimp only

theorem State.sendTwice_keeps {s₀ s : State} (hk : Keeps s₀ s) (p : Nat) (cells : List Bytes) :
    Keeps s₀ (State.sendTwice s p cells) := by
  unfold State.sendTwice
  try dsimp only
  with_reducible
    repeat'
      first
      | assumption | intro u | apply foldl_keeps | apply foldl_keeps_fst | apply foldl_keeps_snd
      | apply State.sendCell_keeps | dsimp only

theorem State.forward_keeps {s₀ s : State} (hk : Keeps s₀ s) (slot : Nat) (x : Source) :
    Keeps s₀ (State.forward s slot x) := by
  unfold State.forward
  try dsimp only
  with_reducible
    repeat'
      first
      | assumption | intro u | apply ite_keeps | apply ite_keeps_fst | apply ite_keeps_snd
      | apply State.takeRef_keeps | apply State.setSlot_keeps | apply State.sendTwice_keeps
      | simp only [Keeps.mk_iff] | split | dsimp only

theorem State.pump_keeps {s₀ s : State} (hk : Keeps s₀ s) (p : Nat) :
    Keeps s₀ (State.pump s p) := by
  unfold State.pump
  try dsimp only
  with_reducible
    repeat'
      first
      | assumption | intro u | apply ite_keeps | apply ite_keeps_fst | apply ite_keeps_snd | apply foldl_keeps
      | apply foldl_keeps_fst | apply foldl_keeps_snd | apply State.sendCell_keeps | apply State.setPort_keeps
      | simp only [Keeps.mk_iff] | dsimp only

theorem State.sendMessage_keeps {s₀ s : State} (hk : Keeps s₀ s) (p : Nat) (kind : Nat) (payload : Bytes) :
    Keeps s₀ (State.sendMessage s p kind payload) := by
  unfold State.sendMessage
  try dsimp only
  with_reducible
    repeat'
      first
      | assumption | intro u | apply ite_keeps | apply ite_keeps_fst | apply ite_keeps_snd
      | apply State.setPort_keeps | apply State.pump_keeps | simp only [Keeps.mk_iff] | dsimp only

theorem State.sendCredit_keeps {s₀ s : State} (hk : Keeps s₀ s) (p : Nat) (ack : Bool) :
    Keeps s₀ (State.sendCredit s p ack) := by
  unfold State.sendCredit
  try dsimp only
  with_reducible
    repeat'
      first
      | assumption | apply ite_keeps | apply ite_keeps_fst | apply ite_keeps_snd | apply State.sendCell_keeps
      | dsimp only

theorem State.limitMessages_keeps {s₀ s : State} (hk : Keeps s₀ s) (p : Nat) :
    Keeps s₀ (State.limitMessages s p).1 := by
  unfold State.limitMessages
  try dsimp only
  with_reducible
    repeat'
      first
      | assumption | apply ite_keeps | apply ite_keeps_fst | apply ite_keeps_snd | apply State.bump_keeps
      | apply State.notePort_keeps | apply State.setPort_keeps | simp only [Keeps.mk_iff] | dsimp only

theorem State.acceptMessage_keeps {s₀ s : State} (hk : Keeps s₀ s) (p : Nat) (cell : Bytes) :
    Keeps s₀ (State.acceptMessage s p cell).1 := by
  unfold State.acceptMessage
  try dsimp only
  with_reducible
    repeat'
      first
      | assumption | intro u | apply ite_keeps | apply ite_keeps_fst | apply ite_keeps_snd
      | apply State.limitMessages_keeps | apply State.setPort_keeps | apply State.sendCredit_keeps
      | simp only [Keeps.mk_iff] | dsimp only

theorem State.admitMessage_keeps {s₀ s : State} (hk : Keeps s₀ s) (p : Nat) (kind : Nat) :
    Keeps s₀ (State.admitMessage s p kind).1 := by
  unfold State.admitMessage
  try dsimp only
  with_reducible
    repeat'
      first
      | assumption | apply ite_keeps | apply ite_keeps_fst | apply ite_keeps_snd | apply State.bump_keeps
      | apply State.notePort_keeps | dsimp only

theorem State.takeCredit_keeps {s₀ s : State} (hk : Keeps s₀ s) (p : Nat) (cell : Bytes) :
    Keeps s₀ (State.takeCredit s p cell) := by
  unfold State.takeCredit
  try dsimp only
  with_reducible
    repeat'
      first
      | assumption | intro u | apply ite_keeps | apply ite_keeps_fst | apply ite_keeps_snd
      | apply State.setPort_keeps | apply State.sendCredit_keeps | apply State.pump_keeps
      | simp only [Keeps.mk_iff] | dsimp only

theorem State.retransmit_keeps {s₀ s : State} (hk : Keeps s₀ s) (p : Nat) :
    Keeps s₀ (State.retransmit s p) := by
  unfold State.retransmit
  try dsimp only
  with_reducible
    repeat'
      first
      | assumption | intro u | apply ite_keeps | apply ite_keeps_fst | apply ite_keeps_snd | apply foldl_keeps
      | apply foldl_keeps_fst | apply foldl_keeps_snd | apply State.setPort_keeps | apply State.record_keeps
      | apply State.bump_keeps | apply State.sendMessage_keeps | apply State.sendCredit_keeps
      | apply State.sendCell_keeps | simp only [Keeps.mk_iff] | dsimp only

theorem State.onTime_keeps {s₀ s : State} (hk : Keeps s₀ s) (p : Nat) (cell : Bytes) (kind : Nat) (role : Nat) (f :
    State → Bytes → Nat → State) (hf : ∀ u x0 x1, Keeps s₀ u → Keeps s₀ (f u x0 x1)) :
    Keeps s₀ (State.onTime s p cell kind role f) := by
  unfold State.onTime
  try dsimp only
  with_reducible
    repeat'
      first
      | assumption | intro u | apply ite_keeps | apply ite_keeps_fst | apply ite_keeps_snd
      | apply State.onCell_keeps | apply State.bump_keeps | apply State.notePort_keeps | apply hf | dsimp only

theorem State.takeSync_keeps {s₀ s : State} (hk : Keeps s₀ s) (p : Nat) (b : Bytes) (number : Nat) :
    Keeps s₀ (State.takeSync s p b number) := by
  unfold State.takeSync
  try dsimp only
  with_reducible
    repeat'
      first
      | assumption | apply ite_keeps | apply ite_keeps_fst | apply ite_keeps_snd | apply State.setPort_keeps
      | apply State.sendCell_keeps | apply State.recordDevice_keeps | apply State.settleTime_keeps
      | simp only [Keeps.mk_iff] | dsimp only

theorem State.takeResponse_keeps {s₀ s : State} (hk : Keeps s₀ s) (p : Nat) (b : Bytes) (number : Nat) :
    Keeps s₀ (State.takeResponse s p b number) := by
  unfold State.takeResponse
  try dsimp only
  with_reducible
    repeat'
      first
      | assumption | intro u | apply ite_keeps | apply ite_keeps_fst | apply ite_keeps_snd
      | apply State.setPort_keeps | apply State.setRegI_keeps | apply State.addSample_keeps
      | simp only [Keeps.mk_iff] | split | dsimp only

theorem State.sendSync_keeps {s₀ s : State} (hk : Keeps s₀ s) (p : Nat) :
    Keeps s₀ (State.sendSync s p) := by
  unfold State.sendSync
  try dsimp only
  with_reducible
    repeat'
      first
      | assumption | apply State.setPort_keeps | apply State.sendCell_keeps | simp only [Keeps.mk_iff] | dsimp only

theorem execVideoHeaderCell_keeps {s₀ s : State} (hk : Keeps s₀ s) (port : Fin 24) (cell : Bytes) :
    OutKeeps s₀ (execVideoHeaderCell port cell s) := by
  unfold execVideoHeaderCell
  try dsimp only
  with_reducible
    repeat'
      first
      | assumption | apply whenManaged_keeps | apply whenLive_keeps | apply whenFabric_keeps | apply OutKeeps.next
      | apply OutKeeps.fault | apply OutKeeps.ite | assumption | intro u | apply whenLive_keeps
      | apply State.onVideo_keeps | apply State.takeHeader_keeps | simp only [Keeps.mk_iff] | split | dsimp only

theorem execVideoDataCell_keeps {s₀ s : State} (hk : Keeps s₀ s) (port : Fin 24) (cell : Bytes) :
    OutKeeps s₀ (execVideoDataCell port cell s) := by
  unfold execVideoDataCell
  try dsimp only
  with_reducible
    repeat'
      first
      | assumption | apply whenManaged_keeps | apply whenLive_keeps | apply whenFabric_keeps | apply OutKeeps.next
      | apply OutKeeps.fault | apply OutKeeps.ite | assumption | intro u | apply whenLive_keeps
      | apply State.onVideo_keeps | apply State.takeData_keeps | simp only [Keeps.mk_iff] | split | dsimp only

theorem execVideoTrailerCell_keeps {s₀ s : State} (hk : Keeps s₀ s) (port : Fin 24) (cell : Bytes) :
    OutKeeps s₀ (execVideoTrailerCell port cell s) := by
  unfold execVideoTrailerCell
  try dsimp only
  with_reducible
    repeat'
      first
      | assumption | apply whenManaged_keeps | apply whenLive_keeps | apply whenFabric_keeps | apply OutKeeps.next
      | apply OutKeeps.fault | apply OutKeeps.ite | assumption | intro u | apply whenLive_keeps
      | apply State.onVideo_keeps | apply State.takeTrailer_keeps | dsimp only

theorem execInboundFrameTimeout_keeps {s₀ s : State} (hk : Keeps s₀ s) (slot : Fin 40) :
    OutKeeps s₀ (execInboundFrameTimeout slot s) := by
  unfold execInboundFrameTimeout
  try dsimp only
  with_reducible
    repeat'
      first
      | assumption | apply whenManaged_keeps | apply whenLive_keeps | apply whenFabric_keeps | apply OutKeeps.next
      | apply OutKeeps.fault | apply OutKeeps.ite | assumption | intro u | apply ite_keeps | apply ite_keeps_fst
      | apply ite_keeps_snd | apply foldl_keeps | apply foldl_keeps_fst | apply foldl_keeps_snd
      | apply whenLive_keeps | apply State.truncateRx_keeps | dsimp only

theorem execNullCell_keeps {s₀ s : State} (hk : Keeps s₀ s) (port : Fin 24) (cell : Bytes) :
    OutKeeps s₀ (execNullCell port cell s) := by
  unfold execNullCell
  try dsimp only
  with_reducible
    repeat'
      first
      | assumption | apply whenManaged_keeps | apply whenLive_keeps | apply whenFabric_keeps | apply OutKeeps.next
      | apply OutKeeps.fault | apply OutKeeps.ite | assumption | intro u | apply whenLive_keeps
      | apply State.onCell_keeps | dsimp only

theorem execWitnessCell_keeps {s₀ s : State} (hk : Keeps s₀ s) (port : Fin 24) (cell : Bytes) :
    OutKeeps s₀ (execWitnessCell port cell s) := by
  unfold execWitnessCell
  try dsimp only
  with_reducible
    repeat'
      first
      | assumption | apply whenManaged_keeps | apply whenLive_keeps | apply whenFabric_keeps | apply OutKeeps.next
      | apply OutKeeps.fault | apply OutKeeps.ite | assumption | intro u | apply whenLive_keeps
      | apply State.onCell_keeps | apply State.takeWitness_keeps | dsimp only

theorem execForwardFrameStart_keeps {s₀ s : State} (hk : Keeps s₀ s) (slot : Fin 40) :
    OutKeeps s₀ (execForwardFrameStart slot s) := by
  unfold execForwardFrameStart
  try dsimp only
  with_reducible
    repeat'
      first
      | assumption | apply whenManaged_keeps | apply whenLive_keeps | apply whenFabric_keeps | apply OutKeeps.next
      | apply OutKeeps.fault | apply OutKeeps.ite | assumption | intro u | apply ite_keeps | apply ite_keeps_fst
      | apply ite_keeps_snd | apply whenLive_keeps | apply State.forward_keeps | simp only [Keeps.mk_iff] | split
      | dsimp only

theorem execCreditCell_keeps {s₀ s : State} (hk : Keeps s₀ s) (port : Fin 24) (cell : Bytes) :
    OutKeeps s₀ (execCreditCell port cell s) := by
  unfold execCreditCell
  try dsimp only
  with_reducible
    repeat'
      first
      | assumption | apply whenManaged_keeps | apply whenLive_keeps | apply whenFabric_keeps | apply OutKeeps.next
      | apply OutKeeps.fault | apply OutKeeps.ite | assumption | intro u | apply whenLive_keeps
      | apply State.onCell_keeps | apply State.takeCredit_keeps | dsimp only

theorem execCreditSend_keeps {s₀ s : State} (hk : Keeps s₀ s) (port : Fin 24) :
    OutKeeps s₀ (execCreditSend port s) := by
  unfold execCreditSend
  try dsimp only
  with_reducible
    repeat'
      first
      | assumption | apply whenManaged_keeps | apply whenLive_keeps | apply whenFabric_keeps | apply OutKeeps.next
      | apply OutKeeps.fault | apply OutKeeps.ite | assumption | intro u | apply ite_keeps | apply ite_keeps_fst
      | apply ite_keeps_snd | apply whenLive_keeps | apply State.sendCredit_keeps | dsimp only

theorem execRetransmitTimeout_keeps {s₀ s : State} (hk : Keeps s₀ s) (port : Fin 24) :
    OutKeeps s₀ (execRetransmitTimeout port s) := by
  unfold execRetransmitTimeout
  try dsimp only
  with_reducible
    repeat'
      first
      | assumption | apply whenManaged_keeps | apply whenLive_keeps | apply whenFabric_keeps | apply OutKeeps.next
      | apply OutKeeps.fault | apply OutKeeps.ite | assumption | intro u | apply ite_keeps | apply ite_keeps_fst
      | apply ite_keeps_snd | apply whenLive_keeps | apply State.retransmit_keeps | dsimp only

theorem execSyncCell_keeps {s₀ s : State} (hk : Keeps s₀ s) (port : Fin 24) (cell : Bytes) :
    OutKeeps s₀ (execSyncCell port cell s) := by
  unfold execSyncCell
  try dsimp only
  with_reducible
    repeat'
      first
      | assumption | apply whenManaged_keeps | apply whenLive_keeps | apply whenFabric_keeps | apply OutKeeps.next
      | apply OutKeeps.fault | apply OutKeeps.ite | assumption | intro u | apply whenLive_keeps
      | apply State.onTime_keeps | apply State.takeSync_keeps | dsimp only

theorem execDelayRequestCell_keeps {s₀ s : State} (hk : Keeps s₀ s) (port : Fin 24) (cell : Bytes) :
    OutKeeps s₀ (execDelayRequestCell port cell s) := by
  unfold execDelayRequestCell
  try dsimp only
  with_reducible
    repeat'
      first
      | assumption | apply whenManaged_keeps | apply whenLive_keeps | apply whenFabric_keeps | apply OutKeeps.next
      | apply OutKeeps.fault | apply OutKeeps.ite | assumption | intro u | apply whenLive_keeps
      | apply State.onTime_keeps | apply State.sendCell_keeps | dsimp only

theorem execDelayResponseCell_keeps {s₀ s : State} (hk : Keeps s₀ s) (port : Fin 24) (cell : Bytes) :
    OutKeeps s₀ (execDelayResponseCell port cell s) := by
  unfold execDelayResponseCell
  try dsimp only
  with_reducible
    repeat'
      first
      | assumption | apply whenManaged_keeps | apply whenLive_keeps | apply whenFabric_keeps | apply OutKeeps.next
      | apply OutKeeps.fault | apply OutKeeps.ite | assumption | intro u | apply whenLive_keeps
      | apply State.onTime_keeps | apply State.takeResponse_keeps | dsimp only

theorem execSyncSend_keeps {s₀ s : State} (hk : Keeps s₀ s) (port : Fin 24) :
    OutKeeps s₀ (execSyncSend port s) := by
  unfold execSyncSend
  try dsimp only
  with_reducible
    repeat'
      first
      | assumption | apply whenManaged_keeps | apply whenLive_keeps | apply whenFabric_keeps | apply OutKeeps.next
      | apply OutKeeps.fault | apply OutKeeps.ite | assumption | intro u | apply ite_keeps | apply ite_keeps_fst
      | apply ite_keeps_snd | apply whenLive_keeps | apply State.sendSync_keeps | simp only [Keeps.mk_iff] | split
      | dsimp only

theorem execDelayExchangeTimeout_keeps {s₀ s : State} (hk : Keeps s₀ s) (port : Fin 24) :
    OutKeeps s₀ (execDelayExchangeTimeout port s) := by
  unfold execDelayExchangeTimeout
  try dsimp only
  with_reducible
    repeat'
      first
      | assumption | apply whenManaged_keeps | apply whenLive_keeps | apply whenFabric_keeps | apply OutKeeps.next
      | apply OutKeeps.fault | apply OutKeeps.ite | assumption | intro u | apply ite_keeps | apply ite_keeps_fst
      | apply ite_keeps_snd | apply whenLive_keeps | apply State.setPort_keeps | simp only [Keeps.mk_iff]
      | dsimp only

theorem State.setCamState_keeps {s₀ s : State} (hk : Keeps s₀ s) (port : Nat) (st : Nat) :
    Keeps s₀ (State.setCamState s port st) := by
  unfold State.setCamState
  try dsimp only
  with_reducible
    repeat'
      first
      | assumption | apply ite_keeps | apply ite_keeps_fst | apply ite_keeps_snd | apply State.setReg_keeps
      | apply State.record_keeps | dsimp only

theorem State.enableCamPort_keeps {s₀ s : State} (hk : Keeps s₀ s) (port : Nat) :
    Keeps s₀ (State.enableCamPort s port) := by
  unfold State.enableCamPort
  try dsimp only
  with_reducible
    repeat'
      first
      | assumption | apply ite_keeps | apply ite_keeps_fst | apply ite_keeps_snd | apply State.setCamPort_keeps
      | apply State.setCamState_keeps | dsimp only

theorem State.disableCamPort_keeps {s₀ s : State} (hk : Keeps s₀ s) (port : Nat) :
    Keeps s₀ (State.disableCamPort s port) := by
  unfold State.disableCamPort
  try dsimp only
  with_reducible
    repeat'
      first
      | assumption | apply ite_keeps | apply ite_keeps_fst | apply ite_keeps_snd | apply State.setReg_keeps
      | apply State.setCamPort_keeps | apply State.setCamState_keeps | dsimp only

theorem State.stray_keeps {s₀ s : State} (hk : Keeps s₀ s) (port : Nat) (vc : Nat) :
    Keeps s₀ (State.stray s port vc) := by
  unfold State.stray
  try dsimp only
  with_reducible
    repeat'
      first
      | assumption | apply State.bump_keeps | dsimp only

theorem State.enableContext_keeps {s₀ s : State} (hk : Keeps s₀ s) (c : Nat) :
    Keeps s₀ (State.enableContext s c) := by
  unfold State.enableContext
  try dsimp only
  with_reducible
    repeat'
      first
      | assumption | apply State.setCtx_keeps | dsimp only

theorem State.disableContext_keeps {s₀ s : State} (hk : Keeps s₀ s) (c : Nat) :
    Keeps s₀ (State.disableContext s c) := by
  unfold State.disableContext
  try dsimp only
  with_reducible
    repeat'
      first
      | assumption | apply State.setCtx_keeps | dsimp only

theorem State.dropCamera_keeps {s₀ s : State} (hk : Keeps s₀ s) (c : Nat) (seq : Nat) (code : Code) :
    Keeps s₀ (State.dropCamera s c seq code) := by
  unfold State.dropCamera
  try dsimp only
  with_reducible
    repeat'
      first
      | assumption | apply State.bump_keeps | apply State.recordEvery_keeps | dsimp only

theorem State.markCamera_keeps {s₀ s : State} (hk : Keeps s₀ s) (f : CamFrame) (bit : Nat) :
    Keeps s₀ (State.markCamera s f bit).1 := by
  unfold State.markCamera
  try dsimp only
  with_reducible
    repeat'
      first
      | assumption | apply ite_keeps | apply ite_keeps_fst | apply ite_keeps_snd | apply State.bump_keeps
      | apply State.recordEvery_keeps | simp only [Keeps.mk_iff] | dsimp only

theorem State.noteHeader_keeps {s₀ s : State} (hk : Keeps s₀ s) (port : Nat) (vc : Nat) (ecc : Nat) :
    Keeps s₀ (State.noteHeader s port vc ecc) := by
  unfold State.noteHeader
  try dsimp only
  with_reducible
    repeat'
      first
      | assumption | apply ite_keeps | apply ite_keeps_fst | apply ite_keeps_snd | apply State.bump_keeps
      | dsimp only

theorem State.markCurrent_keeps {s₀ s : State} (hk : Keeps s₀ s) (bit : Nat) (c : Nat) :
    Keeps s₀ (State.markCurrent s bit c) := by
  unfold State.markCurrent
  try dsimp only
  with_reducible
    repeat'
      first
      | assumption | apply State.markCamera_keeps | apply State.setCtx_keeps | simp only [Keeps.mk_iff] | split
      | dsimp only

theorem State.badHeader_keeps {s₀ s : State} (hk : Keeps s₀ s) (port : Nat) :
    Keeps s₀ (State.badHeader s port) := by
  unfold State.badHeader
  try dsimp only
  with_reducible
    repeat'
      first
      | assumption | intro u | apply foldl_keeps | apply foldl_keeps_fst | apply foldl_keeps_snd
      | apply State.bump_keeps | apply State.setCamPort_keeps | apply State.markCurrent_keeps
      | simp only [Keeps.mk_iff] | dsimp only

theorem State.onPacket_keeps {s₀ s : State} (hk : Keeps s₀ s) (port : Nat) (vc : Nat) (ecc : Nat) (f : State → State)
    (hf : ∀ u, Keeps s₀ u → Keeps s₀ (f u)) :
    Keeps s₀ (State.onPacket s port vc ecc f) := by
  unfold State.onPacket
  try dsimp only
  with_reducible
    repeat'
      first
      | assumption | apply ite_keeps | apply ite_keeps_fst | apply ite_keeps_snd | apply State.stray_keeps
      | apply State.badHeader_keeps | apply State.noteHeader_keeps | apply hf | dsimp only

theorem State.startExposure_keeps {s₀ s : State} (hk : Keeps s₀ s) (c : Nat) :
    Keeps s₀ (State.startExposure s c) := by
  unfold State.startExposure
  try dsimp only
  with_reducible
    repeat'
      first
      | assumption | intro u | apply ite_keeps | apply ite_keeps_fst | apply ite_keeps_snd | apply foldl_keeps
      | apply foldl_keeps_fst | apply foldl_keeps_snd | apply State.send_keeps | apply State.setCtx_keeps
      | apply State.recordEvery_keeps | simp only [Keeps.mk_iff] | split | dsimp only

theorem State.issueExposure_keeps {s₀ s : State} (hk : Keeps s₀ s) (c : Nat) (lines : Nat) (analogue : Nat) (digital :
    Nat) :
    Keeps s₀ (State.issueExposure s c lines analogue digital) := by
  unfold State.issueExposure
  try dsimp only
  with_reducible
    repeat'
      first
      | assumption | apply ite_keeps | apply ite_keeps_fst | apply ite_keeps_snd | apply State.setReg_keeps
      | apply State.setCtx_keeps | apply State.startExposure_keeps | simp only [Keeps.mk_iff] | dsimp only

theorem State.roundFree_keeps {s₀ s : State} (hk : Keeps s₀ s) (a : Nat) (b : Nat) :
    Keeps s₀ (State.roundFree s a b).2 := by
  unfold State.roundFree
  try dsimp only
  with_reducible
    repeat'
      first
      | assumption | apply ite_keeps | apply ite_keeps_fst | apply ite_keeps_snd | apply State.draw_keeps
      | dsimp only

theorem State.issueManual_keeps {s₀ s : State} (hk : Keeps s₀ s) (c : Nat) :
    Keeps s₀ (State.issueManual s c) := by
  unfold State.issueManual
  try dsimp only
  with_reducible
    repeat'
      first
      | assumption | apply ite_keeps | apply ite_keeps_fst | apply ite_keeps_snd | apply State.roundFree_keeps
      | apply State.issueExposure_keeps | dsimp only

theorem State.exposureFailed_keeps {s₀ s : State} (hk : Keeps s₀ s) (c : Nat) (released : Bool) :
    Keeps s₀ (State.exposureFailed s c released) := by
  unfold State.exposureFailed
  try dsimp only
  with_reducible
    repeat'
      first
      | assumption | intro u | apply ite_keeps | apply ite_keeps_fst | apply ite_keeps_snd
      | apply State.record_keeps | apply State.setCtx_keeps | simp only [Keeps.mk_iff] | split | dsimp only

theorem State.exposureDone_keeps {s₀ s : State} (hk : Keeps s₀ s) (c : Nat) :
    Keeps s₀ (State.exposureDone s c) := by
  unfold State.exposureDone
  try dsimp only
  with_reducible
    repeat'
      first
      | assumption | intro u | apply ite_keeps | apply ite_keeps_fst | apply ite_keeps_snd
      | apply State.setCtx_keeps | apply State.startExposure_keeps | simp only [Keeps.mk_iff] | split | dsimp only

theorem State.takeStaging_keeps {s₀ s : State} (hk : Keeps s₀ s) (c : Nat) :
    Keeps s₀ (State.takeStaging s c).2 := by
  unfold State.takeStaging
  try dsimp only
  with_reducible
    repeat'
      first
      | assumption | intro u | apply State.dropCamera_keeps | apply State.setCtx_keeps | simp only [Keeps.mk_iff]
      | split | dsimp only

theorem State.endCamera_keeps {s₀ s : State} (hk : Keeps s₀ s) (c : Nat) :
    Keeps s₀ (State.endCamera s c) := by
  unfold State.endCamera
  try dsimp only
  with_reducible
    repeat'
      first
      | assumption | apply ite_keeps | apply ite_keeps_fst | apply ite_keeps_snd | apply State.markCamera_keeps
      | apply State.setReg_keeps | apply State.setCtx_keeps | apply State.setCamPort_keeps
      | simp only [Keeps.mk_iff] | split | dsimp only

theorem State.contextBoundary_keeps {s₀ s : State} (hk : Keeps s₀ s) (c : Nat) :
    Keeps s₀ (State.contextBoundary s c) := by
  unfold State.contextBoundary
  try dsimp only
  with_reducible
    repeat'
      first
      | assumption | intro u | apply ite_keeps | apply ite_keeps_fst | apply ite_keeps_snd
      | apply State.applyDue_keeps | apply State.setCtx_keeps | apply State.issueManual_keeps
      | simp only [Keeps.mk_iff] | dsimp only

theorem State.startCamera_keeps {s₀ s : State} (hk : Keeps s₀ s) (c : Nat) :
    Keeps s₀ (State.startCamera s c) := by
  unfold State.startCamera
  try dsimp only
  with_reducible
    repeat'
      first
      | assumption | intro u | apply ite_keeps | apply ite_keeps_fst | apply ite_keeps_snd | apply foldl_keeps
      | apply foldl_keeps_fst | apply foldl_keeps_snd | apply State.endCamera_keeps
      | apply State.contextBoundary_keeps | apply State.setReg_keeps | apply State.countFrame_keeps
      | apply State.setCtx_keeps | apply State.dropCamera_keeps | apply State.takeStaging_keeps
      | apply State.applyFrozen_keeps | simp only [Keeps.mk_iff] | split | dsimp only

theorem State.takeLine_keeps {s₀ s : State} (hk : Keeps s₀ s) (c : Nat) (f : CamFrame) (payload : Bytes) (crcOk :
    Bool) :
    Keeps s₀ (State.takeLine s c f payload crcOk) := by
  unfold State.takeLine
  try dsimp only
  with_reducible
    repeat'
      first
      | assumption | apply ite_keeps | apply ite_keeps_fst | apply ite_keeps_snd | apply State.store_keeps
      | apply State.markCamera_keeps | apply State.setCtx_keeps | simp only [Keeps.mk_iff] | split | dsimp only

theorem State.packetFor_keeps {s₀ s t : State} {dt : Nat} {payload : Bytes} {crcOk : Bool} {c : Nat} (h : Keeps s₀ s)
    (ht : State.packetFor s dt payload crcOk c = some t) : Keeps s₀ t := by
  unfold State.packetFor at ht
  split at ht
  · split at ht
    · cases ht; exact State.setCtx_keeps h _ _
    · cases ht
  · split at ht
    · cases ht
      apply State.setCtx_keeps
      split
      · exact h
      · exact State.markCurrent_keeps h 3 c
    · split at ht
      · cases ht; exact State.takeLine_keeps h _ _ _ _
      · cases ht

theorem State.writeStats_keeps {s₀ s : State} (hk : Keeps s₀ s) (f : CamFrame) (valid : Bool) (measured : Bytes ×
    Bytes) :
    Keeps s₀ (State.writeStats s f valid measured) := by
  unfold State.writeStats
  try dsimp only
  with_reducible
    repeat'
      first
      | assumption | apply State.store_keeps | apply State.setBlob_keeps | apply State.setCtx_keeps
      | simp only [Keeps.mk_iff] | dsimp only

theorem State.takeOutput_keeps {s₀ s : State} (hk : Keeps s₀ s) (f : CamFrame) (slot : Nat) :
    Keeps s₀ (State.takeOutput s f slot).2 := by
  unfold State.takeOutput
  try dsimp only
  with_reducible
    repeat'
      first
      | assumption | apply State.takeFree_keeps | apply State.setIngot_keeps | simp only [Keeps.mk_iff] | split
      | dsimp only

theorem State.abandonPipe_keeps {s₀ s : State} (hk : Keeps s₀ s) (k : Nat) (code : Code) (served : Bool) :
    Keeps s₀ (State.abandonPipe s k code served) := by
  unfold State.abandonPipe
  try dsimp only
  with_reducible
    repeat'
      first
      | assumption | intro u | apply ite_keeps | apply ite_keeps_fst | apply ite_keeps_snd | apply foldl_keeps
      | apply foldl_keeps_fst | apply foldl_keeps_snd | apply State.abandon_keeps | apply State.setPipe_keeps
      | apply State.writeStats_keeps | apply State.dropCamera_keeps | simp only [Keeps.mk_iff] | split | dsimp only

theorem State.bindPipe_keeps {s₀ s : State} (hk : Keeps s₀ s) (k : Nat) (f : CamFrame) :
    Keeps s₀ (State.bindPipe s k f) := by
  unfold State.bindPipe
  try dsimp only
  with_reducible
    repeat'
      first
      | assumption | intro u | apply ite_keeps | apply ite_keeps_fst | apply ite_keeps_snd
      | apply State.setCtx_keeps | apply State.countFrame_keeps | apply State.takeOutput_keeps
      | apply State.setPipe_keeps | apply State.abandonPipe_keeps | simp only [Keeps.mk_iff] | split | dsimp only

theorem State.finishOutput_keeps {s₀ s : State} (hk : Keeps s₀ s) (allowed : Bool) (o : Option Nat) (check : Nat)
    (content : Bytes) :
    Keeps s₀ (State.finishOutput s allowed o check content) := by
  unfold State.finishOutput
  try dsimp only
  with_reducible
    repeat'
      first
      | assumption | apply ite_keeps | apply ite_keeps_fst | apply ite_keeps_snd | apply State.store_keeps
      | apply State.setIngot_keeps | apply State.publish_keeps | apply State.abandon_keeps
      | simp only [Keeps.mk_iff] | split | dsimp only

theorem State.finishPipe_keeps {s₀ s : State} (hk : Keeps s₀ s) (k : Nat) :
    Keeps s₀ (State.finishPipe s k) := by
  unfold State.finishPipe
  try dsimp only
  with_reducible
    repeat'
      first
      | assumption | apply ite_keeps | apply ite_keeps_fst | apply ite_keeps_snd | apply State.setPipe_keeps
      | apply State.finishOutput_keeps | apply State.setReg_keeps | apply State.writeStats_keeps
      | simp only [Keeps.mk_iff] | split | dsimp only

theorem State.aeStep_keeps {s₀ s : State} (hk : Keeps s₀ s) (c : Nat) (e : ExpGen) (blk : Bytes) :
    Keeps s₀ (State.aeStep s c e blk) := by
  unfold State.aeStep
  try dsimp only
  with_reducible
    repeat'
      first
      | assumption | apply ite_keeps | apply ite_keeps_fst | apply ite_keeps_snd | apply State.roundFree_keeps
      | apply State.issueExposure_keeps | simp only [Keeps.mk_iff] | split | dsimp only

theorem State.awbStep_keeps {s₀ s : State} (hk : Keeps s₀ s) (c : Nat) (blk : Bytes) :
    Keeps s₀ (State.awbStep s c blk) := by
  unfold State.awbStep
  try dsimp only
  with_reducible
    repeat'
      first
      | assumption | apply ite_keeps | apply ite_keeps_fst | apply ite_keeps_snd | apply State.roundFree_keeps
      | apply State.setCtx_keeps | simp only [Keeps.mk_iff] | dsimp only

theorem temperOp_keeps : OpKeeps (temperOp) := by
  intro s₀ s ss i v h
  unfold temperOp
  try dsimp only
  with_reducible
    repeat'
      first
      | assumption | intro u | apply ite_keeps | apply ite_keeps_fst | apply ite_keeps_snd
      | apply State.setShadow_keeps | dsimp only

theorem profileOp_keeps : OpKeeps (profileOp) := by
  intro s₀ s ss i v h
  unfold profileOp
  try dsimp only
  with_reducible
    repeat'
      first
      | assumption | intro u | apply ite_keeps | apply ite_keeps_fst | apply ite_keeps_snd
      | apply State.setShadow_keeps | dsimp only

theorem hostTransferOp_keeps : OpKeeps (hostTransferOp) := by
  intro s₀ s ss i v h
  unfold hostTransferOp
  try dsimp only
  with_reducible
    repeat'
      first
      | assumption | intro u | apply ite_keeps | apply ite_keeps_fst | apply ite_keeps_snd
      | apply State.setReg_keeps | apply State.setCamPort_keeps | simp only [Keeps.mk_iff] | split | dsimp only

theorem State.endHost_keeps {s₀ s : State} (hk : Keeps s₀ s) (port : Nat) (result : Nat) :
    Keeps s₀ (State.endHost s port result) := by
  unfold State.endHost
  try dsimp only
  with_reducible
    repeat'
      first
      | assumption | apply State.setCamPort_keeps | apply State.setReg_keeps | simp only [Keeps.mk_iff]
      | dsimp only

theorem execFrameStartPacket_keeps {s₀ s : State} (hk : Keeps s₀ s) (port : Fin 16) (header : ShortHeader) :
    OutKeeps s₀ (execFrameStartPacket port header s) := by
  unfold execFrameStartPacket
  try dsimp only
  with_reducible
    repeat'
      first
      | assumption | apply whenManaged_keeps | apply whenLive_keeps | apply whenFabric_keeps | apply OutKeeps.next
      | apply OutKeeps.fault | apply OutKeeps.ite | assumption | intro u | apply ite_keeps | apply ite_keeps_fst
      | apply ite_keeps_snd | apply foldl_keeps | apply foldl_keeps_fst | apply foldl_keeps_snd
      | apply whenLive_keeps | apply State.onPacket_keeps | apply State.stray_keeps | apply State.setCamPort_keeps
      | apply State.setCamState_keeps | apply State.startCamera_keeps | simp only [Keeps.mk_iff] | dsimp only

theorem execLongPacket_keeps {s₀ s : State} (hk : Keeps s₀ s) (port : Fin 16) (vc : Fin 16) (dataType : BitVec 6)
    (payload : Bytes) (headerEcc : Fin 3) (crcOk : Bool) :
    OutKeeps s₀ (execLongPacket port vc dataType payload headerEcc crcOk s) := by
  unfold execLongPacket
  try dsimp only
  with_reducible
    repeat'
      first
      | assumption | apply whenManaged_keeps | apply whenLive_keeps | apply whenFabric_keeps | apply OutKeeps.next
      | apply OutKeeps.fault | apply OutKeeps.ite | assumption | intro u | apply ite_keeps | apply ite_keeps_fst
      | apply ite_keeps_snd | apply foldl_keeps | apply foldl_keeps_fst | apply foldl_keeps_snd
      | apply whenLive_keeps | apply State.onPacket_keeps | apply State.bump_keeps
      | refine State.packetFor_keeps ?_ ‹_› | apply State.stray_keeps | simp only [Keeps.mk_iff] | split
      | dsimp only

theorem State.frameEnd_keeps {s₀ s : State} (hk : Keeps s₀ s) (c : Nat) :
    Keeps s₀ (State.frameEnd s c) := by
  unfold State.frameEnd
  try dsimp only
  with_reducible
    repeat'
      first
      | assumption | apply ite_keeps | apply ite_keeps_fst | apply ite_keeps_snd | apply State.endCamera_keeps
      | apply State.setCtx_keeps | apply State.startExposure_keeps | simp only [Keeps.mk_iff] | dsimp only

theorem execFrameEndPacket_keeps {s₀ s : State} (hk : Keeps s₀ s) (port : Fin 16) (header : ShortHeader) :
    OutKeeps s₀ (execFrameEndPacket port header s) := by
  unfold execFrameEndPacket
  try dsimp only
  with_reducible
    repeat'
      first
      | assumption | apply whenManaged_keeps | apply whenLive_keeps | apply whenFabric_keeps | apply OutKeeps.next
      | apply OutKeeps.fault | apply OutKeeps.ite | assumption | intro u | apply ite_keeps | apply ite_keeps_fst
      | apply ite_keeps_snd | apply foldl_keeps | apply foldl_keeps_fst | apply foldl_keeps_snd
      | apply whenLive_keeps | apply State.onPacket_keeps | apply State.stray_keeps | apply State.frameEnd_keeps
      | dsimp only

theorem execLineGapTimeout_keeps {s₀ s : State} (hk : Keeps s₀ s) (ctx : Fin 32) :
    OutKeeps s₀ (execLineGapTimeout ctx s) := by
  unfold execLineGapTimeout
  try dsimp only
  with_reducible
    repeat'
      first
      | assumption | apply whenManaged_keeps | apply whenLive_keeps | apply whenFabric_keeps | apply OutKeeps.next
      | apply OutKeeps.fault | apply OutKeeps.ite | assumption | intro u | apply ite_keeps | apply ite_keeps_fst
      | apply ite_keeps_snd | apply whenLive_keeps | apply State.endCamera_keeps | apply State.setCtx_keeps
      | simp only [Keeps.mk_iff] | split | dsimp only

theorem execSignalAbsentTimeout_keeps {s₀ s : State} (hk : Keeps s₀ s) (port : Fin 16) :
    OutKeeps s₀ (execSignalAbsentTimeout port s) := by
  unfold execSignalAbsentTimeout
  try dsimp only
  with_reducible
    repeat'
      first
      | assumption | apply whenManaged_keeps | apply whenLive_keeps | apply whenFabric_keeps | apply OutKeeps.next
      | apply OutKeeps.fault | apply OutKeeps.ite | assumption | intro u | apply ite_keeps | apply ite_keeps_fst
      | apply ite_keeps_snd | apply whenLive_keeps | apply State.setCamState_keeps | dsimp only

theorem execPortFaultSecond_keeps {s₀ s : State} (hk : Keeps s₀ s) (port : Fin 16) (sotErrors : Nat) :
    OutKeeps s₀ (execPortFaultSecond port sotErrors s) := by
  unfold execPortFaultSecond
  try dsimp only
  with_reducible
    repeat'
      first
      | assumption | apply whenManaged_keeps | apply whenLive_keeps | apply whenFabric_keeps | apply OutKeeps.next
      | apply OutKeeps.fault | apply OutKeeps.ite | assumption | intro u | apply ite_keeps | apply ite_keeps_fst
      | apply ite_keeps_snd | apply whenLive_keeps | apply State.bumpBy_keeps | apply State.setCamPort_keeps
      | apply State.setCamState_keeps | simp only [Keeps.mk_iff] | dsimp only

theorem execPipelineBind_keeps {s₀ s : State} (hk : Keeps s₀ s)  :
    OutKeeps s₀ (execPipelineBind s) := by
  unfold execPipelineBind
  try dsimp only
  with_reducible
    repeat'
      first
      | assumption | apply whenManaged_keeps | apply whenLive_keeps | apply whenFabric_keeps | apply OutKeeps.next
      | apply OutKeeps.fault | apply OutKeeps.ite | assumption | intro u | apply whenLive_keeps
      | apply State.bindPipe_keeps | simp only [Keeps.mk_iff] | split | dsimp only

theorem execPipelineFrameDone_keeps {s₀ s : State} (hk : Keeps s₀ s) (pipe : Fin 4) (writes : MemEnd) :
    OutKeeps s₀ (execPipelineFrameDone pipe writes s) := by
  unfold execPipelineFrameDone
  try dsimp only
  with_reducible
    repeat'
      first
      | assumption | apply whenManaged_keeps | apply whenLive_keeps | apply whenFabric_keeps | apply OutKeeps.next
      | apply OutKeeps.fault | apply OutKeeps.ite | assumption | intro u | apply ite_keeps | apply ite_keeps_fst
      | apply ite_keeps_snd | apply State.draw_keeps | apply whenLive_keeps | apply State.finishPipe_keeps
      | apply State.abandonPipe_keeps | simp only [Keeps.mk_iff] | split | dsimp only

theorem execAeStep_keeps {s₀ s : State} (hk : Keeps s₀ s) (ctx : Fin 32) :
    OutKeeps s₀ (execAeStep ctx s) := by
  unfold execAeStep
  try dsimp only
  with_reducible
    repeat'
      first
      | assumption | apply whenManaged_keeps | apply whenLive_keeps | apply whenFabric_keeps | apply OutKeeps.next
      | apply OutKeeps.fault | apply OutKeeps.ite | assumption | intro u | apply ite_keeps | apply ite_keeps_fst
      | apply ite_keeps_snd | apply whenManaged_keeps | apply State.applyDue_keeps | apply State.setCtx_keeps
      | apply State.aeStep_keeps | simp only [Keeps.mk_iff] | split | dsimp only

theorem execAwbStep_keeps {s₀ s : State} (hk : Keeps s₀ s) (ctx : Fin 32) :
    OutKeeps s₀ (execAwbStep ctx s) := by
  unfold execAwbStep
  try dsimp only
  with_reducible
    repeat'
      first
      | assumption | apply whenManaged_keeps | apply whenLive_keeps | apply whenFabric_keeps | apply OutKeeps.next
      | apply OutKeeps.fault | apply OutKeeps.ite | assumption | intro u | apply ite_keeps | apply ite_keeps_fst
      | apply ite_keeps_snd | apply whenManaged_keeps | apply State.setCtx_keeps | apply State.awbStep_keeps
      | simp only [Keeps.mk_iff] | dsimp only

theorem execExposureTransferDone_keeps {s₀ s : State} (hk : Keeps s₀ s) (ctx : Fin 32) (result : BusEnd) (released :
    Bool) :
    OutKeeps s₀ (execExposureTransferDone ctx result released s) := by
  unfold execExposureTransferDone
  try dsimp only
  with_reducible
    repeat'
      first
      | assumption | apply whenManaged_keeps | apply whenLive_keeps | apply whenFabric_keeps | apply OutKeeps.next
      | apply OutKeeps.fault | apply OutKeeps.ite | assumption | intro u | apply whenManaged_keeps
      | apply State.exposureDone_keeps | apply State.exposureFailed_keeps | simp only [Keeps.mk_iff] | split
      | dsimp only

theorem execControlBusTimeout_keeps {s₀ s : State} (hk : Keeps s₀ s) (port : Fin 16) :
    OutKeeps s₀ (execControlBusTimeout port s) := by
  unfold execControlBusTimeout
  try dsimp only
  with_reducible
    repeat'
      first
      | assumption | apply whenManaged_keeps | apply whenLive_keeps | apply whenFabric_keeps | apply OutKeeps.next
      | apply OutKeeps.fault | apply OutKeeps.ite | assumption | intro u | apply ite_keeps | apply ite_keeps_fst
      | apply ite_keeps_snd | apply foldl_keeps | apply foldl_keeps_fst | apply foldl_keeps_snd
      | apply State.draw_keeps | apply whenManaged_keeps | apply State.endHost_keeps
      | apply State.exposureFailed_keeps | simp only [Keeps.mk_iff] | split | dsimp only

theorem execHostTransfer_keeps {s₀ s : State} (hk : Keeps s₀ s) (ss : Nat) (blob : Bytes) :
    OutKeeps s₀ (execHostTransfer ss blob s) := by
  unfold execHostTransfer
  try dsimp only
  with_reducible
    repeat'
      first
      | assumption | apply whenManaged_keeps | apply whenLive_keeps | apply whenFabric_keeps | apply OutKeeps.next
      | apply OutKeeps.fault | apply OutKeeps.ite | assumption | intro u | apply whenManaged_keeps
      | apply State.ledgerWrite_keeps | refine OpKeeps.apply (hostTransferOp_keeps ..) ?_
      | apply hostTransferOp_keeps | dsimp only

theorem execHostTransferStart_keeps {s₀ s : State} (hk : Keeps s₀ s) (port : Fin 16) :
    OutKeeps s₀ (execHostTransferStart port s) := by
  unfold execHostTransferStart
  try dsimp only
  with_reducible
    repeat'
      first
      | assumption | apply whenManaged_keeps | apply whenLive_keeps | apply whenFabric_keeps | apply OutKeeps.next
      | apply OutKeeps.fault | apply OutKeeps.ite | assumption | intro u | apply ite_keeps | apply ite_keeps_fst
      | apply ite_keeps_snd | apply whenManaged_keeps | apply State.setCamPort_keeps | apply State.send_keeps
      | simp only [Keeps.mk_iff] | split | dsimp only

theorem execHostTransferDone_keeps {s₀ s : State} (hk : Keeps s₀ s) (port : Fin 16) (acknowledged : Bool) (data :
    Bytes) :
    OutKeeps s₀ (execHostTransferDone port acknowledged data s) := by
  unfold execHostTransferDone
  try dsimp only
  with_reducible
    repeat'
      first
      | assumption | apply whenManaged_keeps | apply whenLive_keeps | apply whenFabric_keeps | apply OutKeeps.next
      | apply OutKeeps.fault | apply OutKeeps.ite | assumption | intro u | apply ite_keeps | apply ite_keeps_fst
      | apply ite_keeps_snd | apply whenManaged_keeps | apply State.setBlob_keeps | apply State.endHost_keeps
      | simp only [Keeps.mk_iff] | split | dsimp only

theorem execHostTransferTimeout_keeps {s₀ s : State} (hk : Keeps s₀ s) (port : Fin 16) :
    OutKeeps s₀ (execHostTransferTimeout port s) := by
  unfold execHostTransferTimeout
  try dsimp only
  with_reducible
    repeat'
      first
      | assumption | apply whenManaged_keeps | apply whenLive_keeps | apply whenFabric_keeps | apply OutKeeps.next
      | apply OutKeeps.fault | apply OutKeeps.ite | assumption | intro u | apply ite_keeps | apply ite_keeps_fst
      | apply ite_keeps_snd | apply whenManaged_keeps | apply State.endHost_keeps | simp only [Keeps.mk_iff]
      | split | dsimp only

theorem execTemperLoad_keeps {s₀ s : State} (hk : Keeps s₀ s) (ss : Nat) (blob : Bytes) :
    OutKeeps s₀ (execTemperLoad ss blob s) := by
  unfold execTemperLoad
  try dsimp only
  with_reducible
    repeat'
      first
      | assumption | apply whenManaged_keeps | apply whenLive_keeps | apply whenFabric_keeps | apply OutKeeps.next
      | apply OutKeeps.fault | apply OutKeeps.ite | assumption | intro u | apply whenManaged_keeps
      | apply State.ledgerWrite_keeps | refine OpKeeps.apply (temperOp_keeps ..) ?_ | apply temperOp_keeps
      | dsimp only

theorem execSensorProfileWrite_keeps {s₀ s : State} (hk : Keeps s₀ s) (ss : Nat) (blob : Bytes) :
    OutKeeps s₀ (execSensorProfileWrite ss blob s) := by
  unfold execSensorProfileWrite
  try dsimp only
  with_reducible
    repeat'
      first
      | assumption | apply whenManaged_keeps | apply whenLive_keeps | apply whenFabric_keeps | apply OutKeeps.next
      | apply OutKeeps.fault | apply OutKeeps.ite | assumption | intro u | apply whenManaged_keeps
      | apply State.ledgerWrite_keeps | refine OpKeeps.apply (profileOp_keeps ..) ?_ | apply profileOp_keeps
      | dsimp only

end Sys2Proof.Machine
end

