-- ==== Sys2Proof/Laws/KeepsKeys.lean ====
section
/-! SUPPORT. The laws of `Keeps` for the operations of keys, check-value units and power domains: each keeps what `Keeps` lists, in the state
it leaves. -/

namespace Sys2Proof.Machine

set_option Elab.async false
set_option linter.unusedTactic false
set_option linter.unreachableTactic false

theorem State.setSpareNv_keeps {s₀ s : State} (hk : Keeps s₀ s) (n : NvCopy) :
    Keeps s₀ (State.setSpareNv s n) := by
  unfold State.setSpareNv
  try dsimp only
  with_reducible
    repeat'
      first
      | assumption | apply ite_keeps | apply ite_keeps_fst | apply ite_keeps_snd | simp only [Keeps.mk_iff]
      | dsimp only

theorem State.writeNv_keeps {s₀ s : State} (hk : Keeps s₀ s) (e : StoreEnd) (key : Nat) (f : NvCopy → NvCopy) :
    Keeps s₀ (State.writeNv s e key f).1 := by
  unfold State.writeNv
  try dsimp only
  with_reducible
    repeat'
      first
      | assumption | apply ite_keeps | apply ite_keeps_fst | apply ite_keeps_snd | apply State.setSpareNv_keeps
      | apply State.setReg_keeps | apply State.record_keeps | simp only [Keeps.mk_iff] | split | dsimp only

theorem State.setKeyState_keeps {s₀ s : State} (hk : Keeps s₀ s) (k : Nat) (st : Nat) :
    Keeps s₀ (State.setKeyState s k st) := by
  unfold State.setKeyState
  try dsimp only
  with_reducible
    repeat'
      first
      | assumption | apply State.setReg_keeps | dsimp only

theorem State.noteSignal_keeps {s₀ s : State} (hk : Keeps s₀ s) (k : Nat) (base : Nat) (raw : Nat) :
    Keeps s₀ (State.noteSignal s k base raw) := by
  unfold State.noteSignal
  try dsimp only
  with_reducible
    repeat'
      first
      | assumption | apply ite_keeps | apply ite_keeps_fst | apply ite_keeps_snd | apply State.setKey_keeps
      | apply State.setRegI_keeps | apply State.setReg_keeps | simp only [Keeps.mk_iff] | dsimp only

theorem State.queueKey_keeps {s₀ s : State} (hk : Keeps s₀ s) (k kind reason : Nat) :
    Keeps s₀ (State.queueKey s k kind reason) := by
  unfold State.queueKey
  split
  · apply State.recordLimited_keeps
    exact State.bump_keeps hk _ _
  · rename_i hn
    dsimp only
    have h : ∀ q : List Bytes, q.length ≤ 64 → Keeps s₀ { s with keys := { s.keys with queue := q } } :=
      fun q hq => { hk with records := fun _ => hq }
    split
    · exact State.send_keeps (h _ (by simp only [List.length_append, List.length_singleton]; omega)) _
    · exact h _ (by simp only [List.length_append, List.length_singleton]; omega)

theorem State.takeKeyRecords_keeps {s₀ s : State} (hk : Keeps s₀ s) : Keeps s₀ (State.takeKeyRecords s).2 := by
  unfold State.takeKeyRecords
  dsimp only
  have hl : s₀.keys.queue.length ≤ 64 → (s.keys.queue.drop 16).length ≤ 64 := fun h =>
    Nat.le_trans (by simp only [List.length_drop]; omega) (hk.records h)
  have h : Keeps s₀ { s with keys := { s.keys with queue := s.keys.queue.drop 16 } } := { hk with records := hl }
  split
  · exact h
  · exact State.send_keeps h _

theorem State.clearCounts_keeps {s₀ s : State} (hk : Keeps s₀ s) (k : Nat) :
    Keeps s₀ (State.clearCounts s k) := by
  unfold State.clearCounts
  try dsimp only
  with_reducible
    repeat'
      first
      | assumption | apply State.setKey_keeps | simp only [Keeps.mk_iff] | dsimp only

theorem State.recalibrate_keeps {s₀ s : State} (hk : Keeps s₀ s) (k : Nat) :
    Keeps s₀ (State.recalibrate s k) := by
  unfold State.recalibrate
  try dsimp only
  with_reducible
    repeat'
      first
      | assumption | apply State.setReg_keeps | apply State.clearCounts_keeps | apply State.bump_keeps | dsimp only

theorem State.releaseKey_keeps {s₀ s : State} (hk : Keeps s₀ s) (k : Nat) (reason : Nat) (st : Nat) :
    Keeps s₀ (State.releaseKey s k reason st) := by
  unfold State.releaseKey
  try dsimp only
  with_reducible
    repeat'
      first
      | assumption | apply State.queueKey_keeps | apply State.clearCounts_keeps | apply State.setKeyState_keeps
      | dsimp only

theorem State.withhold_keeps {s₀ s : State} (hk : Keeps s₀ s) (k : Nat) :
    Keeps s₀ (State.withhold s k) := by
  unfold State.withhold
  try dsimp only
  with_reducible
    repeat'
      first
      | assumption | apply State.clearCounts_keeps | apply State.setKeyState_keeps | apply State.releaseKey_keeps
      | simp only [Keeps.mk_iff] | split | dsimp only

theorem State.groupScan_keeps {s₀ s : State} (hk : Keeps s₀ s) (g : Nat) :
    Keeps s₀ (State.groupScan s g) := by
  unfold State.groupScan
  try dsimp only
  with_reducible
    repeat'
      first
      | assumption | intro u | apply ite_keeps | apply ite_keeps_fst | apply ite_keeps_snd | apply foldl_keeps
      | apply foldl_keeps_fst | apply foldl_keeps_snd | apply State.withhold_keeps | apply State.clearCounts_keeps
      | apply State.setKeyState_keeps | apply State.setReg_keeps | apply State.record_keeps
      | apply State.queueKey_keeps | apply State.bump_keeps | simp only [Keeps.mk_iff]
      | simp only [Keeps.mk_keys_iff] | dsimp only

theorem State.releaseStep_keeps {s₀ s : State} (hk : Keeps s₀ s) (k : Nat) :
    Keeps s₀ (State.releaseStep s k) := by
  unfold State.releaseStep
  try dsimp only
  with_reducible
    repeat'
      first
      | assumption | intro u | apply ite_keeps | apply ite_keeps_fst | apply ite_keeps_snd
      | apply State.setKey_keeps | apply State.releaseKey_keeps | apply State.recalibrate_keeps
      | apply State.setKeyState_keeps | simp only [Keeps.mk_iff] | split | dsimp only

theorem State.expiryStep_keeps {s₀ s : State} (hk : Keeps s₀ s) (k : Nat) :
    Keeps s₀ (State.expiryStep s k) := by
  unfold State.expiryStep
  try dsimp only
  with_reducible
    repeat'
      first
      | assumption | apply ite_keeps | apply ite_keeps_fst | apply ite_keeps_snd | apply State.releaseKey_keeps
      | apply State.setReg_keeps | apply State.bump_keeps | apply State.record_keeps | simp only [Keeps.mk_iff]
      | split | dsimp only

theorem State.pressStep_keeps {s₀ s : State} (hk : Keeps s₀ s) (k : Nat) :
    Keeps s₀ (State.pressStep s k) := by
  unfold State.pressStep
  try dsimp only
  with_reducible
    repeat'
      first
      | assumption | apply ite_keeps | apply ite_keeps_fst | apply ite_keeps_snd | apply State.setKey_keeps
      | apply State.clearCounts_keeps | apply State.setKeyState_keeps | apply State.queueKey_keeps
      | simp only [Keeps.mk_iff] | dsimp only

theorem State.baselineStep_keeps {s₀ s : State} (hk : Keeps s₀ s) (k : Nat) :
    Keeps s₀ (State.baselineStep s k) := by
  unfold State.baselineStep
  try dsimp only
  with_reducible
    repeat'
      first
      | assumption | apply ite_keeps | apply ite_keeps_fst | apply ite_keeps_snd | apply State.recalibrate_keeps
      | apply State.setKeyState_keeps | apply State.setKey_keeps | apply State.setReg_keeps
      | simp only [Keeps.mk_iff] | dsimp only

theorem State.faultStep_keeps {s₀ s : State} (hk : Keeps s₀ s) (k : Nat) :
    Keeps s₀ (State.faultStep s k) := by
  unfold State.faultStep
  try dsimp only
  with_reducible
    repeat'
      first
      | assumption | apply ite_keeps | apply ite_keeps_fst | apply ite_keeps_snd | apply State.setKey_keeps
      | apply State.setReg_keeps | apply State.clearCounts_keeps | apply State.setKeyState_keeps
      | apply State.record_keeps | simp only [Keeps.mk_iff] | dsimp only

theorem State.startStep_keeps {s₀ s : State} (hk : Keeps s₀ s) (k : Nat) :
    Keeps s₀ (State.startStep s k) := by
  unfold State.startStep
  try dsimp only
  with_reducible
    repeat'
      first
      | assumption | apply ite_keeps | apply ite_keeps_fst | apply ite_keeps_snd | apply State.setReg_keeps
      | apply State.noteSignal_keeps | apply State.setKeyState_keeps | apply State.record_keeps
      | apply State.queueKey_keeps | apply State.setKey_keeps | simp only [Keeps.mk_iff] | dsimp only

theorem State.readKey_keeps {s₀ s : State} (hk : Keeps s₀ s) (k : Nat) (raw : Nat) :
    Keeps s₀ (State.readKey s k raw) := by
  unfold State.readKey
  try dsimp only
  with_reducible
    repeat'
      first
      | assumption | apply ite_keeps | apply ite_keeps_fst | apply ite_keeps_snd | apply State.queueKey_keeps
      | apply State.setKey_keeps | apply State.setKeyState_keeps | apply State.setReg_keeps
      | apply State.startStep_keeps | apply State.faultStep_keeps | apply State.noteSignal_keeps | dsimp only

theorem State.scanKey_keeps {s₀ s : State} (hk : Keeps s₀ s) (k : Nat) :
    Keeps s₀ (State.scanKey s k) := by
  unfold State.scanKey
  try dsimp only
  with_reducible
    repeat'
      first
      | assumption | apply ite_keeps | apply ite_keeps_fst | apply ite_keeps_snd | apply State.releaseStep_keeps
      | apply State.expiryStep_keeps | apply State.pressStep_keeps | apply State.baselineStep_keeps | dsimp only

theorem State.noteActivity_keeps {s₀ s : State} (hk : Keeps s₀ s)  :
    Keeps s₀ (State.noteActivity s) := by
  unfold State.noteActivity
  try dsimp only
  with_reducible
    repeat'
      first
      | assumption | apply ite_keeps | apply ite_keeps_fst | apply ite_keeps_snd | simp only [Keeps.mk_iff]
      | simp only [Keeps.mk_keys_iff] | dsimp only

theorem State.noteGating_keeps {s₀ s : State} (hk : Keeps s₀ s)  :
    Keeps s₀ (State.noteGating s) := by
  unfold State.noteGating
  try dsimp only
  with_reducible
    repeat'
      first
      | assumption | apply ite_keeps | apply ite_keeps_fst | apply ite_keeps_snd | apply State.record_keeps
      | simp only [Keeps.mk_iff] | simp only [Keeps.mk_keys_iff] | split | dsimp only

theorem State.keyBoundary_keeps {s₀ s : State} (hk : Keeps s₀ s)  :
    Keeps s₀ (State.keyBoundary s) := by
  unfold State.keyBoundary
  try dsimp only
  with_reducible
    repeat'
      first
      | assumption | intro u | apply State.applyDue_keeps | apply State.noteGating_keeps | dsimp only

theorem State.scheduleGate_keeps {s₀ s : State} (hk : Keeps s₀ s) (t : Nat) :
    Keeps s₀ (State.scheduleGate s t) := by
  unfold State.scheduleGate
  try dsimp only
  with_reducible
    repeat'
      first
      | assumption | apply ite_keeps | apply ite_keeps_fst | apply ite_keeps_snd | simp only [Keeps.mk_iff]
      | simp only [Keeps.mk_keys_iff] | dsimp only

theorem State.gate_keeps {s₀ s : State} (hk : Keeps s₀ s) (opened : Nat) (raw : List Nat) :
    Keeps s₀ (State.gate s opened raw) := by
  unfold State.gate
  try dsimp only
  with_reducible
    repeat'
      first
      | assumption | intro u | apply ite_keeps | apply ite_keeps_fst | apply ite_keeps_snd | apply foldl_keeps
      | apply foldl_keeps_fst | apply foldl_keeps_snd | apply State.keyBoundary_keeps
      | apply State.noteActivity_keeps | apply State.readKey_keeps | apply State.groupScan_keeps
      | apply State.scanKey_keeps | apply State.scheduleGate_keeps | apply State.setReady_keeps
      | simp only [Keeps.mk_iff] | simp only [Keeps.mk_keys_iff] | dsimp only

theorem State.startSave_keeps {s₀ s : State} (hk : Keeps s₀ s)  :
    Keeps s₀ (State.startSave s) := by
  unfold State.startSave
  try dsimp only
  with_reducible
    repeat'
      first
      | assumption | simp only [Keeps.mk_iff] | simp only [Keeps.mk_keys_iff] | dsimp only

theorem saveBaselinesOp_keeps : OpKeeps (saveBaselinesOp) := by
  intro s₀ s ss i v h
  unfold saveBaselinesOp
  try dsimp only
  with_reducible
    repeat'
      first
      | assumption | intro u | apply ite_keeps | apply ite_keeps_fst | apply ite_keeps_snd
      | apply State.startSave_keeps | dsimp only

theorem execSaveBaselines_keeps {s₀ s : State} (hk : Keeps s₀ s) (ss : Nat) (v : Nat) :
    OutKeeps s₀ (execSaveBaselines ss v s) := by
  unfold execSaveBaselines
  try dsimp only
  with_reducible
    repeat'
      first
      | assumption | apply whenManaged_keeps | apply whenLive_keeps | apply whenFabric_keeps | apply OutKeeps.next
      | apply OutKeeps.fault | apply OutKeeps.ite | assumption | intro u | apply whenManaged_keeps
      | apply State.ledgerWrite_keeps | refine OpKeeps.apply (saveBaselinesOp_keeps ..) ?_
      | apply saveBaselinesOp_keeps | dsimp only

theorem execAutoBaselineSave_keeps {s₀ s : State} (hk : Keeps s₀ s)  :
    OutKeeps s₀ (execAutoBaselineSave s) := by
  unfold execAutoBaselineSave
  try dsimp only
  with_reducible
    repeat'
      first
      | assumption | apply whenManaged_keeps | apply whenLive_keeps | apply whenFabric_keeps | apply OutKeeps.next
      | apply OutKeeps.fault | apply OutKeeps.ite | assumption | intro u | apply ite_keeps | apply ite_keeps_fst
      | apply ite_keeps_snd | apply whenManaged_keeps | apply State.startSave_keeps | simp only [Keeps.mk_iff]
      | simp only [Keeps.mk_keys_iff] | dsimp only

theorem State.endSave_keeps {s₀ s : State} (hk : Keeps s₀ s) (bs : Tbl Nat) (e : StoreEnd) :
    Keeps s₀ (State.endSave s bs e) := by
  unfold State.endSave
  try dsimp only
  with_reducible
    repeat'
      first
      | assumption | intro u | apply ite_keeps | apply ite_keeps_fst | apply ite_keeps_snd | apply foldl_keeps
      | apply foldl_keeps_fst | apply foldl_keeps_snd | apply State.writeNv_keeps | apply State.setReg_keeps
      | simp only [Keeps.mk_iff] | simp only [Keeps.mk_keys_iff] | dsimp only

theorem State.leaveScan_keeps {s₀ s : State} (hk : Keeps s₀ s) (u : Nat) (st : Nat) :
    Keeps s₀ (State.leaveScan s u st) := by
  unfold State.leaveScan
  try dsimp only
  with_reducible
    repeat'
      first
      | assumption | apply State.setScan_keeps | apply State.setReg_keeps | apply State.dropRef_keeps
      | simp only [Keeps.mk_iff] | split | dsimp only

theorem scanFieldOp_keeps (key : Nat) : OpKeeps (scanFieldOp key) := by
  intro s₀ s ss i v h
  unfold scanFieldOp
  try dsimp only
  with_reducible
    repeat'
      first
      | assumption | intro u | apply ite_keeps | apply ite_keeps_fst | apply ite_keeps_snd
      | refine OpKeeps.apply (writePlain_keeps ..) ?_ | apply writePlain_keeps | dsimp only

theorem State.foldBurst_keeps {s₀ s : State} (hk : Keeps s₀ s) (u : Nat) (beats : Bytes) :
    Keeps s₀ (State.foldBurst s u beats) := by
  unfold State.foldBurst
  try dsimp only
  with_reducible
    repeat'
      first
      | assumption | apply ite_keeps | apply ite_keeps_fst | apply ite_keeps_snd | apply State.setScan_keeps
      | apply State.setReg_keeps | apply State.leaveScan_keeps | apply State.send_keeps | apply State.record_keeps
      | simp only [Keeps.mk_iff] | dsimp only

theorem State.failScan_keeps {s₀ s : State} (hk : Keeps s₀ s) (u : Nat) (c : Code) :
    Keeps s₀ (State.failScan s u c) := by
  unfold State.failScan
  try dsimp only
  with_reducible
    repeat'
      first
      | assumption | apply State.leaveScan_keeps | apply State.setBlob_keeps | apply State.send_keeps
      | apply State.record_keeps | dsimp only

theorem State.noteCorrected_keeps {s₀ s : State} (hk : Keeps s₀ s) (a : Nat) :
    Keeps s₀ (State.noteCorrected s a) := by
  unfold State.noteCorrected
  try dsimp only
  with_reducible
    repeat'
      first
      | assumption | apply ite_keeps | apply ite_keeps_fst | apply ite_keeps_snd | apply State.correctedError_keeps
      | apply State.bump_keeps | simp only [Keeps.mk_iff] | split | dsimp only

theorem State.withWaiting_keeps {s₀ s : State} (hk : Keeps s₀ s)  :
    Keeps s₀ (State.withWaiting s) := by
  unfold State.withWaiting
  try dsimp only
  with_reducible
    repeat'
      first
      | assumption | intro u | apply foldl_keeps | apply foldl_keeps_fst | apply foldl_keeps_snd
      | apply State.applyFields_keeps | simp only [Keeps.mk_iff] | split | dsimp only

theorem State.settleDomain_keeps {s₀ s : State} (hk : Keeps s₀ s) (w : State) (d : Nat) :
    Keeps s₀ (State.settleDomain s w d) := by
  unfold State.settleDomain
  try dsimp only
  with_reducible
    repeat'
      first
      | assumption | apply ite_keeps | apply ite_keeps_fst | apply ite_keeps_snd | apply State.setReg_keeps
      | apply State.bump_keeps | simp only [Keeps.mk_iff] | dsimp only

theorem State.settlePower_keeps {s₀ s : State} (hk : Keeps s₀ s)  :
    Keeps s₀ (State.settlePower s) := by
  unfold State.settlePower
  try dsimp only
  with_reducible
    repeat'
      first
      | assumption | intro u | apply foldl_keeps | apply foldl_keeps_fst | apply foldl_keeps_snd
      | apply State.settleDomain_keeps | apply State.withWaiting_keeps | dsimp only

theorem State.tryStartPort_keeps {s₀ s : State} (hk : Keeps s₀ s) (p : Nat) :
    Keeps s₀ (State.tryStartPort s p) := by
  unfold State.tryStartPort
  try dsimp only
  with_reducible
    repeat'
      first
      | assumption | apply ite_keeps | apply ite_keeps_fst | apply ite_keeps_snd | apply State.startPort_keeps
      | dsimp only

end Sys2Proof.Machine
end

