-- ==== Sys2Proof/Laws/KeepsCommit.lean ====
section
/-! SUPPORT. The laws of `Keeps` for the operations of commits, the wall, placement and freshness: each keeps what `Keeps` lists, in the state
it leaves. -/

namespace Sys2Proof.Machine

set_option Elab.async false
set_option linter.unusedTactic false
set_option linter.unreachableTactic false

theorem State.clearDerived_keeps {s₀ s : State} (hk : Keeps s₀ s)  :
    Keeps s₀ (State.clearDerived s) := by
  unfold State.clearDerived
  try dsimp only
  with_reducible
    repeat'
      first
      | assumption | intro u | simp only [Keeps.mk_iff] | dsimp only

theorem State.installEngines_keeps {s₀ s : State} (hk : Keeps s₀ s) (as : List (Nat × Nat × Nat)) :
    Keeps s₀ (State.installEngines s as) := by
  unfold State.installEngines
  try dsimp only
  with_reducible
    repeat'
      first
      | assumption | intro u | apply ite_keeps | apply ite_keeps_fst | apply ite_keeps_snd | apply foldl_keeps
      | apply foldl_keeps_fst | apply foldl_keeps_snd | apply State.setReg_keeps | simp only [Keeps.mk_iff] | split
      | dsimp only

theorem State.configPlan_keeps {s₀ s : State} (hk : Keeps s₀ s) (p : Plan) :
    Keeps s₀ (State.configPlan s p) := by
  unfold State.configPlan
  try dsimp only
  with_reducible
    repeat'
      first
      | assumption | apply State.clearDerived_keeps | apply State.applyFields_keeps
      | apply State.installEngines_keeps | simp only [Keeps.mk_iff] | dsimp only

theorem State.abandonWriteback_keeps {s₀ s : State} (hk : Keeps s₀ s) (e : Nat) :
    Keeps s₀ (State.abandonWriteback s e) := by
  unfold State.abandonWriteback
  try dsimp only
  with_reducible
    repeat'
      first
      | assumption | apply State.abandon_keeps | apply State.setEngine_keeps | apply State.bump_keeps
      | apply State.recordEvery_keeps | simp only [Keeps.mk_iff] | split | dsimp only

theorem State.abandonRx_keeps {s₀ s : State} (hk : Keeps s₀ s) (p : Nat) (i : Nat) :
    Keeps s₀ (State.abandonRx s p i) := by
  unfold State.abandonRx
  try dsimp only
  with_reducible
    repeat'
      first
      | assumption | intro u | apply State.abandon_keeps | apply State.setRx_keeps | apply State.dropFrame_keeps
      | apply State.setPort_keeps | simp only [Keeps.mk_iff] | split | dsimp only

theorem State.abandonFill_keeps {s₀ s : State} (hk : Keeps s₀ s) (i : Nat) :
    Keeps s₀ (State.abandonFill s i) := by
  unfold State.abandonFill
  try dsimp only
  with_reducible
    repeat'
      first
      | assumption | intro u | apply ite_keeps | apply ite_keeps_fst | apply ite_keeps_snd | apply foldl_keeps
      | apply foldl_keeps_fst | apply foldl_keeps_snd | apply State.abandonRx_keeps | apply State.abandonPipe_keeps
      | apply State.abandonWriteback_keeps | apply State.abandon_keeps | simp only [Keeps.mk_iff] | split
      | dsimp only

theorem State.abandonOn_keeps {s₀ s : State} (hk : Keeps s₀ s) (c : Nat) :
    Keeps s₀ (State.abandonOn s c) := by
  unfold State.abandonOn
  try dsimp only
  with_reducible
    repeat'
      first
      | assumption | intro u | apply foldl_keeps | apply foldl_keeps_fst | apply foldl_keeps_snd
      | apply State.abandonFill_keeps | dsimp only

theorem State.installSets_keeps {s₀ s : State} (hk : Keeps s₀ s) (planned : List (Nat × Source)) :
    Keeps s₀ (State.installSets s planned) := by
  unfold State.installSets
  try dsimp only
  with_reducible
    repeat'
      first
      | assumption | intro u | apply ite_keeps | apply ite_keeps_fst | apply ite_keeps_snd | apply foldl_keeps
      | apply foldl_keeps_fst | apply foldl_keeps_snd | apply State.retireSet_keeps | apply State.setSlot_keeps
      | apply State.newSet_keeps | simp only [Keeps.mk_iff] | split | dsimp only

theorem State.renewGroups_keeps {s₀ s : State} (hk : Keeps s₀ s) (old : State) :
    Keeps s₀ (State.renewGroups s old) := by
  unfold State.renewGroups
  try dsimp only
  with_reducible
    repeat'
      first
      | assumption | intro u | apply foldl_keeps | apply foldl_keeps_fst | apply foldl_keeps_snd
      | simp only [Keeps.mk_iff] | dsimp only

theorem State.noteBanks_keeps {s₀ s : State} (hk : Keeps s₀ s)  :
    Keeps s₀ (State.noteBanks s) := by
  unfold State.noteBanks
  try dsimp only
  with_reducible
    repeat'
      first
      | assumption | intro u | apply foldl_keeps | apply foldl_keeps_fst | apply foldl_keeps_snd
      | apply State.setReg_keeps | dsimp only

theorem State.noteWritebacks_keeps {s₀ s : State} (hk : Keeps s₀ s)  :
    Keeps s₀ (State.noteWritebacks s) := by
  unfold State.noteWritebacks
  try dsimp only
  with_reducible
    repeat'
      first
      | assumption | intro u | apply ite_keeps | apply ite_keeps_fst | apply ite_keeps_snd | apply foldl_keeps
      | apply foldl_keeps_fst | apply foldl_keeps_snd | apply State.record_keeps | simp only [Keeps.mk_iff] | split
      | dsimp only

theorem State.installPlan_keeps {s₀ s0 : State} (hk : Keeps s₀ s0) (slot : Nat) (p : Plan) (auto : Bool) :
    Keeps s₀ (State.installPlan s0 slot p auto) := by
  unfold State.installPlan
  try dsimp only
  with_reducible
    repeat'
      first
      | assumption | intro u | apply ite_keeps | apply ite_keeps_fst | apply ite_keeps_snd | apply foldl_keeps
      | apply foldl_keeps_fst | apply foldl_keeps_snd | apply State.moveHolds_keeps | apply State.abandonOn_keeps
      | apply State.endRecovery_keeps | apply State.installSets_keeps | apply State.configPlan_keeps
      | apply State.setReg_keeps | apply State.setBlob_keeps | apply State.noteBanks_keeps
      | simp only [Keeps.mk_iff] | split | dsimp only

theorem State.breakFrames_keeps {s₀ s : State} (hk : Keeps s₀ s) (p : Nat) :
    Keeps s₀ (State.breakFrames s p) := by
  unfold State.breakFrames
  try dsimp only
  with_reducible
    repeat'
      first
      | assumption | intro u | apply ite_keeps | apply ite_keeps_fst | apply ite_keeps_snd | apply foldl_keeps
      | apply foldl_keeps_fst | apply foldl_keeps_snd | apply State.setOutput_keeps | simp only [Keeps.mk_iff]
      | dsimp only

theorem State.trainDp_keeps {s₀ s : State} (hk : Keeps s₀ s) (p : Nat) (k : Sink) :
    Keeps s₀ (State.trainDp s p k) := by
  unfold State.trainDp
  try dsimp only
  with_reducible
    repeat'
      first
      | assumption | apply State.setReg_keeps | apply State.setBlob_keeps | apply State.breakFrames_keeps
      | simp only [Keeps.mk_iff] | dsimp only

theorem State.startEgress_keeps {s₀ s : State} (hk : Keeps s₀ s) (o : Nat) :
    Keeps s₀ (State.startEgress s o) := by
  unfold State.startEgress
  try dsimp only
  with_reducible
    repeat'
      first
      | assumption | intro u | apply foldl_keeps | apply foldl_keeps_fst | apply foldl_keeps_snd
      | apply State.setReg_keeps | apply State.trainDp_keeps | simp only [Keeps.mk_iff] | split | dsimp only

theorem State.stopEgress_keeps {s₀ s : State} (hk : Keeps s₀ s) (o : Nat) :
    Keeps s₀ (State.stopEgress s o) := by
  unfold State.stopEgress
  try dsimp only
  with_reducible
    repeat'
      first
      | assumption | intro u | apply foldl_keeps | apply foldl_keeps_fst | apply foldl_keeps_snd
      | apply State.setReg_keeps | simp only [Keeps.mk_iff] | split | dsimp only

theorem State.enableOutput_keeps {s₀ s : State} (hk : Keeps s₀ s) (wf : Nat) (o : Nat) :
    Keeps s₀ (State.enableOutput s wf o) := by
  unfold State.enableOutput
  try dsimp only
  with_reducible
    repeat'
      first
      | assumption | apply State.setOutput_keeps | apply State.startEgress_keeps | dsimp only

theorem State.disableOutput_keeps {s₀ s : State} (hk : Keeps s₀ s) (o : Nat) :
    Keeps s₀ (State.disableOutput s o) := by
  unfold State.disableOutput
  try dsimp only
  with_reducible
    repeat'
      first
      | assumption | apply State.setOutput_keeps | apply State.stopEgress_keeps | dsimp only

theorem State.stopPort_keeps {s₀ s : State} (hk : Keeps s₀ s) (p : Nat) :
    Keeps s₀ (State.stopPort s p) := by
  unfold State.stopPort
  try dsimp only
  with_reducible
    repeat'
      first
      | assumption | intro u | apply foldl_keeps | apply foldl_keeps_fst | apply foldl_keeps_snd
      | apply State.abandon_keeps | apply State.setReg_keeps | apply State.clearSpare_keeps
      | apply State.setLane_keeps | apply State.clearOutbox_keeps | apply State.setPort_keeps
      | apply State.followTimePort_keeps | simp only [Keeps.mk_iff] | split | dsimp only

theorem State.applyEnables_keeps {s₀ s : State} (hk : Keeps s₀ s) (old : State) (wf : Nat) :
    Keeps s₀ (State.applyEnables s old wf) := by
  unfold State.applyEnables
  try dsimp only
  with_reducible
    repeat'
      first
      | assumption | intro u | apply foldl_keeps | apply foldl_keeps_fst | apply foldl_keeps_snd
      | apply State.disableOutput_keeps | apply State.disableCamPort_keeps | apply State.disableContext_keeps
      | apply State.stopPort_keeps | apply State.enableCamPort_keeps | apply State.enableContext_keeps
      | apply State.tryStartPort_keeps | apply State.enableOutput_keeps | dsimp only

theorem State.configWide_keeps {s₀ s : State} (hk : Keeps s₀ s) (p : Pending) :
    Keeps s₀ (State.configWide s p) := by
  unfold State.configWide
  try dsimp only
  with_reducible
    repeat'
      first
      | assumption | apply State.configPlan_keeps | apply State.applyFields_keeps | simp only [Keeps.mk_iff]
      | split | dsimp only

theorem State.coverOutputs_keeps {s₀ s : State} (hk : Keeps s₀ s)  :
    Keeps s₀ (State.coverOutputs s) := by
  unfold State.coverOutputs
  try dsimp only
  with_reducible
    repeat'
      first
      | assumption | intro u | simp only [Keeps.mk_iff] | split | dsimp only

theorem State.installWide_keeps {s₀ s : State} (hk : Keeps s₀ s) (p : Pending) (wf : Nat) :
    Keeps s₀ (State.installWide s p wf) := by
  unfold State.installWide
  try dsimp only
  with_reducible
    repeat'
      first
      | assumption | intro u | apply ite_keeps | apply ite_keeps_fst | apply ite_keeps_snd
      | apply State.installPlan_keeps | apply State.applyFields_keeps | apply State.advanceEpoch_keeps
      | apply State.applyEnables_keeps | apply State.renewGroups_keeps | apply State.noteWritebacks_keeps
      | apply State.noteGating_keeps | apply State.coverOutputs_keeps | apply State.noteApplied_keeps
      | apply State.settlePower_keeps | simp only [Keeps.mk_iff] | simp only [Keeps.mk_commits_iff]
      | simp only [Keeps.mk_keys_iff] | split | dsimp only

theorem State.installPart_keeps {s₀ s : State} (hk : Keeps s₀ s) (p : Pending) (o : Nat) (wf : Nat) :
    Keeps s₀ (State.installPart s p o wf) := by
  unfold State.installPart
  try dsimp only
  with_reducible
    repeat'
      first
      | assumption | intro u | apply ite_keeps | apply ite_keeps_fst | apply ite_keeps_snd
      | apply State.applyFields_keeps | apply State.renewGroups_keeps | apply State.noteApplied_keeps
      | simp only [Keeps.mk_iff] | simp only [Keeps.mk_commits_iff] | dsimp only

theorem State.applyAt_keeps {s₀ s : State} (hk : Keeps s₀ s) (o : Nat) (of : Nat) :
    Keeps s₀ (State.applyAt s o of) := by
  unfold State.applyAt
  try dsimp only
  with_reducible
    repeat'
      first
      | assumption | intro u | apply ite_keeps | apply ite_keeps_fst | apply ite_keeps_snd | apply foldl_keeps
      | apply foldl_keeps_fst | apply foldl_keeps_snd | apply State.installWide_keeps
      | apply State.installPart_keeps | simp only [Keeps.mk_iff] | split | dsimp only

theorem State.configAt_keeps {s₀ s : State} (hk : Keeps s₀ s) (o : Nat) (of : Nat) :
    Keeps s₀ (State.configAt s o of) := by
  unfold State.configAt
  try dsimp only
  with_reducible
    repeat'
      first
      | assumption | intro u | apply ite_keeps | apply ite_keeps_fst | apply ite_keeps_snd | apply foldl_keeps
      | apply foldl_keeps_fst | apply foldl_keeps_snd | apply State.installPlan_keeps
      | apply State.applyFields_keeps | simp only [Keeps.mk_iff] | split | dsimp only

theorem State.overlay_keeps {s₀ t : State} (hk : Keeps s₀ t) (p : Pending) :
    Keeps s₀ (State.overlay t p) := by
  unfold State.overlay
  try dsimp only
  with_reducible
    repeat'
      first
      | assumption | apply State.configPlan_keeps | apply State.applyFields_keeps | simp only [Keeps.mk_iff]
      | split | dsimp only

theorem State.resulting_keeps {s₀ s : State} (hk : Keeps s₀ s)  :
    Keeps s₀ (State.resulting s) := by
  unfold State.resulting
  try dsimp only
  with_reducible
    repeat'
      first
      | assumption | intro u | apply foldl_keeps | apply foldl_keeps_fst | apply foldl_keeps_snd
      | apply State.overlay_keeps | dsimp only

theorem State.applyNow_keeps {s₀ s : State} (hk : Keeps s₀ s) (fs : List Staged) :
    Keeps s₀ (State.applyNow s fs) := by
  unfold State.applyNow
  try dsimp only
  with_reducible
    repeat'
      first
      | assumption | apply ite_keeps | apply ite_keeps_fst | apply ite_keeps_snd | apply State.applyFields_keeps
      | apply State.advanceEpoch_keeps | dsimp only

theorem State.freeze_keeps {s₀ s : State} (hk : Keeps s₀ s) (p : Pending) :
    Keeps s₀ (State.freeze s p) := by
  unfold State.freeze
  try dsimp only
  with_reducible
    repeat'
      first
      | assumption | intro u | apply ite_keeps | apply ite_keeps_fst | apply ite_keeps_snd
      | simp only [Keeps.mk_iff] | dsimp only

theorem State.unfreeze_keeps {s₀ s : State} (hk : Keeps s₀ s) (p : Pending) :
    Keeps s₀ (State.unfreeze s p) := by
  unfold State.unfreeze
  try dsimp only
  with_reducible
    repeat'
      first
      | assumption | intro u | apply ite_keeps | apply ite_keeps_fst | apply ite_keeps_snd
      | simp only [Keeps.mk_iff] | dsimp only

theorem State.refuseTicket_keeps {s₀ s : State} (hk : Keeps s₀ s) (event : Nat) (id : Nat) (c : Code) (pair : Nat)
    (member : Nat) :
    Keeps s₀ (State.refuseTicket s event id c pair member) := by
  unfold State.refuseTicket
  try dsimp only
  with_reducible
    repeat'
      first
      | assumption | apply State.setTicket_keeps | apply State.record_keeps | simp only [Keeps.mk_iff] | split
      | dsimp only

theorem State.dropCommit_keeps {s₀ s : State} (hk : Keeps s₀ s) (id : Nat) :
    Keeps s₀ (State.dropCommit s id) := by
  unfold State.dropCommit
  try dsimp only
  with_reducible
    repeat'
      first
      | assumption | intro u | simp only [Keeps.mk_iff] | simp only [Keeps.mk_commits_iff] | dsimp only

theorem State.setCommit_keeps {s₀ s : State} (hk : Keeps s₀ s) (p : Pending) :
    Keeps s₀ (State.setCommit s p) := by
  unfold State.setCommit
  try dsimp only
  with_reducible
    repeat'
      first
      | assumption | intro u | apply ite_keeps | apply ite_keeps_fst | apply ite_keeps_snd
      | simp only [Keeps.mk_iff] | simp only [Keeps.mk_commits_iff] | dsimp only

theorem State.requestCommit_keeps {s₀ s : State} (hk : Keeps s₀ s) (slot : Nat) (target : Nat) (wall : Bool) :
    Keeps s₀ (State.requestCommit s slot target wall).1 := by
  unfold State.requestCommit
  try dsimp only
  with_reducible
    repeat'
      first
      | assumption | apply ite_keeps | apply ite_keeps_fst | apply ite_keeps_snd | apply State.addTicket_keeps
      | apply State.refuseTicket_keeps | simp only [Keeps.mk_iff] | simp only [Keeps.mk_commits_iff] | split
      | dsimp only

theorem commitOp_keeps : OpKeeps (commitOp) := by
  intro s₀ s ss i v h
  unfold commitOp
  try dsimp only
  with_reducible
    repeat'
      first
      | assumption | intro u | apply State.requestCommit_keeps | apply State.setSession_keeps
      | simp only [Keeps.mk_iff] | split | dsimp only

theorem discardOp_keeps : OpKeeps (discardOp) := by
  intro s₀ s ss i v h
  unfold discardOp
  try dsimp only
  with_reducible
    repeat'
      first
      | assumption | intro u | simp only [Keeps.mk_iff] | dsimp only

theorem State.withArmed_keeps {s₀ s : State} (hk : Keeps s₀ s) (p : Pending) (atOnce' : List Staged) :
    Keeps s₀ (State.withArmed s p atOnce') := by
  unfold State.withArmed
  try dsimp only
  with_reducible
    repeat'
      first
      | assumption | apply State.withWaiting_keeps | apply State.applyFields_keeps | simp only [Keeps.mk_iff]
      | simp only [Keeps.mk_commits_iff] | dsimp only

theorem State.askDomains_keeps {s₀ s : State} (hk : Keeps s₀ s) (p : Pending) (atOnce' : List Staged) :
    Keeps s₀ (State.askDomains s p atOnce') := by
  unfold State.askDomains
  try dsimp only
  with_reducible
    repeat'
      first
      | assumption | intro u | apply foldl_keeps | apply foldl_keeps_fst | apply foldl_keeps_snd
      | apply State.withArmed_keeps | apply State.settleDomain_keeps | dsimp only

theorem State.takeCommit_keeps {s₀ s : State} (hk : Keeps s₀ s) (p : Pending) (atOnce' : List Staged) :
    Keeps s₀ (State.takeCommit s p atOnce') := by
  unfold State.takeCommit
  try dsimp only
  with_reducible
    repeat'
      first
      | assumption | apply ite_keeps | apply ite_keeps_fst | apply ite_keeps_snd | apply State.freeze_keeps
      | apply State.applyNow_keeps | apply State.setTicket_keeps | apply State.noteApplied_keeps
      | apply State.settleCommits_keeps | apply State.settlePower_keeps | simp only [Keeps.mk_iff]
      | simp only [Keeps.mk_commits_iff] | split | dsimp only

theorem State.aheadOf_keeps {s₀ s : State} (hk : Keeps s₀ s) (p : Pending) :
    Keeps s₀ (State.aheadOf s p) := by
  unfold State.aheadOf
  try dsimp only
  with_reducible
    repeat'
      first
      | assumption | intro u | simp only [Keeps.mk_iff] | simp only [Keeps.mk_commits_iff] | dsimp only

theorem State.failLockIn_keeps {s₀ s : State} (hk : Keeps s₀ s) (p : Pending) (c : Code) (pair : Nat) :
    Keeps s₀ (State.failLockIn s p c pair) := by
  unfold State.failLockIn
  try dsimp only
  with_reducible
    repeat'
      first
      | assumption | apply ite_keeps | apply ite_keeps_fst | apply ite_keeps_snd | apply State.dropCommit_keeps
      | apply State.unfreeze_keeps | apply State.refuseTicket_keeps | dsimp only

theorem State.lockIn_keeps {s₀ s : State} (hk : Keeps s₀ s) (p : Pending) :
    Keeps s₀ (State.lockIn s p) := by
  unfold State.lockIn
  try dsimp only
  with_reducible
    repeat'
      first
      | assumption | apply ite_keeps | apply ite_keeps_fst | apply ite_keeps_snd | apply State.failLockIn_keeps
      | apply State.setCommit_keeps | simp only [Keeps.mk_iff] | split | dsimp only

theorem State.takeAuto_keeps {s₀ s : State} (hk : Keeps s₀ s) (p : Plan) :
    Keeps s₀ (State.takeAuto s p) := by
  unfold State.takeAuto
  try dsimp only
  with_reducible
    repeat'
      first
      | assumption | intro u | apply ite_keeps | apply ite_keeps_fst | apply ite_keeps_snd | apply foldl_keeps
      | apply foldl_keeps_fst | apply foldl_keeps_snd | apply State.lockIn_keeps | apply State.settlePower_keeps
      | simp only [Keeps.mk_iff] | simp only [Keeps.mk_commits_iff] | dsimp only

theorem State.lockInFor_keeps {s₀ s : State} (hk : Keeps s₀ s) (o : Nat) (of : Nat) :
    Keeps s₀ (State.lockInFor s o of) := by
  unfold State.lockInFor
  try dsimp only
  with_reducible
    repeat'
      first
      | assumption | intro u | apply ite_keeps | apply ite_keeps_fst | apply ite_keeps_snd | apply foldl_keeps
      | apply foldl_keeps_fst | apply foldl_keeps_snd | apply State.lockIn_keeps | simp only [Keeps.mk_iff] | split
      | dsimp only

theorem State.installIdle_keeps {s₀ s : State} (hk : Keeps s₀ s)  :
    Keeps s₀ (State.installIdle s) := by
  unfold State.installIdle
  try dsimp only
  with_reducible
    repeat'
      first
      | assumption | intro u | apply ite_keeps | apply ite_keeps_fst | apply ite_keeps_snd | apply foldl_keeps
      | apply foldl_keeps_fst | apply foldl_keeps_snd | apply State.installWide_keeps | dsimp only

theorem State.cancelCommit_keeps {s₀ s : State} (hk : Keeps s₀ s) (id : Nat) :
    Keeps s₀ (State.cancelCommit s id) := by
  unfold State.cancelCommit
  try dsimp only
  with_reducible
    repeat'
      first
      | assumption | intro u | apply State.dropCommit_keeps | apply State.setTicket_keeps
      | apply State.record_keeps | apply State.settlePower_keeps | simp only [Keeps.mk_iff]
      | simp only [Keeps.mk_commits_iff] | split | dsimp only

theorem execCommit_keeps {s₀ s : State} (hk : Keeps s₀ s) (ss : Nat) (v : Nat) :
    OutKeeps s₀ (execCommit ss v s) := by
  unfold execCommit
  try dsimp only
  with_reducible
    repeat'
      first
      | assumption | apply whenManaged_keeps | apply whenLive_keeps | apply whenFabric_keeps | apply OutKeeps.next
      | apply OutKeeps.fault | apply OutKeeps.ite | assumption | intro u | apply whenManaged_keeps
      | apply State.ledgerWrite_keeps | refine OpKeeps.apply (commitOp_keeps ..) ?_ | apply commitOp_keeps
      | dsimp only

theorem execDiscardShadow_keeps {s₀ s : State} (hk : Keeps s₀ s) (ss : Nat) (v : Nat) :
    OutKeeps s₀ (execDiscardShadow ss v s) := by
  unfold execDiscardShadow
  try dsimp only
  with_reducible
    repeat'
      first
      | assumption | apply whenManaged_keeps | apply whenLive_keeps | apply whenFabric_keeps | apply OutKeeps.next
      | apply OutKeeps.fault | apply OutKeeps.ite | assumption | intro u | apply whenManaged_keeps
      | apply State.ledgerWrite_keeps | refine OpKeeps.apply (discardOp_keeps ..) ?_ | apply discardOp_keeps
      | dsimp only

theorem State.broadcast_keeps {s₀ s : State} (hk : Keeps s₀ s) (step : Nat) (m : WallMsg) :
    Keeps s₀ (State.broadcast s step m) := by
  unfold State.broadcast
  try dsimp only
  with_reducible
    repeat'
      first
      | assumption | intro u | apply foldl_keeps | apply foldl_keeps_fst | apply foldl_keeps_snd
      | apply State.sendMessage_keeps | dsimp only

theorem State.listen_keeps {s₀ s : State} (hk : Keeps s₀ s)  :
    Keeps s₀ (State.listen s) := by
  unfold State.listen
  try dsimp only
  with_reducible
    repeat'
      first
      | assumption | apply State.setReg_keeps | simp only [Keeps.mk_iff] | simp only [Keeps.mk_commits_iff]
      | dsimp only

theorem State.exclude_keeps {s₀ s : State} (hk : Keeps s₀ s) (serial : Nat) :
    Keeps s₀ (State.exclude s serial) := by
  unfold State.exclude
  try dsimp only
  with_reducible
    repeat'
      first
      | assumption | apply State.setReg_keeps | apply State.record_keeps | dsimp only

theorem State.clash_keeps {s₀ s : State} (hk : Keeps s₀ s) (pairState : Nat) (serial : Nat) :
    Keeps s₀ (State.clash s pairState serial) := by
  unfold State.clash
  try dsimp only
  with_reducible
    repeat'
      first
      | assumption | apply ite_keeps | apply ite_keeps_fst | apply ite_keeps_snd | apply State.exclude_keeps
      | simp only [Keeps.mk_iff] | split | dsimp only

theorem State.takePresence_keeps {s₀ s : State} (hk : Keeps s₀ s) (port : Nat) (aliasNo : Nat) (member : Nat)
    (pairState : Nat) (serial : Nat) :
    Keeps s₀ (State.takePresence s port aliasNo member pairState serial) := by
  unfold State.takePresence
  try dsimp only
  with_reducible
    repeat'
      first
      | assumption | intro u | apply ite_keeps | apply ite_keeps_fst | apply ite_keeps_snd
      | apply State.clash_keeps | simp only [Keeps.mk_iff] | simp only [Keeps.mk_commits_iff] | dsimp only

theorem State.sendPresence_keeps {s₀ s : State} (hk : Keeps s₀ s)  :
    Keeps s₀ (State.sendPresence s) := by
  unfold State.sendPresence
  try dsimp only
  with_reducible
    repeat'
      first
      | assumption | intro u | apply foldl_keeps | apply foldl_keeps_fst | apply foldl_keeps_snd
      | apply State.sendMessage_keeps | simp only [Keeps.mk_iff] | simp only [Keeps.mk_commits_iff] | dsimp only

theorem memberNumberOp_keeps : OpKeeps (memberNumberOp) := by
  intro s₀ s ss i v h
  unfold memberNumberOp
  try dsimp only
  with_reducible
    repeat'
      first
      | assumption | intro u | apply ite_keeps | apply ite_keeps_fst | apply ite_keeps_snd
      | apply State.setReg_keeps | apply State.listen_keeps | dsimp only

theorem State.lead_keeps {s₀ s : State} (hk : Keeps s₀ s) (id : Nat) :
    Keeps s₀ (State.lead s id) := by
  unfold State.lead
  try dsimp only
  with_reducible
    repeat'
      first
      | assumption | apply ite_keeps | apply ite_keeps_fst | apply ite_keeps_snd | apply State.setCommit_keeps
      | apply State.broadcast_keeps | simp only [Keeps.mk_iff] | split | dsimp only

theorem State.takeReady_keeps {s₀ s : State} (hk : Keeps s₀ s) (m : WallMsg) :
    Keeps s₀ (State.takeReady s m) := by
  unfold State.takeReady
  try dsimp only
  with_reducible
    repeat'
      first
      | assumption | apply ite_keeps | apply ite_keeps_fst | apply ite_keeps_snd | apply State.setCommit_keeps
      | simp only [Keeps.mk_iff] | split | dsimp only

theorem State.takeRefuse_keeps {s₀ s : State} (hk : Keeps s₀ s) (m : WallMsg) :
    Keeps s₀ (State.takeRefuse s m) := by
  unfold State.takeRefuse
  try dsimp only
  with_reducible
    repeat'
      first
      | assumption | apply ite_keeps | apply ite_keeps_fst | apply ite_keeps_snd | apply State.setCommit_keeps
      | simp only [Keeps.mk_iff] | split | dsimp only

theorem State.decideWall_keeps {s₀ s : State} (hk : Keeps s₀ s) (p : Pending) :
    Keeps s₀ (State.decideWall s p) := by
  unfold State.decideWall
  try dsimp only
  with_reducible
    repeat'
      first
      | assumption | apply State.setCommit_keeps | apply State.broadcast_keeps | apply State.dropCommit_keeps
      | apply State.refuseTicket_keeps | apply State.settlePower_keeps | simp only [Keeps.mk_iff]
      | simp only [Keeps.mk_commits_iff] | split | dsimp only

theorem State.servePrepare_keeps {s₀ s : State} (hk : Keeps s₀ s) (r : Pending) (port : Nat) (tag : Nat) :
    Keeps s₀ (State.servePrepare s r port tag) := by
  unfold State.servePrepare
  try dsimp only
  with_reducible
    repeat'
      first
      | assumption | apply ite_keeps | apply ite_keeps_fst | apply ite_keeps_snd | apply State.draw_keeps
      | apply State.refuseTicket_keeps | apply State.sendMessage_keeps | apply State.askDomains_keeps
      | apply State.takeCommit_keeps | simp only [Keeps.mk_iff] | simp only [Keeps.mk_commits_iff] | split
      | dsimp only

theorem State.takePrepare_keeps {s₀ s : State} (hk : Keeps s₀ s) (port : Nat) (m : WallMsg) :
    Keeps s₀ (State.takePrepare s port m) := by
  unfold State.takePrepare
  try dsimp only
  with_reducible
    repeat'
      first
      | assumption | intro u | apply ite_keeps | apply ite_keeps_fst | apply ite_keeps_snd
      | apply State.addOther_keeps | apply State.servePrepare_keeps | dsimp only

theorem State.takeGo_keeps {s₀ s : State} (hk : Keeps s₀ s) (m : WallMsg) :
    Keeps s₀ (State.takeGo s m) := by
  unfold State.takeGo
  try dsimp only
  with_reducible
    repeat'
      first
      | assumption | apply ite_keeps | apply ite_keeps_fst | apply ite_keeps_snd | apply State.setCommit_keeps
      | simp only [Keeps.mk_iff] | split | dsimp only

theorem State.takeAbort_keeps {s₀ s0 : State} (hk : Keeps s₀ s0) (m : WallMsg) :
    Keeps s₀ (State.takeAbort s0 m) := by
  unfold State.takeAbort
  try dsimp only
  with_reducible
    repeat'
      first
      | assumption | intro u | apply ite_keeps | apply ite_keeps_fst | apply ite_keeps_snd
      | apply State.refuseTicket_keeps | apply State.dropCommit_keeps | apply State.settlePower_keeps
      | simp only [Keeps.mk_iff] | simp only [Keeps.mk_commits_iff] | split | dsimp only

theorem State.reportApplied_keeps {s₀ s : State} (hk : Keeps s₀ s) (old : State) :
    Keeps s₀ (State.reportApplied s old) := by
  unfold State.reportApplied
  try dsimp only
  with_reducible
    repeat'
      first
      | assumption | intro u | apply ite_keeps | apply ite_keeps_fst | apply ite_keeps_snd | apply foldl_keeps
      | apply foldl_keeps_fst | apply foldl_keeps_snd | apply State.sendMessage_keeps | simp only [Keeps.mk_iff]
      | split | dsimp only

theorem State.serveRequest_keeps {s₀ s : State} (hk : Keeps s₀ s) (r : Pending) :
    Keeps s₀ (State.serveRequest s r) := by
  unfold State.serveRequest
  try dsimp only
  with_reducible
    repeat'
      first
      | assumption | apply ite_keeps | apply ite_keeps_fst | apply ite_keeps_snd | apply State.draw_keeps
      | apply State.refuseTicket_keeps | apply State.askDomains_keeps | apply State.takeCommit_keeps
      | apply State.lead_keeps | simp only [Keeps.mk_iff] | simp only [Keeps.mk_commits_iff] | split | dsimp only

theorem execCommitAccept_keeps {s₀ s : State} (hk : Keeps s₀ s)  :
    OutKeeps s₀ (execCommitAccept s) := by
  unfold execCommitAccept
  try dsimp only
  with_reducible
    repeat'
      first
      | assumption | apply whenManaged_keeps | apply whenLive_keeps | apply whenFabric_keeps | apply OutKeeps.next
      | apply OutKeeps.fault | apply OutKeeps.ite | assumption | intro u | apply whenManaged_keeps
      | apply State.servePrepare_keeps | apply State.serveRequest_keeps | simp only [Keeps.mk_iff]
      | simp only [Keeps.mk_commits_iff] | split | dsimp only

theorem execCommitLockIn_keeps {s₀ s : State} (hk : Keeps s₀ s) (ticket : Nat) :
    OutKeeps s₀ (execCommitLockIn ticket s) := by
  unfold execCommitLockIn
  try dsimp only
  with_reducible
    repeat'
      first
      | assumption | apply whenManaged_keeps | apply whenLive_keeps | apply whenFabric_keeps | apply OutKeeps.next
      | apply OutKeeps.fault | apply OutKeeps.ite | assumption | intro u | apply ite_keeps | apply ite_keeps_fst
      | apply ite_keeps_snd | apply whenManaged_keeps | apply State.lockIn_keeps | apply State.installIdle_keeps
      | apply State.settleCommits_keeps | apply State.reportApplied_keeps | apply State.settlePower_keeps
      | simp only [Keeps.mk_iff] | split | dsimp only

theorem cancelOp_keeps : OpKeeps (cancelOp) := by
  intro s₀ s ss i v h
  unfold cancelOp
  try dsimp only
  with_reducible
    repeat'
      first
      | assumption | intro u | apply ite_keeps | apply ite_keeps_fst | apply ite_keeps_snd
      | apply State.cancelCommit_keeps | apply State.broadcast_keeps | simp only [Keeps.mk_iff] | split
      | dsimp only

theorem execCancel_keeps {s₀ s : State} (hk : Keeps s₀ s) (ss : Nat) (ticket : Nat) :
    OutKeeps s₀ (execCancel ss ticket s) := by
  unfold execCancel
  try dsimp only
  with_reducible
    repeat'
      first
      | assumption | apply whenManaged_keeps | apply whenLive_keeps | apply whenFabric_keeps | apply OutKeeps.next
      | apply OutKeeps.fault | apply OutKeeps.ite | assumption | intro u | apply whenManaged_keeps
      | apply State.ledgerWrite_keeps | refine OpKeeps.apply (cancelOp_keeps ..) ?_ | apply cancelOp_keeps
      | dsimp only

theorem whenTrusted_keeps {s₀ s : State} (h : Keeps s₀ s) (p kind : Nat) {f : State → State}
    (hf : ∀ u, Keeps s₀ u → Keeps s₀ (f u)) : OutKeeps s₀ (whenTrusted p kind s f) := by
  unfold whenTrusted
  apply whenManaged_keeps h
  dsimp only
  split
  · exact hf _ (State.admitMessage_keeps h p kind)
  · exact State.admitMessage_keeps h p kind

theorem execPrepare_keeps {s₀ s : State} (hk : Keeps s₀ s) (port : Fin 24) (m : WallMsg) :
    OutKeeps s₀ (execPrepare port m s) := by
  unfold execPrepare
  try dsimp only
  with_reducible
    repeat'
      first
      | apply whenTrusted_keeps | assumption | apply whenManaged_keeps | apply whenLive_keeps
      | apply whenFabric_keeps | apply OutKeeps.next | apply OutKeeps.fault | apply OutKeeps.ite | assumption
      | intro u | apply whenTrusted_keeps | apply State.takePrepare_keeps | dsimp only

theorem execReady_keeps {s₀ s : State} (hk : Keeps s₀ s) (port : Fin 24) (m : WallMsg) :
    OutKeeps s₀ (execReady port m s) := by
  unfold execReady
  try dsimp only
  with_reducible
    repeat'
      first
      | apply whenTrusted_keeps | assumption | apply whenManaged_keeps | apply whenLive_keeps
      | apply whenFabric_keeps | apply OutKeeps.next | apply OutKeeps.fault | apply OutKeeps.ite | assumption
      | intro u | apply whenTrusted_keeps | apply State.takeReady_keeps | dsimp only

theorem execRefuse_keeps {s₀ s : State} (hk : Keeps s₀ s) (port : Fin 24) (m : WallMsg) :
    OutKeeps s₀ (execRefuse port m s) := by
  unfold execRefuse
  try dsimp only
  with_reducible
    repeat'
      first
      | apply whenTrusted_keeps | assumption | apply whenManaged_keeps | apply whenLive_keeps
      | apply whenFabric_keeps | apply OutKeeps.next | apply OutKeeps.fault | apply OutKeeps.ite | assumption
      | intro u | apply whenTrusted_keeps | apply State.takeRefuse_keeps | dsimp only

theorem execDecisionDeadline_keeps {s₀ s : State} (hk : Keeps s₀ s) (ticket : Nat) :
    OutKeeps s₀ (execDecisionDeadline ticket s) := by
  unfold execDecisionDeadline
  try dsimp only
  with_reducible
    repeat'
      first
      | assumption | apply whenManaged_keeps | apply whenLive_keeps | apply whenFabric_keeps | apply OutKeeps.next
      | apply OutKeeps.fault | apply OutKeeps.ite | assumption | intro u | apply ite_keeps | apply ite_keeps_fst
      | apply ite_keeps_snd | apply whenManaged_keeps | apply State.decideWall_keeps | simp only [Keeps.mk_iff]
      | split | dsimp only

theorem execGo_keeps {s₀ s : State} (hk : Keeps s₀ s) (port : Fin 24) (m : WallMsg) :
    OutKeeps s₀ (execGo port m s) := by
  unfold execGo
  try dsimp only
  with_reducible
    repeat'
      first
      | apply whenTrusted_keeps | assumption | apply whenManaged_keeps | apply whenLive_keeps
      | apply whenFabric_keeps | apply OutKeeps.next | apply OutKeeps.fault | apply OutKeeps.ite | assumption
      | intro u | apply whenTrusted_keeps | apply State.takeGo_keeps | dsimp only

theorem execAbort_keeps {s₀ s : State} (hk : Keeps s₀ s) (port : Fin 24) (m : WallMsg) :
    OutKeeps s₀ (execAbort port m s) := by
  unfold execAbort
  try dsimp only
  with_reducible
    repeat'
      first
      | apply whenTrusted_keeps | assumption | apply whenManaged_keeps | apply whenLive_keeps
      | apply whenFabric_keeps | apply OutKeeps.next | apply OutKeeps.fault | apply OutKeeps.ite | assumption
      | intro u | apply whenTrusted_keeps | apply State.takeAbort_keeps | dsimp only

theorem State.takeApplied_keeps {s₀ s : State} (hk : Keeps s₀ s) (m : WallMsg) :
    Keeps s₀ (State.takeApplied s m) := by
  unfold State.takeApplied
  try dsimp only
  with_reducible
    repeat'
      first
      | assumption | intro u | apply ite_keeps | apply ite_keeps_fst | apply ite_keeps_snd
      | simp only [Keeps.mk_iff] | simp only [Keeps.mk_commits_iff] | dsimp only

theorem execApplied_keeps {s₀ s : State} (hk : Keeps s₀ s) (port : Fin 24) (m : WallMsg) :
    OutKeeps s₀ (execApplied port m s) := by
  unfold execApplied
  try dsimp only
  with_reducible
    repeat'
      first
      | apply whenTrusted_keeps | assumption | apply whenManaged_keeps | apply whenLive_keeps
      | apply whenFabric_keeps | apply OutKeeps.next | apply OutKeeps.fault | apply OutKeeps.ite | assumption
      | intro u | apply whenTrusted_keeps | apply State.takeApplied_keeps | dsimp only

theorem execAppliedReportTimeout_keeps {s₀ s : State} (hk : Keeps s₀ s) (ticket : Nat) :
    OutKeeps s₀ (execAppliedReportTimeout ticket s) := by
  unfold execAppliedReportTimeout
  try dsimp only
  with_reducible
    repeat'
      first
      | assumption | apply whenManaged_keeps | apply whenLive_keeps | apply whenFabric_keeps | apply OutKeeps.next
      | apply OutKeeps.fault | apply OutKeeps.ite | assumption | intro u | apply ite_keeps | apply ite_keeps_fst
      | apply ite_keeps_snd | apply foldl_keeps | apply foldl_keeps_fst | apply foldl_keeps_snd
      | apply whenManaged_keeps | apply State.record_keeps | simp only [Keeps.mk_iff]
      | simp only [Keeps.mk_commits_iff] | split | dsimp only

theorem execWallPresence_keeps {s₀ s : State} (hk : Keeps s₀ s) (port : Fin 24) (wallAlias : Nat) (member : Nat)
    (_role : Nat) (pairState : Nat) (serial : Nat) :
    OutKeeps s₀ (execWallPresence port wallAlias member _role pairState serial s) := by
  unfold execWallPresence
  try dsimp only
  with_reducible
    repeat'
      first
      | apply whenTrusted_keeps | assumption | apply whenManaged_keeps | apply whenLive_keeps
      | apply whenFabric_keeps | apply OutKeeps.next | apply OutKeeps.fault | apply OutKeeps.ite | assumption
      | intro u | apply whenTrusted_keeps | apply State.takePresence_keeps | dsimp only

theorem execPresenceSend_keeps {s₀ s : State} (hk : Keeps s₀ s)  :
    OutKeeps s₀ (execPresenceSend s) := by
  unfold execPresenceSend
  try dsimp only
  with_reducible
    repeat'
      first
      | assumption | apply whenManaged_keeps | apply whenLive_keeps | apply whenFabric_keeps | apply OutKeeps.next
      | apply OutKeeps.fault | apply OutKeeps.ite | assumption | intro u | apply ite_keeps | apply ite_keeps_fst
      | apply ite_keeps_snd | apply whenManaged_keeps | apply State.sendPresence_keeps | simp only [Keeps.mk_iff]
      | split | dsimp only

theorem execMemberPresenceTimeout_keeps {s₀ s : State} (hk : Keeps s₀ s) (member : Fin 64) :
    OutKeeps s₀ (execMemberPresenceTimeout member s) := by
  unfold execMemberPresenceTimeout
  try dsimp only
  with_reducible
    repeat'
      first
      | assumption | apply whenManaged_keeps | apply whenLive_keeps | apply whenFabric_keeps | apply OutKeeps.next
      | apply OutKeeps.fault | apply OutKeeps.ite | assumption | intro u | apply whenManaged_keeps
      | simp only [Keeps.mk_iff] | simp only [Keeps.mk_commits_iff] | dsimp only

theorem execJoinListenEnd_keeps {s₀ s : State} (hk : Keeps s₀ s)  :
    OutKeeps s₀ (execJoinListenEnd s) := by
  unfold execJoinListenEnd
  try dsimp only
  with_reducible
    repeat'
      first
      | assumption | apply whenManaged_keeps | apply whenLive_keeps | apply whenFabric_keeps | apply OutKeeps.next
      | apply OutKeeps.fault | apply OutKeeps.ite | assumption | intro u | apply ite_keeps | apply ite_keeps_fst
      | apply ite_keeps_snd | apply whenManaged_keeps | apply State.setReg_keeps | simp only [Keeps.mk_iff] | split
      | dsimp only

theorem execMemberNumberWrite_keeps {s₀ s : State} (hk : Keeps s₀ s) (ss : Nat) (v : Nat) :
    OutKeeps s₀ (execMemberNumberWrite ss v s) := by
  unfold execMemberNumberWrite
  try dsimp only
  with_reducible
    repeat'
      first
      | assumption | apply whenManaged_keeps | apply whenLive_keeps | apply whenFabric_keeps | apply OutKeeps.next
      | apply OutKeeps.fault | apply OutKeeps.ite | assumption | intro u | apply whenManaged_keeps
      | apply State.ledgerWrite_keeps | refine OpKeeps.apply (memberNumberOp_keeps ..) ?_
      | apply memberNumberOp_keeps | dsimp only

theorem State.asStarted_keeps {s₀ s : State} (hk : Keeps s₀ s)  :
    Keeps s₀ (State.asStarted s) := by
  unfold State.asStarted
  try dsimp only
  with_reducible
    repeat'
      first
      | assumption | simp only [Keeps.mk_iff] | dsimp only

theorem State.endPlacing_keeps {s₀ s : State} (hk : Keeps s₀ s)  :
    Keeps s₀ (State.endPlacing s) := by
  unfold State.endPlacing
  try dsimp only
  with_reducible
    repeat'
      first
      | assumption | apply ite_keeps | apply ite_keeps_fst | apply ite_keeps_snd | apply State.placeStartUp_keeps
      | simp only [Keeps.mk_iff] | dsimp only

theorem State.placed_keeps {s₀ s : State} (hk : Keeps s₀ s) (slot : Nat) (scene : Bytes) (timeUs : Nat) (host : Bool) :
    Keeps s₀ (State.placed s slot scene timeUs host) := by
  unfold State.placed
  try dsimp only
  with_reducible
    repeat'
      first
      | assumption | apply ite_keeps | apply ite_keeps_fst | apply ite_keeps_snd | apply State.store_keeps
      | apply State.endPlacing_keeps | apply State.asStarted_keeps | apply State.placementResult_keeps
      | apply State.setBlob_keeps | apply State.record_keeps | apply State.storePlan_keeps
      | apply State.requestCommit_keeps | simp only [Keeps.mk_iff] | split | dsimp only

theorem State.dried_keeps {s₀ s : State} (hk : Keeps s₀ s) (scene : Bytes) (timeUs : Nat) :
    Keeps s₀ (State.dried s scene timeUs) := by
  unfold State.dried
  try dsimp only
  with_reducible
    repeat'
      first
      | assumption | apply State.endPlacing_keeps | apply State.asStarted_keeps | apply State.placementResult_keeps
      | simp only [Keeps.mk_iff] | split | dsimp only

theorem State.replanned_keeps {s₀ s : State} (hk : Keeps s₀ s) (p : Plan) :
    Keeps s₀ (State.replanned s p) := by
  unfold State.replanned
  try dsimp only
  with_reducible
    repeat'
      first
      | assumption | apply ite_keeps | apply ite_keeps_fst | apply ite_keeps_snd | apply State.draw_keeps
      | apply State.setBlob_keeps | apply State.bump_keeps | apply State.takeAuto_keeps
      | apply State.escalate_keeps | simp only [Keeps.mk_iff] | dsimp only

theorem State.autoPlaced_keeps {s₀ s : State} (hk : Keeps s₀ s) (scene : Bytes) (epoch : Nat) (timeUs : Nat) :
    Keeps s₀ (State.autoPlaced s scene epoch timeUs) := by
  unfold State.autoPlaced
  try dsimp only
  with_reducible
    repeat'
      first
      | assumption | apply ite_keeps | apply ite_keeps_fst | apply ite_keeps_snd | apply State.endPlacing_keeps
      | apply State.endRecovery_keeps | apply State.asStarted_keeps | apply State.replanned_keeps
      | apply State.askDomains_keeps | simp only [Keeps.mk_iff] | split | dsimp only

theorem State.startReplan_keeps {s₀ s : State} (hk : Keeps s₀ s)  :
    Keeps s₀ (State.startReplan s) := by
  unfold State.startReplan
  try dsimp only
  with_reducible
    repeat'
      first
      | assumption | apply ite_keeps | apply ite_keeps_fst | apply ite_keeps_snd | apply State.endRecovery_keeps
      | simp only [Keeps.mk_iff] | split | dsimp only

theorem State.moveEngine_keeps {s₀ s : State} (hk : Keeps s₀ s) (a : Nat) (b : Nat) :
    Keeps s₀ (State.moveEngine s a b) := by
  unfold State.moveEngine
  try dsimp only
  with_reducible
    repeat'
      first
      | assumption | apply State.setReg_keeps | simp only [Keeps.mk_iff] | dsimp only

theorem State.switchBack_keeps {s₀ s : State} (hk : Keeps s₀ s) (e : Nat) :
    Keeps s₀ (State.switchBack s e) := by
  unfold State.switchBack
  try dsimp only
  with_reducible
    repeat'
      first
      | assumption | apply State.endRecovery_keeps | apply State.moveEngine_keeps | apply State.setReg_keeps
      | apply State.setEngine_keeps | apply State.record_keeps | simp only [Keeps.mk_iff] | split | dsimp only

theorem State.switchBackAt_keeps {s₀ s : State} (hk : Keeps s₀ s) (o : Nat) (of : Nat) :
    Keeps s₀ (State.switchBackAt s o of) := by
  unfold State.switchBackAt
  try dsimp only
  with_reducible
    repeat'
      first
      | assumption | apply ite_keeps | apply ite_keeps_fst | apply ite_keeps_snd | apply State.switchBack_keeps
      | simp only [Keeps.mk_iff] | split | dsimp only

theorem State.startRecovery_keeps {s₀ s : State} (hk : Keeps s₀ s) (r : Recovery) :
    Keeps s₀ (State.startRecovery s r) := by
  unfold State.startRecovery
  try dsimp only
  with_reducible
    repeat'
      first
      | assumption | apply ite_keeps | apply ite_keeps_fst | apply ite_keeps_snd
      | apply State.enterEvacuation_keeps | apply State.startRetrain_keeps | apply State.switchBack_keeps
      | apply State.startLaneBack_keeps | simp only [Keeps.mk_iff] | split | dsimp only

theorem execPlace_keeps {s₀ s : State} (hk : Keeps s₀ s) (ss : Nat) (v : Nat) :
    OutKeeps s₀ (execPlace ss v s) := by
  unfold execPlace
  try dsimp only
  with_reducible
    repeat'
      first
      | assumption | apply whenManaged_keeps | apply whenLive_keeps | apply whenFabric_keeps | apply OutKeeps.next
      | apply OutKeeps.fault | apply OutKeeps.ite | assumption | intro u | apply whenManaged_keeps
      | apply State.ledgerWrite_keeps | refine OpKeeps.apply (placeOp_keeps ..) ?_ | apply placeOp_keeps
      | dsimp only

theorem execDryRun_keeps {s₀ s : State} (hk : Keeps s₀ s) (ss : Nat) :
    OutKeeps s₀ (execDryRun ss s) := by
  unfold execDryRun
  try dsimp only
  with_reducible
    repeat'
      first
      | assumption | apply whenManaged_keeps | apply whenLive_keeps | apply whenFabric_keeps | apply OutKeeps.next
      | apply OutKeeps.fault | apply OutKeeps.ite | assumption | intro u | apply whenManaged_keeps
      | apply State.ledgerWrite_keeps | refine OpKeeps.apply (placeOp_keeps ..) ?_ | apply placeOp_keeps
      | dsimp only

theorem execPlacementDone_keeps {s₀ s : State} (hk : Keeps s₀ s) (timeUs : Nat) :
    OutKeeps s₀ (execPlacementDone timeUs s) := by
  unfold execPlacementDone
  try dsimp only
  with_reducible
    repeat'
      first
      | assumption | apply whenManaged_keeps | apply whenLive_keeps | apply whenFabric_keeps | apply OutKeeps.next
      | apply OutKeeps.fault | apply OutKeeps.ite | assumption | intro u | apply ite_keeps | apply ite_keeps_fst
      | apply ite_keeps_snd | apply whenManaged_keeps | apply State.placed_keeps | apply State.dried_keeps
      | simp only [Keeps.mk_iff] | split | dsimp only

theorem execEmptySlot_keeps {s₀ s : State} (hk : Keeps s₀ s) (ss : Nat) (v : Nat) :
    OutKeeps s₀ (execEmptySlot ss v s) := by
  unfold execEmptySlot
  try dsimp only
  with_reducible
    repeat'
      first
      | assumption | apply whenManaged_keeps | apply whenLive_keeps | apply whenFabric_keeps | apply OutKeeps.next
      | apply OutKeeps.fault | apply OutKeeps.ite | assumption | intro u | apply whenManaged_keeps
      | apply State.ledgerWrite_keeps | refine OpKeeps.apply (emptySlotOp_keeps ..) ?_ | apply emptySlotOp_keeps
      | dsimp only

theorem execAutomaticReplanStart_keeps {s₀ s : State} (hk : Keeps s₀ s)  :
    OutKeeps s₀ (execAutomaticReplanStart s) := by
  unfold execAutomaticReplanStart
  try dsimp only
  with_reducible
    repeat'
      first
      | assumption | apply whenManaged_keeps | apply whenLive_keeps | apply whenFabric_keeps | apply OutKeeps.next
      | apply OutKeeps.fault | apply OutKeeps.ite | assumption | intro u | apply whenManaged_keeps
      | apply State.startReplan_keeps | dsimp only

theorem execAutomaticReplanDone_keeps {s₀ s : State} (hk : Keeps s₀ s) (timeUs : Nat) :
    OutKeeps s₀ (execAutomaticReplanDone timeUs s) := by
  unfold execAutomaticReplanDone
  try dsimp only
  with_reducible
    repeat'
      first
      | assumption | apply whenManaged_keeps | apply whenLive_keeps | apply whenFabric_keeps | apply OutKeeps.next
      | apply OutKeeps.fault | apply OutKeeps.ite | assumption | intro u | apply ite_keeps | apply ite_keeps_fst
      | apply ite_keeps_snd | apply whenManaged_keeps | apply State.autoPlaced_keeps | simp only [Keeps.mk_iff]
      | split | dsimp only

theorem execRecoveryActionStart_keeps {s₀ s : State} (hk : Keeps s₀ s)  :
    OutKeeps s₀ (execRecoveryActionStart s) := by
  unfold execRecoveryActionStart
  try dsimp only
  with_reducible
    repeat'
      first
      | assumption | apply whenManaged_keeps | apply whenLive_keeps | apply whenFabric_keeps | apply OutKeeps.next
      | apply OutKeeps.fault | apply OutKeeps.ite | assumption | intro u | apply ite_keeps | apply ite_keeps_fst
      | apply ite_keeps_snd | apply whenManaged_keeps | apply State.startRecovery_keeps | simp only [Keeps.mk_iff]
      | split | dsimp only

theorem testEngineOp_keeps : OpKeeps (testEngineOp) := by
  intro s₀ s ss i v h
  unfold testEngineOp
  try dsimp only
  with_reducible
    repeat'
      first
      | assumption | intro u | apply ite_keeps | apply ite_keeps_fst | apply ite_keeps_snd
      | apply State.setReg_keeps | simp only [Keeps.mk_iff] | dsimp only

theorem execTestEngine_keeps {s₀ s : State} (hk : Keeps s₀ s) (ss : Nat) (v : Nat) :
    OutKeeps s₀ (execTestEngine ss v s) := by
  unfold execTestEngine
  try dsimp only
  with_reducible
    repeat'
      first
      | assumption | apply whenManaged_keeps | apply whenLive_keeps | apply whenFabric_keeps | apply OutKeeps.next
      | apply OutKeeps.fault | apply OutKeeps.ite | assumption | intro u | apply whenManaged_keeps
      | apply State.ledgerWrite_keeps | refine OpKeeps.apply (testEngineOp_keeps ..) ?_ | apply testEngineOp_keeps
      | dsimp only

theorem State.endTest_keeps {s₀ s : State} (hk : Keeps s₀ s) (e : Nat) (passed : Bool) :
    Keeps s₀ (State.endTest s e passed) := by
  unfold State.endTest
  try dsimp only
  with_reducible
    repeat'
      first
      | assumption | apply ite_keeps | apply ite_keeps_fst | apply ite_keeps_snd | apply State.setReg_keeps
      | apply State.setEngine_keeps | apply State.advanceEpoch_keeps | simp only [Keeps.mk_iff] | dsimp only

theorem execEngineTestDone_keeps {s₀ s : State} (hk : Keeps s₀ s) (passed : Bool) :
    OutKeeps s₀ (execEngineTestDone passed s) := by
  unfold execEngineTestDone
  try dsimp only
  with_reducible
    repeat'
      first
      | assumption | apply whenManaged_keeps | apply whenLive_keeps | apply whenFabric_keeps | apply OutKeeps.next
      | apply OutKeeps.fault | apply OutKeeps.ite | assumption | intro u | apply whenManaged_keeps
      | apply State.endTest_keeps | simp only [Keeps.mk_iff] | split | dsimp only

theorem switchBackEngineOp_keeps : OpKeeps (switchBackEngineOp) := by
  intro s₀ s ss i v h
  unfold switchBackEngineOp
  try dsimp only
  with_reducible
    repeat'
      first
      | assumption | intro u | apply ite_keeps | apply ite_keeps_fst | apply ite_keeps_snd
      | simp only [Keeps.mk_iff] | dsimp only

theorem execSwitchBackEngine_keeps {s₀ s : State} (hk : Keeps s₀ s) (ss : Nat) (v : Nat) :
    OutKeeps s₀ (execSwitchBackEngine ss v s) := by
  unfold execSwitchBackEngine
  try dsimp only
  with_reducible
    repeat'
      first
      | assumption | apply whenManaged_keeps | apply whenLive_keeps | apply whenFabric_keeps | apply OutKeeps.next
      | apply OutKeeps.fault | apply OutKeeps.ite | assumption | intro u | apply whenManaged_keeps
      | apply State.ledgerWrite_keeps | refine OpKeeps.apply (switchBackEngineOp_keeps ..) ?_
      | apply switchBackEngineOp_keeps | dsimp only

theorem State.decideGroup_keeps {s₀ s : State} (hk : Keeps s₀ s) (c : State) (key : Nat) (of : Nat) (d : Nat) :
    Keeps s₀ (State.decideGroup s c key of d) := by
  unfold State.decideGroup
  try dsimp only
  with_reducible
    repeat'
      first
      | assumption | intro u | apply ite_keeps | apply ite_keeps_fst | apply ite_keeps_snd | apply foldl_keeps
      | apply foldl_keeps_fst | apply foldl_keeps_snd | apply State.lead_keeps | apply State.setGroup_keeps
      | apply State.record_keeps | simp only [Keeps.mk_iff] | split | dsimp only

theorem State.takeRefs_keeps {s₀ s : State} (hk : Keeps s₀ s) (draws : List Draw) :
    Keeps s₀ (State.takeRefs s draws) := by
  unfold State.takeRefs
  try dsimp only
  with_reducible
    repeat'
      first
      | assumption | intro u | apply foldl_keeps | apply foldl_keeps_fst | apply foldl_keeps_snd
      | apply State.draw_keeps | apply State.takeRef_keeps | simp only [Keeps.mk_iff] | split | dsimp only

theorem State.seal_keeps {s₀ s0 : State} (hk : Keeps s₀ s0) (o : Nat) :
    Keeps s₀ (State.seal s0 o) := by
  unfold State.seal
  try dsimp only
  with_reducible
    repeat'
      first
      | assumption | intro u | apply ite_keeps | apply ite_keeps_fst | apply ite_keeps_snd | apply foldl_keeps
      | apply foldl_keeps_fst | apply foldl_keeps_snd | apply State.draw_keeps | apply State.lockInFor_keeps
      | apply State.configAt_keeps | apply State.switchBackAt_keeps | apply State.decideGroup_keeps
      | apply State.takeRefs_keeps | apply State.setOutput_keeps | simp only [Keeps.mk_iff]
      | simp only [Keeps.mk_keys_iff] | split | dsimp only

theorem execSealPoint_keeps {s₀ s : State} (hk : Keeps s₀ s) (output : Fin 32) :
    OutKeeps s₀ (execSealPoint output s) := by
  unfold execSealPoint
  try dsimp only
  with_reducible
    repeat'
      first
      | assumption | apply whenManaged_keeps | apply whenLive_keeps | apply whenFabric_keeps | apply OutKeeps.next
      | apply OutKeeps.fault | apply OutKeeps.ite | assumption | intro u | apply ite_keeps | apply ite_keeps_fst
      | apply ite_keeps_snd | apply whenLive_keeps | apply State.seal_keeps | dsimp only

end Sys2Proof.Machine
end

