-- ==== Sys2Proof/Laws/KeepsOutputs.lean ====
section
/-! SUPPORT. The laws of `Keeps` for the operations of outputs, egress and faults: each keeps what `Keeps` lists, in the state
it leaves. -/

namespace Sys2Proof.Machine

set_option Elab.async false
set_option linter.unusedTactic false
set_option linter.unreachableTactic false

theorem State.outputEvent_keeps {s₀ s : State} (hk : Keeps s₀ s) (o : Nat) (bit : Nat) :
    Keeps s₀ (State.outputEvent s o bit) := by
  unfold State.outputEvent
  try dsimp only
  with_reducible
    repeat'
      first
      | assumption | apply ite_keeps | apply ite_keeps_fst | apply ite_keeps_snd | apply State.bump_keeps
      | apply State.setReg_keeps | apply State.send_keeps | dsimp only

theorem State.sendHeader_keeps {s₀ s : State} (hk : Keeps s₀ s) (o : Nat) (seq : Nat) (k : Bank) (again : Bool) (veil
    : Bool) :
    Keeps s₀ (State.sendHeader s o seq k again veil) := by
  unfold State.sendHeader
  try dsimp only
  with_reducible
    repeat'
      first
      | assumption | apply State.sendCellDue_keeps | dsimp only

theorem State.noteLimit_keeps {s₀ s : State} (hk : Keeps s₀ s) (o : Nat) (of : Nat) :
    Keeps s₀ (State.noteLimit s o of) := by
  unfold State.noteLimit
  try dsimp only
  with_reducible
    repeat'
      first
      | assumption | apply ite_keeps | apply ite_keeps_fst | apply ite_keeps_snd | apply State.setOutput_keeps
      | apply State.record_keeps | simp only [Keeps.mk_iff] | dsimp only

theorem State.noteTe_keeps {s₀ s : State} (hk : Keeps s₀ s) (o : Nat) (of : Nat) (c : Code) :
    Keeps s₀ (State.noteTe s o of c) := by
  unfold State.noteTe
  try dsimp only
  with_reducible
    repeat'
      first
      | assumption | apply State.recordEvery_keeps | dsimp only

theorem State.cutFrame_keeps {s₀ s : State} (hk : Keeps s₀ s) (o : Nat) :
    Keeps s₀ (State.cutFrame s o) := by
  unfold State.cutFrame
  try dsimp only
  with_reducible
    repeat'
      first
      | assumption | intro u | apply State.setPort_keeps | apply State.setOutput_keeps | apply State.bump_keeps
      | apply State.recordLimited_keeps | simp only [Keeps.mk_iff] | dsimp only

theorem State.closeFrame_keeps {s₀ s : State} (hk : Keeps s₀ s) (o : Nat) :
    Keeps s₀ (State.closeFrame s o) := by
  unfold State.closeFrame
  try dsimp only
  with_reducible
    repeat'
      first
      | assumption | intro u | apply ite_keeps | apply ite_keeps_fst | apply ite_keeps_snd | apply foldl_keeps
      | apply foldl_keeps_fst | apply foldl_keeps_snd | apply State.draw_keeps | apply State.setReg_keeps
      | apply State.cutFrame_keeps | apply State.bump_keeps | apply State.noteTe_keeps | dsimp only

theorem State.restartPlacing_keeps {s₀ s : State} (hk : Keeps s₀ s)  :
    Keeps s₀ (State.restartPlacing s) := by
  unfold State.restartPlacing
  try dsimp only
  with_reducible
    repeat'
      first
      | assumption | apply ite_keeps | apply ite_keeps_fst | apply ite_keeps_snd | simp only [Keeps.mk_iff] | split
      | dsimp only

theorem State.leaveSubst_keeps {s₀ s : State} (hk : Keeps s₀ s) (outs : List Nat) :
    Keeps s₀ (State.leaveSubst s outs) := by
  unfold State.leaveSubst
  try dsimp only
  with_reducible
    repeat'
      first
      | assumption | intro u | apply ite_keeps | apply ite_keeps_fst | apply ite_keeps_snd
      | apply State.setReg_keeps | apply State.restartPlacing_keeps | apply State.record_keeps
      | simp only [Keeps.mk_iff] | split | dsimp only

theorem State.openFrame_keeps {s₀ s : State} (hk : Keeps s₀ s) (o : Nat) (of : Nat) (kind : FrameKind) :
    Keeps s₀ (State.openFrame s o of kind) := by
  unfold State.openFrame
  try dsimp only
  with_reducible
    repeat'
      first
      | assumption | apply ite_keeps | apply ite_keeps_fst | apply ite_keeps_snd | apply State.underrun_keeps
      | apply State.setOutput_keeps | apply State.setReg_keeps | apply State.bump_keeps
      | apply State.sendHeader_keeps | apply State.send_keeps | simp only [Keeps.mk_iff] | dsimp only

theorem State.startFrame_keeps {s₀ s : State} (hk : Keeps s₀ s) (o : Nat) :
    Keeps s₀ (State.startFrame s o) := by
  unfold State.startFrame
  try dsimp only
  with_reducible
    repeat'
      first
      | assumption | apply ite_keeps | apply ite_keeps_fst | apply ite_keeps_snd | apply State.closeFrame_keeps
      | apply State.applyAt_keeps | apply State.switchBackAt_keeps | apply State.noteLimit_keeps
      | apply State.record_keeps | apply State.openFrame_keeps | apply State.leaveSubst_keeps
      | apply State.correctPhase_keeps | simp only [Keeps.mk_iff] | split | dsimp only

theorem State.noteFresh_keeps {s₀ s : State} (hk : Keeps s₀ s) (o : Nat) :
    Keeps s₀ (State.noteFresh s o) := by
  unfold State.noteFresh
  try dsimp only
  with_reducible
    repeat'
      first
      | assumption | apply ite_keeps | apply ite_keeps_fst | apply ite_keeps_snd | apply State.settleTakeover_keeps
      | simp only [Keeps.mk_iff] | dsimp only

theorem execOutputFrameStart_keeps {s₀ s : State} (hk : Keeps s₀ s) (output : Fin 32) :
    OutKeeps s₀ (execOutputFrameStart output s) := by
  unfold execOutputFrameStart
  try dsimp only
  with_reducible
    repeat'
      first
      | assumption | apply whenManaged_keeps | apply whenLive_keeps | apply whenFabric_keeps | apply OutKeeps.next
      | apply OutKeeps.fault | apply OutKeeps.ite | assumption | intro u | apply ite_keeps | apply ite_keeps_fst
      | apply ite_keeps_snd | apply whenLive_keeps | apply State.startFrame_keeps | apply State.settleCommits_keeps
      | apply State.reportApplied_keeps | apply State.noteFresh_keeps | apply State.settlePower_keeps | dsimp only

theorem execHoldLimitReached_keeps {s₀ s : State} (hk : Keeps s₀ s) (output : Fin 32) :
    OutKeeps s₀ (execHoldLimitReached output s) := by
  unfold execHoldLimitReached
  try dsimp only
  with_reducible
    repeat'
      first
      | assumption | apply whenManaged_keeps | apply whenLive_keeps | apply whenFabric_keeps | apply OutKeeps.next
      | apply OutKeeps.fault | apply OutKeeps.ite | assumption | intro u | apply ite_keeps | apply ite_keeps_fst
      | apply ite_keeps_snd | apply whenLive_keeps | apply State.noteLimit_keeps | dsimp only

theorem execLineMatch_keeps {s₀ s : State} (hk : Keeps s₀ s) (output : Fin 32) :
    OutKeeps s₀ (execLineMatch output s) := by
  unfold execLineMatch
  try dsimp only
  with_reducible
    repeat'
      first
      | assumption | apply whenManaged_keeps | apply whenLive_keeps | apply whenFabric_keeps | apply OutKeeps.next
      | apply OutKeeps.fault | apply OutKeeps.ite | assumption | intro u | apply ite_keeps | apply ite_keeps_fst
      | apply ite_keeps_snd | apply whenLive_keeps | apply State.setOutput_keeps | apply State.outputEvent_keeps
      | simp only [Keeps.mk_iff] | dsimp only

theorem State.finishSwage_keeps {s₀ s : State} (hk : Keeps s₀ s) (o : Nat) :
    Keeps s₀ (State.finishSwage s o) := by
  unfold State.finishSwage
  try dsimp only
  with_reducible
    repeat'
      first
      | assumption | intro u | apply ite_keeps | apply ite_keeps_fst | apply ite_keeps_snd | apply foldl_keeps
      | apply foldl_keeps_fst | apply foldl_keeps_snd | apply State.sendCellDue_keeps | apply State.setReg_keeps
      | apply State.setOutput_keeps | simp only [Keeps.mk_iff] | dsimp only

theorem execStartOfBlanking_keeps {s₀ s : State} (hk : Keeps s₀ s) (output : Fin 32) :
    OutKeeps s₀ (execStartOfBlanking output s) := by
  unfold execStartOfBlanking
  try dsimp only
  with_reducible
    repeat'
      first
      | assumption | apply whenManaged_keeps | apply whenLive_keeps | apply whenFabric_keeps | apply OutKeeps.next
      | apply OutKeeps.fault | apply OutKeeps.ite | assumption | intro u | apply ite_keeps | apply ite_keeps_fst
      | apply ite_keeps_snd | apply whenLive_keeps | apply State.setOutput_keeps | apply State.outputEvent_keeps
      | apply State.finishSwage_keeps | simp only [Keeps.mk_iff] | dsimp only

theorem State.sendLines_keeps {s₀ s : State} (hk : Keeps s₀ s) (o : Nat) :
    Keeps s₀ (State.sendLines s o) := by
  unfold State.sendLines
  try dsimp only
  with_reducible
    repeat'
      first
      | assumption | intro u | apply ite_keeps | apply ite_keeps_fst | apply ite_keeps_snd | apply foldl_keeps
      | apply foldl_keeps_fst | apply foldl_keeps_snd | apply State.send_keeps | simp only [Keeps.mk_iff] | split
      | dsimp only

theorem State.finishFrame_keeps {s₀ s : State} (hk : Keeps s₀ s) (o : Nat) :
    Keeps s₀ (State.finishFrame s o) := by
  unfold State.finishFrame
  try dsimp only
  with_reducible
    repeat'
      first
      | assumption | apply ite_keeps | apply ite_keeps_fst | apply ite_keeps_snd | apply State.store_keeps
      | apply State.hold_keeps | apply State.setReg_keeps | apply State.setOutput_keeps
      | apply State.storeHold_keeps | apply State.sendLines_keeps | apply State.send_keeps
      | apply State.outputEvent_keeps | simp only [Keeps.mk_iff] | split | dsimp only

theorem execFrameDone_keeps {s₀ s : State} (hk : Keeps s₀ s) (output : Fin 32) :
    OutKeeps s₀ (execFrameDone output s) := by
  unfold execFrameDone
  try dsimp only
  with_reducible
    repeat'
      first
      | assumption | apply whenManaged_keeps | apply whenLive_keeps | apply whenFabric_keeps | apply OutKeeps.next
      | apply OutKeeps.fault | apply OutKeeps.ite | assumption | intro u | apply ite_keeps | apply ite_keeps_fst
      | apply ite_keeps_snd | apply whenLive_keeps | apply State.finishFrame_keeps | dsimp only

theorem latchClearOp_keeps : OpKeeps (latchClearOp) := by
  intro s₀ s ss i v h
  unfold latchClearOp
  try dsimp only
  with_reducible
    repeat'
      first
      | assumption | intro u | apply foldl_keeps | apply foldl_keeps_fst | apply foldl_keeps_snd
      | apply State.setReg_keeps | dsimp only

theorem execEventLatchClear_keeps {s₀ s : State} (hk : Keeps s₀ s) (ss : Nat) (v : Nat) :
    OutKeeps s₀ (execEventLatchClear ss v s) := by
  unfold execEventLatchClear
  try dsimp only
  with_reducible
    repeat'
      first
      | assumption | apply whenManaged_keeps | apply whenLive_keeps | apply whenFabric_keeps | apply OutKeeps.next
      | apply OutKeeps.fault | apply OutKeeps.ite | assumption | intro u | apply whenManaged_keeps
      | apply State.ledgerWrite_keeps | refine OpKeeps.apply (latchClearOp_keeps ..) ?_ | apply latchClearOp_keeps
      | dsimp only

theorem execWitnessEchoTimeout_keeps {s₀ s : State} (hk : Keeps s₀ s) (output : Fin 32) (seq : Nat) :
    OutKeeps s₀ (execWitnessEchoTimeout output seq s) := by
  unfold execWitnessEchoTimeout
  try dsimp only
  with_reducible
    repeat'
      first
      | assumption | apply whenManaged_keeps | apply whenLive_keeps | apply whenFabric_keeps | apply OutKeeps.next
      | apply OutKeeps.fault | apply OutKeeps.ite | assumption | intro u | apply ite_keeps | apply ite_keeps_fst
      | apply ite_keeps_snd | apply whenLive_keeps | apply State.setOutput_keeps | apply State.witnessFail_keeps
      | simp only [Keeps.mk_iff] | split | dsimp only

theorem State.switchOff_keeps {s₀ s : State} (hk : Keeps s₀ s) (o : Nat) (d : Draw) (x : Nat) (y : Nat) (underran :
    Bool) :
    Keeps s₀ (State.switchOff s o d x y underran) := by
  unfold State.switchOff
  try dsimp only
  with_reducible
    repeat'
      first
      | assumption | intro u | apply ite_keeps | apply ite_keeps_fst | apply ite_keeps_snd | apply State.draw_keeps
      | apply State.setOutput_keeps | simp only [Keeps.mk_iff] | dsimp only

theorem State.switchOffNext_keeps {s₀ s : State} (hk : Keeps s₀ s) (o : Nat) (d : Draw) (underran : Bool) :
    Keeps s₀ (State.switchOffNext s o d underran) := by
  unfold State.switchOffNext
  try dsimp only
  with_reducible
    repeat'
      first
      | assumption | intro u | apply ite_keeps | apply ite_keeps_fst | apply ite_keeps_snd | apply State.draw_keeps
      | apply State.setOutput_keeps | simp only [Keeps.mk_iff] | dsimp only

theorem State.thirdUnderrun_keeps {s₀ s : State} (hk : Keeps s₀ s) (o : Nat) (inst : Nat) (of : Nat) (d : Draw) :
    Keeps s₀ (State.thirdUnderrun s o inst of d) := by
  unfold State.thirdUnderrun
  try dsimp only
  with_reducible
    repeat'
      first
      | assumption | apply ite_keeps | apply ite_keeps_fst | apply ite_keeps_snd | apply State.record_keeps
      | apply State.strikeRunning_keeps | apply State.triggerReplan_keeps | simp only [Keeps.mk_iff] | split
      | dsimp only

theorem State.noteUnderrun_keeps {s₀ s : State} (hk : Keeps s₀ s) (o : Nat) (d : Draw) (of : Nat) :
    Keeps s₀ (State.noteUnderrun s o d of) := by
  unfold State.noteUnderrun
  try dsimp only
  with_reducible
    repeat'
      first
      | assumption | apply ite_keeps | apply ite_keeps_fst | apply ite_keeps_snd | apply State.bump_keeps
      | apply State.record_keeps | apply State.underrun_keeps | apply State.setOutput_keeps
      | apply State.outputEvent_keeps | apply State.setReg_keeps | apply State.thirdUnderrun_keeps
      | simp only [Keeps.mk_iff] | dsimp only

theorem State.underrun_keeps {s₀ s : State} (hk : Keeps s₀ s) (o : Nat) (d : Draw) (x : Nat) (y : Nat) :
    Keeps s₀ (State.underrun s o d x y) := by
  unfold State.underrun
  try dsimp only
  with_reducible
    repeat'
      first
      | assumption | apply State.switchOff_keeps | apply State.noteUnderrun_keeps | dsimp only

theorem State.refuseLayer_keeps {s₀ s : State} (hk : Keeps s₀ s) (o : Nat) (d : Draw) :
    Keeps s₀ (State.refuseLayer s o d) := by
  unfold State.refuseLayer
  try dsimp only
  with_reducible
    repeat'
      first
      | assumption | apply ite_keeps | apply ite_keeps_fst | apply ite_keeps_snd | apply State.switchOffNext_keeps
      | apply State.noteUnderrun_keeps | apply State.underrun_keeps | dsimp only

theorem execLayerUnderrun_keeps {s₀ s : State} (hk : Keeps s₀ s) (engine : Fin 18) (layer : Fin 24) (x : Nat) (y :
    Nat) :
    OutKeeps s₀ (execLayerUnderrun engine layer x y s) := by
  unfold execLayerUnderrun
  try dsimp only
  with_reducible
    repeat'
      first
      | assumption | apply whenManaged_keeps | apply whenLive_keeps | apply whenFabric_keeps | apply OutKeeps.next
      | apply OutKeeps.fault | apply OutKeeps.ite | assumption | intro u | apply whenLive_keeps
      | apply State.underrun_keeps | simp only [Keeps.mk_iff] | split | dsimp only

theorem State.fillFrames_keeps {s₀ s : State} (hk : Keeps s₀ s) (line : Nat) (outs : List Nat) :
    Keeps s₀ (State.fillFrames s line outs) := by
  unfold State.fillFrames
  try dsimp only
  with_reducible
    repeat'
      first
      | assumption | intro u | apply ite_keeps | apply ite_keeps_fst | apply ite_keeps_snd | apply foldl_keeps
      | apply foldl_keeps_fst | apply foldl_keeps_snd | apply State.setOutput_keeps | simp only [Keeps.mk_iff]
      | dsimp only

theorem State.noReserve_keeps {s₀ s : State} (hk : Keeps s₀ s) (e : Nat) (outs : List Nat) (strikes : Bool) :
    Keeps s₀ (State.noReserve s e outs strikes) := by
  unfold State.noReserve
  try dsimp only
  with_reducible
    repeat'
      first
      | assumption | intro u | apply ite_keeps | apply ite_keeps_fst | apply ite_keeps_snd | apply foldl_keeps
      | apply foldl_keeps_fst | apply foldl_keeps_snd | apply State.record_keeps | apply State.setOutput_keeps
      | apply State.strike_keeps | apply State.triggerReplan_keeps | apply State.escalate_keeps
      | simp only [Keeps.mk_iff] | dsimp only

theorem State.serveFailed_keeps {s₀ s : State} (hk : Keeps s₀ s) (e : Nat) (outs : List Nat) (busy : Bool) (said :
    Bool) :
    Keeps s₀ (State.serveFailed s e outs busy said) := by
  unfold State.serveFailed
  try dsimp only
  with_reducible
    repeat'
      first
      | assumption | apply ite_keeps | apply ite_keeps_fst | apply ite_keeps_snd | apply State.noReserve_keeps
      | apply State.record_keeps | apply State.strike_keeps | simp only [Keeps.mk_iff] | split | dsimp only

theorem State.failEngine_keeps {s₀ s : State} (hk : Keeps s₀ s) (e : Nat) (cause : Nat) (line : Nat) :
    Keeps s₀ (State.failEngine s e cause line) := by
  unfold State.failEngine
  try dsimp only
  with_reducible
    repeat'
      first
      | assumption | intro u | apply ite_keeps | apply ite_keeps_fst | apply ite_keeps_snd
      | apply State.setReg_keeps | apply State.advanceEpoch_keeps | apply State.fillFrames_keeps
      | apply State.setEngine_keeps | apply State.abandonWriteback_keeps | apply State.restartPlacing_keeps
      | apply State.record_keeps | apply State.serveFailed_keeps | simp only [Keeps.mk_iff] | split | dsimp only

theorem State.serveWaiting_keeps {s₀ s : State} (hk : Keeps s₀ s)  :
    Keeps s₀ (State.serveWaiting s) := by
  unfold State.serveWaiting
  try dsimp only
  with_reducible
    repeat'
      first
      | assumption | intro u | apply ite_keeps | apply ite_keeps_fst | apply ite_keeps_snd | apply foldl_keeps
      | apply foldl_keeps_fst | apply foldl_keeps_snd | apply State.serveFailed_keeps | simp only [Keeps.mk_iff]
      | split | dsimp only

theorem execEngineFailure_keeps {s₀ s : State} (hk : Keeps s₀ s) (engine : Fin 18) (deadline : Bool) (line : Nat) :
    OutKeeps s₀ (execEngineFailure engine deadline line s) := by
  unfold execEngineFailure
  try dsimp only
  with_reducible
    repeat'
      first
      | assumption | apply whenManaged_keeps | apply whenLive_keeps | apply whenFabric_keeps | apply OutKeeps.next
      | apply OutKeeps.fault | apply OutKeeps.ite | assumption | intro u | apply ite_keeps | apply ite_keeps_fst
      | apply ite_keeps_snd | apply whenLive_keeps | apply State.failEngine_keeps | dsimp only

theorem State.armReserve_keeps {s₀ s : State} (hk : Keeps s₀ s) (x : Subst) (r : Nat) :
    Keeps s₀ (State.armReserve s x r) := by
  unfold State.armReserve
  try dsimp only
  with_reducible
    repeat'
      first
      | assumption | apply ite_keeps | apply ite_keeps_fst | apply ite_keeps_snd | apply State.moveEngine_keeps
      | apply State.setReg_keeps | apply State.leaveSubst_keeps | simp only [Keeps.mk_iff] | dsimp only

theorem execEngineSubstitutionArm_keeps {s₀ s : State} (hk : Keeps s₀ s) (engine : Fin 18) :
    OutKeeps s₀ (execEngineSubstitutionArm engine s) := by
  unfold execEngineSubstitutionArm
  try dsimp only
  with_reducible
    repeat'
      first
      | assumption | apply whenManaged_keeps | apply whenLive_keeps | apply whenFabric_keeps | apply OutKeeps.next
      | apply OutKeeps.fault | apply OutKeeps.ite | assumption | intro u | apply ite_keeps | apply ite_keeps_fst
      | apply ite_keeps_snd | apply whenManaged_keeps | apply State.armReserve_keeps
      | apply State.restartPlacing_keeps | apply State.noReserve_keeps | simp only [Keeps.mk_iff] | split
      | dsimp only

theorem State.noteLink_keeps {s₀ s : State} (hk : Keeps s₀ s) (o : Nat) (c : Code) :
    Keeps s₀ (State.noteLink s o c) := by
  unfold State.noteLink
  try dsimp only
  with_reducible
    repeat'
      first
      | assumption | apply State.record_keeps | dsimp only

theorem execHotPlugAssert_keeps {s₀ s : State} (hk : Keeps s₀ s) (port : Fin 8) (sinkRate : Fin 4) (sinkLink :
    SinkLink) (edid : Bytes) :
    OutKeeps s₀ (execHotPlugAssert port sinkRate sinkLink edid s) := by
  unfold execHotPlugAssert
  try dsimp only
  with_reducible
    repeat'
      first
      | assumption | apply whenManaged_keeps | apply whenLive_keeps | apply whenFabric_keeps | apply OutKeeps.next
      | apply OutKeeps.fault | apply OutKeeps.ite | assumption | intro u | apply ite_keeps | apply ite_keeps_fst
      | apply ite_keeps_snd | apply whenLive_keeps | apply State.trainDp_keeps | simp only [Keeps.mk_iff]
      | dsimp only

theorem execHotPlugLoss_keeps {s₀ s : State} (hk : Keeps s₀ s) (port : Fin 8) (lowUs : Nat) :
    OutKeeps s₀ (execHotPlugLoss port lowUs s) := by
  unfold execHotPlugLoss
  try dsimp only
  with_reducible
    repeat'
      first
      | assumption | apply whenManaged_keeps | apply whenLive_keeps | apply whenFabric_keeps | apply OutKeeps.next
      | apply OutKeeps.fault | apply OutKeeps.ite | assumption | intro u | apply ite_keeps | apply ite_keeps_fst
      | apply ite_keeps_snd | apply whenLive_keeps | apply State.setReg_keeps | apply State.breakFrames_keeps
      | apply State.noteLink_keeps | simp only [Keeps.mk_iff] | split | dsimp only

theorem execIrqHpd_keeps {s₀ s : State} (hk : Keeps s₀ s) (port : Fin 8) (linkLost : Bool) :
    OutKeeps s₀ (execIrqHpd port linkLost s) := by
  unfold execIrqHpd
  try dsimp only
  with_reducible
    repeat'
      first
      | assumption | apply whenManaged_keeps | apply whenLive_keeps | apply whenFabric_keeps | apply OutKeeps.next
      | apply OutKeeps.fault | apply OutKeeps.ite | assumption | intro u | apply ite_keeps | apply ite_keeps_fst
      | apply ite_keeps_snd | apply whenLive_keeps | apply State.trainDp_keeps | simp only [Keeps.mk_iff] | split
      | dsimp only

theorem execDpTrainingDone_keeps {s₀ s : State} (hk : Keeps s₀ s) (port : Fin 8) (result : TrainEnd) :
    OutKeeps s₀ (execDpTrainingDone port result s) := by
  unfold execDpTrainingDone
  try dsimp only
  with_reducible
    repeat'
      first
      | assumption | apply whenManaged_keeps | apply whenLive_keeps | apply whenFabric_keeps | apply OutKeeps.next
      | apply OutKeeps.fault | apply OutKeeps.ite | assumption | intro u | apply ite_keeps | apply ite_keeps_fst
      | apply ite_keeps_snd | apply whenLive_keeps | apply State.setReg_keeps | apply State.noteLink_keeps
      | simp only [Keeps.mk_iff] | split | dsimp only

theorem execDsiInitDone_keeps {s₀ s : State} (hk : Keeps s₀ s) (port : Fin 4) (acknowledged : Bool) :
    OutKeeps s₀ (execDsiInitDone port acknowledged s) := by
  unfold execDsiInitDone
  try dsimp only
  with_reducible
    repeat'
      first
      | assumption | apply whenManaged_keeps | apply whenLive_keeps | apply whenFabric_keeps | apply OutKeeps.next
      | apply OutKeeps.fault | apply OutKeeps.ite | assumption | intro u | apply ite_keeps | apply ite_keeps_fst
      | apply ite_keeps_snd | apply foldl_keeps | apply foldl_keeps_fst | apply foldl_keeps_snd
      | apply State.draw_keeps | apply whenLive_keeps | apply State.send_keeps | apply State.setReg_keeps
      | apply State.noteLink_keeps | simp only [Keeps.mk_iff] | split | dsimp only

theorem execTearingEffect_keeps {s₀ s : State} (hk : Keeps s₀ s) (port : Fin 4) :
    OutKeeps s₀ (execTearingEffect port s) := by
  unfold execTearingEffect
  try dsimp only
  with_reducible
    repeat'
      first
      | assumption | apply whenManaged_keeps | apply whenLive_keeps | apply whenFabric_keeps | apply OutKeeps.next
      | apply OutKeeps.fault | apply OutKeeps.ite | assumption | intro u | apply ite_keeps | apply ite_keeps_fst
      | apply ite_keeps_snd | apply whenLive_keeps | apply State.outputEvent_keeps | apply State.setOutput_keeps
      | apply State.setRegI_keeps | apply State.bump_keeps | apply State.noteTe_keeps | simp only [Keeps.mk_iff]
      | split | dsimp only

theorem tableOp_keeps : OpKeeps (tableOp) := by
  intro s₀ s ss i v h
  unfold tableOp
  try dsimp only
  with_reducible
    repeat'
      first
      | assumption | intro u | apply ite_keeps | apply ite_keeps_fst | apply ite_keeps_snd
      | apply State.setShadow_keeps | dsimp only

theorem execTableLoad_keeps {s₀ s : State} (hk : Keeps s₀ s) (ss : Nat) (blob : Bytes) :
    OutKeeps s₀ (execTableLoad ss blob s) := by
  unfold execTableLoad
  try dsimp only
  with_reducible
    repeat'
      first
      | assumption | apply whenManaged_keeps | apply whenLive_keeps | apply whenFabric_keeps | apply OutKeeps.next
      | apply OutKeeps.fault | apply OutKeeps.ite | assumption | intro u | apply whenManaged_keeps
      | apply State.ledgerWrite_keeps | refine OpKeeps.apply (tableOp_keeps ..) ?_ | apply tableOp_keeps
      | dsimp only

theorem State.oldestOrigin_keeps {s₀ s : State} (hk : Keeps s₀ s) (ds : List Draw) :
    Keeps s₀ (State.oldestOrigin s ds).2 := by
  unfold State.oldestOrigin
  try dsimp only
  with_reducible
    repeat'
      first
      | assumption | intro u | apply ite_keeps | apply ite_keeps_fst | apply ite_keeps_snd | apply foldl_keeps
      | apply foldl_keeps_fst | apply foldl_keeps_snd | apply State.draw_keeps | simp only [Keeps.mk_iff] | split
      | dsimp only

theorem State.startWriteback_keeps {s₀ s : State} (hk : Keeps s₀ s) (e : Nat) (o : Nat) (of : Nat) :
    Keeps s₀ (State.startWriteback s e o of) := by
  unfold State.startWriteback
  try dsimp only
  with_reducible
    repeat'
      first
      | assumption | apply State.draw_keeps | apply State.setEngine_keeps | apply State.applyFrozen_keeps
      | apply State.takeFree_keeps | apply State.abandonWriteback_keeps | apply State.oldestOrigin_keeps
      | apply State.setIngot_keeps | apply State.countFrom_keeps | apply State.countFrame_keeps
      | simp only [Keeps.mk_iff] | split | dsimp only

theorem execWritebackRegionStart_keeps {s₀ s : State} (hk : Keeps s₀ s) (engine : Fin 16) :
    OutKeeps s₀ (execWritebackRegionStart engine s) := by
  unfold execWritebackRegionStart
  try dsimp only
  with_reducible
    repeat'
      first
      | assumption | apply whenManaged_keeps | apply whenLive_keeps | apply whenFabric_keeps | apply OutKeeps.next
      | apply OutKeeps.fault | apply OutKeeps.ite | assumption | intro u | apply ite_keeps | apply ite_keeps_fst
      | apply ite_keeps_snd | apply whenLive_keeps | apply State.abandonWriteback_keeps
      | apply State.startWriteback_keeps | simp only [Keeps.mk_iff] | split | dsimp only

theorem State.endWriteback_keeps {s₀ s : State} (hk : Keeps s₀ s) (e : Nat) (o : Nat) (i : Nat) :
    Keeps s₀ (State.endWriteback s e o i) := by
  unfold State.endWriteback
  try dsimp only
  with_reducible
    repeat'
      first
      | assumption | intro u | apply ite_keeps | apply ite_keeps_fst | apply ite_keeps_snd | apply foldl_keeps
      | apply foldl_keeps_fst | apply foldl_keeps_snd | apply State.store_keeps | apply State.setIngot_keeps
      | apply State.setEngine_keeps | apply State.publish_keeps | simp only [Keeps.mk_iff] | split | dsimp only

theorem execWritebackRegionEnd_keeps {s₀ s : State} (hk : Keeps s₀ s) (engine : Fin 16) :
    OutKeeps s₀ (execWritebackRegionEnd engine s) := by
  unfold execWritebackRegionEnd
  try dsimp only
  with_reducible
    repeat'
      first
      | assumption | apply whenManaged_keeps | apply whenLive_keeps | apply whenFabric_keeps | apply OutKeeps.next
      | apply OutKeeps.fault | apply OutKeeps.ite | assumption | intro u | apply ite_keeps | apply ite_keeps_fst
      | apply ite_keeps_snd | apply whenLive_keeps | apply State.endWriteback_keeps | simp only [Keeps.mk_iff]
      | split | dsimp only

theorem State.loseWriteback_keeps {s₀ s : State} (hk : Keeps s₀ s) (e : Nat) (address : Nat) :
    Keeps s₀ (State.loseWriteback s e address) := by
  unfold State.loseWriteback
  try dsimp only
  with_reducible
    repeat'
      first
      | assumption | apply ite_keeps | apply ite_keeps_fst | apply ite_keeps_snd
      | apply State.abandonWriteback_keeps | dsimp only

theorem State.loseInbound_keeps {s₀ s : State} (hk : Keeps s₀ s) (p : Nat) (address : Nat) :
    Keeps s₀ (State.loseInbound s p address) := by
  unfold State.loseInbound
  try dsimp only
  with_reducible
    repeat'
      first
      | assumption | intro u | apply State.abandon_keeps | apply State.setRx_keeps | apply State.dropFrame_keeps
      | apply State.setPort_keeps | simp only [Keeps.mk_iff] | split | dsimp only

theorem State.loseStaging_keeps {s₀ s : State} (hk : Keeps s₀ s) (c : Nat) (address : Nat) :
    Keeps s₀ (State.loseStaging s c address) := by
  unfold State.loseStaging
  try dsimp only
  with_reducible
    repeat'
      first
      | assumption | apply State.setCtx_keeps | apply State.dropCamera_keeps | simp only [Keeps.mk_iff] | split
      | dsimp only

theorem State.loseFrame_keeps {s₀ s : State} (hk : Keeps s₀ s) (port : Nat) (address : Nat) :
    Keeps s₀ (State.loseFrame s port address) := by
  unfold State.loseFrame
  try dsimp only
  with_reducible
    repeat'
      first
      | assumption | intro u | apply ite_keeps | apply ite_keeps_fst | apply ite_keeps_snd | apply foldl_keeps
      | apply foldl_keeps_fst | apply foldl_keeps_snd | apply State.loseWriteback_keeps
      | apply State.loseInbound_keeps | apply State.loseStaging_keeps | apply State.abandonPipe_keeps | dsimp only

theorem State.loseRepeat_keeps {s₀ s : State} (hk : Keeps s₀ s) (port : Nat) (address : Nat) :
    Keeps s₀ (State.loseRepeat s port address) := by
  unfold State.loseRepeat
  try dsimp only
  with_reducible
    repeat'
      first
      | assumption | intro u | apply foldl_keeps | apply foldl_keeps_fst | apply foldl_keeps_snd
      | apply State.setOutput_keeps | apply State.setReg_keeps | apply State.record_keeps
      | simp only [Keeps.mk_iff] | dsimp only

theorem State.loseRequest_keeps {s₀ s : State} (hk : Keeps s₀ s) (port : Nat) (cls : Nat) (address : Nat) (scanCode :
    Code) :
    Keeps s₀ (State.loseRequest s port cls address scanCode) := by
  unfold State.loseRequest
  try dsimp only
  with_reducible
    repeat'
      first
      | assumption | intro u | apply ite_keeps | apply ite_keeps_fst | apply ite_keeps_snd | apply foldl_keeps
      | apply foldl_keeps_fst | apply foldl_keeps_snd | apply State.loseFrame_keeps | apply State.refuseLayer_keeps
      | apply State.loseRepeat_keeps | apply State.setPipe_keeps | apply State.failScan_keeps
      | simp only [Keeps.mk_iff] | dsimp only

theorem State.refuseRequest_keeps {s₀ s : State} (hk : Keeps s₀ s) (port : Nat) (r : FabReq) (c : Code) :
    Keeps s₀ (State.refuseRequest s port r c) := by
  unfold State.refuseRequest
  try dsimp only
  with_reducible
    repeat'
      first
      | assumption | apply State.refuseForm_keeps | apply State.loseRequest_keeps | dsimp only

theorem State.failLayer_keeps {s₀ s : State} (hk : Keeps s₀ s) (o : Nat) (d : Draw) (i : Nat) :
    Keeps s₀ (State.failLayer s o d i) := by
  unfold State.failLayer
  try dsimp only
  with_reducible
    repeat'
      first
      | assumption | apply ite_keeps | apply ite_keeps_fst | apply ite_keeps_snd | apply State.switchOffNext_keeps
      | apply State.switchOff_keeps | apply State.setIngot_keeps | simp only [Keeps.mk_iff] | dsimp only

theorem State.readError_keeps {s₀ s : State} (hk : Keeps s₀ s) (port : Nat) (cls : Nat) (address : Nat) (syndrome :
    Nat) :
    Keeps s₀ (State.readError s port cls address syndrome) := by
  unfold State.readError
  try dsimp only
  with_reducible
    repeat'
      first
      | assumption | intro u | apply ite_keeps | apply ite_keeps_fst | apply ite_keeps_snd | apply foldl_keeps
      | apply foldl_keeps_fst | apply foldl_keeps_snd | apply State.refuseAccess_keeps
      | apply State.logMemError_keeps | apply State.loseWriteback_keeps | apply State.failLayer_keeps
      | apply State.abandonPipe_keeps | apply State.loseRequest_keeps | simp only [Keeps.mk_iff] | split
      | dsimp only

theorem State.putHostRead_keeps {s₀ s : State} (hk : Keeps s₀ s) (old : HostRead) (new : HostRead) :
    Keeps s₀ (State.putHostRead s old new) := by
  unfold State.putHostRead
  try dsimp only
  with_reducible
    repeat'
      first
      | assumption | apply ite_keeps | apply ite_keeps_fst | apply ite_keeps_snd | simp only [Keeps.mk_iff]
      | dsimp only

theorem State.abortRead_keeps {s₀ s : State} (hk : Keeps s₀ s) (port : Nat) (r : FabReq) :
    Keeps s₀ (State.abortRead s port r) := by
  unfold State.abortRead
  try dsimp only
  with_reducible
    repeat'
      first
      | assumption | apply ite_keeps | apply ite_keeps_fst | apply ite_keeps_snd | apply State.send_keeps
      | apply State.putHostRead_keeps | simp only [Keeps.mk_iff] | split | dsimp only

theorem State.hostData_keeps {s₀ s : State} (hk : Keeps s₀ s) (r : FabReq) (bs : Bytes) :
    Keeps s₀ (State.hostData s r bs) := by
  unfold State.hostData
  try dsimp only
  with_reducible
    repeat'
      first
      | assumption | apply ite_keeps | apply ite_keeps_fst | apply ite_keeps_snd | apply State.putHostRead_keeps
      | apply State.send_keeps | simp only [Keeps.mk_iff] | split | dsimp only

theorem State.present_keeps {s₀ s : State} (hk : Keeps s₀ s) (port : Nat) (r : FabReq) :
    Keeps s₀ (State.present s port r) := by
  unfold State.present
  try dsimp only
  with_reducible
    repeat'
      first
      | assumption | apply ite_keeps | apply ite_keeps_fst | apply ite_keeps_snd | apply State.refuseRequest_keeps
      | apply State.abortRead_keeps | simp only [Keeps.mk_iff] | split | dsimp only

theorem execFabricRequest_keeps {s₀ s : State} (hk : Keeps s₀ s) (port : Fin 42) (r : FabReq) :
    OutKeeps s₀ (execFabricRequest port r s) := by
  unfold execFabricRequest
  try dsimp only
  with_reducible
    repeat'
      first
      | assumption | apply whenManaged_keeps | apply whenLive_keeps | apply whenFabric_keeps | apply OutKeeps.next
      | apply OutKeeps.fault | apply OutKeeps.ite | assumption | intro u | apply whenFabric_keeps
      | apply State.present_keeps | dsimp only

theorem State.askBurst_keeps {s₀ s : State} (hk : Keeps s₀ s) (u : Nat) :
    Keeps s₀ (State.askBurst s u) := by
  unfold State.askBurst
  try dsimp only
  with_reducible
    repeat'
      first
      | assumption | intro u | apply ite_keeps | apply ite_keeps_fst | apply ite_keeps_snd
      | apply State.present_keeps | apply State.request_keeps | dsimp only

theorem execFabricGrant_keeps {s₀ s : State} (hk : Keeps s₀ s) (target : Fin 25) :
    OutKeeps s₀ (execFabricGrant target s) := by
  unfold execFabricGrant
  try dsimp only
  with_reducible
    repeat'
      first
      | assumption | apply whenManaged_keeps | apply whenLive_keeps | apply whenFabric_keeps | apply OutKeeps.next
      | apply OutKeeps.fault | apply OutKeeps.ite | assumption | intro u | apply ite_keeps | apply ite_keeps_fst
      | apply ite_keeps_snd | apply foldl_keeps | apply foldl_keeps_fst | apply foldl_keeps_snd
      | apply whenFabric_keeps | apply State.dropItem_keeps | apply State.refuseRequest_keeps
      | apply State.abortRead_keeps | apply State.grantLock_keeps | apply State.settleEnded_keeps
      | apply State.grant_keeps | simp only [Keeps.mk_iff] | split | dsimp only

theorem State.deliverData_keeps {s₀ s : State} (hk : Keeps s₀ s) (x : FabItem) (bs : Bytes) :
    Keeps s₀ (State.deliverData s x bs) := by
  unfold State.deliverData
  try dsimp only
  with_reducible
    repeat'
      first
      | assumption | apply ite_keeps | apply ite_keeps_fst | apply ite_keeps_snd | apply State.hostData_keeps
      | apply State.foldBurst_keeps | apply State.askBurst_keeps | dsimp only

theorem State.completeItem_keeps {s₀ s : State} (hk : Keeps s₀ s) (x : FabItem) (corrected : Bool) :
    Keeps s₀ (State.completeItem s x corrected) := by
  unfold State.completeItem
  try dsimp only
  with_reducible
    repeat'
      first
      | assumption | apply ite_keeps | apply ite_keeps_fst | apply ite_keeps_snd | apply State.dropItem_keeps
      | apply State.countDone_keeps | apply State.moveData_keeps | apply State.afterService_keeps
      | apply State.noteCorrected_keeps | apply State.deliverData_keeps | dsimp only

theorem State.endItem_keeps {s₀ s : State} (hk : Keeps s₀ s) (x : FabItem) (result : MemEnd) :
    Keeps s₀ (State.endItem s x result) := by
  unfold State.endItem
  try dsimp only
  with_reducible
    repeat'
      first
      | assumption | apply ite_keeps | apply ite_keeps_fst | apply ite_keeps_snd | apply State.draw_keeps
      | apply State.completeItem_keeps | apply State.dropItem_keeps | apply State.refuseRequest_keeps
      | apply State.abortRead_keeps | apply State.afterService_keeps | apply State.readError_keeps
      | simp only [Keeps.mk_iff] | split | dsimp only

theorem execFabricCompletion_keeps {s₀ s : State} (hk : Keeps s₀ s) (target : Fin 25) (port : Fin 42) (id : Nat)
    (result : MemEnd) :
    OutKeeps s₀ (execFabricCompletion target port id result s) := by
  unfold execFabricCompletion
  try dsimp only
  with_reducible
    repeat'
      first
      | assumption | apply whenManaged_keeps | apply whenLive_keeps | apply whenFabric_keeps | apply OutKeeps.next
      | apply OutKeeps.fault | apply OutKeeps.ite | assumption | intro u | apply whenFabric_keeps
      | apply State.endItem_keeps | simp only [Keeps.mk_iff] | split | dsimp only

theorem execClassBRefusal_keeps {s₀ s : State} (hk : Keeps s₀ s) (port : Fin 42) (target : Fin 25) (id : Nat)
    (overflow : Bool) :
    OutKeeps s₀ (execClassBRefusal port target id overflow s) := by
  unfold execClassBRefusal
  try dsimp only
  with_reducible
    repeat'
      first
      | assumption | apply whenManaged_keeps | apply whenLive_keeps | apply whenFabric_keeps | apply OutKeeps.next
      | apply OutKeeps.fault | apply OutKeeps.ite | assumption | intro u | apply ite_keeps | apply ite_keeps_fst
      | apply ite_keeps_snd | apply whenFabric_keeps | apply State.dropItem_keeps | apply State.refuseAccess_keeps
      | apply State.noteRefusedB_keeps | apply State.loseFrame_keeps | simp only [Keeps.mk_iff] | split
      | dsimp only

theorem State.timeOut_keeps {s₀ s : State} (hk : Keeps s₀ s) (x : FabItem) :
    Keeps s₀ (State.timeOut s x) := by
  unfold State.timeOut
  try dsimp only
  with_reducible
    repeat'
      first
      | assumption | apply ite_keeps | apply ite_keeps_fst | apply ite_keeps_snd | apply State.dropItem_keeps
      | apply State.refuseAccess_keeps | apply State.recordLimited_keeps | apply State.loseRequest_keeps
      | apply State.abortRead_keeps | dsimp only

theorem execClassCTimeout_keeps {s₀ s : State} (hk : Keeps s₀ s) (port : Fin 42) (target : Fin 25) (id : Nat) :
    OutKeeps s₀ (execClassCTimeout port target id s) := by
  unfold execClassCTimeout
  try dsimp only
  with_reducible
    repeat'
      first
      | assumption | apply whenManaged_keeps | apply whenLive_keeps | apply whenFabric_keeps | apply OutKeeps.next
      | apply OutKeeps.fault | apply OutKeeps.ite | assumption | intro u | apply whenFabric_keeps
      | apply State.timeOut_keeps | simp only [Keeps.mk_iff] | split | dsimp only

theorem execReadUncorrectable_keeps {s₀ s : State} (hk : Keeps s₀ s) (port : Fin 42) (address : Nat) (syndrome : Nat) :
    OutKeeps s₀ (execReadUncorrectable port address syndrome s) := by
  unfold execReadUncorrectable
  try dsimp only
  with_reducible
    repeat'
      first
      | assumption | apply whenManaged_keeps | apply whenLive_keeps | apply whenFabric_keeps | apply OutKeeps.next
      | apply OutKeeps.fault | apply OutKeeps.ite | assumption | intro u | apply ite_keeps | apply ite_keeps_fst
      | apply ite_keeps_snd | apply whenFabric_keeps | apply State.dropItem_keeps | apply State.afterService_keeps
      | apply State.readError_keeps | apply State.abortRead_keeps | simp only [Keeps.mk_iff] | split | dsimp only

end Sys2Proof.Machine
end

