-- ==== Sys2Proof/Laws/KeepsPower.lean ====
section
/-! SUPPORT. The laws of `Keeps` for the operations of scans, power, the pair, reads and fuses: each keeps what `Keeps` lists, in the state
it leaves. -/

namespace Sys2Proof.Machine

set_option Elab.async false
set_option linter.unusedTactic false
set_option linter.unreachableTactic false

theorem State.beginScan_keeps {s₀ s : State} (hk : Keeps s₀ s) (u : Nat) (fresh : Bool) :
    Keeps s₀ (State.beginScan s u fresh).1 := by
  unfold State.beginScan
  try dsimp only
  with_reducible
    repeat'
      first
      | assumption | apply ite_keeps | apply ite_keeps_fst | apply ite_keeps_snd | apply State.setReg_keeps
      | apply State.setScan_keeps | apply State.takeRef_keeps | apply State.askBurst_keeps
      | simp only [Keeps.mk_iff] | split | dsimp only

theorem State.resumeScan_keeps {s₀ s : State} (hk : Keeps s₀ s) (u : Nat) :
    Keeps s₀ (State.resumeScan s u).1 := by
  unfold State.resumeScan
  try dsimp only
  with_reducible
    repeat'
      first
      | assumption | apply ite_keeps | apply ite_keeps_fst | apply ite_keeps_snd | apply State.takeRef_keeps
      | apply State.setReg_keeps | apply State.askBurst_keeps | simp only [Keeps.mk_iff] | split | dsimp only

theorem scanControlOp_keeps : OpKeeps (scanControlOp) := by
  intro s₀ s ss i v h
  unfold scanControlOp
  try dsimp only
  with_reducible
    repeat'
      first
      | assumption | intro u | apply ite_keeps | apply ite_keeps_fst | apply ite_keeps_snd
      | apply State.resumeScan_keeps | apply State.beginScan_keeps | apply State.setScan_keeps
      | simp only [Keeps.mk_iff] | dsimp only

theorem execStart_keeps {s₀ s : State} (hk : Keeps s₀ s) (ss : Nat) (v : Nat) :
    OutKeeps s₀ (execStart ss v s) := by
  unfold execStart
  try dsimp only
  with_reducible
    repeat'
      first
      | assumption | apply whenManaged_keeps | apply whenLive_keeps | apply whenFabric_keeps | apply OutKeeps.next
      | apply OutKeeps.fault | apply OutKeeps.ite | assumption | intro u | apply whenManaged_keeps
      | apply State.ledgerWrite_keeps | refine OpKeeps.apply (scanControlOp_keeps ..) ?_
      | apply scanControlOp_keeps | dsimp only

theorem execStartFresh_keeps {s₀ s : State} (hk : Keeps s₀ s) (ss : Nat) (v : Nat) :
    OutKeeps s₀ (execStartFresh ss v s) := by
  unfold execStartFresh
  try dsimp only
  with_reducible
    repeat'
      first
      | assumption | apply whenManaged_keeps | apply whenLive_keeps | apply whenFabric_keeps | apply OutKeeps.next
      | apply OutKeeps.fault | apply OutKeeps.ite | assumption | intro u | apply whenManaged_keeps
      | apply State.ledgerWrite_keeps | refine OpKeeps.apply (scanControlOp_keeps ..) ?_
      | apply scanControlOp_keeps | dsimp only

theorem execSuspend_keeps {s₀ s : State} (hk : Keeps s₀ s) (ss : Nat) (v : Nat) :
    OutKeeps s₀ (execSuspend ss v s) := by
  unfold execSuspend
  try dsimp only
  with_reducible
    repeat'
      first
      | assumption | apply whenManaged_keeps | apply whenLive_keeps | apply whenFabric_keeps | apply OutKeeps.next
      | apply OutKeeps.fault | apply OutKeeps.ite | assumption | intro u | apply whenManaged_keeps
      | apply State.ledgerWrite_keeps | refine OpKeeps.apply (scanControlOp_keeps ..) ?_
      | apply scanControlOp_keeps | dsimp only

theorem execAbortScan_keeps {s₀ s : State} (hk : Keeps s₀ s) (ss : Nat) (v : Nat) :
    OutKeeps s₀ (execAbortScan ss v s) := by
  unfold execAbortScan
  try dsimp only
  with_reducible
    repeat'
      first
      | assumption | apply whenManaged_keeps | apply whenLive_keeps | apply whenFabric_keeps | apply OutKeeps.next
      | apply OutKeeps.fault | apply OutKeeps.ite | assumption | intro u | apply whenManaged_keeps
      | apply State.ledgerWrite_keeps | refine OpKeeps.apply (scanControlOp_keeps ..) ?_
      | apply scanControlOp_keeps | dsimp only

theorem execScanBurstDone_keeps {s₀ s : State} (hk : Keeps s₀ s) (unit : Fin 4) (result : MemEnd) :
    OutKeeps s₀ (execScanBurstDone unit result s) := by
  unfold execScanBurstDone
  try dsimp only
  with_reducible
    repeat'
      first
      | assumption | apply whenManaged_keeps | apply whenLive_keeps | apply whenFabric_keeps | apply OutKeeps.next
      | apply OutKeeps.fault | apply OutKeeps.ite | assumption | intro u | apply ite_keeps | apply ite_keeps_fst
      | apply ite_keeps_snd | apply whenFabric_keeps | apply State.endItem_keeps | apply State.timeOut_keeps
      | simp only [Keeps.mk_iff] | split | dsimp only

theorem State.closeSessions_keeps {s₀ s : State} (hk : Keeps s₀ s) (which : Session → Bool) :
    Keeps s₀ (State.closeSessions s which) :=
  { hk with sessions := fun h => Nat.le_trans (List.length_filter_le _ _) (hk.sessions h) }

theorem State.closePcie_keeps {s₀ s : State} (hk : Keeps s₀ s)  :
    Keeps s₀ (State.closePcie s) := by
  unfold State.closePcie
  try dsimp only
  with_reducible
    repeat'
      first
      | assumption | apply State.closeSessions_keeps | dsimp only

theorem State.clearReady_keeps {s₀ s : State} (hk : Keeps s₀ s) (bit : Nat) :
    Keeps s₀ (State.clearReady s bit) := by
  unfold State.clearReady
  try dsimp only
  with_reducible
    repeat'
      first
      | assumption | apply State.setReg_keeps | dsimp only

theorem State.clearCrucible_keeps {s₀ s : State} (h : Keeps s₀ s) : Keeps s₀ (State.clearCrucible s) :=
  { h with mem := fun w => Memory.wf_filter _ (h.mem w) }

theorem State.setBanks_keeps {s₀ s : State} (hk : Keeps s₀ s) (st : Nat) :
    Keeps s₀ (State.setBanks s st) := by
  unfold State.setBanks
  try dsimp only
  with_reducible
    repeat'
      first
      | assumption | intro u | apply ite_keeps | apply ite_keeps_fst | apply ite_keeps_snd | apply foldl_keeps
      | apply foldl_keeps_fst | apply foldl_keeps_snd | apply State.setReg_keeps | apply State.advanceEpoch_keeps
      | dsimp only

theorem State.serveEthernet_keeps {s₀ s : State} (hk : Keeps s₀ s)  :
    Keeps s₀ (State.serveEthernet s) := by
  unfold State.serveEthernet
  try dsimp only
  with_reducible
    repeat'
      first
      | assumption | intro u | apply ite_keeps | apply ite_keeps_fst | apply ite_keeps_snd
      | apply State.setReady_keeps | dsimp only

theorem State.domainUp_keeps {s₀ s : State} (hk : Keeps s₀ s) (d : Nat) :
    Keeps s₀ (State.domainUp s d) := by
  unfold State.domainUp
  try dsimp only
  with_reducible
    repeat'
      first
      | assumption | intro u | apply ite_keeps | apply ite_keeps_fst | apply ite_keeps_snd | apply foldl_keeps
      | apply foldl_keeps_fst | apply foldl_keeps_snd | apply State.store_keeps | apply State.record_keeps
      | apply State.serveEthernet_keeps | apply State.setReg_keeps | apply State.setChan_keeps
      | apply State.tryStartPort_keeps | apply State.setReady_keeps | apply State.setBanks_keeps
      | simp only [Keeps.mk_iff] | split | dsimp only

theorem State.domainDown_keeps {s₀ s : State} (hk : Keeps s₀ s) (d : Nat) :
    Keeps s₀ (State.domainDown s d) := by
  unfold State.domainDown
  try dsimp only
  with_reducible
    repeat'
      first
      | assumption | intro u | apply foldl_keeps | apply foldl_keeps_fst | apply foldl_keeps_snd
      | apply State.setReg_keeps | apply State.clearReady_keeps | apply State.clearCrucible_keeps
      | apply State.setBanks_keeps | apply Keeps.dropLog | simp only [Keeps.mk_iff] | simp only [Keeps.mk_log_iff]
      | split | dsimp only

theorem State.losePortClock_keeps {s₀ s : State} (hk : Keeps s₀ s) (p : Nat) :
    Keeps s₀ (State.losePortClock s p) := by
  unfold State.losePortClock
  try dsimp only
  with_reducible
    repeat'
      first
      | assumption | intro u | apply ite_keeps | apply ite_keeps_fst | apply ite_keeps_snd | apply foldl_keeps
      | apply foldl_keeps_fst | apply foldl_keeps_snd | apply State.record_keeps | dsimp only

theorem State.strikeDomain_keeps {s₀ s : State} (hk : Keeps s₀ s) (d : Nat) :
    Keeps s₀ (State.strikeDomain s d) := by
  unfold State.strikeDomain
  try dsimp only
  with_reducible
    repeat'
      first
      | assumption | intro u | apply ite_keeps | apply ite_keeps_fst | apply ite_keeps_snd
      | apply State.strikeRunning_keeps | apply State.strike_keeps | apply State.restartPlacing_keeps
      | simp only [Keeps.mk_iff] | split | dsimp only

theorem State.domainLost_keeps {s₀ s0 : State} (hk : Keeps s₀ s0) (d : Nat) (c : Code) :
    Keeps s₀ (State.domainLost s0 d c) := by
  unfold State.domainLost
  try dsimp only
  with_reducible
    repeat'
      first
      | assumption | intro u | apply ite_keeps | apply ite_keeps_fst | apply ite_keeps_snd | apply foldl_keeps
      | apply foldl_keeps_fst | apply foldl_keeps_snd | apply State.strikeDomain_keeps
      | apply State.clearReady_keeps | apply State.setReg_keeps | apply State.settleDram_keeps
      | apply State.losePortClock_keeps | apply State.portDown_keeps | apply State.closePcie_keeps
      | apply State.clearCrucible_keeps | apply State.setBanks_keeps | apply Keeps.dropLog
      | simp only [Keeps.mk_iff] | simp only [Keeps.mk_log_iff] | split | dsimp only

theorem State.failFunctions_keeps {s₀ s : State} (hk : Keeps s₀ s) (d : Nat) (c : Code) :
    Keeps s₀ (State.failFunctions s d c) := by
  unfold State.failFunctions
  try dsimp only
  with_reducible
    repeat'
      first
      | assumption | intro u | apply foldl_keeps | apply foldl_keeps_fst | apply foldl_keeps_snd
      | apply State.setFailed_keeps | dsimp only

theorem State.failDomain_keeps {s₀ s : State} (hk : Keeps s₀ s) (d : Nat) (c : Code) :
    Keeps s₀ (State.failDomain s d c) := by
  unfold State.failDomain
  try dsimp only
  with_reducible
    repeat'
      first
      | assumption | apply State.setReg_keeps | apply State.record_keeps | apply State.failFunctions_keeps
      | apply State.domainLost_keeps | apply State.advanceEpoch_keeps | apply State.triggerReplan_keeps
      | dsimp only

theorem execDomainPowerGood_keeps {s₀ s : State} (hk : Keeps s₀ s) (domain : Fin 24) :
    OutKeeps s₀ (execDomainPowerGood domain s) := by
  unfold execDomainPowerGood
  try dsimp only
  with_reducible
    repeat'
      first
      | assumption | apply whenManaged_keeps | apply whenLive_keeps | apply whenFabric_keeps | apply OutKeeps.next
      | apply OutKeeps.fault | apply OutKeeps.ite | assumption | apply ite_keeps | apply ite_keeps_fst
      | apply ite_keeps_snd | apply State.setReg_keeps | apply State.domainUp_keeps | apply State.settlePower_keeps
      | dsimp only

theorem execDomainPowerTimeout_keeps {s₀ s : State} (hk : Keeps s₀ s) (domain : Fin 24) (pll : Bool) :
    OutKeeps s₀ (execDomainPowerTimeout domain pll s) := by
  unfold execDomainPowerTimeout
  try dsimp only
  with_reducible
    repeat'
      first
      | assumption | apply whenManaged_keeps | apply whenLive_keeps | apply whenFabric_keeps | apply OutKeeps.next
      | apply OutKeeps.fault | apply OutKeeps.ite | assumption | apply ite_keeps | apply ite_keeps_fst
      | apply ite_keeps_snd | apply State.failDomain_keeps | dsimp only

theorem execPowerGoodLoss_keeps {s₀ s : State} (hk : Keeps s₀ s) (domain : Fin 24) :
    OutKeeps s₀ (execPowerGoodLoss domain s) := by
  unfold execPowerGoodLoss
  try dsimp only
  with_reducible
    repeat'
      first
      | assumption | apply whenManaged_keeps | apply whenLive_keeps | apply whenFabric_keeps | apply OutKeeps.next
      | apply OutKeeps.fault | apply OutKeeps.ite | assumption | apply ite_keeps | apply ite_keeps_fst
      | apply ite_keeps_snd | apply State.failDomain_keeps | dsimp only

theorem execDomainHoldExpiry_keeps {s₀ s : State} (hk : Keeps s₀ s) (domain : Fin 24) :
    OutKeeps s₀ (execDomainHoldExpiry domain s) := by
  unfold execDomainHoldExpiry
  try dsimp only
  with_reducible
    repeat'
      first
      | assumption | apply whenManaged_keeps | apply whenLive_keeps | apply whenFabric_keeps | apply OutKeeps.next
      | apply OutKeeps.fault | apply OutKeeps.ite | assumption | apply ite_keeps | apply ite_keeps_fst
      | apply ite_keeps_snd | apply State.setReg_keeps | simp only [Keeps.mk_iff] | split | dsimp only

theorem execDomainPowerDownDone_keeps {s₀ s : State} (hk : Keeps s₀ s) (domain : Fin 24) :
    OutKeeps s₀ (execDomainPowerDownDone domain s) := by
  unfold execDomainPowerDownDone
  try dsimp only
  with_reducible
    repeat'
      first
      | assumption | apply whenManaged_keeps | apply whenLive_keeps | apply whenFabric_keeps | apply OutKeeps.next
      | apply OutKeeps.fault | apply OutKeeps.ite | assumption | apply ite_keeps | apply ite_keeps_fst
      | apply ite_keeps_snd | apply State.setReg_keeps | apply State.domainDown_keeps | apply State.bump_keeps
      | simp only [Keeps.mk_iff] | dsimp only

theorem forceOnOp_keeps : OpKeeps (forceOnOp) := by
  intro s₀ s ss i v h
  unfold forceOnOp
  try dsimp only
  with_reducible
    repeat'
      first
      | assumption | intro u | apply State.setReg_keeps | apply State.settlePower_keeps | dsimp only

theorem execForceOn_keeps {s₀ s : State} (hk : Keeps s₀ s) (ss : Nat) (v : Nat) :
    OutKeeps s₀ (execForceOn ss v s) := by
  unfold execForceOn
  try dsimp only
  with_reducible
    repeat'
      first
      | assumption | apply whenManaged_keeps | apply whenLive_keeps | apply whenFabric_keeps | apply OutKeeps.next
      | apply OutKeeps.fault | apply OutKeeps.ite | assumption | intro u | apply whenManaged_keeps
      | apply State.ledgerWrite_keeps | refine OpKeeps.apply (forceOnOp_keeps ..) ?_ | apply forceOnOp_keeps
      | dsimp only

theorem execMeasurementGate_keeps {s₀ s : State} (hk : Keeps s₀ s) (raw : List (BitVec 16)) :
    OutKeeps s₀ (execMeasurementGate raw s) := by
  unfold execMeasurementGate
  try dsimp only
  with_reducible
    repeat'
      first
      | assumption | apply whenManaged_keeps | apply whenLive_keeps | apply whenFabric_keeps | apply OutKeeps.next
      | apply OutKeeps.fault | apply OutKeeps.ite | assumption | intro u | apply ite_keeps | apply ite_keeps_fst
      | apply ite_keeps_snd | apply whenLive_keeps | apply State.setReg_keeps | apply State.bump_keeps
      | apply State.gate_keeps | apply State.settlePower_keeps | simp only [Keeps.mk_iff] | split | dsimp only

theorem execCrystalStable_keeps {s₀ s : State} (hk : Keeps s₀ s)  :
    OutKeeps s₀ (execCrystalStable s) := by
  unfold execCrystalStable
  try dsimp only
  with_reducible
    repeat'
      first
      | assumption | apply whenManaged_keeps | apply whenLive_keeps | apply whenFabric_keeps | apply OutKeeps.next
      | apply OutKeeps.fault | apply OutKeeps.ite | assumption | apply ite_keeps | apply ite_keeps_fst
      | apply ite_keeps_snd | apply State.setReg_keeps | apply State.record_keeps | apply State.settlePower_keeps
      | simp only [Keeps.mk_iff] | dsimp only

theorem execCrystalTimeout_keeps {s₀ s : State} (hk : Keeps s₀ s)  :
    OutKeeps s₀ (execCrystalTimeout s) := by
  unfold execCrystalTimeout
  try dsimp only
  with_reducible
    repeat'
      first
      | assumption | apply whenManaged_keeps | apply whenLive_keeps | apply whenFabric_keeps | apply OutKeeps.next
      | apply OutKeeps.fault | apply OutKeeps.ite | assumption | apply ite_keeps | apply ite_keeps_fst
      | apply ite_keeps_snd | apply State.record_keeps | simp only [Keeps.mk_iff] | dsimp only

theorem execRefclkLoss_keeps {s₀ s : State} (hk : Keeps s₀ s)  :
    OutKeeps s₀ (execRefclkLoss s) := by
  unfold execRefclkLoss
  try dsimp only
  with_reducible
    repeat'
      first
      | assumption | apply whenManaged_keeps | apply whenLive_keeps | apply whenFabric_keeps | apply OutKeeps.next
      | apply OutKeeps.fault | apply OutKeeps.ite | assumption | simp only [Keeps.mk_iff] | dsimp only

theorem State.endSwap_keeps {s₀ s : State} (hk : Keeps s₀ s)  :
    Keeps s₀ (State.endSwap s) := by
  unfold State.endSwap
  try dsimp only
  with_reducible
    repeat'
      first
      | assumption | intro u | simp only [Keeps.mk_iff] | dsimp only

theorem State.afterReset_keeps {s₀ s : State} (h : Keeps s₀ s) (cause : Nat) (retained : Bool) :
    Keeps s₀ (State.afterReset s cause retained) := by
  have hb : ∀ (sent pins pair key dry power), Keeps s₀ { State.reset with
      sent := sent, fuses := s.fuses, nvA := s.nvA, nvB := s.nvB, sinks := s.sinks, fresh := s.fresh, pending := s.pending
      pins := pins, pair := pair, keys := { key := key, dry := dry }, power := power } := fun _ _ _ _ _ _ =>
    ⟨h.pending, h.fuses, h.keys, fun _ => rfl, h.fresh, fun _ => Nat.zero_le _, fun _ => Nat.zero_le _,
      fun _ => Nat.zero_le _, fun _ => Nat.zero_le _, fun _ => Nat.zero_le _⟩
  have hf : ∀ (b : State) (xs : Tbl Nat), Keeps s₀ b →
      Keeps s₀ (xs.foldl (fun (t : State) p => { t with regs := Tbl.put t.regs p.1 p.2 }) b) := fun b xs hb =>
    foldl_keeps (fun u a hu => by simp only [Keeps.mk_iff]; exact hu) xs hb
  unfold State.afterReset
  dsimp only
  apply State.settlePower_keeps
  apply State.setReg_keeps
  apply State.setReg_keeps
  cases retained with
  | true => exact State.setReg_keeps (hf _ _ (hb ..)) _ _ _
  | false => exact hb ..

theorem State.deviceReset_keeps {s₀ s : State} (hk : Keeps s₀ s) (cause : Nat) :
    Keeps s₀ (State.deviceReset s cause) := by
  unfold State.deviceReset
  try dsimp only
  with_reducible
    repeat'
      first
      | assumption | apply State.afterReset_keeps | dsimp only

theorem execRefclkReturn_keeps {s₀ s : State} (hk : Keeps s₀ s)  :
    OutKeeps s₀ (execRefclkReturn s) := by
  unfold execRefclkReturn
  try dsimp only
  with_reducible
    repeat'
      first
      | assumption | apply whenManaged_keeps | apply whenLive_keeps | apply whenFabric_keeps | apply OutKeeps.next
      | apply OutKeeps.fault | apply OutKeeps.ite | assumption | apply ite_keeps | apply ite_keeps_fst
      | apply ite_keeps_snd | apply State.deviceReset_keeps | simp only [Keeps.mk_iff] | dsimp only

theorem State.powerOn_keeps {s₀ s : State} (hk : Keeps s₀ s)  :
    Keeps s₀ (State.powerOn s) := by
  unfold State.powerOn
  try dsimp only
  with_reducible
    repeat'
      first
      | assumption | apply ite_keeps | apply ite_keeps_fst | apply ite_keeps_snd | apply State.setSpareNv_keeps
      | apply State.afterReset_keeps | simp only [Keeps.mk_iff] | dsimp only

theorem execPowerOnReset_keeps {s₀ s : State} (hk : Keeps s₀ s)  :
    OutKeeps s₀ (execPowerOnReset s) := by
  unfold execPowerOnReset
  try dsimp only
  with_reducible
    repeat'
      first
      | assumption | apply whenManaged_keeps | apply whenLive_keeps | apply whenFabric_keeps | apply OutKeeps.next
      | apply OutKeeps.fault | apply OutKeeps.ite | assumption | apply State.powerOn_keeps | dsimp only

theorem execSysRstN_keeps {s₀ s : State} (hk : Keeps s₀ s) (lowNs : Nat) :
    OutKeeps s₀ (execSysRstN lowNs s) := by
  unfold execSysRstN
  try dsimp only
  with_reducible
    repeat'
      first
      | assumption | apply whenManaged_keeps | apply whenLive_keeps | apply whenFabric_keeps | apply OutKeeps.next
      | apply OutKeeps.fault | apply OutKeeps.ite | assumption | apply ite_keeps | apply ite_keeps_fst
      | apply ite_keeps_snd | apply State.deviceReset_keeps | dsimp only

theorem deviceResetOp_keeps : OpKeeps (deviceResetOp) := by
  intro s₀ s ss i v h
  unfold deviceResetOp
  try dsimp only
  with_reducible
    repeat'
      first
      | assumption | intro u | apply State.deviceReset_keeps | dsimp only

theorem execDeviceReset_keeps {s₀ s : State} (hk : Keeps s₀ s) (ss : Nat) (v : Nat) :
    OutKeeps s₀ (execDeviceReset ss v s) := by
  unfold execDeviceReset
  try dsimp only
  with_reducible
    repeat'
      first
      | assumption | apply whenManaged_keeps | apply whenLive_keeps | apply whenFabric_keeps | apply OutKeeps.next
      | apply OutKeeps.fault | apply OutKeeps.ite | assumption | intro u | apply whenManaged_keeps
      | apply State.ledgerWrite_keeps | refine OpKeeps.apply (deviceResetOp_keeps ..) ?_
      | apply deviceResetOp_keeps | dsimp only

theorem execPciePerst_keeps {s₀ s : State} (hk : Keeps s₀ s) (level : Bool) :
    OutKeeps s₀ (execPciePerst level s) := by
  unfold execPciePerst
  try dsimp only
  with_reducible
    repeat'
      first
      | assumption | apply whenManaged_keeps | apply whenLive_keeps | apply whenFabric_keeps | apply OutKeeps.next
      | apply OutKeeps.fault | apply OutKeeps.ite | assumption | apply ite_keeps | apply ite_keeps_fst
      | apply ite_keeps_snd | apply State.closePcie_keeps | apply State.setReg_keeps | apply State.clearReady_keeps
      | apply State.settlePower_keeps | apply State.setReady_keeps | simp only [Keeps.mk_iff]
      | simp only [Keeps.mk_acc_iff] | dsimp only

theorem execFunctionLevelReset_keeps {s₀ s : State} (hk : Keeps s₀ s)  :
    OutKeeps s₀ (execFunctionLevelReset s) := by
  unfold execFunctionLevelReset
  try dsimp only
  with_reducible
    repeat'
      first
      | assumption | apply whenManaged_keeps | apply whenLive_keeps | apply whenFabric_keeps | apply OutKeeps.next
      | apply OutKeeps.fault | apply OutKeeps.ite | assumption | apply whenLive_keeps | apply State.closePcie_keeps
      | dsimp only

theorem execPcieLinkChange_keeps {s₀ s : State} (hk : Keeps s₀ s) (generation : Fin 5) (width : Fin 9) :
    OutKeeps s₀ (execPcieLinkChange generation width s) := by
  unfold execPcieLinkChange
  try dsimp only
  with_reducible
    repeat'
      first
      | assumption | apply whenManaged_keeps | apply whenLive_keeps | apply whenFabric_keeps | apply OutKeeps.next
      | apply OutKeeps.fault | apply OutKeeps.ite | assumption | intro u | apply ite_keeps | apply ite_keeps_fst
      | apply ite_keeps_snd | apply whenLive_keeps | apply State.setReg_keeps | dsimp only

theorem execEthernetLinkChange_keeps {s₀ s : State} (hk : Keeps s₀ s) (port : Fin 2) (speed : Fin 4) :
    OutKeeps s₀ (execEthernetLinkChange port speed s) := by
  unfold execEthernetLinkChange
  try dsimp only
  with_reducible
    repeat'
      first
      | assumption | apply whenManaged_keeps | apply whenLive_keeps | apply whenFabric_keeps | apply OutKeeps.next
      | apply OutKeeps.fault | apply OutKeeps.ite | assumption | intro u | apply ite_keeps | apply ite_keeps_fst
      | apply ite_keeps_snd | apply whenLive_keeps | apply State.setReg_keeps | dsimp only

theorem State.noteSlot_keeps {s₀ s : State} (hk : Keeps s₀ s) (event : Nat) (c : Code) (k : Nat) :
    Keeps s₀ (State.noteSlot s event c k) := by
  unfold State.noteSlot
  try dsimp only
  with_reducible
    repeat'
      first
      | assumption | apply State.record_keeps | dsimp only

theorem State.startSlot_keeps {s₀ s : State} (hk : Keeps s₀ s) (k : Nat) :
    Keeps s₀ (State.startSlot s k) := by
  unfold State.startSlot
  try dsimp only
  with_reducible
    repeat'
      first
      | assumption | apply State.setReg_keeps | dsimp only

theorem State.loadSaved_keeps {s₀ s : State} (whole : State) (h : Keeps s₀ s) (slot : Nat) (v : Val) :
    Keeps s₀ (State.loadSaved whole s slot v) := by
  unfold State.loadSaved
  dsimp only
  split
  · exact h
  · split
    · exact State.record_keeps h _ _ _ _ _
    · split
      · exact State.setShadow_keeps h _ _ _
      · split
        · simp only [Keeps.mk_iff]; exact State.setActive_keeps h _ _ _
        · exact State.setActive_keeps h _ _ _

theorem State.loadStore_keeps {s₀ s : State} (hk : Keeps s₀ s)  :
    Keeps s₀ (State.loadStore s) := by
  unfold State.loadStore
  try dsimp only
  with_reducible
    repeat'
      first
      | assumption | intro u | apply ite_keeps | apply ite_keeps_fst | apply ite_keeps_snd | apply foldl_keeps
      | apply foldl_keeps_fst | apply foldl_keeps_snd | apply State.setReg_keeps | apply State.setBlob_keeps
      | apply State.loadSaved_keeps | apply State.setPairState_keeps | simp only [Keeps.mk_iff] | split
      | dsimp only

theorem State.recoverTally_keeps {s₀ s : State} (h : Keeps s₀ s) : Keeps s₀ (State.recoverTally s) := by
  unfold State.recoverTally
  split
  · exact h
  · dsimp only
    apply State.record_keeps
    exact ⟨h.pending, h.fuses.trans { Fuses.Extends.refl s.fuses with tally := List.prefix_append _ _ }, h.keys, h.mem, h.fresh,
        h.log, h.sessions, h.errors, h.tickets, h.records⟩

theorem State.romStart_keeps {s₀ s : State} (hk : Keeps s₀ s) (want : Nat) :
    Keeps s₀ (State.romStart s want) := by
  unfold State.romStart
  try dsimp only
  with_reducible
    repeat'
      first
      | assumption | apply ite_keeps | apply ite_keeps_fst | apply ite_keeps_snd | apply State.startSlot_keeps
      | apply State.noteSlot_keeps | apply State.endSwap_keeps | simp only [Keeps.mk_iff]
      | simp only [Keeps.mk_acc_iff] | dsimp only

theorem State.loadMemory_keeps {s₀ s : State} (hk : Keeps s₀ s)  :
    Keeps s₀ (State.loadMemory s) := by
  unfold State.loadMemory
  try dsimp only
  with_reducible
    repeat'
      first
      | assumption | intro u | apply ite_keeps | apply ite_keeps_fst | apply ite_keeps_snd | apply foldl_keeps
      | apply foldl_keeps_fst | apply foldl_keeps_snd | apply State.setReg_keeps | simp only [Keeps.mk_iff] | split
      | dsimp only

theorem State.bootUp_keeps {s₀ s : State} (hk : Keeps s₀ s)  :
    Keeps s₀ (State.bootUp s) := by
  unfold State.bootUp
  try dsimp only
  with_reducible
    repeat'
      first
      | assumption | apply State.recoverTally_keeps | apply State.loadMemory_keeps | apply State.loadStore_keeps
      | simp only [Keeps.mk_iff] | dsimp only

theorem execBootImageLoaded_keeps {s₀ s : State} (hk : Keeps s₀ s) (slotA : Bytes) (slotB : Bytes) :
    OutKeeps s₀ (execBootImageLoaded slotA slotB s) := by
  unfold execBootImageLoaded
  try dsimp only
  with_reducible
    repeat'
      first
      | assumption | apply whenManaged_keeps | apply whenLive_keeps | apply whenFabric_keeps | apply OutKeeps.next
      | apply OutKeeps.fault | apply OutKeeps.ite | assumption | apply ite_keeps | apply ite_keeps_fst
      | apply ite_keeps_snd | apply State.romStart_keeps | apply State.bootUp_keeps | apply State.settlePower_keeps
      | simp only [Keeps.mk_iff] | dsimp only

theorem State.servePaths_keeps {s₀ s : State} (hk : Keeps s₀ s)  :
    Keeps s₀ (State.servePaths s) := by
  unfold State.servePaths
  try dsimp only
  with_reducible
    repeat'
      first
      | assumption | apply ite_keeps | apply ite_keeps_fst | apply ite_keeps_snd | apply State.setReady_keeps
      | apply State.serveEthernet_keeps | apply State.record_keeps | apply State.lockTime_keeps
      | apply State.serveWaiting_keeps | simp only [Keeps.mk_iff] | dsimp only

theorem State.failSwap_keeps {s₀ s : State} (hk : Keeps s₀ s) (h : HandOff) :
    Keeps s₀ (State.failSwap s h) := by
  unfold State.failSwap
  try dsimp only
  with_reducible
    repeat'
      first
      | assumption | apply ite_keeps | apply ite_keeps_fst | apply ite_keeps_snd | apply State.noteSlot_keeps
      | apply State.romStart_keeps | simp only [Keeps.mk_iff] | dsimp only

theorem State.mainLoop_keeps {s₀ s : State} (hk : Keeps s₀ s) (handOffRead : Bool) :
    Keeps s₀ (State.mainLoop s handOffRead) := by
  unfold State.mainLoop
  try dsimp only
  with_reducible
    repeat'
      first
      | assumption | apply ite_keeps | apply ite_keeps_fst | apply ite_keeps_snd | apply State.endSwap_keeps
      | apply State.servePaths_keeps | apply State.failSwap_keeps | apply State.setReg_keeps
      | apply State.noteSlot_keeps | simp only [Keeps.mk_iff] | split | dsimp only

theorem execFirmwareStartTimeout_keeps {s₀ s : State} (hk : Keeps s₀ s)  :
    OutKeeps s₀ (execFirmwareStartTimeout s) := by
  unfold execFirmwareStartTimeout
  try dsimp only
  with_reducible
    repeat'
      first
      | assumption | apply whenManaged_keeps | apply whenLive_keeps | apply whenFabric_keeps | apply OutKeeps.next
      | apply OutKeeps.fault | apply OutKeeps.ite | assumption | apply ite_keeps | apply ite_keeps_fst
      | apply ite_keeps_snd | apply State.failSwap_keeps | simp only [Keeps.mk_iff] | split | dsimp only

theorem execManagementControllerStop_keeps {s₀ s : State} (hk : Keeps s₀ s)  :
    OutKeeps s₀ (execManagementControllerStop s) := by
  unfold execManagementControllerStop
  try dsimp only
  with_reducible
    repeat'
      first
      | assumption | apply whenManaged_keeps | apply whenLive_keeps | apply whenFabric_keeps | apply OutKeeps.next
      | apply OutKeeps.fault | apply OutKeeps.ite | assumption | intro u | apply whenManaged_keeps
      | apply State.clearReady_keeps | simp only [Keeps.mk_iff] | dsimp only

theorem execHearthWatchdogExpiry_keeps {s₀ s : State} (hk : Keeps s₀ s)  :
    OutKeeps s₀ (execHearthWatchdogExpiry s) := by
  unfold execHearthWatchdogExpiry
  try dsimp only
  with_reducible
    repeat'
      first
      | assumption | apply whenManaged_keeps | apply whenLive_keeps | apply whenFabric_keeps | apply OutKeeps.next
      | apply OutKeeps.fault | apply OutKeeps.ite | assumption | apply ite_keeps | apply ite_keeps_fst
      | apply ite_keeps_snd | apply State.deviceReset_keeps | simp only [Keeps.mk_iff] | split | dsimp only

theorem imageChunkOp_keeps : OpKeeps (imageChunkOp) := by
  intro s₀ s ss i v h
  unfold imageChunkOp
  try dsimp only
  with_reducible
    repeat'
      first
      | assumption | intro u | apply ite_keeps | apply ite_keeps_fst | apply ite_keeps_snd
      | apply State.setReg_keeps | simp only [Keeps.mk_iff] | dsimp only

theorem execImageChunk_keeps {s₀ s : State} (hk : Keeps s₀ s) (ss : Nat) (blob : Bytes) :
    OutKeeps s₀ (execImageChunk ss blob s) := by
  unfold execImageChunk
  try dsimp only
  with_reducible
    repeat'
      first
      | assumption | apply whenManaged_keeps | apply whenLive_keeps | apply whenFabric_keeps | apply OutKeeps.next
      | apply OutKeeps.fault | apply OutKeeps.ite | assumption | intro u | apply whenManaged_keeps
      | apply State.ledgerWrite_keeps | refine OpKeeps.apply (imageChunkOp_keeps ..) ?_ | apply imageChunkOp_keeps
      | dsimp only

theorem verifySlotOp_keeps : OpKeeps (verifySlotOp) := by
  intro s₀ s ss i v h
  unfold verifySlotOp
  try dsimp only
  with_reducible
    repeat'
      first
      | assumption | intro u | apply ite_keeps | apply ite_keeps_fst | apply ite_keeps_snd
      | apply State.setReg_keeps | simp only [Keeps.mk_iff] | dsimp only

theorem execVerifySlot_keeps {s₀ s : State} (hk : Keeps s₀ s) (ss : Nat) (v : Nat) :
    OutKeeps s₀ (execVerifySlot ss v s) := by
  unfold execVerifySlot
  try dsimp only
  with_reducible
    repeat'
      first
      | assumption | apply whenManaged_keeps | apply whenLive_keeps | apply whenFabric_keeps | apply OutKeeps.next
      | apply OutKeeps.fault | apply OutKeeps.ite | assumption | intro u | apply whenManaged_keeps
      | apply State.ledgerWrite_keeps | refine OpKeeps.apply (verifySlotOp_keeps ..) ?_ | apply verifySlotOp_keeps
      | dsimp only

theorem execVerifyDone_keeps {s₀ s : State} (hk : Keeps s₀ s)  :
    OutKeeps s₀ (execVerifyDone s) := by
  unfold execVerifyDone
  try dsimp only
  with_reducible
    repeat'
      first
      | assumption | apply whenManaged_keeps | apply whenLive_keeps | apply whenFabric_keeps | apply OutKeeps.next
      | apply OutKeeps.fault | apply OutKeeps.ite | assumption | intro u | apply ite_keeps | apply ite_keeps_fst
      | apply ite_keeps_snd | apply whenManaged_keeps | apply State.setReg_keeps | simp only [Keeps.mk_iff] | split
      | dsimp only

theorem State.swap_keeps {s₀ s : State} (hk : Keeps s₀ s) (dest : Nat) (back : Bool) :
    Keeps s₀ (State.swap s dest back) := by
  unfold State.swap
  try dsimp only
  with_reducible
    repeat'
      first
      | assumption | intro u | apply ite_keeps | apply ite_keeps_fst | apply ite_keeps_snd
      | apply State.closeSessions_keeps | apply State.clearReady_keeps | apply State.romStart_keeps
      | apply State.bootUp_keeps | apply State.settlePower_keeps | simp only [Keeps.mk_iff]
      | simp only [Keeps.mk_acc_iff] | dsimp only

theorem activateOp_keeps : OpKeeps (activateOp) := by
  intro s₀ s ss i v h
  unfold activateOp
  try dsimp only
  with_reducible
    repeat'
      first
      | assumption | intro u | apply ite_keeps | apply ite_keeps_fst | apply ite_keeps_snd | apply State.swap_keeps
      | dsimp only

theorem execActivate_keeps {s₀ s : State} (hk : Keeps s₀ s) (ss : Nat) (v : Nat) :
    OutKeeps s₀ (execActivate ss v s) := by
  unfold execActivate
  try dsimp only
  with_reducible
    repeat'
      first
      | assumption | apply whenManaged_keeps | apply whenLive_keeps | apply whenFabric_keeps | apply OutKeeps.next
      | apply OutKeeps.fault | apply OutKeeps.ite | assumption | intro u | apply whenManaged_keeps
      | apply State.ledgerWrite_keeps | refine OpKeeps.apply (activateOp_keeps ..) ?_ | apply activateOp_keeps
      | dsimp only

theorem confirmOp_keeps : OpKeeps (confirmOp) := by
  intro s₀ s ss i v h
  unfold confirmOp
  try dsimp only
  with_reducible
    repeat'
      first
      | assumption | intro u | apply ite_keeps | apply ite_keeps_fst | apply ite_keeps_snd
      | apply State.setReg_keeps | apply State.writeNv_keeps | simp only [Keeps.mk_iff] | dsimp only

theorem execConfirm_keeps {s₀ s : State} (hk : Keeps s₀ s) (ss : Nat) (v : Nat) :
    OutKeeps s₀ (execConfirm ss v s) := by
  unfold execConfirm
  try dsimp only
  with_reducible
    repeat'
      first
      | assumption | apply whenManaged_keeps | apply whenLive_keeps | apply whenFabric_keeps | apply OutKeeps.next
      | apply OutKeeps.fault | apply OutKeeps.ite | assumption | intro u | apply whenManaged_keeps
      | apply State.ledgerWrite_keeps | refine OpKeeps.apply (confirmOp_keeps ..) ?_ | apply confirmOp_keeps
      | dsimp only

theorem execTrialTimeout_keeps {s₀ s : State} (hk : Keeps s₀ s)  :
    OutKeeps s₀ (execTrialTimeout s) := by
  unfold execTrialTimeout
  try dsimp only
  with_reducible
    repeat'
      first
      | assumption | apply whenManaged_keeps | apply whenLive_keeps | apply whenFabric_keeps | apply OutKeeps.next
      | apply OutKeeps.fault | apply OutKeeps.ite | assumption | intro u | apply ite_keeps | apply ite_keeps_fst
      | apply ite_keeps_snd | apply whenManaged_keeps | apply State.noteSlot_keeps | apply State.swap_keeps
      | simp only [Keeps.mk_iff] | split | dsimp only

theorem execThermTrip_keeps {s₀ s : State} (hk : Keeps s₀ s)  :
    OutKeeps s₀ (execThermTrip s) := by
  unfold execThermTrip
  try dsimp only
  with_reducible
    repeat'
      first
      | assumption | apply whenManaged_keeps | apply whenLive_keeps | apply whenFabric_keeps | apply OutKeeps.next
      | apply OutKeeps.fault | apply OutKeeps.ite | assumption | simp only [Keeps.mk_iff] | dsimp only

theorem execThermTripRelease_keeps {s₀ s : State} (hk : Keeps s₀ s)  :
    OutKeeps s₀ (execThermTripRelease s) := by
  unfold execThermTripRelease
  try dsimp only
  with_reducible
    repeat'
      first
      | assumption | apply whenManaged_keeps | apply whenLive_keeps | apply whenFabric_keeps | apply OutKeeps.next
      | apply OutKeeps.fault | apply OutKeeps.ite | assumption | simp only [Keeps.mk_iff] | dsimp only

theorem State.becomeActive_keeps {s₀ s : State} (hk : Keeps s₀ s)  :
    Keeps s₀ (State.becomeActive s) := by
  unfold State.becomeActive
  try dsimp only
  with_reducible
    repeat'
      first
      | assumption | apply ite_keeps | apply ite_keeps_fst | apply ite_keeps_snd | apply State.enterActive_keeps
      | apply State.placeStartUp_keeps | simp only [Keeps.mk_iff] | dsimp only

theorem State.enterResync_keeps {s₀ s : State} (hk : Keeps s₀ s)  :
    Keeps s₀ (State.enterResync s) := by
  unfold State.enterResync
  try dsimp only
  with_reducible
    repeat'
      first
      | assumption | apply State.setPairState_keeps | simp only [Keeps.mk_iff] | dsimp only

theorem execPairDecide_keeps {s₀ s : State} (hk : Keeps s₀ s)  :
    OutKeeps s₀ (execPairDecide s) := by
  unfold execPairDecide
  try dsimp only
  with_reducible
    repeat'
      first
      | assumption | apply whenManaged_keeps | apply whenLive_keeps | apply whenFabric_keeps | apply OutKeeps.next
      | apply OutKeeps.fault | apply OutKeeps.ite | assumption | apply ite_keeps | apply ite_keeps_fst
      | apply ite_keeps_snd | apply State.enterResync_keeps | apply State.becomeActive_keeps | dsimp only

theorem State.parkPort_keeps {s₀ s : State} (hk : Keeps s₀ s) (p : Nat) :
    Keeps s₀ (State.parkPort s p) := by
  unfold State.parkPort
  try dsimp only
  with_reducible
    repeat'
      first
      | assumption | apply State.setPort_keeps | simp only [Keeps.mk_iff] | dsimp only

theorem State.fencePort_keeps {s₀ s : State} (hk : Keeps s₀ s) (p : Nat) :
    Keeps s₀ (State.fencePort s p) := by
  unfold State.fencePort
  try dsimp only
  with_reducible
    repeat'
      first
      | assumption | intro u | apply State.setPort_keeps | apply State.parkPort_keeps | simp only [Keeps.mk_iff]
      | dsimp only

theorem execPairActRise_keeps {s₀ s : State} (hk : Keeps s₀ s)  :
    OutKeeps s₀ (execPairActRise s) := by
  unfold execPairActRise
  try dsimp only
  with_reducible
    repeat'
      first
      | assumption | apply whenManaged_keeps | apply whenLive_keeps | apply whenFabric_keeps | apply OutKeeps.next
      | apply OutKeeps.fault | apply OutKeeps.ite | assumption | intro u | apply ite_keeps | apply ite_keeps_fst
      | apply ite_keeps_snd | apply foldl_keeps | apply foldl_keeps_fst | apply foldl_keeps_snd
      | apply State.fencePort_keeps | apply State.setPairState_keeps | apply State.record_keeps
      | simp only [Keeps.mk_iff] | dsimp only

theorem execHeartbeatSend_keeps {s₀ s : State} (hk : Keeps s₀ s) (mainLoop : Bool) :
    OutKeeps s₀ (execHeartbeatSend mainLoop s) := by
  unfold execHeartbeatSend
  try dsimp only
  with_reducible
    repeat'
      first
      | assumption | apply whenManaged_keeps | apply whenLive_keeps | apply whenFabric_keeps | apply OutKeeps.next
      | apply OutKeeps.fault | apply OutKeeps.ite | assumption | apply State.mainLoop_keeps
      | apply State.send_keeps | simp only [Keeps.mk_iff] | split | dsimp only

theorem State.notePartner_keeps {s₀ s : State} (hk : Keeps s₀ s) (now : Nat) :
    Keeps s₀ (State.notePartner s now) := by
  unfold State.notePartner
  try dsimp only
  with_reducible
    repeat'
      first
      | assumption | apply ite_keeps | apply ite_keeps_fst | apply ite_keeps_snd | apply State.setReg_keeps
      | apply State.setPairState_keeps | apply State.pushAll_keeps | simp only [Keeps.mk_iff] | split | dsimp only

theorem execHeartbeatPulse_keeps {s₀ s : State} (hk : Keeps s₀ s) (widthUs : Nat) :
    OutKeeps s₀ (execHeartbeatPulse widthUs s) := by
  unfold execHeartbeatPulse
  try dsimp only
  with_reducible
    repeat'
      first
      | assumption | apply whenManaged_keeps | apply whenLive_keeps | apply whenFabric_keeps | apply OutKeeps.next
      | apply OutKeeps.fault | apply OutKeeps.ite | assumption | apply ite_keeps | apply ite_keeps_fst
      | apply ite_keeps_snd | apply State.notePartner_keeps | simp only [Keeps.mk_iff] | split | dsimp only

theorem execPartnerHeartbeatAbsent_keeps {s₀ s : State} (hk : Keeps s₀ s)  :
    OutKeeps s₀ (execPartnerHeartbeatAbsent s) := by
  unfold execPartnerHeartbeatAbsent
  try dsimp only
  with_reducible
    repeat'
      first
      | assumption | apply whenManaged_keeps | apply whenLive_keeps | apply whenFabric_keeps | apply OutKeeps.next
      | apply OutKeeps.fault | apply OutKeeps.ite | assumption | apply ite_keeps | apply ite_keeps_fst
      | apply ite_keeps_snd | apply State.notePartner_keeps | simp only [Keeps.mk_iff] | dsimp only

theorem State.setSection_keeps {s₀ s : State} (hk : Keeps s₀ s) (copy : Nat) (k : Nat) (x : Section') :
    Keeps s₀ (State.setSection s copy k x) := by
  unfold State.setSection
  try dsimp only
  with_reducible
    repeat'
      first
      | assumption | apply ite_keeps | apply ite_keeps_fst | apply ite_keeps_snd | simp only [Keeps.mk_iff]
      | dsimp only

theorem State.bellowsError_keeps {s₀ s : State} (hk : Keeps s₀ s)  :
    Keeps s₀ (State.bellowsError s) := by
  unfold State.bellowsError
  try dsimp only
  with_reducible
    repeat'
      first
      | assumption | apply ite_keeps | apply ite_keeps_fst | apply ite_keeps_snd | apply State.bump_keeps
      | apply State.recordLimited_keeps | dsimp only

theorem State.onBellows_keeps {s₀ s : State} (hk : Keeps s₀ s) (frame : Bytes) (type : Nat) (f : State → State) (hf :
    ∀ u, Keeps s₀ u → Keeps s₀ (f u)) :
    Keeps s₀ (State.onBellows s frame type f) := by
  unfold State.onBellows
  try dsimp only
  with_reducible
    repeat'
      first
      | assumption | apply ite_keeps | apply ite_keeps_fst | apply ite_keeps_snd | apply State.bellowsError_keeps
      | apply hf | dsimp only

theorem State.takeSection_keeps {s₀ s : State} (hk : Keeps s₀ s) (frame : Bytes) :
    Keeps s₀ (State.takeSection s frame) := by
  unfold State.takeSection
  try dsimp only
  with_reducible
    repeat'
      first
      | assumption | apply ite_keeps | apply ite_keeps_fst | apply ite_keeps_snd | apply State.setSection_keeps
      | dsimp only

theorem execBellowsSectionData_keeps {s₀ s : State} (hk : Keeps s₀ s) (frame : Bytes) :
    OutKeeps s₀ (execBellowsSectionData frame s) := by
  unfold execBellowsSectionData
  try dsimp only
  with_reducible
    repeat'
      first
      | assumption | apply whenManaged_keeps | apply whenLive_keeps | apply whenFabric_keeps | apply OutKeeps.next
      | apply OutKeeps.fault | apply OutKeeps.ite | assumption | intro u | apply State.onBellows_keeps
      | apply State.takeSection_keeps | dsimp only

theorem State.selectHeader_keeps {s₀ s : State} (hk : Keeps s₀ s)  :
    Keeps s₀ (State.selectHeader s) := by
  unfold State.selectHeader
  try dsimp only
  with_reducible
    repeat'
      first
      | assumption | intro u | simp only [Keeps.mk_iff] | split | dsimp only

theorem State.takeCommitFrame_keeps {s₀ s : State} (hk : Keeps s₀ s) (frame : Bytes) :
    Keeps s₀ (State.takeCommitFrame s frame) := by
  unfold State.takeCommitFrame
  try dsimp only
  with_reducible
    repeat'
      first
      | assumption | intro u | apply ite_keeps | apply ite_keeps_fst | apply ite_keeps_snd
      | apply State.setReg_keeps | simp only [Keeps.mk_iff] | dsimp only

theorem State.takeTimeFrame_keeps {s₀ s : State} (hk : Keeps s₀ s) (frame : Bytes) :
    Keeps s₀ (State.takeTimeFrame s frame) := by
  unfold State.takeTimeFrame
  try dsimp only
  with_reducible
    repeat'
      first
      | assumption | apply ite_keeps | apply ite_keeps_fst | apply ite_keeps_snd | apply State.draw_keeps
      | simp only [Keeps.mk_iff] | dsimp only

theorem execBellowsTime_keeps {s₀ s : State} (hk : Keeps s₀ s) (frame : Bytes) :
    OutKeeps s₀ (execBellowsTime frame s) := by
  unfold execBellowsTime
  try dsimp only
  with_reducible
    repeat'
      first
      | assumption | apply whenManaged_keeps | apply whenLive_keeps | apply whenFabric_keeps | apply OutKeeps.next
      | apply OutKeeps.fault | apply OutKeeps.ite | assumption | intro u | apply State.onBellows_keeps
      | apply State.takeTimeFrame_keeps | dsimp only

theorem execPushTimer_keeps {s₀ s : State} (hk : Keeps s₀ s)  :
    OutKeeps s₀ (execPushTimer s) := by
  unfold execPushTimer
  try dsimp only
  with_reducible
    repeat'
      first
      | assumption | apply whenManaged_keeps | apply whenLive_keeps | apply whenFabric_keeps | apply OutKeeps.next
      | apply OutKeeps.fault | apply OutKeeps.ite | assumption | intro u | apply ite_keeps | apply ite_keeps_fst
      | apply ite_keeps_snd | apply whenManaged_keeps | apply State.send_keeps | apply State.pushSections_keeps
      | simp only [Keeps.mk_iff] | dsimp only

theorem State.imageLedger_keeps {s₀ s : State} (hk : Keeps s₀ s)  :
    Keeps s₀ (State.imageLedger s) := by
  unfold State.imageLedger
  try dsimp only
  with_reducible
    repeat'
      first
      | assumption | simp only [Keeps.mk_iff] | dsimp only

theorem State.installLedger_keeps {s₀ s : State} (hk : Keeps s₀ s)  :
    Keeps s₀ (State.installLedger s) := by
  unfold State.installLedger
  try dsimp only
  with_reducible
    repeat'
      first
      | assumption | apply State.imageLedger_keeps | refine OpKeeps.apply (timeSourceOp_keeps ..) ?_
      | apply timeSourceOp_keeps | apply State.setReg_keeps | dsimp only

theorem State.imageConfig_keeps {s₀ s : State} (hk : Keeps s₀ s)  :
    Keeps s₀ (State.imageConfig s) := by
  unfold State.imageConfig
  try dsimp only
  with_reducible
    repeat'
      first
      | assumption | apply ite_keeps | apply ite_keeps_fst | apply ite_keeps_snd | apply State.imageLedger_keeps
      | apply State.configPlan_keeps | simp only [Keeps.mk_iff] | split | dsimp only

theorem State.adoptPorts_keeps {s₀ s : State} (hk : Keeps s₀ s)  :
    Keeps s₀ (State.adoptPorts s) := by
  unfold State.adoptPorts
  try dsimp only
  with_reducible
    repeat'
      first
      | assumption | intro u | apply ite_keeps | apply ite_keeps_fst | apply ite_keeps_snd | apply foldl_keeps
      | apply foldl_keeps_fst | apply foldl_keeps_snd | apply State.imageConfig_keeps
      | apply State.tryStartPort_keeps | apply State.setFlag_keeps | apply State.settlePower_keeps | dsimp only

theorem execBellowsHeaderCommit_keeps {s₀ s : State} (hk : Keeps s₀ s) (frame : Bytes) :
    OutKeeps s₀ (execBellowsHeaderCommit frame s) := by
  unfold execBellowsHeaderCommit
  try dsimp only
  with_reducible
    repeat'
      first
      | assumption | apply whenManaged_keeps | apply whenLive_keeps | apply whenFabric_keeps | apply OutKeeps.next
      | apply OutKeeps.fault | apply OutKeeps.ite | assumption | intro u | apply State.onBellows_keeps
      | apply State.takeCommitFrame_keeps | apply State.adoptPorts_keeps | dsimp only

theorem State.declareLost_keeps {s₀ s : State} (hk : Keeps s₀ s)  :
    Keeps s₀ (State.declareLost s) := by
  unfold State.declareLost
  try dsimp only
  with_reducible
    repeat'
      first
      | assumption | intro u | apply foldl_keeps | apply foldl_keeps_fst | apply foldl_keeps_snd
      | apply State.setReg_keeps | apply State.bump_keeps | apply State.imageConfig_keeps
      | apply State.settleDomain_keeps | simp only [Keeps.mk_iff] | dsimp only

theorem execHeartbeatLoss_keeps {s₀ s : State} (hk : Keeps s₀ s)  :
    OutKeeps s₀ (execHeartbeatLoss s) := by
  unfold execHeartbeatLoss
  try dsimp only
  with_reducible
    repeat'
      first
      | assumption | apply whenManaged_keeps | apply whenLive_keeps | apply whenFabric_keeps | apply OutKeeps.next
      | apply OutKeeps.fault | apply OutKeeps.ite | assumption | apply ite_keeps | apply ite_keeps_fst
      | apply ite_keeps_snd | apply State.declareLost_keeps | dsimp only

theorem execBellowsYield_keeps {s₀ s : State} (hk : Keeps s₀ s) (frame : Bytes) :
    OutKeeps s₀ (execBellowsYield frame s) := by
  unfold execBellowsYield
  try dsimp only
  with_reducible
    repeat'
      first
      | assumption | apply whenManaged_keeps | apply whenLive_keeps | apply whenFabric_keeps | apply OutKeeps.next
      | apply OutKeeps.fault | apply OutKeeps.ite | assumption | intro u | apply ite_keeps | apply ite_keeps_fst
      | apply ite_keeps_snd | apply State.onBellows_keeps | apply State.declareLost_keeps | dsimp only

theorem State.seedTime_keeps {s₀ s : State} (hk : Keeps s₀ s) (hearthTicks : Nat) :
    Keeps s₀ (State.seedTime s hearthTicks) := by
  unfold State.seedTime
  try dsimp only
  with_reducible
    repeat'
      first
      | assumption | apply ite_keeps | apply ite_keeps_fst | apply ite_keeps_snd | apply State.draw_keeps
      | apply State.setReg_keeps | apply State.setRegI_keeps | apply State.record_keeps | simp only [Keeps.mk_iff]
      | split | dsimp only

theorem State.dropVolatile_keeps {s₀ s : State} (hk : Keeps s₀ s) : Keeps s₀ (State.dropVolatile s) :=
  { State.closeSessions_keeps hk fun _ => true with tickets := fun _ => Nat.zero_le _ }

theorem State.installViews_keeps {s₀ s : State} (hk : Keeps s₀ s)  :
    Keeps s₀ (State.installViews s) := by
  unfold State.installViews
  try dsimp only
  with_reducible
    repeat'
      first
      | assumption | intro u | simp only [Keeps.mk_iff] | dsimp only

theorem State.faultOutputs_keeps {s₀ s : State} (hk : Keeps s₀ s)  :
    Keeps s₀ (State.faultOutputs s) := by
  unfold State.faultOutputs
  try dsimp only
  with_reducible
    repeat'
      first
      | assumption | intro u | apply foldl_keeps | apply foldl_keeps_fst | apply foldl_keeps_snd
      | apply State.setOutput_keeps | simp only [Keeps.mk_iff] | dsimp only

theorem State.waitOutputs_keeps {s₀ s : State} (hk : Keeps s₀ s)  :
    Keeps s₀ (State.waitOutputs s) := by
  unfold State.waitOutputs
  try dsimp only
  with_reducible
    repeat'
      first
      | assumption | intro u | apply foldl_keeps | apply foldl_keeps_fst | apply foldl_keeps_snd
      | apply State.setOutput_keeps | simp only [Keeps.mk_iff] | dsimp only

theorem State.restorePort_keeps {s₀ s : State} (hk : Keeps s₀ s) (p : Nat) :
    Keeps s₀ (State.restorePort s p) := by
  unfold State.restorePort
  try dsimp only
  with_reducible
    repeat'
      first
      | assumption | intro u | apply foldl_keeps | apply foldl_keeps_fst | apply foldl_keeps_snd
      | apply State.setReg_keeps | apply State.setLane_keeps | apply State.setPort_keeps | simp only [Keeps.mk_iff]
      | split | dsimp only

theorem State.trainedRecord_keeps {s₀ s : State} (hk : Keeps s₀ s) (c : Nat) :
    Keeps s₀ (State.trainedRecord s c).2 := by
  unfold State.trainedRecord
  try dsimp only
  with_reducible
    repeat'
      first
      | assumption | apply State.draw_keeps | dsimp only

theorem State.writeOwn_keeps {s₀ s : State} (hk : Keeps s₀ s) (ports : List Nat) :
    Keeps s₀ (State.writeOwn s ports) := by
  unfold State.writeOwn
  try dsimp only
  with_reducible
    repeat'
      first
      | assumption | intro u | apply foldl_keeps | apply foldl_keeps_fst | apply foldl_keeps_snd
      | apply State.trainedRecord_keeps | simp only [Keeps.mk_iff] | dsimp only

theorem State.unparkPorts_keeps {s₀ s : State} (hk : Keeps s₀ s)  :
    Keeps s₀ (State.unparkPorts s) := by
  unfold State.unparkPorts
  try dsimp only
  with_reducible
    repeat'
      first
      | assumption | intro u | apply ite_keeps | apply ite_keeps_fst | apply ite_keeps_snd | apply foldl_keeps
      | apply foldl_keeps_fst | apply foldl_keeps_snd | apply State.store_keeps | apply State.setPort_keeps
      | apply State.restorePort_keeps | apply State.leaveBanked_keeps | apply State.tryStartPort_keeps
      | simp only [Keeps.mk_iff] | dsimp only

theorem State.installImage_keeps {s₀ s : State} (hk : Keeps s₀ s)  :
    Keeps s₀ (State.installImage s) := by
  unfold State.installImage
  try dsimp only
  with_reducible
    repeat'
      first
      | assumption | apply ite_keeps | apply ite_keeps_fst | apply ite_keeps_snd | apply State.applyEnables_keeps
      | apply State.faultOutputs_keeps | apply State.record_keeps | apply State.enterActive_keeps
      | apply State.installLedger_keeps | apply State.installViews_keeps | apply State.configPlan_keeps
      | apply State.installPlan_keeps | apply State.waitOutputs_keeps | simp only [Keeps.mk_iff] | split
      | dsimp only

theorem State.logLoss_keeps {s₀ s : State} (hk : Keeps s₀ s)  :
    Keeps s₀ (State.logLoss s) := by
  unfold State.logLoss
  try dsimp only
  with_reducible
    repeat'
      first
      | assumption | apply ite_keeps | apply ite_keeps_fst | apply ite_keeps_snd | apply State.recordAt_keeps
      | simp only [Keeps.mk_iff] | dsimp only

theorem execTakeoverReady_keeps {s₀ s : State} (hk : Keeps s₀ s) (hearthTicks : Nat) :
    OutKeeps s₀ (execTakeoverReady hearthTicks s) := by
  unfold execTakeoverReady
  try dsimp only
  with_reducible
    repeat'
      first
      | assumption | apply whenManaged_keeps | apply whenLive_keeps | apply whenFabric_keeps | apply OutKeeps.next
      | apply OutKeeps.fault | apply OutKeeps.ite | assumption | intro u | apply ite_keeps | apply ite_keeps_fst
      | apply ite_keeps_snd | apply whenLive_keeps | apply State.selectHeader_keeps | apply State.seedTime_keeps
      | apply State.setReady_keeps | apply State.logLoss_keeps | apply State.dropVolatile_keeps
      | apply State.installImage_keeps | apply State.unparkPorts_keeps | apply State.setReg_keeps
      | apply State.followTimePort_keeps | apply State.settleTakeover_keeps | apply State.settlePower_keeps
      | simp only [Keeps.mk_iff] | simp only [Keeps.mk_commits_iff] | dsimp only

theorem execTakeoverHoldLimit_keeps {s₀ s : State} (hk : Keeps s₀ s)  :
    OutKeeps s₀ (execTakeoverHoldLimit s) := by
  unfold execTakeoverHoldLimit
  try dsimp only
  with_reducible
    repeat'
      first
      | assumption | apply whenManaged_keeps | apply whenLive_keeps | apply whenFabric_keeps | apply OutKeeps.next
      | apply OutKeeps.fault | apply OutKeeps.ite | assumption | intro u | apply ite_keeps | apply ite_keeps_fst
      | apply ite_keeps_snd | apply whenLive_keeps | simp only [Keeps.mk_iff] | split | dsimp only

theorem execResyncDone_keeps {s₀ s : State} (hk : Keeps s₀ s)  :
    OutKeeps s₀ (execResyncDone s) := by
  unfold execResyncDone
  try dsimp only
  with_reducible
    repeat'
      first
      | assumption | apply whenManaged_keeps | apply whenLive_keeps | apply whenFabric_keeps | apply OutKeeps.next
      | apply OutKeeps.fault | apply OutKeeps.ite | assumption | intro u | apply ite_keeps | apply ite_keeps_fst
      | apply ite_keeps_snd | apply foldl_keeps | apply foldl_keeps_fst | apply foldl_keeps_snd
      | apply whenManaged_keeps | apply State.parkPort_keeps | apply State.writeOwn_keeps
      | apply State.setPairState_keeps | apply State.setReg_keeps | simp only [Keeps.mk_iff] | dsimp only

theorem handOverOp_keeps : OpKeeps (handOverOp) := by
  intro s₀ s ss i v h
  unfold handOverOp
  try dsimp only
  with_reducible
    repeat'
      first
      | assumption | intro u | apply ite_keeps | apply ite_keeps_fst | apply ite_keeps_snd
      | apply State.yieldPair_keeps | dsimp only

theorem execHandOver_keeps {s₀ s : State} (hk : Keeps s₀ s) (ss : Nat) (v : Nat) :
    OutKeeps s₀ (execHandOver ss v s) := by
  unfold execHandOver
  try dsimp only
  with_reducible
    repeat'
      first
      | assumption | apply whenManaged_keeps | apply whenLive_keeps | apply whenFabric_keeps | apply OutKeeps.next
      | apply OutKeeps.fault | apply OutKeeps.ite | assumption | intro u | apply whenManaged_keeps
      | apply State.ledgerWrite_keeps | refine OpKeeps.apply (handOverOp_keeps ..) ?_ | apply handOverOp_keeps
      | dsimp only

theorem State.fuseFailed_keeps {s₀ s : State} (hk : Keeps s₀ s) (key : Nat) :
    Keeps s₀ (State.fuseFailed s key).1 := by
  unfold State.fuseFailed
  try dsimp only
  with_reducible
    repeat'
      first
      | assumption | apply State.record_keeps | dsimp only

theorem State.limitedChange_keeps {s₀ s : State} (h : Keeps s₀ s) (key new left : Nat) (e : FuseEnd) {f : Fuses → Fuses}
    (hf : s.fuses.Extends (f s.fuses)) (hk : (f s.fuses).integratorKeys = s.fuses.integratorKeys) :
    Keeps s₀ (State.limitedChange s key new left e f).1 := by
  have hi : s₀.fuses.integratorKeys.length ≤ 4 → (f s.fuses).integratorKeys.length ≤ 4 := fun hs => by rw [hk]; exact h.keys hs
  unfold State.limitedChange
  dsimp only
  split
  · exact h
  · cases e with
    | failed => exact State.fuseFailed_keeps h key
    | powerLost =>
      exact ⟨h.pending, (h.fuses.trans hf).trans { Fuses.Extends.refl (f s.fuses) with tally := List.prefix_rfl }, hi, h.mem,
        h.fresh, h.log, h.sessions, h.errors, h.tickets, h.records⟩
    | verified =>
      apply State.record_keeps
      exact ⟨h.pending, (h.fuses.trans hf).trans { Fuses.Extends.refl (f s.fuses) with tally := List.prefix_append _ _ }, hi, h.mem,
        h.fresh, h.log, h.sessions, h.errors, h.tickets, h.records⟩

theorem policyOp_keeps (e : FuseEnd) : OpKeeps (policyOp e) := by
  intro s₀ s ss i v h
  unfold policyOp
  split
  · exact h
  · rename_i hn
    refine State.limitedChange_keeps h _ _ _ _ { Fuses.Extends.refl s.fuses with policy := ?_ } rfl
    intro b hb hp
    simp only [List.any_eq_true, List.mem_range, Bool.and_eq_true, Bool.not_eq_true', not_exists, not_and] at hn
    exact (Bool.not_eq_false _).mp (hn b hb hp)

theorem debugLockOp_keeps (e : FuseEnd) : OpKeeps (debugLockOp e) := by
  intro s₀ s ss i v h
  unfold debugLockOp
  split
  · exact h
  · rename_i hn
    refine State.limitedChange_keeps h _ _ _ _ { Fuses.Extends.refl s.fuses with debugLock := ?_ } rfl
    intro hp
    simpa [hp] using hn

theorem roleLockOp_keeps (e : FuseEnd) : OpKeeps (roleLockOp e) := by
  intro s₀ s ss i v h
  exact State.limitedChange_keeps h _ _ _ _ { Fuses.Extends.refl s.fuses with roleLocks := List.prefix_append _ _ } rfl

theorem wallAliasOp_keeps (e : FuseEnd) : OpKeeps (wallAliasOp e) := by
  intro s₀ s ss i v h
  have hr := State.limitedChange_keeps h 0x2800_04 v.n (7 - s.fuses.aliases.length) e
    (f := fun f => { f with aliases := f.aliases ++ [v.n] })
    { Fuses.Extends.refl s.fuses with aliases := List.prefix_append _ _ } rfl
  unfold wallAliasOp
  dsimp only
  split
  · exact hr
  · exact State.listen_keeps hr

theorem minSecurityOp_keeps (verified : Bool) : OpKeeps (minSecurityOp verified) := by
  intro s₀ s ss i v h
  unfold minSecurityOp
  split
  · exact h
  · rename_i hn
    split
    · exact h
    · split
      · exact State.fuseFailed_keeps h _
      · refine ⟨h.pending, h.fuses.trans { Fuses.Extends.refl s.fuses with minSecurity := ?_ }, h.keys, h.mem, h.fresh,
        h.log, h.sessions, h.errors, h.tickets, h.records⟩
        simp only [Bool.or_eq_true, decide_eq_true_eq, not_or] at hn
        exact Nat.le_of_not_lt hn.1

theorem revokeImageKeyOp_keeps (verified : Bool) : OpKeeps (revokeImageKeyOp verified) := by
  intro s₀ s ss i v h
  unfold revokeImageKeyOp
  split
  · exact h
  · split
    · exact h
    · split
      · exact State.fuseFailed_keeps h _
      · exact ⟨h.pending, h.fuses.trans { Fuses.Extends.refl s.fuses with imageKeys := fun _ => List.mem_cons_of_mem _ }, h.keys,
          h.mem, h.fresh, h.log, h.sessions, h.errors, h.tickets, h.records⟩

theorem programKeyOp_keeps (verified : Bool) : OpKeeps (programKeyOp verified) := by
  intro s₀ s ss i v h
  unfold programKeyOp
  split
  · exact h
  · rename_i hn
    split
    · exact State.fuseFailed_keeps h _
    · refine ⟨h.pending, h.fuses.trans { Fuses.Extends.refl s.fuses with integratorKeys := List.prefix_append _ _ }, ?_, h.mem,
        h.fresh, h.log, h.sessions, h.errors, h.tickets, h.records⟩
      intro _
      simp only [integratorSlots, Nat.not_le] at hn
      simp only [List.length_append, List.length_singleton]
      omega

theorem revokeKeyOp_keeps (verified : Bool) : OpKeeps (revokeKeyOp verified) := by
  intro s₀ s ss i v h
  unfold revokeKeyOp
  dsimp only
  split
  · exact h
  · split
    · exact h
    · split
      · exact State.fuseFailed_keeps h _
      · apply State.closeSessions_keeps
        exact ⟨h.pending, h.fuses.trans { Fuses.Extends.refl s.fuses with revoked := fun _ => List.mem_cons_of_mem _ }, h.keys,
          h.mem, h.fresh, h.log, h.sessions, h.errors, h.tickets, h.records⟩

theorem storeOp_keeps (key : Nat) (e : StoreEnd) : OpKeeps (storeOp key e) := by
  intro s₀ s ss i v h
  unfold storeOp
  try dsimp only
  with_reducible
    repeat'
      first
      | assumption | intro u | apply ite_keeps | apply ite_keeps_fst | apply ite_keeps_snd
      | apply State.writeNv_keeps | apply State.setActive_keeps | simp only [Keeps.mk_iff] | split | dsimp only

theorem saveConfigOp_keeps (e : StoreEnd) : OpKeeps (saveConfigOp e) := by
  intro s₀ s ss i v h
  unfold saveConfigOp
  try dsimp only
  with_reducible
    repeat'
      first
      | assumption | intro u | apply State.writeNv_keeps | simp only [Keeps.mk_iff] | split | dsimp only

theorem eraseConfigOp_keeps (e : StoreEnd) : OpKeeps (eraseConfigOp e) := by
  intro s₀ s ss i v h
  unfold eraseConfigOp
  try dsimp only
  with_reducible
    repeat'
      first
      | assumption | intro u | apply State.writeNv_keeps | simp only [Keeps.mk_iff] | split | dsimp only

theorem freely_keeps {α : Type} {yes no : α} {op : α → WriteOp} (hop : ∀ b, OpKeeps (op b)) : OpKeeps (freely yes no
    op) := by
  intro s₀ s ss i v h
  exact (hop _).apply (State.draw_keeps h)

end Sys2Proof.Machine
end

