-- ==== Sys2Proof/Laws/KeepsLedger.lean ====
section
/-! SUPPORT. The laws of `Keeps` for the operations of ledger requests, paths and idling: each keeps what `Keeps` lists, in the state
it leaves. -/

namespace Sys2Proof.Machine

set_option Elab.async false
set_option linter.unusedTactic false
set_option linter.unreachableTactic false

theorem trustOp_keeps : OpKeeps (trustOp) := by
  intro s₀ s ss i v h
  unfold trustOp
  try dsimp only
  with_reducible
    repeat'
      first
      | assumption | intro u | apply ite_keeps | apply ite_keeps_fst | apply ite_keeps_snd
      | apply State.setReg_keeps | apply State.startListening_keeps | apply State.followTimePort_keeps | dsimp only

theorem polarityOp_keeps : OpKeeps (polarityOp) := by
  intro s₀ s ss i v h
  unfold polarityOp
  try dsimp only
  with_reducible
    repeat'
      first
      | assumption | intro u | apply State.setReg_keeps | dsimp only

theorem spareOp_keeps : OpKeeps (spareOp) := by
  intro s₀ s ss i v h
  unfold spareOp
  try dsimp only
  with_reducible
    repeat'
      first
      | assumption | intro u | apply State.setReg_keeps | apply State.settlePower_keeps | dsimp only

theorem ptpPortsOp_keeps : OpKeeps (ptpPortsOp) := by
  intro s₀ s ss i v h
  unfold ptpPortsOp
  try dsimp only
  with_reducible
    repeat'
      first
      | assumption | intro u | apply State.setReg_keeps | apply State.settlePower_keeps | dsimp only

theorem ledgerOpA_keeps {key : Nat} {op : WriteOp} (h : ledgerOpA key = some op) : OpKeeps op := by
  unfold ledgerOpA at h
  split at h
  all_goals first
    | (injection h with h; subst h)
    | (injection h)
  all_goals with_reducible first
    | exact deviceResetOp_keeps | exact publishOp_keeps | exact releaseOp_keeps | exact acquireOp_keeps
    | exact placeOp_keeps | exact memberNumberOp_keeps | exact emptySlotOp_keeps
    | exact freely_keeps wallAliasOp_keeps | exact commitOp_keeps | exact cancelOp_keeps | exact discardOp_keeps
    | exact tableOp_keeps | exact latchClearOp_keeps | exact hostTransferOp_keeps | exact profileOp_keeps
    | exact temperOp_keeps | exact polarityOp_keeps | exact laneTestOp_keeps _ | exact retrainOp_keeps
    | exact spareOp_keeps | exact trustOp_keeps | exact rateOp_keeps | exact offsetOp_keeps | exact stepOp_keeps
    | exact hostTimeStateOp_keeps | exact timeSourceOp_keeps | exact ptpPortsOp_keeps

theorem ledgerOpB_keeps {key : Nat} {op : WriteOp} (h : ledgerOpB key = some op) : OpKeeps op := by
  unfold ledgerOpB at h
  split at h
  all_goals first
    | (injection h with h; subst h)
    | (injection h)
  all_goals with_reducible first
    | exact clearOutcomesOp_keeps | exact channelOp_keeps | exact handOverOp_keeps
    | exact switchBackEngineOp_keeps | exact testEngineOp_keeps | exact switchBackLaneOp_keeps
    | exact saveBaselinesOp_keeps | exact scanFieldOp_keeps _ | exact scanControlOp_keeps | exact forceOnOp_keeps
    | exact imageChunkOp_keeps | exact verifySlotOp_keeps | exact activateOp_keeps | exact confirmOp_keeps
    | exact freely_keeps saveConfigOp_keeps | exact freely_keeps eraseConfigOp_keeps
    | exact freely_keeps debugLockOp_keeps | exact freely_keeps policyOp_keeps
    | exact freely_keeps roleLockOp_keeps | exact freely_keeps minSecurityOp_keeps
    | exact freely_keeps revokeImageKeyOp_keeps | exact freely_keeps programKeyOp_keeps
    | exact freely_keeps revokeKeyOp_keeps

theorem ledgerOp_keeps (key : Nat) : OpKeeps (ledgerOp key) := by
  unfold ledgerOp
  split
  · exact ledgerOpA_keeps ‹_›
  · split
    · exact ledgerOpB_keeps ‹_›
    · split
      · exact freely_keeps (storeOp_keeps key)
      · exact writePlain_keeps key

theorem storeRow_keeps (key : Nat) (e : StoreEnd) : OpKeeps (storeRow key e) := by
  intro s₀ s ss i v h
  unfold storeRow
  try dsimp only
  with_reducible
    repeat'
      first
      | assumption | apply ite_keeps | apply ite_keeps_fst | apply ite_keeps_snd | apply State.store_keeps
      | refine OpKeeps.apply (saveConfigOp_keeps ..) ?_ | apply saveConfigOp_keeps
      | refine OpKeeps.apply (eraseConfigOp_keeps ..) ?_ | apply eraseConfigOp_keeps
      | refine OpKeeps.apply (storeOp_keeps ..) ?_ | apply storeOp_keeps
      | refine OpKeeps.apply (ledgerOp_keeps ..) ?_ | apply ledgerOp_keeps | simp only [Keeps.mk_iff] | split
      | dsimp only

theorem State.cutWrite_keeps {s₀ s : State} (hk : Keeps s₀ s) (ss : Nat) (key : Nat) (v : Val) (op : WriteOp) (hop :
    OpKeeps op) :
    Keeps s₀ (State.cutWrite s ss key v op) := by
  unfold State.cutWrite
  try dsimp only
  with_reducible
    repeat'
      first
      | assumption | apply ite_keeps | apply ite_keeps_fst | apply ite_keeps_snd | apply State.tryWrite_keeps
      | apply State.powerOn_keeps | apply State.reply_keeps | refine OpKeeps.apply hop ?_ | dsimp only

theorem State.hold_keeps {s₀ s : State} (hk : Keeps s₀ s) (h : HeldWrite) :
    Keeps s₀ (State.hold s h) := by
  unfold State.hold
  try dsimp only
  with_reducible
    repeat'
      first
      | assumption | simp only [Keeps.mk_iff] | simp only [Keeps.mk_acc_iff] | dsimp only

theorem State.storeWrite_keeps {s₀ s : State} (hk : Keeps s₀ s) (ss : Nat) (key : Nat) (v : Val) (e : StoreEnd) :
    Keeps s₀ (State.storeWrite s ss key v e) := by
  unfold State.storeWrite
  try dsimp only
  with_reducible
    repeat'
      first
      | assumption | apply ite_keeps | apply ite_keeps_fst | apply ite_keeps_snd | apply State.store_keeps
      | apply State.hold_keeps | apply State.cutWrite_keeps | refine OpKeeps.apply (storeRow_keeps ..) ?_
      | apply storeRow_keeps | apply State.ledgerWrite_keeps | dsimp only

theorem State.fuseWrite_keeps {s₀ s : State} (hk : Keeps s₀ s) (ss : Nat) (key : Nat) (v : Nat) (op : FuseEnd →
    WriteOp) (e : FuseEnd) (hop : ∀ e, OpKeeps (op e)) :
    Keeps s₀ (State.fuseWrite s ss key v op e) := by
  unfold State.fuseWrite
  try dsimp only
  with_reducible
    repeat'
      first
      | assumption | apply ite_keeps | apply ite_keeps_fst | apply ite_keeps_snd | apply State.cutWrite_keeps
      | apply State.ledgerWrite_keeps | refine OpKeeps.apply (hop _) ?_ | apply hop | dsimp only

theorem execRoleSelectWrite_keeps {s₀ s : State} (hk : Keeps s₀ s) (ss : Nat) (v : Nat) :
    OutKeeps s₀ (execRoleSelectWrite ss v s) := by
  unfold execRoleSelectWrite
  try dsimp only
  with_reducible
    repeat'
      first
      | assumption | apply whenManaged_keeps | apply whenLive_keeps | apply whenFabric_keeps | apply OutKeeps.next
      | apply OutKeeps.fault | apply OutKeeps.ite | assumption | intro u | apply State.store_keeps
      | apply whenManaged_keeps | apply State.storeWrite_keeps | dsimp only

theorem execRegisterWrite_keeps {s₀ s : State} (hk : Keeps s₀ s) (ss : Nat) (key : Nat) (v : Val) :
    OutKeeps s₀ (execRegisterWrite ss key v s) := by
  unfold execRegisterWrite
  try dsimp only
  with_reducible
    repeat'
      first
      | assumption | apply whenManaged_keeps | apply whenLive_keeps | apply whenFabric_keeps | apply OutKeeps.next
      | apply OutKeeps.fault | apply OutKeeps.ite | assumption | intro u | apply ite_keeps | apply ite_keeps_fst
      | apply ite_keeps_snd | apply State.draw_keeps | apply State.store_keeps | apply whenManaged_keeps
      | apply State.hold_keeps | apply State.ledgerWrite_keeps | refine OpKeeps.apply (ledgerOp_keeps ..) ?_
      | apply ledgerOp_keeps | dsimp only

theorem execNonVolatileWrite_keeps {s₀ s : State} (hk : Keeps s₀ s) (ss : Nat) (key : Nat) (v : Val) (result :
    StoreEnd) :
    OutKeeps s₀ (execNonVolatileWrite ss key v result s) := by
  unfold execNonVolatileWrite
  try dsimp only
  with_reducible
    repeat'
      first
      | assumption | apply whenManaged_keeps | apply whenLive_keeps | apply whenFabric_keeps | apply OutKeeps.next
      | apply OutKeeps.fault | apply OutKeeps.ite | assumption | intro u | apply State.store_keeps
      | apply whenManaged_keeps | apply State.storeWrite_keeps | dsimp only

theorem execSaveConfiguration_keeps {s₀ s : State} (hk : Keeps s₀ s) (ss : Nat) (v : Nat) (result : StoreEnd) :
    OutKeeps s₀ (execSaveConfiguration ss v result s) := by
  unfold execSaveConfiguration
  try dsimp only
  with_reducible
    repeat'
      first
      | assumption | apply whenManaged_keeps | apply whenLive_keeps | apply whenFabric_keeps | apply OutKeeps.next
      | apply OutKeeps.fault | apply OutKeeps.ite | assumption | intro u | apply State.store_keeps
      | apply whenManaged_keeps | apply State.storeWrite_keeps | dsimp only

theorem execEraseSavedConfiguration_keeps {s₀ s : State} (hk : Keeps s₀ s) (ss : Nat) (v : Nat) (result : StoreEnd) :
    OutKeeps s₀ (execEraseSavedConfiguration ss v result s) := by
  unfold execEraseSavedConfiguration
  try dsimp only
  with_reducible
    repeat'
      first
      | assumption | apply whenManaged_keeps | apply whenLive_keeps | apply whenFabric_keeps | apply OutKeeps.next
      | apply OutKeeps.fault | apply OutKeeps.ite | assumption | intro u | apply State.store_keeps
      | apply whenManaged_keeps | apply State.storeWrite_keeps | dsimp only

theorem execProgramIntegratorKey_keeps {s₀ s : State} (hk : Keeps s₀ s) (ss : Nat) (key : Bytes) (verified : Bool) :
    OutKeeps s₀ (execProgramIntegratorKey ss key verified s) := by
  unfold execProgramIntegratorKey
  try dsimp only
  with_reducible
    repeat'
      first
      | assumption | apply whenManaged_keeps | apply whenLive_keeps | apply whenFabric_keeps | apply OutKeeps.next
      | apply OutKeeps.fault | apply OutKeeps.ite | assumption | intro u | apply whenManaged_keeps
      | apply State.ledgerWrite_keeps | refine OpKeeps.apply (programKeyOp_keeps ..) ?_ | apply programKeyOp_keeps
      | dsimp only

theorem execRevokeIntegratorKey_keeps {s₀ s : State} (hk : Keeps s₀ s) (ss : Nat) (slot : Nat) (verified : Bool) :
    OutKeeps s₀ (execRevokeIntegratorKey ss slot verified s) := by
  unfold execRevokeIntegratorKey
  try dsimp only
  with_reducible
    repeat'
      first
      | assumption | apply whenManaged_keeps | apply whenLive_keeps | apply whenFabric_keeps | apply OutKeeps.next
      | apply OutKeeps.fault | apply OutKeeps.ite | assumption | intro u | apply whenManaged_keeps
      | apply State.ledgerWrite_keeps | refine OpKeeps.apply (revokeKeyOp_keeps ..) ?_ | apply revokeKeyOp_keeps
      | dsimp only

theorem execRightsPolicyWrite_keeps {s₀ s : State} (hk : Keeps s₀ s) (ss : Nat) (v : Nat) (result : FuseEnd) :
    OutKeeps s₀ (execRightsPolicyWrite ss v result s) := by
  unfold execRightsPolicyWrite
  try dsimp only
  with_reducible
    repeat'
      first
      | assumption | apply whenManaged_keeps | apply whenLive_keeps | apply whenFabric_keeps | apply OutKeeps.next
      | apply OutKeeps.fault | apply OutKeeps.ite | assumption | intro u | apply whenManaged_keeps
      | apply State.fuseWrite_keeps | refine OpKeeps.apply (policyOp_keeps ..) ?_ | apply policyOp_keeps
      | dsimp only

theorem execDebugLockWrite_keeps {s₀ s : State} (hk : Keeps s₀ s) (ss : Nat) (v : Nat) (result : FuseEnd) :
    OutKeeps s₀ (execDebugLockWrite ss v result s) := by
  unfold execDebugLockWrite
  try dsimp only
  with_reducible
    repeat'
      first
      | assumption | apply whenManaged_keeps | apply whenLive_keeps | apply whenFabric_keeps | apply OutKeeps.next
      | apply OutKeeps.fault | apply OutKeeps.ite | assumption | intro u | apply whenManaged_keeps
      | apply State.fuseWrite_keeps | refine OpKeeps.apply (debugLockOp_keeps ..) ?_ | apply debugLockOp_keeps
      | dsimp only

theorem execMinSecurityVersionWrite_keeps {s₀ s : State} (hk : Keeps s₀ s) (ss : Nat) (v : Nat) (verified : Bool) :
    OutKeeps s₀ (execMinSecurityVersionWrite ss v verified s) := by
  unfold execMinSecurityVersionWrite
  try dsimp only
  with_reducible
    repeat'
      first
      | assumption | apply whenManaged_keeps | apply whenLive_keeps | apply whenFabric_keeps | apply OutKeeps.next
      | apply OutKeeps.fault | apply OutKeeps.ite | assumption | intro u | apply whenManaged_keeps
      | apply State.ledgerWrite_keeps | refine OpKeeps.apply (minSecurityOp_keeps ..) ?_
      | apply minSecurityOp_keeps | dsimp only

theorem execRevokeImageKey_keeps {s₀ s : State} (hk : Keeps s₀ s) (ss : Nat) (slot : Nat) (verified : Bool) :
    OutKeeps s₀ (execRevokeImageKey ss slot verified s) := by
  unfold execRevokeImageKey
  try dsimp only
  with_reducible
    repeat'
      first
      | assumption | apply whenManaged_keeps | apply whenLive_keeps | apply whenFabric_keeps | apply OutKeeps.next
      | apply OutKeeps.fault | apply OutKeeps.ite | assumption | intro u | apply whenManaged_keeps
      | apply State.ledgerWrite_keeps | refine OpKeeps.apply (revokeImageKeyOp_keeps ..) ?_
      | apply revokeImageKeyOp_keeps | dsimp only

theorem execRoleLockWrite_keeps {s₀ s : State} (hk : Keeps s₀ s) (ss : Nat) (v : Nat) (result : FuseEnd) :
    OutKeeps s₀ (execRoleLockWrite ss v result s) := by
  unfold execRoleLockWrite
  try dsimp only
  with_reducible
    repeat'
      first
      | assumption | apply whenManaged_keeps | apply whenLive_keeps | apply whenFabric_keeps | apply OutKeeps.next
      | apply OutKeeps.fault | apply OutKeeps.ite | assumption | intro u | apply whenManaged_keeps
      | apply State.fuseWrite_keeps | refine OpKeeps.apply (roleLockOp_keeps ..) ?_ | apply roleLockOp_keeps
      | dsimp only

theorem execWallAliasWrite_keeps {s₀ s : State} (hk : Keeps s₀ s) (ss : Nat) (v : Nat) (result : FuseEnd) :
    OutKeeps s₀ (execWallAliasWrite ss v result s) := by
  unfold execWallAliasWrite
  try dsimp only
  with_reducible
    repeat'
      first
      | assumption | apply whenManaged_keeps | apply whenLive_keeps | apply whenFabric_keeps | apply OutKeeps.next
      | apply OutKeeps.fault | apply OutKeeps.ite | assumption | intro u | apply whenManaged_keeps
      | apply State.fuseWrite_keeps | refine OpKeeps.apply (wallAliasOp_keeps ..) ?_ | apply wallAliasOp_keeps
      | dsimp only

theorem State.drawBytes_sessions (s : State) (n : Nat) : (s.drawBytes n).2.acc = s.acc := by
  induction n generalizing s with
  | zero => rfl
  | succ n ih => exact ih s.draw.2

theorem State.newSession_keeps {s₀ s : State} (hk : Keeps s₀ s) (p : Peer) (level : Nat) (nonce : Bytes)
    (hn : s.acc.sessions.length < 16) : Keeps s₀ (State.newSession s p level nonce).1 := by
  unfold State.newSession
  dsimp only
  split
  · have h := State.drawBytes_keeps (State.draw_keeps hk) 32
    refine { h with sessions := fun _ => ?_ }
    simp only [List.length_append, List.length_singleton, State.drawBytes_sessions]
    exact hn
  · have h := State.draw_keeps hk
    refine { h with sessions := fun _ => ?_ }
    simp only [List.length_append, List.length_singleton]
    exact hn

theorem State.noteOpen_keeps {s₀ s : State} (hk : Keeps s₀ s) (p : Peer) (c : Code) :
    Keeps s₀ (State.noteOpen s p c) := by
  unfold State.noteOpen
  try dsimp only
  with_reducible
    repeat'
      first
      | assumption | apply ite_keeps | apply ite_keeps_fst | apply ite_keeps_snd | apply State.bump_keeps
      | apply State.notePort_keeps | apply State.noteRefusal_keeps | simp only [Keeps.mk_iff] | split | dsimp only

theorem State.openCode_fits {s : State} {p : Peer} {r : Req} (h : s.openCode p r = none) : s.acc.sessions.length < 16
    := by
  by_cases hf : s.sessionFits p = true
  · simp only [State.sessionFits, Bool.and_eq_true, decide_eq_true_eq] at hf
    exact hf.1
  · simp only [State.openCode, hf] at h
    repeat (split at h; · cases h)
    exact absurd rfl ‹¬(!false) = true›

theorem State.serveOpen_keeps {s₀ s : State} (hk : Keeps s₀ s) (p : Peer) (r : Req) : Keeps s₀ (State.serveOpen s p r).1 := by
  unfold State.serveOpen
  split
  · exact State.noteOpen_keeps hk p _
  · rename_i h
    exact State.newSession_keeps hk p _ _ (State.openCode_fits h)

theorem State.authFailed_keeps {s₀ s : State} (hk : Keeps s₀ s) (x : Session) (c : Code) :
    Keeps s₀ (State.authFailed s x c) := by
  unfold State.authFailed
  try dsimp only
  with_reducible
    repeat'
      first
      | assumption | intro u | apply ite_keeps | apply ite_keeps_fst | apply ite_keeps_snd
      | apply State.closeSessions_keeps | apply State.bump_keeps | apply State.record_keeps
      | simp only [Keeps.mk_iff] | simp only [Keeps.mk_acc_iff] | dsimp only

theorem State.serveRespond_keeps {s₀ s : State} (hk : Keeps s₀ s) (x : Session) (r : Req) :
    Keeps s₀ (State.serveRespond s x r).1 := by
  unfold State.serveRespond
  try dsimp only
  with_reducible
    repeat'
      first
      | assumption | apply ite_keeps | apply ite_keeps_fst | apply ite_keeps_snd | apply State.authFailed_keeps
      | apply State.setSession_keeps | simp only [Keeps.mk_iff] | split | dsimp only

theorem State.takeValue_keeps {s₀ s : State} (hk : Keeps s₀ s) (x : Session) (key : Nat) (e : Entry) :
    Keeps s₀ (State.takeValue s x key e).1 := by
  unfold State.takeValue
  try dsimp only
  with_reducible
    repeat'
      first
      | assumption | apply ite_keeps | apply ite_keeps_fst | apply ite_keeps_snd | apply State.takeKeyRecords_keeps
      | dsimp only

theorem State.serveRead_keeps {s₀ s : State} (hk : Keeps s₀ s) (x : Session) (r : Req) (e : Entry) :
    Keeps s₀ (State.serveRead s x r e).1 := by
  unfold State.serveRead
  try dsimp only
  with_reducible
    repeat'
      first
      | assumption | intro u | apply ite_keeps | apply ite_keeps_fst | apply ite_keeps_snd
      | apply State.noteRefusal_keeps | apply State.takeValue_keeps | apply State.setSession_keeps
      | simp only [Keeps.mk_iff] | dsimp only

theorem State.writeWhole_keeps {s₀ s : State} (hk : Keeps s₀ s) (x : Session) (key : Nat) (e : Entry) (b : Bytes) :
    Keeps s₀ (State.writeWhole s x key e b).1 := by
  unfold State.writeWhole
  try dsimp only
  with_reducible
    repeat'
      first
      | assumption | apply State.tryWrite_keeps | refine OpKeeps.apply (ledgerOp_keeps ..) ?_
      | apply ledgerOp_keeps | dsimp only

theorem State.continueHold_keeps {s₀ s : State} (hk : Keeps s₀ s) (x : Session) (r : Req) (e : Entry) (h : WriteHold) :
    Keeps s₀ (State.continueHold s x r e h).1 := by
  simp only [State.continueHold]
  generalize segmentGap = g
  refine ite_keeps_fst (State.setSession_keeps hk _) ?_
  refine ite_keeps_fst (State.setSession_keeps hk _) ?_
  refine ite_keeps_fst ?_ (State.setSession_keeps hk _)
  exact State.writeWhole_keeps (State.setSession_keeps hk _) _ _ _ _

theorem State.serveWrite_keeps {s₀ s : State} (hk : Keeps s₀ s) (x : Session) (r : Req) (e : Entry) :
    Keeps s₀ (State.serveWrite s x r e).1 := by
  unfold State.serveWrite
  try dsimp only
  with_reducible
    repeat'
      first
      | assumption | intro u | apply ite_keeps | apply ite_keeps_fst | apply ite_keeps_snd
      | apply State.writeWhole_keeps | apply State.setSession_keeps | apply State.continueHold_keeps
      | apply State.noteRefusal_keeps | simp only [Keeps.mk_iff] | split | dsimp only

theorem State.serveOp_keeps {s₀ s : State} (hk : Keeps s₀ s) (x : Session) (op : Nat) (r : Req) (e : Option Entry) :
    Keeps s₀ (State.serveOp s x op r e).1 := by
  unfold State.serveOp
  try dsimp only
  with_reducible
    repeat'
      first
      | assumption | intro u | apply State.serveRead_keeps | apply State.serveWrite_keeps
      | apply State.serveRespond_keeps | apply State.closeSessions_keeps | apply State.noteRefusal_keeps
      | simp only [Keeps.mk_iff] | split | dsimp only

theorem State.keepResponse_keeps {s₀ s : State} (hk : Keeps s₀ s) (ss : Nat) (txn : Nat) (frame : Bytes) :
    Keeps s₀ (State.keepResponse s ss txn frame) := by
  unfold State.keepResponse
  try dsimp only
  with_reducible
    repeat'
      first
      | assumption | apply State.setSession_keeps | simp only [Keeps.mk_iff] | split | dsimp only

theorem State.serveSession_keeps {s₀ s : State} (hk : Keeps s₀ s) (p : Peer) (op : Nat) (r : Req) :
    Keeps s₀ (State.serveSession s p op r).1 := by
  unfold State.serveSession
  try dsimp only
  with_reducible
    repeat'
      first
      | assumption | intro u | apply ite_keeps | apply ite_keeps_fst | apply ite_keeps_snd
      | apply State.setSession_keeps | apply State.serveOp_keeps | apply State.keepResponse_keeps
      | simp only [Keeps.mk_iff] | split | dsimp only

theorem State.serve_keeps {s₀ s : State} (hk : Keeps s₀ s) (p : Peer) (op : Nat) (r : Req) :
    Keeps s₀ (State.serve s p op r).1 := by
  unfold State.serve
  try dsimp only
  with_reducible
    repeat'
      first
      | assumption | apply ite_keeps | apply ite_keeps_fst | apply ite_keeps_snd | apply State.serveOpen_keeps
      | apply State.serveSession_keeps | dsimp only

theorem State.deliver_keeps {s₀ s : State} (hk : Keeps s₀ s) (p : Peer) (frame : Bytes) :
    Keeps s₀ (State.deliver s p frame) := by
  unfold State.deliver
  try dsimp only
  with_reducible
    repeat'
      first
      | assumption | intro u | apply foldl_keeps | apply foldl_keeps_fst | apply foldl_keeps_snd
      | apply State.send_keeps | apply State.sendMessage_keeps | simp only [Keeps.mk_iff] | split | dsimp only

theorem State.request_keeps {s₀ s : State} (hk : Keeps s₀ s) (p : Peer) (op : Nat) (r : Req) :
    Keeps s₀ (State.request s p op r) := by
  unfold State.request
  try dsimp only
  with_reducible
    repeat'
      first
      | assumption | apply ite_keeps | apply ite_keeps_fst | apply ite_keeps_snd | apply State.hold_keeps
      | apply State.serve_keeps | apply State.deliver_keeps | dsimp only

theorem execLedgerRead_keeps {s₀ s : State} (hk : Keeps s₀ s) (p : Peer) (r : Req) :
    OutKeeps s₀ (execLedgerRead p r s) := by
  unfold execLedgerRead
  try dsimp only
  with_reducible
    repeat'
      first
      | assumption | apply whenManaged_keeps | apply whenLive_keeps | apply whenFabric_keeps | apply OutKeeps.next
      | apply OutKeeps.fault | apply OutKeeps.ite | assumption | intro u | apply whenManaged_keeps
      | apply State.request_keeps | dsimp only

theorem execLedgerWriteFrame_keeps {s₀ s : State} (hk : Keeps s₀ s) (p : Peer) (r : Req) :
    OutKeeps s₀ (execLedgerWriteFrame p r s) := by
  unfold execLedgerWriteFrame
  try dsimp only
  with_reducible
    repeat'
      first
      | assumption | apply whenManaged_keeps | apply whenLive_keeps | apply whenFabric_keeps | apply OutKeeps.next
      | apply OutKeeps.fault | apply OutKeeps.ite | assumption | intro u | apply whenManaged_keeps
      | apply State.request_keeps | dsimp only

theorem execDescribe_keeps {s₀ s : State} (hk : Keeps s₀ s) (p : Peer) (r : Req) :
    OutKeeps s₀ (execDescribe p r s) := by
  unfold execDescribe
  try dsimp only
  with_reducible
    repeat'
      first
      | assumption | apply whenManaged_keeps | apply whenLive_keeps | apply whenFabric_keeps | apply OutKeeps.next
      | apply OutKeeps.fault | apply OutKeeps.ite | assumption | intro u | apply whenManaged_keeps
      | apply State.request_keeps | dsimp only

theorem execOpenSession_keeps {s₀ s : State} (hk : Keeps s₀ s) (p : Peer) (r : Req) :
    OutKeeps s₀ (execOpenSession p r s) := by
  unfold execOpenSession
  try dsimp only
  with_reducible
    repeat'
      first
      | assumption | apply whenManaged_keeps | apply whenLive_keeps | apply whenFabric_keeps | apply OutKeeps.next
      | apply OutKeeps.fault | apply OutKeeps.ite | assumption | intro u | apply whenManaged_keeps
      | apply State.request_keeps | dsimp only

theorem execRespond_keeps {s₀ s : State} (hk : Keeps s₀ s) (p : Peer) (r : Req) :
    OutKeeps s₀ (execRespond p r s) := by
  unfold execRespond
  try dsimp only
  with_reducible
    repeat'
      first
      | assumption | apply whenManaged_keeps | apply whenLive_keeps | apply whenFabric_keeps | apply OutKeeps.next
      | apply OutKeeps.fault | apply OutKeeps.ite | assumption | intro u | apply whenManaged_keeps
      | apply State.request_keeps | dsimp only

theorem execCloseSession_keeps {s₀ s : State} (hk : Keeps s₀ s) (p : Peer) (r : Req) :
    OutKeeps s₀ (execCloseSession p r s) := by
  unfold execCloseSession
  try dsimp only
  with_reducible
    repeat'
      first
      | assumption | apply whenManaged_keeps | apply whenLive_keeps | apply whenFabric_keeps | apply OutKeeps.next
      | apply OutKeeps.fault | apply OutKeeps.ite | assumption | intro u | apply whenManaged_keeps
      | apply State.request_keeps | dsimp only

theorem execKeepAlive_keeps {s₀ s : State} (hk : Keeps s₀ s) (p : Peer) (r : Req) :
    OutKeeps s₀ (execKeepAlive p r s) := by
  unfold execKeepAlive
  try dsimp only
  with_reducible
    repeat'
      first
      | assumption | apply whenManaged_keeps | apply whenLive_keeps | apply whenFabric_keeps | apply OutKeeps.next
      | apply OutKeeps.fault | apply OutKeeps.ite | assumption | intro u | apply whenManaged_keeps
      | apply State.request_keeps | dsimp only

theorem execKeyRecordsRead_keeps {s₀ s : State} (hk : Keeps s₀ s) (p : Peer) (r : Req) :
    OutKeeps s₀ (execKeyRecordsRead p r s) := by
  unfold execKeyRecordsRead
  try dsimp only
  with_reducible
    repeat'
      first
      | assumption | apply whenManaged_keeps | apply whenLive_keeps | apply whenFabric_keeps | apply OutKeeps.next
      | apply OutKeeps.fault | apply OutKeeps.ite | assumption | intro u | apply whenManaged_keeps
      | apply State.request_keeps | simp only [Keeps.mk_iff] | dsimp only

theorem execSessionIdleTimeout_keeps {s₀ s : State} (hk : Keeps s₀ s) (ss : Nat) :
    OutKeeps s₀ (execSessionIdleTimeout ss s) := by
  unfold execSessionIdleTimeout
  try dsimp only
  with_reducible
    repeat'
      first
      | assumption | apply whenManaged_keeps | apply whenLive_keeps | apply whenFabric_keeps | apply OutKeeps.next
      | apply OutKeeps.fault | apply OutKeeps.ite | assumption | intro u | apply ite_keeps | apply ite_keeps_fst
      | apply ite_keeps_snd | apply whenManaged_keeps | apply State.closeSessions_keeps | simp only [Keeps.mk_iff]
      | split | dsimp only

theorem execLockoutExpiry_keeps {s₀ s : State} (hk : Keeps s₀ s) (path : Fin 5) :
    OutKeeps s₀ (execLockoutExpiry path s) := by
  unfold execLockoutExpiry
  try dsimp only
  with_reducible
    repeat'
      first
      | assumption | apply whenManaged_keeps | apply whenLive_keeps | apply whenFabric_keeps | apply OutKeeps.next
      | apply OutKeeps.fault | apply OutKeeps.ite | assumption | intro u | apply whenManaged_keeps
      | simp only [Keeps.mk_iff] | simp only [Keeps.mk_acc_iff] | dsimp only

theorem execSegmentHoldExpiry_keeps {s₀ s : State} (hk : Keeps s₀ s) (ss : Nat) :
    OutKeeps s₀ (execSegmentHoldExpiry ss s) := by
  unfold execSegmentHoldExpiry
  try dsimp only
  with_reducible
    repeat'
      first
      | assumption | apply whenManaged_keeps | apply whenLive_keeps | apply whenFabric_keeps | apply OutKeeps.next
      | apply OutKeeps.fault | apply OutKeeps.ite | assumption | intro u | apply whenManaged_keeps
      | apply State.setSession_keeps | simp only [Keeps.mk_iff] | split | dsimp only

theorem State.setCanMsg_keeps {s₀ s : State} (hk : Keeps s₀ s) (c : Nat) (node : Nat) (m : Option CanMsg) :
    Keeps s₀ (State.setCanMsg s c node m) := by
  unfold State.setCanMsg
  try dsimp only
  with_reducible
    repeat'
      first
      | assumption | intro u | simp only [Keeps.mk_iff] | simp only [Keeps.mk_acc_iff] | dsimp only

theorem State.dropCanMsg_keeps {s₀ s : State} (hk : Keeps s₀ s) (c : Nat) (node : Nat) (m : CanMsg) (extra : Nat)
    (code : Code) :
    Keeps s₀ (State.dropCanMsg s c node m extra code) := by
  unfold State.dropCanMsg
  try dsimp only
  with_reducible
    repeat'
      first
      | assumption | apply ite_keeps | apply ite_keeps_fst | apply ite_keeps_snd | apply State.setCanMsg_keeps
      | apply State.bumpBy_keeps | apply State.deliver_keeps | dsimp only

theorem State.addCanPart_keeps {s₀ s : State} (hk : Keeps s₀ s) (c : Nat) (node : Nat) (m : CanMsg) (last : Bool)
    (part : Bytes) :
    Keeps s₀ (State.addCanPart s c node m last part) := by
  unfold State.addCanPart
  try dsimp only
  with_reducible
    repeat'
      first
      | assumption | apply ite_keeps | apply ite_keeps_fst | apply ite_keeps_snd | apply State.setCanMsg_keeps
      | apply State.request_keeps | apply State.dropCanMsg_keeps | simp only [Keeps.mk_iff] | dsimp only

theorem State.takeCanFrame_keeps {s₀ s : State} (hk : Keeps s₀ s) (c : Nat) (node : Nat) (head : Nat) (part : Bytes) :
    Keeps s₀ (State.takeCanFrame s c node head part) := by
  unfold State.takeCanFrame
  try dsimp only
  with_reducible
    repeat'
      first
      | assumption | apply ite_keeps | apply ite_keeps_fst | apply ite_keeps_snd | apply State.setCanMsg_keeps
      | apply State.bumpBy_keeps | apply State.dropCanMsg_keeps | apply State.addCanPart_keeps
      | apply State.bump_keeps | simp only [Keeps.mk_iff] | split | dsimp only

theorem execCanFrameReceive_keeps {s₀ s : State} (hk : Keeps s₀ s) (controller : Fin 2) (ident : BitVec 29) (payload :
    Bytes) :
    OutKeeps s₀ (execCanFrameReceive controller ident payload s) := by
  unfold execCanFrameReceive
  try dsimp only
  with_reducible
    repeat'
      first
      | assumption | apply whenManaged_keeps | apply whenLive_keeps | apply whenFabric_keeps | apply OutKeeps.next
      | apply OutKeeps.fault | apply OutKeeps.ite | assumption | intro u | apply ite_keeps | apply ite_keeps_fst
      | apply ite_keeps_snd | apply whenManaged_keeps | apply State.takeCanFrame_keeps | simp only [Keeps.mk_iff]
      | split | dsimp only

theorem execCanMessageTimeout_keeps {s₀ s : State} (hk : Keeps s₀ s) (controller : Fin 2) (node : Fin 256) :
    OutKeeps s₀ (execCanMessageTimeout controller node s) := by
  unfold execCanMessageTimeout
  try dsimp only
  with_reducible
    repeat'
      first
      | assumption | apply whenManaged_keeps | apply whenLive_keeps | apply whenFabric_keeps | apply OutKeeps.next
      | apply OutKeeps.fault | apply OutKeeps.ite | assumption | intro u | apply ite_keeps | apply ite_keeps_fst
      | apply ite_keeps_snd | apply whenManaged_keeps | apply State.dropCanMsg_keeps | simp only [Keeps.mk_iff]
      | split | dsimp only

theorem execCanBusOff_keeps {s₀ s : State} (hk : Keeps s₀ s) (controller : Fin 2) :
    OutKeeps s₀ (execCanBusOff controller s) := by
  unfold execCanBusOff
  try dsimp only
  with_reducible
    repeat'
      first
      | assumption | apply whenManaged_keeps | apply whenLive_keeps | apply whenFabric_keeps | apply OutKeeps.next
      | apply OutKeeps.fault | apply OutKeeps.ite | assumption | intro u | apply whenManaged_keeps
      | apply State.setReg_keeps | apply State.recordLimited_keeps | dsimp only

theorem execCanBusOffRecovery_keeps {s₀ s : State} (hk : Keeps s₀ s) (controller : Fin 2) :
    OutKeeps s₀ (execCanBusOffRecovery controller s) := by
  unfold execCanBusOffRecovery
  try dsimp only
  with_reducible
    repeat'
      first
      | assumption | apply whenManaged_keeps | apply whenLive_keeps | apply whenFabric_keeps | apply OutKeeps.next
      | apply OutKeeps.fault | apply OutKeeps.ite | assumption | intro u | apply ite_keeps | apply ite_keeps_fst
      | apply ite_keeps_snd | apply whenManaged_keeps | apply State.setReg_keeps | dsimp only

theorem State.admitDatagram_keeps {s₀ s : State} (hk : Keeps s₀ s)  :
    Keeps s₀ (State.admitDatagram s).1 := by
  unfold State.admitDatagram
  try dsimp only
  with_reducible
    repeat'
      first
      | assumption | apply ite_keeps | apply ite_keeps_fst | apply ite_keeps_snd | simp only [Keeps.mk_iff]
      | simp only [Keeps.mk_acc_iff] | dsimp only

theorem execUdpLedgerDatagram_keeps {s₀ s : State} (hk : Keeps s₀ s) (address : Nat) (port : Nat) (payload : Bytes) :
    OutKeeps s₀ (execUdpLedgerDatagram address port payload s) := by
  unfold execUdpLedgerDatagram
  try dsimp only
  with_reducible
    repeat'
      first
      | assumption | apply whenManaged_keeps | apply whenLive_keeps | apply whenFabric_keeps | apply OutKeeps.next
      | apply OutKeeps.fault | apply OutKeeps.ite | assumption | intro u | apply ite_keeps | apply ite_keeps_fst
      | apply ite_keeps_snd | apply whenManaged_keeps | apply State.admitDatagram_keeps | apply State.request_keeps
      | apply State.bump_keeps | apply State.recordLimited_keeps | dsimp only

theorem execArpRequest_keeps {s₀ s : State} (hk : Keeps s₀ s) (target : BitVec 32) (sender : BitVec 32) :
    OutKeeps s₀ (execArpRequest target sender s) := by
  unfold execArpRequest
  try dsimp only
  with_reducible
    repeat'
      first
      | assumption | apply whenManaged_keeps | apply whenLive_keeps | apply whenFabric_keeps | apply OutKeeps.next
      | apply OutKeeps.fault | apply OutKeeps.ite | assumption | intro u | apply ite_keeps | apply ite_keeps_fst
      | apply ite_keeps_snd | apply whenManaged_keeps | apply State.send_keeps | dsimp only

theorem execIcmpEchoRequest_keeps {s₀ s : State} (hk : Keeps s₀ s) (target : BitVec 32) (sender : BitVec 32) (payload
    : Bytes) :
    OutKeeps s₀ (execIcmpEchoRequest target sender payload s) := by
  unfold execIcmpEchoRequest
  try dsimp only
  with_reducible
    repeat'
      first
      | assumption | apply whenManaged_keeps | apply whenLive_keeps | apply whenFabric_keeps | apply OutKeeps.next
      | apply OutKeeps.fault | apply OutKeeps.ite | assumption | intro u | apply ite_keeps | apply ite_keeps_fst
      | apply ite_keeps_snd | apply whenManaged_keeps | apply State.send_keeps | dsimp only

theorem State.setMailbox_keeps {s₀ s : State} (hk : Keeps s₀ s) (m : Nat) (status : Nat) (reply : Bytes) :
    Keeps s₀ (State.setMailbox s m status reply) := by
  unfold State.setMailbox
  try dsimp only
  with_reducible
    repeat'
      first
      | assumption | apply State.reply_keeps | simp only [Keeps.mk_iff] | simp only [Keeps.mk_acc_iff] | dsimp only

theorem State.fillBuffer_keeps {s₀ s : State} (hk : Keeps s₀ s) (m : Nat) (off : Nat) (bs : Bytes) :
    Keeps s₀ (State.fillBuffer s m off bs) := by
  unfold State.fillBuffer
  try dsimp only
  with_reducible
    repeat'
      first
      | assumption | simp only [Keeps.mk_iff] | simp only [Keeps.mk_acc_iff] | dsimp only

theorem State.serveMailbox_keeps {s₀ s : State} (hk : Keeps s₀ s) (m : Nat) :
    Keeps s₀ (State.serveMailbox s m) := by
  unfold State.serveMailbox
  try dsimp only
  with_reducible
    repeat'
      first
      | assumption | apply ite_keeps | apply ite_keeps_fst | apply ite_keeps_snd | apply State.serve_keeps
      | apply State.setMailbox_keeps | apply State.send_keeps | dsimp only

theorem State.serveMailboxes_keeps {s₀ s : State} (hk : Keeps s₀ s)  :
    Keeps s₀ (State.serveMailboxes s) := by
  unfold State.serveMailboxes
  try dsimp only
  with_reducible
    repeat'
      first
      | assumption | intro u | apply foldl_keeps | apply foldl_keeps_fst | apply foldl_keeps_snd
      | apply State.serveMailbox_keeps | dsimp only

theorem State.ring_keeps {s₀ s : State} (hk : Keeps s₀ s) (m : Nat) :
    Keeps s₀ (State.ring s m) := by
  unfold State.ring
  try dsimp only
  with_reducible
    repeat'
      first
      | assumption | apply ite_keeps | apply ite_keeps_fst | apply ite_keeps_snd | apply State.bump_keeps
      | apply State.setMailbox_keeps | apply State.serveMailbox_keeps | dsimp only

theorem State.freeMailbox_keeps {s₀ s : State} (hk : Keeps s₀ s) (m : Nat) :
    Keeps s₀ (State.freeMailbox s m) := by
  unfold State.freeMailbox
  try dsimp only
  with_reducible
    repeat'
      first
      | assumption | apply State.setMailbox_keeps | dsimp only

theorem execDoorbell_keeps {s₀ s : State} (hk : Keeps s₀ s) (mailbox : Fin 4) (request : Bytes) :
    OutKeeps s₀ (execDoorbell mailbox request s) := by
  unfold execDoorbell
  try dsimp only
  with_reducible
    repeat'
      first
      | assumption | apply whenManaged_keeps | apply whenLive_keeps | apply whenFabric_keeps | apply OutKeeps.next
      | apply OutKeeps.fault | apply OutKeeps.ite | assumption | intro u | apply ite_keeps | apply ite_keeps_fst
      | apply ite_keeps_snd | apply whenLive_keeps | apply State.ring_keeps | apply State.fillBuffer_keeps
      | apply State.request_keeps | dsimp only

theorem execMailboxFree_keeps {s₀ s : State} (hk : Keeps s₀ s) (mailbox : Fin 4) :
    OutKeeps s₀ (execMailboxFree mailbox s) := by
  unfold execMailboxFree
  try dsimp only
  with_reducible
    repeat'
      first
      | assumption | apply whenManaged_keeps | apply whenLive_keeps | apply whenFabric_keeps | apply OutKeeps.next
      | apply OutKeeps.fault | apply OutKeeps.ite | assumption | intro u | apply ite_keeps | apply ite_keeps_fst
      | apply ite_keeps_snd | apply whenLive_keeps | apply State.freeMailbox_keeps | dsimp only

theorem State.serveHeldWrite_keeps {s₀ s : State} (hk : Keeps s₀ s) (h : HeldWrite) :
    Keeps s₀ (State.serveHeldWrite s h) := by
  unfold State.serveHeldWrite
  try dsimp only
  with_reducible
    repeat'
      first
      | assumption | apply ite_keeps | apply ite_keeps_fst | apply ite_keeps_snd | apply State.store_keeps
      | apply State.request_keeps | apply State.storeWrite_keeps | simp only [Keeps.mk_iff] | split | dsimp only

theorem State.serveHeld_keeps {s₀ s : State} (hk : Keeps s₀ s)  :
    Keeps s₀ (State.serveHeld s) := by
  unfold State.serveHeld
  try dsimp only
  with_reducible
    repeat'
      first
      | assumption | intro u | apply foldl_keeps | apply foldl_keeps_fst | apply foldl_keeps_snd
      | apply State.serveHeldWrite_keeps | apply State.serveMailboxes_keeps | simp only [Keeps.mk_iff]
      | simp only [Keeps.mk_acc_iff] | dsimp only

theorem execBaselineSaveDone_keeps {s₀ s : State} (hk : Keeps s₀ s) (result : StoreEnd) :
    OutKeeps s₀ (execBaselineSaveDone result s) := by
  unfold execBaselineSaveDone
  try dsimp only
  with_reducible
    repeat'
      first
      | assumption | apply whenManaged_keeps | apply whenLive_keeps | apply whenFabric_keeps | apply OutKeeps.next
      | apply OutKeeps.fault | apply OutKeeps.ite | assumption | intro u | apply ite_keeps | apply ite_keeps_fst
      | apply ite_keeps_snd | apply whenManaged_keeps | apply State.powerOn_keeps | apply State.endSave_keeps
      | apply State.serveHeld_keeps | simp only [Keeps.mk_iff] | split | dsimp only

theorem execFirmwareMainLoop_keeps {s₀ s : State} (hk : Keeps s₀ s) (handOffRead : Bool) :
    OutKeeps s₀ (execFirmwareMainLoop handOffRead s) := by
  unfold execFirmwareMainLoop
  try dsimp only
  with_reducible
    repeat'
      first
      | assumption | apply whenManaged_keeps | apply whenLive_keeps | apply whenFabric_keeps | apply OutKeeps.next
      | apply OutKeeps.fault | apply OutKeeps.ite | assumption | apply State.mainLoop_keeps
      | apply State.serveMailboxes_keeps | dsimp only

theorem State.discardWrite_keeps {s₀ s : State} (hk : Keeps s₀ s) (a : Nat) (i : Nat) (requester : BitVec 16) :
    Keeps s₀ (State.discardWrite s a i requester) := by
  unfold State.discardWrite
  try dsimp only
  with_reducible
    repeat'
      first
      | assumption | apply State.bump_keeps | apply State.setReg_keeps | apply State.recordEvery_keeps | dsimp only

theorem State.hostStore_keeps {s₀ s : State} (hk : Keeps s₀ s) (tag : Nat) (a : Nat) (data : Bytes) :
    Keeps s₀ (State.hostStore s tag a data) := by
  unfold State.hostStore
  try dsimp only
  with_reducible
    repeat'
      first
      | assumption | intro u | apply foldl_keeps | apply foldl_keeps_fst | apply foldl_keeps_snd
      | apply State.present_keeps | dsimp only

theorem State.hostLoad_keeps {s₀ s : State} (hk : Keeps s₀ s) (tag : Nat) (a : Nat) (len : Nat) :
    Keeps s₀ (State.hostLoad s tag a len) := by
  unfold State.hostLoad
  try dsimp only
  with_reducible
    repeat'
      first
      | assumption | intro u | apply ite_keeps | apply ite_keeps_fst | apply ite_keeps_snd | apply foldl_keeps
      | apply foldl_keeps_fst | apply foldl_keeps_snd | apply State.send_keeps | apply State.present_keeps
      | simp only [Keeps.mk_iff] | dsimp only

theorem State.setBar0Byte_keeps {s₀ s : State} (hk : Keeps s₀ s) (o : Nat) (b : Byte) :
    Keeps s₀ (State.setBar0Byte s o b) := by
  unfold State.setBar0Byte
  try dsimp only
  with_reducible
    repeat'
      first
      | assumption | apply ite_keeps | apply ite_keeps_fst | apply ite_keeps_snd | apply State.fillBuffer_keeps
      | simp only [Keeps.mk_iff] | simp only [Keeps.mk_acc_iff] | dsimp only

theorem State.bar0Control_keeps {s₀ s : State} (hk : Keeps s₀ s) (o : Nat) (data : Bytes) (m : Nat) :
    Keeps s₀ (State.bar0Control o data s m) := by
  unfold State.bar0Control
  try dsimp only
  with_reducible
    repeat'
      first
      | assumption | apply ite_keeps | apply ite_keeps_fst | apply ite_keeps_snd | apply State.ring_keeps
      | apply State.freeMailbox_keeps | dsimp only

theorem State.bar0Write_keeps {s₀ s : State} (hk : Keeps s₀ s) (o : Nat) (data : Bytes) :
    Keeps s₀ (State.bar0Write s o data) := by
  unfold State.bar0Write
  try dsimp only
  with_reducible
    repeat'
      first
      | assumption | intro u | apply foldl_keeps | apply foldl_keeps_fst | apply foldl_keeps_snd
      | apply State.bar0Control_keeps | apply State.setBar0Byte_keeps | dsimp only

theorem execPcieBarWrite_keeps {s₀ s : State} (hk : Keeps s₀ s) (bar : Bar) (offset : Nat) (data : Bytes) (requester :
    BitVec 16) (tag : Nat) :
    OutKeeps s₀ (execPcieBarWrite bar offset data requester tag s) := by
  unfold execPcieBarWrite
  try dsimp only
  with_reducible
    repeat'
      first
      | assumption | apply whenManaged_keeps | apply whenLive_keeps | apply whenFabric_keeps | apply OutKeeps.next
      | apply OutKeeps.fault | apply OutKeeps.ite | assumption | intro u | apply ite_keeps | apply ite_keeps_fst
      | apply ite_keeps_snd | apply whenLive_keeps | apply State.bar0Write_keeps | apply whenFabric_keeps
      | apply State.discardWrite_keeps | apply State.hostStore_keeps | simp only [Keeps.mk_iff] | split
      | dsimp only

theorem execPcieBarRead_keeps {s₀ s : State} (hk : Keeps s₀ s) (bar : Bar) (offset : Nat) (len : Nat) (_requester :
    BitVec 16) (tag : Nat) :
    OutKeeps s₀ (execPcieBarRead bar offset len _requester tag s) := by
  unfold execPcieBarRead
  try dsimp only
  with_reducible
    repeat'
      first
      | assumption | apply whenManaged_keeps | apply whenLive_keeps | apply whenFabric_keeps | apply OutKeeps.next
      | apply OutKeeps.fault | apply OutKeeps.ite | assumption | intro u | apply ite_keeps | apply ite_keeps_fst
      | apply ite_keeps_snd | apply whenLive_keeps | apply State.send_keeps | apply whenFabric_keeps
      | apply State.hostLoad_keeps | simp only [Keeps.mk_iff] | split | dsimp only

theorem State.takeWallMessage_keeps {s₀ s : State} (hk : Keeps s₀ s) (p : Nat) (b : Bytes) :
    Keeps s₀ (State.takeWallMessage s p b) := by
  unfold State.takeWallMessage
  try dsimp only
  with_reducible
    repeat'
      first
      | assumption | apply State.takePrepare_keeps | apply State.takeReady_keeps | apply State.takeRefuse_keeps
      | apply State.takeGo_keeps | apply State.takeAbort_keeps | apply State.takeApplied_keeps
      | simp only [Keeps.mk_iff] | split | dsimp only

theorem State.consume_keeps {s₀ s : State} (hk : Keeps s₀ s) (p : Nat) (kind : Nat) (b : Bytes) :
    Keeps s₀ (State.consume s p kind b) := by
  unfold State.consume
  try dsimp only
  with_reducible
    repeat'
      first
      | assumption | apply State.request_keeps | apply State.takeWallMessage_keeps | apply State.takePresence_keeps
      | simp only [Keeps.mk_iff] | split | dsimp only

theorem State.deliverMessage_keeps {s₀ s : State} (hk : Keeps s₀ s) (p : Nat) (kind : Nat) (b : Bytes) :
    Keeps s₀ (State.deliverMessage s p kind b) := by
  unfold State.deliverMessage
  try dsimp only
  with_reducible
    repeat'
      first
      | assumption | apply ite_keeps | apply ite_keeps_fst | apply ite_keeps_snd | apply State.admitMessage_keeps
      | apply State.consume_keeps | dsimp only

theorem execMessageCell_keeps {s₀ s : State} (hk : Keeps s₀ s) (port : Fin 24) (cell : Bytes) :
    OutKeeps s₀ (execMessageCell port cell s) := by
  unfold execMessageCell
  try dsimp only
  with_reducible
    repeat'
      first
      | assumption | apply whenManaged_keeps | apply whenLive_keeps | apply whenFabric_keeps | apply OutKeeps.next
      | apply OutKeeps.fault | apply OutKeeps.ite | assumption | intro u | apply whenLive_keeps
      | apply State.onCell_keeps | apply State.acceptMessage_keeps | apply State.deliverMessage_keeps
      | simp only [Keeps.mk_iff] | split | dsimp only

theorem State.raiseDue_keeps {s₀ s : State} (hk : Keeps s₀ s)  :
    Keeps s₀ (State.raiseDue s) := by
  unfold State.raiseDue
  try dsimp only
  with_reducible
    repeat'
      first
      | assumption | apply ite_keeps | apply ite_keeps_fst | apply ite_keeps_snd | apply State.send_keeps
      | simp only [Keeps.mk_iff] | simp only [Keeps.mk_log_iff] | split | dsimp only

theorem State.laneTicks_keeps {s₀ s : State} (hk : Keeps s₀ s)  :
    Keeps s₀ (State.laneTicks s) := by
  unfold State.laneTicks
  try dsimp only
  with_reducible
    repeat'
      first
      | assumption | intro u | apply foldl_keeps | apply foldl_keeps_fst | apply foldl_keeps_snd
      | apply State.laneTick_keeps | dsimp only

theorem State.drainPorts_keeps {s₀ s : State} (hk : Keeps s₀ s)  :
    Keeps s₀ (State.drainPorts s) := by
  unfold State.drainPorts
  try dsimp only
  with_reducible
    repeat'
      first
      | assumption | apply State.drainEther_keeps | dsimp only

theorem State.tick_keeps {s₀ s : State} (hk : Keeps s₀ s)  :
    Keeps s₀ (State.tick s) := by
  unfold State.tick
  try dsimp only
  with_reducible
    repeat'
      first
      | assumption | apply ite_keeps | apply ite_keeps_fst | apply ite_keeps_snd | apply State.raiseDue_keeps
      | apply State.laneTicks_keeps | apply State.drainPorts_keeps | simp only [Keeps.mk_iff] | dsimp only

end Sys2Proof.Machine
end

