-- ==== Sys2Proof/Laws/Ledger.lean ====
section
/-! SUPPORT. What a session's write does once it may: the owning chapter's operation, on the state its request has reached, and
the response. -/

namespace Sys2Proof.Machine

set_option Elab.async false

/-- What `State.mayWrite` says of the session and the entry. -/
theorem State.mayWrite_spec {s : State} {ss key : Nat} {v : Val} (h : s.mayWrite ss key v = true) :
    ∃ e x, entryAt key = some e ∧ s.session? ss = some x ∧ s.serves key = true ∧ x.pending = false ∧
      (s.touch x).checkWrite x key e v = none := by
  unfold State.mayWrite at h
  split at h
  · rename_i e x he hx
    simp only [Bool.and_eq_true, Bool.not_eq_true', Option.isNone_iff_eq_none] at h
    exact ⟨e, x, he, hx, h.1.1, h.1.2, h.2⟩
  · cases h

/-- A write that may be made is the owning chapter's operation; a code of that operation is noted. -/
theorem State.tryWrite_of_mayWrite {s : State} {ss key : Nat} {v : Val} (h : s.mayWrite ss key v = true) (op : WriteOp) :
    s.tryWrite ss key v op =
      (match (op (s.touched ss) ss (s.partOf ss key) v).2.code with
      | some c => ((op (s.touched ss) ss (s.partOf ss key) v).1.noteRefusal ss key c, (op (s.touched ss) ss (s.partOf ss key) v).2)
      | none => op (s.touched ss) ss (s.partOf ss key) v) := by
  obtain ⟨e, x, he, hx, hs, hp, hc⟩ := State.mayWrite_spec h
  simp only [State.tryWrite, State.touched, State.partOf, he, hx, hs, hp, hc, Option.filter_some, if_true, Bool.false_eq_true,
    if_false]
  all_goals rfl

/-- A write that may be made and that its operation accepts. -/
theorem State.ledgerWrite_of_mayWrite {s : State} {ss key : Nat} {v : Val} (h : s.mayWrite ss key v = true) {op : WriteOp}
    (hc : (op (s.touched ss) ss (s.partOf ss key) v).2.code = none) :
    s.ledgerWrite ss key v op =
      (op (s.touched ss) ss (s.partOf ss key) v).1.reply ss (op (s.touched ss) ss (s.partOf ss key) v).2 := by
  simp only [State.ledgerWrite, State.tryWrite_of_mayWrite h, hc]

/-- A command of the ledger while the management controller runs. -/
theorem whenManaged_next {s : State} (h : s.managed = true) (f : State → State) : whenManaged s f = .next (f s) := by
  simp [whenManaged, h]

/-- A command of the datapath while the fast domains run. -/
theorem whenLive_next {s : State} (h : s.live = true) (f : State → State) : whenLive s f = .next (f s) := by
  simp [whenLive, h]

/-- A command of the ledger while the management controller is stopped. -/
theorem whenManaged_stopped {s : State} (h : s.managed = false) (f : State → State) : whenManaged s f = .next s := by
  simp [whenManaged, h]

/-- A write command that may be made and whose operation accepts it answers that operation's state, with the response. -/
theorem ledgerWrite_next {s u : State} {ss key : Nat} {v : Val} {op : WriteOp} {r : Reply} (hm : s.managed = true)
    (hw : s.mayWrite ss key v = true) (h : op (s.touched ss) ss (s.partOf ss key) v = (u, r)) (hr : r.code = none) :
    whenManaged s (fun s => s.ledgerWrite ss key v op) = .next (u.reply ss r) := by
  rw [whenManaged_next hm, State.ledgerWrite_of_mayWrite hw (by rw [h]; exact hr), h]

/-- The state a request reaches differs in its session alone. -/
theorem State.touched_eq (s : State) (ss : Nat) : ∃ a, s.touched ss = { s with acc := a } := by
  unfold State.touched
  split
  · exact ⟨_, rfl⟩
  · exact ⟨s.acc, rfl⟩

/-! ### The state a request reaches -/

@[simp] theorem State.touched_reg (s : State) (ss k i : Nat) : (s.touched ss).reg k i = s.reg k i := by
  unfold State.touched; split <;> simp

@[simp] theorem State.touched_log (s : State) (ss : Nat) : (s.touched ss).log = s.log := by unfold State.touched; split <;> rfl
@[simp] theorem State.touched_sent (s : State) (ss : Nat) : (s.touched ss).sent = s.sent := by unfold State.touched; split <;> rfl
@[simp] theorem State.touched_pins (s : State) (ss : Nat) : (s.touched ss).pins = s.pins := by unfold State.touched; split <;> rfl
@[simp] theorem State.touched_regs (s : State) (ss : Nat) : (s.touched ss).regs = s.regs := by unfold State.touched; split <;> rfl
@[simp] theorem State.touched_blobs (s : State) (ss : Nat) : (s.touched ss).blobs = s.blobs := by unfold State.touched; split <;> rfl
@[simp] theorem State.touched_shadow (s : State) (ss : Nat) : (s.touched ss).shadow = s.shadow := by unfold State.touched; split <;> rfl
@[simp] theorem State.touched_fuses (s : State) (ss : Nat) : (s.touched ss).fuses = s.fuses := by unfold State.touched; split <;> rfl
@[simp] theorem State.touched_nvA (s : State) (ss : Nat) : (s.touched ss).nvA = s.nvA := by unfold State.touched; split <;> rfl
@[simp] theorem State.touched_nvB (s : State) (ss : Nat) : (s.touched ss).nvB = s.nvB := by unfold State.touched; split <;> rfl
@[simp] theorem State.touched_ingots (s : State) (ss : Nat) : (s.touched ss).ingots = s.ingots := by unfold State.touched; split <;> rfl
@[simp] theorem State.touched_groups (s : State) (ss : Nat) : (s.touched ss).groups = s.groups := by unfold State.touched; split <;> rfl
@[simp] theorem State.touched_sources (s : State) (ss : Nat) : (s.touched ss).sources = s.sources := by unfold State.touched; split <;> rfl
@[simp] theorem State.touched_slots (s : State) (ss : Nat) : (s.touched ss).slots = s.slots := by unfold State.touched; split <;> rfl
@[simp] theorem State.touched_smith (s : State) (ss : Nat) : (s.touched ss).smith = s.smith := by unfold State.touched; split <;> rfl
@[simp] theorem State.touched_plan (s : State) (ss : Nat) : (s.touched ss).plan = s.plan := by unfold State.touched; split <;> rfl
@[simp] theorem State.touched_planSlot (s : State) (ss : Nat) : (s.touched ss).planSlot = s.planSlot := by unfold State.touched; split <;> rfl
@[simp] theorem State.touched_commits (s : State) (ss : Nat) : (s.touched ss).commits = s.commits := by unfold State.touched; split <;> rfl
@[simp] theorem State.touched_outputs (s : State) (ss : Nat) : (s.touched ss).outputs = s.outputs := by unfold State.touched; split <;> rfl
@[simp] theorem State.touched_engines (s : State) (ss : Nat) : (s.touched ss).engines = s.engines := by unfold State.touched; split <;> rfl
@[simp] theorem State.touched_sinks (s : State) (ss : Nat) : (s.touched ss).sinks = s.sinks := by unfold State.touched; split <;> rfl
@[simp] theorem State.touched_recover (s : State) (ss : Nat) : (s.touched ss).recover = s.recover := by unfold State.touched; split <;> rfl
@[simp] theorem State.touched_ctxs (s : State) (ss : Nat) : (s.touched ss).ctxs = s.ctxs := by unfold State.touched; split <;> rfl
@[simp] theorem State.touched_pipes (s : State) (ss : Nat) : (s.touched ss).pipes = s.pipes := by unfold State.touched; split <;> rfl
@[simp] theorem State.touched_camPorts (s : State) (ss : Nat) : (s.touched ss).camPorts = s.camPorts := by unfold State.touched; split <;> rfl
@[simp] theorem State.touched_lanes (s : State) (ss : Nat) : (s.touched ss).lanes = s.lanes := by unfold State.touched; split <;> rfl
@[simp] theorem State.touched_ports (s : State) (ss : Nat) : (s.touched ss).ports = s.ports := by unfold State.touched; split <;> rfl
@[simp] theorem State.touched_time (s : State) (ss : Nat) : (s.touched ss).time = s.time := by unfold State.touched; split <;> rfl
@[simp] theorem State.touched_fabric (s : State) (ss : Nat) : (s.touched ss).fabric = s.fabric := by unfold State.touched; split <;> rfl
@[simp] theorem State.touched_dram (s : State) (ss : Nat) : (s.touched ss).dram = s.dram := by unfold State.touched; split <;> rfl
@[simp] theorem State.touched_pair (s : State) (ss : Nat) : (s.touched ss).pair = s.pair := by unfold State.touched; split <;> rfl
@[simp] theorem State.touched_keys (s : State) (ss : Nat) : (s.touched ss).keys = s.keys := by unfold State.touched; split <;> rfl
@[simp] theorem State.touched_scans (s : State) (ss : Nat) : (s.touched ss).scans = s.scans := by unfold State.touched; split <;> rfl
@[simp] theorem State.touched_power (s : State) (ss : Nat) : (s.touched ss).power = s.power := by unfold State.touched; split <;> rfl
@[simp] theorem State.touched_fresh (s : State) (ss : Nat) : (s.touched ss).fresh = s.fresh := by unfold State.touched; split <;> rfl
@[simp] theorem State.touched_pending (s : State) (ss : Nat) : (s.touched ss).pending = s.pending := by unfold State.touched; split <;> rfl

/-! ### Sessions -/

/-- A session replaced is found under its identifier. -/
theorem session_find_set (l : List Session) (y z : Session) (ss : Nat) (h : l.find? (fun x => x.id == ss) = some y)
    (hz : z.id = y.id) : (l.map fun w => if w.id == z.id then z else w).find? (fun x => x.id == ss) = some z := by
  induction l with
  | nil => cases h
  | cons a l ih =>
    have hy : y.id = ss := by simpa using List.find?_some h
    rw [List.find?_cons] at h
    rw [List.map_cons, List.find?_cons]
    cases ha : a.id == ss
    · rw [ha] at h
      have h3 : (a.id == z.id) = false := by rw [hz, hy]; exact ha
      simp only [h3, ha, Bool.false_eq_true, if_false]
      exact ih h
    · have h3 : (a.id == z.id) = true := by rw [hz, hy]; exact ha
      have h4 : (z.id == ss) = true := by rw [hz, hy]; simp
      simp only [h3, if_true, h4]

theorem State.session_touch {s : State} {ss : Nat} {x : Session} (h : s.session? ss = some x) :
    (s.touch x).session? ss = some { x with lastSent := s.now } :=
  session_find_set _ x _ ss h rfl

theorem State.session_setSession {s : State} {ss : Nat} {x y : Session} (h : s.session? ss = some x) (hy : y.id = x.id) :
    (s.setSession y).session? ss = some y :=
  session_find_set _ x _ ss h hy

/-- The length of a value that may be written fits its entry. -/
theorem State.mayWrite_length {s : State} {ss key : Nat} {v : Val} {e : Entry} (h : s.mayWrite ss key v = true)
    (he : entryAt key = some e) : lengthOk e v = true := by
  obtain ⟨e', x, he', hx, _, _, hc⟩ := State.mayWrite_spec h
  rw [he] at he'; cases he'
  cases hl : lengthOk e v
  · simp only [State.checkWrite, hl] at hc
    repeat (split at hc; · cases hc)
    exact absurd rfl ‹¬(!false) = true›
  · rfl

end Sys2Proof.Machine
end

