-- ==== Sys2Proof/Laws/Memory.lean ====
section
/-! SUPPORT. The laws of the memory: a byte reads as it was last written, and a write leaves every other byte alone. -/

namespace Sys2Proof.Machine

set_option Elab.async false

/-- No address at or below the bound of a canonical memory is listed. -/
theorem Memory.read_below {m : List Host.Cell} {a k : Nat} (h : Memory.wfFrom (some a) m = true) (hk : k ≤ a) :
    Memory.read m k = unwritten := by
  induction m generalizing a with
  | nil => rfl
  | cons c m ih =>
    obtain ⟨b, v⟩ := c
    simp only [Memory.wfFrom, Bool.and_eq_true, decide_eq_true_eq] at h
    unfold Memory.read
    rw [if_neg (by omega)]
    exact ih h.2 (by omega)

/-- A byte written reads as written. -/
theorem Memory.read_write_same {m : List Host.Cell} (k : Nat) (v : Byte) (h : Memory.wf m = true) :
    Memory.read (Memory.write m k v) k = v := by
  unfold Memory.wf at h
  generalize none = lo at h
  induction m generalizing lo with
  | nil =>
    unfold Memory.write
    split
    · rename_i hv; simp [Memory.read, hv]
    · simp [Memory.read]
  | cons c m ih =>
    obtain ⟨a, b⟩ := c
    simp only [Memory.wfFrom, Bool.and_eq_true] at h
    unfold Memory.write
    split
    · split
      · rename_i hka hv
        have hm : Memory.read m k = unwritten := Memory.read_below h.2 (by omega)
        unfold Memory.read
        rw [if_neg (by omega), hm, hv]
      · simp [Memory.read]
    · split
      · split
        · rename_i hv
          subst_vars
          exact Memory.read_below h.2 (Nat.le_refl _)
        · simp [Memory.read]
      · rename_i hne
        unfold Memory.read
        rw [if_neg (fun e => hne e.symm)]
        exact ih (some a) h.2

/-- A write leaves every other byte alone. -/
theorem Memory.read_write_ne {m : List Host.Cell} {k j : Nat} (v : Byte) (h : Memory.wf m = true) (hj : j ≠ k) :
    Memory.read (Memory.write m k v) j = Memory.read m j := by
  unfold Memory.wf at h
  generalize none = lo at h
  induction m generalizing lo with
  | nil =>
    unfold Memory.write
    split
    · rfl
    · simp [Memory.read, Ne.symm hj]
  | cons c m ih =>
    obtain ⟨a, b⟩ := c
    simp only [Memory.wfFrom, Bool.and_eq_true] at h
    unfold Memory.write
    split
    · split
      · rfl
      · simp [Memory.read, Ne.symm hj]
    · split
      · rename_i hka
        subst hka
        split
        · simp [Memory.read, Ne.symm hj]
        · simp [Memory.read, Ne.symm hj]
      · simp only [Memory.read]
        rw [ih (some a) h.2]

/-- A string stored leaves every byte outside it alone. -/
theorem Memory.read_writeN_ne {m : List Host.Cell} {a j : Nat} (bs : Bytes) (h : Memory.wf m = true)
    (hj : j < a ∨ a + bs.length ≤ j) : Memory.read (Memory.writeN m a bs) j = Memory.read m j := by
  induction bs generalizing m a with
  | nil => rfl
  | cons b bs ih =>
    simp only [List.length_cons] at hj
    unfold Memory.writeN
    rw [ih (Memory.wf_write a b h) (by omega), Memory.read_write_ne b h (by omega)]

/-- The bytes of a string stored read as it gives them. -/
theorem Memory.read_writeN_same {m : List Host.Cell} (a : Nat) (bs : Bytes) (i : Nat) (h : Memory.wf m = true)
    (hi : i < bs.length) : Memory.read (Memory.writeN m a bs) (a + i) = bs[i] := by
  induction bs generalizing m a i with
  | nil => simp at hi
  | cons b bs ih =>
    unfold Memory.writeN
    cases i with
    | zero =>
      rw [Memory.read_writeN_ne bs (Memory.wf_write a b h) (by omega)]
      exact Memory.read_write_same a b h
    | succ i =>
      have := ih (a + 1) i (Memory.wf_write a b h) (by simpa using hi)
      rw [show a + (i + 1) = a + 1 + i by omega, this]
      rfl

/-- What is loaded from where a string was stored is that string. -/
theorem Memory.readN_writeN_same {m : List Host.Cell} (a : Nat) (bs : Bytes) (h : Memory.wf m = true) :
    Memory.readN (Memory.writeN m a bs) a bs.length = bs := by
  have key : ∀ (n : Nat) (m : List Host.Cell) (a : Nat), (Memory.readN m a n).length = n ∧
      ∀ i (hi : i < (Memory.readN m a n).length), (Memory.readN m a n)[i] = Memory.read m (a + i) := by
    intro n
    induction n with
    | zero => intro m a; exact ⟨rfl, fun i hi => absurd hi (by simp [Memory.readN])⟩
    | succ n ih =>
      intro m a
      refine ⟨by simp [Memory.readN, (ih m (a + 1)).1], ?_⟩
      intro i hi
      cases i with
      | zero => rfl
      | succ i =>
        have := (ih m (a + 1)).2 i (by simpa [Memory.readN] using hi)
        simp only [Memory.readN, List.getElem_cons_succ, this]
        congr 1
        omega
  apply List.ext_getElem
  · exact (key bs.length _ a).1
  · intro i h1 h2
    rw [(key bs.length _ a).2 i h1, Memory.read_writeN_same a bs i h h2]

end Sys2Proof.Machine
end

