-- ==== Sys2Proof/Laws/PerInstr.lean ====
section
/-! SUPPORT. Statements made of every command, one lemma for each. -/

namespace Sys2Proof.Laws.SessionFits

set_option Elab.async false

/-- The session that a command names, where it comes over one (R417). -/
def sessionOf : Instr → Option Nat
  | .roleSelectWrite ss _ => some ss
  | .registerWrite ss _ _ => some ss
  | .sessionIdleTimeout ss => some ss
  | .segmentHoldExpiry ss => some ss
  | .saveConfiguration ss _ _ => some ss
  | .eraseSavedConfiguration ss _ _ => some ss
  | .nonVolatileWrite ss _ _ _ => some ss
  | .programIntegratorKey ss _ _ => some ss
  | .revokeIntegratorKey ss _ _ => some ss
  | .rightsPolicyWrite ss _ _ => some ss
  | .debugLockWrite ss _ _ => some ss
  | .minSecurityVersionWrite ss _ _ => some ss
  | .revokeImageKey ss _ _ => some ss
  | .roleLockWrite ss _ _ => some ss
  | .wallAliasWrite ss _ _ => some ss
  | .memberNumberWrite ss _ => some ss
  | .hostAcquire ss _ => some ss
  | .hostPublish ss _ => some ss
  | .hostRelease ss _ => some ss
  | .eventLatchClear ss _ => some ss
  | .tableLoad ss _ => some ss
  | .place ss _ => some ss
  | .dryRun ss => some ss
  | .emptySlot ss _ => some ss
  | .commit ss _ => some ss
  | .cancel ss _ => some ss
  | .discardShadow ss _ => some ss
  | .hostTransfer ss _ => some ss
  | .temperLoad ss _ => some ss
  | .sensorProfileWrite ss _ => some ss
  | .retrain ss _ => some ss
  | .rateWrite ss _ => some ss
  | .offsetWrite ss _ => some ss
  | .stepWrite ss _ => some ss
  | .hostTimeState ss _ => some ss
  | .timeSourceWrite ss _ => some ss
  | .clearOutcomes ss _ => some ss
  | .evacuate ss _ => some ss
  | .retrainChannel ss _ => some ss
  | .retireChannel ss _ => some ss
  | .testEngine ss _ => some ss
  | .switchBackEngine ss _ => some ss
  | .switchBackLane ss _ => some ss
  | .handOver ss _ => some ss
  | .saveBaselines ss _ => some ss
  | .start ss _ => some ss
  | .startFresh ss _ => some ss
  | .suspend ss _ => some ss
  | .abortScan ss _ => some ss
  | .forceOn ss _ => some ss
  | .deviceReset ss _ => some ss
  | .imageChunk ss _ => some ss
  | .verifySlot ss _ => some ss
  | .activate ss _ => some ss
  | .confirm ss _ => some ss
  | _ => none

/-- A well-formed command that comes over a session names it in 16 bits (R409, R417), and no word of the table spells a command, for
the table gives its rows no bits (log entry 62). -/
def Statement (i : Instr) : Prop :=
  (i.wf = true → ∀ ss, sessionOf i = some ss → ss < 65536) ∧ ∀ nbits w, decodeTableWord nbits w ≠ some i

theorem unspelled (i : Instr) (nbits w : Nat) : decodeTableWord nbits w ≠ some i := by
  simp [decodeTableWord]

theorem roleSelectWrite (ss : Nat) (v : Nat) : Statement (.roleSelectWrite ss v) :=
  ⟨fun h _ hv => by cases hv; simp [Instr.wf, fits] at h; omega, unspelled _⟩

theorem registerWrite (ss : Nat) (key : Nat) (v : Val) : Statement (.registerWrite ss key v) :=
  ⟨fun h _ hv => by cases hv; simp [Instr.wf, fits] at h; omega, unspelled _⟩

theorem ledgerRead (p : Peer) (r : Req) : Statement (.ledgerRead p r) :=
  ⟨fun _ _ hv => (nomatch hv), unspelled _⟩

theorem ledgerWriteFrame (p : Peer) (r : Req) : Statement (.ledgerWriteFrame p r) :=
  ⟨fun _ _ hv => (nomatch hv), unspelled _⟩

theorem describe (p : Peer) (r : Req) : Statement (.describe p r) :=
  ⟨fun _ _ hv => (nomatch hv), unspelled _⟩

theorem openSession (p : Peer) (r : Req) : Statement (.openSession p r) :=
  ⟨fun _ _ hv => (nomatch hv), unspelled _⟩

theorem respond (p : Peer) (r : Req) : Statement (.respond p r) :=
  ⟨fun _ _ hv => (nomatch hv), unspelled _⟩

theorem closeSession (p : Peer) (r : Req) : Statement (.closeSession p r) :=
  ⟨fun _ _ hv => (nomatch hv), unspelled _⟩

theorem keepAlive (p : Peer) (r : Req) : Statement (.keepAlive p r) :=
  ⟨fun _ _ hv => (nomatch hv), unspelled _⟩

theorem sessionIdleTimeout (ss : Nat) : Statement (.sessionIdleTimeout ss) :=
  ⟨fun h _ hv => by cases hv; simp [Instr.wf, fits] at h; omega, unspelled _⟩

theorem lockoutExpiry (path : Fin 5) : Statement (.lockoutExpiry path) :=
  ⟨fun _ _ hv => (nomatch hv), unspelled _⟩

theorem segmentHoldExpiry (ss : Nat) : Statement (.segmentHoldExpiry ss) :=
  ⟨fun h _ hv => by cases hv; simp [Instr.wf, fits] at h; omega, unspelled _⟩

theorem canFrameReceive (controller : Fin 2) (ident : BitVec 29) (payload : Bytes) : Statement (.canFrameReceive controller ident payload) :=
  ⟨fun _ _ hv => (nomatch hv), unspelled _⟩

theorem canMessageTimeout (controller : Fin 2) (node : Fin 256) : Statement (.canMessageTimeout controller node) :=
  ⟨fun _ _ hv => (nomatch hv), unspelled _⟩

theorem canBusOff (controller : Fin 2) : Statement (.canBusOff controller) :=
  ⟨fun _ _ hv => (nomatch hv), unspelled _⟩

theorem canBusOffRecovery (controller : Fin 2) : Statement (.canBusOffRecovery controller) :=
  ⟨fun _ _ hv => (nomatch hv), unspelled _⟩

theorem udpLedgerDatagram (address : Nat) (port : Nat) (payload : Bytes) : Statement (.udpLedgerDatagram address port payload) :=
  ⟨fun _ _ hv => (nomatch hv), unspelled _⟩

theorem arpRequest (target : BitVec 32) (sender : BitVec 32) : Statement (.arpRequest target sender) :=
  ⟨fun _ _ hv => (nomatch hv), unspelled _⟩

theorem icmpEchoRequest (target : BitVec 32) (sender : BitVec 32) (payload : Bytes) : Statement (.icmpEchoRequest target sender payload) :=
  ⟨fun _ _ hv => (nomatch hv), unspelled _⟩

theorem doorbell (mailbox : Fin 4) (request : Bytes) : Statement (.doorbell mailbox request) :=
  ⟨fun _ _ hv => (nomatch hv), unspelled _⟩

theorem mailboxFree (mailbox : Fin 4) : Statement (.mailboxFree mailbox) :=
  ⟨fun _ _ hv => (nomatch hv), unspelled _⟩

theorem pcieBarWrite (bar : Bar) (offset : Nat) (data : Bytes) (requester : BitVec 16) (tag : Nat) : Statement (.pcieBarWrite bar offset data requester tag) :=
  ⟨fun _ _ hv => (nomatch hv), unspelled _⟩

theorem pcieBarRead (bar : Bar) (offset : Nat) (len : Nat) (requester : BitVec 16) (tag : Nat) : Statement (.pcieBarRead bar offset len requester tag) :=
  ⟨fun _ _ hv => (nomatch hv), unspelled _⟩

theorem pciePerst (level : Bool) : Statement (.pciePerst level) :=
  ⟨fun _ _ hv => (nomatch hv), unspelled _⟩

theorem saveConfiguration (ss : Nat) (v : Nat) (result : StoreEnd) : Statement (.saveConfiguration ss v result) :=
  ⟨fun h _ hv => by cases hv; simp [Instr.wf, fits] at h; omega, unspelled _⟩

theorem eraseSavedConfiguration (ss : Nat) (v : Nat) (result : StoreEnd) : Statement (.eraseSavedConfiguration ss v result) :=
  ⟨fun h _ hv => by cases hv; simp [Instr.wf, fits] at h; omega, unspelled _⟩

theorem nonVolatileWrite (ss : Nat) (key : Nat) (v : Val) (result : StoreEnd) : Statement (.nonVolatileWrite ss key v result) :=
  ⟨fun h _ hv => by cases hv; simp [Instr.wf, fits] at h; omega, unspelled _⟩

theorem programIntegratorKey (ss : Nat) (key : Bytes) (verified : Bool) : Statement (.programIntegratorKey ss key verified) :=
  ⟨fun h _ hv => by cases hv; simp [Instr.wf, fits] at h; omega, unspelled _⟩

theorem revokeIntegratorKey (ss : Nat) (slot : Nat) (verified : Bool) : Statement (.revokeIntegratorKey ss slot verified) :=
  ⟨fun h _ hv => by cases hv; simp [Instr.wf, fits] at h; omega, unspelled _⟩

theorem rightsPolicyWrite (ss : Nat) (v : Nat) (result : FuseEnd) : Statement (.rightsPolicyWrite ss v result) :=
  ⟨fun h _ hv => by cases hv; simp [Instr.wf, fits] at h; omega, unspelled _⟩

theorem debugLockWrite (ss : Nat) (v : Nat) (result : FuseEnd) : Statement (.debugLockWrite ss v result) :=
  ⟨fun h _ hv => by cases hv; simp [Instr.wf, fits] at h; omega, unspelled _⟩

theorem minSecurityVersionWrite (ss : Nat) (v : Nat) (verified : Bool) : Statement (.minSecurityVersionWrite ss v verified) :=
  ⟨fun h _ hv => by cases hv; simp [Instr.wf, fits] at h; omega, unspelled _⟩

theorem revokeImageKey (ss : Nat) (slot : Nat) (verified : Bool) : Statement (.revokeImageKey ss slot verified) :=
  ⟨fun h _ hv => by cases hv; simp [Instr.wf, fits] at h; omega, unspelled _⟩

theorem roleLockWrite (ss : Nat) (v : Nat) (result : FuseEnd) : Statement (.roleLockWrite ss v result) :=
  ⟨fun h _ hv => by cases hv; simp [Instr.wf, fits] at h; omega, unspelled _⟩

theorem wallAliasWrite (ss : Nat) (v : Nat) (result : FuseEnd) : Statement (.wallAliasWrite ss v result) :=
  ⟨fun h _ hv => by cases hv; simp [Instr.wf, fits] at h; omega, unspelled _⟩

theorem memberNumberWrite (ss : Nat) (v : Nat) : Statement (.memberNumberWrite ss v) :=
  ⟨fun h _ hv => by cases hv; simp [Instr.wf, fits] at h; omega, unspelled _⟩

theorem hostAcquire (ss : Nat) (slot : Nat) : Statement (.hostAcquire ss slot) :=
  ⟨fun h _ hv => by cases hv; simp [Instr.wf, fits] at h; omega, unspelled _⟩

theorem hostPublish (ss : Nat) (v : Nat) : Statement (.hostPublish ss v) :=
  ⟨fun h _ hv => by cases hv; simp [Instr.wf, fits] at h; omega, unspelled _⟩

theorem hostContentCheckDone (ingot : Fin 4096) (readOk : Bool) : Statement (.hostContentCheckDone ingot readOk) :=
  ⟨fun _ _ hv => (nomatch hv), unspelled _⟩

theorem hostRelease (ss : Nat) (ingot : Nat) : Statement (.hostRelease ss ingot) :=
  ⟨fun h _ hv => by cases hv; simp [Instr.wf, fits] at h; omega, unspelled _⟩

theorem readerRetire (ingot : Fin 4096) (reader : Fin 46) : Statement (.readerRetire ingot reader) :=
  ⟨fun _ _ hv => (nomatch hv), unspelled _⟩

theorem outputFrameStart (output : Fin 32) : Statement (.outputFrameStart output) :=
  ⟨fun _ _ hv => (nomatch hv), unspelled _⟩

theorem holdLimitReached (output : Fin 32) : Statement (.holdLimitReached output) :=
  ⟨fun _ _ hv => (nomatch hv), unspelled _⟩

theorem sealPoint (output : Fin 32) : Statement (.sealPoint output) :=
  ⟨fun _ _ hv => (nomatch hv), unspelled _⟩

theorem startOfBlanking (output : Fin 32) : Statement (.startOfBlanking output) :=
  ⟨fun _ _ hv => (nomatch hv), unspelled _⟩

theorem lineMatch (output : Fin 32) : Statement (.lineMatch output) :=
  ⟨fun _ _ hv => (nomatch hv), unspelled _⟩

theorem frameDone (output : Fin 32) : Statement (.frameDone output) :=
  ⟨fun _ _ hv => (nomatch hv), unspelled _⟩

theorem eventLatchClear (ss : Nat) (v : Nat) : Statement (.eventLatchClear ss v) :=
  ⟨fun h _ hv => by cases hv; simp [Instr.wf, fits] at h; omega, unspelled _⟩

theorem layerUnderrun (engine : Fin 18) (layer : Fin 24) (x : Nat) (y : Nat) : Statement (.layerUnderrun engine layer x y) :=
  ⟨fun _ _ hv => (nomatch hv), unspelled _⟩

theorem engineFailure (engine : Fin 18) (deadline : Bool) (line : Nat) : Statement (.engineFailure engine deadline line) :=
  ⟨fun _ _ hv => (nomatch hv), unspelled _⟩

theorem engineSubstitutionArm (engine : Fin 18) : Statement (.engineSubstitutionArm engine) :=
  ⟨fun _ _ hv => (nomatch hv), unspelled _⟩

theorem hotPlugAssert (port : Fin 8) (sinkRate : Fin 4) (sinkLink : SinkLink) (edid : Bytes) :
    Statement (.hotPlugAssert port sinkRate sinkLink edid) :=
  ⟨fun _ _ hv => (nomatch hv), unspelled _⟩

theorem hotPlugLoss (port : Fin 8) (lowUs : Nat) : Statement (.hotPlugLoss port lowUs) :=
  ⟨fun _ _ hv => (nomatch hv), unspelled _⟩

theorem irqHpd (port : Fin 8) (linkLost : Bool) : Statement (.irqHpd port linkLost) :=
  ⟨fun _ _ hv => (nomatch hv), unspelled _⟩

theorem dpTrainingDone (port : Fin 8) (result : TrainEnd) : Statement (.dpTrainingDone port result) :=
  ⟨fun _ _ hv => (nomatch hv), unspelled _⟩

theorem dsiInitDone (port : Fin 4) (acknowledged : Bool) : Statement (.dsiInitDone port acknowledged) :=
  ⟨fun _ _ hv => (nomatch hv), unspelled _⟩

theorem tearingEffect (port : Fin 4) : Statement (.tearingEffect port) :=
  ⟨fun _ _ hv => (nomatch hv), unspelled _⟩

theorem tableLoad (ss : Nat) (blob : Bytes) : Statement (.tableLoad ss blob) :=
  ⟨fun h _ hv => by cases hv; simp [Instr.wf, fits] at h; omega, unspelled _⟩

theorem writebackRegionStart (engine : Fin 16) : Statement (.writebackRegionStart engine) :=
  ⟨fun _ _ hv => (nomatch hv), unspelled _⟩

theorem writebackRegionEnd (engine : Fin 16) : Statement (.writebackRegionEnd engine) :=
  ⟨fun _ _ hv => (nomatch hv), unspelled _⟩

theorem place (ss : Nat) (v : Nat) : Statement (.place ss v) :=
  ⟨fun h _ hv => by cases hv; simp [Instr.wf, fits] at h; omega, unspelled _⟩

theorem dryRun (ss : Nat) : Statement (.dryRun ss) :=
  ⟨fun h _ hv => by cases hv; simp [Instr.wf, fits] at h; omega, unspelled _⟩

theorem placementDone (timeUs : Nat) : Statement (.placementDone timeUs) :=
  ⟨fun _ _ hv => (nomatch hv), unspelled _⟩

theorem emptySlot (ss : Nat) (v : Nat) : Statement (.emptySlot ss v) :=
  ⟨fun h _ hv => by cases hv; simp [Instr.wf, fits] at h; omega, unspelled _⟩

theorem automaticReplanStart : Statement (.automaticReplanStart) :=
  ⟨fun _ _ hv => (nomatch hv), unspelled _⟩

theorem automaticReplanDone (timeUs : Nat) : Statement (.automaticReplanDone timeUs) :=
  ⟨fun _ _ hv => (nomatch hv), unspelled _⟩

theorem commit (ss : Nat) (v : Nat) : Statement (.commit ss v) :=
  ⟨fun h _ hv => by cases hv; simp [Instr.wf, fits] at h; omega, unspelled _⟩

theorem commitAccept : Statement (.commitAccept) :=
  ⟨fun _ _ hv => (nomatch hv), unspelled _⟩

theorem commitLockIn (ticket : Nat) : Statement (.commitLockIn ticket) :=
  ⟨fun _ _ hv => (nomatch hv), unspelled _⟩

theorem cancel (ss : Nat) (ticket : Nat) : Statement (.cancel ss ticket) :=
  ⟨fun h _ hv => by cases hv; simp [Instr.wf, fits] at h; omega, unspelled _⟩

theorem discardShadow (ss : Nat) (v : Nat) : Statement (.discardShadow ss v) :=
  ⟨fun h _ hv => by cases hv; simp [Instr.wf, fits] at h; omega, unspelled _⟩

theorem prepare (port : Fin 24) (m : WallMsg) : Statement (.prepare port m) :=
  ⟨fun _ _ hv => (nomatch hv), unspelled _⟩

theorem ready (port : Fin 24) (m : WallMsg) : Statement (.ready port m) :=
  ⟨fun _ _ hv => (nomatch hv), unspelled _⟩

theorem refuse (port : Fin 24) (m : WallMsg) : Statement (.refuse port m) :=
  ⟨fun _ _ hv => (nomatch hv), unspelled _⟩

theorem decisionDeadline (ticket : Nat) : Statement (.decisionDeadline ticket) :=
  ⟨fun _ _ hv => (nomatch hv), unspelled _⟩

theorem go (port : Fin 24) (m : WallMsg) : Statement (.go port m) :=
  ⟨fun _ _ hv => (nomatch hv), unspelled _⟩

theorem abort (port : Fin 24) (m : WallMsg) : Statement (.abort port m) :=
  ⟨fun _ _ hv => (nomatch hv), unspelled _⟩

theorem applied (port : Fin 24) (m : WallMsg) : Statement (.applied port m) :=
  ⟨fun _ _ hv => (nomatch hv), unspelled _⟩

theorem appliedReportTimeout (ticket : Nat) : Statement (.appliedReportTimeout ticket) :=
  ⟨fun _ _ hv => (nomatch hv), unspelled _⟩

theorem wallPresence (port : Fin 24) (wallAlias : Nat) (member : Nat) (role : Nat) (pairState : Nat) (serial : Nat) : Statement (.wallPresence port wallAlias member role pairState serial) :=
  ⟨fun _ _ hv => (nomatch hv), unspelled _⟩

theorem presenceSend : Statement (.presenceSend) :=
  ⟨fun _ _ hv => (nomatch hv), unspelled _⟩

theorem memberPresenceTimeout (member : Fin 64) : Statement (.memberPresenceTimeout member) :=
  ⟨fun _ _ hv => (nomatch hv), unspelled _⟩

theorem joinListenEnd : Statement (.joinListenEnd) :=
  ⟨fun _ _ hv => (nomatch hv), unspelled _⟩

theorem frameStartPacket (port : Fin 16) (header : ShortHeader) : Statement (.frameStartPacket port header) :=
  ⟨fun _ _ hv => (nomatch hv), unspelled _⟩

theorem longPacket (port : Fin 16) (vc : Fin 16) (dataType : BitVec 6) (payload : Bytes) (headerEcc : Fin 3) (crcOk : Bool) : Statement (.longPacket port vc dataType payload headerEcc crcOk) :=
  ⟨fun _ _ hv => (nomatch hv), unspelled _⟩

theorem frameEndPacket (port : Fin 16) (header : ShortHeader) : Statement (.frameEndPacket port header) :=
  ⟨fun _ _ hv => (nomatch hv), unspelled _⟩

theorem lineGapTimeout (ctx : Fin 32) : Statement (.lineGapTimeout ctx) :=
  ⟨fun _ _ hv => (nomatch hv), unspelled _⟩

theorem signalAbsentTimeout (port : Fin 16) : Statement (.signalAbsentTimeout port) :=
  ⟨fun _ _ hv => (nomatch hv), unspelled _⟩

theorem portFaultSecond (port : Fin 16) (sotErrors : Nat) : Statement (.portFaultSecond port sotErrors) :=
  ⟨fun _ _ hv => (nomatch hv), unspelled _⟩

theorem pipelineBind : Statement (.pipelineBind) :=
  ⟨fun _ _ hv => (nomatch hv), unspelled _⟩

theorem pipelineFrameDone (pipe : Fin 4) (writes : MemEnd) : Statement (.pipelineFrameDone pipe writes) :=
  ⟨fun _ _ hv => (nomatch hv), unspelled _⟩

theorem aeStep (ctx : Fin 32) : Statement (.aeStep ctx) :=
  ⟨fun _ _ hv => (nomatch hv), unspelled _⟩

theorem awbStep (ctx : Fin 32) : Statement (.awbStep ctx) :=
  ⟨fun _ _ hv => (nomatch hv), unspelled _⟩

theorem exposureTransferDone (ctx : Fin 32) (result : BusEnd) (released : Bool) : Statement (.exposureTransferDone ctx result released) :=
  ⟨fun _ _ hv => (nomatch hv), unspelled _⟩

theorem controlBusTimeout (port : Fin 16) : Statement (.controlBusTimeout port) :=
  ⟨fun _ _ hv => (nomatch hv), unspelled _⟩

theorem hostTransfer (ss : Nat) (blob : Bytes) : Statement (.hostTransfer ss blob) :=
  ⟨fun h _ hv => by cases hv; simp [Instr.wf, fits] at h; omega, unspelled _⟩

theorem hostTransferStart (port : Fin 16) : Statement (.hostTransferStart port) :=
  ⟨fun _ _ hv => (nomatch hv), unspelled _⟩

theorem hostTransferDone (port : Fin 16) (acknowledged : Bool) (data : Bytes) : Statement (.hostTransferDone port acknowledged data) :=
  ⟨fun _ _ hv => (nomatch hv), unspelled _⟩

theorem hostTransferTimeout (port : Fin 16) : Statement (.hostTransferTimeout port) :=
  ⟨fun _ _ hv => (nomatch hv), unspelled _⟩

theorem temperLoad (ss : Nat) (blob : Bytes) : Statement (.temperLoad ss blob) :=
  ⟨fun h _ hv => by cases hv; simp [Instr.wf, fits] at h; omega, unspelled _⟩

theorem sensorProfileWrite (ss : Nat) (blob : Bytes) : Statement (.sensorProfileWrite ss blob) :=
  ⟨fun h _ hv => by cases hv; simp [Instr.wf, fits] at h; omega, unspelled _⟩

theorem blockLock (lane : Fin 52) : Statement (.blockLock lane) :=
  ⟨fun _ _ hv => (nomatch hv), unspelled _⟩

theorem blockLockLoss (lane : Fin 52) : Statement (.blockLockLoss lane) :=
  ⟨fun _ _ hv => (nomatch hv), unspelled _⟩

theorem detectTimeout (lane : Fin 52) : Statement (.detectTimeout lane) :=
  ⟨fun _ _ hv => (nomatch hv), unspelled _⟩

theorem backOffExpiry (lane : Fin 52) : Statement (.backOffExpiry lane) :=
  ⟨fun _ _ hv => (nomatch hv), unspelled _⟩

theorem capabilityBlock (lane : Fin 52) (block : RxBlock) : Statement (.capabilityBlock lane block) :=
  ⟨fun _ _ hv => (nomatch hv), unspelled _⟩

theorem exchangeTimeout (lane : Fin 52) : Statement (.exchangeTimeout lane) :=
  ⟨fun _ _ hv => (nomatch hv), unspelled _⟩

theorem trainBlock (lane : Fin 52) (block : RxBlock) (merit : BitVec 8) (selfDone : Bool) : Statement (.trainBlock lane block merit selfDone) :=
  ⟨fun _ _ hv => (nomatch hv), unspelled _⟩

theorem trainTimeout (lane : Fin 52) : Statement (.trainTimeout lane) :=
  ⟨fun _ _ hv => (nomatch hv), unspelled _⟩

theorem verifyEnd (lane : Fin 52) (errors : Nat) : Statement (.verifyEnd lane errors) :=
  ⟨fun _ _ hv => (nomatch hv), unspelled _⟩

theorem stepBlock (lane : Fin 52) (block : RxBlock) : Statement (.stepBlock lane block) :=
  ⟨fun _ _ hv => (nomatch hv), unspelled _⟩

theorem rateSwitchDone (lane : Fin 52) : Statement (.rateSwitchDone lane) :=
  ⟨fun _ _ hv => (nomatch hv), unspelled _⟩

theorem runEntryBlock (lane : Fin 52) (block : RxBlock) : Statement (.runEntryBlock lane block) :=
  ⟨fun _ _ hv => (nomatch hv), unspelled _⟩

theorem runEntryDone (lane : Fin 52) : Statement (.runEntryDone lane) :=
  ⟨fun _ _ hv => (nomatch hv), unspelled _⟩

theorem loopbackBlock (lane : Fin 52) (block : RxBlock) : Statement (.loopbackBlock lane block) :=
  ⟨fun _ _ hv => (nomatch hv), unspelled _⟩

theorem anchorIntervalSend (port : Fin 24) (anythingWaiting : Bool) : Statement (.anchorIntervalSend port anythingWaiting) :=
  ⟨fun _ _ hv => (nomatch hv), unspelled _⟩

theorem anchorReceived (lane : Fin 52) (word : BitVec 64) (skewNs : Nat) (fill : Nat) (stuffBad : Nat) : Statement (.anchorReceived lane word skewNs fill stuffBad) :=
  ⟨fun _ _ hv => (nomatch hv), unspelled _⟩

theorem anchorMissed (lane : Fin 52) : Statement (.anchorMissed lane) :=
  ⟨fun _ _ hv => (nomatch hv), unspelled _⟩

theorem elasticBufferFault (lane : Fin 52) : Statement (.elasticBufferFault lane) :=
  ⟨fun _ _ hv => (nomatch hv), unspelled _⟩

theorem bankedIdleTimeout (port : Fin 24) : Statement (.bankedIdleTimeout port) :=
  ⟨fun _ _ hv => (nomatch hv), unspelled _⟩

theorem bankedExit (port : Fin 24) : Statement (.bankedExit port) :=
  ⟨fun _ _ hv => (nomatch hv), unspelled _⟩

theorem retrain (ss : Nat) (v : Nat) : Statement (.retrain ss v) :=
  ⟨fun h _ hv => by cases hv; simp [Instr.wf, fits] at h; omega, unspelled _⟩

theorem errorInjection (lane : Fin 52) : Statement (.errorInjection lane) :=
  ⟨fun _ _ hv => (nomatch hv), unspelled _⟩

theorem videoHeaderCell (port : Fin 24) (cell : Bytes) : Statement (.videoHeaderCell port cell) :=
  ⟨fun _ _ hv => (nomatch hv), unspelled _⟩

theorem videoDataCell (port : Fin 24) (cell : Bytes) : Statement (.videoDataCell port cell) :=
  ⟨fun _ _ hv => (nomatch hv), unspelled _⟩

theorem videoTrailerCell (port : Fin 24) (cell : Bytes) : Statement (.videoTrailerCell port cell) :=
  ⟨fun _ _ hv => (nomatch hv), unspelled _⟩

theorem inboundFrameTimeout (slot : Fin 40) : Statement (.inboundFrameTimeout slot) :=
  ⟨fun _ _ hv => (nomatch hv), unspelled _⟩

theorem nullCell (port : Fin 24) (cell : Bytes) : Statement (.nullCell port cell) :=
  ⟨fun _ _ hv => (nomatch hv), unspelled _⟩

theorem witnessCell (port : Fin 24) (cell : Bytes) : Statement (.witnessCell port cell) :=
  ⟨fun _ _ hv => (nomatch hv), unspelled _⟩

theorem witnessEchoTimeout (output : Fin 32) (seq : Nat) : Statement (.witnessEchoTimeout output seq) :=
  ⟨fun _ _ hv => (nomatch hv), unspelled _⟩

theorem forwardFrameStart (slot : Fin 40) : Statement (.forwardFrameStart slot) :=
  ⟨fun _ _ hv => (nomatch hv), unspelled _⟩

theorem messageCell (port : Fin 24) (cell : Bytes) : Statement (.messageCell port cell) :=
  ⟨fun _ _ hv => (nomatch hv), unspelled _⟩

theorem creditCell (port : Fin 24) (cell : Bytes) : Statement (.creditCell port cell) :=
  ⟨fun _ _ hv => (nomatch hv), unspelled _⟩

theorem creditSend (port : Fin 24) : Statement (.creditSend port) :=
  ⟨fun _ _ hv => (nomatch hv), unspelled _⟩

theorem retransmitTimeout (port : Fin 24) : Statement (.retransmitTimeout port) :=
  ⟨fun _ _ hv => (nomatch hv), unspelled _⟩

theorem syncCell (port : Fin 24) (cell : Bytes) : Statement (.syncCell port cell) :=
  ⟨fun _ _ hv => (nomatch hv), unspelled _⟩

theorem delayRequestCell (port : Fin 24) (cell : Bytes) : Statement (.delayRequestCell port cell) :=
  ⟨fun _ _ hv => (nomatch hv), unspelled _⟩

theorem delayResponseCell (port : Fin 24) (cell : Bytes) : Statement (.delayResponseCell port cell) :=
  ⟨fun _ _ hv => (nomatch hv), unspelled _⟩

theorem syncSend (port : Fin 24) : Statement (.syncSend port) :=
  ⟨fun _ _ hv => (nomatch hv), unspelled _⟩

theorem delayExchangeTimeout (port : Fin 24) : Statement (.delayExchangeTimeout port) :=
  ⟨fun _ _ hv => (nomatch hv), unspelled _⟩

theorem rateWrite (ss : Nat) (v : Nat) : Statement (.rateWrite ss v) :=
  ⟨fun h _ hv => by cases hv; simp [Instr.wf, fits] at h; omega, unspelled _⟩

theorem offsetWrite (ss : Nat) (v : Nat) : Statement (.offsetWrite ss v) :=
  ⟨fun h _ hv => by cases hv; simp [Instr.wf, fits] at h; omega, unspelled _⟩

theorem stepWrite (ss : Nat) (v : Nat) : Statement (.stepWrite ss v) :=
  ⟨fun h _ hv => by cases hv; simp [Instr.wf, fits] at h; omega, unspelled _⟩

theorem eraSweepDone : Statement (.eraSweepDone) :=
  ⟨fun _ _ hv => (nomatch hv), unspelled _⟩

theorem hostTimeState (ss : Nat) (v : Nat) : Statement (.hostTimeState ss v) :=
  ⟨fun h _ hv => by cases hv; simp [Instr.wf, fits] at h; omega, unspelled _⟩

theorem timeSourceWrite (ss : Nat) (v : Nat) : Statement (.timeSourceWrite ss v) :=
  ⟨fun h _ hv => by cases hv; simp [Instr.wf, fits] at h; omega, unspelled _⟩

theorem servoSample (steer : Int) : Statement (.servoSample steer) :=
  ⟨fun _ _ hv => (nomatch hv), unspelled _⟩

theorem holdoverExpiry : Statement (.holdoverExpiry) :=
  ⟨fun _ _ hv => (nomatch hv), unspelled _⟩

theorem announceTimeout : Statement (.announceTimeout) :=
  ⟨fun _ _ hv => (nomatch hv), unspelled _⟩

theorem syncTimeout : Statement (.syncTimeout) :=
  ⟨fun _ _ hv => (nomatch hv), unspelled _⟩

theorem hostStateTimeout : Statement (.hostStateTimeout) :=
  ⟨fun _ _ hv => (nomatch hv), unspelled _⟩

theorem ptpSync (port : Fin 2) (head : PtpHead) (source : Nat) (seq : Nat) (twoStep : Bool) (origin : Nat) (rx : Nat) (correction : Int) : Statement (.ptpSync port head source seq twoStep origin rx correction) :=
  ⟨fun _ _ hv => (nomatch hv), unspelled _⟩

theorem ptpFollowUp (port : Fin 2) (head : PtpHead) (source : Nat) (seq : Nat) (origin : Nat) (correction : Int) : Statement (.ptpFollowUp port head source seq origin correction) :=
  ⟨fun _ _ hv => (nomatch hv), unspelled _⟩

theorem ptpAnnounce (port : Fin 2) (head : PtpHead) (source : Nat) (grandmaster : Nat) (priority1 : Nat) (priority2 : Nat) (cls : Nat) (accuracy : Nat) (variance : Nat) (steps : Nat) : Statement (.ptpAnnounce port head source grandmaster priority1 priority2 cls accuracy variance steps) :=
  ⟨fun _ _ hv => (nomatch hv), unspelled _⟩

theorem ptpDelayReq (port : Fin 2) (head : PtpHead) (source : Nat) (seq : Nat) (rx : Nat) : Statement (.ptpDelayReq port head source seq rx) :=
  ⟨fun _ _ hv => (nomatch hv), unspelled _⟩

theorem ptpDelayResp (port : Fin 2) (head : PtpHead) (source : Nat) (requester : Nat) (seq : Nat) (rx : Nat) (correction : Int) : Statement (.ptpDelayResp port head source requester seq rx correction) :=
  ⟨fun _ _ hv => (nomatch hv), unspelled _⟩

theorem ptpPdelayReq (port : Fin 2) (head : PtpHead) (source : Nat) (seq : Nat) (rx : Nat) : Statement (.ptpPdelayReq port head source seq rx) :=
  ⟨fun _ _ hv => (nomatch hv), unspelled _⟩

theorem ptpPdelayResp (port : Fin 2) (head : PtpHead) (source : Nat) (seq : Nat) (turnaround : Nat) (rx : Nat) : Statement (.ptpPdelayResp port head source seq turnaround rx) :=
  ⟨fun _ _ hv => (nomatch hv), unspelled _⟩

theorem ptpMasterSyncSend : Statement (.ptpMasterSyncSend) :=
  ⟨fun _ _ hv => (nomatch hv), unspelled _⟩

theorem ptpMasterAnnounceSend : Statement (.ptpMasterAnnounceSend) :=
  ⟨fun _ _ hv => (nomatch hv), unspelled _⟩

theorem ethernetFrameForward (port : Fin 2) (dest : BitVec 48) (ptpEvent : Option Nat) (udp : Bool) (rx : Nat) (fcs : BitVec 32)
    (frame : Bytes) : Statement (.ethernetFrameForward port dest ptpEvent udp rx fcs frame) :=
  ⟨fun _ _ hv => (nomatch hv), unspelled _⟩

theorem timeDomainWake (ticks : Nat) : Statement (.timeDomainWake ticks) :=
  ⟨fun _ _ hv => (nomatch hv), unspelled _⟩

theorem fabricRequest (port : Fin 42) (r : FabReq) : Statement (.fabricRequest port r) :=
  ⟨fun _ _ hv => (nomatch hv), unspelled _⟩

theorem fabricGrant (target : Fin 25) : Statement (.fabricGrant target) :=
  ⟨fun _ _ hv => (nomatch hv), unspelled _⟩

theorem fabricCompletion (target : Fin 25) (port : Fin 42) (id : Nat) (result : MemEnd) : Statement (.fabricCompletion target port id result) :=
  ⟨fun _ _ hv => (nomatch hv), unspelled _⟩

theorem classBRefusal (port : Fin 42) (target : Fin 25) (id : Nat) (overflow : Bool) : Statement (.classBRefusal port target id overflow) :=
  ⟨fun _ _ hv => (nomatch hv), unspelled _⟩

theorem classCTimeout (port : Fin 42) (target : Fin 25) (id : Nat) : Statement (.classCTimeout port target id) :=
  ⟨fun _ _ hv => (nomatch hv), unspelled _⟩

theorem lockedSequence (port : Fin 42) (target : Fin 25) (accesses : Nat) : Statement (.lockedSequence port target accesses) :=
  ⟨fun _ _ hv => (nomatch hv), unspelled _⟩

theorem clearOutcomes (ss : Nat) (v : Nat) : Statement (.clearOutcomes ss v) :=
  ⟨fun h _ hv => by cases hv; simp [Instr.wf, fits] at h; omega, unspelled _⟩

theorem readUncorrectable (port : Fin 42) (address : Nat) (syndrome : Nat) : Statement (.readUncorrectable port address syndrome) :=
  ⟨fun _ _ hv => (nomatch hv), unspelled _⟩

theorem refreshDue (channel : Fin 16) : Statement (.refreshDue channel) :=
  ⟨fun _ _ hv => (nomatch hv), unspelled _⟩

theorem refreshCatchUp (channel : Fin 16) : Statement (.refreshCatchUp channel) :=
  ⟨fun _ _ hv => (nomatch hv), unspelled _⟩

theorem temperatureRead (channel : Fin 16) (celsius : Int) : Statement (.temperatureRead channel celsius) :=
  ⟨fun _ _ hv => (nomatch hv), unspelled _⟩

theorem tracking (channel : Fin 16) (driftPs : Int) (inRange : Bool) : Statement (.tracking channel driftPs inRange) :=
  ⟨fun _ _ hv => (nomatch hv), unspelled _⟩

theorem scrubRead (channel : Fin 16) (sector : Nat) (corrected : Bool) (uncorrectable : Bool) (syndrome : Nat) : Statement (.scrubRead channel sector corrected uncorrectable syndrome) :=
  ⟨fun _ _ hv => (nomatch hv), unspelled _⟩

theorem selfRefreshEntry (channel : Fin 16) : Statement (.selfRefreshEntry channel) :=
  ⟨fun _ _ hv => (nomatch hv), unspelled _⟩

theorem selfRefreshExit (channel : Fin 16) (beforeCommand : Bool) : Statement (.selfRefreshExit channel beforeCommand) :=
  ⟨fun _ _ hv => (nomatch hv), unspelled _⟩

theorem dramTrainingDone (channel : Fin 16) (passed : Bool) : Statement (.dramTrainingDone channel passed) :=
  ⟨fun _ _ hv => (nomatch hv), unspelled _⟩

theorem evacuate (ss : Nat) (v : Nat) : Statement (.evacuate ss v) :=
  ⟨fun h _ hv => by cases hv; simp [Instr.wf, fits] at h; omega, unspelled _⟩

theorem evacuationComplete (channel : Fin 16) : Statement (.evacuationComplete channel) :=
  ⟨fun _ _ hv => (nomatch hv), unspelled _⟩

theorem retrainChannel (ss : Nat) (v : Nat) : Statement (.retrainChannel ss v) :=
  ⟨fun h _ hv => by cases hv; simp [Instr.wf, fits] at h; omega, unspelled _⟩

theorem retireChannel (ss : Nat) (v : Nat) : Statement (.retireChannel ss v) :=
  ⟨fun h _ hv => by cases hv; simp [Instr.wf, fits] at h; omega, unspelled _⟩

theorem recoveryActionStart : Statement (.recoveryActionStart) :=
  ⟨fun _ _ hv => (nomatch hv), unspelled _⟩

theorem testEngine (ss : Nat) (v : Nat) : Statement (.testEngine ss v) :=
  ⟨fun h _ hv => by cases hv; simp [Instr.wf, fits] at h; omega, unspelled _⟩

theorem engineTestDone (passed : Bool) : Statement (.engineTestDone passed) :=
  ⟨fun _ _ hv => (nomatch hv), unspelled _⟩

theorem switchBackEngine (ss : Nat) (v : Nat) : Statement (.switchBackEngine ss v) :=
  ⟨fun h _ hv => by cases hv; simp [Instr.wf, fits] at h; omega, unspelled _⟩

theorem switchBackLane (ss : Nat) (v : Nat) : Statement (.switchBackLane ss v) :=
  ⟨fun h _ hv => by cases hv; simp [Instr.wf, fits] at h; omega, unspelled _⟩

theorem pairDecide : Statement (.pairDecide) :=
  ⟨fun _ _ hv => (nomatch hv), unspelled _⟩

theorem pairActRise : Statement (.pairActRise) :=
  ⟨fun _ _ hv => (nomatch hv), unspelled _⟩

theorem heartbeatSend (mainLoop : Bool) : Statement (.heartbeatSend mainLoop) :=
  ⟨fun _ _ hv => (nomatch hv), unspelled _⟩

theorem heartbeatPulse (widthUs : Nat) : Statement (.heartbeatPulse widthUs) :=
  ⟨fun _ _ hv => (nomatch hv), unspelled _⟩

theorem heartbeatLoss : Statement (.heartbeatLoss) :=
  ⟨fun _ _ hv => (nomatch hv), unspelled _⟩

theorem bellowsSectionData (frame : Bytes) : Statement (.bellowsSectionData frame) :=
  ⟨fun _ _ hv => (nomatch hv), unspelled _⟩

theorem bellowsHeaderCommit (frame : Bytes) : Statement (.bellowsHeaderCommit frame) :=
  ⟨fun _ _ hv => (nomatch hv), unspelled _⟩

theorem bellowsTime (frame : Bytes) : Statement (.bellowsTime frame) :=
  ⟨fun _ _ hv => (nomatch hv), unspelled _⟩

theorem bellowsYield (frame : Bytes) : Statement (.bellowsYield frame) :=
  ⟨fun _ _ hv => (nomatch hv), unspelled _⟩

theorem pushTimer : Statement (.pushTimer) :=
  ⟨fun _ _ hv => (nomatch hv), unspelled _⟩

theorem takeoverReady (hearthTicks : Nat) : Statement (.takeoverReady hearthTicks) :=
  ⟨fun _ _ hv => (nomatch hv), unspelled _⟩

theorem takeoverHoldLimit : Statement (.takeoverHoldLimit) :=
  ⟨fun _ _ hv => (nomatch hv), unspelled _⟩

theorem resyncDone : Statement (.resyncDone) :=
  ⟨fun _ _ hv => (nomatch hv), unspelled _⟩

theorem handOver (ss : Nat) (v : Nat) : Statement (.handOver ss v) :=
  ⟨fun h _ hv => by cases hv; simp [Instr.wf, fits] at h; omega, unspelled _⟩

theorem measurementGate (raw : List (BitVec 16)) : Statement (.measurementGate raw) :=
  ⟨fun _ _ hv => (nomatch hv), unspelled _⟩

theorem saveBaselines (ss : Nat) (v : Nat) : Statement (.saveBaselines ss v) :=
  ⟨fun h _ hv => by cases hv; simp [Instr.wf, fits] at h; omega, unspelled _⟩

theorem autoBaselineSave : Statement (.autoBaselineSave) :=
  ⟨fun _ _ hv => (nomatch hv), unspelled _⟩

theorem baselineSaveDone (result : StoreEnd) : Statement (.baselineSaveDone result) :=
  ⟨fun _ _ hv => (nomatch hv), unspelled _⟩

theorem keyRecordsRead (p : Peer) (r : Req) : Statement (.keyRecordsRead p r) :=
  ⟨fun _ _ hv => (nomatch hv), unspelled _⟩

theorem start (ss : Nat) (v : Nat) : Statement (.start ss v) :=
  ⟨fun h _ hv => by cases hv; simp [Instr.wf, fits] at h; omega, unspelled _⟩

theorem startFresh (ss : Nat) (v : Nat) : Statement (.startFresh ss v) :=
  ⟨fun h _ hv => by cases hv; simp [Instr.wf, fits] at h; omega, unspelled _⟩

theorem suspend (ss : Nat) (v : Nat) : Statement (.suspend ss v) :=
  ⟨fun h _ hv => by cases hv; simp [Instr.wf, fits] at h; omega, unspelled _⟩

theorem abortScan (ss : Nat) (v : Nat) : Statement (.abortScan ss v) :=
  ⟨fun h _ hv => by cases hv; simp [Instr.wf, fits] at h; omega, unspelled _⟩

theorem scanBurstDone (unit : Fin 4) (result : MemEnd) : Statement (.scanBurstDone unit result) :=
  ⟨fun _ _ hv => (nomatch hv), unspelled _⟩

theorem domainPowerGood (domain : Fin 24) : Statement (.domainPowerGood domain) :=
  ⟨fun _ _ hv => (nomatch hv), unspelled _⟩

theorem domainPowerTimeout (domain : Fin 24) (pll : Bool) : Statement (.domainPowerTimeout domain pll) :=
  ⟨fun _ _ hv => (nomatch hv), unspelled _⟩

theorem powerGoodLoss (domain : Fin 24) : Statement (.powerGoodLoss domain) :=
  ⟨fun _ _ hv => (nomatch hv), unspelled _⟩

theorem domainHoldExpiry (domain : Fin 24) : Statement (.domainHoldExpiry domain) :=
  ⟨fun _ _ hv => (nomatch hv), unspelled _⟩

theorem domainPowerDownDone (domain : Fin 24) : Statement (.domainPowerDownDone domain) :=
  ⟨fun _ _ hv => (nomatch hv), unspelled _⟩

theorem forceOn (ss : Nat) (v : Nat) : Statement (.forceOn ss v) :=
  ⟨fun h _ hv => by cases hv; simp [Instr.wf, fits] at h; omega, unspelled _⟩

theorem crystalStable : Statement (.crystalStable) :=
  ⟨fun _ _ hv => (nomatch hv), unspelled _⟩

theorem crystalTimeout : Statement (.crystalTimeout) :=
  ⟨fun _ _ hv => (nomatch hv), unspelled _⟩

theorem refclkLoss : Statement (.refclkLoss) :=
  ⟨fun _ _ hv => (nomatch hv), unspelled _⟩

theorem refclkReturn : Statement (.refclkReturn) :=
  ⟨fun _ _ hv => (nomatch hv), unspelled _⟩

theorem powerOnReset : Statement (.powerOnReset) :=
  ⟨fun _ _ hv => (nomatch hv), unspelled _⟩

theorem sysRstN (lowNs : Nat) : Statement (.sysRstN lowNs) :=
  ⟨fun _ _ hv => (nomatch hv), unspelled _⟩

theorem deviceReset (ss : Nat) (v : Nat) : Statement (.deviceReset ss v) :=
  ⟨fun h _ hv => by cases hv; simp [Instr.wf, fits] at h; omega, unspelled _⟩

theorem bootImageLoaded (slotA : Bytes) (slotB : Bytes) : Statement (.bootImageLoaded slotA slotB) :=
  ⟨fun _ _ hv => (nomatch hv), unspelled _⟩

theorem imageChunk (ss : Nat) (blob : Bytes) : Statement (.imageChunk ss blob) :=
  ⟨fun h _ hv => by cases hv; simp [Instr.wf, fits] at h; omega, unspelled _⟩

theorem verifySlot (ss : Nat) (v : Nat) : Statement (.verifySlot ss v) :=
  ⟨fun h _ hv => by cases hv; simp [Instr.wf, fits] at h; omega, unspelled _⟩

theorem verifyDone : Statement (.verifyDone) :=
  ⟨fun _ _ hv => (nomatch hv), unspelled _⟩

theorem activate (ss : Nat) (v : Nat) : Statement (.activate ss v) :=
  ⟨fun h _ hv => by cases hv; simp [Instr.wf, fits] at h; omega, unspelled _⟩

theorem firmwareMainLoop (handOffRead : Bool) : Statement (.firmwareMainLoop handOffRead) :=
  ⟨fun _ _ hv => (nomatch hv), unspelled _⟩

theorem firmwareStartTimeout : Statement (.firmwareStartTimeout) :=
  ⟨fun _ _ hv => (nomatch hv), unspelled _⟩

theorem confirm (ss : Nat) (v : Nat) : Statement (.confirm ss v) :=
  ⟨fun h _ hv => by cases hv; simp [Instr.wf, fits] at h; omega, unspelled _⟩

theorem trialTimeout : Statement (.trialTimeout) :=
  ⟨fun _ _ hv => (nomatch hv), unspelled _⟩

theorem thermTrip : Statement (.thermTrip) :=
  ⟨fun _ _ hv => (nomatch hv), unspelled _⟩

theorem thermTripRelease : Statement (.thermTripRelease) :=
  ⟨fun _ _ hv => (nomatch hv), unspelled _⟩

theorem partnerHeartbeatAbsent : Statement (.partnerHeartbeatAbsent) :=
  ⟨fun _ _ hv => (nomatch hv), unspelled _⟩

theorem clockLockLoss (lane : Fin 52) : Statement (.clockLockLoss lane) :=
  ⟨fun _ _ hv => (nomatch hv), unspelled _⟩

theorem testPatternCheckerLock (lane : Fin 52) (errorBits : Nat) (comparedBits : Nat) : Statement (.testPatternCheckerLock lane errorBits comparedBits) :=
  ⟨fun _ _ hv => (nomatch hv), unspelled _⟩

theorem functionLevelReset : Statement (.functionLevelReset) :=
  ⟨fun _ _ hv => (nomatch hv), unspelled _⟩

theorem pcieLinkChange (generation : Fin 5) (width : Fin 9) : Statement (.pcieLinkChange generation width) :=
  ⟨fun _ _ hv => (nomatch hv), unspelled _⟩

theorem ethernetLinkChange (port : Fin 2) (speed : Fin 4) : Statement (.ethernetLinkChange port speed) :=
  ⟨fun _ _ hv => (nomatch hv), unspelled _⟩

theorem managementControllerStop : Statement (.managementControllerStop) :=
  ⟨fun _ _ hv => (nomatch hv), unspelled _⟩

theorem hearthWatchdogExpiry : Statement (.hearthWatchdogExpiry) :=
  ⟨fun _ _ hv => (nomatch hv), unspelled _⟩

end Sys2Proof.Laws.SessionFits
end

