-- ==== Sys2Proof/Laws/Still.lean ====
section
/-! SUPPORT. The fuses, the non-volatile store and the pins stand through every operation that is none of theirs: one lemma an operation. -/

namespace Sys2Proof.Machine

set_option Elab.async false
set_option linter.unusedTactic false
set_option linter.unreachableTactic false

@[simp] theorem State.still_mk {t : State} (log sent regs blobs shadow acc ingots groups sources slots smith plan planSlot commits outputs engines sinks panels recover ctxs pipes camPorts lanes ports time fabric dram pair keys scans power fresh pending) :
    State.still ⟨log, sent, t.pins, regs, blobs, shadow, acc, t.fuses, t.nvA, t.nvB, ingots, groups, sources, slots, smith, plan, planSlot, commits, outputs, engines, sinks, panels, recover, ctxs, pipes, camPorts, lanes, ports, time, fabric, dram, pair, keys, scans, power, fresh, pending⟩ = t.still := rfl
theorem ite_still {s₀ : State} {c : Prop} [Decidable c] {a b : State} (ha : a.still = s₀.still) (hb : b.still = s₀.still) :
    (if c then a else b).still = s₀.still := by split <;> assumption
theorem ite_still1 {α : Type} {s₀ : State} {c : Prop} [Decidable c] {a b : State × α} (ha : a.1.still = s₀.still) (hb : b.1.still = s₀.still) :
    (if c then a else b).1.still = s₀.still := by split <;> assumption
theorem ite_still2 {α : Type} {s₀ : State} {c : Prop} [Decidable c] {a b : α × State} (ha : a.2.still = s₀.still) (hb : b.2.still = s₀.still) :
    (if c then a else b).2.still = s₀.still := by split <;> assumption
theorem foldl_still {α : Type} {s₀ t : State} {f : State → α → State} (hf : ∀ u a, u.still = s₀.still → (f u a).still = s₀.still)
    (xs : List α) (h : t.still = s₀.still) : (xs.foldl f t).still = s₀.still := by
  induction xs generalizing t with
  | nil => exact h
  | cons a xs ih => exact ih (hf t a h)
theorem foldl_still1 {α β : Type} {s₀ : State} {p : State × β} {f : State × β → α → State × β}
    (hf : ∀ u a, u.1.still = s₀.still → (f u a).1.still = s₀.still) (xs : List α) (h : p.1.still = s₀.still) : (xs.foldl f p).1.still = s₀.still := by
  induction xs generalizing p with
  | nil => exact h
  | cons a xs ih => exact ih (hf p a h)
theorem foldl_still2 {α β : Type} {s₀ : State} {p : β × State} {f : β × State → α → β × State}
    (hf : ∀ u a, u.2.still = s₀.still → (f u a).2.still = s₀.still) (xs : List α) (h : p.2.still = s₀.still) : (xs.foldl f p).2.still = s₀.still := by
  induction xs generalizing p with
  | nil => exact h
  | cons a xs ih => exact ih (hf p a h)
theorem State.setReg_still_of {s₀ s : State} (hk : s.still = s₀.still) (key : Nat) (inst : Nat) (v : Nat) :
    (State.setReg s key inst v).still = s₀.still := by
  unfold State.setReg
  try dsimp only
  with_reducible
    repeat'
      first
      | assumption | intro u | apply ite_still | apply ite_still1 | apply ite_still2 | apply foldl_still
      | apply foldl_still1 | apply foldl_still2 | simp only [State.still_mk] | split | dsimp only

theorem State.setRegI_still_of {s₀ s : State} (hk : s.still = s₀.still) (key : Nat) (inst : Nat) (w : Nat) (z : Int) :
    (State.setRegI s key inst w z).still = s₀.still := by
  unfold State.setRegI
  try dsimp only
  with_reducible
    repeat'
      first
      | assumption | intro u | apply ite_still | apply ite_still1 | apply ite_still2 | apply foldl_still
      | apply foldl_still1 | apply foldl_still2 | apply State.setReg_still_of | simp only [State.still_mk] | split
      | dsimp only

theorem State.setFlag_still_of {s₀ s : State} (hk : s.still = s₀.still) (key : Nat) (inst : Nat) (b : Bool) :
    (State.setFlag s key inst b).still = s₀.still := by
  unfold State.setFlag
  try dsimp only
  with_reducible
    repeat'
      first
      | assumption | intro u | apply ite_still | apply ite_still1 | apply ite_still2 | apply foldl_still
      | apply foldl_still1 | apply foldl_still2 | apply State.setReg_still_of | simp only [State.still_mk] | split
      | dsimp only

theorem State.bumpBy_still_of {s₀ s : State} (hk : s.still = s₀.still) (key : Nat) (inst : Nat) (n : Nat) :
    (State.bumpBy s key inst n).still = s₀.still := by
  unfold State.bumpBy
  try dsimp only
  with_reducible
    repeat'
      first
      | assumption | intro u | apply ite_still | apply ite_still1 | apply ite_still2 | apply foldl_still
      | apply foldl_still1 | apply foldl_still2 | apply State.setReg_still_of | simp only [State.still_mk] | split
      | dsimp only

theorem State.bump_still_of {s₀ s : State} (hk : s.still = s₀.still) (key : Nat) (inst : Nat) :
    (State.bump s key inst).still = s₀.still := by
  unfold State.bump
  try dsimp only
  with_reducible
    repeat'
      first
      | assumption | intro u | apply ite_still | apply ite_still1 | apply ite_still2 | apply foldl_still
      | apply foldl_still1 | apply foldl_still2 | apply State.bumpBy_still_of | simp only [State.still_mk] | split
      | dsimp only

theorem State.setBlob_still_of {s₀ s : State} (hk : s.still = s₀.still) (key : Nat) (inst : Nat) (b : Bytes) :
    (State.setBlob s key inst b).still = s₀.still := by
  unfold State.setBlob
  try dsimp only
  with_reducible
    repeat'
      first
      | assumption | intro u | apply ite_still | apply ite_still1 | apply ite_still2 | apply foldl_still
      | apply foldl_still1 | apply foldl_still2 | simp only [State.still_mk] | split | dsimp only

theorem State.setActive_still_of {s₀ s : State} (hk : s.still = s₀.still) (key : Nat) (inst : Nat) (x0 : Val) :
    (State.setActive s key inst x0).still = s₀.still := by
  unfold State.setActive
  try dsimp only
  with_reducible
    repeat'
      first
      | assumption | intro u | apply ite_still | apply ite_still1 | apply ite_still2 | apply foldl_still
      | apply foldl_still1 | apply foldl_still2 | apply State.setReg_still_of | apply State.setBlob_still_of
      | simp only [State.still_mk] | split | dsimp only

theorem State.setShadow_still_of {s₀ s : State} (hk : s.still = s₀.still) (key : Nat) (inst : Nat) (v : Val) :
    (State.setShadow s key inst v).still = s₀.still := by
  unfold State.setShadow
  try dsimp only
  with_reducible
    repeat'
      first
      | assumption | intro u | apply ite_still | apply ite_still1 | apply ite_still2 | apply foldl_still
      | apply foldl_still1 | apply foldl_still2 | simp only [State.still_mk] | split | dsimp only

theorem State.setIngot_still_of {s₀ s : State} (hk : s.still = s₀.still) (n : Nat) (g : Ingot) :
    (State.setIngot s n g).still = s₀.still := by
  unfold State.setIngot
  try dsimp only
  with_reducible
    repeat'
      first
      | assumption | intro u | apply ite_still | apply ite_still1 | apply ite_still2 | apply foldl_still
      | apply foldl_still1 | apply foldl_still2 | apply State.setGroup_still_of | apply State.setSlot_still_of
      | apply State.setOutput_still_of | apply State.setEngine_still_of | apply State.setCtx_still_of
      | apply State.setPipe_still_of | apply State.setCamPort_still_of | apply State.setLane_still_of
      | apply State.setPort_still_of | apply State.setChan_still_of | apply State.setKey_still_of
      | apply State.setScan_still_of | simp only [State.still_mk] | split | dsimp only

theorem State.setGroup_still_of {s₀ s : State} (hk : s.still = s₀.still) (n : Nat) (g : Group) :
    (State.setGroup s n g).still = s₀.still := by
  unfold State.setGroup
  try dsimp only
  with_reducible
    repeat'
      first
      | assumption | intro u | apply ite_still | apply ite_still1 | apply ite_still2 | apply foldl_still
      | apply foldl_still1 | apply foldl_still2 | apply State.setSlot_still_of | apply State.setOutput_still_of
      | apply State.setEngine_still_of | apply State.setCtx_still_of | apply State.setPipe_still_of
      | apply State.setCamPort_still_of | apply State.setLane_still_of | apply State.setPort_still_of
      | apply State.setChan_still_of | apply State.setKey_still_of | apply State.setScan_still_of
      | simp only [State.still_mk] | split | dsimp only

theorem State.setSlot_still_of {s₀ s : State} (hk : s.still = s₀.still) (n : Nat) (g : Slot) :
    (State.setSlot s n g).still = s₀.still := by
  unfold State.setSlot
  try dsimp only
  with_reducible
    repeat'
      first
      | assumption | intro u | apply ite_still | apply ite_still1 | apply ite_still2 | apply foldl_still
      | apply foldl_still1 | apply foldl_still2 | apply State.setOutput_still_of | apply State.setEngine_still_of
      | apply State.setCtx_still_of | apply State.setPipe_still_of | apply State.setCamPort_still_of
      | apply State.setLane_still_of | apply State.setPort_still_of | apply State.setChan_still_of
      | apply State.setKey_still_of | apply State.setScan_still_of | simp only [State.still_mk] | split
      | dsimp only

theorem State.setOutput_still_of {s₀ s : State} (hk : s.still = s₀.still) (n : Nat) (o : Output) :
    (State.setOutput s n o).still = s₀.still := by
  unfold State.setOutput
  try dsimp only
  with_reducible
    repeat'
      first
      | assumption | intro u | apply ite_still | apply ite_still1 | apply ite_still2 | apply foldl_still
      | apply foldl_still1 | apply foldl_still2 | apply State.setEngine_still_of | apply State.setCtx_still_of
      | apply State.setPipe_still_of | apply State.setCamPort_still_of | apply State.setLane_still_of
      | apply State.setPort_still_of | apply State.setChan_still_of | apply State.setKey_still_of
      | apply State.setScan_still_of | simp only [State.still_mk] | split | dsimp only

theorem State.setEngine_still_of {s₀ s : State} (hk : s.still = s₀.still) (n : Nat) (e : Engine) :
    (State.setEngine s n e).still = s₀.still := by
  unfold State.setEngine
  try dsimp only
  with_reducible
    repeat'
      first
      | assumption | intro u | apply ite_still | apply ite_still1 | apply ite_still2 | apply foldl_still
      | apply foldl_still1 | apply foldl_still2 | apply State.setCtx_still_of | apply State.setPipe_still_of
      | apply State.setCamPort_still_of | apply State.setLane_still_of | apply State.setPort_still_of
      | apply State.setChan_still_of | apply State.setKey_still_of | apply State.setScan_still_of
      | simp only [State.still_mk] | split | dsimp only

theorem State.setCtx_still_of {s₀ s : State} (hk : s.still = s₀.still) (n : Nat) (c : Ctx) :
    (State.setCtx s n c).still = s₀.still := by
  unfold State.setCtx
  try dsimp only
  with_reducible
    repeat'
      first
      | assumption | intro u | apply ite_still | apply ite_still1 | apply ite_still2 | apply foldl_still
      | apply foldl_still1 | apply foldl_still2 | apply State.setPipe_still_of | apply State.setCamPort_still_of
      | apply State.setLane_still_of | apply State.setPort_still_of | apply State.setChan_still_of
      | apply State.setKey_still_of | apply State.setScan_still_of | simp only [State.still_mk] | split
      | dsimp only

theorem State.setPipe_still_of {s₀ s : State} (hk : s.still = s₀.still) (n : Nat) (p : Pipe) :
    (State.setPipe s n p).still = s₀.still := by
  unfold State.setPipe
  try dsimp only
  with_reducible
    repeat'
      first
      | assumption | intro u | apply ite_still | apply ite_still1 | apply ite_still2 | apply foldl_still
      | apply foldl_still1 | apply foldl_still2 | apply State.setCamPort_still_of | apply State.setLane_still_of
      | apply State.setPort_still_of | apply State.setChan_still_of | apply State.setKey_still_of
      | apply State.setScan_still_of | simp only [State.still_mk] | split | dsimp only

theorem State.setCamPort_still_of {s₀ s : State} (hk : s.still = s₀.still) (n : Nat) (p : CamPort) :
    (State.setCamPort s n p).still = s₀.still := by
  unfold State.setCamPort
  try dsimp only
  with_reducible
    repeat'
      first
      | assumption | intro u | apply ite_still | apply ite_still1 | apply ite_still2 | apply foldl_still
      | apply foldl_still1 | apply foldl_still2 | apply State.setLane_still_of | apply State.setPort_still_of
      | apply State.setChan_still_of | apply State.setKey_still_of | apply State.setScan_still_of
      | simp only [State.still_mk] | split | dsimp only

theorem State.setLane_still_of {s₀ s : State} (hk : s.still = s₀.still) (n : Nat) (l : Lane) :
    (State.setLane s n l).still = s₀.still := by
  unfold State.setLane
  try dsimp only
  with_reducible
    repeat'
      first
      | assumption | intro u | apply ite_still | apply ite_still1 | apply ite_still2 | apply foldl_still
      | apply foldl_still1 | apply foldl_still2 | apply State.setPort_still_of | apply State.setChan_still_of
      | apply State.setKey_still_of | apply State.setScan_still_of | simp only [State.still_mk] | split
      | dsimp only

theorem State.setPort_still_of {s₀ s : State} (hk : s.still = s₀.still) (n : Nat) (p : Port) :
    (State.setPort s n p).still = s₀.still := by
  unfold State.setPort
  try dsimp only
  with_reducible
    repeat'
      first
      | assumption | intro u | apply ite_still | apply ite_still1 | apply ite_still2 | apply foldl_still
      | apply foldl_still1 | apply foldl_still2 | apply State.setChan_still_of | apply State.setKey_still_of
      | apply State.setScan_still_of | simp only [State.still_mk] | split | dsimp only

theorem State.setChan_still_of {s₀ s : State} (hk : s.still = s₀.still) (n : Nat) (c : Chan) :
    (State.setChan s n c).still = s₀.still := by
  unfold State.setChan
  try dsimp only
  with_reducible
    repeat'
      first
      | assumption | intro u | apply ite_still | apply ite_still1 | apply ite_still2 | apply foldl_still
      | apply foldl_still1 | apply foldl_still2 | apply State.setKey_still_of | apply State.setScan_still_of
      | simp only [State.still_mk] | split | dsimp only

theorem State.setKey_still_of {s₀ s : State} (hk : s.still = s₀.still) (n : Nat) (k : Key) :
    (State.setKey s n k).still = s₀.still := by
  unfold State.setKey
  try dsimp only
  with_reducible
    repeat'
      first
      | assumption | intro u | apply ite_still | apply ite_still1 | apply ite_still2 | apply foldl_still
      | apply foldl_still1 | apply foldl_still2 | apply State.setScan_still_of | simp only [State.still_mk] | split
      | dsimp only

theorem State.setScan_still_of {s₀ s : State} (hk : s.still = s₀.still) (n : Nat) (c : Scan) :
    (State.setScan s n c).still = s₀.still := by
  unfold State.setScan
  try dsimp only
  with_reducible
    repeat'
      first
      | assumption | intro u | apply ite_still | apply ite_still1 | apply ite_still2 | apply foldl_still
      | apply foldl_still1 | apply foldl_still2 | simp only [State.still_mk] | split | dsimp only

theorem State.draw_still_of {s₀ s : State} (hk : s.still = s₀.still)  :
    (State.draw s).2.still = s₀.still := by
  unfold State.draw
  try dsimp only
  with_reducible
    repeat'
      first
      | assumption | intro u | apply ite_still | apply ite_still1 | apply ite_still2 | apply foldl_still
      | apply foldl_still1 | apply foldl_still2 | simp only [State.still_mk] | split | dsimp only

theorem State.drawBytes_still_of {s₀ s : State} (h : s.still = s₀.still) (n : Nat) : (State.drawBytes s n).2.still = s₀.still := by
  induction n generalizing s with
  | zero => exact h
  | succ n ih => exact ih (State.draw_still_of h)

theorem State.send_still_of {s₀ s : State} (hk : s.still = s₀.still) (x : Sent) :
    (State.send s x).still = s₀.still := by
  unfold State.send
  try dsimp only
  with_reducible
    repeat'
      first
      | assumption | intro u | apply ite_still | apply ite_still1 | apply ite_still2 | apply foldl_still
      | apply foldl_still1 | apply foldl_still2 | simp only [State.still_mk] | split | dsimp only

theorem State.reply_still_of {s₀ s : State} (hk : s.still = s₀.still) (ss : Nat) (r : Reply) :
    (State.reply s ss r).still = s₀.still := by
  unfold State.reply
  try dsimp only
  with_reducible
    repeat'
      first
      | assumption | intro u | apply ite_still | apply ite_still1 | apply ite_still2 | apply foldl_still
      | apply foldl_still1 | apply foldl_still2 | apply State.send_still_of | simp only [State.still_mk] | split
      | dsimp only

theorem State.raiseLog_still_of {s₀ s : State} (hk : s.still = s₀.still)  :
    (State.raiseLog s).still = s₀.still := by
  unfold State.raiseLog
  try dsimp only
  with_reducible
    repeat'
      first
      | assumption | intro u | apply ite_still | apply ite_still1 | apply ite_still2 | apply foldl_still
      | apply foldl_still1 | apply foldl_still2 | apply State.send_still_of | simp only [State.still_mk] | split
      | dsimp only

theorem State.recordAt_still_of {s₀ s : State} (hk : s.still = s₀.still) (time : Nat) (event : Nat) (code : Option Code) (inst : Nat) (detail : Int) (fw : Bool) (suppressed : Nat) :
    (State.recordAt s time event code inst detail fw suppressed).still = s₀.still := by
  unfold State.recordAt
  try dsimp only
  with_reducible
    repeat'
      first
      | assumption | intro u | apply ite_still | apply ite_still1 | apply ite_still2 | apply foldl_still
      | apply foldl_still1 | apply foldl_still2 | apply State.raiseLog_still_of | simp only [State.still_mk]
      | split | dsimp only

theorem State.record_still_of {s₀ s : State} (hk : s.still = s₀.still) (event : Nat) (code : Option Code) (inst : Nat) (detail : Int) (fw : Bool) :
    (State.record s event code inst detail fw).still = s₀.still := by
  unfold State.record
  try dsimp only
  with_reducible
    repeat'
      first
      | assumption | intro u | apply ite_still | apply ite_still1 | apply ite_still2 | apply foldl_still
      | apply foldl_still1 | apply foldl_still2 | apply State.recordAt_still_of | simp only [State.still_mk]
      | split | dsimp only

theorem State.recordEvery_still_of {s₀ s : State} (hk : s.still = s₀.still) (clock : Nat) (every : Nat) (perCode : Bool) (event : Nat) (code : Option Code) (inst : Nat) (detail : Int) (fw : Bool) :
    (State.recordEvery s clock every perCode event code inst detail fw).still = s₀.still := by
  unfold State.recordEvery
  try dsimp only
  with_reducible
    repeat'
      first
      | assumption | intro u | apply ite_still | apply ite_still1 | apply ite_still2 | apply foldl_still
      | apply foldl_still1 | apply foldl_still2 | apply State.recordAt_still_of | simp only [State.still_mk]
      | split | dsimp only

theorem State.recordLimited_still_of {s₀ s : State} (hk : s.still = s₀.still) (every : Nat) (event : Nat) (code : Option Code) (inst : Nat) (detail : Int) (fw : Bool) :
    (State.recordLimited s every event code inst detail fw).still = s₀.still := by
  unfold State.recordLimited
  try dsimp only
  with_reducible
    repeat'
      first
      | assumption | intro u | apply ite_still | apply ite_still1 | apply ite_still2 | apply foldl_still
      | apply foldl_still1 | apply foldl_still2 | apply State.recordEvery_still_of | simp only [State.still_mk]
      | split | dsimp only

theorem State.recordDevice_still_of {s₀ s : State} (hk : s.still = s₀.still) (every : Nat) (event : Nat) (code : Option Code) (inst : Nat) (detail : Int) :
    (State.recordDevice s every event code inst detail).still = s₀.still := by
  unfold State.recordDevice
  try dsimp only
  with_reducible
    repeat'
      first
      | assumption | intro u | apply ite_still | apply ite_still1 | apply ite_still2 | apply foldl_still
      | apply foldl_still1 | apply foldl_still2 | apply State.recordLimited_still_of | simp only [State.still_mk]
      | split | dsimp only

theorem State.setReady_still_of {s₀ s : State} (hk : s.still = s₀.still) (bit : Nat) :
    (State.setReady s bit).still = s₀.still := by
  unfold State.setReady
  try dsimp only
  with_reducible
    repeat'
      first
      | assumption | intro u | apply ite_still | apply ite_still1 | apply ite_still2 | apply foldl_still
      | apply foldl_still1 | apply foldl_still2 | apply State.setReg_still_of | apply State.record_still_of
      | simp only [State.still_mk] | split | dsimp only

theorem State.setFailed_still_of {s₀ s : State} (hk : s.still = s₀.still) (bit : Nat) (c : Option Code) :
    (State.setFailed s bit c).still = s₀.still := by
  unfold State.setFailed
  try dsimp only
  with_reducible
    repeat'
      first
      | assumption | intro u | apply ite_still | apply ite_still1 | apply ite_still2 | apply foldl_still
      | apply foldl_still1 | apply foldl_still2 | apply State.setReg_still_of | apply State.record_still_of
      | simp only [State.still_mk] | split | dsimp only

theorem State.store_still_of {s₀ s : State} (hk : s.still = s₀.still) (a : Nat) (bs : Bytes) :
    (State.store s a bs).still = s₀.still := by
  unfold State.store
  try dsimp only
  with_reducible
    repeat'
      first
      | assumption | intro u | apply ite_still | apply ite_still1 | apply ite_still2 | apply foldl_still
      | apply foldl_still1 | apply foldl_still2 | simp only [State.still_mk] | split | dsimp only

theorem State.setSession_still_of {s₀ s : State} (hk : s.still = s₀.still) (x : Session) :
    (State.setSession s x).still = s₀.still := by
  unfold State.setSession
  try dsimp only
  with_reducible
    repeat'
      first
      | assumption | intro u | apply ite_still | apply ite_still1 | apply ite_still2 | apply foldl_still
      | apply foldl_still1 | apply foldl_still2 | simp only [State.still_mk] | split | dsimp only

theorem State.noteRefusal_still_of {s₀ s : State} (hk : s.still = s₀.still) (who : Nat) (key : Nat) (c : Code) :
    (State.noteRefusal s who key c).still = s₀.still := by
  unfold State.noteRefusal
  try dsimp only
  with_reducible
    repeat'
      first
      | assumption | intro u | apply ite_still | apply ite_still1 | apply ite_still2 | apply foldl_still
      | apply foldl_still1 | apply foldl_still2 | apply State.recordLimited_still_of | simp only [State.still_mk]
      | split | dsimp only

theorem State.touch_still_of {s₀ s : State} (hk : s.still = s₀.still) (x : Session) :
    (State.touch s x).still = s₀.still := by
  unfold State.touch
  try dsimp only
  with_reducible
    repeat'
      first
      | assumption | intro u | apply ite_still | apply ite_still1 | apply ite_still2 | apply foldl_still
      | apply foldl_still1 | apply foldl_still2 | apply State.setSession_still_of | simp only [State.still_mk]
      | split | dsimp only

theorem State.tryWrite_still_of {s₀ s : State} (hk : s.still = s₀.still) (ss : Nat) (key : Nat) (v : Val) (op : WriteOp) (hop : ∀ (u : State) ss i v, u.still = s₀.still → (op u ss i v).1.still = s₀.still) :
    (State.tryWrite s ss key v op).1.still = s₀.still := by
  unfold State.tryWrite
  try dsimp only
  with_reducible
    repeat'
      first
      | assumption | intro u | apply ite_still | apply ite_still1 | apply ite_still2 | apply foldl_still
      | apply foldl_still1 | apply foldl_still2 | apply hop | apply State.touch_still_of
      | apply State.noteRefusal_still_of | simp only [State.still_mk] | split | dsimp only

theorem State.ledgerWrite_still_of {s₀ s : State} (hk : s.still = s₀.still) (ss : Nat) (key : Nat) (v : Val) (op : WriteOp) (hop : ∀ (u : State) ss i v, u.still = s₀.still → (op u ss i v).1.still = s₀.still) :
    (State.ledgerWrite s ss key v op).still = s₀.still := by
  unfold State.ledgerWrite
  try dsimp only
  with_reducible
    repeat'
      first
      | assumption | intro u | apply ite_still | apply ite_still1 | apply ite_still2 | apply foldl_still
      | apply foldl_still1 | apply foldl_still2 | apply hop | apply State.tryWrite_still_of
      | apply State.reply_still_of | simp only [State.still_mk] | split | dsimp only

theorem writeActive_still_of {s₀ s : State} (hk : s.still = s₀.still) (key : Nat) (ss i : Nat) (v : Val) :
    (writeActive key s ss i v).1.still = s₀.still := by
  unfold writeActive
  try dsimp only
  with_reducible
    repeat'
      first
      | assumption | intro u | apply ite_still | apply ite_still1 | apply ite_still2 | apply foldl_still
      | apply foldl_still1 | apply foldl_still2 | apply State.setActive_still_of | simp only [State.still_mk]
      | split | dsimp only

theorem writeShadow_still_of {s₀ s : State} (hk : s.still = s₀.still) (key : Nat) (ss i : Nat) (v : Val) :
    (writeShadow key s ss i v).1.still = s₀.still := by
  unfold writeShadow
  try dsimp only
  with_reducible
    repeat'
      first
      | assumption | intro u | apply ite_still | apply ite_still1 | apply ite_still2 | apply foldl_still
      | apply foldl_still1 | apply foldl_still2 | apply State.setShadow_still_of | simp only [State.still_mk]
      | split | dsimp only

theorem writeField_still_of {s₀ s : State} (hk : s.still = s₀.still) (key : Nat) (ss i : Nat) (v : Val) :
    (writeField key s ss i v).1.still = s₀.still := by
  unfold writeField
  try dsimp only
  with_reducible
    repeat'
      first
      | assumption | intro u | apply ite_still | apply ite_still1 | apply ite_still2 | apply foldl_still
      | apply foldl_still1 | apply foldl_still2 | apply State.setSession_still_of | simp only [State.still_mk]
      | split | dsimp only

theorem writePlain_still_of {s₀ s : State} (hk : s.still = s₀.still) (key : Nat) (ss i : Nat) (v : Val) :
    (writePlain key s ss i v).1.still = s₀.still := by
  unfold writePlain
  try dsimp only
  with_reducible
    repeat'
      first
      | assumption | intro u | apply ite_still | apply ite_still1 | apply ite_still2 | apply foldl_still
      | apply foldl_still1 | apply foldl_still2 | apply writeField_still_of | apply writeShadow_still_of
      | apply writeActive_still_of | simp only [State.still_mk] | split | dsimp only

theorem State.correctPhase_still_of {s₀ s : State} (hk : s.still = s₀.still) (o : Nat) :
    (State.correctPhase s o).still = s₀.still := by
  unfold State.correctPhase
  try dsimp only
  with_reducible
    repeat'
      first
      | assumption | intro u | apply ite_still | apply ite_still1 | apply ite_still2 | apply foldl_still
      | apply foldl_still1 | apply foldl_still2 | apply State.setOutput_still_of | simp only [State.still_mk]
      | split | dsimp only

theorem State.rephase_still_of {s₀ s : State} (hk : s.still = s₀.still) (o : Nat) (ns : Int) :
    (State.rephase s o ns).still = s₀.still := by
  unfold State.rephase
  try dsimp only
  with_reducible
    repeat'
      first
      | assumption | intro u | apply ite_still | apply ite_still1 | apply ite_still2 | apply foldl_still
      | apply foldl_still1 | apply foldl_still2 | apply State.setOutput_still_of
      | apply State.correctPhase_still_of | apply State.record_still_of | simp only [State.still_mk] | split
      | dsimp only

theorem State.changeRate_still_of {s₀ s : State} (hk : s.still = s₀.still) (v : Nat) :
    (State.changeRate s v).still = s₀.still := by
  unfold State.changeRate
  try dsimp only
  with_reducible
    repeat'
      first
      | assumption | intro u | apply ite_still | apply ite_still1 | apply ite_still2 | apply foldl_still
      | apply foldl_still1 | apply foldl_still2 | apply State.setReg_still_of | apply State.setRegI_still_of
      | simp only [State.still_mk] | split | dsimp only

theorem State.stepTime_still_of {s₀ s : State} (hk : s.still = s₀.still) (size : Int) :
    (State.stepTime s size).still = s₀.still := by
  unfold State.stepTime
  try dsimp only
  with_reducible
    repeat'
      first
      | assumption | intro u | apply ite_still | apply ite_still1 | apply ite_still2 | apply foldl_still
      | apply foldl_still1 | apply foldl_still2 | apply State.setRegI_still_of | apply State.bump_still_of
      | apply State.record_still_of | apply State.setReg_still_of | apply State.rephase_still_of
      | simp only [State.still_mk] | split | dsimp only

theorem State.sweepEra_still_of {s₀ s : State} (hk : s.still = s₀.still) (era : Nat) :
    (State.sweepEra s era).still = s₀.still := by
  unfold State.sweepEra
  try dsimp only
  with_reducible
    repeat'
      first
      | assumption | intro u | apply ite_still | apply ite_still1 | apply ite_still2 | apply foldl_still
      | apply foldl_still1 | apply foldl_still2 | simp only [State.still_mk] | split | dsimp only

theorem State.meanRate_still_of {s₀ s : State} (h : s.still = s₀.still) : (State.meanRate s).2.still = s₀.still := by
  unfold State.meanRate
  exact ite_still2 h (ite_still2 h (State.draw_still_of h))

theorem State.keepHoldover_still_of {s₀ s : State} (hk : s.still = s₀.still) (eff : Nat) (entered : Bool) :
    (State.keepHoldover s eff entered).still = s₀.still := by
  unfold State.keepHoldover
  try dsimp only
  with_reducible
    repeat'
      first
      | assumption | intro u | apply ite_still | apply ite_still1 | apply ite_still2 | apply foldl_still
      | apply foldl_still1 | apply foldl_still2 | simp only [State.still_mk] | split | dsimp only

theorem State.settleTime_still_of {s₀ s0 : State} (hk : s0.still = s₀.still) (c : Code) (entered : Bool) :
    (State.settleTime s0 c entered).still = s₀.still := by
  unfold State.settleTime
  try dsimp only
  with_reducible
    repeat'
      first
      | assumption | intro u | apply ite_still | apply ite_still1 | apply ite_still2 | apply foldl_still
      | apply foldl_still1 | apply foldl_still2 | apply State.keepHoldover_still_of | apply State.setReg_still_of
      | apply State.meanRate_still_of | apply State.changeRate_still_of | apply State.record_still_of
      | apply State.setReady_still_of | simp only [State.still_mk] | split | dsimp only

theorem State.setOwn_still_of {s₀ s : State} (hk : s.still = s₀.still) (own : Nat) (c : Code) :
    (State.setOwn s own c).still = s₀.still := by
  unfold State.setOwn
  try dsimp only
  with_reducible
    repeat'
      first
      | assumption | intro u | apply ite_still | apply ite_still1 | apply ite_still2 | apply foldl_still
      | apply foldl_still1 | apply foldl_still2 | apply State.settleTime_still_of | simp only [State.still_mk]
      | split | dsimp only

theorem State.lockTime_still_of {s₀ s : State} (hk : s.still = s₀.still)  :
    (State.lockTime s).still = s₀.still := by
  unfold State.lockTime
  try dsimp only
  with_reducible
    repeat'
      first
      | assumption | intro u | apply ite_still | apply ite_still1 | apply ite_still2 | apply foldl_still
      | apply foldl_still1 | apply foldl_still2 | apply State.setOwn_still_of | simp only [State.still_mk] | split
      | dsimp only

theorem State.loseTime_still_of {s₀ s : State} (hk : s.still = s₀.still) (missed : Bool) :
    (State.loseTime s missed).still = s₀.still := by
  unfold State.loseTime
  try dsimp only
  with_reducible
    repeat'
      first
      | assumption | intro u | apply ite_still | apply ite_still1 | apply ite_still2 | apply foldl_still
      | apply foldl_still1 | apply foldl_still2 | apply State.setOwn_still_of | simp only [State.still_mk] | split
      | dsimp only

theorem State.expectExchange_still_of {s₀ s : State} (hk : s.still = s₀.still) (p : Nat) :
    (State.expectExchange s p).still = s₀.still := by
  unfold State.expectExchange
  try dsimp only
  with_reducible
    repeat'
      first
      | assumption | intro u | apply ite_still | apply ite_still1 | apply ite_still2 | apply foldl_still
      | apply foldl_still1 | apply foldl_still2 | apply State.setPort_still_of | simp only [State.still_mk] | split
      | dsimp only

theorem State.followTimePort_still_of {s₀ s : State} (hk : s.still = s₀.still)  :
    (State.followTimePort s).still = s₀.still := by
  unfold State.followTimePort
  try dsimp only
  with_reducible
    repeat'
      first
      | assumption | intro u | apply ite_still | apply ite_still1 | apply ite_still2 | apply foldl_still
      | apply foldl_still1 | apply foldl_still2 | apply State.setReg_still_of | apply State.expectExchange_still_of
      | apply State.record_still_of | apply State.loseTime_still_of | simp only [State.still_mk] | split
      | dsimp only

theorem rateOp_still_of {s₀ s : State} (hk : s.still = s₀.still)  (ss i : Nat) (v : Val) :
    (rateOp  s ss i v).1.still = s₀.still := by
  unfold rateOp
  try dsimp only
  with_reducible
    repeat'
      first
      | assumption | intro u | apply ite_still | apply ite_still1 | apply ite_still2 | apply foldl_still
      | apply foldl_still1 | apply foldl_still2 | apply State.changeRate_still_of | simp only [State.still_mk]
      | split | dsimp only

theorem offsetOp_still_of {s₀ s : State} (hk : s.still = s₀.still)  (ss i : Nat) (v : Val) :
    (offsetOp  s ss i v).1.still = s₀.still := by
  unfold offsetOp
  try dsimp only
  with_reducible
    repeat'
      first
      | assumption | intro u | apply ite_still | apply ite_still1 | apply ite_still2 | apply foldl_still
      | apply foldl_still1 | apply foldl_still2 | apply State.stepTime_still_of | simp only [State.still_mk]
      | split | dsimp only

theorem stepOp_still_of {s₀ s : State} (hk : s.still = s₀.still)  (ss i : Nat) (v : Val) :
    (stepOp  s ss i v).1.still = s₀.still := by
  unfold stepOp
  try dsimp only
  with_reducible
    repeat'
      first
      | assumption | intro u | apply ite_still | apply ite_still1 | apply ite_still2 | apply foldl_still
      | apply foldl_still1 | apply foldl_still2 | apply State.stepTime_still_of | simp only [State.still_mk]
      | split | dsimp only

theorem hostTimeStateOp_still_of {s₀ s : State} (hk : s.still = s₀.still)  (ss i : Nat) (v : Val) :
    (hostTimeStateOp  s ss i v).1.still = s₀.still := by
  unfold hostTimeStateOp
  try dsimp only
  with_reducible
    repeat'
      first
      | assumption | intro u | apply ite_still | apply ite_still1 | apply ite_still2 | apply foldl_still
      | apply foldl_still1 | apply foldl_still2 | apply State.lockTime_still_of | apply State.loseTime_still_of
      | apply State.setOwn_still_of | simp only [State.still_mk] | split | dsimp only

theorem State.leaveSource_still_of {s₀ s : State} (hk : s.still = s₀.still) (was : Nat) (source : Nat) :
    (State.leaveSource s was source).still = s₀.still := by
  unfold State.leaveSource
  try dsimp only
  with_reducible
    repeat'
      first
      | assumption | intro u | apply ite_still | apply ite_still1 | apply ite_still2 | apply foldl_still
      | apply foldl_still1 | apply foldl_still2 | apply State.setOwn_still_of | apply State.loseTime_still_of
      | apply State.settleTime_still_of | simp only [State.still_mk] | split | dsimp only

theorem timeSourceOp_still_of {s₀ s : State} (hk : s.still = s₀.still)  (ss i : Nat) (v : Val) :
    (timeSourceOp  s ss i v).1.still = s₀.still := by
  unfold timeSourceOp
  try dsimp only
  with_reducible
    repeat'
      first
      | assumption | intro u | apply ite_still | apply ite_still1 | apply ite_still2 | apply foldl_still
      | apply foldl_still1 | apply foldl_still2 | apply State.setReg_still_of | apply State.expectExchange_still_of
      | apply State.record_still_of | apply State.leaveSource_still_of | simp only [State.still_mk] | split
      | dsimp only

theorem State.servo_still_of {s₀ s : State} (hk : s.still = s₀.still) (sample : Int) (steer : Int) :
    (State.servo s sample steer).still = s₀.still := by
  unfold State.servo
  try dsimp only
  with_reducible
    repeat'
      first
      | assumption | intro u | apply ite_still | apply ite_still1 | apply ite_still2 | apply foldl_still
      | apply foldl_still1 | apply foldl_still2 | apply State.setRegI_still_of | apply State.stepTime_still_of
      | apply State.changeRate_still_of | apply State.lockTime_still_of | apply State.loseTime_still_of
      | simp only [State.still_mk] | split | dsimp only

theorem State.selectMaster_still_of {s₀ s : State} (hk : s.still = s₀.still)  :
    (State.selectMaster s).still = s₀.still := by
  unfold State.selectMaster
  try dsimp only
  with_reducible
    repeat'
      first
      | assumption | intro u | apply ite_still | apply ite_still1 | apply ite_still2 | apply foldl_still
      | apply foldl_still1 | apply foldl_still2 | apply State.setReg_still_of | apply State.lockTime_still_of
      | simp only [State.still_mk] | split | dsimp only

theorem State.ptpDiscard_still_of {s₀ s : State} (hk : s.still = s₀.still) (port : Nat) :
    (State.ptpDiscard s port).still = s₀.still := by
  unfold State.ptpDiscard
  try dsimp only
  with_reducible
    repeat'
      first
      | assumption | intro u | apply ite_still | apply ite_still1 | apply ite_still2 | apply foldl_still
      | apply foldl_still1 | apply foldl_still2 | apply State.bump_still_of | apply State.recordDevice_still_of
      | simp only [State.still_mk] | split | dsimp only

theorem State.onPtp_still_of {s₀ s : State} (hk : s.still = s₀.still) (port : Nat) (head : PtpHead) (f : State → State) (hf : ∀ u, u.still = s₀.still → (f u).still = s₀.still) :
    (State.onPtp s port head f).still = s₀.still := by
  unfold State.onPtp
  try dsimp only
  with_reducible
    repeat'
      first
      | assumption | intro u | apply ite_still | apply ite_still1 | apply ite_still2 | apply foldl_still
      | apply foldl_still1 | apply foldl_still2 | apply hf | apply State.ptpDiscard_still_of
      | simp only [State.still_mk] | split | dsimp only

theorem State.addSample_still_of {s₀ s : State} (hk : s.still = s₀.still) (x : Int) :
    (State.addSample s x).still = s₀.still := by
  unfold State.addSample
  try dsimp only
  with_reducible
    repeat'
      first
      | assumption | intro u | apply ite_still | apply ite_still1 | apply ite_still2 | apply foldl_still
      | apply foldl_still1 | apply foldl_still2 | simp only [State.still_mk] | split | dsimp only

theorem State.measureLink_still_of {s₀ s : State} (hk : s.still = s₀.still) (port : Nat) (seq : Nat) :
    (State.measureLink s port seq).still = s₀.still := by
  unfold State.measureLink
  try dsimp only
  with_reducible
    repeat'
      first
      | assumption | intro u | apply ite_still | apply ite_still1 | apply ite_still2 | apply foldl_still
      | apply foldl_still1 | apply foldl_still2 | apply State.send_still_of | simp only [State.still_mk] | split
      | dsimp only

theorem State.syncComplete_still_of {s₀ s : State} (hk : s.still = s₀.still) (port : Nat) (seq : Nat) (t1 : Int) (t2 : Int) :
    (State.syncComplete s port seq t1 t2).still = s₀.still := by
  unfold State.syncComplete
  try dsimp only
  with_reducible
    repeat'
      first
      | assumption | intro u | apply ite_still | apply ite_still1 | apply ite_still2 | apply foldl_still
      | apply foldl_still1 | apply foldl_still2 | apply State.send_still_of | apply State.setRegI_still_of
      | apply State.addSample_still_of | apply State.measureLink_still_of | simp only [State.still_mk] | split
      | dsimp only

theorem State.startEther_still_of {s₀ s : State} (hk : s.still = s₀.still) (out : Nat) (f : EthFrame) :
    (State.startEther s out f).still = s₀.still := by
  unfold State.startEther
  try dsimp only
  with_reducible
    repeat'
      first
      | assumption | intro u | apply ite_still | apply ite_still1 | apply ite_still2 | apply foldl_still
      | apply foldl_still1 | apply foldl_still2 | apply State.setReg_still_of | apply State.send_still_of
      | simp only [State.still_mk] | split | dsimp only

theorem State.drainEther_still_of {s₀ s : State} (hk : s.still = s₀.still) (out : Nat) :
    (State.drainEther s out).still = s₀.still := by
  unfold State.drainEther
  try dsimp only
  with_reducible
    repeat'
      first
      | assumption | intro u | apply ite_still | apply ite_still1 | apply ite_still2 | apply foldl_still
      | apply foldl_still1 | apply foldl_still2 | apply State.startEther_still_of | simp only [State.still_mk]
      | split | dsimp only

theorem State.ptpMasterSend_still_of {s₀ s : State} (hk : s.still = s₀.still) (kind : Nat) :
    (State.ptpMasterSend s kind).still = s₀.still := by
  unfold State.ptpMasterSend
  try dsimp only
  with_reducible
    repeat'
      first
      | assumption | intro u | apply ite_still | apply ite_still1 | apply ite_still2 | apply foldl_still
      | apply foldl_still1 | apply foldl_still2 | apply State.send_still_of | simp only [State.still_mk] | split
      | dsimp only

theorem State.pushSections_still_of {s₀ s : State} (hk : s.still = s₀.still) (ks : List Nat) :
    (State.pushSections s ks).still = s₀.still := by
  unfold State.pushSections
  try dsimp only
  with_reducible
    repeat'
      first
      | assumption | intro u | apply ite_still | apply ite_still1 | apply ite_still2 | apply foldl_still
      | apply foldl_still1 | apply foldl_still2 | apply State.send_still_of | apply State.setReg_still_of
      | simp only [State.still_mk] | split | dsimp only

theorem State.pushCommit_still_of {s₀ s : State} (hk : s.still = s₀.still)  :
    (State.pushCommit s).still = s₀.still := by
  unfold State.pushCommit
  try dsimp only
  with_reducible
    repeat'
      first
      | assumption | intro u | apply ite_still | apply ite_still1 | apply ite_still2 | apply foldl_still
      | apply foldl_still1 | apply foldl_still2 | apply State.pushSections_still_of | simp only [State.still_mk]
      | split | dsimp only

theorem State.pushAll_still_of {s₀ s : State} (hk : s.still = s₀.still)  :
    (State.pushAll s).still = s₀.still := by
  unfold State.pushAll
  try dsimp only
  with_reducible
    repeat'
      first
      | assumption | intro u | apply ite_still | apply ite_still1 | apply ite_still2 | apply foldl_still
      | apply foldl_still1 | apply foldl_still2 | apply State.pushSections_still_of | simp only [State.still_mk]
      | split | dsimp only

theorem State.setPairState_still_of {s₀ s : State} (hk : s.still = s₀.still) (st : Nat) (c : Option Code) :
    (State.setPairState s st c).still = s₀.still := by
  unfold State.setPairState
  try dsimp only
  with_reducible
    repeat'
      first
      | assumption | intro u | apply ite_still | apply ite_still1 | apply ite_still2 | apply foldl_still
      | apply foldl_still1 | apply foldl_still2 | apply State.setReg_still_of | apply State.record_still_of
      | simp only [State.still_mk] | split | dsimp only

theorem State.enterActive_still_of {s₀ s : State} (hk : s.still = s₀.still) (c : Option Code) :
    (State.enterActive s c).still = s₀.still := by
  unfold State.enterActive
  try dsimp only
  with_reducible
    repeat'
      first
      | assumption | intro u | apply ite_still | apply ite_still1 | apply ite_still2 | apply foldl_still
      | apply foldl_still1 | apply foldl_still2 | apply State.setPairState_still_of | apply State.pushAll_still_of
      | simp only [State.still_mk] | split | dsimp only

theorem State.settleTakeover_still_of {s₀ s : State} (hk : s.still = s₀.still) (running : List Nat) :
    (State.settleTakeover s running).still = s₀.still := by
  unfold State.settleTakeover
  try dsimp only
  with_reducible
    repeat'
      first
      | assumption | intro u | apply ite_still | apply ite_still1 | apply ite_still2 | apply foldl_still
      | apply foldl_still1 | apply foldl_still2 | apply State.setReg_still_of | apply State.record_still_of
      | apply State.enterActive_still_of | simp only [State.still_mk] | split | dsimp only

theorem State.setTicket_still_of {s₀ s : State} (hk : s.still = s₀.still) (t : Ticket) :
    (State.setTicket s t).still = s₀.still := by
  unfold State.setTicket
  try dsimp only
  with_reducible
    repeat'
      first
      | assumption | intro u | apply ite_still | apply ite_still1 | apply ite_still2 | apply foldl_still
      | apply foldl_still1 | apply foldl_still2 | simp only [State.still_mk] | split | dsimp only

theorem State.addTicket_still_of {s₀ s : State} (hk : s.still = s₀.still) (t : Ticket) :
    (State.addTicket s t).still = s₀.still := by
  unfold State.addTicket
  try dsimp only
  with_reducible
    repeat'
      first
      | assumption | intro u | apply ite_still | apply ite_still1 | apply ite_still2 | apply foldl_still
      | apply foldl_still1 | apply foldl_still2 | simp only [State.still_mk] | split | dsimp only

theorem State.addOther_still_of {s₀ s : State} (hk : s.still = s₀.still) (t : Ticket) :
    (State.addOther s t).still = s₀.still := by
  unfold State.addOther
  try dsimp only
  with_reducible
    repeat'
      first
      | assumption | intro u | apply ite_still | apply ite_still1 | apply ite_still2 | apply foldl_still
      | apply foldl_still1 | apply foldl_still2 | simp only [State.still_mk] | split | dsimp only

theorem State.noteApplied_still_of {s₀ s : State} (hk : s.still = s₀.still) (id : Nat) (wf : Nat) :
    (State.noteApplied s id wf).still = s₀.still := by
  unfold State.noteApplied
  try dsimp only
  with_reducible
    repeat'
      first
      | assumption | intro u | apply ite_still | apply ite_still1 | apply ite_still2 | apply foldl_still
      | apply foldl_still1 | apply foldl_still2 | apply State.setTicket_still_of | simp only [State.still_mk]
      | split | dsimp only

theorem State.finishTicket_still_of {s₀ s : State} (hk : s.still = s₀.still) (p : Pending) :
    (State.finishTicket s p).still = s₀.still := by
  unfold State.finishTicket
  try dsimp only
  with_reducible
    repeat'
      first
      | assumption | intro u | apply ite_still | apply ite_still1 | apply ite_still2 | apply foldl_still
      | apply foldl_still1 | apply foldl_still2 | apply State.pushCommit_still_of | apply State.setTicket_still_of
      | apply State.record_still_of | simp only [State.still_mk] | split | dsimp only

theorem State.settleCommits_still_of {s₀ s : State} (hk : s.still = s₀.still)  :
    (State.settleCommits s).still = s₀.still := by
  unfold State.settleCommits
  try dsimp only
  with_reducible
    repeat'
      first
      | assumption | intro u | apply ite_still | apply ite_still1 | apply ite_still2 | apply foldl_still
      | apply foldl_still1 | apply foldl_still2 | apply State.finishTicket_still_of | simp only [State.still_mk]
      | split | dsimp only

theorem State.applyField_still_of {s₀ s : State} (hk : s.still = s₀.still) (f : Staged) :
    (State.applyField s f).still = s₀.still := by
  unfold State.applyField
  try dsimp only
  with_reducible
    repeat'
      first
      | assumption | intro u | apply ite_still | apply ite_still1 | apply ite_still2 | apply foldl_still
      | apply foldl_still1 | apply foldl_still2 | apply State.setActive_still_of | apply State.setSlot_still_of
      | simp only [State.still_mk] | split | dsimp only

theorem State.holdFrozen_still_of {s₀ s : State} (hk : s.still = s₀.still)  :
    (State.holdFrozen s).still = s₀.still := by
  unfold State.holdFrozen
  try dsimp only
  with_reducible
    repeat'
      first
      | assumption | intro u | apply ite_still | apply ite_still1 | apply ite_still2 | apply foldl_still
      | apply foldl_still1 | apply foldl_still2 | simp only [State.still_mk] | split | dsimp only

theorem State.applyFields_still_of {s₀ s : State} (hk : s.still = s₀.still) (fs : List Staged) :
    (State.applyFields s fs).still = s₀.still := by
  unfold State.applyFields
  try dsimp only
  with_reducible
    repeat'
      first
      | assumption | intro u | apply ite_still | apply ite_still1 | apply ite_still2 | apply foldl_still
      | apply foldl_still1 | apply foldl_still2 | apply State.applyField_still_of | apply State.holdFrozen_still_of
      | simp only [State.still_mk] | split | dsimp only

theorem State.applyDue_still_of {s₀ s : State} (hk : s.still = s₀.still) (due : Nat → Nat → Bool) :
    (State.applyDue s due).still = s₀.still := by
  unfold State.applyDue
  try dsimp only
  with_reducible
    repeat'
      first
      | assumption | intro u | apply ite_still | apply ite_still1 | apply ite_still2 | apply foldl_still
      | apply foldl_still1 | apply foldl_still2 | apply State.applyFields_still_of
      | apply State.noteApplied_still_of | apply State.settleCommits_still_of | simp only [State.still_mk] | split
      | dsimp only

theorem State.applyFrozen_still_of {s₀ s : State} (hk : s.still = s₀.still) (slot : Nat) :
    (State.applyFrozen s slot).still = s₀.still := by
  unfold State.applyFrozen
  try dsimp only
  with_reducible
    repeat'
      first
      | assumption | intro u | apply ite_still | apply ite_still1 | apply ite_still2 | apply foldl_still
      | apply foldl_still1 | apply foldl_still2 | apply State.applyDue_still_of | simp only [State.still_mk]
      | split | dsimp only

theorem State.toFree_still_of {s₀ s : State} (hk : s.still = s₀.still) (i : Nat) :
    (State.toFree s i).still = s₀.still := by
  unfold State.toFree
  try dsimp only
  with_reducible
    repeat'
      first
      | assumption | intro u | apply ite_still | apply ite_still1 | apply ite_still2 | apply foldl_still
      | apply foldl_still1 | apply foldl_still2 | apply State.setIngot_still_of | apply State.setSlot_still_of
      | simp only [State.still_mk] | split | dsimp only

theorem State.outdate_still_of {s₀ s : State} (hk : s.still = s₀.still) (i : Nat) :
    (State.outdate s i).still = s₀.still := by
  unfold State.outdate
  try dsimp only
  with_reducible
    repeat'
      first
      | assumption | intro u | apply ite_still | apply ite_still1 | apply ite_still2 | apply foldl_still
      | apply foldl_still1 | apply foldl_still2 | apply State.toFree_still_of | apply State.setIngot_still_of
      | simp only [State.still_mk] | split | dsimp only

theorem State.abandon_still_of {s₀ s : State} (hk : s.still = s₀.still) (i : Nat) :
    (State.abandon s i).still = s₀.still := by
  unfold State.abandon
  try dsimp only
  with_reducible
    repeat'
      first
      | assumption | intro u | apply ite_still | apply ite_still1 | apply ite_still2 | apply foldl_still
      | apply foldl_still1 | apply foldl_still2 | apply State.toFree_still_of | simp only [State.still_mk] | split
      | dsimp only

theorem State.takeRef_still_of {s₀ s : State} (hk : s.still = s₀.still) (i : Nat) (reader : Nat) :
    (State.takeRef s i reader).still = s₀.still := by
  unfold State.takeRef
  try dsimp only
  with_reducible
    repeat'
      first
      | assumption | intro u | apply ite_still | apply ite_still1 | apply ite_still2 | apply foldl_still
      | apply foldl_still1 | apply foldl_still2 | apply State.setIngot_still_of | simp only [State.still_mk]
      | split | dsimp only

theorem State.dropRef_still_of {s₀ s : State} (hk : s.still = s₀.still) (i : Nat) (reader : Nat) :
    (State.dropRef s i reader).still = s₀.still := by
  unfold State.dropRef
  try dsimp only
  with_reducible
    repeat'
      first
      | assumption | intro u | apply ite_still | apply ite_still1 | apply ite_still2 | apply foldl_still
      | apply foldl_still1 | apply foldl_still2 | apply State.setIngot_still_of | apply State.toFree_still_of
      | apply State.record_still_of | simp only [State.still_mk] | split | dsimp only

theorem State.pick_still_of {s₀ s : State} (hk : s.still = s₀.still) (xs : List Nat) :
    (State.pick s xs).2.still = s₀.still := by
  unfold State.pick
  try dsimp only
  with_reducible
    repeat'
      first
      | assumption | intro u | apply ite_still | apply ite_still1 | apply ite_still2 | apply foldl_still
      | apply foldl_still1 | apply foldl_still2 | apply State.draw_still_of | simp only [State.still_mk] | split
      | dsimp only

theorem State.takeFree_still_of {s₀ s : State} (hk : s.still = s₀.still) (slot : Nat) (f : Filler) :
    (State.takeFree s slot f).2.still = s₀.still := by
  unfold State.takeFree
  try dsimp only
  with_reducible
    repeat'
      first
      | assumption | intro u | apply ite_still | apply ite_still1 | apply ite_still2 | apply foldl_still
      | apply foldl_still1 | apply foldl_still2 | apply State.pick_still_of | apply State.setIngot_still_of
      | simp only [State.still_mk] | split | dsimp only

theorem State.countFrom_still_of {s₀ s : State} (hk : s.still = s₀.still) (i : Nat) :
    (State.countFrom s i).still = s₀.still := by
  unfold State.countFrom
  try dsimp only
  with_reducible
    repeat'
      first
      | assumption | intro u | apply ite_still | apply ite_still1 | apply ite_still2 | apply foldl_still
      | apply foldl_still1 | apply foldl_still2 | apply State.setIngot_still_of | simp only [State.still_mk]
      | split | dsimp only

theorem State.publish_still_of {s₀ s : State} (hk : s.still = s₀.still) (i : Nat) :
    (State.publish s i).still = s₀.still := by
  unfold State.publish
  try dsimp only
  with_reducible
    repeat'
      first
      | assumption | intro u | apply ite_still | apply ite_still1 | apply ite_still2 | apply foldl_still
      | apply foldl_still1 | apply foldl_still2 | apply State.setIngot_still_of | apply State.outdate_still_of
      | apply State.setSlot_still_of | simp only [State.still_mk] | split | dsimp only

theorem State.dropIngot_still_of {s₀ s : State} (hk : s.still = s₀.still) (i : Nat) :
    (State.dropIngot s i).still = s₀.still := by
  unfold State.dropIngot
  try dsimp only
  with_reducible
    repeat'
      first
      | assumption | intro u | apply ite_still | apply ite_still1 | apply ite_still2 | apply foldl_still
      | apply foldl_still1 | apply foldl_still2 | apply State.abandon_still_of | apply State.toFree_still_of
      | apply State.outdate_still_of | simp only [State.still_mk] | split | dsimp only

theorem State.retireSet_still_of {s₀ s : State} (hk : s.still = s₀.still) (slot : Nat) (keep : List Nat) :
    (State.retireSet s slot keep).still = s₀.still := by
  unfold State.retireSet
  try dsimp only
  with_reducible
    repeat'
      first
      | assumption | intro u | apply ite_still | apply ite_still1 | apply ite_still2 | apply foldl_still
      | apply foldl_still1 | apply foldl_still2 | apply State.setSlot_still_of | apply State.dropIngot_still_of
      | simp only [State.still_mk] | split | dsimp only

theorem State.bindIngots_still_of {s₀ s : State} (h : s.still = s₀.still) (slot size : Nat) (is as : List Nat) :
    (State.bindIngots s slot size is as).still = s₀.still := by
  induction is generalizing s as with
  | nil => exact h
  | cons i is ih =>
    cases as with
    | nil => exact h
    | cons a as => exact ih (State.setIngot_still_of h i _) as

theorem State.newSet_still_of {s₀ s : State} (hk : s.still = s₀.still) (slot : Nat) (x : Source) (size : Nat) :
    (State.newSet s slot x size).still = s₀.still := by
  unfold State.newSet
  try dsimp only
  with_reducible
    repeat'
      first
      | assumption | intro u | apply ite_still | apply ite_still1 | apply ite_still2 | apply foldl_still
      | apply foldl_still1 | apply foldl_still2 | apply State.bindIngots_still_of | apply State.setSlot_still_of
      | simp only [State.still_mk] | split | dsimp only

theorem acquireOp_still_of {s₀ s : State} (hk : s.still = s₀.still)  (ss i : Nat) (v : Val) :
    (acquireOp  s ss i v).1.still = s₀.still := by
  unfold acquireOp
  try dsimp only
  with_reducible
    repeat'
      first
      | assumption | intro u | apply ite_still | apply ite_still1 | apply ite_still2 | apply foldl_still
      | apply foldl_still1 | apply foldl_still2 | apply State.takeFree_still_of | apply State.setReg_still_of
      | simp only [State.still_mk] | split | dsimp only

theorem publishOp_still_of {s₀ s : State} (hk : s.still = s₀.still)  (ss i : Nat) (v : Val) :
    (publishOp  s ss i v).1.still = s₀.still := by
  unfold publishOp
  try dsimp only
  with_reducible
    repeat'
      first
      | assumption | intro u | apply ite_still | apply ite_still1 | apply ite_still2 | apply foldl_still
      | apply foldl_still1 | apply foldl_still2 | apply State.setIngot_still_of | apply State.setSlot_still_of
      | apply State.setReg_still_of | apply State.applyFrozen_still_of | apply State.countFrom_still_of
      | apply State.publish_still_of | simp only [State.still_mk] | split | dsimp only

theorem releaseOp_still_of {s₀ s : State} (hk : s.still = s₀.still)  (ss i : Nat) (v : Val) :
    (releaseOp  s ss i v).1.still = s₀.still := by
  unfold releaseOp
  try dsimp only
  with_reducible
    repeat'
      first
      | assumption | intro u | apply ite_still | apply ite_still1 | apply ite_still2 | apply foldl_still
      | apply foldl_still1 | apply foldl_still2 | apply State.setSlot_still_of | apply State.toFree_still_of
      | apply State.setIngot_still_of | simp only [State.still_mk] | split | dsimp only

theorem State.dropMoved_still_of {s₀ s : State} (hk : s.still = s₀.still) (was : State) :
    (State.dropMoved s was).still = s₀.still := by
  unfold State.dropMoved
  try dsimp only
  with_reducible
    repeat'
      first
      | assumption | intro u | apply ite_still | apply ite_still1 | apply ite_still2 | apply foldl_still
      | apply foldl_still1 | apply foldl_still2 | apply State.setOutput_still_of | simp only [State.still_mk]
      | split | dsimp only

theorem State.moveHolds_still_of {s₀ s : State} (hk : s.still = s₀.still)  :
    (State.moveHolds s).still = s₀.still := by
  unfold State.moveHolds
  try dsimp only
  with_reducible
    repeat'
      first
      | assumption | intro u | apply ite_still | apply ite_still1 | apply ite_still2 | apply foldl_still
      | apply foldl_still1 | apply foldl_still2 | apply State.dropMoved_still_of | simp only [State.still_mk]
      | split | dsimp only

theorem State.placementView_still_of {s₀ s : State} (hk : s.still = s₀.still)  :
    (State.placementView s).still = s₀.still := by
  unfold State.placementView
  try dsimp only
  with_reducible
    repeat'
      first
      | assumption | intro u | apply ite_still | apply ite_still1 | apply ite_still2 | apply foldl_still
      | apply foldl_still1 | apply foldl_still2 | apply State.setActive_still_of | simp only [State.still_mk]
      | split | dsimp only

theorem placeOp_still_of {s₀ s : State} (hk : s.still = s₀.still)  (ss i : Nat) (v : Val) :
    (placeOp  s ss i v).1.still = s₀.still := by
  unfold placeOp
  try dsimp only
  with_reducible
    repeat'
      first
      | assumption | intro u | apply ite_still | apply ite_still1 | apply ite_still2 | apply foldl_still
      | apply foldl_still1 | apply foldl_still2 | apply State.setReg_still_of | simp only [State.still_mk] | split
      | dsimp only

theorem State.placementResult_still_of {s₀ s : State} (hk : s.still = s₀.still) (status : Nat) (code : Nat) (report : Bytes) :
    (State.placementResult s status code report).still = s₀.still := by
  unfold State.placementResult
  try dsimp only
  with_reducible
    repeat'
      first
      | assumption | intro u | apply ite_still | apply ite_still1 | apply ite_still2 | apply foldl_still
      | apply foldl_still1 | apply foldl_still2 | apply State.setReg_still_of | apply State.setBlob_still_of
      | simp only [State.still_mk] | split | dsimp only

theorem State.holdApart_still_of {s₀ s : State} (hk : s.still = s₀.still) (slot : Nat) :
    (State.holdApart s slot).still = s₀.still := by
  unfold State.holdApart
  try dsimp only
  with_reducible
    repeat'
      first
      | assumption | intro u | apply ite_still | apply ite_still1 | apply ite_still2 | apply foldl_still
      | apply foldl_still1 | apply foldl_still2 | apply State.setBlob_still_of | simp only [State.still_mk] | split
      | dsimp only

theorem State.storePlan_still_of {s₀ s : State} (hk : s.still = s₀.still) (slot : Nat) (p : Plan) :
    (State.storePlan s slot p).still = s₀.still := by
  unfold State.storePlan
  try dsimp only
  with_reducible
    repeat'
      first
      | assumption | intro u | apply ite_still | apply ite_still1 | apply ite_still2 | apply foldl_still
      | apply foldl_still1 | apply foldl_still2 | apply State.holdApart_still_of | apply State.setBlob_still_of
      | simp only [State.still_mk] | split | dsimp only

theorem emptySlotOp_still_of {s₀ s : State} (hk : s.still = s₀.still)  (ss i : Nat) (v : Val) :
    (emptySlotOp  s ss i v).1.still = s₀.still := by
  unfold emptySlotOp
  try dsimp only
  with_reducible
    repeat'
      first
      | assumption | intro u | apply ite_still | apply ite_still1 | apply ite_still2 | apply foldl_still
      | apply foldl_still1 | apply foldl_still2 | apply State.setBlob_still_of | simp only [State.still_mk] | split
      | dsimp only

theorem State.advanceEpoch_still_of {s₀ s : State} (hk : s.still = s₀.still)  :
    (State.advanceEpoch s).still = s₀.still := by
  unfold State.advanceEpoch
  try dsimp only
  with_reducible
    repeat'
      first
      | assumption | intro u | apply ite_still | apply ite_still1 | apply ite_still2 | apply foldl_still
      | apply foldl_still1 | apply foldl_still2 | apply State.setReg_still_of | simp only [State.still_mk] | split
      | dsimp only

theorem State.yieldPair_still_of {s₀ s : State} (hk : s.still = s₀.still)  :
    (State.yieldPair s).still = s₀.still := by
  unfold State.yieldPair
  try dsimp only
  with_reducible
    repeat'
      first
      | assumption | intro u | apply ite_still | apply ite_still1 | apply ite_still2 | apply foldl_still
      | apply foldl_still1 | apply foldl_still2 | apply State.send_still_of | apply State.record_still_of
      | simp only [State.still_mk] | split | dsimp only

theorem State.escalate_still_of {s₀ s : State} (hk : s.still = s₀.still) (bit : Nat) :
    (State.escalate s bit).still = s₀.still := by
  unfold State.escalate
  try dsimp only
  with_reducible
    repeat'
      first
      | assumption | intro u | apply ite_still | apply ite_still1 | apply ite_still2 | apply foldl_still
      | apply foldl_still1 | apply foldl_still2 | apply State.yieldPair_still_of | simp only [State.still_mk]
      | split | dsimp only

theorem State.strikeOutputs_still_of {s₀ s : State} (hk : s.still = s₀.still) (v : Nat) (outs : List Nat) :
    (State.strikeOutputs s v outs).still = s₀.still := by
  unfold State.strikeOutputs
  try dsimp only
  with_reducible
    repeat'
      first
      | assumption | intro u | apply ite_still | apply ite_still1 | apply ite_still2 | apply foldl_still
      | apply foldl_still1 | apply foldl_still2 | apply State.setOutput_still_of | apply State.record_still_of
      | simp only [State.still_mk] | split | dsimp only

theorem State.strike_still_of {s₀ s : State} (hk : s.still = s₀.still) (outs : List Nat) :
    (State.strike s outs).still = s₀.still := by
  unfold State.strike
  try dsimp only
  with_reducible
    repeat'
      first
      | assumption | intro u | apply ite_still | apply ite_still1 | apply ite_still2 | apply foldl_still
      | apply foldl_still1 | apply foldl_still2 | apply State.strikeOutputs_still_of
      | apply State.escalate_still_of | simp only [State.still_mk] | split | dsimp only

theorem State.strikeRunning_still_of {s₀ s : State} (hk : s.still = s₀.still) (outs : List Nat) :
    (State.strikeRunning s outs).still = s₀.still := by
  unfold State.strikeRunning
  try dsimp only
  with_reducible
    repeat'
      first
      | assumption | intro u | apply ite_still | apply ite_still1 | apply ite_still2 | apply foldl_still
      | apply foldl_still1 | apply foldl_still2 | apply State.strike_still_of | simp only [State.still_mk] | split
      | dsimp only

theorem State.queueRecovery_still_of {s₀ s : State} (hk : s.still = s₀.still) (r : Recovery) (outs : List Nat) :
    (State.queueRecovery s r outs).still = s₀.still := by
  unfold State.queueRecovery
  try dsimp only
  with_reducible
    repeat'
      first
      | assumption | intro u | apply ite_still | apply ite_still1 | apply ite_still2 | apply foldl_still
      | apply foldl_still1 | apply foldl_still2 | apply State.record_still_of | apply State.strikeOutputs_still_of
      | apply State.escalate_still_of | simp only [State.still_mk] | split | dsimp only

theorem State.triggerReplan_still_of {s₀ s : State} (hk : s.still = s₀.still) (cause : Cause) (outs : List Nat) :
    (State.triggerReplan s cause outs).still = s₀.still := by
  unfold State.triggerReplan
  try dsimp only
  with_reducible
    repeat'
      first
      | assumption | intro u | apply ite_still | apply ite_still1 | apply ite_still2 | apply foldl_still
      | apply foldl_still1 | apply foldl_still2 | apply State.queueRecovery_still_of | simp only [State.still_mk]
      | split | dsimp only

theorem State.endRecovery_still_of {s₀ s : State} (hk : s.still = s₀.still)  :
    (State.endRecovery s).still = s₀.still := by
  unfold State.endRecovery
  try dsimp only
  with_reducible
    repeat'
      first
      | assumption | intro u | apply ite_still | apply ite_still1 | apply ite_still2 | apply foldl_still
      | apply foldl_still1 | apply foldl_still2 | simp only [State.still_mk] | split | dsimp only

theorem State.refuseAccess_still_of {s₀ s : State} (hk : s.still = s₀.still) (port : Nat) (c : Code) (address : Nat) (cls : Nat) :
    (State.refuseAccess s port c address cls).still = s₀.still := by
  unfold State.refuseAccess
  try dsimp only
  with_reducible
    repeat'
      first
      | assumption | intro u | apply ite_still | apply ite_still1 | apply ite_still2 | apply foldl_still
      | apply foldl_still1 | apply foldl_still2 | apply State.bump_still_of | apply State.setBlob_still_of
      | apply State.setReg_still_of | simp only [State.still_mk] | split | dsimp only

theorem State.refuseForm_still_of {s₀ s : State} (hk : s.still = s₀.still) (port : Nat) (c : Code) (address : Nat) (cls : Nat) :
    (State.refuseForm s port c address cls).still = s₀.still := by
  unfold State.refuseForm
  try dsimp only
  with_reducible
    repeat'
      first
      | assumption | intro u | apply ite_still | apply ite_still1 | apply ite_still2 | apply foldl_still
      | apply foldl_still1 | apply foldl_still2 | apply State.refuseAccess_still_of
      | apply State.recordLimited_still_of | simp only [State.still_mk] | split | dsimp only

theorem State.noteWait_still_of {s₀ s : State} (hk : s.still = s₀.still) (port : Nat) (wait : Nat) :
    (State.noteWait s port wait).still = s₀.still := by
  unfold State.noteWait
  try dsimp only
  with_reducible
    repeat'
      first
      | assumption | intro u | apply ite_still | apply ite_still1 | apply ite_still2 | apply foldl_still
      | apply foldl_still1 | apply foldl_still2 | apply State.setReg_still_of | simp only [State.still_mk] | split
      | dsimp only

theorem State.countAccesses_still_of {s₀ s : State} (hk : s.still = s₀.still) (port : Nat) (cls : Nat) (wait : Nat) (n : Nat) :
    (State.countAccesses s port cls wait n).still = s₀.still := by
  unfold State.countAccesses
  try dsimp only
  with_reducible
    repeat'
      first
      | assumption | intro u | apply ite_still | apply ite_still1 | apply ite_still2 | apply foldl_still
      | apply foldl_still1 | apply foldl_still2 | apply State.bumpBy_still_of | simp only [State.still_mk] | split
      | dsimp only

theorem State.countDone_still_of {s₀ s : State} (hk : s.still = s₀.still) (port : Nat) (cls : Nat) (wait : Nat) :
    (State.countDone s port cls wait).still = s₀.still := by
  unfold State.countDone
  try dsimp only
  with_reducible
    repeat'
      first
      | assumption | intro u | apply ite_still | apply ite_still1 | apply ite_still2 | apply foldl_still
      | apply foldl_still1 | apply foldl_still2 | apply State.countAccesses_still_of | simp only [State.still_mk]
      | split | dsimp only

theorem State.dropItem_still_of {s₀ s : State} (hk : s.still = s₀.still) (x : FabItem) :
    (State.dropItem s x).still = s₀.still := by
  unfold State.dropItem
  try dsimp only
  with_reducible
    repeat'
      first
      | assumption | intro u | apply ite_still | apply ite_still1 | apply ite_still2 | apply foldl_still
      | apply foldl_still1 | apply foldl_still2 | simp only [State.still_mk] | split | dsimp only

theorem State.serveNext_still_of {s₀ s : State} (hk : s.still = s₀.still) (t : Nat) :
    (State.serveNext s t).still = s₀.still := by
  unfold State.serveNext
  try dsimp only
  with_reducible
    repeat'
      first
      | assumption | intro u | apply ite_still | apply ite_still1 | apply ite_still2 | apply foldl_still
      | apply foldl_still1 | apply foldl_still2 | apply State.setChan_still_of | simp only [State.still_mk] | split
      | dsimp only

theorem State.writeBeats_still_of {s₀ s : State} (hk : s.still = s₀.still) (r : FabReq) :
    (State.writeBeats s r).still = s₀.still := by
  unfold State.writeBeats
  try dsimp only
  with_reducible
    repeat'
      first
      | assumption | intro u | apply ite_still | apply ite_still1 | apply ite_still2 | apply foldl_still
      | apply foldl_still1 | apply foldl_still2 | apply State.store_still_of | simp only [State.still_mk] | split
      | dsimp only

theorem State.moveData_still_of {s₀ s : State} (hk : s.still = s₀.still) (x : FabItem) :
    (State.moveData s x).still = s₀.still := by
  unfold State.moveData
  try dsimp only
  with_reducible
    repeat'
      first
      | assumption | intro u | apply ite_still | apply ite_still1 | apply ite_still2 | apply foldl_still
      | apply foldl_still1 | apply foldl_still2 | apply State.writeBeats_still_of | simp only [State.still_mk]
      | split | dsimp only

theorem State.afterService_still_of {s₀ s : State} (hk : s.still = s₀.still) (x : FabItem) :
    (State.afterService s x).still = s₀.still := by
  unfold State.afterService
  try dsimp only
  with_reducible
    repeat'
      first
      | assumption | intro u | apply ite_still | apply ite_still1 | apply ite_still2 | apply foldl_still
      | apply foldl_still1 | apply foldl_still2 | apply State.setChan_still_of | apply State.serveNext_still_of
      | simp only [State.still_mk] | split | dsimp only

theorem State.grant_still_of {s₀ s : State} (hk : s.still = s₀.still) (x : FabItem) (g : Nat) :
    (State.grant s x g).still = s₀.still := by
  unfold State.grant
  try dsimp only
  with_reducible
    repeat'
      first
      | assumption | intro u | apply ite_still | apply ite_still1 | apply ite_still2 | apply foldl_still
      | apply foldl_still1 | apply foldl_still2 | apply State.noteWait_still_of | apply State.serveNext_still_of
      | simp only [State.still_mk] | split | dsimp only

theorem State.countFrame_still_of {s₀ s : State} (hk : s.still = s₀.still) (port : Nat) :
    (State.countFrame s port).still = s₀.still := by
  unfold State.countFrame
  try dsimp only
  with_reducible
    repeat'
      first
      | assumption | intro u | apply ite_still | apply ite_still1 | apply ite_still2 | apply foldl_still
      | apply foldl_still1 | apply foldl_still2 | simp only [State.still_mk] | split | dsimp only

theorem State.noteRefusedB_still_of {s₀ s : State} (hk : s.still = s₀.still) (port : Nat) (address : Nat) :
    (State.noteRefusedB s port address).still = s₀.still := by
  unfold State.noteRefusedB
  try dsimp only
  with_reducible
    repeat'
      first
      | assumption | intro u | apply ite_still | apply ite_still1 | apply ite_still2 | apply foldl_still
      | apply foldl_still1 | apply foldl_still2 | apply State.recordEvery_still_of | simp only [State.still_mk]
      | split | dsimp only

theorem clearOutcomesOp_still_of {s₀ s : State} (hk : s.still = s₀.still)  (ss i : Nat) (v : Val) :
    (clearOutcomesOp  s ss i v).1.still = s₀.still := by
  unfold clearOutcomesOp
  try dsimp only
  with_reducible
    repeat'
      first
      | assumption | intro u | apply ite_still | apply ite_still1 | apply ite_still2 | apply foldl_still
      | apply foldl_still1 | apply foldl_still2 | apply State.setReg_still_of | apply State.setBlob_still_of
      | simp only [State.still_mk] | split | dsimp only

theorem State.grantLock_still_of {s₀ s : State} (hk : s.still = s₀.still) (l : LockedRun) :
    (State.grantLock s l).still = s₀.still := by
  unfold State.grantLock
  try dsimp only
  with_reducible
    repeat'
      first
      | assumption | intro u | apply ite_still | apply ite_still1 | apply ite_still2 | apply foldl_still
      | apply foldl_still1 | apply foldl_still2 | apply State.noteWait_still_of
      | apply State.countAccesses_still_of | simp only [State.still_mk] | split | dsimp only

theorem State.logMemError_still_of {s₀ s : State} (hk : s.still = s₀.still) (address : Nat) (syndrome : Nat) (port : Nat) :
    (State.logMemError s address syndrome port).still = s₀.still := by
  unfold State.logMemError
  try dsimp only
  with_reducible
    repeat'
      first
      | assumption | intro u | apply ite_still | apply ite_still1 | apply ite_still2 | apply foldl_still
      | apply foldl_still1 | apply foldl_still2 | apply State.bump_still_of | apply State.recordLimited_still_of
      | simp only [State.still_mk] | split | dsimp only

theorem State.enterEvacuation_still_of {s₀ s : State} (hk : s.still = s₀.still) (c : Nat) :
    (State.enterEvacuation s c).still = s₀.still := by
  unfold State.enterEvacuation
  try dsimp only
  with_reducible
    repeat'
      first
      | assumption | intro u | apply ite_still | apply ite_still1 | apply ite_still2 | apply foldl_still
      | apply foldl_still1 | apply foldl_still2 | apply State.setReg_still_of | apply State.advanceEpoch_still_of
      | apply State.replanned_still_of | apply State.moveHolds_still_of | simp only [State.still_mk] | split
      | dsimp only

theorem State.requestEvacuation_still_of {s₀ s : State} (hk : s.still = s₀.still) (c : Nat) :
    (State.requestEvacuation s c).still = s₀.still := by
  unfold State.requestEvacuation
  try dsimp only
  with_reducible
    repeat'
      first
      | assumption | intro u | apply ite_still | apply ite_still1 | apply ite_still2 | apply foldl_still
      | apply foldl_still1 | apply foldl_still2 | apply State.enterEvacuation_still_of
      | apply State.queueRecovery_still_of | simp only [State.still_mk] | split | dsimp only

theorem State.correctedError_still_of {s₀ s : State} (hk : s.still = s₀.still) (c : Nat) :
    (State.correctedError s c).still = s₀.still := by
  unfold State.correctedError
  try dsimp only
  with_reducible
    repeat'
      first
      | assumption | intro u | apply ite_still | apply ite_still1 | apply ite_still2 | apply foldl_still
      | apply foldl_still1 | apply foldl_still2 | apply State.bump_still_of | apply State.setChan_still_of
      | apply State.record_still_of | apply State.requestEvacuation_still_of | simp only [State.still_mk] | split
      | dsimp only

theorem State.startReturn_still_of {s₀ s : State} (hk : s.still = s₀.still) (c : Nat) :
    (State.startReturn s c).still = s₀.still := by
  unfold State.startReturn
  try dsimp only
  with_reducible
    repeat'
      first
      | assumption | intro u | apply ite_still | apply ite_still1 | apply ite_still2 | apply foldl_still
      | apply foldl_still1 | apply foldl_still2 | apply State.setReg_still_of | apply State.setChan_still_of
      | apply State.advanceEpoch_still_of | simp only [State.still_mk] | split | dsimp only

theorem channelOp_still_of {s₀ s : State} (hk : s.still = s₀.still)  (ss i : Nat) (v : Val) :
    (channelOp  s ss i v).1.still = s₀.still := by
  unfold channelOp
  try dsimp only
  with_reducible
    repeat'
      first
      | assumption | intro u | apply ite_still | apply ite_still1 | apply ite_still2 | apply foldl_still
      | apply foldl_still1 | apply foldl_still2 | apply State.requestEvacuation_still_of
      | apply State.startReturn_still_of | apply State.setReg_still_of | apply State.record_still_of
      | apply State.advanceEpoch_still_of | apply State.triggerReplan_still_of | simp only [State.still_mk] | split
      | dsimp only

theorem State.placeStartUp_still_of {s₀ s : State} (hk : s.still = s₀.still)  :
    (State.placeStartUp s).still = s₀.still := by
  unfold State.placeStartUp
  try dsimp only
  with_reducible
    repeat'
      first
      | assumption | intro u | apply ite_still | apply ite_still1 | apply ite_still2 | apply foldl_still
      | apply foldl_still1 | apply foldl_still2 | simp only [State.still_mk] | split | dsimp only

theorem State.settleDram_still_of {s₀ s : State} (hk : s.still = s₀.still) (c : Code) :
    (State.settleDram s c).still = s₀.still := by
  unfold State.settleDram
  try dsimp only
  with_reducible
    repeat'
      first
      | assumption | intro u | apply ite_still | apply ite_still1 | apply ite_still2 | apply foldl_still
      | apply foldl_still1 | apply foldl_still2 | apply State.setReady_still_of | apply State.placeStartUp_still_of
      | apply State.setFailed_still_of | simp only [State.still_mk] | split | dsimp only

theorem State.closeRows_still_of {s₀ s : State} (hk : s.still = s₀.still) (c : Nat) :
    (State.closeRows s c).still = s₀.still := by
  unfold State.closeRows
  try dsimp only
  with_reducible
    repeat'
      first
      | assumption | intro u | apply ite_still | apply ite_still1 | apply ite_still2 | apply foldl_still
      | apply foldl_still1 | apply foldl_still2 | apply State.setChan_still_of | simp only [State.still_mk] | split
      | dsimp only

theorem State.refreshFromNow_still_of {s₀ s : State} (hk : s.still = s₀.still) (c : Nat) :
    (State.refreshFromNow s c).still = s₀.still := by
  unfold State.refreshFromNow
  try dsimp only
  with_reducible
    repeat'
      first
      | assumption | intro u | apply ite_still | apply ite_still1 | apply ite_still2 | apply foldl_still
      | apply foldl_still1 | apply foldl_still2 | apply State.setChan_still_of | simp only [State.still_mk] | split
      | dsimp only

theorem State.scrubbedOne_still_of {s₀ s : State} (hk : s.still = s₀.still) (c : Nat) :
    (State.scrubbedOne s c).still = s₀.still := by
  unfold State.scrubbedOne
  try dsimp only
  with_reducible
    repeat'
      first
      | assumption | intro u | apply ite_still | apply ite_still1 | apply ite_still2 | apply foldl_still
      | apply foldl_still1 | apply foldl_still2 | apply State.setChan_still_of | simp only [State.still_mk] | split
      | dsimp only

theorem State.sendBlock_still_of {s₀ s : State} (hk : s.still = s₀.still) (l : Nat) (payload : Nat) :
    (State.sendBlock s l payload).still = s₀.still := by
  unfold State.sendBlock
  try dsimp only
  with_reducible
    repeat'
      first
      | assumption | intro u | apply ite_still | apply ite_still1 | apply ite_still2 | apply foldl_still
      | apply foldl_still1 | apply foldl_still2 | apply State.setLane_still_of | apply State.send_still_of
      | simp only [State.still_mk] | split | dsimp only

theorem State.checkBit_still_of {s₀ s : State} (hk : s.still = s₀.still) (l : Nat) (b : Bool) :
    (State.checkBit s l b).still = s₀.still := by
  unfold State.checkBit
  try dsimp only
  with_reducible
    repeat'
      first
      | assumption | intro u | apply ite_still | apply ite_still1 | apply ite_still2 | apply foldl_still
      | apply foldl_still1 | apply foldl_still2 | apply State.setLane_still_of | apply State.bumpBy_still_of
      | apply State.setReg_still_of | simp only [State.still_mk] | split | dsimp only

theorem State.patternBit_still_of {s₀ s : State} (hk : s.still = s₀.still) (l : Nat) :
    (State.patternBit s l).still = s₀.still := by
  unfold State.patternBit
  try dsimp only
  with_reducible
    repeat'
      first
      | assumption | intro u | apply ite_still | apply ite_still1 | apply ite_still2 | apply foldl_still
      | apply foldl_still1 | apply foldl_still2 | apply State.setLane_still_of | apply State.send_still_of
      | apply State.checkBit_still_of | simp only [State.still_mk] | split | dsimp only

theorem State.sendCellDue_still_of {s₀ s : State} (hk : s.still = s₀.still) (p : Nat) (due : Int) (cell : Bytes) :
    (State.sendCellDue s p due cell).still = s₀.still := by
  unfold State.sendCellDue
  try dsimp only
  with_reducible
    repeat'
      first
      | assumption | intro u | apply ite_still | apply ite_still1 | apply ite_still2 | apply foldl_still
      | apply foldl_still1 | apply foldl_still2 | apply State.setPort_still_of | simp only [State.still_mk] | split
      | dsimp only

theorem State.sendCell_still_of {s₀ s : State} (hk : s.still = s₀.still) (p : Nat) (cell : Bytes) :
    (State.sendCell s p cell).still = s₀.still := by
  unfold State.sendCell
  try dsimp only
  with_reducible
    repeat'
      first
      | assumption | intro u | apply ite_still | apply ite_still1 | apply ite_still2 | apply foldl_still
      | apply foldl_still1 | apply foldl_still2 | apply State.sendCellDue_still_of | simp only [State.still_mk]
      | split | dsimp only

theorem State.stampCell_still_of {s₀ s : State} (hk : s.still = s₀.still) (p : Nat) (cell : Bytes) :
    (State.stampCell s p cell).1.still = s₀.still := by
  unfold State.stampCell
  try dsimp only
  with_reducible
    repeat'
      first
      | assumption | intro u | apply ite_still | apply ite_still1 | apply ite_still2 | apply foldl_still
      | apply foldl_still1 | apply foldl_still2 | apply State.setPort_still_of | simp only [State.still_mk] | split
      | dsimp only

theorem State.fillSlot_still_of {s₀ s : State} (hk : s.still = s₀.still) (p : Nat) (c : Nat) (width : Nat) (i : Nat) :
    (State.fillSlot s p c width i).1.still = s₀.still := by
  unfold State.fillSlot
  try dsimp only
  with_reducible
    repeat'
      first
      | assumption | intro u | apply ite_still | apply ite_still1 | apply ite_still2 | apply foldl_still
      | apply foldl_still1 | apply foldl_still2 | apply State.setPort_still_of | apply State.stampCell_still_of
      | apply State.send_still_of | simp only [State.still_mk] | split | dsimp only

theorem State.fillSlots_still_of {s₀ s : State} (hk : s.still = s₀.still) (p : Nat) (c : Nat) (width : Nat) :
    (State.fillSlots s p c width).1.still = s₀.still := by
  unfold State.fillSlots
  try dsimp only
  with_reducible
    repeat'
      first
      | assumption | intro u | apply ite_still | apply ite_still1 | apply ite_still2 | apply foldl_still
      | apply foldl_still1 | apply foldl_still2 | apply State.fillSlot_still_of | simp only [State.still_mk]
      | split | dsimp only

theorem State.clearOutbox_still_of {s₀ s : State} (hk : s.still = s₀.still) (p : Nat) :
    (State.clearOutbox s p).still = s₀.still := by
  unfold State.clearOutbox
  try dsimp only
  with_reducible
    repeat'
      first
      | assumption | intro u | apply ite_still | apply ite_still1 | apply ite_still2 | apply foldl_still
      | apply foldl_still1 | apply foldl_still2 | apply State.setPort_still_of | simp only [State.still_mk] | split
      | dsimp only

theorem State.storeHold_still_of {s₀ s : State} (hk : s.still = s₀.still) (o : Nat) (half : Bool) :
    (State.storeHold s o half).still = s₀.still := by
  unfold State.storeHold
  try dsimp only
  with_reducible
    repeat'
      first
      | assumption | intro u | apply ite_still | apply ite_still1 | apply ite_still2 | apply foldl_still
      | apply foldl_still1 | apply foldl_still2 | apply State.store_still_of | simp only [State.still_mk] | split
      | dsimp only

theorem State.feedOutput_still_of {s₀ s : State} (hk : s.still = s₀.still) (o : Nat) :
    (State.feedOutput s o).still = s₀.still := by
  unfold State.feedOutput
  try dsimp only
  with_reducible
    repeat'
      first
      | assumption | intro u | apply ite_still | apply ite_still1 | apply ite_still2 | apply foldl_still
      | apply foldl_still1 | apply foldl_still2 | apply State.sendCellDue_still_of | apply State.setOutput_still_of
      | simp only [State.still_mk] | split | dsimp only

theorem State.feedPort_still_of {s₀ s : State} (hk : s.still = s₀.still) (p : Nat) :
    (State.feedPort s p).still = s₀.still := by
  unfold State.feedPort
  try dsimp only
  with_reducible
    repeat'
      first
      | assumption | intro u | apply ite_still | apply ite_still1 | apply ite_still2 | apply foldl_still
      | apply foldl_still1 | apply foldl_still2 | apply State.feedOutput_still_of | simp only [State.still_mk]
      | split | dsimp only

theorem State.setSpare_still_of {s₀ s : State} (hk : s.still = s₀.still) (l : Nat) (st : Nat) :
    (State.setSpare s l st).still = s₀.still := by
  unfold State.setSpare
  try dsimp only
  with_reducible
    repeat'
      first
      | assumption | intro u | apply ite_still | apply ite_still1 | apply ite_still2 | apply foldl_still
      | apply foldl_still1 | apply foldl_still2 | apply State.setReg_still_of | simp only [State.still_mk] | split
      | dsimp only

theorem State.clearSpare_still_of {s₀ s : State} (hk : s.still = s₀.still) (l : Nat) (st : Nat) :
    (State.clearSpare s l st).still = s₀.still := by
  unfold State.clearSpare
  try dsimp only
  with_reducible
    repeat'
      first
      | assumption | intro u | apply ite_still | apply ite_still1 | apply ite_still2 | apply foldl_still
      | apply foldl_still1 | apply foldl_still2 | apply State.setReg_still_of | simp only [State.still_mk] | split
      | dsimp only

theorem State.enterLane_still_of {s₀ s : State} (hk : s.still = s₀.still) (st : Nat) (l : Nat) :
    (State.enterLane s st l).still = s₀.still := by
  unfold State.enterLane
  try dsimp only
  with_reducible
    repeat'
      first
      | assumption | intro u | apply ite_still | apply ite_still1 | apply ite_still2 | apply foldl_still
      | apply foldl_still1 | apply foldl_still2 | apply State.setReg_still_of | apply State.setLane_still_of
      | simp only [State.still_mk] | split | dsimp only

theorem State.enterLanes_still_of {s₀ s : State} (hk : s.still = s₀.still) (st : Nat) (ls : List Nat) :
    (State.enterLanes s st ls).still = s₀.still := by
  unfold State.enterLanes
  try dsimp only
  with_reducible
    repeat'
      first
      | assumption | intro u | apply ite_still | apply ite_still1 | apply ite_still2 | apply foldl_still
      | apply foldl_still1 | apply foldl_still2 | apply State.enterLane_still_of | simp only [State.still_mk]
      | split | dsimp only

theorem State.sendCapability_still_of {s₀ s : State} (hk : s.still = s₀.still) (l : Nat) :
    (State.sendCapability s l).still = s₀.still := by
  unfold State.sendCapability
  try dsimp only
  with_reducible
    repeat'
      first
      | assumption | intro u | apply ite_still | apply ite_still1 | apply ite_still2 | apply foldl_still
      | apply foldl_still1 | apply foldl_still2 | apply State.sendBlock_still_of | simp only [State.still_mk]
      | split | dsimp only

theorem State.startExchange_still_of {s₀ s : State} (hk : s.still = s₀.still) (l : Nat) :
    (State.startExchange s l).still = s₀.still := by
  unfold State.startExchange
  try dsimp only
  with_reducible
    repeat'
      first
      | assumption | intro u | apply ite_still | apply ite_still1 | apply ite_still2 | apply foldl_still
      | apply foldl_still1 | apply foldl_still2 | apply State.sendBlock_still_of | apply State.enterLane_still_of
      | apply State.sendCapability_still_of | simp only [State.still_mk] | split | dsimp only

theorem State.startVerify_still_of {s₀ s : State} (hk : s.still = s₀.still) (l : Nat) :
    (State.startVerify s l).still = s₀.still := by
  unfold State.startVerify
  try dsimp only
  with_reducible
    repeat'
      first
      | assumption | intro u | apply ite_still | apply ite_still1 | apply ite_still2 | apply foldl_still
      | apply foldl_still1 | apply foldl_still2 | apply State.enterLane_still_of | apply State.sendBlock_still_of
      | simp only [State.still_mk] | split | dsimp only

theorem State.sendTrain_still_of {s₀ s : State} (hk : s.still = s₀.still) (l : Nat) (merit : Nat) :
    (State.sendTrain s l merit).still = s₀.still := by
  unfold State.sendTrain
  try dsimp only
  with_reducible
    repeat'
      first
      | assumption | intro u | apply ite_still | apply ite_still1 | apply ite_still2 | apply foldl_still
      | apply foldl_still1 | apply foldl_still2 | apply State.sendBlock_still_of | simp only [State.still_mk]
      | split | dsimp only

theorem State.sendStep_still_of {s₀ s : State} (hk : s.still = s₀.still) (target : Nat) (request : Bool) (l : Nat) :
    (State.sendStep s target request l).still = s₀.still := by
  unfold State.sendStep
  try dsimp only
  with_reducible
    repeat'
      first
      | assumption | intro u | apply ite_still | apply ite_still1 | apply ite_still2 | apply foldl_still
      | apply foldl_still1 | apply foldl_still2 | apply State.draw_still_of | apply State.sendBlock_still_of
      | apply State.request_still_of | simp only [State.still_mk] | split | dsimp only

theorem State.sendRunEntry_still_of {s₀ s : State} (hk : s.still = s₀.still) (count : Nat) (l : Nat) :
    (State.sendRunEntry s count l).still = s₀.still := by
  unfold State.sendRunEntry
  try dsimp only
  with_reducible
    repeat'
      first
      | assumption | intro u | apply ite_still | apply ite_still1 | apply ite_still2 | apply foldl_still
      | apply foldl_still1 | apply foldl_still2 | apply State.sendBlock_still_of | simp only [State.still_mk]
      | split | dsimp only

theorem State.detect_still_of {s₀ s : State} (hk : s.still = s₀.still) (ls : List Nat) :
    (State.detect s ls).still = s₀.still := by
  unfold State.detect
  try dsimp only
  with_reducible
    repeat'
      first
      | assumption | intro u | apply ite_still | apply ite_still1 | apply ite_still2 | apply foldl_still
      | apply foldl_still1 | apply foldl_still2 | apply State.draw_still_of | apply State.setReg_still_of
      | apply State.bump_still_of | apply State.setLane_still_of | apply State.sendBlock_still_of
      | simp only [State.still_mk] | split | dsimp only

theorem State.startPort_still_of {s₀ s : State} (hk : s.still = s₀.still) (p : Nat) :
    (State.startPort s p).still = s₀.still := by
  unfold State.startPort
  try dsimp only
  with_reducible
    repeat'
      first
      | assumption | intro u | apply ite_still | apply ite_still1 | apply ite_still2 | apply foldl_still
      | apply foldl_still1 | apply foldl_still2 | apply State.clearSpare_still_of | apply State.setLane_still_of
      | apply State.setReg_still_of | apply State.detect_still_of | simp only [State.still_mk] | split | dsimp only

theorem State.backOff_still_of {s₀ s : State} (hk : s.still = s₀.still) (ls : List Nat) (l : Nat) (c : Code) :
    (State.backOff s ls l c).still = s₀.still := by
  unfold State.backOff
  try dsimp only
  with_reducible
    repeat'
      first
      | assumption | intro u | apply ite_still | apply ite_still1 | apply ite_still2 | apply foldl_still
      | apply foldl_still1 | apply foldl_still2 | apply State.enterLane_still_of | apply State.setReg_still_of
      | apply State.setLane_still_of | apply State.recordEvery_still_of | apply State.record_still_of
      | simp only [State.still_mk] | split | dsimp only

theorem State.startTraining_still_of {s₀ s : State} (hk : s.still = s₀.still) (r : Nat) (ls : List Nat) :
    (State.startTraining s r ls).still = s₀.still := by
  unfold State.startTraining
  try dsimp only
  with_reducible
    repeat'
      first
      | assumption | intro u | apply ite_still | apply ite_still1 | apply ite_still2 | apply foldl_still
      | apply foldl_still1 | apply foldl_still2 | apply State.enterLane_still_of | apply State.setReg_still_of
      | apply State.setLane_still_of | apply State.sendTrain_still_of | simp only [State.still_mk] | split
      | dsimp only

theorem State.standReady_still_of {s₀ s : State} (hk : s.still = s₀.still) (l : Nat) :
    (State.standReady s l).still = s₀.still := by
  unfold State.standReady
  try dsimp only
  with_reducible
    repeat'
      first
      | assumption | intro u | apply ite_still | apply ite_still1 | apply ite_still2 | apply foldl_still
      | apply foldl_still1 | apply foldl_still2 | apply State.enterLane_still_of | apply State.setReg_still_of
      | apply State.clearSpare_still_of | apply State.setLane_still_of | simp only [State.still_mk] | split
      | dsimp only

theorem State.endRetrain_still_of {s₀ s : State} (hk : s.still = s₀.still) (l : Nat) :
    (State.endRetrain s l).still = s₀.still := by
  unfold State.endRetrain
  try dsimp only
  with_reducible
    repeat'
      first
      | assumption | intro u | apply ite_still | apply ite_still1 | apply ite_still2 | apply foldl_still
      | apply foldl_still1 | apply foldl_still2 | apply State.endRecovery_still_of | simp only [State.still_mk]
      | split | dsimp only

theorem State.leaveExchange_still_of {s₀ s : State} (hk : s.still = s₀.still) (ls : List Nat) :
    (State.leaveExchange s ls).still = s₀.still := by
  unfold State.leaveExchange
  try dsimp only
  with_reducible
    repeat'
      first
      | assumption | intro u | apply ite_still | apply ite_still1 | apply ite_still2 | apply foldl_still
      | apply foldl_still1 | apply foldl_still2 | apply State.draw_still_of | apply State.setLane_still_of
      | apply State.startExchange_still_of | apply State.startTraining_still_of | simp only [State.still_mk]
      | split | dsimp only

theorem State.leaveVerify_still_of {s₀ s : State} (hk : s.still = s₀.still) (ls : List Nat) :
    (State.leaveVerify s ls).still = s₀.still := by
  unfold State.leaveVerify
  try dsimp only
  with_reducible
    repeat'
      first
      | assumption | intro u | apply ite_still | apply ite_still1 | apply ite_still2 | apply foldl_still
      | apply foldl_still1 | apply foldl_still2 | apply State.setLane_still_of | apply State.enterLanes_still_of
      | apply State.sendStep_still_of | apply State.sendRunEntry_still_of | apply State.standReady_still_of
      | apply State.advanceEpoch_still_of | apply State.endRetrain_still_of | apply State.enterLane_still_of
      | apply State.sendBlock_still_of | apply State.draw_still_of | apply State.setPort_still_of
      | simp only [State.still_mk] | split | dsimp only

theorem State.advanceLanes_still_of {s₀ s : State} (hk : s.still = s₀.still) (ls : List Nat) :
    (State.advanceLanes s ls).still = s₀.still := by
  unfold State.advanceLanes
  try dsimp only
  with_reducible
    repeat'
      first
      | assumption | intro u | apply ite_still | apply ite_still1 | apply ite_still2 | apply foldl_still
      | apply foldl_still1 | apply foldl_still2 | apply State.startExchange_still_of
      | apply State.leaveExchange_still_of | apply State.startVerify_still_of | apply State.leaveVerify_still_of
      | simp only [State.still_mk] | split | dsimp only

theorem State.passStep_still_of {s₀ s : State} (hk : s.still = s₀.still) (l : Nat) :
    (State.passStep s l).still = s₀.still := by
  unfold State.passStep
  try dsimp only
  with_reducible
    repeat'
      first
      | assumption | intro u | apply ite_still | apply ite_still1 | apply ite_still2 | apply foldl_still
      | apply foldl_still1 | apply foldl_still2 | apply State.setLane_still_of | apply State.advanceLanes_still_of
      | simp only [State.still_mk] | split | dsimp only

theorem State.failAlone_still_of {s₀ s : State} (hk : s.still = s₀.still) (l : Nat) (c : Code) :
    (State.failAlone s l c).still = s₀.still := by
  unfold State.failAlone
  try dsimp only
  with_reducible
    repeat'
      first
      | assumption | intro u | apply ite_still | apply ite_still1 | apply ite_still2 | apply foldl_still
      | apply foldl_still1 | apply foldl_still2 | apply State.setSpare_still_of | apply State.setLane_still_of
      | apply State.backOff_still_of | apply State.endRetrain_still_of | apply State.advanceLanes_still_of
      | simp only [State.still_mk] | split | dsimp only

theorem State.failBringUp_still_of {s₀ s : State} (hk : s.still = s₀.still) (l : Nat) (c : Code) :
    (State.failBringUp s l c).still = s₀.still := by
  unfold State.failBringUp
  try dsimp only
  with_reducible
    repeat'
      first
      | assumption | intro u | apply ite_still | apply ite_still1 | apply ite_still2 | apply foldl_still
      | apply foldl_still1 | apply foldl_still2 | apply State.failAlone_still_of | apply State.backOff_still_of
      | simp only [State.still_mk] | split | dsimp only

theorem State.failRate_still_of {s₀ s : State} (hk : s.still = s₀.still) (l : Nat) :
    (State.failRate s l).still = s₀.still := by
  unfold State.failRate
  try dsimp only
  with_reducible
    repeat'
      first
      | assumption | intro u | apply ite_still | apply ite_still1 | apply ite_still2 | apply foldl_still
      | apply foldl_still1 | apply foldl_still2 | apply State.failAlone_still_of | apply State.backOff_still_of
      | apply State.record_still_of | apply State.enterLane_still_of | apply State.setReg_still_of
      | apply State.setLane_still_of | simp only [State.still_mk] | split | dsimp only

theorem State.agreeClock_still_of {s₀ s : State} (hk : s.still = s₀.still) (l : Nat) :
    (State.agreeClock s l).still = s₀.still := by
  unfold State.agreeClock
  try dsimp only
  with_reducible
    repeat'
      first
      | assumption | intro u | apply ite_still | apply ite_still1 | apply ite_still2 | apply foldl_still
      | apply foldl_still1 | apply foldl_still2 | apply State.setReg_still_of | apply State.setLane_still_of
      | apply State.record_still_of | simp only [State.still_mk] | split | dsimp only

theorem State.takeCapability_still_of {s₀ s : State} (hk : s.still = s₀.still) (l : Nat) (payload : Nat) :
    (State.takeCapability s l payload).still = s₀.still := by
  unfold State.takeCapability
  try dsimp only
  with_reducible
    repeat'
      first
      | assumption | intro u | apply ite_still | apply ite_still1 | apply ite_still2 | apply foldl_still
      | apply foldl_still1 | apply foldl_still2 | apply State.setLane_still_of | apply State.setBlob_still_of
      | apply State.failBringUp_still_of | apply State.agreeClock_still_of | apply State.sendCapability_still_of
      | apply State.passStep_still_of | simp only [State.still_mk] | split | dsimp only

theorem State.onBlock_still_of {s₀ s0 : State} (hk : s0.still = s₀.still) (l : Nat) (block : RxBlock) (types : List Nat) (f : State → Nat → State) (hf : ∀ u x0, u.still = s₀.still → (f u x0).still = s₀.still) :
    (State.onBlock s0 l block types f).still = s₀.still := by
  unfold State.onBlock
  try dsimp only
  with_reducible
    repeat'
      first
      | assumption | intro u | apply ite_still | apply ite_still1 | apply ite_still2 | apply foldl_still
      | apply foldl_still1 | apply foldl_still2 | apply hf | apply State.bumpBy_still_of
      | apply State.bump_still_of | simp only [State.still_mk] | split | dsimp only

theorem State.takeTrain_still_of {s₀ s : State} (hk : s.still = s₀.still) (l : Nat) (merit : Nat) (selfDone : Bool) (payload : Nat) :
    (State.takeTrain s l merit selfDone payload).still = s₀.still := by
  unfold State.takeTrain
  try dsimp only
  with_reducible
    repeat'
      first
      | assumption | intro u | apply ite_still | apply ite_still1 | apply ite_still2 | apply foldl_still
      | apply foldl_still1 | apply foldl_still2 | apply State.setReg_still_of | apply State.setLane_still_of
      | apply State.sendTrain_still_of | apply State.passStep_still_of | simp only [State.still_mk] | split
      | dsimp only

theorem State.takeStep_still_of {s₀ s : State} (hk : s.still = s₀.still) (l : Nat) (payload : Nat) :
    (State.takeStep s l payload).still = s₀.still := by
  unfold State.takeStep
  try dsimp only
  with_reducible
    repeat'
      first
      | assumption | intro u | apply ite_still | apply ite_still1 | apply ite_still2 | apply foldl_still
      | apply foldl_still1 | apply foldl_still2 | apply State.setLane_still_of | apply State.passStep_still_of
      | apply State.sendStep_still_of | simp only [State.still_mk] | split | dsimp only

theorem State.startListening_still_of {s₀ s : State} (hk : s.still = s₀.still) (p : Nat) :
    (State.startListening s p).still = s₀.still := by
  unfold State.startListening
  try dsimp only
  with_reducible
    repeat'
      first
      | assumption | intro u | apply ite_still | apply ite_still1 | apply ite_still2 | apply foldl_still
      | apply foldl_still1 | apply foldl_still2 | apply State.setReg_still_of | simp only [State.still_mk] | split
      | dsimp only

theorem State.portUp_still_of {s₀ s : State} (hk : s.still = s₀.still) (p : Nat) :
    (State.portUp s p).still = s₀.still := by
  unfold State.portUp
  try dsimp only
  with_reducible
    repeat'
      first
      | assumption | intro u | apply ite_still | apply ite_still1 | apply ite_still2 | apply foldl_still
      | apply foldl_still1 | apply foldl_still2 | apply State.setReg_still_of | apply State.setPort_still_of
      | apply State.startListening_still_of | apply State.followTimePort_still_of | simp only [State.still_mk]
      | split | dsimp only

theorem State.noteDrop_still_of {s₀ s : State} (hk : s.still = s₀.still) (p : Nat) :
    (State.noteDrop s p).still = s₀.still := by
  unfold State.noteDrop
  try dsimp only
  with_reducible
    repeat'
      first
      | assumption | intro u | apply ite_still | apply ite_still1 | apply ite_still2 | apply foldl_still
      | apply foldl_still1 | apply foldl_still2 | apply State.setPort_still_of | simp only [State.still_mk] | split
      | dsimp only

theorem State.cutStreams_still_of {s₀ s : State} (hk : s.still = s₀.still) (p : Nat) :
    (State.cutStreams s p).still = s₀.still := by
  unfold State.cutStreams
  try dsimp only
  with_reducible
    repeat'
      first
      | assumption | intro u | apply ite_still | apply ite_still1 | apply ite_still2 | apply foldl_still
      | apply foldl_still1 | apply foldl_still2 | apply State.setOutput_still_of | simp only [State.still_mk]
      | split | dsimp only

theorem State.portDown_still_of {s₀ s : State} (hk : s.still = s₀.still) (p : Nat) (c : Code) :
    (State.portDown s p c).still = s₀.still := by
  unfold State.portDown
  try dsimp only
  with_reducible
    repeat'
      first
      | assumption | intro u | apply ite_still | apply ite_still1 | apply ite_still2 | apply foldl_still
      | apply foldl_still1 | apply foldl_still2 | apply State.strikeRunning_still_of | apply State.setReg_still_of
      | apply State.noteDrop_still_of | apply State.enterLane_still_of | apply State.clearSpare_still_of
      | apply State.setLane_still_of | apply State.cutStreams_still_of | apply State.clearOutbox_still_of
      | apply State.record_still_of | apply State.advanceEpoch_still_of | apply State.followTimePort_still_of
      | simp only [State.still_mk] | split | dsimp only

theorem State.wakeLane_still_of {s₀ s : State} (hk : s.still = s₀.still) (p : Nat) (l : Nat) :
    (State.wakeLane s p l).still = s₀.still := by
  unfold State.wakeLane
  try dsimp only
  with_reducible
    repeat'
      first
      | assumption | intro u | apply ite_still | apply ite_still1 | apply ite_still2 | apply foldl_still
      | apply foldl_still1 | apply foldl_still2 | apply State.sendRunEntry_still_of
      | apply State.enterLane_still_of | simp only [State.still_mk] | split | dsimp only

theorem State.substituteLane_still_of {s₀ s : State} (hk : s.still = s₀.still) (p : Nat) (lane : Nat) (faulty : Nat) (spare : Nat) :
    (State.substituteLane s p lane faulty spare).still = s₀.still := by
  unfold State.substituteLane
  try dsimp only
  with_reducible
    repeat'
      first
      | assumption | intro u | apply ite_still | apply ite_still1 | apply ite_still2 | apply foldl_still
      | apply foldl_still1 | apply foldl_still2 | apply State.wakeLane_still_of | apply State.setSpare_still_of
      | apply State.setReg_still_of | apply State.setLane_still_of | apply State.enterLane_still_of
      | apply State.setPort_still_of | apply State.record_still_of | apply State.queueRecovery_still_of
      | simp only [State.still_mk] | split | dsimp only

theorem State.relieveLane_still_of {s₀ s : State} (hk : s.still = s₀.still) (p : Nat) (l : Nat) (spare : Nat) :
    (State.relieveLane s p l spare).still = s₀.still := by
  unfold State.relieveLane
  try dsimp only
  with_reducible
    repeat'
      first
      | assumption | intro u | apply ite_still | apply ite_still1 | apply ite_still2 | apply foldl_still
      | apply foldl_still1 | apply foldl_still2 | apply State.clearSpare_still_of | apply State.setLane_still_of
      | apply State.substituteLane_still_of | simp only [State.still_mk] | split | dsimp only

theorem State.replaceLane_still_of {s₀ s : State} (hk : s.still = s₀.still) (p : Nat) (l : Nat) :
    (State.replaceLane s p l).still = s₀.still := by
  unfold State.replaceLane
  try dsimp only
  with_reducible
    repeat'
      first
      | assumption | intro u | apply ite_still | apply ite_still1 | apply ite_still2 | apply foldl_still
      | apply foldl_still1 | apply foldl_still2 | apply State.strike_still_of | apply State.portDown_still_of
      | apply State.relieveLane_still_of | simp only [State.still_mk] | split | dsimp only

theorem State.laneFault_still_of {s₀ s : State} (hk : s.still = s₀.still) (l : Nat) (c : Code) :
    (State.laneFault s l c).still = s₀.still := by
  unfold State.laneFault
  try dsimp only
  with_reducible
    repeat'
      first
      | assumption | intro u | apply ite_still | apply ite_still1 | apply ite_still2 | apply foldl_still
      | apply foldl_still1 | apply foldl_still2 | apply State.enterLane_still_of | apply State.record_still_of
      | apply State.advanceEpoch_still_of | apply State.setSpare_still_of | apply State.setLane_still_of
      | apply State.queueRecovery_still_of | apply State.replaceLane_still_of | simp only [State.still_mk] | split
      | dsimp only

theorem State.moveBack_still_of {s₀ s : State} (hk : s.still = s₀.still) (p : Nat) (lane : Nat) (spare : Nat) :
    (State.moveBack s p lane spare).still = s₀.still := by
  unfold State.moveBack
  try dsimp only
  with_reducible
    repeat'
      first
      | assumption | intro u | apply ite_still | apply ite_still1 | apply ite_still2 | apply foldl_still
      | apply foldl_still1 | apply foldl_still2 | apply State.setSpare_still_of | apply State.setLane_still_of
      | apply State.wakeLane_still_of | apply State.setPort_still_of | simp only [State.still_mk] | split
      | dsimp only

theorem State.moveLane_still_of {s₀ s : State} (hk : s.still = s₀.still) (p : Nat) (k : Nat) (target : Nat) :
    (State.moveLane s p k target).still = s₀.still := by
  unfold State.moveLane
  try dsimp only
  with_reducible
    repeat'
      first
      | assumption | intro u | apply ite_still | apply ite_still1 | apply ite_still2 | apply foldl_still
      | apply foldl_still1 | apply foldl_still2 | apply State.moveBack_still_of | apply State.strike_still_of
      | apply State.relieveLane_still_of | apply State.advanceEpoch_still_of | simp only [State.still_mk] | split
      | dsimp only

theorem State.peerRequest_still_of {s₀ s : State} (hk : s.still = s₀.still) (p : Nat) (k : Nat) (on : Option Nat) :
    (State.peerRequest s p k on).still = s₀.still := by
  unfold State.peerRequest
  try dsimp only
  with_reducible
    repeat'
      first
      | assumption | intro u | apply ite_still | apply ite_still1 | apply ite_still2 | apply foldl_still
      | apply foldl_still1 | apply foldl_still2 | apply State.portDown_still_of | apply State.setPort_still_of
      | apply State.moveLane_still_of | simp only [State.still_mk] | split | dsimp only

theorem State.seeRequest_still_of {s₀ s : State} (hk : s.still = s₀.still) (p : Nat) (number : Nat) (field' : Nat) :
    (State.seeRequest s p number field').still = s₀.still := by
  unfold State.seeRequest
  try dsimp only
  with_reducible
    repeat'
      first
      | assumption | intro u | apply ite_still | apply ite_still1 | apply ite_still2 | apply foldl_still
      | apply foldl_still1 | apply foldl_still2 | apply State.setPort_still_of | apply State.peerRequest_still_of
      | simp only [State.still_mk] | split | dsimp only

theorem State.returnLane_still_of {s₀ s : State} (hk : s.still = s₀.still) (p : Nat) (lane : Nat) :
    (State.returnLane s p lane).still = s₀.still := by
  unfold State.returnLane
  try dsimp only
  with_reducible
    repeat'
      first
      | assumption | intro u | apply ite_still | apply ite_still1 | apply ite_still2 | apply foldl_still
      | apply foldl_still1 | apply foldl_still2 | apply State.setLane_still_of | apply State.setPort_still_of
      | apply State.standReady_still_of | apply State.advanceEpoch_still_of | apply State.record_still_of
      | apply State.endRecovery_still_of | simp only [State.still_mk] | split | dsimp only

theorem State.startLaneBack_still_of {s₀ s : State} (hk : s.still = s₀.still) (lane : Nat) :
    (State.startLaneBack s lane).still = s₀.still := by
  unfold State.startLaneBack
  try dsimp only
  with_reducible
    repeat'
      first
      | assumption | intro u | apply ite_still | apply ite_still1 | apply ite_still2 | apply foldl_still
      | apply foldl_still1 | apply foldl_still2 | apply State.moveBack_still_of | simp only [State.still_mk]
      | split | dsimp only

theorem switchBackLaneOp_still_of {s₀ s : State} (hk : s.still = s₀.still)  (ss i : Nat) (v : Val) :
    (switchBackLaneOp  s ss i v).1.still = s₀.still := by
  unfold switchBackLaneOp
  try dsimp only
  with_reducible
    repeat'
      first
      | assumption | intro u | apply ite_still | apply ite_still1 | apply ite_still2 | apply foldl_still
      | apply foldl_still1 | apply foldl_still2 | simp only [State.still_mk] | split | dsimp only

theorem retrainOp_still_of {s₀ s : State} (hk : s.still = s₀.still)  (ss i : Nat) (v : Val) :
    (retrainOp  s ss i v).1.still = s₀.still := by
  unfold retrainOp
  try dsimp only
  with_reducible
    repeat'
      first
      | assumption | intro u | apply ite_still | apply ite_still1 | apply ite_still2 | apply foldl_still
      | apply foldl_still1 | apply foldl_still2 | apply State.clearSpare_still_of | apply State.setLane_still_of
      | apply State.substituteLane_still_of | apply State.advanceEpoch_still_of | simp only [State.still_mk]
      | split | dsimp only

theorem State.startRetrain_still_of {s₀ s : State} (hk : s.still = s₀.still) (l : Nat) :
    (State.startRetrain s l).still = s₀.still := by
  unfold State.startRetrain
  try dsimp only
  with_reducible
    repeat'
      first
      | assumption | intro u | apply ite_still | apply ite_still1 | apply ite_still2 | apply foldl_still
      | apply foldl_still1 | apply foldl_still2 | apply State.setLane_still_of | apply State.detect_still_of
      | simp only [State.still_mk] | split | dsimp only

theorem State.sendAnchor_still_of {s₀ s : State} (hk : s.still = s₀.still) (p : Nat) (number : Nat) (count : Nat) (payload : Bytes) (l : Nat) :
    (State.sendAnchor s p number count payload l).still = s₀.still := by
  unfold State.sendAnchor
  try dsimp only
  with_reducible
    repeat'
      first
      | assumption | intro u | apply ite_still | apply ite_still1 | apply ite_still2 | apply foldl_still
      | apply foldl_still1 | apply foldl_still2 | apply State.setLane_still_of | apply State.bumpBy_still_of
      | apply State.send_still_of | simp only [State.still_mk] | split | dsimp only

theorem State.sendInterval_still_of {s₀ s : State} (hk : s.still = s₀.still) (p : Nat) (waiting : Bool) :
    (State.sendInterval s p waiting).still = s₀.still := by
  unfold State.sendInterval
  try dsimp only
  with_reducible
    repeat'
      first
      | assumption | intro u | apply ite_still | apply ite_still1 | apply ite_still2 | apply foldl_still
      | apply foldl_still1 | apply foldl_still2 | apply State.wakeLane_still_of | apply State.fillSlots_still_of
      | apply State.sendAnchor_still_of | apply State.enterLane_still_of | apply State.setPort_still_of
      | apply State.enterLanes_still_of | apply State.setReg_still_of | simp only [State.still_mk] | split
      | dsimp only

theorem State.noteSlack_still_of {s₀ s : State} (hk : s.still = s₀.still) (up : Bool) (l : Nat) :
    (State.noteSlack s up l).still = s₀.still := by
  unfold State.noteSlack
  try dsimp only
  with_reducible
    repeat'
      first
      | assumption | intro u | apply ite_still | apply ite_still1 | apply ite_still2 | apply foldl_still
      | apply foldl_still1 | apply foldl_still2 | apply State.setReg_still_of | simp only [State.still_mk] | split
      | dsimp only

theorem State.matchRate_still_of {s₀ s : State} (hk : s.still = s₀.still) (p : Nat) (l : Nat) (number : Nat) (fill : Nat) :
    (State.matchRate s p l number fill).still = s₀.still := by
  unfold State.matchRate
  try dsimp only
  with_reducible
    repeat'
      first
      | assumption | intro u | apply ite_still | apply ite_still1 | apply ite_still2 | apply foldl_still
      | apply foldl_still1 | apply foldl_still2 | apply State.setLane_still_of | apply State.laneFault_still_of
      | apply State.noteSlack_still_of | simp only [State.still_mk] | split | dsimp only

theorem State.countAnchor_still_of {s₀ s : State} (hk : s.still = s₀.still) (l : Nat) (bad : Bool) :
    (State.countAnchor s l bad).still = s₀.still := by
  unfold State.countAnchor
  try dsimp only
  with_reducible
    repeat'
      first
      | assumption | intro u | apply ite_still | apply ite_still1 | apply ite_still2 | apply foldl_still
      | apply foldl_still1 | apply foldl_still2 | apply State.setLane_still_of | apply State.laneFault_still_of
      | simp only [State.still_mk] | split | dsimp only

theorem State.noteSpareGood_still_of {s₀ s : State} (hk : s.still = s₀.still) (p : Nat) (l : Nat) (number : Nat) :
    (State.noteSpareGood s p l number).still = s₀.still := by
  unfold State.noteSpareGood
  try dsimp only
  with_reducible
    repeat'
      first
      | assumption | intro u | apply ite_still | apply ite_still1 | apply ite_still2 | apply foldl_still
      | apply foldl_still1 | apply foldl_still2 | apply State.setPort_still_of | apply State.returnLane_still_of
      | apply State.setSpare_still_of | simp only [State.still_mk] | split | dsimp only

theorem State.goodAnchor_still_of {s₀ s : State} (hk : s.still = s₀.still) (p : Nat) (l : Nat) (word : Nat) (skewNs : Nat) (fill : Nat) :
    (State.goodAnchor s p l word skewNs fill).still = s₀.still := by
  unfold State.goodAnchor
  try dsimp only
  with_reducible
    repeat'
      first
      | assumption | intro u | apply ite_still | apply ite_still1 | apply ite_still2 | apply foldl_still
      | apply foldl_still1 | apply foldl_still2 | apply State.setReg_still_of | apply State.setLane_still_of
      | apply State.laneFault_still_of | apply State.setPort_still_of | apply State.peerRequest_still_of
      | apply State.noteSpareGood_still_of | apply State.matchRate_still_of | apply State.seeRequest_still_of
      | simp only [State.still_mk] | split | dsimp only

theorem State.startTest_still_of {s₀ s : State} (hk : s.still = s₀.still) (l : Nat) :
    (State.startTest s l).still = s₀.still := by
  unfold State.startTest
  try dsimp only
  with_reducible
    repeat'
      first
      | assumption | intro u | apply ite_still | apply ite_still1 | apply ite_still2 | apply foldl_still
      | apply foldl_still1 | apply foldl_still2 | apply State.setLane_still_of | apply State.detect_still_of
      | apply State.enterLane_still_of | apply State.setReg_still_of | simp only [State.still_mk] | split
      | dsimp only

theorem laneTestOp_still_of {s₀ s : State} (hk : s.still = s₀.still) (key : Nat) (ss i : Nat) (v : Val) :
    (laneTestOp key s ss i v).1.still = s₀.still := by
  unfold laneTestOp
  try dsimp only
  with_reducible
    repeat'
      first
      | assumption | intro u | apply ite_still | apply ite_still1 | apply ite_still2 | apply foldl_still
      | apply foldl_still1 | apply foldl_still2 | apply State.setReg_still_of | apply State.sendBlock_still_of
      | apply State.startTest_still_of | simp only [State.still_mk] | split | dsimp only

theorem State.loseAnchor_still_of {s₀ s : State} (hk : s.still = s₀.still) (l : Nat) :
    (State.loseAnchor s l).still = s₀.still := by
  unfold State.loseAnchor
  try dsimp only
  with_reducible
    repeat'
      first
      | assumption | intro u | apply ite_still | apply ite_still1 | apply ite_still2 | apply foldl_still
      | apply foldl_still1 | apply foldl_still2 | apply State.bump_still_of | apply State.setLane_still_of
      | apply State.countAnchor_still_of | apply State.laneFault_still_of | simp only [State.still_mk] | split
      | dsimp only

theorem State.seekAnchor_still_of {s₀ s : State} (hk : s.still = s₀.still) (l : Nat) (good : Bool) :
    (State.seekAnchor s l good).still = s₀.still := by
  unfold State.seekAnchor
  try dsimp only
  with_reducible
    repeat'
      first
      | assumption | intro u | apply ite_still | apply ite_still1 | apply ite_still2 | apply foldl_still
      | apply foldl_still1 | apply foldl_still2 | apply State.setLane_still_of | simp only [State.still_mk] | split
      | dsimp only

theorem State.leaveBanked_still_of {s₀ s : State} (hk : s.still = s₀.still) (p : Nat) :
    (State.leaveBanked s p).still = s₀.still := by
  unfold State.leaveBanked
  try dsimp only
  with_reducible
    repeat'
      first
      | assumption | intro u | apply ite_still | apply ite_still1 | apply ite_still2 | apply foldl_still
      | apply foldl_still1 | apply foldl_still2 | apply State.enterLane_still_of
      | apply State.sendRunEntry_still_of | apply State.setReg_still_of | apply State.setPort_still_of
      | simp only [State.still_mk] | split | dsimp only

theorem State.repeatBlock_still_of {s₀ s : State} (hk : s.still = s₀.still) (l : Nat) :
    (State.repeatBlock s l).still = s₀.still := by
  unfold State.repeatBlock
  try dsimp only
  with_reducible
    repeat'
      first
      | assumption | intro u | apply ite_still | apply ite_still1 | apply ite_still2 | apply foldl_still
      | apply foldl_still1 | apply foldl_still2 | apply State.setLane_still_of | apply State.sendBlock_still_of
      | simp only [State.still_mk] | split | dsimp only

theorem State.returnBit_still_of {s₀ s : State} (hk : s.still = s₀.still) (l : Nat) :
    (State.returnBit s l).still = s₀.still := by
  unfold State.returnBit
  try dsimp only
  with_reducible
    repeat'
      first
      | assumption | intro u | apply ite_still | apply ite_still1 | apply ite_still2 | apply foldl_still
      | apply foldl_still1 | apply foldl_still2 | apply State.draw_still_of | apply State.send_still_of
      | simp only [State.still_mk] | split | dsimp only

theorem State.laneTick_still_of {s₀ s : State} (hk : s.still = s₀.still) (l : Nat) :
    (State.laneTick s l).still = s₀.still := by
  unfold State.laneTick
  try dsimp only
  with_reducible
    repeat'
      first
      | assumption | intro u | apply ite_still | apply ite_still1 | apply ite_still2 | apply foldl_still
      | apply foldl_still1 | apply foldl_still2 | apply State.returnBit_still_of | apply State.repeatBlock_still_of
      | apply State.patternBit_still_of | simp only [State.still_mk] | split | dsimp only

theorem State.cellCrcError_still_of {s₀ s : State} (hk : s.still = s₀.still) (p : Nat) :
    (State.cellCrcError s p).still = s₀.still := by
  unfold State.cellCrcError
  try dsimp only
  with_reducible
    repeat'
      first
      | assumption | intro u | apply ite_still | apply ite_still1 | apply ite_still2 | apply foldl_still
      | apply foldl_still1 | apply foldl_still2 | apply State.bump_still_of | apply State.setPort_still_of
      | apply State.portDown_still_of | simp only [State.still_mk] | split | dsimp only

theorem State.onCell_still_of {s₀ s : State} (hk : s.still = s₀.still) (p : Nat) (cell : Bytes) (type : Nat) (f : State → State) (hf : ∀ u, u.still = s₀.still → (f u).still = s₀.still) :
    (State.onCell s p cell type f).still = s₀.still := by
  unfold State.onCell
  try dsimp only
  with_reducible
    repeat'
      first
      | assumption | intro u | apply ite_still | apply ite_still1 | apply ite_still2 | apply foldl_still
      | apply foldl_still1 | apply foldl_still2 | apply hf | apply State.cellCrcError_still_of
      | apply State.bump_still_of | simp only [State.still_mk] | split | dsimp only

theorem State.notePort_still_of {s₀ s : State} (hk : s.still = s₀.still) (p : Nat) (c : Code) (detail : Nat) :
    (State.notePort s p c detail).still = s₀.still := by
  unfold State.notePort
  try dsimp only
  with_reducible
    repeat'
      first
      | assumption | intro u | apply ite_still | apply ite_still1 | apply ite_still2 | apply foldl_still
      | apply foldl_still1 | apply foldl_still2 | apply State.recordEvery_still_of | simp only [State.still_mk]
      | split | dsimp only

theorem State.streamBoundary_still_of {s₀ s : State} (hk : s.still = s₀.still) (stream : Nat) :
    (State.streamBoundary s stream).still = s₀.still := by
  unfold State.streamBoundary
  try dsimp only
  with_reducible
    repeat'
      first
      | assumption | intro u | apply ite_still | apply ite_still1 | apply ite_still2 | apply foldl_still
      | apply foldl_still1 | apply foldl_still2 | apply State.applyDue_still_of | simp only [State.still_mk]
      | split | dsimp only

theorem State.onVideo_still_of {s₀ s : State} (hk : s.still = s₀.still) (p : Nat) (cell : Bytes) (kind : Nat) (f : State → Nat → State) (hf : ∀ u x0, u.still = s₀.still → (f u x0).still = s₀.still) :
    (State.onVideo s p cell kind f).still = s₀.still := by
  unfold State.onVideo
  try dsimp only
  with_reducible
    repeat'
      first
      | assumption | intro u | apply ite_still | apply ite_still1 | apply ite_still2 | apply foldl_still
      | apply foldl_still1 | apply foldl_still2 | apply hf | apply State.onCell_still_of
      | apply State.streamBoundary_still_of | apply State.bump_still_of | apply State.notePort_still_of
      | simp only [State.still_mk] | split | dsimp only

theorem State.dropFrame_still_of {s₀ s : State} (hk : s.still = s₀.still) (slot : Nat) (seq : Nat) (c : Code) :
    (State.dropFrame s slot seq c).still = s₀.still := by
  unfold State.dropFrame
  try dsimp only
  with_reducible
    repeat'
      first
      | assumption | intro u | apply ite_still | apply ite_still1 | apply ite_still2 | apply foldl_still
      | apply foldl_still1 | apply foldl_still2 | apply State.bump_still_of | apply State.recordEvery_still_of
      | simp only [State.still_mk] | split | dsimp only

theorem State.storePixels_still_of {s₀ s : State} (h : s.still = s₀.still) (x : Source) (base first : Nat) (px : List Bytes) :
    (State.storePixels s x base first px).still = s₀.still := by
  induction px generalizing s first with
  | nil => exact h
  | cons p px ih =>
    refine ih ?_ (first + 1)
    split
    · exact State.store_still_of h _ _
    · exact h

theorem State.fillPixels_still_of {s₀ s : State} (hk : s.still = s₀.still) (i : Nat) (f : RxFrame) (first : Nat) (n : Nat) :
    (State.fillPixels s i f first n).still = s₀.still := by
  unfold State.fillPixels
  try dsimp only
  with_reducible
    repeat'
      first
      | assumption | intro u | apply ite_still | apply ite_still1 | apply ite_still2 | apply foldl_still
      | apply foldl_still1 | apply foldl_still2 | apply State.storePixels_still_of | simp only [State.still_mk]
      | split | dsimp only

theorem State.fillCells_still_of {s₀ s : State} (hk : s.still = s₀.still) (i : Nat) (f : RxFrame) (a : Nat) (b : Nat) :
    (State.fillCells s i f a b).still = s₀.still := by
  unfold State.fillCells
  try dsimp only
  with_reducible
    repeat'
      first
      | assumption | intro u | apply ite_still | apply ite_still1 | apply ite_still2 | apply foldl_still
      | apply foldl_still1 | apply foldl_still2 | apply State.fillPixels_still_of | simp only [State.still_mk]
      | split | dsimp only

theorem State.forgetRx_still_of {s₀ s : State} (hk : s.still = s₀.still) (p : Nat) (f : RxFrame) :
    (State.forgetRx s p f).still = s₀.still := by
  unfold State.forgetRx
  try dsimp only
  with_reducible
    repeat'
      first
      | assumption | intro u | apply ite_still | apply ite_still1 | apply ite_still2 | apply foldl_still
      | apply foldl_still1 | apply foldl_still2 | apply State.setPort_still_of | simp only [State.still_mk] | split
      | dsimp only

theorem State.setRx_still_of {s₀ s : State} (hk : s.still = s₀.still) (p : Nat) (f : RxFrame) :
    (State.setRx s p f).still = s₀.still := by
  unfold State.setRx
  try dsimp only
  with_reducible
    repeat'
      first
      | assumption | intro u | apply ite_still | apply ite_still1 | apply ite_still2 | apply foldl_still
      | apply foldl_still1 | apply foldl_still2 | apply State.setPort_still_of | simp only [State.still_mk] | split
      | dsimp only

theorem State.settleFrame_still_of {s₀ s0 : State} (hk : s0.still = s₀.still) (f : RxFrame) (marks : Nat) :
    (State.settleFrame s0 f marks).1.still = s₀.still := by
  unfold State.settleFrame
  try dsimp only
  with_reducible
    repeat'
      first
      | assumption | intro u | apply ite_still | apply ite_still1 | apply ite_still2 | apply foldl_still
      | apply foldl_still1 | apply foldl_still2 | apply State.fillCells_still_of | apply State.setIngot_still_of
      | apply State.bump_still_of | apply State.record_still_of | apply State.abandon_still_of
      | apply State.dropFrame_still_of | apply State.publish_still_of | simp only [State.still_mk] | split
      | dsimp only

theorem State.endFrame_still_of {s₀ s : State} (hk : s.still = s₀.still) (p : Nat) (f : RxFrame) (marks : Nat) :
    (State.endFrame s p f marks).1.still = s₀.still := by
  unfold State.endFrame
  try dsimp only
  with_reducible
    repeat'
      first
      | assumption | intro u | apply ite_still | apply ite_still1 | apply ite_still2 | apply foldl_still
      | apply foldl_still1 | apply foldl_still2 | apply State.forgetRx_still_of | apply State.setPort_still_of
      | apply State.settleFrame_still_of | simp only [State.still_mk] | split | dsimp only

theorem State.settleEnded_still_of {s₀ s : State} (hk : s.still = s₀.still) (p : Nat) :
    (State.settleEnded s p).still = s₀.still := by
  unfold State.settleEnded
  try dsimp only
  with_reducible
    repeat'
      first
      | assumption | intro u | apply ite_still | apply ite_still1 | apply ite_still2 | apply foldl_still
      | apply foldl_still1 | apply foldl_still2 | apply State.setPort_still_of | apply State.settleFrame_still_of
      | simp only [State.still_mk] | split | dsimp only

theorem State.truncateRx_still_of {s₀ s : State} (hk : s.still = s₀.still) (p : Nat) (slot : Nat) :
    (State.truncateRx s p slot).still = s₀.still := by
  unfold State.truncateRx
  try dsimp only
  with_reducible
    repeat'
      first
      | assumption | intro u | apply ite_still | apply ite_still1 | apply ite_still2 | apply foldl_still
      | apply foldl_still1 | apply foldl_still2 | apply State.endFrame_still_of | simp only [State.still_mk]
      | split | dsimp only

theorem State.takeHeader_still_of {s₀ s : State} (hk : s.still = s₀.still) (p : Nat) (cell : Bytes) (slot : Nat) (x : Source) :
    (State.takeHeader s p cell slot x).still = s₀.still := by
  unfold State.takeHeader
  try dsimp only
  with_reducible
    repeat'
      first
      | assumption | intro u | apply ite_still | apply ite_still1 | apply ite_still2 | apply foldl_still
      | apply foldl_still1 | apply foldl_still2 | apply State.truncateRx_still_of | apply State.setBlob_still_of
      | apply State.setReg_still_of | apply State.setSlot_still_of | apply State.countFrame_still_of
      | apply State.dropFrame_still_of | apply State.takeFree_still_of | apply State.setIngot_still_of
      | apply State.applyFrozen_still_of | apply State.countFrom_still_of | apply State.setRx_still_of
      | simp only [State.still_mk] | split | dsimp only

theorem State.takeData_still_of {s₀ s : State} (hk : s.still = s₀.still) (p : Nat) (cell : Bytes) (slot : Nat) (x : Source) :
    (State.takeData s p cell slot x).still = s₀.still := by
  unfold State.takeData
  try dsimp only
  with_reducible
    repeat'
      first
      | assumption | intro u | apply ite_still | apply ite_still1 | apply ite_still2 | apply foldl_still
      | apply foldl_still1 | apply foldl_still2 | apply State.setRx_still_of | apply State.fillCells_still_of
      | apply State.storePixels_still_of | apply State.fillPixels_still_of | simp only [State.still_mk] | split
      | dsimp only

theorem State.takeTrailer_still_of {s₀ s : State} (hk : s.still = s₀.still) (p : Nat) (cell : Bytes) (slot : Nat) :
    (State.takeTrailer s p cell slot).still = s₀.still := by
  unfold State.takeTrailer
  try dsimp only
  with_reducible
    repeat'
      first
      | assumption | intro u | apply ite_still | apply ite_still1 | apply ite_still2 | apply foldl_still
      | apply foldl_still1 | apply foldl_still2 | apply State.endFrame_still_of | apply State.sendCell_still_of
      | simp only [State.still_mk] | split | dsimp only

theorem State.witnessFail_still_of {s₀ s : State} (hk : s.still = s₀.still) (o : Nat) (ofNum : Nat) (c : Code) :
    (State.witnessFail s o ofNum c).still = s₀.still := by
  unfold State.witnessFail
  try dsimp only
  with_reducible
    repeat'
      first
      | assumption | intro u | apply ite_still | apply ite_still1 | apply ite_still2 | apply foldl_still
      | apply foldl_still1 | apply foldl_still2 | apply State.setOutput_still_of | apply State.bump_still_of
      | apply State.record_still_of | simp only [State.still_mk] | split | dsimp only

theorem State.witnessPass_still_of {s₀ s : State} (hk : s.still = s₀.still) (o : Nat) :
    (State.witnessPass s o).still = s₀.still := by
  unfold State.witnessPass
  try dsimp only
  with_reducible
    repeat'
      first
      | assumption | intro u | apply ite_still | apply ite_still1 | apply ite_still2 | apply foldl_still
      | apply foldl_still1 | apply foldl_still2 | apply State.setOutput_still_of | simp only [State.still_mk]
      | split | dsimp only

theorem State.takeWitness_still_of {s₀ s : State} (hk : s.still = s₀.still) (p : Nat) (cell : Bytes) :
    (State.takeWitness s p cell).still = s₀.still := by
  unfold State.takeWitness
  try dsimp only
  with_reducible
    repeat'
      first
      | assumption | intro u | apply ite_still | apply ite_still1 | apply ite_still2 | apply foldl_still
      | apply foldl_still1 | apply foldl_still2 | apply State.bump_still_of | apply State.setOutput_still_of
      | apply State.setReg_still_of | apply State.witnessPass_still_of | apply State.witnessFail_still_of
      | simp only [State.still_mk] | split | dsimp only

theorem State.sendTwice_still_of {s₀ s : State} (hk : s.still = s₀.still) (p : Nat) (cells : List Bytes) :
    (State.sendTwice s p cells).still = s₀.still := by
  unfold State.sendTwice
  try dsimp only
  with_reducible
    repeat'
      first
      | assumption | intro u | apply ite_still | apply ite_still1 | apply ite_still2 | apply foldl_still
      | apply foldl_still1 | apply foldl_still2 | apply State.sendCell_still_of | simp only [State.still_mk]
      | split | dsimp only

theorem State.forward_still_of {s₀ s : State} (hk : s.still = s₀.still) (slot : Nat) (x : Source) :
    (State.forward s slot x).still = s₀.still := by
  unfold State.forward
  try dsimp only
  with_reducible
    repeat'
      first
      | assumption | intro u | apply ite_still | apply ite_still1 | apply ite_still2 | apply foldl_still
      | apply foldl_still1 | apply foldl_still2 | apply State.takeRef_still_of | apply State.setSlot_still_of
      | apply State.sendTwice_still_of | simp only [State.still_mk] | split | dsimp only

theorem State.pump_still_of {s₀ s : State} (hk : s.still = s₀.still) (p : Nat) :
    (State.pump s p).still = s₀.still := by
  unfold State.pump
  try dsimp only
  with_reducible
    repeat'
      first
      | assumption | intro u | apply ite_still | apply ite_still1 | apply ite_still2 | apply foldl_still
      | apply foldl_still1 | apply foldl_still2 | apply State.sendCell_still_of | apply State.setPort_still_of
      | simp only [State.still_mk] | split | dsimp only

theorem State.sendMessage_still_of {s₀ s : State} (hk : s.still = s₀.still) (p : Nat) (kind : Nat) (payload : Bytes) :
    (State.sendMessage s p kind payload).still = s₀.still := by
  unfold State.sendMessage
  try dsimp only
  with_reducible
    repeat'
      first
      | assumption | intro u | apply ite_still | apply ite_still1 | apply ite_still2 | apply foldl_still
      | apply foldl_still1 | apply foldl_still2 | apply State.setPort_still_of | apply State.pump_still_of
      | simp only [State.still_mk] | split | dsimp only

theorem State.sendCredit_still_of {s₀ s : State} (hk : s.still = s₀.still) (p : Nat) (ack : Bool) :
    (State.sendCredit s p ack).still = s₀.still := by
  unfold State.sendCredit
  try dsimp only
  with_reducible
    repeat'
      first
      | assumption | intro u | apply ite_still | apply ite_still1 | apply ite_still2 | apply foldl_still
      | apply foldl_still1 | apply foldl_still2 | apply State.sendCell_still_of | simp only [State.still_mk]
      | split | dsimp only

theorem State.limitMessages_still_of {s₀ s : State} (hk : s.still = s₀.still) (p : Nat) :
    (State.limitMessages s p).1.still = s₀.still := by
  unfold State.limitMessages
  try dsimp only
  with_reducible
    repeat'
      first
      | assumption | intro u | apply ite_still | apply ite_still1 | apply ite_still2 | apply foldl_still
      | apply foldl_still1 | apply foldl_still2 | apply State.bump_still_of | apply State.notePort_still_of
      | apply State.setPort_still_of | simp only [State.still_mk] | split | dsimp only

theorem State.acceptMessage_still_of {s₀ s : State} (hk : s.still = s₀.still) (p : Nat) (cell : Bytes) :
    (State.acceptMessage s p cell).1.still = s₀.still := by
  unfold State.acceptMessage
  try dsimp only
  with_reducible
    repeat'
      first
      | assumption | intro u | apply ite_still | apply ite_still1 | apply ite_still2 | apply foldl_still
      | apply foldl_still1 | apply foldl_still2 | apply State.limitMessages_still_of | apply State.setPort_still_of
      | apply State.sendCredit_still_of | simp only [State.still_mk] | split | dsimp only

theorem State.admitMessage_still_of {s₀ s : State} (hk : s.still = s₀.still) (p : Nat) (kind : Nat) :
    (State.admitMessage s p kind).1.still = s₀.still := by
  unfold State.admitMessage
  try dsimp only
  with_reducible
    repeat'
      first
      | assumption | intro u | apply ite_still | apply ite_still1 | apply ite_still2 | apply foldl_still
      | apply foldl_still1 | apply foldl_still2 | apply State.bump_still_of | apply State.notePort_still_of
      | simp only [State.still_mk] | split | dsimp only

theorem State.takeCredit_still_of {s₀ s : State} (hk : s.still = s₀.still) (p : Nat) (cell : Bytes) :
    (State.takeCredit s p cell).still = s₀.still := by
  unfold State.takeCredit
  try dsimp only
  with_reducible
    repeat'
      first
      | assumption | intro u | apply ite_still | apply ite_still1 | apply ite_still2 | apply foldl_still
      | apply foldl_still1 | apply foldl_still2 | apply State.setPort_still_of | apply State.sendCredit_still_of
      | apply State.pump_still_of | simp only [State.still_mk] | split | dsimp only

theorem State.retransmit_still_of {s₀ s : State} (hk : s.still = s₀.still) (p : Nat) :
    (State.retransmit s p).still = s₀.still := by
  unfold State.retransmit
  try dsimp only
  with_reducible
    repeat'
      first
      | assumption | intro u | apply ite_still | apply ite_still1 | apply ite_still2 | apply foldl_still
      | apply foldl_still1 | apply foldl_still2 | apply State.setPort_still_of | apply State.record_still_of
      | apply State.bump_still_of | apply State.sendMessage_still_of | apply State.sendCredit_still_of
      | apply State.sendCell_still_of | simp only [State.still_mk] | split | dsimp only

theorem State.onTime_still_of {s₀ s : State} (hk : s.still = s₀.still) (p : Nat) (cell : Bytes) (kind : Nat) (role : Nat) (f : State → Bytes → Nat → State) (hf : ∀ u x0 x1, u.still = s₀.still → (f u x0 x1).still = s₀.still) :
    (State.onTime s p cell kind role f).still = s₀.still := by
  unfold State.onTime
  try dsimp only
  with_reducible
    repeat'
      first
      | assumption | intro u | apply ite_still | apply ite_still1 | apply ite_still2 | apply foldl_still
      | apply foldl_still1 | apply foldl_still2 | apply hf | apply State.onCell_still_of
      | apply State.bump_still_of | apply State.notePort_still_of | simp only [State.still_mk] | split | dsimp only

theorem State.takeSync_still_of {s₀ s : State} (hk : s.still = s₀.still) (p : Nat) (b : Bytes) (number : Nat) :
    (State.takeSync s p b number).still = s₀.still := by
  unfold State.takeSync
  try dsimp only
  with_reducible
    repeat'
      first
      | assumption | intro u | apply ite_still | apply ite_still1 | apply ite_still2 | apply foldl_still
      | apply foldl_still1 | apply foldl_still2 | apply State.setPort_still_of | apply State.sendCell_still_of
      | apply State.recordDevice_still_of | apply State.settleTime_still_of | simp only [State.still_mk] | split
      | dsimp only

theorem State.takeResponse_still_of {s₀ s : State} (hk : s.still = s₀.still) (p : Nat) (b : Bytes) (number : Nat) :
    (State.takeResponse s p b number).still = s₀.still := by
  unfold State.takeResponse
  try dsimp only
  with_reducible
    repeat'
      first
      | assumption | intro u | apply ite_still | apply ite_still1 | apply ite_still2 | apply foldl_still
      | apply foldl_still1 | apply foldl_still2 | apply State.setPort_still_of | apply State.setRegI_still_of
      | apply State.addSample_still_of | simp only [State.still_mk] | split | dsimp only

theorem State.sendSync_still_of {s₀ s : State} (hk : s.still = s₀.still) (p : Nat) :
    (State.sendSync s p).still = s₀.still := by
  unfold State.sendSync
  try dsimp only
  with_reducible
    repeat'
      first
      | assumption | intro u | apply ite_still | apply ite_still1 | apply ite_still2 | apply foldl_still
      | apply foldl_still1 | apply foldl_still2 | apply State.setPort_still_of | apply State.sendCell_still_of
      | simp only [State.still_mk] | split | dsimp only

theorem State.setCamState_still_of {s₀ s : State} (hk : s.still = s₀.still) (port : Nat) (st : Nat) :
    (State.setCamState s port st).still = s₀.still := by
  unfold State.setCamState
  try dsimp only
  with_reducible
    repeat'
      first
      | assumption | intro u | apply ite_still | apply ite_still1 | apply ite_still2 | apply foldl_still
      | apply foldl_still1 | apply foldl_still2 | apply State.setReg_still_of | apply State.record_still_of
      | simp only [State.still_mk] | split | dsimp only

theorem State.enableCamPort_still_of {s₀ s : State} (hk : s.still = s₀.still) (port : Nat) :
    (State.enableCamPort s port).still = s₀.still := by
  unfold State.enableCamPort
  try dsimp only
  with_reducible
    repeat'
      first
      | assumption | intro u | apply ite_still | apply ite_still1 | apply ite_still2 | apply foldl_still
      | apply foldl_still1 | apply foldl_still2 | apply State.setCamPort_still_of
      | apply State.setCamState_still_of | simp only [State.still_mk] | split | dsimp only

theorem State.disableCamPort_still_of {s₀ s : State} (hk : s.still = s₀.still) (port : Nat) :
    (State.disableCamPort s port).still = s₀.still := by
  unfold State.disableCamPort
  try dsimp only
  with_reducible
    repeat'
      first
      | assumption | intro u | apply ite_still | apply ite_still1 | apply ite_still2 | apply foldl_still
      | apply foldl_still1 | apply foldl_still2 | apply State.setReg_still_of | apply State.setCamPort_still_of
      | apply State.setCamState_still_of | simp only [State.still_mk] | split | dsimp only

theorem State.stray_still_of {s₀ s : State} (hk : s.still = s₀.still) (port : Nat) (vc : Nat) :
    (State.stray s port vc).still = s₀.still := by
  unfold State.stray
  try dsimp only
  with_reducible
    repeat'
      first
      | assumption | intro u | apply ite_still | apply ite_still1 | apply ite_still2 | apply foldl_still
      | apply foldl_still1 | apply foldl_still2 | apply State.bump_still_of | simp only [State.still_mk] | split
      | dsimp only

theorem State.enableContext_still_of {s₀ s : State} (hk : s.still = s₀.still) (c : Nat) :
    (State.enableContext s c).still = s₀.still := by
  unfold State.enableContext
  try dsimp only
  with_reducible
    repeat'
      first
      | assumption | intro u | apply ite_still | apply ite_still1 | apply ite_still2 | apply foldl_still
      | apply foldl_still1 | apply foldl_still2 | apply State.setCtx_still_of | simp only [State.still_mk] | split
      | dsimp only

theorem State.disableContext_still_of {s₀ s : State} (hk : s.still = s₀.still) (c : Nat) :
    (State.disableContext s c).still = s₀.still := by
  unfold State.disableContext
  try dsimp only
  with_reducible
    repeat'
      first
      | assumption | intro u | apply ite_still | apply ite_still1 | apply ite_still2 | apply foldl_still
      | apply foldl_still1 | apply foldl_still2 | apply State.setCtx_still_of | simp only [State.still_mk] | split
      | dsimp only

theorem State.dropCamera_still_of {s₀ s : State} (hk : s.still = s₀.still) (c : Nat) (seq : Nat) (code : Code) :
    (State.dropCamera s c seq code).still = s₀.still := by
  unfold State.dropCamera
  try dsimp only
  with_reducible
    repeat'
      first
      | assumption | intro u | apply ite_still | apply ite_still1 | apply ite_still2 | apply foldl_still
      | apply foldl_still1 | apply foldl_still2 | apply State.bump_still_of | apply State.recordEvery_still_of
      | simp only [State.still_mk] | split | dsimp only

theorem State.markCamera_still_of {s₀ s : State} (hk : s.still = s₀.still) (f : CamFrame) (bit : Nat) :
    (State.markCamera s f bit).1.still = s₀.still := by
  unfold State.markCamera
  try dsimp only
  with_reducible
    repeat'
      first
      | assumption | intro u | apply ite_still | apply ite_still1 | apply ite_still2 | apply foldl_still
      | apply foldl_still1 | apply foldl_still2 | apply State.bump_still_of | apply State.recordEvery_still_of
      | simp only [State.still_mk] | split | dsimp only

theorem State.noteHeader_still_of {s₀ s : State} (hk : s.still = s₀.still) (port : Nat) (vc : Nat) (ecc : Nat) :
    (State.noteHeader s port vc ecc).still = s₀.still := by
  unfold State.noteHeader
  try dsimp only
  with_reducible
    repeat'
      first
      | assumption | intro u | apply ite_still | apply ite_still1 | apply ite_still2 | apply foldl_still
      | apply foldl_still1 | apply foldl_still2 | apply State.bump_still_of | simp only [State.still_mk] | split
      | dsimp only

theorem State.markCurrent_still_of {s₀ s : State} (hk : s.still = s₀.still) (bit : Nat) (c : Nat) :
    (State.markCurrent s bit c).still = s₀.still := by
  unfold State.markCurrent
  try dsimp only
  with_reducible
    repeat'
      first
      | assumption | intro u | apply ite_still | apply ite_still1 | apply ite_still2 | apply foldl_still
      | apply foldl_still1 | apply foldl_still2 | apply State.markCamera_still_of | apply State.setCtx_still_of
      | simp only [State.still_mk] | split | dsimp only

theorem State.badHeader_still_of {s₀ s : State} (hk : s.still = s₀.still) (port : Nat) :
    (State.badHeader s port).still = s₀.still := by
  unfold State.badHeader
  try dsimp only
  with_reducible
    repeat'
      first
      | assumption | intro u | apply ite_still | apply ite_still1 | apply ite_still2 | apply foldl_still
      | apply foldl_still1 | apply foldl_still2 | apply State.bump_still_of | apply State.setCamPort_still_of
      | apply State.markCurrent_still_of | simp only [State.still_mk] | split | dsimp only

theorem State.onPacket_still_of {s₀ s : State} (hk : s.still = s₀.still) (port : Nat) (vc : Nat) (ecc : Nat) (f : State → State) (hf : ∀ u, u.still = s₀.still → (f u).still = s₀.still) :
    (State.onPacket s port vc ecc f).still = s₀.still := by
  unfold State.onPacket
  try dsimp only
  with_reducible
    repeat'
      first
      | assumption | intro u | apply ite_still | apply ite_still1 | apply ite_still2 | apply foldl_still
      | apply foldl_still1 | apply foldl_still2 | apply hf | apply State.stray_still_of
      | apply State.badHeader_still_of | apply State.noteHeader_still_of | simp only [State.still_mk] | split
      | dsimp only

theorem State.startExposure_still_of {s₀ s : State} (hk : s.still = s₀.still) (c : Nat) :
    (State.startExposure s c).still = s₀.still := by
  unfold State.startExposure
  try dsimp only
  with_reducible
    repeat'
      first
      | assumption | intro u | apply ite_still | apply ite_still1 | apply ite_still2 | apply foldl_still
      | apply foldl_still1 | apply foldl_still2 | apply State.send_still_of | apply State.setCtx_still_of
      | apply State.recordEvery_still_of | simp only [State.still_mk] | split | dsimp only

theorem State.issueExposure_still_of {s₀ s : State} (hk : s.still = s₀.still) (c : Nat) (lines : Nat) (analogue : Nat) (digital : Nat) :
    (State.issueExposure s c lines analogue digital).still = s₀.still := by
  unfold State.issueExposure
  try dsimp only
  with_reducible
    repeat'
      first
      | assumption | intro u | apply ite_still | apply ite_still1 | apply ite_still2 | apply foldl_still
      | apply foldl_still1 | apply foldl_still2 | apply State.setReg_still_of | apply State.setCtx_still_of
      | apply State.startExposure_still_of | simp only [State.still_mk] | split | dsimp only

theorem State.roundFree_still_of {s₀ s : State} (hk : s.still = s₀.still) (a : Nat) (b : Nat) :
    (State.roundFree s a b).2.still = s₀.still := by
  unfold State.roundFree
  try dsimp only
  with_reducible
    repeat'
      first
      | assumption | intro u | apply ite_still | apply ite_still1 | apply ite_still2 | apply foldl_still
      | apply foldl_still1 | apply foldl_still2 | apply State.draw_still_of | simp only [State.still_mk] | split
      | dsimp only

theorem State.issueManual_still_of {s₀ s : State} (hk : s.still = s₀.still) (c : Nat) :
    (State.issueManual s c).still = s₀.still := by
  unfold State.issueManual
  try dsimp only
  with_reducible
    repeat'
      first
      | assumption | intro u | apply ite_still | apply ite_still1 | apply ite_still2 | apply foldl_still
      | apply foldl_still1 | apply foldl_still2 | apply State.roundFree_still_of
      | apply State.issueExposure_still_of | simp only [State.still_mk] | split | dsimp only

theorem State.exposureFailed_still_of {s₀ s : State} (hk : s.still = s₀.still) (c : Nat) (released : Bool) :
    (State.exposureFailed s c released).still = s₀.still := by
  unfold State.exposureFailed
  try dsimp only
  with_reducible
    repeat'
      first
      | assumption | intro u | apply ite_still | apply ite_still1 | apply ite_still2 | apply foldl_still
      | apply foldl_still1 | apply foldl_still2 | apply State.record_still_of | apply State.setCtx_still_of
      | simp only [State.still_mk] | split | dsimp only

theorem State.exposureDone_still_of {s₀ s : State} (hk : s.still = s₀.still) (c : Nat) :
    (State.exposureDone s c).still = s₀.still := by
  unfold State.exposureDone
  try dsimp only
  with_reducible
    repeat'
      first
      | assumption | intro u | apply ite_still | apply ite_still1 | apply ite_still2 | apply foldl_still
      | apply foldl_still1 | apply foldl_still2 | apply State.setCtx_still_of | apply State.startExposure_still_of
      | simp only [State.still_mk] | split | dsimp only

theorem State.takeStaging_still_of {s₀ s : State} (hk : s.still = s₀.still) (c : Nat) :
    (State.takeStaging s c).2.still = s₀.still := by
  unfold State.takeStaging
  try dsimp only
  with_reducible
    repeat'
      first
      | assumption | intro u | apply ite_still | apply ite_still1 | apply ite_still2 | apply foldl_still
      | apply foldl_still1 | apply foldl_still2 | apply State.dropCamera_still_of | apply State.setCtx_still_of
      | simp only [State.still_mk] | split | dsimp only

theorem State.endCamera_still_of {s₀ s : State} (hk : s.still = s₀.still) (c : Nat) :
    (State.endCamera s c).still = s₀.still := by
  unfold State.endCamera
  try dsimp only
  with_reducible
    repeat'
      first
      | assumption | intro u | apply ite_still | apply ite_still1 | apply ite_still2 | apply foldl_still
      | apply foldl_still1 | apply foldl_still2 | apply State.markCamera_still_of | apply State.setReg_still_of
      | apply State.setCtx_still_of | apply State.setCamPort_still_of | simp only [State.still_mk] | split
      | dsimp only

theorem State.contextBoundary_still_of {s₀ s : State} (hk : s.still = s₀.still) (c : Nat) :
    (State.contextBoundary s c).still = s₀.still := by
  unfold State.contextBoundary
  try dsimp only
  with_reducible
    repeat'
      first
      | assumption | intro u | apply ite_still | apply ite_still1 | apply ite_still2 | apply foldl_still
      | apply foldl_still1 | apply foldl_still2 | apply State.applyDue_still_of | apply State.setCtx_still_of
      | apply State.issueManual_still_of | simp only [State.still_mk] | split | dsimp only

theorem State.startCamera_still_of {s₀ s : State} (hk : s.still = s₀.still) (c : Nat) :
    (State.startCamera s c).still = s₀.still := by
  unfold State.startCamera
  try dsimp only
  with_reducible
    repeat'
      first
      | assumption | intro u | apply ite_still | apply ite_still1 | apply ite_still2 | apply foldl_still
      | apply foldl_still1 | apply foldl_still2 | apply State.endCamera_still_of
      | apply State.contextBoundary_still_of | apply State.setReg_still_of | apply State.countFrame_still_of
      | apply State.setCtx_still_of | apply State.dropCamera_still_of | apply State.takeStaging_still_of
      | apply State.applyFrozen_still_of | simp only [State.still_mk] | split | dsimp only

theorem State.takeLine_still_of {s₀ s : State} (hk : s.still = s₀.still) (c : Nat) (f : CamFrame) (payload : Bytes) (crcOk : Bool) :
    (State.takeLine s c f payload crcOk).still = s₀.still := by
  unfold State.takeLine
  try dsimp only
  with_reducible
    repeat'
      first
      | assumption | intro u | apply ite_still | apply ite_still1 | apply ite_still2 | apply foldl_still
      | apply foldl_still1 | apply foldl_still2 | apply State.markCamera_still_of | apply State.setCtx_still_of
      | apply State.store_still_of | simp only [State.still_mk] | split | dsimp only

theorem State.writeStats_still_of {s₀ s : State} (hk : s.still = s₀.still) (f : CamFrame) (valid : Bool) (measured : Bytes × Bytes) :
    (State.writeStats s f valid measured).still = s₀.still := by
  unfold State.writeStats
  try dsimp only
  with_reducible
    repeat'
      first
      | assumption | intro u | apply ite_still | apply ite_still1 | apply ite_still2 | apply foldl_still
      | apply foldl_still1 | apply foldl_still2 | apply State.store_still_of | apply State.setBlob_still_of
      | apply State.setCtx_still_of | simp only [State.still_mk] | split | dsimp only

theorem State.takeOutput_still_of {s₀ s : State} (hk : s.still = s₀.still) (f : CamFrame) (slot : Nat) :
    (State.takeOutput s f slot).2.still = s₀.still := by
  unfold State.takeOutput
  try dsimp only
  with_reducible
    repeat'
      first
      | assumption | intro u | apply ite_still | apply ite_still1 | apply ite_still2 | apply foldl_still
      | apply foldl_still1 | apply foldl_still2 | apply State.takeFree_still_of | apply State.setIngot_still_of
      | simp only [State.still_mk] | split | dsimp only

theorem State.abandonPipe_still_of {s₀ s : State} (hk : s.still = s₀.still) (k : Nat) (code : Code) (served : Bool) :
    (State.abandonPipe s k code served).still = s₀.still := by
  unfold State.abandonPipe
  try dsimp only
  with_reducible
    repeat'
      first
      | assumption | intro u | apply ite_still | apply ite_still1 | apply ite_still2 | apply foldl_still
      | apply foldl_still1 | apply foldl_still2 | apply State.abandon_still_of | apply State.setPipe_still_of
      | apply State.writeStats_still_of | apply State.dropCamera_still_of | simp only [State.still_mk] | split
      | dsimp only

theorem State.bindPipe_still_of {s₀ s : State} (hk : s.still = s₀.still) (k : Nat) (f : CamFrame) :
    (State.bindPipe s k f).still = s₀.still := by
  unfold State.bindPipe
  try dsimp only
  with_reducible
    repeat'
      first
      | assumption | intro u | apply ite_still | apply ite_still1 | apply ite_still2 | apply foldl_still
      | apply foldl_still1 | apply foldl_still2 | apply State.setCtx_still_of | apply State.countFrame_still_of
      | apply State.takeOutput_still_of | apply State.setPipe_still_of | apply State.abandonPipe_still_of
      | simp only [State.still_mk] | split | dsimp only

theorem State.finishOutput_still_of {s₀ s : State} (hk : s.still = s₀.still) (allowed : Bool) (o : Option Nat) (check : Nat) (content : Bytes) :
    (State.finishOutput s allowed o check content).still = s₀.still := by
  unfold State.finishOutput
  try dsimp only
  with_reducible
    repeat'
      first
      | assumption | intro u | apply ite_still | apply ite_still1 | apply ite_still2 | apply foldl_still
      | apply foldl_still1 | apply foldl_still2 | apply State.store_still_of | apply State.setIngot_still_of
      | apply State.publish_still_of | apply State.abandon_still_of | simp only [State.still_mk] | split
      | dsimp only

theorem State.finishPipe_still_of {s₀ s : State} (hk : s.still = s₀.still) (k : Nat) :
    (State.finishPipe s k).still = s₀.still := by
  unfold State.finishPipe
  try dsimp only
  with_reducible
    repeat'
      first
      | assumption | intro u | apply ite_still | apply ite_still1 | apply ite_still2 | apply foldl_still
      | apply foldl_still1 | apply foldl_still2 | apply State.setPipe_still_of | apply State.finishOutput_still_of
      | apply State.setReg_still_of | apply State.writeStats_still_of | simp only [State.still_mk] | split
      | dsimp only

theorem State.aeStep_still_of {s₀ s : State} (hk : s.still = s₀.still) (c : Nat) (e : ExpGen) (blk : Bytes) :
    (State.aeStep s c e blk).still = s₀.still := by
  unfold State.aeStep
  try dsimp only
  with_reducible
    repeat'
      first
      | assumption | intro u | apply ite_still | apply ite_still1 | apply ite_still2 | apply foldl_still
      | apply foldl_still1 | apply foldl_still2 | apply State.roundFree_still_of
      | apply State.issueExposure_still_of | simp only [State.still_mk] | split | dsimp only

theorem State.awbStep_still_of {s₀ s : State} (hk : s.still = s₀.still) (c : Nat) (blk : Bytes) :
    (State.awbStep s c blk).still = s₀.still := by
  unfold State.awbStep
  try dsimp only
  with_reducible
    repeat'
      first
      | assumption | intro u | apply ite_still | apply ite_still1 | apply ite_still2 | apply foldl_still
      | apply foldl_still1 | apply foldl_still2 | apply State.roundFree_still_of | apply State.setCtx_still_of
      | simp only [State.still_mk] | split | dsimp only

theorem temperOp_still_of {s₀ s : State} (hk : s.still = s₀.still)  (ss i : Nat) (v : Val) :
    (temperOp  s ss i v).1.still = s₀.still := by
  unfold temperOp
  try dsimp only
  with_reducible
    repeat'
      first
      | assumption | intro u | apply ite_still | apply ite_still1 | apply ite_still2 | apply foldl_still
      | apply foldl_still1 | apply foldl_still2 | apply State.setShadow_still_of | simp only [State.still_mk]
      | split | dsimp only

theorem profileOp_still_of {s₀ s : State} (hk : s.still = s₀.still)  (ss i : Nat) (v : Val) :
    (profileOp  s ss i v).1.still = s₀.still := by
  unfold profileOp
  try dsimp only
  with_reducible
    repeat'
      first
      | assumption | intro u | apply ite_still | apply ite_still1 | apply ite_still2 | apply foldl_still
      | apply foldl_still1 | apply foldl_still2 | apply State.setShadow_still_of | simp only [State.still_mk]
      | split | dsimp only

theorem hostTransferOp_still_of {s₀ s : State} (hk : s.still = s₀.still)  (ss i : Nat) (v : Val) :
    (hostTransferOp  s ss i v).1.still = s₀.still := by
  unfold hostTransferOp
  try dsimp only
  with_reducible
    repeat'
      first
      | assumption | intro u | apply ite_still | apply ite_still1 | apply ite_still2 | apply foldl_still
      | apply foldl_still1 | apply foldl_still2 | apply State.setReg_still_of | apply State.setCamPort_still_of
      | simp only [State.still_mk] | split | dsimp only

theorem State.endHost_still_of {s₀ s : State} (hk : s.still = s₀.still) (port : Nat) (result : Nat) :
    (State.endHost s port result).still = s₀.still := by
  unfold State.endHost
  try dsimp only
  with_reducible
    repeat'
      first
      | assumption | intro u | apply ite_still | apply ite_still1 | apply ite_still2 | apply foldl_still
      | apply foldl_still1 | apply foldl_still2 | apply State.setCamPort_still_of | apply State.setReg_still_of
      | simp only [State.still_mk] | split | dsimp only

theorem State.frameEnd_still_of {s₀ s : State} (hk : s.still = s₀.still) (c : Nat) :
    (State.frameEnd s c).still = s₀.still := by
  unfold State.frameEnd
  try dsimp only
  with_reducible
    repeat'
      first
      | assumption | intro u | apply ite_still | apply ite_still1 | apply ite_still2 | apply foldl_still
      | apply foldl_still1 | apply foldl_still2 | apply State.endCamera_still_of | apply State.setCtx_still_of
      | apply State.startExposure_still_of | simp only [State.still_mk] | split | dsimp only

theorem State.setKeyState_still_of {s₀ s : State} (hk : s.still = s₀.still) (k : Nat) (st : Nat) :
    (State.setKeyState s k st).still = s₀.still := by
  unfold State.setKeyState
  try dsimp only
  with_reducible
    repeat'
      first
      | assumption | intro u | apply ite_still | apply ite_still1 | apply ite_still2 | apply foldl_still
      | apply foldl_still1 | apply foldl_still2 | apply State.setReg_still_of | simp only [State.still_mk] | split
      | dsimp only

theorem State.noteSignal_still_of {s₀ s : State} (hk : s.still = s₀.still) (k : Nat) (base : Nat) (raw : Nat) :
    (State.noteSignal s k base raw).still = s₀.still := by
  unfold State.noteSignal
  try dsimp only
  with_reducible
    repeat'
      first
      | assumption | intro u | apply ite_still | apply ite_still1 | apply ite_still2 | apply foldl_still
      | apply foldl_still1 | apply foldl_still2 | apply State.setKey_still_of | apply State.setRegI_still_of
      | apply State.setReg_still_of | simp only [State.still_mk] | split | dsimp only

theorem State.queueKey_still_of {s₀ s : State} (hk : s.still = s₀.still) (k : Nat) (kind : Nat) (reason : Nat) :
    (State.queueKey s k kind reason).still = s₀.still := by
  unfold State.queueKey
  try dsimp only
  with_reducible
    repeat'
      first
      | assumption | intro u | apply ite_still | apply ite_still1 | apply ite_still2 | apply foldl_still
      | apply foldl_still1 | apply foldl_still2 | apply State.bump_still_of | apply State.recordLimited_still_of
      | apply State.send_still_of | simp only [State.still_mk] | split | dsimp only

theorem State.takeKeyRecords_still_of {s₀ s : State} (hk : s.still = s₀.still)  :
    (State.takeKeyRecords s).2.still = s₀.still := by
  unfold State.takeKeyRecords
  try dsimp only
  with_reducible
    repeat'
      first
      | assumption | intro u | apply ite_still | apply ite_still1 | apply ite_still2 | apply foldl_still
      | apply foldl_still1 | apply foldl_still2 | apply State.send_still_of | simp only [State.still_mk] | split
      | dsimp only

theorem State.clearCounts_still_of {s₀ s : State} (hk : s.still = s₀.still) (k : Nat) :
    (State.clearCounts s k).still = s₀.still := by
  unfold State.clearCounts
  try dsimp only
  with_reducible
    repeat'
      first
      | assumption | intro u | apply ite_still | apply ite_still1 | apply ite_still2 | apply foldl_still
      | apply foldl_still1 | apply foldl_still2 | apply State.setKey_still_of | simp only [State.still_mk] | split
      | dsimp only

theorem State.recalibrate_still_of {s₀ s : State} (hk : s.still = s₀.still) (k : Nat) :
    (State.recalibrate s k).still = s₀.still := by
  unfold State.recalibrate
  try dsimp only
  with_reducible
    repeat'
      first
      | assumption | intro u | apply ite_still | apply ite_still1 | apply ite_still2 | apply foldl_still
      | apply foldl_still1 | apply foldl_still2 | apply State.setReg_still_of | apply State.clearCounts_still_of
      | apply State.bump_still_of | simp only [State.still_mk] | split | dsimp only

theorem State.releaseKey_still_of {s₀ s : State} (hk : s.still = s₀.still) (k : Nat) (reason : Nat) (st : Nat) :
    (State.releaseKey s k reason st).still = s₀.still := by
  unfold State.releaseKey
  try dsimp only
  with_reducible
    repeat'
      first
      | assumption | intro u | apply ite_still | apply ite_still1 | apply ite_still2 | apply foldl_still
      | apply foldl_still1 | apply foldl_still2 | apply State.queueKey_still_of | apply State.clearCounts_still_of
      | apply State.setKeyState_still_of | simp only [State.still_mk] | split | dsimp only

theorem State.withhold_still_of {s₀ s : State} (hk : s.still = s₀.still) (k : Nat) :
    (State.withhold s k).still = s₀.still := by
  unfold State.withhold
  try dsimp only
  with_reducible
    repeat'
      first
      | assumption | intro u | apply ite_still | apply ite_still1 | apply ite_still2 | apply foldl_still
      | apply foldl_still1 | apply foldl_still2 | apply State.clearCounts_still_of
      | apply State.setKeyState_still_of | apply State.releaseKey_still_of | simp only [State.still_mk] | split
      | dsimp only

theorem State.groupScan_still_of {s₀ s : State} (hk : s.still = s₀.still) (g : Nat) :
    (State.groupScan s g).still = s₀.still := by
  unfold State.groupScan
  try dsimp only
  with_reducible
    repeat'
      first
      | assumption | intro u | apply ite_still | apply ite_still1 | apply ite_still2 | apply foldl_still
      | apply foldl_still1 | apply foldl_still2 | apply State.withhold_still_of | apply State.clearCounts_still_of
      | apply State.setKeyState_still_of | apply State.setReg_still_of | apply State.record_still_of
      | apply State.queueKey_still_of | apply State.bump_still_of | simp only [State.still_mk] | split | dsimp only

theorem State.releaseStep_still_of {s₀ s : State} (hk : s.still = s₀.still) (k : Nat) :
    (State.releaseStep s k).still = s₀.still := by
  unfold State.releaseStep
  try dsimp only
  with_reducible
    repeat'
      first
      | assumption | intro u | apply ite_still | apply ite_still1 | apply ite_still2 | apply foldl_still
      | apply foldl_still1 | apply foldl_still2 | apply State.setKey_still_of | apply State.releaseKey_still_of
      | apply State.recalibrate_still_of | apply State.setKeyState_still_of | simp only [State.still_mk] | split
      | dsimp only

theorem State.expiryStep_still_of {s₀ s : State} (hk : s.still = s₀.still) (k : Nat) :
    (State.expiryStep s k).still = s₀.still := by
  unfold State.expiryStep
  try dsimp only
  with_reducible
    repeat'
      first
      | assumption | intro u | apply ite_still | apply ite_still1 | apply ite_still2 | apply foldl_still
      | apply foldl_still1 | apply foldl_still2 | apply State.releaseKey_still_of | apply State.setReg_still_of
      | apply State.bump_still_of | apply State.record_still_of | simp only [State.still_mk] | split | dsimp only

theorem State.pressStep_still_of {s₀ s : State} (hk : s.still = s₀.still) (k : Nat) :
    (State.pressStep s k).still = s₀.still := by
  unfold State.pressStep
  try dsimp only
  with_reducible
    repeat'
      first
      | assumption | intro u | apply ite_still | apply ite_still1 | apply ite_still2 | apply foldl_still
      | apply foldl_still1 | apply foldl_still2 | apply State.setKey_still_of | apply State.clearCounts_still_of
      | apply State.setKeyState_still_of | apply State.queueKey_still_of | simp only [State.still_mk] | split
      | dsimp only

theorem State.baselineStep_still_of {s₀ s : State} (hk : s.still = s₀.still) (k : Nat) :
    (State.baselineStep s k).still = s₀.still := by
  unfold State.baselineStep
  try dsimp only
  with_reducible
    repeat'
      first
      | assumption | intro u | apply ite_still | apply ite_still1 | apply ite_still2 | apply foldl_still
      | apply foldl_still1 | apply foldl_still2 | apply State.recalibrate_still_of
      | apply State.setKeyState_still_of | apply State.setKey_still_of | apply State.setReg_still_of
      | simp only [State.still_mk] | split | dsimp only

theorem State.faultStep_still_of {s₀ s : State} (hk : s.still = s₀.still) (k : Nat) :
    (State.faultStep s k).still = s₀.still := by
  unfold State.faultStep
  try dsimp only
  with_reducible
    repeat'
      first
      | assumption | intro u | apply ite_still | apply ite_still1 | apply ite_still2 | apply foldl_still
      | apply foldl_still1 | apply foldl_still2 | apply State.setKey_still_of | apply State.setReg_still_of
      | apply State.clearCounts_still_of | apply State.setKeyState_still_of | apply State.record_still_of
      | simp only [State.still_mk] | split | dsimp only

theorem State.startStep_still_of {s₀ s : State} (hk : s.still = s₀.still) (k : Nat) :
    (State.startStep s k).still = s₀.still := by
  unfold State.startStep
  try dsimp only
  with_reducible
    repeat'
      first
      | assumption | intro u | apply ite_still | apply ite_still1 | apply ite_still2 | apply foldl_still
      | apply foldl_still1 | apply foldl_still2 | apply State.setReg_still_of | apply State.noteSignal_still_of
      | apply State.setKeyState_still_of | apply State.record_still_of | apply State.queueKey_still_of
      | apply State.setKey_still_of | simp only [State.still_mk] | split | dsimp only

theorem State.readKey_still_of {s₀ s : State} (hk : s.still = s₀.still) (k : Nat) (raw : Nat) :
    (State.readKey s k raw).still = s₀.still := by
  unfold State.readKey
  try dsimp only
  with_reducible
    repeat'
      first
      | assumption | intro u | apply ite_still | apply ite_still1 | apply ite_still2 | apply foldl_still
      | apply foldl_still1 | apply foldl_still2 | apply State.queueKey_still_of | apply State.setKey_still_of
      | apply State.setKeyState_still_of | apply State.setReg_still_of | apply State.startStep_still_of
      | apply State.faultStep_still_of | apply State.noteSignal_still_of | simp only [State.still_mk] | split
      | dsimp only

theorem State.scanKey_still_of {s₀ s : State} (hk : s.still = s₀.still) (k : Nat) :
    (State.scanKey s k).still = s₀.still := by
  unfold State.scanKey
  try dsimp only
  with_reducible
    repeat'
      first
      | assumption | intro u | apply ite_still | apply ite_still1 | apply ite_still2 | apply foldl_still
      | apply foldl_still1 | apply foldl_still2 | apply State.releaseStep_still_of
      | apply State.expiryStep_still_of | apply State.pressStep_still_of | apply State.baselineStep_still_of
      | simp only [State.still_mk] | split | dsimp only

theorem State.noteActivity_still_of {s₀ s : State} (hk : s.still = s₀.still)  :
    (State.noteActivity s).still = s₀.still := by
  unfold State.noteActivity
  try dsimp only
  with_reducible
    repeat'
      first
      | assumption | intro u | apply ite_still | apply ite_still1 | apply ite_still2 | apply foldl_still
      | apply foldl_still1 | apply foldl_still2 | simp only [State.still_mk] | split | dsimp only

theorem State.noteGating_still_of {s₀ s : State} (hk : s.still = s₀.still)  :
    (State.noteGating s).still = s₀.still := by
  unfold State.noteGating
  try dsimp only
  with_reducible
    repeat'
      first
      | assumption | intro u | apply ite_still | apply ite_still1 | apply ite_still2 | apply foldl_still
      | apply foldl_still1 | apply foldl_still2 | apply State.record_still_of | simp only [State.still_mk] | split
      | dsimp only

theorem State.keyBoundary_still_of {s₀ s : State} (hk : s.still = s₀.still)  :
    (State.keyBoundary s).still = s₀.still := by
  unfold State.keyBoundary
  try dsimp only
  with_reducible
    repeat'
      first
      | assumption | intro u | apply ite_still | apply ite_still1 | apply ite_still2 | apply foldl_still
      | apply foldl_still1 | apply foldl_still2 | apply State.applyDue_still_of | apply State.noteGating_still_of
      | simp only [State.still_mk] | split | dsimp only

theorem State.scheduleGate_still_of {s₀ s : State} (hk : s.still = s₀.still) (t : Nat) :
    (State.scheduleGate s t).still = s₀.still := by
  unfold State.scheduleGate
  try dsimp only
  with_reducible
    repeat'
      first
      | assumption | intro u | apply ite_still | apply ite_still1 | apply ite_still2 | apply foldl_still
      | apply foldl_still1 | apply foldl_still2 | simp only [State.still_mk] | split | dsimp only

theorem State.gate_still_of {s₀ s : State} (hk : s.still = s₀.still) (opened : Nat) (raw : List Nat) :
    (State.gate s opened raw).still = s₀.still := by
  unfold State.gate
  try dsimp only
  with_reducible
    repeat'
      first
      | assumption | intro u | apply ite_still | apply ite_still1 | apply ite_still2 | apply foldl_still
      | apply foldl_still1 | apply foldl_still2 | apply State.keyBoundary_still_of
      | apply State.noteActivity_still_of | apply State.readKey_still_of | apply State.groupScan_still_of
      | apply State.scanKey_still_of | apply State.scheduleGate_still_of | apply State.setReady_still_of
      | simp only [State.still_mk] | split | dsimp only

theorem State.startSave_still_of {s₀ s : State} (hk : s.still = s₀.still)  :
    (State.startSave s).still = s₀.still := by
  unfold State.startSave
  try dsimp only
  with_reducible
    repeat'
      first
      | assumption | intro u | apply ite_still | apply ite_still1 | apply ite_still2 | apply foldl_still
      | apply foldl_still1 | apply foldl_still2 | simp only [State.still_mk] | split | dsimp only

theorem saveBaselinesOp_still_of {s₀ s : State} (hk : s.still = s₀.still)  (ss i : Nat) (v : Val) :
    (saveBaselinesOp  s ss i v).1.still = s₀.still := by
  unfold saveBaselinesOp
  try dsimp only
  with_reducible
    repeat'
      first
      | assumption | intro u | apply ite_still | apply ite_still1 | apply ite_still2 | apply foldl_still
      | apply foldl_still1 | apply foldl_still2 | apply State.startSave_still_of | simp only [State.still_mk]
      | split | dsimp only

theorem State.leaveScan_still_of {s₀ s : State} (hk : s.still = s₀.still) (u : Nat) (st : Nat) :
    (State.leaveScan s u st).still = s₀.still := by
  unfold State.leaveScan
  try dsimp only
  with_reducible
    repeat'
      first
      | assumption | intro u | apply ite_still | apply ite_still1 | apply ite_still2 | apply foldl_still
      | apply foldl_still1 | apply foldl_still2 | apply State.setScan_still_of | apply State.setReg_still_of
      | apply State.dropRef_still_of | simp only [State.still_mk] | split | dsimp only

theorem scanFieldOp_still_of {s₀ s : State} (hk : s.still = s₀.still) (key : Nat) (ss i : Nat) (v : Val) :
    (scanFieldOp key s ss i v).1.still = s₀.still := by
  unfold scanFieldOp
  try dsimp only
  with_reducible
    repeat'
      first
      | assumption | intro u | apply ite_still | apply ite_still1 | apply ite_still2 | apply foldl_still
      | apply foldl_still1 | apply foldl_still2 | apply writePlain_still_of | simp only [State.still_mk] | split
      | dsimp only

theorem State.foldBurst_still_of {s₀ s : State} (hk : s.still = s₀.still) (u : Nat) (beats : Bytes) :
    (State.foldBurst s u beats).still = s₀.still := by
  unfold State.foldBurst
  try dsimp only
  with_reducible
    repeat'
      first
      | assumption | intro u | apply ite_still | apply ite_still1 | apply ite_still2 | apply foldl_still
      | apply foldl_still1 | apply foldl_still2 | apply State.setScan_still_of | apply State.setReg_still_of
      | apply State.leaveScan_still_of | apply State.send_still_of | apply State.record_still_of
      | simp only [State.still_mk] | split | dsimp only

theorem State.failScan_still_of {s₀ s : State} (hk : s.still = s₀.still) (u : Nat) (c : Code) :
    (State.failScan s u c).still = s₀.still := by
  unfold State.failScan
  try dsimp only
  with_reducible
    repeat'
      first
      | assumption | intro u | apply ite_still | apply ite_still1 | apply ite_still2 | apply foldl_still
      | apply foldl_still1 | apply foldl_still2 | apply State.leaveScan_still_of | apply State.setBlob_still_of
      | apply State.send_still_of | apply State.record_still_of | simp only [State.still_mk] | split | dsimp only

theorem State.noteCorrected_still_of {s₀ s : State} (hk : s.still = s₀.still) (a : Nat) :
    (State.noteCorrected s a).still = s₀.still := by
  unfold State.noteCorrected
  try dsimp only
  with_reducible
    repeat'
      first
      | assumption | intro u | apply ite_still | apply ite_still1 | apply ite_still2 | apply foldl_still
      | apply foldl_still1 | apply foldl_still2 | apply State.correctedError_still_of | apply State.bump_still_of
      | simp only [State.still_mk] | split | dsimp only

theorem State.withWaiting_still_of {s₀ s : State} (hk : s.still = s₀.still)  :
    (State.withWaiting s).still = s₀.still := by
  unfold State.withWaiting
  try dsimp only
  with_reducible
    repeat'
      first
      | assumption | intro u | apply ite_still | apply ite_still1 | apply ite_still2 | apply foldl_still
      | apply foldl_still1 | apply foldl_still2 | apply State.applyFields_still_of | simp only [State.still_mk]
      | split | dsimp only

theorem State.settleDomain_still_of {s₀ s : State} (hk : s.still = s₀.still) (w : State) (d : Nat) :
    (State.settleDomain s w d).still = s₀.still := by
  unfold State.settleDomain
  try dsimp only
  with_reducible
    repeat'
      first
      | assumption | intro u | apply ite_still | apply ite_still1 | apply ite_still2 | apply foldl_still
      | apply foldl_still1 | apply foldl_still2 | apply State.setReg_still_of | apply State.bump_still_of
      | simp only [State.still_mk] | split | dsimp only

theorem State.settlePower_still_of {s₀ s : State} (hk : s.still = s₀.still)  :
    (State.settlePower s).still = s₀.still := by
  unfold State.settlePower
  try dsimp only
  with_reducible
    repeat'
      first
      | assumption | intro u | apply ite_still | apply ite_still1 | apply ite_still2 | apply foldl_still
      | apply foldl_still1 | apply foldl_still2 | apply State.settleDomain_still_of
      | apply State.withWaiting_still_of | simp only [State.still_mk] | split | dsimp only

theorem State.tryStartPort_still_of {s₀ s : State} (hk : s.still = s₀.still) (p : Nat) :
    (State.tryStartPort s p).still = s₀.still := by
  unfold State.tryStartPort
  try dsimp only
  with_reducible
    repeat'
      first
      | assumption | intro u | apply ite_still | apply ite_still1 | apply ite_still2 | apply foldl_still
      | apply foldl_still1 | apply foldl_still2 | apply State.startPort_still_of | simp only [State.still_mk]
      | split | dsimp only

theorem State.clearDerived_still_of {s₀ s : State} (hk : s.still = s₀.still)  :
    (State.clearDerived s).still = s₀.still := by
  unfold State.clearDerived
  try dsimp only
  with_reducible
    repeat'
      first
      | assumption | intro u | apply ite_still | apply ite_still1 | apply ite_still2 | apply foldl_still
      | apply foldl_still1 | apply foldl_still2 | simp only [State.still_mk] | split | dsimp only

theorem State.installEngines_still_of {s₀ s : State} (hk : s.still = s₀.still) (as : List (Nat × Nat × Nat)) :
    (State.installEngines s as).still = s₀.still := by
  unfold State.installEngines
  try dsimp only
  with_reducible
    repeat'
      first
      | assumption | intro u | apply ite_still | apply ite_still1 | apply ite_still2 | apply foldl_still
      | apply foldl_still1 | apply foldl_still2 | apply State.setReg_still_of | simp only [State.still_mk] | split
      | dsimp only

theorem State.configPlan_still_of {s₀ s : State} (hk : s.still = s₀.still) (p : Plan) :
    (State.configPlan s p).still = s₀.still := by
  unfold State.configPlan
  try dsimp only
  with_reducible
    repeat'
      first
      | assumption | intro u | apply ite_still | apply ite_still1 | apply ite_still2 | apply foldl_still
      | apply foldl_still1 | apply foldl_still2 | apply State.clearDerived_still_of
      | apply State.applyFields_still_of | apply State.installEngines_still_of | simp only [State.still_mk] | split
      | dsimp only

theorem State.abandonWriteback_still_of {s₀ s : State} (hk : s.still = s₀.still) (e : Nat) :
    (State.abandonWriteback s e).still = s₀.still := by
  unfold State.abandonWriteback
  try dsimp only
  with_reducible
    repeat'
      first
      | assumption | intro u | apply ite_still | apply ite_still1 | apply ite_still2 | apply foldl_still
      | apply foldl_still1 | apply foldl_still2 | apply State.abandon_still_of | apply State.setEngine_still_of
      | apply State.bump_still_of | apply State.recordEvery_still_of | simp only [State.still_mk] | split
      | dsimp only

theorem State.abandonRx_still_of {s₀ s : State} (hk : s.still = s₀.still) (p : Nat) (i : Nat) :
    (State.abandonRx s p i).still = s₀.still := by
  unfold State.abandonRx
  try dsimp only
  with_reducible
    repeat'
      first
      | assumption | intro u | apply ite_still | apply ite_still1 | apply ite_still2 | apply foldl_still
      | apply foldl_still1 | apply foldl_still2 | apply State.abandon_still_of | apply State.setRx_still_of
      | apply State.dropFrame_still_of | apply State.setPort_still_of | simp only [State.still_mk] | split
      | dsimp only

theorem State.abandonFill_still_of {s₀ s : State} (hk : s.still = s₀.still) (i : Nat) :
    (State.abandonFill s i).still = s₀.still := by
  unfold State.abandonFill
  try dsimp only
  with_reducible
    repeat'
      first
      | assumption | intro u | apply ite_still | apply ite_still1 | apply ite_still2 | apply foldl_still
      | apply foldl_still1 | apply foldl_still2 | apply State.abandonRx_still_of | apply State.abandonPipe_still_of
      | apply State.abandonWriteback_still_of | apply State.abandon_still_of | simp only [State.still_mk] | split
      | dsimp only

theorem State.abandonOn_still_of {s₀ s : State} (hk : s.still = s₀.still) (c : Nat) :
    (State.abandonOn s c).still = s₀.still := by
  unfold State.abandonOn
  try dsimp only
  with_reducible
    repeat'
      first
      | assumption | intro u | apply ite_still | apply ite_still1 | apply ite_still2 | apply foldl_still
      | apply foldl_still1 | apply foldl_still2 | apply State.abandonFill_still_of | simp only [State.still_mk]
      | split | dsimp only

theorem State.installSets_still_of {s₀ s : State} (hk : s.still = s₀.still) (planned : List (Nat × Source)) :
    (State.installSets s planned).still = s₀.still := by
  unfold State.installSets
  try dsimp only
  with_reducible
    repeat'
      first
      | assumption | intro u | apply ite_still | apply ite_still1 | apply ite_still2 | apply foldl_still
      | apply foldl_still1 | apply foldl_still2 | apply State.retireSet_still_of | apply State.setSlot_still_of
      | apply State.newSet_still_of | simp only [State.still_mk] | split | dsimp only

theorem State.renewGroups_still_of {s₀ s : State} (hk : s.still = s₀.still) (old : State) :
    (State.renewGroups s old).still = s₀.still := by
  unfold State.renewGroups
  try dsimp only
  with_reducible
    repeat'
      first
      | assumption | intro u | apply ite_still | apply ite_still1 | apply ite_still2 | apply foldl_still
      | apply foldl_still1 | apply foldl_still2 | simp only [State.still_mk] | split | dsimp only

theorem State.noteBanks_still_of {s₀ s : State} (hk : s.still = s₀.still)  :
    (State.noteBanks s).still = s₀.still := by
  unfold State.noteBanks
  try dsimp only
  with_reducible
    repeat'
      first
      | assumption | intro u | apply ite_still | apply ite_still1 | apply ite_still2 | apply foldl_still
      | apply foldl_still1 | apply foldl_still2 | apply State.setReg_still_of | simp only [State.still_mk] | split
      | dsimp only

theorem State.noteWritebacks_still_of {s₀ s : State} (hk : s.still = s₀.still)  :
    (State.noteWritebacks s).still = s₀.still := by
  unfold State.noteWritebacks
  try dsimp only
  with_reducible
    repeat'
      first
      | assumption | intro u | apply ite_still | apply ite_still1 | apply ite_still2 | apply foldl_still
      | apply foldl_still1 | apply foldl_still2 | apply State.record_still_of | simp only [State.still_mk] | split
      | dsimp only

theorem State.installPlan_still_of {s₀ s0 : State} (hk : s0.still = s₀.still) (slot : Nat) (p : Plan) (auto : Bool) :
    (State.installPlan s0 slot p auto).still = s₀.still := by
  unfold State.installPlan
  try dsimp only
  with_reducible
    repeat'
      first
      | assumption | intro u | apply ite_still | apply ite_still1 | apply ite_still2 | apply foldl_still
      | apply foldl_still1 | apply foldl_still2 | apply State.moveHolds_still_of | apply State.abandonOn_still_of
      | apply State.endRecovery_still_of | apply State.installSets_still_of | apply State.configPlan_still_of
      | apply State.setReg_still_of | apply State.setBlob_still_of | apply State.noteBanks_still_of
      | simp only [State.still_mk] | split | dsimp only

theorem State.breakFrames_still_of {s₀ s : State} (hk : s.still = s₀.still) (p : Nat) :
    (State.breakFrames s p).still = s₀.still := by
  unfold State.breakFrames
  try dsimp only
  with_reducible
    repeat'
      first
      | assumption | intro u | apply ite_still | apply ite_still1 | apply ite_still2 | apply foldl_still
      | apply foldl_still1 | apply foldl_still2 | apply State.setOutput_still_of | simp only [State.still_mk]
      | split | dsimp only

theorem State.trainDp_still_of {s₀ s : State} (hk : s.still = s₀.still) (p : Nat) (k : Sink) :
    (State.trainDp s p k).still = s₀.still := by
  unfold State.trainDp
  try dsimp only
  with_reducible
    repeat'
      first
      | assumption | intro u | apply ite_still | apply ite_still1 | apply ite_still2 | apply foldl_still
      | apply foldl_still1 | apply foldl_still2 | apply State.setReg_still_of | apply State.setBlob_still_of
      | apply State.breakFrames_still_of | simp only [State.still_mk] | split | dsimp only

theorem State.startEgress_still_of {s₀ s : State} (hk : s.still = s₀.still) (o : Nat) :
    (State.startEgress s o).still = s₀.still := by
  unfold State.startEgress
  try dsimp only
  with_reducible
    repeat'
      first
      | assumption | intro u | apply ite_still | apply ite_still1 | apply ite_still2 | apply foldl_still
      | apply foldl_still1 | apply foldl_still2 | apply State.setReg_still_of | apply State.trainDp_still_of
      | simp only [State.still_mk] | split | dsimp only

theorem State.stopEgress_still_of {s₀ s : State} (hk : s.still = s₀.still) (o : Nat) :
    (State.stopEgress s o).still = s₀.still := by
  unfold State.stopEgress
  try dsimp only
  with_reducible
    repeat'
      first
      | assumption | intro u | apply ite_still | apply ite_still1 | apply ite_still2 | apply foldl_still
      | apply foldl_still1 | apply foldl_still2 | apply State.setReg_still_of | simp only [State.still_mk] | split
      | dsimp only

theorem State.enableOutput_still_of {s₀ s : State} (hk : s.still = s₀.still) (wf : Nat) (o : Nat) :
    (State.enableOutput s wf o).still = s₀.still := by
  unfold State.enableOutput
  try dsimp only
  with_reducible
    repeat'
      first
      | assumption | intro u | apply ite_still | apply ite_still1 | apply ite_still2 | apply foldl_still
      | apply foldl_still1 | apply foldl_still2 | apply State.setOutput_still_of | apply State.startEgress_still_of
      | simp only [State.still_mk] | split | dsimp only

theorem State.disableOutput_still_of {s₀ s : State} (hk : s.still = s₀.still) (o : Nat) :
    (State.disableOutput s o).still = s₀.still := by
  unfold State.disableOutput
  try dsimp only
  with_reducible
    repeat'
      first
      | assumption | intro u | apply ite_still | apply ite_still1 | apply ite_still2 | apply foldl_still
      | apply foldl_still1 | apply foldl_still2 | apply State.setOutput_still_of | apply State.stopEgress_still_of
      | simp only [State.still_mk] | split | dsimp only

theorem State.stopPort_still_of {s₀ s : State} (hk : s.still = s₀.still) (p : Nat) :
    (State.stopPort s p).still = s₀.still := by
  unfold State.stopPort
  try dsimp only
  with_reducible
    repeat'
      first
      | assumption | intro u | apply ite_still | apply ite_still1 | apply ite_still2 | apply foldl_still
      | apply foldl_still1 | apply foldl_still2 | apply State.abandon_still_of | apply State.setReg_still_of
      | apply State.clearSpare_still_of | apply State.setLane_still_of | apply State.clearOutbox_still_of
      | apply State.setPort_still_of | apply State.followTimePort_still_of | simp only [State.still_mk] | split
      | dsimp only

theorem State.applyEnables_still_of {s₀ s : State} (hk : s.still = s₀.still) (old : State) (wf : Nat) :
    (State.applyEnables s old wf).still = s₀.still := by
  unfold State.applyEnables
  try dsimp only
  with_reducible
    repeat'
      first
      | assumption | intro u | apply ite_still | apply ite_still1 | apply ite_still2 | apply foldl_still
      | apply foldl_still1 | apply foldl_still2 | apply State.disableOutput_still_of
      | apply State.disableCamPort_still_of | apply State.disableContext_still_of | apply State.stopPort_still_of
      | apply State.enableCamPort_still_of | apply State.enableContext_still_of | apply State.tryStartPort_still_of
      | apply State.enableOutput_still_of | simp only [State.still_mk] | split | dsimp only

theorem State.configWide_still_of {s₀ s : State} (hk : s.still = s₀.still) (p : Pending) :
    (State.configWide s p).still = s₀.still := by
  unfold State.configWide
  try dsimp only
  with_reducible
    repeat'
      first
      | assumption | intro u | apply ite_still | apply ite_still1 | apply ite_still2 | apply foldl_still
      | apply foldl_still1 | apply foldl_still2 | apply State.configPlan_still_of
      | apply State.applyFields_still_of | simp only [State.still_mk] | split | dsimp only

theorem State.coverOutputs_still_of {s₀ s : State} (hk : s.still = s₀.still)  :
    (State.coverOutputs s).still = s₀.still := by
  unfold State.coverOutputs
  try dsimp only
  with_reducible
    repeat'
      first
      | assumption | intro u | apply ite_still | apply ite_still1 | apply ite_still2 | apply foldl_still
      | apply foldl_still1 | apply foldl_still2 | simp only [State.still_mk] | split | dsimp only

theorem State.installWide_still_of {s₀ s : State} (hk : s.still = s₀.still) (p : Pending) (wf : Nat) :
    (State.installWide s p wf).still = s₀.still := by
  unfold State.installWide
  try dsimp only
  with_reducible
    repeat'
      first
      | assumption | intro u | apply ite_still | apply ite_still1 | apply ite_still2 | apply foldl_still
      | apply foldl_still1 | apply foldl_still2 | apply State.installPlan_still_of
      | apply State.applyFields_still_of | apply State.advanceEpoch_still_of | apply State.applyEnables_still_of
      | apply State.renewGroups_still_of | apply State.noteWritebacks_still_of | apply State.noteGating_still_of
      | apply State.coverOutputs_still_of | apply State.noteApplied_still_of | apply State.settlePower_still_of
      | simp only [State.still_mk] | split | dsimp only

theorem State.installPart_still_of {s₀ s : State} (hk : s.still = s₀.still) (p : Pending) (o : Nat) (wf : Nat) :
    (State.installPart s p o wf).still = s₀.still := by
  unfold State.installPart
  try dsimp only
  with_reducible
    repeat'
      first
      | assumption | intro u | apply ite_still | apply ite_still1 | apply ite_still2 | apply foldl_still
      | apply foldl_still1 | apply foldl_still2 | apply State.applyFields_still_of
      | apply State.renewGroups_still_of | apply State.noteApplied_still_of | simp only [State.still_mk] | split
      | dsimp only

theorem State.applyAt_still_of {s₀ s : State} (hk : s.still = s₀.still) (o : Nat) (of : Nat) :
    (State.applyAt s o of).still = s₀.still := by
  unfold State.applyAt
  try dsimp only
  with_reducible
    repeat'
      first
      | assumption | intro u | apply ite_still | apply ite_still1 | apply ite_still2 | apply foldl_still
      | apply foldl_still1 | apply foldl_still2 | apply State.installWide_still_of
      | apply State.installPart_still_of | simp only [State.still_mk] | split | dsimp only

theorem State.configAt_still_of {s₀ s : State} (hk : s.still = s₀.still) (o : Nat) (of : Nat) :
    (State.configAt s o of).still = s₀.still := by
  unfold State.configAt
  try dsimp only
  with_reducible
    repeat'
      first
      | assumption | intro u | apply ite_still | apply ite_still1 | apply ite_still2 | apply foldl_still
      | apply foldl_still1 | apply foldl_still2 | apply State.installPlan_still_of
      | apply State.applyFields_still_of | simp only [State.still_mk] | split | dsimp only

theorem State.overlay_still_of {s₀ t : State} (hk : t.still = s₀.still) (p : Pending) :
    (State.overlay t p).still = s₀.still := by
  unfold State.overlay
  try dsimp only
  with_reducible
    repeat'
      first
      | assumption | intro u | apply ite_still | apply ite_still1 | apply ite_still2 | apply foldl_still
      | apply foldl_still1 | apply foldl_still2 | apply State.configPlan_still_of
      | apply State.applyFields_still_of | simp only [State.still_mk] | split | dsimp only

theorem State.resulting_still_of {s₀ s : State} (hk : s.still = s₀.still)  :
    (State.resulting s).still = s₀.still := by
  unfold State.resulting
  try dsimp only
  with_reducible
    repeat'
      first
      | assumption | intro u | apply ite_still | apply ite_still1 | apply ite_still2 | apply foldl_still
      | apply foldl_still1 | apply foldl_still2 | apply State.overlay_still_of | simp only [State.still_mk] | split
      | dsimp only

theorem State.applyNow_still_of {s₀ s : State} (hk : s.still = s₀.still) (fs : List Staged) :
    (State.applyNow s fs).still = s₀.still := by
  unfold State.applyNow
  try dsimp only
  with_reducible
    repeat'
      first
      | assumption | intro u | apply ite_still | apply ite_still1 | apply ite_still2 | apply foldl_still
      | apply foldl_still1 | apply foldl_still2 | apply State.applyFields_still_of
      | apply State.advanceEpoch_still_of | simp only [State.still_mk] | split | dsimp only

theorem State.freeze_still_of {s₀ s : State} (hk : s.still = s₀.still) (p : Pending) :
    (State.freeze s p).still = s₀.still := by
  unfold State.freeze
  try dsimp only
  with_reducible
    repeat'
      first
      | assumption | intro u | apply ite_still | apply ite_still1 | apply ite_still2 | apply foldl_still
      | apply foldl_still1 | apply foldl_still2 | simp only [State.still_mk] | split | dsimp only

theorem State.unfreeze_still_of {s₀ s : State} (hk : s.still = s₀.still) (p : Pending) :
    (State.unfreeze s p).still = s₀.still := by
  unfold State.unfreeze
  try dsimp only
  with_reducible
    repeat'
      first
      | assumption | intro u | apply ite_still | apply ite_still1 | apply ite_still2 | apply foldl_still
      | apply foldl_still1 | apply foldl_still2 | simp only [State.still_mk] | split | dsimp only

theorem State.refuseTicket_still_of {s₀ s : State} (hk : s.still = s₀.still) (event : Nat) (id : Nat) (c : Code) (pair : Nat) (member : Nat) :
    (State.refuseTicket s event id c pair member).still = s₀.still := by
  unfold State.refuseTicket
  try dsimp only
  with_reducible
    repeat'
      first
      | assumption | intro u | apply ite_still | apply ite_still1 | apply ite_still2 | apply foldl_still
      | apply foldl_still1 | apply foldl_still2 | apply State.setTicket_still_of | apply State.record_still_of
      | simp only [State.still_mk] | split | dsimp only

theorem State.dropCommit_still_of {s₀ s : State} (hk : s.still = s₀.still) (id : Nat) :
    (State.dropCommit s id).still = s₀.still := by
  unfold State.dropCommit
  try dsimp only
  with_reducible
    repeat'
      first
      | assumption | intro u | apply ite_still | apply ite_still1 | apply ite_still2 | apply foldl_still
      | apply foldl_still1 | apply foldl_still2 | simp only [State.still_mk] | split | dsimp only

theorem State.setCommit_still_of {s₀ s : State} (hk : s.still = s₀.still) (p : Pending) :
    (State.setCommit s p).still = s₀.still := by
  unfold State.setCommit
  try dsimp only
  with_reducible
    repeat'
      first
      | assumption | intro u | apply ite_still | apply ite_still1 | apply ite_still2 | apply foldl_still
      | apply foldl_still1 | apply foldl_still2 | simp only [State.still_mk] | split | dsimp only

theorem State.requestCommit_still_of {s₀ s : State} (hk : s.still = s₀.still) (slot : Nat) (target : Nat) (wall : Bool) :
    (State.requestCommit s slot target wall).1.still = s₀.still := by
  unfold State.requestCommit
  try dsimp only
  with_reducible
    repeat'
      first
      | assumption | intro u | apply ite_still | apply ite_still1 | apply ite_still2 | apply foldl_still
      | apply foldl_still1 | apply foldl_still2 | apply State.addTicket_still_of
      | apply State.refuseTicket_still_of | simp only [State.still_mk] | split | dsimp only

theorem commitOp_still_of {s₀ s : State} (hk : s.still = s₀.still)  (ss i : Nat) (v : Val) :
    (commitOp  s ss i v).1.still = s₀.still := by
  unfold commitOp
  try dsimp only
  with_reducible
    repeat'
      first
      | assumption | intro u | apply ite_still | apply ite_still1 | apply ite_still2 | apply foldl_still
      | apply foldl_still1 | apply foldl_still2 | apply State.requestCommit_still_of
      | apply State.setSession_still_of | simp only [State.still_mk] | split | dsimp only

theorem discardOp_still_of {s₀ s : State} (hk : s.still = s₀.still)  (ss i : Nat) (v : Val) :
    (discardOp  s ss i v).1.still = s₀.still := by
  unfold discardOp
  try dsimp only
  with_reducible
    repeat'
      first
      | assumption | intro u | apply ite_still | apply ite_still1 | apply ite_still2 | apply foldl_still
      | apply foldl_still1 | apply foldl_still2 | simp only [State.still_mk] | split | dsimp only

theorem State.withArmed_still_of {s₀ s : State} (hk : s.still = s₀.still) (p : Pending) (atOnce' : List Staged) :
    (State.withArmed s p atOnce').still = s₀.still := by
  unfold State.withArmed
  try dsimp only
  with_reducible
    repeat'
      first
      | assumption | intro u | apply ite_still | apply ite_still1 | apply ite_still2 | apply foldl_still
      | apply foldl_still1 | apply foldl_still2 | apply State.withWaiting_still_of
      | apply State.applyFields_still_of | simp only [State.still_mk] | split | dsimp only

theorem State.askDomains_still_of {s₀ s : State} (hk : s.still = s₀.still) (p : Pending) (atOnce' : List Staged) :
    (State.askDomains s p atOnce').still = s₀.still := by
  unfold State.askDomains
  try dsimp only
  with_reducible
    repeat'
      first
      | assumption | intro u | apply ite_still | apply ite_still1 | apply ite_still2 | apply foldl_still
      | apply foldl_still1 | apply foldl_still2 | apply State.withArmed_still_of
      | apply State.settleDomain_still_of | simp only [State.still_mk] | split | dsimp only

theorem State.takeCommit_still_of {s₀ s : State} (hk : s.still = s₀.still) (p : Pending) (atOnce' : List Staged) :
    (State.takeCommit s p atOnce').still = s₀.still := by
  unfold State.takeCommit
  try dsimp only
  with_reducible
    repeat'
      first
      | assumption | intro u | apply ite_still | apply ite_still1 | apply ite_still2 | apply foldl_still
      | apply foldl_still1 | apply foldl_still2 | apply State.freeze_still_of | apply State.applyNow_still_of
      | apply State.setTicket_still_of | apply State.noteApplied_still_of | apply State.settleCommits_still_of
      | apply State.settlePower_still_of | simp only [State.still_mk] | split | dsimp only

theorem State.aheadOf_still_of {s₀ s : State} (hk : s.still = s₀.still) (p : Pending) :
    (State.aheadOf s p).still = s₀.still := by
  unfold State.aheadOf
  try dsimp only
  with_reducible
    repeat'
      first
      | assumption | intro u | apply ite_still | apply ite_still1 | apply ite_still2 | apply foldl_still
      | apply foldl_still1 | apply foldl_still2 | simp only [State.still_mk] | split | dsimp only

theorem State.failLockIn_still_of {s₀ s : State} (hk : s.still = s₀.still) (p : Pending) (c : Code) (pair : Nat) :
    (State.failLockIn s p c pair).still = s₀.still := by
  unfold State.failLockIn
  try dsimp only
  with_reducible
    repeat'
      first
      | assumption | intro u | apply ite_still | apply ite_still1 | apply ite_still2 | apply foldl_still
      | apply foldl_still1 | apply foldl_still2 | apply State.dropCommit_still_of | apply State.unfreeze_still_of
      | apply State.refuseTicket_still_of | simp only [State.still_mk] | split | dsimp only

theorem State.lockIn_still_of {s₀ s : State} (hk : s.still = s₀.still) (p : Pending) :
    (State.lockIn s p).still = s₀.still := by
  unfold State.lockIn
  try dsimp only
  with_reducible
    repeat'
      first
      | assumption | intro u | apply ite_still | apply ite_still1 | apply ite_still2 | apply foldl_still
      | apply foldl_still1 | apply foldl_still2 | apply State.failLockIn_still_of | apply State.setCommit_still_of
      | simp only [State.still_mk] | split | dsimp only

theorem State.takeAuto_still_of {s₀ s : State} (hk : s.still = s₀.still) (p : Plan) :
    (State.takeAuto s p).still = s₀.still := by
  unfold State.takeAuto
  try dsimp only
  with_reducible
    repeat'
      first
      | assumption | intro u | apply ite_still | apply ite_still1 | apply ite_still2 | apply foldl_still
      | apply foldl_still1 | apply foldl_still2 | apply State.lockIn_still_of | apply State.settlePower_still_of
      | simp only [State.still_mk] | split | dsimp only

theorem State.lockInFor_still_of {s₀ s : State} (hk : s.still = s₀.still) (o : Nat) (of : Nat) :
    (State.lockInFor s o of).still = s₀.still := by
  unfold State.lockInFor
  try dsimp only
  with_reducible
    repeat'
      first
      | assumption | intro u | apply ite_still | apply ite_still1 | apply ite_still2 | apply foldl_still
      | apply foldl_still1 | apply foldl_still2 | apply State.lockIn_still_of | simp only [State.still_mk] | split
      | dsimp only

theorem State.installIdle_still_of {s₀ s : State} (hk : s.still = s₀.still)  :
    (State.installIdle s).still = s₀.still := by
  unfold State.installIdle
  try dsimp only
  with_reducible
    repeat'
      first
      | assumption | intro u | apply ite_still | apply ite_still1 | apply ite_still2 | apply foldl_still
      | apply foldl_still1 | apply foldl_still2 | apply State.installWide_still_of | simp only [State.still_mk]
      | split | dsimp only

theorem State.cancelCommit_still_of {s₀ s : State} (hk : s.still = s₀.still) (id : Nat) :
    (State.cancelCommit s id).still = s₀.still := by
  unfold State.cancelCommit
  try dsimp only
  with_reducible
    repeat'
      first
      | assumption | intro u | apply ite_still | apply ite_still1 | apply ite_still2 | apply foldl_still
      | apply foldl_still1 | apply foldl_still2 | apply State.dropCommit_still_of | apply State.setTicket_still_of
      | apply State.record_still_of | apply State.settlePower_still_of | simp only [State.still_mk] | split
      | dsimp only

theorem State.broadcast_still_of {s₀ s : State} (hk : s.still = s₀.still) (step : Nat) (m : WallMsg) :
    (State.broadcast s step m).still = s₀.still := by
  unfold State.broadcast
  try dsimp only
  with_reducible
    repeat'
      first
      | assumption | intro u | apply ite_still | apply ite_still1 | apply ite_still2 | apply foldl_still
      | apply foldl_still1 | apply foldl_still2 | apply State.sendMessage_still_of | simp only [State.still_mk]
      | split | dsimp only

theorem State.listen_still_of {s₀ s : State} (hk : s.still = s₀.still)  :
    (State.listen s).still = s₀.still := by
  unfold State.listen
  try dsimp only
  with_reducible
    repeat'
      first
      | assumption | intro u | apply ite_still | apply ite_still1 | apply ite_still2 | apply foldl_still
      | apply foldl_still1 | apply foldl_still2 | apply State.setReg_still_of | simp only [State.still_mk] | split
      | dsimp only

theorem State.exclude_still_of {s₀ s : State} (hk : s.still = s₀.still) (serial : Nat) :
    (State.exclude s serial).still = s₀.still := by
  unfold State.exclude
  try dsimp only
  with_reducible
    repeat'
      first
      | assumption | intro u | apply ite_still | apply ite_still1 | apply ite_still2 | apply foldl_still
      | apply foldl_still1 | apply foldl_still2 | apply State.setReg_still_of | apply State.record_still_of
      | simp only [State.still_mk] | split | dsimp only

theorem State.clash_still_of {s₀ s : State} (hk : s.still = s₀.still) (pairState : Nat) (serial : Nat) :
    (State.clash s pairState serial).still = s₀.still := by
  unfold State.clash
  try dsimp only
  with_reducible
    repeat'
      first
      | assumption | intro u | apply ite_still | apply ite_still1 | apply ite_still2 | apply foldl_still
      | apply foldl_still1 | apply foldl_still2 | apply State.exclude_still_of | simp only [State.still_mk] | split
      | dsimp only

theorem State.takePresence_still_of {s₀ s : State} (hk : s.still = s₀.still) (port : Nat) (aliasNo : Nat) (member : Nat) (pairState : Nat) (serial : Nat) :
    (State.takePresence s port aliasNo member pairState serial).still = s₀.still := by
  unfold State.takePresence
  try dsimp only
  with_reducible
    repeat'
      first
      | assumption | intro u | apply ite_still | apply ite_still1 | apply ite_still2 | apply foldl_still
      | apply foldl_still1 | apply foldl_still2 | apply State.clash_still_of | simp only [State.still_mk] | split
      | dsimp only

theorem State.sendPresence_still_of {s₀ s : State} (hk : s.still = s₀.still)  :
    (State.sendPresence s).still = s₀.still := by
  unfold State.sendPresence
  try dsimp only
  with_reducible
    repeat'
      first
      | assumption | intro u | apply ite_still | apply ite_still1 | apply ite_still2 | apply foldl_still
      | apply foldl_still1 | apply foldl_still2 | apply State.sendMessage_still_of | simp only [State.still_mk]
      | split | dsimp only

theorem memberNumberOp_still_of {s₀ s : State} (hk : s.still = s₀.still)  (ss i : Nat) (v : Val) :
    (memberNumberOp  s ss i v).1.still = s₀.still := by
  unfold memberNumberOp
  try dsimp only
  with_reducible
    repeat'
      first
      | assumption | intro u | apply ite_still | apply ite_still1 | apply ite_still2 | apply foldl_still
      | apply foldl_still1 | apply foldl_still2 | apply State.setReg_still_of | apply State.listen_still_of
      | simp only [State.still_mk] | split | dsimp only

theorem State.lead_still_of {s₀ s : State} (hk : s.still = s₀.still) (id : Nat) :
    (State.lead s id).still = s₀.still := by
  unfold State.lead
  try dsimp only
  with_reducible
    repeat'
      first
      | assumption | intro u | apply ite_still | apply ite_still1 | apply ite_still2 | apply foldl_still
      | apply foldl_still1 | apply foldl_still2 | apply State.setCommit_still_of | apply State.broadcast_still_of
      | simp only [State.still_mk] | split | dsimp only

theorem State.takeReady_still_of {s₀ s : State} (hk : s.still = s₀.still) (m : WallMsg) :
    (State.takeReady s m).still = s₀.still := by
  unfold State.takeReady
  try dsimp only
  with_reducible
    repeat'
      first
      | assumption | intro u | apply ite_still | apply ite_still1 | apply ite_still2 | apply foldl_still
      | apply foldl_still1 | apply foldl_still2 | apply State.setCommit_still_of | simp only [State.still_mk]
      | split | dsimp only

theorem State.takeRefuse_still_of {s₀ s : State} (hk : s.still = s₀.still) (m : WallMsg) :
    (State.takeRefuse s m).still = s₀.still := by
  unfold State.takeRefuse
  try dsimp only
  with_reducible
    repeat'
      first
      | assumption | intro u | apply ite_still | apply ite_still1 | apply ite_still2 | apply foldl_still
      | apply foldl_still1 | apply foldl_still2 | apply State.setCommit_still_of | simp only [State.still_mk]
      | split | dsimp only

theorem State.decideWall_still_of {s₀ s : State} (hk : s.still = s₀.still) (p : Pending) :
    (State.decideWall s p).still = s₀.still := by
  unfold State.decideWall
  try dsimp only
  with_reducible
    repeat'
      first
      | assumption | intro u | apply ite_still | apply ite_still1 | apply ite_still2 | apply foldl_still
      | apply foldl_still1 | apply foldl_still2 | apply State.setCommit_still_of | apply State.broadcast_still_of
      | apply State.dropCommit_still_of | apply State.refuseTicket_still_of | apply State.settlePower_still_of
      | simp only [State.still_mk] | split | dsimp only

theorem State.servePrepare_still_of {s₀ s : State} (hk : s.still = s₀.still) (r : Pending) (port : Nat) (tag : Nat) :
    (State.servePrepare s r port tag).still = s₀.still := by
  unfold State.servePrepare
  try dsimp only
  with_reducible
    repeat'
      first
      | assumption | intro u | apply ite_still | apply ite_still1 | apply ite_still2 | apply foldl_still
      | apply foldl_still1 | apply foldl_still2 | apply State.refuseTicket_still_of
      | apply State.sendMessage_still_of | apply State.askDomains_still_of | apply State.takeCommit_still_of
      | simp only [State.still_mk] | split | dsimp only

theorem State.takePrepare_still_of {s₀ s : State} (hk : s.still = s₀.still) (port : Nat) (m : WallMsg) :
    (State.takePrepare s port m).still = s₀.still := by
  unfold State.takePrepare
  try dsimp only
  with_reducible
    repeat'
      first
      | assumption | intro u | apply ite_still | apply ite_still1 | apply ite_still2 | apply foldl_still
      | apply foldl_still1 | apply foldl_still2 | apply State.addOther_still_of | apply State.servePrepare_still_of
      | simp only [State.still_mk] | split | dsimp only

theorem State.takeGo_still_of {s₀ s : State} (hk : s.still = s₀.still) (m : WallMsg) :
    (State.takeGo s m).still = s₀.still := by
  unfold State.takeGo
  try dsimp only
  with_reducible
    repeat'
      first
      | assumption | intro u | apply ite_still | apply ite_still1 | apply ite_still2 | apply foldl_still
      | apply foldl_still1 | apply foldl_still2 | apply State.setCommit_still_of | simp only [State.still_mk]
      | split | dsimp only

theorem State.takeAbort_still_of {s₀ s0 : State} (hk : s0.still = s₀.still) (m : WallMsg) :
    (State.takeAbort s0 m).still = s₀.still := by
  unfold State.takeAbort
  try dsimp only
  with_reducible
    repeat'
      first
      | assumption | intro u | apply ite_still | apply ite_still1 | apply ite_still2 | apply foldl_still
      | apply foldl_still1 | apply foldl_still2 | apply State.refuseTicket_still_of
      | apply State.dropCommit_still_of | apply State.settlePower_still_of | simp only [State.still_mk] | split
      | dsimp only

theorem State.reportApplied_still_of {s₀ s : State} (hk : s.still = s₀.still) (old : State) :
    (State.reportApplied s old).still = s₀.still := by
  unfold State.reportApplied
  try dsimp only
  with_reducible
    repeat'
      first
      | assumption | intro u | apply ite_still | apply ite_still1 | apply ite_still2 | apply foldl_still
      | apply foldl_still1 | apply foldl_still2 | apply State.sendMessage_still_of | simp only [State.still_mk]
      | split | dsimp only

theorem State.serveRequest_still_of {s₀ s : State} (hk : s.still = s₀.still) (r : Pending) :
    (State.serveRequest s r).still = s₀.still := by
  unfold State.serveRequest
  try dsimp only
  with_reducible
    repeat'
      first
      | assumption | intro u | apply ite_still | apply ite_still1 | apply ite_still2 | apply foldl_still
      | apply foldl_still1 | apply foldl_still2 | apply State.refuseTicket_still_of
      | apply State.askDomains_still_of | apply State.takeCommit_still_of | apply State.lead_still_of
      | simp only [State.still_mk] | split | dsimp only

theorem cancelOp_still_of {s₀ s : State} (hk : s.still = s₀.still)  (ss i : Nat) (v : Val) :
    (cancelOp  s ss i v).1.still = s₀.still := by
  unfold cancelOp
  try dsimp only
  with_reducible
    repeat'
      first
      | assumption | intro u | apply ite_still | apply ite_still1 | apply ite_still2 | apply foldl_still
      | apply foldl_still1 | apply foldl_still2 | apply State.cancelCommit_still_of
      | apply State.broadcast_still_of | simp only [State.still_mk] | split | dsimp only

theorem State.takeApplied_still_of {s₀ s : State} (hk : s.still = s₀.still) (m : WallMsg) :
    (State.takeApplied s m).still = s₀.still := by
  unfold State.takeApplied
  try dsimp only
  with_reducible
    repeat'
      first
      | assumption | intro u | apply ite_still | apply ite_still1 | apply ite_still2 | apply foldl_still
      | apply foldl_still1 | apply foldl_still2 | simp only [State.still_mk] | split | dsimp only

theorem State.asStarted_still_of {s₀ s : State} (hk : s.still = s₀.still)  :
    (State.asStarted s).still = s₀.still := by
  unfold State.asStarted
  try dsimp only
  with_reducible
    repeat'
      first
      | assumption | intro u | apply ite_still | apply ite_still1 | apply ite_still2 | apply foldl_still
      | apply foldl_still1 | apply foldl_still2 | simp only [State.still_mk] | split | dsimp only

theorem State.endPlacing_still_of {s₀ s : State} (hk : s.still = s₀.still)  :
    (State.endPlacing s).still = s₀.still := by
  unfold State.endPlacing
  try dsimp only
  with_reducible
    repeat'
      first
      | assumption | intro u | apply ite_still | apply ite_still1 | apply ite_still2 | apply foldl_still
      | apply foldl_still1 | apply foldl_still2 | apply State.placeStartUp_still_of | simp only [State.still_mk]
      | split | dsimp only

theorem State.placed_still_of {s₀ s : State} (hk : s.still = s₀.still) (slot : Nat) (scene : Bytes) (timeUs : Nat) (host : Bool) :
    (State.placed s slot scene timeUs host).still = s₀.still := by
  unfold State.placed
  try dsimp only
  with_reducible
    repeat'
      first
      | assumption | intro u | apply ite_still | apply ite_still1 | apply ite_still2 | apply foldl_still
      | apply foldl_still1 | apply foldl_still2 | apply State.endPlacing_still_of | apply State.asStarted_still_of
      | apply State.placementResult_still_of | apply State.setBlob_still_of | apply State.record_still_of
      | apply State.storePlan_still_of | apply State.requestCommit_still_of | simp only [State.still_mk] | split
      | dsimp only

theorem State.dried_still_of {s₀ s : State} (hk : s.still = s₀.still) (scene : Bytes) (timeUs : Nat) :
    (State.dried s scene timeUs).still = s₀.still := by
  unfold State.dried
  try dsimp only
  with_reducible
    repeat'
      first
      | assumption | intro u | apply ite_still | apply ite_still1 | apply ite_still2 | apply foldl_still
      | apply foldl_still1 | apply foldl_still2 | apply State.endPlacing_still_of | apply State.asStarted_still_of
      | apply State.placementResult_still_of | simp only [State.still_mk] | split | dsimp only

theorem State.replanned_still_of {s₀ s : State} (hk : s.still = s₀.still) (p : Plan) :
    (State.replanned s p).still = s₀.still := by
  unfold State.replanned
  try dsimp only
  with_reducible
    repeat'
      first
      | assumption | intro u | apply ite_still | apply ite_still1 | apply ite_still2 | apply foldl_still
      | apply foldl_still1 | apply foldl_still2 | apply State.setBlob_still_of | apply State.bump_still_of
      | apply State.takeAuto_still_of | apply State.escalate_still_of | simp only [State.still_mk] | split
      | dsimp only

theorem State.autoPlaced_still_of {s₀ s : State} (hk : s.still = s₀.still) (scene : Bytes) (epoch : Nat) (timeUs : Nat) :
    (State.autoPlaced s scene epoch timeUs).still = s₀.still := by
  unfold State.autoPlaced
  try dsimp only
  with_reducible
    repeat'
      first
      | assumption | intro u | apply ite_still | apply ite_still1 | apply ite_still2 | apply foldl_still
      | apply foldl_still1 | apply foldl_still2 | apply State.endPlacing_still_of
      | apply State.endRecovery_still_of | apply State.asStarted_still_of | apply State.replanned_still_of
      | apply State.askDomains_still_of | simp only [State.still_mk] | split | dsimp only

theorem State.startReplan_still_of {s₀ s : State} (hk : s.still = s₀.still)  :
    (State.startReplan s).still = s₀.still := by
  unfold State.startReplan
  try dsimp only
  with_reducible
    repeat'
      first
      | assumption | intro u | apply ite_still | apply ite_still1 | apply ite_still2 | apply foldl_still
      | apply foldl_still1 | apply foldl_still2 | apply State.endRecovery_still_of | simp only [State.still_mk]
      | split | dsimp only

theorem State.moveEngine_still_of {s₀ s : State} (hk : s.still = s₀.still) (a : Nat) (b : Nat) :
    (State.moveEngine s a b).still = s₀.still := by
  unfold State.moveEngine
  try dsimp only
  with_reducible
    repeat'
      first
      | assumption | intro u | apply ite_still | apply ite_still1 | apply ite_still2 | apply foldl_still
      | apply foldl_still1 | apply foldl_still2 | apply State.setReg_still_of | simp only [State.still_mk] | split
      | dsimp only

theorem State.switchBack_still_of {s₀ s : State} (hk : s.still = s₀.still) (e : Nat) :
    (State.switchBack s e).still = s₀.still := by
  unfold State.switchBack
  try dsimp only
  with_reducible
    repeat'
      first
      | assumption | intro u | apply ite_still | apply ite_still1 | apply ite_still2 | apply foldl_still
      | apply foldl_still1 | apply foldl_still2 | apply State.endRecovery_still_of
      | apply State.moveEngine_still_of | apply State.setReg_still_of | apply State.setEngine_still_of
      | apply State.record_still_of | simp only [State.still_mk] | split | dsimp only

theorem State.switchBackAt_still_of {s₀ s : State} (hk : s.still = s₀.still) (o : Nat) (of : Nat) :
    (State.switchBackAt s o of).still = s₀.still := by
  unfold State.switchBackAt
  try dsimp only
  with_reducible
    repeat'
      first
      | assumption | intro u | apply ite_still | apply ite_still1 | apply ite_still2 | apply foldl_still
      | apply foldl_still1 | apply foldl_still2 | apply State.switchBack_still_of | simp only [State.still_mk]
      | split | dsimp only

theorem State.startRecovery_still_of {s₀ s : State} (hk : s.still = s₀.still) (r : Recovery) :
    (State.startRecovery s r).still = s₀.still := by
  unfold State.startRecovery
  try dsimp only
  with_reducible
    repeat'
      first
      | assumption | intro u | apply ite_still | apply ite_still1 | apply ite_still2 | apply foldl_still
      | apply foldl_still1 | apply foldl_still2 | apply State.enterEvacuation_still_of
      | apply State.startRetrain_still_of | apply State.switchBack_still_of | apply State.startLaneBack_still_of
      | simp only [State.still_mk] | split | dsimp only

theorem testEngineOp_still_of {s₀ s : State} (hk : s.still = s₀.still)  (ss i : Nat) (v : Val) :
    (testEngineOp  s ss i v).1.still = s₀.still := by
  unfold testEngineOp
  try dsimp only
  with_reducible
    repeat'
      first
      | assumption | intro u | apply ite_still | apply ite_still1 | apply ite_still2 | apply foldl_still
      | apply foldl_still1 | apply foldl_still2 | apply State.setReg_still_of | simp only [State.still_mk] | split
      | dsimp only

theorem State.endTest_still_of {s₀ s : State} (hk : s.still = s₀.still) (e : Nat) (passed : Bool) :
    (State.endTest s e passed).still = s₀.still := by
  unfold State.endTest
  try dsimp only
  with_reducible
    repeat'
      first
      | assumption | intro u | apply ite_still | apply ite_still1 | apply ite_still2 | apply foldl_still
      | apply foldl_still1 | apply foldl_still2 | apply State.setReg_still_of | apply State.setEngine_still_of
      | apply State.advanceEpoch_still_of | simp only [State.still_mk] | split | dsimp only

theorem switchBackEngineOp_still_of {s₀ s : State} (hk : s.still = s₀.still)  (ss i : Nat) (v : Val) :
    (switchBackEngineOp  s ss i v).1.still = s₀.still := by
  unfold switchBackEngineOp
  try dsimp only
  with_reducible
    repeat'
      first
      | assumption | intro u | apply ite_still | apply ite_still1 | apply ite_still2 | apply foldl_still
      | apply foldl_still1 | apply foldl_still2 | simp only [State.still_mk] | split | dsimp only

theorem State.decideGroup_still_of {s₀ s : State} (hk : s.still = s₀.still) (c : State) (key : Nat) (of : Nat) (d : Nat) :
    (State.decideGroup s c key of d).still = s₀.still := by
  unfold State.decideGroup
  try dsimp only
  with_reducible
    repeat'
      first
      | assumption | intro u | apply ite_still | apply ite_still1 | apply ite_still2 | apply foldl_still
      | apply foldl_still1 | apply foldl_still2 | apply State.lead_still_of | apply State.setGroup_still_of
      | apply State.record_still_of | simp only [State.still_mk] | split | dsimp only

theorem State.takeRefs_still_of {s₀ s : State} (hk : s.still = s₀.still) (draws : List Draw) :
    (State.takeRefs s draws).still = s₀.still := by
  unfold State.takeRefs
  try dsimp only
  with_reducible
    repeat'
      first
      | assumption | intro u | apply ite_still | apply ite_still1 | apply ite_still2 | apply foldl_still
      | apply foldl_still1 | apply foldl_still2 | apply State.takeRef_still_of | simp only [State.still_mk] | split
      | dsimp only

theorem State.seal_still_of {s₀ s0 : State} (hk : s0.still = s₀.still) (o : Nat) :
    (State.seal s0 o).still = s₀.still := by
  unfold State.seal
  try dsimp only
  with_reducible
    repeat'
      first
      | assumption | intro u | apply ite_still | apply ite_still1 | apply ite_still2 | apply foldl_still
      | apply foldl_still1 | apply foldl_still2 | apply State.lockInFor_still_of | apply State.configAt_still_of
      | apply State.switchBackAt_still_of | apply State.decideGroup_still_of | apply State.takeRefs_still_of
      | apply State.setOutput_still_of | simp only [State.still_mk] | split | dsimp only

theorem State.outputEvent_still_of {s₀ s : State} (hk : s.still = s₀.still) (o : Nat) (bit : Nat) :
    (State.outputEvent s o bit).still = s₀.still := by
  unfold State.outputEvent
  try dsimp only
  with_reducible
    repeat'
      first
      | assumption | intro u | apply ite_still | apply ite_still1 | apply ite_still2 | apply foldl_still
      | apply foldl_still1 | apply foldl_still2 | apply State.bump_still_of | apply State.setReg_still_of
      | apply State.send_still_of | simp only [State.still_mk] | split | dsimp only

theorem State.sendHeader_still_of {s₀ s : State} (hk : s.still = s₀.still) (o : Nat) (seq : Nat) (k : Bank) (again : Bool) (veil : Bool) :
    (State.sendHeader s o seq k again veil).still = s₀.still := by
  unfold State.sendHeader
  try dsimp only
  with_reducible
    repeat'
      first
      | assumption | intro u | apply ite_still | apply ite_still1 | apply ite_still2 | apply foldl_still
      | apply foldl_still1 | apply foldl_still2 | apply State.sendCellDue_still_of | simp only [State.still_mk]
      | split | dsimp only

theorem State.noteLimit_still_of {s₀ s : State} (hk : s.still = s₀.still) (o : Nat) (of : Nat) :
    (State.noteLimit s o of).still = s₀.still := by
  unfold State.noteLimit
  try dsimp only
  with_reducible
    repeat'
      first
      | assumption | intro u | apply ite_still | apply ite_still1 | apply ite_still2 | apply foldl_still
      | apply foldl_still1 | apply foldl_still2 | apply State.setOutput_still_of | apply State.record_still_of
      | simp only [State.still_mk] | split | dsimp only

theorem State.noteTe_still_of {s₀ s : State} (hk : s.still = s₀.still) (o : Nat) (of : Nat) (c : Code) :
    (State.noteTe s o of c).still = s₀.still := by
  unfold State.noteTe
  try dsimp only
  with_reducible
    repeat'
      first
      | assumption | intro u | apply ite_still | apply ite_still1 | apply ite_still2 | apply foldl_still
      | apply foldl_still1 | apply foldl_still2 | apply State.recordEvery_still_of | simp only [State.still_mk]
      | split | dsimp only

theorem State.cutFrame_still_of {s₀ s : State} (hk : s.still = s₀.still) (o : Nat) :
    (State.cutFrame s o).still = s₀.still := by
  unfold State.cutFrame
  try dsimp only
  with_reducible
    repeat'
      first
      | assumption | intro u | apply ite_still | apply ite_still1 | apply ite_still2 | apply foldl_still
      | apply foldl_still1 | apply foldl_still2 | apply State.setPort_still_of | apply State.setOutput_still_of
      | apply State.bump_still_of | apply State.recordLimited_still_of | simp only [State.still_mk] | split
      | dsimp only

theorem State.closeFrame_still_of {s₀ s : State} (hk : s.still = s₀.still) (o : Nat) :
    (State.closeFrame s o).still = s₀.still := by
  unfold State.closeFrame
  try dsimp only
  with_reducible
    repeat'
      first
      | assumption | intro u | apply ite_still | apply ite_still1 | apply ite_still2 | apply foldl_still
      | apply foldl_still1 | apply foldl_still2 | apply State.setReg_still_of | apply State.cutFrame_still_of
      | apply State.bump_still_of | apply State.noteTe_still_of | simp only [State.still_mk] | split | dsimp only

theorem State.restartPlacing_still_of {s₀ s : State} (hk : s.still = s₀.still)  :
    (State.restartPlacing s).still = s₀.still := by
  unfold State.restartPlacing
  try dsimp only
  with_reducible
    repeat'
      first
      | assumption | intro u | apply ite_still | apply ite_still1 | apply ite_still2 | apply foldl_still
      | apply foldl_still1 | apply foldl_still2 | simp only [State.still_mk] | split | dsimp only

theorem State.leaveSubst_still_of {s₀ s : State} (hk : s.still = s₀.still) (outs : List Nat) :
    (State.leaveSubst s outs).still = s₀.still := by
  unfold State.leaveSubst
  try dsimp only
  with_reducible
    repeat'
      first
      | assumption | intro u | apply ite_still | apply ite_still1 | apply ite_still2 | apply foldl_still
      | apply foldl_still1 | apply foldl_still2 | apply State.setReg_still_of | apply State.restartPlacing_still_of
      | apply State.record_still_of | simp only [State.still_mk] | split | dsimp only

theorem State.openFrame_still_of {s₀ s : State} (hk : s.still = s₀.still) (o : Nat) (of : Nat) (kind : FrameKind) :
    (State.openFrame s o of kind).still = s₀.still := by
  unfold State.openFrame
  try dsimp only
  with_reducible
    repeat'
      first
      | assumption | intro u | apply ite_still | apply ite_still1 | apply ite_still2 | apply foldl_still
      | apply foldl_still1 | apply foldl_still2 | apply State.underrun_still_of | apply State.setOutput_still_of
      | apply State.setReg_still_of | apply State.bump_still_of | apply State.sendHeader_still_of
      | apply State.send_still_of | simp only [State.still_mk] | split | dsimp only

theorem State.startFrame_still_of {s₀ s : State} (hk : s.still = s₀.still) (o : Nat) :
    (State.startFrame s o).still = s₀.still := by
  unfold State.startFrame
  try dsimp only
  with_reducible
    repeat'
      first
      | assumption | intro u | apply ite_still | apply ite_still1 | apply ite_still2 | apply foldl_still
      | apply foldl_still1 | apply foldl_still2 | apply State.closeFrame_still_of | apply State.applyAt_still_of
      | apply State.switchBackAt_still_of | apply State.noteLimit_still_of | apply State.record_still_of
      | apply State.openFrame_still_of | apply State.leaveSubst_still_of | apply State.correctPhase_still_of
      | simp only [State.still_mk] | split | dsimp only

theorem State.noteFresh_still_of {s₀ s : State} (hk : s.still = s₀.still) (o : Nat) :
    (State.noteFresh s o).still = s₀.still := by
  unfold State.noteFresh
  try dsimp only
  with_reducible
    repeat'
      first
      | assumption | intro u | apply ite_still | apply ite_still1 | apply ite_still2 | apply foldl_still
      | apply foldl_still1 | apply foldl_still2 | apply State.settleTakeover_still_of | simp only [State.still_mk]
      | split | dsimp only

theorem State.finishSwage_still_of {s₀ s : State} (hk : s.still = s₀.still) (o : Nat) :
    (State.finishSwage s o).still = s₀.still := by
  unfold State.finishSwage
  try dsimp only
  with_reducible
    repeat'
      first
      | assumption | intro u | apply ite_still | apply ite_still1 | apply ite_still2 | apply foldl_still
      | apply foldl_still1 | apply foldl_still2 | apply State.sendCellDue_still_of | apply State.setReg_still_of
      | apply State.setOutput_still_of | simp only [State.still_mk] | split | dsimp only

theorem State.sendLines_still_of {s₀ s : State} (hk : s.still = s₀.still) (o : Nat) :
    (State.sendLines s o).still = s₀.still := by
  unfold State.sendLines
  try dsimp only
  with_reducible
    repeat'
      first
      | assumption | intro u | apply ite_still | apply ite_still1 | apply ite_still2 | apply foldl_still
      | apply foldl_still1 | apply foldl_still2 | apply State.send_still_of | simp only [State.still_mk] | split
      | dsimp only

theorem State.finishFrame_still_of {s₀ s : State} (hk : s.still = s₀.still) (o : Nat) :
    (State.finishFrame s o).still = s₀.still := by
  unfold State.finishFrame
  try dsimp only
  with_reducible
    repeat'
      first
      | assumption | intro u | apply ite_still | apply ite_still1 | apply ite_still2 | apply foldl_still
      | apply foldl_still1 | apply foldl_still2 | apply State.hold_still_of | apply State.setReg_still_of
      | apply State.setOutput_still_of | apply State.storeHold_still_of | apply State.sendLines_still_of
      | apply State.send_still_of | apply State.outputEvent_still_of | simp only [State.still_mk] | split
      | dsimp only

theorem latchClearOp_still_of {s₀ s : State} (hk : s.still = s₀.still)  (ss i : Nat) (v : Val) :
    (latchClearOp  s ss i v).1.still = s₀.still := by
  unfold latchClearOp
  try dsimp only
  with_reducible
    repeat'
      first
      | assumption | intro u | apply ite_still | apply ite_still1 | apply ite_still2 | apply foldl_still
      | apply foldl_still1 | apply foldl_still2 | apply State.setReg_still_of | simp only [State.still_mk] | split
      | dsimp only

theorem State.switchOff_still_of {s₀ s : State} (hk : s.still = s₀.still) (o : Nat) (d : Draw) (x : Nat) (y : Nat) (underran : Bool) :
    (State.switchOff s o d x y underran).still = s₀.still := by
  unfold State.switchOff
  try dsimp only
  with_reducible
    repeat'
      first
      | assumption | intro u | apply ite_still | apply ite_still1 | apply ite_still2 | apply foldl_still
      | apply foldl_still1 | apply foldl_still2 | apply State.setOutput_still_of | simp only [State.still_mk]
      | split | dsimp only

theorem State.switchOffNext_still_of {s₀ s : State} (hk : s.still = s₀.still) (o : Nat) (d : Draw) (underran : Bool) :
    (State.switchOffNext s o d underran).still = s₀.still := by
  unfold State.switchOffNext
  try dsimp only
  with_reducible
    repeat'
      first
      | assumption | intro u | apply ite_still | apply ite_still1 | apply ite_still2 | apply foldl_still
      | apply foldl_still1 | apply foldl_still2 | apply State.setOutput_still_of | simp only [State.still_mk]
      | split | dsimp only

theorem State.thirdUnderrun_still_of {s₀ s : State} (hk : s.still = s₀.still) (o : Nat) (inst : Nat) (of : Nat) (d : Draw) :
    (State.thirdUnderrun s o inst of d).still = s₀.still := by
  unfold State.thirdUnderrun
  try dsimp only
  with_reducible
    repeat'
      first
      | assumption | intro u | apply ite_still | apply ite_still1 | apply ite_still2 | apply foldl_still
      | apply foldl_still1 | apply foldl_still2 | apply State.record_still_of | apply State.strikeRunning_still_of
      | apply State.triggerReplan_still_of | simp only [State.still_mk] | split | dsimp only

theorem State.noteUnderrun_still_of {s₀ s : State} (hk : s.still = s₀.still) (o : Nat) (d : Draw) (of : Nat) :
    (State.noteUnderrun s o d of).still = s₀.still := by
  unfold State.noteUnderrun
  try dsimp only
  with_reducible
    repeat'
      first
      | assumption | intro u | apply ite_still | apply ite_still1 | apply ite_still2 | apply foldl_still
      | apply foldl_still1 | apply foldl_still2 | apply State.bump_still_of | apply State.record_still_of
      | apply State.underrun_still_of | apply State.setOutput_still_of | apply State.outputEvent_still_of
      | apply State.setReg_still_of | apply State.thirdUnderrun_still_of | simp only [State.still_mk] | split
      | dsimp only

theorem State.underrun_still_of {s₀ s : State} (hk : s.still = s₀.still) (o : Nat) (d : Draw) (x : Nat) (y : Nat) :
    (State.underrun s o d x y).still = s₀.still := by
  unfold State.underrun
  try dsimp only
  with_reducible
    repeat'
      first
      | assumption | intro u | apply ite_still | apply ite_still1 | apply ite_still2 | apply foldl_still
      | apply foldl_still1 | apply foldl_still2 | apply State.switchOff_still_of
      | apply State.noteUnderrun_still_of | simp only [State.still_mk] | split | dsimp only

theorem State.refuseLayer_still_of {s₀ s : State} (hk : s.still = s₀.still) (o : Nat) (d : Draw) :
    (State.refuseLayer s o d).still = s₀.still := by
  unfold State.refuseLayer
  try dsimp only
  with_reducible
    repeat'
      first
      | assumption | intro u | apply ite_still | apply ite_still1 | apply ite_still2 | apply foldl_still
      | apply foldl_still1 | apply foldl_still2 | apply State.switchOffNext_still_of
      | apply State.noteUnderrun_still_of | apply State.underrun_still_of | simp only [State.still_mk] | split
      | dsimp only

theorem State.fillFrames_still_of {s₀ s : State} (hk : s.still = s₀.still) (line : Nat) (outs : List Nat) :
    (State.fillFrames s line outs).still = s₀.still := by
  unfold State.fillFrames
  try dsimp only
  with_reducible
    repeat'
      first
      | assumption | intro u | apply ite_still | apply ite_still1 | apply ite_still2 | apply foldl_still
      | apply foldl_still1 | apply foldl_still2 | apply State.setOutput_still_of | simp only [State.still_mk]
      | split | dsimp only

theorem State.noReserve_still_of {s₀ s : State} (hk : s.still = s₀.still) (e : Nat) (outs : List Nat) (strikes : Bool) :
    (State.noReserve s e outs strikes).still = s₀.still := by
  unfold State.noReserve
  try dsimp only
  with_reducible
    repeat'
      first
      | assumption | intro u | apply ite_still | apply ite_still1 | apply ite_still2 | apply foldl_still
      | apply foldl_still1 | apply foldl_still2 | apply State.record_still_of | apply State.setOutput_still_of
      | apply State.strike_still_of | apply State.triggerReplan_still_of | apply State.escalate_still_of
      | simp only [State.still_mk] | split | dsimp only

theorem State.serveFailed_still_of {s₀ s : State} (hk : s.still = s₀.still) (e : Nat) (outs : List Nat) (busy : Bool) (said : Bool) :
    (State.serveFailed s e outs busy said).still = s₀.still := by
  unfold State.serveFailed
  try dsimp only
  with_reducible
    repeat'
      first
      | assumption | intro u | apply ite_still | apply ite_still1 | apply ite_still2 | apply foldl_still
      | apply foldl_still1 | apply foldl_still2 | apply State.noReserve_still_of | apply State.record_still_of
      | apply State.strike_still_of | simp only [State.still_mk] | split | dsimp only

theorem State.failEngine_still_of {s₀ s : State} (hk : s.still = s₀.still) (e : Nat) (cause : Nat) (line : Nat) :
    (State.failEngine s e cause line).still = s₀.still := by
  unfold State.failEngine
  try dsimp only
  with_reducible
    repeat'
      first
      | assumption | intro u | apply ite_still | apply ite_still1 | apply ite_still2 | apply foldl_still
      | apply foldl_still1 | apply foldl_still2 | apply State.setReg_still_of | apply State.advanceEpoch_still_of
      | apply State.fillFrames_still_of | apply State.setEngine_still_of | apply State.abandonWriteback_still_of
      | apply State.restartPlacing_still_of | apply State.record_still_of | apply State.serveFailed_still_of
      | simp only [State.still_mk] | split | dsimp only

theorem State.serveWaiting_still_of {s₀ s : State} (hk : s.still = s₀.still)  :
    (State.serveWaiting s).still = s₀.still := by
  unfold State.serveWaiting
  try dsimp only
  with_reducible
    repeat'
      first
      | assumption | intro u | apply ite_still | apply ite_still1 | apply ite_still2 | apply foldl_still
      | apply foldl_still1 | apply foldl_still2 | apply State.serveFailed_still_of | simp only [State.still_mk]
      | split | dsimp only

theorem State.armReserve_still_of {s₀ s : State} (hk : s.still = s₀.still) (x : Subst) (r : Nat) :
    (State.armReserve s x r).still = s₀.still := by
  unfold State.armReserve
  try dsimp only
  with_reducible
    repeat'
      first
      | assumption | intro u | apply ite_still | apply ite_still1 | apply ite_still2 | apply foldl_still
      | apply foldl_still1 | apply foldl_still2 | apply State.moveEngine_still_of | apply State.setReg_still_of
      | apply State.leaveSubst_still_of | simp only [State.still_mk] | split | dsimp only

theorem State.noteLink_still_of {s₀ s : State} (hk : s.still = s₀.still) (o : Nat) (c : Code) :
    (State.noteLink s o c).still = s₀.still := by
  unfold State.noteLink
  try dsimp only
  with_reducible
    repeat'
      first
      | assumption | intro u | apply ite_still | apply ite_still1 | apply ite_still2 | apply foldl_still
      | apply foldl_still1 | apply foldl_still2 | apply State.record_still_of | simp only [State.still_mk] | split
      | dsimp only

theorem tableOp_still_of {s₀ s : State} (hk : s.still = s₀.still)  (ss i : Nat) (v : Val) :
    (tableOp  s ss i v).1.still = s₀.still := by
  unfold tableOp
  try dsimp only
  with_reducible
    repeat'
      first
      | assumption | intro u | apply ite_still | apply ite_still1 | apply ite_still2 | apply foldl_still
      | apply foldl_still1 | apply foldl_still2 | apply State.setShadow_still_of | simp only [State.still_mk]
      | split | dsimp only

theorem State.oldestOrigin_still_of {s₀ s : State} (hk : s.still = s₀.still) (ds : List Draw) :
    (State.oldestOrigin s ds).2.still = s₀.still := by
  unfold State.oldestOrigin
  try dsimp only
  with_reducible
    repeat'
      first
      | assumption | intro u | apply ite_still | apply ite_still1 | apply ite_still2 | apply foldl_still
      | apply foldl_still1 | apply foldl_still2 | apply State.draw_still_of | simp only [State.still_mk] | split
      | dsimp only

theorem State.startWriteback_still_of {s₀ s : State} (hk : s.still = s₀.still) (e : Nat) (o : Nat) (of : Nat) :
    (State.startWriteback s e o of).still = s₀.still := by
  unfold State.startWriteback
  try dsimp only
  with_reducible
    repeat'
      first
      | assumption | intro u | apply ite_still | apply ite_still1 | apply ite_still2 | apply foldl_still
      | apply foldl_still1 | apply foldl_still2 | apply State.setEngine_still_of | apply State.applyFrozen_still_of
      | apply State.takeFree_still_of | apply State.abandonWriteback_still_of | apply State.oldestOrigin_still_of
      | apply State.setIngot_still_of | apply State.countFrom_still_of | apply State.countFrame_still_of
      | simp only [State.still_mk] | split | dsimp only

theorem State.endWriteback_still_of {s₀ s : State} (hk : s.still = s₀.still) (e : Nat) (o : Nat) (i : Nat) :
    (State.endWriteback s e o i).still = s₀.still := by
  unfold State.endWriteback
  try dsimp only
  with_reducible
    repeat'
      first
      | assumption | intro u | apply ite_still | apply ite_still1 | apply ite_still2 | apply foldl_still
      | apply foldl_still1 | apply foldl_still2 | apply State.store_still_of | apply State.setIngot_still_of
      | apply State.setEngine_still_of | apply State.publish_still_of | simp only [State.still_mk] | split
      | dsimp only

theorem State.loseWriteback_still_of {s₀ s : State} (hk : s.still = s₀.still) (e : Nat) (address : Nat) :
    (State.loseWriteback s e address).still = s₀.still := by
  unfold State.loseWriteback
  try dsimp only
  with_reducible
    repeat'
      first
      | assumption | intro u | apply ite_still | apply ite_still1 | apply ite_still2 | apply foldl_still
      | apply foldl_still1 | apply foldl_still2 | apply State.abandonWriteback_still_of
      | simp only [State.still_mk] | split | dsimp only

theorem State.loseInbound_still_of {s₀ s : State} (hk : s.still = s₀.still) (p : Nat) (address : Nat) :
    (State.loseInbound s p address).still = s₀.still := by
  unfold State.loseInbound
  try dsimp only
  with_reducible
    repeat'
      first
      | assumption | intro u | apply ite_still | apply ite_still1 | apply ite_still2 | apply foldl_still
      | apply foldl_still1 | apply foldl_still2 | apply State.abandon_still_of | apply State.setRx_still_of
      | apply State.dropFrame_still_of | apply State.setPort_still_of | simp only [State.still_mk] | split
      | dsimp only

theorem State.loseStaging_still_of {s₀ s : State} (hk : s.still = s₀.still) (c : Nat) (address : Nat) :
    (State.loseStaging s c address).still = s₀.still := by
  unfold State.loseStaging
  try dsimp only
  with_reducible
    repeat'
      first
      | assumption | intro u | apply ite_still | apply ite_still1 | apply ite_still2 | apply foldl_still
      | apply foldl_still1 | apply foldl_still2 | apply State.setCtx_still_of | apply State.dropCamera_still_of
      | simp only [State.still_mk] | split | dsimp only

theorem State.loseFrame_still_of {s₀ s : State} (hk : s.still = s₀.still) (port : Nat) (address : Nat) :
    (State.loseFrame s port address).still = s₀.still := by
  unfold State.loseFrame
  try dsimp only
  with_reducible
    repeat'
      first
      | assumption | intro u | apply ite_still | apply ite_still1 | apply ite_still2 | apply foldl_still
      | apply foldl_still1 | apply foldl_still2 | apply State.loseWriteback_still_of
      | apply State.loseInbound_still_of | apply State.loseStaging_still_of | apply State.abandonPipe_still_of
      | simp only [State.still_mk] | split | dsimp only

theorem State.loseRepeat_still_of {s₀ s : State} (hk : s.still = s₀.still) (port : Nat) (address : Nat) :
    (State.loseRepeat s port address).still = s₀.still := by
  unfold State.loseRepeat
  try dsimp only
  with_reducible
    repeat'
      first
      | assumption | intro u | apply ite_still | apply ite_still1 | apply ite_still2 | apply foldl_still
      | apply foldl_still1 | apply foldl_still2 | apply State.setOutput_still_of | apply State.setReg_still_of
      | apply State.record_still_of | simp only [State.still_mk] | split | dsimp only

theorem State.loseRequest_still_of {s₀ s : State} (hk : s.still = s₀.still) (port : Nat) (cls : Nat) (address : Nat) (scanCode : Code) :
    (State.loseRequest s port cls address scanCode).still = s₀.still := by
  unfold State.loseRequest
  try dsimp only
  with_reducible
    repeat'
      first
      | assumption | intro u | apply ite_still | apply ite_still1 | apply ite_still2 | apply foldl_still
      | apply foldl_still1 | apply foldl_still2 | apply State.loseFrame_still_of | apply State.refuseLayer_still_of
      | apply State.loseRepeat_still_of | apply State.setPipe_still_of | apply State.failScan_still_of
      | simp only [State.still_mk] | split | dsimp only

theorem State.refuseRequest_still_of {s₀ s : State} (hk : s.still = s₀.still) (port : Nat) (r : FabReq) (c : Code) :
    (State.refuseRequest s port r c).still = s₀.still := by
  unfold State.refuseRequest
  try dsimp only
  with_reducible
    repeat'
      first
      | assumption | intro u | apply ite_still | apply ite_still1 | apply ite_still2 | apply foldl_still
      | apply foldl_still1 | apply foldl_still2 | apply State.refuseForm_still_of
      | apply State.loseRequest_still_of | simp only [State.still_mk] | split | dsimp only

theorem State.failLayer_still_of {s₀ s : State} (hk : s.still = s₀.still) (o : Nat) (d : Draw) (i : Nat) :
    (State.failLayer s o d i).still = s₀.still := by
  unfold State.failLayer
  try dsimp only
  with_reducible
    repeat'
      first
      | assumption | intro u | apply ite_still | apply ite_still1 | apply ite_still2 | apply foldl_still
      | apply foldl_still1 | apply foldl_still2 | apply State.switchOffNext_still_of
      | apply State.switchOff_still_of | apply State.setIngot_still_of | simp only [State.still_mk] | split
      | dsimp only

theorem State.readError_still_of {s₀ s : State} (hk : s.still = s₀.still) (port : Nat) (cls : Nat) (address : Nat) (syndrome : Nat) :
    (State.readError s port cls address syndrome).still = s₀.still := by
  unfold State.readError
  try dsimp only
  with_reducible
    repeat'
      first
      | assumption | intro u | apply ite_still | apply ite_still1 | apply ite_still2 | apply foldl_still
      | apply foldl_still1 | apply foldl_still2 | apply State.refuseAccess_still_of
      | apply State.logMemError_still_of | apply State.loseWriteback_still_of | apply State.failLayer_still_of
      | apply State.abandonPipe_still_of | apply State.loseRequest_still_of | simp only [State.still_mk] | split
      | dsimp only

theorem State.putHostRead_still_of {s₀ s : State} (hk : s.still = s₀.still) (old : HostRead) (new : HostRead) :
    (State.putHostRead s old new).still = s₀.still := by
  unfold State.putHostRead
  try dsimp only
  with_reducible
    repeat'
      first
      | assumption | intro u | apply ite_still | apply ite_still1 | apply ite_still2 | apply foldl_still
      | apply foldl_still1 | apply foldl_still2 | simp only [State.still_mk] | split | dsimp only

theorem State.abortRead_still_of {s₀ s : State} (hk : s.still = s₀.still) (port : Nat) (r : FabReq) :
    (State.abortRead s port r).still = s₀.still := by
  unfold State.abortRead
  try dsimp only
  with_reducible
    repeat'
      first
      | assumption | intro u | apply ite_still | apply ite_still1 | apply ite_still2 | apply foldl_still
      | apply foldl_still1 | apply foldl_still2 | apply State.send_still_of | apply State.putHostRead_still_of
      | simp only [State.still_mk] | split | dsimp only

theorem State.hostData_still_of {s₀ s : State} (hk : s.still = s₀.still) (r : FabReq) (bs : Bytes) :
    (State.hostData s r bs).still = s₀.still := by
  unfold State.hostData
  try dsimp only
  with_reducible
    repeat'
      first
      | assumption | intro u | apply ite_still | apply ite_still1 | apply ite_still2 | apply foldl_still
      | apply foldl_still1 | apply foldl_still2 | apply State.putHostRead_still_of | apply State.send_still_of
      | simp only [State.still_mk] | split | dsimp only

theorem State.present_still_of {s₀ s : State} (hk : s.still = s₀.still) (port : Nat) (r : FabReq) :
    (State.present s port r).still = s₀.still := by
  unfold State.present
  try dsimp only
  with_reducible
    repeat'
      first
      | assumption | intro u | apply ite_still | apply ite_still1 | apply ite_still2 | apply foldl_still
      | apply foldl_still1 | apply foldl_still2 | apply State.refuseRequest_still_of
      | apply State.abortRead_still_of | simp only [State.still_mk] | split | dsimp only

theorem State.askBurst_still_of {s₀ s : State} (hk : s.still = s₀.still) (u : Nat) :
    (State.askBurst s u).still = s₀.still := by
  unfold State.askBurst
  try dsimp only
  with_reducible
    repeat'
      first
      | assumption | intro u | apply ite_still | apply ite_still1 | apply ite_still2 | apply foldl_still
      | apply foldl_still1 | apply foldl_still2 | apply State.present_still_of | apply State.request_still_of
      | simp only [State.still_mk] | split | dsimp only

theorem State.deliverData_still_of {s₀ s : State} (hk : s.still = s₀.still) (x : FabItem) (bs : Bytes) :
    (State.deliverData s x bs).still = s₀.still := by
  unfold State.deliverData
  try dsimp only
  with_reducible
    repeat'
      first
      | assumption | intro u | apply ite_still | apply ite_still1 | apply ite_still2 | apply foldl_still
      | apply foldl_still1 | apply foldl_still2 | apply State.hostData_still_of | apply State.foldBurst_still_of
      | apply State.askBurst_still_of | simp only [State.still_mk] | split | dsimp only

theorem State.completeItem_still_of {s₀ s : State} (hk : s.still = s₀.still) (x : FabItem) (corrected : Bool) :
    (State.completeItem s x corrected).still = s₀.still := by
  unfold State.completeItem
  try dsimp only
  with_reducible
    repeat'
      first
      | assumption | intro u | apply ite_still | apply ite_still1 | apply ite_still2 | apply foldl_still
      | apply foldl_still1 | apply foldl_still2 | apply State.dropItem_still_of | apply State.countDone_still_of
      | apply State.moveData_still_of | apply State.afterService_still_of | apply State.noteCorrected_still_of
      | apply State.deliverData_still_of | simp only [State.still_mk] | split | dsimp only

theorem State.endItem_still_of {s₀ s : State} (hk : s.still = s₀.still) (x : FabItem) (result : MemEnd) :
    (State.endItem s x result).still = s₀.still := by
  unfold State.endItem
  try dsimp only
  with_reducible
    repeat'
      first
      | assumption | intro u | apply ite_still | apply ite_still1 | apply ite_still2 | apply foldl_still
      | apply foldl_still1 | apply foldl_still2 | apply State.completeItem_still_of | apply State.dropItem_still_of
      | apply State.refuseRequest_still_of | apply State.abortRead_still_of | apply State.draw_still_of
      | apply State.afterService_still_of | apply State.readError_still_of | simp only [State.still_mk] | split
      | dsimp only

theorem State.timeOut_still_of {s₀ s : State} (hk : s.still = s₀.still) (x : FabItem) :
    (State.timeOut s x).still = s₀.still := by
  unfold State.timeOut
  try dsimp only
  with_reducible
    repeat'
      first
      | assumption | intro u | apply ite_still | apply ite_still1 | apply ite_still2 | apply foldl_still
      | apply foldl_still1 | apply foldl_still2 | apply State.dropItem_still_of | apply State.refuseAccess_still_of
      | apply State.recordLimited_still_of | apply State.loseRequest_still_of | apply State.abortRead_still_of
      | simp only [State.still_mk] | split | dsimp only

theorem State.beginScan_still_of {s₀ s : State} (hk : s.still = s₀.still) (u : Nat) (fresh : Bool) :
    (State.beginScan s u fresh).1.still = s₀.still := by
  unfold State.beginScan
  try dsimp only
  with_reducible
    repeat'
      first
      | assumption | intro u | apply ite_still | apply ite_still1 | apply ite_still2 | apply foldl_still
      | apply foldl_still1 | apply foldl_still2 | apply State.setReg_still_of | apply State.setScan_still_of
      | apply State.takeRef_still_of | apply State.askBurst_still_of | simp only [State.still_mk] | split
      | dsimp only

theorem State.resumeScan_still_of {s₀ s : State} (hk : s.still = s₀.still) (u : Nat) :
    (State.resumeScan s u).1.still = s₀.still := by
  unfold State.resumeScan
  try dsimp only
  with_reducible
    repeat'
      first
      | assumption | intro u | apply ite_still | apply ite_still1 | apply ite_still2 | apply foldl_still
      | apply foldl_still1 | apply foldl_still2 | apply State.takeRef_still_of | apply State.setReg_still_of
      | apply State.askBurst_still_of | simp only [State.still_mk] | split | dsimp only

theorem scanControlOp_still_of {s₀ s : State} (hk : s.still = s₀.still)  (ss i : Nat) (v : Val) :
    (scanControlOp  s ss i v).1.still = s₀.still := by
  unfold scanControlOp
  try dsimp only
  with_reducible
    repeat'
      first
      | assumption | intro u | apply ite_still | apply ite_still1 | apply ite_still2 | apply foldl_still
      | apply foldl_still1 | apply foldl_still2 | apply State.resumeScan_still_of | apply State.beginScan_still_of
      | apply State.setScan_still_of | simp only [State.still_mk] | split | dsimp only

theorem State.closeSessions_still_of {s₀ s : State} (hk : s.still = s₀.still) (which : Session → Bool) :
    (State.closeSessions s which).still = s₀.still := by
  unfold State.closeSessions
  try dsimp only
  with_reducible
    repeat'
      first
      | assumption | intro u | apply ite_still | apply ite_still1 | apply ite_still2 | apply foldl_still
      | apply foldl_still1 | apply foldl_still2 | simp only [State.still_mk] | split | dsimp only

theorem State.closePcie_still_of {s₀ s : State} (hk : s.still = s₀.still)  :
    (State.closePcie s).still = s₀.still := by
  unfold State.closePcie
  try dsimp only
  with_reducible
    repeat'
      first
      | assumption | intro u | apply ite_still | apply ite_still1 | apply ite_still2 | apply foldl_still
      | apply foldl_still1 | apply foldl_still2 | apply State.closeSessions_still_of | simp only [State.still_mk]
      | split | dsimp only

theorem State.clearReady_still_of {s₀ s : State} (hk : s.still = s₀.still) (bit : Nat) :
    (State.clearReady s bit).still = s₀.still := by
  unfold State.clearReady
  try dsimp only
  with_reducible
    repeat'
      first
      | assumption | intro u | apply ite_still | apply ite_still1 | apply ite_still2 | apply foldl_still
      | apply foldl_still1 | apply foldl_still2 | apply State.setReg_still_of | simp only [State.still_mk] | split
      | dsimp only

theorem State.clearCrucible_still_of {s₀ s : State} (hk : s.still = s₀.still)  :
    (State.clearCrucible s).still = s₀.still := by
  unfold State.clearCrucible
  try dsimp only
  with_reducible
    repeat'
      first
      | assumption | intro u | apply ite_still | apply ite_still1 | apply ite_still2 | apply foldl_still
      | apply foldl_still1 | apply foldl_still2 | simp only [State.still_mk] | split | dsimp only

theorem State.setBanks_still_of {s₀ s : State} (hk : s.still = s₀.still) (st : Nat) :
    (State.setBanks s st).still = s₀.still := by
  unfold State.setBanks
  try dsimp only
  with_reducible
    repeat'
      first
      | assumption | intro u | apply ite_still | apply ite_still1 | apply ite_still2 | apply foldl_still
      | apply foldl_still1 | apply foldl_still2 | apply State.setReg_still_of | apply State.advanceEpoch_still_of
      | simp only [State.still_mk] | split | dsimp only

theorem State.serveEthernet_still_of {s₀ s : State} (hk : s.still = s₀.still)  :
    (State.serveEthernet s).still = s₀.still := by
  unfold State.serveEthernet
  try dsimp only
  with_reducible
    repeat'
      first
      | assumption | intro u | apply ite_still | apply ite_still1 | apply ite_still2 | apply foldl_still
      | apply foldl_still1 | apply foldl_still2 | apply State.setReady_still_of | simp only [State.still_mk]
      | split | dsimp only

theorem State.domainUp_still_of {s₀ s : State} (hk : s.still = s₀.still) (d : Nat) :
    (State.domainUp s d).still = s₀.still := by
  unfold State.domainUp
  try dsimp only
  with_reducible
    repeat'
      first
      | assumption | intro u | apply ite_still | apply ite_still1 | apply ite_still2 | apply foldl_still
      | apply foldl_still1 | apply foldl_still2 | apply State.record_still_of | apply State.serveEthernet_still_of
      | apply State.setReg_still_of | apply State.setChan_still_of | apply State.tryStartPort_still_of
      | apply State.setReady_still_of | apply State.setBanks_still_of | simp only [State.still_mk] | split
      | dsimp only

theorem State.domainDown_still_of {s₀ s : State} (hk : s.still = s₀.still) (d : Nat) :
    (State.domainDown s d).still = s₀.still := by
  unfold State.domainDown
  try dsimp only
  with_reducible
    repeat'
      first
      | assumption | intro u | apply ite_still | apply ite_still1 | apply ite_still2 | apply foldl_still
      | apply foldl_still1 | apply foldl_still2 | apply State.setReg_still_of | apply State.clearReady_still_of
      | apply State.clearCrucible_still_of | apply State.setBanks_still_of | simp only [State.still_mk] | split
      | dsimp only

theorem State.losePortClock_still_of {s₀ s : State} (hk : s.still = s₀.still) (p : Nat) :
    (State.losePortClock s p).still = s₀.still := by
  unfold State.losePortClock
  try dsimp only
  with_reducible
    repeat'
      first
      | assumption | intro u | apply ite_still | apply ite_still1 | apply ite_still2 | apply foldl_still
      | apply foldl_still1 | apply foldl_still2 | apply State.record_still_of | simp only [State.still_mk] | split
      | dsimp only

theorem State.strikeDomain_still_of {s₀ s : State} (hk : s.still = s₀.still) (d : Nat) :
    (State.strikeDomain s d).still = s₀.still := by
  unfold State.strikeDomain
  try dsimp only
  with_reducible
    repeat'
      first
      | assumption | intro u | apply ite_still | apply ite_still1 | apply ite_still2 | apply foldl_still
      | apply foldl_still1 | apply foldl_still2 | apply State.strikeRunning_still_of | apply State.strike_still_of
      | apply State.restartPlacing_still_of | simp only [State.still_mk] | split | dsimp only

theorem State.domainLost_still_of {s₀ s0 : State} (hk : s0.still = s₀.still) (d : Nat) (c : Code) :
    (State.domainLost s0 d c).still = s₀.still := by
  unfold State.domainLost
  try dsimp only
  with_reducible
    repeat'
      first
      | assumption | intro u | apply ite_still | apply ite_still1 | apply ite_still2 | apply foldl_still
      | apply foldl_still1 | apply foldl_still2 | apply State.strikeDomain_still_of
      | apply State.clearReady_still_of | apply State.setReg_still_of | apply State.settleDram_still_of
      | apply State.losePortClock_still_of | apply State.portDown_still_of | apply State.closePcie_still_of
      | apply State.clearCrucible_still_of | apply State.setBanks_still_of | simp only [State.still_mk] | split
      | dsimp only

theorem State.failFunctions_still_of {s₀ s : State} (hk : s.still = s₀.still) (d : Nat) (c : Code) :
    (State.failFunctions s d c).still = s₀.still := by
  unfold State.failFunctions
  try dsimp only
  with_reducible
    repeat'
      first
      | assumption | intro u | apply ite_still | apply ite_still1 | apply ite_still2 | apply foldl_still
      | apply foldl_still1 | apply foldl_still2 | apply State.setFailed_still_of | simp only [State.still_mk]
      | split | dsimp only

theorem State.failDomain_still_of {s₀ s : State} (hk : s.still = s₀.still) (d : Nat) (c : Code) :
    (State.failDomain s d c).still = s₀.still := by
  unfold State.failDomain
  try dsimp only
  with_reducible
    repeat'
      first
      | assumption | intro u | apply ite_still | apply ite_still1 | apply ite_still2 | apply foldl_still
      | apply foldl_still1 | apply foldl_still2 | apply State.setReg_still_of | apply State.record_still_of
      | apply State.failFunctions_still_of | apply State.domainLost_still_of | apply State.advanceEpoch_still_of
      | apply State.triggerReplan_still_of | simp only [State.still_mk] | split | dsimp only

theorem forceOnOp_still_of {s₀ s : State} (hk : s.still = s₀.still)  (ss i : Nat) (v : Val) :
    (forceOnOp  s ss i v).1.still = s₀.still := by
  unfold forceOnOp
  try dsimp only
  with_reducible
    repeat'
      first
      | assumption | intro u | apply ite_still | apply ite_still1 | apply ite_still2 | apply foldl_still
      | apply foldl_still1 | apply foldl_still2 | apply State.setReg_still_of | apply State.settlePower_still_of
      | simp only [State.still_mk] | split | dsimp only

theorem State.endSwap_still_of {s₀ s : State} (hk : s.still = s₀.still)  :
    (State.endSwap s).still = s₀.still := by
  unfold State.endSwap
  try dsimp only
  with_reducible
    repeat'
      first
      | assumption | intro u | apply ite_still | apply ite_still1 | apply ite_still2 | apply foldl_still
      | apply foldl_still1 | apply foldl_still2 | simp only [State.still_mk] | split | dsimp only

theorem State.noteSlot_still_of {s₀ s : State} (hk : s.still = s₀.still) (event : Nat) (c : Code) (k : Nat) :
    (State.noteSlot s event c k).still = s₀.still := by
  unfold State.noteSlot
  try dsimp only
  with_reducible
    repeat'
      first
      | assumption | intro u | apply ite_still | apply ite_still1 | apply ite_still2 | apply foldl_still
      | apply foldl_still1 | apply foldl_still2 | apply State.record_still_of | simp only [State.still_mk] | split
      | dsimp only

theorem State.startSlot_still_of {s₀ s : State} (hk : s.still = s₀.still) (k : Nat) :
    (State.startSlot s k).still = s₀.still := by
  unfold State.startSlot
  try dsimp only
  with_reducible
    repeat'
      first
      | assumption | intro u | apply ite_still | apply ite_still1 | apply ite_still2 | apply foldl_still
      | apply foldl_still1 | apply foldl_still2 | apply State.setReg_still_of | simp only [State.still_mk] | split
      | dsimp only

theorem State.loadSaved_still_of {s₀ s : State} (whole : State) (h : s.still = s₀.still) (slot : Nat) (v : Val) :
    (State.loadSaved whole s slot v).still = s₀.still := by
  unfold State.loadSaved
  dsimp only
  split
  · exact h
  · split
    · exact State.record_still_of h _ _ _ _ _
    · split
      · exact State.setShadow_still_of h _ _ _
      · split
        · exact State.setActive_still_of h _ _ _
        · exact State.setActive_still_of h _ _ _

theorem State.loadStore_still_of {s₀ s : State} (hk : s.still = s₀.still)  :
    (State.loadStore s).still = s₀.still := by
  unfold State.loadStore
  try dsimp only
  with_reducible
    repeat'
      first
      | assumption | intro u | apply ite_still | apply ite_still1 | apply ite_still2 | apply foldl_still
      | apply foldl_still1 | apply foldl_still2 | apply State.setReg_still_of | apply State.setBlob_still_of
      | apply State.loadSaved_still_of | apply State.setPairState_still_of | simp only [State.still_mk] | split
      | dsimp only

theorem State.romStart_still_of {s₀ s : State} (hk : s.still = s₀.still) (want : Nat) :
    (State.romStart s want).still = s₀.still := by
  unfold State.romStart
  try dsimp only
  with_reducible
    repeat'
      first
      | assumption | intro u | apply ite_still | apply ite_still1 | apply ite_still2 | apply foldl_still
      | apply foldl_still1 | apply foldl_still2 | apply State.startSlot_still_of | apply State.noteSlot_still_of
      | apply State.endSwap_still_of | simp only [State.still_mk] | split | dsimp only

theorem State.loadMemory_still_of {s₀ s : State} (hk : s.still = s₀.still)  :
    (State.loadMemory s).still = s₀.still := by
  unfold State.loadMemory
  try dsimp only
  with_reducible
    repeat'
      first
      | assumption | intro u | apply ite_still | apply ite_still1 | apply ite_still2 | apply foldl_still
      | apply foldl_still1 | apply foldl_still2 | apply State.setReg_still_of | simp only [State.still_mk] | split
      | dsimp only

theorem State.servePaths_still_of {s₀ s : State} (hk : s.still = s₀.still)  :
    (State.servePaths s).still = s₀.still := by
  unfold State.servePaths
  try dsimp only
  with_reducible
    repeat'
      first
      | assumption | intro u | apply ite_still | apply ite_still1 | apply ite_still2 | apply foldl_still
      | apply foldl_still1 | apply foldl_still2 | apply State.setReady_still_of
      | apply State.serveEthernet_still_of | apply State.record_still_of | apply State.lockTime_still_of
      | apply State.serveWaiting_still_of | simp only [State.still_mk] | split | dsimp only

theorem State.failSwap_still_of {s₀ s : State} (hk : s.still = s₀.still) (h : HandOff) :
    (State.failSwap s h).still = s₀.still := by
  unfold State.failSwap
  try dsimp only
  with_reducible
    repeat'
      first
      | assumption | intro u | apply ite_still | apply ite_still1 | apply ite_still2 | apply foldl_still
      | apply foldl_still1 | apply foldl_still2 | apply State.noteSlot_still_of | apply State.romStart_still_of
      | simp only [State.still_mk] | split | dsimp only

theorem State.mainLoop_still_of {s₀ s : State} (hk : s.still = s₀.still) (handOffRead : Bool) :
    (State.mainLoop s handOffRead).still = s₀.still := by
  unfold State.mainLoop
  try dsimp only
  with_reducible
    repeat'
      first
      | assumption | intro u | apply ite_still | apply ite_still1 | apply ite_still2 | apply foldl_still
      | apply foldl_still1 | apply foldl_still2 | apply State.endSwap_still_of | apply State.servePaths_still_of
      | apply State.failSwap_still_of | apply State.setReg_still_of | apply State.noteSlot_still_of
      | simp only [State.still_mk] | split | dsimp only

theorem imageChunkOp_still_of {s₀ s : State} (hk : s.still = s₀.still)  (ss i : Nat) (v : Val) :
    (imageChunkOp  s ss i v).1.still = s₀.still := by
  unfold imageChunkOp
  try dsimp only
  with_reducible
    repeat'
      first
      | assumption | intro u | apply ite_still | apply ite_still1 | apply ite_still2 | apply foldl_still
      | apply foldl_still1 | apply foldl_still2 | apply State.setReg_still_of | simp only [State.still_mk] | split
      | dsimp only

theorem verifySlotOp_still_of {s₀ s : State} (hk : s.still = s₀.still)  (ss i : Nat) (v : Val) :
    (verifySlotOp  s ss i v).1.still = s₀.still := by
  unfold verifySlotOp
  try dsimp only
  with_reducible
    repeat'
      first
      | assumption | intro u | apply ite_still | apply ite_still1 | apply ite_still2 | apply foldl_still
      | apply foldl_still1 | apply foldl_still2 | apply State.setReg_still_of | simp only [State.still_mk] | split
      | dsimp only

theorem State.enterResync_still_of {s₀ s : State} (hk : s.still = s₀.still)  :
    (State.enterResync s).still = s₀.still := by
  unfold State.enterResync
  try dsimp only
  with_reducible
    repeat'
      first
      | assumption | intro u | apply ite_still | apply ite_still1 | apply ite_still2 | apply foldl_still
      | apply foldl_still1 | apply foldl_still2 | apply State.setPairState_still_of | simp only [State.still_mk]
      | split | dsimp only

theorem State.parkPort_still_of {s₀ s : State} (hk : s.still = s₀.still) (p : Nat) :
    (State.parkPort s p).still = s₀.still := by
  unfold State.parkPort
  try dsimp only
  with_reducible
    repeat'
      first
      | assumption | intro u | apply ite_still | apply ite_still1 | apply ite_still2 | apply foldl_still
      | apply foldl_still1 | apply foldl_still2 | apply State.setPort_still_of | simp only [State.still_mk] | split
      | dsimp only

theorem State.fencePort_still_of {s₀ s : State} (hk : s.still = s₀.still) (p : Nat) :
    (State.fencePort s p).still = s₀.still := by
  unfold State.fencePort
  try dsimp only
  with_reducible
    repeat'
      first
      | assumption | intro u | apply ite_still | apply ite_still1 | apply ite_still2 | apply foldl_still
      | apply foldl_still1 | apply foldl_still2 | apply State.setPort_still_of | apply State.parkPort_still_of
      | simp only [State.still_mk] | split | dsimp only

theorem State.notePartner_still_of {s₀ s : State} (hk : s.still = s₀.still) (now : Nat) :
    (State.notePartner s now).still = s₀.still := by
  unfold State.notePartner
  try dsimp only
  with_reducible
    repeat'
      first
      | assumption | intro u | apply ite_still | apply ite_still1 | apply ite_still2 | apply foldl_still
      | apply foldl_still1 | apply foldl_still2 | apply State.setReg_still_of | apply State.setPairState_still_of
      | apply State.pushAll_still_of | simp only [State.still_mk] | split | dsimp only

theorem State.setSection_still_of {s₀ s : State} (hk : s.still = s₀.still) (copy : Nat) (k : Nat) (x : Section') :
    (State.setSection s copy k x).still = s₀.still := by
  unfold State.setSection
  try dsimp only
  with_reducible
    repeat'
      first
      | assumption | intro u | apply ite_still | apply ite_still1 | apply ite_still2 | apply foldl_still
      | apply foldl_still1 | apply foldl_still2 | simp only [State.still_mk] | split | dsimp only

theorem State.bellowsError_still_of {s₀ s : State} (hk : s.still = s₀.still)  :
    (State.bellowsError s).still = s₀.still := by
  unfold State.bellowsError
  try dsimp only
  with_reducible
    repeat'
      first
      | assumption | intro u | apply ite_still | apply ite_still1 | apply ite_still2 | apply foldl_still
      | apply foldl_still1 | apply foldl_still2 | apply State.bump_still_of | apply State.recordLimited_still_of
      | simp only [State.still_mk] | split | dsimp only

theorem State.onBellows_still_of {s₀ s : State} (hk : s.still = s₀.still) (frame : Bytes) (type : Nat) (f : State → State) (hf : ∀ u, u.still = s₀.still → (f u).still = s₀.still) :
    (State.onBellows s frame type f).still = s₀.still := by
  unfold State.onBellows
  try dsimp only
  with_reducible
    repeat'
      first
      | assumption | intro u | apply ite_still | apply ite_still1 | apply ite_still2 | apply foldl_still
      | apply foldl_still1 | apply foldl_still2 | apply hf | apply State.bellowsError_still_of
      | simp only [State.still_mk] | split | dsimp only

theorem State.takeSection_still_of {s₀ s : State} (hk : s.still = s₀.still) (frame : Bytes) :
    (State.takeSection s frame).still = s₀.still := by
  unfold State.takeSection
  try dsimp only
  with_reducible
    repeat'
      first
      | assumption | intro u | apply ite_still | apply ite_still1 | apply ite_still2 | apply foldl_still
      | apply foldl_still1 | apply foldl_still2 | apply State.setSection_still_of | simp only [State.still_mk]
      | split | dsimp only

theorem State.selectHeader_still_of {s₀ s : State} (hk : s.still = s₀.still)  :
    (State.selectHeader s).still = s₀.still := by
  unfold State.selectHeader
  try dsimp only
  with_reducible
    repeat'
      first
      | assumption | intro u | apply ite_still | apply ite_still1 | apply ite_still2 | apply foldl_still
      | apply foldl_still1 | apply foldl_still2 | simp only [State.still_mk] | split | dsimp only

theorem State.takeCommitFrame_still_of {s₀ s : State} (hk : s.still = s₀.still) (frame : Bytes) :
    (State.takeCommitFrame s frame).still = s₀.still := by
  unfold State.takeCommitFrame
  try dsimp only
  with_reducible
    repeat'
      first
      | assumption | intro u | apply ite_still | apply ite_still1 | apply ite_still2 | apply foldl_still
      | apply foldl_still1 | apply foldl_still2 | apply State.setReg_still_of | simp only [State.still_mk] | split
      | dsimp only

theorem State.takeTimeFrame_still_of {s₀ s : State} (hk : s.still = s₀.still) (frame : Bytes) :
    (State.takeTimeFrame s frame).still = s₀.still := by
  unfold State.takeTimeFrame
  try dsimp only
  with_reducible
    repeat'
      first
      | assumption | intro u | apply ite_still | apply ite_still1 | apply ite_still2 | apply foldl_still
      | apply foldl_still1 | apply foldl_still2 | apply State.draw_still_of | simp only [State.still_mk] | split
      | dsimp only

theorem State.imageLedger_still_of {s₀ s : State} (hk : s.still = s₀.still)  :
    (State.imageLedger s).still = s₀.still := by
  unfold State.imageLedger
  try dsimp only
  with_reducible
    repeat'
      first
      | assumption | intro u | apply ite_still | apply ite_still1 | apply ite_still2 | apply foldl_still
      | apply foldl_still1 | apply foldl_still2 | simp only [State.still_mk] | split | dsimp only

theorem State.installLedger_still_of {s₀ s : State} (hk : s.still = s₀.still)  :
    (State.installLedger s).still = s₀.still := by
  unfold State.installLedger
  try dsimp only
  with_reducible
    repeat'
      first
      | assumption | intro u | apply ite_still | apply ite_still1 | apply ite_still2 | apply foldl_still
      | apply foldl_still1 | apply foldl_still2 | apply State.imageLedger_still_of | apply timeSourceOp_still_of
      | apply State.setReg_still_of | simp only [State.still_mk] | split | dsimp only

theorem State.imageConfig_still_of {s₀ s : State} (hk : s.still = s₀.still)  :
    (State.imageConfig s).still = s₀.still := by
  unfold State.imageConfig
  try dsimp only
  with_reducible
    repeat'
      first
      | assumption | intro u | apply ite_still | apply ite_still1 | apply ite_still2 | apply foldl_still
      | apply foldl_still1 | apply foldl_still2 | apply State.imageLedger_still_of
      | apply State.configPlan_still_of | simp only [State.still_mk] | split | dsimp only

theorem State.adoptPorts_still_of {s₀ s : State} (hk : s.still = s₀.still)  :
    (State.adoptPorts s).still = s₀.still := by
  unfold State.adoptPorts
  try dsimp only
  with_reducible
    repeat'
      first
      | assumption | intro u | apply ite_still | apply ite_still1 | apply ite_still2 | apply foldl_still
      | apply foldl_still1 | apply foldl_still2 | apply State.imageConfig_still_of
      | apply State.tryStartPort_still_of | apply State.setFlag_still_of | apply State.settlePower_still_of
      | simp only [State.still_mk] | split | dsimp only

theorem State.seedTime_still_of {s₀ s : State} (hk : s.still = s₀.still) (hearthTicks : Nat) :
    (State.seedTime s hearthTicks).still = s₀.still := by
  unfold State.seedTime
  try dsimp only
  with_reducible
    repeat'
      first
      | assumption | intro u | apply ite_still | apply ite_still1 | apply ite_still2 | apply foldl_still
      | apply foldl_still1 | apply foldl_still2 | apply State.draw_still_of | apply State.setReg_still_of
      | apply State.setRegI_still_of | apply State.record_still_of | simp only [State.still_mk] | split
      | dsimp only

theorem State.dropVolatile_still_of {s₀ s : State} (hk : s.still = s₀.still)  :
    (State.dropVolatile s).still = s₀.still := by
  unfold State.dropVolatile
  try dsimp only
  with_reducible
    repeat'
      first
      | assumption | intro u | apply ite_still | apply ite_still1 | apply ite_still2 | apply foldl_still
      | apply foldl_still1 | apply foldl_still2 | apply State.closeSessions_still_of | simp only [State.still_mk]
      | split | dsimp only

theorem State.installViews_still_of {s₀ s : State} (hk : s.still = s₀.still)  :
    (State.installViews s).still = s₀.still := by
  unfold State.installViews
  try dsimp only
  with_reducible
    repeat'
      first
      | assumption | intro u | apply ite_still | apply ite_still1 | apply ite_still2 | apply foldl_still
      | apply foldl_still1 | apply foldl_still2 | simp only [State.still_mk] | split | dsimp only

theorem State.faultOutputs_still_of {s₀ s : State} (hk : s.still = s₀.still)  :
    (State.faultOutputs s).still = s₀.still := by
  unfold State.faultOutputs
  try dsimp only
  with_reducible
    repeat'
      first
      | assumption | intro u | apply ite_still | apply ite_still1 | apply ite_still2 | apply foldl_still
      | apply foldl_still1 | apply foldl_still2 | apply State.setOutput_still_of | simp only [State.still_mk]
      | split | dsimp only

theorem State.waitOutputs_still_of {s₀ s : State} (hk : s.still = s₀.still)  :
    (State.waitOutputs s).still = s₀.still := by
  unfold State.waitOutputs
  try dsimp only
  with_reducible
    repeat'
      first
      | assumption | intro u | apply ite_still | apply ite_still1 | apply ite_still2 | apply foldl_still
      | apply foldl_still1 | apply foldl_still2 | apply State.setOutput_still_of | simp only [State.still_mk]
      | split | dsimp only

theorem State.restorePort_still_of {s₀ s : State} (hk : s.still = s₀.still) (p : Nat) :
    (State.restorePort s p).still = s₀.still := by
  unfold State.restorePort
  try dsimp only
  with_reducible
    repeat'
      first
      | assumption | intro u | apply ite_still | apply ite_still1 | apply ite_still2 | apply foldl_still
      | apply foldl_still1 | apply foldl_still2 | apply State.setReg_still_of | apply State.setLane_still_of
      | apply State.setPort_still_of | simp only [State.still_mk] | split | dsimp only

theorem State.trainedRecord_still_of {s₀ s : State} (hk : s.still = s₀.still) (c : Nat) :
    (State.trainedRecord s c).2.still = s₀.still := by
  unfold State.trainedRecord
  try dsimp only
  with_reducible
    repeat'
      first
      | assumption | intro u | apply ite_still | apply ite_still1 | apply ite_still2 | apply foldl_still
      | apply foldl_still1 | apply foldl_still2 | apply State.draw_still_of | simp only [State.still_mk] | split
      | dsimp only

theorem State.writeOwn_still_of {s₀ s : State} (hk : s.still = s₀.still) (ports : List Nat) :
    (State.writeOwn s ports).still = s₀.still := by
  unfold State.writeOwn
  try dsimp only
  with_reducible
    repeat'
      first
      | assumption | intro u | apply ite_still | apply ite_still1 | apply ite_still2 | apply foldl_still
      | apply foldl_still1 | apply foldl_still2 | apply State.trainedRecord_still_of | simp only [State.still_mk]
      | split | dsimp only

theorem State.unparkPorts_still_of {s₀ s : State} (hk : s.still = s₀.still)  :
    (State.unparkPorts s).still = s₀.still := by
  unfold State.unparkPorts
  try dsimp only
  with_reducible
    repeat'
      first
      | assumption | intro u | apply ite_still | apply ite_still1 | apply ite_still2 | apply foldl_still
      | apply foldl_still1 | apply foldl_still2 | apply State.setPort_still_of | apply State.restorePort_still_of
      | apply State.leaveBanked_still_of | apply State.tryStartPort_still_of | simp only [State.still_mk] | split
      | dsimp only

theorem State.installImage_still_of {s₀ s : State} (hk : s.still = s₀.still)  :
    (State.installImage s).still = s₀.still := by
  unfold State.installImage
  try dsimp only
  with_reducible
    repeat'
      first
      | assumption | intro u | apply ite_still | apply ite_still1 | apply ite_still2 | apply foldl_still
      | apply foldl_still1 | apply foldl_still2 | apply State.applyEnables_still_of
      | apply State.faultOutputs_still_of | apply State.record_still_of | apply State.enterActive_still_of
      | apply State.installLedger_still_of | apply State.installViews_still_of | apply State.configPlan_still_of
      | apply State.installPlan_still_of | apply State.waitOutputs_still_of | simp only [State.still_mk] | split
      | dsimp only

theorem State.logLoss_still_of {s₀ s : State} (hk : s.still = s₀.still)  :
    (State.logLoss s).still = s₀.still := by
  unfold State.logLoss
  try dsimp only
  with_reducible
    repeat'
      first
      | assumption | intro u | apply ite_still | apply ite_still1 | apply ite_still2 | apply foldl_still
      | apply foldl_still1 | apply foldl_still2 | apply State.recordAt_still_of | simp only [State.still_mk]
      | split | dsimp only

theorem handOverOp_still_of {s₀ s : State} (hk : s.still = s₀.still)  (ss i : Nat) (v : Val) :
    (handOverOp  s ss i v).1.still = s₀.still := by
  unfold handOverOp
  try dsimp only
  with_reducible
    repeat'
      first
      | assumption | intro u | apply ite_still | apply ite_still1 | apply ite_still2 | apply foldl_still
      | apply foldl_still1 | apply foldl_still2 | apply State.yieldPair_still_of | simp only [State.still_mk]
      | split | dsimp only

theorem State.fuseFailed_still_of {s₀ s : State} (hk : s.still = s₀.still) (key : Nat) :
    (State.fuseFailed s key).1.still = s₀.still := by
  unfold State.fuseFailed
  try dsimp only
  with_reducible
    repeat'
      first
      | assumption | intro u | apply ite_still | apply ite_still1 | apply ite_still2 | apply foldl_still
      | apply foldl_still1 | apply foldl_still2 | apply State.record_still_of | simp only [State.still_mk] | split
      | dsimp only

theorem trustOp_still_of {s₀ s : State} (hk : s.still = s₀.still)  (ss i : Nat) (v : Val) :
    (trustOp  s ss i v).1.still = s₀.still := by
  unfold trustOp
  try dsimp only
  with_reducible
    repeat'
      first
      | assumption | intro u | apply ite_still | apply ite_still1 | apply ite_still2 | apply foldl_still
      | apply foldl_still1 | apply foldl_still2 | apply State.setReg_still_of | apply State.startListening_still_of
      | apply State.followTimePort_still_of | simp only [State.still_mk] | split | dsimp only

theorem polarityOp_still_of {s₀ s : State} (hk : s.still = s₀.still)  (ss i : Nat) (v : Val) :
    (polarityOp  s ss i v).1.still = s₀.still := by
  unfold polarityOp
  try dsimp only
  with_reducible
    repeat'
      first
      | assumption | intro u | apply ite_still | apply ite_still1 | apply ite_still2 | apply foldl_still
      | apply foldl_still1 | apply foldl_still2 | apply State.setReg_still_of | simp only [State.still_mk] | split
      | dsimp only

theorem spareOp_still_of {s₀ s : State} (hk : s.still = s₀.still)  (ss i : Nat) (v : Val) :
    (spareOp  s ss i v).1.still = s₀.still := by
  unfold spareOp
  try dsimp only
  with_reducible
    repeat'
      first
      | assumption | intro u | apply ite_still | apply ite_still1 | apply ite_still2 | apply foldl_still
      | apply foldl_still1 | apply foldl_still2 | apply State.setReg_still_of | apply State.settlePower_still_of
      | simp only [State.still_mk] | split | dsimp only

theorem ptpPortsOp_still_of {s₀ s : State} (hk : s.still = s₀.still)  (ss i : Nat) (v : Val) :
    (ptpPortsOp  s ss i v).1.still = s₀.still := by
  unfold ptpPortsOp
  try dsimp only
  with_reducible
    repeat'
      first
      | assumption | intro u | apply ite_still | apply ite_still1 | apply ite_still2 | apply foldl_still
      | apply foldl_still1 | apply foldl_still2 | apply State.setReg_still_of | apply State.settlePower_still_of
      | simp only [State.still_mk] | split | dsimp only

theorem State.hold_still_of {s₀ s : State} (hk : s.still = s₀.still) (h : HeldWrite) :
    (State.hold s h).still = s₀.still := by
  unfold State.hold
  try dsimp only
  with_reducible
    repeat'
      first
      | assumption | intro u | apply ite_still | apply ite_still1 | apply ite_still2 | apply foldl_still
      | apply foldl_still1 | apply foldl_still2 | simp only [State.still_mk] | split | dsimp only

theorem State.newSession_still_of {s₀ s : State} (hk : s.still = s₀.still) (p : Peer) (level : Nat) (nonce : Bytes) :
    (State.newSession s p level nonce).1.still = s₀.still := by
  unfold State.newSession
  try dsimp only
  with_reducible
    repeat'
      first
      | assumption | intro u | apply ite_still | apply ite_still1 | apply ite_still2 | apply foldl_still
      | apply foldl_still1 | apply foldl_still2 | apply State.draw_still_of | apply State.drawBytes_still_of
      | simp only [State.still_mk] | split | dsimp only

theorem State.noteOpen_still_of {s₀ s : State} (hk : s.still = s₀.still) (p : Peer) (c : Code) :
    (State.noteOpen s p c).still = s₀.still := by
  unfold State.noteOpen
  try dsimp only
  with_reducible
    repeat'
      first
      | assumption | intro u | apply ite_still | apply ite_still1 | apply ite_still2 | apply foldl_still
      | apply foldl_still1 | apply foldl_still2 | apply State.bump_still_of | apply State.notePort_still_of
      | apply State.noteRefusal_still_of | simp only [State.still_mk] | split | dsimp only

theorem State.serveOpen_still_of {s₀ s : State} (hk : s.still = s₀.still) (p : Peer) (r : Req) :
    (State.serveOpen s p r).1.still = s₀.still := by
  unfold State.serveOpen
  try dsimp only
  with_reducible
    repeat'
      first
      | assumption | intro u | apply ite_still | apply ite_still1 | apply ite_still2 | apply foldl_still
      | apply foldl_still1 | apply foldl_still2 | apply State.noteOpen_still_of | apply State.newSession_still_of
      | simp only [State.still_mk] | split | dsimp only

theorem State.authFailed_still_of {s₀ s : State} (hk : s.still = s₀.still) (x : Session) (c : Code) :
    (State.authFailed s x c).still = s₀.still := by
  unfold State.authFailed
  try dsimp only
  with_reducible
    repeat'
      first
      | assumption | intro u | apply ite_still | apply ite_still1 | apply ite_still2 | apply foldl_still
      | apply foldl_still1 | apply foldl_still2 | apply State.closeSessions_still_of | apply State.bump_still_of
      | apply State.record_still_of | simp only [State.still_mk] | split | dsimp only

theorem State.serveRespond_still_of {s₀ s : State} (hk : s.still = s₀.still) (x : Session) (r : Req) :
    (State.serveRespond s x r).1.still = s₀.still := by
  unfold State.serveRespond
  try dsimp only
  with_reducible
    repeat'
      first
      | assumption | intro u | apply ite_still | apply ite_still1 | apply ite_still2 | apply foldl_still
      | apply foldl_still1 | apply foldl_still2 | apply State.authFailed_still_of | apply State.setSession_still_of
      | simp only [State.still_mk] | split | dsimp only

theorem State.takeValue_still_of {s₀ s : State} (hk : s.still = s₀.still) (x : Session) (key : Nat) (e : Entry) :
    (State.takeValue s x key e).1.still = s₀.still := by
  unfold State.takeValue
  try dsimp only
  with_reducible
    repeat'
      first
      | assumption | intro u | apply ite_still | apply ite_still1 | apply ite_still2 | apply foldl_still
      | apply foldl_still1 | apply foldl_still2 | apply State.takeKeyRecords_still_of | simp only [State.still_mk]
      | split | dsimp only

theorem State.serveRead_still_of {s₀ s : State} (hk : s.still = s₀.still) (x : Session) (r : Req) (e : Entry) :
    (State.serveRead s x r e).1.still = s₀.still := by
  unfold State.serveRead
  try dsimp only
  with_reducible
    repeat'
      first
      | assumption | intro u | apply ite_still | apply ite_still1 | apply ite_still2 | apply foldl_still
      | apply foldl_still1 | apply foldl_still2 | apply State.noteRefusal_still_of | apply State.takeValue_still_of
      | apply State.setSession_still_of | simp only [State.still_mk] | split | dsimp only

theorem State.keepResponse_still_of {s₀ s : State} (hk : s.still = s₀.still) (ss : Nat) (txn : Nat) (frame : Bytes) :
    (State.keepResponse s ss txn frame).still = s₀.still := by
  unfold State.keepResponse
  try dsimp only
  with_reducible
    repeat'
      first
      | assumption | intro u | apply ite_still | apply ite_still1 | apply ite_still2 | apply foldl_still
      | apply foldl_still1 | apply foldl_still2 | apply State.setSession_still_of | simp only [State.still_mk]
      | split | dsimp only

theorem State.deliver_still_of {s₀ s : State} (hk : s.still = s₀.still) (p : Peer) (frame : Bytes) :
    (State.deliver s p frame).still = s₀.still := by
  unfold State.deliver
  try dsimp only
  with_reducible
    repeat'
      first
      | assumption | intro u | apply ite_still | apply ite_still1 | apply ite_still2 | apply foldl_still
      | apply foldl_still1 | apply foldl_still2 | apply State.send_still_of | apply State.sendMessage_still_of
      | simp only [State.still_mk] | split | dsimp only

theorem State.setCanMsg_still_of {s₀ s : State} (hk : s.still = s₀.still) (c : Nat) (node : Nat) (m : Option CanMsg) :
    (State.setCanMsg s c node m).still = s₀.still := by
  unfold State.setCanMsg
  try dsimp only
  with_reducible
    repeat'
      first
      | assumption | intro u | apply ite_still | apply ite_still1 | apply ite_still2 | apply foldl_still
      | apply foldl_still1 | apply foldl_still2 | simp only [State.still_mk] | split | dsimp only

theorem State.dropCanMsg_still_of {s₀ s : State} (hk : s.still = s₀.still) (c : Nat) (node : Nat) (m : CanMsg) (extra : Nat) (code : Code) :
    (State.dropCanMsg s c node m extra code).still = s₀.still := by
  unfold State.dropCanMsg
  try dsimp only
  with_reducible
    repeat'
      first
      | assumption | intro u | apply ite_still | apply ite_still1 | apply ite_still2 | apply foldl_still
      | apply foldl_still1 | apply foldl_still2 | apply State.setCanMsg_still_of | apply State.bumpBy_still_of
      | apply State.deliver_still_of | simp only [State.still_mk] | split | dsimp only

theorem State.admitDatagram_still_of {s₀ s : State} (hk : s.still = s₀.still) : (State.admitDatagram s).1.still = s₀.still := by
  obtain ⟨w, b, h⟩ : ∃ w b, s.admitDatagram = ({ s with acc := { s.acc with udpWindow := w } }, b) := by
    unfold State.admitDatagram; exact ⟨_, _, rfl⟩
  rw [h]
  exact hk

theorem State.setMailbox_still_of {s₀ s : State} (hk : s.still = s₀.still) (m : Nat) (status : Nat) (reply : Bytes) :
    (State.setMailbox s m status reply).still = s₀.still := by
  unfold State.setMailbox
  try dsimp only
  with_reducible
    repeat'
      first
      | assumption | intro u | apply ite_still | apply ite_still1 | apply ite_still2 | apply foldl_still
      | apply foldl_still1 | apply foldl_still2 | apply State.reply_still_of | simp only [State.still_mk] | split
      | dsimp only

theorem State.fillBuffer_still_of {s₀ s : State} (hk : s.still = s₀.still) (m : Nat) (off : Nat) (bs : Bytes) :
    (State.fillBuffer s m off bs).still = s₀.still := by
  unfold State.fillBuffer
  try dsimp only
  with_reducible
    repeat'
      first
      | assumption | intro u | apply ite_still | apply ite_still1 | apply ite_still2 | apply foldl_still
      | apply foldl_still1 | apply foldl_still2 | simp only [State.still_mk] | split | dsimp only

theorem State.freeMailbox_still_of {s₀ s : State} (hk : s.still = s₀.still) (m : Nat) :
    (State.freeMailbox s m).still = s₀.still := by
  unfold State.freeMailbox
  try dsimp only
  with_reducible
    repeat'
      first
      | assumption | intro u | apply ite_still | apply ite_still1 | apply ite_still2 | apply foldl_still
      | apply foldl_still1 | apply foldl_still2 | apply State.setMailbox_still_of | simp only [State.still_mk]
      | split | dsimp only

theorem State.discardWrite_still_of {s₀ s : State} (hk : s.still = s₀.still) (a : Nat) (i : Nat) (requester : BitVec 16) :
    (State.discardWrite s a i requester).still = s₀.still := by
  unfold State.discardWrite
  try dsimp only
  with_reducible
    repeat'
      first
      | assumption | intro u | apply ite_still | apply ite_still1 | apply ite_still2 | apply foldl_still
      | apply foldl_still1 | apply foldl_still2 | apply State.bump_still_of | apply State.setReg_still_of
      | apply State.recordEvery_still_of | simp only [State.still_mk] | split | dsimp only

theorem State.hostStore_still_of {s₀ s : State} (hk : s.still = s₀.still) (tag : Nat) (a : Nat) (data : Bytes) :
    (State.hostStore s tag a data).still = s₀.still := by
  unfold State.hostStore
  try dsimp only
  with_reducible
    repeat'
      first
      | assumption | intro u | apply ite_still | apply ite_still1 | apply ite_still2 | apply foldl_still
      | apply foldl_still1 | apply foldl_still2 | apply State.present_still_of | simp only [State.still_mk] | split
      | dsimp only

theorem State.hostLoad_still_of {s₀ s : State} (hk : s.still = s₀.still) (tag : Nat) (a : Nat) (len : Nat) :
    (State.hostLoad s tag a len).still = s₀.still := by
  unfold State.hostLoad
  try dsimp only
  with_reducible
    repeat'
      first
      | assumption | intro u | apply ite_still | apply ite_still1 | apply ite_still2 | apply foldl_still
      | apply foldl_still1 | apply foldl_still2 | apply State.send_still_of | apply State.present_still_of
      | simp only [State.still_mk] | split | dsimp only

theorem State.setBar0Byte_still_of {s₀ s : State} (hk : s.still = s₀.still) (o : Nat) (b : Byte) :
    (State.setBar0Byte s o b).still = s₀.still := by
  unfold State.setBar0Byte
  try dsimp only
  with_reducible
    repeat'
      first
      | assumption | intro u | apply ite_still | apply ite_still1 | apply ite_still2 | apply foldl_still
      | apply foldl_still1 | apply foldl_still2 | apply State.fillBuffer_still_of | simp only [State.still_mk]
      | split | dsimp only

theorem State.takeWallMessage_still_of {s₀ s : State} (hk : s.still = s₀.still) (p : Nat) (b : Bytes) :
    (State.takeWallMessage s p b).still = s₀.still := by
  unfold State.takeWallMessage
  try dsimp only
  with_reducible
    repeat'
      first
      | assumption | intro u | apply ite_still | apply ite_still1 | apply ite_still2 | apply foldl_still
      | apply foldl_still1 | apply foldl_still2 | apply State.takePrepare_still_of | apply State.takeReady_still_of
      | apply State.takeRefuse_still_of | apply State.takeGo_still_of | apply State.takeAbort_still_of
      | apply State.takeApplied_still_of | simp only [State.still_mk] | split | dsimp only

theorem State.raiseDue_still_of {s₀ s : State} (hk : s.still = s₀.still)  :
    (State.raiseDue s).still = s₀.still := by
  unfold State.raiseDue
  try dsimp only
  with_reducible
    repeat'
      first
      | assumption | intro u | apply ite_still | apply ite_still1 | apply ite_still2 | apply foldl_still
      | apply foldl_still1 | apply foldl_still2 | apply State.send_still_of | simp only [State.still_mk] | split
      | dsimp only

theorem State.laneTicks_still_of {s₀ s : State} (hk : s.still = s₀.still)  :
    (State.laneTicks s).still = s₀.still := by
  unfold State.laneTicks
  try dsimp only
  with_reducible
    repeat'
      first
      | assumption | intro u | apply ite_still | apply ite_still1 | apply ite_still2 | apply foldl_still
      | apply foldl_still1 | apply foldl_still2 | apply State.laneTick_still_of | simp only [State.still_mk]
      | split | dsimp only

theorem State.drainPorts_still_of {s₀ s : State} (hk : s.still = s₀.still)  :
    (State.drainPorts s).still = s₀.still := by
  unfold State.drainPorts
  try dsimp only
  with_reducible
    repeat'
      first
      | assumption | intro u | apply ite_still | apply ite_still1 | apply ite_still2 | apply foldl_still
      | apply foldl_still1 | apply foldl_still2 | apply State.drainEther_still_of | simp only [State.still_mk]
      | split | dsimp only

theorem State.tick_still_of {s₀ s : State} (hk : s.still = s₀.still)  :
    (State.tick s).still = s₀.still := by
  unfold State.tick
  try dsimp only
  with_reducible
    repeat'
      first
      | assumption | intro u | apply ite_still | apply ite_still1 | apply ite_still2 | apply foldl_still
      | apply foldl_still1 | apply foldl_still2 | apply State.raiseDue_still_of | apply State.laneTicks_still_of
      | apply State.drainPorts_still_of | simp only [State.still_mk] | split | dsimp only

end Sys2Proof.Machine
end

