-- ==== Sys2Proof/Tests/Slice0.lean ====
section
/-! SUPPORT. Tests: ill-formed commands that the check refuses, values the manual prints, a few single steps, and for every
statement with hypotheses, clause by clause, a state and operands that meet them. -/

namespace Sys2Proof.Tests

set_option Elab.async false

open Sys2Proof.Machine

/-- Registers set one after another: key, part, value. -/
def put (s : State) (l : List (Nat × Nat × Nat)) : State := l.foldl (fun t x => t.setReg x.1 x.2.1 x.2.2) s

/-- A session over PCIe at Integrator level, with its fields. -/
def sess (f : Tbl Nat) : Session := { id := 1, peer := .pcie 0, level := 2, fields := f }

/-- A device whose controller runs and every domain is on, with session 1 open. -/
def up (f : Tbl Nat) (l : List (Nat × Nat × Nat)) : State :=
  put { State.reset with
    regs := (List.range 24).map fun d => (0x6400_02 * 65536 + d, 2)
    acc := { sessions := [sess f] }, power := { mgmt := true, booted := true } } l

/-- The fields of a session whose selector names a part. -/
def sel (key v : Nat) : Tbl Nat := [(key, v)]

/-- A source of a kind: 64 by 4 pixels, with Ingots 0 and 1. -/
def src (kind : Nat) : Source :=
  { id := 1, kind := kind, fmt := 0, rate := 60000, locator := 0, width := 64, height := 4, name := [0x41], ingotCount := 2, memory := 0
    upPort := 24, upStream := 0, bases := [0x100000, 0x200000], size := 0x10000 }

/-- Ingots 0 and 1 of slot 0, the first as given. -/
def pool (g : Ingot) : Tbl Ingot :=
  [(0, { g with slot := 0, base := 0x100000, size := 0x10000 }), (1, { slot := 0, base := 0x200000, size := 0x10000 })]

/-- The device with one source in slot 0 and its first Ingot as given. -/
def fed (s : State) (kind : Nat) (g : Ingot) : State :=
  { s with sources := [(0, src kind)], slots := [(0, { set := [0, 1] })], ingots := pool g }

/-! ### Ill-formed commands -/

theorem test_wf_number_too_wide : (Instr.roleSelectWrite 0x10000 0).wf = false := by decide
theorem test_wf_key_too_wide : (Instr.registerWrite 1 0x1000000 (.num 0)).wf = false := by decide
theorem test_wf_value_too_wide : (Instr.registerWrite 1 0 (.num (2 ^ 64))).wf = false := by decide
theorem test_wf_no_can_controller : (Instr.ledgerRead (.can 2 0) {}).wf = false := by decide
theorem test_wf_request_offset : (Instr.ledgerRead (.udp 0 0) { offset := 2 ^ 32 }).wf = false := by decide
theorem test_wf_can_payload_empty : (Instr.canFrameReceive 0 0 []).wf = false := by decide
theorem test_wf_mailbox_request_too_long : (Instr.doorbell 0 (List.replicate 4097 0)).wf = false := by decide +kernel
theorem test_wf_bar_write_empty : (Instr.pcieBarWrite .bar2 0 [] 0 5).wf = false := by decide
theorem test_wf_hot_plug_lanes : (Instr.hotPlugAssert 0 0 ⟨3, false⟩ []).wf = false := by decide
theorem test_wf_training_rate : (Instr.dpTrainingDone 0 (.trained 4 1)).wf = false := by decide
theorem test_wf_wall_message_ticket :
    (Instr.prepare 0 { member := 1, ticket := 2 ^ 32, slot := 0 }).wf = false := by decide
theorem test_wf_anchor_fill : (Instr.anchorReceived 0 0 0 129 0).wf = false := by decide
theorem test_wf_fabric_address :
    (Instr.fabricRequest 0 { id := 0, write := false, address := 2 ^ 40, beats := 1, cls := 0 }).wf = false := by decide
theorem test_wf_locked_sequence_empty : (Instr.lockedSequence 0 0 0).wf = false := by decide
theorem test_wf_scrub_both : (Instr.scrubRead 0 0 true true 0).wf = false := by decide
theorem test_wf_gate_samples : (Instr.measurementGate []).wf = false := by decide
theorem test_wf_checker_bits : (Instr.testPatternCheckerLock 0 2 1).wf = false := by decide

/-! ### Words -/

/-- The table gives no row bits. -/
theorem test_no_word_spells_a_command : decodeTableWord 64 1 = none := rfl

/-! ### Values that the manual prints -/

/-- The ASCII string "123456789" of R166 and R377. -/
def digits : Bytes := [0x31, 0x32, 0x33, 0x34, 0x35, 0x36, 0x37, 0x38, 0x39]

/-- R166, R377: 0xE306_9283. -/
theorem test_crc32c_value : crc32c digits = 0xE3069283 := by decide +kernel
/-- The worked example after R385: the running value carries a scan on. -/
theorem test_crc32c_in_pieces : Nat.xor (crc32cRun (crc32cRun 0xFFFFFFFF (digits.take 5)) (digits.drop 5)) 0xFFFFFFFF = 0xE3069283 := by
  decide +kernel
/-- R377: 0xCBF4_3926. -/
theorem test_crc32_value : Nat.xor (crc32Run 0xFFFFFFFF digits) 0xFFFFFFFF = 0xCBF43926 := by decide +kernel
/-- R377: 0x29B1. -/
theorem test_crc16_value : crc16Run 0xFFFF digits = 0x29B1 := by decide +kernel
/-- R129: a two-bit alpha gives 0, 341, 682, 1023. -/
theorem test_alpha_widens : (List.range 4).map (widen 2) = [0, 341, 682, 1023] := by decide
/-- R129: every rule maps the stored maximum to 1023. -/
theorem test_maximum_widens : [widen 5 31, widen 6 63, widen 8 255, widen 10 1023] = [1023, 1023, 1023, 1023] := by decide

/-! ### Single steps -/

/-- R457: a pulse below 1 µs is filtered; one between is undefined; one of 10 µs resets. -/
theorem test_reset_pulse_filtered :
    (match step { State.reset with pending := [.sysRstN 999] } with | .next t => t.pending | _ => [.sysRstN 0]) = [] :=
        by decide +kernel
theorem test_reset_pulse_undefined :
    (match step { State.reset with pending := [.sysRstN 1000] } with | .fault .resetPulseUndefined => true | _ => false) = true :=
        by
  decide +kernel
/-- R391: forcing a domain on takes effect as a write of the entry: the register holds 1. -/
theorem test_force_on :
    (match exec (.forceOn 1 1) (up (sel 0x6400_01 23) []) with | .next t => t.reg 0x6400_04 23 | _ => 0) = 1 := by decide +kernel

/-- The device with its PCIe function out of reset. -/
def pcie (l : List (Nat × Nat × Nat)) : State := { up [] l with pins := { perstN := true } }

/-- A request of session 1. -/
def req (key : Nat) (d : Bytes) (last : Bool := true) : Req :=
  { session := 1, txn := 5, index := key / 256, sub := key % 256, flags := if last then 1 else 0, declared := d.length, data := d }

/-- A session of PCIe that waits for its tag, with Integrator key slot 0. -/
def waiting : Session := { id := 1, peer := .pcie 0, level := 2, pending := true, keySlot := some 0 }

/-- The answer to its challenge. -/
def answer : Req := { session := 1, flags := 1, declared := 32, data := hmacSha256 [7] waiting.message }

theorem answer_length : answer.data.length = 32 := by
  simp only [answer]
  exact hmacSha256_length [7] waiting.message

theorem answer_data : hmacSha256 [7] waiting.message = answer.data := by
  simp only [answer]

theorem answer_valid : answer.valid = true := by
  unfold Req.valid
  rw [answer_length]
  rfl

/-- Mailbox 3 just rung with an empty frame. -/
def rung : State := ((pcie []).fillBuffer 3 0 []).setMailbox 3 1 []

/-- What serving its request gives. -/
def served (w : State) : State × Bytes :=
  w.serve (.pcie 0) (frameOf (w.mailboxFrame 3)).1 (frameOf (w.mailboxFrame 3)).2

theorem usable (s : State) (rs : List FabReq)
    (h : (rs.all fun r => s.rangeUsable r.address (64 * r.beats) &&
      (match targetOf r.address with | some k => s.reg 0x5400_02 k != 6 | none => true)) = true) :
    ∀ r ∈ rs, s.rangeUsable r.address (64 * r.beats) = true ∧ ∀ k, targetOf r.address = some k → s.reg 0x5400_02 k ≠ 6 := by
  intro r hr
  have := List.all_eq_true.mp h r hr
  rw [Bool.and_eq_true] at this
  refine ⟨this.1, fun k hk => ?_⟩
  simpa [hk] using this.2

/-- Memory that a host writes: channel 15 in service, Ingot 1 ready there. -/
def hostMem (l : List (Nat × Nat × Nat)) : State :=
  { pcie ([(0x5400_02, 15, 2)] ++ l) with ingots := [(1, { st := .ready, base := 0xF00000000, size := 0x1000 })] }

/-- States and operands that meet the hypotheses of `PlainWriteTakesItsKind`. -/
theorem witness_PlainWriteTakesItsKind :
    (∃ (s : State) (ss key : Nat) (v : Val) (e : Entry), s.managed = true ∧ s.mayWrite ss key v = true ∧ plainEntry key = true ∧
        entryAt key = some e) :=
  ⟨(up (sel 0x6000_01 3) []), 1, 0x6000_01, (.num 3), ((entryAt 0x6000_01).getD { sub := 0, ty := .u8, acc := .ro, len := 0 }),
      by decide +kernel⟩

/-- States and operands that meet the hypotheses of `StoredValuesAreDurable`. -/
theorem witness_StoredValuesAreDurable :
    (∃ (s : State) (ss v : Nat), s.managed = true ∧ s.keys.saving = none ∧ s.mayWrite ss 0x1000_04 (.num v) = true) ∧
    (∃ (s : State) (ss v : Nat) (e : StoreEnd), s.managed = true ∧ s.keys.saving = none ∧
        s.mayWrite ss 0x6800_06 (.num v) = true ∧ (e = .done ∨ e = .retried)) ∧
    (∃ (s : State) (ss v : Nat) (e : StoreEnd), s.managed = true ∧ s.keys.saving = none ∧
        s.mayWrite ss 0x6800_07 (.num v) = true ∧ (e = .done ∨ e = .retried)) ∧
    (∃ (s : State) (ss key n : Nat) (e : StoreEnd), s.managed = true ∧ s.keys.saving = none ∧ s.mayWrite ss key (.num n) = true ∧
        inStore key = true ∧ (e = .done ∨ e = .retried)) ∧
    (∃ (s : State) (ss key : Nat) (b : Bytes) (e : StoreEnd), s.managed = true ∧ s.keys.saving = none ∧
        s.mayWrite ss key (.bytes b) = true ∧ inStore key = true ∧ (e = .done ∨ e = .retried)) ∧
    (∃ (s : State) (ss key : Nat) (v : Val), s.managed = true ∧ s.keys.saving = none ∧ s.mayWrite ss key v = true ∧
        inStore key = true) ∧
    (∃ (s : State) (ss key : Nat) (v : Val), s.managed = true ∧ s.keys.saving = none ∧ s.mayWrite ss key v = true ∧
        inStore key = true) ∧
    (∃ (s : State) (key : Nat) (bs : Tbl Nat), s.managed = true ∧ s.keys.saving = some bs ∧ writesStore key = true) ∧
    (∃ (s : State) (bs : Tbl Nat), s.managed = true ∧ s.keys.saving = some bs) := by
  exact ⟨⟨(up [] []), 1, 3, by decide +kernel⟩,
    ⟨(up [] []), 1, 1, .retried, by decide +kernel⟩,
    ⟨(up [] []), 1, 1, .done, by decide +kernel⟩,
    ⟨(up [] []), 1, 0x1000_04, 2, .retried, by decide +kernel⟩,
    ⟨(up [] []), 1, 0x6400_0C, (List.replicate 4 65), .done, by decide +kernel⟩,
    ⟨(up [] []), 1, 0x1000_04, (.num 2), by decide +kernel⟩,
    ⟨(up [] []), 1, 0x1000_04, (.num 2), by decide +kernel⟩,
    ⟨({ up [] [] with keys := { saving := some [] } }), 0x1000_04, ([]), by decide +kernel⟩,
    ⟨({ up [] [] with keys := { saving := some [] } }), ([]), by decide +kernel⟩⟩

/-- States and operands that meet the hypotheses of `VerifiedFuseWriteProgramsFuses`. -/
theorem witness_VerifiedFuseWriteProgramsFuses :
    (∃ (s : State) (ss : Nat) (k : Bytes), s.managed = true ∧ s.mayWrite ss 0x6808_0A (.bytes k) = true ∧
        s.fuses.integratorKeys.length < 4) ∧
    (∃ (s : State) (ss n m : Nat), s.managed = true ∧ s.mayWrite ss 0x6808_0C (.num n) = true ∧
        m < s.fuses.integratorKeys.length ∧ m ≠ n ∧ s.fuses.integratorRevoked.contains m = false) ∧
    (∃ (s : State) (ss v : Nat), s.managed = true ∧ s.mayWrite ss 0x6808_02 (.num v) = true ∧ (∀ b, b < 8 →
        bitAt s.fuses.policy b = true → bitAt v b = true)) ∧
    (∃ (s : State) (ss v : Nat), s.managed = true ∧ s.mayWrite ss 0x6808_01 (.num v) = true ∧ v = 1) ∧
    (∃ (s : State) (ss v : Nat), s.managed = true ∧ s.mayWrite ss 0x6808_04 (.num v) = true ∧ s.fuses.minSecurity ≤ v ∧
        v ≤ s.securityInForce) ∧
    (∃ (s : State) (ss n : Nat), s.managed = true ∧ s.mayWrite ss 0x6808_08 (.num n) = true ∧
        slotField (s.slotBytes s.slotInForce) 6 1 ≠ n) ∧
    (∃ (s : State) (ss v : Nat), s.managed = true ∧ s.mayWrite ss 0x6808_03 (.num v) = true ∧ v ≠ s.fuses.roleLock) ∧
    (∃ (s : State) (ss v : Nat), s.managed = true ∧ s.mayWrite ss 0x2800_04 (.num v) = true ∧ v ≠ s.fuses.wallAlias) ∧
    (∃ (s : State) (ss v : Nat), s.managed = true ∧ s.mayWrite ss 0x6808_02 (.num v) = true ∧ v ≠ s.fuses.policy ∧ (∀ b, b < 8 →
        bitAt s.fuses.policy b = true → bitAt v b = true)) ∧
    (∃ (s : State) (ss v : Nat), s.managed = true ∧ s.mayWrite ss 0x6808_02 (.num v) = true ∧ v ≠ s.fuses.policy ∧ (∀ b, b < 8 →
        bitAt s.fuses.policy b = true → bitAt v b = true)) ∧
    (∃ (s : State) (ss v : Nat), s.managed = true ∧ s.mayWrite ss 0x6808_01 (.num v) = true ∧ v = 1 ∧ s.fuses.debugLock = false) ∧
    (∃ (s : State) (ss v : Nat), s.managed = true ∧ s.mayWrite ss 0x6808_01 (.num v) = true ∧ v = 1 ∧ s.fuses.debugLock = false) ∧
    (∃ (s : State) (ss v : Nat), s.managed = true ∧ s.mayWrite ss 0x6808_03 (.num v) = true ∧ v ≠ s.fuses.roleLock) ∧
    (∃ (s : State) (ss v : Nat), s.managed = true ∧ s.mayWrite ss 0x6808_03 (.num v) = true ∧ v ≠ s.fuses.roleLock) ∧
    (∃ (s : State) (ss v : Nat), s.managed = true ∧ s.mayWrite ss 0x2800_04 (.num v) = true ∧ v ≠ s.fuses.wallAlias) ∧
    (∃ (s : State) (ss v : Nat), s.managed = true ∧ s.mayWrite ss 0x2800_04 (.num v) = true ∧ v ≠ s.fuses.wallAlias) ∧
    (∃ (s : State) (ss : Nat) (k : Bytes), s.managed = true ∧ s.mayWrite ss 0x6808_0A (.bytes k) = true ∧
        s.fuses.integratorKeys.length < 4) ∧
    (∃ (s : State) (ss n m : Nat), s.managed = true ∧ s.mayWrite ss 0x6808_0C (.num n) = true ∧
        m < s.fuses.integratorKeys.length ∧ m ≠ n ∧ s.fuses.integratorRevoked.contains m = false ∧
        s.fuses.integratorRevoked.contains n = false) ∧
    (∃ (s : State) (ss n : Nat), s.managed = true ∧ s.mayWrite ss 0x6808_04 (.num n) = true ∧ s.fuses.minSecurity < n ∧
        n ≤ s.securityInForce) ∧
    (∃ (s : State) (ss n : Nat), s.managed = true ∧ s.mayWrite ss 0x6808_08 (.num n) = true ∧
        slotField (s.slotBytes s.slotInForce) 6 1 ≠ n ∧ s.fuses.imageKeyRevoked.contains n = false) := by
  exact ⟨⟨({ up [] [] with fuses := { integratorKeys := [[1], [2], [3]] } }), 1, (List.replicate 32 9), by decide +kernel⟩,
    ⟨({ up [] [] with fuses := { integratorKeys := [[1], [2], [3], [4]] } }), 1, 0, 3, by decide +kernel⟩,
    ⟨({ up [] [] with fuses := { policy := 3 } }), 1, 255, by decide +kernel⟩,
    ⟨(up [] []), 1, 1, by decide +kernel⟩,
    ⟨(up [] []), 1, 0, by decide +kernel⟩,
    ⟨(up [] []), 1, 3, by decide +kernel⟩,
    ⟨(up [] []), 1, 3, by decide +kernel⟩,
    ⟨(up [] []), 1, 7, by decide +kernel⟩,
    ⟨({ up [] [] with fuses := { policy := 3 } }), 1, 255, by decide +kernel⟩,
    ⟨({ up [] [] with fuses := { policy := 3 } }), 1, 255, by decide +kernel⟩,
    ⟨(up [] []), 1, 1, by decide +kernel⟩,
    ⟨(up [] []), 1, 1, by decide +kernel⟩,
    ⟨(up [] []), 1, 3, by decide +kernel⟩,
    ⟨(up [] []), 1, 3, by decide +kernel⟩,
    ⟨(up [] []), 1, 7, by decide +kernel⟩,
    ⟨(up [] []), 1, 7, by decide +kernel⟩,
    ⟨({ up [] [] with fuses := { integratorKeys := [[1], [2], [3]] } }), 1, (List.replicate 32 9), by decide +kernel⟩,
    ⟨({ up [] [] with fuses := { integratorKeys := [[1], [2], [3], [4]] } }), 1, 0, 3, by decide +kernel⟩,
    ⟨({ up [] [] with fuses := { minSecurity := 0 }, power := { mgmt := true, booted := true, flash := [(0, List.replicate 64 1)] } }), 1, 3, by decide +kernel⟩,
    ⟨(up [] []), 1, 3, by decide +kernel⟩⟩

/-- States and operands that meet the hypotheses of `ReadsAreAnswered`. -/
theorem witness_ReadsAreAnswered :
    (∃ (s : State) (p : Peer) (r : Req) (x : Session) (e : Entry) (n : Nat), s.managed = true ∧ s.pathServed p = true ∧
        r.valid = true ∧ s.boundSession p 1 r.session = some x ∧ (∀ f, x.lastTxn ≠ some (r.txn, f)) ∧ entryAt r.key = some e ∧
        s.serves r.key = true ∧ e.ty.bytes ≠ 0 ∧ e.acc ≠ .wo ∧ s.needs (readLevel r.key) ≤ s.levelOf x ∧ r.offset = 0 ∧
        (s.touch x).readVal { x with lastSent := s.now } r.key e = .num n) ∧
    (∃ (s : State) (p : Peer) (r : Req) (x : Session) (e : Entry), s.managed = true ∧ s.pathServed p = true ∧ r.valid = true ∧
        s.boundSession p 5 r.session = some x ∧ (∀ f, x.lastTxn ≠ some (r.txn, f)) ∧ entryAt r.key = some e ∧
        s.serves r.key = true) ∧
    (∃ (s : State) (p : Peer) (r : Req) (x : Session), s.managed = true ∧ s.pathServed p = true ∧ r.valid = true ∧
        s.boundSession p 1 r.session = some x ∧ s.acc.recovery = false ∧ (∀ f, x.lastTxn ≠ some (r.txn, f)) ∧ r.offset = 0 ∧
        (∀ b ∈ s.keys.queue, b.length = 16)) := by
  exact ⟨⟨(up [] []), (.pcie 0), (req 0x1010_07 []), (sess []),
      ((entryAt 0x1010_07).getD { sub := 0, ty := .u8, acc := .ro, len := 0 }), ((up [] []).reg 0x1010_07), by decide +kernel,
      by decide +kernel, by decide +kernel, by decide +kernel, fun f h => (by cases h), by decide +kernel⟩,
    ⟨(up [] []), (.pcie 0), (req 0x1010_07 []), (sess []),
        ((entryAt 0x1010_07).getD { sub := 0, ty := .u8, acc := .ro, len := 0 }), by decide +kernel, by decide +kernel,
        by decide +kernel, by decide +kernel, fun f h => (by cases h), by decide +kernel⟩,
    ⟨({ up [] [] with keys := { queue := List.replicate 17 (List.replicate 16 0) } }), (.pcie 0), (req 0x5C20_02 []), (sess []),
        by decide +kernel, by decide +kernel, by decide +kernel, by decide +kernel, by decide +kernel, fun f h => (by cases h),
        by decide +kernel⟩⟩

/-- States and operands that meet the hypotheses of `WriteFramesAreExecuted`. -/
theorem witness_WriteFramesAreExecuted :
    (∃ (s : State) (p : Peer) (r : Req) (x : Session) (e : Entry), s.managed = true ∧ s.pathServed p = true ∧ r.valid = true ∧
        s.boundSession p 2 r.session = some x ∧ (∀ f, x.lastTxn ≠ some (r.txn, f)) ∧ entryAt r.key = some e ∧
        s.serves r.key = true ∧ plainEntry r.key = true ∧ e.perSession = false ∧ e.acc ≠ .rws ∧ e.ty.bytes ≠ 0 ∧
        r.data.length = e.ty.bytes ∧ r.offset = 0 ∧ r.last = true ∧ (s.touch x).mayWrite x.id r.key (.num (beNat r.data)) = true) ∧
    (∃ (s : State) (p : Peer) (r : Req) (x : Session) (e : Entry), s.managed = true ∧ s.pathServed p = true ∧ r.valid = true ∧
        s.boundSession p 2 r.session = some x ∧ (∀ f, x.lastTxn ≠ some (r.txn, f)) ∧ entryAt r.key = some e ∧
        s.serves r.key = true ∧ e.ty.bytes = 0 ∧ (x.holds.any fun h => h.slot == regKey r.key (x.inst r.key)) = false ∧
        regKey r.key (x.inst r.key) ∉ x.expired ∧ r.offset = 0 ∧ r.last = false ∧ (s.touch x).checkSegment x r.key e = none) := by
  exact ⟨⟨(up [] []), (.pcie 0), (req 0x2000_0A [1]), (sess []),
      ((entryAt 0x2000_0A).getD { sub := 0, ty := .u8, acc := .ro, len := 0 }), by decide +kernel, by decide +kernel,
      by decide +kernel, by decide +kernel, fun f h => (by cases h), by decide +kernel⟩,
    ⟨(up [] []), (.pcie 0), (req 0x2400_01 (List.replicate 1024 0) false), (sess []),
        ((entryAt 0x2400_01).getD { sub := 0, ty := .u8, acc := .ro, len := 0 }), by decide +kernel, by decide +kernel,
        by decide +kernel, by decide +kernel, fun f h => (by cases h), by decide +kernel⟩⟩

/-- States and operands that meet the hypotheses of `RepeatedTransactionIsAnsweredAgain`. -/
theorem witness_RepeatedTransactionIsAnsweredAgain :
    (∃ (s : State) (p : Peer) (op : Nat) (r : Req) (x : Session) (f : Bytes), r.valid = true ∧ opcodes.contains op = true ∧
        op ≠ 0x10 ∧ s.session? r.session = some x ∧ x.peer = p ∧ x.lastTxn = some (r.txn, f)) :=
  ⟨({ up [] [] with acc := { sessions := [{ sess [] with lastTxn := some (5, [1, 2]) }] } }), (.pcie 0), 1, (req 0x1010_07 []),
      ({ sess [] with lastTxn := some (5, [1, 2]) }), ([1, 2]), by decide +kernel⟩

/-- States and operands that meet the hypotheses of `SessionsOpenAndClose`. -/
theorem witness_SessionsOpenAndClose :
    (∃ (s : State) (p : Peer) (r : Req), s.managed = true ∧ s.pathServed p = true ∧ r.valid = true ∧ s.openCode p r = none) ∧
    (∃ (s : State) (p : Peer) (r : Req) (x : Session) (k : Bytes) (n : Option Nat), s.managed = true ∧ s.pathServed p = true ∧
        r.valid = true ∧ s.boundSession p 0x11 r.session = some x ∧ (∀ f, x.lastTxn ≠ some (r.txn, f)) ∧ r.data.length = 32 ∧
        s.now ≤ x.challengeAt + 10 * second ∧ (s.touch x).levelKey x.level = some (k, n) ∧ hmacSha256 k x.message = r.data) ∧
    (∃ (s : State) (p : Peer) (r : Req) (x : Session), s.managed = true ∧ s.pathServed p = true ∧ r.valid = true ∧
        s.boundSession p 0x12 r.session = some x ∧ (∀ f, x.lastTxn ≠ some (r.txn, f))) ∧
    (∃ (s : State) (p : Peer) (r : Req) (x : Session), s.managed = true ∧ s.pathServed p = true ∧ r.valid = true ∧
        s.boundSession p 0x13 r.session = some x ∧ (∀ f, x.lastTxn ≠ some (r.txn, f))) ∧
    (∃ (s : State) (ss : Nat) (x : Session), s.managed = true ∧ s.session? ss = some x ∧
        x.lastSent + s.reg 0x6800_04 * second ≤ s.now) ∧
    (∃ (s : State) (path : Fin 5), s.managed = true ∧ (∀ l ∈ s.acc.lockedOut, l.1 = path.val → l.2 ≤ s.now)) ∧
    (∃ (s : State) (ss : Nat) (x : Session) (h : WriteHold), s.managed = true ∧ s.session? ss = some x ∧ h ∈ x.holds ∧
        h.last + second < s.now) := by
  exact ⟨⟨(up [] []), (.pcie 7), ({ flags := 1, declared := 17, data := List.replicate 17 0 }), by decide +kernel⟩,
    ⟨({ up [] [] with acc := { sessions := [waiting] }, fuses := { integratorKeys := [[7]] } }), (.pcie 0), answer, waiting,
        ([7]), (some 0), by decide +kernel, by decide +kernel, answer_valid, by decide +kernel, fun f h => (by cases h),
        answer_length, by decide +kernel, by decide +kernel, answer_data⟩,
    ⟨(up [] []), (.pcie 0), ({ session := 1, flags := 1 }), (sess []), by decide +kernel, by decide +kernel, by decide +kernel,
        by decide +kernel, fun f h => (by cases h)⟩,
    ⟨(up [] []), (.pcie 0), ({ session := 1, flags := 1 }), (sess []), by decide +kernel, by decide +kernel, by decide +kernel,
        by decide +kernel, fun f h => (by cases h)⟩,
    ⟨({ up [] [(0x6800_04, 0, 10)] with time := { uptime := 10000000000 } }), 1, (sess []), by decide +kernel⟩,
    ⟨({ up [] [] with time := { uptime := 60000000000 }, acc := { lockedOut := [(4, 60000000000)] } }), 4, by decide +kernel⟩,
    ⟨({ up [] [] with time := { uptime := 1000000008 }, acc := { sessions := [{ sess [] with holds := [{ slot := 3, value := [], last := 7 }] }] } }), 1, ({ sess [] with holds := [{ slot := 3, value := [], last := 7 }] }), ({ slot := 3, value := [], last := 7 }), by decide +kernel⟩⟩

/-- States and operands that meet the hypotheses of `CanFramesMakeTheRequest`. -/
theorem witness_CanFramesMakeTheRequest :
    (∃ (s : State) (c : Fin 2) (ident : BitVec 29) (node : Nat) (b : Bytes), s.managed = true ∧ s.acc.recovery = false ∧
        s.reg 0x6810_05 c ≠ 2 ∧ s.canSource c ident.toNat = some node ∧ s.canMsg c node = none ∧
        b.length = headerLen + field b 10 2 ∧ b.length ≤ headerLen + maxData) ∧
    (∃ (s : State) (c : Fin 2) (ident : BitVec 29) (node : Nat) (b : Bytes), s.managed = true ∧ s.acc.recovery = false ∧
        s.reg 0x6810_05 c ≠ 2 ∧ s.canSource c ident.toNat = some node ∧ s.canMsg c node = none ∧ b ≠ [] ∧
        b.length ≤ headerLen + maxData) := by
  exact ⟨⟨(up [] [(0x6810_02, 1, 255)]), 1, (0x1A7FFF80#29), 255, (frameBytes 255 { declared := 2, data := [1, 0] }),
      by decide +kernel⟩,
    ⟨(up [] [(0x6810_02, 1, 255)]), 1, (0x1A7FFF80#29), 255, ([1]), by decide +kernel⟩⟩

/-- States and operands that meet the hypotheses of `RequestFrameSpellsItsRequest`. -/
theorem witness_RequestFrameSpellsItsRequest :
    (∃ (op : Nat) (r : Req), op < 256 ∧ r.wf = true ∧ r.data.length = r.declared) :=
  ⟨255, ({ flags := 1, declared := 2, data := [1, 0] }), by decide +kernel⟩

/-- States and operands that meet the hypotheses of `CanAndEthernetKeepTheirLimits`. -/
theorem witness_CanAndEthernetKeepTheirLimits :
    (∃ (s : State) (c : Fin 2) (ident : BitVec 29) (node : Nat) (part : Bytes), s.managed = true ∧ s.acc.recovery = false ∧
        s.reg 0x6810_05 c ≠ 2 ∧ s.canSource c ident.toNat = some node ∧ s.canMsg c node = none ∧ part.length ≤ 63) ∧
    (∃ (s : State) (c : Fin 2) (node : Fin 256) (m : CanMsg), s.managed = true ∧ s.canMsg c node = some m ∧
        m.last + canGap < s.now) ∧
    (∃ (s : State), s.managed = true) ∧
    (∃ (s : State) (c : Fin 2), s.managed = true ∧ s.reg 0x6810_05 c = 2) ∧
    (∃ (s : State), s.managed = true ∧ s.ethernetServed = true ∧ s.admitDatagram.2 = true) ∧
    (∃ (s : State), s.managed = true ∧ s.ethernetServed = true ∧ s.admitDatagram.2 = false) ∧
    (∃ (s : State) (target : BitVec 32), s.managed = true ∧ s.ethernetServed = true ∧ target.toNat = s.reg 0x6820_06) ∧
    (∃ (s : State) (target : BitVec 32), s.managed = true ∧ s.ethernetServed = true ∧ target.toNat = s.reg 0x6820_06) ∧
    (∃ (s : State) (port : Fin 2) (speed : Fin 4), s.live = true ∧ s.flag 0x6820_02 port = true ∧
        (speed.val = 0 ∨ bitAt (s.reg 0x6820_04 port) (speed.val - 1) = true)) := by
  exact ⟨⟨(up [] [(0x6810_02, 0, 1)]), 0, (0x1A008000#29), 0, (List.replicate 63 1), by decide +kernel⟩,
    ⟨({ up [] [] with time := { uptime := 20000001 }, acc := { can := [(1, { node := 255, next := 1, bytes := [1], last := 0 })] } }), 1, 255, ({ node := 255, next := 1, bytes := [1], last := 0 }), by decide +kernel⟩,
    ⟨(up [] []), by decide +kernel⟩,
    ⟨(up [] [(0x6810_05, 1, 2)]), 1, by decide +kernel⟩,
    ⟨(up [] [(0x6820_02, 1, 1)]), by decide +kernel⟩,
    ⟨({ up [] [(0x6820_02, 1, 1), (0x6820_0A, 0, 100)] with acc := { udpWindow := (0, 100) } }), by decide +kernel⟩,
    ⟨(up [] [(0x6820_02, 0, 1), (0x6820_06, 0, 5)]), (5#32), by decide +kernel⟩,
    ⟨(up [] [(0x6820_02, 0, 1), (0x6820_06, 0, 5)]), (5#32), by decide +kernel⟩,
    ⟨(up [] [(0x6820_02, 1, 1), (0x6820_04, 1, 7)]), 1, 3, by decide +kernel⟩⟩

/-- States and operands that meet the hypotheses of `PcieServesMailboxesAndMemory`. -/
theorem witness_PcieServesMailboxesAndMemory :
    (∃ (s w u : State) (m : Fin 4) (b y : Bytes) (op : Nat) (r : Req), s.live = true ∧ s.pcieServed = true ∧
        s.mailboxStatus m = 0 ∧ s.managed = true ∧ w = (s.fillBuffer m 0 b).setMailbox m 1 [] ∧ frameOf (w.mailboxFrame m) = (op,
        r) ∧ w.mustHold (.pcie 0) op r = false ∧ w.serve (.pcie 0) op r = (u, y) ∧ u.mailboxStatus m = 1) ∧
    (∃ (s : State) (m : Fin 4), s.live = true ∧ s.pcieServed = true ∧ s.mailboxStatus m = 0 ∧ s.managed = false) ∧
    (∃ (s : State) (m : Fin 4), s.live = true ∧ s.pcieServed = true ∧ s.mailboxStatus m ≠ 0) ∧
    (∃ (s : State), s.live = true ∧ s.pcieServed = true) ∧
    (∃ (s : State) (level : Bool), s.pins.perstN ≠ level) ∧
    (∃ (s : State), s.live = true) ∧
    (∃ (s : State), s.live = true) ∧
    (∃ (s : State) (bar : Bar) (offset a : Nat) (data : Bytes) (tag : Nat) (rs : List FabReq), s.live = true ∧
        s.fabricWorks = true ∧ s.pcieServed = true ∧ barAddress bar offset = some a ∧
        (s.protects = false ∨ s.guardedAt a data.length = none) ∧
        rs = (hostBlocks a data.length).zipIdx.map (fun p => hostWrite tag p.2 a data p.1) ∧ (∀ r ∈ rs,
        s.rangeUsable r.address (64 * r.beats) = true ∧ ∀ k, targetOf r.address = some k → s.reg 0x5400_02 k ≠ 6)) ∧
    (∃ (s : State) (bar : Bar) (offset a len : Nat) (tag : Nat) (rs : List FabReq), s.live = true ∧ s.fabricWorks = true ∧
        s.pcieServed = true ∧ barAddress bar offset = some a ∧ 0 < len ∧
        rs = (hostBlocks a len).zipIdx.map (fun p => hostRequest tag p.2 p.1 false) ∧ (∀ r ∈ rs,
        s.rangeUsable r.address (64 * r.beats) = true ∧ ∀ k, targetOf r.address = some k → s.reg 0x5400_02 k ≠ 6)) ∧
    (∃ (s : State) (bar : Bar) (offset a len : Nat) (tag : Nat) (r : FabReq), s.live = true ∧ s.fabricWorks = true ∧
        s.pcieServed = true ∧ barAddress bar offset = some a ∧
        (hostBlocks a len).zipIdx.map (fun p => hostRequest tag p.2 p.1 false) = [r] ∧
        s.rangeUsable r.address (64 * r.beats) = false ∧ (∀ h ∈ s.fabric.reads, r.id ∉ h.left)) ∧
    (∃ (s : State) (bar : Bar) (offset a i : Nat) (data : Bytes), s.live = true ∧ s.fabricWorks = true ∧ s.pcieServed = true ∧
        barAddress bar offset = some a ∧ s.protects = true ∧ s.guardedAt a data.length = some i) ∧
    (∃ (s : State), s.live = true ∧ s.pcieServed = true) ∧
    (∃ (s : State) (off : Nat) (data : Bytes), s.live = true ∧ s.pcieServed = true ∧ off + data.length ≤ 4096) ∧
    (∃ (s : State), s.live = true ∧ s.pcieServed = true) := by
  exact ⟨⟨(pcie []), rung, ((served rung).1), 3, ([]), ((served rung).2), ((frameOf (rung.mailboxFrame 3)).1),
      ((frameOf (rung.mailboxFrame 3)).2), by decide +kernel, by decide +kernel, by decide +kernel, by decide +kernel, rfl, rfl,
      by decide +kernel, rfl, by decide +kernel⟩,
    ⟨({ pcie [] with power := {} }), 3, by decide +kernel⟩,
    ⟨({ pcie [] with acc := { mailbox := [(3, 2)] } }), 3, by decide +kernel⟩,
    ⟨(pcie []), by decide +kernel⟩,
    ⟨(pcie []), false, by decide +kernel⟩,
    ⟨(up [] []), by decide +kernel⟩,
    ⟨(up [] []), by decide +kernel⟩,
    ⟨(hostMem [(0x2000_0A, 0, 1)]), .bar2, 0xF00001000, 0xF00001000, (List.replicate 64 7), 5,
        ((hostBlocks 0xF00001000 64).zipIdx.map fun p => hostWrite 5 p.2 0xF00001000 (List.replicate 64 7) p.1),
        by decide +kernel, by decide +kernel, by decide +kernel, by decide +kernel, by decide +kernel, by decide +kernel,
        usable _ _ (by decide +kernel)⟩,
    ⟨(hostMem []), .bar2, 0xF00000300, 0xF00000300, 0x200, 5,
        ((hostBlocks 0xF00000300 0x200).zipIdx.map fun p => hostRequest 5 p.2 p.1 false), by decide +kernel, by decide +kernel,
        by decide +kernel, by decide +kernel, by decide +kernel, by decide +kernel, usable _ _ (by decide +kernel)⟩,
    ⟨(hostMem []), .bar2, 0xFFFFFFFFF, 0xFFFFFFFFF, 1, 5, (hostRequest 5 0 (0xFFFFFFFFF, 0x1000000000) false), by decide +kernel⟩,
    ⟨(hostMem [(0x2000_0A, 0, 1)]), .bar2, 0xF00000FFF, 0xF00000FFF, 1, ([7]), by decide +kernel⟩,
    ⟨(pcie []), by decide +kernel⟩,
    ⟨(pcie []), 4095, ([7]), by decide +kernel⟩,
    ⟨(pcie []), by decide +kernel⟩⟩

/-- A scene with one screen of output 31 and no view. -/
def scene : Bytes :=
  beBytes 4 0x44515343 ++ beBytes 2 1 ++ beBytes 2 32 ++ beBytes 2 1 ++ List.replicate 6 0 ++ beBytes 4 7 ++ List.replicate 12 0 ++
    (beBytes 2 5 ++ [0, 31] ++ beBytes 8 0 ++ beBytes 4 1000 ++ beBytes 4 1000 ++ beBytes 8 0 ++ beBytes 2 64 ++ beBytes 2 32)

/-- The plan that Smith makes of it, or none. -/
def planned (s : State) (slot : Nat) (auto : Bool) : Plan :=
  match s.smithPlan scene slot 9 auto with
  | .inr p => p
  | .inl _ => {}

/-- A device that places. -/
def placing (x : Placing) : State := { up [] [] with smith := { placing := x } }

/-- A device with an output that runs. -/
def showing (o : Nat) (x : Output) (l : List (Nat × Nat × Nat)) : State :=
  { up [] ([(0x3400_02, o, 1)] ++ l) with outputs := [(o, { x with running := true })] }

/-- Much later by the wall clock. -/
def late (s : State) : State := { s with time := { s.time with counter := 200000000 } }

/-- A layer that an engine fetches. -/
def layer (e : Nat) : Draw := { engine := e, layer := 23, stack := 0, gid := 0, slot := 0, name := [] }

/-- What a commit's judgement accepts. -/
def accepted (x : (Code × Nat) ⊕ (Pending × List Staged)) : Pending × List Staged :=
  match x with
  | .inr y => y
  | .inl _ => ({ ticket := 0 }, [])

/-- What it refuses. -/
def refused (x : (Code × Nat) ⊕ (Pending × List Staged)) : Code × Nat :=
  match x with
  | .inl y => y
  | .inr _ => (cm 0x01, 0)

/-- A device on a wall that trusts port 23. -/
def wall (c : Commits) : State := { up [] [(0x4400_05, 23, 4)] with commits := c }

/-- The same, caught up and locked to the wall's time. -/
def synced : State := put (wall {}) [(0x2800_06, 0, 0), (0x4800_06, 0, 0)]

/-- The same with a shadow value that switches the keys on, whose domain is off. -/
def syncedOff : State := (put synced [(0x6400_02, 22, 0)]).setShadow 0x5C00_01 0 (.num 1)

/-- A wall commit that device 0 leads. -/
def led : Pending := { ticket := 9, wall := true, coordinator := some 0, members := [0, 1] }

/-- A wall commit that device 1 leads. -/
def followed : Pending := { ticket := 9, wall := true, coordinator := some 1 }

/-- A message of device 1 about ticket 9. -/
def from1 (slot : Nat) : WallMsg := { member := 1, ticket := 9, slot := slot, target := 60 }

/-- States and operands that meet the hypotheses of `HostFramesArePublishedAndReleased`. -/
theorem witness_HostFramesArePublishedAndReleased :
    (∃ (s : State) (ss slot : Nat), s.managed = true ∧ s.mayWrite ss 0x2084_06 (.num slot) = true ∧ s.hostSlot slot = true ∧
        s.freeOf slot ≠ []) ∧
    (∃ (s : State) (ss v i : Nat), s.managed = true ∧ s.mayWrite ss 0x2084_03 (.num v) = true ∧ s.reg 0x2084_01 = i ∧
        i < ingotCount ∧ s.hostSlot (s.ingot i).slot = true ∧ (s.ingot i).st = .filling ∧ (s.ingot i).filler = .host ∧
        s.reg 0x2084_02 ≤ s.wall) ∧
    (∃ (s : State) (i : Fin 4096), s.live = true ∧ s.fabricWorks = true ∧ (s.ingot i).st = .filling ∧
        (s.ingot i).filler = .hostCheck) ∧
    (∃ (s : State) (ss i : Nat), s.managed = true ∧ s.mayWrite ss 0x2084_04 (.num i) = true ∧ (∃ x,
        s.source (s.ingot i).slot = some x ∧ x.kind = 3) ∧ (s.ingot i).st = .ready) ∧
    (∃ (s : State) (ss i : Nat), s.managed = true ∧ s.mayWrite ss 0x2084_04 (.num i) = true ∧ (∃ x,
        s.source (s.ingot i).slot = some x ∧ x.kind = 3) ∧ (s.ingot i).st = .scanning) ∧
    (∃ (s : State) (i : Fin 4096) (r : Fin 46), s.live = true ∧ s.stillSelected i r = false) := by
  exact ⟨⟨(fed (up [] []) 3 { st := .ready }), 1, 0, by decide +kernel⟩,
    ⟨(fed (up [] [(0x2084_01, 0, 0), (0x2084_02, 0, 0)]) 3 { st := .filling, filler := .host }), 1, 1, 0, by decide +kernel⟩,
    ⟨(fed (up [] []) 3 { st := .filling, filler := .hostCheck }), 0, by decide +kernel⟩,
    ⟨(fed (up [] []) 3 { st := .ready }), 1, 0, by decide +kernel, by decide +kernel, ⟨src 3, rfl, rfl⟩, by decide +kernel⟩,
    ⟨(fed (up [] []) 3 { st := .scanning, readers := [4] }), 1, 0, by decide +kernel, by decide +kernel, ⟨src 3, rfl, rfl⟩,
        by decide +kernel⟩,
    ⟨(fed (up [] []) 3 { st := .draining, readers := [45] }), 0, 45, by decide +kernel⟩⟩

/-- States and operands that meet the hypotheses of `SealDecidesTheNextFrame`. -/
theorem witness_SealDecidesTheNextFrame :
    (∃ (s : State) (o : Fin 32), s.live = true ∧ (s.output o).running = true ∧ (s.output o).started = true ∧
        (s.output o).sealed = false ∧ s.reached (s.sealTime o) = true) :=
  ⟨(late (showing 31 { started := true } [])), 31, by decide +kernel⟩

/-- States and operands that meet the hypotheses of `FreshVerdictIsWithinBudget`. -/
theorem witness_FreshVerdictIsWithinBudget :
    (∃ (s : State) (slot tFal budget : Nat) (frame : Option Nat), (s.judgeFrame slot frame tFal budget).veil = none) :=
  ⟨(fed (up [] []) 3 { st := .ready }), 0, 1000, 1000, (some 0), by decide +kernel⟩

/-- States and operands that meet the hypotheses of `FrameStartTakesItsKind`. -/
theorem witness_FrameStartTakesItsKind :
    (∃ (s v : State) (o : Fin 32) (of : Nat), s.live = true ∧ (s.output o).running = true ∧ s.reached (s.nextStart o) = true ∧
        of = (s.output o).nextOf ∧ v = ((s.closeFrame o).applyAt o of).switchBackAt o of ∧ (v.output o).running = true) :=
  ⟨(showing 31 {} []), ((((showing 31 {} []).closeFrame 31).applyAt 31 0).switchBackAt 31 0), 31, 0, by decide +kernel⟩

/-- States and operands that meet the hypotheses of `OutputEventsAreCounted`. -/
theorem witness_OutputEventsAreCounted :
    (∃ (s : State) (o : Fin 32), s.live = true ∧ (s.output o).running = true ∧ (s.output o).started = true ∧
        (s.output o).blankDone = false ∧ s.reached (s.blankTime o) = true ∧ s.onSwage o = false) ∧
    (∃ (s : State) (o : Fin 32), s.live = true ∧ (s.output o).running = true ∧ (s.output o).started = true ∧
        (s.output o).lineDone = false ∧ s.reached (wallOf (s.nowInstant o (s.reg 0x3400_14 o) (s.vtotal o)) false) = true) ∧
    (∃ (s : State) (o : Fin 32), s.live = true ∧ (s.output o).running = true ∧ (s.output o).started = true ∧
        (s.output o).begun = true ∧ (s.output o).frameDone = false ∧ s.egressReady o = true ∧
        s.reached (s.blankTime o + s.egressLatency o) = true ∧ s.onSwage o = false) ∧
    (∃ (s : State) (ss v i : Nat), s.managed = true ∧ s.mayWrite ss 0x3410_01 (.num v) = true ∧ i < 8) ∧
    (∃ (s : State) (port : Fin 4) (o : Nat), s.live = true ∧ s.outputOn [4] port = some o ∧ (s.output o).started = true ∧
        (s.output o).teSeen = false) ∧
    (∃ (s : State) (o : Fin 32), s.live = true ∧ (s.output o).running = true ∧ (s.output o).sealed = true ∧
        (s.output o).limitReached = false ∧ (s.frameKind o (s.output o).nextOf).2 = some (fr 0x07)) ∧
    (∃ (s : State) (o : Fin 32) (seq : Nat) (f : SentFrame), s.live = true ∧
        (s.output o).sent.find? (fun f => streamSeq f.ofNum == seq && !f.reported) = some f ∧
        s.past (s.tFal o (f.ofNum + 2)) = true) := by
  exact ⟨⟨(late (showing 31 { started := true } [])), 31, by decide +kernel⟩,
    ⟨(showing 31 { started := true } []), 31, by decide +kernel⟩,
    ⟨(late (showing 31 { started := true, begun := true } [(0x3400_03, 31, 3), (0x3400_04, 31, 2), (0x3450_07, 2, 2), (0x3400_06,
        31, 0x20005000400030), (0x3400_08, 31, 4)])), 31, by decide +kernel⟩,
    ⟨(up (sel 0x3410_00 0) [(0x3410_01, 0, 255)]), 1, 128, 7, by decide +kernel⟩,
    ⟨(showing 31 { started := true } [(0x3400_03, 31, 4), (0x3400_04, 31, 3)]), 3, 31, by decide +kernel⟩,
    ⟨(showing 31 { started := true, sealed := true, nextOf := 2 ^ 48 + 1000, held := some { bank := {}, check := 0 } } []), 31,
        by decide +kernel, by decide +kernel, by decide +kernel, by decide +kernel,
        (by unfold State.frameKind Held.covers State.tFal; generalize Config.tFalUp _ _ = b; cases b <;> decide +kernel)⟩,
    ⟨({ showing 31 { sent := [{ ofNum := 0, check := 5 }], nextOf := 2 } [] with time := { counter := 200000000 } }), 31, 0,
        ({ ofNum := 0, check := 5 }), by decide +kernel, by decide +kernel,
        (by unfold State.past State.tFal; generalize Config.tFalUp _ _ = b; cases b <;> decide +kernel)⟩⟩

/-- States and operands that meet the hypotheses of `FailedEnginesAreReplaced`. -/
theorem witness_FailedEnginesAreReplaced :
    (∃ (s : State) (e : Fin 18) (l : Fin 24) (o : Nat) (d : Draw), s.live = true ∧ s.fetching e l = some (o, d)) ∧
    (∃ (s : State) (e : Fin 18) (r : Nat), s.managed = true ∧ e.val < 16 ∧ s.reg 0x3420_02 e = 1 ∧ s.recover.subst = none ∧
        s.freeReserve = some r) ∧
    (∃ (s : State) (e : Fin 18), s.live = true ∧ s.managed = false ∧ s.reg 0x3420_02 e = 1 ∧ s.recover.subst = none) ∧
    (∃ (s : State) (e : Fin 18), s.managed = true ∧ e.val < 16 ∧ s.reg 0x3420_02 e = 1 ∧ s.recover.subst = none ∧
        s.freeReserve = none) ∧
    (∃ (s : State) (e : Fin 18) (x : Subst), s.managed = true ∧ s.recover.subst = some x ∧ x.armed = false ∧ x.engine = e.val ∧
        e.val < 16 ∧ s.reg 0x3420_02 x.reserve = 2 ∧ 16 ≤ x.reserve ∧ x.reserve < 18 ∧ (∃ o ∈ x.outs,
        (s.output o).running = true)) := by
  exact ⟨⟨(showing 31 { kind := .composed, cur := { draws := [layer 17] } } []), 17, 23, 31, (layer 17), by decide +kernel⟩,
    ⟨(up [] [(0x3420_02, 15, 1), (0x3420_02, 17, 2), (0x3420_02, 16, 4)]), 15, 17, by decide +kernel⟩,
    ⟨({ up [] [(0x3420_02, 15, 1), (0x3420_02, 17, 2)] with power := {} }), 15, by decide +kernel⟩,
    ⟨(up [] [(0x3420_02, 15, 1), (0x3420_02, 17, 4), (0x3420_02, 16, 4)]), 15, by decide +kernel⟩,
    ⟨({ showing 31 {} [(0x3420_02, 17, 2)] with recover := { subst := some { engine := 3, reserve := 17, since := 0, armed := false, outs := [31] } } }), 3, ({ engine := 3, reserve := 17, since := 0, armed := false, outs := [31] }), by decide +kernel, by decide +kernel, by decide +kernel, by decide +kernel, by decide +kernel, by decide +kernel, by decide +kernel, by decide +kernel, ⟨31, by decide +kernel⟩⟩⟩

/-- States and operands that meet the hypotheses of `DisplayLinksComeUp`. -/
theorem witness_DisplayLinksComeUp :
    (∃ (s : State) (p : Fin 8) (o : Nat), s.live = true ∧ s.outputOn [2] p = some o) ∧
    (∃ (s : State) (p : Fin 8) (us o : Nat), s.live = true ∧ 2000 < us ∧ s.outputOn [2] p = some o) ∧
    (∃ (s : State) (us : Nat), s.live = true ∧ us ≤ 2000) ∧
    (∃ (s : State) (p : Fin 8) (k : Sink) (o : Nat), s.live = true ∧ Tbl.find s.sinks p = some k ∧ s.outputOn [2] p = some o) ∧
    (∃ (s : State) (p : Fin 8) (k : Sink) (o : Nat), s.live = true ∧ Tbl.find s.sinks p = some k ∧ s.outputOn [2] p = some o ∧
        s.reg 0x3440_05 p = 1) ∧
    (∃ (s : State) (p : Fin 8) (k : Sink) (o : Nat), s.live = true ∧ Tbl.find s.sinks p = some k ∧ s.outputOn [2] p = some o ∧
        s.reg 0x3440_05 p = 1) ∧
    (∃ (s : State) (p : Fin 4) (o : Nat), s.live = true ∧ s.outputOn [3, 4] p = some o ∧ s.reg 0x3450_07 p = 1 ∧
        (dsiRecords (s.blob 0x3450_05 p).length (s.blob 0x3450_05 p)).2 = true ∧
        Tbl.get 0 s.panels p + dsiWaits (dsiRecords (s.blob 0x3450_05 p).length (s.blob 0x3450_05 p)).1 ≤ s.now) := by
  exact ⟨⟨(showing 31 {} [(0x3400_03, 31, 2), (0x3400_04, 31, 7)]), 7, 31, by decide +kernel⟩,
    ⟨(showing 31 {} [(0x3400_03, 31, 2), (0x3400_04, 31, 7)]), 7, 2001, 31, by decide +kernel⟩,
    ⟨(up [] []), 2000, by decide +kernel⟩,
    ⟨({ showing 31 {} [(0x3400_03, 31, 2), (0x3400_04, 31, 7)] with sinks := [(7, { rate := 1, lanes := 4 })] }), 7,
        ({ rate := 1, lanes := 4 }), 31, by decide +kernel⟩,
    ⟨({ showing 31 {} [(0x3400_03, 31, 2), (0x3400_04, 31, 7), (0x3440_05, 7, 1)] with sinks := [(7, { rate := 1, lanes := 4 })] }), 7, ({ rate := 1, lanes := 4 }), 31, by decide +kernel⟩,
    ⟨({ showing 31 {} [(0x3400_03, 31, 2), (0x3400_04, 31, 7), (0x3440_05, 7, 1)] with sinks := [(7, { rate := 1, lanes := 4 })] }), 7, ({ rate := 1, lanes := 4 }), 31, by decide +kernel⟩,
    ⟨(showing 31 {} [(0x3400_03, 31, 4), (0x3400_04, 31, 3), (0x3450_07, 3, 1)]), 3, 31, by decide +kernel⟩⟩

/-- States and operands that meet the hypotheses of `PlacementRunsAndReports`. -/
theorem witness_PlacementRunsAndReports :
    (∃ (s : State) (ss v : Nat), s.managed = true ∧ s.mayWrite ss 0x2400_02 (.num v) = true ∧ s.smith.placing = .idle ∧
        s.reg 0x2400_03 ≠ 1 ∧ v ≠ 0x10) ∧
    (∃ (s : State) (ss : Nat), s.managed = true ∧ s.mayWrite ss 0x2400_02 (.num 0x10) = true ∧ s.smith.placing = .idle ∧
        s.reg 0x2400_03 ≠ 1) ∧
    (∃ (s : State) (us slot : Nat) (scene : Bytes) (p : Plan), s.managed = true ∧ s.recover.subst = none ∧
        s.smith.placing = .host slot scene ∧ slot < 4 ∧ s.smith.startUpDue = false ∧
        s.asStarted.smithPlan scene slot us false = .inr p) ∧
    (∃ (s : State) (us slot code : Nat) (scene report : Bytes), s.managed = true ∧ s.recover.subst = none ∧
        s.smith.placing = .host slot scene ∧ s.smith.startUpDue = false ∧ s.asStarted.smithPlan scene slot us false = .inl (code,
        report)) ∧
    (∃ (s : State) (us : Nat) (scene : Bytes) (p : Plan), s.managed = true ∧ s.recover.subst = none ∧
        s.smith.placing = .dry scene ∧ s.smith.startUpDue = false ∧ s.asStarted.smithPlan scene 0xFF us false = .inr p) ∧
    (∃ (s : State) (slot : Nat) (scene : Bytes), s.managed = true ∧ s.recover.subst = none ∧
        (s.smith.placing = .host slot scene ∨ s.smith.placing = .dry scene) ∧ s.smith.startUpDue = true ∧
        s.flag 0x6400_0D = true ∧ s.reg 0x5800_03 = 0) ∧
    (∃ (s : State) (ss v : Nat), s.managed = true ∧ s.mayWrite ss 0x2410_09 (.num v) = true ∧ s.planInForce ≠ v) ∧
    (∃ (s : State) (p : Plan), s.managed = true ∧ s.replanDue = true ∧ s.smith.placing = .idle ∧ s.recover.subst = none ∧
        s.autoWaits = false ∧ s.plan = some p ∧ s.reg 0x2400_06 = 0) ∧
    (∃ (s : State) (us : Nat) (scene : Bytes) (q p : Plan), s.managed = true ∧ s.recover.subst = none ∧
        s.smith.placing = .auto scene (s.reg 0x2400_0A) ∧ s.plan = some q ∧ q.scene = scene ∧
        s.asStarted.smithPlan scene s.planSlot us true = .inr p ∧ p.withdraws = false ∧ s.smith.startUpDue = false ∧
        s.domainsOff { ticket := 0, slot := s.planSlot, auto := true, plan := some p } [] = []) ∧
    (∃ (s : State) (epoch : Nat) (scene : Bytes) (q : Plan), s.managed = true ∧ s.recover.subst = none ∧
        s.smith.placing = .auto scene epoch ∧ s.plan = some q ∧ (q.scene ≠ scene ∨ epoch ≠ s.reg 0x2400_0A)) := by
  exact ⟨⟨(up [] []), 1, 3, by decide +kernel⟩,
    ⟨(up [] []), 1, by decide +kernel⟩,
    ⟨(placing (.host 3 scene)), 9, 3, scene, (planned (placing (.host 3 scene)).asStarted 3 false), by decide +kernel⟩,
    ⟨(placing (.host 3 [])), 9, 3, 1, ([]), ((placing (.host 3 [])).asStarted.refusalReport 3 1 0 9), by decide +kernel⟩,
    ⟨(placing (.dry scene)), 9, scene, (planned (placing (.dry scene)).asStarted 0xFF false), by decide +kernel⟩,
    ⟨({ put (placing (.dry scene)) [(0x6400_0D, 0, 1)] with smith := { placing := .dry scene, startUpDue := true } }), 0, scene,
        by decide +kernel⟩,
    ⟨({ up [] [] with plan := some {}, planSlot := 0 }), 1, 3, by decide +kernel⟩,
    ⟨({ up [] [] with plan := some {}, recover := { active := some (.replan .resources) } }), ({}), by decide +kernel⟩,
    ⟨({ placing (.auto scene 0) with plan := some { scene := scene }, planSlot := 3 }), 9, scene, ({ scene := scene }),
        (planned { placing (.auto scene 0) with plan := some { scene := scene }, planSlot := 3 } 3 true), by decide +kernel⟩,
    ⟨({ placing (.auto scene 5) with plan := some {} }), 5, scene, ({}), by decide +kernel⟩⟩

/-- States and operands that meet the hypotheses of `RecoveryActionsRunInTurn`. -/
theorem witness_RecoveryActionsRunInTurn :
    (∃ (s : State) (c : Cause) (rest : List Recovery), s.managed = true ∧ s.recovering = 0 ∧ s.recover.queue = .replan c :: rest ∧
        (s.reg 0x2400_06 ≠ 0 ∨ s.plan = none ∨ s.causeStands c = false)) ∧
    (∃ (s : State) (c : Cause) (rest : List Recovery), s.managed = true ∧ s.recovering = 0 ∧ s.recover.queue = .replan c :: rest ∧
        s.reg 0x2400_06 = 0 ∧ s.plan.isSome = true ∧ s.causeStands c = true) ∧
    (∃ (s : State) (e : Nat) (rest : List Recovery), s.managed = true ∧ s.recovering = 0 ∧
        s.recover.queue = .switchBack e :: rest ∧ s.canSwitchBack e = true ∧ s.runningOutputs ≠ []) ∧
    (∃ (s : State) (ss v : Nat), s.managed = true ∧ s.mayWrite ss 0x5810_04 (.num v) = true ∧ s.reg 0x3420_02 v = 4) ∧
    (∃ (s : State) (e : Nat), s.managed = true ∧ s.recover.testing = some e ∧ s.reg 0x3420_02 e = 4 ∧ e < 18) ∧
    (∃ (s : State) (e : Nat), s.managed = true ∧ s.recover.testing = some e) ∧
    (∃ (s : State) (ss v : Nat), s.managed = true ∧ s.mayWrite ss 0x5810_03 (.num v) = true ∧ s.canSwitchBack v = true ∧
        s.recover.queue.length < 8) := by
  exact ⟨⟨({ up [] [] with recover := { queue := [.replan .resources, .replan (.underrun 3)] } }), .resources,
      ([.replan (.underrun 3)]), by decide +kernel⟩,
    ⟨({ up [] [] with recover := { queue := [.replan .resources, .replan (.underrun 3)] }, plan := some { epoch := 1 } }),
        .resources, ([.replan (.underrun 3)]), by decide +kernel⟩,
    ⟨({ showing 31 {} [(0x3420_02, 17, 3), (0x3420_05, 17, 3)] with recover := { queue := [.switchBack 3] }, engines := [(3, { tested := true })] }), 3, ([]), by decide +kernel⟩,
    ⟨(up [] [(0x3420_02, 5, 4)]), 1, 5, by decide +kernel⟩,
    ⟨({ up [] [(0x3420_02, 17, 4)] with recover := { testing := some 17 } }), 17, by decide +kernel⟩,
    ⟨({ up [] [] with recover := { testing := some 17 } }), 17, by decide +kernel⟩,
    ⟨({ showing 31 {} [(0x3420_02, 17, 3), (0x3420_05, 17, 3)] with engines := [(3, { tested := true })], recover := { queue := List.replicate 7 (.replan .resources) } }), 1, 3, by decide +kernel⟩⟩

/-- States and operands that meet the hypotheses of `CommitsAreRequestedAndJudged`. -/
theorem witness_CommitsAreRequestedAndJudged :
    (∃ (s : State) (ss v : Nat), s.managed = true ∧ s.mayWrite ss 0x2800_14 (.num v) = true ∧
        s.requestCode (s.fld ss 0x2800_12 != 0) = none) ∧
    (∃ (s : State) (ss v : Nat), s.managed = true ∧ s.mayWrite ss 0x2800_17 (.num v) = true) ∧
    (∃ (s u : State) (r : Pending) (rest : List Pending) (c : Code) (pair : Nat), s.managed = true ∧
        s.commits.requests = r :: rest ∧ r.asked = none ∧ u = { s with commits := { s.commits with requests := rest } } ∧
        u.judge (u.drawUp r) = .inl (c, pair)) ∧
    (∃ (s u : State) (r a : Pending) (rest : List Pending) (fs : List Staged), s.managed = true ∧ s.commits.requests = r :: rest ∧
        r.asked = none ∧ u = { s with commits := { s.commits with requests := rest } } ∧ u.judge (u.drawUp r) = .inr (a, fs) ∧
        u.domainsOff a fs = []) ∧
    (∃ (s u : State) (r a : Pending) (rest : List Pending) (fs : List Staged), s.managed = true ∧ s.commits.requests = r :: rest ∧
        r.asked = none ∧ u = { s with commits := { s.commits with requests := rest } } ∧ u.judge (u.drawUp r) = .inr (a, fs) ∧
        u.domainsOff a fs ≠ []) ∧
    (∃ (s u : State) (r a : Pending) (rest : List Pending) (fs : List Staged) (port tag : Nat), s.managed = true ∧
        s.commits.requests = r :: rest ∧ r.asked = some (port, tag) ∧
        u = { s with commits := { s.commits with requests := rest } } ∧ u.judgePrepare (u.drawUp r) tag = .inr (a, fs) ∧
        u.domainsOff a fs = []) ∧
    (∃ (s : State) (ss id : Nat), s.managed = true ∧ s.mayWrite ss 0x2800_16 (.num id) = true ∧ s.cancellable id = true ∧
        s.leading id = none) ∧
    (∃ (s : State) (id : Nat) (p : Pending), s.managed = true ∧ s.waitingCommit id = some p ∧ s.lockInDue p = true ∧
        p.lockedIn = false ∧ p.wall = false) := by
  exact ⟨⟨(up [] []), 1, 1, by decide +kernel⟩,
    ⟨(up [] []), 1, 1, by decide +kernel⟩,
    ⟨({ up [] [] with commits := { requests := [{ ticket := 1, slot := 3 }] } }), (up [] []), ({ ticket := 1, slot := 3 }), ([]),
        ((refused ((up [] []).judge ((up [] []).drawUp { ticket := 1, slot := 3 }))).1),
        ((refused ((up [] []).judge ((up [] []).drawUp { ticket := 1, slot := 3 }))).2), by decide +kernel⟩,
    ⟨({ up [] [] with commits := { requests := [{ ticket := 1 }] } }), (up [] []), ({ ticket := 1 }),
        ((accepted ((up [] []).judge ((up [] []).drawUp { ticket := 1 }))).1), ([]),
        ((accepted ((up [] []).judge ((up [] []).drawUp { ticket := 1 }))).2), by decide +kernel⟩,
    ⟨({ (up [] [(0x6400_02, 22, 0)]).setShadow 0x5C00_01 0 (.num 1) with commits := { requests := [{ ticket := 1 }] } }),
        ((up [] [(0x6400_02, 22, 0)]).setShadow 0x5C00_01 0 (.num 1)), ({ ticket := 1 }), ((accepted (((up [] [(0x6400_02, 22,
        0)]).setShadow 0x5C00_01 0 (.num 1)).judge (((up [] [(0x6400_02, 22,
        0)]).setShadow 0x5C00_01 0 (.num 1)).drawUp { ticket := 1 }))).1), ([]), ((accepted (((up [] [(0x6400_02, 22,
        0)]).setShadow 0x5C00_01 0 (.num 1)).judge (((up [] [(0x6400_02, 22,
        0)]).setShadow 0x5C00_01 0 (.num 1)).drawUp { ticket := 1 }))).2), by decide +kernel⟩,
    ⟨({ synced with commits := { requests := [{ ticket := 1, wall := true, coordinator := some 1, asked := some (23, 0) }] } }),
        synced, ({ ticket := 1, wall := true, coordinator := some 1, asked := some (23, 0) }),
        ((accepted (synced.judgePrepare (synced.drawUp { ticket := 1, wall := true, coordinator := some 1, asked := some (23, 0) }) 0)).1), ([]), ((accepted (synced.judgePrepare (synced.drawUp { ticket := 1, wall := true, coordinator := some 1, asked := some (23, 0) }) 0)).2), 23, 0, by decide +kernel⟩,
    ⟨({ up [] [] with commits := { requests := [{ ticket := 9 }] } }), 1, 9, by decide +kernel⟩,
    ⟨({ up [] [] with commits := { waiting := [{ ticket := 9 }] } }), 9, ({ ticket := 9 }), by decide +kernel⟩⟩

/-- States and operands that meet the hypotheses of `WallCommitsAreDecided`. -/
theorem witness_WallCommitsAreDecided :
    (∃ (s u : State) (port : Fin 24) (m : WallMsg) (p a : Pending) (fs : List Staged), s.managed = true ∧
        4 ≤ s.reg 0x4400_05 port ∧ m.member ≠ s.member ∧ s.waitingCommit m.ticket = none ∧ (∀ q ∈ s.commits.requests,
        q.ticket ≠ m.ticket) ∧ u = s.addOther { id := m.ticket } ∧
        p = u.drawUp { ticket := m.ticket, slot := m.slot, target := namedFrame m.target, wall := true, coordinator := some m.member, asked := some (port.val, m.tag) } ∧ u.judgePrepare p m.tag = .inr (a, fs) ∧ u.domainsOff a fs = []) ∧
    (∃ (s u : State) (port : Fin 24) (m : WallMsg) (p a : Pending) (fs : List Staged), s.managed = true ∧
        4 ≤ s.reg 0x4400_05 port ∧ m.member ≠ s.member ∧ s.waitingCommit m.ticket = none ∧ (∀ q ∈ s.commits.requests,
        q.ticket ≠ m.ticket) ∧ u = s.addOther { id := m.ticket } ∧
        p = u.drawUp { ticket := m.ticket, slot := m.slot, target := namedFrame m.target, wall := true, coordinator := some m.member, asked := some (port.val, m.tag) } ∧ u.judgePrepare p m.tag = .inr (a, fs) ∧ u.domainsOff a fs ≠ []) ∧
    (∃ (s u : State) (port : Fin 24) (m : WallMsg) (p : Pending) (c : Code) (pair : Nat), s.managed = true ∧
        4 ≤ s.reg 0x4400_05 port ∧ m.member ≠ s.member ∧ s.waitingCommit m.ticket = none ∧ (∀ q ∈ s.commits.requests,
        q.ticket ≠ m.ticket) ∧ u = s.addOther { id := m.ticket } ∧
        p = u.drawUp { ticket := m.ticket, slot := m.slot, target := namedFrame m.target, wall := true, coordinator := some m.member, asked := some (port.val, m.tag) } ∧ u.judgePrepare p m.tag = .inl (c, pair)) ∧
    (∃ (s : State) (port : Fin 24) (m : WallMsg) (p : Pending), s.managed = true ∧ 4 ≤ s.reg 0x4400_05 port ∧
        s.leading m.ticket = some p ∧ p.members.contains m.member = true ∧ s.past (min p.deadline m.sealTime) = false) ∧
    (∃ (s : State) (port : Fin 24) (m : WallMsg) (p : Pending), s.managed = true ∧ 4 ≤ s.reg 0x4400_05 port ∧
        s.leading m.ticket = some p ∧ p.members.contains m.member = true ∧ s.past (min p.deadline m.sealTime) = true) ∧
    (∃ (s : State) (port : Fin 24) (m : WallMsg) (p : Pending), s.managed = true ∧ 4 ≤ s.reg 0x4400_05 port ∧
        s.leading m.ticket = some p ∧ p.members.contains m.member = true) ∧
    (∃ (s : State) (id : Nat) (p : Pending), s.managed = true ∧ s.leading id = some p ∧ s.past p.deadline = true ∧
        p.holdOut = none) ∧
    (∃ (s : State) (id k : Nat) (p : Pending), s.managed = true ∧ s.leading id = some p ∧ s.past p.deadline = true ∧
        p.holdOut = some k) ∧
    (∃ (s : State) (port : Fin 24) (m : WallMsg) (p : Pending), s.managed = true ∧ 4 ≤ s.reg 0x4400_05 port ∧
        s.waitingCommit m.ticket = some p ∧ p.coordinator = some m.member ∧ m.member ≠ s.member) ∧
    (∃ (s : State) (port : Fin 24) (m : WallMsg) (p : Pending), s.managed = true ∧ 4 ≤ s.reg 0x4400_05 port ∧
        s.waitingCommit m.ticket = some p ∧ p.coordinator = some m.member ∧ m.member ≠ s.member ∧ p.lockedIn = false) ∧
    (∃ (s : State) (port : Fin 24), s.managed = true ∧ 4 ≤ s.reg 0x4400_05 port) ∧
    (∃ (s : State) (id w k : Nat) (ms : List Nat), s.managed = true ∧ s.commits.reports.find? (fun r => r.1 == id) = some (id, ms,
        w) ∧ w + 4 ≤ s.wf ∧ k ∈ ms) := by
  exact ⟨⟨synced, ((synced).addOther { id := 9 }), 23, (from1 0xFF),
      (((synced).addOther { id := 9 }).drawUp { ticket := 9, slot := 0xFF, target := namedFrame 60, wall := true, coordinator := some 1, asked := some (23, 0) }), ((accepted (((synced).addOther { id := 9 }).judgePrepare (((synced).addOther { id := 9 }).drawUp { ticket := 9, slot := 0xFF, target := namedFrame 60, wall := true, coordinator := some 1, asked := some (23, 0) }) 0)).1), ((accepted (((synced).addOther { id := 9 }).judgePrepare (((synced).addOther { id := 9 }).drawUp { ticket := 9, slot := 0xFF, target := namedFrame 60, wall := true, coordinator := some 1, asked := some (23, 0) }) 0)).2), by decide +kernel⟩,
    ⟨syncedOff, ((syncedOff).addOther { id := 9 }), 23, (from1 0xFF),
        (((syncedOff).addOther { id := 9 }).drawUp { ticket := 9, slot := 0xFF, target := namedFrame 60, wall := true, coordinator := some 1, asked := some (23, 0) }), ((accepted (((syncedOff).addOther { id := 9 }).judgePrepare (((syncedOff).addOther { id := 9 }).drawUp { ticket := 9, slot := 0xFF, target := namedFrame 60, wall := true, coordinator := some 1, asked := some (23, 0) }) 0)).1), ((accepted (((syncedOff).addOther { id := 9 }).judgePrepare (((syncedOff).addOther { id := 9 }).drawUp { ticket := 9, slot := 0xFF, target := namedFrame 60, wall := true, coordinator := some 1, asked := some (23, 0) }) 0)).2), by decide +kernel⟩,
    ⟨synced, ((synced).addOther { id := 9 }), 23, (from1 3),
        (((synced).addOther { id := 9 }).drawUp { ticket := 9, slot := 3, target := namedFrame 60, wall := true, coordinator := some 1, asked := some (23, 0) }), ((refused (((synced).addOther { id := 9 }).judgePrepare (((synced).addOther { id := 9 }).drawUp { ticket := 9, slot := 3, target := namedFrame 60, wall := true, coordinator := some 1, asked := some (23, 0) }) 0)).1), ((refused (((synced).addOther { id := 9 }).judgePrepare (((synced).addOther { id := 9 }).drawUp { ticket := 9, slot := 3, target := namedFrame 60, wall := true, coordinator := some 1, asked := some (23, 0) }) 0)).2), by decide +kernel⟩,
    ⟨(wall { waiting := [{ led with deadline := 1000 }] }), 23, ({ from1 0xFF with sealTime := 1000 }),
        ({ led with deadline := 1000 }), by decide +kernel⟩,
    ⟨(late (wall { waiting := [led] })), 23, (from1 0xFF), led, by decide +kernel⟩,
    ⟨(wall { waiting := [led] }), 23, (from1 0xFF), led, by decide +kernel⟩,
    ⟨(wall { waiting := [{ led with answers := [(0, 0), (1, 0)] }] }), 9, ({ led with answers := [(0, 0), (1, 0)] }),
        by decide +kernel⟩,
    ⟨(wall { waiting := [{ led with answers := [(0, 0)] }] }), 9, 1, ({ led with answers := [(0, 0)] }), by decide +kernel⟩,
    ⟨(wall { waiting := [followed] }), 23, (from1 0xFF), followed, by decide +kernel⟩,
    ⟨(wall { waiting := [followed] }), 23, (from1 0xFF), followed, by decide +kernel⟩,
    ⟨(wall {}), 23, by decide +kernel⟩,
    ⟨({ wall { reports := [(9, [1, 2], 0)] } with time := { counter := 66666667 } }), 9, 0, 2, ([1, 2]), by decide +kernel⟩⟩

/-- States and operands that meet the hypotheses of `MembersJoinAndLeave`. -/
theorem witness_MembersJoinAndLeave :
    (∃ (s : State) (port : Fin 24) (member serial : Nat), s.managed = true ∧ 4 ≤ s.reg 0x4400_05 port ∧ member < 64 ∧
        member ≠ s.member ∧ serial ≠ Config.serialNumber.toNat) ∧
    (∃ (s : State) (port : Fin 24) (serial : Nat), s.managed = true ∧ 4 ≤ s.reg 0x4400_05 port ∧ s.member < 64 ∧
        s.reg 0x2800_06 = 1 ∧ serial ≠ Config.serialNumber.toNat) ∧
    (∃ (s : State) (port : Fin 24), s.managed = true ∧ 4 ≤ s.reg 0x4400_05 port) ∧
    (∃ (s : State), s.managed = true ∧ s.presents = false) ∧
    (∃ (s : State), s.managed = true ∧ s.reg 0x2800_06 = 0 ∧ s.presents = true ∧ (∀ a, s.commits.lastPresence = some a →
        a + 100 * milli ≤ s.now)) ∧
    (∃ (s : State), s.managed = true) ∧
    (∃ (s : State) (a : Nat), s.managed = true ∧ s.commits.listenSince = some a ∧ s.reg 0x2800_06 = 1 ∧ a + presenceSpan ≤ s.now) ∧
    (∃ (s : State) (ss v : Nat), s.managed = true ∧ s.mayWrite ss 0x2400_09 (.num v) = true ∧ v ≠ s.member) := by
  exact ⟨⟨(wall {}), 23, 63, (Config.serialNumber.toNat + 1), by decide +kernel, by decide +kernel, by decide +kernel,
      by decide +kernel, by omega⟩,
    ⟨(put (wall {}) [(0x2800_06, 0, 1)]), 23, (Config.serialNumber.toNat + 1), by decide +kernel, by decide +kernel,
        by decide +kernel, by decide +kernel, by omega⟩,
    ⟨(wall {}), 23, by decide +kernel⟩,
    ⟨(put (wall {}) [(0x5800_03, 0, 4)]), by decide +kernel⟩,
    ⟨(put (wall { lastPresence := some 0 }) [(0x2800_06, 0, 0)] |> fun s => { s with time := { uptime := 100000000 } }),
        by decide +kernel, by decide +kernel, by decide +kernel, fun a h => (by cases h; decide +kernel)⟩,
    ⟨(wall {}), by decide +kernel⟩,
    ⟨({ wall { listenSince := some 0 } with regs := (put (wall {}) [(0x2800_06, 0, 1)]).regs, time := { uptime := 1000000000 } }),
        0, by decide +kernel⟩,
    ⟨(up [] []), 1, 63, by decide +kernel⟩⟩

/-- The table without its check. -/
def unitBody : Bytes :=
  beBytes 4 0x44514354 ++ [0, 1, 1, 6] ++ (List.replicate 64 ([4, 0] ++ List.replicate 10 0)).flatten

/-- A vertical table that passes the input through: six taps in each of 64 phases. -/
def unitTable : Bytes :=
  unitBody ++ beBytes 4 (crc32c unitBody)

/-- Output 31 on engine 0, whose writeback goes to host slot 0. -/
def writing (e : Engine) (g : Ingot) : State :=
  let s := up [] [(0x3400_02, 31, 1), (0x3420_03, 15, 0xFF1F), (0x3080_02, 15, 1), (0x3080_04, 15, 0)]
  { s with
    time := { s.time with counter := 200000000 }
    outputs := [(31, { running := true, started := true, kind := .composed })]
    engines := [(15, e)]
    sources := [(0, src 3)], slots := [(0, { set := [0, 1] })], ingots := pool g }

/-- States and operands that meet the hypotheses of `TablesLoadAndWritebacksPublish`. -/
theorem witness_TablesLoadAndWritebacksPublish :
    (∃ (s : State) (ss : Nat) (b : Bytes), s.managed = true ∧ s.mayWrite ss 0x3040_02 (.bytes b) = true ∧
        factoryTable (s.partOf ss 0x3040_02) = false ∧ tableFormed (s.partOf ss 0x3040_02) b = true ∧
        tableInRange (s.partOf ss 0x3040_02) b = true) ∧
    (∃ (s : State) (e : Fin 16) (o : Nat), s.live = true ∧ s.fabricWorks = true ∧ s.writebackOf e = some o ∧
        (s.output o).started = true ∧ (s.output o).kind = .composed ∧ (s.engine e).wbOf ≠ some (s.output o).ofNow ∧
        s.reached (s.lineTime o (s.reg 0x3080_06 e)) = true ∧ (s.engine e).wbIngot = none ∧ s.freeOf (s.reg 0x3080_04 e) ≠ []) ∧
    (∃ (s : State) (e : Fin 16) (o i : Nat), s.live = true ∧ s.fabricWorks = true ∧ s.writebackOf e = some o ∧
        (s.engine e).wbIngot = some i ∧ (s.engine e).wbOf = some (s.output o).ofNow ∧ (s.ingot i).st = .filling ∧
        (s.ingot i).filler = .writeback ∧ s.reached (s.lineTime o (s.reg 0x3080_06 e + s.reg 0x3080_08 e)) = true) := by
  exact ⟨⟨(up (sel 0x3040_01 20) []), 1, unitTable, by decide +kernel, by decide +kernel, by decide +kernel,
      by unfold tableFormed; rw [show crcTailOk unitTable = true from crcTailOk_append unitBody]; decide +kernel,
      by decide +kernel⟩,
    ⟨(writing {} {}), 15, 31, by decide +kernel⟩,
    ⟨(writing { wbIngot := some 0, wbOf := some 0 } { st := .filling, filler := .writeback }), 15, 31, 0, by decide +kernel⟩⟩

/-- The first frame of context 0. -/
def camFrame : CamFrame :=
  { ctx := 0, seq := 1, slot := 0, origin := 0, unlocked := false, era := 0, isp := { width := 8, height := 4, dataType := 0x2A } }

/-- A device with camera port 0 and context 0, which source slot 0 shows. -/
def cam (x : Ctx) (l : List (Nat × Nat × Nat)) : State :=
  { up [] ([(0x1000_05, 0, 2), (0x3800_02, 0, 1), (0x3840_02, 0, 1)] ++ l) with
    ctxs := [(0, x)], sources := [(0, src 1)], slots := [(0, { set := [0, 1] })], ingots := pool {} }

/-- The same with a blob. -/
def withBlob (s : State) (key : Nat) (b : Bytes) : State := { s with blobs := (key * 65536, b) :: s.blobs }

/-- A blob with its check at the end. -/
def checked (b : Bytes) : Bytes := b ++ beBytes 4 (crc32c b)

/-- Pipeline 0 at work on the first frame into Ingot 0. -/
def isp (f : Filler) : State := { cam {} [(0x3840_06, 0, 8), (0x3840_07, 0, 8)] with
  pipes := [(0, { frame := some camFrame, display := some 0 })], ingots := pool { st := .filling, filler := f } }

/-- An exposure transfer. -/
def exposing : State := cam { transfer := some { gen := 1, frame := 0 } } []

/-- A host transfer on port 0's control bus. -/
def busy (started : Bool) (l : List (Nat × Nat × Nat)) : State :=
  { cam {} l with camPorts := [(0, { xfer := some { write := [5], read := 0, address := 16, since := 0, started := started } })] }

/-- The device a second and more later. -/
def aged (s : State) : State := { s with time := { s.time with uptime := 10000000000 } }

/-- States and operands that meet the hypotheses of `CameraFramesArrive`. -/
theorem witness_CameraFramesArrive :
    (∃ (s : State) (p vc : Fin 16) (ecc : Fin 3) (c slot : Nat) (src : Source), s.live = true ∧ s.edgeRole = true ∧
        s.flag 0x3800_02 p = true ∧ ecc.val ≠ 2 ∧ s.contextsOn p vc = [c] ∧ s.commits.waiting = [] ∧ (s.ctx c).cur = none ∧
        (s.ctx c).owed = false ∧ s.displayOf c = some (slot, src) ∧ (s.ctx c).lastAcceptedFs = none ∧ (s.ctx c).transfer = none ∧
        (s.stagingTaken c).contains 0 = false) ∧
    (∃ (s : State) (p : Fin 16), s.live = true ∧ s.edgeRole = true ∧ s.flag 0x3800_02 p = true ∧ (∀ c ∈ s.portContexts p,
        (s.ctx c).cur = none)) ∧
    (∃ (s : State) (p vc : Fin 16) (ecc : Fin 3) (c slot : Nat) (src : Source) (dt : BitVec 6) (b : Bytes) (f : CamFrame),
        s.live = true ∧ s.edgeRole = true ∧ s.flag 0x3800_02 p = true ∧ ecc.val ≠ 2 ∧ s.contextsOn p vc = [c] ∧
        (s.ctx c).cur = some f ∧ s.displayOf c = some (slot, src) ∧ dt.toNat = f.isp.dataType ∧ dt ≠ 0x12 ∧
        b.length * 8 = f.isp.width * bitsPerPixel dt.toNat ∧ f.lines.length < f.isp.height ∧ Memory.wf s.cells = true) ∧
    (∃ (s : State) (p vc : Fin 16) (ecc : Fin 3) (c : Nat) (f : CamFrame), s.live = true ∧ s.edgeRole = true ∧
        s.flag 0x3800_02 p = true ∧ ecc.val ≠ 2 ∧ s.contextsOn p vc = [c] ∧ (s.ctx c).cur = some f ∧ f.marks = 0 ∧
        f.isp.height ≤ f.lines.length ∧ (s.ctx c).deferred = []) ∧
    (∃ (s : State) (c : Fin 32) (f : CamFrame), s.live = true ∧ (s.ctx c).cur = some f ∧
        f.lastPacket + s.reg 0x3840_17 c * 1000 ≤ s.now) ∧
    (∃ (s : State) (p : Fin 16), s.live = true ∧ (s.reg 0x3800_07 p = 1 ∨ s.reg 0x3800_07 p = 2) ∧
        (s.camPort p).lastFs.getD (s.camPort p).enabledAt + s.reg 0x3800_08 p * milli ≤ s.now) ∧
    (∃ (s : State) (p : Fin 16), s.live = true ∧ s.reg 0x3800_07 p ≠ 0) := by
  exact ⟨⟨(cam {} []), 0, 0, 0, 0, 0, (src 1), by decide +kernel⟩,
    ⟨(cam {} []), 0, by decide +kernel⟩,
    ⟨(cam { cur := some camFrame } []), 0, 0, 0, 0, 0, (src 1), 0x2A, ([1, 2, 3, 4, 5, 6, 7, 8]), camFrame, by decide +kernel⟩,
    ⟨(cam { cur := some { camFrame with lines := List.replicate 4 [0] } } []), 0, 0, 0, 0,
        ({ camFrame with lines := List.replicate 4 [0] }), by decide +kernel⟩,
    ⟨(aged (cam { cur := some camFrame } [])), 0, camFrame, by decide +kernel⟩,
    ⟨(aged (cam {} [(0x3800_07, 0, 1)])), 0, by decide +kernel⟩,
    ⟨(cam {} [(0x3800_07, 0, 1)]), 0, by decide +kernel⟩⟩

/-- States and operands that meet the hypotheses of `PipelinesFinishFrames`. -/
theorem witness_PipelinesFinishFrames :
    (∃ (s : State) (k slot : Nat) (src : Source) (f : CamFrame), s.live = true ∧ s.fabricWorks = true ∧
        (s.pipelines.find? fun k => (s.pipe k).frame.isNone) = some k ∧ s.nextWaiting = some f ∧ s.displayOf f.ctx = some (slot,
        src) ∧ f.isp.coding = 0 ∧ f.isp.vision = 0 ∧ s.freeOf slot ≠ []) ∧
    (∃ (s : State) (k : Fin 4) (f : CamFrame) (i : Nat), s.live = true ∧ s.fabricWorks = true ∧
        s.pipe k = { frame := some f, display := some i } ∧ f.marks = 0 ∧ (s.ingot i).st = .filling ∧ (s.ingot i).filler = .isp) ∧
    (∃ (s : State) (k : Fin 4) (f : CamFrame) (i : Nat), s.live = true ∧ s.pipe k = { frame := some f, display := some i } ∧
        (s.ingot i).st = .filling) := by
  exact ⟨⟨(cam { waiting := [camFrame] } []), 0, 0, (src 1), camFrame, by decide +kernel⟩,
    ⟨(isp .isp), 0, camFrame, 0, by decide +kernel⟩,
    ⟨(isp .isp), 0, camFrame, 0, by decide +kernel⟩⟩

/-- States and operands that meet the hypotheses of `ExposureFollowsItsGenerations`. -/
theorem witness_ExposureFollowsItsGenerations :
    (∃ (s : State) (c : Fin 32) (e : ExpGen) (g q : Nat), s.managed = true ∧ s.commits.waiting = [] ∧ (s.ctx c).stats = some (g,
        true, true, q) ∧ (s.ctx c).issued g = some e ∧ s.flag 0x3840_02 c = true ∧ g = s.reg 0x3860_0A c ∧ s.reg 0x3860_01 c = 0 ∧
        s.profile c ≠ [] ∧ (histogramMean (s.blob 0x3840_1A c)).isSome = true) ∧
    (∃ (s : State) (c : Fin 32), s.managed = true ∧ s.flag 0x3840_02 c = true ∧ s.reg 0x3860_07 c = 0 ∧ (s.ctx c).balance = true) ∧
    (∃ (s : State) (c : Fin 32) (x : ExpXfer), s.managed = true ∧ (s.ctx c).transfer = some x) ∧
    (∃ (s : State) (c : Fin 32) (x : ExpXfer), s.managed = true ∧ (s.ctx c).transfer = some x) ∧
    (∃ (s : State) (p : Fin 16) (x : BusXfer), s.managed = true ∧ (s.camPort p).xfer = some x ∧ x.started = true) ∧
    (∃ (s : State) (p : Fin 16) (c : Nat) (x : ExpXfer), s.managed = true ∧ (s.camPort p).xfer = none ∧ s.portContexts p = [c] ∧
        (s.ctx c).transfer = some x) := by
  exact ⟨⟨(withBlob (withBlob (cam { stats := some (0, true, true, 0), gens := [{ gen := 0, lines := 100, analogue := 256, digital := 256 }] } []) 0x3840_0D [1]) 0x3840_1A (List.replicate 72 1)), 0, ({ gen := 0, lines := 100, analogue := 256, digital := 256 }), 0, 0, by decide +kernel⟩,
    ⟨(withBlob (cam { balance := true } []) 0x3840_1A (List.replicate 8 1)), 0, by decide +kernel⟩,
    ⟨exposing, 0, ({ gen := 1, frame := 0 }), by decide +kernel⟩,
    ⟨exposing, 0, ({ gen := 1, frame := 0 }), by decide +kernel⟩,
    ⟨(busy true []), 0, ({ write := [5], read := 0, address := 16, since := 0, started := true }), by decide +kernel⟩,
    ⟨exposing, 0, 0, ({ gen := 1, frame := 0 }), by decide +kernel⟩⟩

/-- States and operands that meet the hypotheses of `ControlBusTransfersRun`. -/
theorem witness_ControlBusTransfersRun :
    (∃ (s : State) (ss p : Nat) (b q : Bytes), s.managed = true ∧ s.mayWrite ss 0x3800_0B (.bytes b) = true ∧
        p = s.partOf ss 0x3800_0B ∧ s.portProfile p = some q ∧ s.flag 0x3800_02 p = true ∧ hostTransferOk b = true ∧
        (s.camPort p).xfer = none) ∧
    (∃ (s : State) (p : Fin 16) (x : BusXfer), s.managed = true ∧ (s.camPort p).xfer = some x ∧ x.started = false ∧
        s.hostMayStart p x = true) ∧
    (∃ (s : State) (p : Fin 16) (x : BusXfer), s.managed = true ∧ (s.camPort p).xfer = some x ∧ x.started = true) ∧
    (∃ (s : State) (p : Fin 16) (x : BusXfer), s.managed = true ∧ (s.camPort p).xfer = some x ∧ x.started = true) ∧
    (∃ (s : State) (p : Fin 16) (x : BusXfer), s.managed = true ∧ (s.camPort p).xfer = some x ∧ x.started = false ∧
        x.since + second ≤ s.now) ∧
    (∃ (s : State) (ss i : Nat) (b : Bytes), s.managed = true ∧ s.mayWrite ss 0x3870_02 (.bytes b) = true ∧
        i = s.partOf ss 0x3870_02 ∧ temperFormed (i % 8) b = true ∧
        temperInRange (i % 8) (s.reg 0x3840_06 (i / 8)) (s.reg 0x3840_07 (i / 8)) b = true) ∧
    (∃ (s : State) (ss i : Nat) (b : Bytes), s.managed = true ∧ s.mayWrite ss 0x3840_0D (.bytes b) = true ∧
        i = s.partOf ss 0x3840_0D ∧ profileOk b = true) := by
  exact ⟨⟨(withBlob (cam {} []) 0x3840_0D [1]), 1, 0, ([0, 1, 0, 0, 5]), ([1]), by decide +kernel⟩,
    ⟨(busy false []), 0, ({ write := [5], read := 0, address := 16, since := 0, started := false }), by decide +kernel⟩,
    ⟨(busy true []), 0, ({ write := [5], read := 0, address := 16, since := 0, started := true }), by decide +kernel⟩,
    ⟨(busy true []), 0, ({ write := [5], read := 0, address := 16, since := 0, started := true }), by decide +kernel⟩,
    ⟨(aged (busy false [])), 0, ({ write := [5], read := 0, address := 16, since := 0, started := false }), by decide +kernel⟩,
    ⟨(up (sel 0x3840_01 0 ++ sel 0x3870_01 2) []), 1, 2, (checked (beBytes 4 0x44515454 ++ [0, 1, 2, 0, 0, 0])), by decide +kernel⟩,
    ⟨(up [] []), 1, 0, (checked (beBytes 4 0x44515350 ++ [0, 1, 16, 0, 0, 0, 39, 16, 1, 0, 0, 0, 0, 0, 0, 0, 0, 0])),
        by decide +kernel⟩⟩

/-- A device whose lane 0 is as given, in a state. -/
def laneAt (st : Nat) (x : Lane) (l : List (Nat × Nat × Nat)) : State :=
  { up [] ([(0x4000_02, 0, st)] ++ l) with lanes := [(0, x)] }

/-- Port 0 on lane 0 in service, with a ready spare. -/
def spared (l : List (Nat × Nat × Nat)) : State :=
  laneAt 8 {} ([(0x4400_02, 0, 1), (0x4400_09, 0, 2), (0x400C_02, 0, 0), (0x400C_03, 0, 1), (0x4000_02, 48, 9)] ++ l)

/-- The same without the spare. -/
def inPort (x : Lane) (l : List (Nat × Nat × Nat)) : State := laneAt 8 x ([(0x4400_02, 0, 1), (0x4400_09, 0, 2)] ++ l)

/-- The device ten seconds later. -/
def later (s : State) : State := { s with time := { s.time with uptime := 10000000000 } }

/-- An anchor of logical lane `k`. -/
def anchor (k : Nat) : Nat :=
  let w := 0x7FF8A5 * 2 ^ 24 + k * 2 ^ 16
  (w * 256) * 256 + crc8 (beBytes 7 (w * 256))

/-- States and operands that meet the hypotheses of `LanesComeUp`. -/
theorem witness_LanesComeUp :
    (∃ (s : State) (l : Fin 52), s.live = true ∧ s.reg 0x4000_02 l = 1 ∧ s.laneMates l = [l.val]) ∧
    (∃ (s : State) (l : Fin 52) (k : Nat), s.live = true ∧ s.reg 0x4000_02 l = 1 ∧ l.val ∈ s.laneMates l ∧ k ∈ s.laneMates l ∧
        k ≠ l.val ∧ (s.reg 0x4000_02 k ≠ 1 ∨ (s.lane k).stepDone = false)) ∧
    (∃ (s : State) (l : Fin 52) (w : BitVec 64), s.live = true ∧ bits w.toNat 63 56 = 0x2D ∧ s.reg 0x4000_02 l = 3 ∧
        (s.lane l).capSeen < 3) ∧
    (∃ (s : State) (w : BitVec 64), s.live = true ∧ blockTypes.contains (bits w.toNat 63 56) = false) ∧
    (∃ (s : State) (l : Fin 52) (w : BitVec 64), s.live = true ∧ bits w.toNat 63 56 = 0x55 ∧ s.reg 0x4000_02 l = 4 ∧
        bits w.toNat 40 38 = s.reg 0x4000_03 l ∧ (s.lane l).selfDone = false) ∧
    (∃ (s : State) (l : Fin 52) (r : Nat), s.live = true ∧ s.reg 0x4000_02 l = 5 ∧ (s.lane l).stepDone = false ∧
        (s.lane l).since + milli ≤ s.now ∧ (s.lane l).solo = .no ∧ s.laneMates l = [l.val] ∧ (s.lane l).finalRate = false ∧
        s.nextRate [l.val] (s.reg 0x4000_03 l) = some r) ∧
    (∃ (s : State) (l : Fin 52), s.live = true ∧ s.reg 0x4000_02 l = 5 ∧ (s.lane l).stepDone = false ∧
        (s.lane l).since + milli ≤ s.now ∧ (s.lane l).solo = .no ∧ s.laneMates l = [l.val] ∧
        ((s.lane l).finalRate = true ∨ s.nextRate [l.val] (s.reg 0x4000_03 l) = none)) ∧
    (∃ (s : State) (l : Fin 52) (w : BitVec 64), s.live = true ∧ bits w.toNat 63 56 = 0x66 ∧ s.reg 0x4000_02 l = 6 ∧
        (s.lane l).stepDone = false ∧ (s.lane l).finalRate = false ∧ l.val ∈ s.laneMates l ∧
        s.nextRate (s.laneMates l) (s.reg 0x4000_03 l) = some (bits w.toNat 55 53) ∧ (s.lane l).leads = true ∧
        bitAt w.toNat 51 = true) ∧
    (∃ (s : State) (l : Fin 52) (w : BitVec 64), s.live = true ∧ bits w.toNat 63 56 = 0x66 ∧ s.reg 0x4000_02 l = 6 ∧
        (s.lane l).stepDone = false ∧ (s.lane l).finalRate = false ∧ l.val ∈ s.laneMates l ∧
        s.nextRate (s.laneMates l) (s.reg 0x4000_03 l) = some (bits w.toNat 55 53) ∧ (s.lane l).leads = false ∧
        bitAt w.toNat 52 = true) ∧
    (∃ (s : State) (l : Fin 52) (r : Nat), s.live = true ∧ (s.lane l).stepTo = some r ∧ s.reg 0x4000_02 l = 6 ∧
        (s.lane l).finalRate = true) ∧
    (∃ (s : State) (l : Fin 52) (r : Nat), s.live = true ∧ (s.lane l).stepTo = some r ∧ s.reg 0x4000_02 l = 6 ∧
        (s.lane l).finalRate = false ∧ (∀ k ∈ s.laneMates l, s.reg 0x4000_02 k = 6 → (s.lane k).stepDone = true)) ∧
    (∃ (s : State) (l : Fin 52) (w : BitVec 64), s.live = true ∧ bits w.toNat 63 56 = 0x78 ∧ s.reg 0x4000_02 l = 7) ∧
    (∃ (s : State) (l : Fin 52) (p : Nat), s.live = true ∧ l.val < 48 ∧ s.reg 0x4000_02 l = 7 ∧ s.portOfLane l = some p ∧ p < 24 ∧
        s.reg 0x4400_09 p = 1 ∧ (∀ k ∈ s.portLanes p, k ≠ l.val → s.reg 0x4000_02 k = 8)) ∧
    (∃ (s : State) (l : Fin 52), s.live = true ∧ l.val < 48 ∧ s.reg 0x4000_02 l = 7 ∧ s.portOfLane l = none) := by
  exact ⟨⟨(laneAt 1 {} []), 0, by decide +kernel⟩,
    ⟨(laneAt 1 {} [(0x4400_02, 0, 1), (0x4400_04, 0, 2), (0x4400_09, 0, 1)]), 0, 1, by decide +kernel⟩,
    ⟨(laneAt 3 {} []), 0, 0x2D00000000000000, by decide +kernel⟩,
    ⟨(laneAt 3 {} []), 0, by decide +kernel⟩,
    ⟨(laneAt 4 {} [(0x4000_03, 0, 0)]), 0, 0x5500000000000000, by decide +kernel⟩,
    ⟨(later (laneAt 5 { capA := 63 * 2 ^ 46 } [(0x4000_03, 0, 0), (0x4008_05, 0, 0x5555)])), 0, 1, by decide +kernel⟩,
    ⟨(later (laneAt 5 {} [])), 0, by decide +kernel⟩,
    ⟨(laneAt 6 { capA := 63 * 2 ^ 46, seed := 1 } [(0x4000_03, 0, 0), (0x4008_05, 0, 0x5555)]), 0,
        (0x6600000000000000 + 2 ^ 53 + 2 ^ 51), by decide +kernel⟩,
    ⟨(laneAt 6 { capA := 63 * 2 ^ 46, seed := 0 } [(0x4000_03, 0, 0), (0x4008_05, 0, 0x5555)]), 0,
        (0x6600000000000000 + 2 ^ 53 + 2 ^ 52), by decide +kernel⟩,
    ⟨(laneAt 6 { stepTo := some 2, finalRate := true } []), 0, 2, by decide +kernel⟩,
    ⟨(laneAt 6 { stepTo := some 2, stepDone := true } []), 0, 2, by decide +kernel⟩,
    ⟨(laneAt 7 {} []), 0, 0x7800000000000000, by decide +kernel⟩,
    ⟨(laneAt 7 {} [(0x4400_02, 0, 1), (0x4400_09, 0, 1)]), 0, 0, by decide +kernel⟩,
    ⟨(laneAt 7 {} []), 0, by decide +kernel⟩⟩

/-- States and operands that meet the hypotheses of `LanesFallBack`. -/
theorem witness_LanesFallBack :
    (∃ (s : State) (l : Fin 52), s.live = true ∧ s.reg 0x4000_02 l ∈ [3, 4, 5, 6, 7]) ∧
    (∃ (s : State) (l : Fin 52), s.live = true ∧ l.val < 48 ∧ (s.lane l).solo = .no ∧ l.val ∈ s.laneMates l ∧
        (∀ k ∈ s.laneMates l, k < 52) ∧ s.reg 0x4000_02 l = 1 ∧ (s.lane l).since + milli ≤ s.now) ∧
    (∃ (s : State) (l : Fin 52), s.live = true ∧ l.val < 48 ∧ (s.lane l).solo = .no ∧ l.val ∈ s.laneMates l ∧
        (∀ k ∈ s.laneMates l, k < 52) ∧ s.reg 0x4000_02 l = 3 ∧ (s.lane l).since + 2 * milli ≤ s.now) ∧
    (∃ (s : State) (l : Fin 52), s.live = true ∧ (s.lane l).solo = .no ∧ l.val ∈ s.laneMates l ∧ (∀ k ∈ s.laneMates l, k < 52) ∧
        s.reg 0x4000_02 l = 2 ∧ (s.lane l).since + s.backOffTime l ≤ s.now) ∧
    (∃ (s : State) (l : Fin 52) (r q : Nat) (rest : List (Nat × Nat)), s.live = true ∧ l.val < 48 ∧ (s.lane l).solo = .no ∧
        s.laneMates l = [l.val] ∧ s.reg 0x4000_02 l = 4 ∧ (s.lane l).since + 5 * milli ≤ s.now ∧ (s.lane l).rates = (r,
        q) :: rest) ∧
    (∃ (s : State) (l : Fin 52), s.live = true ∧ l.val < 48 ∧ (s.lane l).solo = .no ∧ s.laneMates l = [l.val] ∧
        s.reg 0x4000_02 l = 4 ∧ (s.lane l).since + 5 * milli ≤ s.now ∧ (s.lane l).rates = []) := by
  exact ⟨⟨(laneAt 3 {} []), 0, by decide +kernel⟩,
    ⟨(later (laneAt 1 {} [])), 0, by decide +kernel⟩,
    ⟨(later (laneAt 3 {} [])), 0, by decide +kernel⟩,
    ⟨(later (laneAt 2 {} [])), 0, by decide +kernel⟩,
    ⟨(later (laneAt 4 { rates := [(1, 5)] } [])), 0, 1, 5, ([]), by decide +kernel⟩,
    ⟨(later (laneAt 4 {} [])), 0, by decide +kernel⟩⟩

/-- States and operands that meet the hypotheses of `LanesRunOnAnchors`. -/
theorem witness_LanesRunOnAnchors :
    (∃ (s : State) (p : Fin 24), s.live = true ∧ s.reg 0x4400_09 p = 2 ∧ (s.port p).bankReq = false ∧ (∀ k,
        k < s.reg 0x4400_04 p → s.reg 0x4000_02 (s.carrierOf p k) ≠ 9) ∧ (∀ o, (s.output o).trailerDue = false)) ∧
    (∃ (s : State) (p : Fin 24), s.live = true ∧ s.reg 0x4400_09 p = 2 ∧ (s.port p).bankReq = true ∧ (s.port p).outbox = []) ∧
    (∃ (s : State) (l : Fin 52) (p : Nat) (w : BitVec 64) (sk : Nat), s.live = true ∧ s.portOfLane l = some p ∧
        s.reg 0x4000_02 l = 8 ∧ 2 ≤ (s.lane l).anchorLock ∧ (s.lane l).carries = none ∧ bits w.toNat 63 40 = 0x7FF8A5 ∧
        w.toNat % 256 = crc8 (beBytes 7 (w.toNat / 256)) ∧ (s.readySpares p).contains l.val = false ∧
        bits w.toNat 39 32 < s.reg 0x4400_04 p ∧ bits w.toNat 39 32 ≠ 0 ∧ sk ≤ 20 ∧ bitAt (bits w.toNat 15 8) 3 = false ∧
        bitAt (s.reg 0x4000_05 l) 4 = false ∧ (∀ k ∈ s.carriers p, k ≠ l.val → s.reg 0x4000_02 k = 8 →
        s.reg 0x4000_06 k ≠ bits w.toNat 39 32) ∧ (s.port p).backFrom ≠ some l.val ∧ (s.port p).peerReq = none) ∧
    (∃ (s : State) (l : Fin 52) (p : Nat) (w : BitVec 64), s.live = true ∧ s.portOfLane l = some p ∧ s.reg 0x4000_02 l = 8 ∧
        (s.lane l).anchorLock = 0 ∧ (s.lane l).carries = none ∧ bits w.toNat 63 40 = 0x7FF8A5 ∧
        w.toNat % 256 = crc8 (beBytes 7 (w.toNat / 256))) ∧
    (∃ (s : State) (l : Fin 52) (p : Nat) (w : BitVec 64), s.live = true ∧ s.portOfLane l = some p ∧ s.reg 0x4000_02 l = 8 ∧
        2 ≤ (s.lane l).anchorLock ∧ bits w.toNat 63 40 = 0x7FF8A5 ∧ w.toNat % 256 ≠ crc8 (beBytes 7 (w.toNat / 256)) ∧
        (s.lane l).blockErr + 1 < s.reg 0x4000_0D l ∧ (s.lane l).blockN + 1 < 1024) ∧
    (∃ (s : State) (l : Fin 52), s.live = true ∧ s.reg 0x4000_02 l = 8 ∧ (s.lane l).mayBank = false ∧ 2 ≤ (s.lane l).anchorLock ∧
        (s.lane l).lostRun = 0 ∧ (s.lane l).blockErr + 1 < s.reg 0x4000_0D l) ∧
    (∃ (s : State) (l : Fin 52) (p x : Nat) (rest : List Nat), s.live = true ∧ s.reg 0x4000_02 l = 8 ∧ l.val < 48 ∧
        s.portOfLane l = some p ∧ s.readySpares p = x :: rest ∧ (s.readySpares p).contains l.val = false ∧
        (s.lane l).carries = none ∧ (s.port p).substReq = none ∧ s.recover.queue.length < 8 ∧ x < 52) ∧
    (∃ (s : State) (l : Fin 52) (p x : Nat) (rest : List Nat), s.live = true ∧ s.reg 0x4000_02 l = 8 ∧ l.val < 48 ∧
        s.portOfLane l = some p ∧ s.readySpares p = x :: rest ∧ (s.readySpares p).contains l.val = false ∧
        (s.lane l).carries = none ∧ (s.port p).substReq = none ∧ s.recover.queue.length < 8 ∧ x < 52) ∧
    (∃ (s : State) (p : Fin 24), s.live = true ∧ s.reg 0x4400_09 p = 2 ∧ 2 ≤ s.portRate p ∧ s.portStreams p = false ∧
        (s.port p).idleSince + s.reg 0x4000_0C (s.reg 0x4400_03 p) * 1000 ≤ s.now) ∧
    (∃ (s : State) (p : Fin 24), s.live = true ∧ s.reg 0x4400_09 p = 4 ∧ (s.port p).parked = false ∧
        s.bankedLongEnough p = true) := by
  exact ⟨⟨(inPort {} []), 0, by decide +kernel, by decide +kernel, by decide +kernel, by decide +kernel, fun _ => rfl⟩,
    ⟨({ inPort {} [] with ports := [(0, { bankReq := true })] }), 0, by decide +kernel⟩,
    ⟨(inPort { anchorLock := 2 } [(0x4400_04, 0, 2)]), 0, 0, (BitVec.ofNat 64 (anchor 1)), 0, by decide +kernel⟩,
    ⟨(inPort {} []), 0, 0, (BitVec.ofNat 64 (anchor 1)), by decide +kernel⟩,
    ⟨(inPort { anchorLock := 2 } []), 0, 0, (BitVec.ofNat 64 (anchor 1) + 1), by decide +kernel⟩,
    ⟨(inPort { anchorLock := 2 } []), 0, by decide +kernel⟩,
    ⟨(later (spared [])), 0, 0, 48, ([]), by decide +kernel⟩,
    ⟨(later (spared [])), 0, 0, 48, ([]), by decide +kernel⟩,
    ⟨(later (inPort {} [(0x4000_03, 0, 2)])), 0, by decide +kernel⟩,
    ⟨(later (inPort {} [(0x4400_09, 0, 4)])), 0, by decide +kernel⟩⟩

/-- States and operands that meet the hypotheses of `LanesAreTestedAndSwitchedBack`. -/
theorem witness_LanesAreTestedAndSwitchedBack :
    (∃ (s : State) (ss v l p x : Nat) (rest : List Nat), s.managed = true ∧ s.mayWrite ss 0x4000_17 (.num v) = true ∧
        l = s.partOf ss 0x4000_17 ∧ s.portOfLane l = some p ∧ s.reg 0x4000_02 l = 8 ∧ s.anyRetrain = false ∧
        (s.port p).substReq = none ∧ (s.readySpares p).contains l = false ∧ s.readySpares p = x :: rest ∧
        s.recover.queue.length < 8) ∧
    (∃ (s : State) (ss v k : Nat), s.managed = true ∧ s.mayWrite ss 0x5810_06 (.num v) = true ∧ s.servingLane v = some k ∧
        (s.lane v).ready = true ∧ s.recover.queue.length < 8) ∧
    (∃ (s : State) (v k p : Nat) (rest : List Recovery), s.managed = true ∧ s.recovering = 0 ∧
        s.recover.queue = .laneBack v :: rest ∧ s.servingLane v = some k ∧ s.portOfLane v = some p ∧ (s.lane v).ready = true ∧
        s.portInService p = true ∧ (s.port p).substReq = none) ∧
    (∃ (s : State) (l : Fin 52) (p k : Nat) (w : BitVec 64), s.live = true ∧ s.portOfLane l = some p ∧ s.reg 0x4000_02 l = 8 ∧
        2 ≤ (s.lane l).anchorLock ∧ (s.lane l).carries = some l.val ∧ (s.port p).backFrom = some k ∧ k ≠ l.val ∧
        (s.port p).substReq = some (bits w.toNat 39 32) ∧ (s.port p).substGood = 1 ∧ (s.port p).substLater = none ∧
        bits w.toNat 63 40 = 0x7FF8A5 ∧ w.toNat % 256 = crc8 (beBytes 7 (w.toNat / 256)) ∧
        bits w.toNat 39 32 < s.reg 0x4400_04 p ∧ bits w.toNat 39 32 ≠ 0 ∧ bitAt (bits w.toNat 15 8) 3 = false ∧
        bitAt (s.reg 0x4000_05 l) 4 = false ∧ (s.readySpares p).contains l.val = false ∧ (s.port p).peerReq = none ∧
        (∀ j ∈ s.carriers p, j ≠ l.val → s.reg 0x4000_02 j = 8 → s.reg 0x4000_06 j ≠ bits w.toNat 39 32)) ∧
    (∃ (s : State) (l : Fin 52), s.live = true ∧ s.reg 0x4000_13 l ≠ 0 ∧ s.reg 0x4000_13 l ≤ (s.lane l).sinceFlip ∧
        (s.reg 0x4000_02 l = 8 ∧ bitAt s.fuses.policy 7 = false ∨ s.reg 0x4000_02 l = 10)) ∧
    (∃ (s : State) (l : Fin 52), s.reg 0x4000_02 l = 8 ∧ bitAt s.fuses.policy 7 = true) ∧
    (∃ (s : State) (l : Fin 52), s.live = true ∧ s.reg 0x4000_02 l = 10 ∧ s.reg 0x4000_11 l ≠ 0) ∧
    (∃ (s : State) (l : Fin 52) (w : BitVec 64), s.live = true ∧ bits w.toNat 63 56 = 0x99 ∧ bitAt w.toNat 53 = false ∧
        bits w.toNat 55 54 = 1 ∧ (s.lane l).solo ≠ .loop) := by
  exact ⟨⟨(spared []), 1, 1, 0, 0, 48, ([]), by decide +kernel⟩,
    ⟨({ up [] [] with lanes := [(48, { carries := some 0 }), (0, { ready := true })] }), 1, 0, 48, by decide +kernel⟩,
    ⟨({ inPort {} [(0x400C_02, 0, 0), (0x4000_02, 48, 8)] with lanes := [(48, { carries := some 0 }), (0, { ready := true })], recover := { queue := [.laneBack 0] } }), 0, 48, 0, ([]), by decide +kernel⟩,
    ⟨({ up [] [(0x4000_02, 1, 8), (0x4400_02, 0, 1), (0x4400_04, 0, 2), (0x4400_09, 0, 2)] with lanes := [(1, { anchorLock := 2, carries := some 1 })], ports := [(0, { substReq := some 1, backFrom := some 48, substGood := 1 })], recover := { active := some (.laneBack 1) } }), 1, 0, 48, (BitVec.ofNat 64 (anchor 1)), by decide +kernel⟩,
    ⟨(inPort { sinceFlip := 1024 } [(0x4000_13, 0, 1024)]), 0, by decide +kernel⟩,
    ⟨({ inPort { sinceFlip := 1024 } [(0x4000_13, 0, 1024)] with fuses := { policy := 128 } }), 0, by decide +kernel⟩,
    ⟨(laneAt 10 {} [(0x4000_11, 0, 1)]), 0, by decide +kernel⟩,
    ⟨(laneAt 10 {} []), 0, (0x9900000000000000 + 2 ^ 54), by decide +kernel⟩⟩

/-- Port 0 of trust 4 in service, as given. -/
def swage (q : Port) (l : List (Nat × Nat × Nat)) : State :=
  { up [] ([(0x4400_09, 0, 2), (0x4400_05, 0, 4)] ++ l) with ports := [(0, q)] }

/-- Source slot 0 fed by stream 0, with its first Ingot as given. -/
def streamed (q : Port) (g : Ingot) : State :=
  { swage q [] with sources := [(0, { src 2 with upPort := 0 })], slots := [(0, { set := [0, 1], latest := some 0 })], ingots := pool g }

/-- The stream header of frame `seq` of source slot 0. -/
def streamHeader (fmt seq : Nat) : Bytes :=
  [0x44, 0x51] ++ beBytes 1 fmt ++ [1] ++ beBytes 4 seq ++ List.replicate 12 0 ++ beBytes 2 64 ++ beBytes 2 4 ++ List.replicate 40 0

/-- A frame that arrives into Ingot 0. -/
def rx (next : Nat) : RxFrame := { slot := 0, stream := 0, seq := 1, ingot := some 0, cells := 2, next := next }

/-- A device whose output 31 sent frame 0 on port 0. -/
def witnessed : State :=
  { swage {} [(0x3400_02, 31, 1), (0x3400_03, 31, 1), (0x3400_04, 31, 0), (0x3400_05, 31, 0)] with
    outputs := [(31, { sent := [{ ofNum := 0, check := 5 }] })] }

/-- An exchange that waits for its response. -/
def asking : State := swage { exch := some (5, 100, 200, 300) } [(0x4400_06, 0, 2)]

/-- States and operands that meet the hypotheses of `CellsCarryTheirFields`. -/
theorem witness_CellsCarryTheirFields :
    (∃ (type flags a b : Nat) (payload : Bytes), type < 256 ∧ flags < 256 ∧ a < 2 ^ 32 ∧ b < 2 ^ 32 ∧ payload.length ≤ 240) :=
  ⟨1, 0, 0, 0, ([]), by decide +kernel⟩

/-- States and operands that meet the hypotheses of `InboundFramesArePublished`. -/
theorem witness_InboundFramesArePublished :
    (∃ (s : State) (p : Fin 24) (cell h : Bytes) (slot : Nat) (x : Source), s.live = true ∧ s.fabricWorks = true ∧
        s.cellArrives p cell 1 ∧ cellFlags cell = 0 ∧ s.commits.waiting = [] ∧ s.slotFor p (cellA cell) = some slot ∧
        s.source slot = some x ∧ h = slice cell 12 64 ∧ (s.port p).rx.find? (fun f => f.slot == slot) = none ∧
        bitAt (field h 3 1) 1 = false ∧ bitAt (field h 3 1) 0 = true ∧ s.newerThanLast slot (field h 4 4) = true ∧
        field h 2 1 = x.fmt ∧ field h 20 2 = x.width ∧ field h 22 2 = x.height ∧ s.tooSoon slot x.rate = false ∧
        s.freeOf slot ≠ []) ∧
    (∃ (s : State) (p : Fin 24) (cell : Bytes) (slot i : Nat) (x : Source) (f : RxFrame), s.live = true ∧ s.cellArrives p cell 1 ∧
        cellFlags cell = 1 ∧ s.slotFor p (cellA cell) = some slot ∧ s.source slot = some x ∧
        (s.port p).rx.find? (fun f => f.slot == slot) = some f ∧ s.rxIngot f = some i ∧ cellB cell = f.next ∧ f.next ≤ f.cells ∧
        1 ≤ f.next ∧ x.cellBytes f.next ≤ (cellPayload cell).length ∧ Memory.wf s.cells = true) ∧
    (∃ (s : State) (p : Fin 24) (cell b : Bytes) (slot i crc : Nat) (x : Source) (f : RxFrame), s.live = true ∧
        s.cellArrives p cell 1 ∧ cellFlags cell = 2 ∧ s.slotFor p (cellA cell) = some slot ∧ s.source slot = some x ∧
        s.fabricWorks = true ∧ (s.port p).rx.find? (fun f => f.slot == slot) = some f ∧ s.rxIngot f = some i ∧
        f.next = f.cells + 1 ∧ f.gap = false ∧ f.marks = 0 ∧ b = cellPayload cell ∧ crc = Nat.xor f.crc 0xFFFFFFFF ∧
        field b 0 4 = f.seq ∧ field b 8 4 = f.cells ∧ field b 4 4 = crc ∧ s.newerThanLast f.slot f.seq = true) ∧
    (∃ (s : State), s.live = true) := by
  exact ⟨⟨(streamed {} {}), 0, (cellOf 1 0 0 0 (streamHeader 0 1)), (streamHeader 0 1), 0, ({ src 2 with upPort := 0 }),
      by unfold State.cellArrives; decide +kernel⟩,
    ⟨(streamed { rx := [rx 1] } { st := .filling, filler := .port, seq := 1 }), 0, (cellOf 1 1 0 1 (List.replicate 240 7)), 0, 0,
        ({ src 2 with upPort := 0 }), (rx 1), by unfold State.cellArrives; decide +kernel⟩,
    ⟨(streamed { rx := [rx 3] } { st := .filling, filler := .port, seq := 1 }), 0, (cellOf 1 2 0 0 (beBytes 4 1 ++ beBytes 4 0 ++
        beBytes 4 2)), (beBytes 4 1 ++ beBytes 4 0 ++ beBytes 4 2), 0, 0, 0, ({ src 2 with upPort := 0 }), (rx 3),
        by unfold State.cellArrives; decide +kernel⟩,
    ⟨({ streamed { rx := [rx 1] } { st := .filling, filler := .port, seq := 1 } with time := { uptime := 10000000000 } }),
        by decide +kernel⟩⟩

/-- States and operands that meet the hypotheses of `LinkChannelsKeepTheirOrder`. -/
theorem witness_LinkChannelsKeepTheirOrder :
    (∃ (s : State) (p : Fin 24) (cell : Bytes), s.live = true ∧ s.cellArrives p cell 0) ∧
    (∃ (s : State) (p : Fin 24) (cell : Bytes), s.live = true ∧ s.portInService p = true ∧ cell.length = 256 ∧
        crcTailOk cell = true ∧ cellReserved cell = true) ∧
    (∃ (s : State) (p : Fin 24) (cell : Bytes), s.live = true ∧ s.portInService p = true ∧ crcTailOk cell = false ∧
        (s.lastSecond (s.port p).crcTimes).length ≤ s.reg 0x4400_0B p) ∧
    (∃ (s : State) (p : Fin 24) (cell : Bytes) (o : Nat) (f : SentFrame), s.live = true ∧ s.cellArrives p cell 5 ∧
        s.awaited p cell = some (o, f) ∧ f.reported = false ∧ field (cellPayload cell) 4 1 = 0 ∧
        field (cellPayload cell) 0 4 = f.check) ∧
    (∃ (s : State) (p : Fin 24) (cell : Bytes) (o : Nat) (f : SentFrame), s.live = true ∧ s.cellArrives p cell 5 ∧
        s.awaited p cell = some (o, f) ∧ f.reported = false ∧ field (cellPayload cell) 0 4 ≠ f.check) ∧
    (∃ (s : State) (slot : Fin 40) (x : Source) (i : Nat), s.live = true ∧ s.source slot = some x ∧ s.latest slot = some i ∧
        s.sendsVideo x.upPort = true ∧ s.streamWaits x.upPort x.upStream = false ∧
        (s.ingots.any fun g => g.2.slot == slot.val && g.2.readers.contains (portReader x.upPort)) = false ∧
        (s.slot slot).sentIngot ≠ some (s.ingot i).seq ∧ (s.ingot i).st = .ready ∧ (s.ingot i).readers = [] ∧ x.upStream < 2 ^ 32) ∧
    (∃ (s : State) (p : Fin 24) (cell : Bytes), s.live = true ∧ s.cellArrives p cell 4 ∧ cellFlags cell = 0 ∧
        (s.port p).resetting = false ∧
        dist16 (cellA cell / 65536) (s.port p).txAcked ≤ dist16 (s.port p).txNext (s.port p).txAcked) ∧
    (∃ (s : State) (p : Fin 24) (cell : Bytes), s.live = true ∧ s.cellArrives p cell 4 ∧ bitAt (cellFlags cell) 0 = true) ∧
    (∃ (s : State) (p : Fin 24), s.live = true ∧ s.portInService p = true ∧ (s.port p).resetting = false) ∧
    (∃ (s : State) (p : Fin 24), s.live = true ∧ (s.port p).resetting = false ∧ (s.port p).txSent ≠ (s.port p).txAcked ∧
        (s.port p).lastAdvance + s.reg 0x4400_0F p * 1000 ≤ s.now) ∧
    (∃ (s : State) (p : Fin 24) (cell : Bytes), s.live = true ∧ s.cellArrives p cell 2 ∧
        (s.lastSecond (s.port p).msgTimes).length ≤ s.reg 0x4400_0D p ∧ cellA cell / 65536 = (s.port p).rxNext ∧
        cellA cell % 256 = 0 ∧ bits (cellB cell) 15 8 = 1) ∧
    (∃ (s : State) (p : Fin 24) (cell : Bytes), s.live = true ∧ s.cellArrives p cell 2 ∧
        (s.lastSecond (s.port p).msgTimes).length ≤ s.reg 0x4400_0D p ∧ cellA cell / 65536 ≠ (s.port p).rxNext) := by
  exact ⟨⟨(swage {} []), 0, (cellOf 0 0 0 0 []), by unfold State.cellArrives; decide +kernel⟩,
    ⟨(swage {} []), 0, (cellOf 6 0 0 0 []), by decide +kernel⟩,
    ⟨(swage {} []), 0, ([]), by decide +kernel⟩,
    ⟨witnessed, 0, (cellOf 5 0 0 0 (beBytes 4 5 ++ [0])), 31, ({ ofNum := 0, check := 5 }),
        by unfold State.cellArrives; decide +kernel⟩,
    ⟨witnessed, 0, (cellOf 5 0 0 0 (beBytes 4 6 ++ [0])), 31, ({ ofNum := 0, check := 5 }),
        by unfold State.cellArrives; decide +kernel⟩,
    ⟨(streamed {} { st := .ready, seq := 1 }), 0, ({ src 2 with upPort := 0 }), 0, by decide +kernel⟩,
    ⟨(swage {} []), 0, (cellOf 4 0 0 0 []), by unfold State.cellArrives; decide +kernel⟩,
    ⟨(swage {} []), 0, (cellOf 4 1 0 0 []), by unfold State.cellArrives; decide +kernel⟩,
    ⟨(swage {} []), 0, by decide +kernel⟩,
    ⟨({ swage { txSent := 1, txNext := 1 } [] with time := { uptime := 1000000000 } }), 0, by decide +kernel⟩,
    ⟨(swage {} []), 0, (cellOf 2 0 0 256 [1]), by unfold State.cellArrives; decide +kernel⟩,
    ⟨(swage {} []), 0, (cellOf 2 0 65536 256 [1]), by unfold State.cellArrives; decide +kernel⟩⟩

/-- States and operands that meet the hypotheses of `TimeCellsExchange`. -/
theorem witness_TimeCellsExchange :
    (∃ (s : State) (p : Fin 24) (cell b : Bytes), s.live = true ∧ s.cellArrives p cell 3 ∧ 4 ≤ s.reg 0x4400_05 p ∧
        s.reg 0x4400_06 p = 2 ∧ cellA cell / 2 ^ 24 = 1 ∧ b = cellPayload cell ∧ field b 12 8 = s.reg 0x2800_01 ∧
        field b 20 4 = s.reg 0x2800_02 ∧ field b 24 2 = s.reg 0x2800_03 ∧ s.reg 0x4808_01 ≠ 2) ∧
    (∃ (s : State) (p : Fin 24) (cell : Bytes), s.live = true ∧ s.cellArrives p cell 3 ∧ 4 ≤ s.reg 0x4400_05 p ∧
        s.reg 0x4400_06 p = 1 ∧ cellA cell / 2 ^ 24 = 2) ∧
    (∃ (s : State) (p : Fin 24) (cell : Bytes) (n t1 t2 t3 : Nat) (rtt off : Int), s.live = true ∧ s.cellArrives p cell 3 ∧
        4 ≤ s.reg 0x4400_05 p ∧ s.reg 0x4400_06 p = 2 ∧ cellA cell / 2 ^ 24 = 3 ∧ cellA cell % 65536 = n ∧
        (s.port p).exch = some (n, t1, t2, t3) ∧
        rtt = toSigned 64 (ofSigned 64 ((field (cellPayload cell) 0 8 : Int) - t1)) - toSigned 64 (ofSigned 64 ((t3 : Int) - t2)) ∧ off = toSigned 64 (ofSigned 64 ((t2 : Int) - t1)) - (Int.tdiv rtt 2 + s.regI 0x4400_07 p 32) ∧ (s.reg 0x4808_01 ≠ 2 ∨ s.reg 0x4808_06 ≠ p)) ∧
    (∃ (s : State) (p : Fin 24), s.live = true ∧ s.reg 0x4400_06 p = 1 ∧ s.portInService p = true ∧ (∀ a,
        (s.port p).lastExch = some a → a + s.reg 0x4400_08 p * 1000 ≤ s.now)) ∧
    (∃ (s : State) (p : Fin 24), s.live = true ∧ (s.port p).exch.isSome = true ∧ (s.port p).exchAt + milli ≤ s.now) ∧
    (∃ (c : Instr) (s : State) (p : Fin 24) (cell : Bytes), s.live = true ∧ s.cellArrives p cell 3 ∧ s.reg 0x4400_05 p < 4 ∧
        c ∈ [.syncCell p cell, .delayRequestCell p cell, .delayResponseCell p cell]) := by
  exact ⟨⟨(swage {} [(0x4400_06, 0, 2)]), 0, (cellOf 3 0 (2 ^ 24) 0 (List.replicate 12 0 ++ beBytes 8 ((swage {} [(0x4400_06, 0,
      2)]).reg 0x2800_01) ++ beBytes 4 ((swage {} [(0x4400_06, 0, 2)]).reg 0x2800_02) ++ beBytes 2 ((swage {} [(0x4400_06, 0,
      2)]).reg 0x2800_03))), (List.replicate 12 0 ++ beBytes 8 ((swage {} [(0x4400_06, 0, 2)]).reg 0x2800_01) ++
      beBytes 4 ((swage {} [(0x4400_06, 0, 2)]).reg 0x2800_02) ++ beBytes 2 ((swage {} [(0x4400_06, 0, 2)]).reg 0x2800_03)),
      by unfold State.cellArrives; decide +kernel⟩,
    ⟨(swage {} [(0x4400_06, 0, 1)]), 0, (cellOf 3 0 (2 * 2 ^ 24) 0 []), by unfold State.cellArrives; decide +kernel⟩,
    ⟨asking, 0, (cellOf 3 0 (3 * 2 ^ 24 + 5) 0 (beBytes 8 400)), 5, 100, 200, 300, 200, 0,
        by unfold State.cellArrives; decide +kernel⟩,
    ⟨(swage {} [(0x4400_06, 0, 1)]), 0, by decide +kernel, by decide +kernel, by decide +kernel,
        fun a h => (by rw [show ((swage {} [(0x4400_06, 0,
        1)]).port ((0 : Fin 24) : Nat)).lastExch = none by decide +kernel] at h; cases h)⟩,
    ⟨({ asking with time := { uptime := 1000000000 } }), 0, by decide +kernel⟩,
    ⟨(.syncCell 0 (cellOf 3 0 0 0 [])), (swage {} [(0x4400_05, 0, 1)]), 0, (cellOf 3 0 0 0 []),
        by unfold State.cellArrives; decide +kernel⟩⟩

/-- A device that takes time from PTP on Ethernet port 1, its master's clock identity 9. -/
def ptp (mode : Nat) (x : TimeUnit) : State :=
  { up [] [(0x4808_01, 0, 1), (0x4810_0A, 0, 1), (0x4810_0B, 0, 9), (0x4810_01, 0, 2), (0x6820_03, 1, 3), (0x6820_03, 0, 2),
      (0x4810_03, 0, mode), (0x4810_09, 0, 1)] with time := x }

/-- The device as grandmaster on both Ethernet ports. -/
def grand : State := put (ptp 1 {}) [(0x4810_0A, 0, 0xFE), (0x4810_01, 0, 3)]

/-- States and operands that meet the hypotheses of `TimeIsSteered`. -/
theorem witness_TimeIsSteered :
    (∃ (s : State) (ss v : Nat), s.managed = true ∧ s.mayWrite ss 0x4800_02 (.num v) = true ∧ s.hostSteers = true) ∧
    (∃ (s : State) (ss v : Nat), s.managed = true ∧ s.mayWrite ss 0x4800_03 (.num v) = true ∧ s.hostSteers = true) ∧
    (∃ (s : State) (ss v : Nat), s.managed = true ∧ s.mayWrite ss 0x4800_04 (.num v) = true ∧ s.hostSteers = true) ∧
    (∃ (s : State) (x : Int) (xs : List Int), s.managed = true ∧ s.time.samples = x :: xs ∧ s.reg 0x4808_01 = 1) ∧
    (∃ (s : State) (e : Nat) (es : List Nat), s.live = true ∧ s.time.sweeps = e :: es) := by
  exact ⟨⟨(up [] [(0x4808_01, 0, 0)]), 1, 5, by decide +kernel⟩,
    ⟨(up [] [(0x4808_01, 0, 3)]), 1, 1000001, by decide +kernel⟩,
    ⟨(up [] [(0x4808_01, 0, 0)]), 1, (2 ^ 64 - 1000000), by decide +kernel⟩,
    ⟨({ up [] [(0x4808_01, 0, 1)] with time := { samples := [-7, 3], own := 2 } }), (-7), ([3]), by decide +kernel⟩,
    ⟨({ fed (up [] []) 1 { st := .ready, era := 15 } with time := { sweeps := [1, 2] } }), 1, ([2]), by decide +kernel⟩⟩

/-- States and operands that meet the hypotheses of `TimeStatesFollowTheirSource`. -/
theorem witness_TimeStatesFollowTheirSource :
    (∃ (s : State) (ss v : Nat), s.managed = true ∧ s.mayWrite ss 0x4808_01 (.num v) = true ∧ v ≠ s.reg 0x4808_01) ∧
    (∃ (s : State) (ss v : Nat), s.managed = true ∧ s.mayWrite ss 0x4800_0B (.num v) = true ∧ s.reg 0x4808_01 = 3) ∧
    (∃ (s : State) (t0 : Int), s.live = true ∧ s.time.holdoverSince = some t0 ∧ s.time.own = 1 ∧ t0 + 10000000000 ≤ s.now) ∧
    (∃ (s : State), s.managed = true ∧ s.reg 0x4808_01 = 1 ∧ s.reg 0x4810_0A < 2 ∧
        s.announceHeard + s.reg 0x4810_05 * announceInterval ≤ s.now) ∧
    (∃ (s : State), s.managed = true ∧ s.reg 0x4808_01 = 1 ∧ s.reg 0x4810_0A < 2 ∧
        s.time.lastSync.getD 0 + 3 * syncInterval ≤ s.now) ∧
    (∃ (s : State) (p q : Nat), s.managed = true ∧ s.reg 0x4808_01 = 2 ∧ s.reg 0x4808_06 = p ∧ p < 24 ∧
        (s.port p).lastExch.getD 0 + 3 * s.reg 0x4400_08 p * 1000 ≤ s.now ∧
        (s.setPort p { s.port p with timeLost := true }).bestTimePort = q ∧ q ≠ 0xFF) ∧
    (∃ (s : State), s.live = true ∧ s.reg 0x4808_01 = 3 ∧ s.time.hostAt.getD 0 + 2000000000 ≤ s.now) ∧
    (∃ (s : State), s.live = true ∧ s.time.running = false) := by
  exact ⟨⟨(up [] [(0x4808_01, 0, 0)]), 1, 3, by decide +kernel⟩,
    ⟨({ up [] [(0x4808_01, 0, 3)] with time := { own := 1 } }), 1, 2, by decide +kernel⟩,
    ⟨({ up [] [(0x4800_06, 0, 1)] with time := { own := 1, holdoverSince := some 5, uptime := 10000000005 } }), 5,
        by decide +kernel⟩,
    ⟨({ up [] [(0x4808_01, 0, 1), (0x4810_0A, 0, 1)] with time := { uptime := 100000000000 } }), by decide +kernel⟩,
    ⟨({ up [] [(0x4808_01, 0, 1), (0x4800_06, 0, 0), (0x4810_0A, 0, 1)] with time := { own := 0, lockedSince := some 0, uptime := 16000000000 } }), by decide +kernel⟩,
    ⟨({ up [] [(0x4808_01, 0, 2), (0x4808_06, 0, 3), (0x4400_06, 23, 2), (0x4400_05, 23, 4), (0x4400_09, 23, 2), (0x4400_08, 3, 1000)] with time := { uptime := 3000000 } }), 3, 23, by decide +kernel⟩,
    ⟨({ up [] [(0x4808_01, 0, 3), (0x4800_06, 0, 0)] with time := { own := 0, uptime := 2000000000 } }), by decide +kernel⟩,
    ⟨({ up [] [(0x4808_01, 0, 1)] with time := { running := false } }), by decide +kernel⟩⟩

/-- States and operands that meet the hypotheses of `PtpExchangesMakeSamples`. -/
theorem witness_PtpExchangesMakeSamples :
    (∃ (s : State) (port : Fin 2) (head : PtpHead) (source : Nat), s.managed = true ∧ s.ptpOn port head ∧
        s.fromMaster port source = true) ∧
    (∃ (s : State) (port : Fin 2) (head : PtpHead) (source : Nat), s.managed = true ∧ s.ptpOn port head ∧
        s.fromMaster port source = true ∧ s.reg 0x4810_03 = 1) ∧
    (∃ (s : State) (port : Fin 2) (head : PtpHead) (source seq : Nat) (t2 : Int), s.managed = true ∧ s.ptpOn port head ∧
        s.fromMaster port source = true ∧ s.time.syncPending = some (source, seq, port.val, t2) ∧ s.reg 0x4810_03 = 2) ∧
    (∃ (s : State) (port : Fin 2) (head : PtpHead) (source requester seq rx : Nat) (t1 t2 t3 corr delay : Int), s.managed = true ∧
        s.ptpOn port head ∧ s.fromMaster port source = true ∧ s.time.delaySent = some (seq, t1, t2, t3) ∧
        requester = clockIdentity ∧ delay = Int.tdiv (((rx : Int) - corr - t1) - (t3 - t2)) 2) ∧
    (∃ (s : State) (port : Fin 2) (head : PtpHead), s.managed = true ∧ s.ptpOn port head ∧ s.reg 0x4808_01 = 1 ∧
        s.reg 0x4810_0A = 0xFE ∧ s.reg 0x4810_03 = 1) ∧
    (∃ (s : State) (port : Fin 2) (head : PtpHead), s.managed = true ∧ s.ptpOn port head ∧ s.reg 0x4810_03 = 2) ∧
    (∃ (s : State) (port : Fin 2) (head : PtpHead) (seq turnaround rx : Nat) (t1 d : Int), s.managed = true ∧ s.ptpOn port head ∧
        s.reg 0x4810_03 = 2 ∧ Tbl.find s.time.pdelaySent port = some (seq, t1) ∧
        d = Int.tdiv (((rx : Int) - s.ingress port) - t1 - turnaround) 2) ∧
    (∃ (s : State) (port : Fin 2) (head : PtpHead), s.managed = true ∧ bitAt (s.reg 0x4810_01) port = true ∧
        s.reg 0x6820_03 port ≠ 0 ∧ (head.formed = false ∨ head.domain ≠ s.reg 0x4810_02 ∨ head.transport ≠ s.reg 0x4810_04)) := by
  exact ⟨⟨(ptp 1 {}), 1, ({ domain := 0, transport := 0, formed := true }), 9, by unfold State.ptpOn; decide +kernel⟩,
    ⟨(ptp 1 {}), 1, ({ domain := 0, transport := 0, formed := true }), 9, by unfold State.ptpOn; decide +kernel⟩,
    ⟨(ptp 2 { syncPending := some (9, 4, 1, 77) }), 1, ({ domain := 0, transport := 0, formed := true }), 9, 4, 77,
        by unfold State.ptpOn; decide +kernel⟩,
    ⟨(ptp 1 { delaySent := some (4, 1, 2, 3) }), 1, ({ domain := 0, transport := 0, formed := true }), 9, clockIdentity, 4, 9, 1,
        2, 3, 0, (Int.tdiv ((9 - 0 - 1) - (3 - 2)) 2), by decide +kernel, by unfold State.ptpOn; decide +kernel,
        by decide +kernel, by decide +kernel, rfl, rfl⟩,
    ⟨(put (ptp 1 {}) [(0x4810_0A, 0, 0xFE)]), 1, ({ domain := 0, transport := 0, formed := true }),
        by unfold State.ptpOn; decide +kernel⟩,
    ⟨(ptp 2 {}), 1, ({ domain := 0, transport := 0, formed := true }), by unfold State.ptpOn; decide +kernel⟩,
    ⟨(ptp 2 { pdelaySent := [(1, (4, 10))] }), 1, ({ domain := 0, transport := 0, formed := true }), 4, 2, 20, 10, 4,
        by unfold State.ptpOn; decide +kernel⟩,
    ⟨(ptp 1 {}), 1, ({ domain := 1, transport := 0, formed := true }), by decide +kernel⟩⟩

/-- States and operands that meet the hypotheses of `MastersAreSelectedAndFramesForwarded`. -/
theorem witness_MastersAreSelectedAndFramesForwarded :
    (∃ (s : State) (port : Fin 2) (head : PtpHead), s.managed = true ∧ s.ptpOn port head) ∧
    (∃ (s : State), s.managed = true ∧ s.reg 0x4808_01 = 1 ∧ s.reg 0x4810_0A = 0xFE ∧ s.ptpDue 0 = true) ∧
    (∃ (s : State), s.managed = true ∧ s.reg 0x4808_01 = 1 ∧ s.reg 0x4810_0A = 0xFE ∧ s.ptpDue 11 = true) ∧
    (∃ (s : State) (port : Fin 2) (dest : BitVec 48), s.live = true ∧ s.flag 0x4810_09 = true ∧ dest ≠ Config.macAddress ∧
        s.reg 0x6820_03 port ≠ 0 ∧ s.reg 0x6820_03 (1 - port.val) ≠ 0 ∧ (Tbl.get {} s.time.ether (1 - port.val)).queue = [] ∧
        (Tbl.get {} s.time.ether (1 - port.val)).busyUntil ≤ s.now) ∧
    (∃ (s : State) (port : Fin 2) (dest : BitVec 48), s.live = true ∧ s.flag 0x4810_09 = true ∧ dest ≠ Config.macAddress ∧
        s.reg 0x6820_03 port ≠ 0 ∧ s.reg 0x6820_03 (1 - port.val) ≠ 0 ∧
        s.now < (Tbl.get {} s.time.ether (1 - port.val)).busyUntil) ∧
    (∃ (s : State) (port : Fin 2) (dest : BitVec 48) (k : Nat) (rx : Nat) (res add : Int), s.live = true ∧
        s.flag 0x4810_09 = true ∧ dest ≠ Config.macAddress ∧ s.reg 0x6820_03 port ≠ 0 ∧ 1 ≤ s.reg 0x6820_03 (1 - port.val) ∧
        s.reg 0x6820_03 (1 - port.val) ≤ 3 ∧ (Tbl.get {} s.time.ether (1 - port.val)).queue = [] ∧
        (Tbl.get {} s.time.ether (1 - port.val)).busyUntil ≤ s.now ∧ k < 4 ∧
        res = ((s.wall : Int) + s.egress (1 - port.val)) - ((rx : Int) - s.ingress port) ∧ add = (if k = 0 ∧
        s.reg 0x4810_03 = 2 then res + Tbl.get 0 s.time.peerDelay port else res)) := by
  exact ⟨⟨(ptp 1 {}), 1, ({ domain := 0, transport := 0, formed := true }), by unfold State.ptpOn; decide +kernel⟩,
    ⟨grand, by decide +kernel⟩,
    ⟨grand, by decide +kernel⟩,
    ⟨(ptp 1 {}), 0, (Config.macAddress + 1), by decide +kernel, by decide +kernel, by bv_omega, by decide +kernel⟩,
    ⟨(ptp 1 { ether := [(1, { busyUntil := 5 })] }), 0, (Config.macAddress + 1), by decide +kernel, by decide +kernel,
        by bv_omega, by decide +kernel⟩,
    ⟨(ptp 2 {}), 0, (Config.macAddress + 1), 3, 1, (((ptp 2 {}).wall : Int) + (ptp 2 {}).egress 1 - (1 - (ptp 2 {}).ingress 0)),
        (((ptp 2 {}).wall : Int) + (ptp 2 {}).egress 1 - (1 - (ptp 2 {}).ingress 0)), by decide +kernel, by decide +kernel,
        by bv_omega, by decide +kernel⟩⟩

/-- A burst of one beat at an address, of a class. -/
def beat (a cls : Nat) : FabReq := { id := 7, write := false, address := a, beats := 1, cls := cls }

/-- A request of port 36 that waits at channel 0, granted after some cycles or not. -/
def item (cls : Nat) (g : Option Nat) : FabItem :=
    { port := 36, target := 0, req := beat 64 cls, issued := 0, since := 0, granted := g }

/-- The same of a port. -/
def itemOf (port : Nat) (g : Option Nat) : FabItem := { item 2 g with port := port }

/-- A locked sequence of a port that waits. -/
def lockOf (port : Nat) : LockedRun := { port := port, accesses := 4, cls := 2, since := 0 }

/-- The device with one request in the fabric, ms after reset. -/
def asked (x : FabItem) (ms : Nat) (l : List (Nat × Nat × Nat)) : State :=
  { up [] l with fabric := { queue := [x] }, time := { uptime := ms * 1000000 } }

/-- A channel that a port at urgency 3 waits for. -/
def urgent (debt : Nat) : State := asked (item 2 none) 1000 [(0x5400_02, 0, 2), (0x5400_0F, 0, debt), (0x5408_02, 36 * 24, 10)]

/-- One second after reset. -/
def at1s (l : List (Nat × Nat × Nat)) : State := { up [] l with time := { uptime := 1000000000 } }

/-- Channel 15 in service an hour after reset, its scrubber at a sector. -/
def scrubs (sector : Nat) : State :=
  let s := up [] [(0x5400_02, 15, 2), (0x5400_1B, 15, 1)]
  { s with time := { uptime := 3600000000000 }, dram := { chans := [(15, { scrubbed := sector })] } }

/-- States and operands that meet the hypotheses of `FabricServesRequests`. -/
theorem witness_FabricServesRequests :
    (∃ (s : State) (port : Fin 42) (r q : FabReq) (k : Nat), s.live = true ∧ s.fabricWorks = true ∧
        q = { r with cls := requestClass port r } ∧ burstFormed q = true ∧ s.rangeUsable r.address (64 * r.beats) = true ∧
        targetOf r.address = some k ∧ ¬(k < 16 ∧ s.reg 0x5400_02 k = 6)) ∧
    (∃ (s : State) (port : Fin 42) (r q : FabReq), s.live = true ∧ s.fabricWorks = true ∧
        q = { r with cls := requestClass port r } ∧ (burstFormed q = false ∨ s.rangeUsable r.address (64 * r.beats) = false)) ∧
    (∃ (s : State) (port : Fin 42) (r q : FabReq) (k : Nat), s.live = true ∧ s.fabricWorks = true ∧
        q = { r with cls := requestClass port r } ∧ burstFormed q = true ∧ s.rangeUsable r.address (64 * r.beats) = true ∧
        targetOf r.address = some k ∧ k < 16 ∧ s.reg 0x5400_02 k = 6) ∧
    (∃ (s : State) (target : Fin 25) (x : FabItem) (g : Nat), s.live = true ∧ s.fabricWorks = true ∧ s.targetAwake target = true ∧
        (target.val = 24 → s.nextLock = none) ∧ s.nextGrant target = some (x, g) ∧ s.cycleCome g = true) ∧
    (∃ (s : State) (target : Fin 25) (x : FabItem) (g : Nat), s.live = true ∧ s.fabricWorks = true ∧ s.targetAwake target = true ∧
        (target.val = 24 → s.nextLock = none) ∧ s.nextGrant target = some (x, g) ∧ s.cycleCome g = false) ∧
    (∃ (s : State) (l : LockedRun) (g : Nat), s.live = true ∧ s.fabricWorks = true ∧ s.nextLock = some l ∧
        g = s.grantCycle l.port 24 l.since ∧ s.cycleCome g = true) ∧
    (∃ (s : State) (target : Fin 25) (port : Fin 42) (id w : Nat) (x : FabItem), s.live = true ∧ s.fabricWorks = true ∧
        s.item? port target id true = some x ∧ x.granted = some w ∧ x.req.cls < 3 ∧ s.mayComplete x = true ∧
        (x.req.write = true ∨ port.val < 36 ∨ port.val = 41)) ∧
    (∃ (s : State) (target : Fin 25) (id : Nat) (x : FabItem) (h : HostRead) (bs : Bytes), s.live = true ∧ s.fabricWorks = true ∧
        s.item? 36 target id true = some x ∧ x.req.write = false ∧ s.mayComplete x = true ∧ s.hostReadOf x.req.id = some h ∧
        h.failed = false ∧ h.left = [x.req.id] ∧ bs = x.answer.getD (s.load x.req.address (64 * x.req.beats))) ∧
    (∃ (s : State) (port : Fin 42) (target : Fin 25) (id : Nat) (overflow : Bool) (x : FabItem), s.live = true ∧
        s.fabricWorks = true ∧ s.item? port target id false = some x ∧ x.req.cls = 1 ∧
        (overflow = true ∨ s.waitedOut x.since (s.reg 0x5000_04) = true)) ∧
    (∃ (s : State) (port : Fin 42) (target : Fin 25) (id : Nat) (x : FabItem), s.live = true ∧ s.fabricWorks = true ∧
        s.item? port target id false = some x ∧ x.req.cls = 2 ∧ s.waitedOut x.since (s.reg 0x5000_05) = true) ∧
    (∃ (s : State) (port : Fin 42) (address k : Nat), s.live = true ∧ s.fabricWorks = true ∧ targetOf address = some k ∧ k < 24 ∧
        s.readingAt port address = none) ∧
    (∃ (s : State) (port : Fin 42) (address k : Nat) (x : FabItem), s.live = true ∧ s.fabricWorks = true ∧
        targetOf address = some k ∧ k < 24 ∧ s.readingAt port address = some x ∧ s.mayComplete x = true ∧ x.answer = none ∧
        (readSectors x.req).contains ((address - x.req.address) / 32) = true) ∧
    (∃ (s : State) (port : Fin 42) (accesses : Nat), s.live = true ∧ s.fabricWorks = true ∧ ¬(36 ≤ port.val ∧ port.val ≤ 40) ∧
        0 < accesses ∧ accesses ≤ 16) ∧
    (∃ (s : State) (port : Fin 42) (target : Fin 25) (accesses : Nat), s.live = true ∧ s.fabricWorks = true ∧ ¬(36 ≤ port.val ∧
        port.val ≤ 40) ∧ 0 < accesses ∧ (target.val ≠ 24 ∨ 16 < accesses)) ∧
    (∃ (s : State) (ss v port : Nat), s.managed = true ∧ s.mayWrite ss 0x5020_0A (.num v) = true ∧
        s.partOf ss 0x5020_0A = port) := by
  exact ⟨⟨(up [] [(0x5400_02, 15, 2)]), 36, ({ id := 7, write := false, address := 0xF00003FC0, beats := 1, cls := 2 }),
      ({ id := 7, write := false, address := 0xF00003FC0, beats := 1, cls := 2 }), 15, by decide +kernel⟩,
    ⟨(up [] []), 36, (beat 65 2), (beat 65 2), by decide +kernel⟩,
    ⟨(up [] [(0x5400_02, 0, 6)]), 36, (beat 64 2), (beat 64 2), 0, by decide +kernel⟩,
    ⟨(asked (item 2 none) 1 [(0x5400_02, 0, 2)]), 0, (item 2 none), 1600000, by decide +kernel⟩,
    ⟨({ asked (item 2 none) 1 [(0x5400_02, 0, 2)] with fabric := { queue := [item 2 none], pathFree := [(0, 1600002)] } }), 0,
        (item 2 none), 1600002, by decide +kernel⟩,
    ⟨({ up [] [] with fabric := { locks := [lockOf 3, lockOf 41] } }), (lockOf 3), 1, by decide +kernel⟩,
    ⟨(asked (itemOf 41 (some 5)) 1 []), 0, 41, 7, 5, (itemOf 41 (some 5)), by decide +kernel⟩,
    ⟨({ up [] [] with fabric := { queue := [item 2 (some 5)], reads := [{ base := 66, len := 3, left := [7] }] } }), 0, 7,
        (item 2 (some 5)), ({ base := 66, len := 3, left := [7] }), ((up [] []).load 64 64), by decide +kernel⟩,
    ⟨(asked (item 1 none) 1 []), 36, 0, 7, true, (item 1 none), by decide +kernel⟩,
    ⟨(asked (item 2 none) 4 []), 36, 0, 7, (item 2 none), by decide +kernel⟩,
    ⟨(up [] []), 36, 0x8003FFFFFF, 23, by decide +kernel⟩,
    ⟨(asked (item 2 (some 5)) 1 []), 36, 64, 0, (item 2 (some 5)), by decide +kernel⟩,
    ⟨(up [] []), 41, 16, by decide +kernel⟩,
    ⟨(up [] []), 35, 24, 17, by decide +kernel⟩,
    ⟨(up (sel 0x5020_01 41) []), 1, 1, 41, by decide +kernel⟩⟩

/-- States and operands that meet the hypotheses of `ChannelsRefreshTrackAndSleep`. -/
theorem witness_ChannelsRefreshTrackAndSleep :
    (∃ (s : State) (c : Fin 16), s.live = true ∧ s.reg 0x5400_02 c ∈ [2, 4, 5] ∧ s.refreshDue c = true ∧ s.anyUrgent c = true ∧
        s.reg 0x5400_0F c < 8) ∧
    (∃ (s : State) (c : Fin 16), s.live = true ∧ s.reg 0x5400_02 c ∈ [2, 4, 5] ∧ s.refreshDue c = true ∧ 8 ≤ s.reg 0x5400_0F c) ∧
    (∃ (s : State) (c : Fin 16), s.live = true ∧ s.anyUrgent c = false ∧ s.reg 0x5400_0F c ≠ 0) ∧
    (∃ (s : State) (c : Fin 16), s.live = true ∧ s.reg 0x5400_02 c ∈ [2, 4, 5] ∧ s.refreshDue c = true ∧ s.anyUrgent c = false ∧
        s.reg 0x5400_0F c < 8) ∧
    (∃ (s : State) (c : Fin 16), s.live = true ∧ s.now < (s.chan c).refreshed + s.reg 0x5400_0D c) ∧
    (∃ (s : State) (c : Fin 16) (z : Int), s.live = true ∧ s.reg 0x5400_02 c ∈ [2, 4, 5] ∧ -128 ≤ z ∧ z ≤ 127) ∧
    (∃ (s : State) (c : Fin 16), s.live = true ∧ s.trackNext = some c.val ∧ s.reg 0x5400_0F c = 0 ∧ s.anyUrgent c = false) ∧
    (∃ (s : State) (c : Fin 16), s.live = true ∧ s.trackNext ≠ some c.val) ∧
    (∃ (s : State) (c : Fin 16), s.managed = true ∧ s.trackNext = some c.val ∧ s.reg 0x5400_0F c = 0 ∧ s.anyUrgent c = false ∧
        s.evacRefusal c = none ∧ s.recover.queue = [] ∧ s.recovering = 0) ∧
    (∃ (s : State) (c : Fin 16), s.live = true ∧ s.reg 0x5400_02 c = 2 ∧ s.flag 0x5400_14 c = true ∧ s.itemsAt c = [] ∧
        (s.chan c).idleSince + s.reg 0x5400_15 c * 1000 ≤ s.now ∧ (∀ p, p < 42 → 6000 < s.tolerance p c)) ∧
    (∃ (s : State) (c : Fin 16), s.live = true ∧ s.itemsAt c ≠ [] ∧ s.reg 0x5400_02 c = 3) ∧
    (∃ (s : State) (c : Fin 16), s.live = true ∧ s.entryBegun c = true) ∧
    (∃ (s : State) (c : Fin 16), s.live = true ∧ s.reg 0x5400_02 c = 2 ∧ s.entryBegun c = false) := by
  exact ⟨⟨(urgent 7), 0, by decide +kernel⟩,
    ⟨(urgent 8), 0, by decide +kernel⟩,
    ⟨(up [] [(0x5400_0F, 15, 3)]), 15, by decide +kernel⟩,
    ⟨(at1s [(0x5400_02, 15, 2)]), 15, by decide +kernel⟩,
    ⟨(up [] [(0x5400_0D, 15, 3900)]), 15, by decide +kernel⟩,
    ⟨(up [] [(0x5400_02, 15, 5)]), 15, 86, by decide +kernel⟩,
    ⟨(at1s [(0x5400_02, 15, 2)]), 15, by decide +kernel⟩,
    ⟨(at1s [(0x5400_02, 15, 2), (0x5400_02, 3, 2)]), 15, by decide +kernel⟩,
    ⟨(at1s [(0x5400_02, 15, 2), (0x5400_02, 0, 2), (0x5400_18, 0, 5000)]), 15, by decide +kernel⟩,
    ⟨({ up [] [(0x5400_02, 15, 2), (0x5400_14, 15, 1)] with time := { uptime := 1000000000 } }), 15, by decide +kernel⟩,
    ⟨(asked (item 2 none) 1 [(0x5400_02, 0, 3)]), 0, by decide +kernel⟩,
    ⟨({ asked (item 2 none) 1 [(0x5400_02, 0, 2), (0x5400_14, 0, 1)] with fabric := { queue := [{ item 2 none with issued := 1000000 }] } }), 0, by decide +kernel⟩,
    ⟨(asked (item 2 none) 1 [(0x5400_02, 0, 2), (0x5400_14, 0, 1), (0x5400_15, 0, 900)]), 0, by decide +kernel⟩⟩

/-- States and operands that meet the hypotheses of `ChannelsComeAndGo`. -/
theorem witness_ChannelsComeAndGo :
    (∃ (s : State) (c : Fin 16) (sector : Nat), s.live = true ∧ s.reg 0x5400_02 c = 2 ∧ s.scrubDue c sector = true ∧
        s.itemsAt c = [] ∧ s.reg 0x5400_0F c = 0) ∧
    (∃ (s : State) (c : Fin 16) (sector : Nat), s.live = true ∧ s.reg 0x5400_02 c = 2 ∧ s.scrubDue c sector = true ∧
        s.itemsAt c = [] ∧ s.reg 0x5400_0F c = 0) ∧
    (∃ (s : State) (c : Fin 16) (sector : Nat), s.live = true ∧ s.reg 0x5400_02 c = 2 ∧ s.scrubDue c sector = true ∧
        s.itemsAt c = [] ∧ s.reg 0x5400_0F c = 0 ∧ sector + 1 < s.usableBytes c / 32) ∧
    (∃ (s : State) (c : Fin 16), s.live = true ∧ s.reg 0x5400_02 c = 1 ∧ (s.chan c).returning = false) ∧
    (∃ (s : State) (c : Fin 16), s.live = true ∧ s.reg 0x5400_02 c = 1 ∧ (s.chan c).stored = false) ∧
    (∃ (s : State) (ss c : Nat), s.managed = true ∧ s.mayWrite ss 0x5400_1A (.num 1) = true ∧ s.partOf ss 0x5400_1A = c ∧ c < 16 ∧
        s.evacRefusal c = none ∧ s.recovering = 0 ∧ s.recover.queue = []) ∧
    (∃ (s : State) (c : Fin 16), s.live = true ∧ s.dram.evacuating = some c.val ∧ s.reg 0x5400_02 c = 4 ∧ s.chanDrained c = true ∧
        (s.chan c).trainAfter = false) ∧
    (∃ (s : State) (ss c : Nat), s.managed = true ∧ s.mayWrite ss 0x5400_1A (.num 2) = true ∧ s.partOf ss 0x5400_1A = c ∧ c < 16 ∧
        s.reg 0x5400_02 c = 5) ∧
    (∃ (s : State) (ss c : Nat), s.managed = true ∧ s.mayWrite ss 0x5400_1A (.num 3) = true ∧ s.partOf ss 0x5400_1A = c ∧ c < 16 ∧
        s.reg 0x5400_02 c = 5) := by
  exact ⟨⟨(scrubs 0), 15, 0, by decide +kernel⟩,
    ⟨(scrubs 7), 15, 7, by decide +kernel⟩,
    ⟨(scrubs 7), 15, 7, by decide +kernel⟩,
    ⟨(up [] [(0x5400_02, 15, 1)]), 15, by decide +kernel⟩,
    ⟨(up [] [(0x5400_02, 15, 1)]), 15, by decide +kernel⟩,
    ⟨(up (sel 0x5400_01 15) [(0x5400_02, 15, 2), (0x5400_02, 0, 2)]), 1, 15, by decide +kernel⟩,
    ⟨({ up [] [(0x5400_02, 15, 4)] with dram := { evacuating := some 15 } }), 15, by decide +kernel⟩,
    ⟨(up (sel 0x5400_01 15) [(0x5400_02, 15, 5)]), 1, 15, by decide +kernel⟩,
    ⟨(up (sel 0x5400_01 15) [(0x5400_02, 15, 5)]), 1, 15, by decide +kernel⟩⟩

/-- A device in a pair state, with the time since reset in ns. -/
def paired (st up' : Nat) (p : Pair) : State := { up [] [(0x5800_03, 0, st)] with pair := p, time := { uptime := up' } }

/-- A header copy that names an empty section of generation 1 three times. -/
def header : Bytes := headerBytes 1 ([1, 2, 3].map fun k => (k,
    ({ copy := 0, generation := 1, len := 0, crc := crc32c [] } : Head)))

/-- Sections 1 to 3, empty, of generation 1. -/
def sections : Tbl Section' := [1, 2, 3].map fun k => (k, { generation := 1 })

/-- States and operands that meet the hypotheses of `PairDecidesAndFences`. -/
theorem witness_PairDecidesAndFences :
    (∃ (s : State), s.reg 0x5800_03 = 1 ∧ s.pins.pairActI = true) ∧
    (∃ (s : State), s.reg 0x5800_03 = 1 ∧ s.pins.pairActI = false ∧
        (if s.reg 0x5800_02 = 0 then bitAt (s.reg 0x1010_01) 2 = true ∨ bitAt (s.reg 0x1010_01) 3 = true else 2000000000 ≤ s.now ∧
        s.pair.lastEdge = none)) ∧
    (∃ (s : State), s.reg 0x5800_03 = 1 ∧ s.pins.pairActI = false ∧ s.reg 0x5800_02 ≠ 0 ∧ 2000000000 ≤ s.now ∧
        s.pair.lastEdge ≠ none) ∧
    (∃ (s : State), s.reg 0x5800_03 ∈ [2, 3, 6]) ∧
    (∃ (s : State), (s.reg 0x5800_03 = 4 ∧ s.live = true) ∨ (s.reg 0x5800_03 = 5 ∧ s.imageCurrent = false)) ∧
    (∃ (s : State), s.reg 0x5800_03 = 4 ∧ s.live = false) ∧
    (∃ (s : State), s.reg 0x5800_03 = 5 ∧ s.imageCurrent = true) ∧
    (∃ (s : State), s.reg 0x5800_03 ∈ [2, 3] ∧ s.pair.yielded = false ∧ s.managed = true) ∧
    (∃ (s : State) (w n : Nat), s.reg 0x5800_03 ≠ 0 ∧ partnerOf w = some n) ∧
    (∃ (s : State), s.reg 0x5800_03 ≠ 0 ∧ s.pair.lastEdge.getD 0 + (1250000 + 1000000 * s.pair.missed) ≤ s.now) ∧
    (∃ (s : State), s.reg 0x5800_03 ∈ [4, 5] ∧ s.pair.lastEdge.getD 0 + 3250000 ≤ s.now) ∧
    (∃ (s : State) (frame : Bytes), s.bellowsArrives frame 4 ∧ s.reg 0x5800_03 ∈ [4, 5]) ∧
    (∃ (s : State) (t0 : Nat), s.live = true ∧ s.reg 0x5800_03 = 6 ∧ s.pair.declaredAt = some t0 ∧
        t0 + 1000000 * s.reg 0x5800_0D ≤ s.now) ∧
    (∃ (s : State) (ss v : Nat), s.managed = true ∧ s.mayWrite ss 0x5800_06 (.num v) = true ∧ s.reg 0x5800_03 = 2 ∧
        s.pair.yielded = false) := by
  exact ⟨⟨({ up [] [(0x5800_03, 0, 1)] with pins := { pairActI := true } }), by decide +kernel⟩,
    ⟨({ up [] [(0x5800_03, 0, 1), (0x5800_02, 0, 1)] with time := { uptime := 2000000000 } }), by decide +kernel⟩,
    ⟨({ up [] [(0x5800_03, 0, 1), (0x5800_02, 0, 1)] with time := { uptime := 2000000000 }, pair := { lastEdge := some 7 } }),
        by decide +kernel⟩,
    ⟨(up [] [(0x5800_03, 0, 6), (0x4400_09, 23, 4)]), by decide +kernel⟩,
    ⟨(paired 4 0 {}), by decide +kernel⟩,
    ⟨({ paired 4 0 {} with power := { refclk := false } }), by decide +kernel⟩,
    ⟨(paired 5 1000000005 { committedAt := some 5 }), by decide +kernel⟩,
    ⟨(paired 3 0 {}), by decide +kernel⟩,
    ⟨(paired 3 9 {}), 300, 2, by decide +kernel⟩,
    ⟨(paired 2 2250003 { lastEdge := some 3, missed := 1 }), by decide +kernel⟩,
    ⟨(paired 5 3250003 { lastEdge := some 3 }), by decide +kernel⟩,
    ⟨(paired 4 0 {}), (bellowsFrame 4 0 1 0 []), by unfold State.bellowsArrives; decide +kernel⟩,
    ⟨(paired 6 500000007 { declaredAt := some 7 }), 7, by decide +kernel⟩,
    ⟨(paired 2 0 {}), 1, 1, by decide +kernel⟩⟩

/-- States and operands that meet the hypotheses of `BellowsCarriesTheImage`. -/
theorem witness_BellowsCarriesTheImage :
    (∃ (s : State) (frame piece : Bytes) (k off gen copy : Nat) (old : Section'), s.bellowsArrives frame 1 ∧ field frame 3 1 = k ∧
        field frame 4 4 = gen ∧ field frame 8 4 = off ∧ slice frame 16 (field frame 12 2) = piece ∧ 1 ≤ k ∧ k ≤ 3 ∧
        off + piece.length ≤ sectionSize k ∧ 1 - (Tbl.get ({} : Head) s.pair.header k).copy = copy ∧ s.sectionCopy copy k = old) ∧
    (∃ (s : State) (frame b : Bytes), s.bellowsArrives frame 2 ∧ slice frame 16 (field frame 12 2) = b ∧ headerOk b = true ∧
        (∀ k ∈ [1, 2, 3], s.sectionWhole k (headOf b k) = true)) ∧
    (∃ (s : State) (frame b : Bytes), s.bellowsArrives frame 2 ∧ slice frame 16 (field frame 12 2) = b ∧ (∃ k ∈ [1, 2, 3],
        s.sectionWhole k (headOf b k) = false)) ∧
    (∃ (s : State) (frame b : Bytes), s.bellowsArrives frame 3 ∧ slice frame 16 (field frame 12 2) = b ∧ b.length = 18) ∧
    (∃ (s : State), s.managed = true ∧ s.pairActive = true ∧ s.pair.pushedAt + 250000000 ≤ s.now) ∧
    (∃ (s : State), s.live = true ∧ s.reg 0x5800_03 = 6 ∧ s.pair.ready = false ∧ s.takeoverPowered = true) ∧
    (∃ (s : State), s.live = true ∧ s.reg 0x5800_03 = 6 ∧ s.takeoverPowered = false) ∧
    (∃ (s : State), s.managed = true ∧ s.reg 0x5800_03 = 4 ∧ s.resynced = true) ∧
    (∃ (s : State), s.managed = true ∧ s.reg 0x5800_03 = 4 ∧ s.resynced = false) := by
  exact ⟨⟨(paired 4 0 {}), (bellowsFrame 1 3 1 8191 [7]), ([7]), 3, 8191, 1, 0, ({}),
      by unfold State.bellowsArrives; decide +kernel⟩,
    ⟨(paired 5 9 { secA := sections }), (bellowsFrame 2 0 1 0 header), header, by unfold State.bellowsArrives; decide +kernel⟩,
    ⟨(paired 5 9 {}), (bellowsFrame 2 0 1 0 header), header, by unfold State.bellowsArrives; decide +kernel⟩,
    ⟨(paired 4 9 {}), (bellowsFrame 3 0 1 0 (List.replicate 18 1)), (List.replicate 18 1),
        by unfold State.bellowsArrives; decide +kernel⟩,
    ⟨(paired 3 250000000 {}), by decide +kernel⟩,
    ⟨(paired 6 9 {}), by decide +kernel⟩,
    ⟨(put (paired 6 9 {}) [(0x6400_02, 3, 1)]), by decide +kernel⟩,
    ⟨(put (paired 4 9 { headerCommits := 2, header := [(1, {})] }) ([(0x4400_09, 2, 2)] ++
        (List.range 16).map fun c => (0x5400_02, c, 2))), by decide +kernel⟩,
    ⟨(paired 4 9 {}), by decide +kernel⟩⟩

/-- What a swap from slot 0 to slot 1 that has failed, and whose way back has or has not failed too, holds. -/
def left (lost : Bool) : HandOff := { from' := 0, dest := 1, failed := true, lost := lost, since := 0 }

/-- What a swap from a slot to the other that has just begun holds. -/
def firstTry (k : Nat) : HandOff := { from' := k, dest := 1 - k, since := 0 }

/-- The device with its controller stopped amid a swap, 300 ms after its start. -/
def swapped (h : HandOff) : State :=
  { up [] [] with time := { uptime := 300000000 }, power := { booted := true, handOff := some h } }

/-- States and operands that meet the hypotheses of `ForcedDomainsStayOn`. -/
theorem witness_ForcedDomainsStayOn :
    (∃ (s : State) (ss v d : Nat), s.managed = true ∧ s.mayWrite ss 0x6400_04 (.num v) = true ∧ s.partOf ss 0x6400_04 = d ∧
        d < 24) ∧
    (∃ (s : State) (d : Fin 24), s.live = true ∧ 2 ≤ d.val ∧ s.flag 0x6400_04 d = true) ∧
    (∃ (s : State) (ss v : Nat) (x : Session), s.mayWrite ss 0x6400_04 (.num v) = true ∧ s.session? ss = some x) := by
  exact ⟨⟨(up (sel 0x6400_01 23) [(0x6400_02, 23, 0)]), 1, 1, 23, by decide +kernel⟩,
    ⟨(up [] [(0x6400_04, 2, 1)]), 2, by decide +kernel⟩,
    ⟨(up (sel 0x6400_01 2) []), 1, 1, (sess (sel 0x6400_01 2)), by decide +kernel⟩⟩

/-- States and operands that meet the hypotheses of `DomainsComeAndGo`. -/
theorem witness_DomainsComeAndGo :
    (∃ (s : State) (d : Fin 24), s.power.refclk = true ∧ s.domain d = 1 ∧ ¬(15 ≤ d.val ∧ d.val ≤ 18)) ∧
    (∃ (s : State) (d : Fin 24), s.power.refclk = true ∧ s.domain d = 1 ∧ 15 ≤ d.val ∧ d.val ≤ 18) ∧
    (∃ (s : State) (d : Fin 24), s.power.refclk = true ∧ s.domain d = 1) ∧
    (∃ (s : State) (d : Fin 24), s.power.refclk = true ∧ 2 ≤ d.val ∧ s.domain d = 2) ∧
    (∃ (s : State) (d : Fin 24) (t0 : Nat), s.power.refclk = true ∧ Tbl.find s.power.unneeded d = some t0 ∧ s.domain d = 2 ∧
        s.domainHeld d = 0 ∧ t0 + 1000000 * s.reg 0x6400_06 ≤ s.now) ∧
    (∃ (s : State) (d : Fin 24), s.domain d = 3 ∧ s.power.waitingOn.contains d.val = false) ∧
    (∃ (s : State) (d : Fin 24), s.domain d = 3 ∧ s.power.waitingOn.contains d.val = true) := by
  exact ⟨⟨(put State.reset [(0x6400_02, 23, 1)]), 23, by decide +kernel⟩,
    ⟨(put State.reset [(0x6400_02, 15, 1)]), 15, by decide +kernel⟩,
    ⟨State.reset, 2, by decide +kernel⟩,
    ⟨(up [] []), 23, by decide +kernel⟩,
    ⟨({ up [] [(0x6400_06, 0, 100)] with time := { uptime := 100000005 }, power := { mgmt := true, unneeded := [(7, 5)] } }), 7,
        5, by decide +kernel⟩,
    ⟨(up [] [(0x6400_02, 23, 3)]), 23, by decide +kernel⟩,
    ⟨({ up [] [(0x6400_02, 6, 3)] with power := { mgmt := true, waitingOn := [6] } }), 6, by decide +kernel⟩⟩

/-- States and operands that meet the hypotheses of `ResetsAndClocksAct`. -/
theorem witness_ResetsAndClocksAct :
    (∃ (s : State), s.power.crystal = false) ∧
    (∃ (s : State), s.power.crystal = false ∧ s.power.crystalLate = false ∧ 2000000000 ≤ s.now) ∧
    (∃ (s u : State), s.power.refclk = false ∧ s.power.held = false ∧ u = { s with power := { s.power with refclk := true } }) ∧
    (∃ (s u : State), s.power.refclk = false ∧ s.power.held = true ∧ u = { s with power := { s.power with refclk := true } }) ∧
    (∃ (n : Nat), n < 1000) ∧
    (∃ (n : Nat), 10000 ≤ n) ∧
    (∃ (s : State) (ss v : Nat), s.managed = true ∧ s.mayWrite ss 0x1010_08 (.num v) = true) ∧
    (∃ (s : State), s.live = true ∧ s.power.booted = true ∧ s.power.mgmt = false ∧ s.swapNow = none) ∧
    (∃ (s : State) (h : HandOff), s.live = true ∧ s.power.booted = true ∧ s.power.mgmt = false ∧ s.swapNow = some h ∧
        h.lost = true) ∧
    (∃ (s : State) (h : HandOff), s.swapNow = some h ∧ h.lost = false) ∧
    (∃ (s : State), s.managed = true) := by
  exact ⟨⟨State.reset, by decide +kernel⟩,
    ⟨({ State.reset with time := { uptime := 2000000000 } }), by decide +kernel⟩,
    ⟨({ State.reset with power := { refclk := false } }), ({ State.reset with power := {} }), by decide +kernel⟩,
    ⟨({ State.reset with power := { refclk := false, held := true } }), ({ State.reset with power := { held := true } }),
        by decide +kernel⟩,
    ⟨999, by decide +kernel⟩,
    ⟨10000, by decide +kernel⟩,
    ⟨(up [] []), 1, 1, by decide +kernel⟩,
    ⟨({ up [] [] with power := { booted := true } }), by decide +kernel⟩,
    ⟨(swapped (left true)), (left true), by decide +kernel⟩,
    ⟨(swapped (left false)), (left false), by decide +kernel⟩,
    ⟨(up [] []), by decide +kernel⟩⟩

/-- States and operands that meet the hypotheses of `FirmwareSlotsAreUpdated`. -/
theorem witness_FirmwareSlotsAreUpdated :
    (∃ (s u : State) (a b : Bytes) (want : Nat), s.live = true ∧ s.domain 2 = 2 ∧ s.power.booted = false ∧
        s.acc.recovery = false ∧ u = { s with power := { s.power with flash := [(0, a), (1, b)] } } ∧
        s.power.bootFrom.getD (Tbl.get 0 s.nv.regs (regKey 0x6408_01 0) % 2) = want) ∧
    (∃ (s : State), s.live = true ∧ s.domain 2 = 2 ∧ s.power.booted = true ∧ s.power.mgmt = false ∧ s.swapNow = none ∧ (∀ m,
        m < 4 → s.mailboxStatus m ≠ 1) ∧ (∀ e, e < 18 → s.reg 0x3420_02 e ≠ 4)) ∧
    (∃ (s : State) (h : HandOff), s.live = true ∧ s.domain 2 = 2 ∧ s.power.booted = true ∧ s.power.mgmt = false ∧
        s.swapNow = some h ∧ h.failed = false ∧ h.back = false ∧ (∀ m, m < 4 → s.mailboxStatus m ≠ 1) ∧ (∀ e, e < 18 →
        s.reg 0x3420_02 e ≠ 4)) ∧
    (∃ (s : State) (h : HandOff), s.live = true ∧ s.domain 2 = 2 ∧ s.power.booted = true ∧ s.power.mgmt = false ∧
        s.swapNow = some h ∧ h.failed = true ∧ (∀ m, m < 4 → s.mailboxStatus m ≠ 1) ∧ (∀ e, e < 18 → s.reg 0x3420_02 e ≠ 4)) ∧
    (∃ (s : State) (h : HandOff), s.live = true ∧ s.domain 2 = 2 ∧ s.power.booted = true ∧ s.power.mgmt = false ∧
        s.swapNow = some h ∧ h.failed = true) ∧
    (∃ (s : State) (h : HandOff), s.live = true ∧ s.domain 2 = 2 ∧ s.power.booted = true ∧ s.power.mgmt = false ∧
        s.swapNow = some h ∧ h.failed = false ∧ (∀ m, m < 4 → s.mailboxStatus m ≠ 1)) ∧
    (∃ (s : State) (h : HandOff), s.live = true ∧ s.swapNow = some h ∧ h.failed = true ∧ h.since + 300000000 ≤ s.now) ∧
    (∃ (s : State) (h : HandOff), s.live = true ∧ s.swapNow = some h ∧ h.failed = false ∧ h.since + 300000000 ≤ s.now) ∧
    (∃ (s : State) (ss k : Nat) (blob : Bytes), s.managed = true ∧ s.mayWrite ss 0x6408_06 (.bytes blob) = true ∧
        s.partOf ss 0x6408_06 = k ∧ k < 2 ∧ k ≠ s.slotInForce ∧ (blob.drop 4).length % 256 = 0 ∧
        field blob 0 4 + (blob.drop 4).length ≤ slotSize) ∧
    (∃ (s : State) (ss v : Nat), s.managed = true ∧ s.mayWrite ss 0x6408_07 (.num v) = true ∧ v ≠ s.slotInForce) ∧
    (∃ (s : State) (k : Nat), s.managed = true ∧ s.power.verifying = some k) ∧
    (∃ (s : State) (ss v : Nat), s.managed = true ∧ s.mayWrite ss 0x6408_09 (.num v) = true ∧ s.activationRefused = false ∧
        s.acc.recovery = false) ∧
    (∃ (s : State) (ss v : Nat), s.managed = true ∧ s.mayWrite ss 0x6408_09 (.num v) = true ∧ s.activationRefused = false ∧
        s.acc.recovery = true) ∧
    (∃ (s : State) (ss v : Nat), s.managed = true ∧ s.mayWrite ss 0x6408_0A (.num v) = true ∧ s.reg 0x6408_0C ≠ 0) ∧
    (∃ (s : State) (t0 : Nat), s.managed = true ∧ s.power.trialSince = some t0 ∧ t0 + 1000000000 * s.reg 0x6408_0B ≤ s.now ∧
        s.acc.recovery = false) := by
  exact ⟨⟨({ up [] [] with power := {} }), ({ up [] [] with power := { flash := [(0, []), (1, [])] } }), ([]), ([]), 0,
      by decide +kernel⟩,
    ⟨({ up [] [] with power := { booted := true } }), by decide +kernel⟩,
    ⟨(swapped (firstTry 0)), (firstTry 0), by decide +kernel⟩,
    ⟨(swapped (left false)), (left false), by decide +kernel⟩,
    ⟨(swapped (left false)), (left false), by decide +kernel⟩,
    ⟨(swapped (firstTry 0)), (firstTry 0), by decide +kernel⟩,
    ⟨(swapped (left false)), (left false), by decide +kernel⟩,
    ⟨(swapped (firstTry 1)), (firstTry 1), by decide +kernel⟩,
    ⟨(up (sel 0x6408_05 1) []), 1, 1, ([0, 0, 0, 0] ++ List.replicate 256 7), by decide +kernel⟩,
    ⟨(up [] []), 1, 1, by decide +kernel⟩,
    ⟨({ up [] [] with power := { mgmt := true, verifying := some 1 } }), 1, by decide +kernel⟩,
    ⟨(up [] [(0x6408_08, 1, 1)]), 1, 1, by decide +kernel⟩,
    ⟨({ up [] [(0x6408_08, 1, 1)] with acc := { sessions := [sess []], recovery := true } }), 1, 1, by decide +kernel⟩,
    ⟨(up [] [(0x6408_0C, 0, 1)]), 1, 1, by decide +kernel⟩,
    ⟨({ up [] [(0x6408_0B, 0, 10)] with time := { uptime := 10000000005 }, power := { mgmt := true, trialSince := some 5 } }), 5,
        by decide +kernel⟩⟩

/-- The burst that a unit has under way, granted after some cycles or waiting. -/
def burstOf (u : Nat) (g : Option Nat) : FabItem :=
  { port := 37 + u, target := 0, req := { id := 0, write := false, address := 0x1000, beats := 16, cls := 2 }, issued := 0, since := 0, granted := g }

/-- A unit that scans a length from address 0x1000 on, at its first burst. -/
def scanAt (u : Nat) (g : Option Nat) (len : Nat) : State :=
  { up [] [(0x6000_07, u, 1), (0x5400_02, 0, 2)] with
    scans := [(u, { start := 0x1000, len := len })], fabric := { queue := [burstOf u g] }, dram :=
        { chans := [(0, { serving := some 0 })] } }

/-- A device whose key 63 is enabled, with a gate to close. -/
def gated : State := { up [] [(0x5C00_01, 0, 1), (0x5C10_02, 63, 1)] with time := { uptime := 1000000 } }

/-- States and operands that meet the hypotheses of `HostRequestsAreChecked`. -/
theorem witness_HostRequestsAreChecked :
    (∃ (s : State) (ss slot : Nat), s.managed = true ∧ s.mayWrite ss 0x2084_06 (.num slot) = true ∧ s.hostSlot slot = false) ∧
    (∃ (s : State) (ss v : Nat), s.managed = true ∧ s.mayWrite ss 0x2084_03 (.num v) = true ∧
        (ingotCount ≤ s.reg 0x2084_01 ∨ s.hostSlot (s.ingot (s.reg 0x2084_01)).slot = false)) ∧
    (∃ (s : State) (ss i : Nat), s.managed = true ∧ s.mayWrite ss 0x2084_04 (.num i) = true ∧ (∀ x,
        s.source (s.ingot i).slot = some x → x.kind ≠ 3)) ∧
    (∃ (s : State) (ss v : Nat), s.managed = true ∧ s.mayWrite ss 0x2084_03 (.num v) = true ∧ s.reg 0x2084_01 < ingotCount ∧
        s.hostSlot (s.ingot (s.reg 0x2084_01)).slot = true ∧ (s.ingot (s.reg 0x2084_01)).st ≠ .filling) ∧
    (∃ (s : State) (ss slot : Nat), s.managed = true ∧ s.mayWrite ss 0x2084_06 (.num slot) = true ∧ s.hostSlot slot = true ∧
        s.freeOf slot = []) := by
  exact ⟨⟨(up [] []), 1, 39, by decide +kernel⟩,
    ⟨(up [] [(0x2084_01, 0, 4096)]), 1, 1, by decide +kernel⟩,
    ⟨(fed (up [] []) 1 {}), 1, 1, by decide +kernel, by decide +kernel, fun x h => (by cases h; decide)⟩,
    ⟨(fed (up [] [(0x2084_01, 0, 1)]) 3 {}), 1, 1, by decide +kernel⟩,
    ⟨({ fed (up [] []) 3 {} with slots := [] }), 1, 0, by decide +kernel⟩⟩

/-- States and operands that meet the hypotheses of `FinishedScansStayDone`. -/
theorem witness_FinishedScansStayDone :
    (∃ (s : State) (u : Fin 4) (x : FabItem) (w : Nat), s.live = true ∧ s.fabricWorks = true ∧ s.reg 0x6000_07 u = 1 ∧
        s.scanItem u = some x ∧ x.granted = some w ∧ s.mayComplete x = true ∧ x.req.write = false ∧
        (s.scan u).len ≤ (s.scan u).done + (s.scan u).burst) ∧
    (∃ (s : State) (u : Fin 4), s.reg 0x6000_07 u = 3) ∧
    (∃ (s : State) (ss v : Nat), s.managed = true ∧ s.mayWrite ss 0x6000_06 (.num v) = true ∧
        s.reg 0x6000_07 (s.partOf ss 0x6000_06) = 3 ∧ 3 ≤ v) := by
  exact ⟨⟨(scanAt 3 (some 0) 8), 3, (burstOf 3 (some 0)), 0, by decide +kernel⟩,
    ⟨(up [] [(0x6000_07, 0, 3)]), 0, by decide +kernel⟩,
    ⟨(up (sel 0x6000_01 3) [(0x6000_07, 3, 3)]), 1, 3, by decide +kernel⟩⟩

/-- States and operands that meet the hypotheses of `UnitsScanTheirRange`. -/
theorem witness_UnitsScanTheirRange :
    (∃ (s : State) (ss u k : Nat) (r : FabReq), s.managed = true ∧ s.mayWrite ss 0x6000_06 (.num 1) = true ∧
        s.partOf ss 0x6000_06 = u ∧ u < 4 ∧ s.reg 0x6000_07 u ≠ 1 ∧ s.reg 0x6000_07 u ≠ 2 ∧
        s.scanRangeOk (s.reg 0x6000_03 u) (s.reg 0x6000_04 u) = true ∧ s.scanIngot u = none ∧ s.scanItem u = none ∧
        r = ({ start := s.reg 0x6000_03 u, len := s.reg 0x6000_04 u } : Scan).request ∧ burstFormed r = true ∧
        s.rangeUsable r.address (64 * r.beats) = true ∧ targetOf r.address = some k ∧ ¬(k < 16 ∧ s.reg 0x5400_02 k = 6)) ∧
    (∃ (s : State) (ss u i k : Nat) (r : FabReq), s.managed = true ∧ s.mayWrite ss 0x6000_06 (.num 2) = true ∧
        s.partOf ss 0x6000_06 = u ∧ u < 4 ∧ s.reg 0x6000_07 u ≠ 1 ∧ s.scanRangeOk (s.reg 0x6000_03 u) (s.reg 0x6000_04 u) = true ∧
        s.scanIngot u = some i ∧ (s.ingot i).shown = true ∧ (s.ingot i).holds (s.reg 0x6000_03 u) (s.reg 0x6000_04 u) = true ∧
        s.scanItem u = none ∧ r = ({ start := s.reg 0x6000_03 u, len := s.reg 0x6000_04 u } : Scan).request ∧
        burstFormed r = true ∧ s.rangeUsable r.address (64 * r.beats) = true ∧ targetOf r.address = some k ∧ ¬(k < 16 ∧
        s.reg 0x5400_02 k = 6)) ∧
    (∃ (s : State) (ss u : Nat), s.managed = true ∧ s.mayWrite ss 0x6000_06 (.num 3) = true ∧ s.partOf ss 0x6000_06 = u ∧
        s.reg 0x6000_07 u = 1) ∧
    (∃ (s : State) (ss u : Nat), s.managed = true ∧ s.mayWrite ss 0x6000_06 (.num 4) = true ∧ s.partOf ss 0x6000_06 = u ∧
        s.reg 0x6000_07 u = 1) ∧
    (∃ (s : State) (u : Fin 4) (x : FabItem) (w k : Nat) (r : FabReq), s.live = true ∧ s.fabricWorks = true ∧
        s.reg 0x6000_07 u = 1 ∧ s.scanItem u = some x ∧ x.granted = some w ∧ s.mayComplete x = true ∧ x.req.write = false ∧
        (s.scan u).done + (s.scan u).burst < (s.scan u).len ∧
        r = ({ s.scan u with done := (s.scan u).done + (s.scan u).burst } : Scan).request ∧ burstFormed r = true ∧
        s.rangeUsable r.address (64 * r.beats) = true ∧ targetOf r.address = some k ∧ ¬(k < 16 ∧ s.reg 0x5400_02 k = 6) ∧
        (∀ y ∈ s.fabric.queue.erase x, y.port ≠ 37 + u.val)) ∧
    (∃ (s : State) (u : Fin 4) (x : FabItem) (w : Nat), s.live = true ∧ s.fabricWorks = true ∧ s.reg 0x6000_07 u = 1 ∧
        s.scanItem u = some x ∧ x.granted = some w ∧ s.mayComplete x = true ∧ x.answer = none ∧ readSectors x.req ≠ [] ∧
        (∀ k ∈ readSectors x.req, (targetOf (x.req.address + 32 * k)).any (fun n => decide (n < 24)) = true)) ∧
    (∃ (s : State) (u : Fin 4) (x : FabItem), s.live = true ∧ s.fabricWorks = true ∧ s.reg 0x6000_07 u = 1 ∧
        s.scanItem u = some x ∧ x.granted = none ∧ x.req.cls = 2 ∧ s.waitedOut x.since (s.reg 0x5000_05) = true) := by
  exact ⟨⟨(up (sel 0x6000_01 3) [(0x6000_03, 3, 7), (0x6000_04, 3, 64), (0x5400_02, 0, 2)]), 1, 3, 0,
      ({ id := 0, write := false, address := 0, beats := 2, cls := 2 }), by decide +kernel⟩,
    ⟨(fed (up (sel 0x6000_01 0) [(0x6000_03, 0, 0x100000), (0x6000_04, 0, 0x10000), (0x5400_02, 0, 2), (0x6000_0B, 0,
        0)]) 1 { st := .ready, seq := 9 }), 1, 0, 0, 0, ({ id := 0, write := false, address := 0x100000, beats := 16, cls := 2 }),
        by decide +kernel⟩,
    ⟨(up (sel 0x6000_01 2) [(0x6000_07, 2, 1)]), 1, 2, by decide +kernel⟩,
    ⟨(up (sel 0x6000_01 2) [(0x6000_07, 2, 1)]), 1, 2, by decide +kernel⟩,
    ⟨(scanAt 1 (some 0) 2048), 1, (burstOf 1 (some 0)), 0, 0,
        ({ id := 1024, write := false, address := 0x1400, beats := 16, cls := 2 }), by decide +kernel⟩,
    ⟨(scanAt 1 (some 0) 2048), 1, (burstOf 1 (some 0)), 0, by decide +kernel⟩,
    ⟨({ scanAt 1 none 2048 with time := { uptime := 10000000 } }), 1, (burstOf 1 none), by decide +kernel⟩⟩

/-- States and operands that meet the hypotheses of `KeysAreScannedAndSaved`. -/
theorem witness_KeysAreScannedAndSaved :
    (∃ (s : State) (g : Nat), s.live = true ∧ s.flag 0x5C00_01 = true ∧ s.domain 22 = 2 ∧ s.commits.waiting = [] ∧
        s.power.booted = true ∧ s.gateDue = some g) ∧
    (∃ (s : State), s.gateDue = none ∨ s.power.booted = false) ∧
    (∃ (s : State) (ss v : Nat), s.managed = true ∧ s.mayWrite ss 0x5C00_08 (.num v) = true ∧ s.keys.saving = none) ∧
    (∃ (s : State), s.managed = true ∧ s.reg 0x5C00_07 ≠ 0 ∧ s.keys.saving = none ∧
        s.keys.autoAt + s.reg 0x5C00_07 * 3600000000000 ≤ s.now) ∧
    (∃ (s : State) (k b : Nat) (e : StoreEnd), s.managed = true ∧ s.keys.saving = some [(k, b)] ∧ k < 64 ∧
        (e = .done ∨ e = .retried) ∧ s.acc.heldWrites = [] ∧ (∀ m, m < 4 → s.mailboxStatus m ≠ 1)) ∧
    (∃ (s : State) (bs : Tbl Nat), s.managed = true ∧ s.keys.saving = some bs) ∧
    (∃ (s : State) (bs : Tbl Nat), s.managed = true ∧ s.keys.saving = some bs ∧ s.acc.heldWrites = [] ∧ (∀ m, m < 4 →
        s.mailboxStatus m ≠ 1)) := by
  exact ⟨⟨gated, 750000, by decide +kernel⟩,
    ⟨(up [] []), by decide +kernel⟩,
    ⟨(up [] []), 1, 1, by decide +kernel⟩,
    ⟨({ up [] [(0x5C00_07, 0, 1)] with time := { uptime := 3600000000000 } }), by decide +kernel⟩,
    ⟨({ up [] [] with keys := { saving := some [(63, 160)] } }), 63, 160, .retried, by decide +kernel⟩,
    ⟨({ up [] [] with keys := { saving := some [] } }), ([]), by decide +kernel⟩,
    ⟨({ up [] [] with keys := { saving := some [] } }), ([]), by decide +kernel⟩⟩

/-- Reset, a step later. -/
def ticked : State := match step State.reset with
  | .next t => t
  | _ => State.reset

/-- A step of the empty queue answers. -/
theorem step_reset : step State.reset = .next ticked := rfl

/-- States and operands that meet the hypotheses of `LiveGroupsStayWithinBudget`. -/
theorem witness_LiveGroupsStayWithinBudget :
    (∃ (s t : State), s.groupsFresh ∧ step s = .next t) :=
  ⟨State.reset, ticked, fun _ h => absurd h List.not_mem_nil, step_reset⟩

/-- States and operands that meet the hypotheses of `ResetIsAsTheTablesSay`. -/
theorem witness_ResetIsAsTheTablesSay :
    (∃ (d : _), 4 ≤ d ∧ d < 24) ∧
    (∃ (k i : _), i < 65536 ∧ k ≠ 0x6400_02 ∧ k ≠ 0x6400_05 ∧ ¬(0x2010_01 ≤ k ∧ k ≤ 0x2010_28)) ∧
    (∃ (g : Signal) (d : Nat), g.domain = some d ∧ 4 ≤ d) ∧
    (∃ (s : State) (g : Signal) (d : Nat), g.domain = some d ∧ s.domain d = 2) ∧
    (∃ (s : State) (g : Signal) (d : Nat), g.domain = some d ∧ s.domain d = 0 ∧ s.reg 0x6400_05 d ≠ 0) ∧
    (∃ (s : State), s.fuses.debugLock = true) := by
  exact ⟨⟨4, by decide +kernel⟩,
    ⟨0x1010_01, 0, by decide +kernel⟩,
    ⟨(.key 63), 22, by decide +kernel⟩,
    ⟨(up [] []), .octalSpi, 2, by decide +kernel⟩,
    ⟨({ State.reset with regs := [(regKey 0x6400_05 20, 1)] }), .pcie, 20, by decide +kernel⟩,
    ⟨({ State.reset with fuses := { debugLock := true } }), by decide +kernel⟩⟩

/-- States and operands that meet the hypotheses of `MemoryStaysCanonical`. -/
theorem witness_MemoryStaysCanonical :
    (∃ (s t : State), Memory.wf s.cells = true ∧ step s = .next t) :=
  ⟨State.reset, ticked, by decide +kernel, step_reset⟩

/-- States and operands that meet the hypotheses of `FusesAreOneWay`. -/
theorem witness_FusesAreOneWay :
    (∃ (s t : State), step s = .next t) :=
  ⟨State.reset, ticked, step_reset⟩

/-- States and operands that meet the hypotheses of `QueuesStayBounded`. -/
theorem witness_QueuesStayBounded :
    (∃ (s t : State), step s = .next t) :=
  ⟨State.reset, ticked, step_reset⟩

/-- States and operands that meet the hypotheses of `OnlyTheUndefinedPulseStops`. -/
theorem witness_OnlyTheUndefinedPulseStops :
    (∃ (n : Nat), 1000 ≤ n ∧ n < 10000) ∧
    (∃ (s : State), s.managed = false) := by
  exact ⟨⟨1000, by decide +kernel⟩,
    ⟨State.reset, by decide +kernel⟩⟩

end Sys2Proof.Tests
end

section
/-! PROOFS. The non-volatile store (R7, R425, R426): what a write of it leaves in each copy, in the ledger and in the log, and the
device's power-on where a loss of power cuts it. -/

namespace Sys2Proof.Machine

/-! ### What a register or a byte value leaves alone -/

theorem State.regsBut_refl (s : State) (ks : List Nat) : s.regsBut s ks := fun _ _ => rfl

theorem State.blobsBut_refl (s : State) (ks : List Nat) : s.blobsBut s ks := fun _ _ => rfl

theorem State.regsBut_put {s u t : State} {ks : List Nat} {k v : Nat} (h : s.regsBut u ks) (ht : t.regs = Tbl.put u.regs k v)
    (hk : k ∈ ks) : s.regsBut t ks := fun j hj => by
  rw [ht, Tbl.find_put_ne _ _ (ne_of_mem_of_not_mem hk hj).symm, h j hj]

theorem State.blobsBut_put {s u t : State} {ks : List Nat} {k : Nat} {b : Bytes} (h : s.blobsBut u ks)
    (ht : t.blobs = Tbl.put u.blobs k b) (hk : k ∈ ks) : s.blobsBut t ks := fun j hj => by
  rw [ht, Tbl.find_put_ne _ _ (ne_of_mem_of_not_mem hk hj).symm, h j hj]

/-! ### The two copies of the store (R425) -/

section
variable (s : State)

@[simp] theorem State.setSpareNv_regs (n : NvCopy) : (s.setSpareNv n).regs = s.regs := by
  unfold State.setSpareNv; split <;> rfl
@[simp] theorem State.setSpareNv_blobs (n : NvCopy) : (s.setSpareNv n).blobs = s.blobs := by
  unfold State.setSpareNv; split <;> rfl
@[simp] theorem State.setSpareNv_shadow (n : NvCopy) : (s.setSpareNv n).shadow = s.shadow := by
  unfold State.setSpareNv; split <;> rfl
@[simp] theorem State.setSpareNv_sources (n : NvCopy) : (s.setSpareNv n).sources = s.sources := by
  unfold State.setSpareNv; split <;> rfl
@[simp] theorem State.setSpareNv_sent (n : NvCopy) : (s.setSpareNv n).sent = s.sent := by
  unfold State.setSpareNv; split <;> rfl
@[simp] theorem State.setSpareNv_log (n : NvCopy) : (s.setSpareNv n).log = s.log := by
  unfold State.setSpareNv; split <;> rfl
@[simp] theorem State.setSpareNv_dram (n : NvCopy) : (s.setSpareNv n).dram = s.dram := by
  unfold State.setSpareNv; split <;> rfl
@[simp] theorem State.setSpareNv_fuses (n : NvCopy) : (s.setSpareNv n).fuses = s.fuses := by
  unfold State.setSpareNv; split <;> rfl
@[simp] theorem State.setSpareNv_keys (n : NvCopy) : (s.setSpareNv n).keys = s.keys := by
  unfold State.setSpareNv; split <;> rfl
@[simp] theorem State.setSpareNv_reg (n : NvCopy) (k i : Nat) : (s.setSpareNv n).reg k i = s.reg k i :=
  State.reg_congr (by simp) (by simp) k i

/-- The copy in force rests on the two copies alone. -/
theorem State.nv_congr {s t : State} (ha : t.nvA = s.nvA) (hb : t.nvB = s.nvB) : t.nv = s.nv := by
  rw [State.nv, State.nv, State.nvIsA, State.nvIsA, ha, hb]

@[simp] theorem State.nv_setReg (k i v : Nat) : (s.setReg k i v).nv = s.nv := State.nv_congr rfl rfl
@[simp] theorem State.nv_setActive (k i : Nat) (v : Val) : (s.setActive k i v).nv = s.nv := by
  cases v <;> exact State.nv_congr rfl rfl
@[simp] theorem State.nv_reply (ss : Nat) (r : Reply) : (s.reply ss r).nv = s.nv := State.nv_congr rfl rfl
@[simp] theorem State.nv_touched (ss : Nat) : (s.touched ss).nv = s.nv := State.nv_congr (by simp) (by simp)
@[simp] theorem State.nv_record (e : Nat) (c : Option Code) (i : Nat) (d : Int) (fw : Bool) : (s.record e c i d fw).nv = s.nv :=
  State.nv_congr (by simp) (by simp)

theorem State.setSpareNv_of_isA (h : s.nvIsA = true) (n : NvCopy) : s.setSpareNv n = { s with nvB := n } := if_pos h

theorem State.setSpareNv_of_notA (h : s.nvIsA = false) (n : NvCopy) : s.setSpareNv n = { s with nvA := n } := by
  simp only [State.setSpareNv, h, Bool.false_eq_true, if_false]

theorem State.nv_of_isA (h : s.nvIsA = true) : s.nv = s.nvA := if_pos h

theorem State.nv_of_notA (h : s.nvIsA = false) : s.nv = if s.nvB.valid then s.nvB else {} := by
  simp only [State.nv, h, Bool.false_eq_true, if_false]

/-- A valid copy of the next generation, written where no copy is in force, is then the one in force. -/
theorem State.nv_setSpareNv {n : NvCopy} (hv : n.valid = true) (hg : n.generation = s.nv.generation + 1) :
    (s.setSpareNv n).nv = n := by
  cases h : s.nvIsA
  · rw [s.nv_of_notA h] at hg
    rw [s.setSpareNv_of_notA h]
    refine State.nv_of_isA _ ?_
    cases hb : s.nvB.valid
    · simp [State.nvIsA, hv, hb]
    · simp only [hb, if_true] at hg
      simp [State.nvIsA, hv, hg]
  · rw [s.nv_of_isA h] at hg
    rw [s.setSpareNv_of_isA h, State.nv_of_notA _ (by simp [State.nvIsA, hv, hg])]
    exact if_pos hv

/-- A copy not in force that is no longer valid leaves the other in force. -/
@[simp] theorem State.nv_setSpareNv_invalid (n : NvCopy) : (s.setSpareNv { n with valid := false }).nv = s.nv := by
  cases h : s.nvIsA
  · rw [s.setSpareNv_of_notA h, s.nv_of_notA h, State.nv_of_notA _ (by simp [State.nvIsA])]
  · have hA : s.nvA.valid = true := by
      rw [State.nvIsA, Bool.and_eq_true] at h
      exact h.1
    rw [s.setSpareNv_of_isA h, s.nv_of_isA h, State.nv_of_isA _ (by simp [State.nvIsA, hA])]

end

/-! ### What a write of the store leaves (R425) -/

/-- The state once the copy not in force has been written with `n` and is the one in force, and L:6800.08 shows whether it holds a
saved configuration (R425, R426). -/
def State.withStore (s : State) (n : NvCopy) : State :=
  (s.setSpareNv { n with generation := s.nv.generation + 1, valid := true }).setReg 0x6800_08 0 (if n.saved.isSome then 1 else 0)

/-- The state whose copy not in force a write has spoiled (R425). -/
def State.spareSpoiled (s : State) : State := s.setSpareNv { s.spareNv with valid := false }

section
variable (s : State)

@[simp] theorem State.withStore_nv (n : NvCopy) :
    (s.withStore n).nv = { n with generation := s.nv.generation + 1, valid := true } := by
  rw [State.withStore, State.nv_setReg, State.nv_setSpareNv s rfl rfl]

@[simp] theorem State.withStore_regs (n : NvCopy) :
    (s.withStore n).regs = Tbl.put s.regs (regKey 0x6800_08 0) (if n.saved.isSome then 1 else 0) := by simp [State.withStore]
@[simp] theorem State.withStore_blobs (n : NvCopy) : (s.withStore n).blobs = s.blobs := by simp [State.withStore]
@[simp] theorem State.withStore_shadow (n : NvCopy) : (s.withStore n).shadow = s.shadow := by simp [State.withStore]
@[simp] theorem State.withStore_sent (n : NvCopy) : (s.withStore n).sent = s.sent := by simp [State.withStore]
@[simp] theorem State.withStore_log (n : NvCopy) : (s.withStore n).log = s.log := by simp [State.withStore]
@[simp] theorem State.withStore_dram (n : NvCopy) : (s.withStore n).dram = s.dram := by simp [State.withStore]
@[simp] theorem State.withStore_fuses (n : NvCopy) : (s.withStore n).fuses = s.fuses := by simp [State.withStore]

@[simp] theorem State.withStore_reg_status (n : NvCopy) :
    (s.withStore n).reg 0x6800_08 0 = if n.saved.isSome then 1 else 0 := by simp [State.withStore]

theorem State.withStore_reg_other (n : NvCopy) {k i : Nat} (hk : k ≠ 0x6800_08) (hi : i < 65536) :
    (s.withStore n).reg k i = s.reg k i := by
  rw [State.withStore, State.reg_setReg_key _ _ hk (by decide) hi, State.setSpareNv_reg]

@[simp] theorem State.spareSpoiled_nv : s.spareSpoiled.nv = s.nv := by simp [State.spareSpoiled]
@[simp] theorem State.spareSpoiled_regs : s.spareSpoiled.regs = s.regs := by simp [State.spareSpoiled]
@[simp] theorem State.spareSpoiled_blobs : s.spareSpoiled.blobs = s.blobs := by simp [State.spareSpoiled]
@[simp] theorem State.spareSpoiled_shadow : s.spareSpoiled.shadow = s.shadow := by simp [State.spareSpoiled]
@[simp] theorem State.spareSpoiled_sent : s.spareSpoiled.sent = s.sent := by simp [State.spareSpoiled]
@[simp] theorem State.spareSpoiled_dram : s.spareSpoiled.dram = s.dram := by simp [State.spareSpoiled]
@[simp] theorem State.spareSpoiled_fuses : s.spareSpoiled.fuses = s.fuses := by simp [State.spareSpoiled]
@[simp] theorem State.spareSpoiled_keys : s.spareSpoiled.keys = s.keys := by simp [State.spareSpoiled]

@[simp] theorem State.setActive_sent (k i : Nat) (v : Val) : (s.setActive k i v).sent = s.sent := by cases v <;> rfl
@[simp] theorem State.setActive_log (k i : Nat) (v : Val) : (s.setActive k i v).log = s.log := by cases v <;> rfl
@[simp] theorem State.setActive_dram (k i : Nat) (v : Val) : (s.setActive k i v).dram = s.dram := by cases v <;> rfl
@[simp] theorem State.setActive_fuses (k i : Nat) (v : Val) : (s.setActive k i v).fuses = s.fuses := by cases v <;> rfl
@[simp] theorem State.setActive_shadow (k i : Nat) (v : Val) : (s.setActive k i v).shadow = s.shadow := by cases v <;> rfl
@[simp] theorem State.setActive_keys (k i : Nat) (v : Val) : (s.setActive k i v).keys = s.keys := by cases v <;> rfl

/-- A write that is done, at once or at its retry. -/
theorem State.writeNv_done {e : StoreEnd} (he : e = .done ∨ e = .retried) (key : Nat) (f : NvCopy → NvCopy) :
    s.writeNv e key f = (s.withStore (f s.nv), none) := by
  rcases he with rfl | rfl <;> rfl

/-- A write that fails, its retry too. -/
theorem State.writeNv_failed (key : Nat) (f : NvCopy → NvCopy) :
    s.writeNv .failed key f =
      ((s.spareSpoiled.setReg 0x6800_08 0 3).record 0x113 (some (lg 0x0F)) 0 key true, some (lg 0x0F)) := rfl

/-- A write that a loss of power cuts. -/
theorem State.writeNv_powerLost (key : Nat) (f : NvCopy → NvCopy) : s.writeNv .powerLost key f = (s.spareSpoiled, none) := rfl

end

/-! ### The entries of the store (R408, R425) -/

/-- A copy of the store with the value of an entry. -/
def NvCopy.withEntry (n : NvCopy) (slot : Nat) : Val → NvCopy
  | .num k => { n with regs := Tbl.put n.regs slot k }
  | .bytes b => { n with blobs := Tbl.put n.blobs slot b }

theorem storeOp_done {e : StoreEnd} (he : e = .done ∨ e = .retried) (key : Nat) (s : State) (ss inst : Nat) (v : Val) :
    storeOp key e s ss inst v =
      (if atReset key then s.withStore (s.nv.withEntry (regKey key inst) v)
        else (s.withStore (s.nv.withEntry (regKey key inst) v)).setActive key inst v, .ok) := by
  cases v <;> simp only [storeOp, State.writeNv_done s he, NvCopy.withEntry]

theorem storeOp_failed (key : Nat) (s : State) (ss inst : Nat) (v : Val) :
    storeOp key .failed s ss inst v =
      ((s.spareSpoiled.setReg 0x6800_08 0 3).record 0x113 (some (lg 0x0F)) 0 key true, .no (lg 0x0F)) := by
  simp only [storeOp, State.writeNv_failed]

theorem storeOp_powerLost (key : Nat) (s : State) (ss inst : Nat) (v : Val) :
    storeOp key .powerLost s ss inst v =
      (if atReset key then s.spareSpoiled else s.spareSpoiled.setActive key inst v, .ok) := by
  simp only [storeOp, State.writeNv_powerLost]

/-- A save that is done: the store holds the active values that a saved configuration takes (R426). -/
theorem saveConfigOp_done {e : StoreEnd} (he : e = .done ∨ e = .retried) (s : State) (ss inst : Nat) (v : Val) :
    saveConfigOp e s ss inst v =
      (s.withStore { s.nv with saved := some (s.regs.filter (fun p => savedKey p.1), s.blobs.filter (fun p => savedKey p.1)) },
        .ok) := by
  simp only [saveConfigOp, State.writeNv_done s he]

theorem eraseConfigOp_done {e : StoreEnd} (he : e = .done ∨ e = .retried) (s : State) (ss inst : Nat) (v : Val) :
    eraseConfigOp e s ss inst v = (s.withStore { s.nv with saved := none }, .ok) := by
  simp only [eraseConfigOp, State.writeNv_done s he]

/-- L:6800.06 to L:6800.08 are no entries of the store (R429). -/
theorem ne_of_inStore {key : Nat} (h : inStore key = true) : key ≠ 0x6800_06 ∧ key ≠ 0x6800_07 ∧ key ≠ 0x6800_08 := by
  refine ⟨?_, ?_, ?_⟩ <;> rintro rfl <;> exact absurd h (by decide)

theorem storeRow_of_inStore {key : Nat} (h : inStore key = true) (e : StoreEnd) : storeRow key e = storeOp key e := by
  obtain ⟨hsave, herase, -⟩ := ne_of_inStore h
  unfold storeRow
  split
  · exact absurd rfl hsave
  · exact absurd rfl herase
  · rw [if_pos h]

theorem writesStore_of_inStore {key : Nat} (h : inStore key = true) : writesStore key = true := by simp [writesStore, h]

/-! ### A session's write of the store -/

theorem State.storeBusy_idle {s : State} (h : s.keys.saving = none) (key : Nat) : s.storeBusy key = false := by
  simp [State.storeBusy, h]

/-- A write that comes while the store is being written waits (R425). -/
theorem State.storeWrite_busy {s : State} {bs : Tbl Nat} (h : s.keys.saving = some bs) {key : Nat} (hk : writesStore key = true)
    (ss : Nat) (v : Val) (e : StoreEnd) : s.storeWrite ss key v e = s.hold (.row ss key v e) := by
  simp [State.storeWrite, State.storeBusy, h, hk]

/-- A write that may be made and that its operation accepts. -/
theorem State.storeWrite_accepted {s u : State} {ss key : Nat} {v : Val} {e : StoreEnd} (hs : s.keys.saving = none)
    (hw : s.mayWrite ss key v = true) (he : e ≠ .powerLost)
    (hop : storeRow key e (s.touched ss) ss (s.partOf ss key) v = (u, .ok)) :
    s.storeWrite ss key v e = u.reply ss .ok := by
  simp only [State.storeWrite, State.storeBusy_idle hs, he, decide_false, Bool.false_and, Bool.false_eq_true, if_false]
  rw [State.ledgerWrite_of_mayWrite hw (by rw [hop]; rfl), hop]

/-- A write of the store that is not done is answered with its code and noted where a refusal is (R420, R425). -/
theorem State.storeWrite_refused {s u : State} {ss key : Nat} {v : Val} {e : StoreEnd} {c : Code} (hs : s.keys.saving = none)
    (hw : s.mayWrite ss key v = true) (he : e ≠ .powerLost)
    (hop : storeRow key e (s.touched ss) ss (s.partOf ss key) v = (u, .no c)) :
    s.storeWrite ss key v e = (u.noteRefusal ss key c).reply ss (.no c) := by
  simp only [State.storeWrite, State.storeBusy_idle hs, he, decide_false, Bool.false_and, Bool.false_eq_true, if_false,
    State.ledgerWrite, State.tryWrite_of_mayWrite hw, hop, Reply.no]

/-- A write of the store that a loss of power cuts: the power-on follows, with no response (R425). -/
theorem State.storeWrite_powerLost {s u : State} {ss key : Nat} {v : Val} (hs : s.keys.saving = none)
    (hw : s.mayWrite ss key v = true) (hk : writesStore key = true)
    (hop : storeRow key .powerLost (s.touched ss) ss (s.partOf ss key) v = (u, .ok)) :
    s.storeWrite ss key v .powerLost = u.powerOn := by
  simp only [State.storeWrite, State.storeBusy_idle hs, hk, decide_true, Bool.true_and, Bool.false_eq_true, if_false, if_true,
    State.cutWrite, State.tryWrite_of_mayWrite hw, hop, Reply.ok, Option.isNone_none]

theorem exec_roleSelectWrite {s : State} (h : s.managed = true) (ss v : Nat) :
    exec (.roleSelectWrite ss v) s = .next (s.storeWrite ss 0x1000_04 (.num v) .done) :=
  whenManaged_next h (·.storeWrite ss 0x1000_04 (.num v) .done)

theorem exec_saveConfiguration {s : State} (h : s.managed = true) (ss v : Nat) (e : StoreEnd) :
    exec (.saveConfiguration ss v e) s = .next (s.storeWrite ss 0x6800_06 (.num v) e) :=
  whenManaged_next h (·.storeWrite ss 0x6800_06 (.num v) e)

theorem exec_eraseSavedConfiguration {s : State} (h : s.managed = true) (ss v : Nat) (e : StoreEnd) :
    exec (.eraseSavedConfiguration ss v e) s = .next (s.storeWrite ss 0x6800_07 (.num v) e) :=
  whenManaged_next h (·.storeWrite ss 0x6800_07 (.num v) e)

theorem exec_nonVolatileWrite {s : State} (h : s.managed = true) (ss key : Nat) (v : Val) (e : StoreEnd) :
    exec (.nonVolatileWrite ss key v e) s = .next (s.storeWrite ss key v e) :=
  whenManaged_next h (·.storeWrite ss key v e)

/-! ### The log after a failed write (R437, R439) -/

@[simp] theorem State.raiseLog_recs (s : State) : s.raiseLog.log.recs = s.log.recs := by
  unfold State.raiseLog
  split
  · rfl
  · split <;> rfl

/-- A record is the newest of the log, unless it found the log writer's queue full or the Fabric domain not on. -/
theorem State.record_newest (s : State) (event : Nat) (code : Option Code) (inst : Nat) (detail : Int) (fw : Bool) :
    (s.record event code inst detail fw).newest event code := by
  by_cases hon : s.reg 0x6400_02 3 = 2
  · have hon' : ¬ (s.reg 0x6400_02 3 != 2) = true := by simp [hon]
    rw [State.record, State.recordAt, if_neg hon']
    by_cases hfull : logQueue ≤ s.logWaiting
    · rw [if_pos hfull]
      exact .inl hfull
    · rw [if_neg hfull]
      exact .inr (.inr ⟨_, by rw [State.raiseLog_recs]; rfl, rfl, rfl⟩)
  · exact .inr (.inl (by simpa using hon))

/-- A response leaves the newest record the newest. -/
theorem State.newest_reply {s : State} {event : Nat} {code : Option Code} (h : s.newest event code) (ss : Nat) (r : Reply) :
    (s.reply ss r).newest event code := h

/-! ### The power-on that a loss of power ends in (R395, R425) -/

/-- What follows of a power domain leaves what is sent, the management controller and every register of another entry alone. -/
theorem State.settleDomain_frame (s w : State) (d : Nat) :
    (s.settleDomain w d).sent = s.sent ∧ (s.settleDomain w d).power.mgmt = s.power.mgmt ∧
      (s.settleDomain w d).reg 0x1010_07 0 = s.reg 0x1010_07 0 := by
  have hstate : regKey 0x1010_07 0 ≠ regKey 0x6400_02 d := by unfold regKey; omega
  have hcount : regKey 0x1010_07 0 ≠ regKey 0x6400_05 d := by unfold regKey; omega
  unfold State.settleDomain
  dsimp only
  split
  · split
    · refine ⟨rfl, rfl, ?_⟩
      rw [State.bump, State.bumpBy, State.reg_setReg_ne _ _ hcount, State.reg_setReg_ne _ _ hstate]
      rfl
    · split <;> exact ⟨rfl, rfl, rfl⟩
  · split <;> exact ⟨rfl, rfl, rfl⟩

theorem State.settlePower_frame (s : State) :
    s.settlePower.sent = s.sent ∧ s.settlePower.power.mgmt = s.power.mgmt ∧ s.settlePower.reg 0x1010_07 0 = s.reg 0x1010_07 0 := by
  unfold State.settlePower
  generalize (List.range 22).map (· + 2) = ds
  induction ds generalizing s with
  | nil => exact ⟨rfl, rfl, rfl⟩
  | cons d ds ih =>
    obtain ⟨hsent, hmgmt, hreg⟩ := s.settleDomain_frame s.withWaiting d
    obtain ⟨hsent', hmgmt', hreg'⟩ := ih (s.settleDomain s.withWaiting d)
    exact ⟨hsent'.trans hsent, hmgmt'.trans hmgmt, hreg'.trans hreg⟩

/-- A reset that Retention does not outlast settles a state with the fuses, both copies of the store and what was sent, in which the
management controller does not run (R395, R450). -/
theorem State.afterReset_lost (s : State) (cause : Nat) :
    ∃ (b : State) (clock : Nat),
      s.afterReset cause false = ((b.setReg 0x1010_07 0 cause).setReg 0x6400_09 0 clock).settlePower ∧
      b.nvA = s.nvA ∧ b.nvB = s.nvB ∧ b.fuses = s.fuses ∧ b.sent = s.sent ∧ b.power.mgmt = false :=
  ⟨_, _, rfl, rfl, rfl, rfl, rfl, rfl⟩

/-- Power that returns while no write of the store was in progress: the copy in force, the fuses and what was sent stay, the cause is
1 and the management controller does not run (R395, R425). -/
theorem State.powerOn_frame {s : State} (h : s.keys.saving = none) :
    s.powerOn.nv = s.nv ∧ s.powerOn.reg 0x1010_07 0 = 1 ∧ s.powerOn.sent = s.sent ∧ s.powerOn.fuses = s.fuses ∧
      s.powerOn.power.mgmt = false := by
  have hon : s.powerOn = s.afterReset 1 false := by simp [State.powerOn, h]
  obtain ⟨b, clock, hreset, hA, hB, hfuses, hsent, hmgmt⟩ := s.afterReset_lost 1
  have hstill := State.settlePower_still_of (s := (b.setReg 0x1010_07 0 1).setReg 0x6400_09 0 clock) rfl
  obtain ⟨hsent', hmgmt', hcause⟩ := ((b.setReg 0x1010_07 0 1).setReg 0x6400_09 0 clock).settlePower_frame
  rw [← hreset, ← hon] at hstill hsent' hmgmt' hcause
  simp only [State.still, Prod.mk.injEq] at hstill
  obtain ⟨hfuses', hA', hB', -⟩ := hstill
  refine ⟨State.nv_congr (hA'.trans hA) (hB'.trans hB), ?_, hsent'.trans hsent, hfuses'.trans hfuses, hmgmt'.trans hmgmt⟩
  rw [hcause, State.reg_setReg_key _ _ (by decide) (by decide) (by decide), State.reg_setReg_same]

/-! ### What each command leaves (R7, R425, R426) -/

/-- The state once a session's write has put `n` into the store and has been answered. -/
def State.stored (s : State) (ss : Nat) (n : NvCopy) : State := ((s.touched ss).withStore n).reply ss .ok

/-- The state once a session's write of an entry that takes effect at once has been stored, made active and answered. -/
def State.storedActive (s : State) (ss key : Nat) (v : Val) : State :=
  (((s.touched ss).withStore (s.nv.withEntry (regKey key (s.partOf ss key)) v)).setActive key (s.partOf ss key) v).reply ss .ok

/-- The state once a session's write of an entry has failed, with its record, and has been refused. -/
def State.storeFailed (s : State) (ss key : Nat) : State :=
  (((s.touched ss).spareSpoiled.setReg 0x6800_08 0 3).record 0x113 (some (lg 0x0F)) 0 key true).reply ss (.no (lg 0x0F))

theorem State.stored_nv (s : State) (ss : Nat) (n : NvCopy) :
    (s.stored ss n).nv = { n with generation := s.nv.generation + 1, valid := true } := by simp [State.stored]

theorem State.stored_reg_status (s : State) (ss : Nat) (n : NvCopy) :
    (s.stored ss n).reg 0x6800_08 0 = if n.saved.isSome then 1 else 0 := by simp [State.stored]

theorem State.stored_reg_other (s : State) (ss : Nat) (n : NvCopy) {k i : Nat} (hk : k ≠ 0x6800_08) (hi : i < 65536) :
    (s.stored ss n).reg k i = s.reg k i := by
  rw [State.stored, State.reply_reg, State.withStore_reg_other _ _ hk hi, State.touched_reg]

theorem State.stored_regs (s : State) (ss : Nat) (n : NvCopy) :
    (s.stored ss n).regs = Tbl.put s.regs (regKey 0x6800_08 0) (if n.saved.isSome then 1 else 0) := by simp [State.stored]

/-- What a stored write changes in the ledger file: L:6800.08, and nothing else. -/
theorem State.stored_ledgerBut (s : State) (ss : Nat) (n : NvCopy) {ks : List Nat} (hk : regKey 0x6800_08 0 ∈ ks) :
    s.ledgerBut (s.stored ss n) ks :=
  ⟨State.regsBut_put (s.regsBut_refl ks) (s.stored_regs ss n) hk, by simp [State.stored], by simp [State.stored]⟩

/-- A stored write sends its response, and leaves the log, memory and fuses alone. -/
theorem State.stored_frame (s : State) (ss : Nat) (n : NvCopy) :
    (s.stored ss n).sent = .reply ss {} :: s.sent ∧ (s.stored ss n).log = s.log ∧ (s.stored ss n).dram = s.dram ∧
      (s.stored ss n).fuses = s.fuses := by
  simp [State.stored, Reply.ok]

theorem State.storedActive_nv (s : State) (ss key : Nat) (v : Val) :
    (s.storedActive ss key v).nv =
      { s.nv.withEntry (regKey key (s.partOf ss key)) v with generation := s.nv.generation + 1, valid := true } := by
  simp [State.storedActive]

theorem State.storedActive_frame (s : State) (ss key : Nat) (v : Val) :
    (s.storedActive ss key v).sent = .reply ss {} :: s.sent ∧ (s.storedActive ss key v).log = s.log ∧
      (s.storedActive ss key v).dram = s.dram ∧ (s.storedActive ss key v).fuses = s.fuses := by
  simp [State.storedActive, Reply.ok]

/-- A number that is stored and made active changes L:6800.08 and its own register. -/
theorem State.storedActive_ledgerBut_num (s : State) (ss key n : Nat) :
    s.ledgerBut (s.storedActive ss key (.num n)) [regKey 0x6800_08 0, regKey key (s.partOf ss key)] :=
  ⟨State.regsBut_put (s.stored_ledgerBut ss (s.nv.withEntry (regKey key (s.partOf ss key)) (.num n)) (by simp)).1 rfl (by simp),
    by simp [State.storedActive, State.setActive], by simp [State.storedActive]⟩

/-- Bytes that are stored and made active change L:6800.08 and their own place. -/
theorem State.storedActive_ledger_bytes (s : State) (ss key : Nat) (b : Bytes) :
    s.regsBut (s.storedActive ss key (.bytes b)) [regKey 0x6800_08 0] ∧
      s.blobsBut (s.storedActive ss key (.bytes b)) [regKey key (s.partOf ss key)] ∧
      (s.storedActive ss key (.bytes b)).shadow = s.shadow := by
  have hblobs : (s.storedActive ss key (.bytes b)).blobs = Tbl.put s.blobs (regKey key (s.partOf ss key)) b := by
    simp [State.storedActive, State.setActive]
  exact ⟨(s.stored_ledgerBut ss (s.nv.withEntry (regKey key (s.partOf ss key)) (.bytes b)) (by simp)).1,
    State.blobsBut_put (s.blobsBut_refl _) hblobs (by simp), by simp [State.storedActive]⟩

theorem State.storedActive_reg (s : State) (ss key n : Nat) :
    (s.storedActive ss key (.num n)).reg key (s.partOf ss key) = n := by
  simp [State.storedActive, State.setActive]

theorem State.storedActive_blob (s : State) (ss key : Nat) (b : Bytes) :
    (s.storedActive ss key (.bytes b)).blob key (s.partOf ss key) = b := State.blob_setBlob_same _ _ _ _

/-- A failed write leaves the store in force, memory and fuses, and answers with LG-0x0F (R425). -/
theorem State.storeFailed_frame (s : State) (ss key : Nat) :
    (s.storeFailed ss key).nv = s.nv ∧ (s.storeFailed ss key).sent.head? = some (.reply ss { code := some (lg 0x0F) }) ∧
      (s.storeFailed ss key).reg 0x6800_08 0 = 3 ∧ (s.storeFailed ss key).dram = s.dram ∧
      (s.storeFailed ss key).fuses = s.fuses := by
  simp [State.storeFailed, Reply.no]

theorem State.storeFailed_newest (s : State) (ss key : Nat) : (s.storeFailed ss key).newest 0x113 (some (lg 0x0F)) :=
  State.newest_reply (State.record_newest ..) ss _

theorem State.storeFailed_ledgerBut (s : State) (ss key : Nat) : s.ledgerBut (s.storeFailed ss key) [regKey 0x6800_08 0] := by
  have hregs : (s.storeFailed ss key).regs = Tbl.put s.regs (regKey 0x6800_08 0) 3 := by simp [State.storeFailed]
  exact ⟨State.regsBut_put (s.regsBut_refl _) hregs (by simp), by simp [State.storeFailed], by simp [State.storeFailed]⟩

section
variable {s : State} {ss key : Nat} {v : Val} {e : StoreEnd}

theorem ne_powerLost_of_done (he : e = .done ∨ e = .retried) : e ≠ .powerLost := by
  rcases he with rfl | rfl <;> decide

theorem exec_nonVolatileWrite_atReset (hm : s.managed = true) (hs : s.keys.saving = none) (hw : s.mayWrite ss key v = true)
    (hk : inStore key = true) (he : e = .done ∨ e = .retried) (hr : atReset key = true) :
    exec (.nonVolatileWrite ss key v e) s = .next (s.stored ss (s.nv.withEntry (regKey key (s.partOf ss key)) v)) := by
  rw [exec_nonVolatileWrite hm, State.storeWrite_accepted hs hw (ne_powerLost_of_done he)
    (by rw [storeRow_of_inStore hk, storeOp_done he, if_pos hr]), State.nv_touched]
  rfl

theorem exec_nonVolatileWrite_active (hm : s.managed = true) (hs : s.keys.saving = none) (hw : s.mayWrite ss key v = true)
    (hk : inStore key = true) (he : e = .done ∨ e = .retried) (hr : atReset key = false) :
    exec (.nonVolatileWrite ss key v e) s = .next (s.storedActive ss key v) := by
  rw [exec_nonVolatileWrite hm, State.storeWrite_accepted hs hw (ne_powerLost_of_done he)
    (by rw [storeRow_of_inStore hk, storeOp_done he, if_neg (by simp [hr])]), State.nv_touched]
  rfl

theorem exec_nonVolatileWrite_failed (hm : s.managed = true) (hs : s.keys.saving = none) (hw : s.mayWrite ss key v = true)
    (hk : inStore key = true) : exec (.nonVolatileWrite ss key v .failed) s = .next (s.storeFailed ss key) := by
  rw [exec_nonVolatileWrite hm, State.storeWrite_refused hs hw (by decide) (by rw [storeRow_of_inStore hk, storeOp_failed])]
  rfl

/-- A write that a loss of power cuts ends in the power-on of a state that has the store in force, the fuses and what was sent. -/
theorem exec_nonVolatileWrite_powerLost (hm : s.managed = true) (hs : s.keys.saving = none) (hw : s.mayWrite ss key v = true)
    (hk : inStore key = true) :
    ∃ u : State, exec (.nonVolatileWrite ss key v .powerLost) s = .next u.powerOn ∧ u.keys.saving = none ∧ u.nv = s.nv ∧
      u.sent = s.sent ∧ u.fuses = s.fuses := by
  have hop := storeOp_powerLost key (s.touched ss) ss (s.partOf ss key) v
  rw [← storeRow_of_inStore hk] at hop
  refine ⟨_, by rw [exec_nonVolatileWrite hm, State.storeWrite_powerLost hs hw (writesStore_of_inStore hk) hop], ?_⟩
  cases atReset key <;> simp [hs]

theorem State.partOf_roleSelect (s : State) (ss : Nat) : s.partOf ss 0x1000_04 = 0 := by
  unfold State.partOf
  split <;> rfl

/-- The role select is stored for the next reset (R7). -/
theorem exec_roleSelectWrite_done {w : Nat} (hm : s.managed = true) (hs : s.keys.saving = none)
    (hw : s.mayWrite ss 0x1000_04 (.num w) = true) :
    exec (.roleSelectWrite ss w) s = .next (s.stored ss (s.nv.withEntry (regKey 0x1000_04 0) (.num w))) := by
  rw [exec_roleSelectWrite hm, ← exec_nonVolatileWrite hm,
    exec_nonVolatileWrite_atReset hm hs hw (by decide) (.inl rfl) (by decide), State.partOf_roleSelect]

theorem exec_saveConfiguration_done {w : Nat} (hm : s.managed = true) (hs : s.keys.saving = none)
    (hw : s.mayWrite ss 0x6800_06 (.num w) = true) (he : e = .done ∨ e = .retried) :
    exec (.saveConfiguration ss w e) s = .next (s.stored ss { s.nv with
      saved := some (s.regs.filter (fun p => savedKey p.1), s.blobs.filter (fun p => savedKey p.1)) }) := by
  rw [exec_saveConfiguration hm, State.storeWrite_accepted hs hw (ne_powerLost_of_done he)
    (saveConfigOp_done he (s.touched ss) ss (s.partOf ss 0x6800_06) (.num w)),
    State.nv_touched, State.touched_regs, State.touched_blobs]
  rfl

theorem exec_eraseSavedConfiguration_done {w : Nat} (hm : s.managed = true) (hs : s.keys.saving = none)
    (hw : s.mayWrite ss 0x6800_07 (.num w) = true) (he : e = .done ∨ e = .retried) :
    exec (.eraseSavedConfiguration ss w e) s = .next (s.stored ss { s.nv with saved := none }) := by
  rw [exec_eraseSavedConfiguration hm, State.storeWrite_accepted hs hw (ne_powerLost_of_done he)
    (eraseConfigOp_done he (s.touched ss) ss (s.partOf ss 0x6800_07) (.num w)),
    State.nv_touched]
  rfl

/-- A number of an entry of the store: stored with the next generation, active at once unless its entry is read at reset (R408,
R425). -/
theorem nonVolatileWrite_num_durable {n : Nat} (hm : s.managed = true) (hs : s.keys.saving = none)
    (hw : s.mayWrite ss key (.num n) = true) (hk : inStore key = true) (he : e = .done ∨ e = .retried) :
    ∃ t, exec (.nonVolatileWrite ss key (.num n) e) s = .next t ∧
      Tbl.find t.nv.regs (regKey key (s.partOf ss key)) = some n ∧ t.nv.generation = s.nv.generation + 1 ∧
      (atReset key = false → t.reg key (s.partOf ss key) = n) ∧
      (atReset key = true → s.partOf ss key < 65536 → t.reg key (s.partOf ss key) = s.reg key (s.partOf ss key)) ∧
      s.ledgerBut t [regKey 0x6800_08 0, regKey key (s.partOf ss key)] ∧ t.sent = .reply ss {} :: s.sent ∧ t.log = s.log ∧
      t.dram = s.dram ∧ t.fuses = s.fuses := by
  cases hr : atReset key
  · exact ⟨_, exec_nonVolatileWrite_active hm hs hw hk he hr, by rw [State.storedActive_nv]; exact Tbl.find_put_same _ _ _,
      by rw [State.storedActive_nv], fun _ => s.storedActive_reg ss key n, nofun, s.storedActive_ledgerBut_num ss key n,
      s.storedActive_frame ss key _⟩
  · exact ⟨_, exec_nonVolatileWrite_atReset hm hs hw hk he hr, by rw [State.stored_nv]; exact Tbl.find_put_same _ _ _,
      by rw [State.stored_nv], nofun, fun _ => s.stored_reg_other ss _ (ne_of_inStore hk).2.2,
      s.stored_ledgerBut ss _ (by simp), s.stored_frame ss _⟩

/-- Bytes of an entry of the store, likewise. -/
theorem nonVolatileWrite_bytes_durable {b : Bytes} (hm : s.managed = true) (hs : s.keys.saving = none)
    (hw : s.mayWrite ss key (.bytes b) = true) (hk : inStore key = true) (he : e = .done ∨ e = .retried) :
    ∃ t, exec (.nonVolatileWrite ss key (.bytes b) e) s = .next t ∧
      Tbl.find t.nv.blobs (regKey key (s.partOf ss key)) = some b ∧ t.nv.generation = s.nv.generation + 1 ∧
      (atReset key = false → t.blob key (s.partOf ss key) = b) ∧ (atReset key = true → t.blobs = s.blobs) ∧
      s.regsBut t [regKey 0x6800_08 0] ∧ s.blobsBut t [regKey key (s.partOf ss key)] ∧ t.shadow = s.shadow ∧
      t.sent = .reply ss {} :: s.sent ∧ t.log = s.log ∧ t.dram = s.dram ∧ t.fuses = s.fuses := by
  cases hr : atReset key
  · obtain ⟨hregs, hblobs, hshadow⟩ := s.storedActive_ledger_bytes ss key b
    exact ⟨_, exec_nonVolatileWrite_active hm hs hw hk he hr, by rw [State.storedActive_nv]; exact Tbl.find_put_same _ _ _,
      by rw [State.storedActive_nv], fun _ => s.storedActive_blob ss key b, nofun, hregs, hblobs, hshadow,
      s.storedActive_frame ss key _⟩
  · obtain ⟨hregs, hblobs, hshadow⟩ :=
      s.stored_ledgerBut ss (s.nv.withEntry (regKey key (s.partOf ss key)) (.bytes b)) (List.mem_singleton_self _)
    exact ⟨_, exec_nonVolatileWrite_atReset hm hs hw hk he hr, by rw [State.stored_nv]; exact Tbl.find_put_same _ _ _,
      by rw [State.stored_nv], nofun, fun _ => hblobs, hregs, fun k _ => by rw [hblobs], hshadow, s.stored_frame ss _⟩

/-- A failed write of an entry of the store is refused with LG-0x0F, recorded, and leaves the copy in force (R425). -/
theorem nonVolatileWrite_failed_refused (hm : s.managed = true) (hs : s.keys.saving = none)
    (hw : s.mayWrite ss key v = true) (hk : inStore key = true) :
    ∃ t, exec (.nonVolatileWrite ss key v .failed) s = .next t ∧
      t.nv = s.nv ∧ t.sent.head? = some (.reply ss { code := some (lg 0x0F) }) ∧
      t.newest 0x113 (some (lg 0x0F)) ∧ t.reg 0x6800_08 = 3 ∧ s.ledgerBut t [regKey 0x6800_08 0] ∧ t.dram = s.dram ∧
      t.fuses = s.fuses := by
  obtain ⟨hnv, hsent, hreg, hdram, hfuses⟩ := s.storeFailed_frame ss key
  exact ⟨_, exec_nonVolatileWrite_failed hm hs hw hk, hnv, hsent, s.storeFailed_newest ss key, hreg,
    s.storeFailed_ledgerBut ss key, hdram, hfuses⟩

/-- A write of an entry of the store that a loss of power cuts leaves the copy in force and gets no response (R425). -/
theorem nonVolatileWrite_powerLost_undone (hm : s.managed = true) (hs : s.keys.saving = none)
    (hw : s.mayWrite ss key v = true) (hk : inStore key = true) :
    ∃ t, exec (.nonVolatileWrite ss key v .powerLost) s = .next t ∧
      t.nv = s.nv ∧ t.reg 0x1010_07 = 1 ∧ t.sent = s.sent ∧ t.fuses = s.fuses ∧ t.power.mgmt = false := by
  obtain ⟨u, hexec, hsaving, hnv, hsent, hfuses⟩ := exec_nonVolatileWrite_powerLost hm hs hw hk
  obtain ⟨hnv', hcause, hsent', hfuses', hmgmt⟩ := State.powerOn_frame hsaving
  exact ⟨_, hexec, hnv'.trans hnv, hcause, hsent'.trans hsent, hfuses'.trans hfuses, hmgmt⟩

end

/-- Settles O3: each command's outcome is first written as one state (`State.stored`, `State.storedActive`, `State.storeFailed`, a
power-on, or a held write), and what the statement says of it is read off that state. -/
theorem storedValuesAreDurable : Obligations.StoredValuesAreDurable := by
  refine ⟨fun s ss v hm hs hw => ?role, fun s ss v e hm hs hw he => ?save, fun s ss v e hm hs hw he => ?erase,
    fun s ss key n e hm hs hw hk he => nonVolatileWrite_num_durable hm hs hw hk he,
    fun s ss key b e hm hs hw hk he => nonVolatileWrite_bytes_durable hm hs hw hk he,
    fun s ss key v hm hs hw hk => nonVolatileWrite_failed_refused hm hs hw hk,
    fun s ss key v hm hs hw hk => nonVolatileWrite_powerLost_undone hm hs hw hk,
    fun s ss key v e bs hm hs hk => ?held, fun s ss v e bs hm hs => ⟨?heldRole, ?heldSave, ?heldErase⟩⟩
  case role =>
    exact ⟨_, exec_roleSelectWrite_done hm hs hw, by rw [State.stored_nv]; exact Tbl.find_put_same _ _ _,
      by rw [State.stored_nv], s.stored_reg_other ss _ (by decide) (by decide), s.stored_ledgerBut ss _ (by simp),
      s.stored_frame ss _⟩
  case save =>
    exact ⟨_, exec_saveConfiguration_done hm hs hw he, by rw [State.stored_nv], by rw [State.stored_nv],
      s.stored_reg_status ss _, s.stored_ledgerBut ss _ (by simp), s.stored_frame ss _⟩
  case erase =>
    exact ⟨_, exec_eraseSavedConfiguration_done hm hs hw he, by rw [State.stored_nv], by rw [State.stored_nv],
      s.stored_reg_status ss _, s.stored_ledgerBut ss _ (by simp), s.stored_frame ss _⟩
  case held => rw [exec_nonVolatileWrite hm, State.storeWrite_busy hs hk]; rfl
  case heldRole => rw [exec_roleSelectWrite hm, State.storeWrite_busy hs (by decide)]; rfl
  case heldSave => rw [exec_saveConfiguration hm, State.storeWrite_busy hs (by decide)]; rfl
  case heldErase => rw [exec_eraseSavedConfiguration hm, State.storeWrite_busy hs (by decide)]; rfl

end Sys2Proof.Machine
end

section
/-! PROOFS. Clocks and resets (R28, R393-R395, R403, R450): what the power domains' settling leaves alone, the registers that a
reset keeps, and the state that each reset ends in. -/

namespace Sys2Proof

/-! ### Tables in rising order -/

/-- A place that a test of keys does not pick is not seen by what the test filters. -/
theorem Tbl.filter_put_of_not {α : Type} {P : Nat → Bool} {k : Nat} (hk : P k = false) (t : Tbl α) (v : α) :
    (Tbl.put t k v).filter (fun p => P p.1) = t.filter (fun p => P p.1) := by
  induction t with
  | nil => simp [Tbl.put, hk]
  | cons p t ih =>
    obtain ⟨j, w⟩ := p
    unfold Tbl.put
    split
    · simp [hk]
    · split
      · next h => subst h; simp [hk]
      · simp only [List.filter_cons, ih]

/-- A value put between lower and higher keys stands between them. -/
theorem Tbl.put_between {α : Type} {lower higher : Tbl α} {k : Nat} (hl : ∀ p ∈ lower, p.1 < k) (hh : ∀ p ∈ higher, k < p.1)
    (v : α) : Tbl.put (lower ++ higher) k v = lower ++ (k, v) :: higher := by
  induction lower with
  | nil =>
    cases higher with
    | nil => rfl
    | cons p higher => exact if_pos (hh p List.mem_cons_self)
  | cons p lower ih =>
    obtain ⟨hp, hl⟩ := List.forall_mem_cons.mp hl
    rw [List.cons_append, Tbl.put, if_neg (by omega), if_neg (by omega), ih hl, List.cons_append]

/-- A table in rising order, put value by value between lower and higher keys, stands between them. -/
theorem Tbl.foldl_put_between {α : Type} {mid lower higher : Tbl α} (hm : mid.Pairwise fun a b => a.1 < b.1)
    (hl : ∀ p ∈ lower, ∀ q ∈ mid, p.1 < q.1) (hh : ∀ q ∈ mid, ∀ p ∈ higher, q.1 < p.1) :
    mid.foldl (fun t p => Tbl.put t p.1 p.2) (lower ++ higher) = lower ++ mid ++ higher := by
  induction mid generalizing lower with
  | nil => simp
  | cons q mid ih =>
    obtain ⟨hq, hm⟩ := List.pairwise_cons.mp hm
    obtain ⟨hqh, hh⟩ := List.forall_mem_cons.mp hh
    have hlow : ∀ p ∈ lower ++ [q], ∀ r ∈ mid, p.1 < r.1 := by
      intro p hp r hr
      rcases List.mem_append.mp hp with hp | hp
      · exact hl p hp r (List.mem_cons_of_mem _ hr)
      · exact List.mem_singleton.mp hp ▸ hq r hr
    rw [List.foldl_cons, Tbl.put_between (fun p hp => hl p hp q List.mem_cons_self) hqh, List.append_cons, ih hm hlow hh]
    simp

/-- Values put elsewhere are not found. -/
theorem Tbl.find_foldl_put_ne {α : Type} {xs : Tbl α} {k : Nat} (h : ∀ p ∈ xs, k ≠ p.1) (t : Tbl α) :
    Tbl.find (xs.foldl (fun t p => Tbl.put t p.1 p.2) t) k = Tbl.find t k := by
  induction xs generalizing t with
  | nil => rfl
  | cons p xs ih =>
    obtain ⟨hp, h⟩ := List.forall_mem_cons.mp h
    rw [List.foldl_cons, ih h, Tbl.find_put_ne _ _ hp]

namespace Machine

/-- A bit cleared reads 0. -/
theorem bitAt_withBit_false (n i : Nat) : bitAt (withBit n i false) i = false := by
  unfold bitAt withBit
  split
  · assumption
  · next h =>
    have hset : n.testBit i = true := by simpa using h
    have hle : 2 ^ i ≤ n := Nat.ge_two_pow_of_testBit hset
    have hsub := Nat.testBit_two_pow_add_eq (n - 2 ^ i) i
    rw [Nat.add_sub_cancel' hle, hset] at hsub
    simpa using hsub.symm

/-! ### Which entries a register belongs to -/

/-- The place of a part lies in its entry. -/
theorem regKey_entry (key : Nat) {inst : Nat} (hi : inst < 65536) : regKey key inst / 65536 = key := by
  unfold regKey
  omega

theorem State.entriesBut_refl (s : State) (es : List Nat) : s.entriesBut s es := fun _ _ => rfl

theorem State.entriesBut.trans {s t u : State} {es : List Nat} (h : s.entriesBut t es) (h' : t.entriesBut u es) :
    s.entriesBut u es := fun k hk => (h' k hk).trans (h k hk)

theorem State.entriesBut.mono {s t : State} {es es' : List Nat} (h : s.entriesBut t es) (hes : es ⊆ es') : s.entriesBut t es' :=
  fun k hk => h k fun hmem => hk (hes hmem)

theorem State.entriesBut.setReg {s t : State} {es : List Nat} (h : s.entriesBut t es) {key inst : Nat} (hk : key ∈ es)
    (hi : inst < 65536) (v : Nat) : s.entriesBut (t.setReg key inst v) es := by
  intro k hkey
  have hne : k ≠ regKey key inst := by
    rintro rfl
    exact hkey (by rwa [regKey_entry key hi])
  rw [State.setReg_regs, Tbl.find_put_ne _ _ hne, h k hkey]

/-- An entry that is none of those changed reads as before. -/
theorem State.entriesBut.reg {s t : State} {es : List Nat} (h : s.entriesBut t es) (hsrc : t.sources = s.sources)
    {key inst : Nat} (hk : key ∉ es) (hi : inst < 65536) : t.reg key inst = s.reg key inst := by
  unfold State.reg State.frozenDefault
  rw [h _ (by rwa [regKey_entry key hi]), hsrc]

theorem State.keyStates_setReg (s : State) {key inst : Nat} (hk : key ∉ [0x5C08_03, 0x5C10_0C, 0x5C10_0E]) (hi : inst < 65536)
    (v : Nat) : (s.setReg key inst v).keyStates = s.keyStates := by
  refine Tbl.filter_put_of_not (P := fun k => [0x5C08_03, 0x5C10_0C, 0x5C10_0E].contains (k / 65536)) ?_ s.regs v
  rw [regKey_entry key hi, List.contains_eq_mem, decide_eq_false hk]

/-! ### The power domains settle (R388, R389) -/

/-- A state in which power domains have been requested, or their hold times started, and nothing else: the key states stay, and no
domain is on that was not. -/
structure State.Settles (s t : State) : Prop where
  frame : ∃ regs unneeded waitingOn,
    t = { s with regs := regs, power := { s.power with unneeded := unneeded, waitingOn := waitingOn } }
  entries : s.entriesBut t [0x6400_02, 0x6400_05]
  keyStates : t.keyStates = s.keyStates
  on : ∀ d < 65536, t.reg 0x6400_02 d = 2 → s.reg 0x6400_02 d = 2

section
variable {s t u : State}

theorem State.Settles.trans (h : s.Settles t) (h' : t.Settles u) : s.Settles u := by
  obtain ⟨⟨regs, a, b, rfl⟩, hentries, hkeys, hon⟩ := h
  obtain ⟨⟨regs', a', b', rfl⟩, hentries', hkeys', hon'⟩ := h'
  exact ⟨⟨regs', a', b', rfl⟩, hentries.trans hentries', hkeys'.trans hkeys, fun d hd h => hon d hd (hon' d hd h)⟩

/-- Hold times and requests that wait are no register. -/
theorem State.settles_power (s : State) (unneeded : Tbl Nat) (waitingOn : List Nat) :
    s.Settles { s with power := { s.power with unneeded := unneeded, waitingOn := waitingOn } } :=
  ⟨⟨s.regs, _, _, rfl⟩, s.entriesBut_refl _, rfl, fun _ _ h => h⟩

theorem State.Settles.refl (s : State) : s.Settles s := s.settles_power s.power.unneeded s.power.waitingOn

/-- A domain is requested, and the request counted (R389). -/
theorem State.settles_request (s : State) {d : Nat} (hd : d < 65536) :
    s.Settles ((s.setReg 0x6400_02 d 1).bump 0x6400_05 d) where
  frame := ⟨_, _, _, rfl⟩
  entries := ((s.entriesBut_refl _).setReg (by decide) hd _).setReg (by decide) hd _
  keyStates := by
    rw [State.bump, State.bumpBy, State.keyStates_setReg _ (by decide) hd, State.keyStates_setReg _ (by decide) hd]
  on := by
    intro e he hon
    rw [State.bump, State.bumpBy, State.reg_setReg_key _ _ (by decide) hd he] at hon
    by_cases hed : e = d
    · subst hed
      rw [State.reg_setReg_same] at hon
      cases hon
    · rwa [State.reg_setReg_ne _ _ (fun h => hed ((regKey_inj he hd).mp h).2)] at hon

theorem State.settleDomain_settles (s w : State) {d : Nat} (hd : d < 65536) : s.Settles (s.settleDomain w d) := by
  unfold State.settleDomain
  dsimp only
  split
  · have hneeded := s.settles_power (Tbl.erase s.power.unneeded d) s.power.waitingOn
    split
    · exact hneeded.trans (State.settles_request _ hd)
    · split
      · exact s.settles_power _ _
      · exact hneeded
  · split
    · exact s.settles_power _ _
    · exact s.settles_power s.power.unneeded _

theorem State.settlePower_settles (s : State) : s.Settles s.settlePower := by
  have hfold : ∀ ds : List Nat, (∀ d ∈ ds, d < 65536) → ∀ s : State,
      s.Settles (ds.foldl (fun t d => t.settleDomain t.withWaiting d) s) := by
    intro ds
    induction ds with
    | nil => exact fun _ s => .refl s
    | cons d ds ih =>
      intro hds s
      obtain ⟨hd, hds⟩ := List.forall_mem_cons.mp hds
      exact (s.settleDomain_settles s.withWaiting hd).trans (ih hds _)
  exact hfold _ (by decide) s

/-- What lies outside the registers and the domains' hold times and requests stays. -/
theorem State.Settles.kept (h : s.Settles t) :
    t.blobs = s.blobs ∧ t.shadow = s.shadow ∧ t.sources = s.sources ∧ t.sent = s.sent ∧ t.cells = s.cells ∧ t.still = s.still ∧
      t.power.crystal = s.power.crystal ∧ t.power.refclk = s.power.refclk := by
  obtain ⟨regs, a, b, rfl⟩ := h.frame
  exact ⟨rfl, rfl, rfl, rfl, rfl, rfl, rfl, rfl⟩

/-- A record that is the newest, or was lost, stays so. -/
theorem State.Settles.newest (h : s.Settles t) {event : Nat} {code : Option Code} (hn : s.newest event code) :
    t.newest event code := by
  have hon := h.on 3 (by decide)
  obtain ⟨regs, a, b, rfl⟩ := h.frame
  rcases hn with hfull | hoff | hrec
  · exact .inl hfull
  · exact .inr (.inl fun h => hoff (hon h))
  · exact .inr (.inr hrec)

end

/-! ### What a record sends (R441) -/

theorem State.raiseLog_sendsLog (s : State) : s.sendsLog s.raiseLog := by
  unfold State.raiseLog
  split
  · exact .inr rfl
  · split
    · exact .inr rfl
    · exact .inl rfl

theorem State.record_sendsLog (s : State) (event : Nat) (code : Option Code) (inst : Nat) (detail : Int) (fw : Bool) :
    s.sendsLog (s.record event code inst detail fw) := by
  unfold State.record State.recordAt
  dsimp only
  split
  · exact .inl rfl
  · split
    · exact .inl rfl
    · exact State.raiseLog_sendsLog _

/-! ### What a reset keeps (R373, R393, R395) -/

/-- Registers put back into a state change its registers alone. -/
theorem State.foldl_putRegs (s : State) (xs : Tbl Nat) :
    xs.foldl (fun (t : State) p => { t with regs := Tbl.put t.regs p.1 p.2 }) s =
      { s with regs := xs.foldl (fun t p => Tbl.put t p.1 p.2) s.regs } := by
  induction xs generalizing s with
  | nil => rfl
  | cons p xs ih => exact ih _

/-- The key states are registers of three entries. -/
theorem State.entry_of_mem_keyStates {s : State} {p : Nat × Nat} (h : p ∈ s.keyStates) :
    p.1 / 65536 ∈ [0x5C08_03, 0x5C10_0C, 0x5C10_0E] := by
  have hp := (List.mem_filter.mp h).2
  rwa [List.contains_eq_mem, decide_eq_true_eq] at hp

/-- The registers after reset with the key states of a state put back (R373). -/
def State.regsWithKeyStates (s : State) : Tbl Nat := s.keyStates.foldl (fun t p => Tbl.put t p.1 p.2) State.reset.regs

/-- Putting the key states back changes no register of another entry. -/
theorem State.find_regsWithKeyStates (s : State) {k : Nat} (hk : k / 65536 ∉ [0x5C08_03, 0x5C10_0C, 0x5C10_0E]) :
    Tbl.find s.regsWithKeyStates k = Tbl.find State.reset.regs k :=
  Tbl.find_foldl_put_ne (fun p hp h => hk (by rw [h]; exact State.entry_of_mem_keyStates hp)) _

/-- The key states put back are the key states, in their order. -/
theorem State.keyStates_regsWithKeyStates (s b : State) (hb : b.regs = s.regsWithKeyStates)
    (hs : s.regs.Pairwise fun a b => a.1 < b.1) : b.keyStates = s.keyStates := by
  have hhigh : ∀ q ∈ s.keyStates, ∀ p ∈ State.reset.regs, q.1 < p.1 := by
    intro q hq p hp
    have hreset : ∀ p ∈ State.reset.regs, 0x6400_02 * 65536 ≤ p.1 := by decide
    have hentry := State.entry_of_mem_keyStates hq
    have hp' := hreset p hp
    simp only [List.mem_cons, List.not_mem_nil, or_false] at hentry
    omega
  have hregs : s.regsWithKeyStates = s.keyStates ++ State.reset.regs :=
    Tbl.foldl_put_between (lower := []) (hs.filter _) (by simp) hhigh
  have hnone : State.reset.keyStates = [] := by decide
  calc b.keyStates = (s.keyStates ++ State.reset.regs).filter
        fun p => [0x5C08_03, 0x5C10_0C, 0x5C10_0E].contains (p.1 / 65536) := by rw [State.keyStates, hb, hregs]
    _ = s.keyStates ++ State.reset.keyStates := by
        rw [List.filter_append]
        exact congrArg (· ++ _) (List.filter_eq_self.mpr fun p hp => (List.mem_filter.mp hp).2)
    _ = s.keyStates := by rw [hnone, List.append_nil]

/-- The entries in which a reset may leave another value than the one after a power-on. -/
def resetEntries : List Nat :=
  [0x1010_07, 0x5800_08, 0x5C08_03, 0x5C10_0C, 0x5C10_0E, 0x6400_02, 0x6400_05, 0x6400_09]

/-! Last of all a reset writes its cause and whether the crystal runs. -/

theorem State.causeAndClock_reg (s : State) (cause clock : Nat) :
    ((s.setReg 0x1010_07 0 cause).setReg 0x6400_09 0 clock).reg 0x1010_07 0 = cause := by
  rw [State.reg_setReg_key _ _ (by decide) (by decide) (by decide), State.reg_setReg_same]

theorem State.causeAndClock_reg_other (s : State) (cause clock : Nat) {key : Nat} (hc : key ≠ 0x1010_07) (hk : key ≠ 0x6400_09) :
    ((s.setReg 0x1010_07 0 cause).setReg 0x6400_09 0 clock).reg key 0 = s.reg key 0 := by
  rw [State.reg_setReg_key _ _ hk (by decide) (by decide), State.reg_setReg_key _ _ hc (by decide) (by decide)]

theorem State.causeAndClock_keyStates (s : State) (cause clock : Nat) :
    ((s.setReg 0x1010_07 0 cause).setReg 0x6400_09 0 clock).keyStates = s.keyStates := by
  rw [State.keyStates_setReg _ (by decide) (by decide), State.keyStates_setReg _ (by decide) (by decide)]

theorem State.entriesBut.causeAndClock {s t : State} (h : s.entriesBut t resetEntries) (cause clock : Nat) :
    s.entriesBut ((t.setReg 0x1010_07 0 cause).setReg 0x6400_09 0 clock) resetEntries :=
  (h.setReg (by decide) (by decide) cause).setReg (by decide) (by decide) clock

/-- What a reset leaves stays while the power domains settle. -/
theorem State.wasReset.settles {s b t : State} {cause : Nat} {retained : Bool} (h : s.wasReset b cause retained)
    (hs : b.Settles t) : s.wasReset t cause retained := by
  obtain ⟨hframe, hentries, hkeys, -⟩ := hs
  obtain ⟨regs, unneeded, waitingOn, rfl⟩ := hframe
  obtain ⟨hcause, hfuses, hnv, hcopies, hpins, hflash, hboot, hheld, hpending, hregs, hret, hsorted, hlost, hrest⟩ := h
  have hreg := fun (key : Nat) (hk : key ∉ [0x6400_02, 0x6400_05]) => hentries.reg rfl hk (by decide : 0 < 65536)
  refine ⟨(hreg _ (by decide)).trans hcause, hfuses, hnv, hcopies, hpins, hflash, hboot, hheld, hpending,
    hregs.trans (hentries.mono (by decide)), fun hr => ?_, fun hr hp => hkeys.trans (hsorted hr hp), fun hr => ?_, hrest⟩
  · obtain ⟨hk, hmode, hpair⟩ := hret hr
    exact ⟨hk, (hreg _ (by decide)).trans hmode, hpair⟩
  · obtain ⟨hnone, hk, hpair, hhand, hmode⟩ := hlost hr
    exact ⟨hkeys.trans hnone, hk, hpair, hhand, (hreg _ (by decide)).trans hmode⟩

/-- The paths and their sessions take no part in what a reset keeps. -/
theorem State.wasReset.of_acc {s t : State} {a : Access'} {cause : Nat} {retained : Bool}
    (h : State.wasReset { s with acc := a } t cause retained) : s.wasReset t cause retained := h

/-- A response sent leaves what a reset left. -/
theorem State.wasReset.reply {s t : State} {cause : Nat} {retained : Bool} (h : s.wasReset t cause retained) (ss : Nat) (r : Reply) :
    s.wasReset (t.reply ss r) cause retained := h

/-- A reset settles a state that is already reset. -/
theorem State.afterReset_unsettled (s : State) (cause : Nat) (retained : Bool) :
    ∃ b : State, s.afterReset cause retained = b.settlePower ∧ s.wasReset b cause retained ∧ b.sent = s.sent ∧
      b.power.refclk = s.power.refclk := by
  cases retained
  case false =>
    refine ⟨_, rfl, ⟨State.causeAndClock_reg .., rfl, State.nv_congr rfl rfl, fun _ => ⟨rfl, rfl⟩, rfl, rfl, rfl, rfl, rfl,
      (State.entriesBut_refl _ _).causeAndClock _ _, nofun, nofun, fun _ => ⟨?_, rfl, rfl, rfl, ?_⟩, rfl, rfl, rfl, rfl, rfl, rfl,
      rfl, rfl, rfl, rfl, rfl⟩, rfl, rfl⟩
    · exact State.causeAndClock_keyStates ..
    · exact State.causeAndClock_reg_other _ _ _ (by decide) (by decide)
  case true =>
    simp only [State.afterReset, if_true, State.foldl_putRegs]
    refine ⟨_, rfl, ⟨State.causeAndClock_reg .., rfl, State.nv_congr rfl rfl, fun _ => ⟨rfl, rfl⟩, rfl, rfl, rfl, rfl, rfl,
      State.entriesBut.causeAndClock (.setReg ?_ (by decide) (by decide) _) _ _,
      fun _ => ⟨rfl, ?_, rfl, rfl, rfl, rfl, rfl, rfl⟩, fun _ hsorted => ?_, nofun, rfl, rfl, rfl, rfl, rfl, rfl, rfl, rfl,
      rfl, rfl, rfl⟩, rfl, rfl⟩
    · have hsub : [0x5C08_03, 0x5C10_0C, 0x5C10_0E] ⊆ resetEntries := by decide
      exact fun k hk => s.find_regsWithKeyStates fun h => hk (hsub h)
    · rw [State.causeAndClock_reg_other _ _ _ (by decide) (by decide), State.reg_setReg_same]
    · rw [State.causeAndClock_keyStates, State.keyStates_setReg _ (by decide) (by decide)]
      exact s.keyStates_regsWithKeyStates _ rfl hsorted

/-- What a reset leaves (R393, R395). -/
theorem State.afterReset_wasReset (s : State) (cause : Nat) (retained : Bool) :
    s.wasReset (s.afterReset cause retained) cause retained ∧ (s.afterReset cause retained).sent = s.sent ∧
      (s.afterReset cause retained).power.refclk = s.power.refclk := by
  obtain ⟨b, heq, hreset, hsent, hrefclk⟩ := s.afterReset_unsettled cause retained
  have hs := b.settlePower_settles
  obtain ⟨-, -, -, hsent', -, -, -, hrefclk'⟩ := hs.kept
  rw [heq]
  exact ⟨hreset.settles hs, hsent'.trans hsent, hrefclk'.trans hrefclk⟩

/-- A write of the copy of the store that is not in force changes the two copies alone. -/
theorem State.setSpareNv_eq (s : State) (n : NvCopy) : ∃ a b, s.setSpareNv n = { s with nvA := a, nvB := b } := by
  unfold State.setSpareNv
  split
  · exact ⟨s.nvA, n, rfl⟩
  · exact ⟨n, s.nvB, rfl⟩

/-- What a power-on leaves, whether or not a write of the store was in progress (R395, R425). -/
theorem State.powerOn_wasReset (s : State) : s.wasReset s.powerOn 1 false ∧ s.powerOn.sent = s.sent := by
  cases hsaving : s.keys.saving with
  | none =>
    obtain ⟨hreset, hsent, -⟩ := s.afterReset_wasReset 1 false
    simp only [State.powerOn, hsaving]
    exact ⟨hreset, hsent⟩
  | some bs =>
    have hnv := s.nv_setSpareNv_invalid s.spareNv
    obtain ⟨a, b, hspoiled⟩ := s.setSpareNv_eq { s.spareNv with valid := false }
    rw [hspoiled] at hnv
    simp only [State.powerOn, hsaving, Option.isSome_some, if_true, hspoiled]
    obtain ⟨⟨hcause, hfuses, hnv', -, hrest⟩, hsent, -⟩ := State.afterReset_wasReset { s with nvA := a, nvB := b } 1 false
    exact ⟨⟨hcause, hfuses, hnv'.trans hnv, by simp [hsaving], hrest⟩, hsent⟩

/-! ### The commands of clocks and resets -/

/-- The crystal runs, and L:6400.09 shows it (R393). -/
def State.crystalRuns (s : State) : State := { s with power := { s.power with crystal := true } }.setReg 0x6400_09 0 1

/-- The management controller has stopped, and is not ready (R28). -/
def State.controllerStopped (s : State) : State := { s with power := { s.power with mgmt := false } }.clearReady 0

section
variable {s : State}

theorem exec_crystalStable (h : s.power.crystal = false) :
    exec .crystalStable s = .next (s.crystalRuns.record 0x103 (some (pw 0x0C)) 0 0).settlePower := by
  simp [exec, execCrystalStable, h, State.crystalRuns]

theorem exec_crystalTimeout (h : s.power.crystal = false) (hl : s.power.crystalLate = false) (hn : 2000000000 ≤ s.now) :
    exec .crystalTimeout s = .next ({ s with power := { s.power with crystalLate := true } }.record 0x103 (some (pw 0x02)) 0 0) := by
  have hnow : ¬ s.now < 2 * second := Nat.not_lt.mpr hn
  simp [exec, execCrystalTimeout, h, hl, hnow]

theorem exec_refclkReturn {u : State} (h : s.power.refclk = false) (hu : u = { s with power := { s.power with refclk := true } }) :
    exec .refclkReturn s = .next (u.afterReset (if s.power.held then s.reg 0x1010_07 else 5) true) := by
  simp [exec, execRefclkReturn, h, hu, State.deviceReset]

theorem exec_sysRstN_filtered {n : Nat} (h : n < 1000) : exec (.sysRstN n) s = .next s := if_pos h

theorem exec_sysRstN_reset {n : Nat} (h : 10000 ≤ n) : exec (.sysRstN n) s = .next (s.afterReset 2 true) := by
  simp only [exec, execSysRstN, if_neg (by omega : ¬ n < 1000), if_neg (by omega : ¬ n < 10000), State.deviceReset]

theorem exec_deviceReset (hm : s.managed = true) {ss v : Nat} (hw : s.mayWrite ss 0x1010_08 (.num v) = true) :
    exec (.deviceReset ss v) s = .next (((s.touched ss).afterReset 4 true).reply ss .ok) :=
  ledgerWrite_next hm hw rfl rfl

/-- With the controller stopped and no swap that may still succeed, the watchdog resets the device (R395, R403). -/
theorem exec_hearthWatchdogExpiry_reset (hlive : s.live = true) (hb : s.power.booted = true) (hm : s.power.mgmt = false)
    (hswap : ∀ h, s.swapNow = some h → h.lost = true) : exec .hearthWatchdogExpiry s = .next (s.afterReset 3 true) := by
  cases hnow : s.swapNow with
  | none => simp [exec, execHearthWatchdogExpiry, hlive, hb, hm, hnow, State.deviceReset]
  | some h => simp [exec, execHearthWatchdogExpiry, hlive, hb, hm, hnow, hswap h hnow, State.deviceReset]

/-- A swap that may still succeed holds the watchdog off (R403). -/
theorem exec_hearthWatchdogExpiry_swapping {h : HandOff} (hnow : s.swapNow = some h) (hl : h.lost = false) :
    exec .hearthWatchdogExpiry s = .next s := by
  simp [exec, execHearthWatchdogExpiry, hnow, hl]

theorem exec_managementControllerStop (hm : s.managed = true) :
    exec .managementControllerStop s = .next s.controllerStopped :=
  whenManaged_next hm State.controllerStopped

theorem State.live_of_managed (hm : s.managed = true) : s.live = true := by
  simp only [State.managed, Bool.and_eq_true] at hm
  obtain ⟨⟨hlive, -⟩, -⟩ := hm
  exact hlive

/-- The crystal's start shows in its register, is recorded, and lets the domains that waited for it settle (R393). -/
theorem crystalStable_recorded (h : s.power.crystal = false) :
    ∃ t, exec .crystalStable s = .next t ∧ t.power.crystal = true ∧ t.reg 0x6400_09 0 = 1 ∧ t.newest 0x103 (some (pw 0x0C)) ∧
      s.entriesBut t [0x6400_02, 0x6400_05, 0x6400_09] ∧ t.blobs = s.blobs ∧ t.shadow = s.shadow ∧ s.sendsLog t ∧
      t.cells = s.cells ∧ t.still = s.still := by
  have hruns : s.entriesBut s.crystalRuns [0x6400_02, 0x6400_05, 0x6400_09] :=
    State.entriesBut.setReg (s.entriesBut_refl _) (by decide) (by decide) 1
  have hsettles := (s.crystalRuns.record 0x103 (some (pw 0x0C)) 0 0).settlePower_settles
  obtain ⟨hblobs, hshadow, hsources, hsent, hcells, hstill, hcrystal, -⟩ := hsettles.kept
  refine ⟨_, exec_crystalStable h, ?_, ?_, hsettles.newest (State.record_newest ..), ?_, ?_, ?_, ?_, ?_, ?_⟩
  · rw [hcrystal, State.record_power]
    rfl
  · rw [hsettles.entries.reg hsources (by decide) (by decide), State.record_reg]
    exact State.reg_setReg_same ..
  · refine State.entriesBut.trans ?_ (hsettles.entries.mono (by decide))
    rw [State.entriesBut, State.record_regs]
    exact hruns
  · rw [hblobs, State.record_blobs]
    rfl
  · rw [hshadow, State.record_shadow]
    rfl
  · rw [State.sendsLog, hsent]
    exact s.crystalRuns.record_sendsLog ..
  · rw [hcells]
    exact State.record_cells_of rfl ..
  · rw [hstill]
    exact State.record_still_of rfl ..

/-- Two seconds without the crystal are recorded, once, and nothing else changes (R393). -/
theorem crystalTimeout_recorded (h : s.power.crystal = false) (hl : s.power.crystalLate = false) (hn : 2000000000 ≤ s.now) :
    ∃ t, exec .crystalTimeout s = .next t ∧ t.power.crystalLate = true ∧ t.newest 0x103 (some (pw 0x02)) ∧ t.regs = s.regs ∧
      t.blobs = s.blobs ∧ t.shadow = s.shadow ∧ s.sendsLog t ∧ t.cells = s.cells ∧ t.still = s.still :=
  ⟨_, exec_crystalTimeout h hl hn, by rw [State.record_power], State.record_newest .., by rw [State.record_regs],
    by rw [State.record_blobs], by rw [State.record_shadow], State.record_sendsLog .., State.record_cells_of rfl ..,
    State.record_still_of rfl ..⟩

/-- A return of REFCLK resets the device with cause 5, or lets go a reset that it held with that reset's own (R394). -/
theorem refclkReturn_resets {u : State} {cause : Nat} (h : s.power.refclk = false)
    (hu : u = { s with power := { s.power with refclk := true } }) (hc : (if s.power.held then s.reg 0x1010_07 else 5) = cause) :
    ∃ t, exec .refclkReturn s = .next t ∧ u.wasReset t cause true ∧ t.power.refclk = true ∧ t.sent = s.sent := by
  obtain ⟨hreset, hsent, hrefclk⟩ := u.afterReset_wasReset cause true
  have hu' : u.sent = s.sent ∧ u.power.refclk = true := by
    subst hu
    exact ⟨rfl, rfl⟩
  obtain ⟨husent, hurefclk⟩ := hu'
  exact ⟨_, by rw [exec_refclkReturn h hu, hc], hreset, hrefclk.trans hurefclk, hsent.trans husent⟩

/-- The reset that a session asks for sends its response (R395). -/
theorem deviceReset_resets (hm : s.managed = true) {ss v : Nat} (hw : s.mayWrite ss 0x1010_08 (.num v) = true) :
    ∃ t, exec (.deviceReset ss v) s = .next t ∧ s.wasReset t 4 true ∧ t.sent = .reply ss {} :: s.sent := by
  obtain ⟨hreset, hsent, -⟩ := (s.touched ss).afterReset_wasReset 4 true
  refine ⟨_, exec_deviceReset hm hw, ?_, ?_⟩
  · obtain ⟨a, htouched⟩ := s.touched_eq ss
    rw [htouched] at hreset ⊢
    exact hreset.of_acc.reply ss _
  · rw [State.reply_sent, hsent, State.touched_sent]
    rfl

theorem hearthWatchdogExpiry_resets (hlive : s.live = true) (hb : s.power.booted = true) (hm : s.power.mgmt = false)
    (hswap : ∀ h, s.swapNow = some h → h.lost = true) :
    ∃ t, exec .hearthWatchdogExpiry s = .next t ∧ s.wasReset t 3 true ∧ t.sent = s.sent := by
  obtain ⟨hreset, hsent, -⟩ := s.afterReset_wasReset 3 true
  exact ⟨_, exec_hearthWatchdogExpiry_reset hlive hb hm hswap, hreset, hsent⟩

/-- A controller that stops is no longer ready, and the datapath runs on (R28). -/
theorem managementControllerStop_stops (hm : s.managed = true) :
    ∃ t, exec .managementControllerStop s = .next t ∧ t.managed = false ∧ bitAt (t.reg 0x1010_01) 0 = false ∧ t.live = true ∧
      t.outputs = s.outputs ∧ t.groups = s.groups ∧ t.ingots = s.ingots ∧ t.acc = s.acc ∧ s.ledgerBut t [regKey 0x1010_01 0] ∧
      t.sent = s.sent ∧ t.log = s.log ∧ t.cells = s.cells ∧ t.still = s.still := by
  refine ⟨_, exec_managementControllerStop hm, ?managed, ?ready, ?live, rfl, rfl, rfl, rfl,
    ⟨State.regsBut_put (s.regsBut_refl _) rfl (by simp), rfl, rfl⟩, rfl, rfl, rfl, rfl⟩
  case managed => simp [State.managed, State.controllerStopped, State.clearReady]
  case ready =>
    rw [State.controllerStopped, State.clearReady, State.reg_setReg_same]
    exact bitAt_withBit_false _ 0
  case live =>
    have hmode : s.controllerStopped.reg 0x5800_03 = s.reg 0x5800_03 :=
      State.reg_setReg_key _ _ (by decide) (by decide) (by decide)
    rw [State.live, hmode]
    exact State.live_of_managed hm

end

/-- Settles O50: every reset is `State.afterReset`, whose state is reset before the power domains settle and stays so while they
do; the clocks and the controller's stop are read off the states that their commands end in. -/
theorem resetsAndClocksAct : Obligations.ResetsAndClocksAct := by
  refine ⟨fun s h => crystalStable_recorded h, fun s h hl hn => crystalTimeout_recorded h hl hn, fun s => rfl,
    fun s u h hheld hu => refclkReturn_resets h hu (by simp [hheld]),
    fun s u h hheld hu => refclkReturn_resets h hu (by simp [hheld]),
    fun s => ⟨_, rfl, s.powerOn_wasReset⟩, fun s n h => exec_sysRstN_filtered h, fun s n h => ?pulse,
    fun s ss v hm hw => deviceReset_resets hm hw,
    fun s hlive hb hm hnow => hearthWatchdogExpiry_resets hlive hb hm (by simp [hnow]),
    fun s h hlive hb hm hnow hlost => hearthWatchdogExpiry_resets hlive hb hm (by simp [hnow, hlost]),
    fun s h hnow hlost => exec_hearthWatchdogExpiry_swapping hnow hlost, fun s => rfl, fun s => rfl,
    fun s hm => managementControllerStop_stops hm⟩
  case pulse =>
    obtain ⟨hreset, hsent, -⟩ := s.afterReset_wasReset 2 true
    exact ⟨_, exec_sysRstN_reset h, hreset, hsent⟩

end Machine
end Sys2Proof
end

section
/-! PROOFS. The view groups stand through every operation that is no seal, no commit that applies, no takeover and no reset: one
lemma an operation, tagged for `simp`. -/

namespace Sys2Proof.Machine

@[simp] theorem groups_ite {c : Prop} [Decidable c] (a b : State) :
    (if c then a else b).groups = if c then a.groups else b.groups := apply_ite ..

@[simp] theorem groups_ite_fst {α : Type} {c : Prop} [Decidable c] (a b : State × α) :
    (if c then a else b).1.groups = if c then a.1.groups else b.1.groups := by split <;> rfl

@[simp] theorem groups_ite_snd {α : Type} {c : Prop} [Decidable c] (a b : α × State) :
    (if c then a else b).2.groups = if c then a.2.groups else b.2.groups := by split <;> rfl

@[simp] theorem foldl_groups {α : Type} {f : State → α → State} (hf : ∀ u a, (f u a).groups = u.groups) (xs : List α)
    (s : State) : (xs.foldl f s).groups = s.groups := by
  induction xs generalizing s with
  | nil => rfl
  | cons a xs ih => exact (ih _).trans (hf s a)

@[simp] theorem foldl_groups_fst {α β : Type} {f : State × β → α → State × β} (hf : ∀ u a, (f u a).1.groups = u.1.groups)
    (xs : List α) (s : State × β) : (xs.foldl f s).1.groups = s.1.groups := by
  induction xs generalizing s with
  | nil => rfl
  | cons a xs ih => exact (ih _).trans (hf s a)

@[simp] theorem foldl_groups_snd {α β : Type} {f : β × State → α → β × State} (hf : ∀ u a, (f u a).2.groups = u.2.groups)
    (xs : List α) (s : β × State) : (xs.foldl f s).2.groups = s.2.groups := by
  induction xs generalizing s with
  | nil => rfl
  | cons a xs ih => exact (ih _).trans (hf s a)

/-- The outcome of a command leaves the view groups of a state as they are. -/
def OutKeepsGroups (s : State) (o : Out) : Prop := ∀ t, o = .next t → t.groups = s.groups

theorem OutKeepsGroups.next {s t : State} (h : t.groups = s.groups) : OutKeepsGroups s (.next t) := by
  intro u hu; cases hu; exact h

theorem whenLive_groups {s : State} {f : State → State} (h : (f s).groups = s.groups) : OutKeepsGroups s (whenLive s f) :=
  .next (by simp [h])

theorem whenFabric_groups {s : State} {f : State → State} (h : (f s).groups = s.groups) : OutKeepsGroups s (whenFabric s f) :=
  .next (by simp [h])

theorem whenManaged_groups {s : State} {f : State → State} (h : (f s).groups = s.groups) :
    OutKeepsGroups s (whenManaged s f) := .next (by simp [h])

/-- A chapter's operation of a write leaves the view groups as they are. -/
def OpKeepsGroups (op : WriteOp) : Prop := ∀ s ss i v, (op s ss i v).1.groups = s.groups

@[simp] theorem OpKeepsGroups.apply {op : WriteOp} (ho : OpKeepsGroups op) (s : State) (ss i : Nat) (v : Val) :
    (op s ss i v).1.groups = s.groups := ho s ss i v

@[simp] theorem State.closePcie_groups (s : State) : s.closePcie.groups = s.groups := rfl

@[simp] theorem State.addTicket_groups (s : State) (t : Ticket) : (s.addTicket t).groups = s.groups := by
  simp [State.addTicket]

@[simp] theorem State.addOther_groups (s : State) (t : Ticket) : (s.addOther t).groups = s.groups := by
  simp [State.addOther]

/-! ### The ledger file, the log, readiness -/

@[simp] theorem State.setActive_groups (s : State) (key inst : Nat) (x0 : Val) : (s.setActive key inst x0).groups = s.groups := by
  unfold State.setActive
  split <;> simp

@[simp] theorem State.drawBytes_groups (s : State) (n : Nat) : (s.drawBytes n).2.groups = s.groups := by
  induction n generalizing s with
  | zero => rfl
  | succ n ih => exact (ih _).trans rfl

@[simp] theorem State.recordDevice_groups (s : State) (every event : Nat) (code : Option Code) (inst : Nat) (detail : Int) :
    (s.recordDevice every event code inst detail).groups = s.groups := by simp [State.recordDevice]

@[simp] theorem State.setReady_groups (s : State) (bit : Nat) : (s.setReady bit).groups = s.groups := by simp [State.setReady]

@[simp] theorem State.setFailed_groups (s : State) (bit : Nat) (c : Option Code) :
    (s.setFailed bit c).groups = s.groups := by simp [State.setFailed]

/-! ### Writes of the ledger -/

@[simp] theorem State.tryWrite_groups (s : State) (ss key : Nat) (v : Val) (op : WriteOp) (hop : OpKeepsGroups op) :
    (s.tryWrite ss key v op).1.groups = s.groups := by
  unfold State.tryWrite
  split
  · split <;> simp
  · split
    · rfl
    · simp only [groups_ite_fst]
      repeat' split
      all_goals simp [hop]

@[simp] theorem State.ledgerWrite_groups (s : State) (ss key : Nat) (v : Val) (op : WriteOp) (hop : OpKeepsGroups op) :
    (s.ledgerWrite ss key v op).groups = s.groups := by simp [State.ledgerWrite, hop]

@[simp] theorem writeActive_groups (key : Nat) : OpKeepsGroups (writeActive key) := by
  intro s ss i v
  simp [writeActive]

@[simp] theorem writeShadow_groups (key : Nat) : OpKeepsGroups (writeShadow key) := by
  intro s ss i v
  simp [writeShadow]

@[simp] theorem writeField_groups (key : Nat) : OpKeepsGroups (writeField key) := by
  intro s ss i v
  simp only [writeField]
  split <;> simp

@[simp] theorem writePlain_groups (key : Nat) : OpKeepsGroups (writePlain key) := by
  intro s ss i v
  simp only [writePlain]
  split <;> simp

/-! ### Time -/

@[simp] theorem State.correctPhase_groups (s : State) (o : Nat) :
    (s.correctPhase o).groups = s.groups := by simp [State.correctPhase]

@[simp] theorem State.rephase_groups (s : State) (o : Nat) (ns : Int) :
    (s.rephase o ns).groups = s.groups := by simp [State.rephase]

@[simp] theorem State.changeRate_groups (s : State) (v : Nat) : (s.changeRate v).groups = s.groups := by simp [State.changeRate]

@[simp] theorem State.stepTime_groups (s : State) (size : Int) : (s.stepTime size).groups = s.groups := by simp [State.stepTime]

@[simp] theorem State.sweepEra_groups (s : State) (era : Nat) : (s.sweepEra era).groups = s.groups := by simp [State.sweepEra]

@[simp] theorem State.meanRate_groups (s : State) : (s.meanRate).2.groups = s.groups := by
  simp only [State.meanRate]
  (repeat' split) <;> simp

@[simp] theorem State.keepHoldover_groups (s : State) (eff : Nat) (entered : Bool) :
    (s.keepHoldover eff entered).groups = s.groups := by simp [State.keepHoldover]

@[simp] theorem State.settleTime_groups (s0 : State) (c : Code) (entered : Bool) :
    (s0.settleTime c entered).groups = s0.groups := by simp [State.settleTime]

@[simp] theorem State.setOwn_groups (s : State) (own : Nat) (c : Code) :
    (s.setOwn own c).groups = s.groups := by simp [State.setOwn]

@[simp] theorem State.lockTime_groups (s : State) : s.lockTime.groups = s.groups := by simp [State.lockTime]

@[simp] theorem State.loseTime_groups (s : State) (missed : Bool) :
    (s.loseTime missed).groups = s.groups := by simp [State.loseTime]

@[simp] theorem State.expectExchange_groups (s : State) (p : Nat) :
    (s.expectExchange p).groups = s.groups := by simp [State.expectExchange]

@[simp] theorem State.followTimePort_groups (s : State) : s.followTimePort.groups = s.groups := by simp [State.followTimePort]

@[simp] theorem rateOp_groups : OpKeepsGroups (rateOp) := by
  intro s ss i v
  simp [rateOp]

@[simp] theorem offsetOp_groups : OpKeepsGroups (offsetOp) := by
  intro s ss i v
  simp [offsetOp]

@[simp] theorem stepOp_groups : OpKeepsGroups (stepOp) := by
  intro s ss i v
  simp [stepOp]

@[simp] theorem hostTimeStateOp_groups : OpKeepsGroups (hostTimeStateOp) := by
  intro s ss i v
  simp [hostTimeStateOp]

@[simp] theorem State.leaveSource_groups (s : State) (was source : Nat) :
    (s.leaveSource was source).groups = s.groups := by simp [State.leaveSource]

@[simp] theorem timeSourceOp_groups : OpKeepsGroups (timeSourceOp) := by
  intro s ss i v
  simp [timeSourceOp]

@[simp] theorem State.servo_groups (s : State) (sample steer : Int) :
    (s.servo sample steer).groups = s.groups := by simp [State.servo]

@[simp] theorem State.selectMaster_groups (s : State) : s.selectMaster.groups = s.groups := by
  simp only [State.selectMaster]
  (repeat' split) <;> simp

@[simp] theorem State.ptpDiscard_groups (s : State) (port : Nat) :
    (s.ptpDiscard port).groups = s.groups := by simp [State.ptpDiscard]

@[simp] theorem State.onPtp_groups (s : State) (port : Nat) (head : PtpHead) (f : State → State) (hf : ∀ u, (f u).groups =
    u.groups) :
    (s.onPtp port head f).groups = s.groups := by simp [State.onPtp, hf]

@[simp] theorem State.addSample_groups (s : State) (x : Int) : (s.addSample x).groups = s.groups := by simp [State.addSample]

@[simp] theorem State.measureLink_groups (s : State) (port seq : Nat) :
    (s.measureLink port seq).groups = s.groups := by simp [State.measureLink]

@[simp] theorem State.syncComplete_groups (s : State) (port seq : Nat) (t1 t2 : Int) :
    (s.syncComplete port seq t1 t2).groups = s.groups := by simp [State.syncComplete]

@[simp] theorem State.startEther_groups (s : State) (out : Nat) (f : EthFrame) : (s.startEther out f).groups = s.groups := by
  unfold State.startEther
  split <;> simp

@[simp] theorem State.drainEther_groups (s : State) (out : Nat) : (s.drainEther out).groups = s.groups := by
  simp only [State.drainEther]
  (repeat' split) <;> simp

@[simp] theorem execRateWrite_groups (s : State) (ss v : Nat) :
    OutKeepsGroups s (execRateWrite ss v s) := whenManaged_groups (by simp)

@[simp] theorem execOffsetWrite_groups (s : State) (ss v : Nat) :
    OutKeepsGroups s (execOffsetWrite ss v s) := whenManaged_groups (by simp)

@[simp] theorem execStepWrite_groups (s : State) (ss v : Nat) :
    OutKeepsGroups s (execStepWrite ss v s) := whenManaged_groups (by simp)

@[simp] theorem execEraSweepDone_groups (s : State) : OutKeepsGroups s (execEraSweepDone s) := by
  unfold execEraSweepDone
  refine whenLive_groups ?_
  split <;> simp

@[simp] theorem execHostTimeState_groups (s : State) (ss v : Nat) :
    OutKeepsGroups s (execHostTimeState ss v s) := whenManaged_groups (by simp)

@[simp] theorem execTimeSourceWrite_groups (s : State) (ss v : Nat) :
    OutKeepsGroups s (execTimeSourceWrite ss v s) := whenManaged_groups (by simp)

@[simp] theorem execServoSample_groups (s : State) (steer : Int) : OutKeepsGroups s (execServoSample steer s) := by
  unfold execServoSample
  refine whenManaged_groups ?_
  split <;> simp

@[simp] theorem execHoldoverExpiry_groups (s : State) : OutKeepsGroups s (execHoldoverExpiry s) := by
  unfold execHoldoverExpiry
  refine whenLive_groups ?_
  split <;> simp

@[simp] theorem execAnnounceTimeout_groups (s : State) : OutKeepsGroups s (execAnnounceTimeout s) := whenManaged_groups (by simp)

@[simp] theorem execSyncTimeout_groups (s : State) : OutKeepsGroups s (execSyncTimeout s) := whenManaged_groups (by simp)

@[simp] theorem execHostStateTimeout_groups (s : State) : OutKeepsGroups s (execHostStateTimeout s) := whenLive_groups (by simp)

@[simp] theorem execPtpSync_groups (s : State) (port : Fin 2) (head : PtpHead) (source seq : Nat) (twoStep : Bool) (origin rx :
    Nat) (correction : Int) :
    OutKeepsGroups s (execPtpSync port head source seq twoStep origin rx correction s) := whenManaged_groups (by simp)

@[simp] theorem execPtpFollowUp_groups (s : State) (port : Fin 2) (head : PtpHead) (source seq origin : Nat) (correction : Int) :
    OutKeepsGroups s (execPtpFollowUp port head source seq origin correction s) := by
  refine whenManaged_groups (State.onPtp_groups s port head _ fun u => ?_)
  dsimp only
  split <;> simp

@[simp] theorem execPtpAnnounce_groups (s : State) (port : Fin 2) (head : PtpHead) (source grandmaster priority1 priority2 cls
    accuracy variance steps : Nat) :
    OutKeepsGroups s (execPtpAnnounce port head source grandmaster priority1 priority2 cls accuracy variance steps s) :=
  whenManaged_groups (by simp)

@[simp] theorem execPtpDelayReq_groups (s : State) (port : Fin 2) (head : PtpHead) (source seq rx : Nat) :
    OutKeepsGroups s (execPtpDelayReq port head source seq rx s) := whenManaged_groups (by simp)

@[simp] theorem execPtpDelayResp_groups (s : State) (port : Fin 2) (head : PtpHead) (source requester seq rx : Nat) (correction
    : Int) :
    OutKeepsGroups s (execPtpDelayResp port head source requester seq rx correction s) := by
  refine whenManaged_groups (State.onPtp_groups s port head _ fun u => ?_)
  dsimp only
  split <;> simp

@[simp] theorem execPtpPdelayReq_groups (s : State) (port : Fin 2) (head : PtpHead) (source seq rx : Nat) :
    OutKeepsGroups s (execPtpPdelayReq port head source seq rx s) := whenManaged_groups (by simp)

@[simp] theorem execPtpPdelayResp_groups (s : State) (port : Fin 2) (head : PtpHead) (source seq turnaround rx : Nat) :
    OutKeepsGroups s (execPtpPdelayResp port head source seq turnaround rx s) := by
  refine whenManaged_groups (State.onPtp_groups s port head _ fun u => ?_)
  dsimp only
  split <;> simp

@[simp] theorem State.ptpMasterSend_groups (s : State) (kind : Nat) :
    (s.ptpMasterSend kind).groups = s.groups := by simp [State.ptpMasterSend]

@[simp] theorem execPtpMasterSyncSend_groups (s : State) :
    OutKeepsGroups s (execPtpMasterSyncSend s) := whenManaged_groups (by simp)

@[simp] theorem execPtpMasterAnnounceSend_groups (s : State) :
    OutKeepsGroups s (execPtpMasterAnnounceSend s) := whenManaged_groups (by simp)

@[simp] theorem execEthernetFrameForward_groups (s : State) (port : Fin 2) (dest : BitVec 48) (ptpEvent : Option Nat) (udp :
    Bool) (rx : Nat) (fcs : BitVec 32) (frame : Bytes) :
    OutKeepsGroups s (execEthernetFrameForward port dest ptpEvent udp rx fcs frame s) := whenLive_groups (by simp)

@[simp] theorem execTimeDomainWake_groups (s : State) (ticks : Nat) :
    OutKeepsGroups s (execTimeDomainWake ticks s) := whenLive_groups (by simp)

/-! ### The Bellows channel -/

@[simp] theorem State.pushSections_groups (s : State) (ks : List Nat) : (s.pushSections ks).groups = s.groups := by
  unfold State.pushSections
  simp only [State.setReg_groups, State.send_groups]
  refine foldl_groups (fun t k => ?_) ks s
  exact foldl_groups (by simp) _ t

@[simp] theorem State.pushCommit_groups (s : State) : s.pushCommit.groups = s.groups := by simp [State.pushCommit]

@[simp] theorem State.pushAll_groups (s : State) : s.pushAll.groups = s.groups := by simp [State.pushAll]

@[simp] theorem State.setPairState_groups (s : State) (st : Nat) (c : Option Code) :
    (s.setPairState st c).groups = s.groups := by simp [State.setPairState]

@[simp] theorem State.enterActive_groups (s : State) (c : Option Code) :
    (s.enterActive c).groups = s.groups := by simp [State.enterActive]

@[simp] theorem State.settleTakeover_groups (s : State) (running : List Nat) :
    (s.settleTakeover running).groups = s.groups := by simp [State.settleTakeover]

/-! ### Tickets -/

@[simp] theorem State.setTicket_groups (s : State) (t : Ticket) : (s.setTicket t).groups = s.groups := by simp [State.setTicket]

@[simp] theorem State.noteApplied_groups (s : State) (id wf : Nat) : (s.noteApplied id wf).groups = s.groups := by
  simp only [State.noteApplied]
  (repeat' split) <;> simp

@[simp] theorem State.finishTicket_groups (s : State) (p : Pending) : (s.finishTicket p).groups = s.groups := by
  unfold State.finishTicket
  (repeat' split) <;> simp

@[simp] theorem State.settleCommits_groups (s : State) : s.settleCommits.groups = s.groups := by simp [State.settleCommits]

@[simp] theorem State.applyField_groups (s : State) (f : Staged) :
    (s.applyField f).groups = s.groups := by simp [State.applyField]

@[simp] theorem State.holdFrozen_groups (s : State) : s.holdFrozen.groups = s.groups := by simp [State.holdFrozen]

@[simp] theorem State.applyFields_groups (s : State) (fs : List Staged) :
    (s.applyFields fs).groups = s.groups := by simp [State.applyFields]

@[simp] theorem State.applyDue_groups (s : State) (due : Nat → Nat → Bool) :
    (s.applyDue due).groups = s.groups := by simp [State.applyDue]

@[simp] theorem State.applyFrozen_groups (s : State) (slot : Nat) :
    (s.applyFrozen slot).groups = s.groups := by simp [State.applyFrozen]

/-! ### Ingots -/

@[simp] theorem State.toFree_groups (s : State) (i : Nat) : (s.toFree i).groups = s.groups := by simp [State.toFree]

@[simp] theorem State.outdate_groups (s : State) (i : Nat) : (s.outdate i).groups = s.groups := by
  simp only [State.outdate]
  (repeat' split) <;> simp

@[simp] theorem State.abandon_groups (s : State) (i : Nat) : (s.abandon i).groups = s.groups := by simp [State.abandon]

@[simp] theorem State.takeRef_groups (s : State) (i reader : Nat) : (s.takeRef i reader).groups = s.groups := by
  simp only [State.takeRef]
  (repeat' split) <;> simp

@[simp] theorem State.dropRef_groups (s : State) (i reader : Nat) : (s.dropRef i reader).groups = s.groups := by
  simp only [State.dropRef]
  (repeat' split) <;> simp

@[simp] theorem State.pick_groups (s : State) (xs : List Nat) : (s.pick xs).2.groups = s.groups := by simp [State.pick]

@[simp] theorem State.takeFree_groups (s : State) (slot : Nat) (f : Filler) : (s.takeFree slot f).2.groups = s.groups := by
  simp only [State.takeFree]
  (repeat' split) <;> simp

@[simp] theorem State.countFrom_groups (s : State) (i : Nat) : (s.countFrom i).groups = s.groups := by simp [State.countFrom]

@[simp] theorem State.publish_groups (s : State) (i : Nat) : (s.publish i).groups = s.groups := by
  simp only [State.publish]
  (repeat' split) <;> simp

@[simp] theorem State.dropIngot_groups (s : State) (i : Nat) : (s.dropIngot i).groups = s.groups := by
  unfold State.dropIngot
  split <;> simp

@[simp] theorem State.retireSet_groups (s : State) (slot : Nat) (keep : List Nat) :
    (s.retireSet slot keep).groups = s.groups := by simp [State.retireSet]

@[simp] theorem State.bindIngots_groups (s : State) (slot size : Nat) (is as : List Nat) :
    (s.bindIngots slot size is as).groups = s.groups := by
  induction is generalizing s as with
  | nil => rfl
  | cons i is ih =>
    cases as with
    | nil => rfl
    | cons a as => exact (ih _ _).trans rfl

@[simp] theorem State.newSet_groups (s : State) (slot : Nat) (x : Source) (size : Nat) :
    (s.newSet slot x size).groups = s.groups := by simp [State.newSet]

@[simp] theorem acquireOp_groups : OpKeepsGroups (acquireOp) := by
  intro s ss i v
  simp only [acquireOp]
  (repeat' split) <;> simp

@[simp] theorem publishOp_groups : OpKeepsGroups (publishOp) := by
  intro s ss i v
  simp [publishOp]

@[simp] theorem releaseOp_groups : OpKeepsGroups (releaseOp) := by
  intro s ss i v
  simp only [releaseOp]
  (repeat' split) <;> simp

@[simp] theorem execHostAcquire_groups (s : State) (ss slot : Nat) :
    OutKeepsGroups s (execHostAcquire ss slot s) := whenManaged_groups (by simp)

@[simp] theorem execHostPublish_groups (s : State) (ss v : Nat) :
    OutKeepsGroups s (execHostPublish ss v s) := whenManaged_groups (by simp)

@[simp] theorem execHostContentCheckDone_groups (s : State) (ingot : Fin 4096) (readOk : Bool) :
    OutKeepsGroups s (execHostContentCheckDone ingot readOk s) := whenLive_groups (by simp)

@[simp] theorem execHostRelease_groups (s : State) (ss ingot : Nat) :
    OutKeepsGroups s (execHostRelease ss ingot s) := whenManaged_groups (by simp)

@[simp] theorem execReaderRetire_groups (s : State) (ingot : Fin 4096) (reader : Fin 46) :
    OutKeepsGroups s (execReaderRetire ingot reader s) := whenLive_groups (by simp)

/-! ### Placement requests -/

@[simp] theorem State.dropMoved_groups (s : State) (was : State) :
    (s.dropMoved was).groups = s.groups := by simp [State.dropMoved]

@[simp] theorem State.moveHolds_groups (s : State) : s.moveHolds.groups = s.groups := by simp [State.moveHolds]

@[simp] theorem State.placementView_groups (s : State) : s.placementView.groups = s.groups := by simp [State.placementView]

@[simp] theorem placeOp_groups : OpKeepsGroups (placeOp) := by
  intro s ss i v
  simp [placeOp]

@[simp] theorem State.placementResult_groups (s : State) (status code : Nat) (report : Bytes) :
    (s.placementResult status code report).groups = s.groups := by simp [State.placementResult]

@[simp] theorem State.holdApart_groups (s : State) (slot : Nat) :
    (s.holdApart slot).groups = s.groups := by simp [State.holdApart]

@[simp] theorem State.storePlan_groups (s : State) (slot : Nat) (p : Plan) :
    (s.storePlan slot p).groups = s.groups := by simp [State.storePlan]

@[simp] theorem emptySlotOp_groups : OpKeepsGroups (emptySlotOp) := by
  intro s ss i v
  simp [emptySlotOp]

@[simp] theorem State.advanceEpoch_groups (s : State) : s.advanceEpoch.groups = s.groups := by simp [State.advanceEpoch]

/-! ### Power, reset, boot and live update -/

@[simp] theorem State.setBanks_groups (s : State) (st : Nat) : (s.setBanks st).groups = s.groups := by
  have h := foldl_groups (f := fun (t : State) b => t.setReg 0x5480_02 b st) (by intros; rfl) (List.range 8) s
  simp [State.setBanks, h]

/-! ### Recovery -/

@[simp] theorem State.yieldPair_groups (s : State) : s.yieldPair.groups = s.groups := by simp [State.yieldPair]

@[simp] theorem State.escalate_groups (s : State) (bit : Nat) : (s.escalate bit).groups = s.groups := by simp [State.escalate]

@[simp] theorem State.strikeOutputs_groups (s : State) (v : Nat) (outs : List Nat) :
    (s.strikeOutputs v outs).groups = s.groups := by simp [State.strikeOutputs]

@[simp] theorem State.strike_groups (s : State) (outs : List Nat) : (s.strike outs).groups = s.groups := by simp [State.strike]

@[simp] theorem State.strikeRunning_groups (s : State) (outs : List Nat) :
    (s.strikeRunning outs).groups = s.groups := by simp [State.strikeRunning]

@[simp] theorem State.queueRecovery_groups (s : State) (r : Recovery) (outs : List Nat) :
    (s.queueRecovery r outs).groups = s.groups := by simp [State.queueRecovery]

@[simp] theorem State.triggerReplan_groups (s : State) (cause : Cause) (outs : List Nat) :
    (s.triggerReplan cause outs).groups = s.groups := by simp [State.triggerReplan]

@[simp] theorem State.endRecovery_groups (s : State) : s.endRecovery.groups = s.groups := by simp [State.endRecovery]

/-! ### The fabric -/

@[simp] theorem State.refuseAccess_groups (s : State) (port : Nat) (c : Code) (address cls : Nat) :
    (s.refuseAccess port c address cls).groups = s.groups := by simp [State.refuseAccess]

@[simp] theorem State.refuseForm_groups (s : State) (port : Nat) (c : Code) (address cls : Nat) :
    (s.refuseForm port c address cls).groups = s.groups := by simp [State.refuseForm]

@[simp] theorem State.noteWait_groups (s : State) (port wait : Nat) :
    (s.noteWait port wait).groups = s.groups := by simp [State.noteWait]

@[simp] theorem State.countAccesses_groups (s : State) (port cls wait n : Nat) :
    (s.countAccesses port cls wait n).groups = s.groups := by simp [State.countAccesses]

@[simp] theorem State.countDone_groups (s : State) (port cls wait : Nat) :
    (s.countDone port cls wait).groups = s.groups := by simp [State.countDone]

@[simp] theorem State.dropItem_groups (s : State) (x : FabItem) : (s.dropItem x).groups = s.groups := by simp [State.dropItem]

@[simp] theorem State.serveNext_groups (s : State) (t : Nat) : (s.serveNext t).groups = s.groups := by simp [State.serveNext]

@[simp] theorem State.writeBeats_groups (s : State) (r : FabReq) :
    (s.writeBeats r).groups = s.groups := foldl_groups (by simp) _ s

@[simp] theorem State.moveData_groups (s : State) (x : FabItem) : (s.moveData x).groups = s.groups := by simp [State.moveData]

@[simp] theorem State.afterService_groups (s : State) (x : FabItem) :
    (s.afterService x).groups = s.groups := by simp [State.afterService]

@[simp] theorem State.grant_groups (s : State) (x : FabItem) (g : Nat) : (s.grant x g).groups = s.groups := by simp [State.grant]

@[simp] theorem State.countFrame_groups (s : State) (port : Nat) :
    (s.countFrame port).groups = s.groups := by simp [State.countFrame]

@[simp] theorem State.noteRefusedB_groups (s : State) (port address : Nat) :
    (s.noteRefusedB port address).groups = s.groups := by simp [State.noteRefusedB]

@[simp] theorem clearOutcomesOp_groups : OpKeepsGroups (clearOutcomesOp) := by
  intro s ss i v
  simp [clearOutcomesOp]

@[simp] theorem State.grantLock_groups (s : State) (l : LockedRun) :
    (s.grantLock l).groups = s.groups := by simp [State.grantLock]

@[simp] theorem execLockedSequence_groups (s : State) (port : Fin 42) (target : Fin 25) (accesses : Nat) :
    OutKeepsGroups s (execLockedSequence port target accesses s) := whenFabric_groups (by simp)

@[simp] theorem execClearOutcomes_groups (s : State) (ss v : Nat) :
    OutKeepsGroups s (execClearOutcomes ss v s) := whenManaged_groups (by simp)

/-! ### Memory -/

@[simp] theorem State.logMemError_groups (s : State) (address syndrome port : Nat) :
    (s.logMemError address syndrome port).groups = s.groups := by
  unfold State.logMemError
  split <;> simp

@[simp] theorem State.enterEvacuation_groups (s : State) (c : Nat) :
    (s.enterEvacuation c).groups = s.groups := by simp [State.enterEvacuation]

@[simp] theorem State.requestEvacuation_groups (s : State) (c : Nat) :
    (s.requestEvacuation c).groups = s.groups := by simp [State.requestEvacuation]

@[simp] theorem State.correctedError_groups (s : State) (c : Nat) :
    (s.correctedError c).groups = s.groups := by simp [State.correctedError]

@[simp] theorem State.startReturn_groups (s : State) (c : Nat) :
    (s.startReturn c).groups = s.groups := by simp [State.startReturn]

@[simp] theorem channelOp_groups : OpKeepsGroups (channelOp) := by
  intro s ss i v
  simp only [channelOp]
  (repeat' split) <;> simp

@[simp] theorem State.placeStartUp_groups (s : State) : s.placeStartUp.groups = s.groups := by simp [State.placeStartUp]

@[simp] theorem State.settleDram_groups (s : State) (c : Code) : (s.settleDram c).groups = s.groups := by simp [State.settleDram]

@[simp] theorem State.closeRows_groups (s : State) (c : Nat) : (s.closeRows c).groups = s.groups := by simp [State.closeRows]

@[simp] theorem State.refreshFromNow_groups (s : State) (c : Nat) :
    (s.refreshFromNow c).groups = s.groups := by simp [State.refreshFromNow]

@[simp] theorem execRefreshDue_groups (s : State) (channel : Fin 16) :
    OutKeepsGroups s (execRefreshDue channel s) := whenLive_groups (by simp)

@[simp] theorem execRefreshCatchUp_groups (s : State) (channel : Fin 16) :
    OutKeepsGroups s (execRefreshCatchUp channel s) := whenLive_groups (by simp)

@[simp] theorem execTemperatureRead_groups (s : State) (channel : Fin 16) (celsius : Int) :
    OutKeepsGroups s (execTemperatureRead channel celsius s) := whenLive_groups (by simp)

@[simp] theorem execTracking_groups (s : State) (channel : Fin 16) (driftPs : Int) (inRange : Bool) :
    OutKeepsGroups s (execTracking channel driftPs inRange s) := whenLive_groups (by simp)

@[simp] theorem State.scrubbedOne_groups (s : State) (c : Nat) :
    (s.scrubbedOne c).groups = s.groups := by simp [State.scrubbedOne]

@[simp] theorem execScrubRead_groups (s : State) (channel : Fin 16) (sector : Nat) (corrected uncorrectable : Bool) (syndrome :
    Nat) :
    OutKeepsGroups s (execScrubRead channel sector corrected uncorrectable syndrome s) := whenLive_groups (by simp)

@[simp] theorem execSelfRefreshEntry_groups (s : State) (channel : Fin 16) :
    OutKeepsGroups s (execSelfRefreshEntry channel s) := whenLive_groups (by simp)

@[simp] theorem execSelfRefreshExit_groups (s : State) (channel : Fin 16) (beforeCommand : Bool) :
    OutKeepsGroups s (execSelfRefreshExit channel beforeCommand s) := whenLive_groups (by simp)

@[simp] theorem execDramTrainingDone_groups (s : State) (channel : Fin 16) (passed : Bool) :
    OutKeepsGroups s (execDramTrainingDone channel passed s) := whenLive_groups (by simp)

@[simp] theorem execEvacuate_groups (s : State) (ss v : Nat) :
    OutKeepsGroups s (execEvacuate ss v s) := whenManaged_groups (by simp)

@[simp] theorem execEvacuationComplete_groups (s : State) (channel : Fin 16) :
    OutKeepsGroups s (execEvacuationComplete channel s) := whenLive_groups (by simp)

@[simp] theorem execRetrainChannel_groups (s : State) (ss v : Nat) :
    OutKeepsGroups s (execRetrainChannel ss v s) := whenManaged_groups (by simp)

@[simp] theorem execRetireChannel_groups (s : State) (ss v : Nat) :
    OutKeepsGroups s (execRetireChannel ss v s) := whenManaged_groups (by simp)

/-! ### The Swage line -/

@[simp] theorem State.sendBlock_groups (s : State) (l payload : Nat) :
    (s.sendBlock l payload).groups = s.groups := by simp [State.sendBlock]

@[simp] theorem State.checkBit_groups (s : State) (l : Nat) (b : Bool) :
    (s.checkBit l b).groups = s.groups := by simp [State.checkBit]

@[simp] theorem State.patternBit_groups (s : State) (l : Nat) : (s.patternBit l).groups = s.groups := by simp [State.patternBit]

@[simp] theorem State.sendCellDue_groups (s : State) (p : Nat) (due : Int) (cell : Bytes) :
    (s.sendCellDue p due cell).groups = s.groups := by simp [State.sendCellDue]

@[simp] theorem State.sendCell_groups (s : State) (p : Nat) (cell : Bytes) :
    (s.sendCell p cell).groups = s.groups := by simp [State.sendCell]

@[simp] theorem State.stampCell_groups (s : State) (p : Nat) (cell : Bytes) :
    (s.stampCell p cell).1.groups = s.groups := by simp [State.stampCell]

@[simp] theorem State.fillSlot_groups (s : State) (p c width i : Nat) : (s.fillSlot p c width i).1.groups = s.groups := by
  simp only [State.fillSlot]
  (repeat' split) <;> simp

@[simp] theorem State.fillSlots_groups (s : State) (p c width : Nat) :
    (s.fillSlots p c width).1.groups = s.groups := by simp [State.fillSlots]

@[simp] theorem State.clearOutbox_groups (s : State) (p : Nat) :
    (s.clearOutbox p).groups = s.groups := by simp [State.clearOutbox]

/-! ### Frames that are sent -/

@[simp] theorem State.storeHold_groups (s : State) (o : Nat) (half : Bool) :
    (s.storeHold o half).groups = s.groups := by simp [State.storeHold]

@[simp] theorem State.feedOutput_groups (s : State) (o : Nat) : (s.feedOutput o).groups = s.groups := by simp [State.feedOutput]

@[simp] theorem State.feedPort_groups (s : State) (p : Nat) : (s.feedPort p).groups = s.groups := by simp [State.feedPort]

/-! ### Lanes -/

@[simp] theorem State.setSpare_groups (s : State) (l st : Nat) : (s.setSpare l st).groups = s.groups := by simp [State.setSpare]

@[simp] theorem State.clearSpare_groups (s : State) (l st : Nat) :
    (s.clearSpare l st).groups = s.groups := by simp [State.clearSpare]

@[simp] theorem State.enterLane_groups (s : State) (st l : Nat) :
    (s.enterLane st l).groups = s.groups := by simp [State.enterLane]

@[simp] theorem State.enterLanes_groups (s : State) (st : Nat) (ls : List Nat) :
    (s.enterLanes st ls).groups = s.groups := by simp [State.enterLanes]

@[simp] theorem State.sendCapability_groups (s : State) (l : Nat) :
    (s.sendCapability l).groups = s.groups := by simp [State.sendCapability]

@[simp] theorem State.startExchange_groups (s : State) (l : Nat) :
    (s.startExchange l).groups = s.groups := by simp [State.startExchange]

@[simp] theorem State.startVerify_groups (s : State) (l : Nat) :
    (s.startVerify l).groups = s.groups := by simp [State.startVerify]

@[simp] theorem State.sendTrain_groups (s : State) (l merit : Nat) :
    (s.sendTrain l merit).groups = s.groups := by simp [State.sendTrain]

@[simp] theorem State.sendStep_groups (s : State) (target : Nat) (request : Bool) (l : Nat) :
    (s.sendStep target request l).groups = s.groups := by simp [State.sendStep]

@[simp] theorem State.sendRunEntry_groups (s : State) (count l : Nat) :
    (s.sendRunEntry count l).groups = s.groups := by simp [State.sendRunEntry]

@[simp] theorem State.detect_groups (s : State) (ls : List Nat) : (s.detect ls).groups = s.groups := by simp [State.detect]

@[simp] theorem State.startPort_groups (s : State) (p : Nat) : (s.startPort p).groups = s.groups := by simp [State.startPort]

@[simp] theorem State.backOff_groups (s : State) (ls : List Nat) (l : Nat) (c : Code) :
    (s.backOff ls l c).groups = s.groups := by simp [State.backOff]

@[simp] theorem State.startTraining_groups (s : State) (r : Nat) (ls : List Nat) :
    (s.startTraining r ls).groups = s.groups := by simp [State.startTraining]

@[simp] theorem State.standReady_groups (s : State) (l : Nat) : (s.standReady l).groups = s.groups := by simp [State.standReady]

@[simp] theorem State.endRetrain_groups (s : State) (l : Nat) : (s.endRetrain l).groups = s.groups := by simp [State.endRetrain]

@[simp] theorem State.leaveExchange_groups (s : State) (ls : List Nat) :
    (s.leaveExchange ls).groups = s.groups := by simp [State.leaveExchange]

@[simp] theorem State.leaveVerify_groups (s : State) (ls : List Nat) : (s.leaveVerify ls).groups = s.groups := by
  unfold State.leaveVerify
  dsimp only
  generalize hs : List.foldl _ s ls = s1
  have h1 : s1.groups = s.groups := hs ▸ foldl_groups (by simp) ls s
  split
  · simp [h1]
  · split
    · simp [h1]
    · simp [h1]
    · refine (foldl_groups (by simp) ls _).trans ?_
      split <;> simp [h1]

@[simp] theorem State.advanceLanes_groups (s : State) (ls : List Nat) : (s.advanceLanes ls).groups = s.groups := by
  unfold State.advanceLanes
  split <;> simp

@[simp] theorem State.passStep_groups (s : State) (l : Nat) : (s.passStep l).groups = s.groups := by simp [State.passStep]

@[simp] theorem State.failAlone_groups (s : State) (l : Nat) (c : Code) : (s.failAlone l c).groups = s.groups := by
  simp only [State.failAlone]
  (repeat' split) <;> simp

@[simp] theorem State.failBringUp_groups (s : State) (l : Nat) (c : Code) :
    (s.failBringUp l c).groups = s.groups := by simp [State.failBringUp]

@[simp] theorem State.failRate_groups (s : State) (l : Nat) : (s.failRate l).groups = s.groups := by
  unfold State.failRate
  (repeat' split) <;> simp

@[simp] theorem State.agreeClock_groups (s : State) (l : Nat) : (s.agreeClock l).groups = s.groups := by simp [State.agreeClock]

@[simp] theorem State.takeCapability_groups (s : State) (l payload : Nat) :
    (s.takeCapability l payload).groups = s.groups := by simp [State.takeCapability]

@[simp] theorem State.onBlock_groups (s0 : State) (l : Nat) (block : RxBlock) (types : List Nat) (f : State → Nat → State) (hf :
    ∀ u x0, (f u x0).groups = u.groups) :
    (s0.onBlock l block types f).groups = s0.groups := by simp [State.onBlock, hf]

@[simp] theorem State.takeTrain_groups (s : State) (l merit : Nat) (selfDone : Bool) (payload : Nat) :
    (s.takeTrain l merit selfDone payload).groups = s.groups := by simp [State.takeTrain]

@[simp] theorem State.takeStep_groups (s : State) (l payload : Nat) :
    (s.takeStep l payload).groups = s.groups := by simp [State.takeStep]

@[simp] theorem State.startListening_groups (s : State) (p : Nat) :
    (s.startListening p).groups = s.groups := by simp [State.startListening]

@[simp] theorem State.portUp_groups (s : State) (p : Nat) : (s.portUp p).groups = s.groups := by simp [State.portUp]

@[simp] theorem State.noteDrop_groups (s : State) (p : Nat) : (s.noteDrop p).groups = s.groups := by simp [State.noteDrop]

@[simp] theorem State.cutStreams_groups (s : State) (p : Nat) : (s.cutStreams p).groups = s.groups := by simp [State.cutStreams]

@[simp] theorem State.portDown_groups (s : State) (p : Nat) (c : Code) :
    (s.portDown p c).groups = s.groups := by simp [State.portDown]

@[simp] theorem State.wakeLane_groups (s : State) (p l : Nat) : (s.wakeLane p l).groups = s.groups := by simp [State.wakeLane]

@[simp] theorem State.substituteLane_groups (s : State) (p lane faulty spare : Nat) :
    (s.substituteLane p lane faulty spare).groups = s.groups := by simp [State.substituteLane]

@[simp] theorem State.relieveLane_groups (s : State) (p l spare : Nat) :
    (s.relieveLane p l spare).groups = s.groups := by simp [State.relieveLane]

@[simp] theorem State.replaceLane_groups (s : State) (p l : Nat) : (s.replaceLane p l).groups = s.groups := by
  simp only [State.replaceLane]
  (repeat' split) <;> simp

@[simp] theorem State.laneFault_groups (s : State) (l : Nat) (c : Code) : (s.laneFault l c).groups = s.groups := by
  simp only [State.laneFault]
  (repeat' split) <;> simp

@[simp] theorem State.moveBack_groups (s : State) (p lane spare : Nat) :
    (s.moveBack p lane spare).groups = s.groups := by simp [State.moveBack]

@[simp] theorem State.moveLane_groups (s : State) (p k target : Nat) :
    (s.moveLane p k target).groups = s.groups := by simp [State.moveLane]

@[simp] theorem State.peerRequest_groups (s : State) (p k : Nat) (on : Option Nat) :
    (s.peerRequest p k on).groups = s.groups := by
  unfold State.peerRequest
  (repeat' split) <;> simp

@[simp] theorem State.seeRequest_groups (s : State) (p number field' : Nat) :
    (s.seeRequest p number field').groups = s.groups := by simp [State.seeRequest]

@[simp] theorem State.returnLane_groups (s : State) (p lane : Nat) : (s.returnLane p lane).groups = s.groups := by
  simp only [State.returnLane]
  (repeat' split) <;> simp

@[simp] theorem State.startLaneBack_groups (s : State) (lane : Nat) : (s.startLaneBack lane).groups = s.groups := by
  unfold State.startLaneBack
  split <;> simp

@[simp] theorem switchBackLaneOp_groups : OpKeepsGroups (switchBackLaneOp) := by
  intro s ss i v
  simp [switchBackLaneOp]

@[simp] theorem retrainOp_groups : OpKeepsGroups (retrainOp) := by
  intro s ss i v
  simp only [retrainOp]
  (repeat' split) <;> simp

@[simp] theorem State.startRetrain_groups (s : State) (l : Nat) :
    (s.startRetrain l).groups = s.groups := by simp [State.startRetrain]

@[simp] theorem State.sendAnchor_groups (s : State) (p number count : Nat) (payload : Bytes) (l : Nat) :
    (s.sendAnchor p number count payload l).groups = s.groups := by simp [State.sendAnchor]

@[simp] theorem State.sendInterval_groups (s : State) (p : Nat) (waiting : Bool) :
    (s.sendInterval p waiting).groups = s.groups := by
  unfold State.sendInterval
  dsimp only
  generalize hx : State.fillSlots _ p _ _ = slots
  have hx' : slots.1.groups = s.groups := hx ▸ (State.fillSlots_groups ..).trans (foldl_groups (by simp) _ s)
  generalize hs : List.foldl _ slots.1 _ = s1
  have h1 : s1.groups = slots.1.groups := hs ▸ foldl_groups (fun t k => by split <;> simp) _ _
  generalize ht : List.foldl _ s1 _ = s2
  have h2 : s2.groups = s1.groups := ht ▸ foldl_groups (fun t l => by
    simp only [groups_ite, State.enterLane_groups, State.sendAnchor_groups, ite_self]) _ _
  split <;> simp [h2, h1, hx']

@[simp] theorem State.noteSlack_groups (s : State) (up : Bool) (l : Nat) :
    (s.noteSlack up l).groups = s.groups := by simp [State.noteSlack]

@[simp] theorem State.matchRate_groups (s : State) (p l number fill : Nat) : (s.matchRate p l number fill).groups = s.groups := by
  simp only [State.matchRate]
  (repeat' split) <;> simp

@[simp] theorem State.countAnchor_groups (s : State) (l : Nat) (bad : Bool) :
    (s.countAnchor l bad).groups = s.groups := by simp [State.countAnchor]

@[simp] theorem State.noteSpareGood_groups (s : State) (p l number : Nat) :
    (s.noteSpareGood p l number).groups = s.groups := by simp [State.noteSpareGood]

@[simp] theorem State.goodAnchor_groups (s : State) (p l word skewNs fill : Nat) :
    (s.goodAnchor p l word skewNs fill).groups = s.groups := by simp [State.goodAnchor]

@[simp] theorem State.startTest_groups (s : State) (l : Nat) : (s.startTest l).groups = s.groups := by simp [State.startTest]

@[simp] theorem laneTestOp_groups (key : Nat) : OpKeepsGroups (laneTestOp key) := by
  intro s ss i v
  simp [laneTestOp]

@[simp] theorem execBlockLock_groups (s : State) (lane : Fin 52) :
    OutKeepsGroups s (execBlockLock lane s) := whenLive_groups (by simp)

@[simp] theorem execBlockLockLoss_groups (s : State) (lane : Fin 52) :
    OutKeepsGroups s (execBlockLockLoss lane s) := whenLive_groups (by simp)

@[simp] theorem execDetectTimeout_groups (s : State) (lane : Fin 52) :
    OutKeepsGroups s (execDetectTimeout lane s) := whenLive_groups (by simp)

@[simp] theorem execBackOffExpiry_groups (s : State) (lane : Fin 52) :
    OutKeepsGroups s (execBackOffExpiry lane s) := whenLive_groups (by simp)

@[simp] theorem execCapabilityBlock_groups (s : State) (lane : Fin 52) (block : RxBlock) :
    OutKeepsGroups s (execCapabilityBlock lane block s) := whenLive_groups (by simp)

@[simp] theorem execExchangeTimeout_groups (s : State) (lane : Fin 52) :
    OutKeepsGroups s (execExchangeTimeout lane s) := whenLive_groups (by simp)

@[simp] theorem execTrainBlock_groups (s : State) (lane : Fin 52) (block : RxBlock) (merit : BitVec 8) (selfDone : Bool) :
    OutKeepsGroups s (execTrainBlock lane block merit selfDone s) := whenLive_groups (by simp)

@[simp] theorem execTrainTimeout_groups (s : State) (lane : Fin 52) :
    OutKeepsGroups s (execTrainTimeout lane s) := whenLive_groups (by simp)

@[simp] theorem execVerifyEnd_groups (s : State) (lane : Fin 52) (errors : Nat) :
    OutKeepsGroups s (execVerifyEnd lane errors s) := whenLive_groups (by simp)

@[simp] theorem execStepBlock_groups (s : State) (lane : Fin 52) (block : RxBlock) :
    OutKeepsGroups s (execStepBlock lane block s) := whenLive_groups (by simp)

@[simp] theorem execRateSwitchDone_groups (s : State) (lane : Fin 52) : OutKeepsGroups s (execRateSwitchDone lane s) := by
  unfold execRateSwitchDone
  refine whenLive_groups ?_
  simp only []
  (repeat' split) <;> simp

@[simp] theorem execRunEntryBlock_groups (s : State) (lane : Fin 52) (block : RxBlock) :
    OutKeepsGroups s (execRunEntryBlock lane block s) := whenLive_groups (by simp)

@[simp] theorem execRunEntryDone_groups (s : State) (lane : Fin 52) : OutKeepsGroups s (execRunEntryDone lane s) := by
  unfold execRunEntryDone
  refine whenLive_groups ?_
  simp only []
  (repeat' split) <;> simp

@[simp] theorem execLoopbackBlock_groups (s : State) (lane : Fin 52) (block : RxBlock) :
    OutKeepsGroups s (execLoopbackBlock lane block s) := whenLive_groups (by simp)

@[simp] theorem execAnchorIntervalSend_groups (s : State) (port : Fin 24) (anythingWaiting : Bool) :
    OutKeepsGroups s (execAnchorIntervalSend port anythingWaiting s) := whenLive_groups (by simp)

@[simp] theorem State.loseAnchor_groups (s : State) (l : Nat) : (s.loseAnchor l).groups = s.groups := by simp [State.loseAnchor]

@[simp] theorem State.seekAnchor_groups (s : State) (l : Nat) (good : Bool) :
    (s.seekAnchor l good).groups = s.groups := by simp [State.seekAnchor]

@[simp] theorem execAnchorReceived_groups (s : State) (lane : Fin 52) (word : BitVec 64) (skewNs fill stuffBad : Nat) :
    OutKeepsGroups s (execAnchorReceived lane word skewNs fill stuffBad s) := by
  unfold execAnchorReceived
  refine whenLive_groups ?_
  split <;> simp

@[simp] theorem execAnchorMissed_groups (s : State) (lane : Fin 52) :
    OutKeepsGroups s (execAnchorMissed lane s) := whenLive_groups (by simp)

@[simp] theorem execElasticBufferFault_groups (s : State) (lane : Fin 52) :
    OutKeepsGroups s (execElasticBufferFault lane s) := whenLive_groups (by simp)

@[simp] theorem execBankedIdleTimeout_groups (s : State) (port : Fin 24) :
    OutKeepsGroups s (execBankedIdleTimeout port s) := whenLive_groups (by simp)

@[simp] theorem State.leaveBanked_groups (s : State) (p : Nat) :
    (s.leaveBanked p).groups = s.groups := by simp [State.leaveBanked]

@[simp] theorem execBankedExit_groups (s : State) (port : Fin 24) :
    OutKeepsGroups s (execBankedExit port s) := whenLive_groups (by simp)

@[simp] theorem execRetrain_groups (s : State) (ss v : Nat) :
    OutKeepsGroups s (execRetrain ss v s) := whenManaged_groups (by simp)

@[simp] theorem execErrorInjection_groups (s : State) (lane : Fin 52) :
    OutKeepsGroups s (execErrorInjection lane s) := whenLive_groups (by simp)

@[simp] theorem execClockLockLoss_groups (s : State) (lane : Fin 52) :
    OutKeepsGroups s (execClockLockLoss lane s) := whenLive_groups (by simp)

@[simp] theorem execTestPatternCheckerLock_groups (s : State) (lane : Fin 52) (errorBits comparedBits : Nat) :
    OutKeepsGroups s (execTestPatternCheckerLock lane errorBits comparedBits s) := whenLive_groups (by simp)

@[simp] theorem State.repeatBlock_groups (s : State) (l : Nat) :
    (s.repeatBlock l).groups = s.groups := by simp [State.repeatBlock]

@[simp] theorem State.returnBit_groups (s : State) (l : Nat) : (s.returnBit l).groups = s.groups := by simp [State.returnBit]

@[simp] theorem State.laneTick_groups (s : State) (l : Nat) : (s.laneTick l).groups = s.groups := by simp [State.laneTick]

@[simp] theorem execSwitchBackLane_groups (s : State) (ss v : Nat) :
    OutKeepsGroups s (execSwitchBackLane ss v s) := whenManaged_groups (by simp)

/-! ### Cells and streams -/

@[simp] theorem State.cellCrcError_groups (s : State) (p : Nat) : (s.cellCrcError p).groups = s.groups := by
  simp only [State.cellCrcError]
  (repeat' split) <;> simp

@[simp] theorem State.onCell_groups (s : State) (p : Nat) (cell : Bytes) (type : Nat) (f : State → State) (hf : ∀ u, (f
    u).groups = u.groups) :
    (s.onCell p cell type f).groups = s.groups := by simp [State.onCell, hf]

@[simp] theorem State.notePort_groups (s : State) (p : Nat) (c : Code) (detail : Nat) :
    (s.notePort p c detail).groups = s.groups := by simp [State.notePort]

@[simp] theorem State.streamBoundary_groups (s : State) (stream : Nat) :
    (s.streamBoundary stream).groups = s.groups := by simp [State.streamBoundary]

@[simp] theorem State.onVideo_groups (s : State) (p : Nat) (cell : Bytes) (kind : Nat) (f : State → Nat → State) (hf : ∀ u x0,
    (f u x0).groups = u.groups) :
    (s.onVideo p cell kind f).groups = s.groups := by
  refine State.onCell_groups s p cell 1 _ fun u => ?_
  dsimp only
  split
  · simp
  · simp [hf]

@[simp] theorem State.dropFrame_groups (s : State) (slot seq : Nat) (c : Code) :
    (s.dropFrame slot seq c).groups = s.groups := by simp [State.dropFrame]

@[simp] theorem State.storePixels_groups (s : State) (x : Source) (base first : Nat) (px : List Bytes) :
    (s.storePixels x base first px).groups = s.groups := by
  induction px generalizing s first with
  | nil => rfl
  | cons px rest ih => exact (ih _ _).trans (by simp)

@[simp] theorem State.fillPixels_groups (s : State) (i : Nat) (f : RxFrame) (first n : Nat) :
    (s.fillPixels i f first n).groups = s.groups := by
  unfold State.fillPixels
  split <;> simp

@[simp] theorem State.fillCells_groups (s : State) (i : Nat) (f : RxFrame) (a b : Nat) :
    (s.fillCells i f a b).groups = s.groups := by simp [State.fillCells]

@[simp] theorem State.forgetRx_groups (s : State) (p : Nat) (f : RxFrame) :
    (s.forgetRx p f).groups = s.groups := by simp [State.forgetRx]

@[simp] theorem State.setRx_groups (s : State) (p : Nat) (f : RxFrame) : (s.setRx p f).groups = s.groups := by simp [State.setRx]

@[simp] theorem State.settleFrame_groups (s0 : State) (f : RxFrame) (marks : Nat) :
    (s0.settleFrame f marks).1.groups = s0.groups := by
  unfold State.settleFrame
  split <;> simp

@[simp] theorem State.endFrame_groups (s : State) (p : Nat) (f : RxFrame) (marks : Nat) :
    (s.endFrame p f marks).1.groups = s.groups := by
  unfold State.endFrame
  split <;> simp

@[simp] theorem State.settleEnded_groups (s : State) (p : Nat) :
    (s.settleEnded p).groups = s.groups := by simp [State.settleEnded]

@[simp] theorem State.truncateRx_groups (s : State) (p slot : Nat) : (s.truncateRx p slot).groups = s.groups := by
  unfold State.truncateRx
  split <;> simp

@[simp] theorem State.takeHeader_groups (s : State) (p : Nat) (cell : Bytes) (slot : Nat) (x : Source) :
    (s.takeHeader p cell slot x).groups = s.groups := by
  simp only [State.takeHeader]
  (repeat' split) <;> simp

@[simp] theorem State.takeData_groups (s : State) (p : Nat) (cell : Bytes) (slot : Nat) (x : Source) :
    (s.takeData p cell slot x).groups = s.groups := by
  unfold State.takeData
  (repeat' split) <;> simp

@[simp] theorem State.takeTrailer_groups (s : State) (p : Nat) (cell : Bytes) (slot : Nat) :
    (s.takeTrailer p cell slot).groups = s.groups := by
  unfold State.takeTrailer
  split <;> simp

@[simp] theorem State.witnessFail_groups (s : State) (o ofNum : Nat) (c : Code) :
    (s.witnessFail o ofNum c).groups = s.groups := by simp [State.witnessFail]

@[simp] theorem State.witnessPass_groups (s : State) (o : Nat) :
    (s.witnessPass o).groups = s.groups := by simp [State.witnessPass]

@[simp] theorem State.takeWitness_groups (s : State) (p : Nat) (cell : Bytes) : (s.takeWitness p cell).groups = s.groups := by
  simp only [State.takeWitness]
  (repeat' split) <;> simp

@[simp] theorem State.sendTwice_groups (s : State) (p : Nat) (cells : List Bytes) :
    (s.sendTwice p cells).groups = s.groups := by simp [State.sendTwice]

@[simp] theorem State.forward_groups (s : State) (slot : Nat) (x : Source) : (s.forward slot x).groups = s.groups := by
  simp only [State.forward]
  (repeat' split) <;> simp

@[simp] theorem State.pump_groups (s : State) (p : Nat) : (s.pump p).groups = s.groups := by simp [State.pump]

@[simp] theorem State.sendMessage_groups (s : State) (p kind : Nat) (payload : Bytes) :
    (s.sendMessage p kind payload).groups = s.groups := by simp [State.sendMessage]

@[simp] theorem State.sendCredit_groups (s : State) (p : Nat) (ack : Bool) :
    (s.sendCredit p ack).groups = s.groups := by simp [State.sendCredit]

@[simp] theorem State.limitMessages_groups (s : State) (p : Nat) :
    (s.limitMessages p).1.groups = s.groups := by simp [State.limitMessages]

@[simp] theorem State.acceptMessage_groups (s : State) (p : Nat) (cell : Bytes) :
    (s.acceptMessage p cell).1.groups = s.groups := by simp [State.acceptMessage]

@[simp] theorem State.admitMessage_groups (s : State) (p kind : Nat) :
    (s.admitMessage p kind).1.groups = s.groups := by simp [State.admitMessage]

@[simp] theorem State.takeCredit_groups (s : State) (p : Nat) (cell : Bytes) :
    (s.takeCredit p cell).groups = s.groups := by simp [State.takeCredit]

@[simp] theorem State.retransmit_groups (s : State) (p : Nat) : (s.retransmit p).groups = s.groups := by simp [State.retransmit]

@[simp] theorem State.onTime_groups (s : State) (p : Nat) (cell : Bytes) (kind role : Nat) (f : State → Bytes → Nat → State) (hf
    : ∀ u x0 x1, (f u x0 x1).groups = u.groups) :
    (s.onTime p cell kind role f).groups = s.groups := State.onCell_groups s p cell 3 _ fun u => by simp [hf]

@[simp] theorem State.takeSync_groups (s : State) (p : Nat) (b : Bytes) (number : Nat) :
    (s.takeSync p b number).groups = s.groups := by simp [State.takeSync]

@[simp] theorem State.takeResponse_groups (s : State) (p : Nat) (b : Bytes) (number : Nat) :
    (s.takeResponse p b number).groups = s.groups := by
  simp only [State.takeResponse]
  (repeat' split) <;> simp

@[simp] theorem State.sendSync_groups (s : State) (p : Nat) : (s.sendSync p).groups = s.groups := by simp [State.sendSync]

@[simp] theorem execVideoHeaderCell_groups (s : State) (port : Fin 24) (cell : Bytes) :
    OutKeepsGroups s (execVideoHeaderCell port cell s) := by
  refine whenLive_groups (State.onVideo_groups s port cell 0 _ fun u slot => ?_)
  split <;> simp

@[simp] theorem execVideoDataCell_groups (s : State) (port : Fin 24) (cell : Bytes) :
    OutKeepsGroups s (execVideoDataCell port cell s) := by
  refine whenLive_groups (State.onVideo_groups s port cell 1 _ fun u slot => ?_)
  split <;> simp

@[simp] theorem execVideoTrailerCell_groups (s : State) (port : Fin 24) (cell : Bytes) :
    OutKeepsGroups s (execVideoTrailerCell port cell s) := whenLive_groups (by simp)

@[simp] theorem execInboundFrameTimeout_groups (s : State) (slot : Fin 40) :
    OutKeepsGroups s (execInboundFrameTimeout slot s) := whenLive_groups (by simp)

@[simp] theorem execNullCell_groups (s : State) (port : Fin 24) (cell : Bytes) :
    OutKeepsGroups s (execNullCell port cell s) := whenLive_groups (by simp)

@[simp] theorem execWitnessCell_groups (s : State) (port : Fin 24) (cell : Bytes) :
    OutKeepsGroups s (execWitnessCell port cell s) := whenLive_groups (by simp)

@[simp] theorem execForwardFrameStart_groups (s : State) (slot : Fin 40) : OutKeepsGroups s (execForwardFrameStart slot s) := by
  unfold execForwardFrameStart
  refine whenLive_groups ?_
  split <;> simp

@[simp] theorem execCreditCell_groups (s : State) (port : Fin 24) (cell : Bytes) :
    OutKeepsGroups s (execCreditCell port cell s) := whenLive_groups (by simp)

@[simp] theorem execCreditSend_groups (s : State) (port : Fin 24) :
    OutKeepsGroups s (execCreditSend port s) := whenLive_groups (by simp)

@[simp] theorem execRetransmitTimeout_groups (s : State) (port : Fin 24) :
    OutKeepsGroups s (execRetransmitTimeout port s) := whenLive_groups (by simp)

@[simp] theorem execSyncCell_groups (s : State) (port : Fin 24) (cell : Bytes) :
    OutKeepsGroups s (execSyncCell port cell s) := whenLive_groups (by simp)

@[simp] theorem execDelayRequestCell_groups (s : State) (port : Fin 24) (cell : Bytes) :
    OutKeepsGroups s (execDelayRequestCell port cell s) := whenLive_groups (by simp)

@[simp] theorem execDelayResponseCell_groups (s : State) (port : Fin 24) (cell : Bytes) :
    OutKeepsGroups s (execDelayResponseCell port cell s) := whenLive_groups (by simp)

@[simp] theorem execSyncSend_groups (s : State) (port : Fin 24) :
    OutKeepsGroups s (execSyncSend port s) := whenLive_groups (by simp)

@[simp] theorem execDelayExchangeTimeout_groups (s : State) (port : Fin 24) :
    OutKeepsGroups s (execDelayExchangeTimeout port s) := whenLive_groups (by simp)

/-! ### Cameras -/

@[simp] theorem State.setCamState_groups (s : State) (port st : Nat) :
    (s.setCamState port st).groups = s.groups := by simp [State.setCamState]

@[simp] theorem State.enableCamPort_groups (s : State) (port : Nat) :
    (s.enableCamPort port).groups = s.groups := by simp [State.enableCamPort]

@[simp] theorem State.disableCamPort_groups (s : State) (port : Nat) :
    (s.disableCamPort port).groups = s.groups := by simp [State.disableCamPort]

@[simp] theorem State.stray_groups (s : State) (port vc : Nat) : (s.stray port vc).groups = s.groups := by simp [State.stray]

@[simp] theorem State.enableContext_groups (s : State) (c : Nat) :
    (s.enableContext c).groups = s.groups := by simp [State.enableContext]

@[simp] theorem State.disableContext_groups (s : State) (c : Nat) :
    (s.disableContext c).groups = s.groups := by simp [State.disableContext]

@[simp] theorem State.dropCamera_groups (s : State) (c seq : Nat) (code : Code) :
    (s.dropCamera c seq code).groups = s.groups := by simp [State.dropCamera]

@[simp] theorem State.markCamera_groups (s : State) (f : CamFrame) (bit : Nat) :
    (s.markCamera f bit).1.groups = s.groups := by simp [State.markCamera]

@[simp] theorem State.noteHeader_groups (s : State) (port vc ecc : Nat) :
    (s.noteHeader port vc ecc).groups = s.groups := by simp [State.noteHeader]

@[simp] theorem State.markCurrent_groups (s : State) (bit c : Nat) : (s.markCurrent bit c).groups = s.groups := by
  unfold State.markCurrent
  split <;> simp

@[simp] theorem State.badHeader_groups (s : State) (port : Nat) :
    (s.badHeader port).groups = s.groups := by simp [State.badHeader]

@[simp] theorem State.onPacket_groups (s : State) (port vc ecc : Nat) (f : State → State) (hf : ∀ u, (f u).groups = u.groups) :
    (s.onPacket port vc ecc f).groups = s.groups := by simp [State.onPacket, hf]

@[simp] theorem State.startExposure_groups (s : State) (c : Nat) : (s.startExposure c).groups = s.groups := by
  unfold State.startExposure
  dsimp only
  split
  · rfl
  · split
    · rfl
    · split
      · exact foldl_groups (by simp) _ s
      · simp
      · rfl

@[simp] theorem State.issueExposure_groups (s : State) (c lines analogue digital : Nat) :
    (s.issueExposure c lines analogue digital).groups = s.groups := by simp [State.issueExposure]

@[simp] theorem State.roundFree_groups (s : State) (a b : Nat) :
    (s.roundFree a b).2.groups = s.groups := by simp [State.roundFree]

@[simp] theorem State.issueManual_groups (s : State) (c : Nat) :
    (s.issueManual c).groups = s.groups := by simp [State.issueManual]

@[simp] theorem State.exposureFailed_groups (s : State) (c : Nat) (released : Bool) :
    (s.exposureFailed c released).groups = s.groups := by
  simp only [State.exposureFailed]
  (repeat' split) <;> simp

@[simp] theorem State.exposureDone_groups (s : State) (c : Nat) : (s.exposureDone c).groups = s.groups := by
  simp only [State.exposureDone]
  (repeat' split) <;> simp

@[simp] theorem State.takeStaging_groups (s : State) (c : Nat) : (s.takeStaging c).2.groups = s.groups := by
  simp only [State.takeStaging]
  (repeat' split) <;> simp

@[simp] theorem State.endCamera_groups (s : State) (c : Nat) : (s.endCamera c).groups = s.groups := by
  unfold State.endCamera
  split <;> simp

@[simp] theorem State.contextBoundary_groups (s : State) (c : Nat) :
    (s.contextBoundary c).groups = s.groups := by simp [State.contextBoundary]

@[simp] theorem State.startCamera_groups (s : State) (c : Nat) : (s.startCamera c).groups = s.groups := by
  simp only [State.startCamera]
  (repeat' split) <;> simp

@[simp] theorem State.takeLine_groups (s : State) (c : Nat) (f : CamFrame) (payload : Bytes) (crcOk : Bool) :
    (s.takeLine c f payload crcOk).groups = s.groups := by
  unfold State.takeLine
  (repeat' split) <;> simp

theorem State.packetFor_groups {s t : State} {dt : Nat} {payload : Bytes} {crcOk : Bool} {c : Nat} (ht : s.packetFor dt payload
    crcOk c = some t) :
    t.groups = s.groups := by
  unfold State.packetFor at ht
  split at ht
  · split at ht
    · cases ht; rfl
    · cases ht
  · split at ht
    · cases ht
      split <;> simp
    · split at ht
      · cases ht; simp
      · cases ht

@[simp] theorem State.writeStats_groups (s : State) (f : CamFrame) (valid : Bool) (measured : Bytes × Bytes) :
    (s.writeStats f valid measured).groups = s.groups := by simp [State.writeStats]

@[simp] theorem State.takeOutput_groups (s : State) (f : CamFrame) (slot : Nat) : (s.takeOutput f slot).2.groups = s.groups := by
  simp only [State.takeOutput]
  (repeat' split) <;> simp

@[simp] theorem State.abandonPipe_groups (s : State) (k : Nat) (code : Code) (served : Bool) :
    (s.abandonPipe k code served).groups = s.groups := by
  unfold State.abandonPipe
  dsimp only
  split
  · rfl
  · generalize hs : List.foldl _ s _ = s1
    have h1 : s1.groups = s.groups := hs ▸ foldl_groups (fun t o => by split <;> simp) _ s
    simp [h1]

@[simp] theorem State.bindPipe_groups (s : State) (k : Nat) (f : CamFrame) : (s.bindPipe k f).groups = s.groups := by
  simp only [State.bindPipe]
  (repeat' split) <;> simp

@[simp] theorem State.finishOutput_groups (s : State) (allowed : Bool) (o : Option Nat) (check : Nat) (content : Bytes) :
    (s.finishOutput allowed o check content).groups = s.groups := by
  unfold State.finishOutput
  split <;> simp

@[simp] theorem State.finishPipe_groups (s : State) (k : Nat) : (s.finishPipe k).groups = s.groups := by
  simp only [State.finishPipe]
  (repeat' split) <;> simp

@[simp] theorem State.aeStep_groups (s : State) (c : Nat) (e : ExpGen) (blk : Bytes) : (s.aeStep c e blk).groups = s.groups := by
  unfold State.aeStep
  split <;> simp

@[simp] theorem State.awbStep_groups (s : State) (c : Nat) (blk : Bytes) :
    (s.awbStep c blk).groups = s.groups := by simp [State.awbStep]

@[simp] theorem temperOp_groups : OpKeepsGroups (temperOp) := by
  intro s ss i v
  simp [temperOp]

@[simp] theorem profileOp_groups : OpKeepsGroups (profileOp) := by
  intro s ss i v
  simp [profileOp]

@[simp] theorem hostTransferOp_groups : OpKeepsGroups (hostTransferOp) := by
  intro s ss i v
  simp only [hostTransferOp]
  split <;> simp

@[simp] theorem State.endHost_groups (s : State) (port result : Nat) :
    (s.endHost port result).groups = s.groups := by simp [State.endHost]

@[simp] theorem execFrameStartPacket_groups (s : State) (port : Fin 16) (header : ShortHeader) :
    OutKeepsGroups s (execFrameStartPacket port header s) := whenLive_groups (by simp)

@[simp] theorem execLongPacket_groups (s : State) (port vc : Fin 16) (dataType : BitVec 6) (payload : Bytes) (headerEcc : Fin 3)
    (crcOk : Bool) :
    OutKeepsGroups s (execLongPacket port vc dataType payload headerEcc crcOk s) := by
  refine whenLive_groups (State.onPacket_groups s port vc headerEcc _ fun u => ?_)
  dsimp only
  generalize hr : List.foldl _ _ _ = r
  have h1 : r.1.groups = u.groups := by
    rw [← hr]
    refine (foldl_groups_fst (fun acc c => ?_) _ _).trans (by simp)
    split
    · exact State.packetFor_groups ‹_›
    · rfl
  split <;> simp [h1]

@[simp] theorem State.frameEnd_groups (s : State) (c : Nat) : (s.frameEnd c).groups = s.groups := by simp [State.frameEnd]

@[simp] theorem execFrameEndPacket_groups (s : State) (port : Fin 16) (header : ShortHeader) :
    OutKeepsGroups s (execFrameEndPacket port header s) := whenLive_groups (by simp)

@[simp] theorem execLineGapTimeout_groups (s : State) (ctx : Fin 32) : OutKeepsGroups s (execLineGapTimeout ctx s) := by
  unfold execLineGapTimeout
  refine whenLive_groups ?_
  (repeat' split) <;> simp

@[simp] theorem execSignalAbsentTimeout_groups (s : State) (port : Fin 16) :
    OutKeepsGroups s (execSignalAbsentTimeout port s) := whenLive_groups (by simp)

@[simp] theorem execPortFaultSecond_groups (s : State) (port : Fin 16) (sotErrors : Nat) :
    OutKeepsGroups s (execPortFaultSecond port sotErrors s) := whenLive_groups (by simp)

@[simp] theorem execPipelineBind_groups (s : State) : OutKeepsGroups s (execPipelineBind s) := by
  unfold execPipelineBind
  refine whenLive_groups ?_
  (repeat' split) <;> simp

@[simp] theorem execPipelineFrameDone_groups (s : State) (pipe : Fin 4) (writes : MemEnd) :
    OutKeepsGroups s (execPipelineFrameDone pipe writes s) := by
  unfold execPipelineFrameDone
  refine whenLive_groups ?_
  (repeat' split) <;> simp

@[simp] theorem execAeStep_groups (s : State) (ctx : Fin 32) : OutKeepsGroups s (execAeStep ctx s) := by
  unfold execAeStep
  refine whenManaged_groups ?_
  simp only []
  (repeat' split) <;> simp

@[simp] theorem execAwbStep_groups (s : State) (ctx : Fin 32) :
    OutKeepsGroups s (execAwbStep ctx s) := whenManaged_groups (by simp)

@[simp] theorem execExposureTransferDone_groups (s : State) (ctx : Fin 32) (result : BusEnd) (released : Bool) :
    OutKeepsGroups s (execExposureTransferDone ctx result released s) := by
  unfold execExposureTransferDone
  refine whenManaged_groups ?_
  split <;> simp

@[simp] theorem execControlBusTimeout_groups (s : State) (port : Fin 16) : OutKeepsGroups s (execControlBusTimeout port s) := by
  unfold execControlBusTimeout
  refine whenManaged_groups ?_
  split <;> simp

@[simp] theorem execHostTransfer_groups (s : State) (ss : Nat) (blob : Bytes) :
    OutKeepsGroups s (execHostTransfer ss blob s) := whenManaged_groups (by simp)

@[simp] theorem execHostTransferStart_groups (s : State) (port : Fin 16) : OutKeepsGroups s (execHostTransferStart port s) := by
  unfold execHostTransferStart
  refine whenManaged_groups ?_
  split <;> simp

@[simp] theorem execHostTransferDone_groups (s : State) (port : Fin 16) (acknowledged : Bool) (data : Bytes) :
    OutKeepsGroups s (execHostTransferDone port acknowledged data s) := by
  unfold execHostTransferDone
  refine whenManaged_groups ?_
  split <;> simp

@[simp] theorem execHostTransferTimeout_groups (s : State) (port : Fin 16) :
    OutKeepsGroups s (execHostTransferTimeout port s) := by
  unfold execHostTransferTimeout
  refine whenManaged_groups ?_
  split <;> simp

@[simp] theorem execTemperLoad_groups (s : State) (ss : Nat) (blob : Bytes) :
    OutKeepsGroups s (execTemperLoad ss blob s) := whenManaged_groups (by simp)

@[simp] theorem execSensorProfileWrite_groups (s : State) (ss : Nat) (blob : Bytes) :
    OutKeepsGroups s (execSensorProfileWrite ss blob s) := whenManaged_groups (by simp)

/-! ### Keys -/

@[simp] theorem State.setSpareNv_groups (s : State) (n : NvCopy) :
    (s.setSpareNv n).groups = s.groups := by simp [State.setSpareNv]

@[simp] theorem State.writeNv_groups (s : State) (e : StoreEnd) (key : Nat) (f : NvCopy → NvCopy) :
    (s.writeNv e key f).1.groups = s.groups := by
  unfold State.writeNv
  split <;> simp

@[simp] theorem State.setKeyState_groups (s : State) (k st : Nat) :
    (s.setKeyState k st).groups = s.groups := by simp [State.setKeyState]

@[simp] theorem State.noteSignal_groups (s : State) (k base raw : Nat) :
    (s.noteSignal k base raw).groups = s.groups := by simp [State.noteSignal]

@[simp] theorem State.queueKey_groups (s : State) (k kind reason : Nat) :
    (s.queueKey k kind reason).groups = s.groups := by simp [State.queueKey]

@[simp] theorem State.takeKeyRecords_groups (s : State) : (s.takeKeyRecords).2.groups = s.groups := by simp [State.takeKeyRecords]

@[simp] theorem State.clearCounts_groups (s : State) (k : Nat) :
    (s.clearCounts k).groups = s.groups := by simp [State.clearCounts]

@[simp] theorem State.recalibrate_groups (s : State) (k : Nat) :
    (s.recalibrate k).groups = s.groups := by simp [State.recalibrate]

@[simp] theorem State.releaseKey_groups (s : State) (k reason st : Nat) :
    (s.releaseKey k reason st).groups = s.groups := by simp [State.releaseKey]

@[simp] theorem State.withhold_groups (s : State) (k : Nat) : (s.withhold k).groups = s.groups := by
  unfold State.withhold
  split <;> simp

@[simp] theorem State.groupScan_groups (s : State) (g : Nat) : (s.groupScan g).groups = s.groups := by simp [State.groupScan]

@[simp] theorem State.releaseStep_groups (s : State) (k : Nat) : (s.releaseStep k).groups = s.groups := by
  unfold State.releaseStep
  split <;> simp

@[simp] theorem State.expiryStep_groups (s : State) (k : Nat) : (s.expiryStep k).groups = s.groups := by
  unfold State.expiryStep
  split <;> simp

@[simp] theorem State.pressStep_groups (s : State) (k : Nat) : (s.pressStep k).groups = s.groups := by simp [State.pressStep]

@[simp] theorem State.baselineStep_groups (s : State) (k : Nat) :
    (s.baselineStep k).groups = s.groups := by simp [State.baselineStep]

@[simp] theorem State.faultStep_groups (s : State) (k : Nat) : (s.faultStep k).groups = s.groups := by simp [State.faultStep]

@[simp] theorem State.startStep_groups (s : State) (k : Nat) : (s.startStep k).groups = s.groups := by simp [State.startStep]

@[simp] theorem State.readKey_groups (s : State) (k raw : Nat) : (s.readKey k raw).groups = s.groups := by simp [State.readKey]

@[simp] theorem State.scanKey_groups (s : State) (k : Nat) : (s.scanKey k).groups = s.groups := by simp [State.scanKey]

@[simp] theorem State.noteActivity_groups (s : State) : s.noteActivity.groups = s.groups := by simp [State.noteActivity]

@[simp] theorem State.noteGating_groups (s : State) : s.noteGating.groups = s.groups := by simp [State.noteGating]

@[simp] theorem State.keyBoundary_groups (s : State) : s.keyBoundary.groups = s.groups := by simp [State.keyBoundary]

@[simp] theorem State.scheduleGate_groups (s : State) (t : Nat) :
    (s.scheduleGate t).groups = s.groups := by simp [State.scheduleGate]

@[simp] theorem State.gate_groups (s : State) (opened : Nat) (raw : List Nat) :
    (s.gate opened raw).groups = s.groups := by simp [State.gate]

@[simp] theorem State.startSave_groups (s : State) : s.startSave.groups = s.groups := by simp [State.startSave]

@[simp] theorem saveBaselinesOp_groups : OpKeepsGroups (saveBaselinesOp) := by
  intro s ss i v
  simp [saveBaselinesOp]

@[simp] theorem execSaveBaselines_groups (s : State) (ss v : Nat) :
    OutKeepsGroups s (execSaveBaselines ss v s) := whenManaged_groups (by simp)

@[simp] theorem execAutoBaselineSave_groups (s : State) :
    OutKeepsGroups s (execAutoBaselineSave s) := whenManaged_groups (by simp)

@[simp] theorem State.endSave_groups (s : State) (bs : Tbl Nat) (e : StoreEnd) : (s.endSave bs e).groups = s.groups := by
  unfold State.endSave
  dsimp only
  generalize hr : State.writeNv _ e _ _ = r
  have h1 : r.1.groups = s.groups := hr ▸ State.writeNv_groups ..
  split
  · exact h1
  · exact (foldl_groups (by simp) _ _).trans h1

/-! ### Check-value units -/

@[simp] theorem State.leaveScan_groups (s : State) (u st : Nat) : (s.leaveScan u st).groups = s.groups := by
  simp only [State.leaveScan]
  (repeat' split) <;> simp

@[simp] theorem scanFieldOp_groups (key : Nat) : OpKeepsGroups (scanFieldOp key) := by
  intro s ss i v
  simp [scanFieldOp]

@[simp] theorem State.foldBurst_groups (s : State) (u : Nat) (beats : Bytes) :
    (s.foldBurst u beats).groups = s.groups := by simp [State.foldBurst]

@[simp] theorem State.failScan_groups (s : State) (u : Nat) (c : Code) :
    (s.failScan u c).groups = s.groups := by simp [State.failScan]

@[simp] theorem State.noteCorrected_groups (s : State) (a : Nat) : (s.noteCorrected a).groups = s.groups := by
  unfold State.noteCorrected
  split <;> simp

/-! ### Power domains -/

@[simp] theorem State.withWaiting_groups (s : State) :
    s.withWaiting.groups = s.groups := foldl_groups (fun t a => by split <;> simp) _ s

@[simp] theorem State.settleDomain_groups (s : State) (w : State) (d : Nat) :
    (s.settleDomain w d).groups = s.groups := by simp [State.settleDomain]

@[simp] theorem State.settlePower_groups (s : State) : s.settlePower.groups = s.groups := by simp [State.settlePower]

@[simp] theorem State.tryStartPort_groups (s : State) (p : Nat) :
    (s.tryStartPort p).groups = s.groups := by simp [State.tryStartPort]

/-! ### Plans and block enables -/

@[simp] theorem State.clearDerived_groups (s : State) : s.clearDerived.groups = s.groups := by simp [State.clearDerived]

@[simp] theorem State.installEngines_groups (s : State) (as : List (Nat × Nat × Nat)) :
    (s.installEngines as).groups = s.groups := by simp [State.installEngines]

@[simp] theorem State.configPlan_groups (s : State) (p : Plan) : (s.configPlan p).groups = s.groups := by simp [State.configPlan]

@[simp] theorem State.abandonWriteback_groups (s : State) (e : Nat) : (s.abandonWriteback e).groups = s.groups := by
  simp only [State.abandonWriteback]
  (repeat' split) <;> simp

@[simp] theorem State.abandonRx_groups (s : State) (p i : Nat) : (s.abandonRx p i).groups = s.groups := by
  unfold State.abandonRx
  split <;> simp

@[simp] theorem State.abandonFill_groups (s : State) (i : Nat) : (s.abandonFill i).groups = s.groups := by
  unfold State.abandonFill
  split <;> simp

@[simp] theorem State.abandonOn_groups (s : State) (c : Nat) : (s.abandonOn c).groups = s.groups := by simp [State.abandonOn]

@[simp] theorem State.installSets_groups (s : State) (planned : List (Nat × Source)) :
    (s.installSets planned).groups = s.groups := by
  unfold State.installSets
  refine (foldl_groups (fun t k => ?_) _ _).trans (foldl_groups (fun t p => ?_) _ s)
  all_goals dsimp only
  all_goals (repeat' split) <;> simp

@[simp] theorem State.noteBanks_groups (s : State) : s.noteBanks.groups = s.groups := foldl_groups (by simp) _ s

@[simp] theorem State.noteWritebacks_groups (s : State) : s.noteWritebacks.groups = s.groups := by simp [State.noteWritebacks]

theorem State.setFields_groups (s : State) (fs : List Staged) :
    (fs.foldl (fun (t : State) f => t.setReg f.key f.inst f.v.n) s).groups = s.groups := by
  refine foldl_groups (fun t f => ?_) fs s
  exact t.setReg_groups f.key f.inst f.v.n

@[simp] theorem State.installPlan_groups (s0 : State) (slot : Nat) (p : Plan) (auto : Bool) :
    (s0.installPlan slot p auto).groups = s0.groups := by
  unfold State.installPlan
  dsimp only
  generalize hs : (if auto = true then _ else s0) = s
  have h : s.groups = s0.groups := by
    subst hs
    (repeat' split) <;> simp
  generalize hc : (s.installSets p.sources).configPlan p = c
  have h1 : c.groups = s0.groups := by simp [← hc, h]
  refine (State.noteBanks_groups _).trans ?_
  split
  · exact (State.setFields_groups _ _).trans h1
  · exact (State.setFields_groups _ _).trans h1

@[simp] theorem State.breakFrames_groups (s : State) (p : Nat) :
    (s.breakFrames p).groups = s.groups := by simp [State.breakFrames]

@[simp] theorem State.trainDp_groups (s : State) (p : Nat) (k : Sink) :
    (s.trainDp p k).groups = s.groups := by simp [State.trainDp]

@[simp] theorem State.startEgress_groups (s : State) (o : Nat) : (s.startEgress o).groups = s.groups := by
  unfold State.startEgress
  split
  · dsimp only
    split
    · exact (State.trainDp_groups ..).trans (foldl_groups (by simp) _ s)
    · exact foldl_groups (by simp) _ s
  · rfl
  · rfl
  · rfl

@[simp] theorem State.stopEgress_groups (s : State) (o : Nat) : (s.stopEgress o).groups = s.groups := by
  unfold State.stopEgress
  split
  · exact foldl_groups (by intros; rfl) _ s
  · rfl
  · rfl
  · rfl

@[simp] theorem State.enableOutput_groups (s : State) (wf o : Nat) :
    (s.enableOutput wf o).groups = s.groups := by simp [State.enableOutput]

@[simp] theorem State.disableOutput_groups (s : State) (o : Nat) :
    (s.disableOutput o).groups = s.groups := by simp [State.disableOutput]

@[simp] theorem State.stopPort_groups (s : State) (p : Nat) : (s.stopPort p).groups = s.groups := by
  unfold State.stopPort
  dsimp only
  generalize hs1 : List.foldl _ s (s.port p).rx = s1
  have h1 : s1.groups = s.groups := by
    rw [← hs1]
    refine foldl_groups (fun t f => ?_) _ s
    split <;> simp
  generalize hs2 : List.foldl _ s1 _ = s2
  have h2 : s2.groups = s1.groups := by
    rw [← hs2]
    refine foldl_groups (fun t l => ?_) _ s1
    simp
  simp [h1, h2]

@[simp] theorem State.applyEnables_groups (s : State) (old : State) (wf : Nat) :
    (s.applyEnables old wf).groups = s.groups := by
  unfold State.applyEnables
  refine (foldl_groups (fun u o => u.enableOutput_groups wf o) _ _).trans ?_
  refine (foldl_groups State.tryStartPort_groups _ _).trans ?_
  refine (foldl_groups State.enableContext_groups _ _).trans ?_
  refine (foldl_groups State.enableCamPort_groups _ _).trans ?_
  refine (foldl_groups State.stopPort_groups _ _).trans ?_
  refine (foldl_groups State.disableContext_groups _ _).trans ?_
  refine (foldl_groups State.disableCamPort_groups _ _).trans ?_
  exact foldl_groups State.disableOutput_groups _ s

@[simp] theorem State.configWide_groups (s : State) (p : Pending) : (s.configWide p).groups = s.groups := by
  unfold State.configWide
  split <;> simp

@[simp] theorem State.coverOutputs_groups (s : State) : s.coverOutputs.groups = s.groups := by simp [State.coverOutputs]

@[simp] theorem State.configAt_groups (s : State) (o of : Nat) :
    (s.configAt o of).groups = s.groups := foldl_groups (fun t p => by
    dsimp only
    rw [State.applyFields_groups]
    (repeat' split) <;> simp) _ s

/-! ### Commits -/

@[simp] theorem State.overlay_groups (t : State) (p : Pending) : (t.overlay p).groups = t.groups := by
  unfold State.overlay
  dsimp only
  split <;> simp

@[simp] theorem State.resulting_groups (s : State) : s.resulting.groups = s.groups := by simp [State.resulting]

@[simp] theorem State.applyNow_groups (s : State) (fs : List Staged) :
    (s.applyNow fs).groups = s.groups := by simp [State.applyNow]

@[simp] theorem State.freeze_groups (s : State) (p : Pending) : (s.freeze p).groups = s.groups := by simp [State.freeze]

@[simp] theorem State.unfreeze_groups (s : State) (p : Pending) : (s.unfreeze p).groups = s.groups := by simp [State.unfreeze]

@[simp] theorem State.refuseTicket_groups (s : State) (event id : Nat) (c : Code) (pair member : Nat) :
    (s.refuseTicket event id c pair member).groups = s.groups := by
  unfold State.refuseTicket
  split <;> simp

@[simp] theorem State.dropCommit_groups (s : State) (id : Nat) : (s.dropCommit id).groups = s.groups := by simp [State.dropCommit]

@[simp] theorem State.setCommit_groups (s : State) (p : Pending) : (s.setCommit p).groups = s.groups := by simp [State.setCommit]

@[simp] theorem State.requestCommit_groups (s : State) (slot target : Nat) (wall : Bool) :
    (s.requestCommit slot target wall).1.groups = s.groups := by
  unfold State.requestCommit
  dsimp only
  split <;> simp

@[simp] theorem commitOp_groups : OpKeepsGroups (commitOp) := by
  intro s ss i v
  simp only [commitOp]
  split <;> simp

@[simp] theorem discardOp_groups : OpKeepsGroups (discardOp) := by
  intro s ss i v
  simp [discardOp]

@[simp] theorem State.withArmed_groups (s : State) (p : Pending) (atOnce' : List Staged) :
    (s.withArmed p atOnce').groups = s.groups := by simp [State.withArmed]

@[simp] theorem State.askDomains_groups (s : State) (p : Pending) (atOnce' : List Staged) :
    (s.askDomains p atOnce').groups = s.groups := by simp [State.askDomains]

@[simp] theorem State.takeCommit_groups (s : State) (p : Pending) (atOnce' : List Staged) :
    (s.takeCommit p atOnce').groups = s.groups := by
  simp only [State.takeCommit]
  (repeat' split) <;> simp

@[simp] theorem State.aheadOf_groups (s : State) (p : Pending) : (s.aheadOf p).groups = s.groups := by simp [State.aheadOf]

@[simp] theorem State.failLockIn_groups (s : State) (p : Pending) (c : Code) (pair : Nat) :
    (s.failLockIn p c pair).groups = s.groups := by simp [State.failLockIn]

@[simp] theorem State.lockIn_groups (s : State) (p : Pending) : (s.lockIn p).groups = s.groups := by
  unfold State.lockIn
  (repeat' split) <;> simp

@[simp] theorem State.takeAuto_groups (s : State) (p : Plan) : (s.takeAuto p).groups = s.groups := by simp [State.takeAuto]

@[simp] theorem State.lockInFor_groups (s : State) (o of : Nat) :
    (s.lockInFor o of).groups = s.groups := foldl_groups (fun t p => by
    split
    · (repeat' split) <;> simp
    · rfl) _ s

@[simp] theorem State.cancelCommit_groups (s : State) (id : Nat) : (s.cancelCommit id).groups = s.groups := by
  simp only [State.cancelCommit]
  (repeat' split) <;> simp

@[simp] theorem execCommit_groups (s : State) (ss v : Nat) : OutKeepsGroups s (execCommit ss v s) := whenManaged_groups (by simp)

@[simp] theorem execDiscardShadow_groups (s : State) (ss v : Nat) :
    OutKeepsGroups s (execDiscardShadow ss v s) := whenManaged_groups (by simp)

/-! ### The wall -/

@[simp] theorem State.broadcast_groups (s : State) (step : Nat) (m : WallMsg) :
    (s.broadcast step m).groups = s.groups := by simp [State.broadcast]

@[simp] theorem State.listen_groups (s : State) : s.listen.groups = s.groups := by simp [State.listen]

@[simp] theorem State.exclude_groups (s : State) (serial : Nat) : (s.exclude serial).groups = s.groups := by simp [State.exclude]

@[simp] theorem State.clash_groups (s : State) (pairState serial : Nat) : (s.clash pairState serial).groups = s.groups := by
  unfold State.clash
  (repeat' split) <;> simp

@[simp] theorem State.takePresence_groups (s : State) (port aliasNo member pairState serial : Nat) :
    (s.takePresence port aliasNo member pairState serial).groups = s.groups := by simp [State.takePresence]

@[simp] theorem State.sendPresence_groups (s : State) : s.sendPresence.groups = s.groups := by simp [State.sendPresence]

@[simp] theorem memberNumberOp_groups : OpKeepsGroups (memberNumberOp) := by
  intro s ss i v
  simp [memberNumberOp]

@[simp] theorem State.lead_groups (s : State) (id : Nat) : (s.lead id).groups = s.groups := by
  unfold State.lead
  split <;> simp

@[simp] theorem State.takeReady_groups (s : State) (m : WallMsg) : (s.takeReady m).groups = s.groups := by
  unfold State.takeReady
  split <;> simp

@[simp] theorem State.takeRefuse_groups (s : State) (m : WallMsg) : (s.takeRefuse m).groups = s.groups := by
  unfold State.takeRefuse
  split <;> simp

@[simp] theorem State.decideWall_groups (s : State) (p : Pending) : (s.decideWall p).groups = s.groups := by
  unfold State.decideWall
  split <;> simp

@[simp] theorem State.servePrepare_groups (s : State) (r : Pending) (port tag : Nat) :
    (s.servePrepare r port tag).groups = s.groups := by
  simp only [State.servePrepare]
  (repeat' split) <;> simp

@[simp] theorem State.takePrepare_groups (s : State) (port : Nat) (m : WallMsg) :
    (s.takePrepare port m).groups = s.groups :=
  by simp only [State.takePrepare, groups_ite, State.servePrepare_groups, State.addOther_groups, ite_self]

@[simp] theorem State.takeGo_groups (s : State) (m : WallMsg) : (s.takeGo m).groups = s.groups := by
  unfold State.takeGo
  split <;> simp

@[simp] theorem State.takeAbort_groups (s0 : State) (m : WallMsg) : (s0.takeAbort m).groups = s0.groups := by
  simp only [State.takeAbort]
  (repeat' split) <;> simp

@[simp] theorem State.reportApplied_groups (s : State) (old : State) :
    (s.reportApplied old).groups = s.groups := foldl_groups (fun t p => by (repeat' split) <;> simp) _ s

@[simp] theorem State.serveRequest_groups (s : State) (r : Pending) : (s.serveRequest r).groups = s.groups := by
  unfold State.serveRequest
  split <;> simp

@[simp] theorem execCommitAccept_groups (s : State) : OutKeepsGroups s (execCommitAccept s) := by
  unfold execCommitAccept
  refine whenManaged_groups ?_
  (repeat' split) <;> simp

@[simp] theorem cancelOp_groups : OpKeepsGroups (cancelOp) := by
  intro s ss i v
  simp only [cancelOp]
  (repeat' split) <;> simp

@[simp] theorem execCancel_groups (s : State) (ss ticket : Nat) :
    OutKeepsGroups s (execCancel ss ticket s) := whenManaged_groups (by simp)

@[simp] theorem whenTrusted_groups {f : State → State} (s : State) (p kind : Nat) (hf : ∀ u, (f u).groups = u.groups) :
    OutKeepsGroups s (whenTrusted p kind s f) := whenManaged_groups (by dsimp only; split <;> simp [hf])

@[simp] theorem execPrepare_groups (s : State) (port : Fin 24) (m : WallMsg) :
    OutKeepsGroups s (execPrepare port m s) := whenTrusted_groups _ _ _ (by simp)

@[simp] theorem execReady_groups (s : State) (port : Fin 24) (m : WallMsg) :
    OutKeepsGroups s (execReady port m s) := whenTrusted_groups _ _ _ (by simp)

@[simp] theorem execRefuse_groups (s : State) (port : Fin 24) (m : WallMsg) :
    OutKeepsGroups s (execRefuse port m s) := whenTrusted_groups _ _ _ (by simp)

@[simp] theorem execDecisionDeadline_groups (s : State) (ticket : Nat) : OutKeepsGroups s (execDecisionDeadline ticket s) := by
  unfold execDecisionDeadline
  refine whenManaged_groups ?_
  split <;> simp

@[simp] theorem execGo_groups (s : State) (port : Fin 24) (m : WallMsg) :
    OutKeepsGroups s (execGo port m s) := whenTrusted_groups _ _ _ (by simp)

@[simp] theorem execAbort_groups (s : State) (port : Fin 24) (m : WallMsg) :
    OutKeepsGroups s (execAbort port m s) := whenTrusted_groups _ _ _ (by simp)

@[simp] theorem State.takeApplied_groups (s : State) (m : WallMsg) :
    (s.takeApplied m).groups = s.groups := by simp [State.takeApplied]

@[simp] theorem execApplied_groups (s : State) (port : Fin 24) (m : WallMsg) :
    OutKeepsGroups s (execApplied port m s) := whenTrusted_groups _ _ _ (by simp)

@[simp] theorem execAppliedReportTimeout_groups (s : State) (ticket : Nat) :
    OutKeepsGroups s (execAppliedReportTimeout ticket s) := by
  unfold execAppliedReportTimeout
  refine whenManaged_groups ?_
  split <;> simp

@[simp] theorem execWallPresence_groups (s : State) (port : Fin 24) (wallAlias member _role pairState serial : Nat) :
    OutKeepsGroups s (execWallPresence port wallAlias member _role pairState serial s) := whenTrusted_groups _ _ _ (by simp)

@[simp] theorem execPresenceSend_groups (s : State) : OutKeepsGroups s (execPresenceSend s) := whenManaged_groups (by simp)

@[simp] theorem execMemberPresenceTimeout_groups (s : State) (member : Fin 64) :
    OutKeepsGroups s (execMemberPresenceTimeout member s) := whenManaged_groups (by simp)

@[simp] theorem execJoinListenEnd_groups (s : State) : OutKeepsGroups s (execJoinListenEnd s) := by
  unfold execJoinListenEnd
  refine whenManaged_groups ?_
  split <;> simp

@[simp] theorem execMemberNumberWrite_groups (s : State) (ss v : Nat) :
    OutKeepsGroups s (execMemberNumberWrite ss v s) := whenManaged_groups (by simp)

/-! ### Placements -/

@[simp] theorem State.asStarted_groups (s : State) : s.asStarted.groups = s.groups := by simp [State.asStarted]

@[simp] theorem State.endPlacing_groups (s : State) : s.endPlacing.groups = s.groups := by simp [State.endPlacing]

@[simp] theorem State.placed_groups (s : State) (slot : Nat) (scene : Bytes) (timeUs : Nat) (host : Bool) :
    (s.placed slot scene timeUs host).groups = s.groups := by
  unfold State.placed
  split <;> simp

@[simp] theorem State.dried_groups (s : State) (scene : Bytes) (timeUs : Nat) : (s.dried scene timeUs).groups = s.groups := by
  unfold State.dried
  split <;> simp

@[simp] theorem State.replanned_groups (s : State) (p : Plan) : (s.replanned p).groups = s.groups := by simp [State.replanned]

@[simp] theorem State.autoPlaced_groups (s : State) (scene : Bytes) (epoch timeUs : Nat) :
    (s.autoPlaced scene epoch timeUs).groups = s.groups := by
  unfold State.autoPlaced
  (repeat' split) <;> simp

@[simp] theorem State.startReplan_groups (s : State) : s.startReplan.groups = s.groups := by
  unfold State.startReplan
  (repeat' split) <;> simp

@[simp] theorem State.moveEngine_groups (s : State) (a b : Nat) :
    (s.moveEngine a b).groups = s.groups := by simp [State.moveEngine]

@[simp] theorem State.switchBack_groups (s : State) (e : Nat) : (s.switchBack e).groups = s.groups := by
  unfold State.switchBack
  split <;> simp

@[simp] theorem State.switchBackAt_groups (s : State) (o of : Nat) : (s.switchBackAt o of).groups = s.groups := by
  unfold State.switchBackAt
  split <;> simp

@[simp] theorem State.startRecovery_groups (s : State) (r : Recovery) : (s.startRecovery r).groups = s.groups := by
  unfold State.startRecovery
  split <;> simp

@[simp] theorem execPlace_groups (s : State) (ss v : Nat) : OutKeepsGroups s (execPlace ss v s) := whenManaged_groups (by simp)

@[simp] theorem execDryRun_groups (s : State) (ss : Nat) : OutKeepsGroups s (execDryRun ss s) := whenManaged_groups (by simp)

@[simp] theorem execPlacementDone_groups (s : State) (timeUs : Nat) : OutKeepsGroups s (execPlacementDone timeUs s) := by
  unfold execPlacementDone
  refine whenManaged_groups ?_
  (repeat' split) <;> simp

@[simp] theorem execEmptySlot_groups (s : State) (ss v : Nat) :
    OutKeepsGroups s (execEmptySlot ss v s) := whenManaged_groups (by simp)

@[simp] theorem execAutomaticReplanStart_groups (s : State) :
    OutKeepsGroups s (execAutomaticReplanStart s) := whenManaged_groups (by simp)

@[simp] theorem execAutomaticReplanDone_groups (s : State) (timeUs : Nat) :
    OutKeepsGroups s (execAutomaticReplanDone timeUs s) := by
  unfold execAutomaticReplanDone
  refine whenManaged_groups ?_
  (repeat' split) <;> simp

@[simp] theorem execRecoveryActionStart_groups (s : State) : OutKeepsGroups s (execRecoveryActionStart s) := by
  unfold execRecoveryActionStart
  refine whenManaged_groups ?_
  (repeat' split) <;> simp

@[simp] theorem testEngineOp_groups : OpKeepsGroups (testEngineOp) := by
  intro s ss i v
  simp [testEngineOp]

@[simp] theorem execTestEngine_groups (s : State) (ss v : Nat) :
    OutKeepsGroups s (execTestEngine ss v s) := whenManaged_groups (by simp)

@[simp] theorem State.endTest_groups (s : State) (e : Nat) (passed : Bool) :
    (s.endTest e passed).groups = s.groups := by simp [State.endTest]

@[simp] theorem execEngineTestDone_groups (s : State) (passed : Bool) : OutKeepsGroups s (execEngineTestDone passed s) := by
  unfold execEngineTestDone
  refine whenManaged_groups ?_
  split <;> simp

@[simp] theorem switchBackEngineOp_groups : OpKeepsGroups (switchBackEngineOp) := by
  intro s ss i v
  simp [switchBackEngineOp]

@[simp] theorem execSwitchBackEngine_groups (s : State) (ss v : Nat) :
    OutKeepsGroups s (execSwitchBackEngine ss v s) := whenManaged_groups (by simp)

/-! ### Seals -/

@[simp] theorem State.takeRefs_groups (s : State) (draws : List Draw) :
    (s.takeRefs draws).groups = s.groups := foldl_groups (fun t a => by split <;> simp) _ s

/-! ### Outputs -/

@[simp] theorem State.outputEvent_groups (s : State) (o bit : Nat) :
    (s.outputEvent o bit).groups = s.groups := by simp [State.outputEvent]

@[simp] theorem State.sendHeader_groups (s : State) (o seq : Nat) (k : Bank) (again veil : Bool) :
    (s.sendHeader o seq k again veil).groups = s.groups := by simp [State.sendHeader]

@[simp] theorem State.noteLimit_groups (s : State) (o of : Nat) :
    (s.noteLimit o of).groups = s.groups := by simp [State.noteLimit]

@[simp] theorem State.noteTe_groups (s : State) (o of : Nat) (c : Code) :
    (s.noteTe o of c).groups = s.groups := by simp [State.noteTe]

@[simp] theorem State.cutFrame_groups (s : State) (o : Nat) : (s.cutFrame o).groups = s.groups := by simp [State.cutFrame]

@[simp] theorem State.closeFrame_groups (s : State) (o : Nat) : (s.closeFrame o).groups = s.groups := by
  unfold State.closeFrame
  dsimp only
  generalize hs : (if (s.output o).started && _ && _ then _ else _) = s2
  have h : s2.groups = s.groups := by subst hs; simp
  split
  · exact h
  · exact (foldl_groups (by simp) _ _).trans h

@[simp] theorem State.restartPlacing_groups (s : State) : s.restartPlacing.groups = s.groups := by simp [State.restartPlacing]

@[simp] theorem State.leaveSubst_groups (s : State) (outs : List Nat) : (s.leaveSubst outs).groups = s.groups := by
  unfold State.leaveSubst
  split <;> simp

@[simp] theorem State.openFrame_groups (s : State) (o of : Nat) (kind : FrameKind) :
    (s.openFrame o of kind).groups = s.groups := by simp [State.openFrame]

@[simp] theorem State.noteFresh_groups (s : State) (o : Nat) : (s.noteFresh o).groups = s.groups := by simp [State.noteFresh]

@[simp] theorem execHoldLimitReached_groups (s : State) (output : Fin 32) :
    OutKeepsGroups s (execHoldLimitReached output s) := whenLive_groups (by simp)

@[simp] theorem execLineMatch_groups (s : State) (output : Fin 32) :
    OutKeepsGroups s (execLineMatch output s) := whenLive_groups (by simp)

@[simp] theorem State.finishSwage_groups (s : State) (o : Nat) :
    (s.finishSwage o).groups = s.groups := by simp [State.finishSwage]

@[simp] theorem execStartOfBlanking_groups (s : State) (output : Fin 32) :
    OutKeepsGroups s (execStartOfBlanking output s) := whenLive_groups (by simp)

@[simp] theorem State.sendLines_groups (s : State) (o : Nat) : (s.sendLines o).groups = s.groups := by
  unfold State.sendLines
  dsimp only
  split
  · exact foldl_groups (by intros; rfl) _ s
  · exact foldl_groups (by intros; rfl) _ s
  · rfl

@[simp] theorem State.finishFrame_groups (s : State) (o : Nat) :
    (s.finishFrame o).groups = s.groups := by simp [State.finishFrame]

@[simp] theorem execFrameDone_groups (s : State) (output : Fin 32) :
    OutKeepsGroups s (execFrameDone output s) := whenLive_groups (by simp)

@[simp] theorem latchClearOp_groups : OpKeepsGroups (latchClearOp) := by
  intro s ss i v
  simp [latchClearOp]

@[simp] theorem execEventLatchClear_groups (s : State) (ss v : Nat) :
    OutKeepsGroups s (execEventLatchClear ss v s) := whenManaged_groups (by simp)

@[simp] theorem execWitnessEchoTimeout_groups (s : State) (output : Fin 32) (seq : Nat) :
    OutKeepsGroups s (execWitnessEchoTimeout output seq s) := by
  unfold execWitnessEchoTimeout
  refine whenLive_groups ?_
  simp only []
  (repeat' split) <;> simp

@[simp] theorem State.switchOff_groups (s : State) (o : Nat) (d : Draw) (x y : Nat) (underran : Bool) :
    (s.switchOff o d x y underran).groups = s.groups := by simp [State.switchOff]

@[simp] theorem State.switchOffNext_groups (s : State) (o : Nat) (d : Draw) (underran : Bool) :
    (s.switchOffNext o d underran).groups = s.groups := by simp [State.switchOffNext]

@[simp] theorem State.thirdUnderrun_groups (s : State) (o inst of : Nat) (d : Draw) :
    (s.thirdUnderrun o inst of d).groups = s.groups := by simp [State.thirdUnderrun]

@[simp] theorem State.noteUnderrun_groups (s : State) (o : Nat) (d : Draw) (of : Nat) :
    (s.noteUnderrun o d of).groups = s.groups := by simp [State.noteUnderrun]

@[simp] theorem State.underrun_groups (s : State) (o : Nat) (d : Draw) (x y : Nat) :
    (s.underrun o d x y).groups = s.groups := by simp [State.underrun]

@[simp] theorem State.refuseLayer_groups (s : State) (o : Nat) (d : Draw) :
    (s.refuseLayer o d).groups = s.groups := by simp [State.refuseLayer]

@[simp] theorem execLayerUnderrun_groups (s : State) (engine : Fin 18) (layer : Fin 24) (x y : Nat) :
    OutKeepsGroups s (execLayerUnderrun engine layer x y s) := by
  unfold execLayerUnderrun
  refine whenLive_groups ?_
  split <;> simp

@[simp] theorem State.fillFrames_groups (s : State) (line : Nat) (outs : List Nat) :
    (s.fillFrames line outs).groups = s.groups := foldl_groups (by simp) _ s

@[simp] theorem State.noReserve_groups (s : State) (e : Nat) (outs : List Nat) (strikes : Bool) :
    (s.noReserve e outs strikes).groups = s.groups := by
  unfold State.noReserve
  have h := foldl_groups (f := fun (t : State) o => t.setOutput o { t.output o with noEngine := true }) (by intros; rfl) outs
    (s.record 0x071 (some (so 0x03)) e 0xFF)
  split <;> simp [h]

@[simp] theorem State.serveFailed_groups (s : State) (e : Nat) (outs : List Nat) (busy said : Bool) :
    (s.serveFailed e outs busy said).groups = s.groups := by
  unfold State.serveFailed
  split <;> simp

@[simp] theorem State.failEngine_groups (s : State) (e cause line : Nat) : (s.failEngine e cause line).groups = s.groups := by
  simp only [State.failEngine]
  (repeat' split) <;> simp

@[simp] theorem State.serveWaiting_groups (s : State) : s.serveWaiting.groups = s.groups := by simp [State.serveWaiting]

@[simp] theorem execEngineFailure_groups (s : State) (engine : Fin 18) (deadline : Bool) (line : Nat) :
    OutKeepsGroups s (execEngineFailure engine deadline line s) := whenLive_groups (by simp)

@[simp] theorem State.armReserve_groups (s : State) (x : Subst) (r : Nat) :
    (s.armReserve x r).groups = s.groups := by simp [State.armReserve]

@[simp] theorem execEngineSubstitutionArm_groups (s : State) (engine : Fin 18) :
    OutKeepsGroups s (execEngineSubstitutionArm engine s) := by
  unfold execEngineSubstitutionArm
  refine whenManaged_groups ?_
  (repeat' split) <;> simp

/-! ### Ports, tables and writeback -/

@[simp] theorem State.noteLink_groups (s : State) (o : Nat) (c : Code) :
    (s.noteLink o c).groups = s.groups := by simp [State.noteLink]

@[simp] theorem execHotPlugAssert_groups (s : State) (port : Fin 8) (sinkRate : Fin 4) (sinkLink : SinkLink) (edid : Bytes) :
    OutKeepsGroups s (execHotPlugAssert port sinkRate sinkLink edid s) := whenLive_groups (by simp)

@[simp] theorem execHotPlugLoss_groups (s : State) (port : Fin 8) (lowUs : Nat) :
    OutKeepsGroups s (execHotPlugLoss port lowUs s) := by
  unfold execHotPlugLoss
  refine whenLive_groups ?_
  simp only []
  (repeat' split) <;> simp

@[simp] theorem execIrqHpd_groups (s : State) (port : Fin 8) (linkLost : Bool) :
    OutKeepsGroups s (execIrqHpd port linkLost s) := by
  unfold execIrqHpd
  refine whenLive_groups ?_
  split <;> simp

@[simp] theorem execDpTrainingDone_groups (s : State) (port : Fin 8) (result : TrainEnd) :
    OutKeepsGroups s (execDpTrainingDone port result s) := by
  unfold execDpTrainingDone
  refine whenLive_groups ?_
  (repeat' split) <;> simp

@[simp] theorem execDsiInitDone_groups (s : State) (port : Fin 4) (acknowledged : Bool) :
    OutKeepsGroups s (execDsiInitDone port acknowledged s) := by
  refine whenLive_groups ?_
  split
  · rfl
  · dsimp only
    split
    · rfl
    · generalize hs : List.foldl _ _ _ = s1
      have h : s1.groups = s.groups := by
        rw [← hs]
        refine (foldl_groups (by intros; rfl) _ _).trans ?_
        split <;> rfl
      simp [h]

@[simp] theorem execTearingEffect_groups (s : State) (port : Fin 4) : OutKeepsGroups s (execTearingEffect port s) := by
  unfold execTearingEffect
  refine whenLive_groups ?_
  split <;> simp

@[simp] theorem tableOp_groups : OpKeepsGroups (tableOp) := by
  intro s ss i v
  simp [tableOp]

@[simp] theorem execTableLoad_groups (s : State) (ss : Nat) (blob : Bytes) :
    OutKeepsGroups s (execTableLoad ss blob s) := whenManaged_groups (by simp)

@[simp] theorem State.oldestOrigin_groups (s : State) (ds : List Draw) : (s.oldestOrigin ds).2.groups = s.groups := by
  unfold State.oldestOrigin
  split <;> simp

@[simp] theorem State.startWriteback_groups (s : State) (e o of : Nat) : (s.startWriteback e o of).groups = s.groups := by
  simp only [State.startWriteback]
  (repeat' split) <;> simp

@[simp] theorem execWritebackRegionStart_groups (s : State) (engine : Fin 16) :
    OutKeepsGroups s (execWritebackRegionStart engine s) := by
  unfold execWritebackRegionStart
  refine whenLive_groups ?_
  split <;> simp

@[simp] theorem State.endWriteback_groups (s : State) (e o i : Nat) : (s.endWriteback e o i).groups = s.groups := by
  unfold State.endWriteback
  simp only [State.publish_groups, State.setEngine_groups, State.setIngot_groups]
  exact foldl_groups (by intros; rfl) _ s

@[simp] theorem execWritebackRegionEnd_groups (s : State) (engine : Fin 16) :
    OutKeepsGroups s (execWritebackRegionEnd engine s) := by
  unfold execWritebackRegionEnd
  refine whenLive_groups ?_
  split <;> simp

/-! ### Requests to memory -/

@[simp] theorem State.loseWriteback_groups (s : State) (e address : Nat) :
    (s.loseWriteback e address).groups = s.groups := by simp [State.loseWriteback]

@[simp] theorem State.loseInbound_groups (s : State) (p address : Nat) : (s.loseInbound p address).groups = s.groups := by
  simp only [State.loseInbound]
  (repeat' split) <;> simp

@[simp] theorem State.loseStaging_groups (s : State) (c address : Nat) : (s.loseStaging c address).groups = s.groups := by
  simp only [State.loseStaging]
  (repeat' split) <;> simp

@[simp] theorem State.loseFrame_groups (s : State) (port address : Nat) :
    (s.loseFrame port address).groups = s.groups := by simp [State.loseFrame]

@[simp] theorem State.loseRepeat_groups (s : State) (port address : Nat) :
    (s.loseRepeat port address).groups = s.groups := by simp [State.loseRepeat]

@[simp] theorem State.loseRequest_groups (s : State) (port cls address : Nat) (scanCode : Code) :
    (s.loseRequest port cls address scanCode).groups = s.groups := by simp [State.loseRequest]

@[simp] theorem State.refuseRequest_groups (s : State) (port : Nat) (r : FabReq) (c : Code) :
    (s.refuseRequest port r c).groups = s.groups := by simp [State.refuseRequest]

@[simp] theorem State.failLayer_groups (s : State) (o : Nat) (d : Draw) (i : Nat) :
    (s.failLayer o d i).groups = s.groups := by simp [State.failLayer]

@[simp] theorem State.readError_groups (s : State) (port cls address syndrome : Nat) :
    (s.readError port cls address syndrome).groups = s.groups := by
  simp only [State.readError]
  (repeat' split) <;> simp

@[simp] theorem State.putHostRead_groups (s : State) (old new : HostRead) :
    (s.putHostRead old new).groups = s.groups := by simp [State.putHostRead]

@[simp] theorem State.abortRead_groups (s : State) (port : Nat) (r : FabReq) : (s.abortRead port r).groups = s.groups := by
  unfold State.abortRead
  (repeat' split) <;> simp

@[simp] theorem State.hostData_groups (s : State) (r : FabReq) (bs : Bytes) : (s.hostData r bs).groups = s.groups := by
  unfold State.hostData
  split <;> simp

@[simp] theorem State.present_groups (s : State) (port : Nat) (r : FabReq) : (s.present port r).groups = s.groups := by
  simp only [State.present]
  (repeat' split) <;> simp

@[simp] theorem execFabricRequest_groups (s : State) (port : Fin 42) (r : FabReq) :
    OutKeepsGroups s (execFabricRequest port r s) := whenFabric_groups (by simp)

@[simp] theorem State.askBurst_groups (s : State) (u : Nat) : (s.askBurst u).groups = s.groups := by simp [State.askBurst]

@[simp] theorem execFabricGrant_groups (s : State) (target : Fin 25) : OutKeepsGroups s (execFabricGrant target s) := by
  unfold execFabricGrant
  refine whenFabric_groups ?_
  (repeat' split) <;> simp

@[simp] theorem State.deliverData_groups (s : State) (x : FabItem) (bs : Bytes) :
    (s.deliverData x bs).groups = s.groups := by simp [State.deliverData]

@[simp] theorem State.completeItem_groups (s : State) (x : FabItem) (corrected : Bool) :
    (s.completeItem x corrected).groups = s.groups := by simp [State.completeItem]

@[simp] theorem State.endItem_groups (s : State) (x : FabItem) (result : MemEnd) : (s.endItem x result).groups = s.groups := by
  unfold State.endItem
  (repeat' split) <;> simp

@[simp] theorem execFabricCompletion_groups (s : State) (target : Fin 25) (port : Fin 42) (id : Nat) (result : MemEnd) :
    OutKeepsGroups s (execFabricCompletion target port id result s) := by
  unfold execFabricCompletion
  refine whenFabric_groups ?_
  split <;> simp

@[simp] theorem execClassBRefusal_groups (s : State) (port : Fin 42) (target : Fin 25) (id : Nat) (overflow : Bool) :
    OutKeepsGroups s (execClassBRefusal port target id overflow s) := by
  unfold execClassBRefusal
  refine whenFabric_groups ?_
  split <;> simp

@[simp] theorem State.timeOut_groups (s : State) (x : FabItem) : (s.timeOut x).groups = s.groups := by simp [State.timeOut]

@[simp] theorem execClassCTimeout_groups (s : State) (port : Fin 42) (target : Fin 25) (id : Nat) :
    OutKeepsGroups s (execClassCTimeout port target id s) := by
  unfold execClassCTimeout
  refine whenFabric_groups ?_
  split <;> simp

@[simp] theorem execReadUncorrectable_groups (s : State) (port : Fin 42) (address syndrome : Nat) :
    OutKeepsGroups s (execReadUncorrectable port address syndrome s) := by
  unfold execReadUncorrectable
  refine whenFabric_groups ?_
  simp only []
  (repeat' split) <;> simp

/-! ### Scans -/

@[simp] theorem State.beginScan_groups (s : State) (u : Nat) (fresh : Bool) : (s.beginScan u fresh).1.groups = s.groups := by
  simp only [State.beginScan]
  (repeat' split) <;> simp

@[simp] theorem State.resumeScan_groups (s : State) (u : Nat) : (s.resumeScan u).1.groups = s.groups := by
  simp only [State.resumeScan]
  (repeat' split) <;> simp

@[simp] theorem scanControlOp_groups : OpKeepsGroups (scanControlOp) := by
  intro s ss i v
  simp [scanControlOp]

@[simp] theorem execStart_groups (s : State) (ss v : Nat) : OutKeepsGroups s (execStart ss v s) := whenManaged_groups (by simp)

@[simp] theorem execStartFresh_groups (s : State) (ss v : Nat) :
    OutKeepsGroups s (execStartFresh ss v s) := whenManaged_groups (by simp)

@[simp] theorem execSuspend_groups (s : State) (ss v : Nat) :
    OutKeepsGroups s (execSuspend ss v s) := whenManaged_groups (by simp)

@[simp] theorem execAbortScan_groups (s : State) (ss v : Nat) :
    OutKeepsGroups s (execAbortScan ss v s) := whenManaged_groups (by simp)

@[simp] theorem execScanBurstDone_groups (s : State) (unit : Fin 4) (result : MemEnd) :
    OutKeepsGroups s (execScanBurstDone unit result s) := by
  unfold execScanBurstDone
  refine whenFabric_groups ?_
  split <;> simp

/-! ### Power, reset, boot and live update, continued -/

@[simp] theorem State.closeSessions_groups (s : State) (which : Session → Bool) :
    (s.closeSessions which).groups = s.groups := by simp [State.closeSessions]

@[simp] theorem State.clearReady_groups (s : State) (bit : Nat) :
    (s.clearReady bit).groups = s.groups := by simp [State.clearReady]

@[simp] theorem State.clearCrucible_groups (s : State) : s.clearCrucible.groups = s.groups := by simp [State.clearCrucible]

@[simp] theorem State.serveEthernet_groups (s : State) : s.serveEthernet.groups = s.groups := by simp [State.serveEthernet]

@[simp] theorem State.domainUp_groups (s : State) (d : Nat) : (s.domainUp d).groups = s.groups := by
  unfold State.domainUp
  split
  · simp
  · simp
  · exact foldl_groups (by intros; rfl) _ s
  · exact foldl_groups (by intros; rfl) _ s
  · simp
  · simp
  · simp
  · simp
  · simp
  · simp
  · rfl

@[simp] theorem State.domainDown_groups (s : State) (d : Nat) : (s.domainDown d).groups = s.groups := by
  unfold State.domainDown
  split
  · rfl
  · exact foldl_groups (by intros; rfl) _ s
  · exact foldl_groups (by intros; rfl) _ s
  · simp
  · simp
  · simp
  · rfl

@[simp] theorem State.losePortClock_groups (s : State) (p : Nat) :
    (s.losePortClock p).groups = s.groups := by simp [State.losePortClock]

@[simp] theorem State.strikeDomain_groups (s : State) (d : Nat) : (s.strikeDomain d).groups = s.groups := by
  simp only [State.strikeDomain]
  (repeat' split) <;> simp

@[simp] theorem State.domainLost_groups (s0 : State) (d : Nat) (c : Code) : (s0.domainLost d c).groups = s0.groups := by
  unfold State.domainLost
  have dram (d' : Nat) : (List.foldl (fun (t : State) k => t.setReg 0x5400_02 k 6) (s0.strikeDomain d) (domainChannels d')).groups =
      s0.groups := (foldl_groups (by intros; rfl) _ _).trans (State.strikeDomain_groups s0 d)
  split <;> simp [dram]

@[simp] theorem State.failFunctions_groups (s : State) (d : Nat) (c : Code) :
    (s.failFunctions d c).groups = s.groups := by simp [State.failFunctions]

@[simp] theorem State.failDomain_groups (s : State) (d : Nat) (c : Code) :
    (s.failDomain d c).groups = s.groups := by simp [State.failDomain]

@[simp] theorem execDomainPowerGood_groups (s : State) (domain : Fin 24) :
    OutKeepsGroups s (execDomainPowerGood domain s) := .next (by simp)

@[simp] theorem execDomainPowerTimeout_groups (s : State) (domain : Fin 24) (pll : Bool) :
    OutKeepsGroups s (execDomainPowerTimeout domain pll s) := .next (by simp)

@[simp] theorem execPowerGoodLoss_groups (s : State) (domain : Fin 24) :
    OutKeepsGroups s (execPowerGoodLoss domain s) := .next (by simp)

@[simp] theorem execDomainHoldExpiry_groups (s : State) (domain : Fin 24) : OutKeepsGroups s (execDomainHoldExpiry domain s) := by
  refine .next ?_
  split <;> simp

@[simp] theorem execDomainPowerDownDone_groups (s : State) (domain : Fin 24) :
    OutKeepsGroups s (execDomainPowerDownDone domain s) := .next (by simp)

@[simp] theorem forceOnOp_groups : OpKeepsGroups (forceOnOp) := by
  intro s ss i v
  simp [forceOnOp]

@[simp] theorem execForceOn_groups (s : State) (ss v : Nat) :
    OutKeepsGroups s (execForceOn ss v s) := whenManaged_groups (by simp)

@[simp] theorem execMeasurementGate_groups (s : State) (raw : List (BitVec 16)) :
    OutKeepsGroups s (execMeasurementGate raw s) := by
  unfold execMeasurementGate
  refine whenLive_groups ?_
  split <;> simp

@[simp] theorem execCrystalStable_groups (s : State) : OutKeepsGroups s (execCrystalStable s) := .next (by simp)

@[simp] theorem execCrystalTimeout_groups (s : State) : OutKeepsGroups s (execCrystalTimeout s) := .next (by simp)

@[simp] theorem execRefclkLoss_groups (s : State) : OutKeepsGroups s (execRefclkLoss s) := .next (by simp)

@[simp] theorem State.endSwap_groups (s : State) : s.endSwap.groups = s.groups := by simp [State.endSwap]

@[simp] theorem execPciePerst_groups (s : State) (level : Bool) : OutKeepsGroups s (execPciePerst level s) := by
  refine .next ?_
  dsimp only
  (repeat' split) <;> simp

@[simp] theorem execFunctionLevelReset_groups (s : State) : OutKeepsGroups s (execFunctionLevelReset s) := whenLive_groups rfl

@[simp] theorem execPcieLinkChange_groups (s : State) (generation : Fin 5) (width : Fin 9) :
    OutKeepsGroups s (execPcieLinkChange generation width s) := whenLive_groups (by simp)

@[simp] theorem execEthernetLinkChange_groups (s : State) (port : Fin 2) (speed : Fin 4) :
    OutKeepsGroups s (execEthernetLinkChange port speed s) := whenLive_groups (by simp)

@[simp] theorem State.noteSlot_groups (s : State) (event : Nat) (c : Code) (k : Nat) :
    (s.noteSlot event c k).groups = s.groups := by simp [State.noteSlot]

@[simp] theorem State.startSlot_groups (s : State) (k : Nat) : (s.startSlot k).groups = s.groups := by simp [State.startSlot]

@[simp] theorem State.loadSaved_groups (s : State) (whole : State) (slot : Nat) (v : Val) :
    (State.loadSaved whole s slot v).groups = s.groups := by
  simp only [State.loadSaved]
  (repeat' split) <;> simp

@[simp] theorem State.loadStore_groups (s : State) : s.loadStore.groups = s.groups := by
  unfold State.loadStore
  simp only [groups_ite, State.setPairState_groups, State.setReg_groups, ite_self]
  refine (foldl_groups (by intros; rfl) _ _).trans ((foldl_groups (by intros; rfl) _ _).trans
    ((foldl_groups (by intros; rfl) _ _).trans ?_))
  split
  · rfl
  · exact (foldl_groups (by simp) _ _).trans (foldl_groups (by simp) _ _)

@[simp] theorem State.recoverTally_groups (s : State) : s.recoverTally.groups = s.groups := by
  unfold State.recoverTally
  split <;> simp

@[simp] theorem State.romStart_groups (s : State) (want : Nat) : (s.romStart want).groups = s.groups := by simp [State.romStart]

@[simp] theorem State.loadMemory_groups (s : State) :
    s.loadMemory.groups = s.groups := foldl_groups (fun t c => foldl_groups (fun u k => by split <;> rfl) _ t) _ s

@[simp] theorem State.bootUp_groups (s : State) : s.bootUp.groups = s.groups := by simp [State.bootUp]

@[simp] theorem execBootImageLoaded_groups (s : State) (slotA slotB : Bytes) :
    OutKeepsGroups s (execBootImageLoaded slotA slotB s) := .next (by simp)

@[simp] theorem State.servePaths_groups (s : State) : s.servePaths.groups = s.groups := by simp [State.servePaths]

@[simp] theorem State.failSwap_groups (s : State) : (s.failSwap h).groups = s.groups := by simp [State.failSwap]

@[simp] theorem State.mainLoop_groups (s : State) (handOffRead : Bool) : (s.mainLoop handOffRead).groups = s.groups := by
  unfold State.mainLoop
  (repeat' split) <;> simp

@[simp] theorem execFirmwareStartTimeout_groups (s : State) : OutKeepsGroups s (execFirmwareStartTimeout s) := by
  refine .next ?_
  split <;> simp

@[simp] theorem execManagementControllerStop_groups (s : State) :
    OutKeepsGroups s (execManagementControllerStop s) := whenManaged_groups (by simp)

@[simp] theorem imageChunkOp_groups : OpKeepsGroups (imageChunkOp) := by
  intro s ss i v
  simp [imageChunkOp]

@[simp] theorem execImageChunk_groups (s : State) (ss : Nat) (blob : Bytes) :
    OutKeepsGroups s (execImageChunk ss blob s) := whenManaged_groups (by simp)

@[simp] theorem verifySlotOp_groups : OpKeepsGroups (verifySlotOp) := by
  intro s ss i v
  simp [verifySlotOp]

@[simp] theorem execVerifySlot_groups (s : State) (ss v : Nat) :
    OutKeepsGroups s (execVerifySlot ss v s) := whenManaged_groups (by simp)

@[simp] theorem execVerifyDone_groups (s : State) : OutKeepsGroups s (execVerifyDone s) := by
  unfold execVerifyDone
  refine whenManaged_groups ?_
  split <;> simp

@[simp] theorem State.swap_groups (s : State) (dest : Nat) (back : Bool) :
    (s.swap dest back).groups = s.groups := by simp [State.swap]

@[simp] theorem activateOp_groups : OpKeepsGroups (activateOp) := by
  intro s ss i v
  simp [activateOp]

@[simp] theorem execActivate_groups (s : State) (ss v : Nat) :
    OutKeepsGroups s (execActivate ss v s) := whenManaged_groups (by simp)

@[simp] theorem confirmOp_groups : OpKeepsGroups (confirmOp) := by
  intro s ss i v
  simp [confirmOp]

@[simp] theorem execConfirm_groups (s : State) (ss v : Nat) :
    OutKeepsGroups s (execConfirm ss v s) := whenManaged_groups (by simp)

@[simp] theorem execTrialTimeout_groups (s : State) : OutKeepsGroups s (execTrialTimeout s) := by
  unfold execTrialTimeout
  refine whenManaged_groups ?_
  split <;> simp

@[simp] theorem execThermTrip_groups (s : State) : OutKeepsGroups s (execThermTrip s) := .next (by simp)

@[simp] theorem execThermTripRelease_groups (s : State) : OutKeepsGroups s (execThermTripRelease s) := .next (by simp)

/-! ### The pair -/

@[simp] theorem State.becomeActive_groups (s : State) : s.becomeActive.groups = s.groups := by simp [State.becomeActive]

@[simp] theorem State.enterResync_groups (s : State) : s.enterResync.groups = s.groups := by simp [State.enterResync]

@[simp] theorem execPairDecide_groups (s : State) : OutKeepsGroups s (execPairDecide s) := .next (by simp)

@[simp] theorem State.parkPort_groups (s : State) (p : Nat) : (s.parkPort p).groups = s.groups := by simp [State.parkPort]

@[simp] theorem State.fencePort_groups (s : State) (p : Nat) : (s.fencePort p).groups = s.groups := by simp [State.fencePort]

@[simp] theorem execPairActRise_groups (s : State) : OutKeepsGroups s (execPairActRise s) := .next (by simp)

@[simp] theorem execHeartbeatSend_groups (s : State) (mainLoop : Bool) : OutKeepsGroups s (execHeartbeatSend mainLoop s) := by
  refine .next ?_
  split <;> simp

@[simp] theorem State.notePartner_groups (s : State) (now : Nat) : (s.notePartner now).groups = s.groups := by
  simp only [State.notePartner]
  (repeat' split) <;> simp

@[simp] theorem execHeartbeatPulse_groups (s : State) (widthUs : Nat) : OutKeepsGroups s (execHeartbeatPulse widthUs s) := by
  refine .next ?_
  (repeat' split) <;> simp

@[simp] theorem execPartnerHeartbeatAbsent_groups (s : State) : OutKeepsGroups s (execPartnerHeartbeatAbsent s) := .next (by simp)

@[simp] theorem State.setSection_groups (s : State) (copy k : Nat) (x : Section') :
    (s.setSection copy k x).groups = s.groups := by simp [State.setSection]

@[simp] theorem State.bellowsError_groups (s : State) : s.bellowsError.groups = s.groups := by simp [State.bellowsError]

@[simp] theorem State.onBellows_groups (s : State) (frame : Bytes) (type : Nat) (f : State → State) (hf : ∀ u, (f u).groups =
    u.groups) :
    (s.onBellows frame type f).groups = s.groups := by simp [State.onBellows, hf]

@[simp] theorem State.takeSection_groups (s : State) (frame : Bytes) :
    (s.takeSection frame).groups = s.groups := by simp [State.takeSection]

@[simp] theorem execBellowsSectionData_groups (s : State) (frame : Bytes) :
    OutKeepsGroups s (execBellowsSectionData frame s) := .next (by simp)

@[simp] theorem State.selectHeader_groups (s : State) : s.selectHeader.groups = s.groups := by simp [State.selectHeader]

@[simp] theorem State.takeCommitFrame_groups (s : State) (frame : Bytes) :
    (s.takeCommitFrame frame).groups = s.groups := by simp [State.takeCommitFrame]

@[simp] theorem State.takeTimeFrame_groups (s : State) (frame : Bytes) :
    (s.takeTimeFrame frame).groups = s.groups := by simp [State.takeTimeFrame]

@[simp] theorem execBellowsTime_groups (s : State) (frame : Bytes) : OutKeepsGroups s (execBellowsTime frame s) := .next (by simp)

@[simp] theorem execPushTimer_groups (s : State) : OutKeepsGroups s (execPushTimer s) := whenManaged_groups (by simp)

@[simp] theorem State.imageLedger_groups (s : State) : s.imageLedger.groups = s.groups := by simp [State.imageLedger]

@[simp] theorem State.installLedger_groups (s : State) : s.installLedger.groups = s.groups := by simp [State.installLedger]

@[simp] theorem State.imageConfig_groups (s : State) : s.imageConfig.groups = s.groups := by
  unfold State.imageConfig
  (repeat' split) <;> simp

@[simp] theorem State.adoptPorts_groups (s : State) : s.adoptPorts.groups = s.groups := by
  unfold State.adoptPorts
  dsimp only
  split
  · rfl
  · exact (foldl_groups (by simp) _ _).trans ((State.settlePower_groups _).trans (foldl_groups (by simp) _ s))

@[simp] theorem execBellowsHeaderCommit_groups (s : State) (frame : Bytes) :
    OutKeepsGroups s (execBellowsHeaderCommit frame s) := .next (by simp)

@[simp] theorem State.declareLost_groups (s : State) : s.declareLost.groups = s.groups := by simp [State.declareLost]

@[simp] theorem execHeartbeatLoss_groups (s : State) : OutKeepsGroups s (execHeartbeatLoss s) := .next (by simp)

@[simp] theorem execBellowsYield_groups (s : State) (frame : Bytes) :
    OutKeepsGroups s (execBellowsYield frame s) := .next (by simp)

@[simp] theorem State.seedTime_groups (s : State) (hearthTicks : Nat) : (s.seedTime hearthTicks).groups = s.groups := by
  unfold State.seedTime
  split <;> simp

@[simp] theorem State.faultOutputs_groups (s : State) : s.faultOutputs.groups = s.groups := foldl_groups (by simp) _ s

@[simp] theorem State.waitOutputs_groups (s : State) : s.waitOutputs.groups = s.groups := foldl_groups (by simp) _ s

@[simp] theorem State.restorePort_groups (s : State) (p : Nat) : (s.restorePort p).groups = s.groups := by
  unfold State.restorePort
  split
  · rfl
  · exact foldl_groups (by intros; rfl) _ s

@[simp] theorem State.trainedRecord_groups (s : State) (c : Nat) :
    (s.trainedRecord c).2.groups = s.groups := by simp [State.trainedRecord]

@[simp] theorem State.writeOwn_groups (s : State) (ports : List Nat) :
    (s.writeOwn ports).groups = s.groups := by simp [State.writeOwn]

@[simp] theorem State.unparkPorts_groups (s : State) : s.unparkPorts.groups = s.groups := by simp [State.unparkPorts]

@[simp] theorem State.logLoss_groups (s : State) : s.logLoss.groups = s.groups := by simp [State.logLoss]

@[simp] theorem execTakeoverHoldLimit_groups (s : State) : OutKeepsGroups s (execTakeoverHoldLimit s) := by
  unfold execTakeoverHoldLimit
  refine whenLive_groups ?_
  split <;> simp

@[simp] theorem execResyncDone_groups (s : State) : OutKeepsGroups s (execResyncDone s) := whenManaged_groups (by simp)

@[simp] theorem handOverOp_groups : OpKeepsGroups (handOverOp) := by
  intro s ss i v
  simp [handOverOp]

@[simp] theorem execHandOver_groups (s : State) (ss v : Nat) :
    OutKeepsGroups s (execHandOver ss v s) := whenManaged_groups (by simp)

/-! ### Fuses and the store -/

@[simp] theorem State.fuseFailed_groups (s : State) (key : Nat) :
    (s.fuseFailed key).1.groups = s.groups := by simp [State.fuseFailed]

@[simp] theorem State.limitedChange_groups {f : Fuses → Fuses} (s : State) (key new left : Nat) (e : FuseEnd) :
    (s.limitedChange key new left e f).1.groups = s.groups := by
  unfold State.limitedChange
  split <;> simp

@[simp] theorem policyOp_groups (e : FuseEnd) : OpKeepsGroups (policyOp e) := by
  intro s ss i v
  simp [policyOp]

@[simp] theorem debugLockOp_groups (e : FuseEnd) : OpKeepsGroups (debugLockOp e) := by
  intro s ss i v
  simp [debugLockOp]

@[simp] theorem roleLockOp_groups (e : FuseEnd) : OpKeepsGroups (roleLockOp e) := by
  intro s ss i v
  simp [roleLockOp]

@[simp] theorem wallAliasOp_groups (e : FuseEnd) : OpKeepsGroups (wallAliasOp e) := by
  intro s ss i v
  simp [wallAliasOp]

@[simp] theorem minSecurityOp_groups (verified : Bool) : OpKeepsGroups (minSecurityOp verified) := by
  intro s ss i v
  simp [minSecurityOp]

@[simp] theorem revokeImageKeyOp_groups (verified : Bool) : OpKeepsGroups (revokeImageKeyOp verified) := by
  intro s ss i v
  simp [revokeImageKeyOp]

@[simp] theorem programKeyOp_groups (verified : Bool) : OpKeepsGroups (programKeyOp verified) := by
  intro s ss i v
  simp [programKeyOp]

@[simp] theorem revokeKeyOp_groups (verified : Bool) : OpKeepsGroups (revokeKeyOp verified) := by
  intro s ss i v
  simp [revokeKeyOp]

@[simp] theorem storeOp_groups (key : Nat) (e : StoreEnd) : OpKeepsGroups (storeOp key e) := by
  intro s ss i v
  simp only [storeOp]
  split <;> simp

@[simp] theorem saveConfigOp_groups (e : StoreEnd) : OpKeepsGroups (saveConfigOp e) := by
  intro s ss i v
  simp only [saveConfigOp]
  split <;> simp

@[simp] theorem eraseConfigOp_groups (e : StoreEnd) : OpKeepsGroups (eraseConfigOp e) := by
  intro s ss i v
  simp only [eraseConfigOp]
  split <;> simp

@[simp] theorem freely_groups {α : Type} {yes no : α} {op : α → WriteOp} (hop : ∀ b, OpKeepsGroups (op b)) :
    OpKeepsGroups (freely yes no op) := fun _ _ _ _ => hop _ _ _ _ _

/-! ### Sessions and requests -/

@[simp] theorem trustOp_groups : OpKeepsGroups (trustOp) := by
  intro s ss i v
  simp [trustOp]

@[simp] theorem polarityOp_groups : OpKeepsGroups (polarityOp) := by
  intro s ss i v
  simp [polarityOp]

@[simp] theorem spareOp_groups : OpKeepsGroups (spareOp) := by
  intro s ss i v
  simp [spareOp]

@[simp] theorem ptpPortsOp_groups : OpKeepsGroups (ptpPortsOp) := by
  intro s ss i v
  simp [ptpPortsOp]

@[simp] theorem State.hold_groups (s : State) : (s.hold h).groups = s.groups := by simp [State.hold]

@[simp] theorem execProgramIntegratorKey_groups (s : State) (ss : Nat) (key : Bytes) (verified : Bool) :
    OutKeepsGroups s (execProgramIntegratorKey ss key verified s) := whenManaged_groups (by simp)

@[simp] theorem execRevokeIntegratorKey_groups (s : State) (ss slot : Nat) (verified : Bool) :
    OutKeepsGroups s (execRevokeIntegratorKey ss slot verified s) := whenManaged_groups (by simp)

@[simp] theorem execMinSecurityVersionWrite_groups (s : State) (ss v : Nat) (verified : Bool) :
    OutKeepsGroups s (execMinSecurityVersionWrite ss v verified s) := whenManaged_groups (by simp)

@[simp] theorem execRevokeImageKey_groups (s : State) (ss slot : Nat) (verified : Bool) :
    OutKeepsGroups s (execRevokeImageKey ss slot verified s) := whenManaged_groups (by simp)

@[simp] theorem State.newSession_groups (s : State) (p : Peer) (level : Nat) (nonce : Bytes) :
    (s.newSession p level nonce).1.groups = s.groups := by simp [State.newSession]

@[simp] theorem State.noteOpen_groups (s : State) (p : Peer) (c : Code) : (s.noteOpen p c).groups = s.groups := by
  unfold State.noteOpen
  split <;> simp

@[simp] theorem State.serveOpen_groups (s : State) (p : Peer) (r : Req) : (s.serveOpen p r).1.groups = s.groups := by
  unfold State.serveOpen
  split
  · simp
  · exact State.newSession_groups ..

@[simp] theorem State.authFailed_groups (s : State) (x : Session) (c : Code) :
    (s.authFailed x c).groups = s.groups := by simp [State.authFailed]

@[simp] theorem State.serveRespond_groups (s : State) (x : Session) (r : Req) : (s.serveRespond x r).1.groups = s.groups := by
  unfold State.serveRespond
  (repeat' split) <;> simp

@[simp] theorem State.takeValue_groups (s : State) (x : Session) (key : Nat) (e : Entry) :
    (s.takeValue x key e).1.groups = s.groups := by simp [State.takeValue]

@[simp] theorem State.serveRead_groups (s : State) (x : Session) (r : Req) (e : Entry) :
    (s.serveRead x r e).1.groups = s.groups := by simp [State.serveRead]

@[simp] theorem State.keepResponse_groups (s : State) (ss txn : Nat) (frame : Bytes) :
    (s.keepResponse ss txn frame).groups = s.groups := by
  unfold State.keepResponse
  split <;> simp

@[simp] theorem State.deliver_groups (s : State) (p : Peer) (frame : Bytes) : (s.deliver p frame).groups = s.groups := by
  unfold State.deliver
  split
  · exact foldl_groups (by intros; rfl) _ s
  · simp
  · rfl

@[simp] theorem execSessionIdleTimeout_groups (s : State) (ss : Nat) : OutKeepsGroups s (execSessionIdleTimeout ss s) := by
  unfold execSessionIdleTimeout
  refine whenManaged_groups ?_
  split <;> simp

@[simp] theorem execLockoutExpiry_groups (s : State) (path : Fin 5) :
    OutKeepsGroups s (execLockoutExpiry path s) := whenManaged_groups (by simp)

@[simp] theorem execSegmentHoldExpiry_groups (s : State) (ss : Nat) : OutKeepsGroups s (execSegmentHoldExpiry ss s) := by
  unfold execSegmentHoldExpiry
  refine whenManaged_groups ?_
  split <;> simp

/-! ### Paths -/

@[simp] theorem State.setCanMsg_groups (s : State) (c node : Nat) (m : Option CanMsg) :
    (s.setCanMsg c node m).groups = s.groups := by simp [State.setCanMsg]

@[simp] theorem State.dropCanMsg_groups (s : State) (c node : Nat) (m : CanMsg) (extra : Nat) (code : Code) :
    (s.dropCanMsg c node m extra code).groups = s.groups := by simp [State.dropCanMsg]

@[simp] theorem execCanMessageTimeout_groups (s : State) (controller : Fin 2) (node : Fin 256) :
    OutKeepsGroups s (execCanMessageTimeout controller node s) := by
  unfold execCanMessageTimeout
  refine whenManaged_groups ?_
  split <;> simp

@[simp] theorem execCanBusOff_groups (s : State) (controller : Fin 2) :
    OutKeepsGroups s (execCanBusOff controller s) := whenManaged_groups (by simp)

@[simp] theorem execCanBusOffRecovery_groups (s : State) (controller : Fin 2) :
    OutKeepsGroups s (execCanBusOffRecovery controller s) := whenManaged_groups (by simp)

@[simp] theorem State.admitDatagram_groups (s : State) : (s.admitDatagram).1.groups = s.groups := by
  have h (w : Nat × Nat) (b : Bool) :
      (({ s with acc := { s.acc with udpWindow := w } }, b) : State × Bool).1.groups = s.groups := rfl
  exact h _ _

@[simp] theorem execArpRequest_groups (s : State) (target sender : BitVec 32) :
    OutKeepsGroups s (execArpRequest target sender s) := whenManaged_groups (by simp)

@[simp] theorem execIcmpEchoRequest_groups (s : State) (target sender : BitVec 32) (payload : Bytes) :
    OutKeepsGroups s (execIcmpEchoRequest target sender payload s) := whenManaged_groups (by simp)

@[simp] theorem State.setMailbox_groups (s : State) (m status : Nat) (reply : Bytes) :
    (s.setMailbox m status reply).groups = s.groups := by simp [State.setMailbox]

@[simp] theorem State.fillBuffer_groups (s : State) (m off : Nat) (bs : Bytes) :
    (s.fillBuffer m off bs).groups = s.groups := by simp [State.fillBuffer]

@[simp] theorem State.freeMailbox_groups (s : State) (m : Nat) :
    (s.freeMailbox m).groups = s.groups := by simp [State.freeMailbox]

@[simp] theorem execMailboxFree_groups (s : State) (mailbox : Fin 4) :
    OutKeepsGroups s (execMailboxFree mailbox s) := whenLive_groups (by simp)

@[simp] theorem State.discardWrite_groups (s : State) (a i : Nat) (requester : BitVec 16) :
    (s.discardWrite a i requester).groups = s.groups := by simp [State.discardWrite]

@[simp] theorem State.hostStore_groups (s : State) (tag a : Nat) (data : Bytes) :
    (s.hostStore tag a data).groups = s.groups := by simp [State.hostStore]

@[simp] theorem State.hostLoad_groups (s : State) (tag a len : Nat) :
    (s.hostLoad tag a len).groups = s.groups := by simp [State.hostLoad]

@[simp] theorem State.setBar0Byte_groups (s : State) (o : Nat) (b : Byte) :
    (s.setBar0Byte o b).groups = s.groups := by simp [State.setBar0Byte]

@[simp] theorem execPcieBarRead_groups (s : State) (bar : Bar) (offset len : Nat) (_requester : BitVec 16) (tag : Nat) :
    OutKeepsGroups s (execPcieBarRead bar offset len _requester tag s) := by
  unfold execPcieBarRead
  split
  · exact whenLive_groups (by split <;> rfl)
  · exact whenFabric_groups (by simp)

/-! ### Messages -/

@[simp] theorem State.takeWallMessage_groups (s : State) (p : Nat) (b : Bytes) : (s.takeWallMessage p b).groups = s.groups := by
  unfold State.takeWallMessage
  split <;> simp

/-! ### Idling -/

@[simp] theorem State.raiseDue_groups (s : State) : s.raiseDue.groups = s.groups := by
  unfold State.raiseDue
  split <;> simp

@[simp] theorem State.laneTicks_groups (s : State) : s.laneTicks.groups = s.groups := by simp [State.laneTicks]

@[simp] theorem State.drainPorts_groups (s : State) : s.drainPorts.groups = s.groups := by simp [State.drainPorts]

@[simp] theorem State.tick_groups (s : State) : s.tick.groups = s.groups := by simp [State.tick]

end Sys2Proof.Machine
end

section
/-! PROOFS. Freshness (R40-R44, R49): what a fresh verdict says of its frame, and that no view group is live beyond its budget. -/

namespace Sys2Proof.Machine

/-! ### The verdict on a frame (R40-R42) -/

theorem State.judgeFrame_fresh {s : State} {slot tFal budget : Nat} {frame : Option Nat}
    (h : (s.judgeFrame slot frame tFal budget).veil = none) :
    ∃ i age origin, frame = some i ∧ (s.judgeFrame slot frame tFal budget).age = some age ∧ age ≤ budget ∧
      s.correctedOrigin (s.ingot i) = some origin ∧ ageAt tFal origin = some age ∧ (s.ingot i).memoryError = false ∧
      s.sourceFaulted slot = false ∧ s.isFrozen slot = false ∧ s.timeLost (s.ingot i) = false := by
  unfold State.judgeFrame at h ⊢
  split at h
  · cases h
  next hfault =>
  split at h
  · cases h
  next i =>
  dsimp only at h
  split at h
  · cases h
  next herr =>
  split at h
  · cases h
  next origin horigin =>
  split at h
  · cases h
  next hlost =>
  split at h
  · cases h
  next age hage =>
  split at h
  · cases h
  split at h
  · cases h
  next hfrozen =>
  split at h
  · cases h
  next hlate =>
  refine ⟨i, age, origin, rfl, ?_, by omega, horigin, hage, by simpa using herr, by simpa using hfault,
    by simpa using hfrozen, by simpa using hlost⟩
  simp [hfault, herr, horigin, hlost, hage, hfrozen, hlate]

theorem State.timeLost_eq_false {s : State} {g : Ingot} (h : s.timeLost g = false) :
    (g.foreign = true → g.unlocked = false ∧ s.timeState ≠ 2) ∧ (g.written = true → g.unlocked = false) := by
  simp only [State.timeLost, Bool.or_eq_false_iff, Bool.and_eq_false_iff] at h
  obtain ⟨hmark, hstate⟩ := h
  constructor <;> intro hg <;> simp_all

/-- Settles O15: the decision leaves no veil on one path only, and the tests it passes there are the claims. -/
theorem freshVerdictIsWithinBudget : Obligations.FreshVerdictIsWithinBudget := by
  intro s slot tFal budget frame h
  obtain ⟨i, age, origin, hi, hage, hle, ho, hat, herr, hfault, hfrozen, hlost⟩ := State.judgeFrame_fresh h
  obtain ⟨hforeign, hwritten⟩ := State.timeLost_eq_false hlost
  exact ⟨i, age, origin, hi, hage, hle, ho, hat, herr, hfault, hfrozen, hforeign, hwritten⟩

/-! ### The groups that a decision leaves -/

/-- A decided group that is live has an age within its budget (R42, R49). -/
def Group.Fresh (g : Group) : Prop := g.shown = .live → g.decided ≠ none → ∃ a, g.age = some a ∧ a ≤ g.budget

theorem State.groupsFresh_iff (s : State) : s.groupsFresh ↔ ∀ p ∈ s.groups, p.2.Fresh := Iff.rfl

theorem State.groupsFresh_of_eq {s t : State} (h : t.groups = s.groups) (hs : s.groupsFresh) : t.groupsFresh := by
  rw [State.groupsFresh_iff, h]
  exact hs

theorem Group.fresh_of_undecided {g : Group} (h : g.decided = none) : g.Fresh := fun _ hd => absurd h hd

theorem mem_put {α : Type} {t : Tbl α} {k : Nat} {v : α} {p : Nat × α} (h : p ∈ Tbl.put t k v) : p.2 = v ∨ p ∈ t := by
  induction t with
  | nil => simp [Tbl.put] at h; simp [h]
  | cons q t ih =>
    obtain ⟨k', v'⟩ := q
    rw [Tbl.put] at h
    split at h
    · rcases List.mem_cons.mp h with rfl | h
      · exact .inl rfl
      · exact .inr h
    · split at h
      · rcases List.mem_cons.mp h with rfl | h
        · exact .inl rfl
        · exact .inr (List.mem_cons_of_mem _ h)
      · rcases List.mem_cons.mp h with rfl | h
        · exact .inr List.mem_cons_self
        · exact (ih h).imp id (List.mem_cons_of_mem _)

theorem State.setGroup_groupsFresh {s : State} (hs : s.groupsFresh) (k : Nat) {g : Group} (hg : g.Fresh) :
    (s.setGroup k g).groupsFresh := by
  intro p hp
  rcases mem_put hp with h | h
  · exact h ▸ hg
  · exact hs p h

/-- What a decision under a budget says of a group (R42): no veil is of the live state, and without a veil the frame's age is within
the budget. -/
def Verdict.Sound (v : Verdict) (budget : Nat) : Prop :=
  (∀ st c, v.veil = some (st, c) → st ≠ .live) ∧ (v.veil = none → ∃ a, v.age = some a ∧ a ≤ budget)

theorem State.judgeFrame_sound (s : State) (slot tFal budget : Nat) (frame : Option Nat) :
    (s.judgeFrame slot frame tFal budget).Sound budget := by
  constructor
  · intro st c h
    unfold State.judgeFrame at h
    dsimp only at h
    (repeat' split at h) <;> cases h <;> decide
  · intro h
    obtain ⟨_, age, _, _, hage, hle, _⟩ := State.judgeFrame_fresh h
    exact ⟨age, hage, hle⟩

theorem Verdict.sound_veiled {st : LayerState} (h : st ≠ .live) (code budget : Nat) : (Verdict.veiled st code).Sound budget :=
  ⟨fun st' c hv => by cases hv; exact h, fun hv => by cases hv⟩

/-- A group is live after a verdict only without a veil. -/
theorem Group.after_live {g : Group} {v : Verdict} {seq n budget : Nat} (hv : v.Sound budget)
    (h : (g.after v seq n).shown = .live) : v.veil = none := by
  unfold Group.after at h
  split at h
  next st c hc => exact absurd h (hv.1 st c hc)
  next hn => exact hn

/-- A group that takes a verdict's age with the budget it was given under is within it. -/
theorem Group.fresh_of_verdict {g g' : Group} {v : Verdict} {seq n budget : Nat} (hv : v.Sound budget)
    (hshown : g'.shown = (g.after v seq n).shown) (ha : g'.age = v.age) (hb : g'.budget = budget) : g'.Fresh := by
  intro hlive _
  rw [ha, hb]
  exact hv.2 (Group.after_live hv (hshown ▸ hlive))

theorem Verdict.sound_ite {c : Prop} [Decidable c] {v w : Verdict} {budget : Nat} (hv : v.Sound budget) (hw : w.Sound budget) :
    (if c then v else w).Sound budget := by split <;> assumption

theorem Group.fresh_ite {c : Prop} [Decidable c] {g k : Group} (hg : g.Fresh) (hk : k.Fresh) : (if c then g else k).Fresh := by
  split <;> assumption

theorem ite_groupsFresh {c : Prop} [Decidable c] {a b : State} (ha : a.groupsFresh) (hb : b.groupsFresh) :
    (if c then a else b).groupsFresh := by split <;> assumption

theorem State.decideGroup_groupsFresh {s : State} (hs : s.groupsFresh) (c : State) (key of d : Nat) :
    (s.decideGroup c key of d).groupsFresh := by
  unfold State.decideGroup
  refine ite_groupsFresh hs ?_
  dsimp only
  split
  · exact hs
  have hset (g : Group) (hg : g.Fresh) (r : Prop) [Decidable r] (e : Nat) (code : Option Code) (i : Nat) (x : Int) :
      (if r then (s.setGroup key g).record e code i x else s.setGroup key g).groupsFresh :=
    State.groupsFresh_of_eq (by simp only [groups_ite, State.record_groups, ite_self]) (State.setGroup_groupsFresh hs key hg)
  refine hset _ ?_ _ _ _ _ _
  refine Group.fresh_ite (Group.fresh_of_verdict ?_ rfl rfl rfl) (Group.fresh_of_verdict ?_ rfl rfl rfl)
  all_goals exact Verdict.sound_ite (Verdict.sound_veiled (by decide) _ _) (c.judgeFrame_sound _ _ _ _)

theorem foldl_groupsFresh {α : Type} {f : State → α → State} (hf : ∀ u a, u.groupsFresh → (f u a).groupsFresh) (xs : List α)
    {s : State} (hs : s.groupsFresh) : (xs.foldl f s).groupsFresh := by
  induction xs generalizing s with
  | nil => exact hs
  | cons a xs ih => exact ih (hf s a hs)

theorem State.seal_groupsFresh {s : State} (hs : s.groupsFresh) (o : Nat) : (s.seal o).groupsFresh := by
  have h0 (of : Nat) : (s.lockInFor o of).groupsFresh := State.groupsFresh_of_eq (State.lockInFor_groups s o of) hs
  unfold State.seal
  dsimp only
  refine ite_groupsFresh ?_ (h0 _)
  refine State.groupsFresh_of_eq (by rw [State.setOutput_groups, State.takeRefs_groups])
    (foldl_groupsFresh (fun u k hu => State.decideGroup_groupsFresh hu _ k _ _) _ (h0 _))

/-! ### The groups that a commit or a takeover leaves (R49, R350) -/

theorem State.heirGroup_decided {s old : State} {key : Nat} {g : Group} (h : s.heirGroup old key = some g) : g.decided = none := by
  unfold State.heirGroup at h
  split at h
  · obtain ⟨p, _, rfl⟩ := Option.map_eq_some_iff.mp h
    rfl
  · cases h

theorem State.renewGroups_groupsFresh {s : State} (hs : s.groupsFresh) (old : State) : (s.renewGroups old).groupsFresh := by
  have hkept (live : List Nat) : ∀ p ∈ s.groups.filter fun p => live.contains p.1, p.2.Fresh :=
    fun p hp => hs p (List.mem_filter.mp hp).1
  have hnew (k : Nat) : ((s.heirGroup old k).getD (newGroup (s.reg 0x2000_02))).Fresh := by
    refine Group.fresh_of_undecided ?_
    cases h : s.heirGroup old k with
    | none => rfl
    | some g => exact State.heirGroup_decided h
  have hfold (xs : List Nat) (t : Tbl Group) (ht : ∀ p ∈ t, p.2.Fresh) : ∀ p ∈ xs.foldl (fun (t : Tbl Group) k =>
      Tbl.put t k ((s.heirGroup old k).getD (newGroup (s.reg 0x2000_02)))) t, p.2.Fresh := by
    induction xs generalizing t with
    | nil => exact ht
    | cons k xs ih => exact ih _ fun p hp => (mem_put hp).elim (fun h => h ▸ hnew k) (ht p)
  exact hfold _ _ (hkept _)

/-- The view groups that a commit leaves as it applies are those renewed from a state with the groups as they were. -/
theorem State.installWide_groups (s : State) (p : Pending) (wf : Nat) :
    ∃ u : State, u.groups = s.groups ∧ (s.installWide p wf).groups = (u.renewGroups s).groups := by
  unfold State.installWide
  simp only [State.settlePower_groups, State.noteApplied_groups, State.coverOutputs_groups, State.noteGating_groups,
    State.noteWritebacks_groups]
  refine ⟨_, ?_, rfl⟩
  rw [State.applyEnables_groups]
  split <;> split <;> simp

theorem State.installPart_groups (s : State) (p : Pending) (o wf : Nat) :
    ∃ u : State, u.groups = s.groups ∧ (s.installPart p o wf).groups = (u.renewGroups s).groups := by
  unfold State.installPart
  simp only [State.noteApplied_groups]
  refine ⟨_, ?_, rfl⟩
  split <;> simp

theorem State.installWide_groupsFresh {s : State} (hs : s.groupsFresh) (p : Pending) (wf : Nat) :
    (s.installWide p wf).groupsFresh := by
  obtain ⟨u, hu, h⟩ := State.installWide_groups s p wf
  exact State.groupsFresh_of_eq h (State.renewGroups_groupsFresh (State.groupsFresh_of_eq hu hs) s)

theorem State.installPart_groupsFresh {s : State} (hs : s.groupsFresh) (p : Pending) (o wf : Nat) :
    (s.installPart p o wf).groupsFresh := by
  obtain ⟨u, hu, h⟩ := State.installPart_groups s p o wf
  exact State.groupsFresh_of_eq h (State.renewGroups_groupsFresh (State.groupsFresh_of_eq hu hs) s)

theorem State.applyAt_groupsFresh {s : State} (hs : s.groupsFresh) (o of : Nat) : (s.applyAt o of).groupsFresh := by
  refine foldl_groupsFresh (fun t p ht => ?_) _ hs
  have hwide : (if p.wideDue (s.divisor o) of then t.installWide p (of / s.divisor o) else t).groupsFresh :=
    ite_groupsFresh (State.installWide_groupsFresh ht p _) ht
  refine ite_groupsFresh ?_ hwide
  split
  · exact State.installPart_groupsFresh hwide _ _ _
  · exact hwide

theorem State.installIdle_groupsFresh {s : State} (hs : s.groupsFresh) : s.installIdle.groupsFresh :=
  ite_groupsFresh hs (foldl_groupsFresh (fun _ p ht => ite_groupsFresh (State.installWide_groupsFresh ht p _) ht) _ hs)

theorem State.startFrame_groupsFresh {s : State} (hs : s.groupsFresh) (o : Nat) : (s.startFrame o).groupsFresh := by
  have h1 (of : Nat) : (((s.closeFrame o).applyAt o of).switchBackAt o of).groupsFresh :=
    State.groupsFresh_of_eq (State.switchBackAt_groups ..)
      (State.applyAt_groupsFresh (State.groupsFresh_of_eq (State.closeFrame_groups s o) hs) o of)
  unfold State.startFrame
  refine ite_groupsFresh (h1 _) (State.groupsFresh_of_eq ?_ (h1 (s.output o).nextOf))
  rw [State.correctPhase_groups]
  split <;> split <;> (try split) <;> simp

theorem State.groupsFresh_of_nil {s : State} (h : s.groups = []) : s.groupsFresh := by
  rw [State.groupsFresh_iff, h]
  exact fun _ hp => nomatch hp

theorem State.installViews_groupsFresh (s : State) : s.installViews.groupsFresh := by
  intro p hp
  obtain ⟨q, _, rfl⟩ := List.mem_map.mp hp
  exact Group.fresh_of_undecided rfl

theorem State.installImage_groupsFresh {s : State} (hs : s.groupsFresh) : s.installImage.groupsFresh := by
  have hviews := State.installViews_groupsFresh s.installLedger
  unfold State.installImage
  dsimp only
  refine ite_groupsFresh ?_ ?_
  · exact State.groupsFresh_of_eq (by simp) hs
  · refine State.groupsFresh_of_eq ?_ hviews
    split
    · simp
    · split
      · simp
      · simp

theorem State.afterReset_groups (s : State) (cause : Nat) (retained : Bool) : (s.afterReset cause retained).groups = [] := by
  unfold State.afterReset
  simp only [State.settlePower_groups, State.setReg_groups]
  split
  · exact foldl_groups (by intros; rfl) _ _
  · rfl

theorem State.afterReset_groupsFresh (s : State) (cause : Nat) (retained : Bool) : (s.afterReset cause retained).groupsFresh :=
  State.groupsFresh_of_nil (State.afterReset_groups s cause retained)

theorem State.powerOn_groupsFresh (s : State) : s.powerOn.groupsFresh := by
  unfold State.powerOn
  exact State.afterReset_groupsFresh _ _ _

/-! ### A session's writes (R97, R420, R425, R428) -/

/-- An operation of a write leaves each decided live group within its budget. -/
def OpKeepsFresh (op : WriteOp) : Prop := ∀ s ss i v, s.groupsFresh → (op s ss i v).1.groupsFresh

theorem OpKeepsGroups.fresh {op : WriteOp} (h : OpKeepsGroups op) : OpKeepsFresh op :=
  fun s ss i v hs => State.groupsFresh_of_eq (h s ss i v) hs

theorem deviceResetOp_keepsFresh : OpKeepsFresh deviceResetOp := by
  intro s ss i v _
  simp only [deviceResetOp, State.deviceReset]
  exact State.afterReset_groupsFresh s 4 true

theorem ledgerOpB_groups {key : Nat} {op : WriteOp} (h : ledgerOpB key = some op) : OpKeepsGroups op := by
  unfold ledgerOpB at h
  split at h <;> simp only [Option.some.injEq, reduceCtorEq] at h
  all_goals subst h
  all_goals simp

theorem ledgerOpA_keepsFresh {key : Nat} {op : WriteOp} (h : ledgerOpA key = some op) : OpKeepsFresh op := by
  unfold ledgerOpA at h
  split at h <;> simp only [Option.some.injEq, reduceCtorEq] at h
  all_goals subst h
  · exact deviceResetOp_keepsFresh
  all_goals exact OpKeepsGroups.fresh (by simp)

theorem ledgerOp_keepsFresh (key : Nat) : OpKeepsFresh (ledgerOp key) := by
  unfold ledgerOp
  split
  · exact ledgerOpA_keepsFresh ‹_›
  · split
    · exact (ledgerOpB_groups ‹_›).fresh
    · split
      · exact OpKeepsGroups.fresh (by simp)
      · exact OpKeepsGroups.fresh (by simp)

theorem storeRow_keepsFresh (key : Nat) (e : StoreEnd) : OpKeepsFresh (storeRow key e) := by
  unfold storeRow
  split
  · exact OpKeepsGroups.fresh (by simp)
  · exact OpKeepsGroups.fresh (by simp)
  · split
    · exact OpKeepsGroups.fresh (by simp)
    · exact ledgerOp_keepsFresh key

theorem ite_groupsFresh_fst {α : Type} {c : Prop} [Decidable c] {a b : State × α} (ha : a.1.groupsFresh) (hb : b.1.groupsFresh) :
    (if c then a else b).1.groupsFresh := by split <;> assumption

theorem State.tryWrite_groupsFresh {s : State} (hs : s.groupsFresh) (ss key : Nat) (v : Val) {op : WriteOp}
    (hop : OpKeepsFresh op) :
    (s.tryWrite ss key v op).1.groupsFresh := by
  unfold State.tryWrite
  split
  · split
    · exact hs
    · exact State.groupsFresh_of_eq (by simp) hs
  · split
    · exact hs
    next e _ _ x _ =>
      refine ite_groupsFresh_fst hs ?_
      have hr : (op (s.touch x) ss (x.inst key) v).1.groupsFresh :=
        hop _ _ _ _ (State.groupsFresh_of_eq (State.touch_groups s x) hs)
      dsimp only
      split
      · exact State.groupsFresh_of_eq (by simp) hs
      · split
        · exact State.groupsFresh_of_eq (State.noteRefusal_groups ..) hr
        · exact hr

theorem State.ledgerWrite_groupsFresh {s : State} (hs : s.groupsFresh) (ss key : Nat) (v : Val) {op : WriteOp}
    (hop : OpKeepsFresh op) : (s.ledgerWrite ss key v op).groupsFresh :=
  State.groupsFresh_of_eq (State.reply_groups ..) (State.tryWrite_groupsFresh hs ss key v hop)

theorem State.cutWrite_groupsFresh {s : State} (hs : s.groupsFresh) (ss key : Nat) (v : Val) {op : WriteOp}
    (hop : OpKeepsFresh op) : (s.cutWrite ss key v op).groupsFresh :=
  ite_groupsFresh (State.powerOn_groupsFresh _)
    (State.groupsFresh_of_eq (State.reply_groups ..) (State.tryWrite_groupsFresh hs ss key v hop))

theorem State.fuseWrite_groupsFresh {s : State} (hs : s.groupsFresh) (ss key v : Nat) {op : FuseEnd → WriteOp} (e : FuseEnd)
    (hop : ∀ e, OpKeepsGroups (op e)) : (s.fuseWrite ss key v op e).groupsFresh :=
  ite_groupsFresh (State.cutWrite_groupsFresh hs ss key _ (hop e).fresh) (State.ledgerWrite_groupsFresh hs ss key _ (hop e).fresh)

theorem State.storeWrite_groupsFresh {s : State} (hs : s.groupsFresh) (ss key : Nat) (v : Val) (e : StoreEnd) :
    (s.storeWrite ss key v e).groupsFresh :=
  ite_groupsFresh (State.groupsFresh_of_eq (State.hold_groups ..) hs)
    (ite_groupsFresh (State.cutWrite_groupsFresh hs ss key v (storeRow_keepsFresh key e))
      (State.ledgerWrite_groupsFresh hs ss key v (storeRow_keepsFresh key e)))

/-! ### Requests of peers (R409-R420) -/

theorem State.writeWhole_groupsFresh {s : State} (hs : s.groupsFresh) (x : Session) (key : Nat) (e : Entry) (b : Bytes) :
    (s.writeWhole x key e b).1.groupsFresh := State.tryWrite_groupsFresh hs _ _ _ (ledgerOp_keepsFresh key)

theorem State.continueHold_groupsFresh {s : State} (hs : s.groupsFresh) (x : Session) (r : Req) (e : Entry) (h : WriteHold) :
    (s.continueHold x r e h).1.groupsFresh := by
  have hset (y : Session) : (s.setSession y).groupsFresh := State.groupsFresh_of_eq (State.setSession_groups s y) hs
  exact ite_groupsFresh_fst (hset _) (ite_groupsFresh_fst (hset _)
    (ite_groupsFresh_fst (State.writeWhole_groupsFresh (hset _) _ _ _ _) (hset _)))

theorem State.serveWrite_groupsFresh {s : State} (hs : s.groupsFresh) (x : Session) (r : Req) (e : Entry) :
    (s.serveWrite x r e).1.groupsFresh := by
  have hset (y : Session) : (s.setSession y).groupsFresh := State.groupsFresh_of_eq (State.setSession_groups s y) hs
  have hwhole := State.writeWhole_groupsFresh hs x r.key e r.data
  unfold State.serveWrite
  refine ite_groupsFresh_fst (ite_groupsFresh_fst hs hwhole) (ite_groupsFresh_fst (hset _) ?_)
  split
  · exact State.continueHold_groupsFresh hs _ _ _ _
  · refine ite_groupsFresh_fst hs (ite_groupsFresh_fst hwhole ?_)
    split
    · exact State.groupsFresh_of_eq (State.noteRefusal_groups ..) hs
    · exact hset _

theorem State.serveOp_groupsFresh {s : State} (hs : s.groupsFresh) (x : Session) (op : Nat) (r : Req) (e : Option Entry) :
    (s.serveOp x op r e).1.groupsFresh := by
  unfold State.serveOp
  split
  · exact State.groupsFresh_of_eq (State.serveRead_groups ..) hs
  · exact State.serveWrite_groupsFresh hs _ _ _
  · exact hs
  · exact State.groupsFresh_of_eq (State.serveRespond_groups ..) hs
  · exact State.groupsFresh_of_eq (State.closeSessions_groups ..) hs
  · exact hs
  · exact State.groupsFresh_of_eq (State.noteRefusal_groups ..) hs
  · exact State.groupsFresh_of_eq (State.noteRefusal_groups ..) hs
  · exact hs

theorem State.serveSession_groupsFresh {s : State} (hs : s.groupsFresh) (p : Peer) (op : Nat) (r : Req) :
    (s.serveSession p op r).1.groupsFresh := by
  unfold State.serveSession
  dsimp only
  split
  · exact State.groupsFresh_of_eq (State.setSession_groups ..) hs
  · split
    · exact hs
    · exact State.groupsFresh_of_eq (State.keepResponse_groups ..)
        (State.serveOp_groupsFresh (State.groupsFresh_of_eq (State.setSession_groups ..) hs) _ _ _ _)

theorem State.serve_groupsFresh {s : State} (hs : s.groupsFresh) (p : Peer) (op : Nat) (r : Req) :
    (s.serve p op r).1.groupsFresh :=
  ite_groupsFresh_fst hs (ite_groupsFresh_fst (State.groupsFresh_of_eq (State.serveOpen_groups s p r) hs)
    (State.serveSession_groupsFresh hs p op r))

theorem State.request_groupsFresh {s : State} (hs : s.groupsFresh) (p : Peer) (op : Nat) (r : Req) :
    (s.request p op r).groupsFresh :=
  ite_groupsFresh (State.groupsFresh_of_eq (State.hold_groups ..) hs)
    (ite_groupsFresh (State.groupsFresh_of_eq (State.deliver_groups ..) (State.serve_groupsFresh hs p op r)) hs)

theorem State.serveMailbox_groupsFresh {s : State} (hs : s.groupsFresh) (m : Nat) : (s.serveMailbox m).groupsFresh := by
  unfold State.serveMailbox
  dsimp only
  generalize frameOf (s.mailboxFrame m) = f
  have hy := State.serve_groupsFresh hs (.pcie 0) f.1 f.2
  exact ite_groupsFresh hs (ite_groupsFresh (State.groupsFresh_of_eq (by simp) hy) hy)

theorem State.serveMailboxes_groupsFresh {s : State} (hs : s.groupsFresh) : s.serveMailboxes.groupsFresh :=
  foldl_groupsFresh (fun _ m ht => State.serveMailbox_groupsFresh ht m) _ hs

theorem State.serveHeld_groupsFresh {s : State} (hs : s.groupsFresh) : s.serveHeld.groupsFresh := by
  refine State.serveMailboxes_groupsFresh (foldl_groupsFresh (fun t h ht => ?_) _ hs)
  refine ite_groupsFresh ht ?_
  cases h with
  | frame p r => exact State.request_groupsFresh ht p 2 r
  | row ss key v e => exact State.storeWrite_groupsFresh ht ss key v e

theorem State.ring_groupsFresh {s : State} (hs : s.groupsFresh) (m : Nat) : (s.ring m).groupsFresh :=
  ite_groupsFresh (State.groupsFresh_of_eq (State.bump_groups ..) hs)
    (State.serveMailbox_groupsFresh (State.groupsFresh_of_eq (State.setMailbox_groups ..) hs) m)

theorem State.bar0Control_groupsFresh {s : State} (hs : s.groupsFresh) (o : Nat) (data : Bytes) (m : Nat) :
    (State.bar0Control o data s m).groupsFresh := by
  have hring := ite_groupsFresh (c := wordAt o data (m * 0x2000 + 0x1FF0) = some 1) (State.ring_groupsFresh hs m) hs
  exact ite_groupsFresh (State.groupsFresh_of_eq (State.freeMailbox_groups ..) hring) hring

theorem State.bar0Write_groupsFresh {s : State} (hs : s.groupsFresh) (o : Nat) (data : Bytes) : (s.bar0Write o data).groupsFresh :=
  foldl_groupsFresh (fun _ m ht => State.bar0Control_groupsFresh ht o data m) _
    (foldl_groupsFresh (fun _ _ ht => State.groupsFresh_of_eq (State.setBar0Byte_groups ..) ht) _ hs)

theorem State.consume_groupsFresh {s : State} (hs : s.groupsFresh) (p kind : Nat) (b : Bytes) :
    (s.consume p kind b).groupsFresh := by
  unfold State.consume
  split
  · exact State.request_groupsFresh hs _ _ _
  · exact State.groupsFresh_of_eq (State.takeWallMessage_groups ..) hs
  · exact State.groupsFresh_of_eq (State.takePresence_groups ..) hs
  · exact hs

theorem State.deliverMessage_groupsFresh {s : State} (hs : s.groupsFresh) (p kind : Nat) (b : Bytes) :
    (s.deliverMessage p kind b).groupsFresh := by
  have ha : (s.admitMessage p kind).1.groupsFresh := State.groupsFresh_of_eq (State.admitMessage_groups ..) hs
  exact ite_groupsFresh (State.consume_groupsFresh ha p kind b) ha

theorem State.addCanPart_groupsFresh {s : State} (hs : s.groupsFresh) (c node : Nat) (m : CanMsg) (last : Bool) (part : Bytes) :
    (s.addCanPart c node m last part).groupsFresh :=
  ite_groupsFresh (State.request_groupsFresh (State.groupsFresh_of_eq (State.setCanMsg_groups ..) hs) _ _ _)
    (State.groupsFresh_of_eq (by simp) hs)

theorem State.takeCanFrame_groupsFresh {s : State} (hs : s.groupsFresh) (c node head : Nat) (part : Bytes) :
    (s.takeCanFrame c node head part).groupsFresh := by
  unfold State.takeCanFrame
  dsimp only
  refine ite_groupsFresh ?_ ?_
  · have h1 : (match s.canMsg c node with
        | some m => (s.setCanMsg c node none).bumpBy 0x6810_06 c (ceilDiv' m.bytes.length canPart)
        | none => s).groupsFresh := by
      split
      · exact State.groupsFresh_of_eq (by simp) hs
      · exact hs
    exact ite_groupsFresh (State.groupsFresh_of_eq (State.dropCanMsg_groups ..) h1) (State.addCanPart_groupsFresh h1 _ _ _ _ _)
  · split
    · exact State.groupsFresh_of_eq (State.bump_groups ..) hs
    · exact ite_groupsFresh (State.groupsFresh_of_eq (State.dropCanMsg_groups ..) hs)
        (ite_groupsFresh (State.groupsFresh_of_eq (State.dropCanMsg_groups ..) hs) (State.addCanPart_groupsFresh hs _ _ _ _ _))

/-! ### Every command -/

/-- The outcome of a command has each decided live group within its budget. -/
def OutFresh (o : Out) : Prop := ∀ t, o = .next t → t.groupsFresh

theorem OutFresh.groupsFresh {o : Out} {t : State} (h : OutFresh o) (ht : o = .next t) : t.groupsFresh := h t ht

theorem OutFresh.next {t : State} (h : t.groupsFresh) : OutFresh (.next t) := fun u hu => by cases hu; exact h

theorem OutKeepsGroups.fresh {s : State} {o : Out} (h : OutKeepsGroups s o) (hs : s.groupsFresh) : OutFresh o :=
  fun t ht => State.groupsFresh_of_eq (h t ht) hs

theorem whenLive_fresh {s : State} {f : State → State} (hs : s.groupsFresh) (hf : (f s).groupsFresh) : OutFresh (whenLive s f) :=
  .next (ite_groupsFresh hf hs)

theorem whenFabric_fresh {s : State} {f : State → State} (hs : s.groupsFresh) (hf : (f s).groupsFresh) :
    OutFresh (whenFabric s f) := .next (ite_groupsFresh hf hs)

theorem whenManaged_fresh {s : State} {f : State → State} (hs : s.groupsFresh) (hf : (f s).groupsFresh) :
    OutFresh (whenManaged s f) := .next (ite_groupsFresh hf hs)

section
variable {s : State} (hs : s.groupsFresh)
include hs

theorem execBaselineSaveDone_fresh (e : StoreEnd) : OutFresh (execBaselineSaveDone e s) := by
  refine whenManaged_fresh hs ?_
  split
  · exact hs
  · exact ite_groupsFresh (State.powerOn_groupsFresh s)
      (State.serveHeld_groupsFresh (State.groupsFresh_of_eq (State.endSave_groups ..) hs))

theorem execCanFrameReceive_fresh (c : Fin 2) (ident : BitVec 29) (payload : Bytes) :
    OutFresh (execCanFrameReceive c ident payload s) := by
  refine whenManaged_fresh hs ?_
  split
  · exact ite_groupsFresh hs (State.takeCanFrame_groupsFresh hs _ _ _ _)
  · exact hs

theorem execCommitLockIn_fresh (ticket : Nat) : OutFresh (execCommitLockIn ticket s) := by
  refine whenManaged_fresh hs (State.groupsFresh_of_eq ((State.settlePower_groups _).trans ((State.reportApplied_groups ..).trans
    (State.settleCommits_groups _))) (State.installIdle_groupsFresh ?_))
  split
  · exact ite_groupsFresh (State.groupsFresh_of_eq (State.lockIn_groups ..) hs) hs
  · exact hs

theorem execDoorbell_fresh (m : Fin 4) (request : Bytes) : OutFresh (execDoorbell m request s) :=
  whenLive_fresh hs (ite_groupsFresh hs (ite_groupsFresh (State.ring_groupsFresh hs m)
    (State.ring_groupsFresh (State.groupsFresh_of_eq (State.fillBuffer_groups ..) hs) m)))

theorem execFirmwareMainLoop_fresh (handOffRead : Bool) : OutFresh (execFirmwareMainLoop handOffRead s) :=
  .next (State.serveMailboxes_groupsFresh (State.groupsFresh_of_eq (State.mainLoop_groups ..) hs))

theorem execHearthWatchdogExpiry_fresh : OutFresh (execHearthWatchdogExpiry s) :=
  .next (ite_groupsFresh (State.afterReset_groupsFresh s 3 true) hs)

theorem execMessageCell_fresh (port : Fin 24) (cell : Bytes) : OutFresh (execMessageCell port cell s) := by
  have ha : (s.acceptMessage port cell).1.groupsFresh := State.groupsFresh_of_eq (State.acceptMessage_groups ..) hs
  refine whenLive_fresh hs (ite_groupsFresh hs (ite_groupsFresh (State.groupsFresh_of_eq (State.cellCrcError_groups ..) hs)
    (ite_groupsFresh (State.groupsFresh_of_eq (State.bump_groups ..) hs) (ite_groupsFresh ?_ hs))))
  dsimp only
  split
  · exact State.deliverMessage_groupsFresh ha _ _ _
  · exact ha

theorem execOutputFrameStart_fresh (o : Fin 32) : OutFresh (execOutputFrameStart o s) :=
  whenLive_fresh hs (ite_groupsFresh (State.groupsFresh_of_eq (by simp) (State.startFrame_groupsFresh hs o)) hs)

theorem execPcieBarWrite_fresh (bar : Bar) (offset : Nat) (data : Bytes) (requester : BitVec 16) (tag : Nat) :
    OutFresh (execPcieBarWrite bar offset data requester tag s) := by
  unfold execPcieBarWrite
  split
  · exact whenLive_fresh hs (ite_groupsFresh (State.bar0Write_groupsFresh hs offset data) hs)
  · refine whenFabric_fresh hs (State.groupsFresh_of_eq ?_ hs)
    split
    · rfl
    · split <;> simp

theorem execRefclkReturn_fresh : OutFresh (execRefclkReturn s) := .next (ite_groupsFresh hs (State.afterReset_groupsFresh _ _ true))

theorem execRegisterWrite_fresh (ss key : Nat) (v : Val) : OutFresh (execRegisterWrite ss key v s) :=
  whenManaged_fresh hs (ite_groupsFresh (State.groupsFresh_of_eq (by simp) hs)
    (State.ledgerWrite_groupsFresh hs ss key v (ledgerOp_keepsFresh key)))

theorem execSealPoint_fresh (o : Fin 32) : OutFresh (execSealPoint o s) :=
  whenLive_fresh hs (ite_groupsFresh (State.seal_groupsFresh hs o) hs)

theorem execSysRstN_fresh (lowNs : Nat) : OutFresh (execSysRstN lowNs s) := by
  unfold execSysRstN
  split
  · exact .next hs
  · split
    · exact fun _ h => nomatch h
    · exact .next (State.afterReset_groupsFresh s 2 true)

theorem execTakeoverReady_fresh (ticks : Nat) : OutFresh (execTakeoverReady ticks s) := by
  have himage (u : State) : u.dropVolatile.installImage.unparkPorts.groupsFresh :=
    State.groupsFresh_of_eq (State.unparkPorts_groups _) (State.installImage_groupsFresh (State.groupsFresh_of_nil rfl))
  have hlast (u : State) (hu : u.groupsFresh) (outs : State → List Nat) :
      (let t := { u with commits := { u.commits with hadPort := true, listenSince := some u.now } }.setReg 0x2800_06 0 0
      (t.followTimePort.settleTakeover (outs t)).settlePower).groupsFresh := State.groupsFresh_of_eq (by simp) hu
  refine whenLive_fresh hs (ite_groupsFresh hs ?_)
  exact hlast _ (himage _) State.runningOutputs

theorem execUdpLedgerDatagram_fresh (address port : Nat) (payload : Bytes) :
    OutFresh (execUdpLedgerDatagram address port payload s) := by
  have ha : s.admitDatagram.1.groupsFresh := State.groupsFresh_of_eq (State.admitDatagram_groups s) hs
  have hdrop (a : State) (h : a.groupsFresh) :
      ((a.bump 0x6820_0B).recordLimited second 0x114 (some (lg 0x14)) 2 0 true).groupsFresh :=
    State.groupsFresh_of_eq (by simp) h
  exact whenManaged_fresh hs (ite_groupsFresh hs (ite_groupsFresh (State.request_groupsFresh ha _ _ _) (hdrop _ ha)))

end

theorem exec_fresh (c : Instr) {s : State} (hs : s.groupsFresh) : OutFresh (exec c s) := by
  cases c with
  | roleSelectWrite | nonVolatileWrite | saveConfiguration | eraseSavedConfiguration =>
    simp only [exec, execRoleSelectWrite, execNonVolatileWrite, execSaveConfiguration, execEraseSavedConfiguration]
    refine whenManaged_fresh hs ?_
    exact State.storeWrite_groupsFresh hs _ _ _ _
  | rightsPolicyWrite | debugLockWrite | roleLockWrite | wallAliasWrite =>
    simp only [exec, execRightsPolicyWrite, execDebugLockWrite, execRoleLockWrite, execWallAliasWrite]
    refine whenManaged_fresh hs ?_
    refine State.fuseWrite_groupsFresh hs _ _ _ _ fun e => ?_
    simp
  | deviceReset =>
    simp only [exec, execDeviceReset]
    refine whenManaged_fresh hs ?_
    exact State.ledgerWrite_groupsFresh hs _ _ _ deviceResetOp_keepsFresh
  | ledgerRead | ledgerWriteFrame | describe | openSession | respond | closeSession | keepAlive | keyRecordsRead =>
    simp only [exec, execLedgerRead, execLedgerWriteFrame, execDescribe, execOpenSession, execRespond, execCloseSession,
      execKeepAlive, execKeyRecordsRead]
    refine whenManaged_fresh hs ?_
    exact State.request_groupsFresh hs _ _ _
  | registerWrite ss key v => exact execRegisterWrite_fresh hs ss key v
  | baselineSaveDone e => exact execBaselineSaveDone_fresh hs e
  | canFrameReceive c ident payload => exact execCanFrameReceive_fresh hs c ident payload
  | commitLockIn ticket => exact execCommitLockIn_fresh hs ticket
  | doorbell m request => exact execDoorbell_fresh hs m request
  | firmwareMainLoop read => exact execFirmwareMainLoop_fresh hs read
  | hearthWatchdogExpiry => exact execHearthWatchdogExpiry_fresh hs
  | messageCell port cell => exact execMessageCell_fresh hs port cell
  | outputFrameStart o => exact execOutputFrameStart_fresh hs o
  | pcieBarWrite bar offset data requester tag => exact execPcieBarWrite_fresh hs bar offset data requester tag
  | powerOnReset => exact .next (State.powerOn_groupsFresh s)
  | refclkReturn => exact execRefclkReturn_fresh hs
  | sealPoint o => exact execSealPoint_fresh hs o
  | sysRstN lowNs => exact execSysRstN_fresh hs lowNs
  | takeoverReady ticks => exact execTakeoverReady_fresh hs ticks
  | udpLedgerDatagram address port payload => exact execUdpLedgerDatagram_fresh hs address port payload
  | _ => exact OutKeepsGroups.fresh (by simp [exec]) hs

/-- Settles O16: of all that a step does, only a decision at a seal leaves a live group decided, and it gives it the age and the
budget of a fresh verdict. -/
theorem liveGroupsStayWithinBudget : Obligations.LiveGroupsStayWithinBudget := by
  intro s t hs ht
  unfold step at ht
  split at ht
  · rw [← Host.Outcome.next.inj ht]
    exact State.groupsFresh_of_eq (State.tick_groups s) hs
  next c rest _ =>
    have hs' : ({ s with pending := rest } : State).groupsFresh := hs
    exact (exec_fresh c hs').groupsFresh ht

end Sys2Proof.Machine
end

section
/-! PROOFS. Host requests (R34): the checks of an acquire, a publish and a release, each refused before anything changes. -/

namespace Sys2Proof.Machine

/-! ### What an arriving request leaves alone (R417) -/

@[simp] theorem State.touched_hostSlot (s : State) (ss slot : Nat) : (s.touched ss).hostSlot slot = s.hostSlot slot := by
  obtain ⟨a, h⟩ := s.touched_eq ss
  rw [h]
  rfl

@[simp] theorem State.touched_freeOf (s : State) (ss slot : Nat) : (s.touched ss).freeOf slot = s.freeOf slot := by
  obtain ⟨a, h⟩ := s.touched_eq ss
  rw [h]
  rfl

@[simp] theorem State.touched_ingot (s : State) (ss i : Nat) : (s.touched ss).ingot i = s.ingot i := by
  simp [State.ingot]

@[simp] theorem State.touched_source (s : State) (ss n : Nat) : (s.touched ss).source n = s.source n := by
  simp [State.source]

/-! ### Refusals (R34, R420) -/

/-- A refusal with a code of another chapter's than the ledger's is not noted (R416, R431). -/
theorem State.noteRefusal_other (s : State) (who key : Nat) {c : Code} (h : c.sub ≠ .LG) : s.noteRefusal who key c = s := by
  simp [State.noteRefusal, h]

/-- A host request whose operation refuses it with a freshness code and changes nothing: the answer is all (R34). -/
theorem ledgerWrite_refused_fr {s : State} {ss key c : Nat} {v : Val} {op : WriteOp} (hm : s.managed = true)
    (hw : s.mayWrite ss key v = true)
    (hop : op (s.touched ss) ss (s.partOf ss key) v = (s.touched ss, .no (fr c))) :
    whenManaged s (fun s => s.ledgerWrite ss key v op) = .next ((s.touched ss).reply ss (.no (fr c))) := by
  rw [whenManaged_next hm, State.ledgerWrite, State.tryWrite_of_mayWrite hw, hop]
  have hfr : (fr c).sub ≠ .LG := nofun
  simp only [Reply.no, State.noteRefusal_other _ _ _ hfr]

/-- With no Free Ingot nothing is taken (R34). -/
theorem State.takeFree_none {s : State} {slot : Nat} (h : s.freeOf slot = []) (f : Filler) : s.takeFree slot f = (none, s) := by
  simp [State.takeFree, State.pick, h]

section
variable {s : State} {slot : Nat} {v : Val}

theorem acquireOp_otherSource (h : s.hostSlot v.n = false) (ss inst : Nat) : acquireOp s ss inst v = (s, .no (fr 0x0E)) := by
  simp [acquireOp, h]

theorem acquireOp_noneFree (h : s.hostSlot v.n = true) (hfree : s.freeOf v.n = []) (ss inst : Nat) :
    acquireOp s ss inst v = (s, .no (fr 0x0D)) := by
  simp [acquireOp, h, State.takeFree_none hfree]

theorem publishOp_otherSource (h : ingotCount ≤ s.reg 0x2084_01 ∨ s.hostSlot (s.ingot (s.reg 0x2084_01)).slot = false)
    (ss inst : Nat) : publishOp s ss inst v = (s, .no (fr 0x0E)) := by
  rcases h with h | h <;> simp [publishOp, h]

theorem publishOp_notFilling (hi : s.reg 0x2084_01 < ingotCount) (h : s.hostSlot (s.ingot (s.reg 0x2084_01)).slot = true)
    (hst : (s.ingot (s.reg 0x2084_01)).st ≠ .filling) (ss inst : Nat) : publishOp s ss inst v = (s, .no (fr 0x0B)) := by
  simp [publishOp, Nat.not_le.mpr hi, h, hst]

theorem releaseOp_otherSource (h : ∀ x, s.source (s.ingot v.n).slot = some x → x.kind ≠ 3) (ss inst : Nat) :
    releaseOp s ss inst v = (s, .no (fr 0x0E)) := by
  cases hx : s.source (s.ingot v.n).slot with
  | none => simp [releaseOp, hx]
  | some x => simp [releaseOp, hx, h x hx]

end

/-- Settles O52: each request fails the check of its operation that the hypotheses name, and a refusal with a freshness code leaves
the state that the request's arrival made. -/
theorem hostRequestsAreChecked : Obligations.HostRequestsAreChecked := by
  refine ⟨fun s ss slot hm hw h => ?acquireOther, fun s ss v hm hw h => ?publishOther, fun s ss i hm hw h => ?releaseOther,
    fun s ss v hm hw hi h hst => ?publishNotFilling, fun s ss slot hm hw h hfree => ?acquireNoneFree⟩
  case acquireOther => exact ledgerWrite_refused_fr hm hw (acquireOp_otherSource (by simpa [Val.n] using h) _ _)
  case publishOther => exact ledgerWrite_refused_fr hm hw (publishOp_otherSource (by simpa using h) _ _)
  case releaseOther => exact ledgerWrite_refused_fr hm hw (releaseOp_otherSource (by simpa [Val.n] using h) _ _)
  case publishNotFilling =>
    exact ledgerWrite_refused_fr hm hw
      (publishOp_notFilling (by simpa using hi) (by simpa using h) (by simpa using hst) _ _)
  case acquireNoneFree =>
    exact ledgerWrite_refused_fr hm hw
      (acquireOp_noneFree (by simpa [Val.n] using h) (by simpa [Val.n] using hfree) _ _)

end Sys2Proof.Machine
end

section
/-! PROOFS. Host frames (R34, R37, R50, R347): a publish that applies the last field of a commit pushes the Active's image. -/

namespace Sys2Proof.Machine

/-! ### What a publish leaves of the registers (R31) -/

@[simp] theorem State.toFree_regs (s : State) (i : Nat) : (s.toFree i).regs = s.regs := by
  simp only [State.toFree]
  split <;> rfl

@[simp] theorem State.outdate_regs (s : State) (i : Nat) : (s.outdate i).regs = s.regs := by
  simp only [State.outdate]
  split <;> simp

@[simp] theorem State.publish_regs (s : State) (i : Nat) : (s.publish i).regs = s.regs := by
  simp only [State.publish]
  split
  · rfl
  · rw [State.setSlot_regs]
    split
    · split <;> simp
    · rfl

/-! ### The image of an Active (R347) -/

/-- A push takes the next image generation. -/
theorem State.pushSections_imageGen (s : State) (ks : List Nat) :
    Tbl.find (s.pushSections ks).regs (regKey 0x5800_08 0) = some ((s.imageGen + 1) % 2 ^ 32) := by
  simp only [State.pushSections, State.setReg_regs]
  rw [Tbl.find_put_ne _ _ (by decide), Tbl.find_put_same]

/-- Whether the ledger answers rests on the registers, the sources and the power. -/
theorem State.managed_congr {s t : State} (hr : t.regs = s.regs) (hs : t.sources = s.sources) (hp : t.power = s.power) :
    t.managed = s.managed := by
  simp only [State.managed, State.live, State.fabricWorks, State.reg_congr hr hs, hp]

/-- The image of an Active whose ledger answers is pushed at an applied commit, with the next generation (R347). -/
theorem State.pushCommit_imageGen {s t : State} (hr : t.regs = s.regs) (hs : t.sources = s.sources) (hp : t.power = s.power)
    (hm : s.managed = true) (ha : s.pairActive = true) :
    Tbl.find t.pushCommit.regs (regKey 0x5800_08 0) = some ((s.imageGen + 1) % 2 ^ 32) := by
  have hreg := State.reg_congr hr hs
  have hact : (t.pairActive && t.managed) = true := by
    rw [State.managed_congr hr hs hp, hm, State.pairActive, hreg, ← State.pairActive, ha]
    rfl
  rw [State.pushCommit, if_pos hact, State.pushSections_imageGen, State.imageGen, hreg, State.imageGen]

/-- A commit that has wholly applied pushes the image of an Active whose ledger answers (R117, R347). -/
theorem State.finishTicket_imageGen {s : State} {p : Pending} (hm : s.managed = true) (ha : s.pairActive = true)
    (hp : p.auto = false) :
    Tbl.find (s.finishTicket p).regs (regKey 0x5800_08 0) = some ((s.imageGen + 1) % 2 ^ 32) := by
  simp only [State.finishTicket, hp, Bool.false_eq_true, if_false]
  refine State.pushCommit_imageGen ?_ ?_ ?_ hm ha
  · rw [State.record_regs]
    split <;> rfl
  · rw [State.record_sources]
    split <;> rfl
  · rw [State.record_power]
    split <;> rfl

/-! ### The registers of an accepted publish (R34, R37, R50) -/

/-- The state in which a publish of the Ingot that L:2084.01 names has stamped its frame and taken its number, before frozen
detection changes. -/
def State.hostStamped (s : State) : State :=
  let i := s.reg 0x2084_01
  let g := s.ingot i
  let want := s.reg 0x2084_02
  let q := nextFrameSeq (s.slot g.slot).hostSeq
  ((s.setIngot i { g with
      origin := if want = 0 then s.wall else want
      foreign := want != 0
      era := s.reg 0x4800_07
      expired := false
      seq := q }).setSlot g.slot { s.slot g.slot with hostSeq := q }).setReg 0x2084_02 0 0

/-- The checks of a publish and what it does when they pass. -/
theorem publishOp_eq (s : State) (ss inst : Nat) (v : Val) :
    publishOp s ss inst v =
      if (decide (ingotCount ≤ s.reg 0x2084_01) || !s.hostSlot (s.ingot (s.reg 0x2084_01)).slot) = true then
        (s, .no (fr 0x0E))
      else if ((s.ingot (s.reg 0x2084_01)).st != .filling || (s.ingot (s.reg 0x2084_01)).filler != .host) = true then
        (s, .no (fr 0x0B))
      else if s.wall < s.reg 0x2084_02 then (s, .no (fr 0x0C))
      else
        let u := (s.hostStamped.applyFrozen (s.ingot (s.reg 0x2084_01)).slot).countFrom (s.reg 0x2084_01)
        if u.hostNeedsCheck (s.ingot (s.reg 0x2084_01)).slot = true then
          (u.setIngot (s.reg 0x2084_01) { u.ingot (s.reg 0x2084_01) with filler := .hostCheck }, .ok)
        else (u.publish (s.reg 0x2084_01), .ok) := rfl

/-- An accepted publish leaves the registers as frozen detection's change leaves them. -/
theorem publishOp_accepted {s : State} (hi : s.reg 0x2084_01 < ingotCount)
    (hslot : s.hostSlot (s.ingot (s.reg 0x2084_01)).slot = true) (hst : (s.ingot (s.reg 0x2084_01)).st = .filling)
    (hfill : (s.ingot (s.reg 0x2084_01)).filler = .host) (hwant : s.reg 0x2084_02 ≤ s.wall) (ss inst : Nat) (v : Val) :
    ∃ u, publishOp s ss inst v = (u, .ok) ∧
      u.regs = (s.hostStamped.applyFrozen (s.ingot (s.reg 0x2084_01)).slot).regs := by
  have hone : ¬ (decide (ingotCount ≤ s.reg 0x2084_01) || !s.hostSlot (s.ingot (s.reg 0x2084_01)).slot) = true := by
    simp [hi, hslot]
  have hheld : ¬ ((s.ingot (s.reg 0x2084_01)).st != .filling || (s.ingot (s.reg 0x2084_01)).filler != .host) = true := by
    simp [hst, hfill]
  rw [publishOp_eq, if_neg hone, if_neg hheld, if_neg (Nat.not_lt.mpr hwant)]
  dsimp only
  split
  · exact ⟨_, rfl, rfl⟩
  · exact ⟨_, rfl, State.publish_regs ..⟩

/-! ### The refuting state -/

/-- The Active of a pair whose host holds Ingot 0 of its source in slot 0, and of whose commit 1 nothing is left but the frozen
detection of that slot. -/
def publishAsCommitEnds : State :=
  { State.reset with
    regs := [(regKey 0x2084_01 0, 0), (regKey 0x5800_03 0, 2)] ++ (List.range 24).map fun d => (regKey 0x6400_02 d, 2)
    acc := { sessions := [{ id := 1, peer := .pcie 0, level := 2 }] }
    power := { mgmt := true, booted := true }
    sources := [(0, { id := 1, kind := 3, fmt := 0, rate := 60000, locator := 0, width := 64, height := 4, name := [0x41]
                      ingotCount := 1, memory := 0, upPort := 24, upStream := 0, bases := [0x100000], size := 0x10000 })]
    slots := [(0, { set := [0] })]
    ingots := [(0, { slot := 0, base := 0x100000, size := 0x10000, st := .filling, filler := .host })]
    commits := { waiting := [{ ticket := 1, rest := [{ key := 0x2010_01, inst := 0, v := .num 1 }] }] } }

/-- That state once the publish has stamped its frame and applied the field, at this device's wall frame, so that nothing waits. -/
def fieldApplied : State :=
  { ((publishAsCommitEnds.touched 1).hostStamped.setReg 0x2010_01 0 1) with commits := {} }

/-- As its publish applies that field, the commit has wholly applied. -/
theorem publishAsCommitEnds_finishes :
    (publishAsCommitEnds.touched 1).hostStamped.applyFrozen 0 =
      fieldApplied.finishTicket { ticket := 1, first := some fieldApplied.wf, last := some fieldApplied.wf } := rfl

/-- Refutes O13: a publish also applies a waiting change of its slot's frozen detection, and where that was the last field of its
commit, an Active pushes its image, which sets L:5800.08 (R117, R347); the clause lets L:2084.02 and the detection's entry alone
change. -/
theorem not_hostFramesArePublishedAndReleased : ¬ Obligations.HostFramesArePublishedAndReleased := by
  rintro ⟨-, hpublish, -⟩
  obtain ⟨t, hexec, -, -, -, -, -, hentries, -⟩ := hpublish publishAsCommitEnds 1 1 0 (by decide +kernel) (by decide +kernel)
    (by decide +kernel) (by decide) (by decide +kernel) rfl rfl (by decide +kernel)
  obtain ⟨u, hop, hregs⟩ := publishOp_accepted (s := publishAsCommitEnds.touched 1) (by decide +kernel) (by decide +kernel)
    (by decide +kernel) (by decide +kernel) (by decide +kernel) 1 (publishAsCommitEnds.partOf 1 0x2084_03) (.num 1)
  have ht : t = u.reply 1 .ok :=
    Host.Outcome.next.inj (hexec.symm.trans (ledgerWrite_next (by decide +kernel) (by decide +kernel) hop rfl))
  have hgen : Tbl.find t.regs (regKey 0x5800_08 0) = some ((fieldApplied.imageGen + 1) % 2 ^ 32) := by
    rw [ht, State.reply_regs, hregs]
    exact publishAsCommitEnds_finishes ▸ State.finishTicket_imageGen (by decide +kernel) (by decide +kernel) rfl
  have hkept : Tbl.find t.regs (regKey 0x5800_08 0) = none := hentries _ (by decide +kernel)
  rw [hgen] at hkept
  cases hkept

end Sys2Proof.Machine
end

section
/-! PROOFS. Frame starts (R155, R192, R327): an automatic plan that applies as a frame starts abandons what fills the channel being
evacuated, and a pipeline so abandoned writes its statistics. -/

namespace Sys2Proof.Machine

/-! ### What an abandoned frame leaves alone -/

@[simp] theorem State.abandon_regs (s : State) (i : Nat) : (s.abandon i).regs = s.regs := by
  unfold State.abandon
  split
  · exact State.toFree_regs ..
  · rfl

@[simp] theorem State.toFree_sources (s : State) (i : Nat) : (s.toFree i).sources = s.sources := by
  simp only [State.toFree]
  split <;> rfl

@[simp] theorem State.abandon_sources (s : State) (i : Nat) : (s.abandon i).sources = s.sources := by
  unfold State.abandon
  split
  · exact State.toFree_sources ..
  · rfl

/-- The Ingots that a pipeline holds, abandoned. -/
def State.abandonAll (s : State) (is : List (Option Nat)) : State :=
  is.foldl (fun t o => match o with | some i => t.abandon i | none => t) s

theorem State.abandonAll_frame (s : State) (is : List (Option Nat)) :
    (s.abandonAll is).cells = s.cells ∧ (s.abandonAll is).regs = s.regs ∧ (s.abandonAll is).sources = s.sources := by
  unfold State.abandonAll
  induction is generalizing s with
  | nil => exact ⟨rfl, rfl, rfl⟩
  | cons o is ih =>
    obtain ⟨hc, hr, hs⟩ := ih (match o with | some i => s.abandon i | none => s)
    cases o with
    | none => exact ⟨hc, hr, hs⟩
    | some i => exact ⟨hc.trans (State.abandon_cells_of rfl i), hr.trans (s.abandon_regs i), hs.trans (s.abandon_sources i)⟩

theorem State.writeStats_cells (s : State) (f : CamFrame) (valid : Bool) (measured : Bytes × Bytes) :
    (s.writeStats f valid measured).cells =
      Memory.writeN s.cells (s.reg 0x3840_1F f.ctx + 8192 * (f.seq % 4)) (f.statBlock valid measured) := by
  simp only [State.writeStats, State.cells, State.setCtx_dram, State.setBlob_dram, State.store_dram]

/-- A statistics block begins with the first byte of its magic number (R201). -/
theorem CamFrame.statBlock_head (f : CamFrame) (valid : Bool) (measured : Bytes × Bytes) :
    ∃ bs, f.statBlock valid measured = 0x44 :: bs := by
  have hmagic : beBytes 4 0x44515354 = [0x44, 0x51, 0x53, 0x54] := by decide
  have hhead : (f.statBlock valid measured).head? = some 0x44 := by
    unfold CamFrame.statBlock
    simp only [List.head?_append, hmagic, List.head?_cons, Option.some_or]
  exact List.head?_eq_some_iff.mp hhead

/-- A pipeline abandoned with its write served stores its statistics block, marked not valid, in its ring (R192, R201). -/
theorem State.abandonPipe_served_cells {s : State} {k : Nat} {f : CamFrame} (hf : (s.pipe k).frame = some f)
    (hl : (s.pipe k).statsLost = false) (code : Code) :
    (s.abandonPipe k code true).cells =
      Memory.writeN s.cells (s.reg 0x3840_1F f.ctx + 8192 * (f.seq % 4)) (f.statBlock false f.unmeasured) := by
  obtain ⟨hc, hr, hs⟩ := s.abandonAll_frame [(s.pipe k).display, (s.pipe k).coding, (s.pipe k).vision]
  have hsplit : s.abandonPipe k code true =
      State.dropCamera (((s.abandonAll [(s.pipe k).display, (s.pipe k).coding, (s.pipe k).vision]).setPipe k {}).writeStats f false
        f.unmeasured) f.ctx f.seq code := by
    simp only [State.abandonPipe, hf, hl, Bool.not_false, Bool.and_true, if_true, State.abandonAll] <;> rfl
  rw [hsplit, State.dropCamera_cells_of rfl, State.writeStats_cells, State.setPipe_cells_of hc]
  congr 2
  exact State.reg_congr hr hs _ _

/-! ### What a plan leaves of memory (R107, R327) -/

theorem State.setFields_cells (s : State) (fs : List Staged) :
    (fs.foldl (fun (t : State) f => t.setReg f.key f.inst f.v.n) s).cells = s.cells := by
  refine foldl_cells (fun t f ht => ?_) fs rfl
  exact State.setReg_cells_of ht ..

/-- The state in which a plan is installed: an automatic one ends the re-plan that made it, and the evacuation's apply frame has
come. -/
def State.beforePlan (s : State) (auto : Bool) : State :=
  if auto then
    let t := match s.dram.evacuating with | some c => s.moveHolds.abandonOn c | none => s
    if t.replanning then t.endRecovery else t
  else s

theorem State.beforePlan_cells {s : State} {c : Nat} (hc : s.dram.evacuating = some c) :
    (s.beforePlan true).cells = (s.moveHolds.abandonOn c).cells := by
  simp only [State.beforePlan, hc, if_true]
  split <;> rfl

/-- A plan is installed without a store. -/
theorem State.installPlan_cells (s : State) (slot : Nat) (p : Plan) (auto : Bool) :
    (s.installPlan slot p auto).cells = (s.beforePlan auto).cells := by
  unfold State.installPlan
  dsimp only
  generalize hu : (if auto = true then _ else s) = u
  have hucells : u.cells = (s.beforePlan auto).cells := by
    rw [← hu]
    rfl
  generalize hd : (u.installSets p.sources).configPlan p = d
  have hdcells : d.cells = (s.beforePlan auto).cells := by
    rw [← hd]
    exact State.configPlan_cells_of (State.installSets_cells_of hucells _) _
  refine (State.noteBanks_cells_of rfl).trans ?_
  split
  · exact (State.setFields_cells _ _).trans hdcells
  · exact (State.setFields_cells _ _).trans hdcells

/-- A commit that installs a plan stores no more than the plan's start. -/
theorem State.installWide_cells (s : State) {p : Pending} {q : Plan} (hq : p.plan = some q) (wf : Nat) :
    (s.installWide p wf).cells = (s.beforePlan p.auto).cells := by
  unfold State.installWide
  dsimp only
  with_reducible
    apply State.settlePower_cells_of
    apply State.noteApplied_cells_of
    simp only [State.cells_mk, State.mem_cells]
    apply State.coverOutputs_cells_of
    apply State.noteGating_cells_of
    apply State.noteWritebacks_cells_of
    apply State.renewGroups_cells_of
    apply State.applyEnables_cells_of
    apply ite_cells
    · apply State.advanceEpoch_cells_of
      apply State.applyFields_cells_of
      rw [hq]
      exact s.installPlan_cells ..
    · apply State.applyFields_cells_of
      rw [hq]
      exact s.installPlan_cells ..

/-! ### What a frame start leaves of memory (R155) -/

/-- The state once the code of a frame's FAULT veil, where one is due, has been reported (R56). -/
def State.veilNoted (s : State) (o of : Nat) : State :=
  match (s.frameKind o of).2 with
  | some c => if c = fr 0x07 then s.noteLimit o of else s.record 0x073 (some c) o (shownFrame of : Nat)
  | none => s

/-- A frame of a running output opens as a frame of its kind; one that is composed leaves the substitution. -/
def State.opened (s : State) (o of : Nat) : State :=
  let t := (s.veilNoted o of).openFrame o of (s.frameKind o of).1
  if (s.frameKind o of).1 = .composed then t.leaveSubst [o] else t

theorem State.veilNoted_cells (s : State) (o of : Nat) : (s.veilNoted o of).cells = s.cells := by
  unfold State.veilNoted
  split
  · exact ite_cells (State.noteLimit_cells_of rfl _ _) (State.record_cells_of rfl ..)
  · rfl

theorem State.opened_cells (s : State) (o of : Nat) : (s.opened o of).cells = s.cells := by
  have ht := State.openFrame_cells_of (s.veilNoted_cells o of) o of (s.frameKind o of).1
  exact ite_cells (State.leaveSubst_cells_of ht [o]) ht

theorem State.startFrame_eq (s : State) (o : Nat) {v : State}
    (hv : v = ((s.closeFrame o).applyAt o (s.output o).nextOf).switchBackAt o (s.output o).nextOf)
    (hrun : (v.output o).running = true) : s.startFrame o = (v.opened o (s.output o).nextOf).correctPhase o := by
  simp only [State.startFrame, ← hv, hrun, Bool.not_true, Bool.false_eq_true, if_false] <;> rfl

theorem State.startFrame_cells (s : State) (o : Nat) {v : State}
    (hv : v = ((s.closeFrame o).applyAt o (s.output o).nextOf).switchBackAt o (s.output o).nextOf)
    (hrun : (v.output o).running = true) : (s.startFrame o).cells = v.cells := by
  rw [s.startFrame_eq o hv hrun]
  exact State.correctPhase_cells_of (v.opened_cells ..) o

/-- The state once a frame start has been settled: commits reported, a takeover noted, and the power domains settled. -/
def State.frameSettled (s old : State) (o : Nat) : State := ((s.settleCommits.reportApplied old).noteFresh o).settlePower

theorem State.frameSettled_cells (s old : State) (o : Nat) : (s.frameSettled old o).cells = s.cells :=
  State.settlePower_cells_of (State.noteFresh_cells_of (State.reportApplied_cells_of (State.settleCommits_cells_of rfl) old) o)

theorem exec_outputFrameStart {s : State} {o : Fin 32} (hl : s.live = true) (hr : (s.output o).running = true)
    (ht : s.reached (s.nextStart o) = true) :
    exec (.outputFrameStart o) s = .next ((s.startFrame o).frameSettled s o) := by
  simp only [exec, execOutputFrameStart, whenLive_next hl, hr, ht, Bool.and_self, if_true, State.frameSettled]

/-! ### The refuting state -/

/-- The automatic re-plan of an evacuation, due at wall frame 0. -/
def evacuationReplan : Pending := { ticket := 0, auto := true, lockedIn := true, applyWF := some 0, plan := some {} }

/-- A frame of camera context 0 that its pipeline processes. -/
def evacuatedFrame : CamFrame := { ctx := 0, seq := 1, slot := 0, origin := 0, unlocked := false, era := 0 }

/-- Output 0 runs and its frame 0 is about to start, with which channel 1 is evacuated, on which pipeline 0 fills Ingot 0. -/
def evacuatedAsFrameStarts : State :=
  { State.reset with
    regs := [(regKey 0x3400_02 0, 1), (regKey 0x3840_1F 0, 0x10000)] ++ (List.range 24).map fun d => (regKey 0x6400_02 d, 2)
    power := { mgmt := true, booted := true }
    outputs := [(0, { running := true })]
    ingots := [(0, { slot := 0, base := 0x100000000, size := 0x10000, st := .filling, filler := .isp })]
    slots := [(0, { set := [0] })]
    pipes := [(0, { display := some 0, frame := some evacuatedFrame })]
    dram := { evacuating := some 1 }
    commits := { waiting := [evacuationReplan] } }

/-- A switch-back that is not in progress does not move. -/
theorem State.switchBackAt_none {s : State} (h : s.recover.active = none) (o of : Nat) : s.switchBackAt o of = s := by
  simp only [State.switchBackAt, h]

/-- What applies with a frame where one commit waits, whose wall frame it is and which has no part of the output. -/
theorem State.applyAt_singleWide {s : State} {p : Pending} {o of : Nat} (hw : s.commits.waiting = [p])
    (hd : p.wideDue (s.divisor o) of = true) (hp : p.partDue o of = false) :
    s.applyAt o of = s.installWide p (of / s.divisor o) := by
  simp only [State.applyAt, hw, List.foldl_cons, List.foldl_nil, hd, hp, Bool.false_eq_true, if_true, if_false]

theorem evacuatedAsFrameStarts_closes : evacuatedAsFrameStarts.closeFrame 0 = evacuatedAsFrameStarts := by decide +kernel

/-- With the frame the re-plan applies, and nothing else. -/
theorem evacuatedAsFrameStarts_applies :
    ((evacuatedAsFrameStarts.closeFrame 0).applyAt 0 0).switchBackAt 0 0 =
      evacuatedAsFrameStarts.installWide evacuationReplan 0 := by
  rw [evacuatedAsFrameStarts_closes,
    State.applyAt_singleWide (p := evacuationReplan) rfl (by decide +kernel) (by decide +kernel)]
  exact State.switchBackAt_none (by decide +kernel) 0 0

/-- The re-plan abandons the one pipeline that fills an Ingot on channel 1. -/
theorem evacuatedAsFrameStarts_abandons :
    (evacuatedAsFrameStarts.moveHolds.abandonOn 1).cells =
      (evacuatedAsFrameStarts.moveHolds.abandonPipe 0 (inc 0x07) true).cells := by
  rfl

/-- With the frame the statistics block of the pipeline's frame is stored: its first byte stands in the context's ring. -/
theorem evacuatedAsFrameStarts_stores :
    Memory.read (evacuatedAsFrameStarts.installWide evacuationReplan 0).cells 0x12000 = 0x44 := by
  obtain ⟨bs, hblock⟩ := evacuatedFrame.statBlock_head false evacuatedFrame.unmeasured
  rw [State.installWide_cells _ rfl, show evacuationReplan.auto = true from rfl, State.beforePlan_cells rfl,
    evacuatedAsFrameStarts_abandons, State.abandonPipe_served_cells (f := evacuatedFrame) rfl rfl, hblock]
  exact Memory.read_writeN_same 0x12000 _ 0 (by decide +kernel) (by simp)

/-- Refutes O17: an automatic re-plan that applies with a frame abandons what fills Ingots on the channel being evacuated, and the
statistics of a pipeline so abandoned are written (R192, R327), so that memory does not stay as the last clause has it. -/
theorem not_frameStartTakesItsKind : ¬ Obligations.FrameStartTakesItsKind := by
  intro h
  have hrun : ((((evacuatedAsFrameStarts.closeFrame 0).applyAt 0 0).switchBackAt 0 0).output 0).running = true := by
    decide +kernel
  obtain ⟨u, hexec, -, -, -, -, -, -, -, -, hcells, -⟩ :=
    h evacuatedAsFrameStarts _ 0 0 (by decide +kernel) (by decide +kernel) (by decide +kernel) rfl rfl hrun
  have hsettled : u.frameSettled evacuatedAsFrameStarts 0 =
      (evacuatedAsFrameStarts.startFrame 0).frameSettled evacuatedAsFrameStarts 0 :=
    Host.Outcome.next.inj (hexec.symm.trans
      (exec_outputFrameStart (o := 0) (by decide +kernel) (by decide +kernel) (by decide +kernel)))
  have hu : u.cells = (evacuatedAsFrameStarts.installWide evacuationReplan 0).cells := by
    rw [← State.frameSettled_cells u evacuatedAsFrameStarts 0, hsettled, State.frameSettled_cells,
      State.startFrame_cells _ _ rfl hrun]
    exact congrArg State.cells evacuatedAsFrameStarts_applies
  have hread := evacuatedAsFrameStarts_stores
  rw [← hu, hcells] at hread
  exact absurd hread (by decide +kernel)

end Sys2Proof.Machine
end

section
/-! PROOFS. The servo (R272-R274): a sample that steps wall time and is the fourth bad one of a device whose own state is locked
also ends in holdover, whose rate takes up part of the offset. -/

namespace Sys2Proof.Machine

theorem exec_servoSample {s : State} {x : Int} {xs : List Int} (hm : s.managed = true) (hx : s.time.samples = x :: xs)
    (steer : Int) :
    exec (.servoSample steer) s = .next (State.servo { s with time := { s.time with samples := xs } } x steer) := by
  simp only [exec, execServoSample, whenManaged_next hm, hx]

/-! ### The refuting state -/

/-- Twenty seconds after its own state has locked, a device under source 1 shows the unlocked state; it has had three bad samples,
and one of a second waits. -/
def steppedAsLockIsLost : State :=
  { State.reset with
    regs := [(regKey 0x4800_02 0, 2 ^ 30)] ++ (List.range 24).map fun d => (regKey 0x6400_02 d, 2)
    power := { mgmt := true, booted := true }
    time := { counter := 20000000000, uptime := 20000000000, own := 0, lockedSince := some 0, bad := 3, samples := [1000000000] } }

/-- The step moves the offset by a second, and the holdover that follows by 76293 ns more. -/
theorem steppedAsLockIsLost_offset :
    (State.servo { steppedAsLockIsLost with time := { steppedAsLockIsLost.time with samples := [] } } 1000000000 0).reg
        0x4800_03 0 ≠
      ofSigned 64 (steppedAsLockIsLost.offset + -1000000000) := by
  decide +kernel

/-- Refutes O39: after the servo has stepped, a device whose own state was locked loses lock with its fourth bad sample; its
holdover sets the mean rate and the offset takes up the difference (R270, R273), so that the offset is not the one that the step
left. The statement bounds the state that is shown, L:4800.06, and not the device's own. -/
theorem not_timeIsSteered : ¬ Obligations.TimeIsSteered := by
  rintro ⟨-, -, -, hservo, -⟩
  obtain ⟨t, hexec, -, -, -, hstep, -⟩ :=
    hservo steppedAsLockIsLost 0 1000000000 [] (by decide +kernel) rfl (by decide +kernel)
  obtain ⟨hoffset, -⟩ := hstep (by decide +kernel) (by decide +kernel)
  have ht : t = State.servo { steppedAsLockIsLost with time := { steppedAsLockIsLost.time with samples := [] } } 1000000000 0 :=
    Host.Outcome.next.inj (hexec.symm.trans (exec_servoSample (by decide +kernel) rfl 0))
  rw [ht] at hoffset
  exact steppedAsLockIsLost_offset hoffset

end Sys2Proof.Machine
end

section
/-! PROOFS. Forwarding (R254, R344): a port whose twin still sends a source's stream starts none of its frames. -/

namespace Sys2Proof.Machine

/-- A source that is forwarded on its port is sent as R254 and R344 say. -/
theorem exec_forwardFrameStart {s : State} {slot : Fin 40} {x : Source} (hl : s.live = true) (hx : s.source slot = some x)
    (hp : x.upPort < 24) : exec (.forwardFrameStart slot) s = .next (s.forward slot x) := by
  simp only [exec, execForwardFrameStart, whenLive_next hl, hx, hp, if_true]

/-- While the twin of a source's port still has cells of its stream, no frame of it starts (R344). -/
theorem State.forward_twinWaits {s : State} {slot i : Nat} {x : Source} (hi : s.latest slot = some i)
    (hw : s.streamWaits (s.reg 0x5840_02 x.upPort) x.upStream = true) : s.forward slot x = s := by
  simp [State.forward, hi, hw]

/-! ### The refuting state -/

/-- A source that is forwarded on port 0, as its stream 0. -/
def forwardedSource : Source :=
  { id := 1, kind := 2, fmt := 0, rate := 60000, locator := 0, width := 64, height := 4, name := [0x41], ingotCount := 1, memory := 0
    upPort := 0, upStream := 0, bases := [0x100000], size := 0x10000 }

/-- Ports 0 and 1 are twins in service; the source's next frame is Ready, and of the one before a cell still waits on port 1. -/
def twinStillSends : State :=
  { State.reset with
    regs := [(regKey 0x4400_09 0, 2), (regKey 0x4400_09 1, 2), (regKey 0x5840_02 0, 1)] ++
      (List.range 24).map fun d => (regKey 0x6400_02 d, 2)
    power := { mgmt := true, booted := true }
    sources := [(0, forwardedSource)]
    slots := [(0, { set := [0], latest := some 0 })]
    ingots := [(0, { slot := 0, base := 0x100000, size := 0x10000, st := .ready, seq := 1 })]
    ports := [(1, { outbox := [{ due := 0, cell := cellOf 1 2 0 0 [] }] })] }

/-- Refutes O37: the clause for forwarding looks at the source's port alone, and while cells of the stream still wait on the port's
twin, which sends the same frames, none starts (R344). -/
theorem not_linkChannelsKeepTheirOrder : ¬ Obligations.LinkChannelsKeepTheirOrder := by
  rintro ⟨-, -, -, -, -, hforward, -⟩
  obtain ⟨t, hexec, hscanning, -⟩ := hforward twinStillSends 0 forwardedSource 0 (by decide +kernel) (by decide +kernel)
    (by decide +kernel) (by decide +kernel) (by decide +kernel) (by decide +kernel) (by decide +kernel) (by decide +kernel)
    (by decide +kernel) (by decide +kernel)
  have ht : t = twinStillSends := by
    rw [exec_forwardFrameStart (by decide +kernel) (x := forwardedSource) (by decide +kernel) (by decide +kernel),
      State.forward_twinWaits (i := 0) (by decide +kernel) (by decide +kernel)] at hexec
    exact (Host.Outcome.next.inj hexec).symm
  rw [ht] at hscanning
  exact absurd hscanning (by decide +kernel)

end Sys2Proof.Machine
end

section
/-! PROOFS. Outcome records (R306, R418): the part that a clear acts on is the one that its session's selector names, and no check
of the write bounds it. -/

namespace Sys2Proof.Machine

/-- A clear of the outcomes puts the registers of the part that its session names (R306). -/
theorem clearOutcomesOp_served (s : State) (ss port : Nat) (v : Val) :
    ∃ u, clearOutcomesOp s ss port v = (u, .ok) ∧ Tbl.find u.regs (regKey 0x5020_09 port) = some 0 :=
  ⟨_, rfl, Tbl.find_put_same _ _ _⟩

/-! ### The refuting state -/

/-- A device with a session whose selector of the index of outcome records, L:5020.01, names a part past every port. -/
def selectorPastPorts : State :=
  { State.reset with
    regs := (List.range 24).map fun d => (regKey 0x6400_02 d, 2)
    acc := { sessions := [{ id := 1, peer := .pcie 0, level := 2, fields := [(0x5020_01, 2 ^ 24)] }] }
    power := { mgmt := true, booted := true } }

/-- Refutes O43: a clear writes the registers of whatever part the session's selector names; for one of 2^24 they lie past the
group of L:5020, which the clause says is the only one to change. The statement asks no more of the part than that it is the
session's. -/
theorem not_fabricServesRequests : ¬ Obligations.FabricServesRequests := by
  rintro ⟨-, -, -, -, -, -, -, -, -, -, -, -, -, -, hclear⟩
  obtain ⟨t, hexec, -, -, hgroups, -⟩ := hclear selectorPastPorts 1 1 (2 ^ 24) (by decide +kernel) (by decide +kernel)
    (by decide +kernel)
  obtain ⟨u, hop, hput⟩ := clearOutcomesOp_served (selectorPastPorts.touched 1) 1 (selectorPastPorts.partOf 1 0x5020_0A) (.num 1)
  have ht : t = u.reply 1 .ok :=
    Host.Outcome.next.inj (hexec.symm.trans (ledgerWrite_next (by decide +kernel) (by decide +kernel) hop rfl))
  have hpart : selectorPastPorts.partOf 1 0x5020_0A = 2 ^ 24 := by decide +kernel
  have hwritten : Tbl.find t.regs (regKey 0x5020_09 (2 ^ 24)) = some 0 := by
    rw [ht, State.reply_regs, ← hpart]
    exact hput
  have hkept : Tbl.find t.regs (regKey 0x5020_09 (2 ^ 24)) = none := hgroups _ (by decide)
  rw [hwritten] at hkept
  cases hkept

end Sys2Proof.Machine
end

section
/-! PROOFS. Placement (R89-R92, R94, R399): what starts a placement, what its end leaves, and how an automatic re-plan's plan comes
to wait as a commit. -/

namespace Sys2Proof.Machine

/-! ### What the placement engine runs (R89, R92) -/

/-- The state in which the placement engine runs `p` on a shadow. -/
def State.withPlacing (s : State) (p : Placing) (inputs : Tbl Shadow) : State :=
  { s with smith := { s.smith with placing := p, inputs := inputs } }

section
variable {s : State} {ss v : Nat}

/-- While nothing is placed, a write of L:2400.02 starts a placement on the scene and the shadow as they are. -/
theorem placeOp_starts (hidle : s.smith.placing = .idle) (hstatus : s.reg 0x2400_03 ≠ 1) (ss inst : Nat) :
    placeOp s ss inst (.num v) =
      ((s.withPlacing (if v = 0x10 then .dry (s.blob 0x2400_01) else .host v (s.blob 0x2400_01)) s.shadow).setReg 0x2400_03 0 1,
        .ok) := by
  rw [placeOp, if_neg (by simp [hidle, hstatus])]
  rfl

/-- A placement that a session asks for: what it runs, and that of the ledger its status alone is written (R89). -/
theorem placeWrite_starts (hm : s.managed = true) (hw : s.mayWrite ss 0x2400_02 (.num v) = true)
    (hidle : s.smith.placing = .idle) (hstatus : s.reg 0x2400_03 ≠ 1) :
    ∃ t, whenManaged s (fun s => s.ledgerWrite ss 0x2400_02 (.num v) placeOp) = .next t ∧
      t.smith.placing = (if v = 0x10 then .dry (s.blob 0x2400_01) else .host v (s.blob 0x2400_01)) ∧
      t.smith.inputs = s.shadow ∧ t.reg 0x2400_03 = 1 ∧ t.smith.slots = s.smith.slots ∧
      s.ledgerBut t [regKey 0x2400_03 0] ∧ t.log = s.log ∧ t.sent = .reply ss {} :: s.sent ∧ t.cells = s.cells ∧
      t.still = s.still := by
  have hop := placeOp_starts (s := s.touched ss) (v := v) (by simpa using hidle) (by simpa using hstatus) ss
    (s.partOf ss 0x2400_02)
  have hexec := ledgerWrite_next hm hw hop rfl
  obtain ⟨acc, hacc⟩ := s.touched_eq ss
  rw [hacc] at hexec
  exact ⟨_, hexec, rfl, rfl, by rw [State.reply_reg, State.reg_setReg_same], rfl,
    ⟨State.regsBut_put (s.regsBut_refl _) rfl (List.mem_singleton_self _), rfl, rfl⟩, rfl, rfl, rfl, rfl⟩

/-- A slot other than that of the plan in force empties (R91). -/
theorem emptySlotOp_empties (h : s.planInForce ≠ v) (ss inst : Nat) :
    emptySlotOp s ss inst (.num v) =
      ({ s with smith := { s.smith with slots := Tbl.erase s.smith.slots v } }.setBlob (0x2410_01 + v) 0 [], .ok) :=
  if_neg h

/-! ### The end of a placement (R89, R399) -/

/-- With no start-up placement waiting, none runs once one has ended. -/
theorem State.endPlacing_notDue (h : s.smith.startUpDue = false) : s.endPlacing = s.withPlacing .idle [] :=
  if_neg (by simp [h])

/-- On a device that serves alone, the start-up placement runs where nothing else does (R399). -/
theorem State.placeStartUp_idle (hidle : s.smith.placing = .idle) (hon : s.flag 0x6400_0D = true) (halone : s.reg 0x5800_03 = 0) :
    s.placeStartUp = { s with smith := { s.smith with
      placing := .startUp (s.blob 0x6400_0C), inputs := s.shadow, startUpDue := false } } := by
  rw [State.placeStartUp, if_neg (by simp [hon, halone]), if_pos hidle]

/-- A start-up placement that waits runs once the one before it has ended (R399). -/
theorem State.endPlacing_due (h : s.smith.startUpDue = true) (hon : s.flag 0x6400_0D = true) (halone : s.reg 0x5800_03 = 0) :
    s.endPlacing = { s with smith := { s.smith with
      placing := .startUp (s.blob 0x6400_0C), inputs := s.shadow, startUpDue := false } } :=
  (if_pos h).trans (State.placeStartUp_idle (s := s.withPlacing .idle []) rfl hon halone)

end

/-! ### Results and stored plans (R89-R91) -/

section
variable (s : State)

@[simp] theorem State.placementResult_smith (status code : Nat) (report : Bytes) :
    (s.placementResult status code report).smith = s.smith := rfl
@[simp] theorem State.placementResult_plan (status code : Nat) (report : Bytes) :
    (s.placementResult status code report).plan = s.plan := rfl
@[simp] theorem State.placementResult_commits (status code : Nat) (report : Bytes) :
    (s.placementResult status code report).commits = s.commits := rfl
@[simp] theorem State.placementResult_shadow (status code : Nat) (report : Bytes) :
    (s.placementResult status code report).shadow = s.shadow := rfl
@[simp] theorem State.placementResult_sent (status code : Nat) (report : Bytes) :
    (s.placementResult status code report).sent = s.sent := rfl
@[simp] theorem State.placementResult_log (status code : Nat) (report : Bytes) :
    (s.placementResult status code report).log = s.log := rfl

@[simp] theorem State.placementResult_status (status code : Nat) (report : Bytes) :
    (s.placementResult status code report).reg 0x2400_03 0 = status := by
  rw [State.placementResult, State.setBlob_reg, State.reg_setReg_key _ _ (by decide) (by decide) (by decide), State.reg_setReg_same]
@[simp] theorem State.placementResult_code (status code : Nat) (report : Bytes) :
    (s.placementResult status code report).reg 0x2400_04 0 = code := by simp [State.placementResult]
@[simp] theorem State.placementResult_report (status code : Nat) (report : Bytes) :
    (s.placementResult status code report).blob 0x2400_05 0 = report := by simp [State.placementResult]
theorem State.placementResult_blob_other (status code : Nat) (report : Bytes) {k i : Nat} (h : regKey k i ≠ regKey 0x2400_05 0) :
    (s.placementResult status code report).blob k i = s.blob k i := State.blob_setBlob_ne _ _ h

/-- A result writes its two registers. -/
theorem State.placementResult_regsBut (status code : Nat) (report : Bytes) :
    s.regsBut (s.placementResult status code report) [regKey 0x2400_03 0, regKey 0x2400_04 0] :=
  State.regsBut_put (State.regsBut_put (s.regsBut_refl _) (State.setReg_regs s _ _ _) (by simp)) rfl (by simp)

/-- A result writes its report. -/
theorem State.placementResult_blobsBut (status code : Nat) (report : Bytes) :
    s.blobsBut (s.placementResult status code report) [regKey 0x2400_05 0] :=
  State.blobsBut_put (s.blobsBut_refl _) rfl (by simp)

variable (slot : Nat) (p : Plan)

@[simp] theorem State.holdApart_smith : (s.holdApart slot).smith = s.smith := by unfold State.holdApart; split <;> rfl
@[simp] theorem State.holdApart_regs : (s.holdApart slot).regs = s.regs := by unfold State.holdApart; split <;> rfl
@[simp] theorem State.holdApart_plan : (s.holdApart slot).plan = s.plan := by unfold State.holdApart; split <;> rfl
@[simp] theorem State.holdApart_commits : (s.holdApart slot).commits = s.commits := by unfold State.holdApart; split <;> rfl
@[simp] theorem State.holdApart_shadow : (s.holdApart slot).shadow = s.shadow := by unfold State.holdApart; split <;> rfl
@[simp] theorem State.holdApart_sent : (s.holdApart slot).sent = s.sent := by unfold State.holdApart; split <;> rfl
@[simp] theorem State.holdApart_log : (s.holdApart slot).log = s.log := by unfold State.holdApart; split <;> rfl

@[simp] theorem State.storePlan_smith :
    (s.storePlan slot p).smith = { s.smith with slots := Tbl.put s.smith.slots slot p } := by simp [State.storePlan]
@[simp] theorem State.storePlan_regs : (s.storePlan slot p).regs = s.regs := by simp [State.storePlan]
@[simp] theorem State.storePlan_plan : (s.storePlan slot p).plan = s.plan := by simp [State.storePlan]
@[simp] theorem State.storePlan_commits : (s.storePlan slot p).commits = s.commits := by simp [State.storePlan]
@[simp] theorem State.storePlan_shadow : (s.storePlan slot p).shadow = s.shadow := by simp [State.storePlan]
@[simp] theorem State.storePlan_sent : (s.storePlan slot p).sent = s.sent := by simp [State.storePlan]
@[simp] theorem State.storePlan_log : (s.storePlan slot p).log = s.log := by simp [State.storePlan]
@[simp] theorem State.storePlan_report : (s.storePlan slot p).blob (0x2410_01 + slot) 0 = p.report := by simp [State.storePlan]

theorem State.holdApart_other {s : State} {slot : Nat} (h : s.planSlot ≠ slot) : s.holdApart slot = s := if_neg h

theorem State.holdApart_inForce {s : State} {slot : Nat} (h : s.planSlot = slot) :
    s.holdApart slot =
      { s with planSlot := 0xFE }.setBlob 0x2410_05 0 (match s.plan with | some p => p.report | none => []) := if_pos h

/-- Of the byte values a stored plan changes its slot's report and, at most, that of the plan held apart (R91). -/
theorem State.storePlan_blobsBut {ks : List Nat} (hslot : regKey (0x2410_01 + slot) 0 ∈ ks) (happart : regKey 0x2410_05 0 ∈ ks) :
    s.blobsBut (s.storePlan slot p) ks := by
  refine State.blobsBut_put (u := s.holdApart slot) ?_ rfl hslot
  by_cases h : s.planSlot = slot
  · rw [State.holdApart_inForce h]
    exact State.blobsBut_put (s.blobsBut_refl ks) rfl happart
  · rw [State.holdApart_other h]
    exact s.blobsBut_refl ks

/-- A plan stored in another slot than that of the plan in force leaves it there (R91). -/
theorem State.storePlan_other {s : State} {slot : Nat} (hslot : slot < 4) (h : s.planSlot ≠ slot) (p : Plan) :
    (s.storePlan slot p).planSlot = s.planSlot ∧ (s.storePlan slot p).blob 0x2410_05 = s.blob 0x2410_05 := by
  rw [State.storePlan, State.holdApart_other h]
  exact ⟨rfl, State.blob_setBlob_ne _ _ (by unfold regKey; omega)⟩

/-- A plan stored in the slot of the plan in force leaves that held apart, with its report (R91). -/
theorem State.storePlan_inForce {s : State} {slot : Nat} (hslot : slot < 4) (h : s.planSlot = slot) (p : Plan) :
    (s.storePlan slot p).planSlot = 0xFE ∧
      (s.storePlan slot p).blob 0x2410_05 = match s.plan with | some q => q.report | none => [] := by
  rw [State.storePlan, State.holdApart_inForce h]
  exact ⟨rfl, (State.blob_setBlob_ne _ _ (by unfold regKey; omega)).trans (State.blob_setBlob_same _ _ _ _)⟩

end

/-! ### What a placement's end reports (R89-R91) -/

/-- A placement has ended with a result that only its report's entries show: no slot changes, no commit, and nothing is sent. -/
def State.reportsOnly (s t : State) (status code : Nat) (report : Bytes) : Prop :=
  t.smith.slots = s.smith.slots ∧ t.smith.placing = .idle ∧ t.reg 0x2400_03 = status ∧ t.reg 0x2400_04 = code ∧
    t.blob 0x2400_05 = report ∧ t.plan = s.plan ∧ t.commits = s.commits ∧
    s.regsBut t [regKey 0x2400_03 0, regKey 0x2400_04 0] ∧ s.blobsBut t [regKey 0x2400_05 0] ∧ t.shadow = s.shadow ∧
    t.sent = s.sent ∧ t.log = s.log ∧ t.cells = s.cells ∧ t.still = s.still

section
variable {s : State} {us slot : Nat} {scene : Bytes}

theorem State.endPlacing_reportsOnly (hdue : s.smith.startUpDue = false) (status code : Nat) (report : Bytes) :
    s.reportsOnly (s.endPlacing.placementResult status code report) status code report := by
  rw [State.endPlacing_notDue hdue]
  exact ⟨rfl, rfl, State.placementResult_status .., State.placementResult_code .., State.placementResult_report .., rfl, rfl,
    (s.withPlacing .idle []).placementResult_regsBut _ _ _,
    (s.withPlacing .idle []).placementResult_blobsBut _ _ _, rfl, rfl, rfl, rfl, rfl⟩

theorem exec_placementDone_host (hm : s.managed = true) (hsubst : s.recover.subst = none)
    (hp : s.smith.placing = .host slot scene) : exec (.placementDone us) s = .next (s.placed slot scene us true) := by
  simp only [exec, execPlacementDone, whenManaged_next hm, hsubst, hp]
  rfl

theorem exec_placementDone_dry (hm : s.managed = true) (hsubst : s.recover.subst = none)
    (hp : s.smith.placing = .dry scene) : exec (.placementDone us) s = .next (s.dried scene us) := by
  simp only [exec, execPlacementDone, whenManaged_next hm, hsubst, hp]
  rfl

theorem State.placed_failed {code : Nat} {report : Bytes}
    (hplan : s.asStarted.smithPlan scene slot us false = .inl (code, report)) :
    s.placed slot scene us true = s.endPlacing.placementResult 3 code report := by
  unfold State.placed
  simp only [hplan]
  rfl

theorem State.placed_planned {p : Plan} (hplan : s.asStarted.smithPlan scene slot us false = .inr p) :
    s.placed slot scene us true = (s.endPlacing.storePlan slot p).placementResult 2 0 p.report := by
  unfold State.placed
  simp only [hplan]
  rfl

theorem State.dried_failed {code : Nat} {report : Bytes}
    (hplan : s.asStarted.smithPlan scene 0xFF us false = .inl (code, report)) :
    s.dried scene us = s.endPlacing.placementResult 3 code report := by
  unfold State.dried
  simp only [hplan]

theorem State.dried_planned {p : Plan} (hplan : s.asStarted.smithPlan scene 0xFF us false = .inr p) :
    s.dried scene us = s.endPlacing.placementResult 2 0 p.report := by
  unfold State.dried
  simp only [hplan]

/-- A placement into a slot that has made its plan (R89, R91). -/
theorem State.placed_stores {p : Plan} (hslot : slot < 4) (hdue : s.smith.startUpDue = false)
    (hplan : s.asStarted.smithPlan scene slot us false = .inr p) :
    ∃ t, s.placed slot scene us true = t ∧ Tbl.find t.smith.slots slot = some p ∧ t.blob (0x2410_01 + slot) = p.report ∧
      t.smith.placing = .idle ∧ t.reg 0x2400_03 = 2 ∧ t.reg 0x2400_04 = 0 ∧ t.blob 0x2400_05 = p.report ∧
      (∀ k, k ≠ slot → Tbl.find t.smith.slots k = Tbl.find s.smith.slots k) ∧ t.plan = s.plan ∧ t.commits = s.commits ∧
      s.regsBut t [regKey 0x2400_03 0, regKey 0x2400_04 0] ∧
      s.blobsBut t [regKey 0x2400_05 0, regKey (0x2410_01 + slot) 0, regKey 0x2410_05 0] ∧
      (s.planSlot ≠ slot → t.planSlot = s.planSlot ∧ t.blob 0x2410_05 = s.blob 0x2410_05) ∧
      (s.planSlot = slot → t.planSlot = 0xFE ∧ t.blob 0x2410_05 = match s.plan with | some q => q.report | none => []) ∧
      t.shadow = s.shadow ∧ t.sent = s.sent ∧ t.log = s.log ∧ t.cells = s.cells ∧ t.still = s.still := by
  have hcells : (s.placed slot scene us true).cells = s.cells := State.placed_cells_of rfl slot scene us true
  have hstill : (s.placed slot scene us true).still = s.still := State.placed_still_of rfl slot scene us true
  rw [State.placed_planned hplan, State.endPlacing_notDue hdue] at hcells hstill ⊢
  set u := (s.withPlacing .idle []).storePlan slot p with hu
  have happart : (u.placementResult 2 0 p.report).blob 0x2410_05 = u.blob 0x2410_05 :=
    State.placementResult_blob_other _ _ _ _ (by decide)
  have hregs : u.regs = s.regs := State.storePlan_regs _ _ _
  refine ⟨_, rfl, ?plan, ?report, ?idle, State.placementResult_status .., State.placementResult_code ..,
    State.placementResult_report .., fun k hk => ?slots, ?inForce, ?commits, fun k hk => ?regs, ?blobs, fun h => ?other,
    fun h => ?same, ?shadow, ?sent, ?log, hcells, hstill⟩
  case plan => simp [hu]
  case report =>
    rw [State.placementResult_blob_other _ _ _ _ (by unfold regKey; omega)]
    exact State.storePlan_report _ _ _
  case slots => simp [hu, Tbl.find_put_ne _ _ hk, State.withPlacing]
  case regs => rw [u.placementResult_regsBut _ _ _ k hk, hregs]
  case blobs =>
    exact State.blobsBut_put (u := u) ((s.withPlacing .idle []).storePlan_blobsBut slot p (by simp) (by simp)) rfl (by simp)
  case other =>
    rw [happart]
    exact State.storePlan_other (s := s.withPlacing .idle []) hslot h p
  case same =>
    rw [happart]
    exact State.storePlan_inForce (s := s.withPlacing .idle []) hslot h p
  all_goals simp [hu, State.withPlacing]

/-- Whatever a placement's end reports and stores, what the placement engine runs then, the plan in force and the commits stay. -/
def State.runsOn (s t : State) : Prop :=
  t.smith.placing = s.smith.placing ∧ t.smith.inputs = s.smith.inputs ∧ t.smith.startUpDue = s.smith.startUpDue ∧
    t.plan = s.plan ∧ t.commits = s.commits ∧ t.shadow = s.shadow ∧ t.sent = s.sent ∧ t.log = s.log

theorem State.placed_runsOn (s : State) (slot : Nat) (scene : Bytes) (us : Nat) :
    s.endPlacing.runsOn (s.placed slot scene us true) := by
  cases hplan : s.asStarted.smithPlan scene slot us false with
  | inl r =>
    rw [State.placed_failed hplan]
    exact ⟨rfl, rfl, rfl, rfl, rfl, rfl, rfl, rfl⟩
  | inr p =>
    rw [State.placed_planned hplan]
    simp [State.runsOn]

theorem State.dried_runsOn (s : State) (scene : Bytes) (us : Nat) : s.endPlacing.runsOn (s.dried scene us) := by
  cases hplan : s.asStarted.smithPlan scene 0xFF us false with
  | inl r =>
    rw [State.dried_failed hplan]
    exact ⟨rfl, rfl, rfl, rfl, rfl, rfl, rfl, rfl⟩
  | inr p =>
    rw [State.dried_planned hplan]
    exact ⟨rfl, rfl, rfl, rfl, rfl, rfl, rfl, rfl⟩

/-- What runs on after a placement while the start-up placement waits is that one (R399). -/
theorem State.runsOn_startUp {t : State} (h : s.endPlacing.runsOn t) (hdue : s.smith.startUpDue = true)
    (hon : s.flag 0x6400_0D = true) (halone : s.reg 0x5800_03 = 0) :
    t.smith.placing = .startUp (s.blob 0x6400_0C) ∧ t.smith.inputs = s.shadow ∧ t.smith.startUpDue = false ∧ t.plan = s.plan ∧
      t.commits = s.commits ∧ t.shadow = s.shadow ∧ t.sent = s.sent ∧ t.log = s.log := by
  rw [State.endPlacing_due hdue hon halone] at h
  exact h

end

/-! ### The commit of an automatic re-plan (R92, R110, R115) -/

section
variable {s : State} {us epoch : Nat} {scene : Bytes} {q p : Plan}

/-- A re-plan that nothing holds back starts, on the scene of the plan in force (R92). -/
theorem State.startReplan_starts (hdue : s.replanDue = true) (hidle : s.smith.placing = .idle) (hsubst : s.recover.subst = none)
    (hwaits : s.autoWaits = false) (hplan : s.plan = some p) (hauto : s.reg 0x2400_06 = 0) :
    s.startReplan = s.withPlacing (.auto p.scene (s.reg 0x2400_0A)) s.shadow := by
  rw [State.startReplan, if_neg (by simp [hdue, hidle, hsubst, hwaits])]
  split
  · next q hq =>
    obtain rfl := Option.some.inj (hq.symm.trans hplan)
    exact if_pos hauto
  · next hnone => exact nomatch hnone.symm.trans hplan

theorem exec_automaticReplanDone (hm : s.managed = true) (hsubst : s.recover.subst = none)
    (hp : s.smith.placing = .auto scene epoch) : exec (.automaticReplanDone us) s = .next (s.autoPlaced scene epoch us) := by
  simp only [exec, execAutomaticReplanDone, whenManaged_next hm, hsubst, hp]
  rfl

/-- A re-plan runs again for the plan in force where its own scene or its epoch is no longer that (R92). -/
theorem State.autoPlaced_restarts (hplan : s.plan = some q) (h : q.scene ≠ scene ∨ epoch ≠ s.reg 0x2400_0A) :
    s.autoPlaced scene epoch us = s.withPlacing (.auto q.scene (s.reg 0x2400_0A)) s.shadow := by
  unfold State.autoPlaced
  split
  · next hnone => exact nomatch hnone.symm.trans hplan
  · next r hr =>
    obtain rfl := Option.some.inj (hr.symm.trans hplan)
    exact if_pos (by simpa using h)

/-- A re-plan for the plan and the epoch in force, whose domains are on, is committed (R92). -/
theorem State.autoPlaced_replans (hplan : s.plan = some q) (hscene : q.scene = scene)
    (hmade : s.asStarted.smithPlan scene s.planSlot us true = .inr p)
    (hon : s.domainsOff { ticket := 0, slot := s.planSlot, auto := true, plan := some p } [] = []) :
    s.autoPlaced scene (s.reg 0x2400_0A) us = s.endPlacing.replanned p := by
  unfold State.autoPlaced
  simp only [hplan]
  rw [if_neg (by simp [hscene])]
  simp only [hmade, hon]
  rfl

/-! ### What the check of a commit at its lock-in leaves (R115) -/

/-- A commit waits ahead of every other, and the placement engine and the plan in force are these. -/
def State.waitsFirst (s : State) (w : Pending) (smith : Smith) (plan : Option Plan) : Prop :=
  s.commits.waiting.head? = some w ∧ s.smith = smith ∧ s.plan = plan

variable {w : Pending} {smith : Smith} {plan : Option Plan}

@[simp] theorem State.refuseTicket_waiting (s : State) (event id : Nat) (c : Code) (pair member : Nat) :
    (s.refuseTicket event id c pair member).commits.waiting = s.commits.waiting := by
  unfold State.refuseTicket
  split <;> simp [State.setTicket]
@[simp] theorem State.refuseTicket_smith (s : State) (event id : Nat) (c : Code) (pair member : Nat) :
    (s.refuseTicket event id c pair member).smith = s.smith := by
  unfold State.refuseTicket
  split <;> simp [State.setTicket]
@[simp] theorem State.refuseTicket_plan (s : State) (event id : Nat) (c : Code) (pair member : Nat) :
    (s.refuseTicket event id c pair member).plan = s.plan := by
  unfold State.refuseTicket
  split <;> simp [State.setTicket]

/-- The commit of an automatic re-plan that waits first does so after another is dropped. -/
theorem State.failLockIn_waitsFirst (hw : w.auto = true) (h : s.waitsFirst w smith plan) (x : Pending) (c : Code) (pair : Nat) :
    (s.failLockIn x c pair).waitsFirst w smith plan := by
  obtain ⟨hhead, hsmith, hplan⟩ := h
  obtain ⟨rest, hrest⟩ := List.head?_eq_some_iff.mp hhead
  refine ⟨?_, ?_, ?_⟩ <;>
    simp [State.failLockIn, State.unfreeze, State.dropCommit, hrest, hw, hsmith, hplan]

/-- The commit of an automatic re-plan that waits first does so after another is replaced. -/
theorem State.setCommit_waitsFirst (hw : w.auto = true) (h : s.waitsFirst w smith plan) (x : Pending) :
    (s.setCommit x).waitsFirst w smith plan := by
  obtain ⟨hhead, hsmith, hplan⟩ := h
  obtain ⟨rest, hrest⟩ := List.head?_eq_some_iff.mp hhead
  exact ⟨by simp [State.setCommit, hrest, hw], hsmith, hplan⟩

theorem State.lockIn_waitsFirst (hw : w.auto = true) (h : s.waitsFirst w smith plan) (x : Pending) :
    (s.lockIn x).waitsFirst w smith plan := by
  unfold State.lockIn
  split
  · exact h
  · split
    · exact State.failLockIn_waitsFirst hw h x _ _
    · split
      · exact State.failLockIn_waitsFirst hw h x _ _
      · exact State.setCommit_waitsFirst hw h _

theorem State.settlePower_waitsFirst (h : s.waitsFirst w smith plan) : s.settlePower.waitsFirst w smith plan := by
  obtain ⟨_, _, _, ht⟩ := s.settlePower_settles.frame
  rw [ht]
  exact h

/-- The commit of an automatic re-plan, in the slot of the plan in force and past its lock-in (R92). -/
def State.autoCommit (s : State) (p : Plan) : Pending :=
  { ticket := 0, slot := s.planSlot, auto := true, plan := some p, applyWF := some s.earliestWF, lockedIn := true }

/-- The commit of an automatic re-plan waits ahead of every other, those that are checked again included (R92, R110). -/
theorem State.takeAuto_waitsFirst (s : State) (p : Plan) : (s.takeAuto p).waitsFirst (s.autoCommit p) s.smith s.plan := by
  refine State.settlePower_waitsFirst
    (List.foldlRecOn (motive := fun t => State.waitsFirst t (s.autoCommit p) s.smith s.plan) _ _ ⟨rfl, rfl, rfl⟩
      fun t ht x _ => ?_)
  split
  · exact ht
  · exact State.lockIn_waitsFirst rfl ht x

/-- With no commit waiting, none is checked again, and an automatic re-plan's changes no shadow field and tells nothing. -/
theorem State.takeAuto_noneWaits (h : s.commits.waiting = []) (p : Plan) :
    (s.takeAuto p).shadow = s.shadow ∧ (s.takeAuto p).log = s.log ∧ (s.takeAuto p).sent = s.sent := by
  unfold State.takeAuto
  simp only [h, List.map_nil, List.foldl_nil]
  obtain ⟨_, _, _, ht⟩ := (State.settlePower_settles _).frame
  rw [ht]
  exact ⟨rfl, rfl, rfl⟩

/-- What a re-plan that withdraws no view makes of the plans and the commits (R92): its own commit waits first, the plan in force
stays until that applies, and with no other commit waiting nothing else is told. -/
theorem State.replanned_waits (s : State) (hp : p.withdraws = false) :
    ∃ w : Pending, (s.replanned p).commits.waiting.head? = some w ∧ w.auto = true ∧ w.plan = some p ∧
      (s.replanned p).smith.placing = s.smith.placing ∧ (s.replanned p).plan = s.plan ∧
      (s.commits.waiting = [] →
        (s.replanned p).shadow = s.shadow ∧ (s.replanned p).log = s.log ∧ (s.replanned p).sent = s.sent) := by
  obtain ⟨u, ht, hplacing, hplan, hcommits, hshadow, hlog, hsent⟩ : ∃ u : State, s.replanned p = u.takeAuto p ∧
      u.smith.placing = s.smith.placing ∧ u.plan = s.plan ∧ u.commits = s.commits ∧ u.shadow = s.shadow ∧ u.log = s.log ∧
      u.sent = s.sent := by
    unfold State.replanned
    simp only [hp, Bool.false_eq_true, if_false]
    split <;> exact ⟨_, rfl, rfl, rfl, rfl, rfl, rfl, rfl⟩
  obtain ⟨hhead, hsmith, hsame⟩ := u.takeAuto_waitsFirst p
  rw [ht]
  refine ⟨u.autoCommit p, hhead, rfl, rfl, by rw [hsmith, hplacing], hsame.trans hplan, fun h => ?_⟩
  obtain ⟨hshadow', hlog', hsent'⟩ := u.takeAuto_noneWaits (hcommits ▸ h) p
  exact ⟨hshadow'.trans hshadow, hlog'.trans hlog, hsent'.trans hsent⟩

end

/-! ### The obligation -/

/-- Settles O22: a request runs the placement engine on the scene and the shadow as they are, a placement's end is
`State.placementResult` after `State.storePlan` or alone, and a re-plan's end is `State.takeAuto`, whose commit no check of another
at its lock-in takes from the head of those that wait. -/
theorem placementRunsAndReports : Obligations.PlacementRunsAndReports := by
  refine ⟨fun s ss v hm hw hidle hstatus hv => ?place, fun s ss hm hw hidle hstatus => ?dryRun,
    fun s us slot scene p hm hsubst hp hslot hdue hplan => ?planned,
    fun s us slot code scene report hm hsubst hp hdue hplan => ?failed,
    fun s us scene p hm hsubst hp hdue hplan => ?dried,
    fun s us slot scene hm hsubst hp hdue hon halone => ?startUp,
    fun s ss v hm hw hforce => ?emptied,
    fun s p hm hreplan hidle hsubst hwaits hplan hauto => ?replanStarts,
    fun s us scene q p hm hsubst hp hplan hscene hmade hkept hdue hon => ?replanCommits,
    fun s us epoch scene q hm hsubst hp hplan hmoved => ?replanRestarts⟩
  case place =>
    have h := placeWrite_starts hm hw hidle hstatus
    rwa [if_neg hv] at h
  case dryRun =>
    have h := placeWrite_starts hm hw hidle hstatus
    rwa [if_pos rfl] at h
  case planned =>
    obtain ⟨t, ht, h⟩ := State.placed_stores hslot hdue hplan
    exact ⟨t, ht ▸ exec_placementDone_host hm hsubst hp, h⟩
  case failed =>
    exact ⟨_, State.placed_failed hplan ▸ exec_placementDone_host hm hsubst hp,
      State.endPlacing_reportsOnly hdue 3 code report⟩
  case dried =>
    exact ⟨_, State.dried_planned hplan ▸ exec_placementDone_dry hm hsubst hp, State.endPlacing_reportsOnly hdue 2 0 p.report⟩
  case startUp =>
    obtain ⟨t, hexec, hruns, hcells, hstill⟩ : ∃ t, exec (.placementDone us) s = .next t ∧ s.endPlacing.runsOn t ∧
        t.cells = s.cells ∧ t.still = s.still := by
      rcases hp with hp | hp
      · exact ⟨_, exec_placementDone_host hm hsubst hp, s.placed_runsOn slot scene us,
          State.placed_cells_of rfl slot scene us true, State.placed_still_of rfl slot scene us true⟩
      · exact ⟨_, exec_placementDone_dry hm hsubst hp, s.dried_runsOn scene us, State.dried_cells_of rfl scene us,
          State.dried_still_of rfl scene us⟩
    obtain ⟨hplacing, hinputs, hdue', hplan, hcommits, hshadow, hsent, hlog⟩ := State.runsOn_startUp hruns hdue hon halone
    exact ⟨t, hexec, hplacing, hinputs, hdue', hplan, hcommits, hshadow, hsent, hlog, hcells, hstill⟩
  case emptied =>
    obtain ⟨acc, hacc⟩ := s.touched_eq ss
    have hforce' : (s.touched ss).planInForce ≠ v := by rwa [hacc]
    have hexec := ledgerWrite_next hm hw (emptySlotOp_empties hforce' ss (s.partOf ss 0x2410_09)) rfl
    rw [hacc] at hexec
    exact ⟨_, hexec, Tbl.find_erase_same _ _, State.blob_setBlob_same _ _ _ _, rfl, fun k hk => Tbl.find_erase_ne _ hk,
      State.blobsBut_put (s.blobsBut_refl _) rfl (List.mem_singleton_self _), rfl, rfl, rfl, rfl, rfl, rfl⟩
  case replanStarts =>
    have hexec : exec .automaticReplanStart s = .next s.startReplan := whenManaged_next hm _
    rw [State.startReplan_starts hreplan hidle hsubst hwaits hplan hauto] at hexec
    exact ⟨_, hexec, rfl, rfl, rfl, rfl, rfl, rfl, rfl, rfl, rfl, rfl, rfl⟩
  case replanCommits =>
    have ht := State.autoPlaced_replans (us := us) hplan hscene hmade hon
    rw [State.endPlacing_notDue hdue] at ht
    obtain ⟨w, hhead, hauto, hwplan, hplacing, hplan', hnone⟩ := (s.withPlacing .idle []).replanned_waits hkept
    exact ⟨_, w, ht ▸ exec_automaticReplanDone hm hsubst hp, hhead, hauto, hwplan, hplacing, hplan', hnone,
      State.replanned_cells_of rfl p, State.replanned_still_of rfl p⟩
  case replanRestarts =>
    have hexec := exec_automaticReplanDone (us := us) hm hsubst hp
    rw [State.autoPlaced_restarts hplan hmoved] at hexec
    exact ⟨_, hexec, rfl, rfl, rfl, rfl, rfl, rfl, rfl, rfl, rfl, rfl⟩

end Sys2Proof.Machine
end

section
/-! PROOFS. The bounds of the block's lists (R100, R313, R374, R417, R437): every command keeps them, and its queue. -/

namespace Sys2Proof.Machine

/-- What a command keeps, from the state in which it runs. -/
theorem exec_keeps {s₀ s : State} (h : Keeps s₀ s) : ∀ c : Instr, OutKeeps s₀ (exec c s)
  | .roleSelectWrite ss v => execRoleSelectWrite_keeps h ss v
  | .registerWrite ss key v => execRegisterWrite_keeps h ss key v
  | .ledgerRead p r => execLedgerRead_keeps h p r
  | .ledgerWriteFrame p r => execLedgerWriteFrame_keeps h p r
  | .describe p r => execDescribe_keeps h p r
  | .openSession p r => execOpenSession_keeps h p r
  | .respond p r => execRespond_keeps h p r
  | .closeSession p r => execCloseSession_keeps h p r
  | .keepAlive p r => execKeepAlive_keeps h p r
  | .sessionIdleTimeout ss => execSessionIdleTimeout_keeps h ss
  | .lockoutExpiry path => execLockoutExpiry_keeps h path
  | .segmentHoldExpiry ss => execSegmentHoldExpiry_keeps h ss
  | .canFrameReceive controller ident payload => execCanFrameReceive_keeps h controller ident payload
  | .canMessageTimeout controller node => execCanMessageTimeout_keeps h controller node
  | .canBusOff controller => execCanBusOff_keeps h controller
  | .canBusOffRecovery controller => execCanBusOffRecovery_keeps h controller
  | .udpLedgerDatagram address port payload => execUdpLedgerDatagram_keeps h address port payload
  | .arpRequest target sender => execArpRequest_keeps h target sender
  | .icmpEchoRequest target sender payload => execIcmpEchoRequest_keeps h target sender payload
  | .doorbell mailbox request => execDoorbell_keeps h mailbox request
  | .mailboxFree mailbox => execMailboxFree_keeps h mailbox
  | .pcieBarWrite bar offset data requester tag => execPcieBarWrite_keeps h bar offset data requester tag
  | .pcieBarRead bar offset len requester tag => execPcieBarRead_keeps h bar offset len requester tag
  | .pciePerst level => execPciePerst_keeps h level
  | .saveConfiguration ss v result => execSaveConfiguration_keeps h ss v result
  | .eraseSavedConfiguration ss v result => execEraseSavedConfiguration_keeps h ss v result
  | .nonVolatileWrite ss key v result => execNonVolatileWrite_keeps h ss key v result
  | .programIntegratorKey ss key verified => execProgramIntegratorKey_keeps h ss key verified
  | .revokeIntegratorKey ss slot verified => execRevokeIntegratorKey_keeps h ss slot verified
  | .rightsPolicyWrite ss v result => execRightsPolicyWrite_keeps h ss v result
  | .debugLockWrite ss v result => execDebugLockWrite_keeps h ss v result
  | .minSecurityVersionWrite ss v verified => execMinSecurityVersionWrite_keeps h ss v verified
  | .revokeImageKey ss slot verified => execRevokeImageKey_keeps h ss slot verified
  | .roleLockWrite ss v result => execRoleLockWrite_keeps h ss v result
  | .wallAliasWrite ss v result => execWallAliasWrite_keeps h ss v result
  | .memberNumberWrite ss v => execMemberNumberWrite_keeps h ss v
  | .hostAcquire ss slot => execHostAcquire_keeps h ss slot
  | .hostPublish ss v => execHostPublish_keeps h ss v
  | .hostContentCheckDone ingot readOk => execHostContentCheckDone_keeps h ingot readOk
  | .hostRelease ss ingot => execHostRelease_keeps h ss ingot
  | .readerRetire ingot reader => execReaderRetire_keeps h ingot reader
  | .outputFrameStart output => execOutputFrameStart_keeps h output
  | .holdLimitReached output => execHoldLimitReached_keeps h output
  | .sealPoint output => execSealPoint_keeps h output
  | .startOfBlanking output => execStartOfBlanking_keeps h output
  | .lineMatch output => execLineMatch_keeps h output
  | .frameDone output => execFrameDone_keeps h output
  | .eventLatchClear ss v => execEventLatchClear_keeps h ss v
  | .layerUnderrun engine layer x y => execLayerUnderrun_keeps h engine layer x y
  | .engineFailure engine deadline line => execEngineFailure_keeps h engine deadline line
  | .engineSubstitutionArm engine => execEngineSubstitutionArm_keeps h engine
  | .hotPlugAssert port sinkRate sinkLink edid => execHotPlugAssert_keeps h port sinkRate sinkLink edid
  | .hotPlugLoss port lowUs => execHotPlugLoss_keeps h port lowUs
  | .irqHpd port linkLost => execIrqHpd_keeps h port linkLost
  | .dpTrainingDone port result => execDpTrainingDone_keeps h port result
  | .dsiInitDone port acknowledged => execDsiInitDone_keeps h port acknowledged
  | .tearingEffect port => execTearingEffect_keeps h port
  | .tableLoad ss blob => execTableLoad_keeps h ss blob
  | .writebackRegionStart engine => execWritebackRegionStart_keeps h engine
  | .writebackRegionEnd engine => execWritebackRegionEnd_keeps h engine
  | .place ss v => execPlace_keeps h ss v
  | .dryRun ss => execDryRun_keeps h ss
  | .placementDone timeUs => execPlacementDone_keeps h timeUs
  | .emptySlot ss v => execEmptySlot_keeps h ss v
  | .automaticReplanStart => execAutomaticReplanStart_keeps h
  | .automaticReplanDone timeUs => execAutomaticReplanDone_keeps h timeUs
  | .commit ss v => execCommit_keeps h ss v
  | .commitAccept => execCommitAccept_keeps h
  | .commitLockIn ticket => execCommitLockIn_keeps h ticket
  | .cancel ss ticket => execCancel_keeps h ss ticket
  | .discardShadow ss v => execDiscardShadow_keeps h ss v
  | .prepare port m => execPrepare_keeps h port m
  | .ready port m => execReady_keeps h port m
  | .refuse port m => execRefuse_keeps h port m
  | .decisionDeadline ticket => execDecisionDeadline_keeps h ticket
  | .go port m => execGo_keeps h port m
  | .abort port m => execAbort_keeps h port m
  | .applied port m => execApplied_keeps h port m
  | .appliedReportTimeout ticket => execAppliedReportTimeout_keeps h ticket
  | .wallPresence port wallAlias member role pairState serial =>
      execWallPresence_keeps h port wallAlias member role pairState serial
  | .presenceSend => execPresenceSend_keeps h
  | .memberPresenceTimeout member => execMemberPresenceTimeout_keeps h member
  | .joinListenEnd => execJoinListenEnd_keeps h
  | .frameStartPacket port header => execFrameStartPacket_keeps h port header
  | .longPacket port vc dataType payload headerEcc crcOk => execLongPacket_keeps h port vc dataType payload headerEcc crcOk
  | .frameEndPacket port header => execFrameEndPacket_keeps h port header
  | .lineGapTimeout ctx => execLineGapTimeout_keeps h ctx
  | .signalAbsentTimeout port => execSignalAbsentTimeout_keeps h port
  | .portFaultSecond port sotErrors => execPortFaultSecond_keeps h port sotErrors
  | .pipelineBind => execPipelineBind_keeps h
  | .pipelineFrameDone pipe writes => execPipelineFrameDone_keeps h pipe writes
  | .aeStep ctx => execAeStep_keeps h ctx
  | .awbStep ctx => execAwbStep_keeps h ctx
  | .exposureTransferDone ctx result released => execExposureTransferDone_keeps h ctx result released
  | .controlBusTimeout port => execControlBusTimeout_keeps h port
  | .hostTransfer ss blob => execHostTransfer_keeps h ss blob
  | .hostTransferStart port => execHostTransferStart_keeps h port
  | .hostTransferDone port acknowledged data => execHostTransferDone_keeps h port acknowledged data
  | .hostTransferTimeout port => execHostTransferTimeout_keeps h port
  | .temperLoad ss blob => execTemperLoad_keeps h ss blob
  | .sensorProfileWrite ss blob => execSensorProfileWrite_keeps h ss blob
  | .blockLock lane => execBlockLock_keeps h lane
  | .blockLockLoss lane => execBlockLockLoss_keeps h lane
  | .detectTimeout lane => execDetectTimeout_keeps h lane
  | .backOffExpiry lane => execBackOffExpiry_keeps h lane
  | .capabilityBlock lane payload => execCapabilityBlock_keeps h lane payload
  | .exchangeTimeout lane => execExchangeTimeout_keeps h lane
  | .trainBlock lane payload merit selfDone => execTrainBlock_keeps h lane payload merit selfDone
  | .trainTimeout lane => execTrainTimeout_keeps h lane
  | .verifyEnd lane errors => execVerifyEnd_keeps h lane errors
  | .stepBlock lane payload => execStepBlock_keeps h lane payload
  | .rateSwitchDone lane => execRateSwitchDone_keeps h lane
  | .runEntryBlock lane payload => execRunEntryBlock_keeps h lane payload
  | .runEntryDone lane => execRunEntryDone_keeps h lane
  | .loopbackBlock lane payload => execLoopbackBlock_keeps h lane payload
  | .anchorIntervalSend port anythingWaiting => execAnchorIntervalSend_keeps h port anythingWaiting
  | .anchorReceived lane word skewNs fill stuffBad => execAnchorReceived_keeps h lane word skewNs fill stuffBad
  | .anchorMissed lane => execAnchorMissed_keeps h lane
  | .elasticBufferFault lane => execElasticBufferFault_keeps h lane
  | .bankedIdleTimeout port => execBankedIdleTimeout_keeps h port
  | .bankedExit port => execBankedExit_keeps h port
  | .retrain ss v => execRetrain_keeps h ss v
  | .errorInjection lane => execErrorInjection_keeps h lane
  | .videoHeaderCell port cell => execVideoHeaderCell_keeps h port cell
  | .videoDataCell port cell => execVideoDataCell_keeps h port cell
  | .videoTrailerCell port cell => execVideoTrailerCell_keeps h port cell
  | .inboundFrameTimeout slot => execInboundFrameTimeout_keeps h slot
  | .nullCell port cell => execNullCell_keeps h port cell
  | .witnessCell port cell => execWitnessCell_keeps h port cell
  | .witnessEchoTimeout output seq => execWitnessEchoTimeout_keeps h output seq
  | .forwardFrameStart slot => execForwardFrameStart_keeps h slot
  | .messageCell port cell => execMessageCell_keeps h port cell
  | .creditCell port cell => execCreditCell_keeps h port cell
  | .creditSend port => execCreditSend_keeps h port
  | .retransmitTimeout port => execRetransmitTimeout_keeps h port
  | .syncCell port cell => execSyncCell_keeps h port cell
  | .delayRequestCell port cell => execDelayRequestCell_keeps h port cell
  | .delayResponseCell port cell => execDelayResponseCell_keeps h port cell
  | .syncSend port => execSyncSend_keeps h port
  | .delayExchangeTimeout port => execDelayExchangeTimeout_keeps h port
  | .rateWrite ss v => execRateWrite_keeps h ss v
  | .offsetWrite ss v => execOffsetWrite_keeps h ss v
  | .stepWrite ss v => execStepWrite_keeps h ss v
  | .eraSweepDone => execEraSweepDone_keeps h
  | .hostTimeState ss v => execHostTimeState_keeps h ss v
  | .timeSourceWrite ss v => execTimeSourceWrite_keeps h ss v
  | .servoSample steer => execServoSample_keeps h steer
  | .holdoverExpiry => execHoldoverExpiry_keeps h
  | .announceTimeout => execAnnounceTimeout_keeps h
  | .syncTimeout => execSyncTimeout_keeps h
  | .hostStateTimeout => execHostStateTimeout_keeps h
  | .ptpSync port head source seq twoStep origin rx correction =>
      execPtpSync_keeps h port head source seq twoStep origin rx correction
  | .ptpFollowUp port head source seq origin correction => execPtpFollowUp_keeps h port head source seq origin correction
  | .ptpAnnounce port head source grandmaster priority1 priority2 cls accuracy variance steps =>
      execPtpAnnounce_keeps h port head source grandmaster priority1 priority2 cls accuracy variance steps
  | .ptpDelayReq port head source seq rx => execPtpDelayReq_keeps h port head source seq rx
  | .ptpDelayResp port head source requester seq rx correction =>
      execPtpDelayResp_keeps h port head source requester seq rx correction
  | .ptpPdelayReq port head source seq rx => execPtpPdelayReq_keeps h port head source seq rx
  | .ptpPdelayResp port head source seq turnaround rx => execPtpPdelayResp_keeps h port head source seq turnaround rx
  | .ptpMasterSyncSend => execPtpMasterSyncSend_keeps h
  | .ptpMasterAnnounceSend => execPtpMasterAnnounceSend_keeps h
  | .ethernetFrameForward port dest ptpEvent udp rx fcs frame =>
      execEthernetFrameForward_keeps h port dest ptpEvent udp rx fcs frame
  | .timeDomainWake ticks => execTimeDomainWake_keeps h ticks
  | .fabricRequest port r => execFabricRequest_keeps h port r
  | .fabricGrant target => execFabricGrant_keeps h target
  | .fabricCompletion target port id result => execFabricCompletion_keeps h target port id result
  | .classBRefusal port target id overflow => execClassBRefusal_keeps h port target id overflow
  | .classCTimeout port target id => execClassCTimeout_keeps h port target id
  | .lockedSequence port target accesses => execLockedSequence_keeps h port target accesses
  | .clearOutcomes ss v => execClearOutcomes_keeps h ss v
  | .readUncorrectable port address syndrome => execReadUncorrectable_keeps h port address syndrome
  | .refreshDue channel => execRefreshDue_keeps h channel
  | .refreshCatchUp channel => execRefreshCatchUp_keeps h channel
  | .temperatureRead channel celsius => execTemperatureRead_keeps h channel celsius
  | .tracking channel driftPs inRange => execTracking_keeps h channel driftPs inRange
  | .scrubRead channel sector corrected uncorrectable syndrome =>
      execScrubRead_keeps h channel sector corrected uncorrectable syndrome
  | .selfRefreshEntry channel => execSelfRefreshEntry_keeps h channel
  | .selfRefreshExit channel beforeCommand => execSelfRefreshExit_keeps h channel beforeCommand
  | .dramTrainingDone channel passed => execDramTrainingDone_keeps h channel passed
  | .evacuate ss v => execEvacuate_keeps h ss v
  | .evacuationComplete channel => execEvacuationComplete_keeps h channel
  | .retrainChannel ss v => execRetrainChannel_keeps h ss v
  | .retireChannel ss v => execRetireChannel_keeps h ss v
  | .recoveryActionStart => execRecoveryActionStart_keeps h
  | .testEngine ss v => execTestEngine_keeps h ss v
  | .engineTestDone passed => execEngineTestDone_keeps h passed
  | .switchBackEngine ss v => execSwitchBackEngine_keeps h ss v
  | .switchBackLane ss v => execSwitchBackLane_keeps h ss v
  | .pairDecide => execPairDecide_keeps h
  | .pairActRise => execPairActRise_keeps h
  | .heartbeatSend mainLoop => execHeartbeatSend_keeps h mainLoop
  | .heartbeatPulse widthUs => execHeartbeatPulse_keeps h widthUs
  | .heartbeatLoss => execHeartbeatLoss_keeps h
  | .bellowsSectionData frame => execBellowsSectionData_keeps h frame
  | .bellowsHeaderCommit frame => execBellowsHeaderCommit_keeps h frame
  | .bellowsTime frame => execBellowsTime_keeps h frame
  | .bellowsYield frame => execBellowsYield_keeps h frame
  | .pushTimer => execPushTimer_keeps h
  | .takeoverReady hearthTicks => execTakeoverReady_keeps h hearthTicks
  | .takeoverHoldLimit => execTakeoverHoldLimit_keeps h
  | .resyncDone => execResyncDone_keeps h
  | .handOver ss v => execHandOver_keeps h ss v
  | .measurementGate raw => execMeasurementGate_keeps h raw
  | .saveBaselines ss v => execSaveBaselines_keeps h ss v
  | .autoBaselineSave => execAutoBaselineSave_keeps h
  | .baselineSaveDone result => execBaselineSaveDone_keeps h result
  | .keyRecordsRead p r => execKeyRecordsRead_keeps h p r
  | .start ss v => execStart_keeps h ss v
  | .startFresh ss v => execStartFresh_keeps h ss v
  | .suspend ss v => execSuspend_keeps h ss v
  | .abortScan ss v => execAbortScan_keeps h ss v
  | .scanBurstDone unit result => execScanBurstDone_keeps h unit result
  | .domainPowerGood domain => execDomainPowerGood_keeps h domain
  | .domainPowerTimeout domain pll => execDomainPowerTimeout_keeps h domain pll
  | .powerGoodLoss domain => execPowerGoodLoss_keeps h domain
  | .domainHoldExpiry domain => execDomainHoldExpiry_keeps h domain
  | .domainPowerDownDone domain => execDomainPowerDownDone_keeps h domain
  | .forceOn ss v => execForceOn_keeps h ss v
  | .crystalStable => execCrystalStable_keeps h
  | .crystalTimeout => execCrystalTimeout_keeps h
  | .refclkLoss => execRefclkLoss_keeps h
  | .refclkReturn => execRefclkReturn_keeps h
  | .powerOnReset => execPowerOnReset_keeps h
  | .sysRstN lowNs => execSysRstN_keeps h lowNs
  | .deviceReset ss v => execDeviceReset_keeps h ss v
  | .bootImageLoaded slotA slotB => execBootImageLoaded_keeps h slotA slotB
  | .imageChunk ss blob => execImageChunk_keeps h ss blob
  | .verifySlot ss v => execVerifySlot_keeps h ss v
  | .verifyDone => execVerifyDone_keeps h
  | .activate ss v => execActivate_keeps h ss v
  | .firmwareMainLoop handOffRead => execFirmwareMainLoop_keeps h handOffRead
  | .firmwareStartTimeout => execFirmwareStartTimeout_keeps h
  | .confirm ss v => execConfirm_keeps h ss v
  | .trialTimeout => execTrialTimeout_keeps h
  | .thermTrip => execThermTrip_keeps h
  | .thermTripRelease => execThermTripRelease_keeps h
  | .partnerHeartbeatAbsent => execPartnerHeartbeatAbsent_keeps h
  | .clockLockLoss lane => execClockLockLoss_keeps h lane
  | .testPatternCheckerLock lane errorBits comparedBits => execTestPatternCheckerLock_keeps h lane errorBits comparedBits
  | .functionLevelReset => execFunctionLevelReset_keeps h
  | .pcieLinkChange generation width => execPcieLinkChange_keeps h generation width
  | .ethernetLinkChange port speed => execEthernetLinkChange_keeps h port speed
  | .managementControllerStop => execManagementControllerStop_keeps h
  | .hearthWatchdogExpiry => execHearthWatchdogExpiry_keeps h

theorem Keeps.bounded {s t : State} (h : Keeps s t) : s.bounded → t.bounded :=
  fun ⟨hlog, hsessions, herrors, htickets, hrecords⟩ =>
    ⟨h.log hlog, h.sessions hsessions, h.errors herrors, h.tickets htickets, h.records hrecords⟩

/-- Settles O59: a step takes the first command from the queue, and the command, or the nanosecond that passes where none waits,
keeps the queue and the bounds (`Keeps`). -/
theorem queuesStayBounded : Obligations.QueuesStayBounded := by
  intro s t ht
  unfold step at ht
  split at ht
  · next hempty =>
    have hkeeps : Keeps s t := Host.Outcome.next.inj ht ▸ State.tick_keeps (Keeps.refl s)
    exact ⟨hkeeps.bounded, by rw [hkeeps.pending, hempty, List.tail_nil]⟩
  · next c rest hqueue =>
    have hkeeps : Keeps { s with pending := rest } t := exec_keeps (Keeps.refl _) c t ht
    exact ⟨hkeeps.bounded, by rw [hkeeps.pending, hqueue, List.tail_cons]⟩

end Sys2Proof.Machine
end

section
/-! PROOFS. Ledger writes of entries that have no operation of their own (R97, R98, R408, R409). -/

namespace Sys2Proof.Machine

section
variable {s u : State} {ss key inst : Nat} {v : Val} {e : Entry}

/-! ### What such a write does -/

theorem plainEntry_spec (h : plainEntry key = true) : ledgerOpA key = none ∧ ledgerOpB key = none ∧ inStore key = false := by
  simpa [plainEntry, and_assoc] using h

theorem ledgerOp_of_plainEntry (h : plainEntry key = true) : ledgerOp key = writePlain key := by
  obtain ⟨hA, hB, hstore⟩ := plainEntry_spec h
  simp [ledgerOp, hA, hB, hstore]

/-- Saving and erasing the configuration have operations of their own, so that no plain write waits for the store. -/
theorem State.storeBusy_of_plainEntry (s : State) (h : plainEntry key = true) : s.storeBusy key = false := by
  obtain ⟨-, hB, hstore⟩ := plainEntry_spec h
  have hsave : key ≠ 0x6800_06 := by rintro rfl; cases hB
  have herase : key ≠ 0x6800_07 := by rintro rfl; cases hB
  simp [State.storeBusy, writesStore, hstore, hsave, herase]

theorem writePlain_perSession (he : entryAt key = some e) (hp : e.perSession = true) {x : Session} (hx : s.session? ss = some x) :
    writePlain key s ss inst v = (s.setSession (x.setFld key v.n), .ok) := by
  simp [writePlain, he, hp, writeField, hx]

theorem writePlain_shadowed (he : entryAt key = some e) (hp : e.perSession = false) (ha : e.acc = .rws) :
    writePlain key s ss inst v = (s.setShadow key inst v, .ok) := by
  simp [writePlain, he, hp, ha, writeShadow]

theorem writePlain_active (he : entryAt key = some e) (hp : e.perSession = false) (ha : e.acc ≠ .rws) :
    writePlain key s ss inst v = (s.setActive key inst v, .ok) := by
  simp [writePlain, he, hp, ha, writeActive]

/-- A session's write of a plain entry is what its kind says, with the response. -/
theorem exec_registerWrite_plain (hm : s.managed = true) (hw : s.mayWrite ss key v = true) (hp : plainEntry key = true)
    (hop : writePlain key (s.touched ss) ss (s.partOf ss key) v = (u, .ok)) :
    exec (.registerWrite ss key v) s = .next (u.reply ss .ok) := by
  have hrow : exec (.registerWrite ss key v) s = whenManaged s fun s => s.ledgerWrite ss key v (ledgerOp key) := by
    simp [exec, execRegisterWrite, whenManaged, s.storeBusy_of_plainEntry hp]
  rw [hrow, ledgerOp_of_plainEntry hp]
  exact ledgerWrite_next hm hw hop rfl

/-! ### Where its value then stands -/

/-- The value of an entry reads as it was made active, where its kind fits the entry's type. -/
theorem State.active_setActive_same (s : State) (he : entryAt key = some e) (hl : lengthOk e v = true) :
    (s.setActive key inst v).active key inst = v := by
  cases v with
  | num n =>
    have hty : e.ty.bytes ≠ 0 := by simp only [lengthOk, Bool.and_eq_true, bne_iff_ne] at hl; exact hl.1
    simp [State.active, State.setActive, he, hty]
  | bytes b =>
    have hty : e.ty.bytes = 0 := by simp only [lengthOk, Bool.and_eq_true, beq_iff_eq] at hl; exact hl.1
    simp [State.active, State.setActive, he, hty]

theorem State.setActive_find_ne (s : State) {k : Nat} (hk : k ≠ regKey key inst) (v : Val) :
    Tbl.find (s.setActive key inst v).regs k = Tbl.find s.regs k ∧
      Tbl.find (s.setActive key inst v).blobs k = Tbl.find s.blobs k := by
  cases v with
  | num n => exact ⟨Tbl.find_put_ne _ _ hk, rfl⟩
  | bytes b => exact ⟨rfl, Tbl.find_put_ne _ _ hk⟩

theorem State.session_touched {x : Session} (h : s.session? ss = some x) :
    (s.touched ss).session? ss = some { x with lastSent := s.now } := by
  simp only [State.touched, h]
  exact State.session_touch h

theorem State.fld_of_session {x : Session} (h : s.session? ss = some x) (key : Nat) : s.fld ss key = x.fld key := by
  simp [State.fld, h]

@[simp] theorem Session.fld_setFld_same (x : Session) (key n : Nat) : (x.setFld key n).fld key = n := by
  simp [Session.fld, Session.setFld]

/-- A field reads as its session last wrote it. -/
theorem State.fld_setSession_setFld {x : Session} (h : s.session? ss = some x) (key n : Nat) :
    (s.setSession (x.setFld key n)).fld ss key = n := by
  rw [State.fld_of_session (State.session_setSession (y := x.setFld key n) h rfl), Session.fld_setFld_same]

end

/-- Settles O2: the three kinds of plain write in turn. -/
theorem plainWriteTakesItsKind : Obligations.PlainWriteTakesItsKind := by
  intro s ss key v e hm hw hplain he
  obtain ⟨-, x, -, hx, -⟩ := State.mayWrite_spec hw
  have hx' := State.session_touched hx
  cases hper : e.perSession
  case true =>
    refine ⟨_, exec_registerWrite_plain hm hw hplain (writePlain_perSession he hper hx'),
      fun _ => ⟨State.fld_setSession_setFld hx' key v.n, ?_⟩, nofun, nofun, ?_⟩ <;> simp [Reply.ok]
  case false =>
    by_cases hacc : e.acc = .rws
    · refine ⟨_, exec_registerWrite_plain hm hw hplain (writePlain_shadowed he hper hacc), nofun,
        fun _ _ => ⟨State.shadowVal_setShadow_same _ _ _ _, by simp, by simp, fun k hk => ?_⟩, fun _ h => absurd hacc h, ?_⟩
      · simpa using Tbl.find_put_ne s.shadow _ hk
      · simp [Reply.ok]
    · refine ⟨_, exec_registerWrite_plain hm hw hplain (writePlain_active he hper hacc), nofun, fun _ h => absurd h hacc,
        fun _ _ => ⟨(s.touched ss).active_setActive_same he (State.mayWrite_length hw he), by simp, fun k hk => ?_⟩, ?_⟩
      · simpa using (s.touched ss).setActive_find_ne hk v
      · simp [Reply.ok]

end Sys2Proof.Machine
end

section
/-! PROOFS. Write requests that come as frames (R97, R409, R410): how a request of a session that repeats none is served, and what
the write of a whole number and the first segment of a BLOB do. -/

namespace Sys2Proof.Machine

/-! ### How a write request is served (R409, R411, R417) -/

section
variable {s u : State} {p : Peer} {op ss : Nat} {r : Req} {x y : Session} {e : Entry} {reply : Reply}

theorem State.boundSession_spec (h : s.boundSession p op ss = some x) :
    s.session? ss = some x ∧ x.peer = p ∧ (x.pending = true → op = 0x11 ∨ op = 0x12) := by
  unfold State.boundSession at h
  split at h
  · next y hy =>
    obtain ⟨hc, hyx⟩ := Option.ite_none_right_eq_some.mp h
    obtain rfl := Option.some.inj hyx
    simp only [Bool.and_eq_true, decide_eq_true_eq] at hc
    refine ⟨hy, hc.1, fun hp => ?_⟩
    simpa [hp] using hc.2
  · cases h

theorem State.session_id (h : s.session? ss = some x) : x.id = ss := by simpa using List.find?_some h

/-- A request with another transaction than its session's last repeats none (R411). -/
theorem State.repeatedAt_new (hx : s.session? r.session = some x) (hnew : ∀ f, x.lastTxn ≠ some (r.txn, f)) :
    s.repeatedAt p r = none := by
  unfold State.repeatedAt
  simp only [hx]
  split
  · rw [Option.map_eq_none_iff, Option.filter_eq_none_iff]
    rintro ⟨txn, f⟩ hlast htxn
    obtain rfl : txn = r.txn := by simpa using htxn
    exact hnew f hlast
  · rfl

/-- A session with the response that it keeps (R411). -/
def Session.answered (x : Session) (txn : Nat) (frame : Bytes) : Session := { x with lastTxn := some (txn, frame) }

theorem State.keepResponse_of_session (hx : s.session? ss = some x) (txn : Nat) (frame : Bytes) :
    s.keepResponse ss txn frame = s.setSession (x.answered txn frame) := by
  simp [State.keepResponse, hx, Session.answered]

/-- A write request of a session, for an entry that is served, runs and is answered on its path; the session keeps the response. -/
theorem exec_ledgerWriteFrame_served (hm : s.managed = true) (hpath : s.pathServed p = true) (hvalid : r.valid = true)
    (hb : s.boundSession p 2 r.session = some x) (hnew : ∀ f, x.lastTxn ≠ some (r.txn, f)) (he : entryAt r.key = some e)
    (hs : s.serves r.key = true) (hstore : (r.last && s.storeBusy r.key) = false)
    (hserve : (s.touch x).serveWrite { x with lastSent := s.now } r e = (u, reply)) (hy : u.session? r.session = some y) :
    exec (.ledgerWriteFrame p r) s = .next ((u.setSession (y.answered r.txn (responseOf 2 r r.session reply true))).deliver p
      (responseOf 2 r r.session reply true)) := by
  obtain ⟨hx, -, -⟩ := State.boundSession_spec hb
  have hhold : s.mustHold p 2 r = false := by simp [State.mustHold, hstore]
  have hserved : s.serve p 2 r = (u.setSession (y.answered r.txn (responseOf 2 r r.session reply true)),
      responseOf 2 r r.session reply true) := by
    have hop : State.serveOp (s.setSession { x with lastSent := s.now }) { x with lastSent := s.now } 2 r (some e) =
        (u, reply, true) := by
      unfold State.touch at hserve
      simp only [State.serveOp, hserve]
    rw [← State.session_id hx] at hy
    rw [← State.keepResponse_of_session hy]
    simp only [State.serve, hvalid, opcodes, State.serveSession, State.repeatedAt_new hx hnew, hb, he, hs, Option.filter_some,
      if_true, hop]
    rfl
  simp only [exec, execLedgerWriteFrame, whenManaged_next hm, State.request, hpath, hhold, hserved, Bool.and_false,
    Bool.false_eq_true, if_false, if_true]

/-! ### The write of a whole number -/

/-- A whole number of an entry with no operation of its own is what its data spell, made active. -/
theorem State.serveWrite_number (hx : s.session? r.session = some x) (hplain : plainEntry r.key = true)
    (he : entryAt r.key = some e) (hper : e.perSession = false) (hacc : e.acc ≠ .rws) (hty : e.ty.bytes ≠ 0)
    (hlen : r.data.length = e.ty.bytes) (hoff : r.offset = 0) (hlast : r.last = true)
    (hw : s.mayWrite r.session r.key (.num (beNat r.data)) = true) :
    s.serveWrite x r e = ((s.touch x).setReg r.key (x.inst r.key) (beNat r.data), .ok) := by
  have hval : valOf e r.data = some (.num (beNat r.data)) := by simp [valOf, hty, hlen]
  have hop : s.tryWrite r.session r.key (.num (beNat r.data)) (ledgerOp r.key) =
      ((s.touch x).setReg r.key (x.inst r.key) (beNat r.data), .ok) := by
    rw [State.tryWrite_of_mayWrite hw, ledgerOp_of_plainEntry hplain, writePlain_active he hper hacc]
    simp only [State.touched, State.partOf, hx, State.setActive, Reply.ok]
  simp only [State.serveWrite, State.writeWhole, hval, Option.getD_some, State.session_id hx, hop, hoff, hlast, bne_iff_ne, ne_eq,
    hty, not_false_eq_true, if_true, Bool.not_true, Bool.or_false, bne_self_eq_false, Bool.false_eq_true, if_false]

/-! ### The first segment of a BLOB (R410) -/

/-- A first segment that passes its checks is held for its session. -/
theorem State.serveWrite_firstSegment (hty : e.ty.bytes = 0)
    (hnone : (x.holds.any fun h => h.slot == regKey r.key (x.inst r.key)) = false)
    (hlive : regKey r.key (x.inst r.key) ∉ x.expired) (hoff : r.offset = 0) (hlast : r.last = false)
    (hcheck : s.checkSegment x r.key e = none) :
    s.serveWrite x r e =
      (s.setSession (x.putHold { slot := regKey r.key (x.inst r.key), value := r.data, last := s.now }), .ok) := by
  have hfind : (x.holds.find? fun h => h.slot == regKey r.key (x.inst r.key)) = none := by
    simpa [List.find?_eq_none] using hnone
  simp [State.serveWrite, hty, hlive, hfind, hoff, hlast, hcheck]

theorem Session.putHold_new {h : WriteHold} (hnone : (x.holds.any fun y => y.slot == h.slot) = false) :
    x.putHold h = { x with holds := x.holds ++ [h] } := by
  have hfilter : (x.holds.filter fun y => y.slot != h.slot) = x.holds := by
    rw [List.filter_eq_self]
    intro y hy
    simpa using List.any_eq_false.mp hnone y hy
  simp only [Session.putHold, Session.dropHold, hfilter]

end

/-- Settles O6: both requests are served on the path of their session, the first by `State.serveWrite_number`, the second by
`State.serveWrite_firstSegment`. -/
theorem writeFramesAreExecuted : Obligations.WriteFramesAreExecuted := by
  refine ⟨?number, ?segment⟩
  case number =>
    intro s p r x e hm hpath hvalid hb hnew he hs hplain hper hacc hty hlen hoff hlast hw
    obtain ⟨hx, -, -⟩ := State.boundSession_spec hb
    rw [State.session_id hx] at hw
    have harrived := State.session_touch hx
    have hserve := State.serveWrite_number harrived hplain he hper hacc hty hlen hoff hlast hw
    have hexec := exec_ledgerWriteFrame_served hm hpath hvalid hb hnew he hs (by simp [s.storeBusy_of_plainEntry hplain]) hserve
      (State.session_touch harrived)
    exact ⟨_, hexec, State.reg_setReg_same _ _ _ _,
      ⟨State.regsBut_put (s.regsBut_refl _) rfl (List.mem_singleton_self _), rfl, rfl⟩, rfl, rfl, rfl, rfl⟩
  case segment =>
    intro s p r x e hm hpath hvalid hb hnew he hs hty hnone hlive hoff hlast hcheck
    obtain ⟨hx, -, -⟩ := State.boundSession_spec hb
    have hserve := State.serveWrite_firstSegment (s := s.touch x) (x := { x with lastSent := s.now }) hty hnone hlive hoff hlast
      hcheck
    rw [Session.putHold_new hnone] at hserve
    have hheld := State.session_setSession (State.session_touch hx) (y := { x with
      lastSent := s.now, holds := x.holds ++ [{ slot := regKey r.key (x.inst r.key), value := r.data, last := s.now }] }) rfl
    have hexec := exec_ledgerWriteFrame_served hm hpath hvalid hb hnew he hs (by simp [hlast]) hserve hheld
    exact ⟨_, _, hexec, State.session_setSession hheld rfl, rfl, rfl, rfl, rfl, rfl, rfl, rfl, rfl⟩

end Sys2Proof.Machine
end

section
/-! PROOFS. What the operations of commits write (R103-R121): tickets, the commits that wait, and the messages of the wall. -/

namespace Sys2Proof.Machine

section
variable {s t : State} {id : Nat} {p q : Pending}

/-! ### Records and messages -/

/-- A record leaves the log as it was but for the record, or for the count of those dropped, and may raise its vector. -/
theorem State.record_raises (s : State) (event : Nat) (code : Option Code) (inst : Nat) (detail : Int) (fw : Bool) :
    ∃ log : Log, log.vector0At = s.log.vector0At ∧ (s.record event code inst detail fw = { s with log := log } ∨
      s.record event code inst detail fw = State.raiseLog { s with log := log }) := by
  unfold State.record State.recordAt
  dsimp only
  split
  · exact ⟨s.log, rfl, .inl rfl⟩
  · split
    · refine ⟨_, ?_, .inl rfl⟩
      rfl
    · refine ⟨_, ?_, .inr rfl⟩
      rfl

theorem State.raiseLog_frame (s : State) : ∃ log sent, s.raiseLog = { s with log := log, sent := sent } := by
  unfold State.raiseLog
  split
  · exact ⟨_, _, rfl⟩
  · split <;> exact ⟨_, _, rfl⟩

/-- A record writes the log and, at most, sends vector 0. -/
theorem State.record_frame (s : State) (event : Nat) (code : Option Code) (inst : Nat) (detail : Int) (fw : Bool) :
    ∃ log sent, s.record event code inst detail fw = { s with log := log, sent := sent } := by
  obtain ⟨log, -, hrecord | hrecord⟩ := s.record_raises event code inst detail fw
  · exact ⟨log, s.sent, hrecord⟩
  · obtain ⟨log', sent, hraise⟩ := State.raiseLog_frame { s with log := log }
    exact ⟨log', sent, hrecord.trans hraise⟩

/-- A state differs from another in its Swage ports alone. -/
def State.portsOnly (s t : State) : Prop := ∃ ports, t = { s with ports := ports }

theorem State.portsOnly.refl (s : State) : s.portsOnly s := ⟨s.ports, rfl⟩

theorem State.portsOnly.trans {u : State} (h : s.portsOnly t) (h' : t.portsOnly u) : s.portsOnly u := by
  obtain ⟨_, rfl⟩ := h
  obtain ⟨ports, rfl⟩ := h'
  exact ⟨ports, rfl⟩

theorem State.portsOnly_foldl {α : Type} {f : State → α → State} (hf : ∀ u a, State.portsOnly u (f u a)) (xs : List α)
    (s : State) : s.portsOnly (xs.foldl f s) := by
  induction xs generalizing s with
  | nil => exact .refl s
  | cons a xs ih => exact (hf s a).trans (ih (f s a))

theorem State.sendCell_portsOnly (s : State) (p : Nat) (cell : Bytes) : s.portsOnly (s.sendCell p cell) := ⟨_, rfl⟩

theorem State.pump_portsOnly (s : State) (p : Nat) : s.portsOnly (s.pump p) := by
  unfold State.pump
  dsimp only
  split
  · exact .refl s
  · exact (State.portsOnly_foldl (fun u (m : MsgCell) => u.sendCell_portsOnly p m.cell) _ s).trans ⟨_, rfl⟩

/-- A message waits on its port, and cells of it on the link. -/
theorem State.sendMessage_portsOnly (s : State) (p kind : Nat) (payload : Bytes) : s.portsOnly (s.sendMessage p kind payload) :=
  State.portsOnly.trans ⟨_, rfl⟩ (State.pump_portsOnly _ p)

theorem State.broadcast_portsOnly (s : State) (step : Nat) (m : WallMsg) : s.portsOnly (s.broadcast step m) :=
  State.portsOnly_foldl (fun u p => u.sendMessage_portsOnly p 3 (wallPayload step m)) _ s

/-! ### Tickets (R117) -/

/-- The ticket held under the number of one that was replaced is the new one. -/
theorem State.ticket_setTicket {x k : Ticket} (h : (s.setTicket x).ticket? x.id = some k) : k = x := by
  have hid : k.id = x.id := by simpa using List.find?_some h
  have hmem := List.mem_of_find?_eq_some h
  simp only [State.setTicket, ← List.map_append, List.mem_map] at hmem
  obtain ⟨y, -, hy⟩ := hmem
  split at hy
  · exact hy.symm
  · next hne =>
    subst hy
    exact absurd (by simpa using hid) hne

theorem State.ticket_id {x : Ticket} (h : s.ticket? id = some x) : x.id = id := by simpa using List.find?_some h

/-- The tickets held rest on the commits alone. -/
theorem State.ticket_congr (h : t.commits = s.commits) (id : Nat) : t.ticket? id = s.ticket? id := by simp only [State.ticket?, h]

/-- A ticket of the history with a change of its state, if it is still held. -/
def State.mapTicket (s : State) (id : Nat) (f : Ticket → Ticket) : State :=
  match s.ticket? id with
  | some x => s.setTicket (f x)
  | none => s

theorem State.mapTicket_frame (s : State) (id : Nat) (f : Ticket → Ticket) :
    ∃ tickets others, s.mapTicket id f = { s with commits := { s.commits with tickets := tickets, others := others } } := by
  unfold State.mapTicket
  split
  · exact ⟨_, _, rfl⟩
  · exact ⟨s.commits.tickets, s.commits.others, rfl⟩

/-- The ticket that is then held, if any, has been changed. -/
theorem State.ticket_mapTicket {f : Ticket → Ticket} (hf : ∀ x, (f x).id = x.id) {k : Ticket}
    (h : (s.mapTicket id f).ticket? id = some k) : ∃ x, k = f x := by
  unfold State.mapTicket at h
  split at h
  · next x hx =>
    have hid : id = (f x).id := by rw [hf, State.ticket_id hx]
    rw [hid] at h
    exact ⟨x, State.ticket_setTicket h⟩
  · next hnone => exact nomatch hnone.symm.trans h

/-- A ticket that is refused (R117). -/
def Ticket.refused (c : Code) (pair member : Nat) (x : Ticket) : Ticket :=
  { x with st := .refused, code := some c, pair := pair, member := member }

theorem State.refuseTicket_eq (s : State) (event id : Nat) (c : Code) (pair member : Nat) :
    s.refuseTicket event id c pair member =
      (s.mapTicket id (Ticket.refused c pair member)).record event (some c) id member := rfl

/-- A refusal writes tickets and its record. -/
theorem State.refuseTicket_frame (s : State) (event id : Nat) (c : Code) (pair member : Nat) :
    ∃ log sent tickets others, s.refuseTicket event id c pair member =
      { s with log := log, sent := sent, commits := { s.commits with tickets := tickets, others := others } } := by
  obtain ⟨tickets, others, hmap⟩ := s.mapTicket_frame id (Ticket.refused c pair member)
  obtain ⟨log, sent, hrecord⟩ := State.record_frame (s.mapTicket id (Ticket.refused c pair member)) event (some c) id member
    false
  exact ⟨log, sent, tickets, others, by rw [State.refuseTicket_eq, hrecord, hmap]⟩

theorem State.refuseTicket_newest (s : State) (event id : Nat) (c : Code) (pair member : Nat) :
    (s.refuseTicket event id c pair member).newest event (some c) := State.record_newest ..

theorem State.refuseTicket_ticket {event : Nat} {c : Code} {pair member : Nat} {k : Ticket}
    (h : (s.refuseTicket event id c pair member).ticket? id = some k) :
    k.st = .refused ∧ k.code = some c ∧ k.member = member := by
  rw [State.refuseTicket_eq, State.ticket_congr (State.record_commits ..)] at h
  obtain ⟨x, rfl⟩ := State.ticket_mapTicket (f := Ticket.refused c pair member) (fun _ => rfl) h
  exact ⟨rfl, rfl, rfl⟩

/-! ### The commits that wait -/

theorem State.waitingCommit_congr (h : t.commits.waiting = s.commits.waiting) (id : Nat) :
    t.waitingCommit id = s.waitingCommit id := by simp only [State.waitingCommit, h]

theorem State.waitingCommit_spec (h : s.waitingCommit id = some p) : p.auto = false ∧ p.ticket = id := by
  simpa using List.find?_some h

theorem State.waitingCommit_dropCommit (s : State) (id : Nat) : (s.dropCommit id).waitingCommit id = none := by
  simp only [State.waitingCommit, State.dropCommit, List.find?_eq_none, List.mem_filter]
  rintro q ⟨-, hq⟩
  cases ha : q.auto <;> simp_all

/-- The commit that waits under a ticket, replaced, waits under it. -/
theorem State.waitingCommit_setCommit (h : s.waitingCommit id = some p) (ha : q.auto = false) (hq : q.ticket = id) :
    (s.setCommit q).waitingCommit id = some q := by
  subst hq
  simp only [State.waitingCommit, State.setCommit] at h ⊢
  generalize s.commits.waiting = waiting at h ⊢
  induction waiting with
  | nil => cases h
  | cons x xs ih =>
    rw [List.find?_cons] at h
    rw [List.map_cons, List.find?_cons]
    cases hx : !x.auto && x.ticket == q.ticket
    · rw [hx] at h
      simp only [hx, Bool.false_eq_true, if_false]
      exact ih h
    · simp [ha]

end

end Sys2Proof.Machine
end

section
/-! PROOFS. A commit from its request to its lock-in (R100, R103-R105, R113, R115, R116). -/

namespace Sys2Proof.Machine

section
variable {s u : State} {ss v id : Nat} {r p a : Pending} {rest : List Pending} {fs : List Staged} {c : Code} {pair port tag : Nat}

/-! ### Requests (R103) -/

/-- The request of a commit that a session makes, with the next ticket. -/
def State.newRequest (s : State) (ss : Nat) : Pending :=
  { ticket := s.member * 2 ^ 26 + nextTicket s.commits.seq, slot := s.fld ss 0x2800_10
    target := if s.fld ss 0x2800_11 = 0 then 0 else namedFrame (s.fld ss 0x2800_11), wall := s.fld ss 0x2800_12 != 0 }

/-- The state in which a request waits under its ticket. -/
def State.withRequest (s : State) (p : Pending) : State :=
  { s with commits := { s.commits with
      seq := nextTicket s.commits.seq, tickets := ({ id := p.ticket } :: s.commits.tickets).take ticketsKept
      requests := s.commits.requests ++ [p] } }

theorem commitOp_requests {x : Session} (hx : s.session? ss = some x) (hcode : s.requestCode (s.fld ss 0x2800_12 != 0) = none)
    (inst : Nat) (w : Val) :
    commitOp s ss inst w = ((s.withRequest (s.newRequest ss)).setSession (x.setFld 0x2800_15 (s.newRequest ss).ticket),
      { result := (s.newRequest ss).ticket }) := by
  have hrequest : s.requestCommit (s.fld ss 0x2800_10) (s.fld ss 0x2800_11) (s.fld ss 0x2800_12 != 0) =
      (s.withRequest (s.newRequest ss), (s.newRequest ss).ticket) := by
    unfold State.requestCommit
    dsimp only
    split
    · next c hc => exact nomatch hc.symm.trans hcode
    · rfl
  have hx' : (s.withRequest (s.newRequest ss)).session? ss = some x := hx
  simp only [commitOp, hrequest, hx']

/-! ### Acceptance (R104, R105, R113, R389) -/

theorem exec_commitAccept_request (hm : s.managed = true) (hr : s.commits.requests = r :: rest) (hasked : r.asked = none) :
    exec .commitAccept s = .next ({ s with commits := { s.commits with requests := rest } }.serveRequest r) := by
  simp only [exec, execCommitAccept, whenManaged_next hm, hr, hasked]

theorem exec_commitAccept_prepare (hm : s.managed = true) (hr : s.commits.requests = r :: rest)
    (hasked : r.asked = some (port, tag)) :
    exec .commitAccept s = .next ({ s with commits := { s.commits with requests := rest } }.servePrepare r port tag) := by
  simp only [exec, execCommitAccept, whenManaged_next hm, hr, hasked]

theorem State.serveRequest_refused (h : s.judge (s.drawUp r) = .inl (c, pair)) :
    s.serveRequest r = s.refuseTicket 0x051 r.ticket c pair 0xFF := by simp only [State.serveRequest, h]

theorem State.serveRequest_taken (h : s.judge (s.drawUp r) = .inr (a, fs)) (hon : s.domainsOff a fs = []) :
    s.serveRequest r = (s.takeCommit a fs).lead r.ticket := by simp [State.serveRequest, h, hon]

theorem State.serveRequest_waits (h : s.judge (s.drawUp r) = .inr (a, fs)) (hoff : s.domainsOff a fs ≠ []) :
    s.serveRequest r = { s with commits := { s.commits with requests := r :: s.commits.requests } }.askDomains a fs := by
  simp [State.serveRequest, h, hoff]

theorem State.servePrepare_taken (h : s.judgePrepare (s.drawUp r) tag = .inr (a, fs)) (hon : s.domainsOff a fs = []) :
    s.servePrepare r port tag = (s.takeCommit a fs).sendMessage port 3 (wallPayload 2 (s.wallMsgOf (s.drawUp r))) := by
  simp [State.servePrepare, h, hon]

theorem State.settles_foldl (w : State) {ds : List Nat} (hds : ∀ d ∈ ds, d < 65536) (s : State) :
    s.Settles (ds.foldl (fun t d => t.settleDomain w d) s) := by
  induction ds generalizing s with
  | nil => exact .refl s
  | cons d ds ih =>
    obtain ⟨hd, hds⟩ := List.forall_mem_cons.mp hds
    exact (s.settleDomain_settles w hd).trans (ih hds _)

/-- To ask for domains only requests them (R389). -/
theorem State.askDomains_settles (s : State) (p : Pending) (fs : List Staged) : s.Settles (s.askDomains p fs) := by
  refine State.settles_foldl _ (fun d hd => ?_) s
  obtain ⟨k, hk, rfl⟩ := List.mem_map.mp (List.mem_of_mem_filter hd)
  have := List.mem_range.mp hk
  omega

/-- A state whose domains are requested is another in nothing but registers and hold times. -/
theorem State.Settles.commits {t : State} (h : s.Settles t) : t.commits = s.commits ∧ t.plan = s.plan ∧ t.log = s.log := by
  obtain ⟨_, _, _, rfl⟩ := h.frame
  exact ⟨rfl, rfl, rfl⟩

theorem State.lead_cells (s : State) (id : Nat) : (s.lead id).cells = s.cells ∧ (s.lead id).still = s.still := by
  unfold State.lead
  split
  · exact ⟨rfl, rfl⟩
  · next p _ =>
    split
    · exact ⟨rfl, rfl⟩
    · obtain ⟨_, h⟩ := State.broadcast_portsOnly (s.setCommit { p with
        coordinator := some s.member, members := s.otherMembers, deadline := s.ownSeal p.target }) 1 (s.wallMsgOf _)
      rw [h]
      exact ⟨rfl, rfl⟩

/-! ### Cancelling (R116) -/

/-- A device from which the commit of a ticket is gone, whether it waited or was only requested. -/
def State.withoutCommit (s : State) (id : Nat) : State :=
  { s.dropCommit id with commits := { (s.dropCommit id).commits with
      requests := s.commits.requests.filter fun q => q.ticket != id } }

/-- A ticket that is cancelled (R117). -/
def Ticket.cancelled (x : Ticket) : Ticket := { x with st := .cancelled }

theorem State.cancelCommit_eq (s : State) (id : Nat) :
    s.cancelCommit id = (((s.withoutCommit id).mapTicket id Ticket.cancelled).record 0x053 none id 0xFF).settlePower := rfl

/-- A cancelled commit neither waits nor is requested any more, and its ticket says so. -/
theorem State.cancelCommit_cancels (s : State) (id : Nat) :
    (s.cancelCommit id).waitingCommit id = none ∧ (∀ q ∈ (s.cancelCommit id).commits.requests, q.ticket ≠ id) ∧
      (∀ k, (s.cancelCommit id).ticket? id = some k → k.st = .cancelled) ∧ (s.cancelCommit id).newest 0x053 none ∧
      (s.cancelCommit id).plan = s.plan := by
  obtain ⟨_, _, hmarked⟩ := (s.withoutCommit id).mapTicket_frame id Ticket.cancelled
  have hsettles := State.settlePower_settles (((s.withoutCommit id).mapTicket id Ticket.cancelled).record 0x053 none id 0xFF)
  obtain ⟨hcommits, hplan, -⟩ := hsettles.commits
  rw [State.record_commits] at hcommits
  rw [State.record_plan] at hplan
  rw [State.cancelCommit_eq]
  refine ⟨?_, ?_, fun k hk => ?_, hsettles.newest (State.record_newest ..), ?_⟩
  · rw [State.waitingCommit_congr (congrArg Commits.waiting hcommits), hmarked]
    exact s.waitingCommit_dropCommit id
  · rw [hcommits, hmarked]
    intro q hq
    simpa using List.of_mem_filter hq
  · rw [State.ticket_congr hcommits] at hk
    obtain ⟨x, rfl⟩ := State.ticket_mapTicket (f := Ticket.cancelled) (fun _ => rfl) hk
    rfl
  · rw [hplan, hmarked]
    rfl

theorem cancelOp_cancels (hc : s.cancellable id = true) (hl : s.leading id = none) (inst : Nat) :
    cancelOp s ss inst (.num id) = (s.cancelCommit id, .ok) := by
  simp [cancelOp, Val.n, hc, hl]

/-! ### Lock-in (R115) -/

theorem exec_commitLockIn (hm : s.managed = true) (hw : s.waitingCommit id = some p) (hdue : s.lockInDue p = true) :
    exec (.commitLockIn id) s = .next (((s.lockIn p).installIdle.settleCommits.reportApplied s).settlePower) := by
  simp only [exec, execCommitLockIn, whenManaged_next hm, hw, hdue, if_true]

theorem State.lockIn_holds (hl : p.lockedIn = false) (hwall : p.wall = false) (h : s.recheck p = none) :
    s.lockIn p = s.setCommit { p with lockedIn := true } := by simp [State.lockIn, hl, hwall, h]

theorem State.lockIn_fails {x : Code × Nat} (hl : p.lockedIn = false) (hwall : p.wall = false) (h : s.recheck p = some x) :
    s.lockIn p = ((s.dropCommit p.ticket).unfreeze p).refuseTicket 0x051 p.ticket x.1 x.2 0xFF := by
  simp [State.lockIn, hl, hwall, h, State.failLockIn]

end

/-- Settles O24: a request, its refusal, its acceptance and its wait for domains, a cancelled and a discarded image and a lock-in,
each by the equation that says what the command's state is. -/
theorem commitsAreRequestedAndJudged : Obligations.CommitsAreRequestedAndJudged := by
  refine ⟨?request, ?discard, ?refused, ?taken, ?waits, ?prepared, ?cancelled, ?lockIn⟩
  case request =>
    intro s ss v hm hw hcode
    obtain ⟨-, x, -, hx, -⟩ := State.mayWrite_spec hw
    have harrived := State.session_touched hx
    have hfld (key : Nat) : (s.touched ss).fld ss key = s.fld ss key := by
      rw [State.fld_of_session harrived, State.fld_of_session hx]; rfl
    obtain ⟨acc, hacc⟩ := s.touched_eq ss
    have hcode' : (s.touched ss).requestCode ((s.touched ss).fld ss 0x2800_12 != 0) = none := by rw [hfld, hacc]; exact hcode
    have hnew : (s.touched ss).newRequest ss = s.newRequest ss := by
      simp only [State.newRequest, State.member, hfld, State.touched_reg, State.touched_commits]
    have hop := commitOp_requests harrived hcode' (s.partOf ss 0x2800_14) (.num v)
    rw [hnew] at hop
    refine ⟨_, s.newRequest ss, ledgerWrite_next hm hw hop rfl, ?_, rfl, rfl, rfl, rfl,
      State.fld_setSession_setFld (s := (s.touched ss).withRequest (s.newRequest ss)) harrived _ _, rfl, ?_⟩ <;>
      simp [hacc, State.withRequest, State.cells, State.still]
  case discard =>
    intro s ss v hm hw
    obtain ⟨acc, hacc⟩ := s.touched_eq ss
    have hop : discardOp (s.touched ss) ss (s.partOf ss 0x2800_17) (.num v) = ({ s.touched ss with shadow := [] }, .ok) := rfl
    have hexec := ledgerWrite_next hm hw hop rfl
    rw [hacc] at hexec
    exact ⟨_, hexec, rfl, rfl, rfl, rfl, rfl, rfl, rfl, rfl⟩
  case refused =>
    rintro s _ r rest c pair hm hr hasked rfl hjudge
    have hexec := exec_commitAccept_request hm hr hasked
    rw [State.serveRequest_refused hjudge] at hexec
    obtain ⟨log, sent, tickets, others, hrefuse⟩ := State.refuseTicket_frame
      { s with commits := { s.commits with requests := rest } } 0x051 r.ticket c pair 0xFF
    refine ⟨_, hexec, State.refuseTicket_newest .., ?_, fun k hk => ?_, ?_⟩
    · rw [hrefuse]
    · obtain ⟨hst, hcode, -⟩ := State.refuseTicket_ticket hk
      exact ⟨hst, hcode⟩
    · rw [hrefuse]
      exact ⟨rfl, rfl, rfl, rfl, rfl, rfl⟩
  case taken =>
    rintro s _ r a rest fs hm hr hasked rfl hjudge hon
    have hexec := exec_commitAccept_request hm hr hasked
    rw [State.serveRequest_taken hjudge hon] at hexec
    obtain ⟨hcells, hstill⟩ := State.lead_cells (State.takeCommit _ a fs) r.ticket
    exact ⟨_, hexec, rfl, hcells.trans (State.takeCommit_cells_of rfl a fs), hstill.trans (State.takeCommit_still_of rfl a fs)⟩
  case waits =>
    rintro s _ r a rest fs hm hr hasked rfl hjudge hoff
    have hexec := exec_commitAccept_request hm hr hasked
    rw [State.serveRequest_waits hjudge hoff] at hexec
    dsimp only at hexec
    rw [← hr] at hexec
    have hsettles := s.askDomains_settles a fs
    obtain ⟨hcommits, hplan, hlog⟩ := hsettles.commits
    obtain ⟨hblobs, hshadow, -, hsent, hcells, hstill, -⟩ := hsettles.kept
    exact ⟨_, hexec, hcommits, hsettles.entries, hblobs, hshadow, hplan, hlog, hsent, hcells, hstill⟩
  case prepared =>
    rintro s _ r a rest fs port tag hm hr hasked rfl hjudge hon
    rw [exec_commitAccept_prepare hm hr hasked, State.servePrepare_taken hjudge hon]
  case cancelled =>
    intro s ss id hm hw hc hl
    obtain ⟨acc, hacc⟩ := s.touched_eq ss
    have hop : cancelOp (s.touched ss) ss (s.partOf ss 0x2800_16) (.num id) = ({ s with acc := acc }.cancelCommit id, .ok) := by
      rw [hacc]
      exact cancelOp_cancels (s := { s with acc := acc }) hc hl _
    have hexec := ledgerWrite_next hm hw hop rfl
    obtain ⟨hwaiting, hrequests, hticket, hnewest, hplan⟩ := State.cancelCommit_cancels { s with acc := acc } id
    have hcells := State.cancelCommit_cells_of (s₀ := s) (s := { s with acc := acc }) rfl id
    have hstill := State.cancelCommit_still_of (s₀ := s) (s := { s with acc := acc }) rfl id
    generalize State.cancelCommit { s with acc := acc } id = u at *
    exact ⟨_, hexec, hwaiting, hrequests, hticket, State.newest_reply hnewest .., hplan, hcells, hstill⟩
  case lockIn =>
    intro s id p hm hw hdue hl hwall
    obtain ⟨hauto, hid⟩ := State.waitingCommit_spec hw
    have hregs : (s.lockIn p).regs = s.regs := by
      cases h : s.recheck p with
      | none => rw [State.lockIn_holds hl hwall h]; rfl
      | some x =>
        obtain ⟨_, _, _, _, hrefuse⟩ :=
          ((s.dropCommit p.ticket).unfreeze p).refuseTicket_frame 0x051 p.ticket x.1 x.2 0xFF
        rw [State.lockIn_fails hl hwall h, hrefuse]
        rfl
    refine ⟨s.lockIn p, exec_commitLockIn hm hw hdue, fun h => ?_, fun x h => ?_, hregs⟩
    · rw [State.lockIn_holds hl hwall h]
      exact ⟨State.waitingCommit_setCommit hw hauto hid, rfl⟩
    · rw [State.lockIn_fails hl hwall h]
      refine ⟨?_, State.refuseTicket_newest ..⟩
      rw [State.waitingCommit_congr (State.refuseTicket_waiting ..), ← hid]
      exact s.waitingCommit_dropCommit p.ticket

end Sys2Proof.Machine
end

section
/-! PROOFS. Wall-wide commits (R118, R119, R121): what a member and a coordinator make of each other's messages, the decision, and
the reports that follow it. -/

namespace Sys2Proof.Machine

section
variable {s u : State} {id port tag k : Nat} {m : WallMsg} {r p a : Pending} {fs : List Staged} {c : Code} {pair : Nat}

/-! ### Messages that the port's trust admits (R263) -/

theorem whenTrusted_next (hm : s.managed = true) (ht : 4 ≤ s.reg 0x4400_05 port) (f : State → State) :
    whenTrusted port 3 s f = .next (f s) := by
  have hadmit : s.admitMessage port 3 = (s, true) := by simp [State.admitMessage, messageLevel, Nat.not_lt.mpr ht]
  rw [whenTrusted, whenManaged_next hm, hadmit]
  rfl

/-! ### Prepare (R118 step 3, R119) -/

/-- The request that a Prepare makes of a member. -/
def requestOfPrepare (m : WallMsg) (port : Nat) : Pending :=
  { ticket := m.ticket, slot := m.slot, target := namedFrame m.target, wall := true, coordinator := some m.member
    asked := some (port, m.tag) }

theorem State.takePrepare_serves (hne : m.member ≠ s.member) (hw : s.waitingCommit m.ticket = none)
    (hq : ∀ q ∈ s.commits.requests, q.ticket ≠ m.ticket) :
    s.takePrepare port m = (s.addOther { id := m.ticket }).servePrepare (requestOfPrepare m port) port m.tag := by
  have hnone : (s.commits.requests.any fun q => q.ticket == m.ticket) = false := by simpa using hq
  simp [State.takePrepare, hne, hw, hnone, requestOfPrepare]

theorem exec_prepare {port : Fin 24} (hm : s.managed = true) (ht : 4 ≤ s.reg 0x4400_05 port) (hne : m.member ≠ s.member)
    (hw : s.waitingCommit m.ticket = none) (hq : ∀ q ∈ s.commits.requests, q.ticket ≠ m.ticket) :
    exec (.prepare port m) s = .next ((s.addOther { id := m.ticket }).servePrepare (requestOfPrepare m port) port m.tag) := by
  rw [← State.takePrepare_serves hne hw hq]
  exact whenTrusted_next hm ht (·.takePrepare port m)

theorem State.servePrepare_waits (h : s.judgePrepare (s.drawUp r) tag = .inr (a, fs)) (hoff : s.domainsOff a fs ≠ []) :
    s.servePrepare r port tag =
      { s with commits := { s.commits with requests := r :: s.commits.requests } }.askDomains a fs := by
  simp [State.servePrepare, h, hoff]

/-- A Prepare that fails a check is refused, with the answer that its coordinator gets. -/
theorem State.servePrepare_refused (h : s.judgePrepare (s.drawUp r) tag = .inl (c, pair)) :
    (s.refuseTicket 0x051 r.ticket c pair s.member).portsOnly (s.servePrepare r port tag) := by
  simp only [State.servePrepare, h]
  exact State.sendMessage_portsOnly ..

/-! ### The coordinator (R118 step 4) -/

theorem State.leading_spec (h : s.leading id = some p) : s.waitingCommit id = some p ∧ p.auto = false ∧ p.ticket = id := by
  unfold State.leading at h
  split at h
  · next q hq =>
    obtain ⟨-, rfl⟩ : _ ∧ q = p := by simpa using h
    exact ⟨hq, State.waitingCommit_spec hq⟩
  · cases h

theorem State.takeReady_counts (hl : s.leading m.ticket = some p) (hmem : p.members.contains m.member = true)
    (hpast : s.past (min p.deadline m.sealTime) = false) :
    s.takeReady m = s.setCommit
      { p with answers := Tbl.put p.answers m.member m.sealTime, deadline := min p.deadline m.sealTime } := by
  simp only [State.takeReady, hl, hmem, hpast, Bool.not_true, Bool.false_eq_true, if_false]

theorem State.takeReady_late (hl : s.leading m.ticket = some p) (hmem : p.members.contains m.member = true)
    (hpast : s.past (min p.deadline m.sealTime) = true) :
    s.takeReady m = s.setCommit { p with deadline := min p.deadline m.sealTime } := by
  simp only [State.takeReady, hl, hmem, hpast, Bool.not_true, Bool.false_eq_true, if_false, if_true]

theorem State.takeRefuse_notes (hl : s.leading m.ticket = some p) (hmem : p.members.contains m.member = true) :
    s.takeRefuse m = s.setCommit { p with refusedBy := some (p.refusedBy.getD (m.member, cm m.code)) } := by
  simp only [State.takeRefuse, hl, hmem, Bool.not_true, Bool.false_eq_true, if_false]

theorem exec_decisionDeadline (hm : s.managed = true) (hl : s.leading id = some p) (hpast : s.past p.deadline = true) :
    exec (.decisionDeadline id) s = .next (s.decideWall p) := by
  simp only [exec, execDecisionDeadline, whenManaged_next hm, hl, hpast, if_true]

/-- With every member ready the commit goes, and its members' reports are awaited. -/
theorem State.decideWall_goes (hh : p.holdOut = none) :
    (State.portsOnly { s.setCommit { p with go := some true } with
      commits := { (s.setCommit { p with go := some true }).commits with
        reports := (p.ticket, p.members, p.target) :: s.commits.reports } } (s.decideWall p)) := by
  simp only [State.decideWall, hh]
  exact State.broadcast_portsOnly _ _ _

/-- With a member that holds out the commit is aborted and refused. -/
theorem State.decideWall_aborts (hh : p.holdOut = some k) :
    ∃ u, ((s.dropCommit p.ticket).refuseTicket 0x051 p.ticket (cm 0x08) 0 k).portsOnly u ∧ s.decideWall p = u.settlePower :=
  ⟨_, State.broadcast_portsOnly _ 5 (s.wallMsgOf p), by simp only [State.decideWall, hh]⟩

/-! ### A member's decision (R118 steps 4 and 5) -/

theorem State.takeGo_holds (hw : s.waitingCommit m.ticket = some p) (hc : p.coordinator = some m.member)
    (hne : m.member ≠ s.member) : s.takeGo m = s.setCommit { p with go := some true } := by
  simp [State.takeGo, hw, hc, hne]

/-- A device once an Abort has taken the Prepare that it names from those that wait to be armed, and refused it. -/
def State.withoutPrepare (s : State) (m : WallMsg) : State :=
  let mine := fun (q : Pending) => q.ticket == m.ticket && q.asked.isSome && q.coordinator == some m.member
  if s.commits.requests.any mine then
    { s with commits := { s.commits with requests := s.commits.requests.filter fun q => !mine q } }.refuseTicket 0x051 m.ticket
      (cm 0x08) 0 0xFF
  else s

theorem State.withoutPrepare_frame (s : State) (m : WallMsg) :
    ∃ log sent requests tickets others, s.withoutPrepare m = { s with
      log := log, sent := sent
      commits := { s.commits with requests := requests, tickets := tickets, others := others } } := by
  unfold State.withoutPrepare
  dsimp only
  split
  · obtain ⟨log, sent, tickets, others, h⟩ := State.refuseTicket_frame _ 0x051 m.ticket (cm 0x08) 0 0xFF
    exact ⟨log, sent, _, tickets, others, h⟩
  · exact ⟨s.log, s.sent, s.commits.requests, s.commits.tickets, s.commits.others, rfl⟩

/-- An Abort drops and refuses the commit that waits for its decision. -/
theorem State.takeAbort_drops (hw : s.waitingCommit m.ticket = some p) (hc : p.coordinator = some m.member)
    (hne : m.member ≠ s.member) (hl : p.lockedIn = false) :
    s.takeAbort m = (((s.withoutPrepare m).dropCommit m.ticket).refuseTicket 0x051 m.ticket (cm 0x08) 0 0xFF).settlePower := by
  obtain ⟨_, _, _, _, _, h⟩ := s.withoutPrepare_frame m
  have hwaits : (s.withoutPrepare m).waitingCommit m.ticket = some p := by rw [h]; exact hw
  have hmember : (s.withoutPrepare m).member = s.member := by rw [h]; rfl
  unfold State.takeAbort
  dsimp only
  split
  · next q hq =>
    obtain rfl := Option.some.inj (hq.symm.trans hwaits)
    refine if_pos ?_
    simp only [hc, hl, decide_true, Bool.true_and, Bool.not_false, Bool.and_true, bne_iff_ne]
    exact fun heq => hne (heq.trans hmember)
  · next hnone => exact nomatch hnone.symm.trans hwaits

/-! ### Reports (R121) -/

/-- No vector follows for a record now: the log's last one was sent less than 100 µs ago (R441). -/
def State.vectorHeld (s : State) : Prop := ∃ t, s.log.vector0At = some t ∧ s.now < t + 100000

theorem State.raiseLog_held (h : s.vectorHeld) : s.raiseLog.sent = s.sent ∧ s.raiseLog.vectorHeld := by
  obtain ⟨t, ht, hlt⟩ := h
  unfold State.raiseLog
  split
  · next hnone => exact nomatch hnone.symm.trans ht
  · next w hw =>
    obtain rfl := Option.some.inj (hw.symm.trans ht)
    rw [if_neg (Nat.not_le.mpr hlt)]
    exact ⟨rfl, w, hw, hlt⟩

/-- A vector that is sent holds the next one. -/
theorem State.raiseLog_sends (s : State) :
    s.raiseLog.sent = s.sent ∨ s.raiseLog.sent = .msix 0 :: s.sent ∧ s.raiseLog.vectorHeld := by
  have hheld : s.now < s.now + 100000 := by omega
  unfold State.raiseLog
  split
  · exact .inr ⟨rfl, _, rfl, hheld⟩
  · split
    · exact .inr ⟨rfl, _, rfl, hheld⟩
    · exact .inl rfl

theorem State.record_held (h : s.vectorHeld) (event : Nat) (code : Option Code) (inst : Nat) (detail : Int) (fw : Bool) :
    (s.record event code inst detail fw).sent = s.sent ∧ (s.record event code inst detail fw).vectorHeld := by
  obtain ⟨t, ht, hlt⟩ := h
  obtain ⟨log, hlog, hrecord⟩ := s.record_raises event code inst detail fw
  have hheld : State.vectorHeld { s with log := log } := ⟨t, hlog.trans ht, hlt⟩
  rcases hrecord with hrecord | hrecord <;> rw [hrecord]
  · exact ⟨rfl, hheld⟩
  · exact State.raiseLog_held hheld

theorem State.record_sends (s : State) (event : Nat) (code : Option Code) (inst : Nat) (detail : Int) (fw : Bool) :
    (s.record event code inst detail fw).sent = s.sent ∨
      (s.record event code inst detail fw).sent = .msix 0 :: s.sent ∧ (s.record event code inst detail fw).vectorHeld := by
  obtain ⟨log, -, hrecord | hrecord⟩ := s.record_raises event code inst detail fw <;> rw [hrecord]
  · exact .inl rfl
  · exact State.raiseLog_sends { s with log := log }

/-- A record of one event and code for each member of a list. -/
def State.recordEach (s : State) (event id : Nat) (c : Code) (ms : List Nat) : State :=
  ms.foldl (fun (t : State) (m : Nat) => t.record event (some c) id m) s

section
variable (event id : Nat) (c : Code) (ms : List Nat)

theorem State.recordEach_frame (s : State) : ∃ log sent, s.recordEach event id c ms = { s with log := log, sent := sent } := by
  induction ms generalizing s with
  | nil => exact ⟨s.log, s.sent, rfl⟩
  | cons m ms ih =>
    obtain ⟨_, _, hrecord⟩ := s.record_frame event (some c) id m false
    obtain ⟨log, sent, hrest⟩ := ih (s.record event (some c) id m)
    exact ⟨log, sent, hrest.trans (by rw [hrecord])⟩

/-- The newest record is then one of them. -/
theorem State.recordEach_newest (s : State) (h : ms ≠ [] ∨ s.newest event (some c)) :
    (s.recordEach event id c ms).newest event (some c) := by
  induction ms generalizing s with
  | nil => exact h.resolve_left (· rfl)
  | cons m ms ih => exact ih (s.record event (some c) id m) (.inr (State.record_newest ..))

theorem State.recordEach_held (s : State) (h : s.vectorHeld) : (s.recordEach event id c ms).sent = s.sent := by
  induction ms generalizing s with
  | nil => rfl
  | cons m ms ih =>
    obtain ⟨hsent, hheld⟩ := State.record_held h event (some c) id m false
    exact (ih _ hheld).trans hsent

/-- However many records there are, at most one vector is sent for them (R441). -/
theorem State.recordEach_sendsLog (s : State) : s.sendsLog (s.recordEach event id c ms) := by
  induction ms generalizing s with
  | nil => exact .inl rfl
  | cons m ms ih =>
    rcases s.record_sends event (some c) id m false with hsent | ⟨hsent, hheld⟩
    · have hrest := ih (s.record event (some c) id m)
      rw [State.sendsLog, hsent] at hrest
      exact hrest
    · exact .inr ((State.recordEach_held event id c ms _ hheld).trans hsent)

end

theorem exec_appliedReportTimeout {w : Nat} {ms : List Nat} (hm : s.managed = true)
    (hr : s.commits.reports.find? (fun r => r.1 == id) = some (id, ms, w)) (hw : w + 4 ≤ s.wf) :
    exec (.appliedReportTimeout id) s = .next (State.recordEach
      { s with commits := { s.commits with reports := s.commits.reports.filter fun x => x.1 != id } } 0x052 id (cm 0x09) ms) := by
  simp only [exec, execAppliedReportTimeout, whenManaged_next hm, hr, Nat.not_lt.mpr hw, if_false]
  rfl

end

/-- Settles O25: each message of the wall is one that the port's trust admits, and its clause follows from what it makes of the
commit that waits; the messages sent in answer change the Swage ports alone. -/
theorem wallCommitsAreDecided : Obligations.WallCommitsAreDecided := by
  refine ⟨?armed, ?waits, ?refused, ?counted, ?late, ?noted, ?goes, ?aborts, ?go, ?abort, ?reported, ?missing⟩
  case armed =>
    rintro s _ port m _ a fs hm ht hne hw hq rfl rfl hjudge hon
    rw [exec_prepare hm ht hne hw hq, State.servePrepare_taken (r := requestOfPrepare m port) hjudge hon]
    rfl
  case waits =>
    rintro s _ port m _ a fs hm ht hne hw hq rfl rfl hjudge hoff
    have hexec := exec_prepare hm ht hne hw hq
    rw [State.servePrepare_waits (r := requestOfPrepare m port) hjudge hoff] at hexec
    have hsettles := State.askDomains_settles { s.addOther { id := m.ticket } with commits := {
      (s.addOther { id := m.ticket }).commits with requests := requestOfPrepare m port :: s.commits.requests } } a fs
    obtain ⟨hcommits, -, hlog⟩ := hsettles.commits
    obtain ⟨hblobs, hshadow, -, hsent, hcells, hstill, -⟩ := hsettles.kept
    have hrequests := congrArg Commits.requests hcommits
    have hwaiting := congrArg Commits.waiting hcommits
    exact ⟨_, requestOfPrepare m port, hexec, hrequests, rfl, rfl, hwaiting, hsettles.entries, hblobs,
      hshadow, hlog, hsent, hcells, hstill⟩
  case refused =>
    rintro s _ port m _ c pair hm ht hne hw hq rfl rfl hjudge
    have hexec := exec_prepare hm ht hne hw hq
    obtain ⟨_, hserve⟩ := State.servePrepare_refused (r := requestOfPrepare m port) (port := port) hjudge
    obtain ⟨_, _, _, _, hrefuse⟩ := State.refuseTicket_frame (s.addOther { id := m.ticket }) 0x051
      (requestOfPrepare m port).ticket c pair (s.addOther { id := m.ticket }).member
    have hnewest := State.refuseTicket_newest (s.addOther { id := m.ticket }) 0x051 (requestOfPrepare m port).ticket c pair
      (s.addOther { id := m.ticket }).member
    rw [hserve, hrefuse] at hexec
    rw [hrefuse] at hnewest
    exact ⟨_, hexec, hnewest, hw, rfl, rfl, rfl, rfl, rfl⟩
  case counted =>
    intro s port m p hm ht hl hmem hpast
    obtain ⟨hw, hauto, hid⟩ := State.leading_spec hl
    have hexec : exec (.ready port m) s = .next (s.takeReady m) := whenTrusted_next hm ht (·.takeReady m)
    rw [State.takeReady_counts hl hmem hpast] at hexec
    exact ⟨_, _, hexec, State.waitingCommit_setCommit hw hauto hid, Tbl.find_put_same _ _ _, rfl, rfl, rfl, rfl, rfl, rfl,
      rfl, rfl, rfl⟩
  case late =>
    intro s port m p hm ht hl hmem hpast
    obtain ⟨hw, hauto, hid⟩ := State.leading_spec hl
    have hexec : exec (.ready port m) s = .next (s.takeReady m) := whenTrusted_next hm ht (·.takeReady m)
    rw [State.takeReady_late hl hmem hpast] at hexec
    exact ⟨_, _, hexec, State.waitingCommit_setCommit hw hauto hid, rfl, rfl, rfl, rfl, rfl, rfl, rfl, rfl, rfl, rfl⟩
  case noted =>
    intro s port m p hm ht hl hmem
    obtain ⟨hw, hauto, hid⟩ := State.leading_spec hl
    have hexec : exec (.refuse port m) s = .next (s.takeRefuse m) := whenTrusted_next hm ht (·.takeRefuse m)
    rw [State.takeRefuse_notes hl hmem] at hexec
    exact ⟨_, _, hexec, State.waitingCommit_setCommit hw hauto hid, rfl, rfl, rfl, rfl, rfl, rfl, rfl, rfl⟩
  case goes =>
    intro s id p hm hl hpast hh
    obtain ⟨hw, hauto, rfl⟩ := State.leading_spec hl
    obtain ⟨_, hgoes⟩ := s.decideWall_goes hh
    have hexec := exec_decisionDeadline hm hl hpast
    rw [hgoes] at hexec
    exact ⟨_, _, hexec, State.waitingCommit_setCommit (q := { p with go := some true }) hw hauto rfl, rfl, rfl, rfl,
      rfl, rfl, rfl, rfl, rfl⟩
  case aborts =>
    intro s id k p hm hl hpast hh
    obtain ⟨-, -, rfl⟩ := State.leading_spec hl
    obtain ⟨u, hports, haborts⟩ := s.decideWall_aborts hh
    have hexec := exec_decisionDeadline hm hl hpast
    have hsettles := u.settlePower_settles
    obtain ⟨hcommits, -⟩ := hsettles.commits
    rw [← haborts] at hsettles hcommits
    obtain ⟨_, rfl⟩ := hports
    refine ⟨_, hexec, ?_, hsettles.newest (State.refuseTicket_newest ..), fun x hx => ?_, State.decideWall_cells_of rfl p,
      State.decideWall_still_of rfl p⟩
    · rw [State.waitingCommit_congr (congrArg Commits.waiting hcommits)]
      exact (State.waitingCommit_congr (State.refuseTicket_waiting ..) _).trans (s.waitingCommit_dropCommit p.ticket)
    · rw [State.ticket_congr hcommits] at hx
      obtain ⟨hst, -, hmember⟩ := State.refuseTicket_ticket hx
      exact ⟨hst, hmember⟩
  case go =>
    intro s port m p hm ht hw hc hne
    obtain ⟨hauto, hid⟩ := State.waitingCommit_spec hw
    have hexec : exec (.go port m) s = .next (s.takeGo m) := whenTrusted_next hm ht (·.takeGo m)
    rw [State.takeGo_holds hw hc hne] at hexec
    exact ⟨_, _, hexec, State.waitingCommit_setCommit hw hauto hid, rfl, rfl, rfl, rfl, rfl, rfl, rfl, rfl⟩
  case abort =>
    intro s port m p hm ht hw hc hne hl
    have hexec : exec (.abort port m) s = .next (s.takeAbort m) := whenTrusted_next hm ht (·.takeAbort m)
    obtain ⟨_, _, _, _, _, hwithout⟩ := s.withoutPrepare_frame m
    have hdrops := State.takeAbort_drops hw hc hne hl
    have hsettles := State.settlePower_settles
      (((s.withoutPrepare m).dropCommit m.ticket).refuseTicket 0x051 m.ticket (cm 0x08) 0 0xFF)
    obtain ⟨hcommits, hplan, -⟩ := hsettles.commits
    rw [← hdrops] at hsettles hcommits hplan
    refine ⟨_, hexec, ?_, hsettles.newest (State.refuseTicket_newest ..), ?_, State.takeAbort_cells_of rfl m,
      State.takeAbort_still_of rfl m⟩
    · rw [State.waitingCommit_congr (congrArg Commits.waiting hcommits), State.waitingCommit_congr (State.refuseTicket_waiting ..)]
      exact (s.withoutPrepare m).waitingCommit_dropCommit m.ticket
    · rw [hplan, State.refuseTicket_plan, hwithout]
      rfl
  case reported =>
    intro s port m hm ht
    have hexec : exec (.applied port m) s = .next (s.takeApplied m) := whenTrusted_next hm ht (·.takeApplied m)
    refine ⟨_, hexec, fun r hr hid => List.mem_map.mpr ⟨r, hr, if_pos (by simp [hid])⟩, fun r hr hid => ?_, rfl, rfl, rfl,
      rfl, rfl, rfl, rfl⟩
    obtain ⟨x, -, rfl⟩ := List.mem_map.mp hr
    split at hid
    · rw [if_pos ‹_›]
      simp
    · next hne => exact absurd (by simpa using hid) hne
  case missing =>
    intro s id w k ms hm hr hw hk
    have hexec := exec_appliedReportTimeout hm hr hw
    have hnewest := State.recordEach_newest 0x052 id (cm 0x09) ms
      { s with commits := { s.commits with reports := s.commits.reports.filter fun x => x.1 != id } }
      (.inl (List.ne_nil_of_mem hk))
    have hsends := State.recordEach_sendsLog 0x052 id (cm 0x09) ms
      { s with commits := { s.commits with reports := s.commits.reports.filter fun x => x.1 != id } }
    obtain ⟨log, sent, hframe⟩ := State.recordEach_frame 0x052 id (cm 0x09) ms
      { s with commits := { s.commits with reports := s.commits.reports.filter fun x => x.1 != id } }
    rw [hframe] at hexec hnewest hsends
    exact ⟨_, hexec, fun r hr => by simpa using List.of_mem_filter hr, hnewest, rfl, rfl, rfl, hsends, rfl, rfl⟩

end Sys2Proof.Machine
end

section
/-! PROOFS. Writebacks (R144, R300): a region is published only when its last line has been written, and a write that still waits
for the fabric's grant has not been. -/

namespace Sys2Proof.Machine

/-- While a class B write of the engine to the Ingot's buffer waits for its grant, the end of the region leaves everything as it
is (R300). -/
theorem exec_writebackRegionEnd_writeWaits {s : State} {e : Fin 16} {i : Nat} (hl : s.live = true)
    (hi : (s.engine e).wbIngot = some i) (hw : s.writeWaits e (s.ingot i).base (s.ingot i).size = true) :
    exec (.writebackRegionEnd e) s = .next s := by
  simp only [exec, execWritebackRegionEnd, whenLive_next hl, hi]
  cases s.writebackOf e with
  | none => rfl
  | some o => simp [hw]

/-! ### The refuting state -/

/-- Engine 0's write of the last of four lines of 256 bytes into the buffer at 0x100000 of DRAM channel 0, which has no
grant. -/
def lastLineWrite : FabItem :=
  { port := 0, target := 0, issued := 768110, since := 768110
    req := { address := 0x100300, beats := 4, write := true, cls := 1, id := 0
             data := List.replicate 256 0, enables := List.replicate 4 (2 ^ 64 - 1) } }

/-- Engine 0 writes the first four lines of output 0 back to a host source of 64 by 4 pixels in slot 0, into Ingot 0. The frame
in progress started 480.1 µs ago, so that the last of these lines has been composed; its write has waited 31.25 ns for the fabric. -/
def lastLineWaits : State :=
  { State.reset with
    regs := [(regKey 0x3400_02 0, 1), (regKey 0x3420_03 0, 0xFF00), (regKey 0x3080_02 0, 1), (regKey 0x3080_04 0, 0),
        (regKey 0x3080_07 0, 64), (regKey 0x3080_08 0, 4)] ++ (List.range 24).map fun d => (regKey 0x6400_02 d, 2)
    power := { mgmt := true, booted := true }
    time := { counter := 480100, uptime := 480100 }
    outputs := [(0, { running := true, started := true, kind := .composed, curOf := frameBias, nextOf := frameBias + 1 })]
    engines := [(0, { wbIngot := some 0, wbOf := some frameBias })]
    sources := [(0, { id := 1, kind := 3, fmt := 0, rate := 60000, locator := 0, width := 64, height := 4, name := [0x41]
                      ingotCount := 1, memory := 0, upPort := 24, upStream := 0, bases := [0x100000], size := 0x10000 })]
    slots := [(0, { set := [0] })]
    ingots := [(0, { slot := 0, base := 0x100000, size := 0x10000, st := .filling, filler := .writeback })]
    fabric := { queue := [lastLineWrite] } }

/-- Refutes O21: the clause for the region's end says nothing of the writes of its lines. While one waits for its grant the region
has not been written, and its frame may yet be refused whole (R144, R145, R300): nothing is published, and the engine keeps its
Ingot. -/
theorem not_tablesLoadAndWritebacksPublish : ¬ Obligations.TablesLoadAndWritebacksPublish := by
  rintro ⟨-, -, hend⟩
  obtain ⟨t, hexec, -, -, hnone, -⟩ := hend lastLineWaits 0 0 0 (by decide +kernel) (by decide +kernel) (by decide +kernel) rfl
    (by decide +kernel) rfl rfl (by decide +kernel)
  have hunchanged : exec (.writebackRegionEnd 0) lastLineWaits = .next lastLineWaits :=
    exec_writebackRegionEnd_writeWaits (i := 0) (by decide +kernel) rfl (by decide +kernel)
  obtain rfl : t = lastLineWaits := Host.Outcome.next.inj (hexec.symm.trans hunchanged)
  cases hnone

end Sys2Proof.Machine
end

section
/-! PROOFS. Display links (R169, R170, R172): a DisplayPort link trains, is lost and trains again, and a DSI-2 panel's sequence
is sent. -/

namespace Sys2Proof.Machine

/-! ### What an output's state leaves alone -/

/-- A state differs from another in its outputs alone. -/
def State.outputsOnly (s t : State) : Prop := ∃ outputs, t = { s with outputs := outputs }

theorem State.outputsOnly_foldl {f : State → Nat → State} (hf : ∀ u o, State.outputsOnly u (f u o)) (os : List Nat) (s : State) :
    s.outputsOnly (os.foldl f s) := by
  induction os generalizing s with
  | nil => exact ⟨s.outputs, rfl⟩
  | cons o os ih =>
    obtain ⟨_, hf⟩ := hf s o
    obtain ⟨outputs, ih⟩ := ih (f s o)
    exact ⟨outputs, ih.trans (by rw [hf])⟩

section
variable {s : State} {o : Nat}

/-- A link that trains anew breaks off the frames of its outputs, and nothing else (R169). -/
theorem State.breakFrames_outputsOnly (s : State) (p : Nat) : s.outputsOnly (s.breakFrames p) := by
  refine State.outputsOnly_foldl (fun u o => ?_) _ s
  dsimp only
  split
  · exact ⟨_, rfl⟩
  · exact ⟨_, rfl⟩

/-- An event of a link is recorded, and nothing else is written (R169). -/
theorem State.noteLink_records (s : State) (o : Nat) (c : Code) :
    (∃ log sent, s.noteLink o c = { s with log := log, sent := sent }) ∧ (s.noteLink o c).newest 0x075 (some c) ∧
      s.sendsLog (s.noteLink o c) :=
  ⟨s.record_frame .., s.record_newest .., (s.record_sends ..).imp_right And.left⟩

/-! ### DisplayPort (R169, R170) -/

/-- What a link that starts training leaves: its sink with the spread that both ends take, its state and the EDID read. -/
theorem State.trainDp_frame (s : State) (p : Nat) (k : Sink) :
    ∃ outputs, s.trainDp p k =
      { s with
        outputs := outputs
        sinks := Tbl.put s.sinks p { k with spreadOn := s.flag 0x3440_04 p && k.spread }
        regs := Tbl.put s.regs (regKey 0x3440_05 p) 1
        blobs := Tbl.put s.blobs (regKey 0x3440_08 p) (k.edid.take 32768) } := by
  obtain ⟨outputs, h⟩ := State.breakFrames_outputsOnly
    (({ s with sinks := Tbl.put s.sinks p { k with spreadOn := s.flag 0x3440_04 p && k.spread } }.setReg 0x3440_05 p 1).setBlob
      0x3440_08 p (k.edid.take 32768)) p
  exact ⟨outputs, h⟩

/-- A link in training has its state and its EDID in the ledger, and writes nothing else there. -/
theorem State.trainDp_trains (s : State) (p : Nat) (k : Sink) :
    (s.trainDp p k).reg 0x3440_05 p = 1 ∧ (s.trainDp p k).blob 0x3440_08 p = k.edid.take 32768 ∧
      s.regsBut (s.trainDp p k) [regKey 0x3440_05 p] ∧ s.blobsBut (s.trainDp p k) [regKey 0x3440_08 p] := by
  obtain ⟨outputs, h⟩ := s.trainDp_frame p k
  rw [h]
  exact ⟨State.reg_setReg_same s .., State.blob_setBlob_same s ..,
    State.regsBut_put (s.regsBut_refl _) rfl (List.mem_singleton_self _),
    State.blobsBut_put (s.blobsBut_refl _) rfl (List.mem_singleton_self _)⟩

/-- The sink that a rising hot-plug detect shows (R169). -/
def sinkSeen (rate : Nat) (link : SinkLink) (edid : Bytes) : Sink :=
  { rate := rate, lanes := link.lanes, edid := edid, spread := link.spread }

/-- The state with a sink on a port. -/
def State.withSink (s : State) (p : Nat) (k : Sink) : State := { s with sinks := Tbl.put s.sinks p k }

theorem exec_hotPlugAssert {p : Fin 8} (hl : s.live = true) (ho : s.outputOn [2] p = some o) (rate : Fin 4) (link : SinkLink)
    (edid : Bytes) :
    exec (.hotPlugAssert p rate link edid) s =
      .next ((s.withSink p (sinkSeen rate link edid)).trainDp p (sinkSeen rate link edid)) := by
  have hsome : ((s.withSink p (sinkSeen rate link edid)).outputOn [2] p).isSome = true := by
    rw [show (s.withSink p (sinkSeen rate link edid)).outputOn [2] p = some o from ho, Option.isSome_some]
  rw [exec, execHotPlugAssert, whenLive_next hl]
  exact congrArg Host.Outcome.next (if_pos hsome)

theorem exec_hotPlugLoss {p : Fin 8} {us : Nat} (hl : s.live = true) (hus : 2000 < us) (ho : s.outputOn [2] p = some o) :
    exec (.hotPlugLoss p us) s =
      .next (((State.setReg { s with sinks := Tbl.erase s.sinks p } 0x3440_05 p 0).breakFrames p).noteLink o (so 0x0A)) := by
  have ho' : State.outputOn { s with sinks := Tbl.erase s.sinks p } [2] p = some o := ho
  simp only [exec, execHotPlugLoss, whenLive_next hl, if_neg (Nat.not_le.mpr hus), ho']

theorem exec_irqHpd {p : Fin 8} {k : Sink} (hl : s.live = true) (hk : Tbl.find s.sinks p = some k)
    (ho : s.outputOn [2] p = some o) (lost : Bool) :
    exec (.irqHpd p lost) s = .next (if lost then s.trainDp p k else s) := by
  simp only [exec, execIrqHpd, whenLive_next hl, hk, ho]

/-- A link that has trained, at a rate and a number of lanes. -/
def State.linkTrained (s : State) (p rate lanes : Nat) : State :=
  ((s.setReg 0x3440_05 p 2).setReg 0x3440_06 p rate).setReg 0x3440_07 p lanes

section
variable {p : Nat} (hp : p < 65536) (rate lanes : Nat)
include hp

theorem State.linkTrained_state : (s.linkTrained p rate lanes).reg 0x3440_05 p = 2 := by
  rw [State.linkTrained, State.reg_setReg_key _ _ (by decide) hp hp, State.reg_setReg_key _ _ (by decide) hp hp,
    State.reg_setReg_same]

theorem State.linkTrained_rate : (s.linkTrained p rate lanes).reg 0x3440_06 p = rate := by
  rw [State.linkTrained, State.reg_setReg_key _ _ (by decide) hp hp, State.reg_setReg_same]

end

theorem State.linkTrained_ledgerBut (s : State) (p rate lanes : Nat) :
    s.ledgerBut (s.linkTrained p rate lanes) [regKey 0x3440_05 p, regKey 0x3440_06 p, regKey 0x3440_07 p] := by
  have hstate : s.regsBut (s.setReg 0x3440_05 p 2) [regKey 0x3440_05 p, regKey 0x3440_06 p, regKey 0x3440_07 p] :=
    State.regsBut_put (s.regsBut_refl _) rfl (by simp)
  exact ⟨State.regsBut_put (State.regsBut_put hstate (State.setReg_regs ..) (by simp)) (State.setReg_regs ..) (by simp), rfl, rfl⟩

theorem exec_dpTrainingDone_failed {p : Fin 8} {k : Sink} (hl : s.live = true) (hk : Tbl.find s.sinks p = some k)
    (ho : s.outputOn [2] p = some o) (hon : s.reg 0x3440_05 p = 1) :
    exec (.dpTrainingDone p .failed) s = .next ((s.setReg 0x3440_05 p 3).noteLink o (so 0x0A)) := by
  simp only [exec, execDpTrainingDone, whenLive_next hl, hk, ho, hon, bne_self_eq_false, Bool.false_eq_true, if_false]

/-- A link trains at no more than what was reached, what the sink takes and what the port may (R169). -/
theorem exec_dpTrainingDone_trained {p : Fin 8} {k : Sink} (hl : s.live = true) (hk : Tbl.find s.sinks p = some k)
    (ho : s.outputOn [2] p = some o) (hon : s.reg 0x3440_05 p = 1) (rate lanes : Nat) :
    ∃ n t, exec (.dpTrainingDone p (.trained rate lanes)) s = .next t ∧
      (t = s.linkTrained p (min rate (min k.rate (s.reg 0x3440_02 p))) n ∨
        t = (s.linkTrained p (min rate (min k.rate (s.reg 0x3440_02 p))) n).noteLink o (so 0x0B)) := by
  simp only [exec, execDpTrainingDone, whenLive_next hl, hk, ho, hon, bne_self_eq_false, Bool.false_eq_true, if_false]
  refine ⟨dpLanes (min lanes (min k.lanes (s.reg 0x3440_03 p))), _, rfl, ?_⟩
  split
  · exact .inl rfl
  · exact .inr rfl

end

/-! ### DSI-2 (R172) -/

/-- The waits of a sequence add up. -/
theorem dsiWaits_cons (x : Nat × Bytes) (rs : List (Nat × Bytes)) : dsiWaits (x :: rs) = dsiWaits [x] + dsiWaits rs := by
  have hfrom : ∀ n, rs.foldl (fun n x => if x.1 = 0xFF then n + x.2.foldl (fun m b => m + b.toNat) 0 * 1000000 else n) n =
      n + dsiWaits rs := by
    unfold dsiWaits
    induction rs with
    | nil => exact fun _ => rfl
    | cons y rs ih =>
      intro n
      rw [List.foldl_cons, List.foldl_cons, ih]
      conv_rhs => rw [ih]
      split <;> omega
  exact hfrom _

/-- Once all its waits are over, every packet of a sequence has been sent. -/
theorem dsiSent_complete {spent : Nat} (rs : List (Nat × Bytes)) {past : Nat} (h : past + dsiWaits rs ≤ spent) :
    dsiSent spent past rs = rs.filter fun x => x.1 != 0xFF := by
  induction rs generalizing past with
  | nil => rfl
  | cons x rs ih =>
    rw [dsiWaits_cons] at h
    have hrest : ∀ {w}, w ≤ past + dsiWaits [x] → dsiSent spent w rs = rs.filter fun x => x.1 != 0xFF := fun hw => ih (by omega)
    unfold dsiSent
    split
    · next hwait => rw [hrest (Nat.le_refl _), List.filter_cons_of_neg (by simp [hwait])]
    · next hpacket => rw [if_pos (by omega), hrest (Nat.le_add_right ..), List.filter_cons_of_pos (by simpa using hpacket)]

/-- A fold of sends sends in the order of the list. -/
theorem State.foldl_send {α : Type} (f : α → Sent) (xs : List α) (s : State) :
    xs.foldl (fun t x => t.send (f x)) s = { s with sent := (xs.map f).reverse ++ s.sent } := by
  induction xs generalizing s with
  | nil => rfl
  | cons x xs ih =>
    rw [List.foldl_cons, ih]
    simp [State.send]

/-- The records of a panel's initialisation sequence, and whether all of it is well formed (R172). -/
def State.panelRecords (s : State) (p : Nat) : List (Nat × Bytes) × Bool :=
  dsiRecords (s.blob 0x3450_05 p).length (s.blob 0x3450_05 p)

/-- A well-formed sequence whose waits are over has sent its packets, and its panel is ready. -/
theorem exec_dsiInitDone {s : State} {p : Fin 4} {o : Nat} (hl : s.live = true) (ho : s.outputOn [3, 4] p = some o)
    (hon : s.reg 0x3450_07 p = 1) (hwhole : (s.panelRecords p).2 = true)
    (hwaits : Tbl.get 0 s.panels p + dsiWaits (s.panelRecords p).1 ≤ s.now) :
    exec (.dsiInitDone p true) s =
      .next (State.setReg { s with
        sent := (((s.panelRecords p).1.filter fun x => x.1 != 0xFF).map fun x => Sent.dsi p x.1 x.2).reverse ++ s.sent }
          0x3450_07 p 2) := by
  have hspent : 0 + dsiWaits (s.panelRecords p).1 ≤ s.now - Tbl.get 0 s.panels p := by omega
  have hsent := dsiSent_complete (s.panelRecords p).1 hspent
  have hover : ¬ s.now - Tbl.get 0 s.panels p < dsiWaits (s.panelRecords p).1 := by omega
  unfold State.panelRecords at *
  simp only [exec, execDsiInitDone, whenLive_next hl, ho, hon, bne_self_eq_false, Bool.false_eq_true, if_false, hsent, hwhole,
    hover, State.foldl_send, Bool.not_true, Bool.false_and, Bool.not_false, Bool.true_and, decide_false, Bool.or_self]

/-- Settles O20: each event of a link is the start of its training, its end, or nothing, with a record where it failed; a panel's
sequence that is whole has sent its packets once its waits are over. -/
theorem displayLinksComeUp : Obligations.DisplayLinksComeUp := by
  refine ⟨?appears, ?lost, ?glitch, ?irq, ?trained, ?failed, ?ready⟩
  case appears =>
    intro s p rate lanes o spread edid hl ho
    have hexec := exec_hotPlugAssert hl ho rate ⟨lanes, spread⟩ edid
    obtain ⟨hreg, hblob, hregs, hblobs⟩ := (s.withSink p (sinkSeen rate ⟨lanes, spread⟩ edid)).trainDp_trains p
      (sinkSeen rate ⟨lanes, spread⟩ edid)
    obtain ⟨outputs, hframe⟩ := (s.withSink p (sinkSeen rate ⟨lanes, spread⟩ edid)).trainDp_frame p
      (sinkSeen rate ⟨lanes, spread⟩ edid)
    refine ⟨_, hexec, hreg, hblob, ?_, hregs, hblobs, ?_⟩ <;> rw [hframe]
    · exact Tbl.find_put_same ..
    · exact ⟨rfl, rfl, rfl, rfl, rfl⟩
  case lost =>
    intro s p us o hl hus ho
    have hexec := exec_hotPlugLoss hl hus ho
    obtain ⟨outputs, hbreak⟩ := State.breakFrames_outputsOnly
      (State.setReg { s with sinks := Tbl.erase s.sinks p } 0x3440_05 p 0) p
    rw [hbreak] at hexec
    obtain ⟨⟨log, sent, hnote⟩, hnewest, hsends⟩ := State.noteLink_records
      { State.setReg { s with sinks := Tbl.erase s.sinks p } 0x3440_05 p 0 with outputs := outputs } o (so 0x0A)
    rw [hnote] at hexec hnewest hsends
    exact ⟨_, hexec, State.reg_setReg_same s .., Tbl.find_erase_same .., hnewest,
      ⟨State.regsBut_put (s.regsBut_refl _) rfl (List.mem_singleton_self _), rfl, rfl⟩, hsends, rfl, rfl⟩
  case glitch =>
    intro s p us hl hus
    simp only [exec, execHotPlugLoss, whenLive_next hl, if_pos hus]
  case irq =>
    intro s p k o hl hk ho
    obtain ⟨hreg, hblob, hregs, hblobs⟩ := s.trainDp_trains p k
    obtain ⟨outputs, hframe⟩ := s.trainDp_frame p k
    refine ⟨exec_irqHpd hl hk ho false, _, exec_irqHpd hl hk ho true, hreg, hblob, hregs, hblobs, ?_⟩
    rw [if_pos rfl, hframe]
    exact ⟨rfl, rfl, rfl, rfl⟩
  case trained =>
    intro s p k o rate lanes hl hk ho hon
    have hp : p.val < 65536 := by omega
    obtain ⟨n, t, hexec, ht⟩ := exec_dpTrainingDone_trained hl hk ho hon rate lanes
    have hbounds : ∀ {x}, x = min rate (min k.rate (s.reg 0x3440_02 p)) → x ≤ rate ∧ x ≤ k.rate ∧ x ≤ s.reg 0x3440_02 p := by
      omega
    generalize min rate (min k.rate (s.reg 0x3440_02 p)) = r at ht hbounds
    have hstate := State.linkTrained_state (s := s) hp r n
    obtain ⟨hreached, hsink, hport⟩ := hbounds (State.linkTrained_rate (s := s) hp r n)
    have hledger := s.linkTrained_ledgerBut p r n
    obtain ⟨⟨log, sent, hnote⟩, -, hsends⟩ := State.noteLink_records (s.linkTrained p r n) o (so 0x0B)
    rw [hnote] at ht hsends
    refine ⟨t, hexec, ?_⟩
    rcases ht with rfl | rfl
    · exact ⟨hstate, hreached, hsink, hport, hledger, .inl rfl, rfl, rfl, rfl⟩
    · exact ⟨hstate, hreached, hsink, hport, hledger, hsends, rfl, rfl, rfl⟩
  case failed =>
    intro s p k o hl hk ho hon
    have hexec := exec_dpTrainingDone_failed hl hk ho hon
    obtain ⟨⟨log, sent, hnote⟩, hnewest, hsends⟩ := (s.setReg 0x3440_05 p 3).noteLink_records o (so 0x0A)
    rw [hnote] at hexec hnewest hsends
    exact ⟨_, hexec, State.reg_setReg_same s .., hnewest,
      ⟨State.regsBut_put (s.regsBut_refl _) rfl (List.mem_singleton_self _), rfl, rfl⟩, rfl, hsends, rfl, rfl⟩
  case ready =>
    intro s p o hl ho hon hwhole hwaits
    exact ⟨_, exec_dsiInitDone hl ho hon hwhole hwaits, State.reg_setReg_same ..,
      ⟨State.regsBut_put (s.regsBut_refl _) rfl (List.mem_singleton_self _), rfl, rfl⟩, rfl, rfl, rfl, rfl⟩

end Sys2Proof.Machine
end

section
/-! PROOFS. What the records of a fault leave (R334, R335, R437, R441): the vector sent for them, and the record that stands
before them in the log. -/

namespace Sys2Proof.Machine

section
variable {s t u : State} {event : Nat} {code : Option Code} {k m n : Nat}

/-! ### The log's vector (R441) -/

/-- From one state to another at most one vector is sent, for the log, and none where one was sent less than 100 µs ago. -/
def State.raisesOnce (s t : State) : Prop :=
  (s.vectorHeld → t.sent = s.sent ∧ t.vectorHeld) ∧ (t.sent = s.sent ∨ t.sent = .msix 0 :: s.sent ∧ t.vectorHeld)

theorem State.raisesOnce_refl (s : State) : s.raisesOnce s := ⟨fun h => ⟨rfl, h⟩, .inl rfl⟩

theorem State.raisesOnce.trans (h : s.raisesOnce t) (h' : t.raisesOnce u) : s.raisesOnce u := by
  obtain ⟨hheld, hsent⟩ := h
  obtain ⟨hheld', hsent'⟩ := h'
  refine ⟨fun hs => ?_, ?_⟩
  · obtain ⟨heq, ht⟩ := hheld hs
    obtain ⟨heq', hu⟩ := hheld' ht
    exact ⟨heq'.trans heq, hu⟩
  · rcases hsent with hsent | ⟨hsent, ht⟩
    · rwa [hsent] at hsent'
    · obtain ⟨heq', hu⟩ := hheld' ht
      exact .inr ⟨heq'.trans hsent, hu⟩

theorem State.raisesOnce.sendsLog (h : s.raisesOnce t) : s.sendsLog t := h.2.imp_right And.left

/-- A change of the log but for the time of its last vector, which may then be raised. -/
def State.logs (s t : State) : Prop :=
  ∃ log : Log, log.vector0At = s.log.vector0At ∧ (t = { s with log := log } ∨ t = State.raiseLog { s with log := log })

theorem State.logs.frame (h : s.logs t) : ∃ log sent, t = { s with log := log, sent := sent } := by
  obtain ⟨log, -, rfl | rfl⟩ := h
  · exact ⟨log, s.sent, rfl⟩
  · obtain ⟨log', sent, hraise⟩ := State.raiseLog_frame { s with log := log }
    exact ⟨log', sent, hraise⟩

theorem State.logs.raisesOnce (h : s.logs t) : s.raisesOnce t := by
  obtain ⟨log, hlog, h⟩ := h
  have hheld : s.vectorHeld → State.vectorHeld { s with log := log } := fun ⟨w, hw, hlt⟩ => ⟨w, hlog.trans hw, hlt⟩
  obtain rfl | rfl := h
  · exact ⟨fun hs => ⟨rfl, hheld hs⟩, .inl rfl⟩
  · exact ⟨fun hs => State.raiseLog_held (hheld hs), State.raiseLog_sends { s with log := log }⟩

theorem State.record_logs (s : State) (event : Nat) (code : Option Code) (inst : Nat) (detail : Int) (fw : Bool) :
    s.logs (s.record event code inst detail fw) := s.record_raises ..

theorem State.recordAt_logs (s : State) (time event : Nat) (code : Option Code) (inst : Nat) (detail : Int) (fw : Bool)
    (suppressed : Nat) : s.logs (s.recordAt time event code inst detail fw suppressed) := by
  unfold State.recordAt
  dsimp only
  split
  · exact ⟨s.log, rfl, .inl rfl⟩
  · split
    · refine ⟨_, ?_, .inl rfl⟩
      rfl
    · refine ⟨_, ?_, .inr rfl⟩
      rfl

theorem State.logs.of_limits (limits : List Limit) (h : State.logs { s with log := { s.log with limits := limits } } t) : s.logs t := h

theorem State.recordEvery_logs (s : State) (clock every : Nat) (perCode : Bool) (event : Nat) (code : Option Code) (inst : Nat)
    (detail : Int) (fw : Bool) : s.logs (s.recordEvery clock every perCode event code inst detail fw) := by
  unfold State.recordEvery
  dsimp only
  split
  · refine ⟨_, ?_, .inl rfl⟩
    rfl
  · exact .of_limits _ (State.recordAt_logs ..)

/-! ### A record among the newest (R437, R439) -/

/-- One of the `n` newest records of the log is of an event, with a code, unless it may have been dropped or there is no log. -/
def State.recent (s : State) (n event : Nat) (code : Option Code) : Prop :=
  logQueue ≤ s.logWaiting ∨ s.reg 0x6400_02 3 ≠ 2 ∨ ∃ r ∈ s.log.recs.take n, r.event = event ∧ r.code = code

theorem State.newest.recent (h : s.newest event code) : s.recent 1 event code := by
  rcases h with h | h | ⟨r, hr, hmatch⟩
  · exact .inl h
  · exact .inr (.inl h)
  · obtain ⟨rs, hrs⟩ := List.head?_eq_some_iff.mp hr
    exact .inr (.inr ⟨r, by simp [hrs], hmatch⟩)

theorem State.recent.logged (h : s.recent n event code) : s.logged event code := by
  rcases h with h | h | ⟨r, hr, hmatch⟩
  · exact .inl h
  · exact .inr (.inl h)
  · exact .inr (.inr ⟨r, List.mem_of_mem_take hr, hmatch⟩)

theorem State.recent.mono (h : s.recent n event code) (hle : n ≤ m) : s.recent m event code := by
  rcases h with h | h | ⟨r, hr, hmatch⟩
  · exact .inl h
  · exact .inr (.inl h)
  · exact .inr (.inr ⟨r, List.take_subset_take_left _ hle hr, hmatch⟩)

/-- A further record moves the others back by one place. -/
theorem State.recent.record (h : s.recent n event code) (hn : n + 1 ≤ logSize) (event' : Nat) (code' : Option Code) (inst : Nat)
    (detail : Int) (fw : Bool) : (s.record event' code' inst detail fw).recent (n + 1) event code := by
  by_cases hon : s.reg 0x6400_02 3 = 2
  · have hon' : ¬ (s.reg 0x6400_02 3 != 2) = true := by simp [hon]
    rw [State.record, State.recordAt, if_neg hon']
    by_cases hfull : logQueue ≤ s.logWaiting
    · rw [if_pos hfull]
      exact .inl hfull
    · obtain ⟨r, hr, hmatch⟩ := (h.resolve_left hfull).resolve_left (absurd hon)
      rw [if_neg hfull]
      refine .inr (.inr ⟨r, ?_, hmatch⟩)
      rw [State.raiseLog_recs, List.take_take, Nat.min_eq_left hn, List.take_succ_cons]
      exact List.mem_cons_of_mem _ hr
  · exact .inr (.inl (by rwa [State.record_reg]))

/-! ### What serving a fault writes (R334-R336) -/

/-- What serving a fault leaves: at most `n` records more, marks of the outputs but for the frame that they send, the recovery,
and, where the pair's state is 2, a yield to the partner. -/
structure State.Serves (n : Nat) (s t : State) : Prop where
  frame : ∃ log sent outputs recover pair smith,
    t = { s with log := log, sent := sent, outputs := outputs, recover := recover, pair := pair, smith := smith }
  cur : ∀ o, (t.output o).cur = (s.output o).cur
  recent : ∀ {k event code}, k + n ≤ logSize → s.recent k event code → t.recent (k + n) event code
  raises : s.reg 0x5800_03 ≠ 2 → s.raisesOnce t

theorem State.Serves.refl (s : State) : State.Serves 0 s s :=
  ⟨⟨_, _, _, _, _, _, rfl⟩, fun _ => rfl, fun _ h => h, fun _ => s.raisesOnce_refl⟩

theorem State.Serves.reg (h : State.Serves n s t) (key inst : Nat) : t.reg key inst = s.reg key inst := by
  obtain ⟨_, _, _, _, _, _, rfl⟩ := h.frame
  rfl

theorem State.Serves.trans (h : State.Serves n s t) (h' : State.Serves m t u) : State.Serves (n + m) s u where
  frame := by
    obtain ⟨_, _, _, _, _, _, rfl⟩ := h.frame
    exact h'.frame
  cur o := (h'.cur o).trans (h.cur o)
  recent hk hs := by
    rw [← Nat.add_assoc] at hk ⊢
    exact h'.recent hk (h.recent (by omega) hs)
  raises hs := (h.raises hs).trans (h'.raises (by rwa [h.reg]))

theorem State.Serves.mono (h : State.Serves n s t) (hle : n ≤ m) : State.Serves m s t where
  frame := h.frame
  cur := h.cur
  recent hk hs := (h.recent (by omega) hs).mono (by omega)
  raises := h.raises

/-- An update of the recovery or of the placement engine alone serves without a record. -/
theorem State.serves_setRecover (s : State) (recover : Recover) (smith : Smith) :
    State.Serves 0 s { s with recover := recover, smith := smith } :=
  ⟨⟨_, _, _, _, _, _, rfl⟩, fun _ => rfl, fun _ h => h, fun _ => s.raisesOnce_refl⟩

theorem State.serves_record (s : State) (event : Nat) (code : Option Code) (inst : Nat) (detail : Int) :
    State.Serves 1 s (s.record event code inst detail) where
  frame := by
    obtain ⟨_, _, h⟩ := s.record_frame event code inst detail false
    exact ⟨_, _, _, _, _, _, h⟩
  cur o := by
    obtain ⟨_, _, h⟩ := s.record_frame event code inst detail false
    rw [h]
    rfl
  recent hk hs := hs.record hk ..
  raises _ := (s.record_logs ..).raisesOnce

/-- A mark of an output leaves the frame in progress of every output. -/
theorem State.serves_setOutput {o : Nat} {x : Output} (hx : x.cur = (s.output o).cur) : State.Serves 0 s (s.setOutput o x) where
  frame := ⟨_, _, _, _, _, _, rfl⟩
  cur i := by
    by_cases hi : i = o
    · rw [hi, State.output_setOutput_same, hx]
    · rw [State.output, State.setOutput, Tbl.get_put_ne _ _ _ hi, State.output]
  recent _ hs := hs
  raises _ := s.raisesOnce_refl

theorem State.serves_foldl {f : State → Nat → State} (hf : ∀ u o, State.Serves n u (f u o)) (os : List Nat) (s : State) :
    State.Serves (n * os.length) s (os.foldl f s) := by
  induction os generalizing s with
  | nil => exact .refl s
  | cons o os ih => exact ((hf s o).trans (ih (f s o))).mono (by rw [List.length_cons, Nat.mul_succ]; omega)

theorem State.serves_strikeOutputs (s : State) (v : Nat) (os : List Nat) :
    State.Serves os.length s (s.strikeOutputs v os) := by
  refine (State.serves_foldl (n := 1) (fun u o => ?_) os s).mono (by omega)
  dsimp only
  refine ((State.serves_setOutput ?_).trans (State.serves_record ..)).mono (Nat.le_refl 1)
  split <;> rfl

/-- A fault escalates where the pair's state is 2 alone (R336). -/
theorem State.serves_escalate (s : State) (bit : Nat) : State.Serves 1 s (s.escalate bit) := by
  unfold State.escalate
  split
  · next hpair =>
    have hstate : s.reg 0x5800_03 = 2 := by simp_all
    unfold State.yieldPair
    split
    · exact (State.Serves.refl s).mono (by decide)
    · have hyields : State.Serves 0 s
          (State.send { s with pair := { s.pair with yielded := true } } (.bellows (bellowsFrame 4 0 s.imageGen 0 []))) :=
        ⟨⟨_, _, _, _, _, _, rfl⟩, fun _ => rfl, fun _ h => h, fun h => absurd hstate h⟩
      exact (hyields.trans (State.serves_record ..)).mono (Nat.le_refl 1)
  · exact (State.Serves.refl s).mono (by decide)

theorem State.serves_strike (s : State) (os : List Nat) : State.Serves (os.length + 1) s (s.strike os) :=
  (s.serves_strikeOutputs 0x05 os).trans (State.serves_escalate ..)

theorem State.serves_strikeRunning (s : State) (os : List Nat) : State.Serves (os.length + 1) s (s.strikeRunning os) := by
  unfold State.strikeRunning
  cases s.recover.subst with
  | none => exact (State.Serves.refl s).mono (Nat.zero_le _)
  | some x =>
    dsimp only
    split
    · exact (State.Serves.refl s).mono (Nat.zero_le _)
    · exact (State.serves_strike s _).mono (Nat.succ_le_succ (List.length_filter_le ..))

theorem State.serves_queueRecovery (s : State) (r : Recovery) (os : List Nat) :
    State.Serves (os.length + 2) s (s.queueRecovery r os) := by
  unfold State.queueRecovery
  split
  · refine State.Serves.trans (n := os.length + 1) ?_ (State.serves_escalate ..)
    split
    · exact (State.serves_record ..).mono (by omega)
    · exact (s.serves_strikeOutputs 0x06 os).mono (by omega)
  · exact (s.serves_setRecover _ s.smith).mono (by omega)

theorem State.serves_triggerReplan (s : State) (cause : Cause) (os : List Nat) :
    State.Serves (os.length + 2) s (s.triggerReplan cause os) := by
  unfold State.triggerReplan
  split
  · exact s.serves_queueRecovery _ os
  · exact (State.Serves.refl s).mono (by omega)

end

end Sys2Proof.Machine
end

section
/-! PROOFS. Underruns and failed engines (R161-R163, R174, R175): a layer is taken off its frame, a failed engine is contained and
served, and its reserve takes its tables. -/

namespace Sys2Proof

/-- A filter that keeps all values of a place leaves what is found there. -/
theorem Tbl.find_filter {α : Type} {P : Nat × α → Bool} {k : Nat} (h : ∀ v, P (k, v) = true) (t : Tbl α) :
    Tbl.find (t.filter P) k = Tbl.find t k := by
  induction t with
  | nil => rfl
  | cons p t ih =>
    obtain ⟨j, v⟩ := p
    by_cases hj : j = k
    · rw [List.filter_cons_of_pos (hj ▸ h v), Tbl.find, Tbl.find, if_pos hj, if_pos hj]
    · rw [Tbl.find, if_neg hj, ← ih, List.filter_cons]
      split
      · rw [Tbl.find, if_neg hj]
      · rfl

namespace Machine

section
variable {s t : State}

/-! ### What is read after a change of other registers -/

theorem State.regsBut.reg {ks : List Nat} (h : s.regsBut t ks) (hsrc : t.sources = s.sources) {key inst : Nat}
    (hk : regKey key inst ∉ ks) : t.reg key inst = s.reg key inst := by
  unfold State.reg State.frozenDefault
  rw [h _ hk, hsrc]

theorem State.regsBut.trans {u : State} {ks : List Nat} (h : s.regsBut t ks) (h' : t.regsBut u ks) : s.regsBut u ks :=
  fun k hk => (h' k hk).trans (h k hk)

theorem State.regsBut.mono {ks ks' : List Nat} (h : s.regsBut t ks) (hks : ks ⊆ ks') : s.regsBut t ks' :=
  fun k hk => h k fun hmem => hk (hks hmem)

/-- The newest record rests on the log, the time and the Fabric domain alone. -/
theorem State.newest_congr {event : Nat} {code : Option Code} (h : s.newest event code) (hlog : t.log = s.log)
    (htime : t.time = s.time) (hreg : t.reg 0x6400_02 3 = s.reg 0x6400_02 3) : t.newest event code := by
  unfold State.newest State.logWaiting State.now at *
  rwa [hlog, htime, hreg]

/-! ### A layer underruns (R161-R163) -/

theorem State.fetching_spec {e l o : Nat} {d : Draw} (h : s.fetching e l = some (o, d)) : o < 32 ∧ d.engine = e ∧ d.layer = l := by
  obtain ⟨i, hi, hd⟩ := List.exists_of_findSome?_eq_some h
  have hrange := List.mem_range.mp (List.mem_of_mem_filter hi)
  dsimp only at hd
  split at hd
  · exact nomatch hd
  · obtain ⟨d', hd', heq⟩ := Option.map_eq_some_iff.mp hd
    obtain ⟨rfl, rfl⟩ := Prod.mk.inj heq
    have hmatch := List.find?_some hd'
    simp only [Bool.and_eq_true, beq_iff_eq] at hmatch
    exact ⟨hrange, hmatch.1.1.1, hmatch.1.1.2⟩

theorem exec_layerUnderrun {e : Fin 18} {l : Fin 24} {o : Nat} {d : Draw} (hl : s.live = true)
    (hf : s.fetching e l = some (o, d)) (x y : Nat) :
    exec (.layerUnderrun e l x y) s = .next (s.underrun o d x y) := by
  simp only [exec, execLayerUnderrun, whenLive_next hl, hf]

/-- A layer that is switched off is drawn no further in the frame in progress, as one that has underrun. -/
theorem State.switchOff_draws (s : State) (o : Nat) (d : Draw) (x y : Nat) :
    ∀ k ∈ ((s.switchOff o d x y true).output o).cur.draws, k.engine = d.engine → k.layer = d.layer →
      k.off = some (x, y) ∧ k.underran = true := by
  intro k hk he hl
  rw [State.switchOff, State.output_setOutput_same] at hk
  obtain ⟨k', -, rfl⟩ := List.mem_map.mp hk
  split at he
  · rw [if_pos ‹_›]
    exact ⟨rfl, rfl⟩
  · next hother =>
    rw [if_neg hother] at hl
    exact absurd (by simp [he, hl]) hother

/-- An event of an output writes its latch and its count (R158). -/
theorem State.outputEvent_frame (s : State) (o bit : Nat) :
    (∃ sent regs, s.outputEvent o bit = { s with sent := sent, regs := regs }) ∧
      s.regsBut (s.outputEvent o bit) [regKey 0x3410_01 o, regKey (0x3410_02 + bit) o] := by
  have hcount : s.regsBut (s.bump (0x3410_02 + bit) o) [regKey 0x3410_01 o, regKey (0x3410_02 + bit) o] :=
    State.regsBut_put (s.regsBut_refl _) rfl (by simp)
  unfold State.outputEvent
  dsimp only
  split
  · exact ⟨⟨_, _, rfl⟩, State.regsBut_put hcount rfl (by simp)⟩
  · exact ⟨⟨_, _, rfl⟩, hcount⟩

/-- An underrun of a layer, counted and recorded, with its output's event once a frame (R158, R161). -/
def State.countUnderrun (s : State) (o : Nat) (d : Draw) (of : Nat) : State :=
  let s1 := (s.bump 0x3418_02 (d.engine * 24 + d.layer)).record 0x070 (some (so 0x01)) (d.engine * 256 + d.layer) (shownFrame of)
  if (s1.output o).underrun then s1 else (s1.setOutput o { s1.output o with underrun := true }).outputEvent o 3

theorem State.noteUnderrun_eq (s : State) (o : Nat) (d : Draw) (of : Nat) :
    s.noteUnderrun o d of =
      if (s.countUnderrun o d of).reg 0x3418_03 (d.engine * 24 + d.layer) + 1 < 3 then
        (s.countUnderrun o d of).setReg 0x3418_03 (d.engine * 24 + d.layer)
          ((s.countUnderrun o d of).reg 0x3418_03 (d.engine * 24 + d.layer) + 1)
      else ((s.countUnderrun o d of).setReg 0x3418_03 (d.engine * 24 + d.layer) 0).thirdUnderrun o (d.engine * 256 + d.layer) of d :=
  rfl

/-- What an underrun that is counted leaves, of a layer `i` and its output `o`. -/
structure State.Underruns (s t : State) (o i : Nat) : Prop where
  frame : ∃ log sent regs outputs, t = { s with log := log, sent := sent, regs := regs, outputs := outputs }
  counted : t.reg 0x3418_02 i = satAdd (entryBits 0x3418_02) (s.reg 0x3418_02 i) 1
  regs : s.regsBut t [regKey 0x3410_01 o, regKey 0x3410_05 o, regKey 0x3418_02 i, regKey 0x3418_03 i]
  newest : t.newest 0x070 (some (so 0x01))
  cur : (t.output o).cur = (s.output o).cur

section
variable {o i : Nat}

/-- The number of underruns in a row is written beside. -/
theorem State.Underruns.setRow (h : s.Underruns t o i) (hi : i < 65536) (n : Nat) :
    s.Underruns (t.setReg 0x3418_03 i n) o i where
  frame := by
    obtain ⟨_, _, _, _, rfl⟩ := h.frame
    exact ⟨_, _, _, _, rfl⟩
  counted := (State.reg_setReg_key t n (by decide) hi hi).trans h.counted
  regs := State.regsBut_put h.regs rfl (by simp)
  newest := State.newest_congr h.newest rfl rfl (State.reg_setReg_key t n (by decide) hi (by decide))
  cur := h.cur

/-- Counting and recording an underrun leaves the number of them in a row. -/
theorem State.Underruns.ofRecord (s : State) (hi : i < 65536) (inst : Nat) (detail : Int) :
    s.Underruns ((s.bump 0x3418_02 i).record 0x070 (some (so 0x01)) inst detail) o i ∧
      ((s.bump 0x3418_02 i).record 0x070 (some (so 0x01)) inst detail).reg 0x3418_03 i = s.reg 0x3418_03 i := by
  have hnewest := (s.bump 0x3418_02 i).record_newest 0x070 (some (so 0x01)) inst detail false
  obtain ⟨log, sent, hrecord⟩ := (s.bump 0x3418_02 i).record_frame 0x070 (some (so 0x01)) inst detail false
  rw [hrecord] at hnewest ⊢
  exact ⟨⟨⟨_, _, _, _, rfl⟩, State.reg_setReg_same .., State.regsBut_put (s.regsBut_refl _) rfl (by simp), hnewest, rfl⟩,
    State.reg_setReg_key s _ (by decide) hi hi⟩

/-- The output's event leaves what was counted, and the number in a row. -/
theorem State.Underruns.outputEvent (h : s.Underruns t o i) (ho : o < 65536) (hi : i < 65536) :
    s.Underruns ((t.setOutput o { t.output o with underrun := true }).outputEvent o 3) o i ∧
      ((t.setOutput o { t.output o with underrun := true }).outputEvent o 3).reg 0x3418_03 i = t.reg 0x3418_03 i := by
  obtain ⟨⟨sent, regs, hevent⟩, hregs⟩ := (t.setOutput o { t.output o with underrun := true }).outputEvent_frame o 3
  have hother : ∀ key inst, inst < 65536 → key ≠ 0x3410_01 → key ≠ 0x3410_05 →
      ((t.setOutput o { t.output o with underrun := true }).outputEvent o 3).reg key inst = t.reg key inst :=
    fun key inst hinst hlatch hcount => hregs.reg (by rw [hevent]) (by simp [regKey_inj, hinst, ho, hlatch, hcount])
  refine ⟨⟨?_, ?_, ?_, ?_, ?_⟩, hother _ _ hi (by decide) (by decide)⟩
  · obtain ⟨_, _, _, _, rfl⟩ := h.frame
    exact ⟨_, _, _, _, hevent⟩
  · exact (hother _ _ hi (by decide) (by decide)).trans h.counted
  · exact h.regs.trans (hregs.mono (by simp))
  · exact State.newest_congr h.newest (by rw [hevent]; rfl) (by rw [hevent]; rfl)
      (hother _ _ (by decide) (by decide) (by decide))
  · rw [hevent]
    exact (congrArg Output.cur (State.output_setOutput_same ..)).trans h.cur

end

theorem State.countUnderrun_underruns (s : State) {o : Nat} {d : Draw} (ho : o < 65536) (hi : d.engine * 24 + d.layer < 65536)
    (of : Nat) :
    s.Underruns (s.countUnderrun o d of) o (d.engine * 24 + d.layer) ∧
      (s.countUnderrun o d of).reg 0x3418_03 (d.engine * 24 + d.layer) = s.reg 0x3418_03 (d.engine * 24 + d.layer) := by
  obtain ⟨hcounts, hrow⟩ := State.Underruns.ofRecord (o := o) s hi (d.engine * 256 + d.layer) (shownFrame of)
  unfold State.countUnderrun
  dsimp only
  split
  · exact ⟨hcounts, hrow⟩
  · obtain ⟨hevent, hrow'⟩ := hcounts.outputEvent ho hi
    exact ⟨hevent, hrow'.trans hrow⟩

theorem State.serves_thirdUnderrun (s : State) (o inst of : Nat) (d : Draw) :
    State.Serves 5 s (s.thirdUnderrun o inst of d) := by
  unfold State.thirdUnderrun
  split
  · exact (State.serves_record ..).mono (by decide)
  · exact ((s.serves_setRecover s.recover _).trans ((State.serves_strikeRunning _ [o]).trans
      (State.serves_triggerReplan _ _ [o]))).mono (Nat.le_refl 5)

/-! ### A failed engine is contained (R174) -/

/-- The outputs that an engine serves, of those that run. -/
def State.servedRunning (s : State) (e : Nat) : List Nat := (s.outputsOf e).filter fun o => (s.output o).running

theorem State.servedRunning_length (s : State) (e : Nat) : (s.servedRunning e).length ≤ 2 :=
  (List.length_filter_le ..).trans (List.length_filter_le _ [s.streamOutput e 0, s.streamOutput e 1])

/-- An engine held in reset with a cause, and the resource epoch advanced (R174). -/
def State.heldInReset (s : State) (e cause : Nat) : State := ((s.setReg 0x3420_02 e 4).setReg 0x3420_04 e cause).advanceEpoch

/-- What the hardware makes of an engine's failure by itself (R28, R145, R174): the engine is held, its frames are filled, and a
writeback of it in progress is abandoned. -/
def State.contained (s : State) (e cause line : Nat) : State :=
  let t := (s.heldInReset e cause).fillFrames line (s.servedRunning e)
  let u := t.setEngine e { t.engine e with tested := false }
  if (u.engine e).wbIngot.isSome then u.abandonWriteback e else u

/-- What containing an engine's failure leaves. -/
structure State.Contains (s t : State) (e cause : Nat) : Prop where
  frame : ∃ log sent regs ingots slots outputs engines, t =
    { s with log := log, sent := sent, regs := regs, ingots := ingots, slots := slots, outputs := outputs, engines := engines }
  status : t.reg 0x3420_02 e = 4
  cause : t.reg 0x3420_04 e = cause
  regs : s.regsBut t [regKey 0x2400_0A 0, regKey 0x3420_02 e, regKey 0x3420_04 e, regKey 0x3080_0A e]
  raises : s.raisesOnce t
  noEngine : ∀ o, (t.output o).noEngine = (s.output o).noEngine

theorem State.fillFrames_fills (s : State) (line : Nat) (os : List Nat) :
    s.outputsOnly (s.fillFrames line os) ∧ ∀ o, ((s.fillFrames line os).output o).noEngine = (s.output o).noEngine := by
  refine List.foldlRecOn (motive := fun t => s.outputsOnly t ∧ ∀ o, (t.output o).noEngine = (s.output o).noEngine) os _
    ⟨⟨_, rfl⟩, fun _ => rfl⟩ ?_
  rintro t ⟨⟨outputs, rfl⟩, hnone⟩ a -
  refine ⟨⟨_, rfl⟩, fun o => ?_⟩
  by_cases ho : o = a
  · subst ho
    rw [State.output_setOutput_same, ← hnone]
    dsimp only
    split <;> rfl
  · rw [State.output, State.setOutput, Tbl.get_put_ne _ _ _ ho, ← hnone, State.output]

theorem State.toFree_frame (s : State) (i : Nat) : ∃ ingots slots, s.toFree i = { s with ingots := ingots, slots := slots } := by
  unfold State.toFree
  dsimp only
  split <;> exact ⟨_, _, rfl⟩

theorem State.abandon_frame (s : State) (i : Nat) : ∃ ingots slots, s.abandon i = { s with ingots := ingots, slots := slots } := by
  unfold State.abandon
  split
  · exact s.toFree_frame i
  · exact ⟨_, _, rfl⟩

/-- A writeback of engine `e`, which was `x`, is counted and recorded as abandoned (R145). -/
def State.countAbandoned (s : State) (e : Nat) (x : Engine) : State :=
  ((s.setEngine e { x with wbIngot := none }).bump 0x3080_0A e).recordEvery (x.wbOf.getD 0) 64 false 0x060 (some (an 0x04)) e
    (shownFrame (x.wbOf.getD 0) : Nat)

theorem State.countAbandoned_frame (s : State) (e : Nat) (x : Engine) :
    ∃ v log sent engines, s.countAbandoned e x = { s.setReg 0x3080_0A e v with log := log, sent := sent, engines := engines } ∧
      s.raisesOnce (s.countAbandoned e x) := by
  have hlogs := ((s.setEngine e { x with wbIngot := none }).bump 0x3080_0A e).recordEvery_logs (x.wbOf.getD 0) 64 false 0x060
    (some (an 0x04)) e (shownFrame (x.wbOf.getD 0) : Nat) false
  obtain ⟨log, sent, hrecord⟩ := hlogs.frame
  exact ⟨_, log, sent, _, hrecord, hlogs.raisesOnce⟩

theorem State.abandonWriteback_eq (s : State) (e : Nat) :
    s.abandonWriteback e = ((s.engine e).wbIngot.elim s s.abandon).countAbandoned e (s.engine e) := by
  unfold State.abandonWriteback
  dsimp only
  cases (s.engine e).wbIngot <;> rfl

/-- A writeback that is abandoned is counted and recorded, and its Ingot is free (R145). -/
theorem State.abandonWriteback_frame (s : State) (e : Nat) :
    ∃ v log sent ingots slots engines, s.abandonWriteback e = { s.setReg 0x3080_0A e v with
      log := log, sent := sent, ingots := ingots, slots := slots, engines := engines } ∧ s.raisesOnce (s.abandonWriteback e) := by
  have hfree : ∃ ingots slots, (s.engine e).wbIngot.elim s s.abandon = { s with ingots := ingots, slots := slots } := by
    cases (s.engine e).wbIngot with
    | none => exact ⟨_, _, rfl⟩
    | some i => exact s.abandon_frame i
  obtain ⟨ingots, slots, hfree⟩ := hfree
  rw [s.abandonWriteback_eq, hfree]
  obtain ⟨v, log, sent, engines, hframe, hraises⟩ :=
    State.countAbandoned_frame { s with ingots := ingots, slots := slots } e (s.engine e)
  exact ⟨v, log, sent, ingots, slots, engines, hframe, hraises⟩

theorem State.contained_contains (s : State) {e : Nat} (he : e < 65536) (cause line : Nat) :
    s.Contains (s.contained e cause line) e cause := by
  unfold State.contained
  obtain ⟨⟨outputs, hfill⟩, hnone⟩ := (s.heldInReset e cause).fillFrames_fills line (s.servedRunning e)
  rw [hfill] at hnone ⊢
  have hstatus : (s.heldInReset e cause).reg 0x3420_02 e = 4 := by
    rw [State.heldInReset, State.advanceEpoch, State.reg_setReg_key _ _ (by decide) (by decide) he,
      State.reg_setReg_key _ _ (by decide) he he, State.reg_setReg_same]
  have hcause : (s.heldInReset e cause).reg 0x3420_04 e = cause := by
    rw [State.heldInReset, State.advanceEpoch, State.reg_setReg_key _ _ (by decide) (by decide) he, State.reg_setReg_same]
  have hregs : s.regsBut (s.heldInReset e cause) [regKey 0x2400_0A 0, regKey 0x3420_02 e, regKey 0x3420_04 e, regKey 0x3080_0A e] :=
    State.regsBut_put (State.regsBut_put (State.regsBut_put (s.regsBut_refl _) (State.setReg_regs ..) (by simp))
      (State.setReg_regs ..) (by simp)) rfl (by simp)
  dsimp only
  split
  · generalize hu : State.setEngine _ e _ = u
    obtain ⟨v, log, sent, ingots, slots, engines, hframe, hraises⟩ := u.abandonWriteback_frame e
    rw [hframe] at hraises ⊢
    subst hu
    have hother : ∀ key, key ≠ 0x3080_0A →
        ((s.heldInReset e cause).setReg 0x3080_0A e v).reg key e = (s.heldInReset e cause).reg key e :=
      fun key hkey => State.reg_setReg_key _ v hkey he he
    exact ⟨⟨_, _, _, _, _, _, _, rfl⟩, (hother _ (by decide)).trans hstatus, (hother _ (by decide)).trans hcause,
      State.regsBut_put hregs rfl (by simp), hraises, hnone⟩
  · exact ⟨⟨_, _, _, _, _, _, _, rfl⟩, hstatus, hcause, hregs, s.raisesOnce_refl, hnone⟩

/-- An engine's failure leaves which reserve is free. -/
theorem State.Contains.freeReserve {e cause : Nat} (h : s.Contains t e cause) (he : e < 16) : t.freeReserve = s.freeReserve := by
  have hsrc : t.sources = s.sources := by
    obtain ⟨_, _, _, _, _, _, _, rfl⟩ := h.frame
    rfl
  have hstatus : ∀ r, 16 ≤ r → r < 18 → t.reg 0x3420_02 r = s.reg 0x3420_02 r := fun r hr hr' =>
    h.regs.reg hsrc (by simp [regKey]; omega)
  have hfault : ∀ d, d < 24 → t.inFault d = s.inFault d := fun d hd => by
    rw [State.inFault, h.regs.reg hsrc (by simp [regKey]; omega), State.inFault]
  simp [State.freeReserve, clusterDomain, List.find?_cons, hstatus, hfault]

/-! ### A failed engine is served (R174, R175, R334) -/

theorem exec_engineFailure {e : Fin 18} (hl : s.live = true) (hon : s.reg 0x3420_02 e = 1) (b : Bool) (line : Nat) :
    exec (.engineFailure e b line) s = .next (s.failEngine e (if b then 6 else 5) line) := by
  simp only [exec, execEngineFailure, whenLive_next hl, hon, OfNat.one_ne_ofNat, if_false]

section
variable {e : Nat} (he : e < 65536) (hon : s.reg 0x3420_02 e = 1) (hsubst : s.recover.subst = none) (cause line : Nat)
include he hon hsubst

/-- An engine that composed fails while no substitution runs: the firmware, where it runs, serves it. -/
theorem State.failEngine_eq :
    s.failEngine e cause line =
      if s.managed then (s.contained e cause line).serveFailed e (s.servedRunning e) false false
      else (s.contained e cause line).record 0x071 (some (so cause)) e 0xFF := by
  have hnone : (s.contained e cause line).recover.subst = none := by
    obtain ⟨_, _, _, _, _, _, _, h⟩ := (s.contained_contains he cause line).frame
    rw [h]
    exact hsubst
  unfold State.contained State.heldInReset State.servedRunning at *
  dsimp only at hnone
  simp only [State.failEngine, hon, hnone, hsubst]
  cases s.managed <;> rfl

end

section
variable {e : Nat} (he : e < 16) (os : List Nat)
include he

/-- The firmware chooses a reserve that is free, and records the cause. -/
theorem State.serveFailed_reserve {r : Nat} (hr : s.freeReserve = some r) :
    s.serveFailed e os false false = { s.record 0x071 (some (so (s.reg 0x3420_04 e))) e r with
      recover := { (s.record 0x071 (some (so (s.reg 0x3420_04 e))) e r).recover with
        subst := some { engine := e, reserve := r, since := (s.record 0x071 (some (so (s.reg 0x3420_04 e))) e r).now
                        armed := false, outs := os } } } := by
  simp only [State.serveFailed, Bool.false_eq_true, if_false, hr, if_neg (Nat.not_le.mpr he)]

theorem State.serveFailed_noReserve (hr : s.freeReserve = none) : s.serveFailed e os false false = s.noReserve e os false := by
  simp only [State.serveFailed, Bool.false_eq_true, if_false, hr, Bool.false_or, decide_eq_false (Nat.not_le.mpr he)]

end

/-- With no reserve free, what follows the record that says so (R175). -/
theorem State.serves_noReserve (s : State) (e : Nat) (os : List Nat) :
    State.Serves (os.length + 3) (s.record 0x071 (some (so 0x03)) e 0xFF) (s.noReserve e os false) := by
  have hmarks := State.serves_foldl (f := fun t o => t.setOutput o { t.output o with noEngine := true })
    (fun u o => State.serves_setOutput rfl) os (s.record 0x071 (some (so 0x03)) e 0xFF)
  exact ((hmarks.trans (State.serves_triggerReplan _ .resources os)).trans (State.serves_escalate _ 1)).mono (by omega)

/-! ### The reserve takes the tables (R174) -/

/-- Moving an engine's layers leaves every place that is not a layer's. -/
theorem moveLayers_find {α : Type} {a b k : Nat} (hb : b < 18) (hk : layerKey (k / 65536) = false) (t : Tbl α) :
    Tbl.find (moveLayers a b t) k = Tbl.find t k := by
  unfold moveLayers
  dsimp only
  rw [Tbl.find_foldl_put_ne, Tbl.find_filter (by simp [hk])]
  rintro p hp rfl
  obtain ⟨q, hq, rfl⟩ := List.mem_map.mp hp
  have hmine := List.of_mem_filter hq
  simp only [Bool.and_eq_true, beq_iff_eq] at hmine
  obtain ⟨hlayer, ha⟩ := hmine
  have hentry : (q.1 - 24 * a + 24 * b) / 65536 = q.1 / 65536 := by omega
  rw [hentry, hlayer] at hk
  exact nomatch hk

/-- While one of its outputs still runs, an armed substitution stands. -/
theorem State.leaveSubst_stays {x : Subst} (hsubst : s.recover.subst = some x) (harmed : x.armed = true)
    (hruns : ∃ o ∈ x.outs, (s.output o).running = true) :
    ∃ left, s.leaveSubst [] = { s with recover := { s.recover with subst := some { x with outs := left } } } := by
  obtain ⟨o, ho, hrun⟩ := hruns
  have hleft : (x.outs.filter fun o => !([] : List Nat).contains o && (s.output o).running).isEmpty = false := by
    rw [List.isEmpty_eq_false_iff]
    exact List.ne_nil_of_mem (List.mem_filter.mpr ⟨ho, hrun⟩)
  simp only [State.leaveSubst, hsubst, harmed, hleft]
  exact ⟨_, rfl⟩

/-- The state with engine `e`'s tables and outputs at a reserve that serves for it. -/
def State.replaced (s : State) (e r : Nat) : State := ((s.moveEngine e r).setReg 0x3420_02 r 3).setReg 0x3420_05 r e

theorem exec_engineSubstitutionArm {e : Fin 18} {x : Subst} (hm : s.managed = true) (hsubst : s.recover.subst = some x)
    (harmed : x.armed = false) (he : x.engine = e.val) (hlow : e.val < 16) (hr : s.reg 0x3420_02 x.reserve = 2) :
    exec (.engineSubstitutionArm e) s = .next (State.leaveSubst { s.replaced e x.reserve with
      recover := { s.recover with subst := some { x with armed := true } } } []) := by
  simp only [exec, execEngineSubstitutionArm, whenManaged_next hm, hsubst, harmed, he, hr, State.armReserve, hlow, if_true,
    bne_self_eq_false, Bool.or_self, Bool.false_eq_true, if_false]
  rfl

/-- Only layers are moved, and the engine's row with its reserve's written. -/
theorem State.replaced_find {e r k : Nat} (hr : r < 18) (hk : layerKey (k / 65536) = false) :
    (k ∉ [regKey 0x3420_02 r, regKey 0x3420_03 r, regKey 0x3420_05 r, regKey 0x3420_03 e] →
      Tbl.find (s.replaced e r).regs k = Tbl.find s.regs k) ∧
    Tbl.find (s.replaced e r).blobs k = Tbl.find s.blobs k := by
  refine ⟨fun hother => ?_, moveLayers_find hr hk s.blobs⟩
  simp only [List.mem_cons, List.not_mem_nil, or_false, not_or] at hother
  obtain ⟨hstatus, houts, hfor, hgone⟩ := hother
  simp only [State.replaced, State.moveEngine, State.setReg_regs]
  rw [Tbl.find_put_ne _ _ hfor, Tbl.find_put_ne _ _ hstatus, Tbl.find_put_ne _ _ hgone, Tbl.find_put_ne _ _ houts,
    moveLayers_find hr hk]

section
variable {e r : Nat} (he : e < 16) (hr : 16 ≤ r) (hr' : r < 18)
include he hr hr'

theorem State.replaced_regs :
    (s.replaced e r).reg 0x3420_02 r = 3 ∧ (s.replaced e r).reg 0x3420_05 r = e ∧
      (s.replaced e r).reg 0x3420_03 r = s.reg 0x3420_03 e ∧ (s.replaced e r).reg 0x3420_03 e = 0xFFFF := by
  have hlow : e < 65536 := by omega
  have hhigh : r < 65536 := by omega
  have hne : regKey 0x3420_03 r ≠ regKey 0x3420_03 e := by unfold regKey; omega
  have houts : ∀ i, i < 65536 → (s.replaced e r).reg 0x3420_03 i = (s.moveEngine e r).reg 0x3420_03 i := fun i hi => by
    rw [State.replaced, State.reg_setReg_key _ _ (by decide) hhigh hi, State.reg_setReg_key _ _ (by decide) hhigh hi]
  refine ⟨?_, State.reg_setReg_same .., ?_, ?_⟩
  · rw [State.replaced, State.reg_setReg_key _ _ (by decide) hhigh hhigh, State.reg_setReg_same]
  · rw [houts r hhigh, State.moveEngine, State.reg_setReg_ne _ _ hne, State.reg_setReg_same]
  · rw [houts e hlow, State.moveEngine, State.reg_setReg_same]

end

end

/-- Settles O19: an underrun is counted before its third in a row is served, a failure is contained before the firmware, where it
runs (R28, log entry 186), serves it, and what serves a fault writes no register; a substitution that is armed has moved the layers
and written the rows of the two engines alone (log entries 44, 113). That no reserve is free is recorded as SO-0x03 in place of the
cause (log entry 112). -/
theorem failedEnginesAreReplaced : Obligations.FailedEnginesAreReplaced := by
  refine ⟨?underrun, ?reserve, ?stopped, ?noReserve, ?armed⟩
  case underrun =>
    intro s e l x y o d hl hf
    have hexec := exec_layerUnderrun hl hf x y
    obtain ⟨ho, he, hlayer⟩ := State.fetching_spec hf
    have hdraws := s.switchOff_draws o d x y
    obtain ⟨hunderruns, hrow⟩ := (s.switchOff o d x y true).countUnderrun_underruns (o := o) (d := d) (by omega) (by omega)
      (s.output o).ofNow
    rw [State.underrun, State.noteUnderrun_eq, hrow, he, hlayer] at hexec
    rw [he, hlayer] at hdraws hunderruns
    generalize (s.switchOff o d x y true).countUnderrun o d (s.output o).ofNow = u at hexec hunderruns
    have hi : e.val * 24 + l.val < 65536 := by omega
    generalize e.val * 24 + l.val = i at *
    split at hexec
    · next hfew =>
      have hwritten := u.reg_setReg_same 0x3418_03 i ((s.switchOff o d x y true).reg 0x3418_03 i + 1)
      replace hunderruns := hunderruns.setRow hi ((s.switchOff o d x y true).reg 0x3418_03 i + 1)
      generalize u.setReg 0x3418_03 i _ = t at hexec hunderruns hwritten
      obtain ⟨⟨_, _, _, _, rfl⟩, hcounted, hregs, hnewest, hcur⟩ := hunderruns
      rw [← hcur] at hdraws
      exact ⟨_, hexec, hnewest.recent.logged, hcounted, hdraws, fun _ => ⟨hwritten, hregs, rfl, rfl⟩, rfl, rfl, rfl, rfl, rfl⟩
    · next hthird =>
      replace hunderruns := hunderruns.setRow hi 0
      generalize u.setReg 0x3418_03 i 0 = u at hexec hunderruns
      have hserves := u.serves_thirdUnderrun o (e.val * 256 + l.val) (s.output o).ofNow d
      have hlogged := (hserves.recent (by decide) hunderruns.newest.recent).logged
      have hcounted := (hserves.reg ..).trans hunderruns.counted
      rw [← hunderruns.cur, ← hserves.cur] at hdraws
      obtain ⟨_, _, _, _, _, _, hframe⟩ := hserves.frame
      obtain ⟨_, _, _, _, rfl⟩ := hunderruns.frame
      rw [hframe] at hexec hlogged hcounted hdraws
      exact ⟨_, hexec, hlogged, hcounted, hdraws, fun hfew => absurd hfew hthird, rfl, rfl, rfl, rfl, rfl⟩
  case reserve =>
    intro s e b line r hm he hon hsubst hr
    have hexec := exec_engineFailure (State.live_of_managed hm) hon b line
    have hcontains := s.contained_contains (e := e) (by omega) (if b then 6 else 5) line
    have hfree := (hcontains.freeReserve he).trans hr
    rw [State.failEngine_eq (by omega) hon hsubst, if_pos hm, State.serveFailed_reserve he _ hfree, hcontains.cause] at hexec
    generalize s.contained e (if b then 6 else 5) line = c at hexec hcontains
    have hnewest := c.record_newest 0x071 (some (so (if b then 6 else 5))) e r false
    have hraises := (c.record_logs 0x071 (some (so (if b then 6 else 5))) e r false).raisesOnce
    obtain ⟨log, sent, hrecord⟩ := c.record_frame 0x071 (some (so (if b then 6 else 5))) e r false
    rw [hrecord] at hexec hnewest hraises
    have hsends := (hcontains.raises.trans hraises).sendsLog
    obtain ⟨⟨_, _, _, _, _, _, _, rfl⟩, hstatus, hcause, hregs, -, -⟩ := hcontains
    exact ⟨_, hexec, hstatus, hcause, hnewest, ⟨_, rfl, rfl, rfl, rfl⟩, ⟨hregs, rfl, rfl⟩, hsends, rfl, rfl⟩
  case stopped =>
    intro s e b line hl hm hon hsubst
    have hexec := exec_engineFailure hl hon b line
    have hcontains := s.contained_contains (e := e) (by omega) (if b then 6 else 5) line
    rw [State.failEngine_eq (by omega) hon hsubst, hm, if_neg Bool.false_ne_true] at hexec
    generalize s.contained e (if b then 6 else 5) line = c at hexec hcontains
    have hraises := (c.record_logs 0x071 (some (so (if b then 6 else 5))) e 0xFF false).raisesOnce
    obtain ⟨log, sent, hrecord⟩ := c.record_frame 0x071 (some (so (if b then 6 else 5))) e 0xFF false
    rw [hrecord] at hexec hraises
    have hsends := (hcontains.raises.trans hraises).sendsLog
    obtain ⟨⟨_, _, _, _, _, _, _, rfl⟩, hstatus, hcause, hregs, -, hnone⟩ := hcontains
    exact ⟨_, hexec, hstatus, hcause, rfl, hnone, ⟨hregs, rfl, rfl⟩, hsends, rfl, rfl⟩
  case noReserve =>
    intro s e b line hm he hon hsubst hr
    have hexec := exec_engineFailure (State.live_of_managed hm) hon b line
    have hcontains := s.contained_contains (e := e) (by omega) (if b then 6 else 5) line
    have hfree := (hcontains.freeReserve he).trans hr
    rw [State.failEngine_eq (by omega) hon hsubst, if_pos hm, State.serveFailed_noReserve he _ hfree] at hexec
    generalize s.contained e (if b then 6 else 5) line = c at hexec hcontains
    have hserves := c.serves_noReserve e (s.servedRunning e)
    have hcount := s.servedRunning_length e
    have hlogged := (hserves.recent (by unfold logSize; omega) (c.record_newest ..).recent).logged
    have hraises := hserves.raises
    obtain ⟨_, _, _, _, _, _, hframe⟩ := hserves.frame
    have hrecord := c.record_logs 0x071 (some (so 0x03)) e 0xFF false
    have hsends : c.reg 0x5800_03 ≠ 2 → s.sendsLog (c.noReserve e (s.servedRunning e) false) := fun hpair =>
      ((hcontains.raises.trans hrecord.raisesOnce).trans (hraises (by rwa [State.record_reg]))).sendsLog
    obtain ⟨_, _, hrecord⟩ := hrecord.frame
    rw [hrecord] at hframe
    rw [hframe] at hexec hlogged hsends
    obtain ⟨⟨_, _, _, _, _, _, _, rfl⟩, hstatus, hcause, hregs, -, -⟩ := hcontains
    have hpair := hregs.reg rfl (key := 0x5800_03) (inst := 0) (by simp [regKey]; omega)
    exact ⟨_, hexec, hstatus, hcause, hlogged, fun hne => ⟨⟨hregs, rfl, rfl⟩, hsends (by rwa [hpair])⟩, rfl, rfl⟩
  case armed =>
    intro s e x hm hsubst harmed he hlow hr hlo hhi hruns
    have hexec := exec_engineSubstitutionArm hm hsubst harmed he hlow hr
    obtain ⟨left, hstays⟩ := State.leaveSubst_stays (s := { s.replaced e x.reserve with
      recover := { s.recover with subst := some { x with armed := true } } }) rfl rfl hruns
    rw [hstays] at hexec
    obtain ⟨hstatus, hfor, houts, hgone⟩ := s.replaced_regs hlow hlo hhi
    exact ⟨_, hexec, hstatus, hfor, houts, hgone, ⟨_, rfl, rfl⟩, fun k hk => (s.replaced_find hhi hk).1,
      fun k hk => (s.replaced_find hhi hk).2, rfl, rfl, rfl, rfl, rfl⟩

end Machine
end Sys2Proof
end

section
/-! PROOFS. The control bus, Temper tables and sensor profiles (R194, R203, R208): a host transfer from its request to its end, and
the two BLOBs that go to the shadow. -/

namespace Sys2Proof.Machine

section
variable {s : State} {ss p i : Nat} {b q : Bytes} {x : BusXfer}

/-! ### What a request's arrival leaves -/

@[simp] theorem State.touched_portContexts (s : State) (ss p : Nat) : (s.touched ss).portContexts p = s.portContexts p := by
  simp only [State.portContexts, State.flag, State.touched_reg]

@[simp] theorem State.touched_profile (s : State) (ss : Nat) : (s.touched ss).profile = s.profile := by
  funext c
  simp only [State.profile, State.blob, State.touched_blobs]

@[simp] theorem State.touched_portProfile (s : State) (ss p : Nat) : (s.touched ss).portProfile p = s.portProfile p := by
  simp only [State.portProfile, State.touched_portContexts, State.touched_profile]

/-! ### The end of a host transfer (R208) -/

/-- A host transfer's end takes it off the bus, shows its result in L:3800.0C, and changes no other register. -/
theorem State.endHost_ends (s : State) (p result : Nat) :
    ((s.endHost p result).camPort p).xfer = none ∧ (s.endHost p result).reg 0x3800_0C p = result ∧
      s.regsBut (s.endHost p result) [regKey 0x3800_0C p] := by
  refine ⟨?_, State.reg_setReg_same .., State.regsBut_put (s.regsBut_refl _) rfl (List.mem_singleton.mpr rfl)⟩
  show ((s.setCamPort p { s.camPort p with xfer := none }).camPort p).xfer = none
  rw [State.camPort_setCamPort_same]

/-! ### A host transfer's commands (R208) -/

/-- The transfer that a request's bytes ask for, of a port whose profile is `q`. -/
def requestedTransfer (b q : Bytes) (now : Nat) : BusXfer where
  write := b.drop 4
  read := if field b 0 1 = 1 then field b 2 1 else 0
  address := field q 6 1
  since := now

/-- The state once a host transfer waits for a port's bus. -/
def State.withHostTransfer (s : State) (p : Nat) (b q : Bytes) : State :=
  (s.setCamPort p { s.camPort p with xfer := some (requestedTransfer b q s.now) }).setReg 0x3800_0C p 1

theorem hostTransferOp_accepts (hq : s.portProfile p = some q) (hon : s.flag 0x3800_02 p = true) (hok : hostTransferOk b = true)
    (hx : (s.camPort p).xfer = none) : hostTransferOp s ss p (.bytes b) = (s.withHostTransfer p b q, .ok) := by
  simp only [hostTransferOp, hq, Val.b, hon, hok, hx, Bool.not_true, Option.isSome_none, Bool.or_false, Bool.false_eq_true, if_false]
  rfl

theorem exec_hostTransfer_waits (hm : s.managed = true) (hw : s.mayWrite ss 0x3800_0B (.bytes b) = true)
    (hq : s.portProfile (s.partOf ss 0x3800_0B) = some q) (hon : s.flag 0x3800_02 (s.partOf ss 0x3800_0B) = true)
    (hok : hostTransferOk b = true) (hx : (s.camPort (s.partOf ss 0x3800_0B)).xfer = none) :
    exec (.hostTransfer ss b) s = .next (((s.touched ss).withHostTransfer (s.partOf ss 0x3800_0B) b q).reply ss .ok) := by
  refine ledgerWrite_next hm hw (hostTransferOp_accepts ?_ ?_ hok ?_) rfl
  · rwa [State.touched_portProfile]
  · rwa [State.flag, State.touched_reg]
  · rwa [State.camPort, State.touched_camPorts]

theorem exec_hostTransferStart {p : Fin 16} (hm : s.managed = true) (hx : (s.camPort p).xfer = some x) (hwait : x.started = false)
    (hmay : s.hostMayStart p x = true) :
    exec (.hostTransferStart p) s =
      .next ((s.setCamPort p { s.camPort p with xfer := some { x with started := true } }).send
        (.i2c p x.address x.write x.read)) := by
  simp only [exec, execHostTransferStart, whenManaged_next hm, hx, hwait, hmay, Bool.not_false, Bool.and_self, if_true]

theorem exec_hostTransferDone_data {p : Fin 16} (hm : s.managed = true) (hx : (s.camPort p).xfer = some x) (hrun : x.started = true)
    (d : Bytes) : exec (.hostTransferDone p true d) s = .next ((s.setBlob 0x3800_0D p (d.take x.read)).endHost p 2) := by
  simp only [exec, execHostTransferDone, whenManaged_next hm, hx, hrun, Bool.not_true, Bool.false_eq_true, if_false, if_true]

theorem exec_hostTransferDone_noAck {p : Fin 16} (hm : s.managed = true) (hx : (s.camPort p).xfer = some x)
    (hrun : x.started = true) (d : Bytes) : exec (.hostTransferDone p false d) s = .next (s.endHost p 3) := by
  simp only [exec, execHostTransferDone, whenManaged_next hm, hx, hrun, Bool.not_true, Bool.false_eq_true, if_false]

theorem exec_hostTransferTimeout {p : Fin 16} (hm : s.managed = true) (hx : (s.camPort p).xfer = some x) (hwait : x.started = false)
    (hdue : x.since + second ≤ s.now) : exec (.hostTransferTimeout p) s = .next (s.endHost p 4) := by
  simp only [exec, execHostTransferTimeout, whenManaged_next hm, hx, hwait, hdue, Bool.not_false, decide_true, Bool.and_self, if_true]

/-! ### What goes to the shadow (R194, R203) -/

/-- The state once a session's value has gone to the shadow, with its response. -/
def State.shadowed (s : State) (ss key i : Nat) (v : Val) : State := ((s.touched ss).setShadow key i v).reply ss .ok

/-- No other shadow value changes, and nothing else of the ledger file. -/
theorem State.shadowed_frame (s : State) (ss key i : Nat) (v : Val) :
    (s.shadowed ss key i v).shadowVal key i = v ∧
      (∀ k, k ≠ regKey key i → Tbl.find (s.shadowed ss key i v).shadow k = Tbl.find s.shadow k) ∧
      (s.shadowed ss key i v).regs = s.regs ∧ (s.shadowed ss key i v).blobs = s.blobs ∧
      (s.shadowed ss key i v).sent = .reply ss {} :: s.sent ∧ (s.shadowed ss key i v).log = s.log ∧
      (s.shadowed ss key i v).cells = s.cells ∧ (s.shadowed ss key i v).still = s.still := by
  obtain ⟨acc, hacc⟩ := s.touched_eq ss
  unfold State.shadowed
  rw [hacc]
  exact ⟨State.shadowVal_setShadow_same .., fun k hk => Tbl.find_put_ne _ _ hk, rfl, rfl, rfl, rfl, rfl, rfl⟩

theorem temperOp_accepts (hform : temperFormed (i % 8) b = true)
    (hrange : temperInRange (i % 8) (s.reg 0x3840_06 (i / 8)) (s.reg 0x3840_07 (i / 8)) b = true) :
    temperOp s ss i (.bytes b) = (s.setShadow 0x3870_02 i (.bytes b), .ok) := by
  simp only [temperOp, Val.b, hform, hrange, Bool.not_true, Bool.false_eq_true, if_false]

theorem profileOp_accepts (hok : profileOk b = true) : profileOp s ss i (.bytes b) = (s.setShadow 0x3840_0D i (.bytes b), .ok) :=
  if_pos hok

end

/-- Settles O30: each command's next state is written out, and the end of a transfer, or the write of a shadow value, gives the
rest. -/
theorem controlBusTransfersRun : Obligations.ControlBusTransfersRun := by
  unfold Obligations.ControlBusTransfersRun
  refine ⟨?request, ?start, ?data, ?noAck, ?timeout, ?temper, ?profile⟩
  case request =>
    rintro s ss p b q hm hw rfl hq hon hok hx
    have hexec := exec_hostTransfer_waits hm hw hq hon hok hx
    obtain ⟨acc, hacc⟩ := s.touched_eq ss
    rw [hacc] at hexec
    refine ⟨_, requestedTransfer b q s.now, hexec, ?_, rfl, rfl, rfl, State.reg_setReg_same .., ⟨?_, rfl, rfl⟩, rfl, rfl, rfl, rfl⟩
    · exact congrArg CamPort.xfer (State.camPort_setCamPort_same ..)
    · exact State.regsBut_put (s.regsBut_refl _) rfl (List.mem_singleton.mpr rfl)
  case start =>
    intro s p x hm hx hwait hmay
    refine ⟨_, exec_hostTransferStart hm hx hwait hmay, ?_, rfl, rfl, rfl, rfl, rfl, rfl, rfl⟩
    exact congrArg CamPort.xfer (State.camPort_setCamPort_same ..)
  case data =>
    intro s p x d hm hx hrun
    obtain ⟨hfree, hresult, hregs⟩ := (s.setBlob 0x3800_0D p (d.take x.read)).endHost_ends p 2
    refine ⟨_, exec_hostTransferDone_data hm hx hrun d, hfree, hresult, State.blob_setBlob_same s .., hregs, ?_, rfl, rfl, rfl, rfl,
      rfl⟩
    exact State.blobsBut_put (s.blobsBut_refl _) rfl (List.mem_singleton.mpr rfl)
  case noAck =>
    intro s p x d hm hx hrun
    obtain ⟨hfree, hresult, hregs⟩ := s.endHost_ends p 3
    exact ⟨_, exec_hostTransferDone_noAck hm hx hrun d, hfree, hresult, ⟨hregs, rfl, rfl⟩, rfl, rfl, rfl, rfl⟩
  case timeout =>
    intro s p x hm hx hwait hdue
    obtain ⟨hfree, hresult, hregs⟩ := s.endHost_ends p 4
    exact ⟨_, exec_hostTransferTimeout hm hx hwait hdue, hfree, hresult, ⟨hregs, rfl, rfl⟩, rfl, rfl, rfl, rfl⟩
  case temper =>
    rintro s ss i b hm hw rfl hform hrange
    exact ⟨s.shadowed ss 0x3870_02 (s.partOf ss 0x3870_02) (.bytes b),
      ledgerWrite_next hm hw (temperOp_accepts hform (by simpa using hrange)) rfl, s.shadowed_frame ..⟩
  case profile =>
    rintro s ss i b hm hw rfl hok
    exact ⟨s.shadowed ss 0x3840_0D (s.partOf ss 0x3840_0D) (.bytes b), ledgerWrite_next hm hw (profileOp_accepts hok) rfl,
      s.shadowed_frame ..⟩

end Sys2Proof.Machine
end

section
/-! PROOFS. Exposure and its generations (R204-R207): what the loops write of a context, and how a transfer that ends or fails
leaves the generations in effect. -/

namespace Sys2Proof.Machine

section
variable {s t u : State} {c : Nat} {x : ExpXfer}

/-! ### Free values and what is sent -/

/-- A state differs from another in the free values drawn alone. -/
def State.draws (s t : State) : Prop := ∃ fresh, t = { s with fresh := fresh }

theorem State.draws.trans (h : s.draws t) (h' : t.draws u) : s.draws u := by
  obtain ⟨_, rfl⟩ := h
  obtain ⟨fresh, rfl⟩ := h'
  exact ⟨fresh, rfl⟩

theorem State.roundFree_draws (s : State) (a b : Nat) : s.draws (s.roundFree a b).2 := by
  unfold State.roundFree
  split
  · exact ⟨s.fresh, rfl⟩
  · split
    · exact ⟨s.fresh, rfl⟩
    · exact ⟨s.fresh + 1, rfl⟩

/-- Things sent one after another change what is sent alone, even where each looks at the state. -/
theorem State.foldl_send_frame {α : Type} (f : State → α → Sent) (xs : List α) (s : State) :
    ∃ sent, xs.foldl (fun t a => t.send (f t a)) s = { s with sent := sent } := by
  induction xs generalizing s with
  | nil => exact ⟨s.sent, rfl⟩
  | cons a xs ih => exact ih (s.send (f s a))

/-! ### Generations issued and transferred (R204, R205) -/

/-- A transfer that starts, or is put off, changes of its context no more than the transfer that runs and those that wait. -/
theorem State.startExposure_frame (s : State) (c : Nat) :
    ∃ log sent ctxs transfer deferred, s.startExposure c = { s with log := log, sent := sent, ctxs := ctxs } ∧
      Tbl.get {} ctxs c = { s.ctx c with transfer := transfer, deferred := deferred } := by
  have hsame : ∀ log sent, ∃ log' sent' ctxs transfer deferred,
      { s with log := log, sent := sent } = { s with log := log', sent := sent', ctxs := ctxs } ∧
        Tbl.get {} ctxs c = { s.ctx c with transfer := transfer, deferred := deferred } :=
    fun log sent => ⟨log, sent, s.ctxs, _, _, rfl, rfl⟩
  unfold State.startExposure
  dsimp only
  split
  · exact hsame s.log s.sent
  · split
    · exact hsame s.log s.sent
    · split
      · obtain ⟨sent, hsent⟩ := State.foldl_send_frame
          (fun t w => .i2c (t.reg 0x3840_03 c) (field (s.profile c) 6 1) w 0) (profileWrites (s.profile c) _) s
        rw [hsent]
        exact ⟨_, _, _, _, _, rfl, Tbl.get_put_same ..⟩
      · obtain ⟨log, sent, hrecord⟩ := (s.recordEvery_logs ..).frame
        rw [hrecord]
        exact hsame log sent
      · exact ⟨_, _, _, _, _, rfl, Tbl.get_put_same ..⟩

/-- With no setting that waits no transfer starts. -/
theorem State.startExposure_idle (h : (s.ctx c).deferred = []) : s.startExposure c = s := by
  simp only [State.startExposure, h]

/-- A setting issued is the context's latest, under the next number, which L:3860.0A then shows (R205). -/
theorem State.issueExposure_issues (hp : s.profile c ≠ []) (lines analogue digital : Nat) :
    ∃ log sent ctxs, s.issueExposure c lines analogue digital =
        { s with log := log, sent := sent, ctxs := ctxs,
                 regs := Tbl.put s.regs (regKey 0x3860_0A c) (nextGen (s.reg 0x3860_0A c)) } ∧
      (Tbl.get {} ctxs c).gens.head? =
        some { gen := nextGen (s.reg 0x3860_0A c), lines := lines, analogue := analogue, digital := digital } ∧
      (Tbl.get {} ctxs c).stats = (s.ctx c).stats := by
  rw [State.issueExposure, if_neg (by simpa using hp)]
  obtain ⟨log, sent, ctxs, _, _, hstart, hctx⟩ := State.startExposure_frame (c := c) <|
    (s.setReg 0x3860_0A c (nextGen (s.reg 0x3860_0A c))).setCtx c { s.ctx c with
      gens := { gen := nextGen (s.reg 0x3860_0A c), lines := lines, analogue := analogue, digital := digital } :: (s.ctx c).gens
      deferred := (s.ctx c).deferred ++ [(nextGen (s.reg 0x3860_0A c), false)] }
  rw [State.ctx_setCtx_same] at hctx
  exact ⟨log, sent, ctxs, hstart, by rw [hctx]; rfl, by rw [hctx]⟩

/-! ### The loops (R207) -/

/-- A step of the exposure loop issues a setting of one line at least, of gains of one at least, and of a digital gain that its
register holds. -/
theorem State.aeStep_issues {blk : Bytes} (hm : (histogramMean blk).isSome = true) (s : State) (c : Nat) (e : ExpGen) :
    ∃ t lines analogue digital, s.aeStep c e blk = t.issueExposure c lines analogue digital ∧ s.draws t ∧ 1 ≤ lines ∧
      256 ≤ analogue ∧ 256 ≤ digital ∧ digital ≤ 65535 := by
  obtain ⟨mean, hmean⟩ := Option.isSome_iff_exists.mp hm
  simp only [State.aeStep, hmean]
  refine ⟨_, _, _, _, rfl, ?_, Nat.le_max_left .., Nat.le_max_left .., Nat.le_max_left .., ?_⟩
  · exact ((State.roundFree_draws ..).trans (State.roundFree_draws ..)).trans (State.roundFree_draws ..)
  · exact Nat.max_le.mpr ⟨by decide, Nat.min_le_right ..⟩

/-- The context whose statistics block the exposure loop has seen. -/
def State.seen (s : State) (c : Nat) : State := s.setCtx c { s.ctx c with stats := none }

theorem exec_aeStep {c : Fin 32} {e : ExpGen} {g q : Nat} (hm : s.managed = true) (hw : s.commits.waiting = [])
    (hstats : (s.ctx c).stats = some (g, true, true, q)) (hissued : (s.ctx c).issued g = some e)
    (hon : s.flag 0x3840_02 c = true) (hg : g = s.reg 0x3860_0A c) (hauto : s.reg 0x3860_01 c = 0) :
    exec (.aeStep c) s = .next ((s.seen c).aeStep c e (s.blob 0x3840_1A c)) := by
  have hdue : ∀ due, s.applyDue due = s := fun due => by simp [State.applyDue, State.dueFields, hw]
  have hon' : (s.seen c).flag 0x3840_02 c = true := hon
  have hg' : g = (s.seen c).reg 0x3860_0A c := hg
  have hauto' : (s.seen c).reg 0x3860_01 c = 0 := hauto
  simp only [exec, execAeStep, whenManaged_next hm, hdue, hstats, hissued]
  refine congrArg _ (if_pos ?_)
  simp only [Bool.and_eq_true, decide_eq_true_eq]
  exact ⟨⟨⟨⟨hon', trivial⟩, trivial⟩, hg'⟩, hauto'⟩

/-- A gain no more than an eighth of another away from it. -/
def withinEighth (g g' : Nat) : Prop := g - g / 8 ≤ g' ∧ g' ≤ g + g / 8

theorem withinEighth_refl (g : Nat) : withinEighth g g := ⟨Nat.sub_le .., Nat.le_add_right ..⟩

theorem withinEighth_towardGain (g want : Nat) : withinEighth g (towardGain g want) := by
  unfold withinEighth towardGain
  omega

/-- A step of the white-balance loop changes of its context the gains of red and blue alone, each by an eighth at most. -/
theorem State.awbStep_frame (s : State) (c : Nat) (blk : Bytes) :
    (∃ fresh ctxs, s.awbStep c blk = { s with fresh := fresh, ctxs := ctxs }) ∧
      ∃ red blue, (s.awbStep c blk).ctx c = { s.ctx c with wb := (red, (s.ctx c).wb.2.1, blue) } ∧
        withinEighth (s.ctx c).wb.1 red ∧ withinEighth (s.ctx c).wb.2.2 blue := by
  unfold State.awbStep
  dsimp only
  generalize awbSums blk _ = sums
  split
  · exact ⟨⟨s.fresh, s.ctxs, rfl⟩, _, _, rfl, withinEighth_refl _, withinEighth_refl _⟩
  · obtain ⟨fresh, hdraws⟩ := (s.roundFree_draws ..).trans (State.roundFree_draws ..)
    rw [hdraws]
    exact ⟨⟨fresh, _, rfl⟩, _, _, State.ctx_setCtx_same .., withinEighth_towardGain .., withinEighth_towardGain ..⟩

theorem exec_awbStep {c : Fin 32} (hm : s.managed = true) (hon : s.flag 0x3840_02 c = true) (hauto : s.reg 0x3860_07 c = 0)
    (hnew : (s.ctx c).balance = true) :
    exec (.awbStep c) s = .next ((s.setCtx c { s.ctx c with balance := false }).awbStep c (s.blob 0x3840_1A c)) := by
  simp only [exec, execAwbStep, whenManaged_next hm, hon, hauto, hnew, decide_true, Bool.and_self, if_true]

/-! ### The end of a transfer (R205, R206) -/

theorem Ctx.inEffect_first {y : Ctx} {k g : Nat} {older : List (Nat × Nat)} (h : y.effects = (k, g) :: older) :
    y.inEffect k = g := by
  simp [Ctx.inEffect, h]

/-- The state once a transfer of a context has completed: its generation is in effect from k + D on (R205). -/
def State.putInEffect (s : State) (c : Nat) (x : ExpXfer) (uncertain : List (Nat × Option Nat)) : State :=
  s.setCtx c { s.ctx c with
    transfer := none, effects := (x.frame + s.reg 0x3840_0B c, x.gen) :: (s.ctx c).effects, uncertain := uncertain }

theorem State.exposureDone_eq (hx : (s.ctx c).transfer = some x) :
    ∃ unc, s.exposureDone c =
      if (s.putInEffect c x unc).windowOpen c then (s.putInEffect c x unc).startExposure c else s.putInEffect c x unc := by
  simp only [State.exposureDone, hx]
  exact ⟨_, rfl⟩

/-- With no setting that waits, a transfer that completes is all that happens. -/
theorem State.exposureDone_idle (hx : (s.ctx c).transfer = some x) (hidle : (s.ctx c).deferred = []) :
    ∃ unc, s.exposureDone c = s.putInEffect c x unc := by
  obtain ⟨unc, heq⟩ := State.exposureDone_eq hx
  have hstays : (s.putInEffect c x unc).startExposure c = s.putInEffect c x unc :=
    State.startExposure_idle (by rwa [State.putInEffect, State.ctx_setCtx_same])
  rw [hstays, ite_self] at heq
  exact ⟨unc, heq⟩

/-- A transfer that completes changes its context, and of the rest the log and what is sent alone. -/
theorem State.exposureDone_effect (hx : (s.ctx c).transfer = some x) :
    (∃ log sent ctxs, s.exposureDone c = { s with log := log, sent := sent, ctxs := ctxs }) ∧
      ((s.exposureDone c).ctx c).inEffect (x.frame + s.reg 0x3840_0B c) = x.gen := by
  obtain ⟨unc, heq⟩ := State.exposureDone_eq hx
  rw [heq]
  split
  · obtain ⟨log, sent, ctxs, _, _, hstart, hctx⟩ := (s.putInEffect c x unc).startExposure_frame c
    rw [State.putInEffect, State.ctx_setCtx_same] at hctx
    rw [hstart]
    exact ⟨⟨log, sent, ctxs, rfl⟩, Ctx.inEffect_first (congrArg Ctx.effects hctx)⟩
  · exact ⟨⟨_, _, _, rfl⟩, Ctx.inEffect_first (congrArg Ctx.effects (State.ctx_setCtx_same ..))⟩

theorem exec_exposureTransferDone {c : Fin 32} (hm : s.managed = true) (b : Bool) :
    exec (.exposureTransferDone c .done b) s = .next (s.exposureDone c) := by
  simp only [exec, execExposureTransferDone, whenManaged_next hm]

theorem exec_exposureTransferDone_noAck {c : Fin 32} (hm : s.managed = true) (b : Bool) :
    exec (.exposureTransferDone c .noAck b) s = .next (s.exposureFailed c b) := by
  simp only [exec, execExposureTransferDone, whenManaged_next hm]

/-- The context of a transfer that has failed, whose setting is tried once more (R206). -/
def Ctx.afterFailure (y : Ctx) (x : ExpXfer) (uncertain : List (Nat × Option Nat)) : Ctx :=
  { y with
    transfer := none, failedIn := y.window.map fun w => w.2.1, uncertain := uncertain
    deferred := if x.retry then y.deferred else (x.gen, true) :: y.deferred }

/-- The state once a transfer that failed is noted and its setting waits to be tried again (R206). -/
def State.failureNoted (s : State) (c : Nat) (x : ExpXfer) (uncertain : List (Nat × Option Nat)) : State :=
  (s.record 0x083 (some (inc 0x0A)) c (s.reg 0x3840_18 c)).setCtx c ((s.ctx c).afterFailure x uncertain)

theorem State.failureNoted_frame (s : State) (c : Nat) (x : ExpXfer) (unc : List (Nat × Option Nat)) :
    ∃ log sent, s.failureNoted c x unc =
      { s with log := log, sent := sent, ctxs := Tbl.put s.ctxs c ((s.ctx c).afterFailure x unc) } := by
  obtain ⟨log, sent, hrecord⟩ := s.record_frame 0x083 (some (inc 0x0A)) c (s.reg 0x3840_18 c) false
  rw [State.failureNoted, hrecord]
  exact ⟨log, sent, rfl⟩

theorem State.failureNoted_recent (s : State) (c : Nat) (x : ExpXfer) (unc : List (Nat × Option Nat)) :
    (s.failureNoted c x unc).recent 1 0x083 (some (inc 0x0A)) := State.newest.recent (s.record_newest ..)

theorem State.failureNoted_raisesOnce (s : State) (c : Nat) (x : ExpXfer) (unc : List (Nat × Option Nat)) :
    s.raisesOnce (s.failureNoted c x unc) := (s.record_logs 0x083 (some (inc 0x0A)) c (s.reg 0x3840_18 c) false).raisesOnce

/-- A failure is noted, and where no group hold kept the setting before, so is that frames are uncertain. -/
theorem State.exposureFailed_eq (hx : (s.ctx c).transfer = some x) (released : Bool) :
    ∃ unc, s.exposureFailed c released = s.failureNoted c x unc ∨
      s.exposureFailed c released = (s.failureNoted c x unc).record 0x083 (some (inc 0x0C)) c (s.reg 0x3840_18 c) := by
  simp only [State.exposureFailed, hx]
  split
  · exact ⟨_, .inl rfl⟩
  · exact ⟨(x.frame + s.reg 0x3840_0B c, none) :: (s.ctx c).uncertain, .inr rfl⟩

/-- A transfer that fails changes its context and the log alone, where IN-0x0A stands. -/
theorem State.exposureFailed_fails (hx : (s.ctx c).transfer = some x) (released : Bool) :
    (∃ log sent ctxs, s.exposureFailed c released = { s with log := log, sent := sent, ctxs := ctxs }) ∧
      (∃ unc, (s.exposureFailed c released).ctx c = (s.ctx c).afterFailure x unc) ∧
      (s.exposureFailed c released).logged 0x083 (some (inc 0x0A)) ∧ s.sendsLog (s.exposureFailed c released) := by
  obtain ⟨unc, heq | heq⟩ := State.exposureFailed_eq hx released
  all_goals
    have hrecent := s.failureNoted_recent c x unc
    have hraises := s.failureNoted_raisesOnce c x unc
    obtain ⟨log, sent, hnoted⟩ := s.failureNoted_frame c x unc
    rw [heq]
  · exact ⟨⟨log, sent, _, hnoted⟩, ⟨unc, State.ctx_setCtx_same ..⟩, hrecent.logged, hraises.sendsLog⟩
  · obtain ⟨log', sent', hrecord⟩ := State.record_frame (s.failureNoted c x unc) 0x083 (some (inc 0x0C)) c (s.reg 0x3840_18 c) false
    refine ⟨⟨log', sent', _, by rw [hrecord, hnoted]⟩, ⟨unc, ?_⟩, (hrecent.record (by unfold logSize; omega) ..).logged,
      (hraises.trans (State.record_logs ..).raisesOnce).sendsLog⟩
    rw [hrecord]
    exact State.ctx_setCtx_same ..

theorem exec_controlBusTimeout_host {p : Fin 16} {x : BusXfer} (hm : s.managed = true) (hx : (s.camPort p).xfer = some x)
    (hrun : x.started = true) : exec (.controlBusTimeout p) s = .next (s.endHost p 4) := by
  simp only [exec, execControlBusTimeout, whenManaged_next hm, hx, hrun, if_true]

theorem exec_controlBusTimeout_exposure {p : Fin 16} (hm : s.managed = true) (hbus : (s.camPort p).xfer = none)
    (hport : s.portContexts p = [c]) (hx : (s.ctx c).transfer = some x) :
    exec (.controlBusTimeout p) s = .next (s.draw.2.exposureFailed c (s.draw.1 % 2 == 1)) := by
  simp only [exec, execControlBusTimeout, whenManaged_next hm, hbus, hport, List.foldl_cons, List.foldl_nil, hx,
    Option.isSome_some, if_true]

end

/-- Settles O29: the loops and the transfers change their context as the lemmas above have it, and each command runs one of them. -/
theorem exposureFollowsItsGenerations : Obligations.ExposureFollowsItsGenerations := by
  unfold Obligations.ExposureFollowsItsGenerations
  refine ⟨?exposureLoop, ?balanceLoop, ?done, ?failed, ?hostHeld, ?exposureHeld⟩
  case exposureLoop =>
    intro s c e g q hm hw hstats hissued hon hg hauto hp hmean
    have hexec := exec_aeStep hm hw hstats hissued hon hg hauto
    obtain ⟨t, lines, analogue, digital, hstep, ⟨fresh, rfl⟩, hlines, hanalogue, hdigital, hmost⟩ :=
      State.aeStep_issues hmean (s.seen c) c e
    obtain ⟨log, sent, ctxs, hissue, hlatest, hseen⟩ :=
      State.issueExposure_issues (s := { s.seen c with fresh := fresh }) (c := c) hp lines analogue digital
    have hgen : nextGen (State.reg { s.seen c with fresh := fresh } 0x3860_0A c) = nextGen g := congrArg nextGen hg.symm
    rw [hgen] at hissue hlatest
    rw [hstep, hissue] at hexec
    refine ⟨_, _, hexec, hseen.trans ?_, State.reg_setReg_same .., hlatest, rfl, hlines, hanalogue, hdigital, hmost, ⟨?_, rfl, rfl⟩,
      rfl, rfl, rfl⟩
    · exact congrArg Ctx.stats (State.ctx_setCtx_same ..)
    · exact State.regsBut_put (s.regsBut_refl _) rfl (List.mem_singleton.mpr rfl)
  case balanceLoop =>
    intro s c hm hon hauto hnew
    have hexec := exec_awbStep hm hon hauto hnew
    obtain ⟨⟨fresh, ctxs, hstep⟩, red, blue, hctx, hred, hblue⟩ :=
      (s.setCtx c { s.ctx c with balance := false }).awbStep_frame c (s.blob 0x3840_1A c)
    rw [State.ctx_setCtx_same] at hctx hred hblue
    obtain ⟨hredLow, hredHigh⟩ := hred
    obtain ⟨hblueLow, hblueHigh⟩ := hblue
    refine ⟨_, hexec, ?_⟩
    rw [hctx, hstep]
    exact ⟨rfl, rfl, hredLow, hredHigh, hblueLow, hblueHigh, rfl, rfl, rfl, rfl, rfl, rfl, rfl⟩
  case done =>
    intro s c b x hm hx
    obtain ⟨⟨log, sent, ctxs, hdone⟩, heffect⟩ := State.exposureDone_effect hx
    refine ⟨s.exposureDone c, exec_exposureTransferDone hm b, heffect, fun hidle => ?_, ?_⟩
    · obtain ⟨unc, hstays⟩ := State.exposureDone_idle hx hidle
      rw [hstays]
      exact ⟨congrArg Ctx.transfer (State.ctx_setCtx_same ..), rfl, rfl⟩
    · rw [hdone]
      exact ⟨rfl, rfl, rfl, rfl, rfl⟩
  case failed =>
    intro s c b x hm hx
    obtain ⟨⟨log, sent, ctxs, hfailed⟩, ⟨unc, hctx⟩, hlogged, hsends⟩ := State.exposureFailed_fails hx b
    refine ⟨s.exposureFailed c b, exec_exposureTransferDone_noAck hm b, by rw [hctx]; rfl, hlogged, by rw [hctx]; rfl,
      by rw [hctx]; rfl, ?_⟩
    rw [hfailed] at hsends ⊢
    exact ⟨rfl, rfl, rfl, hsends, rfl, rfl⟩
  case hostHeld =>
    intro s p x hm hx hrun
    obtain ⟨hfree, hresult, hregs⟩ := s.endHost_ends p 4
    exact ⟨_, exec_controlBusTimeout_host hm hx hrun, hfree, hresult, rfl, ⟨hregs, rfl, rfl⟩, rfl, rfl, rfl, rfl⟩
  case exposureHeld =>
    intro s p c x hm hbus hport hx
    have hexec := exec_controlBusTimeout_exposure hm hbus hport hx
    generalize (s.draw.1 % 2 == 1) = released at hexec
    obtain ⟨⟨log, sent, ctxs, hfailed⟩, ⟨unc, hctx⟩, hlogged, hsends⟩ := State.exposureFailed_fails (s := s.draw.2) hx released
    refine ⟨_, hexec, by rw [hctx]; rfl, hlogged, ?_⟩
    rw [hfailed] at hsends ⊢
    exact ⟨rfl, rfl, rfl, hsends, rfl, rfl⟩

end Sys2Proof.Machine
end

section
/-! PROOFS. Camera frames and pipelines (R184, R185, R191, R205, R300): what a Frame Start takes of the settings issued, and a
pipeline's frame whose writes wait for the fabric. -/

namespace Sys2Proof.Machine

section
variable {s : State} {c : Nat}

/-- A packet whose header needs no correction, on a port that is enabled at the edge, is served as it stands (R22, R178, R181). -/
theorem State.onPacket_clean {p vc : Nat} (hedge : s.edgeRole = true) (hon : s.flag 0x3800_02 p = true) (f : State → State) :
    s.onPacket p vc 0 f = f s := by
  simp [State.onPacket, State.noteHeader, hedge, hon]

/-- A Frame Start on a port that streams starts a frame of the channel's one context. -/
theorem exec_frameStartPacket {p vc : Fin 16} (hl : s.live = true) (hedge : s.edgeRole = true) (hon : s.flag 0x3800_02 p = true)
    (hc : s.contextsOn p vc = [c]) (hstreams : s.reg 0x3800_07 p = 2) :
    exec (.frameStartPacket p ⟨vc, 0⟩) s = .next ((s.setCamPort p { s.camPort p with lastFs := some s.now }).startCamera c) := by
  rw [exec, execFrameStartPacket, whenLive_next hl]
  refine congrArg _ ((State.onPacket_clean hedge hon _).trans ?_)
  simp [hc, hstreams]

/-- While a class B request of a pipeline waits for its grant, the end of its frame leaves everything as it is (R300). -/
theorem exec_pipelineFrameDone_writeWaits {k : Fin 4} (hl : s.live = true) (hw : s.classBWaits (32 + k) = true) (writes : MemEnd) :
    exec (.pipelineFrameDone k writes) s = .next s := by
  simp only [exec, execPipelineFrameDone, whenLive_next hl, hw, if_true]

end

/-! ### A setting under the number 0 (R205) -/

/-- The source of slot 0 shows context 0: 64 by 4 pixels. -/
def cameraSource : Source :=
  { id := 1, kind := 1, fmt := 4, rate := 60000, locator := 0, width := 64, height := 4, name := [0x41], ingotCount := 1
    memory := 0, upPort := 24, upStream := 0, bases := [0x100000], size := 0x10000, ringBase := 0x200000, ringSpan := 0x10000 }

/-- An edge device whose controller runs: camera port 0 streams, and context 0 on its channel 0 is enabled
and has issued generation 1. -/
def cameraRuns : State :=
  { State.reset with
    regs := [(regKey 0x1000_05 0, 2), (regKey 0x3800_02 0, 1), (regKey 0x3800_07 0, 2), (regKey 0x3840_02 0, 1),
        (regKey 0x3840_05 0, 0x2A), (regKey 0x3840_06 0, 64), (regKey 0x3840_07 0, 4), (regKey 0x3860_0A 0, 1)] ++
      (List.range 24).map fun d => (regKey 0x6400_02 d, 2)
    power := { mgmt := true, booted := true }
    sources := [(0, cameraSource)]
    slots := [(0, { set := [0] })] }

/-- A sensor profile without its check: one record, and lines of 10 µs. -/
def tenMicrosecondLines : Bytes :=
  beBytes 4 0x44515350 ++ beBytes 2 1 ++ [16, 0] ++ beBytes 4 10000000 ++ [1, 0] ++ beBytes 2 256 ++ [0, 16, 1, 0, 0xFF, 0]

/-- The context keeps, beside its generation 1, a setting of 100 lines under the number 0, which no setting is issued under (R205);
none is in effect. -/
def settingZeroKept : State :=
  { cameraRuns with
    blobs := [(regKey 0x3840_0D 0, tenMicrosecondLines ++ beBytes 4 (crc32c tenMicrosecondLines))]
    ctxs := [(0, { gens := [{ gen := 1, lines := 200, analogue := 256, digital := 256 },
                           { gen := 0, lines := 100, analogue := 256, digital := 256 }] })] }

/-- That device once a Frame Start has arrived. -/
def settingZeroStarted : State :=
  (settingZeroKept.setCamPort 0 { settingZeroKept.camPort 0 with lastFs := some settingZeroKept.now }).startCamera 0

theorem exec_frameStart_settingZeroKept : exec (.frameStartPacket 0 ⟨0, 0⟩) settingZeroKept = .next settingZeroStarted :=
  exec_frameStartPacket (by decide +kernel) (by decide +kernel) (by decide +kernel) (by decide +kernel) (by decide +kernel)

/-- A setting that is not in effect, nor to be transferred, nor the last issued is forgotten at a Frame Start, and the frame has no
exposure. -/
theorem settingZeroStarted_exposure : (settingZeroStarted.ctx 0).cur.map CamFrame.exposure = some 0 := by decide +kernel

theorem settingZeroKept_exposure : settingZeroKept.exposureNs 0 0 = 1000000 := by decide +kernel

/-- Refutes O27: before any generation is in effect a frame carries the number 0 (R205) and no exposure, but the clause for a Frame
Start gives it the exposure of a setting that the context keeps under the number 0. None is ever issued under that number, and the
clause does not leave such a context out. -/
theorem not_cameraFramesArrive : ¬ Obligations.CameraFramesArrive := by
  rintro ⟨hstart, -⟩
  obtain ⟨t, f, hexec, hcur, -, -, -, -, -, -, -, hgen, -, hexposure, -⟩ :=
    hstart settingZeroKept 0 0 0 0 0 cameraSource (by decide +kernel) (by decide +kernel) (by decide +kernel) (by decide)
      (by decide +kernel) rfl rfl rfl (by decide +kernel) rfl rfl (by decide +kernel)
  obtain rfl : settingZeroStarted = t := Host.Outcome.next.inj (exec_frameStart_settingZeroKept.symm.trans hexec)
  have hnone : f.exposure = 0 := by
    have hframe := settingZeroStarted_exposure
    rw [hcur] at hframe
    exact Option.some.inj hframe
  have hzero : f.generation = 0 := hgen
  rw [hnone, hzero, settingZeroKept_exposure] at hexposure
  cases hexposure

/-! ### A pipeline whose last write waits (R300) -/

/-- Pipeline 0's write of the last line of a frame into the buffer at 0x100000 of DRAM channel 0, which has no grant. -/
def lastDisplayWrite : FabItem :=
  { port := 32, target := 0, issued := 768110, since := 768110
    req := { address := 0x100300, beats := 4, write := true, cls := 1, id := 0
             data := List.replicate 256 0, enables := List.replicate 4 (2 ^ 64 - 1) } }

/-- Context 0's first frame. -/
def firstFrame : CamFrame :=
  { ctx := 0, seq := 1, slot := 0, origin := 0, unlocked := false, era := 0, isp := { width := 64, height := 4, dataType := 0x2A } }

/-- Pipeline 0 has written all of context 0's first frame into Ingot 0 but its last line, which waits for the fabric. -/
def lastDisplayWriteWaits : State :=
  { cameraRuns with
    ingots := [(0, { slot := 0, base := 0x100000, size := 0x10000, st := .filling, filler := .isp, seq := 1 })]
    pipes := [(0, { frame := some firstFrame, display := some 0 })]
    fabric := { queue := [lastDisplayWrite] } }

/-- Refutes O28: the clause for the end of a pipeline's frame says nothing of the writes of that frame. While one waits for its
grant the frame is not whole, and may yet be refused (R192, R300): nothing is published, and the pipeline keeps its frame. -/
theorem not_pipelinesFinishFrames : ¬ Obligations.PipelinesFinishFrames := by
  rintro ⟨-, hdone, -⟩
  obtain ⟨t, hexec, hfree, -⟩ := hdone lastDisplayWriteWaits 0 _ 0 (by decide +kernel) (by decide +kernel) rfl rfl rfl rfl
  have hunchanged : exec (.pipelineFrameDone 0 .ok) lastDisplayWriteWaits = .next lastDisplayWriteWaits :=
    exec_pipelineFrameDone_writeWaits (by decide +kernel) (by decide +kernel) .ok
  obtain rfl : t = lastDisplayWriteWaits := Host.Outcome.next.inj (hexec.symm.trans hunchanged)
  cases congrArg Pipe.display hfree

end Sys2Proof.Machine
end

section
/-! PROOFS. Lanes that fall back (R214, R215, R217, R219, R220): what each lane of a list does is its own, so that a list of lanes
which backs off, or returns to Detect, leaves every one of them so. -/

namespace Sys2Proof.Machine

/-- What a fold makes true at one element of its list, and keeps at every other, holds at its end. -/
theorem foldl_reaches {α β : Type} {f : β → α → β} {Q R : β → Prop} {a : α} {xs : List α} (ha : a ∈ xs)
    (hQ : ∀ b, Q b → ∀ x ∈ xs, x ≠ a → Q (f b x)) (hreach : ∀ b, Q b → R (f b a))
    (hR : ∀ b, R b → ∀ x ∈ xs, x ≠ a → R (f b x)) (hRQ : ∀ b, R b → Q b) {b : β} (hb : Q b) : R (xs.foldl f b) := by
  obtain ⟨before, after, rfl⟩ := List.append_of_mem ha
  rw [List.foldl_append, List.foldl_cons]
  have hbefore : Q (before.foldl f b) := List.foldlRecOn before f hb fun b h x hx => by
    by_cases hxa : x = a
    · exact hxa ▸ hRQ _ (hreach b h)
    · exact hQ b h x (List.mem_append_left _ hx) hxa
  refine List.foldlRecOn after f (hreach _ hbefore) fun b h x hx => ?_
  by_cases hxa : x = a
  · exact hxa ▸ hreach b (hRQ b h)
  · exact hR b h x (List.mem_append_right _ (List.mem_cons_of_mem _ hx)) hxa

section
variable {s t u : State} {k l : Nat}

/-! ### What a change of one lane leaves of another -/

/-- The registers of a lane, its own state and the blocks that it has sent are in one state as in another. -/
def State.sameLane (s t : State) (l : Nat) : Prop :=
  (∀ key, t.reg key l = s.reg key l) ∧ t.lane l = s.lane l ∧ t.blocksOf l = s.blocksOf l

theorem State.sameLane.trans (h : s.sameLane t l) (h' : t.sameLane u l) : s.sameLane u l := by
  obtain ⟨hreg, hlane, hsent⟩ := h
  obtain ⟨hreg', hlane', hsent'⟩ := h'
  exact ⟨fun key => (hreg' key).trans (hreg key), hlane'.trans hlane, hsent'.trans hsent⟩

theorem State.sameLane_setReg (s : State) (hne : l ≠ k) (hl : l < 52) (hk : k < 52) (key v : Nat) :
    s.sameLane (s.setReg key k v) l :=
  ⟨fun _ => State.reg_setReg_ne s v fun h => hne ((regKey_inj (by omega) (by omega)).mp h).2, rfl, rfl⟩

theorem State.sameLane_setLane (s : State) (hne : l ≠ k) (x : Lane) : s.sameLane (s.setLane k x) l :=
  ⟨fun _ => rfl, Tbl.get_put_ne _ _ _ hne, rfl⟩

theorem State.sameLane_enterLane (s : State) (hne : l ≠ k) (hl : l < 52) (hk : k < 52) (st : Nat) :
    s.sameLane (s.enterLane st k) l := (s.sameLane_setReg hne hl hk _ _).trans (State.sameLane_setLane _ hne _)

@[simp] theorem State.sendBlock_blocksOf_same (s : State) (l b : Nat) : (s.sendBlock l b).blocksOf l = b :: s.blocksOf l := by
  simp [State.blocksOf, State.sendBlock, State.send]

theorem State.sendBlock_blocksOf_ne (s : State) (hne : l ≠ k) (b : Nat) : (s.sendBlock k b).blocksOf l = s.blocksOf l := by
  simp [State.blocksOf, State.sendBlock, State.send, Ne.symm hne]

theorem State.sameLane_sendBlock (s : State) (hne : l ≠ k) (b : Nat) : s.sameLane (s.sendBlock k b) l :=
  ⟨fun _ => rfl, Tbl.get_put_ne _ _ _ hne, s.sendBlock_blocksOf_ne hne b⟩

/-- A block that a lane sends changes nothing of the lane but its scrambler. -/
theorem State.sendBlock_lane (s : State) (l b : Nat) : ∃ z, (s.sendBlock l b).lane l = { s.lane l with scram := z } :=
  ⟨_, Tbl.get_put_same _ _ _ _⟩

/-! ### A record that no limit holds back (R439) -/

/-- A record of whatever time is the newest of the log, unless it was lost. -/
theorem State.recordAt_newest (s : State) (time event : Nat) (code : Option Code) (inst : Nat) (detail : Int) (fw : Bool)
    (suppressed : Nat) : (s.recordAt time event code inst detail fw suppressed).newest event code := by
  by_cases hon : s.reg 0x6400_02 3 = 2
  · have hon' : ¬ (s.reg 0x6400_02 3 != 2) = true := by simp [hon]
    rw [State.recordAt, if_neg hon']
    by_cases hfull : logQueue ≤ s.logWaiting
    · rw [if_pos hfull]
      exact .inl hfull
    · rw [if_neg hfull]
      exact .inr (.inr ⟨_, by rw [State.raiseLog_recs]; rfl, rfl, rfl⟩)
  · have hoff : (s.reg 0x6400_02 3 != 2) = true := by simpa using hon
    rw [State.recordAt, if_pos hoff]
    exact .inr (.inl hon)

theorem State.recordEvery_newest {event : Nat} (h : s.unlimited event) (clock every : Nat) (perCode : Bool) (code : Option Code)
    (inst : Nat) (detail : Int) (fw : Bool) : (s.recordEvery clock every perCode event code inst detail fw).newest event code := by
  rw [State.recordEvery, if_neg]
  · exact State.recordAt_newest ..
  · simp only [List.any_eq_true, not_exists, not_and]
    intro x hx hmatch
    simp only [Bool.and_eq_true, beq_iff_eq] at hmatch
    obtain ⟨⟨⟨hevent, -⟩, -⟩, -⟩ := hmatch
    exact h x hx hevent

/-! ### Back-off (R217, R220) -/

/-- One lane of a list that backs off. -/
def State.backOffLane (s : State) (k : Nat) : State :=
  ((s.enterLane 2 k).setReg 0x4000_03 k 0xFF).setLane k { (s.enterLane 2 k).lane k with fails := (s.lane k).fails + 1 }

theorem State.backOff_eq (s : State) (ls : List Nat) (l : Nat) :
    s.backOff ls l (sw 0x01) =
      (ls.foldl State.backOffLane s).recordEvery (ls.foldl State.backOffLane s).now (60 * second) true 0x090 (some (sw 0x01)) l
        0xFF := rfl

theorem State.sameLane_backOffLane (s : State) (hne : l ≠ k) (hl : l < 52) (hk : k < 52) : s.sameLane (s.backOffLane k) l :=
  ((s.sameLane_enterLane hne hl hk 2).trans (State.sameLane_setReg _ hne hl hk _ _)).trans (State.sameLane_setLane _ hne _)

/-- A lane has backed off: it is in state 2, without a rate, and has failed more often than before. -/
def State.backedOff (s t : State) (l : Nat) : Prop :=
  t.reg 0x4000_02 l = 2 ∧ t.reg 0x4000_03 l = 0xFF ∧ (s.lane l).fails < (t.lane l).fails ∧ (t.lane l).since = s.now

theorem State.backedOff.sameLane (h : s.backedOff t l) (hsame : t.sameLane u l) : s.backedOff u l := by
  obtain ⟨hreg, hlane, -⟩ := hsame
  unfold State.backedOff at *
  rwa [hreg, hreg, hlane]

theorem State.backOffLane_backedOff (hl : l < 52) (hnow : t.now = s.now) (hfails : (s.lane l).fails ≤ (t.lane l).fails) :
    s.backedOff (t.backOffLane l) l := by
  refine ⟨?_, State.reg_setReg_same .., ?_, ?_⟩
  · exact (State.reg_setReg_key _ _ (by decide) (by omega) (by omega)).trans (State.reg_setReg_same ..)
  · rw [State.backOffLane, State.lane_setLane_same]
    exact Nat.lt_succ_of_le hfails
  · rw [State.backOffLane, State.lane_setLane_same, State.enterLane, State.lane_setLane_same]
    exact hnow

theorem State.foldl_backOffLane_backedOff {ls : List Nat} (hls : ∀ k ∈ ls, k < 52) (hl : l ∈ ls) :
    s.backedOff (ls.foldl State.backOffLane s) l := by
  have hreaches : State.now (ls.foldl State.backOffLane s) = s.now ∧ s.backedOff (ls.foldl State.backOffLane s) l := by
    refine foldl_reaches (Q := fun t : State => t.now = s.now ∧ (s.lane l).fails ≤ (t.lane l).fails)
      (R := fun t : State => t.now = s.now ∧ s.backedOff t l) hl ?_ ?_ ?_ ?_ ⟨rfl, Nat.le_refl _⟩
    · rintro t ⟨hnow, hfails⟩ k hk hne
      obtain ⟨-, hlane, -⟩ := t.sameLane_backOffLane hne.symm (hls l hl) (hls k hk)
      exact ⟨hnow, hlane ▸ hfails⟩
    · exact fun t ⟨hnow, hfails⟩ => ⟨hnow, State.backOffLane_backedOff (hls l hl) hnow hfails⟩
    · exact fun t ⟨hnow, hoff⟩ k hk hne => ⟨hnow, hoff.sameLane (t.sameLane_backOffLane hne.symm (hls l hl) (hls k hk))⟩
    · exact fun t ⟨hnow, _, _, hfails, _⟩ => ⟨hnow, hfails.le⟩
  exact hreaches.2

/-- As lanes back off, their registers and their own states change, and nothing else. -/
theorem State.foldl_backOffLane_frame (s : State) (ls : List Nat) :
    ∃ regs lanes, ls.foldl State.backOffLane s = { s with regs := regs, lanes := lanes } := by
  refine List.foldlRecOn (motive := fun t : State => ∃ regs lanes, t = { s with regs := regs, lanes := lanes }) ls _
    ⟨s.regs, s.lanes, rfl⟩ ?_
  rintro _ ⟨regs, lanes, rfl⟩ k -
  exact ⟨_, _, rfl⟩

theorem State.foldl_backOffLane_entries {ls : List Nat} (hls : ∀ k ∈ ls, k < 52) :
    s.entriesBut (ls.foldl State.backOffLane s) [0x4000_02, 0x4000_03] := by
  refine List.foldlRecOn (motive := fun t : State => s.entriesBut t [0x4000_02, 0x4000_03]) ls _ (s.entriesBut_refl _) ?_
  intro t h k hk
  have hpart : k < 65536 := (hls k hk).trans (by decide)
  exact (h.setReg (by decide) hpart 2 : s.entriesBut (t.enterLane 2 k) _).setReg (by decide) hpart 0xFF

/-- A list of lanes backs off with E-0x090: in the ledger their states and rates change alone. -/
structure State.BacksOff (s t : State) (l : Nat) : Prop where
  lane : s.backedOff t l
  entries : s.entriesBut t [0x4000_02, 0x4000_03]
  newest : s.unlimited 0x090 → t.newest 0x090 (some (sw 0x01))
  sends : s.sendsLog t
  blobs : t.blobs = s.blobs
  shadow : t.shadow = s.shadow
  cells : t.cells = s.cells
  still : t.still = s.still

theorem State.backOff_backsOff {ls : List Nat} (hls : ∀ k ∈ ls, k < 52) (hl : l ∈ ls) :
    s.BacksOff (s.backOff ls l (sw 0x01)) l := by
  have hlane := State.foldl_backOffLane_backedOff (s := s) hls hl
  have hentries := State.foldl_backOffLane_entries (s := s) hls
  obtain ⟨regs, lanes, hfold⟩ := s.foldl_backOffLane_frame ls
  rw [State.backOff_eq]
  rw [hfold] at hlane hentries ⊢
  have hlogs := State.recordEvery_logs { s with regs := regs, lanes := lanes } s.now (60 * second) true 0x090 (some (sw 0x01)) l
    0xFF false
  have hnewest := fun h => State.recordEvery_newest (s := { s with regs := regs, lanes := lanes }) (event := 0x090) h s.now
    (60 * second) true (some (sw 0x01)) l 0xFF false
  have hsends := hlogs.raisesOnce.sendsLog
  obtain ⟨log, sent, hrec⟩ := hlogs.frame
  dsimp only [State.now] at *
  rw [hrec] at hnewest hsends ⊢
  exact ⟨hlane, hentries, hnewest, hsends, rfl, rfl, rfl, rfl⟩

/-! ### Bring-up timeouts (R217) -/

theorem State.overdue_of_late {st time : Nat} (hst : s.reg 0x4000_02 l = st) (hown : l < 48)
    (hlate : (s.lane l).since + time ≤ s.now) : s.overdue l st time = true := by
  simp [State.overdue, hst, hlate, hown]

/-- A lane that is brought up with its port fails with it. -/
theorem State.failBringUp_together (hown : l < 48) (hsolo : (s.lane l).solo = .no) (c : Code) :
    s.failBringUp l c = s.backOff (s.laneMates l) l c := by
  simp [State.failBringUp, hsolo, Nat.not_le.mpr hown]

theorem exec_detectTimeout {l : Fin 52} (hl : s.live = true) (hown : l.val < 48) (hsolo : (s.lane l).solo = .no)
    (hst : s.reg 0x4000_02 l = 1) (hlate : (s.lane l).since + milli ≤ s.now) :
    exec (.detectTimeout l) s = .next (s.backOff (s.laneMates l) l (sw 0x01)) := by
  rw [exec, execDetectTimeout, whenLive_next hl, if_pos (State.overdue_of_late hst hown hlate),
    State.failBringUp_together hown hsolo]

theorem exec_exchangeTimeout {l : Fin 52} (hl : s.live = true) (hown : l.val < 48) (hsolo : (s.lane l).solo = .no)
    (hst : s.reg 0x4000_02 l = 3) (hlate : (s.lane l).since + 2 * milli ≤ s.now) :
    exec (.exchangeTimeout l) s = .next (s.backOff (s.laneMates l) l (sw 0x01)) := by
  rw [exec, execExchangeTimeout, whenLive_next hl, if_pos (State.overdue_of_late hst hown hlate),
    State.failBringUp_together hown hsolo]

/-! ### Block lock is lost (R214, R215) -/

/-- A lane that was being brought up searches for block lock again, at the lowest rate unless it retrains. -/
def State.searchesAgain (s : State) (l : Nat) : State :=
  let s1 := (s.bumpBy 0x4000_08 l 16).enterLane 1 l
  let s2 := if (s.lane l).solo = .retrain then s1 else s1.setReg 0x4000_03 l 0
  s2.setLane l { s2.lane l with capSeen := 0, capHalf := false, acked := false, looped := false }

theorem exec_blockLockLoss {l : Fin 52} (hl : s.live = true) (hst : s.reg 0x4000_02 l ∈ [3, 4, 5, 6, 7]) :
    exec (.blockLockLoss l) s = .next (s.searchesAgain l) := by
  have hne : ¬ (s.reg 0x4000_02 l = 1 && (s.lane l).stepDone) = true := by
    rw [Bool.and_eq_true, decide_eq_true_eq]
    rintro ⟨hdetect, -⟩
    rw [hdetect] at hst
    exact absurd hst (by decide)
  rw [exec, execBlockLockLoss, whenLive_next hl, if_neg hne, if_pos (List.contains_iff_mem.mpr hst)]
  rfl

theorem State.searchesAgain_lane (s : State) (l : Nat) :
    ((s.searchesAgain l).lane l).capSeen = 0 ∧ ((s.searchesAgain l).lane l).acked = false := by
  simp [State.searchesAgain]

theorem State.searchesAgain_frame (s : State) (l : Nat) :
    ∃ regs lanes, s.searchesAgain l = { s with regs := regs, lanes := lanes } := by
  unfold State.searchesAgain
  dsimp only
  split <;> exact ⟨_, _, rfl⟩

/-- The registers once the invalid headers are counted, the lane's state is 1, and its rate is as it was or the lowest. -/
theorem State.searchesAgain_reg (s : State) (hl : l < 52) :
    (s.searchesAgain l).reg 0x4000_02 l = 1 ∧
      (s.searchesAgain l).reg 0x4000_08 l = satAdd (entryBits 0x4000_08) (s.reg 0x4000_08 l) 16 ∧
      s.regsBut (s.searchesAgain l) [regKey 0x4000_02 l, regKey 0x4000_03 l, regKey 0x4000_08 l] := by
  have hpart : l < 65536 := by omega
  have hstate : ((s.bumpBy 0x4000_08 l 16).enterLane 1 l).reg 0x4000_02 l = 1 := State.reg_setReg_same ..
  have hcount : ((s.bumpBy 0x4000_08 l 16).enterLane 1 l).reg 0x4000_08 l = satAdd (entryBits 0x4000_08) (s.reg 0x4000_08 l) 16 :=
    (State.reg_setReg_key _ _ (by decide) hpart hpart).trans (State.reg_setReg_same ..)
  have hregs : s.regsBut ((s.bumpBy 0x4000_08 l 16).enterLane 1 l) [regKey 0x4000_02 l, regKey 0x4000_03 l, regKey 0x4000_08 l] :=
    State.regsBut_put (State.regsBut_put (s.regsBut_refl _) (s.bumpBy_regs ..) (by simp)) rfl (by simp)
  unfold State.searchesAgain
  dsimp only
  split
  · exact ⟨hstate, hcount, hregs⟩
  · exact ⟨(State.reg_setReg_key _ _ (by decide) hpart hpart).trans hstate,
      (State.reg_setReg_key _ _ (by decide) hpart hpart).trans hcount, State.regsBut_put hregs rfl (by simp)⟩

/-! ### The return to Detect (R217, R224) -/

/-- The registers of a lane that returns to Detect: its state and rate, no logical lane, and one more bring-up. -/
def State.detectRegs (s : State) (k rate : Nat) : State :=
  (((s.setReg 0x4000_02 k 1).setReg 0x4000_03 k rate).setReg 0x4000_06 k 0xFF).bump 0x4000_0F k

theorem State.detectRegs_reg (s : State) (rate : Nat) (hl : l < 52) :
    (s.detectRegs l rate).reg 0x4000_02 l = 1 ∧ (s.detectRegs l rate).reg 0x4000_03 l = rate ∧
      (s.detectRegs l rate).reg 0x4000_06 l = 0xFF := by
  have hpart : l < 65536 := by omega
  simp [State.detectRegs, State.bump, State.bumpBy, State.reg_setReg_key, hpart]

/-- One lane of a list that returns to Detect, with the seed drawn for the list. -/
def State.detectLane (seed : Nat) (s : State) (k : Nat) : State :=
  let x := s.lane k
  let rate := if x.solo = .retrain then s.portRate ((s.portOfLane k).getD 0) else 0
  ((s.detectRegs k rate).setLane k
    { since := s.now, fails := x.fails, seed := seed, solo := x.solo, scram := x.scram }).sendBlock k idleBlock

theorem State.detect_eq (s : State) (ls : List Nat) :
    s.detect ls = ls.foldl (State.detectLane (s.draw.1 % 2 ^ 31)) { s with fresh := s.fresh + 1 } := rfl

theorem State.sameLane_detectLane (s : State) (seed : Nat) (hne : l ≠ k) (hl : l < 52) (hk : k < 52) :
    s.sameLane (s.detectLane seed k) l :=
  (((((s.sameLane_setReg hne hl hk _ _).trans (State.sameLane_setReg _ hne hl hk _ _)).trans
    (State.sameLane_setReg _ hne hl hk _ _)).trans (State.sameLane_setReg _ hne hl hk _ _)).trans
      (State.sameLane_setLane _ hne _)).trans (State.sameLane_sendBlock _ hne _)

/-- A lane that is brought up with its port is in Detect again: with a fresh seed and the failures that it had, sending Idle. -/
def State.detecting (s t : State) (l : Nat) : Prop :=
  t.reg 0x4000_02 l = 1 ∧ t.reg 0x4000_03 l = 0 ∧ t.reg 0x4000_06 l = 0xFF ∧ (t.lane l).seed < 2 ^ 31 ∧
    (t.lane l).fails = (s.lane l).fails ∧ (t.lane l).solo = .no ∧ (t.blocksOf l).head? = some idleBlock

theorem State.detecting.sameLane (h : s.detecting t l) (hsame : t.sameLane u l) : s.detecting u l := by
  obtain ⟨hreg, hlane, hsent⟩ := hsame
  unfold State.detecting at *
  rwa [hreg, hreg, hreg, hlane, hsent]

theorem State.detectLane_detecting {seed : Nat} (hl : l < 52) (hseed : seed < 2 ^ 31) (hsolo : (t.lane l).solo = .no)
    (hfails : (t.lane l).fails = (s.lane l).fails) : s.detecting (t.detectLane seed l) l := by
  obtain ⟨hstate, hrate, hnumber⟩ := t.detectRegs_reg 0 hl
  unfold State.detectLane
  simp only [hsolo, hfails, reduceCtorEq, if_false]
  obtain ⟨z, hlane⟩ := State.sendBlock_lane ((t.detectRegs l 0).setLane l
    { since := t.now, fails := (s.lane l).fails, seed := seed, solo := .no, scram := (t.lane l).scram }) l idleBlock
  rw [State.lane_setLane_same] at hlane
  refine ⟨hstate, hrate, hnumber, ?_, ?_, ?_, ?_⟩
  · rwa [hlane]
  · rw [hlane]
  · rw [hlane]
  · rw [State.sendBlock_blocksOf_same]
    rfl

theorem State.foldl_detectLane_detecting {ls : List Nat} {seed : Nat} (hls : ∀ k ∈ ls, k < 52) (hl : l ∈ ls) (hseed : seed < 2 ^ 31)
    (hsolo : (s.lane l).solo = .no) : s.detecting (ls.foldl (State.detectLane seed) s) l := by
  refine foldl_reaches (Q := fun t : State => (t.lane l).solo = .no ∧ (t.lane l).fails = (s.lane l).fails)
    (R := fun t : State => s.detecting t l) hl ?_ ?_ ?_ ?_ ⟨hsolo, rfl⟩
  · rintro t hkept k hk hne
    obtain ⟨-, hlane, -⟩ := t.sameLane_detectLane seed hne.symm (hls l hl) (hls k hk)
    exact hlane ▸ hkept
  · exact fun t ⟨hsolo, hfails⟩ => State.detectLane_detecting (hls l hl) hseed hsolo hfails
  · exact fun t h k hk hne => h.sameLane (t.sameLane_detectLane seed hne.symm (hls l hl) (hls k hk))
  · exact fun t ⟨_, _, _, _, hfails, hsolo, _⟩ => ⟨hsolo, hfails⟩

/-- As lanes return to Detect, their registers, their own states and what is sent change, and nothing else. -/
theorem State.foldl_detectLane_frame (s : State) (seed : Nat) (ls : List Nat) :
    ∃ regs lanes sent, ls.foldl (State.detectLane seed) s = { s with regs := regs, lanes := lanes, sent := sent } := by
  refine List.foldlRecOn (motive := fun t : State => ∃ regs lanes sent, t = { s with regs := regs, lanes := lanes, sent := sent })
    ls _ ⟨s.regs, s.lanes, s.sent, rfl⟩ ?_
  rintro _ ⟨regs, lanes, sent, rfl⟩ k -
  exact ⟨_, _, _, rfl⟩

theorem State.foldl_detectLane_entries {ls : List Nat} (hls : ∀ k ∈ ls, k < 52) (seed : Nat) :
    s.entriesBut (ls.foldl (State.detectLane seed) s) [0x4000_02, 0x4000_03, 0x4000_06, 0x4000_0F] := by
  refine List.foldlRecOn (motive := fun t : State => s.entriesBut t [0x4000_02, 0x4000_03, 0x4000_06, 0x4000_0F]) ls _
    (s.entriesBut_refl _) ?_
  intro t h k hk
  have hpart : k < 65536 := (hls k hk).trans (by decide)
  exact (((h.setReg (by decide) hpart _).setReg (by decide) hpart _).setReg (by decide) hpart _).setReg (by decide) hpart _

/-- The lanes of a lane's port that back off return to Detect together when the back-off of one ends. -/
theorem exec_backOffExpiry {l : Fin 52} (hl : s.live = true) (hsolo : (s.lane l).solo = .no) (hst : s.reg 0x4000_02 l = 2)
    (hended : (s.lane l).since + s.backOffTime l ≤ s.now) :
    exec (.backOffExpiry l) s = .next (s.detect ((s.laneMates l).filter fun k => s.reg 0x4000_02 k == 2)) := by
  have hoff : ¬ (s.reg 0x4000_02 l != 2 || decide (s.now < (s.lane l).since + s.backOffTime l)) = true := by
    simp [hst, hended]
  rw [exec, execBackOffExpiry, whenLive_next hl, if_neg hoff, if_neg (by simp [hsolo])]

/-! ### Training fails at a rate (R217, R219) -/

/-- A lane brought up alone falls back to a rate that it passed before, which is final, with its preset. -/
def State.fallsBack (s : State) (l r q : Nat) : State :=
  let s1 := s.record 0x091 (some (sw 0x03)) l (s.reg 0x4000_03 l)
  let s2 := (s1.enterLane 6 l).setReg 0x4000_07 l q
  s2.setLane l { s2.lane l with stepTo := some r, finalRate := true, rates := (s.lane l).rates.drop 1 }

theorem State.laneMates_record (s : State) (event : Nat) (code : Option Code) (inst : Nat) (detail : Int) (l : Nat) :
    (s.record event code inst detail).laneMates l = s.laneMates l := by
  obtain ⟨log, sent, h⟩ := s.record_frame event code inst detail false
  rw [h]
  rfl

theorem exec_trainTimeout {l : Fin 52} (hl : s.live = true) (hown : l.val < 48) (hst : s.reg 0x4000_02 l = 4)
    (hlate : (s.lane l).since + 5 * milli ≤ s.now) : exec (.trainTimeout l) s = .next (s.failRate l) := by
  rw [exec, execTrainTimeout, whenLive_next hl, if_pos (State.overdue_of_late hst hown hlate)]

theorem State.failRate_lowest (hown : l < 48) (hsolo : (s.lane l).solo = .no) (hnone : (s.lane l).rates = []) :
    s.failRate l = s.backOff (s.laneMates l) l (sw 0x01) := by
  simp [State.failRate, hsolo, hnone, Nat.not_le.mpr hown]

theorem State.failRate_fallsBack {r q : Nat} {rest : List (Nat × Nat)} (hown : l < 48) (hsolo : (s.lane l).solo = .no)
    (hmates : s.laneMates l = [l]) (hrates : (s.lane l).rates = (r, q) :: rest) : s.failRate l = s.fallsBack l r q := by
  have hlane : (s.record 0x091 (some (sw 0x03)) l (s.reg 0x4000_03 l)).lane l = s.lane l := by
    obtain ⟨log, sent, h⟩ := s.record_frame 0x091 (some (sw 0x03)) l (s.reg 0x4000_03 l) false
    rw [h]
    rfl
  rw [State.failRate, if_neg (by simp [hsolo, Nat.not_le.mpr hown])]
  simp only [hrates, State.laneMates_record, hmates, List.foldl_cons, List.foldl_nil, hlane, List.headD_cons]
  rw [State.fallsBack, hrates]

/-- What is left of a fallback: the lane steps to the earlier rate, with its preset, and the record of it is the newest. -/
theorem State.fallsBack_spec (s : State) {r q : Nat} (hl : l < 52) :
    (s.fallsBack l r q).reg 0x4000_02 l = 6 ∧ (s.fallsBack l r q).reg 0x4000_07 l = q ∧
      s.ledgerBut (s.fallsBack l r q) [regKey 0x4000_02 l, regKey 0x4000_07 l] ∧
      (s.fallsBack l r q).newest 0x091 (some (sw 0x03)) ∧ s.sendsLog (s.fallsBack l r q) ∧
      (s.fallsBack l r q).cells = s.cells ∧ (s.fallsBack l r q).still = s.still := by
  have hpart : l < 65536 := by omega
  have hnewest := s.record_newest 0x091 (some (sw 0x03)) l (s.reg 0x4000_03 l) false
  have hsends := s.record_sendsLog 0x091 (some (sw 0x03)) l (s.reg 0x4000_03 l) false
  obtain ⟨log, sent, hrec⟩ := s.record_frame 0x091 (some (sw 0x03)) l (s.reg 0x4000_03 l) false
  unfold State.fallsBack
  dsimp only
  rw [hrec] at hnewest hsends ⊢
  refine ⟨?_, ?_, ⟨?_, rfl, rfl⟩, ?_, hsends, rfl, rfl⟩
  · exact (State.reg_setReg_key _ _ (by decide) hpart hpart).trans (State.reg_setReg_same ..)
  · exact State.reg_setReg_same ..
  · exact State.regsBut_put (State.regsBut_put (s.regsBut_refl _) rfl (by simp)) rfl (by simp)
  · refine State.newest_congr hnewest rfl rfl ?_
    exact (State.reg_setReg_key _ _ (by decide) hpart (by decide)).trans (State.reg_setReg_key _ _ (by decide) hpart (by decide))

/-- A lane that backs off by itself changes no registers but its state and its rate. -/
theorem State.backOff_alone_regsBut (s : State) (l : Nat) :
    s.regsBut (s.backOff [l] l (sw 0x01)) [regKey 0x4000_02 l, regKey 0x4000_03 l] := by
  rw [State.backOff_eq]
  exact State.regsBut_put (State.regsBut_put (s.regsBut_refl _) rfl (by simp)) (State.recordEvery_regs ..) (by simp)

end

/-- Settles O32: a lane that backs off, or returns to Detect, does so in a list of lanes, in which the others leave it as it is. -/
theorem lanesFallBack : Obligations.LanesFallBack := by
  unfold Obligations.LanesFallBack
  refine ⟨?_, ?_, ?_, ?_, ?_, ?_⟩
  · intro s l hlive hst
    obtain ⟨hstate, hcount, hregs⟩ := s.searchesAgain_reg l.isLt
    obtain ⟨hseen, hacked⟩ := s.searchesAgain_lane l
    obtain ⟨regs, lanes, hframe⟩ := s.searchesAgain_frame l
    refine ⟨_, exec_blockLockLoss hlive hst, hstate, hseen, hacked, hcount, ⟨hregs, ?_, ?_⟩, ?_, ?_, ?_, ?_⟩ <;> rw [hframe] <;> rfl
  · intro s l hlive hown hsolo hmem hmates hst hlate
    obtain ⟨⟨hstate, hrate, hfails, hsince⟩, hentries, hnewest, hsends, hblobs, hshadow, hcells, hstill⟩ :=
      State.backOff_backsOff hmates hmem
    exact ⟨_, exec_detectTimeout hlive hown hsolo hst hlate, hstate, hrate, hfails, hsince, hnewest, hentries, hblobs, hshadow,
      hsends, hcells, hstill⟩
  · intro s l hlive hown hsolo hmem hmates hst hlate
    obtain ⟨⟨hstate, hrate, hfails, hsince⟩, hentries, hnewest, hsends, hblobs, hshadow, hcells, hstill⟩ :=
      State.backOff_backsOff hmates hmem
    exact ⟨_, exec_exchangeTimeout hlive hown hsolo hst hlate, hstate, hrate, hfails, hsince, hnewest, hentries, hblobs, hshadow,
      hsends, hcells, hstill⟩
  · intro s l hlive hsolo hmem hmates hst hended
    have hwaiting : ∀ k ∈ (s.laneMates l).filter fun k => s.reg 0x4000_02 k == 2, k < 52 := fun k hk =>
      hmates k (List.mem_of_mem_filter hk)
    have hl : l.val ∈ (s.laneMates l).filter fun k => s.reg 0x4000_02 k == 2 := List.mem_filter.mpr ⟨hmem, by simp [hst]⟩
    have hseed : s.draw.1 % 2 ^ 31 < 2 ^ 31 := Nat.mod_lt _ (by decide)
    obtain ⟨hstate, hrate, hnumber, hseeded, hfails, -, hidle⟩ :=
      State.foldl_detectLane_detecting (s := { s with fresh := s.fresh + 1 }) hwaiting hl hseed hsolo
    have hentries := State.foldl_detectLane_entries (s := { s with fresh := s.fresh + 1 }) hwaiting (s.draw.1 % 2 ^ 31)
    obtain ⟨regs, lanes, sent, hframe⟩ := State.foldl_detectLane_frame { s with fresh := s.fresh + 1 } (s.draw.1 % 2 ^ 31)
      ((s.laneMates l).filter fun k => s.reg 0x4000_02 k == 2)
    refine ⟨_, exec_backOffExpiry hlive hsolo hst hended, hstate, hrate, hseeded, hfails, hidle, hnumber, hentries, ?_, ?_, ?_⟩ <;>
      rw [State.detect_eq, hframe] <;> rfl
  · intro s l r q rest hlive hown hsolo hmates hst hlate hrates
    obtain ⟨hstate, hpreset, hledger, hnewest, hsends, hcells, hstill⟩ := s.fallsBack_spec (r := r) (q := q) l.isLt
    refine ⟨_, (exec_trainTimeout hlive hown hst hlate).trans (by rw [State.failRate_fallsBack hown hsolo hmates hrates]), hstate,
      ?_, ?_, hpreset, ?_, hnewest, hledger, hsends, hcells, hstill⟩ <;> simp [State.fallsBack, hrates]
  · intro s l hlive hown hsolo hmates hst hlate hnone
    obtain ⟨⟨hstate, hrate, -, -⟩, -, -, hsends, hblobs, hshadow, hcells, hstill⟩ :=
      State.backOff_backsOff (s := s) (ls := [l.val]) (l := l) (by simp) (by simp)
    exact ⟨_, (exec_trainTimeout hlive hown hst hlate).trans (by rw [State.failRate_lowest hown hsolo hnone, hmates]), hstate,
      hrate, ⟨s.backOff_alone_regsBut l, hblobs, hshadow⟩, hsends, hcells, hstill⟩

end Sys2Proof.Machine
end

section
/-! PROOFS. The time port of a port that comes up (R221, R275): bringing a port into service follows the port to take time from, and
with none left a locked device loses its time. -/

namespace Sys2Proof.Machine

/-- A lane whose Run entry has ended: it is in service, with a record and a new epoch (R221). -/
def State.inRun (s : State) (l : Nat) : State :=
  let t := (s.enterLane 8 l).setLane l { (s.enterLane 8 l).lane l with fails := 0 }
  (t.record 0x090 (some (sw 0x04)) l (t.reg 0x4000_03 l)).advanceEpoch

/-- The last lane of a port brings the port into service. -/
theorem exec_runEntryDone_lastLane {s : State} {l : Fin 52} {p : Nat} (hl : s.live = true) (hst : s.reg 0x4000_02 l = 7)
    (hown : l.val < 48) (hp : (s.inRun l).portOfLane l = some p) (hdown : (s.inRun l).portInService p = false)
    (hall : ((s.inRun l).portLanes p).all (fun k => (s.inRun l).reg 0x4000_02 k == 8) = true) :
    exec (.runEntryDone l) s = .next ((s.inRun l).portUp p) := by
  have hjoins : ((s.inRun l).reg 0x4400_09 p != 2 && (s.inRun l).reg 0x4400_09 p != 4 &&
      ((s.inRun l).portLanes p).all fun k => (s.inRun l).reg 0x4000_02 k == 8) = true := by
    simpa [State.portInService, hall] using hdown
  rw [exec, execRunEntryDone, whenLive_next hl, if_neg (by simp [hst])]
  dsimp only [State.inRun] at hp hjoins ⊢
  rw [hp, if_neg (Nat.not_le.mpr hown)]
  exact congrArg _ (if_pos hjoins)

/-! ### The refuting state -/

/-- Lane 0 is about to bring port 0 into service, which has no time role. Time is taken from Swage ports and has been locked for 20
seconds, and L:4808.06 names port 1, which is not in service. -/
def timePortIsGone : State :=
  { State.reset with
    regs := [(regKey 0x4000_02 0, 7), (regKey 0x4400_02 0, 1), (regKey 0x4400_09 0, 1), (regKey 0x4800_02 0, 2 ^ 30),
        (regKey 0x4808_01 0, 2), (regKey 0x4808_06 0, 1)] ++ (List.range 24).map fun d => (regKey 0x6400_02 d, 2)
    power := { mgmt := true, booted := true }
    time := { counter := 20000000000, uptime := 20000000000, own := 0, lockedSince := some 0 } }

/-- With port 0 in service no port is left to take time from, and the holdover that follows sets the mean of the rates. -/
theorem timePortIsGone_rate : Tbl.find ((timePortIsGone.inRun 0).portUp 0).regs (regKey 0x4800_02 0) = some 0 := by decide +kernel

/-- Refutes O31: the clause for the last lane of a port says nothing of the port that L:4808.06 names. Where that one is out of
service, and none else serves time, a locked device goes into holdover as the port comes up (R272, R273, R275), which sets the
rate L:4800.02 and with it the offset; the clause has neither change. -/
theorem not_lanesComeUp : ¬ Obligations.LanesComeUp := by
  rintro ⟨-, -, -, -, -, -, -, -, -, -, -, -, hdone, -⟩
  obtain ⟨t, hexec, -, -, -, -, -, -, hentries, -⟩ := hdone timePortIsGone 0 0 (by decide +kernel) (by decide) (by decide +kernel)
    (by decide +kernel) (by decide) (by decide +kernel) (by decide +kernel)
  have ht : t = (timePortIsGone.inRun 0).portUp 0 :=
    Host.Outcome.next.inj (hexec.symm.trans (exec_runEntryDone_lastLane (by decide +kernel) (by decide +kernel) (by decide)
      (by decide +kernel) (by decide +kernel) (by decide +kernel)))
  have hkept : Tbl.find t.regs (regKey 0x4800_02 0) = some (2 ^ 30) := (hentries _ (by decide)).trans (by decide +kernel)
  rw [ht, timePortIsGone_rate] at hkept
  cases hkept

end Sys2Proof.Machine
end

section
/-! PROOFS. The anchor that announces Banked (R230, R250): before its interval is filled, the cells that composition has produced by
then join those that wait. -/

namespace Sys2Proof.Machine

theorem exec_anchorIntervalSend {s : State} {p : Fin 24} (hl : s.live = true) (hup : s.reg 0x4400_09 p = 2) (waiting : Bool) :
    exec (.anchorIntervalSend p waiting) s = .next ((s.feedPort p).sendInterval p waiting) := by
  rw [exec, execAnchorIntervalSend, whenLive_next hl, if_pos hup]

/-! ### The refuting state -/

/-- Port 0, of one lane, is about to announce Banked, and nothing waits on it; output 0 drives it, and has composed a frame of 64 by
16 pixels, which is 17 data cells, none of which waits yet. -/
def frameComposedAsBanks : State :=
  { State.reset with
    regs := [(regKey 0x3400_02 0, 1), (regKey 0x3400_03 0, 1), (regKey 0x3400_04 0, 0), (regKey 0x3400_06 0, 0x8000800400008),
        (regKey 0x3400_08 0, 16), (regKey 0x3400_09 0, 0x10101), (regKey 0x4400_02 0, 1), (regKey 0x4400_09 0, 2)] ++
      (List.range 24).map fun d => (regKey 0x6400_02 d, 2)
    power := { mgmt := true, booted := true }
    time := { counter := 15000000, uptime := 15000000 }
    outputs := [(0, { running := true, trailerDue := true })]
    ports := [(0, { bankReq := true })] }

/-- An interval of one lane takes eight of the cells, so that the port still has some to send and stays in service. -/
theorem frameComposedAsBanks_runs :
    Tbl.find ((frameComposedAsBanks.feedPort 0).sendInterval 0 false).regs (regKey 0x4400_09 0) = some 2 := by
  decide +kernel

/-- Refutes O33: the clause for the anchor that announces Banked asks that no cell waits on the port before the interval, but says
nothing of its outputs' frames in progress. Their cells that composition has produced join the interval first (R250), and where more
of them come than it has slots, the port does not go to Banked (R230). -/
theorem not_lanesRunOnAnchors : ¬ Obligations.LanesRunOnAnchors := by
  rintro ⟨-, hbanks, -⟩
  obtain ⟨t, hexec, hbanked, -⟩ := hbanks frameComposedAsBanks 0 (by decide +kernel) (by decide +kernel) (by decide +kernel)
    (by decide +kernel)
  have ht : t = (frameComposedAsBanks.feedPort 0).sendInterval 0 false :=
    Host.Outcome.next.inj (hexec.symm.trans (exec_anchorIntervalSend (by decide +kernel) (by decide +kernel) false))
  have hruns : t.reg 0x4400_09 0 = 2 := by
    rw [State.reg, ht, frameComposedAsBanks_runs]
  exact absurd (hbanked.symm.trans hruns) (by decide)

end Sys2Proof.Machine
end

section
/-! PROOFS. The retrain of a lane (R234, R236): the number of the spare that takes its place is that of a lane of its port, and
nothing in the state bounds it. -/

namespace Sys2Proof.Machine

/-- The lane that a retrain takes out of service, its place given to a ready spare (R236). -/
def State.retrained (s : State) (p l x : Nat) : State :=
  (((s.clearSpare l 0).setLane l { s.lane l with carries := none }).substituteLane p (s.carried l) l x).advanceEpoch

theorem retrainOp_accepts {s : State} {l p x : Nat} {rest : List Nat} (hp : s.portOfLane l = some p) (hrun : s.reg 0x4000_02 l = 8)
    (hnone : s.anyRetrain = false) (hfree : (s.port p).substReq = none) (hspare : (s.readySpares p).contains l = false)
    (hready : s.readySpares p = x :: rest) (ss : Nat) (v : Val) : retrainOp s ss l v = (s.retrained p l x, .ok) := by
  have hmay : ¬ (s.reg 0x4000_02 l != 8 || s.anyRetrain || (s.port p).substReq.isSome || (s.readySpares p).contains l) = true := by
    rw [hrun, hnone, hfree, hspare]
    decide
  simp only [retrainOp, hp]
  rw [if_neg hmay, hready]
  rfl

/-! ### The refuting state -/

/-- Spare 48 runs for port 0, whose first lane, by L:4400.03, is 2^17 past it and stands as a ready spare. A session is open that
selects lane 48. -/
def portPastLanes : State :=
  { State.reset with
    regs := [(regKey 0x4000_02 48, 8), (regKey 0x400C_02 0, 0), (regKey 0x4400_02 0, 1), (regKey 0x4400_03 0, 2 ^ 17 + 48)] ++
      (List.range 24).map fun d => (regKey 0x6400_02 d, 2)
    acc := { sessions := [{ id := 1, peer := .pcie 0, level := 2, fields := [(0x4000_01, 48)] }] }
    power := { mgmt := true, booted := true }
    lanes := [(2 ^ 17 + 48, { ready := true })] }

/-- The state of spare number 2^17, as L:400C.03 is put for it, lies at L:400C.05. -/
theorem portPastLanes_substitutes :
    Tbl.find ((portPastLanes.touched 1).retrained 0 48 (2 ^ 17 + 48)).regs (regKey 0x400C_05 0) = some 2 := by decide +kernel

/-- Refutes O34: the clause for a retrain says nothing of the number of the spare that takes over. Of a port whose lanes lie past
the 52 that there are, the ready lane's spare state, L:400C.03, and the lane that it replaces, L:400C.04, are put under a number
that is past the part numbers of an entry, and so lie outside the entries that the clause lets change. -/
theorem not_lanesAreTestedAndSwitchedBack : ¬ Obligations.LanesAreTestedAndSwitchedBack := by
  rintro ⟨hretrain, -⟩
  obtain ⟨t, hexec, -, -, -, -, hentries, -⟩ := hretrain portPastLanes 1 1 48 0 (2 ^ 17 + 48) [] (by decide +kernel)
    (by decide +kernel) (by decide +kernel) (by decide +kernel) (by decide +kernel) (by decide +kernel) (by decide +kernel)
    (by decide +kernel) (by decide +kernel) (by decide +kernel)
  have hop : retrainOp (portPastLanes.touched 1) 1 48 (.num 1) = ((portPastLanes.touched 1).retrained 0 48 (2 ^ 17 + 48), .ok) :=
    retrainOp_accepts (rest := []) (by decide +kernel) (by decide +kernel) (by decide +kernel) (by decide +kernel)
      (by decide +kernel) (by decide +kernel) 1 (.num 1)
  have hpart : portPastLanes.partOf 1 0x4000_17 = 48 := by decide +kernel
  have ht : t = ((portPastLanes.touched 1).retrained 0 48 (2 ^ 17 + 48)).reply 1 .ok :=
    Host.Outcome.next.inj (hexec.symm.trans (ledgerWrite_next (by decide +kernel) (by decide +kernel) (hpart ▸ hop) rfl))
  have hkept : Tbl.find t.regs (regKey 0x400C_05 0) = none := (hentries _ (by decide)).trans (by decide +kernel)
  rw [ht, State.reply_regs, portPastLanes_substitutes] at hkept
  cases hkept

end Sys2Proof.Machine
end

section
/-! PROOFS. The fields of a cell (R245): each is read back from where it was put, and the whole passes its check. -/

namespace Sys2Proof.Machine

/-! ### Fields of a byte string -/

theorem slice_append_right {xs : Bytes} {off : Nat} (h : xs.length ≤ off) (ys : Bytes) (len : Nat) :
    slice (xs ++ ys) off len = slice ys (off - xs.length) len := by
  rw [slice, slice, List.drop_append, List.drop_eq_nil_of_le h, List.nil_append]

theorem slice_append_left (xs ys : Bytes) : slice (xs ++ ys) 0 xs.length = xs := List.take_left

theorem field_append_right {xs : Bytes} {off : Nat} (h : xs.length ≤ off) (ys : Bytes) (len : Nat) :
    field (xs ++ ys) off len = field ys (off - xs.length) len := congrArg beNat (slice_append_right h ys len)

/-- A number's bytes read back as what of the number they hold. -/
theorem field_beBytes (len n : Nat) (ys : Bytes) : field (beBytes len n ++ ys) 0 len = n % 256 ^ len := by
  have hslice := slice_append_left (beBytes len n) ys
  rw [beBytes_length] at hslice
  rw [field, hslice, beNat, foldl_beBytes, Nat.zero_mul, Nat.zero_add]

/-! ### The fields of a cell (R245) -/

section
variable (type flags a b : Nat) (payload : Bytes)

@[simp] theorem cellType_cellOf : cellType (cellOf type flags a b payload) = type % 256 := by
  simp [cellType, cellOf, field_beBytes]

@[simp] theorem cellFlags_cellOf : cellFlags (cellOf type flags a b payload) = flags % 256 := by
  simp [cellFlags, cellOf, field_append_right, field_beBytes, beBytes_length]

@[simp] theorem cellA_cellOf : cellA (cellOf type flags a b payload) = a % 2 ^ 32 := by
  simp [cellA, cellOf, field_append_right, field_beBytes, beBytes_length]

@[simp] theorem cellB_cellOf : cellB (cellOf type flags a b payload) = b % 2 ^ 32 := by
  simp [cellB, cellOf, field_append_right, field_beBytes, beBytes_length]

theorem crcTailOk_cellOf : crcTailOk (cellOf type flags a b payload) = true := crcTailOk_append _

variable {payload}

theorem cellOf_length (h : payload.length ≤ 240) : (cellOf type flags a b payload).length = 256 := by
  simp only [cellOf, List.length_append, beBytes_length, List.length_replicate]
  omega

/-- The length field tells the payload from the padding behind it. -/
theorem cellPayload_cellOf (h : payload.length ≤ 240) : cellPayload (cellOf type flags a b payload) = payload := by
  have hlen : field (cellOf type flags a b payload) 2 2 = payload.length := by
    simp only [cellOf, List.append_assoc, field_append_right, field_beBytes, beBytes_length, Nat.reduceLeDiff, Nat.reduceSub]
    omega
  rw [cellPayload, hlen]
  simp [cellOf, slice_append_right, slice_append_left, beBytes_length]

end

/-- Settles O35: each field is put in its own bytes, which hold the whole of a value that fits, and the check is made over the
bytes that it then follows. -/
theorem cellsCarryTheirFields : Obligations.CellsCarryTheirFields := by
  intro type flags a b payload htype hflags ha hb hpayload
  refine ⟨cellOf_length _ _ _ _ hpayload, crcTailOk_cellOf .., ?_, ?_, ?_, ?_, cellPayload_cellOf _ _ _ _ hpayload⟩
  · rw [cellType_cellOf, Nat.mod_eq_of_lt htype]
  · rw [cellFlags_cellOf, Nat.mod_eq_of_lt hflags]
  · rw [cellA_cellOf, Nat.mod_eq_of_lt ha]
  · rw [cellB_cellOf, Nat.mod_eq_of_lt hb]

end Sys2Proof.Machine
end

section
/-! PROOFS. Time cells (R261, R262, R282): what a port of the right trust and role makes of a Sync, a Delay request and a response,
and the count of the cells that its trust does not let in. -/

namespace Sys2Proof.Machine

section
variable {s : State} {p : Nat} {cell b : Bytes}

/-! ### Cells that wait (R244) -/

theorem mem_queueCell_self (w : Waiting) (ws : List Waiting) : w ∈ queueCell w ws := by
  induction ws with
  | nil => exact List.mem_singleton_self w
  | cons x xs ih =>
    rw [queueCell]
    split
    · exact List.mem_cons_self
    · exact List.mem_cons_of_mem x ih

theorem State.mem_queued_sendCell (s : State) (p : Nat) (cell : Bytes) : cell ∈ (s.sendCell p cell).queued p := by
  rw [State.queued, State.sendCell, State.sendCellDue, State.port_setPort_same]
  exact List.mem_map.mpr ⟨_, mem_queueCell_self .., rfl⟩

/-- A cell that waits changes nothing of its port but the cells that wait and the port's idle time. -/
theorem State.port_sendCell_setPort (s : State) (p : Nat) (q : Port) (cell : Bytes) :
    ∃ outbox idle, ((s.setPort p q).sendCell p cell).port p = { q with outbox := outbox, idleSince := idle } := by
  rw [State.sendCell, State.sendCellDue, State.port_setPort_same, State.port_setPort_same]
  exact ⟨_, _, rfl⟩

/-! ### Cells that arrive (R245, R262) -/

theorem State.onCell_arrives {type : Nat} (h : s.cellArrives p cell type) (f : State → State) :
    s.onCell p cell type f = f s := by
  obtain ⟨hport, hlen, hcrc, hreserved, htype⟩ := h
  simp [State.onCell, hport, hlen, hcrc, hreserved, htype]

theorem State.onTime_admits {kind role : Nat} (h : s.cellArrives p cell 3) (htrust : 4 ≤ s.reg 0x4400_05 p)
    (hrole : s.reg 0x4400_06 p = role) (hkind : cellA cell / 2 ^ 24 = kind) (f : State → Bytes → Nat → State) :
    s.onTime p cell kind role f = f s (cellPayload cell) (cellA cell % 65536) := by
  have hmay : ¬ (decide (s.reg 0x4400_05 p < 4) || s.reg 0x4400_06 p != role) = true := by
    simp [hrole, htrust]
  rw [State.onTime, State.onCell_arrives h, if_neg hmay, if_pos hkind]

/-- A time cell on a port of too low a trust is counted and noted. -/
theorem State.onTime_untrusted (h : s.cellArrives p cell 3) (htrust : s.reg 0x4400_05 p < 4) (kind role : Nat)
    (f : State → Bytes → Nat → State) :
    s.onTime p cell kind role f = (s.bump 0x4400_13 p).notePort p (sw 0x18) 0 := by
  have hmay : (decide (s.reg 0x4400_05 p < 4) || s.reg 0x4400_06 p != role) = true := by simp [htrust]
  rw [State.onTime, State.onCell_arrives h, if_pos hmay]

/-! ### The exchange (R262) -/

/-- The port's exchange once a Sync has come: its Delay request waits. -/
def State.syncTaken (s : State) (p : Nat) (b : Bytes) (number : Nat) : State :=
  (s.setPort p { s.port p with
    exch := some (number, field b 0 8, s.wall, s.wall), exchAt := s.now, senderState := some (field b 8 1) }).sendCell p
      (timeCell 2 number (beBytes 8 0))

theorem State.port_syncTaken (s : State) (p : Nat) (b : Bytes) (number : Nat) :
    ∃ outbox idle, (s.syncTaken p b number).port p = { s.port p with
      exch := some (number, field b 0 8, s.wall, s.wall), exchAt := s.now, senderState := some (field b 8 1)
      outbox := outbox, idleSince := idle } := State.port_sendCell_setPort ..

/-- A Sync of the epoch and period in force, where the device's time does not come by Swage, does no more than that. -/
theorem State.takeSync_agrees (hepoch : field b 12 8 = s.reg 0x2800_01) (hnum : field b 20 4 = s.reg 0x2800_02)
    (hden : field b 24 2 = s.reg 0x2800_03) (hsource : s.reg 0x4808_01 ≠ 2) (number : Nat) :
    s.takeSync p b number = s.syncTaken p b number := by
  have hagree : (decide (field b 12 8 = (s.syncTaken p b number).reg 0x2800_01) &&
      decide (field b 20 4 = (s.syncTaken p b number).reg 0x2800_02) &&
      decide (field b 24 2 = (s.syncTaken p b number).reg 0x2800_03)) = true :=
    Bool.and_eq_true_iff.mpr ⟨Bool.and_eq_true_iff.mpr ⟨decide_eq_true hepoch, decide_eq_true hnum⟩, decide_eq_true hden⟩
  have hother : ¬ (decide ((s.syncTaken p b number).reg 0x4808_01 = 2) &&
      decide ((s.syncTaken p b number).reg 0x4808_06 = p)) = true := fun h =>
    hsource (of_decide_eq_true (Bool.and_eq_true_iff.mp h).1)
  unfold State.takeSync
  dsimp only
  rw [← State.syncTaken, if_pos hagree, if_neg hother]

/-- The port once its exchange is complete, with the round trip and the offset that it gave. -/
def State.responseTaken (s : State) (p : Nat) (rtt off : Int) : State :=
  ((s.setPort p { s.port p with exch := none, lastExch := some s.now, timeLost := false }).setRegI 0x4400_16 p 32 rtt).setRegI
    0x4400_17 p 64 off

/-- A response to the exchange in progress, on a port that the device's time does not come by. -/
theorem State.takeResponse_completes {n t1 t2 t3 : Nat} {rtt off : Int} (hp : p < 24)
    (hexch : (s.port p).exch = some (n, t1, t2, t3))
    (hrtt : rtt = toSigned 64 (ofSigned 64 ((field b 0 8 : Int) - t1)) - toSigned 64 (ofSigned 64 ((t3 : Int) - t2)))
    (hoff : off = toSigned 64 (ofSigned 64 ((t2 : Int) - t1)) - (Int.tdiv rtt 2 + s.regI 0x4400_07 p 32))
    (hother : s.reg 0x4808_01 ≠ 2 ∨ s.reg 0x4808_06 ≠ p) :
    s.takeResponse p b n = s.responseTaken p rtt off := by
  have hkept : ∀ key, key ≠ 0x4400_16 → key ≠ 0x4400_17 → (s.responseTaken p rtt off).reg key = s.reg key :=
    fun key h16 h17 => by
      rw [State.responseTaken, State.setRegI, State.reg_setReg_key _ _ h17 (by omega) (by omega), State.setRegI,
        State.reg_setReg_key _ _ h16 (by omega) (by omega), State.setPort_reg]
  have hnot : ¬ (decide ((s.responseTaken p rtt off).reg 0x4808_01 = 2) &&
      decide ((s.responseTaken p rtt off).reg 0x4808_06 = p)) = true := by
    rw [hkept _ (by decide) (by decide), hkept _ (by decide) (by decide), Bool.and_eq_true_iff, decide_eq_true_iff,
      decide_eq_true_iff]
    exact not_and_or.mpr hother
  unfold State.takeResponse
  simp only [hexch, bne_self_eq_false, Bool.false_eq_true, if_false, ← hrtt, ← hoff]
  exact if_neg hnot

theorem State.responseTaken_roundTrip (s : State) (hp : p < 24) (rtt off : Int) :
    (s.responseTaken p rtt off).reg 0x4400_16 p = ofSigned 32 rtt := by
  rw [State.responseTaken, State.setRegI, State.reg_setReg_key _ _ (by decide) (by omega) (by omega)]
  exact State.reg_setReg_same ..

theorem State.responseTaken_ledgerBut (s : State) (p : Nat) (rtt off : Int) :
    s.ledgerBut (s.responseTaken p rtt off) [regKey 0x4400_16 p, regKey 0x4400_17 p] :=
  ⟨State.regsBut_put (u := (s.setPort p _).setRegI 0x4400_16 p 32 rtt) (State.regsBut_put (s.regsBut_refl _) rfl (by simp)) rfl
    (by simp), rfl, rfl⟩

theorem State.port_sendSync (s : State) (p : Nat) :
    ∃ outbox idle, (s.sendSync p).port p = { s.port p with
      exchNo := ((s.port p).exchNo + 1) % 65536, lastExch := some s.now, outbox := outbox, idleSince := idle } :=
  State.port_sendCell_setPort ..

theorem exec_syncSend {p : Fin 24} (hl : s.live = true) (hrole : s.reg 0x4400_06 p = 1) (hserves : s.portInService p = true)
    (hdue : ∀ a, (s.port p).lastExch = some a → a + s.reg 0x4400_08 p * 1000 ≤ s.now) :
    exec (.syncSend p) s = .next (s.sendSync p) := by
  rw [exec, execSyncSend, whenLive_next hl]
  cases hlast : (s.port p).lastExch with
  | none => simp [hrole, hserves]
  | some a => simp [hrole, hserves, hdue a hlast]

theorem exec_delayExchangeTimeout {p : Fin 24} (hl : s.live = true) (hexch : (s.port p).exch.isSome = true)
    (hlate : (s.port p).exchAt + milli ≤ s.now) :
    exec (.delayExchangeTimeout p) s = .next (s.setPort p { s.port p with exch := none }) := by
  rw [exec, execDelayExchangeTimeout, whenLive_next hl]
  simp [hexch, hlate]

theorem exec_timeCell_untrusted {p : Fin 24} {c : Instr} (hl : s.live = true) (h : s.cellArrives p cell 3)
    (htrust : s.reg 0x4400_05 p < 4) (hc : c ∈ [Instr.syncCell p cell, .delayRequestCell p cell, .delayResponseCell p cell]) :
    exec c s = .next ((s.bump 0x4400_13 p).notePort p (sw 0x18) 0) := by
  simp only [List.mem_cons, List.not_mem_nil, or_false] at hc
  obtain rfl | rfl | rfl := hc
  · rw [exec, execSyncCell, whenLive_next hl, State.onTime_untrusted h htrust]
  · rw [exec, execDelayRequestCell, whenLive_next hl, State.onTime_untrusted h htrust]
  · rw [exec, execDelayResponseCell, whenLive_next hl, State.onTime_untrusted h htrust]

end

/-- Settles O38: a cell on a port of the right trust and role acts on the exchange of that port, by one of the lemmas above, and one
that the trust does not let in is counted. -/
theorem timeCellsExchange : Obligations.TimeCellsExchange := by
  refine ⟨?sync, ?request, ?response, ?send, ?timeout, ?untrusted⟩
  case sync =>
    rintro s p cell _ hl harrives htrust hrole hkind rfl hepoch hnum hden hsource
    have hexec : exec (.syncCell p cell) s = .next (s.syncTaken p (cellPayload cell) (cellA cell % 65536)) := by
      rw [exec, execSyncCell, whenLive_next hl, State.onTime_admits harrives htrust hrole hkind,
        State.takeSync_agrees hepoch hnum hden hsource]
    obtain ⟨outbox, idle, hport⟩ := s.port_syncTaken p (cellPayload cell) (cellA cell % 65536)
    exact ⟨_, hexec, by rw [hport], by rw [hport], by rw [hport], State.mem_queued_sendCell .., rfl, rfl, rfl, rfl, rfl, rfl,
      rfl, rfl⟩
  case request =>
    intro s p cell hl harrives htrust hrole hkind
    have hexec : exec (.delayRequestCell p cell) s =
        .next (s.sendCell p (timeCell 3 (cellA cell % 65536) (beBytes 8 s.wall))) := by
      rw [exec, execDelayRequestCell, whenLive_next hl, State.onTime_admits harrives htrust hrole hkind]
    exact ⟨_, hexec, State.mem_queued_sendCell .., rfl, rfl, rfl, rfl, rfl, rfl, rfl, rfl⟩
  case response =>
    rintro s p cell _ t1 t2 t3 rtt off hl harrives htrust hrole hkind rfl hexch hrtt hoff hother
    have hexec : exec (.delayResponseCell p cell) s = .next (s.responseTaken p rtt off) := by
      rw [exec, execDelayResponseCell, whenLive_next hl, State.onTime_admits harrives htrust hrole hkind,
        State.takeResponse_completes p.isLt hexch hrtt hoff hother]
    have hport : (s.responseTaken p rtt off).port p = { s.port p with exch := none, lastExch := some s.now, timeLost := false } :=
      State.port_setPort_same ..
    exact ⟨_, hexec, s.responseTaken_roundTrip p.isLt rtt off, State.reg_setReg_same .., by rw [hport], by rw [hport],
      s.responseTaken_ledgerBut p rtt off, rfl, rfl, rfl, rfl, rfl⟩
  case send =>
    intro s p hl hrole hserves hdue
    obtain ⟨outbox, idle, hport⟩ := s.port_sendSync p
    refine ⟨_, exec_syncSend hl hrole hserves hdue, by rw [hport], by rw [hport],
      ⟨_, State.mem_queued_sendCell .., cellType_cellOf .., ?_⟩, rfl, rfl, rfl, rfl, rfl, rfl, rfl, rfl⟩
    rw [timeCell, cellA_cellOf]
    omega
  case timeout =>
    intro s p hl hexch hlate
    exact ⟨_, exec_delayExchangeTimeout hl hexch hlate, by rw [State.port_setPort_same], rfl, rfl, rfl, rfl, rfl⟩
  case untrusted =>
    intro c s p cell hl harrives htrust hc
    have hexec := exec_timeCell_untrusted hl harrives htrust hc
    obtain ⟨log, sent, hnote⟩ : ∃ log sent, (s.bump 0x4400_13 p).notePort p (sw 0x18) 0 =
        { s.bump 0x4400_13 p with log := log, sent := sent } := (State.recordEvery_logs ..).frame
    rw [hnote] at hexec
    exact ⟨_, hexec, State.reg_setReg_same s .., rfl,
      ⟨State.regsBut_put (s.regsBut_refl _) rfl (by simp), rfl, rfl⟩, rfl, rfl, rfl⟩

end Sys2Proof.Machine
end

section
/-! PROOFS. The trailer of an inbound frame (R249, R254, R255, R300): a frame of which a write still waits for the fabric's grant is
not settled. -/

namespace Sys2Proof.Machine

section
variable {s : State} {f : RxFrame} {slot i : Nat} {cell : Bytes}

/-- A video cell of an accepted stream, other than a header, acts on the source that it belongs to. -/
theorem State.onVideo_acts {p kind : Nat} (h : s.cellArrives p cell 1) (hkind : cellFlags cell = kind) (hhead : kind ≠ 0)
    (hslot : s.slotFor p (cellA cell) = some slot) (g : State → Nat → State) : s.onVideo p cell kind g = g s slot := by
  simp [State.onVideo, State.onCell_arrives h, hkind, hhead, hslot]

/-- While a class B write of the receiver to the Ingot's buffer waits for its grant, the end of the frame leaves the Ingots as they
are (R300). -/
theorem State.endFrame_writeWaits {p : Nat} (hi : s.rxIngot f = some i)
    (hw : s.writeWaits (s.receiverPort p) (s.ingot i).base (s.ingot i).size = true) (marks : Nat) :
    (s.endFrame p f marks).1.ingots = s.ingots := by
  simp only [State.endFrame, hi]
  rw [if_pos (show (s.forgetRx p f).writeWaits ((s.forgetRx p f).receiverPort p) ((s.forgetRx p f).ingot i).base
    ((s.forgetRx p f).ingot i).size = true from hw)]
  rfl

/-- Such a frame's trailer publishes nothing. -/
theorem exec_videoTrailerCell_writeWaits {p : Fin 24} (hl : s.live = true) (h : s.cellArrives p cell 1)
    (hkind : cellFlags cell = 2) (hslot : s.slotFor p (cellA cell) = some slot)
    (hf : (s.port p).rx.find? (fun f => f.slot == slot) = some f) (hi : s.rxIngot f = some i)
    (hw : s.writeWaits (s.receiverPort p) (s.ingot i).base (s.ingot i).size = true) :
    ∃ u, exec (.videoTrailerCell p cell) s = .next u ∧ u.ingots = s.ingots := by
  refine ⟨s.takeTrailer p cell slot, ?_, ?_⟩
  · rw [exec, execVideoTrailerCell, whenLive_next hl, State.onVideo_acts h hkind (by decide) hslot]
  · simp only [State.takeTrailer, hf]
    exact State.endFrame_writeWaits hi hw _

end

/-! ### The refuting state -/

/-- Swage receiver port 24's write of the last line of a frame into the buffer at 0x100000 of DRAM channel 0, which has no grant. -/
def lastStreamWrite : FabItem :=
  { port := 24, target := 0, issued := 768110, since := 768110
    req := { address := 0x100300, beats := 4, write := true, cls := 1, id := 0
             data := List.replicate 256 0, enables := List.replicate 4 (2 ^ 64 - 1) } }

/-- Stream 0's first frame, of five data cells with this content, which have all come into Ingot 0. -/
def frameArrived (content : Bytes) : RxFrame :=
  { slot := 0, stream := 0, seq := 1, ingot := some 0, cells := 5, next := 6, crc := crc32cRun 0xFFFFFFFF content, got := 5
    last := 480100 }

/-- The check that a trailer is held against is that of the content received (R249). -/
theorem frameArrived_check (content : Bytes) : Nat.xor (frameArrived content).crc 0xFFFFFFFF = crc32c content := rfl

/-- What a stream sends of a black frame of 64 by 4 pixels. -/
def blackFrame : Bytes := List.replicate 1024 0

/-- The trailer of that frame, the first of stream 0. -/
def blackFrameTrailer : Bytes := cellOf 1 2 0 6 (beBytes 4 1 ++ beBytes 4 (crc32c blackFrame) ++ beBytes 4 5)

/-- Port 0, of trust 1, is in service and receives stream 0 for source slot 0, into Ingot 0. All data cells of its first frame have
come, and all have been written but the last line, whose write has waited 31.25 ns for the fabric. -/
def lastStreamWriteWaits : State :=
  { State.reset with
    regs := [(regKey 0x4400_02 0, 1), (regKey 0x4400_05 0, 1), (regKey 0x4400_09 0, 2)] ++
      (List.range 24).map fun d => (regKey 0x6400_02 d, 2)
    power := { mgmt := true, booted := true }
    time := { counter := 480100, uptime := 480100 }
    sources := [(0, { id := 1, kind := 2, fmt := 0, rate := 60000, locator := 0, width := 64, height := 4, name := [0x41]
                      ingotCount := 1, memory := 0, upPort := 24, upStream := 0, bases := [0x100000], size := 0x10000 })]
    slots := [(0, { set := [0] })]
    ingots := [(0, { slot := 0, base := 0x100000, size := 0x10000, st := .filling, filler := .port, seq := 1, foreign := true })]
    ports := [(0, { rx := [frameArrived blackFrame] })]
    fabric := { queue := [lastStreamWrite] } }

theorem lastStreamWriteWaits_arrives : lastStreamWriteWaits.cellArrives 0 blackFrameTrailer 1 :=
  ⟨by decide +kernel, cellOf_length _ _ _ _ (by simp [beBytes_length]), crcTailOk_cellOf .., by decide +kernel, cellType_cellOf ..⟩

/-- Refutes O36: the clause for a trailer says nothing of the writes of its frame. While one waits for its grant the frame has not
been written, and may yet be refused whole (R300): it is settled later, and nothing is published now. -/
theorem not_inboundFramesArePublished : ¬ Obligations.InboundFramesArePublished := by
  rintro ⟨-, -, htrailer, -⟩
  have hslot : lastStreamWriteWaits.slotFor 0 (cellA blackFrameTrailer) = some 0 := by decide +kernel
  have hpayload : cellPayload blackFrameTrailer = beBytes 4 1 ++ beBytes 4 (crc32c blackFrame) ++ beBytes 4 5 :=
    cellPayload_cellOf _ _ _ _ (by simp [beBytes_length])
  have hcheck : field (beBytes 4 1 ++ beBytes 4 (crc32c blackFrame) ++ beBytes 4 5) 4 4 = crc32c blackFrame := by
    rw [List.append_assoc, field_append_right (by decide)]
    exact (field_beBytes ..).trans (Nat.mod_eq_of_lt (crc32c_lt blackFrame))
  obtain ⟨t, hexec, hready, -⟩ := htrailer lastStreamWriteWaits 0 blackFrameTrailer _ 0 0 (crc32c blackFrame) _
    (frameArrived blackFrame) (by decide +kernel) lastStreamWriteWaits_arrives (cellFlags_cellOf ..) hslot rfl (by decide +kernel) rfl
    (by decide +kernel) rfl rfl rfl hpayload.symm (frameArrived_check blackFrame).symm (by decide +kernel) (by decide +kernel)
    hcheck rfl
  obtain ⟨u, hwaits, hkept⟩ := exec_videoTrailerCell_writeWaits (s := lastStreamWriteWaits) (p := 0) (i := 0)
    (f := frameArrived blackFrame) (by decide +kernel) lastStreamWriteWaits_arrives (cellFlags_cellOf ..) hslot rfl
    (by decide +kernel) (by decide +kernel)
  obtain rfl : t = u := Host.Outcome.next.inj (hexec.symm.trans hwaits)
  rw [State.ingot, hkept] at hready
  cases hready

end Sys2Proof.Machine
end

section
/-! PROOFS. The wake of the time domain (R278, R288): as grandmaster the device is locked as if on free run, and stays so. -/

namespace Sys2Proof.Machine

/-- The time domain runs again, its counter re-seeded (R288). -/
def State.awakeAt (s : State) (counter : Nat) : State := { s with time := { s.time with counter := counter, running := true } }

@[simp] theorem State.awakeAt_reg (s : State) (counter k i : Nat) : (s.awakeAt counter).reg k i = s.reg k i :=
  State.reg_congr rfl rfl k i

theorem State.awakeAt_own (s : State) (counter : Nat) : (s.awakeAt counter).time.own = s.time.own := rfl

/-- The state once the time domain has woken and the wake is recorded (R288). -/
def State.woken (s : State) (ticks : Nat) : State :=
  (s.awakeAt (s.time.counter + sleepNs ticks)).record 0x0A6 (some (tm 0x0C)) 0 ticks

@[simp] theorem State.woken_reg (s : State) (ticks k i : Nat) : (s.woken ticks).reg k i = s.reg k i := by simp [State.woken]

theorem State.woken_own (s : State) (ticks : Nat) : (s.woken ticks).time.own = s.time.own := by
  rw [State.woken, State.record_time, State.awakeAt_own]

/-- For a grandmaster the wake of the time domain is no more than that: its own state stays (R278, R288). -/
theorem exec_timeDomainWake_grandmaster {s : State} (hl : s.live = true) (hsleeps : s.time.running = false)
    (hself : s.isGrandmaster = true) (ticks : Nat) : exec (.timeDomainWake ticks) s = .next (s.woken ticks) := by
  have hlocked : (decide ((s.woken ticks).reg 0x4808_01 = 0) || (s.woken ticks).isGrandmaster) = true := by
    simp only [State.isGrandmaster, State.woken_reg] at hself ⊢
    rw [hself, Bool.or_true]
  rw [exec, execTimeDomainWake, whenLive_next hl, if_neg (by simp [hsleeps])]
  exact congrArg Host.Outcome.next (if_pos hlocked)

/-! ### The refuting state -/

/-- A locked device that follows PTP has been selected as grandmaster, and its time domain sleeps. -/
def sleepingGrandmaster : State :=
  { State.reset with
    regs := [(regKey 0x4800_06 0, 0), (regKey 0x4810_06 0, 1), (regKey 0x4810_0A 0, 0xFE), (regKey 0x4810_0B 0, clockIdentity)] ++
      (List.range 24).map fun d => (regKey 0x6400_02 d, 2)
    power := { mgmt := true, booted := true }
    time := { running := false, own := 0, lockedSince := some 0 } }

/-- Refutes O40: the clause for the wake asks that the device's own state is unlocked under every source but free run, also where it
is the grandmaster, which is locked as if on free run (R278) and stays so. -/
theorem not_timeStatesFollowTheirSource : ¬ Obligations.TimeStatesFollowTheirSource := by
  rintro ⟨-, -, -, -, -, -, -, hwake⟩
  obtain ⟨t, hexec, -, -, hown, -⟩ := hwake sleepingGrandmaster 32768 (by decide +kernel) rfl
  obtain rfl : sleepingGrandmaster.woken 32768 = t :=
    Host.Outcome.next.inj ((exec_timeDomainWake_grandmaster (by decide +kernel) rfl (by decide +kernel) 32768).symm.trans hexec)
  have hunlocked : sleepingGrandmaster.time.own = 2 := (State.woken_own ..).symm.trans (hown (by decide +kernel))
  cases hunlocked

end Sys2Proof.Machine
end

section
/-! PROOFS. PTP messages (R277, R279): which of them a port takes, what a completed Sync leaves in each delay mode, and the count of
the messages that the device does not support. -/

namespace Sys2Proof.Machine

section
variable {s t : State}

/-- One register is written. -/
theorem State.ledgerBut_put {k v : Nat} (hregs : t.regs = Tbl.put s.regs k v) (hblobs : t.blobs = s.blobs)
    (hshadow : t.shadow = s.shadow) : s.ledgerBut t [k] :=
  ⟨State.regsBut_put (s.regsBut_refl _) hregs (List.mem_singleton_self k), hblobs, hshadow⟩

/-! ### Wall time and the latency constants (R269, R279) -/

/-- Wall time rests on the rate, the offset and the counter. -/
theorem State.wall_congr (hrate : t.reg 0x4800_02 0 = s.reg 0x4800_02 0) (hoffset : t.reg 0x4800_03 0 = s.reg 0x4800_03 0)
    (hcounter : t.time.counter = s.time.counter) : t.wall = s.wall := by
  simp only [State.wall, State.wallAt, State.offset, State.rate, State.regI, hrate, hoffset, hcounter]

/-- A port's egress constant rests on its speed and the constants of that speed. -/
theorem State.egress_congr {port : Nat} (hspeed : t.reg 0x6820_03 port = s.reg 0x6820_03 port)
    (hconst : t.reg (0x4818_03 + 6 * port + s.reg 0x6820_03 port) = s.reg (0x4818_03 + 6 * port + s.reg 0x6820_03 port)) :
    t.egress port = s.egress port := by
  rw [State.egress, hspeed, hconst, State.egress]

theorem State.wall_setReg (s : State) {k : Nat} (hrate : k ≠ 0x4800_02) (hoffset : k ≠ 0x4800_03) (v : Nat) :
    (s.setReg k 0 v).wall = s.wall :=
  State.wall_congr (State.reg_setReg_key _ _ hrate.symm (by decide) (by decide))
    (State.reg_setReg_key _ _ hoffset.symm (by decide) (by decide)) rfl

/-- An entry below the latency constants is none of them. -/
theorem State.egress_setReg_below (s : State) {k port : Nat} (hk : k < 0x4818_03) (hport : port < 65536) (v : Nat) :
    (s.setReg k 0 v).egress port = s.egress port :=
  State.egress_congr (State.reg_setReg_key _ _ (by omega) (by decide) hport)
    (State.reg_setReg_key _ _ (by omega) (by decide) (by decide))

/-! ### Which messages a port takes (R277) -/

theorem State.onPtp_served {port : Nat} {head : PtpHead} (h : s.ptpOn port head) (f : State → State) :
    s.onPtp port head f = f s := by
  obtain ⟨henabled, hlink, hformed, hdomain, htransport⟩ := h
  simp [State.onPtp, henabled, hlink, hformed, hdomain, htransport]

theorem State.onPtp_unsupported {port : Nat} {head : PtpHead} (henabled : bitAt (s.reg 0x4810_01) port = true)
    (hlink : s.reg 0x6820_03 port ≠ 0)
    (hhead : head.formed = false ∨ head.domain ≠ s.reg 0x4810_02 ∨ head.transport ≠ s.reg 0x4810_04) (f : State → State) :
    s.onPtp port head f = s.ptpDiscard port := by
  have hbad : (!head.formed || head.domain != s.reg 0x4810_02 || head.transport != s.reg 0x4810_04) = true := by
    simpa [or_assoc] using hhead
  rw [State.onPtp, if_neg (by simp [henabled, hlink]), if_pos hbad]

theorem State.recordDevice_logs (s : State) (every event : Nat) (code : Option Code) (inst : Nat) (detail : Int) :
    s.logs (s.recordDevice every event code inst detail) := by
  unfold State.recordDevice
  dsimp only
  split
  · refine ⟨_, ?_, .inl rfl⟩
    rfl
  · exact State.recordEvery_logs ..

/-- A message that is discarded is counted, and recorded unless the limit of its event holds it back. -/
theorem State.ptpDiscard_logs (s : State) (port : Nat) : (s.bump 0x4810_0E).logs (s.ptpDiscard port) :=
  State.recordDevice_logs ..

/-! ### A completed Sync (R277) -/

/-- In E2E mode a Delay_Req follows a completed Sync. -/
theorem State.syncComplete_e2e (hmode : s.reg 0x4810_03 = 1) (port seq : Nat) (t1 t2 : Int) :
    s.syncComplete port seq t1 t2 =
      { s with
        time := { s.time with
          lastSync := some s.now, ptpSeq := s.time.ptpSeq + 1
          delaySent := some (seq, t1, t2, (s.wall : Int) + s.egress port) }
        sent := .ptp port 1 seq (ofSigned 64 ((s.wall : Int) + s.egress port)) :: s.sent } := by
  exact if_pos hmode

/-- In P2P mode the link delay that was measured completes the exchange, and the link is measured again. -/
theorem State.syncComplete_p2p (hmode : s.reg 0x4810_03 = 2) {port : Nat} (hport : port < 65536) (seq : Nat) (t1 t2 : Int) :
    s.syncComplete port seq t1 t2 =
      { s.setRegI 0x4810_0C 0 64 (Tbl.get 0 s.time.peerDelay port) with
        time := { s.time with
          lastSync := some s.now, ptpSeq := s.time.ptpSeq + 1
          samples := s.time.samples ++ [t2 - t1 - Tbl.get 0 s.time.peerDelay port]
          pdelaySent := Tbl.put s.time.pdelaySent port (seq, (s.wall : Int) + s.egress port) }
        sent := .ptp port 2 seq (ofSigned 64 ((s.wall : Int) + s.egress port)) :: s.sent } := by
  have hwall := s.wall_setReg (k := 0x4810_0C) (by decide) (by decide) (ofSigned 64 (Tbl.get 0 s.time.peerDelay port))
  have hegress := s.egress_setReg_below (k := 0x4810_0C) (by decide) hport (ofSigned 64 (Tbl.get 0 s.time.peerDelay port))
  have hmode' : s.reg 0x4810_03 ≠ 1 := by omega
  rw [← hwall, ← hegress]
  exact if_neg hmode'

/-! ### The delay of a link (R277) -/

/-- A port's link delay is measured and its Pdelay_Req answered. -/
def State.linkMeasured (s : State) (port : Nat) (d : Int) : State :=
  { s with time := { s.time with
      pdelaySent := Tbl.erase s.time.pdelaySent port, peerDelay := Tbl.put s.time.peerDelay port d } }

/-- A Pdelay_Resp measures its port's link, and L:4810.0C shows the delay where the selected master is on that link. -/
theorem exec_ptpPdelayResp {port : Fin 2} {head : PtpHead} {seq turnaround rx : Nat} {t1 d : Int} (hm : s.managed = true)
    (hon : s.ptpOn port head) (hmode : s.reg 0x4810_03 = 2) (hsent : Tbl.find s.time.pdelaySent port = some (seq, t1))
    (hd : d = Int.tdiv (((rx : Int) - s.ingress port) - t1 - turnaround) 2) (source : Nat) :
    exec (.ptpPdelayResp port head source seq turnaround rx) s =
      .next (if s.fromMaster port source then (s.linkMeasured port d).setRegI 0x4810_0C 0 64 d else s.linkMeasured port d) := by
  rw [exec, execPtpPdelayResp, whenManaged_next hm, State.onPtp_served hon, hd]
  simp only [hsent, hmode, decide_true, Bool.and_true, if_true]
  rfl

end

/-- Settles O41: each message is one that the port takes, and its clause is read off what it makes of the exchange; one that the
device does not support is counted. -/
theorem ptpExchangesMakeSamples : Obligations.PtpExchangesMakeSamples := by
  refine ⟨?twoStep, ?oneStep, ?followUp, ?delayResp, ?delayReq, ?pdelayReq, ?pdelayResp, ?unsupported⟩
  case twoStep =>
    intro s port head source seq origin rx corr hm hon hmaster
    simp only [exec, execPtpSync, whenManaged_next hm, State.onPtp_served hon, hmaster, Bool.not_true, Bool.false_eq_true, if_false,
      if_true]
  case oneStep =>
    intro s port head source seq origin rx corr hm hon hmaster hmode
    have hexec : exec (.ptpSync port head source seq false origin rx corr) s =
        .next (s.syncComplete port seq ((origin : Int) + corr) ((rx : Int) - s.ingress port)) := by
      simp only [exec, execPtpSync, whenManaged_next hm, State.onPtp_served hon, hmaster, Bool.not_true, Bool.false_eq_true,
        if_false]
    rw [State.syncComplete_e2e hmode] at hexec
    exact ⟨_, hexec, rfl, rfl, rfl, rfl, rfl, rfl, rfl, rfl, rfl, rfl⟩
  case followUp =>
    intro s port head source seq origin t2 corr hm hon hmaster hpending hmode
    have hexec : exec (.ptpFollowUp port head source seq origin corr) s =
        .next (State.syncComplete { s with time := { s.time with syncPending := none } } port seq ((origin : Int) + corr) t2) := by
      simp [exec, execPtpFollowUp, whenManaged_next hm, State.onPtp_served hon, hmaster, hpending]
    rw [State.syncComplete_p2p (s := { s with time := { s.time with syncPending := none } }) hmode (by omega)] at hexec
    exact ⟨_, hexec, rfl, rfl, rfl, State.reg_setReg_same .., Tbl.find_put_same .., rfl,
      State.ledgerBut_put rfl rfl rfl, rfl, rfl, rfl⟩
  case delayResp =>
    intro s port head source requester seq rx t1 t2 t3 corr delay hm hon hmaster hsent hrequester hdelay
    have hexec : exec (.ptpDelayResp port head source requester seq rx corr) s =
        .next ((State.setRegI { s with time := { s.time with delaySent := none } } 0x4810_0C 0 64 delay).addSample
          (t2 - t1 - delay)) := by
      simp only [exec, execPtpDelayResp, whenManaged_next hm, State.onPtp_served hon, hmaster, hsent, decide_true, Bool.and_true,
        decide_eq_true hrequester, hdelay, if_true]
    exact ⟨_, hexec, rfl, rfl, State.reg_setReg_same .., State.ledgerBut_put rfl rfl rfl, rfl, rfl,
      rfl, rfl⟩
  case delayReq =>
    intro s port head source seq rx hm hon hsource hself hmode
    simp [exec, execPtpDelayReq, whenManaged_next hm, State.onPtp_served hon, hsource, hself, hmode]
  case pdelayReq =>
    intro s port head source seq rx hm hon hmode
    simp [exec, execPtpPdelayReq, whenManaged_next hm, State.onPtp_served hon, hmode]
  case pdelayResp =>
    intro s port head source seq turnaround rx t1 d hm hon hmode hsent hd
    have hexec := exec_ptpPdelayResp hm hon hmode hsent hd source
    cases hmaster : s.fromMaster port source
    · rw [hmaster, if_neg Bool.false_ne_true] at hexec
      exact ⟨_, hexec, Tbl.find_erase_same .., Tbl.get_put_same .., nofun, rfl, ⟨s.regsBut_refl _, rfl, rfl⟩, rfl, rfl, rfl, rfl⟩
    · rw [hmaster, if_pos rfl] at hexec
      exact ⟨_, hexec, Tbl.find_erase_same .., Tbl.get_put_same .., fun _ => State.reg_setReg_same .., rfl,
        State.ledgerBut_put rfl rfl rfl, rfl, rfl, rfl, rfl⟩
  case unsupported =>
    intro s port head source seq origin rx two corr hm henabled hlink hhead
    have hexec : exec (.ptpSync port head source seq two origin rx corr) s = .next (s.ptpDiscard port) := by
      rw [exec, execPtpSync, whenManaged_next hm, State.onPtp_unsupported henabled hlink hhead]
    have hsends := (s.ptpDiscard_logs port).raisesOnce.sendsLog
    obtain ⟨log, sent, hdiscard⟩ := (s.ptpDiscard_logs port).frame
    rw [hdiscard] at hexec hsends
    exact ⟨_, hexec, State.reg_setReg_same s .., State.ledgerBut_put rfl rfl rfl, hsends, rfl, rfl,
      rfl⟩

end Sys2Proof.Machine
end

section
/-! PROOFS. The selection of a master, the device as grandmaster, and the bridge between the Ethernet ports (R277, R278, R280,
R281). -/

namespace Sys2Proof.Machine

section
variable {s t u : State}

/-! ### A change of the time state (R272, R273) -/

theorem State.logs.entriesBut (h : s.logs t) (es : List Nat) : s.entriesBut t es := by
  obtain ⟨log, sent, rfl⟩ := h.frame
  exact s.entriesBut_refl es

/-- The time state has settled: beside registers, the log, what is sent for it and the free values drawn, only the holdover and the
rates in force have changed, and of the registers those that a change of the time state may write. -/
structure State.TimeSettles (s t : State) : Prop where
  frame : ∃ regs log sent fresh holdoverSince rates, t = { s with
    regs := regs, log := log, sent := sent, fresh := fresh
    time := { s.time with holdoverSince := holdoverSince, rates := rates } }
  entries : s.entriesBut t timeStateEntries
  raises : s.raisesOnce t

theorem State.TimeSettles.refl (s : State) : s.TimeSettles s :=
  ⟨⟨_, _, _, _, _, _, rfl⟩, s.entriesBut_refl _, s.raisesOnce_refl⟩

theorem State.TimeSettles.trans (h : s.TimeSettles t) (h' : t.TimeSettles u) : s.TimeSettles u := by
  obtain ⟨⟨_, _, _, _, _, _, rfl⟩, hentries, hraises⟩ := h
  obtain ⟨⟨regs, log, sent, fresh, since, rates, rfl⟩, hentries', hraises'⟩ := h'
  exact ⟨⟨regs, log, sent, fresh, since, rates, rfl⟩, hentries.trans hentries', hraises.trans hraises'⟩

theorem State.logs.timeSettles (h : s.logs t) : s.TimeSettles t where
  frame := by
    obtain ⟨log, sent, rfl⟩ := h.frame
    exact ⟨_, _, _, _, _, _, rfl⟩
  entries := h.entriesBut _
  raises := h.raisesOnce

theorem State.timeSettles_setReg (s : State) {key inst : Nat} (hk : key ∈ timeStateEntries) (hi : inst < 65536) (v : Nat) :
    s.TimeSettles (s.setReg key inst v) :=
  ⟨⟨_, _, _, _, _, _, rfl⟩, (s.entriesBut_refl _).setReg hk hi v, s.raisesOnce_refl⟩

theorem State.keepHoldover_timeSettles (s : State) (eff : Nat) (entered : Bool) : s.TimeSettles (s.keepHoldover eff entered) :=
  ⟨⟨_, _, _, _, _, _, rfl⟩, s.entriesBut_refl _, s.raisesOnce_refl⟩

theorem State.changeRate_timeSettles (s : State) (v : Nat) : s.TimeSettles (s.changeRate v) :=
  ⟨⟨_, _, _, _, _, _, rfl⟩, ((s.entriesBut_refl _).setReg (by decide) (by decide) _).setReg (by decide) (by decide) _,
    s.raisesOnce_refl⟩

/-- The mean rate may draw a free value (R273). -/
theorem State.meanRate_timeSettles (s : State) : s.TimeSettles s.meanRate.2 := by
  have hdraw : s.TimeSettles s.draw.2 := ⟨⟨_, _, _, _, _, _, rfl⟩, s.entriesBut_refl _, s.raisesOnce_refl⟩
  simp only [State.meanRate]
  split
  · exact .refl s
  · split
    · exact .refl s
    · exact hdraw

theorem State.setReady_timeSettles (s : State) {bit : Nat} (hb : bit < 65536) : s.TimeSettles (s.setReady bit) := by
  unfold State.setReady
  split
  · exact .refl s
  · exact ((s.timeSettles_setReg (by decide) (by decide) _).trans (State.timeSettles_setReg _ (by decide) hb _)).trans
      (State.record_logs ..).timeSettles

theorem State.TimeSettles.ite {c : Prop} [Decidable c] (h : s.TimeSettles t) : s.TimeSettles (if c then t else s) := by
  split
  · exact h
  · exact .refl s

/-- The steps of a change in turn: the holdover, the state, on entry to holdover the mean rate, the record, and readiness. -/
theorem State.settleTime_timeSettles (s : State) (c : Code) (entered : Bool) : s.TimeSettles (s.settleTime c entered) := by
  have hrate : ∀ v : State, v.TimeSettles (v.meanRate.2.changeRate v.meanRate.1) := fun v =>
    v.meanRate_timeSettles.trans (State.changeRate_timeSettles ..)
  have hready : ∀ v : State, v.TimeSettles (v.setReady 6) := fun v => v.setReady_timeSettles (by decide)
  refine (s.keepHoldover_timeSettles (max s.time.own s.senderState) entered).trans ?_
  unfold State.settleTime
  dsimp only
  split
  · exact .refl _
  · exact (((State.timeSettles_setReg _ (by decide) (by decide) _).trans (.ite (hrate _))).trans
      (State.record_logs ..).timeSettles).trans (.ite (hready _))

/-- A device that is locked has settled with its own state at 0 and its counts toward a change at their start (R272). -/
theorem State.lockTime_settles (s : State) : ∃ lockedSince good bad rateAtLock,
    State.TimeSettles { s with time := { s.time with
      own := 0, lockedSince := lockedSince, good := good, bad := bad, rateAtLock := rateAtLock } } s.lockTime := by
  by_cases hown : s.time.own = 0
  · rw [State.lockTime, if_pos hown]
    refine ⟨s.time.lockedSince, s.time.good, s.time.bad, s.time.rateAtLock, ?_⟩
    rw [← hown]
    exact .refl s
  · rw [State.lockTime, if_neg hown]
    exact ⟨_, _, _, _, State.settleTime_timeSettles ..⟩

/-! ### The selection of a master (R278) -/

/-- The entries that show the master, and those of the time state. -/
def masterEntries : List Nat := [0x4810_0A, 0x4810_0B] ++ timeStateEntries

/-- A selection: beside registers, the log, what is sent for it and the free values drawn, only the time unit changes, but not in
the masters that have been heard. -/
structure State.Selects (s t : State) : Prop where
  frame : ∃ regs log sent fresh time,
    t = { s with regs := regs, log := log, sent := sent, fresh := fresh, time := time } ∧
      time.masters = s.time.masters ∧ time.lastAnnounce = s.time.lastAnnounce
  entries : s.entriesBut t masterEntries
  raises : s.raisesOnce t

theorem State.Selects.trans (h : s.Selects t) (h' : t.Selects u) : s.Selects u := by
  obtain ⟨⟨_, _, _, _, _, rfl, hmasters, hannounce⟩, hentries, hraises⟩ := h
  obtain ⟨⟨regs, log, sent, fresh, time, rfl, hmasters', hannounce'⟩, hentries', hraises'⟩ := h'
  exact ⟨⟨regs, log, sent, fresh, time, rfl, hmasters'.trans hmasters, hannounce'.trans hannounce⟩, hentries.trans hentries',
    hraises.trans hraises'⟩

theorem State.selects_setReg (s : State) {key : Nat} (hk : key ∈ masterEntries) (v : Nat) : s.Selects (s.setReg key 0 v) :=
  ⟨⟨_, _, _, _, _, rfl, rfl, rfl⟩, (s.entriesBut_refl _).setReg hk (by decide) v, s.raisesOnce_refl⟩

theorem State.lockTime_selects (s : State) : s.Selects s.lockTime := by
  obtain ⟨_, _, _, _, ⟨⟨_, _, _, _, _, _, hlock⟩, hentries, hraises⟩⟩ := s.lockTime_settles
  exact ⟨⟨_, _, _, _, _, hlock, rfl, rfl⟩, State.entriesBut.mono hentries (List.subset_append_right ..), hraises⟩

theorem State.lockTime_own (s : State) : s.lockTime.time.own = 0 := by
  obtain ⟨_, _, _, _, ⟨⟨_, _, _, _, _, _, hlock⟩, -, -⟩⟩ := s.lockTime_settles
  rw [hlock]

/-- The registers that show the master name this one. -/
def State.shows (s : State) (m : Master) : Prop := s.reg 0x4810_0A 0 = m.port ∧ s.reg 0x4810_0B 0 = m.id

theorem State.lockTime_shows {m : Master} (h : s.shows m) : s.lockTime.shows m := by
  obtain ⟨_, _, _, _, ⟨⟨_, _, _, _, _, _, hlock⟩, hentries, -⟩⟩ := s.lockTime_settles
  have hsources : s.lockTime.sources = s.sources := by rw [hlock]
  obtain ⟨hport, hid⟩ := h
  exact ⟨(State.entriesBut.reg hentries hsources (by decide) (by decide)).trans hport,
    (State.entriesBut.reg hentries hsources (by decide) (by decide)).trans hid⟩

/-- The state once L:4810.0A and .0B name a master; its Syncs count from now where it was not selected before. -/
def State.following (s : State) (m : Master) : State :=
  let s0 : State := if s.reg 0x4810_0A != m.port || s.reg 0x4810_0B != m.id then
    { s with time := { s.time with lastSync := some s.now } } else s
  (s0.setReg 0x4810_0A 0 m.port).setReg 0x4810_0B 0 m.id

theorem State.following_shows (s : State) (m : Master) : (s.following m).shows m :=
  ⟨(State.reg_setReg_key _ _ (by decide) (by decide) (by decide)).trans (State.reg_setReg_same ..), State.reg_setReg_same ..⟩

theorem State.following_selects (s : State) (m : Master) : s.Selects (s.following m) := by
  have hregs : ∀ v : State, v.Selects ((v.setReg 0x4810_0A 0 m.port).setReg 0x4810_0B 0 m.id) := fun v =>
    (v.selects_setReg (by decide) _).trans (State.selects_setReg _ (by decide) _)
  have hsync : s.Selects { s with time := { s.time with lastSync := some s.now } } :=
    ⟨⟨_, _, _, _, _, rfl, rfl, rfl⟩, s.entriesBut_refl _, s.raisesOnce_refl⟩
  unfold State.following
  dsimp only
  split
  · exact hsync.trans (hregs _)
  · exact hregs s

/-- The masters that compete: those heard and, where it is capable, the device itself. -/
def State.candidates (s : State) : List Master := s.time.masters ++ if s.flag 0x4810_06 then [s.ownMaster] else []

theorem State.selectMaster_otherSource (h : s.reg 0x4808_01 ≠ 1) : s.selectMaster = s := by
  rw [State.selectMaster, if_pos (by simpa using h)]

theorem State.selectMaster_none (h : s.reg 0x4808_01 = 1) (hbest : bestMaster s.candidates = none) :
    s.selectMaster = (s.setReg 0x4810_0A 0 0xFF).setReg 0x4810_0B 0 0 := by
  rw [State.selectMaster, if_neg (by simp [h])]
  dsimp only
  rw [← State.candidates, hbest]

theorem State.selectMaster_some {m : Master} (h : s.reg 0x4808_01 = 1) (hbest : bestMaster s.candidates = some m) :
    s.selectMaster = if m.port = 0xFE then (s.following m).lockTime else s.following m := by
  rw [State.selectMaster, if_neg (by simp [h])]
  dsimp only
  rw [← State.candidates, hbest]
  rfl

theorem State.selectMaster_selects (s : State) : s.Selects s.selectMaster := by
  by_cases h : s.reg 0x4808_01 = 1
  · cases hbest : bestMaster s.candidates with
    | none =>
      rw [State.selectMaster_none h hbest]
      exact (s.selects_setReg (by decide) _).trans (State.selects_setReg _ (by decide) _)
    | some m =>
      rw [State.selectMaster_some h hbest]
      split
      · exact (s.following_selects m).trans (State.lockTime_selects _)
      · exact s.following_selects m
  · rw [State.selectMaster_otherSource h]
    exact ⟨⟨_, _, _, _, _, rfl, rfl, rfl⟩, s.entriesBut_refl _, s.raisesOnce_refl⟩

/-- The best master is shown, and the device is locked where that is itself. -/
theorem State.selectMaster_best {m : Master} (h : s.reg 0x4808_01 = 1) (hbest : bestMaster s.candidates = some m) :
    s.selectMaster.shows m ∧ (m.port = 0xFE → s.selectMaster.time.own = 0) := by
  rw [State.selectMaster_some h hbest]
  split
  · exact ⟨State.lockTime_shows (s.following_shows m), fun _ => State.lockTime_own _⟩
  · next hother => exact ⟨s.following_shows m, fun hself => absurd hself hother⟩

/-- The master that an Announce on a port tells of, heard now. -/
def State.heardMaster (s : State) (port source gm p1 p2 cls acc var steps : Nat) : Master :=
  { port := port, id := source, gm := gm, p1 := p1, p2 := p2, cls := cls, acc := acc, var := var, steps := steps, heard := s.now }

/-- An Announce is noted in the place of an earlier one of its master. -/
def State.announced (s : State) (m : Master) : State :=
  { s with time := { s.time with
      lastAnnounce := some s.now
      masters := m :: s.time.masters.filter fun x => !(x.id == m.id && x.port == m.port) } }

theorem exec_ptpAnnounce {port : Fin 2} {head : PtpHead} (hm : s.managed = true) (hon : s.ptpOn port head)
    (source gm p1 p2 cls acc var steps : Nat) :
    exec (.ptpAnnounce port head source gm p1 p2 cls acc var steps) s =
      .next (s.announced (s.heardMaster port source gm p1 p2 cls acc var steps)).selectMaster := by
  rw [exec, execPtpAnnounce, whenManaged_next hm, State.onPtp_served hon]
  rfl

/-! ### The grandmaster's messages (R278) -/

/-- A message of the grandmaster on a port. -/
def State.masterMessage (s : State) (kind seq port : Nat) : Sent :=
  .ptp port kind seq (ofSigned 64 ((s.wall : Int) + s.egress port)) (s.announceBody kind)

/-- Whether PTP runs on a port: it is enabled and its link is up. -/
def State.ptpRuns (s : State) (port : Nat) : Bool := bitAt (s.reg 0x4810_01) port && s.reg 0x6820_03 port != 0

/-- The grandmaster's message on a port where PTP runs. -/
def State.sendMaster (kind seq : Nat) (s : State) (port : Nat) : State :=
  if s.ptpRuns port then s.send (s.masterMessage kind seq port) else s

/-- The messages go out on all ports of a list on which PTP runs, and nothing else changes. -/
theorem State.sendMaster_foldl (kind seq : Nat) (ports : List Nat) (s : State) : ∃ sent,
    ports.foldl (State.sendMaster kind seq) s = { s with sent := sent } ∧ s.sent ⊆ sent ∧
      ∀ p ∈ ports, s.ptpRuns p = true → s.masterMessage kind seq p ∈ sent := by
  induction ports generalizing s with
  | nil => exact ⟨s.sent, rfl, List.Subset.refl _, nofun⟩
  | cons p ports ih =>
    rw [List.foldl_cons, State.sendMaster]
    split
    · obtain ⟨sent, hrest, hsub, hmem⟩ := ih (s.send (s.masterMessage kind seq p))
      refine ⟨sent, hrest, fun x hx => hsub (List.mem_cons_of_mem _ hx), ?_⟩
      rw [List.forall_mem_cons]
      exact ⟨fun _ => hsub List.mem_cons_self, hmem⟩
    · next hoff =>
      obtain ⟨sent, hrest, hsub, hmem⟩ := ih s
      refine ⟨sent, hrest, hsub, ?_⟩
      rw [List.forall_mem_cons]
      exact ⟨fun hon => absurd hon hoff, hmem⟩

/-- The grandmaster's next message of a kind is numbered, and the next of that kind is due from now. -/
def State.sequenced (s : State) (kind : Nat) : State :=
  { s with time := { s.time with
      ptpSeq := s.time.ptpSeq + 1
      sentSync := if kind = 0 then some s.now else s.time.sentSync
      sentAnnounce := if kind = 0 then s.time.sentAnnounce else some s.now } }

/-- A message of the grandmaster that is due goes out on its ports. -/
theorem State.ptpMasterSend_due {kind : Nat} (hself : s.isGrandmaster = true) (hdue : s.ptpDue kind = true) :
    ∃ sent, s.ptpMasterSend kind = { s.sequenced kind with sent := sent } ∧
      ∀ p < 2, s.ptpRuns p = true → s.masterMessage kind (s.time.ptpSeq % 65536) p ∈ sent := by
  obtain ⟨sent, hsend, -, hmem⟩ := State.sendMaster_foldl kind (s.time.ptpSeq % 65536) (List.range 2) (s.sequenced kind)
  refine ⟨sent, ?_, fun p hp hon => hmem p (List.mem_range.mpr hp) hon⟩
  rw [State.ptpMasterSend, if_pos (Bool.and_eq_true_iff.mpr ⟨hself, hdue⟩)]
  exact hsend

theorem State.isGrandmaster_of (hsource : s.reg 0x4808_01 = 1) (hself : s.reg 0x4810_0A = 0xFE) : s.isGrandmaster = true := by
  simp [State.isGrandmaster, hsource, hself]

theorem State.ptpRuns_of {port : Nat} (henabled : bitAt (s.reg 0x4810_01) port = true) (hlink : s.reg 0x6820_03 port ≠ 0) :
    s.ptpRuns port = true := by simp [State.ptpRuns, henabled, hlink]

/-! ### The bridge (R280, R281) -/

/-- A frame waits for a port of the bridge. -/
def State.etherQueued (s : State) (out : Nat) (f : EthFrame) : State :=
  { s with time := { s.time with
      ether := Tbl.put s.time.ether out
        { Tbl.get {} s.time.ether out with queue := (Tbl.get {} s.time.ether out).queue ++ [f] } } }

@[simp] theorem State.etherQueued_ether (s : State) (out : Nat) (f : EthFrame) :
    Tbl.get {} (s.etherQueued out f).time.ether out =
      { Tbl.get {} s.time.ether out with queue := (Tbl.get {} s.time.ether out).queue ++ [f] } := Tbl.get_put_same ..

@[simp] theorem State.etherQueued_now (s : State) (out : Nat) (f : EthFrame) : (s.etherQueued out f).now = s.now := rfl

/-- A port of the bridge has no frame waiting, and is taken for the time of the one that starts. -/
def State.etherStarted (s : State) (out len : Nat) : State :=
  { s with time := { s.time with
      ether := Tbl.put s.time.ether out { queue := [], busyUntil := s.now + s.frameTime out len } } }

/-- The frame that the bridge takes for its other port. -/
def State.bridged (s : State) (port : Nat) (event : Option Nat) (udp : Bool) (rx : Nat) (fcs : BitVec 32) (frame : Bytes) :
    EthFrame :=
  { event := event, udp := udp, rx := (rx : Int) - s.ingress port, bytes := frame ++ fcsBytes fcs.toNat }

theorem State.drainEther_busy {out : Nat} (h : s.now < (Tbl.get {} s.time.ether out).busyUntil) : s.drainEther out = s := by
  rw [State.drainEther, if_pos h]

/-- The one frame that waits for a free port starts. -/
theorem State.drainEther_single {out : Nat} {f : EthFrame} (hfree : (Tbl.get {} s.time.ether out).busyUntil ≤ s.now)
    (hqueue : (Tbl.get {} s.time.ether out).queue = [f]) :
    s.drainEther out = (s.etherStarted out f.bytes.length).startEther out f := by
  rw [State.drainEther, if_neg (Nat.not_lt.mpr hfree), hqueue]
  cases hevent : f.event <;> simp [hevent, State.etherStarted]

theorem State.startEther_plain {f : EthFrame} (h : f.event = none) (s : State) (out : Nat) :
    s.startEther out f = s.send (.ether out f.bytes 0) := by
  simp only [State.startEther, h]

/-- What a PTP event message is sent with: its residence, and of a Sync in P2P mode the delay of the link it came by (R281). -/
theorem State.startEther_event {f : EthFrame} {k out : Nat} {res add : Int} (hk : k < 4) (h : f.event = some k)
    (hres : res = (s.wall : Int) + s.egress out - f.rx)
    (hadd : add = if k = 0 ∧ s.reg 0x4810_03 = 2 then res + Tbl.get 0 s.time.peerDelay (1 - out) else res) :
    s.startEther out f = (s.setReg 0x4818_10 0 (max (s.reg 0x4818_10) res.toNat)).send
      (.ether out (reseal (addResidence f.bytes f.udp add)) add) := by
  simp only [State.startEther, h, hk, if_true, hadd, hres, Bool.and_eq_true, decide_eq_true_eq]

/-- What the bridge asks of a frame and its ports. -/
def State.forwards (s : State) (port : Fin 2) (dest : BitVec 48) : Prop :=
  s.flag 0x4810_09 = true ∧ dest ≠ Config.macAddress ∧ s.reg 0x6820_03 port ≠ 0 ∧ s.reg 0x6820_03 (1 - port.val) ≠ 0

/-- A frame that is no PTP frame waits for the other port, and starts where that is free. -/
theorem exec_ethernetFrameForward_plain {port : Fin 2} {dest : BitVec 48} (hl : s.live = true) (h : s.forwards port dest)
    (udp : Bool) (rx : Nat) (fcs : BitVec 32) (frame : Bytes) :
    exec (.ethernetFrameForward port dest none udp rx fcs frame) s =
      .next ((s.etherQueued (1 - port.val) (s.bridged port none udp rx fcs frame)).drainEther (1 - port.val)) := by
  obtain ⟨hbridge, hdest, hport, hout⟩ := h
  rw [exec, execEthernetFrameForward, whenLive_next hl]
  dsimp only
  rw [if_neg (by simp [hbridge, hdest, hport, hout])]
  rfl

/-- The link of a port is measured again, or not. -/
def State.remeasured (s : State) (again : Bool) (port : Nat) : State :=
  if again then s.measureLink port (s.time.ptpSeq % 65536) else s

/-- A PTP frame is counted before it starts, and the link that it came by may be measured again, as for a Sync in P2P mode. -/
theorem exec_ethernetFrameForward_event {port : Fin 2} {dest : BitVec 48} (hl : s.live = true) (h : s.forwards port dest)
    (k : Nat) (udp : Bool) (rx : Nat) (fcs : BitVec 32) (frame : Bytes) :
    ∃ again, exec (.ethernetFrameForward port dest (some k) udp rx fcs frame) s =
      .next ((((s.etherQueued (1 - port.val) (s.bridged port (some k) udp rx fcs frame)).bump 0x4818_11).remeasured again
        port).drainEther (1 - port.val)) := by
  obtain ⟨hbridge, hdest, hport, hout⟩ := h
  rw [exec, execEthernetFrameForward, whenLive_next hl]
  dsimp only
  rw [if_neg (by simp [hbridge, hdest, hport, hout])]
  exact ⟨_, rfl⟩

/-- The state when a PTP frame starts: it has been counted, and the bridge's frames, the link measured again and what is sent for
that have changed. -/
def State.eventCounted (s : State) (pdelaySent : Tbl (Nat × Int)) (ether : Tbl EthQueue) (sent : List Sent) : State :=
  { s.bump 0x4818_11 with time := { s.time with pdelaySent := pdelaySent, ether := ether }, sent := sent }

theorem State.remeasured_counted (s : State) (out : Nat) (f : EthFrame) (again : Bool) (port : Nat) : ∃ pdelaySent sent,
    ((s.etherQueued out f).bump 0x4818_11).remeasured again port =
      s.eventCounted pdelaySent (s.etherQueued out f).time.ether sent := by
  cases again
  · exact ⟨s.time.pdelaySent, s.sent, rfl⟩
  · exact ⟨_, _, rfl⟩

/-- A PTP frame starts at once on a port that is free. -/
theorem exec_ethernetFrameForward_starts {port : Fin 2} {dest : BitVec 48} (hl : s.live = true) (h : s.forwards port dest)
    (hqueue : (Tbl.get {} s.time.ether (1 - port.val)).queue = [])
    (hfree : (Tbl.get {} s.time.ether (1 - port.val)).busyUntil ≤ s.now) (k : Nat) (udp : Bool) (rx : Nat) (fcs : BitVec 32)
    (frame : Bytes) : ∃ pdelaySent ether sent,
      exec (.ethernetFrameForward port dest (some k) udp rx fcs frame) s =
        .next ((s.eventCounted pdelaySent ether sent).startEther (1 - port.val) (s.bridged port (some k) udp rx fcs frame)) := by
  obtain ⟨again, hexec⟩ := exec_ethernetFrameForward_event hl h k udp rx fcs frame
  have hether := s.etherQueued_ether (1 - port.val) (s.bridged port (some k) udp rx fcs frame)
  rw [hqueue, List.nil_append] at hether
  obtain ⟨pdelaySent, sent, hcounted⟩ :=
    s.remeasured_counted (1 - port.val) (s.bridged port (some k) udp rx fcs frame) again port
  have hstarts := State.drainEther_single (s := s.eventCounted pdelaySent (State.etherQueued ..).time.ether sent)
    ((congrArg EthQueue.busyUntil hether).trans_le hfree) (congrArg EthQueue.queue hether)
  rw [hcounted] at hexec
  exact ⟨pdelaySent, _, sent, hexec.trans (congrArg Host.Outcome.next hstarts)⟩

section
variable (pdelaySent : Tbl (Nat × Int)) (ether : Tbl EthQueue) (sent : List Sent)

theorem State.eventCounted_reg_other (s : State) {k : Nat} (hk : k ≠ 0x4818_11) {inst : Nat} (hi : inst < 65536) :
    (s.eventCounted pdelaySent ether sent).reg k inst = s.reg k inst := State.reg_setReg_key s _ hk (by decide) hi

theorem State.eventCounted_wall (s : State) : (s.eventCounted pdelaySent ether sent).wall = s.wall :=
  State.wall_congr (s.eventCounted_reg_other _ _ _ (by decide) (by decide))
    (s.eventCounted_reg_other _ _ _ (by decide) (by decide)) rfl

/-- The count is none of the latency constants, of which the highest is L:4818.0C. -/
theorem State.eventCounted_egress (s : State) {out : Nat} (hout : out < 2) (hspeed : s.reg 0x6820_03 out ≤ 3) :
    (s.eventCounted pdelaySent ether sent).egress out = s.egress out :=
  State.egress_congr (s.eventCounted_reg_other _ _ _ (by decide) (by omega))
    (s.eventCounted_reg_other _ _ _ (by omega) (by decide))

end

end

/-- Settles O42: an Announce is noted and a master selected by `State.selectMaster_selects` and `State.selectMaster_best`, the
grandmaster's messages go out by `State.ptpMasterSend_due`, and a frame is forwarded as the lemmas of the bridge have it. -/
theorem mastersAreSelectedAndFramesForwarded : Obligations.MastersAreSelectedAndFramesForwarded := by
  refine ⟨?announce, ?syncSend, ?announceSend, ?free, ?busy, ?event⟩
  case announce =>
    intro s port head source gm p1 p2 cls acc var steps hm hon
    have hexec := exec_ptpAnnounce hm hon source gm p1 p2 cls acc var steps
    generalize hm' : s.heardMaster port source gm p1 p2 cls acc var steps = m at hexec
    have hsource : s.reg 0x4808_01 ≠ 1 → (s.announced m).selectMaster.regs = s.regs := fun h => by
      rw [State.selectMaster_otherSource (s := s.announced m) h]
      rfl
    have hbest := fun h b => State.selectMaster_best (s := s.announced m) (m := b) h
    obtain ⟨⟨regs, log, sent, fresh, time, hselect, hmasters, hannounce⟩, hentries, hraises⟩ :=
      (s.announced m).selectMaster_selects
    have hsends := hraises.sendsLog
    rw [hselect] at hexec hsource hbest hentries hsends
    refine ⟨_, m, hexec, hannounce, by rw [hmasters]; rfl, ?_⟩
    subst hm'
    refine ⟨rfl, rfl, rfl, rfl, rfl, rfl, rfl, rfl, rfl, fun h b hb => ?_, hsource, hentries, rfl, rfl, hsends, rfl, rfl⟩
    rw [hmasters] at hb
    obtain ⟨⟨hport, hid⟩, hown⟩ := hbest h b hb
    exact ⟨hport, hid, hown⟩
  case syncSend =>
    intro s hm hsource hself hdue
    obtain ⟨sent, hsend, hmem⟩ := State.ptpMasterSend_due (State.isGrandmaster_of hsource hself) hdue
    have hexec : exec .ptpMasterSyncSend s = .next (s.ptpMasterSend 0) := by
      rw [exec, execPtpMasterSyncSend, whenManaged_next hm]
    rw [hsend] at hexec
    exact ⟨_, hexec, rfl, fun p hp henabled hlink => hmem p hp (State.ptpRuns_of henabled hlink), rfl, rfl, rfl, rfl, rfl, rfl⟩
  case announceSend =>
    intro s hm hsource hself hdue
    obtain ⟨sent, hsend, hmem⟩ := State.ptpMasterSend_due (State.isGrandmaster_of hsource hself) hdue
    have hexec : exec .ptpMasterAnnounceSend s = .next (s.ptpMasterSend 11) := by
      rw [exec, execPtpMasterAnnounceSend, whenManaged_next hm]
    rw [hsend] at hexec
    exact ⟨_, hexec, rfl, fun p hp henabled hlink => hmem p hp (State.ptpRuns_of henabled hlink), rfl, rfl, rfl, rfl, rfl, rfl⟩
  case free =>
    intro s port dest udp rx frame fcs hl hbridge hdest hport hout hqueue hfree
    have hexec := exec_ethernetFrameForward_plain hl ⟨hbridge, hdest, hport, hout⟩ udp rx fcs frame
    rw [State.drainEther_single (f := s.bridged port none udp rx fcs frame) (by simpa using hfree)
      (by simp [hqueue]), State.startEther_plain rfl] at hexec
    exact ⟨_, hexec, rfl, congrArg EthQueue.queue (Tbl.get_put_same ..), rfl, rfl, rfl, rfl, rfl, rfl⟩
  case busy =>
    intro s port dest udp rx frame fcs hl hbridge hdest hport hout hbusy
    have hexec := exec_ethernetFrameForward_plain hl ⟨hbridge, hdest, hport, hout⟩ udp rx fcs frame
    rw [State.drainEther_busy (by simpa using hbusy)] at hexec
    exact ⟨_, hexec, by rw [State.etherQueued_ether]; rfl, rfl, rfl, rfl, rfl, rfl, rfl, rfl⟩
  case event =>
    intro s port dest k udp rx frame fcs res add hl hbridge hdest hport hlow hhigh hqueue hfree hk hres hadd
    obtain ⟨pdelaySent, ether, sent, hexec⟩ :=
      exec_ethernetFrameForward_starts hl ⟨hbridge, hdest, hport, by omega⟩ hqueue hfree k udp rx fcs frame
    have hother : 1 - (1 - port.val) = port.val := by omega
    have hmode := s.eventCounted_reg_other pdelaySent ether sent (k := 0x4810_03) (inst := 0) (by decide) (by decide)
    have hmax := s.eventCounted_reg_other pdelaySent ether sent (k := 0x4818_10) (inst := 0) (by decide) (by decide)
    rw [State.startEther_event (s := s.eventCounted pdelaySent ether sent) (res := res) (add := add) hk rfl
      (by rw [State.eventCounted_wall, s.eventCounted_egress _ _ _ (by omega) hhigh]; exact hres)
      (by rw [hmode, hother]; exact hadd), hmax] at hexec
    refine ⟨_, hexec, rfl, ?_, State.reg_setReg_same .., ⟨?_, rfl, rfl⟩, rfl, rfl, rfl⟩
    · exact (State.reg_setReg_key _ _ (by decide) (by decide) (by decide)).trans (State.reg_setReg_same s ..)
    · exact State.regsBut_put (u := s.bump 0x4818_11) (State.regsBut_put (s.regsBut_refl _) rfl (by simp)) rfl (by simp)

end Sys2Proof.Machine
end

section
/-! PROOFS. What every step keeps of the memory and the fuses (R291, R313, R421), and the step itself. -/

namespace Sys2Proof.Machine

/-- Settles O1: `step` is `exec` on a queue that has a front. -/
theorem stepRunsFrontCommand : Obligations.StepRunsFrontCommand := fun _ _ _ => rfl

/-- What a step keeps: a nanosecond passes, or a command runs from the state without it. -/
theorem step_keeps {s t : State} (h : step s = .next t) : Keeps { s with pending := t.pending } t := by
  unfold step at h
  split at h
  · have hkeeps : Keeps s t := Host.Outcome.next.inj h ▸ State.tick_keeps (Keeps.refl s)
    rwa [hkeeps.pending]
  · next c rest hqueue =>
    have hkeeps : Keeps { s with pending := rest } t := exec_keeps (Keeps.refl _) c t h
    rwa [hkeeps.pending]

/-- Settles O57: every command and the passing of a nanosecond keep the canonical form (`Keeps.mem`). -/
theorem memoryStaysCanonical : Obligations.MemoryStaysCanonical := fun _ _ hwf h => (step_keeps h).mem hwf

/-- Settles O58: every command and the passing of a nanosecond only blow fuses (`Keeps.fuses`, `Keeps.keys`). -/
theorem fusesAreOneWay : Obligations.FusesAreOneWay := fun _ _ h => ⟨(step_keeps h).fuses, (step_keeps h).keys⟩

end Sys2Proof.Machine
end

section
/-! PROOFS. Reset (R388, R394, R395, R398, R437, R445, R446): the state after it, and the balls of each signal group. -/

namespace Sys2Proof.Machine

/-! ### The registers after reset -/

/-- The registers that reset sets are those of the domains' states and of their counts of requests. -/
theorem State.reset_reg {k i : Nat} (hi : i < 65536) (hstate : k ≠ 0x6400_02) (hcount : k ≠ 0x6400_05)
    (hfrozen : ¬(0x2010_01 ≤ k ∧ k ≤ 0x2010_28)) : State.reset.reg k i = entryDefault k i := by
  have hfind : Tbl.find State.reset.regs (regKey k i) = none := by
    simp only [State.reset, Tbl.find, regKey]
    repeat rw [if_neg (by omega)]
  have hrange : (decide (0x2010_01 ≤ k) && decide (k ≤ 0x2010_28)) = false := by
    simpa only [Bool.and_eq_false_iff, decide_eq_false_iff_not, Classical.not_and_iff_not_or_not] using hfrozen
  simp only [State.reg, hfind, hrange, Bool.false_eq_true, if_false]

/-- Past the first four domains none is on. -/
theorem State.reset_domain_notOn {d : Nat} (hd : 4 ≤ d) : State.reset.domain d ≠ 2 ∧ State.reset.domain d ≠ 3 := by
  have hdefault : entryDefault 0x6400_02 d = 0 := rfl
  simp only [State.domain, State.reg, State.reset, Tbl.find, regKey]
  rw [if_neg (by omega), if_neg (by omega), if_neg (by omega), if_neg (by omega)]
  split
  · next v hv =>
    split_ifs at hv <;> cases hv <;> decide
  · simp [hdefault]

/-- Past the first four domains none is powered. -/
theorem State.reset_domain_off {d : Nat} (hlo : 4 ≤ d) (hhi : d < 24) : State.reset.domain d = 0 := by
  interval_cases d <;> rfl

/-! ### The balls of a signal group (R445, R446) -/

section
variable {s : State} {g : Signal} {d : Nat}

theorem State.balls_on (hg : g.domain = some d) (hd : s.domain d = 2) : s.balls g = .inUse := by
  simp [State.balls, hg, hd]

/-- Of a domain that is not on, a group's balls tell only whether the domain has ever been on. -/
theorem State.balls_notOn (hg : g.domain = some d) (hon : s.domain d ≠ 2) (hdown : s.domain d ≠ 3) :
    s.balls g = if s.neverOn d then g.inReset else g.whenOff := by
  simp [State.balls, hg, hon, hdown]

/-- A domain that a request has powered since is not one that was never on. -/
theorem State.neverOn_requested (hd : s.domain d = 0) (hcount : s.reg 0x6400_05 d ≠ 0) : s.neverOn d = false := by
  simp [State.neverOn, hd, hcount]

/-- The flash interface alone has balls that differ in reset and with its domain off, and it lies in domain 2. -/
theorem Signal.whenOff_eq_inReset (hg : g.domain = some d) (hd : 4 ≤ d) : g.whenOff = g.inReset := by
  refine if_neg fun hflash => ?_
  subst hflash
  obtain rfl : 2 = d := Option.some.inj hg
  omega

end

/-- Settles O56: the reset state is evaluated where it is concrete; registers by `State.reset_reg`, balls by `State.balls_notOn`. -/
theorem resetIsAsTheTablesSay : Obligations.ResetIsAsTheTablesSay := by
  refine ⟨rfl, rfl, rfl, rfl, rfl, rfl, by decide, by decide, by decide, by decide, by decide, by decide,
    fun d => State.reset_domain_off, fun i => rfl, fun k i hi => State.reset_reg hi, rfl, by unfold State.bounded; decide, fun p hp => absurd hp List.not_mem_nil, ?_,
    fun s g d => State.balls_on, ?_, ?_⟩
  · intro g d hg hd
    obtain ⟨hon, hdown⟩ := State.reset_domain_notOn hd
    rw [State.balls_notOn hg hon hdown, Signal.whenOff_eq_inReset hg hd, ite_self]
  · intro s g d hg hd hcount
    rw [State.balls_notOn hg (by omega) (by omega), State.neverOn_requested hd hcount, if_neg Bool.false_ne_true]
  · intro s hlock
    simp [State.balls, Signal.domain, hlock]

end Sys2Proof.Machine
end

section
/-! PROOFS. Sessions and the requests over them (R374, R409-R412, R417-R420): how a request of a session is served, what a read
returns, how a session opens, is proved, and ends. -/

namespace Sys2Proof.Machine

/-! ### What a change of the sessions leaves alone -/

/-- Only the list of sessions changes. -/
def State.sessionsOnly (s t : State) : Prop := ∃ xs, t = { s with acc := { s.acc with sessions := xs } }

section
variable {s t u : State} {p : Peer} {op ss : Nat} {r : Req} {x y : Session} {e : Entry} {reply : Reply} {last : Bool}

theorem State.sessionsOnly.trans (h : s.sessionsOnly t) (h' : t.sessionsOnly u) : s.sessionsOnly u := by
  obtain ⟨xs, rfl⟩ := h
  obtain ⟨ys, rfl⟩ := h'
  exact ⟨ys, rfl⟩

theorem State.sessionsOnly.frame (h : s.sessionsOnly t) :
    t.regs = s.regs ∧ t.blobs = s.blobs ∧ t.shadow = s.shadow ∧ t.sent = s.sent ∧ t.log = s.log ∧ t.cells = s.cells ∧
      t.still = s.still := by
  obtain ⟨xs, rfl⟩ := h
  exact ⟨rfl, rfl, rfl, rfl, rfl, rfl, rfl⟩

theorem State.sessionsOnly.keys (h : s.sessionsOnly t) : t.keys = s.keys := by
  obtain ⟨xs, rfl⟩ := h
  rfl

theorem State.setSession_sessionsOnly (s : State) (x : Session) : s.sessionsOnly (s.setSession x) := ⟨_, rfl⟩

theorem State.closeSessions_sessionsOnly (s : State) (which : Session → Bool) : s.sessionsOnly (s.closeSessions which) := ⟨_, rfl⟩

theorem State.keepResponse_sessionsOnly (s : State) (ss txn : Nat) (frame : Bytes) :
    s.sessionsOnly (s.keepResponse ss txn frame) := by
  unfold State.keepResponse
  split
  · exact s.setSession_sessionsOnly _
  · exact ⟨s.acc.sessions, rfl⟩

/-! ### How a request of a session is served (R409, R411, R417) -/

/-- A request with the transaction of its session's last response gets that response again. -/
theorem State.repeatedAt_kept {f : Bytes} (hx : s.session? r.session = some x) (hp : x.peer = p)
    (hlast : x.lastTxn = some (r.txn, f)) : s.repeatedAt p r = some (x, f) := by
  simp [State.repeatedAt, hx, hp, hlast]

/-- A command that makes a request, with the controller running. -/
theorem exec_request {c : Instr} (hm : s.managed = true) (hc : exec c s = whenManaged s fun s => s.request p op r)
    (hrequest : s.request p op r = t) : exec c s = .next t := by
  rw [hc, whenManaged_next hm, hrequest]

/-- The operations of a session's request other than a write. -/
theorem sessionOp_known :
    ∀ op ∈ [1, 5, 0x11, 0x12, 0x13], opcodes.contains op = true ∧ op ≠ 0x10 ∧ (op == 2) = false := by
  decide

/-- A request of a session that repeats none is executed once it has arrived, and the session keeps the response. -/
theorem State.serve_session (hvalid : r.valid = true) (hop : op ∈ [1, 5, 0x11, 0x12, 0x13])
    (hb : s.boundSession p op r.session = some x) (hnew : ∀ f, x.lastTxn ≠ some (r.txn, f))
    (hserve : (s.touch x).serveOp { x with lastSent := s.now } op r ((entryAt r.key).filter fun _ => s.serves r.key) =
      (u, reply, last)) :
    s.serve p op r = (u.keepResponse r.session r.txn (responseOf op r r.session reply last),
      responseOf op r r.session reply last) := by
  obtain ⟨hx, -, -⟩ := State.boundSession_spec hb
  obtain ⟨hknown, hopen, -⟩ := sessionOp_known op hop
  unfold State.touch at hserve
  simp only [State.serve, hvalid, hknown, hopen, Bool.not_true, Bool.or_self, Bool.false_eq_true, if_false, State.serveSession,
    State.repeatedAt_new hx hnew, hb, hserve]
  rw [State.session_id hx]

/-- A request that is served and need not wait is answered on the path of its peer. -/
theorem State.request_served {f : Bytes} (hpath : s.pathServed p = true) (hhold : s.mustHold p op r = false)
    (hserve : s.serve p op r = (u, f)) : s.request p op r = u.deliver p f := by
  simp only [State.request, hpath, hhold, hserve, Bool.and_false, Bool.false_eq_true, if_false, if_true]

/-- Such a request is answered on the path of its peer. -/
theorem State.request_session (hpath : s.pathServed p = true) (hvalid : r.valid = true) (hop : op ∈ [1, 5, 0x11, 0x12, 0x13])
    (hb : s.boundSession p op r.session = some x) (hnew : ∀ f, x.lastTxn ≠ some (r.txn, f))
    (hserve : (s.touch x).serveOp { x with lastSent := s.now } op r ((entryAt r.key).filter fun _ => s.serves r.key) =
      (u, reply, last)) :
    s.request p op r = State.deliver (u.keepResponse r.session r.txn (responseOf op r r.session reply last)) p
      (responseOf op r r.session reply last) := by
  obtain ⟨-, -, hwrite⟩ := sessionOp_known op hop
  have hhold : s.mustHold p op r = false := by simp [State.mustHold, hwrite]
  exact State.request_served hpath hhold (State.serve_session hvalid hop hb hnew hserve)

/-- What a request asks of the entry that it names, where that is served. -/
theorem State.servedEntry (he : entryAt r.key = some e) (hs : s.serves r.key = true) :
    ((entryAt r.key).filter fun _ => s.serves r.key) = some e := by
  simp [he, hs]

/-- The session of a response that is kept is there as before, but for the response. -/
theorem State.session_keepResponse (hy : s.session? ss = some y) (txn : Nat) (frame : Bytes) :
    (s.keepResponse ss txn frame).session? ss = some (y.answered txn frame) := by
  rw [State.keepResponse_of_session hy]
  exact State.session_setSession hy rfl

theorem State.keepResponse_of_none (hy : s.session? ss = none) (txn : Nat) (frame : Bytes) :
    s.keepResponse ss txn frame = s := by
  simp [State.keepResponse, hy]

end

/-- Settles O7: of the request, only the idle time of its session is left (`State.touch`). -/
theorem repeatedTransactionIsAnsweredAgain : Obligations.RepeatedTransactionIsAnsweredAgain := by
  intro s p op r x f hvalid hknown hop hx hp hlast
  simp only [State.serve, hvalid, hknown, hop, State.serveSession, State.repeatedAt_kept hx hp hlast]
  rfl

/-! ### Reads (R374, R410, R420) -/

section
variable {s : State} {x : Session} {r : Req} {e : Entry}

/-- A whole value that fits a frame is read at once. -/
theorem segmentOf_whole {value : Bytes} (h : value.length ≤ maxData) :
    segmentOf value 0 = ({ result := value.length, data := value }, true) := by
  simp [segmentOf, slice, List.take_of_length_le h]

/-- A read from offset 0 of an entry that its session may read takes the entry's value. -/
theorem State.serveRead_first (hlevel : s.needs (readLevel r.key) ≤ s.levelOf x) (hacc : e.acc ≠ .wo) (hoff : r.offset = 0)
    (hlen : (s.takeValue x r.key e).2.length ≤ maxData) :
    s.serveRead x r e =
      ((s.takeValue x r.key e).1.setSession { x with snaps := x.otherSnaps (regKey r.key (x.inst r.key)) s.now },
        { result := (s.takeValue x r.key e).2.length, data := (s.takeValue x r.key e).2 }, true) := by
  have hwo : (e.acc == .wo) = false := by simpa using hacc
  simp only [State.serveRead, Nat.not_lt.mpr hlevel, hwo, hoff, segmentOf_whole hlen]
  simp

/-- The value of a number is its bytes, most significant first. -/
theorem State.takeValue_number {n : Nat} (hkey : entryAt r.key = some e) (hty : e.ty.bytes ≠ 0)
    (hval : s.readVal x r.key e = .num n) : s.takeValue x r.key e = (s, beBytes e.ty.bytes n) := by
  have hrecords : r.key ≠ 0x5C20_02 := by
    intro h
    rw [h] at hkey
    obtain rfl : e = _ := (Option.some.inj hkey).symm
    exact hty rfl
  simp [State.takeValue, hrecords, hval, bytesOf]

theorem Ty.bytes_le (t : Ty) : t.bytes ≤ 8 := by cases t <;> decide

/-- The entry of the key records. -/
theorem Req.key_records (r : Req) : Req.key { r with index := 0x5C20, sub := 0x02 } = 0x5C20_02 := by
  unfold Req.key
  dsimp only

/-- The oldest 16 key records are taken from the queue, and the vector is sent again where records are left. -/
theorem State.takeValue_records : s.takeValue x 0x5C20_02 e = (s.takeKeyRecords.2, (s.keys.queue.take 16).flatten) := by
  simp [State.takeValue, State.takeKeyRecords]

theorem State.takeKeyRecords_frame (s : State) : ∃ sent, s.takeKeyRecords.2 =
      { s with keys := { s.keys with queue := s.keys.queue.drop 16 }, sent := sent } ∧
    sent = (if s.keys.queue.length ≤ 16 then s.sent else .msix 64 :: s.sent) := by
  refine ⟨_, ?_, rfl⟩
  by_cases h : s.keys.queue.length ≤ 16
  · simp [State.takeKeyRecords, h]
  · simp [State.takeKeyRecords, h, State.send]

theorem flatten_length_of_uniform {n : Nat} {bs : List Bytes} (h : ∀ b ∈ bs, b.length = n) : bs.flatten.length = bs.length * n := by
  rw [List.length_flatten, List.eq_replicate_of_mem (a := n) (l := bs.map List.length) (by simpa using h)]
  simp

end

/-- Settles O5: each request is served by `State.request_session`; what a read returns is `State.takeValue`. -/
theorem readsAreAnswered : Obligations.ReadsAreAnswered := by
  refine ⟨?number, ?describe, ?records⟩
  case number =>
    intro s p r x e n hm hpath hvalid hb hnew he hs hty hacc hlevel hoff hval
    have hvalue := State.takeValue_number (s := s.touch x) he hty hval
    have hlen := beBytes_length e.ty.bytes n
    have hread := State.serveRead_first (s := s.touch x) (x := { x with lastSent := s.now }) (r := r) (e := e) hlevel hacc hoff
      (by rw [hvalue, hlen]; exact le_trans (Ty.bytes_le _) (by decide))
    rw [hvalue, hlen] at hread
    have hrequest := State.request_session (op := 1) hpath hvalid (by decide) hb hnew
      ((congrArg _ (State.servedEntry he hs)).trans hread)
    exact ⟨_, exec_request hm rfl hrequest,
      (((s.setSession_sessionsOnly _).trans (State.setSession_sessionsOnly _ _)).trans
        (State.keepResponse_sessionsOnly _ r.session r.txn _)).frame⟩
  case describe =>
    intro s p r x e hm hpath hvalid hb hnew he hs
    have hrequest := State.request_session (op := 5) hpath hvalid (by decide) hb hnew (congrArg _ (State.servedEntry he hs))
    exact ⟨_, exec_request hm rfl hrequest, by simp [Entry.descriptor, beBytes_length],
      ((s.setSession_sessionsOnly _).trans (State.keepResponse_sessionsOnly _ r.session r.txn _)).frame⟩
  case records =>
    intro s p r x hm hpath hvalid hb hrecovery hnew hoff hrecords
    have hkey := Req.key_records r
    have hneeds : (s.touch x).needs (readLevel (Req.key { r with index := 0x5C20, sub := 0x02 })) = 0 := by
      rw [hkey]
      exact if_neg (Bool.eq_false_iff.mp hrecovery)
    obtain ⟨e, he, hacc⟩ : ∃ e, entryAt 0x5C20_02 = some e ∧ e.acc ≠ .wo := ⟨_, rfl, by decide⟩
    have hlen : (s.keys.queue.take 16).flatten.length ≤ maxData := by
      have huniform := flatten_length_of_uniform (bs := s.keys.queue.take 16) fun b hb => hrecords b (List.mem_of_mem_take hb)
      have htake := List.length_take_le 16 s.keys.queue
      simp only [maxData]
      omega
    have hread := State.serveRead_first (s := s.touch x) (x := { x with lastSent := s.now })
      (r := { r with index := 0x5C20, sub := 0x02 }) (e := e) (by rw [hneeds]; exact Nat.zero_le _) hacc hoff
      (by rw [hkey, State.takeValue_records]; exact hlen)
    rw [hkey, State.takeValue_records] at hread
    have hrequest := State.request_session (op := 1) (r := { r with index := 0x5C20, sub := 0x02 }) hpath hvalid (by decide) hb hnew
      ((congrArg _ (State.servedEntry (r := { r with index := 0x5C20, sub := 0x02 }) (hkey ▸ he) (by simp [State.serves, hrecovery]))).trans hread)
    obtain ⟨sent, htake, hsent⟩ := (s.touch x).takeKeyRecords_frame
    have hchain := fun t y f => (State.setSession_sessionsOnly t y).trans (State.keepResponse_sessionsOnly _ r.session r.txn f)
    obtain ⟨hregs, hblobs, hshadow, hsame, hlog, hcells, hstill⟩ := (hchain (s.touch x).takeKeyRecords.2 _ _).frame
    refine ⟨_, exec_request hm rfl hrequest, (congrArg (·.queue) (hchain _ _ _).keys).trans ?queue, hsame.trans ?sent, hregs.trans ?regs,
      hblobs.trans ?blobs, hshadow.trans ?shadow, hlog.trans ?log, hcells.trans ?cells, hstill.trans ?still⟩
    case sent => rw [htake]; exact hsent
    all_goals rw [htake]; rfl

/-! ### Opening (R417, R418) -/

/-- Drawing bytes changes nothing but the counter of free values. -/
theorem State.drawBytes_eq (s : State) (n : Nat) :
    (s.drawBytes n).1.length = n ∧ ∃ k, (s.drawBytes n).2 = { s with fresh := k } := by
  induction n generalizing s with
  | zero => exact ⟨rfl, s.fresh, rfl⟩
  | succ n ih =>
    obtain ⟨hlen, k, hk⟩ := ih s.draw.2
    exact ⟨by simp [State.drawBytes, hlen], k, by rw [State.drawBytes, hk]; rfl⟩

section
variable {s u : State} {p : Peer} {ss : Nat} {r : Req} {x y : Session}

/-- A new session is the last of the list, with what the open gives it; a challenge is drawn where its level needs one. -/
theorem State.newSession_eq (s : State) (p : Peer) (level : Nat) (nonce : Bytes) :
    ∃ (x : Session) (k : Nat), s.newSession p level nonce =
        ({ s with acc := { s.acc with sessions := s.acc.sessions ++ [x] }, fresh := k }, x.id, x.challenge) ∧
      x.peer = p ∧ x.level = level ∧ x.pending = s.challenged level ∧
      x.challenge.length = (if s.challenged level then 32 else 0) ∧ x.nonce = nonce := by
  obtain ⟨hlen, k, hk⟩ := s.draw.2.drawBytes_eq 32
  unfold State.newSession
  refine ⟨{ id := s.unusedId 17 (s.draw.1 % 65535 + 1), peer := p, level := level, pending := s.challenged level
            challenge := if s.challenged level then (s.draw.2.drawBytes 32).1 else [], challengeAt := s.now, nonce := nonce
            lastSent := s.now }, if s.challenged level then k else s.draw.2.fresh, ?_, rfl, rfl, rfl, ?_, rfl⟩
  all_goals cases s.challenged level
  · rfl
  · simp only [if_true, hk]
    rfl
  · rfl
  · exact hlen

/-! ### The challenge (R419) -/

/-- The right tag, in time, opens a session with the key slot of its level's key. -/
theorem State.serveRespond_right {k : Bytes} {n : Option Nat} (hlen : r.data.length = 32)
    (htime : s.now ≤ x.challengeAt + 10 * second) (hkey : s.levelKey x.level = some (k, n))
    (htag : hmacSha256 k x.message = r.data) :
    s.serveRespond x r = (s.setSession { x with pending := false, keySlot := n },
      { data := hmacSha256 k (x.nonce ++ x.challenge ++ beBytes 2 x.id) }) := by
  simp [State.serveRespond, hlen, Nat.not_lt.mpr htime, hkey, htag]

theorem State.serveOp_respond {e : Option Entry} {reply : Reply} (h : s.serveRespond x r = (u, reply)) :
    s.serveOp x 0x11 r e = (u, reply, true) := by
  simp only [State.serveOp, h]

/-! ### Ends (R410, R417, R419) -/

/-- The lockouts of a path that have run out are forgotten. -/
theorem exec_lockoutExpiry (path : Fin 5) (hm : s.managed = true) : exec (.lockoutExpiry path) s =
    .next { s with acc := { s.acc with lockedOut := s.acc.lockedOut.filter fun l => l.1 != path || decide (s.now < l.2) } } := by
  rw [exec, execLockoutExpiry, whenManaged_next hm]

/-- A session without the segments whose next one is late; their entries are noted. -/
def Session.dropLate (x : Session) (now : Nat) : Session :=
  { x with
    holds := x.holds.filter fun h => !decide (h.last + segmentGap < now)
    expired := x.expired ++ (x.holds.filter fun h => decide (h.last + segmentGap < now)).map (·.slot) }

theorem State.session_closeSessions (s : State) (ss : Nat) : (s.closeSessions fun y => y.id == ss).session? ss = none := by
  simp [State.session?, State.closeSessions, List.find?_eq_none]

end

/-- Settles O8: an open by `State.newSession_eq`, a tag by `State.serveRespond_right`; what ends is filtered out of its list. -/
theorem sessionsOpenAndClose : Obligations.SessionsOpenAndClose := by
  refine ⟨?opens, ?responds, ?closes, ?keeps, ?idle, ?lockout, ?segment⟩
  case opens =>
    intro s p r hm hpath hvalid hcode
    obtain ⟨x, k, hnew, hpeer, hlevel, hpending, hlen, hnonce⟩ := s.newSession_eq p (field r.data 0 1) (r.data.drop 1)
    have hserve : s.serve p 0x10 r = ({ s with acc := { s.acc with sessions := s.acc.sessions ++ [x] }, fresh := k },
        responseOf 0x10 r x.id { data := x.challenge } true) := by
      simp only [State.serve, hvalid, State.serveOpen, hcode, hnew]
      rfl
    exact ⟨_, x, exec_request hm rfl (State.request_served hpath rfl hserve), rfl, hpeer, hlevel, hpending, hlen,
      hnonce, rfl, rfl, rfl, rfl, rfl, rfl, rfl⟩
  case responds =>
    intro s p r x k n hm hpath hvalid hb hnew hlen htime hkey htag
    obtain ⟨hx, -, -⟩ := State.boundSession_spec hb
    have hright := State.serveRespond_right (s := s.touch x) (x := { x with lastSent := s.now }) hlen htime hkey htag
    refine ⟨_, _, exec_request hm rfl (State.request_session hpath hvalid (by decide) hb hnew (State.serveOp_respond hright)),
      State.session_keepResponse (State.session_setSession
        (y := { x with lastSent := s.now, pending := false, keySlot := n }) (State.session_touch hx) rfl) _ _, rfl, rfl, rfl,
      (((s.setSession_sessionsOnly _).trans (State.setSession_sessionsOnly _ _)).trans
        (State.keepResponse_sessionsOnly _ r.session r.txn _)).frame⟩
  case closes =>
    intro s p r x hm hpath hvalid hb hnew
    obtain ⟨hx, -, -⟩ := State.boundSession_spec hb
    have hserve : (s.touch x).serveOp { x with lastSent := s.now } 0x12 r ((entryAt r.key).filter fun _ => s.serves r.key) =
        ((s.touch x).closeSessions fun y => y.id == r.session, .ok, true) := by
      rw [← State.session_id hx]
      rfl
    have hgone := (s.touch x).session_closeSessions r.session
    refine ⟨_, exec_request hm rfl ((State.request_session hpath hvalid (by decide) hb hnew hserve).trans
      (by rw [State.keepResponse_of_none hgone]; rfl)),
      hgone, ((s.setSession_sessionsOnly _).trans (State.closeSessions_sessionsOnly _ _)).frame⟩
  case keeps =>
    intro s p r x hm hpath hvalid hb hnew
    obtain ⟨hx, -, -⟩ := State.boundSession_spec hb
    refine ⟨_, _, exec_request hm rfl (State.request_session hpath hvalid (by decide) hb hnew rfl),
      State.session_keepResponse (State.session_touch hx) _ _, rfl,
      ((s.setSession_sessionsOnly _).trans (State.keepResponse_sessionsOnly _ r.session r.txn _)).frame⟩
  case idle =>
    intro s ss x hm hx hidle
    exact ⟨_, by simp only [exec, execSessionIdleTimeout, whenManaged_next hm, hx, hidle, if_true], s.session_closeSessions ss,
      (s.closeSessions_sessionsOnly _).frame⟩
  case lockout =>
    intro s path hm hover
    refine ⟨_, exec_lockoutExpiry path hm, ?_, rfl, rfl, rfl, rfl, rfl, rfl, rfl, rfl⟩
    simp only [State.pathLocked, List.any_eq_false, List.mem_filter]
    rintro l ⟨hl, -⟩
    simp only [Bool.and_eq_true, beq_iff_eq, decide_eq_true_eq, not_and, Nat.not_lt]
    exact hover l hl
  case segment =>
    intro s ss x h hm hx hh hlate
    refine ⟨_, _, ?_, State.session_setSession (y := x.dropLate s.now) hx rfl, ?_, ?_, ?_, (s.setSession_sessionsOnly _).frame⟩
    · rw [exec, execSegmentHoldExpiry, whenManaged_next hm, hx]
      rfl
    · simp [Session.dropLate, segmentGap, hlate]
    · exact List.mem_append_right _ (List.mem_map_of_mem (List.mem_filter.mpr ⟨hh, decide_eq_true hlate⟩))
    · intro k hk hsoon
      exact List.mem_filter.mpr ⟨hk, congrArg (!·) (decide_eq_false (Nat.not_lt.mpr hsoon))⟩

end Sys2Proof.Machine
end

section
/-! PROOFS. The scrubber's sectors (R314): a channel's range of addresses holds as many as a density in its entry's range allows,
and no state says that the density in force is one of those. -/

namespace Sys2Proof.Machine

/-- What a sector found uncorrectable leaves at the head of the error log of memory: the target of its address. -/
theorem State.logMemError_location (s : State) {address t : Nat} (ht : targetOf address = some t) (hdram : t < 16)
    (syndrome port : Nat) : ∃ e, (s.logMemError address syndrome port).dram.errors.head? = some e ∧ e.location = t := by
  have hbank : decide (16 ≤ t) = false := by simpa using hdram
  simp only [State.logMemError, ht, hbank, State.recordLimited_dram]
  exact ⟨_, rfl, rfl⟩

/-- A sector that is due, of a channel with nothing to serve, and uncorrectable is logged at its address. -/
theorem exec_scrubRead_uncorrectable {s : State} {c : Fin 16} {sector : Nat} (hlive : s.live = true)
    (hserved : (s.reg 0x5400_02 c != 2 || !s.scrubDue c sector || !(s.itemsAt c).isEmpty || s.reg 0x5400_0F c != 0) = false)
    (corrected : Bool) (syndrome : Nat) : exec (.scrubRead c sector corrected true syndrome) s =
      .next ((s.scrubbedOne c).logMemError (c.val * 2 ^ 32 + sector * 32) (syndrome % 2 ^ 16) 0xFF) := by
  rw [exec, execScrubRead, whenLive_next hlive, if_neg (Bool.eq_false_iff.mp hserved), if_pos rfl]

/-- A running device whose channel 0 has a density of 8 GiB in force, and its scrubber a sector due past the first 4 GiB. -/
def scrubPastRange : State :=
  { State.reset with
    regs := (regKey 0x5400_02 0, 2) :: (List.range 24).map fun d => (regKey 0x6400_02 d, 2)
    dram := { chans := [(0, { density := 8, scrubbed := 2 ^ 27 })] }
    time := { uptime := 2 ^ 60 } }

/-- Refutes O45: the scrubber's clause takes the location of the logged error to be the channel, for every sector of its usable
size; with a density that no channel's range of addresses holds, the sector's address lies in the next channel's, which is logged.
The statement asks of the state only that the sector is due. -/
theorem not_channelsComeAndGo : ¬ Obligations.ChannelsComeAndGo := by
  rintro ⟨hscrub, -⟩
  obtain ⟨t, e, hexec, hhead, hlocation, -⟩ := hscrub scrubPastRange 0 (2 ^ 27) 0 false (by decide +kernel) (by decide +kernel)
    (by decide +kernel) (by decide +kernel) (by decide +kernel)
  obtain ⟨e', hhead', hlocation'⟩ := (scrubPastRange.scrubbedOne (0 : Fin 16)).logMemError_location (t := 1)
    (address := (0 : Fin 16).val * 2 ^ 32 + 2 ^ 27 * 32) (by decide) (by decide) (0 % 2 ^ 16) 0xFF
  rw [exec_scrubRead_uncorrectable (by decide +kernel) (by decide +kernel)] at hexec
  rw [← Host.Outcome.next.inj hexec, hhead'] at hhead
  rw [← Option.some.inj hhead, hlocation'] at hlocation
  exact absurd hlocation (by decide)

end Sys2Proof.Machine
end

section
/-! PROOFS. Check-value units (R380, R383): a unit that stops releases its Ingot, and the release of the last reader of a draining
Ingot is recorded. -/

namespace Sys2Proof.Machine

theorem whenFabric_next {s : State} (hlive : s.live = true) (hworks : s.fabricWorks = true) (f : State → State) :
    whenFabric s f = .next (f s) := by
  simp [whenFabric, hlive, hworks]

/-- A unit's granted burst that may complete is completed. -/
theorem exec_scanBurstDone_ok {s : State} {u : Fin 4} {x : FabItem} {w : Nat} (hlive : s.live = true)
    (hworks : s.fabricWorks = true) (hitem : s.scanItem u = some x) (hgranted : x.granted = some w)
    (hmay : s.mayComplete x = true) : exec (.scanBurstDone u .ok) s = .next (s.completeItem x false) := by
  rw [exec, execScanBurstDone, whenFabric_next hlive hworks]
  simp only [hitem, hgranted, Option.isSome_some, if_true, State.endItem, hmay, Bool.not_true, Bool.false_eq_true, if_false]

/-- The first burst, granted at its bank of Crucible, of a unit's scan of 128 bytes that a boundary of 1 KiB cuts in two. -/
def firstBurst : FabItem :=
  { port := 37, target := 16, req := { address := 0x8000000000 + 960, beats := 1, write := false, cls := 2, id := 0 }
    issued := 0, since := 0, granted := some 0 }

/-- A running device whose unit 0 is to suspend at the end of its burst; it alone still reads an Ingot that the host has released. -/
def suspendReleases : State :=
  { State.reset with
    regs := (regKey 0x6000_07 0, 1) :: (regKey 0x5480_02 0, 1) :: (List.range 24).map fun d => (regKey 0x6400_02 d, 2)
    ingots := [(0, { st := .draining, readers := [unitReader 0], released := true })]
    fabric := { queue := [firstBurst] }
    scans := [(0, { start := 0x8000000000 + 960, len := 128, ingot := some 0, stopReq := 3 })] }

/-- Refutes O54: the clause for a burst's end takes the log to stay as it was, but with a stop asked for the unit leaves its Ingot
there, and as the last reader of one that the host has released it completes the release, which is recorded with E-0x045 (R33,
R383). -/
theorem not_unitsScanTheirRange : ¬ Obligations.UnitsScanTheirRange := by
  rintro ⟨-, -, -, -, hburst, -⟩
  obtain ⟨t, hexec, -, -, -, -, -, -, -, -, -, hlog, -⟩ := hburst suspendReleases 0 firstBurst 0 16 _ (by decide +kernel)
    (by decide +kernel) (by decide +kernel) (by decide +kernel) rfl (by decide +kernel) rfl (by decide +kernel) rfl
    (by decide +kernel) (by decide +kernel) (by decide +kernel) (by decide +kernel) (by decide +kernel)
  rw [exec_scanBurstDone_ok (by decide +kernel) (by decide +kernel) (by decide +kernel : _ = some firstBurst) rfl
    (by decide +kernel)] at hexec
  have hrecord : (suspendReleases.completeItem firstBurst false).log.recs.map (·.event) = [0x045] := by decide +kernel
  rw [Host.Outcome.next.inj hexec, hlog] at hrecord
  exact absurd hrecord (by decide)

end Sys2Proof.Machine
end

section
/-! PROOFS. Requests as bytes (R409, R413): the frame of a request spells it, and the CAN FD frames of a ledger frame, received one
after another, bring it back. -/

namespace Sys2Proof.Machine

/-! ### The ledger frame (R409) -/

theorem field_byte (n : Nat) (ys : Bytes) : field (byte n :: ys) 0 1 = n % 256 := by
  simp [field, slice, beNat, byte]

theorem field_cons (b : Byte) (ys : Bytes) (off len : Nat) : field (b :: ys) (off + 1) len = field ys off len := by
  simp [field, slice]

theorem frameBytes_length (op : Nat) (r : Req) : (frameBytes op r).length = headerLen + r.data.length := by
  simp [frameBytes, beBytes_length, headerLen]
  omega

theorem frameBytes_drop (op : Nat) (r : Req) : (frameBytes op r).drop headerLen = r.data :=
  List.drop_left' (by simp [beBytes_length, headerLen])

/-- A frame that has its header is read as it stands. -/
theorem frameOf_whole {b : Bytes} (h : headerLen ≤ b.length) : frameOf b =
    (field b 1 1, { version := field b 0 1, session := field b 2 2, txn := field b 4 2, index := field b 6 2, sub := field b 8 1
                    flags := field b 9 1, declared := field b 10 2, offset := field b 12 4, reserved := field b 19 1
                    data := b.drop headerLen }) := by
  simp [frameOf, Nat.sub_eq_zero_of_le h, Nat.not_lt.mpr h]

theorem field_append_left {xs : Bytes} {off len : Nat} (h : off + len ≤ xs.length) (ys : Bytes) :
    field (xs ++ ys) off len = field xs off len := by
  have hdrop : len ≤ (xs.drop off).length := by rw [List.length_drop]; omega
  rw [field, field, slice, slice, List.drop_append_of_le_length (by omega), List.take_append_of_le_length hdrop]

/-- Of a frame as long as it declares, only zeros that follow it are cut. -/
theorem trimFrame_append_zeros {b : Bytes} (h : b.length = headerLen + field b 10 2) (z : Nat) :
    trimFrame (b ++ List.replicate z 0) = b := by
  have hfield := field_append_left (xs := b) (off := 10) (len := 2) (by rw [h, headerLen]; omega) (List.replicate z 0)
  have hle : headerLen ≤ (b ++ List.replicate z 0).length := by
    rw [List.length_append, h]
    omega
  simp only [trimFrame, hfield, ← h]
  rw [List.drop_left, List.take_left, if_pos (by rw [decide_eq_true hle]; simp)]

/-- Settles O10: each field is read back from where it was put (`field_append_right`, `field_beBytes`). -/
theorem requestFrameSpellsItsRequest : Obligations.RequestFrameSpellsItsRequest := by
  intro op r hop hwf hlen
  obtain ⟨version, session, txn, index, sub, flags, declared, offset, reserved, data⟩ := r
  simp only [Req.wf, fits, Bool.and_eq_true, decide_eq_true_eq] at hwf
  obtain ⟨⟨⟨⟨⟨⟨⟨⟨hversion, hsession⟩, htxn⟩, hindex⟩, hsub⟩, hflags⟩, hdeclared⟩, hoffset⟩, hreserved⟩ := hwf
  have hlength := frameBytes_length op { version, session, txn, index, sub, flags, declared, offset, reserved, data }
  have hfield : field (frameBytes op { version, session, txn, index, sub, flags, declared, offset, reserved, data }) 10 2 =
      declared := by
    simp [frameBytes, field_append_right, field_cons, field_beBytes, beBytes_length]
    omega
  constructor
  · rw [frameOf_whole (by omega), frameBytes_drop, hfield]
    simp [frameBytes, field_append_right, field_cons, field_byte, field_beBytes, beBytes_length]
    omega
  · have htrim := trimFrame_append_zeros (hlength.trans (by rw [hfield, hlen])) 0
    rwa [List.replicate_zero, List.append_nil] at htrim

/-! ### CAN FD (R413) -/

/-- The first byte of a CAN frame of a ledger frame of `n` parts, of part `k`. -/
def canHead (n k : Nat) : Nat := (if k = 0 then 128 else 0) + (if k + 1 = n then 64 else 0) + k % 64

theorem canHead_bits {n k : Nat} (hk : k < 64) : bitAt (byte (canHead n k)).toNat 7 = decide (k = 0) ∧
    bitAt (byte (canHead n k)).toNat 6 = decide (k + 1 = n) ∧ (byte (canHead n k)).toNat % 64 = k := by
  have hall : ∀ k, k < 64 → ∀ first last : Bool,
      let h := (byte ((if first then 128 else 0) + (if last then 64 else 0) + k % 64)).toNat
      bitAt h 7 = first ∧ bitAt h 6 = last ∧ h % 64 = k := by decide
  have hbits := hall k hk (decide (k = 0)) (decide (k + 1 = n))
  simpa only [decide_eq_true_eq, canHead] using hbits

/-- The part of a ledger frame that a CAN frame carries, with its padding. -/
def canCarried (b : Bytes) : Bytes := (canPadded (0 :: b.take canPart)).drop 1

theorem canPadded_cons (h : Byte) (b : Bytes) : canPadded (h :: b) = h :: (canPadded (0 :: b)).drop 1 := by
  unfold canPadded
  by_cases hlen : b.length + 1 ≤ 8 <;> simp [hlen]

theorem canPayloads_succ (n fuel k : Nat) (b : Bytes) : canPayloads n (fuel + 1) k b =
    (byte (canHead n k) :: canCarried b) :: canPayloads n fuel (k + 1) (b.drop canPart) := by
  rw [canPayloads, canPadded_cons]
  rfl

/-- A whole part needs no padding. -/
theorem canCarried_whole {b : Bytes} (h : canPart ≤ b.length) : canCarried b = b.take canPart := by
  have hlen : (b.take canPart).length = 63 := by rw [List.length_take, Nat.min_eq_left h, canPart]
  simp [canCarried, canPadded, hlen, canSizes]

theorem canCarried_zeros (b : Bytes) : ∃ z, canCarried b = b.take canPart ++ List.replicate z 0 := by
  unfold canCarried canPadded
  split
  · exact ⟨0, by simp⟩
  · exact ⟨_, rfl⟩

/-- The bytes that the CAN frames carry are the ledger frame's, with zeros after them. -/
theorem canPayloads_bytes {n fuel k : Nat} {b : Bytes} (hlo : canPart * fuel < b.length + canPart) (hhi : b.length ≤ canPart * fuel) :
    ∃ z, (canPayloads n fuel k b).flatMap (fun p => p.drop 1) = b ++ List.replicate z 0 := by
  induction fuel generalizing k b with
  | zero => exact ⟨0, by simpa [canPayloads] using hhi⟩
  | succ fuel ih =>
    rw [canPayloads_succ, List.flatMap_cons, List.drop_succ_cons, List.drop_zero]
    have hdrop := List.length_drop (i := canPart) (l := b)
    by_cases hlast : fuel = 0
    · subst hlast
      obtain ⟨z, hz⟩ := canCarried_zeros b
      exact ⟨z, by simp [canPayloads, hz, List.take_of_length_le (show b.length ≤ canPart by omega)]⟩
    · have hwhole : canPart ≤ b.length := by
        have : canPart * 1 ≤ canPart * fuel := Nat.mul_le_mul_left _ (by omega)
        rw [Nat.mul_succ] at hlo
        omega
      rw [Nat.mul_succ] at hlo hhi
      obtain ⟨z, hz⟩ := ih (k := k + 1) (b := b.drop canPart) (by omega) (by omega)
      exact ⟨z, by rw [hz, canCarried_whole hwhole, ← List.append_assoc, List.take_append_drop]⟩
/-! ### The CAN frames received one after another (R413) -/

section
variable {s : State} {c : Fin 2} {ident : BitVec 29} {node : Nat}

/-- A message of a node of which `k` parts have come. -/
def State.canAt (s : State) (node k : Nat) (pre : Bytes) : CanMsg := { node := node, next := k, bytes := pre, last := s.now }

/-- The state with `k` parts of a node's message received. -/
def State.midMessage (s : State) (c : Fin 2) (node k : Nat) (pre : Bytes) : State :=
  if k = 0 then s else s.setCanMsg c node (some (s.canAt node k pre))

theorem State.canMsg_setCanMsg (s : State) (c : Nat) (m : CanMsg) : (s.setCanMsg c m.node (some m)).canMsg c m.node = some m := by
  have hnone : (s.acc.can.filter fun p => !(p.1 == c && p.2.node == m.node)).find? (fun p => p.1 == c && p.2.node == m.node) = none := by
    rw [List.find?_eq_none]
    intro p hp
    exact Bool.eq_false_iff.mp (Bool.not_eq_true' _ ▸ (List.mem_filter.mp hp).2)
  rw [State.canMsg, State.setCanMsg]
  simp only [List.find?_append, hnone]
  simp

theorem State.setCanMsg_setCanMsg (s : State) (c node : Nat) (m : CanMsg) (hm : m.node = node) (x : Option CanMsg) :
    (s.setCanMsg c node (some m)).setCanMsg c node x = s.setCanMsg c node x := by
  simp [State.setCanMsg, hm, List.filter_append, List.filter_filter]

/-- Without a message of a node in progress there is none to take away. -/
theorem State.setCanMsg_none (h : s.canMsg c node = none) : s.setCanMsg c node none = s := by
  have hrest : s.acc.can.filter (fun p => !(p.1 == c.val && p.2.node == node)) = s.acc.can := by
    rw [List.filter_eq_self]
    intro p hp
    simp only [State.canMsg, Option.map_eq_none_iff, List.find?_eq_none] at h
    rw [Bool.not_eq_true', Bool.eq_false_iff]
    exact h p hp
  simp only [State.setCanMsg, hrest, Option.toList_none, List.map_nil, List.append_nil]

/-- What a part does does not depend on what is held of its node's message. -/
theorem State.addCanPart_midMessage (m : CanMsg) (k : Nat) (pre : Bytes) (last : Bool) (part : Bytes)
    (hfit : last = false → (m.bytes ++ part).length ≤ headerLen + maxData) :
    (s.midMessage c node k pre).addCanPart c node m last part = s.addCanPart c node m last part := by
  unfold State.midMessage
  split
  · rfl
  · have hput := s.setCanMsg_setCanMsg c node (s.canAt node k pre) rfl
    cases last
    · have hlen := Nat.not_lt.mpr (hfit rfl)
      simp only [State.addCanPart, Bool.false_eq_true, if_false, hlen, hput]
      rfl
    · simp only [State.addCanPart, if_true, hput]

/-- A part that is not the last is held with those before it. -/
theorem State.addCanPart_held {k : Nat} {pre part : Bytes} (hk : k + 1 < 64)
    (hfit : (pre ++ part).length ≤ headerLen + maxData) :
    s.addCanPart c node (s.canAt node k pre) false part = s.midMessage c node (k + 1) (pre ++ part) := by
  have hnext : (k + 1) % 64 = k + 1 := Nat.mod_eq_of_lt hk
  simp only [State.addCanPart, Bool.false_eq_true, if_false, State.canAt, Nat.not_lt.mpr hfit, hnext, State.midMessage,
    Nat.succ_ne_zero]

/-- With the last part a ledger frame is whole, and its request is executed. -/
theorem State.addCanPart_whole (hnone : s.canMsg c node = none) {k : Nat} {pre part : Bytes} :
    s.addCanPart c node (s.canAt node k pre) true part =
      s.request (.can c node) (frameOf (trimFrame (pre ++ part))).1 (frameOf (trimFrame (pre ++ part))).2 := by
  simp only [State.addCanPart, if_true, State.setCanMsg_none hnone, State.canAt]

/-- A CAN frame of a node's request is taken by a controller that serves it. -/
theorem exec_canFrameReceive_taken (hm : s.managed = true) (hrecovery : s.acc.recovery = false) (hbus : s.reg 0x6810_05 c ≠ 2)
    (hsource : s.canSource c ident.toNat = some node) (head : Byte) (part : Bytes) :
    exec (.canFrameReceive c ident (head :: part)) s = .next (s.takeCanFrame c node head.toNat part) := by
  rw [exec, execCanFrameReceive, whenManaged_next hm]
  simp [hsource, hbus, hrecovery]

variable (hm : s.managed = true) (hrecovery : s.acc.recovery = false) (hbus : s.reg 0x6810_05 c ≠ 2)
  (hsource : s.canSource c ident.toNat = some node) (hnone : s.canMsg c node = none)
include hm hrecovery hbus hsource hnone

/-- The next CAN frame of a message adds its part. -/
theorem exec_canFrameReceive_next {n k : Nat} {pre part : Bytes} (hk : k < 64) (hpre : k = 0 → pre = [])
    (hfit : k + 1 ≠ n → (pre ++ part).length ≤ headerLen + maxData) :
    exec (.canFrameReceive c ident (byte (canHead n k) :: part)) (s.midMessage c node k pre) =
      .next (s.addCanPart c node (s.canAt node k pre) (decide (k + 1 = n)) part) := by
  obtain ⟨hfirst, hlast, hseq⟩ := canHead_bits (n := n) hk
  rw [← State.addCanPart_midMessage (s.canAt node k pre) k pre (decide (k + 1 = n)) part fun h => hfit (of_decide_eq_false h)]
  by_cases hzero : k = 0
  · subst hzero
    obtain rfl := hpre rfl
    rw [State.midMessage, if_pos rfl, exec_canFrameReceive_taken hm hrecovery hbus hsource]
    simp only [State.takeCanFrame, hfirst, hlast, hseq, hnone, decide_true, if_true]
    rfl
  · rw [State.midMessage, if_neg hzero, exec_canFrameReceive_taken (s := s.setCanMsg _ _ _) hm hrecovery hbus hsource]
    have hheld : (s.setCanMsg c node (some (s.canAt node k pre))).canMsg c node = some (s.canAt node k pre) :=
      s.canMsg_setCanMsg c (s.canAt node k pre)
    simp only [State.takeCanFrame, hfirst, hlast, hseq, hheld, hzero, decide_false, Bool.false_eq_true, if_false]
    have hsoon : ¬ (s.canAt node k pre).last + canGap < (s.setCanMsg c node (some (s.canAt node k pre))).now :=
      Nat.not_lt.mpr (Nat.le_add_right s.now canGap)
    rw [if_neg hsoon, if_neg (by simp [State.canAt])]

/-- The CAN frames from part `k` on, after those before it, make the whole ledger frame. -/
theorem execAll_canPayloads {n fuel k : Nat} {pre b : Bytes} (hn : k + (fuel + 1) = n) (hn' : n < 64) (hpre : k = 0 → pre = [])
    (hlo : canPart * (fuel + 1) < b.length + canPart) (hhi : b.length ≤ canPart * (fuel + 1))
    (hfit : (pre ++ b).length ≤ headerLen + maxData) :
    execAll ((canPayloads n (fuel + 1) k b).map fun p => .canFrameReceive c ident p) (s.midMessage c node k pre) =
      .next (s.request (.can c node)
        (frameOf (trimFrame (pre ++ (canPayloads n (fuel + 1) k b).flatMap fun p => p.drop 1))).1
        (frameOf (trimFrame (pre ++ (canPayloads n (fuel + 1) k b).flatMap fun p => p.drop 1))).2) := by
  induction fuel generalizing k pre b with
  | zero =>
    have hlast : k + 1 = n := hn
    rw [canPayloads_succ, List.map_cons, execAll, exec_canFrameReceive_next hm hrecovery hbus hsource hnone (by omega) hpre
      fun h => absurd hlast h, decide_eq_true hlast, State.addCanPart_whole hnone]
    simp only [canPayloads, List.map_nil, execAll, List.flatMap_cons, List.flatMap_nil, List.append_nil, List.drop_succ_cons,
      List.drop_zero]
  | succ fuel ih =>
    rw [Nat.mul_succ] at hlo hhi
    have hmore : k + 1 ≠ n := by omega
    have hwhole : canPart ≤ b.length := by rw [Nat.mul_succ] at hlo; omega
    have hpart : (pre ++ canCarried b).length ≤ headerLen + maxData := by
      rw [canCarried_whole hwhole, List.length_append, List.length_take]
      rw [List.length_append] at hfit
      omega
    have hdrop := List.length_drop (i := canPart) (l := b)
    have hjoin : pre ++ canCarried b ++ b.drop canPart = pre ++ b := by
      rw [canCarried_whole hwhole, List.append_assoc, List.take_append_drop]
    rw [canPayloads_succ, List.map_cons, execAll, exec_canFrameReceive_next hm hrecovery hbus hsource hnone (by omega) hpre
      fun _ => hpart, decide_eq_false hmore, State.addCanPart_held (by omega) hpart]
    have hrest := ih (k := k + 1) (pre := pre ++ canCarried b) (b := b.drop canPart) (by omega) (fun h => absurd h (by omega))
      (by omega) (by omega) (by rw [hjoin]; exact hfit)
    simpa only [List.flatMap_cons, List.drop_succ_cons, List.drop_zero, List.append_assoc] using hrest

end

/-- The CAN frames of a byte string that a ledger frame can be, by their number. -/
theorem canFrames_eq {b : Bytes} (hne : b ≠ []) (hlen : b.length ≤ headerLen + maxData) :
    ∃ fuel, canFrames b = canPayloads (fuel + 1) (fuel + 1) 0 b ∧ fuel + 1 < 64 ∧ canPart * (fuel + 1) < b.length + canPart ∧
      b.length ≤ canPart * (fuel + 1) := by
  have hpos : 0 < b.length := List.length_pos_iff.mpr hne
  refine ⟨(b.length - 1) / 63, ?_, ?_⟩
  · rw [canFrames, show ceilDiv' b.length canPart = (b.length - 1) / 63 + 1 by simp [ceilDiv', canPart]; omega]
  · have hmost : headerLen + maxData = 1048 := rfl
    simp only [canPart]
    omega

/-- Settles O9: the parts add up (`execAll_canPayloads`), and what they carry past the frame is padding (`canPayloads_bytes`). -/
theorem canFramesMakeTheRequest : Obligations.CanFramesMakeTheRequest := by
  have hgeneral : ∀ (s : State) (c : Fin 2) (ident : BitVec 29) (node : Nat) (b : Bytes),
      s.managed = true → s.acc.recovery = false → s.reg 0x6810_05 c ≠ 2 → s.canSource c ident.toNat = some node →
      s.canMsg c node = none → b ≠ [] → b.length ≤ headerLen + maxData →
      execAll ((canFrames b).map fun p => .canFrameReceive c ident p) s =
        .next (s.request (.can c node) (frameOf (trimFrame ((canFrames b).flatMap fun p => p.drop 1))).1
          (frameOf (trimFrame ((canFrames b).flatMap fun p => p.drop 1))).2) := by
    intro s c ident node b hm hrecovery hbus hsource hnone hne hlen
    obtain ⟨fuel, hframes, hfuel, hlo, hhi⟩ := canFrames_eq hne hlen
    rw [hframes]
    exact execAll_canPayloads (pre := []) hm hrecovery hbus hsource hnone (Nat.zero_add _) hfuel (fun _ => rfl) hlo hhi hlen
  refine ⟨?_, hgeneral⟩
  intro s c ident node b hm hrecovery hbus hsource hnone hwhole hlen
  have hne : b ≠ [] := by
    rintro rfl
    rw [List.length_nil, headerLen] at hwhole
    omega
  obtain ⟨fuel, hframes, -, hlo, hhi⟩ := canFrames_eq hne hlen
  obtain ⟨z, hz⟩ := canPayloads_bytes (n := fuel + 1) (k := 0) hlo hhi
  rw [hgeneral s c ident node b hm hrecovery hbus hsource hnone hne hlen, hframes, hz, trimFrame_append_zeros hwhole]

end Sys2Proof.Machine
end

section
/-! PROOFS. Recovery in turn (R333, R337): how an action leaves the queue, and the test and the switch-back of a failed engine. -/

namespace Sys2Proof.Machine

section
variable {s : State}

/-- With no action in progress the first of the queue leaves it and is checked again. -/
theorem exec_recoveryActionStart {r : Recovery} {rest : List Recovery} (hm : s.managed = true) (hidle : s.recovering = 0)
    (hqueue : s.recover.queue = r :: rest) : exec .recoveryActionStart s =
      .next (State.startRecovery { s with recover := { s.recover with queue := rest } } r) := by
  rw [exec, execRecoveryActionStart, whenManaged_next hm]
  simp [hidle, hqueue]

theorem State.startRecovery_replan {c : Cause} (hmode : s.reg 0x2400_06 = 0) (hplan : s.plan.isSome = true)
    (hcause : s.causeStands c = true) :
    s.startRecovery (.replan c) = { s with recover := { s.recover with active := some (.replan c) } } := by
  simp [State.startRecovery, hmode, hplan, hcause]

theorem State.startRecovery_replan_gone {c : Cause} (h : s.reg 0x2400_06 ≠ 0 ∨ s.plan = none ∨ s.causeStands c = false) :
    s.startRecovery (.replan c) = s := by
  refine if_neg ?_
  rcases h with h | h | h <;> simp [h]

theorem State.startRecovery_switchBack {e : Nat} (hback : s.canSwitchBack e = true) (houts : s.runningOutputs ≠ []) :
    s.startRecovery (.switchBack e) =
      { s with recover := { s.recover with active := some (.switchBack e), backWF := some s.earliestWF } } := by
  simp [State.startRecovery, hback, houts]

/-- The end of a test of the engine under test. -/
theorem exec_engineTestDone {e : Nat} (hm : s.managed = true) (htesting : s.recover.testing = some e) (passed : Bool) :
    exec (.engineTestDone passed) s = .next (s.endTest e passed) := by
  rw [exec, execEngineTestDone, whenManaged_next hm, htesting]

theorem State.endTest_failed (e : Nat) : s.endTest e false =
    State.setReg { s with recover := { s.recover with testing := none } } 0x5810_05 0 3 := rfl

/-- An engine that has failed and passes its test is idle again, and the resources have changed. -/
theorem State.endTest_passed {e : Nat} (he : e < 18) (hfailed : s.reg 0x3420_02 e = 4) : s.endTest e true =
    (((State.setReg { s with recover := { s.recover with testing := none } } 0x5810_05 0 2).setReg 0x3420_02 e 0).setEngine e
      { s.engine e with tested := true }).advanceEpoch := by
  have hreg : (State.setReg { s with recover := { s.recover with testing := none } } 0x5810_05 0 2).reg 0x3420_02 e = 4 := by
    rw [State.reg_setReg_key _ _ (by decide) (by decide) (by omega)]
    exact hfailed
  simp only [State.endTest, Bool.true_and, if_true, hreg, decide_true]
  rfl

end

/-- Settles O23: each action by what `State.startRecovery` does with it, the test by `State.endTest`. -/
theorem recoveryActionsRunInTurn : Obligations.RecoveryActionsRunInTurn := by
  refine ⟨?gone, ?replan, ?back, ?test, ?passed, ?failed, ?queued⟩
  case gone =>
    intro s c rest hm hidle hqueue hgone
    refine ⟨_, (exec_recoveryActionStart hm hidle hqueue).trans (congrArg _ (State.startRecovery_replan_gone hgone)), ?_⟩
    exact ⟨rfl, rfl, rfl, rfl, rfl, rfl, rfl, rfl, rfl⟩
  case replan =>
    intro s c rest hm hidle hqueue hmode hplan hcause
    refine ⟨_, (exec_recoveryActionStart hm hidle hqueue).trans (congrArg _ (State.startRecovery_replan hmode hplan hcause)), ?_⟩
    exact ⟨rfl, rfl, rfl, rfl, rfl, rfl, rfl, rfl, rfl⟩
  case back =>
    intro s e rest hm hidle hqueue hback houts
    refine ⟨_, (exec_recoveryActionStart hm hidle hqueue).trans (congrArg _ (State.startRecovery_switchBack hback houts)), ?_⟩
    exact ⟨rfl, rfl, rfl, rfl, rfl, rfl, rfl, rfl, rfl, rfl⟩
  case test =>
    intro s ss v hm hw hfailed
    obtain ⟨a, ha⟩ := s.touched_eq ss
    have hop : testEngineOp (s.touched ss) ss (s.partOf ss 0x5810_04) (.num v) =
        (State.setReg { s with acc := a, recover := { s.recover with testing := some v } } 0x5810_05 0 1, .ok) := by
      rw [ha]
      exact if_pos hfailed
    exact ⟨_, ledgerWrite_next hm hw hop rfl, rfl, State.reg_setReg_same _ _ _ _, rfl,
      State.ledgerBut_put rfl rfl rfl, rfl, rfl, rfl, rfl⟩
  case passed =>
    intro s e hm htesting hfailed he
    refine ⟨_, (exec_engineTestDone hm htesting true).trans (congrArg _ (State.endTest_passed he hfailed)), rfl, ?result, ?idle, ?tested, ?epoch,
      ⟨State.regsBut_put (State.regsBut_put (State.regsBut_put (s.regsBut_refl _) rfl (by simp)) rfl (by simp)) rfl (by simp),
        rfl, rfl⟩, rfl, rfl, rfl, rfl⟩
    case result =>
      rw [State.advanceEpoch, State.reg_setReg_key _ _ (by decide) (by decide) (by decide)]
      exact (State.reg_setReg_key _ _ (by decide) (by omega) (by decide)).trans (State.reg_setReg_same _ _ _ _)
    case idle =>
      rw [State.advanceEpoch, State.reg_setReg_key _ _ (by decide) (by decide) (by omega)]
      exact State.reg_setReg_same _ _ _ _
    case tested => exact congrArg Engine.tested (Tbl.get_put_same _ _ _ _)
    case epoch =>
      have hepoch : ((State.setReg { s with recover := { s.recover with testing := none } } 0x5810_05 0 2).setReg 0x3420_02 e
          0).reg 0x2400_0A = s.reg 0x2400_0A := by
        rw [State.reg_setReg_key _ _ (by decide) (by omega) (by decide), State.reg_setReg_key _ _ (by decide) (by decide) (by decide)]
        rfl
      exact (State.reg_setReg_same _ _ _ _).trans (congrArg (fun n => (n + 1) % 2 ^ 32) hepoch)
  case failed =>
    intro s e hm htesting
    refine ⟨_, (exec_engineTestDone hm htesting false).trans (congrArg _ (State.endTest_failed e)), rfl,
      State.reg_setReg_same _ _ _ _, rfl, ⟨State.regsBut_put (s.regsBut_refl _) rfl (List.mem_singleton_self _), rfl, rfl⟩, ?_⟩
    exact ⟨rfl, rfl, rfl, rfl⟩
  case queued =>
    intro s ss v hm hw hback hroom
    obtain ⟨a, ha⟩ := s.touched_eq ss
    have hop : switchBackEngineOp (s.touched ss) ss (s.partOf ss 0x5810_03) (.num v) =
        ({ s with acc := a, recover := { s.recover with queue := s.recover.queue ++ [.switchBack v] } }, .ok) := by
      have hnot : ¬ (!s.canSwitchBack v || decide (8 ≤ s.recover.queue.length)) = true := by
        simp [hback, hroom]
      rw [ha]
      exact if_neg hnot
    exact ⟨_, ledgerWrite_next hm hw hop rfl, rfl, rfl, rfl, rfl, rfl, rfl, rfl, rfl, rfl⟩

end Sys2Proof.Machine
end

section
/-! PROOFS. Power domains (R326, R388-R392): what the settling of the domains does to one of them, and the commands that bring a
domain on, into fault, or off. -/

namespace Sys2Proof.Machine

/-! ### Bits of a number -/

/-- A bit other than bit `i` depends on what lies below bit `i` and on what lies above it. -/
theorem testBit_around {i j r : Nat} (hr : r < 2 ^ i) (hne : j ≠ i) {a b : Nat} (hab : a / 2 = b / 2) :
    (2 ^ i * a + r).testBit j = (2 ^ i * b + r).testBit j := by
  rw [Nat.testBit_two_pow_mul_add _ hr, Nat.testBit_two_pow_mul_add _ hr]
  split
  · rfl
  · obtain ⟨k, hk⟩ : ∃ k, j - i = k + 1 := ⟨j - i - 1, by omega⟩
    rw [hk, Nat.testBit_succ, Nat.testBit_succ, hab]

theorem sub_of_odd_quotient {n p : Nat} (h : n / p % 2 = 1) : n - p = p * (n / p - 1) + n % p ∧ (n / p - 1) / 2 = n / p / 2 := by
  have hn := Nat.div_add_mod n p
  generalize n / p = q at h hn ⊢
  have hle := Nat.le_mul_of_pos_right p (show 0 < q by omega)
  rw [Nat.mul_sub_one]
  omega

theorem add_of_even_quotient {n p : Nat} (h : ¬ n / p % 2 = 1) : n + p = p * (n / p + 1) + n % p ∧ (n / p + 1) / 2 = n / p / 2 := by
  have hn := Nat.div_add_mod n p
  generalize n / p = q at h hn ⊢
  rw [Nat.mul_succ]
  omega

/-- To write a bit of a number is to write that bit alone. -/
theorem bitAt_withBit_ne (n : Nat) {i j : Nat} (hne : j ≠ i) (b : Bool) : bitAt (withBit n i b) j = bitAt n j := by
  have hr := Nat.mod_lt n (Nat.two_pow_pos i)
  have hn := Nat.div_add_mod n (2 ^ i)
  have hbit : n.testBit i = decide (n / 2 ^ i % 2 = 1) := Nat.testBit_eq_decide_div_mod_eq
  unfold bitAt withBit
  split
  · rfl
  · next hflip =>
    cases b
    · have hodd : n / 2 ^ i % 2 = 1 := by simpa [hbit] using hflip
      obtain ⟨hsub, hhalf⟩ := sub_of_odd_quotient hodd
      rw [if_neg Bool.false_ne_true, hsub, testBit_around hr hne hhalf, hn]
    · have heven : ¬ n / 2 ^ i % 2 = 1 := by simpa [hbit] using hflip
      obtain ⟨hadd, hhalf⟩ := add_of_even_quotient heven
      rw [if_pos rfl, hadd, testBit_around hr hne hhalf, hn]

theorem bitAt_withBit_true (n i : Nat) : bitAt (withBit n i true) i = true := by
  unfold bitAt withBit
  split
  · assumption
  · next hclear =>
    rw [if_pos rfl, Nat.add_comm, Nat.testBit_two_pow_add_eq]
    simpa using hclear

section
variable {s w : State} {d e : Nat}

/-! ### What holds a domain on (R388, R391) -/

/-- Bit 3 of what holds a domain on: that it is forced on, which Hearth and Retention cannot be. -/
theorem State.domainHeld_forced (s : State) (d : Nat) : bitAt (s.domainHeld d) 3 = (decide (2 ≤ d) && s.flag 0x6400_04 d) := by
  unfold State.domainHeld
  generalize s.heldByPlan d = a
  generalize s.heldByBlock d = b
  generalize (s.reg 0x5800_03 == 6 && decide (2 ≤ d) && s.domain d != 0) = c
  generalize (decide (2 ≤ d) && s.flag 0x6400_04 d) = f
  revert a b c f
  decide

theorem State.domainHeld_of_forced (hd : 2 ≤ d) (hforced : s.flag 0x6400_04 d = true) : s.domainHeld d ≠ 0 := by
  have hbit := s.domainHeld_forced d
  rintro hzero
  simp [hzero, hd, hforced, bitAt] at hbit

/-! ### One domain settles (R389) -/

theorem State.domain_request (hd : d < 65536) : ((s.setReg 0x6400_02 d 1).bump 0x6400_05 d).domain d = 1 ∧
    ((s.setReg 0x6400_02 d 1).bump 0x6400_05 d).reg 0x6400_05 d = satAdd (entryBits 0x6400_05) (s.reg 0x6400_05 d) 1 := by
  constructor
  · rw [State.domain, State.bump, State.bumpBy, State.reg_setReg_key _ _ (by decide) hd hd, State.reg_setReg_same]
  · rw [State.bump, State.bumpBy, State.reg_setReg_same, State.reg_setReg_key _ _ (by decide) hd hd]

/-- Another domain's state and count stay as a domain settles. -/
theorem State.settleDomain_other (hd : d < 65536) (he : e < 65536) (hne : e ≠ d) (k : Nat) :
    (s.settleDomain w d).reg k e = s.reg k e := by
  have hkey : ∀ k', regKey k e ≠ regKey k' d := fun k' h => hne ((regKey_inj he hd).mp h).2
  unfold State.settleDomain
  dsimp only
  split
  · split
    · rw [State.bump, State.bumpBy, State.reg_setReg_ne _ _ (hkey _), State.reg_setReg_ne _ _ (hkey _)]
      rfl
    · split <;> rfl
  · split <;> rfl

/-- No register changes as a domain settles that is not off. -/
theorem State.settleDomain_regs (h : s.domain d ≠ 0) : (s.settleDomain w d).regs = s.regs := by
  unfold State.settleDomain
  dsimp only
  split
  · split <;> rfl
  · split <;> rfl

/-- A domain that is off and needed is requested. -/
theorem State.settleDomain_needed (hd : d < 65536) (hneed : s.domainNeeded w d = true) (hoff : s.domain d = 0) :
    (s.settleDomain w d).domain d = 1 ∧
      (s.settleDomain w d).reg 0x6400_05 d = satAdd (entryBits 0x6400_05) (s.reg 0x6400_05 d) 1 := by
  unfold State.settleDomain
  simp only [hneed, hoff, if_true]
  exact State.domain_request (s := { s with power := { s.power with unneeded := Tbl.erase s.power.unneeded d } }) hd

/-! ### Every domain settles (R388) -/

/-- A domain that is not among those that settle stays as it is. -/
theorem State.settleEach_other {ds : List Nat} (hds : ∀ d ∈ ds, d < 65536) (he : e < 65536) (hne : e ∉ ds) (k : Nat) (s : State) :
    (ds.foldl (fun t d => t.settleDomain t.withWaiting d) s).reg k e = s.reg k e := by
  induction ds generalizing s with
  | nil => rfl
  | cons d ds ih =>
    obtain ⟨hd, hds⟩ := List.forall_mem_cons.mp hds
    obtain ⟨hed, hne⟩ := not_or.mp (List.mem_cons.not.mp hne)
    exact (ih hds hne _).trans (State.settleDomain_other hd he hed k)

/-- A domain that is not off stays as it is. -/
theorem State.settlePower_domain (he : e < 65536) (hon : s.domain e ≠ 0) :
    s.settlePower.domain e = s.domain e := by
  have hfold : ∀ ds : List Nat, (∀ d ∈ ds, d < 65536) → ∀ s : State, s.domain e ≠ 0 →
      (ds.foldl (fun t d => t.settleDomain t.withWaiting d) s).domain e = s.domain e := by
    intro ds
    induction ds with
    | nil => exact fun _ _ _ => rfl
    | cons d ds ih =>
      intro hds s hon
      obtain ⟨hd, hds⟩ := List.forall_mem_cons.mp hds
      have hstep : (s.settleDomain s.withWaiting d).domain e = s.domain e := by
        by_cases hed : e = d
        · subst hed
          exact State.reg_congr (State.settleDomain_regs hon) (s.settleDomain_settles _ hd).kept.2.2.1 _ _
        · exact State.settleDomain_other hd he hed _
      exact (ih hds _ (hstep ▸ hon)).trans hstep
  exact hfold _ (by decide) s hon

/-- Hearth and Retention do not settle. -/
theorem State.settlePower_low (he : e < 2) (k : Nat) : s.settlePower.reg k e = s.reg k e :=
  State.settleEach_other (by decide) (by omega) (by simp; omega) k s

/-- A domain that is off and forced on is requested once. -/
theorem State.settlePower_forced (hlo : 2 ≤ d) (hhi : d < 24) (hforced : s.flag 0x6400_04 d = true) (hoff : s.domain d = 0) :
    s.settlePower.domain d = 1 ∧ s.settlePower.reg 0x6400_05 d = satAdd (entryBits 0x6400_05) (s.reg 0x6400_05 d) 1 := by
  have hcut : (List.range 22).map (· + 2) = (List.range' 2 (d - 2)) ++ d :: List.range' (d + 1) (23 - d) := by
    interval_cases d <;> rfl
  have hbefore := State.settleEach_other (e := d) (ds := List.range' 2 (d - 2))
    (fun k hk => by have := List.mem_range'_1.mp hk; omega) (by omega) (fun hk => by have := List.mem_range'_1.mp hk; omega)
  have hafter := State.settleEach_other (e := d) (ds := List.range' (d + 1) (23 - d))
    (fun k hk => by have := List.mem_range'_1.mp hk; omega) (by omega) (fun hk => by have := List.mem_range'_1.mp hk; omega)
  unfold State.settlePower
  rw [hcut, List.foldl_append, List.foldl_cons]
  generalize hu : (List.range' 2 (d - 2)).foldl (fun t d => t.settleDomain t.withWaiting d) s = u
  have hreg : ∀ k, u.reg k d = s.reg k d := fun k => hu ▸ hbefore k s
  have hneed : u.domainNeeded u.withWaiting d = true := by
    have hheld : u.domainHeld d ≠ 0 := State.domainHeld_of_forced hlo (by rw [State.flag, hreg]; exact hforced)
    simp [State.domainNeeded, hheld]
  obtain ⟨hdomain, hcount⟩ := State.settleDomain_needed (by omega) hneed ((hreg _).trans hoff)
  exact ⟨(hafter _ _).trans hdomain, (hafter _ _).trans (hcount.trans (by rw [hreg]))⟩

end

/-! ### Forcing a domain on (R391) -/

/-- Settles O48: what is forced on is held on (`State.domainHeld_forced`), so that settling requests it (`State.settlePower_forced`). -/
theorem forcedDomainsStayOn : Obligations.ForcedDomainsStayOn := by
  refine ⟨?write, ?expiry, ?level⟩
  case write =>
    intro s ss v d hm hw hpart hd
    obtain ⟨a, ha⟩ := s.touched_eq ss
    generalize hu : State.setReg { s with acc := a } 0x6400_04 d v = u
    have hop : forceOnOp (s.touched ss) ss (s.partOf ss 0x6400_04) (.num v) = (u.settlePower, .ok) := by
      rw [ha, hpart, ← hu]
      rfl
    have hsettles := u.settlePower_settles
    have hreg : ∀ {k}, k ≠ 0x6400_04 → u.reg k d = s.reg k d := fun hk => by
      rw [← hu, State.reg_setReg_key _ _ hk (by omega) (by omega)]
      rfl
    have hforced : ∀ k, k < 24 → u.settlePower.reg 0x6400_04 k = u.reg 0x6400_04 k := fun k hk =>
      hsettles.entries.reg hsettles.kept.2.2.1 (by decide) (by omega)
    have hself : u.reg 0x6400_04 d = v := hu ▸ State.reg_setReg_same _ _ _ _
    have hflag : v = 1 → u.flag 0x6400_04 d = true := fun hv => by simp [State.flag, hself, hv]
    obtain ⟨hblobs, hshadow, -, hsent, hcells, hstill, -⟩ := hsettles.kept
    have hlog : u.settlePower.log = u.log := by
      obtain ⟨regs, unneeded, waitingOn, ht⟩ := hsettles.frame
      rw [ht]
    obtain ⟨hsent', hblobs', hshadow', hlog', hcells', hstill'⟩ : u.sent = s.sent ∧ u.blobs = s.blobs ∧ u.shadow = s.shadow ∧
        u.log = s.log ∧ u.cells = s.cells ∧ u.still = s.still := hu ▸ ⟨rfl, rfl, rfl, rfl, rfl, rfl⟩
    have hrequested : v = 1 → 2 ≤ d → s.domain d = 0 → u.settlePower.domain d = 1 ∧
        u.settlePower.reg 0x6400_05 d = satAdd (entryBits 0x6400_05) (s.reg 0x6400_05 d) 1 := fun hv hlo hoff => by
      rw [← hreg (k := 0x6400_05) (by decide)]
      exact State.settlePower_forced hlo hd (hflag hv) ((hreg (by decide)).trans hoff)
    have hfault : s.domain d = 4 → u.settlePower.domain d = 4 := fun h => by
      have hon : u.domain d = 4 := (hreg (by decide)).trans h
      rw [State.settlePower_domain (by omega) (by omega), hon]
    have hlow : d < 2 → u.settlePower.domain d = s.domain d := fun h => (State.settlePower_low h _).trans (hreg (by decide))
    have hentries : s.entriesBut u.settlePower [0x6400_02, 0x6400_04, 0x6400_05] := by
      have hput : s.entriesBut u [0x6400_04] := hu ▸ (s.entriesBut_refl _).setReg (List.mem_singleton_self _) (by omega) v
      exact (hput.mono (by decide)).trans (hsettles.entries.mono (by decide))
    have hexec := ledgerWrite_next hm hw hop rfl
    clear hop hsettles
    generalize u.settlePower = q at *
    have hvalue : q.reg 0x6400_04 d = v := (hforced d hd).trans hself
    have hbit : bitAt (State.domainHeld (q.reply ss .ok) d) 3 = (decide (2 ≤ d) && v != 0) := by
      rw [State.domainHeld_forced, State.flag, State.reply_reg, hvalue]
    refine ⟨_, hexec, hvalue, congrArg (_ :: ·) (hsent.trans hsent'), hrequested, fun hv hlo => ?_, hfault,
      fun hlo => ⟨hlow hlo, ?_⟩, fun k hk hne => ?_, hentries, hblobs.trans hblobs', hshadow.trans hshadow', hlog.trans hlog',
      hcells.trans hcells', hstill.trans hstill'⟩
    · simp [hbit, hv, hlo]
    · simp [hbit, Nat.not_le.mpr hlo]
    · rw [State.reply_reg, hforced k hk, ← hu, State.reg_setReg_ne _ _ fun h => hne ((regKey_inj (by omega) (by omega)).mp h).2]
      rfl
  case expiry =>
    intro s d hlive hd hforced
    have hheld := State.domainHeld_of_forced hd hforced
    rw [exec, execDomainHoldExpiry]
    cases Tbl.find s.power.unneeded d with
    | none => rfl
    | some t => simp [hheld]
  case level =>
    intro s ss v x hw hx
    obtain ⟨e, y, he, hy, hserves, hpending, hcheck⟩ := State.mayWrite_spec hw
    rw [hy] at hx
    obtain rfl := Option.some.inj hx
    have hlevel : e.writeLevel 0x6400_04 = 2 := by
      obtain rfl := Option.some.inj he
      rfl
    unfold State.checkWrite at hcheck
    rw [hlevel] at hcheck
    have hneeds : ¬ (s.touch y).levelOf y < (s.touch y).needs 2 := fun h => by simp [h] at hcheck
    have htwo : 2 ≤ (s.touch y).needs 2 := by
      unfold State.needs
      split <;> decide
    exact htwo.trans (Nat.not_lt.mp hneeds)

end Sys2Proof.Machine
end

section
/-! PROOFS. Domains that come on, fail, and go off (R326, R388-R390, R392): what lies in each starts, fails, or loses its content. -/

namespace Sys2Proof.Machine

/-! ### One entry written for several parts -/

section
variable {s : State} {key v : Nat}

/-- Parts written alike have the value. -/
theorem State.setEach_reg {cs : List Nat} (hcs : ∀ c ∈ cs, c < 65536) {c : Nat} (hc : c < 65536)
    (h : c ∈ cs ∨ s.reg key c = v) : (cs.foldl (fun (t : State) c => t.setReg key c v) s).reg key c = v := by
  induction cs generalizing s with
  | nil => exact h.resolve_left List.not_mem_nil
  | cons b cs ih =>
    obtain ⟨hb, hcs⟩ := List.forall_mem_cons.mp hcs
    refine ih hcs ?_
    by_cases hbc : c = b
    · subst hbc
      exact .inr (State.reg_setReg_same ..)
    · refine h.imp (fun h => (List.mem_cons.mp h).resolve_left hbc) fun h => ?_
      rw [State.reg_setReg_ne _ _ fun h => hbc ((regKey_inj hc hb).mp h).2, h]

theorem State.setEach_frame (cs : List Nat) (s : State) :
    ∃ regs, cs.foldl (fun (t : State) c => t.setReg key c v) s = { s with regs := regs } := by
  induction cs generalizing s with
  | nil => exact ⟨s.regs, rfl⟩
  | cons c cs ih =>
    obtain ⟨regs, hregs⟩ := ih (s.setReg key c v)
    exact ⟨regs, hregs⟩

theorem State.setEach_entries {cs : List Nat} (hcs : ∀ c ∈ cs, c < 65536) (s : State) :
    s.entriesBut (cs.foldl (fun (t : State) c => t.setReg key c v) s) [key] := by
  induction cs generalizing s with
  | nil => exact s.entriesBut_refl _
  | cons c cs ih =>
    obtain ⟨hc, hcs⟩ := List.forall_mem_cons.mp hcs
    exact ((s.entriesBut_refl _).setReg (List.mem_singleton_self _) hc _).trans (ih hcs _)

end

/-! ### What a domain's power brings or takes (R326, R388, R389, R398) -/

/-- The entries that follow a domain's power. -/
def powerEntries : List Nat := [0x1010_01, 0x1010_04, 0x2400_0A, 0x5400_02, 0x5480_02]

/-- A state in which the blocks of a domain have started or stopped: registers of the readiness board, of the epoch, of the channels
and of the banks, the log, wall time's running, and DRAM and Crucible alone differ. -/
structure State.Follows (s t : State) : Prop where
  frame : ∃ regs log sent time dram, t = { s with regs := regs, log := log, sent := sent, time := time, dram := dram }
  entries : s.entriesBut t powerEntries

section
variable {s t u : State}

theorem State.Follows.refl (s : State) : s.Follows s := ⟨⟨s.regs, s.log, s.sent, s.time, s.dram, rfl⟩, s.entriesBut_refl _⟩

theorem State.Follows.trans (h : s.Follows t) (h' : t.Follows u) : s.Follows u := by
  obtain ⟨⟨r, l, n, i, d, rfl⟩, hentries⟩ := h
  obtain ⟨⟨r', l', n', i', d', rfl⟩, hentries'⟩ := h'
  exact ⟨⟨r', l', n', i', d', rfl⟩, hentries.trans hentries'⟩

theorem State.Follows.kept (h : s.Follows t) :
    t.blobs = s.blobs ∧ t.shadow = s.shadow ∧ t.sources = s.sources ∧ t.still = s.still ∧ t.power = s.power := by
  obtain ⟨r, l, n, i, d, rfl⟩ := h.frame
  exact ⟨rfl, rfl, rfl, rfl, rfl⟩

/-- Another entry reads as before. -/
theorem State.Follows.reg (h : s.Follows t) {key inst : Nat} (hk : key ∉ powerEntries) (hi : inst < 65536) :
    t.reg key inst = s.reg key inst := h.entries.reg h.kept.2.2.1 hk hi

theorem State.follows_setReg (s : State) {key inst : Nat} (hk : key ∈ powerEntries) (hi : inst < 65536) (v : Nat) :
    s.Follows (s.setReg key inst v) :=
  ⟨⟨_, s.log, s.sent, s.time, s.dram, rfl⟩, (s.entriesBut_refl _).setReg hk hi v⟩

theorem State.follows_dram (s : State) (dram : Dram) : s.Follows { s with dram := dram } :=
  ⟨⟨s.regs, s.log, s.sent, s.time, dram, rfl⟩, s.entriesBut_refl _⟩

theorem State.logs.follows (h : s.logs t) : s.Follows t := by
  obtain ⟨log, sent, rfl⟩ := h.frame
  exact ⟨⟨s.regs, log, sent, s.time, s.dram, rfl⟩, s.entriesBut_refl _⟩

/-! ### Readiness (R28, R398) -/

theorem State.setReady_follows (s : State) {bit : Nat} (hb : bit < 65536) : s.Follows (s.setReady bit) := by
  unfold State.setReady
  split
  · exact .refl s
  · exact ((s.follows_setReg (by decide) (by decide) _).trans (State.follows_setReg _ (by decide) hb _)).trans
      (State.record_logs ..).follows

theorem State.setReady_raisesOnce (s : State) (bit : Nat) : s.raisesOnce (s.setReady bit) := by
  unfold State.setReady
  split
  · exact s.raisesOnce_refl
  · exact (State.record_logs ((s.setReg 0x1010_01 0 _).setReg 0x1010_04 bit _) ..).raisesOnce

/-- A function that has become ready is. -/
theorem State.setReady_ready (s : State) {bit : Nat} (hb : bit < 65536) : bitAt ((s.setReady bit).reg 0x1010_01) bit = true := by
  unfold State.setReady
  split
  · assumption
  · rw [State.record_reg, State.reg_setReg_key _ _ (by decide) hb (by decide), State.reg_setReg_same, bitAt_withBit_true]

theorem State.clearReady_follows (s : State) (bit : Nat) : s.Follows (s.clearReady bit) :=
  s.follows_setReg (by decide) (by decide) _

theorem State.clearReady_clear (s : State) (bit : Nat) : bitAt ((s.clearReady bit).reg 0x1010_01) bit = false := by
  rw [State.clearReady, State.reg_setReg_same, bitAt_withBit_false]

/-! ### Crucible's banks (R326) -/

/-- The banks change no more than registers. -/
theorem State.setBanks_frame (s : State) (st : Nat) : ∃ regs, s.setBanks st = { s with regs := regs } := by
  obtain ⟨regs, hregs⟩ := State.setEach_frame (key := 0x5480_02) (v := st) (List.range 8) s
  unfold State.setBanks
  dsimp only
  rw [hregs]
  split
  · exact ⟨regs, rfl⟩
  · exact ⟨_, rfl⟩

theorem State.setBanks_entries (s : State) (st : Nat) : s.entriesBut (s.setBanks st) [0x2400_0A, 0x5480_02] := by
  have heach := (State.setEach_entries (key := 0x5480_02) (v := st) (show ∀ b ∈ List.range 8, b < 65536 by decide) s).mono
    (show [0x5480_02] ⊆ [0x2400_0A, 0x5480_02] by decide)
  unfold State.setBanks
  dsimp only
  split
  · exact heach
  · exact heach.setReg (by decide) (by decide) _

theorem State.setBanks_follows (s : State) (st : Nat) : s.Follows (s.setBanks st) := by
  obtain ⟨regs, hframe⟩ := s.setBanks_frame st
  exact ⟨⟨regs, s.log, s.sent, s.time, s.dram, hframe⟩, (s.setBanks_entries st).mono (by decide)⟩

theorem State.setBanks_reg (s : State) (st : Nat) {b : Nat} (hb : b < 8) : (s.setBanks st).reg 0x5480_02 b = st := by
  have heach := State.setEach_reg (s := s) (key := 0x5480_02) (v := st) (cs := List.range 8) (by decide)
    (show b < 65536 by omega) (.inl (List.mem_range.mpr hb))
  unfold State.setBanks
  dsimp only
  split
  · exact heach
  · rw [State.advanceEpoch, State.reg_setReg_key _ _ (by decide) (by decide) (by omega), heach]

/-! ### A domain comes on (R389) -/

/-- Channel `c` trains, as section 4 has it where the device takes over. -/
def State.trainsFrom (t : State) (takeover : Bool) (c : Nat) : State :=
  (t.setReg 0x5400_02 c 1).setChan c { t.chan c with stored := takeover && (Tbl.find t.pair.training c).isSome }

theorem State.trainsFrom_same (t : State) (takeover : Bool) (c : Nat) : (t.trainsFrom takeover c).reg 0x5400_02 c = 1 ∧
    ((t.trainsFrom takeover c).chan c).stored = (takeover && (Tbl.find t.pair.training c).isSome) :=
  ⟨State.reg_setReg_same .., congrArg Chan.stored (Tbl.get_put_same ..)⟩

theorem State.trainsFrom_ne (t : State) (takeover : Bool) {b c : Nat} (hb : b < 65536) (hc : c < 65536) (hne : c ≠ b) :
    (t.trainsFrom takeover b).reg 0x5400_02 c = t.reg 0x5400_02 c ∧ (t.trainsFrom takeover b).chan c = t.chan c :=
  ⟨State.reg_setReg_ne t _ fun h => hne ((regKey_inj hc hb).mp h).2, Tbl.get_put_ne _ _ _ hne⟩

theorem State.trainEach_follows (takeover : Bool) {cs : List Nat} (hcs : ∀ c ∈ cs, c < 65536) (s : State) :
    s.Follows (cs.foldl (fun t c => t.trainsFrom takeover c) s) ∧
      (cs.foldl (fun t c => t.trainsFrom takeover c) s).log = s.log ∧
      (cs.foldl (fun t c => t.trainsFrom takeover c) s).sent = s.sent := by
  induction cs generalizing s with
  | nil => exact ⟨.refl s, rfl, rfl⟩
  | cons c cs ih =>
    obtain ⟨hc, hcs⟩ := List.forall_mem_cons.mp hcs
    obtain ⟨hfollows, hlog, hsent⟩ := ih hcs (s.trainsFrom takeover c)
    exact ⟨((s.follows_setReg (by decide) hc 1).trans (State.follows_dram _ _)).trans hfollows, hlog, hsent⟩

theorem State.trainEach_channel (takeover : Bool) {cs : List Nat} (hcs : ∀ c ∈ cs, c < 65536) {c : Nat} (hc : c < 65536)
    (h : c ∈ cs ∨ s.reg 0x5400_02 c = 1 ∧ (s.chan c).stored = (takeover && (Tbl.find s.pair.training c).isSome)) :
    (cs.foldl (fun t c => t.trainsFrom takeover c) s).reg 0x5400_02 c = 1 ∧
      ((cs.foldl (fun t c => t.trainsFrom takeover c) s).chan c).stored =
        (takeover && (Tbl.find s.pair.training c).isSome) := by
  induction cs generalizing s with
  | nil => exact h.resolve_left List.not_mem_nil
  | cons b cs ih =>
    obtain ⟨hb, hcs⟩ := List.forall_mem_cons.mp hcs
    refine ih (s := s.trainsFrom takeover b) hcs ?_
    by_cases hbc : c = b
    · subst hbc
      exact .inr (s.trainsFrom_same takeover c)
    · obtain ⟨hreg, hchan⟩ := s.trainsFrom_ne takeover hb hc hbc
      rw [hreg, hchan]
      exact h.imp_left fun h => (List.mem_cons.mp h).resolve_left hbc

theorem domainChannels_lt {d : Nat} (hd : d < 24) : ∀ c ∈ domainChannels d, c < 65536 := by
  interval_cases d <;> decide

/-- The channels of a DRAM domain train. -/
theorem State.domainUp_dram {d : Nat} (hd : d = 4 ∨ d = 5) (s : State) :
    s.domainUp d = (domainChannels d).foldl (fun t c => t.trainsFrom (s.reg 0x5800_03 == 6) c) s := by
  rcases hd with rfl | rfl <;> rfl

/-- What comes with a domain that is no lane group, and the vector sent for it. -/
theorem State.domainUp_follows (s : State) {d : Nat} (hd : d < 24) (hlanes : ¬(15 ≤ d ∧ d ≤ 18)) :
    s.Follows (s.domainUp d) ∧ s.sendsLog (s.domainUp d) ∧ (d ∉ [3, 20, 21] → (s.domainUp d).log = s.log) ∧
      (d ∉ [4, 5, 20, 21, 23] → (s.domainUp d).regs = s.regs) := by
  have hready : ∀ bit, bit < 65536 → s.Follows (s.setReady bit) ∧ s.sendsLog (s.setReady bit) := fun bit hb =>
    ⟨s.setReady_follows hb, (s.setReady_raisesOnce bit).sendsLog⟩
  by_cases hdram : d = 4 ∨ d = 5
  · rw [State.domainUp_dram hdram]
    obtain ⟨hfollows, hlog, hsent⟩ := State.trainEach_follows (s.reg 0x5800_03 == 6) (domainChannels_lt hd) s
    exact ⟨hfollows, .inl hsent, fun _ => hlog, fun h => absurd (by rcases hdram with rfl | rfl <;> decide) h⟩
  · unfold State.domainUp
    split
    · have hlogs := s.record_logs 0x001 none (s.reg 0x1010_07) 0 false
      obtain ⟨log, sent, hframe⟩ := hlogs.frame
      exact ⟨hlogs.follows, hlogs.raisesOnce.sendsLog, fun h => absurd (by decide) h, fun _ => by rw [hframe]⟩
    · unfold State.serveEthernet
      refine ⟨?_, ?_, fun h => absurd (by decide) h, fun h => absurd (by decide) h⟩
      all_goals split
      · split
        · exact (hready 3 (by decide)).1
        · exact .refl s
      · exact .refl s
      · split
        · exact (hready 3 (by decide)).2
        · exact .inl rfl
      · exact .inl rfl
    · omega
    · omega
    · omega
    · omega
    · omega
    · omega
    · obtain ⟨hfollows, hsends⟩ := hready 4 (by decide)
      exact ⟨hfollows, hsends, fun h => absurd (by decide) h, fun h => absurd (by decide) h⟩
    · obtain ⟨regs, hframe⟩ := s.setBanks_frame 1
      exact ⟨s.setBanks_follows 1, .inl (by rw [hframe]), fun _ => by rw [hframe], fun h => absurd (by decide) h⟩
    · exact ⟨.refl s, .inl rfl, fun _ => rfl, fun _ => rfl⟩

/-! ### A domain goes off (R288, R326, R388, R437) -/

/-- What goes with a domain. -/
theorem State.domainDown_follows (s : State) {d : Nat} (hd : d < 24) :
    s.Follows (s.domainDown d) ∧ (s.domainDown d).sent = s.sent ∧ (d ≠ 3 → (s.domainDown d).log = s.log) ∧
      (d ∉ [4, 5, 20, 21, 23] → (s.domainDown d).regs = s.regs) ∧ (d ≠ 23 → (s.domainDown d).cells = s.cells) := by
  have hchannels : ∀ d, d < 24 → ∃ regs,
      (domainChannels d).foldl (fun (t : State) c => t.setReg 0x5400_02 c 0) s = { s with regs := regs } ∧
      s.Follows { s with regs := regs } := fun d hd => by
    obtain ⟨regs, hframe⟩ := State.setEach_frame (key := 0x5400_02) (v := 0) (domainChannels d) s
    have hentries := State.setEach_entries (key := 0x5400_02) (v := 0) (domainChannels_lt hd) s
    rw [hframe] at hentries
    exact ⟨regs, hframe, ⟨regs, s.log, s.sent, s.time, s.dram, rfl⟩, hentries.mono (by decide)⟩
  unfold State.domainDown
  split
  · exact ⟨⟨⟨s.regs, {}, s.sent, s.time, s.dram, rfl⟩, s.entriesBut_refl _⟩, rfl, fun h => absurd rfl h, fun _ => rfl, fun _ => rfl⟩
  · obtain ⟨regs, hframe, hfollows⟩ := hchannels 4 (by decide)
    rw [hframe]
    exact ⟨hfollows, rfl, fun _ => rfl, fun h => absurd (by decide) h, fun _ => rfl⟩
  · obtain ⟨regs, hframe, hfollows⟩ := hchannels 5 (by decide)
    rw [hframe]
    exact ⟨hfollows, rfl, fun _ => rfl, fun h => absurd (by decide) h, fun _ => rfl⟩
  · exact ⟨s.clearReady_follows 4, rfl, fun _ => rfl, fun h => absurd (by decide) h, fun _ => rfl⟩
  · have hstopped : s.Follows { s with time := { s.time with running := false } } :=
      ⟨⟨s.regs, s.log, s.sent, _, s.dram, rfl⟩, s.entriesBut_refl _⟩
    exact ⟨hstopped.trans (State.clearReady_follows _ 3), rfl, fun _ => rfl, fun h => absurd (by decide) h, fun _ => rfl⟩
  · obtain ⟨regs, hframe⟩ := s.clearCrucible.setBanks_frame 0
    refine ⟨(s.follows_dram _).trans (State.setBanks_follows s.clearCrucible 0), ?_, fun _ => ?_, fun h => absurd (by decide) h,
      fun h => absurd rfl h⟩
    all_goals rw [hframe]; rfl
  · exact ⟨.refl s, rfl, fun _ => rfl, fun _ => rfl, fun _ => rfl⟩

/-- The entries that follow a domain off: a function that stops has been ready all the same (R28). -/
theorem State.domainDown_entries (s : State) {d : Nat} (hd : d < 24) :
    s.entriesBut (s.domainDown d) [0x1010_01, 0x2400_0A, 0x5400_02, 0x5480_02] := by
  have hchannels : ∀ d, d < 24 → s.entriesBut ((domainChannels d).foldl (fun (t : State) c => t.setReg 0x5400_02 c 0) s)
      [0x1010_01, 0x2400_0A, 0x5400_02, 0x5480_02] := fun d hd =>
    (State.setEach_entries (key := 0x5400_02) (v := 0) (domainChannels_lt hd) s).mono (by decide)
  unfold State.domainDown
  split
  · exact s.entriesBut_refl _
  · exact hchannels 4 (by decide)
  · exact hchannels 5 (by decide)
  · exact (s.entriesBut_refl _).setReg (by decide) (by decide) _
  · exact State.entriesBut.setReg (t := { s with time := { s.time with running := false } }) (s.entriesBut_refl _) (by decide)
      (by decide) _
  · exact (s.clearCrucible.setBanks_entries 0).mono (by decide)
  · exact s.entriesBut_refl _

/-! ### A domain's functions fail (R390, R398) -/

/-- A state in which only the named registers, the log and what was sent for it differ. -/
structure State.Notes (s t : State) (copies : List Nat) : Prop where
  frame : ∃ regs log sent, t = { s with regs := regs, log := log, sent := sent }
  regs : s.regsBut t copies

theorem State.Notes.refl (s : State) (copies : List Nat) : s.Notes s copies :=
  ⟨⟨s.regs, s.log, s.sent, rfl⟩, s.regsBut_refl copies⟩

theorem State.Notes.trans {copies : List Nat} (h : s.Notes t copies) (h' : t.Notes u copies) : s.Notes u copies := by
  obtain ⟨⟨r, l, n, rfl⟩, hregs⟩ := h
  obtain ⟨⟨r', l', n', rfl⟩, hregs'⟩ := h'
  exact ⟨⟨r', l', n', rfl⟩, fun k hk => (hregs' k hk).trans (hregs k hk)⟩

theorem State.Notes.mono {copies copies' : List Nat} (h : s.Notes t copies) (hsub : copies ⊆ copies') : s.Notes t copies' :=
  ⟨h.frame, fun k hk => h.regs k fun hmem => hk (hsub hmem)⟩

theorem State.notes_setReg (s : State) (key inst v : Nat) : s.Notes (s.setReg key inst v) [regKey key inst] :=
  ⟨⟨_, s.log, s.sent, rfl⟩, State.regsBut_put (s.regsBut_refl _) rfl (List.mem_singleton_self _)⟩

theorem State.logs.notes (h : s.logs t) (copies : List Nat) : s.Notes t copies := by
  obtain ⟨log, sent, rfl⟩ := h.frame
  exact ⟨⟨s.regs, log, sent, rfl⟩, s.regsBut_refl copies⟩

theorem State.Notes.kept {copies : List Nat} (h : s.Notes t copies) :
    s.ledgerBut t copies ∧ t.sources = s.sources ∧ t.cells = s.cells ∧ t.still = s.still := by
  obtain ⟨⟨r, l, n, rfl⟩, hregs⟩ := h
  exact ⟨⟨hregs, rfl, rfl⟩, rfl, rfl, rfl⟩

/-- A register that is not among those named reads as before. -/
theorem State.Notes.reg {copies : List Nat} (h : s.Notes t copies) {key inst : Nat} (hk : regKey key inst ∉ copies) :
    t.reg key inst = s.reg key inst := by
  unfold State.reg State.frozenDefault
  rw [h.regs _ hk, h.kept.2.1]

/-- The functions that fail are recorded, and their bits set. -/
theorem State.failEach_notes (c : Option Code) (bits : List Nat) (s : State) :
    s.Notes (bits.foldl (fun (t : State) b => t.setFailed b c) s) [regKey 0x1010_02 0] := by
  induction bits generalizing s with
  | nil => exact .refl s _
  | cons b bits ih =>
    exact ((s.notes_setReg 0x1010_02 0 _).trans ((State.record_logs ..).notes _)).trans (ih (s.setFailed b c))

theorem State.failEach_raisesOnce (c : Option Code) (bits : List Nat) (s : State) :
    s.raisesOnce (bits.foldl (fun (t : State) b => t.setFailed b c) s) := by
  induction bits generalizing s with
  | nil => exact s.raisesOnce_refl
  | cons b bits ih =>
    exact State.raisesOnce.trans (State.record_logs (s.setReg 0x1010_02 0 _) ..).raisesOnce (ih (s.setFailed b c))

theorem State.failEach_recent {event n : Nat} {code : Option Code} (c : Option Code) {bits : List Nat}
    (hn : n + bits.length ≤ logSize) (h : s.recent n event code) :
    (bits.foldl (fun (t : State) b => t.setFailed b c) s).recent (n + bits.length) event code := by
  induction bits generalizing s n with
  | nil => exact h
  | cons b bits ih =>
    rw [List.length_cons] at hn ⊢
    have hput : (s.setReg 0x1010_02 0 (withBit (s.reg 0x1010_02) b true)).recent n event code := by
      unfold State.recent State.logWaiting
      rw [State.reg_setReg_key _ _ (by decide) (by decide) (by decide)]
      exact h
    have hrest := ih (s := s.setFailed b c) (n := n + 1) (by omega) (hput.record (by omega) ..)
    rwa [Nat.add_right_comm] at hrest

theorem State.failEach_bits (c : Option Code) {bits : List Nat} {b : Nat}
    (h : b ∈ bits ∨ bitAt (s.reg 0x1010_02) b = true) :
    bitAt ((bits.foldl (fun (t : State) b => t.setFailed b c) s).reg 0x1010_02) b = true := by
  induction bits generalizing s with
  | nil => exact h.resolve_left List.not_mem_nil
  | cons a bits ih =>
    have hreg : (s.setFailed a c).reg 0x1010_02 = withBit (s.reg 0x1010_02) a true := by
      rw [State.setFailed, State.record_reg, State.reg_setReg_same]
    refine ih ?_
    rw [hreg]
    by_cases hba : b = a
    · exact .inr (hba ▸ bitAt_withBit_true ..)
    · rw [bitAt_withBit_ne _ hba]
      exact h.imp_left fun h => (List.mem_cons.mp h).resolve_left hba

theorem State.functionsOf_length (s : State) (d : Nat) : (s.functionsOf d).length ≤ 2 := by
  unfold State.functionsOf
  split
  iterate 2 exact Nat.le_of_ble_eq_true rfl
  · split <;> exact Nat.le_of_ble_eq_true rfl
  iterate 2 exact Nat.le_of_ble_eq_true rfl

/-- The state of a domain in fault, before what it takes with it. -/
def State.faulted (s : State) (d : Nat) (c : Code) : State :=
  ((s.setReg 0x6400_02 d 4).record 0x102 (some c) d 0).failFunctions d c

theorem State.failDomain_eq (s : State) (d : Nat) (c : Code) : s.failDomain d c =
    (((s.faulted d c).domainLost d c).advanceEpoch).triggerReplan .resources ((s.faulted d c).domainOutputs d) := rfl

/-- What the fault of a domain leaves, before what it takes with it. -/
theorem State.faulted_spec (s : State) {d : Nat} (hd : d < 24) (c : Code) :
    (s.faulted d c).domain d = 4 ∧ (s.faulted d c).logged 0x102 (some c) ∧
      (∀ b ∈ s.functionsOf d, bitAt (s.reg 0x1010_01) b = false → bitAt ((s.faulted d c).reg 0x1010_02) b = true) ∧
      s.ledgerBut (s.faulted d c) [regKey 0x6400_02 d, regKey 0x1010_02 0] ∧ s.sendsLog (s.faulted d c) ∧
      (s.faulted d c).cells = s.cells ∧ (s.faulted d c).still = s.still := by
  have hlogs := (s.setReg 0x6400_02 d 4).record_logs 0x102 (some c) d 0 false
  have hnewest := (s.setReg 0x6400_02 d 4).record_newest 0x102 (some c) d 0 false
  have hreg : ∀ {k i}, k ≠ 0x6400_02 → i < 65536 → ((s.setReg 0x6400_02 d 4).record 0x102 (some c) d 0).reg k i = s.reg k i :=
    fun hk hi => by rw [State.record_reg, State.reg_setReg_key _ _ hk (by omega) hi]
  have hfunctions : ((s.setReg 0x6400_02 d 4).record 0x102 (some c) d 0).functionsOf d = s.functionsOf d := by
    unfold State.functionsOf State.flag
    split
    iterate 2 rfl
    · simp only [List.range_succ, List.range_zero, List.nil_append, List.any_append, List.any_cons, List.any_nil,
        hreg (show 0x6820_02 ≠ 0x6400_02 by decide) (show 0 < 65536 by decide),
        hreg (show 0x6820_02 ≠ 0x6400_02 by decide) (show 1 < 65536 by decide)]
    iterate 2 rfl
  generalize hbits : (s.functionsOf d).filter (fun b => !bitAt (s.reg 0x1010_01) b) = bits
  have hfaulted : s.faulted d c = bits.foldl (fun (t : State) b => t.setFailed b (some c))
      ((s.setReg 0x6400_02 d 4).record 0x102 (some c) d 0) := by
    rw [State.faulted, State.failFunctions, hfunctions, hreg (by decide) (by decide), hbits]
  have hlen : 1 + bits.length ≤ logSize := by
    have hfilter := List.length_filter_le (fun b => !bitAt (s.reg 0x1010_01) b) (s.functionsOf d)
    have htwo := s.functionsOf_length d
    rw [hbits] at hfilter
    unfold logSize
    omega
  rw [hfaulted]
  have hrecent := State.failEach_recent (some c) hlen hnewest.recent
  have hraises := hlogs.raisesOnce.trans (State.failEach_raisesOnce (some c) bits _)
  have hset : ∀ b ∈ s.functionsOf d, bitAt (s.reg 0x1010_01) b = false → _ := fun b hb hclear =>
    State.failEach_bits (s := (s.setReg 0x6400_02 d 4).record 0x102 (some c) d 0) (some c) (bits := bits) (b := b)
      (.inl (hbits ▸ List.mem_filter.mpr ⟨hb, by simp [hclear]⟩))
  have hnotes : s.Notes _ [regKey 0x6400_02 d, regKey 0x1010_02 0] := ((s.notes_setReg 0x6400_02 d 4).mono (by simp)).trans
    ((hlogs.notes _).trans ((State.failEach_notes (some c) bits _).mono (by simp)))
  obtain ⟨hledger, -, hcells, hstill⟩ := hnotes.kept
  refine ⟨?_, hrecent.logged, hset, hledger, hraises.sendsLog, hcells, hstill⟩
  rw [State.domain, (State.failEach_notes (some c) bits _).reg (by simp [regKey]; omega), State.record_reg, State.reg_setReg_same]

/-! ### The commands (R388-R390) -/

/-- A domain whose power is good comes on, with its blocks, and the others follow their need. -/
theorem exec_domainPowerGood {d : Fin 24} (hclock : s.power.refclk = true) (hd : s.domain d = 1) :
    exec (.domainPowerGood d) s = .next ((s.setReg 0x6400_02 d 2).domainUp d).settlePower := by
  rw [exec, execDomainPowerGood, if_pos (by simp [hclock, hd])]

theorem exec_domainPowerTimeout {d : Fin 24} (hclock : s.power.refclk = true) (hd : s.domain d = 1) (pll : Bool) :
    exec (.domainPowerTimeout d pll) s = .next (s.failDomain d (pw (if pll then 0x03 else 0x01))) := by
  rw [exec, execDomainPowerTimeout, if_pos (by simp [hclock, hd])]

theorem exec_powerGoodLoss {d : Fin 24} (hclock : s.power.refclk = true) (hlo : 2 ≤ d.val) (hd : s.domain d = 2) :
    exec (.powerGoodLoss d) s = .next (s.failDomain d (pw 0x01)) := by
  rw [exec, execPowerGoodLoss, if_pos (by simp [hclock, hlo, hd])]

theorem exec_domainHoldExpiry {d : Fin 24} {since : Nat} (hclock : s.power.refclk = true)
    (hsince : Tbl.find s.power.unneeded d = some since) (hd : s.domain d = 2) (hheld : s.domainHeld d = 0)
    (hover : since + milli * s.reg 0x6400_06 ≤ s.now) : exec (.domainHoldExpiry d) s =
      .next (State.setReg { s with power := { s.power with unneeded := Tbl.erase s.power.unneeded d } } 0x6400_02 d 3) := by
  rw [exec, execDomainHoldExpiry, hsince]
  simp [hclock, hd, hheld, hover]

/-- The state of a domain that has gone off. -/
def State.downed (s : State) (d : Nat) : State := (s.setReg 0x6400_02 d 0).domainDown d

/-- A request that waited is served (R389). -/
def State.served' (s : State) (d : Nat) : State :=
  (State.setReg { s with power := { s.power with waitingOn := s.power.waitingOn.filter (· != d) } } 0x6400_02 d 1).bump 0x6400_05 d

theorem State.downed_follows (s : State) {d : Nat} (hd : d < 24) :
    (s.setReg 0x6400_02 d 0).Follows (s.downed d) := (State.domainDown_follows _ hd).1

theorem State.downed_power (s : State) {d : Nat} (hd : d < 24) : (s.downed d).power = s.power :=
  (s.downed_follows hd).kept.2.2.2.2

theorem exec_domainPowerDownDone {d : Fin 24} (hd : s.domain d = 3) : exec (.domainPowerDownDone d) s =
    .next (if s.power.waitingOn.contains d.val then (s.downed d).served' d else s.downed d) := by
  have hwaiting := congrArg Power.waitingOn (s.downed_power d.isLt)
  rw [exec, execDomainPowerDownDone, if_neg (by simp [hd]), ← hwaiting]
  dsimp only
  unfold State.served' State.downed
  split <;> rfl

/-- The blocks of a domain that has gone off have stopped. -/
theorem State.downed_stopped (s : State) (d : Nat) :
    (d = 21 → (s.downed d).time.running = false) ∧
      (d = 23 → (s.downed d).cells = s.cells.filter fun c => !(crucibleBase ≤ c.1 && c.1 < crucibleBase + crucibleSize)) ∧
      (d = 4 ∨ d = 5 → ∀ c ∈ domainChannels d, (s.downed d).reg 0x5400_02 c = 0) ∧
      (d = 20 → bitAt ((s.downed d).reg 0x1010_01) 4 = false) ∧
      (d = 23 → ∀ b, b < 8 → (s.downed d).reg 0x5480_02 b = 0) ∧ (d = 3 → (s.downed d).log = {}) := by
  refine ⟨?_, ?_, ?_, ?_, ?_, ?_⟩
  · rintro rfl
    rfl
  · rintro rfl
    obtain ⟨regs, hframe⟩ := (s.setReg 0x6400_02 23 0).clearCrucible.setBanks_frame 0
    rw [State.downed, State.domainDown, hframe]
    rfl
  · intro h c hc
    have hlt : c < 65536 := domainChannels_lt (show d < 24 by omega) c hc
    have heach := State.setEach_reg (s := s.setReg 0x6400_02 d 0) (key := 0x5400_02) (v := 0)
      (domainChannels_lt (show d < 24 by omega)) hlt (.inl hc)
    rcases h with rfl | rfl <;> exact heach
  · rintro rfl
    exact State.clearReady_clear ..
  · rintro rfl b hb
    exact State.setBanks_reg _ 0 hb
  · rintro rfl
    rfl

/-- What a domain that goes off leaves. -/
theorem State.downed_kept (s : State) {d : Nat} (hd : d < 24) :
    (s.downed d).domain d = 0 ∧ (d ≠ 23 → (s.downed d).cells = s.cells) ∧
      s.entriesBut (s.downed d) [0x1010_01, 0x2400_0A, 0x5400_02, 0x5480_02, 0x6400_02] ∧
      (d ∉ [4, 5, 20, 21, 23] → s.regsBut (s.downed d) [regKey 0x6400_02 d]) ∧ (d ≠ 3 → (s.downed d).log = s.log) ∧
      (s.downed d).blobs = s.blobs ∧ (s.downed d).shadow = s.shadow ∧ (s.downed d).sources = s.sources ∧
      (s.downed d).sent = s.sent ∧ (s.downed d).still = s.still := by
  obtain ⟨hfollows, hsent, hlog, hplain, hcells⟩ := (s.setReg 0x6400_02 d 0).domainDown_follows hd
  obtain ⟨hblobs, hshadow, hsources, hstill, -⟩ := hfollows.kept
  have hput : s.entriesBut (s.setReg 0x6400_02 d 0) [0x6400_02] :=
    (s.entriesBut_refl _).setReg (List.mem_singleton_self _) (by omega) 0
  refine ⟨?_, hcells, ?_, fun h => ?_, hlog, hblobs, hshadow, hsources, hsent, hstill⟩
  · exact (hfollows.reg (by decide) (by omega)).trans (State.reg_setReg_same ..)
  · exact (hput.mono (by decide)).trans (((s.setReg 0x6400_02 d 0).domainDown_entries hd).mono (by decide))
  · exact State.regsBut_put (s.regsBut_refl _) (hplain h) (List.mem_singleton_self _)

theorem State.Settles.dram_log (h : s.Settles t) : t.dram = s.dram ∧ t.log = s.log := by
  obtain ⟨regs, unneeded, waitingOn, rfl⟩ := h.frame
  exact ⟨rfl, rfl⟩

/-- A register that settling leaves. -/
theorem State.settlePower_reg (s : State) {key inst : Nat} (hk : key ∉ [0x6400_02, 0x6400_05]) (hi : inst < 65536) :
    s.settlePower.reg key inst = s.reg key inst :=
  s.settlePower_settles.entries.reg s.settlePower_settles.kept.2.2.1 hk hi

end

/-- Settles O49: what lies in each domain starts with `State.domainUp`, fails with `State.faulted`, ends with `State.domainDown`. -/
theorem domainsComeAndGo : Obligations.DomainsComeAndGo := by
  refine ⟨?good, ?lanes, ?timeout, ?loss, ?hold, ?down, ?again⟩
  case good =>
    intro s d hclock hd hlanes
    have hlt := d.isLt
    generalize hu : s.setReg 0x6400_02 d 2 = u
    have hput : s.entriesBut u [0x6400_02] := hu ▸ (s.entriesBut_refl _).setReg (List.mem_singleton_self _) (by omega) 2
    have hon : u.domain d = 2 := hu ▸ State.reg_setReg_same ..
    obtain ⟨hblobs, hshadow, hsent, hlog, hcells, hstill, hpair⟩ : u.blobs = s.blobs ∧ u.shadow = s.shadow ∧ u.sent = s.sent ∧
      u.log = s.log ∧ u.cells = s.cells ∧ u.still = s.still ∧ u.pair = s.pair := hu ▸ ⟨rfl, rfl, rfl, rfl, rfl, rfl, rfl⟩
    have htakeover : u.reg 0x5800_03 = s.reg 0x5800_03 := hput.reg (hu ▸ rfl) (by decide) (by decide)
    obtain ⟨hfollows, hsends, hquiet, hplain⟩ := u.domainUp_follows hlt hlanes
    have hexec := exec_domainPowerGood hclock hd
    rw [hu] at hexec
    have hsettles := (u.domainUp d).settlePower_settles
    obtain ⟨hblobs', hshadow', -, hstill', -⟩ := hfollows.kept
    obtain ⟨hblobs'', hshadow'', -, hsent'', hcells'', hstill'', -⟩ := hsettles.kept
    obtain ⟨hdram'', hlog''⟩ := hsettles.dram_log
    have hreg := fun {k i : Nat} (hk : k ∉ [0x6400_02, 0x6400_05]) (hi : i < 65536) => (u.domainUp d).settlePower_reg hk hi
    have hdomain : (u.domainUp d).domain d = 2 := (hfollows.reg (by decide) (by omega)).trans hon
    refine ⟨_, hexec, ?_, ?channels, ?pcie, ?banks, ?record, fun h => ?_, ?entries, ?plain, ?_, ?_, ?sends, ?_, ?_⟩
    · rw [State.settlePower_domain (by omega) (by omega), hdomain]
    case channels =>
      intro hdram c hc
      have hc' := domainChannels_lt hlt c hc
      obtain ⟨htrains, hstored⟩ := State.trainEach_channel (s := u) (u.reg 0x5800_03 == 6) (domainChannels_lt hlt) hc' (.inl hc)
      rw [← State.domainUp_dram hdram] at htrains hstored
      rw [hreg (by decide) hc', htrains, State.chan, hdram'', ← htakeover, ← hpair]
      exact ⟨rfl, hstored⟩
    case pcie =>
      intro h
      rw [hreg (by decide) (by decide), h]
      exact u.setReady_ready (by decide)
    case banks =>
      intro h b hb
      rw [hreg (by decide) (by omega), h]
      exact u.setBanks_reg 1 hb
    case record =>
      intro h
      refine hsettles.newest ?_
      rw [h]
      exact State.record_newest ..
    · rw [hlog'', hquiet h, hlog]
    case entries =>
      exact (hput.mono (by decide)).trans ((hfollows.entries.mono (by decide)).trans (hsettles.entries.mono (by decide)))
    case plain =>
      intro h
      exact (hput.mono (by decide)).trans (State.entriesBut.trans (fun k _ => by rw [hplain h]) hsettles.entries)
    · rw [hblobs'', hblobs', hblobs]
    · rw [hshadow'', hshadow', hshadow]
    case sends =>
      unfold State.sendsLog
      rw [hsent'', ← hsent]
      exact hsends
    · rw [hcells'', State.domainUp_cells_of hcells]
    · rw [hstill'', hstill', hstill]
  case lanes =>
    intro s d hclock hd hlo hhi
    refine ⟨s.setReg 0x6400_02 d 2, (exec_domainPowerGood hclock hd).trans ?_, State.reg_setReg_same ..,
      State.ledgerBut_put rfl rfl rfl, rfl, rfl, rfl, rfl⟩
    have hup : (s.setReg 0x6400_02 d 2).domainUp d = (List.range 24).foldl State.tryStartPort (s.setReg 0x6400_02 d 2) := by
      obtain h | h | h | h : d.val = 15 ∨ d.val = 16 ∨ d.val = 17 ∨ d.val = 18 := by omega
      all_goals rw [h]; rfl
    rw [hup]
  case timeout =>
    intro s d pll hclock hd
    exact ⟨_, exec_domainPowerTimeout hclock hd pll, s.faulted_spec d.isLt _⟩
  case loss =>
    intro s d hclock hlo hd
    exact ⟨_, exec_powerGoodLoss hclock hlo hd, s.faulted_spec d.isLt _⟩
  case hold =>
    intro s d since hclock hsince hd hheld hover
    exact ⟨_, exec_domainHoldExpiry hclock hsince hd hheld hover, State.reg_setReg_same .., Tbl.find_erase_same ..,
      State.ledgerBut_put rfl rfl rfl, rfl, rfl, rfl, rfl⟩
  case down =>
    intro s d hd hfree
    have hexec := exec_domainPowerDownDone hd
    rw [hfree] at hexec
    obtain ⟨hclock, hbanked, htrained, hready, hbanks, hempty⟩ := s.downed_stopped d
    obtain ⟨hoff, hcells, hentries, hplain, hlog, hblobs, hshadow, -, hsent, hstill⟩ := s.downed_kept d.isLt
    exact ⟨_, hexec, hoff, hclock, hcells, hbanked, htrained, hready, hbanks, hentries, hplain, hempty, hlog, hblobs, hshadow,
      hsent, hstill⟩
  case again =>
    intro s d hd hwaits
    have hlt := d.isLt
    have hexec := exec_domainPowerDownDone hd
    rw [hwaits] at hexec
    obtain ⟨-, -, hentries, hplain, hlog, hblobs, hshadow, hsources, hsent, hstill⟩ := s.downed_kept d.isLt
    refine ⟨_, hexec, ?on, ?waiting, ?requests, ?entries, ?plain, hlog, hblobs, hshadow, hsent, hstill⟩
    case on =>
      rw [if_pos rfl, State.domain, State.served', State.bump, State.bumpBy, State.reg_setReg_key _ _ (by decide) (by omega) (by omega),
        State.reg_setReg_same]
    case waiting =>
      rw [if_pos rfl]
      simp [State.served']
    case requests =>
      have hcount : (s.downed d).reg 0x6400_05 d = s.reg 0x6400_05 d := hentries.reg hsources (by decide) (by omega)
      rw [if_pos rfl, State.served', State.bump, State.bumpBy, State.reg_setReg_same,
        State.reg_setReg_key _ _ (by decide) (by omega) (by omega), ← hcount]
      rfl
    case entries =>
      refine (hentries.mono (by decide)).trans ?_
      exact (((s.downed d).entriesBut_refl _).setReg (by decide) (by omega) 1).setReg (by decide) (by omega) _
    case plain =>
      intro h
      exact State.regsBut_put (State.regsBut_put ((hplain h).mono (by simp)) rfl (by simp)) rfl (by simp)

end Sys2Proof.Machine
end

section
/-! PROOFS. Fuse writes (R421-R424, R427, R428): what a write that verifies programs, what one that does not is answered with, and
what a loss of power between the fuses and the tally row leaves. -/

namespace Sys2Proof.Machine

/-- The entries, the non-volatile store and memory are alike. -/
def State.storesAs (s t : State) : Prop :=
  t.regs = s.regs ∧ t.blobs = s.blobs ∧ t.shadow = s.shadow ∧ t.nvA = s.nvA ∧ t.nvB = s.nvB ∧ t.dram = s.dram

/-- A fuse write has not verified: the fuses stay, and the write is answered with LG-0x0F and recorded (R421). -/
def State.fuseRefused (s t : State) (ss : Nat) : Prop :=
  t.fuses = s.fuses ∧ t.sent.head? = some (.reply ss { code := some (lg 0x0F) }) ∧ t.newest 0x113 (some (lg 0x0F)) ∧ t.regs = s.regs

section
variable {s u : State} {ss key n : Nat} {v : Val}

theorem State.touched_storesAs (s : State) (ss : Nat) : s.storesAs (s.touched ss) := by simp [State.storesAs]

/-- A write whose fuses do not verify. -/
theorem ledgerWrite_fuseFailed {op : WriteOp} (hm : s.managed = true) (hw : s.mayWrite ss key v = true)
    (hop : op (s.touched ss) ss (s.partOf ss key) v = (s.touched ss).fuseFailed key) :
    ∃ t, whenManaged s (fun s => s.ledgerWrite ss key v op) = .next t ∧ s.fuseRefused t ss := by
  refine ⟨((s.touched ss).record 0x113 (some (lg 0x0F)) 0 key true).reply ss (.no (lg 0x0F)), ?_, ?_⟩
  · rw [whenManaged_next hm, State.ledgerWrite, State.tryWrite_of_mayWrite hw, hop]
    rfl
  · exact ⟨by simp, rfl, State.newest_reply (State.record_newest ..) ss _, by simp⟩

/-! ### A limited change (R427, R428) -/

theorem fuseWrite_verified {op : FuseEnd → WriteOp} (hm : s.managed = true) (hw : s.mayWrite ss key (.num n) = true)
    (hop : op .verified (s.touched ss) ss (s.partOf ss key) (.num n) = (u, .ok)) :
    whenManaged s (fun s => s.fuseWrite ss key n op .verified) = .next (u.reply ss .ok) :=
  ledgerWrite_next hm hw hop rfl

theorem fuseWrite_failed {op : FuseEnd → WriteOp} (hm : s.managed = true) (hw : s.mayWrite ss key (.num n) = true)
    (hop : op .failed (s.touched ss) ss (s.partOf ss key) (.num n) = (s.touched ss).fuseFailed key) :
    ∃ t, whenManaged s (fun s => s.fuseWrite ss key n op .failed) = .next t ∧ s.fuseRefused t ss :=
  ledgerWrite_fuseFailed hm hw hop

/-- A loss of power cuts the write: the power-on follows, which keeps the fuses, and no response is sent (R425, R428). -/
theorem fuseWrite_powerLost {op : FuseEnd → WriteOp} (hm : s.managed = true) (hw : s.mayWrite ss key (.num n) = true)
    (hop : op .powerLost (s.touched ss) ss (s.partOf ss key) (.num n) = (u, .ok)) :
    ∃ t, whenManaged s (fun s => s.fuseWrite ss key n op .powerLost) = .next t ∧ t.fuses = u.fuses ∧ t.sent = u.sent ∧
      t.reg 0x1010_07 = 1 := by
  obtain ⟨⟨hcause, hfuses, -⟩, hsent⟩ := u.powerOn_wasReset
  refine ⟨u.powerOn, ?_, hfuses, hsent, hcause⟩
  rw [whenManaged_next hm, State.fuseWrite, if_pos rfl, State.cutWrite, State.tryWrite_of_mayWrite hw, hop]
  rfl

section
variable {new left : Nat} {f : Fuses → Fuses}

/-- The value in force consumes nothing. -/
theorem State.limitedChange_same (h : new = s.fuses.ltd key) (e : FuseEnd) : s.limitedChange key new left e f = (s, .ok) := if_pos h

theorem State.limitedChange_failed (h : new ≠ s.fuses.ltd key) : s.limitedChange key new left .failed f = s.fuseFailed key := by
  rw [State.limitedChange, if_neg h]

theorem State.limitedChange_powerLost (h : new ≠ s.fuses.ltd key) : s.limitedChange key new left .powerLost f =
    ({ s with fuses := { f s.fuses with unrecorded := some (s.tallyRow key left (s.fuses.ltd key) new) } }, .ok) := by
  rw [State.limitedChange, if_neg h]

/-- Another value programs its fuses and adds its row. -/
theorem State.limitedChange_verified (h : new ≠ s.fuses.ltd key) : ∃ u row,
    s.limitedChange key new left .verified f = (u, .ok) ∧ u.fuses = { f s.fuses with tally := (f s.fuses).tally ++ [row] } ∧
      s.storesAs u := by
  refine ⟨_, s.tallyRow key left (s.fuses.ltd key) new, by rw [State.limitedChange, if_neg h], ?_⟩
  simp [State.storesAs]

end

/-- A row tells a limited change of an entry (R428). -/
def TallyRow.tells (r : TallyRow) (key old new : Nat) : Prop :=
  r.index = key / 256 ∧ r.sub = key % 256 ∧ r.old = old ∧ r.new = new

section
variable {op : FuseEnd → WriteOp} {left : Nat} {f : Fuses → Fuses}

/-- A limited change of a session: what verifies programs its fuses and adds its row. -/
theorem fuseWrite_changes (hm : s.managed = true) (hw : s.mayWrite ss key (.num n) = true) (hnew : n ≠ s.fuses.ltd key)
    (hop : op .verified (s.touched ss) ss (s.partOf ss key) (.num n) = (s.touched ss).limitedChange key n left .verified f) :
    ∃ t row, whenManaged s (fun s => s.fuseWrite ss key n op .verified) = .next t ∧
      t.fuses = { f s.fuses with tally := (f s.fuses).tally ++ [row] } ∧ s.storesAs t := by
  obtain ⟨u, row, hchange, hfuses, hstores⟩ := State.limitedChange_verified (s := s.touched ss) (left := left) (f := f)
    (show n ≠ (s.touched ss).fuses.ltd key by rwa [State.touched_fuses])
  rw [State.touched_fuses] at hfuses
  exact ⟨_, row, fuseWrite_verified hm hw (hop.trans hchange), hfuses, by simpa [State.storesAs] using hstores⟩

theorem fuseWrite_refused (hm : s.managed = true) (hw : s.mayWrite ss key (.num n) = true) (hnew : n ≠ s.fuses.ltd key)
    (hop : op .failed (s.touched ss) ss (s.partOf ss key) (.num n) = (s.touched ss).limitedChange key n left .failed f) :
    ∃ t, whenManaged s (fun s => s.fuseWrite ss key n op .failed) = .next t ∧ s.fuseRefused t ss :=
  fuseWrite_failed hm hw (hop.trans (State.limitedChange_failed (by rwa [State.touched_fuses])))

/-- A loss of power between the fuses and their row leaves the row to the next boot. -/
theorem fuseWrite_cut (hm : s.managed = true) (hw : s.mayWrite ss key (.num n) = true) (hnew : n ≠ s.fuses.ltd key)
    (hop : op .powerLost (s.touched ss) ss (s.partOf ss key) (.num n) = (s.touched ss).limitedChange key n left .powerLost f) :
    ∃ t r, whenManaged s (fun s => s.fuseWrite ss key n op .powerLost) = .next t ∧
      t.fuses = { f s.fuses with unrecorded := some r } ∧ r.tells key (s.fuses.ltd key) n ∧ t.sent = s.sent ∧ t.reg 0x1010_07 = 1 := by
  rw [State.limitedChange_powerLost (by rwa [State.touched_fuses])] at hop
  obtain ⟨t, hexec, hfuses, hsent, hcause⟩ := fuseWrite_powerLost hm hw hop
  exact ⟨t, _, hexec, hfuses.trans (by rw [State.touched_fuses]), ⟨rfl, rfl, rfl, rfl⟩, hsent.trans (by simp), hcause⟩

end

/-! ### The values in force (R427) -/

@[simp] theorem Fuses.ltd_debugLock (f : Fuses) : f.ltd 0x6808_01 = if f.debugLock then 1 else 0 := by simp [Fuses.ltd]
@[simp] theorem Fuses.ltd_policy (f : Fuses) : f.ltd 0x6808_02 = f.policy := by simp [Fuses.ltd]
@[simp] theorem Fuses.ltd_roleLock (f : Fuses) : f.ltd 0x6808_03 = f.roleLock := by simp [Fuses.ltd]
@[simp] theorem Fuses.ltd_wallAlias (f : Fuses) : f.ltd 0x2800_04 = f.wallAlias := by simp [Fuses.ltd]

/-! ### The operations (R120, R423, R424) -/

/-- Bits of the policy are set only: none that is set is cleared. -/
theorem policyOp_of_superset {p : Nat} (h : ∀ b, b < 8 → bitAt s.fuses.policy b = true → bitAt p b = true) (e : FuseEnd) (i : Nat) :
    policyOp e s ss i (.num p) = s.limitedChange 0x6808_02 p 0xFF e fun f => { f with policy := p } := by
  have hkept : ((List.range 8).any fun b => bitAt s.fuses.policy b && !bitAt p b) = false :=
    List.any_eq_false.mpr fun b hb hbit => by
      simp only [Bool.and_eq_true, Bool.not_eq_true'] at hbit
      exact absurd (h b (List.mem_range.mp hb) hbit.1) (by simp [hbit.2])
  exact if_neg (by rw [show (Val.num p).n = p from rfl, hkept]; decide)

theorem debugLockOp_one (e : FuseEnd) (s : State) (ss i : Nat) : debugLockOp e s ss i (.num 1) =
    s.limitedChange 0x6808_01 1 0xFF e fun f => { f with debugLock := true } :=
  if_neg (by simp [Val.n])

/-- Another key slot stays usable. -/
theorem othersUsable {f : Fuses} {m n : Nat} (hprogrammed : m < f.integratorKeys.length) (hother : m ≠ n)
    (husable : f.integratorRevoked.contains m = false) :
    ((List.range f.integratorKeys.length).filter fun k => k != n && !f.integratorRevoked.contains k).isEmpty = false := by
  have hmem : m ∈ (List.range f.integratorKeys.length).filter fun k => k != n && !f.integratorRevoked.contains k :=
    List.mem_filter.mpr ⟨List.mem_range.mpr hprogrammed, by rw [husable]; simp [hother]⟩
  exact List.isEmpty_eq_false_iff.mpr (List.ne_nil_of_mem hmem)

/-- A write of L:6808.0C that leaves another key slot usable (R422). -/
theorem revokeKeyOp_of_usable {i k m : Nat} (hprogrammed : m < s.fuses.integratorKeys.length) (hother : m ≠ k)
    (husable : s.fuses.integratorRevoked.contains m = false) (verified : Bool) : revokeKeyOp verified s ss i (.num k) =
      if s.fuses.integratorRevoked.contains k then (s, .ok)
      else if !verified then s.fuseFailed 0x6808_0C
      else (State.closeSessions { s with fuses := { s.fuses with integratorRevoked := k :: s.fuses.integratorRevoked } }
        (fun x => x.keySlot == some k), .ok) :=
  if_neg (by rw [show (Val.num k).n = k from rfl, othersUsable hprogrammed hother husable]; decide)

theorem roleLockOp_num (e : FuseEnd) (s : State) (ss i w : Nat) : roleLockOp e s ss i (.num w) =
    s.limitedChange 0x6808_03 w (3 - s.fuses.roleLocks.length) e fun f => { f with roleLocks := f.roleLocks ++ [w] } := rfl

/-- A second address of the wall that has been programmed is listened for. -/
theorem wallAliasOp_of_changed {r : State × Reply} {e : FuseEnd} {i a : Nat}
    (hr : s.limitedChange 0x2800_04 a (7 - s.fuses.aliases.length) e (fun f => { f with aliases := f.aliases ++ [a] }) = r) :
    wallAliasOp e s ss i (.num a) =
      if r.1.fuses.aliases.length = s.fuses.aliases.length then r else (r.1.listen, r.2) := by
  rw [← hr]
  rfl

end

/-- Settles O4: each operation is `State.limitedChange`, or programs its fuses itself. -/
theorem verifiedFuseWriteProgramsFuses : Obligations.VerifiedFuseWriteProgramsFuses := by
  refine ⟨?key, ?revoke, ?policy, ?debug, ?security, ?image, ?role, ?wall, ?policyFailed, ?policyLost, ?debugFailed, ?debugLost,
    ?roleFailed, ?roleLost, ?wallFailed, ?wallLost, ?keyFailed, ?revokeFailed, ?securityFailed, ?imageFailed⟩
  case key =>
    intro s ss k hm hw hroom
    have hop : programKeyOp true (s.touched ss) ss (s.partOf ss 0x6808_0A) (.bytes k) =
        ({ s.touched ss with fuses := { s.fuses with integratorKeys := s.fuses.integratorKeys ++ [k] } }, .ok) := by
      simp [programKeyOp, integratorSlots, Nat.not_le.mpr hroom, Val.b]
    exact ⟨_, ledgerWrite_next hm hw hop rfl, rfl, by simp [Reply.ok], s.touched_storesAs ss⟩
  case keyFailed =>
    intro s ss k hm hw hroom
    refine ledgerWrite_fuseFailed hm hw ?_
    simp [programKeyOp, integratorSlots, Nat.not_le.mpr hroom]
  case revoke =>
    intro s ss n m hm hw hprogrammed hother husable
    have hop := revokeKeyOp_of_usable (s := s.touched ss) (ss := ss) (i := s.partOf ss 0x6808_0C) (k := n) (m := m) (by simpa)
      hother (by simpa using husable) true
    rw [State.touched_fuses] at hop
    cases hrevoked : s.fuses.integratorRevoked.contains n with
    | true =>
      rw [if_pos hrevoked] at hop
      exact ⟨_, ledgerWrite_next hm hw hop rfl, by simpa using hrevoked, by simp, fun h => absurd h (by simp),
        s.touched_storesAs ss⟩
    | false =>
      rw [if_neg (by simpa using hrevoked), if_neg (by decide)] at hop
      refine ⟨_, ledgerWrite_next hm hw hop rfl, by simp [State.closeSessions], rfl, fun _ x hx => ?_, s.touched_storesAs ss⟩
      simpa using (List.mem_filter.mp hx).2
  case revokeFailed =>
    intro s ss n m hm hw hprogrammed hother husable hrevoked
    refine ledgerWrite_fuseFailed hm hw ?_
    rw [revokeKeyOp_of_usable (m := m) (by simpa) hother (by simpa using husable), State.touched_fuses, hrevoked]
    rfl
  case security =>
    intro s ss v hm hw hrises hforce
    have hforce' : ¬ (s.touched ss).securityInForce < v := by simpa [State.securityInForce, State.slotInForce, State.slotBytes] using hforce
    by_cases hsame : v = s.fuses.minSecurity
    · have hop : minSecurityOp true (s.touched ss) ss (s.partOf ss 0x6808_04) (.num v) = (s.touched ss, .ok) := by
        subst hsame
        simp [minSecurityOp, Val.n, hforce']
      exact ⟨_, ledgerWrite_next hm hw hop rfl, by simp [hsame], by simp [Reply.ok], s.touched_storesAs ss⟩
    · have hop : minSecurityOp true (s.touched ss) ss (s.partOf ss 0x6808_04) (.num v) =
          ({ s.touched ss with fuses := { s.fuses with minSecurity := v } }, .ok) := by
        simp [minSecurityOp, Val.n, hforce', hsame, Nat.not_lt.mpr hrises]
      exact ⟨_, ledgerWrite_next hm hw hop rfl, rfl, by simp [Reply.ok], s.touched_storesAs ss⟩
  case securityFailed =>
    intro s ss v hm hw hrises hforce
    have hforce' : ¬ (s.touched ss).securityInForce < v := by simpa [State.securityInForce, State.slotInForce, State.slotBytes] using hforce
    refine ledgerWrite_fuseFailed hm hw ?_
    simp [minSecurityOp, Val.n, hforce', Nat.not_lt.mpr hrises.le, hrises.ne']
  case image =>
    intro s ss n hm hw hforce
    have hforce' : slotField ((s.touched ss).slotBytes (s.touched ss).slotInForce) 6 1 ≠ n := by
      simpa [State.slotInForce, State.slotBytes] using hforce
    cases hrevoked : s.fuses.imageKeyRevoked.contains n with
    | true =>
      have hop : revokeImageKeyOp true (s.touched ss) ss (s.partOf ss 0x6808_08) (.num n) = (s.touched ss, .ok) := by
        simp_all [revokeImageKeyOp, Val.n]
      exact ⟨_, ledgerWrite_next hm hw hop rfl, by simpa using hrevoked, by simp [Reply.ok], s.touched_storesAs ss⟩
    | false =>
      have hop : revokeImageKeyOp true (s.touched ss) ss (s.partOf ss 0x6808_08) (.num n) =
          ({ s.touched ss with fuses := { s.fuses with imageKeyRevoked := n :: s.fuses.imageKeyRevoked } }, .ok) := by
        simp_all [revokeImageKeyOp, Val.n]
      exact ⟨_, ledgerWrite_next hm hw hop rfl, by simp, by simp [Reply.ok], s.touched_storesAs ss⟩
  case imageFailed =>
    intro s ss n hm hw hforce hrevoked
    have hforce' : slotField ((s.touched ss).slotBytes (s.touched ss).slotInForce) 6 1 ≠ n := by
      simpa [State.slotInForce, State.slotBytes] using hforce
    refine ledgerWrite_fuseFailed hm hw ?_
    simp_all [revokeImageKeyOp, Val.n]
  case policy =>
    intro s ss v hm hw hset
    have hop := policyOp_of_superset (s := s.touched ss) (ss := ss) (by simpa using hset) .verified (s.partOf ss 0x6808_02)
    by_cases hsame : v = s.fuses.policy
    · rw [State.limitedChange_same (by simpa using hsame)] at hop
      exact ⟨_, fuseWrite_verified hm hw hop, by simp [hsame], by simp [hsame], by simp, by simp, s.touched_storesAs ss⟩
    · obtain ⟨t, row, hexec, hfuses, hstores⟩ := fuseWrite_changes hm hw (by simpa using hsame) hop
      exact ⟨t, hexec, by rw [hfuses], by simp [hfuses, hsame], by rw [hfuses], by rw [hfuses], hstores⟩
  case policyFailed =>
    intro s ss v hm hw hnew hset
    exact fuseWrite_refused hm hw (by simpa using hnew) (policyOp_of_superset (by simpa using hset) _ _)
  case policyLost =>
    intro s ss v hm hw hnew hset
    obtain ⟨t, r, hexec, hfuses, ⟨hindex, hsub, hold, hto⟩, hsent, hcause⟩ := fuseWrite_cut hm hw (by simpa using hnew)
      (policyOp_of_superset (by simpa using hset) _ _)
    exact ⟨t, r, hexec, by rw [hfuses], by rw [hfuses], by rw [hfuses], hindex, hsub, by simpa using hold, hto, hsent, hcause⟩
  case debug =>
    rintro s ss _ hm hw rfl
    have hop := debugLockOp_one .verified (s.touched ss) ss (s.partOf ss 0x6808_01)
    cases hlock : s.fuses.debugLock with
    | true =>
      rw [State.limitedChange_same (by simp [hlock])] at hop
      exact ⟨_, fuseWrite_verified hm hw hop, by simp [hlock], by simp, by simp, s.touched_storesAs ss⟩
    | false =>
      obtain ⟨t, row, hexec, hfuses, hstores⟩ := fuseWrite_changes hm hw (by simp [hlock]) hop
      exact ⟨t, hexec, by rw [hfuses], by simp [hfuses], by rw [hfuses], hstores⟩
  case debugFailed =>
    rintro s ss _ hm hw rfl hopen
    exact fuseWrite_refused hm hw (by simp [hopen]) (debugLockOp_one ..)
  case debugLost =>
    rintro s ss _ hm hw rfl hopen
    obtain ⟨t, r, hexec, hfuses, ⟨hindex, hsub, hold, hto⟩, hsent, hcause⟩ := fuseWrite_cut hm hw (by simp [hopen])
      (debugLockOp_one ..)
    exact ⟨t, r, hexec, by rw [hfuses], by rw [hfuses], by rw [hfuses], hindex, hsub, by simpa [hopen] using hold, hto, hsent,
      hcause⟩
  case role =>
    intro s ss v hm hw hnew
    obtain ⟨t, row, hexec, hfuses, hstores⟩ := fuseWrite_changes hm hw (by simpa using hnew) (roleLockOp_num ..)
    exact ⟨t, hexec, by rw [hfuses], by simp [hfuses, Fuses.roleLock], by simp [hfuses], by rw [hfuses], hstores⟩
  case roleFailed =>
    intro s ss v hm hw hnew
    exact fuseWrite_refused hm hw (by simpa using hnew) (roleLockOp_num ..)
  case roleLost =>
    intro s ss v hm hw hnew
    obtain ⟨t, r, hexec, hfuses, ⟨hindex, hsub, hold, hto⟩, hsent, hcause⟩ := fuseWrite_cut hm hw (by simpa using hnew)
      (roleLockOp_num ..)
    exact ⟨t, r, hexec, by simp [hfuses, Fuses.roleLock], by rw [hfuses], by rw [hfuses], hindex, hsub, by simpa using hold, hto, hsent,
      hcause⟩
  case wall =>
    intro s ss v hm hw hnew
    obtain ⟨u, row, hchange, hfuses, hstores⟩ := State.limitedChange_verified (s := s.touched ss) (key := 0x2800_04)
      (left := 7 - (s.touched ss).fuses.aliases.length) (f := fun f => { f with aliases := f.aliases ++ [v] })
      (show v ≠ (s.touched ss).fuses.ltd 0x2800_04 by simpa using hnew)
    have hop := wallAliasOp_of_changed (ss := ss) (i := s.partOf ss 0x2800_04) hchange
    rw [if_neg (by simp [hfuses])] at hop
    rw [State.touched_fuses] at hfuses
    obtain ⟨-, hrest⟩ := hstores
    exact ⟨_, fuseWrite_verified hm hw hop, by simp [State.listen, hfuses], by simp [State.listen, hfuses, Fuses.wallAlias],
      by simp [State.listen, hfuses], by simp [State.listen, hfuses], by simpa [State.listen] using hrest⟩
  case wallFailed =>
    intro s ss v hm hw hnew
    refine fuseWrite_failed hm hw ?_
    rw [wallAliasOp_of_changed (State.limitedChange_failed (by simpa using hnew)), if_pos (by simp [State.fuseFailed])]
  case wallLost =>
    intro s ss v hm hw hnew
    have hop := wallAliasOp_of_changed (ss := ss) (i := s.partOf ss 0x2800_04)
      (State.limitedChange_powerLost (s := s.touched ss) (left := 7 - (s.touched ss).fuses.aliases.length)
        (f := fun f => { f with aliases := f.aliases ++ [v] }) (show v ≠ (s.touched ss).fuses.ltd 0x2800_04 by simpa using hnew))
    rw [if_neg (by simp)] at hop
    obtain ⟨t, hexec, hfuses, hsent, hcause⟩ := fuseWrite_powerLost hm hw hop
    refine ⟨t, _, hexec, by simp [hfuses, State.listen, Fuses.wallAlias], by simp [hfuses, State.listen], by rw [hfuses]; rfl, rfl, rfl,
      ?_, rfl, by simpa [State.listen] using hsent, hcause⟩
    simp [State.tallyRow]

end Sys2Proof.Machine
end

section
/-! PROOFS. Refresh, temperature, tracking and self-refresh of the DRAM channels (R319, R320, R323-R325), and the evacuation that
drift out of range begins (R327 step 1). -/

namespace Sys2Proof.Machine

section
variable {s t : State} {c : Nat}

theorem State.chan_setChan_ne (s : State) (x : Chan) {k : Nat} (hne : k ≠ c) : (s.setChan c x).chan k = s.chan k :=
  Tbl.get_put_ne _ _ _ hne

/-! ### Which entries a counter leaves alone -/

theorem State.reg_bump_same (s : State) (key inst : Nat) :
    (s.bump key inst).reg key inst = satAdd (entryBits key) (s.reg key inst) 1 := State.reg_setReg_same ..

theorem State.reg_bump_key (s : State) {k i k' i' : Nat} (hk : k' ≠ k) (hi : i < 65536) (hi' : i' < 65536) :
    (s.bump k i).reg k' i' = s.reg k' i' := State.reg_setReg_key _ _ hk hi hi'

/-! ### The evacuation of a channel begins (R327 step 1) -/

/-- Held frames that have moved are none any more: outputs alone differ. -/
theorem State.dropMoved_frame (s was : State) : ∃ outputs, s.dropMoved was = { s with outputs := outputs } := by
  unfold State.dropMoved
  refine List.foldlRecOn (motive := fun t : State => ∃ outputs, t = { s with outputs := outputs }) _ _ ⟨s.outputs, rfl⟩ ?_
  rintro _ ⟨outputs, rfl⟩ o -
  dsimp only
  split
  · exact ⟨_, rfl⟩
  · exact ⟨outputs, rfl⟩

theorem State.moveHolds_frame (s : State) : ∃ outputs moved,
    s.moveHolds = { s with outputs := outputs, dram := { s.dram with moved := moved } } := by
  unfold State.moveHolds
  split
  · exact ⟨s.outputs, s.dram.moved, rfl⟩
  · obtain ⟨outputs, hdrop⟩ := State.dropMoved_frame { s with dram := { s.dram with moved := true } } s
    exact ⟨outputs, true, hdrop⟩

/-- What the start of an evacuation changes: the channel's state, the epoch, the action in progress, and held frames that move. -/
theorem State.enterEvacuation_frame (s : State) (c : Nat) : ∃ outputs moved,
    s.enterEvacuation c = { (s.setReg 0x5400_02 c 4).advanceEpoch with
      outputs := outputs
      dram := { s.dram with evacuating := some c, moved := moved }
      recover := { s.recover with active := some (.evacuate c), replanned := false } } := by
  unfold State.enterEvacuation
  dsimp only
  split
  · obtain ⟨outputs, moved, hmoved⟩ := State.moveHolds_frame { (s.setReg 0x5400_02 c 4).advanceEpoch with
      dram := { s.dram with evacuating := some c, moved := false }
      recover := { s.recover with active := some (.evacuate c), replanned := false } }
    exact ⟨outputs, moved, hmoved⟩
  · exact ⟨s.outputs, false, rfl⟩

/-- A channel that may be evacuated, on a device with no recovery action: it is in state 4, with the action in progress. -/
theorem State.enterEvacuation_spec (s : State) (hc : c < 65536) :
    (s.enterEvacuation c).chan c = s.chan c ∧ (s.enterEvacuation c).dram.evacuating = some c ∧
      (s.enterEvacuation c).reg 0x5400_02 c = 4 ∧
      s.ledgerBut (s.enterEvacuation c) [regKey 0x2400_0A 0, regKey 0x5400_02 c] ∧ (s.enterEvacuation c).log = s.log ∧
      (s.enterEvacuation c).sent = s.sent ∧ (s.enterEvacuation c).cells = s.cells ∧ (s.enterEvacuation c).still = s.still ∧
      (s.enterEvacuation c).time = s.time ∧ (s.enterEvacuation c).sources = s.sources := by
  obtain ⟨outputs, moved, hframe⟩ := s.enterEvacuation_frame c
  rw [hframe]
  refine ⟨rfl, rfl, ?_, ⟨?_, rfl, rfl⟩, rfl, rfl, rfl, rfl, rfl, rfl⟩
  · exact (State.reg_setReg_key _ _ (by decide) (by decide) hc).trans (State.reg_setReg_same ..)
  · exact State.regsBut_put (State.regsBut_put (s.regsBut_refl _) rfl (by simp)) rfl (by simp)

/-- Whether an evacuation is refused rests on registers and on the one that runs. -/
theorem State.evacRefusal_congr (hregs : ∀ k i, k ∈ [0x2400_06, 0x5400_02] → i < 65536 → t.reg k i = s.reg k i)
    (hdram : t.dram.evacuating = s.dram.evacuating) (hc : c < 65536) : t.evacRefusal c = s.evacRefusal c := by
  have hservice : ∀ k, k < 65536 → t.chanInService k = s.chanInService k := fun k hk => by
    rw [State.chanInService, hregs _ _ (by simp) hk, State.chanInService]
  have hother : ((List.range 16).any fun k => k != c && t.chanInService k) =
      (List.range 16).any fun k => k != c && s.chanInService k := by
    rw [Bool.eq_iff_iff, List.any_eq_true, List.any_eq_true]
    exact exists_congr fun k => and_congr_right fun hk => by rw [hservice k (by have := List.mem_range.mp hk; omega)]
  rw [State.evacRefusal, hregs _ _ (by simp) (by decide), hdram, hservice c hc, hother, State.evacRefusal]

/-! ### The commands (R319, R320, R323-R325) -/

/-- A refresh falls due: the next one is due an interval later. -/
def State.refreshedAt (s : State) (c : Nat) : State :=
  s.setChan c { s.chan c with refreshed := (s.chan c).refreshed + s.reg 0x5400_0D c }

/-- A refresh that is due is forced with the debt at 8, postponed for a port at urgency 3, or issued (R320). -/
theorem exec_refreshDue {c : Fin 16} (hlive : s.live = true) (hst : s.reg 0x5400_02 c ∈ [2, 4, 5]) (hdue : s.refreshDue c = true) :
    exec (.refreshDue c) s = .next (
      if 8 ≤ s.reg 0x5400_0F c then
        (((s.refreshedAt c).closeRows c).bump 0x5400_10 c).recordLimited second 0x0C4 (some (dm 0x0B)) c 0
      else if s.anyUrgent c then (s.refreshedAt c).bump 0x5400_0F c
      else (s.refreshedAt c).closeRows c) := by
  rw [exec, execRefreshDue, whenLive_next hlive, if_neg (by simp only [List.contains_iff_mem.mpr hst, hdue]; decide)]
  rfl

theorem State.closeRows_refreshedAt (s : State) (c : Nat) :
    ((s.refreshedAt c).closeRows c).chan c = { s.chan c with openRows := [], refreshed := (s.chan c).refreshed + s.reg 0x5400_0D c } := by
  simp [State.closeRows, State.refreshedAt]

theorem State.closeRows_refreshedAt_ne (s : State) {k : Nat} (hne : k ≠ c) : ((s.refreshedAt c).closeRows c).chan k = s.chan k :=
  (State.chan_setChan_ne _ _ hne).trans (State.chan_setChan_ne _ _ hne)

/-- The temperature has moved the refresh interval of a channel (R319). -/
def State.paced (s : State) (c : Nat) (z : Int) (interval : Nat) (code : Code) : State :=
  ((s.setReg 0x5400_0E c (ofSigned 8 z)).setReg 0x5400_0D c interval).record 0x0C5 (some code) c z

theorem State.paced_spec (s : State) {z : Int} (interval : Nat) (code : Code) (hc : c < 65536) :
    (s.paced c z interval code).reg 0x5400_0E c = ofSigned 8 z ∧ (s.paced c z interval code).reg 0x5400_0D c = interval ∧
      (s.paced c z interval code).newest 0x0C5 (some code) ∧
      s.ledgerBut (s.paced c z interval code) [regKey 0x5400_0D c, regKey 0x5400_0E c] ∧
      (s.paced c z interval code).dram = s.dram ∧ s.sendsLog (s.paced c z interval code) ∧
      (s.paced c z interval code).cells = s.cells ∧ (s.paced c z interval code).still = s.still := by
  have hlogs := ((s.setReg 0x5400_0E c (ofSigned 8 z)).setReg 0x5400_0D c interval).record_logs 0x0C5 (some code) c z false
  obtain ⟨-, -, hcells, hstill⟩ := (hlogs.notes []).kept
  refine ⟨?_, ?_, State.record_newest .., ⟨?_, by simp [State.paced], by simp [State.paced]⟩, by simp [State.paced],
    hlogs.raisesOnce.sendsLog, hcells, hstill⟩
  · rw [State.paced, State.record_reg, State.reg_setReg_key _ _ (by decide) hc hc, State.reg_setReg_same]
  · rw [State.paced, State.record_reg, State.reg_setReg_same]
  · exact State.regsBut_put (State.regsBut_put (s.regsBut_refl _) (State.setReg_regs ..) (by simp)) (State.record_regs ..) (by simp)

/-- The state of a channel that has been tracked, with its drift (R323). -/
def State.trackedAt (s : State) (c : Nat) (z : Int) : State :=
  State.setRegI { s.setChan c { s.chan c with trackedAt := s.now } with
    dram := { (s.setChan c { s.chan c with trackedAt := s.now }).dram with tracked := some c } } 0x5400_1D c 16
    (max (-32768) (min 32767 z))

/-- The state of a tracked channel whose drift is out of range: recorded, and to be trained again after its evacuation. -/
def State.drifted (s : State) (c : Nat) (z : Int) : State :=
  ((s.trackedAt c z).record 0x0C2 (some (dm 0x05)) c 0).setChan c
    { ((s.trackedAt c z).record 0x0C2 (some (dm 0x05)) c 0).chan c with trainAfter := true }

/-- Drift out of range of a channel whose turn it is, with no recovery action: it is evacuated. -/
theorem exec_tracking_outOfRange {c : Fin 16} {z : Int} (hm : s.managed = true) (hturn : s.trackNext = some c.val)
    (hdebt : s.reg 0x5400_0F c = 0) (hcalm : s.anyUrgent c = false) (hfree : s.evacRefusal c = none) (hqueue : s.recover.queue = [])
    (hidle : s.recovering = 0) : exec (.tracking c z false) s = .next ((s.drifted c z).enterEvacuation c) := by
  have hreg : ∀ k i, k ≠ 0x5400_1D → i < 65536 → ((s.trackedAt c z).record 0x0C2 (some (dm 0x05)) c 0).reg k i = s.reg k i :=
    fun k i hk hi => by
      rw [State.record_reg, State.trackedAt, State.setRegI, State.reg_setReg_key _ _ hk (by omega) hi]
      rfl
  have hmanaged : ((s.trackedAt c z).record 0x0C2 (some (dm 0x05)) c 0).managed = true := by
    rw [← hm]
    unfold State.managed State.live State.fabricWorks
    rw [hreg _ _ (by decide) (by decide), hreg _ _ (by decide) (by decide), State.record_power]
    rfl
  have hfree' : ((s.trackedAt c z).record 0x0C2 (some (dm 0x05)) c 0).evacRefusal c = none := by
    rw [← hfree]
    refine State.evacRefusal_congr (fun k i hk hi => hreg k i ?_ hi) (by simp [State.trackedAt, State.setRegI]) (by omega)
    rintro rfl
    exact absurd hk (by decide)
  have hrecover : (s.trackedAt c z).recover = s.recover := rfl
  have hidle' : (s.drifted c z).recovering = 0 := by
    rw [← hidle]
    unfold State.recovering State.drifted
    rw [State.setChan_recover, State.record_recover, hrecover]
  rw [exec, execTracking, whenLive_next (State.live_of_managed hm), if_neg (by simp [hturn, hdebt, hcalm])]
  change Host.Outcome.next (if false = true then s.trackedAt c z else
    if (((s.trackedAt c z).record 0x0C2 (some (dm 0x05)) c 0).managed &&
        (((s.trackedAt c z).record 0x0C2 (some (dm 0x05)) c 0).evacRefusal c).isNone &&
        !((s.trackedAt c z).record 0x0C2 (some (dm 0x05)) c 0).recover.queue.contains (.evacuate c)) = true then
      (s.drifted c z).requestEvacuation c
    else (s.trackedAt c z).record 0x0C2 (some (dm 0x05)) c 0) = _
  rw [if_neg (by decide), if_pos (by simp [hmanaged, hfree', hrecover, hqueue]), State.requestEvacuation, if_pos]
  rw [Bool.and_eq_true, decide_eq_true_eq]
  exact ⟨hidle', by simp [State.drifted, hrecover, hqueue]⟩

end

/-- Settles O44: each command changes its channel's registers and its row of `State.chan`, and drift out of range begins an
evacuation. -/
theorem channelsRefreshTrackAndSleep : Obligations.ChannelsRefreshTrackAndSleep := by
  refine ⟨?postponed, ?forced, ?catchUp, ?issued, ?early, ?temperature, ?tracked, ?waits, ?drifted, ?sleeps, ?wakes, ?aborts, ?quiet⟩
  case postponed =>
    intro s c hlive hst hdue hurgent hdebt
    have hexec := exec_refreshDue hlive hst hdue
    rw [if_neg (by omega), if_pos hurgent] at hexec
    exact ⟨_, hexec, State.reg_bump_same .., State.reg_bump_key _ (by decide) (by omega) (by omega),
      State.ledgerBut_put rfl rfl rfl, State.chan_setChan_same .., fun k hne => State.chan_setChan_ne _ _ hne, rfl, rfl, rfl, rfl⟩
  case forced =>
    intro s c hlive hst hdue hdebt
    have hexec := exec_refreshDue hlive hst hdue
    rw [if_pos hdebt] at hexec
    have hcount : (((s.refreshedAt c).closeRows c).bump 0x5400_10 c).reg 0x5400_10 c =
        satAdd (entryBits 0x5400_10) (s.reg 0x5400_10 c) 1 := State.reg_bump_same ..
    have hkept : (((s.refreshedAt c).closeRows c).bump 0x5400_10 c).reg 0x5400_0F c = s.reg 0x5400_0F c :=
      State.reg_bump_key _ (by decide) (by omega) (by omega)
    generalize hu : ((s.refreshedAt c).closeRows c).bump 0x5400_10 c = u at hexec hcount hkept
    have hchan : ∀ k, (u.recordLimited second 0x0C4 (some (dm 0x0B)) c 0).chan k = ((s.refreshedAt c).closeRows c).chan k := fun k => by
      subst hu
      unfold State.chan
      rw [State.recordLimited_dram, State.bump_dram]
    obtain ⟨hledger, hlimits, hcells, hstill⟩ : s.ledgerBut u [regKey 0x5400_10 c] ∧ u.log.limits = s.log.limits ∧
        u.cells = s.cells ∧ u.still = s.still := hu ▸ ⟨State.ledgerBut_put rfl rfl rfl, rfl, rfl, rfl⟩
    have hsent : u.sent = s.sent := hu ▸ rfl
    have hlogs := u.recordEvery_logs u.now second false 0x0C4 (some (dm 0x0B)) c 0 false
    obtain ⟨⟨hregs, hblobs, hshadow⟩, -, hcells', hstill'⟩ := (hlogs.notes []).kept
    refine ⟨_, hexec, by rw [State.recordLimited_reg, hkept], by rw [State.recordLimited_reg, hcount], ?_, fun k hne => ?_,
      fun h => State.recordEvery_newest (fun l hl => h l (hlimits ▸ hl)) .., ?_, ?_, hcells'.trans hcells, hstill'.trans hstill⟩
    · rw [hchan, s.closeRows_refreshedAt]
    · rw [hchan, s.closeRows_refreshedAt_ne hne]
    · obtain ⟨hregs₀, hblobs₀, hshadow₀⟩ := hledger
      exact ⟨hregs₀.trans (hregs.mono (by simp)), hblobs.trans hblobs₀, hshadow.trans hshadow₀⟩
    · have hsends := hlogs.raisesOnce.sendsLog
      unfold State.sendsLog at hsends ⊢
      rwa [hsent] at hsends
  case catchUp =>
    intro s c hlive hcalm hdebt
    rw [exec, execRefreshCatchUp, whenLive_next hlive, if_neg (by simp [hcalm, hdebt])]
    rfl
  case issued =>
    intro s c hlive hst hdue hcalm hdebt
    have hexec := exec_refreshDue hlive hst hdue
    rw [if_neg (by omega), if_neg (by simp [hcalm])] at hexec
    exact ⟨_, hexec, s.closeRows_refreshedAt c, fun k hne => s.closeRows_refreshedAt_ne hne, ⟨s.regsBut_refl _, rfl, rfl⟩, rfl, rfl,
      rfl, rfl⟩
  case early =>
    intro s c hlive hearly
    rw [exec, execRefreshDue, whenLive_next hlive, if_pos (by simp [State.refreshDue, hearly])]
  case temperature =>
    intro s c z hlive hst hlo hhi
    have hmeasured : (s.setReg 0x5400_0E c (ofSigned 8 z)).reg 0x5400_0D c = s.reg 0x5400_0D c :=
      State.reg_setReg_key _ _ (by decide) (by omega) (by omega)
    have hexec : exec (.temperatureRead c z) s = .next (
        if 85 < z ∧ s.reg 0x5400_0D c = 3900 then s.paced c z 1950 (dm 0x0C)
        else if z ≤ 80 ∧ s.reg 0x5400_0D c = 1950 then s.paced c z 3900 (dm 0x0D)
        else s.setReg 0x5400_0E c (ofSigned 8 z)) := by
      rw [exec, execTemperatureRead, whenLive_next hlive, if_neg (by simp only [List.contains_iff_mem.mpr hst]; decide),
        show max (-128) (min 127 z) = z by omega]
      simp only [State.setRegI, hmeasured, Bool.and_eq_true, decide_eq_true_eq]
      rfl
    rw [hexec]
    split_ifs with hhot hcold
    · obtain ⟨hread, hpace, hnewest, hrest⟩ := s.paced_spec (z := z) 1950 (dm 0x0C) (show c.val < 65536 by omega)
      exact ⟨_, rfl, hread, fun _ _ => ⟨hpace, hnewest⟩, fun h => by omega, fun h => by omega, hrest⟩
    · obtain ⟨hread, hpace, hnewest, hrest⟩ := s.paced_spec (z := z) 3900 (dm 0x0D) (show c.val < 65536 by omega)
      exact ⟨_, rfl, hread, fun h => by omega, fun _ _ => ⟨hpace, hnewest⟩, fun h => by omega, hrest⟩
    · exact ⟨_, rfl, State.reg_setReg_same .., fun h h' => absurd ⟨h, h'⟩ hhot, fun h h' => absurd ⟨h, h'⟩ hcold,
        fun _ _ => ⟨hmeasured, rfl⟩, ⟨State.regsBut_put (s.regsBut_refl _) rfl (by simp), rfl, rfl⟩, rfl, .inl rfl, rfl, rfl⟩
  case tracked =>
    intro s c z hlive hturn hdebt hcalm
    refine ⟨s.trackedAt c z, ?_, State.reg_setReg_same .., rfl, State.chan_setChan_same .., fun k hne => State.chan_setChan_ne _ _ hne,
      State.ledgerBut_put rfl rfl rfl, rfl, rfl, rfl, rfl⟩
    rw [exec, execTracking, whenLive_next hlive, if_neg (by simp [hturn, hdebt, hcalm])]
    rfl
  case waits =>
    intro s c z ok hlive hother
    rw [exec, execTracking, whenLive_next hlive, if_pos (by simp [hother])]
  case drifted =>
    intro s c z hm hturn hdebt hcalm hfree hqueue hidle
    obtain ⟨hchan, hevac, hst, hledger, hlog, hsent, hcells, hstill, htime, hsources⟩ :=
      (s.drifted c z).enterEvacuation_spec (show c.val < 65536 by omega)
    have hlogs := (s.trackedAt c z).record_logs 0x0C2 (some (dm 0x05)) c 0 false
    have hnewest := (s.trackedAt c z).record_newest 0x0C2 (some (dm 0x05)) c 0 false
    obtain ⟨-, -, hcells', hstill'⟩ := (hlogs.notes []).kept
    have hdrift : s.ledgerBut (s.drifted c z) [regKey 0x2400_0A 0, regKey 0x5400_02 c, regKey 0x5400_1D c] :=
      ⟨State.regsBut_put (s.regsBut_refl _) (State.record_regs ..) (by simp), State.record_blobs .., State.record_shadow ..⟩
    refine ⟨_, exec_tracking_outOfRange hm hturn hdebt hcalm hfree hqueue hidle, ?_, ?_, hevac, hst, ?_, ?_, ?_, ?_⟩
    · have hon : ((s.drifted c z).enterEvacuation c).reg 0x6400_02 3 = (s.drifted c z).reg 0x6400_02 3 :=
        hledger.1.reg hsources (by unfold regKey; simp; omega)
      unfold State.logged State.logWaiting State.now
      rw [hlog, hon, htime]
      exact hnewest.recent.logged
    · rw [hchan, State.drifted, State.chan_setChan_same]
    · obtain ⟨hregs, hblobs, hshadow⟩ := hdrift
      obtain ⟨hregs', hblobs', hshadow'⟩ := hledger
      exact ⟨hregs.trans (hregs'.mono (by simp)), hblobs'.trans hblobs, hshadow'.trans hshadow⟩
    · unfold State.sendsLog
      rw [hsent]
      exact hlogs.raisesOnce.sendsLog
    · exact hcells.trans hcells'
    · exact hstill.trans hstill'
  case sleeps =>
    intro s c hlive hst hon hempty hidle htolerant
    refine ⟨((((s.closeRows c).setReg 0x5400_02 c 3).setReg 0x5400_0F c 0).bump 0x5400_16 c), ?_, ?_, ?_, ?_,
      State.chan_setChan_same .., fun k hne => State.chan_setChan_ne _ _ hne, rfl, ?_, rfl, rfl, rfl, rfl⟩
    · rw [exec, execSelfRefreshEntry, whenLive_next hlive, if_pos]
      simpa [hst, hon, hempty, hidle] using htolerant
    · rw [State.reg_bump_key _ (by decide) (by omega) (by omega), State.reg_setReg_key _ _ (by decide) (by omega) (by omega),
        State.reg_setReg_same]
    · rw [State.reg_bump_key _ (by decide) (by omega) (by omega), State.reg_setReg_same]
    · rw [State.reg_bump_same, State.reg_setReg_key _ _ (by decide) (by omega) (by omega),
        State.reg_setReg_key _ _ (by decide) (by omega) (by omega)]
      rfl
    · exact ⟨State.regsBut_put (State.regsBut_put (State.regsBut_put (s.regsBut_refl _) rfl (by simp)) rfl (by simp)) rfl (by simp),
        rfl, rfl⟩
  case wakes =>
    intro s c hlive hbusy hst
    refine ⟨(((s.setReg 0x5400_02 c 2).setReg 0x5400_0F c 0).refreshFromNow c), ?_, ?_, State.reg_setReg_same ..,
      State.chan_setChan_same .., fun k hne => State.chan_setChan_ne _ _ hne, ?_, rfl, rfl, rfl, rfl⟩
    · rw [exec, execSelfRefreshExit, whenLive_next hlive, if_neg (by simp [hbusy]), if_neg (by decide), if_pos hst]
    · exact (State.reg_setReg_key _ _ (by decide) (by omega) (by omega)).trans (State.reg_setReg_same ..)
    · exact ⟨State.regsBut_put (State.regsBut_put (s.regsBut_refl _) rfl (by simp)) rfl (by simp), rfl, rfl⟩
  case aborts =>
    intro s c hlive hbegun
    obtain ⟨x, hx⟩ : ∃ x, (s.itemsAt c).head? = some x := by
      cases hhead : (s.itemsAt c).head? with
      | none => simp [State.entryBegun, hhead] at hbegun
      | some x => exact ⟨x, rfl⟩
    have hbusy : (s.itemsAt c).isEmpty = false := by
      cases hitems : s.itemsAt c with
      | nil => simp [hitems] at hx
      | cons => rfl
    have hst : s.reg 0x5400_02 c = 2 := by
      unfold State.entryBegun at hbegun
      simp only [Bool.and_eq_true, beq_iff_eq] at hbegun
      exact hbegun.1.1.1.1
    refine ⟨(s.setChan c { s.chan c with aborted := true }).bump 0x5400_17 c, ?_, ?_, State.reg_bump_same .., ?_,
      State.chan_setChan_same .., fun k hne => State.chan_setChan_ne _ _ hne, rfl, rfl, rfl, rfl⟩
    · rw [exec, execSelfRefreshExit, whenLive_next hlive, if_neg (by simp [hbusy]), if_pos rfl, if_pos hbegun]
    · exact (State.reg_bump_key _ (by decide) (by omega) (by omega)).trans hst
    · exact State.ledgerBut_put rfl rfl rfl
  case quiet =>
    intro s c hlive hst hnot
    rw [exec, execSelfRefreshExit, whenLive_next hlive]
    split
    · rfl
    · rw [if_pos rfl, if_neg (by simp [hnot])]

end Sys2Proof.Machine
end

section
/-! PROOFS. PCIe mailboxes, the memory windows and BAR0 (R291, R301, R395, R415). -/

namespace Sys2Proof.Machine

/-! ### The bursts of an access (R291, R415) -/

/-- The whole beats that some bytes of a 1 KiB block lie in are a burst inside it. -/
theorem hostBeats_inBlock {lo hi k : Nat} (hlt : lo < hi) (hlo : k * 1024 ≤ lo) (hhi : hi ≤ (k + 1) * 1024) :
    1 ≤ ceilDiv' hi 64 - lo / 64 ∧ ceilDiv' hi 64 - lo / 64 ≤ 16 ∧
      lo / 64 * 64 % 1024 + 64 * (ceilDiv' hi 64 - lo / 64) ≤ 1024 := by
  unfold ceilDiv'
  rw [if_neg (by decide)]
  omega

/-- The blocks of an access lie in it, each inside 1 KiB. -/
theorem mem_hostBlocks {a len : Nat} {b : Nat × Nat} (h : b ∈ hostBlocks a len) :
    a ≤ b.1 ∧ b.1 < b.2 ∧ b.2 ≤ a + len ∧ ∃ k, k * 1024 ≤ b.1 ∧ b.2 ≤ (k + 1) * 1024 := by
  unfold hostBlocks at h
  obtain ⟨hmem, hlt⟩ := List.mem_filter.mp h
  obtain ⟨k, -, rfl⟩ := List.mem_map.mp hmem
  have hlt : max a ((a / 1024 + k) * 1024) < min (a + len) ((a / 1024 + k + 1) * 1024) := by simpa using hlt
  exact ⟨le_max_left .., hlt, min_le_left .., a / 1024 + k, le_max_right .., min_le_right ..⟩

/-- A block begins at each multiple of 1 KiB inside an access. -/
theorem hostBlocks_at {a len k : Nat} (hlo : a ≤ k * 1024) (hhi : k * 1024 < a + len) :
    ∃ b ∈ hostBlocks a len, b.1 = k * 1024 := by
  have hceil : k < ceilDiv' (a + len) 1024 := by
    unfold ceilDiv'
    rw [if_neg (by decide)]
    omega
  have hfloor : a / 1024 ≤ k := by omega
  refine ⟨(max a ((a / 1024 + (k - a / 1024)) * 1024), min (a + len) ((a / 1024 + (k - a / 1024) + 1) * 1024)),
    List.mem_filter.mpr ⟨List.mem_map.mpr ⟨k - a / 1024, List.mem_range.mpr (by omega), rfl⟩, ?_⟩, ?_⟩
  · simp only [Nat.add_sub_cancel' hfloor, decide_eq_true_eq]
    omega
  · simp only [Nat.add_sub_cancel' hfloor]
    omega

/-- An access of at least one byte meets a block. -/
theorem hostBlocks_ne_nil {a len : Nat} (h : 0 < len) : hostBlocks a len ≠ [] := by
  have hceil : a / 1024 < ceilDiv' (a + len) 1024 := by
    unfold ceilDiv'
    rw [if_neg (by decide)]
    omega
  refine List.ne_nil_of_mem (a := (max a ((a / 1024 + 0) * 1024), min (a + len) ((a / 1024 + 0 + 1) * 1024)))
    (List.mem_filter.mpr ⟨List.mem_map.mpr ⟨0, List.mem_range.mpr (by omega), rfl⟩, ?_⟩)
  simp only [decide_eq_true_eq]
  omega

/-- The device addresses of the windows do not reach the register space: past the end of a window no target begins (R415). -/
theorem targetOf_pastWindow : targetOf 0x1000000000 = none ∧ targetOf 0x8004000000 = none := by
  refine ⟨?_, ?_⟩ <;> simp [targetOf]

theorem targetOf_registers {x : Nat} (h : targetOf x = some 24) : 0xC000000000 ≤ x := by
  unfold targetOf at h
  simp only [Bool.and_eq_true, decide_eq_true_eq] at h
  split_ifs at h
  · have := Option.some.inj h
    omega
  · have := Option.some.inj h
    omega
  · omega

/-- The device address of a window's offset. -/
theorem barAddress_cases {bar : Bar} {offset a : Nat} (h : barAddress bar offset = some a) :
    a < 0x1000000000 ∨ 0x8000000000 ≤ a ∧ a < 0x8004000000 := by
  unfold barAddress at h
  split at h
  · cases h
  all_goals
    split at h
    · cases h
      omega
    · cases h

theorem exists_mem_zipIdx {α : Type} {l : List α} {x : α} (h : x ∈ l) : ∃ i, (x, i) ∈ l.zipIdx := by
  obtain ⟨i, hi⟩ := List.mem_iff_getElem?.mp h
  exact ⟨i, List.mk_mem_zipIdx_iff_getElem?.mpr hi⟩

/-! ### Bursts that wait at their targets (R291, R293) -/

/-- A burst of the host as it waits. -/
def State.hostItem (s : State) (r : FabReq) : FabItem :=
  { port := 36, target := (targetOf r.address).getD 0, req := r, issued := s.now, since := firstCycle s.now }

/-- A burst of the host may wait at its target. -/
def State.takesBurst (s : State) (r : FabReq) : Prop :=
  burstFormed r = true ∧ r.cls = 2 ∧ s.rangeUsable r.address (64 * r.beats) = true ∧
    ∀ k, targetOf r.address = some k → s.reg 0x5400_02 k ≠ 6

/-- The bursts wait behind what waits already. -/
def State.withBursts (s : State) (xs : List FabItem) : State := { s with fabric := { s.fabric with queue := s.fabric.queue ++ xs } }

section
variable {s : State} {r : FabReq} {rs : List FabReq}

theorem FabReq.hostClass (h : r.cls = 2) : { r with cls := requestClass 36 r } = r := by
  have hclass : requestClass 36 r = 2 := by simp [requestClass]
  rw [hclass, ← h]

theorem State.present_queued (h : s.takesBurst r) : s.present 36 r = s.withBursts [s.hostItem r] := by
  obtain ⟨hformed, hcls, husable, hservice⟩ := h
  have htarget : ∃ k, targetOf r.address = some k := by
    unfold State.rangeUsable at husable
    split at husable
    · cases husable
    · exact ⟨_, by assumption⟩
  obtain ⟨k, hk⟩ := htarget
  rw [State.present, FabReq.hostClass hcls]
  dsimp only
  rw [if_neg (by simp [hformed, husable]), hk]
  dsimp only
  rw [if_neg (by simp [hservice k hk]), State.withBursts, State.hostItem, hk]
  rfl

theorem State.presentEach_queued (h : ∀ r ∈ rs, s.takesBurst r) :
    rs.foldl (fun (t : State) r => t.present 36 r) s = s.withBursts (rs.map s.hostItem) := by
  induction rs generalizing s with
  | nil => simp [State.withBursts]
  | cons r rs ih =>
    obtain ⟨hr, hrs⟩ := List.forall_mem_cons.mp h
    rw [List.foldl_cons, State.present_queued hr, ih (s := s.withBursts [s.hostItem r]) hrs]
    unfold State.withBursts
    simp only [List.append_assoc, List.map_cons, List.cons_append, List.nil_append]
    rfl

/-- The bursts of an access through a window may all wait, where every one lies in usable memory of a channel in service. -/
theorem State.takesBursts {a len : Nat} {bar : Bar} {offset : Nat} {f : Nat × Nat → Nat → FabReq}
    (hbar : barAddress bar offset = some a)
    (hf : ∀ b k, (f b k).address = b.1 / 64 * 64 ∧ (f b k).beats = ceilDiv' b.2 64 - b.1 / 64 ∧ (f b k).cls = 2)
    (hrs : rs = (hostBlocks a len).zipIdx.map fun p => f p.1 p.2)
    (h : ∀ r ∈ rs, s.rangeUsable r.address (64 * r.beats) = true ∧ ∀ k, targetOf r.address = some k → s.reg 0x5400_02 k ≠ 6) :
    ∀ r ∈ rs, s.takesBurst r := by
  have hinWindow : ∀ k, a ≤ k * 1024 → k * 1024 < a + len → targetOf (k * 1024) ≠ none := by
    intro k hlo hhi hnone
    obtain ⟨b, hb, hstart⟩ := hostBlocks_at hlo hhi
    obtain ⟨i, hi⟩ := exists_mem_zipIdx hb
    obtain ⟨husable, -⟩ := h (f b i) (hrs ▸ List.mem_map.mpr ⟨(b, i), hi, rfl⟩)
    obtain ⟨haddress, -, -⟩ := hf b i
    rw [haddress, hstart, show k * 1024 / 64 * 64 = k * 1024 by omega, State.rangeUsable, hnone] at husable
    cases husable
  intro r hr
  obtain ⟨husable, hservice⟩ := h r hr
  obtain ⟨⟨b, i⟩, hmem, rfl⟩ := List.mem_map.mp (hrs ▸ hr)
  obtain ⟨haddress, hbeats, hcls⟩ := hf b i
  obtain ⟨hlo, hlt, hhi, k, hkLo, hkHi⟩ := mem_hostBlocks (List.fst_mem_of_mem_zipIdx hmem)
  dsimp only at hlo hlt hhi hkLo hkHi
  obtain ⟨hone, hsixteen, hinside⟩ := hostBeats_inBlock hlt hkLo hkHi
  have hmemory : targetOf (b.1 / 64 * 64) ≠ some 24 := by
    intro htarget
    have hregisters := targetOf_registers htarget
    obtain ⟨hdram, hcrucible⟩ := targetOf_pastWindow
    rcases barAddress_cases hbar with hwindow | ⟨-, hwindow⟩
    · exact hinWindow 0x4000000 (by omega) (by omega) hdram
    · exact hinWindow 0x20010000 (by omega) (by omega) hcrucible
  refine ⟨?_, hcls, husable, hservice⟩
  unfold burstFormed
  dsimp only
  rw [haddress, hbeats]
  simp [hone, hsixteen, hinside, hmemory]

end

/-! ### A refused read (R301) -/

section
variable {s : State} {r : FabReq}

/-- A refused request stands in its port's outcome record. -/
theorem State.refuseForm_refusedAt (s : State) {port : Nat} (hport : port < 65536) (c : Code) (address cls : Nat) :
    s.refusedAt (s.refuseForm port c address cls) port address cls c := by
  refine ⟨?_, ?_, ?_, ?_, ?_, ?_, by simp [State.refuseForm, State.refuseAccess]⟩
  · rw [State.refuseForm, State.recordLimited_reg, State.refuseAccess, State.reg_setReg_key _ _ (by decide) hport hport,
      State.reg_setReg_key _ _ (by decide) hport hport]
    exact State.reg_bump_same ..
  · rw [State.blob, State.refuseForm, State.recordLimited_blobs, State.refuseAccess]
    exact Tbl.get_put_same ..
  · rw [State.refuseForm, State.recordLimited_reg, State.refuseAccess, State.reg_setReg_key _ _ (by decide) hport hport,
      State.reg_setReg_same]
  · rw [State.refuseForm, State.recordLimited_reg, State.refuseAccess, State.reg_setReg_same]
  · have haccess : s.regsBut (s.refuseAccess port c address cls) [regKey 0x5020_04 port, regKey 0x5020_08 port, regKey 0x5020_09 port] :=
      State.regsBut_put (State.regsBut_put (State.regsBut_put (s.regsBut_refl _) rfl (by simp)) rfl (by simp)) rfl (by simp)
    intro k hk
    rw [State.refuseForm, State.recordLimited_regs, haccess k hk]
  · exact State.blobsBut_put (s.blobsBut_refl _) (State.recordLimited_blobs ..) (by simp)

theorem State.refuseForm_frame (s : State) (port : Nat) (c : Code) (address cls : Nat) :
    (s.refuseForm port c address cls).acc = s.acc ∧ (s.refuseForm port c address cls).fabric = s.fabric ∧
      (s.refuseForm port c address cls).cells = s.cells ∧ (s.refuseForm port c address cls).still = s.still := by
  simp [State.refuseForm, State.refuseAccess, State.cells, State.still]

/-- A burst of the host outside usable memory is refused, and its read ends. -/
theorem State.present_unusable (hcls : r.cls = 2) (h : s.rangeUsable r.address (64 * r.beats) = false) :
    s.present 36 r = (s.refuseForm 36 (fb 0x03) r.address 2).abortRead 36 r := by
  rw [State.present, FabReq.hostClass hcls]
  dsimp only
  rw [if_pos (by simp [h]), State.refuseRequest, hcls]
  rfl

/-- A read that loses its one burst ends with Completer Abort. -/
theorem State.abortRead_last {t : State} {h : HostRead} {hs : List HostRead} (hread : r.write = false)
    (hreads : t.fabric.reads = hs ++ [h]) (hnew : ∀ x ∈ hs, r.id ∉ x.left) (hleft : r.id ∈ h.left) (hok : h.failed = false) :
    t.abortRead 36 r = (t.putHostRead h { h with left := h.left.erase r.id, failed := true }).send (.completion none) := by
  have hfind : t.hostReadOf r.id = some h := by
    rw [State.hostReadOf, hreads, List.find?_append, List.find?_eq_none.mpr fun x hx => by simpa using hnew x hx]
    simp [hleft]
  rw [State.abortRead, if_neg (by simp [hread]), hfind]
  simp [hok]

end

/-! ### The request buffers and BAR0 (R415) -/

section
variable {s : State} {m : Nat}

theorem State.requestBuffer_length (s : State) (m : Nat) : 4096 ≤ (s.requestBuffer m).length := by
  simp only [State.requestBuffer, List.length_append, List.length_replicate]
  omega

/-- Bytes that are written into a request buffer stand there, and the others stay. -/
theorem State.fillBuffer_getElem? (s : State) {off k : Nat} {bs : Bytes} (hfits : off + bs.length ≤ 4096) (hk : k < 4096) :
    ((s.fillBuffer m off bs).requestBuffer m)[k]? =
      if off ≤ k ∧ k < off + bs.length then bs[k - off]? else (s.requestBuffer m)[k]? := by
  have hlong := s.requestBuffer_length m
  generalize hb : s.requestBuffer m = b at *
  have hbuffer : (s.fillBuffer m off bs).requestBuffer m = (b.take off ++ bs ++ b.drop (off + bs.length)).take 4096 := by
    rw [State.requestBuffer, State.fillBuffer, hb]
    simp only [Tbl.get_put_same]
    rw [List.append_right_eq_self, List.replicate_eq_nil_iff]
    simp only [List.length_take, List.length_append, List.length_drop]
    omega
  rw [hbuffer, List.getElem?_take_of_lt hk, List.append_assoc]
  have htake : (b.take off).length = off := by
    rw [List.length_take]
    omega
  split_ifs with h
  · obtain ⟨hlo, hhi⟩ := h
    rw [List.getElem?_append_right (by omega), htake, List.getElem?_append_left (by omega)]
  · by_cases hlo : k < off
    · rw [List.getElem?_append_left (by omega), List.getElem?_take_of_lt hlo]
    · rw [List.getElem?_append_right (by omega), List.getElem?_append_right (by omega), htake, List.getElem?_drop]
      congr 1
      omega

/-- The other buffers and all else stay. -/
theorem State.fillBuffer_frame (s : State) (m off : Nat) (bs : Bytes) :
    ∃ x, s.fillBuffer m off bs = { s with acc := { s.acc with mailboxRequest := x } } := ⟨_, rfl⟩

/-- The bytes of a write of a request buffer through BAR0. -/
theorem State.setBar0Byte_buffer (s : State) (hm : m < 4) {off : Nat} (hoff : off < 4096) (b : Byte) :
    s.setBar0Byte (m * 0x2000 + off) b = s.fillBuffer m off [b] := by
  rw [State.setBar0Byte, if_neg (by omega), show (m * 0x2000 + off) % 0x2000 = off by omega,
    show (m * 0x2000 + off) / 0x2000 = m by omega, if_pos (by omega)]

/-- A write through BAR0 into a request buffer fills it. -/
theorem State.setBar0Bytes_buffer (hm : m < 4) {off : Nat} (data : Bytes) {n : Nat} (hfits : off + n + data.length ≤ 4096) :
    (∃ x, (data.zipIdx n).foldl (fun (t : State) p => t.setBar0Byte (m * 0x2000 + off + p.2) p.1) s =
        { s with acc := { s.acc with mailboxRequest := x } }) ∧
      ∀ k, k < 4096 → (((data.zipIdx n).foldl (fun (t : State) p => t.setBar0Byte (m * 0x2000 + off + p.2) p.1) s).requestBuffer m)[k]? =
        if off + n ≤ k ∧ k < off + n + data.length then data[k - (off + n)]? else (s.requestBuffer m)[k]? := by
  induction data generalizing s n with
  | nil =>
    refine ⟨⟨s.acc.mailboxRequest, rfl⟩, fun k hk => ?_⟩
    rw [if_neg (by simp)]
    rfl
  | cons b data ih =>
    rw [List.length_cons] at hfits
    rw [List.zipIdx_cons, List.foldl_cons]
    dsimp only
    rw [Nat.add_assoc (m * 0x2000) off n, s.setBar0Byte_buffer hm (show off + n < 4096 by omega)]
    obtain ⟨⟨x, hframe⟩, hbytes⟩ := ih (s := s.fillBuffer m (off + n) [b]) (n := n + 1) (by omega)
    refine ⟨⟨x, hframe⟩, fun k hk => ?_⟩
    rw [hbytes k hk, s.fillBuffer_getElem? (by simp; omega) hk, List.length_singleton, List.length_cons]
    by_cases hhere : k = off + n
    · subst hhere
      rw [if_neg (by omega), if_pos (by omega), if_pos (by omega), Nat.sub_self]
      rfl
    · by_cases hlater : off + (n + 1) ≤ k ∧ k < off + (n + 1) + data.length
      · rw [if_pos hlater, if_pos (by omega), show k - (off + n) = k - (off + (n + 1)) + 1 by omega, List.getElem?_cons_succ]
      · rw [if_neg hlater, if_neg (by omega), if_neg (by omega)]

/-- A write that covers no doorbell and no status of a mailbox does nothing there. -/
theorem bar0Control_none {o : Nat} {data : Bytes} (hbell : wordAt o data (m * 0x2000 + 0x1FF0) = none)
    (hstatus : wordAt o data (m * 0x2000 + 0x1FF4) = none) : State.bar0Control o data s m = s := by
  rw [State.bar0Control, hbell, hstatus, if_neg (by simp), if_neg (by simp)]

theorem wordAt_none {o at' : Nat} {data : Bytes} (h : at' < o ∨ o + data.length < at' + 4) : wordAt o data at' = none := by
  rw [wordAt, if_neg]
  simp only [Bool.and_eq_true, decide_eq_true_eq]
  omega

/-- A write of one word at a mailbox's control registers does what it does at that mailbox. -/
theorem State.bar0Controls_one (s : State) (hm : m < 4) {o : Nat} {data : Bytes} (hlen : data.length = 4)
    (ho : o = m * 0x2000 + 0x1FF0 ∨ o = m * 0x2000 + 0x1FF4) :
    (List.range 4).foldl (State.bar0Control o data) s = State.bar0Control o data s m := by
  have hother : ∀ k, k ≠ m → ∀ t, State.bar0Control o data t k = t := fun k hk t =>
    bar0Control_none (wordAt_none (by omega)) (wordAt_none (by omega))
  rw [show List.range 4 = [0, 1, 2, 3] from rfl]
  simp only [List.foldl_cons, List.foldl_nil]
  obtain rfl | rfl | rfl | rfl : m = 0 ∨ m = 1 ∨ m = 2 ∨ m = 3 := by omega
  · rw [hother 1 (by decide), hother 2 (by decide), hother 3 (by decide)]
  · rw [hother 0 (by decide), hother 2 (by decide), hother 3 (by decide)]
  · rw [hother 0 (by decide), hother 1 (by decide), hother 3 (by decide)]
  · rw [hother 0 (by decide), hother 1 (by decide), hother 2 (by decide)]

/-- The control words of BAR0 lie past its buffers: no byte is written there. -/
theorem State.setBar0Bytes_control (s : State) (hm : m < 4) {off n : Nat} (hoff : 0x1000 ≤ off) (data : Bytes)
    (hfits : off + n + data.length ≤ 0x2000) :
    (data.zipIdx n).foldl (fun (t : State) p => t.setBar0Byte (m * 0x2000 + off + p.2) p.1) s = s := by
  induction data generalizing n with
  | nil => rfl
  | cons b data ih =>
    rw [List.length_cons] at hfits
    rw [List.zipIdx_cons, List.foldl_cons]
    dsimp only
    rw [State.setBar0Byte, if_neg (by omega), if_neg (by omega), ih (by omega)]

/-- A doorbell or status word is written through BAR0. -/
theorem State.bar0Write_control (s : State) (hm : m < 4) {off : Nat} {data : Bytes} (hlen : data.length = 4)
    (hoff : off = 0x1FF0 ∨ off = 0x1FF4) :
    s.bar0Write (m * 0x2000 + off) data = State.bar0Control (m * 0x2000 + off) data s m := by
  rw [State.bar0Write, s.setBar0Bytes_control hm (by omega) data (by omega), s.bar0Controls_one hm hlen (by omega)]

/-- A write into a request buffer covers no control word. -/
theorem State.bar0Write_buffer (s : State) {off : Nat} {data : Bytes} (hfits : off + data.length ≤ 4096) :
    s.bar0Write (m * 0x2000 + off) data =
      data.zipIdx.foldl (fun (t : State) p => t.setBar0Byte (m * 0x2000 + off + p.2) p.1) s := by
  rw [State.bar0Write]
  refine List.foldlRecOn (motive := fun t => t = data.zipIdx.foldl
    (fun (t : State) p => t.setBar0Byte (m * 0x2000 + off + p.2) p.1) s) (List.range 4) _ rfl ?_
  rintro _ rfl k hk
  have := List.mem_range.mp hk
  exact bar0Control_none (wordAt_none (by omega)) (wordAt_none (by omega))

/-- A byte of BAR0 in a request buffer. -/
theorem State.bar0Byte_buffer (s : State) (hm : m < 4) {k : Nat} (hk : k < 4096) :
    s.bar0Byte (m * 0x2000 + k) = (s.requestBuffer m).getD k 0 := by
  rw [State.bar0Byte, if_neg (by omega), if_pos (by omega), show (m * 0x2000 + k) / 0x2000 = m by omega, show (m * 0x2000 + k) % 0x2000 = k by omega]

theorem State.bar0Byte_status (s : State) (hm : m < 4) : s.bar0Byte (m * 0x2000 + 0x1FF4) = byte (s.mailboxStatus m) := by
  rw [State.bar0Byte, if_neg (by omega), if_neg (by omega), if_neg (by omega), if_pos (by omega), show (m * 0x2000 + 0x1FF4) / 0x2000 = m by omega]

/-! ### Mailboxes (R415) -/

theorem State.mailboxStatus_setMailbox_same (s : State) (m st : Nat) (y : Bytes) : (s.setMailbox m st y).mailboxStatus m = st :=
  Tbl.get_put_same ..

theorem State.mailboxStatus_setMailbox_ne (s : State) {k : Nat} (hne : k ≠ m) (st : Nat) (y : Bytes) :
    (s.setMailbox m st y).mailboxStatus k = s.mailboxStatus k := Tbl.get_put_ne _ _ _ hne

/-- A free mailbox whose doorbell is rung is busy, and is served. -/
theorem State.ring_free (h : s.mailboxStatus m = 0) : s.ring m = (s.setMailbox m 1 []).serveMailbox m := by
  rw [State.ring, if_neg (by simp [h])]

theorem exec_doorbell {k : Fin 4} {b : Bytes} (hlive : s.live = true) (hserved : s.pcieServed = true) :
    exec (.doorbell k b) s = .next (if s.mailboxStatus k != 0 then s.ring k else (s.fillBuffer k 0 b).ring k) := by
  rw [exec, execDoorbell, whenLive_next hlive, if_neg (by simp [hserved])]

/-- A frame that has been written into the request buffer stands at its start. -/
theorem State.fillBuffer_take (s : State) (m : Nat) {b : Bytes} (hfits : b.length ≤ 4096) :
    ((s.fillBuffer m 0 b).requestBuffer m).take b.length = b := by
  refine List.ext_getElem? fun k => ?_
  by_cases hk : k < b.length
  · rw [List.getElem?_take_of_lt hk, s.fillBuffer_getElem? (by omega) (by omega), if_pos (by omega), Nat.sub_zero]
  · rw [List.getElem?_eq_none (by rw [List.length_take]; omega), List.getElem?_eq_none (by omega)]

/-- The frame of a mailbox whose request buffer has been filled with it. -/
theorem mailboxFrame_of_take {b : Bytes} (htake : (s.requestBuffer m).take b.length = b)
    (hlen : b.length = headerLen + field b 10 2) : s.mailboxFrame m = b := by
  have hlong : 24 ≤ b.length := by
    rw [hlen]
    exact Nat.le_add_right ..
  have hdeclared : field (s.requestBuffer m) 10 2 = field b 10 2 := by
    unfold field slice
    rw [← htake, List.drop_take, List.take_take, Nat.min_eq_left (by omega)]
  rw [State.mailboxFrame, hdeclared, ← hlen, htake]

/-- A busy mailbox whose request has an answer holds it, with its vector. -/
theorem State.serveMailbox_answers {w u : State} {op : Nat} {r : Req} {y : Bytes} (hbusy : w.mailboxStatus m = 1) (hm : w.managed = true)
    (hframe : frameOf (w.mailboxFrame m) = (op, r)) (hfree : w.mustHold (.pcie 0) op r = false)
    (hserve : w.serve (.pcie 0) op r = (u, y)) (hstill : u.mailboxStatus m = 1) :
    w.serveMailbox m = (u.setMailbox m 2 y).send (.msix (1 + m)) := by
  rw [State.serveMailbox, hframe]
  dsimp only
  rw [if_neg (by simp [hbusy, hm, hfree]), hserve]
  dsimp only
  rw [if_pos hstill]

/-- With the controller stopped a request waits. -/
theorem State.serveMailbox_waits {w : State} (hm : w.managed = false) : w.serveMailbox m = w := by
  rw [State.serveMailbox]
  dsimp only
  rw [if_pos (by simp [hm])]

end

/-! ### The ball PCIE_PERST_N (R395, R398, R415) -/

/-- The state once the ball has changed, before power domains follow. -/
def State.perstMoved (s : State) (level : Bool) : State :=
  ((State.closePcie { s with
    pins := { s.pins with perstN := level }
    acc := { s.acc with mailbox := [], mailboxReply := [], mailboxRequest := [], msixTable := [] } }).setReg 0x6830_01 0 0).setReg
    0x6830_02 0 0

theorem exec_pciePerst_low {s : State} (h : s.pins.perstN ≠ false) :
    exec (.pciePerst false) s = .next ((s.perstMoved false).clearReady 4).settlePower := by
  rw [exec, execPciePerst, if_neg h]
  rfl

theorem exec_pciePerst_high {s : State} (h : s.pins.perstN ≠ true) : exec (.pciePerst true) s =
    .next (if (s.perstMoved true).settlePower.domain 20 = 2 && (s.perstMoved true).settlePower.live then
      (s.perstMoved true).settlePower.setReady 4 else (s.perstMoved true).settlePower) := by
  rw [exec, execPciePerst]
  dsimp only
  rw [if_neg h, if_neg (by decide), State.perstMoved]

/-- What a change of the ball leaves in any state that differs from the one after it in registers, the log, what was sent for it and
power's own bookkeeping. -/
structure State.PerstLeaves (s t : State) (level : Bool) : Prop where
  frame : ∃ regs log sent power,
    t = { s.perstMoved level with regs := regs, log := log, sent := sent, power := power }
  entries : s.entriesBut t [0x1010_01, 0x1010_04, 0x6400_02, 0x6400_05, 0x6830_01, 0x6830_02]
  sends : s.sendsLog t

theorem State.perstMoved_leaves (s : State) (level : Bool) : s.PerstLeaves (s.perstMoved level) level where
  frame := ⟨(s.perstMoved level).regs, s.log, s.sent, s.power, rfl⟩
  entries := (((s.entriesBut_refl _ : s.entriesBut (State.closePcie { s with
    pins := { s.pins with perstN := level }
    acc := { s.acc with mailbox := [], mailboxReply := [], mailboxRequest := [], msixTable := [] } }) _).setReg (by decide) (by decide) 0).setReg
    (by decide) (by decide) 0)
  sends := .inl rfl

section
variable {s t u : State} {level : Bool}

theorem State.PerstLeaves.settles (h : s.PerstLeaves u level) (hs : u.Settles t) : s.PerstLeaves t level where
  frame := by
    obtain ⟨regs, log, sent, power, rfl⟩ := h.frame
    obtain ⟨regs', unneeded, waitingOn, rfl⟩ := hs.frame
    exact ⟨regs', log, sent, _, rfl⟩
  entries := h.entries.trans (hs.entries.mono (by decide))
  sends := by
    obtain ⟨-, -, -, hsent, -⟩ := hs.kept
    unfold State.sendsLog
    rw [hsent]
    exact h.sends

theorem State.PerstLeaves.clearReady (h : s.PerstLeaves u level) : s.PerstLeaves (u.clearReady 4) level where
  frame := by
    obtain ⟨regs, log, sent, power, rfl⟩ := h.frame
    exact ⟨_, log, sent, power, rfl⟩
  entries := h.entries.setReg (by decide) (by decide) _
  sends := h.sends

theorem State.PerstLeaves.setReady (h : s.PerstLeaves u level) (hsent : u.sent = s.sent) : s.PerstLeaves (u.setReady 4) level where
  frame := by
    obtain ⟨regs, log, sent, power, rfl⟩ := h.frame
    unfold State.setReady
    split
    · exact ⟨regs, log, sent, power, rfl⟩
    · obtain ⟨log', sent', hrecord⟩ := State.record_frame _ 0x100 (some (pw 0x0B)) 4 _ false
      exact ⟨_, log', sent', power, hrecord⟩
  entries := by
    unfold State.setReady
    split
    · exact h.entries
    · exact ((h.entries.setReg (by decide) (by decide) _).setReg (by decide) (by decide) _).trans ((State.record_logs ..).entriesBut _)
  sends := by
    have hsends := (u.setReady_raisesOnce 4).sendsLog
    unfold State.sendsLog at hsends ⊢
    rwa [hsent] at hsends

/-- The PCIe sessions are closed, the mailboxes are free, and the rest stays. -/
theorem State.PerstLeaves.kept (h : s.PerstLeaves t level) :
    t.pins.perstN = level ∧ (∀ x ∈ t.acc.sessions, x.peer.path ≠ 3) ∧ t.acc.mailbox = [] ∧ t.acc.mailboxRequest = [] ∧
      t.acc.mailboxReply = [] ∧ t.acc.msixTable = [] ∧
      s.entriesBut t [0x1010_01, 0x1010_04, 0x6400_02, 0x6400_05, 0x6830_01, 0x6830_02] ∧ t.blobs = s.blobs ∧
      t.shadow = s.shadow ∧ s.sendsLog t ∧ t.cells = s.cells ∧ t.fuses = s.fuses ∧ t.nvA = s.nvA ∧ t.nvB = s.nvB := by
  obtain ⟨hframe, hentries, hsends⟩ := h
  obtain ⟨regs, log, sent, power, rfl⟩ := hframe
  refine ⟨rfl, fun x hx => ?_, rfl, rfl, rfl, rfl, hentries, rfl, rfl, hsends, rfl, rfl, rfl, rfl⟩
  simpa [Session.onPcie] using (List.mem_filter.mp hx).2

end

/-! ### The windows (R35, R291, R301, R415) -/

section
variable {s : State} {bar : Bar} {offset a len tag : Nat} {data : Bytes} {q : BitVec 16} {rs : List FabReq}

theorem exec_pcieBarWrite_open (hlive : s.live = true) (hworks : s.fabricWorks = true) (hserved : s.pcieServed = true)
    (hbar : barAddress bar offset = some a) (hopen : s.protects = false ∨ s.guardedAt a data.length = none) :
    exec (.pcieBarWrite bar offset data q tag) s = .next (s.hostStore tag a data) := by
  have hfree : ((s.guardedAt a data.length).filter fun _ => s.protects) = none := by
    rcases hopen with h | h <;> simp [h]
  rw [exec, execPcieBarWrite, hbar]
  dsimp only
  rw [whenFabric_next hlive hworks, if_neg (by simp [hserved]), hfree]

theorem exec_pcieBarWrite_guarded {i : Nat} (hlive : s.live = true) (hworks : s.fabricWorks = true) (hserved : s.pcieServed = true)
    (hbar : barAddress bar offset = some a) (hprotects : s.protects = true) (hguarded : s.guardedAt a data.length = some i) :
    exec (.pcieBarWrite bar offset data q tag) s = .next (s.discardWrite a i q) := by
  have hin : ((s.guardedAt a data.length).filter fun _ => s.protects) = some i := by simp [hprotects, hguarded]
  rw [exec, execPcieBarWrite, hbar]
  dsimp only
  rw [whenFabric_next hlive hworks, if_neg (by simp [hserved]), hin]

theorem exec_pcieBarRead_memory (hlive : s.live = true) (hworks : s.fabricWorks = true) (hserved : s.pcieServed = true)
    (hbar : barAddress bar offset = some a) : exec (.pcieBarRead bar offset len q tag) s = .next (s.hostLoad tag a len) := by
  rw [exec, execPcieBarRead, hbar]
  dsimp only
  rw [whenFabric_next hlive hworks, if_pos hserved]

theorem exec_pcieBarWrite_bar0 (hlive : s.live = true) (hserved : s.pcieServed = true) :
    exec (.pcieBarWrite .bar0 offset data q tag) s = .next (s.bar0Write offset data) := by
  rw [exec, execPcieBarWrite]
  dsimp only [barAddress]
  rw [whenLive_next hlive, if_pos (by simp [hserved])]

theorem exec_pcieBarRead_bar0 (hlive : s.live = true) (hserved : s.pcieServed = true) :
    exec (.pcieBarRead .bar0 offset len q tag) s =
      .next (s.send (.completion (some ((List.range len).map fun k => s.bar0Byte (offset + k))))) := by
  rw [exec, execPcieBarRead]
  dsimp only [barAddress]
  rw [whenLive_next hlive, if_pos (by simp [hserved])]

/-- The registers of a write into a protected Ingot (R35). -/
def State.writeNoted (s : State) (a i : Nat) (q : BitVec 16) : State :=
  (((s.bump 0x2090_01).setReg 0x2090_02 0 a).setReg 0x2090_03 0 i).setReg 0x2090_04 0 q.toNat

theorem State.writeNoted_spec (s : State) (a i : Nat) (q : BitVec 16) :
    (s.writeNoted a i q).reg 0x2090_02 = a ∧ (s.writeNoted a i q).reg 0x2090_03 = i ∧ (s.writeNoted a i q).reg 0x2090_04 = q.toNat ∧
      (s.writeNoted a i q).reg 0x2090_01 = satAdd (entryBits 0x2090_01) (s.reg 0x2090_01) 1 := by
  have hother : ∀ (t : State) (k k' v : Nat), k' ≠ k → (t.setReg k 0 v).reg k' = t.reg k' := fun t k k' v h =>
    State.reg_setReg_key _ _ h (by decide) (by decide)
  unfold State.writeNoted
  refine ⟨?_, ?_, State.reg_setReg_same .., ?_⟩
  · rw [hother _ _ _ _ (by decide), hother _ _ _ _ (by decide), State.reg_setReg_same]
  · rw [hother _ _ _ _ (by decide), State.reg_setReg_same]
  · rw [hother _ _ _ _ (by decide), hother _ _ _ _ (by decide), hother _ _ _ _ (by decide), State.reg_bump_same]

theorem State.writeNoted_frame (s : State) (a i : Nat) (q : BitVec 16) :
    s.ledgerBut (s.writeNoted a i q) [regKey 0x2090_01 0, regKey 0x2090_02 0, regKey 0x2090_03 0, regKey 0x2090_04 0] ∧
      ∃ regs, s.writeNoted a i q = { s with regs := regs } := by
  refine ⟨⟨?_, rfl, rfl⟩, _, rfl⟩
  exact State.regsBut_put (State.regsBut_put (State.regsBut_put (State.regsBut_put (s.regsBut_refl _) rfl (by simp)) rfl (by simp)) rfl
    (by simp)) rfl (by simp)

/-- A write into a protected Ingot is counted and recorded, and nothing else. -/
theorem State.discardWrite_spec (s : State) (a i : Nat) (q : BitVec 16) :
    (s.discardWrite a i q).dram = s.dram ∧ (s.discardWrite a i q).fabric = s.fabric ∧
      (s.discardWrite a i q).reg 0x2090_02 = a ∧ (s.discardWrite a i q).reg 0x2090_03 = i ∧
      (s.discardWrite a i q).reg 0x2090_04 = q.toNat ∧
      (s.discardWrite a i q).reg 0x2090_01 = satAdd (entryBits 0x2090_01) (s.reg 0x2090_01) 1 ∧
      (s.unlimited 0x044 → (s.discardWrite a i q).newest 0x044 (some (fr 0x0A))) ∧
      s.ledgerBut (s.discardWrite a i q) [regKey 0x2090_01 0, regKey 0x2090_02 0, regKey 0x2090_03 0, regKey 0x2090_04 0] ∧
      s.sendsLog (s.discardWrite a i q) ∧ (s.discardWrite a i q).acc = s.acc ∧ (s.discardWrite a i q).still = s.still := by
  obtain ⟨haddress, hingot, hrequester, hcount⟩ := s.writeNoted_spec a i q
  obtain ⟨hledger, regs, hnoted⟩ := s.writeNoted_frame a i q
  have heq : s.discardWrite a i q = (s.writeNoted a i q).recordEvery s.now s.protectPeriod false 0x044 (some (fr 0x0A)) i a := rfl
  rw [heq]
  generalize s.writeNoted a i q = u at *
  have hlogs := u.recordEvery_logs s.now s.protectPeriod false 0x044 (some (fr 0x0A)) i a false
  have hnewest := fun h => State.recordEvery_newest (s := u) (event := 0x044) h s.now s.protectPeriod false (some (fr 0x0A)) i a false
  have hreg : ∀ k, (u.recordEvery s.now s.protectPeriod false 0x044 (some (fr 0x0A)) i a).reg k = u.reg k := fun k =>
    State.reg_congr (State.recordEvery_regs ..) (State.recordEvery_sources ..) k 0
  have hsends := hlogs.raisesOnce.sendsLog
  obtain ⟨log, sent, hframe⟩ := hlogs.frame
  rw [hreg, hreg, hreg, hreg]
  subst hnoted
  refine ⟨by rw [hframe], by rw [hframe], haddress, hingot, hrequester, hcount, hnewest, ?_, hsends, by rw [hframe], by rw [hframe]; rfl⟩
  rw [hframe]
  exact hledger

/-- The host's read that waits for its bursts. -/
def State.withRead (s : State) (h : HostRead) : State := { s with fabric := { s.fabric with reads := s.fabric.reads ++ [h] } }

theorem State.hostLoad_eq (hrs : rs = (hostBlocks a len).zipIdx.map (fun p => hostRequest tag p.2 p.1 false)) (hne : rs ≠ []) :
    s.hostLoad tag a len =
      rs.foldl (fun (t : State) r => t.present 36 r) (s.withRead { base := a, len := len, left := rs.map fun r => r.id }) := by
  subst hrs
  rw [State.hostLoad]
  dsimp only
  rw [if_neg (by rwa [List.isEmpty_iff])]
  rfl

end

/-- Settles O12: a burst that may wait waits (`State.presentEach_queued`), and BAR0 is its buffers and control words. -/
theorem pcieServesMailboxesAndMemory : Obligations.PcieServesMailboxesAndMemory := by
  refine ⟨?answered, ?waits, ?counted, ?freed, ?perst, ?flr, ?link, ?store, ?load, ?refused, ?guarded, ?bar0Read, ?bar0Write, ?control⟩
  case answered =>
    intro s w u m b y op r hlive hserved hfree hm hw hframe hhold hserve hbusy
    have hexec := exec_doorbell (k := m) (b := b) hlive hserved
    rw [if_neg (by simp [hfree]), State.ring_free (s := s.fillBuffer m 0 b) hfree, ← hw] at hexec
    have hring : w.mailboxStatus m = 1 := hw ▸ State.mailboxStatus_setMailbox_same ..
    rw [State.serveMailbox_answers hring (hw ▸ hm) hframe hhold hserve hbusy] at hexec
    refine ⟨_, hexec, State.mailboxStatus_setMailbox_same .., rfl, Tbl.find_put_same .., fun hlen hfits => ?_,
      fun j hne => State.mailboxStatus_setMailbox_ne _ hne .., rfl, rfl, rfl, rfl, rfl, rfl, rfl⟩
    have htake : (w.requestBuffer m).take b.length = b := hw ▸ s.fillBuffer_take m hfits
    rw [← hframe, mailboxFrame_of_take htake hlen]
  case waits =>
    intro s m b hlive hserved hfree hm
    have hexec := exec_doorbell (k := m) (b := b) hlive hserved
    rw [if_neg (by simp [hfree]), State.ring_free (s := s.fillBuffer m 0 b) hfree,
      State.serveMailbox_waits (w := (s.fillBuffer m 0 b).setMailbox m 1 []) hm] at hexec
    exact ⟨_, hexec, State.mailboxStatus_setMailbox_same .., fun hfits => s.fillBuffer_take m hfits, rfl, rfl, rfl, rfl, rfl, rfl, rfl, rfl⟩
  case counted =>
    intro s m b hlive hserved hbusy
    refine ⟨s.bump 0x6830_03, ?_, rfl, rfl, State.reg_bump_same .., State.ledgerBut_put rfl rfl rfl, rfl, rfl, rfl⟩
    rw [exec_doorbell hlive hserved, if_pos (by simpa using hbusy), State.ring, if_pos (by simpa using hbusy)]
  case freed =>
    intro s m hlive hserved
    refine ⟨s.freeMailbox m, ?_, State.mailboxStatus_setMailbox_same .., fun j hne => State.mailboxStatus_setMailbox_ne _ hne .., rfl, rfl, rfl, rfl, rfl, rfl, rfl, rfl⟩
    rw [exec, execMailboxFree, whenLive_next hlive, if_pos hserved]
  case perst =>
    intro s level hmoved
    have hleaves := s.perstMoved_leaves level
    cases level with
    | false =>
      have hclear := hleaves.clearReady
      have hsettles := ((s.perstMoved false).clearReady 4).settlePower_settles
      have hready := ((s.perstMoved false).clearReady 4).settlePower_reg (key := 0x1010_01) (inst := 0) (by decide) (by decide)
      rw [exec_pciePerst_low hmoved]
      generalize ((s.perstMoved false).clearReady 4).settlePower = t at hsettles hready
      obtain ⟨hpin, hsessions, hbox, hrequest, hreply, htable, hentries, hblobs, hshadow, hsends, hrest⟩ := (hclear.settles hsettles).kept
      obtain ⟨-, -, -, hsent, -⟩ := hsettles.kept
      refine ⟨t, rfl, hpin, hsessions, hbox, hrequest, hreply, htable, hentries, hblobs, hshadow,
        fun _ => ⟨?_, hsent, hsettles.dram_log.2⟩, hsends, hrest⟩
      rw [hready]
      exact State.clearReady_clear ..
    | true =>
      have hsettles := (s.perstMoved true).settlePower_settles
      rw [exec_pciePerst_high hmoved]
      generalize (s.perstMoved true).settlePower = u at hsettles
      obtain ⟨-, -, -, hsent, -⟩ := hsettles.kept
      split
      · obtain ⟨hpin, hsessions, hbox, hrequest, hreply, htable, hentries, hblobs, hshadow, hrest⟩ :=
          ((hleaves.settles hsettles).setReady hsent).kept
        exact ⟨_, rfl, hpin, hsessions, hbox, hrequest, hreply, htable, hentries, hblobs, hshadow, fun h => absurd h (by decide), hrest⟩
      · obtain ⟨hpin, hsessions, hbox, hrequest, hreply, htable, hentries, hblobs, hshadow, hrest⟩ := (hleaves.settles hsettles).kept
        exact ⟨_, rfl, hpin, hsessions, hbox, hrequest, hreply, htable, hentries, hblobs, hshadow, fun h => absurd h (by decide), hrest⟩
  case flr =>
    intro s hlive
    exact ⟨_, whenLive_next hlive _, by simp [State.closePcie, State.closeSessions, Session.onPcie, bne], rfl, rfl, rfl, rfl, rfl, rfl, rfl⟩
  case link =>
    intro s g w hlive
    refine ⟨(s.setReg 0x6830_01 0 g).setReg 0x6830_02 0 (if g.val = 0 then 0 else w),
      by rw [exec, execPcieLinkChange, whenLive_next hlive], ?_,
      State.reg_setReg_same .., rfl, ⟨?_, rfl, rfl⟩, rfl, rfl, rfl, rfl⟩
    · exact (State.reg_setReg_key _ _ (by decide) (by decide) (by decide)).trans (State.reg_setReg_same ..)
    · exact State.regsBut_put (State.regsBut_put (s.regsBut_refl _) rfl (by simp)) rfl (by simp)
  case store =>
    intro s bar offset a data q tag rs hlive hworks hserved hbar hopen hrs husable
    have htakes := s.takesBursts hbar (f := fun b k => hostWrite tag k a data b) (fun _ _ => ⟨rfl, rfl, rfl⟩) hrs husable
    refine ⟨s.withBursts (rs.map s.hostItem), ?_, rfl, rfl, rfl, rfl, rfl, rfl, rfl, rfl, rfl⟩
    rw [exec_pcieBarWrite_open hlive hworks hserved hbar hopen, ← State.presentEach_queued htakes, hrs, List.foldl_map]
    rfl
  case load =>
    intro s bar offset a len q tag rs hlive hworks hserved hbar hpos hrs husable
    have htakes := s.takesBursts hbar (f := fun b k => hostRequest tag k b false) (fun _ _ => ⟨rfl, rfl, rfl⟩) hrs husable
    have hne : rs ≠ [] := by
      rw [hrs, Ne, List.map_eq_nil_iff, List.zipIdx_eq_nil_iff]
      exact hostBlocks_ne_nil hpos
    refine ⟨(s.withRead { base := a, len := len, left := rs.map fun r => r.id }).withBursts (rs.map s.hostItem), ?_, rfl, rfl, rfl, rfl,
      rfl, rfl, rfl, rfl, rfl, rfl⟩
    rw [exec_pcieBarRead_memory hlive hworks hserved hbar, State.hostLoad_eq hrs hne,
      State.presentEach_queued (s := s.withRead { base := a, len := len, left := rs.map fun r => r.id }) htakes]
    rfl
  case refused =>
    intro s bar offset a len q tag r hlive hworks hserved hbar hrs hunusable hnew
    obtain ⟨p, -, hr⟩ := List.mem_map.mp (hrs ▸ List.mem_singleton_self r)
    obtain ⟨hcls, hread⟩ : r.cls = 2 ∧ r.write = false := hr ▸ ⟨rfl, rfl⟩
    have hexec : exec (.pcieBarRead bar offset len q tag) s = .next ((s.withRead { base := a, len := len, left := [r.id] }).present 36 r) := by
      rw [exec_pcieBarRead_memory hlive hworks hserved hbar, State.hostLoad_eq hrs.symm (by simp)]
      rfl
    have hrefused := (s.withRead { base := a, len := len, left := [r.id] }).refuseForm_refusedAt (port := 36) (by decide) (fb 0x03) r.address 2
    obtain ⟨hacc, hfabric, hcells, hstill⟩ :=
      (s.withRead { base := a, len := len, left := [r.id] }).refuseForm_frame 36 (fb 0x03) r.address 2
    rw [State.present_unusable (s := s.withRead { base := a, len := len, left := [r.id] }) hcls hunusable] at hexec
    generalize (s.withRead { base := a, len := len, left := [r.id] }).refuseForm 36 (fb 0x03) r.address 2 = t at *
    rw [State.abortRead_last hread (congrArg Fabric.reads hfabric) hnew (List.mem_singleton_self _) rfl] at hexec
    have hqueue : t.fabric.queue = s.fabric.queue := by
      rw [hfabric]
      rfl
    exact ⟨_, hexec, rfl, hrefused, hacc, hqueue, hcells, hstill⟩
  case guarded =>
    intro s bar offset a i data q tag hlive hworks hserved hbar hprotects hguarded
    exact ⟨_, exec_pcieBarWrite_guarded hlive hworks hserved hbar hprotects hguarded, s.discardWrite_spec a i q⟩
  case bar0Read =>
    intro s offset len q tag hlive hserved
    refine ⟨_, _, exec_pcieBarRead_bar0 hlive hserved, rfl, by simp, fun m hm ho hlen => ?_, fun m hm ho hlen hbyte => ?_⟩
    · subst ho
      have hlong := s.requestBuffer_length m
      refine List.ext_getElem (by simp; omega) fun k hk _ => ?_
      have hk : k < len := by simpa using hk
      rw [List.getElem_map, List.getElem_range, s.bar0Byte_buffer hm (by omega), List.getElem_take,
        List.getD_eq_getElem _ _ (by omega)]
    · subst ho hlen
      simp only [List.range_one, List.map_cons, List.map_nil, Nat.add_zero, s.bar0Byte_status hm, List.cons.injEq, and_true]
      simp [byte, hbyte]
  case bar0Write =>
    intro s m off data q tag hlive hserved hfits
    have hexec := exec_pcieBarWrite_bar0 (offset := m.val * 0x2000 + off) (data := data) (q := q) (tag := tag) hlive hserved
    obtain ⟨⟨x, hframe⟩, hbytes⟩ := State.setBar0Bytes_buffer (s := s) m.isLt data (n := 0) hfits
    rw [s.bar0Write_buffer hfits] at hexec
    generalize data.zipIdx.foldl (fun (t : State) p => t.setBar0Byte (m.val * 0x2000 + off + p.2) p.1) s = t at *
    refine ⟨t, hexec, List.ext_getElem? fun k => ?_, fun k hk => ?_, ?_⟩
    · rw [slice]
      by_cases hk : k < data.length
      · rw [List.getElem?_take_of_lt hk, List.getElem?_drop, hbytes _ (by omega), if_pos (by omega)]
        congr 1
        omega
      · rw [List.getElem?_eq_none (by rw [List.length_take]; omega), List.getElem?_eq_none (by omega)]
    · by_cases hin : k < 4096
      · exact .inl (by rw [hbytes k hin, if_neg (by omega)])
      · exact .inr (by omega)
    · subst hframe
      exact ⟨rfl, rfl, rfl, rfl, rfl, rfl, rfl, rfl, rfl, rfl⟩
  case control =>
    intro s m q tag hlive hserved
    have hbell : wordAt (m.val * 0x2000 + 0x1FF0) [1, 0, 0, 0] (m.val * 0x2000 + 0x1FF0) = some 1 := by simp [wordAt, slice, beNat]
    have hstatus : wordAt (m.val * 0x2000 + 0x1FF4) [0, 0, 0, 0] (m.val * 0x2000 + 0x1FF4) = some 0 := by simp [wordAt, slice, beNat]
    refine ⟨?_, ?_⟩
    · rw [exec_pcieBarWrite_bar0 hlive hserved, s.bar0Write_control m.isLt rfl (.inl rfl), State.bar0Control, hbell,
        wordAt_none (at' := m.val * 0x2000 + 0x1FF4) (by simp)]
      simp
    · rw [exec_pcieBarWrite_bar0 hlive hserved, s.bar0Write_control m.isLt rfl (.inr rfl), State.bar0Control, hstatus,
        wordAt_none (at' := m.val * 0x2000 + 0x1FF0) (by simp), exec, execMailboxFree, whenLive_next hlive, if_pos hserved]
      simp

end Sys2Proof.Machine
end

section
/-! PROOFS. The pair: deciding, fencing, the heartbeat, the takeover's declaration and the hand-over (R340-R343, R349, R350, R354). -/

namespace Sys2Proof.Machine

/-! ### What a change of the pair state and a push leave (R341, R347) -/

/-- A state that differs in the named registers, the log, what was sent, and the Ember header alone. -/
structure State.Tells (s t : State) (copies : List Nat) : Prop where
  frame : ∃ regs log sent header, t = { s with regs := regs, log := log, sent := sent, pair := { s.pair with header := header } }
  regs : s.regsBut t copies

section
variable {s t u : State} {copies : List Nat}

theorem State.Tells.refl (s : State) (copies : List Nat) : s.Tells s copies :=
  ⟨⟨s.regs, s.log, s.sent, s.pair.header, rfl⟩, s.regsBut_refl _⟩

theorem State.Tells.trans (h : s.Tells t copies) (h' : t.Tells u copies) : s.Tells u copies := by
  obtain ⟨⟨r, l, n, x, rfl⟩, hregs⟩ := h
  obtain ⟨⟨r', l', n', x', rfl⟩, hregs'⟩ := h'
  exact ⟨⟨r', l', n', x', rfl⟩, fun k hk => (hregs' k hk).trans (hregs k hk)⟩

theorem State.Tells.mono {copies' : List Nat} (h : s.Tells t copies) (hsub : copies ⊆ copies') : s.Tells t copies' :=
  ⟨h.frame, h.regs.mono hsub⟩

/-- The rest of the ledger, memory, the fuses, the store and the pins stay. -/
theorem State.Tells.kept (h : s.Tells t copies) :
    s.ledgerBut t copies ∧ t.cells = s.cells ∧ t.still = s.still ∧ t.sources = s.sources ∧ t.power = s.power ∧ t.pins = s.pins := by
  obtain ⟨⟨r, l, n, x, rfl⟩, hregs⟩ := h
  exact ⟨⟨hregs, rfl, rfl⟩, rfl, rfl, rfl, rfl, rfl⟩

theorem State.Tells.pair (h : s.Tells t copies) : ∃ header, t.pair = { s.pair with header := header } := by
  obtain ⟨⟨r, l, n, x, rfl⟩, -⟩ := h
  exact ⟨x, rfl⟩

theorem State.Tells.reg (h : s.Tells t copies) {key inst : Nat} (hk : regKey key inst ∉ copies) : t.reg key inst = s.reg key inst := by
  obtain ⟨-, -, -, hsources, -⟩ := h.kept
  exact h.regs.reg hsources hk

theorem State.tells_setReg (s : State) (key inst v : Nat) : s.Tells (s.setReg key inst v) [regKey key inst] :=
  ⟨⟨_, s.log, s.sent, s.pair.header, rfl⟩, State.regsBut_put (s.regsBut_refl _) rfl (List.mem_singleton_self _)⟩

theorem State.logs.tells (h : s.logs t) (copies : List Nat) : s.Tells t copies := by
  obtain ⟨log, sent, rfl⟩ := h.frame
  exact ⟨⟨s.regs, log, sent, s.pair.header, rfl⟩, s.regsBut_refl _⟩

/-- A change of the pair state: its register, and its record. -/
theorem State.setPairState_spec (s : State) (st : Nat) (c : Option Code) :
    s.Tells (s.setPairState st c) [regKey 0x5800_03 0] ∧ (s.setPairState st c).reg 0x5800_03 = st ∧
      (s.setPairState st c).newest 0x0D5 c ∧ s.raisesOnce (s.setPairState st c) := by
  have hlogs := (s.setReg 0x5800_03 0 st).record_logs 0x0D5 c 0 (s.setReg 0x5800_03 0 st).imageGen false
  refine ⟨(s.tells_setReg ..).trans (hlogs.tells _), ?_, State.record_newest .., hlogs.raisesOnce⟩
  rw [State.setPairState, State.record_reg, State.reg_setReg_same]

/-- Frames that leave on the Bellows change what was sent alone. -/
theorem State.sendEach_frame (fs : List Bytes) (t : State) :
    ∃ sent, fs.foldl (fun (u : State) f => u.send (.bellows f)) t = { t with sent := sent } := by
  induction fs generalizing t with
  | nil => exact ⟨t.sent, rfl⟩
  | cons f fs ih =>
    obtain ⟨sent, hsent⟩ := ih (t.send (.bellows f))
    exact ⟨sent, hsent⟩

/-- One section is pushed into its copy not in force (R347). -/
def State.pushOne (gen : Nat) (t : State) (k : Nat) : State :=
  let b := t.sectionBytes k
  let h : Head := { copy := 1 - (Tbl.get ({} : Head) t.pair.header k).copy, generation := gen, len := b.length, crc := crc32c b }
  let u := (sectionFrames k gen (b.length / 1024 + 1) 0 b).foldl (fun (u : State) f => u.send (.bellows f)) t
  { u with pair := { u.pair with header := Tbl.put u.pair.header k h } }

theorem State.pushEach_frame (gen : Nat) (ks : List Nat) (s : State) : ∃ sent header,
    ks.foldl (State.pushOne gen) s = { s with sent := sent, pair := { s.pair with header := header } } := by
  induction ks generalizing s with
  | nil => exact ⟨s.sent, s.pair.header, rfl⟩
  | cons k ks ih =>
    obtain ⟨sent, hsent⟩ := State.sendEach_frame
      (sectionFrames k gen ((s.sectionBytes k).length / 1024 + 1) 0 (s.sectionBytes k)) s
    obtain ⟨sent', header, hrest⟩ := ih (s.pushOne gen k)
    refine ⟨sent', header, hrest.trans ?_⟩
    rw [State.pushOne]
    dsimp only
    rw [hsent]

/-- A push sends its sections and their header, whose generation L:5800.08 then shows. -/
theorem State.pushSections_frame (s : State) (ks : List Nat) : ∃ sent header wall, s.pushSections ks =
    (State.setReg { s with sent := sent, pair := { s.pair with header := header } } 0x5800_08 0 ((s.imageGen + 1) % 2 ^ 32)).setReg
      0x5800_09 0 wall := by
  obtain ⟨sent, header, hpushed⟩ := State.pushEach_frame ((s.imageGen + 1) % 2 ^ 32) ks s
  have heq : s.pushSections ks = ((((ks.foldl (State.pushOne ((s.imageGen + 1) % 2 ^ 32)) s).send (.bellows (bellowsFrame 2 0
      ((s.imageGen + 1) % 2 ^ 32) 0 (headerBytes ((s.imageGen + 1) % 2 ^ 32)
        (ks.foldl (State.pushOne ((s.imageGen + 1) % 2 ^ 32)) s).pair.header)))).setReg 0x5800_08 0
      ((s.imageGen + 1) % 2 ^ 32)).setReg 0x5800_09 0 ((ks.foldl (State.pushOne ((s.imageGen + 1) % 2 ^ 32)) s).send (.bellows
        (bellowsFrame 2 0 ((s.imageGen + 1) % 2 ^ 32) 0 (headerBytes ((s.imageGen + 1) % 2 ^ 32)
        (ks.foldl (State.pushOne ((s.imageGen + 1) % 2 ^ 32)) s).pair.header)))).wall) := rfl
  rw [heq, hpushed]
  exact ⟨_, header, _, rfl⟩

theorem State.pushSections_tells (s : State) (ks : List Nat) :
    s.Tells (s.pushSections ks) [regKey 0x5800_08 0, regKey 0x5800_09 0] ∧ (s.pushSections ks).log = s.log ∧
      (s.pushSections ks).reg 0x5800_08 = (s.imageGen + 1) % 2 ^ 32 := by
  obtain ⟨sent, header, wall, hpushed⟩ := s.pushSections_frame ks
  rw [hpushed]
  refine ⟨⟨⟨_, s.log, sent, header, rfl⟩, ?_⟩, rfl, ?_⟩
  · exact State.regsBut_put (State.regsBut_put (s.regsBut_refl _) rfl (by simp)) rfl (by simp)
  · rw [State.reg_setReg_key _ _ (by decide) (by decide) (by decide), State.reg_setReg_same]

/-- The push of every section into one copy and then the other (R347). -/
theorem State.pushAll_tells (s : State) :
    s.Tells s.pushAll [regKey 0x5800_08 0, regKey 0x5800_09 0] ∧ s.pushAll.log = s.log ∧
      (s.pairActive = true → s.managed = true → s.pushAll.reg 0x5800_08 = (s.imageGen + 2) % 2 ^ 32) := by
  obtain ⟨htells, hlog, hgen⟩ := s.pushSections_tells [1, 2, 3]
  obtain ⟨htells', hlog', hgen'⟩ := (s.pushSections [1, 2, 3]).pushSections_tells [1, 2, 3]
  unfold State.pushAll
  split
  · refine ⟨htells.trans htells', hlog'.trans hlog, fun _ _ => ?_⟩
    rw [hgen', State.imageGen, hgen]
    omega
  · next h => exact ⟨.refl s _, rfl, fun ha hm => absurd (by rw [ha, hm]; rfl) h⟩

theorem State.imageGen_eq (s : State) : s.imageGen = s.reg 0x5800_08 := rfl

/-- The newest record stays the newest where the log and its clock stay. -/
theorem State.Tells.newest (h : s.Tells t copies) (hlog : t.log = s.log) (hfabric : regKey 0x6400_02 3 ∉ copies) {event : Nat}
    {code : Option Code} (hn : s.newest event code) : t.newest event code := by
  have hon := h.reg hfabric
  obtain ⟨⟨r, l, n, x, rfl⟩, -⟩ := h
  obtain rfl : l = s.log := hlog
  unfold State.newest
  rw [hon]
  exact hn

theorem State.Tells.managed_eq (h : s.Tells t copies) (hfabric : regKey 0x6400_02 3 ∉ copies)
    (hst : (t.reg 0x5800_03 == 5) = (s.reg 0x5800_03 == 5)) : t.managed = s.managed := by
  obtain ⟨-, -, -, -, hpower, -⟩ := h.kept
  unfold State.managed State.live State.fabricWorks bne
  rw [hpower, h.reg hfabric, hst]

/-- The ledger still answers, in a pair state in which the fast domains run. -/
theorem State.Tells.managed (h : s.Tells t copies) (hfabric : regKey 0x6400_02 3 ∉ copies) (hm : s.managed = true)
    (hst : t.reg 0x5800_03 ≠ 5) : t.managed = true := by
  obtain ⟨-, -, -, -, hpower, -⟩ := h.kept
  unfold State.managed State.live State.fabricWorks at hm ⊢
  rw [hpower, h.reg hfabric]
  simp only [Bool.and_eq_true, bne_iff_ne, ne_eq] at hm ⊢
  obtain ⟨⟨⟨hclock, -⟩, hmgmt⟩, hworks⟩ := hm
  exact ⟨⟨⟨hclock, hst⟩, hmgmt⟩, hworks⟩

/-- The state of a device that has become the Active (R341, R347). -/
theorem State.enterActive_spec (s : State) (c : Option Code) :
    s.Tells (s.enterActive c) [regKey 0x5800_03 0, regKey 0x5800_08 0, regKey 0x5800_09 0] ∧
      (s.enterActive c).reg 0x5800_03 = s.activeState ∧ (s.enterActive c).newest 0x0D5 c ∧
      (s.reg 0x5800_04 ≠ 1 → s.enterActive c = s.setPairState s.activeState c) ∧
      (s.reg 0x5800_04 = 1 → s.managed = true → (s.enterActive c).reg 0x5800_08 = (s.imageGen + 2) % 2 ^ 32) := by
  obtain ⟨htells, hst, hnewest, -⟩ := s.setPairState_spec s.activeState c
  obtain ⟨hpush, hlog, hgen⟩ := (s.setPairState s.activeState c).pushAll_tells
  have hpartner : (s.setPairState s.activeState c).reg 0x5800_04 = s.reg 0x5800_04 := htells.reg (by decide)
  unfold State.enterActive
  dsimp only
  rw [hpartner]
  split
  · next hone =>
    refine ⟨(htells.mono (by simp)).trans (hpush.mono (by simp)), (hpush.reg (by decide)).trans hst, hpush.newest hlog (by decide) hnewest,
      fun h => absurd hone h, fun _ hm => ?_⟩
    have hactive : s.activeState = 3 := by simp [State.activeState, hone]
    rw [hgen, State.imageGen_eq, htells.reg (by decide), ← State.imageGen_eq]
    · rw [State.pairActive, hst, hactive]
      rfl
    · exact htells.managed (by decide) hm (by rw [hst, hactive]; decide)
  · next hne => exact ⟨htells.mono (by simp), hst, hnewest, fun _ => rfl, fun h => absurd h hne⟩

/-! ### Deciding (R342, R353) -/

/-- A device that becomes the Active raises its pin; its start-up scene, where it is placed, is no register. -/
theorem State.becomeActive_frame (s : State) : ∃ smith,
    s.becomeActive = { State.enterActive { s with pins := { s.pins with pairActO := true } } none with smith := smith } := by
  unfold State.becomeActive
  dsimp only
  split
  · unfold State.placeStartUp
    split
    · exact ⟨_, rfl⟩
    · split <;> exact ⟨_, rfl⟩
  · exact ⟨_, rfl⟩

/-- A device that enters Resync keeps what section 5 held, as the other record. -/
theorem State.enterResync_spec (s : State) :
    s.enterResync.reg 0x5800_03 = 4 ∧ s.enterResync.newest 0x0D5 none ∧ s.enterResync.pins = s.pins ∧
      s.enterResync.pair.parking = [] ∧ s.enterResync.pair.parkingOther = s.pair.parking ∧
      s.ledgerBut s.enterResync [regKey 0x5800_03 0] ∧ s.sendsLog s.enterResync ∧ s.enterResync.cells = s.cells ∧
      s.enterResync.still = s.still := by
  obtain ⟨htells, hst, hnewest, hraises⟩ :=
    State.setPairState_spec { s with pair := { s.pair with parking := [], parkingOther := s.pair.parking } } 4 none
  obtain ⟨hledger, hcells, hstill, -, -, hpins⟩ := htells.kept
  obtain ⟨header, hpair⟩ := htells.pair
  refine ⟨hst, hnewest, hpins, ?_, ?_, hledger, hraises.sendsLog, hcells, hstill⟩
  · exact (congrArg Pair.parking hpair)
  · exact (congrArg Pair.parkingOther hpair)

/-! ### Fencing (R343) -/

/-- A port as a fenced device leaves it: parked, its bank asked for where it runs at 10 Gb/s or above, and no video waiting. -/
def State.fencedAs (u : State) (p : Nat) (x : Port) : Prop :=
  x.parked = true ∧ x.bankReq = (u.reg 0x4400_09 p == 2 && decide (2 ≤ u.portRate p)) ∧ ∀ w ∈ x.outbox, cellType w.cell ≠ 1

/-- The state with other ports. -/
def State.withPorts (u : State) (ports : Tbl Port) : State := { u with ports := ports }

theorem State.fencePort_ports (u : State) (ports : Tbl Port) (q : Nat) : ∃ ports',
    (u.withPorts ports).fencePort q = u.withPorts ports' ∧ u.fencedAs q (Tbl.get {} ports' q) ∧
      ∀ p, p ≠ q → Tbl.get {} ports' p = Tbl.get {} ports p := by
  refine ⟨_, rfl, ?_, fun p hne => (Tbl.get_put_ne _ _ _ hne).trans (Tbl.get_put_ne _ _ _ hne)⟩
  rw [Tbl.get_put_same]
  refine ⟨rfl, rfl, fun w hw => ?_⟩
  have hport : ((u.withPorts ports).setPort q { (u.withPorts ports).port q with
      outbox := ((u.withPorts ports).port q).outbox.filter fun w => cellType w.cell != 1 }).port q =
      { (u.withPorts ports).port q with outbox := ((u.withPorts ports).port q).outbox.filter fun w => cellType w.cell != 1 } :=
    Tbl.get_put_same ..
  rw [hport] at hw
  simpa using (List.mem_filter.mp hw).2

/-- Each of some ports is fenced, and nothing else changes. -/
theorem State.fenceEach (u : State) (ps : List Nat) (ports : Tbl Port) : ∃ ports',
    ps.foldl State.fencePort (u.withPorts ports) = u.withPorts ports' ∧
      ∀ p, (p ∈ ps ∨ u.fencedAs p (Tbl.get {} ports p)) → u.fencedAs p (Tbl.get {} ports' p) := by
  induction ps generalizing ports with
  | nil => exact ⟨ports, rfl, fun p h => h.resolve_left List.not_mem_nil⟩
  | cons q ps ih =>
    obtain ⟨ports₁, hstep, hhere, hothers⟩ := u.fencePort_ports ports q
    obtain ⟨ports', hrest, hfenced⟩ := ih ports₁
    refine ⟨ports', by rw [List.foldl_cons, hstep, hrest], fun p h => hfenced p ?_⟩
    by_cases hpq : p = q
    · subst hpq
      exact .inr hhere
    · rw [hothers p hpq]
      exact h.imp_left fun h => (List.mem_cons.mp h).resolve_left hpq

/-! ### The rate of a port of a device whose pair state changes (R212) -/

theorem State.reg_of_find {key inst v : Nat} (h : Tbl.find s.regs (regKey key inst) = some v) : s.reg key inst = v := by
  simp [State.reg, h]

/-- A pair state other than 0, its default, has been set. -/
theorem State.find_pairState {v : Nat} (h : s.reg 0x5800_03 = v) (hv : v ≠ 0) : Tbl.find s.regs (regKey 0x5800_03 0) = some v := by
  unfold State.reg at h
  split at h
  · next w hw => rw [hw, h]
  · rw [if_neg (by decide), show entryDefault 0x5800_03 0 = 0 from rfl] at h
    exact absurd h.symm hv

/-- Whether a port runs at 10 Gb/s or above does not rest on the pair state, even where an unconfigured port names a lane past the
last one: the states of a device that may be fenced are neither a lane's in service nor below such a rate code. -/
theorem State.portRate_fenced (htells : s.Tells t [regKey 0x5800_03 0]) (hst : s.reg 0x5800_03 ∈ [2, 3, 6]) (hst' : t.reg 0x5800_03 = 7)
    {p : Nat} (hp : p < 24) : decide (2 ≤ t.portRate p) = decide (2 ≤ s.portRate p) := by
  have hreg : ∀ {k i}, k ≠ 0x5800_03 → i < 65536 → t.reg k i = s.reg k i := fun hk hi =>
    htells.reg (by rw [List.mem_singleton]; exact fun h => hk ((regKey_inj hi (by decide)).mp h).1)
  have hany : ∀ k i, t.reg k i = s.reg k i ∨ t.reg k i = 7 ∧ s.reg k i ∈ [2, 3, 6] := fun k i => by
    by_cases hk : regKey k i = regKey 0x5800_03 0
    · have hne : s.reg 0x5800_03 ≠ 0 := fun h => by
        rw [h] at hst
        exact absurd hst (by decide)
      refine .inr ⟨State.reg_of_find ?_, ?_⟩
      · rw [hk]
        exact State.find_pairState hst' (by decide)
      · rwa [State.reg_of_find (s := s) (key := k) (inst := i) (v := s.reg 0x5800_03)]
        rw [hk]
        exact State.find_pairState rfl hne
    · exact .inl (htells.reg (by rwa [List.mem_singleton]))
  have hlanes : t.lanes = s.lanes := by
    obtain ⟨⟨r, l, n, x, rfl⟩, -⟩ := htells
    rfl
  have hspares : t.sparesOf p = s.sparesOf p := by
    unfold State.sparesOf State.sparePort
    refine List.filter_congr fun l hl => ?_
    rw [hreg (by decide) (by fin_cases hl <;> decide)]
  have hcarriers : t.carriers p = s.carriers p := by
    unfold State.carriers State.carrierOf State.portLanes State.lane
    rw [hreg (by decide) (by omega), hreg (by decide) (by omega), hspares, hlanes]
  have hserving : (fun l => [8, 9].contains (t.reg 0x4000_02 l)) = fun l => [8, 9].contains (s.reg 0x4000_02 l) := by
    funext l
    rcases hany 0x4000_02 l with h | ⟨h, h'⟩
    · rw [h]
    · rw [h]
      simp only [List.mem_cons, List.not_mem_nil, or_false] at h'
      rcases h' with h' | h' | h' <;> rw [h'] <;> rfl
  rw [decide_eq_decide]
  unfold State.portRate
  rw [hcarriers, hserving]
  cases (s.carriers p).find? fun l => [8, 9].contains (s.reg 0x4000_02 l) with
  | none => rfl
  | some l =>
    dsimp only
    rcases hany 0x4000_03 l with h | ⟨h, h'⟩
    · rw [h]
    · rw [h]
      simp only [List.mem_cons, List.not_mem_nil, or_false] at h'
      rcases h' with h' | h' | h' <;> rw [h'] <;> decide

/-! ### The heartbeat (R340, R341) -/

theorem exec_heartbeatSend {main : Bool} {w : Nat} (h : s.pulseWidth main = some w) :
    exec (.heartbeatSend main) s = .next (s.send (.heartbeat w)) := by
  rw [exec, execHeartbeatSend, h]

theorem exec_heartbeatSend_none {main : Bool} (h : s.pulseWidth main = none) : exec (.heartbeatSend main) s = .next s := by
  rw [exec, execHeartbeatSend, h]

/-- The partner's state is shown. -/
def State.partnerShown (s : State) (n : Nat) : State := s.setReg 0x5800_04 0 n

theorem State.partnerShown_spec (s : State) (n : Nat) :
    s.Tells (s.partnerShown n) [regKey 0x5800_04 0] ∧ (s.partnerShown n).reg 0x5800_04 = n ∧
      (s.partnerShown n).reg 0x5800_03 = s.reg 0x5800_03 ∧ (s.partnerShown n).log = s.log ∧ (s.partnerShown n).sent = s.sent :=
  ⟨s.tells_setReg .., State.reg_setReg_same .., (s.tells_setReg 0x5800_04 0 n).reg (by decide), rfl, rfl⟩

/-- The partner of an Active with a ready one is ready no more (R341). -/
theorem State.notePartner_lost {n : Nat} (hst : s.reg 0x5800_03 = 2) (hn : n < 2) : s.notePartner n =
    if n = 1 then ((s.partnerShown n).setPairState 3 (some (pa 0x09))).pushAll
    else (s.partnerShown n).setPairState 3 (some (pa 0x09)) := by
  obtain ⟨-, -, hst', -⟩ := s.partnerShown_spec n
  unfold State.notePartner
  rw [← State.partnerShown]
  dsimp only
  rw [hst', hst]
  exact if_pos hn

/-- The partner of an Active without a ready one is ready (R341). -/
theorem State.notePartner_found (hst : s.reg 0x5800_03 = 3) :
    s.notePartner 2 = (s.partnerShown 2).setPairState 2 (some (pa 0x0A)) := by
  obtain ⟨-, -, hst', -⟩ := s.partnerShown_spec 2
  unfold State.notePartner
  rw [← State.partnerShown]
  dsimp only
  rw [hst', hst]
  rfl

/-- Else the pair state stays, and an Active without a ready partner may push its image (R347). -/
theorem State.notePartner_same {n : Nat} (hlost : ¬(s.reg 0x5800_03 = 2 ∧ n < 2)) (hfound : ¬(s.reg 0x5800_03 = 3 ∧ n = 2)) :
    s.notePartner n = s.partnerShown n ∨ s.reg 0x5800_03 = 3 ∧ n = 1 ∧ s.notePartner n = (s.partnerShown n).pushAll := by
  obtain ⟨-, -, hst', -⟩ := s.partnerShown_spec n
  unfold State.notePartner
  rw [← State.partnerShown]
  dsimp only
  rw [hst']
  split
  · next h =>
    rw [if_neg fun hn => hlost ⟨h, hn⟩]
    exact .inl rfl
  · next h =>
    rw [if_neg fun hn => hfound ⟨h, hn⟩]
    split
    · next hpush => exact .inr ⟨h, by simp only [Bool.and_eq_true, decide_eq_true_eq] at hpush; exact hpush.1, rfl⟩
    · exact .inl rfl
  · exact .inl rfl

/-- What the partner's state that is known anew leaves: an Active follows it. -/
theorem State.notePartner_spec (s : State) (n : Nat) :
    s.Tells (s.notePartner n) [regKey 0x5800_03 0, regKey 0x5800_04 0, regKey 0x5800_08 0, regKey 0x5800_09 0] ∧
      (s.notePartner n).reg 0x5800_04 = n ∧
      (s.reg 0x5800_03 = 2 → n < 2 → (s.notePartner n).reg 0x5800_03 = 3 ∧ (s.notePartner n).newest 0x0D5 (some (pa 0x09))) ∧
      (s.reg 0x5800_03 = 3 → n = 2 → (s.notePartner n).reg 0x5800_03 = 2 ∧ (s.notePartner n).newest 0x0D5 (some (pa 0x0A))) ∧
      (s.reg 0x5800_03 ∉ [2, 3] → s.notePartner n = s.partnerShown n) := by
  obtain ⟨hshown, hpartner, hst, hlog, hsent⟩ := s.partnerShown_spec n
  by_cases hlost : s.reg 0x5800_03 = 2 ∧ n < 2
  · obtain ⟨htwo, hn⟩ := hlost
    obtain ⟨htells, hst', hnewest, -⟩ := (s.partnerShown n).setPairState_spec 3 (some (pa 0x09))
    obtain ⟨hpush, hpushLog, -⟩ := ((s.partnerShown n).setPairState 3 (some (pa 0x09))).pushAll_tells
    have hbase := (hshown.mono (copies' := [regKey 0x5800_03 0, regKey 0x5800_04 0, regKey 0x5800_08 0, regKey 0x5800_09 0])
      (by simp)).trans (htells.mono (by simp))
    have hpartner' := (htells.reg (key := 0x5800_04) (inst := 0) (by decide)).trans hpartner
    rw [State.notePartner_lost htwo hn]
    split
    · exact ⟨hbase.trans (hpush.mono (by simp)), (hpush.reg (by decide)).trans hpartner',
        fun _ _ => ⟨(hpush.reg (by decide)).trans hst', hpush.newest hpushLog (by decide) hnewest⟩, fun h => by omega,
        fun h => absurd (by simp [htwo]) h⟩
    · exact ⟨hbase, hpartner', fun _ _ => ⟨hst', hnewest⟩, fun h => by omega, fun h => absurd (by simp [htwo]) h⟩
  · by_cases hfound : s.reg 0x5800_03 = 3 ∧ n = 2
    · obtain ⟨hthree, rfl⟩ := hfound
      obtain ⟨htells, hst', hnewest, -⟩ := (s.partnerShown 2).setPairState_spec 2 (some (pa 0x0A))
      rw [State.notePartner_found hthree]
      exact ⟨(hshown.mono (by simp)).trans (htells.mono (by simp)), (htells.reg (by decide)).trans hpartner, fun h => by omega,
        fun _ _ => ⟨hst', hnewest⟩, fun h => absurd (by simp [hthree]) h⟩
    · rcases State.notePartner_same hlost hfound with heq | ⟨hthree, hone, heq⟩
      · rw [heq]
        exact ⟨hshown.mono (by simp), hpartner, fun h h' => absurd ⟨h, h'⟩ hlost, fun h h' => absurd ⟨h, h'⟩ hfound, fun _ => rfl⟩
      · obtain ⟨hpush, -⟩ := (s.partnerShown n).pushAll_tells
        rw [heq]
        exact ⟨(hshown.mono (by simp)).trans (hpush.mono (by simp)), (hpush.reg (by decide)).trans hpartner,
          fun h h' => absurd ⟨h, h'⟩ hlost, fun h h' => absurd ⟨h, h'⟩ hfound, fun h => absurd (by simp [hthree]) h⟩

/-- What a missed pulse leaves: no image is pushed. -/
theorem State.notePartner_absent (s : State) :
    s.Tells (s.notePartner 0) [regKey 0x5800_03 0, regKey 0x5800_04 0] ∧ s.sendsLog (s.notePartner 0) ∧
      (s.reg 0x5800_03 ≠ 2 → s.notePartner 0 = s.partnerShown 0) := by
  obtain ⟨hshown, -, -, -, -⟩ := s.partnerShown_spec 0
  by_cases htwo : s.reg 0x5800_03 = 2
  · obtain ⟨htells, -, -, hraises⟩ := (s.partnerShown 0).setPairState_spec 3 (some (pa 0x09))
    rw [State.notePartner_lost htwo (by decide), if_neg (by decide)]
    exact ⟨(hshown.mono (by simp)).trans (htells.mono (by simp)), hraises.sendsLog, fun h => absurd htwo h⟩
  · rcases State.notePartner_same (s := s) (n := 0) (fun h => htwo h.1) (fun h => by omega) with heq | ⟨-, hone, -⟩
    · rw [heq]
      exact ⟨hshown.mono (by simp), .inl rfl, fun _ => rfl⟩
    · cases hone

/-! ### A takeover is declared (R349, R350) -/

/-- The state of a device that has declared its Active lost, before power domains follow. -/
def State.lostDeclared (s : State) : State :=
  (State.setReg { s with
    pins := { s.pins with pairActO := true, pairActI := false }
    pair := { s.pair with declaredAt := some s.now, unlogged := true, ready := false, sentFresh := [] } } 0x5800_03 0 6).bump 0x5800_0A

theorem State.declareLost_settles (s : State) : s.lostDeclared.Settles s.declareLost :=
  State.settles_foldl s.lostDeclared.imageConfig (by decide) s.lostDeclared

/-- What a declared loss of the Active leaves. -/
theorem State.declareLost_spec (s : State) :
    s.declareLost.reg 0x5800_03 0 = 6 ∧ s.declareLost.pins.pairActO = true ∧ s.declareLost.pair.declaredAt = some s.now ∧
      s.declareLost.reg 0x5800_0A 0 = satAdd (entryBits 0x5800_0A) (s.reg 0x5800_0A) 1 ∧ s.groupsBut s.declareLost [0x5800, 0x6400] ∧
      s.declareLost.shadow = s.shadow ∧ s.declareLost.fuses = s.fuses ∧ s.declareLost.nvA = s.nvA ∧ s.declareLost.nvB = s.nvB ∧
      s.declareLost.cells = s.cells := by
  have hsettles := s.declareLost_settles
  obtain ⟨-, -, hsources, -⟩ := hsettles.kept
  have hreg : ∀ {k}, k ∉ [0x6400_02, 0x6400_05] → s.declareLost.reg k 0 = s.lostDeclared.reg k 0 := fun hk =>
    hsettles.entries.reg hsources hk (by decide)
  have hgroups : s.groupsBut s.declareLost [0x5800, 0x6400] := fun k hk => by
    have hput : s.regsBut s.lostDeclared [regKey 0x5800_03 0, regKey 0x5800_0A 0] :=
      State.regsBut_put (State.regsBut_put (s.regsBut_refl _) rfl (by simp)) rfl (by simp)
    rw [hsettles.entries k, hput k]
    all_goals
      intro hmem
      refine hk ?_
      simp only [List.mem_cons, List.not_mem_nil, or_false, regKey] at hmem ⊢
      omega
  have hst : s.lostDeclared.reg 0x5800_03 = 6 :=
    (State.reg_bump_key _ (by decide) (by decide) (by decide)).trans (State.reg_setReg_same ..)
  have hcount : s.lostDeclared.reg 0x5800_0A = satAdd (entryBits 0x5800_0A) (s.reg 0x5800_0A) 1 := by
    rw [State.lostDeclared, State.reg_bump_same, State.reg_setReg_key _ _ (by decide) (by decide) (by decide)]
    rfl
  refine ⟨(hreg (by decide)).trans hst, ?_, ?_, (hreg (by decide)).trans hcount, hgroups, ?_, ?_, ?_, ?_, ?_⟩
  all_goals
    obtain ⟨regs, unneeded, waitingOn, hframe⟩ := hsettles.frame
    rw [hframe]
    rfl

end

section
variable {s : State} {frame : Bytes} {type : Nat}

/-- A frame of the Bellows that arrives whole is handled. -/
theorem State.onBellows_arrives (h : s.bellowsArrives frame type) (f : State → State) : s.onBellows frame type f = f s := by
  obtain ⟨hlistens, hmagic, hlen, hwhole, hcrc, htype⟩ := h
  unfold State.onBellows
  dsimp only
  rw [if_neg (by simp [hlistens, hmagic]), if_neg (by simp [hwhole, hcrc, hlen]), if_neg (by simp [htype])]

/-! ### The commands of fencing, of the takeover's limit and of the hand-over (R343, R350, R354) -/

/-- The state of a device that is fenced, before its ports are (R343). -/
def State.fenced (s : State) : State :=
  State.setPairState { s with pins := { s.pins with pairActI := true, pairActO := false } } 7 none

theorem exec_pairActRise (hst : s.reg 0x5800_03 ∈ [2, 3, 6]) : exec .pairActRise s = .next (
    if (s.servingPorts.foldl State.fencePort s.fenced).managed then
      (s.servingPorts.foldl State.fencePort s.fenced).record 0x0D2 (some (pa 0x03)) 0
        (s.servingPorts.foldl State.fencePort s.fenced).imageGen
    else { s.servingPorts.foldl State.fencePort s.fenced with
      pair := { (s.servingPorts.foldl State.fencePort s.fenced).pair with unlogged := true } }) := by
  rw [exec, execPairActRise]
  dsimp only
  have hst' : ({ s with pins := { s.pins with pairActI := true } } : State).reg 0x5800_03 ∈ [2, 3, 6] := hst
  rw [if_neg (by rw [List.contains_iff_mem.mpr hst']; decide)]
  rfl

/-- A device that yields sends a Yield frame, with its record (R336). -/
theorem State.yieldPair_spec (s : State) (h : s.pair.yielded = false) :
    s.yieldPair.pair.yielded = true ∧ s.yieldPair.newest 0x0D3 (some (pa 0x04)) ∧
      Sent.bellows (bellowsFrame 4 0 s.imageGen 0 []) ∈ s.yieldPair.sent ∧ s.yieldPair.regs = s.regs ∧
      s.yieldPair.blobs = s.blobs ∧ s.yieldPair.shadow = s.shadow ∧ s.yieldPair.cells = s.cells ∧ s.yieldPair.still = s.still := by
  rw [State.yieldPair, if_neg (by simp [h])]
  dsimp only
  generalize hu : State.send { s with pair := { s.pair with yielded := true } } (.bellows (bellowsFrame 4 0 s.imageGen 0 [])) = u
  have hnewest := u.record_newest 0x0D3 (some (pa 0x04)) 0 s.imageGen false
  have hlogs := u.record_logs 0x0D3 (some (pa 0x04)) 0 s.imageGen false
  have hsends := hlogs.raisesOnce.sendsLog
  obtain ⟨log, sent, hframe⟩ := hlogs.frame
  have hmem : Sent.bellows (bellowsFrame 4 0 s.imageGen 0 []) ∈ u.sent := hu ▸ List.mem_cons_self ..
  refine ⟨?_, hnewest, ?_, ?_⟩
  · rw [hframe, ← hu]
    rfl
  · rcases hsends with hsame | hvector
    · rwa [hsame]
    · rw [hvector]
      exact List.mem_cons_of_mem _ hmem
  · rw [hframe, ← hu]
    exact ⟨rfl, rfl, rfl, rfl, rfl⟩

/-- A map over the values of a table that keeps the default. -/
theorem tbl_get_map {α : Type} (d : α) (f : α → α) (hd : f d = d) (t : Tbl α) (k : Nat) :
    Tbl.get d (t.map fun p => (p.1, f p.2)) k = f (Tbl.get d t k) := by
  induction t with
  | nil => exact hd.symm
  | cons p t ih =>
    unfold Tbl.get at *
    rw [List.map_cons, Tbl.find, Tbl.find]
    split
    · rfl
    · exact ih

end

/-- Settles O46: each command is a change of the pair state (`State.setPairState_spec`), with what its state brings. -/
theorem pairDecidesAndFences : Obligations.PairDecidesAndFences := by
  refine ⟨?resync, ?active, ?edge, ?fence, ?slow, ?dark, ?ready, ?fast, ?pulse, ?absent, ?silence, ?yield, ?limit, ?handOver⟩
  case resync =>
    intro s hst hpin
    refine ⟨s.enterResync, ?_, s.enterResync_spec⟩
    rw [exec, execPairDecide, if_neg (by simp [hst]), if_pos hpin]
  case active =>
    intro s hst hpin hdecides
    have hexec : exec .pairDecide s = .next s.becomeActive := by
      rw [exec, execPairDecide, if_neg (by simp [hst]), if_neg (by simp [hpin])]
      by_cases hsingle : s.reg 0x5800_02 = 0
      · rw [if_pos hsingle] at hdecides
        rw [if_pos hsingle, if_pos (by simpa using hdecides)]
      · rw [if_neg hsingle] at hdecides
        obtain ⟨hlate, hnone⟩ := hdecides
        rw [if_neg hsingle, if_neg (by unfold second; omega), if_pos (by simp [hnone])]
    obtain ⟨smith, hframe⟩ := s.becomeActive_frame
    obtain ⟨htells, hst', hnewest, hquiet, hgen⟩ :=
      State.enterActive_spec { s with pins := { s.pins with pairActO := true } } none
    obtain ⟨hledger, hcells, hstill, -, -, hpins⟩ := htells.kept
    rw [hframe] at hexec
    generalize State.enterActive { s with pins := { s.pins with pairActO := true } } none = u at *
    obtain ⟨hfuses, hnvA, hnvB, -⟩ : u.fuses = s.fuses ∧ u.nvA = s.nvA ∧ u.nvB = s.nvB ∧ u.pins = _ := by
      simpa only [State.still, Prod.mk.injEq] using hstill
    refine ⟨_, hexec, hpins, hst', hnewest, hledger, fun h => ?_, fun h hm => hgen h hm, hfuses, hnvA, hnvB, hcells⟩
    obtain ⟨hchange, -, -, hraises⟩ := State.setPairState_spec { s with pins := { s.pins with pairActO := true } }
      (State.activeState { s with pins := { s.pins with pairActO := true } }) none
    rw [← hquiet h] at hchange hraises
    exact ⟨hchange.reg (by decide), hchange.reg (by decide), hraises.sendsLog⟩
  case edge =>
    intro s hst hpin hpair hlate hedge
    obtain ⟨hst', hnewest, -, -, -, hledger, hsends, hcells, hstill⟩ := s.enterResync_spec
    refine ⟨s.enterResync, ?_, hst', hnewest, hledger, hsends, hcells, hstill⟩
    rw [exec, execPairDecide, if_neg (by simp [hst]), if_neg (by simp [hpin]), if_neg hpair, if_neg (by unfold second; omega),
      if_neg (by simpa using hedge)]
  case fence =>
    intro s hst
    have hexec := exec_pairActRise hst
    have hdefined : s.fenced = State.setPairState { s with pins := { s.pins with pairActI := true, pairActO := false } } 7 none := rfl
    obtain ⟨htells, hst', hnewest, hraises⟩ :=
      State.setPairState_spec { s with pins := { s.pins with pairActI := true, pairActO := false } } 7 none
    rw [← hdefined] at htells hst' hnewest hraises
    obtain ⟨ports, hports, hfenced⟩ := s.fenced.fenceEach s.servingPorts s.fenced.ports
    rw [show s.fenced.withPorts s.fenced.ports = s.fenced from rfl] at hports
    rw [hports] at hexec
    have hport : ∀ p, p < 24 → s.portInService p = true → (Tbl.get {} ports p : Port).parked = true ∧
        (Tbl.get {} ports p : Port).bankReq = (s.reg 0x4400_09 p == 2 && decide (2 ≤ s.portRate p)) ∧
        ∀ w ∈ (Tbl.get {} ports p : Port).outbox, cellType w.cell ≠ 1 := fun p hp hserves => by
      obtain ⟨hparked, hbank, hvideo⟩ := hfenced p (.inl (List.mem_filter.mpr ⟨List.mem_range.mpr hp, hserves⟩))
      refine ⟨hparked, hbank.trans ?_, hvideo⟩
      rw [State.portRate_fenced htells hst hst' hp,
        htells.reg (key := 0x4400_09) (inst := p) (by rw [List.mem_singleton]; unfold regKey; omega)]
      rfl
    have hmanaged : s.fenced.managed = s.managed := htells.managed_eq (by decide) (by
      have hfive : s.reg 0x5800_03 ≠ 5 := fun h => by rw [h] at hst; exact absurd hst (by decide)
      rw [hst']
      exact (beq_false_of_ne hfive).symm)
    obtain ⟨hledger, hcells, hstill, -, -, hpins⟩ := htells.kept
    generalize s.fenced = u at *
    have hledger' : s.ledgerBut u [regKey 0x5800_03 0] := hledger
    obtain ⟨hregs, hblobs, hshadow⟩ := hledger'
    obtain ⟨hfuses, hnvA, hnvB⟩ : u.fuses = s.fuses ∧ u.nvA = s.nvA ∧ u.nvB = s.nvB := by
      simp only [State.still, Prod.mk.injEq] at hstill
      exact ⟨hstill.1, hstill.2.1, hstill.2.2.1⟩
    have hraises' : s.raisesOnce (u.withPorts ports) := hraises
    cases hm : s.managed with
    | true =>
      rw [if_pos (show (u.withPorts ports).managed = true from hmanaged.trans hm)] at hexec
      have hlogs := (u.withPorts ports).record_logs 0x0D2 (some (pa 0x03)) 0 (u.withPorts ports).imageGen false
      have hlogged := (State.recent.record (s := u.withPorts ports) (State.newest.recent hnewest) (by decide) 0x0D2 (some (pa 0x03)) 0
        (u.withPorts ports).imageGen false).logged
      refine ⟨_, hexec, (State.record_reg ..).trans hst', (State.record_pins ..).trans hpins, fun p hp hserves => ?_, hlogged,
        fun _ => State.record_newest .., fun h => absurd h (by decide), ⟨fun k hk => ?_, ?_, ?_⟩, ?_, ?_,
        (hraises'.trans hlogs.raisesOnce).sendsLog, ?_, ?_, ?_, ?_⟩
      · unfold State.port
        rw [State.record_ports]
        exact hport p hp hserves
      · rw [State.record_regs]
        exact hregs k hk
      · exact (State.record_blobs ..).trans hblobs
      · exact (State.record_shadow ..).trans hshadow
      · exact (State.record_blobs ..).trans hblobs
      · exact (State.record_shadow ..).trans hshadow
      · exact (State.record_fuses ..).trans hfuses
      · exact (State.record_nvA ..).trans hnvA
      · exact (State.record_nvB ..).trans hnvB
      · unfold State.cells
        rw [State.record_dram]
        exact hcells
    | false =>
      rw [if_neg (by rw [show (u.withPorts ports).managed = false from hmanaged.trans hm]; decide)] at hexec
      exact ⟨_, hexec, hst', hpins, hport, hnewest.recent.logged, fun h => absurd h (by decide), fun _ => rfl,
        ⟨hregs, hblobs, hshadow⟩, hblobs, hshadow, hraises'.sendsLog, hfuses, hnvA, hnvB, hcells⟩
  case slow =>
    intro s main h
    refine exec_heartbeatSend ?_
    rcases h with ⟨hst, hlive⟩ | ⟨hst, hold⟩
    · simp [State.pulseWidth, hst, hlive]
    · simp [State.pulseWidth, hst, hold]
  case dark =>
    intro s main hst hlive
    exact exec_heartbeatSend_none (by simp [State.pulseWidth, hst, hlive])
  case ready =>
    intro s main hst hcurrent
    exact exec_heartbeatSend (by simp [State.pulseWidth, hst, hcurrent])
  case fast =>
    intro s hst hyielded hm
    have hlive := State.live_of_managed hm
    have hmgmt : s.power.mgmt = true := by
      unfold State.managed at hm
      simp only [Bool.and_eq_true] at hm
      exact hm.1.2
    refine exec_heartbeatSend ?_
    simp only [List.mem_cons, List.not_mem_nil, or_false] at hst
    rcases hst with hst | hst <;> simp [State.pulseWidth, hst, hyielded, hlive, hmgmt]
  case pulse =>
    intro s w n hst hpulse
    generalize hs : ({ s with pair := { s.pair with lastEdge := some s.now, missed := 0 } } : State) = s1
    have hexec : exec (.heartbeatPulse w) s = .next (s1.notePartner n) := by
      rw [exec, execHeartbeatPulse, if_neg hst, hpulse, hs]
    obtain ⟨htells, hpartner, hlost, hfound, hsame⟩ := s1.notePartner_spec n
    obtain ⟨hledger, hcells, hstill, -⟩ := htells.kept
    obtain ⟨header, hpair⟩ := htells.pair
    obtain ⟨-, -, hshown, hlog, hsent⟩ := s1.partnerShown_spec n
    subst hs
    refine ⟨_, hexec, congrArg Pair.lastEdge hpair, congrArg Pair.missed hpair, hpartner, fun h h' => (hlost h h').1, hfound, fun h => ?_,
      hledger, hcells, hstill⟩
    rw [hsame h]
    exact ⟨hshown, hlog, hsent⟩
  case absent =>
    intro s hst hsilent
    generalize hs : ({ s with pair := { s.pair with missed := s.pair.missed + 1 } } : State) = s1
    have hexec : exec .partnerHeartbeatAbsent s = .next (s1.notePartner 0) := by
      rw [exec, execPartnerHeartbeatAbsent, if_neg (by simp [hst, State.silent, hsilent]), hs]
    obtain ⟨-, hpartner, hlost, -⟩ := s1.notePartner_spec 0
    obtain ⟨htells, hsends, hsame⟩ := s1.notePartner_absent
    obtain ⟨hledger, hcells, hstill, -⟩ := htells.kept
    obtain ⟨header, hpair⟩ := htells.pair
    obtain ⟨-, -, hshown, hlog, -⟩ := s1.partnerShown_spec 0
    subst hs
    refine ⟨_, hexec, congrArg Pair.missed hpair, hpartner, fun h => hlost h (by decide), fun h => ?_, hledger, hsends, hcells, hstill⟩
    rw [hsame h]
    exact ⟨hshown, hlog⟩
  case silence =>
    intro s hst hsilent
    refine ⟨_, ?_, s.declareLost_spec⟩
    rw [exec, execHeartbeatLoss, if_pos]
    simpa [State.silent, hsilent] using hst
  case yield =>
    intro s frame harrives hst
    refine ⟨_, ?_, s.declareLost_spec⟩
    rw [exec, execBellowsYield, State.onBellows_arrives harrives, if_pos (by simpa using hst)]
  case limit =>
    intro s t0 hlive hst hdeclared hover
    refine ⟨{ s with outputs := s.outputs.map fun p => (p.1, { p.2 with takeoverWait := false }) }, ?_, fun o => ?_, rfl, rfl, rfl, rfl, rfl,
      rfl, rfl⟩
    · rw [exec, execTakeoverHoldLimit, whenLive_next hlive, hdeclared]
      dsimp only
      rw [if_pos]
      rw [hst, Bool.and_eq_true, decide_eq_true_eq, decide_eq_true_eq]
      exact ⟨rfl, hover⟩
    · exact tbl_get_map {} (fun x : Output => { x with takeoverWait := false }) rfl s.outputs o
  case handOver =>
    intro s ss v hm hw hst hyielded
    have hop : handOverOp (s.touched ss) ss (s.partOf ss 0x5800_06) (.num v) = ((s.touched ss).yieldPair, .ok) :=
      if_pos (by rwa [State.touched_reg])
    obtain ⟨hyield, hnewest, hbellows, hregs, hblobs, hshadow, hcells, hstill⟩ :=
      (s.touched ss).yieldPair_spec (by rwa [State.touched_pair])
    rw [State.imageGen_eq, State.touched_reg, ← State.imageGen_eq] at hbellows
    refine ⟨(s.touched ss).yieldPair.reply ss .ok, ?_, hyield, State.newest_reply hnewest ss _, List.mem_cons_of_mem _ hbellows, rfl,
      hregs.trans (State.touched_regs ..), hblobs.trans (State.touched_blobs ..), hshadow.trans (State.touched_shadow ..), ?_, ?_⟩
    · rw [exec, execHandOver]
      exact ledgerWrite_next hm hw hop rfl
    · obtain ⟨a, ha⟩ := s.touched_eq ss
      rw [ha] at hcells ⊢
      exact hcells
    · obtain ⟨a, ha⟩ := s.touched_eq ss
      rw [ha] at hstill ⊢
      exact hstill

end Sys2Proof.Machine
end

section
/-! PROOFS. The console keys: a measurement gate, and the saves of the baselines (R357, R358, R365-R371). -/

namespace Sys2Proof.Machine

/-! ### What the evaluation of a key may change -/

/-- A state that differs in registers at the given places, the log, what was sent, and the key front end on the same scan alone. -/
structure State.Senses (s t : State) (may : Set Nat) : Prop where
  frame : ∃ regs log sent keys, t = { s with regs := regs, log := log, sent := sent, keys := keys } ∧ keys.scan = s.keys.scan
  regs : ∀ a, a ∉ may → Tbl.find t.regs a = Tbl.find s.regs a

section
variable {s t u : State} {may : Set Nat}

theorem State.Senses.refl (s : State) (may : Set Nat) : s.Senses s may :=
  ⟨⟨s.regs, s.log, s.sent, s.keys, rfl, rfl⟩, fun _ _ => rfl⟩

theorem State.Senses.trans (h : s.Senses t may) (h' : t.Senses u may) : s.Senses u may := by
  obtain ⟨⟨r, l, n, y, rfl, hscan⟩, hregs⟩ := h
  obtain ⟨⟨r', l', n', y', rfl, hscan'⟩, hregs'⟩ := h'
  exact ⟨⟨r', l', n', y', rfl, hscan'.trans hscan⟩, fun a ha => (hregs' a ha).trans (hregs a ha)⟩

theorem State.Senses.mono {may' : Set Nat} (h : s.Senses t may) (hsub : may ⊆ may') : s.Senses t may' :=
  ⟨h.frame, fun a ha => h.regs a fun hmem => ha (hsub hmem)⟩

theorem State.Senses.kept (h : s.Senses t may) :
    t.blobs = s.blobs ∧ t.shadow = s.shadow ∧ t.sources = s.sources ∧ t.keys.scan = s.keys.scan := by
  obtain ⟨⟨r, l, n, y, rfl, hscan⟩, -⟩ := h
  exact ⟨rfl, rfl, rfl, hscan⟩

theorem State.Senses.reg (h : s.Senses t may) {key inst : Nat} (hk : regKey key inst ∉ may) : t.reg key inst = s.reg key inst := by
  obtain ⟨-, -, hsources, -⟩ := h.kept
  unfold State.reg State.frozenDefault
  rw [h.regs _ hk, hsources]

theorem State.senses_keys (s : State) (keys : Keys) (hscan : keys.scan = s.keys.scan) (may : Set Nat) :
    s.Senses { s with keys := keys } may :=
  ⟨⟨s.regs, s.log, s.sent, keys, rfl, hscan⟩, fun _ _ => rfl⟩

theorem State.logs.senses (h : s.logs t) (may : Set Nat) : s.Senses t may := by
  obtain ⟨log, sent, rfl⟩ := h.frame
  exact ⟨⟨s.regs, log, sent, s.keys, rfl, rfl⟩, fun _ _ => rfl⟩

theorem State.Senses.setReg (h : s.Senses t may) {key inst : Nat} (hk : regKey key inst ∈ may) (v : Nat) :
    s.Senses (t.setReg key inst v) may := by
  refine h.trans ⟨⟨_, t.log, t.sent, t.keys, rfl, rfl⟩, fun a ha => ?_⟩
  rw [State.setReg_regs, Tbl.find_put_ne _ _ (ne_of_mem_of_not_mem hk ha).symm]

theorem State.Senses.bump (h : s.Senses t may) {key inst : Nat} (hk : regKey key inst ∈ may) : s.Senses (t.bump key inst) may :=
  h.setReg hk _

theorem State.Senses.setKey (h : s.Senses t may) (k : Nat) (x : Key) : s.Senses (t.setKey k x) may :=
  h.trans (t.senses_keys { t.keys with key := Tbl.put t.keys.key k x } rfl may)

theorem State.Senses.record (h : s.Senses t may) (event : Nat) (code : Option Code) (inst : Nat) (detail : Int) :
    s.Senses (t.record event code inst detail) may :=
  h.trans ((t.record_logs ..).senses may)

theorem State.Senses.clearCounts (h : s.Senses t may) (k : Nat) : s.Senses (t.clearCounts k) may := h.setKey k _

/-- Steps for each of a list of keys change what each of them may. -/
theorem State.Senses.foldl (h : s.Senses t may) {f : State → Nat → State} {ks : List Nat}
    (hf : ∀ u : State, s.Senses u may → ∀ k ∈ ks, s.Senses (f u k) may) : s.Senses (ks.foldl f t) may :=
  List.foldlRecOn (motive := fun u : State => s.Senses u may) ks f h hf

/-! ### The places of one key -/

/-- The registers that a key's evaluation writes, its raw reading apart, and the counter of lost records. -/
def keyMarks (k : Nat) : Set Nat :=
  {a | a ∈ [regKey 0x5C10_0C k, regKey 0x5C10_0E k, regKey 0x5C10_0F k, regKey 0x5C10_11 k, regKey 0x5C10_12 k,
    regKey 0x5C20_04 0]}

theorem mem_keyMarks {key inst k : Nat} (hi : inst < 65536) (hk : k < 65536) : regKey key inst ∈ keyMarks k ↔
    inst = k ∧ key ∈ [0x5C10_0C, 0x5C10_0E, 0x5C10_0F, 0x5C10_11, 0x5C10_12] ∨ inst = 0 ∧ key = 0x5C20_04 := by
  simp only [keyMarks, Set.mem_ofPred_eq, List.mem_cons, List.not_mem_nil, or_false, regKey_inj hi hk, regKey_inj hi (by decide : 0 < 65536)]
  tauto

theorem State.Senses.queueKey (h : s.Senses t may) (hlost : regKey 0x5C20_04 0 ∈ may) (k kind reason : Nat) :
    s.Senses (t.queueKey k kind reason) may := by
  unfold State.queueKey
  split
  · exact (h.bump hlost).trans ((State.recordEvery_logs ..).senses may)
  · dsimp only
    have hqueue := fun queue => h.trans (t.senses_keys { t.keys with queue := queue } rfl may)
    split
    · exact (hqueue _).trans ⟨⟨_, _, _, _, rfl, rfl⟩, fun _ _ => rfl⟩
    · exact hqueue _

section
variable {k : Nat} (h : s.Senses t may) (hk : keyMarks k ⊆ may)
include h hk

theorem State.Senses.setKeyState (st : Nat) : s.Senses (t.setKeyState k st) may := h.setReg (hk (by simp [keyMarks])) st

theorem State.Senses.setBaseline (v : Nat) : s.Senses (t.setReg 0x5C10_0E k v) may := h.setReg (hk (by simp [keyMarks])) v

theorem State.Senses.noteSignal (base raw : Nat) : s.Senses (t.noteSignal k base raw) may := by
  unfold State.noteSignal
  dsimp only
  split
  · exact (h.setKey k _).setReg (hk (by simp [keyMarks])) _
  · exact (h.setKey k _).setReg (hk (by simp [keyMarks])) _

theorem State.Senses.report (kind reason : Nat) : s.Senses (t.queueKey k kind reason) may := h.queueKey (hk (by simp [keyMarks])) ..

theorem State.Senses.recalibrate : s.Senses (t.recalibrate k) may :=
  ((h.setBaseline hk _).clearCounts k).bump (hk (by simp [keyMarks]))

theorem State.Senses.releaseKey (reason st : Nat) : s.Senses (t.releaseKey k reason st) may :=
  ((h.report hk ..).clearCounts k).setKeyState hk st

theorem State.Senses.dryKey : s.Senses ((t.clearCounts k).setKeyState k 1) may := (h.clearCounts k).setKeyState hk 1

theorem State.Senses.withhold : s.Senses (t.withhold k) may := by
  unfold State.withhold
  split
  · exact (h.clearCounts k).setKeyState hk 5
  · exact h.releaseKey hk ..
  · exact h

theorem State.Senses.releaseStep : s.Senses (t.releaseStep k) may := by
  unfold State.releaseStep
  dsimp only
  have hcount := fun x : Key => h.setKey k x
  split
  · split
    · exact hcount _
    · split
      · exact h.releaseKey hk ..
      · exact hcount _
  · split
    · exact hcount _
    · split
      · exact (h.recalibrate hk).setKeyState hk 1
      · exact hcount _
  · split
    · exact hcount _
    · split
      · exact (h.recalibrate hk).setKeyState hk 1
      · exact hcount _
  · exact h

theorem State.Senses.expiryStep : s.Senses (t.expiryStep k) may := by
  unfold State.expiryStep
  dsimp only
  split
  · split
    · exact (((h.releaseKey hk ..).setBaseline hk _).bump (hk (by simp [keyMarks]))).record ..
    · exact h
  · exact h

theorem State.Senses.pressStep : s.Senses (t.pressStep k) may := by
  unfold State.pressStep
  dsimp only
  split
  · split
    · exact h.setKey k _
    · split
      · exact (((h.clearCounts k).setKeyState hk 2).report hk ..).setKey k _
      · exact h.setKey k _
  · exact h

theorem State.Senses.baselineStep : s.Senses (t.baselineStep k) may := by
  unfold State.baselineStep
  dsimp only
  split
  · split
    · split
      · exact (h.recalibrate hk).setKeyState hk 1
      · exact h.setKey k _
    · split
      · exact (h.setKey k _).setBaseline hk _
      · exact h.setKey k _
  · exact h

theorem State.Senses.faultStep : s.Senses (t.faultStep k) may := by
  unfold State.faultStep
  dsimp only
  split
  · split
    · exact h.setKey k _
    · split
      · exact (((h.setBaseline hk _).clearCounts k).setKey k _).setKeyState hk 1
      · exact h.setKey k _
  · split
    · exact h.setKey k _
    · split
      · exact ((((h.clearCounts k).setKeyState hk 6).setKey k _).record ..)
      · exact h.setKey k _

theorem State.Senses.startStep : s.Senses (t.startStep k) may := by
  unfold State.startStep
  dsimp only
  split
  · split
    · exact ((((h.setBaseline hk _).noteSignal hk ..).setKeyState hk 3).record ..).report hk ..
    · split
      · exact (h.setKey k _).record ..
      · exact h.setKey k _
  · split
    · exact h.setKey k _
    · exact (((h.setKey k _).setBaseline hk _).noteSignal hk ..).setKeyState hk 1

/-- Steps 2 to 5 of a key's scan (R364-R370). -/
theorem State.Senses.scanKey : s.Senses (t.scanKey k) may := by
  unfold State.scanKey
  dsimp only
  split
  · exact h
  · split
    · exact h.releaseStep hk
    · exact (((h.releaseStep hk).expiryStep hk).pressStep hk).baselineStep hk

end

/-! ### A gate's readings (R357, R358, R366, R367) -/

/-- A key that is not enabled keeps no state (R366). -/
theorem State.readKey_disabled {k : Nat} (hoff : s.flag 0x5C10_02 k = false) (raw : Nat) :
    s.Senses (s.readKey k raw) (keyMarks k) ∧ (s.readKey k raw).keyState k = 0 := by
  have h := State.Senses.refl s (keyMarks k)
  have hk := Set.Subset.refl (keyMarks k)
  simp only [State.readKey, hoff, Bool.not_false, if_true]
  split
  · next hzero =>
    rw [Bool.and_eq_true] at hzero
    obtain ⟨hzero, -⟩ := hzero
    exact ⟨h, of_decide_eq_true hzero⟩
  · split
    · exact ⟨((h.report hk ..).setKey k _).setKeyState hk 0, State.reg_setReg_same ..⟩
    · exact ⟨(h.setKey k _).setKeyState hk 0, State.reg_setReg_same ..⟩

/-- An enabled key's reading is noted, and its evaluation begins from it (R358, R365, R367). -/
theorem State.readKey_enabled {k : Nat} (hon : s.flag 0x5C10_02 k = true) (raw : Nat) :
    (s.setReg 0x5C10_0D k raw).Senses (s.readKey k raw) (keyMarks k) := by
  have h := State.Senses.refl (s.setReg 0x5C10_0D k raw) (keyMarks k)
  have hk := Set.Subset.refl (keyMarks k)
  simp only [State.readKey, hon, Bool.not_true, Bool.false_eq_true, if_false]
  split
  · exact (((h.setKeyState hk 0).setKey k _).startStep hk).faultStep hk
  · split
    · exact (h.startStep hk).faultStep hk
    · split
      · exact (((h.setBaseline hk _).setKeyState hk 1).faultStep hk).noteSignal hk ..
      · exact (h.faultStep hk).noteSignal hk ..

/-- The registers that a key's reading writes: its raw reading too. -/
def readMarks (k : Nat) : Set Nat := insert (regKey 0x5C10_0D k) (keyMarks k)

theorem mem_readMarks {key inst k : Nat} (hi : inst < 65536) (hk : k < 65536) : regKey key inst ∈ readMarks k ↔
    inst = k ∧ key ∈ [0x5C10_0C, 0x5C10_0D, 0x5C10_0E, 0x5C10_0F, 0x5C10_11, 0x5C10_12] ∨ inst = 0 ∧ key = 0x5C20_04 := by
  rw [readMarks, Set.mem_insert_iff, mem_keyMarks hi hk, regKey_inj hi hk]
  simp only [List.mem_cons, List.not_mem_nil, or_false]
  tauto

theorem State.readKey_senses (s : State) (k raw : Nat) : s.Senses (s.readKey k raw) (readMarks k) := by
  cases henabled : s.flag 0x5C10_02 k with
  | false =>
    obtain ⟨h, -⟩ := State.readKey_disabled henabled raw
    exact h.mono (Set.subset_insert ..)
  | true =>
    exact ((State.Senses.refl s _).setReg (Set.mem_insert ..) raw).trans
      ((State.readKey_enabled henabled raw).mono (Set.subset_insert ..))

/-- What a gate's readings are of a key: the raw reading of an enabled one, and no state of another (R358, R366). -/
def State.Reads (s : State) (k raw : Nat) : Prop :=
  (s.flag 0x5C10_02 k = true → s.reg 0x5C10_0D k = raw) ∧ (s.flag 0x5C10_02 k = false → s.keyState k = 0)

theorem State.Senses.flag (h : s.Senses t may) {key inst : Nat} (hk : regKey key inst ∉ may) : t.flag key inst = s.flag key inst := by
  unfold State.flag
  rw [h.reg hk]

theorem State.readKey_reads (s : State) {k : Nat} (hk : k < 65536) (raw : Nat) : (s.readKey k raw).Reads k raw := by
  have henable : (s.readKey k raw).flag 0x5C10_02 k = s.flag 0x5C10_02 k :=
    (s.readKey_senses k raw).flag (by simp [mem_readMarks hk hk])
  refine ⟨fun hon => ?_, fun hoff => ?_⟩
  · rw [(State.readKey_enabled (henable ▸ hon) raw).reg (by simp [mem_keyMarks hk hk]), State.reg_setReg_same]
  · obtain ⟨-, hzero⟩ := State.readKey_disabled (henable ▸ hoff) raw
    exact hzero

/-- Changes elsewhere leave what a gate's readings are of a key. -/
theorem State.Reads.senses {k raw : Nat} (h : s.Reads k raw) (ht : s.Senses t may) (henable : regKey 0x5C10_02 k ∉ may)
    (hraw : regKey 0x5C10_0D k ∉ may) (hstate : s.flag 0x5C10_02 k = false → regKey 0x5C10_0C k ∉ may) : t.Reads k raw := by
  obtain ⟨hon, hoff⟩ := h
  refine ⟨fun h => ?_, fun h => ?_⟩
  · rw [ht.reg hraw]
    exact hon (ht.flag henable ▸ h)
  · have h := ht.flag henable ▸ h
    exact (ht.reg (hstate h)).trans (hoff h)

theorem State.readKeys_spec (raw : Nat → Nat) (ks : List Nat) (s : State) (hks : ∀ k ∈ ks, k < 65536) (hnodup : ks.Nodup) :
    s.Senses (ks.foldl (fun t k => t.readKey k (raw k)) s) {a | ∃ k ∈ ks, a ∈ readMarks k} ∧
      ∀ k ∈ ks, (ks.foldl (fun t k => t.readKey k (raw k)) s).Reads k (raw k) := by
  induction ks generalizing s with
  | nil => exact ⟨.refl s _, fun k hk => by cases hk⟩
  | cons k ks ih =>
    obtain ⟨hk, hks⟩ := List.forall_mem_cons.mp hks
    obtain ⟨hnew, hnodup⟩ := List.nodup_cons.mp hnodup
    obtain ⟨hrest, hreads⟩ := ih (s.readKey k (raw k)) hks hnodup
    have hother : ∀ {key : Nat}, key / 256 = 0x5C10 → regKey key k ∉ {a | ∃ j ∈ ks, a ∈ readMarks j} := by
      rintro key hkey ⟨j, hj, hmem⟩
      rcases (mem_readMarks hk (hks j hj)).mp hmem with ⟨rfl, -⟩ | ⟨-, rfl⟩
      · exact hnew hj
      · cases hkey
    refine ⟨((s.readKey_senses k (raw k)).mono ?_).trans (hrest.mono ?_), fun j hj => ?_⟩
    · exact fun a ha => ⟨k, List.mem_cons_self, ha⟩
    · rintro a ⟨j, hj, ha⟩
      exact ⟨j, List.mem_cons_of_mem _ hj, ha⟩
    rcases List.mem_cons.mp hj with rfl | hj
    · exact (s.readKey_reads hk (raw j)).senses hrest (hother (by decide)) (hother (by decide)) fun _ => hother (by decide)
    · exact hreads j hj

/-! ### Groups and keys of a scan (R364-R370) -/

/-- The places that a scan of the groups and keys writes, over those of the keys enabled (R364-R370). -/
def State.scanMarks (s : State) : Set Nat :=
  {a | (∃ k < 64, s.flag 0x5C10_02 k = true ∧ a ∈ keyMarks k) ∨ (∃ g < 8, a = regKey 0x5C08_03 g ∨ a = regKey 0x5C08_04 g) ∨
    a = regKey 0x5C20_04 0}

theorem State.mem_scanMarks {key inst : Nat} (hi : inst < 65536) (h : regKey key inst ∈ s.scanMarks) :
    (s.flag 0x5C10_02 inst = true ∧ key ∈ [0x5C10_0C, 0x5C10_0E, 0x5C10_0F, 0x5C10_11, 0x5C10_12]) ∨
      key ∈ [0x5C08_03, 0x5C08_04, 0x5C20_04] := by
  rcases h with ⟨k, hk, hon, hmem⟩ | ⟨g, hg, hmem | hmem⟩ | hmem
  · rcases (mem_keyMarks hi (by omega)).mp hmem with ⟨rfl, hkey⟩ | ⟨-, rfl⟩
    · exact .inl ⟨hon, hkey⟩
    · exact .inr (by decide)
  · obtain ⟨rfl, -⟩ := (regKey_inj hi (by omega)).mp hmem
    exact .inr (by decide)
  · obtain ⟨rfl, -⟩ := (regKey_inj hi (by omega)).mp hmem
    exact .inr (by decide)
  · obtain ⟨rfl, -⟩ := (regKey_inj hi (by decide)).mp hmem
    exact .inr (by decide)

/-- The entries that a scan reads but never writes (R357). -/
theorem State.not_mem_scanMarks {key inst : Nat} (hi : inst < 65536)
    (hkey : key ∉ [0x5C10_0C, 0x5C10_0E, 0x5C10_0F, 0x5C10_11, 0x5C10_12, 0x5C08_03, 0x5C08_04, 0x5C20_04]) :
    regKey key inst ∉ s.scanMarks := by
  intro h
  rcases State.mem_scanMarks hi h with ⟨-, h⟩ | h
  · exact hkey (List.mem_append_left [0x5C08_03, 0x5C08_04, 0x5C20_04] h)
  · exact hkey (List.mem_append_right [0x5C10_0C, 0x5C10_0E, 0x5C10_0F, 0x5C10_11, 0x5C10_12] h)

section
variable (h : s.Senses t s.scanMarks)
include h

theorem State.Senses.enabled {k : Nat} (hk : k < 65536) : t.flag 0x5C10_02 k = s.flag 0x5C10_02 k :=
  h.flag (State.not_mem_scanMarks hk (by decide))

theorem State.Senses.keyMarks_subset {g k : Nat} (hk : k ∈ t.groupKeys g) : keyMarks k ⊆ s.scanMarks := by
  rw [State.groupKeys, List.mem_filter, List.mem_range, Bool.and_eq_true] at hk
  obtain ⟨hlt, hon, -⟩ := hk
  have hlt : k < 64 := hlt
  have hlarge : k < 65536 := by omega
  exact fun a ha => .inl ⟨k, hlt, h.enabled hlarge ▸ hon, ha⟩

/-- The wet condition of a group writes the states of its keys, which are enabled, and its own registers (R369). -/
theorem State.Senses.groupScan {g : Nat} (hg : g < 8) : s.Senses (t.groupScan g) s.scanMarks := by
  have hlost : regKey 0x5C20_04 0 ∈ s.scanMarks := .inr (.inr rfl)
  have hwet : regKey 0x5C08_03 g ∈ s.scanMarks := .inr (.inl ⟨g, hg, .inl rfl⟩)
  have hcount : regKey 0x5C08_04 g ∈ s.scanMarks := .inr (.inl ⟨g, hg, .inr rfl⟩)
  have hdry : ∀ u : State, s.Senses u s.scanMarks → ∀ n,
      s.Senses { u with keys := { u.keys with dry := Tbl.put u.keys.dry g n } } s.scanMarks :=
    fun u hu n => hu.trans (u.senses_keys { u.keys with dry := Tbl.put u.keys.dry g n } rfl _)
  have hheld : ∀ u : State, s.Senses u s.scanMarks → s.Senses ((t.groupKeys g).foldl State.withhold u) s.scanMarks :=
    fun u hu => hu.foldl fun v hv k hk => hv.withhold (h.keyMarks_subset hk)
  have hfreed : ∀ u : State, s.Senses u s.scanMarks → s.Senses ((t.groupKeys g).foldl (fun t k =>
      if t.keyState k = 5 then (t.clearCounts k).setKeyState k 1 else t) u) s.scanMarks := by
    refine fun u hu => hu.foldl fun v hv k hk => ?_
    split
    · exact hv.dryKey (h.keyMarks_subset hk)
    · exact hv
  unfold State.groupScan
  dsimp only
  split
  · generalize (if _ < List.length _ then 0 else Tbl.get 0 t.keys.dry g + 1) = n
    split
    · exact hheld _ (hdry t h _)
    · exact (((hfreed _ (hdry t h _)).setReg hwet 0).record ..).queueKey hlost ..
  · split
    · exact ((((hdry _ (hheld t h) 0).setReg hwet 1).bump hcount).record ..).queueKey hlost ..
    · exact hfreed t h

end

/-- The scan of a key with no state leaves it (R365). -/
theorem State.scanKey_of_unscanned {k : Nat} (h : s.keyState k = 0) : s.scanKey k = s := by
  simp [State.scanKey, State.keyDecided, h]

/-- The scan of groups and keys writes no place of a key that the gate's readings left with no state (R365). -/
theorem State.scan_senses (hoff : ∀ k < 64, s.flag 0x5C10_02 k = false → s.keyState k = 0) :
    s.Senses ((List.range keyCount).foldl State.scanKey ((List.range 8).foldl State.groupScan s)) s.scanMarks := by
  have hgroups : s.Senses ((List.range 8).foldl State.groupScan s) s.scanMarks :=
    (State.Senses.refl s _).foldl fun u hu g hg => hu.groupScan (List.mem_range.mp hg)
  refine hgroups.foldl fun u hu k hk => ?_
  have hk : k < 64 := List.mem_range.mp hk
  have hlt : k < 65536 := by omega
  cases henabled : s.flag 0x5C10_02 k with
  | true => exact hu.scanKey fun a ha => .inl ⟨k, hk, henabled, ha⟩
  | false =>
    have hstate : regKey 0x5C10_0C k ∉ s.scanMarks := by
      intro hmem
      rcases State.mem_scanMarks hlt hmem with ⟨hon, -⟩ | hkey
      · rw [henabled] at hon
        cases hon
      · exact absurd hkey (by decide)
    rwa [State.scanKey_of_unscanned ((hu.reg hstate).trans (hoff k hk henabled))]

/-! ### The gate (R357-R372) -/

/-- The entries that a measurement gate may write. -/
def gateEntries : List Nat :=
  [0x1010_01, 0x1010_04, 0x5C08_03, 0x5C08_04, 0x5C10_0C, 0x5C10_0D, 0x5C10_0E, 0x5C10_0F, 0x5C10_11, 0x5C10_12, 0x5C20_04]

/-- The places of those entries. -/
def gateMarks : Set Nat := {a | a / 65536 ∈ gateEntries}

theorem mem_gateMarks {key inst : Nat} (hi : inst < 65536) (hkey : key ∈ gateEntries) : regKey key inst ∈ gateMarks := by
  rwa [gateMarks, Set.mem_ofPred_eq, regKey_entry key hi]

theorem keyMarks_subset_gateMarks {k : Nat} (hk : k < 65536) : keyMarks k ⊆ gateMarks := by
  intro a ha
  simp only [keyMarks, Set.mem_ofPred_eq, List.mem_cons, List.not_mem_nil, or_false] at ha
  rcases ha with rfl | rfl | rfl | rfl | rfl | rfl
  · exact mem_gateMarks hk (by decide)
  · exact mem_gateMarks hk (by decide)
  · exact mem_gateMarks hk (by decide)
  · exact mem_gateMarks hk (by decide)
  · exact mem_gateMarks hk (by decide)
  · exact mem_gateMarks (by decide) (by decide)

theorem readMarks_subset_gateMarks {k : Nat} (hk : k < 65536) : readMarks k ⊆ gateMarks :=
  Set.insert_subset (mem_gateMarks hk (by decide)) (keyMarks_subset_gateMarks hk)

theorem State.scanMarks_subset_gateMarks (s : State) : s.scanMarks ⊆ gateMarks := by
  rintro a (⟨k, hk, -, ha⟩ | ⟨g, hg, rfl | rfl⟩ | rfl)
  · exact keyMarks_subset_gateMarks (by omega) ha
  · exact mem_gateMarks (by omega) (by decide)
  · exact mem_gateMarks (by omega) (by decide)
  · exact mem_gateMarks (by decide) (by decide)

theorem State.noteGating_senses (s : State) (may : Set Nat) : s.Senses s.noteGating may := by
  unfold State.noteGating
  extract_lets short keys u
  have hu : s.Senses u may := s.senses_keys { s.keys with short := short } rfl may
  split
  · exact hu.record ..
  · exact hu

/-- With no commit that waits, a gate's start changes no field (R362). -/
theorem State.keyBoundary_senses (hw : s.commits.waiting = []) (may : Set Nat) : s.Senses s.keyBoundary may := by
  have happly : ∀ due, s.applyDue due = s := by
    intro due
    simp [State.applyDue, State.dueFields, hw]
  rw [State.keyBoundary, happly]
  exact s.noteGating_senses may

theorem State.noteActivity_senses (s : State) (may : Set Nat) : s.Senses s.noteActivity may := by
  unfold State.noteActivity
  split
  · exact s.senses_keys { s.keys with lastActive := s.now } rfl may
  · exact .refl s may

/-- The readings, the groups and the keys of a gate, in this order (R365). -/
def State.evaluate (s : State) (raw : Nat → Nat) : State :=
  (List.range keyCount).foldl State.scanKey
    ((List.range 8).foldl State.groupScan ((List.range keyCount).foldl (fun t k => t.readKey k (raw k)) s))

theorem State.evaluate_spec (s : State) (raw : Nat → Nat) :
    s.Senses (s.evaluate raw) gateMarks ∧ ∀ k < 64, (s.evaluate raw).Reads k (raw k) := by
  have hrange : ∀ k ∈ List.range keyCount, k < 65536 := fun k hk => Nat.lt_trans (List.mem_range.mp hk) (by decide)
  obtain ⟨hread, hreads⟩ := State.readKeys_spec raw (List.range keyCount) s hrange List.nodup_range
  unfold State.evaluate
  generalize (List.range keyCount).foldl (fun t k => t.readKey k (raw k)) s = u at hread hreads ⊢
  have hreads : ∀ k < 64, u.Reads k (raw k) := fun k hk => hreads k (List.mem_range.mpr hk)
  have hscan := u.scan_senses fun k hk => (hreads k hk).2
  refine ⟨(hread.mono ?_).trans (hscan.mono u.scanMarks_subset_gateMarks), fun k hk => ?_⟩
  · rintro a ⟨k, hk, ha⟩
    exact readMarks_subset_gateMarks (hrange k hk) ha
  · have hlt : k < 65536 := by omega
    refine (hreads k hk).senses hscan (State.not_mem_scanMarks hlt (by decide)) (State.not_mem_scanMarks hlt (by decide)) ?_
    intro hoff hmem
    rcases State.mem_scanMarks hlt hmem with ⟨hon, -⟩ | hkey
    · rw [hoff] at hon
      cases hon
    · exact absurd hkey (by decide)

theorem State.entriesBut.groupsBut {es gs : List Nat} (h : s.entriesBut t es) (hes : ∀ e ∈ es, e / 256 ∈ gs) : s.groupsBut t gs :=
  fun a ha => h a fun hmem => ha (by simpa [Nat.div_div_eq_div_mul] using hes _ hmem)

/-- The state that a gate evaluates: on the next scan, with the activity noted (R362, R372). -/
def State.gateBegun (s : State) : State :=
  State.noteActivity { s.keyBoundary with keys := { s.keyBoundary.keys with scan := s.keyBoundary.keys.scan + 1 } }

theorem State.gateBegun_spec (hw : s.commits.waiting = []) :
    (∀ a, Tbl.find s.gateBegun.regs a = Tbl.find s.regs a) ∧ s.gateBegun.keys.scan = s.keys.scan + 1 ∧ s.gateBegun.blobs = s.blobs ∧ s.gateBegun.shadow = s.shadow ∧
    s.gateBegun.sources = s.sources := by
  have hstart := State.keyBoundary_senses hw ∅
  have hactive := State.noteActivity_senses
    { s.keyBoundary with keys := { s.keyBoundary.keys with scan := s.keyBoundary.keys.scan + 1 } } ∅
  obtain ⟨hblobs, hshadow, hsources, hscan⟩ := hstart.kept
  obtain ⟨hblobs', hshadow', hsources', hscan'⟩ := hactive.kept
  exact ⟨fun a => (hactive.regs a (Set.notMem_empty a)).trans (hstart.regs a (Set.notMem_empty a)),
    hscan'.trans (congrArg (· + 1) hscan), hblobs'.trans hblobs, hshadow'.trans hshadow, hsources'.trans hsources⟩

/-- A gate's end: the next is scheduled, and with every start-up state decided the keys are ready (R361, R372, R398). -/
def State.endGate (s : State) (opened : Nat) : State :=
  let u := s.noteActivity.scheduleGate opened
  if (List.range keyCount).all fun k => !(u.key k).starting then u.setReady 1 else u

/-- The places that show what is ready (R398). -/
def readyMarks : Set Nat := {a | a / 65536 ∈ [0x1010_01, 0x1010_04]}

theorem mem_readyMarks {key inst : Nat} (hi : inst < 65536) : regKey key inst ∈ readyMarks ↔ key ∈ [0x1010_01, 0x1010_04] := by
  rw [readyMarks, Set.mem_ofPred_eq, regKey_entry key hi]

theorem State.endGate_spec (s : State) (opened : Nat) :
    s.Senses (s.endGate opened) readyMarks ∧ (s.endGate opened).keys.openAt = some opened := by
  have hscheduled : s.Senses (s.noteActivity.scheduleGate opened) readyMarks :=
    (s.noteActivity_senses _).trans ⟨⟨_, _, _, _, rfl, rfl⟩, fun _ _ => rfl⟩
  have hopen : (s.noteActivity.scheduleGate opened).keys.openAt = some opened := rfl
  unfold State.endGate
  extract_lets u
  split
  · unfold State.setReady
    split
    · exact ⟨hscheduled, hopen⟩
    · refine ⟨((hscheduled.setReg ((mem_readyMarks (by decide)).mpr (by decide)) _).setReg
        ((mem_readyMarks (by decide)).mpr (by decide)) _).record .., ?_⟩
      rw [State.record_keys]
      exact hopen
  · exact ⟨hscheduled, hopen⟩

theorem State.gate_eq (s : State) (opened : Nat) (raw : List Nat) :
    s.gate opened raw = (s.gateBegun.evaluate fun k => raw.getD k 0).endGate opened := rfl

/-- What a measurement gate does: it is one more scan, it opened when it did, and it has noted the readings (R357, R358). -/
theorem State.gate_spec (hw : s.commits.waiting = []) (opened : Nat) (raw : List Nat) :
    (s.gate opened raw).keys.scan = s.keys.scan + 1 ∧ (s.gate opened raw).keys.openAt = some opened ∧
      (∀ k < 64, (s.gate opened raw).Reads k (raw.getD k 0)) ∧ s.entriesBut (s.gate opened raw) gateEntries ∧
      (s.gate opened raw).blobs = s.blobs ∧ (s.gate opened raw).shadow = s.shadow ∧ (s.gate opened raw).sources = s.sources := by
  obtain ⟨hregs, hscan, hblobs, hshadow, hsources⟩ := State.gateBegun_spec hw
  rw [State.gate_eq]
  generalize s.gateBegun = b at hregs hscan hblobs hshadow hsources ⊢
  obtain ⟨heval, hreads⟩ := b.evaluate_spec fun k => raw.getD k 0
  generalize (b.evaluate fun k => raw.getD k 0) = u at heval hreads ⊢
  obtain ⟨hend, hopen⟩ := u.endGate_spec opened
  generalize u.endGate opened = t at hend hopen ⊢
  have hall : b.Senses t gateMarks := heval.trans (hend.mono ?_)
  · obtain ⟨hblobs', hshadow', hsources', hscan'⟩ := hall.kept
    refine ⟨hscan'.trans hscan, hopen, fun k hk => ?_, fun a ha => (hall.regs a ha).trans (hregs a), hblobs'.trans hblobs,
      hshadow'.trans hshadow, hsources'.trans hsources⟩
    have hother : ∀ {key : Nat}, key ∉ [0x1010_01, 0x1010_04] → regKey key k ∉ readyMarks :=
      fun hkey hmem => hkey ((mem_readyMarks (by omega)).mp hmem)
    exact (hreads k hk).senses hend (hother (by decide)) (hother (by decide)) fun _ => hother (by decide)
  · exact fun a ha => List.mem_append_left (as := [0x1010_01, 0x1010_04]) _ ha

/-- A change of the power domains leaves what a gate's readings are of a key. -/
theorem State.entriesBut.reads {k raw : Nat} (h : s.entriesBut t [0x6400_02, 0x6400_05]) (hsrc : t.sources = s.sources)
    (hk : k < 65536) (hreads : s.Reads k raw) : t.Reads k raw := by
  obtain ⟨hon, hoff⟩ := hreads
  unfold State.Reads State.flag State.keyState at *
  rw [h.reg hsrc (by decide) hk, h.reg hsrc (by decide) hk, h.reg hsrc (by decide) hk]
  exact ⟨hon, hoff⟩

/-- After a gate the front end's domain settles with the others, or powers down (R373, R389). -/
def State.settleFrontEnd (s : State) : State :=
  if s.keysNeeded || s.flag 0x6400_04 22 then s.settlePower else s.setReg 0x6400_02 22 3

theorem State.settleFrontEnd_spec (s : State) :
    s.entriesBut s.settleFrontEnd [0x6400_02, 0x6400_05] ∧ s.settleFrontEnd.keys = s.keys ∧ s.settleFrontEnd.blobs = s.blobs ∧
      s.settleFrontEnd.shadow = s.shadow ∧ s.settleFrontEnd.sources = s.sources ∧ s.settleFrontEnd.cells = s.cells ∧
      s.settleFrontEnd.still = s.still := by
  unfold State.settleFrontEnd
  split
  · have h := s.settlePower_settles
    obtain ⟨hblobs, hshadow, hsources, -, hcells, hstill, -⟩ := h.kept
    have hentries := h.entries
    obtain ⟨regs, a, b, heq⟩ := h.frame
    exact ⟨hentries, by rw [heq], hblobs, hshadow, hsources, hcells, hstill⟩
  · exact ⟨(s.entriesBut_refl _).setReg (by decide) (by decide) _, rfl, rfl, rfl, rfl, rfl, rfl⟩

theorem exec_measurementGate_due (raw : List (BitVec 16)) {g : Nat} (hl : s.live = true) (hf : s.flag 0x5C00_01 = true)
    (hd : s.domain 22 = 2) (hboot : s.power.booted = true) (hdue : s.gateDue = some g) :
    exec (.measurementGate raw) s = .next (s.gate g (raw.map (·.toNat))).settleFrontEnd := by
  simp [exec, execMeasurementGate, whenLive_next hl, hd, hdue, hf, hboot, State.settleFrontEnd]

/-- A gate that is due closes (R357, R358). -/
theorem exec_measurementGate_spec (raw : List (BitVec 16)) {g : Nat} (hl : s.live = true) (hf : s.flag 0x5C00_01 = true)
    (hd : s.domain 22 = 2) (hw : s.commits.waiting = []) (hboot : s.power.booted = true) (hdue : s.gateDue = some g) :
    ∃ t, exec (.measurementGate raw) s = .next t ∧ t.keys.scan = s.keys.scan + 1 ∧ t.keys.openAt = some g ∧
      (∀ k, k < 64 → s.flag 0x5C10_02 k = true → t.reg 0x5C10_0D k = (raw.map (·.toNat)).getD k 0) ∧
      (∀ k, k < 64 → s.flag 0x5C10_02 k = false → t.keyState k = 0) ∧
      s.groupsBut t [0x1010, 0x5C00, 0x5C08, 0x5C10, 0x5C20, 0x6400] ∧
      t.blobs = s.blobs ∧ t.shadow = s.shadow ∧ t.cells = s.cells ∧ t.still = s.still := by
  have hexec := exec_measurementGate_due raw hl hf hd hboot hdue
  obtain ⟨hscan, hopen, hreads, hentries, hblobs, hshadow, hsources⟩ := State.gate_spec hw g (raw.map (·.toNat))
  have hcells := State.gate_cells_of (rfl : s.cells = s.cells) g (raw.map (·.toNat))
  have hstill := State.gate_still_of (rfl : s.still = s.still) g (raw.map (·.toNat))
  generalize s.gate g (raw.map (·.toNat)) = u at *
  obtain ⟨hsettled, hkeys, hblobs', hshadow', hsources', hcells', hstill'⟩ := u.settleFrontEnd_spec
  generalize u.settleFrontEnd = t at *
  have hall : s.entriesBut t (gateEntries ++ [0x6400_02, 0x6400_05]) :=
    (hentries.mono (List.subset_append_left ..)).trans (hsettled.mono (List.subset_append_right ..))
  have henabled : ∀ k, k < 64 → t.flag 0x5C10_02 k = s.flag 0x5C10_02 k := fun k hk => by
    rw [State.flag, State.flag, hall.reg (hsources'.trans hsources) (by decide) (by omega)]
  have hnoted : ∀ k, k < 64 → t.Reads k ((raw.map (·.toNat)).getD k 0) := fun k hk =>
    hsettled.reads hsources' (by omega) (hreads k hk)
  refine ⟨t, hexec, by rw [hkeys, hscan], by rw [hkeys, hopen], fun k hk hon => ?_, fun k hk hoff => ?_, hall.groupsBut (by decide),
    hblobs'.trans hblobs, hshadow'.trans hshadow, hcells'.trans hcells, hstill'.trans hstill⟩
  · obtain ⟨hread, -⟩ := hnoted k hk
    exact hread ((henabled k hk).trans hon)
  · obtain ⟨-, hstate⟩ := hnoted k hk
    exact hstate ((henabled k hk).trans hoff)

theorem exec_measurementGate_notDue (raw : List (BitVec 16)) (h : s.gateDue = none ∨ s.power.booted = false) :
    exec (.measurementGate raw) s = .next s := by
  cases hl : s.live with
  | false => simp [exec, execMeasurementGate, whenLive, hl]
  | true =>
    simp only [exec, execMeasurementGate, whenLive_next hl]
    rcases h with h | h
    · simp only [h]
    · split
      · rfl
      · simp [h]

/-! ### The saves (R371) -/

/-- A save asked for starts, and is answered (R371). -/
theorem exec_saveBaselines_starts {ss v : Nat} (hm : s.managed = true) (hw : s.mayWrite ss 0x5C00_08 (.num v) = true)
    (hsaving : s.keys.saving = none) : ∃ acc, exec (.saveBaselines ss v) s = .next
      (State.reply { s with acc := acc, keys := { s.keys with saving := some s.baselinesNow } } ss .ok) := by
  obtain ⟨acc, hacc⟩ := s.touched_eq ss
  have hop : saveBaselinesOp (s.touched ss) ss (s.partOf ss 0x5C00_08) (.num v) =
      ({ s with acc := acc, keys := { s.keys with saving := some s.baselinesNow } }, .ok) := by
    rw [hacc]
    simp only [saveBaselinesOp, hsaving, Option.isSome_none, Bool.false_eq_true, if_false]
    rfl
  exact ⟨acc, ledgerWrite_next hm hw hop rfl⟩

/-- The save that is due starts by itself (R371). -/
theorem exec_autoBaselineSave_starts (hm : s.managed = true) (hhours : s.reg 0x5C00_07 ≠ 0) (hsaving : s.keys.saving = none)
    (hdue : s.keys.autoAt + s.reg 0x5C00_07 * 3600000000000 ≤ s.now) : exec .autoBaselineSave s = .next
      { s with keys := { s.keys with saving := some s.baselinesNow, autoAt := s.now } } := by
  have hdue : s.keys.autoAt + s.reg 0x5C00_07 * hour ≤ s.now := hdue
  simp [exec, execAutoBaselineSave, whenManaged_next hm, hhours, hsaving, hdue, State.startSave]

/-- With no mailbox that waits and no write that waits for the store, none is served (R415, R425). -/
theorem State.serveHeld_of_none (hheld : s.acc.heldWrites = []) (hmail : ∀ m, m < 4 → s.mailboxStatus m ≠ 1) :
    s.serveHeld = { s with acc := { s.acc with heldWrites := [] } } := by
  have hidle : ∀ m < 4, State.serveMailbox { s with acc := { s.acc with heldWrites := [] } } m =
      { s with acc := { s.acc with heldWrites := [] } } := by
    intro m hlt
    have hstatus : State.mailboxStatus { s with acc := { s.acc with heldWrites := [] } } m ≠ 1 := hmail m hlt
    rw [State.serveMailbox, if_pos]
    simp [hstatus]
  unfold State.serveHeld
  dsimp only
  rw [hheld]
  refine List.foldlRecOn (motive := fun u : State => u = { s with acc := { s.acc with heldWrites := [] } }) _ _ rfl ?_
  rintro _ rfl m hm
  exact hidle m (List.mem_range.mp hm)

/-- The state in which no save is running. -/
def State.saveEnded (s : State) : State := { s with keys := { s.keys with saving := none } }

/-- A write of the store changes its two copies and the register that shows them alone (R425). -/
theorem State.withStore_frame (s : State) (n : NvCopy) : ∃ a c, s.withStore n =
    { s with nvA := a, nvB := c, regs := Tbl.put s.regs (regKey 0x6800_08 0) (if n.saved.isSome then 1 else 0) } := by
  unfold State.withStore
  obtain ⟨a, c, hspare⟩ := s.setSpareNv_eq { n with generation := s.nv.generation + 1, valid := true }
  rw [hspare]
  exact ⟨a, c, rfl⟩

/-- A save of one key that is done stands in the store and in the ledger (R371, R425). -/
theorem State.endSave_done {e : StoreEnd} (he : e = .done ∨ e = .retried) (k b : Nat) : s.endSave [(k, b)] e =
    ((s.saveEnded.withStore { s.nv with baselines := Tbl.put s.nv.baselines k b }).setReg 0x5C10_10 k b).setReg 0x5C00_0F 0 s.wall := by
  unfold State.endSave
  dsimp only
  rw [State.writeNv_done _ he]
  rfl

/-- A save that fails spoils the copy of the store that is not in force, and is recorded (R425). -/
theorem State.endSave_failed (bs : Tbl Nat) : s.endSave bs .failed =
    (s.saveEnded.spareSpoiled.setReg 0x6800_08 0 3).record 0x113 (some (lg 0x0F)) 0 0x5C10_10 true := rfl

theorem exec_baselineSaveDone_ends {bs : Tbl Nat} {e : StoreEnd} (hm : s.managed = true) (hsaving : s.keys.saving = some bs)
    (he : e ≠ .powerLost) (hacc : (s.endSave bs e).acc = s.acc) (hheld : s.acc.heldWrites = [])
    (hmail : ∀ m, m < 4 → s.mailboxStatus m ≠ 1) : exec (.baselineSaveDone e) s = .next
      { s.endSave bs e with acc := { (s.endSave bs e).acc with heldWrites := [] } } := by
  have hserved := State.serveHeld_of_none (s := s.endSave bs e) (hacc ▸ hheld) (by unfold State.mailboxStatus; rwa [hacc])
  rw [← hserved]
  simp [exec, execBaselineSaveDone, whenManaged_next hm, hsaving, he]

theorem exec_baselineSaveDone_done {k b : Nat} {e : StoreEnd} (hm : s.managed = true) (hsaving : s.keys.saving = some [(k, b)])
    (hk : k < 64) (he : e = .done ∨ e = .retried) (hheld : s.acc.heldWrites = []) (hmail : ∀ m, m < 4 → s.mailboxStatus m ≠ 1) :
    ∃ t, exec (.baselineSaveDone e) s = .next t ∧ t.keys.saving = none ∧ Tbl.find t.nv.baselines k = some b ∧
      t.nv.generation = s.nv.generation + 1 ∧ t.reg 0x5C10_10 k = b ∧ t.reg 0x5C00_0F 0 = s.wall ∧ t.nv.regs = s.nv.regs ∧
      s.ledgerBut t [regKey 0x5C00_0F 0, regKey 0x5C10_10 k, regKey 0x6800_08 0] ∧ t.fuses = s.fuses ∧ t.pins = s.pins ∧
      t.log = s.log ∧ t.sent = s.sent ∧ t.cells = s.cells := by
  have hsaved := s.endSave_done he k b
  have hcut : e ≠ .powerLost := by rcases he with rfl | rfl <;> decide
  obtain ⟨a, c, hstore⟩ := s.saveEnded.withStore_frame { s.nv with baselines := Tbl.put s.nv.baselines k b }
  have hregs := s.saveEnded.withStore_regs { s.nv with baselines := Tbl.put s.nv.baselines k b }
  have hnv := s.saveEnded.withStore_nv { s.nv with baselines := Tbl.put s.nv.baselines k b }
  generalize s.saveEnded.withStore { s.nv with baselines := Tbl.put s.nv.baselines k b } = u at hsaved hstore hregs hnv
  have hstored : u.nv.regs = s.nv.regs := by rw [hnv]
  obtain ⟨hnone, hacc, hblobs, hshadow, hfuses, hpins, hlog, hsent, hcells⟩ : u.keys.saving = none ∧ u.acc = s.acc ∧
      u.blobs = s.blobs ∧ u.shadow = s.shadow ∧ u.fuses = s.fuses ∧ u.pins = s.pins ∧ u.log = s.log ∧ u.sent = s.sent ∧
      u.cells = s.cells := by
    rw [hstore]
    exact ⟨rfl, rfl, rfl, rfl, rfl, rfl, rfl, rfl, rfl⟩
  have hexec := exec_baselineSaveDone_ends hm hsaving hcut (by rw [hsaved]; exact hacc) hheld hmail
  rw [hsaved] at hexec
  refine ⟨_, hexec, hnone, ?_, ?_, ?_, State.reg_setReg_same .., ?_, ⟨?_, hblobs, hshadow⟩, hfuses, hpins, hlog, hsent, hcells⟩
  · exact (congrArg (fun n : NvCopy => Tbl.find n.baselines k) hnv).trans (Tbl.find_put_same ..)
  · exact congrArg (fun n : NvCopy => n.generation) hnv
  · exact (State.reg_setReg_key _ _ (by decide) (by decide) (by omega)).trans (State.reg_setReg_same ..)
  · exact hstored
  · exact State.regsBut_put (State.regsBut_put (State.regsBut_put (s.regsBut_refl _) hregs (by simp)) rfl (by simp)) rfl (by simp)

theorem exec_baselineSaveDone_failed {bs : Tbl Nat} (hm : s.managed = true) (hsaving : s.keys.saving = some bs)
    (hheld : s.acc.heldWrites = []) (hmail : ∀ m, m < 4 → s.mailboxStatus m ≠ 1) :
    ∃ t, exec (.baselineSaveDone .failed) s = .next t ∧ t.keys.saving = none ∧ t.newest 0x113 (some (lg 0x0F)) ∧
      t.reg 0x6800_08 0 = 3 ∧ t.nv = s.nv ∧ s.ledgerBut t [regKey 0x6800_08 0] ∧ s.sendsLog t ∧ t.cells = s.cells ∧ t.fuses = s.fuses ∧
      t.pins = s.pins := by
  have hfailed := s.endSave_failed bs
  obtain ⟨a, c, hspare⟩ := s.saveEnded.setSpareNv_eq { s.saveEnded.spareNv with valid := false }
  have hnv : State.nv { s.saveEnded with nvA := a, nvB := c } = s.nv := by
    rw [← hspare]
    exact State.nv_setSpareNv_invalid ..
  rw [State.spareSpoiled, hspare] at hfailed
  generalize hu : State.setReg { s.saveEnded with nvA := a, nvB := c } 0x6800_08 0 3 = u at hfailed
  have hlogs := u.record_logs 0x113 (some (lg 0x0F)) 0 0x5C10_10 true
  have hnewest := u.record_newest 0x113 (some (lg 0x0F)) 0 0x5C10_10 true
  have hsends := hlogs.raisesOnce.sendsLog
  obtain ⟨log, sent, hrec⟩ := hlogs.frame
  rw [hrec] at hfailed hnewest hsends
  subst hu
  have hexec := exec_baselineSaveDone_ends (e := .failed) hm hsaving (by decide) (by rw [hfailed]; rfl) hheld hmail
  rw [hfailed] at hexec
  exact ⟨_, hexec, rfl, hnewest, State.reg_setReg_same .., hnv,
    ⟨State.regsBut_put (s.regsBut_refl _) rfl (List.mem_singleton_self _), rfl, rfl⟩, hsends, rfl, rfl, rfl⟩

theorem exec_baselineSaveDone_powerLost {bs : Tbl Nat} (hm : s.managed = true) (hsaving : s.keys.saving = some bs) :
    exec (.baselineSaveDone .powerLost) s = .next s.powerOn := by
  simp [exec, execBaselineSaveDone, whenManaged_next hm, hsaving]

end

/-- Settles O55: a gate's readings are noted, and no later step of its evaluation writes one or gives a state to a key that is not
enabled (`State.evaluate_spec`); a save asked for or due starts, and its end is that of the write of the store. -/
theorem keysAreScannedAndSaved : Obligations.KeysAreScannedAndSaved := by
  unfold Obligations.KeysAreScannedAndSaved
  refine ⟨fun s raw g hl hf hd hw hboot hdue => exec_measurementGate_spec raw hl hf hd hw hboot hdue,
    fun s raw h => exec_measurementGate_notDue raw h, fun s ss v hm hw hsaving => ?asked, fun s hm hhours hsaving hdue => ?due,
    fun s k b e hm hsaving hk he hheld hmail => exec_baselineSaveDone_done hm hsaving hk he hheld hmail,
    fun s bs hm hsaving => ⟨_, exec_baselineSaveDone_powerLost hm hsaving, s.powerOn_wasReset⟩,
    fun s bs hm hsaving hheld hmail => exec_baselineSaveDone_failed hm hsaving hheld hmail⟩
  case asked =>
    obtain ⟨acc, hexec⟩ := exec_saveBaselines_starts hm hw hsaving
    exact ⟨_, hexec, rfl, rfl, rfl, rfl, rfl, rfl, rfl, rfl⟩
  case due =>
    exact ⟨_, exec_autoBaselineSave_starts hm hhours hsaving hdue, rfl, rfl, rfl, rfl, rfl, rfl, rfl, rfl, rfl⟩

end Sys2Proof.Machine
end
